-- ==== Sys2Proof/Word.lean ====
section
/-! DEFINITION. The word types of the engine, its time unit and the shape of a sparse table. -/
namespace Sys2Proof

/-- One byte. -/
abbrev Byte := BitVec 8

/-- One 32-bit word: a register, a token, a word of a binding. -/
abbrev Word := BitVec 32

/-- One 64-bit word: a tally, an instruction slot, a context word. -/
abbrev DWord := BitVec 64

/-- The payload of one flit (R126). -/
abbrev Payload := BitVec 512

/-- Time in units of 10 ps, so that every figure of the manual's budgets is a whole number (0.08 ns is 8). -/
abbrev Time := Nat

/-- A sparse array as plain data: keys strictly rising, no entry equal to what an unlisted key reads as. -/
abbrev Tab (α : Type) := List (Nat × α)

/-- One microsecond. -/
abbrev usec : Time := 100000

/-- One millisecond. -/
abbrev msec : Time := 100000000

/-- One second. -/
abbrev second : Time := 100000000000

end Sys2Proof
end

