-- ==== Sys2Proof/Config.lean ====
section
/-! DEFINITION. The values the manual leaves open, as constants without a body: nothing proved of the model can rest on
what they are. Each is named in a log entry. -/
namespace Sys2Proof.Config

open Sys2Proof

/-- The n-th value drawn from the engine's random source: tickets, challenges, fold randoms (log entry 2). -/
opaque random : Nat → DWord

/-- Whether an ECDSA P-384 signature over SHA-384 verifies: key, message, signature (log entry 3). -/
opaque ecdsaOk : List Byte → List Byte → List Byte → Bool

/-- HMAC-SHA-256 under a derived key: the key's label, the message (log entry 3). -/
opaque hmac : List Byte → List Byte → List Byte

/-- SHA-256 (log entry 3). -/
opaque sha256 : List Byte → List Byte

/-- AES-256-GCM opening under a derived key: label, nonce, sealed bytes; none where the tag fails (log entry 3). -/
opaque gcmOpen : List Byte → List Byte → List Byte → Option (List Byte)

/-- The AES-256-GCM tag under a derived key: label, data (log entry 3). -/
opaque gcmTag : List Byte → List Byte → List Byte

/-- Wrapping a derived key to a tenant's public key: label, public key, ordinal (log entry 3). -/
opaque wrapKey : List Byte → List Byte → Nat → List Byte

/-- What a burst reads as under a key or tweak other than the one it was written under, or where nothing has been
written: physical address, slot key (log entry 4). -/
opaque garbage : Nat → Nat → List Byte → List Byte

/-- The result of MAX, MIN or ARGMAX over a group that holds a NaN lane (log entry 5). -/
opaque reduceNan : Nat → List Word → Word

/-- The payload of a REPORT for a fold at a place, whose layout the manual does not give (log entry 91). -/
opaque reportPayload : Nat → Nat → Payload

/-- The payload of the SYS_RSP to a SYS_REQ's payload, whose layouts the manual does not give (log entry 91). -/
opaque sysRsp : Payload → Payload

/-- Whether the shepherd controller has enabled zero-run compression on lane 0 of an end: the manual gives it no command
(R151, log entry 91). -/
opaque lane0Compress : Nat → Bool

/-- Whether an image, named by its digest, sends no endpoint more than two flits of a held context before the handover: a matter of its
run, for which the manual gives no test (R535, log entry 62). -/
opaque heldFlits : List Byte → Bool

/-- How long a flash write begun at a moment takes, which the manual does not give (R71, R770, log entry 94). -/
opaque flashTime : Nat → Nat

end Sys2Proof.Config
end

