-- ==== Sys2Proof/Machine/Tab.lean ====
section
/-! DEFINITION. Reading and writing sparse tables, and small operations on lists and bits used throughout. -/
namespace Sys2Proof.Machine

open Sys2Proof

/-- What key `k` holds; `d` where it is not listed. -/
def tabGet {α : Type} (d : α) : Tab α → Nat → α
  | [], _ => d
  | (j, v) :: rest, k => if j = k then v else tabGet d rest k

/-- Remove key `k`. -/
def tabDel {α : Type} (t : Tab α) (k : Nat) : Tab α := t.filter fun p => p.1 != k

/-- Make key `k` hold `v`. Writing the default removes the entry, so equal tables are equal data. -/
def tabSet {α : Type} [DecidableEq α] (d : α) : Tab α → Nat → α → Tab α
  | [], k, v => if v = d then [] else [(k, v)]
  | (j, w) :: rest, k, v =>
    if k < j then (if v = d then tabDel ((j, w) :: rest) k else (k, v) :: (j, w) :: rest)
    else if k = j then (if v = d then tabDel rest k else (k, v) :: rest)
    else (j, w) :: tabSet d rest k v

/-- Change what key `k` holds. -/
def tabMod {α : Type} [DecidableEq α] (d : α) (t : Tab α) (k : Nat) (f : α → α) : Tab α :=
  tabSet d t k (f (tabGet d t k))

/-- Write each value of a list at consecutive keys. -/
def tabSetAll {α : Type} [DecidableEq α] (d : α) (t : Tab α) (k : Nat) : List α → Tab α
  | [] => t
  | v :: vs => tabSetAll d (tabSet d t k v) (k + 1) vs

/-- The values of `n` consecutive keys. -/
def tabRange {α : Type} (d : α) (t : Tab α) (k n : Nat) : List α :=
  (List.range n).map fun i => tabGet d t (k + i)

/-- Map every listed value; entries that become the default leave. -/
def tabMap {α : Type} [DecidableEq α] (d : α) (t : Tab α) (f : Nat → α → α) : Tab α :=
  (t.map fun p => (p.1, f p.1 p.2)).filter fun p => p.2 ≠ d

/-- The canonical form of a table whose keys all exceed the bound `lo` (exclusive, as `lo ≤ key`). -/
def tabWfFrom {α : Type} [DecidableEq α] (d : α) : Nat → Tab α → Bool
  | _, [] => true
  | lo, (k, v) :: rest => decide (lo ≤ k) && decide (v ≠ d) && tabWfFrom d (k + 1) rest

/-- The canonical form: keys strictly rising, no default entry. -/
def tabWf {α : Type} [DecidableEq α] (d : α) (t : Tab α) : Bool := tabWfFrom d 0 t

/-- Replace element `i` of a list. -/
def listSet {α : Type} : List α → Nat → α → List α
  | [], _, _ => []
  | _ :: xs, 0, v => v :: xs
  | x :: xs, i + 1, v => x :: listSet xs i v

/-- Drop the first element that satisfies `p`. -/
def dropFirst {α : Type} (p : α → Bool) : List α → List α
  | [] => []
  | x :: xs => if p x then xs else x :: dropFirst p xs

/-- Bits `lo` to `lo + n - 1` of a word, as a number. -/
def bitsOf {w : Nat} (x : BitVec w) (lo n : Nat) : Nat := (x.toNat >>> lo) % 2 ^ n

/-- Bit `i` of a word. -/
def bitAt {w : Nat} (x : BitVec w) (i : Nat) : Bool := x.getLsbD i

/-- Bits `lo` to `lo + n - 1` of a word, read as two's complement. -/
def sbitsOf {w : Nat} (x : BitVec w) (lo n : Nat) : Int :=
  let v := bitsOf x lo n
  if v < 2 ^ (n - 1) then (v : Int) else (v : Int) - 2 ^ n

/-- The number with the given bytes, least significant first. -/
def leNat : List Byte → Nat
  | [] => 0
  | b :: bs => b.toNat + 256 * leNat bs

/-- The number with the given bytes, most significant first. -/
def beNat (bs : List Byte) : Nat := leNat bs.reverse

/-- `n` bytes of a number, least significant first. -/
def leBytes : Nat → Nat → List Byte
  | 0, _ => []
  | n + 1, x => BitVec.ofNat 8 x :: leBytes n (x / 256)

/-- `n` bytes of a number, most significant first. -/
def beBytes (n x : Nat) : List Byte := (leBytes n x).reverse

/-- The `n` bytes from offset `o`, zero beyond the end. -/
def slice (bs : List Byte) (o n : Nat) : List Byte :=
  (List.range n).map fun i => bs.getD (o + i) 0

/-- The quotient rounded up. -/
def ceilDiv (a b : Nat) : Nat := (a + b - 1) / b

/-- Clamp an integer to a signed range of `n` bits; the flag says it was clamped. -/
def clampS (n : Nat) (x : Int) : Int × Bool :=
  if x > 2 ^ (n - 1) - 1 then (2 ^ (n - 1) - 1, true)
  else if x < -(2 ^ (n - 1)) then (-(2 ^ (n - 1)), true)
  else (x, false)

/-- Split a list into runs of `n` (fuel bounds the recursion; the last run may be short). -/
def chunksOf {α : Type} (n : Nat) : Nat → List α → List (List α)
  | 0, _ => []
  | f + 1, xs => if xs.isEmpty then [] else xs.take n :: chunksOf n f (xs.drop n)

/-- The first of `n` numbers from `i` up that satisfies `p`. -/
def findFrom (p : Nat → Bool) : Nat → Nat → Option Nat
  | 0, _ => none
  | n + 1, i => if p i then some i else findFrom p n (i + 1)

/-- The least natural number below `n` that satisfies `p`. -/
def findBelow (p : Nat → Bool) (n : Nat) : Option Nat := findFrom p n 0

/-- The first element a list meets that satisfies `p`, searching cyclically from just after position `last`. -/
def roundRobin (n last : Nat) (p : Nat → Bool) : Option Nat :=
  ((List.range n).map fun i => (last + 1 + i) % n).find? p

end Sys2Proof.Machine
end

