-- ==== Sys2Proof/Machine/Flit.lean ====
section
/-! DEFINITION. Places on the wafer and the flits that travel between them: locations, destination indices,
edge attachment, flit headers, link trailers, zero-run compression and the two CRCs
(*Wafer geography and addressing*, *The mesh, flits and links*). -/
namespace Sys2Proof.Machine

open Sys2Proof

/-! Locations (R48–R56). Directions are numbered 0 N, 1 E, 2 S, 3 W. -/

/-- The column of paddock `n` (R49). -/
def padCol (n : Nat) : Nat := n % 28

/-- The row of paddock `n` (R49). -/
def padRow (n : Nat) : Nat := n / 28

/-- The paddock at a location. -/
def padAt (c r : Nat) : Nat := 28 * r + c

/-- The field of paddock `n`: seven columns of fields, twelve rows (Table MAP-1, R9). -/
def fieldOf (n : Nat) : Nat := 7 * (padRow n / 4) + padCol n / 4

/-- The sixteen paddocks of field `f`, by local row and column. -/
def fieldPads (f : Nat) : List Nat :=
  (List.range 16).map fun i => padAt (4 * (f % 7) + i % 4) (4 * (f / 7) + i / 4)

/-- Whether paddock `n` is an F-paddock: local row 0 of its field (R7). -/
def isFine (n : Nat) : Bool := padRow n % 4 = 0

/-- Whether a destination index is listed in Table MAP-2 (R52). -/
def destListed (d : Nat) : Bool :=
  d < 1344 || (1536 ≤ d && d < 1560) || (1568 ≤ d && d < 1580) || (1600 ≤ d && d < 1616) || d = 1632 || d = 1633

def nedDest (k : Nat) : Nat := 1536 + k
def medDest (k : Nat) : Nat := 1568 + k
def spdDest (k : Nat) : Nat := 1600 + k
def shcDest (i : Nat) : Nat := 1632 + i

/-- The destination index of the die in slot `q` of an edge (Table MAP-4, R54). -/
def slotDie (edge q : Nat) : Nat :=
  if q < 4 then nedDest (6 * edge + q)
  else if q = 11 then nedDest (6 * edge + 4)
  else if q = 12 then nedDest (6 * edge + 5)
  else if q % 2 = 0 then spdDest (4 * edge + (q - 4) / 2)
  else medDest (3 * edge + (q - 5) / 2)

/-- The die attached across the outward border `dir` of paddock `n`, with which of its two edge ports (Table MAP-3). -/
def attachedDie (n dir : Nat) : Option (Nat × Nat) :=
  let c := padCol n
  let r := padRow n
  if dir = 2 && r = 0 then
    (if c < 2 then some (shcDest 0, c) else some (slotDie 0 ((c - 2) / 2), c % 2))
  else if dir = 0 && r = 47 then
    (if c ≥ 26 then some (shcDest 1, c - 26) else some (slotDie 2 (c / 2), c % 2))
  else if (dir = 1 && c = 27) || (dir = 3 && c = 0) then
    let edge := if dir = 1 then 1 else 3
    if r ≥ 46 then some (slotDie edge 12, r - 46)
    else if r % 4 < 2 then some (slotDie edge (r / 4), r % 4)
    else none
  else none

/-- The paddock behind edge port `e` of the die in slot `q` of an edge (Table MAP-3). -/
def slotPad (edge q e : Nat) : Nat × Nat :=
  if edge = 0 then (padAt (2 * q + 2 + e) 0, 2)
  else if edge = 2 then (padAt (2 * q + e) 47, 0)
  else
    let r := if q = 12 then 46 + e else 4 * q + e
    if edge = 1 then (padAt 27 r, 1) else (padAt 0 r, 3)

/-- The paddock and border behind edge port `e` of die `d` (a destination index). -/
def diePad (d e : Nat) : Nat × Nat :=
  if d = 1632 then (padAt e 0, 2)
  else if d = 1633 then (padAt (26 + e) 47, 0)
  else if d < 1568 then
    let k := d - 1536
    let i := k % 6
    slotPad (k / 6) (if i < 4 then i else i + 7) e
  else if d < 1600 then slotPad ((d - 1568) / 3) (2 * ((d - 1568) % 3) + 5) e
  else slotPad ((d - 1600) / 4) (2 * ((d - 1600) % 4) + 4) e

/-- The paddock across border `dir` of paddock `n`, if the border is internal. -/
def padBeyond (n dir : Nat) : Option Nat :=
  let c := padCol n
  let r := padRow n
  if dir = 0 then (if r < 47 then some (n + 28) else none)
  else if dir = 1 then (if c < 27 then some (n + 1) else none)
  else if dir = 2 then (if 0 < r then some (n - 28) else none)
  else (if 0 < c then some (n - 1) else none)

/-- The opposite direction. -/
def oppDir (dir : Nat) : Nat := (dir + 2) % 4

/-- One end of a border: `4·n + dir` for paddock `n`, `8192 + 2·d + e` for edge port `e` of die `d`. -/
def padEnd (n dir : Nat) : Nat := 4 * n + dir
def dieEnd (d e : Nat) : Nat := 8192 + 2 * d + e

/-- The end across the border from `x`; `none` for an edge border without an edge port (R55). -/
def peerEnd (x : Nat) : Option Nat :=
  if x < 5376 then
    match padBeyond (x / 4) (x % 4) with
    | some m => some (padEnd m (oppDir (x % 4)))
    | none => (attachedDie (x / 4) (x % 4)).map fun p => dieEnd p.1 p.2
  else if x ≥ 8192 then
    let p := diePad ((x - 8192) / 2) (x % 2)
    some (padEnd p.1 p.2)
  else none

/-- The key of one lane of one end. -/
def linkKey (x lane : Nat) : Nat := 4 * x + lane

/-! Flits (R126–R131). -/

/-- A flit: header fields of Table MESH-2 and payload. -/
structure Flit where
  typ : BitVec 4
  wafer : BitVec 4
  dest : BitVec 11
  endpt : BitVec 10
  fold : BitVec 6
  ctx : BitVec 2
  epoch : BitVec 3
  seq : BitVec 8
  tag : BitVec 16
  payload : Payload
deriving DecidableEq, Repr

/-- The empty flit: what a NULL beat carries. -/
def Flit.null : Flit := ⟨0, 0, 0, 0, 0, 0, 0, 0, 0, 0⟩

/-- Flit types (Table MESH-3). -/
abbrev ftNull : BitVec 4 := 0
abbrev ftData : BitVec 4 := 1
abbrev ftDataEnd : BitVec 4 := 2
abbrev ftBellwether : BitVec 4 := 3
abbrev ftMemReq : BitVec 4 := 4
abbrev ftMemRet : BitVec 4 := 5
abbrev ftSysReq : BitVec 4 := 6
abbrev ftSysRsp : BitVec 4 := 7
abbrev ftReport : BitVec 4 := 8

/-- The 64 header bits, bit 0 first (Table MESH-2). -/
def Flit.header (f : Flit) : BitVec 64 :=
  BitVec.ofNat 64 (f.typ.toNat + f.wafer.toNat * 2 ^ 4 + f.dest.toNat * 2 ^ 8 + f.endpt.toNat * 2 ^ 19
    + f.fold.toNat * 2 ^ 29 + f.ctx.toNat * 2 ^ 35 + f.epoch.toNat * 2 ^ 37 + f.seq.toNat * 2 ^ 40 + f.tag.toNat * 2 ^ 48)

/-- The flit that a header and a payload make. -/
def Flit.ofHeader (h : BitVec 64) (p : Payload) : Flit :=
  ⟨BitVec.ofNat 4 (bitsOf h 0 4), BitVec.ofNat 4 (bitsOf h 4 4), BitVec.ofNat 11 (bitsOf h 8 11),
   BitVec.ofNat 10 (bitsOf h 19 10), BitVec.ofNat 6 (bitsOf h 29 6), BitVec.ofNat 2 (bitsOf h 35 2),
   BitVec.ofNat 3 (bitsOf h 37 3), BitVec.ofNat 8 (bitsOf h 40 8), BitVec.ofNat 16 (bitsOf h 48 16), p⟩

/-- Word `i` of a payload, word 0 least significant. -/
def payWord (p : Payload) (i : Nat) : Word := BitVec.ofNat 32 (bitsOf p (32 * i) 32)

/-- The payload with the given words, word 0 first. -/
def payOfWords (ws : List Word) : Payload :=
  BitVec.ofNat 512 (ws.foldr (fun w acc => w.toNat + 2 ^ 32 * acc) 0)

/-- The 64 bytes of a payload. -/
def payBytes (p : Payload) : List Byte := leBytes 64 p.toNat

/-- The payload holding up to 64 bytes, the rest zero. -/
def payOfBytes (bs : List Byte) : Payload := BitVec.ofNat 512 (leNat (bs.take 64))

/-- Whether a flit type is reserved (R129). -/
def Flit.reservedType (f : Flit) : Bool := decide (f.typ.toNat > 8)

/-- The types that carry a fold's lease (R127): DATA, DATA_END, BELLWETHER, MEM_REQ, MEM_RET. -/
def Flit.isFoldType (f : Flit) : Bool := 1 ≤ f.typ.toNat && f.typ.toNat ≤ 5

/-- Whether a flit may travel on a lane and VC (R124). -/
def laneRuleOk (lane : Nat) (vc : Bool) (f : Flit) : Bool :=
  if f.fold = 0 then lane = 0 && !vc else lane ≠ 0 || vc

/-- Whether a paddock accepts a flit at its endpoint (R130). A BELLWETHER is the controller's whatever the endpoint. -/
def padAccepts (n : Nat) (f : Flit) : Bool :=
  if f.typ = ftSysReq || f.typ = ftBellwether then true
  else if f.typ = ftData || f.typ = ftDataEnd || f.typ = ftMemRet then
    isFine n || f.endpt.toNat ≤ 8
  else false

/-- Whether a die accepts a flit (Table MESH-4a, R131). -/
def dieAccepts (d : Nat) (f : Flit) : Bool :=
  if d ≥ 1632 then (f.typ = ftSysReq || f.typ = ftSysRsp || f.typ = ftReport) && f.fold = 0
  else if f.typ = ftSysReq then f.fold = 0
  else if d < 1560 then ((f.typ = ftData || f.typ = ftDataEnd) && f.endpt = 0) || f.typ = ftBellwether
  else if d < 1580 then (f.typ = ftMemReq || f.typ = ftData || f.typ = ftDataEnd) && f.endpt = 0
  else false

/-! Beats (R132, R133, R150). -/

/-- The trailer of a link beat (Table MESH-5). -/
structure Trailer where
  lseq : BitVec 5
  ack : BitVec 5
  nak : Bool
  down : Bool
  cc0 : BitVec 5
  cc1 : BitVec 5
  pair : Bool
deriving DecidableEq, Repr

/-- A 616-bit beat as it crosses a link: 576 bits of flit or pair, 24 of trailer, 16 of CRC. -/
abbrev BeatBits := BitVec 616

/-- The 24 bits of a trailer. -/
def Trailer.bits (t : Trailer) : Nat :=
  t.lseq.toNat + t.ack.toNat * 2 ^ 5 + (if t.nak then 2 ^ 10 else 0) + (if t.down then 2 ^ 11 else 0)
    + t.cc0.toNat * 2 ^ 12 + t.cc1.toNat * 2 ^ 17 + (if t.pair then 2 ^ 22 else 0)

/-- The trailer of a beat. -/
def beatTrailer (b : BeatBits) : Trailer :=
  ⟨BitVec.ofNat 5 (bitsOf b 576 5), BitVec.ofNat 5 (bitsOf b 581 5), bitAt b 586, bitAt b 587,
   BitVec.ofNat 5 (bitsOf b 588 5), BitVec.ofNat 5 (bitsOf b 593 5), bitAt b 598⟩

/-- One step of a CRC register of 16 bits with polynomial 0x1021, no reflection. -/
def crc16Step (crc : BitVec 16) (bit : Bool) : BitVec 16 :=
  let fb := crc.msb != bit
  let sh := crc <<< 1
  if fb then sh ^^^ 0x1021#16 else sh

/-- The CRC-16 of bits in transmission order, initial value 0xFFFF, no final XOR (R133). -/
def crc16Bits (bits : List Bool) : BitVec 16 := bits.foldl crc16Step 0xFFFF#16

/-- The CRC-16 of a beat's 600 covered bits, bit 0 first. -/
def beatCrc (b : BeatBits) : BitVec 16 := crc16Bits ((List.range 600).map fun i => b.getLsbD i)

/-- Whether a beat's CRC holds. -/
def beatGood (b : BeatBits) : Bool := beatCrc b = BitVec.ofNat 16 (bitsOf b 600 16)

/-- The payload words that are not zero: their mask and the words in ascending order (zero-run compression). -/
def compressMask (p : Payload) : Nat :=
  ((List.range 16).map fun i => if payWord p i = 0 then 0 else 2 ^ i).sum

def compressWords (p : Payload) : List Word := ((List.range 16).map (payWord p)).filter (· ≠ 0)

/-- Whether a payload may share a beat: at most six nonzero words (R150). -/
def compressible (p : Payload) : Bool := (compressWords p).length ≤ 6

/-- The bits of a compressed payload and how many they are: mask, then the nonzero words. -/
def compressBits (p : Payload) : Nat × Nat :=
  let ws := compressWords p
  (compressMask p + 2 ^ 16 * (ws.foldr (fun w acc => w.toNat + 2 ^ 32 * acc) 0), 16 + 32 * ws.length)

/-- Restore the payload that a mask and the following words give, reading from bit `o` of a beat; answers its length. -/
def decompressAt (b : Nat) (o : Nat) : Payload × Nat :=
  let mask := (b >>> o) % 2 ^ 16
  let step (acc : List Word × Nat) (i : Nat) : List Word × Nat :=
    if mask / 2 ^ i % 2 = 1 then (acc.1 ++ [BitVec.ofNat 32 (b >>> acc.2)], acc.2 + 32) else (acc.1 ++ [0], acc.2)
  let r := (List.range 16).foldl step ([], o + 16)
  (payOfWords r.1, r.2)

/-- The flits a good beat carries: none for a NULL beat, two when PAIR is set. -/
def beatFlits (b : BeatBits) : List Flit :=
  if bitAt b 598 then
    let v := b.toNat % 2 ^ 576
    let a := decompressAt v 64
    let c := decompressAt v (a.2 + 64)
    [Flit.ofHeader (BitVec.ofNat 64 v) a.1, Flit.ofHeader (BitVec.ofNat 64 (v >>> a.2)) c.1]
  else
    let f := Flit.ofHeader (BitVec.ofNat 64 (bitsOf b 0 64)) (BitVec.ofNat 512 (bitsOf b 64 512))
    if f.typ = ftNull then [] else [f]

/-- The beat that carries the given flits (at most two) and trailer, its CRC computed. -/
def mkBeat (fs : List Flit) (t : Trailer) : BeatBits :=
  let body : Nat :=
    match fs with
    | [] => 0
    | [f] => f.header.toNat + 2 ^ 64 * f.payload.toNat
    | f :: g :: _ =>
      let a := compressBits f.payload
      let c := compressBits g.payload
      f.header.toNat + 2 ^ 64 * (a.1 + 2 ^ a.2 * (g.header.toNat + 2 ^ 64 * c.1))
  let v := body + 2 ^ 576 * t.bits
  BitVec.ofNat 616 (v + 2 ^ 600 * (beatCrc (BitVec.ofNat 616 v)).toNat)

/-! CRC-32 of Ethernet frames. -/

/-- One byte into the reflected CRC-32 register. -/
def crc32Byte (crc : Word) (b : Byte) : Word :=
  (List.range 8).foldl (fun c _ => if c.getLsbD 0 then (c >>> 1) ^^^ 0xEDB88320#32 else c >>> 1)
    (crc ^^^ BitVec.ofNat 32 b.toNat)

/-- The four FCS bytes of a frame, in transmission order. -/
def fcsOf (bs : List Byte) : List Byte := leBytes 4 (~~~ (bs.foldl crc32Byte 0xFFFFFFFF#32)).toNat

end Sys2Proof.Machine
end

