-- ==== Sys2Proof/Machine/Mem.lean ====
section
/-! DEFINITION. A memory edge die: its lease table, key slots, queues, encrypted store, rotation and temperature state,
and what each does to a request (*Memory edge dies and HBM3*, R356–R394). -/
namespace Sys2Proof.Machine

open Sys2Proof

/-- A key by the label it is derived under; the empty label is a zeroed slot. What a key's bits are is never held. -/
abbrev KeyLabel := List Byte

/-- One 16-byte block as the stack holds it: the key and tweak it was encrypted under, and its plaintext. -/
structure HbmBlock where
  key : KeyLabel
  tweak : Nat
  plain : List Byte
deriving DecidableEq, Repr

/-- A block that nothing has written: it decrypts to an open value under every key. -/
def HbmBlock.empty : HbmBlock := ⟨[], 0, []⟩

/-- Bit fields of a lease entry (Table MEM-4). -/
def leState (e : DWord) : Nat := bitsOf e 0 2
def leFold (e : DWord) : Nat := bitsOf e 2 6
def leSpace (e : DWord) : Bool := bitAt e 8
def leIndex (e : DWord) : Nat := bitsOf e 9 30
def leGen (e : DWord) : Nat := bitsOf e 39 16

/-- A lease entry from its fields. -/
def leMake (st fold : Nat) (space : Bool) (index gen : Nat) : DWord :=
  BitVec.ofNat 64 (st % 4 + 2 ^ 2 * (fold % 64) + (if space then 2 ^ 8 else 0) + 2 ^ 9 * (index % 2 ^ 30) + 2 ^ 39 * (gen % 2 ^ 16))

/-- The same entry in another state. -/
def leWithState (e : DWord) (st : Nat) : DWord := leMake st (leFold e) (leSpace e) (leIndex e) (leGen e)

/-- How a burst comes back: the severity the stack's ECC reports, or a data parity error on the interface (Table MEM-2). -/
inductive EccSev where
  | clean | corrected | uncorrectable | parity
deriving DecidableEq, Repr

/-- Where a command arrived, and so where its returns leave: edge port, lane, VC (R382). -/
structure MedPort where
  e : Nat
  lane : Nat
  vc : Bool
deriving DecidableEq, Repr

/-- A read waiting in the request queue: its place in the order of command flits (R362), its page, the units left, whether its
next burst is being read again (R374), and whether that burst is being retried for a parity error (Table MEM-2). -/
structure MedReq where
  port : MedPort
  fold : Nat
  ctx : BitVec 2
  epoch : BitVec 3
  rid : BitVec 16
  rdest : Nat
  rendpt : Nat
  rwafer : Nat
  page : Nat
  off : Nat
  units : Nat
  next : Nat
  reread : Bool
  order : Nat
  parity : Bool
deriving DecidableEq, Repr

/-- A WR message whose data flits are still arriving: its port, its place in the order, its page and offset, its command flit and
the data flits so far (R361, R362). -/
structure MedPart where
  port : MedPort
  order : Nat
  page : Nat
  off : Nat
  cmd : Flit
  data : List Flit
deriving DecidableEq, Repr

/-- One 16-byte block in the write queue, with the place of its write in the order of command flits (R362, R363). -/
structure MedWrite where
  order : Nat
  addr : Nat
  block : HbmBlock
deriving DecidableEq, Repr

/-- One memory edge die. -/
structure Med where
  leases : Tab DWord
  /-- Key slot f (R372). -/
  slots : Tab KeyLabel
  queue : List MedReq
  /-- Write messages whose data is still arriving. -/
  partials : List MedPart
  /-- Writes acknowledged and not yet in the stack, in the order of their command flits (R362, R363). -/
  wq : List MedWrite
  /-- The place in the order that the next command flit takes (R362). -/
  orders : Nat
  /-- Pages whose re-read a revocation abandoned, with the moment (R388, R394). -/
  abandoned : List (Nat × Time)
  /-- The stack, by 16-byte block: page · 131,072 + offset / 16. -/
  store : Tab HbmBlock
  /-- Pages written with zeros by a scrub and not written since. -/
  zeroed : Tab Bool
  rotOn : Bool
  rotSlots : List Nat
  rotNext : Option (List Nat)
  rotPos : Nat
  /-- When the rotation slot in force began (R379). -/
  slotAt : Time
  /-- The row of Table MEM-5: 0 below 85 °C, 1, 2, 3 at 105 °C or above. -/
  tempRow : Nat
  /-- The last stack temperature read, in °C. -/
  temp : Option Nat
  selfRefresh : Bool
  doubt : Bool
  /-- The data rate is 4.8 Gb/s instead of 6.4 (Table MEM-2). -/
  slow : Bool
deriving DecidableEq, Repr

def Med.initial : Med :=
  { leases := [], slots := [], queue := [], partials := [], wq := [], orders := 0, abandoned := [], store := [], zeroed := [], rotOn := false,
    rotSlots := List.replicate 16 0, rotNext := none, rotPos := 0, slotAt := 0, tempRow := 0, temp := none, selfRefresh := false,
    doubt := false, slow := false }

/-- The canonical form of a stack's contents: blocks by rising address, none equal to what an unlisted one is. -/
def Med.wf (m : Med) : Bool := tabWf HbmBlock.empty m.store

/-- The lease entry of physical page `g`. -/
def Med.lease (m : Med) (g : Nat) : DWord := tabGet 0 m.leases g
def Med.setLease (m : Med) (g : Nat) (e : DWord) : Med := { m with leases := tabSet 0 m.leases g e }

/-- The LEASED page of a fold's index (R366). -/
def Med.findPage (m : Med) (fold : Nat) (space : Bool) (index : Nat) : Option Nat :=
  (m.leases.find? fun p => leState p.2 = 1 && leFold p.2 = fold && leSpace p.2 = space && leIndex p.2 = index).map (·.1)

/-- Whether an index is leased to another fold. -/
def Med.otherOwns (m : Med) (fold : Nat) (space : Bool) (index : Nat) : Bool :=
  m.leases.any fun p => leState p.2 = 1 && leFold p.2 ≠ fold && leSpace p.2 = space && leIndex p.2 = index

/-- Whether a matching page has been revoked: its entry now SCRUB or RETIRED (R368). -/
def Med.wasRevoked (m : Med) (fold : Nat) (space : Bool) (index : Nat) : Bool :=
  m.leases.any fun p => (leState p.2 = 2 || leState p.2 = 3) && leFold p.2 = fold && leSpace p.2 = space && leIndex p.2 = index

/-- The FREE pages. -/
def Med.freePages (m : Med) : List Nat := (List.range 12288).filter fun g => leState (m.lease g) = 0

/-- The first `n` FREE pages, found without listing more than needed. -/
def Med.takeFree (m : Med) (n : Nat) : List Nat := (m.freePages).take n

/-- Lease a page: its generation rises by one (Table MEM-4). -/
def Med.leasePage (m : Med) (g fold : Nat) (space : Bool) (index : Nat) : Med :=
  m.setLease g (leMake 1 fold space index (leGen (m.lease g) + 1))

/-- The XTS tweak of the unit that holds an offset (R371). -/
def xtsTweak (e : DWord) (med off : Nat) : Nat :=
  off / 4096 + 2 ^ 9 * leIndex e + (if leSpace e then 2 ^ 39 else 0) + 2 ^ 40 * leGen e + 2 ^ 56 * med

/-- The key of a 16-byte block. -/
def blockAddr (page off : Nat) : Nat := page * 131072 + off / 16

/-- The pseudo-channel that byte `off` of a page lies on: an aligned 2 KiB run touches each of the 32 once (R357). -/
def pseudoChannel (off : Nat) : Nat := off / 64 % 32

/-- The block a request of place `order` finds at an address: the last earlier write still in the write queue, else the stack
(R362). -/
def Med.blockFor (m : Med) (order a : Nat) : HbmBlock :=
  match m.wq.reverse.find? fun w => w.addr = a && decide (w.order < order) with
  | some w => w.block
  | none => tabGet HbmBlock.empty m.store a

/-- The plaintext of one block under a slot key and tweak: what was written under them, otherwise an open value. -/
def Med.readBlock (m : Med) (order : Nat) (key : KeyLabel) (tweak a : Nat) : List Byte :=
  let b := m.blockFor order a
  if b.key = key && b.tweak = tweak && key ≠ [] then b.plain else slice (Config.garbage a tweak key) 0 16

/-- The plaintext of `n` blocks of a page, as a request of place `order` reads them (R362, R371). -/
def Med.readBytes (m : Med) (order med page off n : Nat) : List Byte :=
  let e := m.lease page
  let key := tabGet [] m.slots (leFold e)
  (List.range n).flatMap fun i => m.readBlock order key (xtsTweak e med (off + 16 * i)) (blockAddr page (off + 16 * i))

/-- Put bytes of a page into the write queue at their write's place, encrypted under the fold's slot (R362, R363, R371). -/
def Med.writeBytes (m : Med) (order med page off : Nat) (bs : List Byte) : Med :=
  let e := m.lease page
  let key := tabGet [] m.slots (leFold e)
  let new : List MedWrite := (List.range (bs.length / 16)).map fun i =>
    ⟨order, blockAddr page (off + 16 * i), ⟨key, xtsTweak e med (off + 16 * i), slice bs (16 * i) 16⟩⟩
  { m with wq := m.wq.filter (fun w => decide (w.order ≤ order)) ++ new ++ m.wq.filter fun w => decide (order < w.order) }

/-- Write the writes earlier than place `order` out to the stack. -/
def Med.drain (m : Med) (order : Nat) : Med :=
  let out := m.wq.filter fun w => decide (w.order < order)
  { m with
    store := out.foldl (fun s w => tabSet HbmBlock.empty s w.addr w.block) m.store
    zeroed := out.foldl (fun z w => tabSet false z (w.addr / 131072) false) m.zeroed
    wq := m.wq.filter fun w => decide (order ≤ w.order) }

/-- Write the whole write queue out to the stack. -/
def Med.flush (m : Med) : Med := m.drain m.orders

/-- The place of the oldest request that is not finished: writes before it may go to the stack. -/
def Med.horizon (m : Med) : Nat := (m.queue.map (·.order) ++ m.partials.map (·.order)).foldl min m.orders

/-- The blocks that WR messages still arriving will put into the write queue. -/
def Med.owed (m : Med) : Nat := (m.partials.map fun x => 4 * (bitsOf (payWord x.cmd.payload 0) 3 5 + 1)).sum

/-- Make room for `n` more blocks in the write queue of 1,024: what may go to the stack is written out when they would not fit
(log entry 23). -/
def Med.room (m : Med) (n : Nat) : Med := if 1024 < m.wq.length + m.owed + n then m.drain m.horizon else m

/-- Whether the write queue and the request queue have room for a request of `n` blocks to write (R361, Table MEM-9). -/
def Med.hasRoom (m : Med) (n : Nat) : Bool :=
  decide (m.wq.length + m.owed + n ≤ 1024) && decide (m.queue.length + m.partials.length < 512)

/-! Requests (Table MEM-3). -/

def mrOp (f : Flit) : Nat := bitsOf (payWord f.payload 0) 0 2
def mrSession (f : Flit) : Bool := bitAt (payWord f.payload 0) 2
def mrUnits (f : Flit) : Nat := bitsOf (payWord f.payload 0) 3 5 + 1
def mrInl (f : Flit) : Nat := bitsOf (payWord f.payload 0) 8 2 + 1
def mrAddr (f : Flit) : Nat :=
  if mrSession f then bitsOf (payWord f.payload 1) 0 21
  else (payWord f.payload 1).toNat + 2 ^ 32 * bitsOf (payWord f.payload 2) 0 5
def mrRdest (f : Flit) : Nat := bitsOf (payWord f.payload 3) 0 11
def mrRendpt (f : Flit) : Nat := bitsOf (payWord f.payload 3) 11 10
def mrRwafer (f : Flit) : Nat := bitsOf (payWord f.payload 3) 21 4

/-- INDEX of the request's page and the byte offset within it (R358, Table MEM-4). -/
def mrIndex (f : Flit) : Nat :=
  if mrSession f then bitsOf (payWord f.payload 2) 0 14 + 2 ^ 14 * bitsOf (payWord f.payload 2) 14 15
  else mrAddr f / 2097152
def mrOff (f : Flit) : Nat := mrAddr f % 2097152

/-- The bytes a request covers. -/
def mrLen (f : Flit) : Nat := if mrOp f = 2 then 16 * mrInl f else 64 * mrUnits f

/-- Whether a command flit breaks R361 or holds a reserved code. A request that crosses a 2 KiB boundary breaks R359 and is
answered like one that breaks R361 (DEDUCED: log entry 97). -/
def mrMalformed (f : Flit) : Bool :=
  let op := mrOp f
  let reserved := decide (bitsOf (payWord f.payload 0) 10 22 ≠ 0) || decide (bitsOf (payWord f.payload 3) 25 7 ≠ 0)
    || (op ≠ 2 && decide (bitsOf (payWord f.payload 0) 8 2 ≠ 0))
    || (mrSession f && (decide (bitsOf (payWord f.payload 2) 29 3 ≠ 0) || decide (bitsOf (payWord f.payload 1) 21 11 ≠ 0)))
    || (!mrSession f && decide (bitsOf (payWord f.payload 2) 5 27 ≠ 0))
  let align := if op = 2 then mrOff f % 16 else mrOff f % 64
  f.typ ≠ ftMemReq || f.seq ≠ 0 || op = 3 || (op = 2 && mrInl f > 3) || reserved || align ≠ 0 || decide (mrOff f % 2048 + mrLen f > 2048)

/-- A MEM_RET flit: a unit of data, or a status flit with sequence 255 (R382, R383). -/
def memRet (f : Flit) (seq : Nat) (p : Payload) : Flit :=
  ⟨ftMemRet, BitVec.ofNat 4 (mrRwafer f), BitVec.ofNat 11 (mrRdest f), BitVec.ofNat 10 (mrRendpt f), f.fold, f.ctx,
   f.epoch, BitVec.ofNat 8 seq, f.tag, p⟩

/-- The return of a queued read. -/
def reqRet (r : MedReq) (seq : Nat) (p : Payload) : Flit :=
  ⟨ftMemRet, BitVec.ofNat 4 r.rwafer, BitVec.ofNat 11 r.rdest, BitVec.ofNat 10 r.rendpt, BitVec.ofNat 6 r.fold, r.ctx,
   r.epoch, BitVec.ofNat 8 seq, r.rid, p⟩

/-- Status codes (Table MEM-6). -/
abbrev msOk : Nat := 0
abbrev msUnmapped : Nat := 1
abbrev msRevoked : Nat := 2
abbrev msUncorrectable : Nat := 3
abbrev msMalformed : Nat := 4

/-- What a MED does with a message: its new state, the flits it answers, and a stile violation of a fold. -/
structure MedOut where
  m : Med
  send : List (MedPort × Flit)
  violation : Bool
deriving DecidableEq, Repr

/-- Take a command flit (R360–R363, R366, R368, R383): malformed, revoked and unmapped requests are answered, another fold's page is a
violation, a read is queued, a WR waits for its data, a WRI is written and acknowledged. None where a queue is full: the flit stays
behind its credits. -/
def Med.open (m : Med) (med : Nat) (p : MedPort) (f : Flit) : Option MedOut :=
  let status (c : Nat) : Option MedOut := some ⟨m, [(p, memRet f 255 (BitVec.ofNat 512 c))], false⟩
  let fold := f.fold.toNat
  if mrMalformed f then status msMalformed
  else
    match m.findPage fold (mrSession f) (mrIndex f) with
    | none =>
      if m.wasRevoked fold (mrSession f) (mrIndex f) then status msRevoked
      else if m.otherOwns fold (mrSession f) (mrIndex f) then some ⟨m, [], true⟩
      else status msUnmapped
    | some g =>
      let n := if mrOp f = 0 then 0 else mrLen f / 16
      let m1 := m.room n
      if !m1.hasRoom n then none
      else
        let m2 := { m1 with orders := m1.orders + 1 }
        if mrOp f = 0 then
          some ⟨{ m2 with queue := m2.queue ++ [⟨p, fold, f.ctx, f.epoch, f.tag, mrRdest f, mrRendpt f, mrRwafer f, g, mrOff f,
            mrUnits f, 0, false, m.orders, false⟩] }, [], false⟩
        else if mrOp f = 1 then some ⟨{ m2 with partials := m2.partials ++ [⟨p, m.orders, g, mrOff f, f, []⟩] }, [], false⟩
        else some ⟨m2.writeBytes m.orders med g (mrOff f) (slice (payBytes f.payload) 16 (mrLen f)), [(p, memRet f 255 0)], false⟩

/-- Whether a data flit belongs to a WR message that is still arriving: same port, lane and VC, tag, fold and context (R361). -/
def MedPart.mine (x : MedPart) (p : MedPort) (f : Flit) : Bool :=
  x.port = p && x.cmd.tag = f.tag && x.cmd.fold = f.fold && x.cmd.ctx = f.ctx && x.cmd.epoch = f.epoch

/-- Take a data flit (R361, R363): the last one of a WR puts its data into the write queue and acknowledges it; one that breaks R361
ends its message as MALFORMED; one of no message in progress is dropped (R368). -/
def Med.data (m : Med) (med : Nat) (p : MedPort) (f : Flit) : MedOut :=
  match m.partials.find? fun x => x.mine p f with
  | none => ⟨m, [], false⟩
  | some x =>
    let m1 := { m with partials := dropFirst (fun y => decide (y = x)) m.partials }
    let i := x.data.length + 1
    let last := i = mrUnits x.cmd
    if f.seq.toNat ≠ i || f.typ ≠ (if last then ftDataEnd else ftData) then ⟨m1, [(p, memRet x.cmd 255 (BitVec.ofNat 512 msMalformed))], false⟩
    else if last then
      ⟨m1.writeBytes x.order med x.page x.off ((x.data ++ [f]).flatMap fun d => payBytes d.payload), [(p, memRet x.cmd 255 0)], false⟩
    else ⟨{ m with partials := m.partials.map fun y => if y = x then { x with data := x.data ++ [f] } else y }, [], false⟩

/-- Take one flit. -/
def Med.take (m : Med) (med : Nat) (p : MedPort) (f : Flit) : Option MedOut :=
  if f.typ = ftMemReq then m.open med p f else some (m.data med p f)

/-- The fold whose commands may issue now: every fold, or in rotation only the slot's, in the slot's first 40 ns (R379). -/
def Med.mayIssue (m : Med) (fold : Nat) (now : Time) : Bool :=
  !m.rotOn || (m.rotSlots.getD m.rotPos 0 = fold && decide (now < m.slotAt + 4000))

/-- The next unit of a read waits on an earlier WR of the same bytes that is still arriving (R362). -/
def Med.behind (m : Med) (r : MedReq) : Bool :=
  m.partials.any fun x => decide (x.order < r.order) && x.page = r.page && decide (x.off < r.off + 64 * r.next + 64)
    && decide (r.off + 64 * r.next < x.off + mrLen x.cmd)

/-- What one burst does (R374, R382). `retire` names a page to retire, with its entry; `lasting` says that the stack interface has
failed (R386). -/
structure BurstOut where
  m : Med
  send : List (MedPort × Flit)
  corrected : Nat
  transient : Nat
  parity : Nat
  lasting : Bool
  retire : Option (Nat × DWord)
deriving DecidableEq, Repr

/-- Nothing happens. -/
def BurstOut.none (m : Med) : BurstOut := ⟨m, [], 0, 0, 0, false, Option.none⟩

/-- Deliver the next unit of queued read `i`. -/
def Med.deliver (m : Med) (med i : Nat) (r : MedReq) : BurstOut :=
  let bs := m.readBytes r.order med r.page (r.off + 64 * r.next) 4
  let q := if r.next + 1 < r.units then listSet m.queue i { r with next := r.next + 1, reread := false, parity := false } else m.queue.eraseIdx i
  { BurstOut.none { m with queue := q } with send := [(r.port, reqRet r r.next (payOfBytes bs))], parity := if r.parity then 1 else 0 }

/-- Deliver the next unit of queued read `i`, or start its one re-read (R374) or its one parity retry (Table MEM-2); a second parity
failure is a lasting stack interface fault. -/
def Med.burst (m : Med) (med i : Nat) (sev : EccSev) (now : Time) : BurstOut :=
  match m.queue[i]? with
  | none => BurstOut.none m
  | some r =>
    if !m.mayIssue r.fold now || r.reread || m.behind r then BurstOut.none m
    else
      match sev with
      | .parity =>
        if r.parity then { BurstOut.none m with lasting := true }
        else BurstOut.none { m with queue := listSet m.queue i { r with parity := true } }
      | .uncorrectable => { BurstOut.none { m with queue := listSet m.queue i { r with reread := true, parity := false } } with
          parity := if r.parity then 1 else 0 }
      | .corrected => { m.deliver med i r with corrected := 1 }
      | .clean => m.deliver med i r

/-- Revoke a page: SCRUB, or RETIRED; queued reads and unfinished writes of it are answered REVOKED and its unwritten data is dropped
(R368, R387, R388). The answer counts abandoned re-reads. -/
def Med.revoke (m : Med) (page : Nat) (retire : Bool) : Med × List (MedPort × Flit) × Nat :=
  let e := m.lease page
  let hit := m.queue.filter fun r => r.page = page
  ({ m with
      leases := tabSet 0 m.leases page (leWithState e (if retire then 3 else 2))
      queue := m.queue.filter fun r => r.page ≠ page
      partials := m.partials.filter fun x => x.page ≠ page
      wq := m.wq.filter fun w => w.addr / 131072 ≠ page },
   hit.map (fun r => (r.port, reqRet r 255 (BitVec.ofNat 512 msRevoked)))
     ++ (m.partials.filter fun x => x.page = page).map fun x => (x.port, memRet x.cmd 255 (BitVec.ofNat 512 msRevoked)),
   (hit.filter fun r => r.reread).length)

/-- The re-read of a burst is judged (R374): delivered and counted, or the page is retired and the request answered. A bad verdict on a
page that a release revoked at this moment retires the page and does nothing else (R394). -/
def Med.rereadVerdict (m : Med) (med : Nat) (good : Bool) (now : Time) : BurstOut :=
  match (m.queue.zip (List.range m.queue.length)).find? fun p => p.1.reread with
  | none =>
    match m.abandoned.find? fun p => p.2 = now && leState (m.lease p.1) = 2 with
    | none => BurstOut.none m
    | some p => if good then BurstOut.none m
      else { BurstOut.none (m.setLease p.1 (leWithState (m.lease p.1) 3)) with retire := some (p.1, leWithState (m.lease p.1) 3) }
  | some (r, i) =>
    if good then { m.deliver med i r with transient := 1 }
    else
      let e := m.lease r.page
      let m1 := { m with queue := m.queue.eraseIdx i }
      let rv := m1.revoke r.page true
      { BurstOut.none rv.1 with send := (r.port, reqRet r 255 (BitVec.ofNat 512 msUncorrectable)) :: rv.2.1, transient := rv.2.2, retire := some (r.page, e) }

/-- Zero a SCRUB page and set it FREE; its generation is kept (R369). -/
def Med.scrub (m : Med) (page : Nat) : Med :=
  let e := m.lease page
  if leState e = 2 then
    { m with
      store := m.store.filter fun b => b.1 / 131072 ≠ page
      zeroed := tabSet false m.zeroed page true
      leases := tabSet 0 m.leases page (leMake 0 0 false 0 (leGen e)) }
  else m

/-- The row of Table MEM-5 for a stack temperature. -/
def tempRowOf (t : Nat) : Nat := if t < 85 then 0 else if t < 95 then 1 else if t < 105 then 2 else 3

/-- The next rotation slot; a new assignment takes effect at the frame boundary (R379, R380, R392). -/
def Med.nextSlot (m : Med) (now : Time) : Med :=
  if m.rotPos + 1 < 16 then { m with rotPos := m.rotPos + 1, slotAt := now }
  else
    match m.rotNext with
    | some s => { m with rotPos := 0, rotSlots := s, rotNext := none, slotAt := now }
    | none => { m with rotPos := 0, slotAt := now }

end Sys2Proof.Machine
end

