-- ==== Sys2Proof/Syntax.lean ====
section
/-! DEFINITION. The commands of the block: one constructor for each row of the opcode table, with the values the
environment brings. Event rows end in the moment `t` at which they fall; console rows end in the line `ln` that carried
them. A verdict that a test, a device or a check outside the engine reaches comes as an operand. -/
namespace Sys2Proof

open Sys2Proof.Machine (EccSev)

abbrev Pad := Fin 1344
abbrev FieldIx := Fin 84
abbrev NedIx := Fin 24
abbrev MedIx := Fin 12
abbrev SpdIx := Fin 16
abbrev ShcIx := Fin 2
abbrev Lane := Fin 4
abbrev CtxIx := Fin 4
/-- An end of a border: `4·n + dir` of a paddock, or `8192 + 2·d + e` of an edge port. -/
abbrev EndIx := Nat

/-- What one received console line carries beside its verb, object and arguments (R783, R791), the time at which it is
executed, and whether the flash or device that the command needs answered and read back (R619, R831). -/
structure Ln where
  /-- 0 and 1 are CON0 and CON1; 2 to 9 the TCP connections. -/
  sess : Nat
  tag : Option (List Byte)
  crc : Bool
  wafer : Option Nat
  dev : Bool
  t : Time
deriving DecidableEq, Repr

/-- A location value (Table SNF-3, Table CMD-1). Numbers are as written; whether they exist is judged at step 7. -/
inductive Loc where
  | pad (c r : Nat)
  | rect (c1 r1 c2 r2 : Nat)
  | slot (c r k : Nat)
  | field (x y : Nat)
deriving DecidableEq, Repr

/-- A companion die by the name a command gives it (Table CMD-1). -/
inductive DieName where
  | ned (k : Nat) | spd (k : Nat) | med (k : Nat) | shc (k : Nat)
deriving DecidableEq, Repr

/-- A binding value of a command (Table CMD-1). -/
structure BindArg where
  ned : Nat
  port : Nat
  vid : Option Nat
  v6 : Bool
  addr : List Byte
  udp : Option Nat
  bucket : Nat
  template : Nat
deriving DecidableEq, Repr

/-- A page run: linear indices `lo` to `hi` on a MED. -/
structure PageRun where
  lo : Nat
  hi : Nat
  med : Nat
deriving DecidableEq, Repr

/-- The optional keys of `create fold`. Times are in milliseconds. -/
structure FoldArgs where
  id : Option Nat
  lineage : List Byte
  wrap : List Byte
  /-- The other wafers that its locations name by prefix (R420, R811). -/
  wafers : List (Fin 16)
  paddocks : List Loc
  slots : List Loc
  pages : List PageRun
  sessions : Option (Nat × Nat)
  squota : Nat
  smeds : List Nat
  ckpt : Option Nat
  cmeds : List Nat
  cpages : Nat
  pen : Option Nat
  weight : Option Nat
deriving DecidableEq, Repr

/-- The keys of `resize fold`. -/
structure ResizeArgs where
  add : List Loc
  remove : List Loc
  pages : List PageRun
  dropPages : List PageRun
  squota : Option Nat
  cpages : Option Nat
deriving DecidableEq, Repr

/-- The keys of `set template`. -/
structure TemplateArgs where
  vlan : Option (Option (Option Nat))
  pcp : Option Nat
  dscp : Option Nat
  ttl : Option Nat
  udpsum : Option Bool
  len : Option Nat
  fill : Option Bool
  mac : Option (BitVec 48)
deriving DecidableEq, Repr

/-- The scopes of `show tally`. -/
inductive Scope where
  | fold | channel | paddock | link | port | ned | med | spd
deriving DecidableEq, Repr

/-- A privilege level (Table SNF-6a). -/
inductive Level where
  | view | operate | admin
deriving DecidableEq, Repr

/-- What one junction sensor sample reads, in units of 0.125 °C (R633, R635). -/
inductive Sample where
  | pad (n : Pad) (s0 s1 : Int)
  | ned (k : NedIx) (s : Int)
  | spd (k : SpdIx) (s : Int)
  | med (k : MedIx) (s : Int)
  | shc (k : ShcIx) (s : Int)
deriving DecidableEq, Repr

/-- What a PMBus transaction brings: each of its two tries answered with PEC right, or not (R619). -/
structure PmbRead where
  addr : Nat
  first : Bool
  second : Bool
  /-- READ_VOUT in millivolts and READ_IOUT in milliamperes for each page, and READ_PIN in milliwatts. -/
  pages : List (Nat × Nat)
  pin : Nat
deriving DecidableEq, Repr

/-- The trigger rows of Table FAULT-1. -/
inductive Trigger where
  | tileEcc | medUncorrectable | eccLasting | residue | auth | clockLost | ringLost | thermal | efuse | field | stile
  | routeMiss | unmapped | malformed | watchdog | linkNoDetour | med | spd | member
deriving DecidableEq, Repr

/-- The verdict of a paddock test (R714). -/
inductive PadVerdict where
  | pass | column (c : Nat) | fail
deriving DecidableEq, Repr

/-- A controller's heartbeat content (R741). -/
structure Beat where
  active : Bool
  firmware : Nat
  mirrorVersion : Nat
  mirrorSeq : Nat
  health : Nat
deriving DecidableEq, Repr

/-- What a flock member tells the others when the flock forms (R419). -/
structure MemberInfo where
  wafer : Fin 16
  flock : BitVec 32
  mask : BitVec 16
  /-- The wafers to which its links are UP, and whether its spare link is. -/
  links : BitVec 16
  spare : Bool
deriving DecidableEq, Repr

/-- The errors in the received units of a fine or coarse ic: which checks fail, as the hardware finds them. -/
structure IcFault where
  /-- How many single-bit errors were corrected (R216, R224, R245). -/
  corrected : Nat
  /-- An uncorrectable error or register parity error: tile, or V-unit stage 5–6 or stream buffer. -/
  fatal : Bool
  /-- The address generators that met a double-bit SRAM word: `2·unit + generator` (R245). -/
  double : List (Fin 8)
  /-- The V-units in which a residue check failed (R264). -/
  residue : List (Fin 4)
deriving DecidableEq, Repr

/-- What the NED's memories and result checks need of a received frame: identity, lane group timing and bytes. -/
structure FrameIn where
  /-- The frame, as the environment names it. -/
  fid : Nat
  port : Fin 8
  bytes : List Byte
  /-- When the first preamble bit reached the lands. -/
  t0 : Time
  /-- When the codeword group that holds the frame's first byte ends: the port's group boundaries follow from it (R88). -/
  groupEnd : Time
  /-- How many words of the die's binding, template, bucket, session and pen memory its lookup read a second time, and found good
  then. -/
  rereads : Nat
deriving DecidableEq, Repr

/-- What a port's decoder found of a codeword group: the bytes of a frame that it corrected, by position, and whether it could not
correct the group (R88, R96). -/
structure GroupRead where
  fixes : List (Nat × Byte)
  uncorrectable : Bool
deriving DecidableEq, Repr

/-- A reading of a stack: its temperature in °C, and the activate cycles lost to heat since the last one (R377, R852). -/
structure StackRead where
  temp : Nat
  lost : Nat
deriving DecidableEq, Repr

/-- A fault of a port's reconciliation sublayer, local or remote (R76). -/
structure PortFault where
  port : Fin 8
  remote : Bool
deriving DecidableEq, Repr

/-- The commands of spec/opcode_table.json, in its order. -/
inductive Instr where
  | resetAssert (t : Time)
  | resetRelease (jtagEn : Bool) (t : Time)
  | pwrFailAssert (t : Time)
  | pwrFailNedStop (t : Time)
  | pwrFailFlashFreeze (t : Time)
  | pwrFailDeassert (t : Time)
  | busSample (shc : ShcIx) (mvA mvB : Nat) (t : Time)
  | railDeparture (f : FieldIx) (vaon : Bool) (mv : Nat) (t : Time)
  | vcoreRecoveryVerdict (f : FieldIx) (back : Option Time) (t : Time)
  | railStep (f : FieldIx) (t : Time)
  | powerWaveStart (t : Time)
  | softStartComplete (n : Pad) (t : Time)
  | efuseTrip (n : Pad) (milliamps : Nat) (t : Time)
  | efuseRetry (n : Pad) (t : Time)
  | efuseRetryVerdict (n : Pad) (peak : Nat) (t : Time)
  | fieldStageShutdown (f : FieldIx) (vaon : Bool) (t : Time)
  | fieldRetry (f : FieldIx) (t : Time)
  | fieldRetryVerdict (f : FieldIx) (held : Bool) (t : Time)
  | pmbAlert (addr : Nat) (status : Nat) (t : Time)
  | telemetryRead (reads : List PmbRead) (t : Time)
  | pmbusRetryPoll (r : PmbRead) (t : Time)
  | clockStep (n : Pad) (t : Time)
  | islandClockLoss (n : Pad) (t : Time)
  | clockRelockVerdict (n : Pad) (locked : Option Time) (held : Bool) (t : Time)
  | ringLoss (f : FieldIx) (t : Time)
  | ringRelockVerdict (f : FieldIx) (locked : Option Time) (held : Bool) (t : Time)
  | meshLock (worstPpm : Nat) (t : Time)
  | referenceAbsent (edge : Option (Fin 4)) (t : Time)
  | referenceAbsentLong (edge : Option (Fin 4)) (t : Time)
  | referenceReturn (edge : Option (Fin 4)) (t : Time)
  | sensorSample (x : Sample) (t : Time)
  | throttleEval (f : FieldIx) (t : Time)
  | thermalTripRetry (n : Pad) (t : Time)
  | thermalRetryVerdict (n : Pad) (t : Time)
  | loopCheck (inlet outlet : Option Int) (t : Time)
  | linkBeatSend (x : EndIx) (lane : Lane) (t : Time)
  | beatReceived (x : EndIx) (lane : Lane) (vc0 vc1 : Bool) (b : BitVec 616) (t : Time)
  | replayTimeout (x : EndIx) (lane : Lane) (t : Time)
  | replayDownTimeout (x : EndIx) (lane : Lane) (t : Time)
  | receiverSilence (x : EndIx) (lane : Lane) (t : Time)
  | lane0Precompile (t : Time)
  | dockTransfer (n : Pad) (t : Time)
  | fineIssueCycle (n : Pad) (fault : IcFault) (t : Time)
  | watchdogExpiry (n : Pad) (k : CtxIx) (t : Time)
  | contextLeavePlan (n : Pad) (k : CtxIx) (t : Time)
  | coarseIssueCycle (n : Pad) (fault : IcFault) (t : Time)
  | eccRereadVerdict (n : Pad) (m : Fin 4) (good : Bool) (t : Time)
  | residueVerdict (n : Pad) (v : Fin 4) (good : Bool) (t : Time)
  | hbmxReturn (n : Pad) (m : Fin 4) (t : Time)
  | memReqReceived (k : MedIx) (e : Fin 2) (lane : Lane) (vc : Bool) (t : Time)
  | hbmBurstRead (k : MedIx) (j : Nat) (sev : EccSev) (t : Time)
  | hbmRereadVerdict (k : MedIx) (good : Bool) (t : Time)
  | stackTempRead (k : MedIx) (read : StackRead) (t : Time)
  | pageScrub (k : MedIx) (page : Fin 12288) (t : Time)
  | rotationSlot (k : MedIx) (t : Time)
  | medDoubt (k : MedIx) (cause : Nat) (t : Time)
  | spanBlockSend (j : SpdIx) (t : Time)
  | spanBlockReceived (j : SpdIx) (decoded replay : Bool) (symbols : Nat) (b : BitVec 2570) (t : Time)
  | spanReplayTimeout (j : SpdIx) (t : Time)
  | spanDownTimeout (j : SpdIx) (t : Time)
  | spanRxSilence (j : SpdIx) (t : Time)
  | trainBlockReceived (j : SpdIx) (locked : BitVec 16) (b : BitVec 2570) (t : Time)
  | trainingTimeout (j : SpdIx) (t : Time)
  | trainRefuseExpiry (j : SpdIx) (t : Time)
  | flockFormation (members : List MemberInfo) (t : Time)
  | memberExcluded (w : Fin 16) (t : Time)
  | spdDoubt (j : SpdIx) (cause : Nat) (t : Time)
  | admission (k : NedIx) (f : FrameIn) (t : Time)
  | groupVerdict (k : NedIx) (fid : Nat) (group : GroupRead) (t : Time)
  | fcsVerdict (k : NedIx) (fid : Nat) (good : Bool) (t : Time)
  | frameTail (k : NedIx) (fid : Nat) (t : Time)
  | speculationAbort (k : NedIx) (fid : Nat) (t : Time)
  | resultArrival (k : NedIx) (e : Fin 2) (lane : Lane) (vc : Bool) (t : Time)
  | replyStart (k : NedIx) (fid : Nat) (t : Time)
  | ptpEvent (k : NedIx) (port : Fin 8) (bytes : List Byte) (egress : Bool) (sfd t : Time)
  | rsFault (k : NedIx) (port : Fin 8) (remote : Bool) (t : Time)
  | nedDoubt (k : NedIx) (cause : Nat) (t : Time)
  | portDrainComplete (k : NedIx) (port : Fin 8) (t : Time)
  | portDrainExpiry (k : NedIx) (port : Fin 8) (t : Time)
  | portSettingsApplied (k : NedIx) (port : Fin 8) (t : Time)
  | penRelease (k : NedIx) (t : Time)
  | penDeadlineExpiry (k : NedIx) (fid : Nat) (t : Time)
  | burstToken (k : NedIx) (t : Time)
  | inFlightLimit (k : NedIx) (fid : Nat) (t : Time)
  | strayRefusal (k : NedIx) (tag : BitVec 16) (t : Time)
  | nedBellwether (k : NedIx) (e : Fin 2) (lane : Lane) (vc : Bool) (t : Time)
  | keepaliveLoss (die : Nat) (t : Time)
  | loadStart (fold : Nat) (t : Time)
  | loadDrainComplete (fold : Nat) (t : Time)
  | loadDrainExpiry (fold : Nat) (t : Time)
  | loadDecryptComplete (fold : Nat) (t : Time)
  | commitConfirmed (fold : Nat) (t : Time)
  | contextStage (fold : Nat) (n : Pad) (k : CtxIx) (t : Time)
  | stageWaitExpiry (fold : Nat) (t : Time)
  | standbyConfirmed (fold : Nat) (t : Time)
  | bellwetherArrival (n : Pad) (k : CtxIx) (t : Time)
  | switchLimitExpiry (fold : Nat) (t : Time)
  | transitionStart (fold : Nat) (t : Time)
  | shearComplete (fold : Nat) (n : Pad) (good : Bool) (t : Time)
  | musterComplete (fold : Nat) (t : Time)
  | musterTimeout (fold : Nat) (t : Time)
  | checkpointDue (fold : Nat) (t : Time)
  | checkpointWriteDone (fold : Nat) (t : Time)
  | releaseDrainExpiry (fold : Nat) (t : Time)
  | scrubRecord (fold : Nat) (t : Time)
  | sessionCloseComplete (num : Nat) (t : Time)
  | reportReceived (trigger : Trigger) (folds : List Nat) (place : Nat) (t : Time)
  | reportResend (t : Time)
  | doubtNoticeNed (k : NedIx) (fold : Nat) (t : Time)
  | doubtNoticePaddock (n : Pad) (fold : Nat) (t : Time)
  | checkpointRestoreComplete (fold : Nat) (good : Bool) (t : Time)
  | relocRecordWritten (fold : Nat) (t : Time)
  | keepaliveSend (t : Time)
  | heartbeatSend (shc : ShcIx) (t : Time)
  | heartbeatReceive (shc : ShcIx) (shcl lane0 : Bool) (b : Beat) (t : Time)
  | heartbeatMiss (t : Time)
  | probeTimeout (t : Time)
  | selfDoubtHandover (cause : Nat) (t : Time)
  | selectionQuietExpiry (t : Time)
  | mirrorAckTimeout (t : Time)
  | mirrorProbeTimeout (t : Time)
  | readyRefresh (t : Time)
  | readyLatchExpiry (t : Time)
  | firmwareVerified (shc : ShcIx) (sigs : List Bool) (stepField : BitVec 4) (t : Time)
  | stagesSettled (failed : List Nat) (t : Time)
  | edgeDieTestComplete (die : Nat) (passed : Bool) (t : Time)
  | referenceWaitTimeout (t : Time)
  | aonRailsInWindow (t : Time)
  | coreRailGroup (g : Fin 7) (t : Time)
  | ringWaveAdvance (t : Time)
  | paddockTestComplete (n : Pad) (v : PadVerdict) (t : Time)
  | borderTestComplete (x : EndIx) (failed : List (Fin 4)) (t : Time)
  | sweep (t : Time)
  | bootMapAndReady (flashOk : Bool) (t : Time)
  | consoleBreak (con : Fin 2) (t : Time)
  | ctsChange (con : Fin 2) (asserted : Bool) (t : Time)
  | tcpConnect (t : Time)
  | mgmtPacket (bytes : List Byte) (t : Time)
  | arpAnnounce (t : Time)
  | recoveryImageReceived (shc : ShcIx) (image : List Byte) (sigOk : Bool) (t : Time)
  | backupRejoin (mirrorVersion : Nat) (t : Time)
  | backupRejoinTimeout (t : Time)
  | idleTimeout (sess : Fin 10) (t : Time)
  | challengeExpiry (sess : Fin 10) (t : Time)
  | loginLockExpiry (sess : Fin 10) (t : Time)
  | bellsLostNotice (sess : Fin 10) (t : Time)
  | ledgerIntervalEnd (fold : Nat) (readBack : List Bool) (t : Time)
  | ledgerRingRetry (readBack : List Bool) (t : Time)
  | leaseSecond (t : Time)
  | ptpSilence (t : Time)
  | loginRequest (user : List Byte) (ln : Ln)
  | loginResponse (user sig : List Byte) (ln : Ln)
  | logout (ln : Ln)
  | ping (ln : Ln)
  | mode (echo : Option Bool) (crc : Option Bool) (bells : Option (Fin 3)) (idle : Option Nat) (ln : Ln)
  | showEngine (detail : Bool) (ln : Ln)
  | showBoot (ln : Ln)
  | showShc (ln : Ln)
  | setBoot (full : Bool) (ln : Ln)
  | setClear (at_ : List Loc) (ln : Ln)
  | resetEngine (confirm : Bool) (ln : Ln)
  | ackFault (ln : Ln)
  | handoverShc (ln : Ln)
  | restoreDie (die : DieName) (passed : Bool) (ln : Ln)
  | setConsole (con : Nat) (baud : Option Nat) (flow : Option Bool) (ln : Ln)
  | setNet (ip mask gw : BitVec 32) (mac : BitVec 48) (ln : Ln)
  | openStage (firmware : Bool) (size : Nat) (ln : Ln)
  | putStage (id off : Nat) (data : List Byte) (ln : Ln)
  | showStage (ln : Ln)
  | dropStage (id : Nat) (ln : Ln)
  | updateFirmware (stage : Nat) (sigOk : Bool) (ln : Ln)
  | raiseSvn (ln : Ln)
  | showPower (ln : Ln)
  | setBus (shared : Bool) (ln : Ln)
  | setRail (x y mv : Nat) (ln : Ln)
  | setClock (at_ : Loc) (n : Nat) (ln : Ln)
  | setPower (at_ : Loc) (dark : Bool) (ln : Ln)
  | clearField (x y : Nat) (held : Bool) (ln : Ln)
  | showThermal (ln : Ln)
  | showSensors (at_ : Sum Loc DieName) (ln : Ln)
  | showMap (at_ : Option (List Loc)) (ln : Ln)
  | exportMap (ln : Ln)
  | setReserve (c r : Nat) (on : Bool) (ln : Ln)
  | setExclude (x y : Nat) (on : Bool) (ln : Ln)
  | showPort (ned : Nat) (port : Option Nat) (ln : Ln)
  | setLanes (ned group mode : Nat) (ln : Ln)
  | setPort (ned port : Nat) (mac : Option (BitVec 48)) (template : Option Nat) (ptp : Option Bool) (eq : Option Nat)
      (store : Bool) (ln : Ln)
  | enablePort (ned port : Nat) (ln : Ln)
  | disablePort (ned port : Nat) (ln : Ln)
  | setTemplate (ned index : Nat) (a : TemplateArgs) (ln : Ln)
  | setBurst (ned rate depth : Nat) (ln : Ln)
  | setPtp (ned port : Nat) (ln : Ln)
  | showLink (c r dir : Nat) (lane : Option Nat) (ln : Ln)
  | showSpan (spd : Nat) (ln : Ln)
  | restoreLane (c r dir lane : Nat) (passed : Bool) (ln : Ln)
  | retrainSpan (spd : Nat) (ln : Ln)
  | showFlock (ln : Ln)
  | setFlock (id : BitVec 32) (wafer : Nat) (members : List Nat) (ln : Ln)
  | createFold (a : FoldArgs) (ln : Ln)
  | resizeFold (id : Nat) (a : ResizeArgs) (ln : Ln)
  | loadFold (id stage : Nat) (overlap : Bool) (limit : Option Nat) (ln : Ln)
  | destroyFold (id : Nat) (ln : Ln)
  | setFold (id : Nat) (ckpt : Option (Option Nat)) (pen weight : Option Nat) (ln : Ln)
  | setRotation (med : Nat) (slots : Option (List Nat)) (ln : Ln)
  | showFold (id : Nat) (ln : Ln)
  | showFolds (ln : Ln)
  | createChannel (fold entry : Nat) (index : Option Nat) (ticket : Option (BitVec 32)) (deadline : Option Nat)
      (spec : Option Bool) (bind : List BindArg) (ln : Ln)
  | bindChannel (handle : BitVec 32) (add : BindArg) (ln : Ln)
  | unbindChannel (handle : BitVec 32) (ned port : Nat) (ln : Ln)
  | destroyChannel (handle : BitVec 32) (ln : Ln)
  | showChannel (handle : Sum (BitVec 32) Nat) (ln : Ln)
  | setBucket (ned index fold rate depth : Nat) (burst pen : Option Bool) (ln : Ln)
  | showBucket (ned index : Nat) (ln : Ln)
  | openSession (fold num anchor cls cap : Nat) (ln : Ln)
  | closeSession (fold num : Nat) (ln : Ln)
  | showSession (num : Nat) (ln : Ln)
  | showTally (scope : Scope) (id : Nat) (name : Option Nat) (ln : Ln)
  | showBells (since : Option Nat) (fault : Option Bool) (count : Option Nat) (ln : Ln)
  | showLedger (fold : Nat) (since : Option Nat) (count : Option Nat) (ln : Ln)
  | verifyLedger (data : List Byte) (ln : Ln)
  | showKeys (fold : Nat) (ln : Ln)
  | exportKey (fold : Nat) (ln : Ln)
  | addUser (name : List Byte) (level : Level) (key : List Byte) (ln : Ln)
  | removeUser (name : List Byte) (ln : Ln)
  | showUsers (ln : Ln)
  | peek (addr : Nat) (count : Option Nat) (ln : Ln)
  | poke (addr : Nat) (value : BitVec 32) (mask : Option (BitVec 32)) (ln : Ln)
  | shcFaultackWrite (value : BitVec 32) (ln : Ln)
  | pcbSatClear (n : Pad) (value : BitVec 32) (ln : Ln)
  | nedWselWrite (k : NedIx) (value : BitVec 32) (ln : Ln)
  | shcAlertcauseRead (ln : Ln)
  | railsFall (t : Time)
  | badLine (sess : Fin 10) (bytes : List Byte) (overrun : Bool) (t : Time)
  | consoleCharacter (con : Fin 2) (b : Byte) (t : Time)
  | tcpClose (sess : Fin 10) (t : Time)
  | rsFaultCleared (k : NedIx) (fault : PortFault) (t : Time)
deriving DecidableEq, Repr

end Sys2Proof
end

