-- ==== Sys2Proof/Machine/Fine.lean ====
section
/-! DEFINITION. F-tiles: their state, the 64-bit instruction, operands, flags and opcodes, crooks and merges, and one
granted island cycle of a whole F-paddock (*Fine paddocks*, R171–R226, R947). -/
namespace Sys2Proof.Machine

open Sys2Proof

/-- A token: 32 bits, its context, and the ic from which it is present (R178). -/
structure Token where
  data : Word
  ctx : Nat
  born : Nat
deriving DecidableEq, Repr

/-- A flit in an inlet: the next word to read and the ic from which it is readable (R182). -/
structure InFlit where
  payload : Payload
  ctx : Nat
  tag : BitVec 16
  seq : Nat
  word : Nat
  ready : Nat
deriving DecidableEq, Repr

/-- A latency-2 result not yet formed: the slot in which it forms and every effect it carries (R201, R211). -/
structure PendRes where
  ctx : Nat
  due : Nat
  dst : Option Nat
  val : Word
  flags : Option Nat
  sat : Bool
  out : Nat
deriving DecidableEq, Repr

/-- The flit being built for an outlet descriptor, and its sequence in the message (R208, R209). -/
structure Build where
  words : List Word
  seq : Nat
deriving DecidableEq, Repr

/-- A token in a crook: where it leaves to (0–3 N–W, 4 LOCAL, 5 DROP). -/
structure CrookTok where
  tok : Token
  dest : Nat
deriving DecidableEq, Repr

/-- One F-tile (Table FINE-1). Flags of a context are bits Z, N, C, V, SAT from bit 0. -/
structure Tile where
  /-- g0–g31. -/
  regs : Tab Word
  /-- 4 KiB, by physical byte address. -/
  scratch : Tab Byte
  /-- Schedule store, `128·ctx + slot`. -/
  sched : Tab DWord
  /-- Router word of each context. -/
  router : Tab DWord
  /-- Outlet descriptors, `4·ctx + i`. -/
  descs : Tab DWord
  flags : Tab Nat
  tagr : Tab (BitVec 16)
  /-- The four neighbour queues, oldest first. -/
  qN : List Token
  qE : List Token
  qS : List Token
  qW : List Token
  /-- Tokens waiting at a bypassed input (R181). -/
  pN : List Token
  pE : List Token
  pS : List Token
  pW : List Token
  /-- Merge input K. -/
  qK : List Token
  /-- The crook of each context. -/
  crook : List CrookTok
  /-- ROUND merge turn of each context: 0–4, N to K (R205). -/
  turn : Tab Nat
  inlet : List InFlit
  /-- Closed flits in the order closed. -/
  outlet : List Flit
  /-- The flit under construction, `4·ctx + descriptor`. -/
  build : Tab Build
  pend : List PendRes
  crookDrops : Nat
deriving DecidableEq, Repr

/-- A tile after a shear to zero (R177). -/
def Tile.initial : Tile :=
  { regs := [], scratch := [], sched := [], router := [], descs := [], flags := [], tagr := [], qN := [], qE := [],
    qS := [], qW := [], pN := [], pE := [], pS := [], pW := [], qK := [], crook := [], turn := [], inlet := [],
    outlet := [], build := [], pend := [], crookDrops := 0 }

/-- The neighbour queue on side `d`. -/
def Tile.queue (t : Tile) (d : Nat) : List Token :=
  if d = 0 then t.qN else if d = 1 then t.qE else if d = 2 then t.qS else t.qW

def Tile.setQueue (t : Tile) (d : Nat) (q : List Token) : Tile :=
  if d = 0 then { t with qN := q } else if d = 1 then { t with qE := q }
  else if d = 2 then { t with qS := q } else { t with qW := q }

/-- The bypassed tokens waiting on side `d`. -/
def Tile.passing (t : Tile) (d : Nat) : List Token :=
  if d = 0 then t.pN else if d = 1 then t.pE else if d = 2 then t.pS else t.pW

def Tile.setPassing (t : Tile) (d : Nat) (q : List Token) : Tile :=
  if d = 0 then { t with pN := q } else if d = 1 then { t with pE := q }
  else if d = 2 then { t with pS := q } else { t with pW := q }

def Tile.routerWord (t : Tile) (k : Nat) : DWord := tabGet 0 t.router k
def Tile.flagsOf (t : Tile) (k : Nat) : Nat := tabGet 0 t.flags k

/-- The bypass entry for input `d` of context `k` (Table FINE-7). -/
def Tile.byp (t : Tile) (k d : Nat) : Nat := bitsOf (t.routerWord k) (3 * d) 3

/-- Whether a queue-like store of four has an entry free for context `k`; shared stores reserve one each (R180). -/
def roomFor (exclusive : Bool) (k : Nat) (q : List Token) : Bool :=
  if exclusive then decide (q.length < 4) else q.all fun t => t.ctx ≠ k

/-! Flags and conditions (Table FINE-4). -/

def flagZ (f : Nat) : Bool := f % 2 = 1
def flagN (f : Nat) : Bool := f / 2 % 2 = 1
def flagC (f : Nat) : Bool := f / 4 % 2 = 1
def flagV (f : Nat) : Bool := f / 8 % 2 = 1
def flagSat (f : Nat) : Bool := f / 16 % 2 = 1

/-- The four flags as bits 0–3. -/
def mkFlags (z n c v : Bool) : Nat :=
  (if z then 1 else 0) + (if n then 2 else 0) + (if c then 4 else 0) + (if v then 8 else 0)

/-- Whether condition code `cc` holds on flags `f` (Table FINE-4). -/
def condHolds (cc f : Nat) : Bool :=
  let z := flagZ f
  let n := flagN f
  let c := flagC f
  let v := flagV f
  if cc = 0 then z else if cc = 1 then !z
  else if cc = 2 then n != v else if cc = 3 then n == v
  else if cc = 4 then !z && n == v else if cc = 5 then z || n != v
  else if cc = 6 then !c else if cc = 7 then c
  else if cc = 8 then c && !z else if cc = 9 then !c || z
  else if cc = 10 then n else if cc = 11 then !n
  else if cc = 12 then v else if cc = 13 then !v
  else if cc = 14 then flagSat f else false

/-- The flags CMP and SETC set from A − B (R199). -/
def subFlags (a b : Word) : Nat :=
  let r := a - b
  mkFlags (r = 0) r.msb (decide (b.toNat ≤ a.toNat)) (decide (a.toInt - b.toInt ≠ r.toInt))

/-- The flags on which SETC and STEER test their condition: those of A − B, beside the context's SAT, which A − B leaves as it is
(Table FINE-6; DEDUCED, log entry 88). -/
def compareFlags (f : Nat) (a b : Word) : Nat := subFlags a b + (if flagSat f then 16 else 0)

/-! The instruction (Table FINE-3). -/

def insOp (i : DWord) : Nat := bitsOf i 0 6
def insPred (i : DWord) : Nat := bitsOf i 6 3
def insPsel (i : DWord) : Nat := bitsOf i 9 4
def insDst (i : DWord) : Nat := bitsOf i 13 5
def insOut (i : DWord) : Nat := bitsOf i 18 4
def insSA (i : DWord) : Nat := bitsOf i 22 4
def insRA (i : DWord) : Nat := bitsOf i 26 5
def insSB (i : DWord) : Nat := bitsOf i 31 4
def insRB (i : DWord) : Nat := bitsOf i 35 5
def insImm (i : DWord) : Nat := bitsOf i 40 16
def insW (i : DWord) : Nat := bitsOf i 56 2
def insSF (i : DWord) : Bool := bitAt i 58
def insWR (i : DWord) : Bool := bitAt i 59
def insCC (i : DWord) : Nat := bitsOf i 60 4

/-- The immediate, sign-extended. -/
def insSImm (i : DWord) : Word := (BitVec.ofNat 16 (insImm i)).signExtend 32

/-- Opcodes that Table FINE-6 marks for lanes. -/
def opLanes (op : Nat) : Bool :=
  op = 0x02 || op = 0x04 || op = 0x08 || op = 0x0B || (0x0C ≤ op && op ≤ 0x0F) || (0x14 ≤ op && op ≤ 0x16)

/-- Opcodes with no B operand. -/
def opNoB (op : Nat) : Bool :=
  op = 0x00 || op = 0x01 || op = 0x18 || op = 0x19 || op = 0x1A || (0x20 ≤ op && op ≤ 0x24) || op = 0x30 || op = 0x32

/-- Opcodes whose result the table gives as none. -/
def opNoResult (op : Nat) : Bool :=
  op = 0x00 || op = 0x1C || (0x28 ≤ op && op ≤ 0x2A) || (0x30 ≤ op && op ≤ 0x32)

/-- Opcodes that take a field from IMM. -/
def opTakesImm (op : Nat) : Bool :=
  op = 0x1A || (0x20 ≤ op && op ≤ 0x24) || (0x28 ≤ op && op ≤ 0x2A) || op = 0x30

/-- Opcodes of latency 2 (Table FINE-6). -/
def opLatency2 (op : Nat) : Bool := (0x08 ≤ op && op ≤ 0x0B) || (0x20 ≤ op && op ≤ 0x24)

/-- Whether an opcode value is defined. -/
def opDefined (op : Nat) : Bool :=
  op ≤ 0x1E || (0x20 ≤ op && op ≤ 0x24) || (0x28 ≤ op && op ≤ 0x2A) || (0x30 ≤ op && op ≤ 0x32)

/-- Whether an instruction is one an image may hold: no reserved value, every unused field 0 (R195). CC 15, reserved in Table
FINE-4, is refused in SETC, SEL and STEER like the reserved values that R195 lists, which leave CC out (DESIGN CHOICE, log entry
90). -/
def insLegal (i : DWord) : Bool :=
  let op := insOp i
  let usesImm := opTakesImm op || insSA i = 2 || insSA i = 3 || (!opNoB op && (insSB i = 2 || insSB i = 3))
  opDefined op && decide (insPred i ≤ 3)
    && (match insPred i with
        | 0 => insPsel i = 0
        | 1 | 2 => decide (insPsel i ≤ 6)
        | _ => decide (insPsel i ≤ 14))
    && (if op = 0 then decide (i.toNat / 2 ^ 13 = 0) else true)
    && (if opNoB op then insSB i = 0 && insRB i = 0 else true)
    && (if opNoResult op then insOut i = 0 && !insWR i && !insSF i else true)
    && (insSA i = 0 || insRA i = 0) && (insSB i = 0 || insRB i = 0)
    && (usesImm || insImm i = 0)
    && (if op = 0x1A then decide (insImm i < 2048) else if op = 0x30 then decide (insImm i < 16) else true)
    && (if op = 0x1D || op = 0x1E || op = 0x31 then decide (insCC i ≤ 14) else insCC i = 0)
    && (insWR i || op = 0x0B || insDst i = 0)
    && (if opLanes op then decide (insW i ≤ 2) else insW i = 0)

/-- Whether the register fields an instruction uses lie in a window (R174). -/
def insInWindow (i : DWord) (base cnt : Nat) : Bool :=
  let op := insOp i
  let inW (r : Nat) : Bool := base ≤ r && r < base + cnt
  (op = 0 || insSA i ≠ 0 || inW (insRA i))
    && (opNoB op || insSB i ≠ 0 || inW (insRB i))
    && (!(insWR i || op = 0x0B) || inW (insDst i))

/-- What an opcode computes: the result, the C and V flags of SF, and whether a clamp set SAT. -/
structure AluOut where
  res : Word
  c : Bool
  v : Bool
  sat : Bool
deriving DecidableEq, Repr

/-- A result that clears C and V and never clamps. -/
def aluPlain (r : Word) : AluOut := ⟨r, false, false, false⟩

/-- One 16-bit lane: wrap, or clamp and flag (R200). -/
def laneNarrow (w : Nat) (x : Int) : BitVec 16 × Bool :=
  if w = 2 then ((BitVec.ofInt 16 (clampS 16 x).1), (clampS 16 x).2) else (BitVec.ofInt 16 x, false)

/-- One lane of an opcode that honours W = 1 and W = 2. -/
def laneOp (op w : Nat) (d a b : BitVec 16) : BitVec 16 × Bool :=
  if op = 0x02 then laneNarrow w (a.toInt + b.toInt)
  else if op = 0x04 then laneNarrow w (a.toInt - b.toInt)
  else if op = 0x08 then laneNarrow w (a.toInt * b.toInt)
  else if op = 0x0B then laneNarrow w (d.toInt + a.toInt * b.toInt)
  else if op = 0x0C then (if a.toInt ≤ b.toInt then a else b, false)
  else if op = 0x0D then (if a.toInt ≤ b.toInt then b else a, false)
  else if op = 0x0E then (if a.toNat ≤ b.toNat then a else b, false)
  else if op = 0x0F then (if a.toNat ≤ b.toNat then b else a, false)
  else if op = 0x14 then (a <<< (b.toNat % 16), false)
  else if op = 0x15 then (a >>> (b.toNat % 16), false)
  else (a.sshiftRight (b.toNat % 16), false)

/-- The leading zeros of a word. -/
def clz32 (a : Word) : Nat := if a = 0 then 32 else 31 - Nat.log2 a.toNat

/-- The set bits of a word. -/
def popc32 (a : Word) : Nat := ((List.range 32).filter fun i => a.getLsbD i).length

/-- The field of BFX (Table FINE-6). -/
def bfx (a : Word) (imm : Nat) : Word :=
  let lo := imm % 32
  let n := imm / 32 % 32 + 1
  let v := (a.toNat >>> lo) % 2 ^ n
  if imm / 1024 % 2 = 1 && v ≥ 2 ^ (n - 1) then BitVec.ofInt 32 ((v : Int) - 2 ^ n) else BitVec.ofNat 32 v

/-- The HASH of two words (Table FINE-6). -/
def hash32 (a b : Word) : Word :=
  let u := (a ^^^ b.rotateLeft 16) * 0x85EBCA6B#32
  u ^^^ (u >>> 13)

/-- The result of an opcode with a result (Table FINE-6). `d` is DST at issue, `f` the context's flags. -/
def aluOp (i : DWord) (d a b : Word) (f : Nat) : AluOut :=
  let op := insOp i
  let cin : Nat := if flagC f then 1 else 0
  let narrow (x : Int) : AluOut := let c := clampS 32 x; ⟨BitVec.ofInt 32 c.1, false, false, c.2⟩
  if opLanes op && insW i ≠ 0 then
    let hi := laneOp op (insW i) (d.extractLsb' 16 16) (a.extractLsb' 16 16) (b.extractLsb' 16 16)
    let lo := laneOp op (insW i) (d.extractLsb' 0 16) (a.extractLsb' 0 16) (b.extractLsb' 0 16)
    ⟨hi.1 ++ lo.1, false, false, hi.2 || lo.2⟩
  else if op = 0x01 then aluPlain a
  else if op = 0x02 || op = 0x03 then
    let ci := if op = 0x03 then cin else 0
    let r := BitVec.ofNat 32 (a.toNat + b.toNat + ci)
    ⟨r, decide (a.toNat + b.toNat + ci ≥ 2 ^ 32), decide (a.toInt + b.toInt + ci ≠ r.toInt), false⟩
  else if op = 0x04 || op = 0x05 then
    let bi := if op = 0x05 then 1 - cin else 0
    let r := BitVec.ofInt 32 (a.toInt - b.toInt - bi)
    ⟨r, decide (b.toNat + bi ≤ a.toNat), decide (a.toInt - b.toInt - bi ≠ r.toInt), false⟩
  else if op = 0x06 then
    let n := narrow (a.toInt + b.toInt)
    ⟨n.res, decide (a.toNat + b.toNat ≥ 2 ^ 32), n.sat, n.sat⟩
  else if op = 0x07 then
    let n := narrow (a.toInt - b.toInt)
    ⟨n.res, decide (b.toNat ≤ a.toNat), n.sat, n.sat⟩
  else if op = 0x08 then aluPlain (a * b)
  else if op = 0x09 then aluPlain (BitVec.ofInt 32 (a.toInt * b.toInt / 2 ^ 32))
  else if op = 0x0A then aluPlain (BitVec.ofNat 32 (a.toNat * b.toNat / 2 ^ 32))
  else if op = 0x0B then aluPlain (d + a * b)
  else if op = 0x0C then aluPlain (if a.toInt ≤ b.toInt then a else b)
  else if op = 0x0D then aluPlain (if a.toInt ≤ b.toInt then b else a)
  else if op = 0x0E then aluPlain (if a.toNat ≤ b.toNat then a else b)
  else if op = 0x0F then aluPlain (if a.toNat ≤ b.toNat then b else a)
  else if op = 0x10 then aluPlain (a &&& b)
  else if op = 0x11 then aluPlain (a ||| b)
  else if op = 0x12 then aluPlain (a ^^^ b)
  else if op = 0x13 then aluPlain (a &&& ~~~ b)
  else if op = 0x14 then aluPlain (a <<< (b.toNat % 32))
  else if op = 0x15 then aluPlain (a >>> (b.toNat % 32))
  else if op = 0x16 then aluPlain (a.sshiftRight (b.toNat % 32))
  else if op = 0x17 then aluPlain (a.rotateLeft (b.toNat % 32))
  else if op = 0x18 then aluPlain (BitVec.ofNat 32 (clz32 a))
  else if op = 0x19 then aluPlain (BitVec.ofNat 32 (popc32 a))
  else if op = 0x1A then aluPlain (bfx a (insImm i))
  else if op = 0x1B then
    aluPlain (hash32 a b)
  else if op = 0x1D then aluPlain (if condHolds (insCC i) (compareFlags f a b) then 1 else 0)
  else if op = 0x1E then aluPlain (if condHolds (insCC i) f then a else b)
  else aluPlain 0

/-- The flags an instruction with SF = 1 sets (R199): SETC sets them from A − B, every other from its result. -/
def flagsFor (i : DWord) (a b : Word) (o : AluOut) : Nat :=
  if insOp i = 0x1D then subFlags a b else mkFlags (o.res = 0) o.res.msb o.c o.v

/-! Scratch (R175). -/

/-- The physical byte address of a scratch access of `z` bytes at computed address `a`. -/
def scratchAddr (base size z : Nat) (a : Word) : Nat :=
  let p := base * 256 + a.toNat % (size * 256)
  p - p % z

/-- The size in bytes of a scratch access. -/
def scratchSize (op : Nat) : Nat :=
  if op = 0x20 || op = 0x28 then 4 else if op = 0x21 || op = 0x22 || op = 0x29 then 2 else 1

/-- The value of a load. -/
def scratchLoad (t : Tile) (op p : Nat) : Word :=
  let v := leNat (tabRange 0 t.scratch p (scratchSize op))
  if op = 0x21 then (BitVec.ofNat 16 v).signExtend 32
  else if op = 0x23 then (BitVec.ofNat 8 v).signExtend 32
  else BitVec.ofNat 32 v

/-- Store the low bytes of a word. -/
def scratchStore (t : Tile) (op p : Nat) (b : Word) : Tile :=
  { t with scratch := tabSetAll 0 t.scratch p (leBytes (scratchSize op) b.toNat) }

/-! Operands (Table FINE-5). -/

/-- The oldest present token of context `k` in a queue. -/
def oldestTok (k ic : Nat) (q : List Token) : Option Token := q.find? fun t => t.ctx = k && t.born ≤ ic

/-- Remove the oldest present token of context `k`. -/
def takeTok (k ic : Nat) (q : List Token) : List Token := dropFirst (fun t => t.ctx = k && t.born ≤ ic) q

/-- The oldest inlet flit of context `k` that is readable. -/
def inletHead (t : Tile) (k ic : Nat) : Option InFlit := t.inlet.find? fun f => f.ctx = k && f.ready ≤ ic

/-- Pop the next inlet word of context `k`; word 0 loads TAGR (R182, R183). -/
def popInlet (t : Tile) (k ic : Nat) : Option (Word × Tile) :=
  match inletHead t k ic with
  | none => none
  | some f =>
    let step (g : InFlit) : List InFlit := if g.word = 15 then [] else [{ g with word := g.word + 1 }]
    let rec go : List InFlit → List InFlit
      | [] => []
      | g :: gs => if g.ctx = k && g.ready ≤ ic then step g ++ gs else g :: go gs
    some (payWord f.payload f.word,
      { t with inlet := go t.inlet, tagr := if f.word = 0 then tabSet 0 t.tagr k f.tag else t.tagr })

/-- The merge inputs named by MMASK of context `k` (0–3 queues, 4 merge input K). -/
def mergeIn (t : Tile) (i : Nat) : List Token := if i = 4 then t.qK else t.queue i

/-- The input whose token the merge offers (R205). -/
def mergeOffer (t : Tile) (k ic : Nat) : Option Nat :=
  let w := t.routerWord k
  let on (i : Nat) : Bool := bitAt w (26 + i)
  let have? (i : Nat) : Option Token := if on i then oldestTok k ic (mergeIn t i) else none
  if bitAt w 31 then
    match roundRobin 5 ((tabGet 0 t.turn k + 4) % 5) on with
    | none => none
    | some i => if (have? i).isSome then some i else none
  else
    ((List.range 5).foldl (fun (best : Option (Nat × Nat)) i =>
      match have? i with
      | none => best
      | some tk =>
        match best with
        | none => some (i, tk.born)
        | some (_, b) => if tk.born < b then some (i, tk.born) else best) none).map (·.1)

/-- Pop the token the merge offers. -/
def popMerge (t : Tile) (k ic : Nat) : Option (Word × Tile) :=
  match mergeOffer t k ic with
  | none => none
  | some i =>
    match oldestTok k ic (mergeIn t i) with
    | none => none
    | some tk =>
      let t1 := if i = 4 then { t with qK := takeTok k ic t.qK } else t.setQueue i (takeTok k ic (t.queue i))
      some (tk.data, { t1 with turn := tabSet 0 t1.turn k ((i + 1) % 5) })

/-- Read one operand: its value and the tile after any pop; `none` where it must wait. Peeks are taken from `t0`,
the tile before either operand popped (R197). TAGR is no peek: as operand A beside a pop of word 0 of a flit as B it reads the old
tag, as operand B after such a pop as A the new one (R183 is silent: DESIGN CHOICE, log entry 90). -/
def readOperand (t0 t : Tile) (k ic : Nat) (i : DWord) (src reg : Nat) : Option (Word × Tile) :=
  if src = 0 then some (tabGet 0 t.regs reg, t)
  else if src = 1 then some (0, t)
  else if src = 2 then some (insSImm i, t)
  else if src = 3 then some (BitVec.ofNat 32 (insImm i * 2 ^ 16), t)
  else if src ≤ 7 then
    (oldestTok k ic (t.queue (src - 4))).map fun tk =>
      (tk.data, t.setQueue (src - 4) (takeTok k ic (t.queue (src - 4))))
  else if src ≤ 11 then (oldestTok k ic (t0.queue (src - 8))).map fun tk => (tk.data, t)
  else if src = 12 then popInlet t k ic
  else if src = 13 then popMerge t k ic
  else if src = 14 then some ((tabGet 0 t.tagr k).setWidth 32, t)
  else some (BitVec.ofNat 32 (t0.flagsOf k), { t with flags := tabSet 0 t.flags k (t.flagsOf k % 16) })

/-- Whether a presence source holds something for context `k` (Table FINE-4). -/
def present (t : Tile) (k ic psel : Nat) : Bool :=
  if psel ≤ 3 then (oldestTok k ic (t.queue psel)).isSome
  else if psel = 4 then (inletHead t k ic).isSome
  else if psel = 5 then (mergeOffer t k ic).isSome
  else match inletHead t k ic with
    | some f => f.word = 0 && f.seq = 0
    | none => false

/-- The predicate of an instruction, from the state before it executes (R196). -/
def predHolds (t : Tile) (k ic : Nat) (i : DWord) : Bool :=
  if insPred i = 0 then true
  else if insPred i = 1 then present t k ic (insPsel i)
  else if insPred i = 2 then !present t k ic (insPsel i)
  else condHolds (insPsel i) (t.flagsOf k)

/-! Departure (R207–R209). -/

def descType (d : DWord) : Nat := bitsOf d 0 4
def descMwr (d : DWord) : Bool := bitAt d 30

/-- Whether appending one word closes the flit, and whether it ends the message. -/
def sendCloses (i : DWord) (b : Build) (d : DWord) : Bool × Bool :=
  let endBit := bitAt (BitVec.ofNat 16 (insImm i)) 2
  let flush := bitAt (BitVec.ofNat 16 (insImm i)) 3
  let full := b.words.length + 1 ≥ 16
  let closes := endBit || flush || full
  let oneFlit := descType d = 4 && !descMwr d
  (closes, closes && (endBit || oneFlit || b.seq = 255))

/-- The paddock that a descriptor's destination names on this wafer now: a header names the physical paddock (R51), so one of the
fold's image that has migrated is named by its new place (DEDUCED, log entry 52). `at_` is the wafer and the fold's moves. -/
def descDest (d : DWord) (at_ : Nat × List (Nat × Nat)) : Nat :=
  let n := bitsOf d 8 11
  if bitsOf d 4 4 = at_.1 then
    (match at_.2.find? fun m => m.1 = n with
      | some m => m.2
      | none => n)
  else n

/-- The flit a closing SEND stamps (R127, R208, R209). -/
def closeFlit (d : DWord) (words : List Word) (seq : Nat) (ends : Bool) (k fold : Nat) (epoch : BitVec 3)
    (tagr : BitVec 16) (at_ : Nat × List (Nat × Nat)) : Flit :=
  let typ : BitVec 4 :=
    if descType d = 4 && !descMwr d then ftMemReq
    else if descType d = 4 && seq = 0 then ftMemReq
    else if ends then ftDataEnd else ftData
  ⟨typ, BitVec.ofNat 4 (bitsOf d 4 4), BitVec.ofNat 11 (descDest d at_), BitVec.ofNat 10 (bitsOf d 19 10),
   BitVec.ofNat 6 fold, BitVec.ofNat 2 k, epoch, BitVec.ofNat 8 seq,
   if bitAt d 29 then BitVec.ofNat 16 (bitsOf d 32 16) else tagr, payOfWords words⟩

/-! One granted ic. -/

/-- One tile's slot in a granted ic: what its instruction waits on (R191 asks for every wait of every tile), the flit it closes,
and the tile and the tokens sent (direction, data) where the whole paddock issues. -/
structure TileIssue where
  /-- It waits on its inlet. -/
  inlet : Bool
  /-- It waits on an outlet place. -/
  output : Bool
  /-- It waits on a fine queue, the merge unit or the crook. -/
  unit : Bool
  closed : Option Flit
  tile : Tile
  outs : List (Nat × Word)
deriving DecidableEq, Repr

/-- The context-word fields a tile needs, and what its paddock stamps. -/
structure FineCtx where
  k : Nat
  ii : Nat
  scrBase : Nat
  scrSize : Nat
  slot : Nat
  ic : Nat
  exclusive : Bool
  fold : Nat
  epoch : BitVec 3
  wafer : Nat
  /-- Where paddocks of the fold's image stand now. -/
  moved : List (Nat × Nat)
deriving DecidableEq, Repr

/-- The directions in an OUT field. -/
def outDirs (o : Nat) : List Nat := (List.range 4).filter fun d => o / 2 ^ d % 2 = 1

/-- Write a latency-1 result, its flags and its SAT. -/
def writeBack (t : Tile) (k : Nat) (dst : Option Nat) (v : Word) (fl : Option Nat) (sat : Bool) : Tile :=
  let f0 := t.flagsOf k
  let f1 := match fl with
    | some f => f + (f0 / 16 % 2) * 16
    | none => f0
  let f2 := if sat && !flagSat f1 then f1 + 16 else f1
  { t with regs := (match dst with
                    | some r => tabSet 0 t.regs r v
                    | none => t.regs)
           flags := tabSet 0 t.flags k f2 }

/-- Form the results due in this slot: register, flag and SAT writes, and the tokens that leave (R201). -/
def formPending (t : Tile) (k slot : Nat) : Tile × List (Nat × Word) :=
  t.pend.foldl (fun acc p =>
      if p.ctx = k && p.due ≤ slot then
        (writeBack acc.1 k p.dst p.val p.flags p.sat, acc.2 ++ (outDirs p.out).map fun d => (d, p.val))
      else ({ acc.1 with pend := acc.1.pend ++ [p] }, acc.2))
    ({ t with pend := [] }, [])

/-- The steer bit a token takes in a crook (R203). -/
def steerBit (w : DWord) (given : Bool) (x : Word) : Bool :=
  let m := bitsOf w 12 3
  let thr := BitVec.ofNat 32 (bitsOf w 32 32)
  if m = 2 then x.slt thr else if m = 3 then x.ult thr
  else if m = 4 then x.getLsbD (bitsOf w 21 5)
  else if m = 5 then x = thr else given

/-- Put a token into the crook of its context. -/
def enterCrook (t : Tile) (w : DWord) (given : Bool) (tk : Token) (ic : Nat) : Tile :=
  let dest := if steerBit w given tk.data then bitsOf w 15 3 else bitsOf w 18 3
  { t with crook := t.crook ++ [⟨{ tk with born := ic + 1 }, dest⟩] }

/-- Whether the crook of a context is free. -/
def crookFree (t : Tile) (k : Nat) : Bool := t.crook.all fun c => c.tok.ctx ≠ k

/-- Whether the outlet has a place for context `k` (R207: one each in a SHARED paddock). -/
def outletRoom (exclusive : Bool) (t : Tile) (k : Nat) : Bool :=
  if exclusive then decide (t.outlet.length < 4) else t.outlet.all fun f => f.ctx.toNat ≠ k

/-- The crook's tokens leave, each when its way is free, in the order in which they entered the crooks of the tile's contexts
(R203 gives each context a crook and no order among them: DESIGN CHOICE, log entry 90). `kq` is merge input K at the start of
the ic, `used` the directions that instruction results take (R181). Answers the tile and what it sent (R203, R223). -/
def crookMove (t : Tile) (kq : List Token) (ic : Nat) (exclusive : Bool) (room : Nat → Nat → Bool) (used : List Nat) :
    Tile × List (Nat × Token) :=
  t.crook.foldl (fun acc c =>
      let keep := ({ acc.1 with crook := acc.1.crook ++ [c] }, acc.2)
      if ic < c.tok.born then keep
      else if c.dest = 5 then ({ acc.1 with crookDrops := acc.1.crookDrops + 1 }, acc.2)
      else if c.dest = 4 then
        (if roomFor exclusive c.tok.ctx (kq ++ acc.1.qK.filter fun x => x.born = ic + 1) then
          ({ acc.1 with qK := acc.1.qK ++ [{ c.tok with born := ic + 1 }] }, acc.2) else keep)
      else if !used.contains c.dest && !(acc.2.any fun o => o.1 = c.dest) && room c.tok.ctx c.dest then
        (acc.1, acc.2 ++ [(c.dest, c.tok)])
      else keep)
    ({ t with crook := [] }, [])

/-- Whether a STEER of context `k` finds the crook free: it holds no token, or the one it holds leaves in this ic, so that the
crook takes one token in every ic (R189, R203, R223). -/
def steerFree (t : Tile) (k ic : Nat) (exclusive : Bool) (room : Nat → Nat → Bool) (formed : List (Nat × Word)) : Bool :=
  crookFree (crookMove t t.qK ic exclusive room (formed.map (·.1))).1 k

/-- What an instruction does with operands `a` and `b`, taken from tile `t`: `t2` is the tile after its pops. Answers the flit
it closes, the tile and the tokens it sends, beside the results that form in this slot (Table FINE-6, R198–R201, R208). -/
def tileAct (e : FineCtx) (t t2 : Tile) (i : DWord) (a b : Word) : Option Flit × Tile × List (Nat × Word) :=
  let op := insOp i
  let f := t.flagsOf e.k
  let base := formPending t2 e.k e.slot
  let addr := scratchAddr e.scrBase e.scrSize (scratchSize op) (a + insSImm i)
  if 0x28 ≤ op && op ≤ 0x2A then (none, scratchStore base.1 op addr b, base.2)
  else if op = 0x1C then (none, writeBack base.1 e.k none 0 (some (subFlags a b)) false, base.2)
  else if op = 0x32 then (none, { base.1 with tagr := tabSet 0 base.1.tagr e.k (a.setWidth 16) }, base.2)
  else if op = 0x31 then
    (none, enterCrook base.1 (t.routerWord e.k) (condHolds (insCC i) (compareFlags f a b)) ⟨a, e.k, e.ic⟩ e.ic, base.2)
  else if op = 0x30 then
    let di := 4 * e.k + insImm i % 4
    let dsc := tabGet 0 t.descs di
    let bld := tabGet ⟨[], 0⟩ t.build di
    let ce := sendCloses i bld dsc
    if ce.1 then
      let fl := closeFlit dsc (bld.words ++ [a]) bld.seq ce.2 e.k e.fold e.epoch (tabGet 0 t2.tagr e.k) (e.wafer, e.moved)
      let nb : Build := ⟨[], if ce.2 then 0 else bld.seq + 1⟩
      (some fl, { base.1 with build := tabSet ⟨[], 0⟩ base.1.build di nb, outlet := base.1.outlet ++ [fl] }, base.2)
    else (none, { base.1 with build := tabSet ⟨[], 0⟩ base.1.build di ⟨bld.words ++ [a], bld.seq⟩ }, base.2)
  else
    let d0 := tabGet 0 t.regs (insDst i)
    let o := if 0x20 ≤ op && op ≤ 0x24 then aluPlain (scratchLoad t op addr) else aluOp i d0 a b f
    let dst := if insWR i then some (insDst i) else none
    let fl := if insSF i then some (flagsFor i a b o) else none
    if opLatency2 op then
      let p : PendRes := ⟨e.k, e.slot + 1, dst, o.res, fl, o.sat, insOut i⟩
      (none, { base.1 with pend := base.1.pend ++ [p] }, base.2)
    else
      (none, writeBack base.1 e.k dst o.res fl o.sat, base.2 ++ (outDirs (insOut i)).map fun d => (d, o.res))

/-- One tile's slot in a granted ic. `room k d` says whether direction `d` has a queue entry free for context `k`. Every wait
of the instruction is named, so that the paddock's cause is the first of R191 over all of them (R189, R190, R219). -/
def tileIssue (e : FineCtx) (t : Tile) (room : Nat → Nat → Bool) : TileIssue :=
  let i := tabGet 0 t.sched (128 * e.k + e.slot % e.ii)
  let op := insOp i
  let formed := formPending t e.k e.slot
  if op = 0 || !predHolds t e.k e.ic i then ⟨false, false, false, none, formed.1, formed.2⟩
  else
    let ra := readOperand t t e.k e.ic i (insSA i) (insRA i)
    let av := ra.getD (0, t)
    let rb := if opNoB op then some ((0 : Word), av.2) else readOperand t av.2 e.k e.ic i (insSB i) (insRB i)
    let bv := rb.getD (0, av.2)
    let act := tileAct e t bv.2 i av.1 bv.1
    let inlet := (ra.isNone && decide (insSA i = 12)) || (rb.isNone && decide (insSB i = 12))
    let unit := (ra.isNone && decide (insSA i ≠ 12)) || (rb.isNone && decide (insSB i ≠ 12))
      || (op = 0x31 && !steerFree t e.k e.ic e.exclusive room formed.2)
      || (outDirs (insOut i)).any fun d => !room e.k d
    ⟨inlet, act.1.isSome && !outletRoom e.exclusive t e.k, unit, act.1, act.2.1, act.2.2⟩

/-- The logical neighbour of tile endpoint `e` toward direction `d`; `none` at the paddock's boundary (R172). -/
def tileBeyond (e d : Nat) : Option Nat :=
  if d = 0 then (if e < 992 then some (e + 32) else none)
  else if d = 1 then (if e % 32 < 31 then some (e + 1) else none)
  else if d = 2 then (if 32 ≤ e then some (e - 32) else none)
  else (if 0 < e % 32 then some (e - 1) else none)

/-- Whether tile `e`, as it stands in `t`, may send a token of context `k` toward `d`: an entry free in the receiving queue of
`tiles`, counting the results of `t` that are still to leave that way (R180, R201). A token waiting at a bypassed input counts
against the four entries of that side's queue: R180 and R181 give such a token no store of its own (DESIGN CHOICE, log entry 90). -/
def roomBeyond (tiles : Tab Tile) (t : Tile) (exclusive : Bool) (e k d : Nat) : Bool :=
  match tileBeyond e d with
  | none => false
  | some n =>
    let nt := tabGet Tile.initial tiles n
    let o := oppDir d
    let owed := (t.pend.filter fun p => (outDirs p.out).contains d).map fun p => (⟨0, p.ctx, 0⟩ : Token)
    roomFor exclusive k (nt.queue o ++ nt.passing o ++ owed)

/-- Deliver a token into the input on side `d` of a tile: its queue, or its bypass (R178). -/
def deliverTok (t : Tile) (d : Nat) (tk : Token) : Tile :=
  if t.byp tk.ctx d = 0 then t.setQueue d (t.queue d ++ [tk]) else t.setPassing d (t.passing d ++ [tk])

/-- Deliver a token that tile `e` sends toward `d` in ic `ic`; it is present from ic + 1 (R178). -/
def deliverFrom (ic : Nat) (tiles : Tab Tile) (e d : Nat) (tk : Token) : Tab Tile :=
  match tileBeyond e d with
  | none => tiles
  | some n => tabMod Tile.initial tiles n fun nt => deliverTok nt (oppDir d) { tk with born := ic + 1 }

/-- Why an ic slipped (R191, R238). -/
inductive SlipCause where
  | inlet | output | unit
deriving DecidableEq, Repr

/-- What a granted ic of an F-paddock does: slip under one cause, or issue on every tile, with the tokens sent (tile, direction,
data) and the flits closed. -/
inductive FineOut where
  | slip (c : SlipCause)
  | issued (tiles : Tab Tile) (sent : List (Nat × Nat × Word)) (closed : List Flit)
deriving DecidableEq, Repr

/-- One granted ic: every tile issues, or none does and the first cause of R191 is counted (R190, R219). -/
def fineGranted (tiles : Tab Tile) (e : FineCtx) (creditsOk : List Flit → Bool) : FineOut :=
  let rs := tiles.map fun p => (p.1, tileIssue e p.2 (roomBeyond tiles p.2 e.exclusive p.1))
  let closed := rs.filterMap fun r => r.2.closed
  if rs.any fun r => r.2.inlet then .slip .inlet
  else if (rs.any fun r => r.2.output) || !creditsOk closed then .slip .output
  else if rs.any fun r => r.2.unit then .slip .unit
  else
    .issued (rs.foldl (fun acc r => tabSet Tile.initial acc r.1 r.2.tile) tiles)
      (rs.flatMap fun r => r.2.outs.map fun o => (r.1, o.1, o.2)) closed

/-- The bypassed tokens move on, in the order N, E, S, W (R181). -/
def passMove (t : Tile) (ic : Nat) (room : Nat → Nat → Bool) (used : List Nat) : Tile × List (Nat × Token) :=
  (List.range 4).foldl (fun acc d =>
    match acc.1.passing d with
    | [] => acc
    | tk :: rest =>
      let b := acc.1.byp tk.ctx d
      if ic < tk.born then acc
      else if b = 5 then
        (if crookFree acc.1 tk.ctx then
          (enterCrook (acc.1.setPassing d rest) (acc.1.routerWord tk.ctx) false tk ic, acc.2) else acc)
      else if 1 ≤ b && b ≤ 4 then
        (if !used.contains (b - 1) && !(acc.2.any fun o => o.1 = b - 1) && room tk.ctx (b - 1) then
          (acc.1.setPassing d rest, acc.2 ++ [(b - 1, tk)]) else acc)
      else acc) (t, [])

/-- The movement of tokens over the fine mesh in one ic, after the instructions of that ic: the tokens that context `k` sent
(`sent`), then those of every tile's crook, then those of its bypasses, each to its neighbour's input (R178, R181). Room is
judged on the queues at the start of the ic (`tiles0`): an entry that a pop frees in an ic serves a send from the next ic
(DEDUCED from R178, log entry 90), and an entry that a latency-2 instruction issued in this ic has counted on stays kept. -/
def fineMove (tiles0 tiles : Tab Tile) (ic : Nat) (exclusive : Bool) (k : Nat) (sent : List (Nat × Nat × Word)) : Tab Tile :=
  let moved := tiles.map fun p =>
    let used := (sent.filter fun s => s.1 = p.1).map fun s => s.2.1
    let room := roomBeyond tiles0 p.2 exclusive p.1
    let c := crookMove p.2 (tabGet Tile.initial tiles0 p.1).qK ic exclusive room used
    let q := passMove c.1 ic room (used ++ c.2.map (·.1))
    (p.1, q.1, c.2 ++ q.2)
  let ts := moved.foldl (fun acc m => tabSet Tile.initial acc m.1 m.2.1) tiles
  let ts1 := sent.foldl (fun acc o => deliverFrom ic acc o.1 o.2.1 ⟨o.2.2, k, ic⟩) ts
  moved.foldl (fun acc m => m.2.2.foldl (fun a o => deliverFrom ic a m.1 o.1 o.2) acc) ts1

/-! The spare column. -/

/-- The physical column that logical column `x` uses, where physical column `gated` is clock-gated and isolated: the one that the
wafer map retires, or the spare, 32, where it retires none (R214). -/
def physColumn (gated x : Nat) : Nat := if x < gated then x else x + 1

/-- The physical tile, counted 33·row + column, that tile endpoint `e` uses (R214, Table MESH-4). -/
def physTile (gated e : Nat) : Nat := 33 * (e / 32) + physColumn gated (e % 32)

/-- The items of context `k` a tile holds (R211). -/
def Tile.occupancy (t : Tile) (k : Nat) : Nat :=
  ((t.qN ++ t.qE ++ t.qS ++ t.qW ++ t.pN ++ t.pE ++ t.pS ++ t.pW ++ t.qK).filter fun x => x.ctx = k).length
    + (t.crook.filter fun c => c.tok.ctx = k).length + (t.inlet.filter fun f => f.ctx = k).length
    + (t.outlet.filter fun f => f.ctx.toNat = k).length
    + (t.build.filter fun b => b.1 / 4 = k && !b.2.words.isEmpty).length
    + (t.pend.filter fun p => p.ctx = k).length

/-- Drop everything of context `k` a tile holds in flight (a context retired by force, R536). -/
def Tile.dropCtx (t : Tile) (k : Nat) : Tile :=
  let f (q : List Token) := q.filter fun x => x.ctx ≠ k
  { t with qN := f t.qN, qE := f t.qE, qS := f t.qS, qW := f t.qW, pN := f t.pN, pE := f t.pE, pS := f t.pS,
           pW := f t.pW, qK := f t.qK, crook := t.crook.filter (fun c => c.tok.ctx ≠ k),
           inlet := t.inlet.filter (fun x => x.ctx ≠ k), outlet := t.outlet.filter (fun x => x.ctx.toNat ≠ k),
           build := t.build.filter (fun b => b.1 / 4 ≠ k), pend := t.pend.filter (fun p => p.ctx ≠ k) }

end Sys2Proof.Machine
end

