-- ==== Sys2Proof/Machine/Float.lean ====
section
/-! DEFINITION. The number formats of the V-units and the exact arithmetic over them (*Number formats,
compression and stated loss*, R276–R301). Values are read exactly, combined exactly and rounded once. -/
namespace Sys2Proof.Machine

open Sys2Proof

/-- A floating value, read exactly: `fin n m e` is (−1)^n · m · 2^e. -/
inductive Fp where
  | nan
  | inf (neg : Bool)
  | fin (neg : Bool) (m : Nat) (e : Int)
deriving DecidableEq, Repr

/-- Divide by 2^k; nearest, ties to even, or toward zero when `rz`. -/
def shiftRound (rz : Bool) (m k : Nat) : Nat :=
  let q := m / 2 ^ k
  let r := m % 2 ^ k
  if rz || k = 0 then q
  else if 2 * r > 2 ^ k || (2 * r = 2 ^ k && q % 2 = 1) then q + 1 else q

/-- Round m·2^e to a significand of `p` bits whose quantum is at least 2^qmin; answers (significand, quantum). -/
def fpRound (rz : Bool) (p : Nat) (qmin : Int) (m : Nat) (e : Int) : Nat × Int :=
  if m = 0 then (0, qmin)
  else
    let len : Int := Nat.log2 m + 1
    let q := max (e + len - p) qmin
    if q ≤ e then
      (m * 2 ^ (e - q).toNat, q)
    else
      let m' := shiftRound rz m (q - e).toNat
      if m' ≥ 2 ^ p then (m' / 2, q + 1) else (m', q)

/-- A binary interchange format: exponent bits, mantissa bits, bias. -/
structure FpFmt where
  eb : Nat
  mb : Nat
  bias : Int
deriving DecidableEq, Repr

def fp32 : FpFmt := ⟨8, 23, 127⟩
def bf16 : FpFmt := ⟨8, 7, 127⟩
def fp16 : FpFmt := ⟨5, 10, 15⟩
def e5m2 : FpFmt := ⟨5, 2, 15⟩
def e4m3 : FpFmt := ⟨4, 3, 7⟩

/-- Decode an IEEE-style encoding (infinities and NaNs at the top exponent). -/
def fpDecode (f : FpFmt) (x : Nat) : Fp :=
  let neg := x / 2 ^ (f.eb + f.mb) % 2 = 1
  let ex := x / 2 ^ f.mb % 2 ^ f.eb
  let man := x % 2 ^ f.mb
  if ex = 2 ^ f.eb - 1 then (if man = 0 then .inf neg else .nan)
  else if ex = 0 then .fin neg man (1 - f.bias - f.mb)
  else .fin neg (man + 2 ^ f.mb) (ex - f.bias - f.mb)

/-- Decode E4M3: no infinities, and only S.1111.111 is NaN (R280). -/
def e4m3Decode (x : Nat) : Fp :=
  let neg := x / 128 % 2 = 1
  let ex := x / 8 % 16
  let man := x % 8
  if ex = 15 && man = 7 then .nan
  else if ex = 0 then .fin neg man (-9)
  else .fin neg (man + 8) (ex - 10)

/-- Encode a rounded significand and quantum of a format; `none` where it exceeds the exponent range `emax`. -/
def fpPackBits (f : FpFmt) (neg : Bool) (mq : Nat × Int) : Nat :=
  let s := (if neg then 1 else 0) * 2 ^ (f.eb + f.mb)
  if mq.1 < 2 ^ f.mb then s + mq.1
  else
    let ex := (mq.2 + f.bias + f.mb).toNat
    s + ex * 2 ^ f.mb + (mq.1 - 2 ^ f.mb)

/-- Encode under the IEEE rules: overflow gives infinity, NaN is canonical (R278, R279). -/
def fpEncode (f : FpFmt) (rz : Bool) (canonNan : Nat) : Fp → Nat
  | .nan => canonNan
  | .inf neg => (if neg then 1 else 0) * 2 ^ (f.eb + f.mb) + (2 ^ f.eb - 1) * 2 ^ f.mb
  | .fin neg m e =>
    let mq := fpRound rz (f.mb + 1) (1 - f.bias - f.mb) m e
    if mq.1 ≥ 2 ^ f.mb && mq.2 + f.bias + f.mb ≥ 2 ^ f.eb - 1 then
      (if neg then 1 else 0) * 2 ^ (f.eb + f.mb) + (2 ^ f.eb - 1) * 2 ^ f.mb
    else fpPackBits f neg mq

/-- The FP32 word of a value, rounded once to nearest even. -/
def toF32 (v : Fp) : Word := BitVec.ofNat 32 (fpEncode fp32 false 0x7FC00000 v)

/-- The value an FP32 word holds. -/
def ofF32 (w : Word) : Fp := fpDecode fp32 w.toNat

/-- The exact sum (R278: +0 and −0 give +0). -/
def fpAddExact : Fp → Fp → Fp
  | .nan, _ => .nan
  | _, .nan => .nan
  | .inf a, .inf b => if a = b then .inf a else .nan
  | .inf a, _ => .inf a
  | _, .inf b => .inf b
  | .fin a m e, .fin b n f =>
    let g := min e f
    let x : Int := m * 2 ^ (e - g).toNat
    let y : Int := n * 2 ^ (f - g).toNat
    let s := (if a then -x else x) + (if b then -y else y)
    if s = 0 then .fin (a && b && m = 0 && n = 0) 0 g
    else .fin (decide (s < 0)) s.natAbs g

/-- The exact product. -/
def fpMulExact : Fp → Fp → Fp
  | .nan, _ => .nan
  | _, .nan => .nan
  | .inf a, .inf b => .inf (a != b)
  | .inf a, .fin b m _ => if m = 0 then .nan else .inf (a != b)
  | .fin a m _, .inf b => if m = 0 then .nan else .inf (a != b)
  | .fin a m e, .fin b n f => .fin (a != b) (m * n) (e + f)

/-- FP32 addition, one rounding. -/
def f32Add (a b : Word) : Word := toF32 (fpAddExact (ofF32 a) (ofF32 b))

/-- The negation of a value. -/
def fpNeg : Fp → Fp
  | .nan => .nan
  | .inf a => .inf (!a)
  | .fin a m e => .fin (!a) m e

/-- FP32 subtraction, one rounding. -/
def f32Sub (a b : Word) : Word := toF32 (fpAddExact (ofF32 a) (fpNeg (ofF32 b)))

/-- FP32 multiplication, one rounding. -/
def f32Mul (a b : Word) : Word := toF32 (fpMulExact (ofF32 a) (ofF32 b))

/-- FP32 fused multiply-add, one rounding. -/
def f32Fma (a b c : Word) : Word := toF32 (fpAddExact (fpMulExact (ofF32 a) (ofF32 b)) (ofF32 c))

/-- FP32 of an integer, nearest even. -/
def f32OfInt (x : Int) : Word := toF32 (.fin (decide (x < 0)) x.natAbs 0)

/-- Whether the first value is below the second; NaN compares false. -/
def fpLt : Fp → Fp → Bool
  | .nan, _ => false
  | _, .nan => false
  | .inf a, .inf b => a && !b
  | .inf a, _ => a
  | _, .inf b => !b
  | .fin a m e, .fin b n f =>
    let g := min e f
    let x : Int := m * 2 ^ (e - g).toNat
    let y : Int := n * 2 ^ (f - g).toNat
    decide ((if a then -x else x) < (if b then -y else y))

/-- The quotient of two finite values rounded to nearest even as FP32: enough quotient bits with a sticky bit. -/
def f32Div (a b : Word) : Word :=
  match ofF32 a, ofF32 b with
  | .fin x m e, .fin y n f =>
    if n = 0 then (if m = 0 then 0x7FC00000#32 else toF32 (.inf (x != y)))
    else
      let q := m * 2 ^ 64 / n
      let r := m * 2 ^ 64 % n
      toF32 (.fin (x != y) (2 * q + (if r = 0 then 0 else 1)) (e - f - 65))
  | .nan, _ => 0x7FC00000#32
  | _, .nan => 0x7FC00000#32
  | .inf x, .fin y _ _ => toF32 (.inf (x != y))
  | .fin x _ _, .inf y => toF32 (.fin (x != y) 0 0)
  | .inf _, .inf _ => 0x7FC00000#32

/-- The integer part of a value toward minus infinity, limited to 0–255 (R287 step 3). -/
def floor255 : Fp → Nat
  | .nan => 0
  | .inf neg => if neg then 0 else 255
  | .fin neg m e =>
    if neg then 0
    else if e ≥ 0 then min 255 (m * 2 ^ e.toNat) else min 255 (m / 2 ^ (-e).toNat)

/-- A value rounded to an integer under RND. -/
def fpToInt (rz : Bool) (neg : Bool) (m : Nat) (e : Int) : Int :=
  let n : Int := if e ≥ 0 then (m * 2 ^ e.toNat : Nat) else (shiftRound rz m (-e).toNat : Nat)
  if neg then -n else n

/-- What reading an array operand gives: the value, and whether the read was out of range (R281). A BF16 infinity is read as the
largest finite value, which in its turn is read as (2 − 2^−7)·2^63 (DEDUCED: log entry 99). -/
def arrayRead (fmt : Nat) (x : Nat) : Fp × Bool :=
  let sat (f : FpFmt) (v : Fp) : Fp × Bool :=
    match v with
    | .inf n => (.fin n (2 ^ (f.mb + 1) - 1) (2 ^ f.eb - 2 - f.bias - f.mb), true)
    | v => (v, false)
  if fmt = 2 then (e4m3Decode x, false)
  else if fmt = 3 then sat e5m2 (fpDecode e5m2 x)
  else
    match fpDecode bf16 x with
    | .inf n => (.fin n 255 56, true)
    | .nan => (.nan, false)
    | .fin n m e =>
      if m = 0 then (.fin n 0 0, false)
      else if e + Nat.log2 m < -63 then (.fin n 0 0, true)
      else if e + Nat.log2 m ≥ 64 then (.fin n 255 56, true)
      else (.fin n m e, false)

/-- The exponent a KB4 block byte is read as, and whether it was out of range (R282). -/
def kb4Exp (b : Byte) : Int × Bool :=
  let e := b.toInt
  if e > 60 then (60, true) else if e < -60 then (-60, true) else (e, false)

/-- A 4-bit mantissa of KB4 or INT4, read as two's complement. -/
def nibbleS (n : Nat) : Int := if n % 16 < 8 then (n % 16 : Nat) else ((n % 16 : Nat) : Int) - 16

/-- An exact integer multiple of a power of two. -/
def fpOfInt (x : Int) (e : Int) : Fp := .fin (decide (x < 0)) x.natAbs e

/-- The balanced binary tree by index over FP32 terms, every node rounded (R289). The fuel is the tree's depth. -/
def treeSum : Nat → List Word → Word
  | _, [] => 0
  | _, [x] => x
  | 0, x :: _ => x
  | d + 1, xs =>
    let rec pairs : List Word → List Word
      | a :: b :: rest => f32Add a b :: pairs rest
      | [a] => [a]
      | [] => []
    treeSum d (pairs xs)

/-- Merge the sum of one more K-block into a row's stack, as a binary counter: each entry is (level, sum) (R257). -/
def stackPush : Nat → Nat → Word → List (Nat × Word) → List (Nat × Word)
  | 0, lv, x, st => (lv, x) :: st
  | _ + 1, lv, x, [] => [(lv, x)]
  | fuel + 1, lv, x, (l, y) :: rest =>
    if l = lv then stackPush fuel (lv + 1) (f32Add y x) rest else (lv, x) :: (l, y) :: rest

/-- Combine the remaining partial sums from the lowest stack level upward (R257). -/
def stackClose : List (Nat × Word) → Word
  | [] => 0
  | (_, x) :: rest => rest.foldl (fun acc p => f32Add p.2 acc) x

/-- Stage 3: the table's line at `x` (R287, R298). `seg i` answers the slope and intercept of segment i. -/
def actEval (alo ahi : Word) (seg : Nat → Word × Word) (x : Word) : Word :=
  match ofF32 x with
  | .nan => 0x7FC00000#32
  | .inf neg =>
    let si := seg (if neg then 0 else 255)
    match ofF32 si.1 with
    | .fin _ 0 _ => toF32 (ofF32 si.2)
    | .nan => 0x7FC00000#32
    | .inf n => toF32 (.inf (n != neg))
    | .fin n _ _ => toF32 (.inf (n != neg))
  | _ =>
    let g := f32Div (f32OfInt 256) (f32Sub ahi alo)
    let u := f32Mul (f32Sub x alo) g
    let si := seg (floor255 (ofF32 u))
    f32Fma si.1 x si.2

/-- What packing one lane answers: the bits, whether it clamped, whether it was a NaN counted as nonfinite. -/
structure Packed where
  bits : Nat
  sat : Bool
  nonfinite : Bool
deriving DecidableEq, Repr

/-- Pack to a signed integer of `n` bits (Table NUM-2). A value is beyond the range when its rounded value is (DEDUCED: log entry 99). -/
def packInt (n : Nat) (rz : Bool) : Fp → Packed
  | .nan => ⟨0, false, true⟩
  | .inf neg => ⟨if neg then 2 ^ (n - 1) else 2 ^ (n - 1) - 1, true, false⟩
  | .fin neg m e =>
    let c := clampS n (fpToInt rz neg m e)
    ⟨(c.1 % 2 ^ n).toNat, c.2, false⟩

/-- Pack to a saturating small float (Table NUM-2): `maxBits` is the largest finite encoding without its sign. -/
def packFloat (f : FpFmt) (maxBits canonNan : Nat) (rz : Bool) : Fp → Packed
  | .nan => ⟨canonNan, false, true⟩
  | .inf neg => ⟨(if neg then 2 ^ (f.eb + f.mb) else 0) + maxBits, true, false⟩
  | .fin neg m e =>
    let b := fpPackBits f false (fpRound rz (f.mb + 1) (1 - f.bias - f.mb) m e)
    if b > maxBits then ⟨(if neg then 2 ^ (f.eb + f.mb) else 0) + maxBits, true, false⟩
    else ⟨(if neg then 2 ^ (f.eb + f.mb) else 0) + b, false, false⟩

/-- The magnitude of a value. -/
def fpAbs : Fp → Fp
  | .nan => .nan
  | .inf _ => .inf false
  | .fin _ m e => .fin false m e

/-- The largest magnitude of a block, NaN lanes left out. -/
def blockMax (xs : List Fp) : Fp :=
  xs.foldl (fun acc x => if fpLt acc (fpAbs x) then fpAbs x else acc) (.fin false 0 0)

/-- The exponent of a KB4 block: the least E in −60–60 with M < 7.5·2^E; the flag says E was limited (R283). -/
def kb4PickExp (m : Fp) : Int × Bool :=
  match m with
  | .inf _ => (60, true)
  | .nan => (-60, false)
  | .fin _ 0 _ => (-60, false)
  | m =>
    match findBelow (fun i => fpLt m (.fin false 15 (Int.ofNat i - 61))) 121 with
    | some i => (Int.ofNat i - 60, i = 0 && fpLt m (.fin false 15 (-62)))
    | none => (60, true)

/-- Pack a block of 32 values as KB4: mantissas and the exponent byte (R283, R296). -/
def kb4Pack (rz : Bool) (xs : List Fp) : List Packed × Byte :=
  let pe := kb4PickExp (blockMax xs)
  let lane (x : Fp) : Packed :=
    match x with
    | .nan => ⟨0, false, true⟩
    | .inf neg => ⟨if neg then 8 else 7, true, false⟩
    | .fin n m e =>
      let c := clampS 4 (fpToInt rz n m (e - pe.1))
      ⟨(c.1 % 16).toNat, c.2 || pe.2, false⟩
  (xs.map lane, BitVec.ofInt 8 pe.1)

/-- Round a positive value upward to FP16, at least 2^−24 and at most 65,504; the flag says it was limited (R285). -/
def fp16Up (m : Nat) (e : Int) : Nat × Bool :=
  if m = 0 then (1, true)
  else
    let mq := fpRound true 11 (-24) m e
    let exact := (mq.2 ≤ e) || (m % 2 ^ (mq.2 - e).toNat = 0)
    let up := if exact then mq.1 else mq.1 + 1
    let b := if mq.1 < 1024 then up else ((mq.2 + 25).toNat) * 1024 + (up - 1024)
    if b = 0 then (1, true) else if b > 0x7BFF then (0x7BFF, true) else (b, false)

/-- Pack 64 values as KS6 (R285): the q values, the scale, and the flags. -/
def ks6Pack (rz : Bool) (xs : List Fp) : List Packed × Nat :=
  let mx := blockMax xs
  let sc : Nat × Bool :=
    match mx with
    | .inf _ => (0x7BFF, true)
    | .nan => (1, true)
    | .fin _ m e => fp16Up (m * 2 ^ 40 / 31 * 2 + (if m * 2 ^ 40 % 31 = 0 then 0 else 1)) (e - 41)
  let sv := fpDecode fp16 sc.1
  let lane (x : Fp) : Packed :=
    match x, sv with
    | .nan, _ => ⟨0, false, true⟩
    | .inf neg, _ => ⟨if neg then 33 else 31, true, false⟩
    | .fin n m e, .fin _ sm se =>
      let num := m * 2 ^ 80
      let q := num / sm
      let st := if num % sm = 0 then 0 else 1
      let i := fpToInt rz n (2 * q + st) (e - se - 81)
      let j := if i > 31 then 31 else if i < -31 then -31 else i
      ⟨(j % 64).toNat, (j != i) || sc.2, false⟩
    | _, _ => ⟨0, true, false⟩
  (xs.map lane, sc.1)

/-- The lanes of a 50-byte KS6 block as FP32 words, and whether its scale was out of range (R284, R300). -/
def ks6Read (bs : List Byte) : List Word × Bool :=
  let v := leNat (bs.take 48)
  let s := leNat ((bs.drop 48).take 2)
  let sv := fpDecode fp16 s
  let (sv', bad) : Fp × Bool :=
    match sv with
    | .inf n => (.fin n 2047 5, true)
    | x => (x, false)
  let lane (i : Nat) : Word :=
    let q := v / 2 ^ (6 * i) % 64
    let qi : Int := if q < 32 then q else (q : Int) - 64
    toF32 (fpMulExact (fpOfInt qi 0) sv')
  ((List.range 64).map lane, bad)

end Sys2Proof.Machine
end

