-- ==== Sys2Proof/Machine/Coarse.lean ====
section
/-! DEFINITION. C-paddocks: descriptors, address generators, M-units, V-units and their stages, the command stream, and
one granted island cycle (*Coarse paddocks*, R227–R275; numbers by R276–R301). -/
namespace Sys2Proof.Machine

open Sys2Proof

/-! State. -/

/-- A request of an HBMX transfer: byte offset in the transfer, bytes, where it goes; `zero` marks a piece that reads
as zero without a request (R340). -/
structure HbmPiece where
  off : Nat
  len : Nat
  med : Nat
  session : Bool
  addr : Nat
  sess : Nat
  wpage : Nat
  zero : Bool
deriving DecidableEq, Repr

/-- The HBM side of an AG run: pieces still to request, the write message being sent (its piece, its number, the 64-byte units sent),
pieces outstanding by request number, the next number, and what has returned and is still to be written at its offset. -/
structure HbmRun where
  write : Bool
  todo : List HbmPiece
  cur : Option (HbmPiece × Nat × Nat)
  out : List (Nat × HbmPiece × Nat)
  next : Nat
  back : List (Nat × List Byte)
deriving DecidableEq, Repr

/-- A running address generator: its descriptor, next element, and the indices its partner has read, each with the ic from which it
is delivered (R243, R249). -/
structure AgRun where
  d : BitVec 256
  i : Nat
  idx : List (Nat × Nat)
  hbm : Option HbmRun
deriving DecidableEq, Repr

/-- What a unit has packed for its outlet and not yet closed: its bytes, the sequence of the next flit, the outlet descriptor, and
whether the run has ended, so that the rest closes the message (R260). -/
structure OutBuild where
  bytes : List Byte
  seq : Nat
  desc : Nat
  ends : Bool
deriving DecidableEq, Repr

def OutBuild.initial : OutBuild := ⟨[], 0, 0, false⟩

/-- One M-unit (Table COARSE-1). -/
structure MUnit where
  /-- 2 MiB by physical byte address. -/
  sram : Tab Byte
  /-- Writes served and not yet visible: the ic from which they are, address, bytes (R243). -/
  wpend : List (Nat × Nat × List Byte)
  /-- `32·ctx + i`. -/
  agDesc : Tab (BitVec 256)
  /-- `16·ctx + i`. -/
  hbmDesc : Tab (BitVec 128)
  /-- `2·ctx + g`. -/
  runs : List (Nat × AgRun)
  /-- Stream buffers, `2·ctx + g`: the ic from which each element is in the buffer, and its bytes. -/
  streams : List (Nat × List (Nat × List Byte))
  inlet : List InFlit
  outlet : List Flit
  /-- The sequence of the next flit of an AG's outlet stream, `2·ctx + g`. -/
  oseq : Tab Nat
  tagr : Tab (BitVec 16)
  /-- The AG (`2·ctx + g`) whose element waits on an ECC re-read (R246). -/
  held : Option Nat
deriving DecidableEq, Repr

/-- A run of a stage descriptor: the next step and the granted ic left before it (PACE). -/
structure VRun where
  d : BitVec 256
  step : Nat
  pace : Nat
deriving DecidableEq, Repr

/-- A row that has left the array: the slot from which it may enter stage 1, its lanes, whether it ends the run. -/
structure RowOut where
  ctx : Nat
  due : Nat
  lanes : List Word
  d : BitVec 256
  ends : Bool
deriving DecidableEq, Repr

/-- A packed chunk: the slot in which it leaves stage 6. -/
structure ChunkOut where
  ctx : Nat
  due : Nat
  bytes : List Byte
  d : BitVec 256
  ends : Bool
deriving DecidableEq, Repr

/-- One V-unit (Table COARSE-1). -/
structure VUnit where
  /-- Stage descriptors, `32·ctx + i`. -/
  sdesc : Tab (BitVec 256)
  /-- Weight buffer bytes, `(2·ctx + b)·8192 + offset`. -/
  wbuf : Tab Byte
  /-- Bytes filled of weight buffer `2·ctx + b`. -/
  filled : Tab Nat
  /-- The active weight buffer of each context. -/
  active : Tab Nat
  /-- Accumulator stacks, `64·row + lane`. -/
  acc : List (Nat × List (Nat × Word))
  /-- The parameter store, by byte. -/
  param : Tab Byte
  runs : List (Nat × VRun)
  rows : List RowOut
  chunks : List ChunkOut
  /-- Vectors of a TRANS block not yet complete, by context. -/
  trans : List (Nat × List (List Word))
  inlet : List InFlit
  outlet : List Flit
  /-- What each context has packed for the outlet. -/
  obuild : List (Nat × OutBuild)
  tagr : Tab (BitVec 16)
  /-- The context whose step is held by a residue re-execution (R265). -/
  reexec : Option Nat
deriving DecidableEq, Repr

/-- A PARAM write under way: the V-unit, the source AG code, the context's first row, the bytes written and those left. -/
structure ParamRun where
  ctx : Nat
  v : Nat
  src : Nat
  row : Nat
  done : Nat
  left : Nat
deriving DecidableEq, Repr

/-- The session register of a context (R336, Table SEQ-3). -/
structure SessReg where
  sess : Nat
  cls : Nat
  p0 : Nat
  a : Nat
  len : Nat
  cap : Nat
  tag : BitVec 16
deriving DecidableEq, Repr

/-- The units of a C-paddock. -/
structure Coarse where
  mu : List MUnit
  vu : List VUnit
  /-- Command stores, `256·ctx + i`. -/
  cmds : Tab DWord
  /-- Outlet descriptors, `16·ctx + i`. -/
  descs : Tab DWord
  params : List ParamRun
  /-- The V-units that have taken the head chunk of a shared A source, `16·ctx + code` (R258). -/
  taken : List (Nat × List Nat)
  /-- V-unit SAT status of each context (PCB_SAT). -/
  sat : Tab Bool
  sess : List (Nat × SessReg)
deriving DecidableEq, Repr

def MUnit.initial : MUnit :=
  { sram := [], wpend := [], agDesc := [], hbmDesc := [], runs := [], streams := [], inlet := [], outlet := [],
    oseq := [], tagr := [], held := none }

def VUnit.initial : VUnit :=
  { sdesc := [], wbuf := [], filled := [], active := [], acc := [], param := [], runs := [], rows := [], chunks := [],
    trans := [], inlet := [], outlet := [], obuild := [], tagr := [], reexec := none }

def Coarse.initial : Coarse :=
  { mu := List.replicate 4 MUnit.initial, vu := List.replicate 4 VUnit.initial, cmds := [], descs := [], params := [],
    taken := [], sat := [], sess := [] }

/-- An association of a key, plain. -/
def assoc {α : Type} (d : α) (l : List (Nat × α)) (k : Nat) : α :=
  match l.find? fun p => p.1 = k with
  | some p => p.2
  | none => d

/-- Set an association. -/
def assocSet {α : Type} (l : List (Nat × α)) (k : Nat) (v : α) : List (Nat × α) :=
  (l.filter fun p => p.1 ≠ k) ++ [(k, v)]

/-- Remove an association. -/
def assocDel {α : Type} (l : List (Nat × α)) (k : Nat) : List (Nat × α) := l.filter fun p => p.1 ≠ k

def Coarse.m (c : Coarse) (i : Nat) : MUnit := c.mu.getD i MUnit.initial
def Coarse.v (c : Coarse) (i : Nat) : VUnit := c.vu.getD i VUnit.initial
def Coarse.setM (c : Coarse) (i : Nat) (x : MUnit) : Coarse := { c with mu := listSet c.mu i x }
def Coarse.setV (c : Coarse) (i : Nat) (x : VUnit) : Coarse := { c with vu := listSet c.vu i x }

/-! The context word and the command (Tables COARSE-2 and COARSE-3). -/

def cwPeriod (w : DWord) : Nat := bitsOf w 0 16 + 1
def cwWdog (w : DWord) : Nat := bitsOf w 16 5
def cwMbase (w : DWord) : Nat := bitsOf w 21 5
def cwMsize (w : DWord) : Nat := bitsOf w 26 6
def cwNcmd (w : DWord) : Nat := bitsOf w 32 9

def cmdTime (c : DWord) : Nat := bitsOf c 0 16
def cmdOp (c : DWord) : Nat := bitsOf c 16 4
def cmdPred (c : DWord) : Nat := bitsOf c 20 2
def cmdUnit (c : DWord) : Nat := bitsOf c 22 2
def cmdAg (c : DWord) : Nat := bitsOf c 24 1
def cmdDesc (c : DWord) : Nat := bitsOf c 25 5
def cmdRow (c : DWord) : Nat := bitsOf c 32 8
def cmdNrow (c : DWord) : Nat := bitsOf c 40 8 + 1
def cmdPsrc (c : DWord) : Nat := bitsOf c 48 4

/-! The address generator (Table COARSE-4, R240, R248). -/

def agMode (d : BitVec 256) : Nat := bitsOf d 0 2
def agEsz (d : BitVec 256) : Nat := 2 ^ bitsOf d 2 3
def agInd (d : BitVec 256) : Bool := bitAt d 5
def agIsz (d : BitVec 256) : Nat := 2 ^ bitsOf d 6 2
def agPort (d : BitVec 256) : Nat := bitsOf d 8 4
def agOdesc (d : BitVec 256) : Nat := bitsOf d 12 4
def agIdim (d : BitVec 256) : Nat := bitsOf d 16 2
def agCnt (d : BitVec 256) (n : Nat) : Nat := bitsOf d (64 + 40 * n) 16 + 1
def agStr (d : BitVec 256) (n : Nat) : Int := sbitsOf d (80 + 40 * n) 24

/-- The elements of a run. -/
def agTotal (d : BitVec 256) : Nat := agCnt d 0 * agCnt d 1 * agCnt d 2 * agCnt d 3

/-- The iteration index of dimension `n` at element `i`. -/
def agIter (d : BitVec 256) (i n : Nat) : Nat :=
  let below := ((List.range n).map (agCnt d)).foldl (· * ·) 1
  i / below % agCnt d n

/-- Which index element `i` uses: one for each start of an iteration of IDIM (R249). -/
def agIdxNo (d : BitVec 256) (i : Nat) : Nat :=
  i / ((List.range (agIdim d)).map (agCnt d)).foldl (· * ·) 1

/-- The byte address of element `i` with index `x`, before the window (R248). -/
def agAddr (d : BitVec 256) (i x : Nat) : Nat :=
  let a : Int := bitsOf d 32 21
  let s := (List.range 4).foldl (fun acc n => acc + (agIter d i n : Int) * agStr d n) a
  let s' := if agInd d then s + sbitsOf d 224 24 * (x : Int) else s
  (s' % 2 ^ 21).toNat

/-- The physical byte of a context's byte address, aligned down to the element (R240). -/
def winAddr (w : DWord) (esz a : Nat) : Nat :=
  let p := cwMbase w * 65536 + a % (cwMsize w * 65536)
  p - p % esz

/-- The address of element `e`, when its index has been delivered by `ic`. -/
def agElemAt (w : DWord) (r : AgRun) (ic e : Nat) : Option Nat :=
  if agInd r.d then
    match r.idx[agIdxNo r.d e]? with
    | some x => if x.1 ≤ ic then some (winAddr w (agEsz r.d) (agAddr r.d e x.2)) else none
    | none => none
  else some (winAddr w (agEsz r.d) (agAddr r.d e 0))

/-- The address of the run's next element. -/
def agElem (w : DWord) (r : AgRun) (ic : Nat) : Option Nat := agElemAt w r ic r.i

/-! The stage descriptor (Table COARSE-10). -/

def sdFmt (d : BitVec 256) : Nat := bitsOf d 0 4
def sdAsrc (d : BitVec 256) : Nat := bitsOf d 8 4
def sdWsrc (d : BitVec 256) : Nat := bitsOf d 12 4
def sdRsrc (d : BitVec 256) : Nat := bitsOf d 16 4
def sdMsrc (d : BitVec 256) : Nat := bitsOf d 20 4
def sdDst (d : BitVec 256) : Nat := bitsOf d 24 4
def sdOdesc (d : BitVec 256) : Nat := bitsOf d 28 4
def sdNacc (d : BitVec 256) : Nat := bitsOf d 32 6 + 1
def sdPace (d : BitVec 256) : Nat := bitsOf d 38 4 + 1
def sdKblk (d : BitVec 256) : Nat := bitsOf d 48 16 + 1
def sdNgrp (d : BitVec 256) : Nat := bitsOf d 64 16 + 1
def sdScmode (d : BitVec 256) : Nat := bitsOf d 80 2
def sdOfmt (d : BitVec 256) : Nat := bitsOf d 128 4
def sdRz (d : BitVec 256) : Bool := bitsOf d 132 2 = 1

/-- The steps of a run (R255). -/
def sdSteps (d : BitVec 256) : Nat := sdNgrp d * sdKblk d * sdNacc d

/-- Whether the array is bypassed. -/
def sdBypass (d : BitVec 256) : Bool := sdFmt d = 6 || sdFmt d = 7

/-- Whether the accumulator is an integer one (Table COARSE-7). -/
def sdInt (d : BitVec 256) : Bool := sdFmt d = 0 || sdFmt d = 1 || sdFmt d = 7

/-- The bytes of an A chunk (Table COARSE-7). -/
def chunkSize (fmt : Nat) : Nat := if fmt = 5 then 128 else if fmt = 6 || fmt = 7 then 256 else 64

/-- The bytes of a weight tile (Table COARSE-7). -/
def tileSize (fmt : Nat) : Nat := if fmt = 4 then 2176 else if fmt = 5 then 8192 else 4096

/-! Parameter rows (R231, R232). -/

/-- The physical parameter row of a context's row. -/
def paramRow (shared : Bool) (k r : Nat) : Nat :=
  if !shared then r else if r < 128 then 32 * k + r % 32 else 128 + 16 * k + r % 16

/-- The physical accumulator row of a context's row. -/
def accRow (shared : Bool) (k r : Nat) : Nat := if shared then 16 * k + r % 16 else r

/-- Lane `j` of a parameter row, as a word. -/
def paramLane (v : VUnit) (shared : Bool) (k r j : Nat) : Word :=
  BitVec.ofNat 32 (leNat (tabRange 0 v.param (256 * paramRow shared k r + 4 * j) 4))

/-- The slope and intercept of a segment of table `t` (R259). -/
def paramSeg (v : VUnit) (shared : Bool) (k t i : Nat) : Word × Word :=
  let row := paramRow shared k (128 + 8 * t + i / 32)
  let o := 256 * row + 8 * (i % 32)
  (BitVec.ofNat 32 (leNat (tabRange 0 v.param o 4)), BitVec.ofNat 32 (leNat (tabRange 0 v.param (o + 4) 4)))

/-! The array (R254, R256, R257, R276, R281, R282). -/

/-- Element `i` of an integer chunk. -/
def intElem (fmt : Nat) (unsigned : Bool) (b : Byte) (hi : Bool) : Int :=
  if fmt = 1 then
    let n := if hi then b.toNat / 16 else b.toNat % 16
    if unsigned then n else nibbleS n
  else if unsigned then b.toNat else b.toInt

/-- The values of an activation chunk and how many operands were read out of range. -/
def actValues (fmt : Nat) (bs : List Byte) : List Fp × Nat :=
  if fmt = 4 then
    let e (i : Nat) := kb4Exp (bs.getD (32 + i / 32) 0)
    let val (i : Nat) : Fp :=
      let b := (bs.getD (i / 2) 0).toNat
      fpOfInt (nibbleS (if i % 2 = 1 then b / 16 else b)) (e i).1
    ((List.range 64).map val, (if (e 0).2 then 1 else 0) + (if (e 32).2 then 1 else 0))
  else
    let rs := (List.range 64).map fun i =>
      arrayRead fmt (if fmt = 5 then leNat (slice bs (2 * i) 2) else (bs.getD i 0).toNat)
    (rs.map (·.1), (rs.filter (·.2)).length)

/-- Row `j` of a weight tile, read through `byte`. -/
def weightRow (fmt : Nat) (byte : Nat → Byte) (j : Nat) : List Fp × Nat :=
  if fmt = 4 then
    let e (i : Nat) := kb4Exp (byte (2048 + 2 * j + i / 32))
    let val (i : Nat) : Fp :=
      let b := (byte (32 * j + i / 2)).toNat
      fpOfInt (nibbleS (if i % 2 = 1 then b / 16 else b)) (e i).1
    ((List.range 64).map val, (if (e 0).2 then 1 else 0) + (if (e 32).2 then 1 else 0))
  else
    let rs := (List.range 64).map fun i =>
      arrayRead fmt (if fmt = 5 then leNat [byte (128 * j + 2 * i), byte (128 * j + 2 * i + 1)]
                     else (byte (64 * j + i)).toNat)
    (rs.map (·.1), (rs.filter (·.2)).length)

/-- What a step counts: clamps and out-of-range reads, nonfinite lanes. -/
structure NumCount where
  sat : Nat
  range : Nat
  nonfinite : Nat
deriving DecidableEq, Repr

def NumCount.zero : NumCount := ⟨0, 0, 0⟩
def NumCount.add (a b : NumCount) : NumCount := ⟨a.sat + b.sat, a.range + b.range, a.nonfinite + b.nonfinite⟩

/-- One array step into accumulator row `row` (R254–R257). -/
def arrayStep (u : VUnit) (k : Nat) (d : BitVec 256) (row : Nat) (clear : Bool) (bs : List Byte) : VUnit × NumCount :=
  let fmt := sdFmt d
  let buf := 2 * k + tabGet 0 u.active k
  let byte (o : Nat) : Byte := tabGet 0 u.wbuf (8192 * buf + o)
  let old (j : Nat) : List (Nat × Word) := if clear then [] else assoc [] u.acc (64 * row + j)
  if fmt ≤ 1 then
    let n := if fmt = 1 then 128 else 64
    let av := (List.range n).map fun i =>
      intElem fmt (bitAt d 4) (bs.getD (if fmt = 1 then i / 2 else i) 0) (i % 2 = 1)
    let lane (j : Nat) : List (Nat × Word) × Bool :=
      let wv := (List.range n).map fun i =>
        intElem fmt (bitAt d 5) (byte (64 * j + if fmt = 1 then i / 2 else i)) (i % 2 = 1)
      let s := (List.zipWith (· * ·) av wv).sum
      let o : Int := match old j with
        | [] => 0
        | p :: _ => p.2.toInt
      let c := clampS 32 (o + s)
      ([(0, BitVec.ofInt 32 c.1)], c.2)
    let rs := (List.range 64).map lane
    let acc := (List.range 64).foldl (fun a j => assocSet a (64 * row + j) (rs.getD j ([], false)).1) u.acc
    ({ u with acc := acc }, ⟨if rs.any (·.2) then 1 else 0, 0, 0⟩)
  else
    let av := actValues fmt bs
    let lane (j : Nat) : List (Nat × Word) × Nat :=
      let wv := weightRow fmt byte j
      let s := treeSum 6 (List.zipWith (fun a w => toF32 (fpMulExact a w)) av.1 wv.1)
      (stackPush 17 0 s (old j), wv.2)
    let rs := (List.range 64).map lane
    let acc := (List.range 64).foldl (fun a j => assocSet a (64 * row + j) (rs.getD j ([], 0)).1) u.acc
    ({ u with acc := acc }, ⟨0, av.2 + (rs.map (·.2)).sum, 0⟩)

/-- The lanes of an accumulator row once its group is complete. -/
def closeRow (u : VUnit) (d : BitVec 256) (row : Nat) : List Word :=
  (List.range 64).map fun j =>
    let st := assoc [] u.acc (64 * row + j)
    if sdInt d then (match st with
      | [] => 0
      | p :: _ => p.2) else stackClose st

/-! The six stages (R259, R286, R287). -/

/-- Round an exact integer quotient by 2^k, half to even. -/
def shiftHalfEven (x : Int) (k : Nat) : Int :=
  let m := shiftRound false x.natAbs k
  if x < 0 then -(m : Int) else m

/-- Stage 1 on one lane; `int` says the lane is an INT32 accumulator. -/
def stage1 (d : BitVec 256) (int : Bool) (scale : Word) (x : Word) : Word × Bool :=
  let f := if int then f32OfInt x.toInt else x
  if sdScmode d = 0 then (f, false)
  else if sdScmode d = 3 then
    let c := clampS 32 (shiftHalfEven (x.toInt * sbitsOf d 160 16) (bitsOf d 176 6))
    (BitVec.ofInt 32 c.1, c.2)
  else (f32Mul f scale, false)

/-- Stage 2: add the residual, then the bias (integers exactly with a clamp, floats with one rounding each). -/
def stage2 (isInt : Bool) (res bias : Option Word) (x : Word) : Word × Bool :=
  let add (a : Word × Bool) (y : Option Word) : Word × Bool :=
    match y with
    | none => a
    | some b =>
      if isInt then let c := clampS 32 (a.1.toInt + b.toInt); (BitVec.ofInt 32 c.1, a.2 || c.2)
      else (f32Add a.1 b, a.2)
  add (add (x, false) res) bias

/-- Whether the first lane compares below the second. -/
def laneLt (isInt : Bool) (a b : Word) : Bool := if isInt then a.slt b else fpLt (ofF32 a) (ofF32 b)

/-- Stage 4 over one group. -/
def reduceGroup (isInt : Bool) (op : Nat) (xs : List Word) : Word × Bool :=
  if op = 1 then
    if isInt then let c := clampS 32 (xs.map (·.toInt)).sum; (BitVec.ofInt 32 c.1, c.2)
    else (treeSum 6 xs, false)
  else if !isInt && xs.any (fun x => ofF32 x = .nan) then (Config.reduceNan op xs, false)
  else
    let pick (acc : Nat × Word) (p : Nat × Word) : Nat × Word :=
      if (if op = 3 then laneLt isInt p.2 acc.2 else laneLt isInt acc.2 p.2) then p else acc
    let best := ((List.range xs.length).zip xs).foldl pick (0, xs.headD 0)
    if op = 4 then (if isInt then BitVec.ofNat 32 best.1 else f32OfInt best.1, false) else (best.2, false)

/-- Stage 4: groups of 2^REDW lanes; the other lanes read 0. -/
def stage4 (d : BitVec 256) (isInt : Bool) (xs : List Word) : List Word × Bool :=
  let op := bitsOf d 104 3
  if op = 0 then (xs, false)
  else
    let n := 2 ^ bitsOf d 107 3
    let gs := (chunksOf n 64 xs).map (reduceGroup isInt op)
    ((List.range 64).map fun i => (gs.getD i (0, false)).1, gs.any (·.2))

/-- Stage 5 within one vector: ROT and PERM. -/
def stage5 (d : BitVec 256) (perm : Nat → Nat) (xs : List Word) : List Word :=
  let op := bitsOf d 110 3
  if op = 1 then (List.range 64).map fun j => xs.getD ((j + 64 - bitsOf d 113 6) % 64) 0
  else if op = 2 then (List.range 64).map fun i => xs.getD (perm i) 0
  else xs

/-- Stage 6: the packed chunk and what it counts (R260, R276, R283, R285, R286). -/
def packLanes (d : BitVec 256) (isInt : Bool) (xs : List Word) : List Byte × NumCount :=
  let rz := sdRz d
  let o := sdOfmt d
  let val (x : Word) : Fp := if isInt then fpOfInt x.toInt 0 else ofF32 x
  let fval (x : Word) : Fp := if isInt then ofF32 (f32OfInt x.toInt) else ofF32 x
  let cnt (ps : List Packed) : NumCount := ⟨if ps.any (·.sat) then 1 else 0, 0, if ps.any (·.nonfinite) then 1 else 0⟩
  let ints (n : Nat) := xs.map fun x => packInt n rz (val x)
  if o = 0 then let ps := ints 8; (ps.map fun p => BitVec.ofNat 8 p.bits, cnt ps)
  else if o = 1 then
    let ps := ints 4
    ((List.range 32).map fun i => BitVec.ofNat 8 ((ps.getD (2 * i) ⟨0, false, false⟩).bits
      + 16 * (ps.getD (2 * i + 1) ⟨0, false, false⟩).bits), cnt ps)
  else if o = 2 then let ps := xs.map fun x => packFloat e4m3 0x7E 0x7F rz (fval x); (ps.map fun p => BitVec.ofNat 8 p.bits, cnt ps)
  else if o = 3 then let ps := xs.map fun x => packFloat e5m2 0x7B 0x7E rz (fval x); (ps.map fun p => BitVec.ofNat 8 p.bits, cnt ps)
  else if o = 4 then
    let b0 := kb4Pack rz ((xs.take 32).map fval)
    let b1 := kb4Pack rz ((xs.drop 32).map fval)
    let ps := b0.1 ++ b1.1
    (((List.range 32).map fun i => BitVec.ofNat 8 ((ps.getD (2 * i) ⟨0, false, false⟩).bits
      + 16 * (ps.getD (2 * i + 1) ⟨0, false, false⟩).bits)) ++ [b0.2, b1.2],
      cnt ps)
  else if o = 5 then let ps := xs.map fun x => packFloat bf16 0x7F7F 0x7FC0 rz (fval x); (ps.flatMap fun p => leBytes 2 p.bits, cnt ps)
  else if o = 6 then (xs.flatMap fun x => leBytes 4 (if isInt then f32OfInt x.toInt else toF32 (ofF32 x)).toNat, .zero)
  else if o = 7 then let ps := ints 32; (ps.flatMap fun p => leBytes 4 p.bits, cnt ps)
  else if o = 8 then let ps := ints 16; (ps.flatMap fun p => leBytes 2 p.bits, cnt ps)
  else
    let k := ks6Pack rz (xs.map fval)
    let v := k.1.foldr (fun p acc => p.bits + 64 * acc) 0
    (leBytes 48 v ++ leBytes 2 k.2, cnt k.1)

/-- Stages 1 to 5 on one vector. -/
def stages (u : VUnit) (shared : Bool) (k : Nat) (d : BitVec 256) (xs : List Word) (res : Option (List Word)) :
    List Word × Bool :=
  let isInt := sdScmode d = 3
  let s1 := (List.range 64).map fun j =>
    stage1 d (sdInt d) (if sdScmode d = 1 then BitVec.ofNat 32 (bitsOf d 160 32) else paramLane u shared k (bitsOf d 82 7) j)
      (xs.getD j 0)
  let s2 := (List.range 64).map fun j =>
    stage2 isInt (res.map fun r => r.getD j 0)
      (if bitAt d 89 then some (paramLane u shared k (bitsOf d 90 7) j) else none) (s1.getD j (0, false)).1
  let s3 := s2.map fun p =>
    if bitAt d 100 then
      actEval (BitVec.ofNat 32 (bitsOf d 192 32)) (BitVec.ofNat 32 (bitsOf d 224 32))
        (paramSeg u shared k (bitsOf d 101 3)) p.1
    else p.1
  let s4 := stage4 d isInt s3
  let s5 := stage5 d (fun i => (paramLane u shared k (bitsOf d 119 7) i).toNat % 64) s4.1
  (s5, s1.any (·.2) || s2.any (·.2) || s4.2)

/-! Streams and inlets. -/

/-- The bytes that context `k` can read from an inlet at ic. -/
def inletAvail (inl : List InFlit) (k ic : Nat) : List Byte :=
  (inl.filter fun f => f.ctx = k && f.ready ≤ ic).flatMap fun f => (payBytes f.payload).drop (4 * f.word)

/-- Drop `n` bytes from context `k`'s flits of an inlet; the answer names the tag of the last flit begun (R228). -/
def inletDrop (k ic : Nat) : Nat → List InFlit → List InFlit × Option (BitVec 16)
  | _, [] => ([], none)
  | n, f :: fs =>
    if f.ctx = k && f.ready ≤ ic && 0 < n then
      let have_ := 64 - 4 * f.word
      let tag := if f.word = 0 then some f.tag else none
      if n < have_ then ({ f with word := f.word + n / 4 } :: fs, tag)
      else
        let r := inletDrop k ic (n - have_) fs
        (r.1, r.2.orElse fun _ => tag)
    else
      let r := inletDrop k ic n fs
      (f :: r.1, r.2)

/-- The bytes of a stream buffer that have arrived. -/
def streamAvail (st : List (Nat × List Byte)) (ic : Nat) : List Byte :=
  (st.filter fun e => e.1 ≤ ic).flatMap (·.2)

/-- Drop `n` bytes from the front of a stream buffer. -/
def streamDrop : Nat → List (Nat × List Byte) → List (Nat × List Byte)
  | _, [] => []
  | 0, es => es
  | n, e :: es => if e.2.length ≤ n then streamDrop (n - e.2.length) es else (e.1, e.2.drop n) :: es

/-- The bytes a stream buffer holds. -/
def streamLen (st : List (Nat × List Byte)) : Nat := (st.map fun e => e.2.length).sum

/-- A wait of a unit: its cause and nothing changed. -/
abbrev Try (α : Type) := Except SlipCause α

/-- What a unit that finds an AG's stream short waits on: an HBM return where the AG serves a transfer that has some outstanding,
else the AG itself (R238). -/
def agCause (c : Coarse) (k code : Nat) : SlipCause :=
  if (c.m (code / 2)).runs.any fun r => r.1 = 2 * k + code % 2 && (match r.2.hbm with
    | some h => !h.write && !(h.todo.isEmpty && h.out.isEmpty)
    | none => false) then .inlet else .unit

/-- The bytes of context `k`'s inlet that a source code names, for V-unit `v` (Table COARSE-8). -/
def srcInlet (c : Coarse) (v code : Nat) : List InFlit :=
  if code = 8 then (c.v v).inlet else if code = 9 then (c.v 0).inlet else (c.m (code - 10)).inlet

/-- Look at `n` bytes of the source `code` for V-unit `v` of context `k`, without popping (Table COARSE-8). -/
def srcPeek (c : Coarse) (k ic slot v code n : Nat) : Try (List Byte) :=
  let give (bs : List Byte) (cause : SlipCause) : Try (List Byte) :=
    if n ≤ bs.length then .ok (bs.take n) else .error cause
  if code ≤ 7 then give (streamAvail (assoc [] (c.m (code / 2)).streams (2 * k + code % 2)) ic) (agCause c k code)
  else if code ≤ 13 then give (inletAvail (srcInlet c v code) k ic) .inlet
  else if code = 14 then
    give (((c.v (v - 1)).chunks.filter fun x => x.ctx = k && sdDst x.d = 9 && x.due ≤ slot).flatMap (·.bytes)) .unit
  else .ok (List.replicate n 0)

/-- Drop `n` bytes of a V-unit's chained output (DST 9). -/
def chunkDrop (k n : Nat) : Nat → List ChunkOut → List ChunkOut
  | 0, cs => cs
  | _ + 1, [] => []
  | f + 1, x :: xs =>
    if x.ctx = k && 0 < n then
      (if x.bytes.length ≤ n then chunkDrop k (n - x.bytes.length) f xs else { x with bytes := x.bytes.drop n } :: xs)
    else x :: chunkDrop k n f xs

/-- V-unit `v` takes `n` bytes of an inlet or of the A bus: the tag of the last flit it begins goes into its TAGR (R228). -/
def takeTag (c : Coarse) (k ic v code n : Nat) : Coarse :=
  if 8 ≤ code && code ≤ 13 then
    match (inletDrop k ic n (srcInlet c v code)).2 with
    | some t => c.setV v { c.v v with tagr := tabSet 0 (c.v v).tagr k t }
    | none => c
  else c

/-- Pop `n` bytes of a source. -/
def srcPop (c : Coarse) (k ic v code n : Nat) : Coarse :=
  if code ≤ 7 then
    let m := c.m (code / 2)
    let key := 2 * k + code % 2
    c.setM (code / 2) { m with streams := assocSet m.streams key (streamDrop n (assoc [] m.streams key)) }
  else if code ≤ 13 then
    let rest := (inletDrop k ic n (srcInlet c v code)).1
    if code ≤ 9 then
      let w := if code = 9 then 0 else v
      c.setV w { c.v w with inlet := rest }
    else c.setM (code - 10) { c.m (code - 10) with inlet := rest }
  else if code = 14 then
    c.setV (v - 1) { c.v (v - 1) with chunks := chunkDrop k n ((c.v (v - 1)).chunks.length + 1) (c.v (v - 1)).chunks }
  else c

/-- The V-units of context `k` whose running descriptor takes its activations from `code`. -/
def aReaders (c : Coarse) (k code : Nat) : List Nat :=
  (List.range 4).filter fun v => ((c.v v).runs.any fun r => r.1 = k && sdAsrc r.2.d = code)

/-- Take an activation chunk: a source that several V-units read is popped once all have taken it; each takes the tag of a flit it
begins (R228, R258). -/
def takeA (c : Coarse) (k ic slot v code n : Nat) : Try (List Byte × Coarse) :=
  match srcPeek c k ic slot v code n with
  | .error e => .error e
  | .ok bs =>
    let key := 16 * k + code
    let tk := assoc [] c.taken key
    if tk.contains v then .error (if code = 9 then .inlet else .unit)
    else
      let tk' := v :: tk
      let c1 := takeTag c k ic v code n
      if (aReaders c k code).all fun r => tk'.contains r then
        .ok (bs, srcPop { c1 with taken := assocDel c1.taken key } k ic v code n)
      else .ok (bs, { c1 with taken := assocSet c1.taken key tk' })

/-! M-unit movement (R240–R243, R248). -/

/-- Make writes served two or more ic ago visible. -/
def MUnit.settle (m : MUnit) (ic : Nat) : MUnit :=
  let due := m.wpend.filter fun w => w.1 ≤ ic
  { m with sram := due.foldl (fun s w => tabSetAll 0 s w.2.1 w.2.2) m.sram
           wpend := m.wpend.filter fun w => ic < w.1 }

/-- The ports of one ic: words already taken per bank, and the bytes moved by the AG in turn. -/
structure PortUse where
  words : List Nat
  bytes : Nat
deriving DecidableEq, Repr

/-- Whether an element's word can be served beside those already taken (R241). -/
def portTakes (p : PortUse) (addr esz : Nat) : Bool :=
  let ws := (List.range (ceilDiv esz 8)).map fun i => addr / 8 + i
  decide (p.bytes + esz ≤ 256) && ws.all fun w => p.words.all fun q => q = w || q % 32 ≠ w % 32

/-- Record an element's words. -/
def portUse (p : PortUse) (addr esz : Nat) : PortUse :=
  ⟨((List.range (ceilDiv esz 8)).map fun i => addr / 8 + i) ++ p.words, p.bytes + esz⟩

/-- Read elements of AG `g` of context `k` while its port slot and its stream buffer allow; the data, or the index for the partner,
is delivered 3 ic later (R241, R243, R249). -/
def agReadLoop (w : DWord) (k g ic : Nat) : Nat → MUnit → PortUse → MUnit × PortUse
  | 0, m, p => (m, p)
  | f + 1, m, p =>
    let key := 2 * k + g
    match m.runs.find? fun r => r.1 = key with
    | none => (m, p)
    | some (_, r) =>
      let esz := agEsz r.d
      let st := assoc [] m.streams key
      if agMode r.d = 1 || r.i ≥ agTotal r.d || m.held = some key || streamLen st + esz > 1024 then (m, p)
      else
        match agElem w r ic with
        | none => (m, p)
        | some a =>
          if portTakes p a esz then
            let bs := tabRange 0 m.sram a esz
            let m1 := { m with runs := m.runs.map fun (x : Nat × AgRun) => if x.1 = key then (key, { r with i := r.i + 1 }) else x }
            let m2 :=
              if agMode r.d = 2 then
                { m1 with runs := m1.runs.map fun (x : Nat × AgRun) =>
                    if x.1 = 2 * k + (1 - g) then (x.1, { x.2 with idx := x.2.idx ++ [(ic + 3, leNat (bs.take (agIsz x.2.d)))] })
                    else x }
              else { m1 with streams := assocSet m1.streams key (st ++ [(ic + 3, bs)]) }
            agReadLoop w k g ic f m2 (portUse p a esz)
          else (m, p)

/-- Serve one element on the write port. A whole word or more is written as it is; a smaller element is merged into its word as the
read port reads it in the same ic, and the word is written back (R242, R243): what an earlier ic wrote into that word and is not yet
visible is not in it (DEDUCED, log entry 93). -/
def MUnit.writeElem (m : MUnit) (ic a : Nat) (bs : List Byte) : MUnit :=
  if 8 ≤ bs.length then { m with wpend := m.wpend ++ [(ic + 2, a, bs)] }
  else
    let wa := a / 8 * 8
    let here (e : Nat × Nat × List Byte) : Bool := e.1 = ic + 2 && e.2.1 = wa && e.2.2.length = 8
    let old := match m.wpend.find? here with
      | some e => e.2.2
      | none => tabRange 0 m.sram wa 8
    { m with wpend := (m.wpend.filter fun e => !here e) ++ [(ic + 2, wa, old.take (a - wa) ++ bs ++ old.drop (a - wa + bs.length))] }

/-- Write elements of a WR run from the bytes at hand; answers the bytes used. -/
def agWriteLoop (w : DWord) (k g ic : Nat) : Nat → MUnit → PortUse → List Byte → Nat → MUnit × PortUse × Nat
  | 0, m, p, _, n => (m, p, n)
  | f + 1, m, p, bs, n =>
    let key := 2 * k + g
    match m.runs.find? fun r => r.1 = key with
    | none => (m, p, n)
    | some (_, r) =>
      let esz := agEsz r.d
      if agMode r.d ≠ 1 || r.i ≥ agTotal r.d || m.held = some key || bs.length < esz then (m, p, n)
      else
        match agElem w r ic with
        | none => (m, p, n)
        | some a =>
          if portTakes p a esz then
            agWriteLoop w k g ic f
              ({ m with runs := m.runs.map fun (x : Nat × AgRun) => if x.1 = key then (key, { r with i := r.i + 1 }) else x }.writeElem
                ic a (bs.take esz)) (portUse p a esz) (bs.drop esz) (n + esz)
          else (m, p, n)

/-- Write what an HBM read of AG `g` has returned, each element where its offset puts it (R241, R252). -/
def hbmWriteLoop (w : DWord) (k g ic : Nat) : Nat → MUnit → PortUse → MUnit × PortUse
  | 0, m, p => (m, p)
  | f + 1, m, p =>
    let key := 2 * k + g
    match m.runs.find? fun r => r.1 = key with
    | none => (m, p)
    | some (_, r) =>
      match r.hbm with
      | none => (m, p)
      | some h =>
        match h.back with
        | [] => (m, p)
        | (off, bs) :: rest =>
          let esz := agEsz r.d
          match (if m.held = some key then none else agElemAt w r ic (off / esz)) with
          | none => (m, p)
          | some a =>
            if portTakes p a esz then
              let left := if bs.length ≤ esz then rest else (off + esz, bs.drop esz) :: rest
              hbmWriteLoop w k g ic f
                ({ m with runs := m.runs.map fun (x : Nat × AgRun) =>
                    if x.1 = key then (key, { r with hbm := some { h with back := left } }) else x }.writeElem ic a (bs.take esz))
                (portUse p a esz)
            else (m, p)

/-- Remove the runs that have moved their last element: a stream toward the outlet once it has left, an HBM run with its last return
written or its last write acknowledged (R252). -/
def MUnit.endRuns (m : MUnit) : MUnit :=
  { m with runs := m.runs.filter fun r =>
      match r.2.hbm with
      | some h => !(h.todo.isEmpty && h.cur.isNone && h.out.isEmpty && h.back.isEmpty && (!h.write || r.2.i ≥ agTotal r.2.d))
      | none => decide (r.2.i < agTotal r.2.d) || (agPort r.2.d = 9 && agMode r.2.d = 0 && !(assoc [] m.streams r.1).isEmpty) }

/-! HBM transfers (R251, R252, R338–R341, R359–R361). -/

def hdWrite (h : BitVec 128) : Bool := bitAt h 0
def hdMed (h : BitVec 128) : Nat := bitsOf h 1 4
def hdAgd (h : BitVec 128) : Nat := bitsOf h 8 5
def hdAddr (h : BitVec 128) : Nat := bitsOf h 32 38
def hdLen (h : BitVec 128) : Nat := 64 * (bitsOf h 70 15 + 1)

/-- Split a linear transfer into requests of at most 2 KiB, none crossing a 2 KiB boundary (R359). -/
def splitLinear (med addr : Nat) : Nat → Nat → Nat → List HbmPiece
  | 0, _, _ => []
  | f + 1, off, len =>
    if len = 0 then []
    else
      let n := min len (2048 - (addr + off) % 2048)
      ⟨off, n, med, false, addr + off, 0, 0, false⟩ :: splitLinear med addr f (off + n) (len - n)

/-- What a session-space address resolves against: the streams' B values, CAP, the session MED set, p0 and a. -/
structure SessGeom where
  blocks : List Nat
  cap : Nat
  meds : List Nat
  p0 : Nat
  a : Nat
  sess : Nat
deriving DecidableEq, Repr

/-- Row bytes, rows per page and pages of stream `j` (R337). -/
def rowBytes (b : Nat) : Nat := 1600 * b
def rowsPerPage (b : Nat) : Nat := 2097152 / rowBytes b
def streamPages (cap b : Nat) : Nat := ceilDiv (ceilDiv cap 32) (rowsPerPage b)

/-- The pages of a whole session window. -/
def windowPages (cap : Nat) (blocks : List Nat) : Nat := (blocks.map (streamPages cap)).sum

/-- The window byte of byte `x` of stream `j` (R337). -/
def windowByte (g : SessGeom) (j x : Nat) : Nat :=
  let b := g.blocks.getD j 1
  let r := x / rowBytes b
  (((g.blocks.take j).map (streamPages g.cap)).sum + r / rowsPerPage b) * 2097152
    + (r % rowsPerPage b) * rowBytes b + x % rowBytes b

/-- The rows in use after the request (R340). -/
def rowsInUse (g : SessGeom) : Nat := ceilDiv (g.p0 + g.a) 32

/-- Split a session-space transfer of stream `j` beginning at stream byte `x`. Pieces end at row ends' page and 2 KiB
boundaries; on a read, rows at and beyond F read as zero; on a write, rows outside p0 div 32 to F − 1 are dropped. -/
def splitSession (g : SessGeom) (j : Nat) (write : Bool) : Nat → Nat → Nat → Nat → List HbmPiece
  | 0, _, _, _ => []
  | f + 1, x, off, len =>
    if len = 0 then []
    else
      let b := g.blocks.getD j 1
      let w := windowByte g j x
      let n := min (min len (rowBytes b - x % rowBytes b)) (2048 - w % 2048)
      let r := x / rowBytes b
      let inside := if write then g.p0 / 32 ≤ r && r < rowsInUse g else decide (r < rowsInUse g)
      let med := g.meds.getD (w / 2097152 % max 1 g.meds.length) 0
      let pc : HbmPiece := ⟨off, n, med, true, w % 2097152, g.sess, w / 2097152, !inside⟩
      pc :: splitSession g j write f (x + n) (off + n) (len - n)

/-- What an HBMX transfer becomes: its pieces, whether a session read is skipped, how many writes were out of bounds. -/
structure HbmPlan where
  pieces : List HbmPiece
  skipped : Bool
  bounds : Nat
deriving DecidableEq, Repr

/-- Plan an HBMX transfer (R338–R341, R359). A write takes its whole stream: what is for rows outside the session's, those below row 0
among them, is dropped. -/
def hbmPlan (h : BitVec 128) (g : Option SessGeom) : HbmPlan :=
  let a := hdAddr h
  let len := hdLen h
  if a < 2 ^ 37 then ⟨splitLinear (hdMed h) a 2048 0 len, false, 0⟩
  else
    match g with
    | none => ⟨[], true, 1⟩
    | some g =>
      let j := a / 2 ^ 33 % 16
      let rel := a / 2 ^ 32 % 2 = 1
      let ofs : Nat := a % 2 ^ 32
      let rb : Int := rowBytes (g.blocks.getD j 1)
      let x : Int := if rel then (if ofs < 2 ^ 31 then Int.ofNat ofs else Int.ofNat ofs - 4294967296) + Int.ofNat (g.p0 / 32) * rb else Int.ofNat ofs
      if hdWrite h then
        let low := min len (-x).toNat
        let ps := (if low = 0 then [] else [⟨0, low, 0, true, 0, g.sess, 0, true⟩]) ++ splitSession g j true 40000 x.toNat low (len - low)
        ⟨ps, false, if ps.any (·.zero) then 1 else 0⟩
      else if x < 0 || x ≥ (rowsInUse g : Int) * rb then ⟨[], true, 0⟩
      else ⟨splitSession g j false 40000 x.toNat 0 len, false, 0⟩

/-- The command words of a MEM_REQ (Table MEM-3). -/
def memReqWords (op : Nat) (p : HbmPiece) (units rdest rendpt rwafer : Nat) : List Word :=
  [BitVec.ofNat 32 (op + (if p.session then 4 else 0) + 8 * (units - 1)),
   BitVec.ofNat 32 p.addr,
   BitVec.ofNat 32 (if p.session then p.sess + 2 ^ 14 * p.wpage else p.addr / 2 ^ 32),
   BitVec.ofNat 32 (rdest + 2 ^ 11 * rendpt + 2 ^ 21 * rwafer)]

/-- What the paddock stamps on a flit its units send, and where paddocks of the fold's image stand now. -/
structure Stamp where
  pad : Nat
  fold : Nat
  wafer : Nat
  epoch : BitVec 3
  moved : List (Nat × Nat)
deriving DecidableEq, Repr

/-- The header of a flit of an HBM request. -/
def hbmFlit (s : Stamp) (k g no : Nat) (p : HbmPiece) (typ : BitVec 4) (seq : Nat) (pl : Payload) : Flit :=
  ⟨typ, BitVec.ofNat 4 s.wafer, BitVec.ofNat 11 (medDest p.med), 0, BitVec.ofNat 6 s.fold, BitVec.ofNat 2 k, s.epoch,
   BitVec.ofNat 8 seq, BitVec.ofNat 16 (k * 2 ^ 14 + g * 2 ^ 13 + no % 2 ^ 13), pl⟩

/-- The next flit of AG `g`'s transfer of M-unit `m`, with the run after it and the bytes it takes from the stream; none where none can
be formed yet (R251, R361). -/
def hbmNext (s : Stamp) (m k g : Nat) (h : HbmRun) (av : List Byte) : Option (Flit × HbmRun × Nat) :=
  match h.cur with
  | some (p, no, u) =>
    if p.zero || av.length < 64 then none
    else
      let ends := decide (u + 1 = ceilDiv p.len 64)
      some (hbmFlit s k g no p (if ends then ftDataEnd else ftData) (u + 1) (payOfBytes (av.take 64)),
        if ends then { h with cur := none, out := h.out ++ [(no, p, 0)] } else { h with cur := some (p, no, u + 1) }, 64)
  | none =>
    match h.todo with
    | [] => none
    | p :: rest =>
      if p.zero then none
      else
        let req (op : Nat) : Flit := hbmFlit s k g h.next p ftMemReq 0 (payOfWords (memReqWords op p (ceilDiv p.len 64) s.pad (4 + m) s.wafer))
        if h.write then some (req 1, { h with todo := rest, cur := some (p, h.next, 0), next := h.next + 1 }, 0)
        else some (req 0, { h with todo := rest, out := h.out ++ [(h.next, p, 0)], next := h.next + 1 }, 0)

/-- The bytes of a write's rows outside the session's are read and dropped (R340). -/
def hbmSkip (h : HbmRun) (av : Nat) : HbmRun × Nat :=
  match h.cur with
  | some (p, no, u) =>
    if !p.zero then (h, 0)
    else
      let n := min (av / 64) (p.len / 64 - u)
      (if u + n = p.len / 64 then { h with cur := none } else { h with cur := some (p, no, u + n) }, 64 * n)
  | none =>
    match h.todo with
    | p :: rest => if p.zero then ({ h with todo := rest, cur := some (p, 0, 0) }, 0) else (h, 0)
    | [] => (h, 0)

/-- Whether an endpoint's outlet has a place for context `k` (R228). -/
def outletFree (shared : Bool) (o : List Flit) (k : Nat) : Bool :=
  if shared then o.all fun f => f.ctx.toNat ≠ k else decide (o.length < 4)

/-- Flits that units close in an ic, judged together: the paddock so far, the flits closed so far, and what units wait on. -/
structure Sends where
  c : Coarse
  sent : List Flit
  waits : List SlipCause

/-- AG `g` of M-unit `mi` puts flits of its HBM transfer into the outlet, up to four, while it has places and credits; one that finds
none for its first flit waits on its outlet (R147, R237, R252). -/
def hbmSend (s : Stamp) (shared : Bool) (k ic mi g : Nat) (creditsOk : List Flit → Bool) : Nat → Sends → Sends
  | 0, x => x
  | f + 1, x =>
    let key := 2 * k + g
    let m := x.c.m mi
    match m.runs.find? fun r => r.1 = key with
    | none => x
    | some (_, r) =>
      match r.hbm with
      | none => x
      | some h0 =>
        let st := assoc [] m.streams key
        let sk := hbmSkip h0 (streamAvail st ic).length
        let st1 := streamDrop sk.2 st
        let put (h : HbmRun) (n : Nat) (fs : List Flit) : Coarse :=
          x.c.setM mi { m with runs := m.runs.map fun (y : Nat × AgRun) => if y.1 = key then (key, { y.2 with hbm := some h }) else y
                               streams := if h.write then assocSet m.streams key (streamDrop n st1) else m.streams
                               outlet := m.outlet ++ fs }
        match hbmNext s mi k g sk.1 (streamAvail st1 ic) with
        | none => { x with c := put sk.1 0 [] }
        | some (fl, h, n) =>
          if outletFree shared m.outlet k && creditsOk (x.sent ++ [fl]) then
            hbmSend s shared k ic mi g creditsOk f { x with c := put h n [fl], sent := x.sent ++ [fl] }
          else { x with c := put sk.1 0 [], waits := if f = 3 then x.waits ++ [.output] else x.waits }

/-- The pieces of a session read that read as zero are written like what returns, as the run starts (R340). -/
def hbmZeros (ps : List HbmPiece) : List (Nat × List Byte) :=
  (ps.filter (·.zero)).map fun p => (p.off, List.replicate p.len 0)

/-! The V-unit in a granted ic. -/

/-- Fill a weight buffer of V-unit `v` from the AG that serves its W port: the shadow buffer of a run; before a run, WBUF of the
context's first stage descriptor that names an AG as WSRC, which R255 leaves open (DESIGN CHOICE, log entry 93). -/
def fillWeights (c : Coarse) (k ic v : Nat) : Coarse :=
  let u := c.v v
  let ds := (u.sdesc.filter fun p => p.1 / 32 = k && sdWsrc p.2 ≤ 7).map (·.2)
  match ds with
  | [] => c
  | d0 :: _ =>
    let run := u.runs.find? fun r => r.1 = k
    let d := match run with
      | some r => r.2.d
      | none => d0
    let code := sdWsrc d
    if code > 7 then c
    else
      let b := match run with
        | some _ => 1 - tabGet 0 u.active k
        | none => bitsOf d 6 1
      let pos := tabGet 0 u.filled (2 * k + b)
      let m := c.m (code / 2)
      let st := assoc [] m.streams (2 * k + code % 2)
      let isW := m.agDesc.any fun p => p.1 / 32 = k && agPort p.2 = v && agMode p.2 = 0
      let n := min (min 256 (streamAvail st ic).length) (tileSize (sdFmt d) - pos)
      if n = 0 || !isW then c
      else
        let c1 := srcPop c k ic v code n
        c1.setV v { c1.v v with
          wbuf := tabSetAll 0 (c1.v v).wbuf (8192 * (2 * k + b) + pos) ((streamAvail st ic).take n)
          filled := tabSet 0 (c1.v v).filled (2 * k + b) (pos + n) }

/-- Whether the next block's weight tile must be, and is, present before the step that swaps to it (R237, R255). -/
def swapReady (u : VUnit) (k : Nat) (d : BitVec 256) (step : Nat) : Bool :=
  let swaps := (step + 1) % sdNacc d = 0 && step + 1 < sdSteps d
  !swaps || !bitAt d 7 || decide (tileSize (sdFmt d) ≤ tabGet 0 u.filled (2 * k + (1 - tabGet 0 u.active k)))

/-- One ic of a running V-unit: count down its pace, or take its step (R237, R254–R257). -/
def vStep (c : Coarse) (shared : Bool) (k ic slot v : Nat) : Try (Coarse × NumCount) :=
  match (c.v v).runs.find? fun r => r.1 = k with
  | none => .ok (c, .zero)
  | some (_, r) =>
    if 0 < r.pace then
      .ok (c.setV v { c.v v with runs := assocSet (c.v v).runs k { r with pace := r.pace - 1 } }, .zero)
    else if (c.v v).reexec.isSome then .error .unit
    else if !sdBypass r.d && !swapReady (c.v v) k r.d r.step then .error (if sdWsrc r.d ≤ 7 then agCause c k (sdWsrc r.d) else .unit)
    else
      match takeA c k ic slot v (sdAsrc r.d) (chunkSize (sdFmt r.d)) with
      | .error e => .error e
      | .ok (bs, c1) =>
        let d := r.d
        let g := sdKblk d * sdNacc d
        let s := r.step % g
        let row := s % sdNacc d
        let lastRun := r.step + 1 ≥ sdSteps d
        let u := c1.v v
        let lat := if sdFmt d = 5 then 15 else 12
        let out (u : VUnit) (rows : List RowOut) : VUnit :=
          let runs := if lastRun then assocDel u.runs k
            else assocSet u.runs k { r with step := r.step + 1, pace := sdPace d - 1 }
          { u with runs := runs, rows := u.rows ++ rows }
        if sdBypass d then
          let lanes := (List.range 64).map fun j => BitVec.ofNat 32 (leNat (slice bs (4 * j) 4))
          .ok (c1.setV v (out u [⟨k, slot + lat, lanes, d, lastRun⟩]), .zero)
        else
          let st := arrayStep u k d (accRow shared k row) (decide (s / sdNacc d = 0)) bs
          let swaps := (r.step + 1) % sdNacc d = 0 && !lastRun
          let b := tabGet 0 st.1.active k
          let u2 := if swaps && bitAt d 7 then
              { st.1 with active := tabSet 0 st.1.active k (1 - b), filled := tabSet 0 st.1.filled (2 * k + b) 0 }
            else if lastRun && bitAt d 7 then { st.1 with filled := tabSet 0 st.1.filled (2 * k + b) 0 }
            else if swaps then { st.1 with active := tabSet 0 st.1.active k (1 - b) }
            else st.1
          let rows := if s + 1 = g then
              (List.range (sdNacc d)).map fun i =>
                (⟨k, slot + lat + i, closeRow u2 d (accRow shared k i), d, lastRun && i + 1 = sdNacc d⟩ : RowOut)
            else []
          .ok (c1.setV v (out u2 rows), st.2)

/-- The bytes of a residual vector, by RESFMT. -/
def resBytes (d : BitVec 256) : Nat := if bitsOf d 98 2 = 2 then 128 else 256

/-- The residual lanes. -/
def resLanes (d : BitVec 256) (bs : List Byte) : List Word :=
  (List.range 64).map fun j =>
    if bitsOf d 98 2 = 2 then BitVec.ofNat 32 (leNat (slice bs (2 * j) 2) * 65536)
    else BitVec.ofNat 32 (leNat (slice bs (4 * j) 4))

/-- The oldest row of context `k` enters the stages, when it is due: merge, stages 1–5, TRANS and pack (R257, R274). -/
def vRows (c : Coarse) (shared : Bool) (k ic slot v : Nat) : Try (Coarse × NumCount) :=
  match (c.v v).rows.find? fun r => r.ctx = k && r.due ≤ slot with
  | none => .ok (c, .zero)
  | some r =>
    let d := r.d
    match (if sdMsrc d = 15 then .ok [] else srcPeek c k ic slot v (sdMsrc d) 256) with
    | .error e => .error e
    | .ok mb =>
      match (if bitAt d 97 then srcPeek c k ic slot v (sdRsrc d) (resBytes d) else .ok []) with
      | .error e => .error e
      | .ok rb =>
        let c1 := if sdMsrc d = 15 then c else srcPop (takeTag c k ic v (sdMsrc d) 256) k ic v (sdMsrc d) 256
        let c2 := if bitAt d 97 then srcPop (takeTag c1 k ic v (sdRsrc d) (resBytes d)) k ic v (sdRsrc d) (resBytes d) else c1
        let merged := if sdMsrc d = 15 then r.lanes
          else (List.range 64).map fun j => f32Add (r.lanes.getD j 0) (BitVec.ofNat 32 (leNat (slice mb (4 * j) 4)))
        let u := c2.v v
        let st := stages u shared k d merged (if bitAt d 97 then some (resLanes d rb) else none)
        let isInt := sdScmode d = 3
        let u1 := { u with rows := dropFirst (fun x => x.ctx = k && x.due ≤ slot) u.rows }
        let n0 : NumCount := ⟨if st.2 then 1 else 0, 0, 0⟩
        let push (u : VUnit) (base : Nat) (vs : List (List Word)) : VUnit × NumCount :=
          let ps := vs.map (packLanes d isInt)
          ({ u with chunks := u.chunks ++ ((List.range ps.length).zip ps).map fun p =>
              (⟨k, base + p.1, p.2.1, d, r.ends && p.1 + 1 = ps.length⟩ : ChunkOut) },
           ps.foldl (fun a p => a.add p.2) n0)
        if bitsOf d 110 3 = 3 then
          let held := assoc [] u1.trans k ++ [st.1]
          if held.length < 64 then .ok (c2.setV v { u1 with trans := assocSet u1.trans k held }, n0)
          else
            let tr := (List.range 64).map fun i => held.map fun row => row.getD i 0
            let p := push { u1 with trans := assocDel u1.trans k } (slot + 14) tr
            .ok (c2.setV v p.1, p.2)
        else
          let p := push u1 (slot + 14) [st.1]
          .ok (c2.setV v p.1, p.2)

/-- Close an outlet flit from a descriptor and 64 bytes: the type by its TYPE and MWR as for a tile (R208, R209, R228, R260). -/
def unitFlit (s : Stamp) (dsc : DWord) (k seq : Nat) (ends : Bool) (tagr : BitVec 16) (bs : List Byte) : Flit :=
  { closeFlit dsc [] seq ends k s.fold s.epoch tagr (s.wafer, s.moved) with payload := payOfBytes bs }

/-- Whether each flit of a descriptor is a message of its own (R208). -/
def descOneFlit (dsc : DWord) : Bool := descType dsc = 4 && !descMwr dsc

/-- Whether `n` bytes more fit what context `k` has on its way from V-unit `v` to an AG or to the next V-unit's A port: a stream
buffer of 1 KiB (Table COARSE-1; toward an AG the size is the model's: DESIGN CHOICE, log entry 93). -/
def outRoom (u : VUnit) (k slot dst : Nat) : Bool :=
  decide (((u.chunks.filter fun x => x.ctx = k && x.due ≤ slot && sdDst x.d = dst).map fun x => x.bytes.length).sum ≤ 1024)

/-- Close the flits that context `k` has ready at V-unit `v`'s outlet while it has places and credits: full ones, and the last of a run
as DATA_END (R260). -/
def vClose (s : Stamp) (shared : Bool) (k v : Nat) (creditsOk : List Flit → Bool) : Nat → Sends → Sends
  | 0, x => x
  | f + 1, x =>
    let u := x.c.v v
    let b := assoc OutBuild.initial u.obuild k
    if b.bytes.length < 64 && !(b.ends && !b.bytes.isEmpty) then
      (if b.ends then { x with c := x.c.setV v { u with obuild := assocDel u.obuild k } } else x)
    else
      let dsc := tabGet 0 x.c.descs (16 * k + b.desc)
      let rest := b.bytes.drop 64
      let last := (b.ends && rest.isEmpty) || b.seq = 255 || descOneFlit dsc
      let fl := unitFlit s dsc k b.seq last (tabGet 0 u.tagr k) (b.bytes.take 64)
      if outletFree shared u.outlet k && creditsOk (x.sent ++ [fl]) then
        let b1 : OutBuild := { b with bytes := rest, seq := if last then 0 else b.seq + 1 }
        vClose s shared k v creditsOk f
          { x with c := x.c.setV v { u with outlet := u.outlet ++ [fl], obuild := assocSet u.obuild k b1 }, sent := x.sent ++ [fl] }
      else { x with waits := if f = 4 then x.waits ++ [.output] else x.waits }

/-- The packed chunk due of context `k` leaves V-unit `v`: toward its outlet, once what was there before has left; to an AG or the
next V-unit's A port, where it must find room; or nowhere (R237, R260). -/
def vOut (s : Stamp) (shared : Bool) (k slot v : Nat) (creditsOk : List Flit → Bool) (x : Sends) : Sends :=
  let x0 := vClose s shared k v creditsOk 5 x
  let u := x0.c.v v
  let full := (List.range 10).any fun dst => dst ≠ 8 && !outRoom u k slot dst
  let x1 : Sends := if full then { x0 with waits := x0.waits ++ [.unit] } else x0
  let mine (y : ChunkOut) : Bool := y.ctx = k && y.due ≤ slot && (sdDst y.d = 8 || sdDst y.d = 15)
  match u.chunks.find? mine with
  | none => x1
  | some y =>
    let u1 := { u with chunks := dropFirst mine u.chunks }
    if sdDst y.d = 15 then { x1 with c := x1.c.setV v u1 }
    else
      let b := assoc OutBuild.initial u.obuild k
      if 64 ≤ b.bytes.length || b.ends then (if x1.waits.contains .output then x1 else { x1 with waits := x1.waits ++ [.output] })
      else
        let b1 : OutBuild := ⟨b.bytes ++ y.bytes, b.seq, sdOdesc y.d, y.ends⟩
        vClose s shared k v creditsOk 5 { x1 with c := x1.c.setV v { u1 with obuild := assocSet u1.obuild k b1 } }

/-- An AG reading toward the outlet (PORT 9) closes flits of 64 bytes read, up to four, the last of its run as DATA_END; one that
finds no place or credit for its first flit waits on its outlet (R237, R247). -/
def agOut (s : Stamp) (shared : Bool) (k ic mi g : Nat) (creditsOk : List Flit → Bool) : Nat → Sends → Sends
  | 0, x => x
  | f + 1, x =>
    let m := x.c.m mi
    let key := 2 * k + g
    match m.runs.find? fun r => r.1 = key && agPort r.2.d = 9 && agMode r.2.d = 0 with
    | none => x
    | some (_, r) =>
      let st := assoc [] m.streams key
      let av := streamAvail st ic
      let done := r.i ≥ agTotal r.d
      let n := if 64 ≤ av.length then 64 else if done && av.length = streamLen st then av.length else 0
      if n = 0 then x
      else
        let dsc := tabGet 0 x.c.descs (16 * k + agOdesc r.d)
        let seq := tabGet 0 m.oseq key
        let last := (done && n = streamLen st) || seq = 255 || descOneFlit dsc
        let fl := unitFlit s dsc k seq last (tabGet 0 m.tagr k) (av.take n)
        if outletFree shared m.outlet k && creditsOk (x.sent ++ [fl]) then
          agOut s shared k ic mi g creditsOk f
            { x with c := x.c.setM mi { m with streams := assocSet m.streams key (streamDrop n st), outlet := m.outlet ++ [fl]
                                               oseq := tabSet 0 m.oseq key (if last then 0 else seq + 1) }
                     sent := x.sent ++ [fl] }
        else { x with waits := if f = 3 then x.waits ++ [.output] else x.waits }

/-- The bytes at hand for a WR run: the M-unit's inlet, or the V-unit whose DST names the AG. -/
def wrSource (c : Coarse) (k ic slot mi g : Nat) (port : Nat) : List Byte :=
  if port = 9 then inletAvail (c.m mi).inlet k ic
  else if port = 10 then
    (List.range 4).flatMap fun v =>
      ((c.v v).chunks.filter fun x => x.ctx = k && x.due ≤ slot && sdDst x.d = 2 * mi + g).flatMap (·.bytes)
  else []

/-- Drop bytes a WR run has written. -/
def wrDrop (c : Coarse) (k ic mi g port n : Nat) : Coarse :=
  if n = 0 then c
  else if port = 9 then
    let r := inletDrop k ic n (c.m mi).inlet
    c.setM mi { c.m mi with inlet := r.1, tagr := (match r.2 with
      | some t => tabSet 0 (c.m mi).tagr k t
      | none => (c.m mi).tagr) }
  else
    (List.range 4).foldl (fun a v =>
      let u := a.v v
      let mine := u.chunks.filter fun x => x.ctx = k && sdDst x.d = 2 * mi + g
      if mine.isEmpty then a
      else a.setV v { u with chunks := (u.chunks.filter fun x => !(x.ctx = k && sdDst x.d = 2 * mi + g))
                                ++ chunkDrop k n (mine.length + 1) mine }) c

/-- The M-units move elements for context `k` in an ic: the writes of AG0 before AG1, then on the read port the words those writes
merge, AG0 and AG1 (R241, R242). In a slipped ic nothing is popped from an inlet (R237). -/
def mMove (c : Coarse) (w : DWord) (k ic slot : Nat) (slipped : Bool) : Coarse :=
  (List.range 4).foldl (fun c mi =>
    let wr (c : Coarse) (g : Nat) (p : PortUse) : Coarse × PortUse × List Nat :=
      match (c.m mi).runs.find? fun r => r.1 = 2 * k + g && agMode r.2.d = 1 with
      | none => (c, p, [])
      | some (_, r) =>
        let rmw (q : PortUse) : List Nat := if agEsz r.d < 8 then q.words.take (q.words.length - p.words.length) else []
        if r.hbm.isSome then
          let x := hbmWriteLoop w k g ic 256 (c.m mi) p
          (c.setM mi x.1, x.2, rmw x.2)
        else
          let bs := if slipped && agPort r.d = 9 then [] else wrSource c k ic slot mi g (agPort r.d)
          let x := agWriteLoop w k g ic 256 (c.m mi) p bs 0
          (wrDrop (c.setM mi x.1) k ic mi g (agPort r.d) x.2.2, x.2.1, rmw x.2.1)
    let w0 := wr c 0 ⟨[], 0⟩
    let w1 := wr w0.1 1 ⟨w0.2.1.words, 0⟩
    let rd0 := agReadLoop w k 0 ic 256 (w1.1.m mi) ⟨w0.2.2 ++ w1.2.2, 0⟩
    let rd1 := agReadLoop w k 1 ic 256 rd0.1 ⟨rd0.2.words, 0⟩
    w1.1.setM mi rd1.1.endRuns) c

/-- PARAM writes under way take up to a row from their stream; each row goes where the context's rows lie (R231, R232). -/
def paramMove (c : Coarse) (shared : Bool) (k ic : Nat) : Coarse :=
  c.params.foldl (fun c p =>
    if p.ctx ≠ k then { c with params := c.params ++ [p] }
    else
      let av := streamAvail (assoc [] (c.m (p.src / 2)).streams (2 * k + p.src % 2)) ic
      let n := min (min 256 av.length) p.left
      let c1 := srcPop c k ic p.v p.src n
      let bytes := (List.range n).zip (av.take n)
      let c2 := c1.setV p.v { c1.v p.v with param := bytes.foldl (fun t b =>
        tabSet 0 t (256 * paramRow shared k (p.row + (p.done + b.1) / 256) + (p.done + b.1) % 256) b.2) (c1.v p.v).param }
      if n < p.left then { c2 with params := c2.params ++ [{ p with done := p.done + n, left := p.left - n }] } else c2)
    { c with params := [] }

/-! The command stream (R233–R236). -/

/-- Whether the unit or AG a command names is idle for context `k`. -/
def cmdIdle (c : Coarse) (k : Nat) (cmd : DWord) : Bool :=
  if cmdOp cmd = 1 then !((c.v (cmdUnit cmd)).runs.any fun r => r.1 = k)
  else if cmdOp cmd = 4 then !(c.params.any fun p => p.ctx = k && p.v = cmdUnit cmd)
  else !((c.m (cmdUnit cmd)).runs.any fun r => r.1 = 2 * k + cmdAg cmd)

/-- Whether a command's predicate lets it fire. An HBMX in WR mode is one whose AG writes the SRAM (R235, Table COARSE-6). -/
def cmdFires (c : Coarse) (k ic slot : Nat) (cmd : DWord) : Bool :=
  let u := cmdUnit cmd
  if cmdPred cmd = 2 then cmdIdle c k cmd
  else if cmdPred cmd = 1 then
    if cmdOp cmd = 1 then
      match srcPeek c k ic slot u (sdAsrc (tabGet 0 (c.v u).sdesc (32 * k + cmdDesc cmd))) 1 with
      | .ok _ => true
      | .error _ => false
    else if cmdOp cmd = 2 && agMode (tabGet 0 (c.m u).agDesc (32 * k + cmdDesc cmd)) = 1 then
      !(inletAvail (c.m u).inlet k ic).isEmpty
    else if cmdOp cmd = 3 && agMode (tabGet 0 (c.m u).agDesc (32 * k + hdAgd (tabGet 0 (c.m u).hbmDesc (16 * k + cmdDesc cmd % 16)))) = 1 then
      !(inletAvail (c.m u).inlet k ic).isEmpty
    else true
  else true

/-- Start what a command names; the counts are (session reads skipped, session bounds violations). -/
def cmdStart (c : Coarse) (k : Nat) (geom : SessReg → Option SessGeom) (cmd : DWord) :
    Coarse × Nat × Nat :=
  let u := cmdUnit cmd
  if cmdOp cmd = 1 then
    let d := tabGet 0 (c.v u).sdesc (32 * k + cmdDesc cmd)
    (c.setV u { c.v u with runs := assocSet (c.v u).runs k ⟨d, 0, 0⟩
                           active := tabSet 0 (c.v u).active k (bitsOf d 6 1) }, 0, 0)
  else if cmdOp cmd = 2 then
    let d := tabGet 0 (c.m u).agDesc (32 * k + cmdDesc cmd)
    (c.setM u { c.m u with runs := assocSet (c.m u).runs (2 * k + cmdAg cmd) ⟨d, 0, [], none⟩ }, 0, 0)
  else if cmdOp cmd = 3 then
    let h := tabGet 0 (c.m u).hbmDesc (16 * k + cmdDesc cmd % 16)
    let d := tabGet 0 (c.m u).agDesc (32 * k + hdAgd h)
    let g := match c.sess.find? fun p => p.1 = k with
      | some p => geom p.2
      | none => none
    let pl := hbmPlan h g
    if pl.pieces.isEmpty then (c, if pl.skipped && pl.bounds = 0 then 1 else 0, pl.bounds)
    else
      let r : AgRun := ⟨d, 0, [], some ⟨hdWrite h, pl.pieces.filter fun p => hdWrite h || !p.zero, none, [], 0,
        if hdWrite h then [] else hbmZeros pl.pieces⟩⟩
      (c.setM u { c.m u with runs := assocSet (c.m u).runs (2 * k + cmdAg cmd) r }, 0, pl.bounds)
  else if cmdOp cmd = 4 then
    ({ c with params := c.params ++ [⟨k, u, cmdPsrc cmd, cmdRow cmd, 0, 256 * cmdNrow cmd⟩] }, 0, 0)
  else (c, 0, 0)

/-- What a granted ic of a C-paddock does for context `k`. -/
structure CoarseOut where
  c : Coarse
  slip : Option SlipCause
  count : NumCount
  skip : Nat
  bounds : Nat
deriving DecidableEq, Repr

/-- The first cause in the order of R238. -/
def firstCause (cs : List SlipCause) : Option SlipCause :=
  if cs.contains .inlet then some .inlet
  else if cs.contains .output then some .output
  else if cs.contains .unit then some .unit else none

/-- What a command that is not ready waits on: an HBM return where it names an AG whose transfer has some outstanding (R236, R238). -/
def busyCause (c : Coarse) (k : Nat) (cmd : DWord) : SlipCause :=
  if cmdOp cmd = 2 || cmdOp cmd = 3 then agCause c k (2 * cmdUnit cmd + cmdAg cmd) else .unit

/-- A WR run from an M-unit's inlet that finds no data there waits on the inlet (R237). -/
def agInletWaits (c : Coarse) (k ic : Nat) : List SlipCause :=
  (List.range 8).filterMap fun i =>
    match (c.m (i / 2)).runs.find? fun r => r.1 = 2 * k + i % 2 && agMode r.2.d = 1 && agPort r.2.d = 9 && r.2.hbm.isNone with
    | some (key, r) =>
      if r.i < agTotal r.d && (c.m (i / 2)).held ≠ some key && (inletAvail (c.m (i / 2)).inlet k ic).isEmpty then some .inlet else none
    | none => none

/-- The steps of every running unit of context `k` in one ic, the later V-units of a chain first so that they take before the earlier
ones give; what any of them waits on is named (R237). -/
def coarseSteps (c0 : Coarse) (s : Stamp) (shared : Bool) (k ic slot : Nat) (creditsOk : List Flit → Bool) : Sends × NumCount :=
  let vs := [3, 2, 1, 0].foldl (fun (a : Sends × NumCount) v =>
    let a1 : Sends × NumCount := match vStep a.1.c shared k ic slot v with
      | .ok r => ({ a.1 with c := r.1 }, a.2.add r.2)
      | .error e => ({ a.1 with waits := a.1.waits ++ [e] }, a.2)
    let a2 : Sends × NumCount := match vRows a1.1.c shared k ic slot v with
      | .ok r => ({ a1.1 with c := r.1 }, a1.2.add r.2)
      | .error e => ({ a1.1 with waits := a1.1.waits ++ [e] }, a1.2)
    (vOut s shared k slot v creditsOk a2.1, a2.2)) (⟨c0, [], agInletWaits c0 k ic⟩, NumCount.zero)
  ((List.range 8).foldl (fun x i =>
    hbmSend s shared k ic (i / 2) (i % 2) creditsOk 4 (agOut s shared k ic (i / 2) (i % 2) creditsOk 4 x)) vs.1, vs.2)

/-- One granted ic of context `k` (R237). Every due command is ready and every running unit can take its step: the commands start,
the units step, flits close. Where a unit waits, the ic is a slip: nothing starts, pops an inlet or sends; only the address
generators between SRAM and the buffers go on, and with them the weight buffers and the parameter store, as R246 and *Steps and the
slip* have them, since no wait on them could otherwise end (DEDUCED, log entry 93). Where only a due command is not ready, its unit's
previous run goes on with every other step until it ends (R268), and t_k stays. A PRES command that finds its unit busy waits like an
ALWAYS one, which alone R236 names (DESIGN CHOICE, log entry 93). -/
def coarseGranted (c0 : Coarse) (s : Stamp) (w : DWord) (shared : Bool) (k ic slot : Nat)
    (geom : SessReg → Option SessGeom) (creditsOk : List Flit → Bool) : CoarseOut :=
  let cIn := { c0 with mu := c0.mu.map fun m => m.settle ic }
  let per := cwPeriod w
  let due := ((List.range (cwNcmd w)).map fun i => tabGet 0 c0.cmds (256 * k + i)).filter fun x =>
    cmdTime x = slot % per && cmdOp x ≠ 0
  let fires := due.filter (cmdFires cIn k ic slot)
  let busy := (fires.filter fun x => cmdPred x ≠ 2 && !cmdIdle cIn k x).map (busyCause cIn k)
  let started := (if busy.isEmpty then fires else []).foldl (fun a x =>
    let r := cmdStart a.1 k geom x
    (r.1, a.2.1 + r.2.1, a.2.2 + r.2.2)) (cIn, 0, 0)
  let steps := coarseSteps started.1 s shared k ic slot creditsOk
  let feed (c : Coarse) (slipped : Bool) : Coarse :=
    (List.range 4).foldl (fun c v => fillWeights c k ic v) (paramMove (mMove c w k ic slot slipped) shared k ic)
  if steps.1.waits.isEmpty then
    let c3 := feed steps.1.c false
    let c4 := if 0 < steps.2.sat + steps.2.range then { c3 with sat := tabSet false c3.sat k true } else c3
    ⟨c4, firstCause busy, steps.2, started.2.1, started.2.2⟩
  else ⟨feed cIn true, firstCause (steps.1.waits ++ busy), .zero, 0, 0⟩

/-- The items of context `k` a C-paddock holds (R211, R253). -/
def Coarse.occupancy (c : Coarse) (k : Nat) : Nat :=
  (c.mu.map fun m => (m.inlet.filter fun f => f.ctx = k).length + (m.outlet.filter fun f => f.ctx.toNat = k).length
      + (m.runs.filter fun r => r.1 / 2 = k && r.2.hbm.isSome).length).sum
    + (c.vu.map fun u => (u.inlet.filter fun f => f.ctx = k).length + (u.outlet.filter fun f => f.ctx.toNat = k).length
      + (u.runs.filter fun r => r.1 = k).length + (u.rows.filter fun r => r.ctx = k).length
      + (u.chunks.filter fun x => x.ctx = k).length + (u.obuild.filter fun b => b.1 = k && !b.2.bytes.isEmpty).length).sum

/-- Drop everything of context `k` in flight. -/
def Coarse.dropCtx (c : Coarse) (k : Nat) : Coarse :=
  { c with
    mu := c.mu.map fun m => { m with inlet := m.inlet.filter (fun f => f.ctx ≠ k), outlet := m.outlet.filter (fun f => f.ctx.toNat ≠ k), runs := m.runs.filter (fun r => r.1 / 2 ≠ k), streams := m.streams.filter (fun r => r.1 / 2 ≠ k), oseq := m.oseq.filter (fun r => r.1 / 2 ≠ k) }
    vu := c.vu.map fun u => { u with inlet := u.inlet.filter (fun f => f.ctx ≠ k), outlet := u.outlet.filter (fun f => f.ctx.toNat ≠ k), runs := u.runs.filter (fun r => r.1 ≠ k), rows := u.rows.filter (fun r => r.ctx ≠ k), chunks := u.chunks.filter (fun r => r.ctx ≠ k), obuild := u.obuild.filter (fun r => r.1 ≠ k) }
    params := c.params.filter (fun p => p.ctx ≠ k) }

end Sys2Proof.Machine
end

