-- ==== Sys2Proof/Machine/Link.lean ====
section
/-! DEFINITION. One lane of one end of a border: its sender and receiver halves, sequence numbers, replay buffer,
credits and verdicts (R122, R132–R134, R144, R150–R168, R943, R944). -/
namespace Sys2Proof.Machine

open Sys2Proof

/-- A flit held at a router: the VC it uses, whether a lasting-down verdict moved it to its detour, where it keeps its place among
the flits moved with it (R158), and the hops left of an AROUND detour, each as an image's LINK record codes it. -/
structure Queued where
  flit : Flit
  vc : Bool
  moved : Bool
  path : List Nat
  /-- The moment it entered a die's receive buffer. -/
  came : Time
deriving DecidableEq, Repr

/-- The direction and the lane of a hop of an AROUND detour (Table IMG-3, LINK). -/
def hopDir (h : Nat) : Nat := h % 4
def hopLane (h : Nat) : Nat := h / 4 % 4

/-- One flit of a replay buffer, with its LSEQ, whether its one replay has been started (R154), and whether it was sent as the
first flit of a paired beat (R164). -/
structure Replay where
  item : Queued
  lseq : BitVec 5
  replayed : Bool
  pair : Bool
deriving DecidableEq, Repr

/-- The detour classes of Table MESH-7; an AROUND names its three hops. -/
inductive Detour where
  | shift (lane : Nat)
  | around (hops : List Nat)
  | transit
deriving DecidableEq, Repr

/-- One lane at one end: what it sends toward its peer and what it has received from it. -/
structure LinkEnd where
  /-- The LSEQ last assigned. -/
  last : BitVec 5
  /-- Flits sent and not yet acknowledged, oldest first, at most 16. -/
  replay : List Replay
  /-- The next entry of `replay` to send again, while a replay is under way. -/
  cursor : Option Nat
  /-- Credits held on VC 0 and VC 1. -/
  credit0 : Nat
  credit1 : Nat
  /-- The CC0 and CC1 counts last received. -/
  seen0 : BitVec 5
  seen1 : BitVec 5
  /-- Flits to send before any arbitrated one: moved here by a detour, or waiting in a die. -/
  ahead : List Queued
  /-- The LSEQ of the last flit accepted. -/
  acc : BitVec 5
  /-- The receiver asks for a replay and discards until it comes (R153). -/
  nak : Bool
  /-- The next beat declares the lane lasting-down. -/
  down : Bool
  /-- Buffer slots freed since start, modulo 32, and the counts last sent (R145 freezes them). -/
  free0 : BitVec 5
  free1 : BitVec 5
  sent0 : BitVec 5
  sent1 : BitVec 5
  /-- The receive buffers of VC 0 and VC 1, at most 16 flits each. -/
  buf0 : List Queued
  buf1 : List Queued
  /-- The lane of this border is out of use, in both directions (R157). -/
  lastingDown : Bool
  /-- The detour list of the lane and the entry in use (R159–R161). -/
  detours : List Detour
  inUse : Option Nat
  /-- The fold whose image lists the detours: the paddocks of an AROUND are its own (Table MESH-7). -/
  owner : Nat
  /-- Zero-run compression is enabled on this lane and direction (R151). -/
  compress : Bool
  /-- The last winner of each VC's round-robin, 0–3 N–W, 4 LOCAL, and the VC whose turn is next (R139). -/
  winner0 : Nat
  winner1 : Nat
  vcTurn : Bool
  /-- The pacer's accumulator, none at a link's start (R568). -/
  pace : Option Nat
deriving DecidableEq, Repr

/-- A lane at start-up: 16 credits on each VC, nothing held (R139, *Credits and back-pressure*). The LSEQ last assigned and the
one last accepted are 31, so that the first flit has LSEQ 0 (R132 names no first value: DESIGN CHOICE, log entry 91). -/
def LinkEnd.initial : LinkEnd :=
  { last := 31, replay := [], cursor := none, credit0 := 16, credit1 := 16, seen0 := 0, seen1 := 0, ahead := [],
    acc := 31, nak := false, down := false, free0 := 0, free1 := 0, sent0 := 0, sent1 := 0, buf0 := [], buf1 := [],
    lastingDown := false, detours := [], inUse := none, owner := 0, compress := false, winner0 := 4, winner1 := 4, vcTurn := false, pace := none }

/-- The credits held on a VC. -/
def LinkEnd.credit (l : LinkEnd) (vc : Bool) : Nat := if vc then l.credit1 else l.credit0

/-- Spend one credit of a VC. -/
def LinkEnd.spend (l : LinkEnd) (vc : Bool) : LinkEnd :=
  if vc then { l with credit1 := l.credit1 - 1 } else { l with credit0 := l.credit0 - 1 }

/-- The receive buffer of a VC. -/
def LinkEnd.buf (l : LinkEnd) (vc : Bool) : List Queued := if vc then l.buf1 else l.buf0

/-- Replace the receive buffer of a VC. -/
def LinkEnd.setBuf (l : LinkEnd) (vc : Bool) (b : List Queued) : LinkEnd :=
  if vc then { l with buf1 := b } else { l with buf0 := b }

/-- Count one slot of a VC freed (R944). -/
def LinkEnd.freed (l : LinkEnd) (vc : Bool) : LinkEnd :=
  if vc then { l with free1 := l.free1 + 1 } else { l with free0 := l.free0 + 1 }

/-- Take the head of a receive buffer; its slot is freed. -/
def LinkEnd.popBuf (l : LinkEnd) (vc : Bool) : LinkEnd := (l.setBuf vc (l.buf vc).tail).freed vc

/-- The entries after the acknowledged one, when the ACK names an entry held (R152). -/
def ackReplay (ack : BitVec 5) (r : List Replay) : List Replay :=
  if r.any fun e => e.lseq = ack then (r.dropWhile fun e => e.lseq ≠ ack).tail else r

/-- Start the one replay of the oldest unacknowledged flit, unless it has been replayed; both flits of a paired beat are replayed
(R154, R163, R164). -/
def LinkEnd.startReplay (l : LinkEnd) : LinkEnd :=
  match l.replay with
  | [] => l
  | e :: es =>
    if e.replayed then l
    else
      let es1 := match e.pair, es with
        | true, g :: gs => { g with replayed := true } :: gs
        | _, _ => es
      { l with replay := { e with replayed := true } :: es1, cursor := some 0 }

/-- Whether the flit with an LSEQ has been sent again as the one replay it has (R154, R155). -/
def LinkEnd.resent (l : LinkEnd) (q : BitVec 5) : Bool :=
  match l.replay.findIdx? fun e => e.lseq = q && e.replayed with
  | none => false
  | some i => match l.cursor with
    | none => true
    | some c => decide (i < c)

/-- Act on the acknowledgement, credits and NAK of a good trailer (R144, R152–R154). -/
def LinkEnd.takeTrailer (l : LinkEnd) (t : Trailer) : LinkEnd :=
  let kept := ackReplay t.ack l.replay
  let gone := l.replay.length - kept.length
  let l1 := { l with
    replay := kept
    cursor := match l.cursor with
      | none => none
      | some c => if kept.isEmpty || kept.length ≤ c - gone then none else some (c - gone)
    credit0 := min 16 (l.credit0 + (t.cc0 - l.seen0).toNat)
    credit1 := min 16 (l.credit1 + (t.cc1 - l.seen1).toNat)
    seen0 := t.cc0
    seen1 := t.cc1 }
  if t.nak then
    match kept with
    | e :: _ => if e.lseq = t.ack + 1 then l1.startReplay else l1
    | [] => l1
  else l1

/-- What the receiver half does with a beat whose CRC failed: ask for a replay; when the failed beat was the replay of the flit
it waits for, declare the lane lasting-down (R153, R155). -/
def LinkEnd.badBeat (l : LinkEnd) (wasReplay : Bool) : LinkEnd :=
  if wasReplay then { l with down := true } else { l with nak := true }

/-- Accept the flits of a good beat in LSEQ order; the answer lists those accepted (R153, R155, R164). -/
def LinkEnd.acceptFlits (l : LinkEnd) (t : Trailer) : List Flit → LinkEnd × List (Flit × BitVec 5)
  | [] => (l, [])
  | [f] => if t.lseq = l.acc + 1 then ({ l with acc := t.lseq, nak := false }, [(f, t.lseq)]) else (l, [])
  | f :: g :: _ =>
    if t.lseq = l.acc + 1 then ({ l with acc := t.lseq + 1, nak := false }, [(f, t.lseq), (g, t.lseq + 1)])
    else if t.lseq + 1 = l.acc + 1 then ({ l with acc := t.lseq + 1, nak := false }, [(g, t.lseq + 1)])
    else (l, [])

/-- The trailer a lane sends now. A hurdled sender freezes its counts on fold lanes (R145). -/
def LinkEnd.trailer (l : LinkEnd) (lseq : BitVec 5) (pair frozen : Bool) : Trailer :=
  ⟨lseq, l.acc, l.nak, l.down, if frozen then l.sent0 else l.free0, if frozen then l.sent1 else l.free1, pair⟩

/-- Record the counts just sent. -/
def LinkEnd.sentCounts (l : LinkEnd) (frozen : Bool) : LinkEnd :=
  if frozen then l else { l with sent0 := l.free0, sent1 := l.free1 }

/-- Send the next entry of a replay under way: its flit and LSEQ. -/
def LinkEnd.replayNext (l : LinkEnd) : Option (Replay × LinkEnd) :=
  match l.cursor with
  | none => none
  | some c =>
    match l.replay[c]? with
    | none => none
    | some e => some (e, { l with cursor := if c + 1 < l.replay.length then some (c + 1) else none })

/-- Assign the next LSEQ to a flit and keep it in the replay buffer (R132, R152). -/
def LinkEnd.pushReplay (l : LinkEnd) (q : Queued) : LinkEnd :=
  { l with last := l.last + 1, replay := l.replay ++ [⟨q, l.last + 1, false, false⟩] }

/-- The two newest flits of the replay buffer left in one beat (R150, R164). -/
def LinkEnd.markPair (l : LinkEnd) : LinkEnd :=
  { l with replay := (l.replay.take (l.replay.length - 2)) ++ (match l.replay.drop (l.replay.length - 2) with
      | e :: es => { e with pair := true } :: es
      | [] => []) }

/-- Whether a lane can take a new flit: no replay under way, room in the replay buffer, and a credit of the flit's VC beyond
`kept`, those that closed flits of its own paddock have reserved (R144, R152, R210). -/
def LinkEnd.canSend (l : LinkEnd) (q : Queued) (kept : Nat) : Bool :=
  l.cursor.isNone && decide (l.replay.length < 16) && decide (kept < l.credit q.vc) && !l.lastingDown

/-- The next flit that a lane has been given to send on a VC. One that a lasting-down verdict moved here goes in its place among
all that were moved (R158, R169). -/
def LinkEnd.nextAhead (l : LinkEnd) (vc : Bool) : Option Queued :=
  match l.ahead.find? fun q => q.vc = vc with
  | none => none
  | some q => if q.moved && (l.ahead.find? fun a => a.moved) ≠ some q then none else some q

/-- Take a lane out of use: what the receiver, whose last accepted LSEQ is `acc`, has not accepted is kept in LSEQ order, before
what the lane was still to send, and the counts are reset (R157, R158). -/
def LinkEnd.takeDown (l : LinkEnd) (acc : BitVec 5) : LinkEnd :=
  { l with replay := [], cursor := none, lastingDown := true, credit0 := 16, credit1 := 16, seen0 := 0, seen1 := 0,
           free0 := 0, free1 := 0, sent0 := 0, sent1 := 0, nak := false, down := true,
           ahead := ((ackReplay acc l.replay).map fun e => { e.item with moved := true }) ++ l.ahead }

end Sys2Proof.Machine
end

