-- ==== Sys2Proof/Machine/Frame.lean ====
section
/-! DEFINITION. Ethernet frames at a NED: which frames are request candidates, the MRQ and the MRP, bindings, reply
templates, and the bytes of a reply (*Network edge dies*, R74–R121; R302, R306). -/
namespace Sys2Proof.Machine

open Sys2Proof

/-- What the parser learns from a frame's headers. Offsets are frame offsets. -/
structure Parsed where
  vid : Option Nat
  v6 : Bool
  l3 : Nat
  udp : Nat
  ipEnd : Nat
  udpEnd : Nat
  src : List Byte
  dst : List Byte
  sport : Nat
  dport : Nat
deriving DecidableEq, Repr

def byteAt (bs : List Byte) (o : Nat) : Nat := (bs.getD o 0).toNat
def be16 (bs : List Byte) (o : Nat) : Nat := byteAt bs o * 256 + byteAt bs (o + 1)
def be32 (bs : List Byte) (o : Nat) : Nat := be16 bs o * 65536 + be16 bs (o + 2)

/-- The one's-complement sum of 16-bit words, folded. -/
def onesSum (bs : List Byte) : Nat :=
  let s := ((List.range (ceilDiv bs.length 2)).map fun i => be16 bs (2 * i)).sum
  let f (x : Nat) : Nat := x % 65536 + x / 65536
  f (f (f s))

/-- Parse a frame as a request candidate, apart from the length its MRQ requires (R77, Table EDGE-2). -/
def parseFrame (bs : List Byte) : Option Parsed :=
  let tagged := be16 bs 12 = 0x8100
  let l3 := if tagged then 18 else 14
  let et := be16 bs (l3 - 2)
  let vid := if tagged then some (be16 bs 14 % 4096) else none
  if et = 0x0800 then
    let ihl := 4 * (byteAt bs l3 % 16)
    let total := be16 bs (l3 + 2)
    if byteAt bs l3 / 16 ≠ 4 || ihl < 20 || be16 bs (l3 + 6) % 0x4000 ≠ 0 || byteAt bs (l3 + 9) ≠ 17
        || onesSum (slice bs l3 ihl) ≠ 0xFFFF || total < ihl + 8 then none
    else
      let u := l3 + ihl
      some ⟨vid, false, l3, u, l3 + total, u + be16 bs (u + 4), slice bs (l3 + 12) 4, slice bs (l3 + 16) 4, be16 bs u, be16 bs (u + 2)⟩
  else if et = 0x86DD then
    let plen := be16 bs (l3 + 4)
    if byteAt bs l3 / 16 ≠ 6 || byteAt bs (l3 + 6) ≠ 17 || plen < 8 then none
    else
      let u := l3 + 40
      some ⟨vid, true, l3, u, u + plen, u + be16 bs (u + 4), slice bs (l3 + 8) 16, slice bs (l3 + 24) 16, be16 bs u, be16 bs (u + 2)⟩
  else none

/-- Whether a frame is a PTP event message: EtherType 0x88F7, or UDP to port 319 (R109). -/
def isPtpEvent (bs : List Byte) : Bool :=
  let l3 := if be16 bs 12 = 0x8100 then 18 else 14
  be16 bs (l3 - 2) = 0x88F7 || (match parseFrame bs with
    | some p => p.dport = 319
    | none => false)

/-! The MRQ (Table EDGE-3). -/

structure Mrq where
  ses : Bool
  nsp : Bool
  version : Nat
  reserved : Bool
  session : Nat
  handle : Word
  ticket : Word
  tag : Word
deriving DecidableEq, Repr

/-- The MRQ at a frame offset. -/
def mrqAt (bs : List Byte) (o : Nat) : Mrq :=
  let b0 := byteAt bs o
  ⟨b0 % 2 = 1, b0 / 2 % 2 = 1, b0 / 16, b0 / 4 % 4 ≠ 0 || byteAt bs (o + 1) ≠ 0 || be16 bs (o + 2) / 16384 ≠ 0,
   be16 bs (o + 2) % 16384, BitVec.ofNat 32 (be32 bs (o + 4)), BitVec.ofNat 32 (be32 bs (o + 8)),
   BitVec.ofNat 32 (be32 bs (o + 12))⟩

/-- The first four conditions of R82. -/
def Mrq.malformed (m : Mrq) : Bool := m.version ≠ 1 || m.reserved || (!m.ses && m.session ≠ 0) || m.handle = 0

/-- Fields of a handle (Table FOLD-4). -/
def hdlGen (h : Word) : Nat := bitsOf h 0 10
def hdlIndex (h : Word) : Nat := bitsOf h 10 16
def hdlFold (h : Word) : Nat := bitsOf h 26 6

/-- A handle from its fields. -/
def mkHandle (fold index gen : Nat) : Word := BitVec.ofNat 32 (gen % 1024 + 1024 * (index % 65536) + 67108864 * (fold % 64))

/-! Bindings (Table EDGE-4). -/

/-- A binding: twelve words. -/
structure Binding where
  w : List Word
deriving DecidableEq, Repr

def Binding.empty : Binding := ⟨List.replicate 12 0⟩

/-- What stands for the binding of a frame that has none: the MRQ at its default place. -/
def Binding.unbound : Binding := ⟨[0, 0x3FFF0000, 0, 0, 0, 0, 0, 0, 0, 0, 0, 0]⟩
def Binding.word (b : Binding) (i : Nat) : Word := b.w.getD i 0
def Binding.state (b : Binding) : Nat := bitsOf (b.word 0) 0 2
def Binding.ip6 (b : Binding) : Bool := bitAt (b.word 0) 2
def Binding.tagged (b : Binding) : Bool := bitAt (b.word 0) 3
def Binding.port (b : Binding) : Nat := bitsOf (b.word 0) 4 3
def Binding.spec (b : Binding) : Bool := bitAt (b.word 0) 7
def Binding.vid (b : Binding) : Nat := bitsOf (b.word 0) 8 12
def Binding.template (b : Binding) : Nat := bitsOf (b.word 0) 20 11
def Binding.udpPort (b : Binding) : Nat := bitsOf (b.word 1) 0 16
def Binding.mrqOff (b : Binding) : Nat := bitsOf (b.word 1) 16 14
def Binding.handle (b : Binding) : Word := b.word 6
def Binding.ticket (b : Binding) : Word := b.word 7
def Binding.readlim (b : Binding) : Nat := bitsOf (b.word 8) 0 14
def Binding.dest (b : Binding) : Nat := bitsOf (b.word 9) 0 11
def Binding.endpt (b : Binding) : Nat := bitsOf (b.word 9) 11 10
def Binding.ctx (b : Binding) : Nat := bitsOf (b.word 9) 21 2
def Binding.eport (b : Binding) : Nat := bitsOf (b.word 9) 23 1
def Binding.deadline (b : Binding) : Nat := (b.word 10).toNat
def Binding.bucket (b : Binding) : Nat := bitsOf (b.word 11) 0 13

/-- The destination address a binding matches, as bytes. -/
def Binding.addr (b : Binding) : List Byte :=
  if b.ip6 then (List.range 4).flatMap fun i => beBytes 4 (b.word (2 + i)).toNat else beBytes 4 (b.word 2).toNat

/-- Change the STATE field. -/
def Binding.withState (b : Binding) (st : Nat) : Binding :=
  ⟨listSet b.w 0 (BitVec.ofNat 32 ((b.word 0).toNat / 4 * 4 + st))⟩

/-- Replace one word. -/
def Binding.withWord (b : Binding) (i : Nat) (x : Word) : Binding := ⟨listSet b.w i x⟩

/-- A binding from its fields. -/
def mkBinding (st : Nat) (ip6 tagged : Bool) (port : Nat) (spec : Bool) (vid template udpPort mrqOff : Nat)
    (addr : List Byte) (handle ticket : Word) (readlim dest endpt ctx eport deadline bucket : Nat) : Binding :=
  let a (i : Nat) : Word := BitVec.ofNat 32 (beNat (slice addr (4 * i) 4))
  ⟨[BitVec.ofNat 32 (st % 4 + (if ip6 then 4 else 0) + (if tagged then 8 else 0) + 16 * (port % 8) + (if spec then 128 else 0)
      + 256 * (vid % 4096) + 2 ^ 20 * (template % 2048)),
    BitVec.ofNat 32 (udpPort % 65536 + 65536 * (mrqOff % 16384)),
    a 0, if ip6 then a 1 else 0, if ip6 then a 2 else 0, if ip6 then a 3 else 0, handle, ticket,
    BitVec.ofNat 32 (readlim % 16384),
    BitVec.ofNat 32 (dest % 2048 + 2048 * (endpt % 1024) + 2 ^ 21 * (ctx % 4) + 2 ^ 23 * (eport % 2)),
    BitVec.ofNat 32 deadline, BitVec.ofNat 32 (bucket % 8192)]⟩

/-- Whether a frame's tuple matches a binding that is OPEN or CLOSED (Table EDGE-5 step 1). -/
def Binding.matches (b : Binding) (port : Nat) (p : Parsed) : Bool :=
  (b.state = 1 || b.state = 2) && b.port = port && b.ip6 = p.v6 && b.udpPort = p.dport && b.addr = p.dst
    && (match p.vid with
        | some v => b.tagged && b.vid = v
        | none => !b.tagged)

/-- Where the MRQ lies for a binding. -/
def Binding.mrqAt (b : Binding) (p : Parsed) : Nat := if b.mrqOff = 0x3FFF then p.udp + 8 else b.mrqOff

/-- Whether the datagram reaches the last byte of an MRQ at offset `o` (R77, last condition). -/
def mrqFits (p : Parsed) (o : Nat) : Bool := decide (o + 16 ≤ p.udpEnd)

/-- The outcomes of Table EDGE-5 up to step 4. -/
inductive Class where
  /-- Not a candidate, or step 1: dropped, unclassified tally. -/
  | unclassified
  /-- Step 2: REFUSED, MALFORMED, with the port's default template; the MRQ is where binding `i` of the tuple puts it. -/
  | malformed (i : Nat)
  /-- Step 3: dropped, ticket tally. -/
  | ticket
  /-- Step 4: REFUSED, CHANNEL_CLOSED, with binding `i`. -/
  | closed (i : Nat)
  /-- Bound to binding `i`; step 4a and admission follow. -/
  | bound (i : Nat)
deriving DecidableEq, Repr

/-- Classify a frame on a port (R77, R86). Where bindings of the matched tuple name different MRQ offsets, step 2 judges the MRQ
of the lowest-indexed one whose MRQ the datagram covers: the spec does not say which (DESIGN CHOICE, log entry 95). -/
def classify (bindings : Tab Binding) (port : Nat) (bs : List Byte) : Class :=
  match parseFrame bs with
  | none => .unclassified
  | some p =>
    let ms := bindings.filter fun x => x.2.matches port p && mrqFits p (x.2.mrqAt p)
    match ms with
    | [] => .unclassified
    | b :: _ =>
      let q0 := mrqAt bs (b.2.mrqAt p)
      if q0.malformed then .malformed b.1
      else
        match ms.find? fun x =>
          let q := mrqAt bs (x.2.mrqAt p)
          hdlFold x.2.handle = hdlFold q.handle && hdlIndex x.2.handle = hdlIndex q.handle && x.2.ticket = q.ticket with
        | none => .ticket
        | some x =>
          let q := mrqAt bs (x.2.mrqAt p)
          if x.2.state = 2 || hdlGen x.2.handle ≠ hdlGen q.handle then .closed x.1 else .bound x.1

/-! Port speeds (Table EDGE-6), times in 10 ps. -/

/-- MAC byte time. -/
def byteTime (mode : Nat) : Nat := if mode = 100 then 8 else if mode = 200 then 4 else 2

/-- Verdict latency D. -/
def verdictD (mode : Nat) : Nat := if mode = 100 then 1840 else if mode = 200 then 1760 else 1680

/-- Corrected bytes at the edge port after the group end. -/
def correctedD (mode : Nat) : Nat := if mode = 100 then 3640 else if mode = 200 then 3560 else 3480

/-- MAC bytes of a codeword group. -/
def groupBytes (mode : Nat) : Nat := if mode = 100 then 640 else 1280

/-- The codeword group that holds frame byte `b`, counted from the group of byte 0, which ends at `g0`. -/
def groupOf (mode : Nat) (t0 g0 : Time) (b : Nat) : Nat :=
  ceilDiv (t0 + (b + 9) * byteTime mode - g0) (groupBytes mode * byteTime mode)

/-- When the group of frame byte `b` ends at the lands. -/
def groupEndOf (mode : Nat) (t0 g0 : Time) (b : Nat) : Time := g0 + groupOf mode t0 g0 b * (groupBytes mode * byteTime mode)

/-- The egress pipeline, from a result flit's arrival to the first reply bit at the lands: 40.00 ns (R98). -/
def egress : Nat := 4000

/-- The last byte of the headers that a frame which fails to parse is judged by: its EtherType, its IP header and its UDP
header (R78). -/
def headersEnd (bs : List Byte) : Nat :=
  let l3 := if be16 bs 12 = 0x8100 then 18 else 14
  if be16 bs (l3 - 2) = 0x0800 then l3 + max 20 (4 * (byteAt bs l3 % 16)) + 7
  else if be16 bs (l3 - 2) = 0x86DD then l3 + 47 else l3 - 1

/-- A frame's bytes as a verdict corrects them. -/
def applyFixes (bs : List Byte) (fixes : List (Nat × Byte)) : List Byte := fixes.foldl (fun b x => listSet b x.1 x.2) bs

/-! Reply templates (Table EDGE-9) and replies. -/

/-- What the reply's 802.1Q tag is. -/
inductive VlanMode where
  | none | request | fixed (vid : Nat)
deriving DecidableEq, Repr

structure Template where
  mac : BitVec 48
  vlan : VlanMode
  pcp : Nat
  dscp : Nat
  ttl : Nat
  /-- IPv4 UDP checksum computed, or zero. -/
  csum : Bool
  resLen : Nat
  fill : Bool
deriving DecidableEq, Repr

/-- The contents a template takes at the release of RESET_N (R101). -/
def Template.reset : Template := ⟨0, .request, 0, 0, 64, true, 0, false⟩

/-- Reply types (Table EDGE-8) and reasons (Table ADMIT-4). -/
inductive Reply where
  | result | deferred (wait : Nat) | refused (reason : Nat)
deriving DecidableEq, Repr

abbrev rsOverLease : Nat := 1
abbrev rsPenFull : Nat := 2
abbrev rsDeadline : Nat := 3
abbrev rsLoading : Nat := 4
abbrev rsReconfigured : Nat := 5
abbrev rsMigrating : Nat := 6
abbrev rsFault : Nat := 7
abbrev rsClosed : Nat := 8
abbrev rsMalformed : Nat := 9
abbrev rsSessionLimit : Nat := 10

/-- The 16 bytes of an MRP (R99). -/
def mrpBytes (r : Reply) (rr : Bool) (epoch : Nat) (handle tag : Word) : List Byte :=
  let typ := match r with
    | .result => 0
    | .deferred _ => 1
    | .refused _ => 2
  let reason := match r with
    | .refused c => c
    | _ => 0
  let wait := match r with
    | .deferred w => min w 0xFFFFFFFF
    | _ => 0
  [BitVec.ofNat 8 (typ + (if rr then 4 else 0) + 16), BitVec.ofNat 8 reason, BitVec.ofNat 8 (epoch % 8), 0]
    ++ beBytes 4 handle.toNat ++ beBytes 4 tag.toNat ++ beBytes 4 wait

/-- The header bytes of Ethernet, IP, UDP and MRP together: H of *Holding the FCS*. -/
def headerLen (v6 tagged : Bool) : Nat := (if v6 then 78 else 58) + (if tagged then 4 else 0)

/-- The VLAN ID a reply carries, if any. -/
def replyVid (t : Template) (p : Parsed) : Option Nat :=
  match t.vlan with
  | .none => none
  | .request => p.vid
  | .fixed v => some v

/-- The bytes of a reply frame before its FCS (R99, R100, R105): headers derived from the request, MRP, result, fill. The IPv6 flow
label is the request's: Table EDGE-9 names no other source, and every field it leaves out is derived from the request (R100). -/
def replyBytes (t : Template) (portMac : BitVec 48) (req : List Byte) (p : Parsed) (mrp result : List Byte) (fill : Nat) :
    List Byte :=
  let smac := beBytes 6 (if t.mac = 0 then portMac else t.mac).toNat
  let body := mrp ++ result ++ List.replicate fill 0
  let ulen := 8 + body.length
  let tag := match replyVid t p with
    | some v => beBytes 2 0x8100 ++ beBytes 2 (t.pcp * 8192 + v)
    | none => []
  let ports := beBytes 2 p.dport ++ beBytes 2 p.sport
  let sum (pseudo : List Byte) : List Byte :=
    let x := 0xFFFF - onesSum (pseudo ++ ports ++ beBytes 2 ulen ++ [0, 0] ++ body)
    beBytes 2 (if x = 0 then 0xFFFF else x)
  if p.v6 then
    let pseudo := p.dst ++ p.src ++ beBytes 4 ulen ++ beBytes 4 17
    slice req 6 6 ++ smac ++ tag ++ beBytes 2 0x86DD
      ++ beBytes 4 (6 * 2 ^ 28 + t.dscp * 2 ^ 22 + be32 req p.l3 % 2 ^ 20) ++ beBytes 2 ulen ++ [17, BitVec.ofNat 8 t.ttl] ++ p.dst ++ p.src
      ++ ports ++ beBytes 2 ulen ++ sum pseudo ++ body
  else
    let pseudo := p.dst ++ p.src ++ [0, 17] ++ beBytes 2 ulen
    let h0 := [0x45#8, BitVec.ofNat 8 (t.dscp * 4)] ++ beBytes 2 (20 + ulen) ++ [0, 0, 0x40, 0, BitVec.ofNat 8 t.ttl, 17]
    let ck := beBytes 2 (0xFFFF - onesSum (h0 ++ [0, 0] ++ p.dst ++ p.src))
    slice req 6 6 ++ smac ++ tag ++ beBytes 2 0x0800 ++ h0 ++ ck ++ p.dst ++ p.src
      ++ ports ++ beBytes 2 ulen ++ (if t.csum then sum pseudo else [0, 0]) ++ body

/-- The fill of a reply that starts at `S` with its verdict at `V` (R103). -/
def fillLen (mode v s h r : Nat) : Nat :=
  min (ceilDiv (v - s) (byteTime mode) - 8 - h - r) (9216 - 4 - h - r)

/-- The start a capped or waiting reply takes so that its FCS falls at `V` (R103, R104); never before `S`. -/
def delayedStart (mode v s len : Nat) : Nat := max s (v - (8 + len) * byteTime mode)

/-- A frame without its FCS, padded with zeros to the 60 bytes of the shortest frame (Table EDGE-12, R105; DEDUCED, log entry 89). -/
def padFrame (bs : List Byte) : List Byte := bs ++ List.replicate (60 - bs.length) 0

/-- A stomped frame: stopped at a byte boundary, padded to 60, with the FCS inverted (R106). -/
def stompFrame (sent : List Byte) : List Byte :=
  let b := padFrame sent
  b ++ (fcsOf b).map fun x => ~~~ x

/-- The flits of a request message: frame bytes 0 through READLIM in order (R302, R89). -/
def requestFlits (b : Binding) (epoch tag : Nat) (bs : List Byte) : List Flit :=
  let rd := slice bs 0 (b.readlim + 1)
  let n := ceilDiv rd.length 64
  (List.range n).map fun i =>
    ⟨if i + 1 = n then ftDataEnd else ftData, 0, BitVec.ofNat 11 b.dest, BitVec.ofNat 10 b.endpt,
     BitVec.ofNat 6 (hdlFold b.handle), BitVec.ofNat 2 b.ctx, BitVec.ofNat 3 epoch, BitVec.ofNat 8 i, BitVec.ofNat 16 tag,
     payOfBytes (slice rd (64 * i) 64)⟩

end Sys2Proof.Machine
end

