-- ==== Sys2Proof/Machine/Ned.lean ====
section
/-! DEFINITION. A network edge die: ports, requests in flight, token buckets, burst accounts and pens, with the
arithmetic of admission (*Network edge dies*, *Admission, deferral and refusal*, R74–R121, R475–R507). -/
namespace Sys2Proof.Machine

open Sys2Proof

/-- Transmitter states (Table EDGE-11). -/
inductive TxState where
  | squelched | idle | live
deriving DecidableEq, Repr

/-- A port of a NED. -/
structure Port where
  state : TxState
  /-- The port takes this template when a refusal has no channel (R101). -/
  defTemplate : Nat
  mac : BitVec 48
  eq : BitVec 16
  /-- A local and a remote fault of the reconciliation sublayer stand (R76). -/
  localFault : Bool
  remoteFault : Bool
  /-- A reconfiguration drains the port (R112), and the settings it will take. -/
  draining : Bool
  /-- When the drain began (R112). -/
  drainAt : Time
  pendMac : Option (BitVec 48)
  pendEq : Option (BitVec 16)
  pendTemplate : Option Nat
  pendPtp : Option Bool
  /-- When the transmitter is free. -/
  freeAt : Time
deriving DecidableEq, Repr

def Port.initial : Port :=
  { state := .squelched, defTemplate := 0, mac := 0, eq := 0, localFault := false, remoteFault := false, draining := false, drainAt := 0, pendMac := none,
    pendEq := none, pendTemplate := none, pendPtp := none, freeAt := 0 }

/-- A fault stands, so the transmitter sends idle (R76). -/
def Port.fault (p : Port) : Bool := p.localFault || p.remoteFault

/-- A token bucket (Table ADMIT-2). LEVEL is in 1/65,536 of a token; `rem` is the fraction below that, in 10⁻⁹. -/
structure Bucket where
  fold : Nat
  rate : Nat
  depth : Nat
  burst : Bool
  pen : Bool
  level : Nat
  rem : Nat
  last : Time
deriving DecidableEq, Repr

def Bucket.empty : Bucket := ⟨0, 0, 0, false, false, 0, 0, 0⟩

/-- Refill a bucket from the elapsed nanoseconds, every fractional token carried forward (R479). -/
def Bucket.refill (b : Bucket) (now : Time) : Bucket :=
  if b.fold = 0 || now ≤ b.last then b
  else
    let ns := (now - b.last) / 100
    let add := ns * b.rate * 65536 + b.rem
    let lv := b.level + add / 1000000000
    let b1 := { b with last := b.last + ns * 100 }
    if lv ≥ b.depth * 65536 then { b1 with level := b.depth * 65536, rem := 0 }
    else { b1 with level := lv, rem := add % 1000000000 }

/-- Whether a whole token is held. -/
def Bucket.whole (b : Bucket) : Bool := decide (65536 ≤ b.level)

/-- Spend one whole token. -/
def Bucket.spend (b : Bucket) : Bucket := { b with level := b.level - 65536 }

/-- Return one token, up to DEPTH. -/
def Bucket.giveBack (b : Bucket) : Bucket := { b with level := min (b.depth * 65536) (b.level + 65536) }

/-- Write a bucket: LEVEL becomes DEPTH (R479). -/
def Bucket.write (fold rate depth : Nat) (burst pen : Bool) (now : Time) : Bucket :=
  ⟨fold, rate, depth, burst, pen, depth * 65536, 0, now⟩

/-- Where a token came from. -/
inductive TokenSrc where
  | bucket (i : Nat) | burst (fold : Nat)
deriving DecidableEq, Repr

/-- Where a request stands. -/
inductive Phase where
  /-- Held: its headers await corrected bytes (R78), or its FCS verdict decides admission (R332, R475). -/
  | held
  /-- In the pen. -/
  | penned
  /-- In the wafer. -/
  | wafer
  /-- Refused: the reply waits for its start. -/
  | refused (reason : Nat)
  /-- Its reply has started. -/
  | replying
  /-- A reply is composed and has not started. -/
  | waiting
  /-- The FCS of its reply is released: the frame is on the lands or leaves whole; its last fragments may still come. -/
  | done
deriving DecidableEq, Repr

/-- A request the NED holds. -/
structure Req where
  /-- The frame as the environment names it. -/
  fid : Nat
  port : Nat
  bytes : List Byte
  /-- When the first preamble bit reached the lands. -/
  t0 : Time
  /-- When the codeword group of the frame's first byte ends, and how many of the frame's groups have been judged (R88). -/
  group : Time
  judged : Nat
  /-- A corrected byte among the bytes read has not yet been classified afresh (R93). -/
  stale : Bool
  /-- A group of the frame was uncorrectable (R96). -/
  uncorrectable : Bool
  /-- The binding's index, 8,192 for none, and the entry as it stood when the request was classified (R85). -/
  binding : Nat
  bind : Binding
  /-- The binding whose request tally this request stands in, 8,192 for none. -/
  counted : Nat
  fold : Nat
  phase : Phase
  /-- In-flight tag; 0 while none. -/
  tag : Nat
  stamp : Time
  paid : Option TokenSrc
  /-- Runs begun, 1 or 2 (R28). -/
  runs : Nat
  early : Bool
  fcs : Option Bool
  /-- Session number of a session request. -/
  session : Option Nat
  /-- The time the request left the pen, if it did. -/
  released : Option Time
  /-- The epoch under which the request entered. -/
  epoch : Nat
  /-- The result's flits held, by sequence (R102); how many have come, the DATA_END's sequence, and whether it ran long. -/
  flits : List (Nat × Payload)
  got : Nat
  lastSeq : Option Nat
  long : Bool
  reply : Option Reply
  /-- When the reply was composed (R120). -/
  composed : Time
  template : Nat
  /-- Reply start, fill and the bytes before the FCS, once started. -/
  start : Time
  fill : Nat
  out : List Byte
  /-- Its DATA_END has come. -/
  ended : Bool
  /-- Waiting in the pen with the token it has spent (R483). -/
  prepaid : Bool
deriving DecidableEq, Repr

/-- A pen of one fold: cells reserved and the times of its last releases (R482, R485). -/
structure Pen where
  cells : Nat
  releases : List Time
deriving DecidableEq, Repr

def Pen.empty : Pen := ⟨0, []⟩

/-- What a receiver says of a frame: the verdict on its next codeword group, with the bytes it corrected; its FCS verdict; an
early tail; an invalid block in the speculative stream. -/
inductive Verdict where
  | group (fixes : List (Nat × Byte)) (uncorrectable : Bool) | fcs (good : Bool) | tail | broken
deriving DecidableEq, Repr

/-- A network edge die. -/
structure Ned where
  /-- Lane-group modes: 0 unconfigured, 100, 200 or 400 (R74). -/
  mode0 : Nat
  mode1 : Nat
  ports : List Port
  bindings : Tab Binding
  templates : Tab Template
  buckets : Tab Bucket
  /-- Burst pool rate and depth, the current cycle and its position, and the accounts by fold (R481). -/
  burstRate : Nat
  burstDepth : Nat
  cycle : List Nat
  cyclePos : Nat
  accounts : Tab Nat
  reqs : List Req
  /-- Verdicts on frames whose ADMISSION has not come, by frame, in order of arrival. -/
  heard : List (Nat × Verdict)
  /-- Frames let go of before their FCS verdict, with the port whose bad-FCS tally a bad verdict still counts in. -/
  gone : List (Nat × Option Nat)
  pens : Tab Pen
  /-- The fold last served by pen release, and when (R487). -/
  lastServed : Nat
  lastRelease : Time
  /-- The order in which composed replies start, by frame (R107). -/
  order : List Nat
  /-- Per fold: epochs closed, as a bit mask, and result sources whose bellwether has come (R533). -/
  closedEpochs : Tab Nat
  bwSources : List (Nat × Nat)
  /-- Result sources whose bellwether closes the outgoing epoch, per fold. -/
  bwNeed : Tab Nat
  doubt : Bool
  doubtCause : Nat
  /-- Time of the last keep-alive heard (R681). -/
  lastAlive : Time
  /-- The stamps of the last PTP event received and of the last one sent: seconds and nanoseconds (R108, R109). -/
  ptpStamp : Nat × Nat
  ptpSent : Nat × Nat
  /-- Retired tags whose results have not all come, and whether what comes under them counts as a stray: what a run voided or a frame
  with a bad FCS sends late does not (R93, R513, R550). -/
  voidTags : List (Nat × Bool)
deriving DecidableEq, Repr

def Ned.initial : Ned :=
  { mode0 := 0, mode1 := 0, ports := List.replicate 8 Port.initial, bindings := [], templates := [], buckets := [],
    burstRate := 0, burstDepth := 0, cycle := [], cyclePos := 0, accounts := [], reqs := [], heard := [], gone := [], pens := [], lastServed := 0,
    lastRelease := 0, order := [], closedEpochs := [], bwSources := [], bwNeed := [], doubt := false, doubtCause := 0,
    lastAlive := 0, ptpStamp := (0, 0), ptpSent := (0, 0), voidTags := [] }

/-- The mode of the lane group of a port. -/
def Ned.modeOf (n : Ned) (port : Nat) : Nat := if port < 4 then n.mode0 else n.mode1

/-- The mode of a port, 100 while its group is unconfigured. -/
def Ned.speed (n : Ned) (port : Nat) : Nat := if n.modeOf port = 0 then 100 else n.modeOf port

/-- Whether a port exists in its group's mode (Table EDGE-1). -/
def portExists (mode port : Nat) : Bool :=
  if mode = 400 then port % 4 = 0 else if mode = 200 then port % 2 = 0 else mode = 100

def Ned.port (n : Ned) (p : Nat) : Port := n.ports.getD p Port.initial
def Ned.setPort (n : Ned) (p : Nat) (x : Port) : Ned := { n with ports := listSet n.ports p x }
def Ned.binding (n : Ned) (i : Nat) : Binding := tabGet Binding.empty n.bindings i
def Ned.template (n : Ned) (i : Nat) : Template := tabGet Template.reset n.templates i
def Ned.bucket (n : Ned) (i : Nat) : Bucket := tabGet Bucket.empty n.buckets i
def Ned.setBucket (n : Ned) (i : Nat) (b : Bucket) : Ned := { n with buckets := tabSet Bucket.empty n.buckets i b }
def Ned.pen (n : Ned) (f : Nat) : Pen := tabGet Pen.empty n.pens f

/-- The request of a frame. -/
def Ned.req (n : Ned) (fid : Nat) : Option Req := n.reqs.find? fun r => r.fid = fid

/-- A reply that is a refusal. -/
def Reply.refusal : Reply → Bool
  | .refused _ => true
  | _ => false

/-- The request has run, and its run or its result stands. -/
def Req.ran (r : Req) : Bool :=
  r.phase = .wafer || r.phase = .replying && !(r.reply.any Reply.refusal) || r.phase = .waiting && !(r.reply.any Reply.refusal)

/-- A run that has not begun, or is void: no tag, no result, no reply. -/
def Req.clear (r : Req) : Req :=
  { r with tag := 0, flits := [], got := 0, lastSeq := none, long := false, ended := true, reply := none, out := [] }

/-- The request that holds an in-flight tag. -/
def Ned.reqByTag (n : Ned) (tag : Nat) : Option Req := if tag = 0 then none else n.reqs.find? fun r => r.tag = tag

/-- Replace a request. -/
def Ned.putReq (n : Ned) (r : Req) : Ned := { n with reqs := n.reqs.map fun x => if x.fid = r.fid then r else x }

/-- Forget a request; its FCS verdict may still come. -/
def Ned.dropReq (n : Ned) (fid : Nat) : Ned :=
  { n with reqs := n.reqs.filter (fun x => x.fid ≠ fid), order := n.order.filter (· ≠ fid),
           gone := n.gone ++ ((n.reqs.filter fun x => x.fid = fid && x.fcs.isNone).map fun x => (fid, some x.port)) }

/-- Let a frame go that makes no request here: what has been said of it is forgotten. -/
def Ned.ignore (n : Ned) (fid : Nat) (port : Option Nat) : Ned :=
  let judged := n.heard.any fun h => h.1 = fid && (match h.2 with
    | .fcs _ => true
    | _ => false)
  { n with heard := n.heard.filter (fun h => h.1 ≠ fid), gone := if judged then n.gone else n.gone ++ [(fid, port)] }

/-! The port's record of group boundaries (R88, *Holding the FCS*). -/

/-- The last frame byte by which a request stands: READLIM; the MRQ's last byte where only that has been read; or the headers of a
frame that does not parse (R78, R89). -/
def Req.readTo (r : Req) : Nat :=
  if r.binding < 8192 then r.bind.readlim
  else match parseFrame r.bytes with
    | some p => r.bind.mrqAt p + 15
    | none => headersEnd r.bytes

/-- Every group that holds a byte the request reads has been judged, so those bytes are corrected bytes (R91). -/
def Ned.covers (n : Ned) (r : Req) : Bool :=
  decide (groupOf (n.speed r.port) r.t0 r.group (min r.readTo (r.bytes.length - 1)) < r.judged)

/-- The number of codeword groups that hold bytes of a frame. -/
def Ned.groups (n : Ned) (r : Req) : Nat := groupOf (n.speed r.port) r.t0 r.group (r.bytes.length - 1) + 1

/-- V: the expected FCS verdict, from the IP length field and the port's group boundaries; a frame has at least 64 bytes and at
most 9,216 (*Holding the FCS*, Table EDGE-12). -/
def Ned.verdictAt (n : Ned) (r : Req) : Time :=
  let last := match parseFrame r.bytes with
    | some p => min 9215 (max 63 (p.ipEnd + 3))
    | none => r.bytes.length - 1
  groupEndOf (n.speed r.port) r.t0 r.group last + verdictD (n.speed r.port)

/-- When the FCS of a started reply is due: its bytes, behind preamble and SFD, have been sent. -/
def Ned.fcsDue (n : Ned) (r : Req) : Time := r.start + (8 + r.out.length) * byteTime (n.speed r.port)

/-- A reply that is being sent: its FCS is held, or is released and not yet due (R113, R688). -/
def Ned.sending (n : Ned) (r : Req) (now : Time) : Bool :=
  r.phase = .replying || (r.phase = .done && decide (now < n.fcsDue r))

/-- Forget the requests whose replies have left and whose messages have ended. -/
def Ned.sweep (n : Ned) (now : Time) : Ned :=
  { n with reqs := n.reqs.filter fun r => !(r.phase = .done && (r.tag = 0 || r.ended) && decide (n.fcsDue r ≤ now)) }

/-- The lowest in-flight tag free, 1–65,535; tag 0 is never used. -/
def Ned.freeTag (n : Ned) : Option Nat :=
  ((List.range 65535).map (· + 1)).find? fun t => !(n.reqs.any fun r => r.tag = t) && !(n.voidTags.any fun v => v.1 = t)

/-- The pen entries of a fold, oldest admission stamp first. -/
def Ned.penned (n : Ned) (f : Nat) : List Req := n.reqs.filter fun r => r.fold = f && r.phase = .penned

/-- Whether the fold's pen holds an entry that is not prepaid (R484). -/
def Ned.penWaits (n : Ned) (f : Nat) : Bool := (n.penned f).any fun r => !r.prepaid

/-- Give a token back to where it came from (R94, R489). -/
def Ned.giveBack (n : Ned) (t : Option TokenSrc) : Ned :=
  match t with
  | none => n
  | some (.bucket i) => n.setBucket i (n.bucket i).giveBack
  | some (.burst f) => { n with accounts := tabMod 0 n.accounts f (· + 1) }

/-- The depth of a fold's burst account (R481). -/
def accountDepth (depth w total : Nat) : Nat := max 1 (depth * w / max 1 total)

/-- The burst cycle of the active folds with their weights, ascending (R481). -/
def burstCycle (active : List (Nat × Nat)) : List Nat := active.flatMap fun p => List.replicate p.2 p.1

/-- The account a token goes to: the next in the cycle that is not full. The answer is how far the cycle moves. -/
def burstTarget (accounts : Tab Nat) (cap : Nat → Nat) (cycle : List Nat) (pos : Nat) : Option (Nat × Nat) :=
  ((List.range cycle.length).map fun i => (cycle.getD ((pos + i) % cycle.length) 0, i + 1)).find? fun p =>
    decide (tabGet 0 accounts p.1 < cap p.1)

/-- Cells of a pen: depth times the cells of the longest request (R482). -/
def penCells (depth rmax : Nat) : Nat := depth * ceilDiv (rmax + 1) 64

/-- The largest READLIM among a fold's bindings. -/
def Ned.maxReadlim (n : Ned) (f : Nat) : Nat :=
  (n.bindings.filter fun b => b.2.state ≠ 0 && hdlFold b.2.handle = f).foldl (fun a b => max a b.2.readlim) 0

/-- The cells reserved on a NED. -/
def Ned.cellsUsed (n : Ned) : Nat := (n.pens.map fun p => p.2.cells).sum

/-- The mean release interval in 10 ps, or that of the bucket's rate (R485). -/
def tRel (p : Pen) (now : Time) (rate : Nat) : Nat :=
  let recent := p.releases.filter fun t => now ≤ t + msec
  if recent.length < 64 then 100000000000 / max 1 rate
  else
    match p.releases with
    | first :: _ => ((p.releases.getLastD first) - first) / 63
    | [] => 100000000000 / max 1 rate

/-- The pen conditions of R485; the answer is the refusal reason when one fails. -/
def penCheck (occ depth deadlineNs qNs ahead trel : Nat) : Option Nat :=
  if occ ≥ depth then some rsPenFull
  else if deadlineNs ≠ 0 && qNs * 100 + (ahead + 1) * trel > deadlineNs * 100 then some rsDeadline
  else none

/-- The pen entry that goes next: eligible entries, oldest stamp within a fold, folds in round-robin order (R487). -/
def penNext (lastFold : Nat) (eligible : List Req) : Option Req :=
  match roundRobin 64 lastFold fun f => eligible.any fun r => r.fold = f with
  | none => none
  | some f =>
    (eligible.filter fun r => r.fold = f).foldl (fun (best : Option Req) r =>
      match best with
      | none => some r
      | some b => if r.stamp < b.stamp then some r else some b) none

end Sys2Proof.Machine
end

