-- ==== Sys2Proof/Machine/Span.lean ====
section
/-! DEFINITION. A Span die: blocks and their trailer, sequence, retry and credits, messages and pair sequences,
training records and states (*Span links and flocks*, R395–R438). -/
namespace Sys2Proof.Machine

open Sys2Proof

/-- A flit in or for a block slot: Span VC, originating wafer, pair sequence (Table SPAN-2). -/
structure SFlit where
  flit : Flit
  vc : Nat
  srcw : Nat
  pseq : BitVec 16
deriving DecidableEq, Repr

/-- A block kept for replay (R407). -/
structure SBlock where
  bseq : BitVec 12
  slots : List SFlit
  replayed : Bool
deriving DecidableEq, Repr

/-- Link states of an SPD. -/
inductive SpanState where
  | squelched | training | up | refused | down
deriving DecidableEq, Repr

/-- A message partly received, or complete and waiting for its turn (R405). -/
structure SMsg where
  srcw : Nat
  vc : Nat
  pseq : BitVec 16
  flits : List Flit
  /-- The receive-buffer slots of this SPD that it holds. -/
  held : Nat
  /-- A revocation has discarded flits of it, and it never enters the wafer (R427, R431). -/
  dead : Bool
deriving DecidableEq, Repr

/-- What tells the flits of one message from those of another between the same two wafers: fold, context, epoch, destination,
endpoint and channel-local tag. -/
structure MsgKey where
  srcw : Nat
  vc : Nat
  wafer : BitVec 4
  fold : BitVec 6
  ctx : BitVec 2
  epoch : BitVec 3
  dest : BitVec 11
  endpt : BitVec 10
  tag : BitVec 16
deriving DecidableEq, Repr

/-- The message a flit belongs to. -/
def msgKey (srcw vc : Nat) (f : Flit) : MsgKey := ⟨srcw, vc, f.wafer, f.fold, f.ctx, f.epoch, f.dest, f.endpt, f.tag⟩

/-- The training state of an SPD (R416–R418, Table SPAN-2a). -/
structure Training where
  tstate : Nat
  cause : Nat
  /-- The lanes our receiver has locked, and those the peer reports. -/
  lock : BitVec 16
  peerLock : BitVec 16
  sentReady : Nat
  gotReady : Nat
  /-- Channel-delay samples, in 0.1 ns. -/
  samples : List Nat
  /-- The peer's last TSTAMP and when it arrived. -/
  peerStamp : Word
  peerAt : Nat
  gotAny : Bool
deriving DecidableEq, Repr

def Training.initial : Training := ⟨0, 0, 0, 0, 0, 0, [], 0, 0, false⟩

/-- One Span die. -/
structure Spd where
  state : SpanState
  cause : Nat
  peerWafer : Nat
  peerSpd : Nat
  /-- 16 lanes, or the half in use: 0 all, 1 lanes 0–7, 2 lanes 8–15. -/
  width : Nat
  /-- Channel delay in 0.1 ns. -/
  delay : Nat
  train : Training
  lastB : BitVec 12
  replay : List SBlock
  cursor : Option Nat
  /-- Credits, CC counts seen, and CC counts freed, one for each Span VC. -/
  credits : List Nat
  seen : List (BitVec 12)
  freed : List (BitVec 12)
  acc : BitVec 12
  nak : Bool
  downOut : Bool
  /-- Flits waiting to be sent, by VC. -/
  sendQ : List SFlit
  /-- Blocks sent since training, for the alignment period (Table SPAN-1). -/
  periods : Nat
  /-- PSEQ last given, by `64·srcWafer + 4·destWafer + vc`; PSEQ last released, by `4·srcWafer + vc`. -/
  pseqOut : Tab (BitVec 16)
  pseqIn : Tab (BitVec 16)
  /-- The messages begun and not yet ended by the sender, with their PSEQ: flits of several messages may come interleaved (R405). -/
  opened : List (MsgKey × BitVec 16)
  /-- The last 58 bits that left the scrambler (Table SPAN-1). -/
  scr : BitVec 58
  partials : List SMsg
  /-- Flock fold table: the wafers each fold spans (R420). -/
  flockFold : Tab (BitVec 16)
  /-- Folds whose Span credits are revoked; true when by a reconfiguration (R427). -/
  revoked : List (Nat × Bool)
  doubt : Bool
  doubtCause : Nat
deriving DecidableEq, Repr

/-- The receive buffer of each Span VC (Table SPAN-3). -/
def spanBuf : List Nat := [64, 1024, 1024, 512]

def Spd.initial : Spd :=
  { state := .squelched, cause := 0, peerWafer := 0, peerSpd := 0, width := 0, delay := 0, train := .initial,
    lastB := 4095, replay := [], cursor := none, credits := spanBuf, seen := List.replicate 4 0,
    freed := List.replicate 4 0, acc := 4095, nak := false, downOut := false, sendQ := [], periods := 0,
    pseqOut := [], pseqIn := [], opened := [], scr := 0, partials := [], flockFold := [], revoked := [], doubt := false, doubtCause := 0 }

/-- A decoded block message of 2,570 bits. -/
abbrev BlockBits := BitVec 2570

/-- One bit into the reflected CRC-32 register. -/
def crc32Bit (c : Word) (b : Bool) : Word :=
  if c.getLsbD 0 != b then (c >>> 1) ^^^ 0xEDB88320#32 else c >>> 1

/-- The CRC-32 of message bits 0–2,537 (Table SPAN-2). -/
def blockCrc (b : BlockBits) : Word := ~~~ ((List.range 2538).foldl (fun c i => crc32Bit c (b.getLsbD i)) 0xFFFFFFFF#32)

/-- Trailer fields, by trailer bit (Table SPAN-2). -/
def tb (b : BlockBits) (lo n : Nat) : Nat := bitsOf b (2304 + lo) n

def bkType (b : BlockBits) : Nat := tb b 0 2
def bkBseq (b : BlockBits) : BitVec 12 := BitVec.ofNat 12 (tb b 14 12)
def bkAck (b : BlockBits) : BitVec 12 := BitVec.ofNat 12 (tb b 26 12)
def bkNak (b : BlockBits) : Bool := tb b 38 1 = 1
def bkDown (b : BlockBits) : Bool := tb b 39 1 = 1
def bkCc (b : BlockBits) (vc : Nat) : BitVec 12 := BitVec.ofNat 12 (tb b (40 + 12 * vc) 12)
def bkTxw (b : BlockBits) : Nat := tb b 168 4
def bkTxs (b : BlockBits) : Nat := tb b 172 4

/-- The flits of a block's valid slots. -/
def bkFlits (b : BlockBits) : List SFlit :=
  (List.range 4).filterMap fun k =>
    if tb b (2 + k) 1 = 1 then
      some ⟨Flit.ofHeader (BitVec.ofNat 64 (bitsOf b (576 * k) 64)) (BitVec.ofNat 512 (bitsOf b (576 * k + 64) 512)),
        tb b (6 + 2 * k) 2, tb b (88 + 4 * k) 4, BitVec.ofNat 16 (tb b (104 + 16 * k) 16)⟩
    else none

/-- The block message that carries given slots and trailer values. -/
def mkBlock (btype : Nat) (slots : List SFlit) (raw0 : Nat) (bseq ack : BitVec 12) (nak down : Bool)
    (cc : List (BitVec 12)) (txw txs : Nat) : BlockBits :=
  let body := ((List.range slots.length).zip slots).foldl (fun a p =>
    a + 2 ^ (576 * p.1) * (p.2.flit.header.toNat + 2 ^ 64 * p.2.flit.payload.toNat)) raw0
  let per := ((List.range slots.length).zip slots).foldl (fun a p =>
    a + 2 ^ (2 + p.1) + p.2.vc * 2 ^ (6 + 2 * p.1) + p.2.srcw * 2 ^ (88 + 4 * p.1) + p.2.pseq.toNat * 2 ^ (104 + 16 * p.1)) 0
  let ccs := ((List.range cc.length).zip cc).foldl (fun a p => a + p.2.toNat * 2 ^ (40 + 12 * p.1)) 0
  let tr := btype + per + bseq.toNat * 2 ^ 14 + ack.toNat * 2 ^ 26 + (if nak then 2 ^ 38 else 0)
    + (if down then 2 ^ 39 else 0) + ccs + txw * 2 ^ 168 + txs * 2 ^ 172
  let v := body + 2 ^ 2304 * tr
  BitVec.ofNat 2570 (v + 2 ^ 2538 * (blockCrc (BitVec.ofNat 2570 v)).toNat)

/-- Whether a received block may be acted on: decodable, its CRC right, from the peer recorded at training (R399). -/
def Spd.blockOk (s : Spd) (decoded : Bool) (b : BlockBits) : Bool :=
  decoded && bitsOf b 2538 32 = (blockCrc b).toNat
    && (s.state ≠ .up || (bkTxw b = s.peerWafer && bkTxs b = s.peerSpd))

/-- The Span VC of a flit that reached the SPD on a mesh VC (Table SPAN-3). -/
def spanVc (f : Flit) (meshVc : Bool) : Nat := if f.fold = 0 then 0 else if meshVc then 2 else 1

/-- Whether a flit may cross Span at all (R403, R404). -/
def spanCrosses (f : Flit) : Bool :=
  if f.typ = ftMemReq || f.typ = ftMemRet then false
  else if f.fold = 0 then f.dest.toNat = 1632 || f.dest.toNat = 1633
  else true

/-- Whether wafer `w` is in a fold's flock entry. -/
def Spd.foldSpans (s : Spd) (fold w : Nat) : Bool := (tabGet 0 s.flockFold fold).getLsbD w

/-- Whether a flit is the last of its message. -/
def endsMsg (f : Flit) : Bool := f.typ = ftDataEnd || f.typ = ftBellwether || f.fold = 0

/-- Give a flit its pair sequence: one higher at each message's first flit, the same for the message's others (R405). -/
def Spd.pairSeq (s : Spd) (srcw : Nat) (f : Flit) (vc : Nat) : Spd × SFlit :=
  let key := 64 * srcw + 4 * f.wafer.toNat + vc
  let mk := msgKey srcw vc f
  let cur := tabGet 0 s.pseqOut key
  let rest := s.opened.filter fun x => x.1 ≠ mk
  if f.seq = 0 then
    ({ s with pseqOut := tabSet 0 s.pseqOut key (cur + 1), opened := if endsMsg f then rest else rest ++ [(mk, cur + 1)] }, ⟨f, vc, srcw, cur + 1⟩)
  else
    let n := ((s.opened.find? fun x => x.1 = mk).map (·.2)).getD cur
    ({ s with opened := if endsMsg f then rest else s.opened }, ⟨f, vc, srcw, n⟩)

/-- Up to four waiting flits, each holding a credit on its VC, and the credits left (R398, R401). -/
def pickSlots (credits : List Nat) : Nat → List SFlit → List SFlit × List SFlit × List Nat
  | 0, q => ([], q, credits)
  | _ + 1, [] => ([], [], credits)
  | n + 1, f :: fs =>
    let c := credits.getD f.vc 0
    if 0 < c then
      let r := pickSlots (listSet credits f.vc (c - 1)) n fs
      (f :: r.1, r.2.1, r.2.2)
    else
      let r := pickSlots credits n fs
      (r.1, f :: r.2.1, r.2.2)

/-- Send the next block: a replay entry, or new flits, or none (R398, R407). -/
def Spd.sendBlock (s : Spd) (me : Nat) (idx : Nat) : Spd × BlockBits :=
  let mk (slots : List SFlit) (b : BitVec 12) : BlockBits :=
    mkBlock 0 slots 0 b s.acc s.nak s.downOut s.freed me idx
  match s.cursor.bind fun c => (s.replay[c]?).map fun e => (c, e) with
  | some (c, e) =>
    ({ s with cursor := if c + 1 < s.replay.length then some (c + 1) else none, periods := s.periods + 1 }, mk e.slots e.bseq)
  | none =>
    if s.replay.length ≥ 512 then ({ s with periods := s.periods + 1 }, mk [] s.lastB)
    else
      let p := pickSlots s.credits 4 s.sendQ
      if p.1.isEmpty then ({ s with periods := s.periods + 1 }, mk [] s.lastB)
      else
        ({ s with sendQ := p.2.1, credits := p.2.2, lastB := s.lastB + 1,
                  replay := s.replay ++ [⟨s.lastB + 1, p.1, false⟩], periods := s.periods + 1 }, mk p.1 (s.lastB + 1))

/-- Act on the acknowledgement, credits and NAK of a good block (R401, R407). -/
def Spd.takeTrailer (s : Spd) (b : BlockBits) : Spd :=
  let ack := bkAck b
  let kept := if s.replay.any fun e => e.bseq = ack then (s.replay.dropWhile fun e => e.bseq ≠ ack).tail else s.replay
  let gone := s.replay.length - kept.length
  let cr := (List.range 4).map fun v => min (spanBuf.getD v 0) (s.credits.getD v 0 + (bkCc b v - s.seen.getD v 0).toNat)
  let s1 := { s with replay := kept, credits := cr, seen := (List.range 4).map (bkCc b),
                     cursor := match s.cursor with
                       | none => none
                       | some c => if kept.length ≤ c - gone then none else some (c - gone) }
  if bkNak b then
    match kept with
    | e :: es => if e.bseq = ack + 1 && !e.replayed then { s1 with replay := { e with replayed := true } :: es, cursor := some 0 } else s1
    | [] => s1
  else s1

/-- The one replay of the oldest unacknowledged block on a timeout (R407). -/
def Spd.startReplay (s : Spd) : Spd :=
  match s.replay with
  | [] => s
  | e :: es => if e.replayed then s else { s with replay := { e with replayed := true } :: es, cursor := some 0 }

/-- Add a flit to the partial messages; the flag answers that it was a duplicate (R405). -/
def Spd.addPartial (s : Spd) (f : SFlit) (hold : Nat) (dead : Bool) : Spd × Bool :=
  let rel := tabGet 0 s.pseqIn (4 * f.srcw + f.vc)
  let behind := (rel - f.pseq).toNat < 32768
  let held := s.partials.any fun m => m.srcw = f.srcw && m.vc = f.vc && m.pseq = f.pseq && m.flits.any fun g => g.seq = f.flit.seq
  if behind || held then (s, true)
  else if s.partials.any fun m => m.srcw = f.srcw && m.vc = f.vc && m.pseq = f.pseq then
    ({ s with partials := s.partials.map fun m =>
        if m.srcw = f.srcw && m.vc = f.vc && m.pseq = f.pseq then { m with flits := m.flits ++ [f.flit], held := m.held + hold, dead := m.dead || dead } else m }, false)
  else ({ s with partials := s.partials ++ [⟨f.srcw, f.vc, f.pseq, [f.flit], hold, dead⟩] }, false)

/-- Whether a message is complete: its DATA_END is here and every sequence below it (R405). A BELLWETHER is whole alone. -/
def msgComplete (m : SMsg) : Bool :=
  match m.flits.find? endsMsg with
  | none => false
  | some e => if e.typ = ftDataEnd then (List.range (e.seq.toNat + 1)).all fun i => m.flits.any fun f => f.seq.toNat = i else true

/-- Release the complete messages whose turn has come, in PSEQ order (fuel bounds the number). -/
def Spd.release : Nat → Spd → Spd × List SMsg
  | 0, s => (s, [])
  | n + 1, s =>
    match s.partials.find? fun m => msgComplete m && m.pseq = tabGet 0 s.pseqIn (4 * m.srcw + m.vc) + 1 with
    | none => (s, [])
    | some m =>
      let r := Spd.release n { s with partials := s.partials.filter (fun x => x ≠ m)
                                      pseqIn := tabSet 0 s.pseqIn (4 * m.srcw + m.vc) m.pseq }
      (r.1, m :: r.2)

/-! Training records (Table SPAN-2a). -/

def trField (b : BlockBits) (lo n : Nat) : Nat := bitsOf b lo n
def trMagic (b : BlockBits) : Nat := trField b 0 16
def trWafer (b : BlockBits) : Nat := trField b 20 4
def trSpd (b : BlockBits) : Nat := trField b 24 4
def trFlock (b : BlockBits) : Nat := trField b 32 32
def trLock (b : BlockBits) : BitVec 16 := BitVec.ofNat 16 (trField b 128 16)
def trState (b : BlockBits) : Nat := trField b 144 3
def trStamp (b : BlockBits) : Word := BitVec.ofNat 32 (trField b 160 32)
def trEcho (b : BlockBits) : Word := BitVec.ofNat 32 (trField b 192 32)
def trHold (b : BlockBits) : Word := BitVec.ofNat 32 (trField b 224 32)

/-- Whether all 16 lanes, or a half, are locked on both sides: 0 all, 1 lanes 0–7, 2 lanes 8–15 (R397, R418). -/
def commonWidth (a b : BitVec 16) : Option Nat :=
  let c := a &&& b
  if c = 0xFFFF then some 0 else if c &&& 0x00FF = 0x00FF then some 1
  else if c &&& 0xFF00 = 0xFF00 then some 2 else none

/-- The wafer on which SPD `d − 1` of wafer `w` is wired (R413): SPD `i` serves (w + i + 1) mod 16, SPD 15 is the spare. -/
def spdPeer (w i : Nat) : Nat × Nat :=
  if i = 15 then (w ^^^ 1, 15) else ((w + i + 1) % 16, 14 - i)

/-- The SPD of wafer `w` that serves peer `p` (R413). -/
def spdFor (w p : Nat) : Nat := (p + 16 - w) % 16 - 1

/-- A training record (Table SPAN-2a): cause and peer's refusal. -/
def trCause (b : BlockBits) : Nat := trField b 147 3

/-- The TRAIN block an SPD sends (R417, Table SPAN-2a). -/
def Spd.trainBlock (s : Spd) (me idx flock serial now : Nat) : BlockBits :=
  let w := (commonWidth s.train.lock s.train.peerLock).getD 0
  let hold := if s.train.gotAny then now - s.train.peerAt else 0
  let r := 0x5450 + 2 ^ 16 + me * 2 ^ 20 + idx * 2 ^ 24 + flock * 2 ^ 32 + serial * 2 ^ 64 + s.train.lock.toNat * 2 ^ 128
    + s.train.tstate * 2 ^ 144 + (if s.train.tstate = 5 then s.train.cause * 2 ^ 147 else 0)
    + (if w = 0 then 0 else 2 ^ 150) + (if w = 2 then 2 ^ 151 else 0) + now % 2 ^ 32 * 2 ^ 160
    + s.train.peerStamp.toNat * 2 ^ 192 + hold % 2 ^ 32 * 2 ^ 224
  mkBlock 1 [] r 0 0 false false [] me idx

/-- The mean channel delay of the 16 samples taken, in 0.1 ns (R418). -/
def Training.meanDelay (t : Training) : Nat := t.samples.sum / 32

/-- Take a good TRAIN block that arrived at `now`, in 0.1 ns: locks, delay sample, states (R418). -/
def Training.take (t : Training) (locked : BitVec 16) (b : BlockBits) (now : Nat) : Training :=
  let rt := (now + 2 ^ 33 - (trEcho b).toNat - (trHold b).toNat) % 2 ^ 32
  let t1 := { t with
    lock := locked, peerLock := trLock b, peerStamp := trStamp b, peerAt := now, gotAny := true
    samples := if trEcho b = 0 || 16 ≤ t.samples.length then t.samples else t.samples ++ [rt]
    gotReady := if trState b = 4 then t.gotReady + 1 else t.gotReady }
  { t1 with tstate :=
      if (commonWidth locked locked).isNone then 0
      else if (commonWidth locked (trLock b)).isNone then 1
      else if t1.samples.length < 16 then 2
      else if t1.meanDelay ≤ 600 then 4 else 3 }

/-- Start an UP link: BSEQ 0 next, full credit, counts at 0 (R418). -/
def Spd.goUp (s : Spd) : Spd :=
  { s with state := .up, lastB := 4095, acc := 4095, replay := [], cursor := none, credits := spanBuf,
           seen := List.replicate 4 0, freed := List.replicate 4 0, nak := false, downOut := false }

/-- The slots of a VC's receive buffer in use. -/
def Spd.heldOn (s : Spd) (vc : Nat) : Nat := ((s.partials.filter fun m => m.vc = vc).map fun m => m.held).sum

/-- The class of a relayed flit, whose slot names VC 3 only: fold 0 is SYS; otherwise the FOLD class whose released
sequence lies nearest behind its PSEQ (log entry 20). -/
def Spd.relayClass (s : Spd) (f : SFlit) : Nat :=
  if f.flit.fold = 0 then 0
  else
    let gap (v : Nat) : Nat := (f.pseq - tabGet 0 s.pseqIn (4 * f.srcw + v)).toNat
    if gap 1 ≤ gap 2 then 1 else 2

/-- Count one buffer slot of a VC freed. -/
def Spd.freeSlot (s : Spd) (vc : Nat) : Spd := { s with freed := listSet s.freed vc (s.freed.getD vc 0 + 1) }

/-! The code of a block (Table SPAN-1). -/

/-- One step of a product in GF(2^10): double under the field polynomial x^10 + x^3 + 1. -/
def gfDouble (a : Nat) : Nat := if a < 512 then 2 * a else Nat.xor (2 * a) 0x409

/-- The product of two symbols in GF(2^10). -/
def gfMul (a b : Nat) : Nat :=
  ((List.range 10).foldl (fun (p : Nat × Nat) i => (if b / 2 ^ i % 2 = 1 then Nat.xor p.1 p.2 else p.1, gfDouble p.2)) (0, a)).1

/-- The power α^n. -/
def gfAlpha (n : Nat) : Nat := (List.range n).foldl (fun a _ => gfDouble a) 1

/-- The generator with the roots α^0 to α^14: its 15 coefficients below x^15, the highest first. -/
def rsGen : List Nat :=
  ((List.range 15).foldl (fun (g : List Nat) i => List.zipWith Nat.xor (g ++ [0]) (0 :: g.map (gfMul (gfAlpha i)))) [1]).tail

/-- The 15 parity symbols of a message of 257 symbols, its first symbol the highest coefficient. -/
def rsParity (msg : List Nat) : List Nat :=
  msg.foldl (fun (r : List Nat) x =>
    let q := Nat.xor x (r.headD 0)
    List.zipWith Nat.xor (r.tail ++ [0]) (rsGen.map (gfMul q))) (List.replicate 15 0)

/-- The scrambler 1 + x^39 + x^58 over the bits of a message, lowest first: its register after them, and the bits that leave it. -/
def scramble (st : BitVec 58) (b : BlockBits) : BitVec 58 × List Bool :=
  (List.range 2570).foldl (fun (p : BitVec 58 × List Bool) i =>
    let o := (b.getLsbD i != p.1.getLsbD 38) != p.1.getLsbD 57
    ((p.1 <<< 1) ||| (if o then 1 else 0), p.2 ++ [o])) (st, [])

/-- The 272 symbols of a block: the scrambled message, then its parity. -/
def codeword (st : BitVec 58) (b : BlockBits) : List Nat :=
  let m := (chunksOf 10 258 (scramble st b).2).map fun bs => bs.foldr (fun x a => 2 * a + if x then 1 else 0) 0
  m ++ rsParity m

/-- The symbols that lane `j` carries: symbol i on lane i mod 16, or in narrow mode on lane i mod 8 of the half in use. -/
def laneSymbols (width : Nat) (syms : List Nat) (j : Nat) : List Nat :=
  let n := if width = 0 then 16 else 8
  let base := if width = 2 then 8 else 0
  if j < base || base + n ≤ j then []
  else (List.range syms.length).filterMap fun i => if i % n = j - base then syms[i]? else none

/-- The alignment block of lane `j`: 16 symbols alternating 0x2AA and 0x155, then one that holds j. -/
def alignSymbols (j : Nat) : List Nat := ((List.range 16).map fun i => if i % 2 = 0 then 0x2AA else 0x155) ++ [j]

end Sys2Proof.Machine
end

