-- ==== Sys2Proof/Machine/State.lean ====
section
/-! DEFINITION. The state of the engine, whole, as plain data: paddocks, fields, links, edge dies, folds, channels,
sessions, the shepherd controllers with their consoles, flash and boot state, tallies, bells and ledger; faults, refusals,
and the state right after reset. -/
namespace Sys2Proof.Machine

open Sys2Proof

/-- Faults of the model. No command of this engine stops it: every condition the manual calls a fault is a doubt, a
refusal reply or a discard, and is a next state. -/
inductive Fault where
  /-- Raised by no command; kept so that the type is inhabited. Safe. -/
  | none
deriving DecidableEq, Repr

/-- Refusals of the model. -/
inductive Refusal where
  /-- A command whose meaning has not been written. Safe: nothing is claimed of it. -/
  | notModelled (mnemonic : String)
deriving DecidableEq, Repr

/-! Paddocks and fields. -/

/-- A wafer-map entry (Table MAP-7): state 0 GOOD, 1 SPARE-REMAPPED, 2 HOLE, 3 RESERVE; retired column; cause. -/
structure MapEntry where
  st : Nat
  col : Nat
  cause : Nat
deriving DecidableEq, Repr

def MapEntry.initial : MapEntry := ⟨0, 63, 0⟩

/-- Paddock power states (Table PWR-5). -/
inductive Power where
  | dark | graze | run
deriving DecidableEq, Repr

/-- A paddock e-fuse (R608–R611). -/
inductive Fuse where
  | closed | tripped (since : Time) | retrying | latched
deriving DecidableEq, Repr

/-- A thermal trip (R641, R642). -/
inductive Trip where
  | none | waiting (since : Time) | retrying (since : Time) (peak : Int) | lasting
deriving DecidableEq, Repr

/-- The states of a context (Table RECFG-1). -/
inductive CtxState where
  | free | staged | standby | live | retiring
deriving DecidableEq, Repr

/-- What a paddock holds for one context. -/
structure PCtx where
  st : CtxState
  fold : Nat
  epoch : BitVec 3
  /-- Context word (Table FINE-2, Table COARSE-2). -/
  word : DWord
  /-- Slot counter t_k. -/
  t : Nat
  /-- Slips in a row (R193). -/
  slips : Nat
  /-- Bellwethers received, and what the transition record asks (R530): BWIN, destinations, incoming context, HANDOVER. -/
  bwGot : Nat
  bwin : Nat
  bwout : List (Nat × Nat)
  incoming : Option Nat
  handover : Bool
  /-- The declared run of a section swap, in periods (R538); none for another transition. -/
  run : Option Nat
  /-- MEM_REQs of F-tiles still unanswered: tile, tag, units (R514). -/
  mem : List (Nat × Nat × Nat)
deriving DecidableEq, Repr

def PCtx.initial : PCtx :=
  { st := .free, fold := 0, epoch := 0, word := 0, t := 0, slips := 0, bwGot := 0, bwin := 0, bwout := [],
    incoming := none, handover := false, run := none, mem := [] }

/-- A yoke membership: the head, and every member, the head first (R571). -/
structure Yoke where
  members : List Nat
deriving DecidableEq, Repr

/-- One paddock. -/
structure Paddock where
  power : Power
  /-- In soft-start since its wave, and the state it takes when the soft-start ends (R606). -/
  soft : Bool
  goal : Power
  /-- The operator set it DARK (R605). -/
  opDark : Bool
  /-- Island multiplier, its target, and the operator's setting (R562, R565, R655). -/
  n : Nat
  target : Nat
  setting : Nat
  /-- When its clock last stepped: the next step follows a microsecond later (R565). -/
  stepAt : Option Time
  yoke : Option Yoke
  fuse : Fuse
  trip : Trip
  firstTrip : Option Time
  /-- The fold left it under R60: its retry can only record the HOLE. -/
  left : Bool
  clockLost : Bool
  /-- When the clock was lost (R577). -/
  lostAt : Time
  /-- Dock outputs are masked, whole or by slot. -/
  masked : Bool
  maskedCtx : List Nat
  /-- The hurdle over fold-lane credits (R145). -/
  hurdled : Bool
  /-- EXCLUSIVE lease: the fold, 0 for none; and the fold of each SHARED slot. -/
  excl : Nat
  slots : List Nat
  pendRemove : Bool
  ctxs : List PCtx
  plan : List Nat
  pos : Nat
  /-- The island cycle, counted from power-up. -/
  ic : Nat
  s0 : Int
  s1 : Int
  bad0 : Option Time
  bad1 : Option Time
  apart : Option Time
  fail0 : Bool
  fail1 : Bool
  hot : Nat
  /-- Flits at the LOCAL port on their way out, by the order they left the outlets (R171). -/
  outbox : List Queued
  /-- The next endpoint whose outlet the dock serves, for each way through it (R227). -/
  dockPos : Tab Nat
  /-- HBM returns the dock has handed to M-units (R252). -/
  returns : List Flit
  /-- Route entries `2048·ctx + dest`: port 0–4, lane, VC; wafer tables `16·ctx + wafer`: the SPD plus one (R135, R136). -/
  routes : List (Nat × (Nat × Nat × Bool))
  wafers : Tab Nat
  /-- Stile entries `4·border + ctx`: fold; and the entries that are LOADING (R140, R445). -/
  stile : Tab Nat
  loading : List Nat
  /-- Folds whose credits a border has revoked (R146). -/
  revoked : List Nat
  fine : Tab Tile
  coarse : Coarse
  /-- The words of M-unit and stream that failed their first check and wait for the re-read (R245). -/
  eccHeld : List Nat
deriving DecidableEq, Repr

/-- What a temperature reads before its sensor has been sampled: 0x8000, failed or unreachable (R856, R876). -/
abbrev noTemp : Int := -32768

def Paddock.initial : Paddock :=
  { power := .dark, soft := false, goal := .dark, opDark := false, n := 48, target := 48, setting := 48, stepAt := none, yoke := none,
    fuse := .closed, trip := .none, firstTrip := none, left := false, clockLost := false, lostAt := 0, masked := true, maskedCtx := [],
    hurdled := false, excl := 0, slots := [0, 0, 0, 0], pendRemove := false, ctxs := List.replicate 4 PCtx.initial,
    plan := [], pos := 0, ic := 0, s0 := noTemp, s1 := noTemp, bad0 := none, bad1 := none, apart := none, fail0 := false,
    fail1 := false, hot := 0, outbox := [], dockPos := [], returns := [], routes := [], wafers := [], stile := [], loading := [],
    revoked := [], fine := [], coarse := Coarse.initial, eccHeld := [] }

/-- A field stage (R612–R615). -/
inductive Stage where
  | off | on | shutdown (since : Time) (vaon : Bool) | retrying (since : Time)
deriving DecidableEq, Repr

/-- One field: its rails, ring, throttle and map entry. -/
structure Field where
  latched : Bool
  excluded : Bool
  stage : Stage
  vcore : Nat
  vtarget : Nat
  departed : Option Time
  /-- What the monitor last read of VCORE when it was out of its window. -/
  seen : Option Nat
  ringOn : Bool
  ringLost : Bool
  ringLostAt : Time
  injector : Option Nat
  /-- Throttling (R637): on, since when below 89 °C, since when held by R149 at or above 94 °C, who widened to it. -/
  throttle : Bool
  cool : Option Time
  held : Option Time
  widened : List Nat
  heldNow : Bool
  /-- A deliberate choice to hold no reserve (R718). -/
  noReserve : Bool
deriving DecidableEq, Repr

def Field.initial : Field :=
  { latched := false, excluded := false, stage := .off, vcore := 750, vtarget := 750, departed := none, seen := none, ringOn := false,
    ringLost := false, ringLostAt := 0, injector := none, throttle := false, cool := none, held := none, widened := [], heldNow := false,
    noReserve := false }

/-! Folds, images, channels, sessions. -/

/-- One record of an image's record stream (Table IMG-3). -/
structure Rec where
  typ : Nat
  flags : Nat
  pad : Nat
  ctx : Nat
  body : List Byte
deriving DecidableEq, Repr

/-- An image as decrypted for this wafer. -/
structure Image where
  minor : Nat
  flags : Nat
  sections : Nat
  version : Nat
  created : Nat
  digest : List Byte
  nonce : List Byte
  size : Nat
  recs : List Rec
deriving DecidableEq, Repr

/-- The states of a fold (Table FOLD-2), in the order of their codes. -/
inductive FoldState where
  | created | loading | running | reconfiguring | checkpointing | migrating | doubt | stopped | releasing
deriving DecidableEq, Repr

/-- What a load has reached. -/
inductive LoadPhase where
  | queued | draining | decrypting | staging | committing | confirming | switching | waiting
deriving DecidableEq, Repr

/-- A load of a fold. -/
structure Load where
  overlap : Bool
  container : List Byte
  limit : Time
  phase : LoadPhase
  since : Time
  image : Option Image
  staged : List (Nat × Nat)
deriving DecidableEq, Repr

/-- A transition between contexts (R510). -/
structure Transition where
  /-- Outgoing contexts not yet left, as (paddock, context). -/
  outgoing : List (Nat × Nat)
  incoming : List (Nat × Nat)
  oldEpoch : Nat
  since : Time
  limit : Time
  /-- NEDs that have closed the outgoing epoch. -/
  closed : List Nat
deriving DecidableEq, Repr

/-- Recovery means (Table FAULT-2). -/
inductive Means where
  | wait | fleece | checkpoint | restart | stop
deriving DecidableEq, Repr

/-- What a recovery has reached (Table FAULT-4). -/
structure Recovery where
  means : Means
  /-- Failed paddocks and their targets. -/
  moves : List (Nat × Nat)
  /-- Paddocks whose fleece is still to come. -/
  shears : List Nat
  restored : Bool
  written : Bool
  committed : Bool
  trigger : Trigger
  place : Nat
  since : Time
deriving DecidableEq, Repr

/-- A muster in progress and what it is for (R540). -/
inductive Muster where
  | checkpoint | fleece
deriving DecidableEq, Repr

/-- One checkpoint copy (R461, R462). -/
structure Copy where
  digest : List Byte
  epoch : Nat
  seq : Nat
  tag : List Byte
  data : List (Nat × List Byte)
deriving DecidableEq, Repr

/-- A released incarnation whose SCRUB record is still to be written (Table FOLD-6 step 6, R863). -/
structure Scrub where
  fold : Nat
  inc : Nat
  recNo : Nat
  since : Time
  sheared : Nat
  slots : Nat
  /-- Pages scrubbed so far, and those still to come: MED, physical page. -/
  scrubbed : Nat
  pages : List (Nat × Nat)
deriving DecidableEq, Repr

/-- One fold. -/
structure Fold where
  id : Nat
  inc : Nat
  label : List Byte
  wrap : List Byte
  /-- The wafers it spans (R420). -/
  wafers : BitVec 16
  st : FoldState
  epoch : Nat
  transitions : Nat
  excl : List Nat
  slots : List (Nat × Nat)
  /-- Linear pages: index, MED, physical page. -/
  pages : List (Nat × Nat × Nat)
  sbase : Nat
  scount : Nat
  squota : Nat
  smeds : List Nat
  /-- Pages of the session quota that no window holds. -/
  qphys : List (Nat × Nat)
  /-- Checkpoint interval in ms, none for off; its MEDs, pages and copies. -/
  ckpt : Option Nat
  /-- A change of interval that waits for the end of the current one (R463). -/
  ckptPend : Option Nat
  cmeds : List Nat
  cpages : Nat
  cphys : List (Nat × Nat)
  copies : List Copy
  ckptSeq : Nat
  lastCkpt : Option Time
  /-- From when the interval runs: the end of the last checkpoint, or a commit (R461). -/
  ckptBase : Time
  pen : Nat
  weight : Nat
  /-- The ordinal of the random value behind KHBM and KCKP; none once erased (R766). -/
  secret : Option Nat
  image : Option Image
  /-- Where each paddock of the committed image stands since it migrated (R60, R673). -/
  moved : List (Nat × Nat)
  load : Option Load
  loadCode : Option Nat
  transition : Option Transition
  muster : Option Muster
  musterAt : Time
  recovery : Option Recovery
  /-- Q raises in force: entry, ns, and the paddock, direction and lane of the cause (R672). -/
  raises : List (Nat × Nat × Nat)
  /-- Repeat windows: trigger, place, the completion of the restart (R666). -/
  windows : List (Trigger × Nat × Time)
  /-- When its release began. -/
  release : Option Time
  /-- Removals recorded for the next commit: paddocks, slots, linear indices (R443). -/
  pendRemove : List Nat
  pendSlots : List (Nat × Nat)
  pendPages : List Nat
  /-- Ledger: interval start, next record number, last snapshot; seconds flags (R855). -/
  ivStart : Time
  recNo : Nat
  snap : List Nat
  credited : Bool
  throttled : List Nat
  ptpLost : Bool
  lateShc : Bool
  /-- Paddocks, and slots as 10,000 + 4·n + k, held at some instant of this second. -/
  heldSec : List Nat
  /-- When a flit of the fold was last discarded as a stray in the wafer (R512, R513). -/
  strayed : Option Time
deriving DecidableEq, Repr

/-- A channel record (R450–R455). -/
structure Channel where
  index : Nat
  fold : Nat
  entry : Nat
  gen : Nat
  ticket : Word
  deadline : Nat
  closed : Bool
  /-- Bindings: NED and index. -/
  binds : List (Nat × Nat)
deriving DecidableEq, Repr

/-- Session states (R328–R331). -/
inductive SessSt where
  | free | open | lost | closing
deriving DecidableEq, Repr

/-- A session record. -/
structure Session where
  st : SessSt
  fold : Nat
  anchor : Nat
  cls : Nat
  cap : Nat
  len : Nat
  /-- A request of the session is in the wafer, and its p0 and a (R343). -/
  busy : Bool
  p0 : Nat
  a : Nat
  /-- The window's pages: MED, physical page. -/
  pages : List (Nat × Nat)
deriving DecidableEq, Repr

def Session.initial : Session :=
  { st := .free, fold := 0, anchor := 0, cls := 0, cap := 0, len := 0, busy := false, p0 := 0, a := 0, pages := [] }

/-! Controllers, consoles, flash. -/

/-- A value in a reply or bell. -/
inductive Val where
  /-- `deci` is a number of tenths, written with one decimal. -/
  | num (n : Nat) | int (i : Int) | deci (i : Int) | hex (n : Nat) | word (w : String) | bytes (b : List Byte) | nums (l : List Nat)
  | time (t : Time) | pad (n : Nat) | none
deriving DecidableEq, Repr

/-- The keys and values of a line. -/
abbrev KVs := List (String × Val)

/-- A bell (R799). -/
structure Bell where
  obj : String
  fault : Bool
  kv : KVs
  seq : Nat
  t : Time
  prior : Bool
deriving DecidableEq, Repr

/-- The forms of a reply line (Table SNF-4). -/
inductive RLine where
  | ok (kv : KVs) | part (kv : KVs) | err (code : Nat) (kv : KVs)
deriving DecidableEq, Repr

/-- What a session has been sent, oldest first. -/
inductive Out where
  | line (tag : Option (List Byte)) (crc : Bool) (r : RLine)
  /-- A bell, with the member's prefix in a flock of more than one (R799). -/
  | bell (crc : Bool) (wafer : Option Nat) (b : Bell)
  | lost (crc : Bool) (n : Nat)
  | raw (bs : List Byte)
deriving DecidableEq, Repr

/-- Login state (R779). -/
inductive Login where
  | open
  | challenged (user challenge : List Byte) (since : Time)
  | loggedIn (user : List Byte) (level : Level)
deriving DecidableEq, Repr

/-- A console or TCP session. -/
structure CSess where
  up : Bool
  login : Login
  echo : Bool
  crc : Bool
  bells : Nat
  idle : Nat
  lastLine : Time
  lineNo : Nat
  part : List Byte
  skip : Bool
  overrun : Bool
  sawCr : Bool
  fails : List Time
  lockedUntil : Option Time
  bellQ : List Bell
  lost : Nat
  /-- Lines received and not yet executed: length with terminator, and whether characters of it were discarded (R746, R747,
  R789). -/
  queued : List (Nat × Bool)
  out : List Out
deriving DecidableEq, Repr

/-- A session at its defaults (Table SNF-1, R780). -/
def CSess.initial (console : Bool) : CSess :=
  { up := false, login := .open, echo := console, crc := false, bells := 0, idle := if console then 900 else 300,
    lastLine := 0, lineNo := 0, part := [], skip := false, overrun := false, sawCr := false, fails := [],
    lockedUntil := none, bellQ := [], lost := 0, queued := [], out := [] }

/-- A console port (R745–R747). -/
structure Con where
  baud : Nat
  flow : Bool
  cts : Bool
  breaks : Nat
  dropped : Nat
  /-- Transmission is held: the place in the session's output from which nothing has left (R746). -/
  held : Option Nat
deriving DecidableEq, Repr

def Con.initial : Con := ⟨921600, false, true, 0, 0, none⟩

/-- Why a command has not been answered yet. -/
inductive WaitFor where
  | rail (f : Nat) | clock (ps : List Nat) (n : Nat) | port (ned port : Nat) (disable : Bool) | lanes (ned group mode : Nat)
  | power (ps : List Nat) | ptp (ned port : Nat) | fold (id : Nat) | session (num : Nat) | handover
  /-- Forwarded to a member of the flock, whose reply is outstanding (R811, R825). -/
  | member (w : Nat)
deriving DecidableEq, Repr

/-- A command waiting for its effect to complete (R828). -/
structure Wait where
  sess : Nat
  tag : Option (List Byte)
  crc : Bool
  why : WaitFor
deriving DecidableEq, Repr

/-- Controller states. -/
inductive ShcSt where
  | ok | doubt | absent
deriving DecidableEq, Repr

/-- One shepherd controller. -/
structure Shc where
  st : ShcSt
  cause : Nat
  slot : Nat
  firmware : Nat
  svn : Nat
  mirrorVersion : Nat
  mirrorSeq : Nat
  lastBeat : Time
  probe : Option Time
  /-- A heartbeat of the partner has arrived since the boot. -/
  heard : Bool
  /-- The paths on which the partner's last heartbeat arrived: SHCL, lane 0. -/
  viaShcl : Bool
  viaLane0 : Bool
  temp : Int
  hot : Nat
  /-- Consecutive samples low and out of range for bus A and bus B (R595). -/
  lowA : Nat
  lowB : Nat
  rngA : Nat
  rngB : Nat
deriving DecidableEq, Repr

/-- One of the heartbeat paths from the partner no longer carries it (R740). -/
def Shc.pathDown (c : Shc) : Bool := c.heard && (!c.viaShcl || !c.viaLane0)

def Shc.initial : Shc :=
  { st := .ok, cause := 0, slot := 0, firmware := 0, svn := 0, mirrorVersion := 0, mirrorSeq := 0, lastBeat := 0,
    probe := none, heard := false, viaShcl := false, viaLane0 := false, temp := noTemp, hot := 0, lowA := 0, lowB := 0, rngA := 0, rngB := 0 }

/-- A firmware image as a flash slot holds it (Table SHC-3). -/
structure Firmware where
  stepping : Nat
  svn : Nat
  mirror : Nat
  version : Nat
  length : Nat
  body : List Byte
deriving DecidableEq, Repr

/-- A credential record (R808). -/
structure Cred where
  name : List Byte
  level : Level
  key : List Byte
deriving DecidableEq, Repr

/-- A stored map copy (Table MAP-6). -/
structure MapCopy where
  seq : Nat
  serial : Nat
  stepping : Nat
  full : Bool
  /-- Its tag verifies. -/
  good : Bool
  time : Nat
  /-- The counts of RESERVE, HOLE and SPARE-REMAPPED entries. -/
  counts : List Nat
  entries : Tab MapEntry
  latched : List Nat
  excluded : List Nat
  noReserve : List Nat
deriving DecidableEq, Repr

/-- Stored port settings. -/
structure PortSet where
  ned : Nat
  port : Nat
  mac : BitVec 48
  template : Nat
  eq : Nat
  ptp : Bool
deriving DecidableEq, Repr

/-- The management address settings (R749). -/
structure Net where
  ip : BitVec 32
  mask : BitVec 32
  gw : BitVec 32
  mac : BitVec 48
deriving DecidableEq, Repr

/-- A package's place in its flock (R415). -/
structure Place where
  flockId : BitVec 32
  wafer : Nat
  members : BitVec 16
deriving DecidableEq, Repr

/-- The contents of the sled's flash (Table SHC-1). -/
structure Flash where
  preferred : Nat
  trial : Bool
  slot0 : Option Firmware
  slot1 : Option Firmware
  recovery : Option Firmware
  bootFull : Bool
  clear : List Nat
  con0 : Nat × Bool
  con1 : Nat × Bool
  net : Net
  lanes : List (Nat × Nat × Nat)
  ports : List PortSet
  place : Place
  mapA : Option MapCopy
  mapB : Option MapCopy
  creds : Option (List Cred)
  /-- Retired pages of each MED. -/
  retired : List (Nat × Nat)
  /-- Ledger ring slots, the next slot and the next wafer sequence. -/
  ring : Tab (List Byte)
  ringNext : Nat
  faults : List Bell
  /-- The last boot reached READY (R701). -/
  reached : Bool
deriving DecidableEq, Repr

/-- A record of two copies that is being written in flash: a copy of the map, or a MED's record with one more retired page. -/
inductive FlashWork where
  | map (b : Bool)
  | med (k page : Nat)
deriving DecidableEq, Repr

/-- The fuses. -/
structure Fuses where
  serial : BitVec 64
  svn : Nat
  mfr : Nat
deriving DecidableEq, Repr

/-- Boot phases. -/
inductive Phase5 where
  | reset | b1 | b2 | b3 | b4 | b5 | ready
deriving DecidableEq, Repr

/-- Why a boot stored FAST runs FULL (R701). -/
inductive BootCause where
  | none | noMap | mismatch | clear | prior | tag
deriving DecidableEq, Repr

/-- Bring-up (R697–R735). -/
structure Boot where
  phase : Phase5
  halted : Bool
  consoles : Bool
  full : Bool
  cause : BootCause
  released : Time
  ended : List (Nat × Time)
  jtag : Bool
  /-- Core rail groups turned on; the ring under test; the sweep has been made. -/
  groups : Nat
  ring : Nat
  swept : Bool
  /-- Verdicts of this boot: 1 passed, 2 failed (R711). -/
  verdicts : Tab Nat
  dies : Tab Nat
  fwTried : List Nat
  aon : Bool
deriving DecidableEq, Repr

def Boot.initial : Boot :=
  { phase := .reset, halted := false, consoles := false, full := true, cause := .none, released := 0, ended := [],
    jtag := false, groups := 0, ring := 0, swept := false, verdicts := [], dies := [], fwTried := [], aon := false }

/-- A stage of the staging store (R832). -/
structure StageBuf where
  id : Nat
  firmware : Bool
  size : Nat
  data : List Byte
deriving DecidableEq, Repr

/-- A firmware update's progress (R759). -/
inductive FwUpdate where
  | none | rejoin (slot : Nat) (since : Time) | handover (slot : Nat)
deriving DecidableEq, Repr

/-- A REPORT that has not been acknowledged (R659). -/
structure PendReport where
  trigger : Trigger
  folds : List Nat
  place : Nat
  since : Time
deriving DecidableEq, Repr

/-- A doubt notice on its way: the fold, the state it names, and whom it has reached. -/
structure Notice where
  fold : Nat
  next : FoldState
  t : Time
deriving DecidableEq, Repr

/-- Tally scopes, the SHC block's own tallies among them. -/
inductive TScope where
  | port | channel | fold | paddock | link | ned | med | spd | shc | binding
deriving DecidableEq, Repr

/-- One tally: its scope, object and place in Table TALLY-1. -/
structure TKey where
  scope : TScope
  id : Nat
  idx : Nat
deriving DecidableEq, Repr

/-- What leaves the lands, as the model's own trace. -/
inductive Wire where
  | frame (ned port : Nat) (start : Time) (bytes : List Byte)
  | beat (x lane : Nat) (b : BitVec 616)
  | block (spd : Nat) (b : BitVec 2570)
  | pmbus (addr page cmd data : Nat)
  | mgmt (bytes : List Byte)
  | keepalive (t : Time)
  | heartbeat (shc : Nat) (b : Beat)
  | probe (shc : Nat)
  /-- A command forwarded with its session's user name and level (R811). -/
  | forward (wafer sess : Nat) (user : List Byte) (level : Level)
  | tcpRefused (code : Nat)
  | sync (slot : Nat) (kind : Nat)
deriving DecidableEq, Repr

/-- A PMBus device's last telemetry: page readings and input power. -/
structure Telem where
  pages : List (Nat × Nat)
  pin : Nat
deriving DecidableEq, Repr

/-- A bus as both controllers count it. -/
structure BusSt where
  mv : Nat
  low : Bool
  range : Bool
deriving DecidableEq, Repr

/-- The state of the engine. -/
structure State where
  now : Time
  /-- Counts the free values drawn so far; the model's own field. -/
  freeCtr : Nat
  /-- Pins: RESET_N and PWR_FAIL_N asserted, FAULT_N and ALERT_N asserted, READY, flash frozen, the VSTBY reset latch. -/
  resetN : Bool
  pwrFail : Bool
  pwrFailAt : Option Time
  frozen : Bool
  faultN : Bool
  alertN : Bool
  alertCause : BitVec 9
  ready : Bool
  readyAt : Time
  vstby : Bool
  fuses : Fuses
  flash : Flash
  /-- What is being written in flash, and since when (R71, R770). -/
  writing : Option (FlashWork × Time)
  /-- The flock and address settings in force since the last reset. -/
  place : Place
  net : Net
  boot : Boot
  /-- The selection cell, its quiet time, the active controller. -/
  sel : Nat
  quiet : Option Time
  active : Option Nat
  shcA : Shc
  shcB : Shc
  mirrorSeq : Nat
  /-- When the active controller's probe of a silent backup left (R743). -/
  mirrorProbe : Option Time
  scratch : Word
  sess : List CSess
  con0 : Con
  con1 : Con
  waits : List Wait
  garp : Nat
  stages : List StageBuf
  nextStage : Nat
  retained : List (Nat × List Byte)
  fwUpdate : FwUpdate
  bellSeq : Nat
  bells : List Bell
  ledgerSeq : Nat
  ledgerHeld : List (List Byte)
  ledgerStopped : Bool
  ptpPort : Option (Nat × Nat)
  ptpHeard : Option Time
  tallies : List (TKey × DWord)
  busA : BusSt
  busB : BusSt
  shared : Bool
  telem : Tab Telem
  unreach : List Nat
  /-- Edges whose reference has been absent for 10 µs, and since when (R579, R937). -/
  refAbsent : List Nat
  refSince : Option Time
  meshLocked : Bool
  inlet : Option Int
  outlet : Option Int
  /-- Since when each condition of R644 holds, and whether its bell has rung. -/
  loopSince : List (Option (Time × Bool))
  wave : List (Nat × Power)
  lastWave : Time
  map : Tab MapEntry
  mapSeq : Nat
  pads : Tab Paddock
  fields : Tab Field
  links : List (Nat × LinkEnd)
  /-- The lane 0 events since the controller last precompiled the routes (R946): a paddock gone DARK, or 10,000 plus an
  end whose lane 0 is lasting-down. -/
  lane0 : List Nat
  neds : List Ned
  meds : List Med
  spds : List Spd
  nedTemp : List (Int × Nat)
  spdTemp : List (Int × Nat)
  medTemp : List (Int × Nat)
  flockUp : Bool
  flockMembers : List Nat
  /-- What each member told when the flock formed. -/
  flockInfo : List MemberInfo
  excludedW : List Nat
  folds : List Fold
  scrubs : List Scrub
  /-- Since when a recovery has the image decryption and loads are paused (R676). -/
  paused : Option Time
  /-- When the lease tallies last grew (R855). -/
  secondAt : Time
  incCtr : Nat
  channels : List Channel
  sessions : List (Nat × Session)
  reports : List PendReport
  notices : List Notice
  /-- Table windows of the NEDs: selection, status, shadow (Table REG-6). -/
  wsel : List Word
  wstat : List Word
  shadow : List (List Word)
  /-- The 8-bit instruction registers of the 54 TAPs, in chain order (R762); 0 at reset (DESIGN CHOICE, log entry 103). -/
  taps : List Byte
  wire : List Wire
  pending : List Instr
deriving DecidableEq, Repr

/-- The settings in flash as the engine is delivered (log entry 11): no map, no users, slot 0 holding firmware. -/
def Flash.delivered : Flash :=
  { preferred := 0, trial := false, slot0 := some ⟨2, 0, 1, 1, 0, []⟩, slot1 := none, recovery := some ⟨2, 0, 1, 1, 0, []⟩,
    bootFull := false, clear := [], con0 := (921600, false), con1 := (921600, false), net := ⟨0, 0, 0, 0⟩,
    lanes := [], ports := [], place := ⟨0, 0, 1⟩, mapA := none, mapB := none, creds := none,
    retired := [], ring := [], ringNext := 0, faults := [], reached := false }

/-- The ten sessions: CON0, CON1, and eight TCP connections. -/
def freshSessions : List CSess :=
  [CSess.initial true, CSess.initial true] ++ List.replicate 8 (CSess.initial false)

/-- The state that RESET_N leaves, keeping what survives it: the flash, the fuses, the VSTBY latch and the environment's
moment (R699, R700, R722, R723, R736). -/
def State.inReset (now : Time) (freeCtr : Nat) (vstby : Bool) (fuses : Fuses) (flash : Flash) (incCtr : Nat)
    (wire : List Wire) (pending : List Instr) : State :=
  { now := now, freeCtr := freeCtr, resetN := true, pwrFail := false, pwrFailAt := none, frozen := false, faultN := true,
    alertN := false, alertCause := 0, ready := false, readyAt := 0, vstby := vstby, fuses := fuses, flash := flash, writing := none, place := flash.place, net := flash.net,
    boot := Boot.initial, sel := 0, quiet := none, active := none, shcA := Shc.initial, shcB := Shc.initial, mirrorSeq := 0,
    mirrorProbe := none, scratch := 0, sess := freshSessions, con0 := Con.initial, con1 := Con.initial,
    waits := [], garp := 0, stages := [], nextStage := 1, retained := [], fwUpdate := .none, bellSeq := 1, bells := [],
    ledgerSeq := 1, ledgerHeld := [], ledgerStopped := false, ptpPort := none, ptpHeard := none, tallies := [],
    busA := ⟨0, false, false⟩, busB := ⟨0, false, false⟩, shared := false, telem := [], unreach := [],
    refAbsent := [], refSince := none, meshLocked := false, inlet := none, outlet := none,
    loopSince := [none, none, none], wave := [], lastWave := 0, map := [], mapSeq := 0, pads := [], fields := [], links := [],
    lane0 := [], neds := List.replicate 24 Ned.initial, meds := List.replicate 12 Med.initial,
    spds := List.replicate 16 Spd.initial, nedTemp := List.replicate 24 (noTemp, 0), spdTemp := List.replicate 16 (noTemp, 0),
    medTemp := List.replicate 12 (noTemp, 0), flockUp := false, flockMembers := [], flockInfo := [], excludedW := [], folds := [], scrubs := [], paused := none,
    secondAt := 0, incCtr := incCtr, channels := [], sessions := [], reports := [], notices := [],
    wsel := List.replicate 24 0, wstat := List.replicate 24 0, shadow := List.replicate 24 (List.replicate 32 0), taps := List.replicate 54 0,
    wire := wire, pending := pending }

/-- The machine right after reset: RESET_N asserted, nothing powered, the flash as delivered (R698–R700, R736). -/
def State.reset : State :=
  State.inReset 0 0 true ⟨1, 0, 0⟩ Flash.delivered 0 [] []

end Sys2Proof.Machine
end

