-- ==== Sys2Proof/Machine/Ops.lean ====
section
/-! DEFINITION. The shared operations on the state: time, lookup and update of each kind of unit, tallies, bells, alerts,
doubt reports, leases, clocks, paddock power, links and map entries. -/
namespace Sys2Proof.Machine

open Sys2Proof

/-- Advance the state's moment to an event's; time never runs back. -/
def State.tick (s : State) (t : Time) : State := { s with now := max s.now t }

/-! Units. -/

def State.pad (s : State) (n : Nat) : Paddock := tabGet Paddock.initial s.pads n
def State.setPad (s : State) (n : Nat) (p : Paddock) : State := { s with pads := tabSet Paddock.initial s.pads n p }
def State.modPad (s : State) (n : Nat) (f : Paddock → Paddock) : State := s.setPad n (f (s.pad n))
def State.field (s : State) (f : Nat) : Field := tabGet Field.initial s.fields f
def State.setField (s : State) (f : Nat) (x : Field) : State := { s with fields := tabSet Field.initial s.fields f x }
def State.modField (s : State) (f : Nat) (g : Field → Field) : State := s.setField f (g (s.field f))
def State.ned (s : State) (k : Nat) : Ned := s.neds.getD k Ned.initial
def State.setNed (s : State) (k : Nat) (x : Ned) : State := { s with neds := listSet s.neds k x }
def State.modNed (s : State) (k : Nat) (f : Ned → Ned) : State := s.setNed k (f (s.ned k))
def State.med (s : State) (k : Nat) : Med := s.meds.getD k Med.initial
def State.setMed (s : State) (k : Nat) (x : Med) : State := { s with meds := listSet s.meds k x }
def State.modMed (s : State) (k : Nat) (f : Med → Med) : State := s.setMed k (f (s.med k))
def State.spd (s : State) (k : Nat) : Spd := s.spds.getD k Spd.initial
def State.setSpd (s : State) (k : Nat) (x : Spd) : State := { s with spds := listSet s.spds k x }
def State.modSpd (s : State) (k : Nat) (f : Spd → Spd) : State := s.setSpd k (f (s.spd k))
def State.shc (s : State) (i : Nat) : Shc := if i = 0 then s.shcA else s.shcB
def State.setShc (s : State) (i : Nat) (x : Shc) : State := if i = 0 then { s with shcA := x } else { s with shcB := x }
/-- A write to flash, which a frozen flash does not take (R597). -/
def State.modFlash (s : State) (f : Flash → Flash) : State := if s.frozen then s else { s with flash := f s.flash }

def State.modShc (s : State) (i : Nat) (f : Shc → Shc) : State := s.setShc i (f (s.shc i))

/-- One lane at one end. -/
def State.link (s : State) (x lane : Nat) : LinkEnd := assoc LinkEnd.initial s.links (linkKey x lane)
def State.setLink (s : State) (x lane : Nat) (l : LinkEnd) : State := { s with links := assocSet s.links (linkKey x lane) l }
def State.modLink (s : State) (x lane : Nat) (f : LinkEnd → LinkEnd) : State := s.setLink x lane (f (s.link x lane))

/-- A wafer-map entry. -/
def State.entry (s : State) (n : Nat) : MapEntry := tabGet MapEntry.initial s.map n
def State.setEntry (s : State) (n : Nat) (e : MapEntry) : State := { s with map := tabSet MapEntry.initial s.map n e }

/-- A fold by its ID. -/
def State.foldOf (s : State) (id : Nat) : Option Fold := s.folds.find? fun f => f.id = id
def State.putFold (s : State) (f : Fold) : State := { s with folds := s.folds.map fun g => if g.id = f.id then f else g }
def State.modFold (s : State) (id : Nat) (g : Fold → Fold) : State :=
  { s with folds := s.folds.map fun f => if f.id = id then g f else f }

/-- Where a paddock of a fold's image stands now (R60). -/
def Fold.place (f : Fold) (n : Nat) : Nat := assoc n f.moved n
def State.movesOf (s : State) (fold : Nat) : List (Nat × Nat) := ((s.foldOf fold).map fun (f : Fold) => f.moved).getD []
def State.placeOf (s : State) (fold n : Nat) : Nat :=
  match s.foldOf fold with
  | some f => f.place n
  | none => n

/-- The state of a fold, if it exists. -/
def State.stOf (s : State) (id : Nat) : Option FoldState := (s.foldOf id).map fun (f : Fold) => f.st

/-- The fold passes gates 1 to 4 of admission: RUNNING, RECONFIGURING or CHECKPOINTING. -/
def State.foldTakes (s : State) (id : Nat) : Bool :=
  s.stOf id = some .running || s.stOf id = some .reconfiguring || s.stOf id = some .checkpointing

def State.session (s : State) (num : Nat) : Session := assoc Session.initial s.sessions num
def State.setSession (s : State) (num : Nat) (x : Session) : State :=
  { s with sessions := if x = Session.initial then assocDel s.sessions num else assocSet s.sessions num x }

/-- A channel by its index. -/
def State.channel (s : State) (index : Nat) : Option Channel := s.channels.find? fun c => c.index = index
def State.putChannel (s : State) (c : Channel) : State :=
  { s with channels := (s.channels.filter fun d => d.index ≠ c.index) ++ [c] }

/-- The local wafer's ID (R415). -/
def State.me (s : State) : Nat := s.place.wafer

/-- The paddock a flit of a fold formed now must name for the image's paddock `n` of wafer `w`: its target after a migration (R51,
R60; headers name physical paddocks). -/
def State.destOf (s : State) (fold w n : Nat) : Nat := if w = s.me then s.placeOf fold n else n

/-! Tallies (Table TALLY-1): places within a scope. -/

def State.tally (s : State) (k : TKey) : DWord := ((s.tallies.find? fun p => p.1 = k).map (·.2)).getD 0

/-- Add to a tally, modulo 2^64 (R851). -/
def State.addTally (s : State) (scope : TScope) (id idx n : Nat) : State :=
  if n = 0 then s
  else
    let k : TKey := ⟨scope, id, idx⟩
    { s with tallies := (s.tallies.filter fun p => p.1 ≠ k) ++ [(k, s.tally k + BitVec.ofNat 64 n)] }

def State.count (s : State) (scope : TScope) (id idx : Nat) : State := s.addTally scope id idx 1

/-- A flit of a fold has been discarded as a stray somewhere in the wafer; the report of it is on its way upward (R513). -/
def State.noteStray (s : State) (fold : Nat) : State := s.modFold fold fun (f : Fold) => { f with strayed := some s.now }

/-- Count on a channel and on the binding that carried it (Table REG-7). -/
def State.countChan (s : State) (ned bind handle idx n : Nat) : State :=
  (s.addTally .channel handle idx n).addTally .binding (8192 * ned + bind) idx n

/-- Start an object's tallies from zero (R852). -/
def State.clearTallies (s : State) (scope : TScope) (id : Nat) : State :=
  { s with tallies := s.tallies.filter fun p => !(p.1.scope = scope && p.1.id = id) }

abbrev tpRx := 0
abbrev tpReplies := 1
abbrev tpUnclassified := 2
abbrev tpTicket := 3
abbrev tpBadFcs := 4
abbrev tpLength := 5
abbrev tpCorrUnread := 6
abbrev tpEarly := 7
abbrev tpReruns := 8
abbrev tpStomped := 9
abbrev tpOverrun := 10
abbrev tpPause := 11
abbrev tpIdleDropped := 12
abbrev tpLinkFault := 13
abbrev tpLong := 14
abbrev tpShort := 15
abbrev tcRequests := 0
abbrev tcResult := 1
abbrev tcDeferred := 2
/-- `refused_r` is at 2 + r. -/
abbrev tcRefused (r : Nat) := 2 + r
abbrev tcReruns := 13
abbrev tcWait := 14
abbrev tfSlipInlet := 0
abbrev tfSlipOutput := 1
abbrev tfSlipFine := 2
abbrev tfSlipUnit := 3
abbrev tfWatchdog := 4
abbrev tfSaturation := 5
abbrev tfRange := 6
abbrev tfNonfinite := 7
abbrev tfStray := 8
abbrev tfSkip := 9
abbrev tfBounds := 10
abbrev tfStileSent := 11
abbrev tfRouteMiss := 12
abbrev tfForced := 13
abbrev tfTransWait := 14
abbrev tfDoubt := 15
abbrev tfMigrate := 16
abbrev tfRestart := 17
abbrev tfCheckpoint := 18
abbrev tfLeasePad := 19
abbrev tfLeaseSlot := 20
abbrev tfCreditPad := 21
abbrev tfCreditSlot := 22
abbrev tfThrottled := 23
abbrev tfPage := 24
abbrev tdEccCorrected := 0
abbrev tdEccTransient := 1
abbrev tdResidue := 2
abbrev tdCrook := 3
abbrev tdStray := 4
abbrev tdFuse := 5
abbrev tdThermal := 6
abbrev tdClock := 7
abbrev tdSensor := 8
abbrev tdSupply := 9
abbrev tdThrottle := 10
/-- Transient ring losses and stage shutdowns, of a field (Table REG-4). -/
abbrev tdRing := 11
abbrev tdStage := 12
/-- Per-context counts of a paddock: three slips and saturation, credit and lease seconds; and throttled seconds (R882). -/
abbrev tdCtx (k i : Nat) := 16 + 8 * k + i
abbrev tdThrottledS := 48
abbrev tlFlits := 0
abbrev tlTransient := 1
abbrev tlLasting := 2
abbrev tlMalformed := 3
abbrev tlStile := 4
abbrev tlCredit := 5
abbrev tlStray := 6
abbrev tlDetour := 7
abbrev tnEntered := 0
abbrev tnReleased := 1
abbrev tnRemoved := 2
abbrev tnInFlightMax := 3
abbrev tnReread := 4
abbrev tmCorrected := 0
abbrev tmReread := 1
abbrev tmRetired := 2
abbrev tmStile := 3
abbrev tmUnmapped := 4
abbrev tmRevoked := 5
abbrev tmParity := 6
abbrev tmThrottle := 7
abbrev tmScrubbed := 8
abbrev tsCorrected := 0
abbrev tsTransient := 1
abbrev tsLasting := 2
abbrev tsDuplicate := 3
abbrev tsMalformed := 4
abbrev tsCredit := 5
abbrev tsStile := 6
abbrev tsStray := 7
abbrev tsRelay := 8
/-- The SHC block: bus, loop, path, PMBus transient, failed logins, lost bells (*Tallies*). -/
abbrev thBus := 0
abbrev thLoop := 1
abbrev thPath := 2
abbrev thPmbus := 3
abbrev thLogin := 4
abbrev thLost := 5

/-- Put a fold in a state: a credit state marks the second (R855), and a fold that stops being active loses its burst accounts
(R481). -/
def State.setFoldSt (s : State) (id : Nat) (st : FoldState) : State :=
  let s1 := s.modFold id fun (f : Fold) => { f with st := st, credited := f.credited || st = .migrating || st = .doubt || st = .stopped }
  if st = .running || st = .reconfiguring || st = .checkpointing then s1
  else { s1 with neds := s1.neds.map fun (n : Ned) => { n with accounts := n.accounts.filter fun a => a.1 ≠ id } }

/-- A paddock throttles: marked for its folds' second (R855). -/
def State.markThrottle (s : State) (fld : Nat) : State :=
  { s with folds := s.folds.map fun (f : Fold) =>
      { f with throttled := (f.throttled ++ ((f.excl ++ f.slots.map fun q => q.1).filter fun n => fieldOf n = fld)).eraseDups } }

/-- The key of a link tally. -/
def linkId (x lane : Nat) : Nat := linkKey x lane

/-! Bells (R799–R802, R857, R858). -/

/-- Whether a session admits a bell (R800). -/
def CSess.admits (c : CSess) (b : Bell) : Bool :=
  c.up && (match c.login with
    | .loggedIn _ _ => c.bells = 0 || (c.bells = 1 && b.fault)
    | _ => false)

/-- Queue a bell to a session: at most 256; one that finds the queue full is counted (R802). -/
def CSess.queue (c : CSess) (b : Bell) : CSess :=
  if c.bellQ.length ≥ 256 then { c with lost := c.lost + 1 } else { c with bellQ := c.bellQ ++ [b] }

/-- The controller's clock at a moment: from 0 at the release of RESET_N, and UTC, which the model's moments count, once a PTP
master has been heard since (R108, R109, R859, Table REG-2; log entry 45). -/
def State.clockAt (s : State) (t : Time) : Time := if s.ptpHeard.isSome then t else t - s.boot.released

def State.clock (s : State) : Time := s.clockAt s.now

/-- Ring a bell: log it, write a fault bell to flash, and queue it to every session that admits it. With no controller
active nothing rings (R681). -/
def State.ring (s : State) (obj : String) (fault : Bool) (kv : KVs) : State :=
  if s.active.isNone then s
  else
    let b : Bell := ⟨obj, fault, kv, s.bellSeq, s.clock, false⟩
    let lostNow := (s.sess.filter fun (c : CSess) => c.admits b && decide (c.bellQ.length ≥ 256)).length
    let s1 := { s with
      bellSeq := s.bellSeq + 1
      bells := (s.bells ++ [b]).drop ((s.bells.length + 1) - 65536)
      flash := if fault && !s.frozen then { s.flash with faults := (s.flash.faults ++ [b]).drop ((s.flash.faults.length + 1) - 4096) }
               else s.flash
      sess := s.sess.map fun (c : CSess) => if c.admits b then c.queue b else c }
    s1.addTally .shc (s1.active.getD 0) thLost lostNow

/-- The conditions of Table SHC-6, by row. -/
abbrev alBus := 0
abbrev alRail := 1
abbrev alThrottle := 2
abbrev alSensor := 3
abbrev alLoop := 4
abbrev alPmbus := 5
abbrev alRef := 6
abbrev alLane := 7
abbrev alPath := 8

/-- Assert ALERT_N for a condition and latch its cause (Table SHC-6, SHC_ALERTCAUSE). -/
def State.alert (s : State) (row : Nat) : State :=
  { s with alertN := true, alertCause := s.alertCause ||| BitVec.ofNat 9 (2 ^ row) }

/-! Leases and doubt. -/

/-- The folds that hold a paddock or a slot in it, each once. -/
def Paddock.folds (p : Paddock) : List Nat :=
  ((if p.excl = 0 then [] else [p.excl]) ++ p.slots.filter (· ≠ 0)).eraseDups

def State.foldsOn (s : State) (n : Nat) : List Nat := (s.pad n).folds

/-- The folds of a field. -/
def State.foldsInField (s : State) (f : Nat) : List Nat := ((fieldPads f).flatMap fun n => s.foldsOn n).eraseDups

/-- Whether a paddock is leased at all. -/
def Paddock.leased (p : Paddock) : Bool := p.excl ≠ 0 || p.slots.any (· ≠ 0)

/-- The fold that a paddock's lease gives a context. -/
def Paddock.foldAt (p : Paddock) (k : Nat) : Nat := if p.excl ≠ 0 then p.excl else p.slots.getD k 0

/-- Every paddock in which a fold holds all or a slot. -/
def Fold.pads (f : Fold) : List Nat := (f.excl ++ f.slots.map (·.1)).eraseDups

/-- A unit reports a trigger upward: the REPORT is under way until the active controller receives it; FAULT_N is asserted
(R659, R663). With no fold named nothing is in doubt. -/
def State.report (s : State) (tr : Trigger) (folds : List Nat) (place : Nat) : State :=
  if folds.isEmpty then s
  else { s with reports := s.reports ++ [⟨tr, folds, place, s.now⟩], faultN := true }

/-- Mask a paddock's dock outputs and hurdle it: every context stops (R659). -/
def Paddock.maskAll (p : Paddock) : Paddock := { p with masked := true, hurdled := true }

/-- Mask and stop the contexts of given folds: the whole paddock where one holds it EXCLUSIVE, otherwise its slots, whose
stile entries become LOADING (R445, R659, R662). -/
def Paddock.maskFolds (p : Paddock) (folds : List Nat) : Paddock :=
  if p.excl ≠ 0 && folds.contains p.excl then p.maskAll
  else
    let ks := (List.range 4).filter fun k => folds.contains (p.slots.getD k 0) && p.slots.getD k 0 ≠ 0
    { p with maskedCtx := (p.maskedCtx ++ ks).eraseDups,
             loading := (p.loading ++ ks.flatMap fun k => (List.range 4).map fun d => 4 * d + k).eraseDups }

/-- The context record `k` of a paddock. -/
def Paddock.ctx (p : Paddock) (k : Nat) : PCtx := p.ctxs.getD k PCtx.initial
def Paddock.setCtx (p : Paddock) (k : Nat) (c : PCtx) : Paddock := { p with ctxs := listSet p.ctxs k c }

/-- Whether context `k` may issue: nothing masks or hurdles it (R145, R659). -/
def Paddock.mayIssue (p : Paddock) (k : Nat) : Bool :=
  p.power = .run && !p.hurdled && !p.maskedCtx.contains k && !p.clockLost

/-- Everything a paddock holds becomes zero and every context FREE (R212, R544). -/
def Paddock.shear (p : Paddock) : Paddock :=
  { p with fine := [], coarse := Coarse.initial, ctxs := List.replicate 4 PCtx.initial, plan := [], pos := 0, outbox := [], dockPos := [],
           returns := [], routes := [], wafers := [], eccHeld := [] }

/-- Zero one context of a SHARED paddock and free it. -/
def Paddock.shearCtx (p : Paddock) (k : Nat) : Paddock :=
  { p with
    fine := tabMap Tile.initial p.fine fun _ t => t.dropCtx k
    coarse := p.coarse.dropCtx k
    ctxs := listSet p.ctxs k PCtx.initial
    plan := p.plan.filter (· ≠ k)
    outbox := p.outbox.filter fun q => q.flit.ctx.toNat ≠ k
    returns := p.returns.filter fun f => f.ctx.toNat ≠ k
    routes := p.routes.filter fun r => r.1 / 2048 ≠ k
    wafers := p.wafers.filter fun r => r.1 / 16 ≠ k }

/-- The stile tables as the lease writes them: the fold of an EXCLUSIVE paddock at every entry; the fold of a SHARED slot at
its context's entries (R439, R445). -/
def Paddock.writeStile (p : Paddock) : Paddock :=
  { p with
    stile := (List.range 16).filterMap fun i =>
      let f := if p.excl ≠ 0 then p.excl else p.slots.getD (i % 4) 0
      if f = 0 then none else some (i, f)
    loading := if p.excl ≠ 0 then [] else p.loading.filter fun i => p.slots.getD (i % 4) 0 ≠ 0 }

/-- Mark or clear the LOADING flags of a context's entries (R445). -/
def Paddock.setLoading (p : Paddock) (k : Nat) (on : Bool) : Paddock :=
  let rest := p.loading.filter fun i => i % 4 ≠ k
  { p with loading := if on then rest ++ (List.range 4).map fun d => 4 * d + k else rest }

/-! Clocks (R149, R562–R566, R571, R572, R583). -/

/-- The largest N of a core rail setting (Table PWR-4). -/
def railMaxN (mv : Nat) : Nat :=
  if mv < 650 then 0 else if mv < 675 then 36 else if mv < 700 then 39 else if mv < 725 then 42 else if mv < 750 then 45
  else if mv < 775 then 48 else if mv < 800 then 50 else if mv < 825 then 52 else if mv < 850 then 54 else 56

/-- The lowest rail setting that carries a multiplier. -/
def railForN (n : Nat) : Nat :=
  if n ≤ 36 then 650 else if n ≤ 39 then 675 else if n ≤ 42 then 700 else if n ≤ 45 then 725 else if n ≤ 48 then 750
  else if n ≤ 50 then 775 else if n ≤ 52 then 800 else if n ≤ 54 then 825 else 850

/-- Whether lane 0 is live over a border: both sides RUN or GRAZE (R125). -/
def State.lane0Live (s : State) (n m : Nat) : Bool := (s.pad n).power ≠ .dark && (s.pad m).power ≠ .dark

/-- The paddocks that step with `n`: its yoke, or itself. -/
def State.yokeOf (s : State) (n : Nat) : List Nat :=
  match (s.pad n).yoke with
  | some y => y.members
  | none => [n]

/-- Whether R149 holds around a paddock that would run at `x`, its own yoke aside. -/
def State.ratioOk (s : State) (n x : Nat) : Bool :=
  (List.range 4).all fun d =>
    match padBeyond n d with
    | none => true
    | some m =>
      !s.lane0Live n m || (s.yokeOf n).contains m || (decide (x ≤ 2 * (s.pad m).n) && decide ((s.pad m).n ≤ 2 * x))

/-- One step of a multiplier toward `x` (R566). -/
def stepToward (cur x : Nat) : Nat := if cur < x then cur + 1 else if x < cur then cur - 1 else cur

/-- Move the island clock of a paddock and its yoke by one toward `x`, when R149 allows it (R565, R566, R572). -/
def State.stepClock (s : State) (n x : Nat) : State :=
  let ps := s.yokeOf n
  let next := stepToward (s.pad n).n x
  if ps.all fun m => s.ratioOk m next then
    ps.foldl (fun s m => s.modPad m fun p => { p with n := next, stepAt := some s.now }) s
  else s

/-! Paddock power (R604–R608). -/

/-- Open a paddock's gate: it is DARK and its state is lost (R608, R641). -/
def State.goDark (s : State) (n : Nat) : State :=
  let s1 := s.modPad n fun p => { p.shear with power := .dark, soft := false, masked := true, hurdled := p.leased }
  if (s.pad n).power = .dark || s.lane0.contains n then s1 else { s1 with lane0 := s1.lane0 ++ [n] }

/-- Put a paddock in the power-up wave, to take a state after its soft-start (R606). -/
def State.enqueueWave (s : State) (n : Nat) (goal : Power) : State :=
  if s.wave.any fun w => w.1 = n then s else { s with wave := s.wave ++ [(n, goal)] }

/-- A yoke is dissolved: each member falls back to its own synthesizer (R574). -/
def State.dissolveYoke (s : State) (n : Nat) : State :=
  (s.yokeOf n).foldl (fun s m => s.modPad m fun p => { p with yoke := none }) s

/-- A paddock's fuse or its thermal trip waits for its one retry (R610, R642). -/
def Paddock.tripped (p : Paddock) : Bool :=
  (match p.fuse with
    | .tripped _ => true
    | _ => false)
  || match p.trip with
    | .waiting _ => true
    | _ => false

/-- A paddock's one retry after a fuse or thermal trip is under way. -/
def Paddock.retrying (p : Paddock) : Bool :=
  p.fuse = .retrying || match p.trip with
    | .retrying _ _ => true
    | _ => false

/-- Write a paddock into the map as a HOLE, held DARK and in no yoke; a reserve lost while unleased is belled, and in a latched field
the cause stays 3 (R62, R64, R66, R69, R605). -/
def State.markHole (s : State) (n cause : Nat) (quiet : Bool) : State :=
  let e := s.entry n
  if e.st = 2 && e.cause = 3 && (s.field (fieldOf n)).latched then s
  else
    let s1 := ((s.dissolveYoke n).setEntry n ⟨2, e.col, cause⟩).modPad n fun p => { p with opDark := false }
    let s2 := if (s.pad n).retrying then s1 else { s1 with wave := s1.wave.filter fun w => w.1 ≠ n }
    if quiet || e.st = 2 then s2
    else s2.ring "paddock" true ([("at", .pad n), ("event", .word (if e.st = 3 then "reserve-lost" else "hole")), ("cause", .num cause)])

/-- The power state the map and the leases give a paddock (R605); one that leaves its lease during a clock change stays in RUN until the
last step (R588). -/
def State.homePower (s : State) (n : Nat) : Power :=
  let p := s.pad n
  if (s.entry n).st = 2 then .dark else if p.leased then .run else if p.opDark then .dark
  else if p.power = .run && p.n ≠ p.target then .run else .graze

/-- A clock change is over: an unleased paddock that it kept in RUN enters GRAZE (R588). -/
def State.endRun (s : State) (n : Nat) : State :=
  if (s.pad n).power = .run && !(s.pad n).leased then s.modPad n fun p => { p with power := s.homePower n } else s

/-- The multiplier nearest `x` at which paddocks `ps` may run beside their neighbours outside (R149). One exists always, for a
neighbour runs at 16 to 56. -/
def State.fitClock (s : State) (ps : List Nat) (x : Nat) : Nat :=
  let near := ps.flatMap fun n => (List.range 4).filterMap fun d => (padBeyond n d).bind fun m =>
    if ps.contains m || !s.lane0Live n m then none else some (s.pad m).n
  near.foldl (fun y m => min y (2 * m)) (near.foldl (fun y m => max y (ceilDiv m 2)) x)

/-- The physical column that is clock-gated and isolated in F-paddock `n`: the one its map entry retires, else the spare column 32
(R214, Table MAP-7). -/
def State.gatedColumn (s : State) (n : Nat) : Nat :=
  if (s.entry n).st = 1 && (s.entry n).col ≤ 32 then (s.entry n).col else 32

/-- The physical column that logical column `x` of F-paddock `n` uses (R214). -/
def State.physColumn (s : State) (n x : Nat) : Nat := if x < s.gatedColumn n then x else x + 1

/-! Bring-up (R711–R714). -/

/-- A paddock test is under way: no retry applies (R714). -/
def State.testing (s : State) : Bool := s.boot.phase = .b4 && s.boot.full

/-- A paddock has its verdict of this boot: tested, kept as a HOLE, or in a field that takes no part (R710, R714, R717). -/
def State.hasVerdict (s : State) (n : Nat) : Bool :=
  tabGet 0 s.boot.verdicts n ≠ 0 || (s.entry n).st = 2 || (s.field (fieldOf n)).stage ≠ .on

/-- B4 has nothing left to do. -/
def State.b4Done (s : State) : Bool :=
  s.boot.phase = .b4 && s.wave.isEmpty && !(s.pads.any fun p => p.2.soft)
    && (!s.boot.full || (s.boot.swept && (List.range 1344).all fun n => s.hasVerdict n))

/-- End B4 when it is done (R702). -/
def State.endB4 (s : State) : State :=
  if s.b4Done then { s with boot := { s.boot with phase := .b5, ended := s.boot.ended ++ [(4, s.now)] } } else s

/-! Dies in doubt. -/

/-- Assert FAULT_N and ring for a die or controller that enters doubt (R663). -/
def State.dieBell (s : State) (obj : String) (k cause : Nat) : State :=
  ({ s with faultN := true }).ring obj true [("die", .num k), ("state", .word "doubt"), ("cause", .num cause)]

/-- Whether a die, by destination index, is in doubt. -/
def State.dieDoubt (s : State) (d : Nat) : Bool :=
  if d < 1560 then (s.ned (d - 1536)).doubt
  else if d < 1580 then (s.med (d - 1568)).doubt
  else if d < 1616 then (s.spd (d - 1600)).doubt
  else (s.shc (d - 1632)).st ≠ .ok

/-- The SPD that stands for SPD `i`: itself, or its nearest ring neighbour out of doubt, ascending before descending (R425). -/
def State.spdSub (s : State) (i : Nat) : Nat :=
  if !(s.spd i).doubt then i
  else (((List.range 15).flatMap fun d => [(i + d + 1) % 16, (i + 15 - d) % 16]).find? fun j => !(s.spd j).doubt).getD i

/-- The dies attached to the paddocks of an edge field, lowest destination index first, shepherd controllers aside (R559). -/
def fieldDies (f : Nat) : List Nat :=
  let ds := ((fieldPads f).flatMap fun n => (List.range 4).filterMap fun d => (attachedDie n d).map (·.1)).eraseDups
  ((List.range 80).map (1536 + ·)).filter fun d => ds.contains d

/-- Choose the die that injects each edge field now (R559, R579, R937). -/
def dieEdge (d : Nat) : Nat := if d < 1568 then (d - 1536) / 6 else if d < 1600 then (d - 1568) / 3 else (d - 1600) / 4

def State.injectorOf (s : State) (f : Nat) : Option Nat :=
  (fieldDies f).find? fun d => !s.dieDoubt d && !s.refAbsent.contains (dieEdge d)

def State.reinject (s : State) : State :=
  (List.range 84).foldl (fun s f =>
    if (s.field f).injector = s.injectorOf f then s else s.modField f fun x => { x with injector := s.injectorOf f }) s

/-- Every tally of a fold, channel by channel: the keys of its channels. -/
def State.foldChannels (s : State) (id : Nat) : List Channel := s.channels.filter fun c => c.fold = id

/-- The handle of a channel. -/
def Channel.handle (c : Channel) : Word := mkHandle c.fold c.index c.gen

/-- Write to a PMBus device, as the trace of the lands keeps it (Table PWR-8). -/
def State.pmbus (s : State) (addr page cmd data : Nat) : State := { s with wire := s.wire ++ [.pmbus addr page cmd data] }

/-- A device is reachable (R619). -/
def State.reachable (s : State) (addr : Nat) : Bool := !s.unreach.contains addr

/-- Whether the engine runs at all: not held in reset. -/
def State.running (s : State) : Bool := !s.resetN

/-- An event at its moment: nothing happens while the engine is held in reset, or where the event's own condition does
not hold (log entry 13). -/
def State.event (s : State) (t : Time) (c : State → Bool) (f : State → State) : State :=
  if (s.tick t).running && c (s.tick t) then f (s.tick t) else s.tick t

/-- Draw the next free value. -/
def State.draw (s : State) : DWord × State := (Config.random s.freeCtr, { s with freeCtr := s.freeCtr + 1 })

/-- Draw `n` free bytes. -/
def drawBytes : Nat → State → List Byte × State
  | 0, s => ([], s)
  | n + 1, s =>
    let r := drawBytes n { s with freeCtr := s.freeCtr + 1 }
    (BitVec.ofNat 8 (Config.random s.freeCtr).toNat :: r.1, r.2)

/-! The test chain (R762, R763, Table SHC-4). -/

/-- The die (a destination index) at place `i` of the chain: SHC-A, south and east slots rising, SHC-B, north and west slots falling
(R762). -/
def tapDie (i : Nat) : Nat :=
  if i = 0 then shcDest 0
  else if i ≤ 13 then slotDie 0 (i - 1)
  else if i ≤ 26 then slotDie 1 (i - 14)
  else if i = 27 then shcDest 1
  else if i ≤ 40 then slotDie 2 (40 - i)
  else slotDie 3 (53 - i)

/-- The segment of 13 TAPs that a controller masters with a die in it: south, east, north, west; none for a controller (R763). -/
def tapSegment (i : Nat) : Option Nat :=
  if i = 0 || i = 27 then none
  else if i ≤ 13 then some 0
  else if i ≤ 26 then some 1
  else if i ≤ 40 then some 2
  else some 3

/-- The device number of a die in IDCODE bits 12 to 27 (Table SHC-4). -/
def tapDevice (d : Nat) : Nat := if 1632 ≤ d then 0x7A04 else if 1600 ≤ d then 0x7A02 else if 1568 ≤ d then 0x7A03 else 0x7A01

/-- The IDCODE register at place `i` of the chain: 1, the manufacturer code, the device number, Stepping B (Table SHC-4). -/
def State.idcode (s : State) (i : Nat) : Word :=
  BitVec.ofNat 32 (1 + 2 * (s.fuses.mfr % 2048) + 4096 * tapDevice (tapDie i) + 0x20000000)

/-- The place of an edge die in the part of the chain that the selected controller masters; none when JTAG_EN was high at the release of
RESET_N, since the lands own the chain then (R763). -/
def State.tapOf (s : State) (d : Nat) : Option Nat :=
  if s.boot.jtag then none else (List.range 54).find? fun i => (tapSegment i).isSome && tapDie i = d

/-- The controller tests an edge die over the chain: what its instruction register then holds is a free value (R763, log entry 103). -/
def State.tapTest (s : State) (d : Nat) : State :=
  match s.tapOf d with
  | some i => { s.draw.2 with taps := listSet s.taps i (BitVec.ofNat 8 s.draw.1.toNat) }
  | none => s

end Sys2Proof.Machine
end

