-- ==== Sys2Proof/Machine/Flags.lean ====
section
/-! DEFINITION. The status and interrupt flags: whether a condition behind FAULT_N or ALERT_N stands, and their
acknowledgement (R663, R848, Table SHC-5, Table SHC-6). -/
namespace Sys2Proof.Machine

open Sys2Proof

/-- A condition of Table SHC-6 persists. -/
def State.alertStands (s : State) : Bool :=
  s.busA.low || s.busA.range || s.busB.low || s.busB.range || !s.unreach.isEmpty || !s.refAbsent.isEmpty
    || (s.fields.any fun x => x.2.throttle || x.2.departed.isSome)
    || (s.pads.any fun x => x.2.fail0 || x.2.fail1) || (s.links.any fun x => x.2.lastingDown)
    || (s.spds.any fun (d : Spd) => d.state = .down)
    || (s.loopSince.any fun x => x.any fun y => y.2)
    || s.shcA.pathDown || s.shcB.pathDown

/-- A fold is in DOUBT or STOPPED, a die or controller is in doubt, or a trigger has not been received yet (R663, R848). -/
def State.faultStands (s : State) : Bool :=
  !s.reports.isEmpty || s.pwrFail || s.boot.halted || (s.folds.any fun (f : Fold) => f.st = .doubt || f.st = .stopped)
    || (s.neds.any fun (n : Ned) => n.doubt) || (s.meds.any fun (m : Med) => m.doubt) || (s.spds.any fun (d : Spd) => d.doubt)
    || s.shcA.st ≠ .ok || s.shcB.st ≠ .ok

/-- Acknowledge FAULT_N and ALERT_N (R663, Table SHC-5). -/
def State.ack (s : State) : State := { s with faultN := s.faultN && s.faultStands, alertN := s.alertN && s.alertStands }

end Sys2Proof.Machine
end

