-- ==== Sys2Proof/Machine/Operands.lean ====
section
/-! DEFINITION. The operand forms of the commands that name places: locations, rectangles, slots, fields and dies (Table
SNF-3, Table CMD-1). -/
namespace Sys2Proof.Machine

open Sys2Proof

/-- Resolve a location to paddocks; none where one does not exist (Table CMD-1). -/
def locPads : Loc → Option (List Nat)
  | .pad c r => if c < 28 && r < 48 then some [padAt c r] else none
  | .rect c1 r1 c2 r2 =>
    if max c1 c2 < 28 && max r1 r2 < 48 then
      some ((List.range (max r1 r2 - min r1 r2 + 1)).flatMap fun i =>
        (List.range (max c1 c2 - min c1 c2 + 1)).map fun j => padAt (min c1 c2 + j) (min r1 r2 + i))
    else none
  | .slot c r k => if c < 28 && r < 48 && k < 4 then some [padAt c r] else none
  | .field x y => if x < 7 && y < 12 then some (fieldPads (7 * y + x)) else none

/-- Resolve a list of locations, in order of index, each paddock once. -/
def locList (ls : List Loc) : Option (List Nat) :=
  (ls.foldl (fun (acc : Option (List Nat)) l =>
    match acc, locPads l with
    | some a, some b => some (a ++ b)
    | _, _ => none) (some [])).map fun ps => (List.range 1344).filter fun n => ps.contains n

/-- Resolve slots: paddock and slot number. -/
def locSlots (ls : List Loc) : Option (List (Nat × Nat)) :=
  ls.foldl (fun (acc : Option (List (Nat × Nat))) l =>
    match acc, l with
    | some a, .slot c r k => if c < 28 && r < 48 && k < 4 then some (a ++ [(padAt c r, k)]) else none
    | _, _ => none) (some [])

/-- The destination index of a named die; none where it does not exist. -/
def dieDest : DieName → Option Nat
  | .ned k => if k < 24 then some (nedDest k) else none
  | .spd k => if k < 16 then some (spdDest k) else none
  | .med k => if k < 12 then some (medDest k) else none
  | .shc k => if k < 2 then some (shcDest k) else none

end Sys2Proof.Machine
end

