-- ==== Sys2Proof/Machine/Reply.lean ====
section
/-! DEFINITION. What every console command shares: the order of judgement from step 2 on, replies, bells sent between
lines, commands answered when their effect completes (*The Snifen console language*, Table SNF-5, R777–R830). -/
namespace Sys2Proof.Machine

open Sys2Proof

def State.cs (s : State) (i : Nat) : CSess := s.sess.getD i (CSess.initial false)
def State.setCs (s : State) (i : Nat) (c : CSess) : State := { s with sess := listSet s.sess i c }
def State.modCs (s : State) (i : Nat) (f : CSess → CSess) : State := s.setCs i (f (s.cs i))

/-- Put output on a session that is up. -/
def State.say (s : State) (i : Nat) (o : Out) : State :=
  if (s.cs i).up then s.modCs i fun c => { c with out := c.out ++ [o] } else s

/-- A command of this engine's own that has no reply yet. One forwarded to another member does not hold its session here: that member's
reply has no command of the table, so it is taken as having come before the session's next line (log entry 102). -/
def Wait.holds (w : Wait) (i : Nat) : Bool := w.sess = i && match w.why with
  | .member _ => false
  | _ => true

/-- The prompt of a console with echo on, when nothing is queued or executing (R787). -/
def State.prompt (s : State) (i : Nat) : State :=
  if i < 2 && (s.cs i).echo && (s.cs i).queued.isEmpty && !(s.waits.any fun w => w.holds i) then s.say i (.raw [0x3E, 0x20]) else s

/-- A final line; the idle time restarts with it (R794, R820). -/
def State.final (s : State) (i : Nat) (tag : Option (List Byte)) (crc : Bool) (r : RLine) : State :=
  ((s.say i (.line tag crc r)).modCs i fun c => { c with lastLine := s.now }).prompt i

/-- Answer a command: its tag first, and a CRC suffix where the line carried one (R788, R792, R794). -/
def State.answer (s : State) (ln : Ln) (r : RLine) : State :=
  match r with
  | .part _ => s.say ln.sess (.line ln.tag ln.crc r)
  | _ => s.final ln.sess ln.tag ln.crc r
def State.ok (s : State) (ln : Ln) (kv : KVs) : State := s.answer ln (.ok kv)
def State.err (s : State) (ln : Ln) (code : Nat) (kv : KVs) : State := s.answer ln (.err code kv)

/-- One `part` line for each record, then `ok count=n` with further keys (R829). -/
def State.parts (s : State) (ln : Ln) (ps : List KVs) (kv : KVs) : State :=
  (ps.foldl (fun s p => s.answer ln (.part p)) s).ok ln (kv ++ [("count", .num ps.length)])

/-- A refusal by a rule of the manual: E-501 with its `why` (Table CMD-16). -/
def State.refuse (s : State) (ln : Ln) (why : String) : State := s.err ln 501 [("why", .word why)]

/-- The prefix a bell of this engine carries: its wafer, in a flock of more than one member (R799). -/
def State.bellWafer (s : State) : Option Nat := if 1 < s.flockMembers.length then some s.me else none

/-- The bells a session holds are sent before its next reply (R790, R801); none while a loss notice is owed (R802). -/
def State.sendBells (s : State) (i : Nat) : State :=
  let c := s.cs i
  if c.lost = 0 then s.setCs i { c with out := c.out ++ c.bellQ.map (Out.bell c.crc s.bellWafer), bellQ := [] } else s

def levelRank : Level → Nat
  | .view => 0
  | .operate => 1
  | .admin => 2

def levelWord : Level → String
  | .view => "view"
  | .operate => "operate"
  | .admin => "admin"

def phaseWord : Phase5 → String
  | .reset => "reset"
  | .b1 => "b1"
  | .b2 => "b2"
  | .b3 => "b3"
  | .b4 => "b4"
  | .b5 => "b5"
  | .ready => "ready"

/-- The phase number of `show engine` and E-201: 1–5, 6 ready. -/
def phaseNum : Phase5 → Nat
  | .reset => 0
  | .b1 => 1
  | .b2 => 2
  | .b3 => 3
  | .b4 => 4
  | .b5 => 5
  | .ready => 6

/-- Whether a session executes a line now: it is up, a controller is active, and no command of the session is executing (R744,
R777, R789). -/
def State.hears (s : State) (i : Nat) : Bool :=
  s.running && s.active.isSome && (s.cs i).up && !(s.waits.any fun w => w.holds i)

/-- A complete line arrives: it is numbered, restarts the idle time, and voids an outstanding challenge; a forwarded command of the
session has had its reply (R780, R805, log entry 102). -/
def State.lineIn (s : State) (ln : Ln) : State :=
  ({ s with waits := s.waits.filter fun w => w.sess ≠ ln.sess || w.holds ln.sess }).modCs ln.sess fun c =>
    { c with lineNo := c.lineNo + 1, lastLine := s.now, queued := c.queued.drop 1,
             login := match c.login with
               | .challenged _ _ _ => .open
               | l => l }

/-- Keep a command open until its effect completes (R828). -/
def State.await (s : State) (ln : Ln) (w : WaitFor) : State := { s with waits := s.waits ++ [⟨ln.sess, ln.tag, ln.crc, w⟩] }

/-- Judge a line from step 2 of Table SNF-5 and run its body when every step passes. `need` is the command's level,
`boot` whether Table BOOT-4 accepts it during bring-up. A command for another member is forwarded and stays open (R811, R825). -/
def State.judged (s : State) (ln : Ln) (need : Level) (boot : Bool) (body : State → State) : State :=
  let s0 := s.tick ln.t
  if !s0.hears ln.sess then s0
  else
    let c := s0.cs ln.sess
    let s1 := (s0.lineIn ln).sendBells ln.sess
    if c.crc && !ln.crc then s1.final ln.sess none false (.err 117 [("line", .num (c.lineNo + 1))])
    else
      match c.login with
      | .loggedIn user lvl =>
        if levelRank lvl < levelRank need then s1.err ln 302 [("need", .word (levelWord need))]
        else if s1.boot.phase ≠ .ready && !boot then s1.err ln 201 [("phase", .word (phaseWord s1.boot.phase))]
        else
          match ln.wafer with
          | some w =>
            if w = s1.me then body s1
            else if s1.flockMembers.contains w then
              ({ s1 with wire := s1.wire ++ [Wire.forward w ln.sess user lvl] }).await ln (.member w)
            else s1.err ln 603 [("wafer", .num w)]
          | none => body s1
      | _ => s1.err ln 301 []

/-- A session verb: accepted in every login state and during bring-up (R812). -/
def State.sessionVerb (s : State) (ln : Ln) (body : State → State) : State :=
  let s0 := s.tick ln.t
  if !s0.hears ln.sess then s0
  else
    let c := s0.cs ln.sess
    if c.crc && !ln.crc then
      ((s0.lineIn ln).sendBells ln.sess).final ln.sess none false (.err 117 [("line", .num (c.lineNo + 1))])
    else body ((s0.lineIn ln).sendBells ln.sess)

/-- Answer and close the open commands that wait for one thing. -/
def State.settle (s : State) (p : WaitFor → Bool) (r : RLine) : State :=
  let hit := s.waits.filter fun w => p w.why
  hit.foldl (fun s w => s.final w.sess w.tag w.crc r) { s with waits := s.waits.filter fun w => !p w.why }

/-- A change to a mirrored record: the backup applies it, or is in doubt or absent (R742, log entry 12). -/
def State.mirror (s : State) : State :=
  let s1 := { s with mirrorSeq := s.mirrorSeq + 1 }
  match s.active with
  | none => s1
  | some a =>
    let b := s1.shc (1 - a)
    let m := s1.modShc a fun x => { x with mirrorSeq := s1.mirrorSeq }
    if b.st = .ok && b.mirrorVersion = (s1.shc a).mirrorVersion then m.modShc (1 - a) fun x => { x with mirrorSeq := s1.mirrorSeq } else m

/-- Whether a write to flash takes: the flash is not frozen and the write reads back (R597, R831). -/
def State.flashTakes (s : State) (ln : Ln) : Bool := ln.dev && !s.frozen

/-- A flash write that did not read back (R755). -/
def State.flashErr (s : State) (ln : Ln) (region : String) : State := s.err ln 602 [("region", .word region)]

/-- A range check of step 7. -/
def State.inRange (s : State) (ln : Ln) (key : String) (x lo hi : Nat) (body : State → State) : State :=
  if lo ≤ x && x ≤ hi then body s else s.err ln 402 [("key", .word key), ("min", .num lo), ("max", .num hi)]

/-- A command on a fold that must exist. -/
def State.onFold (s : State) (ln : Ln) (id : Nat) (body : Fold → State) : State :=
  match s.foldOf id with
  | some f => body f
  | none => s.err ln 401 [("object", .word "fold")]

/-- The word of a fold state. -/
def foldWord : FoldState → String
  | .created => "created"
  | .loading => "loading"
  | .running => "running"
  | .reconfiguring => "reconfiguring"
  | .checkpointing => "checkpointing"
  | .migrating => "migrating"
  | .doubt => "doubt"
  | .stopped => "stopped"
  | .releasing => "releasing"

/-- The code of a fold state in the ledger (Table TALLY-4). -/
def foldCode : FoldState → Nat
  | .created => 0
  | .loading => 1
  | .running => 2
  | .reconfiguring => 3
  | .checkpointing => 4
  | .migrating => 5
  | .doubt => 6
  | .stopped => 7
  | .releasing => 8

/-- How many paddocks a map holds in a state. -/
def mapCount (m : Tab MapEntry) (st : Nat) : Nat := ((List.range 1344).filter fun n => (tabGet MapEntry.initial m n).st = st).length

/-- Whether a stored copy is valid: its tag, its engine, its counts, and HOLE with cause 3 throughout a latched field
(R63, R64, R733). -/
def State.copyValid (s : State) (m : MapCopy) : Bool :=
  m.good && m.serial = s.fuses.serial.toNat && m.stepping = 2
    && m.counts = [mapCount m.entries 3, mapCount m.entries 2, mapCount m.entries 1]
    && m.entries.all (fun e => e.2.st ≠ 1 || (isFine e.1 && decide (e.2.col ≤ 32)))
    && m.latched.all fun f => (fieldPads f).all fun n =>
      (tabGet MapEntry.initial m.entries n).st = 2 && (tabGet MapEntry.initial m.entries n).cause = 3

/-- The valid copies of the map in flash, copy 0 and copy 1. -/
def State.validCopies (s : State) : Option MapCopy × Option MapCopy :=
  (s.flash.mapA.filter fun m => s.copyValid m, s.flash.mapB.filter fun m => s.copyValid m)

/-- The valid copy with the higher sequence number (R63). -/
def State.validMap (s : State) : Option MapCopy :=
  match s.validCopies with
  | (some a, some b) => if a.seq < b.seq then some b else some a
  | (some a, none) => some a
  | (none, b) => b

/-- The sequence number of the newer copy. -/
def newerSeq (s : State) : Nat := (s.validMap.map fun m => m.seq).getD 0

def State.mapRecord (s : State) (full : Bool) : MapCopy :=
  { seq := newerSeq s + 1, serial := s.fuses.serial.toNat, stepping := 2, full := full, good := true, time := s.now / second,
    counts := [mapCount s.map 3, mapCount s.map 2, mapCount s.map 1],
    entries := s.map, latched := (List.range 84).filter fun f => (s.field f).latched,
    excluded := (List.range 84).filter fun f => (s.field f).excluded,
    noReserve := (List.range 84).filter fun f => (s.field f).noReserve }

/-- Whether the next map write goes to copy 1: copy 0 is valid and not older (R63). -/
def State.mapToB (s : State) : Bool :=
  match s.validCopies with
  | (some a, some b) => decide (b.seq < a.seq)
  | (some _, none) => true
  | (none, _) => false

/-- Write the running map over the older flash copy and read it back, when flash takes writes (R63). -/
def State.writeMap (s : State) (full ok : Bool) : State :=
  if s.frozen || !ok then s
  else
    let m := s.mapRecord full
    { s with mapSeq := m.seq, flash := if s.mapToB then { s.flash with mapB := some m } else { s.flash with mapA := some m } }

/-- A map write that no command waits for: it is under way until its time has passed (R71, R770). -/
def State.writeMapAlone (s : State) : State :=
  if s.frozen then s else { s.writeMap s.boot.full true with writing := some (.map s.mapToB, s.now) }

/-- The flash write under way, if its time has not passed: how long one takes is free (log entry 94). -/
def State.flashWork (s : State) : Option FlashWork :=
  match s.writing with
  | some w => if s.now < w.2 + Config.flashTime w.2 then some w.1 else none
  | none => none

/-- A copy that a write of this part left unfinished fails its check. -/
def Flash.cut (f : Flash) : FlashWork → Flash
  | .map true => { f with mapB := f.mapB.map fun (m : MapCopy) => { m with good := false } }
  | .map false => { f with mapA := f.mapA.map fun (m : MapCopy) => { m with good := false } }
  | .med k page => { f with retired := f.retired.filter fun q => q ≠ (k, page) }

/-- What is being written in flash is cut off: that copy fails its check, and the older one stands. A frozen flash starts no new write,
but one in progress had gone on (R71, R597, R726, R770). -/
def State.cutFlash (s : State) : State :=
  { s with writing := none, flash := match s.flashWork with
      | some w => s.flash.cut w
      | none => s.flash }

/-- The newest copy in flash, valid or not. -/
def State.newestMap (s : State) : Option MapCopy :=
  match s.flash.mapA, s.flash.mapB with
  | some a, some b => if a.seq < b.seq then some b else some a
  | some a, none => some a
  | none, b => b

/-! Controllers (R663, Table TALLY-3). -/

def shcWord (i : Nat) : String := if i = 0 then "shc-a" else "shc-b"

/-- The partner is in doubt: FAULT_N and a bell (R663). -/
def State.shcDoubt (s : State) (i cause : Nat) : State :=
  let s1 := s.modShc i fun c => { c with st := .doubt, cause := cause }
  ({ s1 with faultN := true }).ring "shc" true
    [("role", .word (shcWord i)), ("state", .word "doubt"), ("cause", .num cause)]

/-- The bell of a takeover (Table TALLY-3). -/
def State.takeoverBell (s : State) (i : Nat) : State :=
  s.ring "shc" true [("role", .word (shcWord i)), ("state", .word "takeover")]

end Sys2Proof.Machine
end

