-- ==== Sys2Proof/Machine/Image.lean ====
section
/-! DEFINITION. Reading a fold image's records: geometry, channel entries, session classes, contexts, routes, links,
transitions, relocation and added latency (Table IMG-5), and what they name. -/
namespace Sys2Proof.Machine

open Sys2Proof

/-- A little-endian field of a record body. -/
def fld (b : List Byte) (o n : Nat) : Nat := leNat (slice b o n)

/-- The first record of a type, and the one of a paddock and context. -/
def Image.findRec (im : Image) (typ : Nat) : Option Rec := im.recs.find? fun r => r.typ = typ
def Image.recAt (im : Image) (typ pad ctx : Nat) : Option Rec := im.recs.find? fun r => r.typ = typ && r.pad = pad && r.ctx = ctx

/-- A channel entry (ENTRY). -/
structure Entry where
  no : Nat
  dest : Nat
  endpt : Nat
  ctx : Nat
  cls : Option Nat
  mrqOff : Nat
  readlim : Nat
  last : Nat
  resLen : Nat
  q : Nat
  dLow : Nat
  dHigh : Nat
  rsrc : Nat
  writes : Bool
deriving DecidableEq, Repr

def entryOf (b : List Byte) : Entry :=
  { no := fld b 0 2, dest := fld b 2 2, endpt := fld b 4 2, ctx := fld b 6 1, cls := if fld b 7 1 = 0xFF then none else some (fld b 7 1),
    mrqOff := fld b 8 2, readlim := fld b 10 2, last := fld b 12 2, resLen := fld b 14 2, q := fld b 16 4, dLow := fld b 20 4,
    dHigh := fld b 24 4, rsrc := fld b 28 2, writes := fld b 30 1 % 2 = 1 }

def Image.entries (im : Image) : List Entry := (im.recs.filter fun r => r.typ = 2).map fun r => entryOf r.body
def Image.entry (im : Image) (no : Nat) : Option Entry := im.entries.find? fun e => e.no = no

/-- A session class (CLASS, Table SEQ-1). -/
structure SClass where
  cls : Nat
  ctx : Nat
  streams : List Nat
  posOff : Nat
  appOff : Option Nat
  appFix : Nat
  amax : Nat
  t0 : Nat
  t1 : Nat
  /-- Prefix recipients: paddock, wafer, context. -/
  fan : List (Nat × Nat × Nat)
deriving DecidableEq, Repr

def classOf (b : List Byte) : SClass :=
  { cls := fld b 0 1, ctx := fld b 1 1, streams := (List.range (fld b 2 1)).map fun j => fld b (20 + j) 1, posOff := fld b 4 2,
    appOff := if fld b 6 2 = 0xFFFF then none else some (fld b 6 2), appFix := fld b 8 2, amax := fld b 10 2, t0 := fld b 12 4,
    t1 := fld b 16 4, fan := (List.range (fld b 3 1)).map fun i => (fld b (36 + 4 * i) 2, fld b (38 + 4 * i) 1, fld b (39 + 4 * i) 1) }

def Image.classes (im : Image) : List SClass := (im.recs.filter fun r => r.typ = 3).map fun r => classOf r.body
def Image.cls (im : Image) (no : Nat) : Option SClass := im.classes.find? fun c => c.cls = no

/-- GEOMETRY. -/
def geoKind (b : List Byte) : Nat := fld b 0 1
/-- Paddock entries: index, kind (0 whole, 1–4 slot 0–3), context mask. -/
def geoPads (b : List Byte) : List (Nat × Nat × Nat) :=
  (List.range (fld b 2 2)).map fun i => (fld b (8 + 4 * i) 2, fld b (10 + 4 * i) 1, fld b (11 + 4 * i) 1)
def geoYokes (b : List Byte) : List (List Nat) :=
  (List.range (fld b 1 1)).map fun i =>
    let o := 8 + 4 * fld b 2 2 + 4 * i
    (List.range (fld b (o + 2) 1)).map fun j => if fld b (o + 3) 1 = 0 then fld b o 2 + j else fld b o 2 - j
def geoPages (b : List Byte) : List (Nat × Nat) :=
  (List.range (fld b 4 2)).map fun i =>
    let o := 8 + 4 * fld b 2 2 + 4 * fld b 1 1 + 4 * i
    (fld b o 2, fld b (o + 2) 1)
def Image.geo (im : Image) : List Byte := ((im.findRec 1).map (·.body)).getD []

/-- CKPT regions: paddock, kind, context, unit, offset, length. -/
structure Region where
  pad : Nat
  kind : Nat
  ctx : Nat
  unit : Nat
  off : Nat
  len : Nat
deriving DecidableEq, Repr

def Image.regions (im : Image) : List Region :=
  match im.findRec 4 with
  | none => []
  | some r => (List.range (fld r.body 0 4)).map fun i =>
      let o := 8 + 16 * i
      ⟨fld r.body o 2, fld r.body (o + 2) 1, fld r.body (o + 3) 1, fld r.body (o + 4) 2, fld r.body (o + 8) 4, fld r.body (o + 12) 4⟩

def Image.ckptBytes (im : Image) : Nat := (im.regions.map (·.len)).sum

/-- RESET runs: kind, context, unit, offset and data. -/
structure ResetRun where
  kind : Nat
  ctx : Nat
  unit : Nat
  off : Nat
  data : List Byte
deriving DecidableEq, Repr

def resetRuns : Nat → List Byte → Nat → List ResetRun
  | 0, _, _ => []
  | n + 1, b, o =>
    let len := fld b (o + 8) 4
    ⟨fld b o 1, fld b (o + 1) 1, fld b (o + 2) 2, fld b (o + 4) 4, slice b (o + 16) len⟩
      :: resetRuns n b (o + 16 + 8 * ceilDiv len 8)

def runsOf (b : List Byte) : List ResetRun := resetRuns (fld b 0 4) b 8

/-- One route entry of a ROUTE record or patch: destination, port, lane, VC. -/
def routeOf (x : Nat) : Nat × (Nat × Nat × Bool) := (x % 2048, (x / 2048 % 8, x / 16384 % 4, x / 65536 % 2 = 1))
def routeEntries (b : List Byte) : List (Nat × (Nat × Nat × Bool)) :=
  (List.range (fld b 16 2)).map fun i => routeOf (fld b (20 + 4 * i) 4)

/-- LINK detours: direction, lane, order, class and hops. -/
def linkDetours (b : List Byte) : List (Nat × Nat × Nat × Detour) :=
  (List.range (fld b 4 2)).map fun i =>
    let o := 8 + 8 * i
    (fld b o 1, fld b (o + 1) 1, fld b (o + 2) 1,
     if fld b (o + 3) 1 = 0 then .shift (fld b (o + 4) 1)
     else if fld b (o + 3) 1 = 1 then .around ((List.range 3).map fun j => fld b (o + 4 + j) 1 % 16)
     else .transit)

/-- TRANSITION entries. -/
structure TransEntry where
  pad : Nat
  out : Nat
  inc : Nat
  handover : Bool
  bwin : Nat
  run : Nat
  bwout : List (Nat × Nat)
deriving DecidableEq, Repr

def transEntries : Nat → List Byte → Nat → List TransEntry
  | 0, _, _ => []
  | n + 1, b, o =>
    let k := fld b (o + 6) 1
    ⟨fld b o 2, fld b (o + 2) 1, fld b (o + 3) 1, fld b (o + 4) 1 % 2 = 1, fld b (o + 5) 1, fld b (o + 8) 4,
     (List.range k).map fun i => (fld b (o + 12 + 4 * i) 4 % 2048, fld b (o + 12 + 4 * i) 4 / 2048 % 16)⟩
      :: transEntries n b (o + 12 + 4 * k)

def Image.transitions (im : Image) : List TransEntry :=
  match im.findRec 6 with
  | none => []
  | some r => transEntries (fld r.body 0 4) r.body 8

/-- RELOC entries: paddock, targets, patches (target ordinal, context, paddock, route). -/
structure Reloc where
  pad : Nat
  targets : List Nat
  patches : List (Nat × Nat × Nat × Nat)
deriving DecidableEq, Repr

def relocEntries : Nat → List Byte → Nat → List Reloc
  | 0, _, _ => []
  | n + 1, b, o =>
    let k := fld b (o + 8) 4
    ⟨fld b o 2, ((List.range (fld b (o + 2) 1)).map fun i => fld b (o + 4 + 2 * i) 2).filter (· ≠ 0xFFFF),
     (List.range k).map fun i => (fld b (o + 12 + 8 * i) 1, fld b (o + 13 + 8 * i) 1, fld b (o + 14 + 8 * i) 2, fld b (o + 16 + 8 * i) 4)⟩
      :: relocEntries n b (o + 12 + 8 * k)

def Image.relocs (im : Image) : List Reloc :=
  match im.findRec 0x20 with
  | none => []
  | some r => relocEntries (fld r.body 0 4) r.body 8

def Image.targets (im : Image) (n : Nat) : List Nat := ((im.relocs.find? fun e => e.pad = n).map (·.targets)).getD []

/-- DQ entries: kind, ordinal, paddock, direction, lane, entry, ns. -/
structure DqEntry where
  kind : Nat
  ord : Nat
  pad : Nat
  dir : Nat
  lane : Nat
  entry : Nat
  ns : Nat
deriving DecidableEq, Repr

def Image.dqs (im : Image) : List DqEntry :=
  match im.findRec 0x21 with
  | none => []
  | some r => (List.range (fld r.body 0 4)).map fun i =>
      let o := 8 + 12 * i
      ⟨fld r.body o 1, fld r.body (o + 1) 1, fld r.body (o + 2) 2, fld r.body (o + 4) 1, fld r.body (o + 5) 1,
       fld r.body (o + 6) 2, fld r.body (o + 8) 4⟩

/-- The entry of a binding's channel, in the fold's committed image. -/
def State.entryOfHandle (s : State) (h : Word) : Option (Fold × Entry) :=
  match s.channel (hdlIndex h), s.foldOf (hdlFold h) with
  | some c, some f => (f.image.bind fun im => im.entry c.entry).map fun e => (f, e)
  | _, _ => none

/-- What a Q raise adds to an entry now (R672). -/
def Fold.raise (f : Fold) (entry : Nat) : Nat := ((f.raises.filter fun r => r.1 = entry).map fun r => r.2.1).sum

end Sys2Proof.Machine
end

