-- ==== Sys2Proof/Machine/Lanes.lean ====
section
/-! DEFINITION. The lanes of a border as a whole: lane 0 routes, the fold lanes two paddocks keep open to each other, detours, and
the lasting-down verdict (*The mesh, flits and links*, R55, R56, R125, R135–R141, R157–R161, R165–R169, R945, R946). -/
namespace Sys2Proof.Machine

open Sys2Proof

/-- Every end and lane at a paddock's borders. -/
def padLanes (n : Nat) : List (Nat × Nat) := (List.range 16).map fun i => (padEnd n (i / 4), i % 4)

/-- Whether an end is an edge port of a shepherd controller, on either side of it. -/
def shcPort (x : Nat) : Bool :=
  let die (e : Nat) : Bool := 8192 ≤ e && 1632 ≤ (e - 8192) / 2
  die x || (match peerEnd x with
    | some y => die y
    | none => false)

/-- Whether a lane of a border exists: a shepherd controller's edge ports have lane 0 only (R56). -/
def laneExists (x lane : Nat) : Bool := lane = 0 || !shcPort x

/-! Lane 0 (R138, R946). -/

/-- Whether the link from paddock `n` in direction `d` is usable by lane 0, as the routes in force know it: every event
after the first since the last precompiled set is unknown to them. -/
def State.lane0Link (s : State) (known : Bool) (n d : Nat) : Bool :=
  match padBeyond n d with
  | none => false
  | some m =>
    let late := s.lane0.drop 1
    let light (k : Nat) : Bool := (s.pad k).power ≠ .dark || (known && late.contains k)
    let x := padEnd n d
    let y := padEnd m (oppDir d)
    let up (e : Nat) : Bool := !(s.link e 0).lastingDown || (known && (late.contains (10000 + x) || late.contains (10000 + y)))
    light n && light m && up x && up y

/-- Where lane 0 traffic for a destination leaves the paddocks: the paddock, and the direction out of it (4 for LOCAL). -/
def State.lane0Target (s : State) (dest : Nat) : Nat × Nat :=
  if dest < 1344 then (dest, 4)
  else
    let a := diePad dest 0
    let bad := (s.entry a.1).st = 2 || (s.pad a.1).power = .dark || (s.link (dieEnd dest 0) 0).lastingDown
    if bad then diePad dest 1 else a

/-- The paddocks one usable link away from any of a set. -/
def State.lane0Front (s : State) (known : Bool) (front seen : List Nat) : List Nat :=
  ((front.flatMap fun m => (List.range 4).filterMap fun d =>
    match padBeyond m d with
    | some k => if s.lane0Link known k (oppDir d) && !seen.contains k then some k else none
    | none => none)).eraseDups

/-- The set of paddocks one step nearer to the target than `n` on shortest usable paths. -/
def State.lane0Near (s : State) (known : Bool) (n : Nat) : Nat → List Nat → List Nat → List Nat
  | 0, _, _ => []
  | f + 1, front, seen =>
    let next := s.lane0Front known front seen
    if next.contains n then front
    else if next.isEmpty then []
    else s.lane0Near known n f next (seen ++ next)

/-- The order in which a router tries directions toward a target paddock (R946). -/
def lane0Order (n m : Nat) : List Nat :=
  let ew := if padCol n < padCol m then [1] else if padCol m < padCol n then [3] else []
  let ns := if padRow n < padRow m then [0] else if padRow m < padRow n then [2] else []
  ew ++ ns ++ [0, 1, 2, 3]

/-- The output of lane 0 at paddock `n` toward a destination; none where there is no usable path. -/
def State.lane0Dir (s : State) (n dest : Nat) : Option Nat :=
  let t := s.lane0Target dest
  if n = t.1 then some t.2
  else
    let near := s.lane0Near true n 1344 [t.1] [t.1]
    (lane0Order n t.1).find? fun d =>
      s.lane0Link true n d && (match padBeyond n d with
        | some m => near.contains m
        | none => false)

/-! Where a flit makes for (R51, R135, R136). -/

/-- A flit's destination is paddock `n` of this wafer. -/
def State.isHere (s : State) (n : Nat) (f : Flit) : Bool := f.wafer.toNat = s.me && f.dest.toNat = n

/-- The destination index a flit makes for on this wafer: its own, or the SPD its wafer table names. -/
def State.routeDest (s : State) (n lane : Nat) (f : Flit) : Option Nat :=
  if f.wafer.toNat = s.me then some f.dest.toNat
  else if lane = 0 then some (spdDest (s.spdSub (spdFor s.me f.wafer.toNat)))
  else
    match tabGet 0 (s.pad n).wafers (16 * f.ctx.toNat + f.wafer.toNat) with
    | 0 => none
    | k + 1 => some (spdDest (s.spdSub k))

/-- The route entry of a context for a destination: port, lane, VC (R136). -/
def State.routeEntry (s : State) (n k dest : Nat) : Option (Nat × Nat × Bool) :=
  ((s.pad n).routes.find? fun r => r.1 = 2048 * k + dest).map (·.2)

/-! Fold lanes between two paddocks (R141, R144, R145). -/

/-- Whether the fold lanes of a border are open to data: between two paddocks, only where both are leased to one fold (R141). -/
def State.openLane (s : State) (x lane : Nat) : Bool :=
  lane = 0 || 8192 ≤ x || (match padBeyond (x / 4) (x % 4) with
    | some m => (s.pad (x / 4)).folds.any fun f => (s.foldsOn m).contains f
    | none => true)

/-- The credits of the lane that leaves end `x`, advertised afresh by its receiver: a slot for each flit that its buffers and the
flits on their way leave free, none where the lane is closed (R141, R144). -/
def State.syncCredits (s : State) (x lane : Nat) : State :=
  match peerEnd x with
  | none => s
  | some y =>
    let l := s.link x lane
    let r := s.link y lane
    if l.lastingDown then s
    else
      let sent (vc : Bool) : Nat := ((ackReplay r.acc l.replay).filter fun e => e.item.vc = vc).length
      let free (vc : Bool) : Nat := if s.openLane x lane then 16 - (r.buf vc).length - sent vc else 0
      (s.modLink y lane fun e => { e with sent0 := e.free0, sent1 := e.free1 }).modLink x lane fun e =>
        { e with credit0 := free false, credit1 := free true, seen0 := r.free0, seen1 := r.free1 }

/-- The fold lanes of a paddock's borders are opened or closed as the leases now stand, in both directions; a hurdled neighbour
has nothing to advertise (R141, R145). -/
def State.syncBorders (s : State) (n : Nat) : State :=
  (List.range 12).foldl (fun s i =>
    let x := padEnd n (i / 3)
    let lane := 1 + i % 3
    let s1 := match peerEnd x with
      | some y => s.syncCredits y lane
      | none => s
    if s1.openLane x lane && (match padBeyond n (i / 3) with
      | some m => (s.pad m).hurdled
      | none => false) then s1 else s1.syncCredits x lane) s

/-! Detours (R158–R161, R165). -/

/-- The folds whose flits a lane of an end carries: those whose route tables lead over it, those of another lane whose detour in
use it is, or, at an edge die, those bound through the port (R160, R945). -/
def State.foldsVia (s : State) (x lane : Nat) : List Nat :=
  if x < 5376 then
    let p := s.pad (x / 4)
    (((p.routes.filter fun r => r.2.1 = x % 4 && r.2.2.1 = lane).map fun r => p.foldAt (r.1 / 2048)).filter (· ≠ 0)).eraseDups
  else
    let d := (x - 8192) / 2
    if d < 1560 then
      (((s.ned (d - 1536)).bindings.filter fun b => b.2.state = 1 && b.2.eport = x % 2).map fun b => hdlFold b.2.handle).eraseDups
    else if d < 1580 then ((((s.med (d - 1568)).leases.filter fun e => leState e.2 = 1).map fun e => leFold e.2).filter (· ≠ 0)).eraseDups
    else if d < 1616 then ((s.spd (d - 1600)).flockFold.map (·.1)).eraseDups
    else []

/-- The hop of a lane's first detour link, as an end and a lane. -/
def detourFirst (x : Nat) : Detour → Nat × Nat
  | .shift j => (x, j)
  | .transit => (x, 0)
  | .around (h :: _) => (padEnd (x / 4) (hopDir h), hopLane h)
  | .around [] => (x, 0)

/-- The links of an AROUND detour, in order. -/
def aroundLinks (n : Nat) (hops : List Nat) : List (Nat × Nat) :=
  (hops.foldl (fun (acc : Nat × List (Nat × Nat)) h =>
    ((padBeyond acc.1 (hopDir h)).getD acc.1, acc.2 ++ [(padEnd acc.1 (hopDir h), hopLane h)])) (n, [])).2

/-- The detour in use on a lane. -/
def LinkEnd.detour (l : LinkEnd) : Option Detour := l.inUse.bind fun i => l.detours[i]?

/-- Whether a detour's condition holds for a fold (Table MESH-7). -/
def State.detourHolds (s : State) (x lane fold : Nat) : Detour → Bool
  | .shift j => j ≠ lane && !(s.link x j).lastingDown
  | .transit => !(s.link x 0).lastingDown
  | .around hops =>
    let ls := aroundLinks (x / 4) hops
    ls.all (fun q => !(s.link q.1 q.2).lastingDown) && (ls.drop 1).all fun q => (s.foldsOn (q.1 / 4)).contains fold

/-- The first detour of a lane's list that holds (R160). -/
def State.pickDetour (s : State) (x lane : Nat) : Option Nat :=
  let l := s.link x lane
  (List.range l.detours.length).find? fun i =>
    match l.detours[i]? with
    | some d => s.detourHolds x lane l.owner d
    | none => false

/-- The folds that a lane which goes lasting-down serves: its own, and those of the lanes whose detour in use begins on it or leads
over it. -/
def State.foldsRouted (s : State) (x lane : Nat) : List Nat :=
  let borrowed := (s.links.filter fun e => e.2.lastingDown && decide (e.1 / 4 < 5376) && (match e.2.detour with
    | some (.around hops) => (aroundLinks (e.1 / 16) hops).contains (x, lane)
    | some d => detourFirst (e.1 / 4) d = (x, lane)
    | none => false)).flatMap fun e => s.foldsVia (e.1 / 4) (e.1 % 4)
  (s.foldsVia x lane ++ borrowed).eraseDups

/-- The lane of a die's edge port that takes what a downed fold lane held: lane 1, or the first of 2 and 3 that is up (R945). -/
def State.dieLane (s : State) (x : Nat) : Option Nat := [1, 2, 3].find? fun l => !(s.link x l).lastingDown

/-- Where a flit bound for lane `lane` of end `x` goes now that the lane is lasting-down: an end and a lane that are up, and the flit
as it travels there; none when it must wait (R158–R161, R945, R946). -/
def State.wayFor (s : State) (x lane : Nat) (q : Queued) : Option (Nat × Nat × Queued) :=
  if lane = 0 then
    if x < 5376 then
      match (s.routeDest (x / 4) 0 q.flit).bind fun d => s.lane0Dir (x / 4) d with
      | some d => if d = 4 || (s.link (padEnd (x / 4) d) 0).lastingDown then none else some (padEnd (x / 4) d, 0, q)
      | none => none
    else
      let y := if x % 2 = 0 then x + 1 else x - 1
      if (s.link y 0).lastingDown then none else some (y, 0, q)
  else if 8192 ≤ x then (s.dieLane x).map fun j => (x, j, q)
  else
    match (s.link x lane).detour with
    | none => none
    | some d =>
      let o := detourFirst x d
      match d with
      | .shift _ => some (o.1, o.2, q)
      | .transit => some (o.1, o.2, { q with vc := true })
      | .around hops => some (o.1, o.2, { q with path := hops.drop 1 })

/-- Whether lane 0 has no usable path from a paddock to a destination, neither in the routes in force nor in those that every
event so far gives (R946). -/
def State.noPathTo (s : State) (n dest : Nat) : Bool :=
  ({ s with lane0 := [] }.lane0Dir n dest).isNone && (s.lane0Dir n dest).isNone

/-- Why a flit held at a paddock can never leave it: a route miss (true), or no usable lane 0 path (false); none where it has a way
or waits (R137, R946). -/
def State.lostAt (s : State) (n lane : Nat) (f : Flit) : Option Bool :=
  if s.isHere n f then none
  else
    match s.routeDest n lane f with
    | none => some true
    | some d =>
      if lane = 0 then (if s.noPathTo n d then some false else none)
      else
        match s.routeEntry n f.ctx.toNat d with
        | none => some true
        | some r => if r.2.1 = 0 && s.noPathTo n d then some false else none

/-- Send on what a lasting-down lane still holds, in order, as its detour or the routes of lane 0 now say; what finds no way waits
(R158–R161, R165, R166). -/
def State.reroute (s : State) (x lane : Nat) : State :=
  let l := s.link x lane
  if !l.lastingDown then s
  else
    l.ahead.foldl (fun s q =>
      match s.wayFor x lane q with
      | some (y, j, q') => s.modLink y j fun e => { e with ahead := e.ahead ++ [{ q' with moved := true }] }
      | none =>
        if lane = 0 && decide (x < 5376) && s.lostAt (x / 4) 0 q.flit = some false then s.count .link (linkId x lane) tlStray
        else s.modLink x lane fun e => { e with ahead := e.ahead ++ [q] })
      (s.modLink x lane fun e => { e with ahead := [] })

/-- The fold lanes of paddocks that are lasting-down. -/
def State.downLanes (s : State) : List (Nat × Nat) :=
  (s.links.filter fun e => e.2.lastingDown && e.1 % 4 ≠ 0 && decide (e.1 / 4 < 5376)).map fun e => (e.1 / 4, e.1 % 4)

/-- Take one side of a lane out of use: what its receiver has not accepted waits for its detour (R157, R158). -/
def State.downSide (s : State) (x lane : Nat) (acc : BitVec 5) : State :=
  if (s.link x lane).lastingDown then s else s.modLink x lane fun l => { l.takeDown acc with inUse := none }

/-! Flits that controllers and dies form on their own account (R127, R659). -/

/-- A flit with fold ID 0 and context 0 (R127). -/
def sysFlit (typ : BitVec 4) (wafer dest : Nat) (tag : BitVec 16) (p : Payload) : Flit :=
  ⟨typ, BitVec.ofNat 4 wafer, BitVec.ofNat 11 dest, 0, 0, 0, 0, 0, tag, p⟩

/-- A unit, by destination index, puts a flit of its own on lane 0: a paddock at its LOCAL port, a die at the edge port that lane 0
uses (R138). -/
def State.sendSys (s : State) (u : Nat) (f : Flit) : State :=
  if u < 1344 then s.modPad u fun p => { p with outbox := p.outbox ++ [⟨f, false, false, [], 0⟩] }
  else
    let e := if s.lane0Target u = diePad u 0 then 0 else 1
    s.modLink (dieEnd u e) 0 fun l => { l with ahead := l.ahead ++ [⟨f, false, false, [], 0⟩] }

/-- A unit reports a trigger upward: a REPORT flit for each fold to the active controller, and the report under way until that
controller receives it (R127, R659). -/
def State.reportFrom (s : State) (u : Nat) (tr : Trigger) (folds : List Nat) (place : Nat) : State :=
  let s1 := folds.foldl (fun s f => s.sendSys u (sysFlit ftReport s.me (shcDest (s.active.getD 0)) 0 (Config.reportPayload f place))) s
  s1.report tr folds place

/-- The unit whose border an end is. -/
def endUnit (x : Nat) : Nat := if x < 8192 then x / 4 else (x - 8192) / 2

/-- Give every lasting-down fold lane the first detour of its list that holds, unless the one it uses still does; a lane left
with none, of those in `was` that had one or that went down now, is a lasting link fault of every fold it served (R160, R161,
R165). -/
def State.pickDetours (s : State) (was : List (Nat × Nat × List Nat)) : State :=
  let s1 := s.downLanes.foldl (fun s q =>
    let l := s.link q.1 q.2
    match l.detour with
    | some d => if s.detourHolds q.1 q.2 l.owner d then s else s.modLink q.1 q.2 fun e => { e with inUse := s.pickDetour q.1 q.2 }
    | none => s.modLink q.1 q.2 fun e => { e with inUse := s.pickDetour q.1 q.2 }) s
  was.foldl (fun s w =>
    if (s.link w.1 w.2.1).detour.isNone && (decide (w.1 < 5376) || (s.dieLane w.1).isNone) then s.reportFrom (endUnit w.1) .linkNoDetour w.2.2 w.1 else s) s1

/-- A lasting-down verdict on a lane: both directions leave use, what was unacknowledged moves to the detours, it is counted and
belled (R155, R157–R161, R165). -/
def State.laneDown (s : State) (x lane cause : Nat) : State :=
  if (s.link x lane).lastingDown then s
  else
    let ends := x :: (match peerEnd x with
      | some y => [y]
      | none => [])
    let was := (if lane = 0 then [] else ends.map fun e => (e, lane, s.foldsRouted e lane)) ++
      ((s.links.filter fun e => e.2.lastingDown && e.1 % 4 ≠ 0 && decide (e.1 / 4 < 5376) && e.2.detour.isSome).map fun e =>
        (e.1 / 4, e.1 % 4, s.foldsVia (e.1 / 4) (e.1 % 4)))
    let accs := ends.map fun e => (e, match peerEnd e with
      | some y => (s.link y lane).acc
      | none => 31)
    let s1 := accs.foldl (fun s a => s.downSide a.1 lane a.2) s
    let s2 := if lane = 0 then { s1 with lane0 := s1.lane0 ++ [10000 + x] } else s1
    let s3 := s2.pickDetours was
    let s4 := (ends.map fun e => (e, lane)).foldl (fun s q => s.reroute q.1 q.2) (s3.downLanes.foldl (fun s q => s.reroute q.1 q.2) s3)
    ((s4.count .link (linkId x lane) tlLasting).alert alLane).ring "link" true
      [("at", .num x), ("lane", .num lane), ("cause", .num cause)]

end Sys2Proof.Machine
end

