-- ==== Sys2Proof/Machine/EdgeOps.lean ====
section
/-! DEFINITION. What a NED does with the requests it holds: entering the wafer, composing, starting, finishing, stomping
and refusing replies, admission gates and the pen, doubt of the die (*Network edge dies*, *Admission*, R332–R344). -/
namespace Sys2Proof.Machine

open Sys2Proof

/-- The handle of a port in the tallies: `8·ned + port`. -/
def portId (k port : Nat) : Nat := 8 * k + port

/-- The MRQ of a request under its binding. -/
def Req.mrq (r : Req) : Mrq :=
  match parseFrame r.bytes with
  | some p => mrqAt r.bytes (r.bind.mrqAt p)
  | none => mrqAt r.bytes 0

/-- A session's position fields in a request: p0 and a (Table SEQ-1). -/
def SClass.pos (c : SClass) (bs : List Byte) : Nat × Nat :=
  (be32 bs c.posOff, match c.appOff with
    | some o => be32 bs o
    | none => c.appFix)

/-- The session class record of a request's channel. -/
def State.classOfReq (s : State) (b : Binding) : Option SClass :=
  (s.entryOfHandle b.handle).bind fun p => p.2.cls.bind fun c => p.1.image.bind fun im => im.cls c

/-- The predicted service time of a request in ns, the raise of R672 included (R490). -/
def State.qOf (s : State) (b : Binding) (bs : List Byte) : Nat :=
  match s.entryOfHandle b.handle with
  | none => 0
  | some (f, e) =>
    let base := match e.cls.bind fun c => f.image.bind fun im => im.cls c with
      | some c => c.t0 + ceilDiv (c.t1 * ceilDiv ((c.pos bs).1 + (c.pos bs).2) 32) 1000
      | none => e.q
    base + f.raise e.no

/-- The entry's Q without a raise. -/
def State.qBase (s : State) (b : Binding) (bs : List Byte) : Nat :=
  s.qOf b bs - (match s.entryOfHandle b.handle with
    | some (f, e) => f.raise e.no
    | none => 0)

/-! Sessions. -/

/-- Store a session's length and busy flag, where the request has a session. -/
def State.sessMod (s : State) (r : Req) (f : Session → Session) : State :=
  match r.session with
  | some n => s.setSession n (f (s.session n))
  | none => s

/-! Entering the wafer. -/

/-- The fold lane of an edge port that a NED uses: lane 1, or the first of 2 and 3 that is up (R945). -/
def State.nedLane (s : State) (k e : Nat) : Option Nat := s.dieLane (dieEnd (nedDest k) e)

/-- Queue flits of a NED at its edge port; with no lane up the port is a lasting fault of every fold bound through it (R160,
R945). -/
def State.nedSend (s : State) (k e : Nat) (fs : List Flit) : State :=
  let x := dieEnd (nedDest k) e
  match s.nedLane k e with
  | some l => s.modLink x l fun y => { y with ahead := y.ahead ++ fs.map fun f => ⟨f, false, false, [], 0⟩ }
  | none => s.reportFrom (nedDest k) .linkNoDetour (s.foldsVia x 1) x

/-- A bellwether of a context that leaves, from a paddock or a NED (Table RECFG-4). -/
def bellwetherOf (src wafer k fold : Nat) (c : PCtx) (incEpoch count : Nat) (d : Nat × Nat) : Flit :=
  ⟨ftBellwether, BitVec.ofNat 4 d.2, BitVec.ofNat 11 d.1, 0, BitVec.ofNat 6 fold, BitVec.ofNat 2 k, c.epoch, 0,
   BitVec.ofNat 16 (incEpoch % 8 + 8 * c.incoming.getD 0), payOfWords [BitVec.ofNat 32 (src + 2048 * wafer), BitVec.ofNat 32 count]⟩

/-- Where a NED's bellwethers for a binding go: its destination, and the FAN of its class: paddock, wafer, context (R528). -/
def State.bellDests (s : State) (b : Binding) : List (Nat × Nat × Nat) :=
  ((b.dest, s.me, b.ctx) :: (match s.classOfReq b with
    | some c => c.fan.map fun e => (s.destOf (hdlFold b.handle) e.2.1 e.1, e.2)
    | none => [])).eraseDups

/-- The result sources a fold's entries declare for the bindings of a NED (R533). -/
def State.resultSources (s : State) (k fold : Nat) : List Nat :=
  (((s.ned k).bindings.filter fun b => b.2.state = 1 && hdlFold b.2.handle = fold).filterMap fun b =>
    (s.entryOfHandle b.2.handle).map fun x => x.2.rsrc).eraseDups

/-- Send a NED's bellwether for one binding behind what it has sent on the same port (R528, R539). -/
def State.sendBell (s : State) (k eport fold old incoming count : Nat) (im : Image) (d : Nat × Nat × Nat) : State :=
  let inc := (im.transitions.find? fun e => s.placeOf fold e.pad = d.1 && e.out = d.2.2).map fun e => e.inc
  let c : PCtx := { PCtx.initial with epoch := BitVec.ofNat 3 old, incoming := inc }
  s.nedSend k eport [bellwetherOf (nedDest k) s.me d.2.2 fold c incoming count (d.1, d.2.1)]

/-- Whether a batch of a sectioned fold is on its way round (R539): its requests wait until the last section's bellwethers
have come. -/
def State.batchOpen (s : State) (k fold : Nat) : Bool :=
  (match (s.foldOf fold).bind fun (f : Fold) => f.image with
    | some im => decide (2 ≤ im.sections)
    | none => false) && tabGet 0 (s.ned k).bwNeed fold ≠ 0

/-- A batch of a sectioned fold is one request: the bellwether of section 0 follows it (R539; a batch's length is the model's
choice, log entry 22). -/
def State.closeBatch (s : State) (k : Nat) (b : Binding) (f : Fold) : State :=
  match f.image with
  | none => s
  | some im =>
    if im.sections < 2 || s.batchOpen k f.id then s
    else
      let s1 := (s.bellDests b).foldl (fun s d => s.sendBell k b.eport f.id f.epoch (f.epoch + 1) f.transitions im d) s
      s1.modNed k fun n => { n with bwNeed := tabSet 0 n.bwNeed f.id (s1.resultSources k f.id).length, bwSources := n.bwSources.filter fun x => x.1 ≠ f.id }

/-- The prefix flits of a session request (R335, Table SEQ-3). -/
def State.prefixFlits (s : State) (c : SClass) (fold epoch num p0 a len cap tag : Nat) : List Flit :=
  c.fan.map fun e =>
    ⟨ftDataEnd, BitVec.ofNat 4 e.2.1, BitVec.ofNat 11 (s.destOf fold e.2.1 e.1), 8, BitVec.ofNat 6 fold, BitVec.ofNat 2 e.2.2, BitVec.ofNat 3 epoch, 0,
     BitVec.ofNat 16 tag,
     payOfWords [BitVec.ofNat 32 (num + 16384 * c.cls), BitVec.ofNat 32 p0, BitVec.ofNat 32 a, BitVec.ofNat 32 len,
       BitVec.ofNat 32 cap, BitVec.ofNat 32 tag]⟩

/-- Count for the channel of a request; its binding's own tally counts while the entry is still that channel's (R85, R854). -/
def State.countReq (s : State) (k : Nat) (r : Req) (idx n : Nat) : State :=
  let h := r.bind.handle
  if ((s.ned k).binding r.binding).handle = h then s.countChan k r.binding h.toNat idx n else s.addTally .channel h.toNat idx n

/-- Give a request an in-flight tag: the one it holds in the pen, or a free one (R483). -/
def State.withTag (s : State) (k : Nat) (r : Req) : Option (Req × State) :=
  let n := s.ned k
  (if r.tag ≠ 0 && r.phase = .penned then some r.tag else n.freeTag).map fun tag =>
    let inFlight := (n.reqs.filter fun x => x.tag ≠ 0 && x.fid ≠ r.fid).length + 1
    ({ r with tag := tag }, s.addTally .ned k tnInFlightMax (inFlight - (s.tally ⟨.ned, k, tnInFlightMax⟩).toNat))

/-- Put a request into the wafer under its in-flight tag: a session's prefix first, then its bytes through READLIM (R89, R335,
R343, R945). A NED with no tag free holds it until its next verdict (log entry 95). -/
def State.intoWafer (s : State) (k : Nat) (r : Req) (rerun : Bool) : State :=
  match s.withTag k r, s.foldOf r.fold with
  | some (x, s0), some f =>
    let b := r.bind
    let tag := x.tag
    let r1 := { r.clear with tag := tag, phase := .wafer, epoch := f.epoch, start := s.now, ended := false,
                             runs := if rerun then 2 else r.runs }
    let s2 := s0.modNed k fun n => n.putReq r1
    let s3 := match r.session, s2.classOfReq b with
      | some num, some c =>
        let x := s2.session num
        let p := c.pos r.bytes
        (s2.nedSend k b.eport (s2.prefixFlits c r.fold f.epoch num p.1 p.2 x.len x.cap tag)).setSession num
          { x with busy := true, p0 := p.1, a := p.2, len := min x.len p.1 }
      | _, _ => s2
    (s3.nedSend k b.eport (requestFlits b f.epoch tag r.bytes)).closeBatch k b f
  | _, _ => s.modNed k fun n => n.putReq { r with phase := .held }

/-! Replies. -/

/-- The bytes of a reply before its FCS, as its template, request and fill make them. RR marks the result of a re-run (R99). -/
def Ned.replyOut (n : Ned) (r : Req) (rep : Reply) (fill : Nat) : List Byte :=
  match parseFrame r.bytes with
  | none => []
  | some p =>
    let t := n.template r.template
    let q := r.mrq
    let res := if rep.refusal then [] else slice (r.flits.flatMap fun x => payBytes x.2) 0 t.resLen
    padFrame <| replyBytes t (n.port r.port).mac r.bytes p (mrpBytes rep (r.runs = 2 && !rep.refusal) r.epoch q.handle q.tag) res fill

/-- Header length and result length of a reply. -/
def Ned.replyHr (n : Ned) (r : Req) (rep : Reply) : Nat × Nat :=
  let t := n.template r.template
  let tagged := match parseFrame r.bytes with
    | some p => (replyVid t p).isSome
    | none => false
  let v6 := match parseFrame r.bytes with
    | some p => p.v6
    | none => false
  (headerLen v6 tagged, match rep with
    | .refused _ => 0
    | _ => t.resLen)

/-- Count a reply sent whole (R854), or take that count back: tallies wrap modulo 2^64 (R851). -/
def State.countReply (s : State) (k : Nat) (r : Req) (back : Bool) : State :=
  let by_ (n : Nat) : Nat := if back then 2 ^ 64 - n else n
  let s1 := s.addTally .port (portId k r.port) tpReplies (by_ 1)
  if r.binding ≥ 8192 then s1
  else
    match r.reply with
    | some .result => s1.countReq k r tcResult (by_ 1)
    | some (.deferred w) => (s1.countReq k r tcDeferred (by_ 1)).countReq k r tcWait (by_ w)
    | some (.refused c) => s1.countReq k r (tcRefused c) (by_ 1)
    | none => s1

/-- Let go of a request whose FCS is released: it stays while its frame is being sent and while its message has not ended
(R102, R113). -/
def State.endReq (s : State) (k : Nat) (r : Req) : State :=
  let s1 := s.sessMod r fun x => { x with busy := false }
  s1.modNed k fun n =>
    ({ n.putReq { r with phase := .done, session := none, tag := if r.ended then 0 else r.tag } with
         order := n.order.filter (· ≠ r.fid) }).sweep s1.now

/-- Close an in-flight tag: later results of it are discarded, as strays or not (R93, R112, R550, R661). -/
def State.closeTag (s : State) (k : Nat) (r : Req) (stray : Bool) : State :=
  if r.tag = 0 || r.ended then s else s.modNed k fun n => { n with voidTags := n.voidTags ++ [(r.tag, stray)] }

/-- The zeros sent beyond a reply's bytes while its verdict is late (R47). -/
def Ned.overrun (n : Ned) (r : Req) (now : Time) : Nat := ceilDiv (now - n.fcsDue r) (byteTime (n.speed r.port))

/-- The FCS is released: the frame leaves whole, with the overrun zeros of a late verdict (R25, R47, R105). -/
def State.releaseFcs (s : State) (k : Nat) (r : Req) : State :=
  let n := s.ned k
  let tb := byteTime (n.speed r.port)
  let extra := n.overrun r s.now
  let body := r.out ++ List.replicate extra 0
  let s1 := if extra = 0 then s else s.count .port (portId k r.port) tpOverrun
  let s2 := { s1 with wire := s1.wire ++ [Wire.frame k r.port r.start (body ++ fcsOf body)] }
  let s3 := s2.modNed k fun n => n.setPort r.port { n.port r.port with freeAt := r.start + (8 + body.length + 4 + 12) * tb }
  (s3.countReply k r false).endReq k r

/-- Start a reply with its first bit at `at_`, its fill computed from this start (R103, R104, R107). A verdict already good
releases its FCS. -/
def State.startReply (s : State) (k : Nat) (r : Req) (rep : Reply) (at_ : Time) : State :=
  let n := s.ned k
  let mode := n.speed r.port
  let hr := n.replyHr r rep
  let fill := if (n.template r.template).fill && !rep.refusal then fillLen mode (n.verdictAt r) at_ hr.1 hr.2 else 0
  let r1 := { r with phase := .replying, start := at_, fill := fill, reply := some rep, out := n.replyOut r rep fill }
  let s1 := s.modNed k fun n =>
    ({ n.putReq r1 with order := n.order.filter (· ≠ r.fid) }).setPort r.port
      { n.port r.port with freeAt := at_ + (8 + r1.out.length + 4 + 12) * byteTime mode }
  if r.fcs = some true then s1.releaseFcs k r1 else s1

/-- The moment at which a composed reply may start, its transmitter apart, if it is not before `now` (R103, R104). -/
def Ned.replyDue (n : Ned) (r : Req) (rep : Reply) (now : Time) : Time :=
  let hr := n.replyHr r rep
  let mode := n.speed r.port
  let v := n.verdictAt r
  if (n.template r.template).fill && !rep.refusal then
    let fill := ceilDiv (v - now) (byteTime mode) - 8 - hr.1 - hr.2
    if fill ≤ 9216 - 4 - hr.1 - hr.2 then now else delayedStart mode v now 9212
  else delayedStart mode v now (max 60 (hr.1 + hr.2))

/-- Nothing is being sent on a port, and it may send (R76, R110). -/
def Ned.portFree (n : Ned) (port : Nat) (at_ : Time) : Bool :=
  (n.port port).state = .live && !(n.port port).fault && decide ((n.port port).freeAt ≤ at_)
    && !(n.reqs.any fun x => x.port = port && x.phase = .replying)

/-- The place of a composed reply in its port's order: behind what was composed before it. Of two results composed in one NED
cycle, read as one moment, the lower in-flight tag goes first (R107, R120; log entry 95). -/
def Ned.inOrder (n : Ned) (r : Req) : List Nat :=
  let o := n.order.filter (· ≠ r.fid)
  let after (f : Nat) : Bool := (n.req f).any fun x =>
    x.port = r.port && x.composed = r.composed && !(x.reply.any Reply.refusal) && decide (r.tag < x.tag)
  if r.reply.any Reply.refusal then o ++ [r.fid]
  else o.takeWhile (fun f => !after f) ++ [r.fid] ++ o.dropWhile fun f => !after f

/-- The reply of this moment that has started and gives way to a lower tag: its first bit has not reached the lands (R120). -/
def Ned.givesWay (n : Ned) (r : Req) (now : Time) : Option Req :=
  n.reqs.find? fun x => x.port = r.port && x.phase = .replying && x.composed = now && decide (now < x.start)
    && !(x.reply.any Reply.refusal) && decide (r.tag < x.tag)

/-- Compose a reply: it is kept in composer order, and a filled reply starts an egress pipeline later when its transmitter is
then free (R98, R102–R107, R120, R343). -/
def State.compose (s : State) (k : Nat) (r : Req) (rep : Reply) : State :=
  let s0 := s.sessMod r fun x => if rep.refusal then x else { x with len := x.p0 + x.a }
  let r1 := { r with reply := some rep, phase := .waiting, composed := s.now }
  let at_ := s.now + egress
  let s1 := match (s0.ned k).givesWay r1 s.now with
    | some x =>
      if rep.refusal then s0
      else s0.modNed k fun n =>
        ({ n.putReq { x with phase := .waiting } with order := [x.fid] ++ n.order }).setPort r.port { n.port r.port with freeAt := at_ }
    | none => s0
  let s2 := s1.modNed k fun n => { n.putReq r1 with order := (n.putReq r1).inOrder r1 }
  let n := s2.ned k
  let head := (n.order.find? fun f => (n.req f).any fun x => x.port = r.port) = some r.fid
  if !rep.refusal && (n.template r.template).fill && head && n.portFree r.port at_ && decide (n.replyDue r1 rep at_ ≤ at_) then
    s2.startReply k r1 rep at_
  else s2

/-- Stomp a reply in progress: what has been sent, with the zeros of an overrun, padded to 60 bytes, with its FCS inverted (R47,
R106). A reply whose first bit has not reached the lands is withdrawn and nothing is sent (log entry 95). -/
def State.stomp (s : State) (k : Nat) (r : Req) (whole : Bool) : State :=
  let n := s.ned k
  let tb := byteTime (n.speed r.port)
  let s0 := s.sessMod r fun x => { x with len := min x.len x.p0 }
  if s.now ≤ r.start then s0.modNed k fun n => n.setPort r.port { n.port r.port with freeAt := r.start }
  else
    let extra := if whole then 0 else n.overrun r s.now
    let sent := if whole then r.out
      else (r.out ++ List.replicate extra 0).take (ceilDiv (s.now - r.start) tb - 8)
    let fr := stompFrame sent
    let s1 := { s0 with wire := s0.wire ++ [Wire.frame k r.port r.start fr] }
    let s2 := if extra = 0 then s1 else s1.count .port (portId k r.port) tpOverrun
    (s2.count .port (portId k r.port) tpStomped).modNed k fun n =>
      n.setPort r.port { n.port r.port with freeAt := r.start + (8 + fr.length + 12) * tb }

/-- Take a frame off the wire again: its FCS was released but is not yet due, so it has not been sent (R113). -/
def State.unsend (s : State) (k : Nat) (r : Req) : State :=
  let s1 := { s with wire := s.wire.filter fun w => match w with
    | .frame a p t _ => !(a = k && p = r.port && t = r.start)
    | _ => true }
  s1.countReply k r true

/-- Stomp whatever a request is sending: its FCS held, or released and not yet due (R106, R113). -/
def State.stompSent (s : State) (k : Nat) (r : Req) : State :=
  if r.phase = .replying then s.stomp k r false
  else if (s.ned k).sending r s.now then (s.unsend k r).stomp k r false else s

/-- Refuse a request: a reply in progress is stomped first; a token it holds unspent in the pen is returned; nothing is
sent once its verdict was bad (R44, R104, R106, R116, R489). -/
def State.refuseReq (s : State) (k : Nat) (r : Req) (reason : Nat) : State :=
  let s0 := s.stompSent k r
  let s1 := if r.phase = .penned then (s0.modNed k fun n => n.giveBack r.paid).count .ned k tnRemoved else s0
  let s2 := (s1.closeTag k r true).sessMod r fun x =>
    { x with busy := if r.phase = .wafer || r.phase = .replying || r.phase = .waiting then false else x.busy,
             len := if r.phase = .wafer || r.phase = .replying || r.phase = .waiting then min x.len x.p0 else x.len }
  let ep := match s.foldOf r.fold with
    | some f => f.epoch
    | none => r.epoch
  let r1 := { r.clear with paid := none, epoch := ep, session := none }
  if r.fcs = some false then s2.modNed k fun n => n.dropReq r.fid
  else s2.compose k r1 (.refused reason)

/-- Drop a request without a reply: a bad verdict, or a void admission (R29, R94). -/
def State.dropReq (s : State) (k : Nat) (r : Req) : State :=
  let s1 := if r.phase = .penned then (s.modNed k fun n => n.giveBack r.paid).count .ned k tnRemoved else s
  ((s1.closeTag k r false).sessMod r fun x =>
    if r.phase = .wafer || r.phase = .replying || r.phase = .waiting then { x with busy := false, len := min x.len x.p0 } else x).modNed k
      fun n => n.dropReq r.fid

/-! Admission (Table ADMIT-1). -/

/-- Whether another request of a class of the fold is in the wafer (R334). -/
def State.classBusy (s : State) (fold : Nat) (cls : Option Nat) : Bool :=
  cls.isSome && (s.sessions.any fun p => p.2.fold = fold && some p.2.cls = cls && p.2.busy)

/-- The class of the session of a request. -/
def State.clsOfReq (s : State) (r : Req) : Option Nat := r.session.map fun n => (s.session n).cls

/-- Put a request into the pen, or refuse it (R482, R485, R500). -/
def State.penIn (s : State) (k : Nat) (r : Req) : State :=
  let n := (s.ned k)
  let b := r.bind
  let depth := ((s.foldOf r.fold).map (·.pen)).getD 0
  let occ := (n.penned r.fold).length
  match penCheck occ depth b.deadline (s.qOf b r.bytes) occ (tRel (n.pen r.fold) s.now (n.bucket b.bucket).rate) with
  | some reason => (s.modNed k fun n => n.giveBack r.paid).refuseReq k { r with paid := none } reason
  | none =>
    match s.withTag k r with
    | some (x, s1) => (s1.modNed k fun n => n.putReq { x with phase := .penned }).count .ned k tnEntered
    | none => s.modNed k fun n => n.putReq { r with phase := .held }

/-- A token has been spent: the request enters the wafer, waits for its corrected bytes, or waits prepaid (R91, R482). -/
def State.paidIn (s : State) (k : Nat) (r : Req) (src : TokenSrc) : State :=
  let r1 := { r with paid := some src }
  let b := r.bind
  let late := match s.entryOfHandle b.handle with
    | some (f, e) => f.raise e.no ≠ 0 && b.deadline ≠ 0 && decide (b.deadline < s.qOf b r.bytes)
        && (penCheck 0 1 b.deadline (s.qOf b r.bytes) 0 (tRel ((s.ned k).pen r.fold) s.now ((s.ned k).bucket b.bucket).rate)).isSome
    | none => false
  if late then (s.modNed k fun n => n.giveBack (some src)).refuseReq k r rsDeadline
  else if (s.foldOf r.fold).map (·.st) = some .checkpointing || s.batchOpen k r.fold || s.classBusy r.fold (s.clsOfReq r) then
    s.penIn k { r1 with prepaid := true }
  else if r.early || r.session.isSome || (s.ned k).covers r then
    let s1 := s.intoWafer k r1 false
    if r.early then s1.count .port (portId k r.port) tpEarly else s1
  else s.modNed k fun n => n.putReq { r1 with phase := .held }

/-- Gates 1–4 and 6–10 for a request that has passed its own checks (R476, R484). -/
def State.gateWalk (s : State) (k : Nat) (r : Req) : State :=
  match s.foldOf r.fold with
  | none => s.refuseReq k r rsClosed
  | some f =>
    let n := s.ned k
    let b := r.bind
    let bk := (n.bucket b.bucket).refill s.now
    let s1 := s.modNed k fun n => n.setBucket b.bucket bk
    let gate9 : State := if bk.pen then s1.penIn k r else s1.refuseReq k r rsOverLease
    match f.st with
    | .loading => s.refuseReq k r rsLoading
    | .migrating => s.refuseReq k r rsMigrating
    | .doubt => s.refuseReq k r rsFault
    | .stopped => s.refuseReq k r rsFault
    | .releasing => s.refuseReq k r rsClosed
    | .created => s.refuseReq k r rsClosed
    | _ =>
      if n.penWaits r.fold then gate9
      else if bk.whole then (s1.modNed k fun n => n.setBucket b.bucket bk.spend).paidIn k r (.bucket b.bucket)
      else if bk.burst && 0 < tabGet 0 n.accounts r.fold then
        (s1.modNed k fun n => { n with accounts := tabMod 0 n.accounts r.fold (· - 1) }).paidIn k r (.burst r.fold)
      else gate9

/-- A flit is one that a request has put into the wafer under its in-flight tag. -/
def Req.owns (y : Req) (f : Flit) : Bool := f.fold.toNat = y.fold && f.tag.toNat = y.tag && f.typ ≠ ftBellwether

/-- Nothing of a request has left the die: it waits there, or all the flits it put into the wafer stand in the queue of its edge port. -/
def State.stillHere (s : State) (k : Nat) (y : Req) : Bool :=
  y.phase = .held || y.phase = .penned || y.phase = .wafer && (match s.nedLane k y.bind.eport with
    | some l => decide ((requestFlits y.bind y.epoch y.tag y.bytes).length
        ≤ ((s.link (dieEnd (nedDest k) y.bind.eport) l).ahead.filter fun q => y.owns q.flit).length)
    | none => false)

/-- The request of a higher port that took, in this NED cycle, the token that `r` now claims: the lower port is served first (R496, R498).
One NED cycle is read as one moment; a request of a session, or one that has closed a batch, keeps its token (log entry 95). -/
def State.outranked (s : State) (k : Nat) (r : Req) : Option Req :=
  let n := s.ned k
  let bk := (n.bucket r.bind.bucket).refill s.now
  n.reqs.find? fun y => r.port < y.port && y.stamp = s.now && y.runs = 1 && y.session.isNone && !s.batchOpen k y.fold && s.stillHere k y
    && ((!bk.whole && y.paid = some (.bucket r.bind.bucket))
      || (!bk.whole && bk.burst && tabGet 0 n.accounts r.fold = 0 && y.paid = some (.burst r.fold)))

/-- Take a request back to where it was before it claimed its token, which it gives back. -/
def State.unclaim (s : State) (k : Nat) (y : Req) : State :=
  let s1 := if y.phase ≠ .wafer then s
    else
      let s0 := match s.nedLane k y.bind.eport with
        | some l => s.modLink (dieEnd (nedDest k) y.bind.eport) l fun e => { e with ahead := e.ahead.filter fun q => !y.owns q.flit }
        | none => s
      if y.early then s0.addTally .port (portId k y.port) tpEarly (2 ^ 64 - 1) else s0
  let s2 := if y.phase = .penned then s1.addTally .ned k tnEntered (2 ^ 64 - 1) else s1
  s2.modNed k fun n => (n.giveBack y.paid).putReq { y.clear with phase := .held, paid := none, prepaid := false }

/-- The gates of Table ADMIT-1. A request of a lower port takes the token that one of a higher port took in the same NED cycle, and the
other meets the gates again (R476, R484, R496, R498). -/
def State.gates (s : State) (k : Nat) (r : Req) : State :=
  match s.outranked k r with
  | some y => ((s.unclaim k y).gateWalk k r).gateWalk k { y.clear with phase := .held, paid := none, prepaid := false }
  | none => s.gateWalk k r

/-- Table SEQ-2: the reason a session request is refused for, if any. -/
def State.sessionCheck (s : State) (k : Nat) (b : Binding) (r : Req) : Option Nat :=
  match r.session, s.entryOfHandle b.handle, s.classOfReq b, s.foldOf r.fold with
  | some num, some (_, e), some c, some f =>
    let x := s.session num
    let p := c.pos r.bytes
    if num < f.sbase || f.sbase + f.scount ≤ num || x.st = .free || x.anchor ≠ k then some rsSessionLimit
    else if some x.cls ≠ e.cls then some rsSessionLimit
    else if x.st = .lost then some rsFault
    else if x.len < p.1 || c.amax < p.2 then some rsMalformed
    else if x.cap < p.1 + p.2 || x.st = .closing then some rsSessionLimit
    else if b.deadline ≠ 0 && b.deadline < s.qBase b r.bytes then some rsDeadline
    else none
  | _, _, _, _ => some rsSessionLimit

/-- A session request whose FCS verdict is good is admitted (R332, R475). -/
def State.sessionAdmit (s : State) (k : Nat) (r : Req) : State :=
  match s.sessionCheck k r.bind r with
  | some reason => if s.foldTakes r.fold then s.refuseReq k r reason else s.gates k r
  | none => s.gates k r

/-- Step 4a, R306, then admission; a session request waits for its FCS verdict (R82, R306, R332, R475). -/
def State.letIn (s : State) (k : Nat) (r : Req) : State :=
  let b := r.bind
  let q := r.mrq
  let cls := (s.entryOfHandle b.handle).bind fun p => p.2.cls
  let s1 := if r.counted = r.binding then s else s.countReq k r tcRequests 1
  let r0 := { r with counted := r.binding }
  if q.ses != cls.isSome then s1.refuseReq k r0 rsMalformed
  else if (match parseFrame r.bytes with
      | some p => decide (p.ipEnd ≤ b.readlim)
      | none => true) then s1.refuseReq k r0 rsMalformed
  else
    let r1 := { r0 with session := if q.ses then some q.session else none, early := r.early && b.spec && !q.nsp && !q.ses }
    let s2 := s1.modNed k fun n => n.putReq r1
    if !s2.foldTakes r.fold then s2.gates k r1
    else if !q.ses then s2.gates k r1
    else if r1.fcs = some true then s2.sessionAdmit k r1
    else s2

/-- Classify a held frame and act on the outcome (Table EDGE-2, Table EDGE-5); a PTP event message of the designated port never
comes so far (R121). The request keeps its binding as it stands now (R85). -/
def State.classifyReq (s : State) (k : Nat) (r : Req) : State :=
  let n := s.ned k
  if be16 r.bytes 12 = 0x8808 then (s.dropReq k r).count .port (portId k r.port) tpPause
  else if s.ptpPort = some (k, r.port) && isPtpEvent r.bytes then s.dropReq k r
  else
    match classify n.bindings r.port r.bytes with
    | .unclassified => (s.dropReq k r).count .port (portId k r.port) tpUnclassified
    | .ticket => (s.dropReq k r).count .port (portId k r.port) tpTicket
    | .malformed i =>
      s.refuseReq k { r with binding := 8192, bind := n.binding i, template := (n.port r.port).defTemplate } rsMalformed
    | .closed i =>
      let b := n.binding i
      s.refuseReq k { r with binding := i, bind := b, fold := hdlFold b.handle, template := b.template } rsClosed
    | .bound i =>
      let b := n.binding i
      s.letIn k { r with binding := i, bind := b, fold := hdlFold b.handle, template := b.template }

/-- Treat a corrected frame as a fresh arrival that is not forwarded early; a port that drains admits it no more (R94, R112). -/
def State.afresh (s : State) (k : Nat) (r : Req) : State :=
  let s0 := if r.phase = .penned then s.count .ned k tnRemoved else s
  let s1 := (s0.closeTag k r false).modNed k fun n => n.giveBack r.paid
  let r1 := { r.clear with phase := .held, paid := none, early := false, stale := false, binding := 8192, bind := Binding.unbound,
                           fold := 0, session := none, prepaid := false, runs := 1, stamp := s.now }
  let s2 := s1.modNed k fun n => n.putReq r1
  if ((s.ned k).port r.port).draining then (s2.dropReq k r1).count .port (portId k r.port) tpIdleDropped
  else s2.classifyReq k r1

/-! Verdicts (R78, R88–R97). -/

/-- Run a request once more from corrected bytes; no admission is charged (R93). Doubt of its fold wins: no re-run, and FAULT
(R115). -/
def State.rerun (s : State) (k : Nat) (r : Req) : State :=
  let st := s.stOf r.fold
  if st = some .doubt || st = some .migrating || st = some .stopped then s.refuseReq k r rsFault
  else
    let s1 := (s.count .port (portId k r.port) tpReruns).countReq k r tcReruns 1
    s1.intoWafer k { r with runs := 2, early := false } true

/-- Void a first run: a reply in progress is stomped, the tag is closed, and the request, out of the reply order, is held until
the bytes it read are corrected (R93, R97). -/
def State.holdRun (s : State) (k : Nat) (r : Req) : State :=
  let s1 := s.stompSent k r
  ((s1.closeTag k r false).sessMod r fun x => { x with busy := false, len := min x.len x.p0 }).modNed k fun n =>
    { n.putReq { r.clear with phase := .held, runs := 2, early := false } with order := n.order.filter (· ≠ r.fid) }

/-- A request whose bytes read are corrected, and whose classification stands, goes on (R91, R93, R332). -/
def State.resume (s : State) (k : Nat) (r : Req) : State :=
  let s1 := s.modNed k fun n => n.putReq r
  if r.phase ≠ .held then s1
  else if r.paid.isSome then (if r.runs = 2 then s1.rerun k r else s1.intoWafer k r false)
  else if r.session.isSome && r.fcs = some true then s1.sessionAdmit k { r with stamp := s.now }
  else s1

/-- Go on with a request after a verdict: it waits until the groups of its bytes read are judged; a frame not yet classified is
parsed and classified; a request with a corrected byte is classified again, and starts afresh where its binding is another or
none (R78, R91–R94, R114). -/
def State.proceed (s : State) (k : Nat) (r : Req) : State :=
  let n := s.ned k
  let s1 := s.modNed k fun n => n.putReq r
  if !n.covers r then s1
  else if r.phase = .held && r.binding ≥ 8192 && r.reply.isNone then
    (s.modNed k fun n => n.putReq { r with early := false }).classifyReq k { r with early := false }
  else if !r.stale then s.resume k r
  else
    match classify n.bindings r.port r.bytes with
    | .bound i =>
      if r.binding = i && !(r.reply = some (Reply.refused rsMalformed)) && !(r.reply = some (Reply.refused rsClosed)) then
        s.resume k { r with stale := false, bind := n.binding i }
      else s1.afresh k r
    | .closed i => if r.binding = i && r.reply = some (Reply.refused rsClosed) then s.resume k { r with stale := false } else s1.afresh k r
    | .malformed _ => if r.binding ≥ 8192 then s.resume k { r with stale := false } else s1.afresh k r
    | _ => s1.afresh k r

/-- The bad-FCS judgement of a frame: a reply already started goes out stomped, and one not yet started is never sent. A refusal
under R104 counts as not started until its verdict is good (R29, R42, R80, R106, R116, R119). -/
def State.judgeBad (s : State) (k : Nat) (r : Req) (whole : Bool) : State :=
  let s1 := s.count .port (portId k r.port) tpBadFcs
  let r1 := { r with fcs := some false }
  let s2 := s1.modNed k fun n => n.putReq r1
  let s3 := if r.phase = .replying && !(r.reply.any Reply.refusal) then s2.stomp k r1 whole
    else if r.phase = .replying then s2.modNed k fun n => n.setPort r.port { n.port r.port with freeAt := s.now }
    else s2
  s3.dropReq k r1

/-- A frame whose tail comes before its IP length says, or before 64 bytes (R79, R80). -/
def Req.short (r : Req) : Bool :=
  decide (r.bytes.length < 64) || (match parseFrame r.bytes with
    | some p => decide (r.bytes.length < p.ipEnd + 4)
    | none => false)

/-- The verdict on the next codeword group of a frame (R78, R88, R91–R96, R114, R115). -/
def State.groupVerdict (s : State) (k : Nat) (r : Req) (fixes : List (Nat × Byte)) (uncorrectable : Bool) : State :=
  let r1 := { r with bytes := if uncorrectable then r.bytes else applyFixes r.bytes fixes, judged := r.judged + 1,
                     uncorrectable := r.uncorrectable || uncorrectable }
  if r1.uncorrectable || r.phase = .done then s.modNed k fun n => n.putReq r1
  else if r.phase = .held && r.binding ≥ 8192 && r.reply.isNone then s.proceed k r1
  else
    let hits := fixes.filter fun x => decide (x.1 ≤ r.readTo)
    let s1 := s.addTally .port (portId k r.port) tpCorrUnread (fixes.length - hits.length)
    if hits.isEmpty then s1.proceed k r1
    else if r.ran then
      let s2 := s1.holdRun k { r1 with stale := true }
      match (s2.ned k).req r.fid with
      | some r2 =>
        let st := s.stOf r.fold
        if st = some .doubt || st = some .migrating || st = some .stopped then s2.refuseReq k r2 rsFault else s2.proceed k r2
      | none => s2
    else s1.proceed k { r1 with stale := true }

/-- The FCS verdict: every group of the frame has been judged by then (R25, R29, R47, R96, R106, R116, R332, R333, R501). -/
def State.fcsVerdict (s : State) (k : Nat) (r : Req) (good : Bool) : State :=
  if !good || r.uncorrectable || r.bytes.length > 9216 then s.judgeBad k r false
  else if r.short then (s.count .port (portId k r.port) tpLength).judgeBad k r false
  else
    let r1 := { r with fcs := some true, judged := max r.judged ((s.ned k).groups r) }
    if r.phase = .replying then (s.modNed k fun n => n.putReq r1).releaseFcs k r1
    else if r.phase = .held || r.stale then s.proceed k r1
    else s.modNed k fun n => n.putReq r1

/-- The tail comes early: judged as bad FCS; a reply already started is sent with its fill whole. The FCS verdict that still comes
is not counted again (R79, R80, R119). -/
def State.frameTail (s : State) (k : Nat) (r : Req) : State :=
  let s1 := (s.count .port (portId k r.port) tpLength).judgeBad k r true
  s1.modNed k fun n => { n with gone := n.gone ++ [(r.fid, none)] }

/-- The speculative stream breaks inside a frame: early forwarding stops, and the request goes on from corrected bytes (R97). -/
def State.breakStream (s : State) (k : Nat) (r : Req) : State :=
  if !r.early || (s.ned k).covers r then s
  else if r.ran then s.holdRun k r
  else s.modNed k fun n => n.putReq { r with early := false }

/-- A verdict on a frame the NED holds. -/
def State.verdictOn (s : State) (k : Nat) (r : Req) (v : Verdict) : State :=
  match v with
  | .group fixes bad => if r.fcs.isSome then s else s.groupVerdict k r fixes bad
  | .fcs good => if r.fcs.isSome then s else s.fcsVerdict k r good
  | .tail => if r.fcs.isSome || !r.short then s else s.frameTail k r
  | .broken => s.breakStream k r

/-- A verdict reaches a NED: on a frame it holds; on one it has let go of, where a bad FCS is still counted; or before ADMISSION,
which then takes it (a verdict can come before the MRQ has crossed the edge port, as in the 400G case of *Reply before tail*). -/
def State.hear (s : State) (k fid : Nat) (v : Verdict) : State :=
  let n := s.ned k
  match n.req fid with
  | some r => s.verdictOn k r v
  | none =>
    match n.gone.find? fun g => g.1 = fid with
    | some g =>
      match v with
      | .fcs good =>
        let s1 := s.modNed k fun n => { n with gone := n.gone.filter fun g => g.1 ≠ fid }
        match g.2 with
        | some p => if good then s1 else s1.count .port (portId k p) tpBadFcs
        | none => s1
      | _ => s
    | none => s.modNed k fun n => { n with heard := n.heard ++ [(fid, v)] }

/-- Apply the verdicts that came before a frame's ADMISSION, in their order. -/
def State.hearAll (s : State) (k fid : Nat) : State :=
  let vs := ((s.ned k).heard.filter fun h => h.1 = fid).map (·.2)
  vs.foldl (fun s v => s.hear k fid v) (s.modNed k fun n => { n with heard := n.heard.filter fun h => h.1 ≠ fid })

/-! Doubt of a NED (R113, R559, R679). -/

/-- A session becomes LOST, with its bell; its pen entries are refused with FAULT (Table ADMIT-3). -/
def State.loseSession (s : State) (num : Nat) : State :=
  let x := s.session num
  if x.st ≠ .open then s
  else
    let s1 := (s.setSession num { x with st := .lost }).ring "session" false [("num", .num num), ("cause", .word "lost")]
    ((s1.ned x.anchor).reqs.filter fun r => r.session = some num && r.phase = .penned).foldl
      (fun s r => s.refuseReq x.anchor r rsFault) s1

/-- A NED enters doubt: replies in progress are stomped, nothing is sent for the rest, its ports are IDLE, its bindings and
the sessions anchored on it are lost, and injection passes on. -/
def State.nedEnterDoubt (s : State) (k cause : Nat) : State :=
  if (s.ned k).doubt then s
  else
    let s1 := ((s.ned k).reqs.filter fun r => (s.ned k).sending r s.now).foldl (fun s r => s.stompSent k r) s
    let s2 := s1.modNed k fun n =>
      { n with doubt := true, doubtCause := cause, reqs := [], order := [], heard := [],
               gone := (n.gone.map fun g => (g.1, none)) ++ ((n.reqs.filter fun r => r.fcs.isNone).map fun r => (r.fid, none)),
               pens := tabMap Pen.empty n.pens fun _ p => { p with releases := [] },
               ports := n.ports.mapIdx fun i p => { p with state := if portExists (n.modeOf i) i then .idle else .squelched, draining := false },
               bindings := [], voidTags := [] }
    let s3 := { s2 with channels := s2.channels.map fun (c : Channel) => { c with binds := c.binds.filter fun b => b.1 ≠ k } }
    let nums := (s3.sessions.filter fun (p : Nat × Session) => p.2.anchor = k && p.2.st = .open).map (·.1)
    let s4 := nums.foldl (fun (s : State) num => (s.setSession num { s.session num with busy := false }).loseSession num) s3
    let mine (w : WaitFor) : Bool := match w with
      | .port a _ _ => a = k
      | .lanes a _ _ => a = k
      | .ptp a _ => a = k
      | _ => false
    ((s4.settle mine (.err 404 [("object", .word "ned"), ("state", .word "doubt")])).dieBell "ned" k cause).reinject

end Sys2Proof.Machine
end

