-- ==== Sys2Proof/Machine/DeltaQ.lean ====
section
/-! DEFINITION. The added latency of a path put on a detour: the raise of Q and what it costs requests in the wafer
(R671, R672, R689, R908). -/
namespace Sys2Proof.Machine

open Sys2Proof

/-- What an image declares for a cause: entry and ns. A minor-0 image declares nothing, and every entry is taken as
unbounded (R908). -/
def Image.deltas (im : Image) (kind ord : Nat) (hit : DqEntry → Bool) : List (Nat × Nat) :=
  if im.minor = 0 then im.entries.map fun e => (e.no, 2 ^ 40)
  else (im.dqs.filter fun d => d.kind = kind && d.ord = ord && hit d).map fun d => (d.entry, d.ns)

/-- Raise entries of a fold under a cause's key (R672). -/
def State.raiseQ (s : State) (fold key : Nat) (ds : List (Nat × Nat)) : State :=
  s.modFold fold fun (f : Fold) => { f with raises := f.raises ++ ds.map fun d => (d.1, d.2, key) }

/-- Every request of the raised entries that is in the wafer with no reply started: refused with FAULT when its deadline
can no longer be met, or when the raise is unbounded (R671, R690, R908). -/
def State.judgeRaised (s : State) (fold : Nat) (ds : List (Nat × Nat)) : State :=
  (List.range 24).foldl (fun s k =>
    ((s.ned k).reqs.filter fun r =>
        r.fold = fold && r.phase = .wafer &&
          (let b := r.bind
           match s.entryOfHandle b.handle with
           | some (_, e) => ds.any fun d => d.1 = e.no
               && (decide (2 ^ 40 ≤ d.2) || (b.deadline ≠ 0 && decide (b.deadline < s.qOf b r.bytes)))
           | none => false)).foldl (fun s r => s.refuseReq k r rsFault) s) s

/-- The active controller gives the NEDs the ΔQ of a lane's detour, for every fold routed over it (R671). -/
def State.deltaQ (s : State) (x lane : Nat) : State :=
  match s.active, (s.link x lane).inUse with
  | some _, some i =>
    (s.foldsVia x lane).foldl (fun s id =>
      match (s.foldOf id).bind fun (f : Fold) => f.image with
      | none => s
      | some im =>
        let ds := im.deltas 0 i fun d => s.placeOf id d.pad = x / 4 && d.dir = x % 4 && d.lane = lane
        (s.raiseQ id (linkKey x lane) ds).judgeRaised id ds) s
  | _, _ => s

/-- The raises of a lane end with its restore (R672, R836). -/
def State.endRaise (s : State) (key : Nat) : State :=
  { s with folds := s.folds.map fun (f : Fold) => { f with raises := f.raises.filter fun r => r.2.2 ≠ key } }

/-- A lasting-down verdict with what follows it for the folds routed over every lane that it puts on a detour or on another detour:
the ΔQ of the one in use replaces that of the one before (R161, R671, R672). -/
def State.downLane (s : State) (x lane cause : Nat) : State :=
  let s1 := s.laneDown x lane cause
  s1.downLanes.foldl (fun u q =>
    if (s.link q.1 q.2).inUse = (s1.link q.1 q.2).inUse then u else (u.endRaise (linkKey q.1 q.2)).deltaQ q.1 q.2) s1

end Sys2Proof.Machine
end

