-- ==== Sys2Proof/Machine/Mesh.lean ====
section
/-! DEFINITION. Routers and links: routing, lane 0, arbitration, pacing, beats sent and received, verdicts, and the dock
(*The mesh, flits and links*, R124–R170, R568–R570, R943–R946; R171, R184, R185, R227, R228, R336, R512). -/
namespace Sys2Proof.Machine

open Sys2Proof

/-! Routes (R135–R137). -/

/-- The output of a flit held at paddock `n` on a lane: direction (4 for LOCAL), lane and the flit as it travels on. A flit whose
destination is the paddock itself is LOCAL before anything else is looked at; an entry may name LOCAL for any other (R135,
R136). -/
def State.routeAt (s : State) (n lane : Nat) (q : Queued) : Option (Nat × Nat × Queued) :=
  if s.isHere n q.flit then some (4, lane, q)
  else
    match q.path with
    | h :: hs => some (hopDir h, hopLane h, { q with path := hs })
    | [] =>
      match s.routeDest n lane q.flit with
      | none => none
      | some d =>
        if lane = 0 then (s.lane0Dir n d).map fun dir => (dir, 0, q)
        else
          match s.routeEntry n q.flit.ctx.toNat d with
          | none => none
          | some r =>
            if r.2.1 = 0 then (s.lane0Dir n d).map fun dir => (dir, 0, { q with vc := true })
            else some (r.1, r.2.1, { q with vc := r.2.2 })

/-- Follow the detour in use where the lane is lasting-down (R158–R161). The flag says a detour was taken. -/
def State.outFor (s : State) (n : Nat) (o : Nat × Nat × Queued) : Option (Nat × Nat × Queued × Bool) :=
  if o.1 = 4 then some (4, o.2.1, o.2.2, false)
  else
    let x := padEnd n o.1
    if !(s.link x o.2.1).lastingDown then some (o.1, o.2.1, o.2.2, false)
    else (s.wayFor x o.2.1 o.2.2).map fun w => (w.1 % 4, w.2.1, w.2.2, true)

/-- Whether a flit at paddock `n` on a lane is at the LOCAL port: its destination is the paddock, or a route entry says so. -/
def State.isLocal (s : State) (n lane : Nat) (q : Queued) : Bool :=
  match s.routeAt n lane q with
  | some (d, _, _) => d = 4
  | none => false

/-! Sending (R139, R145, R150, R152, R568). -/

/-- The core clock of a die in units of 25 MHz (Table CLK-2); a controller's 0.5 GHz is 20. -/
def dieN (d : Nat) : Nat := if d < 1568 then 50 else if d < 1600 then 40 else if d < 1632 then 50 else 20

/-- The clock multiplier at an end. -/
def State.endN (s : State) (x : Nat) : Nat := if x < 8192 then (s.pad (x / 4)).n else dieN ((x - 8192) / 2)

/-- Whether the link between an end and its peer is gated: not inside a yoke. -/
def State.gated (s : State) (x y : Nat) : Bool := 8192 ≤ x || 8192 ≤ y || !(s.yokeOf (x / 4)).contains (y / 4)

/-- Where a candidate for an output was found. -/
inductive Source where
  | ahead | input (x lane : Nat) (vc : Bool) | localBox
deriving DecidableEq, Repr

/-- The inputs of a paddock's router that hold a flit for one output lane and VC, by direction N to LOCAL. -/
def State.inputFor (s : State) (n dir lane : Nat) (vc : Bool) (i : Nat) : Option (Source × Queued × Bool) :=
  let fits (l : Nat) (q : Queued) : Option (Queued × Bool) :=
    match (s.routeAt n l q).bind fun o => s.outFor n o with
    | some (d, j, q', b) => if d = dir && j = lane && q'.vc = vc then some (q', b) else none
    | none => none
  if i < 4 then
    (List.range 8).findSome? fun j =>
      let v := decide (j % 2 = 1)
      match ((s.link (padEnd n i) (j / 2)).buf v).head? with
      | some q => (fits (j / 2) q).map fun r => (Source.input (padEnd n i) (j / 2) v, r.1, r.2)
      | none => none
  else
    let p := s.pad n
    ((p.outbox.filter fun q => q.flit.fold = 0 || (!p.masked && !p.maskedCtx.contains q.flit.ctx.toNat)).findSome? fun q =>
      (fits (if q.flit.fold = 0 then 0 else 1) q).map fun r => (Source.localBox, r.1, r.2))

/-- The flit a VC of an output would send next: what the lane has been given to send, else the winner of the inputs. A flit that
a lasting-down lane sends this way never passes those that were moved before it (R139, R158). -/
def State.candidate (s : State) (x lane : Nat) (vc : Bool) : Option (Source × Queued × Bool × Nat) :=
  let l := s.link x lane
  let last := if vc then l.winner1 else l.winner0
  if l.ahead.any fun q => q.vc = vc then (l.nextAhead vc).map fun q => (.ahead, q, false, last)
  else if 8192 ≤ x then none
  else
    match roundRobin 5 last fun i => (s.inputFor (x / 4) (x % 4) lane vc i).isSome with
    | none => none
    | some i =>
      match s.inputFor (x / 4) (x % 4) lane vc i with
      | some r => if r.2.2 && l.ahead.any fun q => q.moved then none else some (r.1, r.2.1, r.2.2, i)
      | none => none

/-- The first link of a flit formed in a paddock: end, lane and VC (R210). -/
def State.firstLink (s : State) (n : Nat) (f : Flit) : Option (Nat × Nat × Bool) :=
  match (s.routeAt n (if f.fold = 0 then 0 else 1) ⟨f, false, false, [], 0⟩).bind fun o => s.outFor n o with
  | some (d, l, q, _) => if d = 4 then none else some (padEnd n d, l, q.vc)
  | none => none

/-- The closed flits in the outlets of a C-paddock. -/
def Coarse.outlets (c : Coarse) : List Flit := (c.vu.flatMap fun u => u.outlet) ++ c.mu.flatMap fun m => m.outlet

/-- The closed flits of a paddock that wait for the dock or at the LOCAL port, each with a credit reserved on its first link as the
routes and detours now stand (R147, R210). -/
def State.closedFlits (s : State) (n : Nat) : List Flit :=
  let p := s.pad n
  (p.fine.flatMap fun e => e.2.outlet) ++ p.coarse.outlets ++
    ((p.outbox.map fun q => q.flit).filter fun f => f.fold ≠ 0 && f.typ ≠ ftBellwether)

/-- The credits of a VC of a lane that closed flits of the paddock have reserved. -/
def State.keptCredits (s : State) (x lane : Nat) (vc : Bool) : Nat :=
  if 8192 ≤ x then 0
  else ((s.closedFlits (x / 4)).filter fun f => s.firstLink (x / 4) f = some (x, lane, vc)).length

/-- The credits that a candidate must leave to others: none where it comes from the paddock itself or was moved to a detour. -/
def State.keptFor (s : State) (x lane : Nat) (vc : Bool) (src : Source) (q : Queued) : Nat :=
  match src with
  | .localBox => if q.flit.typ = ftBellwether then s.keptCredits x lane vc else 0
  | .ahead => 0
  | .input _ _ _ => s.keptCredits x lane vc

/-- Take a candidate from where it waits. -/
def State.takeFrom (s : State) (x lane : Nat) (src : Source) (q : Queued) : State :=
  match src with
  | .ahead => s.modLink x lane fun l => { l with ahead := dropFirst (fun a => decide (a = q)) l.ahead }
  | .input y l v => s.modLink y l fun e => e.popBuf v
  | .localBox => s.modPad (x / 4) fun p => { p with outbox := dropFirst (fun a => decide (a.flit = q.flit)) p.outbox }

/-- Put the next flit of a lane into its replay buffer, if one may go; the VCs take turns. -/
def State.nextFlit (s : State) (x lane : Nat) (ok : Queued → Bool) : Option (Queued × State) :=
  let l := s.link x lane
  [l.vcTurn, !l.vcTurn].findSome? fun vc =>
    match s.candidate x lane vc with
    | some (src, q, detoured, i) =>
      if l.canSend q (s.keptFor x lane vc src q) && ok q then
        let s1 := s.takeFrom x lane src q
        let s2 := s1.modLink x lane fun (e : LinkEnd) =>
          let e2 := (e.spend q.vc).pushReplay q
          { e2 with vcTurn := !vc, winner0 := if vc then e2.winner0 else i, winner1 := if vc then i else e2.winner1 }
        some (q, if detoured then s2.count .link (linkId x lane) tlDetour else s2)
      else none
    | none => none

/-- Whether a lane of an end exists, with something powered behind it (R56). -/
def State.endOn (s : State) (x lane : Nat) : Bool :=
  laneExists x lane && (if x < 5376 then (s.pad (x / 4)).power ≠ .dark && (peerEnd x).isSome && !(s.pad (x / 4)).clockLost
    else decide (8192 ≤ x) && destListed ((x - 8192) / 2) && 1536 ≤ (x - 8192) / 2)

/-- A DARK paddock across the border is clamped: what comes from it is null flits, with no credits (R55, R125, R167). -/
def State.clamped (s : State) (x : Nat) : Bool :=
  match peerEnd x with
  | some y => decide (y < 5376) && (s.pad (y / 4)).power = .dark
  | none => true

/-- Whether the credit counts of a lane are frozen: a hurdle, or two paddocks with no fold in common (R141, R145). -/
def State.frozenEnd (s : State) (x lane : Nat) : Bool :=
  if lane = 0 || 8192 ≤ x then false else (s.pad (x / 4)).hurdled || !s.openLane x lane

/-- Discard the heads of a router's buffers that can never leave it, and such flits at its LOCAL port: a route miss is counted for
the fold and reported, a flit with no lane 0 path is a stray of the link it came by (R137, R946). One that the paddock itself formed
came by no link: it counts as a dock stray (DEDUCED from R130, log entry 91). -/
def State.sweepRouter (s : State) (n : Nat) : State :=
  let miss (s : State) (f : Flit) : State := (s.count .fold f.fold.toNat tfRouteMiss).reportFrom n .routeMiss [f.fold.toNat] n
  let s1 := (List.range 32).foldl (fun s i =>
    let x := padEnd n (i / 8)
    let lane := i / 2 % 4
    let vc := decide (i % 2 = 1)
    match ((s.link x lane).buf vc).head? with
    | none => s
    | some q =>
      if !q.path.isEmpty then s
      else
        match s.lostAt n lane q.flit with
        | none => s
        | some true => miss (s.modLink x lane fun l => l.popBuf vc) q.flit
        | some false => (s.modLink x lane fun l => l.popBuf vc).count .link (linkId x lane) tlStray) s
  (s.pad n).outbox.foldl (fun s q =>
    let gone (s : State) : State := s.modPad n fun p => { p with outbox := dropFirst (fun a => decide (a = q)) p.outbox }
    if !destListed q.flit.dest.toNat then (gone s).count .paddock n tdStray
    else
      match s.lostAt n (if q.flit.fold = 0 then 0 else 1) q.flit with
      | none => s
      | some true => miss (gone s) q.flit
      | some false => (gone s).count .paddock n tdStray) s1

/-- One beat of a lane, each cycle of its sender (R132, R139, R145, R150–R152, R568). -/
def execLinkBeatSend (x : EndIx) (lane : Lane) (t : Time) (s : State) : Host.Outcome State Fault Refusal :=
  .next (s.event t (fun s => s.endOn x lane.val) fun s =>
    let s := if x < 5376 then s.sweepRouter (x / 4) else s
    let lane := lane.val
    let l := s.link x lane
    let y := (peerEnd x).getD 0
    let ns := s.endN x
    let nr := s.endN y
    let acc := l.pace.getD ns
    let still := l.lastingDown || (lane ≠ 0 && x < 8192 && (s.pad (x / 4)).hurdled) || (s.gated x y && decide (acc < ns))
    let frozen := s.frozenEnd x lane
    let finish (s : State) (fs : List Flit) (seq : BitVec 5) : State :=
      let e := s.link x lane
      let b := mkBeat fs (e.trailer seq (fs.length = 2) frozen)
      let a := min (2 * ns) ((if fs.isEmpty then acc else acc - ns) + nr)
      { s.setLink x lane { e.sentCounts frozen with pace := some a } with wire := s.wire ++ [Wire.beat x lane b] }
    if still then finish s [] l.last
    else
      match l.replayNext with
      | some (e, l') => finish (s.setLink x lane l') [e.item.flit] e.lseq
      | none =>
        match s.nextFlit x lane fun _ => true with
        | none => finish s [] l.last
        | some (q, s1) =>
          let seq := (s1.link x lane).last
          if l.compress && compressible q.flit.payload then
            match s1.nextFlit x lane fun q => compressible q.flit.payload with
            | some (q2, s2) => finish (s2.modLink x lane LinkEnd.markPair) [q.flit, q2.flit] seq
            | none => finish s1 [q.flit] seq
          else finish s1 [q.flit] seq)

/-! Receiving. -/

/-- A STANDBY context becomes LIVE: into the plan with its slot counter at 0 and the incoming epoch, which is one above the
outgoing section's in a section swap. The plan keeps its position number: the spec does not say which entry is granted next after one
has joined (DESIGN CHOICE, log entry 90) (R508, R509, R529, R538, R551). -/
def Paddock.goLive (p : Paddock) (k : Nat) : Paddock :=
  let c := p.ctx k
  if c.st = .standby then
    let ep := match p.ctxs.find? fun o => o.run.isSome && o.incoming = some k && (o.st = .live || o.st = .retiring) with
      | some o => o.epoch + 1
      | none => c.epoch
    let p1 := p.setCtx k { c with st := .live, t := 0, slips := 0, epoch := ep }
    if p.excl = 0 then p1 else { p1 with plan := (List.range 4).filter fun j => p.plan.contains j || j = k }
  else p

/-- The context that a flit brings into the plan: its own, or, for a bellwether, the incoming one of its transition (R529). -/
def Paddock.wakes (p : Paddock) (f : Flit) : Nat :=
  if f.typ = ftBellwether then (p.ctx f.ctx.toNat).incoming.getD f.ctx.toNat else f.ctx.toNat

/-- Discard a flit on arrival: its slot is free again. -/
def State.freeSlot (s : State) (x lane : Nat) (vc : Bool) : State := s.modLink x lane fun l => l.freed vc

/-- A flit reaches a paddock's router over a border (R52, R124, R129, R130, R135–R146, R168, R445, R529). -/
def State.arrivePad (s : State) (x lane : Nat) (vc : Bool) (f : Flit) (path : List Nat) : State :=
  let n := x / 4
  let p := s.pad n
  let id := linkId x lane
  let k := f.ctx.toNat
  let fold := f.fold.toNat
  let entry := 4 * (x % 4) + k
  let q : Queued := ⟨f, vc, false, path, 0⟩
  let here := s.isLocal n lane q
  let drop := s.freeSlot x lane vc
  let violation := ((drop.count .link id tlStile).count .fold fold tfStileSent).reportFrom n .stile [fold] n
  if !destListed f.dest.toNat then drop.count .link id tlMalformed
  else if lane ≠ 0 && p.revoked.contains (64 * (x % 4) + fold) then (drop.count .link id tlStray).noteStray fold
  else if lane ≠ 0 && p.loading.contains entry then ((drop.count .fold fold tfStray).count .link id tlStray).noteStray fold
  else if lane ≠ 0 && (tabGet 0 p.stile entry ≠ fold || fold = 0) then violation
  else if lane = 0 && vc && here && p.foldAt k ≠ fold then violation
  else if here && !padAccepts n f then drop.count .link id tlMalformed
  else
    let s1 := if (lane ≠ 0 || here) && fold ≠ 0 then s.modPad n fun p => p.goLive (p.wakes f) else s
    match if path.isEmpty then s1.lostAt n lane f else none with
    | none => s1.modLink x lane fun l => l.setBuf vc (l.buf vc ++ [q])
    | some true => ((s1.freeSlot x lane vc).count .fold fold tfRouteMiss).reportFrom n .routeMiss [fold] n
    | some false => (s1.freeSlot x lane vc).count .link id tlStray

/-- A flit reaches an edge die (R131, R142). What a controller or a die's management block is sent is consumed; a SYS_REQ is answered
with a SYS_RSP to the active controller (Table MESH-3). -/
def State.arriveDie (s : State) (x lane : Nat) (vc : Bool) (f : Flit) : State :=
  let d := (x - 8192) / 2
  let passing := f.wafer.toNat ≠ s.me && 1600 ≤ d && d < 1616
  let drop := s.freeSlot x lane vc
  if !passing && !dieAccepts d f then drop.count .link (linkId x lane) tlMalformed
  else if !passing && f.fold = 0 then
    (if f.typ = ftSysReq && d < 1632 then drop.sendSys d (sysFlit ftSysRsp s.me (shcDest (s.active.getD 0)) f.tag (Config.sysRsp f.payload)) else drop)
  else s.modLink x lane fun l => l.setBuf vc (l.buf vc ++ [⟨f, vc, false, [], s.now⟩])

/-- One accepted flit: the checks every link makes, then its paddock or die. -/
def State.arrive (s : State) (x lane : Nat) (vc : Bool) (f : Flit) (path : List Nat) : State :=
  let s0 := s.count .link (linkId x lane) tlFlits
  if f.reservedType || !laneRuleOk lane vc f then (s0.freeSlot x lane vc).count .link (linkId x lane) tlMalformed
  else if ((s0.link x lane).buf vc).length ≥ 16 then
    ((s0.freeSlot x lane vc).count .link (linkId x lane) tlCredit).downLane x lane 2
  else if x < 8192 then s0.arrivePad x lane vc f path
  else s0.arriveDie x lane vc f

/-- A beat arrives: its CRC, its trailer, its flits in LSEQ order (R134, R143, R152–R158, R162–R164, R944). `vc0` and `vc1`
are the virtual channels of its flits. -/
def execBeatReceived (x : EndIx) (lane : Lane) (vc0 vc1 : Bool) (b : BitVec 616) (t : Time) (s : State) :
    Host.Outcome State Fault Refusal :=
  .next (s.event t (fun s => s.endOn x lane.val && !(s.link x lane.val).lastingDown && !s.clamped x) fun s =>
    let lane := lane.val
    let l := s.link x lane
    let y := (peerEnd x).getD 0
    let peer := s.link y lane
    if !beatGood b then
      let l1 := l.badBeat (peer.resent (l.acc + 1))
      let s1 := s.setLink x lane l1
      if l1.down then s1.downLane x lane 1 else s1
    else
      let tr := beatTrailer b
      let l1 := l.takeTrailer tr
      if tr.down then (s.setLink x lane l1).downLane x lane 1
      else
        let acc := l1.acceptFlits tr (beatFlits b)
        let s1 := (s.setLink x lane acc.1).addTally .link (linkId x lane) tlTransient (acc.2.filter fun p => peer.resent p.2).length
        acc.2.foldl (fun (a : State) p =>
          let vc := if p.2 = tr.lseq then vc0 else vc1
          let path := match peer.replay.find? fun e => e.lseq = p.2 with
            | some e => e.item.path
            | none => []
          a.arrive x lane vc p.1 path) s1)

/-- 24 ic with a flit neither acknowledged nor NAKed: the one replay (R154, R163). -/
def execReplayTimeout (x : EndIx) (lane : Lane) (t : Time) (s : State) : Host.Outcome State Fault Refusal :=
  .next (s.event t (fun s => s.endOn x lane.val && !(s.link x lane.val).lastingDown) fun s =>
    s.modLink x lane.val LinkEnd.startReplay)

/-- 24 ic after a replay without its ACK: the sender sets DOWN (R155, R157). -/
def execReplayDownTimeout (x : EndIx) (lane : Lane) (t : Time) (s : State) : Host.Outcome State Fault Refusal :=
  .next (s.event t (fun s => s.endOn x lane.val && (s.link x lane.val).replay.any fun e => e.replayed) fun s => s.downLane x lane.val 1)

/-- 32 ic without a good beat: the receiver sets DOWN (R155, R157, R167). -/
def execReceiverSilence (x : EndIx) (lane : Lane) (t : Time) (s : State) : Host.Outcome State Fault Refusal :=
  .next (s.event t (fun s => s.endOn x lane.val && !(s.link x lane.val).lastingDown) fun s => s.downLane x lane.val 1)

/-- The next set of lane 0 routes is in place; what waited at a lane 0 that is down goes by them (R946). -/
def execLane0Precompile (t : Time) (s : State) : Host.Outcome State Fault Refusal :=
  .next (s.event t (fun s => s.active.isSome) fun s =>
    let s1 := { s with lane0 := [] }
    (s1.links.filter fun e => e.2.lastingDown && e.1 % 4 = 0).foldl (fun s e => s.reroute (e.1 / 4) 0) s1)

/-! The dock. -/

/-- Whether an inlet that holds `n` flits of context `k`, `all` in total, takes one more of it (R185, R228, R534). -/
def inletPlace (p : Paddock) (k n all : Nat) : Bool :=
  if p.excl = 0 then n = 0
  else
    let held := p.plan.any fun j => (p.ctx j).handover && (p.ctx j).incoming = some k
    decide (all < 4) && (!held || decide (n < 2))

/-- A stray at a paddock: discarded, counted for the flit's fold and reported (R512, R513). -/
def State.strayAt (s : State) (f : Flit) : State := (s.count .fold f.fold.toNat tfStray).noteStray f.fold.toNat

/-- Forget a tile's MEM_REQ once its last return or status is in the inlet (R514). -/
def Paddock.setCtxMem (p : Paddock) (k : Nat) (done : Nat × Nat × Nat → Bool) : Paddock :=
  p.setCtx k { p.ctx k with mem := dropFirst done (p.ctx k).mem }

/-- A MEM_RET status that is a doubt trigger at the unit that requested it (R375, Table FAULT-1): the unit's paddock masks
and hurdles itself for the fold. -/
def State.memStatus (s : State) (n : Nat) (f : Flit) : State :=
  let code := bitsOf (payWord f.payload 0) 0 4
  let fold := f.fold.toNat
  if f.typ ≠ ftMemRet || f.seq ≠ 255 || code = 0 || code = 2 then s
  else (s.modPad n fun p => p.maskFolds [fold]).reportFrom n (if code = 3 then .medUncorrectable else .unmapped) [fold] n

/-- What the dock does with a flit at the LOCAL port: none while it must wait there. -/
def State.dockIn (s : State) (n : Nat) (f : Flit) : Option State :=
  let p := s.pad n
  let k := f.ctx.toNat
  let c := p.ctx k
  let e := f.endpt.toNat
  if f.typ = ftSysReq then some (s.sendSys n (sysFlit ftSysRsp s.me (shcDest (s.active.getD 0)) f.tag (Config.sysRsp f.payload)))
  else if f.typ = ftBellwether then none
  else if (c.st ≠ .live && c.st ≠ .retiring) || c.epoch ≠ f.epoch then some (s.strayAt f)
  else
    let item : InFlit := ⟨f.payload, k, f.tag, f.seq.toNat, 0, p.ic + 1⟩
    let used (l : List InFlit) : Nat := (l.filter fun (i : InFlit) => i.ctx = k).length
    if isFine n then
      let tile := tabGet Tile.initial p.fine e
      if inletPlace p k (used tile.inlet) tile.inlet.length then
        let done (m : Nat × Nat × Nat) : Bool :=
          f.typ = ftMemRet && m.1 = e && m.2.1 = f.tag.toNat && (f.seq = 255 || f.seq.toNat + 1 = m.2.2)
        some ((s.setPad n (({ p with fine := tabSet Tile.initial p.fine e { tile with inlet := tile.inlet ++ [item] } } : Paddock).setCtxMem k done)).memStatus n f)
      else none
    else if e = 8 then
      if p.hurdled then none
      else
        let w (i : Nat) : Nat := (payWord f.payload i).toNat
        let r : SessReg := ⟨w 0 % 16384, w 0 / 16384 % 64, w 1, w 2, w 3, w 4, BitVec.ofNat 16 (w 5)⟩
        some (s.setPad n { p with coarse := { p.coarse with sess := assocSet p.coarse.sess k r } })
    else if f.typ = ftMemRet && 4 ≤ e then some (s.setPad n { p with returns := p.returns ++ [f] })
    else if e < 4 then
      let v := p.coarse.v e
      if inletPlace p k (used v.inlet) v.inlet.length then
        some (s.setPad n { p with coarse := p.coarse.setV e { v with inlet := v.inlet ++ [item] } })
      else none
    else
      let m := p.coarse.m (e - 4)
      if inletPlace p k (used m.inlet) m.inlet.length then
        some (s.setPad n { p with coarse := p.coarse.setM (e - 4) { m with inlet := m.inlet ++ [item] } })
      else none

/-- The heads of the router's buffers that are at the LOCAL port, by border, lane and VC. -/
def State.localHeads (s : State) (n : Nat) : List (Nat × Nat × Bool × Flit) :=
  (List.range 32).filterMap fun i =>
    let x := padEnd n (i / 8)
    let lane := i / 2 % 4
    let vc := decide (i % 2 = 1)
    match ((s.link x lane).buf vc).head? with
    | some q => if s.isLocal n lane q then some (x, lane, vc, q.flit) else none
    | none => none

/-- What waits at the LOCAL port to enter the dock: a buffer's head, or a flit that the paddock addresses to itself. -/
inductive DockHead where
  | buf (x lane : Nat) (vc : Bool) (f : Flit)
  | own (q : Queued)
deriving DecidableEq, Repr

def DockHead.flit : DockHead → Flit
  | .buf _ _ _ f => f
  | .own q => q.flit

/-- Take a flit that has entered the dock from where it waited. -/
def State.dockTake (s : State) (n : Nat) : DockHead → State
  | .buf x lane vc _ => s.modLink x lane fun l => l.popBuf vc
  | .own q => s.modPad n fun p => { p with outbox := dropFirst (fun a => decide (a = q)) p.outbox }

/-- The way through the dock that an endpoint's flits share, and how many flits pass it in one ic each way: in an F-paddock one
flit for each band of 8 tile rows, in a C-paddock four flits in all (Table FINE-1, R227). -/
def dockBand (fine : Bool) (e : Nat) : Nat := if fine then e / 256 else 0
def dockLimit (fine : Bool) : Nat := if fine then 1 else 4

/-- Let flits at the LOCAL port into the endpoints, within the limit of each way; `used` lists the ways of those let in. A flit that
must wait stays where it is and lets the others pass (R171, R185, R227). The order among the inputs, N to W by lane and VC and then
the paddock's own, is the model's (DESIGN CHOICE, log entry 90). -/
def State.dockFill (s : State) (n : Nat) (used : List Nat) : List DockHead → State
  | [] => s
  | h :: hs =>
    let b := dockBand (isFine n) h.flit.endpt.toNat
    if dockLimit (isFine n) ≤ (used.filter fun u => u = b).length then s.dockFill n used hs
    else
      match s.dockIn n h.flit with
      | none => s.dockFill n used hs
      | some s1 => (s1.dockTake n h).dockFill n (b :: used) hs

/-- A flit that a paddock addresses to itself and does not accept is discarded at the dock and counts as a dock stray (R130). -/
def State.dockRefuse (s : State) (n : Nat) : State :=
  (s.pad n).outbox.foldl (fun s q =>
    if s.isHere n q.flit && !padAccepts n q.flit then (s.dockTake n (.own q)).count .paddock n tdStray else s) s

/-- The first of some endpoints from `start` on, the lowest where there is none. -/
def nextFrom (start : Nat) (es : List Nat) : Option Nat := (es.find? fun e => start ≤ e).orElse fun _ => es.head?

/-- The endpoints of a C-paddock whose outlets hold a flit. -/
def Coarse.outletEnds (c : Coarse) : List Nat :=
  (List.range 8).filter fun e => if e < 4 then !(c.v e).outlet.isEmpty else !(c.m (e - 4)).outlet.isEmpty

/-- Take the head of an endpoint's outlet of a C-paddock. -/
def Coarse.popOutlet (c : Coarse) (e : Nat) : Option (Flit × Coarse) :=
  if e < 4 then
    match (c.v e).outlet with
    | f :: fs => some (f, c.setV e { c.v e with outlet := fs })
    | [] => none
  else
    match (c.m (e - 4)).outlet with
    | f :: fs => some (f, c.setM (e - 4) { c.m (e - 4) with outlet := fs })
    | [] => none

/-- Move flits of a C-paddock's outlets to the LOCAL port, one at each turn of the round robin over the endpoints, whose place is
kept from ic to ic (R227). -/
def Paddock.drainCoarse (p : Paddock) : Nat → Paddock
  | 0 => p
  | i + 1 =>
    match nextFrom (tabGet 0 p.dockPos 0) p.coarse.outletEnds with
    | none => p
    | some e =>
      match p.coarse.popOutlet e with
      | none => p
      | some (f, c) =>
        let q : Queued := ⟨f, false, false, [], 0⟩
        ({ p with coarse := c, outbox := p.outbox ++ [q], dockPos := tabSet 0 p.dockPos 0 (e + 1) } : Paddock).drainCoarse i

/-- Move one flit of an F-paddock's band of tile rows to the LOCAL port. Table FINE-1 names no order among the tiles of a band: they
take turns, as the endpoints of R227 do (DESIGN CHOICE, log entry 90). -/
def Paddock.drainBand (p : Paddock) (b : Nat) : Paddock :=
  match nextFrom (tabGet 0 p.dockPos b) ((p.fine.filter fun e => e.1 / 256 = b && !e.2.outlet.isEmpty).map (·.1)) with
  | none => p
  | some e =>
    let t := tabGet Tile.initial p.fine e
    match t.outlet with
    | [] => p
    | f :: fs =>
      { p with fine := tabSet Tile.initial p.fine e { t with outlet := fs }, outbox := p.outbox ++ [⟨f, false, false, [], 0⟩],
               dockPos := tabSet 0 p.dockPos b (e + 1) }

/-- Move flits from the outlets to the LOCAL port (R171, R227). -/
def Paddock.dockDrain (fine : Bool) (p : Paddock) : Paddock :=
  if fine then (List.range 4).foldl Paddock.drainBand p else p.drainCoarse 4

/-- One ic of a paddock's dock, in both directions (R171, R182–R185, R220, R227, R228, R336, R354, R445, R512). -/
def execDockTransfer (n : Pad) (t : Time) (s : State) : Host.Outcome State Fault Refusal :=
  .next (s.event t (fun s => (s.pad n.val).power = .run && !(s.pad n.val).clockLost) fun s =>
    let n := n.val
    let s0 := s.dockRefuse n
    let own := ((s0.pad n).outbox.filter fun q => s0.isLocal n 1 q).map DockHead.own
    let s1 := s0.dockFill n [] ((s0.localHeads n).map (fun h => DockHead.buf h.1 h.2.1 h.2.2.1 h.2.2.2) ++ own)
    if (s1.pad n).masked then s1 else s1.modPad n (Paddock.dockDrain (isFine n)))

end Sys2Proof.Machine
end

