-- ==== Sys2Proof/Machine/Memory.lean ====
section
/-! DEFINITION. The commands of the memory edge dies (*Memory edge dies and HBM3*, R356–R394). -/
namespace Sys2Proof.Machine

open Sys2Proof

/-- Send returns of a MED from the ports and lanes their requests came by (R382). -/
def State.medSend (s : State) (k : Nat) (out : List (MedPort × Flit)) : State :=
  out.foldl (fun s p => s.modLink (dieEnd (medDest k) p.1.e) p.1.lane fun l =>
    { l with ahead := l.ahead ++ [⟨p.2, p.1.vc, false, [], 0⟩] }) s

/-- The status code of a status flit; none for data. -/
def retStatus (f : Flit) : Option Nat := if f.seq = 255 then some (bitsOf (payWord f.payload 0) 0 4) else none

/-- The sessions whose window has a page on a MED. -/
def State.sessionsOn (s : State) (k : Nat) (page : Nat → Bool) : List Nat :=
  (s.sessions.filter fun x => x.2.pages.any fun g => g.1 = k && page g.2).map (·.1)

/-- A MED enters doubt: every fold with a page on it is in doubt, its sessions are LOST, injection passes on (R386). -/
def State.medEnterDoubt (s : State) (k cause : Nat) : State :=
  if (s.med k).doubt then s
  else
    let folds := (((s.med k).leases.filter fun e => leState e.2 = 1).map fun e => leFold e.2).eraseDups
    let s1 := s.modMed k fun m => { m with doubt := true }
    let s2 := (s.sessionsOn k fun _ => true).foldl (fun s n => s.loseSession n) s1
    ((s2.report .med folds (medDest k)).dieBell "med" k cause).reinject

/-- Count the answers that report an unmapped or a revoked page. -/
def State.countRets (s : State) (k : Nat) (rs : List (MedPort × Flit)) : State :=
  rs.foldl (fun s r => match retStatus r.2 with
    | some 1 => s.count .med k tmUnmapped
    | some 2 => s.count .med k tmRevoked
    | _ => s) s

/-- The heads of a MED's receive buffers, with the port, lane and VC each waits at. -/
def State.medHeads (s : State) (k : Nat) : List (MedPort × Queued) :=
  (List.range 16).filterMap fun i =>
    let p : MedPort := ⟨i / 8, i / 2 % 4, i % 2 = 1⟩
    ((s.link (dieEnd (medDest k) p.e) p.lane).buf p.vc).head?.map fun q => (p, q)

/-- The flit that reached the MED first, of two in one MED cycle the one on edge port 0 (R362, R391). -/
def State.medFirst (s : State) (k : Nat) : Option (MedPort × Queued) :=
  (s.medHeads k).foldl (fun best x => match best with
    | none => some x
    | some y => if x.2.came < y.2.came then some x else some y) none

/-- Take the head flit of one buffer; none where the request or the write queue is full and withholds its credit (R361). -/
def State.medTake (s : State) (k : Nat) (p : MedPort) (f : Flit) : Option State :=
  ((s.med k).take k p f).map fun o =>
    let s1 := s.modLink (dieEnd (medDest k) p.e) p.lane fun l => l.popBuf p.vc
    let s2 := ((s1.setMed k o.m).medSend k o.send).countRets k o.send
    if o.violation then (s2.count .med k tmStile).report .stile [f.fold.toNat] (medDest k) else s2

/-- Take flits in the order in which they reached the MED, up to and with the head of buffer `p`. -/
def State.medServe (k : Nat) (p : MedPort) : Nat → State → State
  | 0, s => s
  | n + 1, s =>
    match s.medFirst k with
    | none => s
    | some x =>
      match s.medTake k x.1 x.2.flit with
      | none => s
      | some s1 => if x.1 = p then s1 else State.medServe k p n s1

/-- A flit of a MEM_REQ message is taken from an edge port, after every flit that reached the MED before it (R360–R368, R391). The
buffers hold at most 256 flits. -/
def execMemReqReceived (k : MedIx) (e : Fin 2) (lane : Lane) (vc : Bool) (t : Time) (s : State) : Host.Outcome State Fault Refusal :=
  .next (s.event t (fun s => !(s.med k.val).doubt && !(s.med k.val).selfRefresh
      && !((s.link (dieEnd (medDest k.val) e.val) lane.val).buf vc).isEmpty) fun s =>
    State.medServe k.val ⟨e.val, lane.val, vc⟩ 256 s)

/-- Stack data returns: delivered, read once more for an uncorrectable error, or retried for a parity error, whose second failure is a
lasting stack interface fault (R371, R374, R376, R379, R382, R386). -/
def execHbmBurstRead (k : MedIx) (i : Nat) (sev : EccSev) (t : Time) (s : State) : Host.Outcome State Fault Refusal :=
  .next (s.event t (fun s => !(s.med k.val).doubt && !(s.med k.val).selfRefresh && decide (i < (s.med k.val).queue.length)) fun s =>
    let o := (s.med k.val).burst k.val i sev s.now
    let s1 := ((s.setMed k.val o.m).medSend k.val o.send).addTally .med k.val tmCorrected o.corrected
    let s2 := s1.addTally .med k.val tmParity o.parity
    if o.lasting then s2.medEnterDoubt k.val 1 else s2)

/-- The re-read is judged: transient, or the page is retired and the request answered UNCORRECTABLE (R368, R374, R375, R388,
R394, R473). -/
def execHbmRereadVerdict (k : MedIx) (good : Bool) (t : Time) (s : State) : Host.Outcome State Fault Refusal :=
  .next (s.event t (fun s => !(s.med k.val).doubt && ((s.med k.val).queue.any (fun r => r.reread) || (s.med k.val).abandoned.any fun p => p.2 = s.now)) fun s =>
    let k := k.val
    let o := (s.med k).rereadVerdict k good s.now
    let s1 := ((s.setMed k o.m).medSend k o.send).addTally .med k tmReread o.transient
    match o.retire with
    | none => s1
    | some (g, e) =>
      let s2 := (s1.count .med k tmRetired).ring "med" true [("die", .num k), ("cause", .word "retired")]
      let s3 : State := if s2.frozen then s2
        else { s2.modFlash (fun f => { f with retired := f.retired ++ [(k, g)] }) with writing := some (.med k g, s2.now) }
      if leSpace e then (s3.sessionsOn k fun x => x = g).foldl (fun s n => s.loseSession n) s3 else s3)

/-- The stack temperature, every millisecond: refresh, half activates, and the trip at 105 °C (R377, R378, R390). `read.lost`
counts the cycles that the limit on activates has cost since the last reading, in the row that limits them. -/
def execStackTempRead (k : MedIx) (read : StackRead) (t : Time) (s : State) : Host.Outcome State Fault Refusal :=
  .next (s.event t (fun _ => true) fun s =>
    let k := k.val
    let m := s.med k
    let row := tempRowOf read.temp
    let s1 := (s.setMed k { m with temp := some read.temp, tempRow := row }).addTally .med k tmThrottle (if m.tempRow = 2 then read.lost else 0)
    let s2 := if row = m.tempRow then s1
      else s1.ring "med" false [("die", .num k), ("state", .num row), ("temp", .num read.temp)]
    if row = 3 && !m.selfRefresh then
      (s2.modMed k fun m => { m.flush with selfRefresh := true, partials := [] }).medEnterDoubt k 3
    else s2)

/-- A SCRUB page is zeroed and set FREE (R369, R393); a release counts it (R863). -/
def execPageScrub (k : MedIx) (page : Fin 12288) (t : Time) (s : State) : Host.Outcome State Fault Refusal :=
  .next (s.event t (fun s => leState ((s.med k.val).lease page.val) = 2) fun s =>
    let s1 := (s.modMed k.val fun m => m.scrub page.val).count .med k.val tmScrubbed
    { s1 with scrubs := s1.scrubs.map fun (x : Scrub) =>
        if x.pages.contains (k.val, page.val) then
          { x with scrubbed := x.scrubbed + 1, pages := x.pages.filter fun p => p ≠ (k.val, page.val) }
        else x })

/-- The next rotation slot (R379–R381, R392). -/
def execRotationSlot (k : MedIx) (t : Time) (s : State) : Host.Outcome State Fault Refusal :=
  .next (s.event t (fun s => (s.med k.val).rotOn) fun s => s.modMed k.val fun m => m.nextSlot s.now)

/-- A MED enters doubt (R328, R351, R386). -/
def execMedDoubt (k : MedIx) (cause : Nat) (t : Time) (s : State) : Host.Outcome State Fault Refusal :=
  .next (s.event t (fun s => !(s.med k.val).doubt) fun s => s.medEnterDoubt k.val cause)

end Sys2Proof.Machine
end

