-- ==== Sys2Proof/Machine/SpanLinks.lean ====
section
/-! DEFINITION. The commands of the Span dies, flock and their console: blocks sent and received, training, relays, doubt
and exclusion (*Span links and flocks*, R395–R435; Tables CMD-8, CMD-9). -/
namespace Sys2Proof.Machine

open Sys2Proof

/-! Which SPD carries what (R413, R422, R424, R430). -/

/-- The members of the stored mask. -/
def State.inMask (s : State) (w : Nat) : Bool := s.place.members.getLsbD w

/-- Whether SPD `i` is wired to a member (R413, R415): the spare only when wafer XOR 1 is one. -/
def State.spdNamed (s : State) (i : Nat) : Bool := (spdPeer s.me i).1 ≠ s.me && s.inMask (spdPeer s.me i).1

/-- Whether an SPD's link is in service. -/
def State.spanUp (s : State) (i : Nat) : Bool := (s.spd i).state = .up && !(s.spd i).doubt

/-- What a member said of its links. -/
def State.memberLinks (s : State) (c w : Nat) : Bool :=
  match s.flockInfo.find? fun m => m.wafer.val = c with
  | some m => m.links.getLsbD w
  | none => false

/-- The relay path to a wafer whose link is down: the spare, or the lowest eligible relay wafer (R422). -/
def State.relayFor (s : State) (b : Nat) : Option (Option Nat) :=
  if b = s.me ^^^ 1 && s.spanUp 15 then some none
  else ((List.range 16).find? fun c =>
    c ≠ s.me && c ≠ b && s.flockMembers.contains c && s.spanUp (spdFor s.me c) && s.memberLinks c b).map some

/-- The SPD that carries flits for a wafer now; none when there is no path. -/
def State.carrier (s : State) (b : Nat) : Option Nat :=
  if s.spanUp (spdFor s.me b) then some (spdFor s.me b)
  else
    match s.relayFor b with
    | some none => some 15
    | some (some c) => some (spdFor s.me c)
    | none => none

/-- Queue a flit for its wafer: on its own VC over the direct link, on VC 3 over a relay, or where it waits when there is
no path (R422–R424). -/
def State.sendSpan (s : State) (f : SFlit) : State :=
  let b := f.flit.wafer.toNat
  let i := spdFor s.me b
  let put (s : State) (j : Nat) (g : SFlit) : State := s.modSpd j fun d => { d with sendQ := d.sendQ ++ [g] }
  match s.carrier b with
  | some j => if j = i then put s j f else (put s j { f with vc := 3 }).count .spd i tsRelay
  | none => put s i f

/-- The folds whose entry holds both this wafer and another (R420). -/
def State.foldsSpanning (s : State) (w : Nat) : List Nat :=
  ((List.range 16).flatMap fun i => ((s.spd i).flockFold.filter fun p => p.2.getLsbD w && p.2.getLsbD s.me).map (·.1)).eraseDups

/-- A lasting-down verdict on a Span link: out of use both ways, counted, belled, its flits on the relay. Every member it leaves without
a path is a lasting fault of the folds that span it (R408–R410, R422, R424, R428, R430). -/
def State.spanLinkDown (s : State) (i cause : Nat) : State :=
  let d := s.spd i
  if d.state ≠ .up then s
  else
    let waiting := d.replay.flatMap (fun e => e.slots) ++ d.sendQ
    let had := s.flockMembers.filter fun w => w ≠ s.me && (s.carrier w).isSome
    let s1 := s.setSpd i { d with state := .down, cause := cause, replay := [], cursor := none, sendQ := [], downOut := true }
    let s2 := (s1.count .spd i tsLasting).ring "span" true
      [("spd", .num i), ("peer", .num d.peerWafer), ("state", .word "down"), ("cause", .num cause)]
    let s3 := waiting.foldl (fun s f => s.sendSpan f) s2
    (had.filter fun w => (s3.carrier w).isNone).foldl (fun s w => s.report .linkNoDetour (s.foldsSpanning w) (spdDest i)) s3

/-! Revocation (R427). -/

/-- The SPDs revoke a fold's Span credits: what is queued is discarded, what is held gives its slots back. -/
def State.revokeSpan (s : State) (fold : Nat) (reconf : Bool) : State :=
  (List.range 16).foldl (fun s i =>
    let d := s.spd i
    if tabGet 0 d.flockFold fold = 0 || d.revoked.any fun r => r.1 = fold then s
    else
      let mine (f : SFlit) : Bool := f.flit.fold.toNat = fold
      let part (m : SMsg) : Bool := m.flits.any fun f => f.fold.toNat = fold
      let lost := (d.sendQ.filter mine).length + ((d.partials.filter part).map fun m => m.flits.length).sum
      let freed := (d.partials.filter part).foldl (fun (d : Spd) m => (List.range m.held).foldl (fun d _ => d.freeSlot m.vc) d) d
      let s1 := (s.setSpd i { freed with
        revoked := freed.revoked ++ [(fold, reconf)]
        sendQ := freed.sendQ.filter fun f => !mine f
        partials := freed.partials.map fun m => if part m then { m with held := 0, dead := true } else m }).addTally .spd i tsStray lost
      if lost = 0 then s1 else s1.noteStray fold) s

/-- A commit gives the fold its Span credits back. -/
def State.unrevokeSpan (s : State) (fold : Nat) : State :=
  { s with spds := s.spds.map fun (d : Spd) => { d with revoked := d.revoked.filter fun r => r.1 ≠ fold } }

/-! Sending (R398–R407, R421). -/

/-- Whether an SPD has revoked a fold. -/
def Spd.hasRevoked (d : Spd) (fold : Nat) : Bool := d.revoked.any fun r => r.1 = fold

/-- The heads of the edge-port buffers of all SPDs that SPD `j` carries: SPD, end, lane, VC, flit. -/
def State.spanHeads (s : State) (j : Nat) : List (Nat × Nat × Nat × Bool × Flit) :=
  (List.range 256).filterMap fun q =>
    let i := q / 16
    let x := dieEnd (spdDest i) (q / 8 % 2)
    let lane := q / 2 % 4
    let vc := decide (q % 2 = 1)
    if (s.spd i).doubt then none
    else
      match ((s.link x lane).buf vc).head? with
      | some h => if h.flit.wafer.toNat ≠ s.me && s.carrier h.flit.wafer.toNat = some j then some (i, x, lane, vc, h.flit) else none
      | none => none

/-- Take one flit from an edge port: discarded by R403, R404, R421 or R427, or given its pair sequence and queued. -/
def State.takeSpan (s : State) (h : Nat × Nat × Nat × Bool × Flit) : State :=
  let i := h.1
  let f := h.2.2.2.2
  let fold := f.fold.toNat
  let s1 := s.modLink h.2.1 h.2.2.1 fun l => l.popBuf h.2.2.2.1
  let d := s1.spd i
  if !spanCrosses f then s1.count .spd i tsMalformed
  else if fold ≠ 0 && d.hasRevoked fold then (s1.count .spd i tsStray).noteStray fold
  else if fold ≠ 0 && !d.foldSpans fold f.wafer.toNat then
    ((s1.count .spd i tsStile).count .fold fold tfStileSent).report .stile [fold] (spdDest i)
  else
    let r := d.pairSeq s.me f (spanVc f h.2.2.2.1)
    (s1.setSpd i r.1).sendSpan r.2

/-- Pull flits from the edge ports while SPD `j` has credit for them; the others stay behind their mesh credits (R402). -/
def State.pullSpan (j : Nat) : Nat → State → State
  | 0, s => s
  | n + 1, s =>
    let d := s.spd j
    let room (h : Nat × Nat × Nat × Bool × Flit) : Bool :=
      let f := h.2.2.2.2
      let v := if j = spdFor s.me f.wafer.toNat then spanVc f h.2.2.2.1 else 3
      !spanCrosses f || decide ((d.sendQ.filter fun q => q.vc = v).length < d.credits.getD v 0)
    match (s.spanHeads j).find? room with
    | none => s
    | some h => State.pullSpan j n (s.takeSpan h)

/-- One block period of an SPD: an alignment block every 4,096th, a DATA block while the link is up, a TRAIN block while it
trains or refuses, one DOWN block after its verdict (R396, R398–R407, R416–R418). -/
def execSpanBlockSend (i : SpdIx) (t : Time) (s : State) : Host.Outcome State Fault Refusal :=
  .next (s.event t (fun s => !(s.spd i.val).doubt) fun s =>
    let i := i.val
    let d := s.spd i
    let out (s : State) (b : BlockBits) : State :=
      { s.modSpd i (fun d => { d with scr := (scramble d.scr b).1 }) with wire := s.wire ++ [Wire.block i b] }
    match d.state with
    | .up =>
      if d.periods % 4096 = 4095 then s.setSpd i { d with periods := d.periods + 1 }
      else
        let s1 := State.pullSpan i 4 s
        let r := (s1.spd i).sendBlock s.me i
        out (s1.setSpd i r.1) r.2
    | .training =>
      if d.periods % 4096 = 4095 then s.setSpd i { d with periods := d.periods + 1 }
      else
        let tr := if d.train.tstate = 4 then { d.train with sentReady := d.train.sentReady + 1 } else d.train
        out (s.setSpd i { d with periods := d.periods + 1, train := tr })
          (d.trainBlock s.me i s.place.flockId.toNat s.fuses.serial.toNat (s.now / 10))
    | .refused => out s (d.trainBlock s.me i s.place.flockId.toNat s.fuses.serial.toNat (s.now / 10))
    | .down => if d.downOut then out (s.setSpd i { d with downOut := false }) (mkBlock 0 [] 0 d.lastB d.acc d.nak true d.freed s.me i) else s
    | .squelched => s)

/-! Receiving (R399, R405, R406, R408, R421–R423, R429, R431). -/

/-- Free slots of a VC. -/
def Spd.freeN (d : Spd) (vc : Nat) : Nat → Spd
  | 0 => d
  | n + 1 => (d.freeSlot vc).freeN vc n

/-- The edge port and fold lane by which an SPD enters its wafer (log entry 21). -/
def State.spdEnd (s : State) (i : Nat) (sys : Bool) : Nat × Nat :=
  let e := if s.lane0Target (spdDest i) = diePad (spdDest i) 0 then 0 else 1
  let x := dieEnd (spdDest i) e
  (x, if sys then 0 else (([1, 2, 3].find? fun l => !(s.link x l).lastingDown).getD 1))

/-- A complete message whose turn has come: released into the wafer, or discarded (R405, R421, R427). -/
def State.releaseMsg (s : State) (i : Nat) (m : SMsg) : State :=
  let fold := (m.flits.head?.map fun f => f.fold.toNat).getD 0
  let d := s.spd i
  let s1 := s.setSpd i (d.freeN m.vc m.held)
  if m.dead || (fold ≠ 0 && d.hasRevoked fold) then s1
  else if fold ≠ 0 && !(d.foldSpans fold m.srcw && d.foldSpans fold s.me) then
    ((s1.addTally .spd i tsStile m.flits.length).addTally .fold fold tfStileSent m.flits.length).report .stile [fold] (spdDest i)
  else
    let p := s1.spdEnd i (fold = 0)
    let q := (List.range 256).filterMap fun j => m.flits.find? fun f => f.seq.toNat = j
    s1.modLink p.1 p.2 fun l => { l with ahead := l.ahead ++ q.map fun f => ⟨f, m.vc = 2, false, [], 0⟩ }

/-- One flit of an accepted block (R401, R405, R422, R423, R427). -/
def State.spanArrive (s : State) (i : Nat) (f : SFlit) : State :=
  let d := s.spd i
  let relay := f.vc = 3
  let free (s : State) : State := s.modSpd i fun d => d.freeSlot f.vc
  if !relay && spanBuf.getD f.vc 0 ≤ d.heldOn f.vc then (s.count .spd i tsCredit).spanLinkDown i 2
  else if f.flit.wafer.toNat ≠ s.me then
    if relay then ((free s).sendSpan f).count .spd i tsRelay else (free s).count .spd i tsMalformed
  else
    let j := if relay then s.spdSub (spdFor s.me f.srcw) else i
    let s1 := if relay then (free s).count .spd i tsRelay else s
    let fold := f.flit.fold.toNat
    let dj := s1.spd j
    let gone := fold ≠ 0 && dj.hasRevoked fold
    let s2 := if gone then ((if relay then s1 else free s1).count .spd j tsStray).noteStray f.flit.fold.toNat else s1
    let dj := s2.spd j
    let r := dj.addPartial (if relay then { f with vc := dj.relayClass f } else f) (if relay || gone then 0 else 1) gone
    if r.2 then (if relay || gone then s2 else free s2).count .spd j tsDuplicate
    else
      let u := Spd.release 1024 r.1
      u.2.foldl (fun s m => s.releaseMsg j m) (s2.setSpd j u.1)

/-- A block arrives: `decoded` when the RS decoder could correct it, `symbols` how many it corrected, `replay` when it is the
one replay of a block (R399, R401, R405–R410, R421–R423). -/
def execSpanBlockReceived (i : SpdIx) (decoded replay : Bool) (symbols : Nat) (b : BitVec 2570) (t : Time) (s : State) :
    Host.Outcome State Fault Refusal :=
  .next (s.event t (fun s => s.spanUp i.val) fun s =>
    let i := i.val
    let d := s.spd i
    let s0 := s.addTally .spd i tsCorrected symbols
    if !d.blockOk decoded b || bkType b ≠ 0 then
      if replay then s0.spanLinkDown i 1 else s0.setSpd i { d with nak := true }
    else
      let d1 := d.takeTrailer b
      if bkDown b then (s0.setSpd i d1).spanLinkDown i 1
      else
        let fs := bkFlits b
        if fs.isEmpty || bkBseq b ≠ d1.acc + 1 then s0.setSpd i d1
        else
          let s1 := s0.setSpd i { d1 with acc := bkBseq b, nak := false }
          let s2 := if replay then s1.count .spd i tsTransient else s1
          fs.foldl (fun s f => s.spanArrive i f) s2)

/-- 500 ns with neither ACK nor NAK: the one replay (R407). -/
def execSpanReplayTimeout (i : SpdIx) (t : Time) (s : State) : Host.Outcome State Fault Refusal :=
  .next (s.event t (fun s => s.spanUp i.val) fun s => s.modSpd i.val Spd.startReplay)

/-- 500 ns after a replay with no ACK: the sender sets DOWN (R408, R410, R422, R428). -/
def execSpanDownTimeout (i : SpdIx) (t : Time) (s : State) : Host.Outcome State Fault Refusal :=
  .next (s.event t (fun s => s.spanUp i.val && (s.spd i.val).replay.any fun e => e.replayed) fun s => s.spanLinkDown i.val 1)

/-- 1.0 µs with no good block: the receiver sets DOWN (R408, R410, R422). -/
def execSpanRxSilence (i : SpdIx) (t : Time) (s : State) : Host.Outcome State Fault Refusal :=
  .next (s.event t (fun s => s.spanUp i.val) fun s => s.spanLinkDown i.val 1)

/-! Training (R397, R412, R415–R418). -/

/-- A side refuses: it sends TSTATE 5 with its cause (R416, R418). -/
def State.spanRefuse (s : State) (i cause : Nat) : State :=
  (s.modSpd i fun d => { d with state := .refused, cause := cause, train := { d.train with tstate := 5, cause := cause } }).ring
    "span" false [("spd", .num i), ("peer", .num (spdPeer s.me i).1), ("state", .word "refused"), ("cause", .num cause)]

/-- Start the training of an SPD's link, when R413 names a member on it. -/
def State.trainSpan (s : State) (i : Nat) : State :=
  if s.spdNamed i && !(s.spd i).doubt then
    s.modSpd i fun d => { d with state := .training, cause := 0, train := .initial, periods := 0 }
  else s

/-- A TRAIN block arrives with the lanes our receiver has locked (R397, R412, R416–R418). -/
def execTrainBlockReceived (i : SpdIx) (locked : BitVec 16) (b : BitVec 2570) (t : Time) (s : State) : Host.Outcome State Fault Refusal :=
  .next (s.event t (fun s => (s.spd i.val).state = .training && !(s.spd i.val).doubt) fun s =>
    let i := i.val
    let d := s.spd i
    if !d.blockOk true b || bkType b ≠ 1 || trMagic b ≠ 0x5450 then s.setSpd i { d with train := { d.train with lock := locked } }
    else if trWafer b = s.me then s.spanRefuse i 3
    else if trFlock b ≠ s.place.flockId.toNat then s.spanRefuse i 1
    else if trWafer b ≠ (spdPeer s.me i).1 then s.spanRefuse i 2
    else if trState b = 5 then s.spanRefuse i (trCause b)
    else
      let tr := d.train.take locked b (s.now / 10)
      let s1 := s.setSpd i { d with train := tr, peerWafer := trWafer b, peerSpd := trSpd b, delay := tr.meanDelay,
                                    width := (commonWidth locked (trLock b)).getD 0 }
      if tr.tstate = 3 then s1.spanRefuse i 4
      else if 3 ≤ tr.sentReady && 3 ≤ tr.gotReady && tr.tstate = 4 then
        (s1.modSpd i Spd.goUp).ring "span" false [("spd", .num i), ("peer", .num (trWafer b)), ("state", .word "up")]
      else s1)

/-- 100 ms without UP or refusal: refused, with cause 5 when no lane half is locked on both sides (R397, R416, R418). -/
def execTrainingTimeout (i : SpdIx) (t : Time) (s : State) : Host.Outcome State Fault Refusal :=
  .next (s.event t (fun s => (s.spd i.val).state = .training) fun s =>
    let tr := (s.spd i.val).train
    s.spanRefuse i.val (if (commonWidth tr.lock tr.peerLock).isNone then 5 else 0))

/-- After 1 ms of REFUSE the SPD is SQUELCHED (R418). -/
def execTrainRefuseExpiry (i : SpdIx) (t : Time) (s : State) : Host.Outcome State Fault Refusal :=
  .next (s.event t (fun s => (s.spd i.val).state = .refused) fun s => s.modSpd i.val fun d => { d with state := .squelched })

/-! The flock (R419–R421, R425, R426, R435). -/

/-- What this package tells the others. -/
def State.ownInfo (s : State) : MemberInfo :=
  { wafer := Fin.ofNat 16 s.me, flock := s.place.flockId, mask := s.place.members,
    links := BitVec.ofNat 16 ((List.range 16).foldl (fun a w => if w ≠ s.me && s.spanUp (spdFor s.me w) then a + 2 ^ w else a) 0),
    spare := s.spanUp 15 }

/-- Whether one member reaches another, directly or through one relay. -/
def reaches (ms : List MemberInfo) (a b : MemberInfo) : Bool :=
  a.wafer = b.wafer || a.links.getLsbD b.wafer.val || (a.spare && b.wafer.val = a.wafer.val ^^^ 1)
    || ms.any fun c => a.links.getLsbD c.wafer.val && c.links.getLsbD b.wafer.val

/-- The members kept, by ascending wafer: each that reaches and is reached by those kept before it. -/
def keepMembers (ms : List MemberInfo) : List MemberInfo :=
  (List.range 16).foldl (fun (acc : List MemberInfo) w =>
    match ms.find? fun m => m.wafer.val = w with
    | some m => if acc.all fun a => reaches ms a m && reaches ms m a then acc ++ [m] else acc
    | none => acc) []

/-- The leader: the lowest wafer ID (R419, R435). -/
def State.leader (s : State) : Nat := s.flockMembers.foldl min s.me

/-- A member leaves the flock (R426, R427): every fold that spans it is in doubt, its link stays refused, and a command forwarded to
it is answered E-603 (R825). -/
def State.excludeMember (s : State) (w : Nat) : State :=
  let folds := s.foldsSpanning w
  let i := spdFor s.me w
  let s1 := { s with flockMembers := s.flockMembers.filter (· ≠ w), excludedW := (s.excludedW.filter (· ≠ w)) ++ [w] }
  let s2 := s1.modSpd i fun d => if d.state = .up || d.state = .down then { d with state := .refused, replay := [], cursor := none, sendQ := [] } else d
  let s3 := (s2.ring "span" true [("spd", .num i), ("peer", .num w), ("state", .word "excluded")]).settle
    (fun x => x = .member w) (.err 603 [("wafer", .num w)])
  (folds.foldl (fun s f => s.revokeSpan f false) s3).report .member folds (spdDest i)

/-- A member is unreachable or out of service (R426). -/
def execMemberExcluded (w : Fin 16) (t : Time) (s : State) : Host.Outcome State Fault Refusal :=
  .next (s.event t (fun s => s.flockMembers.contains w.val && w.val ≠ s.me) fun s => s.excludeMember w.val)

/-- An SPD enters doubt: its substitute stands, requests in flight of every spanning fold are refused with FAULT, and those
folds are reported for a restart (R70, R425, R643). -/
def State.spdEnterDoubt (s : State) (i cause : Nat) : State :=
  if (s.spd i).doubt then s
  else
    let folds := ((s.spd i).flockFold.filter fun p => p.2 ≠ 0).map (·.1)
    let s1 := s.modSpd i fun d => { d with doubt := true, doubtCause := cause, replay := [], cursor := none, sendQ := [], partials := [] }
    let s2 := (List.range 24).foldl (fun s k =>
      ((s.ned k).reqs.filter fun r => folds.contains r.fold && (r.tag ≠ 0 && (r.phase = .wafer || r.phase = .waiting) || (s.ned k).sending r s.now)).foldl
        (fun s r => s.refuseReq k r rsFault) s) s1
    ((s2.report .spd folds (spdDest i)).dieBell "spd" i cause).reinject

def execSpdDoubt (i : SpdIx) (cause : Nat) (t : Time) (s : State) : Host.Outcome State Fault Refusal :=
  .next (s.event t (fun s => !(s.spd i.val).doubt) fun s => s.spdEnterDoubt i.val cause)

/-! Console. -/

/-- The word of a link state; a training link is not in service. -/
def spanWord : SpanState → String
  | .up => "up"
  | .down => "down"
  | .training => "down"
  | .refused => "refused"
  | .squelched => "squelched"

/-- The relay in use toward a wafer, for a reply. -/
def State.relayVal (s : State) (b : Nat) : Val :=
  if s.spanUp (spdFor s.me b) then .none
  else
    match s.relayFor b with
    | some none => .word "spare"
    | some (some c) => .num c
    | none => .none

def execShowSpan (spd : Nat) (ln : Ln) (s : State) : Host.Outcome State Fault Refusal :=
  .next (s.judged ln .view true fun s =>
    if spd ≥ 16 then s.err ln 401 [("object", .word "spd")]
    else
      let d := s.spd spd
      s.ok ln [("state", .word (spanWord d.state)), ("peer", .num (spdPeer s.me spd).1), ("lanes", .num (if d.width = 0 then 16 else 8)),
        ("delay_ns", .num (d.delay / 10)), ("retries", .num (s.tally ⟨.spd, spd, tsTransient⟩).toNat),
        ("relay", s.relayVal (spdPeer s.me spd).1)])

/-- Retrain a downed Span link: accepted, the bell follows (R410, R416). -/
def execRetrainSpan (spd : Nat) (ln : Ln) (s : State) : Host.Outcome State Fault Refusal :=
  .next (s.judged ln .admin false fun s =>
    if spd ≥ 16 || !s.spdNamed spd then s.err ln 401 [("object", .word "spd")]
    else if (s.spd spd).state = .up then s.err ln 404 [("object", .word "spd"), ("state", .word "up")]
    else if (s.spd spd).doubt then s.err ln 404 [("object", .word "spd"), ("state", .word "doubt")]
    else (s.trainSpan spd).ok ln [("state", .word "training")])

/-- `show flock`: each member's own links as it told them, and the relay of each link that is down, `spare` or the wafer it goes by (R422). -/
def execShowFlock (ln : Ln) (s : State) : Host.Outcome State Fault Refusal :=
  .next (s.judged ln .view true fun s =>
    let ms := (List.range 16).filter fun w => w = s.me || s.flockMembers.contains w
    let info (w : Nat) : MemberInfo :=
      if w = s.me then s.ownInfo else (s.flockInfo.find? fun m => m.wafer.val = w).getD s.ownInfo
    let up (w : Nat) : Nat := (ms.filter fun v => v ≠ w && (info w).links.getLsbD v).length
    let relay (w v : Nat) : String :=
      if v = w ^^^ 1 && (info w).spare then ":spare"
      else match ms.find? fun c => c ≠ w && c ≠ v && (info w).links.getLsbD c && (info c).links.getLsbD v with
        | some c => ":via" ++ toString c
        | none => ":none"
    let member (w : Nat) : KVs :=
      [("wafer", .num w), ("links", .word (toString (up w) ++ "/" ++ toString (ms.length - 1))), ("spare", .word (if (info w).spare then "up" else "down"))]
        ++ (ms.filter fun v => v ≠ w && !(info w).links.getLsbD v).map fun v => ("relay", .word (toString v ++ relay w v))
    s.parts ln ([("flock", Val.hex s.place.flockId.toNat), ("members", Val.nums ms), ("leader", Val.num s.leader), ("self", Val.num s.me)]
      :: ms.map member) [])

/-- Stored for the next reset (R415). -/
def execSetFlock (id : BitVec 32) (wafer : Nat) (members : List Nat) (ln : Ln) (s : State) : Host.Outcome State Fault Refusal :=
  .next (s.judged ln .operate false fun s =>
    s.inRange ln "wafer" wafer 0 15 fun s =>
      if !members.contains wafer || members.any fun m => 15 < m then s.err ln 402 [("key", .word "members"), ("min", .num 0), ("max", .num 15)]
      else if !s.flashTakes ln then s.flashErr ln "flock"
      else
        let mask := BitVec.ofNat 16 ((List.range 16).foldl (fun a w => if members.contains w then a + 2 ^ w else a) 0)
        ({ s with flash := { s.flash with place := ⟨id, wafer, mask⟩ } }).ok ln [("id", .hex id.toNat), ("wafer", .num wafer), ("members", .nums members)])

end Sys2Proof.Machine
end

