-- ==== Sys2Proof/Machine/Power.lean ====
section
/-! DEFINITION. Reset and power: RESET_N, PWR_FAIL_N, the buses, field rails, waves, fuses, field stages, PMBus, and the
power commands (*Power delivery*, R590–R630; R697–R701; Table CMD-4). -/
namespace Sys2Proof.Machine

open Sys2Proof

/-! HOLEs (R62, R70). -/

/-- An edge die both of whose attached paddocks are HOLEs can no longer reach the wafer: it enters doubt as a failed die of its kind
(R70, R386, R425, R679; the controllers' own triggers are those of R682). -/
def State.dieCutOff (s : State) (d : Nat) : State :=
  if (s.entry (diePad d 0).1).st = 2 && (s.entry (diePad d 1).1).st = 2 then
    (if d < 1560 then s.nedEnterDoubt (d - 1536) 6
     else if d < 1580 then s.medEnterDoubt (d - 1568) 6
     else if d < 1616 then s.spdEnterDoubt (d - 1600) 6
     else s)
  else s

/-- A paddock becomes a HOLE, and a die that loses its second edge port by it is in doubt (R62, R70). -/
def State.makeHole (s : State) (n cause : Nat) (quiet : Bool) : State :=
  ((List.range 4).filterMap fun d => (attachedDie n d).map fun a => a.1).foldl (fun s d => s.dieCutOff d) (s.markHole n cause quiet)

/-- A paddock fails its test: a HOLE with cause 1, left DARK (R714, R716, R723). -/
def State.failTest (s : State) (n : Nat) : State :=
  let s1 := (s.goDark n).makeHole n 1 false
  ({ s1 with boot := { s1.boot with verdicts := tabSet 0 s1.boot.verdicts n 2 }, wave := s1.wave.filter fun w => w.1 ≠ n }).endB4

/-! Reset and the boot mode. -/

/-- The reset state, whatever the engine was doing; a map write in progress is lost (R71, R699, R700, R726). PWR_FAIL_N is a pin of its
own, and a flash frozen by it stays frozen (R597). -/
def State.enterReset (s : State) : State :=
  { State.inReset s.now s.freeCtr true s.fuses s.cutFlash.flash s.incCtr s.wire s.pending with pwrFail := s.pwrFail, frozen := s.frozen }

/-- Assertion of RESET_N (R699, R700, R726, R774). -/
def execResetAssert (t : Time) (s : State) : Host.Outcome State Fault Refusal := .next (s.tick t).enterReset

/-- Why a boot runs FULL although FAST is stored (R701), the first that holds. -/
def State.bootCause (s : State) : BootCause :=
  if [s.flash.mapA, s.flash.mapB].any fun m => (m.map (·.good)) = some false then .tag
  else if (match s.newestMap with
      | some m => m.serial ≠ s.fuses.serial.toNat || m.stepping ≠ 2
      | none => false) then .mismatch
  else if s.validMap.isNone then .noMap
  else if !s.flash.clear.isEmpty then .clear
  else if !s.flash.reached then .prior
  else .none

/-- The next ledger sequence: one above the highest in the ring (R861). -/
def ringMax (r : Tab (List Byte)) : Nat := r.foldl (fun a p => max a (leNat (slice p.2 8 8))) 0

/-- Out of reset: B1 begins, JTAG_EN is sampled, the boot mode is taken, and the fault bells of the previous boot are put into
the log (R698, R701, R763, R858). -/
def State.leaveReset (s : State) (jtagEn : Bool) : State :=
  let cause := s.bootCause
  let s1 := s.modFlash fun f => { f with reached := false, faults := f.faults.map fun b => { b with prior := true } }
  { s1 with
    resetN := false
    ledgerSeq := ringMax s.flash.ring + 1
    bells := (s.flash.faults.filter fun b => !b.prior).map fun b => { b with prior := true }
    con0 := { s.con0 with baud := s.flash.con0.1, flow := s.flash.con0.2 }
    con1 := { s.con1 with baud := s.flash.con1.1, flow := s.flash.con1.2 }
    boot := { Boot.initial with
      phase := .b1, released := s.now, jtag := jtagEn
      full := s.flash.bootFull || cause ≠ .none
      cause := if s.flash.bootFull then .none else cause } }

/-- Release of RESET_N. -/
def execResetRelease (jtagEn : Bool) (t : Time) (s : State) : Host.Outcome State Fault Refusal :=
  .next (if (s.tick t).resetN then (s.tick t).leaveReset jtagEn else s.tick t)

/-! PWR_FAIL_N. -/

/-- One microsecond after the assertion: FAULT_N, a bell, READY falls (R597, R722, R727). In reset only the pin changes. -/
def execPwrFailAssert (t : Time) (s : State) : Host.Outcome State Fault Refusal :=
  let s0 := s.tick t
  .next (if s0.running then
      ({ s0 with pwrFail := true, pwrFailAt := some s0.now, faultN := true, ready := false }).ring "bus" true
        [("state", .word "power-fail")]
    else { s0 with pwrFail := true })

/-- Ten microseconds after the assertion no new flash write starts (R597, R869). -/
def execPwrFailFlashFreeze (t : Time) (s : State) : Host.Outcome State Fault Refusal :=
  .next (s.event t (fun s => s.pwrFail) fun s => { s with frozen := true })

/-- PWR_FAIL_N deasserts before the rails fall (R598): only the pin changes, and with it the freeze it stands for. -/
def execPwrFailDeassert (t : Time) (s : State) : Host.Outcome State Fault Refusal :=
  let s0 := s.tick t
  .next (if s0.pwrFail then { s0 with pwrFail := false, pwrFailAt := none, frozen := false } else s0)

/-- The rails fall: every state is lost, the VSTBY latch with it, and a flash copy still being written fails its check
(R71, R597, R864). -/
def execRailsFall (t : Time) (s : State) : Host.Outcome State Fault Refusal :=
  let s0 := s.tick t
  if s0.pwrFail then
    .next (State.inReset s0.now s0.freeCtr false s0.fuses s0.cutFlash.flash s0.incCtr s0.wire s0.pending)
  else .next s0

/-! The buses (R595). -/

def runUp (hit : Bool) (n : Nat) : Nat := if hit then min 4 (n + 1) else 0

/-- One sample of both sense lands by one controller (R595). -/
def execBusSample (shc : ShcIx) (mvA mvB : Nat) (t : Time) (s : State) : Host.Outcome State Fault Refusal :=
  .next (s.event t (fun _ => true) fun s =>
    let i := shc.val
    let c := s.shc i
    let out (mv : Nat) : Bool := mv < 48000 || 60000 < mv
    let c' := { c with lowA := runUp (mvA < 45000) c.lowA, lowB := runUp (mvB < 45000) c.lowB,
                       rngA := runUp (out mvA) c.rngA, rngB := runUp (out mvB) c.rngB }
    let flips := [(c.lowA, c'.lowA), (c.rngA, c'.rngA), (c.lowB, c'.lowB), (c.rngB, c'.rngB)].map fun p =>
      decide (p.1 ≥ 4) != decide (p.2 ≥ 4)
    let n := (flips.filter id).length
    let s1 := (s.setShc i c').addTally .shc i thBus n
    let s2 := if s1.active = some i then
        { s1 with busA := ⟨mvA, decide (c'.lowA ≥ 4), decide (c'.rngA ≥ 4)⟩, busB := ⟨mvB, decide (c'.lowB ≥ 4), decide (c'.rngB ≥ 4)⟩ }
      else s1
    if n = 0 then s2
    else
      let s3 := if c'.lowA ≥ 4 || c'.lowB ≥ 4 || c'.rngA ≥ 4 || c'.rngB ≥ 4 then s2.alert alBus else s2
      if s3.active = some i then
        (List.range n).foldl (fun s _ => s.ring "bus" true
          [("bus", .word (if flips.getD 0 false || flips.getD 1 false then "a" else "b")),
           ("state", .word (if c'.lowA ≥ 4 || c'.lowB ≥ 4 then "low" else if c'.rngA ≥ 4 || c'.rngB ≥ 4 then "range" else "ok"))]) s3
      else s3)

/-! Field rails, waves and stages. -/

/-- The tally object of a field controller. -/
def fieldTally (f : Nat) : Nat := 4096 + f

/-- The PMBus address of a field stage (Table PWR-7). -/
def fieldAddr (f : Nat) : Nat := 0x10 + f

/-- VOUT_COMMAND for a setting (Table PWR-8): millivolts × 4,096 / 1,000, to the nearest integer. -/
def voutCode (mv : Nat) : Nat := (mv * 4096 + 500) / 1000

/-- `set power` is answered once every paddock it named has left DARK, or one of them no longer will (R605, R828). -/
def State.powerEnds (s : State) : State :=
  let due := s.waits.filterMap fun w => match w.why with
    | .power ps => some ps
    | _ => none
  due.foldl (fun s ps =>
    if ps.all fun n => (s.pad n).power ≠ .dark then
      s.settle (fun w => w = .power ps) (.ok [("paddocks", .num ps.length), ("state", .word "graze")])
    else if ps.any fun n => (s.pad n).power = .dark && !(s.pad n).soft && !(s.wave.any fun w => w.1 = n) then
      s.settle (fun w => w = .power ps) (.err 404 [("object", .word "paddock"), ("state", .word "dark")])
    else s) s

/-- A stage shuts down: its paddocks are DARK, their folds in doubt, fuse retries abandoned (R613, R623, R653). -/
def State.fieldShutdown (s : State) (f : Nat) (vaon : Bool) : State :=
  let folds := s.foldsInField f
  let s1 := (fieldPads f).foldl (fun s n =>
    (s.goDark n).modPad n fun p => { p with fuse := if p.fuse = .latched then .latched else .closed }) s
  let s2 := s1.modField f fun x =>
    { x with stage := .shutdown s.now vaon, throttle := false, cool := none, held := none, heldNow := false, widened := [],
             departed := none, ringOn := x.ringOn && !vaon }
  ((s2.report .field folds f).ring "field" true [("at", .num f), ("event", .word "shutdown")]).powerEnds

/-- A field is latched: both pages off, the bit set, 16 HOLEs of cause 3, one bell, and the folds that hold a paddock there are
reported (R73, R603, R614, R686). -/
def State.latchField (s : State) (f : Nat) : State :=
  let s1 := (fieldPads f).foldl (fun s n => (s.goDark n).makeHole n 3 true) s
  let s2 := s1.modField f fun x => { x with latched := true, stage := .off, departed := none, throttle := false, ringOn := false }
  let s3 := ((s2.pmbus (fieldAddr f) 0 0x01 0).pmbus (fieldAddr f) 1 0x01 0).ring "field" true
    [("at", .num f), ("event", .word "latched")]
  (s3.report .field (s3.foldsInField f) f).writeMapAlone.powerEnds

/-- VCORE or VAON leaves its window (R602, R626). -/
def execRailDeparture (f : FieldIx) (vaon : Bool) (mv : Nat) (t : Time) (s : State) : Host.Outcome State Fault Refusal :=
  .next (s.event t (fun s => (s.field f.val).stage = .on) fun s =>
    let f := f.val
    let set := if vaon then 800 else (s.field f).vcore
    let dev := 100 * (if mv < set then set - mv else mv - set)
    let s := if vaon then s else s.modField f fun x => { x with seen := some mv }
    if dev ≤ 3 * set then s
    else
      let s1 := ((s.count .paddock (fieldTally f) tdSupply).alert alRail).ring "field" true
        [("at", .num f), ("event", .word "supply"), ("volts", .num mv)]
      if dev ≤ 5 * set then s1
      else if vaon then s1.fieldShutdown f true
      else
        let s2 := (fieldPads f).foldl (fun s n => s.modPad n Paddock.maskAll) s1
        let s3 := s2.modField f fun x => { x with departed := some s.now, vtarget := x.vcore }
        (s3.settle (fun w => w = .rail f) (.err 501 [("why", .word "stopped")])).report .field (s3.foldsInField f) f)

/-- The verdict on a VCORE departure: back within 1 ms and held 100 ms, or latched (R603). -/
def execVcoreRecoveryVerdict (f : FieldIx) (back : Option Time) (t : Time) (s : State) : Host.Outcome State Fault Refusal :=
  .next (s.event t (fun s => (s.field f.val).departed.isSome) fun s =>
    let f := f.val
    let d := ((s.field f).departed).getD 0
    match back with
    | some b =>
      if b ≤ d + msec && b + 100 * msec ≤ s.now then
        let s1 := s.modField f fun x => { x with departed := none, seen := none }
        ((fieldPads f).foldl (fun s n =>
          if (s.pad n).leased then s else s.modPad n fun p => { p with masked := false, hurdled := false }) s1).ring "field" false
            [("at", .num f), ("event", .word "supply-held")]
      else s.latchField f
    | none => s.latchField f)

/-- One millivolt toward the target row; the command is answered at the last step (R600). -/
def execRailStep (f : FieldIx) (t : Time) (s : State) : Host.Outcome State Fault Refusal :=
  .next (s.event t (fun s => (s.field f.val).vcore ≠ (s.field f.val).vtarget && (s.field f.val).departed.isNone) fun s =>
    let f := f.val
    let x := s.field f
    let v := if x.vcore < x.vtarget then x.vcore + 1 else x.vcore - 1
    let s1 := (s.setField f { x with vcore := v }).pmbus (fieldAddr f) 0 0x21 (voutCode v)
    if v = x.vtarget then s1.settle (fun w => w = .rail f) (.ok [("field", .num f), ("vcore_mv", .num v)]) else s1)

/-- Whether the paddock's field can power it. -/
def State.fieldOn (s : State) (n : Nat) : Bool := (s.field (fieldOf n)).stage = .on

/-- How many paddocks are in soft-start. -/
def State.softCount (s : State) : Nat := (s.pads.filter fun p => p.2.soft).length

/-- The paddocks that the next wave takes: their field can power them, no retry of theirs is still to come, and no more than 64 are in
soft-start (R606, R610, R642). -/
def State.waveGo (s : State) : List (Nat × Power) :=
  (s.wave.filter fun w => s.fieldOn w.1 && !(s.pad w.1).tripped).take (64 - s.softCount)

/-- A wave starts: up to 64 paddocks enter soft-start, at most once every 200 µs; a paddock that waits for its one retry stays
behind (R606, R610, R642). -/
def execPowerWaveStart (t : Time) (s : State) : Host.Outcome State Fault Refusal :=
  .next (s.event t (fun s => !s.pwrFail && !s.wave.isEmpty && (s.lastWave = 0 || decide (s.lastWave + 200 * usec ≤ s.now))) fun s =>
    let go := s.waveGo
    let s1 := go.foldl (fun s w => s.modPad w.1 fun p => { p with soft := true, goal := w.2 }) s
    { s1 with wave := s.wave.filter fun w => !go.contains w, lastWave := s.now })

/-- Start the links of a paddock afresh, but for lanes that are lasting-down; a lane that no fold uses on both sides has no credit,
and lane 0 is compressed as the controller has set it (R139, R141, R144, R151). -/
def State.startLinks (s : State) (n : Nat) : State :=
  let fresh (x lane : Nat) (l : LinkEnd) : LinkEnd :=
    if l.lastingDown then l
    else { LinkEnd.initial with detours := l.detours, owner := l.owner, compress := if lane = 0 then Config.lane0Compress x else l.compress }
  let s1 := (padLanes n).foldl (fun s q =>
    let s1 := s.modLink q.1 q.2 (fresh q.1 q.2)
    match peerEnd q.1 with
    | some y => s1.modLink y q.2 (fresh y q.2)
    | none => s1) s
  s1.syncBorders n

/-- The creation of a fold ends when every paddock it holds is in RUN: its lease time starts and the command is answered
(R439, R441). -/
def State.creationEnds (s : State) (id : Nat) : State :=
  match s.foldOf id with
  | none => s
  | some f =>
    if f.st = .created && f.recNo = 0 && (s.waits.any fun w => w.why = .fold id) && f.pads.all fun n => (s.pad n).power = .run then
      let s1 := (s.clearTallies .fold id).modFold id fun (g : Fold) => { g with ivStart := s.now }
      s1.settle (fun w => w = .fold id) (.ok [("id", .num id), ("incarnation", .num f.inc), ("state", .word "created")])
    else s

/-- A soft-start ends: N = 48, or the nearest multiplier that R149 allows beside the neighbours that run (DEDUCED: log entry 98);
everything zero, routers started, the power state it was powered for (R562, R606, R881). -/
def execSoftStartComplete (n : Pad) (t : Time) (s : State) : Host.Outcome State Fault Refusal :=
  .next (s.event t (fun s => (s.pad n.val).soft) fun s =>
    let n := n.val
    let s1 := (s.modPad n fun p =>
      { p.shear with power := p.goal, soft := false, n := 48, target := 48, setting := 48, yoke := none, masked := false,
                     maskedCtx := [], hurdled := p.excl ≠ 0, revoked := [], clockLost := false, ic := 0 }).startLinks n
    let s1 := s1.modPad n fun p => { p with n := s1.fitClock [n] 48 }
    ((s1.folds.foldl (fun s f => if f.st = .created && f.pads.contains n then s.creationEnds f.id else s) s1).powerEnds).endB4)

/-! E-fuses (R608–R611). -/

/-- The paddock takes the state its map gives it after a transient retry (R610, R642). -/
def State.settlePad (s : State) (n : Nat) : State :=
  if (s.pad n).left then
    ((s.goDark n).makeHole n 4 true).modPad n fun p => { p with left := false }
  else
    match s.homePower n with
    | .dark => s.goDark n
    | w =>
      let s1 := s.modPad n fun p => { p with power := w }
      s1.folds.foldl (fun s f => if f.st = .created && f.pads.contains n then s.creationEnds f.id else s) s1

/-- A fuse trips above 40 A (R608, R609, R625). -/
def execEfuseTrip (n : Pad) (milliamps : Nat) (t : Time) (s : State) : Host.Outcome State Fault Refusal :=
  .next (s.event t (fun s => decide (40000 < milliamps) && ((s.pad n.val).power ≠ .dark || (s.pad n.val).soft)) fun s =>
    let n := n.val
    if s.testing then (s.count .paddock n tdFuse).failTest n else
    let p := s.pad n
    let again := p.fuse = .retrying
    let s1 := (s.count .paddock n tdFuse).report .efuse p.folds n
    let s2 := (s1.goDark n).modPad n fun q => { q with fuse := if again then .latched else .tripped s.now }
    let s3 := s2.ring "paddock" true [("at", .pad n), ("event", .word "fuse")]
    (if again then (s3.makeHole n 2 false).modPad n fun q => { q with trip := .none } else s3).powerEnds)

/-- Whether the thermal condition of a retry holds: 100 ms since the trip, and below 80 °C (R642). -/
def Paddock.cooled (p : Paddock) (now : Time) : Bool :=
  match p.trip with
  | .none => true
  | .waiting since => decide (since + 100 * msec ≤ now) && (p.fail0 || decide (p.s0 < 640)) && (p.fail1 || decide (p.s1 < 640))
  | _ => false

/-- The one retry, 100 ms after the trip; it waits for its field, and for a thermal trip's own condition (R610, R624, R651). -/
def execEfuseRetry (n : Pad) (t : Time) (s : State) : Host.Outcome State Fault Refusal :=
  .next (s.event t (fun s =>
      !s.pwrFail && s.fieldOn n.val && (s.pad n.val).cooled s.now
        && (match (s.pad n.val).fuse with
            | .tripped since => decide (since + 100 * msec ≤ s.now)
            | _ => false)) fun s =>
    let n := n.val
    let th := (s.pad n).trip ≠ .none
    let s1 := s.modPad n fun p => { p with fuse := .retrying, trip := if th then .retrying s.now p.s0 else p.trip }
    ({ s1 with wave := s1.wave.filter fun w => w.1 ≠ n }).enqueueWave n .graze)

/-- Ten milliseconds in GRAZE: transient, or the fuse latches, a trigger for a fold that has come to hold the paddock (R610, R651,
R686). -/
def execEfuseRetryVerdict (n : Pad) (peak : Nat) (t : Time) (s : State) : Host.Outcome State Fault Refusal :=
  .next (s.event t (fun s => !s.pwrFail && (s.pad n.val).fuse = .retrying && (s.pad n.val).power = .graze) fun s =>
    let n := n.val
    let p := s.pad n
    let hot := match p.trip with
      | .retrying _ peakT => decide (840 ≤ peakT)
      | _ => false
    if peak ≤ 40000 && !hot then
      ((s.modPad n fun q => { q with fuse := .closed, trip := .none }).settlePad n).ring "paddock" false
        [("at", .pad n), ("event", .word "fuse-transient")]
    else
      ((((s.goDark n).modPad n fun q => { q with fuse := .latched, trip := .none, left := false }).makeHole n 2 false).report .efuse p.folds n).powerEnds)

/-! Field stages (R612–R615). -/

/-- A stage shutdown is learnt through PMB_ALERT_N or the loss of the field's reports (R613). -/
def execFieldStageShutdown (f : FieldIx) (vaon : Bool) (t : Time) (s : State) : Host.Outcome State Fault Refusal :=
  .next (s.event t (fun s => (s.field f.val).stage = .on || (match (s.field f.val).stage with
      | .retrying _ => true
      | _ => false)) fun s => s.fieldShutdown f.val vaon)

/-- The PMBus sequence of a stage retry (R614). -/
def State.stageOnSequence (s : State) (f : Nat) : State :=
  ((s.pmbus (fieldAddr f) 0 0x03 0).pmbus (fieldAddr f) 1 0x01 0x80).pmbus (fieldAddr f) 0 0x01 0x80

/-- 100 ms after a shutdown the stage is retried once, when it is reachable (R614, R619, R628). -/
def execFieldRetry (f : FieldIx) (t : Time) (s : State) : Host.Outcome State Fault Refusal :=
  .next (s.event t (fun s => !s.pwrFail && s.reachable (fieldAddr f.val) && (match (s.field f.val).stage with
      | .shutdown since _ => decide (since + 100 * msec ≤ s.now)
      | _ => false)) fun s =>
    (s.modField f.val fun x => { x with stage := .retrying s.now }).stageOnSequence f.val)

/-- The field's retry holds and its paddocks are powered to the states the map gives them, or the field is latched
(R614, R710). -/
def execFieldRetryVerdict (f : FieldIx) (held : Bool) (t : Time) (s : State) : Host.Outcome State Fault Refusal :=
  .next (s.event t (fun s => !s.pwrFail && (match (s.field f.val).stage with
      | .retrying _ => true
      | _ => false)) fun s =>
    let f := f.val
    if held then
      let s1 := (s.count .paddock (fieldTally f) tdStage).modField f fun x => { x with stage := .on, ringOn := true, ringLost := false, departed := none, seen := none }
      let s2 := (fieldPads f).foldl (fun s n =>
        if s.boot.phase ≠ .ready then s.makeHole n 1 true
        else if (s.pad n).left then (s.makeHole n 4 true).modPad n fun p => { p with left := false }
        else
          match s.homePower n with
          | .dark => s
          | w => s.enqueueWave n w) s1
      s2.ring "field" false [("at", .num f), ("event", .word "stage-held")]
    else s.latchField f)

/-! PMBus (R617–R619). -/

/-- PMB_ALERT_N: the alert response address, then the status of the device that answered (R618). -/
def execPmbAlert (addr status : Nat) (t : Time) (s : State) : Host.Outcome State Fault Refusal :=
  .next (s.event t (fun s => s.active.isSome) fun s => (s.pmbus 0x0C 0 0 0).pmbus addr 0 0x79 status)

/-- One transaction with its single repeat (R619). -/
def State.pmbusRead (s : State) (r : PmbRead) : State :=
  if r.first || r.second then
    let s1 := { s with unreach := s.unreach.filter (· ≠ r.addr), telem := tabSet (⟨[], 0⟩ : Telem) s.telem r.addr ⟨r.pages, r.pin⟩ }
    if r.first then s1 else s1.count .shc (s1.active.getD 0) thPmbus
  else if s.unreach.contains r.addr then s
  else (({ s with unreach := s.unreach ++ [r.addr] }).alert alPmbus).ring "pmbus" true
    [("device", .num r.addr), ("state", .word "unreachable")]

/-- The package input power in milliwatts. -/
def State.totalPin (s : State) : Nat := (s.telem.map fun p => p.2.pin).sum

/-- Every stage's telemetry, every 100 ms; a package above 22.5 kW is belled (R617). -/
def execTelemetryRead (reads : List PmbRead) (t : Time) (s : State) : Host.Outcome State Fault Refusal :=
  .next (s.event t (fun s => s.active.isSome) fun s =>
    let s1 := reads.foldl (fun s r => s.pmbusRead r) s
    if 22500000 < s1.totalPin then s1.ring "power" false [("total_w", .num (s1.totalPin / 1000))] else s1)

/-- An unreachable device is tried once every second (R619). -/
def execPmbusRetryPoll (r : PmbRead) (t : Time) (s : State) : Host.Outcome State Fault Refusal :=
  .next (s.event t (fun s => s.active.isSome && s.unreach.contains r.addr) fun s =>
    if r.first then { s with unreach := s.unreach.filter (· ≠ r.addr) } else s)

/-! Power commands (Table CMD-4). -/

/-- The sum of R616 in milliwatts at the rails, times 100: Σ VCORE × 320 A × 100 / 95 must leave room for 1,050 W. -/
def State.coreSum (s : State) : Nat := ((List.range 84).map fun f => (s.field f).vtarget).sum

/-- Whether the settings pass R616: (Σ mV · 320 mW) / 0.95 + 1,050,000 mW ≤ 22,500,000 mW. -/
def powerFits (sum : Nat) : Bool := decide (sum * 320 * 100 ≤ 21450000 * 95)

/-- The total of R616 in watts, rounded up. -/
def checkWatts (sum : Nat) : Nat := ceilDiv (sum * 320 * 100) 95000 + 1050

def execShowPower (ln : Ln) (s : State) : Host.Outcome State Fault Refusal :=
  .next (s.judged ln .view true fun s =>
    let bus (b : BusSt) (w : String) : KVs :=
      [("bus", .word w), ("volts", .num b.mv), ("state", .word (if b.low then "low" else if b.range then "range" else "ok"))]
    let field (f : Nat) : KVs :=
      let x := s.field f
      [("field", .num f), ("vcore_mv", .num x.vcore),
       ("state", .word (if x.latched then "latched" else if x.stage = .on then "on" else "retry")),
       ("in_w", .num ((tabGet (⟨[], 0⟩ : Telem) s.telem (fieldAddr f)).pin / 1000))]
    s.parts ln ([bus s.busA "a", bus s.busB "b"] ++ (List.range 84).map field)
      [("mode", .word (if s.shared then "shared" else "a")), ("total_w", .num (s.totalPin / 1000)),
       ("check_w", .num (checkWatts s.coreSum))])

/-- Selector command 0xD0 (R591, Table PWR-8). -/
def execSetBus (shared : Bool) (ln : Ln) (s : State) : Host.Outcome State Fault Refusal :=
  .next (s.judged ln .operate false fun s =>
    if !s.reachable 0x6C || !ln.dev then s.err ln 601 [("device", .num 0x6C)]
    else (({ s with shared := shared }).pmbus 0x6C 0 0xD0 (if shared then 1 else 0)).ok ln
      [("mode", .word (if shared then "shared" else "a"))])

/-- A field's core rail (R599–R601, R616, R630). -/
def execSetRail (x y mv : Nat) (ln : Ln) (s : State) : Host.Outcome State Fault Refusal :=
  .next (s.judged ln .operate false fun s =>
    if x ≥ 7 || y ≥ 12 then s.err ln 401 [("object", .word "location")]
    else if mv < 650 || 850 < mv || mv % 25 ≠ 0 then s.err ln 402 [("key", .word "vcore_mv"), ("min", .num 650), ("max", .num 850)]
    else
      let f := 7 * y + x
      let fd := s.field f
      if fd.latched || fd.stage ≠ .on || fd.departed.isSome then s.err ln 404 [("object", .word "field"), ("state", .word "retry")]
      else if !s.reachable (fieldAddr f) || !ln.dev then s.err ln 601 [("device", .num (fieldAddr f))]
      else if !powerFits (s.coreSum - fd.vtarget + mv) then s.err ln 502 [("total", .num (checkWatts (s.coreSum - fd.vtarget + mv)))]
      else if (fieldPads f).any fun n => (s.pad n).power ≠ .dark && decide (railMaxN mv < max (s.pad n).n (s.pad n).target) then
        s.err ln 503 [("key", .word "vcore_mv")]
      else
        let s1 := s.setField f { fd with vtarget := mv }
        if fd.vcore = mv then s1.ok ln [("field", .num f), ("vcore_mv", .num mv)] else s1.await ln (.rail f))

/-- Unleased GOOD paddocks to GRAZE or DARK; the answer waits for the soft-starts (R605, R828). -/
def execSetPower (at_ : Loc) (dark : Bool) (ln : Ln) (s : State) : Host.Outcome State Fault Refusal :=
  .next (s.judged ln .operate false fun s =>
    match locPads at_ with
    | none => s.err ln 401 [("object", .word "location")]
    | some ps =>
      if ps.any fun n => (s.pad n).leased || (s.entry n).st = 2 || (s.entry n).st = 3 then
        s.err ln 404 [("object", .word "paddock"), ("state", .word "leased")]
      else
        let s1 := ps.foldl (fun s n =>
          if dark then (s.goDark n).modPad n fun p => { p with opDark := true }
          else
            let s2 := s.modPad n fun p => { p with opDark := false }
            if (s2.pad n).power = .dark then s2.enqueueWave n .graze else s2.modPad n fun p => { p with power := s2.homePower n }) s
        if dark || ps.all fun n => (s1.pad n).power ≠ .dark then
          (s1.ok ln [("paddocks", .num ps.length), ("state", .word (if dark then "dark" else "graze"))]).powerEnds
        else s1.await ln (.power ps))

/-- One more retry of a latched field's stage; its paddocks stay HOLEs (R615). -/
def execClearField (x y : Nat) (held : Bool) (ln : Ln) (s : State) : Host.Outcome State Fault Refusal :=
  .next (s.judged ln .admin false fun s =>
    if x ≥ 7 || y ≥ 12 then s.err ln 401 [("object", .word "location")]
    else
      let f := 7 * y + x
      if !(s.field f).latched then s.err ln 404 [("object", .word "field"), ("state", .word "on")]
      else if !s.reachable (fieldAddr f) || !ln.dev then s.err ln 601 [("device", .num (fieldAddr f))]
      else
        let s1 := s.stageOnSequence f
        if held then
          let s2 := s1.modField f fun x => { x with latched := false, stage := .on, ringOn := true, ringLost := false }
          (s2.writeMap s2.boot.full true).ok ln [("field", .num f), ("latched", .num 0)]
        else ((s1.pmbus (fieldAddr f) 0 0x01 0).pmbus (fieldAddr f) 1 0x01 0).refuse ln "retry-failed")

end Sys2Proof.Machine
end

