-- ==== Sys2Proof/Machine/Clock.lean ====
section
/-! DEFINITION. Island clocks, field rings and the reference, and throttling by clock (*Clock islands*, R559–R589;
R637–R640, R653–R655; Table CMD-4 `set clock`). -/
namespace Sys2Proof.Machine

open Sys2Proof

/-- One step of an operator's clock change, at most one a microsecond; the command is answered after the last, and GRAZE that waited
for the change follows it (R565, R566, R588). -/
def execClockStep (n : Pad) (t : Time) (s : State) : Host.Outcome State Fault Refusal :=
  .next (s.event t (fun s => (s.pad n.val).n ≠ (s.pad n.val).target && (s.pad n.val).power ≠ .dark && !(s.pad n.val).clockLost
      && !(s.field (fieldOf n.val)).throttle && (s.pad n.val).stepAt.all fun a => decide (a + usec ≤ s.now)) fun s =>
    let s1 := s.stepClock n.val (s.pad n.val).target
    let due := s1.waits.filterMap fun w => match w.why with
      | .clock ps k => if ps.all fun m => (s1.pad m).n = k then some (ps, k) else none
      | _ => none
    let s2 := due.foldl (fun s d => s.settle (fun w => w = .clock d.1 d.2) (.ok [("paddocks", .num d.1.length), ("n", .num d.2)])) s1
    (s.yokeOf n.val).foldl (fun s m => s.endRun m) s2)

/-- The members of the yokes of a list of paddocks (R572). -/
def State.withYokes (s : State) (ps : List Nat) : List Nat := (ps.flatMap fun n => s.yokeOf n).eraseDups

/-- Whether R149 holds at every border of `ps` were all of them at `x`, judged against a neighbour's clock by `g`. -/
def State.ratioAll (s : State) (ps : List Nat) (x : Nat) (g : Paddock → Nat) : Bool :=
  ps.all fun n => (List.range 4).all fun d =>
    match padBeyond n d with
    | none => true
    | some m => ps.contains m || !s.lane0Live n m || (decide (x ≤ 2 * g (s.pad m)) && decide (g (s.pad m) ≤ 2 * x))

/-- Steps the island clocks of the named paddocks, all or nothing (R564, R582, R583, R655, R835). -/
def execSetClock (at_ : Loc) (n : Nat) (ln : Ln) (s : State) : Host.Outcome State Fault Refusal :=
  .next (s.judged ln .operate false fun s =>
    match locPads at_ with
    | none => s.err ln 401 [("object", .word "location")]
    | some ps0 => s.inRange ln "n" n 16 56 fun s =>
      let ps := (s.withYokes ps0).filter fun m => (s.pad m).power ≠ .dark
      if ps.any fun m => decide (railMaxN (min (s.field (fieldOf m)).vcore (s.field (fieldOf m)).vtarget) < n) then
        s.err ln 503 [("key", .word "n")]
      else if !s.ratioAll ps n (·.n) then s.err ln 503 [("key", .word "n")]
      else if !s.ratioAll ps n (·.target) then s.err ln 403 [("object", .word "paddock")]
      else
        let hot := ps.any fun m => (s.field (fieldOf m)).throttle
        let s1 := ps.foldl (fun s m => s.modPad m fun p => { p with setting := n, target := if hot then p.n else n }) s
        if hot || ps.all fun m => (s.pad m).n = n then s1.ok ln [("paddocks", .num ps.length), ("n", .num n)]
        else s1.await ln (.clock ps n))

/-- A paddock's clock is lost: outputs masked, folds in doubt, counted and belled (R575–R577). -/
def State.loseClock (s : State) (n : Nat) (tr : Trigger) : State :=
  let folds := s.foldsOn n
  let s1 := s.modPad n fun p => { p.maskAll with clockLost := true, lostAt := s.now, target := p.n }
  (((s1.count .paddock n tdClock).report tr folds n).ring "paddock" true [("at", .pad n), ("event", .word "clock")])

/-- The clock monitor finds an island clock lost; in a yoke every member loses it, and the yoke is dissolved
(R574, R575, R581, R585). -/
def execIslandClockLoss (n : Pad) (t : Time) (s : State) : Host.Outcome State Fault Refusal :=
  .next (s.event t (fun s => (s.pad n.val).power ≠ .dark && !(s.pad n.val).clockLost) fun s =>
    let ps := s.yokeOf n.val
    if s.testing then (s.count .paddock n.val tdClock).failTest n.val else
    ps.foldl (fun s m => s.loseClock m .clockLost) (s.dissolveYoke n.val))

/-- A field's ring is lost: decoupled, and its paddocks lose their clocks (R578, R587). -/
def execRingLoss (f : FieldIx) (t : Time) (s : State) : Host.Outcome State Fault Refusal :=
  .next (s.event t (fun s => (s.field f.val).ringOn && !(s.field f.val).ringLost) fun s =>
    let ps := (fieldPads f.val).filter fun n => (s.pad n).power ≠ .dark && !(s.pad n).clockLost
    let s1 := s.modField f.val fun x => { x with ringLost := true, ringLostAt := s.now }
    (ps.foldl (fun s n => (s.dissolveYoke n).loseClock n .ringLost) s1))

/-- The mesh is locked when every ring lies within 20 ppm (R560). -/
def execMeshLock (worstPpm : Nat) (t : Time) (s : State) : Host.Outcome State Fault Refusal :=
  .next (s.event t (fun s => decide (worstPpm ≤ 20) && s.refAbsent.length < 4) fun s => { s with meshLocked := true })

/-- The edges an operand names: one, or all four. -/
def edgesOf (e : Option (Fin 4)) : List Nat :=
  match e with
  | some x => [x.val]
  | none => [0, 1, 2, 3]

/-- Ten microseconds without the reference: injection stops, a bell, ALERT_N; with all four pairs absent the mesh runs
free (R579, R937). -/
def execReferenceAbsent (edge : Option (Fin 4)) (t : Time) (s : State) : Host.Outcome State Fault Refusal :=
  .next (s.event t (fun s => (edgesOf edge).any fun e => !s.refAbsent.contains e) fun s =>
    let abs := (List.range 4).filter fun e => s.refAbsent.contains e || (edgesOf edge).contains e
    let s1 := ({ s with refAbsent := abs, refSince := some s.now, meshLocked := s.meshLocked && decide (abs.length < 4) }).reinject
    (s1.alert alRef).ring "ref" true [("state", .word "absent")])

/-- The reference returns: injection resumes (R579). The mesh is locked again when MESH_LOCK finds it so. -/
def execReferenceReturn (edge : Option (Fin 4)) (t : Time) (s : State) : Host.Outcome State Fault Refusal :=
  .next (s.event t (fun s => (edgesOf edge).any fun e => s.refAbsent.contains e) fun s =>
    let abs := s.refAbsent.filter fun e => !(edgesOf edge).contains e
    ({ s with refAbsent := abs, refSince := if abs.isEmpty then none else s.refSince }).reinject.ring "ref" true [("state", .word "present")])

/-! Throttling (R637–R640). -/

/-- The temperature of a paddock: the higher of its valid sensors, in 0.125 °C; none before the first sample (R633). -/
def Paddock.temp (p : Paddock) : Option Int :=
  let valid := (if p.fail0 then [] else [p.s0]) ++ (if p.fail1 then [] else [p.s1])
  (valid.filter (· ≠ noTemp)).foldl (fun (a : Option Int) x => some (match a with
    | some y => max y x
    | none => x)) none

/-- The temperature of a field: the highest of its powered paddocks. -/
def State.fieldTemp (s : State) (f : Nat) : Option Int :=
  ((fieldPads f).filterMap fun n => if (s.pad n).power = .dark then none else (s.pad n).temp).foldl
    (fun (a : Option Int) x => match a with
      | none => some x
      | some y => some (max x y)) none

/-- The fields that share a border with field `f`. -/
def fieldNear (f : Nat) : List Nat :=
  (if f % 7 < 6 then [f + 1] else []) ++ (if 0 < f % 7 then [f - 1] else []) ++ (if f < 77 then [f + 7] else [])
    ++ (if 7 ≤ f then [f - 7] else [])

/-- The powered paddocks of a field that lead a step: one for each yoke part (R638). -/
def State.leaders (s : State) (f : Nat) : List Nat :=
  (fieldPads f).filter fun n => (s.pad n).power ≠ .dark && ((s.yokeOf n).find? fun m => fieldOf m = f) = some n

/-- One step of a throttle: the clock's target is where the step leaves it (R565, R637). -/
def State.throttleStep (s : State) (n x : Nat) : State :=
  (s.yokeOf n).foldl (fun s m => s.modPad m fun p => { p with target := p.n }) (s.stepClock n x)

/-- Step every paddock of a field down by one, where N = 16 and R149 allow; the flags say whether any moved and whether
R149 held one back. -/
def State.throttleDown (s : State) (f : Nat) : State × Bool × Bool :=
  (s.leaders f).foldl (fun (acc : State × Bool × Bool) n =>
    let p := acc.1.pad n
    if p.n ≤ 16 then acc
    else
      let s1 := acc.1.throttleStep n (p.n - 1)
      if (s1.pad n).n = p.n then (s1, acc.2.1, true) else (s1, true, acc.2.2)) (s, false, false)

/-- Step up toward the operator's setting; a yoke waits while any of its fields still throttles down. -/
def State.throttleUp (s : State) (f : Nat) : State × Bool :=
  (s.leaders f).foldl (fun (acc : State × Bool) n =>
    let p := acc.1.pad n
    if p.setting ≤ p.n || (acc.1.yokeOf n).any fun m => fieldOf m ≠ f && (acc.1.field (fieldOf m)).throttle then acc
    else (acc.1.throttleStep n (p.n + 1), true)) (s, false)

/-- The lowest multiplier of a field's powered paddocks; the reset value where none is powered (Table REG-4). -/
def State.minN (s : State) (f : Nat) : Nat :=
  match ((fieldPads f).filter fun n => (s.pad n).power ≠ .dark).map fun n => (s.pad n).n with
  | [] => 48
  | n :: ns => ns.foldl min n

/-- Refuse the operator changes that a throttle takes over (R583, R846). -/
def State.takeOver (s : State) (f : Nat) : State :=
  let hit := s.waits.filterMap fun w => match w.why with
    | .clock ps k => if ps.any fun m => fieldOf m = f then some (ps, k) else none
    | _ => none
  let s1 := hit.foldl (fun s d => s.settle (fun w => w = .clock d.1 d.2) (.err 403 [("object", .word "paddock")])) s
  (fieldPads f).foldl (fun s n => (s.modPad n fun p => if p.target = p.n then p else { p with target := p.n, setting := p.n }).endRun n) s1

/-- Start or continue a throttle: the bell and alert of its start (R640). -/
def State.throttleOn (s : State) (f : Nat) (temp : Int) : State :=
  if (s.field f).throttle then s
  else ((((s.takeOver f).markThrottle f).modField f fun x => { x with throttle := true, cool := none }).alert alThrottle).ring "field" true
    [("at", .num f), ("event", .word "throttle"), ("temp", .int temp)]

/-- Widen from field `f` to the untouched fields bordering it and those it has already widened to (R639). -/
def State.widen (s : State) (f : Nat) (temp : Int) : State :=
  let inside := f :: (List.range 84).filter fun g => (s.field g).widened.contains f
  let next := ((inside.flatMap fieldNear).eraseDups).filter fun g => g ≠ f && !(s.field g).widened.contains f
  let s1 := next.foldl (fun s g => (s.markThrottle g).modField g fun x => { x with widened := x.widened ++ [f], throttle := true }) s
  (s1.alert alThrottle).ring "field" true [("at", .num f), ("event", .word "widen"), ("temp", .int temp)]

/-- End every widening that field `f` began. -/
def State.endWiden (s : State) (f : Nat) : State :=
  (List.range 84).foldl (fun s g =>
    if (s.field g).widened.contains f then s.modField g fun x => { x with widened := x.widened.filter (· ≠ f) } else s) s

/-- The field controller's evaluation, every 100 µs (R637–R640, R653, R654). -/
def execThrottleEval (f : FieldIx) (t : Time) (s : State) : Host.Outcome State Fault Refusal :=
  .next (s.event t (fun s => !s.pwrFail && (s.field f.val).stage = .on && (s.fieldTemp f.val).isSome) fun s =>
    let f := f.val
    let temp := (s.fieldTemp f).getD 0
    let x := s.field f
    let hot := decide (736 ≤ temp)
    let asked := x.widened.any fun o => (s.field o).heldNow && decide (16 < s.minN o)
    let cool := if temp < 712 then some (x.cool.getD s.now) else none
    let s0 := s.modField f fun y => { y with cool := cool }
    if hot || asked then
      let s1 := s0.throttleOn f temp
      let r := s1.throttleDown f
      let heldBy := hot && r.2.2 && !r.2.1
      let held := if heldBy && 752 ≤ temp then some (x.held.getD s.now) else none
      let due := match held with
        | some h => decide (h + msec ≤ s.now)
        | none => false
      let s2 := (r.1.addTally .paddock (fieldTally f) tdThrottle (if r.2.1 then 1 else 0)).modField f fun y =>
        { y with heldNow := heldBy, held := if due then some s.now else held }
      if due then s2.widen f temp else s2
    else
      let rested := match cool with
        | some c => decide (c + 10 * msec ≤ s.now)
        | none => false
      let s1 := s0.modField f fun y => { y with heldNow := y.heldNow && !rested, held := none }
      if rested && x.throttle then
        let s2 := s1.endWiden f
        if !(s2.field f).widened.isEmpty then s2
        else
          let r := s2.throttleUp f
          let s3 := r.1.addTally .paddock (fieldTally f) tdThrottle (if r.2 then 1 else 0)
          if (s3.leaders f).all fun n => decide ((s3.pad n).setting ≤ (s3.pad n).n) then
            (s3.modField f fun y => { y with throttle := false }).ring "field" false [("at", .num f), ("event", .word "throttle-end")]
          else s3
      else s1)

end Sys2Proof.Machine
end

