-- ==== Sys2Proof/Machine/Issue.lean ====
section
/-! DEFINITION. The issue cycles of paddocks, their verdicts and HBM returns (*Fine paddocks*, *Coarse paddocks*;
R186–R226, R237–R275, R338–R341, R659). -/
namespace Sys2Proof.Machine

open Sys2Proof

/-! Context words of an F-paddock (Table FINE-2). -/

def fwII (w : DWord) : Nat := bitsOf w 0 7 + 1
def fwWdog (w : DWord) : Nat := bitsOf w 7 5
def fwScrBase (w : DWord) : Nat := bitsOf w 23 4
def fwScrSize (w : DWord) : Nat := bitsOf w 27 5

/-- The context of an ic: the plan's entry, its position moved on (R186, R187). -/
def Paddock.turn (p : Paddock) : Option Nat × Paddock :=
  let plan := if p.excl = 0 then [0, 1, 2, 3] else p.plan
  match plan[p.pos % max 1 plan.length]? with
  | some k => (some k, { p with pos := (p.pos + 1) % plan.length, ic := p.ic + 1 })
  | none => (none, { p with ic := p.ic + 1 })

/-- A context is granted the ic: in the plan, issuing, and not held for a handover (R534). -/
def Paddock.granted (p : Paddock) (k : Nat) : Bool :=
  let c := p.ctx k
  (c.st = .live || c.st = .retiring) && p.mayIssue k
    && !((List.range 4).any fun j => (p.ctx j).handover && (p.ctx j).incoming = some k && ((p.ctx j).st = .live || (p.ctx j).st = .retiring))

/-- Whether every flit a paddock is about to close finds a credit on its first link beyond those that its closed flits hold, and a
place in that link's replay buffer (R147, R152, R191, R210, R226). -/
def State.creditsFor (s : State) (n : Nat) (fs : List Flit) : Bool :=
  let firsts := fs.filterMap (s.firstLink n)
  firsts.all fun k =>
    decide ((firsts.filter fun j => j = k).length + s.keptCredits k.1 k.2.1 k.2.2 ≤ (s.link k.1 k.2.1).credit k.2.2)
      && decide ((s.link k.1 k.2.1).replay.length < 16)

/-- Whether any paddock of a fold is hurdled: the watchdog does not count then (R193, R225). -/
def State.anyHurdled (s : State) (fold : Nat) : Bool :=
  match s.foldOf fold with
  | some f => f.pads.any fun n => (s.pad n).hurdled
  | none => false

/-- Record a slip of a context under one cause (R191, R193, R238). -/
def State.slip (s : State) (n k fold : Nat) (fine : Bool) (c : SlipCause) : State :=
  let idx := match c with
    | .inlet => tfSlipInlet
    | .output => tfSlipOutput
    | .unit => if fine then tfSlipFine else tfSlipUnit
  let step := if s.anyHurdled fold then 0 else 1
  ((s.count .fold fold idx).count .paddock n (tdCtx k (match c with
    | .inlet => 0
    | .output => 1
    | .unit => 2))).modPad n fun p => p.setCtx k { p.ctx k with slips := (p.ctx k).slips + step }

/-- An uncorrectable error in a paddock: the affected context's fold is masked and reported in that ic (R216, R659). -/
def State.padDoubt (s : State) (n fold : Nat) (tr : Trigger) : State :=
  (s.modPad n fun p => p.maskFolds [fold]).reportFrom n tr [fold] n

/-- An outgoing context becomes RETIRING once its bellwethers have come and, for a section, its declared run is complete
(R530, R538). -/
def Paddock.retireCheck (p : Paddock) (fine : Bool) (k : Nat) : Paddock :=
  let c := p.ctx k
  let per := if fine then fwII c.word else cwPeriod c.word
  if c.st = .live && c.incoming.isSome && c.bwin ≤ c.bwGot && (match c.run with
      | some r => decide (r * per ≤ c.t)
      | none => true) then p.setCtx k { c with st := .retiring } else p

/-- One ic of an F-paddock: every tile of the granted context issues or the paddock slips, and tokens move
(R188–R226, R570, R659). -/
def execFineIssueCycle (n : Pad) (fault : IcFault) (t : Time) (s : State) : Host.Outcome State Fault Refusal :=
  .next (s.event t (fun s => isFine n.val && (s.pad n.val).power = .run && !(s.pad n.val).clockLost) fun s =>
    let n := n.val
    let tr := (s.pad n).turn
    let s0 := s.addTally .paddock n tdEccCorrected fault.corrected
    let s1 := s0.setPad n tr.2
    let p := tr.2
    let excl := decide (p.excl ≠ 0)
    let settle (s : State) (tiles : Tab Tile) (sent : List (Nat × Nat × Word)) : State :=
      let moved := fineMove p.fine tiles p.ic excl (tr.1.getD 0) sent
      let drops := (moved.map fun e => e.2.crookDrops).sum
      (s.addTally .paddock n tdCrook drops).modPad n fun q =>
        { q with fine := tabMap Tile.initial moved fun _ e => { e with crookDrops := 0 } }
    match tr.1 with
    | none => settle s1 p.fine []
    | some k =>
      let c := p.ctx k
      let fold := p.foldAt k
      if fault.fatal then settle (s1.padDoubt n fold .tileEcc) p.fine []
      else if !p.granted k then settle s1 p.fine []
      else
        let e : FineCtx := ⟨k, fwII c.word, fwScrBase c.word, fwScrSize c.word, c.t, p.ic, excl, fold, c.epoch, s1.me, s1.movesOf fold⟩
        match fineGranted p.fine e (s1.creditsFor n) with
        | .slip cause => settle (s1.slip n k fold true cause) p.fine []
        | .issued tiles sent closed =>
          let asks := (closed.filter fun f => f.typ = ftMemReq).map fun f => (mrRendpt f, f.tag.toNat, if mrOp f = 0 then mrUnits f else 256)
          let s2 := s1.modPad n fun q => (q.setCtx k { c with t := c.t + 1, slips := 0, mem := c.mem ++ asks }).retireCheck true k
          settle s2 tiles sent)

/-- The session geometry that a prefix resolves against: the fold's window, its class's streams (R337–R339). -/
def State.sessGeom (s : State) (fold : Nat) (r : SessReg) : Option SessGeom :=
  match s.foldOf fold with
  | none => none
  | some f => (f.image.bind fun im => im.cls r.cls).map fun c => ⟨c.streams, r.cap, f.smeds, r.p0, r.a, r.sess⟩

/-- One ic of a C-paddock (R235–R266, R276–R301, R338–R341, R659). -/
def execCoarseIssueCycle (n : Pad) (fault : IcFault) (t : Time) (s : State) : Host.Outcome State Fault Refusal :=
  .next (s.event t (fun s => !isFine n.val && (s.pad n.val).power = .run && !(s.pad n.val).clockLost) fun s =>
    let n := n.val
    let tr := (s.pad n).turn
    let s0 := s.addTally .paddock n tdEccCorrected fault.corrected
    match tr.1 with
    | none => s0.setPad n tr.2
    | some k =>
      let p0 := tr.2
      let coarse := fault.double.foldl (fun (c : Coarse) x =>
        c.setM (x.val / 2) { c.m (x.val / 2) with held := some (2 * k + x.val % 2) }) p0.coarse
      let coarse := fault.residue.foldl (fun (c : Coarse) v => c.setV v.val { c.v v.val with reexec := some k }) coarse
      let p := { p0 with coarse := coarse }
      let s1 := s0.setPad n p
      let c := p.ctx k
      let fold := p.foldAt k
      if fault.fatal then s1.padDoubt n fold .tileEcc
      else if !p.granted k then s1
      else
        let o := coarseGranted coarse ⟨n, fold, s.me, c.epoch, s1.movesOf fold⟩ c.word (decide (p.excl = 0)) k p.ic c.t (s1.sessGeom fold) (s1.creditsFor n)
        let s2 := s1.modPad n fun q => { q with coarse := o.c }
        let s3 := match o.slip with
          | some cause => s2.slip n k fold false cause
          | none => s2.modPad n fun q => (q.setCtx k { c with t := c.t + 1, slips := 0 }).retireCheck false k
        (((((s3.addTally .fold fold tfSaturation o.count.sat).addTally .paddock n (tdCtx k 3) o.count.sat).addTally .fold fold tfRange o.count.range).addTally .fold fold
          tfNonfinite o.count.nonfinite).addTally .fold fold tfSkip o.skip).addTally .fold fold tfBounds o.bounds)

/-- A context has slipped 2^WDOG times in a row: its fold's watchdog expires. The slip count starts again at 0: the spec does not say
what it reads after the expiry (DESIGN CHOICE, log entry 90) (R193, R225, R239, R275). -/
def execWatchdogExpiry (n : Pad) (k : CtxIx) (t : Time) (s : State) : Host.Outcome State Fault Refusal :=
  .next (s.event t (fun s =>
      let p := s.pad n.val
      let c := p.ctx k.val
      let w := if isFine n.val then fwWdog c.word else cwWdog c.word
      decide (2 ^ w ≤ c.slips) && (c.st = .live || c.st = .retiring) && !s.anyHurdled (p.foldAt k.val)) fun s =>
    let fold := (s.pad n.val).foldAt k.val
    ((s.count .fold fold tfWatchdog).padDoubt n.val fold .watchdog).modPad n.val fun p => p.setCtx k.val { p.ctx k.val with slips := 0 })

/-- What a context still holds in a paddock (R211, R253, R514). -/
def State.occupancy (s : State) (n k : Nat) : Nat :=
  let p := s.pad n
  let fold := p.foldAt k
  let bufs := ((List.range 24).map fun i =>
    ((((s.link (padEnd n (i / 6)) (1 + i % 6 / 2)).buf (decide (i % 2 = 1))).filter fun q => q.flit.ctx.toNat = k && q.flit.typ ≠ ftBellwether
      && q.flit.fold.toNat = fold).length)).sum
  (p.fine.map fun e => e.2.occupancy k).sum + p.coarse.occupancy k + (p.outbox.filter fun q => q.flit.ctx.toNat = k && q.flit.fold ≠ 0 && q.flit.typ ≠ ftBellwether).length
    + (p.returns.filter fun f => f.ctx.toNat = k).length + (p.ctx k).mem.length + bufs

/-- Whether every item of a transition is done: the outgoing contexts have left and every NED that has a result source to
hear has closed the epoch (R533). -/
def State.switched (s : State) (id : Nat) (x : Transition) : Bool :=
  x.outgoing.isEmpty && s.neds.all fun (n : Ned) => n.doubt || tabGet 0 n.bwNeed id = 0

/-- The fold leaves RECONFIGURING when every paddock has switched and every NED has closed the epoch (R533). -/
def State.transitionEnds (s : State) (id : Nat) : State :=
  match s.foldOf id with
  | none => s
  | some f =>
    match f.transition with
    | none => s
    | some x =>
      if s.switched id x then
        let s1 := s.modFold id fun (g : Fold) => { g with transition := none, musterAt := s.now }
        if f.st = .reconfiguring then
          (s1.setFoldSt id .running).ring "fold" false [("id", .num id), ("state", .word "running"), ("epoch", .num f.epoch)]
        else s1
      else s

/-- A fold's epoch after one of its sections has swapped: the newest in use (R509). -/
def newerEpoch (a b : Nat) : Bool := 0 < (b + 8 - a) % 8 && (b + 8 - a) % 8 < 4

/-- A retiring context leaves the plan: its bellwethers are queued and it is FREE, or STANDBY for a section, whose incoming
section is then LIVE. The plan restarts at its first entry: the spec does not say which is granted next after an entry has gone
(DESIGN CHOICE, log entry 90) (R186, R220, R530, R531, R537, R538). -/
def State.leavePlan (s : State) (n k : Nat) : State :=
  let p := s.pad n
  let c := p.ctx k
  let fold := p.foldAt k
  let count := ((s.foldOf fold).map fun (f : Fold) => f.transitions).getD 0
  let ep := if c.run.isSome then (c.epoch + 1).toNat else
    match c.incoming with
    | some j => (p.ctx j).epoch.toNat
    | none => c.epoch.toNat
  let bells := c.bwout.map fun d => (⟨bellwetherOf n s.me k fold c ep count (s.destOf fold d.2 d.1, d.2), false, false, [], 0⟩ : Queued)
  let s1 := s.modPad n fun q =>
    let q1 := match c.incoming with
      | some j => if c.run.isSome then q.goLive j else q
      | none => q
    { q1.setCtx k (if c.run.isSome then { c with st := .standby, t := 0, slips := 0, bwGot := 0 } else { PCtx.initial with fold := c.fold }) with
        plan := q1.plan.filter (· ≠ k), outbox := q1.outbox ++ bells, pos := 0 }
  let s2 := s1.modFold fold fun (f : Fold) =>
    { f with transition := f.transition.map fun (x : Transition) => { x with outgoing := x.outgoing.filter fun o => o ≠ (n, k) }
             epoch := if c.run.isSome && newerEpoch f.epoch ep then ep else f.epoch
             transitions := if c.run.isSome && newerEpoch f.epoch ep then f.transitions + 1 else f.transitions }
  s2.transitionEnds fold

/-- A retiring context whose occupancy reads zero leaves the plan (R186, R530). -/
def execContextLeavePlan (n : Pad) (k : CtxIx) (t : Time) (s : State) : Host.Outcome State Fault Refusal :=
  .next (s.event t (fun s => ((s.pad n.val).ctx k.val).st = .retiring && s.occupancy n.val k.val = 0) fun s => s.leavePlan n.val k.val)

/-- The re-read of a double-bit word: transient, or lasting and the paddock fails (R245, R246, R266, R267, R273). -/
def execEccRereadVerdict (n : Pad) (m : Fin 4) (good : Bool) (t : Time) (s : State) : Host.Outcome State Fault Refusal :=
  .next (s.event t (fun s => ((s.pad n.val).coarse.m m.val).held.isSome) fun s =>
    let n := n.val
    let p := s.pad n
    let k := (((p.coarse.m m.val).held).getD 0) / 2
    let s1 := s.setPad n { p with coarse := p.coarse.setM m.val { p.coarse.m m.val with held := none } }
    if good then s1.count .paddock n tdEccTransient else s1.padDoubt n (p.foldAt k) .eccLasting)

/-- A residue re-execution: transient, or a mismatch after retry that fails the paddock (R264–R267, R270, R275). -/
def execResidueVerdict (n : Pad) (v : Fin 4) (good : Bool) (t : Time) (s : State) : Host.Outcome State Fault Refusal :=
  .next (s.event t (fun s => ((s.pad n.val).coarse.v v.val).reexec.isSome) fun s =>
    let n := n.val
    let p := s.pad n
    let k := ((p.coarse.v v.val).reexec).getD 0
    let s1 := (s.setPad n { p with coarse := p.coarse.setV v.val { p.coarse.v v.val with reexec := none } })
    if good then s1.count .paddock n tdResidue else s1.padDoubt n (p.foldAt k) .residue)

/-- A return of an HBMX request of M-unit `m` is taken up, to be written at its offset by the run's AG (R252, R340). -/
def takeReturn (m : MUnit) (f : Flit) : MUnit :=
  let tag := f.tag.toNat
  let key := 2 * (tag / 2 ^ 14) + tag / 2 ^ 13 % 2
  let no := tag % 2 ^ 13
  match m.runs.find? fun r => r.1 = key with
  | none => m
  | some (_, r) =>
    match r.hbm with
    | none => m
    | some h =>
      match h.out.find? fun o => o.1 % 2 ^ 13 = no with
      | none => m
      | some o =>
        let units := ceilDiv o.2.1.len 64
        let upd (h' : HbmRun) : MUnit :=
          ({ m with runs := m.runs.map fun (x : Nat × AgRun) => if x.1 = key then (key, { x.2 with hbm := some h' }) else x } : MUnit).endRuns
        if f.seq = 255 then
          if bitsOf (payWord f.payload 0) 0 4 = 0 then upd { h with out := h.out.filter fun x => x.1 ≠ o.1 } else m
        else
          let u := f.seq.toNat
          let bs := (payBytes f.payload).take (min 64 (o.2.1.len - 64 * u))
          upd { h with
            back := h.back ++ [(o.2.1.off + 64 * u, bs)]
            out := if o.2.2 + 1 < units then h.out.map fun x => if x.1 = o.1 then (x.1, x.2.1, x.2.2 + 1) else x
              else h.out.filter fun x => x.1 ≠ o.1 }

/-- An HBM return reaches an M-unit: placed at its offset, or a stray; an error status is a doubt trigger
(R252, R253, R272, R352, R375, R384). -/
def execHbmxReturn (n : Pad) (m : Fin 4) (t : Time) (s : State) : Host.Outcome State Fault Refusal :=
  .next (s.event t (fun s => (s.pad n.val).returns.any fun f => f.endpt.toNat = 4 + m.val) fun s =>
    let n := n.val
    let p := s.pad n
    match p.returns.find? fun f => f.endpt.toNat = 4 + m.val with
    | none => s
    | some f =>
      let k := f.ctx.toNat
      let c := p.ctx k
      let p1 := { p with returns := dropFirst (fun g => decide (g = f)) p.returns }
      if (c.st ≠ .live && c.st ≠ .retiring) || c.epoch ≠ f.epoch then (s.setPad n p1).strayAt f
      else
        let mu := takeReturn (p.coarse.m m.val) f
        (s.setPad n { p1 with coarse := p1.coarse.setM m.val mu }).memStatus n f)

end Sys2Proof.Machine
end

