-- ==== Sys2Proof/Machine/LedgerOps.lean ====
section
/-! DEFINITION. The lease ledger: snapshots, records and the ring in flash (R855, R859–R871, Tables TALLY-4, TALLY-5). -/
namespace Sys2Proof.Machine

open Sys2Proof

/-- Milliseconds of a moment by the controller's clock. -/
def State.msOf (s : State) (t : Time) : Nat := s.clockAt t / msec

/-- The slots of the ledger ring. -/
def ringSlots : Nat := 114688

/-- Whether the controller's clock is undisciplined: no PTP master heard since the boot, or for 10 s (R859). -/
def State.undisciplined (s : State) : Bool :=
  match s.ptpHeard with
  | none => true
  | some h => decide (h + 10 * second ≤ s.now)

/-- The sum of a channel tally over every channel of a fold. -/
def State.chanSum (s : State) (fold : Nat) (p : Nat → Bool) : Nat :=
  ((s.tallies.filter fun x => x.1.scope = .channel && x.1.id / 67108864 = fold && p x.1.idx).map fun x => x.2.toNat).sum

/-- The counters an INTERVAL record is formed from: the tallies of R855, then RESULT, DEFERRED and REFUSED replies, then
doubt entries, migrations, restarts and checkpoints. -/
def State.leaseSnap (s : State) (fold : Nat) : List Nat :=
  ([tfLeasePad, tfLeaseSlot, tfCreditPad, tfCreditSlot, tfThrottled, tfPage].map fun i => (s.tally ⟨.fold, fold, i⟩).toNat)
    ++ [s.chanSum fold (· = tcResult), s.chanSum fold (· = tcDeferred), s.chanSum fold fun i => decide (3 ≤ i) && decide (i ≤ 12)]
    ++ ([tfDoubt, tfMigrate, tfRestart, tfCheckpoint].map fun i => (s.tally ⟨.fold, fold, i⟩).toNat)

/-- A record with its tag: the first 16 bytes of the HMAC under KLDG (R862). -/
def sealRecord (body : List Byte) : List Byte :=
  slice body 0 112 ++ slice (Config.hmac [0x4C, 0x44, 0x47] (slice body 0 112)) 0 16

/-- The first 44 bytes of a record. -/
def recordHead (kind fold flags seq serial inc recNo start dur : Nat) : List Byte :=
  leBytes 4 0x5244474C ++ leBytes 1 1 ++ leBytes 1 kind ++ leBytes 1 fold ++ leBytes 1 flags ++ leBytes 8 seq ++ leBytes 8 serial
    ++ leBytes 4 inc ++ leBytes 4 recNo ++ leBytes 8 start ++ leBytes 4 dur

/-- Hold a record in the controller: the oldest of 65,536 goes (R868). -/
def State.holdRecord (s : State) (r : List Byte) : State :=
  { s with ledgerHeld := (s.ledgerHeld ++ [r]).drop (s.ledgerHeld.length + 1 - 65536) }

/-- Write one record to the ring: each failed read-back takes the next slot, with its bell; after 16 the ring is stopped. -/
def State.ringPut (r : List Byte) : Nat → List Bool → State → State
  | 0, _, s => (({ s with ledgerStopped := true }).holdRecord r).ring "ledger" true [("state", .word "failed")]
  | n + 1, rb, s =>
    let slot := s.flash.ringNext % ringSlots
    let put (x : List Byte) : State :=
      { s with flash := { s.flash with ring := tabSet [] s.flash.ring slot x, ringNext := (slot + 1) % ringSlots } }
    if rb.headD true then put r
    else State.ringPut r n rb.tail ((put []).ring "ledger" false [("seq", .num (leNat (slice r 8 8))), ("state", .word "rewrite")])

/-- Give a record the next wafer sequence and write it; nothing is written while the flash is frozen (R597, R861, R868, R869). -/
def State.writeRecord (s : State) (body : Nat → List Byte) (rb : List Bool) : State :=
  if s.frozen then s
  else
    let r := sealRecord (body s.ledgerSeq)
    let s1 := { s with ledgerSeq := s.ledgerSeq + 1 }
    if s1.ledgerStopped then s1.holdRecord r else State.ringPut r 16 rb s1

/-- An INTERVAL record from the differences of two snapshots (R860, Tables TALLY-4, TALLY-5). -/
def State.intervalBody (s : State) (f : Fold) (final late : Bool) (seq : Nat) : List Byte :=
  let now := s.leaseSnap f.id
  let d (i : Nat) : Nat := now.getD i 0 - f.snap.getD i 0
  let flags := (if f.recNo = 0 then 1 else 0) + (if final then 2 else 0) + (if f.ptpLost || s.undisciplined then 4 else 0) + (if late then 8 else 0)
  let stop := if final then s.now else f.ivStart + 60 * second
  let ev := (List.range 4).foldl (fun a i => a + min 255 (d (9 + i)) * 2 ^ (8 * i)) 0
  recordHead 1 f.id flags seq s.fuses.serial.toNat f.inc f.recNo (s.msOf f.ivStart) ((stop - f.ivStart) / msec)
    ++ leBytes 4 (d 0) ++ leBytes 4 (d 1) ++ leBytes 4 (d 2) ++ leBytes 4 (d 3) ++ leBytes 4 (d 4) ++ leBytes 4 (d 5)
    ++ leBytes 8 (d 6) ++ leBytes 8 (d 7) ++ leBytes 8 (d 8) ++ leBytes 4 ev ++ leBytes 1 (foldCode f.st) ++ leBytes 1 f.epoch

/-- The leased pages of a fold: linear, session quota and checkpoint (R855). -/
def Fold.pageCount (f : Fold) : Nat := f.pages.length + f.squota + f.cpages

/-- Whether a fold's creation has not ended, so that nothing accrues yet (R441). -/
def State.making (s : State) (f : Fold) : Bool := f.st = .created && s.waits.any fun w => w.why = .fold f.id

/-- A second of a fold's lease, or what has passed of it, is counted: what it held at any instant of it (R441, R855, R871). -/
def State.leaseSecondOf (s : State) (f : Fold) : State :=
  if f.release.isSome || s.making f then s
  else
    let held := (f.heldSec ++ f.excl ++ f.slots.map fun (q : Nat × Nat) => 10000 + 4 * q.1 + q.2).eraseDups
    let np := (held.filter fun x => decide (x < 10000)).length
    let ns := held.length - np
    let credit := f.credited || f.st = .migrating || f.st = .doubt || f.st = .stopped
    let hot := f.throttled ++ f.pads.filter fun n => (s.field (fieldOf n)).throttle
    let nt := (f.pads.filter fun n => hot.contains n).length
    let ctxs := (f.excl.flatMap fun n => (List.range 4).map fun k => (n, k)) ++ f.slots
    let s2 := (((s.addTally .fold f.id (if credit then tfCreditPad else tfLeasePad) np).addTally .fold f.id
      (if credit then tfCreditSlot else tfLeaseSlot) ns).addTally .fold f.id tfThrottled nt).addTally .fold f.id tfPage f.pageCount
    ctxs.foldl (fun s q => (s.count .paddock q.1 (tdCtx q.2 4)).addTally .paddock q.1 (tdCtx q.2 5) (if credit then 1 else 0)) s2

/-- An interval that has ended without its record when another controller becomes active: that one writes it, with flag bit 3 (R865). -/
def State.lateIntervals (s : State) : State :=
  { s with folds := s.folds.map fun (f : Fold) =>
      { f with lateShc := f.lateShc || (!s.making f && decide (f.ivStart + 60 * second ≤ s.now)) } }

/-- Write the record of the interval that ends, and begin the next (R860, R865, R866). -/
def State.closeInterval (s : State) (id : Nat) (final : Bool) (rb : List Bool) : State :=
  match s.foldOf id with
  | none => s
  | some f =>
    let s1 := s.writeRecord (s.intervalBody f final f.lateShc) rb
    s1.modFold id fun (g : Fold) =>
      { g with recNo := g.recNo + 1, snap := s.leaseSnap id, ivStart := if final then s.now else g.ivStart + 60 * second,
               ptpLost := s.undisciplined, lateShc := false }

/-- A SCRUB record (R863). -/
def State.scrubBody (s : State) (x : Scrub) (seq : Nat) : List Byte :=
  recordHead 2 x.fold 0 seq s.fuses.serial.toNat x.inc x.recNo (s.msOf x.since) ((s.now - x.since) / msec)
    ++ leBytes 4 x.scrubbed ++ leBytes 4 x.sheared ++ leBytes 4 x.slots

/-- A GAP record after the last INTERVAL of an incarnation (R864). -/
def State.gapBody (s : State) (last : List Byte) (seq : Nat) : List Byte :=
  let stop := leNat (slice last 32 8) + leNat (slice last 40 4)
  recordHead 3 (leNat (slice last 6 1)) 0 seq s.fuses.serial.toNat (leNat (slice last 24 4)) (leNat (slice last 28 4) + 1) stop
      (min (2 ^ 32 - 1) (s.msOf s.now - stop))
    ++ leBytes 4 (if s.vstby then 1 else 2)

/-- The records of the ring and of the controller, each sequence once, ascending. -/
def State.records (s : State) : List (List Byte) :=
  ((s.flash.ring.map fun p => p.2) ++ s.ledgerHeld).mergeSort fun a b => decide (leNat (slice a 8 8) ≤ leNat (slice b 8 8))

/-- The last record of each incarnation that a reset left unsigned (R864). -/
def State.unsigned (s : State) : List (List Byte) :=
  let key (r : List Byte) : Nat := leNat (slice r 24 4)
  let rs := s.flash.ring.map fun p => p.2
  let lastOf (k : Nat) : List Byte := (rs.filter fun r => key r = k).foldl (fun a r =>
    if a.isEmpty || leNat (slice a 8 8) < leNat (slice r 8 8) then r else a) []
  ((rs.map key).eraseDups.map lastOf).filter fun r => leNat (slice r 5 1) = 1 && leNat (slice r 7 1) / 2 % 2 = 0

/-- One GAP record for each of them (R864). -/
def State.writeGaps (s : State) : State := s.unsigned.foldl (fun s r => s.writeRecord (s.gapBody r) []) s

end Sys2Proof.Machine
end

