-- ==== Sys2Proof/Machine/Ledger.lean ====
section
/-! DEFINITION. Tallies, bells and the ledger at the console and at their moments (*Tallies, bells and the lease ledger*,
Table CMD-13). -/
namespace Sys2Proof.Machine

open Sys2Proof

/-- A fold's 60 s interval ends (R860, R865, R867–R870). -/
def execLedgerIntervalEnd (fold : Nat) (readBack : List Bool) (t : Time) (s : State) : Host.Outcome State Fault Refusal :=
  .next (s.event t (fun s => s.active.isSome && (match s.foldOf fold with
      | some f => decide (f.ivStart + 60 * second ≤ s.now) && f.release.isNone && !s.making f
      | none => false)) fun s => s.closeInterval fold false readBack)

/-- The ring is tried again: the held records are written in order while their read-backs pass (R868). -/
def execLedgerRingRetry (readBack : List Bool) (t : Time) (s : State) : Host.Outcome State Fault Refusal :=
  .next (s.event t (fun s => s.ledgerStopped && !s.frozen && s.active.isSome) fun s =>
    let slot := s.flash.ringNext % ringSlots
    if readBack.headD true then
      let s1 := s.ledgerHeld.foldl (fun s r => State.ringPut r 16 [] s) { s with ledgerStopped := false, ledgerHeld := [] }
      s1.ring "ledger" false [("state", .word "ok")]
    else { s with flash := { s.flash with ring := tabSet [] s.flash.ring slot [], ringNext := (slot + 1) % ringSlots } })

/-- Each second the lease, credit, throttle and page tallies grow (R441, R855, R871). -/
def execLeaseSecond (t : Time) (s : State) : Host.Outcome State Fault Refusal :=
  .next (s.event t (fun _ => true) fun s =>
    let s1 := s.folds.foldl (fun s f => s.leaseSecondOf f) s
    let s2 := (s1.pads.filter fun p => (s1.field (fieldOf p.1)).throttle && p.2.power ≠ .dark).foldl
      (fun s p => s.count .paddock p.1 tdThrottledS) s1
    { s2 with secondAt := s.now, folds := s2.folds.map fun (f : Fold) =>
        { f with credited := f.st = .migrating || f.st = .doubt || f.st = .stopped, heldSec := [],
                 throttled := f.pads.filter fun n => (s2.field (fieldOf n)).throttle } })

/-- No PTP master heard for 10 s: the intervals that cover the time carry the flag (R859). -/
def execPtpSilence (t : Time) (s : State) : Host.Outcome State Fault Refusal :=
  .next (s.event t (fun s => s.undisciplined) fun s =>
    { s with folds := s.folds.map fun (f : Fold) => { f with ptpLost := true } })

/-! Console. -/

/-- The tallies a scope names, in the order of Table TALLY-1. -/
def tallyNames : Scope → List String
  | .port =>
    ["rx_frames", "replies", "unclassified", "ticket", "bad_fcs", "length_mismatch", "corrected_unread",
     "early_forwards", "reruns", "stomped", "overrun", "pause_dropped", "idle_dropped", "link_fault", "result_long",
     "result_short"]
  | .channel =>
    ["requests", "result", "deferred", "refused_1", "refused_2", "refused_3", "refused_4", "refused_5", "refused_6",
     "refused_7", "refused_8", "refused_9", "refused_10", "reruns", "wait_ns"]
  | .fold =>
    ["slip_inlet", "slip_output", "slip_fine", "slip_unit", "watchdog", "saturation", "operand_range", "nonfinite",
     "stray", "session_skip", "session_bounds", "stile_sent", "route_miss", "forced_retire", "transition_wait",
     "doubt", "migrate", "restart", "checkpoint", "lease_paddock_s", "lease_slot_s", "credit_paddock_s",
     "credit_slot_s", "throttled_paddock_s", "page_s"]
  | .paddock =>
    ["ecc_corrected", "ecc_transient", "residue_transient", "crook_drop", "dock_stray", "fuse_trip", "thermal_trip",
     "clock_loss", "sensor_fail", "field_supply", "field_throttle_steps"]
  | .link =>
    ["flits", "transient", "lasting", "malformed", "stile", "credit_violation", "stray", "detour_flits"]
  | .ned =>
    ["pen_entered", "pen_released", "pen_removed", "in_flight_max", "reread_transient"]
  | .med =>
    ["corrected", "reread_transient", "retired", "stile", "unmapped", "revoked", "parity_transient",
     "throttle_cycles", "scrubbed_pages"]
  | .spd =>
    ["corrected_symbols", "transient", "lasting", "duplicate", "malformed", "credit_violation", "stile", "stray",
     "relay_flits"]

/-- How many tallies a scope names. -/
def scopeSize (sc : Scope) : Nat := (tallyNames sc).length

/-- The object of a tally's key (Table TALLY-1). -/
def scopeOf : Scope → TScope
  | .port => .port
  | .channel => .channel
  | .fold => .fold
  | .paddock => .paddock
  | .link => .link
  | .ned => .ned
  | .med => .med
  | .spd => .spd

/-- The key of an object's tally: the two field names of a paddock are its field's. -/
def tallyKey (sc : Scope) (id i : Nat) : TKey :=
  if sc = .paddock && decide (9 ≤ i) then ⟨.paddock, 4096 + fieldOf id, i⟩ else ⟨scopeOf sc, id, i⟩

/-- Whether an object of a scope exists. -/
def State.scopeHas (s : State) (sc : Scope) (id : Nat) : Bool :=
  match sc with
  | .port => decide (id < 192)
  | .channel => s.channels.any fun c => c.handle.toNat = id
  | .fold => (s.foldOf id).isSome
  | .paddock => decide (id < 1344)
  | .link => decide (id < 4 * 5376)
  | .ned => decide (id < 24)
  | .med => decide (id < 12)
  | .spd => decide (id < 16)

/-- `show tally`: the tallies of one object, or one of them (R839, R853). -/
def execShowTally (scope : Scope) (id : Nat) (name : Option Nat) (ln : Ln) (s : State) : Host.Outcome State Fault Refusal :=
  .next (s.judged ln .view true fun s =>
    if !s.scopeHas scope id then s.err ln 401 [("object", .word "tally")]
    else
      let line (i : Nat) : KVs := [("name", .word ((tallyNames scope).getD i "")), ("value", .num (s.tally (tallyKey scope id i)).toNat)]
      match name with
      | some i => if i < scopeSize scope then s.parts ln [line i] [] else s.err ln 401 [("object", .word "name")]
      | none => s.parts ln ((List.range (scopeSize scope)).map line) [])

/-- `show bells` (R942). -/
def execShowBells (since : Option Nat) (fault : Option Bool) (count : Option Nat) (ln : Ln) (s : State) : Host.Outcome State Fault Refusal :=
  .next (s.judged ln .view true fun s =>
    let n := count.getD 1024
    s.inRange ln "count" n 1 1024 fun s =>
      let all := (s.bells.filter fun b => match since with
        | some q => decide (q < b.seq) && !b.prior
        | none => true).filter fun b => match fault with
        | some c => b.fault = c
        | none => true
      let sel := match since with
        | some _ => all.take n
        | none => all.drop (all.length - n)
      s.parts ln (sel.map fun b => [("seq", .num b.seq), ("time", .time b.t), ("line", .word b.obj)] ++ b.kv) [])

/-- `show ledger` (R868, R942). -/
def execShowLedger (fold : Nat) (since : Option Nat) (count : Option Nat) (ln : Ln) (s : State) : Host.Outcome State Fault Refusal :=
  .next (s.judged ln .view true fun s =>
    let n := count.getD 1024
    s.inRange ln "fold" fold 1 63 fun s => s.inRange ln "count" n 1 1024 fun s =>
      let rs := (s.records.filter fun r => leNat (slice r 6 1) = fold && decide (since.getD 0 ≤ leNat (slice r 8 8))).take n
      s.parts ln (rs.map fun r => [("seq", .num (leNat (slice r 8 8))), ("data", .bytes r)]) [])

/-- `verify ledger`: the HMAC of one record under KLDG (R768, R862). -/
def execVerifyLedger (data : List Byte) (ln : Ln) (s : State) : Host.Outcome State Fault Refusal :=
  .next (s.judged ln .view true fun s =>
    if data.length ≠ 128 then s.err ln 115 [("key", .word "data")]
    else s.ok ln [("valid", .word (if sealRecord data = data then "yes" else "no")), ("fold", .num (leNat (slice data 6 1))),
      ("seq", .num (leNat (slice data 8 8)))])

end Sys2Proof.Machine
end

