-- ==== Sys2Proof/Machine/Zero.lean ====
section
/-! DEFINITION. The windows of contexts, and zeroing what a context or slot holds (R136, R175, R212, R231, R240, R464, R948). -/
namespace Sys2Proof.Machine

open Sys2Proof

/-! Windows (R175, R231, R240). -/

def fwRegBase (w : DWord) : Nat := bitsOf w 12 5
def fwRegCnt (w : DWord) : Nat := bitsOf w 17 6

/-- Whether register, scratch byte or M-unit byte lies in a context's window. -/
def fwHasReg (w : DWord) (r : Nat) : Bool := fwRegBase w ≤ r && r < fwRegBase w + fwRegCnt w
def fwHasScr (w : DWord) (a : Nat) : Bool := 256 * fwScrBase w ≤ a && a < 256 * (fwScrBase w + fwScrSize w)
def cwHasByte (w : DWord) (a : Nat) : Bool := 65536 * cwMbase w ≤ a && a < 65536 * (cwMbase w + cwMsize w)

/-- Whether the windows of two contexts of a paddock overlap. -/
def windowsOverlap (fine : Bool) (a b : DWord) : Bool :=
  let meet (x n y m : Nat) : Bool := x < y + m && y < x + n
  if fine then meet (fwRegBase a) (fwRegCnt a) (fwRegBase b) (fwRegCnt b) || meet (fwScrBase a) (fwScrSize a) (fwScrBase b) (fwScrSize b)
  else meet (cwMbase a) (cwMsize a) (cwMbase b) (cwMsize b)

/-! Zeroing. -/

/-- Zero the schedule, router word, descriptors and flags of a context. -/
def Tile.zeroCtx (t : Tile) (k : Nat) : Tile :=
  { t.dropCtx k with
    sched := t.sched.filter fun e => e.1 / 128 ≠ k, router := tabDel t.router k, descs := t.descs.filter fun e => e.1 / 4 ≠ k
    flags := tabDel t.flags k, tagr := tabDel t.tagr k, turn := tabDel t.turn k }

def Tile.zeroWindow (t : Tile) (w : DWord) : Tile :=
  { t with regs := t.regs.filter fun e => !fwHasReg w e.1, scratch := t.scratch.filter fun e => !fwHasScr w e.1 }

/-- Zero the command stream, descriptors, weight buffers and session register of a context. -/
def Coarse.zeroCtx (c : Coarse) (k : Nat) : Coarse :=
  let d := c.dropCtx k
  { d with
    cmds := d.cmds.filter fun e => e.1 / 256 ≠ k, descs := d.descs.filter fun e => e.1 / 16 ≠ k, sat := tabDel d.sat k
    sess := d.sess.filter fun e => e.1 ≠ k, taken := d.taken.filter fun e => e.1 / 16 ≠ k
    mu := d.mu.map fun (m : MUnit) =>
      { m with agDesc := m.agDesc.filter fun e => e.1 / 32 ≠ k, hbmDesc := m.hbmDesc.filter fun e => e.1 / 16 ≠ k, tagr := tabDel m.tagr k,
               held := m.held.filter fun h => h / 2 ≠ k }
    vu := d.vu.map fun (v : VUnit) =>
      { v with sdesc := v.sdesc.filter fun e => e.1 / 32 ≠ k, wbuf := v.wbuf.filter fun e => e.1 / 16384 ≠ k,
               filled := v.filled.filter fun e => e.1 / 2 ≠ k, active := tabDel v.active k, trans := v.trans.filter fun e => e.1 ≠ k,
               tagr := tabDel v.tagr k } }

def Coarse.zeroWindow (c : Coarse) (w : DWord) : Coarse :=
  { c with mu := c.mu.map fun (m : MUnit) =>
      { m with sram := m.sram.filter fun e => !cwHasByte w e.1, wpend := m.wpend.filter fun e => !cwHasByte w e.2.1 } }

/-- Zero the parameter and accumulator rows of a SHARED slot (R231). -/
def Coarse.zeroRows (c : Coarse) (k : Nat) : Coarse :=
  let mine (row : Nat) : Bool := (32 * k ≤ row && row < 32 * k + 32) || (128 + 16 * k ≤ row && row < 144 + 16 * k)
  { c with vu := c.vu.map fun (v : VUnit) =>
      { v with param := v.param.filter fun e => !mine (e.1 / 256), acc := v.acc.filter fun e => e.1 / 64 / 16 ≠ k } }

/-- The context word that a SHARED slot has (R176, R231), its period and limits aside. -/
def slotWord (fine : Bool) (k : Nat) : DWord :=
  if fine then BitVec.ofNat 64 (2 ^ 12 * (8 * k) + 2 ^ 17 * 8 + 2 ^ 23 * (4 * k) + 2 ^ 27 * 4)
  else BitVec.ofNat 64 (2 ^ 21 * (8 * k) + 2 ^ 26 * 8)

/-- Zero a context of a paddock and what its window holds; `w` none keeps the window (a HANDOVER, R525). -/
def Paddock.zeroCtx (p : Paddock) (n k : Nat) (w : Option DWord) : Paddock :=
  let q := p.shearCtx k
  if isFine n then
    { q with fine := tabMap Tile.initial q.fine fun _ t =>
        match w with
        | some x => (t.zeroCtx k).zeroWindow x
        | none => t.zeroCtx k }
  else
    { q with coarse := match w with
        | some x => (q.coarse.zeroCtx k).zeroWindow x
        | none => q.coarse.zeroCtx k }

/-- Zero one SHARED slot (Table FOLD-6 step 3). -/
def Paddock.zeroSlot (p : Paddock) (n k : Nat) : Paddock :=
  let q := p.zeroCtx n k (some (slotWord (isFine n) k))
  if isFine n then q else { q with coarse := q.coarse.zeroRows k }

end Sys2Proof.Machine
end

