-- ==== Sys2Proof/Machine/FoldOps.lean ====
section
/-! DEFINITION. What the fold commands share: leases of paddocks, slots and pages, hurdles, shears and credits, keys,
channels and their bindings, sessions' windows, the pen, and the release of a fold (*Folds, channels and tenant isolation*,
R436–R474; R326–R331, R364–R373). -/
namespace Sys2Proof.Machine

open Sys2Proof

/-- Judge a list of refusals in order; the first that holds is the answer. -/
def State.guard (s : State) (ln : Ln) (cs : List (Bool × Nat × KVs)) (body : State) : State :=
  match cs.find? fun c => c.1 with
  | some c => s.err ln c.2.1 c.2.2
  | none => body

/-- A refusal of E-501 in such a list. -/
def why (c : Bool) (w : String) : Bool × Nat × KVs := (c, 501, [("why", .word w)])

/-! Keys (R457, R458, R766, R767). -/

/-- The label of a fold's KHBM and KCKP: its ID, incarnation and the ordinal of its random value. -/
def foldKey (id inc ord : Nat) : KeyLabel := leBytes 1 id ++ leBytes 4 inc ++ leBytes 8 ord

/-- The label KIMG is derived under: the lineage label and the wafer's serial. -/
def kimgLabel (lineage : List Byte) (serial : Nat) : KeyLabel := lineage ++ leBytes 8 serial

def Fold.key (f : Fold) : KeyLabel :=
  match f.secret with
  | some o => foldKey f.id f.inc o
  | none => []

/-! Paddocks and slots (R437–R439, R445, R464, R544). -/

/-- Paddocks of `Loc`s that are not slots; none where one does not exist. -/
def locPadsOnly (ls : List Loc) : Option (List Nat) :=
  locList (ls.filter fun l => match l with
    | .slot _ _ _ => false
    | _ => true)

def locSlotsOnly (ls : List Loc) : Option (List (Nat × Nat)) :=
  locSlots (ls.filter fun l => match l with
    | .slot _ _ _ => true
    | _ => false)

/-- Whether a paddock may be leased at all (R65). -/
def State.placeable (s : State) (n : Nat) : Bool :=
  (s.entry n).st ≠ 2 && (s.entry n).st ≠ 3 && !(s.field (fieldOf n)).excluded && !(s.field (fieldOf n)).latched

/-- Bring a leased paddock to RUN: a DARK one joins the power-up wave; one whose retry is open comes by its verdict
(R439, R606, R610, R642). -/
def State.powerRun (s : State) (n : Nat) : State :=
  let p := s.pad n
  if p.tripped || p.retrying then s
  else if p.power ≠ .dark then s.modPad n fun p => { p with power := .run }
  else if p.soft then s.modPad n fun p => { p with goal := .run }
  else ({ s with wave := s.wave.filter fun w => w.1 ≠ n }).enqueueWave n .run

/-- Empty the fold-lane receive buffers of a paddock, of one fold or of all; what is discarded counts as strays (R146). -/
def State.dropBuffers (s : State) (n : Nat) (fold : Option Nat) : State :=
  (List.range 24).foldl (fun s i =>
    let x := padEnd n (i / 6)
    let lane := 1 + i % 6 / 2
    let vc := decide (i % 2 = 1)
    let b := (s.link x lane).buf vc
    let keep := match fold with
      | some f => b.filter fun q => q.flit.fold.toNat ≠ f
      | none => []
    let gone := b.length - keep.length
    if gone = 0 then s
    else
      let s1 := (s.modLink x lane fun l => (List.range gone).foldl (fun l _ => l.freed vc) (l.setBuf vc keep)).addTally .link (linkId x lane) tlStray gone
      (b.map fun q => q.flit.fold.toNat).eraseDups.foldl (fun (s : State) g => if fold.all fun f => f = g then s.noteStray g else s) s1) s

/-- Revoke a fold's credits at the borders of a paddock: its flits buffered there are strays, and so are those that come later, even
once its lease is gone (R146, R168). -/
def State.revokeFold (s : State) (n fold : Nat) : State :=
  (s.modPad n fun p =>
    { p with revoked := (p.revoked.filter fun r => r % 64 ≠ fold) ++ (List.range 4).map fun d => 64 * d + fold }).dropBuffers n (some fold)

/-- Hurdle a paddock and revoke a fold's credits at its borders (R145, R146, R464, R518). -/
def State.hurdleFor (s : State) (n fold : Nat) : State := (s.modPad n fun p => { p with hurdled := true }).revokeFold n fold

/-- A router starts: the last winner of every output counts as LOCAL, and VC 0 goes first (R139). -/
def State.startRouter (s : State) (n : Nat) : State :=
  (padLanes n).foldl (fun s q => s.modLink q.1 q.2 fun l => { l with winner0 := 4, winner1 := 4, vcTurn := false }) s

/-- Shear a paddock to zero: every context FREE, everything it holds zero, its router started again (R139, R544). -/
def State.shearPad (s : State) (n : Nat) : State := ((s.modPad n Paddock.shear).dropBuffers n none).startRouter n

/-- Shear one SHARED slot: its contexts, windows, parameter rows and accumulator rows (R464 step 3). -/
def State.shearSlot (s : State) (n k fold : Nat) : State := (s.modPad n fun p => p.zeroSlot n k).dropBuffers n (some fold)

/-- A fold's revocations at a paddock end, and the fold lanes of its borders are advertised as the leases stand (R141, R144,
R518 step 7). -/
def State.advertise (s : State) (n fold : Nat) : State :=
  (s.modPad n fun p => { p with revoked := p.revoked.filter fun r => r % 64 ≠ fold }).syncBorders n

/-- Lease paddocks EXCLUSIVE and slots SHARED to a fold: registers and stiles written, powered, zeroed and hurdled; a slot is
LOADING instead (R439, R445). -/
def State.leasePads (s : State) (id : Nat) (excl : List Nat) (slots : List (Nat × Nat)) : State :=
  let s1 := excl.foldl (fun s n =>
    ((s.modPad n fun p => { p with excl := id, left := false, masked := false, maskedCtx := [] }.writeStile).powerRun n).shearPad n |>.modPad n
      fun p => { p with hurdled := true }) s
  slots.foldl (fun s q =>
    ((s.modPad q.1 fun p =>
      let p1 := { p with slots := listSet p.slots q.2 id, maskedCtx := p.maskedCtx.filter (· ≠ q.2), hurdled := if p.leased then p.hurdled else false }
      p1.writeStile.setLoading q.2 true).powerRun q.1).shearSlot q.1 q.2 id) s1

/-- The power state of a paddock that has become unleased (R439, R464 step 5). -/
def State.settleUnleased (s : State) (n : Nat) : State :=
  let p := s.pad n
  let p1 : Paddock := { p with hurdled := false, masked := false, maskedCtx := [], left := false, yoke := none, plan := [] }
  let s1 := s.setPad n p1.writeStile
  match s1.homePower n with
  | .dark => if p.power = .dark then s1 else s1.goDark n
  | w =>
    if p.power ≠ .dark then s1.modPad n fun p => { p with power := w }
    else if p.soft then s1.modPad n fun p => { p with goal := w }
    else { s1 with wave := s1.wave.map fun x => if x.1 = n then (n, w) else x }

/-- A paddock leaves a fold: hurdled, credits revoked, sheared to zero, unleased (Table FOLD-6 steps 2, 3, 5). -/
def State.unleasePad (s : State) (n fold : Nat) : State :=
  let s1 := (s.hurdleFor n fold).shearPad n
  ((s1.modPad n fun p => { p with excl := 0 }).settleUnleased n).syncBorders n

/-- A slot leaves a fold (Table FOLD-6 steps 2, 3, 5). -/
def State.unleaseSlot (s : State) (n k fold : Nat) : State :=
  let s1 := (s.modPad n fun p => p.setLoading k true).shearSlot n k fold
  let s2 := s1.modPad n fun p => ({ p with slots := listSet p.slots k 0, maskedCtx := p.maskedCtx.filter (· ≠ k) }.setLoading k false).writeStile
  let s3 := if (s2.foldsOn n).contains fold then s2 else s2.revokeFold n fold
  (if (s3.pad n).leased then s3 else s3.settleUnleased n).syncBorders n

/-- The paddocks and slots of a fold held at some instant of this second (R855). -/
def Fold.heldNow (f : Fold) : List Nat := f.excl ++ f.slots.map fun (q : Nat × Nat) => 10000 + 4 * q.1 + q.2

/-! Pages (R364–R370, R380, R393, R438). -/

/-- The fold owns a rotation slot wherever rotation is on, in the assignment in force and in the one to come (R380). -/
def Med.ownsSlot (m : Med) (fold : Nat) : Bool :=
  !m.rotOn || (m.rotSlots.contains fold && (m.rotNext.all fun l => l.contains fold))

/-- Lease the lowest FREE page of a MED; a page that no request may address takes an index above every window's. -/
def State.leaseOne (s : State) (k fold : Nat) (space : Bool) (index : Option Nat) : Option (Nat × State) :=
  (findBelow (fun g => leState ((s.med k).lease g) = 0) 12288).map fun g =>
    (g, s.modMed k fun m => m.leasePage g fold space (index.getD (2 ^ 29 + g)))

/-- Lease pages one after another: MED, space, index. The answer is each one's MED and physical page. -/
def State.leaseAll (s : State) (fold : Nat) : List (Nat × Bool × Option Nat) → Option (List (Nat × Nat) × State)
  | [] => some ([], s)
  | (k, sp, ix) :: rest =>
    match s.leaseOne k fold sp ix with
    | none => none
    | some (g, s1) => (s1.leaseAll fold rest).map fun r => ((k, g) :: r.1, r.2)

/-- The pages asked of a quota or checkpoint set: page `i` on MED `i mod m`, from page `lo` on. -/
def spread (meds : List Nat) (lo n : Nat) : List (Nat × Bool × Option Nat) :=
  (List.range n).map fun i => (meds.getD ((lo + i) % max 1 meds.length) 0, true, none)

/-- The linear pages a list of runs names: index and MED. -/
def runPages (rs : List PageRun) : List (Nat × Nat) :=
  rs.flatMap fun r => (List.range (r.hi + 1 - r.lo)).map fun i => (r.lo + i, r.med)

/-- Load the fold's key slot on every MED of a list (R372, R439). -/
def State.loadKeys (s : State) (f : Fold) (ks : List Nat) : State :=
  ks.eraseDups.foldl (fun s k => s.modMed k fun m => { m with slots := tabSet [] m.slots f.id f.key }) s

/-- Revoke pages on their MEDs: queued requests are answered REVOKED, re-reads abandoned count as transient (R368, R387, R388). -/
def State.revokePages (s : State) (ps : List (Nat × Nat)) : State :=
  ps.foldl (fun s p =>
    if leState ((s.med p.1).lease p.2) ≠ 1 then s
    else
      let r := (s.med p.1).revoke p.2 false
      (((s.setMed p.1 { r.1 with abandoned := if r.2.2 = 0 then r.1.abandoned else (p.2, s.now) :: r.1.abandoned.filter fun a => a.2 = s.now }).medSend p.1 r.2.1).addTally .med p.1 tmRevoked r.2.1.length).addTally .med p.1 tmReread r.2.2) s

/-- Every page of a fold: MED and physical page. -/
def State.foldPhys (s : State) (f : Fold) : List (Nat × Nat) :=
  f.pages.map (fun p => (p.2.1, p.2.2)) ++ f.qphys ++ f.cphys
    ++ (s.sessions.filter fun x => x.2.fold = f.id).flatMap fun x => x.2.pages

/-! The pen and requests in the wafer (R455, R464, R489). -/

/-- Requests of all NEDs that satisfy a condition, with their NED. -/
def State.reqsWhere (s : State) (p : Nat → Req → Bool) : List (Nat × Req) :=
  (List.range 24).flatMap fun k => ((s.ned k).reqs.filter fun r => p k r).map fun r => (k, r)

/-- Refuse every request that satisfies a condition. -/
def State.refuseAll (s : State) (p : Nat → Req → Bool) (reason : Nat) : State :=
  (s.reqsWhere p).foldl (fun s q => s.refuseReq q.1 q.2 reason) s

/-- Refuse a fold's pen entries (Table ADMIT-3). -/
def State.penOut (s : State) (fold reason : Nat) : State := s.refuseAll (fun _ r => r.fold = fold && r.phase = .penned) reason

/-- The requests of a fold in the wafer, no reply of theirs begun. -/
def State.inWafer (s : State) (fold : Nat) : List (Nat × Req) := s.reqsWhere fun _ r => r.fold = fold && r.phase = .wafer

/-- Refuse what is still in the wafer (Table RECFG-3 step 2, Table FOLD-6 step 1). -/
def State.waferOut (s : State) (fold reason : Nat) : State := s.refuseAll (fun _ r => r.fold = fold && r.phase = .wafer) reason

/-! Channels (R450–R456, R482). -/

/-- Set the bindings of a handle on one NED, in one state, to another. -/
def Ned.rebind (n : Ned) (p : Nat × Binding → Bool) (f : Binding → Binding) : Ned :=
  { n with bindings := (n.bindings.map fun b => if p b then (b.1, f b.2) else b).filter fun b => b.2 ≠ Binding.empty }

/-- Recompute a fold's pen reservation on a NED from its bindings (R482). -/
def Ned.reservePen (n : Ned) (fold depth : Nat) : Ned :=
  let any := n.bindings.any fun b => b.2.state ≠ 0 && hdlFold b.2.handle = fold
  { n with pens := tabMod Pen.empty n.pens fold fun p => { p with cells := if any then penCells depth (n.maxReadlim fold) else 0 } }

/-- Whether a NED's reservations fit its pen storage (R482). -/
def Ned.penFits (n : Ned) : Bool := decide (n.cellsUsed ≤ 262144)

/-- Destroy a channel: its bindings CLOSED, its pen entries refused, its record CLOSED (R455). -/
def State.closeChannel (s : State) (c : Channel) : State :=
  let h := c.handle
  let s1 := { s with neds := s.neds.map fun (n : Ned) => n.rebind (fun b => b.2.state = 1 && b.2.handle = h) fun b => b.withState 2 }
  let s2 := s1.refuseAll (fun _ r => r.phase = .penned && r.bind.handle = h) rsClosed
  s2.putChannel { c with closed := true, binds := [] }

/-- Empty the CLOSED bindings of a channel index on every NED (R454). -/
def State.emptyClosed (s : State) (index : Nat) : State :=
  { s with neds := s.neds.map fun (n : Ned) =>
      let fs := ((n.bindings.filter fun b => b.2.state = 2 && hdlIndex b.2.handle = index).map fun b => hdlFold b.2.handle).eraseDups
      let n1 := n.rebind (fun b => b.2.state = 2 && hdlIndex b.2.handle = index) fun _ => Binding.empty
      fs.foldl (fun m f =>
        if m.bindings.any fun b => b.2.state ≠ 0 && hdlFold b.2.handle = f then m
        else { m with pens := tabMod Pen.empty m.pens f fun p => { p with cells := 0 } }) n1 }

/-- The edge port of a NED by which a fold's channel enters: the one whose paddock is DEST, else the first whose paddock the
fold holds; none where neither is leased to it (R84). -/
def State.eportFor (s : State) (ned fold dest : Nat) : Option Nat :=
  let mine (e : Nat) : Bool := (s.foldsOn (diePad (nedDest ned) e).1).contains fold
  let at_ (e : Nat) : Bool := (diePad (nedDest ned) e).1 = dest
  if at_ 0 && mine 0 then some 0 else if at_ 1 && mine 1 then some 1 else if mine 0 then some 0 else if mine 1 then some 1 else none

/-- The last byte of the MRQ in the shortest frame a binding takes (R84). -/
def mrqLast (v6 tagged : Bool) (mrqOff : Nat) : Nat :=
  (if mrqOff = 0x3FFF then (if v6 then 62 else 42) + (if tagged then 4 else 0) else mrqOff) + 15

/-- Write one binding of a channel: the refusals of R84, R305, R329, R480, R482 and R491 in order, or the state with it
written and its place. -/
def State.bindOne (s : State) (f : Fold) (e : Entry) (h ticket : Word) (deadline : Nat) (spec : Bool) (a : BindArg) :
    Sum (Nat × KVs) (Nat × State) :=
  let e : Entry := { e with dest := f.place e.dest }
  let n := s.ned a.ned
  let no (w : String) : Sum (Nat × KVs) (Nat × State) := .inl (501, [("why", .word w)])
  if a.ned ≥ 24 then .inl (401, [("object", .word "ned")])
  else if n.doubt then .inl (404, [("object", .word "ned"), ("state", .word "doubt")])
  else if a.port ≥ 8 then .inl (402, [("key", .word "bind"), ("min", .num 0), ("max", .num 7)])
  else if 8191 < a.bucket || 2047 < a.template || 4095 < a.vid.getD 0 || 65535 < a.udp.getD 0 then
    .inl (402, [("key", .word "bind"), ("min", .num 0), ("max", .num 8191)])
  else
    let v6 := a.v6
    let udp := a.udp.getD 46112
    let cls := e.cls.bind fun c => f.image.bind fun im => im.cls c
    let beyond := match cls with
      | some c => decide (e.readlim < c.posOff + 3) || (match c.appOff with
          | some o => decide (e.readlim < o + 3)
          | none => false)
      | none => false
    let same (b : Nat × Binding) : Bool :=
      b.2.state ≠ 0 && b.2.port = a.port && b.2.ip6 = v6 && b.2.tagged = a.vid.isSome && (a.vid.isNone || b.2.vid = a.vid.getD 0)
        && b.2.udpPort = udp && b.2.addr = a.addr && hdlFold b.2.handle = f.id && hdlIndex b.2.handle = hdlIndex h
    match s.eportFor a.ned f.id e.dest with
    | none => no "dest"
    | some ep =>
      if n.bindings.any same then no "binding"
      else if e.readlim < mrqLast v6 a.vid.isSome e.mrqOff || e.readlim < e.last || beyond then no "readlim"
      else if cls.isSome && (isFine e.dest || !f.pads.contains e.dest) then no "dest"
      else if spec && (cls.isSome || e.writes) then no "binding"
      else if cls.isNone && deadline ≠ 0 && deadline < e.q then no "deadline-below-q"
      else if (n.bucket a.bucket).fold ≠ f.id && (s.foldOf (n.bucket a.bucket).fold).isSome then no "bucket-owner"
      else
        match findBelow (fun i => (n.binding i).state = 0) 8192 with
        | none => .inl (405, [("object", .word "binding"), ("max", .num 8192)])
        | some i =>
          let b := mkBinding 1 v6 a.vid.isSome a.port spec (a.vid.getD 0) a.template udp e.mrqOff a.addr h ticket e.readlim e.dest
            e.endpt e.ctx ep deadline a.bucket
          let n1 := ({ n with bindings := tabSet Binding.empty n.bindings i b } : Ned).reservePen f.id f.pen
          if n1.penFits then .inr (i, (s.setNed a.ned n1).clearTallies .binding (8192 * a.ned + i)) else no "pen-space"

/-- Write every binding of a list, or none (R453). -/
def State.bindAll (s : State) (f : Fold) (e : Entry) (h ticket : Word) (deadline : Nat) (spec : Bool) :
    List BindArg → Sum (Nat × KVs) (List (Nat × Nat) × State)
  | [] => .inr ([], s)
  | a :: as =>
    match s.bindOne f e h ticket deadline spec a with
    | .inl x => .inl x
    | .inr (i, s1) =>
      match s1.bindAll f e h ticket deadline spec as with
      | .inl x => .inl x
      | .inr r => .inr ((a.ned, i) :: r.1, r.2)

/-! Sessions (R330, R331, R337). -/

/-- Take a window's pages from the fold's quota: page `k` from the MED of `S[k mod m]`; none when the quota cannot cover it. -/
def takeWindow (smeds : List Nat) : Nat → Nat → List (Nat × Nat) → Option (List (Nat × Nat) × List (Nat × Nat))
  | 0, _, q => some ([], q)
  | n + 1, k, q =>
    match q.find? fun p => p.1 = smeds.getD (k % max 1 smeds.length) 12 with
    | none => none
    | some p => (takeWindow smeds n (k + 1) (dropFirst (fun x => decide (x = p)) q)).map fun r => (p :: r.1, r.2)

/-- A session becomes FREE: its pages return to the quota, its pen entries are refused, its close is answered (R331). -/
def State.freeSession (s : State) (num : Nat) : State :=
  let x := s.session num
  let s1 := s.refuseAll (fun k r => k = x.anchor && r.phase = .penned && r.session = some num) rsSessionLimit
  let s2 := x.pages.foldl (fun s p =>
    if leState ((s.med p.1).lease p.2) = 1 then s.modMed p.1 fun m => m.leasePage p.2 x.fold true (2 ^ 29 + p.2) else s) s1
  let s3 := s2.modFold x.fold fun (f : Fold) =>
    { f with qphys := f.qphys ++ x.pages.filter fun p => leState ((s2.med p.1).lease p.2) = 1 }
  (s3.setSession num Session.initial).settle (fun w => w = .session num) (.ok [("num", .num num), ("state", .word "free")])

/-! The wafer's image decryption (R676). -/

/-- A restart or a migration by checkpoint has the image decryption. -/
def State.decrypterTaken (s : State) : Bool :=
  s.folds.any fun (f : Fold) => f.st = .migrating && match f.recovery with
    | some r => (r.means = .checkpoint || r.means = .restart) && !r.restored
    | none => false

/-- How much of the time since `since` loads have been paused so far in the pause under way. -/
def State.pausedFor (s : State) (since : Time) : Time :=
  match s.paused with
  | some p => s.now - max p since
  | none => 0

/-- A pause that began at `p` ends: a load's staging wait and a switch limit are longer by it. -/
def Fold.unpause (f : Fold) (p now : Time) : Fold :=
  { f with
    load := f.load.map fun (l : Load) => if l.phase = .queued || l.phase = .draining then l else { l with since := l.since + (now - max p l.since) }
    transition := f.transition.map fun (x : Transition) => { x with since := x.since + (now - max p x.since) } }

/-- Loads pause while a recovery has the decryption, and go on when none has (R676). -/
def State.syncPause (s : State) : State :=
  match s.paused with
  | none => if s.decrypterTaken then { s with paused := some s.now } else s
  | some p => if s.decrypterTaken then s else { s with paused := none, folds := s.folds.map fun (f : Fold) => f.unpause p s.now }

/-! Release (Table FOLD-6). -/

/-- Steps 2 to 5 of a release: credits and pen slots revoked, paddocks sheared and returned, pages revoked before the keys
are destroyed, the ID free; the scrub record is to come (R370, R427, R464, R465). -/
def State.finishRelease (s : State) (f : Fold) : State :=
  let id := f.id
  let phys := s.foldPhys f
  let s1 := (s.waferOut id rsClosed).revokeSpan id false
  let s2 := { s1 with
    neds := s1.neds.map fun (n : Ned) =>
      { n with pens := n.pens.filter fun p => p.1 ≠ id, closedEpochs := tabDel n.closedEpochs id, bwNeed := tabDel n.bwNeed id,
               bwSources := n.bwSources.filter fun b => b.1 ≠ id, accounts := n.accounts.filter fun a => a.1 ≠ id }
    spds := s1.spds.map fun (d : Spd) => { d with flockFold := tabDel d.flockFold id } }
  let s3 := f.slots.foldl (fun s q => s.unleaseSlot q.1 q.2 id) (f.excl.foldl (fun s n => s.unleasePad n id) s2)
  let s4 := s3.revokePages phys
  let s5 := { s4 with meds := s4.meds.map fun (m : Med) => { m with slots := tabSet [] m.slots id [] } }
  let nums := (s5.sessions.filter fun x => x.2.fold = id).map fun x => x.1
  let s6 := nums.foldl (fun s n =>
    (s.setSession n Session.initial).settle (fun w => w = .session n) (.ok [("num", .num n), ("state", .word "free")])) s5
  let s7 : State := { s6 with
    folds := s6.folds.filter fun g => g.id ≠ id
    retained := s6.retained.filter fun r => r.1 ≠ id
    scrubs := s6.scrubs ++ [(⟨id, f.inc, f.recNo, s.now, f.excl.length, f.slots.length, 0,
      phys.filter fun p => leState ((s6.med p.1).lease p.2) = 2⟩ : Scrub)] }
  s7.syncPause.mirror.settle (fun w => w = .fold id) (.ok [("id", .num id), ("incarnation", .num f.inc), ("scrub", .word "pending")])

/-- The release of a fold that has drained, or whose 10 ms have passed. -/
def State.releaseStep (s : State) (id : Nat) : State :=
  match s.foldOf id with
  | some f => s.finishRelease f
  | none => s

/-! Replies. -/

/-- A checkpoint interval as a value. -/
def ckptVal (c : Option Nat) : Val :=
  match c with
  | some ms => .num ms
  | none => .word "off"

/-- The pages each copy of a checkpoint set takes, twice (R460). -/
def ckptPagesFor (bytes : Nat) : Nat := 2 * ceilDiv bytes 2097152

end Sys2Proof.Machine
end

