-- ==== Sys2Proof/Machine/Folds.lean ====
section
/-! DEFINITION. The commands on folds, channels, sessions and keys (*Folds, channels and tenant isolation*, *Sequences*,
Tables CMD-10, CMD-11, CMD-12, CMD-14). -/
namespace Sys2Proof.Machine

open Sys2Proof

/-! Creating and resizing (R436–R439, R443, R470). -/

/-- The conflicts of new paddocks and slots with what is leased (R437, R438), and with R65. -/
def State.leaseRefusals (s : State) (held : List (Nat × Nat)) (ps : List Nat) (qs : List (Nat × Nat)) : List (Bool × Nat × KVs) :=
  let all := ps ++ qs.map fun q => q.1
  [(!(all.all fun n => s.placeable n), 504, [("at", .nums (all.filter fun n => !s.placeable n))]),
   (ps.any fun n => (s.pad n).leased, 403, [("object", .word "paddock")]),
   (qs.any fun q => (s.pad q.1).excl ≠ 0 || (s.pad q.1).slots.getD q.2 0 ≠ 0, 403, [("object", .word "slot")]),
   (decide (((held ++ qs).map fun q => q.1).eraseDups.length < (held ++ qs).length) || (qs.any fun q => ps.contains q.1), 403, [("object", .word "slot")])]

/-- Whether runs are ill-formed, or name an index outside its range or a MED that does not exist. -/
def runRefusals (rs : List PageRun) : List (Bool × Nat × KVs) :=
  [(rs.any fun r => 11 < r.med, 401, [("object", .word "die")]),
   (rs.any fun r => r.hi < r.lo || 65535 < r.hi, 402, [("key", .word "pages"), ("min", .num 0), ("max", .num 65535)])]

/-- The MEDs of a set that do not exist, or too many of them. -/
def medRefusals (key : String) (ms : List Nat) : List (Bool × Nat × KVs) :=
  [(ms.any fun m => 11 < m, 401, [("object", .word "die")]),
   (decide (12 < ms.length) || ms.eraseDups.length < ms.length, 402, [("key", .word key), ("min", .num 1), ("max", .num 12)])]

/-- The lowest free fold ID. -/
def State.freeId (s : State) : Option Nat := ((List.range 63).map (· + 1)).find? fun i => (s.foldOf i).isNone && (s.spds.all fun (d : Spd) => tabGet 0 d.flockFold i = 0)

/-- Whether a checkpoint interval in ms is 1–600 whole seconds (Table FOLD-1). -/
def ckptOk (ms : Nat) : Bool := 1000 ≤ ms && ms ≤ 600000 && ms % 1000 = 0

/-! The flock forms (R419, R435). -/

/-- The flock has a new leader: a command forwarded to a member is answered E-204, and so is a fleet-wide command that this member
was carrying out as the leader, which is undone (R435, R850). -/
def State.newLeader (s : State) (old : Nat) : State :=
  if s.leader = old then s
  else
    let no : RLine := .err 204 [("leader", .num s.leader)]
    let s1 := s.settle (fun x => match x with
      | .member _ => true
      | _ => false) no
    if old ≠ s.me then s1
    else
      (s1.folds.filter fun (f : Fold) => f.wafers ≠ BitVec.twoPow 16 s.me && s1.waits.any fun w => w.why = .fold f.id && f.st = .created).foldl
        (fun s f => (s.settle (fun x => x = .fold f.id) no).releaseStep f.id) s1

/-- Every link is UP or refused: the controllers exchange membership and the flock forms; the member with the lowest wafer ID leads
(R419, R420, R435). -/
def execFlockFormation (members : List MemberInfo) (t : Time) (s : State) : Host.Outcome State Fault Refusal :=
  .next (s.event t (fun s => s.active.isSome && !((List.range 16).any fun i => (s.spd i).state = .training)) fun s =>
    let ms := s.ownInfo :: members.filter fun m => m.flock = s.place.flockId && m.wafer.val ≠ s.me && s.inMask m.wafer.val
    let kept := keepMembers ms
    let s1 := { s with flockUp := true, flockMembers := kept.map fun m => m.wafer.val, flockInfo := kept, excludedW := [] }
    let s2 := ((List.range 16).filter fun w => s.inMask w && w ≠ s.me && !s1.flockMembers.contains w).foldl (fun s w => s.excludeMember w) s1
    if s.flockUp then s2.newLeader s.leader else s2)

end Sys2Proof.Machine

namespace Sys2Proof

open Sys2Proof.Machine

/-! What `create fold` asks for. -/

def FoldArgs.pads (a : FoldArgs) : List Nat := (locPadsOnly a.paddocks).getD []
def FoldArgs.slotList (a : FoldArgs) : List (Nat × Nat) := (locSlotsOnly (a.slots ++ a.paddocks)).getD []
def FoldArgs.sess (a : FoldArgs) : Nat × Nat := a.sessions.getD (0, 0)
def FoldArgs.scount (a : FoldArgs) : Nat := if a.sessions.isSome then a.sess.2 + 1 - a.sess.1 else 0
def FoldArgs.lin (a : FoldArgs) : List (Nat × Nat) := runPages a.pages
def FoldArgs.asks (a : FoldArgs) : List (Nat × Bool × Option Nat) :=
  (a.lin.map fun p => (p.2, false, some p.1)) ++ spread a.smeds 0 a.squota ++ spread a.cmeds 0 a.cpages
def FoldArgs.meds (a : FoldArgs) : List Nat := (a.asks.map fun x => x.1).eraseDups

end Sys2Proof

namespace Sys2Proof.Machine

open Sys2Proof

/-- The ID a new fold takes: the one named, else the lowest free. -/
def State.newId (s : State) (a : FoldArgs) : Nat := a.id.getD (s.freeId.getD 0)

/-- The reasons to refuse a creation, in the order they are judged. -/
def State.createRefusals (s : State) (a : FoldArgs) : List (Bool × Nat × KVs) :=
  let idn := s.newId a
  let sr := a.sess
  [((a.paddocks ++ a.slots).isEmpty, 114, [("key", .word "paddocks")]),
    (a.lineage.length ≠ 16, 115, [("key", .word "lineage")]),
    (a.wrap.length ≠ 97, 115, [("key", .word "wrap")]),
    (idn = 0 && a.id.isNone, 405, [("object", .word "fold"), ("max", .num 63)]),
    (idn = 0 || decide (63 < idn), 402, [("key", .word "id"), ("min", .num 1), ("max", .num 63)]),
    ((locPadsOnly a.paddocks).isNone || (locSlotsOnly (a.slots ++ a.paddocks)).isNone, 401, [("object", .word "location")]),
    (a.wafers.any fun w => w.val ≠ s.me && !s.flockMembers.contains w.val, 603, [("wafer", .nums (a.wafers.map fun w => w.val))]),
    (decide (16383 < sr.2) || sr.2 < sr.1, 402, [("key", .word "sessions"), ("min", .num 0), ("max", .num 16383)]),
    (match a.ckpt with
      | some ms => ms ≠ 0 && !ckptOk ms
      | none => false, 402, [("key", .word "ckpt"), ("min", .num 1), ("max", .num 600)]),
    (a.pen.any fun x => x = 0 || 4096 < x, 402, [("key", .word "pen"), ("min", .num 1), ("max", .num 4096)]),
    (a.weight.any fun x => x = 0 || 255 < x, 402, [("key", .word "weight"), ("min", .num 1), ("max", .num 255)])]
  ++ runRefusals a.pages ++ medRefusals "smeds" a.smeds ++ medRefusals "cmeds" a.cmeds
  ++ [((s.foldOf idn).isSome, 403, [("object", .word "fold")]),
      why (s.spds.any fun (d : Spd) => tabGet 0 d.flockFold idn ≠ 0) "id-reserved"]
  ++ s.leaseRefusals [] a.pads a.slotList
  ++ [why (s.folds.any fun (f : Fold) => f.label = a.lineage) "lineage",
      why (s.folds.any fun (f : Fold) => 0 < a.scount && 0 < f.scount && decide (sr.1 < f.sbase + f.scount) && decide (f.sbase ≤ sr.2)) "session-range",
      why (decide ((a.lin.map fun p => p.1).eraseDups.length < a.lin.length) || (0 < a.squota && a.smeds.isEmpty) || (0 < a.cpages && a.cmeds.isEmpty)) "pages",
      why (a.meds.any fun k => !(s.med k).ownsSlot idn) "rotation"]

/-- The fold a creation makes, `got` the pages it was given (Table FOLD-1). -/
def State.newFold (s : State) (a : FoldArgs) (got : List (Nat × Nat)) : Fold :=
  { id := s.newId a, inc := s.incCtr + 1, label := a.lineage, wrap := a.wrap,
    wafers := BitVec.ofNat 16 ((List.range 16).foldl (fun m w => if w = s.me || a.wafers.any fun v => v.val = w then m + 2 ^ w else m) 0),
    st := .created, epoch := 0, transitions := 0, excl := a.pads, slots := a.slotList,
    pages := (a.lin.zip got).map fun x => (x.1.1, x.2.1, x.2.2), sbase := a.sess.1, scount := a.scount, squota := a.squota, smeds := a.smeds,
    qphys := (got.drop a.lin.length).take a.squota,
    ckpt := match a.ckpt with
      | none => some 10000
      | some 0 => none
      | some ms => some ms,
    ckptPend := none, cmeds := a.cmeds, cpages := a.cpages, cphys := got.drop (a.lin.length + a.squota), copies := [], ckptSeq := 0,
    lastCkpt := none, ckptBase := s.now, pen := a.pen.getD 256, weight := a.weight.getD 1, secret := some s.freeCtr, image := none, moved := [],
    load := none, loadCode := none, transition := none, muster := none, musterAt := 0, recovery := none, raises := [], windows := [],
    release := none, pendRemove := [], pendSlots := [], pendPages := [], ivStart := s.now, recNo := 0, snap := [], credited := false,
    throttled := [], ptpLost := s.undisciplined, lateShc := false, heldSec := [], strayed := none }

/-- Enter a fold: its incarnation, its reserve on every SPD when it is a flock's, its keys and its leases. A revocation of the ID's last
fold ends here: until then that fold's late flits are strays (R427). -/
def State.enterFold (s : State) (a : FoldArgs) (f : Fold) : State :=
  let s2 : State := { s with folds := s.folds ++ [f], incCtr := s.incCtr + 1, freeCtr := s.freeCtr + 1 }
  let far := a.wafers.any fun w => w.val ≠ s.me
  let s3 : State := { s2 with spds := s2.spds.map fun (d : Spd) =>
    { d with revoked := d.revoked.filter fun r => r.1 ≠ f.id, flockFold := if far then tabSet 0 d.flockFold f.id f.wafers else d.flockFold } }
  ((s3.clearTallies .fold f.id).loadKeys f a.meds).leasePads f.id f.excl f.slots

/-- `create fold` (R420, R436–R439, R457, R837). -/
def execCreateFold (a : FoldArgs) (ln : Ln) (s : State) : Host.Outcome State Fault Refusal :=
  .next (s.judged ln .operate false fun s =>
    s.guard ln (s.createRefusals a)
      (match s.leaseAll (s.newId a) a.asks with
       | none => s.refuse ln "pages"
       | some (got, s1) => (((s1.enterFold a (s.newFold a got)).mirror).await ln (.fold (s.newId a))).creationEnds (s.newId a)))

/-- The linear pages of a fold at some indices. -/
def Fold.pagesAt (f : Fold) (is : List Nat) : List (Nat × Nat × Nat) := f.pages.filter fun p => is.contains p.1

/-- Take paddocks, slots and linear pages out of a fold at once: steps 2 to 5 of Table FOLD-6 (R443). -/
def State.takeOut (s : State) (id : Nat) (ps : List Nat) (qs : List (Nat × Nat)) (is : List Nat) : State :=
  match s.foldOf id with
  | none => s
  | some f =>
    let gone := f.pagesAt is
    let s1 := qs.foldl (fun s q => s.unleaseSlot q.1 q.2 id) (ps.foldl (fun s n => s.unleasePad n id) s)
    let s2 := s1.revokePages (gone.map fun p => (p.2.1, p.2.2))
    s2.modFold id fun (g : Fold) =>
      { g with excl := g.excl.filter fun n => !ps.contains n, slots := g.slots.filter fun q => !qs.contains q,
               pages := g.pages.filter fun p => !is.contains p.1, heldSec := (g.heldSec ++ f.heldNow).eraseDups,
               pendRemove := g.pendRemove.filter fun n => !ps.contains n, pendSlots := g.pendSlots.filter fun q => !qs.contains q,
               pendPages := g.pendPages.filter fun i => !is.contains i }

end Sys2Proof.Machine

namespace Sys2Proof

open Sys2Proof.Machine

/-! What `resize fold` asks for. -/

def ResizeArgs.pads (a : ResizeArgs) : List Nat := (locPadsOnly a.add).getD []
def ResizeArgs.slotList (a : ResizeArgs) : List (Nat × Nat) := (locSlotsOnly a.add).getD []
def ResizeArgs.goPads (a : ResizeArgs) : List Nat := (locPadsOnly a.remove).getD []
def ResizeArgs.goSlots (a : ResizeArgs) : List (Nat × Nat) := (locSlotsOnly a.remove).getD []
def ResizeArgs.lin (a : ResizeArgs) : List (Nat × Nat) := runPages a.pages
def ResizeArgs.drop (a : ResizeArgs) : List Nat := (runPages a.dropPages).map fun p => p.1
def ResizeArgs.asks (a : ResizeArgs) (f : Fold) : List (Nat × Bool × Option Nat) :=
  (a.lin.map fun p => (p.2, false, some p.1)) ++ spread f.smeds f.squota (a.squota.getD f.squota - f.squota)
    ++ spread f.cmeds f.cpages (a.cpages.getD f.cpages - f.cpages)
def ResizeArgs.meds (a : ResizeArgs) (f : Fold) : List Nat := ((a.asks f).map fun x => x.1).eraseDups

end Sys2Proof

namespace Sys2Proof.Machine

open Sys2Proof

/-- The reasons to refuse a resize, in the order they are judged. -/
def State.resizeRefusals (s : State) (f : Fold) (a : ResizeArgs) : List (Bool × Nat × KVs) :=
  let sq := a.squota.getD f.squota
  let cp := a.cpages.getD f.cpages
  let left := (f.excl.length + f.slots.length + a.pads.length + a.slotList.length) - (a.goPads.length + a.goSlots.length)
  [((locPadsOnly a.add).isNone || (locSlotsOnly a.add).isNone || (locPadsOnly a.remove).isNone || (locSlotsOnly a.remove).isNone, 401,
      [("object", .word "location")]),
    (f.release.isSome, 404, [("object", .word "fold"), ("state", .word (foldWord f.st))]),
    (a.goPads.any fun n => !f.excl.contains n, 401, [("object", .word "location")]),
    (a.goSlots.any fun q => !f.slots.contains q, 401, [("object", .word "location")])]
  ++ runRefusals a.pages ++ runRefusals a.dropPages ++ s.leaseRefusals f.slots a.pads a.slotList
  ++ [(decide (left = 0), 403, [("object", .word "fold")]),
      why (a.lin.any (fun p => f.pages.any fun q => q.1 = p.1) || decide ((a.lin.map fun p => p.1).eraseDups.length < a.lin.length)
        || (a.drop.any fun i => !(f.pages.any fun q => q.1 = i)) || (f.squota < sq && f.smeds.isEmpty) || (f.cpages < cp && f.cmeds.isEmpty)) "pages",
      why (sq < f.squota && decide (f.qphys.length < f.squota - sq)) "quota",
      why (f.ckpt.isSome && (match f.image with
        | some im => decide (cp < ckptPagesFor im.ckptBytes)
        | none => false)) "checkpoint-space",
      why ((a.meds f).any fun k => !(s.med k).ownsSlot f.id) "rotation"]

/-- The fold after a resize, `got` the pages it was given. -/
def Fold.resized (f : Fold) (a : ResizeArgs) (got : List (Nat × Nat)) : Fold :=
  let sq := a.squota.getD f.squota
  let cp := a.cpages.getD f.cpages
  { f with excl := f.excl ++ a.pads, slots := f.slots ++ a.slotList, pages := f.pages ++ (a.lin.zip got).map fun x => (x.1.1, x.2.1, x.2.2),
           squota := sq, qphys := (f.qphys.take (f.qphys.length - (f.squota - sq))) ++ (got.drop a.lin.length).take (sq - f.squota),
           cpages := cp, cphys := (f.cphys.take cp) ++ got.drop (a.lin.length + (sq - f.squota)),
           pendRemove := (f.pendRemove ++ a.goPads).eraseDups, pendSlots := (f.pendSlots ++ a.goSlots).eraseDups,
           pendPages := (f.pendPages ++ a.drop).eraseDups }

/-- Put a resized fold in place: keys, leases, pages given back, and in CREATED the removals at once. -/
def State.resizeTo (s : State) (f g : Fold) (a : ResizeArgs) : State :=
  let qlost := f.qphys.drop (f.qphys.length - (f.squota - g.squota))
  let clost := f.cphys.drop g.cpages
  let s2 := (((s.putFold g).loadKeys g (a.meds f)).leasePads f.id a.pads a.slotList).revokePages (qlost ++ clost)
  if f.st = .created then s2.takeOut f.id g.pendRemove g.pendSlots g.pendPages else s2

/-- `resize fold`: additions are leased at once, hurdled; removals wait for the next commit, or take effect at once in CREATED
(R364, R443, R837). -/
def execResizeFold (id : Nat) (a : ResizeArgs) (ln : Ln) (s : State) : Host.Outcome State Fault Refusal :=
  .next (s.judged ln .operate false fun s => s.onFold ln id fun f =>
    s.guard ln (s.resizeRefusals f a)
      (match s.leaseAll f.id (a.asks f) with
       | none => s.refuse ln "pages"
       | some (got, s1) =>
         let g := f.resized a got
         let n := if f.st = .created then 0 else g.pendRemove.length + g.pendSlots.length + g.pendPages.length
         (s1.resizeTo f g a).mirror.ok ln [("add", .num (a.pads.length + a.slotList.length + a.lin.length)), ("pending_remove", .num n)]))

/-! Destroying (R455, R464–R467, R555, R843, R866). -/

/-- A load is abandoned with its bell (Table IMG-6, E-799). -/
def State.abandonBell (s : State) (id : Nat) (cause : String) : State :=
  s.ring "fold" true [("id", .num id), ("load", .word "failed"), ("code", .num 799), ("cause", .word cause)]

/-- `destroy fold`: step 1, with the second that has begun counted in the final record (R441, R855), and the rest at once when nothing of the fold is in the wafer. -/
def execDestroyFold (id : Nat) (ln : Ln) (s : State) : Host.Outcome State Fault Refusal :=
  .next (s.judged ln .operate false fun s => s.onFold ln id fun f =>
    if f.release.isSome then s.err ln 403 [("object", .word "fold")]
    else
      let s0 := s.settle (fun w => w = .fold id) (.err 403 [("object", .word "fold")])
      let s1 := (if s0.secondAt < s0.now then s0.leaseSecondOf f else s0).closeInterval id true []
      let s2 := (s1.setFoldSt id .releasing).modFold id fun (g : Fold) =>
        { g with release := some s.now, load := none, transition := none, muster := none, recovery := none }
      let s3 := if f.load.isSome then s2.abandonBell id "destroyed" else s2
      let s4 := ((s3.foldChannels id).filter fun c => !c.closed).foldl (fun s c => s.closeChannel c) s3
      let s5 := ((s4.penOut id rsClosed).mirror).await ln (.fold id)
      if (s5.inWafer id).isEmpty then s5.releaseStep id else s5)

/-- 10 ms into a release, or once nothing of the fold is in the wafer: what remains is refused and the release goes on (R464). -/
def execReleaseDrainExpiry (fold : Nat) (t : Time) (s : State) : Host.Outcome State Fault Refusal :=
  .next (s.event t (fun s => match s.foldOf fold with
      | some f => (match f.release with
          | some r => decide (r + 10 * msec ≤ s.now) || (s.inWafer fold).isEmpty
          | none => false)
      | none => false) fun s => s.releaseStep fold)

/-- The last page of a released fold is FREE: its SCRUB record is written (R35, R370, R465, R863). -/
def execScrubRecord (fold : Nat) (t : Time) (s : State) : Host.Outcome State Fault Refusal :=
  .next (s.event t (fun s => s.active.isSome && s.scrubs.any fun x => x.fold = fold && x.pages.isEmpty) fun s =>
    match s.scrubs.find? fun x => x.fold = fold && x.pages.isEmpty with
    | none => s
    | some x =>
      ((({ s with scrubs := dropFirst (fun y => decide (y = x)) s.scrubs } : State).writeRecord (s.scrubBody x) []).ring "fold" false
        [("id", .num fold), ("state", .word "scrubbed"), ("incarnation", .num x.inc)]))

/-! Settings and views. -/

/-- `set fold` (R463, R481, R482, R505). -/
def execSetFold (id : Nat) (ckpt : Option (Option Nat)) (pen weight : Option Nat) (ln : Ln) (s : State) : Host.Outcome State Fault Refusal :=
  .next (s.judged ln .operate false fun s => s.onFold ln id fun f =>
    let p := pen.getD f.pen
    let w := weight.getD f.weight
    let neds := s.neds.map fun (n : Ned) => n.reservePen id p
    s.guard ln
      [(p = 0 || decide (4096 < p), 402, [("key", .word "pen"), ("min", .num 1), ("max", .num 4096)]),
       (w = 0 || decide (255 < w), 402, [("key", .word "weight"), ("min", .num 1), ("max", .num 255)]),
       (match ckpt with
         | some (some ms) => !ckptOk ms
         | _ => false, 402, [("key", .word "ckpt"), ("min", .num 1), ("max", .num 600)]),
       why (pen.isSome && neds.any fun (n : Ned) => !n.penFits) "pen-space",
       why ((match ckpt with
         | some (some _) => true
         | _ => false) && (match f.image with
         | some im => decide (f.cpages < ckptPagesFor im.ckptBytes)
         | none => false)) "checkpoint-space"]
      (let g : Fold := { f with pen := p, weight := w }
       let g1 : Fold := match ckpt with
         | none => g
         | some none => { g with ckpt := none, ckptPend := none }
         | some (some ms) => if f.ckpt.isNone || f.st = .created then { g with ckpt := some ms, ckptPend := none, ckptBase := s.now } else { g with ckptPend := some ms }
       let s1 := { s.putFold g1 with neds := if pen.isSome then neds else s.neds }
       s1.mirror.ok ln [("id", .num id), ("ckpt", ckptVal (g1.ckptPend <|> g1.ckpt)), ("pen", .num p), ("weight", .num w)]))

/-- `set rotation`: on from a list of 16, in force at the next frame boundary; off at once (R379, R380, R392). -/
def execSetRotation (med : Nat) (slots : Option (List Nat)) (ln : Ln) (s : State) : Host.Outcome State Fault Refusal :=
  .next (s.judged ln .operate false fun s =>
    if 11 < med then s.err ln 401 [("object", .word "die")]
    else
      match slots with
      | none => ((s.modMed med fun m => { m with rotOn := false, rotNext := none }).mirror).ok ln [("med", .num med), ("slots", .word "off")]
      | some l =>
        let m := s.med med
        let folds := ((m.leases.filter fun e => leState e.2 = 1).map fun e => leFold e.2).eraseDups
        s.guard ln
          [(l.length ≠ 16, 402, [("key", .word "slots"), ("min", .num 16), ("max", .num 16)]),
           (l.any fun f => 63 < f, 402, [("key", .word "slots"), ("min", .num 0), ("max", .num 63)]),
           why (folds.any fun f => !l.contains f) "rotation"]
          (((s.setMed med (if m.rotOn then { m with rotNext := some l } else { m with rotOn := true, rotSlots := l, rotNext := none, rotPos := 0, slotAt := s.now })).mirror).ok ln
            [("med", .num med), ("slots", .nums l)]))

/-- `show fold` (R508, R898). -/
def execShowFold (id : Nat) (ln : Ln) (s : State) : Host.Outcome State Fault Refusal :=
  .next (s.judged ln .view true fun s => s.onFold ln id fun f =>
    s.ok ln
      ([("id", .num id), ("state", .word (foldWord f.st)), ("epoch", .num f.epoch), ("incarnation", .num f.inc), ("exclusive", .nums f.excl),
        ("slots", .nums (f.slots.map fun q => 4 * q.1 + q.2)), ("pages", .num (f.pages.length + f.squota + f.cpages)),
        ("channels", .num ((s.foldChannels id).filter fun c => !c.closed).length),
        ("sessions", .num (s.sessions.filter fun x => x.2.fold = id && x.2.st ≠ .free).length), ("ckpt", ckptVal f.ckpt),
        ("last_ckpt", match f.lastCkpt with
          | some t => .time t
          | none => .none),
        ("load", .word (if f.loadCode.isSome then "failed" else if f.image.isSome then "ok" else "none")),
        ("code", match f.loadCode with
          | some c => .num c
          | none => .none)]
       ++ match f.image with
          | some im =>
            [("digest", .bytes im.digest), ("version", .num im.version), ("created", .num im.created)] ++
              match im.recs.find? fun r => r.typ = 5 with
              | some r => [("stamp", Val.hex (leNat (slice r.body 0 4))),
                  ("scales", Val.nums ((List.range (leNat (slice r.body 4 4))).map fun i => leNat (slice r.body (8 + 4 * i) 4)))]
              | none => []
          | none => []))

def execShowFolds (ln : Ln) (s : State) : Host.Outcome State Fault Refusal :=
  .next (s.judged ln .view true fun s =>
    s.parts ln (((List.range 64).filterMap fun id => s.foldOf id).map fun (f : Fold) =>
      [("id", .num f.id), ("state", .word (foldWord f.st)), ("paddocks", .num f.excl.length), ("slots", .num f.slots.length)]) [])

/-- `show keys`: whether the keys are held, never what they are (R768). -/
def execShowKeys (fold : Nat) (ln : Ln) (s : State) : Host.Outcome State Fault Refusal :=
  .next (s.judged ln .view true fun s => s.onFold ln fold fun f =>
    let ms := (List.range 12).filter fun k => tabGet [] (s.med k).slots fold ≠ []
    s.ok ln [("fold", .num fold), ("incarnation", .num f.inc), ("khbm", .word (if f.secret.isSome then "loaded" else "destroyed")),
      ("meds", .nums ms), ("kckp", .word (if f.secret.isSome then "held" else "destroyed"))])

/-- `export key`: KIMG wrapped to the tenant's key under a fresh ephemeral key (R458, R767). -/
def execExportKey (fold : Nat) (ln : Ln) (s : State) : Host.Outcome State Fault Refusal :=
  .next (s.judged ln .admin false fun s => s.onFold ln fold fun f =>
    if f.release.isSome then s.err ln 404 [("object", .word "fold"), ("state", .word (foldWord f.st))]
    else
      ({ s with freeCtr := s.freeCtr + 1 }).ok ln [("fold", .num fold),
        ("wrap", .bytes (slice (Config.wrapKey (kimgLabel f.label s.fuses.serial.toNat) f.wrap s.freeCtr) 0 137))])

/-! Channels (R451–R456). -/

/-- The states in which no channel is created (R453); a fold in LOADING has no committed image. -/
def chanBarred (st : FoldState) : Bool :=
  st = .created || st = .loading || st = .doubt || st = .stopped || st = .releasing

/-- The record of a channel index that a creation takes: the one named, the lowest FREE, else the lowest CLOSED (R452). -/
def State.chanIndex (s : State) (index : Option Nat) : Option Nat :=
  match index with
  | some i => some i
  | none =>
    match findBelow (fun i => (s.channel i).isNone) 65536 with
    | some i => some i
    | none => findBelow (fun i => (s.channel i).any fun c => c.closed) 65536

/-- The generation a channel record's next channel has: 1 to 1023, then from 1 again (R452). -/
def nextGen (old : Option Channel) : Nat :=
  let g := (old.map fun c => c.gen).getD 0
  if g = 1023 then 1 else g + 1

/-- The ticket of a new channel: the operand, else a random one, never 0 (R467). -/
def State.newTicket (s : State) (ticket : Option (BitVec 32)) : Word :=
  ticket.getD (BitVec.ofNat 32 ((Config.random s.freeCtr).toNat % (2 ^ 32 - 1) + 1))

/-- The reasons to refuse a channel on record `i` of entry `e`, in the order they are judged. -/
def State.channelRefusals (s : State) (fold i : Nat) (e : Entry) (tk : Word) (deadline : Option Nat) : List (Bool × Nat × KVs) :=
  let old := s.channel i
  let d := deadline.getD e.dHigh
  [(match old with
     | some c => !c.closed
     | none => false, 404, [("object", .word "channel"), ("state", .word "open")]),
   (decide (4096 ≤ ((s.foldChannels fold).filter fun c => !c.closed).length), 405, [("object", .word "channel"), ("max", .num 4096)]),
   (deadline.isSome && (decide (d < e.dLow) || (e.dHigh ≠ 0 && decide (e.dHigh < d)) || decide (2 ^ 32 ≤ d)), 402,
     [("key", .word "deadline"), ("min", .num e.dLow), ("max", .num (if e.dHigh = 0 then 2 ^ 32 - 1 else e.dHigh))]),
   why ((old.map fun c => c.gen) = some 1023 && (match old with
     | some c => c.ticket = tk
     | none => false)) "ticket-reuse"]

/-- `create channel` (R450–R454, R467). -/
def execCreateChannel (fold entry : Nat) (index : Option Nat) (ticket : Option (BitVec 32)) (deadline : Option Nat) (spec : Option Bool)
    (bind : List BindArg) (ln : Ln) (s : State) : Host.Outcome State Fault Refusal :=
  .next (s.judged ln .operate false fun s => s.onFold ln fold fun f =>
    if 65535 < index.getD 0 then s.err ln 402 [("key", .word "index"), ("min", .num 0), ("max", .num 65535)]
    else if bind.isEmpty || 8 < bind.length then s.err ln 405 [("object", .word "binding"), ("max", .num 8)]
    else if chanBarred f.st then s.err ln 404 [("object", .word "fold"), ("state", .word (foldWord f.st))]
    else
      match f.image.bind fun im => im.entry entry with
      | none => s.err ln 401 [("object", .word "entry")]
      | some e =>
        match s.chanIndex index with
        | none => s.err ln 405 [("object", .word "channel"), ("max", .num 65536)]
        | some i =>
          let tk := s.newTicket ticket
          let gen := nextGen (s.channel i)
          let h := mkHandle fold i gen
          let d := deadline.getD e.dHigh
          s.guard ln (s.channelRefusals fold i e tk deadline)
            (match ((if ticket.isNone then { s with freeCtr := s.freeCtr + 1 } else s).emptyClosed i).bindAll f e h tk d (spec.getD e.cls.isNone) bind with
             | .inl x => s.err ln x.1 x.2
             | .inr (bs, s1) =>
               ((s1.putChannel { index := i, fold := fold, entry := entry, gen := gen, ticket := tk, deadline := d, closed := false, binds := bs }).clearTallies
                 .channel h.toNat).mirror.ok ln [("handle", .hex h.toNat), ("generation", .hex gen), ("ticket", .hex tk.toNat)]))

/-- A channel by its handle; none where the handle is not its record's. -/
def State.chanByHandle (s : State) (h : Word) : Option Channel := (s.channel (hdlIndex h)).filter fun c => c.handle = h

/-- A command on a channel that must exist and be OPEN. -/
def State.onChannel (s : State) (ln : Ln) (h : Word) (body : Channel → State) : State :=
  match s.chanByHandle h with
  | none => s.err ln 401 [("object", .word "channel")]
  | some c => if c.closed then s.err ln 404 [("object", .word "channel"), ("state", .word "closed")] else body c

/-- `bind channel`: one more binding, as the channel's others have their SPEC bit (R84, R85). -/
def execBindChannel (handle : BitVec 32) (add : BindArg) (ln : Ln) (s : State) : Host.Outcome State Fault Refusal :=
  .next (s.judged ln .operate false fun s => s.onChannel ln handle fun c =>
    match s.foldOf c.fold with
    | none => s.err ln 401 [("object", .word "fold")]
    | some f =>
      if chanBarred f.st then s.err ln 404 [("object", .word "fold"), ("state", .word (foldWord f.st))]
      else if 8 ≤ c.binds.length then s.err ln 405 [("object", .word "binding"), ("max", .num 8)]
      else
        match f.image.bind fun im => im.entry c.entry with
        | none => s.err ln 401 [("object", .word "entry")]
        | some e =>
          let spec := match c.binds with
            | b :: _ => ((s.ned b.1).binding b.2).spec
            | [] => e.cls.isNone
          match s.bindOne f e handle c.ticket c.deadline spec add with
          | .inl x => s.err ln x.1 x.2
          | .inr (i, s1) =>
            (s1.putChannel { c with binds := c.binds ++ [(add.ned, i)] }).mirror.ok ln
              [("handle", .hex handle.toNat), ("bindings", .num (c.binds.length + 1))])

/-- `unbind channel`: the binding becomes CLOSED; the last one stays (R455 step 1). -/
def execUnbindChannel (handle : BitVec 32) (ned port : Nat) (ln : Ln) (s : State) : Host.Outcome State Fault Refusal :=
  .next (s.judged ln .operate false fun s => s.onChannel ln handle fun c =>
    match c.binds.find? fun b => b.1 = ned && ((s.ned ned).binding b.2).port = port with
    | none => s.err ln 401 [("object", .word "binding")]
    | some b =>
      if c.binds.length ≤ 1 then s.refuse ln "last-binding"
      else
        let s1 := s.modNed ned fun n => { n with bindings := tabMod Binding.empty n.bindings b.2 fun x => x.withState 2 }
        (s1.putChannel { c with binds := c.binds.filter fun x => x ≠ b }).mirror.ok ln
          [("handle", .hex handle.toNat), ("bindings", .num (c.binds.length - 1))])

/-- `destroy channel` (R455, R467, R472). -/
def execDestroyChannel (handle : BitVec 32) (ln : Ln) (s : State) : Host.Outcome State Fault Refusal :=
  .next (s.judged ln .operate false fun s =>
    match s.chanByHandle handle with
    | none => s.err ln 401 [("object", .word "channel")]
    | some c =>
      if s.stOf c.fold = some .releasing then s.err ln 403 [("object", .word "fold")]
      else if c.closed then s.err ln 404 [("object", .word "channel"), ("state", .word "closed")]
      else (s.closeChannel c).mirror.ok ln [("handle", .hex handle.toNat), ("state", .word "closed")])

/-- `show channel`: its bindings, the CLOSED ones too, and its record; never its ticket. -/
def execShowChannel (handle : Sum (BitVec 32) Nat) (ln : Ln) (s : State) : Host.Outcome State Fault Refusal :=
  .next (s.judged ln .view true fun s =>
    match (match handle with
      | .inl h => s.chanByHandle h
      | .inr i => s.channel i) with
    | none => s.err ln 401 [("object", .word "channel")]
    | some c =>
      let h := c.handle
      let bs := (List.range 24).flatMap fun k => ((s.ned k).bindings.filter fun b => b.2.state ≠ 0 && b.2.handle = h).map fun b => (k, b.2)
      let line (x : Nat × Binding) : KVs :=
        [("ned", .num x.1), ("port", .num x.2.port), ("vid", if x.2.tagged then .num x.2.vid else .word "u"), ("addr", .bytes x.2.addr),
         ("udp", .num x.2.udpPort), ("bucket", .num x.2.bucket), ("template", .num x.2.template),
         ("state", .word (if x.2.state = 1 then "open" else "closed"))]
      let q := match s.entryOfHandle h with
        | some (f, e) => e.q + f.raise e.no
        | none => 0
      s.parts ln (bs.map line) [("handle", .hex h.toNat), ("state", .word (if c.closed then "closed" else "open")), ("fold", .num c.fold),
        ("entry", .num c.entry), ("deadline", .num c.deadline), ("q_ns", .num q)])

/-! Sessions (R326–R331, R350). -/

/-- The pages of a session's window. -/
def Fold.windowFor (f : Fold) (cls cap : Nat) : Nat :=
  match f.image.bind fun im => im.cls cls with
  | some c => windowPages cap c.streams
  | none => 0

/-- Whether the anchor die has an OPEN binding on an entry of the class. -/
def State.anchorBound (s : State) (fold anchor cls : Nat) : Bool :=
  (s.ned anchor).bindings.any fun b => b.2.state = 1 && hdlFold b.2.handle = fold && (match s.entryOfHandle b.2.handle with
    | some (_, e) => e.cls = some cls
    | none => false)

/-- The reasons to refuse a session, in the order they are judged. -/
def State.openRefusals (s : State) (f : Fold) (fold num anchor cls cap : Nat) : List (Bool × Nat × KVs) :=
  [(decide (24 ≤ anchor), 401, [("object", .word "ned")]),
   (cap = 0 || decide (2097152 < cap), 402, [("key", .word "cap"), ("min", .num 1), ("max", .num 2097152)]),
   (decide (15 < cls), 402, [("key", .word "class"), ("min", .num 0), ("max", .num 15)]),
   (f.release.isSome, 404, [("object", .word "fold"), ("state", .word (foldWord f.st))]),
   why (num < f.sbase || decide (f.sbase + f.scount ≤ num)) "session-range",
   ((s.session num).st ≠ .free, 404, [("object", .word "session"), ("state", .word (if (s.session num).st = .lost then "lost" else "open"))]),
   why ((f.image.bind fun im => im.cls cls).isNone || !s.anchorBound fold anchor cls) "anchor"]

/-- Lease the pages of a session's window, in order. -/
def State.leaseWindow (s : State) (fold num : Nat) (win : List (Nat × Nat)) : State :=
  (win.zip (List.range win.length)).foldl (fun s p => s.modMed p.1.1 fun m => m.leasePage p.1.2 fold true (num + 16384 * p.2)) s

/-- `open session` (R330). -/
def execOpenSession (fold num anchor cls cap : Nat) (ln : Ln) (s : State) : Host.Outcome State Fault Refusal :=
  .next (s.judged ln .operate false fun s => s.onFold ln fold fun f =>
    let pages := f.windowFor cls cap
    s.guard ln (s.openRefusals f fold num anchor cls cap)
      (match takeWindow f.smeds pages 0 f.qphys with
       | none => s.refuse ln "quota"
       | some (win, rest) =>
         let y : Session := { Session.initial with st := .open, fold := fold, anchor := anchor, cls := cls, cap := cap, pages := win }
         ((((s.putFold { f with qphys := rest }).leaseWindow fold num win).setSession num y).mirror).ok ln
           [("num", .num num), ("pages", .num pages), ("state", .word "open")]))

/-- `close session`: at once, or when its request in the wafer has its reply (R331, R350). -/
def execCloseSession (fold num : Nat) (ln : Ln) (s : State) : Host.Outcome State Fault Refusal :=
  .next (s.judged ln .operate false fun s => s.onFold ln fold fun f =>
    let x := s.session num
    if x.st = .free then s.err ln 404 [("object", .word "session"), ("state", .word "free")]
    else if x.fold ≠ f.id then s.err ln 401 [("object", .word "session")]
    else if x.st = .closing then s.err ln 404 [("object", .word "session"), ("state", .word "closing")]
    else
      let s1 := ((s.setSession num { x with st := .closing }).mirror).await ln (.session num)
      if x.busy then s1 else s1.freeSession num)

/-- The request of a closing session has received its reply (R331). -/
def execSessionCloseComplete (num : Nat) (t : Time) (s : State) : Host.Outcome State Fault Refusal :=
  .next (s.event t (fun s => (s.session num).st = .closing && !(s.session num).busy) fun s => s.freeSession num)

def sessWord : SessSt → String
  | .free => "free"
  | .open => "open"
  | .lost => "lost"
  | .closing => "open"

/-- The fold whose range holds a session number; 0 when none does (R326). -/
def State.sessionOwner (s : State) (num : Nat) : Nat :=
  ((s.folds.find? fun (f : Fold) => decide (f.sbase ≤ num) && decide (num < f.sbase + f.scount)).map Fold.id).getD 0

/-- `show session`: a number that holds no session is shown FREE, with the owner of its range (R326, R328). -/
def execShowSession (num : Nat) (ln : Ln) (s : State) : Host.Outcome State Fault Refusal :=
  .next (s.judged ln .view true fun s => s.inRange ln "num" num 0 16383 fun s =>
    let x := s.session num
    let free := decide (x.st = .free)
    s.ok ln [("num", .num num), ("fold", .num (if free then s.sessionOwner num else x.fold)), ("state", .word (sessWord x.st)),
      ("anchor", if free then .none else .num x.anchor), ("class", if free then .none else .num x.cls),
      ("length", .num x.len), ("cap", .num x.cap), ("busy", .num (if x.busy then 1 else 0))])

end Sys2Proof.Machine
end

