-- ==== Sys2Proof/Machine/Install.lean ====
section
/-! DEFINITION. Writing an image's records into paddocks: contexts, schedules, descriptors, routes, detours and reset values,
and zeroing what a context holds (*Fold image format*, R136, R159, R177, R212, R899–R904, R948). -/
namespace Sys2Proof.Machine

open Sys2Proof

/-! Installing (R899–R902). -/

/-- Little-endian words of `w` bytes at consecutive keys. -/
def wordsAt (b : List Byte) (o w n : Nat) : List Nat := (List.range n).map fun i => fld b (o + w * i) w

/-- Write a context's FCTX body into the tiles (Table IMG-5). -/
def installFine (tiles : Tab Tile) (k : Nat) (b : List Byte) : Tab Tile :=
  (List.range 1024).foldl (fun ts e =>
    tabMod Tile.initial ts e fun t =>
      { t with
        sched := tabSetAll 0 t.sched (128 * k) ((wordsAt b (8 + 1024 * e) 8 128).map fun x => BitVec.ofNat 64 x)
        router := tabSet 0 t.router k (BitVec.ofNat 64 (fld b (1048584 + 8 * e) 8))
        descs := tabSetAll 0 t.descs (4 * k) ((wordsAt b (1056776 + 32 * e) 8 4).map fun x => BitVec.ofNat 64 x) }) tiles

/-- Write a context's CCTX body into the units. -/
def installCoarse (c : Coarse) (k : Nat) (b : List Byte) : Coarse :=
  let c1 : Coarse := { c with
    cmds := tabSetAll 0 c.cmds (256 * k) ((wordsAt b 8 8 256).map fun x => BitVec.ofNat 64 x)
    descs := tabSetAll 0 c.descs (16 * k) ((wordsAt b 2056 8 16).map fun x => BitVec.ofNat 64 x) }
  let c2 := (List.range 4).foldl (fun (c : Coarse) i =>
    let v := c.v i
    c.setV i { v with sdesc := tabSetAll 0 v.sdesc (32 * k) ((wordsAt b (2184 + 1024 * i) 32 32).map fun x => BitVec.ofNat 256 x) }) c1
  (List.range 4).foldl (fun (c : Coarse) i =>
    let m := c.m i
    let o := 6280 + 1280 * i
    c.setM i { m with agDesc := tabSetAll 0 m.agDesc (32 * k) ((wordsAt b o 32 32).map fun x => BitVec.ofNat 256 x),
                      hbmDesc := tabSetAll 0 m.hbmDesc (16 * k) ((wordsAt b (o + 1024) 16 16).map fun x => BitVec.ofNat 128 x) }) c2

/-- Set byte `j` of a word. -/
def setByte (x : Word) (j : Nat) (b : Byte) : Word :=
  BitVec.ofNat 32 (x.toNat - bitsOf x (8 * j) 8 * 2 ^ (8 * j) + b.toNat * 2 ^ (8 * j))

/-- Write bytes of a RESET run or a checkpoint region from an offset of the context's window (R948). -/
def Paddock.putState (p : Paddock) (n k : Nat) (shared : Bool) (kind unit off : Nat) (data : List Byte) : Paddock :=
  let w := (p.ctx k).word
  if isFine n then
    let t := tabGet Tile.initial p.fine unit
    let t1 : Tile :=
      if kind = 0 then
        { t with regs := (data.zip (List.range data.length)).foldl (fun r q =>
            tabMod 0 r (fwRegBase w + (off + q.2) / 4) fun x => setByte x ((off + q.2) % 4) q.1) t.regs }
      else if kind = 1 then { t with scratch := tabSetAll 0 t.scratch (256 * fwScrBase w + off) data }
      else if kind = 4 then { t with flags := tabSet 0 t.flags k (leNat (data.take 1)) }
      else t
    { p with fine := tabSet Tile.initial p.fine unit t1 }
  else if kind = 2 then
    let m := p.coarse.m unit
    { p with coarse := p.coarse.setM unit { m with sram := tabSetAll 0 m.sram (65536 * cwMbase w + off) data } }
  else if kind = 3 then
    let v := p.coarse.v unit
    { p with coarse := p.coarse.setV unit { v with param := (data.zip (List.range data.length)).foldl (fun t q =>
        let o := off + q.2
        tabSet 0 t (256 * paramRow shared k (o / 256) + o % 256) q.1) v.param } }
  else p

/-- Read bytes of a checkpoint region (R461, R948). -/
def Paddock.getState (p : Paddock) (n k : Nat) (shared : Bool) (kind unit off len : Nat) : List Byte :=
  let w := (p.ctx k).word
  (List.range len).map fun i =>
    let o := off + i
    if isFine n then
      let t := tabGet Tile.initial p.fine unit
      if kind = 0 then BitVec.ofNat 8 (bitsOf (tabGet 0 t.regs (fwRegBase w + o / 4)) (8 * (o % 4)) 8)
      else tabGet 0 t.scratch (256 * fwScrBase w + o)
    else if kind = 2 then tabGet 0 (p.coarse.m unit).sram (65536 * cwMbase w + o)
    else tabGet 0 (p.coarse.v unit).param (256 * paramRow shared k (o / 256) + o % 256)

/-- The contexts an image has in a paddock. -/
def Image.ctxsOf (im : Image) (n : Nat) : List Nat :=
  (List.range 4).filter fun k => im.recs.any fun r => (r.typ = 0x10 || r.typ = 0x11) && r.pad = n && r.ctx = k

/-- The context word of an image's context. -/
def Image.wordOf (im : Image) (n k : Nat) : DWord :=
  match im.recs.find? fun r => (r.typ = 0x10 || r.typ = 0x11) && r.pad = n && r.ctx = k with
  | some r => BitVec.ofNat 64 (fld r.body 0 8)
  | none => 0

/-- The record of a context of an image: a section's carries its transition entry (R530, R538). -/
def Image.ctxRecord (im : Image) (n k fold : Nat) (st : CtxState) (epoch : Nat) : PCtx :=
  let c : PCtx := { PCtx.initial with st := st, fold := fold, epoch := BitVec.ofNat 3 epoch, word := im.wordOf n k }
  match im.transitions.find? fun e => decide (2 ≤ im.sections) && e.pad = n && e.out = k with
  | some e => { c with bwin := e.bwin, bwout := e.bwout, incoming := some e.inc, handover := e.handover, run := some e.run }
  | none => c

/-- Write one context of paddock `n` of an image into paddock `m`, its record in a state (R177, R212, R902). -/
def Paddock.installCtx (p : Paddock) (im : Image) (n m k fold : Nat) (st : CtxState) (epoch : Nat) (keep : Bool) : Paddock :=
  let shared := decide (p.excl = 0)
  let p0 := p.zeroCtx m k (if keep then none else some (im.wordOf n k))
  let p1 := p0.setCtx k (im.ctxRecord n k fold st epoch)
  let p2 : Paddock := match im.recs.find? fun r => (r.typ = 0x10 || r.typ = 0x11) && r.pad = n && r.ctx = k with
    | some r => if isFine m then { p1 with fine := installFine p1.fine k r.body } else { p1 with coarse := installCoarse p1.coarse k r.body }
    | none => p1
  let p3 : Paddock := match im.recAt 0x12 n k with
    | some r =>
      { p2 with
        routes := (p2.routes.filter fun e => e.1 / 2048 ≠ k) ++ (routeEntries r.body).map fun e => (2048 * k + e.1, e.2)
        wafers := (List.range 16).foldl (fun t w =>
          tabSet 0 t (16 * k + w) (if fld r.body w 1 / 128 = 1 then fld r.body w 1 % 16 + 1 else 0)) p2.wafers }
    | none => p2
  match im.recAt 0x14 n k with
  | some r => (runsOf r.body).foldl (fun p x => p.putState m k shared x.kind x.unit x.off x.data) p3
  | none => p3

/-- The compression and detours of a paddock's outgoing fold lanes (LINK, R151, R159). -/
def State.installLinks (s : State) (im : Image) (n m fold : Nat) : State :=
  match im.recs.find? fun r => r.typ = 0x13 && r.pad = n with
  | none => s
  | some r =>
    let mask := fld r.body 0 4
    let ds := linkDetours r.body
    (List.range 12).foldl (fun s i =>
      let d := i / 3
      let l := 1 + i % 3
      let mine := (ds.filter fun x => x.1 = d && x.2.1 = l).mergeSort fun a b => decide (a.2.2.1 ≤ b.2.2.1)
      s.modLink (padEnd m d) l fun e => { e with compress := mask / 2 ^ (3 * d + l - 1) % 2 = 1, detours := mine.map fun x => x.2.2.2, owner := fold }) s

/-- Write every context an image has in paddock `n` into paddock `m`: a full load's step 5, or a migration's. Every window is zeroed
before any reset value is written, so that windows which overlap keep what each context declares (R175, R177). -/
def State.installPad (s : State) (im : Image) (n m fold : Nat) (st : CtxState) (epoch : Nat) : State :=
  let ks := im.ctxsOf n
  let s1 := s.modPad m fun p =>
    let zeroed := ks.foldl (fun (p : Paddock) k => p.zeroCtx m k (some (im.wordOf n k))) p
    ks.foldl (fun (p : Paddock) k => p.installCtx im n m k fold st epoch true) zeroed
  s1.installLinks im n m fold

/-- The contexts of a paddock enter the plan: step 7 of a full load (R518, R529, R537). -/
def Paddock.enterPlan (p : Paddock) (ks : List Nat) (epoch : Nat) (sectioned : Bool) : Paddock :=
  let live := if sectioned then ks.take 1 else ks
  let p1 := ks.foldl (fun (p : Paddock) k =>
    p.setCtx k { p.ctx k with st := if live.contains k then .live else .standby, t := 0, slips := 0, bwGot := 0, mem := [], epoch := BitVec.ofNat 3 epoch }) p
  { p1 with plan := if p.excl = 0 then p1.plan else (List.range 4).filter fun k => live.contains k || p1.plan.contains k, pos := 0 }

/-- Lift a paddock's hurdle and masks for a fold at a commit (R145, R445, R518 step 7). -/
def State.liftPad (s : State) (n fold : Nat) : State :=
  let p := s.pad n
  if p.excl = fold then (s.modPad n fun p => { p with hurdled := false, masked := false, maskedCtx := [] }).advertise n fold
  else
    let ks := (List.range 4).filter fun k => p.slots.getD k 0 = fold
    (s.modPad n fun p =>
      ks.foldl (fun (p : Paddock) k => p.setLoading k false)
        { p with masked := false, maskedCtx := p.maskedCtx.filter fun k => !ks.contains k }).advertise n fold

/-- Dissolve the yokes of a fold's paddocks, and form those an image declares: every member at the head's clock, or where a neighbour
outside the yoke would break R149 at the nearest clock that holds it (R149, R572, R573; DEDUCED: log entry 98). -/
def State.setYokes (s : State) (f : Fold) (im : Image) : State :=
  let s1 := f.excl.foldl (fun s n => s.modPad n fun p => { p with yoke := none }) s
  (geoYokes im.geo).foldl (fun s ms =>
    let h := s.pad (ms.getD 0 0)
    let x := s.fitClock ms h.n
    ms.foldl (fun s n => s.modPad n fun p => { p with yoke := some ⟨ms⟩, n := x, target := h.target, setting := h.setting }) s) s1

end Sys2Proof.Machine
end

