-- ==== Sys2Proof/Machine/Validate.lean ====
section
/-! DEFINITION. Checking a fold image: the container, its record stream, and the steps of Table IMG-6 in their order
(*Fold image format*, R895–R903, R906–R908, R948, R949). -/
namespace Sys2Proof.Machine

open Sys2Proof

/-! The container (R895, Tables IMG-1 and IMG-2). -/

/-- A directory entry. -/
structure Envelope where
  wafer : Nat
  serial : Nat
  nonce : List Byte
  offset : Nat
  clen : Nat
  raw : List Byte
deriving DecidableEq, Repr

def envelopesOf (c : List Byte) : List Envelope :=
  (List.range (fld c 9 1)).map fun i =>
    let o := 128 + 32 * i
    ⟨fld c o 1, fld c (o + 4) 8, slice c (o + 12) 12, fld c (o + 24) 4, fld c (o + 28) 4, slice c o 32⟩

def allZero (b : List Byte) : Bool := b.all fun x => x = 0

/-- The envelopes lie one after another behind the directory. -/
def packed : List Envelope → Nat → Nat → Bool
  | [], o, len => o = len
  | e :: es, o, len => e.offset = o && packed es (o + e.clen + 16) len

/-- Steps 1 to 5, before decryption: each check with its code, in order. -/
def State.headerSteps (s : State) (f : Fold) (c : List Byte) : List (Bool × Nat) :=
  let es := envelopesOf c
  let local_ := es.find? fun e => e.wafer = s.me
  [(fld c 0 4 = 0x474D4946 && fld c 36 4 = c.length && 128 ≤ c.length && 1 ≤ fld c 9 1 && fld c 9 1 ≤ 16
      && packed es (128 + 32 * es.length) c.length && allZero (slice c 48 80) && fld c 11 1 < 4
      && es.all fun e => allZero (e.raw.drop 1 |>.take 3), 701),
   (fld c 4 1 = 1 && fld c 5 1 ≤ 1 && fld c 12 4 = 0, 702),
   (fld c 6 2 / 4 % 2 = 1, 703),
   (fld c 8 1 = f.id && slice c 16 16 = f.label, 704),
   (decide (es.length = ((List.range 16).filter fun w => f.wafers.getLsbD w).length)
      && ((List.range 16).all fun w => !f.wafers.getLsbD w || es.any fun e => e.wafer = w)
      && (match local_ with
        | some e => e.serial = s.fuses.serial.toNat && (match f.image with
            | some im => im.nonce ≠ e.nonce || im.digest = Config.sha256 c
            | none => true)
        | none => false), 705)]

/-- The plaintext record stream of the local envelope; none where its tag fails (R896). -/
def State.openEnvelope (s : State) (f : Fold) (c : List Byte) : Option (List Byte) :=
  match (envelopesOf c).find? fun e => e.wafer = s.me with
  | none => none
  | some e => Config.gcmOpen (kimgLabel f.label e.serial) e.nonce (c.take 128 ++ e.raw ++ (c.drop e.offset).take (e.clen + 16))

/-- The code of the first step that fails. -/
def firstFail (l : List (Bool × Nat)) : Option Nat := (l.find? fun x => !x.1).map fun x => x.2

/-- Whether the tag of this wafer's envelope fails under the key of the label its own header names (R896, R910). -/
def State.tagFails (s : State) (c : List Byte) : Bool :=
  ((envelopesOf c).find? fun e => e.wafer = s.me && e.serial = s.fuses.serial.toNat).any fun e =>
    (Config.gcmOpen (kimgLabel (slice c 16 16) e.serial) e.nonce (c.take 128 ++ e.raw ++ (c.drop e.offset).take (e.clen + 16))).isNone

/-- The code of a container refused before decryption: a failed tag takes E-707 over steps 2 to 5 (R906, R910). -/
def State.headerFail (s : State) (f : Fold) (c : List Byte) : Option Nat :=
  (firstFail (s.headerSteps f c)).map fun code => if code ≠ 701 && s.tagFails c then 707 else code

/-! Framing (R899–R901, Tables IMG-3 and IMG-4). -/

/-- A record stream cut into records; none where a header, a length or a CRC is wrong, or END is not the last. -/
def parseRecs : Nat → List Byte → Option (List Rec)
  | 0, _ => none
  | n + 1, b =>
    let typ := fld b 0 2
    let len := fld b 8 4
    let body := (b.drop 16).take len
    if b.length < 16 + len || len % 8 ≠ 0 || fld b 7 1 ≠ 0 || 2 ≤ fld b 2 2 || fcsOf body ≠ slice b 12 4 then none
    else
      let r : Rec := ⟨typ, fld b 2 2, fld b 4 2, fld b 6 1, body⟩
      if typ = 0x7F then (if len = 0 && b.length = 16 then some [r] else none)
      else (parseRecs n (b.drop (16 + len))).map fun rs => r :: rs

/-- The place of a record type in Table IMG-4; none for an unknown one. -/
def recRank (typ : Nat) : Option Nat :=
  if 1 ≤ typ && typ ≤ 6 then some (typ - 1)
  else if typ = 0x10 || typ = 0x11 || typ = 0x12 || typ = 0x13 || typ = 0x14 then some 6
  else if typ = 0x20 then some 7
  else if typ = 0x21 then some 8
  else if typ = 0x7F then some 9
  else none

/-- The place of a record in its stream: rank, paddock, context, and FCTX or CCTX, ROUTE, RESET within it; LINK last. -/
def recPlace (r : Rec) : Nat :=
  let rank := (recRank r.typ).getD 0
  if rank ≠ 6 then rank * 2 ^ 24
  else
    6 * 2 ^ 24 + r.pad * 256 + (if r.typ = 0x13 then 255
      else r.ctx * 4 + (if r.typ = 0x12 then 1 else if r.typ = 0x14 then 2 else 0))

def rising : List Nat → Bool
  | a :: b :: rest => decide (a < b) && rising (b :: rest)
  | _ => true

def sorted : List Nat → Bool
  | a :: b :: rest => decide (a ≤ b) && sorted (b :: rest)
  | _ => true

/-- A body of `n` bytes padded with zeros to a multiple of 8. -/
def padded (b : List Byte) (n : Nat) : Bool := b.length = 8 * ceilDiv n 8 && allZero (b.drop n)

/-- Where the entries of TRANSITION, RELOC and RESET bodies end. -/
def transEnd : Nat → List Byte → Nat → Nat
  | 0, _, o => o
  | n + 1, b, o => transEnd n b (o + 12 + 4 * fld b (o + 6) 1)

def relocEnd : Nat → List Byte → Nat → Nat
  | 0, _, o => o
  | n + 1, b, o => relocEnd n b (o + 12 + 8 * fld b (o + 8) 4)

def resetEnd : Nat → List Byte → Nat → Nat
  | 0, _, o => o
  | n + 1, b, o => resetEnd n b (o + 16 + 8 * ceilDiv (fld b (o + 8) 4) 8)

/-- The padding and the reserved word behind each run of a RESET body. -/
def resetPads : Nat → List Byte → Nat → Bool
  | 0, _, _ => true
  | n + 1, b, o =>
    let len := fld b (o + 8) 4
    fld b (o + 12) 4 = 0 && padded (slice b (o + 16) (8 * ceilDiv len 8)) len && resetPads n b (o + 16 + 8 * ceilDiv len 8)

/-! What a context record holds. -/

def fctxWord (b : List Byte) : DWord := BitVec.ofNat 64 (fld b 0 8)
def fctxIns (b : List Byte) (e i : Nat) : DWord := BitVec.ofNat 64 (fld b (8 + 1024 * e + 8 * i) 8)
def fctxRouter (b : List Byte) (e : Nat) : DWord := BitVec.ofNat 64 (fld b (1048584 + 8 * e) 8)
def fctxDesc (b : List Byte) (e j : Nat) : DWord := BitVec.ofNat 64 (fld b (1056776 + 32 * e + 8 * j) 8)

/-- The instructions a tile's context issues: slots below II. -/
def fctxSched (b : List Byte) (e : Nat) : List DWord := (List.range (fwII (fctxWord b))).map (fctxIns b e)

/-- Whether a SEND of the tile names an outlet descriptor (R901). -/
def fctxUses (b : List Byte) (e j : Nat) : Bool := (fctxSched b e).any fun i => insOp i = 0x30 && insImm i % 4 = j

def cctxCmd (b : List Byte) (i : Nat) : DWord := BitVec.ofNat 64 (fld b (8 + 8 * i) 8)
def cctxDesc (b : List Byte) (j : Nat) : DWord := BitVec.ofNat 64 (fld b (2056 + 8 * j) 8)
def cctxStage (b : List Byte) (v j : Nat) : BitVec 256 := BitVec.ofNat 256 (fld b (2184 + 1024 * v + 32 * j) 32)
def cctxAg (b : List Byte) (m j : Nat) : BitVec 256 := BitVec.ofNat 256 (fld b (6280 + 1280 * m + 32 * j) 32)
def cctxHbm (b : List Byte) (m j : Nat) : BitVec 128 := BitVec.ofNat 128 (fld b (7304 + 1280 * m + 16 * j) 16)

/-- The commands of a stream: those below NCMD. -/
def cctxCmds (b : List Byte) : List DWord := (List.range (min 256 (cwNcmd (fctxWord b)))).map (cctxCmd b)

def cctxStageUsed (b : List Byte) (v j : Nat) : Bool := (cctxCmds b).any fun c => cmdOp c = 1 && cmdUnit c = v && cmdDesc c = j
def cctxHbmUsed (b : List Byte) (m j : Nat) : Bool := (cctxCmds b).any fun c => cmdOp c = 3 && cmdUnit c = m && cmdDesc c = j
def cctxAgUsed (b : List Byte) (m j : Nat) : Bool :=
  ((cctxCmds b).any fun c => cmdOp c = 2 && cmdUnit c = m && cmdDesc c = j)
    || (List.range 16).any fun h => cctxHbmUsed b m h && hdAgd (cctxHbm b m h) = j

/-- Units and descriptors as pairs. -/
def grid (units n : Nat) : List (Nat × Nat) := (List.range units).flatMap fun u => (List.range n).map fun j => (u, j)

def cctxStages (b : List Byte) : List (Nat × BitVec 256) :=
  ((grid 4 32).filter fun q => cctxStageUsed b q.1 q.2).map fun q => (q.1, cctxStage b q.1 q.2)
def cctxAgs (b : List Byte) : List (Nat × BitVec 256) :=
  ((grid 4 32).filter fun q => cctxAgUsed b q.1 q.2).map fun q => (q.1, cctxAg b q.1 q.2)
def cctxHbms (b : List Byte) : List (Nat × BitVec 128) :=
  ((grid 4 16).filter fun q => cctxHbmUsed b q.1 q.2).map fun q => (q.1, cctxHbm b q.1 q.2)

/-- Whether a used AG or stage descriptor names an outlet descriptor (R901). -/
def cctxUses (b : List Byte) (j : Nat) : Bool :=
  ((cctxAgs b).any fun q => agPort q.2 = 9 && agMode q.2 = 0 && agOdesc q.2 = j)
    || (cctxStages b).any fun q => sdDst q.2 = 8 && sdOdesc q.2 = j

/-- Every outlet descriptor a context uses. -/
def Rec.outlets (r : Rec) : List DWord :=
  if r.typ = 0x10 then
    (List.range 1024).flatMap fun e => ((List.range 4).filter fun j => fctxUses r.body e j).map fun j => fctxDesc r.body e j
  else ((List.range 16).filter fun j => cctxUses r.body j).map fun j => cctxDesc r.body j

/-- The zeros that R901 asks of a context record. -/
def Rec.quiet (r : Rec) : Bool :=
  let b := r.body
  if r.typ = 0x10 then
    (List.range 1024).all fun e =>
      allZero (slice b (8 + 1024 * e + 8 * fwII (fctxWord b)) (8 * (128 - fwII (fctxWord b))))
        && (List.range 4).all fun j => fctxUses b e j || fctxDesc b e j = 0
  else
    allZero (slice b (8 + 8 * min 256 (cwNcmd (fctxWord b))) (8 * (256 - cwNcmd (fctxWord b))))
      && ((List.range 16).all fun j => cctxUses b j || cctxDesc b j = 0)
      && ((grid 4 32).all fun q => cctxStageUsed b q.1 q.2 || cctxStage b q.1 q.2 = 0)
      && ((grid 4 32).all fun q => cctxAgUsed b q.1 q.2 || cctxAg b q.1 q.2 = 0)
      && (grid 4 16).all fun q => cctxHbmUsed b q.1 q.2 || cctxHbm b q.1 q.2 = 0

/-- The counts and lengths of a record's body (Table IMG-5). -/
def Rec.framed (r : Rec) : Bool :=
  let b := r.body
  let n := fld b 0 4
  if r.typ = 1 then padded b (8 + 4 * fld b 2 2 + 4 * fld b 1 1 + 4 * fld b 4 2) && fld b 6 2 = 0
    && (List.range (fld b 4 2)).all fun i => fld b (8 + 4 * fld b 2 2 + 4 * fld b 1 1 + 4 * i + 3) 1 = 0
  else if r.typ = 2 then b.length = 32 && fld b 31 1 = 0
  else if r.typ = 3 then b.length = 104 && fld b 3 1 ≤ 16 && fld b 2 1 ≤ 16 && allZero (b.drop (36 + 4 * fld b 3 1)) 
  else if r.typ = 4 then b.length = 8 + 16 * n && fld b 4 4 = 0 && (List.range n).all fun i => fld b (14 + 16 * i) 2 = 0
  else if r.typ = 5 then padded b (8 + 4 * fld b 4 4)
  else if r.typ = 6 then decide (12 * n ≤ b.length) && fld b 4 4 = 0 && padded b (transEnd n b 8)
  else if r.typ = 0x10 then b.length = 1089544 && r.quiet
  else if r.typ = 0x11 then b.length = 11400 && r.quiet
  else if r.typ = 0x12 then padded b (20 + 4 * fld b 16 2) && fld b 18 2 = 0
  else if r.typ = 0x14 then decide (16 * n ≤ b.length) && fld b 4 4 = 0 && b.length = resetEnd n b 8 && resetPads n b 8
  else if r.typ = 0x13 then b.length = 8 + 8 * fld b 4 2 && fld b 6 2 = 0
  else if r.typ = 0x20 then decide (12 * n ≤ b.length) && fld b 4 4 = 0 && padded b (relocEnd n b 8)
  else if r.typ = 0x21 then decide (12 * n ≤ b.length) && fld b 4 4 = 0 && padded b (8 + 12 * n)
  else b.length = 0

/-- The paddock and context a record's header names for its type. -/
def Rec.placed (r : Rec) : Bool :=
  if r.typ = 0x10 then isFine r.pad && r.pad < 1344 && r.ctx < 4
  else if r.typ = 0x11 then !isFine r.pad && r.pad < 1344 && r.ctx < 4
  else if r.typ = 0x12 || r.typ = 0x14 then r.pad < 1344 && r.ctx < 4
  else if r.typ = 0x13 then r.pad < 1344 && r.ctx = 255
  else r.pad = 65535 && r.ctx = 255

/-- The contexts of an image: their records. -/
def Image.ctxRecs (im : Image) : List Rec := im.recs.filter fun r => r.typ = 0x10 || r.typ = 0x11

/-- Step 6: types, order, counts, lengths and R901. Unknown OPTIONAL records have been skipped. -/
def Image.framingOk (im : Image) : Bool :=
  let rs := im.recs
  let count (t : Nat) : Nat := (rs.filter fun r => r.typ = t).length
  (rs.all fun r => (recRank r.typ).isSome && r.placed && r.framed)
    && sorted (rs.map recPlace) && rising ((rs.filter fun r => recRank r.typ = some 6).map recPlace)
    && (match rs.head? with
      | some r => r.typ = 1
      | none => false)
    && count 1 = 1 && count 2 ≤ 1024 && rising (im.entries.map fun e => e.no) && count 3 ≤ 16
    && count 4 ≤ 1 && count 5 ≤ 1 && count 6 ≤ 1 && count 0x20 ≤ 1 && count 0x21 ≤ (if im.minor = 0 then 0 else 1) && count 0x7F = 1
    && (im.ctxRecs.all fun r => (im.recAt 0x12 r.pad r.ctx).isSome)
    && rs.all fun r =>
      !(r.typ = 0x12 || r.typ = 0x14 || r.typ = 0x13) || im.ctxRecs.any fun c => c.pad = r.pad && (r.typ = 0x13 || c.ctx = r.ctx)

/-! Steps 7 to 12: geometry, yokes, pages, entries, classes, the checkpoint set. -/

/-- The paddocks of an image, and the SHARED slot each has, if any. -/
def Image.pads (im : Image) : List Nat := (geoPads im.geo).map fun e => e.1
def Image.slotOf (im : Image) (n : Nat) : Option Nat :=
  ((geoPads im.geo).find? fun e => e.1 = n).bind fun e => if e.2.1 = 0 then none else some (e.2.1 - 1)

/-- Removals that the image carries out: what was recorded and is not named (R443). -/
def Image.drops (im : Image) (f : Fold) : List Nat × List (Nat × Nat) × List Nat :=
  (f.pendRemove.filter fun n => !im.pads.contains n,
   f.pendSlots.filter fun q => !((geoPads im.geo).any fun e => e.1 = q.1 && e.2.1 = q.2 + 1),
   f.pendPages.filter fun i => !((geoPages im.geo).any fun g => g.1 = i))

/-- R444: nothing that is in use is removed by the commit. -/
def State.shrinkOk (s : State) (im : Image) (f : Fold) : Bool :=
  let d := im.drops f
  let pads := d.1 ++ d.2.1.map fun q => q.1
  s.neds.all fun (n : Ned) => n.bindings.all fun b => b.2.state ≠ 1 || hdlFold b.2.handle ≠ f.id || !pads.contains b.2.dest

/-- Step 7 (R65, R437, R444, R949). -/
def State.geometryOk (s : State) (im : Image) (f : Fold) : Bool :=
  let g := im.geo
  let es := geoPads g
  let has (n : Nat) : Nat := ((im.ctxsOf n).map fun k => 2 ^ k).sum
  let cls := fld g 0 1
  !es.isEmpty && rising (im.pads.mergeSort fun a b => decide (a ≤ b)) && cls ≤ 2 && decide (im.flags / 2 % 2 = (if cls = 0 then 0 else 1))
    && (cls ≠ 0 || es.all fun e => e.2.1 = 0) && (cls ≠ 1 || es.all fun e => e.2.1 ≠ 0)
    && (cls ≠ 2 || ((es.any fun e => e.2.1 = 0) && es.any fun e => e.2.1 ≠ 0))
    && (es.all fun e => e.1 < 1344 && s.placeable e.1 && e.2.1 ≤ 4 && e.2.2 = has e.1
      && (if e.2.1 = 0 then f.excl.contains e.1
          else f.slots.contains (e.1, e.2.1 - 1) && (e.2.2 = 0 || e.2.2 = 2 ^ (e.2.1 - 1))))
    && (im.ctxRecs.all fun r => im.pads.contains r.pad) && s.shrinkOk im f

/-- Step 8 (R66, R571). -/
def State.yokesOk (s : State) (im : Image) : Bool :=
  let ys := geoYokes im.geo
  let whole (n : Nat) : Bool := (geoPads im.geo).any fun e => e.1 = n && e.2.1 = 0
  (ys.all fun ms =>
    2 ≤ ms.length && ms.length ≤ 8
      && (ms.all fun n => n < 1344 && padRow n = padRow (ms.getD 0 0) && whole n && ((s.entry n).st = 0 || (s.entry n).st = 1)
        && decide ((s.pad (ms.getD 0 0)).n ≤ railMaxN (min (s.field (fieldOf n)).vcore (s.field (fieldOf n)).vtarget))))
    && decide (ys.flatten.eraseDups.length = ys.flatten.length)

/-- R573: an overlapped image leaves the yokes of the paddocks it retains as they are. -/
def State.yokesKept (s : State) (im : Image) (f : Fold) : Bool :=
  let old := (f.image.map fun (o : Image) => o.pads).getD []
  let ys := geoYokes im.geo
  old.all fun n => (match (s.pad n).yoke with
    | some y => ys.contains y.members
    | none => !(ys.any fun ms => ms.contains n))

/-- Step 9 (R367): pages named by the geometry and by linear HBM descriptors. -/
def pagesOk (im : Image) (f : Fold) : Bool :=
  let has (i med : Nat) : Bool := f.pages.any fun p => p.1 = i && p.2.1 = med
  ((geoPages im.geo).all fun g => has g.1 g.2)
    && im.ctxRecs.all fun r => r.typ ≠ 0x11 || (cctxHbms r.body).all fun q =>
      2 ^ 37 ≤ hdAddr q.2 || (List.range ((hdAddr q.2 + hdLen q.2 - 1) / 2097152 + 1 - hdAddr q.2 / 2097152)).all fun i =>
        has (hdAddr q.2 / 2097152 + i) (hdMed q.2)

/-- Step 10 (R442). -/
def State.entriesOk (s : State) (im : Image) (f : Fold) : Bool :=
  ((s.foldChannels f.id).all fun c => c.closed || (im.entry c.entry).isSome)
    && im.entries.all fun e =>
      e.ctx ≤ 3 && im.pads.contains e.dest && im.pads.contains e.rsrc && (match e.cls with
        | some c => c ≤ 15
        | none => true)
        && (e.dLow = 0 || e.q ≤ e.dLow) && (e.dHigh = 0 || e.q ≤ e.dHigh) && (e.dLow = 0 || e.dHigh = 0 || e.dLow ≤ e.dHigh)

/-- Step 11 (Table SEQ-1). -/
def State.classesOk (s : State) (im : Image) : Bool :=
  im.classes.all fun c =>
    c.cls ≤ 15 && c.ctx ≤ 3 && 1 ≤ c.streams.length && c.streams.length ≤ 16 && (c.streams.all fun b => 1 ≤ b && b ≤ 40)
      && 1 ≤ c.fan.length && c.fan.length ≤ 16
      && c.fan.all fun x => x.1 < 1344 && !isFine x.1 && x.2.1 ≤ 15 && x.2.2 ≤ 3 && (x.2.1 ≠ s.me || im.pads.contains x.1)

/-- The bytes of a context's window in the store a kind names; none where the kind is not one of the paddock (R948). -/
def storeBytes (fine : Bool) (w : DWord) (kind : Nat) : Option Nat :=
  if fine then
    if kind = 0 then some (4 * fwRegCnt w) else if kind = 1 then some (256 * fwScrSize w) else none
  else if kind = 2 then some (65536 * cwMsize w) else if kind = 3 then some (192 * 256) else none

/-- Whether a run lies wholly in its window (R948). -/
def inStore (fine : Bool) (w : DWord) (kind unit off len : Nat) : Bool :=
  unit < (if fine then 1024 else 4) && match storeBytes fine w kind with
    | some n => decide (off + len ≤ n)
    | none => false

/-- Step 12 (R460, R948). -/
def ckptOkFor (im : Image) (f : Fold) : Bool :=
  decide (ckptPagesFor im.ckptBytes ≤ f.cpages)
    && im.regions.all fun r => (im.ctxsOf r.pad).contains r.ctx && inStore (isFine r.pad) (im.wordOf r.pad r.ctx) r.kind r.unit r.off r.len

/-! Steps 13 to 18: contexts (R172, R174, R176, R195, R202, R204, R207, R230, R231, R234, R250, R262, R947). -/

/-- Step 13. -/
def Rec.wordOk (r : Rec) (slot : Option Nat) : Bool :=
  let w := fctxWord r.body
  if r.typ = 0x10 then
    10 ≤ fwWdog w && fwWdog w ≤ 30 && 1 ≤ fwRegCnt w && fwRegBase w + fwRegCnt w ≤ 32 && 1 ≤ fwScrSize w && fwScrBase w + fwScrSize w ≤ 16
      && bitsOf w 32 32 = 0
      && (match slot with
        | some k => fwRegBase w = 8 * k && fwRegCnt w = 8 && fwScrBase w = 4 * k && fwScrSize w = 4
        | none => true)
      && (List.range 1024).all fun e => (fctxSched r.body e).all fun i => insInWindow i (fwRegBase w) (fwRegCnt w)
  else
    10 ≤ cwWdog w && cwWdog w ≤ 30 && 1 ≤ cwMsize w && cwMbase w + cwMsize w ≤ 32 && 1 ≤ cwNcmd w && cwNcmd w ≤ 256 && bitsOf w 41 23 = 0
      && (match slot with
        | some k => cwMbase w = 8 * k && cwMsize w = 8
        | none => true)

/-- R947: a latency-2 result and the next slot's latency-1 result never leave toward one direction. -/
def outClash (is : List DWord) : Bool :=
  (List.range is.length).any fun s =>
    let a := is.getD s 0
    let b := is.getD ((s + 1) % is.length) 0
    opLatency2 (insOp a) && !opLatency2 (insOp b) && (outDirs (insOut a)).any fun d => (outDirs (insOut b)).contains d

/-- A direction in which tile `e` has no fine neighbour (R172). -/
def noNeighbour (e d : Nat) : Bool := (tileBeyond e d).isNone

/-- Step 14. -/
def Rec.schedulesOk (r : Rec) : Bool :=
  r.typ ≠ 0x10 || (List.range 1024).all fun e =>
    let is := fctxSched r.body e
    let w := fctxRouter r.body e
    let dirs := [bitsOf w 15 3, bitsOf w 18 3]
    (is.all fun i => insLegal i && (outDirs (insOut i)).all fun d => !noNeighbour e d) && !outClash is
      && ((List.range 4).all fun d =>
        let x := bitsOf w (3 * d) 3
        !(1 ≤ x && x ≤ 4 && noNeighbour e (x - 1)))
      && (bitsOf w 12 3 = 0 || dirs.all fun x => !(x ≤ 3 && noNeighbour e x))

/-- An outlet descriptor (Table FINE-8). -/
def outletOk (d : DWord) : Bool :=
  (descType d = 1 && !descMwr d || descType d = 4) && !bitAt d 31 && bitsOf d 48 16 = 0

/-- Step 15. -/
def Rec.routersOk (r : Rec) : Bool :=
  (r.typ ≠ 0x10 || (List.range 1024).all fun e =>
    let w := fctxRouter r.body e
    let byp := (List.range 4).map fun d => bitsOf w (3 * d) 3
    (byp.all fun x => x ≤ 5) && bitsOf w 12 3 ≤ 5 && bitsOf w 15 3 ≤ 5 && bitsOf w 18 3 ≤ 5
      && (bitsOf w 12 3 ≠ 0 || (!(byp.contains 5) && (fctxSched r.body e).all fun i => insOp i ≠ 0x31)))
    && r.outlets.all outletOk

/-- The unit a command names: V-units for VRUN and PARAM, which have no AG whatever bit 24 holds, M-units with their AG for MRUN and
HBMX. -/
def cmdNames (c : DWord) : Nat := if cmdOp c = 1 || cmdOp c = 4 then cmdUnit c else 8 + 2 * cmdUnit c + cmdAg c

/-- Step 16 (R234). -/
def Rec.streamOk (r : Rec) : Bool :=
  r.typ ≠ 0x11 ||
    (let cs := cctxCmds r.body
     let per := cwPeriod (fctxWord r.body)
     sorted (cs.map cmdTime)
       && cs.all fun c =>
         let same := cs.filter fun x => cmdTime x = cmdTime c
         let runs := (same.filter fun x => cmdOp x ≠ 0).map cmdNames
         cmdTime c < per && cmdOp c ≤ 4 && cmdPred c ≤ 2 && bitsOf c 30 2 = 0 && bitsOf c 52 12 = 0 && same.length ≤ 4
           && decide (runs.eraseDups.length = runs.length)
           && (cmdOp c ≠ 4 || (cmdRow c + cmdNrow c ≤ 192 && cmdPsrc c ≤ 7)) && (cmdOp c ≠ 3 || cmdDesc c ≤ 15))

/-- The AG descriptors that MRUN commands run on one AG. -/
def cctxRunsOn (b : List Byte) (m g : Nat) : List (BitVec 256) :=
  ((cctxCmds b).filter fun c => cmdOp c = 2 && cmdUnit c = m && cmdAg c = g).map fun c => cctxAg b m (cmdDesc c)

/-- The AGs a stage descriptor names: code, the kind of port (0 A, 1 W, 2 R or M, 3 output), and the PORT it asks for. -/
def stageAgs (v : Nat) (d : BitVec 256) : List (Nat × Nat × Nat) :=
  [(sdAsrc d, 0, 8), (sdWsrc d, 1, v), (if bitAt d 97 then sdRsrc d else 15, 2, 4 + v), (sdMsrc d, 2, 4 + v), (sdDst d, 3, 10)].filter
    fun x => x.1 ≤ 7

/-- An AG descriptor by itself (Tables COARSE-4 and COARSE-5). -/
def agOk (d : BitVec 256) : Bool :=
  let md := agMode d
  let pt := agPort d
  md ≤ 2 && bitsOf d 2 3 ≤ 5 && bitsOf d 6 2 ≤ 2 && bitsOf d 18 14 = 0 && bitsOf d 53 11 = 0 && bitsOf d 248 8 = 0
    && (if pt ≤ 8 then md = 0 else if pt = 9 || pt = 12 then md ≤ 1 else if pt = 10 then md = 1 else pt = 11 && md = 2)
    && (bitsOf d 2 3 < 3 || (bitsOf d 32 21 % 8 = 0 && ((List.range 4).all fun n => agStr d n % 8 = 0) && bitsOf d 224 24 % 8 = 0))

/-- Step 17 (R250, Table COARSE-6). -/
def Rec.agsOk (r : Rec) : Bool :=
  r.typ ≠ 0x11 ||
    (let b := r.body
     let cs := cctxCmds b
     let named := (cctxStages b).flatMap fun q => stageAgs q.1 q.2
     ((cctxAgs b).all fun q => agOk q.2)
       && (named.all fun x => ((cctxRunsOn b (x.1 / 2) (x.1 % 2)).any fun d => agPort d = x.2.2)
         && named.all fun y => y.1 ≠ x.1 || y.2.1 = x.2.1)
       && (cs.all fun c =>
         let d := if cmdOp c = 2 then cctxAg b (cmdUnit c) (cmdDesc c) else cctxAg b (cmdUnit c) (hdAgd (cctxHbm b (cmdUnit c) (cmdDesc c)))
         !((cmdOp c = 2 || cmdOp c = 3) && agInd d)
           || cs.any fun x => cmdOp x = 2 && cmdTime x = cmdTime c && cmdUnit x = cmdUnit c && cmdAg x ≠ cmdAg c
             && agMode (cctxAg b (cmdUnit x) (cmdDesc x)) = 2)
       && (cctxHbms b).all fun q =>
         let a := cctxAg b q.1 (hdAgd q.2)
         hdMed q.2 ≤ 11 && bitsOf q.2 5 3 = 0 && bitsOf q.2 13 19 = 0 && bitsOf q.2 85 43 = 0 && hdAddr q.2 % 64 = 0
           && agPort a = 12 && agMode a = (if hdWrite q.2 then 0 else 1))

/-- A stage descriptor (R262, Tables COARSE-7, COARSE-8, COARSE-10). -/
def stageOk (v : Nat) (d : BitVec 256) : Bool :=
  let ofmt := sdOfmt d
  let sc := sdScmode d
  let src (x : Nat) : Bool := x ≤ 8 || (10 ≤ x && x ≤ 13) || x = 15
  sdFmt d ≤ 7 && (src (sdAsrc d) || sdAsrc d = 9 || (sdAsrc d = 14 && 1 ≤ v)) && (sdWsrc d ≤ 7 || sdWsrc d = 15) && src (sdRsrc d) && src (sdMsrc d)
    && (sdDst d ≤ 8 || (sdDst d = 9 && v ≤ 2) || sdDst d = 15) && bitsOf d 43 5 = 0 && bitsOf d 126 2 = 0 && bitsOf d 134 26 = 0
    && bitsOf d 98 2 ≤ 2 && bitsOf d 104 3 ≤ 4 && bitsOf d 107 3 ≤ 6 && bitsOf d 110 3 ≤ 3 && ofmt ≤ 9 && bitsOf d 132 2 ≤ 1
    && (sc ≠ 3 || bitsOf d 182 10 = 0)
    && (!bitAt d 100 || fpLt (ofF32 (BitVec.ofNat 32 (bitsOf d 192 32))) (ofF32 (BitVec.ofNat 32 (bitsOf d 224 32))))
    && (if sdFmt d = 5 then 4 else 1) ≤ sdPace d
    && !(bitAt d 97 && sdRsrc d = sdMsrc d && sdMsrc d ≠ 15)
    && !(sc = 3 && (bitAt d 100 || (2 ≤ ofmt && ofmt ≤ 6) || ofmt = 9))
    && !(bitsOf d 98 2 = 1 && sc ≠ 3)
    && !(sdBypass d && (sdKblk d ≠ 1 || sdNacc d ≠ 1 || sdMsrc d ≠ 15 || sdWsrc d ≠ 15))
    && !(sdMsrc d ≠ 15 && sdInt d)

/-- Step 18. -/
def Rec.stagesOk (r : Rec) : Bool := r.typ ≠ 0x11 || (cctxStages r.body).all fun q => stageOk q.1 q.2

/-! Steps 19 to 23: routes, links, reset values, transitions, relocation. -/

/-- A route entry (Table MAP-2, R55, R56, R136). -/
def routeOk (n : Nat) (x : Nat) : Bool :=
  let e := routeOf x
  let port := e.2.1
  let lane := e.2.2.1
  destListed e.1 && x / 2 ^ 17 = 0 && port ≤ 4
    && (if lane = 0 then port = 0 && e.2.2.2
        else port = 4 || (padBeyond n port).isSome || (match attachedDie n port with
          | some a => decide (a.1 < 1632)
          | none => false))

/-- Step 19 (R403, R414). -/
def State.routesOk (s : State) (im : Image) : Bool :=
  im.recs.all fun r =>
    r.typ ≠ 0x12 ||
      (let b := r.body
       let named (w : Nat) : Bool := 128 ≤ fld b w 1
       ((List.range (fld b 16 2)).all fun i => routeOk r.pad (fld b (20 + 4 * i) 4))
         && rising ((routeEntries b).map fun e => e.1)
         && ((List.range 16).all fun w =>
           let x := fld b w 1
           if 128 ≤ x then x = 128 + spdFor s.me w && w ≠ s.me && s.place.members.getLsbD w else x = 0)
         && im.ctxRecs.all fun c => !(c.pad = r.pad && c.ctx = r.ctx) || c.outlets.all fun d =>
           let w := bitsOf d 4 4
           (w = s.me || named w) && (descType d ≠ 4 || w = s.me))

/-- The paddock an AROUND detour leads to, and the two it passes. -/
def aroundEnds (n : Nat) (hops : List Nat) : Option (List Nat) :=
  hops.foldl (fun (acc : Option (List Nat)) h =>
    acc.bind fun l => (padBeyond (l.getLastD n) (h % 4)).map fun m => l ++ [m]) (some [n])

/-- A detour's class for its border and lane (Table MESH-7). -/
def detourOk (im : Image) (n d l : Nat) : Detour → Bool
  | .shift j => 1 ≤ j && j ≤ 3 && j ≠ l
  | .transit => true
  | .around hs =>
    hs.length = 3 && (hs.all fun h => h / 4 ≠ 0) && match aroundEnds n hs, padBeyond n d with
      | some path, some m => path.getLastD n = m && ((path.drop 1).dropLast.all fun x => im.pads.contains x)
      | _, _ => false

/-- Step 20. -/
def linksOk (im : Image) : Bool :=
  (im.recs.all fun r =>
    r.typ ≠ 0x13 || (linkDetours r.body).all fun x =>
      x.1 ≤ 3 && 1 ≤ x.2.1 && x.2.1 ≤ 3 && x.2.2.1 ≤ 1 && detourOk im r.pad x.1 x.2.1 x.2.2.2
        && ((linkDetours r.body).filter fun y => y.1 = x.1 && y.2.1 = x.2.1 && y.2.2.1 = x.2.2.1).length = 1)
    && (im.recs.filter fun r => r.typ = 0x13).all (fun r =>
      (List.range (fld r.body 4 2)).all fun i => fld r.body (11 + 8 * i) 1 ≤ 2 && fld r.body (15 + 8 * i) 1 = 0)
    && im.recs.all fun r =>
      r.typ ≠ 0x12 || (routeEntries r.body).all fun e =>
        e.2.1 = 4 || e.2.2.1 = 0 || (match im.recs.find? fun x => x.typ = 0x13 && x.pad = r.pad with
          | some l => (linkDetours l.body).any fun x => x.1 = e.2.1 && x.2.1 = e.2.2.1
          | none => false)

/-- The physical bytes of a run: kind, unit, first byte and count; parameter rows row by row (R902). -/
def runSpans (fine : Bool) (w : DWord) (shared : Bool) (k : Nat) (x : ResetRun) : List (Nat × Nat × Nat × Nat) :=
  let len := x.data.length
  if fine then
    if x.kind = 0 then [(0, x.unit, 4 * fwRegBase w + x.off, len)]
    else if x.kind = 1 then [(1, x.unit, 256 * fwScrBase w + x.off, len)]
    else [(4, x.unit, k, 1)]
  else if x.kind = 2 then [(2, x.unit, 65536 * cwMbase w + x.off, len)]
  else
    (List.range (ceilDiv (x.off % 256 + len) 256)).map fun i =>
      let r := x.off / 256 + i
      let lo := if i = 0 then x.off % 256 else 0
      (3, x.unit, 256 * paramRow shared k r + lo, min (x.off % 256 + len - 256 * i) 256 - lo)

def spansMeet (a b : Nat × Nat × Nat × Nat) : Bool :=
  a.1 = b.1 && a.2.1 = b.2.1 && decide (a.2.2.1 < b.2.2.1 + b.2.2.2) && decide (b.2.2.1 < a.2.2.1 + a.2.2.2)

/-- No two spans of a list meet. -/
def spansApart : List (Nat × Nat × Nat × Nat) → Bool
  | [] => true
  | x :: xs => (xs.all fun y => !spansMeet x y) && spansApart xs

/-- Step 21 (R902, R948). -/
def resetsOk (im : Image) : Bool :=
  (im.recs.all fun r =>
    r.typ ≠ 0x14 || (runsOf r.body).all fun x =>
      let fine := isFine r.pad
      x.ctx = r.ctx && (if fine && x.kind = 4 then x.unit < 1024 && x.off = 0 && x.data.length = 1 && leNat x.data < 32
        else inStore fine (im.wordOf r.pad r.ctx) x.kind x.unit x.off x.data.length))
    && im.pads.all fun n =>
      spansApart ((im.recs.filter fun r => r.typ = 0x14 && r.pad = n).flatMap fun r =>
        (runsOf r.body).flatMap fun x => runSpans (isFine n) (im.wordOf n r.ctx) (im.slotOf n).isSome r.ctx x)

/-- The registers a tile's schedule writes, and those it reads. -/
def schedWrites (is : List DWord) : List Nat := (is.filter fun i => insWR i || insOp i = 0x0B).map insDst
def schedReads (is : List DWord) : List Nat :=
  (is.filter fun i => insSA i = 0 && insOp i ≠ 0).map insRA ++ (is.filter fun i => insSB i = 0 && !opNoB (insOp i)).map insRB
    ++ (is.filter fun i => insOp i = 0x0B).map insDst
def schedStores (is : List DWord) : Bool := is.any fun i => 0x28 ≤ insOp i && insOp i ≤ 0x2A
def schedScratch (is : List DWord) : Bool := is.any fun i => (0x20 ≤ insOp i && insOp i ≤ 0x24) || (0x28 ≤ insOp i && insOp i ≤ 0x2A)

/-- R535 over two contexts of one plan: one writes what the other writes or reads. Scratch and SRAM are judged by windows. -/
def ctxClash (a b : Rec) : Bool :=
  let wa := fctxWord a.body
  let wb := fctxWord b.body
  let meet (x n y m : Nat) : Bool := x < y + m && y < x + n
  if a.typ = 0x10 then
    (List.range 1024).any fun e =>
      let ia := fctxSched a.body e
      let ib := fctxSched b.body e
      ((schedWrites ia).any fun r => (schedWrites ib ++ schedReads ib).contains r)
        || (meet (fwScrBase wa) (fwScrSize wa) (fwScrBase wb) (fwScrSize wb) && schedStores ia && schedScratch ib)
  else
    meet (cwMbase wa) (cwMsize wa) (cwMbase wb) (cwMsize wb)
      && (cctxAgs a.body).any fun q => agMode q.2 = 1 && (cctxAgs b.body).any fun x => x.1 = q.1

/-- Step 22 for one entry: its ranges (R530). -/
def transOk (im : Image) (e : TransEntry) : Bool :=
  im.pads.contains e.pad && e.out ≤ 3 && e.inc ≤ 3 && e.out ≠ e.inc && e.bwout.length ≤ 64 && (e.bwout.all fun d => destListed d.1)
    && (im.ctxsOf e.pad).contains e.inc && (im.sections ≥ 2 || e.run = 0)

/-- Step 22 (R525, R530, R535, R538, the sections count). Whether an image that holds contexts keeps to two flits of them is a free value
(log entry 62). -/
def State.transitionsOk (s : State) (im : Image) (f : Fold) (overlap : Bool) : Bool :=
  let ts := im.transitions
  let old := (f.image.map fun (o : Image) => o.pads).getD []
  decide (im.flags % 2 = (if (im.findRec 6).isSome then 1 else 0)) && 1 ≤ im.sections && im.sections ≤ 4
    && (ts.all fun e => transOk im e && (ts.filter fun x => x.pad = e.pad && x.out = e.out).length = 1
      && (ts.filter fun x => x.pad = e.pad && x.inc = e.inc).length = 1)
    && (!(ts.any fun e => e.handover) || Config.heldFlits im.digest)
    && (im.sections = 1 || im.pads.all fun n =>
      (im.ctxsOf n).length = im.sections && (im.ctxsOf n).all fun k => ts.any fun e => e.pad = n && e.out = k && e.handover && e.run ≠ 0)
    && (if overlap then
        im.sections = 1 && old.all fun n => im.pads.contains n
          && ((List.range 4).filter fun k => ((s.pad n).ctx k).st = .live).all fun k =>
            match ts.find? fun e => e.pad = n && e.out = k with
            | some e => !((im.ctxsOf n).contains k)
                && (e.handover || !windowsOverlap (isFine n) ((s.pad n).ctx k).word (im.wordOf n e.inc))
            | none => false
      else
        im.sections ≥ 2 || im.ctxRecs.all fun a => im.ctxRecs.all fun b => a.pad ≠ b.pad || a.ctx = b.ctx || !ctxClash a b)

/-- Step 23 (R60). -/
def relocsOk (im : Image) : Bool :=
  (im.relocs.all fun e =>
    im.pads.contains e.pad && e.targets.length ≤ 2 && (e.targets.all fun t => t < 1344 && isFine t = isFine e.pad && !im.pads.contains t)
      && e.patches.all fun p => 1 ≤ p.1 && p.1 ≤ 2 && p.2.1 ≤ 3)
    && im.dqs.all fun d => d.kind ≤ 2 && (im.entry d.entry).isSome

/-- Steps 6 to 23 on a decrypted stream: each check with its code, in order. -/
def State.recordSteps (s : State) (im : Image) (f : Fold) (overlap : Bool) : List (Bool × Nat) :=
  [(im.framingOk, 706), (s.geometryOk im f, 710), (s.yokesOk im && (!overlap || s.yokesKept im f), 711), (pagesOk im f, 712),
   (s.entriesOk im f, 713), (s.classesOk im, 714), (ckptOkFor im f, 715), (im.ctxRecs.all fun r => r.wordOk (im.slotOf r.pad), 720),
   (im.ctxRecs.all fun r => r.schedulesOk, 721), (im.ctxRecs.all fun r => r.routersOk, 722), (im.ctxRecs.all fun r => r.streamOk, 723),
   (im.ctxRecs.all fun r => r.agsOk, 724), (im.ctxRecs.all fun r => r.stagesOk, 725), (s.routesOk im, 730), (linksOk im, 731),
   (resetsOk im, 732), (s.transitionsOk im f overlap, 740), (relocsOk im, 741)]

/-- An image from its container and its decrypted stream; unknown OPTIONAL records are skipped (R907). -/
def imageOf (c : List Byte) (nonce : List Byte) (rs : List Rec) : Image :=
  { minor := fld c 5 1, flags := fld c 11 1, sections := fld c 10 1, version := fld c 32 4, created := fld c 40 8,
    digest := Config.sha256 c, nonce := nonce, size := c.length,
    recs := rs.filter fun r => (recRank r.typ).isSome || r.flags % 2 = 0 }

/-- The image in a container, its stream cut into records; none before decryption can succeed. -/
def State.readImage (s : State) (f : Fold) (c : List Byte) : Option Image :=
  (s.openEnvelope f c).bind fun b =>
    (parseRecs (b.length + 1) b).map fun rs =>
      imageOf c (((envelopesOf c).find? fun e => e.wafer = s.me).map (fun e => e.nonce) |>.getD []) rs

/-- Check a container for a fold: the image, or the code of R906. -/
def State.validate (s : State) (f : Fold) (c : List Byte) (overlap : Bool) : Sum Nat Image :=
  match s.headerFail f c with
  | some code => .inl code
  | none =>
    match s.openEnvelope f c with
    | none => .inl 707
    | some _ =>
      match s.readImage f c with
      | none => .inl 706
      | some im =>
        match firstFail (s.recordSteps im f overlap) with
        | some code => .inl code
        | none => .inr im

end Sys2Proof.Machine
end

