-- ==== Sys2Proof/Machine/LoadOps.lean ====
section
/-! DEFINITION. What loads and transitions share: the phases of a full load and of an overlapped reconfiguration, their
failure, the commit of an image, bindings rewritten, forced retirement (*Loading and changing configurations*, R508–R558;
R456, R905). -/
namespace Sys2Proof.Machine

open Sys2Proof

/-! What is in progress (R511, R540, R546). -/

def Load.begun (l : Load) : Bool := l.phase ≠ .queued

def State.loadsBegun (s : State) : Nat := (s.folds.filter fun (f : Fold) => match f.load with
  | some l => l.begun
  | none => false).length

/-- Every context of a fold: paddock and context. -/
def Fold.ctxs (f : Fold) : List (Nat × Nat) := (f.excl.flatMap fun n => (List.range 4).map fun k => (n, k)) ++ f.slots

/-- A MED or SPD holds an unanswered request or an undelivered message of a fold, of an epoch that `p` takes. -/
def State.dieHolds (s : State) (id : Nat) (p : BitVec 3 → Bool) : Bool :=
  let flit (f : Flit) : Bool := f.fold.toNat = id && p f.epoch
  (s.meds.any fun (m : Med) => (m.queue.any fun r => r.fold = id && p r.epoch) || m.partials.any fun x => (x.cmd :: x.data).any flit)
    || s.spds.any fun (d : Spd) => (d.sendQ.any fun q => flit q.flit) || (d.replay.any fun b => b.slots.any fun q => flit q.flit)
      || d.partials.any fun m => m.flits.any flit

/-- A muster's three conditions (R540). -/
def State.quietFold (s : State) (f : Fold) : Bool :=
  (f.ctxs.all fun q => s.occupancy q.1 q.2 = 0) && (s.inWafer f.id).isEmpty && !s.dieHolds f.id fun _ => true

/-- The largest Q of a fold's entries, in ns. -/
def Fold.qMax (f : Fold) : Nat := ((f.image.map fun (im : Image) => im.entries).getD []).foldl (fun a e => max a e.q) 0

/-! Clearing (Table RECFG-3 steps 3 and 4; R544). -/

/-- Hurdle every paddock of a fold, revoke its credits and shear everything to zero; a slot is LOADING instead (R445). -/
def State.clearFold (s : State) (f : Fold) : State :=
  let s1 := f.excl.foldl (fun s n => (s.hurdleFor n f.id).shearPad n) s
  let s2 := f.slots.foldl (fun s q => (s.modPad q.1 fun p => p.setLoading q.2 true).shearSlot q.1 q.2 f.id) s1
  s2.revokeSpan f.id true

/-- The paddocks of a fold's committed image. -/
def Fold.committed (f : Fold) : List Nat := (f.image.map fun (im : Image) => im.pads.map f.place).getD []

/-- Return what a grow added and no image has committed (R444). -/
def State.returnAdded (s : State) (id : Nat) : State :=
  match s.foldOf id with
  | none => s
  | some f =>
    match f.image with
    | none => s
    | some _ => s.takeOut id (f.excl.filter fun n => !f.committed.contains n) (f.slots.filter fun q => !f.committed.contains q.1) []

/-! Failure (R517, R520, R521, R548, R549). -/

/-- Staged and STANDBY contexts of an overlapped load become FREE, zeroed. -/
def State.freeStaged (s : State) (cs : List (Nat × Nat)) : State :=
  cs.foldl (fun s q => s.modPad q.1 fun p => p.zeroCtx q.1 q.2 none) s

/-- A load fails with a code: its bell, its code in `show fold`, and what R521 or R517 leaves. -/
def State.loadFail (s : State) (id code : Nat) (cause : Option String) : State :=
  match s.foldOf id with
  | none => s
  | some f =>
    match f.load with
    | none => s
    | some l =>
      let ended (s : State) : State := s.modFold id fun (g : Fold) => { g with load := none, loadCode := some code }
      let bell (s : State) : State := s.ring "fold" true ([("id", .num id), ("load", .word "failed"), ("code", .num code)] ++ match cause with
        | some c => [("cause", .word c)]
        | none => [])
      if !l.begun then bell (ended s)
      else if l.overlap then bell (((ended (s.freeStaged l.staged)).returnAdded id).mirror)
      else
        let s1 := ((s.waferOut id rsReconfigured).clearFold f).returnAdded id
        let s2 := (ended s1).modFold id fun (g : Fold) => { g with image := none }
        let s3 := { s2 with retained := s2.retained.filter fun r => r.1 ≠ id }
        bell ((s3.setFoldSt id (if f.transitions = 0 then .created else .stopped)).mirror)

/-! Beginning (Table RECFG-3 step 1; R518, R526, R546). -/

/-- Whether a load's fold is in a state from which it may begin (Table FOLD-2). -/
def Fold.mayBegin (f : Fold) (l : Load) : Bool :=
  f.transition.isNone && f.muster.isNone && f.release.isNone
    && (if l.overlap then f.st = .running else f.st = .created || f.st = .running || f.st = .stopped || f.st = .doubt)

/-- A queued load begins: the checks before decryption at once; a full load's fold enters LOADING and drains. -/
def State.beginLoad (s : State) (id : Nat) : State :=
  match s.foldOf id with
  | none => s
  | some f =>
    match f.load with
    | none => s
    | some l =>
      let phase : LoadPhase := if l.overlap || f.st = .created then .decrypting else .draining
      let s1 := s.modFold id fun (g : Fold) => { g with load := some { l with phase := phase, since := s.now }, recovery := if l.overlap then g.recovery else none }
      let s2 := if l.overlap then s1 else (s1.setFoldSt id .loading).penOut id rsLoading
      match s2.headerFail f l.container with
      | some code => s2.loadFail id code none
      | none => s2.mirror

/-- Drained: hurdled, revoked, sheared; decryption goes on (Table RECFG-3 steps 3 and 4). -/
def State.loadDrained (s : State) (id : Nat) : State :=
  match s.foldOf id with
  | none => s
  | some f =>
    (s.clearFold f).modFold id fun (g : Fold) => { g with load := g.load.map fun l => { l with phase := .decrypting } }

/-! Commit (Table RECFG-3 steps 5 to 8; R456, R508, R518, R524, R905). -/

/-- A channel's deadline under a new entry: the default follows it, a named one stays within its bounds. -/
def newDeadline (old new : Entry) (d : Nat) : Nat :=
  if d = old.dHigh then new.dHigh
  else if d = 0 then 0
  else
    let lo := max d (max new.dLow (if new.cls.isNone then new.q else 0))
    if new.dHigh = 0 then lo else min lo new.dHigh

/-- Rewrite every binding of a channel to its entry in a new image, atomically (R456). -/
def State.rebindChannel (s : State) (id : Nat) (c : Channel) (old new : Entry) : State :=
  let d := newDeadline old new c.deadline
  let nl : List Ned := s.neds.mapIdx fun k (x : Ned) =>
    x.rebind (fun b => b.2.state = 1 && b.2.handle = c.handle) fun b =>
      let e := (s.eportFor k id new.dest).getD b.eport
      (b.withWord 9 (BitVec.ofNat 32
        (new.dest % 2048 + 2048 * (new.endpt % 1024) + 2 ^ 21 * (new.ctx % 4) + 2 ^ 23 * (e % 2)))).withWord 10
        (BitVec.ofNat 32 d)
  let s1 : State := { s with neds := nl }
  s1.putChannel { c with deadline := d }

/-- Rewrite every binding of a fold from one image to another. -/
def State.rebindAll (s : State) (id : Nat) (old : Option Image) (im : Image) : State :=
  ((s.foldChannels id).filter fun c => !c.closed).foldl (fun s c =>
    match im.entry c.entry with
    | some e => s.rebindChannel id c (((old.bind fun (o : Image) => o.entry c.entry)).getD e) e
    | none => s) s

/-- Clear one bit of a mask. -/
def clearBit (m i : Nat) : Nat := m - m / 2 ^ i % 2 * 2 ^ i
def setBit (m i : Nat) : Nat := clearBit m i + 2 ^ i

/-- An image becomes the committed one of a fold: the new epoch, the retained copy, and what a new image ends
(R462, R508, R509, R672, R905). -/
def State.commitImage (s : State) (id : Nat) (im : Image) (container : List Byte) : State :=
  match s.foldOf id with
  | none => s
  | some f =>
    let e := (f.epoch + 1) % 8
    let s1 := s.modFold id fun (g : Fold) =>
      { g with image := some im, moved := [], epoch := e, transitions := g.transitions + 1, load := none, loadCode := none, raises := [], ckptBase := s.now,
               copies := g.copies.filter fun c => c.digest = im.digest }
    { s1 with
      retained := (s1.retained.filter fun r => r.1 ≠ id) ++ [(id, container)]
      neds := s1.neds.map fun (n : Ned) => { n with closedEpochs := tabMod 0 n.closedEpochs id fun m => clearBit m e } }

/-- After a commit: the removals recorded for it, which the image no longer names, leave (R443). -/
def State.dropUnnamed (s : State) (id : Nat) (im : Image) : State :=
  match s.foldOf id with
  | none => s
  | some f =>
    let d := im.drops f
    s.takeOut id d.1 d.2.1 d.2.2

/-- A paddock loaded in full: its contexts written, entered into the plan, its hurdle lifted (Table RECFG-3 steps 5 and 7). -/
def State.bringIn (s : State) (im : Image) (n fold epoch : Nat) : State :=
  let s1 := s.installPad im n n fold .staged epoch
  (s1.modPad n fun p => p.enterPlan (im.ctxsOf n) epoch (decide (2 ≤ im.sections))).liftPad n fold

/-- The commit broadcast of a full load. -/
def State.commitLoad (s : State) (id : Nat) : State :=
  match s.foldOf id with
  | none => s
  | some f =>
    match f.load.bind fun l => l.image with
    | none => s
    | some im =>
      let s1 := s.setYokes f im
      let s2 := f.pads.foldl (fun s n => s.bringIn im n id ((f.epoch + 1) % 8)) s1
      s2.modFold id fun (g : Fold) => { g with load := g.load.map fun l => { l with phase := .confirming } }

/-! Overlapped (R525–R536). -/

/-- The contexts an overlapped image stages: those in paddocks the committed image has. -/
def Fold.needs (f : Fold) (im : Image) : List (Nat × Nat) :=
  (im.ctxRecs.filter fun r => f.committed.contains r.pad).map fun r => (r.pad, r.ctx)

/-- Every incoming context is STAGED and every check has passed: written, and STANDBY (R527 step 2). -/
def State.toStandby (s : State) (id : Nat) : State :=
  match s.foldOf id with
  | none => s
  | some f =>
    match f.load.bind fun l => l.image with
    | none => s
    | some im =>
      let s1 := (f.needs im).foldl (fun s q =>
        let keep := im.transitions.any fun e => e.pad = q.1 && e.inc = q.2 && e.handover
        s.modPad q.1 fun p => p.installCtx im q.1 q.1 q.2 id .standby ((f.epoch + 1) % 8) keep) s
      let s2 := f.committed.foldl (fun s n => s.installLinks im n n f.id) s1
      s2.modFold id fun (g : Fold) => { g with load := g.load.map fun l => { l with phase := .confirming } }

/-- What follows once an image has passed its checks, or its wait of R511 has ended. -/
def State.transit (s : State) (id : Nat) : State :=
  match s.foldOf id with
  | none => s
  | some f =>
    match f.load with
    | none => s
    | some l =>
      if s.dieHolds id fun e => e.toNat = (f.epoch + 1) % 8 then
        let s1 := if l.phase = .waiting then s else s.count .fold id tfTransWait
        s1.modFold id fun (g : Fold) => { g with load := some { l with phase := .waiting } }
      else if l.overlap then s.toStandby id
      else s.commitLoad id

/-- The NEDs' bellwethers for the bindings that go out (R528). -/
def State.sendBells_ (s : State) (f : Fold) (im : Image) : State :=
  (List.range 24).foldl (fun s k =>
    let bs := (s.ned k).bindings.filter fun b => b.2.state = 1 && hdlFold b.2.handle = f.id
    let ds := (bs.flatMap fun b => (s.bellDests b.2).map fun d => (b.2.eport, d)).foldl (fun (a : List (Nat × Nat × Nat × Nat)) x =>
      if a.any fun y => y.2 = x.2 then a else a ++ [x]) []
    let need := (s.resultSources k f.id).length
    (ds.foldl (fun s x => s.sendBell k x.1 f.id f.epoch ((f.epoch + 1) % 8) f.transitions im x.2) s).modNed k fun n =>
      { n with bwNeed := tabSet 0 n.bwNeed f.id need, bwSources := n.bwSources.filter fun x => x.1 ≠ f.id }) s

/-- The transition records of the outgoing contexts (R530). -/
def State.markOutgoing (s : State) (im : Image) : State :=
  im.transitions.foldl (fun s e => s.modPad e.pad fun p =>
    p.setCtx e.out { p.ctx e.out with bwGot := 0, bwin := e.bwin, bwout := e.bwout, incoming := some e.inc, handover := e.handover, run := none }) s

/-- Every paddock has confirmed STANDBY: the fold is RECONFIGURING, its bindings are rewritten, its NEDs' bellwethers leave,
and what a grow added goes live (R524, R527, R528). -/
def State.switchFold (s : State) (id : Nat) : State :=
  match s.foldOf id with
  | none => s
  | some f =>
    match f.load with
    | none => s
    | some l =>
      match l.image with
      | none => s
      | some im =>
        let outs := (im.transitions.map fun e => (e.pad, e.out)).filter fun q => ((s.pad q.1).ctx q.2).st = .live
        let added := f.pads.filter fun n => im.pads.contains n && !f.committed.contains n
        let x : Transition := { outgoing := outs, incoming := f.needs im, oldEpoch := f.epoch, since := s.now, limit := l.limit, closed := [] }
        let s1 := ((s.sendBells_ f im).markOutgoing im).commitImage id im l.container
        let s2 := (s1.setFoldSt id .reconfiguring).modFold id fun (g : Fold) => { g with transition := some x }
        let s3 := added.foldl (fun s n => s.bringIn im n id ((f.epoch + 1) % 8)) (s2.rebindAll id f.image im)
        let s4 := outs.foldl (fun s q => s.modPad q.1 fun p => p.retireCheck (isFine q.1) q.2) s3
        ((s4.dropUnnamed id im).mirror).transitionEnds id

/-! Forced retirement (R536). -/

/-- Discard every item of a context in a paddock as strays (R512, R513, R536). -/
def State.dropItems (s : State) (n k fold : Nat) : State :=
  let occ := s.occupancy n k
  let s1 := s.modPad n fun p =>
    { p with
      fine := tabMap Tile.initial p.fine fun _ t => t.dropCtx k
      coarse := p.coarse.dropCtx k
      outbox := p.outbox.filter fun q => q.flit.ctx.toNat ≠ k
      returns := p.returns.filter fun f => f.ctx.toNat ≠ k }
  let s2 := (List.range 24).foldl (fun s i =>
    let x := padEnd n (i / 6)
    let lane := 1 + i % 6 / 2
    let vc := decide (i % 2 = 1)
    let b := (s.link x lane).buf vc
    let keep := b.filter fun q => q.flit.ctx.toNat ≠ k || q.flit.fold.toNat ≠ fold
    s.modLink x lane fun l => (List.range (b.length - keep.length)).foldl (fun l _ => l.freed vc) (l.setBuf vc keep)) s1
  if occ = 0 then s2 else (s2.addTally .fold fold tfStray occ).noteStray fold

/-- Close a fold's outgoing epoch on a NED (R533, R536). -/
def State.closeEpoch (s : State) (k id epoch : Nat) : State :=
  s.modNed k fun n =>
    { n with closedEpochs := tabMod 0 n.closedEpochs id fun m => setBit m epoch
             bwNeed := tabSet 0 n.bwNeed id 0, bwSources := n.bwSources.filter fun x => x.1 ≠ id }

/-- The switch limit has passed: every outgoing context that has not left is retired by force. -/
def State.forceRetire (s : State) (id : Nat) : State :=
  match s.foldOf id with
  | none => s
  | some f =>
    match f.transition with
    | none => s
    | some x =>
      let s1 := x.outgoing.foldl (fun s q => (s.dropItems q.1 q.2 id).leavePlan q.1 q.2) s
      let s2 := (List.range 24).foldl (fun s k => if tabGet 0 (s.ned k).bwNeed id = 0 then s else s.closeEpoch k id x.oldEpoch) s1
      ((s2.count .fold id tfForced).ring "fold" true [("id", .num id), ("event", .word "forced-retirement")]).transitionEnds id

end Sys2Proof.Machine
end

