-- ==== Sys2Proof/Machine/Loads.lean ====
section
/-! DEFINITION. The commands of loads and transitions (*Loading and changing configurations*, R508–R558; `load fold`). -/
namespace Sys2Proof.Machine

open Sys2Proof

/-- The containers held or promised in the retained stores (R905, R913). -/
def State.retainedBytes (s : State) : Nat :=
  (s.retained.map fun r => r.2.length).sum + (s.folds.map fun (f : Fold) => (f.load.map fun l => l.container.length).getD 0).sum

/-- `load fold`: accepted, and begun at once when a load may begin; the outcome follows as a bell. `limit` is in ns (R518,
R525, R536, R546, R547, R832, R833, R838, R905). -/
def execLoadFold (id stage : Nat) (overlap : Bool) (limit : Option Nat) (ln : Ln) (s : State) : Host.Outcome State Fault Refusal :=
  .next (s.judged ln .operate false fun s => s.onFold ln id fun f =>
    match s.stages.find? fun b => b.id = stage && !b.firmware with
    | none => s.err ln 401 [("object", .word "stage")]
    | some b =>
      let lim := limit.getD 1000000
      let barred := if overlap then f.st ≠ .running && f.st ≠ .reconfiguring && f.st ≠ .checkpointing
        else f.st ≠ .created && f.st ≠ .running && f.st ≠ .stopped && f.st ≠ .doubt && f.load.isNone
      s.guard ln
        [(decide (lim < 1000) || decide (100000000 < lim), 402, [("key", .word "limit"), ("min", .num 1000), ("max", .num 100000000)]),
         (f.release.isSome || barred, 404, [("object", .word "fold"), ("state", .word (foldWord f.st))]),
         why (f.load.isSome) "load-pending",
         why (overlap && !f.slots.isEmpty) "shared",
         why (overlap && (f.transition.isSome || f.st ≠ .running || f.image.isNone || fld b.data 11 1 % 2 = 0)) "overlap",
         why (decide (b.data.length < b.size)) "stage-incomplete"]
        (let l : Load := { overlap := overlap, container := b.data, limit := lim * 100, phase := .queued, since := s.now, image := none, staged := [] }
         let room := s.retainedBytes + b.data.length ≤ 2 ^ 33
         let now_ := room && s.loadsBegun < 4 && f.mayBegin l
         let s1 := { s with stages := s.stages.filter fun x => x.id ≠ stage }
         let s2 := (s1.modFold id fun (g : Fold) => { g with load := some l }).ok ln
           [("state", .word (if !now_ then "queued" else if overlap then "staging" else "loading"))]
         if !room then s2.loadFail id 797 none else if now_ then s2.beginLoad id else s2))

/-- A queued load begins, in command order, when one of the four places is free (R518, R526, R546). -/
def execLoadStart (fold : Nat) (t : Time) (s : State) : Host.Outcome State Fault Refusal :=
  .next (s.event t (fun s => s.active.isSome && s.loadsBegun < 4 && match s.foldOf fold with
      | some f => (match f.load with
          | some l => !l.begun && f.mayBegin l && !(s.folds.any fun (g : Fold) => match g.load with
              | some m => !m.begun && g.mayBegin m && decide (m.since < l.since)
              | none => false)
          | none => false)
      | none => false) fun s => s.beginLoad fold)

/-- Whether a fold's load is in a phase. -/
def State.loadIn (s : State) (id : Nat) (ph : LoadPhase) (overlap : Bool) : Bool :=
  match s.foldOf id with
  | some f => (match f.load with
      | some l => l.phase = ph && l.overlap = overlap
      | none => false)
  | none => false

/-- Since when a load is in its phase. -/
def State.loadSince (s : State) (id : Nat) : Time := (((s.foldOf id).bind fun (f : Fold) => f.load).map fun l => l.since).getD 0

/-- Every request in the wafer has its reply: the paddocks are hurdled and sheared to zero (R518 steps 2–4). -/
def execLoadDrainComplete (fold : Nat) (t : Time) (s : State) : Host.Outcome State Fault Refusal :=
  .next (s.event t (fun s => s.loadIn fold .draining false && (s.inWafer fold).isEmpty) fun s => s.loadDrained fold)

/-- The drain bound of 10 ms passes: what remains is refused with RECONFIGURED (R518 step 2). -/
def execLoadDrainExpiry (fold : Nat) (t : Time) (s : State) : Host.Outcome State Fault Refusal :=
  .next (s.event t (fun s => s.loadIn fold .draining false && decide (s.loadSince fold + 10 * msec ≤ s.now)) fun s =>
    (s.waferOut fold rsReconfigured).loadDrained fold)

/-- The last byte is decrypted: the image is committed, waits, or the load fails; a load is paused while a recovery has the decryption
(R518, R520, R525, R527, R676, R906). -/
def execLoadDecryptComplete (fold : Nat) (t : Time) (s : State) : Host.Outcome State Fault Refusal :=
  .next (s.event t (fun s => (s.loadIn fold .decrypting true || s.loadIn fold .decrypting false) && s.paused.isNone) fun s =>
    match s.foldOf fold with
    | none => s
    | some f =>
      match f.load with
      | none => s
      | some l =>
        match s.validate f l.container l.overlap with
        | .inl code => s.loadFail fold code none
        | .inr im =>
          let s1 := s.modFold fold fun (g : Fold) => { g with load := some { l with image := some im, phase := .staging } }
          if l.overlap && !((f.needs im).all fun q => l.staged.contains q) then s1 else s1.transit fold)

/-- Every paddock has confirmed a full load: bindings rewritten, RUNNING, admission resumes (R518 step 8, R443, R456, R520). -/
def execCommitConfirmed (fold : Nat) (t : Time) (s : State) : Host.Outcome State Fault Refusal :=
  .next (s.event t (fun s => s.loadIn fold .confirming false) fun s =>
    match s.foldOf fold with
    | none => s
    | some f =>
      match f.load with
      | none => s
      | some l =>
        match l.image with
        | none => s
        | some im =>
          let s1 := ((s.commitImage fold im l.container).rebindAll fold f.image im).unrevokeSpan fold
          let s2 := (((s1.setFoldSt fold .running).modFold fold fun (g : Fold) => { g with transition := none, muster := none }).dropUnnamed fold im).mirror
          s2.ring "fold" false [("id", .num fold), ("state", .word "running"), ("epoch", .num ((f.epoch + 1) % 8))])

/-- The image an overlapped load reads its contexts from: the checked one, or what has been decrypted so far (R904). -/
def State.stageImage (s : State) (f : Fold) (l : Load) : Option Image :=
  match l.image with
  | some im => some im
  | none => s.readImage f l.container

/-- A needed context is FREE with occupancy zero: it is STAGED (R212, R517, R904). -/
def execContextStage (fold : Nat) (n : Pad) (k : CtxIx) (t : Time) (s : State) : Host.Outcome State Fault Refusal :=
  .next (s.event t (fun s => (s.loadIn fold .decrypting true || s.loadIn fold .staging true)
      && ((s.pad n.val).ctx k.val).st = .free && s.occupancy n.val k.val = 0) fun s =>
    match s.foldOf fold with
    | none => s
    | some f =>
      match f.load with
      | none => s
      | some l =>
        match s.stageImage f l with
        | none => s
        | some im =>
          if !(f.needs im).contains (n.val, k.val) then s
          else
            let staged := l.staged ++ [(n.val, k.val)]
            let s1 := (s.modPad n.val fun p => p.setCtx k.val { PCtx.initial with st := .staged, fold := fold }).modFold fold fun (g : Fold) =>
              { g with load := some { l with staged := staged } }
            if l.phase = .staging && (f.needs im).all fun q => staged.contains q then s1.transit fold else s1)

/-- Ten milliseconds without a context to stage, a pause aside: the load is refused with E-798 (R517, R676). -/
def execStageWaitExpiry (fold : Nat) (t : Time) (s : State) : Host.Outcome State Fault Refusal :=
  .next (s.event t (fun s => (s.loadIn fold .decrypting true || s.loadIn fold .staging true)
      && decide (s.loadSince fold + s.pausedFor (s.loadSince fold) + 10 * msec ≤ s.now)) fun s =>
    match s.foldOf fold with
    | none => s
    | some f =>
      match f.load with
      | none => s
      | some l =>
        match s.stageImage f l with
        | none => s
        | some im => if (f.needs im).all fun q => l.staged.contains q then s else s.loadFail fold 798 none)

/-- Every paddock has confirmed STANDBY (R527, R528). -/
def execStandbyConfirmed (fold : Nat) (t : Time) (s : State) : Host.Outcome State Fault Refusal :=
  .next (s.event t (fun s => s.loadIn fold .confirming true) fun s => s.switchFold fold)

/-- A transition that waited on traffic of its incoming epoch starts (R511). -/
def execTransitionStart (fold : Nat) (t : Time) (s : State) : Host.Outcome State Fault Refusal :=
  .next (s.event t (fun s => s.loadIn fold .waiting true || s.loadIn fold .waiting false) fun s => s.transit fold)

/-- A bellwether is taken from the router by the controller of its paddock: counted toward BWIN, or a stray (R512, R529, R530,
R538, R551). -/
def execBellwetherArrival (n : Pad) (k : CtxIx) (t : Time) (s : State) : Host.Outcome State Fault Refusal :=
  .next (s.event t (fun s => (s.pad n.val).power = .run && !(s.pad n.val).clockLost) fun s =>
    let n := n.val
    let k := k.val
    let hit (f : Flit) : Bool := f.typ = ftBellwether && f.ctx.toNat = k
    let take (s : State) (f : Flit) : State :=
      let c := (s.pad n).ctx k
      if (c.st ≠ .live && c.st ≠ .retiring) || c.epoch ≠ f.epoch then s.strayAt f
      else s.modPad n fun p => ((p.goLive (p.wakes f)).setCtx k { (p.goLive (p.wakes f)).ctx k with bwGot := c.bwGot + 1 }).retireCheck (isFine n) k
    match (s.localHeads n).find? fun h => hit h.2.2.2 with
    | some h => take (s.modLink h.1 h.2.1 fun l => l.popBuf h.2.2.1) h.2.2.2
    | none =>
      match (s.pad n).outbox.find? fun q => hit q.flit && s.isHere n q.flit with
      | some q => take (s.modPad n fun p => { p with outbox := dropFirst (fun a => decide (a = q)) p.outbox }) q.flit
      | none => s)

/-- A bellwether reaches a NED: when every declared result source has sent one, the outgoing epoch is closed; for a sectioned
fold the next batch may go (R533, R539). -/
def execNedBellwether (k : NedIx) (e : Fin 2) (lane : Lane) (vc : Bool) (t : Time) (s : State) : Host.Outcome State Fault Refusal :=
  .next (s.event t (fun s => !(s.ned k.val).doubt && match ((s.link (dieEnd (nedDest k.val) e.val) lane.val).buf vc).head? with
      | some q => q.flit.typ = ftBellwether
      | none => false) fun s =>
    let k := k.val
    let x := dieEnd (nedDest k) e.val
    match ((s.link x lane.val).buf vc).head? with
    | none => s
    | some q =>
      let id := q.flit.fold.toNat
      let src := (payWord q.flit.payload 0).toNat % 2 ^ 15
      let s1 := s.modLink x lane.val fun l => l.popBuf vc
      let n := s1.ned k
      let got := (n.bwSources.filter fun b => b.1 ≠ id || b.2 ≠ src) ++ [(id, src)]
      let done := decide (tabGet 0 n.bwNeed id ≤ (got.filter fun b => b.1 = id).length)
      match (s1.foldOf id).bind fun (f : Fold) => f.transition with
      | some y =>
        if q.flit.epoch.toNat ≠ y.oldEpoch || tabGet 0 n.bwNeed id = 0 then s1
        else if done then (s1.closeEpoch k id y.oldEpoch).transitionEnds id
        else s1.modNed k fun n => { n with bwSources := got }
      | none =>
        if !s1.batchOpen k id then s1
        else s1.modNed k fun n =>
          if done then { n with bwNeed := tabSet 0 n.bwNeed id 0, bwSources := n.bwSources.filter fun b => b.1 ≠ id } else { n with bwSources := got })

/-- The switch limit passes, a pause aside: forced retirement (R536, R558, R676). -/
def execSwitchLimitExpiry (fold : Nat) (t : Time) (s : State) : Host.Outcome State Fault Refusal :=
  .next (s.event t (fun s => match (s.foldOf fold).bind fun (f : Fold) => f.transition with
      | some x => decide (x.since + s.pausedFor x.since + x.limit ≤ s.now) && s.stOf fold ≠ some .migrating
      | none => false) fun s => s.forceRetire fold)

end Sys2Proof.Machine
end

