-- ==== Sys2Proof/Machine/Doubt.lean ====
section
/-! DEFINITION. How a fold enters doubt and is brought back: the choice of Table FAULT-1, repeat windows, targets, leases
moved, restores, relocation records and the commit of a recovery (*Doubt, retry and recovery*, R658–R696). -/
namespace Sys2Proof.Machine

open Sys2Proof

/-! Triggers (Table FAULT-1, R666). -/

def trigWord : Trigger → String
  | .tileEcc => "tile-ecc"
  | .medUncorrectable => "hbm"
  | .eccLasting => "sram"
  | .residue => "residue"
  | .auth => "auth"
  | .clockLost => "clock"
  | .ringLost => "ring"
  | .thermal => "thermal"
  | .efuse => "fuse"
  | .field => "field"
  | .stile => "stile"
  | .routeMiss => "route-miss"
  | .unmapped => "unmapped"
  | .malformed => "malformed"
  | .watchdog => "watchdog"
  | .linkNoDetour => "link"
  | .med => "med"
  | .spd => "spd"
  | .member => "member"

/-- A trigger tied to a paddock: its place is the paddock. -/
def trigOfPad : Trigger → Bool
  | .tileEcc | .eccLasting | .residue | .clockLost | .ringLost | .thermal | .efuse => true
  | _ => false

def trigAt (tr : Trigger) (place : Nat) : Val := if trigOfPad tr then .pad place else .num place

/-- The repeat window of a trigger is open: the same row within an hour of its restart's completion, in the same paddock where
it is tied to one (R666). -/
def Fold.repeated (f : Fold) (tr : Trigger) (place : Nat) (now : Time) : Bool :=
  f.windows.any fun w => w.1 = tr && (!trigOfPad tr || w.2.1 = place) && decide (now < w.2.2 + 3600 * second)

/-- Whether the page retired last among a fold's pages is a session page. -/
def State.retiredSession (s : State) (fold : Nat) : Bool :=
  match (s.flash.retired.filter fun q => leFold ((s.med q.1).lease q.2) = fold).getLast? with
  | some q => leSpace ((s.med q.1).lease q.2)
  | none => false

/-- The recovery that Table FAULT-1 names; `fleece` stands for MIGRATE by either means. -/
def State.meansFor (s : State) (f : Fold) (tr : Trigger) (place : Nat) : Means :=
  let rep := f.repeated tr place s.now
  match tr with
  | .tileEcc => if rep then .fleece else .restart
  | .eccLasting | .residue | .thermal | .efuse | .field => .fleece
  | .medUncorrectable => if rep || !s.retiredSession f.id then .stop else .restart
  | .clockLost | .ringLost => .wait
  | .stile | .watchdog | .spd => if rep then .stop else .restart
  | .med =>
    let k := place - 1568
    if rep || (f.pages.any fun p => p.2.1 = k) || f.cphys.any fun p => p.1 = k then .stop else .restart
  | .auth | .routeMiss | .unmapped | .malformed | .linkNoDetour | .member => .stop

/-- The paddocks of a fold that a trigger takes. -/
def Fold.failedBy (f : Fold) (tr : Trigger) (place : Nat) : List Nat :=
  if trigOfPad tr then f.pads.filter (· = place)
  else if tr = Trigger.field then f.pads.filter fun n => fieldOf n = place
  else []

/-! Paddocks that fail and their targets (R60, R674, R677). -/

/-- A retry of the paddock or its field is still open: its verdict decides what the map records (R668). -/
def State.retryOpen (s : State) (n : Nat) : Bool :=
  let p := s.pad n
  let x := s.field (fieldOf n)
  (match p.fuse with
    | .tripped _ => true
    | .retrying => true
    | _ => false)
  || (match p.trip with
    | .waiting _ => true
    | .retrying _ _ => true
    | _ => false)
  || p.clockLost || x.departed.isSome || (x.stage ≠ .on && !x.latched)

/-- The paddock of the image that stands at `n`. -/
def Fold.origin (f : Fold) (n : Nat) : Nat :=
  match f.moved.find? fun q => q.2 = n with
  | some q => q.1
  | none => n

/-- A target is eligible now: still in RESERVE, or for an F-paddock still unleased and no HOLE, in a field whose excluded and latched
bits are clear (R60). -/
def State.eligible (s : State) (t : Nat) : Bool :=
  let x := s.field (fieldOf t)
  (if isFine t then decide ((s.entry t).st < 2) && !(s.pad t).leased else (s.entry t).st = 3) && !x.excluded && !x.latched

/-- The first eligible named target of each failed paddock; the paddock that has none. -/
def State.pickTargets (s : State) (f : Fold) (im : Image) : List Nat → List Nat → Sum Nat (List (Nat × Nat))
  | [], _ => .inr []
  | n :: ns, used =>
    match (im.targets (f.origin n)).find? fun t => s.eligible t && !used.contains t with
    | none => .inl n
    | some t =>
      match s.pickTargets f im ns (t :: used) with
      | .inl m => .inl m
      | .inr r => .inr ((n, t) :: r)

/-- The core rail of a field was last seen within 3 % of its setting (R602, R674). -/
def Field.railGood (x : Field) : Bool :=
  match x.seen with
  | some mv => decide (100 * (if mv < x.vcore then x.vcore - mv else mv - x.vcore) ≤ 3 * x.vcore)
  | none => true

/-- Whether a failed paddock can be sheared (R674); a SHARED slot goes by checkpoint. -/
def State.canFleece (s : State) (n : Nat) : Bool :=
  let p := s.pad n
  let x := s.field (fieldOf n)
  p.power ≠ .dark && !p.clockLost && x.departed.isNone && x.railGood && x.stage = .on && p.slots.all (· = 0)

/-- The cause of Table MAP-7 that a trigger gives a paddock its fold leaves. -/
def holeCause (tr : Trigger) : Nat := if tr = .clockLost || tr = .ringLost then 5 else 4

/-- A fold's leases pass at once from a failed paddock to its target, DARK or not, and its flits still on the way there become strays;
the map records both, and an open retry of the paddock decides later only what the map records of it (R168, R668, Table FAULT-4
step 2). -/
def State.moveLease (s : State) (id n t : Nat) (tr : Trigger) : State :=
  let p := s.pad n
  let ks := (List.range 4).filter fun k => p.slots.getD k 0 = id
  let s1 := if p.excl = id then s.leasePads id [t] [] else s.leasePads id [] (ks.map fun k => (t, k))
  let s2 := if (s1.entry t).st = 3 then s1.setEntry t ⟨0, (s1.entry t).col, 0⟩ else s1
  let s3 := ((s2.revokeFold n id).dissolveYoke n).modPad n fun p =>
    ({ p with excl := if p.excl = id then 0 else p.excl, slots := p.slots.map fun x => if x = id then 0 else x,
              left := s.retryOpen n } : Paddock).writeStile
  let s4 := if (s3.entry n).st = 2 then s3 else s3.makeHole n (holeCause tr) false
  s4.modFold id fun (f : Fold) =>
    { f with
      excl := f.excl.map fun m => if m = n then t else m
      slots := f.slots.map fun (q : Nat × Nat) => if q.1 = n then (t, q.2) else q
      moved := (f.moved.filter fun q => q.2 ≠ n) ++ [(f.origin n, t)] }

/-- A paddock a fold has left goes DARK, once nobody holds it. -/
def State.dropSource (s : State) (n : Nat) : State := if (s.pad n).leased then s else s.goDark n

/-- A paddock that fails while its fold is not moved: a HOLE at once, unless its own retry is still open (R62). -/
def State.markFailed (s : State) (ns : List Nat) (tr : Trigger) : State :=
  ns.foldl (fun s n => if s.retryOpen n || (s.entry n).st = 2 then s else (s.goDark n).makeHole n (holeCause tr) false) s

/-! Yokes dissolved (R574, R671). -/

/-- Raise Q for a dissolved yoke of a paddock, once. -/
def State.raiseYoke (s : State) (f : Fold) (n : Nat) : State :=
  match f.image with
  | none => s
  | some im =>
    ((geoYokes im.geo).filter fun ms => ms.contains (f.origin n)).foldl (fun s ms =>
      let key := 2 ^ 20 + ms.getD 0 0
      if ((s.foldOf f.id).map fun (g : Fold) => g.raises.any fun r => r.2.2 = key) = some true then s
      else s.raiseQ f.id key (im.deltas 1 0 fun d => ms.contains d.pad)) s

/-! Entering the states of a recovery (R660, R663, R664). -/

def State.notify (s : State) (id : Nat) (next : FoldState) : State :=
  { s with notices := (s.notices.filter fun x => x.fold ≠ id) ++ [(⟨id, next, s.now⟩ : Notice)] }

def State.foldBell (s : State) (id : Nat) (st : String) (tr : Trigger) (place : Nat) (kv : KVs) : State :=
  ({ s with faultN := true }).ring "fold" true
    ((([("id", .num id), ("state", .word st), ("trigger", .word (trigWord tr)), ("at", trigAt tr place)] : KVs)) ++ kv)

/-- STOP: the fold's paddocks are hurdled by the notice and keep their state (R664, R665). -/
def State.stopFold (s : State) (id : Nat) (tr : Trigger) (place : Nat) (kv : KVs) : State :=
  let s1 := ((s.setFoldSt id .stopped).modFold id fun (f : Fold) => { f with recovery := none, muster := none, transition := none }).syncPause
  ((s1.notify id .stopped).foldBell id "stopped" tr place kv).mirror

/-- A recovery record at its start. -/
def Recovery.start (means : Means) (moves : List (Nat × Nat)) (shears : List Nat) (written : Bool) (tr : Trigger) (place : Nat)
    (now : Time) : Recovery :=
  { means := means, moves := moves, shears := shears, restored := false, written := written, committed := false, trigger := tr,
    place := place, since := now }

/-- Enter MIGRATING with a recovery record; a migration by fleece keeps a transition in progress (R553), the others abandon it
(R548). The time MIGRATING began is kept when a recovery begins again. -/
def State.enterMigrating (s : State) (f : Fold) (r : Recovery) : State :=
  let since := (f.recovery.map fun (x : Recovery) => x.since).getD s.now
  let s1 := (s.setFoldSt f.id .migrating).modFold f.id fun (g : Fold) =>
    { g with recovery := some { r with since := since }, muster := none, transition := if r.means = .fleece then g.transition else none }
  let s2 := s1.syncPause.notify f.id .migrating
  (if f.st = .migrating then s2 else s2.foldBell f.id "migrating" r.trigger r.place []).mirror

/-- RESTART in place; the relocation record is written only after an SPD substitution (R678). -/
def State.startRestart (s : State) (id : Nat) (tr : Trigger) (place : Nat) : State :=
  match s.foldOf id with
  | none => s
  | some f => s.enterMigrating f (Recovery.start .restart [] [] (tr ≠ .spd) tr place s.now)

/-- Begin a migration, or begin it again with more failed paddocks or a failed target (R673, R674, R677, R683, R685, R686). -/
def State.startMigration (s : State) (id : Nat) (failed : List Nat) (tr : Trigger) (place : Nat) : State :=
  match s.foldOf id with
  | none => s
  | some f =>
    match f.image with
    | none => s.stopFold id tr place []
    | some im =>
      let old := (f.recovery.map fun (r : Recovery) => r.moves).getD []
      match s.pickTargets f im failed [] with
      | .inl n => (s.markFailed failed tr).stopFold id tr place [("cause", .word "no-target"), ("paddock", .pad n)]
      | .inr picks =>
        let s0 := failed.foldl (fun s n => s.raiseYoke f n) s
        let s1 := picks.foldl (fun s q => s.moveLease id q.1 q.2 tr) s0
        let kept := old.map fun q => (q.1, match picks.find? fun p => p.1 = q.2 with
          | some p => p.2
          | none => q.2)
        let fresh := picks.filter fun p => !old.any fun q => q.2 = p.1
        let moves := kept ++ fresh
        let fl := moves.all fun q => s1.canFleece q.1
        let s2 := if fl then s1 else moves.foldl (fun s q => s.dropSource q.1) s1
        s2.enterMigrating { f with recovery := f.recovery } (Recovery.start (if fl then .fleece else .checkpoint) moves
          (if fl then moves.map fun q => q.1 else []) false tr place s.now)

/-- A migration that can no longer carry state over goes on by checkpoint (R674). -/
def State.toCheckpoint (s : State) (id : Nat) : State :=
  match (s.foldOf id).bind fun (f : Fold) => f.recovery with
  | none => s
  | some r =>
    let s1 := r.moves.foldl (fun s q => s.dropSource q.1) s
    (s1.modFold id fun (f : Fold) =>
      { f with recovery := some { r with means := if r.means = .restart then .restart else .checkpoint, shears := [], restored := false,
                                         written := if r.means = .restart then r.written else false, committed := false },
               transition := none, muster := none }).syncPause

/-- The cause in the bell of a load that a trigger ends (Table IMG-6, R549, R911): `power` for a field's rail, `paddock` where the fold
loses a paddock, `doubt` otherwise (log entry 63). -/
def loadCause (tr : Trigger) (padFails : Bool) : String :=
  if tr = .field then "power" else if padFails then "paddock" else "doubt"

/-- A doubt trigger ends an overlapped load: before the STANDBY broadcast, and where a paddock fails, under the old image;
otherwise the new image is the committed one (R548, R549). A checkpoint in progress stays invalid (R468). -/
def State.endLoadInDoubt (s : State) (f : Fold) (padFails : Bool) (tr : Trigger) : State :=
  let s1 := s.modFold f.id fun (g : Fold) => { g with muster := none }
  match f.load with
  | none => s1
  | some l =>
    if !l.begun then s1
    else
      match l.image with
      | some im =>
        if l.overlap && l.phase = .confirming && !padFails then
          ((s1.commitImage f.id im l.container).rebindAll f.id f.image im).dropUnnamed f.id im
        else s1.loadFail f.id 799 (some (loadCause tr padFails))
      | none => s1.loadFail f.id 799 (some (loadCause tr padFails))

/-- The paddock that a report names fails: a lasting unit failure, or the repeat of a tile error, of a fold that it names
(Table FAULT-1, R215, R245, R264, R266). -/
def State.padFails (s : State) (tr : Trigger) (place : Nat) (folds : List Nat) : Bool :=
  tr = .eccLasting || tr = .residue || (tr = .tileEcc && folds.any fun id => match s.foldOf id with
    | some f => f.repeated tr place s.now
    | none => false)

/-- One trigger on one fold; `gone` says that the paddock named fails, so that every fold in it migrates. A fold leaves a paddock that
is DARK or out of window at once, without waiting for that paddock's own retry; only a lost clock waits (R215, R660, R664, R668, R684,
R685, R691). A trigger that meets the fold in doubt already is no new entry into doubt (R170, R684). -/
def State.doubtFold (s : State) (tr : Trigger) (place : Nat) (gone : Bool) (id : Nat) : State :=
  match s.foldOf id with
  | none => s
  | some f =>
    let failed := f.failedBy tr place
    let c := if gone then .fleece else s.meansFor f tr place
    let fails := c = .fleece || c = .wait
    if f.release.isSome then s
    else
      match f.st with
      | .releasing => s
      | .created =>
        let s1 := if c = .fleece then s.markFailed failed tr else s
        if s1.waits.any fun w => w.why = .fold id then
          (s1.settle (fun w => w = .fold id) (.err 404 [("object", .word "fold"), ("state", .word "doubt")])).releaseStep id
        else s1
      | .stopped => if c = .fleece then s.markFailed failed tr else s
      | .loading =>
        let s1 := (s.count .fold id tfDoubt).loadFail id 799 (some (loadCause tr fails))
        if c = .fleece then s1.markFailed failed tr else s1
      | st =>
        let s0 := (if st = .doubt || st = .migrating then s else s.count .fold id tfDoubt).revokeSpan id false
        let s1 := if st = .doubt || st = .migrating then s0 else s0.endLoadInDoubt f fails tr
        match c with
        | .stop => s1.stopFold id tr place []
        | .fleece | .checkpoint => s1.startMigration id failed tr place
        | .wait =>
          if st = .migrating then s1.toCheckpoint id
          else if st = .doubt then s1
          else
            let s2 := (failed.foldl (fun s n => s.raiseYoke f n) s1).setFoldSt id .doubt
            let s3 := s2.modFold id fun (g : Fold) => { g with recovery := some (Recovery.start .wait [] [] false tr place s.now), transition := none }
            ((s3.notify id .doubt).foldBell id "doubt" tr place []).mirror
        | .restart =>
          if st = .doubt then s1
          else if st = .migrating then
            (if (f.recovery.map fun (r : Recovery) => r.means) = some .restart then s1.startRestart id tr place else s1.toCheckpoint id)
          else s1.startRestart id tr place

/-- A report acts: each fold it names, and where the paddock fails every other fold in it; a paddock that fails is a HOLE at once, whoever
holds it (R62, R215, R660). -/
def State.reported (s : State) (tr : Trigger) (place : Nat) (folds : List Nat) : State :=
  let gone := s.padFails tr place folds
  let s1 := (if gone then (folds ++ s.foldsOn place).eraseDups else folds).foldl (fun s id => s.doubtFold tr place gone id) s
  if gone then s1.markFailed [place] tr else s1

/-- The verdict on a lost clock has come for paddock `n` of a fold (R577, R664): when no clock of the fold is still open, the
means are chosen. -/
def State.clockVerdict (s : State) (n : Nat) (lasting : Bool) (id : Nat) : State :=
  match s.foldOf id with
  | none => s
  | some f =>
    match f.recovery with
    | none => s
    | some r =>
      if f.st = .migrating then (if lasting then s.startMigration id [n] .clockLost n else s)
      else if f.st ≠ .doubt || r.means ≠ .wait || f.pads.any fun m => (s.pad m).clockLost then s
      else
        let dead := f.pads.filter fun m => (s.entry m).st = 2 || f.repeated r.trigger m s.now
        if dead.isEmpty then s.startRestart id r.trigger r.place else s.startMigration id dead r.trigger r.place

/-- A paddock's clock is back, or it is a HOLE with cause 5 (R577, R578). -/
def State.resolveClock (s : State) (n : Nat) (good : Bool) : State :=
  let folds := s.foldsOn n
  let s1 := if good then
      (s.modPad n fun p => { p with clockLost := false, masked := p.leased }).ring "paddock" false [("at", .pad n), ("event", .word "clock-transient")]
    else ((s.goDark n).modPad n fun p => { p with clockLost := false }).makeHole n 5 false
  folds.foldl (fun s id => s.clockVerdict n (!good) id) (s1.endRun n)

/-! Restoring (Table FAULT-4 steps 3 to 5; R461, R462, R542, R678). -/

/-- The copy a restore uses: valid for the committed image, the highest sequence. -/
def Fold.bestCopy (f : Fold) (im : Image) : Option Copy :=
  if f.ckpt.isNone then none
  else (f.copies.filter fun c => c.digest = im.digest).foldl (fun (a : Option Copy) c => match a with
    | some b => if b.seq < c.seq then some c else some b
    | none => some c) none

/-- Apply the route patches of every paddock that has moved (Table FAULT-4 step 4). -/
def State.applyPatches (s : State) (f : Fold) (im : Image) : State :=
  f.moved.foldl (fun s q =>
    match im.relocs.find? fun e => e.pad = q.1 with
    | none => s
    | some e =>
      let ord := (e.targets.zip (List.range e.targets.length)).find? fun x => x.1 = q.2
      match ord with
      | none => s
      | some o =>
        (e.patches.filter fun p => p.1 = o.2 + 1).foldl (fun s p =>
          let r := routeOf p.2.2.2
          s.modPad (if p.2.2.1 = q.2 then q.2 else f.place p.2.2.1) fun x =>
            { x with routes := (x.routes.filter fun y => y.1 ≠ 2048 * p.2.1 + r.1) ++ [(2048 * p.2.1 + r.1, r.2)] }) s) s

/-- Every paddock of a fold sheared to zero, the committed image written again, the checkpoint copy read back (step 3C). -/
def State.restoreFold (s : State) (f : Fold) (im : Image) : State :=
  let s1 := s.clearFold f
  let s2 := im.pads.foldl (fun s n => s.installPad im n (f.place n) f.id .staged f.epoch) s1
  let s3 := match f.bestCopy im with
    | none => s2
    | some c => (im.regions.zip c.data).foldl (fun (s : State) (x : Region × Nat × List Byte) =>
        let m := f.place x.1.pad
        s.modPad m fun p => p.putState m x.1.ctx (decide (p.excl = 0)) x.1.kind x.1.unit x.1.off x.2.2) s2
  s3.applyPatches f im

/-- A failed paddock's fleece is written into its target, which keeps its own place, clock and power (R542). -/
def Paddock.takeFleece (t p : Paddock) : Paddock :=
  { t with ctxs := p.ctxs, plan := p.plan, pos := p.pos, outbox := p.outbox, returns := p.returns, routes := p.routes,
           wafers := p.wafers, fine := p.fine, coarse := p.coarse, eccHeld := p.eccHeld, loading := p.loading }

/-- The ΔQ of a relocation (R672). -/
def State.raiseMoves (s : State) (f : Fold) (im : Image) (moves : List (Nat × Nat)) : State :=
  moves.foldl (fun s q =>
    let o := f.origin q.2
    match (im.targets o).zip (List.range 2) |>.find? fun x => x.1 = q.2 with
    | none => s
    | some x =>
      let key := 2 ^ 21 + o
      (s.endRaise key).raiseQ f.id key (im.deltas 2 (x.2 + 1) fun d => d.pad = o)) s

/-- The bindings whose DEST named a failed paddock name its target (step 5, R456). -/
def State.rebindMoved (s : State) (f : Fold) (im : Image) : State :=
  ((s.foldChannels f.id).filter fun c => !c.closed).foldl (fun s c =>
    match im.entry c.entry with
    | some e => if f.place e.dest = e.dest then s else s.rebindChannel f.id c e { e with dest := f.place e.dest }
    | none => s) s

/-- The recovery is over: RUNNING, admission resumes (step 7; R469, R553, R666). -/
def State.finishRecovery (s : State) (id : Nat) : State :=
  match s.foldOf id with
  | none => s
  | some f =>
    match f.recovery with
    | none => s
    | some r =>
      let s1 := s.setFoldSt id (if f.transition.isSome then .reconfiguring else .running)
      let s2 := s1.modFold id fun (g : Fold) =>
        { g with
          recovery := none, muster := none, ckptBase := s.now
          windows := (g.windows.filter fun w => decide (s.now < w.2.2 + 3600 * second)) ++
            (if r.means = .restart then [(r.trigger, r.place, s.now)] else [])
          transition := g.transition.map fun (x : Transition) => { x with since := x.since + (s.now - r.since) } }
      let s3 := { s2 with notices := s2.notices.filter fun x => x.fold ≠ id }
      ((s3.count .fold id (if r.means = .restart then tfRestart else tfMigrate)).ring "fold" false
        [("id", .num id), ("state", .word "running"), ("epoch", .num f.epoch)]).mirror

/-- The commit of a recovery: hurdles lifted, credits advertised, bindings rewritten; by fleece a muster follows (steps 5 and
6F). -/
def State.commitRecovery (s : State) (id : Nat) : State :=
  match s.foldOf id with
  | none => s
  | some f =>
    match f.recovery, f.image with
    | some r, some im =>
      let s1 := if r.means = .fleece then s else
        im.pads.foldl (fun s n => s.modPad (f.place n) fun p => p.enterPlan (im.ctxsOf n) f.epoch (decide (2 ≤ im.sections))) s
      let s2 := f.pads.foldl (fun s n => s.liftPad n id) s1
      let s3 := ((r.moves.foldl (fun s q => s.dropSource q.1) s2).rebindMoved f im).unrevokeSpan id
      let s4 := s3.modFold id fun (g : Fold) => { g with recovery := some { r with committed := true } }
      if r.means = .fleece then
        s4.modFold id fun (g : Fold) => { g with muster := some .fleece, musterAt := s.now }
      else s4.finishRecovery id
    | _, _ => s

/-- After a takeover every recovery begins again from step 1, the fleece attempted afresh (R683, R692, R693). -/
def State.recoverAgain (s : State) : State :=
  (s.folds.filter fun (f : Fold) => f.st = .migrating).foldl (fun s f =>
    match f.recovery with
    | some r => if r.means = .restart then s.startRestart f.id r.trigger r.place else s.startMigration f.id [] r.trigger r.place
    | none => s) s

end Sys2Proof.Machine
end

