-- ==== Sys2Proof/Machine/Recovery.lean ====
section
/-! DEFINITION. The commands of checkpoints, musters, doubt and recovery, clock verdicts, and the restore commands
(*Doubt, retry and recovery*, R658–R696; R461–R469, R540–R542, R575–R579, R663, R707, R715; Tables CMD-3, CMD-8). -/
namespace Sys2Proof.Machine

open Sys2Proof

/-! Checkpoints and musters (R461–R469, R540, R541). -/

/-- The interval of a fold ends in RUNNING: it is CHECKPOINTING and mustered; a new interval waiting takes over (R461, R463,
R469, R556). -/
def execCheckpointDue (fold : Nat) (t : Time) (s : State) : Host.Outcome State Fault Refusal :=
  .next (s.event t (fun s => s.active.isSome && match s.foldOf fold with
      | some f => f.st = .running && f.release.isNone && f.image.isSome && f.transition.isNone && (match f.ckpt with
          | some ms => decide (f.ckptBase + ms * msec ≤ s.now)
          | none => false)
      | none => false) fun s =>
    ((s.setFoldSt fold .checkpointing).modFold fold fun (f : Fold) =>
      { f with muster := some .checkpoint, musterAt := s.now, ckpt := if f.ckptPend.isSome then f.ckptPend else f.ckpt, ckptPend := none }).mirror)

/-- A muster is complete: a checkpoint is written next, a migration by fleece is over (R540, R541, R673 step 6F). -/
def execMusterComplete (fold : Nat) (t : Time) (s : State) : Host.Outcome State Fault Refusal :=
  .next (s.event t (fun s => match s.foldOf fold with
      | some f => f.muster.isSome && f.transition.isNone && s.quietFold f
      | none => false) fun s =>
    match s.foldOf fold with
    | none => s
    | some f =>
      match f.muster with
      | some .fleece => s.finishRecovery fold
      | _ => s.modFold fold fun (g : Fold) => { g with muster := none })

/-- A muster that has not completed within 2·Q_max + 100 µs is a watchdog expiry of the fold (R541). -/
def execMusterTimeout (fold : Nat) (t : Time) (s : State) : Host.Outcome State Fault Refusal :=
  .next (s.event t (fun s => match s.foldOf fold with
      | some f => f.muster.isSome && f.transition.isNone && decide (f.musterAt + 200 * f.qMax + 100 * usec ≤ s.now)
      | none => false) fun s =>
    ((s.count .fold fold tfWatchdog).modFold fold fun (f : Fold) => { f with muster := none }).report .watchdog [fold]
      (shcDest (s.active.getD 0)))

/-- What a checkpoint set holds now, region by region. -/
def State.readSet (s : State) (f : Fold) (im : Image) : List (Nat × List Byte) :=
  (im.regions.zip (List.range im.regions.length)).map fun (x : Region × Nat) =>
    let n := f.place x.1.pad
    (x.2, (s.pad n).getState n x.1.ctx (decide ((s.pad n).excl = 0)) x.1.kind x.1.unit x.1.off x.1.len)

/-- The checkpoint set is written over the older copy under its KCKP tag; the fold returns to RUNNING (R461, R462, R463). -/
def execCheckpointWriteDone (fold : Nat) (t : Time) (s : State) : Host.Outcome State Fault Refusal :=
  .next (s.event t (fun s => match s.foldOf fold with
      | some f => f.st = .checkpointing && f.muster.isNone
      | none => false) fun s =>
    match s.foldOf fold with
    | none => s
    | some f =>
      match f.image with
      | none => s
      | some im =>
        let data := s.readSet f im
        let body := im.digest ++ leBytes 1 f.epoch ++ leBytes 8 (f.ckptSeq + 1) ++ data.flatMap fun d => d.2
        let c : Copy := ⟨im.digest, f.epoch, f.ckptSeq + 1, Config.gcmTag f.key body, data⟩
        let keep := (f.copies.filter fun x => f.copies.all fun y => decide (y.seq ≤ x.seq)).take 1
        let s1 := s.modFold fold fun (g : Fold) =>
          { g with copies := keep ++ [c], ckptSeq := f.ckptSeq + 1, lastCkpt := some s.now, ckptBase := s.now }
        ((s1.count .fold fold tfCheckpoint).setFoldSt fold .running).mirror)

/-! Reports and notices (R659–R662). -/

/-- The active controller receives a REPORT: its folds are in doubt, FAULT_N is asserted (R660, R663, R684). -/
def execReportReceived (trigger : Trigger) (folds : List Nat) (place : Nat) (t : Time) (s : State) : Host.Outcome State Fault Refusal :=
  .next (s.event t (fun s => s.active.isSome && s.reports.any fun r => r.trigger = trigger && r.folds = folds && r.place = place) fun s =>
    let s1 : State := { s with faultN := true
                               reports := dropFirst (fun r => r.trigger = trigger && r.folds = folds && r.place = place) s.reports }
    s1.reported trigger place folds)

/-- REPORTs not acknowledged are sent again every millisecond, to whoever is active (R659, R683). -/
def execReportResend (t : Time) (s : State) : Host.Outcome State Fault Refusal :=
  .next (s.event t (fun s => s.reports.any fun r => decide (r.since + msec ≤ s.now)) fun s =>
    { s with reports := s.reports.map fun (r : PendReport) => if r.since + msec ≤ s.now then { r with since := s.now } else r })

/-- The notice that stands for a fold in doubt. -/
def State.notice (s : State) (fold : Nat) : Option FoldState :=
  if s.stOf fold = some .doubt || s.stOf fold = some .migrating || s.stOf fold = some .stopped then
    (s.notices.find? fun x => x.fold = fold).map fun x => x.next
  else none

/-- A doubt notice reaches a NED: replies in progress are stomped, every other request of the fold is refused, tags are closed
(R44, R106, R661, R688). -/
def execDoubtNoticeNed (k : NedIx) (fold : Nat) (t : Time) (s : State) : Host.Outcome State Fault Refusal :=
  .next (s.event t (fun s => !(s.ned k.val).doubt && (s.notice fold).isSome) fun s =>
    let reason := if s.notice fold = some .migrating then rsMigrating else rsFault
    let hit (r : Req) : Bool := r.fold = fold && (r.phase = .wafer || r.phase = .penned || (s.ned k.val).sending r s.now
      || (r.phase = .held && r.runs = 2)
      || (r.phase = .waiting && match r.reply with
          | some (.refused _) => false
          | _ => true))
    ((s.ned k.val).reqs.filter hit).foldl (fun s r => s.refuseReq k.val r (if r.phase = .replying || r.phase = .done || r.phase = .held then rsFault else reason)) s)

/-- A doubt notice reaches a paddock of the fold: outputs masked, hurdled, its credits revoked; for a slot its context alone
(R146, R445, R662). -/
def execDoubtNoticePaddock (n : Pad) (fold : Nat) (t : Time) (s : State) : Host.Outcome State Fault Refusal :=
  .next (s.event t (fun s => (s.notice fold).isSome && (s.foldsOn n.val).contains fold) fun s =>
    let s1 := s.modPad n.val fun p => p.maskFolds [fold]
    if (s.pad n.val).excl = fold then s1.hurdleFor n.val fold else s1)

/-! Migrations and restarts (Table FAULT-4). -/

/-- The recovery of a fold in MIGRATING whose paddocks all run with good clocks. -/
def State.recovering (s : State) (id : Nat) : Option Recovery :=
  match s.foldOf id with
  | some f => if f.st = .migrating && f.pads.all fun n => (s.pad n).power = .run && !(s.pad n).clockLost then f.recovery else none
  | none => none

/-- A failed paddock's fleece has been scanned into its target, or met an uncorrectable word: then by checkpoint
(R542, R553, R673 step 3F, R674). -/
def execShearComplete (fold : Nat) (n : Pad) (good : Bool) (t : Time) (s : State) : Host.Outcome State Fault Refusal :=
  .next (s.event t (fun s => (s.recovering fold).any fun r => r.means = .fleece && r.shears.contains n.val) fun s =>
    match s.recovering fold with
    | none => s
    | some r =>
      if !good || !s.canFleece n.val then s.toCheckpoint fold
      else
        match r.moves.find? fun q => q.1 = n.val with
        | none => s
        | some q =>
          let s1 := s.modPad q.2 fun p => p.takeFleece (s.pad n.val)
          let s2 := match s1.foldOf fold with
            | some f => (match f.image with
                | some im => s1.installLinks im (f.origin q.2) q.2 f.id
                | none => s1)
            | none => s1
          s2.modFold fold fun (f : Fold) =>
            { f with recovery := some { r with shears := r.shears.filter (· ≠ n.val) }
                     transition := f.transition.map fun (x : Transition) =>
                       { x with outgoing := x.outgoing.map fun (o : Nat × Nat) => if o.1 = n.val then (q.2, o.2) else o } })

/-- The retained image has been decrypted and written and the checkpoint copy read back; what fails its check stops the fold
(Table FAULT-1, R462, R673 step 3C, R678). -/
def execCheckpointRestoreComplete (fold : Nat) (good : Bool) (t : Time) (s : State) : Host.Outcome State Fault Refusal :=
  .next (s.event t (fun s => (s.recovering fold).any fun r => (r.means = .checkpoint || r.means = .restart) && !r.restored) fun s =>
    match s.foldOf fold, s.recovering fold with
    | some f, some r =>
      if !good then s.stopFold fold .auth 0 []
      else
        match f.image with
        | none => s
        | some im =>
          let s1 := ((s.restoreFold f im).modFold fold fun (g : Fold) => { g with recovery := some { r with restored := true } }).syncPause
          if r.written then s1.commitRecovery fold else s1
    | _, _ => s)

/-- The relocation record is written: routes patched, ΔQ raised, and the recovery commits (R672, R673 steps 4 and 5). -/
def execRelocRecordWritten (fold : Nat) (t : Time) (s : State) : Host.Outcome State Fault Refusal :=
  .next (s.event t (fun s => (s.recovering fold).any fun r =>
      !r.written && (if r.means = .fleece then r.shears.isEmpty else r.restored)) fun s =>
    match s.foldOf fold, s.recovering fold with
    | some f, some r =>
      match f.image with
      | none => s
      | some im =>
        (((s.applyPatches f im).raiseMoves f im r.moves).modFold fold fun (g : Fold) =>
          { g with recovery := some { r with written := true } }).commitRecovery fold
    | _, _ => s)

/-! Verdicts on clocks, rings and the reference (R577–R579, R664, R937). -/

/-- A restarted clock locked in time and held 100 µs. -/
def heldAfter (lost : Time) (within : Time) (locked : Option Time) (held : Bool) (now : Time) : Bool :=
  match locked with
  | some l => held && decide (l ≤ lost + within) && decide (l + 100 * usec ≤ now)
  | none => false

def execClockRelockVerdict (n : Pad) (locked : Option Time) (held : Bool) (t : Time) (s : State) : Host.Outcome State Fault Refusal :=
  .next (s.event t (fun s => (s.pad n.val).clockLost && !(s.field (fieldOf n.val)).ringLost) fun s =>
    s.resolveClock n.val (heldAfter (s.pad n.val).lostAt (100 * usec) locked held s.now))

def execRingRelockVerdict (f : FieldIx) (locked : Option Time) (held : Bool) (t : Time) (s : State) : Host.Outcome State Fault Refusal :=
  .next (s.event t (fun s => (s.field f.val).ringLost) fun s =>
    let f := f.val
    let good := heldAfter (s.field f).ringLostAt msec locked held s.now
    let s1 := if good then (s.count .paddock (fieldTally f) tdRing).modField f fun x => { x with ringLost := false } else s
    if good then ((fieldPads f).filter fun n => (s1.pad n).clockLost).foldl (fun s n => s.resolveClock n true) s1
    else (fieldPads f).foldl (fun s n => if (s.entry n).st = 2 then s else s.resolveClock n false) s1)

/-- The reference is still absent after 10 ms: the dies of the absent edges enter doubt (R579, R937). -/
def execReferenceAbsentLong (edge : Option (Fin 4)) (t : Time) (s : State) : Host.Outcome State Fault Refusal :=
  .next (s.event t (fun s => (edgesOf edge).all (fun e => s.refAbsent.contains e) && match s.refSince with
      | some a => decide (a + 10 * msec ≤ s.now)
      | none => false) fun s =>
    let es := edgesOf edge
    let s1 := ((List.range 24).filter fun k => es.contains (k / 6)).foldl (fun s k => s.nedEnterDoubt k 5) s
    let s2 := ((List.range 16).filter fun i => es.contains (i / 4)).foldl (fun s i => s.spdEnterDoubt i 5) s1
    ((List.range 12).filter fun k => es.contains (k / 3)).foldl (fun s k => s.medEnterDoubt k 5) s2)

/-! The operator's acknowledgement and restores. -/

def execAckFault (ln : Ln) (s : State) : Host.Outcome State Fault Refusal :=
  .next (s.judged ln .operate false fun s =>
    s.ack.ok ln [("fault", .word (if s.ack.faultN then "asserted" else "clear")), ("alert", .word (if s.ack.alertN then "asserted" else "clear"))])

/-- Return a die to service after its test (R113, R386, R707). -/
def State.dieBack (s : State) : DieName → State
  | .ned k => s.modNed k fun n => { n with doubt := false, doubtCause := 0, ports := n.ports.map fun (p : Port) =>
      if p.state = .squelched then p else { p with state := .idle } }
  | .med k => s.modMed k fun m => { m.flush with doubt := false, selfRefresh := false, partials := [] }
  | .spd k => s.modSpd k fun d => { d with doubt := false, doubtCause := 0, state := .squelched }
  | .shc k => s.modShc k fun c => { c with st := .ok, cause := 0, probe := none }

def State.dieInDoubt (s : State) (d : DieName) : Bool :=
  match d with
  | .ned k => (s.ned k).doubt
  | .med k => (s.med k).doubt
  | .spd k => (s.spd k).doubt
  | .shc k => (s.shc k).st ≠ .ok

/-- A die in doubt for its temperature returns only below 95 °C (R378, R643). -/
def State.tooHot (s : State) : DieName → Bool
  | .ned k => (s.ned k).doubtCause = 3 && decide (760 ≤ (s.nedTemp.getD k (noTemp, 0)).1)
  | .spd k => (s.spd k).doubtCause = 3 && decide (760 ≤ (s.spdTemp.getD k (noTemp, 0)).1)
  | .med k => (s.med k).selfRefresh && ((s.med k).temp.any fun x => decide (95 ≤ x))
  | .shc k => (s.shc k).cause = 6 && decide (760 ≤ (s.shc k).temp)

def dieVal : DieName → String × Nat
  | .ned k => ("ned", k)
  | .med k => ("med", k)
  | .spd k => ("spd", k)
  | .shc k => ("shc", k)

/-- Retest a die in doubt over the chain, then return it to service (R679, R707, R763). -/
def execRestoreDie (die : DieName) (passed : Bool) (ln : Ln) (s : State) : Host.Outcome State Fault Refusal :=
  .next (s.judged ln .admin false fun s =>
    match dieDest die with
    | none => s.err ln 401 [("object", .word "die")]
    | some d =>
      if !s.dieInDoubt die then s.err ln 404 [("object", .word "die"), ("state", .word "ok")]
      else if !passed || s.tooHot die then (s.tapTest d).refuse ln "test-failed"
      else
        let s := s.tapTest d
        let s1 := ((s.dieBack die).reinject).ring (dieVal die).1 false [("die", .num (dieVal die).2), ("state", .word "ok")]
        s1.ok ln [("die", .num d), ("state", .word "ok")])

/-- A border named by a paddock and a direction: its end, where it exists. -/
def borderAt (c r dir : Nat) : Option Nat :=
  if c < 28 && r < 48 && dir < 4 && (peerEnd (padEnd (padAt c r) dir)).isSome then some (padEnd (padAt c r) dir) else none

/-- Test a downed lane in both directions and return it to use; the raise of Q ends (R672, R715, R836). -/
def execRestoreLane (c r dir lane : Nat) (passed : Bool) (ln : Ln) (s : State) : Host.Outcome State Fault Refusal :=
  .next (s.judged ln .admin false fun s =>
    match borderAt c r dir with
    | none => s.err ln 401 [("object", .word "border")]
    | some x => s.inRange ln "lane" lane 0 3 fun s =>
      if !(s.link x lane).lastingDown then s.err ln 404 [("object", .word "lane"), ("state", .word "up")]
      else if !passed then s.refuse ln "test-failed"
      else
        let up (s : State) (y : Nat) : State :=
          ((s.modLink y lane fun l => { LinkEnd.initial with detours := l.detours, owner := l.owner, compress := l.compress, ahead := l.ahead }).syncCredits y lane).endRaise (linkKey y lane)
        let s1 := match peerEnd x with
          | some y => up (up s x) y
          | none => up s x
        (s1.ring "link" false [("at", .num x), ("lane", .num lane), ("state", .word "up")]).ok ln [("lane", .num lane), ("state", .word "up")])

/-- The word of the detour in use on a lane. -/
def detourWord (l : LinkEnd) : String :=
  match l.detour with
  | some (.shift _) => "shift"
  | some (.around _) => "around"
  | some .transit => "transit"
  | none => "none"

/-- A border's lanes; every retry ended transient or lasting (R155, R829). -/
def execShowLink (c r dir : Nat) (lane : Option Nat) (ln : Ln) (s : State) : Host.Outcome State Fault Refusal :=
  .next (s.judged ln .view true fun s =>
    match borderAt c r dir with
    | none => s.err ln 401 [("object", .word "border")]
    | some x => s.inRange ln "lane" (lane.getD 0) 0 3 fun s =>
      let one (i : Nat) : KVs :=
        let l := s.link x i
        let tr := (s.tally ⟨.link, linkId x i, tlTransient⟩).toNat
        [("lane", .num i), ("state", .word (if l.lastingDown then "down" else "up")),
         ("retries", .num (tr + (s.tally ⟨.link, linkId x i, tlLasting⟩).toNat)), ("transient", .num tr),
         ("detour", .word (detourWord l))]
      s.parts ln (match lane with
        | some i => [one i]
        | none => (List.range 4).map one) [])

end Sys2Proof.Machine
end

