-- ==== Sys2Proof/Machine/Bring.lean ====
section
/-! DEFINITION. Bring-up from the release of reset to READY, and the boot commands (*Power-on and edge-first bring-up*,
R697–R735; R58, R214, R703–R721; Table CMD-2). -/
namespace Sys2Proof.Machine

open Sys2Proof

/-! B1: firmware and the active controller (R703–R705, R756–R758). -/

/-- The images in the order the ROM tries them: slot and image; 2 is the recovery image (R756). -/
def Flash.romOrder (f : Flash) : List (Nat × Option Firmware) :=
  if f.preferred = 0 then [(0, f.slot0), (1, f.slot1), (2, f.recovery)] else [(1, f.slot1), (0, f.slot0), (2, f.recovery)]

/-- Whether the ROM runs an image whose signature verdict is `sig` (R757). -/
def State.runs (s : State) (sig : Bool) (w : Firmware) : Bool := sig && w.stepping = 2 && decide (s.fuses.svn ≤ w.svn)

/-- The image the ROM runs. -/
def State.romPick (s : State) (sigs : List Bool) : Option (Nat × Firmware) :=
  (s.flash.romOrder.zip sigs).findSome? fun x => match x.1.2 with
    | some w => if s.runs x.2 w then some (x.1.1, w) else none
    | none => none

/-- A controller runs an image from a slot; 3 is RAM (R758). -/
def Shc.load (c : Shc) (slot : Nat) (w : Firmware) (now : Time) : Shc :=
  { c with st := .ok, cause := 0, slot := slot, firmware := w.version, svn := w.svn, mirrorVersion := w.mirror, lastBeat := now, probe := none }

/-- Every stage of the sled, address and page, in the order in which its rails are turned off (R933, Table PWR-7; log entry 57). -/
def stageRails : List (Nat × Nat) :=
  ((List.range 84).flatMap fun f => [(fieldAddr f, 0), (fieldAddr f, 1)]) ++
  ((List.range 4).flatMap fun e => [(0x64 + e, 1), (0x64 + e, 0)]) ++
  (List.range 4).flatMap fun e => [(0x68 + e, 1), (0x68 + e, 0), (0x68 + e, 2)]

/-- The consoles start, and every field, edge and HBM stage is turned off (R705, R779). -/
def State.startConsoles (s : State) : State :=
  let s1 : State := { s with
    boot := { s.boot with consoles := true }
    sess := s.sess.mapIdx fun i (c : CSess) => if i < 2 then { c with up := true } else c }
  stageRails.foldl (fun s r => s.pmbus r.1 r.2 0x01 0) ((s1.prompt 0).prompt 1)

/-- A controller becomes active for the first time of a boot. -/
def State.becomeActive (s : State) (i : Nat) : State :=
  ({ s with active := some i, sel := i, quiet := if i = s.sel then s.quiet else some s.now }).startConsoles

/-- A controller's ROM has tried its images and its firmware has checked its stepping: SHC-A is active, or SHC-B when SHC-A
has failed (R19, R703, R704). -/
def execFirmwareVerified (shc : ShcIx) (sigs : List Bool) (stepField : BitVec 4) (t : Time) (s : State) : Host.Outcome State Fault Refusal :=
  .next (s.event t (fun s => s.boot.phase = .b1 && !s.boot.jtag && !s.boot.fwTried.contains shc.val) fun s =>
    let i := shc.val
    let s1 : State := { s with boot := { s.boot with fwTried := s.boot.fwTried ++ [i] } }
    let good := match s1.romPick sigs with
      | some p => if stepField.toNat = p.2.stepping then some p else none
      | none => none
    let s2 := match good with
      | some p => s1.modShc i fun c => c.load p.1 p.2 s.now
      | none => s1.shcDoubt i (if (s1.romPick sigs).isSome then 2 else 1)
    let okA := s2.boot.fwTried.contains 0 && s2.shcA.st = .ok
    let okB := s2.boot.fwTried.contains 1 && s2.shcB.st = .ok
    if s2.active.isSome then s2
    else if okA then s2.becomeActive 0
    else if okB && s2.boot.fwTried.contains 0 then ((s2.becomeActive 1).shcDoubt 0 s2.shcA.cause).takeoverBell 1
    else s2)

/-- The header of a firmware image (Table SHC-3). -/
def firmwareOf (b : List Byte) : Option Firmware :=
  if b.length < 512 || leNat (slice b 0 4) ≠ 0x57464853 then none
  else some ⟨leNat (slice b 4 1), leNat (slice b 5 1), leNat (slice b 6 2), leNat (slice b 8 4), leNat (slice b 12 4), b.drop 512⟩

/-- An image sent on CON0 to the selected controller's waiting ROM: verified and run from RAM (R758). -/
def execRecoveryImageReceived (shc : ShcIx) (image : List Byte) (sigOk : Bool) (t : Time) (s : State) : Host.Outcome State Fault Refusal :=
  .next (s.event t (fun s => s.boot.phase = .b1 && s.active.isNone && s.sel = shc.val && s.boot.fwTried.contains shc.val
      && (s.shc shc.val).st = .doubt) fun s =>
    match firmwareOf image with
    | some w => if s.runs sigOk w then (s.modShc shc.val fun c => c.load 3 w s.now).becomeActive shc.val else s
    | none => s)

/-! B1 ends, B2: stages and edge dies (R705–R708). -/

/-- The map a boot starts from, and its field entries (R63, R72). -/
def State.loadMap (s : State) : State :=
  match s.validMap with
  | none => s
  | some m =>
    let s1 : State := { s with map := m.entries, mapSeq := m.seq }
    (List.range 84).foldl (fun s f =>
      s.modField f fun x => { x with latched := m.latched.contains f, excluded := m.excluded.contains f, noReserve := m.noReserve.contains f }) s1

/-- The edge rails and the HBM pages, in order (R706). -/
def edgeRails : List (Nat × Nat) :=
  (List.range 4).flatMap fun e => [(0x64 + e, 0), (0x64 + e, 1), (0x68 + e, 2), (0x68 + e, 0), (0x68 + e, 1)]

/-- Every NED, SPD and MED by destination index, with its edge stage and HBM stage addresses. -/
def edgeDieList : List Nat := (List.range 24).map nedDest ++ (List.range 12).map medDest ++ (List.range 16).map spdDest

/-- A die of the edge enters doubt. -/
def State.edgeDieDoubt (s : State) (d cause : Nat) : State :=
  if d < 1560 then s.nedEnterDoubt (d - 1536) cause
  else if d < 1580 then s.medEnterDoubt (d - 1568) cause
  else s.spdEnterDoubt (d - 1600) cause

/-- Mark an edge die's verdict of this boot. -/
def State.dieVerdict (s : State) (d v : Nat) : State := { s with boot := { s.boot with dies := tabSet 0 s.boot.dies d v } }

/-- The stages are off and their devices have been read: what failed is recorded, B1 ends, the edge rails are turned on
(R705, R706). -/
def execStagesSettled (failed : List Nat) (t : Time) (s : State) : Host.Outcome State Fault Refusal :=
  .next (s.event t (fun s => s.boot.phase = .b1 && s.active.isSome && s.boot.consoles) fun s =>
    let s1 := ({ s with unreach := (s.unreach ++ failed).eraseDups }).loadMap
    let s2 := ((List.range 84).filter fun f => failed.contains (fieldAddr f)).foldl (fun s f =>
      (fieldPads f).foldl (fun s n => s.makeHole n 3 true) s) s1
    let s3 : State := { s2 with boot := { s2.boot with phase := .b2, ended := s2.boot.ended ++ [(1, s2.now)] } }
    let s4 := (edgeRails.filter fun r => !failed.contains r.1).foldl (fun s r => s.pmbus r.1 r.2 0x01 0x80) s3
    (edgeDieList.filter fun d => failed.contains (0x64 + dieEdge d) || (decide (1568 ≤ d) && decide (d < 1580) && failed.contains (0x68 + dieEdge d))).foldl
      (fun s d => (s.edgeDieDoubt d 1).dieVerdict d 2) s4)

/-- Fields that take part in this boot: not latched, their stage reachable (R705, R710). -/
def State.bootField (s : State) (f : Nat) : Bool := !(s.field f).latched && s.reachable (fieldAddr f)

/-- B2 is over when every die has its verdict: the always-on rails are turned on (R707, R709). -/
def State.endB2 (s : State) : State :=
  if s.boot.phase = .b2 && edgeDieList.all fun d => tabGet 0 s.boot.dies d ≠ 0 then
    ((List.range 84).filter fun f => s.bootField f).foldl (fun s f => s.pmbus (fieldAddr f) 1 0x01 0x80)
      { s with boot := { s.boot with phase := .b3, ended := s.boot.ended ++ [(2, s.now)] } }
  else s

/-- A MED's pages after its test, passed or not: FREE, but for those its flash record lists as RETIRED (R12, R707). -/
def State.freshPages (s : State) (k : Nat) : Tab DWord :=
  ((s.flash.retired.filter fun q => q.1 = k).map fun q => q.2).foldl (fun t g => tabSet 0 t g (leMake 3 0 false 0 0)) []

/-- An edge die ends its test over the chain: it passes, or it enters doubt. An SPD that passes begins training (R416, R707, R708, R763). -/
def execEdgeDieTestComplete (die : Nat) (passed : Bool) (t : Time) (s : State) : Host.Outcome State Fault Refusal :=
  .next (s.event t (fun s => s.boot.phase = .b2 && !s.boot.halted && decide (s.refAbsent.length < 4) && edgeDieList.contains die
      && tabGet 0 s.boot.dies die = 0) fun s =>
    let s1 := (s.tapTest die).dieVerdict die (if passed then 1 else 2)
    let s1 := if 1568 ≤ die && die < 1580 then s1.modMed (die - 1568) fun m => { m with leases := s.freshPages (die - 1568) } else s1
    let s2 := if !passed then s1.edgeDieDoubt die 1
      else if die < 1560 then s1.modNed (die - 1536) fun n => { n with lastAlive := s.now }
      else if die < 1580 then s1
      else s1.trainSpan (die - 1600)
    s2.endB2)

/-- The reference is still absent 1 s into B2: bring-up halts (R708). -/
def execReferenceWaitTimeout (t : Time) (s : State) : Host.Outcome State Fault Refusal :=
  .next (s.event t (fun s => s.boot.phase = .b2 && !s.boot.halted && s.refAbsent.length = 4
      && match s.boot.ended.getLast? with
        | some e => decide (e.2 + second ≤ s.now)
        | none => false) fun s =>
    ({ s with boot := { s.boot with halted := true } }).ring "ref" true [("state", .word "absent")])

/-! B3: fields (R709, R710). -/

/-- The always-on rails are in their windows: the rings start and the edge dies inject (R559, R709). -/
def execAonRailsInWindow (t : Time) (s : State) : Host.Outcome State Fault Refusal :=
  .next (s.event t (fun s => s.boot.phase = .b3 && !s.boot.aon) fun s =>
    let s1 := ((List.range 84).filter fun f => s.bootField f).foldl (fun s f => s.modField f fun x => { x with ringOn := true, ringLost := false }) s
    ({ s1 with boot := { s1.boot with aon := true } }).reinject)

/-! B4: the wave (R711–R717, R719). -/

/-- The ring of a paddock. -/
def ringOf (n : Nat) : Nat := min (min (padCol n) (27 - padCol n)) (min (padRow n) (47 - padRow n))

/-- A paddock has passed its test. -/
def State.passed (s : State) (n : Nat) : Bool := tabGet 0 s.boot.verdicts n = 1

/-- The tester of a paddock by the three rules of R711: a die's destination index, or a paddock. -/
def State.testerOf (s : State) (n : Nat) : Option Nat :=
  let dies := (List.range 4).filterMap fun d => (attachedDie n d).map fun x => x.1
  let low := dies.foldl (fun (a : Option Nat) d => match a with
    | some e => some (min d e)
    | none => some d) none
  let viaDie := low.filter fun d => tabGet 0 s.boot.dies d = 1 && !s.dieDoubt d
  let near (lower : Bool) : Option Nat :=
    ([2, 3, 0, 1].filterMap fun d => padBeyond n d).find? fun m =>
      s.passed m && (if lower then ringOf m + 1 = ringOf n else ringOf m = ringOf n)
  match viaDie with
  | some d => some d
  | none =>
    match near true with
    | some m => some m
    | none => near false

/-- Queue for power-up the paddocks of a list that have no verdict, a tester, and are not yet powered. -/
def State.enqueueTests (s : State) (ns : List Nat) : State :=
  ns.foldl (fun s n =>
    if s.hasVerdict n || (s.testerOf n).isNone || (s.pad n).power ≠ .dark || (s.pad n).soft then s else s.enqueueWave n .graze) s

def ringPads (d : Nat) : List Nat := (List.range 1344).filter fun n => ringOf n = d

/-- What a full bring-up keeps from the stored map, and what it retests (R717). -/
def State.carryHoles (s : State) : State :=
  let had := s.validMap.isSome
  (List.range 1344).foldl (fun s n =>
    let e := s.entry n
    let keep := e.st = 2 && ((s.field (fieldOf n)).latched || !s.reachable (fieldAddr (fieldOf n)) || (had && e.cause ≠ 1 && !s.flash.clear.contains n))
    if keep then s else s.setEntry n MapEntry.initial) s

/-- B4 begins: ring 0 of a full bring-up, or the stored map's paddocks in waves (R711, R719). -/
def State.startB4 (s : State) : State :=
  let s1 : State := { s with boot := { s.boot with phase := .b4, ended := s.boot.ended ++ [(3, s.now)] } }
  if s1.boot.full then s1.carryHoles.enqueueTests (ringPads 0)
  else ((List.range 1344).foldl (fun s n => if (s.entry n).st = 2 || !s.fieldOn n then s else s.enqueueWave n .graze) s1).endB4

/-- A group of 12 core rails is turned on at 0.750 V; after the last, B4 begins (R709). -/
def execCoreRailGroup (g : Fin 7) (t : Time) (s : State) : Host.Outcome State Fault Refusal :=
  .next (s.event t (fun s => s.boot.phase = .b3 && s.boot.aon && s.meshLocked && s.boot.groups = g.val) fun s =>
    let s1 := ((List.range 12).map fun i => 12 * g.val + i).foldl (fun s f =>
      if !s.bootField f || (match (s.field f).stage with
          | .off => false
          | _ => true) then s
      else (s.pmbus (fieldAddr f) 0 0x01 0x80).modField f fun x => { x with stage := .on, vcore := 750, vtarget := 750 }) s
    let s2 : State := { s1 with boot := { s1.boot with groups := g.val + 1 } }
    if g.val = 6 then s2.startB4 else s2)

/-- Every paddock of the ring has its verdict, or no tester: the next ring begins (R711). -/
def execRingWaveAdvance (t : Time) (s : State) : Host.Outcome State Fault Refusal :=
  .next (s.event t (fun s => s.testing && decide (s.boot.ring ≤ 13) && (ringPads s.boot.ring).all fun n =>
      s.hasVerdict n || ((s.testerOf n).isNone && (s.pad n).power = .dark && !(s.pad n).soft)) fun s =>
    let d := s.boot.ring + 1
    ({ s with boot := { s.boot with ring := d } }).enqueueTests (ringPads d))

/-- A paddock test ends (R61, R713–R716): GOOD, SPARE-REMAPPED, or a HOLE with cause 1. -/
def execPaddockTestComplete (n : Pad) (v : PadVerdict) (t : Time) (s : State) : Host.Outcome State Fault Refusal :=
  .next (s.event t (fun s => s.testing && (s.pad n.val).power = .graze && !s.hasVerdict n.val && (s.boot.swept || (s.testerOf n.val).isSome)) fun s =>
    let n := n.val
    let pass (col : Option Nat) : State :=
      let s1 := (s.setEntry n (match col with
        | some c => ⟨1, c, 0⟩
        | none => MapEntry.initial)).modPad n fun p => { p.shear with hurdled := false, masked := false }
      let s2 : State := { s1 with boot := { s1.boot with verdicts := tabSet 0 s1.boot.verdicts n 1 } }
      (s2.enqueueTests ((List.range 4).filterMap fun d => (padBeyond n d).filter fun m => ringOf m = s2.boot.ring)).endB4
    match v with
    | .pass => pass none
    | .column c => if isFine n && decide (c ≤ 32) then pass (some c) else s.failTest n
    | .fail => s.failTest n)

/-- A border test ends: the lanes that failed are lasting-down (R715, R732). -/
def execBorderTestComplete (x : EndIx) (failed : List (Fin 4)) (t : Time) (s : State) : Host.Outcome State Fault Refusal :=
  .next (s.event t (fun s => s.boot.phase = .b4 && s.endOn x 0 && match peerEnd x with
      | some y => s.endOn y 0
      | none => false) fun s =>
    (failed.filter fun l => s.endOn x l.val && s.endOn ((peerEnd x).getD x) l.val).foldl (fun s l => s.downLane x l.val 3) s)

/-- The sweep after ring 13: paddocks without a verdict are tested through a passed neighbour, or are unreachable (R712). -/
def execSweep (t : Time) (s : State) : Host.Outcome State Fault Refusal :=
  .next (s.event t (fun s => s.testing && s.boot.ring = 14 && !s.boot.swept) fun s =>
    let s1 : State := { s with boot := { s.boot with swept := true } }
    let s2 := (List.range 1344).foldl (fun s n =>
      if s.hasVerdict n then s
      else if (List.range 4).any fun d => (padBeyond n d).any fun m => s.passed m then s.enqueueWave n .graze
      else
        let s3 := s.makeHole n 1 true
        ({ s3 with boot := { s3.boot with verdicts := tabSet 0 s3.boot.verdicts n 2 } }).ring "paddock" true
          [("at", .pad n), ("event", .word "unreachable"), ("cause", .num 1)]) s1
    s2.endB4)

/-! B5 (R58, R718, R720, R721, R723). -/

/-- The order in which a field's reserve is designated (R58). -/
def reserveOrder (f : Nat) : List Nat :=
  [3, 2, 1].flatMap fun j => [3, 2, 1, 0].map fun i => padAt (4 * (f % 7) + i) (4 * (f / 7) + j)

/-- Designate the first GOOD C-paddock of a field that is no reserve yet. -/
def State.defaultReserve (s : State) (f : Nat) : State :=
  match (reserveOrder f).find? fun n => (s.entry n).st = 0 && !isFine n with
  | some n => s.setEntry n ⟨3, 63, 0⟩
  | none => s

/-- The reserves of a full bring-up (R718). -/
def State.bootReserves (s : State) : State :=
  match s.validMap with
  | none => (List.range 84).foldl (fun s f => s.defaultReserve f) s
  | some m =>
    (List.range 84).foldl (fun s f =>
      if m.noReserve.contains f then s
      else
        let had := (fieldPads f).filter fun n => (tabGet MapEntry.initial m.entries n).st = 3
        let s1 := (had.filter fun n => (s.entry n).st = 0 && !isFine n).foldl (fun s n => s.setEntry n ⟨3, 63, 0⟩) s
        (had.filter fun n => (s.entry n).st = 2).foldl (fun s _ => s.defaultReserve f) s1) s

/-- The lane-group modes and port settings stored in flash (step 3). -/
def State.storedPorts (s : State) : State :=
  let s1 := s.flash.lanes.foldl (fun (s : State) l =>
    s.modNed l.1 fun n => if l.2.1 = 0 then { n with mode0 := l.2.2 } else { n with mode1 := l.2.2 }) s
  s1.flash.ports.foldl (fun (s : State) q =>
    if !portExists ((s.ned q.ned).modeOf q.port) q.port then s
    else
      let s2 := s.modNed q.ned fun n => n.setPort q.port
        { n.port q.port with state := if n.doubt then (n.port q.port).state else .idle, mac := q.mac, defTemplate := q.template, eq := BitVec.ofNat 16 q.eq }
      if q.ptp then { s2 with ptpPort := some (q.ned, q.port) } else s2) s1

/-- Every page that is not RETIRED becomes SCRUB (step 4). -/
def Med.scrubAll (m : Med) : Med :=
  { m with leases := (List.range 12288).map fun g => (g, if leState (m.lease g) = 3 then m.lease g else leMake 2 0 false 0 (leGen (m.lease g))) }

/-- The running map differs from the newest copy in flash. -/
def State.mapChanged (s : State) : Bool :=
  match s.validMap with
  | none => true
  | some m =>
    m.entries ≠ s.map || (List.range 84).any fun f => m.latched.contains f ≠ (s.field f).latched
      || m.excluded.contains f ≠ (s.field f).excluded || m.noReserve.contains f ≠ (s.field f).noReserve

/-- A die or controller is in doubt. -/
def State.anyDieDoubt (s : State) : Bool :=
  (s.neds.any fun (n : Ned) => n.doubt) || (s.meds.any fun (m : Med) => m.doubt) || (s.spds.any fun (d : Spd) => d.doubt)
    || s.shcA.st = .doubt || s.shcB.st = .doubt

/-- At B5 the paddocks of a field whose stage is not on become HOLE 1. -/
def State.stageHoles (s : State) : State :=
  (List.range 84).foldl (fun s f => match (s.field f).stage with
      | .on => s
      | _ => (fieldPads f).foldl (fun s n => if (s.entry n).st = 2 then s else s.makeHole n 1 true) s) s

/-- The wafer map that B5 settles: the default reserve is chosen after a full bring-up. -/
def State.bootEntries (s : State) : State :=
  let s1 := s.stageHoles
  if s1.boot.full then s1.bootReserves else s1

/-- The engine becomes READY: ports as stored, memory scrubbed, mirror and gap records, FAULT_N as dies and supply are. -/
def State.becomeReady (s : State) (must : Bool) : State :=
  let s3 := if must then s.writeMap s.boot.full true else s
  let s4 := s3.storedPorts.modFlash fun f => { f with clear := if s3.boot.full then [] else f.clear, reached := true }
  let s5 : State := { s4 with meds := s4.meds.map fun (m : Med) => if m.doubt then m else m.scrubAll }
  let s6 := s5.mirror.writeGaps
  { s6 with
    boot := { s6.boot with phase := .ready, ended := s6.boot.ended ++ [(5, s6.now)] }
    ready := true, readyAt := s6.now, vstby := false, faultN := s6.anyDieDoubt || s6.pwrFail }

/-- B5: reserves, the map, the ports, the scrub, the mirror, the gap records, then READY, which clears the VSTBY latch (R717, R718, R720, R721,
R723, R864). A
map that must be written and does not read back keeps the engine in B5. -/
def execBootMapAndReady (flashOk : Bool) (t : Time) (s : State) : Host.Outcome State Fault Refusal :=
  .next (s.event t (fun s => s.boot.phase = .b5 && s.active.isSome) fun s =>
    let s2 := s.bootEntries
    let must := s2.boot.full || s2.mapChanged
    if must && (!flashOk || s2.frozen) then s else s2.becomeReady must)

/-! Boot commands (Table CMD-2). -/

def bootWord (s : State) : String :=
  if s.boot.halted then "halted"
  else match s.boot.phase with
    | .reset | .b1 => "b1"
    | .b2 => "b2"
    | .b3 => "b3"
    | .b4 => "b4"
    | .b5 => "b5"
    | .ready => "ready"

def fullWord (b : Bool) : String := if b then "full" else "fast"

/-- `show engine` (R2). -/
def execShowEngine (detail : Bool) (ln : Ln) (s : State) : Host.Outcome State Fault Refusal :=
  .next (s.judged ln .view true fun s =>
    let a := s.active.getD 0
    s.ok ln ([("engine", .word "MW-700"), ("stepping", .word "B"), ("wafer", .num s.me), ("state", .word (bootWord s))] ++
      if detail then
        [("serial", .hex s.fuses.serial.toNat), ("mfr", .num s.fuses.mfr), ("active", .word (if a = 0 then "shc-a" else "shc-b")),
         ("firmware", .num (s.shc a).firmware), ("svn", .num s.fuses.svn), ("boot", .word (fullWord s.boot.full))]
      else []))

/-- The word of a cause of R701. -/
def causeWord : BootCause → String
  | .none => "none"
  | .noMap => "no-map"
  | .mismatch => "mismatch"
  | .clear => "clear"
  | .prior => "prior"
  | .tag => "tag"

/-- `show boot`: the phases ended, and the mode run (R701, R702). -/
def execShowBoot (ln : Ln) (s : State) : Host.Outcome State Fault Refusal :=
  .next (s.judged ln .view true fun s =>
    s.parts ln (s.boot.ended.map fun e => [("phase", .word ((["", "b1", "b2", "b3", "b4", "b5"] : List String).getD e.1 "b5")),
        ("ended_ms", .num ((e.2 - s.boot.released) / msec))])
      [("run", .word (fullWord s.boot.full)), ("stored", .word (fullWord s.flash.bootFull)), ("cause", .word (causeWord s.boot.cause))])

/-- `set boot`: stored for the next boot (R701, R725). -/
def execSetBoot (full : Bool) (ln : Ln) (s : State) : Host.Outcome State Fault Refusal :=
  .next (s.judged ln .admin true fun s =>
    if !s.flashTakes ln then s.flashErr ln "settings"
    else ({ s with flash := { s.flash with bootFull := full } }).ok ln [("mode", .word (fullWord full))])

/-- `set clear`: the HOLEs that the next full bring-up retests (R717, R725). -/
def execSetClear (at_ : List Loc) (ln : Ln) (s : State) : Host.Outcome State Fault Refusal :=
  .next (s.judged ln .admin true fun s =>
    match locList at_ with
    | none => s.err ln 401 [("object", .word "location")]
    | some ns =>
      if ns.any fun n => (s.entry n).st ≠ 2 then s.err ln 404 [("object", .word "paddock"), ("state", .word "good")]
      else if !s.flashTakes ln then s.flashErr ln "settings"
      else ({ s with flash := { s.flash with clear := ns } }).ok ln [("count", .num ns.length)])

/-- `reset engine`: the final line, then reset and a new bring-up (R699, R735, R774). -/
def execResetEngine (confirm : Bool) (ln : Ln) (s : State) : Host.Outcome State Fault Refusal :=
  .next (s.judged ln .admin true fun s =>
    if confirm then
      let said := (s.ok ln []).cs ln.sess
      let r := s.enterReset
      (r.setCs ln.sess { r.cs ln.sess with out := said.out }).leaveReset s.boot.jtag
    else s.err ln 114 [("key", .word "confirm")])

end Sys2Proof.Machine
end

