-- ==== Sys2Proof/Machine/Shepherd.lean ====
section
/-! DEFINITION. The two shepherd controllers: keep-alives, heartbeats, takeover and handover, the mirror, the READY latch,
firmware updates (*The shepherd controllers and board interfaces*, R736–R776; R681–R683, R692, R693, R722, R728). -/
namespace Sys2Proof.Machine

open Sys2Proof

/-! Takeover (R682, R683, R704, R737). -/

/-- What ends with the sessions of a controller that stops being active: commands without a reply are not in effect, loads
fail, stages are lost (R683, R781, R833). -/
def State.dropMaster (s : State) : State :=
  let undone := s.waits.filterMap fun w => match w.why with
    | .fold id => if s.stOf id = some .created then some id else none
    | _ => none
  let s1 : State := { s with
    waits := [], stages := [], fwUpdate := .none, mirrorProbe := none
    sess := s.sess.mapIdx fun i (c : CSess) =>
      if i < 2 then { c with login := .open, lineNo := 0, part := [], skip := false, overrun := false, bellQ := [], lost := 0, fails := [], lockedUntil := none, queued := [] }
      else { CSess.initial false with out := c.out }
    fields := tabMap Field.initial s.fields fun _ x => { x with vtarget := x.vcore }
    pads := tabMap Paddock.initial s.pads fun _ p => if p.target = p.n then p else { p with target := p.n, setting := p.n } }
  let s2 := undone.foldl (fun s id => s.releaseStep id) s1
  (s2.folds.filter fun (f : Fold) => f.load.isSome).foldl (fun s f => s.loadFail f.id 799 (some "takeover")) s2

/-- A takeover before READY starts bring-up again from B2, in the mode chosen at B1 (R728). -/
def State.bootAgain (s : State) : State :=
  match s.boot.phase with
  | .b2 | .b3 | .b4 | .b5 =>
    let fields := tabMap Field.initial s.fields fun _ (x : Field) =>
      { Field.initial with latched := x.latched, excluded := x.excluded, noReserve := x.noReserve }
    { s with
      pads := [], fields := fields, wave := [], meshLocked := false
      boot := { s.boot with phase := .b2, halted := false, ended := s.boot.ended.take 1, groups := 0, ring := 0, swept := false, verdicts := [],
                            dies := [], aon := false } }
  | _ => s

/-- A stage retry that was in progress restarts from CLEAR_FAULTS (R629). -/
def State.retriesAgain (s : State) : State :=
  ((List.range 84).filter fun f => match (s.field f).stage with
    | .retrying _ => true
    | _ => false).foldl (fun s f => (s.modField f fun x => { x with stage := .retrying s.now }).stageOnSequence f) s

/-- Controller `i` becomes active: the cell is switched, sessions and loads end, recoveries and stage retries begin again, three
gratuitous ARP frames are owed; what intervals it finds ended it signs late (R629, R682, R683, R693, R737, R749, R865). -/
def State.takeRole (s : State) (i : Nat) : State :=
  let s1 := s.lateIntervals.dropMaster
  let s2 : State := { s1 with active := some i, sel := i, quiet := some s1.now, garp := 3, readyAt := s1.now }
  let s3 := s2.retriesAgain
  if s3.boot.phase = .ready then s3.recoverAgain else s3.bootAgain

/-- Whether the cell takes a request now (R737). -/
def State.cellFree (s : State) : Bool := s.quiet.isNone

/-- The backup takes over from a controller that has failed; a flash write of that one is cut off (R682, R770). -/
def State.takeOverFrom (s : State) (a cause : Nat) : State :=
  (((s.cutFlash.modShc (1 - a) fun c => { c with probe := none }).takeRole (1 - a)).shcDoubt a cause).takeoverBell (1 - a)

/-! Keep-alives and heartbeats (R681, R682, R739–R741). -/

def execKeepaliveSend (t : Time) (s : State) : Host.Outcome State Fault Refusal :=
  .next (s.event t (fun s => s.active.isSome) fun s =>
    { s with
      wire := s.wire ++ [Wire.keepalive s.now]
      neds := s.neds.map fun (n : Ned) => { n with lastAlive := s.now } })

/-- The heartbeat a controller sends (R741). -/
def State.beat (s : State) (i : Nat) : Beat :=
  let c := s.shc i
  ⟨decide (s.active = some i), c.firmware, c.mirrorVersion, c.mirrorSeq, if c.st = .doubt then 1 else 0⟩

def execHeartbeatSend (shc : ShcIx) (t : Time) (s : State) : Host.Outcome State Fault Refusal :=
  .next (s.event t (fun s => (s.shc shc.val).st ≠ .absent) fun s =>
    { s with wire := s.wire ++ [Wire.heartbeat shc.val (s.beat shc.val)] })

/-- A path that carried the heartbeat and no longer does is lost: an alert and a bell (R740, Table SHC-6). -/
def State.pathLost (s : State) (i : Nat) (newly : Bool) (w : String) : State :=
  let s1 := s.count .shc i thPath
  if newly then (s1.alert alPath).ring "shc" true [("role", .word (shcWord i)), ("state", .word "path"), ("cause", .word w)] else s1

/-- A controller receives its partner's heartbeat on one path or both (R740, R741, R743). A pending probe is answered, and the
miss was transient (R682). -/
def execHeartbeatReceive (shc : ShcIx) (shcl lane0 : Bool) (b : Beat) (t : Time) (s : State) : Host.Outcome State Fault Refusal :=
  .next (s.event t (fun _ => shcl || lane0) fun s =>
    let i := shc.val
    let c := s.shc i
    let s1 := s.setShc i { c with lastBeat := s.now, probe := none, heard := true, viaShcl := shcl, viaLane0 := lane0 }
    let s2 := if c.probe.isSome then s1.count .shc i thPath else s1
    let s3 := if !shcl then s2.pathLost i (c.viaShcl || !c.heard) "shcl"
      else if !lane0 then s2.pathLost i (c.viaLane0 || !c.heard) "lane0" else s2
    let s4 := s3.modShc (1 - i) fun p => { p with mirrorSeq := max p.mirrorSeq b.mirrorSeq, mirrorVersion := b.mirrorVersion, firmware := b.firmware }
    let s5 := if b.mirrorSeq = s4.mirrorSeq then { s4 with mirrorProbe := none } else s4
    let p := s5.shc (1 - i)
    let bad := b.health ≠ 0 || (s5.active = some i && b.mirrorVersion ≠ (s5.shc i).mirrorVersion)
    if bad then (if p.st = .doubt then s5 else s5.shcDoubt (1 - i) 3)
    else if p.st = .absent then s5.modShc (1 - i) fun p => { p with st := .ok, cause := 0 } else s5)

/-- The backup of the moment. -/
def State.backup (s : State) : Option Nat := s.active.map fun a => 1 - a

/-- The backup has heard no heartbeat for 20 ms: one probe (R682). -/
def execHeartbeatMiss (t : Time) (s : State) : Host.Outcome State Fault Refusal :=
  .next (s.event t (fun s => match s.backup with
      | some b => (s.shc b).st = .ok && (s.shc b).probe.isNone && decide ((s.shc b).lastBeat + 20 * msec ≤ s.now)
      | none => false) fun s =>
    match s.backup with
    | some b => { s.modShc b fun c => { c with probe := some s.now } with wire := s.wire ++ [Wire.probe b] }
    | none => s)

/-- The probe is unanswered for 10 ms: the backup takes over, unless the cell is in its quiet time (R682, R737). -/
def execProbeTimeout (t : Time) (s : State) : Host.Outcome State Fault Refusal :=
  .next (s.event t (fun s => s.cellFree && match s.backup with
      | some b => (match (s.shc b).probe with
          | some p => (s.shc b).st = .ok && decide (p + 10 * msec ≤ s.now)
          | none => false)
      | none => false) fun s =>
    match s.active with
    | some a => s.takeOverFrom a 4
    | none => s)

/-- The active controller enters doubt: it hands over at once, or, with no backup, gives up its mastership (R682, R744). -/
def execSelfDoubtHandover (cause : Nat) (t : Time) (s : State) : Host.Outcome State Fault Refusal :=
  .next (s.event t (fun s => s.active.isSome) fun s =>
    match s.active with
    | none => s
    | some a =>
      if (s.shc (1 - a)).st = .ok && s.cellFree then s.takeOverFrom a cause
      else
        let s1 := (s.cutFlash.shcDoubt a cause).dropMaster
        { s1 with active := none, ready := false })

/-- 100 ms after a switch the cell accepts requests again (R737). -/
def execSelectionQuietExpiry (t : Time) (s : State) : Host.Outcome State Fault Refusal :=
  .next (s.event t (fun s => match s.quiet with
      | some q => decide (q + 100 * msec ≤ s.now)
      | none => false) fun s => { s with quiet := none })

/-! The mirror (R742, R743). -/

/-- The backup has not acknowledged a change within 1 ms: one probe. -/
def execMirrorAckTimeout (t : Time) (s : State) : Host.Outcome State Fault Refusal :=
  .next (s.event t (fun s => s.mirrorProbe.isNone && decide (0 < s.mirrorSeq) && match s.backup with
      | some b => (s.shc b).st = .ok
      | none => false) fun s =>
    { s with mirrorProbe := some s.now, wire := s.wire ++ [Wire.probe (s.active.getD 0)] })

/-- That probe is unanswered for 10 ms: the backup is in doubt. -/
def execMirrorProbeTimeout (t : Time) (s : State) : Host.Outcome State Fault Refusal :=
  .next (s.event t (fun s => match s.mirrorProbe with
      | some p => decide (p + 10 * msec ≤ s.now)
      | none => false) fun s =>
    match s.backup with
    | some b => ({ s with mirrorProbe := none }).shcDoubt b 5
    | none => { s with mirrorProbe := none })

/-! The READY latch (R722, R764). -/

def execReadyRefresh (t : Time) (s : State) : Host.Outcome State Fault Refusal :=
  .next (s.event t (fun s => s.active.isSome && s.ready) fun s => { s with readyAt := s.now })

def execReadyLatchExpiry (t : Time) (s : State) : Host.Outcome State Fault Refusal :=
  .next (s.event t (fun s => s.ready && decide (s.readyAt + 50 * msec ≤ s.now)) fun s => { s with ready := false })

/-! Console: the controllers. -/

/-- `handover shc`: the new active controller answers (R737, R781). -/
def execHandoverShc (ln : Ln) (s : State) : Host.Outcome State Fault Refusal :=
  .next (s.judged ln .admin false fun s =>
    let b := 1 - s.active.getD 0
    if (s.shc b).st ≠ .ok then
      s.err ln 404 [("object", .word "shc"), ("state", .word (if (s.shc b).st = .doubt then "doubt" else "absent"))]
    else if !s.cellFree then s.err ln 403 [("object", .word "shc")]
    else (s.takeRole b).ok ln [("active", .word (shcWord b))])

/-- `show shc`. -/
def execShowShc (ln : Ln) (s : State) : Host.Outcome State Fault Refusal :=
  .next (s.judged ln .view true fun s =>
    let one (i : Nat) : KVs :=
      let c := s.shc i
      [("shc", .word (shcWord i)), ("role", .word (if s.active = some i then "active" else "backup")),
       ("state", .word (match c.st with
          | .ok => "ok"
          | .doubt => "doubt"
          | .absent => "absent")),
       ("slot", .num c.slot), ("firmware", .num c.firmware), ("svn", .num c.svn), ("mirror", .num c.mirrorVersion),
       ("paths", .num ((if c.viaShcl then 1 else 0) + if c.viaLane0 then 1 else 0))]
    s.parts ln [one 0, one 1] [])

/-! Firmware updates (R759–R761, R771, R834). -/

/-- The slot neither controller runs; none when both are in use. -/
def State.spareSlot (s : State) : Option Nat := [0, 1].find? fun i => s.shcA.slot ≠ i && s.shcB.slot ≠ i

def State.fwBell (s : State) (fault : Bool) (version : Nat) (kv : KVs) : State := s.ring "shc" fault ([("firmware", .num version)] ++ kv)

/-- Write a slot of the flash. -/
def Flash.putSlot (f : Flash) (i : Nat) (w : Firmware) : Flash := if i = 0 then { f with slot0 := some w } else { f with slot1 := some w }
def Flash.slot (f : Flash) (i : Nat) : Option Firmware := if i = 0 then f.slot0 else if i = 1 then f.slot1 else f.recovery

/-- `update firmware`: accepted; steps 1 to 3 follow: the slot is written and verified, the directory put on trial, the backup
restarted (R757, R759, R833, R834). -/
def execUpdateFirmware (stage : Nat) (sigOk : Bool) (ln : Ln) (s : State) : Host.Outcome State Fault Refusal :=
  .next (s.judged ln .admin false fun s =>
    match s.stages.find? fun b => b.id = stage && b.firmware with
    | none => s.err ln 401 [("object", .word "stage")]
    | some b =>
      if s.fwUpdate ≠ .none || s.folds.any fun (f : Fold) => f.load.isSome || f.st = .migrating || f.st = .loading then s.refuse ln "busy"
      else if b.data.length < b.size then s.refuse ln "stage-incomplete"
      else
        let s1 := ({ s with stages := s.stages.filter fun x => x.id ≠ stage }).ok ln [("state", .word "updating")]
        match firmwareOf b.data, s1.spareSlot with
        | some w, some i =>
          if !s1.flashTakes ln then s1.fwBell false w.version [("state", .word "refused"), ("cause", .word "flash")]
          else
            let s2 : State := { s1 with flash := s1.flash.putSlot i w }
            if !s2.runs sigOk w then s2.fwBell true w.version [("state", .word "refused"), ("cause", .word "signature")]
            else
              let s3 : State := { s2 with flash := { s2.flash with preferred := i, trial := true }, fwUpdate := .rejoin i s2.now }
              s3.modShc (1 - s3.active.getD 0) fun c => { c with st := .absent }
        | some w, none => s1.fwBell false w.version [("state", .word "refused"), ("cause", .word "slot")]
        | none, _ => s1.fwBell true 0 [("state", .word "refused"), ("cause", .word "signature")])

/-- The restarted backup is back on the new slot; firmware built for another stepping than SHC_IDENT reports leaves it in doubt
(R19, R703): handover, the former active controller restarts; when that one is back, the
update is over (R759 steps 4 to 7). -/
def execBackupRejoin (mirrorVersion : Nat) (t : Time) (s : State) : Host.Outcome State Fault Refusal :=
  .next (s.event t (fun s => s.active.isSome && s.fwUpdate ≠ .none) fun s =>
    let a := s.active.getD 0
    let back (s : State) (i : Nat) : State := match s.flash.slot i with
      | some w => s.modShc (1 - a) fun c => { c.load i w s.now with mirrorSeq := s.mirrorSeq }
      | none => s
    let fits (i : Nat) : Bool := (s.flash.slot i).any fun (w : Firmware) => w.stepping = 2
    match s.fwUpdate with
    | .rejoin i since =>
      if !fits i then (if (s.shc (1 - a)).st = .doubt then s else s.shcDoubt (1 - a) 2)
      else if since + 2 * second < s.now || mirrorVersion ≠ (s.shc a).mirrorVersion || !s.cellFree then s
      else
        let s1 := (back s i).takeRole (1 - a)
        ({ s1 with fwUpdate := .handover i }).modShc a fun c => { c with st := .absent }
    | .handover i =>
      if !fits i then (if (s.shc (1 - a)).st = .doubt then s else s.shcDoubt (1 - a) 2)
      else
      let s1 := back s i
      let s2 := s1.modFlash fun f => { f with trial := false }
      ({ s2 with fwUpdate := .none }).fwBell false (((s.flash.slot i).map fun (w : Firmware) => w.version).getD 0) [("state", .word "updated")]
    | .none => s)

/-- The backup has not rejoined within 2 s: the old slot is preferred again, the backup restarts, the update is refused (R759
step 4). -/
def execBackupRejoinTimeout (t : Time) (s : State) : Host.Outcome State Fault Refusal :=
  .next (s.event t (fun s => match s.fwUpdate with
      | .rejoin _ since => decide (since + 2 * second ≤ s.now)
      | _ => false) fun s =>
    match s.fwUpdate with
    | .rejoin i _ =>
      let s1 := s.modFlash fun f => { f with preferred := 1 - i, trial := false }
      ({ s1 with fwUpdate := .none }).fwBell false (((s.flash.slot i).map fun (w : Firmware) => w.version).getD 0) [("state", .word "refused"), ("cause", .word "rejoin")]
    | _ => s)

/-- `raise svn`: fuses are blown up to the running image's SVN (R761). -/
def execRaiseSvn (ln : Ln) (s : State) : Host.Outcome State Fault Refusal :=
  .next (s.judged ln .admin false fun s =>
    let v := (s.shc (s.active.getD 0)).svn
    if v ≤ s.fuses.svn then s.err ln 404 [("object", .word "svn"), ("state", .num s.fuses.svn)]
    else ({ s with fuses := { s.fuses with svn := v } }).ok ln [("svn", .num v)])

end Sys2Proof.Machine
end

