-- ==== Sys2Proof/Machine/Lines.lean ====
section
/-! DEFINITION. The grammar of a line: characters, tokens, the CRC suffix, tags, verbs, objects, keys and value forms (*The
Snifen console language*, R782–R786, R791–R793, R798, Table SNF-2, Table SNF-3, Table SNF-5; the commands of *Snifen command
reference*). -/
namespace Sys2Proof.Machine

open Sys2Proof

/-- A text as byte values. -/
abbrev Txt := List Nat

def txt (w : String) : Txt := w.toList.map Char.toNat

/-- One byte in lower case (R784). -/
def low (b : Nat) : Nat := if 0x41 ≤ b && b ≤ 0x5A then b + 32 else b
def isDigit (b : Nat) : Bool := decide (0x30 ≤ b) && decide (b ≤ 0x39)
def isLetter (b : Nat) : Bool := decide (0x61 ≤ low b) && decide (low b ≤ 0x7A)
def isHex (b : Nat) : Bool := isDigit b || (decide (0x61 ≤ low b) && decide (low b ≤ 0x66))
def isSep (b : Nat) : Bool := b == 0x20 || b == 0x09
/-- The bytes a line may hold (R782). -/
def okChar (b : Nat) : Bool := (decide (0x20 ≤ b) && decide (b ≤ 0x7E)) || b == 0x09
def hexVal (b : Nat) : Nat := if isDigit b then b - 0x30 else low b - 0x57

/-- CRC-16/CCITT-FALSE (R791). -/
def lineCrcStep (crc b : Nat) : Nat :=
  (List.range 8).foldl (fun c _ => if c / 0x8000 % 2 = 1 then ((c * 2) % 0x10000) ^^^ 0x1021 else (c * 2) % 0x10000)
    (crc ^^^ (b * 256))

def lineCrc (bs : Txt) : Nat := bs.foldl lineCrcStep 0xFFFF

/-- A text without its first token and the separators before and after it. -/
def stripFront (t : Txt) : Txt := t.dropWhile isSep
def stripBack (t : Txt) : Txt := (t.reverse.dropWhile isSep).reverse

/-- The CRC suffix of a line, when its last token is one: the covered text and the digits' value (R783, R791). -/
def suffixOf (line : Txt) : Option (Txt × Nat) :=
  match (stripBack line).reverse with
  | d :: c :: b :: a :: 0x23 :: sep :: rest =>
    if [a, b, c, d].all isHex && isSep sep then
      some (stripBack rest.reverse, [a, b, c, d].foldl (fun v x => 16 * v + hexVal x) 0)
    else none
  | _ => none

/-- The tokens of a text; a quoted string directly after `=` keeps its separators. None where a quote does not close. -/
def tokensAux : Txt → Txt → Bool → Bool → List Txt → Option (List Txt)
  | [], cur, quoted, _, acc => if quoted then none else some (if cur.isEmpty then acc else acc ++ [cur])
  | b :: rest, cur, quoted, esc, acc =>
    if quoted then
      if esc then tokensAux rest (cur ++ [b]) true false acc
      else if b == 0x5C then tokensAux rest (cur ++ [b]) true true acc
      else tokensAux rest (cur ++ [b]) (b != 0x22) false acc
    else if isSep b then tokensAux rest [] false false (if cur.isEmpty then acc else acc ++ [cur])
    else tokensAux rest (cur ++ [b]) (b == 0x22 && cur.getLast? == some 0x3D) false acc

def tokensOf (t : Txt) : Option (List Txt) := tokensAux t [] false false []

/-- Split at a byte outside parentheses. -/
def splitAtTop (c : Nat) : Txt → Nat → Txt → List Txt
  | [], _, cur => [cur]
  | b :: rest, d, cur =>
    if b == c && d == 0 then cur :: splitAtTop c rest 0 []
    else splitAtTop c rest (if b == 0x28 then d + 1 else if b == 0x29 then d - 1 else d) (cur ++ [b])

def splitOn (c : Nat) (t : Txt) : List Txt := splitAtTop c t 0 []

/-! Value forms (Table SNF-3, Table CMD-1). -/

def isDec (t : Txt) : Bool := !t.isEmpty && t.all isDigit

/-- A hexadecimal form: `0x`, digits, underscores anywhere after it. -/
def hexDigits (t : Txt) : Option Txt :=
  match t with
  | 0x30 :: x :: rest => if low x == 0x78 && rest.all fun b => isHex b || b == 0x5F then some (rest.filter isHex) else none
  | _ => none

def isInt (t : Txt) : Bool :=
  (match hexDigits t with
    | some d => !d.isEmpty
    | none => false) || isDec (match t with
    | 0x2D :: r => r
    | _ => t)

def endsWith (t w : Txt) : Bool := (t.drop (t.length - w.length)).map low == w.map low && decide (w.length < t.length)
def withSuffix (t : Txt) (ws : List String) : Bool := ws.any fun w => endsWith t (txt w) && isInt (t.take (t.length - w.length))

def isTime (t : Txt) : Bool := withSuffix t ["ns", "us", "ms"] || (endsWith t (txt "s") && isInt (t.take (t.length - 1)))
def isSize (t : Txt) : Bool := isInt t || withSuffix t ["kib", "mib", "gib"] || (endsWith t (txt "b") && isInt (t.take (t.length - 1)))

/-- A word of a list, whatever its case. -/
def isWord (ws : List String) (t : Txt) : Bool := ws.any fun w => t.map low == txt w

/-- The wafer prefix of a location and what follows it. -/
def waferPrefix (t : Txt) : Option Nat × Txt :=
  match splitOn 0x3A t with
  | (w :: ds) :: rest =>
    if low w == 0x77 && isDec ds && !rest.isEmpty then (some (ds.foldl (fun v d => 10 * v + (d - 0x30)) 0), t.drop (ds.length + 2))
    else (none, t)
  | _ => (none, t)

/-- Two numbers in parentheses after a letter. -/
def isPair (c : String) (t : Txt) : Bool :=
  match t with
  | l :: 0x28 :: rest =>
    [low l] == txt c && rest.getLast? == some 0x29 &&
      (match splitAtTop 0x2C rest.dropLast 0 [] with
        | [a, b] => isDec a && isDec b
        | _ => false)
  | _ => false

def isPadLoc (t : Txt) : Bool := isPair "p" (waferPrefix t).2
def isFieldLoc (t : Txt) : Bool := isPair "f" (waferPrefix t).2
def isSlotLoc (t : Txt) : Bool :=
  match splitOn 0x2B t with
  | [p, k] => isPadLoc p && isDec k
  | _ => false
def isRect (t : Txt) : Bool :=
  match splitOn 0x2D t with
  | [a, b] => isPadLoc a && isPadLoc b
  | _ => false
def isBorder (t : Txt) : Bool :=
  match (splitOn 0x3A (waferPrefix t).2) with
  | [p, d] => isPair "p" p && isWord ["n", "e", "s", "w"] d
  | _ => false
def isLoc (t : Txt) : Bool := isPadLoc t || isFieldLoc t || isSlotLoc t || isRect t

/-- An integer or a range of two. -/
def isRange (t : Txt) : Bool :=
  isInt t || (match splitOn 0x2D t with
    | [a, b] => isInt a && isInt b
    | _ => false)

/-- A page run. -/
def isRun (t : Txt) : Bool :=
  match splitOn 0x40 t with
  | [a, m] => isRange a && isInt m
  | _ => false

def listOf (p : Txt → Bool) (t : Txt) : Bool := (splitOn 0x2C t).all p

/-- Data: `0x` and an even number of digits; `n` bytes at least and at most. -/
def isData (lo hi : Nat) (t : Txt) : Bool :=
  match hexDigits t with
  | some d => d.length % 2 = 0 && decide (2 * lo ≤ d.length) && decide (d.length ≤ 2 * hi)
  | none => false

/-- Hexadecimal digits with underscores, with or without `0x`: a signature (R805). -/
def isDigits (n : Nat) (t : Txt) : Bool :=
  (match hexDigits t with
    | some d => d.length == n
    | none => false) || (t.all (fun b => isHex b || b == 0x5F) && (t.filter isHex).length == n)

def isIp4 (t : Txt) : Bool :=
  (splitOn 0x2E t).length == 4 && (splitOn 0x2E t).all fun p => isDec p && p.foldl (fun v d => 10 * v + (d - 0x30)) 0 ≤ 255
def isIp (t : Txt) : Bool := isIp4 t || (t.all (fun b => isHex b || b == 0x3A) && t.contains 0x3A)
def isMac (t : Txt) : Bool :=
  isInt t || ((splitOn 0x3A t).length == 6 && (splitOn 0x3A t).all fun p => p.length == 2 && p.all isHex)

/-- A binding `n/p/v/addr/u/b/t` (Table CMD-1). -/
def isBind (t : Txt) : Bool :=
  match splitOn 0x2F t with
  | [n, p, v, a, u, b, m] => isInt n && isInt p && (isInt v || isWord ["u"] v) && isIp a && (isInt u || u == [0x2D]) && isInt b && isInt m
  | _ => false

/-- A die name (Table CMD-1). -/
def isDie (t : Txt) : Bool :=
  isWord ["shc-a", "shc-b"] t || ["ned", "spd", "med"].any fun w => (t.take 3).map low == txt w && isDec (t.drop 3)

/-- An object of `show tally`: a number, `ned/port`, or `P(c,r):d:lane` (Table TALLY-1). -/
def isTallyId (t : Txt) : Bool :=
  isInt t || (match splitOn 0x2F t with
    | [n, p] => isInt n && isInt p
    | _ => false) || (match (splitOn 0x3A (waferPrefix t).2) with
    | [p, d, l] => isPair "p" p && isWord ["n", "e", "s", "w"] d && isInt l
    | _ => false)

/-- A NED by number or by name. -/
def isNed (t : Txt) : Bool := isInt t || ((t.take 3).map low == txt "ned" && isDec (t.drop 3))

/-- A user name: 1–16 of a–z, 0–9, `_`, `-` (R808). -/
def isName (t : Txt) : Bool :=
  !t.isEmpty && decide (t.length ≤ 16) && t.all fun b => isLetter b || isDigit b || b == 0x5F || b == 0x2D

/-- A quoted string: at most 128 characters inside; only a quote and a backslash are escaped. -/
def strBody : Txt → Nat → Bool
  | [0x22], _ => true
  | 0x5C :: c :: rest, n => (c == 0x22 || c == 0x5C) && decide (n < 128) && strBody rest (n + 1)
  | b :: rest, n => b != 0x22 && decide (n < 128) && strBody rest (n + 1)
  | [], _ => false

/-- The form a key's value must have. -/
inductive Form where
  | int | ints | range | time | size | word (ws : List String) | intOr (ws : List String) | intsOr (ws : List String)
  | timeOr (ws : List String) | pad | field | rect | locs | locsOr (ws : List String) | border | die | locOrDie | runs
  | data (lo hi : Nat) | tallyId | ned | sig | ip | mac | bind | binds | name
deriving DecidableEq, Repr

def Form.holds (f : Form) (t : Txt) : Bool :=
  match f with
  | .int => isInt t
  | .ints => listOf isRange t
  | .range => isRange t
  | .time => isTime t
  | .size => isSize t
  | .word ws => isWord ws t
  | .intOr ws => isInt t || isWord ws t
  | .intsOr ws => listOf isRange t || isWord ws t
  | .timeOr ws => isTime t || isWord ws t
  | .pad => isPadLoc t
  | .field => isFieldLoc t
  | .rect => isLoc t
  | .locs => listOf isLoc t
  | .locsOr ws => listOf isLoc t || isWord ws t
  | .border => isBorder t
  | .die => isDie t
  | .locOrDie => isPadLoc t || isDie t
  | .runs => listOf isRun t
  | .data lo hi => isData lo hi t
  | .tallyId => isTallyId t
  | .ned => isNed t
  | .sig => isDigits 192 t
  | .ip => isIp4 t
  | .mac => isMac t
  | .bind => isBind t
  | .binds => listOf isBind t
  | .name => isName t

/-- One command as a line spells it: verb, object (empty for none), level, keys with whether each is required, bare words. -/
structure Spelling where
  verb : String
  obj : String
  level : Level
  keys : List (String × Bool × Form)
  bare : List String
deriving DecidableEq, Repr

/-- The session verbs (Table SNF-6). -/
def sessionSpellings : List Spelling :=
  [⟨"login", "", .view, [("user", true, .name), ("sig", false, .sig)], []⟩,
   ⟨"logout", "", .view, [], []⟩,
   ⟨"ping", "", .view, [], []⟩,
   ⟨"mode", "", .view, [("echo", false, .word ["on", "off"]), ("crc", false, .word ["off", "required"]),
      ("bells", false, .word ["all", "fault", "none"]), ("idle", false, .time)], []⟩]

/-- Tables CMD-2 to CMD-5. -/
def engineSpellings : List Spelling :=
  [⟨"show", "engine", .view, [("detail", false, .word ["on"])], []⟩,
   ⟨"show", "boot", .view, [], []⟩,
   ⟨"show", "shc", .view, [], []⟩,
   ⟨"set", "boot", .admin, [("mode", true, .word ["full", "fast"])], []⟩,
   ⟨"set", "clear", .admin, [("at", true, .locsOr ["none"])], []⟩,
   ⟨"reset", "engine", .admin, [("confirm", true, .word ["yes"])], []⟩,
   ⟨"ack", "fault", .operate, [], []⟩,
   ⟨"handover", "shc", .admin, [], []⟩,
   ⟨"restore", "", .admin, [("die", true, .die)], []⟩,
   ⟨"set", "console", .admin, [("con", true, .int), ("baud", false, .int), ("flow", false, .word ["on", "off"])], []⟩,
   ⟨"set", "net", .admin, [("ip", true, .ip), ("mask", true, .ip), ("gw", true, .ip), ("mac", true, .mac)], []⟩,
   ⟨"open", "stage", .operate, [("kind", true, .word ["image", "firmware"]), ("size", true, .size)], []⟩,
   ⟨"put", "stage", .operate, [("id", true, .int), ("off", true, .int), ("data", true, .data 1 200)], []⟩,
   ⟨"show", "stage", .view, [], []⟩,
   ⟨"drop", "stage", .operate, [("id", true, .int)], []⟩,
   ⟨"update", "firmware", .admin, [("stage", true, .int)], []⟩,
   ⟨"raise", "svn", .admin, [], []⟩,
   ⟨"show", "power", .view, [], []⟩,
   ⟨"set", "bus", .operate, [("mode", true, .word ["a", "shared"])], []⟩,
   ⟨"set", "rail", .operate, [("at", true, .field), ("vcore_mv", true, .int)], []⟩,
   ⟨"set", "clock", .operate, [("at", true, .rect), ("n", true, .int)], []⟩,
   ⟨"set", "power", .operate, [("at", true, .rect), ("state", true, .word ["graze", "dark"])], []⟩,
   ⟨"clear", "field", .admin, [("at", true, .field)], []⟩,
   ⟨"show", "thermal", .view, [], []⟩,
   ⟨"show", "sensors", .view, [("at", true, .locOrDie)], []⟩]

/-- Tables CMD-6 to CMD-9. -/
def waferSpellings : List Spelling :=
  [⟨"show", "map", .view, [("at", false, .locs)], []⟩,
   ⟨"export", "map", .view, [], []⟩,
   ⟨"set", "reserve", .operate, [("at", true, .pad)], ["on", "off"]⟩,
   ⟨"set", "exclude", .operate, [("at", true, .field)], ["on", "off"]⟩,
   ⟨"show", "port", .view, [("ned", true, .int), ("port", false, .int)], []⟩,
   ⟨"set", "lanes", .operate, [("ned", true, .int), ("group", true, .int), ("mode", true, .word ["1x400", "2x200", "4x100"])], []⟩,
   ⟨"set", "port", .operate, [("ned", true, .int), ("port", true, .int), ("mac", false, .mac), ("template", false, .int),
      ("ptp", false, .word ["on", "off"]), ("eq", false, .int), ("store", false, .word ["on"])], []⟩,
   ⟨"enable", "port", .operate, [("ned", true, .int), ("port", true, .int)], []⟩,
   ⟨"disable", "port", .operate, [("ned", true, .int), ("port", true, .int)], []⟩,
   ⟨"set", "template", .operate, [("ned", true, .int), ("index", true, .int), ("vlan", false, .intOr ["none", "request"]),
      ("pcp", false, .int), ("dscp", false, .int), ("ttl", false, .int), ("udpsum", false, .word ["zero", "computed"]),
      ("len", false, .int), ("fill", false, .word ["fill", "wait"]), ("mac", false, .mac)], []⟩,
   ⟨"set", "burst", .operate, [("ned", true, .int), ("rate", true, .int), ("depth", true, .int)], []⟩,
   ⟨"set", "ptp", .operate, [("ned", true, .int), ("port", true, .int)], []⟩,
   ⟨"show", "link", .view, [("at", true, .border), ("lane", false, .int)], []⟩,
   ⟨"show", "span", .view, [("spd", true, .int)], []⟩,
   ⟨"restore", "lane", .admin, [("at", true, .border), ("lane", true, .int)], []⟩,
   ⟨"retrain", "span", .admin, [("spd", true, .int)], []⟩,
   ⟨"show", "flock", .view, [], []⟩,
   ⟨"set", "flock", .operate, [("id", true, .int), ("wafer", true, .int), ("members", true, .ints)], []⟩]

/-- Tables CMD-10 to CMD-12. -/
def foldSpellings : List Spelling :=
  [⟨"create", "fold", .operate, [("id", false, .int), ("lineage", true, .data 1 200), ("wrap", true, .data 1 200),
      ("paddocks", false, .locs), ("slots", false, .locs), ("pages", false, .runs), ("sessions", false, .range),
      ("squota", false, .int), ("smeds", false, .ints), ("ckpt", false, .timeOr ["off"]), ("cmeds", false, .ints),
      ("cpages", false, .int), ("pen", false, .int), ("weight", false, .int)], []⟩,
   ⟨"resize", "fold", .operate, [("id", true, .int), ("add", false, .locs), ("remove", false, .locs), ("pages", false, .runs),
      ("drop_pages", false, .runs), ("squota", false, .int), ("cpages", false, .int)], []⟩,
   ⟨"load", "fold", .operate, [("id", true, .int), ("stage", true, .int), ("how", true, .word ["full", "overlap"]),
      ("limit", false, .time)], []⟩,
   ⟨"destroy", "fold", .operate, [("id", true, .int)], []⟩,
   ⟨"set", "fold", .operate, [("id", true, .int), ("ckpt", false, .timeOr ["off"]), ("pen", false, .int), ("weight", false, .int)], []⟩,
   ⟨"set", "rotation", .operate, [("med", true, .int), ("slots", true, .intsOr ["off"])], []⟩,
   ⟨"show", "fold", .view, [("id", true, .int)], []⟩,
   ⟨"show", "folds", .view, [], []⟩,
   ⟨"create", "channel", .operate, [("fold", true, .int), ("entry", true, .int), ("index", false, .int), ("ticket", false, .int),
      ("deadline", false, .time), ("spec", false, .word ["on", "off"]), ("bind", true, .binds)], []⟩,
   ⟨"bind", "channel", .operate, [("handle", true, .int), ("add", true, .bind)], []⟩,
   ⟨"unbind", "channel", .operate, [("handle", true, .int), ("ned", true, .int), ("port", true, .int)], []⟩,
   ⟨"destroy", "channel", .operate, [("handle", true, .int)], []⟩,
   ⟨"show", "channel", .view, [("handle", false, .int), ("index", false, .int)], []⟩,
   ⟨"set", "bucket", .operate, [("ned", true, .int), ("index", true, .int), ("fold", true, .int), ("rate", true, .int),
      ("depth", true, .int), ("burst", false, .word ["on", "off"]), ("pen", false, .word ["on", "off"])], []⟩,
   ⟨"show", "bucket", .view, [("ned", true, .int), ("index", true, .int)], []⟩,
   ⟨"open", "session", .operate, [("fold", true, .int), ("num", true, .int), ("anchor", true, .ned), ("class", true, .int),
      ("cap", true, .int)], []⟩,
   ⟨"close", "session", .operate, [("fold", true, .int), ("num", true, .int)], []⟩,
   ⟨"show", "session", .view, [("num", true, .int)], []⟩]

/-- Tables CMD-13 to CMD-15. -/
def recordSpellings : List Spelling :=
  [⟨"show", "tally", .view, [("scope", true, .word ["fold", "channel", "paddock", "link", "port", "ned", "med", "spd"]),
      ("id", true, .tallyId), ("name", false, .name)], []⟩,
   ⟨"show", "bells", .view, [("since", false, .int), ("class", false, .word ["fault", "info"]), ("count", false, .int)], []⟩,
   ⟨"show", "ledger", .view, [("fold", true, .int), ("from", false, .int), ("count", false, .int)], []⟩,
   ⟨"verify", "ledger", .view, [("data", true, .data 1 200)], []⟩,
   ⟨"show", "keys", .view, [("fold", true, .int)], []⟩,
   ⟨"export", "key", .admin, [("fold", true, .int)], []⟩,
   ⟨"add", "user", .admin, [("name", true, .name), ("level", true, .word ["view", "operate", "admin"]), ("key", true, .data 97 97)], []⟩,
   ⟨"remove", "user", .admin, [("name", true, .name)], []⟩,
   ⟨"show", "users", .admin, [], []⟩,
   ⟨"peek", "", .view, [("addr", true, .int), ("count", false, .int)], []⟩,
   ⟨"poke", "", .admin, [("addr", true, .int), ("value", true, .int), ("mask", false, .int)], []⟩]

def spellings : List Spelling := sessionSpellings ++ engineSpellings ++ waferSpellings ++ foldSpellings ++ recordSpellings

/-- Whether Table BOOT-4 accepts a command during bring-up. -/
def Spelling.atBoot (c : Spelling) : Bool :=
  c.level = .view || c.obj = "boot" || c.obj = "clear" || c.obj = "engine" || (c.verb = "set" && c.obj = "port")

def Spelling.isSession (c : Spelling) : Bool := sessionSpellings.contains c

/-- What the first three steps make of a line: an error with its keys, or the command it spells. -/
inductive LineVerdict where
  | bad (code : Nat) (kv : KVs)
  | cmd (c : Spelling)
deriving DecidableEq, Repr

def asVal (t : Txt) : Val := .bytes (t.map (BitVec.ofNat 8))

/-- The wafers that the locations of a value name (R830). -/
def valueWafers (t : Txt) : List Nat :=
  ((splitOn 0x2C t).flatMap fun x => (splitOn 0x2D x).filterMap fun y => (waferPrefix y).1)

/-- Judge the arguments of a command: keys, forms, required keys (R786, R830). -/
def judgeArgs (c : Spelling) : List Txt → List (Txt × Txt) → List Txt → LineVerdict
  | [], seen, _ =>
    match c.keys.find? fun k => k.2.1 && !seen.any fun s => s.1 == txt k.1 with
    | some k => .bad 114 [("key", asVal (txt k.1))]
    | none =>
      let named := seen.flatMap fun s => if s.1 == txt "wafer" then [s.2.foldl (fun v d => 10 * v + (d - 0x30)) 0] else valueWafers s.2
      if c.obj ≠ "fold" && !c.isSession && named.any fun w => some w != named.head? then .bad 115 [("key", .word "wafer")] else .cmd c
  | a :: rest, seen, words =>
    let k := (a.takeWhile (· != 0x3D)).map low
    if k.length = a.length then
      if c.bare.any fun w => txt w == k then
        if words.contains k then .bad 116 [("key", asVal k)] else judgeArgs c rest seen (words ++ [k])
      else .bad 101 []
    else if k.isEmpty || 24 < k.length || !(k.all fun b => isLetter b || isDigit b || b == 0x5F) then .bad 101 []
    else if seen.any fun s => s.1 == k then .bad 116 [("key", asVal k)]
    else
      let v := a.drop (k.length + 1)
      let form := match c.keys.find? fun f => txt f.1 == k with
        | some f => some f.2.2
        | none => if k == txt "wafer" && !c.isSession then some Form.int else none
      match form with
      | none => .bad 113 [("key", asVal k)]
      | some f =>
        let bare := v.head? != some 0x22
        let inner := if bare then v else (v.drop 1).dropLast
        if (bare && (v.isEmpty || v.head? == some 0x23)) || (!bare && !strBody (v.drop 1) 0) || !f.holds inner then .bad 115 [("key", asVal k)]
        else judgeArgs c rest (seen ++ [(k, inner)]) words

/-- Judge verb, object and arguments (Table SNF-5 step 3). -/
def judgeVerb : List Txt → LineVerdict
  | [] => .bad 101 []
  | v :: rest =>
    let verb := v.map low
    if 16 < v.length || !v.all isLetter then .bad 101 []
    else
      let cs := spellings.filter fun c => txt c.verb == verb
      if cs.isEmpty then .bad 111 []
      else
        let plain := match rest.head? with
          | none => true
          | some o => o.contains 0x3D
        match cs.find? fun c => c.obj = "" with
        | some c => if plain then judgeArgs c rest [] [] else match cs.find? fun d => d.obj ≠ "" && some (txt d.obj) == rest.head?.map fun o => o.map low with
            | some d => judgeArgs d (rest.drop 1) [] []
            | none => if cs.any fun d => d.obj ≠ "" then .bad 112 [] else .bad 101 []
        | none =>
          match rest with
          | o :: args =>
            if o.contains 0x3D || 16 < o.length || !(o.all fun b => isLetter b || isDigit b || b == 0x2D) then .bad 101 []
            else match cs.find? fun c => txt c.obj == o.map low with
              | some c => judgeArgs c args [] []
              | none => .bad 112 []
          | [] => .bad 101 []

/-- A tag (Table SNF-2). -/
def isTag (t : Txt) : Bool :=
  decide (2 ≤ t.length) && decide (t.length ≤ 17) &&
    (t.drop 1).all fun b => isLetter b || isDigit b || b == 0x5F || b == 0x2D || b == 0x2E

/-- Judge a line by steps 1 to 3 of Table SNF-5 (R798). -/
def judgeLine (line : Txt) (overrun crcNeeded : Bool) : LineVerdict :=
  if overrun then .bad 105 []
  else match (List.range (min line.length 512)).find? fun i => !okChar (line.getD i 0) with
    | some i => .bad 104 [("pos", .num (i + 1))]
    | none =>
      if 512 < line.length then .bad 103 []
      else
        let body : LineVerdict ⊕ Txt := match suffixOf line with
          | some (cover, v) => if lineCrc cover = v then .inr cover else .inl (.bad 102 [])
          | none => if crcNeeded then .inl (.bad 117 []) else .inr line
        match body with
        | .inl p => p
        | .inr t =>
          match tokensOf t with
          | none => .bad 101 []
          | some [] => .bad 101 []
          | some (h :: rest) =>
            if h.head? == some 0x40 then (if isTag h then judgeVerb rest else .bad 106 []) else judgeVerb (h :: rest)

/-- The tag of a line that has one. -/
def tagOf (line : Txt) : Option (List Byte) :=
  match tokensOf line with
  | some (h :: _) => if h.head? == some 0x40 then some (h.map (BitVec.ofNat 8)) else none
  | _ => none

end Sys2Proof.Machine
end

