-- ==== Sys2Proof/Machine/Console.lean ====
section
/-! DEFINITION. Consoles, TCP connections, the management stack, logins, session verbs, stages and users (*The Snifen console
language*, R777–R826; R745–R750; Table CMD-3, Table CMD-14). -/
namespace Sys2Proof.Machine

open Sys2Proof

/-! Console lines (R745–R747, R782, R787, R789). -/

def State.con (s : State) (i : Nat) : Con := if i = 0 then s.con0 else s.con1
def State.setCon (s : State) (i : Nat) (c : Con) : State := if i = 0 then { s with con0 := c } else { s with con1 := c }

/-- The bytes in a console's 4 KiB receive buffer. -/
def CSess.bytesHeld (c : CSess) : Nat := (c.queued.map (·.1)).sum + c.part.length

/-- Whether RTS_N is asserted: it follows the buffer and the queue under flow control, and stays asserted without it (R746, R789). -/
def State.rts (s : State) (i : Nat) : Bool :=
  !(s.con i).flow || (decide ((s.cs i).bytesHeld + 256 < 4096) && decide ((s.cs i).queued.length < 16))

/-- Transmission stops and resumes with CTS_N under flow control (R746). -/
def State.setHeld (s : State) (i : Nat) : State :=
  let k := s.con i
  s.setCon i { k with held := if k.flow && !k.cts then (if k.held.isSome then k.held else some (s.cs i).out.length) else none }

/-- What a console or TCP client has been sent so far. -/
def State.sent (s : State) (i : Nat) : List Out :=
  match (if i < 2 then (s.con i).held else none) with
  | some n => (s.cs i).out.take n
  | none => (s.cs i).out

/-- A break: the partial line is discarded, and the break counted (R747). -/
def State.breakLine (s : State) (i : Nat) : State :=
  let k := s.con i
  (s.modCs i fun c => { c with part := [], skip := false, overrun := false, sawCr := false }).setCon i { k with breaks := k.breaks + 1 }

/-- Whether a console is served: it has started, and a controller is active. -/
def State.served (s : State) (i : Nat) : Bool := s.active.isSome && (s.cs i).up

def execConsoleBreak (con : Fin 2) (t : Time) (s : State) : Host.Outcome State Fault Refusal :=
  .next (s.event t (fun s => s.served con.val) fun s => s.breakLine con.val)

def execCtsChange (con : Fin 2) (asserted : Bool) (t : Time) (s : State) : Host.Outcome State Fault Refusal :=
  .next (s.event t (fun _ => true) fun s =>
    let k := s.con con.val
    (s.setCon con.val { k with cts := asserted }).setHeld con.val)

/-- Echo bytes on a console whose echo is on (R787). -/
def State.echoBytes (s : State) (i : Nat) (bs : List Byte) : State := if (s.cs i).echo then s.say i (.raw bs) else s

/-- The partial line ends: it waits with its terminator to be executed (R777, R789). -/
def State.endLine (s : State) (i : Nat) : State :=
  s.modCs i fun c => { c with queued := c.queued ++ [(c.part.length + 1, c.overrun)], part := [], skip := false, overrun := false }

/-- One byte received on a console: discarded and counted when the buffer is full without flow control, otherwise echoed, and
kept, or taken as a terminator or, with echo on, as line editing (R746, R747, R782, R787). -/
def execConsoleCharacter (con : Fin 2) (b : Byte) (t : Time) (s : State) : Host.Outcome State Fault Refusal :=
  .next (s.event t (fun s => s.served con.val) fun s =>
    let i := con.val
    let c := s.cs i
    let k := s.con i
    if 4096 ≤ c.bytesHeld then
        (s.modCs i fun c => { c with overrun := true }).setCon i { k with dropped := k.dropped + 1 }
      else if b = 0x0A && c.sawCr then (s.modCs i fun c => { c with sawCr := false }).echoBytes i [b]
      else if b = 0x0A || b = 0x0D then (((s.echoBytes i [b]).endLine i).modCs i fun c => { c with sawCr := decide (b = 0x0D) })
      else
        let s2 := s.modCs i fun c => { c with sawCr := false }
        if c.echo && (b = 0x08 || b = 0x7F) then
          (if c.part.isEmpty then s2 else (s2.modCs i fun c => { c with part := c.part.dropLast }).echoBytes i [0x08, 0x20, 0x08])
        else if c.echo && b = 0x15 then (s2.modCs i fun c => { c with part := [], skip := false, overrun := false }).echoBytes i [b]
        else if c.echo && b = 0x03 then (s2.breakLine i).echoBytes i [b]
        else if c.part.length > 512 then (s2.modCs i fun c => { c with skip := true }).echoBytes i [b]
        else (s2.modCs i fun c => { c with part := c.part ++ [b] }).echoBytes i [b])

/-! TCP connections and the management stack (R748–R750, R778, R779). -/

/-- A connection opens the first free session; a ninth is told and closed (R778). -/
def execTcpConnect (t : Time) (s : State) : Host.Outcome State Fault Refusal :=
  .next (s.event t (fun s => s.active.isSome && s.boot.consoles) fun s =>
    match ((List.range 8).map (· + 2)).find? fun i => !(s.cs i).up with
    | some i => s.setCs i { CSess.initial false with up := true, lastLine := s.now }
    | none => { s with wire := s.wire ++ [.tcpRefused 306] })

/-- A TCP session ends: its commands go on without a client (R779, R797). -/
def State.closeTcp (s : State) (i : Nat) : State :=
  let s1 := s.modCs i fun c => { CSess.initial false with out := c.out }
  { s1 with waits := s1.waits.map fun (w : Wait) => if w.sess = i then { w with sess := 10 } else w }

def execTcpClose (sess : Fin 10) (t : Time) (s : State) : Host.Outcome State Fault Refusal :=
  .next (s.event t (fun s => decide (2 ≤ sess.val) && (s.cs sess.val).up) fun s => s.closeTcp sess.val)

/-- An ARP frame of this engine: operation, and whom it is for. -/
def State.arpFrame (s : State) (op : Nat) (dst tha tpa : List Byte) : List Byte :=
  dst ++ beBytes 6 s.net.mac.toNat ++ beBytes 2 0x0806 ++ beBytes 2 1 ++ beBytes 2 0x0800 ++ [6, 4] ++ beBytes 2 op
    ++ beBytes 6 s.net.mac.toNat ++ beBytes 4 s.net.ip.toNat ++ tha ++ tpa

def broadcastMac : List Byte := List.replicate 6 0xFF

/-- Whether a frame is an ARP request for this engine's address. -/
def State.arpForMe (s : State) (f : List Byte) : Bool :=
  decide (42 ≤ f.length) && (slice f 0 6 = broadcastMac || slice f 0 6 = beBytes 6 s.net.mac.toNat) && be16 f 12 = 0x0806
    && be16 f 14 = 1 && be16 f 16 = 0x0800 && be16 f 18 = 0x0604 && be16 f 20 = 1 && be32 f 38 = s.net.ip.toNat

/-- Whether a frame is an unfragmented ICMPv4 echo request to this engine's address, its checksums right. -/
def State.echoForMe (s : State) (f : List Byte) : Bool :=
  let h := 4 * (byteAt f 14 % 16)
  let len := be16 f 16
  decide (42 ≤ f.length) && slice f 0 6 = beBytes 6 s.net.mac.toNat && be16 f 12 = 0x0800 && byteAt f 14 / 16 = 4
    && decide (20 ≤ h) && decide (h + 8 ≤ len) && decide (14 + len ≤ f.length) && be16 f 20 % 0x4000 = 0 && byteAt f 23 = 1
    && be32 f 30 = s.net.ip.toNat && onesSum (slice f 14 h) = 0xFFFF && byteAt f (14 + h) = 8 && byteAt f (15 + h) = 0
    && onesSum (slice f (14 + h) (len - h)) = 0xFFFF

/-- The echo reply: source and destination changed over, the data as received; identification and time to live are open. -/
def State.echoReply (s : State) (f : List Byte) : List Byte × State :=
  let h := 4 * (byteAt f 14 % 16)
  let data := slice f (18 + h) (be16 f 16 - h - 4)
  let d := drawBytes 3 s
  let body0 := [0x00#8, 0x00, 0x00, 0x00] ++ data
  let body := [0x00#8, 0x00] ++ beBytes 2 (0xFFFF - onesSum body0) ++ data
  let h0 := [0x45#8, 0x00] ++ beBytes 2 (20 + body.length) ++ d.1.take 2 ++ [0, 0] ++ d.1.drop 2 ++ [1]
  let ends := beBytes 4 s.net.ip.toNat ++ slice f 26 4
  (slice f 6 6 ++ beBytes 6 s.net.mac.toNat ++ beBytes 2 0x0800 ++ h0 ++ beBytes 2 (0xFFFF - onesSum (h0 ++ [0, 0] ++ ends))
    ++ ends ++ body, d.2)

/-- A frame on the management port: ARP for the engine's own address and echo requests are answered, all else is ignored
(R750). -/
def execMgmtPacket (bytes : List Byte) (t : Time) (s : State) : Host.Outcome State Fault Refusal :=
  .next (s.event t (fun s => s.active.isSome && s.boot.consoles) fun s =>
    if s.arpForMe bytes then { s with wire := s.wire ++ [.mgmt (s.arpFrame 2 (slice bytes 22 6) (slice bytes 22 6) (slice bytes 28 4))] }
    else if s.echoForMe bytes then { (s.echoReply bytes).2 with wire := s.wire ++ [.mgmt (s.echoReply bytes).1] }
    else s)

/-- A gratuitous ARP frame that a takeover owes (R749). -/
def execArpAnnounce (t : Time) (s : State) : Host.Outcome State Fault Refusal :=
  .next (s.event t (fun s => s.active.isSome && decide (0 < s.garp)) fun s =>
    { s with garp := s.garp - 1,
             wire := s.wire ++ [.mgmt (s.arpFrame 1 broadcastMac (List.replicate 6 0) (beBytes 4 s.net.ip.toNat))] })

/-! The ends of logins (R780, R805, R807, R826). -/

/-- A login ends: a console returns to OPEN, a TCP connection closes; queued lines and bells are discarded. -/
def State.endLogin (s : State) (i : Nat) : State :=
  if i < 2 then s.modCs i fun c => { c with login := .open, bellQ := [], lost := 0, queued := [] } else s.closeTcp i

def execIdleTimeout (sess : Fin 10) (t : Time) (s : State) : Host.Outcome State Fault Refusal :=
  .next (s.event t (fun s =>
      let c := s.cs sess.val
      s.hears sess.val && c.idle ≠ 0 && c.queued.isEmpty && decide (c.lastLine + c.idle * second ≤ s.now) && match c.login with
        | .loggedIn _ _ => true
        | _ => false) fun s =>
    let c := s.cs sess.val
    ((s.say sess.val (.bell c.crc s.bellWafer ⟨"session", false, [("state", .word "end"), ("cause", .word "idle")], 0, s.now, false⟩)).endLogin
      sess.val).prompt sess.val)

def execChallengeExpiry (sess : Fin 10) (t : Time) (s : State) : Host.Outcome State Fault Refusal :=
  .next (s.event t (fun s => match (s.cs sess.val).login with
      | .challenged _ _ since => decide (since + 30 * second ≤ s.now)
      | _ => false) fun s => s.modCs sess.val fun c => { c with login := .open })

def execLoginLockExpiry (sess : Fin 10) (t : Time) (s : State) : Host.Outcome State Fault Refusal :=
  .next (s.event t (fun s => match (s.cs sess.val).lockedUntil with
      | some u => decide (u ≤ s.now)
      | none => false) fun s => s.modCs sess.val fun c => { c with lockedUntil := none, fails := [] })

/-- Space has freed after an overflow: the count of bells that were not queued comes first, then the queue (R802). -/
def execBellsLostNotice (sess : Fin 10) (t : Time) (s : State) : Host.Outcome State Fault Refusal :=
  .next (s.event t (fun s => s.served sess.val && decide (0 < (s.cs sess.val).lost)) fun s =>
    (s.modCs sess.val fun c => { c with out := c.out ++ [.lost c.crc c.lost], lost := 0 }).sendBells sess.val)

/-! Login (R805–R809). -/

def lowBytes (bs : List Byte) : List Byte := bs.map fun b => BitVec.ofNat 8 (low b.toNat)

def textBytes (w : String) : List Byte := (txt w).map (BitVec.ofNat 8)

/-- The message a login signs (R806). -/
def State.loginMessage (s : State) (sess : Nat) (user challenge : List Byte) : List Byte :=
  textBytes "SNIFEN-LOGIN" ++ challenge ++ lowBytes user ++ [if sess < 2 then BitVec.ofNat 8 sess else 2]
    ++ leBytes 8 s.fuses.serial.toNat

def transportWord (i : Nat) : String := if i = 0 then "con0" else if i = 1 then "con1" else "tcp"

/-- A failed login: counted, belled, and the third within 60 s locks the session for 60 s (R807). -/
def State.loginFailed (s : State) (ln : Ln) (user : List Byte) (code : Nat) : State :=
  let c := s.cs ln.sess
  let fails := (c.fails.filter fun f => decide (s.now < f + 60 * second)) ++ [s.now]
  let s1 := s.modCs ln.sess fun c =>
    if 3 ≤ fails.length then { c with fails := [], lockedUntil := some (s.now + 60 * second) } else { c with fails := fails }
  ((s1.err ln code []).count .shc (s1.active.getD 0) thLogin).ring "login" false [("user", .bytes user), ("transport", .word (transportWord ln.sess))]

/-- Whether a login attempt finds its session locked, and until when. -/
def State.lockOf (s : State) (i : Nat) : Option Time := (s.cs i).lockedUntil.filter fun u => decide (s.now < u)

/-- A session is logged in: the `ok`, then the bells of the last 60 s that its mode admits, at most 256 (R803, R805). -/
def State.enter (s : State) (ln : Ln) (user : List Byte) (level : Level) : State :=
  let s1 := (s.modCs ln.sess fun c => { c with login := .loggedIn user level, bellQ := [], lost := 0 }).ok ln
    [("user", .bytes user), ("level", .word (levelWord level))]
  let c := s1.cs ln.sess
  let recent := s1.bells.filter fun b => decide (s1.clock ≤ b.t + 60 * second) && c.admits b
  s1.setCs ln.sess { c with out := c.out ++ (recent.drop (recent.length - 256)).map (Out.bell c.crc s1.bellWafer) }

/-- `login user=`: a challenge; with no credential records, `local` on a console logs in at once, and TCP is refused (R805,
R807, R809). -/
def execLoginRequest (user : List Byte) (ln : Ln) (s : State) : Host.Outcome State Fault Refusal :=
  .next (s.sessionVerb ln fun s =>
    match s.lockOf ln.sess with
    | some u => s.err ln 305 [("until", .time u)]
    | none =>
      if s.flash.creds.isNone && 2 ≤ ln.sess then s.loginFailed ln user 303
      else if s.flash.creds.isNone && lowBytes user = textBytes "local" then
        (s.enter ln (lowBytes user) .admin).ring "login" true [("transport", .word (transportWord ln.sess))]
      else
        let d := drawBytes 16 s
        (d.2.modCs ln.sess fun c => { c with login := .challenged (lowBytes user) d.1 s.now }).ok ln
          [("challenge", .bytes d.1), ("method", .word "p384")])

/-- `login user= sig=`: the challenge is answered against the record in force now (R805–R807, R824). -/
def execLoginResponse (user sig : List Byte) (ln : Ln) (s : State) : Host.Outcome State Fault Refusal :=
  let before := (s.cs ln.sess).login
  .next (s.sessionVerb ln fun s =>
    match s.lockOf ln.sess with
    | some u => s.err ln 305 [("until", .time u)]
    | none =>
      match before with
      | .challenged u c since =>
        if u ≠ lowBytes user || since + 30 * second ≤ s.now then s.loginFailed ln user 304
        else
          match (s.flash.creds.getD []).find? fun r => r.name = u with
          | some r =>
            if Config.ecdsaOk r.key (s.loginMessage ln.sess u c) sig then s.enter ln u r.level else s.loginFailed ln user 303
          | none => s.loginFailed ln user 303
      | _ => s.loginFailed ln user 304)

/-! Session verbs (Table SNF-6). -/

/-- `logout`: the reply, then the login ends and queued lines are discarded (R812, R822). -/
def execLogout (ln : Ln) (s : State) : Host.Outcome State Fault Refusal :=
  .next (s.sessionVerb ln fun s => (s.ok ln []).endLogin ln.sess)

def execPing (ln : Ln) (s : State) : Host.Outcome State Fault Refusal :=
  .next (s.sessionVerb ln fun s => s.ok ln [])

def bellsWord (n : Nat) : String := if n = 0 then "all" else if n = 1 then "fault" else "none"

/-- `mode`: settings from the next line on (R780, R800, R812, R823). -/
def execMode (echo crc : Option Bool) (bells : Option (Fin 3)) (idle : Option Nat) (ln : Ln) (s : State) :
    Host.Outcome State Fault Refusal :=
  .next (s.sessionVerb ln fun s =>
    if idle.any fun n => 86400 < n || (n = 0 && 2 ≤ ln.sess) then
      s.err ln 402 [("key", .word "idle"), ("min", .num (if ln.sess < 2 then 0 else 1)), ("max", .num 86400)]
    else
      let c0 := s.cs ln.sess
      let c : CSess := { c0 with
        echo := echo.getD c0.echo, crc := crc.getD c0.crc, bells := (bells.map (·.val)).getD c0.bells, idle := idle.getD c0.idle }
      (s.setCs ln.sess c).ok ln
        [("echo", .word (if c.echo then "on" else "off")), ("crc", .word (if c.crc then "required" else "off")),
         ("bells", .word (bellsWord c.bells)), ("idle", .num c.idle)])

/-! Lines that are not executed (R782, R786, R792, R793, R798). -/

/-- A line that fails a check of Table SNF-5, steps 1 to 4 or the bring-up check of step 6. Steps 1 to 3 answer without a tag,
with the line's number. A line of separators only is ignored. -/
def execBadLine (sess : Fin 10) (bytes : List Byte) (overrun : Bool) (t : Time) (s : State) : Host.Outcome State Fault Refusal :=
  let s0 := s.tick t
  .next (if !s0.hears sess.val then s0
    else
      let i := sess.val
      let c := s0.cs i
      let whole := bytes.map fun b => b.toNat
      let line := if 2 ≤ i && whole.getLast? == some 0x0D then whole.dropLast else whole
      let lost := overrun || (c.queued.head?.map fun q => q.2).getD false
      let s1 := (s0.lineIn ⟨i, none, false, none, true, t⟩).sendBells i
      let suffix := (suffixOf line).isSome
      if !lost && line.all isSep then s1.prompt i
      else
        match judgeLine line lost c.crc with
        | .bad code kv => s1.final i none suffix (.err code ([("line", .num (c.lineNo + 1))] ++ kv))
        | .cmd spell =>
          let tag := tagOf line
          if spell.isSession then s0
          else
            match c.login with
            | .loggedIn _ lvl =>
              if levelRank lvl < levelRank spell.level then s1.final i tag suffix (.err 302 [("need", .word (levelWord spell.level))])
              else if s0.boot.phase ≠ .ready && !spell.atBoot then
                s1.final i tag suffix (.err 201 [("phase", .word (phaseWord s0.boot.phase))])
              else s0
            | _ => s1.final i tag suffix (.err 301 []))

/-! Console and network settings (R745, R746, R749, Table CMD-2). -/

/-- The rates a console runs at (R745). -/
def baudRates : List Nat := [9600, 19200, 38400, 57600, 115200, 230400, 460800, 921600, 1500000, 3000000]

def execSetConsole (con : Nat) (baud : Option Nat) (flow : Option Bool) (ln : Ln) (s : State) : Host.Outcome State Fault Refusal :=
  .next (s.judged ln .admin false fun s =>
    s.inRange ln "con" con 0 1 fun s =>
    if baud.any fun b => !baudRates.contains b then
      s.err ln 402 [("key", .word "baud"), ("min", .num 9600), ("max", .num 3000000)]
    else if !s.flashTakes ln then s.flashErr ln "settings"
    else
      let k := s.con con
      let b := baud.getD k.baud
      let f := flow.getD k.flow
      let s1 := s.ok ln [("con", .num con), ("baud", .num b), ("flow", .word (if f then "on" else "off"))]
      let s2 : State := { s1 with flash := if con = 0 then { s1.flash with con0 := (b, f) } else { s1.flash with con1 := (b, f) } }
      (s2.setCon con { k with baud := b, flow := f }).setHeld con)

def execSetNet (ip mask gw : BitVec 32) (mac : BitVec 48) (ln : Ln) (s : State) : Host.Outcome State Fault Refusal :=
  .next (s.judged ln .admin false fun s =>
    if !s.flashTakes ln then s.flashErr ln "settings"
    else ({ s with flash := { s.flash with net := ⟨ip, mask, gw, mac⟩ } }).ok ln
      [("ip", .hex ip.toNat), ("mask", .hex mask.toNat), ("gw", .hex gw.toNat), ("mac", .hex mac.toNat)])

/-! Stages (R832, R833, R842, Table CMD-3). -/

def stageRoom : Nat := 268435456

/-- `open stage`: at most 8 stages, 256 MiB in all. -/
def execOpenStage (firmware : Bool) (size : Nat) (ln : Ln) (s : State) : Host.Outcome State Fault Refusal :=
  .next (s.judged ln (if firmware then .admin else .operate) false fun s =>
    if 8 ≤ s.stages.length then s.err ln 405 [("object", .word "stage"), ("max", .num 8)]
    else if stageRoom < (s.stages.map fun (b : StageBuf) => b.size).sum + size then s.refuse ln "stage-space"
    else ({ s with stages := s.stages ++ [StageBuf.mk s.nextStage firmware size []], nextStage := s.nextStage + 1 }).ok ln
      [("stage", .num s.nextStage)])

def State.stageOf (s : State) (id : Nat) : Option StageBuf := s.stages.find? fun (b : StageBuf) => b.id = id

/-- The level a stage asks: that of its `open`. -/
def State.stageLevel (s : State) (id : Nat) : Level :=
  match s.stageOf id with
  | some b => if b.firmware then .admin else .operate
  | none => .operate

/-- `put stage`: the bytes at the stage's next offset. -/
def execPutStage (id off : Nat) (data : List Byte) (ln : Ln) (s : State) : Host.Outcome State Fault Refusal :=
  .next (s.judged ln (s.stageLevel id) false fun s =>
    s.inRange ln "data" data.length 1 200 fun s =>
    match s.stageOf id with
    | none => s.err ln 401 [("object", .word "stage")]
    | some b =>
      if off ≠ b.data.length then s.refuse ln "stage-order"
      else if b.size < off + data.length then s.refuse ln "stage-full"
      else ({ s with stages := s.stages.map fun (x : StageBuf) => if x.id = id then { x with data := x.data ++ data } else x }).ok ln
        [("next", .num (off + data.length))])

def execShowStage (ln : Ln) (s : State) : Host.Outcome State Fault Refusal :=
  .next (s.judged ln .view true fun s =>
    s.parts ln (s.stages.map fun (b : StageBuf) =>
      [("stage", .num b.id), ("kind", .word (if b.firmware then "firmware" else "image")), ("size", .num b.size),
       ("next", .num b.data.length)]) [])

def execDropStage (id : Nat) (ln : Ln) (s : State) : Host.Outcome State Fault Refusal :=
  .next (s.judged ln (s.stageLevel id) false fun s =>
    match s.stageOf id with
    | none => s.err ln 401 [("object", .word "stage")]
    | some _ => ({ s with stages := s.stages.filter fun (b : StageBuf) => b.id ≠ id }).ok ln [])

/-! Users (R808, R840, Table CMD-14). -/

/-- A value of the wrong form: step 3 of Table SNF-5. -/
def State.wrongForm (s : State) (ln : Ln) (key : String) : State :=
  s.sessionVerb ln fun s => s.final ln.sess none ln.crc (.err 115 [("line", .num (s.cs ln.sess).lineNo), ("key", .word key)])

def nameOk (name : List Byte) : Bool := isName (name.map fun b => b.toNat)
def keyOk (key : List Byte) : Bool := key.length = 97 && key.head? = some 0x04

def execAddUser (name : List Byte) (level : Level) (key : List Byte) (ln : Ln) (s : State) : Host.Outcome State Fault Refusal :=
  .next (if !nameOk name then s.wrongForm ln "name"
    else if !keyOk key then s.wrongForm ln "key"
    else s.judged ln .admin false fun s =>
      let us := s.flash.creds.getD []
      if us.any fun (u : Cred) => u.name = lowBytes name then s.err ln 403 [("object", .word "user")]
      else if 32 ≤ us.length then s.err ln 405 [("object", .word "user"), ("max", .num 32)]
      else if !s.flashTakes ln then s.flashErr ln "credentials"
      else ({ s with flash := { s.flash with creds := some (us ++ [Cred.mk (lowBytes name) level key]) } }).ok ln
        [("name", .bytes (lowBytes name)), ("level", .word (levelWord level))])

def execRemoveUser (name : List Byte) (ln : Ln) (s : State) : Host.Outcome State Fault Refusal :=
  .next (s.judged ln .admin false fun s =>
    let us := s.flash.creds.getD []
    match us.find? fun (u : Cred) => u.name = lowBytes name with
    | none => s.err ln 401 [("object", .word "user")]
    | some u =>
      if u.level = .admin && (us.filter fun (x : Cred) => x.level = .admin).length = 1 then s.refuse ln "last-admin"
      else if !s.flashTakes ln then s.flashErr ln "credentials"
      else ({ s with flash := { s.flash with creds := some (us.filter fun (x : Cred) => x.name ≠ lowBytes name) } }).ok ln
        [("name", .bytes (lowBytes name))])

def execShowUsers (ln : Ln) (s : State) : Host.Outcome State Fault Refusal :=
  .next (s.judged ln .admin false fun s =>
    s.parts ln ((s.flash.creds.getD []).map fun (u : Cred) => [("name", .bytes u.name), ("level", .word (levelWord u.level))]) [])

end Sys2Proof.Machine
end

