-- ==== Sys2Proof/Machine/Lands.lean ====
section
/-! DEFINITION. The carrier lands: which land stands where (*Carrier lands and electrical characteristics*, R916–R921, Tables ELEC-1
and ELEC-2). Edges count 0 south, 1 east, 2 north, 3 west; rows 0–7 are A–H of the signal flex, 8 is T and 9 is U. -/
namespace Sys2Proof.Machine

open Sys2Proof

/-- What a land carries. -/
inductive Land where
  | gnd
  /-- A SerDes lane of an edge die (destination index), transmit or receive, P or N (R918). -/
  | lane (die : Nat) (tx : Bool) (lane : Nat) (p : Bool)
  | senseField (f : Nat) (p : Bool)
  | senseEdge (serdes : Bool) (edge : Nat) (p : Bool)
  | refclk (edge : Nat) (p : Bool)
  | vcore (f tab : Nat)
  | vaon (f : Nat)
  | vedge (edge tab : Nat)
  | vserdes (edge tab : Nat)
  /-- VDD, VDDQ or VPP of an edge's HBM stacks. -/
  | vhbm (edge page : Nat)
  | vstby (v18 : Bool)
  | low (name : String)
deriving DecidableEq, Repr

/-- The pairs of an edge in order: dies by slot, MEDs skipped; TX then RX (R918). -/
def edgePairs (edge : Nat) : List (Nat × Bool × Nat) :=
  (List.range 13).flatMap fun q =>
    let d := slotDie edge q
    let lanes := if d < 1560 then 8 else if d < 1580 then 0 else 16
    ([true, false] : List Bool).flatMap fun tx => (List.range lanes).map fun l => (d, tx, l)

/-- The edge that feeds a field's core rail (R919). -/
def feedEdge (f : Nat) : Nat :=
  let x := f % 7
  let y := f / 7
  if y ≤ 3 then 0 else if 8 ≤ y then 2 else if x ≤ 2 || (x = 3 && y ≤ 5) then 3 else 1

/-- The fields of an edge, ascending: a field's place in it is its ordinal (R919). -/
def edgeFields (edge : Nat) : List Nat := (List.range 84).filter fun f => feedEdge f = edge

/-- The supply tabs of an edge in row T, from column 1 (R920). -/
def edgeTabs (edge : Nat) : List Land :=
  ((edgeFields edge).flatMap fun f => [.vcore f 0, .vcore f 1, .vcore f 2, .vcore f 3, .vaon f])
    ++ [.vedge edge 0, .vedge edge 1, .vserdes edge 0, .vserdes edge 1, .vhbm edge 0, .vhbm edge 1, .vhbm edge 2]
    ++ (if edge = 0 then [.vstby false, .vstby true] else [])

/-- The low-speed lands of the south edge, column by column, A to H in each (Table ELEC-2). -/
def lowLands : List String :=
  ["RESET_N", "PWR_FAIL_N", "READY", "FAULT_N", "ALERT_N", "SHC_SEL", "JTAG_EN", "BUSA_SNS",
   "BUSB_SNS", "PMB_SCL", "PMB_SDA", "PMB_ALERT_N", "CON0_TXD", "CON0_RXD", "CON0_RTS_N", "CON0_CTS_N",
   "CON1_TXD", "CON1_RXD", "CON1_RTS_N", "CON1_CTS_N", "QSPI_SCK", "QSPI_CS_N", "QSPI_IO0", "QSPI_IO1",
   "QSPI_IO2", "QSPI_IO3", "JTAG_TCK", "JTAG_TMS", "JTAG_TDI", "JTAG_TDO", "JTAG_TRST_N", "PHY_RST_N",
   "MDC", "MDIO", "RGM_TXC", "RGM_TX_CTL", "RGM_TXD0", "RGM_TXD1", "RGM_TXD2", "RGM_TXD3",
   "RGM_RXC", "RGM_RX_CTL", "RGM_RXD0", "RGM_RXD1", "RGM_RXD2", "RGM_RXD3"]

/-- A sense pair at rows G and H: fields from column 10, then VEDGE and VSERDES (R919). -/
def senseAt (edge c : Nat) (p : Bool) : Land :=
  let fs := edgeFields edge
  if c < 10 then .gnd
  else
    match fs[c - 10]? with
    | some f => .senseField f p
    | none =>
      if c = 10 + fs.length then .senseEdge false edge p
      else if c = 11 + fs.length then .senseEdge true edge p
      else if c = 100 then .refclk edge p
      else .gnd

/-- The land at a position: edge, row, column from 1; none where there is no position (R917–R921). -/
def landAt (edge row c : Nat) : Option Land :=
  if 4 ≤ edge || c = 0 then none
  else if row = 8 then (edgeTabs edge)[c - 1]?
  else if row = 9 then ((edgeTabs edge)[c - 1]?).map fun _ => .gnd
  else if 8 ≤ row || 200 < c then none
  else if edge = 0 && c ≤ 6 then some (((lowLands[8 * (c - 1) + row]?).map Land.low).getD .gnd)
  else if 41 ≤ c && row * 53 + (c - 41) / 3 < (edgePairs edge).length && c < 200 then
    match (edgePairs edge)[row * 53 + (c - 41) / 3]?, (c - 41) % 3 with
    | some q, 0 => some (.lane q.1 q.2.1 q.2.2 true)
    | some q, 1 => some (.lane q.1 q.2.1 q.2.2 false)
    | _, _ => some .gnd
  else if 6 ≤ row then some (senseAt edge c (row = 6))
  else some .gnd

/-- Whether a PORT_EQ code keeps the ranges of its taps: c(−1) to 10, c(−2) to 4, c(1) to 10, the rest 0 (R929). -/
def eqOk (eq : Nat) : Bool := eq % 16 ≤ 10 && eq / 16 % 16 ≤ 4 && eq / 256 % 16 ≤ 10 && decide (eq < 4096)

end Sys2Proof.Machine
end

