-- ==== Sys2Proof/Machine/Edge.lean ====
section
/-! DEFINITION. The commands of the network edge: arrival, verdicts, results and replies, ports, pens and burst credit
(*Network edge dies*, *Admission, deferral and refusal*; R74–R121, R475–R507, R670), and the port commands (Table CMD-7). -/
namespace Sys2Proof.Machine

open Sys2Proof

/-! Arrival and verdicts. -/

/-- Whether the port of a frame exists in its lane group's mode. -/
def Ned.hasPort (n : Ned) (p : Nat) : Bool := portExists (n.modeOf p) p

/-- A frame as the NED first holds it: not yet classified (binding 8192). -/
def newReq (n : Ned) (f : FrameIn) (now : Time) : Req :=
  { fid := f.fid, port := f.port.val, bytes := f.bytes, t0 := f.t0, group := f.groupEnd, judged := 0, stale := false,
    uncorrectable := false, binding := 8192, bind := Binding.unbound, counted := 8192, fold := 0, phase := .held, tag := 0,
    stamp := now, paid := none, runs := 1, early := true, fcs := none, session := none, released := none, epoch := 0, flits := [],
    got := 0, lastSeq := none, long := false, reply := none, composed := 0, template := (n.port f.port.val).defTemplate,
    start := 0, fill := 0, out := [], ended := true, prepaid := false }

/-- A check of R77 fails on early bytes, so the frame waits for its corrected bytes (R78). -/
def Ned.reparseDue (n : Ned) (port : Nat) (bs : List Byte) : Bool :=
  match parseFrame bs with
  | none => true
  | some p => (n.bindings.any fun x => x.2.matches port p) && !(n.bindings.any fun x => x.2.matches port p && mrqFits p (x.2.mrqAt p))

/-- A frame arrives: by its port's state dropped, or classified and admitted; verdicts that came before it are applied then
(R76–R86, R90, R108–R112, R121, R475). -/
def execAdmission (k : NedIx) (f : FrameIn) (t : Time) (s : State) : Host.Outcome State Fault Refusal :=
  .next (s.event t (fun s => (s.ned k.val).hasPort f.port.val && ((s.ned k.val).req f.fid).isNone) fun s =>
    let k := k.val
    let n := s.ned k
    let id := portId k f.port.val
    let p := n.port f.port.val
    if p.state = .squelched then s.modNed k fun n => n.ignore f.fid none
    else if p.state = .idle || p.draining then (s.count .port id tpIdleDropped).modNed k fun n => n.ignore f.fid none
    else
      let s1 := (s.count .port id tpRx).addTally .ned k tnReread f.rereads
      if s.ptpPort = some (k, f.port.val) && isPtpEvent f.bytes then s1.modNed k fun n => n.ignore f.fid (some f.port.val)
      else
        let r := newReq n f s.now
        let s2 := s1.modNed k fun n => let m := n.sweep s.now; { m with reqs := m.reqs ++ [r] }
        (if n.reparseDue r.port r.bytes then s2 else s2.classifyReq k r).hearAll k f.fid)

/-- A group verdict: what it corrected among the frame's bytes, and whether the group was uncorrectable (R78, R88, R91–R96, R114,
R115). The groups of a frame are judged in order. -/
def execGroupVerdict (k : NedIx) (fid : Nat) (group : GroupRead) (t : Time) (s : State) :
    Host.Outcome State Fault Refusal :=
  .next (s.event t (fun s => !(s.ned k.val).doubt) fun s => s.hear k.val fid (.group group.fixes group.uncorrectable))

/-- The FCS verdict (R25, R29, R47, R96, R106, R116, R332, R333, R501). -/
def execFcsVerdict (k : NedIx) (fid : Nat) (good : Bool) (t : Time) (s : State) : Host.Outcome State Fault Refusal :=
  .next (s.event t (fun s => !(s.ned k.val).doubt) fun s => s.hear k.val fid (.fcs good))

/-- A frame's tail comes before its IP length says, or before 64 bytes (R79, R80, R119). -/
def execFrameTail (k : NedIx) (fid : Nat) (t : Time) (s : State) : Host.Outcome State Fault Refusal :=
  .next (s.event t (fun s => !(s.ned k.val).doubt) fun s => s.hear k.val fid .tail)

/-- The speculative stream breaks inside a frame: early forwarding stops, and the request goes on from corrected bytes
(R97). -/
def execSpeculationAbort (k : NedIx) (fid : Nat) (t : Time) (s : State) : Host.Outcome State Fault Refusal :=
  .next (s.event t (fun s => !(s.ned k.val).doubt) fun s => s.hear k.val fid .broken)

/-! Results and replies. -/

/-- The reply a result gives: RESULT, or DEFERRED with its wait in whole nanoseconds (R488, R493). -/
def Req.resultReply (r : Req) : Reply :=
  match r.released with
  | some at_ => .deferred ((at_ - r.stamp) / 100)
  | none => .result

/-- Put a result flit in its place: a message is taken in flit sequence order (R102). -/
def Req.withFlit (r : Req) (q : Nat) (p : Payload) : List (Nat × Payload) :=
  if r.flits.any fun x => x.1 = q then r.flits
  else r.flits.takeWhile (fun x => decide (x.1 < q)) ++ [(q, p)] ++ r.flits.dropWhile fun x => decide (x.1 < q)

/-- A flit of a result message whose request is known (R102, R512). A reply of result length 0 is composed at the message's first
flit: the spec does not say when (DESIGN CHOICE, log entry 95). -/
def State.takeResult (s : State) (k : Nat) (r : Req) (f : Flit) : State :=
  let n := s.ned k
  let need := ceilDiv (n.template r.template).resLen 64
  let q := f.seq.toNat
  let lastSeq := if f.typ = ftDataEnd then some q else r.lastSeq
  let ended := lastSeq.any fun e => decide ((r.got + 1) % 256 = (e + 1) % 256)
  let tooLong := need ≠ 0 && decide (need ≤ q) && !r.long
  let s1 := if tooLong then s.count .port (portId k r.port) tpLong else s
  let r1 := { r with got := r.got + 1, lastSeq := lastSeq, ended := ended, long := r.long || tooLong }
  if r.phase = .wafer then
    if tabGet 0 n.closedEpochs r.fold / 2 ^ f.epoch.toNat % 2 = 1 then
      (s.count .fold r.fold tfStray).refuseReq k { r with ended := ended } rsReconfigured
    else
      let r2 := { r1 with flits := if q < need then r.withFlit q f.payload else r.flits }
      if need ≤ r2.flits.length then s1.compose k r2 r2.resultReply
      else if lastSeq.any fun e => decide (e + 1 < need) then (s1.count .port (portId k r.port) tpShort).refuseReq k r2 rsFault
      else s1.modNed k fun n => n.putReq r2
  else s1.modNed k fun n => (n.putReq (if ended && r.phase = .done then { r1 with tag := 0 } else r1)).sweep s.now

/-- The head flit of a NED's receive buffer reaches the composer: one of another fold than its tag's is a stile violation, one of a
tag closed is a stray unless its run was voided (R102, R120, R142, R343, R512, R513, R550). -/
def execResultArrival (k : NedIx) (e : Fin 2) (lane : Lane) (vc : Bool) (t : Time) (s : State) : Host.Outcome State Fault Refusal :=
  .next (s.event t (fun s => (((s.link (dieEnd (nedDest k.val) e.val) lane.val).buf vc).head?).any fun q =>
      q.flit.typ = ftData || q.flit.typ = ftDataEnd) fun s =>
    let k := k.val
    let x := dieEnd (nedDest k) e.val
    match ((s.link x lane.val).buf vc).head? with
    | none => s
    | some q =>
      let f := q.flit
      let s1 := s.modLink x lane.val fun l => l.popBuf vc
      let n := s1.ned k
      if n.doubt then s1
      else
        match n.reqByTag f.tag.toNat with
        | some r =>
          if r.fold = f.fold.toNat then s1.takeResult k r f
          else ((s1.count .link (linkId x lane.val) tlStile).count .fold f.fold.toNat tfStileSent).reportFrom (nedDest k) .stile
            [f.fold.toNat] (nedDest k)
        | none =>
          let s2 := if n.voidTags.any fun v => v.1 = f.tag.toNat && !v.2 then s1 else s1.count .fold f.fold.toNat tfStray
          if f.typ = ftDataEnd then s2.modNed k fun n => { n with voidTags := n.voidTags.filter fun v => v.1 ≠ f.tag.toNat } else s2)

/-- A waiting reply starts: first in composer order on its port, its egress pipeline run, the transmitter free (R98, R103, R104,
R107, R506). -/
def execReplyStart (k : NedIx) (fid : Nat) (t : Time) (s : State) : Host.Outcome State Fault Refusal :=
  .next (s.event t (fun s =>
      let n := s.ned k.val
      (n.req fid).any fun r =>
        r.phase = .waiting && n.portFree r.port s.now && decide (r.composed + egress ≤ s.now)
          && (n.order.find? fun f => (n.req f).any fun q => q.port = r.port) = some fid
          && (match r.reply with
              | some rep => decide (n.replyDue r rep s.now ≤ s.now)
              | none => false)) fun s =>
    match (s.ned k.val).req fid with
    | none => s
    | some r =>
      match r.reply with
      | some rep => s.startReply k.val r rep s.now
      | none => s)

/-! PTP, faults and doubt. -/

/-- A time stamp: the NED's time counter, which follows the controller's clock, quantised to 0.25 ns and reported as 48-bit seconds and 32-bit
nanoseconds (R108; log entry 45). -/
def State.stampAt (s : State) (at_ : Time) : Nat × Nat :=
  let q := s.clockAt at_ / 25 * 25
  (q / second % 2 ^ 48, q % second / 100)

/-- A PTP event message on the designated port. A received one is stamped when the first bit after its SFD crosses the lands and
passed to the controller; one of the controller's own leaves when the transmitter is free, and its egress stamp is reported
(R108, R109, R121). -/
def execPtpEvent (k : NedIx) (port : Fin 8) (bytes : List Byte) (egress : Bool) (sfd t : Time) (s : State) :
    Host.Outcome State Fault Refusal :=
  .next (s.event t (fun s => s.ptpPort = some (k.val, port.val) && isPtpEvent bytes && ((s.ned k.val).port port.val).state = .live
      && (!egress || (s.ned k.val).portFree port.val s.now)) fun s =>
    let k := k.val
    if egress then
      let tb := byteTime ((s.ned k).speed port.val)
      let body := padFrame bytes
      let s1 := { s with wire := s.wire ++ [Wire.frame k port.val s.now (body ++ fcsOf body)] }
      s1.modNed k fun n =>
        ({ n with ptpSent := s.stampAt (s.now + 8 * tb) }).setPort port.val
          { n.port port.val with freeAt := s.now + (8 + body.length + 4 + 12) * tb }
    else { s.modNed k fun n => { n with ptpStamp := s.stampAt sfd } with ptpHeard := some s.now })

/-- A reply that a fault of the port cuts off: idle follows what has been sent, and the reply is sent whole, first on its port, when
the fault has cleared (R76, R495; DESIGN CHOICE, log entry 96). -/
def State.cutReply (s : State) (k : Nat) (r : Req) : State :=
  let n := s.ned k
  let tb := byteTime (n.speed r.port)
  let s0 := if r.phase = .replying then s else s.unsend k r
  let sent := (r.out ++ List.replicate (n.overrun r s.now) 0).take (ceilDiv (s.now - r.start) tb - 8)
  let s1 := if s.now ≤ r.start then s0 else { s0 with wire := s0.wire ++ [Wire.frame k r.port r.start sent] }
  s1.modNed k fun n =>
    ({ n.putReq { r with phase := .waiting } with order := [r.fid] ++ n.order }).setPort r.port { n.port r.port with freeAt := s.now }

/-- A local or remote fault: tallied; during it the transmitter sends idle (R76). -/
def execRsFault (k : NedIx) (port : Fin 8) (remote : Bool) (t : Time) (s : State) : Host.Outcome State Fault Refusal :=
  .next (s.event t (fun s => (s.ned k.val).hasPort port.val
      && !(if remote then ((s.ned k.val).port port.val).remoteFault else ((s.ned k.val).port port.val).localFault)) fun s =>
    let k := k.val
    let n := s.ned k
    let p := n.port port.val
    let s1 := s.setNed k (n.setPort port.val (if remote then { p with remoteFault := true } else { p with localFault := true }))
    let s2 := (n.reqs.filter fun r => r.port = port.val && n.sending r s.now).foldl (fun s r => s.cutReply k r) s1
    s2.count .port (portId k port.val) tpLinkFault)

/-- A local or remote fault clears; the transmitter leaves idle when neither stands (R76). -/
def execRsFaultCleared (k : NedIx) (fault : PortFault) (t : Time) (s : State) : Host.Outcome State Fault Refusal :=
  .next (s.event t (fun s =>
      if fault.remote then ((s.ned k.val).port fault.port.val).remoteFault else ((s.ned k.val).port fault.port.val).localFault) fun s =>
    s.modNed k.val fun n =>
      let p := n.port fault.port.val
      n.setPort fault.port.val (if fault.remote then { p with remoteFault := false } else { p with localFault := false }))

/-- A NED enters doubt (R113, R586, R679). -/
def execNedDoubt (k : NedIx) (cause : Nat) (t : Time) (s : State) : Host.Outcome State Fault Refusal :=
  .next (s.event t (fun s => !(s.ned k.val).doubt) fun s => s.nedEnterDoubt k.val cause)

/-- Five microseconds after PWR_FAIL_N every NED enters doubt (R597). -/
def execPwrFailNedStop (t : Time) (s : State) : Host.Outcome State Fault Refusal :=
  .next (s.event t (fun s => s.pwrFail && (match s.pwrFailAt with
      | some a => decide (a + 4 * usec ≤ s.now)
      | none => false)) fun s =>
    (List.range 24).foldl (fun s k => s.nedEnterDoubt k 4) s)

/-- An edge die has heard no keep-alive for 100 ms: a NED enters doubt, other dies serve on (R681, R693). -/
def execKeepaliveLoss (die : Nat) (t : Time) (s : State) : Host.Outcome State Fault Refusal :=
  .next (s.event t (fun s => decide (1536 ≤ die) && decide (die < 1560) && decide ((s.ned (die - 1536)).lastAlive + 100 * msec ≤ s.now)) fun s =>
    s.nedEnterDoubt (die - 1536) 2)

/-! Port reconfiguration (R112, R118, R545, R929). -/

/-- A port begins to drain: it stops admitting, and its pen entries and unadmitted requests are refused (R112). -/
def State.beginDrain (s : State) (k port : Nat) (f : Port → Port) : State :=
  let n := s.ned k
  let s1 := s.setNed k (n.setPort port { f (n.port port) with draining := true, drainAt := s.now })
  let hit := n.reqs.filter fun r => r.port = port && (r.phase = .penned || (r.phase = .held && r.paid.isNone))
  hit.foldl (fun s r =>
    if r.binding ≥ 8192 then (s.dropReq k r).count .port (portId k port) tpIdleDropped else s.refuseReq k r rsReconfigured) s1

/-- Whether nothing of a port is still to be answered, and no reply is being sent (R112, R118). -/
def Ned.portQuiet (n : Ned) (port : Nat) (now : Time) : Bool := !(n.reqs.any fun r => r.port = port && (r.phase ≠ .done || n.sending r now))

/-- New settings are held for the port. -/
def Port.pends (p : Port) : Bool := p.pendMac.isSome || p.pendEq.isSome || p.pendTemplate.isSome || p.pendPtp.isSome

/-- The port enters IDLE once every reply in flight has been sent (R112). -/
def execPortDrainComplete (k : NedIx) (port : Fin 8) (t : Time) (s : State) : Host.Outcome State Fault Refusal :=
  .next (s.event t (fun s => ((s.ned k.val).port port.val).draining && ((s.ned k.val).port port.val).state ≠ .squelched
      && (s.ned k.val).portQuiet port.val s.now) fun s =>
    let k := k.val
    let p := (s.ned k).port port.val
    let s1 := s.modNed k fun n => n.setPort port.val { p with state := .idle, draining := p.pends }
    s1.settle (fun w => w = .port k port.val true) (.ok [("state", .word "idle")]))

/-- Ten milliseconds of drain have passed: what remains is refused with RECONFIGURED (R112, R118). -/
def execPortDrainExpiry (k : NedIx) (port : Fin 8) (t : Time) (s : State) : Host.Outcome State Fault Refusal :=
  .next (s.event t (fun s => ((s.ned k.val).port port.val).draining
      && decide (((s.ned k.val).port port.val).drainAt + 10 * msec ≤ s.now)) fun s =>
    let k := k.val
    let hit := (s.ned k).reqs.filter fun r => r.port = port.val && (r.phase = .wafer || r.phase = .held || r.phase = .penned
      || (r.phase = .waiting && !(r.reply.any Reply.refusal)))
    hit.foldl (fun s r => if r.binding ≥ 8192 then s.dropReq k r else s.refuseReq k r rsReconfigured) s)

/-- The new settings are in force: a port of a changed lane group is IDLE, a reconfigured port holds its new values
(R75, R545). -/
def execPortSettingsApplied (k : NedIx) (port : Fin 8) (t : Time) (s : State) : Host.Outcome State Fault Refusal :=
  .next (s.event t (fun s => ((s.ned k.val).port port.val).draining && ((s.ned k.val).port port.val).state ≠ .live
      && (s.ned k.val).hasPort port.val) fun s =>
    let k := k.val
    let pt := port.val
    let p := (s.ned k).port pt
    let p1 := { p with state := .idle, draining := false, mac := p.pendMac.getD p.mac, eq := p.pendEq.getD p.eq,
                       defTemplate := p.pendTemplate.getD p.defTemplate, pendMac := none, pendEq := none,
                       pendTemplate := none, pendPtp := none }
    let s1 := s.modNed k fun n => n.setPort pt p1
    let s2 := match p.pendPtp with
      | some true => { s1 with ptpPort := some (k, pt) }
      | some false => if s1.ptpPort = some (k, pt) then { s1 with ptpPort := none } else s1
      | none => s1
    let s3 := (s2.settle (fun w => w = .port k pt false) (.ok [("port", .num pt), ("state", .word "idle")])).settle
      (fun w => w = .ptp k pt) (.ok [("port", .num pt)])
    let g := pt / 4
    if (List.range 4).any fun i => ((s3.ned k).port (4 * g + i)).draining then s3
    else s3.settle (fun w => w = .lanes k g ((s3.ned k).modeOf pt)) (.ok [("group", .num g), ("mode", .num ((s3.ned k).modeOf pt))]))

/-! Pens and burst credit. -/

/-- Whether the deadline of a pen entry has passed (Table ADMIT-3). -/
def State.penLate (s : State) (k : Nat) (r : Req) : Bool :=
  let b := (s.ned k).binding r.binding
  b.deadline ≠ 0 && decide ((s.now - r.stamp) + 100 * s.qOf b r.bytes > 100 * b.deadline)

/-- Whether a pen entry may go now (R486, R499). -/
def State.penEligible (s : State) (k : Nat) (r : Req) : Bool :=
  let n := s.ned k
  let bk := (n.bucket (n.binding r.binding).bucket).refill s.now
  r.phase = .penned && r.fcs = some true && n.covers r && !r.stale && !s.penLate k r
    && (s.stOf r.fold = some .running || s.stOf r.fold = some .reconfiguring)
    && !s.batchOpen k r.fold && !s.classBusy r.fold (s.clsOfReq r)
    && (r.prepaid || bk.whole || (bk.burst && 0 < tabGet 0 n.accounts r.fold))

/-- One pen entry leaves, at most every 4 ns (R486–R488, R502, R507). -/
def execPenRelease (k : NedIx) (t : Time) (s : State) : Host.Outcome State Fault Refusal :=
  .next (s.event t (fun s => !(s.ned k.val).doubt && ((s.ned k.val).lastRelease = 0 || decide ((s.ned k.val).lastRelease + 400 ≤ s.now))) fun s =>
    let k := k.val
    let n := s.ned k
    match penNext n.lastServed (n.reqs.filter fun r => s.penEligible k r) with
    | none => s
    | some r =>
      let b := n.binding r.binding
      let bk := (n.bucket b.bucket).refill s.now
      let n1 := n.setBucket b.bucket bk
      let paid : Ned × Option TokenSrc :=
        if r.prepaid then (n1, r.paid)
        else if bk.whole then (n1.setBucket b.bucket bk.spend, some (.bucket b.bucket))
        else ({ n1 with accounts := tabMod 0 n1.accounts r.fold (· - 1) }, some (.burst r.fold))
      let p := n.pen r.fold
      let rel := (p.releases ++ [s.now]).drop ((p.releases.length + 1) - 64)
      let s1 := s.setNed k { paid.1 with lastServed := r.fold, lastRelease := s.now,
                                         pens := tabSet Pen.empty paid.1.pens r.fold { p with releases := rel } }
      (s1.count .ned k tnReleased).intoWafer k { r with bind := b, paid := paid.2, released := some s.now, prepaid := false, early := false } false)

/-- A pen entry's deadline has passed: DEADLINE (Table ADMIT-3, R489, R499). -/
def execPenDeadlineExpiry (k : NedIx) (fid : Nat) (t : Time) (s : State) : Host.Outcome State Fault Refusal :=
  .next (s.event t (fun s => ((s.ned k.val).req fid).any fun r => r.phase = .penned && s.penLate k.val r) fun s =>
    match (s.ned k.val).req fid with
    | none => s
    | some r => s.refuseReq k.val r rsDeadline)

/-- The folds active on a NED with their weights, ascending (R481). -/
def State.burstActive (s : State) (k : Nat) : List (Nat × Nat) :=
  (List.range 64).filterMap fun f =>
    match s.foldOf f with
    | some x =>
      let on := x.st = .running || x.st = .reconfiguring || x.st = .checkpointing
      if on && (s.ned k).buckets.any fun b => b.2.fold = f && b.2.burst then some (f, x.weight) else none
    | none => none

/-- The burst pool gives one token to the next account of its cycle (R481). -/
def execBurstToken (k : NedIx) (t : Time) (s : State) : Host.Outcome State Fault Refusal :=
  .next (s.event t (fun s => 0 < (s.ned k.val).burstRate) fun s =>
    let k := k.val
    let n := s.ned k
    let act := s.burstActive k
    let w := (act.map (·.2)).sum
    let acc := n.accounts.filter fun a => act.any fun p => p.1 = a.1
    let cyc := if n.cyclePos = 0 || n.cycle.length ≤ n.cyclePos then burstCycle act else n.cycle
    let pos := if n.cycle.length ≤ n.cyclePos then 0 else n.cyclePos
    let cap (f : Nat) : Nat := match act.find? fun p => p.1 = f with
      | some p => accountDepth n.burstDepth p.2 w
      | none => 0
    match burstTarget acc cap cyc pos with
    | some (f, adv) => s.setNed k { n with accounts := tabMod 0 acc f (· + 1), cycle := cyc, cyclePos := (pos + adv) % cyc.length }
    | none => s.setNed k { n with accounts := acc, cycle := cyc, cyclePos := pos })

/-- A request has been in the wafer for 4·Q + 110 ms: FAULT, as a watchdog expiry of its fold (R670). -/
def execInFlightLimit (k : NedIx) (fid : Nat) (t : Time) (s : State) : Host.Outcome State Fault Refusal :=
  .next (s.event t (fun s => ((s.ned k.val).req fid).any fun r =>
      r.phase = .wafer && decide (r.start + 400 * s.qOf r.bind r.bytes + 110 * msec ≤ s.now)) fun s =>
    match (s.ned k.val).req fid with
    | none => s
    | some r => ((s.refuseReq k.val r rsFault).count .fold r.fold tfWatchdog).report .watchdog [r.fold] (nedDest k.val))

/-- A stray report reaches the NED that holds the tag: a flit of the request's fold has been a stray since the request entered the
wafer. The request is refused with RECONFIGURED, or with FAULT where a doubt revoked its fold's Span credits; a reply that has started
goes on (R272, R319, R346, R427, R513). -/
def execStrayRefusal (k : NedIx) (tag : BitVec 16) (t : Time) (s : State) : Host.Outcome State Fault Refusal :=
  .next (s.event t (fun s => ((s.ned k.val).reqByTag tag.toNat).any fun r => r.phase = .wafer && (s.foldOf r.fold).any fun (f : Fold) =>
      f.strayed.any fun at_ => decide (r.start ≤ at_)) fun s =>
    match (s.ned k.val).reqByTag tag.toNat with
    | none => s
    | some r => s.refuseReq k.val r (if s.spds.any fun (d : Spd) => d.revoked.contains (r.fold, false) then rsFault else rsReconfigured))

/-! Port commands (Table CMD-7). -/

def txWord : TxState → String
  | .squelched => "squelched"
  | .idle => "idle"
  | .live => "live"

/-- Ports and their states. -/
def execShowPort (ned : Nat) (port : Option Nat) (ln : Ln) (s : State) : Host.Outcome State Fault Refusal :=
  .next (s.judged ln .view true fun s => s.inRange ln "ned" ned 0 23 fun s =>
    let n := s.ned ned
    let ps := (List.range 8).filter fun p => n.hasPort p && (port = none || port = some p)
    if ps.isEmpty then s.err ln 401 [("object", .word "port")]
    else s.parts ln (ps.map fun p =>
      [("port", .num p), ("mode", .num (n.modeOf p)), ("state", .word (txWord (n.port p).state)), ("mac", .hex (n.port p).mac.toNat),
       ("ptp", .num (if s.ptpPort = some (ned, p) then 1 else 0)),
       ("bindings", .num (n.bindings.filter fun b => b.2.state = 1 && b.2.port = p).length)]) [])

/-- Change a lane group's mode: refused while a binding names a port of it; its ports are squelched meanwhile (R75). -/
def execSetLanes (ned group mode : Nat) (ln : Ln) (s : State) : Host.Outcome State Fault Refusal :=
  .next (s.judged ln .operate false fun s => s.inRange ln "ned" ned 0 23 fun s => s.inRange ln "group" group 0 1 fun s =>
    let n := s.ned ned
    if mode ≠ 100 && mode ≠ 200 && mode ≠ 400 then s.err ln 402 [("key", .word "mode"), ("min", .num 100), ("max", .num 400)]
    else if n.bindings.any fun b => b.2.state ≠ 0 && b.2.port / 4 = group then s.refuse ln "mode-in-use"
    else
      let n1 := if group = 0 then { n with mode0 := mode } else { n with mode1 := mode }
      let n2 := (List.range 4).foldl (fun (n : Ned) i =>
        let p := 4 * group + i
        n.setPort p { n.port p with state := .squelched, draining := portExists mode p }) n1
      let gone := n.reqs.filter fun r => r.port / 4 = group
      let s1 := gone.foldl (fun s r => s.dropReq ned r) (s.setNed ned n2)
      s1.await ln (.lanes ned group mode))

/-- Stored settings of a port (`store=on`), with the mode of its lane group, without which they could not be applied. -/
def State.storePort (s : State) (ned port : Nat) (p : Port) (ptp : Bool) : State :=
  let rec_ : PortSet := ⟨ned, port, p.pendMac.getD p.mac, p.pendTemplate.getD p.defTemplate, (p.pendEq.getD p.eq).toNat, ptp⟩
  { s with flash := { s.flash with
      ports := (s.flash.ports.filter fun q => q.ned ≠ ned || q.port ≠ port) ++ [rec_]
      lanes := (s.flash.lanes.filter fun l => l.1 ≠ ned || l.2.1 ≠ port / 4) ++ [(ned, port / 4, (s.ned ned).modeOf port)] } }

/-- Reconfigure a port; a code outside the ranges of PORT_EQ is refused (R112, R545, R929). The PTP designation of another port moves with it. -/
def execSetPort (ned port : Nat) (mac : Option (BitVec 48)) (template : Option Nat) (ptp : Option Bool) (eq : Option Nat)
    (store : Bool) (ln : Ln) (s : State) : Host.Outcome State Fault Refusal :=
  .next (s.judged ln .operate false fun s => s.inRange ln "ned" ned 0 23 fun s =>
    let n := s.ned ned
    if !n.hasPort port || 8 ≤ port then s.err ln 401 [("object", .word "port")]
    else s.inRange ln "template" (template.getD 0) 0 2047 fun s =>
    if !eqOk (eq.getD 0) then s.err ln 402 [("key", .word "eq"), ("min", .num 0), ("max", .num 0x0A4A)]
    else if n.doubt then s.err ln 404 [("object", .word "ned"), ("state", .word "doubt")]
    else if store && !s.flashTakes ln then s.flashErr ln "ports"
    else
      let f (p : Port) : Port := { p with pendMac := some (mac.getD (p.pendMac.getD p.mac)), pendTemplate := template <|> p.pendTemplate,
                                          pendPtp := ptp <|> p.pendPtp, pendEq := eq.map (BitVec.ofNat 16) <|> p.pendEq }
      let s1 := s.beginDrain ned port f
      let isPtp := ptp.getD (s.ptpPort = some (ned, port))
      let s2 := if store then s1.storePort ned port ((s1.ned ned).port port) isPtp else s1
      s2.await ln (.port ned port false))

/-- IDLE to LIVE (R111). -/
def execEnablePort (ned port : Nat) (ln : Ln) (s : State) : Host.Outcome State Fault Refusal :=
  .next (s.judged ln .operate false fun s => s.inRange ln "ned" ned 0 23 fun s =>
    let n := s.ned ned
    if !n.hasPort port || 8 ≤ port then s.err ln 401 [("object", .word "port")]
    else if (n.port port).state ≠ .idle || n.doubt || (n.port port).draining then
      s.err ln 404 [("object", .word "port"), ("state", .word (txWord (n.port port).state))]
    else (s.setNed ned (n.setPort port { n.port port with state := .live })).ok ln [("state", .word "live")])

/-- Drain a port and put it in IDLE (R112). -/
def execDisablePort (ned port : Nat) (ln : Ln) (s : State) : Host.Outcome State Fault Refusal :=
  .next (s.judged ln .operate false fun s => s.inRange ln "ned" ned 0 23 fun s =>
    let n := s.ned ned
    if !n.hasPort port || 8 ≤ port then s.err ln 401 [("object", .word "port")]
    else if (n.port port).state ≠ .live then s.ok ln [("state", .word (txWord (n.port port).state))]
    else (s.beginDrain ned port id).await ln (.port ned port true))

/-- Rewrite a reply template (Table EDGE-9). -/
def execSetTemplate (ned index : Nat) (a : TemplateArgs) (ln : Ln) (s : State) : Host.Outcome State Fault Refusal :=
  .next (s.judged ln .operate false fun s => s.inRange ln "ned" ned 0 23 fun s => s.inRange ln "index" index 0 2047 fun s =>
    s.inRange ln "pcp" (a.pcp.getD 0) 0 7 fun s => s.inRange ln "dscp" (a.dscp.getD 0) 0 63 fun s =>
    s.inRange ln "ttl" (a.ttl.getD 64) 1 255 fun s => s.inRange ln "len" (a.len.getD 0) 0 2048 fun s =>
    s.inRange ln "vlan" (match a.vlan with
      | some (some (some v)) => v
      | _ => 0) 0 4094 fun s =>
      let n := s.ned ned
      let t := n.template index
      let vl := match a.vlan with
        | none => t.vlan
        | some none => .none
        | some (some none) => .request
        | some (some (some v)) => .fixed v
      let t1 : Template := ⟨a.mac.getD t.mac, vl, a.pcp.getD t.pcp, a.dscp.getD t.dscp, a.ttl.getD t.ttl, a.udpsum.getD t.csum,
        a.len.getD t.resLen, a.fill.getD t.fill⟩
      (s.setNed ned { n with templates := tabSet Template.reset n.templates index t1 }).ok ln [("index", .num index)])

/-- The burst pool of a NED (R481). -/
def execSetBurst (ned rate depth : Nat) (ln : Ln) (s : State) : Host.Outcome State Fault Refusal :=
  .next (s.judged ln .operate false fun s => s.inRange ln "ned" ned 0 23 fun s => s.inRange ln "rate" rate 0 300000000 fun s =>
    s.inRange ln "depth" depth 0 65535 fun s =>
      (s.modNed ned fun n => { n with burstRate := rate, burstDepth := depth }).ok ln [("rate", .num rate), ("depth", .num depth)])

/-- Designate the PTP port; another port that held it is reconfigured with it (R109). -/
def execSetPtp (ned port : Nat) (ln : Ln) (s : State) : Host.Outcome State Fault Refusal :=
  .next (s.judged ln .operate false fun s => s.inRange ln "ned" ned 0 23 fun s =>
    let n := s.ned ned
    if !n.hasPort port || 8 ≤ port then s.err ln 401 [("object", .word "port")]
    else
      match s.ptpPort with
      | none => ({ s with ptpPort := some (ned, port) }).ok ln [("port", .num port)]
      | some (n0, p0) =>
        if n0 = ned && p0 = port then s.ok ln [("port", .num port)]
        else
          let s1 := s.beginDrain n0 p0 fun p => { p with pendPtp := some false }
          (s1.beginDrain ned port fun p => { p with pendPtp := some true }).await ln (.ptp ned port))

/-! Buckets (R478–R480, R504; Table CMD-11). -/

/-- Write a token bucket: its level becomes its depth (R479, R480, R504). -/
def execSetBucket (ned index fold rate depth : Nat) (burst pen : Option Bool) (ln : Ln) (s : State) : Host.Outcome State Fault Refusal :=
  .next (s.judged ln .operate false fun s => s.inRange ln "ned" ned 0 23 fun s => s.inRange ln "index" index 0 8191 fun s =>
    s.onFold ln fold fun _ => s.inRange ln "rate" rate 1 300000000 fun s => s.inRange ln "depth" depth 1 65535 fun s =>
    let n := s.ned ned
    let b := n.bucket index
    if (b.fold ≠ fold && (s.foldOf b.fold).isSome)
        || (n.bindings.any fun x => x.2.state = 1 && x.2.bucket = index && hdlFold x.2.handle ≠ fold) then s.refuse ln "bucket-owner"
    else
      let b1 := Bucket.write fold rate depth (burst.getD false) (pen.getD false) s.now
      (s.setNed ned (n.setBucket index b1)).mirror.ok ln [("index", .num index), ("level", .num depth)])

def execShowBucket (ned index : Nat) (ln : Ln) (s : State) : Host.Outcome State Fault Refusal :=
  .next (s.judged ln .view true fun s => s.inRange ln "ned" ned 0 23 fun s => s.inRange ln "index" index 0 8191 fun s =>
    let b := ((s.ned ned).bucket index).refill s.now
    s.ok ln [("fold", .num b.fold), ("rate", .num b.rate), ("depth", .num b.depth), ("burst", .word (if b.burst then "on" else "off")),
      ("pen", .word (if b.pen then "on" else "off")), ("level", .num (b.level / 65536))])

end Sys2Proof.Machine
end

