-- ==== Sys2Proof/Machine/Thermal.lean ====
section
/-! DEFINITION. Junction sensors, thermal trips and the coolant loop (*Thermal and mechanical*, R633–R636, R641–R644,
R650–R656; Table CMD-5). Junction temperatures are in 0.125 °C, coolant temperatures in 1/128 °C. -/
namespace Sys2Proof.Machine

open Sys2Proof

/-! Sensors (R633–R635). -/

/-- A reading below −20 °C or above 150 °C. -/
def outOfRange (x : Int) : Bool := decide (x < -160) || decide (1200 < x)

/-- Whether a condition that has held since some moment has held for 10 ms. -/
def held10 (since : Option Time) (now : Time) : Bool :=
  match since with
  | some t => decide (t + 10 * msec ≤ now)
  | none => false

/-- One sample of a paddock's sensors: since when each is out of range and the two are apart, which have failed, how many
samples in a row are at 105 °C. -/
def Paddock.sample (p : Paddock) (a b : Int) (now : Time) : Paddock :=
  let keep (on : Bool) (since : Option Time) : Option Time := if on then some (since.getD now) else none
  let bad0 := keep (outOfRange a) p.bad0
  let bad1 := keep (outOfRange b) p.bad1
  let far := !p.fail0 && !p.fail1 && !outOfRange a && !outOfRange b && (decide (120 < a - b) || decide (120 < b - a))
  let apart := keep far p.apart
  let f0 := p.fail0 || held10 bad0 now || held10 apart now
  let f1 := p.fail1 || held10 bad1 now || held10 apart now
  let p1 : Paddock := { p with s0 := a, s1 := b, bad0 := bad0, bad1 := bad1, apart := apart, fail0 := f0, fail1 := f1 }
  let hot := match p1.temp with
    | some x => if 840 ≤ x then p.hot + 1 else 0
    | none => 0
  let trip := match p.trip, p1.temp with
    | .retrying since peak, some x => Trip.retrying since (max peak x)
    | w, _ => w
  { p1 with hot := hot, trip := trip }

/-- A sensor has failed: counted, belled, an alert (R634, Table SHC-6). -/
def State.sensorFailed (s : State) (n which : Nat) : State :=
  ((s.count .paddock n tdSensor).alert alSensor).ring "paddock" true [("at", .pad n), ("event", .word "sensor"), ("cause", .num which)]

/-- A thermal trip now would be lasting: it comes in the retry, or within an hour of the first (R642, R651). -/
def Paddock.tripLasts (p : Paddock) (now : Time) : Bool :=
  (match p.firstTrip with
    | some f => decide (now ≤ f + 3600 * second)
    | none => false)
  || match p.trip with
    | .retrying _ _ => true
    | _ => false

/-- A thermal trip: every fold on the paddock is reported, the gate opens; lasting when it comes in the retry, within an hour
of the first, or of two failed sensors (R641, R642, R651). -/
def State.thermalTrip (s : State) (n : Nat) (noSensor : Bool) : State :=
  if s.testing then (s.count .paddock n tdThermal).failTest n
  else
    let p := s.pad n
    let lasting := noSensor || p.tripLasts s.now
    let s1 := ((s.count .paddock n tdThermal).report .thermal p.folds n).goDark n
    let s2 := s1.modPad n fun q =>
      { q with trip := if lasting then .lasting else .waiting s.now, firstTrip := if p.firstTrip.any fun f => decide (s.now ≤ f + 3600 * second) then p.firstTrip else some s.now, hot := 0 }
    let s3 := s2.ring "paddock" true [("at", .pad n), ("event", .word "thermal")]
    if lasting then
      let fuse := p.fuse ≠ .closed
      (s3.makeHole n (if fuse then 2 else 4) false).modPad n fun q => { q with fuse := if fuse then .latched else q.fuse, left := false }
    else s3

/-- What a controller does when its own junction has tripped: the active one hands over, the other is in doubt (R643, R682). -/
def State.shcHot (s : State) (i cause : Nat) : State :=
  if s.active = some i then
    (if (s.shc (1 - i)).st = .ok && s.cellFree then s.takeOverFrom i cause
     else { (s.cutFlash.shcDoubt i cause).dropMaster with active := none, ready := false })
  else if (s.shc i).st = .ok then s.shcDoubt i cause else s

/-- Count a die's samples at 105 °C or more. -/
def hotCount (x : Int) (n : Nat) : Nat := if 840 ≤ x then n + 1 else 0

/-- A sample of a paddock. -/
def State.samplePad (s : State) (n : Nat) (a b : Int) : State :=
  let p := s.pad n
  let q := p.sample a b s.now
  let s1 := s.setPad n q
  let s2 := if q.fail0 && !p.fail0 then s1.sensorFailed n 0 else s1
  let s3 := if q.fail1 && !p.fail1 then s2.sensorFailed n 1 else s2
  if q.fail0 && q.fail1 && !(p.fail0 && p.fail1) && (s.entry n).st ≠ 2 then (s3.thermalTrip n true).powerEnds
  else if 3 ≤ q.hot && (q.power ≠ .dark || q.soft) then (s3.thermalTrip n false).powerEnds
  else s3

/-- A junction sample, every 10 µs (R633, R635, R641, R643). -/
def execSensorSample (x : Sample) (t : Time) (s : State) : Host.Outcome State Fault Refusal :=
  .next (s.event t (fun _ => true) fun s =>
    match x with
    | .pad n a b => s.samplePad n.val a b
    | .ned k v =>
      let c := hotCount v (s.nedTemp.getD k.val (noTemp, 0)).2
      let s1 : State := { s with nedTemp := listSet s.nedTemp k.val (v, c) }
      if 3 ≤ c then s1.nedEnterDoubt k.val 3 else s1
    | .spd k v =>
      let c := hotCount v (s.spdTemp.getD k.val (noTemp, 0)).2
      let s1 : State := { s with spdTemp := listSet s.spdTemp k.val (v, c) }
      if 3 ≤ c then s1.spdEnterDoubt k.val 3 else s1
    | .med k v => { s with medTemp := listSet s.medTemp k.val (v, hotCount v (s.medTemp.getD k.val (noTemp, 0)).2) }
    | .shc k v =>
      let c := hotCount v (s.shc k.val).hot
      let s1 := s.modShc k.val fun y => { y with temp := v, hot := c }
      if 3 ≤ c && (s.shc k.val).st = .ok then s1.shcHot k.val 6 else s1)

/-! The retry of a tripped paddock (R642, R651). -/

def execThermalTripRetry (n : Pad) (t : Time) (s : State) : Host.Outcome State Fault Refusal :=
  .next (s.event t (fun s =>
      let p := s.pad n.val
      !s.pwrFail && s.fieldOn n.val && p.fuse = .closed && p.cooled s.now && match p.trip with
        | .waiting _ => true
        | _ => false) fun s =>
    let s1 := s.modPad n.val fun p => { p with trip := .retrying s.now (p.temp.getD 0) }
    ({ s1 with wave := s1.wave.filter fun w => w.1 ≠ n.val }).enqueueWave n.val .graze)

/-- Ten milliseconds in GRAZE: below 92 °C throughout the trip was transient; at 105 °C it is lasting; between the two the
manual gives no outcome, and it is open (log entry 6). -/
def execThermalRetryVerdict (n : Pad) (t : Time) (s : State) : Host.Outcome State Fault Refusal :=
  .next (s.event t (fun s => !s.pwrFail && (s.pad n.val).power = .graze && (s.pad n.val).fuse = .closed && match (s.pad n.val).trip with
      | .retrying since _ => decide (since + 10 * msec ≤ s.now)
      | _ => false) fun s =>
    let n := n.val
    let peak : Int := match (s.pad n).trip with
      | .retrying _ x => x
      | _ => 0
    let d := s.draw
    let s0 := if 736 ≤ peak && peak < 840 then d.2 else s
    let lasting := decide (840 ≤ peak) || (decide (736 ≤ peak) && d.1.getLsbD 0)
    if lasting then
      (((s0.goDark n).modPad n fun p => { p with trip := .lasting, left := false }).makeHole n 4 false).report .thermal (s.foldsOn n) n
    else
      ((s0.modPad n fun p => { p with trip := .none }).settlePad n).ring "paddock" false
        [("at", .pad n), ("event", .word "thermal-transient")])

/-! The coolant loop (R636, R644, R656). -/

/-- A coolant sensor after its read and its one repeat (R619). -/
def State.coolant (s : State) (addr : Nat) (r : Option Int) : State :=
  match r with
  | some _ => { s with unreach := s.unreach.filter (· ≠ addr) }
  | none =>
    if s.unreach.contains addr then s
    else (({ s with unreach := s.unreach ++ [addr] }).alert alPmbus).ring "pmbus" true
      [("device", .num addr), ("state", .word "unreachable")]

/-- The heat in microwatts: READ_VOUT times READ_IOUT over every stage. -/
def State.heat (s : State) : Nat := (s.telem.map fun p => (p.2.pages.map fun q => q.1 * q.2).sum).sum

/-- Whether a flow below `lpm` litres a minute is inferred from a heat and a rise; a negative rise counts as below and a zero rise as
forming no flow (DESIGN CHOICE, log entry 101). -/
def flowBelow (h : Nat) (rise : Int) (lpm : Nat) : Bool :=
  decide (4000000000 ≤ h) && decide (rise ≠ 0) && decide (60 * 128 * (h : Int) < lpm * 3978000000 * rise || rise < 0)

/-- The three conditions of R644, each none where a sensor that it needs is unreachable; with the outlet unreachable the inlet is held to
18–40 °C, since no flow is inferred (DESIGN CHOICE, log entry 101). -/
def loopConditions (inlet outlet : Option Int) (h : Nat) : List (Option Bool) :=
  match inlet, outlet with
  | some i, some o =>
    let top : Int := if flowBelow h (o - i) 36 then 35 else 40
    [some (decide (i < 18 * 128) || decide (top * 128 < i)), some (flowBelow h (o - i) 30),
     some (decide (128 * ((h : Int) + 3 * 2387000000) < (o - i) * 2387000000))]
  | some i, none => [some (decide (i < 18 * 128) || decide (40 * 128 < i)), none, none]
  | none, _ => [none, none, none]

/-- One condition: since when it holds, and whether its bell has rung; a bell, the tally and the alert after 10 s. -/
def State.loopOne (s : State) (i : Nat) (c : Option Bool) : State :=
  match c with
  | some true =>
    let st := ((s.loopSince.getD i none)).getD (s.now, false)
    if !st.2 && st.1 + 10 * second ≤ s.now then
      ((({ s with loopSince := listSet s.loopSince i (some (st.1, true)) }).count .shc (s.active.getD 0) thLoop).alert alLoop).ring "loop" true [("cause", .num i)]
    else { s with loopSince := listSet s.loopSince i (some st) }
  | _ => { s with loopSince := listSet s.loopSince i none }

def execLoopCheck (inlet outlet : Option Int) (t : Time) (s : State) : Host.Outcome State Fault Refusal :=
  .next (s.event t (fun s => s.active.isSome) fun s =>
    let s1 := (s.coolant 0x70 inlet).coolant 0x71 outlet
    let s2 : State := { s1 with inlet := inlet, outlet := outlet }
    let cs := loopConditions inlet outlet s2.heat
    (List.range 3).foldl (fun s i => s.loopOne i (cs.getD i none)) s2)

/-! Console (Table CMD-5). -/

/-- Tenths of a degree from a reading of `u` to the degree, to the nearest. -/
def tenths (x : Int) (u : Nat) : Int := (20 * x + u) / (2 * u)

/-- The inferred flow in 0.01 L/min; none where it is not formed. -/
def State.flow (s : State) : Option Nat :=
  match s.inlet, s.outlet with
  | some i, some o => if 4000000000 ≤ s.heat && i < o then some (100 * 60 * 128 * s.heat / (3978000000 * (o - i).toNat)) else none
  | _, _ => none

def tempVal (x : Option Int) (u : Nat) : Val :=
  match x with
  | some v => if v = noTemp then .word "none" else .deci (tenths v u)
  | none => .word "none"

def execShowThermal (ln : Ln) (s : State) : Host.Outcome State Fault Refusal :=
  .next (s.judged ln .view true fun s =>
    let rise : Option Int := match s.inlet, s.outlet with
      | some i, some o => some (o - i)
      | _, _ => none
    s.parts ln ((List.range 84).map fun f =>
        let x := s.field f
        [("field", .num f), ("temp", tempVal (s.fieldTemp f) 8), ("n_min", .num (s.minN f)),
         ("throttle", .word (if !x.throttle then "off" else if x.heldNow then "held" else "on")),
         ("widened", .num (if x.widened.isEmpty then 0 else 1))])
      [("inlet", tempVal s.inlet 128), ("outlet", tempVal s.outlet 128), ("rise", tempVal rise 128),
       ("heat_w", .num (s.heat / 1000000)), ("flow_lpm", match s.flow with
          | some v => .num (v / 100)
          | none => .word "none")])

/-- `show sensors` of a paddock or a die. -/
def execShowSensors (at_ : Sum Loc DieName) (ln : Ln) (s : State) : Host.Outcome State Fault Refusal :=
  .next (s.judged ln .view true fun s =>
    let one (j : Int) (kv : KVs) : State := s.parts ln [([("junction", tempVal (some j) 8)] : KVs) ++ kv] []
    match at_ with
    | .inl (.pad c r) =>
      if c < 28 && r < 48 then
        let p := s.pad (padAt c r)
        let line (i : Nat) (v : Int) (f : Bool) : KVs :=
          [("sensor", .num i), ("temp", tempVal (if f then none else some v) 8), ("state", .word (if f then "failed" else "ok"))]
        s.parts ln [line 0 p.s0 p.fail0, line 1 p.s1 p.fail1] []
      else s.err ln 401 [("object", .word "location")]
    | .inl _ => s.err ln 401 [("object", .word "location")]
    | .inr (.ned k) => if k < 24 then one (s.nedTemp.getD k (noTemp, 0)).1 [] else s.err ln 401 [("object", .word "die")]
    | .inr (.spd k) => if k < 16 then one (s.spdTemp.getD k (noTemp, 0)).1 [] else s.err ln 401 [("object", .word "die")]
    | .inr (.med k) =>
      if k < 12 then one (s.medTemp.getD k (noTemp, 0)).1
        [("stack", tempVal ((s.med k).temp.map fun (x : Nat) => (x : Int)) 1), ("refresh", .word (if (s.med k).tempRow = 0 then "1x" else "2x"))]
      else s.err ln 401 [("object", .word "die")]
    | .inr (.shc k) => if k < 2 then one (s.shc k).temp [] else s.err ln 401 [("object", .word "die")])

end Sys2Proof.Machine
end

