-- ==== Sys2Proof/Machine/MapCmds.lean ====
section
/-! DEFINITION. The wafer-map commands (R57–R59, R63, R68, R829, Table MAP-6, Table MAP-7, Table MAP-8, Table CMD-6). -/
namespace Sys2Proof.Machine

open Sys2Proof

/-- A paddock entry (Table MAP-7). -/
def MapEntry.code (e : MapEntry) : Nat :=
  e.st % 4 + 4 * (if e.st = 1 then e.col % 64 else 63) + 256 * (if e.st = 2 then e.cause % 16 else 0)

/-- The record of a copy up to its tag (Table MAP-6). -/
def MapCopy.body (m : MapCopy) : List Byte :=
  leBytes 4 0x50414D4B ++ leBytes 2 1 ++ leBytes 1 m.stepping ++ leBytes 1 (if m.full then 1 else 0) ++ leBytes 4 m.seq ++ leBytes 8 m.serial
    ++ (m.counts.flatMap fun c => leBytes 2 c) ++ leBytes 2 0
    ++ leBytes 4 m.time
    ++ ((List.range 1344).flatMap fun n => leBytes 2 (tabGet MapEntry.initial m.entries n).code)
    ++ ((List.range 84).map fun f =>
        BitVec.ofNat 8 ((if m.latched.contains f then 1 else 0) + if m.excluded.contains f then 2 else 0))
    ++ List.replicate 12 0

/-- The whole record of 2,832 bytes, its tag last. -/
def MapCopy.record (m : MapCopy) : List Byte := m.body ++ slice (Config.hmac (textBytes "KMAP") m.body) 0 16

/-- `show map`: counts, or the entries of a list of locations. -/
def execShowMap (at_ : Option (List Loc)) (ln : Ln) (s : State) : Host.Outcome State Fault Refusal :=
  .next (s.judged ln .view true fun s =>
    match at_ with
    | none =>
      s.ok ln [("good", .num (mapCount s.map 0)), ("spare", .num (mapCount s.map 1)), ("hole", .num (mapCount s.map 2)),
        ("reserve", .num (mapCount s.map 3)),
        ("latched", .num ((List.range 84).filter fun f => (s.field f).latched).length),
        ("excluded", .num ((List.range 84).filter fun f => (s.field f).excluded).length),
        ("seq", .num (newerSeq s)), ("full", .num (if s.boot.full then 1 else 0))]
    | some ls =>
      match locList ls with
      | none => s.err ln 401 [("object", .word "location")]
      | some ps =>
        s.parts ln (ps.map fun n =>
          let e := s.entry n
          [("at", .pad n), ("state", .word (if e.st = 0 then "good" else if e.st = 1 then "spare-remapped" else if e.st = 2 then "hole" else "reserve")),
           ("column", .num (if e.st = 1 then e.col else 63)), ("cause", .num (if e.st = 2 then e.cause else 0))]) [])

/-- `export map`: the running map is written first when it differs from the newer copy, and that copy is exported in pieces of
128 bytes (R63, R829, R845). -/
def execExportMap (ln : Ln) (s : State) : Host.Outcome State Fault Refusal :=
  .next (s.judged ln .view true fun s =>
    if s.mapChanged && !s.flashTakes ln then s.flashErr ln "map"
    else
      let s1 := if s.mapChanged then s.writeMap s.boot.full true else s
      match s1.validMap with
      | none => s1.flashErr ln "map"
      | some m =>
        let r := m.record
        let ps : List KVs := (List.range 23).map fun i => [("off", .num (128 * i)), ("data", .bytes (slice r (128 * i) 128))]
        s1.parts ln ps [("seq", .num m.seq), ("size", .num 2832)])

/-- Whether a migration has claimed a paddock as its target (R68). -/
def State.claimed (s : State) (n : Nat) : Bool :=
  s.folds.any fun (f : Fold) => match f.recovery with
    | some r => !r.committed && r.moves.any fun m => m.2 = n
    | none => false

/-- The reserves of a field. -/
def State.reserves (s : State) (f : Nat) : Nat := ((fieldPads f).filter fun n => (s.entry n).st = 3).length

/-- `set reserve`: designate a GOOD, unleased C-paddock, or release a reserve (R59, R68, R718). -/
def execSetReserve (c r : Nat) (on : Bool) (ln : Ln) (s : State) : Host.Outcome State Fault Refusal :=
  .next (s.judged ln .operate false fun s =>
    if !(c < 28 && r < 48) then s.err ln 401 [("object", .word "location")]
    else
      let n := padAt c r
      let f := fieldOf n
      let e := s.entry n
      let bad := if on then
          (s.pad n).leased || isFine n || e.st = 2 || (s.field f).excluded || (s.field f).latched || (e.st ≠ 3 && decide (2 ≤ s.reserves f))
        else e.st ≠ 3
      if s.claimed n then s.err ln 403 [("object", .word "paddock")]
      else if bad then s.err ln 504 [("at", .pad n)]
      else
        let s1 := s.setEntry n (if on then ⟨3, 63, 0⟩ else MapEntry.initial)
        let s2 := s1.modField f fun x => { x with noReserve := decide (s1.reserves f = 0) }
        let s3 := if on && (s2.pad n).opDark then
            (s2.modPad n fun p => { p with opDark := false }).enqueueWave n .graze else s2
        s3.mirror.ok ln [("reserves", .num (s3.reserves f))])

/-- `set exclude`: the field entry's excluded bit, while no paddock of the field is leased. -/
def execSetExclude (x y : Nat) (on : Bool) (ln : Ln) (s : State) : Host.Outcome State Fault Refusal :=
  .next (s.judged ln .operate false fun s =>
    if !(x < 7 && y < 12) then s.err ln 401 [("object", .word "location")]
    else
      let f := 7 * y + x
      if (fieldPads f).any fun n => (s.pad n).leased then
        s.err ln 404 [("object", .word "field"), ("state", .word "leased")]
      else
        (s.modField f fun z => { z with excluded := on }).mirror.ok ln [("field", .num f), ("excluded", .num (if on then 1 else 0))])

end Sys2Proof.Machine
end

