-- ==== Sys2Proof/Machine/Registers.lean ====
section
/-! DEFINITION. The management registers: what each occupied address reads, the four registers a poke writes, and the commands
that read and write them (*Management register reference*, R872–R894, Table REG-1 to Table REG-9a, Table CMD-15). -/
namespace Sys2Proof.Machine

open Sys2Proof

/-- A register from its fields: place of the lowest bit and value. -/
def fieldsOf (l : List (Nat × Nat)) : Nat := l.foldl (fun a p => a + 2 ^ p.1 * p.2) 0

def bit (b : Bool) : Nat := if b then 1 else 0

/-- A temperature field (R876). -/
def tempField (x : Option Int) : Nat :=
  match x with
  | some v => (BitVec.ofInt 16 v).toNat
  | none => 0x8000

/-- One word of the tallies of a group: word `i` of tally `i / 2` (R875). -/
def State.tallyWord (s : State) (scope : TScope) (id i : Nat) (place : Nat → Nat) : Nat :=
  let v := (s.tally ⟨scope, id, place (i / 2)⟩).toNat
  if i % 2 = 0 then v % 2 ^ 32 else v / 2 ^ 32

/-! The shepherd controller block (Table REG-2). -/

def busField (b : BusSt) : Nat := fieldsOf [(0, b.mv / 10 % 8192), (13, if b.range then 2 else if b.low then 1 else 0)]

def State.regShc (s : State) (o : Nat) : Option Nat :=
  let a := s.active.getD 0
  let c := s.shc a
  let coolField (x : Option Int) : Nat := tempField x
  match o with
  | 0x00 => some (fieldsOf [(0, 0x0700), (16, s.fuses.mfr % 2048)])
  | 0x04 => some (fieldsOf [(0, 2), (4, a), (8, s.me % 16)])
  | 0x08 => some (s.fuses.serial.toNat % 2 ^ 32)
  | 0x0C => some (s.fuses.serial.toNat / 2 ^ 32)
  | 0x10 => some (fieldsOf [(0, if s.boot.halted then 7 else phaseNum s.boot.phase), (3, s.sel), (4, bit ((s.shc (1 - a)).st = .ok && c.heard)),
      (5, bit s.faultN), (6, bit s.alertN), (7, bit s.ready), (8, bit !s.boot.full), (9, s.fuses.svn % 64),
      (16, bit c.viaShcl + bit c.viaLane0)])
  | 0x14 => some (c.firmware % 2 ^ 32)
  | 0x18 => some 0
  | 0x1C => some s.alertCause.toNat
  | 0x20 => some (busField s.busA)
  | 0x24 => some (busField s.busB)
  | 0x28 => some (bit s.shared)
  | 0x2C => some (fieldsOf [(0, s.totalPin / 1000 % 65536), (16, checkWatts s.coreSum % 65536)])
  | 0x30 => some (coolField s.inlet)
  | 0x34 => some (coolField s.outlet)
  | 0x38 => some (match s.flow with
      | some v => if v < 65535 then v else 65535
      | none => 65535)
  | 0x40 => some (s.clock / second % 2 ^ 32)
  | 0x44 => some (s.clock % second / 100)
  | 0x48 => some s.scratch.toNat
  | _ => if 0x100 ≤ o && o < 0x130 then some (s.tallyWord .shc a ((o - 0x100) / 4) id) else none

/-! The paddock control block (Table REG-3). -/

def detourCode (l : LinkEnd) : Nat :=
  match l.detour with
  | some (.shift _) => 1
  | some (.around _) => 2
  | some .transit => 3
  | none => 0

def powerCode : Power → Nat
  | .run => 0
  | .graze => 1
  | .dark => 2

def fuseCode : Fuse → Nat
  | .closed => 0
  | .tripped _ => 1
  | .retrying => 1
  | .latched => 2

def ctxCode : CtxState → Nat
  | .free => 0
  | .staged => 1
  | .standby => 2
  | .live => 3
  | .retiring => 4

/-- The fixed registers of paddock `n`; the core current is a measured value that no command brings, and comes as `amps`. -/
def State.regPad (s : State) (n o amps : Nat) : Option Nat :=
  let p := s.pad n
  let e := s.entry n
  let shared := p.excl = 0 && p.slots.any (· ≠ 0)
  match o with
  | 0x000 => some (fieldsOf [(0, bit !isFine n), (1, n), (12, e.st), (14, if e.st = 1 then e.col else 63), (20, if e.st = 2 then e.cause else 0)])
  | 0x004 => some (fieldsOf [(0, powerCode p.power), (2, p.n % 64), (8, bit p.hurdled), (9, bit p.masked), (10, bit p.yoke.isSome),
      (11, bit (match p.yoke with
        | some y => y.members.head? = some n
        | none => false)), (12, fuseCode p.fuse), (16, amps % 4096)])
  | 0x008 => some (fieldsOf [(0, if p.excl ≠ 0 then 1 else bit shared * 2), (2, p.excl % 64)])
  | 0x00C => some (fieldsOf ((List.range 4).flatMap fun k => [(8 * k, tabGet 0 p.stile k % 64), (8 * k + 6, bit (p.loading.contains k))]))
  | 0x010 => some (fieldsOf ((List.range 4).flatMap fun k =>
      [(4 * k, ctxCode (p.ctx k).st), (4 * k + 3, bit (p.plan.contains k)), (16 + 3 * k, (p.ctx k).epoch.toNat)]))
  | 0x014 => some (if isFine n then 0 else fieldsOf ((List.range 4).map fun k => (k, bit (tabGet false p.coarse.sat k))))
  | 0x018 => some (tempField (if p.fail0 then none else some p.s0))
  | 0x01C => some (tempField (if p.fail1 then none else some p.s1))
  | _ =>
    let i := (o % 16) / 4
    if o < 0x20 then none
    else if o < 0x30 then some ((p.ctx i).t % 2 ^ 32)
    else if o < 0x40 then some (s.occupancy n i % 2 ^ 24)
    else if o < 0x50 then some ((p.ctx i).slips % 2 ^ 31)
    else if o < 0x60 then
      some (fieldsOf ((List.range 4).flatMap fun l =>
        let x := s.link (padEnd n i) l
        [(4 * l, bit x.lastingDown), (4 * l + 1, detourCode x)]))
    else none

/-- The tallies of paddock `n`. -/
def State.regPadTally (s : State) (n o : Nat) : Option Nat :=
  if 0x100 ≤ o && o < 0x158 then
    let i := (o - 0x100) / 4
    some (if i / 2 < 9 then s.tallyWord .paddock n i id else s.tallyWord .paddock (fieldTally (fieldOf n)) i id)
  else if 0x200 ≤ o && o < 0x280 then some (s.tallyWord .paddock n (o % 32 / 4) (tdCtx ((o - 0x200) / 32)))
  else if 0x280 ≤ o && o < 0x2C0 then some (s.tallyWord .paddock n (o % 16 / 4) fun j => tdCtx ((o - 0x280) / 16) (4 + j))
  else if 0x2C0 ≤ o && o < 0x2C8 then some (s.tallyWord .paddock n (o % 8 / 4) fun _ => tdThrottledS)
  else if 0x400 ≤ o && o < 0x800 then
    some (s.tallyWord .link (linkId (padEnd n ((o - 0x400) / 256)) (o % 256 / 64)) (o % 64 / 4) id)
  else none

/-! The field controller block (Table REG-4). -/

def throttleCode (x : Field) : Nat := if !x.throttle then 0 else if x.heldNow then 2 else 1

def stageCode (x : Field) : Nat :=
  if x.latched then 2
  else match x.stage with
    | .on => 0
    | .off => 3
    | .shutdown _ _ => 1
    | .retrying _ => 1

/-- Field `f`; the two measured rails come as `mv`. -/
def State.regField (s : State) (f o mv : Nat) : Option Nat :=
  let x := s.field f
  match o with
  | 0x000 => some (fieldsOf [(0, f), (7, f % 7), (10, f / 7), (14, bit x.latched), (15, bit x.excluded)])
  | 0x004 => some (fieldsOf [(0, x.vcore % 1024), (16, if x.stage = .on then mv % 1024 else 0)])
  | 0x008 => some (if x.ringOn then mv % 1024 else 0)
  | 0x00C => some (fieldsOf [(0, stageCode x), (2, throttleCode x), (4, bit !x.widened.isEmpty), (5, bit (x.ringOn && !x.ringLost)),
      (6, bit x.injector.isSome), (8, x.injector.getD 0x7FF % 2048)])
  | 0x010 => some (tempField (s.fieldTemp f))
  | 0x014 => some (s.minN f % 64)
  | 0x018 => some (fieldsOf ((List.range 8).map fun i => (4 * i, s.spdSub i)))
  | 0x01C => some (fieldsOf ((List.range 8).map fun i => (4 * i, s.spdSub (i + 8))))
  | _ =>
    if 0x100 ≤ o && o < 0x120 then
      some (s.tallyWord .paddock (fieldTally f) ((o - 0x100) / 4) fun j => ([tdSupply, tdThrottle, tdRing, tdStage] : List Nat).getD j 0)
    else none

/-! Edge dies (Table REG-5 to Table REG-9a). -/

/-- A die's edge and slot from its destination index (Table MAP-4). -/
def dieSlot (d : Nat) : Nat := ((List.range 13).find? fun q => slotDie (dieEdge d) q = d).getD 0

def modeCode (m : Nat) : Nat := if m = 400 then 0 else if m = 200 then 1 else if m = 100 then 2 else 3

def txCode : TxState → Nat
  | .squelched => 0
  | .idle => 1
  | .live => 2

def State.regNed (s : State) (k o : Nat) : Option Nat :=
  let n := s.ned k
  let ptp := match s.ptpPort with
    | some q => if q.1 = k then some q.2 else none
    | none => none
  match o with
  | 0x00 => some (fieldsOf [(0, k), (5, dieEdge (nedDest k)), (7, dieSlot (nedDest k))])
  | 0x04 => some (fieldsOf [(0, modeCode n.mode0), (2, modeCode n.mode1), (4, bit n.doubt),
      (5, bit ((List.range 84).any fun f => (s.field f).injector = some (nedDest k))), (8, ptp.getD 0), (11, bit ptp.isSome),
      (16, min 65535 (n.reqs.filter fun r => r.tag ≠ 0).length)])
  | 0x08 => some (tempField ((s.nedTemp[k]?).map (·.1)))
  | 0x0C => some (s.clock / second % 2 ^ 32)
  | 0x10 => some (s.clock / second / 2 ^ 32 % 65536)
  | 0x14 => some (s.clock % second / 100)
  | 0x20 => some (n.burstRate % 2 ^ 29)
  | 0x24 => some (n.burstDepth % 65536)
  | 0x28 => some (n.cellsUsed % 2 ^ 19)
  | 0x3000 => some (s.wsel.getD k 0).toNat
  | 0x307C => some (s.wstat.getD k 0).toNat
  | _ =>
    if 0x100 ≤ o && o < 0x200 then
      let p := (o - 0x100) / 32
      let x := n.port p
      match o % 32 with
      | 0x00 => some (fieldsOf [(0, txCode x.state),
          (2, if portExists (n.modeOf p) p then (if n.modeOf p = 400 then 3 else if n.modeOf p = 200 then 2 else 1) else 0),
          (4, bit x.fault), (8, x.defTemplate % 2048)])
      | 0x04 => some (x.mac.toNat % 2 ^ 32)
      | 0x08 => some (x.mac.toNat / 2 ^ 32)
      | 0x0C => some x.eq.toNat
      | _ => none
    else if 0x1000 ≤ o && o < 0x1400 then some (s.tallyWord .port (8 * k + (o - 0x1000) / 128) (o % 128 / 4) id)
    else if 0x2000 ≤ o && o < 0x2028 then some (s.tallyWord .ned k ((o - 0x2000) / 4) id)
    else if 0x3080 ≤ o && o < 0x3100 then some ((s.shadow.getD k []).getD ((o - 0x3080) / 4) 0).toNat
    else none

/-- How many pages of a MED are in a state. -/
def Med.pagesIn (m : Med) (st : Nat) : Nat := ((List.range 12288).filter fun g => leState (m.lease g) = st).length

def State.regMed (s : State) (k o : Nat) : Option Nat :=
  let m := s.med k
  match o with
  | 0x00 => some (fieldsOf [(0, k), (4, dieEdge (medDest k)), (6, dieSlot (medDest k))])
  | 0x04 => some (fieldsOf [(0, bit m.doubt), (1, bit m.selfRefresh), (2, bit m.rotOn), (3, bit m.slow),
      (4, if m.selfRefresh then 2 else if m.tempRow = 0 then 0 else 1), (8, m.queue.length % 1024), (18, ceilDiv m.wq.length 4 % 512)])
  | 0x08 => some (tempField ((s.medTemp[k]?).map (·.1)))
  | 0x0C => some (tempField (m.temp.map fun (x : Nat) => 8 * (x : Int)))
  | 0x10 => some (if tabGet 0 s.boot.dies (medDest k) = 0 then 0 else fieldsOf [(0, m.pagesIn 0), (16, m.pagesIn 2)])
  | 0x14 => some (m.pagesIn 3)
  | _ =>
    if 0x20 ≤ o && o < 0x30 then
      some (fieldsOf ((List.range 4).map fun i => (8 * i, m.rotSlots.getD (4 * ((o - 0x20) / 4) + i) 0 % 64)))
    else if 0x100 ≤ o && o < 0x148 then some (s.tallyWord .med k ((o - 0x100) / 4) id)
    else if 0x10000 ≤ o && o < 0x28000 then
      let e := (m.lease ((o - 0x10000) / 8)).toNat
      some (if o % 8 = 0 then e % 2 ^ 32 else e / 2 ^ 32)
    else none

def spanCode : SpanState → Nat
  | .squelched => 0
  | .training => 1
  | .up => 2
  | .down => 3
  | .refused => 4

def State.regSpd (s : State) (k o : Nat) : Option Nat :=
  let d := s.spd k
  let relay := if s.spanUp k || !s.flockUp then none else s.relayFor d.peerWafer
  match o with
  | 0x0 => some (fieldsOf [(0, k), (4, dieEdge (spdDest k)), (6, dieSlot (spdDest k))])
  | 0x4 => some (fieldsOf [(0, spanCode d.state), (3, bit (d.width ≠ 0)), (4, bit (d.width = 2)), (5, bit d.doubt), (6, bit relay.isSome),
      (7, bit (relay = some none)), (8, d.peerWafer % 16), (12, d.peerSpd % 16), (16, d.delay % 1024),
      (26, match relay with
        | some (some v) => v % 16
        | _ => 0)])
  | 0x8 => some (tempField ((s.spdTemp[k]?).map (·.1)))
  | _ =>
    if 0x100 ≤ o && o < 0x200 then
      let id := (o - 0x100) / 4
      some (if id = 0 then 0 else (tabGet 0 d.flockFold id).toNat)
    else if 0x200 ≤ o && o < 0x248 then some (s.tallyWord .spd k ((o - 0x200) / 4) id)
    else none

/-! The address map (Table REG-1, R878, R879). -/

/-- What the register at an address holds; none where none is. Measured values come as `v`. -/
def State.regAt (s : State) (addr v : Nat) : Option Nat :=
  if addr % 4 ≠ 0 then none
  else if addr < 0x01000000 then s.regShc addr
  else if addr < 0x01000000 + 24 * 0x40000 then s.regNed ((addr - 0x01000000) / 0x40000) (addr % 0x40000)
  else if 0x02000000 ≤ addr && addr < 0x02000000 + 12 * 0x40000 then s.regMed ((addr - 0x02000000) / 0x40000) (addr % 0x40000)
  else if 0x03000000 ≤ addr && addr < 0x03000000 + 16 * 0x40000 then s.regSpd ((addr - 0x03000000) / 0x40000) (addr % 0x40000)
  else if 0x08000000 ≤ addr && addr < 0x08000000 + 1344 * 0x1000 then
    let n := (addr - 0x08000000) / 0x1000
    let o := addr % 0x1000
    (s.regPad n o (if (s.pad n).power = .dark then 0 else v)).or (s.regPadTally n o)
  else if 0x09000000 ≤ addr && addr < 0x09000000 + 84 * 0x1000 then s.regField ((addr - 0x09000000) / 0x1000) (addr % 0x1000) v
  else none

/-- The address of SHC_ALERTCAUSE. -/
abbrev aAlertCause : Nat := 0x1C

/-- Read one register: its value, and the state after it. Only SHC_ALERTCAUSE has an effect; a measured value is free. -/
def State.readReg (s : State) (addr : Nat) : Option Nat × State :=
  let d := s.draw
  let r := s.regAt addr d.1.toNat
  if addr = aAlertCause then (r, { s with alertCause := 0 })
  else if r ≠ s.regAt addr (d.1.toNat + 1) then (r, d.2)
  else (r, s)

/-! The registers a poke writes (Table REG-9). -/

/-- The registers a poke may write. -/
inductive Writable where
  | faultAck | scratch | sat (n : Nat) | wsel (k : Nat)
deriving DecidableEq, Repr

def writableAt (addr : Nat) : Option Writable :=
  if addr = 0x18 then some .faultAck
  else if addr = 0x48 then some .scratch
  else if 0x08000000 ≤ addr && addr < 0x08000000 + 1344 * 0x1000 && addr % 0x1000 = 0x14 then some (.sat ((addr - 0x08000000) / 0x1000))
  else if 0x01000000 ≤ addr && addr < 0x01000000 + 24 * 0x40000 && addr % 0x40000 = 0x3000 then some (.wsel ((addr - 0x01000000) / 0x40000))
  else none

/-- Clear SAT bits of a C-paddock (R277). -/
def State.clearSat (s : State) (n : Nat) (v : Word) : State :=
  s.modPad n fun p =>
    let left : Tab Bool := (List.range 4).foldl (fun (t : Tab Bool) k => if v.getLsbD k then tabSet false t k false else t) p.coarse.sat
    { p with coarse := { p.coarse with sat := left } }

/-- The template entry of the window (Table REG-7). -/
def templateWords (t : Template) : List Word :=
  let v := match t.vlan with
    | .none => (0, 0)
    | .request => (1, 0)
    | .fixed x => (2, x % 4096)
  [BitVec.ofNat 32 (fieldsOf [(0, v.1), (2, v.2), (14, t.pcp % 8), (17, t.dscp % 64), (23, bit t.csum), (24, bit !t.fill)]),
   BitVec.ofNat 32 (fieldsOf [(0, t.ttl % 256), (8, t.resLen % 4096)]),
   BitVec.ofNat 32 t.mac.toNat, BitVec.ofNat 32 (t.mac.toNat / 2 ^ 32)]

/-- The bucket entry of the window. -/
def bucketWords (b : Bucket) : List Word :=
  [BitVec.ofNat 32 (fieldsOf [(0, b.fold % 64), (6, bit b.burst), (7, bit b.pen), (16, b.depth % 65536)]),
   BitVec.ofNat 32 (b.rate % 2 ^ 29), BitVec.ofNat 32 b.level]

/-- Whether the index lies in its table. -/
def windowHolds (table index : Nat) : Bool := decide (index < (if table = 1 then 2048 else 8192))

/-- The entry a selection names, as 32 shadow words; zeros beyond the table. -/
def State.windowWords (s : State) (k table index : Nat) : List Word :=
  let n := s.ned k
  let ws : List Word :=
    if !windowHolds table index then []
    else if table = 0 then (n.binding index).w
    else if table = 1 then templateWords (n.template index)
    else if table = 2 then bucketWords ((n.bucket index).refill s.now)
    else (List.range 30).map fun i => BitVec.ofNat 32 (s.tallyWord .binding (8192 * k + index) i id)
  (ws ++ List.replicate 32 0).take 32

/-- A write of NED_WSEL: the entry is copied into the shadow, and WSTAT names it (R884). -/
def State.loadWindow (s : State) (k : Nat) (v : Word) : State :=
  let table := bitsOf v 0 2
  let index := bitsOf v 2 13
  { s with
    wsel := listSet s.wsel k (BitVec.ofNat 32 (table + 4 * index))
    wstat := listSet s.wstat k (BitVec.ofNat 32 (fieldsOf [(0, 1), (1, bit !windowHolds table index), (2, table), (4, index)]))
    shadow := listSet s.shadow k (s.windowWords k table index) }

/-- Write a value to a writable register, W1C bits outside the mask as 0 (R874, R885). -/
def State.writeReg (s : State) (w : Writable) (v mask : Word) : State :=
  match w with
  | .faultAck => if (v &&& mask).getLsbD 0 then s.ack else s
  | .scratch => { s with scratch := (s.scratch &&& ~~~mask) ||| (v &&& mask) }
  | .sat n => s.clearSat n (v &&& mask)
  | .wsel k => s.loadWindow k (((s.wsel.getD k 0) &&& ~~~mask) ||| (v &&& mask))

/-- Whether a register takes a write now: a paddock's block whose always-on rail is off refuses it (R879). -/
def State.writesTo (s : State) (w : Writable) : Bool :=
  match w with
  | .sat n => (s.field (fieldOf n)).ringOn
  | _ => true

/-- A poke: E-604 where no register is, `read-only` where nothing may be written, otherwise the write and its read-back. -/
def State.poke (s : State) (ln : Ln) (addr : Nat) (v mask : Word) : State :=
  if (s.regAt addr 0).isNone then s.err ln 604 [("addr", .hex addr)]
  else
    match writableAt addr with
    | none => s.refuse ln "read-only"
    | some w =>
      if !s.writesTo w then s.refuse ln "read-only"
      else
        let s1 := s.writeReg w v mask
        s1.ok ln [("addr", .hex addr), ("value", .hex ((s1.regAt addr 0).getD 0))]

/-! Console (Table CMD-15). -/

/-- Read registers one after another, a `part` line each; the first unoccupied address ends the command (R795). -/
def State.peekFrom (ln : Ln) (addr : Nat) : Nat → Nat → State → State
  | 0, done, s => s.ok ln [("count", .num done)]
  | n + 1, done, s =>
    let r := s.readReg (addr + 4 * done)
    match r.1 with
    | some v => State.peekFrom ln addr n (done + 1) (r.2.answer ln (.part [("addr", .hex (addr + 4 * done)), ("value", .hex v)]))
    | none => s.err ln 604 [("addr", .hex (addr + 4 * done))]

/-- `peek`: 1 to 64 consecutive registers from a multiple of 4. -/
def execPeek (addr : Nat) (count : Option Nat) (ln : Ln) (s : State) : Host.Outcome State Fault Refusal :=
  .next (s.judged ln .view true fun s =>
    s.inRange ln "count" (count.getD 1) 1 64 fun s => State.peekFrom ln addr (count.getD 1) 0 s)

/-- `poke`: with a mask, a read-modify-write. -/
def execPoke (addr : Nat) (value : BitVec 32) (mask : Option (BitVec 32)) (ln : Ln) (s : State) : Host.Outcome State Fault Refusal :=
  .next (s.judged ln .admin false fun s => s.poke ln addr value (mask.getD 0xFFFFFFFF))

/-- A write of SHC_FAULTACK: 1 acts as `ack fault`; it reads back 0. -/
def execShcFaultackWrite (value : BitVec 32) (ln : Ln) (s : State) : Host.Outcome State Fault Refusal :=
  .next (s.judged ln .admin false fun s => s.poke ln 0x18 value 0xFFFFFFFF)

/-- A write of PCB_SAT. -/
def execPcbSatClear (n : Pad) (value : BitVec 32) (ln : Ln) (s : State) : Host.Outcome State Fault Refusal :=
  .next (s.judged ln .admin false fun s => s.poke ln (0x08000000 + n.val * 0x1000 + 0x14) value 0xFFFFFFFF)

/-- A write of NED_WSEL. -/
def execNedWselWrite (k : NedIx) (value : BitVec 32) (ln : Ln) (s : State) : Host.Outcome State Fault Refusal :=
  .next (s.judged ln .admin false fun s => s.poke ln (0x01000000 + k.val * 0x40000 + 0x3000) value 0xFFFFFFFF)

/-- A read of SHC_ALERTCAUSE: the latched bits, and they are cleared (R889). -/
def execShcAlertcauseRead (ln : Ln) (s : State) : Host.Outcome State Fault Refusal :=
  .next (s.judged ln .view true fun s => State.peekFrom ln aAlertCause 1 0 s)

end Sys2Proof.Machine
end

