-- ==== Sys2Proof/Machine/Dispatch.lean ====
section
/-! DEFINITION. The one place where a command meets its meaning. -/
namespace Sys2Proof.Machine

open Sys2Proof

def exec (i : Instr) (s : State) : Host.Outcome State Fault Refusal :=
  match i with
  | .resetAssert t => Sys2Proof.Machine.execResetAssert t s
  | .resetRelease jtagEn t => Sys2Proof.Machine.execResetRelease jtagEn t s
  | .pwrFailAssert t => Sys2Proof.Machine.execPwrFailAssert t s
  | .pwrFailNedStop t => Sys2Proof.Machine.execPwrFailNedStop t s
  | .pwrFailFlashFreeze t => Sys2Proof.Machine.execPwrFailFlashFreeze t s
  | .pwrFailDeassert t => Sys2Proof.Machine.execPwrFailDeassert t s
  | .busSample shc mvA mvB t => Sys2Proof.Machine.execBusSample shc mvA mvB t s
  | .railDeparture f vaon mv t => Sys2Proof.Machine.execRailDeparture f vaon mv t s
  | .vcoreRecoveryVerdict f back t => Sys2Proof.Machine.execVcoreRecoveryVerdict f back t s
  | .railStep f t => Sys2Proof.Machine.execRailStep f t s
  | .powerWaveStart t => Sys2Proof.Machine.execPowerWaveStart t s
  | .softStartComplete n t => Sys2Proof.Machine.execSoftStartComplete n t s
  | .efuseTrip n milliamps t => Sys2Proof.Machine.execEfuseTrip n milliamps t s
  | .efuseRetry n t => Sys2Proof.Machine.execEfuseRetry n t s
  | .efuseRetryVerdict n peak t => Sys2Proof.Machine.execEfuseRetryVerdict n peak t s
  | .fieldStageShutdown f vaon t => Sys2Proof.Machine.execFieldStageShutdown f vaon t s
  | .fieldRetry f t => Sys2Proof.Machine.execFieldRetry f t s
  | .fieldRetryVerdict f held t => Sys2Proof.Machine.execFieldRetryVerdict f held t s
  | .pmbAlert addr status t => Sys2Proof.Machine.execPmbAlert addr status t s
  | .telemetryRead reads t => Sys2Proof.Machine.execTelemetryRead reads t s
  | .pmbusRetryPoll r t => Sys2Proof.Machine.execPmbusRetryPoll r t s
  | .clockStep n t => Sys2Proof.Machine.execClockStep n t s
  | .islandClockLoss n t => Sys2Proof.Machine.execIslandClockLoss n t s
  | .clockRelockVerdict n locked held t => Sys2Proof.Machine.execClockRelockVerdict n locked held t s
  | .ringLoss f t => Sys2Proof.Machine.execRingLoss f t s
  | .ringRelockVerdict f locked held t => Sys2Proof.Machine.execRingRelockVerdict f locked held t s
  | .meshLock worstPpm t => Sys2Proof.Machine.execMeshLock worstPpm t s
  | .referenceAbsent edge t => Sys2Proof.Machine.execReferenceAbsent edge t s
  | .referenceAbsentLong edge t => Sys2Proof.Machine.execReferenceAbsentLong edge t s
  | .referenceReturn edge t => Sys2Proof.Machine.execReferenceReturn edge t s
  | .sensorSample x t => Sys2Proof.Machine.execSensorSample x t s
  | .throttleEval f t => Sys2Proof.Machine.execThrottleEval f t s
  | .thermalTripRetry n t => Sys2Proof.Machine.execThermalTripRetry n t s
  | .thermalRetryVerdict n t => Sys2Proof.Machine.execThermalRetryVerdict n t s
  | .loopCheck inlet outlet t => Sys2Proof.Machine.execLoopCheck inlet outlet t s
  | .linkBeatSend x lane t => Sys2Proof.Machine.execLinkBeatSend x lane t s
  | .beatReceived x lane vc0 vc1 b t => Sys2Proof.Machine.execBeatReceived x lane vc0 vc1 b t s
  | .replayTimeout x lane t => Sys2Proof.Machine.execReplayTimeout x lane t s
  | .replayDownTimeout x lane t => Sys2Proof.Machine.execReplayDownTimeout x lane t s
  | .receiverSilence x lane t => Sys2Proof.Machine.execReceiverSilence x lane t s
  | .lane0Precompile t => Sys2Proof.Machine.execLane0Precompile t s
  | .dockTransfer n t => Sys2Proof.Machine.execDockTransfer n t s
  | .fineIssueCycle n fault t => Sys2Proof.Machine.execFineIssueCycle n fault t s
  | .watchdogExpiry n k t => Sys2Proof.Machine.execWatchdogExpiry n k t s
  | .contextLeavePlan n k t => Sys2Proof.Machine.execContextLeavePlan n k t s
  | .coarseIssueCycle n fault t => Sys2Proof.Machine.execCoarseIssueCycle n fault t s
  | .eccRereadVerdict n m good t => Sys2Proof.Machine.execEccRereadVerdict n m good t s
  | .residueVerdict n v good t => Sys2Proof.Machine.execResidueVerdict n v good t s
  | .hbmxReturn n m t => Sys2Proof.Machine.execHbmxReturn n m t s
  | .memReqReceived k e lane vc t => Sys2Proof.Machine.execMemReqReceived k e lane vc t s
  | .hbmBurstRead k j sev t => Sys2Proof.Machine.execHbmBurstRead k j sev t s
  | .hbmRereadVerdict k good t => Sys2Proof.Machine.execHbmRereadVerdict k good t s
  | .stackTempRead k read t => Sys2Proof.Machine.execStackTempRead k read t s
  | .pageScrub k page t => Sys2Proof.Machine.execPageScrub k page t s
  | .rotationSlot k t => Sys2Proof.Machine.execRotationSlot k t s
  | .medDoubt k cause t => Sys2Proof.Machine.execMedDoubt k cause t s
  | .spanBlockSend j t => Sys2Proof.Machine.execSpanBlockSend j t s
  | .spanBlockReceived j decoded replay symbols b t => Sys2Proof.Machine.execSpanBlockReceived j decoded replay symbols b t s
  | .spanReplayTimeout j t => Sys2Proof.Machine.execSpanReplayTimeout j t s
  | .spanDownTimeout j t => Sys2Proof.Machine.execSpanDownTimeout j t s
  | .spanRxSilence j t => Sys2Proof.Machine.execSpanRxSilence j t s
  | .trainBlockReceived j locked b t => Sys2Proof.Machine.execTrainBlockReceived j locked b t s
  | .trainingTimeout j t => Sys2Proof.Machine.execTrainingTimeout j t s
  | .trainRefuseExpiry j t => Sys2Proof.Machine.execTrainRefuseExpiry j t s
  | .flockFormation members t => Sys2Proof.Machine.execFlockFormation members t s
  | .memberExcluded w t => Sys2Proof.Machine.execMemberExcluded w t s
  | .spdDoubt j cause t => Sys2Proof.Machine.execSpdDoubt j cause t s
  | .admission k f t => Sys2Proof.Machine.execAdmission k f t s
  | .groupVerdict k fid group t => Sys2Proof.Machine.execGroupVerdict k fid group t s
  | .fcsVerdict k fid good t => Sys2Proof.Machine.execFcsVerdict k fid good t s
  | .frameTail k fid t => Sys2Proof.Machine.execFrameTail k fid t s
  | .speculationAbort k fid t => Sys2Proof.Machine.execSpeculationAbort k fid t s
  | .resultArrival k e lane vc t => Sys2Proof.Machine.execResultArrival k e lane vc t s
  | .replyStart k fid t => Sys2Proof.Machine.execReplyStart k fid t s
  | .ptpEvent k port bytes egress sfd t => Sys2Proof.Machine.execPtpEvent k port bytes egress sfd t s
  | .rsFault k port remote t => Sys2Proof.Machine.execRsFault k port remote t s
  | .nedDoubt k cause t => Sys2Proof.Machine.execNedDoubt k cause t s
  | .portDrainComplete k port t => Sys2Proof.Machine.execPortDrainComplete k port t s
  | .portDrainExpiry k port t => Sys2Proof.Machine.execPortDrainExpiry k port t s
  | .portSettingsApplied k port t => Sys2Proof.Machine.execPortSettingsApplied k port t s
  | .penRelease k t => Sys2Proof.Machine.execPenRelease k t s
  | .penDeadlineExpiry k fid t => Sys2Proof.Machine.execPenDeadlineExpiry k fid t s
  | .burstToken k t => Sys2Proof.Machine.execBurstToken k t s
  | .inFlightLimit k fid t => Sys2Proof.Machine.execInFlightLimit k fid t s
  | .strayRefusal k tag t => Sys2Proof.Machine.execStrayRefusal k tag t s
  | .nedBellwether k e lane vc t => Sys2Proof.Machine.execNedBellwether k e lane vc t s
  | .keepaliveLoss die t => Sys2Proof.Machine.execKeepaliveLoss die t s
  | .loadStart fold t => Sys2Proof.Machine.execLoadStart fold t s
  | .loadDrainComplete fold t => Sys2Proof.Machine.execLoadDrainComplete fold t s
  | .loadDrainExpiry fold t => Sys2Proof.Machine.execLoadDrainExpiry fold t s
  | .loadDecryptComplete fold t => Sys2Proof.Machine.execLoadDecryptComplete fold t s
  | .commitConfirmed fold t => Sys2Proof.Machine.execCommitConfirmed fold t s
  | .contextStage fold n k t => Sys2Proof.Machine.execContextStage fold n k t s
  | .stageWaitExpiry fold t => Sys2Proof.Machine.execStageWaitExpiry fold t s
  | .standbyConfirmed fold t => Sys2Proof.Machine.execStandbyConfirmed fold t s
  | .bellwetherArrival n k t => Sys2Proof.Machine.execBellwetherArrival n k t s
  | .switchLimitExpiry fold t => Sys2Proof.Machine.execSwitchLimitExpiry fold t s
  | .transitionStart fold t => Sys2Proof.Machine.execTransitionStart fold t s
  | .shearComplete fold n good t => Sys2Proof.Machine.execShearComplete fold n good t s
  | .musterComplete fold t => Sys2Proof.Machine.execMusterComplete fold t s
  | .musterTimeout fold t => Sys2Proof.Machine.execMusterTimeout fold t s
  | .checkpointDue fold t => Sys2Proof.Machine.execCheckpointDue fold t s
  | .checkpointWriteDone fold t => Sys2Proof.Machine.execCheckpointWriteDone fold t s
  | .releaseDrainExpiry fold t => Sys2Proof.Machine.execReleaseDrainExpiry fold t s
  | .scrubRecord fold t => Sys2Proof.Machine.execScrubRecord fold t s
  | .sessionCloseComplete num t => Sys2Proof.Machine.execSessionCloseComplete num t s
  | .reportReceived trigger folds place t => Sys2Proof.Machine.execReportReceived trigger folds place t s
  | .reportResend t => Sys2Proof.Machine.execReportResend t s
  | .doubtNoticeNed k fold t => Sys2Proof.Machine.execDoubtNoticeNed k fold t s
  | .doubtNoticePaddock n fold t => Sys2Proof.Machine.execDoubtNoticePaddock n fold t s
  | .checkpointRestoreComplete fold good t => Sys2Proof.Machine.execCheckpointRestoreComplete fold good t s
  | .relocRecordWritten fold t => Sys2Proof.Machine.execRelocRecordWritten fold t s
  | .keepaliveSend t => Sys2Proof.Machine.execKeepaliveSend t s
  | .heartbeatSend shc t => Sys2Proof.Machine.execHeartbeatSend shc t s
  | .heartbeatReceive shc shcl lane0 b t => Sys2Proof.Machine.execHeartbeatReceive shc shcl lane0 b t s
  | .heartbeatMiss t => Sys2Proof.Machine.execHeartbeatMiss t s
  | .probeTimeout t => Sys2Proof.Machine.execProbeTimeout t s
  | .selfDoubtHandover cause t => Sys2Proof.Machine.execSelfDoubtHandover cause t s
  | .selectionQuietExpiry t => Sys2Proof.Machine.execSelectionQuietExpiry t s
  | .mirrorAckTimeout t => Sys2Proof.Machine.execMirrorAckTimeout t s
  | .mirrorProbeTimeout t => Sys2Proof.Machine.execMirrorProbeTimeout t s
  | .readyRefresh t => Sys2Proof.Machine.execReadyRefresh t s
  | .readyLatchExpiry t => Sys2Proof.Machine.execReadyLatchExpiry t s
  | .firmwareVerified shc sigs stepField t => Sys2Proof.Machine.execFirmwareVerified shc sigs stepField t s
  | .stagesSettled failed t => Sys2Proof.Machine.execStagesSettled failed t s
  | .edgeDieTestComplete die passed t => Sys2Proof.Machine.execEdgeDieTestComplete die passed t s
  | .referenceWaitTimeout t => Sys2Proof.Machine.execReferenceWaitTimeout t s
  | .aonRailsInWindow t => Sys2Proof.Machine.execAonRailsInWindow t s
  | .coreRailGroup g t => Sys2Proof.Machine.execCoreRailGroup g t s
  | .ringWaveAdvance t => Sys2Proof.Machine.execRingWaveAdvance t s
  | .paddockTestComplete n v t => Sys2Proof.Machine.execPaddockTestComplete n v t s
  | .borderTestComplete x failed t => Sys2Proof.Machine.execBorderTestComplete x failed t s
  | .sweep t => Sys2Proof.Machine.execSweep t s
  | .bootMapAndReady flashOk t => Sys2Proof.Machine.execBootMapAndReady flashOk t s
  | .consoleBreak con t => Sys2Proof.Machine.execConsoleBreak con t s
  | .ctsChange con asserted t => Sys2Proof.Machine.execCtsChange con asserted t s
  | .tcpConnect t => Sys2Proof.Machine.execTcpConnect t s
  | .mgmtPacket bytes t => Sys2Proof.Machine.execMgmtPacket bytes t s
  | .arpAnnounce t => Sys2Proof.Machine.execArpAnnounce t s
  | .recoveryImageReceived shc image sigOk t => Sys2Proof.Machine.execRecoveryImageReceived shc image sigOk t s
  | .backupRejoin mirrorVersion t => Sys2Proof.Machine.execBackupRejoin mirrorVersion t s
  | .backupRejoinTimeout t => Sys2Proof.Machine.execBackupRejoinTimeout t s
  | .idleTimeout sess t => Sys2Proof.Machine.execIdleTimeout sess t s
  | .challengeExpiry sess t => Sys2Proof.Machine.execChallengeExpiry sess t s
  | .loginLockExpiry sess t => Sys2Proof.Machine.execLoginLockExpiry sess t s
  | .bellsLostNotice sess t => Sys2Proof.Machine.execBellsLostNotice sess t s
  | .ledgerIntervalEnd fold readBack t => Sys2Proof.Machine.execLedgerIntervalEnd fold readBack t s
  | .ledgerRingRetry readBack t => Sys2Proof.Machine.execLedgerRingRetry readBack t s
  | .leaseSecond t => Sys2Proof.Machine.execLeaseSecond t s
  | .ptpSilence t => Sys2Proof.Machine.execPtpSilence t s
  | .loginRequest user ln => Sys2Proof.Machine.execLoginRequest user ln s
  | .loginResponse user sig ln => Sys2Proof.Machine.execLoginResponse user sig ln s
  | .logout ln => Sys2Proof.Machine.execLogout ln s
  | .ping ln => Sys2Proof.Machine.execPing ln s
  | .mode echo crc bells idle ln => Sys2Proof.Machine.execMode echo crc bells idle ln s
  | .showEngine detail ln => Sys2Proof.Machine.execShowEngine detail ln s
  | .showBoot ln => Sys2Proof.Machine.execShowBoot ln s
  | .showShc ln => Sys2Proof.Machine.execShowShc ln s
  | .setBoot full ln => Sys2Proof.Machine.execSetBoot full ln s
  | .setClear at_ ln => Sys2Proof.Machine.execSetClear at_ ln s
  | .resetEngine confirm ln => Sys2Proof.Machine.execResetEngine confirm ln s
  | .ackFault ln => Sys2Proof.Machine.execAckFault ln s
  | .handoverShc ln => Sys2Proof.Machine.execHandoverShc ln s
  | .restoreDie die passed ln => Sys2Proof.Machine.execRestoreDie die passed ln s
  | .setConsole con baud flow ln => Sys2Proof.Machine.execSetConsole con baud flow ln s
  | .setNet ip mask gw mac ln => Sys2Proof.Machine.execSetNet ip mask gw mac ln s
  | .openStage firmware size ln => Sys2Proof.Machine.execOpenStage firmware size ln s
  | .putStage id off data ln => Sys2Proof.Machine.execPutStage id off data ln s
  | .showStage ln => Sys2Proof.Machine.execShowStage ln s
  | .dropStage id ln => Sys2Proof.Machine.execDropStage id ln s
  | .updateFirmware stage sigOk ln => Sys2Proof.Machine.execUpdateFirmware stage sigOk ln s
  | .raiseSvn ln => Sys2Proof.Machine.execRaiseSvn ln s
  | .showPower ln => Sys2Proof.Machine.execShowPower ln s
  | .setBus shared ln => Sys2Proof.Machine.execSetBus shared ln s
  | .setRail x y mv ln => Sys2Proof.Machine.execSetRail x y mv ln s
  | .setClock at_ n ln => Sys2Proof.Machine.execSetClock at_ n ln s
  | .setPower at_ dark ln => Sys2Proof.Machine.execSetPower at_ dark ln s
  | .clearField x y held ln => Sys2Proof.Machine.execClearField x y held ln s
  | .showThermal ln => Sys2Proof.Machine.execShowThermal ln s
  | .showSensors at_ ln => Sys2Proof.Machine.execShowSensors at_ ln s
  | .showMap at_ ln => Sys2Proof.Machine.execShowMap at_ ln s
  | .exportMap ln => Sys2Proof.Machine.execExportMap ln s
  | .setReserve c r on ln => Sys2Proof.Machine.execSetReserve c r on ln s
  | .setExclude x y on ln => Sys2Proof.Machine.execSetExclude x y on ln s
  | .showPort ned port ln => Sys2Proof.Machine.execShowPort ned port ln s
  | .setLanes ned group mode ln => Sys2Proof.Machine.execSetLanes ned group mode ln s
  | .setPort ned port mac template ptp eq store ln => Sys2Proof.Machine.execSetPort ned port mac template ptp eq store ln s
  | .enablePort ned port ln => Sys2Proof.Machine.execEnablePort ned port ln s
  | .disablePort ned port ln => Sys2Proof.Machine.execDisablePort ned port ln s
  | .setTemplate ned index a ln => Sys2Proof.Machine.execSetTemplate ned index a ln s
  | .setBurst ned rate depth ln => Sys2Proof.Machine.execSetBurst ned rate depth ln s
  | .setPtp ned port ln => Sys2Proof.Machine.execSetPtp ned port ln s
  | .showLink c r dir lane ln => Sys2Proof.Machine.execShowLink c r dir lane ln s
  | .showSpan spd ln => Sys2Proof.Machine.execShowSpan spd ln s
  | .restoreLane c r dir lane passed ln => Sys2Proof.Machine.execRestoreLane c r dir lane passed ln s
  | .retrainSpan spd ln => Sys2Proof.Machine.execRetrainSpan spd ln s
  | .showFlock ln => Sys2Proof.Machine.execShowFlock ln s
  | .setFlock id wafer members ln => Sys2Proof.Machine.execSetFlock id wafer members ln s
  | .createFold a ln => Sys2Proof.Machine.execCreateFold a ln s
  | .resizeFold id a ln => Sys2Proof.Machine.execResizeFold id a ln s
  | .loadFold id stage overlap limit ln => Sys2Proof.Machine.execLoadFold id stage overlap limit ln s
  | .destroyFold id ln => Sys2Proof.Machine.execDestroyFold id ln s
  | .setFold id ckpt pen weight ln => Sys2Proof.Machine.execSetFold id ckpt pen weight ln s
  | .setRotation med slots ln => Sys2Proof.Machine.execSetRotation med slots ln s
  | .showFold id ln => Sys2Proof.Machine.execShowFold id ln s
  | .showFolds ln => Sys2Proof.Machine.execShowFolds ln s
  | .createChannel fold entry index ticket deadline spec bind ln => Sys2Proof.Machine.execCreateChannel fold entry index ticket deadline spec bind ln s
  | .bindChannel handle add ln => Sys2Proof.Machine.execBindChannel handle add ln s
  | .unbindChannel handle ned port ln => Sys2Proof.Machine.execUnbindChannel handle ned port ln s
  | .destroyChannel handle ln => Sys2Proof.Machine.execDestroyChannel handle ln s
  | .showChannel handle ln => Sys2Proof.Machine.execShowChannel handle ln s
  | .setBucket ned index fold rate depth burst pen ln => Sys2Proof.Machine.execSetBucket ned index fold rate depth burst pen ln s
  | .showBucket ned index ln => Sys2Proof.Machine.execShowBucket ned index ln s
  | .openSession fold num anchor cls cap ln => Sys2Proof.Machine.execOpenSession fold num anchor cls cap ln s
  | .closeSession fold num ln => Sys2Proof.Machine.execCloseSession fold num ln s
  | .showSession num ln => Sys2Proof.Machine.execShowSession num ln s
  | .showTally scope id name ln => Sys2Proof.Machine.execShowTally scope id name ln s
  | .showBells since fault count ln => Sys2Proof.Machine.execShowBells since fault count ln s
  | .showLedger fold since count ln => Sys2Proof.Machine.execShowLedger fold since count ln s
  | .verifyLedger data ln => Sys2Proof.Machine.execVerifyLedger data ln s
  | .showKeys fold ln => Sys2Proof.Machine.execShowKeys fold ln s
  | .exportKey fold ln => Sys2Proof.Machine.execExportKey fold ln s
  | .addUser name level key ln => Sys2Proof.Machine.execAddUser name level key ln s
  | .removeUser name ln => Sys2Proof.Machine.execRemoveUser name ln s
  | .showUsers ln => Sys2Proof.Machine.execShowUsers ln s
  | .peek addr count ln => Sys2Proof.Machine.execPeek addr count ln s
  | .poke addr value mask ln => Sys2Proof.Machine.execPoke addr value mask ln s
  | .shcFaultackWrite value ln => Sys2Proof.Machine.execShcFaultackWrite value ln s
  | .pcbSatClear n value ln => Sys2Proof.Machine.execPcbSatClear n value ln s
  | .nedWselWrite k value ln => Sys2Proof.Machine.execNedWselWrite k value ln s
  | .shcAlertcauseRead ln => Sys2Proof.Machine.execShcAlertcauseRead ln s
  | .railsFall t => Sys2Proof.Machine.execRailsFall t s
  | .badLine sess bytes overrun t => Sys2Proof.Machine.execBadLine sess bytes overrun t s
  | .consoleCharacter con b t => Sys2Proof.Machine.execConsoleCharacter con b t s
  | .tcpClose sess t => Sys2Proof.Machine.execTcpClose sess t s
  | .rsFaultCleared k fault t => Sys2Proof.Machine.execRsFaultCleared k fault t s

end Sys2Proof.Machine
end

