-- ==== Sys2Proof/Safety.lean ====
section
/-! DEFINITION. The terms that statements about the engine use: a console line that is executed, the reply it gets, the
moment of a command, and the numbers of units. -/
namespace Sys2Proof.Machine

open Sys2Proof

/-- The ten sessions, 24 NEDs, 12 MEDs and 16 SPDs are all there. -/
def State.sized (s : State) : Prop := s.sess.length = 10 ∧ s.neds.length = 24 ∧ s.meds.length = 12 ∧ s.spds.length = 16

/-- Whether a line passes every step of Table SNF-5 up to its own command: the session executes lines now, the line carries
the CRC suffix its session asks for, the session is logged in with the privilege, the phase admits the command, and its wafer
prefix, if any, names this engine. -/
def State.accepts (s : State) (ln : Ln) (need : Level) (boot : Bool) : Prop :=
  (s.tick ln.t).hears ln.sess = true ∧ ((s.cs ln.sess).crc = true → ln.crc = true)
    ∧ (∃ user lvl, (s.cs ln.sess).login = .loggedIn user lvl ∧ levelRank need ≤ levelRank lvl)
    ∧ (boot = true ∨ s.boot.phase = .ready) ∧ (ln.wafer = none ∨ ln.wafer = some s.me)

/-- Whether a line of a session verb is executed: no login is asked of it. -/
def State.acceptsVerb (s : State) (ln : Ln) : Prop :=
  (s.tick ln.t).hears ln.sess = true ∧ ((s.cs ln.sess).crc = true → ln.crc = true)

/-- The state on which a line's command acts: its moment has come, the line is numbered, held bells are sent. -/
def State.atLine (s : State) (ln : Ln) : State := ((s.tick ln.t).lineIn ln).sendBells ln.sess

/-- Between two states a session was sent, among other output, one line as the answer to a console line. -/
def Answers (s t : State) (ln : Ln) (r : RLine) : Prop :=
  ∃ before after, (t.cs ln.sess).out = (s.cs ln.sess).out ++ before ++ [.line ln.tag ln.crc r] ++ after

/-- The two states differ in their moment and their sessions alone; of the commands that wait for an answer some may have had it. -/
def OnlySessions (s t : State) : Prop :=
  t = { s with now := t.now, sess := t.sess, waits := t.waits } ∧ ∀ w ∈ t.waits, w ∈ s.waits

/-- The two states differ in their moment alone. -/
def OnlyTime (s t : State) : Prop := t = { s with now := t.now }

/-! Frames: what a command leaves as it was, from every state. -/

/-- From every state a command answers a next state that stands to it as `P` says. -/
def Always (c : Instr) (P : State → State → Prop) : Prop := ∀ s, ∃ t, exec c s = .next t ∧ P s t

/-- Nothing changes but the moment, the sessions, their waiting commands and the trace of what leaves the lands. -/
def OnlyConsole (s t : State) : Prop := t = { s with now := t.now, sess := t.sess, waits := t.waits, wire := t.wire }

/-- The contents of every memory stack are as they were. -/
def SameStacks (s t : State) : Prop := t.meds.map (·.store) = s.meds.map (·.store)

/-- Folds, channels, sessions of folds, their scrub records and the incarnation counter are as they were. -/
def SameFolds (s t : State) : Prop :=
  t.folds = s.folds ∧ t.channels = s.channels ∧ t.sessions = s.sessions ∧ t.scrubs = s.scrubs ∧ t.incCtr = s.incCtr

/-- Users, addresses, consoles, ports, the flock placement and the boot mode in flash are as they were. -/
def SameSettings (s t : State) : Prop :=
  t.flash.creds = s.flash.creds ∧ t.flash.net = s.flash.net ∧ t.flash.con0 = s.flash.con0 ∧ t.flash.con1 = s.flash.con1
    ∧ t.flash.lanes = s.flash.lanes ∧ t.flash.ports = s.flash.ports ∧ t.flash.place = s.flash.place ∧ t.flash.bootFull = s.flash.bootFull

/-- The pins, the active controller, bring-up, the reference, the stages and what is in force since the last reset are as
they were. -/
def SameControl (s t : State) : Prop :=
  t.resetN = s.resetN ∧ t.pwrFail = s.pwrFail ∧ t.active = s.active ∧ t.sel = s.sel ∧ t.ready = s.ready ∧ t.boot = s.boot
    ∧ t.refAbsent = s.refAbsent ∧ t.meshLocked = s.meshLocked ∧ t.shared = s.shared ∧ t.stages = s.stages ∧ t.fwUpdate = s.fwUpdate
    ∧ t.place = s.place ∧ t.fuses = s.fuses ∧ t.scratch = s.scratch ∧ t.vstby = s.vstby ∧ t.flockUp = s.flockUp

/-- The stack of every MED is in its canonical form: blocks by rising address, none equal to what an unlisted one is. -/
def StacksCanonical (s : State) : Prop := ∀ m ∈ s.meds, m.wf = true

/-- The commands that act while the engine is held in reset. -/
def actsInReset : Instr → Bool
  | .resetAssert _ | .resetRelease _ _ | .pwrFailAssert _ | .pwrFailDeassert _ | .railsFall _ => true
  | _ => false

/-- The commands after which the flock placement and the address settings in force are those in flash. -/
def resets : Instr → Bool
  | .resetAssert _ | .resetEngine _ _ | .railsFall _ => true
  | _ => false

/-- The commands that write to a memory stack, zero a page of one, or lose what it holds. -/
def writesStack : Instr → Bool
  | .memReqReceived _ _ _ _ _ | .pageScrub _ _ _ | .stackTempRead _ _ _ | .restoreDie _ _ _ | .bootMapAndReady _ _
  | .resetAssert _ | .resetEngine _ _ | .railsFall _ => true
  | _ => false

/-- The commands that store a setting in flash. -/
def storesSetting : Instr → Bool
  | .setBoot _ _ | .setConsole _ _ _ _ | .setNet _ _ _ _ _ | .setPort _ _ _ _ _ _ _ _ | .setFlock _ _ _ _ | .addUser _ _ _ _
  | .removeUser _ _ => true
  | _ => false

/-- The commands that may act on a fold, a channel or a session of a fold. -/
def actsOnFolds : Instr → Bool
  | .resetAssert _ | .pwrFailNedStop _ | .softStartComplete _ _ | .clockRelockVerdict _ _ _ _
  | .ringRelockVerdict _ _ _ _ | .referenceAbsentLong _ _ | .sensorSample _ _ | .throttleEval _ _
  | .beatReceived _ _ _ _ _ _ | .replayDownTimeout _ _ _ | .receiverSilence _ _ _ | .contextLeavePlan _ _ _
  | .hbmRereadVerdict _ _ _ | .stackTempRead _ _ _ | .pageScrub _ _ _ | .medDoubt _ _ _ | .spdDoubt _ _ _
  | .admission _ _ _ | .groupVerdict _ _ _ _ | .fcsVerdict _ _ _ _ | .frameTail _ _ _ | .speculationAbort _ _ _
  | .resultArrival _ _ _ _ _ | .replyStart _ _ _ | .nedDoubt _ _ _ | .portDrainExpiry _ _ _ | .penRelease _ _
  | .penDeadlineExpiry _ _ _ | .inFlightLimit _ _ _ | .strayRefusal _ _ _ | .nedBellwether _ _ _ _ _ | .keepaliveLoss _ _
  | .loadStart _ _ | .loadDrainComplete _ _ | .loadDrainExpiry _ _ | .loadDecryptComplete _ _ | .commitConfirmed _ _
  | .contextStage _ _ _ _ | .stageWaitExpiry _ _ | .standbyConfirmed _ _ | .switchLimitExpiry _ _ | .transitionStart _ _
  | .shearComplete _ _ _ _ | .musterComplete _ _ | .musterTimeout _ _ | .checkpointDue _ _ | .checkpointWriteDone _ _
  | .releaseDrainExpiry _ _ | .scrubRecord _ _ | .sessionCloseComplete _ _ | .reportReceived _ _ _ _
  | .doubtNoticeNed _ _ _ | .checkpointRestoreComplete _ _ _ | .relocRecordWritten _ _ | .probeTimeout _
  | .selfDoubtHandover _ _ | .stagesSettled _ _ | .edgeDieTestComplete _ _ _ | .borderTestComplete _ _ _
  | .bootMapAndReady _ _ | .backupRejoin _ _ | .ledgerIntervalEnd _ _ _ | .leaseSecond _ | .ptpSilence _
  | .resetEngine _ _ | .handoverShc _ | .setLanes _ _ _ _ | .setPort _ _ _ _ _ _ _ _ | .disablePort _ _ _ | .setPtp _ _ _
  | .restoreLane _ _ _ _ _ _ | .createFold _ _ | .resizeFold _ _ _ | .loadFold _ _ _ _ _ | .destroyFold _ _
  | .setFold _ _ _ _ _ | .createChannel _ _ _ _ _ _ _ _ | .bindChannel _ _ _ | .unbindChannel _ _ _ _
  | .destroyChannel _ _ | .openSession _ _ _ _ _ _ | .closeSession _ _ _ | .vcoreRecoveryVerdict _ _ _ | .efuseTrip _ _ _
  | .efuseRetryVerdict _ _ _ | .fieldRetryVerdict _ _ _ | .islandClockLoss _ _ | .thermalRetryVerdict _ _
  | .dockTransfer _ _ | .hbmxReturn _ _ _ | .hbmBurstRead _ _ _ _ | .spanBlockSend _ _ | .spanBlockReceived _ _ _ _ _ _
  | .flockFormation _ _ | .memberExcluded _ _ | .bellwetherArrival _ _ _ | .paddockTestComplete _ _ _ | .sweep _
  | .doubtNoticePaddock _ _ _ | .railsFall _ => true
  | _ => false

/-- The commands of reset, power, reference, bring-up, controllers, stages and the flock, which may act on control state. -/
def actsOnControl : Instr → Bool
  | .resetAssert _ | .resetRelease _ _ | .pwrFailAssert _ | .pwrFailDeassert _ | .softStartComplete _ _ | .efuseTrip _ _ _
  | .islandClockLoss _ _ | .meshLock _ _ | .referenceAbsent _ _ | .referenceReturn _ _ | .sensorSample _ _
  | .loopCheck _ _ _ | .flockFormation _ _ | .memberExcluded _ _ | .probeTimeout _ | .selfDoubtHandover _ _
  | .selectionQuietExpiry _ | .readyRefresh _ | .readyLatchExpiry _ | .firmwareVerified _ _ _ _ | .stagesSettled _ _
  | .edgeDieTestComplete _ _ _ | .referenceWaitTimeout _ | .aonRailsInWindow _ | .coreRailGroup _ _ | .ringWaveAdvance _
  | .paddockTestComplete _ _ _ | .sweep _ | .bootMapAndReady _ _ | .arpAnnounce _ | .recoveryImageReceived _ _ _ _
  | .backupRejoin _ _ | .backupRejoinTimeout _ | .resetEngine _ _ | .handoverShc _ | .openStage _ _ _ | .putStage _ _ _ _
  | .dropStage _ _ | .updateFirmware _ _ _ | .raiseSvn _ | .setBus _ _ | .loadFold _ _ _ _ _ | .poke _ _ _ _
  | .shcFaultackWrite _ _ | .pcbSatClear _ _ _ | .nedWselWrite _ _ _ | .railsFall _ => true
  | _ => false

/-! Console lines: what Tables CMD-1 to CMD-15 ask of each command. -/

/-- The line that carries a command; of `add user` only where its name and key have their form (Table SNF-3). -/
def lineOf : Instr → Option Ln
  | .loginRequest _ ln | .loginResponse _ _ ln | .logout ln | .ping ln | .mode _ _ _ _ ln | .showEngine _ ln
  | .showBoot ln | .showShc ln | .setBoot _ ln | .setClear _ ln | .resetEngine _ ln | .ackFault ln | .handoverShc ln
  | .restoreDie _ _ ln | .setConsole _ _ _ ln | .setNet _ _ _ _ ln | .openStage _ _ ln | .putStage _ _ _ ln
  | .showStage ln | .dropStage _ ln | .updateFirmware _ _ ln | .raiseSvn ln | .showPower ln | .setBus _ ln
  | .setRail _ _ _ ln | .setClock _ _ ln | .setPower _ _ ln | .clearField _ _ _ ln | .showThermal ln
  | .showSensors _ ln | .showMap _ ln | .exportMap ln | .setReserve _ _ _ ln | .setExclude _ _ _ ln | .showPort _ _ ln
  | .setLanes _ _ _ ln | .setPort _ _ _ _ _ _ _ ln | .enablePort _ _ ln | .disablePort _ _ ln | .setTemplate _ _ _ ln
  | .setBurst _ _ _ ln | .setPtp _ _ ln | .showLink _ _ _ _ ln | .showSpan _ ln | .restoreLane _ _ _ _ _ ln
  | .retrainSpan _ ln | .showFlock ln | .setFlock _ _ _ ln | .createFold _ ln | .resizeFold _ _ ln
  | .loadFold _ _ _ _ ln | .destroyFold _ ln | .setFold _ _ _ _ ln | .setRotation _ _ ln | .showFold _ ln
  | .showFolds ln | .createChannel _ _ _ _ _ _ _ ln | .bindChannel _ _ ln | .unbindChannel _ _ _ ln
  | .destroyChannel _ ln | .showChannel _ ln | .setBucket _ _ _ _ _ _ _ ln | .showBucket _ _ ln
  | .openSession _ _ _ _ _ ln | .closeSession _ _ ln | .showSession _ ln | .showTally _ _ _ ln | .showBells _ _ _ ln
  | .showLedger _ _ _ ln | .verifyLedger _ ln | .showKeys _ ln | .exportKey _ ln | .removeUser _ ln | .showUsers ln
  | .peek _ _ ln | .poke _ _ _ ln | .shcFaultackWrite _ ln | .pcbSatClear _ _ ln | .nedWselWrite _ _ ln
  | .shcAlertcauseRead ln => some ln
  | .addUser name _ key ln => if nameOk name && keyOk key then some ln else none
  | _ => none

/-- The session verbs (Table SNF-6). -/
def isSessionVerb : Instr → Bool
  | .loginRequest _ _ | .loginResponse _ _ _ | .logout _ | .ping _ | .mode _ _ _ _ _ => true
  | _ => false

/-- The level a command asks; a stage asks that of its `open` (Table CMD-3). -/
def levelOf (s : State) : Instr → Level
  | .openStage firmware _ _ => if firmware then .admin else .operate
  | .putStage id _ _ _ => s.stageLevel id
  | .dropStage id _ => s.stageLevel id
  | .ackFault _ | .setBus _ _ | .setRail _ _ _ _ | .setClock _ _ _ | .setPower _ _ _ | .setReserve _ _ _ _
  | .setExclude _ _ _ _ | .setLanes _ _ _ _ | .setPort _ _ _ _ _ _ _ _ | .enablePort _ _ _ | .disablePort _ _ _
  | .setTemplate _ _ _ _ | .setBurst _ _ _ _ | .setPtp _ _ _ | .setFlock _ _ _ _ | .createFold _ _ | .resizeFold _ _ _
  | .loadFold _ _ _ _ _ | .destroyFold _ _ | .setFold _ _ _ _ _ | .setRotation _ _ _ | .createChannel _ _ _ _ _ _ _ _
  | .bindChannel _ _ _ | .unbindChannel _ _ _ _ | .destroyChannel _ _ | .setBucket _ _ _ _ _ _ _ _
  | .openSession _ _ _ _ _ _ | .closeSession _ _ _ => .operate
  | .setBoot _ _ | .setClear _ _ | .resetEngine _ _ | .handoverShc _ | .restoreDie _ _ _ | .setConsole _ _ _ _
  | .setNet _ _ _ _ _ | .updateFirmware _ _ _ | .raiseSvn _ | .clearField _ _ _ _ | .restoreLane _ _ _ _ _ _
  | .retrainSpan _ _ | .exportKey _ _ | .addUser _ _ _ _ | .removeUser _ _ | .showUsers _ | .poke _ _ _ _
  | .shcFaultackWrite _ _ | .pcbSatClear _ _ _ | .nedWselWrite _ _ _ => .admin
  | _ => .view

/-- The commands accepted during bring-up (Table BOOT-4). -/
def takenInBringUp : Instr → Bool
  | .showEngine _ _ | .showBoot _ | .showShc _ | .setBoot _ _ | .setClear _ _ | .resetEngine _ _ | .showStage _
  | .showPower _ | .showThermal _ | .showSensors _ _ | .showMap _ _ | .exportMap _ | .showPort _ _ _
  | .showLink _ _ _ _ _ | .showSpan _ _ | .showFlock _ | .showFold _ _ | .showFolds _ | .showChannel _ _
  | .showBucket _ _ _ | .showSession _ _ | .showTally _ _ _ _ | .showBells _ _ _ _ | .showLedger _ _ _ _
  | .verifyLedger _ _ | .showKeys _ _ | .peek _ _ _ | .shcAlertcauseRead _ => true
  | _ => false

end Sys2Proof.Machine
end

