-- ==== Sys2Proof/Certificates/Slice0/Obligations.lean ====
section
/-! DEFINITION. The statements made of the engine. Times are in units of 10 ps; `max s.now t` is the moment of a command
that names `t`. -/

open Sys2Proof Sys2Proof.Machine

/-- Rails of a field. A rail step moves VCORE one millivolt toward its setting (R600). A VCORE outside its window is read; by
more than 3 % it asserts ALERT_N, by more than 5 % it masks the field's paddocks and starts the time in which it must recover
(R602, R626); a VAON more than 5 % outside shuts the stage down (R602). Back within 1 ms and held 100 ms the departure is
over, and otherwise the field is latched with its stage off and its paddocks HOLEs (R603). -/
def Obligations.FieldRailsMoveAndDepart : Prop :=
  (∀ (f : FieldIx) (t : Time) (s : State), s.resetN = false → (s.field f).vcore ≠ (s.field f).vtarget → (s.field f).departed = none →
    ∃ u, exec (.railStep f t) s = .next u
      ∧ (u.field f).vcore = (if (s.field f).vcore < (s.field f).vtarget then (s.field f).vcore + 1 else (s.field f).vcore - 1)
      ∧ (u.field f).vtarget = (s.field f).vtarget)
  ∧ (∀ (f : FieldIx) (mv : Nat) (t : Time) (s : State), s.resetN = false → (s.field f).stage = .on →
    ∃ u, exec (.railDeparture f false mv t) s = .next u ∧ (u.field f).seen = some mv ∧ (u.field f).stage = .on
      ∧ (3 * (s.field f).vcore < 100 * (max mv (s.field f).vcore - min mv (s.field f).vcore) → u.alertN = true)
      ∧ (5 * (s.field f).vcore < 100 * (max mv (s.field f).vcore - min mv (s.field f).vcore) →
        (u.field f).departed = some (max s.now t) ∧ (u.field f).vtarget = (s.field f).vcore
          ∧ ∀ n ∈ fieldPads f, (u.pad n).masked = true ∧ (u.pad n).hurdled = true)
      ∧ (100 * (max mv (s.field f).vcore - min mv (s.field f).vcore) ≤ 5 * (s.field f).vcore →
        (u.field f).departed = (s.field f).departed ∧ (u.field f).vtarget = (s.field f).vtarget ∧ u.pads = s.pads))
  ∧ (∀ (f : FieldIx) (mv : Nat) (t : Time) (s : State), s.resetN = false → (s.field f).stage = .on →
    ∃ u, exec (.railDeparture f true mv t) s = .next u
      ∧ (2400 < 100 * (max mv 800 - min mv 800) → u.alertN = true)
      ∧ (4000 < 100 * (max mv 800 - min mv 800) → (u.field f).stage = .shutdown (max s.now t) true)
      ∧ (100 * (max mv 800 - min mv 800) ≤ 4000 → (u.field f).stage = .on))
  ∧ (∀ (f : FieldIx) (back : Option Time) (d : Time) (t : Time) (s : State), s.resetN = false → (s.field f).departed = some d →
    ∃ u, exec (.vcoreRecoveryVerdict f back t) s = .next u ∧ (u.field f).departed = none
      ∧ (back.any (fun b => b ≤ d + msec && b + 100 * msec ≤ max s.now t) = true →
        (u.field f).latched = (s.field f).latched ∧ (u.field f).stage = (s.field f).stage
          ∧ ∀ n ∈ fieldPads f, (s.pad n).leased = false → (u.pad n).masked = false ∧ (u.pad n).hurdled = false)
      ∧ (back.any (fun b => b ≤ d + msec && b + 100 * msec ≤ max s.now t) = false →
        (u.field f).latched = true ∧ (u.field f).stage = .off ∧ ∀ n ∈ fieldPads f, (u.entry n).st = 2 ∧ (u.pad n).power = .dark))

/-- Stages of a field. A shutdown, from a stage that is on or in its retry, is entered with its moment and leaves the
paddocks DARK (R613); 100 ms later a reachable stage is retried (R614); the retry holds and the stage is on, or the field is
latched (R614); `clear field` ends the latch where its retry holds, and is refused where it does not (R615). -/
def Obligations.FieldStagesRetryOrLatch : Prop :=
  (∀ (f : FieldIx) (vaon : Bool) (t : Time) (s : State), s.resetN = false →
    ((s.field f).stage = .on ∨ ∃ since, (s.field f).stage = .retrying since) →
    ∃ u, exec (.fieldStageShutdown f vaon t) s = .next u ∧ (u.field f).stage = .shutdown (max s.now t) vaon
      ∧ ∀ n ∈ fieldPads f, (u.pad n).power = .dark)
  ∧ (∀ (f : FieldIx) (since : Time) (vaon : Bool) (t : Time) (s : State), s.resetN = false → s.pwrFail = false →
    s.reachable (fieldAddr f) = true → (s.field f).stage = .shutdown since vaon → since + 100 * msec ≤ max s.now t →
    ∃ u, exec (.fieldRetry f t) s = .next u ∧ (u.field f).stage = .retrying (max s.now t)
      ∧ u.wire = s.wire ++ [.pmbus (fieldAddr f) 0 0x03 0, .pmbus (fieldAddr f) 1 0x01 0x80, .pmbus (fieldAddr f) 0 0x01 0x80])
  ∧ (∀ (f : FieldIx) (since : Time) (held : Bool) (t : Time) (s : State), s.resetN = false → s.pwrFail = false →
    (s.field f).stage = .retrying since →
    ∃ u, exec (.fieldRetryVerdict f held t) s = .next u ∧ (u.field f).stage = (if held then .on else .off)
      ∧ (u.field f).latched = ((s.field f).latched || !held)
      ∧ (held = false → ∀ n ∈ fieldPads f, (u.entry n).st = 2 ∧ (u.pad n).power = .dark))
  ∧ (∀ (x y : Nat) (held : Bool) (ln : Ln) (s : State), s.accepts ln .admin false → x < 7 → y < 12 → (s.field (7 * y + x)).latched = true →
    s.reachable (fieldAddr (7 * y + x)) = true → ln.dev = true →
    ∃ u, exec (.clearField x y held ln) s = .next u ∧ (u.field (7 * y + x)).latched = !held
      ∧ (held = true → (u.field (7 * y + x)).stage = .on)
      ∧ Answers s u ln (if held then .ok [("field", .num (7 * y + x)), ("latched", .num 0)] else .err 501 [("why", .word "retry-failed")]))

/-- Waves, soft-starts and e-fuses. A wave puts the paddocks it takes into soft-start, each toward a state that it waited
for, and leaves the others waiting (R606, R610, R642); a soft-start ends in that state with the paddock zero, at N = 48 where
its running neighbours allow it (R149, R562, R606); a current above 40 A opens the gate (R608), which in a paddock test is a
failure (R714), in a retry latches the fuse and otherwise leaves it tripped; the retry waits for its field and 100 ms and is
then put in the wave (R610); its verdict in GRAZE closes the fuse at no more than 40 A, and latches it above, where the
paddock is a HOLE (R610, R651). -/
def Obligations.WavesAndFuses : Prop :=
  (∀ (t : Time) (s : State), s.resetN = false → s.pwrFail = false → s.wave ≠ [] →
    (s.lastWave = 0 ∨ s.lastWave + 200 * usec ≤ max s.now t) →
    ∃ u, exec (.powerWaveStart t) s = .next u ∧ u.lastWave = max s.now t ∧ u.wave = (s.wave.filter fun w => !s.waveGo.contains w)
      ∧ (∀ w ∈ s.waveGo, (u.pad w.1).soft = true ∧ ∃ g, (w.1, g) ∈ s.waveGo ∧ (u.pad w.1).goal = g)
      ∧ (∀ n, (∀ w ∈ s.waveGo, w.1 ≠ n) → u.pad n = s.pad n))
  ∧ (∀ (n : Pad) (t : Time) (s : State), s.resetN = false → (s.pad n).soft = true →
    ∃ u, exec (.softStartComplete n t) s = .next u ∧ (u.pad n).soft = false ∧ (u.pad n).power = (s.pad n).goal
      ∧ (u.pad n).fine = [] ∧ (u.pad n).plan = [] ∧ (u.pad n).ic = 0 ∧ (u.pad n).masked = false
      ∧ (u.pad n).target = 48 ∧ (u.pad n).setting = 48
      ∧ ((∀ d < 4, ∀ m, padBeyond n d = some m → m = n.val ∨ (s.pad m).power = .dark ∨ 24 ≤ (s.pad m).n ∧ (s.pad m).n ≤ 96) →
        (u.pad n).n = 48))
  ∧ (∀ (n : Pad) (ma : Nat) (t : Time) (s : State), s.resetN = false → 40000 < ma → ((s.pad n).power ≠ .dark ∨ (s.pad n).soft = true) →
    ∃ u, exec (.efuseTrip n ma t) s = .next u ∧ (u.pad n).power = .dark ∧ (u.pad n).soft = false
      ∧ (s.testing = true → (u.entry n).st = 2)
      ∧ (s.testing = false →
        (u.pad n).fuse = (if (s.pad n).fuse = .retrying then .latched else .tripped (max s.now t))
          ∧ ((s.pad n).fuse = .retrying → (u.entry n).st = 2)))
  ∧ (∀ (n : Pad) (since : Time) (t : Time) (s : State), s.resetN = false → s.pwrFail = false → s.fieldOn n = true →
    (s.pad n).cooled (max s.now t) = true → (s.pad n).fuse = .tripped since → since + 100 * msec ≤ max s.now t →
    ∃ u, exec (.efuseRetry n t) s = .next u ∧ (u.pad n).fuse = .retrying
      ∧ u.wave = (s.wave.filter fun w => w.1 ≠ n.val) ++ [(n.val, .graze)])
  ∧ (∀ (n : Pad) (peak : Nat) (t : Time) (s : State), s.resetN = false → s.pwrFail = false → (s.pad n).fuse = .retrying →
    (s.pad n).power = .graze →
    ∃ u, exec (.efuseRetryVerdict n peak t) s = .next u
      ∧ (peak ≤ 40000 → (s.pad n).trip = .none → (u.pad n).fuse = .closed)
      ∧ (40000 < peak → (u.pad n).fuse = .latched ∧ (u.pad n).power = .dark ∧ (u.entry n).st = 2))

/-- The buses and PMBus. A sample counts, for each bus, how many in a row read below 45 V and how many outside 48 to 60 V,
and the active controller shows a bus low or out of range from the fourth on (R595); an alert response is read and then the
status of the device that answered (R618); of the reads of a round, the last of a device decides: answered at either try it
is reachable and its telemetry is kept, and answered at neither it is unreachable until a poll of it answers (R617, R619). -/
def Obligations.BusesAndPmbus : Prop :=
  (∀ (i : ShcIx) (mvA mvB : Nat) (t : Time) (s : State), s.resetN = false →
    ∃ u, exec (.busSample i mvA mvB t) s = .next u
      ∧ (u.shc i).lowA = (if mvA < 45000 then min 4 ((s.shc i).lowA + 1) else 0)
      ∧ (u.shc i).lowB = (if mvB < 45000 then min 4 ((s.shc i).lowB + 1) else 0)
      ∧ (u.shc i).rngA = (if mvA < 48000 ∨ 60000 < mvA then min 4 ((s.shc i).rngA + 1) else 0)
      ∧ (u.shc i).rngB = (if mvB < 48000 ∨ 60000 < mvB then min 4 ((s.shc i).rngB + 1) else 0)
      ∧ (s.active = some i.val →
        u.busA = ⟨mvA, decide (4 ≤ (u.shc i).lowA), decide (4 ≤ (u.shc i).rngA)⟩
          ∧ u.busB = ⟨mvB, decide (4 ≤ (u.shc i).lowB), decide (4 ≤ (u.shc i).rngB)⟩))
  ∧ (∀ (addr status : Nat) (t : Time) (s : State), s.resetN = false → s.active.isSome →
    ∃ u, exec (.pmbAlert addr status t) s = .next u ∧ u.wire = s.wire ++ [.pmbus 0x0C 0 0 0, .pmbus addr 0 0x79 status])
  ∧ (∀ (before : List PmbRead) (r : PmbRead) (rest : List PmbRead) (t : Time) (s : State), s.resetN = false → s.active.isSome →
    (∀ q ∈ rest, q.addr ≠ r.addr) →
    ∃ u, exec (.telemetryRead (before ++ r :: rest) t) s = .next u ∧ u.reachable r.addr = (r.first || r.second)
      ∧ ((r.first || r.second) = true → tabGet ⟨[], 0⟩ u.telem r.addr = ⟨r.pages, r.pin⟩))
  ∧ (∀ (r : PmbRead) (t : Time) (s : State), s.resetN = false → s.active.isSome → s.reachable r.addr = false →
    ∃ u, exec (.pmbusRetryPoll r t) s = .next u ∧ u.reachable r.addr = r.first)

/-- The power commands, where no refusal of theirs applies: the bus mode and a core rail's setting; power off, or on in
GRAZE, for unleased paddocks, the answer to power on waiting for those that are still DARK; a clock setting, whose target is
taken at once unless a throttled field holds it back; and the view of the buses and fields (Table CMD-4; R564, R591, R600,
R605, R616, R655). -/
def Obligations.PowerCommandsAct : Prop :=
  (∀ (shared : Bool) (ln : Ln) (s : State), s.accepts ln .operate false → s.reachable 0x6C = true → ln.dev = true →
    ∃ u, exec (.setBus shared ln) s = .next u ∧ OnlySessions
      { s with shared := shared, wire := s.wire ++ [.pmbus 0x6C 0 0xD0 (if shared then 1 else 0)] } u
      ∧ Answers s u ln (.ok [("mode", .word (if shared then "shared" else "a"))]))
  ∧ (∀ (x y mv : Nat) (ln : Ln) (s : State), s.accepts ln .operate false → x < 7 → y < 12 → 650 ≤ mv → mv ≤ 850 → mv % 25 = 0 →
    (s.field (7 * y + x)).latched = false → (s.field (7 * y + x)).stage = .on → (s.field (7 * y + x)).departed = none →
    s.reachable (fieldAddr (7 * y + x)) = true → ln.dev = true →
    powerFits (s.coreSum - (s.field (7 * y + x)).vtarget + mv) = true →
    (∀ n ∈ fieldPads (7 * y + x), (s.pad n).power = .dark ∨ max (s.pad n).n (s.pad n).target ≤ railMaxN mv) →
    ∃ u, exec (.setRail x y mv ln) s = .next u ∧ u.field (7 * y + x) = { s.field (7 * y + x) with vtarget := mv }
      ∧ ((s.field (7 * y + x)).vcore = mv → Answers s u ln (.ok [("field", .num (7 * y + x)), ("vcore_mv", .num mv)]))
      ∧ ((s.field (7 * y + x)).vcore ≠ mv → ⟨ln.sess, ln.tag, ln.crc, .rail (7 * y + x)⟩ ∈ u.waits))
  ∧ (∀ (at_ : Loc) (ps : List Nat) (dark : Bool) (ln : Ln) (s : State), s.accepts ln .operate false → locPads at_ = some ps →
    (∀ n ∈ ps, (s.pad n).leased = false ∧ (s.entry n).st ≠ 2 ∧ (s.entry n).st ≠ 3) →
    ∃ u, exec (.setPower at_ dark ln) s = .next u
      ∧ (∀ n ∈ ps, (u.pad n).opDark = dark ∧ (dark = true → (u.pad n).power = .dark)
        ∧ (dark = false → (s.pad n).power = .dark → u.wave.any (fun w => w.1 = n) = true)
        ∧ (dark = false → (s.pad n).power ≠ .dark → (u.pad n).power ≠ .dark))
      ∧ ((dark = true ∨ ∀ n ∈ ps, (s.pad n).power ≠ .dark) →
        Answers s u ln (.ok [("paddocks", .num ps.length), ("state", .word (if dark then "dark" else "graze"))]))
      ∧ (dark = false → (∃ n ∈ ps, (s.pad n).power = .dark) → ⟨ln.sess, ln.tag, ln.crc, .power ps⟩ ∈ u.waits))
  ∧ (∀ (at_ : Loc) (ps0 ps : List Nat) (n : Nat) (ln : Ln) (s : State), s.accepts ln .operate false → locPads at_ = some ps0 →
    16 ≤ n → n ≤ 56 → ps = ((s.withYokes ps0).filter fun m => (s.pad m).power ≠ .dark) →
    (∀ m ∈ ps, n ≤ railMaxN (min (s.field (fieldOf m)).vcore (s.field (fieldOf m)).vtarget)) →
    s.ratioAll ps n (·.n) = true → s.ratioAll ps n (·.target) = true →
    ∃ u, exec (.setClock at_ n ln) s = .next u
      ∧ (∀ m ∈ ps, (u.pad m).setting = n
        ∧ (u.pad m).target = (if ps.any (fun q => (s.field (fieldOf q)).throttle) then (s.pad m).n else n))
      ∧ ((ps.any (fun q => (s.field (fieldOf q)).throttle) = true ∨ ∀ m ∈ ps, (s.pad m).n = n) →
        Answers s u ln (.ok [("paddocks", .num ps.length), ("n", .num n)])))
  ∧ (∀ (ln : Ln) (s : State), s.accepts ln .view true →
    ∃ u, exec (.showPower ln) s = .next u ∧ OnlySessions s u
      ∧ Answers s u ln (.ok [("mode", .word (if s.shared then "shared" else "a")), ("total_w", .num (s.totalPin / 1000)),
        ("check_w", .num (checkWatts s.coreSum)), ("count", .num 86)]))

/-- Island clocks. An operator's step, a microsecond after the last, moves the clock of a paddock and its yoke one multiplier
toward its target where R149 holds at every border, and otherwise leaves every clock as it is (R565, R566, R572); a lost
clock masks and hurdles every member of the yoke, and in a paddock test is a failure (R575, R577, R585, R714); a lost ring is
marked with its moment and its powered paddocks lose their clocks (R578); the mesh is locked when every ring lies within 20
ppm (R560). The reference. Its absence on one edge or on all is noted with its moment and asserts ALERT_N; with all four
edges absent the mesh is no longer locked (R579, R937). Its return ends the absence of the edges it names, and with no edge
absent the absence is over. -/
def Obligations.ClocksAndTheReference : Prop :=
  (∀ (n : Pad) (t : Time) (s : State), s.resetN = false → (s.pad n).n ≠ (s.pad n).target → (s.pad n).power ≠ .dark →
    (s.pad n).clockLost = false → (s.field (fieldOf n)).throttle = false →
    (s.pad n).stepAt.all (fun a => a + usec ≤ max s.now t) = true →
    ∃ u, exec (.clockStep n t) s = .next u
      ∧ ((∀ m ∈ s.yokeOf n, s.ratioOk m (stepToward (s.pad n).n (s.pad n).target) = true) →
        ∀ m ∈ s.yokeOf n, (u.pad m).n = stepToward (s.pad n).n (s.pad n).target)
      ∧ ((∃ m ∈ s.yokeOf n, s.ratioOk m (stepToward (s.pad n).n (s.pad n).target) = false) → ∀ m, (u.pad m).n = (s.pad m).n))
  ∧ (∀ (n : Pad) (t : Time) (s : State), s.resetN = false → (s.pad n).power ≠ .dark → (s.pad n).clockLost = false →
    ∃ u, exec (.islandClockLoss n t) s = .next u
      ∧ (s.testing = false → ∀ m ∈ s.yokeOf n, (u.pad m).clockLost = true ∧ (u.pad m).masked = true
        ∧ (u.pad m).hurdled = true ∧ (u.pad m).lostAt = max s.now t ∧ (u.pad m).yoke = none)
      ∧ (s.testing = true → (u.pad n).power = .dark ∧ (u.entry n).st = 2))
  ∧ (∀ (f : FieldIx) (t : Time) (s : State), s.resetN = false → (s.field f).ringOn = true → (s.field f).ringLost = false →
    ∃ u, exec (.ringLoss f t) s = .next u ∧ (u.field f).ringLost = true ∧ (u.field f).ringLostAt = max s.now t
      ∧ ∀ n ∈ fieldPads f, (s.pad n).power ≠ .dark → (u.pad n).clockLost = true)
  ∧ (∀ (ppm : Nat) (t : Time) (s : State), s.resetN = false → ppm ≤ 20 → s.refAbsent.length < 4 →
    ∃ u, exec (.meshLock ppm t) s = .next u ∧ u = { s with now := max s.now t, meshLocked := true })
  ∧ (∀ (edge : Option (Fin 4)) (t : Time) (s : State), s.resetN = false → (∃ e ∈ edgesOf edge, e ∉ s.refAbsent) →
    ∃ u, exec (.referenceAbsent edge t) s = .next u
      ∧ (∀ e < 4, (e ∈ u.refAbsent ↔ e ∈ s.refAbsent ∨ e ∈ edgesOf edge)) ∧ u.refSince = some (max s.now t) ∧ u.alertN = true
      ∧ ((∀ e < 4, e ∈ u.refAbsent) → u.meshLocked = false))
  ∧ (∀ (edge : Option (Fin 4)) (t : Time) (s : State), s.resetN = false → (∃ e ∈ edgesOf edge, e ∈ s.refAbsent) →
    ∃ u, exec (.referenceReturn edge t) s = .next u
      ∧ (∀ e, e ∈ u.refAbsent ↔ e ∈ s.refAbsent ∧ e ∉ edgesOf edge) ∧ (u.refAbsent = [] → u.refSince = none))

/-- Sensors, thermal trips and the loop. A sample of a paddock or a die is kept; a reading outside −20…150 °C is dated from
the first such sample and its date is dropped by the next reading inside (R633, R634); a powered paddock whose third sample
in a row is at 105 °C goes DARK, its trip waiting for the retry, or lasting in the retry or within an hour of the first
(R641, R642), and one whose second sensor fails goes DARK for good (R641); the retry waits for 100 ms, 80 °C and the field
and is then put in the wave, and its verdict after 10 ms in GRAZE ends the trip where every sample was below 92 °C and makes
it lasting at 105 °C (R642); the coolant readings are kept, and a coolant sensor is reachable where it was read (R636, R619);
a field at 92 °C throttles and asserts ALERT_N as it begins (R637, R640). -/
def Obligations.ThermalTripsAndRetries : Prop :=
  (∀ (n : Pad) (a b : Int) (t : Time) (s : State), s.resetN = false →
    ∃ u, exec (.sensorSample (.pad n a b) t) s = .next u ∧ (u.pad n).s0 = a ∧ (u.pad n).s1 = b
      ∧ (u.pad n).bad0 = (if a < -160 ∨ 1200 < a then some ((s.pad n).bad0.getD (max s.now t)) else none)
      ∧ (u.pad n).bad1 = (if b < -160 ∨ 1200 < b then some ((s.pad n).bad1.getD (max s.now t)) else none))
  ∧ (∀ (n : Pad) (a b : Int) (t : Time) (s : State), s.resetN = false → s.testing = false →
    3 ≤ ((s.pad n).sample a b (max s.now t)).hot → ((s.pad n).power ≠ .dark ∨ (s.pad n).soft = true) →
    ((s.pad n).fail0 = true ∧ (s.pad n).fail1 = true
      ∨ ¬(((s.pad n).sample a b (max s.now t)).fail0 = true ∧ ((s.pad n).sample a b (max s.now t)).fail1 = true)) →
    ∃ u, exec (.sensorSample (.pad n a b) t) s = .next u ∧ (u.pad n).power = .dark
      ∧ (u.pad n).trip = (if (s.pad n).tripLasts (max s.now t) then .lasting else .waiting (max s.now t)))
  ∧ (∀ (n : Pad) (a b : Int) (t : Time) (s : State), s.resetN = false → s.testing = false → (s.entry n).st ≠ 2 →
    ((s.pad n).sample a b (max s.now t)).fail0 = true → ((s.pad n).sample a b (max s.now t)).fail1 = true →
    ((s.pad n).fail0 = false ∨ (s.pad n).fail1 = false) →
    ∃ u, exec (.sensorSample (.pad n a b) t) s = .next u ∧ (u.pad n).power = .dark ∧ (u.pad n).trip = .lasting ∧ (u.entry n).st = 2)
  ∧ (∀ (k : NedIx) (v : Int) (t : Time) (s : State), s.resetN = false → s.nedTemp.length = 24 →
    ∃ u, exec (.sensorSample (.ned k v) t) s = .next u ∧ (u.nedTemp.getD k (0, 0)).1 = v)
  ∧ (∀ (k : MedIx) (v : Int) (t : Time) (s : State), s.resetN = false → s.medTemp.length = 12 →
    ∃ u, exec (.sensorSample (.med k v) t) s = .next u ∧ (u.medTemp.getD k (0, 0)).1 = v)
  ∧ (∀ (k : SpdIx) (v : Int) (t : Time) (s : State), s.resetN = false → s.spdTemp.length = 16 →
    ∃ u, exec (.sensorSample (.spd k v) t) s = .next u ∧ (u.spdTemp.getD k (0, 0)).1 = v)
  ∧ (∀ (k : ShcIx) (v : Int) (t : Time) (s : State), s.resetN = false →
    ∃ u, exec (.sensorSample (.shc k v) t) s = .next u ∧ (u.shc k).temp = v)
  ∧ (∀ (n : Pad) (since : Time) (t : Time) (s : State), s.resetN = false → s.pwrFail = false → s.fieldOn n = true →
    (s.pad n).fuse = .closed → (s.pad n).trip = .waiting since → (s.pad n).cooled (max s.now t) = true →
    ∃ u, exec (.thermalTripRetry n t) s = .next u ∧ (∃ peak, (u.pad n).trip = .retrying (max s.now t) peak)
      ∧ u.wave = (s.wave.filter fun w => w.1 ≠ n.val) ++ [(n.val, .graze)])
  ∧ (∀ (n : Pad) (since : Time) (peak : Int) (t : Time) (s : State), s.resetN = false → s.pwrFail = false → (s.pad n).power = .graze →
    (s.pad n).fuse = .closed → (s.pad n).trip = .retrying since peak → since + 10 * msec ≤ max s.now t →
    ∃ u, exec (.thermalRetryVerdict n t) s = .next u ∧ (peak < 736 → (u.pad n).trip = .none)
      ∧ (840 ≤ peak → (u.pad n).trip = .lasting ∧ (u.pad n).power = .dark ∧ (u.entry n).st = 2)
      ∧ ((u.pad n).trip = .none ∨ (u.pad n).trip = .lasting))
  ∧ (∀ (i o : Option Int) (t : Time) (s : State), s.resetN = false → s.active.isSome →
    ∃ u, exec (.loopCheck i o t) s = .next u ∧ u.inlet = i ∧ u.outlet = o
      ∧ u.reachable 0x70 = i.isSome ∧ u.reachable 0x71 = o.isSome)
  ∧ (∀ (f : FieldIx) (temp : Int) (t : Time) (s : State), s.resetN = false → s.pwrFail = false → (s.field f).stage = .on →
    s.fieldTemp f = some temp →
    ∃ u, exec (.throttleEval f t) s = .next u
      ∧ (736 ≤ temp → (u.field f).throttle = true ∧ ((s.field f).throttle = false → u.alertN = true))
      ∧ (temp < 736 → (s.field f).throttle = false → (s.field f).widened = [] → (u.field f).throttle = false)
      ∧ (712 ≤ temp → (u.field f).cool = none))
  ∧ (∀ (ln : Ln) (s : State), s.accepts ln .view true →
    ∃ u kv, exec (.showThermal ln) s = .next u ∧ OnlySessions s u
      ∧ Answers s u ln (.ok (("inlet", tempVal s.inlet 128) :: ("outlet", tempVal s.outlet 128) :: kv)))
  ∧ (∀ (c r : Nat) (ln : Ln) (s : State), s.accepts ln .view true → c < 28 → r < 48 →
    ∃ u, exec (.showSensors (.inl (.pad c r)) ln) s = .next u ∧ OnlySessions s u ∧ Answers s u ln (.ok [("count", .num 2)]))
  ∧ (∀ (d : DieName) (ln : Ln) (s : State), s.accepts ln .view true → dieDest d ≠ none →
    ∃ u, exec (.showSensors (.inr d) ln) s = .next u ∧ OnlySessions s u ∧ Answers s u ln (.ok [("count", .num 1)]))

/-- Firmware. In B1 a controller runs the image that its ROM picks; SHC-A is then active with the consoles up, or SHC-B where
SHC-A has failed, and a controller that is active already stays so (R703, R704, R705, R756, R757); with no image to run, or a
stepping that differs, the controller is in doubt (R19, R703); a signed recovery image sent to the waiting ROM of the
selected controller makes it active from RAM (R758). -/
def Obligations.FirmwareMakesAControllerActive : Prop :=
  (∀ (i : ShcIx) (sigs : List Bool) (step : BitVec 4) (slot : Nat) (w : Firmware) (t : Time) (s : State), s.resetN = false →
    s.boot.phase = .b1 → s.boot.jtag = false → i.val ∉ s.boot.fwTried → s.romPick sigs = some (slot, w) → step.toNat = w.stepping →
    ∃ u, exec (.firmwareVerified i sigs step t) s = .next u ∧ (u.shc i).st = .ok ∧ (u.shc i).slot = slot
      ∧ (u.shc i).firmware = w.version ∧ (u.shc i).svn = w.svn ∧ u.boot.fwTried = s.boot.fwTried ++ [i.val]
      ∧ (s.active.isSome → u.active = s.active)
      ∧ (s.active = none → (i = 0 ∨ 0 ∈ s.boot.fwTried ∧ s.shcA.st ≠ .ok) →
        u.active = some i.val ∧ u.sel = i.val ∧ u.boot.consoles = true))
  ∧ (∀ (i : ShcIx) (sigs : List Bool) (step : BitVec 4) (t : Time) (s : State), s.resetN = false → s.boot.phase = .b1 →
    s.boot.jtag = false → i.val ∉ s.boot.fwTried → (∀ slot w, s.romPick sigs = some (slot, w) → step.toNat ≠ w.stepping) →
    ∃ u, exec (.firmwareVerified i sigs step t) s = .next u ∧ (u.shc i).st = .doubt)
  ∧ (∀ (i : ShcIx) (image : List Byte) (w : Firmware) (t : Time) (s : State), s.resetN = false → s.boot.phase = .b1 → s.active = none →
    s.sel = i.val → i.val ∈ s.boot.fwTried → (s.shc i).st = .doubt → firmwareOf image = some w → s.runs true w = true →
    ∃ u, exec (.recoveryImageReceived i image true t) s = .next u ∧ u.active = some i.val ∧ (u.shc i).st = .ok ∧ (u.shc i).slot = 3
      ∧ (u.shc i).firmware = w.version ∧ u.boot.consoles = true)

/-- The edge. With the stages read B1 ends and B2 begins, the stages that failed are unreachable, and a field without its
stage is 16 HOLEs (R705, R706); each edge die's verdict is kept, and a die that fails is in doubt (R707); with no reference 1
s into B2 bring-up halts (R708); the always-on rails start the rings of the fields that take part (R709). -/
def Obligations.EdgeDiesBeforeFields : Prop :=
  (∀ (failed : List Nat) (t : Time) (s : State), s.resetN = false → s.boot.phase = .b1 → s.active.isSome → s.boot.consoles = true →
    ∃ u, exec (.stagesSettled failed t) s = .next u ∧ u.boot.phase = .b2 ∧ (∀ d ∈ failed, u.reachable d = false)
      ∧ (∀ f < 84, fieldAddr f ∈ failed → ∀ n ∈ fieldPads f, (u.entry n).st = 2)
      ∧ (∀ d ∈ edgeDieList, 0x64 + dieEdge d ∈ failed → tabGet 0 u.boot.dies d = 2))
  ∧ (∀ (die : Nat) (passed : Bool) (t : Time) (s : State), s.resetN = false → s.sized → s.boot.phase = .b2 → s.boot.halted = false →
    s.refAbsent.length < 4 → die ∈ edgeDieList → tabGet 0 s.boot.dies die = 0 →
    ∃ u, exec (.edgeDieTestComplete die passed t) s = .next u ∧ tabGet 0 u.boot.dies die = (if passed then 1 else 2)
      ∧ (passed = false → u.dieDoubt die = true))
  ∧ (∀ (since : Nat × Time) (t : Time) (s : State), s.resetN = false → s.boot.phase = .b2 → s.boot.halted = false →
    s.refAbsent.length = 4 → s.boot.ended.getLast? = some since → since.2 + second ≤ max s.now t →
    ∃ u, exec (.referenceWaitTimeout t) s = .next u ∧ u.boot.halted = true)
  ∧ (∀ (t : Time) (s : State), s.resetN = false → s.boot.phase = .b3 → s.boot.aon = false →
    ∃ u, exec (.aonRailsInWindow t) s = .next u ∧ u.boot.aon = true
      ∧ ∀ f < 84, s.bootField f = true → (u.field f).ringOn = true ∧ (u.field f).ringLost = false)

/-- Fields and paddocks. Groups of core rails come on at 0.750 V, and after the last B4 begins (R709); rings are taken
outside in once every paddock of one has its verdict or cannot have one (R711); a paddock's verdict makes it GOOD, or
SPARE-REMAPPED with its column, and free to receive, or a HOLE with cause 1 that is DARK (R61, R713, R714, R716); lanes that
fail their border's test are lasting-down (R715); after ring 13 there is one sweep, where a paddock without a verdict and
without a passed neighbour is a HOLE (R712). -/
def Obligations.FieldsAndPaddocksAreTested : Prop :=
  (∀ (g : Fin 7) (t : Time) (s : State), s.resetN = false → s.boot.phase = .b3 → s.boot.aon = true → s.meshLocked = true →
    s.boot.groups = g.val →
    ∃ u, exec (.coreRailGroup g t) s = .next u ∧ u.boot.groups = g.val + 1 ∧ (g.val = 6 → u.boot.phase = .b4 ∨ u.boot.phase = .b5)
      ∧ ∀ f, 12 * g.val ≤ f → f < 12 * g.val + 12 → s.bootField f = true → (s.field f).stage = .off →
        (u.field f).stage = .on ∧ (u.field f).vcore = 750 ∧ (u.field f).vtarget = 750)
  ∧ (∀ (t : Time) (s : State), s.resetN = false → s.testing = true → s.boot.ring ≤ 13 →
    (∀ n ∈ ringPads s.boot.ring, s.hasVerdict n = true ∨ s.testerOf n = none ∧ (s.pad n).power = .dark ∧ (s.pad n).soft = false) →
    ∃ u, exec (.ringWaveAdvance t) s = .next u ∧ u.boot.ring = s.boot.ring + 1)
  ∧ (∀ (n : Pad) (v : PadVerdict) (col : Option Nat) (t : Time) (s : State), s.resetN = false → s.testing = true →
    (s.pad n).power = .graze → s.hasVerdict n = false → (s.boot.swept = true ∨ (s.testerOf n).isSome) →
    (v = .pass ∧ col = none ∨ ∃ c, v = .column c ∧ c ≤ 32 ∧ isFine n = true ∧ col = some c) →
    ∃ u, exec (.paddockTestComplete n v t) s = .next u
      ∧ u.entry n = (match col with
        | some c => ⟨1, c, 0⟩
        | none => ⟨0, 63, 0⟩)
      ∧ (u.pad n).hurdled = false ∧ (u.pad n).masked = false ∧ (u.pad n).power = .graze ∧ tabGet 0 u.boot.verdicts n = 1)
  ∧ (∀ (n : Pad) (v : PadVerdict) (t : Time) (s : State), s.resetN = false → s.testing = true → (s.pad n).power = .graze →
    s.hasVerdict n = false → (s.boot.swept = true ∨ (s.testerOf n).isSome) →
    (v = .fail ∨ ∃ c, v = .column c ∧ (isFine n = false ∨ 32 < c)) →
    ∃ u, exec (.paddockTestComplete n v t) s = .next u ∧ (u.entry n).st = 2 ∧ (u.entry n).cause = 1 ∧ (u.pad n).power = .dark
      ∧ tabGet 0 u.boot.verdicts n = 2)
  ∧ (∀ (x y : EndIx) (failed : List (Fin 4)) (t : Time) (s : State), s.resetN = false → s.boot.phase = .b4 → s.endOn x 0 = true →
    peerEnd x = some y → s.endOn y 0 = true →
    ∃ u, exec (.borderTestComplete x failed t) s = .next u
      ∧ ∀ l ∈ failed, s.endOn x l = true → s.endOn y l = true → (u.link x l).lastingDown = true
      ∧ ((s.link x l).lastingDown = false → (u.link y l).lastingDown = true))
  ∧ (∀ (t : Time) (s : State), s.resetN = false → s.testing = true → s.boot.ring = 14 → s.boot.swept = false →
    ∃ u, exec (.sweep t) s = .next u ∧ u.boot.swept = true
      ∧ ∀ n < 1344, s.hasVerdict n = false → (∀ d < 4, ∀ m, padBeyond n d = some m → s.passed m = false) → (u.entry n).st = 2)

/-- READY. B5 ends with the engine READY, and the latch of a lost standby supply cleared, where the map reads back or need
not be written (R702, R720, R723); where a full bring-up's map does not read back, it stays in B5. The active controller
refreshes the READY latch, which falls 50 ms after its last refresh (R722). -/
def Obligations.ReadyIsReachedAndLatched : Prop :=
  (∀ (flashOk : Bool) (t : Time) (s : State), s.resetN = false → s.boot.phase = .b5 → s.active.isSome →
    (flashOk = true ∧ s.frozen = false ∨ s.boot.full = false ∧ (s.tick t).bootEntries.mapChanged = false) →
    ∃ u, exec (.bootMapAndReady flashOk t) s = .next u ∧ u.boot.phase = .ready ∧ u.ready = true ∧ u.readyAt = max s.now t
      ∧ u.vstby = false)
  ∧ (∀ (flashOk : Bool) (t : Time) (s : State), s.resetN = false → s.boot.phase = .b5 → s.active.isSome →
    s.boot.full = true → (flashOk = false ∨ s.frozen = true) →
    ∃ u, exec (.bootMapAndReady flashOk t) s = .next u ∧ OnlyTime s u)
  ∧ (∀ (t : Time) (s : State), s.resetN = false → s.active.isSome → s.ready = true →
    ∃ u, exec (.readyRefresh t) s = .next u ∧ u = { s with now := max s.now t, readyAt := max s.now t })
  ∧ (∀ (t : Time) (s : State), s.resetN = false → s.ready = true →
    ∃ u, exec (.readyLatchExpiry t) s = .next u
      ∧ u = { s with now := max s.now t, ready := decide (max s.now t < s.readyAt + 50 * msec) })

/-- The boot commands (Table CMD-2): the mode of the next boot and the HOLEs it retests are stored in flash (R701, R717);
`reset engine` answers and starts a bring-up in B1 (R699, R735), and without its key is refused; the views of the engine and
of its boot answer. -/
def Obligations.BootCommandsAct : Prop :=
  (∀ (full : Bool) (ln : Ln) (s : State), s.accepts ln .admin true → s.flashTakes ln = true →
    ∃ u, exec (.setBoot full ln) s = .next u ∧ OnlySessions { s with flash := { s.flash with bootFull := full } } u
      ∧ Answers s u ln (.ok [("mode", .word (fullWord full))]))
  ∧ (∀ (at_ : List Loc) (ns : List Nat) (ln : Ln) (s : State), s.accepts ln .admin true → s.flashTakes ln = true →
    locList at_ = some ns → (∀ n ∈ ns, (s.entry n).st = 2) →
    ∃ u, exec (.setClear at_ ln) s = .next u ∧ OnlySessions { s with flash := { s.flash with clear := ns } } u
      ∧ Answers s u ln (.ok [("count", .num ns.length)]))
  ∧ (∀ (ln : Ln) (s : State), s.accepts ln .admin true → ln.sess < 10 →
    ∃ u, exec (.resetEngine true ln) s = .next u ∧ u.ready = false ∧ u.boot.phase = .b1 ∧ u.boot.released = max s.now ln.t
      ∧ u.resetN = false ∧ u.active = none ∧ u.folds = [] ∧ u.pads = [] ∧ Answers s u ln (.ok []))
  ∧ (∀ (ln : Ln) (s : State), s.accepts ln .admin true →
    ∃ u, exec (.resetEngine false ln) s = .next u ∧ OnlySessions s u ∧ Answers s u ln (.err 114 [("key", .word "confirm")]))
  ∧ (∀ (detail : Bool) (ln : Ln) (s : State), s.accepts ln .view true →
    ∃ u kv, exec (.showEngine detail ln) s = .next u ∧ OnlySessions s u
      ∧ Answers s u ln (.ok (("engine", .word "MW-700") :: ("stepping", .word "B") :: ("wafer", .num s.me)
        :: ("state", .word (bootWord s)) :: kv)) ∧ (detail = false → kv = []))
  ∧ (∀ (ln : Ln) (s : State), s.accepts ln .view true →
    ∃ u, exec (.showBoot ln) s = .next u ∧ OnlySessions s u
      ∧ Answers s u ln (.ok [("run", .word (fullWord s.boot.full)), ("stored", .word (fullWord s.flash.bootFull)),
        ("cause", .word (causeWord s.boot.cause)), ("count", .num s.boot.ended.length)]))

/-- Beats of the controllers. A keep-alive is sent to every NED (R739); a heartbeat carries the role, firmware and mirror
(R741); a heartbeat received on either path ends a probe, a partner whose health byte is not zero is in doubt, and one that
was absent and is well is back (R682, R740, R741); 20 ms without one asks once (R682), and 10 ms without an answer makes the
backup active, the other in doubt, and asserts FAULT_N (R682). Selection. An active controller that enters doubt hands over
at once, or with no backup to take the role leaves the engine with none and not READY (R682, R744); `handover shc` hands over
for an operator, and a console then has its answer (R737, R781); the cell takes no request for 100 ms after a switch (R737);
the view of the two controllers answers. -/
def Obligations.ControllersTakeOver : Prop :=
  (∀ (t : Time) (s : State), s.resetN = false → s.active.isSome →
    ∃ u, exec (.keepaliveSend t) s = .next u ∧ u.wire = s.wire ++ [.keepalive (max s.now t)] ∧ ∀ n ∈ u.neds, n.lastAlive = max s.now t)
  ∧ (∀ (i : ShcIx) (t : Time) (s : State), s.resetN = false → (s.shc i).st ≠ .absent →
    ∃ u, exec (.heartbeatSend i t) s = .next u ∧ u = { s with now := max s.now t, wire := s.wire ++ [.heartbeat i (s.beat i)] })
  ∧ (∀ (i : ShcIx) (shcl lane0 : Bool) (b : Beat) (t : Time) (s : State), s.resetN = false → (shcl || lane0) = true →
    ∃ u, exec (.heartbeatReceive i shcl lane0 b t) s = .next u ∧ (u.shc i).lastBeat = max s.now t ∧ (u.shc i).probe = none
      ∧ (u.shc i).viaShcl = shcl ∧ (u.shc i).viaLane0 = lane0
      ∧ (b.health ≠ 0 → (u.shc (1 - i)).st = .doubt)
      ∧ (b.health = 0 → s.active ≠ some i.val → (s.shc (1 - i)).st = .absent → (u.shc (1 - i)).st = .ok))
  ∧ (∀ (a : ShcIx) (t : Time) (s : State), s.resetN = false → s.active = some a.val → (s.shc (1 - a)).st = .ok → (s.shc (1 - a)).probe = none →
    (s.shc (1 - a)).lastBeat + 20 * msec ≤ max s.now t →
    ∃ u, exec (.heartbeatMiss t) s = .next u ∧ (u.shc (1 - a)).probe = some (max s.now t) ∧ u.wire = s.wire ++ [.probe (1 - a)])
  ∧ (∀ (a : ShcIx) (p : Time) (t : Time) (s : State), s.resetN = false → s.active = some a.val → (s.shc (1 - a)).st = .ok →
    (s.shc (1 - a)).probe = some p → p + 10 * msec ≤ max s.now t → s.quiet = none →
    ∃ u, exec (.probeTimeout t) s = .next u ∧ u.active = some (1 - a.val) ∧ (u.shc a).st = .doubt ∧ (u.shc a).cause = 4 ∧ u.faultN = true)
  ∧ (∀ (a : ShcIx) (cause : Nat) (t : Time) (s : State), s.resetN = false → s.active = some a.val →
    ∃ u, exec (.selfDoubtHandover cause t) s = .next u ∧ (u.shc a).st = .doubt ∧ (u.shc a).cause = cause
      ∧ ((s.shc (1 - a)).st = .ok → s.quiet = none → u.active = some (1 - a.val) ∧ u.quiet = some (max s.now t))
      ∧ ((s.shc (1 - a)).st ≠ .ok ∨ s.quiet ≠ none → u.active = none ∧ u.ready = false))
  ∧ (∀ (a : ShcIx) (ln : Ln) (s : State), s.accepts ln .admin false → s.active = some a.val → (s.shc (1 - a)).st = .ok → s.quiet = none →
    ∃ u, exec (.handoverShc ln) s = .next u ∧ u.active = some (1 - a.val) ∧ u.quiet = some (max s.now ln.t)
      ∧ (ln.sess < 2 → Answers s u ln (.ok [("active", .word (shcWord (1 - a)))])))
  ∧ (∀ (q t : Time) (s : State), s.resetN = false → s.quiet = some q → q + 100 * msec ≤ max s.now t →
    ∃ u, exec (.selectionQuietExpiry t) s = .next u ∧ u = { s with now := max s.now t, quiet := none })
  ∧ (∀ (ln : Ln) (s : State), s.accepts ln .view true →
    ∃ u, exec (.showShc ln) s = .next u ∧ OnlySessions s u ∧ Answers s u ln (.ok [("count", .num 2)]))

/-- The mirror and firmware. An unacknowledged change is asked about once (R742), and 10 ms later the backup is in doubt
(R743). `update firmware` is accepted and takes its stage; an image that verifies is put in the spare slot, on trial, with
the backup restarted (R757, R759). The backup that rejoins in time on firmware for this stepping is handed the role, and the
rejoin of the other ends the update (R759); one that does not rejoin in 2 s ends it with the old slot preferred (R759);
`raise svn` blows fuses up to the running image's SVN (R761). -/
def Obligations.MirrorAndFirmware : Prop :=
  (∀ (a : ShcIx) (t : Time) (s : State), s.resetN = false → s.active = some a.val → (s.shc (1 - a)).st = .ok → s.mirrorProbe = none →
    0 < s.mirrorSeq →
    ∃ u, exec (.mirrorAckTimeout t) s = .next u
      ∧ u = { s with now := max s.now t, mirrorProbe := some (max s.now t), wire := s.wire ++ [.probe a] })
  ∧ (∀ (a : ShcIx) (p t : Time) (s : State), s.resetN = false → s.active = some a.val → s.mirrorProbe = some p → p + 10 * msec ≤ max s.now t →
    ∃ u, exec (.mirrorProbeTimeout t) s = .next u ∧ u.mirrorProbe = none ∧ (u.shc (1 - a)).st = .doubt ∧ (u.shc (1 - a)).cause = 5 ∧ u.faultN = true)
  ∧ (∀ (a : ShcIx) (i : Nat) (w : Firmware) (since : Time) (t : Time) (s : State), s.resetN = false → s.active = some a.val →
    s.fwUpdate = .rejoin i since → s.flash.slot i = some w → w.stepping = 2 → max s.now t ≤ since + 2 * second → s.quiet = none →
    ∃ u, exec (.backupRejoin (s.shc a).mirrorVersion t) s = .next u ∧ u.active = some (1 - a.val) ∧ u.fwUpdate = .handover i
      ∧ (u.shc a).st = .absent ∧ (u.shc (1 - a)).st = .ok ∧ (u.shc (1 - a)).slot = i ∧ (u.shc (1 - a)).firmware = w.version)
  ∧ (∀ (a : ShcIx) (v i : Nat) (w : Firmware) (t : Time) (s : State), s.resetN = false → s.active = some a.val →
    s.fwUpdate = .handover i → s.flash.slot i = some w → w.stepping = 2 →
    ∃ u, exec (.backupRejoin v t) s = .next u ∧ u.active = some a.val ∧ u.fwUpdate = .none
      ∧ (u.shc (1 - a)).st = .ok ∧ (u.shc (1 - a)).slot = i ∧ (s.frozen = false → u.flash.trial = false))
  ∧ (∀ (i : Nat) (since : Time) (t : Time) (s : State), s.resetN = false → s.fwUpdate = .rejoin i since →
    since + 2 * second ≤ max s.now t →
    ∃ u, exec (.backupRejoinTimeout t) s = .next u ∧ u.fwUpdate = .none
      ∧ (s.frozen = false → u.flash.preferred = 1 - i ∧ u.flash.trial = false))
  ∧ (∀ (b : StageBuf) (sigOk : Bool) (ln : Ln) (s : State), s.accepts ln .admin false →
    s.stages.find? (fun x => x.id = b.id && x.firmware) = some b → s.fwUpdate = .none →
    (∀ f ∈ s.folds, f.load = none ∧ f.st ≠ .migrating ∧ f.st ≠ .loading) → b.size ≤ b.data.length →
    ∃ u, exec (.updateFirmware b.id sigOk ln) s = .next u ∧ Answers s u ln (.ok [("state", .word "updating")])
      ∧ (∀ x ∈ u.stages, x.id ≠ b.id)
      ∧ ∀ w i, firmwareOf b.data = some w → s.spareSlot = some i → s.flashTakes ln = true → s.runs sigOk w = true →
        u.fwUpdate = .rejoin i (max s.now ln.t) ∧ u.flash.preferred = i ∧ u.flash.trial = true ∧ u.flash.slot i = some w
          ∧ (u.shc (1 - s.active.getD 0)).st = .absent)
  ∧ (∀ (a : ShcIx) (ln : Ln) (s : State), s.accepts ln .admin false → s.active = some a.val → s.fuses.svn < (s.shc a).svn →
    ∃ u, exec (.raiseSvn ln) s = .next u ∧ OnlySessions { s with fuses := { s.fuses with svn := (s.shc a).svn } } u
      ∧ Answers s u ln (.ok [("svn", .num (s.shc a).svn)]))

/-- Musters and checkpoints. At the end of its interval a RUNNING fold is CHECKPOINTING and mustered (R461, R463); the muster
over (R540), the checkpoint set is written under the next sequence number and the fold is RUNNING (R461, R462), or the
migration that it served is over (R673); a muster that does not complete is a watchdog expiry (R541). -/
def Obligations.MustersAndCheckpoints : Prop :=
  (∀ (id ms : Nat) (f : Fold) (t : Time) (s : State), s.resetN = false → s.active.isSome → s.foldOf id = some f → f.st = .running →
    f.release = none → f.image.isSome → f.transition = none → f.ckpt = some ms → f.ckptBase + ms * msec ≤ max s.now t →
    ∃ u, exec (.checkpointDue id t) s = .next u ∧ ∃ g, u.foldOf id = some g ∧ g.st = .checkpointing ∧ g.muster = some .checkpoint
      ∧ g.musterAt = max s.now t ∧ g.ckpt = (if f.ckptPend.isSome then f.ckptPend else f.ckpt))
  ∧ (∀ (id : Nat) (f : Fold) (t : Time) (s : State), s.resetN = false → s.foldOf id = some f → f.muster = some .checkpoint → f.transition = none →
    (s.tick t).quietFold f = true →
    ∃ u, exec (.musterComplete id t) s = .next u ∧ u.foldOf id = some { f with muster := none })
  ∧ (∀ (id : Nat) (f : Fold) (t : Time) (s : State), s.resetN = false → s.foldOf id = some f → f.muster = some .fleece →
    f.recovery.isSome → f.transition = none → (s.tick t).quietFold f = true →
    ∃ u, exec (.musterComplete id t) s = .next u ∧ ∃ g, u.foldOf id = some g ∧ g.st = .running ∧ g.muster = none ∧ g.recovery = none
      ∧ g.ckptBase = max s.now t)
  ∧ (∀ (id : Nat) (f : Fold) (t : Time) (s : State), s.resetN = false → s.foldOf id = some f → f.muster.isSome → f.transition = none →
    f.musterAt + 200 * f.qMax + 100 * usec ≤ max s.now t →
    ∃ u, exec (.musterTimeout id t) s = .next u ∧ u.foldOf id = some { f with muster := none }
      ∧ u.reports.any (fun r => r.trigger = .watchdog && r.folds = [id]) = true)
  ∧ (∀ (id : Nat) (f : Fold) (im : Image) (t : Time) (s : State), s.resetN = false → s.foldOf id = some f → f.st = .checkpointing →
    f.muster = none → f.image = some im →
    ∃ u, exec (.checkpointWriteDone id t) s = .next u ∧ ∃ g, u.foldOf id = some g ∧ g.st = .running ∧ g.ckptSeq = f.ckptSeq + 1
      ∧ g.lastCkpt = some (max s.now t) ∧ g.ckptBase = max s.now t
      ∧ ∃ c ∈ g.copies, c.seq = f.ckptSeq + 1 ∧ c.digest = im.digest ∧ c.epoch = f.epoch ∧ c.data = s.readSet f im)

/-- Reports and notices. A REPORT received asserts FAULT_N (R663); where Table FAULT-1 gives STOP its fold is stopped, and
where it gives RESTART a fold in service restarts (R660, R664, R665). A report not acknowledged for 1 ms is sent again
(R659). A notice refuses a fold's request in the pen or the wafer (R661), and masks and hurdles a paddock that the fold
holds, or of its slot the context alone (R662). -/
def Obligations.ReportsAndNotices : Prop :=
  (∀ (r : PendReport) (t : Time) (s : State), s.resetN = false → s.active.isSome → r ∈ s.reports →
    ∃ u, exec (.reportReceived r.trigger r.folds r.place t) s = .next u ∧ u.faultN = true)
  ∧ (∀ (r : PendReport) (id : Nat) (f : Fold) (t : Time) (s : State), s.resetN = false → s.active.isSome → r ∈ s.reports → r.folds = [id] →
    s.foldOf id = some f → (s.tick t).meansFor f r.trigger r.place = .stop → f.release = none → f.load = none →
    (f.st = .running ∨ f.st = .reconfiguring ∨ f.st = .checkpointing ∨ f.st = .doubt ∨ f.st = .migrating) →
    ∃ u, exec (.reportReceived r.trigger r.folds r.place t) s = .next u ∧ u.stOf id = some .stopped ∧ u.notice id = some .stopped)
  ∧ (∀ (r : PendReport) (id : Nat) (f : Fold) (t : Time) (s : State), s.resetN = false → s.active.isSome → r ∈ s.reports → r.folds = [id] →
    s.foldOf id = some f → (s.tick t).meansFor f r.trigger r.place = .restart → f.release = none → f.load = none →
    (f.st = .running ∨ f.st = .reconfiguring ∨ f.st = .checkpointing) →
    ∃ u, exec (.reportReceived r.trigger r.folds r.place t) s = .next u ∧ ∃ g, u.foldOf id = some g ∧ g.st = .migrating
      ∧ (g.recovery.map fun x => x.means) = some .restart ∧ u.notice id = some .migrating)
  ∧ (∀ (t : Time) (s : State), s.resetN = false → (∃ r ∈ s.reports, r.since + msec ≤ max s.now t) →
    ∃ u, exec (.reportResend t) s = .next u ∧ u = { s with now := max s.now t
                                                           reports := s.reports.map fun r =>
                                                             if r.since + msec ≤ max s.now t then { r with since := max s.now t } else r })
  ∧ (∀ (k : NedIx) (id : Nat) (r : Req) (x : FoldState) (t : Time) (s : State), s.sized → s.resetN = false → (s.ned k).doubt = false →
    s.notice id = some x → (s.ned k).reqs = [r] → r.fold = id → (r.phase = .penned ∨ r.phase = .wafer) → r.fcs ≠ some false →
    ∃ u, exec (.doubtNoticeNed k id t) s = .next u ∧ ∃ q, (u.ned k).reqs = [q] ∧ q.fid = r.fid ∧ q.phase = .waiting
      ∧ q.reply = some (.refused (if x = .migrating then rsMigrating else rsFault)))
  ∧ (∀ (n : Pad) (id : Nat) (t : Time) (s : State), s.resetN = false → (s.notice id).isSome → (s.pad n).excl = id → id ≠ 0 →
    ∃ u, exec (.doubtNoticePaddock n id t) s = .next u ∧ (u.pad n).hurdled = true ∧ (u.pad n).masked = true)
  ∧ (∀ (n : Pad) (k id : Nat) (t : Time) (s : State), s.resetN = false → (s.notice id).isSome → (s.pad n).excl = 0 → k < 4 →
    (s.pad n).slots.getD k 0 = id → id ≠ 0 →
    ∃ u, exec (.doubtNoticePaddock n id t) s = .next u ∧ k ∈ (u.pad n).maskedCtx ∧ (u.pad n).hurdled = (s.pad n).hurdled
      ∧ ∀ j, (s.pad n).slots.getD j 0 ≠ id → (j ∈ (u.pad n).maskedCtx ↔ j ∈ (s.pad n).maskedCtx))

/-- Steps of a recovery: a paddock scanned into its target leaves the list (R542, R673), and one whose scan meets an
uncorrectable word makes the migration go on by checkpoint (R674); a copy that fails its check stops the fold (R462, R678),
and one that passes restores it, the relocation record then committing it (R673); with the relocation record written, a
migration by fleece with nothing left to scan commits and is mustered, and a restored one is over (R673). -/
def Obligations.RecoveriesStepForward : Prop :=
  (∀ (id : Nat) (n : Pad) (m : Nat) (r : Recovery) (f : Fold) (t : Time) (s : State), s.resetN = false → s.foldOf id = some f →
    s.recovering id = some r → r.means = .fleece → n.val ∈ r.shears → s.canFleece n = true → r.moves.find? (fun q => q.1 = n.val) = some (n.val, m) →
    ∃ u, exec (.shearComplete id n true t) s = .next u ∧ ∃ g, u.foldOf id = some g ∧ g.recovery = some { r with shears := r.shears.filter (· ≠ n.val) })
  ∧ (∀ (id : Nat) (n : Pad) (good : Bool) (r : Recovery) (f : Fold) (t : Time) (s : State), s.resetN = false → s.foldOf id = some f →
    s.recovering id = some r → r.means = .fleece → n.val ∈ r.shears → (good = false ∨ s.canFleece n = false) →
    ∃ u, exec (.shearComplete id n good t) s = .next u ∧ ∃ g, u.foldOf id = some g ∧ g.transition = none ∧ g.muster = none
      ∧ g.recovery = some { r with means := .checkpoint, shears := [], restored := false, written := false, committed := false })
  ∧ (∀ (id : Nat) (r : Recovery) (t : Time) (s : State), s.resetN = false → s.recovering id = some r →
    (r.means = .checkpoint ∨ r.means = .restart) → r.restored = false →
    ∃ u, exec (.checkpointRestoreComplete id false t) s = .next u ∧ u.stOf id = some .stopped ∧ u.faultN = true)
  ∧ (∀ (id : Nat) (r : Recovery) (f : Fold) (t : Time) (s : State), s.resetN = false → s.foldOf id = some f → f.image.isSome →
    s.recovering id = some r → (r.means = .checkpoint ∨ r.means = .restart) → r.restored = false →
    ∃ u, exec (.checkpointRestoreComplete id true t) s = .next u ∧ ∃ g, u.foldOf id = some g
      ∧ (r.written = false → g.st = .migrating ∧ g.recovery = some { r with restored := true })
      ∧ (r.written = true → g.recovery = none ∧ g.st = (if f.transition.isSome then .reconfiguring else .running)))
  ∧ (∀ (id : Nat) (r : Recovery) (f : Fold) (t : Time) (s : State), s.resetN = false → s.foldOf id = some f → f.image.isSome →
    s.recovering id = some r → r.means = .fleece → r.shears = [] → r.written = false →
    ∃ u, exec (.relocRecordWritten id t) s = .next u ∧ ∃ g, u.foldOf id = some g ∧ g.recovery = some { r with written := true, committed := true }
      ∧ g.muster = some .fleece ∧ g.musterAt = max s.now t)
  ∧ (∀ (id : Nat) (r : Recovery) (f : Fold) (t : Time) (s : State), s.resetN = false → s.foldOf id = some f → f.image.isSome →
    s.recovering id = some r → r.means ≠ .fleece → r.restored = true → r.written = false →
    ∃ u, exec (.relocRecordWritten id t) s = .next u ∧ ∃ g, u.foldOf id = some g ∧ g.recovery = none
      ∧ g.st = (if f.transition.isSome then .reconfiguring else .running))

/-- Clocks and the reference come back, or do not. A paddock whose clock relocks in time and holds is no longer lost (R577),
and otherwise is a DARK HOLE, with cause 5 outside a latched field; a ring that relocks within 1 ms is good again with its
paddocks' clocks, and otherwise every paddock of the field is a HOLE (R578); the dies of an edge without the reference for 10
ms are in doubt (R579, R937). -/
def Obligations.ClocksAndReferenceAreJudged : Prop :=
  (∀ (n : Pad) (locked : Option Time) (held : Bool) (t : Time) (s : State), s.resetN = false → (s.pad n).clockLost = true →
    (s.field (fieldOf n)).ringLost = false →
    ∃ u, exec (.clockRelockVerdict n locked held t) s = .next u ∧ (u.pad n).clockLost = false
      ∧ (heldAfter (s.pad n).lostAt (100 * usec) locked held (max s.now t) = true → s.foldsOn n = [] → u.entry n = s.entry n)
      ∧ (heldAfter (s.pad n).lostAt (100 * usec) locked held (max s.now t) = false → (u.pad n).power = .dark ∧ (u.entry n).st = 2
        ∧ ((s.field (fieldOf n)).latched = false → (u.entry n).cause = 5)))
  ∧ (∀ (f : FieldIx) (locked : Option Time) (held : Bool) (t : Time) (s : State), s.resetN = false → (s.field f).ringLost = true →
    ∃ u, exec (.ringRelockVerdict f locked held t) s = .next u
      ∧ (heldAfter (s.field f).ringLostAt msec locked held (max s.now t) = true →
        (u.field f).ringLost = false ∧ ∀ n ∈ fieldPads f, (u.pad n).clockLost = false)
      ∧ (heldAfter (s.field f).ringLostAt msec locked held (max s.now t) = false → ∀ n ∈ fieldPads f, (u.entry n).st = 2))
  ∧ (∀ (edge : Option (Fin 4)) (a t : Time) (s : State), s.sized → s.resetN = false → (∀ e ∈ edgesOf edge, e ∈ s.refAbsent) →
    s.refSince = some a → a + 10 * msec ≤ max s.now t →
    ∃ u, exec (.referenceAbsentLong edge t) s = .next u
      ∧ (∀ k < 24, k / 6 ∈ edgesOf edge → (u.ned k).doubt = true) ∧ (∀ k < 16, k / 4 ∈ edgesOf edge → (u.spd k).doubt = true)
      ∧ (∀ k < 12, k / 3 ∈ edgesOf edge → (u.med k).doubt = true))

/-- The operator's part (Tables CMD-2, CMD-8). `ack fault` lets FAULT_N and ALERT_N go where nothing stands (R663); a die in
doubt that passes its retest returns to service, and one that fails it, or is still too hot, does not (R643, R679, R707); a
downed lane that passes is restored at both its ends, and one that fails is not (R715); `show link` answers for one lane or
for the four of a border. -/
def Obligations.AcknowledgeAndRestore : Prop :=
  (∀ (ln : Ln) (s : State), s.accepts ln .operate false →
    ∃ u, exec (.ackFault ln) s = .next u ∧ u.faultN = (s.faultN && s.faultStands) ∧ u.alertN = (s.alertN && s.alertStands)
      ∧ OnlySessions { s with faultN := u.faultN, alertN := u.alertN } u
      ∧ Answers s u ln (.ok [("fault", .word (if u.faultN then "asserted" else "clear")), ("alert", .word (if u.alertN then "asserted" else "clear"))]))
  ∧ (∀ (die : DieName) (d : Nat) (ln : Ln) (s : State), s.accepts ln .admin false → s.sized → dieDest die = some d → s.dieInDoubt die = true →
    s.tooHot die = false →
    ∃ u, exec (.restoreDie die true ln) s = .next u ∧ u.dieInDoubt die = false ∧ Answers s u ln (.ok [("die", .num d), ("state", .word "ok")]))
  ∧ (∀ (die : DieName) (d : Nat) (passed : Bool) (ln : Ln) (s : State), s.accepts ln .admin false → dieDest die = some d →
    s.dieInDoubt die = true → (passed = false ∨ s.tooHot die = true) →
    ∃ u, exec (.restoreDie die passed ln) s = .next u ∧ OnlySessions { s with taps := u.taps, freeCtr := u.freeCtr } u
      ∧ Answers s u ln (.err 501 [("why", .word "test-failed")]))
  ∧ (∀ (c r dir x lane : Nat) (ln : Ln) (s : State), s.accepts ln .admin false → borderAt c r dir = some x → lane ≤ 3 →
    (s.link x lane).lastingDown = true →
    ∃ u, exec (.restoreLane c r dir lane true ln) s = .next u ∧ (u.link x lane).lastingDown = false
      ∧ (∀ y, peerEnd x = some y → (u.link y lane).lastingDown = false)
      ∧ Answers s u ln (.ok [("lane", .num lane), ("state", .word "up")]))
  ∧ (∀ (c r dir x lane : Nat) (ln : Ln) (s : State), s.accepts ln .admin false → borderAt c r dir = some x → lane ≤ 3 →
    (s.link x lane).lastingDown = true →
    ∃ u, exec (.restoreLane c r dir lane false ln) s = .next u ∧ OnlySessions s u ∧ Answers s u ln (.err 501 [("why", .word "test-failed")]))
  ∧ (∀ (c r dir x : Nat) (lane : Option Nat) (ln : Ln) (s : State), s.accepts ln .view true → borderAt c r dir = some x → lane.getD 0 ≤ 3 →
    ∃ u, exec (.showLink c r dir lane ln) s = .next u ∧ OnlySessions s u
      ∧ Answers s u ln (.ok [("count", .num (if lane.isSome then 1 else 4))]))

/-- Loads are accepted, begin and drain. A load that no rule refuses takes its stage and is answered; where the retained
stores have no room it fails with E-797, where it may not begin yet it is queued (R518, R905), and otherwise it begins,
unless a check of its header ends it (R518, R525); a queued load begins when a place is free and no older one waits that may
begin (R518); with its replies given, or 10 ms after it began, decryption goes on (R518). -/
def Obligations.LoadsBeginAndDrain : Prop :=
  (∀ (id : Nat) (f : Fold) (b : StageBuf) (overlap : Bool) (limit : Option Nat) (l : Load) (ln : Ln) (s : State), s.accepts ln .operate false →
    s.foldOf id = some f → s.stages.find? (fun x => x.id = b.id && !x.firmware) = some b → f.release = none → f.load = none →
    1000 ≤ limit.getD 1000000 → limit.getD 1000000 ≤ 100000000 →
    (overlap = false → f.st = .created ∨ f.st = .running ∨ f.st = .stopped ∨ f.st = .doubt) →
    (overlap = true → f.st = .running ∧ f.slots = [] ∧ f.transition = none ∧ f.image.isSome ∧ fld b.data 11 1 % 2 = 1) →
    b.size ≤ b.data.length → l = ⟨overlap, b.data, limit.getD 1000000 * 100, .queued, max s.now ln.t, none, []⟩ →
    ∃ u, exec (.loadFold id b.id overlap limit ln) s = .next u ∧ (∀ x ∈ u.stages, x.id ≠ b.id) ∧ ∃ g, u.foldOf id = some g
      ∧ (2 ^ 33 < s.retainedBytes + b.data.length → g.load = none ∧ g.loadCode = some 797)
      ∧ (s.retainedBytes + b.data.length ≤ 2 ^ 33 → (4 ≤ s.loadsBegun ∨ f.mayBegin l = false) →
        g.load = some l ∧ Answers s u ln (.ok [("state", .word "queued")]))
      ∧ (s.retainedBytes + b.data.length ≤ 2 ^ 33 → s.loadsBegun < 4 → f.mayBegin l = true →
        Answers s u ln (.ok [("state", .word (if overlap then "staging" else "loading"))])
          ∧ (g.load = none ∧ g.loadCode.isSome ∨ g.load = some { l with phase := if overlap || f.st = .created then .decrypting else .draining })))
  ∧ (∀ (id : Nat) (f : Fold) (l : Load) (t : Time) (s : State), s.resetN = false → s.active.isSome → s.loadsBegun < 4 → s.foldOf id = some f →
    f.load = some l → l.phase = .queued → f.mayBegin l = true →
    (∀ g ∈ s.folds, ∀ m, g.load = some m → m.phase = .queued → g.mayBegin m = true → l.since ≤ m.since) →
    ∃ u, exec (.loadStart id t) s = .next u ∧ ∃ g, u.foldOf id = some g ∧
      (g.load = none ∧ g.loadCode.isSome
        ∨ (l.overlap = false → g.st = .loading) ∧ g.load = some { l with phase := if l.overlap || f.st = .created then .decrypting else .draining
                                                                         since := max s.now t }))
  ∧ (∀ (id : Nat) (f : Fold) (l : Load) (t : Time) (s : State), s.resetN = false → s.foldOf id = some f → f.load = some l → l.phase = .draining →
    l.overlap = false → s.inWafer id = [] →
    ∃ u, exec (.loadDrainComplete id t) s = .next u ∧ ∃ g, u.foldOf id = some g ∧ g.load = some { l with phase := .decrypting })
  ∧ (∀ (id : Nat) (f : Fold) (l : Load) (t : Time) (s : State), s.resetN = false → s.foldOf id = some f → f.load = some l → l.phase = .draining →
    l.overlap = false → l.since + 10 * msec ≤ max s.now t →
    ∃ u, exec (.loadDrainExpiry id t) s = .next u ∧ ∃ g, u.foldOf id = some g ∧ g.load = some { l with phase := .decrypting })

/-- Loads are checked and committed. Outside a pause an image that fails a check ends its load with the check's code (R520),
and one that passes waits for its contexts to be staged, or for traffic of its epoch to leave, or is on its way to the
paddocks (R511, R517); every paddock's confirmation makes the fold RUNNING in its next epoch with that image (R508, R518); a
transition that waited starts when the traffic of its epoch has gone (R511). -/
def Obligations.LoadsAreCheckedAndCommitted : Prop :=
  (∀ (id : Nat) (f : Fold) (l : Load) (t : Time) (s : State), s.resetN = false → s.paused = none → s.foldOf id = some f → f.load = some l →
    l.phase = .decrypting →
    ∃ u, exec (.loadDecryptComplete id t) s = .next u ∧ ∃ g, u.foldOf id = some g ∧
      match (s.tick t).validate f l.container l.overlap with
      | .inl code => g.load = none ∧ g.loadCode = some code
      | .inr im => g.load = some { l with image := some im
                                          phase := if l.overlap && !((f.needs im).all fun q => l.staged.contains q) then .staging
                                            else if s.dieHolds id (fun e => e.toNat = (f.epoch + 1) % 8) then .waiting else .confirming })
  ∧ (∀ (id : Nat) (f : Fold) (l : Load) (im : Image) (t : Time) (s : State), s.resetN = false → s.foldOf id = some f → f.load = some l →
    l.phase = .confirming → l.overlap = false → l.image = some im →
    ∃ u, exec (.commitConfirmed id t) s = .next u ∧ ∃ g, u.foldOf id = some g ∧ g.st = .running ∧ g.image = some im ∧ g.load = none
      ∧ g.epoch = (f.epoch + 1) % 8 ∧ g.transitions = f.transitions + 1)
  ∧ (∀ (id : Nat) (f : Fold) (l : Load) (im : Image) (t : Time) (s : State), s.resetN = false → s.foldOf id = some f → f.load = some l →
    l.phase = .waiting → l.image = some im →
    ∃ u, exec (.transitionStart id t) s = .next u ∧ ∃ g, u.foldOf id = some g
      ∧ g.load = some { l with phase := if s.dieHolds id (fun e => e.toNat = (f.epoch + 1) % 8) then .waiting else .confirming })

/-- Overlapped loads. A needed context that is FREE and empty is STAGED, and with the last of a checked image the load goes
on (R517, R527); 10 ms with one missing, a pause aside, fails the load with E-798 (R517, R676); with STANDBY confirmed the
fold takes its next epoch and image (R527, R528); a bellwether is counted at the context it names, which is RETIRING with the
last, and one of another epoch is a stray (R512, R530); at a NED the sources that have sent one are kept until the last
closes the epoch (R533); at the switch limit the retirement is forced (R536). -/
def Obligations.OverlappedLoadsSwitch : Prop :=
  (∀ (id : Nat) (f : Fold) (l : Load) (im : Image) (n : Pad) (k : CtxIx) (t : Time) (s : State), s.resetN = false → s.foldOf id = some f →
    f.load = some l → (l.phase = .decrypting ∨ l.phase = .staging ∧ l.image.isSome) → l.overlap = true → (s.tick t).stageImage f l = some im →
    (n.val, k.val) ∈ f.needs im → (s.pad n).ctxs.length = 4 → ((s.pad n).ctx k).st = .free → s.occupancy n k = 0 →
    ∃ u, exec (.contextStage id n k t) s = .next u
      ∧ ((l.phase = .decrypting ∨ ∃ q ∈ f.needs im, q ∉ l.staged ++ [(n.val, k.val)]) → ((u.pad n).ctx k).st = .staged
        ∧ u.foldOf id = some { f with load := some { l with staged := l.staged ++ [(n.val, k.val)] } })
      ∧ (l.phase = .staging → (∀ q ∈ f.needs im, q ∈ l.staged ++ [(n.val, k.val)]) → ∃ g, u.foldOf id = some g
        ∧ g.load = some { l with staged := l.staged ++ [(n.val, k.val)]
                                 phase := if s.dieHolds id (fun e => e.toNat = (f.epoch + 1) % 8) then .waiting else .confirming }))
  ∧ (∀ (id : Nat) (f : Fold) (l : Load) (im : Image) (q : Nat × Nat) (t : Time) (s : State), s.resetN = false → s.foldOf id = some f →
    f.load = some l → (l.phase = .decrypting ∨ l.phase = .staging) → l.overlap = true → (s.tick t).stageImage f l = some im → q ∈ f.needs im →
    q ∉ l.staged → l.since + (s.tick t).pausedFor l.since + 10 * msec ≤ max s.now t →
    ∃ u, exec (.stageWaitExpiry id t) s = .next u ∧ ∃ g, u.foldOf id = some g ∧ g.load = none ∧ g.loadCode = some 798)
  ∧ (∀ (id : Nat) (f : Fold) (l : Load) (im : Image) (t : Time) (s : State), s.resetN = false → s.foldOf id = some f → f.load = some l →
    l.phase = .confirming → l.overlap = true → l.image = some im →
    ∃ u, exec (.standbyConfirmed id t) s = .next u ∧ ∃ g, u.foldOf id = some g ∧ g.image = some im ∧ g.epoch = (f.epoch + 1) % 8
      ∧ g.load = none ∧ (g.st = .reconfiguring ∨ g.st = .running))
  ∧ (∀ (n : Pad) (k : CtxIx) (h : Nat × Nat × Bool × Flit) (t : Time) (s : State), s.resetN = false → (s.pad n).power = .run →
    (s.pad n).clockLost = false → (s.pad n).ctxs.length = 4 →
    (s.localHeads n).find? (fun h => h.2.2.2.typ = ftBellwether && h.2.2.2.ctx.toNat = k.val) = some h →
    (((s.pad n).ctx k).st = .live ∨ ((s.pad n).ctx k).st = .retiring) → ((s.pad n).ctx k).epoch = h.2.2.2.epoch →
    ∃ u, exec (.bellwetherArrival n k t) s = .next u ∧ ((u.pad n).ctx k).bwGot = ((s.pad n).ctx k).bwGot + 1
      ∧ (((s.pad n).ctx k).incoming.isSome → ((s.pad n).ctx k).run = none → ((s.pad n).ctx k).bwin ≤ ((s.pad n).ctx k).bwGot + 1 →
        ((u.pad n).ctx k).st = .retiring))
  ∧ (∀ (n : Pad) (k : CtxIx) (h : Nat × Nat × Bool × Flit) (t : Time) (s : State), s.resetN = false → (s.pad n).power = .run →
    (s.pad n).clockLost = false →
    (s.localHeads n).find? (fun h => h.2.2.2.typ = ftBellwether && h.2.2.2.ctx.toNat = k.val) = some h →
    ((s.pad n).ctx k).epoch ≠ h.2.2.2.epoch →
    ∃ u, exec (.bellwetherArrival n k t) s = .next u
      ∧ u.tally ⟨.fold, h.2.2.2.fold.toNat, tfStray⟩ = s.tally ⟨.fold, h.2.2.2.fold.toNat, tfStray⟩ + 1)
  ∧ (∀ (k : NedIx) (e : Fin 2) (lane : Lane) (vc : Bool) (q : Queued) (f : Fold) (y : Transition) (got : List (Nat × Nat)) (t : Time) (s : State),
    s.sized → s.resetN = false → (s.ned k).doubt = false → ((s.link (dieEnd (nedDest k) e) lane).buf vc).head? = some q →
    q.flit.typ = ftBellwether → s.foldOf q.flit.fold.toNat = some f → f.transition = some y → q.flit.epoch.toNat = y.oldEpoch →
    got = ((s.ned k).bwSources.filter fun b => b.1 ≠ q.flit.fold.toNat || b.2 ≠ (payWord q.flit.payload 0).toNat % 2 ^ 15)
      ++ [(q.flit.fold.toNat, (payWord q.flit.payload 0).toNat % 2 ^ 15)] →
    0 < tabGet 0 (s.ned k).bwNeed q.flit.fold.toNat →
    ∃ u, exec (.nedBellwether k e lane vc t) s = .next u
      ∧ ((got.filter fun b => b.1 = q.flit.fold.toNat).length < tabGet 0 (s.ned k).bwNeed q.flit.fold.toNat → (u.ned k).bwSources = got)
      ∧ (tabGet 0 (s.ned k).bwNeed q.flit.fold.toNat ≤ (got.filter fun b => b.1 = q.flit.fold.toNat).length →
        tabGet 0 (u.ned k).bwNeed q.flit.fold.toNat = 0 ∧ ∀ b ∈ (u.ned k).bwSources, b.1 ≠ q.flit.fold.toNat))
  ∧ (∀ (id : Nat) (f : Fold) (x : Transition) (t : Time) (s : State), s.resetN = false → s.foldOf id = some f → f.transition = some x →
    f.st ≠ .migrating → x.since + (s.tick t).pausedFor x.since + x.limit ≤ max s.now t →
    ∃ u, exec (.switchLimitExpiry id t) s = .next u ∧ u.tally ⟨.fold, id, tfForced⟩ = s.tally ⟨.fold, id, tfForced⟩ + 1)

/-- Tallies by time and the ledger. Each second the pages of a leased fold are added to its tally, what it held in the second
is taken up and a new second begins (R855); at the end of an interval the fold's next interval begins, and its record is
sealed and written at the ring's next slot under the next sequence number, or held where the ring has stopped (R860, R861,
R868); a ring that reads back again is in use again (R868); with no PTP master for 10 s the intervals carry the flag (R859).
The views of tallies, bells and records answer with what they count, no more than was asked for, and change nothing beside
sessions; a record's check says whether its tag is that of its bytes (Table CMD-13; R862, R942). -/
def Obligations.LeasesAreTalliedSignedAndShown : Prop :=
  (∀ (f : Fold) (t : Time) (s : State), s.resetN = false → (s.folds.map fun g => g.id).Nodup → f ∈ s.folds → f.release = none →
    s.making f = false →
    ∃ u, exec (.leaseSecond t) s = .next u ∧ u.tally ⟨.fold, f.id, tfPage⟩ = s.tally ⟨.fold, f.id, tfPage⟩ + BitVec.ofNat 64 f.pageCount
      ∧ u.secondAt = max s.now t ∧ ∀ g ∈ u.folds, g.heldSec = [])
  ∧ (∀ (id : Nat) (f : Fold) (readBack : List Bool) (t : Time) (s : State), s.resetN = false → s.active.isSome → s.foldOf id = some f →
    f.release = none → s.making f = false → f.ivStart + 60 * second ≤ max s.now t →
    ∃ u, exec (.ledgerIntervalEnd id readBack t) s = .next u
      ∧ (∃ g, u.foldOf id = some g ∧ g.recNo = f.recNo + 1 ∧ g.ivStart = f.ivStart + 60 * second)
      ∧ (s.frozen = false → u.ledgerSeq = s.ledgerSeq + 1)
      ∧ (s.frozen = false → s.ledgerStopped = false → readBack.headD true = true →
        tabGet [] u.flash.ring (s.flash.ringNext % ringSlots) = sealRecord ((s.tick t).intervalBody f false f.lateShc s.ledgerSeq))
      ∧ (s.frozen = false → s.ledgerStopped = true →
        u.ledgerHeld.getLast? = some (sealRecord ((s.tick t).intervalBody f false f.lateShc s.ledgerSeq))))
  ∧ (∀ (readBack : List Bool) (t : Time) (s : State), s.resetN = false → s.active.isSome → s.ledgerStopped = true → s.frozen = false →
    ∃ u, exec (.ledgerRingRetry readBack t) s = .next u ∧ u.ledgerStopped = !readBack.headD true
      ∧ u.ledgerHeld = (if readBack.headD true then [] else s.ledgerHeld))
  ∧ (∀ (t : Time) (s : State), s.resetN = false → (∀ h, s.ptpHeard = some h → h + 10 * second ≤ max s.now t) →
    ∃ u, exec (.ptpSilence t) s = .next u ∧ u = { s with now := max s.now t, folds := s.folds.map fun f => { f with ptpLost := true } })
  ∧ (∀ (sc : Scope) (id : Nat) (name : Option Nat) (ln : Ln) (s : State), s.accepts ln .view true → s.scopeHas sc id = true →
    (∀ i, name = some i → i < scopeSize sc) →
    ∃ u, exec (.showTally sc id name ln) s = .next u ∧ OnlySessions s u
      ∧ Answers s u ln (.ok [("count", .num (if name.isSome then 1 else scopeSize sc))]))
  ∧ (∀ (since : Option Nat) (fault : Option Bool) (count : Option Nat) (ln : Ln) (s : State), s.accepts ln .view true →
    1 ≤ count.getD 1024 → count.getD 1024 ≤ 1024 →
    ∃ u n, exec (.showBells since fault count ln) s = .next u ∧ OnlySessions s u ∧ n ≤ count.getD 1024
      ∧ Answers s u ln (.ok [("count", .num n)]))
  ∧ (∀ (id : Nat) (since count : Option Nat) (ln : Ln) (s : State), s.accepts ln .view true → 1 ≤ id → id ≤ 63 →
    1 ≤ count.getD 1024 → count.getD 1024 ≤ 1024 →
    ∃ u n, exec (.showLedger id since count ln) s = .next u ∧ OnlySessions s u ∧ n ≤ count.getD 1024
      ∧ Answers s u ln (.ok [("count", .num n)]))
  ∧ (∀ (data : List Byte) (ln : Ln) (s : State), s.accepts ln .view true → data.length = 128 →
    ∃ u, exec (.verifyLedger data ln) s = .next u ∧ OnlySessions s u ∧ Answers s u ln
      (.ok [("valid", .word (if sealRecord data = data then "yes" else "no")), ("fold", .num (leNat (slice data 6 1))), ("seq", .num (leNat (slice data 8 8)))]))

/-- Characters of a console. A break discards the partial line and is counted (R747); CTS_N stops output where it stands
under flow control and lets it go on (R746); a character joins the partial line, with echo on it is echoed and the editing
characters act, and beyond 512 it is skipped (R746, R782, R787); a CR, or a LF that follows none, ends the line, which waits
to be executed (R777, R789); a character for which the buffer has no room is dropped and counted (R746). A line of separators
alone is ignored, one that fails a check before its tag is read is answered without a tag, and one that is a command is
refused with its tag where nobody is logged in (R792, R793, R798). -/
def Obligations.ConsoleCharactersAndLines : Prop :=
  (∀ (i : Fin 2) (t : Time) (s : State), s.resetN = false → s.active.isSome → (s.cs i).up = true →
    ∃ u, exec (.consoleBreak i t) s = .next u ∧ (u.cs i).part = [] ∧ (u.cs i).queued = (s.cs i).queued ∧ (u.con i).breaks = (s.con i).breaks + 1)
  ∧ (∀ (i : Fin 2) (on : Bool) (t : Time) (s : State), s.resetN = false →
    ∃ u, exec (.ctsChange i on t) s = .next u ∧ u.con i = { s.con i with
      cts := on
      held := if (s.con i).flow && !on then some ((s.con i).held.getD (s.cs i).out.length) else none })
  ∧ (∀ (i : Fin 2) (b : Byte) (t : Time) (s : State), s.resetN = false → s.active.isSome → (s.cs i).up = true → (s.cs i).bytesHeld < 4096 →
    b ≠ 0x0A → b ≠ 0x0D → ((s.cs i).echo = false ∨ b ≠ 0x08 ∧ b ≠ 0x7F ∧ b ≠ 0x15 ∧ b ≠ 0x03) →
    ∃ u, exec (.consoleCharacter i b t) s = .next u ∧ (u.cs i).queued = (s.cs i).queued
      ∧ (u.cs i).part = (if 512 < (s.cs i).part.length then (s.cs i).part else (s.cs i).part ++ [b])
      ∧ (u.cs i).out = (s.cs i).out ++ (if (s.cs i).echo then [.raw [b]] else []))
  ∧ (∀ (i : Fin 2) (b : Byte) (t : Time) (s : State), s.resetN = false → s.active.isSome → (s.cs i).up = true → (s.cs i).bytesHeld < 4096 →
    (s.cs i).echo = true → (b = 0x08 ∨ b = 0x7F ∨ b = 0x15 ∨ b = 0x03) →
    ∃ u, exec (.consoleCharacter i b t) s = .next u ∧ (u.cs i).queued = (s.cs i).queued
      ∧ (u.cs i).part = (if b = 0x15 ∨ b = 0x03 then [] else (s.cs i).part.dropLast)
      ∧ (u.con i).breaks = (s.con i).breaks + (if b = 0x03 then 1 else 0))
  ∧ (∀ (i : Fin 2) (b : Byte) (t : Time) (s : State), s.resetN = false → s.active.isSome → (s.cs i).up = true → (s.cs i).bytesHeld < 4096 →
    (b = 0x0D ∨ b = 0x0A ∧ (s.cs i).sawCr = false) →
    ∃ u, exec (.consoleCharacter i b t) s = .next u ∧ (u.cs i).part = []
      ∧ (u.cs i).queued = (s.cs i).queued ++ [((s.cs i).part.length + 1, (s.cs i).overrun)])
  ∧ (∀ (i : Fin 2) (b : Byte) (t : Time) (s : State), s.resetN = false → s.active.isSome → (s.cs i).up = true → 4096 ≤ (s.cs i).bytesHeld →
    ∃ u, exec (.consoleCharacter i b t) s = .next u ∧ (u.cs i).part = (s.cs i).part ∧ (u.con i).dropped = (s.con i).dropped + 1)
  ∧ (∀ (i : Fin 10) (bytes : List Byte) (overrun lost : Bool) (line : List Nat) (code : Nat) (kv : KVs) (t : Time) (s : State),
    (s.tick t).hears i = true →
    line = (if 2 ≤ i.val ∧ (bytes.map (·.toNat)).getLast? = some 0x0D then (bytes.map (·.toNat)).dropLast else bytes.map (·.toNat)) →
    lost = (overrun || ((s.cs i).queued.head?.map fun q => q.2).getD false) → (lost = true ∨ line.all isSep = false) →
    judgeLine line lost (s.cs i).crc = .bad code kv →
    ∃ u, exec (.badLine i bytes overrun t) s = .next u ∧ OnlySessions s u
      ∧ Answers s u ⟨i, none, (suffixOf line).isSome, none, true, t⟩ (.err code ([("line", .num ((s.cs i).lineNo + 1))] ++ kv)))
  ∧ (∀ (i : Fin 10) (bytes : List Byte) (overrun lost : Bool) (line : List Nat) (c : Spelling) (t : Time) (s : State),
    (s.tick t).hears i = true →
    line = (if 2 ≤ i.val ∧ (bytes.map (·.toNat)).getLast? = some 0x0D then (bytes.map (·.toNat)).dropLast else bytes.map (·.toNat)) →
    lost = (overrun || ((s.cs i).queued.head?.map fun q => q.2).getD false) → (lost = true ∨ line.all isSep = false) →
    judgeLine line lost (s.cs i).crc = .cmd c → c.isSession = false → (∀ user lvl, (s.cs i).login ≠ .loggedIn user lvl) →
    ∃ u, exec (.badLine i bytes overrun t) s = .next u ∧ OnlySessions s u
      ∧ Answers s u ⟨i, tagOf line, (suffixOf line).isSome, none, true, t⟩ (.err 301 []))
  ∧ (∀ (i : Fin 10) (bytes : List Byte) (t : Time) (s : State), (s.tick t).hears i = true →
    ((s.cs i).queued.head?.map fun q => q.2).getD false = false → (bytes.map (·.toNat)).all isSep = true →
    ∃ u, exec (.badLine i bytes false t) s = .next u ∧ OnlySessions s u ∧ (u.cs i).lineNo = (s.cs i).lineNo + 1)

/-- Connections and the management port. A connection opens the first free session and a ninth is refused (R778); a closed
one is down, and its commands go on without it (R779, R797); an ARP request for the engine's address is answered, an echo
request is, and any other frame is ignored (R750); a takeover's gratuitous ARP frames are sent one by one (R749). The ends of
waits on a session. An idle console is OPEN again and an idle connection closes (R826); a challenge is void after 30 s
(R805); a lock ends at its moment (R807); bells lost to a full queue are owned up to, and the queue follows (R802). -/
def Obligations.ConnectionsAndTimeouts : Prop :=
  (∀ (i : Nat) (t : Time) (s : State), s.sized → s.resetN = false → s.active.isSome → s.boot.consoles = true → 2 ≤ i → i < 10 →
    (s.cs i).up = false → (∀ j, 2 ≤ j → j < i → (s.cs j).up = true) →
    ∃ u, exec (.tcpConnect t) s = .next u ∧ (u.cs i).up = true ∧ (u.cs i).login = .open ∧ (u.cs i).lastLine = max s.now t
      ∧ (u.cs i).lineNo = 0 ∧ (u.cs i).queued = [] ∧ ∀ j, j ≠ i → u.cs j = s.cs j)
  ∧ (∀ (t : Time) (s : State), s.resetN = false → s.active.isSome → s.boot.consoles = true → (∀ i, 2 ≤ i → i < 10 → (s.cs i).up = true) →
    ∃ u, exec (.tcpConnect t) s = .next u ∧ u = { s with now := max s.now t, wire := s.wire ++ [.tcpRefused 306] })
  ∧ (∀ (i : Fin 10) (t : Time) (s : State), s.resetN = false → 2 ≤ i.val → (s.cs i).up = true →
    ∃ u, exec (.tcpClose i t) s = .next u ∧ (u.cs i).up = false ∧ (u.cs i).login = .open ∧ (∀ w ∈ u.waits, w.sess ≠ i.val)
      ∧ u.waits.length = s.waits.length)
  ∧ (∀ (f : List Byte) (t : Time) (s : State), s.resetN = false → s.active.isSome → s.boot.consoles = true → s.arpForMe f = true →
    ∃ u, exec (.mgmtPacket f t) s = .next u ∧ u = { s with
      now := max s.now t, wire := s.wire ++ [.mgmt (s.arpFrame 2 (slice f 22 6) (slice f 22 6) (slice f 28 4))] })
  ∧ (∀ (f : List Byte) (t : Time) (s : State), s.resetN = false → s.active.isSome → s.boot.consoles = true → s.arpForMe f = false →
    s.echoForMe f = true →
    ∃ u, exec (.mgmtPacket f t) s = .next u ∧ u = { s with
      now := max s.now t, freeCtr := u.freeCtr, wire := s.wire ++ [.mgmt (s.echoReply f).1] })
  ∧ (∀ (f : List Byte) (t : Time) (s : State), s.resetN = false → s.active.isSome → s.boot.consoles = true → s.arpForMe f = false →
    s.echoForMe f = false →
    ∃ u, exec (.mgmtPacket f t) s = .next u ∧ OnlyTime s u)
  ∧ (∀ (t : Time) (s : State), s.resetN = false → s.active.isSome → 0 < s.garp →
    ∃ u, exec (.arpAnnounce t) s = .next u ∧ u = { s with
      now := max s.now t, garp := s.garp - 1
      wire := s.wire ++ [.mgmt (s.arpFrame 1 broadcastMac (List.replicate 6 0) (beBytes 4 s.net.ip.toNat))] })
  ∧ (∀ (i : Fin 10) (user : List Byte) (lvl : Level) (t : Time) (s : State), (s.tick t).hears i = true → (s.cs i).login = .loggedIn user lvl →
    (s.cs i).idle ≠ 0 → (s.cs i).queued = [] → (s.cs i).lastLine + (s.cs i).idle * second ≤ max s.now t →
    ∃ u, exec (.idleTimeout i t) s = .next u ∧ (u.cs i).login = .open ∧ (u.cs i).bellQ = [] ∧ (u.cs i).up = decide (i.val < 2))
  ∧ (∀ (i : Fin 10) (user c : List Byte) (since t : Time) (s : State), s.resetN = false → s.sess.length = 10 →
    (s.cs i).login = .challenged user c since → since + 30 * second ≤ max s.now t →
    ∃ u, exec (.challengeExpiry i t) s = .next u ∧ u.cs i = { s.cs i with login := .open })
  ∧ (∀ (i : Fin 10) (until_ t : Time) (s : State), s.resetN = false → s.sess.length = 10 → (s.cs i).lockedUntil = some until_ → until_ ≤ max s.now t →
    ∃ u, exec (.loginLockExpiry i t) s = .next u ∧ u.cs i = { s.cs i with lockedUntil := none, fails := [] })
  ∧ (∀ (i : Fin 10) (t : Time) (s : State), s.resetN = false → s.active.isSome → (s.cs i).up = true → 0 < (s.cs i).lost →
    ∃ u, exec (.bellsLostNotice i t) s = .next u ∧ u.cs i = { s.cs i with
      out := (s.cs i).out ++ [.lost (s.cs i).crc (s.cs i).lost] ++ (s.cs i).bellQ.map (Out.bell (s.cs i).crc s.bellWafer), lost := 0, bellQ := [] })

/-- Logins and session verbs. A locked session is told until when (R807); a login asks for a signature over a fresh
challenge, with no credential records `local` on a console logs in at once, and TCP is then refused (R805, R809); the answer
in time logs in at the record's level when its signature verifies, and not otherwise (R806, R807); `logout` opens the
session, `ping` answers, `mode` sets what it names and leaves the rest (R812, R822, R823). -/
def Obligations.LoginsAndVerbs : Prop :=
  (∀ (user : List Byte) (v : Time) (ln : Ln) (s : State), s.acceptsVerb ln → (s.atLine ln).lockOf ln.sess = some v →
    ∃ u, exec (.loginRequest user ln) s = .next u ∧ Answers s u ln (.err 305 [("until", .time v)]))
  ∧ (∀ (user : List Byte) (ln : Ln) (s : State), s.acceptsVerb ln → (s.atLine ln).lockOf ln.sess = none →
    (s.flash.creds.isSome ∨ ln.sess < 2 ∧ lowBytes user ≠ textBytes "local") →
    ∃ u c, exec (.loginRequest user ln) s = .next u ∧ c.length = 16 ∧ (u.cs ln.sess).login = .challenged (lowBytes user) c (max s.now ln.t)
      ∧ Answers s u ln (.ok [("challenge", .bytes c), ("method", .word "p384")]))
  ∧ (∀ (user : List Byte) (ln : Ln) (s : State), s.acceptsVerb ln → (s.atLine ln).lockOf ln.sess = none → s.flash.creds = none →
    ln.sess < 2 → lowBytes user = textBytes "local" →
    ∃ u, exec (.loginRequest user ln) s = .next u ∧ (u.cs ln.sess).login = .loggedIn (textBytes "local") .admin
      ∧ Answers s u ln (.ok [("user", .bytes (textBytes "local")), ("level", .word "admin")]))
  ∧ (∀ (user : List Byte) (ln : Ln) (s : State), s.acceptsVerb ln → (s.atLine ln).lockOf ln.sess = none → s.flash.creds = none → 2 ≤ ln.sess →
    ∃ u, exec (.loginRequest user ln) s = .next u ∧ Answers s u ln (.err 303 []))
  ∧ (∀ (user c sig : List Byte) (since : Time) (r : Cred) (ln : Ln) (s : State), s.acceptsVerb ln → (s.atLine ln).lockOf ln.sess = none →
    (s.cs ln.sess).login = .challenged (lowBytes user) c since → max s.now ln.t < since + 30 * second →
    (s.flash.creds.getD []).find? (fun r => r.name = lowBytes user) = some r →
    ∃ u, exec (.loginResponse user sig ln) s = .next u ∧
      if Config.ecdsaOk r.key (s.loginMessage ln.sess (lowBytes user) c) sig then
        (u.cs ln.sess).login = .loggedIn (lowBytes user) r.level ∧ Answers s u ln (.ok [("user", .bytes (lowBytes user)), ("level", .word (levelWord r.level))])
      else (u.cs ln.sess).login = .open ∧ Answers s u ln (.err 303 []))
  ∧ (∀ (user sig : List Byte) (ln : Ln) (s : State), s.acceptsVerb ln → (s.atLine ln).lockOf ln.sess = none →
    (∀ c since, (s.cs ln.sess).login = .challenged (lowBytes user) c since → since + 30 * second ≤ max s.now ln.t) →
    ∃ u, exec (.loginResponse user sig ln) s = .next u ∧ Answers s u ln (.err 304 []))
  ∧ (∀ (ln : Ln) (s : State), s.acceptsVerb ln → ∃ u, exec (.logout ln) s = .next u ∧ (u.cs ln.sess).login = .open ∧ Answers s u ln (.ok []))
  ∧ (∀ (ln : Ln) (s : State), s.acceptsVerb ln → ∃ u, exec (.ping ln) s = .next u ∧ OnlySessions s u ∧ Answers s u ln (.ok []))
  ∧ (∀ (echo crc : Option Bool) (bells : Option (Fin 3)) (idle : Option Nat) (c : CSess) (ln : Ln) (s : State), s.acceptsVerb ln →
    (∀ n, idle = some n → n ≤ 86400 ∧ (n ≠ 0 ∨ ln.sess < 2)) →
    c = { s.cs ln.sess with echo := echo.getD (s.cs ln.sess).echo, crc := crc.getD (s.cs ln.sess).crc
                            bells := (bells.map (·.val)).getD (s.cs ln.sess).bells, idle := idle.getD (s.cs ln.sess).idle } →
    ∃ u, exec (.mode echo crc bells idle ln) s = .next u ∧ OnlySessions s u ∧ (u.cs ln.sess).echo = c.echo ∧ (u.cs ln.sess).crc = c.crc
      ∧ (u.cs ln.sess).bells = c.bells ∧ (u.cs ln.sess).idle = c.idle ∧ Answers s u ln (.ok [("echo", .word (if c.echo then "on" else "off")),
        ("crc", .word (if c.crc then "required" else "off")), ("bells", .word (bellsWord c.bells)), ("idle", .num c.idle)]))

/-- Stages and users. A stage opens empty where there is room, takes bytes at its next offset and is dropped (R832, R833);
users are kept in flash under their lower-case names, and the last admin is not removed (R808, R840); console and network
settings are stored, and a console's are in force at once (R745, R749); the views of stages and users answer. -/
def Obligations.StagesUsersAndSettings : Prop :=
  (∀ (firmware : Bool) (size : Nat) (ln : Ln) (s : State), s.accepts ln (if firmware then .admin else .operate) false → s.stages.length < 8 →
    (s.stages.map (·.size)).sum + size ≤ 268435456 →
    ∃ u, exec (.openStage firmware size ln) s = .next u ∧ OnlySessions { s with stages := s.stages ++ [⟨s.nextStage, firmware, size, []⟩], nextStage := s.nextStage + 1 } u
      ∧ Answers s u ln (.ok [("stage", .num s.nextStage)]))
  ∧ (∀ (b : StageBuf) (data : List Byte) (ln : Ln) (s : State), s.accepts ln (s.stageLevel b.id) false → s.stageOf b.id = some b → 1 ≤ data.length → data.length ≤ 200 →
    b.data.length + data.length ≤ b.size →
    ∃ u, exec (.putStage b.id b.data.length data ln) s = .next u ∧ u.stageOf b.id = some { b with data := b.data ++ data } ∧ OnlySessions { s with stages := u.stages } u
      ∧ (∀ j, j ≠ b.id → u.stageOf j = s.stageOf j)
      ∧ Answers s u ln (.ok [("next", .num (b.data.length + data.length))]))
  ∧ (∀ (id : Nat) (ln : Ln) (s : State), s.accepts ln (s.stageLevel id) false → (s.stageOf id).isSome →
    ∃ u, exec (.dropStage id ln) s = .next u ∧ OnlySessions { s with stages := s.stages.filter fun b => b.id ≠ id } u ∧ Answers s u ln (.ok []))
  ∧ (∀ (ln : Ln) (s : State), s.accepts ln .view true →
    ∃ u, exec (.showStage ln) s = .next u ∧ OnlySessions s u ∧ Answers s u ln (.ok [("count", .num s.stages.length)]))
  ∧ (∀ (name key : List Byte) (level : Level) (ln : Ln) (s : State), s.accepts ln .admin false → Sys2Proof.Machine.nameOk name = true → Sys2Proof.Machine.keyOk key = true →
    s.flashTakes ln = true → (s.flash.creds.getD []).length < 32 → (∀ r ∈ s.flash.creds.getD [], r.name ≠ lowBytes name) →
    ∃ u, exec (.addUser name level key ln) s = .next u ∧ OnlySessions
      { s with flash := { s.flash with creds := some (s.flash.creds.getD [] ++ [⟨lowBytes name, level, key⟩]) } } u
      ∧ Answers s u ln (.ok [("name", .bytes (lowBytes name)), ("level", .word (levelWord level))]))
  ∧ (∀ (name : List Byte) (r : Cred) (ln : Ln) (s : State), s.accepts ln .admin false → s.flashTakes ln = true →
    (s.flash.creds.getD []).find? (fun r => r.name = lowBytes name) = some r →
    (r.level ≠ .admin ∨ ((s.flash.creds.getD []).filter fun r => r.level = .admin).length ≠ 1) →
    ∃ u, exec (.removeUser name ln) s = .next u ∧ OnlySessions
      { s with flash := { s.flash with creds := some ((s.flash.creds.getD []).filter fun x => x.name ≠ lowBytes name) } } u
      ∧ Answers s u ln (.ok [("name", .bytes (lowBytes name))]))
  ∧ (∀ (name : List Byte) (r : Cred) (ln : Ln) (s : State), s.accepts ln .admin false →
    (s.flash.creds.getD []).find? (fun r => r.name = lowBytes name) = some r → r.level = .admin →
    ((s.flash.creds.getD []).filter fun r => r.level = .admin).length = 1 →
    ∃ u, exec (.removeUser name ln) s = .next u ∧ OnlySessions s u ∧ Answers s u ln (.err 501 [("why", .word "last-admin")]))
  ∧ (∀ (ln : Ln) (s : State), s.accepts ln .admin false →
    ∃ u, exec (.showUsers ln) s = .next u ∧ OnlySessions s u ∧ Answers s u ln (.ok [("count", .num (s.flash.creds.getD []).length)]))
  ∧ (∀ (i : Fin 2) (baud : Option Nat) (flow : Option Bool) (b : Nat) (f : Bool) (ln : Ln) (s : State), s.accepts ln .admin false →
    (∀ x, baud = some x → x ∈ baudRates) → s.flashTakes ln = true → b = baud.getD (s.con i).baud → f = flow.getD (s.con i).flow →
    ∃ u, exec (.setConsole i baud flow ln) s = .next u ∧ (u.con i).baud = b ∧ (u.con i).flow = f
      ∧ (if i = 0 then u.flash.con0 else u.flash.con1) = (b, f)
      ∧ Answers s u ln (.ok [("con", .num i), ("baud", .num b), ("flow", .word (if f then "on" else "off"))]))
  ∧ (∀ (ip mask gw : BitVec 32) (mac : BitVec 48) (ln : Ln) (s : State), s.accepts ln .admin false → s.flashTakes ln = true →
    ∃ u, exec (.setNet ip mask gw mac ln) s = .next u ∧ OnlySessions { s with flash := { s.flash with net := ⟨ip, mask, gw, mac⟩ } } u
      ∧ Answers s u ln (.ok [("ip", .hex ip.toNat), ("mask", .hex mask.toNat), ("gw", .hex gw.toNat), ("mac", .hex mac.toNat)]))

/-- Arrival at a NED, where no verdict on the frame came before it. A SQUELCHED port takes nothing; an IDLE or draining one
drops and counts (R111, R112); at a LIVE one a frame that does not parse from its early bytes is counted and held for its
corrected bytes (R76, R78), one that no binding matches is dropped and counted (R83), a PTP event message of the designated
port makes no request (R121), and an early request of a RUNNING fold with a whole token enters the wafer under a tag (R89,
R90, R476). -/
def Obligations.FramesArrive : Prop :=
  (∀ (k : NedIx) (f : FrameIn) (t : Time) (s : State), s.sized → s.resetN = false → (s.ned k).hasPort f.port = true → (s.ned k).req f.fid = none →
    ((s.ned k).port f.port).state = .squelched →
    ∃ u, exec (.admission k f t) s = .next u ∧ (u.ned k).reqs = (s.ned k).reqs ∧ u.tallies = s.tallies)
  ∧ (∀ (k : NedIx) (f : FrameIn) (t : Time) (s : State), s.sized → s.resetN = false → (s.ned k).hasPort f.port = true → (s.ned k).req f.fid = none →
    (((s.ned k).port f.port).state = .idle ∨ ((s.ned k).port f.port).state = .live ∧ ((s.ned k).port f.port).draining = true) →
    ∃ u, exec (.admission k f t) s = .next u ∧ (u.ned k).reqs = (s.ned k).reqs
      ∧ u.tally ⟨.port, portId k f.port, tpIdleDropped⟩ = s.tally ⟨.port, portId k f.port, tpIdleDropped⟩ + 1)
  ∧ (∀ (k : NedIx) (f : FrameIn) (t : Time) (s : State), s.sized → s.resetN = false → (s.ned k).hasPort f.port = true → (s.ned k).req f.fid = none →
    ((s.ned k).port f.port).state = .live → ((s.ned k).port f.port).draining = false → s.ptpPort = some (k.val, f.port.val) →
    isPtpEvent f.bytes = true →
    ∃ u, exec (.admission k f t) s = .next u ∧ (u.ned k).reqs = (s.ned k).reqs
      ∧ u.tally ⟨.port, portId k f.port, tpRx⟩ = s.tally ⟨.port, portId k f.port, tpRx⟩ + 1)
  ∧ (∀ (k : NedIx) (f : FrameIn) (t : Time) (s : State), s.sized → s.resetN = false → (s.ned k).hasPort f.port = true → (s.ned k).req f.fid = none →
    ((s.ned k).port f.port).state = .live → ((s.ned k).port f.port).draining = false →
    ¬ (s.ptpPort = some (k.val, f.port.val) ∧ isPtpEvent f.bytes = true) → (∀ h ∈ (s.ned k).heard, h.1 ≠ f.fid) →
    (s.ned k).reparseDue f.port f.bytes = true →
    ∃ u, exec (.admission k f t) s = .next u
      ∧ (u.ned k).reqs = ((s.ned k).sweep (max s.now t)).reqs ++ [newReq (s.ned k) f (max s.now t)]
      ∧ u.tally ⟨.port, portId k f.port, tpRx⟩ = s.tally ⟨.port, portId k f.port, tpRx⟩ + 1)
  ∧ (∀ (k : NedIx) (f : FrameIn) (t : Time) (s : State), s.sized → s.resetN = false → (s.ned k).hasPort f.port = true → (s.ned k).req f.fid = none →
    ((s.ned k).port f.port).state = .live → ((s.ned k).port f.port).draining = false →
    ¬ (s.ptpPort = some (k.val, f.port.val) ∧ isPtpEvent f.bytes = true) → (∀ h ∈ (s.ned k).heard, h.1 ≠ f.fid) →
    (s.ned k).reparseDue f.port f.bytes = false → be16 f.bytes 12 ≠ 0x8808 →
    classify (s.ned k).bindings f.port f.bytes = .unclassified →
    ∃ u, exec (.admission k f t) s = .next u ∧ (u.ned k).req f.fid = none
      ∧ u.tally ⟨.port, portId k f.port, tpUnclassified⟩ = s.tally ⟨.port, portId k f.port, tpUnclassified⟩ + 1)
  ∧ (∀ (k : NedIx) (f : FrameIn) (i tag : Nat) (b : Binding) (p : Parsed) (g : Fold) (e : Entry) (t : Time) (s : State), s.sized → s.resetN = false →
    (s.ned k).hasPort f.port = true → (s.ned k).req f.fid = none → ((s.ned k).port f.port).state = .live →
    ((s.ned k).port f.port).draining = false → ¬ (s.ptpPort = some (k.val, f.port.val) ∧ isPtpEvent f.bytes = true) →
    (∀ h ∈ (s.ned k).heard, h.1 ≠ f.fid) → (s.ned k).reparseDue f.port f.bytes = false → be16 f.bytes 12 ≠ 0x8808 →
    classify (s.ned k).bindings f.port f.bytes = .bound i → b = (s.ned k).binding i → parseFrame f.bytes = some p → b.readlim < p.ipEnd →
    (mrqAt f.bytes (b.mrqAt p)).ses = false → (mrqAt f.bytes (b.mrqAt p)).nsp = false → b.spec = true →
    s.foldOf (hdlFold b.handle) = some g → g.st = .running → s.entryOfHandle b.handle = some (g, e) → e.cls = none → g.raise e.no = 0 →
    (s.ned k).penWaits (hdlFold b.handle) = false → s.batchOpen k (hdlFold b.handle) = false →
    (((s.ned k).bucket b.bucket).refill (max s.now t)).whole = true →
    1 ≤ tag → tag ≤ 65535 → (∀ r ∈ (s.ned k).reqs, r.tag ≠ tag) → (∀ v ∈ (s.ned k).voidTags, v.1 ≠ tag) →
    ∃ u, exec (.admission k f t) s = .next u ∧ ∃ q, (u.ned k).req f.fid = some q ∧ q.phase = .wafer ∧ q.tag ≠ 0 ∧ q.binding = i
      ∧ q.start = max s.now t ∧ q.epoch = g.epoch ∧ q.early = true ∧ q.paid = some (.bucket b.bucket)
      ∧ u.tally ⟨.port, portId k f.port, tpEarly⟩ = s.tally ⟨.port, portId k f.port, tpEarly⟩ + 1)

/-- Verdicts on a frame. One that comes before its frame is kept for it. A group verdict is a mark where the group was
uncorrectable (R96); where it corrects no byte read, its corrections are counted as unread and the request stands (R91, R95);
a run whose bytes read are corrected is void and, with all of them judged and its channel the same, runs once more uncharged
(R93). A good FCS verdict is kept with the request, or sends the frame of a reply in progress (R25, R105); a bad one, or the
good one of a frame with an uncorrectable group or too long, drops the request and is counted (R29, R96), also for one
already let go; a short frame counts a length error too (R79). A broken stream ends early forwarding and takes a run out of
the wafer until its bytes are corrected (R97). -/
def Obligations.FramesAreJudged : Prop :=
  (∀ (k : NedIx) (fid : Nat) (fixes : List (Nat × Byte)) (bad : Bool) (t : Time) (s : State), s.sized → s.resetN = false → (s.ned k).doubt = false →
    (s.ned k).req fid = none → (∀ g ∈ (s.ned k).gone, g.1 ≠ fid) →
    ∃ u, exec (.groupVerdict k fid ⟨fixes, bad⟩ t) s = .next u
      ∧ u.ned k = { s.ned k with heard := (s.ned k).heard ++ [(fid, .group fixes bad)] })
  ∧ (∀ (k : NedIx) (r : Req) (fixes : List (Nat × Byte)) (t : Time) (s : State), s.sized → s.resetN = false → (s.ned k).doubt = false →
    (s.ned k).req r.fid = some r → r.fcs = none →
    ∃ u, exec (.groupVerdict k r.fid ⟨fixes, true⟩ t) s = .next u
      ∧ (u.ned k).req r.fid = some { r with judged := r.judged + 1, uncorrectable := true })
  ∧ (∀ (k : NedIx) (r : Req) (fixes : List (Nat × Byte)) (t : Time) (s : State), s.sized → s.resetN = false → (s.ned k).doubt = false →
    (s.ned k).req r.fid = some r → r.fcs = none → r.uncorrectable = false → r.stale = false → r.phase ≠ .held → r.phase ≠ .done →
    (∀ x ∈ fixes, r.readTo < x.1) →
    ∃ u, exec (.groupVerdict k r.fid ⟨fixes, false⟩ t) s = .next u
      ∧ (u.ned k).req r.fid = some { r with bytes := applyFixes r.bytes fixes, judged := r.judged + 1 }
      ∧ u.tally ⟨.port, portId k r.port, tpCorrUnread⟩ = s.tally ⟨.port, portId k r.port, tpCorrUnread⟩ + BitVec.ofNat 64 fixes.length)
  ∧ (∀ (k : NedIx) (r r1 : Req) (fixes : List (Nat × Byte)) (t : Time) (s : State), s.sized → s.resetN = false → (s.ned k).doubt = false →
    (s.ned k).req r.fid = some r → r.fcs = none → r.uncorrectable = false → r.ran = true → (∃ x ∈ fixes, x.1 ≤ r.readTo) →
    s.foldTakes r.fold = true → r1 = { r with bytes := applyFixes r.bytes fixes, judged := r.judged + 1 } → (s.ned k).covers r1 = false →
    ∃ u, exec (.groupVerdict k r.fid ⟨fixes, false⟩ t) s = .next u ∧ ∃ q, (u.ned k).req r.fid = some q ∧ q.phase = .held ∧ q.tag = 0 ∧ q.runs = 2
      ∧ q.bytes = r1.bytes ∧ q.stale = true ∧ q.reply = none)
  ∧ (∀ (k : NedIx) (r r1 : Req) (fixes : List (Nat × Byte)) (tag : Nat) (t : Time) (s : State), s.sized → s.resetN = false → (s.ned k).doubt = false →
    (s.ned k).req r.fid = some r → r.fcs = none → r.uncorrectable = false → r.ran = true → (∃ x ∈ fixes, x.1 ≤ r.readTo) →
    s.foldTakes r.fold = true → r1 = { r with bytes := applyFixes r.bytes fixes, judged := r.judged + 1 } → (s.ned k).covers r1 = true →
    classify (s.ned k).bindings r.port r1.bytes = .bound r.binding → r.binding < 8192 → r.paid.isSome = true →
    1 ≤ tag → tag ≤ 65535 → (∀ x ∈ (s.ned k).reqs, x.tag ≠ tag) → (∀ v ∈ (s.ned k).voidTags, v.1 ≠ tag) →
    ∃ u, exec (.groupVerdict k r.fid ⟨fixes, false⟩ t) s = .next u ∧ ∃ q, (u.ned k).req r.fid = some q ∧ q.phase = .wafer ∧ q.runs = 2 ∧ q.tag ≠ 0
      ∧ q.bytes = r1.bytes ∧ q.early = false ∧ (u.ned k).buckets = (s.ned k).buckets
      ∧ u.tally ⟨.port, portId k r.port, tpReruns⟩ = s.tally ⟨.port, portId k r.port, tpReruns⟩ + 1)
  ∧ (∀ (k : NedIx) (r : Req) (t : Time) (s : State), s.sized → s.resetN = false → (s.ned k).doubt = false → (s.ned k).req r.fid = some r →
    r.fcs = none → r.uncorrectable = false → r.bytes.length ≤ 9216 → r.short = false → r.phase ≠ .replying → r.phase ≠ .held → r.stale = false →
    ∃ u, exec (.fcsVerdict k r.fid true t) s = .next u
      ∧ (u.ned k).req r.fid = some { r with fcs := some true, judged := max r.judged ((s.ned k).groups r) })
  ∧ (∀ (k : NedIx) (r : Req) (body : List Byte) (t : Time) (s : State), s.sized → s.resetN = false → (s.ned k).doubt = false →
    (s.ned k).req r.fid = some r → r.fcs = none → r.uncorrectable = false → r.bytes.length ≤ 9216 → r.short = false → r.phase = .replying →
    body = r.out ++ List.replicate ((s.ned k).overrun r (max s.now t)) 0 →
    ∃ u, exec (.fcsVerdict k r.fid true t) s = .next u ∧ u.wire = s.wire ++ [Wire.frame k r.port r.start (body ++ fcsOf body)])
  ∧ (∀ (k : NedIx) (r : Req) (good : Bool) (t : Time) (s : State), s.sized → s.resetN = false → (s.ned k).doubt = false →
    (s.ned k).req r.fid = some r → r.fcs = none → (good = false ∨ r.uncorrectable = true ∨ 9216 < r.bytes.length ∨ r.short = true) →
    ∃ u, exec (.fcsVerdict k r.fid good t) s = .next u ∧ (u.ned k).req r.fid = none
      ∧ u.tally ⟨.port, portId k r.port, tpBadFcs⟩ = s.tally ⟨.port, portId k r.port, tpBadFcs⟩ + 1)
  ∧ (∀ (k : NedIx) (fid port : Nat) (good : Bool) (t : Time) (s : State), s.sized → s.resetN = false → (s.ned k).doubt = false →
    (s.ned k).req fid = none → (s.ned k).gone.find? (fun g => g.1 = fid) = some (fid, some port) →
    ∃ u, exec (.fcsVerdict k fid good t) s = .next u ∧ (∀ g ∈ (u.ned k).gone, g.1 ≠ fid)
      ∧ u.tally ⟨.port, portId k port, tpBadFcs⟩ = s.tally ⟨.port, portId k port, tpBadFcs⟩ + (if good then 0 else 1))
  ∧ (∀ (k : NedIx) (r : Req) (t : Time) (s : State), s.sized → s.resetN = false → (s.ned k).doubt = false → (s.ned k).req r.fid = some r →
    r.fcs = none → r.short = true →
    ∃ u, exec (.frameTail k r.fid t) s = .next u ∧ (u.ned k).req r.fid = none
      ∧ u.tally ⟨.port, portId k r.port, tpLength⟩ = s.tally ⟨.port, portId k r.port, tpLength⟩ + 1
      ∧ u.tally ⟨.port, portId k r.port, tpBadFcs⟩ = s.tally ⟨.port, portId k r.port, tpBadFcs⟩ + 1)
  ∧ (∀ (k : NedIx) (r : Req) (t : Time) (s : State), s.sized → s.resetN = false → (s.ned k).doubt = false → (s.ned k).req r.fid = some r →
    ∃ u, exec (.speculationAbort k r.fid t) s = .next u ∧ ∃ q, (u.ned k).req r.fid = some q
      ∧ (r.early = true → (s.ned k).covers r = false → q.early = false ∧ (r.ran = true → q.phase = .held ∧ q.tag = 0 ∧ q.runs = 2)
        ∧ (r.ran = false → q = { r with early := false }))
      ∧ ((r.early = false ∨ (s.ned k).covers r = true) → q = r))

/-- Results and replies. A flit of an open tag's result takes its place by its sequence, and the one that makes the
template's length complete composes the reply (R102); one of another fold is a stile violation (R142), one whose tag nobody
holds a stray (R513, R550). A reply whose turn has come starts, and one whose verdict was good leaves whole (R103, R105,
R107); a request in the wafer for 4·Q + 110 ms is refused with FAULT (R670), one a stray report names with RECONFIGURED, or
with FAULT while a doubt has revoked Span credits (R427, R513); a pen entry past its deadline with DEADLINE (R489). -/
def Obligations.ResultsAndReplies : Prop :=
  (∀ (k : NedIx) (e : Fin 2) (lane : Lane) (vc : Bool) (q : Queued) (r : Req) (t : Time) (s : State), s.sized → s.resetN = false →
    (s.ned k).doubt = false → ((s.link (dieEnd (nedDest k) e) lane).buf vc).head? = some q → q.flit.typ = ftData →
    (s.ned k).reqByTag q.flit.tag.toNat = some r → (s.ned k).req r.fid = some r → r.fold = q.flit.fold.toNat → r.phase = .wafer → r.lastSeq = none →
    tabGet 0 (s.ned k).closedEpochs r.fold / 2 ^ q.flit.epoch.toNat % 2 = 0 →
    q.flit.seq.toNat < ceilDiv ((s.ned k).template r.template).resLen 64 →
    (r.withFlit q.flit.seq.toNat q.flit.payload).length < ceilDiv ((s.ned k).template r.template).resLen 64 →
    ∃ u, exec (.resultArrival k e lane vc t) s = .next u
      ∧ (u.ned k).req r.fid = some { r with flits := r.withFlit q.flit.seq.toNat q.flit.payload, got := r.got + 1, ended := false })
  ∧ (∀ (k : NedIx) (e : Fin 2) (lane : Lane) (vc : Bool) (q : Queued) (r : Req) (t : Time) (s : State), s.sized → s.resetN = false →
    (s.ned k).doubt = false → ((s.link (dieEnd (nedDest k) e) lane).buf vc).head? = some q → (q.flit.typ = ftData ∨ q.flit.typ = ftDataEnd) →
    (s.ned k).reqByTag q.flit.tag.toNat = some r → (s.ned k).req r.fid = some r → r.fold = q.flit.fold.toNat → r.phase = .wafer →
    tabGet 0 (s.ned k).closedEpochs r.fold / 2 ^ q.flit.epoch.toNat % 2 = 0 →
    q.flit.seq.toNat < ceilDiv ((s.ned k).template r.template).resLen 64 →
    ceilDiv ((s.ned k).template r.template).resLen 64 ≤ (r.withFlit q.flit.seq.toNat q.flit.payload).length →
    ∃ u, exec (.resultArrival k e lane vc t) s = .next u ∧ ∃ x, (u.ned k).req r.fid = some x ∧ x.reply = some r.resultReply
      ∧ x.composed = max s.now t ∧ x.flits = r.withFlit q.flit.seq.toNat q.flit.payload
      ∧ (x.phase = .waiting ∨ x.phase = .replying ∨ x.phase = .done))
  ∧ (∀ (k : NedIx) (e : Fin 2) (lane : Lane) (vc : Bool) (q : Queued) (r : Req) (t : Time) (s : State), s.sized → s.resetN = false →
    (s.ned k).doubt = false → ((s.link (dieEnd (nedDest k) e) lane).buf vc).head? = some q → (q.flit.typ = ftData ∨ q.flit.typ = ftDataEnd) →
    (s.ned k).reqByTag q.flit.tag.toNat = some r → r.fold ≠ q.flit.fold.toNat →
    ∃ u, exec (.resultArrival k e lane vc t) s = .next u ∧ u.neds = s.neds ∧ u.faultN = true
      ∧ u.tally ⟨.fold, q.flit.fold.toNat, tfStileSent⟩ = s.tally ⟨.fold, q.flit.fold.toNat, tfStileSent⟩ + 1)
  ∧ (∀ (k : NedIx) (e : Fin 2) (lane : Lane) (vc : Bool) (q : Queued) (t : Time) (s : State), s.sized → s.resetN = false →
    (s.ned k).doubt = false → ((s.link (dieEnd (nedDest k) e) lane).buf vc).head? = some q → (q.flit.typ = ftData ∨ q.flit.typ = ftDataEnd) →
    (s.ned k).reqByTag q.flit.tag.toNat = none → (∀ v ∈ (s.ned k).voidTags, v.1 ≠ q.flit.tag.toNat) →
    ∃ u, exec (.resultArrival k e lane vc t) s = .next u ∧ (u.ned k).reqs = (s.ned k).reqs
      ∧ u.tally ⟨.fold, q.flit.fold.toNat, tfStray⟩ = s.tally ⟨.fold, q.flit.fold.toNat, tfStray⟩ + 1)
  ∧ (∀ (k : NedIx) (r : Req) (rep : Reply) (out : List Byte) (t : Time) (s : State), s.sized → s.resetN = false → (s.ned k).req r.fid = some r →
    r.phase = .waiting → r.reply = some rep → (s.ned k).portFree r.port (max s.now t) = true → r.composed + egress ≤ max s.now t →
    (s.ned k).order.find? (fun f => ((s.ned k).req f).any fun q => q.port = r.port) = some r.fid →
    (s.ned k).replyDue r rep (max s.now t) ≤ max s.now t →
    out = (s.ned k).replyOut r rep (if ((s.ned k).template r.template).fill && !rep.refusal then
      fillLen ((s.ned k).speed r.port) ((s.ned k).verdictAt r) (max s.now t) ((s.ned k).replyHr r rep).1 ((s.ned k).replyHr r rep).2 else 0) →
    ∃ u, exec (.replyStart k r.fid t) s = .next u ∧ r.fid ∉ (u.ned k).order
      ∧ (r.fcs = some true → u.wire = s.wire ++ [Wire.frame k r.port (max s.now t) (out ++ fcsOf out)])
      ∧ (r.fcs ≠ some true → u.wire = s.wire ∧ ∃ q, (u.ned k).req r.fid = some q ∧ q.phase = .replying ∧ q.start = max s.now t ∧ q.out = out))
  ∧ (∀ (k : NedIx) (r : Req) (t : Time) (s : State), s.sized → s.resetN = false → (s.ned k).req r.fid = some r → r.phase = .wafer →
    r.start + 400 * s.qOf r.bind r.bytes + 110 * msec ≤ max s.now t →
    ∃ u, exec (.inFlightLimit k r.fid t) s = .next u ∧ u.faultN = true
      ∧ u.tally ⟨.fold, r.fold, tfWatchdog⟩ = s.tally ⟨.fold, r.fold, tfWatchdog⟩ + 1 ∧ (r.fcs = some false → (u.ned k).req r.fid = none)
      ∧ (r.fcs ≠ some false → ∃ q, (u.ned k).req r.fid = some q ∧ q.phase = .waiting ∧ q.reply = some (.refused rsFault)))
  ∧ (∀ (k : NedIx) (tag : BitVec 16) (r : Req) (f : Fold) (at_ : Time) (t : Time) (s : State), s.sized → s.resetN = false →
    (s.ned k).reqByTag tag.toNat = some r → (s.ned k).req r.fid = some r → r.phase = .wafer → s.foldOf r.fold = some f → f.strayed = some at_ →
    r.start ≤ at_ →
    ∃ u, exec (.strayRefusal k tag t) s = .next u ∧ (r.fcs = some false → (u.ned k).req r.fid = none)
      ∧ (r.fcs ≠ some false → ∃ q, (u.ned k).req r.fid = some q ∧ q.phase = .waiting
        ∧ q.reply = some (.refused (if s.spds.any fun d => d.revoked.contains (r.fold, false) then rsFault else rsReconfigured))))
  ∧ (∀ (k : NedIx) (r : Req) (t : Time) (s : State), s.sized → s.resetN = false → (s.ned k).req r.fid = some r → r.phase = .penned →
    (s.tick t).penLate k r = true →
    ∃ u, exec (.penDeadlineExpiry k r.fid t) s = .next u ∧ (r.fcs = some false → (u.ned k).req r.fid = none)
      ∧ (r.fcs ≠ some false → ∃ q, (u.ned k).req r.fid = some q ∧ q.phase = .waiting ∧ q.reply = some (.refused rsDeadline)))

/-- Ports. A received event message at the PTP port is stamped from the time counter and passed on, and one of the
controller's own is sent and its stamp reported (R108, R109); a fault cuts what the port is sending and stands until it
clears (R76); a quiet drained port is IDLE (R112); what is left after 10 ms of drain is refused (R112, R118); new settings
are then in force (R545). -/
def Obligations.PortsFaultAndDrain : Prop :=
  (∀ (k : NedIx) (port : Fin 8) (bytes : List Byte) (sfd t : Time) (s : State), s.sized → s.resetN = false →
    s.ptpPort = some (k.val, port.val) → isPtpEvent bytes = true → ((s.ned k).port port).state = .live →
    ∃ u, exec (.ptpEvent k port bytes false sfd t) s = .next u ∧ (u.ned k).ptpStamp = (s.tick t).stampAt sfd ∧ u.ptpHeard = some (max s.now t))
  ∧ (∀ (k : NedIx) (port : Fin 8) (bytes : List Byte) (sfd t : Time) (s : State), s.sized → s.resetN = false →
    s.ptpPort = some (k.val, port.val) → isPtpEvent bytes = true → ((s.ned k).port port).state = .live →
    (s.ned k).portFree port (max s.now t) = true →
    ∃ u, exec (.ptpEvent k port bytes true sfd t) s = .next u
      ∧ (u.ned k).ptpSent = (s.tick t).stampAt (max s.now t + 8 * byteTime ((s.ned k).speed port))
      ∧ u.wire = s.wire ++ [Wire.frame k port (max s.now t) (padFrame bytes ++ fcsOf (padFrame bytes))])
  ∧ (∀ (k : NedIx) (port : Fin 8) (remote : Bool) (t : Time) (s : State), s.sized → (s.ned k).ports.length = 8 → s.resetN = false →
    (s.ned k).hasPort port = true → (if remote then ((s.ned k).port port).remoteFault else ((s.ned k).port port).localFault) = false →
    ∃ u, exec (.rsFault k port remote t) s = .next u ∧ ((u.ned k).port port).fault = true
      ∧ (∀ r ∈ (u.ned k).reqs, r.port = port.val → (u.ned k).sending r (max s.now t) = false)
      ∧ u.tally ⟨.port, portId k port, tpLinkFault⟩ = s.tally ⟨.port, portId k port, tpLinkFault⟩ + 1)
  ∧ (∀ (k : NedIx) (port : Fin 8) (remote : Bool) (t : Time) (s : State), s.sized → (s.ned k).ports.length = 8 → s.resetN = false →
    (if remote then ((s.ned k).port port).remoteFault else ((s.ned k).port port).localFault) = true →
    ∃ u, exec (.rsFaultCleared k ⟨port, remote⟩ t) s = .next u
      ∧ (u.ned k).port port = (if remote then { (s.ned k).port port with remoteFault := false } else { (s.ned k).port port with localFault := false }))
  ∧ (∀ (k : NedIx) (port : Fin 8) (t : Time) (s : State), s.sized → (s.ned k).ports.length = 8 → s.resetN = false →
    ((s.ned k).port port).draining = true → ((s.ned k).port port).state ≠ .squelched → (s.ned k).portQuiet port (max s.now t) = true →
    ∃ u, exec (.portDrainComplete k port t) s = .next u ∧ (∀ w ∈ u.waits, w.why ≠ .port k port true)
      ∧ (u.ned k).port port = { (s.ned k).port port with state := .idle, draining := ((s.ned k).port port).pends })
  ∧ (∀ (k : NedIx) (port : Fin 8) (t : Time) (s : State), s.sized → s.resetN = false → ((s.ned k).port port).draining = true →
    ((s.ned k).port port).drainAt + 10 * msec ≤ max s.now t →
    ∃ u, exec (.portDrainExpiry k port t) s = .next u
      ∧ (∀ r ∈ (u.ned k).reqs, r.port = port.val → r.phase ≠ .held ∧ r.phase ≠ .penned ∧ r.phase ≠ .wafer
        ∧ (r.phase = .waiting → r.reply.any Reply.refusal = true))
      ∧ (∀ r, (s.ned k).reqs = [r] → r.port = port.val → r.binding < 8192 → r.phase = .wafer → r.fcs ≠ some false →
        ∃ q, (u.ned k).reqs = [q] ∧ q.phase = .waiting ∧ q.reply = some (.refused rsReconfigured)))
  ∧ (∀ (k : NedIx) (port : Fin 8) (p : Port) (t : Time) (s : State), s.sized → (s.ned k).ports.length = 8 → s.resetN = false →
    (s.ned k).hasPort port = true → p = (s.ned k).port port → p.draining = true → p.state ≠ .live →
    ∃ u, exec (.portSettingsApplied k port t) s = .next u
      ∧ (u.ned k).port port = { p with
          state := .idle, draining := false, mac := p.pendMac.getD p.mac, eq := p.pendEq.getD p.eq,
          defTemplate := p.pendTemplate.getD p.defTemplate, pendMac := none, pendEq := none, pendTemplate := none, pendPtp := none }
      ∧ u.ptpPort = (match p.pendPtp with
        | some true => some (k.val, port.val)
        | some false => if s.ptpPort = some (k.val, port.val) then none else s.ptpPort
        | none => s.ptpPort)
      ∧ ∀ w ∈ u.waits, w.why ≠ .port k port false)

/-- Pens and burst credit. At most every 4 ns the next eligible pen entry enters the wafer and its fold is the last served;
with none eligible nothing leaves (R486, R487). The burst pool's next token goes to the next account of its cycle that is not
full, or to none (R481). Doubt of a NED: what it is sending is stomped, its requests and bindings are gone, its ports stop
and FAULT_N is asserted (R113, R679); so do all of them 4 µs after the first microsecond of PWR_FAIL_N (R597), and one that
hears no keep-alive for 100 ms (R681). -/
def Obligations.PensAndDoubtOfNeds : Prop :=
  (∀ (k : NedIx) (t : Time) (s : State), s.sized → s.resetN = false → (s.ned k).doubt = false →
    ((s.ned k).lastRelease = 0 ∨ (s.ned k).lastRelease + 400 ≤ max s.now t) →
    ∃ u, exec (.penRelease k t) s = .next u
      ∧ ((∀ r ∈ (s.ned k).reqs, (s.tick t).penEligible k r = false) → OnlyTime s u)
      ∧ ∀ r, penNext (s.ned k).lastServed ((s.ned k).reqs.filter fun r => (s.tick t).penEligible k r) = some r →
        (u.ned k).lastServed = r.fold ∧ (u.ned k).lastRelease = max s.now t
          ∧ u.tally ⟨.ned, k, tnReleased⟩ = s.tally ⟨.ned, k, tnReleased⟩ + 1
          ∧ (r.tag ≠ 0 → ∃ q, (u.ned k).req r.fid = some q ∧ q.phase = .wafer ∧ q.tag = r.tag ∧ q.released = some (max s.now t)))
  ∧ (∀ (k : NedIx) (act : List (Nat × Nat)) (acc : Tab Nat) (cyc : List Nat) (cap : Nat → Nat) (t : Time) (s : State), s.sized → s.resetN = false →
    0 < (s.ned k).burstRate → act = s.burstActive k → acc = (s.ned k).accounts.filter (fun a => act.any fun p => p.1 = a.1) →
    cyc = (if (s.ned k).cyclePos = 0 ∨ (s.ned k).cycle.length ≤ (s.ned k).cyclePos then burstCycle act else (s.ned k).cycle) →
    cap = (fun f => match act.find? fun p => p.1 = f with
      | some p => accountDepth (s.ned k).burstDepth p.2 ((act.map fun p => p.2).sum)
      | none => 0) →
    ∃ u, exec (.burstToken k t) s = .next u ∧ (u.ned k).buckets = (s.ned k).buckets
      ∧ (u.ned k).accounts = (match burstTarget acc cap cyc (if (s.ned k).cycle.length ≤ (s.ned k).cyclePos then 0 else (s.ned k).cyclePos) with
        | some (f, _) => tabMod 0 acc f (· + 1)
        | none => acc))
  ∧ (∀ (k : NedIx) (cause : Nat) (t : Time) (s : State), s.sized → s.resetN = false → (s.ned k).doubt = false →
    ∃ u, exec (.nedDoubt k cause t) s = .next u ∧ (u.ned k).doubt = true ∧ (u.ned k).doubtCause = cause ∧ (u.ned k).reqs = []
      ∧ (u.ned k).bindings = [] ∧ (∀ p ∈ (u.ned k).ports, p.state ≠ .live) ∧ u.faultN = true)
  ∧ (∀ (a t : Time) (s : State), s.sized → s.resetN = false → s.pwrFail = true → s.pwrFailAt = some a → a + 4 * usec ≤ max s.now t →
    ∃ u, exec (.pwrFailNedStop t) s = .next u ∧ ∀ k < 24, (u.ned k).doubt = true)
  ∧ (∀ (die : Nat) (t : Time) (s : State), s.sized → s.resetN = false → 1536 ≤ die → die < 1560 →
    (s.ned (die - 1536)).lastAlive + 100 * msec ≤ max s.now t →
    ∃ u, exec (.keepaliveLoss die t) s = .next u ∧ (u.ned (die - 1536)).doubt = true)

/-- The port commands (Table CMD-7): lane-group modes (R75), drains and new settings, stored where asked (R112, R545), IDLE
to LIVE (R111), templates (Table EDGE-9), the burst pool (R481), the PTP port (R109), buckets (R479, R504) and the views of
both. -/
def Obligations.PortCommandsAct : Prop :=
  (∀ (k : NedIx) (g : Fin 2) (mode : Nat) (ln : Ln) (s : State), s.accepts ln .operate false → s.sized → mode = 100 ∨ mode = 200 ∨ mode = 400 →
    (∀ b ∈ (s.ned k).bindings, b.2.state = 0 ∨ b.2.port / 4 ≠ g.val) →
    ∃ u, exec (.setLanes k g mode ln) s = .next u ∧ (if g = 0 then (u.ned k).mode0 else (u.ned k).mode1) = mode
      ∧ (∀ r ∈ (u.ned k).reqs, r.port / 4 ≠ g.val) ∧ u.waits = s.waits ++ [⟨ln.sess, ln.tag, ln.crc, .lanes k g mode⟩])
  ∧ (∀ (k : NedIx) (port : Fin 8) (mac : Option (BitVec 48)) (template : Option Nat) (ptp : Option Bool) (eq : Option Nat) (store : Bool) (p : Port)
    (ln : Ln) (s : State), s.accepts ln .operate false → s.sized → (s.ned k).ports.length = 8 →
    (s.ned k).hasPort port = true → (s.ned k).doubt = false → template.getD 0 ≤ 2047 → eqOk (eq.getD 0) = true →
    (store = true → s.flashTakes ln = true) → p = (s.ned k).port port →
    ∃ u, exec (.setPort k port mac template ptp eq store ln) s = .next u
      ∧ (u.ned k).port port = { p with
          draining := true, drainAt := max s.now ln.t, pendMac := some (mac.getD (p.pendMac.getD p.mac)), pendTemplate := template <|> p.pendTemplate,
          pendPtp := ptp <|> p.pendPtp, pendEq := eq.map (BitVec.ofNat 16) <|> p.pendEq }
      ∧ (store = true → ∃ r ∈ u.flash.ports, r.ned = k.val ∧ r.port = port.val ∧ r.mac = mac.getD (p.pendMac.getD p.mac))
      ∧ (store = false → u.flash = s.flash) ∧ u.waits = s.waits ++ [⟨ln.sess, ln.tag, ln.crc, .port k port false⟩])
  ∧ (∀ (k : NedIx) (port : Fin 8) (ln : Ln) (s : State), s.accepts ln .operate false → s.sized → (s.ned k).ports.length = 8 →
    (s.ned k).hasPort port = true → (s.ned k).doubt = false → ((s.ned k).port port).state = .idle → ((s.ned k).port port).draining = false →
    ∃ u, exec (.enablePort k port ln) s = .next u ∧ (u.ned k).port port = { (s.ned k).port port with state := .live }
      ∧ Answers s u ln (.ok [("state", .word "live")]))
  ∧ (∀ (k : NedIx) (port : Fin 8) (ln : Ln) (s : State), s.accepts ln .operate false → s.sized → (s.ned k).ports.length = 8 →
    (s.ned k).hasPort port = true →
    ∃ u, exec (.disablePort k port ln) s = .next u
      ∧ (((s.ned k).port port).state ≠ .live → OnlySessions s u ∧ Answers s u ln (.ok [("state", .word (txWord ((s.ned k).port port).state))]))
      ∧ (((s.ned k).port port).state = .live → (u.ned k).port port = { (s.ned k).port port with draining := true, drainAt := max s.now ln.t }
        ∧ u.waits = s.waits ++ [⟨ln.sess, ln.tag, ln.crc, .port k port true⟩]))
  ∧ (∀ (k : NedIx) (i : Nat) (a : TemplateArgs) (ln : Ln) (s : State), s.accepts ln .operate false → s.sized → i < 2048 → a.pcp.getD 0 ≤ 7 →
    a.dscp.getD 0 ≤ 63 → 1 ≤ a.ttl.getD 64 → a.ttl.getD 64 ≤ 255 → a.len.getD 0 ≤ 2048 → (∀ v, a.vlan = some (some (some v)) → v ≤ 4094) →
    ∃ u, exec (.setTemplate k i a ln) s = .next u ∧ Answers s u ln (.ok [("index", .num i)])
      ∧ (∃ x, (u.ned k).template i = x ∧ x.mac = a.mac.getD ((s.ned k).template i).mac ∧ x.pcp = a.pcp.getD ((s.ned k).template i).pcp
        ∧ x.dscp = a.dscp.getD ((s.ned k).template i).dscp ∧ x.ttl = a.ttl.getD ((s.ned k).template i).ttl
        ∧ x.csum = a.udpsum.getD ((s.ned k).template i).csum ∧ x.resLen = a.len.getD ((s.ned k).template i).resLen
        ∧ x.fill = a.fill.getD ((s.ned k).template i).fill
        ∧ x.vlan = (match a.vlan with
          | none => ((s.ned k).template i).vlan
          | some none => .none
          | some (some none) => .request
          | some (some (some v)) => .fixed v))
      ∧ ∀ j, j ≠ i → (u.ned k).template j = (s.ned k).template j)
  ∧ (∀ (k : NedIx) (rate depth : Nat) (ln : Ln) (s : State), s.accepts ln .operate false → s.sized → rate ≤ 300000000 → depth ≤ 65535 →
    ∃ u, exec (.setBurst k rate depth ln) s = .next u ∧ u.ned k = { s.ned k with burstRate := rate, burstDepth := depth }
      ∧ Answers s u ln (.ok [("rate", .num rate), ("depth", .num depth)]))
  ∧ (∀ (k : NedIx) (port : Fin 8) (ln : Ln) (s : State), s.accepts ln .operate false → s.sized → (∀ n ∈ s.neds, n.ports.length = 8) →
    (s.ned k).hasPort port = true →
    ∃ u, exec (.setPtp k port ln) s = .next u
      ∧ (s.ptpPort = none → u.ptpPort = some (k.val, port.val))
      ∧ ((s.ptpPort = none ∨ s.ptpPort = some (k.val, port.val)) → u.neds = s.neds ∧ Answers s u ln (.ok [("port", .num port)]))
      ∧ ∀ k0 p0, s.ptpPort = some (k0, p0) → (k0, p0) ≠ (k.val, port.val) → ((u.ned k).port port).draining = true
        ∧ ((u.ned k).port port).pendPtp = some true ∧ u.ptpPort = s.ptpPort ∧ u.waits = s.waits ++ [⟨ln.sess, ln.tag, ln.crc, .ptp k port⟩])
  ∧ (∀ (k : NedIx) (i fold rate depth : Nat) (burst pen : Option Bool) (f : Fold) (ln : Ln) (s : State), s.accepts ln .operate false → s.sized →
    i < 8192 → s.foldOf fold = some f → 1 ≤ rate → rate ≤ 300000000 → 1 ≤ depth → depth ≤ 65535 →
    (((s.ned k).bucket i).fold = fold ∨ s.foldOf ((s.ned k).bucket i).fold = none) →
    (∀ x ∈ (s.ned k).bindings, x.2.state = 1 → x.2.bucket = i → hdlFold x.2.handle = fold) →
    ∃ u, exec (.setBucket k i fold rate depth burst pen ln) s = .next u
      ∧ (u.ned k).bucket i = Bucket.write fold rate depth (burst.getD false) (pen.getD false) (max s.now ln.t)
      ∧ (∀ j, j ≠ i → (u.ned k).bucket j = (s.ned k).bucket j) ∧ Answers s u ln (.ok [("index", .num i), ("level", .num depth)]))
  ∧ (∀ (k : NedIx) (i : Nat) (b : Bucket) (ln : Ln) (s : State), s.accepts ln .view true → i < 8192 →
    b = ((s.ned k).bucket i).refill (max s.now ln.t) →
    ∃ u, exec (.showBucket k i ln) s = .next u ∧ OnlySessions s u ∧ Answers s u ln
      (.ok [("fold", .num b.fold), ("rate", .num b.rate), ("depth", .num b.depth), ("burst", .word (if b.burst then "on" else "off")),
        ("pen", .word (if b.pen then "on" else "off")), ("level", .num (b.level / 65536))]))
  ∧ (∀ (k : NedIx) (port : Option Nat) (ps : List Nat) (ln : Ln) (s : State), s.accepts ln .view true →
    ps = (List.range 8).filter (fun p => (s.ned k).hasPort p && (port = none || port = some p)) → ps ≠ [] →
    ∃ u, exec (.showPort k port ln) s = .next u ∧ OnlySessions s u ∧ Answers s u ln (.ok [("count", .num ps.length)]))

/-- Links. Each cycle a lane sends one beat: without flits while it is out of use, hurdled or paced, and the next entry of a
replay under way (R132, R145, R154, R157, R568). A beat whose CRC fails is asked for again, and takes the lane out of use
where it was the awaited replay (R153, R155); a good one is taken for its trailer and its flits in LSEQ order, each counted
(R144, R152, R153), and one that declares DOWN takes the lane out of use (R157); the oldest unacknowledged flit is replayed
once (R154); a replay without its ACK, or silence, takes the lane out of use at both ends (R155, R157); new lane 0 routes are
in force at once (R946). -/
def Obligations.LinksReplayOrGoDown : Prop :=
  (∀ (x : EndIx) (lane : Lane) (t : Time) (s : State), s.resetN = false → s.endOn x lane = true →
    ∃ u b, exec (.linkBeatSend x lane t) s = .next u ∧ u.wire = s.wire ++ [.beat x lane b]
      ∧ ((s.link x lane).lastingDown = true → (∃ tr, b = mkBeat [] tr) ∧ (u.link x lane).replay = (s.link x lane).replay)
      ∧ (lane.val ≠ 0 → x < 8192 → (s.pad (x / 4)).hurdled = true → ∃ tr, b = mkBeat [] tr)
      ∧ (s.gated x ((peerEnd x).getD 0) = true → (s.link x lane).pace.getD (s.endN x) < s.endN x → ∃ tr, b = mkBeat [] tr)
      ∧ ∀ e l, (s.link x lane).replayNext = some (e, l) → (s.link x lane).lastingDown = false →
        (lane.val = 0 ∨ 8192 ≤ x ∨ (s.pad (x / 4)).hurdled = false) →
        (s.gated x ((peerEnd x).getD 0) = false ∨ s.endN x ≤ (s.link x lane).pace.getD (s.endN x)) →
        ∃ tr, b = mkBeat [e.item.flit] tr ∧ tr.lseq = e.lseq)
  ∧ (∀ (x : EndIx) (lane : Lane) (vc0 vc1 : Bool) (b : BitVec 616) (peer : LinkEnd) (t : Time) (s : State), s.resetN = false →
    s.endOn x lane = true → (s.link x lane).lastingDown = false → s.clamped x = false → beatGood b = false →
    peer = s.link ((peerEnd x).getD 0) lane →
    ∃ u, exec (.beatReceived x lane vc0 vc1 b t) s = .next u
      ∧ (peer.resent ((s.link x lane).acc + 1) = true → (u.link x lane).lastingDown = true)
      ∧ (peer.resent ((s.link x lane).acc + 1) = false → (s.link x lane).down = false → u.link x lane = { s.link x lane with nak := true }))
  ∧ (∀ (x : EndIx) (lane : Lane) (vc0 vc1 : Bool) (b : BitVec 616) (t : Time) (s : State), s.resetN = false → s.endOn x lane = true →
    (s.link x lane).lastingDown = false → s.clamped x = false → beatGood b = true → (beatTrailer b).down = true →
    ∃ u, exec (.beatReceived x lane vc0 vc1 b t) s = .next u ∧ (u.link x lane).lastingDown = true)
  ∧ (∀ (x : EndIx) (lane : Lane) (vc0 vc1 : Bool) (b : BitVec 616) (l : LinkEnd) (fs : List (Flit × BitVec 5)) (t : Time) (s : State),
    s.resetN = false → s.endOn x lane = true → (s.link x lane).lastingDown = false → s.clamped x = false → beatGood b = true →
    (beatTrailer b).down = false →
    ((s.link x lane).takeTrailer (beatTrailer b)).acceptFlits (beatTrailer b) (beatFlits b) = (l, fs) →
    ∃ u, exec (.beatReceived x lane vc0 vc1 b t) s = .next u ∧ (u.link x lane).acc = l.acc
      ∧ u.tally ⟨.link, linkId x lane, tlFlits⟩ = s.tally ⟨.link, linkId x lane, tlFlits⟩ + BitVec.ofNat 64 fs.length
      ∧ (fs = [] → u.link x lane = l))
  ∧ (∀ (x : EndIx) (lane : Lane) (t : Time) (s : State), s.resetN = false → s.endOn x lane = true → (s.link x lane).lastingDown = false →
    ∃ u, exec (.replayTimeout x lane t) s = .next u ∧ u.link x lane = (s.link x lane).startReplay)
  ∧ (∀ (x : EndIx) (lane : Lane) (t : Time) (s : State), s.resetN = false → s.endOn x lane = true →
    ((s.link x lane).replay.any fun e => e.replayed) = true →
    ∃ u, exec (.replayDownTimeout x lane t) s = .next u ∧ (u.link x lane).lastingDown = true
      ∧ ∀ y, peerEnd x = some y → (s.link x lane).lastingDown = false → (u.link y lane).lastingDown = true)
  ∧ (∀ (x : EndIx) (lane : Lane) (t : Time) (s : State), s.resetN = false → s.endOn x lane = true → (s.link x lane).lastingDown = false →
    ∃ u, exec (.receiverSilence x lane t) s = .next u ∧ (u.link x lane).lastingDown = true
      ∧ ∀ y, peerEnd x = some y → (u.link y lane).lastingDown = true)
  ∧ (∀ (t : Time) (s : State), s.resetN = false → s.active.isSome →
    ∃ u, exec (.lane0Precompile t) s = .next u ∧ u.lane0 = []
      ∧ ((∀ e ∈ s.links, e.2.lastingDown = true → e.1 % 4 ≠ 0) → u = { s with now := max s.now t, lane0 := [] }))

/-- Issue in a paddock. Where nothing waits at its LOCAL port a dock moves flits from outlets to it, and a masked dock lets
none out (R171, R182, R659); each ic the plan moves on, and a granted context issues its slot or slips under one cause (R187,
R188, R191, R235, R238), and an uncorrectable error is reported (R216, R659); a context that has slipped 2^WDOG times reports
its watchdog (R193); one retiring with nothing left leaves the plan (R186, R530). -/
def Obligations.PaddocksIssue : Prop :=
  (∀ (n : Pad) (t : Time) (s : State), s.resetN = false → (s.pad n).power = .run → (s.pad n).clockLost = false →
    ∃ u, exec (.dockTransfer n t) s = .next u ∧ (u.pad n).ic = (s.pad n).ic
      ∧ (s.localHeads n = [] → (s.pad n).outbox = [] → u.pad n = if (s.pad n).masked then s.pad n else (s.pad n).dockDrain (isFine n))
      ∧ ((s.pad n).masked = true → ∀ e, (tabGet Tile.initial (u.pad n).fine e).outlet = (tabGet Tile.initial (s.pad n).fine e).outlet))
  ∧ (∀ (n : Pad) (fault : IcFault) (t : Time) (s : State), s.resetN = false → isFine n = true → (s.pad n).power = .run →
    (s.pad n).clockLost = false → (s.pad n).ctxs.length = 4 →
    ∃ u, exec (.fineIssueCycle n fault t) s = .next u ∧ (u.pad n).ic = (s.pad n).ic + 1
      ∧ ∀ k p, (s.pad n).turn = (some k, p) → k < 4 →
        (fault.fatal = true → u.faultN = true ∧ u.reports = s.reports ++ [⟨.tileEcc, [p.foldAt k], n, max s.now t⟩])
        ∧ (fault.fatal = false → p.granted k = true →
          match fineGranted p.fine ⟨k, fwII (p.ctx k).word, fwScrBase (p.ctx k).word, fwScrSize (p.ctx k).word, (p.ctx k).t, p.ic, decide (p.excl ≠ 0),
            p.foldAt k, (p.ctx k).epoch, s.me, s.movesOf (p.foldAt k)⟩ (((s.tick t).setPad n p).creditsFor n) with
          | .issued _ _ _ => ((u.pad n).ctx k).t = ((s.pad n).ctx k).t + 1 ∧ ((u.pad n).ctx k).slips = 0
          | .slip _ => ((u.pad n).ctx k).t = ((s.pad n).ctx k).t
              ∧ (s.anyHurdled (p.foldAt k) = false → ((u.pad n).ctx k).slips = ((s.pad n).ctx k).slips + 1)))
  ∧ (∀ (n : Pad) (fault : IcFault) (t : Time) (s : State), s.resetN = false → isFine n = false → (s.pad n).power = .run →
    (s.pad n).clockLost = false → (s.pad n).ctxs.length = 4 →
    ∃ u, exec (.coarseIssueCycle n fault t) s = .next u ∧ (u.pad n).ic = (s.pad n).ic + 1
      ∧ ∀ k p c, (s.pad n).turn = (some k, p) → k < 4 →
        c = fault.residue.foldl (fun (c : Coarse) v => c.setV v.val { c.v v.val with reexec := some k })
          (fault.double.foldl (fun (c : Coarse) x => c.setM (x.val / 2) { c.m (x.val / 2) with held := some (2 * k + x.val % 2) }) p.coarse) →
        (fault.fatal = true → u.faultN = true ∧ u.reports = s.reports ++ [⟨.tileEcc, [p.foldAt k], n, max s.now t⟩])
        ∧ (fault.fatal = false → p.granted k = true →
          match (coarseGranted c ⟨n, p.foldAt k, s.me, (p.ctx k).epoch, s.movesOf (p.foldAt k)⟩ (p.ctx k).word (decide (p.excl = 0)) k p.ic (p.ctx k).t
            (((s.tick t).setPad n p).sessGeom (p.foldAt k)) (((s.tick t).setPad n { p with coarse := c }).creditsFor n)).slip with
          | none => ((u.pad n).ctx k).t = ((s.pad n).ctx k).t + 1 ∧ ((u.pad n).ctx k).slips = 0
          | some _ => ((u.pad n).ctx k).t = ((s.pad n).ctx k).t
              ∧ (s.anyHurdled (p.foldAt k) = false → ((u.pad n).ctx k).slips = ((s.pad n).ctx k).slips + 1)))
  ∧ (∀ (n : Pad) (k : CtxIx) (t : Time) (s : State), s.resetN = false → (s.pad n).ctxs.length = 4 →
    (((s.pad n).ctx k).st = .live ∨ ((s.pad n).ctx k).st = .retiring) →
    2 ^ (if isFine n then fwWdog ((s.pad n).ctx k).word else cwWdog ((s.pad n).ctx k).word) ≤ ((s.pad n).ctx k).slips →
    s.anyHurdled ((s.pad n).foldAt k) = false →
    ∃ u, exec (.watchdogExpiry n k t) s = .next u ∧ ((u.pad n).ctx k).slips = 0 ∧ u.faultN = true
      ∧ u.reports = s.reports ++ [⟨.watchdog, [(s.pad n).foldAt k], n, max s.now t⟩])
  ∧ (∀ (n : Pad) (k : CtxIx) (t : Time) (s : State), s.resetN = false → (s.pad n).ctxs.length = 4 → ((s.pad n).ctx k).st = .retiring →
    s.occupancy n k = 0 →
    ∃ u, exec (.contextLeavePlan n k t) s = .next u ∧ k.val ∉ (u.pad n).plan
      ∧ ((u.pad n).ctx k).st = (if ((s.pad n).ctx k).run.isSome then .standby else .free))

/-- Retries in a paddock. A double-bit word that reads right again was transient (R246), and so was a residue that matches on
re-execution (R265); one that does not masks and reports the fold of the context it was met in (R246, R267, R659); an HBM
return is taken by its M-unit, or is a stray of a context that has left or of another epoch (R252, R253). -/
def Obligations.PaddocksRetry : Prop :=
  (∀ (n : Pad) (m : Fin 4) (x : Nat) (good : Bool) (t : Time) (s : State), s.resetN = false → (s.pad n).coarse.mu.length = 4 →
    ((s.pad n).coarse.m m).held = some x →
    ∃ u, exec (.eccRereadVerdict n m good t) s = .next u ∧ ((u.pad n).coarse.m m).held = none
      ∧ (good = true → u.tally ⟨.paddock, n, tdEccTransient⟩ = s.tally ⟨.paddock, n, tdEccTransient⟩ + 1 ∧ u.reports = s.reports)
      ∧ (good = false → u.faultN = true ∧ u.reports = s.reports ++ [⟨.eccLasting, [(s.pad n).foldAt (x / 2)], n, max s.now t⟩]))
  ∧ (∀ (n : Pad) (v : Fin 4) (k : Nat) (good : Bool) (t : Time) (s : State), s.resetN = false → (s.pad n).coarse.vu.length = 4 →
    ((s.pad n).coarse.v v).reexec = some k →
    ∃ u, exec (.residueVerdict n v good t) s = .next u ∧ ((u.pad n).coarse.v v).reexec = none
      ∧ (good = true → u.tally ⟨.paddock, n, tdResidue⟩ = s.tally ⟨.paddock, n, tdResidue⟩ + 1 ∧ u.reports = s.reports)
      ∧ (good = false → u.faultN = true ∧ u.reports = s.reports ++ [⟨.residue, [(s.pad n).foldAt k], n, max s.now t⟩]))
  ∧ (∀ (n : Pad) (m : Fin 4) (f : Flit) (c : PCtx) (t : Time) (s : State), s.resetN = false → (s.pad n).coarse.mu.length = 4 →
    (s.pad n).returns.find? (fun f => f.endpt.toNat = 4 + m.val) = some f → c = (s.pad n).ctx f.ctx.toNat →
    ∃ u, exec (.hbmxReturn n m t) s = .next u ∧ (u.pad n).returns = dropFirst (fun g => decide (g = f)) (s.pad n).returns
      ∧ ((c.st = .live ∨ c.st = .retiring) → c.epoch = f.epoch → (u.pad n).coarse.m m = takeReturn ((s.pad n).coarse.m m) f)
      ∧ ((c.st ≠ .live ∧ c.st ≠ .retiring ∨ c.epoch ≠ f.epoch) →
        u.tally ⟨.fold, f.fold.toNat, tfStray⟩ = s.tally ⟨.fold, f.fold.toNat, tfStray⟩ + 1))

/-- Memory edge dies. The flit that reached the MED first is taken, unless a queue is full and withholds its credit
(R360–R363, R391); stack data is delivered, read once more, or retried, and a second parity failure is a doubt (R371, R374,
R386); the re-read is transient, or its page is retired (R374, R375); the temperature sets the refresh row, and at 105 °C the
MED enters self-refresh and doubt (R377, R390); a SCRUB page is zeroed and FREE (R369); a rotation slot ends (R379); a MED in
doubt asserts FAULT_N (R386). -/
def Obligations.MedsServeAndScrub : Prop :=
  (∀ (k : MedIx) (e : Fin 2) (lane : Lane) (vc : Bool) (q : Queued) (t : Time) (s : State), s.sized → s.resetN = false → (s.med k).doubt = false →
    (s.med k).selfRefresh = false → ((s.link (dieEnd (medDest k) e) lane).buf vc).head? = some q → s.medFirst k = some (⟨e, lane, vc⟩, q) →
    ∃ u, exec (.memReqReceived k e lane vc t) s = .next u ∧ ((s.med k).take k ⟨e, lane, vc⟩ q.flit = none → OnlyTime s u)
      ∧ ∀ o, (s.med k).take k ⟨e, lane, vc⟩ q.flit = some o → u.med k = o.m ∧ (o.violation = true → u.faultN = true)
        ∧ (u.link (dieEnd (medDest k) e) lane).buf vc = ((s.link (dieEnd (medDest k) e) lane).buf vc).tail)
  ∧ (∀ (k : MedIx) (j : Nat) (sev : EccSev) (t : Time) (s : State), s.sized → s.resetN = false → (s.med k).doubt = false → (s.med k).selfRefresh = false →
    j < (s.med k).queue.length →
    ∃ u, exec (.hbmBurstRead k j sev t) s = .next u
      ∧ (((s.med k).burst k j sev (max s.now t)).lasting = false → u.med k = ((s.med k).burst k j sev (max s.now t)).m)
      ∧ (((s.med k).burst k j sev (max s.now t)).lasting = true → (u.med k).doubt = true ∧ u.faultN = true))
  ∧ (∀ (k : MedIx) (good : Bool) (t : Time) (s : State), s.sized → s.resetN = false → (s.med k).doubt = false →
    ((∃ r ∈ (s.med k).queue, r.reread = true) ∨ ∃ p ∈ (s.med k).abandoned, p.2 = max s.now t) →
    ∃ u, exec (.hbmRereadVerdict k good t) s = .next u ∧ u.med k = ((s.med k).rereadVerdict k good (max s.now t)).m
      ∧ ∀ g e, ((s.med k).rereadVerdict k good (max s.now t)).retire = some (g, e) →
        u.tally ⟨.med, k, tmRetired⟩ = s.tally ⟨.med, k, tmRetired⟩ + 1 ∧ (s.frozen = false → (k.val, g) ∈ u.flash.retired))
  ∧ (∀ (k : MedIx) (temp lost : Nat) (t : Time) (s : State), s.sized → s.resetN = false →
    ∃ u, exec (.stackTempRead k ⟨temp, lost⟩ t) s = .next u
      ∧ ((tempRowOf temp ≠ 3 ∨ (s.med k).selfRefresh = true) → u.med k = { s.med k with temp := some temp, tempRow := tempRowOf temp })
      ∧ (tempRowOf temp = 3 → (s.med k).selfRefresh = false → (u.med k).selfRefresh = true ∧ (u.med k).doubt = true ∧ (u.med k).wq = [])
      ∧ u.tally ⟨.med, k, tmThrottle⟩ = s.tally ⟨.med, k, tmThrottle⟩ + (if (s.med k).tempRow = 2 then BitVec.ofNat 64 lost else 0))
  ∧ (∀ (k : MedIx) (page : Fin 12288) (t : Time) (s : State), s.sized → s.resetN = false → leState ((s.med k).lease page) = 2 →
    ∃ u, exec (.pageScrub k page t) s = .next u ∧ u.med k = (s.med k).scrub page ∧ leState ((u.med k).lease page) = 0
      ∧ (∀ x ∈ u.scrubs, (k.val, page.val) ∉ x.pages) ∧ u.tally ⟨.med, k, tmScrubbed⟩ = s.tally ⟨.med, k, tmScrubbed⟩ + 1)
  ∧ (∀ (k : MedIx) (t : Time) (s : State), s.sized → s.resetN = false → (s.med k).rotOn = true →
    ∃ u, exec (.rotationSlot k t) s = .next u ∧ u.med k = (s.med k).nextSlot (max s.now t))
  ∧ (∀ (k : MedIx) (cause : Nat) (t : Time) (s : State), s.sized → s.resetN = false → (s.med k).doubt = false →
    ∃ u, exec (.medDoubt k cause t) s = .next u ∧ u.med k = { s.med k with doubt := true } ∧ u.faultN = true
      ∧ ∀ w ∈ s.sessionsOn k (fun _ => true), (u.session w).st ≠ .open)

/-- Span links. A block is sent each period: an alignment block every 4,096th, a DATA block while the link is up, a TRAIN
block while it trains or refuses, one DOWN block after a verdict, and none from a squelched link (R396, R398, R418). A block
the decoder could not correct, or that is not to be acted on, is asked for again, and takes the link down where it was the
one replay (R399, R406, R408); a good one is taken for its trailer and, in sequence, for its flits (R401, R407), or takes the
link down (R408); the oldest unacknowledged block is replayed once (R407); a replay without ACK, or 1 µs of silence, takes
the link down (R408). -/
def Obligations.SpanBlocksReplayOrGoDown : Prop :=
  (∀ (j : SpdIx) (d : Spd) (t : Time) (s : State), s.sized → s.resetN = false → d = s.spd j → d.doubt = false →
    ∃ u, exec (.spanBlockSend j t) s = .next u
      ∧ ((d.state = .up ∨ d.state = .training) → d.periods % 4096 = 4095 → u.wire = s.wire ∧ u.spd j = { d with periods := d.periods + 1 })
      ∧ ((d.state = .up ∨ d.state = .training) → d.periods % 4096 ≠ 4095 →
        (u.spd j).periods = d.periods + 1 ∧ ∃ b, u.wire = s.wire ++ [.block j b])
      ∧ (d.state = .up → d.periods % 4096 ≠ 4095 → s.spanHeads j = [] →
        u.wire = s.wire ++ [.block j (d.sendBlock s.me j).2] ∧ u.spd j = { (d.sendBlock s.me j).1 with scr := (scramble d.scr (d.sendBlock s.me j).2).1 })
      ∧ (d.state = .refused → u.wire = s.wire ++
        [.block j (d.trainBlock s.me j s.place.flockId.toNat s.fuses.serial.toNat (max s.now t / 10))])
      ∧ (d.state = .down → d.downOut = true → (u.spd j).downOut = false ∧ ∃ b, u.wire = s.wire ++ [.block j b])
      ∧ ((d.state = .down ∧ d.downOut = false ∨ d.state = .squelched) → OnlyTime s u))
  ∧ (∀ (j : SpdIx) (d : Spd) (decoded replay : Bool) (symbols : Nat) (b : BitVec 2570) (t : Time) (s : State), s.sized → s.resetN = false →
    s.spanUp j = true → d = s.spd j →
    ∃ u, exec (.spanBlockReceived j decoded replay symbols b t) s = .next u
      ∧ u.tally ⟨.spd, j, tsCorrected⟩ = s.tally ⟨.spd, j, tsCorrected⟩ + BitVec.ofNat 64 symbols
      ∧ ((d.blockOk decoded b = false ∨ bkType b ≠ 0) →
        (replay = true → (u.spd j).state = .down) ∧ (replay = false → u.spd j = { d with nak := true }))
      ∧ (d.blockOk decoded b = true → bkType b = 0 → bkDown b = true → (u.spd j).state = .down)
      ∧ (d.blockOk decoded b = true → bkType b = 0 → bkDown b = false → (bkFlits b = [] ∨ bkBseq b ≠ d.acc + 1) → u.spd j = d.takeTrailer b)
      ∧ (d.blockOk decoded b = true → bkType b = 0 → bkDown b = false → bkFlits b ≠ [] → bkBseq b = d.acc + 1 → (u.spd j).acc = bkBseq b))
  ∧ (∀ (j : SpdIx) (t : Time) (s : State), s.sized → s.resetN = false → s.spanUp j = true →
    ∃ u, exec (.spanReplayTimeout j t) s = .next u ∧ u.spd j = (s.spd j).startReplay)
  ∧ (∀ (j : SpdIx) (t : Time) (s : State), s.sized → s.resetN = false → s.spanUp j = true → (s.spd j).replay.any (fun e => e.replayed) = true →
    ∃ u, exec (.spanDownTimeout j t) s = .next u ∧ (u.spd j).state = .down ∧ (u.spd j).replay = [])
  ∧ (∀ (j : SpdIx) (t : Time) (s : State), s.sized → s.resetN = false → s.spanUp j = true →
    ∃ u, exec (.spanRxSilence j t) s = .next u ∧ (u.spd j).state = .down ∧ (u.spd j).replay = [])

/-- Training and the flock. Each TRAIN block reports the lanes locked; one from this wafer itself, of another flock or from
another wafer than the wired one refuses the link, and so do a refusal of the peer and a delay too long (R416–R418); after
three READY blocks each way the link is UP (R418); 100 ms without UP refuse it (R397, R418), and 1 ms later it is squelched
(R418). With every link UP or refused the flock forms of the members that reach each other, and the others are excluded
(R419, R426); a member out of service leaves it (R426); an SPD enters doubt (R425). -/
def Obligations.SpansTrainAndFlocksForm : Prop :=
  (∀ (j : SpdIx) (locked : BitVec 16) (b : BitVec 2570) (d : Spd) (good : Prop) (tr : Training) (t : Time) (s : State), s.sized → s.resetN = false →
    d = s.spd j → d.state = .training → d.doubt = false → tr = d.train.take locked b (max s.now t / 10) →
    good = (d.blockOk true b = true ∧ bkType b = 1 ∧ trMagic b = 0x5450) →
    ∃ u, exec (.trainBlockReceived j locked b t) s = .next u
      ∧ (¬ good → u.spd j = { d with train := { d.train with lock := locked } })
      ∧ (good → trWafer b = s.me → (u.spd j).state = .refused ∧ (u.spd j).cause = 3)
      ∧ (good → trWafer b ≠ s.me → trFlock b ≠ s.place.flockId.toNat → (u.spd j).state = .refused ∧ (u.spd j).cause = 1)
      ∧ (good → trWafer b ≠ s.me → trFlock b = s.place.flockId.toNat → trWafer b ≠ (spdPeer s.me j).1 →
        (u.spd j).state = .refused ∧ (u.spd j).cause = 2)
      ∧ (good → trWafer b ≠ s.me → trFlock b = s.place.flockId.toNat → trWafer b = (spdPeer s.me j).1 →
        (trState b = 5 → (u.spd j).state = .refused ∧ (u.spd j).cause = trCause b)
        ∧ (trState b ≠ 5 → tr.tstate = 3 → (u.spd j).state = .refused ∧ (u.spd j).cause = 4)
        ∧ (trState b ≠ 5 → tr.tstate = 4 → 3 ≤ tr.sentReady → 3 ≤ tr.gotReady → (u.spd j).state = .up ∧ (u.spd j).peerWafer = trWafer b
          ∧ (u.spd j).credits = spanBuf)
        ∧ (trState b ≠ 5 → tr.tstate ≠ 3 → (tr.tstate ≠ 4 ∨ tr.sentReady < 3 ∨ tr.gotReady < 3) → (u.spd j).state = .training
          ∧ (u.spd j).train = tr)))
  ∧ (∀ (j : SpdIx) (t : Time) (s : State), s.sized → s.resetN = false → (s.spd j).state = .training →
    ∃ u, exec (.trainingTimeout j t) s = .next u ∧ (u.spd j).state = .refused ∧ (u.spd j).train.tstate = 5
      ∧ (u.spd j).cause = (if (commonWidth (s.spd j).train.lock (s.spd j).train.peerLock).isNone then 5 else 0))
  ∧ (∀ (j : SpdIx) (t : Time) (s : State), s.sized → s.resetN = false → (s.spd j).state = .refused →
    ∃ u, exec (.trainRefuseExpiry j t) s = .next u ∧ u.spd j = { s.spd j with state := .squelched })
  ∧ (∀ (members kept : List MemberInfo) (t : Time) (s : State), s.resetN = false → s.active.isSome → (∀ j < 16, (s.spd j).state ≠ .training) →
    kept = keepMembers (s.ownInfo :: members.filter fun m => m.flock = s.place.flockId && m.wafer.val ≠ s.me && s.inMask m.wafer.val) →
    ∃ u, exec (.flockFormation members t) s = .next u ∧ u.flockUp = true ∧ u.flockMembers = kept.map (fun m => m.wafer.val)
      ∧ ∀ w < 16, s.inMask w = true → w ≠ s.me → (∀ m ∈ kept, m.wafer.val ≠ w) → w ∈ u.excludedW)
  ∧ (∀ (w : Fin 16) (t : Time) (s : State), s.resetN = false → w.val ∈ s.flockMembers → w.val ≠ s.me →
    ∃ u, exec (.memberExcluded w t) s = .next u ∧ u.flockMembers = s.flockMembers.filter (· ≠ w.val) ∧ w.val ∈ u.excludedW
      ∧ ∀ x ∈ u.waits, x.why ≠ .member w.val)
  ∧ (∀ (j : SpdIx) (cause : Nat) (t : Time) (s : State), s.sized → s.resetN = false → (s.spd j).doubt = false →
    ∃ u, exec (.spdDoubt j cause t) s = .next u ∧ u.faultN = true ∧ u.spd j = { s.spd j with
      doubt := true, doubtCause := cause, replay := [], cursor := none, sendQ := [], partials := [] })

/-- The Span and flock commands (Tables CMD-8, CMD-9): a downed link is retrained (R410); the flock placement is stored for
the next reset (R415); the views answer. The wafer-map commands (Table CMD-6): an unleased C-paddock of a usable field with
fewer than two reserves, and no HOLE, is designated a reserve, a reserve is released, and anything else is refused with E-504
(R59, R68); a field without a lease is excluded or taken in (R57); the views answer, and a map that changed is written before
it is exported in pieces of 128 bytes (R63, R829). -/
def Obligations.SpanAndMapCommandsAct : Prop :=
  (∀ (j : SpdIx) (ln : Ln) (s : State), s.accepts ln .admin false → s.sized → s.spdNamed j = true → (s.spd j).state ≠ .up → (s.spd j).doubt = false →
    ∃ u, exec (.retrainSpan j ln) s = .next u ∧ u.spd j = { s.spd j with state := .training, cause := 0, train := .initial, periods := 0 }
      ∧ Answers s u ln (.ok [("state", .word "training")]))
  ∧ (∀ (id : BitVec 32) (w : Nat) (members : List Nat) (ln : Ln) (s : State), s.accepts ln .operate false → s.flashTakes ln = true →
    w ≤ 15 → w ∈ members → (∀ m ∈ members, m ≤ 15) →
    ∃ u, exec (.setFlock id w members ln) s = .next u ∧ u.place = s.place ∧ u.flash.place.flockId = id ∧ u.flash.place.wafer = w
      ∧ (∀ m < 16, u.flash.place.members.getLsbD m = decide (m ∈ members))
      ∧ Answers s u ln (.ok [("id", .hex id.toNat), ("wafer", .num w), ("members", .nums members)]))
  ∧ (∀ (j : SpdIx) (d : Spd) (ln : Ln) (s : State), s.accepts ln .view true → d = s.spd j →
    ∃ u, exec (.showSpan j ln) s = .next u ∧ OnlySessions s u ∧ Answers s u ln
      (.ok [("state", .word (spanWord d.state)), ("peer", .num (spdPeer s.me j).1), ("lanes", .num (if d.width = 0 then 16 else 8)),
        ("delay_ns", .num (d.delay / 10)), ("retries", .num (s.tally ⟨.spd, j, tsTransient⟩).toNat), ("relay", s.relayVal (spdPeer s.me j).1)]))
  ∧ (∀ (ms : List Nat) (ln : Ln) (s : State), s.accepts ln .view true →
    ms = (List.range 16).filter (fun w => w = s.me || s.flockMembers.contains w) →
    ∃ u, exec (.showFlock ln) s = .next u ∧ OnlySessions s u ∧ Answers s u ln (.ok [("count", .num (ms.length + 1))]))
  ∧ (∀ (c r n f : Nat) (on bad : Bool) (ln : Ln) (s : State), s.accepts ln .operate false → c < 28 → r < 48 → n = padAt c r → f = fieldOf n →
    s.claimed n = false →
    bad = (if on then (s.pad n).leased || isFine n || decide ((s.entry n).st = 2) || (s.field f).excluded || (s.field f).latched
      || (decide ((s.entry n).st ≠ 3) && decide (2 ≤ s.reserves f)) else decide ((s.entry n).st ≠ 3)) →
    ∃ u, exec (.setReserve c r on ln) s = .next u
      ∧ (bad = true → OnlySessions s u ∧ Answers s u ln (.err 504 [("at", .pad n)]))
      ∧ (bad = false → u.entry n = (if on then ⟨3, 63, 0⟩ else ⟨0, 63, 0⟩) ∧ (∀ m, m ≠ n → u.entry m = s.entry m)
        ∧ Answers s u ln (.ok [("reserves", .num (u.reserves f))])))
  ∧ (∀ (x y : Nat) (on : Bool) (ln : Ln) (s : State), s.accepts ln .operate false → x < 7 → y < 12 →
    (∀ n ∈ fieldPads (7 * y + x), (s.pad n).leased = false) →
    ∃ u, exec (.setExclude x y on ln) s = .next u ∧ u.field (7 * y + x) = { s.field (7 * y + x) with excluded := on }
      ∧ Answers s u ln (.ok [("field", .num (7 * y + x)), ("excluded", .num (if on then 1 else 0))]))
  ∧ (∀ (ln : Ln) (s : State), s.accepts ln .view true →
    ∃ u, exec (.showMap none ln) s = .next u ∧ OnlySessions s u ∧ Answers s u ln
      (.ok [("good", .num (mapCount s.map 0)), ("spare", .num (mapCount s.map 1)), ("hole", .num (mapCount s.map 2)),
        ("reserve", .num (mapCount s.map 3)), ("latched", .num ((List.range 84).filter fun f => (s.field f).latched).length),
        ("excluded", .num ((List.range 84).filter fun f => (s.field f).excluded).length), ("seq", .num (newerSeq s)),
        ("full", .num (if s.boot.full then 1 else 0))]))
  ∧ (∀ (ls : List Loc) (ps : List Nat) (ln : Ln) (s : State), s.accepts ln .view true → locList ls = some ps →
    ∃ u, exec (.showMap (some ls) ln) s = .next u ∧ OnlySessions s u ∧ Answers s u ln (.ok [("count", .num ps.length)]))
  ∧ (∀ (m : MapCopy) (ln : Ln) (s : State), s.accepts ln .view true → (s.mapChanged = true → s.flashTakes ln = true) →
    (if s.mapChanged then (s.atLine ln).writeMap s.boot.full true else s).validMap = some m →
    ∃ u, exec (.exportMap ln) s = .next u ∧ (s.mapChanged = false → OnlySessions s u)
      ∧ (∀ i < 23, Answers s u ln (.part [("off", .num (128 * i)), ("data", .bytes (slice m.record (128 * i) 128))]))
      ∧ Answers s u ln (.ok [("seq", .num m.seq), ("size", .num 2832), ("count", .num 23)]))

/-- Folds are created, changed and released (Tables CMD-10, FOLD-1). A creation that nothing refuses and whose pages there
are makes a CREATED fold of the next incarnation with the paddocks asked for, and one without pages is refused (R436, R437,
R457); `resize fold` adds to a fold at once and keeps removals for the next commit, but takes them out of one in CREATED
(R443); `set fold` sets its checkpoint interval, its pen and its weight (R463, R481, R482); `destroy fold` makes it
RELEASING, or frees its ID at once (R464); a release of which nothing is in the wafer, or that has waited 10 ms, frees its ID
(R464); its SCRUB record follows its last page (R863). -/
def Obligations.FoldsAreCreatedAndReleased : Prop :=
  (∀ (a : FoldArgs) (ln : Ln) (s : State), s.accepts ln .operate false → (∀ c ∈ (s.atLine ln).createRefusals a, c.1 = false) →
    ∃ u, exec (.createFold a ln) s = .next u
      ∧ ((s.atLine ln).leaseAll (s.newId a) a.asks = none → OnlySessions s u ∧ Answers s u ln (.err 501 [("why", .word "pages")]))
      ∧ ∀ got v, (s.atLine ln).leaseAll (s.newId a) a.asks = some (got, v) → u.incCtr = s.incCtr + 1 ∧ ∃ f, u.foldOf (s.newId a) = some f
        ∧ f.st = .created ∧ f.inc = s.incCtr + 1 ∧ f.excl = a.pads ∧ f.slots = a.slotList ∧ f.label = a.lineage ∧ f.image = none)
  ∧ (∀ (id : Nat) (f : Fold) (a : ResizeArgs) (got : List (Nat × Nat)) (v : State) (ln : Ln) (s : State), s.accepts ln .operate false →
    s.foldOf id = some f → (∀ c ∈ (s.atLine ln).resizeRefusals f a, c.1 = false) → (s.atLine ln).leaseAll id (a.asks f) = some (got, v) →
    ∃ u, exec (.resizeFold id a ln) s = .next u
      ∧ (f.st ≠ .created → u.foldOf id = some (f.resized a got))
      ∧ (f.st = .created → ∃ g, u.foldOf id = some g ∧ g.excl = (f.excl ++ a.pads).filter (fun n => !(f.resized a got).pendRemove.contains n)
        ∧ g.slots = (f.slots ++ a.slotList).filter (fun q => !(f.resized a got).pendSlots.contains q)))
  ∧ (∀ (id : Nat) (f : Fold) (ckpt : Option (Option Nat)) (pen weight : Option Nat) (ln : Ln) (s : State), s.accepts ln .operate false →
    s.foldOf id = some f → 1 ≤ pen.getD f.pen → pen.getD f.pen ≤ 4096 → 1 ≤ weight.getD f.weight → weight.getD f.weight ≤ 255 →
    (∀ ms, ckpt = some (some ms) → ckptOk ms = true ∧ ∀ im, f.image = some im → ckptPagesFor im.ckptBytes ≤ f.cpages) →
    (pen.isSome → ∀ n ∈ s.neds, (n.reservePen id (pen.getD f.pen)).penFits = true) →
    ∃ u, exec (.setFold id ckpt pen weight ln) s = .next u ∧ u.foldOf id = some
      (match ckpt with
      | none => { f with pen := pen.getD f.pen, weight := weight.getD f.weight }
      | some none => { f with pen := pen.getD f.pen, weight := weight.getD f.weight, ckpt := none, ckptPend := none }
      | some (some ms) => if f.ckpt.isNone || f.st = .created
          then { f with pen := pen.getD f.pen, weight := weight.getD f.weight, ckpt := some ms, ckptPend := none, ckptBase := max s.now ln.t }
          else { f with pen := pen.getD f.pen, weight := weight.getD f.weight, ckptPend := some ms })
      ∧ u.neds = (if pen.isSome then s.neds.map (fun n => n.reservePen id (pen.getD f.pen)) else s.neds))
  ∧ (∀ (id : Nat) (f : Fold) (ln : Ln) (s : State), s.accepts ln .operate false → s.foldOf id = some f →
    ∃ u, exec (.destroyFold id ln) s = .next u
      ∧ (f.release.isSome → OnlySessions s u ∧ Answers s u ln (.err 403 [("object", .word "fold")]))
      ∧ (f.release = none → u.foldOf id = none
        ∨ ∃ g, u.foldOf id = some g ∧ g.st = .releasing ∧ g.release = some (max s.now ln.t) ∧ g.load = none))
  ∧ (∀ (id : Nat) (f : Fold) (r t : Time) (s : State), s.resetN = false → s.foldOf id = some f → f.release = some r →
    (r + 10 * msec ≤ max s.now t ∨ s.inWafer id = []) →
    ∃ u, exec (.releaseDrainExpiry id t) s = .next u ∧ u.foldOf id = none)
  ∧ (∀ (id : Nat) (x : Scrub) (t : Time) (s : State), s.resetN = false → s.active.isSome →
    s.scrubs.find? (fun x => x.fold = id && x.pages.isEmpty) = some x →
    ∃ u, exec (.scrubRecord id t) s = .next u ∧ u.scrubs = dropFirst (fun y => decide (y = x)) s.scrubs
      ∧ u.ledgerSeq = s.ledgerSeq + (if s.frozen then 0 else 1))

/-- The views of folds and keys, and a key's export, each time under a fresh ephemeral key (Tables CMD-10, CMD-14; R458,
R768), and a MED's rotation: off at once, on at the next frame boundary (R379, R380, R392). -/
def Obligations.FoldViewsAndRotation : Prop :=
  (∀ (id : Nat) (f : Fold) (ln : Ln) (s : State), s.accepts ln .view true → s.foldOf id = some f →
    ∃ u kv, exec (.showFold id ln) s = .next u ∧ OnlySessions s u ∧ Answers s u ln (.ok kv)
      ∧ kv.take 6 = [("id", .num id), ("state", .word (foldWord f.st)), ("epoch", .num f.epoch), ("incarnation", .num f.inc),
        ("exclusive", .nums f.excl), ("slots", .nums (f.slots.map fun q => 4 * q.1 + q.2))])
  ∧ (∀ (ln : Ln) (s : State), s.accepts ln .view true →
    ∃ u, exec (.showFolds ln) s = .next u ∧ OnlySessions s u
      ∧ Answers s u ln (.ok [("count", .num ((List.range 64).filter fun id => (s.foldOf id).isSome).length)]))
  ∧ (∀ (id : Nat) (f : Fold) (ln : Ln) (s : State), s.accepts ln .view true → s.foldOf id = some f →
    ∃ u, exec (.showKeys id ln) s = .next u ∧ OnlySessions s u ∧ Answers s u ln
      (.ok [("fold", .num id), ("incarnation", .num f.inc), ("khbm", .word (if f.secret.isSome then "loaded" else "destroyed")),
        ("meds", .nums ((List.range 12).filter fun k => tabGet [] (s.med k).slots id ≠ [])),
        ("kckp", .word (if f.secret.isSome then "held" else "destroyed"))]))
  ∧ (∀ (id : Nat) (f : Fold) (ln : Ln) (s : State), s.accepts ln .admin false → s.foldOf id = some f → f.release = none →
    ∃ u, exec (.exportKey id ln) s = .next u ∧ u.folds = s.folds ∧ u.freeCtr = s.freeCtr + 1 ∧ Answers s u ln (.ok [("fold", .num id),
      ("wrap", .bytes (slice (Config.wrapKey (kimgLabel f.label s.fuses.serial.toNat) f.wrap s.freeCtr) 0 137))]))
  ∧ (∀ (k : MedIx) (ln : Ln) (s : State), s.accepts ln .operate false → s.sized →
    ∃ u, exec (.setRotation k none ln) s = .next u ∧ u.med k = { s.med k with rotOn := false, rotNext := none }
      ∧ Answers s u ln (.ok [("med", .num k), ("slots", .word "off")]))
  ∧ (∀ (k : MedIx) (l : List Nat) (ln : Ln) (s : State), s.accepts ln .operate false → s.sized → l.length = 16 → (∀ x ∈ l, x ≤ 63) →
    (∀ e ∈ (s.med k).leases, leState e.2 = 1 → leFold e.2 ∈ l) →
    ∃ u, exec (.setRotation k (some l) ln) s = .next u ∧ Answers s u ln (.ok [("med", .num k), ("slots", .nums l)])
      ∧ u.med k = (if (s.med k).rotOn then { s.med k with rotNext := some l }
        else { s.med k with rotOn := true, rotSlots := l, rotNext := none, rotPos := 0, slotAt := max s.now ln.t }))

/-- Channels (Table CMD-11). One that nothing refuses is made on its record with its bindings, its next generation and its
ticket (R450–R453, R467); a binding is added (R84), and one that is not the last closed (R455); `destroy channel` closes all
of them (R455); the view answers with each binding. -/
def Obligations.ChannelsComeAndGo : Prop :=
  (∀ (id entry i : Nat) (index : Option Nat) (ticket : Option (BitVec 32)) (deadline : Option Nat) (spec : Option Bool) (f : Fold) (e : Entry)
    (tk : BitVec 32) (bs : List BindArg) (is : List (Nat × Nat)) (v : State) (ln : Ln) (s : State),
    s.accepts ln .operate false → s.foldOf id = some f → index.getD 0 ≤ 65535 → bs ≠ [] → bs.length ≤ 8 → chanBarred f.st = false →
    (f.image.bind fun im => im.entry entry) = some e → s.chanIndex index = some i → tk = s.newTicket ticket →
    (∀ c ∈ (s.atLine ln).channelRefusals id i e tk deadline, c.1 = false) →
    ((if ticket.isNone then { s.atLine ln with freeCtr := s.freeCtr + 1 } else s.atLine ln).emptyClosed i).bindAll f e
      (mkHandle id i (nextGen (s.channel i))) tk (deadline.getD e.dHigh) (spec.getD e.cls.isNone) bs = .inr (is, v) →
    ∃ u, exec (.createChannel id entry index ticket deadline spec bs ln) s = .next u
      ∧ u.channel i = some ⟨i, id, entry, nextGen (s.channel i), tk, deadline.getD e.dHigh, false, is⟩
      ∧ Answers s u ln (.ok [("handle", .hex (mkHandle id i (nextGen (s.channel i))).toNat), ("generation", .hex (nextGen (s.channel i))),
        ("ticket", .hex tk.toNat)]))
  ∧ (∀ (h : Word) (c : Channel) (f : Fold) (e : Entry) (b : BindArg) (j : Nat) (v : State) (ln : Ln) (s : State), s.accepts ln .operate false →
    s.chanByHandle h = some c → c.closed = false → s.foldOf c.fold = some f → chanBarred f.st = false → c.binds.length < 8 →
    (f.image.bind fun im => im.entry c.entry) = some e →
    (s.atLine ln).bindOne f e h c.ticket c.deadline (match c.binds with
      | x :: _ => ((s.ned x.1).binding x.2).spec
      | [] => e.cls.isNone) b = .inr (j, v) →
    ∃ u, exec (.bindChannel h b ln) s = .next u ∧ u.channel c.index = some { c with binds := c.binds ++ [(b.ned, j)] }
      ∧ Answers s u ln (.ok [("handle", .hex h.toNat), ("bindings", .num (c.binds.length + 1))]))
  ∧ (∀ (h : Word) (c : Channel) (b : Nat × Nat) (port : Nat) (ln : Ln) (s : State), s.accepts ln .operate false → s.chanByHandle h = some c →
    c.closed = false → 1 < c.binds.length → c.binds.find? (fun x => x.1 = b.1 && ((s.ned b.1).binding x.2).port = port) = some b →
    ∃ u, exec (.unbindChannel h b.1 port ln) s = .next u ∧ u.channel c.index = some { c with binds := c.binds.filter fun x => x ≠ b }
      ∧ (s.sized → b.1 < 24 → (u.ned b.1).binding b.2 = ((s.ned b.1).binding b.2).withState 2)
      ∧ Answers s u ln (.ok [("handle", .hex h.toNat), ("bindings", .num (c.binds.length - 1))]))
  ∧ (∀ (h : Word) (c : Channel) (ln : Ln) (s : State), s.accepts ln .operate false → s.chanByHandle h = some c → c.closed = false →
    s.stOf c.fold ≠ some .releasing →
    ∃ u, exec (.destroyChannel h ln) s = .next u ∧ u.channel c.index = some { c with closed := true, binds := [] }
      ∧ Answers s u ln (.ok [("handle", .hex h.toNat), ("state", .word "closed")]))
  ∧ (∀ (x : Sum (BitVec 32) Nat) (c : Channel) (n q : Nat) (ln : Ln) (s : State), s.accepts ln .view true →
    (match x with
    | .inl h => s.chanByHandle h
    | .inr i => s.channel i) = some c →
    n = ((List.range 24).map fun k => ((s.ned k).bindings.filter fun b => b.2.state ≠ 0 && b.2.handle = c.handle).length).sum →
    q = (match s.entryOfHandle c.handle with
    | some (f, e) => e.q + f.raise e.no
    | none => 0) →
    ∃ u, exec (.showChannel x ln) s = .next u ∧ OnlySessions s u ∧ Answers s u ln
      (.ok [("handle", .hex c.handle.toNat), ("state", .word (if c.closed then "closed" else "open")), ("fold", .num c.fold),
        ("entry", .num c.entry), ("deadline", .num c.deadline), ("q_ns", .num q), ("count", .num n)]))

/-- Sessions of a fold (Table CMD-12). One that nothing refuses opens with its window (R330); closing one frees it at once,
or where it is busy as the reply of its request does (R331); the view answers, with the owner of its range for a free number
(R326). -/
def Obligations.FoldSessionsOpenAndClose : Prop :=
  (∀ (id num anchor cls cap : Nat) (f : Fold) (ln : Ln) (s : State), s.accepts ln .operate false → s.foldOf id = some f →
    (∀ c ∈ (s.atLine ln).openRefusals f id num anchor cls cap, c.1 = false) →
    ∃ u, exec (.openSession id num anchor cls cap ln) s = .next u
      ∧ (takeWindow f.smeds (f.windowFor cls cap) 0 f.qphys = none → OnlySessions s u ∧ Answers s u ln (.err 501 [("why", .word "quota")]))
      ∧ ∀ win rest, takeWindow f.smeds (f.windowFor cls cap) 0 f.qphys = some (win, rest) → u.foldOf id = some { f with qphys := rest }
        ∧ u.session num = { Session.initial with st := .open, fold := id, anchor := anchor, cls := cls, cap := cap, pages := win }
        ∧ Answers s u ln (.ok [("num", .num num), ("pages", .num (f.windowFor cls cap)), ("state", .word "open")]))
  ∧ (∀ (id num : Nat) (f : Fold) (ln : Ln) (s : State), s.accepts ln .operate false → s.foldOf id = some f →
    ((s.session num).st = .open ∨ (s.session num).st = .lost) → (s.session num).fold = id →
    ∃ u, exec (.closeSession id num ln) s = .next u
      ∧ ((s.session num).busy = false → u.session num = Session.initial)
      ∧ ((s.session num).busy = true → u.session num = { s.session num with st := .closing }
        ∧ u.waits = s.waits ++ [⟨ln.sess, ln.tag, ln.crc, .session num⟩]))
  ∧ (∀ (num : Nat) (t : Time) (s : State), s.resetN = false → (s.session num).st = .closing → (s.session num).busy = false →
    ∃ u, exec (.sessionCloseComplete num t) s = .next u ∧ u.session num = Session.initial ∧ ∀ w ∈ u.waits, w.why ≠ .session num)
  ∧ (∀ (num : Nat) (x : Session) (free : Bool) (ln : Ln) (s : State), s.accepts ln .view true → num ≤ 16383 → x = s.session num →
    free = decide (x.st = .free) →
    ∃ u, exec (.showSession num ln) s = .next u ∧ OnlySessions s u ∧ Answers s u ln
      (.ok [("num", .num num), ("fold", .num (if free then s.sessionOwner num else x.fold)), ("state", .word (sessWord x.st)),
        ("anchor", if free then .none else .num x.anchor), ("class", if free then .none else .num x.cls),
        ("length", .num x.len), ("cap", .num x.cap), ("busy", .num (if x.busy then 1 else 0))]))

/-- Registers (Tables CMD-15, REG-9). `peek` reads up to 64 and changes nothing but what a read consumes; one reads as the
register map says, and where none is it is answered E-604 (R795, R874, R879). `poke` writes the bits of its mask and reads
back, and is refused where no register is or none may be written (R874, R885); a 1 in SHC_FAULTACK acknowledges and a 0 does
nothing (Table REG-9); PCB_SAT's bits are cleared by 1 (R277), while the field's always-on rail is up (R879); NED_WSEL copies
the entry it selects (R884); a read of SHC_ALERTCAUSE clears it (R889). -/
def Obligations.RegistersReadAndWrite : Prop :=
  (∀ (addr : Nat) (count : Option Nat) (ln : Ln) (s : State), s.accepts ln .view true → 1 ≤ count.getD 1 → count.getD 1 ≤ 64 →
    ∃ u, exec (.peek addr count ln) s = .next u
      ∧ u = { s with now := u.now, sess := u.sess, waits := u.waits, alertCause := u.alertCause, freeCtr := u.freeCtr }
      ∧ (count = none → ((s.atLine ln).readReg addr).1 = none → Answers s u ln (.err 604 [("addr", .hex addr)]))
      ∧ ∀ v, count = none → ((s.atLine ln).readReg addr).1 = some v →
        Answers s u ln (.part [("addr", .hex addr), ("value", .hex v)]) ∧ Answers s u ln (.ok [("count", .num 1)]))
  ∧ (∀ (v : BitVec 32) (mask : Option (BitVec 32)) (ln : Ln) (s : State), s.accepts ln .admin false →
    ∃ u, exec (.poke 0x48 v mask ln) s = .next u
      ∧ u.scratch = (s.scratch &&& ~~~(mask.getD 0xFFFFFFFF)) ||| (v &&& mask.getD 0xFFFFFFFF)
      ∧ Answers s u ln (.ok [("addr", .hex 0x48), ("value", .hex u.scratch.toNat)]))
  ∧ (∀ (addr : Nat) (v : BitVec 32) (mask : Option (BitVec 32)) (ln : Ln) (s : State), s.accepts ln .admin false →
    ∃ u, exec (.poke addr v mask ln) s = .next u
      ∧ ((s.atLine ln).regAt addr 0 = none → OnlySessions s u ∧ Answers s u ln (.err 604 [("addr", .hex addr)]))
      ∧ ((s.atLine ln).regAt addr 0 ≠ none → writableAt addr = none → OnlySessions s u ∧ Answers s u ln (.err 501 [("why", .word "read-only")])))
  ∧ (∀ (v : BitVec 32) (ln : Ln) (s : State), s.accepts ln .admin false →
    ∃ u, exec (.shcFaultackWrite v ln) s = .next u ∧ Answers s u ln (.ok [("addr", .hex 0x18), ("value", .hex 0)])
      ∧ (v.getLsbD 0 = true → u.faultN = (s.faultN && s.faultStands) ∧ u.alertN = (s.alertN && s.alertStands))
      ∧ (v.getLsbD 0 = false → OnlySessions s u))
  ∧ (∀ (n : Pad) (v : BitVec 32) (ln : Ln) (s : State), s.accepts ln .admin false →
    ∃ u, exec (.pcbSatClear n v ln) s = .next u
      ∧ ((s.field (fieldOf n)).ringOn = true →
        ∀ k < 4, tabGet false (u.pad n).coarse.sat k = (tabGet false (s.pad n).coarse.sat k && !v.getLsbD k))
      ∧ ((s.field (fieldOf n)).ringOn = false → OnlySessions s u ∧ Answers s u ln (.err 501 [("why", .word "read-only")])))
  ∧ (∀ (k : NedIx) (v : BitVec 32) (ln : Ln) (s : State), s.accepts ln .admin false → s.shadow.length = 24 →
    ∃ u, exec (.nedWselWrite k v ln) s = .next u ∧ u.shadow.getD k [] = (s.atLine ln).windowWords k (bitsOf v 0 2) (bitsOf v 2 13))
  ∧ (∀ (ln : Ln) (s : State), s.accepts ln .view true →
    ∃ u, exec (.shcAlertcauseRead ln) s = .next u ∧ u = { s with now := u.now, sess := u.sess, waits := u.waits, alertCause := 0 }
      ∧ Answers s u ln (.part [("addr", .hex 0x1C), ("value", .hex s.alertCause.toNat)]) ∧ Answers s u ln (.ok [("count", .num 1)]))

/-- RESET_N. Its assertion loses every fold, lease, session and stage and keeps fuses and flash, where a copy then being
written fails its check (R71, R699, R700, R726); its release begins B1 in the mode stored, or FULL when a condition of R701
holds (R698, R701). PWR_FAIL_N. Its assertion asserts FAULT_N and ends READY, and while RESET_N is held changes the pin alone
(R597, R722); 10 µs later the flash starts no write (R597); deasserted before the rails fall, that ends (R598); when the
rails fall all state but fuses and flash is lost, and a copy then being written fails its check (R71, R597). -/
def Obligations.ResetAndPowerFail : Prop :=
  (∀ (t : Time) (s : State), ∃ u, exec (.resetAssert t) s = .next u ∧ u.resetN = true ∧ u.active = none ∧ u.ready = false ∧ u.folds = [] ∧ u.pads = []
      ∧ u.channels = [] ∧ u.sessions = [] ∧ u.stages = [] ∧ u.boot.phase = .reset ∧ u.flash = (s.tick t).cutFlash.flash ∧ u.fuses = s.fuses
      ∧ u.pwrFail = s.pwrFail)
  ∧ (∀ (jtag : Bool) (t : Time) (s : State), s.resetN = true →
    ∃ u, exec (.resetRelease jtag t) s = .next u ∧ u.resetN = false ∧ u.boot.phase = .b1 ∧ u.boot.jtag = jtag ∧ u.boot.released = max s.now t
      ∧ u.boot.full = (s.flash.bootFull || decide (s.bootCause ≠ .none)))
  ∧ (∀ (jtag : Bool) (t : Time) (s : State), s.resetN = false → ∃ u, exec (.resetRelease jtag t) s = .next u ∧ OnlyTime s u)
  ∧ (∀ (t : Time) (s : State),
    ∃ u, exec (.pwrFailAssert t) s = .next u ∧ u.pwrFail = true
      ∧ (s.resetN = false → u.pwrFailAt = some (max s.now t) ∧ u.faultN = true ∧ u.ready = false)
      ∧ (s.resetN = true → u = { s with now := max s.now t, pwrFail := true }))
  ∧ (∀ (t : Time) (s : State), s.resetN = false → s.pwrFail = true →
    ∃ u, exec (.pwrFailFlashFreeze t) s = .next u ∧ u = { s with now := max s.now t, frozen := true })
  ∧ (∀ (t : Time) (s : State), s.pwrFail = true →
    ∃ u, exec (.pwrFailDeassert t) s = .next u ∧ u = { s with now := max s.now t, pwrFail := false, pwrFailAt := none, frozen := false })
  ∧ (∀ (t : Time) (s : State), s.pwrFail = true →
    ∃ u, exec (.railsFall t) s = .next u ∧ u.resetN = true ∧ u.folds = [] ∧ u.pads = [] ∧ u.sessions = [] ∧ u.vstby = false ∧ u.pwrFail = false
      ∧ u.flash = (s.tick t).cutFlash.flash ∧ u.fuses = s.fuses)

/-- One step: the command at the front of the queue runs on the state with the rest of the queue; on an empty queue the
engine idles (the model's choice, log entry 1). No row of the table gives bits, so no word spells a command. -/
def Obligations.StepRunsTheFront : Prop :=
  (∀ (c : Instr) (rest : List Instr) (s : State), s.pending = c :: rest → step s = exec c { s with pending := rest })
  ∧ (∀ (s : State), s.pending = [] → step s = .next s)
  ∧ (∀ (s : State) (nbits w : Nat), decodeTableWord nbits w = none ∧ s.withFetchWord nbits w = s)

/-- Right after reset RESET_N is asserted with FAULT_N and without READY (R698, R699, R722), nothing is powered, no fold,
channel or session exists (R699), no controller is active, the consoles are at 921,600 baud without flow control (R745), and
the queue is empty. The invariants of this file hold right after reset: every unit is there, and every memory stack is in its
canonical form. -/
def Obligations.ResetIsHeldAndEmptyAndSized : Prop :=
  State.reset.resetN = true ∧ State.reset.faultN = true ∧ State.reset.ready = false ∧ State.reset.boot.phase = .reset
  ∧ State.reset.active = none ∧ (∀ n, (State.reset.pad n).power = .dark ∧ (State.reset.pad n).hurdled = true)
  ∧ (∀ f, (State.reset.field f).stage = .off) ∧ State.reset.folds = [] ∧ State.reset.channels = [] ∧ State.reset.sessions = []
  ∧ State.reset.stages = [] ∧ State.reset.con0.baud = 921600 ∧ State.reset.con1.baud = 921600 ∧ State.reset.con0.flow = false
  ∧ State.reset.con1.flow = false ∧ (∀ c ∈ State.reset.sess, c.login = .open ∧ c.up = false) ∧ State.reset.pending = []
  ∧ (State.reset.sized ∧ StacksCanonical State.reset)

/-- Every command completes: from every state a step answers a next state, takes one command off the queue, never moves the
moment back, keeps the serial number and never clears a fuse of the SVN counter (R761). -/
def Obligations.EveryStepAnswers : Prop :=
  ∀ s : State, ∃ t, step s = .next t ∧ t.pending = s.pending.tail ∧ s.now ≤ t.now ∧ t.fuses.serial = s.fuses.serial
    ∧ s.fuses.svn ≤ t.fuses.svn

/-- No step loses or makes a unit: ten sessions, 24 NEDs, 12 MEDs, 16 SPDs. While the flash is frozen no step starts a write
to it: all that can change is that a write in progress is cut off, by a reset, a takeover or the fall of the rails (R71,
R597, R770, R869). -/
def Obligations.UnitsAndFrozenFlashAreKept : Prop :=
  (∀ s t : State, s.sized → step s = .next t → t.sized)
  ∧ (∀ s t : State, s.frozen = true → step s = .next t → t.flash = s.flash ∨ t.flash = ({ s with now := t.now } : State).cutFlash.flash)

/-- While RESET_N is held, every command but the pins' own changes the moment alone (R699; log entry 13). -/
def Obligations.HeldInReset : Prop :=
  ∀ (c : Instr) (s : State), s.resetN = true → actsInReset c = false → ∃ t, exec c s = .next t ∧ OnlyTime s t

/-- The memory stacks stay in their canonical form through every step. -/
def Obligations.StacksStayCanonical : Prop :=
  ∀ s t : State, StacksCanonical s → step s = .next t → StacksCanonical t

/-- Only a memory request, a scrub, a trip at 105 °C, a restored die, the boot scrub and a reset change what a memory stack
holds (R363, R369, R390, R721). -/
def Obligations.StacksChangeByMemoryCommands : Prop :=
  ∀ c : Instr, writesStack c = false → Always c SameStacks

/-- Of a memory edge die: a request reads back the bytes that the last write before it put under the same key (R362, R363,
R371); every other block of the die reads as before; writing the queue out changes nothing that a later request reads; a
scrub changes no block of another page (R369). -/
def Obligations.WrittenBytesAreReadBack : Prop :=
  (∀ (m : Med) (w r med page off n : Nat) (bs : List Byte), off % 16 = 0 → bs.length = 16 * n → w < r → (∀ x ∈ m.wq, x.order ≤ w ∨ r ≤ x.order) →
    tabGet [] m.slots (leFold (m.lease page)) ≠ [] →
    (m.writeBytes w med page off bs).readBytes r med page off n = bs)
  ∧ (∀ (m : Med) (w r med page off : Nat) (bs : List Byte) (key : KeyLabel) (tweak a : Nat), (∀ i < bs.length / 16, a ≠ blockAddr page (off + 16 * i)) →
    m.wq.Pairwise (fun x y => x.order ≤ y.order) →
    (m.writeBytes w med page off bs).readBlock r key tweak a = m.readBlock r key tweak a)
  ∧ (∀ (m : Med) (o r : Nat) (key : KeyLabel) (tweak a : Nat), o ≤ r → m.wq.Pairwise (fun x y => x.order ≤ y.order) →
    (m.drain o).readBlock r key tweak a = m.readBlock r key tweak a)
  ∧ (∀ (m : Med) (r page : Nat) (key : KeyLabel) (tweak a : Nat), a / 131072 ≠ page →
    (m.scrub page).readBlock r key tweak a = m.readBlock r key tweak a)

/-- Commands that do not act on a fold leave every fold, channel, session of a fold and scrub record as it was. -/
def Obligations.FoldsChangeByTheirCommands : Prop :=
  ∀ c : Instr, actsOnFolds c = false → Always c SameFolds

/-- Settings in flash change by the commands that store them and no other: not by a reset, not by bring-up (R700, R808). The
flock placement and the address settings in force change at a reset alone (R415, R749). -/
def Obligations.SettingsAndPlacementChangeByTheirCommands : Prop :=
  (∀ c : Instr, storesSetting c = false → Always c SameSettings)
  ∧ (∀ c : Instr, resets c = false → Always c fun s t => t.place = s.place ∧ t.net = s.net)

/-- Commands of links, spans, edge dies, memory, paddocks, folds, channels, consoles and the ledger leave pins, the active
controller, bring-up, the reference, stages, fuses and the scratch register as they were. -/
def Obligations.ControlChangesByItsCommands : Prop :=
  ∀ c : Instr, actsOnControl c = false → Always c SameControl

/-- A view changes nothing but its session, from every state and in every outcome, refusals among them (Tables CMD-1 to
CMD-15). -/
def Obligations.ViewsChangeNothing : Prop :=
  (∀ (detail : Bool) (ln : Ln), Always (.showEngine detail ln) OnlyConsole)
  ∧ (∀ ln : Ln, Always (.showBoot ln) OnlyConsole ∧ Always (.showShc ln) OnlyConsole ∧ Always (.showStage ln) OnlyConsole
    ∧ Always (.showPower ln) OnlyConsole ∧ Always (.showThermal ln) OnlyConsole ∧ Always (.showFlock ln) OnlyConsole
    ∧ Always (.showFolds ln) OnlyConsole ∧ Always (.showUsers ln) OnlyConsole ∧ Always (.ping ln) OnlyConsole)
  ∧ (∀ (at_ : Sum Loc DieName) (ln : Ln), Always (.showSensors at_ ln) OnlyConsole)
  ∧ (∀ (h : Sum (BitVec 32) Nat) (ln : Ln), Always (.showChannel h ln) OnlyConsole)
  ∧ (∀ (at_ : Option (List Loc)) (ln : Ln), Always (.showMap at_ ln) OnlyConsole)
  ∧ (∀ (n : Nat) (p : Option Nat) (ln : Ln), Always (.showPort n p ln) OnlyConsole)
  ∧ (∀ (c r dir : Nat) (lane : Option Nat) (ln : Ln), Always (.showLink c r dir lane ln) OnlyConsole)
  ∧ (∀ (n i : Nat) (ln : Ln), Always (.showSpan n ln) OnlyConsole ∧ Always (.showFold n ln) OnlyConsole ∧ Always (.showKeys n ln) OnlyConsole
    ∧ Always (.showSession n ln) OnlyConsole ∧ Always (.showBucket n i ln) OnlyConsole)
  ∧ (∀ (sc : Scope) (id : Nat) (i : Option Nat) (ln : Ln), Always (.showTally sc id i ln) OnlyConsole)
  ∧ (∀ (since : Option Nat) (fault : Option Bool) (n : Option Nat) (ln : Ln), Always (.showBells since fault n ln) OnlyConsole)
  ∧ (∀ (id : Nat) (since n : Option Nat) (ln : Ln), Always (.showLedger id since n ln) OnlyConsole)
  ∧ (∀ (data : List Byte) (ln : Ln), Always (.verifyLedger data ln) OnlyConsole)

/-- In a session that asks for the CRC suffix a line without it is answered E-117 and not executed (R793); before login every
command but a session verb is answered E-301 and not executed (R804). -/
def Obligations.LinesNeedTheirSuffixAndALogin : Prop :=
  (∀ (c : Instr) (ln : Ln) (s : State), lineOf c = some ln → (s.tick ln.t).hears ln.sess = true → (s.cs ln.sess).crc = true → ln.crc = false →
    ∃ u, exec c s = .next u ∧ OnlySessions s u
      ∧ Answers s u { ln with tag := none, crc := false } (.err 117 [("line", .num ((s.cs ln.sess).lineNo + 1))]))
  ∧ (∀ (c : Instr) (ln : Ln) (s : State), lineOf c = some ln → isSessionVerb c = false → (s.tick ln.t).hears ln.sess = true →
    ((s.cs ln.sess).crc = true → ln.crc = true) → (∀ user lvl, (s.cs ln.sess).login ≠ .loggedIn user lvl) →
    ∃ u, exec c s = .next u ∧ OnlySessions s u ∧ Answers s u ln (.err 301 []))

/-- Privilege is judged before bring-up: a command above the session's level is answered E-302 in every phase (R818); one
within it, and not among those of Table BOOT-4, is answered E-201 during bring-up; then the wafer prefix is judged: a line
for another member of the flock is forwarded, and one for no member is answered E-603. In none of these cases does the
command act. -/
def Obligations.PrivilegeIsJudgedBeforeBringUp : Prop :=
  (∀ (c : Instr) (ln : Ln) (user : List Byte) (lvl : Level) (s : State), lineOf c = some ln → isSessionVerb c = false →
    (s.tick ln.t).hears ln.sess = true → ((s.cs ln.sess).crc = true → ln.crc = true) → (s.cs ln.sess).login = .loggedIn user lvl →
    levelRank lvl < levelRank (levelOf s c) →
    ∃ u, exec c s = .next u ∧ OnlySessions s u ∧ Answers s u ln (.err 302 [("need", .word (levelWord (levelOf s c)))]))
  ∧ (∀ (c : Instr) (ln : Ln) (user : List Byte) (lvl : Level) (s : State), lineOf c = some ln → isSessionVerb c = false →
    (s.tick ln.t).hears ln.sess = true → ((s.cs ln.sess).crc = true → ln.crc = true) → (s.cs ln.sess).login = .loggedIn user lvl →
    levelRank (levelOf s c) ≤ levelRank lvl → s.boot.phase ≠ .ready → takenInBringUp c = false →
    ∃ u, exec c s = .next u ∧ OnlySessions s u ∧ Answers s u ln (.err 201 [("phase", .word (phaseWord s.boot.phase))]))
  ∧ (∀ (c : Instr) (ln : Ln) (user : List Byte) (lvl : Level) (w : Nat) (s : State), lineOf c = some ln → isSessionVerb c = false →
    (s.tick ln.t).hears ln.sess = true → ((s.cs ln.sess).crc = true → ln.crc = true) → (s.cs ln.sess).login = .loggedIn user lvl →
    levelRank (levelOf s c) ≤ levelRank lvl → (s.boot.phase = .ready ∨ takenInBringUp c = true) → ln.wafer = some w → w ≠ s.me →
    ∃ u, exec c s = .next u ∧ OnlyConsole s u ∧
      if w ∈ s.flockMembers then u.wire = s.wire ++ [.forward w ln.sess user lvl]
        ∧ u.waits = s.waits ++ [⟨ln.sess, ln.tag, ln.crc, .member w⟩] else OnlySessions s u ∧ Answers s u ln (.err 603 [("wafer", .num w)]))
end

