-- ==== Sys2Proof/Laws/Core.lean ====
section
/-! SUPPORT. The part of the state that the shared operations leave alone: the queue, the moment, the pins and fuses, the
address settings in force, the number of units, and, while the flash is frozen, the flash. One lemma for each shared operation. -/
namespace Sys2Proof.Machine

open Sys2Proof

set_option linter.all false

/-- Whether the flash is frozen, and when it is, what it holds and which write is in progress. -/
def heldFlash (frozen : Bool) (f : Flash) (w : Option (FlashWork × Time)) : Bool × Option (Flash × Option (FlashWork × Time)) :=
  (frozen, if frozen then some (f, w) else none)

/-- What no shared operation changes. -/
structure Core where
  pending : List Instr
  now : Time
  fuses : Fuses
  place : Place
  net : Net
  resetN : Bool
  pwrFail : Bool
  held : Bool × Option (Flash × Option (FlashWork × Time))
  nSess : Nat
  nNeds : Nat
  nMeds : Nat
  nSpds : Nat

def State.core (s : State) : Core :=
  ⟨s.pending, s.now, s.fuses, s.place, s.net, s.resetN, s.pwrFail, heldFlash s.frozen s.flash s.writing, s.sess.length,
    s.neds.length, s.meds.length, s.spds.length⟩

/-- The core of a state written out field by field. -/
theorem core_mk (now) (freeCtr) (resetN) (pwrFail) (pwrFailAt) (frozen) (faultN) (alertN) (alertCause) (ready) (readyAt)
    (vstby) (fuses) (flash) (writing) (place) (net) (boot) (sel) (quiet) (active) (shcA) (shcB) (mirrorSeq)
    (mirrorProbe) (scratch) (sess) (con0) (con1) (waits) (garp) (stages) (nextStage) (retained) (fwUpdate) (bellSeq)
    (bells) (ledgerSeq) (ledgerHeld) (ledgerStopped) (ptpPort) (ptpHeard) (tallies) (busA) (busB) (shared) (telem)
    (unreach) (refAbsent) (refSince) (meshLocked) (inlet) (outlet) (loopSince) (wave) (lastWave) (map) (mapSeq) (pads)
    (fields) (links) (lane0) (neds) (meds) (spds) (nedTemp) (spdTemp) (medTemp) (flockUp) (flockMembers) (flockInfo)
    (excludedW) (folds) (scrubs) (paused) (secondAt) (incCtr) (channels) (sessions) (reports) (notices) (wsel) (wstat)
    (shadow) (taps) (wire) (pending) : (State.mk now freeCtr resetN pwrFail pwrFailAt frozen faultN alertN alertCause
    ready readyAt vstby fuses flash writing place net boot sel quiet active shcA shcB mirrorSeq mirrorProbe scratch sess
    con0 con1 waits garp stages nextStage retained fwUpdate bellSeq bells ledgerSeq ledgerHeld ledgerStopped ptpPort
    ptpHeard tallies busA busB shared telem unreach refAbsent refSince meshLocked inlet outlet loopSince wave lastWave
    map mapSeq pads fields links lane0 neds meds spds nedTemp spdTemp medTemp flockUp flockMembers flockInfo excludedW
    folds scrubs paused secondAt incCtr channels sessions reports notices wsel wstat shadow taps wire pending).core =
    ⟨pending, now, fuses, place, net, resetN, pwrFail, heldFlash frozen flash writing, sess.length, neds.length,
    meds.length, spds.length⟩ := rfl

theorem core_held (s : State) : heldFlash s.frozen s.flash s.writing = s.core.held := rfl

theorem core_eqs : (∀ s : State, s.pending = s.core.pending) ∧ (∀ s : State, s.now = s.core.now) ∧ (∀ s : State, s.fuses = s.core.fuses)
    ∧ (∀ s : State, s.place = s.core.place) ∧ (∀ s : State, s.net = s.core.net) ∧ (∀ s : State, s.resetN = s.core.resetN)
    ∧ (∀ s : State, s.pwrFail = s.core.pwrFail)
    ∧ (∀ s : State, s.sess.length = s.core.nSess) ∧ (∀ s : State, s.neds.length = s.core.nNeds)
    ∧ (∀ s : State, s.meds.length = s.core.nMeds) ∧ ∀ s : State, s.spds.length = s.core.nSpds := by
  (repeat' apply And.intro) <;> intro _ <;> rfl

@[simp] theorem listSet_length {α : Type} (l : List α) (i : Nat) (v : α) : (listSet l i v).length = l.length := by
  induction l generalizing i with
  | nil => rfl
  | cons x xs ih => cases i <;> simp [listSet, ih]

@[simp] theorem ite_core (c : Prop) [Decidable c] (a b : State) : (if c then a else b).core = if c then a.core else b.core := by
  split <;> rfl

@[simp] theorem foldl_core {α : Type} (f : State → α → State) (h : ∀ s a, (f s a).core = s.core) (l : List α) (s : State) :
    (l.foldl f s).core = s.core := by
  induction l generalizing s with
  | nil => rfl
  | cons x xs ih => simp [ih, h]

theorem foldl_inv {α β : Type} {P : β → Prop} {f : β → α → β} {b : β} (l : List α) (h : P b) (k : ∀ b a, P b → P (f b a)) :
    P (l.foldl f b) := by
  induction l generalizing b with
  | nil => exact h
  | cons x xs ih => exact ih (k _ _ h)

theorem setFlash_core {s : State} (f : Flash) (h : s.frozen = false) : ({ s with flash := f } : State).core = s.core := by
  simp [State.core, heldFlash, h]

theorem setWriting_core {s : State} (w : Option (FlashWork × Time)) (h : s.frozen = false) : ({ s with writing := w } : State).core = s.core := by
  simp [State.core, heldFlash, h]

theorem ite_eq {c : Prop} [Decidable c] {a b : State} {r : Core} (ha : a.core = r) (hb : b.core = r) :
    (if c then a else b).core = r := by
  split <;> assumption

theorem frozen_of_core {s t : State} (h : t.core = s.core) : t.frozen = s.frozen := congrArg (fun c => c.held.1) h

theorem wire_core (a : State) (w : List Wire) : ({ a with wire := w } : State).core = a.core := rfl

theorem heard_core (a : State) (o : Option Time) : ({ a with ptpHeard := o } : State).core = a.core := rfl

theorem fw_core (a : State) (w : FwUpdate) : ({ a with fwUpdate := w } : State).core = a.core := rfl

theorem meds_core (a : State) (l : List Med) (h : l.length = a.meds.length) : ({ a with meds := l } : State).core = a.core := by
  simp [State.core, h]

theorem State.tick_core (s : State) (t : Time) : (s.tick t).core = { s.core with now := max s.now t } := rfl

@[simp] theorem State.setPad_core (s : State) (n : Nat) (p : Paddock) : (State.setPad s n p).core = s.core := by
  unfold State.setPad; simp only [State.core, Core.mk.injEq] <;> simp [↓core_held, ↓core_mk, core_eqs]

@[simp] theorem State.modPad_core (s : State) (n : Nat) (f : Paddock → Paddock) : (State.modPad s n f).core = s.core := by
  simp [State.modPad]

@[simp] theorem State.setField_core (s : State) (f : Nat) (x : Field) : (State.setField s f x).core = s.core := by
  unfold State.setField; simp only [State.core, Core.mk.injEq] <;> simp [↓core_held, ↓core_mk, core_eqs]

@[simp] theorem State.modField_core (s : State) (f : Nat) (g : Field → Field) : (State.modField s f g).core = s.core := by
  simp [State.modField]

@[simp] theorem State.setNed_core (s : State) (k : Nat) (x : Ned) : (State.setNed s k x).core = s.core := by
  unfold State.setNed; simp only [State.core, Core.mk.injEq] <;> simp [↓core_held, ↓core_mk, core_eqs]

@[simp] theorem State.modNed_core (s : State) (k : Nat) (f : Ned → Ned) : (State.modNed s k f).core = s.core := by
  simp [State.modNed]

@[simp] theorem State.setMed_core (s : State) (k : Nat) (x : Med) : (State.setMed s k x).core = s.core := by
  unfold State.setMed; simp only [State.core, Core.mk.injEq] <;> simp [↓core_held, ↓core_mk, core_eqs]

@[simp] theorem State.modMed_core (s : State) (k : Nat) (f : Med → Med) : (State.modMed s k f).core = s.core := by
  simp [State.modMed]

@[simp] theorem State.setSpd_core (s : State) (k : Nat) (x : Spd) : (State.setSpd s k x).core = s.core := by
  unfold State.setSpd; simp only [State.core, Core.mk.injEq] <;> simp [↓core_held, ↓core_mk, core_eqs]

@[simp] theorem State.modSpd_core (s : State) (k : Nat) (f : Spd → Spd) : (State.modSpd s k f).core = s.core := by
  simp [State.modSpd]

@[simp] theorem State.setShc_core (s : State) (i : Nat) (x : Shc) : (State.setShc s i x).core = s.core := by
  unfold State.setShc; simp only [State.core, Core.mk.injEq] <;> simp [↓core_held, ↓core_mk, core_eqs]

@[simp] theorem State.modFlash_core (s : State) (f : Flash → Flash) : (s.modFlash f).core = s.core := by
  unfold State.modFlash
  split
  · rfl
  · rename_i h
    exact setFlash_core _ (by simpa using h)

@[simp] theorem State.modShc_core (s : State) (i : Nat) (f : Shc → Shc) : (State.modShc s i f).core = s.core := by
  simp [State.modShc]

@[simp] theorem State.setLink_core (s : State) (x lane : Nat) (l : LinkEnd) : (State.setLink s x lane l).core = s.core := by
  unfold State.setLink; simp only [State.core, Core.mk.injEq] <;> simp [↓core_held, ↓core_mk, core_eqs]

@[simp] theorem State.modLink_core (s : State) (x lane : Nat) (f : LinkEnd → LinkEnd) : (State.modLink s x lane f).core = s.core := by
  simp [State.modLink]

@[simp] theorem State.setEntry_core (s : State) (n : Nat) (e : MapEntry) : (State.setEntry s n e).core = s.core := by
  unfold State.setEntry; simp only [State.core, Core.mk.injEq] <;> simp [↓core_held, ↓core_mk, core_eqs]

@[simp] theorem State.putFold_core (s : State) (f : Fold) : (State.putFold s f).core = s.core := by
  unfold State.putFold; simp only [State.core, Core.mk.injEq] <;> simp [↓core_held, ↓core_mk, core_eqs]

@[simp] theorem State.modFold_core (s : State) (id : Nat) (g : Fold → Fold) : (State.modFold s id g).core = s.core := by
  unfold State.modFold; simp only [State.core, Core.mk.injEq] <;> simp [↓core_held, ↓core_mk, core_eqs]

@[simp] theorem State.setSession_core (s : State) (num : Nat) (x : Session) : (State.setSession s num x).core = s.core := by
  unfold State.setSession; simp only [State.core, Core.mk.injEq] <;> simp [↓core_held, ↓core_mk, core_eqs]

@[simp] theorem State.putChannel_core (s : State) (c : Channel) : (State.putChannel s c).core = s.core := by
  unfold State.putChannel; simp only [State.core, Core.mk.injEq] <;> simp [↓core_held, ↓core_mk, core_eqs]

@[simp] theorem State.addTally_core (s : State) (scope : TScope) (id idx n : Nat) : (State.addTally s scope id idx n).core = s.core := by
  unfold State.addTally; simp only [State.core, Core.mk.injEq] <;> simp [↓core_held, ↓core_mk, core_eqs]

@[simp] theorem State.count_core (s : State) (scope : TScope) (id idx : Nat) : (State.count s scope id idx).core = s.core := by
  simp [State.count]

@[simp] theorem State.noteStray_core (s : State) (fold : Nat) : (State.noteStray s fold).core = s.core := by
  simp [State.noteStray]

@[simp] theorem State.countChan_core (s : State) (ned bind handle idx n : Nat) : (State.countChan s ned bind handle idx n).core = s.core := by
  simp [State.countChan]

@[simp] theorem State.clearTallies_core (s : State) (scope : TScope) (id : Nat) : (State.clearTallies s scope id).core = s.core := by
  unfold State.clearTallies; simp only [State.core, Core.mk.injEq] <;> simp [↓core_held, ↓core_mk, core_eqs]

@[simp] theorem State.setFoldSt_core (s : State) (id : Nat) (st : FoldState) : (State.setFoldSt s id st).core = s.core := by
  unfold State.setFoldSt; simp only [State.core, Core.mk.injEq] <;> simp [↓core_held, ↓core_mk, core_eqs]

@[simp] theorem State.markThrottle_core (s : State) (fld : Nat) : (State.markThrottle s fld).core = s.core := by
  unfold State.markThrottle; simp only [State.core, Core.mk.injEq] <;> simp [↓core_held, ↓core_mk, core_eqs]

@[simp] theorem State.ring_core (s : State) (obj : String) (fault : Bool) (kv : KVs) : (s.ring obj fault kv).core = s.core := by
  unfold State.ring
  split
  · rfl
  · refine (State.addTally_core _ _ _ _ _).trans ?_
    simp only [State.core, Core.mk.injEq, List.length_map, true_and, and_true, heldFlash]
    cases s.frozen <;> simp

@[simp] theorem State.alert_core (s : State) (row : Nat) : (State.alert s row).core = s.core := by
  unfold State.alert; simp only [State.core, Core.mk.injEq] <;> simp [↓core_held, ↓core_mk, core_eqs]

@[simp] theorem State.report_core (s : State) (tr : Trigger) (folds : List Nat) (place : Nat) : (State.report s tr folds place).core = s.core := by
  unfold State.report; simp only [State.core, Core.mk.injEq] <;> simp [↓core_held, ↓core_mk, core_eqs]

@[simp] theorem State.stepClock_core (s : State) (n x : Nat) : (State.stepClock s n x).core = s.core := by
  simp [State.stepClock]

@[simp] theorem State.goDark_core (s : State) (n : Nat) : (State.goDark s n).core = s.core := by
  unfold State.goDark; simp only [State.core, Core.mk.injEq] <;> simp [↓core_held, ↓core_mk, core_eqs]

@[simp] theorem State.enqueueWave_core (s : State) (n : Nat) (goal : Power) : (State.enqueueWave s n goal).core = s.core := by
  unfold State.enqueueWave; simp only [State.core, Core.mk.injEq] <;> simp [↓core_held, ↓core_mk, core_eqs]

@[simp] theorem State.dissolveYoke_core (s : State) (n : Nat) : (State.dissolveYoke s n).core = s.core := by
  simp [State.dissolveYoke]

@[simp] theorem State.markHole_core (s : State) (n cause : Nat) (quiet : Bool) : (State.markHole s n cause quiet).core = s.core := by
  unfold State.markHole; simp only [State.core, Core.mk.injEq] <;> simp [↓core_held, ↓core_mk, core_eqs]

@[simp] theorem State.endRun_core (s : State) (n : Nat) : (State.endRun s n).core = s.core := by
  simp [State.endRun]

@[simp] theorem State.endB4_core (s : State) : (State.endB4 s).core = s.core := by
  unfold State.endB4; simp only [State.core, Core.mk.injEq] <;> simp [↓core_held, ↓core_mk, core_eqs]

@[simp] theorem State.dieBell_core (s : State) (obj : String) (k cause : Nat) : (State.dieBell s obj k cause).core = s.core := by
  unfold State.dieBell; simp only [State.core, Core.mk.injEq] <;> simp [↓core_held, ↓core_mk, core_eqs]

@[simp] theorem State.reinject_core (s : State) : (State.reinject s).core = s.core := by
  simp [State.reinject]

@[simp] theorem State.pmbus_core (s : State) (addr page cmd data : Nat) : (State.pmbus s addr page cmd data).core = s.core := by
  unfold State.pmbus; simp only [State.core, Core.mk.injEq] <;> simp [↓core_held, ↓core_mk, core_eqs]

/-- What an event leaves alone, its moment aside. -/
theorem State.event_core (s : State) (t : Time) (c : State → Bool) (f : State → State)
    (h : c (s.tick t) = true → (f (s.tick t)).core = (s.tick t).core) : (s.event t c f).core = (s.tick t).core := by
  unfold State.event
  split
  · rename_i g
    exact h (by simpa using (Bool.and_eq_true _ _ ▸ g).2)
  · rfl

/-- An event answers the moment alone or its effect. -/
theorem State.event_cases {P : State → Prop} (s : State) (t : Time) (c : State → Bool) (f : State → State) (h0 : P (s.tick t))
    (h : P (f (s.tick t))) : P (s.event t c f) := by
  unfold State.event
  split <;> assumption

@[simp] theorem State.draw_core (s : State) : s.draw.2.core = s.core := rfl

@[simp] theorem drawBytes_core (n : Nat) (s : State) : (drawBytes n s).2.core = s.core := by
  induction n generalizing s with
  | zero => rfl
  | succ n ih => exact ih _

@[simp] theorem State.tapTest_core (s : State) (d : Nat) : (State.tapTest s d).core = s.core := by
  unfold State.tapTest
  (repeat' split) <;> first | (simp; done) | (simp only [State.core, Core.mk.injEq] <;> simp [↓core_held, ↓core_mk, core_eqs])

@[simp] theorem State.ack_core (s : State) : (State.ack s).core = s.core := by
  unfold State.ack; simp only [State.core, Core.mk.injEq] <;> simp [↓core_held, ↓core_mk, core_eqs]

@[simp] theorem State.setCs_core (s : State) (i : Nat) (c : CSess) : (State.setCs s i c).core = s.core := by
  unfold State.setCs; simp only [State.core, Core.mk.injEq] <;> simp [↓core_held, ↓core_mk, core_eqs]

@[simp] theorem State.modCs_core (s : State) (i : Nat) (f : CSess → CSess) : (State.modCs s i f).core = s.core := by
  simp [State.modCs]

@[simp] theorem State.say_core (s : State) (i : Nat) (o : Out) : (State.say s i o).core = s.core := by
  simp [State.say]

@[simp] theorem State.prompt_core (s : State) (i : Nat) : (State.prompt s i).core = s.core := by
  simp [State.prompt]

@[simp] theorem State.final_core (s : State) (i : Nat) (tag : Option (List Byte)) (crc : Bool) (r : RLine) : (State.final s i tag crc r).core = s.core := by
  simp [State.final]

@[simp] theorem State.answer_core (s : State) (ln : Ln) (r : RLine) : (State.answer s ln r).core = s.core := by
  unfold State.answer
  (repeat' split) <;> simp

@[simp] theorem State.ok_core (s : State) (ln : Ln) (kv : KVs) : (State.ok s ln kv).core = s.core := by
  simp [State.ok]

@[simp] theorem State.err_core (s : State) (ln : Ln) (code : Nat) (kv : KVs) : (State.err s ln code kv).core = s.core := by
  simp [State.err]

@[simp] theorem State.parts_core (s : State) (ln : Ln) (ps : List KVs) (kv : KVs) : (State.parts s ln ps kv).core = s.core := by
  simp [State.parts]

@[simp] theorem State.refuse_core (s : State) (ln : Ln) (why : String) : (State.refuse s ln why).core = s.core := by
  simp [State.refuse]

@[simp] theorem State.sendBells_core (s : State) (i : Nat) : (State.sendBells s i).core = s.core := by
  simp [State.sendBells]

@[simp] theorem State.lineIn_core (s : State) (ln : Ln) : (State.lineIn s ln).core = s.core := by
  unfold State.lineIn; simp only [State.core, Core.mk.injEq] <;> simp [↓core_held, ↓core_mk, core_eqs]

@[simp] theorem State.await_core (s : State) (ln : Ln) (w : WaitFor) : (State.await s ln w).core = s.core := by
  unfold State.await; simp only [State.core, Core.mk.injEq] <;> simp [↓core_held, ↓core_mk, core_eqs]

/-- A console command leaves the core alone, its moment aside, when its body does. -/
theorem State.judged_core (s : State) (ln : Ln) (need : Level) (boot : Bool) (body : State → State)
    (h : ∀ u : State, (body u).core = u.core) : (s.judged ln need boot body).core = (s.tick ln.t).core := by
  unfold State.judged
  dsimp only
  (repeat' split) <;> first | rfl | (simp [h]; done) | (simp only [State.core, Core.mk.injEq] <;> simp [↓core_held, ↓core_mk, core_eqs])

theorem State.sessionVerb_core (s : State) (ln : Ln) (body : State → State)
    (h : ∀ u : State, (body u).core = u.core) : (s.sessionVerb ln body).core = (s.tick ln.t).core := by
  unfold State.sessionVerb
  (repeat' split) <;> first | rfl | (simp [h]; done)

@[simp] theorem State.settle_core (s : State) (p : WaitFor → Bool) (r : RLine) : (State.settle s p r).core = s.core := by
  unfold State.settle; simp only [State.core, Core.mk.injEq] <;> simp [↓core_held, ↓core_mk, core_eqs]

@[simp] theorem State.mirror_core (s : State) : (State.mirror s).core = s.core := by
  unfold State.mirror
  (repeat' split) <;> first | (simp; done) | (simp only [State.core, Core.mk.injEq] <;> simp [↓core_held, ↓core_mk, core_eqs])

@[simp] theorem State.flashErr_core (s : State) (ln : Ln) (region : String) : (State.flashErr s ln region).core = s.core := by
  simp [State.flashErr]

@[simp] theorem State.inRange_core (s : State) (ln : Ln) (key : String) (x lo hi : Nat) (body : State → State)
    (h : (body s).core = s.core) : (s.inRange ln key x lo hi body).core = s.core := by
  unfold State.inRange
  split <;> simp [h]

@[simp] theorem State.onFold_core (s : State) (ln : Ln) (id : Nat) (body : Fold → State)
    (h : ∀ f, (body f).core = s.core) : (s.onFold ln id body).core = s.core := by
  unfold State.onFold
  split <;> simp [h]

@[simp] theorem State.writeMap_core (s : State) (full ok : Bool) : (s.writeMap full ok).core = s.core := by
  unfold State.writeMap
  split
  · rfl
  · rename_i h
    simp only [Bool.or_eq_true, not_or, Bool.not_eq_true] at h
    simp [State.core, heldFlash, h.1]

@[simp] theorem State.writeMapAlone_core (s : State) : s.writeMapAlone.core = s.core := by
  unfold State.writeMapAlone
  split
  · rfl
  · rename_i h
    exact (setWriting_core _ ((frozen_of_core (State.writeMap_core _ _ _)).trans (by simpa using h))).trans (State.writeMap_core _ _ _)

@[simp] theorem State.shcDoubt_core (s : State) (i cause : Nat) : (State.shcDoubt s i cause).core = s.core := by
  unfold State.shcDoubt; simp only [State.core, Core.mk.injEq] <;> simp [↓core_held, ↓core_mk, core_eqs]

@[simp] theorem State.takeoverBell_core (s : State) (i : Nat) : (State.takeoverBell s i).core = s.core := by
  simp [State.takeoverBell]

end Sys2Proof.Machine
end

