-- ==== Sys2Proof/Laws/CoreWafer.lean ====
section
/-! SUPPORT. What the operations on edge dies, links, memory, ledger and power leave alone. -/
namespace Sys2Proof.Machine

open Sys2Proof

set_option linter.all false

@[simp] theorem State.syncCredits_core (s : State) (x lane : Nat) : (State.syncCredits s x lane).core = s.core := by
  unfold State.syncCredits
  (repeat' split) <;> simp

@[simp] theorem State.syncBorders_core (s : State) (n : Nat) : (State.syncBorders s n).core = s.core := by
  unfold State.syncBorders
  dsimp only
  (repeat' split) <;> first | rfl | (simp (disch := (intros; (repeat' split) <;> simp)); done) | (simp only [State.core, Core.mk.injEq] <;> simp (disch := (intros; (repeat' split) <;> simp)) [↓core_held, ↓core_mk, core_eqs])

@[simp] theorem State.reroute_core (s : State) (x lane : Nat) : (State.reroute s x lane).core = s.core := by
  unfold State.reroute
  dsimp only
  (repeat' split) <;> first | rfl | (simp (disch := (intros; (repeat' split) <;> simp)); done) | (simp only [State.core, Core.mk.injEq] <;> simp (disch := (intros; (repeat' split) <;> simp)) [↓core_held, ↓core_mk, core_eqs])

@[simp] theorem State.downSide_core (s : State) (x lane : Nat) (acc : BitVec 5) : (State.downSide s x lane acc).core = s.core := by
  simp [State.downSide]

@[simp] theorem State.sendSys_core (s : State) (u : Nat) (f : Flit) : (State.sendSys s u f).core = s.core := by
  simp [State.sendSys]

@[simp] theorem State.reportFrom_core (s : State) (u : Nat) (tr : Trigger) (folds : List Nat) (place : Nat) : (State.reportFrom s u tr folds place).core = s.core := by
  simp [State.reportFrom]

@[simp] theorem State.pickDetours_core (s : State) (was : List (Nat × Nat × List Nat)) : (State.pickDetours s was).core = s.core := by
  unfold State.pickDetours
  dsimp only
  (repeat' split) <;> first | rfl | (simp (disch := (intros; (repeat' split) <;> simp)); done) | (simp only [State.core, Core.mk.injEq] <;> simp (disch := (intros; (repeat' split) <;> simp)) [↓core_held, ↓core_mk, core_eqs])

@[simp] theorem State.laneDown_core (s : State) (x lane cause : Nat) : (State.laneDown s x lane cause).core = s.core := by
  unfold State.laneDown
  (repeat' split) <;> first | (simp; done) | (simp only [State.core, Core.mk.injEq] <;> simp [↓core_held, ↓core_mk, core_eqs])

@[simp] theorem State.sessMod_core (s : State) (r : Req) (f : Session → Session) : (State.sessMod s r f).core = s.core := by
  unfold State.sessMod
  (repeat' split) <;> simp

@[simp] theorem State.nedSend_core (s : State) (k e : Nat) (fs : List Flit) : (State.nedSend s k e fs).core = s.core := by
  unfold State.nedSend
  (repeat' split) <;> simp

@[simp] theorem State.sendBell_core (s : State) (k eport fold old incoming count : Nat) (im : Image) (d : Nat × Nat × Nat) : (State.sendBell s k eport fold old incoming count im d).core = s.core := by
  simp [State.sendBell]

@[simp] theorem State.closeBatch_core (s : State) (k : Nat) (b : Binding) (f : Fold) : (State.closeBatch s k b f).core = s.core := by
  unfold State.closeBatch
  (repeat' split) <;> simp

@[simp] theorem State.countReq_core (s : State) (k : Nat) (r : Req) (idx n : Nat) : (State.countReq s k r idx n).core = s.core := by
  simp [State.countReq]

theorem State.withTag_core {s s0 : State} {k : Nat} {r x : Req} (h : s.withTag k r = some (x, s0)) : s0.core = s.core := by
  simp only [State.withTag, Option.map_eq_some_iff, Prod.mk.injEq] at h
  obtain ⟨_, _, _, rfl⟩ := h
  simp

@[simp] theorem State.intoWafer_core (s : State) (k : Nat) (r : Req) (rerun : Bool) : (s.intoWafer k r rerun).core = s.core := by
  unfold State.intoWafer
  split
  · rename_i h _
    simp only [State.closeBatch_core, State.nedSend_core]
    split <;> simp [State.withTag_core h]
  · simp

@[simp] theorem State.countReply_core (s : State) (k : Nat) (r : Req) (back : Bool) : (State.countReply s k r back).core = s.core := by
  unfold State.countReply
  (repeat' split) <;> simp

@[simp] theorem State.endReq_core (s : State) (k : Nat) (r : Req) : (State.endReq s k r).core = s.core := by
  simp [State.endReq]

@[simp] theorem State.closeTag_core (s : State) (k : Nat) (r : Req) (stray : Bool) : (State.closeTag s k r stray).core = s.core := by
  simp [State.closeTag]

@[simp] theorem State.releaseFcs_core (s : State) (k : Nat) (r : Req) : (State.releaseFcs s k r).core = s.core := by
  unfold State.releaseFcs; simp only [State.core, Core.mk.injEq] <;> simp [↓core_held, ↓core_mk, core_eqs]

@[simp] theorem State.startReply_core (s : State) (k : Nat) (r : Req) (rep : Reply) (at_ : Time) : (State.startReply s k r rep at_).core = s.core := by
  unfold State.startReply; simp only [State.core, Core.mk.injEq] <;> simp [↓core_held, ↓core_mk, core_eqs]

@[simp] theorem State.compose_core (s : State) (k : Nat) (r : Req) (rep : Reply) : (State.compose s k r rep).core = s.core := by
  unfold State.compose
  dsimp only
  (repeat' split) <;> simp

@[simp] theorem State.stomp_core (s : State) (k : Nat) (r : Req) (whole : Bool) : (State.stomp s k r whole).core = s.core := by
  unfold State.stomp; simp only [State.core, Core.mk.injEq] <;> simp [↓core_held, ↓core_mk, core_eqs]

@[simp] theorem State.unsend_core (s : State) (k : Nat) (r : Req) : (State.unsend s k r).core = s.core := by
  unfold State.unsend; simp only [State.core, Core.mk.injEq] <;> simp [↓core_held, ↓core_mk, core_eqs]

@[simp] theorem State.stompSent_core (s : State) (k : Nat) (r : Req) : (State.stompSent s k r).core = s.core := by
  simp [State.stompSent]

@[simp] theorem State.refuseReq_core (s : State) (k : Nat) (r : Req) (reason : Nat) : (State.refuseReq s k r reason).core = s.core := by
  simp [State.refuseReq]

@[simp] theorem State.dropReq_core (s : State) (k : Nat) (r : Req) : (State.dropReq s k r).core = s.core := by
  simp [State.dropReq]

@[simp] theorem State.penIn_core (s : State) (k : Nat) (r : Req) : (s.penIn k r).core = s.core := by
  unfold State.penIn
  dsimp only
  split
  · simp
  · split
    · rename_i h
      simp [State.withTag_core h]
    · simp

@[simp] theorem State.paidIn_core (s : State) (k : Nat) (r : Req) (src : TokenSrc) : (State.paidIn s k r src).core = s.core := by
  simp [State.paidIn]

@[simp] theorem State.gateWalk_core (s : State) (k : Nat) (r : Req) : (State.gateWalk s k r).core = s.core := by
  unfold State.gateWalk
  (repeat' split) <;> simp

@[simp] theorem State.unclaim_core (s : State) (k : Nat) (y : Req) : (s.unclaim k y).core = s.core := by
  unfold State.unclaim
  dsimp only
  (repeat' split) <;> simp

@[simp] theorem State.gates_core (s : State) (k : Nat) (r : Req) : (s.gates k r).core = s.core := by
  unfold State.gates
  split <;> simp

@[simp] theorem State.sessionAdmit_core (s : State) (k : Nat) (r : Req) : (State.sessionAdmit s k r).core = s.core := by
  unfold State.sessionAdmit
  (repeat' split) <;> simp

@[simp] theorem State.letIn_core (s : State) (k : Nat) (r : Req) : (State.letIn s k r).core = s.core := by
  simp [State.letIn]

@[simp] theorem State.classifyReq_core (s : State) (k : Nat) (r : Req) : (State.classifyReq s k r).core = s.core := by
  unfold State.classifyReq
  dsimp only
  (repeat' split) <;> simp

@[simp] theorem State.afresh_core (s : State) (k : Nat) (r : Req) : (State.afresh s k r).core = s.core := by
  simp [State.afresh]

@[simp] theorem State.rerun_core (s : State) (k : Nat) (r : Req) : (State.rerun s k r).core = s.core := by
  simp [State.rerun]

@[simp] theorem State.holdRun_core (s : State) (k : Nat) (r : Req) : (State.holdRun s k r).core = s.core := by
  simp [State.holdRun]

@[simp] theorem State.resume_core (s : State) (k : Nat) (r : Req) : (State.resume s k r).core = s.core := by
  simp [State.resume]

@[simp] theorem State.proceed_core (s : State) (k : Nat) (r : Req) : (State.proceed s k r).core = s.core := by
  unfold State.proceed
  dsimp only
  (repeat' split) <;> simp

@[simp] theorem State.judgeBad_core (s : State) (k : Nat) (r : Req) (whole : Bool) : (State.judgeBad s k r whole).core = s.core := by
  simp [State.judgeBad]

@[simp] theorem State.groupVerdict_core (s : State) (k : Nat) (r : Req) (fixes : List (Nat × Byte)) (uncorrectable : Bool) : (State.groupVerdict s k r fixes uncorrectable).core = s.core := by
  unfold State.groupVerdict
  dsimp only
  (repeat' split) <;> simp

@[simp] theorem State.fcsVerdict_core (s : State) (k : Nat) (r : Req) (good : Bool) : (State.fcsVerdict s k r good).core = s.core := by
  simp [State.fcsVerdict]

@[simp] theorem State.frameTail_core (s : State) (k : Nat) (r : Req) : (State.frameTail s k r).core = s.core := by
  simp [State.frameTail]

@[simp] theorem State.breakStream_core (s : State) (k : Nat) (r : Req) : (State.breakStream s k r).core = s.core := by
  simp [State.breakStream]

@[simp] theorem State.verdictOn_core (s : State) (k : Nat) (r : Req) (v : Verdict) : (State.verdictOn s k r v).core = s.core := by
  unfold State.verdictOn
  (repeat' split) <;> simp

@[simp] theorem State.hear_core (s : State) (k fid : Nat) (v : Verdict) : (State.hear s k fid v).core = s.core := by
  unfold State.hear
  dsimp only
  (repeat' split) <;> simp

@[simp] theorem State.hearAll_core (s : State) (k fid : Nat) : (State.hearAll s k fid).core = s.core := by
  simp [State.hearAll]

@[simp] theorem State.loseSession_core (s : State) (num : Nat) : (State.loseSession s num).core = s.core := by
  simp [State.loseSession]

@[simp] theorem State.nedEnterDoubt_core (s : State) (k cause : Nat) : (State.nedEnterDoubt s k cause).core = s.core := by
  unfold State.nedEnterDoubt; simp only [State.core, Core.mk.injEq] <;> simp [↓core_held, ↓core_mk, core_eqs]

@[simp] theorem State.raiseQ_core (s : State) (fold key : Nat) (ds : List (Nat × Nat)) : (State.raiseQ s fold key ds).core = s.core := by
  simp [State.raiseQ]

@[simp] theorem State.judgeRaised_core (s : State) (fold : Nat) (ds : List (Nat × Nat)) : (State.judgeRaised s fold ds).core = s.core := by
  simp [State.judgeRaised]

@[simp] theorem State.deltaQ_core (s : State) (x lane : Nat) : (State.deltaQ s x lane).core = s.core := by
  unfold State.deltaQ
  dsimp only
  (repeat' split) <;> first | rfl | (simp (disch := (intros; (repeat' split) <;> simp)); done) | (simp only [State.core, Core.mk.injEq] <;> simp (disch := (intros; (repeat' split) <;> simp)) [↓core_held, ↓core_mk, core_eqs])

@[simp] theorem State.endRaise_core (s : State) (key : Nat) : (State.endRaise s key).core = s.core := by
  unfold State.endRaise; simp only [State.core, Core.mk.injEq] <;> simp [↓core_held, ↓core_mk, core_eqs]

@[simp] theorem State.downLane_core (s : State) (x lane cause : Nat) : (State.downLane s x lane cause).core = s.core := by
  unfold State.downLane
  (repeat' split) <;> simp

@[simp] theorem State.takeFrom_core (s : State) (x lane : Nat) (src : Source) (q : Queued) : (State.takeFrom s x lane src q).core = s.core := by
  unfold State.takeFrom
  (repeat' split) <;> simp

theorem State.nextFlit_core {s t : State} {x lane : Nat} {ok : Queued → Bool} {q : Queued} (h : s.nextFlit x lane ok = some (q, t)) :
    t.core = s.core := by
  unfold State.nextFlit at h
  obtain ⟨vc, -, h⟩ := List.exists_of_findSome?_eq_some h
  split at h
  · split at h
    · simp only [Option.some.injEq, Prod.mk.injEq] at h
      rw [← h.2]
      split <;> simp
    · cases h
  · cases h

@[simp] theorem State.sweepRouter_core (s : State) (n : Nat) : (s.sweepRouter n).core = s.core := by
  unfold State.sweepRouter
  dsimp only
  rw [foldl_core, foldl_core]
  · intros; (repeat' split) <;> simp
  · intros; (repeat' split) <;> simp

@[simp] theorem State.freeSlot_core (s : State) (x lane : Nat) (vc : Bool) : (State.freeSlot s x lane vc).core = s.core := by
  simp [State.freeSlot]

@[simp] theorem State.arrivePad_core (s : State) (x lane : Nat) (vc : Bool) (f : Flit) (path : List Nat) : (State.arrivePad s x lane vc f path).core = s.core := by
  unfold State.arrivePad
  dsimp only
  (repeat' split) <;> simp

@[simp] theorem State.arriveDie_core (s : State) (x lane : Nat) (vc : Bool) (f : Flit) : (State.arriveDie s x lane vc f).core = s.core := by
  simp [State.arriveDie]

@[simp] theorem State.arrive_core (s : State) (x lane : Nat) (vc : Bool) (f : Flit) (path : List Nat) : (State.arrive s x lane vc f path).core = s.core := by
  simp [State.arrive]

@[simp] theorem State.strayAt_core (s : State) (f : Flit) : (State.strayAt s f).core = s.core := by
  simp [State.strayAt]

@[simp] theorem State.memStatus_core (s : State) (n : Nat) (f : Flit) : (State.memStatus s n f).core = s.core := by
  simp [State.memStatus]

theorem opt_ite {c : Prop} [Decidable c] {a b : Option State} {P : State → Prop} (ha : ∀ u ∈ a, P u) (hb : ∀ u ∈ b, P u) :
    ∀ u ∈ (if c then a else b), P u := by
  split <;> assumption

theorem State.dockIn_core {s t : State} {n : Nat} {f : Flit} (h : s.dockIn n f = some t) : t.core = s.core := by
  have g : ∀ u ∈ s.dockIn n f, u.core = s.core := by
    unfold State.dockIn
    dsimp only
    repeat' apply opt_ite
    all_goals
      intro u hu
      first
        | (cases hu; done)
        | (injection hu with hu; subst hu; first | rfl | (simp; done))
  exact g t h

@[simp] theorem State.dockTake_core (s : State) (n : Nat) (h : DockHead) : (s.dockTake n h).core = s.core := by
  cases h <;> simp [State.dockTake]

@[simp] theorem State.dockFill_core (hs : List DockHead) (s : State) (n : Nat) (used : List Nat) :
    (s.dockFill n used hs).core = s.core := by
  induction hs generalizing s used with
  | nil => rfl
  | cons h hs ih =>
    unfold State.dockFill
    dsimp only
    split
    · exact ih _ _
    · split
      · exact ih _ _
      · rename_i e
        rw [ih, State.dockTake_core, State.dockIn_core e]

@[simp] theorem State.dockRefuse_core (s : State) (n : Nat) : (s.dockRefuse n).core = s.core := by
  unfold State.dockRefuse
  refine foldl_core _ (fun _ _ => ?_) _ _
  split <;> simp

@[simp] theorem State.medSend_core (s : State) (k : Nat) (out : List (MedPort × Flit)) : (State.medSend s k out).core = s.core := by
  simp [State.medSend]

@[simp] theorem State.medEnterDoubt_core (s : State) (k cause : Nat) : (State.medEnterDoubt s k cause).core = s.core := by
  simp [State.medEnterDoubt]

@[simp] theorem State.countRets_core (s : State) (k : Nat) (rs : List (MedPort × Flit)) : (State.countRets s k rs).core = s.core := by
  unfold State.countRets
  refine foldl_core _ (fun _ _ => ?_) _ _
  (repeat' split) <;> simp

theorem State.medTake_core {s t : State} {k : Nat} {p : MedPort} {f : Flit} (h : s.medTake k p f = some t) : t.core = s.core := by
  simp only [State.medTake, Option.map_eq_some_iff] at h
  obtain ⟨o, -, rfl⟩ := h
  split <;> simp

@[simp] theorem State.medServe_core (k : Nat) (p : MedPort) (n : Nat) (s : State) : (State.medServe k p n s).core = s.core := by
  induction n generalizing s with
  | zero => rfl
  | succ n ih =>
    unfold State.medServe
    split
    · rfl
    · split
      · rfl
      · rename_i h
        split
        · exact State.medTake_core h
        · exact (ih _).trans (State.medTake_core h)

@[simp] theorem State.sendSpan_core (s : State) (f : SFlit) : (State.sendSpan s f).core = s.core := by
  unfold State.sendSpan
  dsimp only
  (repeat' split) <;> simp

@[simp] theorem State.spanLinkDown_core (s : State) (i cause : Nat) : (State.spanLinkDown s i cause).core = s.core := by
  simp [State.spanLinkDown]

@[simp] theorem State.revokeSpan_core (s : State) (fold : Nat) (reconf : Bool) : (State.revokeSpan s fold reconf).core = s.core := by
  simp [State.revokeSpan]

@[simp] theorem State.unrevokeSpan_core (s : State) (fold : Nat) : (State.unrevokeSpan s fold).core = s.core := by
  unfold State.unrevokeSpan; simp only [State.core, Core.mk.injEq] <;> simp [↓core_held, ↓core_mk, core_eqs]

@[simp] theorem State.takeSpan_core (s : State) (h : Nat × Nat × Nat × Bool × Flit) : (State.takeSpan s h).core = s.core := by
  simp [State.takeSpan]

@[simp] theorem State.pullSpan_core (i n : Nat) (s : State) : (State.pullSpan i n s).core = s.core := by
  induction n generalizing s with
  | zero => rfl
  | succ n ih =>
    unfold State.pullSpan
    dsimp only
    (repeat' split) <;> simp [ih]

@[simp] theorem State.releaseMsg_core (s : State) (i : Nat) (m : SMsg) : (State.releaseMsg s i m).core = s.core := by
  simp [State.releaseMsg]

@[simp] theorem State.spanArrive_core (s : State) (i : Nat) (f : SFlit) : (State.spanArrive s i f).core = s.core := by
  simp [State.spanArrive]

@[simp] theorem State.spanRefuse_core (s : State) (i cause : Nat) : (State.spanRefuse s i cause).core = s.core := by
  simp [State.spanRefuse]

@[simp] theorem State.trainSpan_core (s : State) (i : Nat) : (State.trainSpan s i).core = s.core := by
  simp [State.trainSpan]

@[simp] theorem State.excludeMember_core (s : State) (w : Nat) : (State.excludeMember s w).core = s.core := by
  unfold State.excludeMember; simp only [State.core, Core.mk.injEq] <;> simp [↓core_held, ↓core_mk, core_eqs]

@[simp] theorem State.spdEnterDoubt_core (s : State) (i cause : Nat) : (State.spdEnterDoubt s i cause).core = s.core := by
  simp [State.spdEnterDoubt]

@[simp] theorem State.holdRecord_core (s : State) (r : List Byte) : (s.holdRecord r).core = s.core := by
  have h : ∀ l, ({ s with ledgerHeld := l } : State).core = s.core := fun _ => rfl
  exact h _

theorem State.ringPut_core (r : List Byte) (n : Nat) (rb : List Bool) (s : State) (h : s.frozen = false) :
    (State.ringPut r n rb s).core = s.core := by
  induction n generalizing s rb with
  | zero =>
    unfold State.ringPut
    rw [State.ring_core, State.holdRecord_core]
    rfl
  | succ n ih =>
    unfold State.ringPut
    dsimp only
    split
    · simp [State.core, heldFlash, h]
    · have e : ∀ (t : State), t.core = s.core → t.frozen = false := fun t g => by
        have := congrArg (fun c : Core => c.held.1) g
        simpa [State.core, heldFlash, h] using this
      rw [ih _ _ (e _ (by rw [State.ring_core]; simp [State.core, heldFlash, h])), State.ring_core]
      simp [State.core, heldFlash, h]

@[simp] theorem State.writeRecord_core (s : State) (body : Nat → List Byte) (rb : List Bool) : (s.writeRecord body rb).core = s.core := by
  unfold State.writeRecord
  split
  · rfl
  · rename_i h
    dsimp only
    split
    · rw [State.holdRecord_core]
      rfl
    · rw [State.ringPut_core _ _ _ _ (by simpa using h)]
      rfl

@[simp] theorem State.leaseSecondOf_core (s : State) (f : Fold) : (State.leaseSecondOf s f).core = s.core := by
  simp [State.leaseSecondOf]

@[simp] theorem State.lateIntervals_core (s : State) : (State.lateIntervals s).core = s.core := by
  unfold State.lateIntervals; simp only [State.core, Core.mk.injEq] <;> simp [↓core_held, ↓core_mk, core_eqs]

@[simp] theorem State.closeInterval_core (s : State) (id : Nat) (final : Bool) (rb : List Bool) : (State.closeInterval s id final rb).core = s.core := by
  unfold State.closeInterval
  (repeat' split) <;> simp

@[simp] theorem State.writeGaps_core (s : State) : (State.writeGaps s).core = s.core := by
  simp [State.writeGaps]

@[simp] theorem State.slip_core (s : State) (n k fold : Nat) (fine : Bool) (c : SlipCause) : (State.slip s n k fold fine c).core = s.core := by
  simp [State.slip]

@[simp] theorem State.padDoubt_core (s : State) (n fold : Nat) (tr : Trigger) : (State.padDoubt s n fold tr).core = s.core := by
  simp [State.padDoubt]

@[simp] theorem State.transitionEnds_core (s : State) (id : Nat) : (State.transitionEnds s id).core = s.core := by
  unfold State.transitionEnds
  (repeat' split) <;> simp

@[simp] theorem State.leavePlan_core (s : State) (n k : Nat) : (State.leavePlan s n k).core = s.core := by
  simp [State.leavePlan]

@[simp] theorem State.dieCutOff_core (s : State) (d : Nat) : (State.dieCutOff s d).core = s.core := by
  simp [State.dieCutOff]

@[simp] theorem State.makeHole_core (s : State) (n cause : Nat) (quiet : Bool) : (State.makeHole s n cause quiet).core = s.core := by
  simp [State.makeHole]

@[simp] theorem State.failTest_core (s : State) (n : Nat) : (State.failTest s n).core = s.core := by
  unfold State.failTest; simp only [State.core, Core.mk.injEq] <;> simp [↓core_held, ↓core_mk, core_eqs]

@[simp] theorem State.powerEnds_core (s : State) : (State.powerEnds s).core = s.core := by
  simp [State.powerEnds]

@[simp] theorem State.fieldShutdown_core (s : State) (f : Nat) (vaon : Bool) : (State.fieldShutdown s f vaon).core = s.core := by
  simp [State.fieldShutdown]

@[simp] theorem State.latchField_core (s : State) (f : Nat) : (State.latchField s f).core = s.core := by
  simp [State.latchField]

@[simp] theorem State.startLinks_core (s : State) (n : Nat) : (State.startLinks s n).core = s.core := by
  unfold State.startLinks
  dsimp only
  (repeat' split) <;> first | rfl | (simp (disch := (intros; (repeat' split) <;> simp)); done) | (simp only [State.core, Core.mk.injEq] <;> simp (disch := (intros; (repeat' split) <;> simp)) [↓core_held, ↓core_mk, core_eqs])

@[simp] theorem State.creationEnds_core (s : State) (id : Nat) : (State.creationEnds s id).core = s.core := by
  unfold State.creationEnds
  (repeat' split) <;> simp

@[simp] theorem State.settlePad_core (s : State) (n : Nat) : (State.settlePad s n).core = s.core := by
  unfold State.settlePad
  (repeat' split) <;> simp

@[simp] theorem State.stageOnSequence_core (s : State) (f : Nat) : (State.stageOnSequence s f).core = s.core := by
  simp [State.stageOnSequence]

@[simp] theorem State.pmbusRead_core (s : State) (r : PmbRead) : (State.pmbusRead s r).core = s.core := by
  unfold State.pmbusRead; simp only [State.core, Core.mk.injEq] <;> simp [↓core_held, ↓core_mk, core_eqs]

end Sys2Proof.Machine
end

