-- ==== Sys2Proof/Laws/CoreFold.lean ====
section
/-! SUPPORT. What the operations on folds, images, channels and loads leave alone. -/
namespace Sys2Proof.Machine

open Sys2Proof

set_option linter.all false

@[simp] theorem State.guard_core (s : State) (ln : Ln) (cs : List (Bool × Nat × KVs)) (body : State) (h : body.core = s.core) :
    (s.guard ln cs body).core = s.core := by
  unfold State.guard
  split <;> simp [h]

@[simp] theorem State.powerRun_core (s : State) (n : Nat) : (State.powerRun s n).core = s.core := by
  unfold State.powerRun; simp only [State.core, Core.mk.injEq] <;> simp [↓core_held, ↓core_mk, core_eqs]

@[simp] theorem State.dropBuffers_core (s : State) (n : Nat) (fold : Option Nat) : (State.dropBuffers s n fold).core = s.core := by
  simp [State.dropBuffers]

@[simp] theorem State.revokeFold_core (s : State) (n fold : Nat) : (State.revokeFold s n fold).core = s.core := by
  simp [State.revokeFold]

@[simp] theorem State.hurdleFor_core (s : State) (n fold : Nat) : (State.hurdleFor s n fold).core = s.core := by
  simp [State.hurdleFor]

@[simp] theorem State.startRouter_core (s : State) (n : Nat) : (State.startRouter s n).core = s.core := by
  simp [State.startRouter]

@[simp] theorem State.shearPad_core (s : State) (n : Nat) : (State.shearPad s n).core = s.core := by
  simp [State.shearPad]

@[simp] theorem State.shearSlot_core (s : State) (n k fold : Nat) : (State.shearSlot s n k fold).core = s.core := by
  simp [State.shearSlot]

@[simp] theorem State.advertise_core (s : State) (n fold : Nat) : (State.advertise s n fold).core = s.core := by
  unfold State.advertise
  (repeat' split) <;> first | rfl | (simp; done) | (simp only [State.core, Core.mk.injEq] <;> simp [↓core_held, ↓core_mk, core_eqs]; done) | (rw [foldl_core] <;> (intros; (repeat' split) <;> simp))

@[simp] theorem State.leasePads_core (s : State) (id : Nat) (excl : List Nat) (slots : List (Nat × Nat)) : (State.leasePads s id excl slots).core = s.core := by
  simp [State.leasePads]

@[simp] theorem State.settleUnleased_core (s : State) (n : Nat) : (State.settleUnleased s n).core = s.core := by
  unfold State.settleUnleased
  dsimp only
  (repeat' split) <;> first | rfl | (simp; done) | (simp only [State.core, Core.mk.injEq] <;> simp [↓core_held, ↓core_mk, core_eqs])

@[simp] theorem State.unleasePad_core (s : State) (n fold : Nat) : (State.unleasePad s n fold).core = s.core := by
  simp [State.unleasePad]

@[simp] theorem State.unleaseSlot_core (s : State) (n k fold : Nat) : (State.unleaseSlot s n k fold).core = s.core := by
  simp [State.unleaseSlot]

theorem State.leaseOne_core {s t : State} {k fold g : Nat} {space : Bool} {index : Option Nat} (h : s.leaseOne k fold space index = some (g, t)) :
    t.core = s.core := by
  unfold State.leaseOne at h
  rw [Option.map_eq_some_iff] at h
  obtain ⟨a, -, h⟩ := h
  simp only [Prod.mk.injEq] at h
  rw [← h.2, State.modMed_core]

theorem State.leaseAll_core {s t : State} {fold : Nat} {l : List (Nat × Bool × Option Nat)} {got : List (Nat × Nat)}
    (h : s.leaseAll fold l = some (got, t)) : t.core = s.core := by
  induction l generalizing s got with
  | nil =>
    simp only [State.leaseAll, Option.some.injEq, Prod.mk.injEq] at h
    rw [← h.2]
  | cons a rest ih =>
    obtain ⟨k, sp, ix⟩ := a
    rw [State.leaseAll] at h
    match e : s.leaseOne k fold sp ix with
    | none => rw [e] at h; cases h
    | some (g, s1) =>
      rw [e] at h
      obtain ⟨r, hr, h⟩ := Option.map_eq_some_iff.mp h
      have h2 : r.2 = t := congrArg Prod.snd h
      have h3 : s1.leaseAll fold rest = some (r.1, t) := by rw [← h2]; exact hr
      rw [ih h3, State.leaseOne_core e]

@[simp] theorem State.loadKeys_core (s : State) (f : Fold) (ks : List Nat) : (State.loadKeys s f ks).core = s.core := by
  simp [State.loadKeys]

@[simp] theorem State.revokePages_core (s : State) (ps : List (Nat × Nat)) : (State.revokePages s ps).core = s.core := by
  simp [State.revokePages]

@[simp] theorem State.refuseAll_core (s : State) (p : Nat → Req → Bool) (reason : Nat) : (State.refuseAll s p reason).core = s.core := by
  simp [State.refuseAll]

@[simp] theorem State.penOut_core (s : State) (fold reason : Nat) : (State.penOut s fold reason).core = s.core := by
  simp [State.penOut]

@[simp] theorem State.waferOut_core (s : State) (fold reason : Nat) : (State.waferOut s fold reason).core = s.core := by
  simp [State.waferOut]

@[simp] theorem State.closeChannel_core (s : State) (c : Channel) : (State.closeChannel s c).core = s.core := by
  unfold State.closeChannel; simp only [State.core, Core.mk.injEq] <;> simp [↓core_held, ↓core_mk, core_eqs]

@[simp] theorem State.emptyClosed_core (s : State) (index : Nat) : (State.emptyClosed s index).core = s.core := by
  unfold State.emptyClosed; simp only [State.core, Core.mk.injEq] <;> simp [↓core_held, ↓core_mk, core_eqs]

theorem sum_ite {α β : Type} {c : Prop} [Decidable c] {a b : Sum α β} {P : β → Prop} (ha : ∀ r, a = .inr r → P r)
    (hb : ∀ r, b = .inr r → P r) : ∀ r, (if c then a else b) = .inr r → P r := by
  split <;> assumption

theorem State.bindOne_core {s : State} {f : Fold} {e : Entry} {h ticket : Word} {deadline : Nat} {spec : Bool} {a : BindArg}
    {r : Nat × State} (g : s.bindOne f e h ticket deadline spec a = .inr r) : r.2.core = s.core := by
  have k : ∀ r, s.bindOne f e h ticket deadline spec a = .inr r → r.2.core = s.core := by
    unfold State.bindOne
    dsimp only
    repeat' apply sum_ite
    all_goals intro r hr
    all_goals first
      | (cases hr; done)
      | skip
    split at hr
    · cases hr
    · revert hr
      revert r
      repeat' apply sum_ite
      all_goals intro r hr
      all_goals first
        | (cases hr; done)
        | skip
      split at hr
      · cases hr
      · revert hr
        revert r
        apply sum_ite
        · intro r hr
          cases hr
          simp
        · intro r hr
          cases hr
  exact k r g

theorem State.bindAll_core {s : State} {f : Fold} {e : Entry} {h ticket : Word} {deadline : Nat} {spec : Bool} {l : List BindArg}
    {r : List (Nat × Nat) × State} (g : s.bindAll f e h ticket deadline spec l = .inr r) : r.2.core = s.core := by
  induction l generalizing s r with
  | nil => cases g; rfl
  | cons a as ih =>
    simp only [State.bindAll] at g
    split at g
    · cases g
    · rename_i i s1 e1
      split at g
      · cases g
      · rename_i r1 e2
        cases g
        exact (ih e2).trans (State.bindOne_core e1)

@[simp] theorem State.freeSession_core (s : State) (num : Nat) : (State.freeSession s num).core = s.core := by
  simp [State.freeSession]

@[simp] theorem State.syncPause_core (s : State) : (State.syncPause s).core = s.core := by
  unfold State.syncPause
  (repeat' split) <;> first | (simp; done) | (simp only [State.core, Core.mk.injEq] <;> simp [↓core_held, ↓core_mk, core_eqs])

@[simp] theorem State.finishRelease_core (s : State) (f : Fold) : (State.finishRelease s f).core = s.core := by
  unfold State.finishRelease; simp only [State.core, Core.mk.injEq] <;> simp [↓core_held, ↓core_mk, core_eqs]

@[simp] theorem State.releaseStep_core (s : State) (id : Nat) : (State.releaseStep s id).core = s.core := by
  unfold State.releaseStep
  (repeat' split) <;> simp

@[simp] theorem State.installLinks_core (s : State) (im : Image) (n m fold : Nat) : (State.installLinks s im n m fold).core = s.core := by
  unfold State.installLinks
  (repeat' split) <;> simp

@[simp] theorem State.installPad_core (s : State) (im : Image) (n m fold : Nat) (st : CtxState) (epoch : Nat) : (State.installPad s im n m fold st epoch).core = s.core := by
  simp [State.installPad]

@[simp] theorem State.liftPad_core (s : State) (n fold : Nat) : (State.liftPad s n fold).core = s.core := by
  simp [State.liftPad]

@[simp] theorem State.setYokes_core (s : State) (f : Fold) (im : Image) : (State.setYokes s f im).core = s.core := by
  simp [State.setYokes]

@[simp] theorem State.newLeader_core (s : State) (old : Nat) : (State.newLeader s old).core = s.core := by
  simp [State.newLeader]

@[simp] theorem State.enterFold_core (s : State) (a : FoldArgs) (f : Fold) : (s.enterFold a f).core = s.core := by
  unfold State.enterFold
  dsimp only
  rw [State.leasePads_core, State.loadKeys_core, State.clearTallies_core]
  simp [State.core]

@[simp] theorem State.takeOut_core (s : State) (id : Nat) (ps : List Nat) (qs : List (Nat × Nat)) (is : List Nat) : (State.takeOut s id ps qs is).core = s.core := by
  unfold State.takeOut
  (repeat' split) <;> simp

@[simp] theorem State.resizeTo_core (s : State) (f g : Fold) (a : ResizeArgs) : (State.resizeTo s f g a).core = s.core := by
  simp [State.resizeTo]

@[simp] theorem State.abandonBell_core (s : State) (id : Nat) (cause : String) : (State.abandonBell s id cause).core = s.core := by
  simp [State.abandonBell]

@[simp] theorem State.onChannel_core (s : State) (ln : Ln) (h : Word) (body : Channel → State)
    (k : ∀ c, (body c).core = s.core) : (s.onChannel ln h body).core = s.core := by
  unfold State.onChannel
  split
  · simp
  · split <;> simp [k]

@[simp] theorem State.leaseWindow_core (s : State) (fold num : Nat) (win : List (Nat × Nat)) : (State.leaseWindow s fold num win).core = s.core := by
  simp [State.leaseWindow]

@[simp] theorem State.clearFold_core (s : State) (f : Fold) : (State.clearFold s f).core = s.core := by
  simp [State.clearFold]

@[simp] theorem State.returnAdded_core (s : State) (id : Nat) : (State.returnAdded s id).core = s.core := by
  unfold State.returnAdded
  (repeat' split) <;> simp

@[simp] theorem State.freeStaged_core (s : State) (cs : List (Nat × Nat)) : (State.freeStaged s cs).core = s.core := by
  simp [State.freeStaged]

@[simp] theorem State.loadFail_core (s : State) (id code : Nat) (cause : Option String) : (State.loadFail s id code cause).core = s.core := by
  unfold State.loadFail
  (repeat' split) <;> first | (simp; done) | (simp only [State.core, Core.mk.injEq] <;> simp [↓core_held, ↓core_mk, core_eqs])

@[simp] theorem State.beginLoad_core (s : State) (id : Nat) : (State.beginLoad s id).core = s.core := by
  unfold State.beginLoad
  dsimp only
  (repeat' split) <;> simp

@[simp] theorem State.loadDrained_core (s : State) (id : Nat) : (State.loadDrained s id).core = s.core := by
  unfold State.loadDrained
  (repeat' split) <;> simp

@[simp] theorem State.rebindChannel_core (s : State) (id : Nat) (c : Channel) (old new : Entry) : (State.rebindChannel s id c old new).core = s.core := by
  unfold State.rebindChannel; simp only [State.core, Core.mk.injEq] <;> simp [↓core_held, ↓core_mk, core_eqs]

@[simp] theorem State.rebindAll_core (s : State) (id : Nat) (old : Option Image) (im : Image) : (State.rebindAll s id old im).core = s.core := by
  unfold State.rebindAll
  refine foldl_core _ (fun _ _ => ?_) _ _
  (repeat' split) <;> simp

@[simp] theorem State.commitImage_core (s : State) (id : Nat) (im : Image) (container : List Byte) : (State.commitImage s id im container).core = s.core := by
  unfold State.commitImage
  (repeat' split) <;> first | (simp; done) | (simp only [State.core, Core.mk.injEq] <;> simp [↓core_held, ↓core_mk, core_eqs])

@[simp] theorem State.dropUnnamed_core (s : State) (id : Nat) (im : Image) : (State.dropUnnamed s id im).core = s.core := by
  unfold State.dropUnnamed
  (repeat' split) <;> simp

@[simp] theorem State.bringIn_core (s : State) (im : Image) (n fold epoch : Nat) : (State.bringIn s im n fold epoch).core = s.core := by
  simp [State.bringIn]

@[simp] theorem State.commitLoad_core (s : State) (id : Nat) : (State.commitLoad s id).core = s.core := by
  unfold State.commitLoad
  (repeat' split) <;> simp

@[simp] theorem State.toStandby_core (s : State) (id : Nat) : (State.toStandby s id).core = s.core := by
  unfold State.toStandby
  (repeat' split) <;> simp

@[simp] theorem State.transit_core (s : State) (id : Nat) : (State.transit s id).core = s.core := by
  unfold State.transit
  (repeat' split) <;> simp

@[simp] theorem State.sendBells__core (s : State) (f : Fold) (im : Image) : (State.sendBells_ s f im).core = s.core := by
  simp [State.sendBells_]

@[simp] theorem State.markOutgoing_core (s : State) (im : Image) : (State.markOutgoing s im).core = s.core := by
  simp [State.markOutgoing]

@[simp] theorem State.switchFold_core (s : State) (id : Nat) : (State.switchFold s id).core = s.core := by
  unfold State.switchFold
  (repeat' split) <;> simp

@[simp] theorem State.dropItems_core (s : State) (n k fold : Nat) : (State.dropItems s n k fold).core = s.core := by
  simp [State.dropItems]

@[simp] theorem State.closeEpoch_core (s : State) (k id epoch : Nat) : (State.closeEpoch s k id epoch).core = s.core := by
  simp [State.closeEpoch]

@[simp] theorem State.forceRetire_core (s : State) (id : Nat) : (State.forceRetire s id).core = s.core := by
  unfold State.forceRetire
  (repeat' split) <;> simp

end Sys2Proof.Machine
end

