-- ==== Sys2Proof/Laws/CoreEngine.lean ====
section
/-! SUPPORT. What the operations on clocks, doubt, recovery, bring-up, shepherd and console leave alone. -/
namespace Sys2Proof.Machine

open Sys2Proof

set_option linter.all false

@[simp] theorem State.loseClock_core (s : State) (n : Nat) (tr : Trigger) : (State.loseClock s n tr).core = s.core := by
  simp [State.loseClock]

@[simp] theorem State.throttleStep_core (s : State) (n x : Nat) : (State.throttleStep s n x).core = s.core := by
  simp [State.throttleStep]

@[simp] theorem State.throttleDown_core (s : State) (f : Nat) : (s.throttleDown f).1.core = s.core := by
  unfold State.throttleDown
  refine foldl_inv (P := fun (x : State × Bool × Bool) => x.1.core = s.core) _ rfl ?_
  intro a n h
  dsimp only
  (repeat' split) <;> simp [h]

@[simp] theorem State.throttleUp_core (s : State) (f : Nat) : (s.throttleUp f).1.core = s.core := by
  unfold State.throttleUp
  refine foldl_inv (P := fun (x : State × Bool) => x.1.core = s.core) _ rfl ?_
  intro a n h
  dsimp only
  (repeat' split) <;> simp [h]

@[simp] theorem State.takeOver_core (s : State) (f : Nat) : (State.takeOver s f).core = s.core := by
  simp [State.takeOver]

@[simp] theorem State.throttleOn_core (s : State) (f : Nat) (temp : Int) : (State.throttleOn s f temp).core = s.core := by
  simp [State.throttleOn]

@[simp] theorem State.widen_core (s : State) (f : Nat) (temp : Int) : (State.widen s f temp).core = s.core := by
  simp [State.widen]

@[simp] theorem State.endWiden_core (s : State) (f : Nat) : (State.endWiden s f).core = s.core := by
  simp [State.endWiden]

@[simp] theorem State.moveLease_core (s : State) (id n t : Nat) (tr : Trigger) : (State.moveLease s id n t tr).core = s.core := by
  simp [State.moveLease]

@[simp] theorem State.dropSource_core (s : State) (n : Nat) : (State.dropSource s n).core = s.core := by
  simp [State.dropSource]

@[simp] theorem State.markFailed_core (s : State) (ns : List Nat) (tr : Trigger) : (State.markFailed s ns tr).core = s.core := by
  simp [State.markFailed]

@[simp] theorem State.raiseYoke_core (s : State) (f : Fold) (n : Nat) : (State.raiseYoke s f n).core = s.core := by
  unfold State.raiseYoke
  (repeat' split) <;> simp

@[simp] theorem State.notify_core (s : State) (id : Nat) (next : FoldState) : (State.notify s id next).core = s.core := by
  unfold State.notify; simp only [State.core, Core.mk.injEq] <;> simp [↓core_held, ↓core_mk, core_eqs]

@[simp] theorem State.foldBell_core (s : State) (id : Nat) (st : String) (tr : Trigger) (place : Nat) (kv : KVs) : (State.foldBell s id st tr place kv).core = s.core := by
  unfold State.foldBell; simp only [State.core, Core.mk.injEq] <;> simp [↓core_held, ↓core_mk, core_eqs]

@[simp] theorem State.stopFold_core (s : State) (id : Nat) (tr : Trigger) (place : Nat) (kv : KVs) : (State.stopFold s id tr place kv).core = s.core := by
  simp [State.stopFold]

@[simp] theorem State.enterMigrating_core (s : State) (f : Fold) (r : Recovery) : (State.enterMigrating s f r).core = s.core := by
  simp [State.enterMigrating]

@[simp] theorem State.startRestart_core (s : State) (id : Nat) (tr : Trigger) (place : Nat) : (State.startRestart s id tr place).core = s.core := by
  unfold State.startRestart
  (repeat' split) <;> simp

@[simp] theorem State.startMigration_core (s : State) (id : Nat) (failed : List Nat) (tr : Trigger) (place : Nat) : (State.startMigration s id failed tr place).core = s.core := by
  unfold State.startMigration
  (repeat' split) <;> simp

@[simp] theorem State.toCheckpoint_core (s : State) (id : Nat) : (State.toCheckpoint s id).core = s.core := by
  unfold State.toCheckpoint
  (repeat' split) <;> simp

@[simp] theorem State.endLoadInDoubt_core (s : State) (f : Fold) (padFails : Bool) (tr : Trigger) : (State.endLoadInDoubt s f padFails tr).core = s.core := by
  unfold State.endLoadInDoubt
  (repeat' split) <;> simp

@[simp] theorem State.doubtFold_core (s : State) (tr : Trigger) (place : Nat) (gone : Bool) (id : Nat) : (State.doubtFold s tr place gone id).core = s.core := by
  unfold State.doubtFold
  dsimp only
  (repeat' split) <;> simp

@[simp] theorem State.reported_core (s : State) (tr : Trigger) (place : Nat) (folds : List Nat) : (State.reported s tr place folds).core = s.core := by
  simp [State.reported]

@[simp] theorem State.clockVerdict_core (s : State) (n : Nat) (lasting : Bool) (id : Nat) : (State.clockVerdict s n lasting id).core = s.core := by
  unfold State.clockVerdict
  (repeat' split) <;> simp

@[simp] theorem State.resolveClock_core (s : State) (n : Nat) (good : Bool) : (State.resolveClock s n good).core = s.core := by
  simp [State.resolveClock]

@[simp] theorem State.applyPatches_core (s : State) (f : Fold) (im : Image) : (State.applyPatches s f im).core = s.core := by
  unfold State.applyPatches
  dsimp only
  (repeat' split) <;> first | rfl | (simp (disch := (intros; (repeat' split) <;> simp)); done) | (simp only [State.core, Core.mk.injEq] <;> simp (disch := (intros; (repeat' split) <;> simp)) [↓core_held, ↓core_mk, core_eqs])

@[simp] theorem State.restoreFold_core (s : State) (f : Fold) (im : Image) : (State.restoreFold s f im).core = s.core := by
  unfold State.restoreFold
  (repeat' split) <;> simp

@[simp] theorem State.raiseMoves_core (s : State) (f : Fold) (im : Image) (moves : List (Nat × Nat)) : (State.raiseMoves s f im moves).core = s.core := by
  unfold State.raiseMoves
  dsimp only
  (repeat' split) <;> first | rfl | (simp (disch := (intros; (repeat' split) <;> simp)); done) | (simp only [State.core, Core.mk.injEq] <;> simp (disch := (intros; (repeat' split) <;> simp)) [↓core_held, ↓core_mk, core_eqs])

@[simp] theorem State.rebindMoved_core (s : State) (f : Fold) (im : Image) : (State.rebindMoved s f im).core = s.core := by
  unfold State.rebindMoved
  refine foldl_core _ (fun _ _ => ?_) _ _
  (repeat' split) <;> simp

@[simp] theorem State.finishRecovery_core (s : State) (id : Nat) : (State.finishRecovery s id).core = s.core := by
  unfold State.finishRecovery
  (repeat' split) <;> first | (simp; done) | (simp only [State.core, Core.mk.injEq] <;> simp [↓core_held, ↓core_mk, core_eqs])

@[simp] theorem State.commitRecovery_core (s : State) (id : Nat) : (State.commitRecovery s id).core = s.core := by
  unfold State.commitRecovery
  (repeat' split) <;> simp

@[simp] theorem State.recoverAgain_core (s : State) : (State.recoverAgain s).core = s.core := by
  unfold State.recoverAgain
  refine foldl_core _ (fun _ _ => ?_) _ _
  (repeat' split) <;> simp

@[simp] theorem State.dieBack_core (s : State) (d : DieName) : (s.dieBack d).core = s.core := by
  cases d <;> simp [State.dieBack]

@[simp] theorem State.startConsoles_core (s : State) : (State.startConsoles s).core = s.core := by
  unfold State.startConsoles; simp only [State.core, Core.mk.injEq] <;> simp [↓core_held, ↓core_mk, core_eqs]

@[simp] theorem State.becomeActive_core (s : State) (i : Nat) : (State.becomeActive s i).core = s.core := by
  unfold State.becomeActive; simp only [State.core, Core.mk.injEq] <;> simp [↓core_held, ↓core_mk, core_eqs]

@[simp] theorem State.loadMap_core (s : State) : (State.loadMap s).core = s.core := by
  unfold State.loadMap
  (repeat' split) <;> first | (simp; done) | (simp only [State.core, Core.mk.injEq] <;> simp [↓core_held, ↓core_mk, core_eqs])

@[simp] theorem State.edgeDieDoubt_core (s : State) (d cause : Nat) : (State.edgeDieDoubt s d cause).core = s.core := by
  simp [State.edgeDieDoubt]

@[simp] theorem State.dieVerdict_core (s : State) (d v : Nat) : (State.dieVerdict s d v).core = s.core := by
  unfold State.dieVerdict; simp only [State.core, Core.mk.injEq] <;> simp [↓core_held, ↓core_mk, core_eqs]

@[simp] theorem State.endB2_core (s : State) : (State.endB2 s).core = s.core := by
  unfold State.endB2; simp only [State.core, Core.mk.injEq] <;> simp [↓core_held, ↓core_mk, core_eqs]

@[simp] theorem State.enqueueTests_core (s : State) (ns : List Nat) : (State.enqueueTests s ns).core = s.core := by
  simp [State.enqueueTests]

@[simp] theorem State.carryHoles_core (s : State) : (State.carryHoles s).core = s.core := by
  simp [State.carryHoles]

@[simp] theorem State.startB4_core (s : State) : (State.startB4 s).core = s.core := by
  unfold State.startB4; simp only [State.core, Core.mk.injEq] <;> simp [↓core_held, ↓core_mk, core_eqs]

@[simp] theorem State.defaultReserve_core (s : State) (f : Nat) : (State.defaultReserve s f).core = s.core := by
  unfold State.defaultReserve
  (repeat' split) <;> simp

@[simp] theorem State.bootReserves_core (s : State) : (State.bootReserves s).core = s.core := by
  unfold State.bootReserves
  (repeat' split) <;> simp

@[simp] theorem State.storedPorts_core (s : State) : (State.storedPorts s).core = s.core := by
  unfold State.storedPorts; simp only [State.core, Core.mk.injEq] <;> simp [↓core_held, ↓core_mk, core_eqs]

@[simp] theorem State.stageHoles_core (s : State) : s.stageHoles.core = s.core := by
  unfold State.stageHoles
  refine foldl_core _ (fun v f => ?_) _ _
  split
  · rfl
  · exact foldl_core _ (fun w n => by split <;> simp) _ _

@[simp] theorem State.bootEntries_core (s : State) : (State.bootEntries s).core = s.core := by
  simp [State.bootEntries]

theorem boot_core (a : State) (b : Boot) (r : Bool) (t : Time) (v f : Bool) :
    ({ a with boot := b, ready := r, readyAt := t, vstby := v, faultN := f } : State).core = a.core := rfl

@[simp] theorem State.becomeReady_core (s : State) (must : Bool) : (s.becomeReady must).core = s.core := by
  unfold State.becomeReady
  dsimp only
  generalize hx : (if must = true then s.writeMap s.boot.full true else s) = x
  have h3 : x.core = s.core := by
    rw [← hx]
    split <;> simp
  rw [← h3]
  generalize hy : x.storedPorts.modFlash _ = y
  have h4 : y.core = x.core := by
    rw [← hy]
    simp
  rw [← h4]
  have h5 : ({ y with meds := y.meds.map fun m => if m.doubt = true then m else m.scrubAll } : State).core = y.core :=
    meds_core y _ (List.length_map _)
  rw [← h5]
  generalize ({ y with meds := y.meds.map fun m => if m.doubt = true then m else m.scrubAll } : State) = z
  exact (boot_core _ _ _ _ _ _).trans ((State.writeGaps_core _).trans (State.mirror_core _))

@[simp] theorem State.dropMaster_core (s : State) : (State.dropMaster s).core = s.core := by
  unfold State.dropMaster; simp only [State.core, Core.mk.injEq] <;> simp [↓core_held, ↓core_mk, core_eqs]

@[simp] theorem State.bootAgain_core (s : State) : (State.bootAgain s).core = s.core := by
  unfold State.bootAgain
  (repeat' split) <;> first | (simp; done) | (simp only [State.core, Core.mk.injEq] <;> simp [↓core_held, ↓core_mk, core_eqs])

@[simp] theorem State.retriesAgain_core (s : State) : (State.retriesAgain s).core = s.core := by
  simp [State.retriesAgain]

@[simp] theorem State.takeRole_core (s : State) (i : Nat) : (State.takeRole s i).core = s.core := by
  unfold State.takeRole; simp only [State.core, Core.mk.injEq] <;> simp [↓core_held, ↓core_mk, core_eqs]

@[simp] theorem State.takeOverFrom_core (s : State) (a cause : Nat) : (s.takeOverFrom a cause).core = s.cutFlash.core := by
  simp [State.takeOverFrom]

@[simp] theorem State.pathLost_core (s : State) (i : Nat) (newly : Bool) (w : String) : (State.pathLost s i newly w).core = s.core := by
  simp [State.pathLost]

@[simp] theorem State.fwBell_core (s : State) (fault : Bool) (version : Nat) (kv : KVs) : (State.fwBell s fault version kv).core = s.core := by
  simp [State.fwBell]

@[simp] theorem State.setCon_core (s : State) (i : Nat) (c : Con) : (State.setCon s i c).core = s.core := by
  unfold State.setCon; simp only [State.core, Core.mk.injEq] <;> simp [↓core_held, ↓core_mk, core_eqs]

@[simp] theorem State.setHeld_core (s : State) (i : Nat) : (State.setHeld s i).core = s.core := by
  simp [State.setHeld]

@[simp] theorem State.breakLine_core (s : State) (i : Nat) : (State.breakLine s i).core = s.core := by
  simp [State.breakLine]

@[simp] theorem State.echoBytes_core (s : State) (i : Nat) (bs : List Byte) : (State.echoBytes s i bs).core = s.core := by
  simp [State.echoBytes]

@[simp] theorem State.endLine_core (s : State) (i : Nat) : (State.endLine s i).core = s.core := by
  simp [State.endLine]

@[simp] theorem State.closeTcp_core (s : State) (i : Nat) : (State.closeTcp s i).core = s.core := by
  unfold State.closeTcp; simp only [State.core, Core.mk.injEq] <;> simp [↓core_held, ↓core_mk, core_eqs]

@[simp] theorem State.echoReply_core (s : State) (f : List Byte) : (s.echoReply f).2.core = s.core := by
  unfold State.echoReply
  simp

@[simp] theorem State.endLogin_core (s : State) (i : Nat) : (State.endLogin s i).core = s.core := by
  simp [State.endLogin]

@[simp] theorem State.loginFailed_core (s : State) (ln : Ln) (user : List Byte) (code : Nat) : (State.loginFailed s ln user code).core = s.core := by
  simp [State.loginFailed]

@[simp] theorem State.enter_core (s : State) (ln : Ln) (user : List Byte) (level : Level) : (State.enter s ln user level).core = s.core := by
  simp [State.enter]

theorem State.wrongForm_core (s : State) (ln : Ln) (key : String) : (s.wrongForm ln key).core = (s.tick ln.t).core := by
  unfold State.wrongForm
  exact State.sessionVerb_core _ _ _ (fun u => by simp)

@[simp] theorem State.takeResult_core (s : State) (k : Nat) (r : Req) (f : Flit) : (State.takeResult s k r f).core = s.core := by
  simp [State.takeResult]

@[simp] theorem State.cutReply_core (s : State) (k : Nat) (r : Req) : (State.cutReply s k r).core = s.core := by
  unfold State.cutReply; simp only [State.core, Core.mk.injEq] <;> simp [↓core_held, ↓core_mk, core_eqs]

@[simp] theorem State.beginDrain_core (s : State) (k port : Nat) (f : Port → Port) : (State.beginDrain s k port f).core = s.core := by
  simp [State.beginDrain]

@[simp] theorem State.sensorFailed_core (s : State) (n which : Nat) : (State.sensorFailed s n which).core = s.core := by
  simp [State.sensorFailed]

@[simp] theorem State.thermalTrip_core (s : State) (n : Nat) (noSensor : Bool) : (State.thermalTrip s n noSensor).core = s.core := by
  simp [State.thermalTrip]

theorem State.shcHot_core (s : State) (i cause : Nat) : (s.shcHot i cause).core = s.core ∨ (s.shcHot i cause).core = s.cutFlash.core := by
  unfold State.shcHot
  (repeat' split)
  · exact .inr (by simp)
  · exact .inr (by simp only [State.core, Core.mk.injEq] <;> simp [↓core_held, ↓core_mk, core_eqs])
  · exact .inl (by simp)
  · exact .inl rfl

@[simp] theorem State.samplePad_core (s : State) (n : Nat) (a b : Int) : (State.samplePad s n a b).core = s.core := by
  simp [State.samplePad]

@[simp] theorem State.coolant_core (s : State) (addr : Nat) (r : Option Int) : (State.coolant s addr r).core = s.core := by
  unfold State.coolant
  (repeat' split) <;> first | (simp; done) | (simp only [State.core, Core.mk.injEq] <;> simp [↓core_held, ↓core_mk, core_eqs])

@[simp] theorem State.loopOne_core (s : State) (i : Nat) (c : Option Bool) : (State.loopOne s i c).core = s.core := by
  unfold State.loopOne
  (repeat' split) <;> first | (simp; done) | (simp only [State.core, Core.mk.injEq] <;> simp [↓core_held, ↓core_mk, core_eqs])

@[simp] theorem State.readReg_core (s : State) (addr : Nat) : (s.readReg addr).2.core = s.core := by
  unfold State.readReg
  dsimp only
  (repeat' split) <;> first | rfl | simp

@[simp] theorem State.clearSat_core (s : State) (n : Nat) (v : Word) : (State.clearSat s n v).core = s.core := by
  simp [State.clearSat]

@[simp] theorem State.loadWindow_core (s : State) (k : Nat) (v : Word) : (State.loadWindow s k v).core = s.core := by
  unfold State.loadWindow; simp only [State.core, Core.mk.injEq] <;> simp [↓core_held, ↓core_mk, core_eqs]

@[simp] theorem State.writeReg_core (s : State) (w : Writable) (v mask : Word) : (State.writeReg s w v mask).core = s.core := by
  unfold State.writeReg
  (repeat' split) <;> first | (simp; done) | (simp only [State.core, Core.mk.injEq] <;> simp [↓core_held, ↓core_mk, core_eqs])

@[simp] theorem State.poke_core (s : State) (ln : Ln) (addr : Nat) (v mask : Word) : (State.poke s ln addr v mask).core = s.core := by
  unfold State.poke
  (repeat' split) <;> simp

@[simp] theorem State.peekFrom_core (ln : Ln) (addr n done : Nat) (s : State) : (State.peekFrom ln addr n done s).core = s.core := by
  induction n generalizing done s with
  | zero => simp [State.peekFrom]
  | succ n ih =>
    rw [State.peekFrom]
    split <;> simp [ih]

end Sys2Proof.Machine
end

