-- ==== Sys2Proof/Laws/Cfg.lean ====
section
/-! SUPPORT. What leaves the settings in flash alone. -/
namespace Sys2Proof.Machine

open Sys2Proof

set_option linter.all false

structure Cfg where
  creds : Option (List Cred)
  net : Net
  con0 : Nat × Bool
  con1 : Nat × Bool
  lanes : List (Nat × Nat × Nat)
  ports : List PortSet
  place : Place
  bootFull : Bool

def State.cfg (s : State) : Cfg :=
  ⟨s.flash.creds, s.flash.net, s.flash.con0, s.flash.con1, s.flash.lanes, s.flash.ports, s.flash.place, s.flash.bootFull⟩

theorem cfg_mk (now) (freeCtr) (resetN) (pwrFail) (pwrFailAt) (frozen) (faultN) (alertN) (alertCause) (ready)
    (readyAt) (vstby) (fuses) (flash) (writing) (place) (net) (boot) (sel) (quiet) (active) (shcA) (shcB) (mirrorSeq)
    (mirrorProbe) (scratch) (sess) (con0) (con1) (waits) (garp) (stages) (nextStage) (retained) (fwUpdate) (bellSeq)
    (bells) (ledgerSeq) (ledgerHeld) (ledgerStopped) (ptpPort) (ptpHeard) (tallies) (busA) (busB) (shared) (telem)
    (unreach) (refAbsent) (refSince) (meshLocked) (inlet) (outlet) (loopSince) (wave) (lastWave) (map) (mapSeq) (pads)
    (fields) (links) (lane0) (neds) (meds) (spds) (nedTemp) (spdTemp) (medTemp) (flockUp) (flockMembers) (flockInfo)
    (excludedW) (folds) (scrubs) (paused) (secondAt) (incCtr) (channels) (sessions) (reports) (notices) (wsel) (wstat)
    (shadow) (taps) (wire) (pending) : (State.mk now freeCtr resetN pwrFail pwrFailAt frozen faultN alertN alertCause
    ready readyAt vstby fuses flash writing place net boot sel quiet active shcA shcB mirrorSeq mirrorProbe scratch
    sess con0 con1 waits garp stages nextStage retained fwUpdate bellSeq bells ledgerSeq ledgerHeld ledgerStopped
    ptpPort ptpHeard tallies busA busB shared telem unreach refAbsent refSince meshLocked inlet outlet loopSince wave
    lastWave map mapSeq pads fields links lane0 neds meds spds nedTemp spdTemp medTemp flockUp flockMembers flockInfo
    excludedW folds scrubs paused secondAt incCtr channels sessions reports notices wsel wstat shadow taps wire
    pending).cfg = ⟨flash.creds, flash.net, flash.con0, flash.con1, flash.lanes, flash.ports, flash.place,
    flash.bootFull⟩ := rfl

theorem cfg_eqs : (∀ s : State, s.flash.creds = s.cfg.creds) ∧ (∀ s : State, s.flash.net = s.cfg.net) ∧ (∀ s : State,
    s.flash.con0 = s.cfg.con0) ∧ (∀ s : State, s.flash.con1 = s.cfg.con1) ∧ (∀ s : State, s.flash.lanes = s.cfg.lanes)
    ∧ (∀ s : State, s.flash.ports = s.cfg.ports) ∧ (∀ s : State, s.flash.place = s.cfg.place) ∧ (∀ s : State,
    s.flash.bootFull = s.cfg.bootFull) := by
  (repeat' apply And.intro) <;> intros <;> rfl

@[simp] theorem ite_cfg (c : Prop) [Decidable c] (a b : State) : (if c then a else b).cfg = if c then a.cfg else b.cfg := by
  split <;> rfl

@[simp] theorem foldl_cfg {α : Type} (f : State → α → State) (h : ∀ s a, (f s a).cfg = s.cfg) (l : List α) (s : State) :
    (l.foldl f s).cfg = s.cfg := by
  induction l generalizing s with
  | nil => rfl
  | cons x xs ih => simp [ih, h]

theorem ite_eq_cfg {c : Prop} [Decidable c] {a b : State} {r : Cfg} (ha : a.cfg = r) (hb : b.cfg = r) :
    (if c then a else b).cfg = r := by
  split <;> assumption

theorem wire_cfg (a : State) (w : List Wire) : ({ a with wire := w } : State).cfg = a.cfg := rfl

theorem meds_cfg (a : State) (l : List Med) (h : l.length = a.meds.length) : ({ a with meds := l } : State).cfg = a.cfg := rfl

/-- The settings a flash holds. -/
def Flash.settings (f : Flash) : Cfg := ⟨f.creds, f.net, f.con0, f.con1, f.lanes, f.ports, f.place, f.bootFull⟩

theorem heard_cfg (a : State) (o : Option Time) : ({ a with ptpHeard := o } : State).cfg = a.cfg := rfl

theorem fw_cfg (a : State) (w : FwUpdate) : ({ a with fwUpdate := w } : State).cfg = a.cfg := rfl

theorem setWriting_cfg {s : State} (w : Option (FlashWork × Time)) (h : s.frozen = false) : ({ s with writing := w } : State).cfg = s.cfg := rfl

@[simp] theorem State.tick_cfg (s : State) (t : Time) : (s.tick t).cfg = s.cfg := rfl

@[simp] theorem State.setPad_cfg (s : State) (n : Nat) (p : Paddock) : (State.setPad s n p).cfg = s.cfg := by
  unfold State.setPad; simp only [State.cfg, Cfg.mk.injEq] <;> simp [↓cfg_mk, cfg_eqs]

@[simp] theorem State.modPad_cfg (s : State) (n : Nat) (f : Paddock → Paddock) : (State.modPad s n f).cfg = s.cfg := by
  simp [State.modPad]

@[simp] theorem State.setField_cfg (s : State) (f : Nat) (x : Field) : (State.setField s f x).cfg = s.cfg := by
  unfold State.setField; simp only [State.cfg, Cfg.mk.injEq] <;> simp [↓cfg_mk, cfg_eqs]

@[simp] theorem State.modField_cfg (s : State) (f : Nat) (g : Field → Field) : (State.modField s f g).cfg = s.cfg := by
  simp [State.modField]

@[simp] theorem State.setNed_cfg (s : State) (k : Nat) (x : Ned) : (State.setNed s k x).cfg = s.cfg := by
  unfold State.setNed; simp only [State.cfg, Cfg.mk.injEq] <;> simp [↓cfg_mk, cfg_eqs]

@[simp] theorem State.modNed_cfg (s : State) (k : Nat) (f : Ned → Ned) : (State.modNed s k f).cfg = s.cfg := by
  simp [State.modNed]

@[simp] theorem State.setMed_cfg (s : State) (k : Nat) (x : Med) : (State.setMed s k x).cfg = s.cfg := by
  unfold State.setMed; simp only [State.cfg, Cfg.mk.injEq] <;> simp [↓cfg_mk, cfg_eqs]

@[simp] theorem State.modMed_cfg (s : State) (k : Nat) (f : Med → Med) : (State.modMed s k f).cfg = s.cfg := by
  simp [State.modMed]

@[simp] theorem State.setSpd_cfg (s : State) (k : Nat) (x : Spd) : (State.setSpd s k x).cfg = s.cfg := by
  unfold State.setSpd; simp only [State.cfg, Cfg.mk.injEq] <;> simp [↓cfg_mk, cfg_eqs]

@[simp] theorem State.modSpd_cfg (s : State) (k : Nat) (f : Spd → Spd) : (State.modSpd s k f).cfg = s.cfg := by
  simp [State.modSpd]

@[simp] theorem State.setShc_cfg (s : State) (i : Nat) (x : Shc) : (State.setShc s i x).cfg = s.cfg := by
  unfold State.setShc; simp only [State.cfg, Cfg.mk.injEq] <;> simp [↓cfg_mk, cfg_eqs]

@[simp] theorem State.modFlash_cfg (s : State) (f : Flash → Flash) (h : (f s.flash).settings = s.flash.settings) :
    (s.modFlash f).cfg = s.cfg := by
  unfold State.modFlash
  split
  · rfl
  · exact h

@[simp] theorem State.modShc_cfg (s : State) (i : Nat) (f : Shc → Shc) : (State.modShc s i f).cfg = s.cfg := by
  simp [State.modShc]

@[simp] theorem State.setLink_cfg (s : State) (x lane : Nat) (l : LinkEnd) : (State.setLink s x lane l).cfg = s.cfg := by
  unfold State.setLink; simp only [State.cfg, Cfg.mk.injEq] <;> simp [↓cfg_mk, cfg_eqs]

@[simp] theorem State.modLink_cfg (s : State) (x lane : Nat) (f : LinkEnd → LinkEnd) : (State.modLink s x lane f).cfg = s.cfg := by
  simp [State.modLink]

@[simp] theorem State.setEntry_cfg (s : State) (n : Nat) (e : MapEntry) : (State.setEntry s n e).cfg = s.cfg := by
  unfold State.setEntry; simp only [State.cfg, Cfg.mk.injEq] <;> simp [↓cfg_mk, cfg_eqs]

@[simp] theorem State.putFold_cfg (s : State) (f : Fold) : (State.putFold s f).cfg = s.cfg := by
  unfold State.putFold; simp only [State.cfg, Cfg.mk.injEq] <;> simp [↓cfg_mk, cfg_eqs]

@[simp] theorem State.modFold_cfg (s : State) (id : Nat) (g : Fold → Fold) : (State.modFold s id g).cfg = s.cfg := by
  unfold State.modFold; simp only [State.cfg, Cfg.mk.injEq] <;> simp [↓cfg_mk, cfg_eqs]

@[simp] theorem State.setSession_cfg (s : State) (num : Nat) (x : Session) : (State.setSession s num x).cfg = s.cfg := by
  unfold State.setSession; simp only [State.cfg, Cfg.mk.injEq] <;> simp [↓cfg_mk, cfg_eqs]

@[simp] theorem State.putChannel_cfg (s : State) (c : Channel) : (State.putChannel s c).cfg = s.cfg := by
  unfold State.putChannel; simp only [State.cfg, Cfg.mk.injEq] <;> simp [↓cfg_mk, cfg_eqs]

@[simp] theorem State.addTally_cfg (s : State) (scope : TScope) (id idx n : Nat) : (State.addTally s scope id idx n).cfg = s.cfg := by
  unfold State.addTally; simp only [State.cfg, Cfg.mk.injEq] <;> simp [↓cfg_mk, cfg_eqs]

@[simp] theorem State.count_cfg (s : State) (scope : TScope) (id idx : Nat) : (State.count s scope id idx).cfg = s.cfg := by
  simp [State.count]

@[simp] theorem State.noteStray_cfg (s : State) (fold : Nat) : (State.noteStray s fold).cfg = s.cfg := by
  simp [State.noteStray]

@[simp] theorem State.countChan_cfg (s : State) (ned bind handle idx n : Nat) : (State.countChan s ned bind handle idx n).cfg = s.cfg := by
  simp [State.countChan]

@[simp] theorem State.clearTallies_cfg (s : State) (scope : TScope) (id : Nat) : (State.clearTallies s scope id).cfg = s.cfg := by
  unfold State.clearTallies; simp only [State.cfg, Cfg.mk.injEq] <;> simp [↓cfg_mk, cfg_eqs]

@[simp] theorem State.setFoldSt_cfg (s : State) (id : Nat) (st : FoldState) : (State.setFoldSt s id st).cfg = s.cfg := by
  unfold State.setFoldSt; simp only [State.cfg, Cfg.mk.injEq] <;> simp [↓cfg_mk, cfg_eqs]

@[simp] theorem State.markThrottle_cfg (s : State) (fld : Nat) : (State.markThrottle s fld).cfg = s.cfg := by
  unfold State.markThrottle; simp only [State.cfg, Cfg.mk.injEq] <;> simp [↓cfg_mk, cfg_eqs]

@[simp] theorem State.ring_cfg (s : State) (obj : String) (fault : Bool) (kv : KVs) : (s.ring obj fault kv).cfg = s.cfg := by
  unfold State.ring
  split
  · rfl
  · refine (State.addTally_cfg _ _ _ _ _).trans ?_
    simp only [State.cfg, Cfg.mk.injEq]
    cases fault <;> cases s.frozen <;> simp

@[simp] theorem State.alert_cfg (s : State) (row : Nat) : (State.alert s row).cfg = s.cfg := by
  unfold State.alert; simp only [State.cfg, Cfg.mk.injEq] <;> simp [↓cfg_mk, cfg_eqs]

@[simp] theorem State.report_cfg (s : State) (tr : Trigger) (folds : List Nat) (place : Nat) : (State.report s tr folds place).cfg = s.cfg := by
  unfold State.report; simp only [State.cfg, Cfg.mk.injEq] <;> simp [↓cfg_mk, cfg_eqs]

@[simp] theorem State.stepClock_cfg (s : State) (n x : Nat) : (State.stepClock s n x).cfg = s.cfg := by
  simp [State.stepClock]

@[simp] theorem State.goDark_cfg (s : State) (n : Nat) : (State.goDark s n).cfg = s.cfg := by
  unfold State.goDark; simp only [State.cfg, Cfg.mk.injEq] <;> simp [↓cfg_mk, cfg_eqs]

@[simp] theorem State.enqueueWave_cfg (s : State) (n : Nat) (goal : Power) : (State.enqueueWave s n goal).cfg = s.cfg := by
  unfold State.enqueueWave; simp only [State.cfg, Cfg.mk.injEq] <;> simp [↓cfg_mk, cfg_eqs]

@[simp] theorem State.dissolveYoke_cfg (s : State) (n : Nat) : (State.dissolveYoke s n).cfg = s.cfg := by
  simp [State.dissolveYoke]

@[simp] theorem State.markHole_cfg (s : State) (n cause : Nat) (quiet : Bool) : (State.markHole s n cause quiet).cfg = s.cfg := by
  unfold State.markHole; simp only [State.cfg, Cfg.mk.injEq] <;> simp [↓cfg_mk, cfg_eqs]

@[simp] theorem State.endRun_cfg (s : State) (n : Nat) : (State.endRun s n).cfg = s.cfg := by
  simp [State.endRun]

@[simp] theorem State.endB4_cfg (s : State) : (State.endB4 s).cfg = s.cfg := by
  unfold State.endB4; simp only [State.cfg, Cfg.mk.injEq] <;> simp [↓cfg_mk, cfg_eqs]

@[simp] theorem State.dieBell_cfg (s : State) (obj : String) (k cause : Nat) : (State.dieBell s obj k cause).cfg = s.cfg := by
  unfold State.dieBell; simp only [State.cfg, Cfg.mk.injEq] <;> simp [↓cfg_mk, cfg_eqs]

@[simp] theorem State.reinject_cfg (s : State) : (State.reinject s).cfg = s.cfg := by
  simp [State.reinject]

@[simp] theorem State.pmbus_cfg (s : State) (addr page cmd data : Nat) : (State.pmbus s addr page cmd data).cfg = s.cfg := by
  unfold State.pmbus; simp only [State.cfg, Cfg.mk.injEq] <;> simp [↓cfg_mk, cfg_eqs]

/-- What an event leaves alone, its moment aside. -/
theorem State.event_cfg (s : State) (t : Time) (c : State → Bool) (f : State → State)
    (h : c (s.tick t) = true → (f (s.tick t)).cfg = s.cfg) : (s.event t c f).cfg = s.cfg := by
  unfold State.event
  split
  · rename_i g
    exact h (by simpa using (Bool.and_eq_true _ _ ▸ g).2)
  · rfl

@[simp] theorem State.draw_cfg (s : State) : s.draw.2.cfg = s.cfg := rfl

@[simp] theorem drawBytes_cfg (n : Nat) (s : State) : (drawBytes n s).2.cfg = s.cfg := by
  induction n generalizing s with
  | zero => rfl
  | succ n ih => exact ih _

@[simp] theorem State.tapTest_cfg (s : State) (d : Nat) : (State.tapTest s d).cfg = s.cfg := by
  unfold State.tapTest
  (repeat' split) <;> first | (simp; done) | (simp only [State.cfg, Cfg.mk.injEq] <;> simp [↓cfg_mk, cfg_eqs])

@[simp] theorem State.ack_cfg (s : State) : (State.ack s).cfg = s.cfg := by
  unfold State.ack; simp only [State.cfg, Cfg.mk.injEq] <;> simp [↓cfg_mk, cfg_eqs]

@[simp] theorem State.setCs_cfg (s : State) (i : Nat) (c : CSess) : (State.setCs s i c).cfg = s.cfg := by
  unfold State.setCs; simp only [State.cfg, Cfg.mk.injEq] <;> simp [↓cfg_mk, cfg_eqs]

@[simp] theorem State.modCs_cfg (s : State) (i : Nat) (f : CSess → CSess) : (State.modCs s i f).cfg = s.cfg := by
  simp [State.modCs]

@[simp] theorem State.say_cfg (s : State) (i : Nat) (o : Out) : (State.say s i o).cfg = s.cfg := by
  simp [State.say]

@[simp] theorem State.prompt_cfg (s : State) (i : Nat) : (State.prompt s i).cfg = s.cfg := by
  simp [State.prompt]

@[simp] theorem State.final_cfg (s : State) (i : Nat) (tag : Option (List Byte)) (crc : Bool) (r : RLine) : (State.final s i tag crc r).cfg = s.cfg := by
  simp [State.final]

@[simp] theorem State.answer_cfg (s : State) (ln : Ln) (r : RLine) : (State.answer s ln r).cfg = s.cfg := by
  unfold State.answer
  (repeat' split) <;> simp

@[simp] theorem State.ok_cfg (s : State) (ln : Ln) (kv : KVs) : (State.ok s ln kv).cfg = s.cfg := by
  simp [State.ok]

@[simp] theorem State.err_cfg (s : State) (ln : Ln) (code : Nat) (kv : KVs) : (State.err s ln code kv).cfg = s.cfg := by
  simp [State.err]

@[simp] theorem State.parts_cfg (s : State) (ln : Ln) (ps : List KVs) (kv : KVs) : (State.parts s ln ps kv).cfg = s.cfg := by
  simp [State.parts]

@[simp] theorem State.refuse_cfg (s : State) (ln : Ln) (why : String) : (State.refuse s ln why).cfg = s.cfg := by
  simp [State.refuse]

@[simp] theorem State.sendBells_cfg (s : State) (i : Nat) : (State.sendBells s i).cfg = s.cfg := by
  simp [State.sendBells]

@[simp] theorem State.lineIn_cfg (s : State) (ln : Ln) : (State.lineIn s ln).cfg = s.cfg := by
  unfold State.lineIn; simp only [State.cfg, Cfg.mk.injEq] <;> simp [↓cfg_mk, cfg_eqs]

@[simp] theorem State.await_cfg (s : State) (ln : Ln) (w : WaitFor) : (State.await s ln w).cfg = s.cfg := by
  unfold State.await; simp only [State.cfg, Cfg.mk.injEq] <;> simp [↓cfg_mk, cfg_eqs]

/-- A console command leaves the core alone, its moment aside, when its body does. -/
theorem State.judged_cfg (s : State) (ln : Ln) (need : Level) (boot : Bool) (body : State → State)
    (h : ∀ u : State, (body u).cfg = u.cfg) : (s.judged ln need boot body).cfg = s.cfg := by
  unfold State.judged
  dsimp only
  (repeat' split) <;> first | rfl | (simp [h]; done) | (simp only [State.cfg, Cfg.mk.injEq] <;> simp [↓cfg_mk, cfg_eqs])

theorem State.sessionVerb_cfg (s : State) (ln : Ln) (body : State → State)
    (h : ∀ u : State, (body u).cfg = u.cfg) : (s.sessionVerb ln body).cfg = s.cfg := by
  unfold State.sessionVerb
  (repeat' split) <;> first | rfl | (simp [h]; done)

@[simp] theorem State.settle_cfg (s : State) (p : WaitFor → Bool) (r : RLine) : (State.settle s p r).cfg = s.cfg := by
  unfold State.settle; simp only [State.cfg, Cfg.mk.injEq] <;> simp [↓cfg_mk, cfg_eqs]

@[simp] theorem State.mirror_cfg (s : State) : (State.mirror s).cfg = s.cfg := by
  unfold State.mirror
  (repeat' split) <;> first | (simp; done) | (simp only [State.cfg, Cfg.mk.injEq] <;> simp [↓cfg_mk, cfg_eqs])

@[simp] theorem State.flashErr_cfg (s : State) (ln : Ln) (region : String) : (State.flashErr s ln region).cfg = s.cfg := by
  simp [State.flashErr]

@[simp] theorem State.inRange_cfg (s : State) (ln : Ln) (key : String) (x lo hi : Nat) (body : State → State)
    (h : (body s).cfg = s.cfg) : (s.inRange ln key x lo hi body).cfg = s.cfg := by
  unfold State.inRange
  split <;> simp [h]

@[simp] theorem State.onFold_cfg (s : State) (ln : Ln) (id : Nat) (body : Fold → State)
    (h : ∀ f, (body f).cfg = s.cfg) : (s.onFold ln id body).cfg = s.cfg := by
  unfold State.onFold
  split <;> simp [h]

@[simp] theorem State.writeMap_cfg (s : State) (full ok : Bool) : (s.writeMap full ok).cfg = s.cfg := by
  unfold State.writeMap
  dsimp only
  (repeat' split) <;> simp [State.cfg]

@[simp] theorem State.writeMapAlone_cfg (s : State) : s.writeMapAlone.cfg = s.cfg := by
  unfold State.writeMapAlone
  split
  · rfl
  · rename_i h
    exact (setWriting_cfg _ ((frozen_of_core (State.writeMap_core _ _ _)).trans (by simpa using h))).trans (State.writeMap_cfg _ _ _)

@[simp] theorem State.cutFlash_cfg (s : State) : s.cutFlash.cfg = s.cfg := by
  unfold State.cutFlash State.cfg
  dsimp only
  cases s.flashWork with
  | none => rfl
  | some w =>
    cases w with
    | map b => cases b <;> rfl
    | med k p => rfl

@[simp] theorem State.shcDoubt_cfg (s : State) (i cause : Nat) : (State.shcDoubt s i cause).cfg = s.cfg := by
  unfold State.shcDoubt; simp only [State.cfg, Cfg.mk.injEq] <;> simp [↓cfg_mk, cfg_eqs]

@[simp] theorem State.takeoverBell_cfg (s : State) (i : Nat) : (State.takeoverBell s i).cfg = s.cfg := by
  simp [State.takeoverBell]

@[simp] theorem State.syncCredits_cfg (s : State) (x lane : Nat) : (State.syncCredits s x lane).cfg = s.cfg := by
  unfold State.syncCredits
  (repeat' split) <;> simp

@[simp] theorem State.syncBorders_cfg (s : State) (n : Nat) : (State.syncBorders s n).cfg = s.cfg := by
  unfold State.syncBorders
  dsimp only
  (repeat' split) <;> first | rfl | (simp (disch := (intros; (repeat' split) <;> simp)); done) | (simp only [State.cfg, Cfg.mk.injEq] <;> simp (disch := (intros; (repeat' split) <;> simp)) [↓cfg_mk, cfg_eqs])

@[simp] theorem State.reroute_cfg (s : State) (x lane : Nat) : (State.reroute s x lane).cfg = s.cfg := by
  unfold State.reroute
  dsimp only
  (repeat' split) <;> first | rfl | (simp (disch := (intros; (repeat' split) <;> simp)); done) | (simp only [State.cfg, Cfg.mk.injEq] <;> simp (disch := (intros; (repeat' split) <;> simp)) [↓cfg_mk, cfg_eqs])

@[simp] theorem State.downSide_cfg (s : State) (x lane : Nat) (acc : BitVec 5) : (State.downSide s x lane acc).cfg = s.cfg := by
  simp [State.downSide]

@[simp] theorem State.sendSys_cfg (s : State) (u : Nat) (f : Flit) : (State.sendSys s u f).cfg = s.cfg := by
  simp [State.sendSys]

@[simp] theorem State.reportFrom_cfg (s : State) (u : Nat) (tr : Trigger) (folds : List Nat) (place : Nat) : (State.reportFrom s u tr folds place).cfg = s.cfg := by
  simp [State.reportFrom]

@[simp] theorem State.pickDetours_cfg (s : State) (was : List (Nat × Nat × List Nat)) : (State.pickDetours s was).cfg = s.cfg := by
  unfold State.pickDetours
  dsimp only
  (repeat' split) <;> first | rfl | (simp (disch := (intros; (repeat' split) <;> simp)); done) | (simp only [State.cfg, Cfg.mk.injEq] <;> simp (disch := (intros; (repeat' split) <;> simp)) [↓cfg_mk, cfg_eqs])

@[simp] theorem State.laneDown_cfg (s : State) (x lane cause : Nat) : (State.laneDown s x lane cause).cfg = s.cfg := by
  unfold State.laneDown
  (repeat' split) <;> first | (simp; done) | (simp only [State.cfg, Cfg.mk.injEq] <;> simp [↓cfg_mk, cfg_eqs])

@[simp] theorem State.sessMod_cfg (s : State) (r : Req) (f : Session → Session) : (State.sessMod s r f).cfg = s.cfg := by
  unfold State.sessMod
  (repeat' split) <;> simp

@[simp] theorem State.nedSend_cfg (s : State) (k e : Nat) (fs : List Flit) : (State.nedSend s k e fs).cfg = s.cfg := by
  unfold State.nedSend
  (repeat' split) <;> simp

@[simp] theorem State.sendBell_cfg (s : State) (k eport fold old incoming count : Nat) (im : Image) (d : Nat × Nat × Nat) : (State.sendBell s k eport fold old incoming count im d).cfg = s.cfg := by
  simp [State.sendBell]

@[simp] theorem State.closeBatch_cfg (s : State) (k : Nat) (b : Binding) (f : Fold) : (State.closeBatch s k b f).cfg = s.cfg := by
  unfold State.closeBatch
  (repeat' split) <;> simp

@[simp] theorem State.countReq_cfg (s : State) (k : Nat) (r : Req) (idx n : Nat) : (State.countReq s k r idx n).cfg = s.cfg := by
  simp [State.countReq]

theorem State.withTag_cfg {s s0 : State} {k : Nat} {r x : Req} (h : s.withTag k r = some (x, s0)) : s0.cfg = s.cfg := by
  simp only [State.withTag, Option.map_eq_some_iff, Prod.mk.injEq] at h
  obtain ⟨_, _, _, rfl⟩ := h
  simp

@[simp] theorem State.intoWafer_cfg (s : State) (k : Nat) (r : Req) (rerun : Bool) : (s.intoWafer k r rerun).cfg = s.cfg := by
  unfold State.intoWafer
  split
  · rename_i h _
    simp only [State.closeBatch_cfg, State.nedSend_cfg]
    split <;> simp [State.withTag_cfg h]
  · simp

@[simp] theorem State.countReply_cfg (s : State) (k : Nat) (r : Req) (back : Bool) : (State.countReply s k r back).cfg = s.cfg := by
  unfold State.countReply
  (repeat' split) <;> simp

@[simp] theorem State.endReq_cfg (s : State) (k : Nat) (r : Req) : (State.endReq s k r).cfg = s.cfg := by
  simp [State.endReq]

@[simp] theorem State.closeTag_cfg (s : State) (k : Nat) (r : Req) (stray : Bool) : (State.closeTag s k r stray).cfg = s.cfg := by
  simp [State.closeTag]

@[simp] theorem State.releaseFcs_cfg (s : State) (k : Nat) (r : Req) : (State.releaseFcs s k r).cfg = s.cfg := by
  unfold State.releaseFcs; simp only [State.cfg, Cfg.mk.injEq] <;> simp [↓cfg_mk, cfg_eqs]

@[simp] theorem State.startReply_cfg (s : State) (k : Nat) (r : Req) (rep : Reply) (at_ : Time) : (State.startReply s k r rep at_).cfg = s.cfg := by
  unfold State.startReply; simp only [State.cfg, Cfg.mk.injEq] <;> simp [↓cfg_mk, cfg_eqs]

@[simp] theorem State.compose_cfg (s : State) (k : Nat) (r : Req) (rep : Reply) : (State.compose s k r rep).cfg = s.cfg := by
  unfold State.compose
  dsimp only
  (repeat' split) <;> simp

@[simp] theorem State.stomp_cfg (s : State) (k : Nat) (r : Req) (whole : Bool) : (State.stomp s k r whole).cfg = s.cfg := by
  unfold State.stomp; simp only [State.cfg, Cfg.mk.injEq] <;> simp [↓cfg_mk, cfg_eqs]

@[simp] theorem State.unsend_cfg (s : State) (k : Nat) (r : Req) : (State.unsend s k r).cfg = s.cfg := by
  unfold State.unsend; simp only [State.cfg, Cfg.mk.injEq] <;> simp [↓cfg_mk, cfg_eqs]

@[simp] theorem State.stompSent_cfg (s : State) (k : Nat) (r : Req) : (State.stompSent s k r).cfg = s.cfg := by
  simp [State.stompSent]

@[simp] theorem State.refuseReq_cfg (s : State) (k : Nat) (r : Req) (reason : Nat) : (State.refuseReq s k r reason).cfg = s.cfg := by
  simp [State.refuseReq]

@[simp] theorem State.dropReq_cfg (s : State) (k : Nat) (r : Req) : (State.dropReq s k r).cfg = s.cfg := by
  simp [State.dropReq]

@[simp] theorem State.penIn_cfg (s : State) (k : Nat) (r : Req) : (s.penIn k r).cfg = s.cfg := by
  unfold State.penIn
  dsimp only
  split
  · simp
  · split
    · rename_i h
      simp [State.withTag_cfg h]
    · simp

@[simp] theorem State.paidIn_cfg (s : State) (k : Nat) (r : Req) (src : TokenSrc) : (State.paidIn s k r src).cfg = s.cfg := by
  simp [State.paidIn]

@[simp] theorem State.gateWalk_cfg (s : State) (k : Nat) (r : Req) : (State.gateWalk s k r).cfg = s.cfg := by
  unfold State.gateWalk
  (repeat' split) <;> simp

@[simp] theorem State.unclaim_cfg (s : State) (k : Nat) (y : Req) : (s.unclaim k y).cfg = s.cfg := by
  unfold State.unclaim
  dsimp only
  (repeat' split) <;> simp

@[simp] theorem State.gates_cfg (s : State) (k : Nat) (r : Req) : (s.gates k r).cfg = s.cfg := by
  unfold State.gates
  split <;> simp

@[simp] theorem State.sessionAdmit_cfg (s : State) (k : Nat) (r : Req) : (State.sessionAdmit s k r).cfg = s.cfg := by
  unfold State.sessionAdmit
  (repeat' split) <;> simp

@[simp] theorem State.letIn_cfg (s : State) (k : Nat) (r : Req) : (State.letIn s k r).cfg = s.cfg := by
  unfold State.letIn
  dsimp only
  (repeat' split) <;> simp

@[simp] theorem State.classifyReq_cfg (s : State) (k : Nat) (r : Req) : (State.classifyReq s k r).cfg = s.cfg := by
  unfold State.classifyReq
  dsimp only
  (repeat' split) <;> simp

@[simp] theorem State.afresh_cfg (s : State) (k : Nat) (r : Req) : (State.afresh s k r).cfg = s.cfg := by
  simp [State.afresh]

@[simp] theorem State.rerun_cfg (s : State) (k : Nat) (r : Req) : (State.rerun s k r).cfg = s.cfg := by
  simp [State.rerun]

@[simp] theorem State.holdRun_cfg (s : State) (k : Nat) (r : Req) : (State.holdRun s k r).cfg = s.cfg := by
  simp [State.holdRun]

@[simp] theorem State.resume_cfg (s : State) (k : Nat) (r : Req) : (State.resume s k r).cfg = s.cfg := by
  simp [State.resume]

@[simp] theorem State.proceed_cfg (s : State) (k : Nat) (r : Req) : (State.proceed s k r).cfg = s.cfg := by
  unfold State.proceed
  dsimp only
  (repeat' split) <;> simp

@[simp] theorem State.judgeBad_cfg (s : State) (k : Nat) (r : Req) (whole : Bool) : (State.judgeBad s k r whole).cfg = s.cfg := by
  simp [State.judgeBad]

@[simp] theorem State.groupVerdict_cfg (s : State) (k : Nat) (r : Req) (fixes : List (Nat × Byte)) (uncorrectable : Bool) : (State.groupVerdict s k r fixes uncorrectable).cfg = s.cfg := by
  unfold State.groupVerdict
  dsimp only
  (repeat' split) <;> simp

@[simp] theorem State.fcsVerdict_cfg (s : State) (k : Nat) (r : Req) (good : Bool) : (State.fcsVerdict s k r good).cfg = s.cfg := by
  simp [State.fcsVerdict]

@[simp] theorem State.frameTail_cfg (s : State) (k : Nat) (r : Req) : (State.frameTail s k r).cfg = s.cfg := by
  simp [State.frameTail]

@[simp] theorem State.breakStream_cfg (s : State) (k : Nat) (r : Req) : (State.breakStream s k r).cfg = s.cfg := by
  simp [State.breakStream]

@[simp] theorem State.verdictOn_cfg (s : State) (k : Nat) (r : Req) (v : Verdict) : (State.verdictOn s k r v).cfg = s.cfg := by
  unfold State.verdictOn
  (repeat' split) <;> simp

@[simp] theorem State.hear_cfg (s : State) (k fid : Nat) (v : Verdict) : (State.hear s k fid v).cfg = s.cfg := by
  unfold State.hear
  dsimp only
  (repeat' split) <;> simp

@[simp] theorem State.hearAll_cfg (s : State) (k fid : Nat) : (State.hearAll s k fid).cfg = s.cfg := by
  simp [State.hearAll]

@[simp] theorem State.loseSession_cfg (s : State) (num : Nat) : (State.loseSession s num).cfg = s.cfg := by
  simp [State.loseSession]

@[simp] theorem State.nedEnterDoubt_cfg (s : State) (k cause : Nat) : (State.nedEnterDoubt s k cause).cfg = s.cfg := by
  unfold State.nedEnterDoubt; simp only [State.cfg, Cfg.mk.injEq] <;> simp [↓cfg_mk, cfg_eqs]

@[simp] theorem State.raiseQ_cfg (s : State) (fold key : Nat) (ds : List (Nat × Nat)) : (State.raiseQ s fold key ds).cfg = s.cfg := by
  simp [State.raiseQ]

@[simp] theorem State.judgeRaised_cfg (s : State) (fold : Nat) (ds : List (Nat × Nat)) : (State.judgeRaised s fold ds).cfg = s.cfg := by
  simp [State.judgeRaised]

@[simp] theorem State.deltaQ_cfg (s : State) (x lane : Nat) : (State.deltaQ s x lane).cfg = s.cfg := by
  unfold State.deltaQ
  dsimp only
  (repeat' split) <;> first | rfl | (simp (disch := (intros; (repeat' split) <;> simp)); done) | (simp only [State.cfg, Cfg.mk.injEq] <;> simp (disch := (intros; (repeat' split) <;> simp)) [↓cfg_mk, cfg_eqs])

@[simp] theorem State.endRaise_cfg (s : State) (key : Nat) : (State.endRaise s key).cfg = s.cfg := by
  unfold State.endRaise; simp only [State.cfg, Cfg.mk.injEq] <;> simp [↓cfg_mk, cfg_eqs]

@[simp] theorem State.downLane_cfg (s : State) (x lane cause : Nat) : (State.downLane s x lane cause).cfg = s.cfg := by
  unfold State.downLane
  (repeat' split) <;> simp

@[simp] theorem State.takeFrom_cfg (s : State) (x lane : Nat) (src : Source) (q : Queued) : (State.takeFrom s x lane src q).cfg = s.cfg := by
  unfold State.takeFrom
  (repeat' split) <;> simp

theorem State.nextFlit_cfg {s t : State} {x lane : Nat} {ok : Queued → Bool} {q : Queued} (h : s.nextFlit x lane ok = some (q, t)) :
    t.cfg = s.cfg := by
  unfold State.nextFlit at h
  obtain ⟨vc, -, h⟩ := List.exists_of_findSome?_eq_some h
  split at h
  · split at h
    · simp only [Option.some.injEq, Prod.mk.injEq] at h
      rw [← h.2]
      split <;> simp
    · cases h
  · cases h

@[simp] theorem State.sweepRouter_cfg (s : State) (n : Nat) : (s.sweepRouter n).cfg = s.cfg := by
  unfold State.sweepRouter
  dsimp only
  rw [foldl_cfg, foldl_cfg]
  · intros; (repeat' split) <;> simp
  · intros; (repeat' split) <;> simp

@[simp] theorem State.freeSlot_cfg (s : State) (x lane : Nat) (vc : Bool) : (State.freeSlot s x lane vc).cfg = s.cfg := by
  simp [State.freeSlot]

@[simp] theorem State.arrivePad_cfg (s : State) (x lane : Nat) (vc : Bool) (f : Flit) (path : List Nat) : (State.arrivePad s x lane vc f path).cfg = s.cfg := by
  unfold State.arrivePad
  dsimp only
  (repeat' split) <;> simp

@[simp] theorem State.arriveDie_cfg (s : State) (x lane : Nat) (vc : Bool) (f : Flit) : (State.arriveDie s x lane vc f).cfg = s.cfg := by
  simp [State.arriveDie]

@[simp] theorem State.arrive_cfg (s : State) (x lane : Nat) (vc : Bool) (f : Flit) (path : List Nat) : (State.arrive s x lane vc f path).cfg = s.cfg := by
  simp [State.arrive]

@[simp] theorem State.strayAt_cfg (s : State) (f : Flit) : (State.strayAt s f).cfg = s.cfg := by
  simp [State.strayAt]

@[simp] theorem State.memStatus_cfg (s : State) (n : Nat) (f : Flit) : (State.memStatus s n f).cfg = s.cfg := by
  simp [State.memStatus]

theorem State.dockIn_cfg {s t : State} {n : Nat} {f : Flit} (h : s.dockIn n f = some t) : t.cfg = s.cfg := by
  have g : ∀ u ∈ s.dockIn n f, u.cfg = s.cfg := by
    unfold State.dockIn
    dsimp only
    repeat' apply opt_ite
    all_goals
      intro u hu
      first
        | (cases hu; done)
        | (injection hu with hu; subst hu; first | rfl | (simp; done))
  exact g t h

@[simp] theorem State.dockTake_cfg (s : State) (n : Nat) (h : DockHead) : (s.dockTake n h).cfg = s.cfg := by
  cases h <;> simp [State.dockTake]

@[simp] theorem State.dockFill_cfg (hs : List DockHead) (s : State) (n : Nat) (used : List Nat) :
    (s.dockFill n used hs).cfg = s.cfg := by
  induction hs generalizing s used with
  | nil => rfl
  | cons h hs ih =>
    unfold State.dockFill
    dsimp only
    split
    · exact ih _ _
    · split
      · exact ih _ _
      · rename_i e
        rw [ih, State.dockTake_cfg, State.dockIn_cfg e]

@[simp] theorem State.dockRefuse_cfg (s : State) (n : Nat) : (s.dockRefuse n).cfg = s.cfg := by
  unfold State.dockRefuse
  refine foldl_cfg _ (fun _ _ => ?_) _ _
  split <;> simp

@[simp] theorem State.medSend_cfg (s : State) (k : Nat) (out : List (MedPort × Flit)) : (State.medSend s k out).cfg = s.cfg := by
  simp [State.medSend]

@[simp] theorem State.medEnterDoubt_cfg (s : State) (k cause : Nat) : (State.medEnterDoubt s k cause).cfg = s.cfg := by
  simp [State.medEnterDoubt]

@[simp] theorem State.countRets_cfg (s : State) (k : Nat) (rs : List (MedPort × Flit)) : (State.countRets s k rs).cfg = s.cfg := by
  unfold State.countRets
  refine foldl_cfg _ (fun _ _ => ?_) _ _
  (repeat' split) <;> simp

theorem State.medTake_cfg {s t : State} {k : Nat} {p : MedPort} {f : Flit} (h : s.medTake k p f = some t) : t.cfg = s.cfg := by
  simp only [State.medTake, Option.map_eq_some_iff] at h
  obtain ⟨o, -, rfl⟩ := h
  split <;> simp

@[simp] theorem State.medServe_cfg (k : Nat) (p : MedPort) (n : Nat) (s : State) : (State.medServe k p n s).cfg = s.cfg := by
  induction n generalizing s with
  | zero => rfl
  | succ n ih =>
    unfold State.medServe
    split
    · rfl
    · split
      · rfl
      · rename_i h
        split
        · exact State.medTake_cfg h
        · exact (ih _).trans (State.medTake_cfg h)

@[simp] theorem State.sendSpan_cfg (s : State) (f : SFlit) : (State.sendSpan s f).cfg = s.cfg := by
  unfold State.sendSpan
  dsimp only
  (repeat' split) <;> simp

@[simp] theorem State.spanLinkDown_cfg (s : State) (i cause : Nat) : (State.spanLinkDown s i cause).cfg = s.cfg := by
  simp [State.spanLinkDown]

@[simp] theorem State.revokeSpan_cfg (s : State) (fold : Nat) (reconf : Bool) : (State.revokeSpan s fold reconf).cfg = s.cfg := by
  simp [State.revokeSpan]

@[simp] theorem State.unrevokeSpan_cfg (s : State) (fold : Nat) : (State.unrevokeSpan s fold).cfg = s.cfg := by
  unfold State.unrevokeSpan; simp only [State.cfg, Cfg.mk.injEq] <;> simp [↓cfg_mk, cfg_eqs]

@[simp] theorem State.takeSpan_cfg (s : State) (h : Nat × Nat × Nat × Bool × Flit) : (State.takeSpan s h).cfg = s.cfg := by
  simp [State.takeSpan]

@[simp] theorem State.pullSpan_cfg (i n : Nat) (s : State) : (State.pullSpan i n s).cfg = s.cfg := by
  induction n generalizing s with
  | zero => rfl
  | succ n ih =>
    unfold State.pullSpan
    dsimp only
    (repeat' split) <;> simp [ih]

@[simp] theorem State.releaseMsg_cfg (s : State) (i : Nat) (m : SMsg) : (State.releaseMsg s i m).cfg = s.cfg := by
  simp [State.releaseMsg]

@[simp] theorem State.spanArrive_cfg (s : State) (i : Nat) (f : SFlit) : (State.spanArrive s i f).cfg = s.cfg := by
  simp [State.spanArrive]

@[simp] theorem State.spanRefuse_cfg (s : State) (i cause : Nat) : (State.spanRefuse s i cause).cfg = s.cfg := by
  simp [State.spanRefuse]

@[simp] theorem State.trainSpan_cfg (s : State) (i : Nat) : (State.trainSpan s i).cfg = s.cfg := by
  simp [State.trainSpan]

@[simp] theorem State.excludeMember_cfg (s : State) (w : Nat) : (State.excludeMember s w).cfg = s.cfg := by
  unfold State.excludeMember; simp only [State.cfg, Cfg.mk.injEq] <;> simp [↓cfg_mk, cfg_eqs]

@[simp] theorem State.spdEnterDoubt_cfg (s : State) (i cause : Nat) : (State.spdEnterDoubt s i cause).cfg = s.cfg := by
  simp [State.spdEnterDoubt]

@[simp] theorem State.holdRecord_cfg (s : State) (r : List Byte) : (s.holdRecord r).cfg = s.cfg := by
  have h : ∀ l, ({ s with ledgerHeld := l } : State).cfg = s.cfg := fun _ => rfl
  exact h _

@[simp] theorem State.ringPut_cfg (r : List Byte) (n : Nat) (rb : List Bool) (s : State) : (State.ringPut r n rb s).cfg = s.cfg := by
  induction n generalizing s rb with
  | zero =>
    unfold State.ringPut
    rw [State.ring_cfg, State.holdRecord_cfg]
    rfl
  | succ n ih =>
    unfold State.ringPut
    dsimp only
    split
    · rfl
    · rw [ih, State.ring_cfg]
      rfl

@[simp] theorem State.writeRecord_cfg (s : State) (body : Nat → List Byte) (rb : List Bool) : (s.writeRecord body rb).cfg = s.cfg := by
  unfold State.writeRecord
  split
  · rfl
  · rename_i h
    dsimp only
    split
    · rw [State.holdRecord_cfg]
      rfl
    · rw [State.ringPut_cfg]
      rfl

@[simp] theorem State.leaseSecondOf_cfg (s : State) (f : Fold) : (State.leaseSecondOf s f).cfg = s.cfg := by
  simp [State.leaseSecondOf]

@[simp] theorem State.lateIntervals_cfg (s : State) : (State.lateIntervals s).cfg = s.cfg := by
  unfold State.lateIntervals; simp only [State.cfg, Cfg.mk.injEq] <;> simp [↓cfg_mk, cfg_eqs]

@[simp] theorem State.closeInterval_cfg (s : State) (id : Nat) (final : Bool) (rb : List Bool) : (State.closeInterval s id final rb).cfg = s.cfg := by
  unfold State.closeInterval
  (repeat' split) <;> simp

@[simp] theorem State.writeGaps_cfg (s : State) : (State.writeGaps s).cfg = s.cfg := by
  simp [State.writeGaps]

@[simp] theorem State.slip_cfg (s : State) (n k fold : Nat) (fine : Bool) (c : SlipCause) : (State.slip s n k fold fine c).cfg = s.cfg := by
  simp [State.slip]

@[simp] theorem State.padDoubt_cfg (s : State) (n fold : Nat) (tr : Trigger) : (State.padDoubt s n fold tr).cfg = s.cfg := by
  simp [State.padDoubt]

@[simp] theorem State.transitionEnds_cfg (s : State) (id : Nat) : (State.transitionEnds s id).cfg = s.cfg := by
  unfold State.transitionEnds
  (repeat' split) <;> simp

@[simp] theorem State.leavePlan_cfg (s : State) (n k : Nat) : (State.leavePlan s n k).cfg = s.cfg := by
  simp [State.leavePlan]

@[simp] theorem State.dieCutOff_cfg (s : State) (d : Nat) : (State.dieCutOff s d).cfg = s.cfg := by
  simp [State.dieCutOff]

@[simp] theorem State.makeHole_cfg (s : State) (n cause : Nat) (quiet : Bool) : (State.makeHole s n cause quiet).cfg = s.cfg := by
  simp [State.makeHole]

@[simp] theorem State.failTest_cfg (s : State) (n : Nat) : (State.failTest s n).cfg = s.cfg := by
  unfold State.failTest; simp only [State.cfg, Cfg.mk.injEq] <;> simp [↓cfg_mk, cfg_eqs]

theorem State.enterReset_cfg (s : State) : s.enterReset.cfg = s.cfg := State.cutFlash_cfg s

theorem State.leaveReset_cfg (s : State) (j : Bool) : (s.leaveReset j).cfg = s.cfg := by
  have h : (s.modFlash fun f => { f with reached := false, faults := f.faults.map fun b => { b with prior := true } }).cfg = s.cfg :=
    State.modFlash_cfg _ _ rfl
  exact h

@[simp] theorem State.powerEnds_cfg (s : State) : (State.powerEnds s).cfg = s.cfg := by
  simp [State.powerEnds]

@[simp] theorem State.fieldShutdown_cfg (s : State) (f : Nat) (vaon : Bool) : (State.fieldShutdown s f vaon).cfg = s.cfg := by
  simp [State.fieldShutdown]

@[simp] theorem State.latchField_cfg (s : State) (f : Nat) : (State.latchField s f).cfg = s.cfg := by
  simp [State.latchField]

@[simp] theorem State.startLinks_cfg (s : State) (n : Nat) : (State.startLinks s n).cfg = s.cfg := by
  unfold State.startLinks
  dsimp only
  (repeat' split) <;> first | rfl | (simp (disch := (intros; (repeat' split) <;> simp)); done) | (simp only [State.cfg, Cfg.mk.injEq] <;> simp (disch := (intros; (repeat' split) <;> simp)) [↓cfg_mk, cfg_eqs])

@[simp] theorem State.creationEnds_cfg (s : State) (id : Nat) : (State.creationEnds s id).cfg = s.cfg := by
  unfold State.creationEnds
  (repeat' split) <;> simp

@[simp] theorem State.settlePad_cfg (s : State) (n : Nat) : (State.settlePad s n).cfg = s.cfg := by
  unfold State.settlePad
  (repeat' split) <;> simp

@[simp] theorem State.stageOnSequence_cfg (s : State) (f : Nat) : (State.stageOnSequence s f).cfg = s.cfg := by
  simp [State.stageOnSequence]

@[simp] theorem State.pmbusRead_cfg (s : State) (r : PmbRead) : (State.pmbusRead s r).cfg = s.cfg := by
  unfold State.pmbusRead; simp only [State.cfg, Cfg.mk.injEq] <;> simp [↓cfg_mk, cfg_eqs]

@[simp] theorem State.guard_cfg (s : State) (ln : Ln) (cs : List (Bool × Nat × KVs)) (body : State) (h : body.cfg = s.cfg) :
    (s.guard ln cs body).cfg = s.cfg := by
  unfold State.guard
  split <;> simp [h]

@[simp] theorem State.powerRun_cfg (s : State) (n : Nat) : (State.powerRun s n).cfg = s.cfg := by
  unfold State.powerRun; simp only [State.cfg, Cfg.mk.injEq] <;> simp [↓cfg_mk, cfg_eqs]

@[simp] theorem State.dropBuffers_cfg (s : State) (n : Nat) (fold : Option Nat) : (State.dropBuffers s n fold).cfg = s.cfg := by
  simp [State.dropBuffers]

@[simp] theorem State.revokeFold_cfg (s : State) (n fold : Nat) : (State.revokeFold s n fold).cfg = s.cfg := by
  simp [State.revokeFold]

@[simp] theorem State.hurdleFor_cfg (s : State) (n fold : Nat) : (State.hurdleFor s n fold).cfg = s.cfg := by
  simp [State.hurdleFor]

@[simp] theorem State.startRouter_cfg (s : State) (n : Nat) : (State.startRouter s n).cfg = s.cfg := by
  simp [State.startRouter]

@[simp] theorem State.shearPad_cfg (s : State) (n : Nat) : (State.shearPad s n).cfg = s.cfg := by
  simp [State.shearPad]

@[simp] theorem State.shearSlot_cfg (s : State) (n k fold : Nat) : (State.shearSlot s n k fold).cfg = s.cfg := by
  simp [State.shearSlot]

@[simp] theorem State.advertise_cfg (s : State) (n fold : Nat) : (State.advertise s n fold).cfg = s.cfg := by
  unfold State.advertise
  (repeat' split) <;> first | rfl | (simp; done) | (simp only [State.cfg, Cfg.mk.injEq] <;> simp [↓cfg_mk, cfg_eqs]; done) | (rw [foldl_cfg] <;> (intros; (repeat' split) <;> simp))

@[simp] theorem State.leasePads_cfg (s : State) (id : Nat) (excl : List Nat) (slots : List (Nat × Nat)) : (State.leasePads s id excl slots).cfg = s.cfg := by
  simp [State.leasePads]

@[simp] theorem State.settleUnleased_cfg (s : State) (n : Nat) : (State.settleUnleased s n).cfg = s.cfg := by
  unfold State.settleUnleased
  dsimp only
  (repeat' split) <;> first | rfl | (simp; done) | (simp only [State.cfg, Cfg.mk.injEq] <;> simp [↓cfg_mk, cfg_eqs])

@[simp] theorem State.unleasePad_cfg (s : State) (n fold : Nat) : (State.unleasePad s n fold).cfg = s.cfg := by
  simp [State.unleasePad]

@[simp] theorem State.unleaseSlot_cfg (s : State) (n k fold : Nat) : (State.unleaseSlot s n k fold).cfg = s.cfg := by
  simp [State.unleaseSlot]

theorem State.leaseOne_cfg {s t : State} {k fold g : Nat} {space : Bool} {index : Option Nat} (h : s.leaseOne k fold space index = some (g, t)) :
    t.cfg = s.cfg := by
  unfold State.leaseOne at h
  rw [Option.map_eq_some_iff] at h
  obtain ⟨a, -, h⟩ := h
  simp only [Prod.mk.injEq] at h
  rw [← h.2, State.modMed_cfg]

theorem State.leaseAll_cfg {s t : State} {fold : Nat} {l : List (Nat × Bool × Option Nat)} {got : List (Nat × Nat)}
    (h : s.leaseAll fold l = some (got, t)) : t.cfg = s.cfg := by
  induction l generalizing s got with
  | nil =>
    simp only [State.leaseAll, Option.some.injEq, Prod.mk.injEq] at h
    rw [← h.2]
  | cons a rest ih =>
    obtain ⟨k, sp, ix⟩ := a
    rw [State.leaseAll] at h
    match e : s.leaseOne k fold sp ix with
    | none => rw [e] at h; cases h
    | some (g, s1) =>
      rw [e] at h
      obtain ⟨r, hr, h⟩ := Option.map_eq_some_iff.mp h
      have h2 : r.2 = t := congrArg Prod.snd h
      have h3 : s1.leaseAll fold rest = some (r.1, t) := by rw [← h2]; exact hr
      rw [ih h3, State.leaseOne_cfg e]

@[simp] theorem State.loadKeys_cfg (s : State) (f : Fold) (ks : List Nat) : (State.loadKeys s f ks).cfg = s.cfg := by
  simp [State.loadKeys]

@[simp] theorem State.revokePages_cfg (s : State) (ps : List (Nat × Nat)) : (State.revokePages s ps).cfg = s.cfg := by
  simp [State.revokePages]

@[simp] theorem State.refuseAll_cfg (s : State) (p : Nat → Req → Bool) (reason : Nat) : (State.refuseAll s p reason).cfg = s.cfg := by
  simp [State.refuseAll]

@[simp] theorem State.penOut_cfg (s : State) (fold reason : Nat) : (State.penOut s fold reason).cfg = s.cfg := by
  simp [State.penOut]

@[simp] theorem State.waferOut_cfg (s : State) (fold reason : Nat) : (State.waferOut s fold reason).cfg = s.cfg := by
  simp [State.waferOut]

@[simp] theorem State.closeChannel_cfg (s : State) (c : Channel) : (State.closeChannel s c).cfg = s.cfg := by
  unfold State.closeChannel; simp only [State.cfg, Cfg.mk.injEq] <;> simp [↓cfg_mk, cfg_eqs]

@[simp] theorem State.emptyClosed_cfg (s : State) (index : Nat) : (State.emptyClosed s index).cfg = s.cfg := by
  unfold State.emptyClosed; simp only [State.cfg, Cfg.mk.injEq] <;> simp [↓cfg_mk, cfg_eqs]

theorem State.bindOne_cfg {s : State} {f : Fold} {e : Entry} {h ticket : Word} {deadline : Nat} {spec : Bool} {a : BindArg}
    {r : Nat × State} (g : s.bindOne f e h ticket deadline spec a = .inr r) : r.2.cfg = s.cfg := by
  have k : ∀ r, s.bindOne f e h ticket deadline spec a = .inr r → r.2.cfg = s.cfg := by
    unfold State.bindOne
    dsimp only
    repeat' apply sum_ite
    all_goals intro r hr
    all_goals first
      | (cases hr; done)
      | skip
    split at hr
    · cases hr
    · revert hr
      revert r
      repeat' apply sum_ite
      all_goals intro r hr
      all_goals first
        | (cases hr; done)
        | skip
      split at hr
      · cases hr
      · revert hr
        revert r
        apply sum_ite
        · intro r hr
          cases hr
          simp
        · intro r hr
          cases hr
  exact k r g

theorem State.bindAll_cfg {s : State} {f : Fold} {e : Entry} {h ticket : Word} {deadline : Nat} {spec : Bool} {l : List BindArg}
    {r : List (Nat × Nat) × State} (g : s.bindAll f e h ticket deadline spec l = .inr r) : r.2.cfg = s.cfg := by
  induction l generalizing s r with
  | nil => cases g; rfl
  | cons a as ih =>
    simp only [State.bindAll] at g
    split at g
    · cases g
    · rename_i i s1 e1
      split at g
      · cases g
      · rename_i r1 e2
        cases g
        exact (ih e2).trans (State.bindOne_cfg e1)

@[simp] theorem State.freeSession_cfg (s : State) (num : Nat) : (State.freeSession s num).cfg = s.cfg := by
  simp [State.freeSession]

@[simp] theorem State.syncPause_cfg (s : State) : (State.syncPause s).cfg = s.cfg := by
  unfold State.syncPause
  (repeat' split) <;> first | (simp; done) | (simp only [State.cfg, Cfg.mk.injEq] <;> simp [↓cfg_mk, cfg_eqs])

@[simp] theorem State.finishRelease_cfg (s : State) (f : Fold) : (State.finishRelease s f).cfg = s.cfg := by
  unfold State.finishRelease; simp only [State.cfg, Cfg.mk.injEq] <;> simp [↓cfg_mk, cfg_eqs]

@[simp] theorem State.releaseStep_cfg (s : State) (id : Nat) : (State.releaseStep s id).cfg = s.cfg := by
  unfold State.releaseStep
  (repeat' split) <;> simp

@[simp] theorem State.installLinks_cfg (s : State) (im : Image) (n m fold : Nat) : (State.installLinks s im n m fold).cfg = s.cfg := by
  unfold State.installLinks
  (repeat' split) <;> simp

@[simp] theorem State.installPad_cfg (s : State) (im : Image) (n m fold : Nat) (st : CtxState) (epoch : Nat) : (State.installPad s im n m fold st epoch).cfg = s.cfg := by
  simp [State.installPad]

@[simp] theorem State.liftPad_cfg (s : State) (n fold : Nat) : (State.liftPad s n fold).cfg = s.cfg := by
  simp [State.liftPad]

@[simp] theorem State.setYokes_cfg (s : State) (f : Fold) (im : Image) : (State.setYokes s f im).cfg = s.cfg := by
  simp [State.setYokes]

@[simp] theorem State.newLeader_cfg (s : State) (old : Nat) : (State.newLeader s old).cfg = s.cfg := by
  simp [State.newLeader]

@[simp] theorem State.enterFold_cfg (s : State) (a : FoldArgs) (f : Fold) : (s.enterFold a f).cfg = s.cfg := by
  unfold State.enterFold
  dsimp only
  rw [State.leasePads_cfg, State.loadKeys_cfg, State.clearTallies_cfg]
  simp [State.cfg]

@[simp] theorem State.takeOut_cfg (s : State) (id : Nat) (ps : List Nat) (qs : List (Nat × Nat)) (is : List Nat) : (State.takeOut s id ps qs is).cfg = s.cfg := by
  unfold State.takeOut
  (repeat' split) <;> simp

@[simp] theorem State.resizeTo_cfg (s : State) (f g : Fold) (a : ResizeArgs) : (State.resizeTo s f g a).cfg = s.cfg := by
  simp [State.resizeTo]

@[simp] theorem State.abandonBell_cfg (s : State) (id : Nat) (cause : String) : (State.abandonBell s id cause).cfg = s.cfg := by
  simp [State.abandonBell]

@[simp] theorem State.onChannel_cfg (s : State) (ln : Ln) (h : Word) (body : Channel → State)
    (k : ∀ c, (body c).cfg = s.cfg) : (s.onChannel ln h body).cfg = s.cfg := by
  unfold State.onChannel
  split
  · simp
  · split <;> simp [k]

@[simp] theorem State.leaseWindow_cfg (s : State) (fold num : Nat) (win : List (Nat × Nat)) : (State.leaseWindow s fold num win).cfg = s.cfg := by
  simp [State.leaseWindow]

@[simp] theorem State.clearFold_cfg (s : State) (f : Fold) : (State.clearFold s f).cfg = s.cfg := by
  simp [State.clearFold]

@[simp] theorem State.returnAdded_cfg (s : State) (id : Nat) : (State.returnAdded s id).cfg = s.cfg := by
  unfold State.returnAdded
  (repeat' split) <;> simp

@[simp] theorem State.freeStaged_cfg (s : State) (cs : List (Nat × Nat)) : (State.freeStaged s cs).cfg = s.cfg := by
  simp [State.freeStaged]

@[simp] theorem State.loadFail_cfg (s : State) (id code : Nat) (cause : Option String) : (State.loadFail s id code cause).cfg = s.cfg := by
  unfold State.loadFail
  (repeat' split) <;> first | (simp; done) | (simp only [State.cfg, Cfg.mk.injEq] <;> simp [↓cfg_mk, cfg_eqs])

@[simp] theorem State.beginLoad_cfg (s : State) (id : Nat) : (State.beginLoad s id).cfg = s.cfg := by
  unfold State.beginLoad
  dsimp only
  (repeat' split) <;> simp

@[simp] theorem State.loadDrained_cfg (s : State) (id : Nat) : (State.loadDrained s id).cfg = s.cfg := by
  unfold State.loadDrained
  (repeat' split) <;> simp

@[simp] theorem State.rebindChannel_cfg (s : State) (id : Nat) (c : Channel) (old new : Entry) : (State.rebindChannel s id c old new).cfg = s.cfg := by
  unfold State.rebindChannel; simp only [State.cfg, Cfg.mk.injEq] <;> simp [↓cfg_mk, cfg_eqs]

@[simp] theorem State.rebindAll_cfg (s : State) (id : Nat) (old : Option Image) (im : Image) : (State.rebindAll s id old im).cfg = s.cfg := by
  unfold State.rebindAll
  refine foldl_cfg _ (fun _ _ => ?_) _ _
  (repeat' split) <;> simp

@[simp] theorem State.commitImage_cfg (s : State) (id : Nat) (im : Image) (container : List Byte) : (State.commitImage s id im container).cfg = s.cfg := by
  unfold State.commitImage
  (repeat' split) <;> first | (simp; done) | (simp only [State.cfg, Cfg.mk.injEq] <;> simp [↓cfg_mk, cfg_eqs])

@[simp] theorem State.dropUnnamed_cfg (s : State) (id : Nat) (im : Image) : (State.dropUnnamed s id im).cfg = s.cfg := by
  unfold State.dropUnnamed
  (repeat' split) <;> simp

@[simp] theorem State.bringIn_cfg (s : State) (im : Image) (n fold epoch : Nat) : (State.bringIn s im n fold epoch).cfg = s.cfg := by
  simp [State.bringIn]

@[simp] theorem State.commitLoad_cfg (s : State) (id : Nat) : (State.commitLoad s id).cfg = s.cfg := by
  unfold State.commitLoad
  (repeat' split) <;> simp

@[simp] theorem State.toStandby_cfg (s : State) (id : Nat) : (State.toStandby s id).cfg = s.cfg := by
  unfold State.toStandby
  (repeat' split) <;> simp

@[simp] theorem State.transit_cfg (s : State) (id : Nat) : (State.transit s id).cfg = s.cfg := by
  unfold State.transit
  (repeat' split) <;> simp

@[simp] theorem State.sendBells__cfg (s : State) (f : Fold) (im : Image) : (State.sendBells_ s f im).cfg = s.cfg := by
  simp [State.sendBells_]

@[simp] theorem State.markOutgoing_cfg (s : State) (im : Image) : (State.markOutgoing s im).cfg = s.cfg := by
  simp [State.markOutgoing]

@[simp] theorem State.switchFold_cfg (s : State) (id : Nat) : (State.switchFold s id).cfg = s.cfg := by
  unfold State.switchFold
  (repeat' split) <;> simp

@[simp] theorem State.dropItems_cfg (s : State) (n k fold : Nat) : (State.dropItems s n k fold).cfg = s.cfg := by
  simp [State.dropItems]

@[simp] theorem State.closeEpoch_cfg (s : State) (k id epoch : Nat) : (State.closeEpoch s k id epoch).cfg = s.cfg := by
  simp [State.closeEpoch]

@[simp] theorem State.forceRetire_cfg (s : State) (id : Nat) : (State.forceRetire s id).cfg = s.cfg := by
  unfold State.forceRetire
  (repeat' split) <;> simp

@[simp] theorem State.loseClock_cfg (s : State) (n : Nat) (tr : Trigger) : (State.loseClock s n tr).cfg = s.cfg := by
  simp [State.loseClock]

@[simp] theorem State.throttleStep_cfg (s : State) (n x : Nat) : (State.throttleStep s n x).cfg = s.cfg := by
  simp [State.throttleStep]

@[simp] theorem State.throttleDown_cfg (s : State) (f : Nat) : (s.throttleDown f).1.cfg = s.cfg := by
  unfold State.throttleDown
  refine foldl_inv (P := fun (x : State × Bool × Bool) => x.1.cfg = s.cfg) _ rfl ?_
  intro a n h
  dsimp only
  (repeat' split) <;> simp [h]

@[simp] theorem State.throttleUp_cfg (s : State) (f : Nat) : (s.throttleUp f).1.cfg = s.cfg := by
  unfold State.throttleUp
  refine foldl_inv (P := fun (x : State × Bool) => x.1.cfg = s.cfg) _ rfl ?_
  intro a n h
  dsimp only
  (repeat' split) <;> simp [h]

@[simp] theorem State.takeOver_cfg (s : State) (f : Nat) : (State.takeOver s f).cfg = s.cfg := by
  simp [State.takeOver]

@[simp] theorem State.throttleOn_cfg (s : State) (f : Nat) (temp : Int) : (State.throttleOn s f temp).cfg = s.cfg := by
  simp [State.throttleOn]

@[simp] theorem State.widen_cfg (s : State) (f : Nat) (temp : Int) : (State.widen s f temp).cfg = s.cfg := by
  simp [State.widen]

@[simp] theorem State.endWiden_cfg (s : State) (f : Nat) : (State.endWiden s f).cfg = s.cfg := by
  simp [State.endWiden]

@[simp] theorem State.moveLease_cfg (s : State) (id n t : Nat) (tr : Trigger) : (State.moveLease s id n t tr).cfg = s.cfg := by
  simp [State.moveLease]

@[simp] theorem State.dropSource_cfg (s : State) (n : Nat) : (State.dropSource s n).cfg = s.cfg := by
  simp [State.dropSource]

@[simp] theorem State.markFailed_cfg (s : State) (ns : List Nat) (tr : Trigger) : (State.markFailed s ns tr).cfg = s.cfg := by
  simp [State.markFailed]

@[simp] theorem State.raiseYoke_cfg (s : State) (f : Fold) (n : Nat) : (State.raiseYoke s f n).cfg = s.cfg := by
  unfold State.raiseYoke
  (repeat' split) <;> simp

@[simp] theorem State.notify_cfg (s : State) (id : Nat) (next : FoldState) : (State.notify s id next).cfg = s.cfg := by
  unfold State.notify; simp only [State.cfg, Cfg.mk.injEq] <;> simp [↓cfg_mk, cfg_eqs]

@[simp] theorem State.foldBell_cfg (s : State) (id : Nat) (st : String) (tr : Trigger) (place : Nat) (kv : KVs) : (State.foldBell s id st tr place kv).cfg = s.cfg := by
  unfold State.foldBell; simp only [State.cfg, Cfg.mk.injEq] <;> simp [↓cfg_mk, cfg_eqs]

@[simp] theorem State.stopFold_cfg (s : State) (id : Nat) (tr : Trigger) (place : Nat) (kv : KVs) : (State.stopFold s id tr place kv).cfg = s.cfg := by
  simp [State.stopFold]

@[simp] theorem State.enterMigrating_cfg (s : State) (f : Fold) (r : Recovery) : (State.enterMigrating s f r).cfg = s.cfg := by
  simp [State.enterMigrating]

@[simp] theorem State.startRestart_cfg (s : State) (id : Nat) (tr : Trigger) (place : Nat) : (State.startRestart s id tr place).cfg = s.cfg := by
  unfold State.startRestart
  (repeat' split) <;> simp

@[simp] theorem State.startMigration_cfg (s : State) (id : Nat) (failed : List Nat) (tr : Trigger) (place : Nat) : (State.startMigration s id failed tr place).cfg = s.cfg := by
  unfold State.startMigration
  (repeat' split) <;> simp

@[simp] theorem State.toCheckpoint_cfg (s : State) (id : Nat) : (State.toCheckpoint s id).cfg = s.cfg := by
  unfold State.toCheckpoint
  (repeat' split) <;> simp

@[simp] theorem State.endLoadInDoubt_cfg (s : State) (f : Fold) (padFails : Bool) (tr : Trigger) : (State.endLoadInDoubt s f padFails tr).cfg = s.cfg := by
  unfold State.endLoadInDoubt
  (repeat' split) <;> simp

@[simp] theorem State.doubtFold_cfg (s : State) (tr : Trigger) (place : Nat) (gone : Bool) (id : Nat) : (State.doubtFold s tr place gone id).cfg = s.cfg := by
  unfold State.doubtFold
  dsimp only
  (repeat' split) <;> simp

@[simp] theorem State.reported_cfg (s : State) (tr : Trigger) (place : Nat) (folds : List Nat) : (State.reported s tr place folds).cfg = s.cfg := by
  simp [State.reported]

@[simp] theorem State.clockVerdict_cfg (s : State) (n : Nat) (lasting : Bool) (id : Nat) : (State.clockVerdict s n lasting id).cfg = s.cfg := by
  unfold State.clockVerdict
  (repeat' split) <;> simp

@[simp] theorem State.resolveClock_cfg (s : State) (n : Nat) (good : Bool) : (State.resolveClock s n good).cfg = s.cfg := by
  simp [State.resolveClock]

@[simp] theorem State.applyPatches_cfg (s : State) (f : Fold) (im : Image) : (State.applyPatches s f im).cfg = s.cfg := by
  unfold State.applyPatches
  dsimp only
  (repeat' split) <;> first | rfl | (simp (disch := (intros; (repeat' split) <;> simp)); done) | (simp only [State.cfg, Cfg.mk.injEq] <;> simp (disch := (intros; (repeat' split) <;> simp)) [↓cfg_mk, cfg_eqs])

@[simp] theorem State.restoreFold_cfg (s : State) (f : Fold) (im : Image) : (State.restoreFold s f im).cfg = s.cfg := by
  unfold State.restoreFold
  (repeat' split) <;> simp

@[simp] theorem State.raiseMoves_cfg (s : State) (f : Fold) (im : Image) (moves : List (Nat × Nat)) : (State.raiseMoves s f im moves).cfg = s.cfg := by
  unfold State.raiseMoves
  dsimp only
  (repeat' split) <;> first | rfl | (simp (disch := (intros; (repeat' split) <;> simp)); done) | (simp only [State.cfg, Cfg.mk.injEq] <;> simp (disch := (intros; (repeat' split) <;> simp)) [↓cfg_mk, cfg_eqs])

@[simp] theorem State.rebindMoved_cfg (s : State) (f : Fold) (im : Image) : (State.rebindMoved s f im).cfg = s.cfg := by
  unfold State.rebindMoved
  refine foldl_cfg _ (fun _ _ => ?_) _ _
  (repeat' split) <;> simp

@[simp] theorem State.finishRecovery_cfg (s : State) (id : Nat) : (State.finishRecovery s id).cfg = s.cfg := by
  unfold State.finishRecovery
  (repeat' split) <;> first | (simp; done) | (simp only [State.cfg, Cfg.mk.injEq] <;> simp [↓cfg_mk, cfg_eqs])

@[simp] theorem State.commitRecovery_cfg (s : State) (id : Nat) : (State.commitRecovery s id).cfg = s.cfg := by
  unfold State.commitRecovery
  (repeat' split) <;> simp

@[simp] theorem State.recoverAgain_cfg (s : State) : (State.recoverAgain s).cfg = s.cfg := by
  unfold State.recoverAgain
  refine foldl_cfg _ (fun _ _ => ?_) _ _
  (repeat' split) <;> simp

@[simp] theorem State.dieBack_cfg (s : State) (d : DieName) : (s.dieBack d).cfg = s.cfg := by
  cases d <;> simp [State.dieBack]

@[simp] theorem State.startConsoles_cfg (s : State) : (State.startConsoles s).cfg = s.cfg := by
  unfold State.startConsoles; simp only [State.cfg, Cfg.mk.injEq] <;> simp [↓cfg_mk, cfg_eqs]

@[simp] theorem State.becomeActive_cfg (s : State) (i : Nat) : (State.becomeActive s i).cfg = s.cfg := by
  unfold State.becomeActive; simp only [State.cfg, Cfg.mk.injEq] <;> simp [↓cfg_mk, cfg_eqs]

@[simp] theorem State.loadMap_cfg (s : State) : (State.loadMap s).cfg = s.cfg := by
  unfold State.loadMap
  (repeat' split) <;> first | (simp; done) | (simp only [State.cfg, Cfg.mk.injEq] <;> simp [↓cfg_mk, cfg_eqs])

@[simp] theorem State.edgeDieDoubt_cfg (s : State) (d cause : Nat) : (State.edgeDieDoubt s d cause).cfg = s.cfg := by
  simp [State.edgeDieDoubt]

@[simp] theorem State.dieVerdict_cfg (s : State) (d v : Nat) : (State.dieVerdict s d v).cfg = s.cfg := by
  unfold State.dieVerdict; simp only [State.cfg, Cfg.mk.injEq] <;> simp [↓cfg_mk, cfg_eqs]

@[simp] theorem State.endB2_cfg (s : State) : (State.endB2 s).cfg = s.cfg := by
  unfold State.endB2; simp only [State.cfg, Cfg.mk.injEq] <;> simp [↓cfg_mk, cfg_eqs]

@[simp] theorem State.enqueueTests_cfg (s : State) (ns : List Nat) : (State.enqueueTests s ns).cfg = s.cfg := by
  simp [State.enqueueTests]

@[simp] theorem State.carryHoles_cfg (s : State) : (State.carryHoles s).cfg = s.cfg := by
  simp [State.carryHoles]

@[simp] theorem State.startB4_cfg (s : State) : (State.startB4 s).cfg = s.cfg := by
  unfold State.startB4; simp only [State.cfg, Cfg.mk.injEq] <;> simp [↓cfg_mk, cfg_eqs]

@[simp] theorem State.defaultReserve_cfg (s : State) (f : Nat) : (State.defaultReserve s f).cfg = s.cfg := by
  unfold State.defaultReserve
  (repeat' split) <;> simp

@[simp] theorem State.bootReserves_cfg (s : State) : (State.bootReserves s).cfg = s.cfg := by
  unfold State.bootReserves
  (repeat' split) <;> simp

@[simp] theorem State.storedPorts_cfg (s : State) : (State.storedPorts s).cfg = s.cfg := by
  unfold State.storedPorts; simp only [State.cfg, Cfg.mk.injEq] <;> simp [↓cfg_mk, cfg_eqs]

@[simp] theorem State.stageHoles_cfg (s : State) : s.stageHoles.cfg = s.cfg := by
  unfold State.stageHoles
  refine foldl_cfg _ (fun v f => ?_) _ _
  split
  · rfl
  · exact foldl_cfg _ (fun w n => by split <;> simp) _ _

@[simp] theorem State.bootEntries_cfg (s : State) : (State.bootEntries s).cfg = s.cfg := by
  simp [State.bootEntries]

theorem boot_cfg (a : State) (b : Boot) (r : Bool) (t : Time) (v f : Bool) :
    ({ a with boot := b, ready := r, readyAt := t, vstby := v, faultN := f } : State).cfg = a.cfg := rfl

@[simp] theorem State.becomeReady_cfg (s : State) (must : Bool) : (s.becomeReady must).cfg = s.cfg := by
  unfold State.becomeReady
  dsimp only
  generalize hx : (if must = true then s.writeMap s.boot.full true else s) = x
  have h3 : x.cfg = s.cfg := by
    rw [← hx]
    split <;> simp
  rw [← h3]
  generalize hy : x.storedPorts.modFlash _ = y
  have h4 : y.cfg = x.cfg := by
    rw [← hy]
    rw [State.modFlash_cfg _ _ rfl]
    simp
  rw [← h4]
  have h5 : ({ y with meds := y.meds.map fun m => if m.doubt = true then m else m.scrubAll } : State).cfg = y.cfg :=
    meds_cfg y _ (List.length_map _)
  rw [← h5]
  generalize ({ y with meds := y.meds.map fun m => if m.doubt = true then m else m.scrubAll } : State) = z
  exact (boot_cfg _ _ _ _ _ _).trans ((State.writeGaps_cfg _).trans (State.mirror_cfg _))

@[simp] theorem State.dropMaster_cfg (s : State) : (State.dropMaster s).cfg = s.cfg := by
  unfold State.dropMaster; simp only [State.cfg, Cfg.mk.injEq] <;> simp [↓cfg_mk, cfg_eqs]

@[simp] theorem State.bootAgain_cfg (s : State) : (State.bootAgain s).cfg = s.cfg := by
  unfold State.bootAgain
  (repeat' split) <;> first | (simp; done) | (simp only [State.cfg, Cfg.mk.injEq] <;> simp [↓cfg_mk, cfg_eqs])

@[simp] theorem State.retriesAgain_cfg (s : State) : (State.retriesAgain s).cfg = s.cfg := by
  simp [State.retriesAgain]

@[simp] theorem State.takeRole_cfg (s : State) (i : Nat) : (State.takeRole s i).cfg = s.cfg := by
  unfold State.takeRole; simp only [State.cfg, Cfg.mk.injEq] <;> simp [↓cfg_mk, cfg_eqs]

@[simp] theorem State.takeOverFrom_cfg (s : State) (a cause : Nat) : (s.takeOverFrom a cause).cfg = s.cutFlash.cfg := by
  simp [State.takeOverFrom]

@[simp] theorem State.pathLost_cfg (s : State) (i : Nat) (newly : Bool) (w : String) : (State.pathLost s i newly w).cfg = s.cfg := by
  simp [State.pathLost]

@[simp] theorem State.fwBell_cfg (s : State) (fault : Bool) (version : Nat) (kv : KVs) : (State.fwBell s fault version kv).cfg = s.cfg := by
  simp [State.fwBell]

@[simp] theorem State.setCon_cfg (s : State) (i : Nat) (c : Con) : (State.setCon s i c).cfg = s.cfg := by
  unfold State.setCon; simp only [State.cfg, Cfg.mk.injEq] <;> simp [↓cfg_mk, cfg_eqs]

@[simp] theorem State.setHeld_cfg (s : State) (i : Nat) : (State.setHeld s i).cfg = s.cfg := by
  simp [State.setHeld]

@[simp] theorem State.breakLine_cfg (s : State) (i : Nat) : (State.breakLine s i).cfg = s.cfg := by
  simp [State.breakLine]

@[simp] theorem State.echoBytes_cfg (s : State) (i : Nat) (bs : List Byte) : (State.echoBytes s i bs).cfg = s.cfg := by
  simp [State.echoBytes]

@[simp] theorem State.endLine_cfg (s : State) (i : Nat) : (State.endLine s i).cfg = s.cfg := by
  simp [State.endLine]

@[simp] theorem State.closeTcp_cfg (s : State) (i : Nat) : (State.closeTcp s i).cfg = s.cfg := by
  unfold State.closeTcp; simp only [State.cfg, Cfg.mk.injEq] <;> simp [↓cfg_mk, cfg_eqs]

@[simp] theorem State.echoReply_cfg (s : State) (f : List Byte) : (s.echoReply f).2.cfg = s.cfg := by
  unfold State.echoReply
  simp

@[simp] theorem State.endLogin_cfg (s : State) (i : Nat) : (State.endLogin s i).cfg = s.cfg := by
  simp [State.endLogin]

@[simp] theorem State.loginFailed_cfg (s : State) (ln : Ln) (user : List Byte) (code : Nat) : (State.loginFailed s ln user code).cfg = s.cfg := by
  simp [State.loginFailed]

@[simp] theorem State.enter_cfg (s : State) (ln : Ln) (user : List Byte) (level : Level) : (State.enter s ln user level).cfg = s.cfg := by
  simp [State.enter]

theorem State.wrongForm_cfg (s : State) (ln : Ln) (key : String) : (s.wrongForm ln key).cfg = s.cfg := by
  unfold State.wrongForm
  exact State.sessionVerb_cfg _ _ _ (fun u => by simp)

@[simp] theorem State.takeResult_cfg (s : State) (k : Nat) (r : Req) (f : Flit) : (State.takeResult s k r f).cfg = s.cfg := by
  simp [State.takeResult]

@[simp] theorem State.cutReply_cfg (s : State) (k : Nat) (r : Req) : (State.cutReply s k r).cfg = s.cfg := by
  unfold State.cutReply; simp only [State.cfg, Cfg.mk.injEq] <;> simp [↓cfg_mk, cfg_eqs]

@[simp] theorem State.beginDrain_cfg (s : State) (k port : Nat) (f : Port → Port) : (State.beginDrain s k port f).cfg = s.cfg := by
  simp [State.beginDrain]

@[simp] theorem State.sensorFailed_cfg (s : State) (n which : Nat) : (State.sensorFailed s n which).cfg = s.cfg := by
  simp [State.sensorFailed]

@[simp] theorem State.thermalTrip_cfg (s : State) (n : Nat) (noSensor : Bool) : (State.thermalTrip s n noSensor).cfg = s.cfg := by
  simp [State.thermalTrip]

@[simp] theorem State.shcHot_cfg (s : State) (i cause : Nat) : (State.shcHot s i cause).cfg = s.cfg := by
  unfold State.shcHot; simp only [State.cfg, Cfg.mk.injEq] <;> simp [↓cfg_mk, cfg_eqs]

@[simp] theorem State.samplePad_cfg (s : State) (n : Nat) (a b : Int) : (State.samplePad s n a b).cfg = s.cfg := by
  simp [State.samplePad]

@[simp] theorem State.coolant_cfg (s : State) (addr : Nat) (r : Option Int) : (State.coolant s addr r).cfg = s.cfg := by
  unfold State.coolant
  (repeat' split) <;> first | (simp; done) | (simp only [State.cfg, Cfg.mk.injEq] <;> simp [↓cfg_mk, cfg_eqs])

@[simp] theorem State.loopOne_cfg (s : State) (i : Nat) (c : Option Bool) : (State.loopOne s i c).cfg = s.cfg := by
  unfold State.loopOne
  (repeat' split) <;> first | (simp; done) | (simp only [State.cfg, Cfg.mk.injEq] <;> simp [↓cfg_mk, cfg_eqs])

@[simp] theorem State.readReg_cfg (s : State) (addr : Nat) : (s.readReg addr).2.cfg = s.cfg := by
  unfold State.readReg
  dsimp only
  (repeat' split) <;> first | rfl | simp

@[simp] theorem State.clearSat_cfg (s : State) (n : Nat) (v : Word) : (State.clearSat s n v).cfg = s.cfg := by
  simp [State.clearSat]

@[simp] theorem State.loadWindow_cfg (s : State) (k : Nat) (v : Word) : (State.loadWindow s k v).cfg = s.cfg := by
  unfold State.loadWindow; simp only [State.cfg, Cfg.mk.injEq] <;> simp [↓cfg_mk, cfg_eqs]

@[simp] theorem State.writeReg_cfg (s : State) (w : Writable) (v mask : Word) : (State.writeReg s w v mask).cfg = s.cfg := by
  unfold State.writeReg
  (repeat' split) <;> first | (simp; done) | (simp only [State.cfg, Cfg.mk.injEq] <;> simp [↓cfg_mk, cfg_eqs])

@[simp] theorem State.poke_cfg (s : State) (ln : Ln) (addr : Nat) (v mask : Word) : (State.poke s ln addr v mask).cfg = s.cfg := by
  unfold State.poke
  (repeat' split) <;> simp

@[simp] theorem State.peekFrom_cfg (ln : Ln) (addr n done : Nat) (s : State) : (State.peekFrom ln addr n done s).cfg = s.cfg := by
  induction n generalizing done s with
  | zero => simp [State.peekFrom]
  | succ n ih =>
    rw [State.peekFrom]
    split <;> simp [ih]

end Sys2Proof.Machine
end

