-- ==== Sys2Proof/Laws/ExecA.lean ====
section
/-! SUPPORT. What the commands of power, clocks, mesh, issue, memory, Span, edge, folds and loads leave alone: every one answers a next
state, and of the core only the moment moves. -/
namespace Sys2Proof.Machine

open Sys2Proof

set_option linter.all false

theorem execBusSample_core (shc : ShcIx) (mvA mvB : Nat) (t : Time) (s : State) :
    ∃ next, execBusSample shc mvA mvB t s = .next next ∧ next.core = (s.tick t).core := by
  refine ⟨_, rfl, ?_⟩
  apply State.event_core
  intro g
  (repeat' split) <;> first | rfl | (simp; done) | (simp only [State.core, Core.mk.injEq] <;> simp [↓core_held, ↓core_mk, core_eqs]; done)

theorem execRailDeparture_core (f : FieldIx) (vaon : Bool) (mv : Nat) (t : Time) (s : State) :
    ∃ next, execRailDeparture f vaon mv t s = .next next ∧ next.core = (s.tick t).core := by
  refine ⟨_, rfl, ?_⟩
  apply State.event_core
  intro g
  (repeat' split) <;> first | rfl | (simp; done) | (simp only [State.core, Core.mk.injEq] <;> simp [↓core_held, ↓core_mk, core_eqs]; done)

theorem execVcoreRecoveryVerdict_core (f : FieldIx) (back : Option Time) (t : Time) (s : State) :
    ∃ next, execVcoreRecoveryVerdict f back t s = .next next ∧ next.core = (s.tick t).core := by
  refine ⟨_, rfl, State.event_core _ _ _ _ fun _ => ?_⟩
  dsimp only
  split
  · with_reducible apply ite_eq
    · rw [State.ring_core]
      refine (foldl_core _ (fun u n => ?_) _ _).trans ?_
      · with_reducible apply ite_eq <;> simp
      · simp
    · simp
  · simp

theorem execRailStep_core (f : FieldIx) (t : Time) (s : State) :
    ∃ next, execRailStep f t s = .next next ∧ next.core = (s.tick t).core := by
  refine ⟨_, rfl, ?_⟩
  apply State.event_core
  intro g
  (repeat' split) <;> first | rfl | (simp; done) | (simp only [State.core, Core.mk.injEq] <;> simp [↓core_held, ↓core_mk, core_eqs]; done)

theorem execPowerWaveStart_core (t : Time) (s : State) :
    ∃ next, execPowerWaveStart t s = .next next ∧ next.core = (s.tick t).core := by
  refine ⟨_, rfl, ?_⟩
  apply State.event_core
  intro g
  (repeat' split) <;> first | rfl | (simp; done) | (simp only [State.core, Core.mk.injEq] <;> simp [↓core_held, ↓core_mk, core_eqs]; done)

theorem execSoftStartComplete_core (n : Pad) (t : Time) (s : State) :
    ∃ next, execSoftStartComplete n t s = .next next ∧ next.core = (s.tick t).core := by
  refine ⟨_, rfl, ?_⟩
  apply State.event_core
  intro g
  (repeat' split) <;> first | rfl | (simp; done) | (simp only [State.core, Core.mk.injEq] <;> simp [↓core_held, ↓core_mk, core_eqs]; done)

theorem execEfuseTrip_core (n : Pad) (milliamps : Nat) (t : Time) (s : State) :
    ∃ next, execEfuseTrip n milliamps t s = .next next ∧ next.core = (s.tick t).core := by
  refine ⟨_, rfl, ?_⟩
  apply State.event_core
  intro g
  (repeat' split) <;> first | rfl | (simp; done) | (simp only [State.core, Core.mk.injEq] <;> simp [↓core_held, ↓core_mk, core_eqs]; done)

theorem execEfuseRetry_core (n : Pad) (t : Time) (s : State) :
    ∃ next, execEfuseRetry n t s = .next next ∧ next.core = (s.tick t).core := by
  refine ⟨_, rfl, ?_⟩
  apply State.event_core
  intro g
  (repeat' split) <;> first | rfl | (simp; done) | (simp only [State.core, Core.mk.injEq] <;> simp [↓core_held, ↓core_mk, core_eqs]; done)

theorem execEfuseRetryVerdict_core (n : Pad) (peak : Nat) (t : Time) (s : State) :
    ∃ next, execEfuseRetryVerdict n peak t s = .next next ∧ next.core = (s.tick t).core := by
  refine ⟨_, rfl, ?_⟩
  apply State.event_core
  intro g
  (repeat' split) <;> first | rfl | (simp; done) | (simp only [State.core, Core.mk.injEq] <;> simp [↓core_held, ↓core_mk, core_eqs]; done)

theorem execFieldStageShutdown_core (f : FieldIx) (vaon : Bool) (t : Time) (s : State) :
    ∃ next, execFieldStageShutdown f vaon t s = .next next ∧ next.core = (s.tick t).core := by
  refine ⟨_, rfl, ?_⟩
  apply State.event_core
  intro g
  (repeat' split) <;> first | rfl | (simp; done) | (simp only [State.core, Core.mk.injEq] <;> simp [↓core_held, ↓core_mk, core_eqs]; done)

theorem execFieldRetry_core (f : FieldIx) (t : Time) (s : State) :
    ∃ next, execFieldRetry f t s = .next next ∧ next.core = (s.tick t).core := by
  refine ⟨_, rfl, ?_⟩
  apply State.event_core
  intro g
  (repeat' split) <;> first | rfl | (simp; done) | (simp only [State.core, Core.mk.injEq] <;> simp [↓core_held, ↓core_mk, core_eqs]; done)

theorem execFieldRetryVerdict_core (f : FieldIx) (held : Bool) (t : Time) (s : State) :
    ∃ next, execFieldRetryVerdict f held t s = .next next ∧ next.core = (s.tick t).core := by
  refine ⟨_, rfl, State.event_core _ _ _ _ fun _ => ?_⟩
  dsimp only
  with_reducible apply ite_eq
  · rw [State.ring_core]
    refine (foldl_core _ (fun u n => ?_) _ _).trans ?_
    · with_reducible apply ite_eq
      · simp
      · with_reducible apply ite_eq
        · simp
        · split <;> simp
    · simp
  · simp

theorem execPmbAlert_core (addr status : Nat) (t : Time) (s : State) :
    ∃ next, execPmbAlert addr status t s = .next next ∧ next.core = (s.tick t).core := by
  refine ⟨_, rfl, ?_⟩
  apply State.event_core
  intro g
  (repeat' split) <;> first | rfl | (simp; done) | (simp only [State.core, Core.mk.injEq] <;> simp [↓core_held, ↓core_mk, core_eqs]; done)

theorem execTelemetryRead_core (reads : List PmbRead) (t : Time) (s : State) :
    ∃ next, execTelemetryRead reads t s = .next next ∧ next.core = (s.tick t).core := by
  refine ⟨_, rfl, ?_⟩
  apply State.event_core
  intro g
  (repeat' split) <;> first | rfl | (simp; done) | (simp only [State.core, Core.mk.injEq] <;> simp [↓core_held, ↓core_mk, core_eqs]; done)

theorem execPmbusRetryPoll_core (r : PmbRead) (t : Time) (s : State) :
    ∃ next, execPmbusRetryPoll r t s = .next next ∧ next.core = (s.tick t).core := by
  refine ⟨_, rfl, ?_⟩
  apply State.event_core
  intro g
  (repeat' split) <;> first | rfl | (simp; done) | (simp only [State.core, Core.mk.injEq] <;> simp [↓core_held, ↓core_mk, core_eqs]; done)

theorem execShowPower_core (ln : Ln) (s : State) :
    ∃ next, execShowPower ln s = .next next ∧ next.core = (s.tick ln.t).core := by
  refine ⟨_, rfl, ?_⟩
  apply State.judged_core
  intro u
  (repeat' split) <;> first | rfl | (simp; done) | (simp only [State.core, Core.mk.injEq] <;> simp [↓core_held, ↓core_mk, core_eqs]; done)

theorem execSetBus_core (shared : Bool) (ln : Ln) (s : State) :
    ∃ next, execSetBus shared ln s = .next next ∧ next.core = (s.tick ln.t).core := by
  refine ⟨_, rfl, ?_⟩
  apply State.judged_core
  intro u
  (repeat' split) <;> first | rfl | (simp; done) | (simp only [State.core, Core.mk.injEq] <;> simp [↓core_held, ↓core_mk, core_eqs]; done)

theorem execSetRail_core (x y mv : Nat) (ln : Ln) (s : State) :
    ∃ next, execSetRail x y mv ln s = .next next ∧ next.core = (s.tick ln.t).core := by
  refine ⟨_, rfl, ?_⟩
  apply State.judged_core
  intro u
  (repeat' split) <;> first | rfl | (simp; done) | (simp only [State.core, Core.mk.injEq] <;> simp [↓core_held, ↓core_mk, core_eqs]; done)

theorem execSetPower_core (at_ : Loc) (dark : Bool) (ln : Ln) (s : State) :
    ∃ next, execSetPower at_ dark ln s = .next next ∧ next.core = (s.tick ln.t).core := by
  refine ⟨_, rfl, ?_⟩
  apply State.judged_core
  intro u
  (repeat' split) <;> first | rfl | (simp; done) | (simp only [State.core, Core.mk.injEq] <;> simp [↓core_held, ↓core_mk, core_eqs]; done)

theorem execClearField_core (x y : Nat) (held : Bool) (ln : Ln) (s : State) :
    ∃ next, execClearField x y held ln s = .next next ∧ next.core = (s.tick ln.t).core := by
  refine ⟨_, rfl, ?_⟩
  apply State.judged_core
  intro u
  (repeat' split) <;> first | rfl | (simp; done) | (simp only [State.core, Core.mk.injEq] <;> simp [↓core_held, ↓core_mk, core_eqs]; done)

theorem execClockStep_core (n : Pad) (t : Time) (s : State) :
    ∃ next, execClockStep n t s = .next next ∧ next.core = (s.tick t).core := by
  refine ⟨_, rfl, ?_⟩
  apply State.event_core
  intro g
  (repeat' split) <;> first | rfl | (simp; done) | (simp only [State.core, Core.mk.injEq] <;> simp [↓core_held, ↓core_mk, core_eqs]; done)

theorem execSetClock_core (at_ : Loc) (n : Nat) (ln : Ln) (s : State) :
    ∃ next, execSetClock at_ n ln s = .next next ∧ next.core = (s.tick ln.t).core := by
  refine ⟨_, rfl, ?_⟩
  apply State.judged_core
  intro u
  (repeat' split) <;> first | rfl | (simp; done) | (simp only [State.core, Core.mk.injEq] <;> simp [↓core_held, ↓core_mk, core_eqs]; done)

theorem execIslandClockLoss_core (n : Pad) (t : Time) (s : State) :
    ∃ next, execIslandClockLoss n t s = .next next ∧ next.core = (s.tick t).core := by
  refine ⟨_, rfl, ?_⟩
  apply State.event_core
  intro g
  (repeat' split) <;> first | rfl | (simp; done) | (simp only [State.core, Core.mk.injEq] <;> simp [↓core_held, ↓core_mk, core_eqs]; done)

theorem execRingLoss_core (f : FieldIx) (t : Time) (s : State) :
    ∃ next, execRingLoss f t s = .next next ∧ next.core = (s.tick t).core := by
  refine ⟨_, rfl, ?_⟩
  apply State.event_core
  intro g
  (repeat' split) <;> first | rfl | (simp; done) | (simp only [State.core, Core.mk.injEq] <;> simp [↓core_held, ↓core_mk, core_eqs]; done)

theorem execMeshLock_core (worstPpm : Nat) (t : Time) (s : State) :
    ∃ next, execMeshLock worstPpm t s = .next next ∧ next.core = (s.tick t).core := by
  refine ⟨_, rfl, ?_⟩
  apply State.event_core
  intro g
  (repeat' split) <;> first | rfl | (simp; done) | (simp only [State.core, Core.mk.injEq] <;> simp [↓core_held, ↓core_mk, core_eqs]; done)

theorem execReferenceAbsent_core (edge : Option (Fin 4)) (t : Time) (s : State) :
    ∃ next, execReferenceAbsent edge t s = .next next ∧ next.core = (s.tick t).core := by
  refine ⟨_, rfl, State.event_core _ _ _ _ fun _ => ?_⟩
  simp
  rfl

theorem execReferenceReturn_core (edge : Option (Fin 4)) (t : Time) (s : State) :
    ∃ next, execReferenceReturn edge t s = .next next ∧ next.core = (s.tick t).core := by
  refine ⟨_, rfl, State.event_core _ _ _ _ fun _ => ?_⟩
  simp
  rfl

theorem execThrottleEval_core (f : FieldIx) (t : Time) (s : State) :
    ∃ next, execThrottleEval f t s = .next next ∧ next.core = (s.tick t).core := by
  refine ⟨_, rfl, ?_⟩
  apply State.event_core
  intro g
  (repeat' split) <;> first | rfl | (simp; done) | (simp only [State.core, Core.mk.injEq] <;> simp [↓core_held, ↓core_mk, core_eqs]; done)

theorem execLinkBeatSend_core (x : EndIx) (lane : Lane) (t : Time) (s : State) :
    ∃ next, execLinkBeatSend x lane t s = .next next ∧ next.core = (s.tick t).core := by
  refine ⟨_, rfl, State.event_core _ _ _ _ fun _ => ?_⟩
  have hs : (if x < 5376 then (s.tick t).sweepRouter (x / 4) else s.tick t).core = (s.tick t).core := by
    split <;> simp
  dsimp only
  generalize (if x < 5376 then (s.tick t).sweepRouter (x / 4) else s.tick t) = u at hs ⊢
  rw [← hs]
  split
  · exact (wire_core _ _).trans (State.setLink_core u x lane.val _)
  · split
    · rename_i e l' _
      exact ((wire_core _ _).trans (State.setLink_core _ _ _ _)).trans (State.setLink_core u x lane.val l')
    · split
      · exact (wire_core _ _).trans (State.setLink_core _ _ _ _)
      · rename_i h
        have h1 := State.nextFlit_core h
        split
        · split
          · rename_i h'
            exact ((wire_core _ _).trans (State.setLink_core _ _ _ _)).trans ((State.modLink_core _ _ _ _).trans ((State.nextFlit_core h').trans h1))
          · exact ((wire_core _ _).trans (State.setLink_core _ _ _ _)).trans h1
        · exact ((wire_core _ _).trans (State.setLink_core _ _ _ _)).trans h1

theorem execBeatReceived_core (x : EndIx) (lane : Lane) (vc0 vc1 : Bool) (b : BitVec 616) (t : Time) (s : State) :
    ∃ next, execBeatReceived x lane vc0 vc1 b t s = .next next ∧ next.core = (s.tick t).core := by
  refine ⟨_, rfl, State.event_core _ _ _ _ fun _ => ?_⟩
  dsimp only
  (repeat' with_reducible apply ite_eq)
  · simp
  · simp
  · simp
  · rw [foldl_core]
    · simp
    · intros; simp

theorem execReplayTimeout_core (x : EndIx) (lane : Lane) (t : Time) (s : State) :
    ∃ next, execReplayTimeout x lane t s = .next next ∧ next.core = (s.tick t).core := by
  refine ⟨_, rfl, ?_⟩
  apply State.event_core
  intro g
  (repeat' split) <;> first | rfl | (simp; done) | (simp only [State.core, Core.mk.injEq] <;> simp [↓core_held, ↓core_mk, core_eqs]; done)

theorem execReplayDownTimeout_core (x : EndIx) (lane : Lane) (t : Time) (s : State) :
    ∃ next, execReplayDownTimeout x lane t s = .next next ∧ next.core = (s.tick t).core := by
  refine ⟨_, rfl, ?_⟩
  apply State.event_core
  intro g
  (repeat' split) <;> first | rfl | (simp; done) | (simp only [State.core, Core.mk.injEq] <;> simp [↓core_held, ↓core_mk, core_eqs]; done)

theorem execReceiverSilence_core (x : EndIx) (lane : Lane) (t : Time) (s : State) :
    ∃ next, execReceiverSilence x lane t s = .next next ∧ next.core = (s.tick t).core := by
  refine ⟨_, rfl, ?_⟩
  apply State.event_core
  intro g
  (repeat' split) <;> first | rfl | (simp; done) | (simp only [State.core, Core.mk.injEq] <;> simp [↓core_held, ↓core_mk, core_eqs]; done)

theorem execLane0Precompile_core (t : Time) (s : State) :
    ∃ next, execLane0Precompile t s = .next next ∧ next.core = (s.tick t).core := by
  refine ⟨_, rfl, ?_⟩
  apply State.event_core
  intro g
  (repeat' split) <;> first | rfl | (simp; done) | (simp only [State.core, Core.mk.injEq] <;> simp [↓core_held, ↓core_mk, core_eqs]; done)

theorem execDockTransfer_core (n : Pad) (t : Time) (s : State) :
    ∃ next, execDockTransfer n t s = .next next ∧ next.core = (s.tick t).core := by
  refine ⟨_, rfl, ?_⟩
  apply State.event_core
  intro g
  (repeat' split) <;> first | rfl | (simp; done) | (simp only [State.core, Core.mk.injEq] <;> simp [↓core_held, ↓core_mk, core_eqs]; done)

theorem execFineIssueCycle_core (n : Pad) (fault : IcFault) (t : Time) (s : State) :
    ∃ next, execFineIssueCycle n fault t s = .next next ∧ next.core = (s.tick t).core := by
  refine ⟨_, rfl, ?_⟩
  apply State.event_core
  intro g
  dsimp only
  (repeat' split) <;> first | rfl | (simp; done) | (simp only [State.core, Core.mk.injEq] <;> simp [↓core_held, ↓core_mk, core_eqs]; done)

theorem execCoarseIssueCycle_core (n : Pad) (fault : IcFault) (t : Time) (s : State) :
    ∃ next, execCoarseIssueCycle n fault t s = .next next ∧ next.core = (s.tick t).core := by
  refine ⟨_, rfl, State.event_core _ _ _ _ fun _ => ?_⟩
  dsimp only
  split
  · simp
  · split
    · simp
    · split
      · simp
      · simp only [State.addTally_core]
        split <;> simp

theorem execWatchdogExpiry_core (n : Pad) (k : CtxIx) (t : Time) (s : State) :
    ∃ next, execWatchdogExpiry n k t s = .next next ∧ next.core = (s.tick t).core := by
  refine ⟨_, rfl, ?_⟩
  apply State.event_core
  intro g
  (repeat' split) <;> first | rfl | (simp; done) | (simp only [State.core, Core.mk.injEq] <;> simp [↓core_held, ↓core_mk, core_eqs]; done)

theorem execContextLeavePlan_core (n : Pad) (k : CtxIx) (t : Time) (s : State) :
    ∃ next, execContextLeavePlan n k t s = .next next ∧ next.core = (s.tick t).core := by
  refine ⟨_, rfl, ?_⟩
  apply State.event_core
  intro g
  (repeat' split) <;> first | rfl | (simp; done) | (simp only [State.core, Core.mk.injEq] <;> simp [↓core_held, ↓core_mk, core_eqs]; done)

theorem execEccRereadVerdict_core (n : Pad) (m : Fin 4) (good : Bool) (t : Time) (s : State) :
    ∃ next, execEccRereadVerdict n m good t s = .next next ∧ next.core = (s.tick t).core := by
  refine ⟨_, rfl, ?_⟩
  apply State.event_core
  intro g
  (repeat' split) <;> first | rfl | (simp; done) | (simp only [State.core, Core.mk.injEq] <;> simp [↓core_held, ↓core_mk, core_eqs]; done)

theorem execResidueVerdict_core (n : Pad) (v : Fin 4) (good : Bool) (t : Time) (s : State) :
    ∃ next, execResidueVerdict n v good t s = .next next ∧ next.core = (s.tick t).core := by
  refine ⟨_, rfl, ?_⟩
  apply State.event_core
  intro g
  (repeat' split) <;> first | rfl | (simp; done) | (simp only [State.core, Core.mk.injEq] <;> simp [↓core_held, ↓core_mk, core_eqs]; done)

theorem execHbmxReturn_core (n : Pad) (m : Fin 4) (t : Time) (s : State) :
    ∃ next, execHbmxReturn n m t s = .next next ∧ next.core = (s.tick t).core := by
  refine ⟨_, rfl, ?_⟩
  apply State.event_core
  intro g
  dsimp only
  (repeat' split) <;> first | rfl | (simp; done) | (simp only [State.core, Core.mk.injEq] <;> simp [↓core_held, ↓core_mk, core_eqs]; done)

theorem execMemReqReceived_core (k : MedIx) (e : Fin 2) (lane : Lane) (vc : Bool) (t : Time) (s : State) :
    ∃ next, execMemReqReceived k e lane vc t s = .next next ∧ next.core = (s.tick t).core := by
  refine ⟨_, rfl, ?_⟩
  apply State.event_core
  intro g
  (repeat' split) <;> first | rfl | (simp; done) | (simp only [State.core, Core.mk.injEq] <;> simp [↓core_held, ↓core_mk, core_eqs]; done) | (simp; rfl) | (simp; simp only [State.core, Core.mk.injEq] <;> simp [↓core_held, ↓core_mk, core_eqs]; done) | (dsimp only; simp; done) | (simp (disch := (intros; (repeat' split) <;> (first | rfl | (simp; done) | (simp only [State.core, Core.mk.injEq] <;> simp [↓core_held, ↓core_mk, core_eqs]; done) | (simp; rfl) | (simp; simp only [State.core, Core.mk.injEq] <;> simp [↓core_held, ↓core_mk, core_eqs]; done)))); done) | (dsimp only; simp (disch := (intros; (repeat' split) <;> (first | rfl | (simp; done) | (simp only [State.core, Core.mk.injEq] <;> simp [↓core_held, ↓core_mk, core_eqs]; done) | (simp; rfl) | (simp; simp only [State.core, Core.mk.injEq] <;> simp [↓core_held, ↓core_mk, core_eqs]; done)))); done) | (simp (disch := (intros; (repeat' split) <;> (first | rfl | (simp; done) | (simp only [State.core, Core.mk.injEq] <;> simp [↓core_held, ↓core_mk, core_eqs]; done) | (simp; rfl) | (simp; simp only [State.core, Core.mk.injEq] <;> simp [↓core_held, ↓core_mk, core_eqs]; done)))); rfl) | (simp (disch := (intros; (repeat' split) <;> (first | rfl | (simp; done) | (simp only [State.core, Core.mk.injEq] <;> simp [↓core_held, ↓core_mk, core_eqs]; done) | (simp; rfl) | (simp; simp only [State.core, Core.mk.injEq] <;> simp [↓core_held, ↓core_mk, core_eqs]; done)))); simp only [State.core, Core.mk.injEq] <;> simp [↓core_held, ↓core_mk, core_eqs]; done) | (dsimp only; simp (disch := (intros; (repeat' split) <;> (first | rfl | (simp; done) | (simp only [State.core, Core.mk.injEq] <;> simp [↓core_held, ↓core_mk, core_eqs]; done) | (simp; rfl) | (simp; simp only [State.core, Core.mk.injEq] <;> simp [↓core_held, ↓core_mk, core_eqs]; done)))); simp only [State.core, Core.mk.injEq] <;> simp [↓core_held, ↓core_mk, core_eqs]; done)

theorem execHbmBurstRead_core (k : MedIx) (i : Nat) (sev : EccSev) (t : Time) (s : State) :
    ∃ next, execHbmBurstRead k i sev t s = .next next ∧ next.core = (s.tick t).core := by
  refine ⟨_, rfl, ?_⟩
  apply State.event_core
  intro g
  (repeat' split) <;> first | rfl | (simp; done) | (simp only [State.core, Core.mk.injEq] <;> simp [↓core_held, ↓core_mk, core_eqs]; done)

theorem execHbmRereadVerdict_core (k : MedIx) (good : Bool) (t : Time) (s : State) :
    ∃ next, execHbmRereadVerdict k good t s = .next next ∧ next.core = (s.tick t).core := by
  refine ⟨_, rfl, State.event_core _ _ _ _ fun _ => ?_⟩
  dsimp only
  split
  · simp
  · rename_i g e _
    rw [ite_core, foldl_core _ (fun _ _ => State.loseSession_core _ _), ite_self]
    refine Eq.trans (b := (((((s.tick t).setMed k.val (((s.tick t).med k.val).rereadVerdict k.val good (s.tick t).now).m).medSend k.val (((s.tick t).med k.val).rereadVerdict k.val good (s.tick t).now).send).addTally .med k.val tmReread (((s.tick t).med k.val).rereadVerdict k.val good (s.tick t).now).transient).count .med k.val tmRetired).core) ?_ (by simp)
    split
    · simp
    · rename_i h
      exact (setWriting_core _ (by rw [frozen_of_core (State.modFlash_core _ _)]; simpa using h)).trans (by simp)

theorem execStackTempRead_core (k : MedIx) (read : StackRead) (t : Time) (s : State) :
    ∃ next, execStackTempRead k read t s = .next next ∧ next.core = (s.tick t).core := by
  refine ⟨_, rfl, ?_⟩
  apply State.event_core
  intro g
  (repeat' split) <;> first | rfl | (simp; done) | (simp only [State.core, Core.mk.injEq] <;> simp [↓core_held, ↓core_mk, core_eqs]; done)

theorem execPageScrub_core (k : MedIx) (page : Fin 12288) (t : Time) (s : State) :
    ∃ next, execPageScrub k page t s = .next next ∧ next.core = (s.tick t).core := by
  refine ⟨_, rfl, ?_⟩
  apply State.event_core
  intro g
  (repeat' split) <;> first | rfl | (simp; done) | (simp only [State.core, Core.mk.injEq] <;> simp [↓core_held, ↓core_mk, core_eqs]; done)

theorem execRotationSlot_core (k : MedIx) (t : Time) (s : State) :
    ∃ next, execRotationSlot k t s = .next next ∧ next.core = (s.tick t).core := by
  refine ⟨_, rfl, ?_⟩
  apply State.event_core
  intro g
  (repeat' split) <;> first | rfl | (simp; done) | (simp only [State.core, Core.mk.injEq] <;> simp [↓core_held, ↓core_mk, core_eqs]; done)

theorem execMedDoubt_core (k : MedIx) (cause : Nat) (t : Time) (s : State) :
    ∃ next, execMedDoubt k cause t s = .next next ∧ next.core = (s.tick t).core := by
  refine ⟨_, rfl, ?_⟩
  apply State.event_core
  intro g
  (repeat' split) <;> first | rfl | (simp; done) | (simp only [State.core, Core.mk.injEq] <;> simp [↓core_held, ↓core_mk, core_eqs]; done)

theorem flashTakes_frozen {s : State} {ln : Ln} (h : ¬(!s.flashTakes ln) = true) : s.frozen = false := by
  simp [State.flashTakes] at h
  exact h.2

theorem execSpanBlockSend_core (i : SpdIx) (t : Time) (s : State) :
    ∃ next, execSpanBlockSend i t s = .next next ∧ next.core = (s.tick t).core := by
  refine ⟨_, rfl, ?_⟩
  apply State.event_core
  intro g
  dsimp only
  (repeat' split) <;> first | rfl | (simp; done) | (simp only [State.core, Core.mk.injEq] <;> simp [↓core_held, ↓core_mk, core_eqs]; done)

theorem execSpanBlockReceived_core (i : SpdIx) (decoded replay : Bool) (symbols : Nat) (b : BitVec 2570) (t : Time) (s : State) :
    ∃ next, execSpanBlockReceived i decoded replay symbols b t s = .next next ∧ next.core = (s.tick t).core := by
  refine ⟨_, rfl, ?_⟩
  apply State.event_core
  intro g
  (repeat' split) <;> first | rfl | (simp; done) | (simp only [State.core, Core.mk.injEq] <;> simp [↓core_held, ↓core_mk, core_eqs]; done)

theorem execSpanReplayTimeout_core (i : SpdIx) (t : Time) (s : State) :
    ∃ next, execSpanReplayTimeout i t s = .next next ∧ next.core = (s.tick t).core := by
  refine ⟨_, rfl, ?_⟩
  apply State.event_core
  intro g
  (repeat' split) <;> first | rfl | (simp; done) | (simp only [State.core, Core.mk.injEq] <;> simp [↓core_held, ↓core_mk, core_eqs]; done)

theorem execSpanDownTimeout_core (i : SpdIx) (t : Time) (s : State) :
    ∃ next, execSpanDownTimeout i t s = .next next ∧ next.core = (s.tick t).core := by
  refine ⟨_, rfl, ?_⟩
  apply State.event_core
  intro g
  (repeat' split) <;> first | rfl | (simp; done) | (simp only [State.core, Core.mk.injEq] <;> simp [↓core_held, ↓core_mk, core_eqs]; done)

theorem execSpanRxSilence_core (i : SpdIx) (t : Time) (s : State) :
    ∃ next, execSpanRxSilence i t s = .next next ∧ next.core = (s.tick t).core := by
  refine ⟨_, rfl, ?_⟩
  apply State.event_core
  intro g
  (repeat' split) <;> first | rfl | (simp; done) | (simp only [State.core, Core.mk.injEq] <;> simp [↓core_held, ↓core_mk, core_eqs]; done)

theorem execTrainBlockReceived_core (i : SpdIx) (locked : BitVec 16) (b : BitVec 2570) (t : Time) (s : State) :
    ∃ next, execTrainBlockReceived i locked b t s = .next next ∧ next.core = (s.tick t).core := by
  refine ⟨_, rfl, ?_⟩
  apply State.event_core
  intro g
  (repeat' split) <;> first | rfl | (simp; done) | (simp only [State.core, Core.mk.injEq] <;> simp [↓core_held, ↓core_mk, core_eqs]; done)

theorem execTrainingTimeout_core (i : SpdIx) (t : Time) (s : State) :
    ∃ next, execTrainingTimeout i t s = .next next ∧ next.core = (s.tick t).core := by
  refine ⟨_, rfl, ?_⟩
  apply State.event_core
  intro g
  (repeat' split) <;> first | rfl | (simp; done) | (simp only [State.core, Core.mk.injEq] <;> simp [↓core_held, ↓core_mk, core_eqs]; done)

theorem execTrainRefuseExpiry_core (i : SpdIx) (t : Time) (s : State) :
    ∃ next, execTrainRefuseExpiry i t s = .next next ∧ next.core = (s.tick t).core := by
  refine ⟨_, rfl, ?_⟩
  apply State.event_core
  intro g
  (repeat' split) <;> first | rfl | (simp; done) | (simp only [State.core, Core.mk.injEq] <;> simp [↓core_held, ↓core_mk, core_eqs]; done)

theorem execMemberExcluded_core (w : Fin 16) (t : Time) (s : State) :
    ∃ next, execMemberExcluded w t s = .next next ∧ next.core = (s.tick t).core := by
  refine ⟨_, rfl, ?_⟩
  apply State.event_core
  intro g
  (repeat' split) <;> first | rfl | (simp; done) | (simp only [State.core, Core.mk.injEq] <;> simp [↓core_held, ↓core_mk, core_eqs]; done)

theorem execSpdDoubt_core (i : SpdIx) (cause : Nat) (t : Time) (s : State) :
    ∃ next, execSpdDoubt i cause t s = .next next ∧ next.core = (s.tick t).core := by
  refine ⟨_, rfl, ?_⟩
  apply State.event_core
  intro g
  (repeat' split) <;> first | rfl | (simp; done) | (simp only [State.core, Core.mk.injEq] <;> simp [↓core_held, ↓core_mk, core_eqs]; done)

theorem execShowSpan_core (spd : Nat) (ln : Ln) (s : State) :
    ∃ next, execShowSpan spd ln s = .next next ∧ next.core = (s.tick ln.t).core := by
  refine ⟨_, rfl, ?_⟩
  apply State.judged_core
  intro u
  (repeat' split) <;> first | rfl | (simp; done) | (simp only [State.core, Core.mk.injEq] <;> simp [↓core_held, ↓core_mk, core_eqs]; done)

theorem execRetrainSpan_core (spd : Nat) (ln : Ln) (s : State) :
    ∃ next, execRetrainSpan spd ln s = .next next ∧ next.core = (s.tick ln.t).core := by
  refine ⟨_, rfl, ?_⟩
  apply State.judged_core
  intro u
  (repeat' split) <;> first | rfl | (simp; done) | (simp only [State.core, Core.mk.injEq] <;> simp [↓core_held, ↓core_mk, core_eqs]; done)

theorem execShowFlock_core (ln : Ln) (s : State) :
    ∃ next, execShowFlock ln s = .next next ∧ next.core = (s.tick ln.t).core := by
  refine ⟨_, rfl, ?_⟩
  apply State.judged_core
  intro u
  (repeat' split) <;> first | rfl | (simp; done) | (simp only [State.core, Core.mk.injEq] <;> simp [↓core_held, ↓core_mk, core_eqs]; done)

theorem execSetFlock_core (id : BitVec 32) (wafer : Nat) (members : List Nat) (ln : Ln) (s : State) :
    ∃ next, execSetFlock id wafer members ln s = .next next ∧ next.core = (s.tick ln.t).core := by
  refine ⟨_, rfl, State.judged_core _ _ _ _ _ fun u => State.inRange_core _ _ _ _ _ _ _ ?_⟩
  split
  · simp
  · split
    · simp
    · rename_i h
      rw [State.ok_core]
      exact setFlash_core _ (flashTakes_frozen h)

theorem State.storePort_core (s : State) (ned port : Nat) (p : Port) (ptp : Bool) (h : s.frozen = false) :
    (s.storePort ned port p ptp).core = s.core := setFlash_core _ h

theorem execAdmission_core (k : NedIx) (f : FrameIn) (t : Time) (s : State) :
    ∃ next, execAdmission k f t s = .next next ∧ next.core = (s.tick t).core := by
  refine ⟨_, rfl, ?_⟩
  apply State.event_core
  intro g
  (repeat' split) <;> first | rfl | (simp; done) | (simp only [State.core, Core.mk.injEq] <;> simp [↓core_held, ↓core_mk, core_eqs]; done)

theorem execGroupVerdict_core (k : NedIx) (fid : Nat) (group : GroupRead) (t : Time) (s : State) :
    ∃ next, execGroupVerdict k fid group t s = .next next ∧ next.core = (s.tick t).core := by
  refine ⟨_, rfl, ?_⟩
  apply State.event_core
  intro g
  (repeat' split) <;> first | rfl | (simp; done) | (simp only [State.core, Core.mk.injEq] <;> simp [↓core_held, ↓core_mk, core_eqs]; done)

theorem execFcsVerdict_core (k : NedIx) (fid : Nat) (good : Bool) (t : Time) (s : State) :
    ∃ next, execFcsVerdict k fid good t s = .next next ∧ next.core = (s.tick t).core := by
  refine ⟨_, rfl, ?_⟩
  apply State.event_core
  intro g
  (repeat' split) <;> first | rfl | (simp; done) | (simp only [State.core, Core.mk.injEq] <;> simp [↓core_held, ↓core_mk, core_eqs]; done) | (simp; rfl) | (simp; simp only [State.core, Core.mk.injEq] <;> simp [↓core_held, ↓core_mk, core_eqs]; done) | (dsimp only; simp; done) | (simp (disch := (intros; (repeat' split) <;> (first | rfl | (simp; done) | (simp only [State.core, Core.mk.injEq] <;> simp [↓core_held, ↓core_mk, core_eqs]; done) | (simp; rfl) | (simp; simp only [State.core, Core.mk.injEq] <;> simp [↓core_held, ↓core_mk, core_eqs]; done)))); done) | (dsimp only; simp (disch := (intros; (repeat' split) <;> (first | rfl | (simp; done) | (simp only [State.core, Core.mk.injEq] <;> simp [↓core_held, ↓core_mk, core_eqs]; done) | (simp; rfl) | (simp; simp only [State.core, Core.mk.injEq] <;> simp [↓core_held, ↓core_mk, core_eqs]; done)))); done) | (simp (disch := (intros; (repeat' split) <;> (first | rfl | (simp; done) | (simp only [State.core, Core.mk.injEq] <;> simp [↓core_held, ↓core_mk, core_eqs]; done) | (simp; rfl) | (simp; simp only [State.core, Core.mk.injEq] <;> simp [↓core_held, ↓core_mk, core_eqs]; done)))); rfl) | (simp (disch := (intros; (repeat' split) <;> (first | rfl | (simp; done) | (simp only [State.core, Core.mk.injEq] <;> simp [↓core_held, ↓core_mk, core_eqs]; done) | (simp; rfl) | (simp; simp only [State.core, Core.mk.injEq] <;> simp [↓core_held, ↓core_mk, core_eqs]; done)))); simp only [State.core, Core.mk.injEq] <;> simp [↓core_held, ↓core_mk, core_eqs]; done) | (dsimp only; simp (disch := (intros; (repeat' split) <;> (first | rfl | (simp; done) | (simp only [State.core, Core.mk.injEq] <;> simp [↓core_held, ↓core_mk, core_eqs]; done) | (simp; rfl) | (simp; simp only [State.core, Core.mk.injEq] <;> simp [↓core_held, ↓core_mk, core_eqs]; done)))); simp only [State.core, Core.mk.injEq] <;> simp [↓core_held, ↓core_mk, core_eqs]; done)

theorem execFrameTail_core (k : NedIx) (fid : Nat) (t : Time) (s : State) :
    ∃ next, execFrameTail k fid t s = .next next ∧ next.core = (s.tick t).core := by
  refine ⟨_, rfl, ?_⟩
  apply State.event_core
  intro g
  (repeat' split) <;> first | rfl | (simp; done) | (simp only [State.core, Core.mk.injEq] <;> simp [↓core_held, ↓core_mk, core_eqs]; done) | (simp; rfl) | (simp; simp only [State.core, Core.mk.injEq] <;> simp [↓core_held, ↓core_mk, core_eqs]; done) | (dsimp only; simp; done) | (simp (disch := (intros; (repeat' split) <;> (first | rfl | (simp; done) | (simp only [State.core, Core.mk.injEq] <;> simp [↓core_held, ↓core_mk, core_eqs]; done) | (simp; rfl) | (simp; simp only [State.core, Core.mk.injEq] <;> simp [↓core_held, ↓core_mk, core_eqs]; done)))); done) | (dsimp only; simp (disch := (intros; (repeat' split) <;> (first | rfl | (simp; done) | (simp only [State.core, Core.mk.injEq] <;> simp [↓core_held, ↓core_mk, core_eqs]; done) | (simp; rfl) | (simp; simp only [State.core, Core.mk.injEq] <;> simp [↓core_held, ↓core_mk, core_eqs]; done)))); done) | (simp (disch := (intros; (repeat' split) <;> (first | rfl | (simp; done) | (simp only [State.core, Core.mk.injEq] <;> simp [↓core_held, ↓core_mk, core_eqs]; done) | (simp; rfl) | (simp; simp only [State.core, Core.mk.injEq] <;> simp [↓core_held, ↓core_mk, core_eqs]; done)))); rfl) | (simp (disch := (intros; (repeat' split) <;> (first | rfl | (simp; done) | (simp only [State.core, Core.mk.injEq] <;> simp [↓core_held, ↓core_mk, core_eqs]; done) | (simp; rfl) | (simp; simp only [State.core, Core.mk.injEq] <;> simp [↓core_held, ↓core_mk, core_eqs]; done)))); simp only [State.core, Core.mk.injEq] <;> simp [↓core_held, ↓core_mk, core_eqs]; done) | (dsimp only; simp (disch := (intros; (repeat' split) <;> (first | rfl | (simp; done) | (simp only [State.core, Core.mk.injEq] <;> simp [↓core_held, ↓core_mk, core_eqs]; done) | (simp; rfl) | (simp; simp only [State.core, Core.mk.injEq] <;> simp [↓core_held, ↓core_mk, core_eqs]; done)))); simp only [State.core, Core.mk.injEq] <;> simp [↓core_held, ↓core_mk, core_eqs]; done)

theorem execSpeculationAbort_core (k : NedIx) (fid : Nat) (t : Time) (s : State) :
    ∃ next, execSpeculationAbort k fid t s = .next next ∧ next.core = (s.tick t).core := by
  refine ⟨_, rfl, ?_⟩
  apply State.event_core
  intro g
  (repeat' split) <;> first | rfl | (simp; done) | (simp only [State.core, Core.mk.injEq] <;> simp [↓core_held, ↓core_mk, core_eqs]; done) | (simp; rfl) | (simp; simp only [State.core, Core.mk.injEq] <;> simp [↓core_held, ↓core_mk, core_eqs]; done) | (dsimp only; simp; done) | (simp (disch := (intros; (repeat' split) <;> (first | rfl | (simp; done) | (simp only [State.core, Core.mk.injEq] <;> simp [↓core_held, ↓core_mk, core_eqs]; done) | (simp; rfl) | (simp; simp only [State.core, Core.mk.injEq] <;> simp [↓core_held, ↓core_mk, core_eqs]; done)))); done) | (dsimp only; simp (disch := (intros; (repeat' split) <;> (first | rfl | (simp; done) | (simp only [State.core, Core.mk.injEq] <;> simp [↓core_held, ↓core_mk, core_eqs]; done) | (simp; rfl) | (simp; simp only [State.core, Core.mk.injEq] <;> simp [↓core_held, ↓core_mk, core_eqs]; done)))); done) | (simp (disch := (intros; (repeat' split) <;> (first | rfl | (simp; done) | (simp only [State.core, Core.mk.injEq] <;> simp [↓core_held, ↓core_mk, core_eqs]; done) | (simp; rfl) | (simp; simp only [State.core, Core.mk.injEq] <;> simp [↓core_held, ↓core_mk, core_eqs]; done)))); rfl) | (simp (disch := (intros; (repeat' split) <;> (first | rfl | (simp; done) | (simp only [State.core, Core.mk.injEq] <;> simp [↓core_held, ↓core_mk, core_eqs]; done) | (simp; rfl) | (simp; simp only [State.core, Core.mk.injEq] <;> simp [↓core_held, ↓core_mk, core_eqs]; done)))); simp only [State.core, Core.mk.injEq] <;> simp [↓core_held, ↓core_mk, core_eqs]; done) | (dsimp only; simp (disch := (intros; (repeat' split) <;> (first | rfl | (simp; done) | (simp only [State.core, Core.mk.injEq] <;> simp [↓core_held, ↓core_mk, core_eqs]; done) | (simp; rfl) | (simp; simp only [State.core, Core.mk.injEq] <;> simp [↓core_held, ↓core_mk, core_eqs]; done)))); simp only [State.core, Core.mk.injEq] <;> simp [↓core_held, ↓core_mk, core_eqs]; done)

theorem execResultArrival_core (k : NedIx) (e : Fin 2) (lane : Lane) (vc : Bool) (t : Time) (s : State) :
    ∃ next, execResultArrival k e lane vc t s = .next next ∧ next.core = (s.tick t).core := by
  refine ⟨_, rfl, ?_⟩
  apply State.event_core
  intro g
  dsimp only
  (repeat' split) <;> first | rfl | (simp; done) | (simp only [State.core, Core.mk.injEq] <;> simp [↓core_held, ↓core_mk, core_eqs]; done)

theorem execReplyStart_core (k : NedIx) (fid : Nat) (t : Time) (s : State) :
    ∃ next, execReplyStart k fid t s = .next next ∧ next.core = (s.tick t).core := by
  refine ⟨_, rfl, ?_⟩
  apply State.event_core
  intro g
  (repeat' split) <;> first | rfl | (simp; done) | (simp only [State.core, Core.mk.injEq] <;> simp [↓core_held, ↓core_mk, core_eqs]; done)

theorem execPtpEvent_core (k : NedIx) (port : Fin 8) (bytes : List Byte) (egress : Bool) (sfd t : Time) (s : State) :
    ∃ next, execPtpEvent k port bytes egress sfd t s = .next next ∧ next.core = (s.tick t).core := by
  refine ⟨_, rfl, State.event_core _ _ _ _ fun _ => ?_⟩
  dsimp only
  with_reducible apply ite_eq
  · exact (State.modNed_core _ _ _).trans (wire_core _ _)
  · exact (heard_core _ _).trans (State.modNed_core _ _ _)

theorem execRsFault_core (k : NedIx) (port : Fin 8) (remote : Bool) (t : Time) (s : State) :
    ∃ next, execRsFault k port remote t s = .next next ∧ next.core = (s.tick t).core := by
  refine ⟨_, rfl, ?_⟩
  apply State.event_core
  intro g
  (repeat' split) <;> first | rfl | (simp; done) | (simp only [State.core, Core.mk.injEq] <;> simp [↓core_held, ↓core_mk, core_eqs]; done)

theorem execRsFaultCleared_core (k : NedIx) (fault : PortFault) (t : Time) (s : State) :
    ∃ next, execRsFaultCleared k fault t s = .next next ∧ next.core = (s.tick t).core := by
  refine ⟨_, rfl, ?_⟩
  apply State.event_core
  intro g
  (repeat' split) <;> first | rfl | (simp; done) | (simp only [State.core, Core.mk.injEq] <;> simp [↓core_held, ↓core_mk, core_eqs]; done)

theorem execNedDoubt_core (k : NedIx) (cause : Nat) (t : Time) (s : State) :
    ∃ next, execNedDoubt k cause t s = .next next ∧ next.core = (s.tick t).core := by
  refine ⟨_, rfl, ?_⟩
  apply State.event_core
  intro g
  (repeat' split) <;> first | rfl | (simp; done) | (simp only [State.core, Core.mk.injEq] <;> simp [↓core_held, ↓core_mk, core_eqs]; done)

theorem execPwrFailNedStop_core (t : Time) (s : State) :
    ∃ next, execPwrFailNedStop t s = .next next ∧ next.core = (s.tick t).core := by
  refine ⟨_, rfl, State.event_core _ _ _ _ fun _ => ?_⟩
  exact foldl_core _ (fun _ _ => by simp) _ _

theorem execKeepaliveLoss_core (die : Nat) (t : Time) (s : State) :
    ∃ next, execKeepaliveLoss die t s = .next next ∧ next.core = (s.tick t).core := by
  refine ⟨_, rfl, ?_⟩
  apply State.event_core
  intro g
  (repeat' split) <;> first | rfl | (simp; done) | (simp only [State.core, Core.mk.injEq] <;> simp [↓core_held, ↓core_mk, core_eqs]; done)

theorem execPortDrainComplete_core (k : NedIx) (port : Fin 8) (t : Time) (s : State) :
    ∃ next, execPortDrainComplete k port t s = .next next ∧ next.core = (s.tick t).core := by
  refine ⟨_, rfl, ?_⟩
  apply State.event_core
  intro g
  (repeat' split) <;> first | rfl | (simp; done) | (simp only [State.core, Core.mk.injEq] <;> simp [↓core_held, ↓core_mk, core_eqs]; done)

theorem execPortDrainExpiry_core (k : NedIx) (port : Fin 8) (t : Time) (s : State) :
    ∃ next, execPortDrainExpiry k port t s = .next next ∧ next.core = (s.tick t).core := by
  refine ⟨_, rfl, ?_⟩
  apply State.event_core
  intro g
  (repeat' split) <;> first | rfl | (simp; done) | (simp only [State.core, Core.mk.injEq] <;> simp [↓core_held, ↓core_mk, core_eqs]; done)

theorem execPortSettingsApplied_core (k : NedIx) (port : Fin 8) (t : Time) (s : State) :
    ∃ next, execPortSettingsApplied k port t s = .next next ∧ next.core = (s.tick t).core := by
  refine ⟨_, rfl, ?_⟩
  apply State.event_core
  intro g
  dsimp only
  (repeat' split) <;> first | rfl | (simp; done) | (simp only [State.core, Core.mk.injEq] <;> simp [↓core_held, ↓core_mk, core_eqs]; done)

theorem execPenRelease_core (k : NedIx) (t : Time) (s : State) :
    ∃ next, execPenRelease k t s = .next next ∧ next.core = (s.tick t).core := by
  refine ⟨_, rfl, State.event_core _ _ _ _ fun _ => ?_⟩
  dsimp only
  split
  · rfl
  · rw [State.intoWafer_core, State.count_core, State.setNed_core]

theorem execPenDeadlineExpiry_core (k : NedIx) (fid : Nat) (t : Time) (s : State) :
    ∃ next, execPenDeadlineExpiry k fid t s = .next next ∧ next.core = (s.tick t).core := by
  refine ⟨_, rfl, ?_⟩
  apply State.event_core
  intro g
  (repeat' split) <;> first | rfl | (simp; done) | (simp only [State.core, Core.mk.injEq] <;> simp [↓core_held, ↓core_mk, core_eqs]; done)

theorem execBurstToken_core (k : NedIx) (t : Time) (s : State) :
    ∃ next, execBurstToken k t s = .next next ∧ next.core = (s.tick t).core := by
  refine ⟨_, rfl, ?_⟩
  apply State.event_core
  intro g
  dsimp only
  (repeat' split) <;> first | rfl | (simp; done) | (simp only [State.core, Core.mk.injEq] <;> simp [↓core_held, ↓core_mk, core_eqs]; done)

theorem execInFlightLimit_core (k : NedIx) (fid : Nat) (t : Time) (s : State) :
    ∃ next, execInFlightLimit k fid t s = .next next ∧ next.core = (s.tick t).core := by
  refine ⟨_, rfl, ?_⟩
  apply State.event_core
  intro g
  (repeat' split) <;> first | rfl | (simp; done) | (simp only [State.core, Core.mk.injEq] <;> simp [↓core_held, ↓core_mk, core_eqs]; done)

theorem execStrayRefusal_core (k : NedIx) (tag : BitVec 16) (t : Time) (s : State) :
    ∃ next, execStrayRefusal k tag t s = .next next ∧ next.core = (s.tick t).core := by
  refine ⟨_, rfl, ?_⟩
  apply State.event_core
  intro g
  (repeat' split) <;> first | rfl | (simp; done) | (simp only [State.core, Core.mk.injEq] <;> simp [↓core_held, ↓core_mk, core_eqs]; done)

theorem execShowPort_core (ned : Nat) (port : Option Nat) (ln : Ln) (s : State) :
    ∃ next, execShowPort ned port ln s = .next next ∧ next.core = (s.tick ln.t).core := by
  refine ⟨_, rfl, ?_⟩
  apply State.judged_core
  intro u
  (repeat' split) <;> first | rfl | (simp; done) | (simp only [State.core, Core.mk.injEq] <;> simp [↓core_held, ↓core_mk, core_eqs]; done)

theorem execSetLanes_core (ned group mode : Nat) (ln : Ln) (s : State) :
    ∃ next, execSetLanes ned group mode ln s = .next next ∧ next.core = (s.tick ln.t).core := by
  refine ⟨_, rfl, ?_⟩
  apply State.judged_core
  intro u
  (repeat' first | (refine State.inRange_core _ _ _ _ _ _ _ ?_) | (refine State.onFold_core _ _ _ _ ?_) | (refine State.onChannel_core _ _ _ _ ?_) | (refine State.guard_core _ _ _ _ ?_) | intro _ | split) <;> first | rfl | (simp; done) | (simp only [State.core, Core.mk.injEq] <;> simp [↓core_held, ↓core_mk, core_eqs]; done) | (simp; rfl) | (simp; simp only [State.core, Core.mk.injEq] <;> simp [↓core_held, ↓core_mk, core_eqs]; done) | (dsimp only; simp; done) | (simp (disch := (intros; (repeat' split) <;> (first | rfl | (simp; done) | (simp only [State.core, Core.mk.injEq] <;> simp [↓core_held, ↓core_mk, core_eqs]; done) | (simp; rfl) | (simp; simp only [State.core, Core.mk.injEq] <;> simp [↓core_held, ↓core_mk, core_eqs]; done)))); done) | (dsimp only; simp (disch := (intros; (repeat' split) <;> (first | rfl | (simp; done) | (simp only [State.core, Core.mk.injEq] <;> simp [↓core_held, ↓core_mk, core_eqs]; done) | (simp; rfl) | (simp; simp only [State.core, Core.mk.injEq] <;> simp [↓core_held, ↓core_mk, core_eqs]; done)))); done) | (simp (disch := (intros; (repeat' split) <;> (first | rfl | (simp; done) | (simp only [State.core, Core.mk.injEq] <;> simp [↓core_held, ↓core_mk, core_eqs]; done) | (simp; rfl) | (simp; simp only [State.core, Core.mk.injEq] <;> simp [↓core_held, ↓core_mk, core_eqs]; done)))); rfl) | (simp (disch := (intros; (repeat' split) <;> (first | rfl | (simp; done) | (simp only [State.core, Core.mk.injEq] <;> simp [↓core_held, ↓core_mk, core_eqs]; done) | (simp; rfl) | (simp; simp only [State.core, Core.mk.injEq] <;> simp [↓core_held, ↓core_mk, core_eqs]; done)))); simp only [State.core, Core.mk.injEq] <;> simp [↓core_held, ↓core_mk, core_eqs]; done) | (dsimp only; simp (disch := (intros; (repeat' split) <;> (first | rfl | (simp; done) | (simp only [State.core, Core.mk.injEq] <;> simp [↓core_held, ↓core_mk, core_eqs]; done) | (simp; rfl) | (simp; simp only [State.core, Core.mk.injEq] <;> simp [↓core_held, ↓core_mk, core_eqs]; done)))); simp only [State.core, Core.mk.injEq] <;> simp [↓core_held, ↓core_mk, core_eqs]; done)

theorem execSetPort_core (ned port : Nat) (mac : Option (BitVec 48)) (template : Option Nat) (ptp : Option Bool) (eq : Option Nat)
    (store : Bool) (ln : Ln) (s : State) :
    ∃ next, execSetPort ned port mac template ptp eq store ln s = .next next ∧ next.core = (s.tick ln.t).core := by
  refine ⟨_, rfl, State.judged_core _ _ _ _ _ fun u => ?_⟩
  refine State.inRange_core _ _ _ _ _ _ _ ?_
  dsimp only
  split
  · simp
  · refine State.inRange_core _ _ _ _ _ _ _ ?_
    split
    · simp
    · split
      · simp
      · split
        · simp
        · rename_i h
          simp only [State.await_core]
          split
          · rename_i hs
            rw [State.storePort_core]
            · simp
            · rw [frozen_of_core (State.beginDrain_core _ _ _ _)]
              simp [hs, State.flashTakes] at h
              exact h.2
          · simp

theorem execEnablePort_core (ned port : Nat) (ln : Ln) (s : State) :
    ∃ next, execEnablePort ned port ln s = .next next ∧ next.core = (s.tick ln.t).core := by
  refine ⟨_, rfl, ?_⟩
  apply State.judged_core
  intro u
  (repeat' split) <;> first | rfl | (simp; done) | (simp only [State.core, Core.mk.injEq] <;> simp [↓core_held, ↓core_mk, core_eqs]; done)

theorem execDisablePort_core (ned port : Nat) (ln : Ln) (s : State) :
    ∃ next, execDisablePort ned port ln s = .next next ∧ next.core = (s.tick ln.t).core := by
  refine ⟨_, rfl, ?_⟩
  apply State.judged_core
  intro u
  (repeat' split) <;> first | rfl | (simp; done) | (simp only [State.core, Core.mk.injEq] <;> simp [↓core_held, ↓core_mk, core_eqs]; done)

theorem execSetTemplate_core (ned index : Nat) (a : TemplateArgs) (ln : Ln) (s : State) :
    ∃ next, execSetTemplate ned index a ln s = .next next ∧ next.core = (s.tick ln.t).core := by
  refine ⟨_, rfl, ?_⟩
  apply State.judged_core
  intro u
  (repeat' first | (refine State.inRange_core _ _ _ _ _ _ _ ?_) | (refine State.onFold_core _ _ _ _ ?_) | (refine State.onChannel_core _ _ _ _ ?_) | (refine State.guard_core _ _ _ _ ?_) | intro _ | split) <;> first | rfl | (simp; done) | (simp only [State.core, Core.mk.injEq] <;> simp [↓core_held, ↓core_mk, core_eqs]; done) | (simp; rfl) | (simp; simp only [State.core, Core.mk.injEq] <;> simp [↓core_held, ↓core_mk, core_eqs]; done) | (dsimp only; simp; done) | (simp (disch := (intros; (repeat' split) <;> (first | rfl | (simp; done) | (simp only [State.core, Core.mk.injEq] <;> simp [↓core_held, ↓core_mk, core_eqs]; done) | (simp; rfl) | (simp; simp only [State.core, Core.mk.injEq] <;> simp [↓core_held, ↓core_mk, core_eqs]; done)))); done) | (dsimp only; simp (disch := (intros; (repeat' split) <;> (first | rfl | (simp; done) | (simp only [State.core, Core.mk.injEq] <;> simp [↓core_held, ↓core_mk, core_eqs]; done) | (simp; rfl) | (simp; simp only [State.core, Core.mk.injEq] <;> simp [↓core_held, ↓core_mk, core_eqs]; done)))); done) | (simp (disch := (intros; (repeat' split) <;> (first | rfl | (simp; done) | (simp only [State.core, Core.mk.injEq] <;> simp [↓core_held, ↓core_mk, core_eqs]; done) | (simp; rfl) | (simp; simp only [State.core, Core.mk.injEq] <;> simp [↓core_held, ↓core_mk, core_eqs]; done)))); rfl) | (simp (disch := (intros; (repeat' split) <;> (first | rfl | (simp; done) | (simp only [State.core, Core.mk.injEq] <;> simp [↓core_held, ↓core_mk, core_eqs]; done) | (simp; rfl) | (simp; simp only [State.core, Core.mk.injEq] <;> simp [↓core_held, ↓core_mk, core_eqs]; done)))); simp only [State.core, Core.mk.injEq] <;> simp [↓core_held, ↓core_mk, core_eqs]; done) | (dsimp only; simp (disch := (intros; (repeat' split) <;> (first | rfl | (simp; done) | (simp only [State.core, Core.mk.injEq] <;> simp [↓core_held, ↓core_mk, core_eqs]; done) | (simp; rfl) | (simp; simp only [State.core, Core.mk.injEq] <;> simp [↓core_held, ↓core_mk, core_eqs]; done)))); simp only [State.core, Core.mk.injEq] <;> simp [↓core_held, ↓core_mk, core_eqs]; done)

theorem execSetBurst_core (ned rate depth : Nat) (ln : Ln) (s : State) :
    ∃ next, execSetBurst ned rate depth ln s = .next next ∧ next.core = (s.tick ln.t).core := by
  refine ⟨_, rfl, ?_⟩
  apply State.judged_core
  intro u
  (repeat' first | (refine State.inRange_core _ _ _ _ _ _ _ ?_) | (refine State.onFold_core _ _ _ _ ?_) | (refine State.onChannel_core _ _ _ _ ?_) | (refine State.guard_core _ _ _ _ ?_) | intro _ | split) <;> first | rfl | (simp; done) | (simp only [State.core, Core.mk.injEq] <;> simp [↓core_held, ↓core_mk, core_eqs]; done) | (simp; rfl) | (simp; simp only [State.core, Core.mk.injEq] <;> simp [↓core_held, ↓core_mk, core_eqs]; done) | (dsimp only; simp; done) | (simp (disch := (intros; (repeat' split) <;> (first | rfl | (simp; done) | (simp only [State.core, Core.mk.injEq] <;> simp [↓core_held, ↓core_mk, core_eqs]; done) | (simp; rfl) | (simp; simp only [State.core, Core.mk.injEq] <;> simp [↓core_held, ↓core_mk, core_eqs]; done)))); done) | (dsimp only; simp (disch := (intros; (repeat' split) <;> (first | rfl | (simp; done) | (simp only [State.core, Core.mk.injEq] <;> simp [↓core_held, ↓core_mk, core_eqs]; done) | (simp; rfl) | (simp; simp only [State.core, Core.mk.injEq] <;> simp [↓core_held, ↓core_mk, core_eqs]; done)))); done) | (simp (disch := (intros; (repeat' split) <;> (first | rfl | (simp; done) | (simp only [State.core, Core.mk.injEq] <;> simp [↓core_held, ↓core_mk, core_eqs]; done) | (simp; rfl) | (simp; simp only [State.core, Core.mk.injEq] <;> simp [↓core_held, ↓core_mk, core_eqs]; done)))); rfl) | (simp (disch := (intros; (repeat' split) <;> (first | rfl | (simp; done) | (simp only [State.core, Core.mk.injEq] <;> simp [↓core_held, ↓core_mk, core_eqs]; done) | (simp; rfl) | (simp; simp only [State.core, Core.mk.injEq] <;> simp [↓core_held, ↓core_mk, core_eqs]; done)))); simp only [State.core, Core.mk.injEq] <;> simp [↓core_held, ↓core_mk, core_eqs]; done) | (dsimp only; simp (disch := (intros; (repeat' split) <;> (first | rfl | (simp; done) | (simp only [State.core, Core.mk.injEq] <;> simp [↓core_held, ↓core_mk, core_eqs]; done) | (simp; rfl) | (simp; simp only [State.core, Core.mk.injEq] <;> simp [↓core_held, ↓core_mk, core_eqs]; done)))); simp only [State.core, Core.mk.injEq] <;> simp [↓core_held, ↓core_mk, core_eqs]; done)

theorem execSetPtp_core (ned port : Nat) (ln : Ln) (s : State) :
    ∃ next, execSetPtp ned port ln s = .next next ∧ next.core = (s.tick ln.t).core := by
  refine ⟨_, rfl, ?_⟩
  apply State.judged_core
  intro u
  (repeat' first | (refine State.inRange_core _ _ _ _ _ _ _ ?_) | (refine State.onFold_core _ _ _ _ ?_) | (refine State.onChannel_core _ _ _ _ ?_) | (refine State.guard_core _ _ _ _ ?_) | intro _ | split) <;> first | rfl | (simp; done) | (simp only [State.core, Core.mk.injEq] <;> simp [↓core_held, ↓core_mk, core_eqs]; done) | (simp; rfl) | (simp; simp only [State.core, Core.mk.injEq] <;> simp [↓core_held, ↓core_mk, core_eqs]; done) | (dsimp only; simp; done) | (simp (disch := (intros; (repeat' split) <;> (first | rfl | (simp; done) | (simp only [State.core, Core.mk.injEq] <;> simp [↓core_held, ↓core_mk, core_eqs]; done) | (simp; rfl) | (simp; simp only [State.core, Core.mk.injEq] <;> simp [↓core_held, ↓core_mk, core_eqs]; done)))); done) | (dsimp only; simp (disch := (intros; (repeat' split) <;> (first | rfl | (simp; done) | (simp only [State.core, Core.mk.injEq] <;> simp [↓core_held, ↓core_mk, core_eqs]; done) | (simp; rfl) | (simp; simp only [State.core, Core.mk.injEq] <;> simp [↓core_held, ↓core_mk, core_eqs]; done)))); done) | (simp (disch := (intros; (repeat' split) <;> (first | rfl | (simp; done) | (simp only [State.core, Core.mk.injEq] <;> simp [↓core_held, ↓core_mk, core_eqs]; done) | (simp; rfl) | (simp; simp only [State.core, Core.mk.injEq] <;> simp [↓core_held, ↓core_mk, core_eqs]; done)))); rfl) | (simp (disch := (intros; (repeat' split) <;> (first | rfl | (simp; done) | (simp only [State.core, Core.mk.injEq] <;> simp [↓core_held, ↓core_mk, core_eqs]; done) | (simp; rfl) | (simp; simp only [State.core, Core.mk.injEq] <;> simp [↓core_held, ↓core_mk, core_eqs]; done)))); simp only [State.core, Core.mk.injEq] <;> simp [↓core_held, ↓core_mk, core_eqs]; done) | (dsimp only; simp (disch := (intros; (repeat' split) <;> (first | rfl | (simp; done) | (simp only [State.core, Core.mk.injEq] <;> simp [↓core_held, ↓core_mk, core_eqs]; done) | (simp; rfl) | (simp; simp only [State.core, Core.mk.injEq] <;> simp [↓core_held, ↓core_mk, core_eqs]; done)))); simp only [State.core, Core.mk.injEq] <;> simp [↓core_held, ↓core_mk, core_eqs]; done)

theorem execSetBucket_core (ned index fold rate depth : Nat) (burst pen : Option Bool) (ln : Ln) (s : State) :
    ∃ next, execSetBucket ned index fold rate depth burst pen ln s = .next next ∧ next.core = (s.tick ln.t).core := by
  refine ⟨_, rfl, ?_⟩
  apply State.judged_core
  intro u
  (repeat' first | (refine State.inRange_core _ _ _ _ _ _ _ ?_) | (refine State.onFold_core _ _ _ _ ?_) | (refine State.onChannel_core _ _ _ _ ?_) | (refine State.guard_core _ _ _ _ ?_) | intro _ | split) <;> first | rfl | (simp; done) | (simp only [State.core, Core.mk.injEq] <;> simp [↓core_held, ↓core_mk, core_eqs]; done) | (simp; rfl) | (simp; simp only [State.core, Core.mk.injEq] <;> simp [↓core_held, ↓core_mk, core_eqs]; done) | (dsimp only; simp; done) | (simp (disch := (intros; (repeat' split) <;> (first | rfl | (simp; done) | (simp only [State.core, Core.mk.injEq] <;> simp [↓core_held, ↓core_mk, core_eqs]; done) | (simp; rfl) | (simp; simp only [State.core, Core.mk.injEq] <;> simp [↓core_held, ↓core_mk, core_eqs]; done)))); done) | (dsimp only; simp (disch := (intros; (repeat' split) <;> (first | rfl | (simp; done) | (simp only [State.core, Core.mk.injEq] <;> simp [↓core_held, ↓core_mk, core_eqs]; done) | (simp; rfl) | (simp; simp only [State.core, Core.mk.injEq] <;> simp [↓core_held, ↓core_mk, core_eqs]; done)))); done) | (simp (disch := (intros; (repeat' split) <;> (first | rfl | (simp; done) | (simp only [State.core, Core.mk.injEq] <;> simp [↓core_held, ↓core_mk, core_eqs]; done) | (simp; rfl) | (simp; simp only [State.core, Core.mk.injEq] <;> simp [↓core_held, ↓core_mk, core_eqs]; done)))); rfl) | (simp (disch := (intros; (repeat' split) <;> (first | rfl | (simp; done) | (simp only [State.core, Core.mk.injEq] <;> simp [↓core_held, ↓core_mk, core_eqs]; done) | (simp; rfl) | (simp; simp only [State.core, Core.mk.injEq] <;> simp [↓core_held, ↓core_mk, core_eqs]; done)))); simp only [State.core, Core.mk.injEq] <;> simp [↓core_held, ↓core_mk, core_eqs]; done) | (dsimp only; simp (disch := (intros; (repeat' split) <;> (first | rfl | (simp; done) | (simp only [State.core, Core.mk.injEq] <;> simp [↓core_held, ↓core_mk, core_eqs]; done) | (simp; rfl) | (simp; simp only [State.core, Core.mk.injEq] <;> simp [↓core_held, ↓core_mk, core_eqs]; done)))); simp only [State.core, Core.mk.injEq] <;> simp [↓core_held, ↓core_mk, core_eqs]; done)

theorem execShowBucket_core (ned index : Nat) (ln : Ln) (s : State) :
    ∃ next, execShowBucket ned index ln s = .next next ∧ next.core = (s.tick ln.t).core := by
  refine ⟨_, rfl, ?_⟩
  apply State.judged_core
  intro u
  (repeat' split) <;> first | rfl | (simp; done) | (simp only [State.core, Core.mk.injEq] <;> simp [↓core_held, ↓core_mk, core_eqs]; done)

theorem execFlockFormation_core (members : List MemberInfo) (t : Time) (s : State) :
    ∃ next, execFlockFormation members t s = .next next ∧ next.core = (s.tick t).core := by
  refine ⟨_, rfl, ?_⟩
  apply State.event_core
  intro g
  (repeat' split) <;> first | rfl | (simp; done) | (simp only [State.core, Core.mk.injEq] <;> simp [↓core_held, ↓core_mk, core_eqs]; done)

theorem execCreateFold_core (a : FoldArgs) (ln : Ln) (s : State) :
    ∃ next, execCreateFold a ln s = .next next ∧ next.core = (s.tick ln.t).core := by
  refine ⟨_, rfl, State.judged_core _ _ _ _ _ fun u => State.guard_core _ _ _ _ ?_⟩
  split
  · simp
  · rename_i h
    rw [State.creationEnds_core, State.await_core, State.mirror_core, State.enterFold_core, State.leaseAll_core h]

theorem execResizeFold_core (id : Nat) (a : ResizeArgs) (ln : Ln) (s : State) :
    ∃ next, execResizeFold id a ln s = .next next ∧ next.core = (s.tick ln.t).core := by
  refine ⟨_, rfl, State.judged_core _ _ _ _ _ fun u => State.onFold_core _ _ _ _ fun f => State.guard_core _ _ _ _ ?_⟩
  split
  · simp
  · rename_i h
    dsimp only
    rw [State.ok_core, State.mirror_core, State.resizeTo_core, State.leaseAll_core h]

theorem execDestroyFold_core (id : Nat) (ln : Ln) (s : State) :
    ∃ next, execDestroyFold id ln s = .next next ∧ next.core = (s.tick ln.t).core := by
  refine ⟨_, rfl, ?_⟩
  apply State.judged_core
  intro u
  (repeat' split) <;> first | rfl | (simp; done) | (simp only [State.core, Core.mk.injEq] <;> simp [↓core_held, ↓core_mk, core_eqs]; done)

theorem execReleaseDrainExpiry_core (fold : Nat) (t : Time) (s : State) :
    ∃ next, execReleaseDrainExpiry fold t s = .next next ∧ next.core = (s.tick t).core := by
  refine ⟨_, rfl, ?_⟩
  apply State.event_core
  intro g
  (repeat' split) <;> first | rfl | (simp; done) | (simp only [State.core, Core.mk.injEq] <;> simp [↓core_held, ↓core_mk, core_eqs]; done)

theorem execScrubRecord_core (fold : Nat) (t : Time) (s : State) :
    ∃ next, execScrubRecord fold t s = .next next ∧ next.core = (s.tick t).core := by
  refine ⟨_, rfl, ?_⟩
  apply State.event_core
  intro g
  (repeat' split) <;> first | rfl | (simp; done) | (simp only [State.core, Core.mk.injEq] <;> simp [↓core_held, ↓core_mk, core_eqs]; done)

theorem execSetFold_core (id : Nat) (ckpt : Option (Option Nat)) (pen weight : Option Nat) (ln : Ln) (s : State) :
    ∃ next, execSetFold id ckpt pen weight ln s = .next next ∧ next.core = (s.tick ln.t).core := by
  refine ⟨_, rfl, ?_⟩
  apply State.judged_core
  intro u
  (repeat' split) <;> first | rfl | (simp; done) | (simp only [State.core, Core.mk.injEq] <;> simp [↓core_held, ↓core_mk, core_eqs]; done)

theorem execSetRotation_core (med : Nat) (slots : Option (List Nat)) (ln : Ln) (s : State) :
    ∃ next, execSetRotation med slots ln s = .next next ∧ next.core = (s.tick ln.t).core := by
  refine ⟨_, rfl, ?_⟩
  apply State.judged_core
  intro u
  (repeat' split) <;> first | rfl | (simp; done) | (simp only [State.core, Core.mk.injEq] <;> simp [↓core_held, ↓core_mk, core_eqs]; done)

theorem execShowFold_core (id : Nat) (ln : Ln) (s : State) :
    ∃ next, execShowFold id ln s = .next next ∧ next.core = (s.tick ln.t).core := by
  refine ⟨_, rfl, ?_⟩
  apply State.judged_core
  intro u
  (repeat' split) <;> first | rfl | (simp; done) | (simp only [State.core, Core.mk.injEq] <;> simp [↓core_held, ↓core_mk, core_eqs]; done)

theorem execShowFolds_core (ln : Ln) (s : State) :
    ∃ next, execShowFolds ln s = .next next ∧ next.core = (s.tick ln.t).core := by
  refine ⟨_, rfl, ?_⟩
  apply State.judged_core
  intro u
  (repeat' split) <;> first | rfl | (simp; done) | (simp only [State.core, Core.mk.injEq] <;> simp [↓core_held, ↓core_mk, core_eqs]; done)

theorem execShowKeys_core (fold : Nat) (ln : Ln) (s : State) :
    ∃ next, execShowKeys fold ln s = .next next ∧ next.core = (s.tick ln.t).core := by
  refine ⟨_, rfl, ?_⟩
  apply State.judged_core
  intro u
  (repeat' split) <;> first | rfl | (simp; done) | (simp only [State.core, Core.mk.injEq] <;> simp [↓core_held, ↓core_mk, core_eqs]; done)

theorem execExportKey_core (fold : Nat) (ln : Ln) (s : State) :
    ∃ next, execExportKey fold ln s = .next next ∧ next.core = (s.tick ln.t).core := by
  refine ⟨_, rfl, ?_⟩
  apply State.judged_core
  intro u
  (repeat' split) <;> first | rfl | (simp; done) | (simp only [State.core, Core.mk.injEq] <;> simp [↓core_held, ↓core_mk, core_eqs]; done)

theorem execCreateChannel_core (fold entry : Nat) (index : Option Nat) (ticket : Option (BitVec 32)) (deadline : Option Nat)
    (spec : Option Bool) (bind : List BindArg) (ln : Ln) (s : State) :
    ∃ next, execCreateChannel fold entry index ticket deadline spec bind ln s = .next next ∧ next.core = (s.tick ln.t).core := by
  refine ⟨_, rfl, State.judged_core _ _ _ _ _ fun u => State.onFold_core _ _ _ _ fun f => ?_⟩
  split
  · simp
  · split
    · simp
    · split
      · simp
      · split
        · simp
        · split
          · simp
          · refine State.guard_core _ _ _ _ ?_
            split
            · simp
            · rename_i h
              rw [State.ok_core, State.mirror_core, State.clearTallies_core, State.putChannel_core, State.bindAll_core h,
                State.emptyClosed_core]
              split <;> rfl

theorem execBindChannel_core (handle : BitVec 32) (add : BindArg) (ln : Ln) (s : State) :
    ∃ next, execBindChannel handle add ln s = .next next ∧ next.core = (s.tick ln.t).core := by
  refine ⟨_, rfl, State.judged_core _ _ _ _ _ fun u => State.onChannel_core _ _ _ _ fun c => ?_⟩
  split
  · simp
  · with_reducible apply ite_eq
    · simp
    · with_reducible apply ite_eq
      · simp
      · split
        · simp
        · dsimp only
          split
          · simp
          · rename_i h
            rw [State.ok_core, State.mirror_core, State.putChannel_core]
            exact State.bindOne_core h

theorem execUnbindChannel_core (handle : BitVec 32) (ned port : Nat) (ln : Ln) (s : State) :
    ∃ next, execUnbindChannel handle ned port ln s = .next next ∧ next.core = (s.tick ln.t).core := by
  refine ⟨_, rfl, ?_⟩
  apply State.judged_core
  intro u
  (repeat' first | (refine State.inRange_core _ _ _ _ _ _ _ ?_) | (refine State.onFold_core _ _ _ _ ?_) | (refine State.onChannel_core _ _ _ _ ?_) | (refine State.guard_core _ _ _ _ ?_) | intro _ | split) <;> first | rfl | (simp; done) | (simp only [State.core, Core.mk.injEq] <;> simp [↓core_held, ↓core_mk, core_eqs]; done) | (simp; rfl) | (simp; simp only [State.core, Core.mk.injEq] <;> simp [↓core_held, ↓core_mk, core_eqs]; done) | (dsimp only; simp; done) | (simp (disch := (intros; (repeat' split) <;> (first | rfl | (simp; done) | (simp only [State.core, Core.mk.injEq] <;> simp [↓core_held, ↓core_mk, core_eqs]; done) | (simp; rfl) | (simp; simp only [State.core, Core.mk.injEq] <;> simp [↓core_held, ↓core_mk, core_eqs]; done)))); done) | (dsimp only; simp (disch := (intros; (repeat' split) <;> (first | rfl | (simp; done) | (simp only [State.core, Core.mk.injEq] <;> simp [↓core_held, ↓core_mk, core_eqs]; done) | (simp; rfl) | (simp; simp only [State.core, Core.mk.injEq] <;> simp [↓core_held, ↓core_mk, core_eqs]; done)))); done) | (simp (disch := (intros; (repeat' split) <;> (first | rfl | (simp; done) | (simp only [State.core, Core.mk.injEq] <;> simp [↓core_held, ↓core_mk, core_eqs]; done) | (simp; rfl) | (simp; simp only [State.core, Core.mk.injEq] <;> simp [↓core_held, ↓core_mk, core_eqs]; done)))); rfl) | (simp (disch := (intros; (repeat' split) <;> (first | rfl | (simp; done) | (simp only [State.core, Core.mk.injEq] <;> simp [↓core_held, ↓core_mk, core_eqs]; done) | (simp; rfl) | (simp; simp only [State.core, Core.mk.injEq] <;> simp [↓core_held, ↓core_mk, core_eqs]; done)))); simp only [State.core, Core.mk.injEq] <;> simp [↓core_held, ↓core_mk, core_eqs]; done) | (dsimp only; simp (disch := (intros; (repeat' split) <;> (first | rfl | (simp; done) | (simp only [State.core, Core.mk.injEq] <;> simp [↓core_held, ↓core_mk, core_eqs]; done) | (simp; rfl) | (simp; simp only [State.core, Core.mk.injEq] <;> simp [↓core_held, ↓core_mk, core_eqs]; done)))); simp only [State.core, Core.mk.injEq] <;> simp [↓core_held, ↓core_mk, core_eqs]; done)

theorem execDestroyChannel_core (handle : BitVec 32) (ln : Ln) (s : State) :
    ∃ next, execDestroyChannel handle ln s = .next next ∧ next.core = (s.tick ln.t).core := by
  refine ⟨_, rfl, ?_⟩
  apply State.judged_core
  intro u
  (repeat' split) <;> first | rfl | (simp; done) | (simp only [State.core, Core.mk.injEq] <;> simp [↓core_held, ↓core_mk, core_eqs]; done)

theorem execShowChannel_core (handle : Sum (BitVec 32) Nat) (ln : Ln) (s : State) :
    ∃ next, execShowChannel handle ln s = .next next ∧ next.core = (s.tick ln.t).core := by
  refine ⟨_, rfl, ?_⟩
  apply State.judged_core
  intro u
  (repeat' split) <;> first | rfl | (simp; done) | (simp only [State.core, Core.mk.injEq] <;> simp [↓core_held, ↓core_mk, core_eqs]; done)

theorem execOpenSession_core (fold num anchor cls cap : Nat) (ln : Ln) (s : State) :
    ∃ next, execOpenSession fold num anchor cls cap ln s = .next next ∧ next.core = (s.tick ln.t).core := by
  refine ⟨_, rfl, ?_⟩
  apply State.judged_core
  intro u
  (repeat' first | (refine State.inRange_core _ _ _ _ _ _ _ ?_) | (refine State.onFold_core _ _ _ _ ?_) | (refine State.onChannel_core _ _ _ _ ?_) | (refine State.guard_core _ _ _ _ ?_) | intro _ | split) <;> first | rfl | (simp; done) | (simp only [State.core, Core.mk.injEq] <;> simp [↓core_held, ↓core_mk, core_eqs]; done) | (simp; rfl) | (simp; simp only [State.core, Core.mk.injEq] <;> simp [↓core_held, ↓core_mk, core_eqs]; done) | (dsimp only; simp; done) | (simp (disch := (intros; (repeat' split) <;> (first | rfl | (simp; done) | (simp only [State.core, Core.mk.injEq] <;> simp [↓core_held, ↓core_mk, core_eqs]; done) | (simp; rfl) | (simp; simp only [State.core, Core.mk.injEq] <;> simp [↓core_held, ↓core_mk, core_eqs]; done)))); done) | (dsimp only; simp (disch := (intros; (repeat' split) <;> (first | rfl | (simp; done) | (simp only [State.core, Core.mk.injEq] <;> simp [↓core_held, ↓core_mk, core_eqs]; done) | (simp; rfl) | (simp; simp only [State.core, Core.mk.injEq] <;> simp [↓core_held, ↓core_mk, core_eqs]; done)))); done) | (simp (disch := (intros; (repeat' split) <;> (first | rfl | (simp; done) | (simp only [State.core, Core.mk.injEq] <;> simp [↓core_held, ↓core_mk, core_eqs]; done) | (simp; rfl) | (simp; simp only [State.core, Core.mk.injEq] <;> simp [↓core_held, ↓core_mk, core_eqs]; done)))); rfl) | (simp (disch := (intros; (repeat' split) <;> (first | rfl | (simp; done) | (simp only [State.core, Core.mk.injEq] <;> simp [↓core_held, ↓core_mk, core_eqs]; done) | (simp; rfl) | (simp; simp only [State.core, Core.mk.injEq] <;> simp [↓core_held, ↓core_mk, core_eqs]; done)))); simp only [State.core, Core.mk.injEq] <;> simp [↓core_held, ↓core_mk, core_eqs]; done) | (dsimp only; simp (disch := (intros; (repeat' split) <;> (first | rfl | (simp; done) | (simp only [State.core, Core.mk.injEq] <;> simp [↓core_held, ↓core_mk, core_eqs]; done) | (simp; rfl) | (simp; simp only [State.core, Core.mk.injEq] <;> simp [↓core_held, ↓core_mk, core_eqs]; done)))); simp only [State.core, Core.mk.injEq] <;> simp [↓core_held, ↓core_mk, core_eqs]; done)

theorem execCloseSession_core (fold num : Nat) (ln : Ln) (s : State) :
    ∃ next, execCloseSession fold num ln s = .next next ∧ next.core = (s.tick ln.t).core := by
  refine ⟨_, rfl, ?_⟩
  apply State.judged_core
  intro u
  (repeat' split) <;> first | rfl | (simp; done) | (simp only [State.core, Core.mk.injEq] <;> simp [↓core_held, ↓core_mk, core_eqs]; done)

theorem execSessionCloseComplete_core (num : Nat) (t : Time) (s : State) :
    ∃ next, execSessionCloseComplete num t s = .next next ∧ next.core = (s.tick t).core := by
  refine ⟨_, rfl, ?_⟩
  apply State.event_core
  intro g
  (repeat' split) <;> first | rfl | (simp; done) | (simp only [State.core, Core.mk.injEq] <;> simp [↓core_held, ↓core_mk, core_eqs]; done)

theorem execShowSession_core (num : Nat) (ln : Ln) (s : State) :
    ∃ next, execShowSession num ln s = .next next ∧ next.core = (s.tick ln.t).core := by
  refine ⟨_, rfl, ?_⟩
  apply State.judged_core
  intro u
  (repeat' split) <;> first | rfl | (simp; done) | (simp only [State.core, Core.mk.injEq] <;> simp [↓core_held, ↓core_mk, core_eqs]; done)

theorem execLoadFold_core (id stage : Nat) (overlap : Bool) (limit : Option Nat) (ln : Ln) (s : State) :
    ∃ next, execLoadFold id stage overlap limit ln s = .next next ∧ next.core = (s.tick ln.t).core := by
  refine ⟨_, rfl, ?_⟩
  apply State.judged_core
  intro u
  (repeat' split) <;> first | rfl | (simp; done) | (simp only [State.core, Core.mk.injEq] <;> simp [↓core_held, ↓core_mk, core_eqs]; done)

theorem execLoadStart_core (fold : Nat) (t : Time) (s : State) :
    ∃ next, execLoadStart fold t s = .next next ∧ next.core = (s.tick t).core := by
  refine ⟨_, rfl, ?_⟩
  apply State.event_core
  intro g
  (repeat' split) <;> first | rfl | (simp; done) | (simp only [State.core, Core.mk.injEq] <;> simp [↓core_held, ↓core_mk, core_eqs]; done)

theorem execLoadDrainComplete_core (fold : Nat) (t : Time) (s : State) :
    ∃ next, execLoadDrainComplete fold t s = .next next ∧ next.core = (s.tick t).core := by
  refine ⟨_, rfl, ?_⟩
  apply State.event_core
  intro g
  (repeat' split) <;> first | rfl | (simp; done) | (simp only [State.core, Core.mk.injEq] <;> simp [↓core_held, ↓core_mk, core_eqs]; done)

theorem execLoadDrainExpiry_core (fold : Nat) (t : Time) (s : State) :
    ∃ next, execLoadDrainExpiry fold t s = .next next ∧ next.core = (s.tick t).core := by
  refine ⟨_, rfl, ?_⟩
  apply State.event_core
  intro g
  (repeat' split) <;> first | rfl | (simp; done) | (simp only [State.core, Core.mk.injEq] <;> simp [↓core_held, ↓core_mk, core_eqs]; done)

theorem execLoadDecryptComplete_core (fold : Nat) (t : Time) (s : State) :
    ∃ next, execLoadDecryptComplete fold t s = .next next ∧ next.core = (s.tick t).core := by
  refine ⟨_, rfl, ?_⟩
  apply State.event_core
  intro g
  (repeat' split) <;> first | rfl | (simp; done) | (simp only [State.core, Core.mk.injEq] <;> simp [↓core_held, ↓core_mk, core_eqs]; done)

theorem execCommitConfirmed_core (fold : Nat) (t : Time) (s : State) :
    ∃ next, execCommitConfirmed fold t s = .next next ∧ next.core = (s.tick t).core := by
  refine ⟨_, rfl, ?_⟩
  apply State.event_core
  intro g
  (repeat' split) <;> first | rfl | (simp; done) | (simp only [State.core, Core.mk.injEq] <;> simp [↓core_held, ↓core_mk, core_eqs]; done)

theorem execContextStage_core (fold : Nat) (n : Pad) (k : CtxIx) (t : Time) (s : State) :
    ∃ next, execContextStage fold n k t s = .next next ∧ next.core = (s.tick t).core := by
  refine ⟨_, rfl, ?_⟩
  apply State.event_core
  intro g
  (repeat' split) <;> first | rfl | (simp; done) | (simp only [State.core, Core.mk.injEq] <;> simp [↓core_held, ↓core_mk, core_eqs]; done)

theorem execStageWaitExpiry_core (fold : Nat) (t : Time) (s : State) :
    ∃ next, execStageWaitExpiry fold t s = .next next ∧ next.core = (s.tick t).core := by
  refine ⟨_, rfl, ?_⟩
  apply State.event_core
  intro g
  (repeat' split) <;> first | rfl | (simp; done) | (simp only [State.core, Core.mk.injEq] <;> simp [↓core_held, ↓core_mk, core_eqs]; done)

theorem execStandbyConfirmed_core (fold : Nat) (t : Time) (s : State) :
    ∃ next, execStandbyConfirmed fold t s = .next next ∧ next.core = (s.tick t).core := by
  refine ⟨_, rfl, ?_⟩
  apply State.event_core
  intro g
  (repeat' split) <;> first | rfl | (simp; done) | (simp only [State.core, Core.mk.injEq] <;> simp [↓core_held, ↓core_mk, core_eqs]; done)

theorem execTransitionStart_core (fold : Nat) (t : Time) (s : State) :
    ∃ next, execTransitionStart fold t s = .next next ∧ next.core = (s.tick t).core := by
  refine ⟨_, rfl, ?_⟩
  apply State.event_core
  intro g
  (repeat' split) <;> first | rfl | (simp; done) | (simp only [State.core, Core.mk.injEq] <;> simp [↓core_held, ↓core_mk, core_eqs]; done)

theorem execBellwetherArrival_core (n : Pad) (k : CtxIx) (t : Time) (s : State) :
    ∃ next, execBellwetherArrival n k t s = .next next ∧ next.core = (s.tick t).core := by
  refine ⟨_, rfl, ?_⟩
  apply State.event_core
  intro g
  dsimp only
  (repeat' split) <;> first | rfl | (simp; done) | (simp only [State.core, Core.mk.injEq] <;> simp [↓core_held, ↓core_mk, core_eqs]; done)

theorem execNedBellwether_core (k : NedIx) (e : Fin 2) (lane : Lane) (vc : Bool) (t : Time) (s : State) :
    ∃ next, execNedBellwether k e lane vc t s = .next next ∧ next.core = (s.tick t).core := by
  refine ⟨_, rfl, ?_⟩
  apply State.event_core
  intro g
  dsimp only
  (repeat' split) <;> first | rfl | (simp; done) | (simp only [State.core, Core.mk.injEq] <;> simp [↓core_held, ↓core_mk, core_eqs]; done)

theorem execSwitchLimitExpiry_core (fold : Nat) (t : Time) (s : State) :
    ∃ next, execSwitchLimitExpiry fold t s = .next next ∧ next.core = (s.tick t).core := by
  refine ⟨_, rfl, ?_⟩
  apply State.event_core
  intro g
  (repeat' split) <;> first | rfl | (simp; done) | (simp only [State.core, Core.mk.injEq] <;> simp [↓core_held, ↓core_mk, core_eqs]; done)

end Sys2Proof.Machine
end

