-- ==== Sys2Proof/Laws/ExecB.lean ====
section
/-! SUPPORT. What the commands of ledger, recovery, bring-up, shepherd, console, thermal, map and registers leave alone: every one
answers a next state, and of the core only the moment moves. -/
namespace Sys2Proof.Machine

open Sys2Proof

set_option linter.all false

theorem execLedgerIntervalEnd_core (fold : Nat) (readBack : List Bool) (t : Time) (s : State) :
    ∃ next, execLedgerIntervalEnd fold readBack t s = .next next ∧ next.core = (s.tick t).core := by
  refine ⟨_, rfl, ?_⟩
  apply State.event_core
  intro g
  (repeat' split) <;> first | rfl | (simp; done) | (simp only [State.core, Core.mk.injEq] <;> simp [↓core_held, ↓core_mk, core_eqs]; done)

theorem execLedgerRingRetry_core (readBack : List Bool) (t : Time) (s : State) :
    ∃ next, execLedgerRingRetry readBack t s = .next next ∧ next.core = (s.tick t).core := by
  refine ⟨_, rfl, State.event_core _ _ _ _ fun g => ?_⟩
  have f : (s.tick t).frozen = false := by
    simp only [Bool.and_eq_true, Bool.not_eq_true'] at g
    exact g.1.2
  dsimp only
  with_reducible apply ite_eq
  · rw [State.ring_core]
    refine foldl_inv (P := fun (u : State) => u.core = (s.tick t).core) _ rfl (fun u r h => ?_)
    rw [State.ringPut_core, h]
    rw [frozen_of_core h, f]
  · exact setFlash_core _ f

theorem execLeaseSecond_core (t : Time) (s : State) :
    ∃ next, execLeaseSecond t s = .next next ∧ next.core = (s.tick t).core := by
  refine ⟨_, rfl, ?_⟩
  apply State.event_core
  intro g
  (repeat' split) <;> first | rfl | (simp; done) | (simp only [State.core, Core.mk.injEq] <;> simp [↓core_held, ↓core_mk, core_eqs]; done)

theorem execPtpSilence_core (t : Time) (s : State) :
    ∃ next, execPtpSilence t s = .next next ∧ next.core = (s.tick t).core := by
  refine ⟨_, rfl, ?_⟩
  apply State.event_core
  intro g
  (repeat' split) <;> first | rfl | (simp; done) | (simp only [State.core, Core.mk.injEq] <;> simp [↓core_held, ↓core_mk, core_eqs]; done)

theorem execShowTally_core (scope : Scope) (id : Nat) (name : Option Nat) (ln : Ln) (s : State) :
    ∃ next, execShowTally scope id name ln s = .next next ∧ next.core = (s.tick ln.t).core := by
  refine ⟨_, rfl, ?_⟩
  apply State.judged_core
  intro u
  (repeat' split) <;> first | rfl | (simp; done) | (simp only [State.core, Core.mk.injEq] <;> simp [↓core_held, ↓core_mk, core_eqs]; done)

theorem execShowBells_core (since : Option Nat) (fault : Option Bool) (count : Option Nat) (ln : Ln) (s : State) :
    ∃ next, execShowBells since fault count ln s = .next next ∧ next.core = (s.tick ln.t).core := by
  refine ⟨_, rfl, ?_⟩
  apply State.judged_core
  intro u
  (repeat' split) <;> first | rfl | (simp; done) | (simp only [State.core, Core.mk.injEq] <;> simp [↓core_held, ↓core_mk, core_eqs]; done)

theorem execShowLedger_core (fold : Nat) (since : Option Nat) (count : Option Nat) (ln : Ln) (s : State) :
    ∃ next, execShowLedger fold since count ln s = .next next ∧ next.core = (s.tick ln.t).core := by
  refine ⟨_, rfl, ?_⟩
  apply State.judged_core
  intro u
  (repeat' split) <;> first | rfl | (simp; done) | (simp only [State.core, Core.mk.injEq] <;> simp [↓core_held, ↓core_mk, core_eqs]; done)

theorem execVerifyLedger_core (data : List Byte) (ln : Ln) (s : State) :
    ∃ next, execVerifyLedger data ln s = .next next ∧ next.core = (s.tick ln.t).core := by
  refine ⟨_, rfl, ?_⟩
  apply State.judged_core
  intro u
  (repeat' split) <;> first | rfl | (simp; done) | (simp only [State.core, Core.mk.injEq] <;> simp [↓core_held, ↓core_mk, core_eqs]; done)

theorem execCheckpointDue_core (fold : Nat) (t : Time) (s : State) :
    ∃ next, execCheckpointDue fold t s = .next next ∧ next.core = (s.tick t).core := by
  refine ⟨_, rfl, ?_⟩
  apply State.event_core
  intro g
  (repeat' split) <;> first | rfl | (simp; done) | (simp only [State.core, Core.mk.injEq] <;> simp [↓core_held, ↓core_mk, core_eqs]; done)

theorem execMusterComplete_core (fold : Nat) (t : Time) (s : State) :
    ∃ next, execMusterComplete fold t s = .next next ∧ next.core = (s.tick t).core := by
  refine ⟨_, rfl, ?_⟩
  apply State.event_core
  intro g
  (repeat' split) <;> first | rfl | (simp; done) | (simp only [State.core, Core.mk.injEq] <;> simp [↓core_held, ↓core_mk, core_eqs]; done)

theorem execMusterTimeout_core (fold : Nat) (t : Time) (s : State) :
    ∃ next, execMusterTimeout fold t s = .next next ∧ next.core = (s.tick t).core := by
  refine ⟨_, rfl, ?_⟩
  apply State.event_core
  intro g
  (repeat' split) <;> first | rfl | (simp; done) | (simp only [State.core, Core.mk.injEq] <;> simp [↓core_held, ↓core_mk, core_eqs]; done)

theorem execCheckpointWriteDone_core (fold : Nat) (t : Time) (s : State) :
    ∃ next, execCheckpointWriteDone fold t s = .next next ∧ next.core = (s.tick t).core := by
  refine ⟨_, rfl, ?_⟩
  apply State.event_core
  intro g
  (repeat' split) <;> first | rfl | (simp; done) | (simp only [State.core, Core.mk.injEq] <;> simp [↓core_held, ↓core_mk, core_eqs]; done)

theorem execReportReceived_core (trigger : Trigger) (folds : List Nat) (place : Nat) (t : Time) (s : State) :
    ∃ next, execReportReceived trigger folds place t s = .next next ∧ next.core = (s.tick t).core := by
  refine ⟨_, rfl, ?_⟩
  apply State.event_core
  intro g
  (repeat' split) <;> first | rfl | (simp; done) | (simp only [State.core, Core.mk.injEq] <;> simp [↓core_held, ↓core_mk, core_eqs]; done)

theorem execReportResend_core (t : Time) (s : State) :
    ∃ next, execReportResend t s = .next next ∧ next.core = (s.tick t).core := by
  refine ⟨_, rfl, ?_⟩
  apply State.event_core
  intro g
  (repeat' split) <;> first | rfl | (simp; done) | (simp only [State.core, Core.mk.injEq] <;> simp [↓core_held, ↓core_mk, core_eqs]; done)

theorem execDoubtNoticeNed_core (k : NedIx) (fold : Nat) (t : Time) (s : State) :
    ∃ next, execDoubtNoticeNed k fold t s = .next next ∧ next.core = (s.tick t).core := by
  refine ⟨_, rfl, ?_⟩
  apply State.event_core
  intro g
  (repeat' split) <;> first | rfl | (simp; done) | (simp only [State.core, Core.mk.injEq] <;> simp [↓core_held, ↓core_mk, core_eqs]; done)

theorem execDoubtNoticePaddock_core (n : Pad) (fold : Nat) (t : Time) (s : State) :
    ∃ next, execDoubtNoticePaddock n fold t s = .next next ∧ next.core = (s.tick t).core := by
  refine ⟨_, rfl, State.event_core _ _ _ _ fun _ => ?_⟩
  dsimp only
  with_reducible apply ite_eq <;> simp

theorem execShearComplete_core (fold : Nat) (n : Pad) (good : Bool) (t : Time) (s : State) :
    ∃ next, execShearComplete fold n good t s = .next next ∧ next.core = (s.tick t).core := by
  refine ⟨_, rfl, ?_⟩
  apply State.event_core
  intro g
  dsimp only
  (repeat' split) <;> first | rfl | (simp; done) | (simp only [State.core, Core.mk.injEq] <;> simp [↓core_held, ↓core_mk, core_eqs]; done)

theorem execCheckpointRestoreComplete_core (fold : Nat) (good : Bool) (t : Time) (s : State) :
    ∃ next, execCheckpointRestoreComplete fold good t s = .next next ∧ next.core = (s.tick t).core := by
  refine ⟨_, rfl, ?_⟩
  apply State.event_core
  intro g
  (repeat' split) <;> first | rfl | (simp; done) | (simp only [State.core, Core.mk.injEq] <;> simp [↓core_held, ↓core_mk, core_eqs]; done)

theorem execRelocRecordWritten_core (fold : Nat) (t : Time) (s : State) :
    ∃ next, execRelocRecordWritten fold t s = .next next ∧ next.core = (s.tick t).core := by
  refine ⟨_, rfl, ?_⟩
  apply State.event_core
  intro g
  (repeat' split) <;> first | rfl | (simp; done) | (simp only [State.core, Core.mk.injEq] <;> simp [↓core_held, ↓core_mk, core_eqs]; done)

theorem execClockRelockVerdict_core (n : Pad) (locked : Option Time) (held : Bool) (t : Time) (s : State) :
    ∃ next, execClockRelockVerdict n locked held t s = .next next ∧ next.core = (s.tick t).core := by
  refine ⟨_, rfl, ?_⟩
  apply State.event_core
  intro g
  (repeat' split) <;> first | rfl | (simp; done) | (simp only [State.core, Core.mk.injEq] <;> simp [↓core_held, ↓core_mk, core_eqs]; done)

theorem execRingRelockVerdict_core (f : FieldIx) (locked : Option Time) (held : Bool) (t : Time) (s : State) :
    ∃ next, execRingRelockVerdict f locked held t s = .next next ∧ next.core = (s.tick t).core := by
  refine ⟨_, rfl, ?_⟩
  apply State.event_core
  intro g
  (repeat' split) <;> first | rfl | (simp; done) | (simp only [State.core, Core.mk.injEq] <;> simp [↓core_held, ↓core_mk, core_eqs]; done)

theorem execReferenceAbsentLong_core (edge : Option (Fin 4)) (t : Time) (s : State) :
    ∃ next, execReferenceAbsentLong edge t s = .next next ∧ next.core = (s.tick t).core := by
  refine ⟨_, rfl, ?_⟩
  apply State.event_core
  intro g
  (repeat' split) <;> first | rfl | (simp; done) | (simp only [State.core, Core.mk.injEq] <;> simp [↓core_held, ↓core_mk, core_eqs]; done)

theorem execAckFault_core (ln : Ln) (s : State) :
    ∃ next, execAckFault ln s = .next next ∧ next.core = (s.tick ln.t).core := by
  refine ⟨_, rfl, ?_⟩
  apply State.judged_core
  intro u
  (repeat' split) <;> first | rfl | (simp; done) | (simp only [State.core, Core.mk.injEq] <;> simp [↓core_held, ↓core_mk, core_eqs]; done)

theorem execRestoreDie_core (die : DieName) (passed : Bool) (ln : Ln) (s : State) :
    ∃ next, execRestoreDie die passed ln s = .next next ∧ next.core = (s.tick ln.t).core := by
  refine ⟨_, rfl, ?_⟩
  apply State.judged_core
  intro u
  (repeat' split) <;> first | rfl | (simp; done) | (simp only [State.core, Core.mk.injEq] <;> simp [↓core_held, ↓core_mk, core_eqs]; done)

theorem execRestoreLane_core (c r dir lane : Nat) (passed : Bool) (ln : Ln) (s : State) :
    ∃ next, execRestoreLane c r dir lane passed ln s = .next next ∧ next.core = (s.tick ln.t).core := by
  refine ⟨_, rfl, ?_⟩
  apply State.judged_core
  intro u
  (repeat' split) <;> first | rfl | (simp; done) | (simp only [State.core, Core.mk.injEq] <;> simp [↓core_held, ↓core_mk, core_eqs]; done)

theorem execShowLink_core (c r dir : Nat) (lane : Option Nat) (ln : Ln) (s : State) :
    ∃ next, execShowLink c r dir lane ln s = .next next ∧ next.core = (s.tick ln.t).core := by
  refine ⟨_, rfl, ?_⟩
  apply State.judged_core
  intro u
  (repeat' split) <;> first | rfl | (simp; done) | (simp only [State.core, Core.mk.injEq] <;> simp [↓core_held, ↓core_mk, core_eqs]; done)

theorem execFirmwareVerified_core (shc : ShcIx) (sigs : List Bool) (stepField : BitVec 4) (t : Time) (s : State) :
    ∃ next, execFirmwareVerified shc sigs stepField t s = .next next ∧ next.core = (s.tick t).core := by
  refine ⟨_, rfl, State.event_core _ _ _ _ fun _ => ?_⟩
  dsimp only
  have h : ∀ (u : State) (o : Option (Nat × Firmware)) (i c : Nat), (match o with
      | some p => u.modShc i fun c => c.load p.1 p.2 u.now
      | none => u.shcDoubt i c).core = u.core := by
    intro u o i c
    split <;> simp
  have b : ({ s.tick t with boot := { (s.tick t).boot with fwTried := (s.tick t).boot.fwTried ++ [shc.val] } } : State).core = (s.tick t).core := rfl
  (repeat' with_reducible apply ite_eq)
  · exact (h _ _ _ _).trans b
  · rw [State.becomeActive_core]
    exact (h _ _ _ _).trans b
  · rw [State.takeoverBell_core, State.shcDoubt_core, State.becomeActive_core]
    exact (h _ _ _ _).trans b
  · exact (h _ _ _ _).trans b

theorem execRecoveryImageReceived_core (shc : ShcIx) (image : List Byte) (sigOk : Bool) (t : Time) (s : State) :
    ∃ next, execRecoveryImageReceived shc image sigOk t s = .next next ∧ next.core = (s.tick t).core := by
  refine ⟨_, rfl, State.event_core _ _ _ _ fun _ => ?_⟩
  split
  · with_reducible apply ite_eq <;> simp
  · rfl

theorem execStagesSettled_core (failed : List Nat) (t : Time) (s : State) :
    ∃ next, execStagesSettled failed t s = .next next ∧ next.core = (s.tick t).core := by
  refine ⟨_, rfl, ?_⟩
  apply State.event_core
  intro g
  (repeat' split) <;> first | rfl | (simp; done) | (simp only [State.core, Core.mk.injEq] <;> simp [↓core_held, ↓core_mk, core_eqs]; done)

theorem execEdgeDieTestComplete_core (die : Nat) (passed : Bool) (t : Time) (s : State) :
    ∃ next, execEdgeDieTestComplete die passed t s = .next next ∧ next.core = (s.tick t).core := by
  refine ⟨_, rfl, State.event_core _ _ _ _ fun _ => ?_⟩
  dsimp only
  rw [State.endB2_core]
  (repeat' with_reducible apply ite_eq) <;> simp

theorem execReferenceWaitTimeout_core (t : Time) (s : State) :
    ∃ next, execReferenceWaitTimeout t s = .next next ∧ next.core = (s.tick t).core := by
  refine ⟨_, rfl, ?_⟩
  apply State.event_core
  intro g
  (repeat' split) <;> first | rfl | (simp; done) | (simp only [State.core, Core.mk.injEq] <;> simp [↓core_held, ↓core_mk, core_eqs]; done)

theorem execAonRailsInWindow_core (t : Time) (s : State) :
    ∃ next, execAonRailsInWindow t s = .next next ∧ next.core = (s.tick t).core := by
  refine ⟨_, rfl, State.event_core _ _ _ _ fun _ => ?_⟩
  rw [State.reinject_core]
  exact foldl_core _ (fun _ _ => by simp) _ _

theorem execCoreRailGroup_core (g : Fin 7) (t : Time) (s : State) :
    ∃ next, execCoreRailGroup g t s = .next next ∧ next.core = (s.tick t).core := by
  refine ⟨_, rfl, State.event_core _ _ _ _ fun _ => ?_⟩
  dsimp only
  generalize (List.range 12).map _ = l
  split
  · rw [State.startB4_core]
    exact foldl_core _ (fun _ _ => by split <;> simp) _ _
  · exact foldl_core _ (fun _ _ => by split <;> simp) _ _

theorem execRingWaveAdvance_core (t : Time) (s : State) :
    ∃ next, execRingWaveAdvance t s = .next next ∧ next.core = (s.tick t).core := by
  refine ⟨_, rfl, State.event_core _ _ _ _ fun _ => ?_⟩
  simp
  rfl

theorem execPaddockTestComplete_core (n : Pad) (v : PadVerdict) (t : Time) (s : State) :
    ∃ next, execPaddockTestComplete n v t s = .next next ∧ next.core = (s.tick t).core := by
  refine ⟨_, rfl, ?_⟩
  apply State.event_core
  intro g
  (repeat' split) <;> first | rfl | (simp; done) | (simp only [State.core, Core.mk.injEq] <;> simp [↓core_held, ↓core_mk, core_eqs]; done)

theorem execBorderTestComplete_core (x : EndIx) (failed : List (Fin 4)) (t : Time) (s : State) :
    ∃ next, execBorderTestComplete x failed t s = .next next ∧ next.core = (s.tick t).core := by
  refine ⟨_, rfl, ?_⟩
  apply State.event_core
  intro g
  (repeat' split) <;> first | rfl | (simp; done) | (simp only [State.core, Core.mk.injEq] <;> simp [↓core_held, ↓core_mk, core_eqs]; done)

theorem execSweep_core (t : Time) (s : State) :
    ∃ next, execSweep t s = .next next ∧ next.core = (s.tick t).core := by
  refine ⟨_, rfl, State.event_core _ _ _ _ fun _ => ?_⟩
  dsimp only
  rw [State.endB4_core]
  refine (foldl_core _ (fun u n => ?_) _ _).trans ?_
  · with_reducible apply ite_eq
    · rfl
    · with_reducible apply ite_eq
      · simp
      · rw [State.ring_core]
        exact State.makeHole_core _ _ _ _
  · rfl

theorem execBootMapAndReady_core (flashOk : Bool) (t : Time) (s : State) :
    ∃ next, execBootMapAndReady flashOk t s = .next next ∧ next.core = (s.tick t).core := by
  refine ⟨_, rfl, State.event_core _ _ _ _ fun _ => ?_⟩
  dsimp only
  split
  · rfl
  · rw [State.becomeReady_core, State.bootEntries_core]

theorem execShowEngine_core (detail : Bool) (ln : Ln) (s : State) :
    ∃ next, execShowEngine detail ln s = .next next ∧ next.core = (s.tick ln.t).core := by
  refine ⟨_, rfl, ?_⟩
  apply State.judged_core
  intro u
  (repeat' split) <;> first | rfl | (simp; done) | (simp only [State.core, Core.mk.injEq] <;> simp [↓core_held, ↓core_mk, core_eqs]; done)

theorem execShowBoot_core (ln : Ln) (s : State) :
    ∃ next, execShowBoot ln s = .next next ∧ next.core = (s.tick ln.t).core := by
  refine ⟨_, rfl, ?_⟩
  apply State.judged_core
  intro u
  (repeat' split) <;> first | rfl | (simp; done) | (simp only [State.core, Core.mk.injEq] <;> simp [↓core_held, ↓core_mk, core_eqs]; done)

theorem execSetBoot_core (full : Bool) (ln : Ln) (s : State) :
    ∃ next, execSetBoot full ln s = .next next ∧ next.core = (s.tick ln.t).core := by
  refine ⟨_, rfl, State.judged_core _ _ _ _ _ fun u => ?_⟩
  split
  · simp
  · rename_i h
    rw [State.ok_core]
    exact setFlash_core _ (flashTakes_frozen h)

theorem execSetClear_core (at_ : List Loc) (ln : Ln) (s : State) :
    ∃ next, execSetClear at_ ln s = .next next ∧ next.core = (s.tick ln.t).core := by
  refine ⟨_, rfl, State.judged_core _ _ _ _ _ fun u => ?_⟩
  split
  · simp
  · split
    · simp
    · split
      · simp
      · rename_i h
        rw [State.ok_core]
        exact setFlash_core _ (flashTakes_frozen h)

theorem execKeepaliveSend_core (t : Time) (s : State) :
    ∃ next, execKeepaliveSend t s = .next next ∧ next.core = (s.tick t).core := by
  refine ⟨_, rfl, ?_⟩
  apply State.event_core
  intro g
  (repeat' split) <;> first | rfl | (simp; done) | (simp only [State.core, Core.mk.injEq] <;> simp [↓core_held, ↓core_mk, core_eqs]; done)

theorem execHeartbeatSend_core (shc : ShcIx) (t : Time) (s : State) :
    ∃ next, execHeartbeatSend shc t s = .next next ∧ next.core = (s.tick t).core := by
  refine ⟨_, rfl, ?_⟩
  apply State.event_core
  intro g
  (repeat' split) <;> first | rfl | (simp; done) | (simp only [State.core, Core.mk.injEq] <;> simp [↓core_held, ↓core_mk, core_eqs]; done)

theorem execHeartbeatReceive_core (shc : ShcIx) (shcl lane0 : Bool) (b : Beat) (t : Time) (s : State) :
    ∃ next, execHeartbeatReceive shc shcl lane0 b t s = .next next ∧ next.core = (s.tick t).core := by
  refine ⟨_, rfl, ?_⟩
  apply State.event_core
  intro g
  (repeat' split) <;> first | rfl | (simp; done) | (simp only [State.core, Core.mk.injEq] <;> simp [↓core_held, ↓core_mk, core_eqs]; done)

theorem execHeartbeatMiss_core (t : Time) (s : State) :
    ∃ next, execHeartbeatMiss t s = .next next ∧ next.core = (s.tick t).core := by
  refine ⟨_, rfl, ?_⟩
  apply State.event_core
  intro g
  (repeat' split) <;> first | rfl | (simp; done) | (simp only [State.core, Core.mk.injEq] <;> simp [↓core_held, ↓core_mk, core_eqs]; done)

theorem execProbeTimeout_core (t : Time) (s : State) :
    ∃ next, execProbeTimeout t s = .next next ∧ (next.core = (s.tick t).core ∨ next.core = (s.tick t).cutFlash.core) := by
  refine ⟨_, rfl, State.event_cases (P := fun u => u.core = (s.tick t).core ∨ u.core = (s.tick t).cutFlash.core) _ _ _ _ (.inl rfl) ?_⟩
  split
  · exact .inr (State.takeOverFrom_core _ _ _)
  · exact .inl rfl

theorem execSelfDoubtHandover_core (cause : Nat) (t : Time) (s : State) :
    ∃ next, execSelfDoubtHandover cause t s = .next next ∧ (next.core = (s.tick t).core ∨ next.core = (s.tick t).cutFlash.core) := by
  refine ⟨_, rfl, State.event_cases (P := fun u => u.core = (s.tick t).core ∨ u.core = (s.tick t).cutFlash.core) _ _ _ _ (.inl rfl) ?_⟩
  dsimp only
  split
  · exact .inl rfl
  · split
    · exact .inr (State.takeOverFrom_core _ _ _)
    · exact .inr (by simp only [State.core, Core.mk.injEq] <;> simp [↓core_held, ↓core_mk, core_eqs])

theorem execSelectionQuietExpiry_core (t : Time) (s : State) :
    ∃ next, execSelectionQuietExpiry t s = .next next ∧ next.core = (s.tick t).core := by
  refine ⟨_, rfl, ?_⟩
  apply State.event_core
  intro g
  (repeat' split) <;> first | rfl | (simp; done) | (simp only [State.core, Core.mk.injEq] <;> simp [↓core_held, ↓core_mk, core_eqs]; done)

theorem execMirrorAckTimeout_core (t : Time) (s : State) :
    ∃ next, execMirrorAckTimeout t s = .next next ∧ next.core = (s.tick t).core := by
  refine ⟨_, rfl, ?_⟩
  apply State.event_core
  intro g
  (repeat' split) <;> first | rfl | (simp; done) | (simp only [State.core, Core.mk.injEq] <;> simp [↓core_held, ↓core_mk, core_eqs]; done)

theorem execMirrorProbeTimeout_core (t : Time) (s : State) :
    ∃ next, execMirrorProbeTimeout t s = .next next ∧ next.core = (s.tick t).core := by
  refine ⟨_, rfl, ?_⟩
  apply State.event_core
  intro g
  (repeat' split) <;> first | rfl | (simp; done) | (simp only [State.core, Core.mk.injEq] <;> simp [↓core_held, ↓core_mk, core_eqs]; done)

theorem execReadyRefresh_core (t : Time) (s : State) :
    ∃ next, execReadyRefresh t s = .next next ∧ next.core = (s.tick t).core := by
  refine ⟨_, rfl, ?_⟩
  apply State.event_core
  intro g
  (repeat' split) <;> first | rfl | (simp; done) | (simp only [State.core, Core.mk.injEq] <;> simp [↓core_held, ↓core_mk, core_eqs]; done)

theorem execReadyLatchExpiry_core (t : Time) (s : State) :
    ∃ next, execReadyLatchExpiry t s = .next next ∧ next.core = (s.tick t).core := by
  refine ⟨_, rfl, ?_⟩
  apply State.event_core
  intro g
  (repeat' split) <;> first | rfl | (simp; done) | (simp only [State.core, Core.mk.injEq] <;> simp [↓core_held, ↓core_mk, core_eqs]; done)

theorem execHandoverShc_core (ln : Ln) (s : State) :
    ∃ next, execHandoverShc ln s = .next next ∧ next.core = (s.tick ln.t).core := by
  refine ⟨_, rfl, ?_⟩
  apply State.judged_core
  intro u
  (repeat' split) <;> first | rfl | (simp; done) | (simp only [State.core, Core.mk.injEq] <;> simp [↓core_held, ↓core_mk, core_eqs]; done)

theorem execShowShc_core (ln : Ln) (s : State) :
    ∃ next, execShowShc ln s = .next next ∧ next.core = (s.tick ln.t).core := by
  refine ⟨_, rfl, ?_⟩
  apply State.judged_core
  intro u
  (repeat' split) <;> first | rfl | (simp; done) | (simp only [State.core, Core.mk.injEq] <;> simp [↓core_held, ↓core_mk, core_eqs]; done)

theorem execUpdateFirmware_core (stage : Nat) (sigOk : Bool) (ln : Ln) (s : State) :
    ∃ next, execUpdateFirmware stage sigOk ln s = .next next ∧ next.core = (s.tick ln.t).core := by
  refine ⟨_, rfl, State.judged_core _ _ _ _ _ fun u => ?_⟩
  dsimp only
  split
  · simp
  · with_reducible apply ite_eq
    · simp
    · with_reducible apply ite_eq
      · simp
      · rename_i b hb
        have h0 : (({ u with stages := u.stages.filter fun x => x.id ≠ stage } : State).ok ln [("state", .word "updating")]).core = u.core := by
          rw [State.ok_core]; rfl
        revert h0
        generalize (({ u with stages := u.stages.filter fun x => x.id ≠ stage } : State).ok ln [("state", .word "updating")]) = v
        intro h0
        split
        · split
          · rw [State.fwBell_core, h0]
          · rename_i w i _ _ hf
            have h1 : ∀ f, ({ v with flash := f } : State).core = u.core := fun f => (setFlash_core f (flashTakes_frozen hf)).trans h0
            with_reducible apply ite_eq
            · rw [State.fwBell_core, h1]
            · rw [State.modShc_core]
              exact h1 _
        · rw [State.fwBell_core, h0]
        · rw [State.fwBell_core, h0]

theorem execBackupRejoin_core (mirrorVersion : Nat) (t : Time) (s : State) :
    ∃ next, execBackupRejoin mirrorVersion t s = .next next ∧ next.core = (s.tick t).core := by
  refine ⟨_, rfl, State.event_core _ _ _ _ fun _ => ?_⟩
  refine Eq.trans (b := (s.tick t).core) ?_ rfl
  generalize s.tick t = u
  have h : ∀ (o : Option Firmware) (i j : Nat), (match o with
      | some w => u.modShc j fun c => { c.load i w u.now with mirrorSeq := u.mirrorSeq }
      | none => u).core = u.core := by
    intro o i j
    split <;> simp
  dsimp only
  split
  · with_reducible apply ite_eq
    · with_reducible apply ite_eq
      · rfl
      · exact State.shcDoubt_core _ _ _
    · with_reducible apply ite_eq
      · rfl
      · rw [State.modShc_core]
        exact (fw_core _ _).trans ((State.takeRole_core _ _).trans (h _ _ _))
  · with_reducible apply ite_eq
    · with_reducible apply ite_eq
      · rfl
      · exact State.shcDoubt_core _ _ _
    · rw [State.fwBell_core]
      exact (fw_core _ _).trans ((State.modFlash_core _ _).trans (h _ _ _))
  · rfl

theorem execBackupRejoinTimeout_core (t : Time) (s : State) :
    ∃ next, execBackupRejoinTimeout t s = .next next ∧ next.core = (s.tick t).core := by
  refine ⟨_, rfl, State.event_core _ _ _ _ fun _ => ?_⟩
  dsimp only
  split
  · rw [State.fwBell_core]
    exact (fw_core _ _).trans (State.modFlash_core _ _)
  · rfl

theorem execConsoleBreak_core (con : Fin 2) (t : Time) (s : State) :
    ∃ next, execConsoleBreak con t s = .next next ∧ next.core = (s.tick t).core := by
  refine ⟨_, rfl, ?_⟩
  apply State.event_core
  intro g
  (repeat' split) <;> first | rfl | (simp; done) | (simp only [State.core, Core.mk.injEq] <;> simp [↓core_held, ↓core_mk, core_eqs]; done)

theorem execCtsChange_core (con : Fin 2) (asserted : Bool) (t : Time) (s : State) :
    ∃ next, execCtsChange con asserted t s = .next next ∧ next.core = (s.tick t).core := by
  refine ⟨_, rfl, ?_⟩
  apply State.event_core
  intro g
  (repeat' split) <;> first | rfl | (simp; done) | (simp only [State.core, Core.mk.injEq] <;> simp [↓core_held, ↓core_mk, core_eqs]; done)

theorem execConsoleCharacter_core (con : Fin 2) (b : Byte) (t : Time) (s : State) :
    ∃ next, execConsoleCharacter con b t s = .next next ∧ next.core = (s.tick t).core := by
  refine ⟨_, rfl, ?_⟩
  apply State.event_core
  intro g
  (repeat' split) <;> first | rfl | (simp; done) | (simp only [State.core, Core.mk.injEq] <;> simp [↓core_held, ↓core_mk, core_eqs]; done)

theorem execTcpConnect_core (t : Time) (s : State) :
    ∃ next, execTcpConnect t s = .next next ∧ next.core = (s.tick t).core := by
  refine ⟨_, rfl, ?_⟩
  apply State.event_core
  intro g
  (repeat' split) <;> first | rfl | (simp; done) | (simp only [State.core, Core.mk.injEq] <;> simp [↓core_held, ↓core_mk, core_eqs]; done)

theorem execTcpClose_core (sess : Fin 10) (t : Time) (s : State) :
    ∃ next, execTcpClose sess t s = .next next ∧ next.core = (s.tick t).core := by
  refine ⟨_, rfl, ?_⟩
  apply State.event_core
  intro g
  (repeat' split) <;> first | rfl | (simp; done) | (simp only [State.core, Core.mk.injEq] <;> simp [↓core_held, ↓core_mk, core_eqs]; done)

theorem execMgmtPacket_core (bytes : List Byte) (t : Time) (s : State) :
    ∃ next, execMgmtPacket bytes t s = .next next ∧ next.core = (s.tick t).core := by
  refine ⟨_, rfl, ?_⟩
  apply State.event_core
  intro g
  (repeat' split) <;> first | rfl | (simp; done) | (simp only [State.core, Core.mk.injEq] <;> simp [↓core_held, ↓core_mk, core_eqs]; done)

theorem execArpAnnounce_core (t : Time) (s : State) :
    ∃ next, execArpAnnounce t s = .next next ∧ next.core = (s.tick t).core := by
  refine ⟨_, rfl, ?_⟩
  apply State.event_core
  intro g
  (repeat' split) <;> first | rfl | (simp; done) | (simp only [State.core, Core.mk.injEq] <;> simp [↓core_held, ↓core_mk, core_eqs]; done)

theorem execIdleTimeout_core (sess : Fin 10) (t : Time) (s : State) :
    ∃ next, execIdleTimeout sess t s = .next next ∧ next.core = (s.tick t).core := by
  refine ⟨_, rfl, ?_⟩
  apply State.event_core
  intro g
  (repeat' split) <;> first | rfl | (simp; done) | (simp only [State.core, Core.mk.injEq] <;> simp [↓core_held, ↓core_mk, core_eqs]; done)

theorem execChallengeExpiry_core (sess : Fin 10) (t : Time) (s : State) :
    ∃ next, execChallengeExpiry sess t s = .next next ∧ next.core = (s.tick t).core := by
  refine ⟨_, rfl, ?_⟩
  apply State.event_core
  intro g
  (repeat' split) <;> first | rfl | (simp; done) | (simp only [State.core, Core.mk.injEq] <;> simp [↓core_held, ↓core_mk, core_eqs]; done)

theorem execLoginLockExpiry_core (sess : Fin 10) (t : Time) (s : State) :
    ∃ next, execLoginLockExpiry sess t s = .next next ∧ next.core = (s.tick t).core := by
  refine ⟨_, rfl, ?_⟩
  apply State.event_core
  intro g
  (repeat' split) <;> first | rfl | (simp; done) | (simp only [State.core, Core.mk.injEq] <;> simp [↓core_held, ↓core_mk, core_eqs]; done)

theorem execBellsLostNotice_core (sess : Fin 10) (t : Time) (s : State) :
    ∃ next, execBellsLostNotice sess t s = .next next ∧ next.core = (s.tick t).core := by
  refine ⟨_, rfl, ?_⟩
  apply State.event_core
  intro g
  (repeat' split) <;> first | rfl | (simp; done) | (simp only [State.core, Core.mk.injEq] <;> simp [↓core_held, ↓core_mk, core_eqs]; done)

theorem execLoginRequest_core (user : List Byte) (ln : Ln) (s : State) :
    ∃ next, execLoginRequest user ln s = .next next ∧ next.core = (s.tick ln.t).core := by
  refine ⟨_, rfl, ?_⟩
  apply State.sessionVerb_core
  intro u
  (repeat' split) <;> first | rfl | (simp; done) | (simp only [State.core, Core.mk.injEq] <;> simp [↓core_held, ↓core_mk, core_eqs]; done)

theorem execLoginResponse_core (user sig : List Byte) (ln : Ln) (s : State) :
    ∃ next, execLoginResponse user sig ln s = .next next ∧ next.core = (s.tick ln.t).core := by
  refine ⟨_, rfl, ?_⟩
  apply State.sessionVerb_core
  intro u
  (repeat' split) <;> first | rfl | (simp; done) | (simp only [State.core, Core.mk.injEq] <;> simp [↓core_held, ↓core_mk, core_eqs]; done)

theorem execLogout_core (ln : Ln) (s : State) :
    ∃ next, execLogout ln s = .next next ∧ next.core = (s.tick ln.t).core := by
  refine ⟨_, rfl, ?_⟩
  apply State.sessionVerb_core
  intro u
  (repeat' split) <;> first | rfl | (simp; done) | (simp only [State.core, Core.mk.injEq] <;> simp [↓core_held, ↓core_mk, core_eqs]; done)

theorem execPing_core (ln : Ln) (s : State) :
    ∃ next, execPing ln s = .next next ∧ next.core = (s.tick ln.t).core := by
  refine ⟨_, rfl, ?_⟩
  apply State.sessionVerb_core
  intro u
  (repeat' split) <;> first | rfl | (simp; done) | (simp only [State.core, Core.mk.injEq] <;> simp [↓core_held, ↓core_mk, core_eqs]; done)

theorem execMode_core (echo crc : Option Bool) (bells : Option (Fin 3)) (idle : Option Nat) (ln : Ln) (s : State) :
    ∃ next, execMode echo crc bells idle ln s = .next next ∧ next.core = (s.tick ln.t).core := by
  refine ⟨_, rfl, ?_⟩
  apply State.sessionVerb_core
  intro u
  (repeat' split) <;> first | rfl | (simp; done) | (simp only [State.core, Core.mk.injEq] <;> simp [↓core_held, ↓core_mk, core_eqs]; done)

theorem execBadLine_core (sess : Fin 10) (bytes : List Byte) (overrun : Bool) (t : Time) (s : State) :
    ∃ next, execBadLine sess bytes overrun t s = .next next ∧ next.core = (s.tick t).core := by
  refine ⟨_, rfl, ?_⟩
  dsimp only
  with_reducible apply ite_eq
  · rfl
  · with_reducible apply ite_eq
    · simp
    · split
      · simp
      · with_reducible apply ite_eq
        · rfl
        · split
          · with_reducible apply ite_eq
            · simp
            · with_reducible apply ite_eq
              · simp
              · rfl
          · simp

theorem execSetConsole_core (con : Nat) (baud : Option Nat) (flow : Option Bool) (ln : Ln) (s : State) :
    ∃ next, execSetConsole con baud flow ln s = .next next ∧ next.core = (s.tick ln.t).core := by
  refine ⟨_, rfl, State.judged_core _ _ _ _ _ fun u => State.inRange_core _ _ _ _ _ _ _ ?_⟩
  split
  · simp
  · split
    · simp
    · rename_i h
      dsimp only
      rw [State.setHeld_core, State.setCon_core]
      refine (setFlash_core _ ?_).trans (State.ok_core _ _ _)
      rw [frozen_of_core (State.ok_core _ _ _)]
      exact flashTakes_frozen h

theorem execSetNet_core (ip mask gw : BitVec 32) (mac : BitVec 48) (ln : Ln) (s : State) :
    ∃ next, execSetNet ip mask gw mac ln s = .next next ∧ next.core = (s.tick ln.t).core := by
  refine ⟨_, rfl, State.judged_core _ _ _ _ _ fun u => ?_⟩
  split
  · simp
  · rename_i h
    rw [State.ok_core]
    exact setFlash_core _ (flashTakes_frozen h)

theorem execOpenStage_core (firmware : Bool) (size : Nat) (ln : Ln) (s : State) :
    ∃ next, execOpenStage firmware size ln s = .next next ∧ next.core = (s.tick ln.t).core := by
  refine ⟨_, rfl, ?_⟩
  apply State.judged_core
  intro u
  (repeat' split) <;> first | rfl | (simp; done) | (simp only [State.core, Core.mk.injEq] <;> simp [↓core_held, ↓core_mk, core_eqs]; done)

theorem execPutStage_core (id off : Nat) (data : List Byte) (ln : Ln) (s : State) :
    ∃ next, execPutStage id off data ln s = .next next ∧ next.core = (s.tick ln.t).core := by
  refine ⟨_, rfl, ?_⟩
  apply State.judged_core
  intro u
  (repeat' first | (refine State.inRange_core _ _ _ _ _ _ _ ?_) | (refine State.onFold_core _ _ _ _ ?_) | (refine State.onChannel_core _ _ _ _ ?_) | (refine State.guard_core _ _ _ _ ?_) | intro _ | split) <;> first | rfl | (simp; done) | (simp only [State.core, Core.mk.injEq] <;> simp [↓core_held, ↓core_mk, core_eqs]; done) | (simp; rfl) | (simp; simp only [State.core, Core.mk.injEq] <;> simp [↓core_held, ↓core_mk, core_eqs]; done) | (dsimp only; simp; done) | (simp (disch := (intros; (repeat' split) <;> (first | rfl | (simp; done) | (simp only [State.core, Core.mk.injEq] <;> simp [↓core_held, ↓core_mk, core_eqs]; done) | (simp; rfl) | (simp; simp only [State.core, Core.mk.injEq] <;> simp [↓core_held, ↓core_mk, core_eqs]; done)))); done) | (dsimp only; simp (disch := (intros; (repeat' split) <;> (first | rfl | (simp; done) | (simp only [State.core, Core.mk.injEq] <;> simp [↓core_held, ↓core_mk, core_eqs]; done) | (simp; rfl) | (simp; simp only [State.core, Core.mk.injEq] <;> simp [↓core_held, ↓core_mk, core_eqs]; done)))); done) | (simp (disch := (intros; (repeat' split) <;> (first | rfl | (simp; done) | (simp only [State.core, Core.mk.injEq] <;> simp [↓core_held, ↓core_mk, core_eqs]; done) | (simp; rfl) | (simp; simp only [State.core, Core.mk.injEq] <;> simp [↓core_held, ↓core_mk, core_eqs]; done)))); rfl) | (simp (disch := (intros; (repeat' split) <;> (first | rfl | (simp; done) | (simp only [State.core, Core.mk.injEq] <;> simp [↓core_held, ↓core_mk, core_eqs]; done) | (simp; rfl) | (simp; simp only [State.core, Core.mk.injEq] <;> simp [↓core_held, ↓core_mk, core_eqs]; done)))); simp only [State.core, Core.mk.injEq] <;> simp [↓core_held, ↓core_mk, core_eqs]; done) | (dsimp only; simp (disch := (intros; (repeat' split) <;> (first | rfl | (simp; done) | (simp only [State.core, Core.mk.injEq] <;> simp [↓core_held, ↓core_mk, core_eqs]; done) | (simp; rfl) | (simp; simp only [State.core, Core.mk.injEq] <;> simp [↓core_held, ↓core_mk, core_eqs]; done)))); simp only [State.core, Core.mk.injEq] <;> simp [↓core_held, ↓core_mk, core_eqs]; done)

theorem execShowStage_core (ln : Ln) (s : State) :
    ∃ next, execShowStage ln s = .next next ∧ next.core = (s.tick ln.t).core := by
  refine ⟨_, rfl, ?_⟩
  apply State.judged_core
  intro u
  (repeat' split) <;> first | rfl | (simp; done) | (simp only [State.core, Core.mk.injEq] <;> simp [↓core_held, ↓core_mk, core_eqs]; done)

theorem execDropStage_core (id : Nat) (ln : Ln) (s : State) :
    ∃ next, execDropStage id ln s = .next next ∧ next.core = (s.tick ln.t).core := by
  refine ⟨_, rfl, ?_⟩
  apply State.judged_core
  intro u
  (repeat' split) <;> first | rfl | (simp; done) | (simp only [State.core, Core.mk.injEq] <;> simp [↓core_held, ↓core_mk, core_eqs]; done)

theorem execAddUser_core (name : List Byte) (level : Level) (key : List Byte) (ln : Ln) (s : State) :
    ∃ next, execAddUser name level key ln s = .next next ∧ next.core = (s.tick ln.t).core := by
  refine ⟨_, rfl, ?_⟩
  split
  · exact State.wrongForm_core _ _ _
  · split
    · exact State.wrongForm_core _ _ _
    · refine State.judged_core _ _ _ _ _ fun u => ?_
      dsimp only
      split
      · simp
      · split
        · simp
        · split
          · simp
          · rename_i h
            rw [State.ok_core]
            exact setFlash_core _ (flashTakes_frozen h)

theorem execRemoveUser_core (name : List Byte) (ln : Ln) (s : State) :
    ∃ next, execRemoveUser name ln s = .next next ∧ next.core = (s.tick ln.t).core := by
  refine ⟨_, rfl, State.judged_core _ _ _ _ _ fun u => ?_⟩
  dsimp only
  split
  · simp
  · split
    · simp
    · split
      · simp
      · rename_i h
        rw [State.ok_core]
        exact setFlash_core _ (flashTakes_frozen h)

theorem execShowUsers_core (ln : Ln) (s : State) :
    ∃ next, execShowUsers ln s = .next next ∧ next.core = (s.tick ln.t).core := by
  refine ⟨_, rfl, ?_⟩
  apply State.judged_core
  intro u
  (repeat' split) <;> first | rfl | (simp; done) | (simp only [State.core, Core.mk.injEq] <;> simp [↓core_held, ↓core_mk, core_eqs]; done)

theorem execSensorSample_core (x : Sample) (t : Time) (s : State) :
    ∃ next, execSensorSample x t s = .next next ∧ (next.core = (s.tick t).core ∨ next.core = (s.tick t).cutFlash.core) := by
  refine ⟨_, rfl, State.event_cases (P := fun u => u.core = (s.tick t).core ∨ u.core = (s.tick t).cutFlash.core) _ _ _ _ (.inl rfl) ?_⟩
  cases x with
  | pad n a b => exact .inl (by simp)
  | ned k v =>
    dsimp only
    split
    · exact .inl (State.nedEnterDoubt_core _ _ _)
    · exact .inl rfl
  | spd k v =>
    dsimp only
    split
    · exact .inl (State.spdEnterDoubt_core _ _ _)
    · exact .inl rfl
  | med k v => exact .inl rfl
  | shc k v =>
    dsimp only
    split
    · rcases State.shcHot_core ((s.tick t).modShc k.val fun y => { y with temp := v, hot := hotCount v ((s.tick t).shc k.val).hot }) k.val 6 with h | h
      · exact .inl (h.trans (by simp))
      · exact .inr (h.trans (by unfold State.modShc State.setShc; split <;> rfl))
    · exact .inl (by simp)

theorem execThermalTripRetry_core (n : Pad) (t : Time) (s : State) :
    ∃ next, execThermalTripRetry n t s = .next next ∧ next.core = (s.tick t).core := by
  refine ⟨_, rfl, ?_⟩
  apply State.event_core
  intro g
  (repeat' split) <;> first | rfl | (simp; done) | (simp only [State.core, Core.mk.injEq] <;> simp [↓core_held, ↓core_mk, core_eqs]; done)

theorem execThermalRetryVerdict_core (n : Pad) (t : Time) (s : State) :
    ∃ next, execThermalRetryVerdict n t s = .next next ∧ next.core = (s.tick t).core := by
  refine ⟨_, rfl, ?_⟩
  apply State.event_core
  intro g
  (repeat' split) <;> first | rfl | (simp; done) | (simp only [State.core, Core.mk.injEq] <;> simp [↓core_held, ↓core_mk, core_eqs]; done)

theorem execLoopCheck_core (inlet outlet : Option Int) (t : Time) (s : State) :
    ∃ next, execLoopCheck inlet outlet t s = .next next ∧ next.core = (s.tick t).core := by
  refine ⟨_, rfl, ?_⟩
  apply State.event_core
  intro g
  (repeat' split) <;> first | rfl | (simp; done) | (simp only [State.core, Core.mk.injEq] <;> simp [↓core_held, ↓core_mk, core_eqs]; done)

theorem execShowThermal_core (ln : Ln) (s : State) :
    ∃ next, execShowThermal ln s = .next next ∧ next.core = (s.tick ln.t).core := by
  refine ⟨_, rfl, ?_⟩
  apply State.judged_core
  intro u
  (repeat' split) <;> first | rfl | (simp; done) | (simp only [State.core, Core.mk.injEq] <;> simp [↓core_held, ↓core_mk, core_eqs]; done)

theorem execShowSensors_core (at_ : Sum Loc DieName) (ln : Ln) (s : State) :
    ∃ next, execShowSensors at_ ln s = .next next ∧ next.core = (s.tick ln.t).core := by
  refine ⟨_, rfl, ?_⟩
  apply State.judged_core
  intro u
  (repeat' split) <;> first | rfl | (simp; done) | (simp only [State.core, Core.mk.injEq] <;> simp [↓core_held, ↓core_mk, core_eqs]; done)

theorem execShowMap_core (at_ : Option (List Loc)) (ln : Ln) (s : State) :
    ∃ next, execShowMap at_ ln s = .next next ∧ next.core = (s.tick ln.t).core := by
  refine ⟨_, rfl, ?_⟩
  apply State.judged_core
  intro u
  (repeat' split) <;> first | rfl | (simp; done) | (simp only [State.core, Core.mk.injEq] <;> simp [↓core_held, ↓core_mk, core_eqs]; done)

theorem execExportMap_core (ln : Ln) (s : State) :
    ∃ next, execExportMap ln s = .next next ∧ next.core = (s.tick ln.t).core := by
  refine ⟨_, rfl, ?_⟩
  apply State.judged_core
  intro u
  dsimp only
  (repeat' split) <;> first | rfl | (simp; done) | (simp only [State.core, Core.mk.injEq] <;> simp [↓core_held, ↓core_mk, core_eqs]; done)

theorem execSetReserve_core (c r : Nat) (on : Bool) (ln : Ln) (s : State) :
    ∃ next, execSetReserve c r on ln s = .next next ∧ next.core = (s.tick ln.t).core := by
  refine ⟨_, rfl, ?_⟩
  apply State.judged_core
  intro u
  (repeat' split) <;> first | rfl | (simp; done) | (simp only [State.core, Core.mk.injEq] <;> simp [↓core_held, ↓core_mk, core_eqs]; done)

theorem execSetExclude_core (x y : Nat) (on : Bool) (ln : Ln) (s : State) :
    ∃ next, execSetExclude x y on ln s = .next next ∧ next.core = (s.tick ln.t).core := by
  refine ⟨_, rfl, ?_⟩
  apply State.judged_core
  intro u
  (repeat' split) <;> first | rfl | (simp; done) | (simp only [State.core, Core.mk.injEq] <;> simp [↓core_held, ↓core_mk, core_eqs]; done)

theorem execPeek_core (addr : Nat) (count : Option Nat) (ln : Ln) (s : State) :
    ∃ next, execPeek addr count ln s = .next next ∧ next.core = (s.tick ln.t).core := by
  refine ⟨_, rfl, ?_⟩
  apply State.judged_core
  intro u
  (repeat' split) <;> first | rfl | (simp; done) | (simp only [State.core, Core.mk.injEq] <;> simp [↓core_held, ↓core_mk, core_eqs]; done)

theorem execPoke_core (addr : Nat) (value : BitVec 32) (mask : Option (BitVec 32)) (ln : Ln) (s : State) :
    ∃ next, execPoke addr value mask ln s = .next next ∧ next.core = (s.tick ln.t).core := by
  refine ⟨_, rfl, ?_⟩
  apply State.judged_core
  intro u
  (repeat' split) <;> first | rfl | (simp; done) | (simp only [State.core, Core.mk.injEq] <;> simp [↓core_held, ↓core_mk, core_eqs]; done)

theorem execShcFaultackWrite_core (value : BitVec 32) (ln : Ln) (s : State) :
    ∃ next, execShcFaultackWrite value ln s = .next next ∧ next.core = (s.tick ln.t).core := by
  refine ⟨_, rfl, ?_⟩
  apply State.judged_core
  intro u
  (repeat' split) <;> first | rfl | (simp; done) | (simp only [State.core, Core.mk.injEq] <;> simp [↓core_held, ↓core_mk, core_eqs]; done)

theorem execPcbSatClear_core (n : Pad) (value : BitVec 32) (ln : Ln) (s : State) :
    ∃ next, execPcbSatClear n value ln s = .next next ∧ next.core = (s.tick ln.t).core := by
  refine ⟨_, rfl, ?_⟩
  apply State.judged_core
  intro u
  (repeat' split) <;> first | rfl | (simp; done) | (simp only [State.core, Core.mk.injEq] <;> simp [↓core_held, ↓core_mk, core_eqs]; done)

theorem execNedWselWrite_core (k : NedIx) (value : BitVec 32) (ln : Ln) (s : State) :
    ∃ next, execNedWselWrite k value ln s = .next next ∧ next.core = (s.tick ln.t).core := by
  refine ⟨_, rfl, ?_⟩
  apply State.judged_core
  intro u
  (repeat' split) <;> first | rfl | (simp; done) | (simp only [State.core, Core.mk.injEq] <;> simp [↓core_held, ↓core_mk, core_eqs]; done)

theorem execShcAlertcauseRead_core (ln : Ln) (s : State) :
    ∃ next, execShcAlertcauseRead ln s = .next next ∧ next.core = (s.tick ln.t).core := by
  refine ⟨_, rfl, ?_⟩
  apply State.judged_core
  intro u
  (repeat' split) <;> first | rfl | (simp; done) | (simp only [State.core, Core.mk.injEq] <;> simp [↓core_held, ↓core_mk, core_eqs]; done)

end Sys2Proof.Machine
end

