-- ==== Sys2Proof/Laws/CfgExec.lean ====
section
/-! SUPPORT. What leaves the settings in flash alone. Each command. -/
namespace Sys2Proof.Machine

open Sys2Proof

set_option linter.all false

theorem execFirmwareVerified_cfg (shc : ShcIx) (sigs : List Bool) (stepField : BitVec 4) (t : Time) (s : State) :
    ∃ next, execFirmwareVerified shc sigs stepField t s = .next next ∧ next.cfg = s.cfg := by
  refine ⟨_, rfl, State.event_cfg _ _ _ _ fun _ => ?_⟩
  dsimp only
  have h : ∀ (u : State) (o : Option (Nat × Firmware)) (i c : Nat), (match o with
      | some p => u.modShc i fun c => c.load p.1 p.2 u.now
      | none => u.shcDoubt i c).cfg = u.cfg := by
    intro u o i c
    split <;> simp
  have b : ({ s.tick t with boot := { (s.tick t).boot with fwTried := (s.tick t).boot.fwTried ++ [shc.val] } } : State).cfg = (s.tick t).cfg := rfl
  (repeat' with_reducible apply ite_eq_cfg)
  · exact (h _ _ _ _).trans b
  · rw [State.becomeActive_cfg]
    exact (h _ _ _ _).trans b
  · rw [State.takeoverBell_cfg, State.shcDoubt_cfg, State.becomeActive_cfg]
    exact (h _ _ _ _).trans b
  · exact (h _ _ _ _).trans b

theorem execRecoveryImageReceived_cfg (shc : ShcIx) (image : List Byte) (sigOk : Bool) (t : Time) (s : State) :
    ∃ next, execRecoveryImageReceived shc image sigOk t s = .next next ∧ next.cfg = s.cfg := by
  refine ⟨_, rfl, State.event_cfg _ _ _ _ fun _ => ?_⟩
  split
  · with_reducible apply ite_eq_cfg <;> simp
  · rfl

theorem execStagesSettled_cfg (failed : List Nat) (t : Time) (s : State) :
    ∃ next, execStagesSettled failed t s = .next next ∧ next.cfg = s.cfg := by
  refine ⟨_, rfl, ?_⟩
  apply State.event_cfg
  intro g
  (repeat' split) <;> first | rfl | (simp; done) | (simp only [State.cfg, Cfg.mk.injEq] <;> simp [↓cfg_mk, cfg_eqs]; done)

theorem execEdgeDieTestComplete_cfg (die : Nat) (passed : Bool) (t : Time) (s : State) :
    ∃ next, execEdgeDieTestComplete die passed t s = .next next ∧ next.cfg = s.cfg := by
  refine ⟨_, rfl, State.event_cfg _ _ _ _ fun _ => ?_⟩
  dsimp only
  rw [State.endB2_cfg]
  (repeat' with_reducible apply ite_eq_cfg) <;> simp

theorem execReferenceWaitTimeout_cfg (t : Time) (s : State) :
    ∃ next, execReferenceWaitTimeout t s = .next next ∧ next.cfg = s.cfg := by
  refine ⟨_, rfl, ?_⟩
  apply State.event_cfg
  intro g
  (repeat' split) <;> first | rfl | (simp; done) | (simp only [State.cfg, Cfg.mk.injEq] <;> simp [↓cfg_mk, cfg_eqs]; done)

theorem execAonRailsInWindow_cfg (t : Time) (s : State) :
    ∃ next, execAonRailsInWindow t s = .next next ∧ next.cfg = s.cfg := by
  refine ⟨_, rfl, State.event_cfg _ _ _ _ fun _ => ?_⟩
  rw [State.reinject_cfg]
  exact foldl_cfg _ (fun _ _ => by simp) _ _

theorem execCoreRailGroup_cfg (g : Fin 7) (t : Time) (s : State) :
    ∃ next, execCoreRailGroup g t s = .next next ∧ next.cfg = s.cfg := by
  refine ⟨_, rfl, State.event_cfg _ _ _ _ fun _ => ?_⟩
  dsimp only
  generalize (List.range 12).map _ = l
  split
  · rw [State.startB4_cfg]
    exact foldl_cfg _ (fun _ _ => by split <;> simp) _ _
  · exact foldl_cfg _ (fun _ _ => by split <;> simp) _ _

theorem execRingWaveAdvance_cfg (t : Time) (s : State) :
    ∃ next, execRingWaveAdvance t s = .next next ∧ next.cfg = s.cfg := by
  refine ⟨_, rfl, State.event_cfg _ _ _ _ fun _ => ?_⟩
  simp
  rfl

theorem execPaddockTestComplete_cfg (n : Pad) (v : PadVerdict) (t : Time) (s : State) :
    ∃ next, execPaddockTestComplete n v t s = .next next ∧ next.cfg = s.cfg := by
  refine ⟨_, rfl, ?_⟩
  apply State.event_cfg
  intro g
  (repeat' split) <;> first | rfl | (simp; done) | (simp only [State.cfg, Cfg.mk.injEq] <;> simp [↓cfg_mk, cfg_eqs]; done)

theorem execBorderTestComplete_cfg (x : EndIx) (failed : List (Fin 4)) (t : Time) (s : State) :
    ∃ next, execBorderTestComplete x failed t s = .next next ∧ next.cfg = s.cfg := by
  refine ⟨_, rfl, ?_⟩
  apply State.event_cfg
  intro g
  (repeat' split) <;> first | rfl | (simp; done) | (simp only [State.cfg, Cfg.mk.injEq] <;> simp [↓cfg_mk, cfg_eqs]; done)

theorem execSweep_cfg (t : Time) (s : State) :
    ∃ next, execSweep t s = .next next ∧ next.cfg = s.cfg := by
  refine ⟨_, rfl, State.event_cfg _ _ _ _ fun _ => ?_⟩
  dsimp only
  rw [State.endB4_cfg]
  refine (foldl_cfg _ (fun u n => ?_) _ _).trans ?_
  · with_reducible apply ite_eq_cfg
    · rfl
    · with_reducible apply ite_eq_cfg
      · simp
      · rw [State.ring_cfg]
        exact State.makeHole_cfg _ _ _ _
  · rfl

theorem execBootMapAndReady_cfg (flashOk : Bool) (t : Time) (s : State) :
    ∃ next, execBootMapAndReady flashOk t s = .next next ∧ next.cfg = s.cfg := by
  refine ⟨_, rfl, State.event_cfg _ _ _ _ fun _ => ?_⟩
  dsimp only
  split
  · rfl
  · rw [State.becomeReady_cfg, State.bootEntries_cfg]
    rfl

theorem execShowEngine_cfg (detail : Bool) (ln : Ln) (s : State) :
    ∃ next, execShowEngine detail ln s = .next next ∧ next.cfg = s.cfg := by
  refine ⟨_, rfl, ?_⟩
  apply State.judged_cfg
  intro u
  (repeat' split) <;> first | rfl | (simp; done) | (simp only [State.cfg, Cfg.mk.injEq] <;> simp [↓cfg_mk, cfg_eqs]; done)

theorem execShowBoot_cfg (ln : Ln) (s : State) :
    ∃ next, execShowBoot ln s = .next next ∧ next.cfg = s.cfg := by
  refine ⟨_, rfl, ?_⟩
  apply State.judged_cfg
  intro u
  (repeat' split) <;> first | rfl | (simp; done) | (simp only [State.cfg, Cfg.mk.injEq] <;> simp [↓cfg_mk, cfg_eqs]; done)

theorem execSetClear_cfg (at_ : List Loc) (ln : Ln) (s : State) :
    ∃ next, execSetClear at_ ln s = .next next ∧ next.cfg = s.cfg := by
  refine ⟨_, rfl, State.judged_cfg _ _ _ _ _ fun u => ?_⟩
  split
  · simp
  · split
    · simp
    · split
      · simp
      · rw [State.ok_cfg]
        rfl

theorem execResetEngine_cfg (confirm : Bool) (ln : Ln) (s : State) :
    ∃ next, execResetEngine confirm ln s = .next next ∧ next.cfg = s.cfg := by
  refine ⟨_, rfl, State.judged_cfg _ _ _ _ _ fun u => ?_⟩
  split
  · refine (State.leaveReset_cfg _ _).trans ?_
    exact (State.setCs_cfg _ _ _).trans (State.enterReset_cfg _)
  · simp

theorem execClockStep_cfg (n : Pad) (t : Time) (s : State) :
    ∃ next, execClockStep n t s = .next next ∧ next.cfg = s.cfg := by
  refine ⟨_, rfl, ?_⟩
  apply State.event_cfg
  intro g
  (repeat' split) <;> first | rfl | (simp; done) | (simp only [State.cfg, Cfg.mk.injEq] <;> simp [↓cfg_mk, cfg_eqs]; done)

theorem execSetClock_cfg (at_ : Loc) (n : Nat) (ln : Ln) (s : State) :
    ∃ next, execSetClock at_ n ln s = .next next ∧ next.cfg = s.cfg := by
  refine ⟨_, rfl, ?_⟩
  apply State.judged_cfg
  intro u
  (repeat' split) <;> first | rfl | (simp; done) | (simp only [State.cfg, Cfg.mk.injEq] <;> simp [↓cfg_mk, cfg_eqs]; done)

theorem execIslandClockLoss_cfg (n : Pad) (t : Time) (s : State) :
    ∃ next, execIslandClockLoss n t s = .next next ∧ next.cfg = s.cfg := by
  refine ⟨_, rfl, ?_⟩
  apply State.event_cfg
  intro g
  (repeat' split) <;> first | rfl | (simp; done) | (simp only [State.cfg, Cfg.mk.injEq] <;> simp [↓cfg_mk, cfg_eqs]; done)

theorem execRingLoss_cfg (f : FieldIx) (t : Time) (s : State) :
    ∃ next, execRingLoss f t s = .next next ∧ next.cfg = s.cfg := by
  refine ⟨_, rfl, ?_⟩
  apply State.event_cfg
  intro g
  (repeat' split) <;> first | rfl | (simp; done) | (simp only [State.cfg, Cfg.mk.injEq] <;> simp [↓cfg_mk, cfg_eqs]; done)

theorem execMeshLock_cfg (worstPpm : Nat) (t : Time) (s : State) :
    ∃ next, execMeshLock worstPpm t s = .next next ∧ next.cfg = s.cfg := by
  refine ⟨_, rfl, ?_⟩
  apply State.event_cfg
  intro g
  (repeat' split) <;> first | rfl | (simp; done) | (simp only [State.cfg, Cfg.mk.injEq] <;> simp [↓cfg_mk, cfg_eqs]; done)

theorem execReferenceAbsent_cfg (edge : Option (Fin 4)) (t : Time) (s : State) :
    ∃ next, execReferenceAbsent edge t s = .next next ∧ next.cfg = s.cfg := by
  refine ⟨_, rfl, State.event_cfg _ _ _ _ fun _ => ?_⟩
  simp
  rfl

theorem execReferenceReturn_cfg (edge : Option (Fin 4)) (t : Time) (s : State) :
    ∃ next, execReferenceReturn edge t s = .next next ∧ next.cfg = s.cfg := by
  refine ⟨_, rfl, State.event_cfg _ _ _ _ fun _ => ?_⟩
  simp
  rfl

theorem execThrottleEval_cfg (f : FieldIx) (t : Time) (s : State) :
    ∃ next, execThrottleEval f t s = .next next ∧ next.cfg = s.cfg := by
  refine ⟨_, rfl, ?_⟩
  apply State.event_cfg
  intro g
  (repeat' split) <;> first | rfl | (simp; done) | (simp only [State.cfg, Cfg.mk.injEq] <;> simp [↓cfg_mk, cfg_eqs]; done)

theorem execConsoleBreak_cfg (con : Fin 2) (t : Time) (s : State) :
    ∃ next, execConsoleBreak con t s = .next next ∧ next.cfg = s.cfg := by
  refine ⟨_, rfl, ?_⟩
  apply State.event_cfg
  intro g
  (repeat' split) <;> first | rfl | (simp; done) | (simp only [State.cfg, Cfg.mk.injEq] <;> simp [↓cfg_mk, cfg_eqs]; done)

theorem execCtsChange_cfg (con : Fin 2) (asserted : Bool) (t : Time) (s : State) :
    ∃ next, execCtsChange con asserted t s = .next next ∧ next.cfg = s.cfg := by
  refine ⟨_, rfl, ?_⟩
  apply State.event_cfg
  intro g
  (repeat' split) <;> first | rfl | (simp; done) | (simp only [State.cfg, Cfg.mk.injEq] <;> simp [↓cfg_mk, cfg_eqs]; done)

theorem execConsoleCharacter_cfg (con : Fin 2) (b : Byte) (t : Time) (s : State) :
    ∃ next, execConsoleCharacter con b t s = .next next ∧ next.cfg = s.cfg := by
  refine ⟨_, rfl, ?_⟩
  apply State.event_cfg
  intro g
  (repeat' split) <;> first | rfl | (simp; done) | (simp only [State.cfg, Cfg.mk.injEq] <;> simp [↓cfg_mk, cfg_eqs]; done)

theorem execTcpConnect_cfg (t : Time) (s : State) :
    ∃ next, execTcpConnect t s = .next next ∧ next.cfg = s.cfg := by
  refine ⟨_, rfl, ?_⟩
  apply State.event_cfg
  intro g
  (repeat' split) <;> first | rfl | (simp; done) | (simp only [State.cfg, Cfg.mk.injEq] <;> simp [↓cfg_mk, cfg_eqs]; done)

theorem execTcpClose_cfg (sess : Fin 10) (t : Time) (s : State) :
    ∃ next, execTcpClose sess t s = .next next ∧ next.cfg = s.cfg := by
  refine ⟨_, rfl, ?_⟩
  apply State.event_cfg
  intro g
  (repeat' split) <;> first | rfl | (simp; done) | (simp only [State.cfg, Cfg.mk.injEq] <;> simp [↓cfg_mk, cfg_eqs]; done)

theorem execMgmtPacket_cfg (bytes : List Byte) (t : Time) (s : State) :
    ∃ next, execMgmtPacket bytes t s = .next next ∧ next.cfg = s.cfg := by
  refine ⟨_, rfl, ?_⟩
  apply State.event_cfg
  intro g
  (repeat' split) <;> first | rfl | (simp; done) | (simp only [State.cfg, Cfg.mk.injEq] <;> simp [↓cfg_mk, cfg_eqs]; done)

theorem execArpAnnounce_cfg (t : Time) (s : State) :
    ∃ next, execArpAnnounce t s = .next next ∧ next.cfg = s.cfg := by
  refine ⟨_, rfl, ?_⟩
  apply State.event_cfg
  intro g
  (repeat' split) <;> first | rfl | (simp; done) | (simp only [State.cfg, Cfg.mk.injEq] <;> simp [↓cfg_mk, cfg_eqs]; done)

theorem execIdleTimeout_cfg (sess : Fin 10) (t : Time) (s : State) :
    ∃ next, execIdleTimeout sess t s = .next next ∧ next.cfg = s.cfg := by
  refine ⟨_, rfl, ?_⟩
  apply State.event_cfg
  intro g
  (repeat' split) <;> first | rfl | (simp; done) | (simp only [State.cfg, Cfg.mk.injEq] <;> simp [↓cfg_mk, cfg_eqs]; done)

theorem execChallengeExpiry_cfg (sess : Fin 10) (t : Time) (s : State) :
    ∃ next, execChallengeExpiry sess t s = .next next ∧ next.cfg = s.cfg := by
  refine ⟨_, rfl, ?_⟩
  apply State.event_cfg
  intro g
  (repeat' split) <;> first | rfl | (simp; done) | (simp only [State.cfg, Cfg.mk.injEq] <;> simp [↓cfg_mk, cfg_eqs]; done)

theorem execLoginLockExpiry_cfg (sess : Fin 10) (t : Time) (s : State) :
    ∃ next, execLoginLockExpiry sess t s = .next next ∧ next.cfg = s.cfg := by
  refine ⟨_, rfl, ?_⟩
  apply State.event_cfg
  intro g
  (repeat' split) <;> first | rfl | (simp; done) | (simp only [State.cfg, Cfg.mk.injEq] <;> simp [↓cfg_mk, cfg_eqs]; done)

theorem execBellsLostNotice_cfg (sess : Fin 10) (t : Time) (s : State) :
    ∃ next, execBellsLostNotice sess t s = .next next ∧ next.cfg = s.cfg := by
  refine ⟨_, rfl, ?_⟩
  apply State.event_cfg
  intro g
  (repeat' split) <;> first | rfl | (simp; done) | (simp only [State.cfg, Cfg.mk.injEq] <;> simp [↓cfg_mk, cfg_eqs]; done)

theorem execLoginRequest_cfg (user : List Byte) (ln : Ln) (s : State) :
    ∃ next, execLoginRequest user ln s = .next next ∧ next.cfg = s.cfg := by
  refine ⟨_, rfl, ?_⟩
  apply State.sessionVerb_cfg
  intro u
  (repeat' split) <;> first | rfl | (simp; done) | (simp only [State.cfg, Cfg.mk.injEq] <;> simp [↓cfg_mk, cfg_eqs]; done)

theorem execLoginResponse_cfg (user sig : List Byte) (ln : Ln) (s : State) :
    ∃ next, execLoginResponse user sig ln s = .next next ∧ next.cfg = s.cfg := by
  refine ⟨_, rfl, ?_⟩
  apply State.sessionVerb_cfg
  intro u
  (repeat' split) <;> first | rfl | (simp; done) | (simp only [State.cfg, Cfg.mk.injEq] <;> simp [↓cfg_mk, cfg_eqs]; done)

theorem execLogout_cfg (ln : Ln) (s : State) :
    ∃ next, execLogout ln s = .next next ∧ next.cfg = s.cfg := by
  refine ⟨_, rfl, ?_⟩
  apply State.sessionVerb_cfg
  intro u
  (repeat' split) <;> first | rfl | (simp; done) | (simp only [State.cfg, Cfg.mk.injEq] <;> simp [↓cfg_mk, cfg_eqs]; done)

theorem execPing_cfg (ln : Ln) (s : State) :
    ∃ next, execPing ln s = .next next ∧ next.cfg = s.cfg := by
  refine ⟨_, rfl, ?_⟩
  apply State.sessionVerb_cfg
  intro u
  (repeat' split) <;> first | rfl | (simp; done) | (simp only [State.cfg, Cfg.mk.injEq] <;> simp [↓cfg_mk, cfg_eqs]; done)

theorem execMode_cfg (echo crc : Option Bool) (bells : Option (Fin 3)) (idle : Option Nat) (ln : Ln) (s : State) :
    ∃ next, execMode echo crc bells idle ln s = .next next ∧ next.cfg = s.cfg := by
  refine ⟨_, rfl, ?_⟩
  apply State.sessionVerb_cfg
  intro u
  (repeat' split) <;> first | rfl | (simp; done) | (simp only [State.cfg, Cfg.mk.injEq] <;> simp [↓cfg_mk, cfg_eqs]; done)

theorem execBadLine_cfg (sess : Fin 10) (bytes : List Byte) (overrun : Bool) (t : Time) (s : State) :
    ∃ next, execBadLine sess bytes overrun t s = .next next ∧ next.cfg = s.cfg := by
  refine ⟨_, rfl, ?_⟩
  dsimp only
  with_reducible apply ite_eq_cfg
  · rfl
  · with_reducible apply ite_eq_cfg
    · simp
    · split
      · simp
      · with_reducible apply ite_eq_cfg
        · rfl
        · split
          · with_reducible apply ite_eq_cfg
            · simp
            · with_reducible apply ite_eq_cfg
              · simp
              · rfl
          · simp

theorem execOpenStage_cfg (firmware : Bool) (size : Nat) (ln : Ln) (s : State) :
    ∃ next, execOpenStage firmware size ln s = .next next ∧ next.cfg = s.cfg := by
  refine ⟨_, rfl, ?_⟩
  apply State.judged_cfg
  intro u
  (repeat' split) <;> first | rfl | (simp; done) | (simp only [State.cfg, Cfg.mk.injEq] <;> simp [↓cfg_mk, cfg_eqs]; done)

theorem execPutStage_cfg (id off : Nat) (data : List Byte) (ln : Ln) (s : State) :
    ∃ next, execPutStage id off data ln s = .next next ∧ next.cfg = s.cfg := by
  refine ⟨_, rfl, ?_⟩
  apply State.judged_cfg
  intro u
  (repeat' first | (refine State.inRange_cfg _ _ _ _ _ _ _ ?_) | (refine State.onFold_cfg _ _ _ _ ?_) | (refine State.onChannel_cfg _ _ _ _ ?_) | (refine State.guard_cfg _ _ _ _ ?_) | intro _ | split) <;> first | rfl | (simp; done) | (simp only [State.cfg, Cfg.mk.injEq] <;> simp [↓cfg_mk, cfg_eqs]; done) | (simp; rfl) | (simp; simp only [State.cfg, Cfg.mk.injEq] <;> simp [↓cfg_mk, cfg_eqs]; done) | (dsimp only; simp; done) | (simp (disch := (intros; (repeat' split) <;> (first | rfl | (simp; done) | (simp only [State.cfg, Cfg.mk.injEq] <;> simp [↓cfg_mk, cfg_eqs]; done) | (simp; rfl) | (simp; simp only [State.cfg, Cfg.mk.injEq] <;> simp [↓cfg_mk, cfg_eqs]; done)))); done) | (dsimp only; simp (disch := (intros; (repeat' split) <;> (first | rfl | (simp; done) | (simp only [State.cfg, Cfg.mk.injEq] <;> simp [↓cfg_mk, cfg_eqs]; done) | (simp; rfl) | (simp; simp only [State.cfg, Cfg.mk.injEq] <;> simp [↓cfg_mk, cfg_eqs]; done)))); done) | (simp (disch := (intros; (repeat' split) <;> (first | rfl | (simp; done) | (simp only [State.cfg, Cfg.mk.injEq] <;> simp [↓cfg_mk, cfg_eqs]; done) | (simp; rfl) | (simp; simp only [State.cfg, Cfg.mk.injEq] <;> simp [↓cfg_mk, cfg_eqs]; done)))); rfl) | (simp (disch := (intros; (repeat' split) <;> (first | rfl | (simp; done) | (simp only [State.cfg, Cfg.mk.injEq] <;> simp [↓cfg_mk, cfg_eqs]; done) | (simp; rfl) | (simp; simp only [State.cfg, Cfg.mk.injEq] <;> simp [↓cfg_mk, cfg_eqs]; done)))); simp only [State.cfg, Cfg.mk.injEq] <;> simp [↓cfg_mk, cfg_eqs]; done) | (dsimp only; simp (disch := (intros; (repeat' split) <;> (first | rfl | (simp; done) | (simp only [State.cfg, Cfg.mk.injEq] <;> simp [↓cfg_mk, cfg_eqs]; done) | (simp; rfl) | (simp; simp only [State.cfg, Cfg.mk.injEq] <;> simp [↓cfg_mk, cfg_eqs]; done)))); simp only [State.cfg, Cfg.mk.injEq] <;> simp [↓cfg_mk, cfg_eqs]; done)

theorem execShowStage_cfg (ln : Ln) (s : State) :
    ∃ next, execShowStage ln s = .next next ∧ next.cfg = s.cfg := by
  refine ⟨_, rfl, ?_⟩
  apply State.judged_cfg
  intro u
  (repeat' split) <;> first | rfl | (simp; done) | (simp only [State.cfg, Cfg.mk.injEq] <;> simp [↓cfg_mk, cfg_eqs]; done)

theorem execDropStage_cfg (id : Nat) (ln : Ln) (s : State) :
    ∃ next, execDropStage id ln s = .next next ∧ next.cfg = s.cfg := by
  refine ⟨_, rfl, ?_⟩
  apply State.judged_cfg
  intro u
  (repeat' split) <;> first | rfl | (simp; done) | (simp only [State.cfg, Cfg.mk.injEq] <;> simp [↓cfg_mk, cfg_eqs]; done)

theorem execShowUsers_cfg (ln : Ln) (s : State) :
    ∃ next, execShowUsers ln s = .next next ∧ next.cfg = s.cfg := by
  refine ⟨_, rfl, ?_⟩
  apply State.judged_cfg
  intro u
  (repeat' split) <;> first | rfl | (simp; done) | (simp only [State.cfg, Cfg.mk.injEq] <;> simp [↓cfg_mk, cfg_eqs]; done)

theorem execAdmission_cfg (k : NedIx) (f : FrameIn) (t : Time) (s : State) :
    ∃ next, execAdmission k f t s = .next next ∧ next.cfg = s.cfg := by
  refine ⟨_, rfl, ?_⟩
  apply State.event_cfg
  intro g
  (repeat' split) <;> first | rfl | (simp; done) | (simp only [State.cfg, Cfg.mk.injEq] <;> simp [↓cfg_mk, cfg_eqs]; done)

theorem execGroupVerdict_cfg (k : NedIx) (fid : Nat) (group : GroupRead) (t : Time) (s : State) :
    ∃ next, execGroupVerdict k fid group t s = .next next ∧ next.cfg = s.cfg := by
  refine ⟨_, rfl, ?_⟩
  apply State.event_cfg
  intro g
  (repeat' split) <;> first | rfl | (simp; done) | (simp only [State.cfg, Cfg.mk.injEq] <;> simp [↓cfg_mk, cfg_eqs]; done)

theorem execFcsVerdict_cfg (k : NedIx) (fid : Nat) (good : Bool) (t : Time) (s : State) :
    ∃ next, execFcsVerdict k fid good t s = .next next ∧ next.cfg = s.cfg := by
  refine ⟨_, rfl, ?_⟩
  apply State.event_cfg
  intro g
  (repeat' split) <;> first | rfl | (simp; done) | (simp only [State.cfg, Cfg.mk.injEq] <;> simp [↓cfg_mk, cfg_eqs]; done) | (simp; rfl) | (simp; simp only [State.cfg, Cfg.mk.injEq] <;> simp [↓cfg_mk, cfg_eqs]; done) | (dsimp only; simp; done) | (simp (disch := (intros; (repeat' split) <;> (first | rfl | (simp; done) | (simp only [State.cfg, Cfg.mk.injEq] <;> simp [↓cfg_mk, cfg_eqs]; done) | (simp; rfl) | (simp; simp only [State.cfg, Cfg.mk.injEq] <;> simp [↓cfg_mk, cfg_eqs]; done)))); done) | (dsimp only; simp (disch := (intros; (repeat' split) <;> (first | rfl | (simp; done) | (simp only [State.cfg, Cfg.mk.injEq] <;> simp [↓cfg_mk, cfg_eqs]; done) | (simp; rfl) | (simp; simp only [State.cfg, Cfg.mk.injEq] <;> simp [↓cfg_mk, cfg_eqs]; done)))); done) | (simp (disch := (intros; (repeat' split) <;> (first | rfl | (simp; done) | (simp only [State.cfg, Cfg.mk.injEq] <;> simp [↓cfg_mk, cfg_eqs]; done) | (simp; rfl) | (simp; simp only [State.cfg, Cfg.mk.injEq] <;> simp [↓cfg_mk, cfg_eqs]; done)))); rfl) | (simp (disch := (intros; (repeat' split) <;> (first | rfl | (simp; done) | (simp only [State.cfg, Cfg.mk.injEq] <;> simp [↓cfg_mk, cfg_eqs]; done) | (simp; rfl) | (simp; simp only [State.cfg, Cfg.mk.injEq] <;> simp [↓cfg_mk, cfg_eqs]; done)))); simp only [State.cfg, Cfg.mk.injEq] <;> simp [↓cfg_mk, cfg_eqs]; done) | (dsimp only; simp (disch := (intros; (repeat' split) <;> (first | rfl | (simp; done) | (simp only [State.cfg, Cfg.mk.injEq] <;> simp [↓cfg_mk, cfg_eqs]; done) | (simp; rfl) | (simp; simp only [State.cfg, Cfg.mk.injEq] <;> simp [↓cfg_mk, cfg_eqs]; done)))); simp only [State.cfg, Cfg.mk.injEq] <;> simp [↓cfg_mk, cfg_eqs]; done)

theorem execFrameTail_cfg (k : NedIx) (fid : Nat) (t : Time) (s : State) :
    ∃ next, execFrameTail k fid t s = .next next ∧ next.cfg = s.cfg := by
  refine ⟨_, rfl, ?_⟩
  apply State.event_cfg
  intro g
  (repeat' split) <;> first | rfl | (simp; done) | (simp only [State.cfg, Cfg.mk.injEq] <;> simp [↓cfg_mk, cfg_eqs]; done) | (simp; rfl) | (simp; simp only [State.cfg, Cfg.mk.injEq] <;> simp [↓cfg_mk, cfg_eqs]; done) | (dsimp only; simp; done) | (simp (disch := (intros; (repeat' split) <;> (first | rfl | (simp; done) | (simp only [State.cfg, Cfg.mk.injEq] <;> simp [↓cfg_mk, cfg_eqs]; done) | (simp; rfl) | (simp; simp only [State.cfg, Cfg.mk.injEq] <;> simp [↓cfg_mk, cfg_eqs]; done)))); done) | (dsimp only; simp (disch := (intros; (repeat' split) <;> (first | rfl | (simp; done) | (simp only [State.cfg, Cfg.mk.injEq] <;> simp [↓cfg_mk, cfg_eqs]; done) | (simp; rfl) | (simp; simp only [State.cfg, Cfg.mk.injEq] <;> simp [↓cfg_mk, cfg_eqs]; done)))); done) | (simp (disch := (intros; (repeat' split) <;> (first | rfl | (simp; done) | (simp only [State.cfg, Cfg.mk.injEq] <;> simp [↓cfg_mk, cfg_eqs]; done) | (simp; rfl) | (simp; simp only [State.cfg, Cfg.mk.injEq] <;> simp [↓cfg_mk, cfg_eqs]; done)))); rfl) | (simp (disch := (intros; (repeat' split) <;> (first | rfl | (simp; done) | (simp only [State.cfg, Cfg.mk.injEq] <;> simp [↓cfg_mk, cfg_eqs]; done) | (simp; rfl) | (simp; simp only [State.cfg, Cfg.mk.injEq] <;> simp [↓cfg_mk, cfg_eqs]; done)))); simp only [State.cfg, Cfg.mk.injEq] <;> simp [↓cfg_mk, cfg_eqs]; done) | (dsimp only; simp (disch := (intros; (repeat' split) <;> (first | rfl | (simp; done) | (simp only [State.cfg, Cfg.mk.injEq] <;> simp [↓cfg_mk, cfg_eqs]; done) | (simp; rfl) | (simp; simp only [State.cfg, Cfg.mk.injEq] <;> simp [↓cfg_mk, cfg_eqs]; done)))); simp only [State.cfg, Cfg.mk.injEq] <;> simp [↓cfg_mk, cfg_eqs]; done)

theorem execSpeculationAbort_cfg (k : NedIx) (fid : Nat) (t : Time) (s : State) :
    ∃ next, execSpeculationAbort k fid t s = .next next ∧ next.cfg = s.cfg := by
  refine ⟨_, rfl, ?_⟩
  apply State.event_cfg
  intro g
  (repeat' split) <;> first | rfl | (simp; done) | (simp only [State.cfg, Cfg.mk.injEq] <;> simp [↓cfg_mk, cfg_eqs]; done) | (simp; rfl) | (simp; simp only [State.cfg, Cfg.mk.injEq] <;> simp [↓cfg_mk, cfg_eqs]; done) | (dsimp only; simp; done) | (simp (disch := (intros; (repeat' split) <;> (first | rfl | (simp; done) | (simp only [State.cfg, Cfg.mk.injEq] <;> simp [↓cfg_mk, cfg_eqs]; done) | (simp; rfl) | (simp; simp only [State.cfg, Cfg.mk.injEq] <;> simp [↓cfg_mk, cfg_eqs]; done)))); done) | (dsimp only; simp (disch := (intros; (repeat' split) <;> (first | rfl | (simp; done) | (simp only [State.cfg, Cfg.mk.injEq] <;> simp [↓cfg_mk, cfg_eqs]; done) | (simp; rfl) | (simp; simp only [State.cfg, Cfg.mk.injEq] <;> simp [↓cfg_mk, cfg_eqs]; done)))); done) | (simp (disch := (intros; (repeat' split) <;> (first | rfl | (simp; done) | (simp only [State.cfg, Cfg.mk.injEq] <;> simp [↓cfg_mk, cfg_eqs]; done) | (simp; rfl) | (simp; simp only [State.cfg, Cfg.mk.injEq] <;> simp [↓cfg_mk, cfg_eqs]; done)))); rfl) | (simp (disch := (intros; (repeat' split) <;> (first | rfl | (simp; done) | (simp only [State.cfg, Cfg.mk.injEq] <;> simp [↓cfg_mk, cfg_eqs]; done) | (simp; rfl) | (simp; simp only [State.cfg, Cfg.mk.injEq] <;> simp [↓cfg_mk, cfg_eqs]; done)))); simp only [State.cfg, Cfg.mk.injEq] <;> simp [↓cfg_mk, cfg_eqs]; done) | (dsimp only; simp (disch := (intros; (repeat' split) <;> (first | rfl | (simp; done) | (simp only [State.cfg, Cfg.mk.injEq] <;> simp [↓cfg_mk, cfg_eqs]; done) | (simp; rfl) | (simp; simp only [State.cfg, Cfg.mk.injEq] <;> simp [↓cfg_mk, cfg_eqs]; done)))); simp only [State.cfg, Cfg.mk.injEq] <;> simp [↓cfg_mk, cfg_eqs]; done)

theorem execResultArrival_cfg (k : NedIx) (e : Fin 2) (lane : Lane) (vc : Bool) (t : Time) (s : State) :
    ∃ next, execResultArrival k e lane vc t s = .next next ∧ next.cfg = s.cfg := by
  refine ⟨_, rfl, ?_⟩
  apply State.event_cfg
  intro g
  dsimp only
  (repeat' split) <;> first | rfl | (simp; done) | (simp only [State.cfg, Cfg.mk.injEq] <;> simp [↓cfg_mk, cfg_eqs]; done)

theorem execReplyStart_cfg (k : NedIx) (fid : Nat) (t : Time) (s : State) :
    ∃ next, execReplyStart k fid t s = .next next ∧ next.cfg = s.cfg := by
  refine ⟨_, rfl, ?_⟩
  apply State.event_cfg
  intro g
  (repeat' split) <;> first | rfl | (simp; done) | (simp only [State.cfg, Cfg.mk.injEq] <;> simp [↓cfg_mk, cfg_eqs]; done)

theorem execPtpEvent_cfg (k : NedIx) (port : Fin 8) (bytes : List Byte) (egress : Bool) (sfd t : Time) (s : State) :
    ∃ next, execPtpEvent k port bytes egress sfd t s = .next next ∧ next.cfg = s.cfg := by
  refine ⟨_, rfl, State.event_cfg _ _ _ _ fun _ => ?_⟩
  dsimp only
  with_reducible apply ite_eq_cfg
  · exact (State.modNed_cfg _ _ _).trans (wire_cfg _ _)
  · exact (heard_cfg _ _).trans (State.modNed_cfg _ _ _)

theorem execRsFault_cfg (k : NedIx) (port : Fin 8) (remote : Bool) (t : Time) (s : State) :
    ∃ next, execRsFault k port remote t s = .next next ∧ next.cfg = s.cfg := by
  refine ⟨_, rfl, ?_⟩
  apply State.event_cfg
  intro g
  (repeat' split) <;> first | rfl | (simp; done) | (simp only [State.cfg, Cfg.mk.injEq] <;> simp [↓cfg_mk, cfg_eqs]; done)

theorem execRsFaultCleared_cfg (k : NedIx) (fault : PortFault) (t : Time) (s : State) :
    ∃ next, execRsFaultCleared k fault t s = .next next ∧ next.cfg = s.cfg := by
  refine ⟨_, rfl, ?_⟩
  apply State.event_cfg
  intro g
  (repeat' split) <;> first | rfl | (simp; done) | (simp only [State.cfg, Cfg.mk.injEq] <;> simp [↓cfg_mk, cfg_eqs]; done)

theorem execNedDoubt_cfg (k : NedIx) (cause : Nat) (t : Time) (s : State) :
    ∃ next, execNedDoubt k cause t s = .next next ∧ next.cfg = s.cfg := by
  refine ⟨_, rfl, ?_⟩
  apply State.event_cfg
  intro g
  (repeat' split) <;> first | rfl | (simp; done) | (simp only [State.cfg, Cfg.mk.injEq] <;> simp [↓cfg_mk, cfg_eqs]; done)

theorem execPwrFailNedStop_cfg (t : Time) (s : State) :
    ∃ next, execPwrFailNedStop t s = .next next ∧ next.cfg = s.cfg := by
  refine ⟨_, rfl, State.event_cfg _ _ _ _ fun _ => ?_⟩
  exact foldl_cfg _ (fun _ _ => by simp) _ _

theorem execKeepaliveLoss_cfg (die : Nat) (t : Time) (s : State) :
    ∃ next, execKeepaliveLoss die t s = .next next ∧ next.cfg = s.cfg := by
  refine ⟨_, rfl, ?_⟩
  apply State.event_cfg
  intro g
  (repeat' split) <;> first | rfl | (simp; done) | (simp only [State.cfg, Cfg.mk.injEq] <;> simp [↓cfg_mk, cfg_eqs]; done)

theorem execPortDrainComplete_cfg (k : NedIx) (port : Fin 8) (t : Time) (s : State) :
    ∃ next, execPortDrainComplete k port t s = .next next ∧ next.cfg = s.cfg := by
  refine ⟨_, rfl, ?_⟩
  apply State.event_cfg
  intro g
  (repeat' split) <;> first | rfl | (simp; done) | (simp only [State.cfg, Cfg.mk.injEq] <;> simp [↓cfg_mk, cfg_eqs]; done)

theorem execPortDrainExpiry_cfg (k : NedIx) (port : Fin 8) (t : Time) (s : State) :
    ∃ next, execPortDrainExpiry k port t s = .next next ∧ next.cfg = s.cfg := by
  refine ⟨_, rfl, ?_⟩
  apply State.event_cfg
  intro g
  (repeat' split) <;> first | rfl | (simp; done) | (simp only [State.cfg, Cfg.mk.injEq] <;> simp [↓cfg_mk, cfg_eqs]; done)

theorem execPortSettingsApplied_cfg (k : NedIx) (port : Fin 8) (t : Time) (s : State) :
    ∃ next, execPortSettingsApplied k port t s = .next next ∧ next.cfg = s.cfg := by
  refine ⟨_, rfl, ?_⟩
  apply State.event_cfg
  intro g
  dsimp only
  (repeat' split) <;> first | rfl | (simp; done) | (simp only [State.cfg, Cfg.mk.injEq] <;> simp [↓cfg_mk, cfg_eqs]; done)

theorem execPenRelease_cfg (k : NedIx) (t : Time) (s : State) :
    ∃ next, execPenRelease k t s = .next next ∧ next.cfg = s.cfg := by
  refine ⟨_, rfl, State.event_cfg _ _ _ _ fun _ => ?_⟩
  dsimp only
  split
  · rfl
  · rw [State.intoWafer_cfg, State.count_cfg, State.setNed_cfg]
    rfl

theorem execPenDeadlineExpiry_cfg (k : NedIx) (fid : Nat) (t : Time) (s : State) :
    ∃ next, execPenDeadlineExpiry k fid t s = .next next ∧ next.cfg = s.cfg := by
  refine ⟨_, rfl, ?_⟩
  apply State.event_cfg
  intro g
  (repeat' split) <;> first | rfl | (simp; done) | (simp only [State.cfg, Cfg.mk.injEq] <;> simp [↓cfg_mk, cfg_eqs]; done)

theorem execBurstToken_cfg (k : NedIx) (t : Time) (s : State) :
    ∃ next, execBurstToken k t s = .next next ∧ next.cfg = s.cfg := by
  refine ⟨_, rfl, ?_⟩
  apply State.event_cfg
  intro g
  dsimp only
  (repeat' split) <;> first | rfl | (simp; done) | (simp only [State.cfg, Cfg.mk.injEq] <;> simp [↓cfg_mk, cfg_eqs]; done)

theorem execInFlightLimit_cfg (k : NedIx) (fid : Nat) (t : Time) (s : State) :
    ∃ next, execInFlightLimit k fid t s = .next next ∧ next.cfg = s.cfg := by
  refine ⟨_, rfl, ?_⟩
  apply State.event_cfg
  intro g
  (repeat' split) <;> first | rfl | (simp; done) | (simp only [State.cfg, Cfg.mk.injEq] <;> simp [↓cfg_mk, cfg_eqs]; done)

theorem execStrayRefusal_cfg (k : NedIx) (tag : BitVec 16) (t : Time) (s : State) :
    ∃ next, execStrayRefusal k tag t s = .next next ∧ next.cfg = s.cfg := by
  refine ⟨_, rfl, ?_⟩
  apply State.event_cfg
  intro g
  (repeat' split) <;> first | rfl | (simp; done) | (simp only [State.cfg, Cfg.mk.injEq] <;> simp [↓cfg_mk, cfg_eqs]; done)

theorem execShowPort_cfg (ned : Nat) (port : Option Nat) (ln : Ln) (s : State) :
    ∃ next, execShowPort ned port ln s = .next next ∧ next.cfg = s.cfg := by
  refine ⟨_, rfl, ?_⟩
  apply State.judged_cfg
  intro u
  (repeat' split) <;> first | rfl | (simp; done) | (simp only [State.cfg, Cfg.mk.injEq] <;> simp [↓cfg_mk, cfg_eqs]; done)

theorem execSetLanes_cfg (ned group mode : Nat) (ln : Ln) (s : State) :
    ∃ next, execSetLanes ned group mode ln s = .next next ∧ next.cfg = s.cfg := by
  refine ⟨_, rfl, ?_⟩
  apply State.judged_cfg
  intro u
  (repeat' first | (refine State.inRange_cfg _ _ _ _ _ _ _ ?_) | (refine State.onFold_cfg _ _ _ _ ?_) | (refine State.onChannel_cfg _ _ _ _ ?_) | (refine State.guard_cfg _ _ _ _ ?_) | intro _ | split) <;> first | rfl | (simp; done) | (simp only [State.cfg, Cfg.mk.injEq] <;> simp [↓cfg_mk, cfg_eqs]; done) | (simp; rfl) | (simp; simp only [State.cfg, Cfg.mk.injEq] <;> simp [↓cfg_mk, cfg_eqs]; done) | (dsimp only; simp; done) | (simp (disch := (intros; (repeat' split) <;> (first | rfl | (simp; done) | (simp only [State.cfg, Cfg.mk.injEq] <;> simp [↓cfg_mk, cfg_eqs]; done) | (simp; rfl) | (simp; simp only [State.cfg, Cfg.mk.injEq] <;> simp [↓cfg_mk, cfg_eqs]; done)))); done) | (dsimp only; simp (disch := (intros; (repeat' split) <;> (first | rfl | (simp; done) | (simp only [State.cfg, Cfg.mk.injEq] <;> simp [↓cfg_mk, cfg_eqs]; done) | (simp; rfl) | (simp; simp only [State.cfg, Cfg.mk.injEq] <;> simp [↓cfg_mk, cfg_eqs]; done)))); done) | (simp (disch := (intros; (repeat' split) <;> (first | rfl | (simp; done) | (simp only [State.cfg, Cfg.mk.injEq] <;> simp [↓cfg_mk, cfg_eqs]; done) | (simp; rfl) | (simp; simp only [State.cfg, Cfg.mk.injEq] <;> simp [↓cfg_mk, cfg_eqs]; done)))); rfl) | (simp (disch := (intros; (repeat' split) <;> (first | rfl | (simp; done) | (simp only [State.cfg, Cfg.mk.injEq] <;> simp [↓cfg_mk, cfg_eqs]; done) | (simp; rfl) | (simp; simp only [State.cfg, Cfg.mk.injEq] <;> simp [↓cfg_mk, cfg_eqs]; done)))); simp only [State.cfg, Cfg.mk.injEq] <;> simp [↓cfg_mk, cfg_eqs]; done) | (dsimp only; simp (disch := (intros; (repeat' split) <;> (first | rfl | (simp; done) | (simp only [State.cfg, Cfg.mk.injEq] <;> simp [↓cfg_mk, cfg_eqs]; done) | (simp; rfl) | (simp; simp only [State.cfg, Cfg.mk.injEq] <;> simp [↓cfg_mk, cfg_eqs]; done)))); simp only [State.cfg, Cfg.mk.injEq] <;> simp [↓cfg_mk, cfg_eqs]; done)

theorem execEnablePort_cfg (ned port : Nat) (ln : Ln) (s : State) :
    ∃ next, execEnablePort ned port ln s = .next next ∧ next.cfg = s.cfg := by
  refine ⟨_, rfl, ?_⟩
  apply State.judged_cfg
  intro u
  (repeat' split) <;> first | rfl | (simp; done) | (simp only [State.cfg, Cfg.mk.injEq] <;> simp [↓cfg_mk, cfg_eqs]; done)

theorem execDisablePort_cfg (ned port : Nat) (ln : Ln) (s : State) :
    ∃ next, execDisablePort ned port ln s = .next next ∧ next.cfg = s.cfg := by
  refine ⟨_, rfl, ?_⟩
  apply State.judged_cfg
  intro u
  (repeat' split) <;> first | rfl | (simp; done) | (simp only [State.cfg, Cfg.mk.injEq] <;> simp [↓cfg_mk, cfg_eqs]; done)

theorem execSetTemplate_cfg (ned index : Nat) (a : TemplateArgs) (ln : Ln) (s : State) :
    ∃ next, execSetTemplate ned index a ln s = .next next ∧ next.cfg = s.cfg := by
  refine ⟨_, rfl, ?_⟩
  apply State.judged_cfg
  intro u
  (repeat' first | (refine State.inRange_cfg _ _ _ _ _ _ _ ?_) | (refine State.onFold_cfg _ _ _ _ ?_) | (refine State.onChannel_cfg _ _ _ _ ?_) | (refine State.guard_cfg _ _ _ _ ?_) | intro _ | split) <;> first | rfl | (simp; done) | (simp only [State.cfg, Cfg.mk.injEq] <;> simp [↓cfg_mk, cfg_eqs]; done) | (simp; rfl) | (simp; simp only [State.cfg, Cfg.mk.injEq] <;> simp [↓cfg_mk, cfg_eqs]; done) | (dsimp only; simp; done) | (simp (disch := (intros; (repeat' split) <;> (first | rfl | (simp; done) | (simp only [State.cfg, Cfg.mk.injEq] <;> simp [↓cfg_mk, cfg_eqs]; done) | (simp; rfl) | (simp; simp only [State.cfg, Cfg.mk.injEq] <;> simp [↓cfg_mk, cfg_eqs]; done)))); done) | (dsimp only; simp (disch := (intros; (repeat' split) <;> (first | rfl | (simp; done) | (simp only [State.cfg, Cfg.mk.injEq] <;> simp [↓cfg_mk, cfg_eqs]; done) | (simp; rfl) | (simp; simp only [State.cfg, Cfg.mk.injEq] <;> simp [↓cfg_mk, cfg_eqs]; done)))); done) | (simp (disch := (intros; (repeat' split) <;> (first | rfl | (simp; done) | (simp only [State.cfg, Cfg.mk.injEq] <;> simp [↓cfg_mk, cfg_eqs]; done) | (simp; rfl) | (simp; simp only [State.cfg, Cfg.mk.injEq] <;> simp [↓cfg_mk, cfg_eqs]; done)))); rfl) | (simp (disch := (intros; (repeat' split) <;> (first | rfl | (simp; done) | (simp only [State.cfg, Cfg.mk.injEq] <;> simp [↓cfg_mk, cfg_eqs]; done) | (simp; rfl) | (simp; simp only [State.cfg, Cfg.mk.injEq] <;> simp [↓cfg_mk, cfg_eqs]; done)))); simp only [State.cfg, Cfg.mk.injEq] <;> simp [↓cfg_mk, cfg_eqs]; done) | (dsimp only; simp (disch := (intros; (repeat' split) <;> (first | rfl | (simp; done) | (simp only [State.cfg, Cfg.mk.injEq] <;> simp [↓cfg_mk, cfg_eqs]; done) | (simp; rfl) | (simp; simp only [State.cfg, Cfg.mk.injEq] <;> simp [↓cfg_mk, cfg_eqs]; done)))); simp only [State.cfg, Cfg.mk.injEq] <;> simp [↓cfg_mk, cfg_eqs]; done)

theorem execSetBurst_cfg (ned rate depth : Nat) (ln : Ln) (s : State) :
    ∃ next, execSetBurst ned rate depth ln s = .next next ∧ next.cfg = s.cfg := by
  refine ⟨_, rfl, ?_⟩
  apply State.judged_cfg
  intro u
  (repeat' first | (refine State.inRange_cfg _ _ _ _ _ _ _ ?_) | (refine State.onFold_cfg _ _ _ _ ?_) | (refine State.onChannel_cfg _ _ _ _ ?_) | (refine State.guard_cfg _ _ _ _ ?_) | intro _ | split) <;> first | rfl | (simp; done) | (simp only [State.cfg, Cfg.mk.injEq] <;> simp [↓cfg_mk, cfg_eqs]; done) | (simp; rfl) | (simp; simp only [State.cfg, Cfg.mk.injEq] <;> simp [↓cfg_mk, cfg_eqs]; done) | (dsimp only; simp; done) | (simp (disch := (intros; (repeat' split) <;> (first | rfl | (simp; done) | (simp only [State.cfg, Cfg.mk.injEq] <;> simp [↓cfg_mk, cfg_eqs]; done) | (simp; rfl) | (simp; simp only [State.cfg, Cfg.mk.injEq] <;> simp [↓cfg_mk, cfg_eqs]; done)))); done) | (dsimp only; simp (disch := (intros; (repeat' split) <;> (first | rfl | (simp; done) | (simp only [State.cfg, Cfg.mk.injEq] <;> simp [↓cfg_mk, cfg_eqs]; done) | (simp; rfl) | (simp; simp only [State.cfg, Cfg.mk.injEq] <;> simp [↓cfg_mk, cfg_eqs]; done)))); done) | (simp (disch := (intros; (repeat' split) <;> (first | rfl | (simp; done) | (simp only [State.cfg, Cfg.mk.injEq] <;> simp [↓cfg_mk, cfg_eqs]; done) | (simp; rfl) | (simp; simp only [State.cfg, Cfg.mk.injEq] <;> simp [↓cfg_mk, cfg_eqs]; done)))); rfl) | (simp (disch := (intros; (repeat' split) <;> (first | rfl | (simp; done) | (simp only [State.cfg, Cfg.mk.injEq] <;> simp [↓cfg_mk, cfg_eqs]; done) | (simp; rfl) | (simp; simp only [State.cfg, Cfg.mk.injEq] <;> simp [↓cfg_mk, cfg_eqs]; done)))); simp only [State.cfg, Cfg.mk.injEq] <;> simp [↓cfg_mk, cfg_eqs]; done) | (dsimp only; simp (disch := (intros; (repeat' split) <;> (first | rfl | (simp; done) | (simp only [State.cfg, Cfg.mk.injEq] <;> simp [↓cfg_mk, cfg_eqs]; done) | (simp; rfl) | (simp; simp only [State.cfg, Cfg.mk.injEq] <;> simp [↓cfg_mk, cfg_eqs]; done)))); simp only [State.cfg, Cfg.mk.injEq] <;> simp [↓cfg_mk, cfg_eqs]; done)

theorem execSetPtp_cfg (ned port : Nat) (ln : Ln) (s : State) :
    ∃ next, execSetPtp ned port ln s = .next next ∧ next.cfg = s.cfg := by
  refine ⟨_, rfl, ?_⟩
  apply State.judged_cfg
  intro u
  (repeat' first | (refine State.inRange_cfg _ _ _ _ _ _ _ ?_) | (refine State.onFold_cfg _ _ _ _ ?_) | (refine State.onChannel_cfg _ _ _ _ ?_) | (refine State.guard_cfg _ _ _ _ ?_) | intro _ | split) <;> first | rfl | (simp; done) | (simp only [State.cfg, Cfg.mk.injEq] <;> simp [↓cfg_mk, cfg_eqs]; done) | (simp; rfl) | (simp; simp only [State.cfg, Cfg.mk.injEq] <;> simp [↓cfg_mk, cfg_eqs]; done) | (dsimp only; simp; done) | (simp (disch := (intros; (repeat' split) <;> (first | rfl | (simp; done) | (simp only [State.cfg, Cfg.mk.injEq] <;> simp [↓cfg_mk, cfg_eqs]; done) | (simp; rfl) | (simp; simp only [State.cfg, Cfg.mk.injEq] <;> simp [↓cfg_mk, cfg_eqs]; done)))); done) | (dsimp only; simp (disch := (intros; (repeat' split) <;> (first | rfl | (simp; done) | (simp only [State.cfg, Cfg.mk.injEq] <;> simp [↓cfg_mk, cfg_eqs]; done) | (simp; rfl) | (simp; simp only [State.cfg, Cfg.mk.injEq] <;> simp [↓cfg_mk, cfg_eqs]; done)))); done) | (simp (disch := (intros; (repeat' split) <;> (first | rfl | (simp; done) | (simp only [State.cfg, Cfg.mk.injEq] <;> simp [↓cfg_mk, cfg_eqs]; done) | (simp; rfl) | (simp; simp only [State.cfg, Cfg.mk.injEq] <;> simp [↓cfg_mk, cfg_eqs]; done)))); rfl) | (simp (disch := (intros; (repeat' split) <;> (first | rfl | (simp; done) | (simp only [State.cfg, Cfg.mk.injEq] <;> simp [↓cfg_mk, cfg_eqs]; done) | (simp; rfl) | (simp; simp only [State.cfg, Cfg.mk.injEq] <;> simp [↓cfg_mk, cfg_eqs]; done)))); simp only [State.cfg, Cfg.mk.injEq] <;> simp [↓cfg_mk, cfg_eqs]; done) | (dsimp only; simp (disch := (intros; (repeat' split) <;> (first | rfl | (simp; done) | (simp only [State.cfg, Cfg.mk.injEq] <;> simp [↓cfg_mk, cfg_eqs]; done) | (simp; rfl) | (simp; simp only [State.cfg, Cfg.mk.injEq] <;> simp [↓cfg_mk, cfg_eqs]; done)))); simp only [State.cfg, Cfg.mk.injEq] <;> simp [↓cfg_mk, cfg_eqs]; done)

theorem execSetBucket_cfg (ned index fold rate depth : Nat) (burst pen : Option Bool) (ln : Ln) (s : State) :
    ∃ next, execSetBucket ned index fold rate depth burst pen ln s = .next next ∧ next.cfg = s.cfg := by
  refine ⟨_, rfl, ?_⟩
  apply State.judged_cfg
  intro u
  (repeat' first | (refine State.inRange_cfg _ _ _ _ _ _ _ ?_) | (refine State.onFold_cfg _ _ _ _ ?_) | (refine State.onChannel_cfg _ _ _ _ ?_) | (refine State.guard_cfg _ _ _ _ ?_) | intro _ | split) <;> first | rfl | (simp; done) | (simp only [State.cfg, Cfg.mk.injEq] <;> simp [↓cfg_mk, cfg_eqs]; done) | (simp; rfl) | (simp; simp only [State.cfg, Cfg.mk.injEq] <;> simp [↓cfg_mk, cfg_eqs]; done) | (dsimp only; simp; done) | (simp (disch := (intros; (repeat' split) <;> (first | rfl | (simp; done) | (simp only [State.cfg, Cfg.mk.injEq] <;> simp [↓cfg_mk, cfg_eqs]; done) | (simp; rfl) | (simp; simp only [State.cfg, Cfg.mk.injEq] <;> simp [↓cfg_mk, cfg_eqs]; done)))); done) | (dsimp only; simp (disch := (intros; (repeat' split) <;> (first | rfl | (simp; done) | (simp only [State.cfg, Cfg.mk.injEq] <;> simp [↓cfg_mk, cfg_eqs]; done) | (simp; rfl) | (simp; simp only [State.cfg, Cfg.mk.injEq] <;> simp [↓cfg_mk, cfg_eqs]; done)))); done) | (simp (disch := (intros; (repeat' split) <;> (first | rfl | (simp; done) | (simp only [State.cfg, Cfg.mk.injEq] <;> simp [↓cfg_mk, cfg_eqs]; done) | (simp; rfl) | (simp; simp only [State.cfg, Cfg.mk.injEq] <;> simp [↓cfg_mk, cfg_eqs]; done)))); rfl) | (simp (disch := (intros; (repeat' split) <;> (first | rfl | (simp; done) | (simp only [State.cfg, Cfg.mk.injEq] <;> simp [↓cfg_mk, cfg_eqs]; done) | (simp; rfl) | (simp; simp only [State.cfg, Cfg.mk.injEq] <;> simp [↓cfg_mk, cfg_eqs]; done)))); simp only [State.cfg, Cfg.mk.injEq] <;> simp [↓cfg_mk, cfg_eqs]; done) | (dsimp only; simp (disch := (intros; (repeat' split) <;> (first | rfl | (simp; done) | (simp only [State.cfg, Cfg.mk.injEq] <;> simp [↓cfg_mk, cfg_eqs]; done) | (simp; rfl) | (simp; simp only [State.cfg, Cfg.mk.injEq] <;> simp [↓cfg_mk, cfg_eqs]; done)))); simp only [State.cfg, Cfg.mk.injEq] <;> simp [↓cfg_mk, cfg_eqs]; done)

theorem execShowBucket_cfg (ned index : Nat) (ln : Ln) (s : State) :
    ∃ next, execShowBucket ned index ln s = .next next ∧ next.cfg = s.cfg := by
  refine ⟨_, rfl, ?_⟩
  apply State.judged_cfg
  intro u
  (repeat' split) <;> first | rfl | (simp; done) | (simp only [State.cfg, Cfg.mk.injEq] <;> simp [↓cfg_mk, cfg_eqs]; done)

theorem execFlockFormation_cfg (members : List MemberInfo) (t : Time) (s : State) :
    ∃ next, execFlockFormation members t s = .next next ∧ next.cfg = s.cfg := by
  refine ⟨_, rfl, ?_⟩
  apply State.event_cfg
  intro g
  (repeat' split) <;> first | rfl | (simp; done) | (simp only [State.cfg, Cfg.mk.injEq] <;> simp [↓cfg_mk, cfg_eqs]; done)

theorem execCreateFold_cfg (a : FoldArgs) (ln : Ln) (s : State) :
    ∃ next, execCreateFold a ln s = .next next ∧ next.cfg = s.cfg := by
  refine ⟨_, rfl, State.judged_cfg _ _ _ _ _ fun u => State.guard_cfg _ _ _ _ ?_⟩
  split
  · simp
  · rename_i h
    rw [State.creationEnds_cfg, State.await_cfg, State.mirror_cfg, State.enterFold_cfg, State.leaseAll_cfg h]

theorem execResizeFold_cfg (id : Nat) (a : ResizeArgs) (ln : Ln) (s : State) :
    ∃ next, execResizeFold id a ln s = .next next ∧ next.cfg = s.cfg := by
  refine ⟨_, rfl, State.judged_cfg _ _ _ _ _ fun u => State.onFold_cfg _ _ _ _ fun f => State.guard_cfg _ _ _ _ ?_⟩
  split
  · simp
  · rename_i h
    dsimp only
    rw [State.ok_cfg, State.mirror_cfg, State.resizeTo_cfg, State.leaseAll_cfg h]

theorem execDestroyFold_cfg (id : Nat) (ln : Ln) (s : State) :
    ∃ next, execDestroyFold id ln s = .next next ∧ next.cfg = s.cfg := by
  refine ⟨_, rfl, ?_⟩
  apply State.judged_cfg
  intro u
  (repeat' split) <;> first | rfl | (simp; done) | (simp only [State.cfg, Cfg.mk.injEq] <;> simp [↓cfg_mk, cfg_eqs]; done)

theorem execReleaseDrainExpiry_cfg (fold : Nat) (t : Time) (s : State) :
    ∃ next, execReleaseDrainExpiry fold t s = .next next ∧ next.cfg = s.cfg := by
  refine ⟨_, rfl, ?_⟩
  apply State.event_cfg
  intro g
  (repeat' split) <;> first | rfl | (simp; done) | (simp only [State.cfg, Cfg.mk.injEq] <;> simp [↓cfg_mk, cfg_eqs]; done)

theorem execScrubRecord_cfg (fold : Nat) (t : Time) (s : State) :
    ∃ next, execScrubRecord fold t s = .next next ∧ next.cfg = s.cfg := by
  refine ⟨_, rfl, ?_⟩
  apply State.event_cfg
  intro g
  (repeat' split) <;> first | rfl | (simp; done) | (simp only [State.cfg, Cfg.mk.injEq] <;> simp [↓cfg_mk, cfg_eqs]; done)

theorem execSetFold_cfg (id : Nat) (ckpt : Option (Option Nat)) (pen weight : Option Nat) (ln : Ln) (s : State) :
    ∃ next, execSetFold id ckpt pen weight ln s = .next next ∧ next.cfg = s.cfg := by
  refine ⟨_, rfl, ?_⟩
  apply State.judged_cfg
  intro u
  (repeat' split) <;> first | rfl | (simp; done) | (simp only [State.cfg, Cfg.mk.injEq] <;> simp [↓cfg_mk, cfg_eqs]; done)

theorem execSetRotation_cfg (med : Nat) (slots : Option (List Nat)) (ln : Ln) (s : State) :
    ∃ next, execSetRotation med slots ln s = .next next ∧ next.cfg = s.cfg := by
  refine ⟨_, rfl, ?_⟩
  apply State.judged_cfg
  intro u
  (repeat' split) <;> first | rfl | (simp; done) | (simp only [State.cfg, Cfg.mk.injEq] <;> simp [↓cfg_mk, cfg_eqs]; done)

theorem execShowFold_cfg (id : Nat) (ln : Ln) (s : State) :
    ∃ next, execShowFold id ln s = .next next ∧ next.cfg = s.cfg := by
  refine ⟨_, rfl, ?_⟩
  apply State.judged_cfg
  intro u
  (repeat' split) <;> first | rfl | (simp; done) | (simp only [State.cfg, Cfg.mk.injEq] <;> simp [↓cfg_mk, cfg_eqs]; done)

theorem execShowFolds_cfg (ln : Ln) (s : State) :
    ∃ next, execShowFolds ln s = .next next ∧ next.cfg = s.cfg := by
  refine ⟨_, rfl, ?_⟩
  apply State.judged_cfg
  intro u
  (repeat' split) <;> first | rfl | (simp; done) | (simp only [State.cfg, Cfg.mk.injEq] <;> simp [↓cfg_mk, cfg_eqs]; done)

theorem execShowKeys_cfg (fold : Nat) (ln : Ln) (s : State) :
    ∃ next, execShowKeys fold ln s = .next next ∧ next.cfg = s.cfg := by
  refine ⟨_, rfl, ?_⟩
  apply State.judged_cfg
  intro u
  (repeat' split) <;> first | rfl | (simp; done) | (simp only [State.cfg, Cfg.mk.injEq] <;> simp [↓cfg_mk, cfg_eqs]; done)

theorem execExportKey_cfg (fold : Nat) (ln : Ln) (s : State) :
    ∃ next, execExportKey fold ln s = .next next ∧ next.cfg = s.cfg := by
  refine ⟨_, rfl, ?_⟩
  apply State.judged_cfg
  intro u
  (repeat' split) <;> first | rfl | (simp; done) | (simp only [State.cfg, Cfg.mk.injEq] <;> simp [↓cfg_mk, cfg_eqs]; done)

theorem execCreateChannel_cfg (fold entry : Nat) (index : Option Nat) (ticket : Option (BitVec 32)) (deadline : Option Nat)
    (spec : Option Bool) (bind : List BindArg) (ln : Ln) (s : State) :
    ∃ next, execCreateChannel fold entry index ticket deadline spec bind ln s = .next next ∧ next.cfg = s.cfg := by
  refine ⟨_, rfl, State.judged_cfg _ _ _ _ _ fun u => State.onFold_cfg _ _ _ _ fun f => ?_⟩
  split
  · simp
  · split
    · simp
    · split
      · simp
      · split
        · simp
        · split
          · simp
          · refine State.guard_cfg _ _ _ _ ?_
            split
            · simp
            · rename_i h
              rw [State.ok_cfg, State.mirror_cfg, State.clearTallies_cfg, State.putChannel_cfg, State.bindAll_cfg h,
                State.emptyClosed_cfg]
              split <;> rfl

theorem execBindChannel_cfg (handle : BitVec 32) (add : BindArg) (ln : Ln) (s : State) :
    ∃ next, execBindChannel handle add ln s = .next next ∧ next.cfg = s.cfg := by
  refine ⟨_, rfl, State.judged_cfg _ _ _ _ _ fun u => State.onChannel_cfg _ _ _ _ fun c => ?_⟩
  split
  · simp
  · with_reducible apply ite_eq_cfg
    · simp
    · with_reducible apply ite_eq_cfg
      · simp
      · split
        · simp
        · dsimp only
          split
          · simp
          · rename_i h
            rw [State.ok_cfg, State.mirror_cfg, State.putChannel_cfg]
            exact State.bindOne_cfg h

theorem execUnbindChannel_cfg (handle : BitVec 32) (ned port : Nat) (ln : Ln) (s : State) :
    ∃ next, execUnbindChannel handle ned port ln s = .next next ∧ next.cfg = s.cfg := by
  refine ⟨_, rfl, ?_⟩
  apply State.judged_cfg
  intro u
  (repeat' first | (refine State.inRange_cfg _ _ _ _ _ _ _ ?_) | (refine State.onFold_cfg _ _ _ _ ?_) | (refine State.onChannel_cfg _ _ _ _ ?_) | (refine State.guard_cfg _ _ _ _ ?_) | intro _ | split) <;> first | rfl | (simp; done) | (simp only [State.cfg, Cfg.mk.injEq] <;> simp [↓cfg_mk, cfg_eqs]; done) | (simp; rfl) | (simp; simp only [State.cfg, Cfg.mk.injEq] <;> simp [↓cfg_mk, cfg_eqs]; done) | (dsimp only; simp; done) | (simp (disch := (intros; (repeat' split) <;> (first | rfl | (simp; done) | (simp only [State.cfg, Cfg.mk.injEq] <;> simp [↓cfg_mk, cfg_eqs]; done) | (simp; rfl) | (simp; simp only [State.cfg, Cfg.mk.injEq] <;> simp [↓cfg_mk, cfg_eqs]; done)))); done) | (dsimp only; simp (disch := (intros; (repeat' split) <;> (first | rfl | (simp; done) | (simp only [State.cfg, Cfg.mk.injEq] <;> simp [↓cfg_mk, cfg_eqs]; done) | (simp; rfl) | (simp; simp only [State.cfg, Cfg.mk.injEq] <;> simp [↓cfg_mk, cfg_eqs]; done)))); done) | (simp (disch := (intros; (repeat' split) <;> (first | rfl | (simp; done) | (simp only [State.cfg, Cfg.mk.injEq] <;> simp [↓cfg_mk, cfg_eqs]; done) | (simp; rfl) | (simp; simp only [State.cfg, Cfg.mk.injEq] <;> simp [↓cfg_mk, cfg_eqs]; done)))); rfl) | (simp (disch := (intros; (repeat' split) <;> (first | rfl | (simp; done) | (simp only [State.cfg, Cfg.mk.injEq] <;> simp [↓cfg_mk, cfg_eqs]; done) | (simp; rfl) | (simp; simp only [State.cfg, Cfg.mk.injEq] <;> simp [↓cfg_mk, cfg_eqs]; done)))); simp only [State.cfg, Cfg.mk.injEq] <;> simp [↓cfg_mk, cfg_eqs]; done) | (dsimp only; simp (disch := (intros; (repeat' split) <;> (first | rfl | (simp; done) | (simp only [State.cfg, Cfg.mk.injEq] <;> simp [↓cfg_mk, cfg_eqs]; done) | (simp; rfl) | (simp; simp only [State.cfg, Cfg.mk.injEq] <;> simp [↓cfg_mk, cfg_eqs]; done)))); simp only [State.cfg, Cfg.mk.injEq] <;> simp [↓cfg_mk, cfg_eqs]; done)

theorem execDestroyChannel_cfg (handle : BitVec 32) (ln : Ln) (s : State) :
    ∃ next, execDestroyChannel handle ln s = .next next ∧ next.cfg = s.cfg := by
  refine ⟨_, rfl, ?_⟩
  apply State.judged_cfg
  intro u
  (repeat' split) <;> first | rfl | (simp; done) | (simp only [State.cfg, Cfg.mk.injEq] <;> simp [↓cfg_mk, cfg_eqs]; done)

theorem execShowChannel_cfg (handle : Sum (BitVec 32) Nat) (ln : Ln) (s : State) :
    ∃ next, execShowChannel handle ln s = .next next ∧ next.cfg = s.cfg := by
  refine ⟨_, rfl, ?_⟩
  apply State.judged_cfg
  intro u
  (repeat' split) <;> first | rfl | (simp; done) | (simp only [State.cfg, Cfg.mk.injEq] <;> simp [↓cfg_mk, cfg_eqs]; done)

theorem execOpenSession_cfg (fold num anchor cls cap : Nat) (ln : Ln) (s : State) :
    ∃ next, execOpenSession fold num anchor cls cap ln s = .next next ∧ next.cfg = s.cfg := by
  refine ⟨_, rfl, ?_⟩
  apply State.judged_cfg
  intro u
  (repeat' first | (refine State.inRange_cfg _ _ _ _ _ _ _ ?_) | (refine State.onFold_cfg _ _ _ _ ?_) | (refine State.onChannel_cfg _ _ _ _ ?_) | (refine State.guard_cfg _ _ _ _ ?_) | intro _ | split) <;> first | rfl | (simp; done) | (simp only [State.cfg, Cfg.mk.injEq] <;> simp [↓cfg_mk, cfg_eqs]; done) | (simp; rfl) | (simp; simp only [State.cfg, Cfg.mk.injEq] <;> simp [↓cfg_mk, cfg_eqs]; done) | (dsimp only; simp; done) | (simp (disch := (intros; (repeat' split) <;> (first | rfl | (simp; done) | (simp only [State.cfg, Cfg.mk.injEq] <;> simp [↓cfg_mk, cfg_eqs]; done) | (simp; rfl) | (simp; simp only [State.cfg, Cfg.mk.injEq] <;> simp [↓cfg_mk, cfg_eqs]; done)))); done) | (dsimp only; simp (disch := (intros; (repeat' split) <;> (first | rfl | (simp; done) | (simp only [State.cfg, Cfg.mk.injEq] <;> simp [↓cfg_mk, cfg_eqs]; done) | (simp; rfl) | (simp; simp only [State.cfg, Cfg.mk.injEq] <;> simp [↓cfg_mk, cfg_eqs]; done)))); done) | (simp (disch := (intros; (repeat' split) <;> (first | rfl | (simp; done) | (simp only [State.cfg, Cfg.mk.injEq] <;> simp [↓cfg_mk, cfg_eqs]; done) | (simp; rfl) | (simp; simp only [State.cfg, Cfg.mk.injEq] <;> simp [↓cfg_mk, cfg_eqs]; done)))); rfl) | (simp (disch := (intros; (repeat' split) <;> (first | rfl | (simp; done) | (simp only [State.cfg, Cfg.mk.injEq] <;> simp [↓cfg_mk, cfg_eqs]; done) | (simp; rfl) | (simp; simp only [State.cfg, Cfg.mk.injEq] <;> simp [↓cfg_mk, cfg_eqs]; done)))); simp only [State.cfg, Cfg.mk.injEq] <;> simp [↓cfg_mk, cfg_eqs]; done) | (dsimp only; simp (disch := (intros; (repeat' split) <;> (first | rfl | (simp; done) | (simp only [State.cfg, Cfg.mk.injEq] <;> simp [↓cfg_mk, cfg_eqs]; done) | (simp; rfl) | (simp; simp only [State.cfg, Cfg.mk.injEq] <;> simp [↓cfg_mk, cfg_eqs]; done)))); simp only [State.cfg, Cfg.mk.injEq] <;> simp [↓cfg_mk, cfg_eqs]; done)

theorem execCloseSession_cfg (fold num : Nat) (ln : Ln) (s : State) :
    ∃ next, execCloseSession fold num ln s = .next next ∧ next.cfg = s.cfg := by
  refine ⟨_, rfl, ?_⟩
  apply State.judged_cfg
  intro u
  (repeat' split) <;> first | rfl | (simp; done) | (simp only [State.cfg, Cfg.mk.injEq] <;> simp [↓cfg_mk, cfg_eqs]; done)

theorem execSessionCloseComplete_cfg (num : Nat) (t : Time) (s : State) :
    ∃ next, execSessionCloseComplete num t s = .next next ∧ next.cfg = s.cfg := by
  refine ⟨_, rfl, ?_⟩
  apply State.event_cfg
  intro g
  (repeat' split) <;> first | rfl | (simp; done) | (simp only [State.cfg, Cfg.mk.injEq] <;> simp [↓cfg_mk, cfg_eqs]; done)

theorem execShowSession_cfg (num : Nat) (ln : Ln) (s : State) :
    ∃ next, execShowSession num ln s = .next next ∧ next.cfg = s.cfg := by
  refine ⟨_, rfl, ?_⟩
  apply State.judged_cfg
  intro u
  (repeat' split) <;> first | rfl | (simp; done) | (simp only [State.cfg, Cfg.mk.injEq] <;> simp [↓cfg_mk, cfg_eqs]; done)

theorem execFineIssueCycle_cfg (n : Pad) (fault : IcFault) (t : Time) (s : State) :
    ∃ next, execFineIssueCycle n fault t s = .next next ∧ next.cfg = s.cfg := by
  refine ⟨_, rfl, ?_⟩
  apply State.event_cfg
  intro g
  dsimp only
  (repeat' split) <;> first | rfl | (simp; done) | (simp only [State.cfg, Cfg.mk.injEq] <;> simp [↓cfg_mk, cfg_eqs]; done)

theorem execCoarseIssueCycle_cfg (n : Pad) (fault : IcFault) (t : Time) (s : State) :
    ∃ next, execCoarseIssueCycle n fault t s = .next next ∧ next.cfg = s.cfg := by
  refine ⟨_, rfl, State.event_cfg _ _ _ _ fun _ => ?_⟩
  dsimp only
  split
  · simp
  · split
    · simp
    · split
      · simp
      · simp only [State.addTally_cfg]
        split <;> simp

theorem execWatchdogExpiry_cfg (n : Pad) (k : CtxIx) (t : Time) (s : State) :
    ∃ next, execWatchdogExpiry n k t s = .next next ∧ next.cfg = s.cfg := by
  refine ⟨_, rfl, ?_⟩
  apply State.event_cfg
  intro g
  (repeat' split) <;> first | rfl | (simp; done) | (simp only [State.cfg, Cfg.mk.injEq] <;> simp [↓cfg_mk, cfg_eqs]; done)

theorem execContextLeavePlan_cfg (n : Pad) (k : CtxIx) (t : Time) (s : State) :
    ∃ next, execContextLeavePlan n k t s = .next next ∧ next.cfg = s.cfg := by
  refine ⟨_, rfl, ?_⟩
  apply State.event_cfg
  intro g
  (repeat' split) <;> first | rfl | (simp; done) | (simp only [State.cfg, Cfg.mk.injEq] <;> simp [↓cfg_mk, cfg_eqs]; done)

theorem execEccRereadVerdict_cfg (n : Pad) (m : Fin 4) (good : Bool) (t : Time) (s : State) :
    ∃ next, execEccRereadVerdict n m good t s = .next next ∧ next.cfg = s.cfg := by
  refine ⟨_, rfl, ?_⟩
  apply State.event_cfg
  intro g
  (repeat' split) <;> first | rfl | (simp; done) | (simp only [State.cfg, Cfg.mk.injEq] <;> simp [↓cfg_mk, cfg_eqs]; done)

theorem execResidueVerdict_cfg (n : Pad) (v : Fin 4) (good : Bool) (t : Time) (s : State) :
    ∃ next, execResidueVerdict n v good t s = .next next ∧ next.cfg = s.cfg := by
  refine ⟨_, rfl, ?_⟩
  apply State.event_cfg
  intro g
  (repeat' split) <;> first | rfl | (simp; done) | (simp only [State.cfg, Cfg.mk.injEq] <;> simp [↓cfg_mk, cfg_eqs]; done)

theorem execHbmxReturn_cfg (n : Pad) (m : Fin 4) (t : Time) (s : State) :
    ∃ next, execHbmxReturn n m t s = .next next ∧ next.cfg = s.cfg := by
  refine ⟨_, rfl, ?_⟩
  apply State.event_cfg
  intro g
  dsimp only
  (repeat' split) <;> first | rfl | (simp; done) | (simp only [State.cfg, Cfg.mk.injEq] <;> simp [↓cfg_mk, cfg_eqs]; done)

theorem execLedgerIntervalEnd_cfg (fold : Nat) (readBack : List Bool) (t : Time) (s : State) :
    ∃ next, execLedgerIntervalEnd fold readBack t s = .next next ∧ next.cfg = s.cfg := by
  refine ⟨_, rfl, ?_⟩
  apply State.event_cfg
  intro g
  (repeat' split) <;> first | rfl | (simp; done) | (simp only [State.cfg, Cfg.mk.injEq] <;> simp [↓cfg_mk, cfg_eqs]; done)

theorem execLedgerRingRetry_cfg (readBack : List Bool) (t : Time) (s : State) :
    ∃ next, execLedgerRingRetry readBack t s = .next next ∧ next.cfg = s.cfg := by
  refine ⟨_, rfl, State.event_cfg _ _ _ _ fun g => ?_⟩
  dsimp only
  with_reducible apply ite_eq_cfg
  · rw [State.ring_cfg]
    refine foldl_inv (P := fun (u : State) => u.cfg = (s.tick t).cfg) _ rfl (fun u r h => ?_)
    rw [State.ringPut_cfg, h]
  · rfl

theorem execLeaseSecond_cfg (t : Time) (s : State) :
    ∃ next, execLeaseSecond t s = .next next ∧ next.cfg = s.cfg := by
  refine ⟨_, rfl, ?_⟩
  apply State.event_cfg
  intro g
  (repeat' split) <;> first | rfl | (simp; done) | (simp only [State.cfg, Cfg.mk.injEq] <;> simp [↓cfg_mk, cfg_eqs]; done)

theorem execPtpSilence_cfg (t : Time) (s : State) :
    ∃ next, execPtpSilence t s = .next next ∧ next.cfg = s.cfg := by
  refine ⟨_, rfl, ?_⟩
  apply State.event_cfg
  intro g
  (repeat' split) <;> first | rfl | (simp; done) | (simp only [State.cfg, Cfg.mk.injEq] <;> simp [↓cfg_mk, cfg_eqs]; done)

theorem execShowTally_cfg (scope : Scope) (id : Nat) (name : Option Nat) (ln : Ln) (s : State) :
    ∃ next, execShowTally scope id name ln s = .next next ∧ next.cfg = s.cfg := by
  refine ⟨_, rfl, ?_⟩
  apply State.judged_cfg
  intro u
  (repeat' split) <;> first | rfl | (simp; done) | (simp only [State.cfg, Cfg.mk.injEq] <;> simp [↓cfg_mk, cfg_eqs]; done)

theorem execShowBells_cfg (since : Option Nat) (fault : Option Bool) (count : Option Nat) (ln : Ln) (s : State) :
    ∃ next, execShowBells since fault count ln s = .next next ∧ next.cfg = s.cfg := by
  refine ⟨_, rfl, ?_⟩
  apply State.judged_cfg
  intro u
  (repeat' split) <;> first | rfl | (simp; done) | (simp only [State.cfg, Cfg.mk.injEq] <;> simp [↓cfg_mk, cfg_eqs]; done)

theorem execShowLedger_cfg (fold : Nat) (since : Option Nat) (count : Option Nat) (ln : Ln) (s : State) :
    ∃ next, execShowLedger fold since count ln s = .next next ∧ next.cfg = s.cfg := by
  refine ⟨_, rfl, ?_⟩
  apply State.judged_cfg
  intro u
  (repeat' split) <;> first | rfl | (simp; done) | (simp only [State.cfg, Cfg.mk.injEq] <;> simp [↓cfg_mk, cfg_eqs]; done)

theorem execVerifyLedger_cfg (data : List Byte) (ln : Ln) (s : State) :
    ∃ next, execVerifyLedger data ln s = .next next ∧ next.cfg = s.cfg := by
  refine ⟨_, rfl, ?_⟩
  apply State.judged_cfg
  intro u
  (repeat' split) <;> first | rfl | (simp; done) | (simp only [State.cfg, Cfg.mk.injEq] <;> simp [↓cfg_mk, cfg_eqs]; done)

theorem execLoadFold_cfg (id stage : Nat) (overlap : Bool) (limit : Option Nat) (ln : Ln) (s : State) :
    ∃ next, execLoadFold id stage overlap limit ln s = .next next ∧ next.cfg = s.cfg := by
  refine ⟨_, rfl, ?_⟩
  apply State.judged_cfg
  intro u
  (repeat' split) <;> first | rfl | (simp; done) | (simp only [State.cfg, Cfg.mk.injEq] <;> simp [↓cfg_mk, cfg_eqs]; done)

theorem execLoadStart_cfg (fold : Nat) (t : Time) (s : State) :
    ∃ next, execLoadStart fold t s = .next next ∧ next.cfg = s.cfg := by
  refine ⟨_, rfl, ?_⟩
  apply State.event_cfg
  intro g
  (repeat' split) <;> first | rfl | (simp; done) | (simp only [State.cfg, Cfg.mk.injEq] <;> simp [↓cfg_mk, cfg_eqs]; done)

theorem execLoadDrainComplete_cfg (fold : Nat) (t : Time) (s : State) :
    ∃ next, execLoadDrainComplete fold t s = .next next ∧ next.cfg = s.cfg := by
  refine ⟨_, rfl, ?_⟩
  apply State.event_cfg
  intro g
  (repeat' split) <;> first | rfl | (simp; done) | (simp only [State.cfg, Cfg.mk.injEq] <;> simp [↓cfg_mk, cfg_eqs]; done)

theorem execLoadDrainExpiry_cfg (fold : Nat) (t : Time) (s : State) :
    ∃ next, execLoadDrainExpiry fold t s = .next next ∧ next.cfg = s.cfg := by
  refine ⟨_, rfl, ?_⟩
  apply State.event_cfg
  intro g
  (repeat' split) <;> first | rfl | (simp; done) | (simp only [State.cfg, Cfg.mk.injEq] <;> simp [↓cfg_mk, cfg_eqs]; done)

theorem execLoadDecryptComplete_cfg (fold : Nat) (t : Time) (s : State) :
    ∃ next, execLoadDecryptComplete fold t s = .next next ∧ next.cfg = s.cfg := by
  refine ⟨_, rfl, ?_⟩
  apply State.event_cfg
  intro g
  (repeat' split) <;> first | rfl | (simp; done) | (simp only [State.cfg, Cfg.mk.injEq] <;> simp [↓cfg_mk, cfg_eqs]; done)

theorem execCommitConfirmed_cfg (fold : Nat) (t : Time) (s : State) :
    ∃ next, execCommitConfirmed fold t s = .next next ∧ next.cfg = s.cfg := by
  refine ⟨_, rfl, ?_⟩
  apply State.event_cfg
  intro g
  (repeat' split) <;> first | rfl | (simp; done) | (simp only [State.cfg, Cfg.mk.injEq] <;> simp [↓cfg_mk, cfg_eqs]; done)

theorem execContextStage_cfg (fold : Nat) (n : Pad) (k : CtxIx) (t : Time) (s : State) :
    ∃ next, execContextStage fold n k t s = .next next ∧ next.cfg = s.cfg := by
  refine ⟨_, rfl, ?_⟩
  apply State.event_cfg
  intro g
  (repeat' split) <;> first | rfl | (simp; done) | (simp only [State.cfg, Cfg.mk.injEq] <;> simp [↓cfg_mk, cfg_eqs]; done)

theorem execStageWaitExpiry_cfg (fold : Nat) (t : Time) (s : State) :
    ∃ next, execStageWaitExpiry fold t s = .next next ∧ next.cfg = s.cfg := by
  refine ⟨_, rfl, ?_⟩
  apply State.event_cfg
  intro g
  (repeat' split) <;> first | rfl | (simp; done) | (simp only [State.cfg, Cfg.mk.injEq] <;> simp [↓cfg_mk, cfg_eqs]; done)

theorem execStandbyConfirmed_cfg (fold : Nat) (t : Time) (s : State) :
    ∃ next, execStandbyConfirmed fold t s = .next next ∧ next.cfg = s.cfg := by
  refine ⟨_, rfl, ?_⟩
  apply State.event_cfg
  intro g
  (repeat' split) <;> first | rfl | (simp; done) | (simp only [State.cfg, Cfg.mk.injEq] <;> simp [↓cfg_mk, cfg_eqs]; done)

theorem execTransitionStart_cfg (fold : Nat) (t : Time) (s : State) :
    ∃ next, execTransitionStart fold t s = .next next ∧ next.cfg = s.cfg := by
  refine ⟨_, rfl, ?_⟩
  apply State.event_cfg
  intro g
  (repeat' split) <;> first | rfl | (simp; done) | (simp only [State.cfg, Cfg.mk.injEq] <;> simp [↓cfg_mk, cfg_eqs]; done)

theorem execBellwetherArrival_cfg (n : Pad) (k : CtxIx) (t : Time) (s : State) :
    ∃ next, execBellwetherArrival n k t s = .next next ∧ next.cfg = s.cfg := by
  refine ⟨_, rfl, ?_⟩
  apply State.event_cfg
  intro g
  dsimp only
  (repeat' split) <;> first | rfl | (simp; done) | (simp only [State.cfg, Cfg.mk.injEq] <;> simp [↓cfg_mk, cfg_eqs]; done)

theorem execNedBellwether_cfg (k : NedIx) (e : Fin 2) (lane : Lane) (vc : Bool) (t : Time) (s : State) :
    ∃ next, execNedBellwether k e lane vc t s = .next next ∧ next.cfg = s.cfg := by
  refine ⟨_, rfl, ?_⟩
  apply State.event_cfg
  intro g
  dsimp only
  (repeat' split) <;> first | rfl | (simp; done) | (simp only [State.cfg, Cfg.mk.injEq] <;> simp [↓cfg_mk, cfg_eqs]; done)

theorem execSwitchLimitExpiry_cfg (fold : Nat) (t : Time) (s : State) :
    ∃ next, execSwitchLimitExpiry fold t s = .next next ∧ next.cfg = s.cfg := by
  refine ⟨_, rfl, ?_⟩
  apply State.event_cfg
  intro g
  (repeat' split) <;> first | rfl | (simp; done) | (simp only [State.cfg, Cfg.mk.injEq] <;> simp [↓cfg_mk, cfg_eqs]; done)

theorem execShowMap_cfg (at_ : Option (List Loc)) (ln : Ln) (s : State) :
    ∃ next, execShowMap at_ ln s = .next next ∧ next.cfg = s.cfg := by
  refine ⟨_, rfl, ?_⟩
  apply State.judged_cfg
  intro u
  (repeat' split) <;> first | rfl | (simp; done) | (simp only [State.cfg, Cfg.mk.injEq] <;> simp [↓cfg_mk, cfg_eqs]; done)

theorem execExportMap_cfg (ln : Ln) (s : State) :
    ∃ next, execExportMap ln s = .next next ∧ next.cfg = s.cfg := by
  refine ⟨_, rfl, ?_⟩
  apply State.judged_cfg
  intro u
  dsimp only
  (repeat' split) <;> first | rfl | (simp; done) | (simp only [State.cfg, Cfg.mk.injEq] <;> simp [↓cfg_mk, cfg_eqs]; done)

theorem execSetReserve_cfg (c r : Nat) (on : Bool) (ln : Ln) (s : State) :
    ∃ next, execSetReserve c r on ln s = .next next ∧ next.cfg = s.cfg := by
  refine ⟨_, rfl, ?_⟩
  apply State.judged_cfg
  intro u
  (repeat' split) <;> first | rfl | (simp; done) | (simp only [State.cfg, Cfg.mk.injEq] <;> simp [↓cfg_mk, cfg_eqs]; done)

theorem execSetExclude_cfg (x y : Nat) (on : Bool) (ln : Ln) (s : State) :
    ∃ next, execSetExclude x y on ln s = .next next ∧ next.cfg = s.cfg := by
  refine ⟨_, rfl, ?_⟩
  apply State.judged_cfg
  intro u
  (repeat' split) <;> first | rfl | (simp; done) | (simp only [State.cfg, Cfg.mk.injEq] <;> simp [↓cfg_mk, cfg_eqs]; done)

theorem execMemReqReceived_cfg (k : MedIx) (e : Fin 2) (lane : Lane) (vc : Bool) (t : Time) (s : State) :
    ∃ next, execMemReqReceived k e lane vc t s = .next next ∧ next.cfg = s.cfg := by
  refine ⟨_, rfl, ?_⟩
  apply State.event_cfg
  intro g
  (repeat' split) <;> first | rfl | (simp; done) | (simp only [State.cfg, Cfg.mk.injEq] <;> simp [↓cfg_mk, cfg_eqs]; done) | (simp; rfl) | (simp; simp only [State.cfg, Cfg.mk.injEq] <;> simp [↓cfg_mk, cfg_eqs]; done) | (dsimp only; simp; done) | (simp (disch := (intros; (repeat' split) <;> (first | rfl | (simp; done) | (simp only [State.cfg, Cfg.mk.injEq] <;> simp [↓cfg_mk, cfg_eqs]; done) | (simp; rfl) | (simp; simp only [State.cfg, Cfg.mk.injEq] <;> simp [↓cfg_mk, cfg_eqs]; done)))); done) | (dsimp only; simp (disch := (intros; (repeat' split) <;> (first | rfl | (simp; done) | (simp only [State.cfg, Cfg.mk.injEq] <;> simp [↓cfg_mk, cfg_eqs]; done) | (simp; rfl) | (simp; simp only [State.cfg, Cfg.mk.injEq] <;> simp [↓cfg_mk, cfg_eqs]; done)))); done) | (simp (disch := (intros; (repeat' split) <;> (first | rfl | (simp; done) | (simp only [State.cfg, Cfg.mk.injEq] <;> simp [↓cfg_mk, cfg_eqs]; done) | (simp; rfl) | (simp; simp only [State.cfg, Cfg.mk.injEq] <;> simp [↓cfg_mk, cfg_eqs]; done)))); rfl) | (simp (disch := (intros; (repeat' split) <;> (first | rfl | (simp; done) | (simp only [State.cfg, Cfg.mk.injEq] <;> simp [↓cfg_mk, cfg_eqs]; done) | (simp; rfl) | (simp; simp only [State.cfg, Cfg.mk.injEq] <;> simp [↓cfg_mk, cfg_eqs]; done)))); simp only [State.cfg, Cfg.mk.injEq] <;> simp [↓cfg_mk, cfg_eqs]; done) | (dsimp only; simp (disch := (intros; (repeat' split) <;> (first | rfl | (simp; done) | (simp only [State.cfg, Cfg.mk.injEq] <;> simp [↓cfg_mk, cfg_eqs]; done) | (simp; rfl) | (simp; simp only [State.cfg, Cfg.mk.injEq] <;> simp [↓cfg_mk, cfg_eqs]; done)))); simp only [State.cfg, Cfg.mk.injEq] <;> simp [↓cfg_mk, cfg_eqs]; done)

theorem execHbmBurstRead_cfg (k : MedIx) (i : Nat) (sev : EccSev) (t : Time) (s : State) :
    ∃ next, execHbmBurstRead k i sev t s = .next next ∧ next.cfg = s.cfg := by
  refine ⟨_, rfl, ?_⟩
  apply State.event_cfg
  intro g
  (repeat' split) <;> first | rfl | (simp; done) | (simp only [State.cfg, Cfg.mk.injEq] <;> simp [↓cfg_mk, cfg_eqs]; done)

theorem execHbmRereadVerdict_cfg (k : MedIx) (good : Bool) (t : Time) (s : State) :
    ∃ next, execHbmRereadVerdict k good t s = .next next ∧ next.cfg = s.cfg := by
  refine ⟨_, rfl, State.event_cfg _ _ _ _ fun _ => ?_⟩
  have hf : ∀ (a : State) (l : Flash → List (Nat × Nat)) (w : Option (FlashWork × Time)),
      ({ a.modFlash (fun f => { f with retired := l f }) with writing := w } : State).cfg = a.cfg :=
    fun a l w => State.modFlash_cfg _ _ rfl
  dsimp only
  split
  · simp
  · rw [ite_cfg, foldl_cfg _ (fun _ _ => State.loseSession_cfg _ _), ite_self]
    split
    · simp
    · refine (hf _ _ _).trans ?_
      simp

theorem execStackTempRead_cfg (k : MedIx) (read : StackRead) (t : Time) (s : State) :
    ∃ next, execStackTempRead k read t s = .next next ∧ next.cfg = s.cfg := by
  refine ⟨_, rfl, ?_⟩
  apply State.event_cfg
  intro g
  (repeat' split) <;> first | rfl | (simp; done) | (simp only [State.cfg, Cfg.mk.injEq] <;> simp [↓cfg_mk, cfg_eqs]; done)

theorem execPageScrub_cfg (k : MedIx) (page : Fin 12288) (t : Time) (s : State) :
    ∃ next, execPageScrub k page t s = .next next ∧ next.cfg = s.cfg := by
  refine ⟨_, rfl, ?_⟩
  apply State.event_cfg
  intro g
  (repeat' split) <;> first | rfl | (simp; done) | (simp only [State.cfg, Cfg.mk.injEq] <;> simp [↓cfg_mk, cfg_eqs]; done)

theorem execRotationSlot_cfg (k : MedIx) (t : Time) (s : State) :
    ∃ next, execRotationSlot k t s = .next next ∧ next.cfg = s.cfg := by
  refine ⟨_, rfl, ?_⟩
  apply State.event_cfg
  intro g
  (repeat' split) <;> first | rfl | (simp; done) | (simp only [State.cfg, Cfg.mk.injEq] <;> simp [↓cfg_mk, cfg_eqs]; done)

theorem execMedDoubt_cfg (k : MedIx) (cause : Nat) (t : Time) (s : State) :
    ∃ next, execMedDoubt k cause t s = .next next ∧ next.cfg = s.cfg := by
  refine ⟨_, rfl, ?_⟩
  apply State.event_cfg
  intro g
  (repeat' split) <;> first | rfl | (simp; done) | (simp only [State.cfg, Cfg.mk.injEq] <;> simp [↓cfg_mk, cfg_eqs]; done)

theorem execLinkBeatSend_cfg (x : EndIx) (lane : Lane) (t : Time) (s : State) :
    ∃ next, execLinkBeatSend x lane t s = .next next ∧ next.cfg = s.cfg := by
  refine ⟨_, rfl, State.event_cfg _ _ _ _ fun _ => ?_⟩
  have hs : (if x < 5376 then (s.tick t).sweepRouter (x / 4) else s.tick t).cfg = (s.tick t).cfg := by
    split <;> simp
  dsimp only
  generalize (if x < 5376 then (s.tick t).sweepRouter (x / 4) else s.tick t) = u at hs ⊢
  refine Eq.trans ?_ hs
  split
  · exact (wire_cfg _ _).trans (State.setLink_cfg u x lane.val _)
  · split
    · rename_i e l' _
      exact ((wire_cfg _ _).trans (State.setLink_cfg _ _ _ _)).trans (State.setLink_cfg u x lane.val l')
    · split
      · exact (wire_cfg _ _).trans (State.setLink_cfg _ _ _ _)
      · rename_i h
        have h1 := State.nextFlit_cfg h
        split
        · split
          · rename_i h'
            exact ((wire_cfg _ _).trans (State.setLink_cfg _ _ _ _)).trans ((State.modLink_cfg _ _ _ _).trans ((State.nextFlit_cfg h').trans h1))
          · exact ((wire_cfg _ _).trans (State.setLink_cfg _ _ _ _)).trans h1
        · exact ((wire_cfg _ _).trans (State.setLink_cfg _ _ _ _)).trans h1

theorem execBeatReceived_cfg (x : EndIx) (lane : Lane) (vc0 vc1 : Bool) (b : BitVec 616) (t : Time) (s : State) :
    ∃ next, execBeatReceived x lane vc0 vc1 b t s = .next next ∧ next.cfg = s.cfg := by
  refine ⟨_, rfl, State.event_cfg _ _ _ _ fun _ => ?_⟩
  dsimp only
  (repeat' with_reducible apply ite_eq_cfg)
  · simp
  · simp
  · simp
  · rw [foldl_cfg]
    · simp
    · intros; simp

theorem execReplayTimeout_cfg (x : EndIx) (lane : Lane) (t : Time) (s : State) :
    ∃ next, execReplayTimeout x lane t s = .next next ∧ next.cfg = s.cfg := by
  refine ⟨_, rfl, ?_⟩
  apply State.event_cfg
  intro g
  (repeat' split) <;> first | rfl | (simp; done) | (simp only [State.cfg, Cfg.mk.injEq] <;> simp [↓cfg_mk, cfg_eqs]; done)

theorem execReplayDownTimeout_cfg (x : EndIx) (lane : Lane) (t : Time) (s : State) :
    ∃ next, execReplayDownTimeout x lane t s = .next next ∧ next.cfg = s.cfg := by
  refine ⟨_, rfl, ?_⟩
  apply State.event_cfg
  intro g
  (repeat' split) <;> first | rfl | (simp; done) | (simp only [State.cfg, Cfg.mk.injEq] <;> simp [↓cfg_mk, cfg_eqs]; done)

theorem execReceiverSilence_cfg (x : EndIx) (lane : Lane) (t : Time) (s : State) :
    ∃ next, execReceiverSilence x lane t s = .next next ∧ next.cfg = s.cfg := by
  refine ⟨_, rfl, ?_⟩
  apply State.event_cfg
  intro g
  (repeat' split) <;> first | rfl | (simp; done) | (simp only [State.cfg, Cfg.mk.injEq] <;> simp [↓cfg_mk, cfg_eqs]; done)

theorem execLane0Precompile_cfg (t : Time) (s : State) :
    ∃ next, execLane0Precompile t s = .next next ∧ next.cfg = s.cfg := by
  refine ⟨_, rfl, ?_⟩
  apply State.event_cfg
  intro g
  (repeat' split) <;> first | rfl | (simp; done) | (simp only [State.cfg, Cfg.mk.injEq] <;> simp [↓cfg_mk, cfg_eqs]; done)

theorem execDockTransfer_cfg (n : Pad) (t : Time) (s : State) :
    ∃ next, execDockTransfer n t s = .next next ∧ next.cfg = s.cfg := by
  refine ⟨_, rfl, ?_⟩
  apply State.event_cfg
  intro g
  (repeat' split) <;> first | rfl | (simp; done) | (simp only [State.cfg, Cfg.mk.injEq] <;> simp [↓cfg_mk, cfg_eqs]; done)

theorem execResetAssert_cfg (t : Time) (s : State) :
    ∃ next, execResetAssert t s = .next next ∧ next.cfg = s.cfg := ⟨_, rfl, State.cutFlash_cfg (s.tick t)⟩

theorem execResetRelease_cfg (jtagEn : Bool) (t : Time) (s : State) :
    ∃ next, execResetRelease jtagEn t s = .next next ∧ next.cfg = s.cfg := by
  refine ⟨_, rfl, ?_⟩
  split
  · exact State.leaveReset_cfg _ _
  · rfl

theorem execPwrFailAssert_cfg (t : Time) (s : State) :
    ∃ next, execPwrFailAssert t s = .next next ∧ next.cfg = s.cfg := by
  refine ⟨_, rfl, ?_⟩
  split
  · rw [State.ring_cfg]
    rfl
  · rfl

theorem execPwrFailFlashFreeze_cfg (t : Time) (s : State) :
    ∃ next, execPwrFailFlashFreeze t s = .next next ∧ next.cfg = s.cfg := by
  refine ⟨_, rfl, State.event_cfg _ _ _ _ fun _ => rfl⟩

theorem execPwrFailDeassert_cfg (t : Time) (s : State) :
    ∃ next, execPwrFailDeassert t s = .next next ∧ next.cfg = s.cfg := by
  refine ⟨_, rfl, ?_⟩
  split <;> rfl

theorem execRailsFall_cfg (t : Time) (s : State) :
    ∃ next, execRailsFall t s = .next next ∧ next.cfg = s.cfg := by
  unfold execRailsFall
  dsimp only
  split
  · exact ⟨_, rfl, State.cutFlash_cfg (s.tick t)⟩
  · exact ⟨_, rfl, rfl⟩

theorem execBusSample_cfg (shc : ShcIx) (mvA mvB : Nat) (t : Time) (s : State) :
    ∃ next, execBusSample shc mvA mvB t s = .next next ∧ next.cfg = s.cfg := by
  refine ⟨_, rfl, ?_⟩
  apply State.event_cfg
  intro g
  (repeat' split) <;> first | rfl | (simp; done) | (simp only [State.cfg, Cfg.mk.injEq] <;> simp [↓cfg_mk, cfg_eqs]; done)

theorem execRailDeparture_cfg (f : FieldIx) (vaon : Bool) (mv : Nat) (t : Time) (s : State) :
    ∃ next, execRailDeparture f vaon mv t s = .next next ∧ next.cfg = s.cfg := by
  refine ⟨_, rfl, ?_⟩
  apply State.event_cfg
  intro g
  (repeat' split) <;> first | rfl | (simp; done) | (simp only [State.cfg, Cfg.mk.injEq] <;> simp [↓cfg_mk, cfg_eqs]; done)

theorem execVcoreRecoveryVerdict_cfg (f : FieldIx) (back : Option Time) (t : Time) (s : State) :
    ∃ next, execVcoreRecoveryVerdict f back t s = .next next ∧ next.cfg = s.cfg := by
  refine ⟨_, rfl, State.event_cfg _ _ _ _ fun _ => ?_⟩
  dsimp only
  split
  · with_reducible apply ite_eq_cfg
    · rw [State.ring_cfg]
      refine (foldl_cfg _ (fun u n => ?_) _ _).trans ?_
      · with_reducible apply ite_eq_cfg <;> simp
      · simp
    · simp
  · simp

theorem execRailStep_cfg (f : FieldIx) (t : Time) (s : State) :
    ∃ next, execRailStep f t s = .next next ∧ next.cfg = s.cfg := by
  refine ⟨_, rfl, ?_⟩
  apply State.event_cfg
  intro g
  (repeat' split) <;> first | rfl | (simp; done) | (simp only [State.cfg, Cfg.mk.injEq] <;> simp [↓cfg_mk, cfg_eqs]; done)

theorem execPowerWaveStart_cfg (t : Time) (s : State) :
    ∃ next, execPowerWaveStart t s = .next next ∧ next.cfg = s.cfg := by
  refine ⟨_, rfl, ?_⟩
  apply State.event_cfg
  intro g
  (repeat' split) <;> first | rfl | (simp; done) | (simp only [State.cfg, Cfg.mk.injEq] <;> simp [↓cfg_mk, cfg_eqs]; done)

theorem execSoftStartComplete_cfg (n : Pad) (t : Time) (s : State) :
    ∃ next, execSoftStartComplete n t s = .next next ∧ next.cfg = s.cfg := by
  refine ⟨_, rfl, ?_⟩
  apply State.event_cfg
  intro g
  (repeat' split) <;> first | rfl | (simp; done) | (simp only [State.cfg, Cfg.mk.injEq] <;> simp [↓cfg_mk, cfg_eqs]; done)

theorem execEfuseTrip_cfg (n : Pad) (milliamps : Nat) (t : Time) (s : State) :
    ∃ next, execEfuseTrip n milliamps t s = .next next ∧ next.cfg = s.cfg := by
  refine ⟨_, rfl, ?_⟩
  apply State.event_cfg
  intro g
  (repeat' split) <;> first | rfl | (simp; done) | (simp only [State.cfg, Cfg.mk.injEq] <;> simp [↓cfg_mk, cfg_eqs]; done)

theorem execEfuseRetry_cfg (n : Pad) (t : Time) (s : State) :
    ∃ next, execEfuseRetry n t s = .next next ∧ next.cfg = s.cfg := by
  refine ⟨_, rfl, ?_⟩
  apply State.event_cfg
  intro g
  (repeat' split) <;> first | rfl | (simp; done) | (simp only [State.cfg, Cfg.mk.injEq] <;> simp [↓cfg_mk, cfg_eqs]; done)

theorem execEfuseRetryVerdict_cfg (n : Pad) (peak : Nat) (t : Time) (s : State) :
    ∃ next, execEfuseRetryVerdict n peak t s = .next next ∧ next.cfg = s.cfg := by
  refine ⟨_, rfl, ?_⟩
  apply State.event_cfg
  intro g
  (repeat' split) <;> first | rfl | (simp; done) | (simp only [State.cfg, Cfg.mk.injEq] <;> simp [↓cfg_mk, cfg_eqs]; done)

theorem execFieldStageShutdown_cfg (f : FieldIx) (vaon : Bool) (t : Time) (s : State) :
    ∃ next, execFieldStageShutdown f vaon t s = .next next ∧ next.cfg = s.cfg := by
  refine ⟨_, rfl, ?_⟩
  apply State.event_cfg
  intro g
  (repeat' split) <;> first | rfl | (simp; done) | (simp only [State.cfg, Cfg.mk.injEq] <;> simp [↓cfg_mk, cfg_eqs]; done)

theorem execFieldRetry_cfg (f : FieldIx) (t : Time) (s : State) :
    ∃ next, execFieldRetry f t s = .next next ∧ next.cfg = s.cfg := by
  refine ⟨_, rfl, ?_⟩
  apply State.event_cfg
  intro g
  (repeat' split) <;> first | rfl | (simp; done) | (simp only [State.cfg, Cfg.mk.injEq] <;> simp [↓cfg_mk, cfg_eqs]; done)

theorem execFieldRetryVerdict_cfg (f : FieldIx) (held : Bool) (t : Time) (s : State) :
    ∃ next, execFieldRetryVerdict f held t s = .next next ∧ next.cfg = s.cfg := by
  refine ⟨_, rfl, State.event_cfg _ _ _ _ fun _ => ?_⟩
  dsimp only
  with_reducible apply ite_eq_cfg
  · rw [State.ring_cfg]
    refine (foldl_cfg _ (fun u n => ?_) _ _).trans ?_
    · with_reducible apply ite_eq_cfg
      · simp
      · with_reducible apply ite_eq_cfg
        · simp
        · split <;> simp
    · simp
  · simp

theorem execPmbAlert_cfg (addr status : Nat) (t : Time) (s : State) :
    ∃ next, execPmbAlert addr status t s = .next next ∧ next.cfg = s.cfg := by
  refine ⟨_, rfl, ?_⟩
  apply State.event_cfg
  intro g
  (repeat' split) <;> first | rfl | (simp; done) | (simp only [State.cfg, Cfg.mk.injEq] <;> simp [↓cfg_mk, cfg_eqs]; done)

theorem execTelemetryRead_cfg (reads : List PmbRead) (t : Time) (s : State) :
    ∃ next, execTelemetryRead reads t s = .next next ∧ next.cfg = s.cfg := by
  refine ⟨_, rfl, ?_⟩
  apply State.event_cfg
  intro g
  (repeat' split) <;> first | rfl | (simp; done) | (simp only [State.cfg, Cfg.mk.injEq] <;> simp [↓cfg_mk, cfg_eqs]; done)

theorem execPmbusRetryPoll_cfg (r : PmbRead) (t : Time) (s : State) :
    ∃ next, execPmbusRetryPoll r t s = .next next ∧ next.cfg = s.cfg := by
  refine ⟨_, rfl, ?_⟩
  apply State.event_cfg
  intro g
  (repeat' split) <;> first | rfl | (simp; done) | (simp only [State.cfg, Cfg.mk.injEq] <;> simp [↓cfg_mk, cfg_eqs]; done)

theorem execShowPower_cfg (ln : Ln) (s : State) :
    ∃ next, execShowPower ln s = .next next ∧ next.cfg = s.cfg := by
  refine ⟨_, rfl, ?_⟩
  apply State.judged_cfg
  intro u
  (repeat' split) <;> first | rfl | (simp; done) | (simp only [State.cfg, Cfg.mk.injEq] <;> simp [↓cfg_mk, cfg_eqs]; done)

theorem execSetBus_cfg (shared : Bool) (ln : Ln) (s : State) :
    ∃ next, execSetBus shared ln s = .next next ∧ next.cfg = s.cfg := by
  refine ⟨_, rfl, ?_⟩
  apply State.judged_cfg
  intro u
  (repeat' split) <;> first | rfl | (simp; done) | (simp only [State.cfg, Cfg.mk.injEq] <;> simp [↓cfg_mk, cfg_eqs]; done)

theorem execSetRail_cfg (x y mv : Nat) (ln : Ln) (s : State) :
    ∃ next, execSetRail x y mv ln s = .next next ∧ next.cfg = s.cfg := by
  refine ⟨_, rfl, ?_⟩
  apply State.judged_cfg
  intro u
  (repeat' split) <;> first | rfl | (simp; done) | (simp only [State.cfg, Cfg.mk.injEq] <;> simp [↓cfg_mk, cfg_eqs]; done)

theorem execSetPower_cfg (at_ : Loc) (dark : Bool) (ln : Ln) (s : State) :
    ∃ next, execSetPower at_ dark ln s = .next next ∧ next.cfg = s.cfg := by
  refine ⟨_, rfl, ?_⟩
  apply State.judged_cfg
  intro u
  (repeat' split) <;> first | rfl | (simp; done) | (simp only [State.cfg, Cfg.mk.injEq] <;> simp [↓cfg_mk, cfg_eqs]; done)

theorem execClearField_cfg (x y : Nat) (held : Bool) (ln : Ln) (s : State) :
    ∃ next, execClearField x y held ln s = .next next ∧ next.cfg = s.cfg := by
  refine ⟨_, rfl, ?_⟩
  apply State.judged_cfg
  intro u
  (repeat' split) <;> first | rfl | (simp; done) | (simp only [State.cfg, Cfg.mk.injEq] <;> simp [↓cfg_mk, cfg_eqs]; done)

theorem execCheckpointDue_cfg (fold : Nat) (t : Time) (s : State) :
    ∃ next, execCheckpointDue fold t s = .next next ∧ next.cfg = s.cfg := by
  refine ⟨_, rfl, ?_⟩
  apply State.event_cfg
  intro g
  (repeat' split) <;> first | rfl | (simp; done) | (simp only [State.cfg, Cfg.mk.injEq] <;> simp [↓cfg_mk, cfg_eqs]; done)

theorem execMusterComplete_cfg (fold : Nat) (t : Time) (s : State) :
    ∃ next, execMusterComplete fold t s = .next next ∧ next.cfg = s.cfg := by
  refine ⟨_, rfl, ?_⟩
  apply State.event_cfg
  intro g
  (repeat' split) <;> first | rfl | (simp; done) | (simp only [State.cfg, Cfg.mk.injEq] <;> simp [↓cfg_mk, cfg_eqs]; done)

theorem execMusterTimeout_cfg (fold : Nat) (t : Time) (s : State) :
    ∃ next, execMusterTimeout fold t s = .next next ∧ next.cfg = s.cfg := by
  refine ⟨_, rfl, ?_⟩
  apply State.event_cfg
  intro g
  (repeat' split) <;> first | rfl | (simp; done) | (simp only [State.cfg, Cfg.mk.injEq] <;> simp [↓cfg_mk, cfg_eqs]; done)

theorem execCheckpointWriteDone_cfg (fold : Nat) (t : Time) (s : State) :
    ∃ next, execCheckpointWriteDone fold t s = .next next ∧ next.cfg = s.cfg := by
  refine ⟨_, rfl, ?_⟩
  apply State.event_cfg
  intro g
  (repeat' split) <;> first | rfl | (simp; done) | (simp only [State.cfg, Cfg.mk.injEq] <;> simp [↓cfg_mk, cfg_eqs]; done)

theorem execReportReceived_cfg (trigger : Trigger) (folds : List Nat) (place : Nat) (t : Time) (s : State) :
    ∃ next, execReportReceived trigger folds place t s = .next next ∧ next.cfg = s.cfg := by
  refine ⟨_, rfl, ?_⟩
  apply State.event_cfg
  intro g
  (repeat' split) <;> first | rfl | (simp; done) | (simp only [State.cfg, Cfg.mk.injEq] <;> simp [↓cfg_mk, cfg_eqs]; done)

theorem execReportResend_cfg (t : Time) (s : State) :
    ∃ next, execReportResend t s = .next next ∧ next.cfg = s.cfg := by
  refine ⟨_, rfl, ?_⟩
  apply State.event_cfg
  intro g
  (repeat' split) <;> first | rfl | (simp; done) | (simp only [State.cfg, Cfg.mk.injEq] <;> simp [↓cfg_mk, cfg_eqs]; done)

theorem execDoubtNoticeNed_cfg (k : NedIx) (fold : Nat) (t : Time) (s : State) :
    ∃ next, execDoubtNoticeNed k fold t s = .next next ∧ next.cfg = s.cfg := by
  refine ⟨_, rfl, ?_⟩
  apply State.event_cfg
  intro g
  (repeat' split) <;> first | rfl | (simp; done) | (simp only [State.cfg, Cfg.mk.injEq] <;> simp [↓cfg_mk, cfg_eqs]; done)

theorem execDoubtNoticePaddock_cfg (n : Pad) (fold : Nat) (t : Time) (s : State) :
    ∃ next, execDoubtNoticePaddock n fold t s = .next next ∧ next.cfg = s.cfg := by
  refine ⟨_, rfl, State.event_cfg _ _ _ _ fun _ => ?_⟩
  dsimp only
  with_reducible apply ite_eq_cfg <;> simp

theorem execShearComplete_cfg (fold : Nat) (n : Pad) (good : Bool) (t : Time) (s : State) :
    ∃ next, execShearComplete fold n good t s = .next next ∧ next.cfg = s.cfg := by
  refine ⟨_, rfl, ?_⟩
  apply State.event_cfg
  intro g
  dsimp only
  (repeat' split) <;> first | rfl | (simp; done) | (simp only [State.cfg, Cfg.mk.injEq] <;> simp [↓cfg_mk, cfg_eqs]; done)

theorem execCheckpointRestoreComplete_cfg (fold : Nat) (good : Bool) (t : Time) (s : State) :
    ∃ next, execCheckpointRestoreComplete fold good t s = .next next ∧ next.cfg = s.cfg := by
  refine ⟨_, rfl, ?_⟩
  apply State.event_cfg
  intro g
  (repeat' split) <;> first | rfl | (simp; done) | (simp only [State.cfg, Cfg.mk.injEq] <;> simp [↓cfg_mk, cfg_eqs]; done)

theorem execRelocRecordWritten_cfg (fold : Nat) (t : Time) (s : State) :
    ∃ next, execRelocRecordWritten fold t s = .next next ∧ next.cfg = s.cfg := by
  refine ⟨_, rfl, ?_⟩
  apply State.event_cfg
  intro g
  (repeat' split) <;> first | rfl | (simp; done) | (simp only [State.cfg, Cfg.mk.injEq] <;> simp [↓cfg_mk, cfg_eqs]; done)

theorem execClockRelockVerdict_cfg (n : Pad) (locked : Option Time) (held : Bool) (t : Time) (s : State) :
    ∃ next, execClockRelockVerdict n locked held t s = .next next ∧ next.cfg = s.cfg := by
  refine ⟨_, rfl, ?_⟩
  apply State.event_cfg
  intro g
  (repeat' split) <;> first | rfl | (simp; done) | (simp only [State.cfg, Cfg.mk.injEq] <;> simp [↓cfg_mk, cfg_eqs]; done)

theorem execRingRelockVerdict_cfg (f : FieldIx) (locked : Option Time) (held : Bool) (t : Time) (s : State) :
    ∃ next, execRingRelockVerdict f locked held t s = .next next ∧ next.cfg = s.cfg := by
  refine ⟨_, rfl, ?_⟩
  apply State.event_cfg
  intro g
  (repeat' split) <;> first | rfl | (simp; done) | (simp only [State.cfg, Cfg.mk.injEq] <;> simp [↓cfg_mk, cfg_eqs]; done)

theorem execReferenceAbsentLong_cfg (edge : Option (Fin 4)) (t : Time) (s : State) :
    ∃ next, execReferenceAbsentLong edge t s = .next next ∧ next.cfg = s.cfg := by
  refine ⟨_, rfl, ?_⟩
  apply State.event_cfg
  intro g
  (repeat' split) <;> first | rfl | (simp; done) | (simp only [State.cfg, Cfg.mk.injEq] <;> simp [↓cfg_mk, cfg_eqs]; done)

theorem execAckFault_cfg (ln : Ln) (s : State) :
    ∃ next, execAckFault ln s = .next next ∧ next.cfg = s.cfg := by
  refine ⟨_, rfl, ?_⟩
  apply State.judged_cfg
  intro u
  (repeat' split) <;> first | rfl | (simp; done) | (simp only [State.cfg, Cfg.mk.injEq] <;> simp [↓cfg_mk, cfg_eqs]; done)

theorem execRestoreDie_cfg (die : DieName) (passed : Bool) (ln : Ln) (s : State) :
    ∃ next, execRestoreDie die passed ln s = .next next ∧ next.cfg = s.cfg := by
  refine ⟨_, rfl, ?_⟩
  apply State.judged_cfg
  intro u
  (repeat' split) <;> first | rfl | (simp; done) | (simp only [State.cfg, Cfg.mk.injEq] <;> simp [↓cfg_mk, cfg_eqs]; done)

theorem execRestoreLane_cfg (c r dir lane : Nat) (passed : Bool) (ln : Ln) (s : State) :
    ∃ next, execRestoreLane c r dir lane passed ln s = .next next ∧ next.cfg = s.cfg := by
  refine ⟨_, rfl, ?_⟩
  apply State.judged_cfg
  intro u
  (repeat' split) <;> first | rfl | (simp; done) | (simp only [State.cfg, Cfg.mk.injEq] <;> simp [↓cfg_mk, cfg_eqs]; done)

theorem execShowLink_cfg (c r dir : Nat) (lane : Option Nat) (ln : Ln) (s : State) :
    ∃ next, execShowLink c r dir lane ln s = .next next ∧ next.cfg = s.cfg := by
  refine ⟨_, rfl, ?_⟩
  apply State.judged_cfg
  intro u
  (repeat' split) <;> first | rfl | (simp; done) | (simp only [State.cfg, Cfg.mk.injEq] <;> simp [↓cfg_mk, cfg_eqs]; done)

theorem execPeek_cfg (addr : Nat) (count : Option Nat) (ln : Ln) (s : State) :
    ∃ next, execPeek addr count ln s = .next next ∧ next.cfg = s.cfg := by
  refine ⟨_, rfl, ?_⟩
  apply State.judged_cfg
  intro u
  (repeat' split) <;> first | rfl | (simp; done) | (simp only [State.cfg, Cfg.mk.injEq] <;> simp [↓cfg_mk, cfg_eqs]; done)

theorem execPoke_cfg (addr : Nat) (value : BitVec 32) (mask : Option (BitVec 32)) (ln : Ln) (s : State) :
    ∃ next, execPoke addr value mask ln s = .next next ∧ next.cfg = s.cfg := by
  refine ⟨_, rfl, ?_⟩
  apply State.judged_cfg
  intro u
  (repeat' split) <;> first | rfl | (simp; done) | (simp only [State.cfg, Cfg.mk.injEq] <;> simp [↓cfg_mk, cfg_eqs]; done)

theorem execShcFaultackWrite_cfg (value : BitVec 32) (ln : Ln) (s : State) :
    ∃ next, execShcFaultackWrite value ln s = .next next ∧ next.cfg = s.cfg := by
  refine ⟨_, rfl, ?_⟩
  apply State.judged_cfg
  intro u
  (repeat' split) <;> first | rfl | (simp; done) | (simp only [State.cfg, Cfg.mk.injEq] <;> simp [↓cfg_mk, cfg_eqs]; done)

theorem execPcbSatClear_cfg (n : Pad) (value : BitVec 32) (ln : Ln) (s : State) :
    ∃ next, execPcbSatClear n value ln s = .next next ∧ next.cfg = s.cfg := by
  refine ⟨_, rfl, ?_⟩
  apply State.judged_cfg
  intro u
  (repeat' split) <;> first | rfl | (simp; done) | (simp only [State.cfg, Cfg.mk.injEq] <;> simp [↓cfg_mk, cfg_eqs]; done)

theorem execNedWselWrite_cfg (k : NedIx) (value : BitVec 32) (ln : Ln) (s : State) :
    ∃ next, execNedWselWrite k value ln s = .next next ∧ next.cfg = s.cfg := by
  refine ⟨_, rfl, ?_⟩
  apply State.judged_cfg
  intro u
  (repeat' split) <;> first | rfl | (simp; done) | (simp only [State.cfg, Cfg.mk.injEq] <;> simp [↓cfg_mk, cfg_eqs]; done)

theorem execShcAlertcauseRead_cfg (ln : Ln) (s : State) :
    ∃ next, execShcAlertcauseRead ln s = .next next ∧ next.cfg = s.cfg := by
  refine ⟨_, rfl, ?_⟩
  apply State.judged_cfg
  intro u
  (repeat' split) <;> first | rfl | (simp; done) | (simp only [State.cfg, Cfg.mk.injEq] <;> simp [↓cfg_mk, cfg_eqs]; done)

theorem execKeepaliveSend_cfg (t : Time) (s : State) :
    ∃ next, execKeepaliveSend t s = .next next ∧ next.cfg = s.cfg := by
  refine ⟨_, rfl, ?_⟩
  apply State.event_cfg
  intro g
  (repeat' split) <;> first | rfl | (simp; done) | (simp only [State.cfg, Cfg.mk.injEq] <;> simp [↓cfg_mk, cfg_eqs]; done)

theorem execHeartbeatSend_cfg (shc : ShcIx) (t : Time) (s : State) :
    ∃ next, execHeartbeatSend shc t s = .next next ∧ next.cfg = s.cfg := by
  refine ⟨_, rfl, ?_⟩
  apply State.event_cfg
  intro g
  (repeat' split) <;> first | rfl | (simp; done) | (simp only [State.cfg, Cfg.mk.injEq] <;> simp [↓cfg_mk, cfg_eqs]; done)

theorem execHeartbeatReceive_cfg (shc : ShcIx) (shcl lane0 : Bool) (b : Beat) (t : Time) (s : State) :
    ∃ next, execHeartbeatReceive shc shcl lane0 b t s = .next next ∧ next.cfg = s.cfg := by
  refine ⟨_, rfl, ?_⟩
  apply State.event_cfg
  intro g
  (repeat' split) <;> first | rfl | (simp; done) | (simp only [State.cfg, Cfg.mk.injEq] <;> simp [↓cfg_mk, cfg_eqs]; done)

theorem execHeartbeatMiss_cfg (t : Time) (s : State) :
    ∃ next, execHeartbeatMiss t s = .next next ∧ next.cfg = s.cfg := by
  refine ⟨_, rfl, ?_⟩
  apply State.event_cfg
  intro g
  (repeat' split) <;> first | rfl | (simp; done) | (simp only [State.cfg, Cfg.mk.injEq] <;> simp [↓cfg_mk, cfg_eqs]; done)

theorem execProbeTimeout_cfg (t : Time) (s : State) :
    ∃ next, execProbeTimeout t s = .next next ∧ next.cfg = s.cfg := by
  refine ⟨_, rfl, ?_⟩
  apply State.event_cfg
  intro g
  (repeat' split) <;> first | rfl | (simp; done) | (simp only [State.cfg, Cfg.mk.injEq] <;> simp [↓cfg_mk, cfg_eqs]; done)

theorem execSelfDoubtHandover_cfg (cause : Nat) (t : Time) (s : State) :
    ∃ next, execSelfDoubtHandover cause t s = .next next ∧ next.cfg = s.cfg := by
  refine ⟨_, rfl, ?_⟩
  apply State.event_cfg
  intro g
  (repeat' split) <;> first | rfl | (simp; done) | (simp only [State.cfg, Cfg.mk.injEq] <;> simp [↓cfg_mk, cfg_eqs]; done)

theorem execSelectionQuietExpiry_cfg (t : Time) (s : State) :
    ∃ next, execSelectionQuietExpiry t s = .next next ∧ next.cfg = s.cfg := by
  refine ⟨_, rfl, ?_⟩
  apply State.event_cfg
  intro g
  (repeat' split) <;> first | rfl | (simp; done) | (simp only [State.cfg, Cfg.mk.injEq] <;> simp [↓cfg_mk, cfg_eqs]; done)

theorem execMirrorAckTimeout_cfg (t : Time) (s : State) :
    ∃ next, execMirrorAckTimeout t s = .next next ∧ next.cfg = s.cfg := by
  refine ⟨_, rfl, ?_⟩
  apply State.event_cfg
  intro g
  (repeat' split) <;> first | rfl | (simp; done) | (simp only [State.cfg, Cfg.mk.injEq] <;> simp [↓cfg_mk, cfg_eqs]; done)

theorem execMirrorProbeTimeout_cfg (t : Time) (s : State) :
    ∃ next, execMirrorProbeTimeout t s = .next next ∧ next.cfg = s.cfg := by
  refine ⟨_, rfl, ?_⟩
  apply State.event_cfg
  intro g
  (repeat' split) <;> first | rfl | (simp; done) | (simp only [State.cfg, Cfg.mk.injEq] <;> simp [↓cfg_mk, cfg_eqs]; done)

theorem execReadyRefresh_cfg (t : Time) (s : State) :
    ∃ next, execReadyRefresh t s = .next next ∧ next.cfg = s.cfg := by
  refine ⟨_, rfl, ?_⟩
  apply State.event_cfg
  intro g
  (repeat' split) <;> first | rfl | (simp; done) | (simp only [State.cfg, Cfg.mk.injEq] <;> simp [↓cfg_mk, cfg_eqs]; done)

theorem execReadyLatchExpiry_cfg (t : Time) (s : State) :
    ∃ next, execReadyLatchExpiry t s = .next next ∧ next.cfg = s.cfg := by
  refine ⟨_, rfl, ?_⟩
  apply State.event_cfg
  intro g
  (repeat' split) <;> first | rfl | (simp; done) | (simp only [State.cfg, Cfg.mk.injEq] <;> simp [↓cfg_mk, cfg_eqs]; done)

theorem execHandoverShc_cfg (ln : Ln) (s : State) :
    ∃ next, execHandoverShc ln s = .next next ∧ next.cfg = s.cfg := by
  refine ⟨_, rfl, ?_⟩
  apply State.judged_cfg
  intro u
  (repeat' split) <;> first | rfl | (simp; done) | (simp only [State.cfg, Cfg.mk.injEq] <;> simp [↓cfg_mk, cfg_eqs]; done)

theorem execShowShc_cfg (ln : Ln) (s : State) :
    ∃ next, execShowShc ln s = .next next ∧ next.cfg = s.cfg := by
  refine ⟨_, rfl, ?_⟩
  apply State.judged_cfg
  intro u
  (repeat' split) <;> first | rfl | (simp; done) | (simp only [State.cfg, Cfg.mk.injEq] <;> simp [↓cfg_mk, cfg_eqs]; done)

theorem Flash.putSlot_settings (f : Flash) (i : Nat) (w : Firmware) : (f.putSlot i w).settings = f.settings := by
  unfold Flash.putSlot
  split <;> rfl

theorem execUpdateFirmware_cfg (stage : Nat) (sigOk : Bool) (ln : Ln) (s : State) :
    ∃ next, execUpdateFirmware stage sigOk ln s = .next next ∧ next.cfg = s.cfg := by
  refine ⟨_, rfl, State.judged_cfg _ _ _ _ _ fun u => ?_⟩
  dsimp only
  split
  · simp
  · with_reducible apply ite_eq_cfg
    · simp
    · with_reducible apply ite_eq_cfg
      · simp
      · have h0 : (({ u with stages := u.stages.filter fun x => x.id ≠ stage } : State).ok ln [("state", .word "updating")]).cfg = u.cfg := by
          rw [State.ok_cfg]; rfl
        revert h0
        generalize (({ u with stages := u.stages.filter fun x => x.id ≠ stage } : State).ok ln [("state", .word "updating")]) = v
        intro h0
        split
        · split
          · rw [State.fwBell_cfg, h0]
          · rename_i w i _ _ _
            have h1 : ∀ f : Flash, f.settings = v.flash.settings → ({ v with flash := f } : State).cfg = u.cfg := fun f h => Eq.trans h h0
            with_reducible apply ite_eq_cfg
            · rw [State.fwBell_cfg]
              exact h1 _ (Flash.putSlot_settings _ _ _)
            · rw [State.modShc_cfg]
              exact h1 _ (Flash.putSlot_settings _ _ _)
        · rw [State.fwBell_cfg, h0]
        · rw [State.fwBell_cfg, h0]

theorem execBackupRejoin_cfg (mirrorVersion : Nat) (t : Time) (s : State) :
    ∃ next, execBackupRejoin mirrorVersion t s = .next next ∧ next.cfg = s.cfg := by
  refine ⟨_, rfl, State.event_cfg _ _ _ _ fun _ => ?_⟩
  refine Eq.trans (b := (s.tick t).cfg) ?_ rfl
  generalize s.tick t = u
  have h : ∀ (o : Option Firmware) (i j : Nat), (match o with
      | some w => u.modShc j fun c => { c.load i w u.now with mirrorSeq := u.mirrorSeq }
      | none => u).cfg = u.cfg := by
    intro o i j
    split <;> simp
  dsimp only
  split
  · with_reducible apply ite_eq_cfg
    · with_reducible apply ite_eq_cfg
      · rfl
      · exact State.shcDoubt_cfg _ _ _
    · with_reducible apply ite_eq_cfg
      · rfl
      · rw [State.modShc_cfg]
        exact (fw_cfg _ _).trans ((State.takeRole_cfg _ _).trans (h _ _ _))
  · with_reducible apply ite_eq_cfg
    · with_reducible apply ite_eq_cfg
      · rfl
      · exact State.shcDoubt_cfg _ _ _
    · rw [State.fwBell_cfg]
      exact (fw_cfg _ _).trans ((State.modFlash_cfg _ _ rfl).trans (h _ _ _))
  · rfl

theorem execBackupRejoinTimeout_cfg (t : Time) (s : State) :
    ∃ next, execBackupRejoinTimeout t s = .next next ∧ next.cfg = s.cfg := by
  refine ⟨_, rfl, State.event_cfg _ _ _ _ fun _ => ?_⟩
  have fw : ∀ (a : State) (w : FwUpdate), ({ a with fwUpdate := w } : State).cfg = a.cfg := fun _ _ => rfl
  dsimp only
  split
  · rw [State.fwBell_cfg]
    exact (fw _ _).trans (State.modFlash_cfg _ _ rfl)
  · rfl

theorem execRaiseSvn_cfg (ln : Ln) (s : State) :
    ∃ next, execRaiseSvn ln s = .next next ∧ next.cfg = s.cfg := by
  refine ⟨_, rfl, State.judged_cfg _ _ _ _ _ fun u => ?_⟩
  dsimp only
  split
  · simp
  · rw [State.ok_cfg]
    rfl

theorem execSpanBlockSend_cfg (i : SpdIx) (t : Time) (s : State) :
    ∃ next, execSpanBlockSend i t s = .next next ∧ next.cfg = s.cfg := by
  refine ⟨_, rfl, ?_⟩
  apply State.event_cfg
  intro g
  dsimp only
  (repeat' split) <;> first | rfl | (simp; done) | (simp only [State.cfg, Cfg.mk.injEq] <;> simp [↓cfg_mk, cfg_eqs]; done)

theorem execSpanBlockReceived_cfg (i : SpdIx) (decoded replay : Bool) (symbols : Nat) (b : BitVec 2570) (t : Time) (s : State) :
    ∃ next, execSpanBlockReceived i decoded replay symbols b t s = .next next ∧ next.cfg = s.cfg := by
  refine ⟨_, rfl, ?_⟩
  apply State.event_cfg
  intro g
  (repeat' split) <;> first | rfl | (simp; done) | (simp only [State.cfg, Cfg.mk.injEq] <;> simp [↓cfg_mk, cfg_eqs]; done)

theorem execSpanReplayTimeout_cfg (i : SpdIx) (t : Time) (s : State) :
    ∃ next, execSpanReplayTimeout i t s = .next next ∧ next.cfg = s.cfg := by
  refine ⟨_, rfl, ?_⟩
  apply State.event_cfg
  intro g
  (repeat' split) <;> first | rfl | (simp; done) | (simp only [State.cfg, Cfg.mk.injEq] <;> simp [↓cfg_mk, cfg_eqs]; done)

theorem execSpanDownTimeout_cfg (i : SpdIx) (t : Time) (s : State) :
    ∃ next, execSpanDownTimeout i t s = .next next ∧ next.cfg = s.cfg := by
  refine ⟨_, rfl, ?_⟩
  apply State.event_cfg
  intro g
  (repeat' split) <;> first | rfl | (simp; done) | (simp only [State.cfg, Cfg.mk.injEq] <;> simp [↓cfg_mk, cfg_eqs]; done)

theorem execSpanRxSilence_cfg (i : SpdIx) (t : Time) (s : State) :
    ∃ next, execSpanRxSilence i t s = .next next ∧ next.cfg = s.cfg := by
  refine ⟨_, rfl, ?_⟩
  apply State.event_cfg
  intro g
  (repeat' split) <;> first | rfl | (simp; done) | (simp only [State.cfg, Cfg.mk.injEq] <;> simp [↓cfg_mk, cfg_eqs]; done)

theorem execTrainBlockReceived_cfg (i : SpdIx) (locked : BitVec 16) (b : BitVec 2570) (t : Time) (s : State) :
    ∃ next, execTrainBlockReceived i locked b t s = .next next ∧ next.cfg = s.cfg := by
  refine ⟨_, rfl, ?_⟩
  apply State.event_cfg
  intro g
  (repeat' split) <;> first | rfl | (simp; done) | (simp only [State.cfg, Cfg.mk.injEq] <;> simp [↓cfg_mk, cfg_eqs]; done)

theorem execTrainingTimeout_cfg (i : SpdIx) (t : Time) (s : State) :
    ∃ next, execTrainingTimeout i t s = .next next ∧ next.cfg = s.cfg := by
  refine ⟨_, rfl, ?_⟩
  apply State.event_cfg
  intro g
  (repeat' split) <;> first | rfl | (simp; done) | (simp only [State.cfg, Cfg.mk.injEq] <;> simp [↓cfg_mk, cfg_eqs]; done)

theorem execTrainRefuseExpiry_cfg (i : SpdIx) (t : Time) (s : State) :
    ∃ next, execTrainRefuseExpiry i t s = .next next ∧ next.cfg = s.cfg := by
  refine ⟨_, rfl, ?_⟩
  apply State.event_cfg
  intro g
  (repeat' split) <;> first | rfl | (simp; done) | (simp only [State.cfg, Cfg.mk.injEq] <;> simp [↓cfg_mk, cfg_eqs]; done)

theorem execMemberExcluded_cfg (w : Fin 16) (t : Time) (s : State) :
    ∃ next, execMemberExcluded w t s = .next next ∧ next.cfg = s.cfg := by
  refine ⟨_, rfl, ?_⟩
  apply State.event_cfg
  intro g
  (repeat' split) <;> first | rfl | (simp; done) | (simp only [State.cfg, Cfg.mk.injEq] <;> simp [↓cfg_mk, cfg_eqs]; done)

theorem execSpdDoubt_cfg (i : SpdIx) (cause : Nat) (t : Time) (s : State) :
    ∃ next, execSpdDoubt i cause t s = .next next ∧ next.cfg = s.cfg := by
  refine ⟨_, rfl, ?_⟩
  apply State.event_cfg
  intro g
  (repeat' split) <;> first | rfl | (simp; done) | (simp only [State.cfg, Cfg.mk.injEq] <;> simp [↓cfg_mk, cfg_eqs]; done)

theorem execShowSpan_cfg (spd : Nat) (ln : Ln) (s : State) :
    ∃ next, execShowSpan spd ln s = .next next ∧ next.cfg = s.cfg := by
  refine ⟨_, rfl, ?_⟩
  apply State.judged_cfg
  intro u
  (repeat' split) <;> first | rfl | (simp; done) | (simp only [State.cfg, Cfg.mk.injEq] <;> simp [↓cfg_mk, cfg_eqs]; done)

theorem execRetrainSpan_cfg (spd : Nat) (ln : Ln) (s : State) :
    ∃ next, execRetrainSpan spd ln s = .next next ∧ next.cfg = s.cfg := by
  refine ⟨_, rfl, ?_⟩
  apply State.judged_cfg
  intro u
  (repeat' split) <;> first | rfl | (simp; done) | (simp only [State.cfg, Cfg.mk.injEq] <;> simp [↓cfg_mk, cfg_eqs]; done)

theorem execShowFlock_cfg (ln : Ln) (s : State) :
    ∃ next, execShowFlock ln s = .next next ∧ next.cfg = s.cfg := by
  refine ⟨_, rfl, ?_⟩
  apply State.judged_cfg
  intro u
  (repeat' split) <;> first | rfl | (simp; done) | (simp only [State.cfg, Cfg.mk.injEq] <;> simp [↓cfg_mk, cfg_eqs]; done)

theorem execSensorSample_cfg (x : Sample) (t : Time) (s : State) :
    ∃ next, execSensorSample x t s = .next next ∧ next.cfg = s.cfg := by
  refine ⟨_, rfl, ?_⟩
  apply State.event_cfg
  intro g
  (repeat' split) <;> first | rfl | (simp; done) | (simp only [State.cfg, Cfg.mk.injEq] <;> simp [↓cfg_mk, cfg_eqs]; done)

theorem execThermalTripRetry_cfg (n : Pad) (t : Time) (s : State) :
    ∃ next, execThermalTripRetry n t s = .next next ∧ next.cfg = s.cfg := by
  refine ⟨_, rfl, ?_⟩
  apply State.event_cfg
  intro g
  (repeat' split) <;> first | rfl | (simp; done) | (simp only [State.cfg, Cfg.mk.injEq] <;> simp [↓cfg_mk, cfg_eqs]; done)

theorem execThermalRetryVerdict_cfg (n : Pad) (t : Time) (s : State) :
    ∃ next, execThermalRetryVerdict n t s = .next next ∧ next.cfg = s.cfg := by
  refine ⟨_, rfl, ?_⟩
  apply State.event_cfg
  intro g
  (repeat' split) <;> first | rfl | (simp; done) | (simp only [State.cfg, Cfg.mk.injEq] <;> simp [↓cfg_mk, cfg_eqs]; done)

theorem execLoopCheck_cfg (inlet outlet : Option Int) (t : Time) (s : State) :
    ∃ next, execLoopCheck inlet outlet t s = .next next ∧ next.cfg = s.cfg := by
  refine ⟨_, rfl, ?_⟩
  apply State.event_cfg
  intro g
  (repeat' split) <;> first | rfl | (simp; done) | (simp only [State.cfg, Cfg.mk.injEq] <;> simp [↓cfg_mk, cfg_eqs]; done)

theorem execShowThermal_cfg (ln : Ln) (s : State) :
    ∃ next, execShowThermal ln s = .next next ∧ next.cfg = s.cfg := by
  refine ⟨_, rfl, ?_⟩
  apply State.judged_cfg
  intro u
  (repeat' split) <;> first | rfl | (simp; done) | (simp only [State.cfg, Cfg.mk.injEq] <;> simp [↓cfg_mk, cfg_eqs]; done)

theorem execShowSensors_cfg (at_ : Sum Loc DieName) (ln : Ln) (s : State) :
    ∃ next, execShowSensors at_ ln s = .next next ∧ next.cfg = s.cfg := by
  refine ⟨_, rfl, ?_⟩
  apply State.judged_cfg
  intro u
  (repeat' split) <;> first | rfl | (simp; done) | (simp only [State.cfg, Cfg.mk.injEq] <;> simp [↓cfg_mk, cfg_eqs]; done)

end Sys2Proof.Machine
end

