-- ==== Sys2Proof/Laws/Tab.lean ====
section
/-! SUPPORT. Sparse tables and lists: what reading finds after a write, and that a write keeps the canonical form. -/
namespace Sys2Proof.Machine

open Sys2Proof

theorem tabGet_del {α : Type} (d : α) (t : Tab α) (k j : Nat) :
    tabGet d (tabDel t k) j = if j = k then d else tabGet d t j := by
  induction t with
  | nil => simp [tabDel, tabGet]
  | cons p rest ih =>
    obtain ⟨i, w⟩ := p
    have e : tabDel ((i, w) :: rest) k = if i = k then tabDel rest k else (i, w) :: tabDel rest k := by
      by_cases h : i = k <;> simp [tabDel, h]
    rw [e]
    by_cases h : i = k
    · simp only [h, if_true, ih, tabGet]
      by_cases g : j = k
      · simp [g]
      · simp [g, Ne.symm g]
    · simp only [h, if_false, tabGet, ih]
      by_cases g : i = j
      · subst g
        simp [h]
      · simp [g]

/-- Reading after a write: the key written holds the value, every other key what it held. -/
@[simp] theorem tabGet_set {α : Type} [DecidableEq α] (d : α) (t : Tab α) (k : Nat) (v : α) (j : Nat) :
    tabGet d (tabSet d t k v) j = if j = k then v else tabGet d t j := by
  induction t with
  | nil =>
    by_cases h : v = d <;> by_cases g : j = k
    · simp [tabSet, tabGet, h]
    · simp [tabSet, tabGet, h]
    · simp [tabSet, tabGet, h, g]
    · simp [tabSet, tabGet, h, g, Ne.symm g]
  | cons p rest ih =>
    obtain ⟨i, w⟩ := p
    by_cases a : k < i
    · by_cases h : v = d
      · simp [tabSet, a, h, tabGet_del]
      · by_cases g : j = k
        · simp [tabSet, a, h, tabGet, g]
        · simp [tabSet, a, h, tabGet, g, Ne.symm g]
    · by_cases b : k = i
      · subst b
        by_cases h : v = d
        · simp only [tabSet, lt_irrefl, if_false, if_true, h, tabGet_del, tabGet]
          by_cases g : j = k
          · simp [g]
          · simp [g, Ne.symm g]
        · by_cases g : j = k
          · simp [tabSet, h, tabGet, g]
          · simp [tabSet, h, tabGet, g, Ne.symm g]
      · simp only [tabSet, a, b, if_false, tabGet, ih]
        by_cases g : i = j
        · subst g
          simp [Ne.symm b]
        · simp [g]

@[simp] theorem tabGet_mod {α : Type} [DecidableEq α] (d : α) (t : Tab α) (k : Nat) (f : α → α) (j : Nat) :
    tabGet d (tabMod d t k f) j = if j = k then f (tabGet d t k) else tabGet d t j := by
  simp [tabMod]

theorem tabWfFrom_mono {α : Type} [DecidableEq α] (d : α) (t : Tab α) {a b : Nat} (h : a ≤ b) (k : tabWfFrom d b t = true) :
    tabWfFrom d a t = true := by
  cases t with
  | nil => rfl
  | cons p rest =>
    obtain ⟨i, w⟩ := p
    simp only [tabWfFrom, Bool.and_eq_true, decide_eq_true_eq] at k ⊢
    exact ⟨⟨Nat.le_trans h k.1.1, k.1.2⟩, k.2⟩

theorem tabWfFrom_del {α : Type} [DecidableEq α] (d : α) (t : Tab α) (a k : Nat) (h : tabWfFrom d a t = true) :
    tabWfFrom d a (tabDel t k) = true := by
  induction t generalizing a with
  | nil => rfl
  | cons p rest ih =>
    obtain ⟨i, w⟩ := p
    simp only [tabWfFrom, Bool.and_eq_true, decide_eq_true_eq] at h
    by_cases g : i = k
    · have e : tabDel ((i, w) :: rest) k = tabDel rest k := by simp [tabDel, g]
      rw [e]
      exact ih a (tabWfFrom_mono d rest (Nat.le_succ_of_le h.1.1) h.2)
    · have e : tabDel ((i, w) :: rest) k = (i, w) :: tabDel rest k := by simp [tabDel, g]
      rw [e]
      simp only [tabWfFrom, Bool.and_eq_true, decide_eq_true_eq]
      exact ⟨h.1, ih (i + 1) h.2⟩

theorem tabWfFrom_set {α : Type} [DecidableEq α] (d : α) (t : Tab α) (a k : Nat) (v : α) (h : tabWfFrom d a t = true)
    (g : a ≤ k) : tabWfFrom d a (tabSet d t k v) = true := by
  induction t generalizing a with
  | nil => by_cases c : v = d <;> simp [tabSet, tabWfFrom, c, g]
  | cons p rest ih =>
    obtain ⟨i, w⟩ := p
    have h0 := h
    simp only [tabWfFrom, Bool.and_eq_true, decide_eq_true_eq] at h
    by_cases x : k < i
    · by_cases c : v = d
      · simpa [tabSet, x, c] using tabWfFrom_del d _ a k h0
      · simp only [tabSet, x, c, if_true, if_false, tabWfFrom, Bool.and_eq_true, decide_eq_true_eq]
        exact ⟨⟨g, c⟩, ⟨⟨x, h.1.2⟩, h.2⟩⟩
    · by_cases y : k = i
      · by_cases c : v = d
        · simp only [tabSet, y, c, if_true, if_false, lt_irrefl]
          exact tabWfFrom_del d rest a i (tabWfFrom_mono d rest (Nat.le_succ_of_le h.1.1) h.2)
        · subst y
          simp only [tabSet, x, c, if_true, if_false, tabWfFrom, Bool.and_eq_true, decide_eq_true_eq]
          exact ⟨⟨g, c⟩, h.2⟩
      · simp only [tabSet, x, y, if_false, tabWfFrom, Bool.and_eq_true, decide_eq_true_eq]
        exact ⟨h.1, ih (i + 1) h.2 (by omega)⟩

/-- A write keeps the canonical form of a table: keys rising, no entry at the default. -/
theorem tabSet_wf {α : Type} [DecidableEq α] (d : α) (t : Tab α) (k : Nat) (v : α) (h : tabWf d t = true) :
    tabWf d (tabSet d t k v) = true := tabWfFrom_set d t 0 k v h (Nat.zero_le k)

theorem tabMod_wf {α : Type} [DecidableEq α] (d : α) (t : Tab α) (k : Nat) (f : α → α) (h : tabWf d t = true) :
    tabWf d (tabMod d t k f) = true := tabSet_wf d t k _ h

theorem tabDel_wf {α : Type} [DecidableEq α] (d : α) (t : Tab α) (k : Nat) (h : tabWf d t = true) :
    tabWf d (tabDel t k) = true := tabWfFrom_del d t 0 k h

theorem tabSetAll_wf {α : Type} [DecidableEq α] (d : α) (t : Tab α) (k : Nat) (l : List α) (h : tabWf d t = true) :
    tabWf d (tabSetAll d t k l) = true := by
  induction l generalizing t k with
  | nil => exact h
  | cons v vs ih => exact ih _ _ (tabSet_wf d t k v h)

theorem tabMap_wf {α : Type} [DecidableEq α] (d : α) (t : Tab α) (f : Nat → α → α) (h : tabWf d t = true) :
    tabWf d (tabMap d t f) = true := by
  have k : ∀ (t : Tab α) (a : Nat), tabWfFrom d a t = true → tabWfFrom d a (tabMap d t f) = true := by
    intro t
    induction t with
    | nil => intro a _; rfl
    | cons p rest ih =>
      intro a h
      obtain ⟨i, w⟩ := p
      simp only [tabWfFrom, Bool.and_eq_true, decide_eq_true_eq] at h
      by_cases c : f i w = d
      · have e : tabMap d ((i, w) :: rest) f = tabMap d rest f := by simp [tabMap, c]
        rw [e]
        exact tabWfFrom_mono d _ (Nat.le_succ_of_le h.1.1) (ih (i + 1) h.2)
      · have e : tabMap d ((i, w) :: rest) f = (i, f i w) :: tabMap d rest f := by simp [tabMap, c]
        rw [e]
        simp only [tabWfFrom, Bool.and_eq_true, decide_eq_true_eq]
        exact ⟨⟨h.1.1, c⟩, ih (i + 1) h.2⟩
  exact k t 0 h

theorem tabFilter_wf {α : Type} [DecidableEq α] (d : α) (t : Tab α) (p : Nat × α → Bool) (h : tabWf d t = true) :
    tabWf d (t.filter p) = true := by
  have k : ∀ (t : Tab α) (a : Nat), tabWfFrom d a t = true → tabWfFrom d a (t.filter p) = true := by
    intro t
    induction t with
    | nil => exact fun _ _ => rfl
    | cons x rest ih =>
      intro a w
      simp only [tabWfFrom, Bool.and_eq_true, decide_eq_true_eq] at w
      rw [List.filter_cons]
      split
      · simp only [tabWfFrom, Bool.and_eq_true, decide_eq_true_eq]
        exact ⟨w.1, ih _ w.2⟩
      · exact tabWfFrom_mono d _ (Nat.le_succ_of_le w.1.1) (ih _ w.2)
  exact k t 0 h

/-- Two canonical tables that read alike are the same data. -/
theorem tabWf_ext {α : Type} [DecidableEq α] (d : α) (t u : Tab α) (ht : tabWf d t = true) (hu : tabWf d u = true)
    (h : ∀ k, tabGet d t k = tabGet d u k) : t = u := by
  have low : ∀ (t : Tab α) (a k : Nat), tabWfFrom d a t = true → k < a → tabGet d t k = d := by
    intro t
    induction t with
    | nil => intros; rfl
    | cons p rest ih =>
      intro a k w l
      obtain ⟨i, x⟩ := p
      simp only [tabWfFrom, Bool.and_eq_true, decide_eq_true_eq] at w
      have : i ≠ k := by omega
      simp only [tabGet, this, if_false]
      exact ih (i + 1) k w.2 (by omega)
  have main : ∀ (t u : Tab α) (a : Nat), tabWfFrom d a t = true → tabWfFrom d a u = true →
      (∀ k, tabGet d t k = tabGet d u k) → t = u := by
    intro t
    induction t with
    | nil =>
      intro u a _ hu h
      cases u with
      | nil => rfl
      | cons p rest =>
        obtain ⟨i, x⟩ := p
        simp only [tabWfFrom, Bool.and_eq_true, decide_eq_true_eq] at hu
        have := h i
        simp only [tabGet, if_true] at this
        exact absurd this.symm hu.1.2
    | cons p rest ih =>
      intro u a ht hu h
      obtain ⟨i, x⟩ := p
      cases u with
      | nil =>
        simp only [tabWfFrom, Bool.and_eq_true, decide_eq_true_eq] at ht
        have := h i
        simp only [tabGet, if_true] at this
        exact absurd this ht.1.2
      | cons q rest2 =>
        obtain ⟨j, y⟩ := q
        simp only [tabWfFrom, Bool.and_eq_true, decide_eq_true_eq] at ht hu
        have hij : i = j := by
          rcases Nat.lt_trichotomy i j with g | g | g
          · have := h i
            simp only [tabGet, if_true, Nat.ne_of_gt g, if_false] at this
            rw [low rest2 (j + 1) i hu.2 (by omega)] at this
            exact absurd this ht.1.2
          · exact g
          · have := h j
            simp only [tabGet, if_true, Nat.ne_of_gt g, if_false] at this
            rw [low rest (i + 1) j ht.2 (by omega)] at this
            exact absurd this.symm hu.1.2
        subst hij
        have hxy : x = y := by simpa [tabGet] using h i
        subst hxy
        have : rest = rest2 := by
          refine ih rest2 (i + 1) ht.2 hu.2 fun k => ?_
          by_cases g : i = k
          · subst g
            rw [low rest (i + 1) i ht.2 (by omega), low rest2 (i + 1) i hu.2 (by omega)]
          · simpa [tabGet, g] using h k
        rw [this]
  exact main t u 0 ht hu h

@[simp] theorem listSet_getD {α : Type} (l : List α) (i j : Nat) (v d : α) :
    (listSet l i v).getD j d = if j = i ∧ i < l.length then v else l.getD j d := by
  induction l generalizing i j with
  | nil => simp [listSet]
  | cons x xs ih =>
    cases i with
    | zero => cases j <;> simp [listSet]
    | succ i =>
      cases j with
      | zero => simp [listSet]
      | succ j =>
        have := ih i j
        simp only [List.getD_eq_getElem?_getD] at this
        simp [listSet, this]

end Sys2Proof.Machine
end

