-- ==== Sys2Proof/Laws/State.lean ====
section
/-! SUPPORT. What each update of the state leaves as it was, field by field, and what reading a unit finds after a write. -/
namespace Sys2Proof.Machine

open Sys2Proof

@[simp] theorem State.tick_fields (s : State) (t : Time) :
    (s.tick t).freeCtr = s.freeCtr ∧ (s.tick t).resetN = s.resetN ∧ (s.tick t).pwrFail = s.pwrFail ∧
    (s.tick t).pwrFailAt = s.pwrFailAt ∧ (s.tick t).frozen = s.frozen ∧ (s.tick t).faultN = s.faultN ∧
    (s.tick t).alertN = s.alertN ∧ (s.tick t).alertCause = s.alertCause ∧ (s.tick t).ready = s.ready ∧
    (s.tick t).readyAt = s.readyAt ∧ (s.tick t).vstby = s.vstby ∧ (s.tick t).fuses = s.fuses ∧
    (s.tick t).flash = s.flash ∧ (s.tick t).writing = s.writing ∧ (s.tick t).place = s.place ∧
    (s.tick t).net = s.net ∧ (s.tick t).boot = s.boot ∧ (s.tick t).sel = s.sel ∧ (s.tick t).quiet = s.quiet ∧
    (s.tick t).active = s.active ∧ (s.tick t).shcA = s.shcA ∧ (s.tick t).shcB = s.shcB ∧
    (s.tick t).mirrorSeq = s.mirrorSeq ∧ (s.tick t).mirrorProbe = s.mirrorProbe ∧
    (s.tick t).scratch = s.scratch ∧ (s.tick t).sess = s.sess ∧ (s.tick t).con0 = s.con0 ∧
    (s.tick t).con1 = s.con1 ∧ (s.tick t).waits = s.waits ∧ (s.tick t).garp = s.garp ∧
    (s.tick t).stages = s.stages ∧ (s.tick t).nextStage = s.nextStage ∧ (s.tick t).retained = s.retained ∧
    (s.tick t).fwUpdate = s.fwUpdate ∧ (s.tick t).bellSeq = s.bellSeq ∧ (s.tick t).bells = s.bells ∧
    (s.tick t).ledgerSeq = s.ledgerSeq ∧ (s.tick t).ledgerHeld = s.ledgerHeld ∧
    (s.tick t).ledgerStopped = s.ledgerStopped ∧ (s.tick t).ptpPort = s.ptpPort ∧
    (s.tick t).ptpHeard = s.ptpHeard ∧ (s.tick t).tallies = s.tallies ∧ (s.tick t).busA = s.busA ∧
    (s.tick t).busB = s.busB ∧ (s.tick t).shared = s.shared ∧ (s.tick t).telem = s.telem ∧
    (s.tick t).unreach = s.unreach ∧ (s.tick t).refAbsent = s.refAbsent ∧ (s.tick t).refSince = s.refSince ∧
    (s.tick t).meshLocked = s.meshLocked ∧ (s.tick t).inlet = s.inlet ∧ (s.tick t).outlet = s.outlet ∧
    (s.tick t).loopSince = s.loopSince ∧ (s.tick t).wave = s.wave ∧ (s.tick t).lastWave = s.lastWave ∧
    (s.tick t).map = s.map ∧ (s.tick t).mapSeq = s.mapSeq ∧ (s.tick t).pads = s.pads ∧
    (s.tick t).fields = s.fields ∧ (s.tick t).links = s.links ∧ (s.tick t).lane0 = s.lane0 ∧
    (s.tick t).neds = s.neds ∧ (s.tick t).meds = s.meds ∧ (s.tick t).spds = s.spds ∧
    (s.tick t).nedTemp = s.nedTemp ∧ (s.tick t).spdTemp = s.spdTemp ∧ (s.tick t).medTemp = s.medTemp ∧
    (s.tick t).flockUp = s.flockUp ∧ (s.tick t).flockMembers = s.flockMembers ∧
    (s.tick t).flockInfo = s.flockInfo ∧ (s.tick t).excludedW = s.excludedW ∧ (s.tick t).folds = s.folds ∧
    (s.tick t).scrubs = s.scrubs ∧ (s.tick t).paused = s.paused ∧ (s.tick t).secondAt = s.secondAt ∧
    (s.tick t).incCtr = s.incCtr ∧ (s.tick t).channels = s.channels ∧ (s.tick t).sessions = s.sessions ∧
    (s.tick t).reports = s.reports ∧ (s.tick t).notices = s.notices ∧ (s.tick t).wsel = s.wsel ∧
    (s.tick t).wstat = s.wstat ∧ (s.tick t).shadow = s.shadow ∧ (s.tick t).taps = s.taps ∧
    (s.tick t).wire = s.wire ∧ (s.tick t).pending = s.pending ∧ (∀ j, (s.tick t).pad j = s.pad j) ∧
    (∀ j, (s.tick t).field j = s.field j) ∧ (∀ j, (s.tick t).ned j = s.ned j) ∧
    (∀ j, (s.tick t).med j = s.med j) ∧ (∀ j, (s.tick t).spd j = s.spd j) ∧
    (∀ j, (s.tick t).entry j = s.entry j) ∧ (∀ j, (s.tick t).cs j = s.cs j) ∧
    (∀ j, (s.tick t).foldOf j = s.foldOf j) ∧ (∀ j, (s.tick t).stOf j = s.stOf j) ∧
    (∀ j, (s.tick t).session j = s.session j) ∧ (∀ j, (s.tick t).channel j = s.channel j) ∧
    (∀ j, (s.tick t).shc j = s.shc j) ∧ ∀ j l, (s.tick t).link j l = s.link j l := by
  (repeat' apply And.intro) <;> intros <;> rfl

@[simp] theorem State.setPad_fields (s : State) (n : Nat) (p : Paddock) :
    (s.setPad n p).now = s.now ∧ (s.setPad n p).freeCtr = s.freeCtr ∧ (s.setPad n p).resetN = s.resetN ∧
    (s.setPad n p).pwrFail = s.pwrFail ∧ (s.setPad n p).pwrFailAt = s.pwrFailAt ∧
    (s.setPad n p).frozen = s.frozen ∧ (s.setPad n p).faultN = s.faultN ∧ (s.setPad n p).alertN = s.alertN ∧
    (s.setPad n p).alertCause = s.alertCause ∧ (s.setPad n p).ready = s.ready ∧
    (s.setPad n p).readyAt = s.readyAt ∧ (s.setPad n p).vstby = s.vstby ∧ (s.setPad n p).fuses = s.fuses ∧
    (s.setPad n p).flash = s.flash ∧ (s.setPad n p).writing = s.writing ∧ (s.setPad n p).place = s.place ∧
    (s.setPad n p).net = s.net ∧ (s.setPad n p).boot = s.boot ∧ (s.setPad n p).sel = s.sel ∧
    (s.setPad n p).quiet = s.quiet ∧ (s.setPad n p).active = s.active ∧ (s.setPad n p).shcA = s.shcA ∧
    (s.setPad n p).shcB = s.shcB ∧ (s.setPad n p).mirrorSeq = s.mirrorSeq ∧
    (s.setPad n p).mirrorProbe = s.mirrorProbe ∧ (s.setPad n p).scratch = s.scratch ∧
    (s.setPad n p).sess = s.sess ∧ (s.setPad n p).con0 = s.con0 ∧ (s.setPad n p).con1 = s.con1 ∧
    (s.setPad n p).waits = s.waits ∧ (s.setPad n p).garp = s.garp ∧ (s.setPad n p).stages = s.stages ∧
    (s.setPad n p).nextStage = s.nextStage ∧ (s.setPad n p).retained = s.retained ∧
    (s.setPad n p).fwUpdate = s.fwUpdate ∧ (s.setPad n p).bellSeq = s.bellSeq ∧
    (s.setPad n p).bells = s.bells ∧ (s.setPad n p).ledgerSeq = s.ledgerSeq ∧
    (s.setPad n p).ledgerHeld = s.ledgerHeld ∧ (s.setPad n p).ledgerStopped = s.ledgerStopped ∧
    (s.setPad n p).ptpPort = s.ptpPort ∧ (s.setPad n p).ptpHeard = s.ptpHeard ∧
    (s.setPad n p).tallies = s.tallies ∧ (s.setPad n p).busA = s.busA ∧ (s.setPad n p).busB = s.busB ∧
    (s.setPad n p).shared = s.shared ∧ (s.setPad n p).telem = s.telem ∧ (s.setPad n p).unreach = s.unreach ∧
    (s.setPad n p).refAbsent = s.refAbsent ∧ (s.setPad n p).refSince = s.refSince ∧
    (s.setPad n p).meshLocked = s.meshLocked ∧ (s.setPad n p).inlet = s.inlet ∧
    (s.setPad n p).outlet = s.outlet ∧ (s.setPad n p).loopSince = s.loopSince ∧ (s.setPad n p).wave = s.wave ∧
    (s.setPad n p).lastWave = s.lastWave ∧ (s.setPad n p).map = s.map ∧ (s.setPad n p).mapSeq = s.mapSeq ∧
    (s.setPad n p).fields = s.fields ∧ (s.setPad n p).links = s.links ∧ (s.setPad n p).lane0 = s.lane0 ∧
    (s.setPad n p).neds = s.neds ∧ (s.setPad n p).meds = s.meds ∧ (s.setPad n p).spds = s.spds ∧
    (s.setPad n p).nedTemp = s.nedTemp ∧ (s.setPad n p).spdTemp = s.spdTemp ∧
    (s.setPad n p).medTemp = s.medTemp ∧ (s.setPad n p).flockUp = s.flockUp ∧
    (s.setPad n p).flockMembers = s.flockMembers ∧ (s.setPad n p).flockInfo = s.flockInfo ∧
    (s.setPad n p).excludedW = s.excludedW ∧ (s.setPad n p).folds = s.folds ∧
    (s.setPad n p).scrubs = s.scrubs ∧ (s.setPad n p).paused = s.paused ∧
    (s.setPad n p).secondAt = s.secondAt ∧ (s.setPad n p).incCtr = s.incCtr ∧
    (s.setPad n p).channels = s.channels ∧ (s.setPad n p).sessions = s.sessions ∧
    (s.setPad n p).reports = s.reports ∧ (s.setPad n p).notices = s.notices ∧ (s.setPad n p).wsel = s.wsel ∧
    (s.setPad n p).wstat = s.wstat ∧ (s.setPad n p).shadow = s.shadow ∧ (s.setPad n p).taps = s.taps ∧
    (s.setPad n p).wire = s.wire ∧ (s.setPad n p).pending = s.pending ∧
    (∀ j, (s.setPad n p).field j = s.field j) ∧ (∀ j, (s.setPad n p).ned j = s.ned j) ∧
    (∀ j, (s.setPad n p).med j = s.med j) ∧ (∀ j, (s.setPad n p).spd j = s.spd j) ∧
    (∀ j, (s.setPad n p).entry j = s.entry j) ∧ (∀ j, (s.setPad n p).cs j = s.cs j) ∧
    (∀ j, (s.setPad n p).foldOf j = s.foldOf j) ∧ (∀ j, (s.setPad n p).stOf j = s.stOf j) ∧
    (∀ j, (s.setPad n p).session j = s.session j) ∧ (∀ j, (s.setPad n p).channel j = s.channel j) ∧
    (∀ j, (s.setPad n p).shc j = s.shc j) ∧ ∀ j l, (s.setPad n p).link j l = s.link j l := by
  (repeat' apply And.intro) <;> intros <;> rfl

@[simp] theorem State.modPad_fields (s : State) (n : Nat) (f : Paddock → Paddock) :
    (s.modPad n f).now = s.now ∧ (s.modPad n f).freeCtr = s.freeCtr ∧ (s.modPad n f).resetN = s.resetN ∧
    (s.modPad n f).pwrFail = s.pwrFail ∧ (s.modPad n f).pwrFailAt = s.pwrFailAt ∧
    (s.modPad n f).frozen = s.frozen ∧ (s.modPad n f).faultN = s.faultN ∧ (s.modPad n f).alertN = s.alertN ∧
    (s.modPad n f).alertCause = s.alertCause ∧ (s.modPad n f).ready = s.ready ∧
    (s.modPad n f).readyAt = s.readyAt ∧ (s.modPad n f).vstby = s.vstby ∧ (s.modPad n f).fuses = s.fuses ∧
    (s.modPad n f).flash = s.flash ∧ (s.modPad n f).writing = s.writing ∧ (s.modPad n f).place = s.place ∧
    (s.modPad n f).net = s.net ∧ (s.modPad n f).boot = s.boot ∧ (s.modPad n f).sel = s.sel ∧
    (s.modPad n f).quiet = s.quiet ∧ (s.modPad n f).active = s.active ∧ (s.modPad n f).shcA = s.shcA ∧
    (s.modPad n f).shcB = s.shcB ∧ (s.modPad n f).mirrorSeq = s.mirrorSeq ∧
    (s.modPad n f).mirrorProbe = s.mirrorProbe ∧ (s.modPad n f).scratch = s.scratch ∧
    (s.modPad n f).sess = s.sess ∧ (s.modPad n f).con0 = s.con0 ∧ (s.modPad n f).con1 = s.con1 ∧
    (s.modPad n f).waits = s.waits ∧ (s.modPad n f).garp = s.garp ∧ (s.modPad n f).stages = s.stages ∧
    (s.modPad n f).nextStage = s.nextStage ∧ (s.modPad n f).retained = s.retained ∧
    (s.modPad n f).fwUpdate = s.fwUpdate ∧ (s.modPad n f).bellSeq = s.bellSeq ∧
    (s.modPad n f).bells = s.bells ∧ (s.modPad n f).ledgerSeq = s.ledgerSeq ∧
    (s.modPad n f).ledgerHeld = s.ledgerHeld ∧ (s.modPad n f).ledgerStopped = s.ledgerStopped ∧
    (s.modPad n f).ptpPort = s.ptpPort ∧ (s.modPad n f).ptpHeard = s.ptpHeard ∧
    (s.modPad n f).tallies = s.tallies ∧ (s.modPad n f).busA = s.busA ∧ (s.modPad n f).busB = s.busB ∧
    (s.modPad n f).shared = s.shared ∧ (s.modPad n f).telem = s.telem ∧ (s.modPad n f).unreach = s.unreach ∧
    (s.modPad n f).refAbsent = s.refAbsent ∧ (s.modPad n f).refSince = s.refSince ∧
    (s.modPad n f).meshLocked = s.meshLocked ∧ (s.modPad n f).inlet = s.inlet ∧
    (s.modPad n f).outlet = s.outlet ∧ (s.modPad n f).loopSince = s.loopSince ∧ (s.modPad n f).wave = s.wave ∧
    (s.modPad n f).lastWave = s.lastWave ∧ (s.modPad n f).map = s.map ∧ (s.modPad n f).mapSeq = s.mapSeq ∧
    (s.modPad n f).fields = s.fields ∧ (s.modPad n f).links = s.links ∧ (s.modPad n f).lane0 = s.lane0 ∧
    (s.modPad n f).neds = s.neds ∧ (s.modPad n f).meds = s.meds ∧ (s.modPad n f).spds = s.spds ∧
    (s.modPad n f).nedTemp = s.nedTemp ∧ (s.modPad n f).spdTemp = s.spdTemp ∧
    (s.modPad n f).medTemp = s.medTemp ∧ (s.modPad n f).flockUp = s.flockUp ∧
    (s.modPad n f).flockMembers = s.flockMembers ∧ (s.modPad n f).flockInfo = s.flockInfo ∧
    (s.modPad n f).excludedW = s.excludedW ∧ (s.modPad n f).folds = s.folds ∧
    (s.modPad n f).scrubs = s.scrubs ∧ (s.modPad n f).paused = s.paused ∧
    (s.modPad n f).secondAt = s.secondAt ∧ (s.modPad n f).incCtr = s.incCtr ∧
    (s.modPad n f).channels = s.channels ∧ (s.modPad n f).sessions = s.sessions ∧
    (s.modPad n f).reports = s.reports ∧ (s.modPad n f).notices = s.notices ∧ (s.modPad n f).wsel = s.wsel ∧
    (s.modPad n f).wstat = s.wstat ∧ (s.modPad n f).shadow = s.shadow ∧ (s.modPad n f).taps = s.taps ∧
    (s.modPad n f).wire = s.wire ∧ (s.modPad n f).pending = s.pending ∧
    (∀ j, (s.modPad n f).field j = s.field j) ∧ (∀ j, (s.modPad n f).ned j = s.ned j) ∧
    (∀ j, (s.modPad n f).med j = s.med j) ∧ (∀ j, (s.modPad n f).spd j = s.spd j) ∧
    (∀ j, (s.modPad n f).entry j = s.entry j) ∧ (∀ j, (s.modPad n f).cs j = s.cs j) ∧
    (∀ j, (s.modPad n f).foldOf j = s.foldOf j) ∧ (∀ j, (s.modPad n f).stOf j = s.stOf j) ∧
    (∀ j, (s.modPad n f).session j = s.session j) ∧ (∀ j, (s.modPad n f).channel j = s.channel j) ∧
    (∀ j, (s.modPad n f).shc j = s.shc j) ∧ ∀ j l, (s.modPad n f).link j l = s.link j l := by
  (repeat' apply And.intro) <;> intros <;> rfl

@[simp] theorem State.setField_fields (s : State) (n : Nat) (x : Field) :
    (s.setField n x).now = s.now ∧ (s.setField n x).freeCtr = s.freeCtr ∧ (s.setField n x).resetN = s.resetN ∧
    (s.setField n x).pwrFail = s.pwrFail ∧ (s.setField n x).pwrFailAt = s.pwrFailAt ∧
    (s.setField n x).frozen = s.frozen ∧ (s.setField n x).faultN = s.faultN ∧
    (s.setField n x).alertN = s.alertN ∧ (s.setField n x).alertCause = s.alertCause ∧
    (s.setField n x).ready = s.ready ∧ (s.setField n x).readyAt = s.readyAt ∧
    (s.setField n x).vstby = s.vstby ∧ (s.setField n x).fuses = s.fuses ∧ (s.setField n x).flash = s.flash ∧
    (s.setField n x).writing = s.writing ∧ (s.setField n x).place = s.place ∧ (s.setField n x).net = s.net ∧
    (s.setField n x).boot = s.boot ∧ (s.setField n x).sel = s.sel ∧ (s.setField n x).quiet = s.quiet ∧
    (s.setField n x).active = s.active ∧ (s.setField n x).shcA = s.shcA ∧ (s.setField n x).shcB = s.shcB ∧
    (s.setField n x).mirrorSeq = s.mirrorSeq ∧ (s.setField n x).mirrorProbe = s.mirrorProbe ∧
    (s.setField n x).scratch = s.scratch ∧ (s.setField n x).sess = s.sess ∧ (s.setField n x).con0 = s.con0 ∧
    (s.setField n x).con1 = s.con1 ∧ (s.setField n x).waits = s.waits ∧ (s.setField n x).garp = s.garp ∧
    (s.setField n x).stages = s.stages ∧ (s.setField n x).nextStage = s.nextStage ∧
    (s.setField n x).retained = s.retained ∧ (s.setField n x).fwUpdate = s.fwUpdate ∧
    (s.setField n x).bellSeq = s.bellSeq ∧ (s.setField n x).bells = s.bells ∧
    (s.setField n x).ledgerSeq = s.ledgerSeq ∧ (s.setField n x).ledgerHeld = s.ledgerHeld ∧
    (s.setField n x).ledgerStopped = s.ledgerStopped ∧ (s.setField n x).ptpPort = s.ptpPort ∧
    (s.setField n x).ptpHeard = s.ptpHeard ∧ (s.setField n x).tallies = s.tallies ∧
    (s.setField n x).busA = s.busA ∧ (s.setField n x).busB = s.busB ∧ (s.setField n x).shared = s.shared ∧
    (s.setField n x).telem = s.telem ∧ (s.setField n x).unreach = s.unreach ∧
    (s.setField n x).refAbsent = s.refAbsent ∧ (s.setField n x).refSince = s.refSince ∧
    (s.setField n x).meshLocked = s.meshLocked ∧ (s.setField n x).inlet = s.inlet ∧
    (s.setField n x).outlet = s.outlet ∧ (s.setField n x).loopSince = s.loopSince ∧
    (s.setField n x).wave = s.wave ∧ (s.setField n x).lastWave = s.lastWave ∧ (s.setField n x).map = s.map ∧
    (s.setField n x).mapSeq = s.mapSeq ∧ (s.setField n x).pads = s.pads ∧ (s.setField n x).links = s.links ∧
    (s.setField n x).lane0 = s.lane0 ∧ (s.setField n x).neds = s.neds ∧ (s.setField n x).meds = s.meds ∧
    (s.setField n x).spds = s.spds ∧ (s.setField n x).nedTemp = s.nedTemp ∧
    (s.setField n x).spdTemp = s.spdTemp ∧ (s.setField n x).medTemp = s.medTemp ∧
    (s.setField n x).flockUp = s.flockUp ∧ (s.setField n x).flockMembers = s.flockMembers ∧
    (s.setField n x).flockInfo = s.flockInfo ∧ (s.setField n x).excludedW = s.excludedW ∧
    (s.setField n x).folds = s.folds ∧ (s.setField n x).scrubs = s.scrubs ∧
    (s.setField n x).paused = s.paused ∧ (s.setField n x).secondAt = s.secondAt ∧
    (s.setField n x).incCtr = s.incCtr ∧ (s.setField n x).channels = s.channels ∧
    (s.setField n x).sessions = s.sessions ∧ (s.setField n x).reports = s.reports ∧
    (s.setField n x).notices = s.notices ∧ (s.setField n x).wsel = s.wsel ∧ (s.setField n x).wstat = s.wstat ∧
    (s.setField n x).shadow = s.shadow ∧ (s.setField n x).taps = s.taps ∧ (s.setField n x).wire = s.wire ∧
    (s.setField n x).pending = s.pending ∧ (∀ j, (s.setField n x).pad j = s.pad j) ∧
    (∀ j, (s.setField n x).ned j = s.ned j) ∧ (∀ j, (s.setField n x).med j = s.med j) ∧
    (∀ j, (s.setField n x).spd j = s.spd j) ∧ (∀ j, (s.setField n x).entry j = s.entry j) ∧
    (∀ j, (s.setField n x).cs j = s.cs j) ∧ (∀ j, (s.setField n x).foldOf j = s.foldOf j) ∧
    (∀ j, (s.setField n x).stOf j = s.stOf j) ∧ (∀ j, (s.setField n x).session j = s.session j) ∧
    (∀ j, (s.setField n x).channel j = s.channel j) ∧ (∀ j, (s.setField n x).shc j = s.shc j) ∧
    ∀ j l, (s.setField n x).link j l = s.link j l := by
  (repeat' apply And.intro) <;> intros <;> rfl

@[simp] theorem State.modField_fields (s : State) (n : Nat) (f : Field → Field) :
    (s.modField n f).now = s.now ∧ (s.modField n f).freeCtr = s.freeCtr ∧ (s.modField n f).resetN = s.resetN ∧
    (s.modField n f).pwrFail = s.pwrFail ∧ (s.modField n f).pwrFailAt = s.pwrFailAt ∧
    (s.modField n f).frozen = s.frozen ∧ (s.modField n f).faultN = s.faultN ∧
    (s.modField n f).alertN = s.alertN ∧ (s.modField n f).alertCause = s.alertCause ∧
    (s.modField n f).ready = s.ready ∧ (s.modField n f).readyAt = s.readyAt ∧
    (s.modField n f).vstby = s.vstby ∧ (s.modField n f).fuses = s.fuses ∧ (s.modField n f).flash = s.flash ∧
    (s.modField n f).writing = s.writing ∧ (s.modField n f).place = s.place ∧ (s.modField n f).net = s.net ∧
    (s.modField n f).boot = s.boot ∧ (s.modField n f).sel = s.sel ∧ (s.modField n f).quiet = s.quiet ∧
    (s.modField n f).active = s.active ∧ (s.modField n f).shcA = s.shcA ∧ (s.modField n f).shcB = s.shcB ∧
    (s.modField n f).mirrorSeq = s.mirrorSeq ∧ (s.modField n f).mirrorProbe = s.mirrorProbe ∧
    (s.modField n f).scratch = s.scratch ∧ (s.modField n f).sess = s.sess ∧ (s.modField n f).con0 = s.con0 ∧
    (s.modField n f).con1 = s.con1 ∧ (s.modField n f).waits = s.waits ∧ (s.modField n f).garp = s.garp ∧
    (s.modField n f).stages = s.stages ∧ (s.modField n f).nextStage = s.nextStage ∧
    (s.modField n f).retained = s.retained ∧ (s.modField n f).fwUpdate = s.fwUpdate ∧
    (s.modField n f).bellSeq = s.bellSeq ∧ (s.modField n f).bells = s.bells ∧
    (s.modField n f).ledgerSeq = s.ledgerSeq ∧ (s.modField n f).ledgerHeld = s.ledgerHeld ∧
    (s.modField n f).ledgerStopped = s.ledgerStopped ∧ (s.modField n f).ptpPort = s.ptpPort ∧
    (s.modField n f).ptpHeard = s.ptpHeard ∧ (s.modField n f).tallies = s.tallies ∧
    (s.modField n f).busA = s.busA ∧ (s.modField n f).busB = s.busB ∧ (s.modField n f).shared = s.shared ∧
    (s.modField n f).telem = s.telem ∧ (s.modField n f).unreach = s.unreach ∧
    (s.modField n f).refAbsent = s.refAbsent ∧ (s.modField n f).refSince = s.refSince ∧
    (s.modField n f).meshLocked = s.meshLocked ∧ (s.modField n f).inlet = s.inlet ∧
    (s.modField n f).outlet = s.outlet ∧ (s.modField n f).loopSince = s.loopSince ∧
    (s.modField n f).wave = s.wave ∧ (s.modField n f).lastWave = s.lastWave ∧ (s.modField n f).map = s.map ∧
    (s.modField n f).mapSeq = s.mapSeq ∧ (s.modField n f).pads = s.pads ∧ (s.modField n f).links = s.links ∧
    (s.modField n f).lane0 = s.lane0 ∧ (s.modField n f).neds = s.neds ∧ (s.modField n f).meds = s.meds ∧
    (s.modField n f).spds = s.spds ∧ (s.modField n f).nedTemp = s.nedTemp ∧
    (s.modField n f).spdTemp = s.spdTemp ∧ (s.modField n f).medTemp = s.medTemp ∧
    (s.modField n f).flockUp = s.flockUp ∧ (s.modField n f).flockMembers = s.flockMembers ∧
    (s.modField n f).flockInfo = s.flockInfo ∧ (s.modField n f).excludedW = s.excludedW ∧
    (s.modField n f).folds = s.folds ∧ (s.modField n f).scrubs = s.scrubs ∧
    (s.modField n f).paused = s.paused ∧ (s.modField n f).secondAt = s.secondAt ∧
    (s.modField n f).incCtr = s.incCtr ∧ (s.modField n f).channels = s.channels ∧
    (s.modField n f).sessions = s.sessions ∧ (s.modField n f).reports = s.reports ∧
    (s.modField n f).notices = s.notices ∧ (s.modField n f).wsel = s.wsel ∧ (s.modField n f).wstat = s.wstat ∧
    (s.modField n f).shadow = s.shadow ∧ (s.modField n f).taps = s.taps ∧ (s.modField n f).wire = s.wire ∧
    (s.modField n f).pending = s.pending ∧ (∀ j, (s.modField n f).pad j = s.pad j) ∧
    (∀ j, (s.modField n f).ned j = s.ned j) ∧ (∀ j, (s.modField n f).med j = s.med j) ∧
    (∀ j, (s.modField n f).spd j = s.spd j) ∧ (∀ j, (s.modField n f).entry j = s.entry j) ∧
    (∀ j, (s.modField n f).cs j = s.cs j) ∧ (∀ j, (s.modField n f).foldOf j = s.foldOf j) ∧
    (∀ j, (s.modField n f).stOf j = s.stOf j) ∧ (∀ j, (s.modField n f).session j = s.session j) ∧
    (∀ j, (s.modField n f).channel j = s.channel j) ∧ (∀ j, (s.modField n f).shc j = s.shc j) ∧
    ∀ j l, (s.modField n f).link j l = s.link j l := by
  (repeat' apply And.intro) <;> intros <;> rfl

@[simp] theorem State.setNed_fields (s : State) (k : Nat) (x : Ned) :
    (s.setNed k x).now = s.now ∧ (s.setNed k x).freeCtr = s.freeCtr ∧ (s.setNed k x).resetN = s.resetN ∧
    (s.setNed k x).pwrFail = s.pwrFail ∧ (s.setNed k x).pwrFailAt = s.pwrFailAt ∧
    (s.setNed k x).frozen = s.frozen ∧ (s.setNed k x).faultN = s.faultN ∧ (s.setNed k x).alertN = s.alertN ∧
    (s.setNed k x).alertCause = s.alertCause ∧ (s.setNed k x).ready = s.ready ∧
    (s.setNed k x).readyAt = s.readyAt ∧ (s.setNed k x).vstby = s.vstby ∧ (s.setNed k x).fuses = s.fuses ∧
    (s.setNed k x).flash = s.flash ∧ (s.setNed k x).writing = s.writing ∧ (s.setNed k x).place = s.place ∧
    (s.setNed k x).net = s.net ∧ (s.setNed k x).boot = s.boot ∧ (s.setNed k x).sel = s.sel ∧
    (s.setNed k x).quiet = s.quiet ∧ (s.setNed k x).active = s.active ∧ (s.setNed k x).shcA = s.shcA ∧
    (s.setNed k x).shcB = s.shcB ∧ (s.setNed k x).mirrorSeq = s.mirrorSeq ∧
    (s.setNed k x).mirrorProbe = s.mirrorProbe ∧ (s.setNed k x).scratch = s.scratch ∧
    (s.setNed k x).sess = s.sess ∧ (s.setNed k x).con0 = s.con0 ∧ (s.setNed k x).con1 = s.con1 ∧
    (s.setNed k x).waits = s.waits ∧ (s.setNed k x).garp = s.garp ∧ (s.setNed k x).stages = s.stages ∧
    (s.setNed k x).nextStage = s.nextStage ∧ (s.setNed k x).retained = s.retained ∧
    (s.setNed k x).fwUpdate = s.fwUpdate ∧ (s.setNed k x).bellSeq = s.bellSeq ∧
    (s.setNed k x).bells = s.bells ∧ (s.setNed k x).ledgerSeq = s.ledgerSeq ∧
    (s.setNed k x).ledgerHeld = s.ledgerHeld ∧ (s.setNed k x).ledgerStopped = s.ledgerStopped ∧
    (s.setNed k x).ptpPort = s.ptpPort ∧ (s.setNed k x).ptpHeard = s.ptpHeard ∧
    (s.setNed k x).tallies = s.tallies ∧ (s.setNed k x).busA = s.busA ∧ (s.setNed k x).busB = s.busB ∧
    (s.setNed k x).shared = s.shared ∧ (s.setNed k x).telem = s.telem ∧ (s.setNed k x).unreach = s.unreach ∧
    (s.setNed k x).refAbsent = s.refAbsent ∧ (s.setNed k x).refSince = s.refSince ∧
    (s.setNed k x).meshLocked = s.meshLocked ∧ (s.setNed k x).inlet = s.inlet ∧
    (s.setNed k x).outlet = s.outlet ∧ (s.setNed k x).loopSince = s.loopSince ∧ (s.setNed k x).wave = s.wave ∧
    (s.setNed k x).lastWave = s.lastWave ∧ (s.setNed k x).map = s.map ∧ (s.setNed k x).mapSeq = s.mapSeq ∧
    (s.setNed k x).pads = s.pads ∧ (s.setNed k x).fields = s.fields ∧ (s.setNed k x).links = s.links ∧
    (s.setNed k x).lane0 = s.lane0 ∧ (s.setNed k x).meds = s.meds ∧ (s.setNed k x).spds = s.spds ∧
    (s.setNed k x).nedTemp = s.nedTemp ∧ (s.setNed k x).spdTemp = s.spdTemp ∧
    (s.setNed k x).medTemp = s.medTemp ∧ (s.setNed k x).flockUp = s.flockUp ∧
    (s.setNed k x).flockMembers = s.flockMembers ∧ (s.setNed k x).flockInfo = s.flockInfo ∧
    (s.setNed k x).excludedW = s.excludedW ∧ (s.setNed k x).folds = s.folds ∧
    (s.setNed k x).scrubs = s.scrubs ∧ (s.setNed k x).paused = s.paused ∧
    (s.setNed k x).secondAt = s.secondAt ∧ (s.setNed k x).incCtr = s.incCtr ∧
    (s.setNed k x).channels = s.channels ∧ (s.setNed k x).sessions = s.sessions ∧
    (s.setNed k x).reports = s.reports ∧ (s.setNed k x).notices = s.notices ∧ (s.setNed k x).wsel = s.wsel ∧
    (s.setNed k x).wstat = s.wstat ∧ (s.setNed k x).shadow = s.shadow ∧ (s.setNed k x).taps = s.taps ∧
    (s.setNed k x).wire = s.wire ∧ (s.setNed k x).pending = s.pending ∧ (∀ j, (s.setNed k x).pad j = s.pad j) ∧
    (∀ j, (s.setNed k x).field j = s.field j) ∧ (∀ j, (s.setNed k x).med j = s.med j) ∧
    (∀ j, (s.setNed k x).spd j = s.spd j) ∧ (∀ j, (s.setNed k x).entry j = s.entry j) ∧
    (∀ j, (s.setNed k x).cs j = s.cs j) ∧ (∀ j, (s.setNed k x).foldOf j = s.foldOf j) ∧
    (∀ j, (s.setNed k x).stOf j = s.stOf j) ∧ (∀ j, (s.setNed k x).session j = s.session j) ∧
    (∀ j, (s.setNed k x).channel j = s.channel j) ∧ (∀ j, (s.setNed k x).shc j = s.shc j) ∧
    ∀ j l, (s.setNed k x).link j l = s.link j l := by
  (repeat' apply And.intro) <;> intros <;> rfl

@[simp] theorem State.modNed_fields (s : State) (k : Nat) (f : Ned → Ned) :
    (s.modNed k f).now = s.now ∧ (s.modNed k f).freeCtr = s.freeCtr ∧ (s.modNed k f).resetN = s.resetN ∧
    (s.modNed k f).pwrFail = s.pwrFail ∧ (s.modNed k f).pwrFailAt = s.pwrFailAt ∧
    (s.modNed k f).frozen = s.frozen ∧ (s.modNed k f).faultN = s.faultN ∧ (s.modNed k f).alertN = s.alertN ∧
    (s.modNed k f).alertCause = s.alertCause ∧ (s.modNed k f).ready = s.ready ∧
    (s.modNed k f).readyAt = s.readyAt ∧ (s.modNed k f).vstby = s.vstby ∧ (s.modNed k f).fuses = s.fuses ∧
    (s.modNed k f).flash = s.flash ∧ (s.modNed k f).writing = s.writing ∧ (s.modNed k f).place = s.place ∧
    (s.modNed k f).net = s.net ∧ (s.modNed k f).boot = s.boot ∧ (s.modNed k f).sel = s.sel ∧
    (s.modNed k f).quiet = s.quiet ∧ (s.modNed k f).active = s.active ∧ (s.modNed k f).shcA = s.shcA ∧
    (s.modNed k f).shcB = s.shcB ∧ (s.modNed k f).mirrorSeq = s.mirrorSeq ∧
    (s.modNed k f).mirrorProbe = s.mirrorProbe ∧ (s.modNed k f).scratch = s.scratch ∧
    (s.modNed k f).sess = s.sess ∧ (s.modNed k f).con0 = s.con0 ∧ (s.modNed k f).con1 = s.con1 ∧
    (s.modNed k f).waits = s.waits ∧ (s.modNed k f).garp = s.garp ∧ (s.modNed k f).stages = s.stages ∧
    (s.modNed k f).nextStage = s.nextStage ∧ (s.modNed k f).retained = s.retained ∧
    (s.modNed k f).fwUpdate = s.fwUpdate ∧ (s.modNed k f).bellSeq = s.bellSeq ∧
    (s.modNed k f).bells = s.bells ∧ (s.modNed k f).ledgerSeq = s.ledgerSeq ∧
    (s.modNed k f).ledgerHeld = s.ledgerHeld ∧ (s.modNed k f).ledgerStopped = s.ledgerStopped ∧
    (s.modNed k f).ptpPort = s.ptpPort ∧ (s.modNed k f).ptpHeard = s.ptpHeard ∧
    (s.modNed k f).tallies = s.tallies ∧ (s.modNed k f).busA = s.busA ∧ (s.modNed k f).busB = s.busB ∧
    (s.modNed k f).shared = s.shared ∧ (s.modNed k f).telem = s.telem ∧ (s.modNed k f).unreach = s.unreach ∧
    (s.modNed k f).refAbsent = s.refAbsent ∧ (s.modNed k f).refSince = s.refSince ∧
    (s.modNed k f).meshLocked = s.meshLocked ∧ (s.modNed k f).inlet = s.inlet ∧
    (s.modNed k f).outlet = s.outlet ∧ (s.modNed k f).loopSince = s.loopSince ∧ (s.modNed k f).wave = s.wave ∧
    (s.modNed k f).lastWave = s.lastWave ∧ (s.modNed k f).map = s.map ∧ (s.modNed k f).mapSeq = s.mapSeq ∧
    (s.modNed k f).pads = s.pads ∧ (s.modNed k f).fields = s.fields ∧ (s.modNed k f).links = s.links ∧
    (s.modNed k f).lane0 = s.lane0 ∧ (s.modNed k f).meds = s.meds ∧ (s.modNed k f).spds = s.spds ∧
    (s.modNed k f).nedTemp = s.nedTemp ∧ (s.modNed k f).spdTemp = s.spdTemp ∧
    (s.modNed k f).medTemp = s.medTemp ∧ (s.modNed k f).flockUp = s.flockUp ∧
    (s.modNed k f).flockMembers = s.flockMembers ∧ (s.modNed k f).flockInfo = s.flockInfo ∧
    (s.modNed k f).excludedW = s.excludedW ∧ (s.modNed k f).folds = s.folds ∧
    (s.modNed k f).scrubs = s.scrubs ∧ (s.modNed k f).paused = s.paused ∧
    (s.modNed k f).secondAt = s.secondAt ∧ (s.modNed k f).incCtr = s.incCtr ∧
    (s.modNed k f).channels = s.channels ∧ (s.modNed k f).sessions = s.sessions ∧
    (s.modNed k f).reports = s.reports ∧ (s.modNed k f).notices = s.notices ∧ (s.modNed k f).wsel = s.wsel ∧
    (s.modNed k f).wstat = s.wstat ∧ (s.modNed k f).shadow = s.shadow ∧ (s.modNed k f).taps = s.taps ∧
    (s.modNed k f).wire = s.wire ∧ (s.modNed k f).pending = s.pending ∧ (∀ j, (s.modNed k f).pad j = s.pad j) ∧
    (∀ j, (s.modNed k f).field j = s.field j) ∧ (∀ j, (s.modNed k f).med j = s.med j) ∧
    (∀ j, (s.modNed k f).spd j = s.spd j) ∧ (∀ j, (s.modNed k f).entry j = s.entry j) ∧
    (∀ j, (s.modNed k f).cs j = s.cs j) ∧ (∀ j, (s.modNed k f).foldOf j = s.foldOf j) ∧
    (∀ j, (s.modNed k f).stOf j = s.stOf j) ∧ (∀ j, (s.modNed k f).session j = s.session j) ∧
    (∀ j, (s.modNed k f).channel j = s.channel j) ∧ (∀ j, (s.modNed k f).shc j = s.shc j) ∧
    ∀ j l, (s.modNed k f).link j l = s.link j l := by
  (repeat' apply And.intro) <;> intros <;> rfl

@[simp] theorem State.setMed_fields (s : State) (k : Nat) (x : Med) :
    (s.setMed k x).now = s.now ∧ (s.setMed k x).freeCtr = s.freeCtr ∧ (s.setMed k x).resetN = s.resetN ∧
    (s.setMed k x).pwrFail = s.pwrFail ∧ (s.setMed k x).pwrFailAt = s.pwrFailAt ∧
    (s.setMed k x).frozen = s.frozen ∧ (s.setMed k x).faultN = s.faultN ∧ (s.setMed k x).alertN = s.alertN ∧
    (s.setMed k x).alertCause = s.alertCause ∧ (s.setMed k x).ready = s.ready ∧
    (s.setMed k x).readyAt = s.readyAt ∧ (s.setMed k x).vstby = s.vstby ∧ (s.setMed k x).fuses = s.fuses ∧
    (s.setMed k x).flash = s.flash ∧ (s.setMed k x).writing = s.writing ∧ (s.setMed k x).place = s.place ∧
    (s.setMed k x).net = s.net ∧ (s.setMed k x).boot = s.boot ∧ (s.setMed k x).sel = s.sel ∧
    (s.setMed k x).quiet = s.quiet ∧ (s.setMed k x).active = s.active ∧ (s.setMed k x).shcA = s.shcA ∧
    (s.setMed k x).shcB = s.shcB ∧ (s.setMed k x).mirrorSeq = s.mirrorSeq ∧
    (s.setMed k x).mirrorProbe = s.mirrorProbe ∧ (s.setMed k x).scratch = s.scratch ∧
    (s.setMed k x).sess = s.sess ∧ (s.setMed k x).con0 = s.con0 ∧ (s.setMed k x).con1 = s.con1 ∧
    (s.setMed k x).waits = s.waits ∧ (s.setMed k x).garp = s.garp ∧ (s.setMed k x).stages = s.stages ∧
    (s.setMed k x).nextStage = s.nextStage ∧ (s.setMed k x).retained = s.retained ∧
    (s.setMed k x).fwUpdate = s.fwUpdate ∧ (s.setMed k x).bellSeq = s.bellSeq ∧
    (s.setMed k x).bells = s.bells ∧ (s.setMed k x).ledgerSeq = s.ledgerSeq ∧
    (s.setMed k x).ledgerHeld = s.ledgerHeld ∧ (s.setMed k x).ledgerStopped = s.ledgerStopped ∧
    (s.setMed k x).ptpPort = s.ptpPort ∧ (s.setMed k x).ptpHeard = s.ptpHeard ∧
    (s.setMed k x).tallies = s.tallies ∧ (s.setMed k x).busA = s.busA ∧ (s.setMed k x).busB = s.busB ∧
    (s.setMed k x).shared = s.shared ∧ (s.setMed k x).telem = s.telem ∧ (s.setMed k x).unreach = s.unreach ∧
    (s.setMed k x).refAbsent = s.refAbsent ∧ (s.setMed k x).refSince = s.refSince ∧
    (s.setMed k x).meshLocked = s.meshLocked ∧ (s.setMed k x).inlet = s.inlet ∧
    (s.setMed k x).outlet = s.outlet ∧ (s.setMed k x).loopSince = s.loopSince ∧ (s.setMed k x).wave = s.wave ∧
    (s.setMed k x).lastWave = s.lastWave ∧ (s.setMed k x).map = s.map ∧ (s.setMed k x).mapSeq = s.mapSeq ∧
    (s.setMed k x).pads = s.pads ∧ (s.setMed k x).fields = s.fields ∧ (s.setMed k x).links = s.links ∧
    (s.setMed k x).lane0 = s.lane0 ∧ (s.setMed k x).neds = s.neds ∧ (s.setMed k x).spds = s.spds ∧
    (s.setMed k x).nedTemp = s.nedTemp ∧ (s.setMed k x).spdTemp = s.spdTemp ∧
    (s.setMed k x).medTemp = s.medTemp ∧ (s.setMed k x).flockUp = s.flockUp ∧
    (s.setMed k x).flockMembers = s.flockMembers ∧ (s.setMed k x).flockInfo = s.flockInfo ∧
    (s.setMed k x).excludedW = s.excludedW ∧ (s.setMed k x).folds = s.folds ∧
    (s.setMed k x).scrubs = s.scrubs ∧ (s.setMed k x).paused = s.paused ∧
    (s.setMed k x).secondAt = s.secondAt ∧ (s.setMed k x).incCtr = s.incCtr ∧
    (s.setMed k x).channels = s.channels ∧ (s.setMed k x).sessions = s.sessions ∧
    (s.setMed k x).reports = s.reports ∧ (s.setMed k x).notices = s.notices ∧ (s.setMed k x).wsel = s.wsel ∧
    (s.setMed k x).wstat = s.wstat ∧ (s.setMed k x).shadow = s.shadow ∧ (s.setMed k x).taps = s.taps ∧
    (s.setMed k x).wire = s.wire ∧ (s.setMed k x).pending = s.pending ∧ (∀ j, (s.setMed k x).pad j = s.pad j) ∧
    (∀ j, (s.setMed k x).field j = s.field j) ∧ (∀ j, (s.setMed k x).ned j = s.ned j) ∧
    (∀ j, (s.setMed k x).spd j = s.spd j) ∧ (∀ j, (s.setMed k x).entry j = s.entry j) ∧
    (∀ j, (s.setMed k x).cs j = s.cs j) ∧ (∀ j, (s.setMed k x).foldOf j = s.foldOf j) ∧
    (∀ j, (s.setMed k x).stOf j = s.stOf j) ∧ (∀ j, (s.setMed k x).session j = s.session j) ∧
    (∀ j, (s.setMed k x).channel j = s.channel j) ∧ (∀ j, (s.setMed k x).shc j = s.shc j) ∧
    ∀ j l, (s.setMed k x).link j l = s.link j l := by
  (repeat' apply And.intro) <;> intros <;> rfl

@[simp] theorem State.modMed_fields (s : State) (k : Nat) (f : Med → Med) :
    (s.modMed k f).now = s.now ∧ (s.modMed k f).freeCtr = s.freeCtr ∧ (s.modMed k f).resetN = s.resetN ∧
    (s.modMed k f).pwrFail = s.pwrFail ∧ (s.modMed k f).pwrFailAt = s.pwrFailAt ∧
    (s.modMed k f).frozen = s.frozen ∧ (s.modMed k f).faultN = s.faultN ∧ (s.modMed k f).alertN = s.alertN ∧
    (s.modMed k f).alertCause = s.alertCause ∧ (s.modMed k f).ready = s.ready ∧
    (s.modMed k f).readyAt = s.readyAt ∧ (s.modMed k f).vstby = s.vstby ∧ (s.modMed k f).fuses = s.fuses ∧
    (s.modMed k f).flash = s.flash ∧ (s.modMed k f).writing = s.writing ∧ (s.modMed k f).place = s.place ∧
    (s.modMed k f).net = s.net ∧ (s.modMed k f).boot = s.boot ∧ (s.modMed k f).sel = s.sel ∧
    (s.modMed k f).quiet = s.quiet ∧ (s.modMed k f).active = s.active ∧ (s.modMed k f).shcA = s.shcA ∧
    (s.modMed k f).shcB = s.shcB ∧ (s.modMed k f).mirrorSeq = s.mirrorSeq ∧
    (s.modMed k f).mirrorProbe = s.mirrorProbe ∧ (s.modMed k f).scratch = s.scratch ∧
    (s.modMed k f).sess = s.sess ∧ (s.modMed k f).con0 = s.con0 ∧ (s.modMed k f).con1 = s.con1 ∧
    (s.modMed k f).waits = s.waits ∧ (s.modMed k f).garp = s.garp ∧ (s.modMed k f).stages = s.stages ∧
    (s.modMed k f).nextStage = s.nextStage ∧ (s.modMed k f).retained = s.retained ∧
    (s.modMed k f).fwUpdate = s.fwUpdate ∧ (s.modMed k f).bellSeq = s.bellSeq ∧
    (s.modMed k f).bells = s.bells ∧ (s.modMed k f).ledgerSeq = s.ledgerSeq ∧
    (s.modMed k f).ledgerHeld = s.ledgerHeld ∧ (s.modMed k f).ledgerStopped = s.ledgerStopped ∧
    (s.modMed k f).ptpPort = s.ptpPort ∧ (s.modMed k f).ptpHeard = s.ptpHeard ∧
    (s.modMed k f).tallies = s.tallies ∧ (s.modMed k f).busA = s.busA ∧ (s.modMed k f).busB = s.busB ∧
    (s.modMed k f).shared = s.shared ∧ (s.modMed k f).telem = s.telem ∧ (s.modMed k f).unreach = s.unreach ∧
    (s.modMed k f).refAbsent = s.refAbsent ∧ (s.modMed k f).refSince = s.refSince ∧
    (s.modMed k f).meshLocked = s.meshLocked ∧ (s.modMed k f).inlet = s.inlet ∧
    (s.modMed k f).outlet = s.outlet ∧ (s.modMed k f).loopSince = s.loopSince ∧ (s.modMed k f).wave = s.wave ∧
    (s.modMed k f).lastWave = s.lastWave ∧ (s.modMed k f).map = s.map ∧ (s.modMed k f).mapSeq = s.mapSeq ∧
    (s.modMed k f).pads = s.pads ∧ (s.modMed k f).fields = s.fields ∧ (s.modMed k f).links = s.links ∧
    (s.modMed k f).lane0 = s.lane0 ∧ (s.modMed k f).neds = s.neds ∧ (s.modMed k f).spds = s.spds ∧
    (s.modMed k f).nedTemp = s.nedTemp ∧ (s.modMed k f).spdTemp = s.spdTemp ∧
    (s.modMed k f).medTemp = s.medTemp ∧ (s.modMed k f).flockUp = s.flockUp ∧
    (s.modMed k f).flockMembers = s.flockMembers ∧ (s.modMed k f).flockInfo = s.flockInfo ∧
    (s.modMed k f).excludedW = s.excludedW ∧ (s.modMed k f).folds = s.folds ∧
    (s.modMed k f).scrubs = s.scrubs ∧ (s.modMed k f).paused = s.paused ∧
    (s.modMed k f).secondAt = s.secondAt ∧ (s.modMed k f).incCtr = s.incCtr ∧
    (s.modMed k f).channels = s.channels ∧ (s.modMed k f).sessions = s.sessions ∧
    (s.modMed k f).reports = s.reports ∧ (s.modMed k f).notices = s.notices ∧ (s.modMed k f).wsel = s.wsel ∧
    (s.modMed k f).wstat = s.wstat ∧ (s.modMed k f).shadow = s.shadow ∧ (s.modMed k f).taps = s.taps ∧
    (s.modMed k f).wire = s.wire ∧ (s.modMed k f).pending = s.pending ∧ (∀ j, (s.modMed k f).pad j = s.pad j) ∧
    (∀ j, (s.modMed k f).field j = s.field j) ∧ (∀ j, (s.modMed k f).ned j = s.ned j) ∧
    (∀ j, (s.modMed k f).spd j = s.spd j) ∧ (∀ j, (s.modMed k f).entry j = s.entry j) ∧
    (∀ j, (s.modMed k f).cs j = s.cs j) ∧ (∀ j, (s.modMed k f).foldOf j = s.foldOf j) ∧
    (∀ j, (s.modMed k f).stOf j = s.stOf j) ∧ (∀ j, (s.modMed k f).session j = s.session j) ∧
    (∀ j, (s.modMed k f).channel j = s.channel j) ∧ (∀ j, (s.modMed k f).shc j = s.shc j) ∧
    ∀ j l, (s.modMed k f).link j l = s.link j l := by
  (repeat' apply And.intro) <;> intros <;> rfl

@[simp] theorem State.setSpd_fields (s : State) (k : Nat) (x : Spd) :
    (s.setSpd k x).now = s.now ∧ (s.setSpd k x).freeCtr = s.freeCtr ∧ (s.setSpd k x).resetN = s.resetN ∧
    (s.setSpd k x).pwrFail = s.pwrFail ∧ (s.setSpd k x).pwrFailAt = s.pwrFailAt ∧
    (s.setSpd k x).frozen = s.frozen ∧ (s.setSpd k x).faultN = s.faultN ∧ (s.setSpd k x).alertN = s.alertN ∧
    (s.setSpd k x).alertCause = s.alertCause ∧ (s.setSpd k x).ready = s.ready ∧
    (s.setSpd k x).readyAt = s.readyAt ∧ (s.setSpd k x).vstby = s.vstby ∧ (s.setSpd k x).fuses = s.fuses ∧
    (s.setSpd k x).flash = s.flash ∧ (s.setSpd k x).writing = s.writing ∧ (s.setSpd k x).place = s.place ∧
    (s.setSpd k x).net = s.net ∧ (s.setSpd k x).boot = s.boot ∧ (s.setSpd k x).sel = s.sel ∧
    (s.setSpd k x).quiet = s.quiet ∧ (s.setSpd k x).active = s.active ∧ (s.setSpd k x).shcA = s.shcA ∧
    (s.setSpd k x).shcB = s.shcB ∧ (s.setSpd k x).mirrorSeq = s.mirrorSeq ∧
    (s.setSpd k x).mirrorProbe = s.mirrorProbe ∧ (s.setSpd k x).scratch = s.scratch ∧
    (s.setSpd k x).sess = s.sess ∧ (s.setSpd k x).con0 = s.con0 ∧ (s.setSpd k x).con1 = s.con1 ∧
    (s.setSpd k x).waits = s.waits ∧ (s.setSpd k x).garp = s.garp ∧ (s.setSpd k x).stages = s.stages ∧
    (s.setSpd k x).nextStage = s.nextStage ∧ (s.setSpd k x).retained = s.retained ∧
    (s.setSpd k x).fwUpdate = s.fwUpdate ∧ (s.setSpd k x).bellSeq = s.bellSeq ∧
    (s.setSpd k x).bells = s.bells ∧ (s.setSpd k x).ledgerSeq = s.ledgerSeq ∧
    (s.setSpd k x).ledgerHeld = s.ledgerHeld ∧ (s.setSpd k x).ledgerStopped = s.ledgerStopped ∧
    (s.setSpd k x).ptpPort = s.ptpPort ∧ (s.setSpd k x).ptpHeard = s.ptpHeard ∧
    (s.setSpd k x).tallies = s.tallies ∧ (s.setSpd k x).busA = s.busA ∧ (s.setSpd k x).busB = s.busB ∧
    (s.setSpd k x).shared = s.shared ∧ (s.setSpd k x).telem = s.telem ∧ (s.setSpd k x).unreach = s.unreach ∧
    (s.setSpd k x).refAbsent = s.refAbsent ∧ (s.setSpd k x).refSince = s.refSince ∧
    (s.setSpd k x).meshLocked = s.meshLocked ∧ (s.setSpd k x).inlet = s.inlet ∧
    (s.setSpd k x).outlet = s.outlet ∧ (s.setSpd k x).loopSince = s.loopSince ∧ (s.setSpd k x).wave = s.wave ∧
    (s.setSpd k x).lastWave = s.lastWave ∧ (s.setSpd k x).map = s.map ∧ (s.setSpd k x).mapSeq = s.mapSeq ∧
    (s.setSpd k x).pads = s.pads ∧ (s.setSpd k x).fields = s.fields ∧ (s.setSpd k x).links = s.links ∧
    (s.setSpd k x).lane0 = s.lane0 ∧ (s.setSpd k x).neds = s.neds ∧ (s.setSpd k x).meds = s.meds ∧
    (s.setSpd k x).nedTemp = s.nedTemp ∧ (s.setSpd k x).spdTemp = s.spdTemp ∧
    (s.setSpd k x).medTemp = s.medTemp ∧ (s.setSpd k x).flockUp = s.flockUp ∧
    (s.setSpd k x).flockMembers = s.flockMembers ∧ (s.setSpd k x).flockInfo = s.flockInfo ∧
    (s.setSpd k x).excludedW = s.excludedW ∧ (s.setSpd k x).folds = s.folds ∧
    (s.setSpd k x).scrubs = s.scrubs ∧ (s.setSpd k x).paused = s.paused ∧
    (s.setSpd k x).secondAt = s.secondAt ∧ (s.setSpd k x).incCtr = s.incCtr ∧
    (s.setSpd k x).channels = s.channels ∧ (s.setSpd k x).sessions = s.sessions ∧
    (s.setSpd k x).reports = s.reports ∧ (s.setSpd k x).notices = s.notices ∧ (s.setSpd k x).wsel = s.wsel ∧
    (s.setSpd k x).wstat = s.wstat ∧ (s.setSpd k x).shadow = s.shadow ∧ (s.setSpd k x).taps = s.taps ∧
    (s.setSpd k x).wire = s.wire ∧ (s.setSpd k x).pending = s.pending ∧ (∀ j, (s.setSpd k x).pad j = s.pad j) ∧
    (∀ j, (s.setSpd k x).field j = s.field j) ∧ (∀ j, (s.setSpd k x).ned j = s.ned j) ∧
    (∀ j, (s.setSpd k x).med j = s.med j) ∧ (∀ j, (s.setSpd k x).entry j = s.entry j) ∧
    (∀ j, (s.setSpd k x).cs j = s.cs j) ∧ (∀ j, (s.setSpd k x).foldOf j = s.foldOf j) ∧
    (∀ j, (s.setSpd k x).stOf j = s.stOf j) ∧ (∀ j, (s.setSpd k x).session j = s.session j) ∧
    (∀ j, (s.setSpd k x).channel j = s.channel j) ∧ (∀ j, (s.setSpd k x).shc j = s.shc j) ∧
    ∀ j l, (s.setSpd k x).link j l = s.link j l := by
  (repeat' apply And.intro) <;> intros <;> rfl

@[simp] theorem State.modSpd_fields (s : State) (k : Nat) (f : Spd → Spd) :
    (s.modSpd k f).now = s.now ∧ (s.modSpd k f).freeCtr = s.freeCtr ∧ (s.modSpd k f).resetN = s.resetN ∧
    (s.modSpd k f).pwrFail = s.pwrFail ∧ (s.modSpd k f).pwrFailAt = s.pwrFailAt ∧
    (s.modSpd k f).frozen = s.frozen ∧ (s.modSpd k f).faultN = s.faultN ∧ (s.modSpd k f).alertN = s.alertN ∧
    (s.modSpd k f).alertCause = s.alertCause ∧ (s.modSpd k f).ready = s.ready ∧
    (s.modSpd k f).readyAt = s.readyAt ∧ (s.modSpd k f).vstby = s.vstby ∧ (s.modSpd k f).fuses = s.fuses ∧
    (s.modSpd k f).flash = s.flash ∧ (s.modSpd k f).writing = s.writing ∧ (s.modSpd k f).place = s.place ∧
    (s.modSpd k f).net = s.net ∧ (s.modSpd k f).boot = s.boot ∧ (s.modSpd k f).sel = s.sel ∧
    (s.modSpd k f).quiet = s.quiet ∧ (s.modSpd k f).active = s.active ∧ (s.modSpd k f).shcA = s.shcA ∧
    (s.modSpd k f).shcB = s.shcB ∧ (s.modSpd k f).mirrorSeq = s.mirrorSeq ∧
    (s.modSpd k f).mirrorProbe = s.mirrorProbe ∧ (s.modSpd k f).scratch = s.scratch ∧
    (s.modSpd k f).sess = s.sess ∧ (s.modSpd k f).con0 = s.con0 ∧ (s.modSpd k f).con1 = s.con1 ∧
    (s.modSpd k f).waits = s.waits ∧ (s.modSpd k f).garp = s.garp ∧ (s.modSpd k f).stages = s.stages ∧
    (s.modSpd k f).nextStage = s.nextStage ∧ (s.modSpd k f).retained = s.retained ∧
    (s.modSpd k f).fwUpdate = s.fwUpdate ∧ (s.modSpd k f).bellSeq = s.bellSeq ∧
    (s.modSpd k f).bells = s.bells ∧ (s.modSpd k f).ledgerSeq = s.ledgerSeq ∧
    (s.modSpd k f).ledgerHeld = s.ledgerHeld ∧ (s.modSpd k f).ledgerStopped = s.ledgerStopped ∧
    (s.modSpd k f).ptpPort = s.ptpPort ∧ (s.modSpd k f).ptpHeard = s.ptpHeard ∧
    (s.modSpd k f).tallies = s.tallies ∧ (s.modSpd k f).busA = s.busA ∧ (s.modSpd k f).busB = s.busB ∧
    (s.modSpd k f).shared = s.shared ∧ (s.modSpd k f).telem = s.telem ∧ (s.modSpd k f).unreach = s.unreach ∧
    (s.modSpd k f).refAbsent = s.refAbsent ∧ (s.modSpd k f).refSince = s.refSince ∧
    (s.modSpd k f).meshLocked = s.meshLocked ∧ (s.modSpd k f).inlet = s.inlet ∧
    (s.modSpd k f).outlet = s.outlet ∧ (s.modSpd k f).loopSince = s.loopSince ∧ (s.modSpd k f).wave = s.wave ∧
    (s.modSpd k f).lastWave = s.lastWave ∧ (s.modSpd k f).map = s.map ∧ (s.modSpd k f).mapSeq = s.mapSeq ∧
    (s.modSpd k f).pads = s.pads ∧ (s.modSpd k f).fields = s.fields ∧ (s.modSpd k f).links = s.links ∧
    (s.modSpd k f).lane0 = s.lane0 ∧ (s.modSpd k f).neds = s.neds ∧ (s.modSpd k f).meds = s.meds ∧
    (s.modSpd k f).nedTemp = s.nedTemp ∧ (s.modSpd k f).spdTemp = s.spdTemp ∧
    (s.modSpd k f).medTemp = s.medTemp ∧ (s.modSpd k f).flockUp = s.flockUp ∧
    (s.modSpd k f).flockMembers = s.flockMembers ∧ (s.modSpd k f).flockInfo = s.flockInfo ∧
    (s.modSpd k f).excludedW = s.excludedW ∧ (s.modSpd k f).folds = s.folds ∧
    (s.modSpd k f).scrubs = s.scrubs ∧ (s.modSpd k f).paused = s.paused ∧
    (s.modSpd k f).secondAt = s.secondAt ∧ (s.modSpd k f).incCtr = s.incCtr ∧
    (s.modSpd k f).channels = s.channels ∧ (s.modSpd k f).sessions = s.sessions ∧
    (s.modSpd k f).reports = s.reports ∧ (s.modSpd k f).notices = s.notices ∧ (s.modSpd k f).wsel = s.wsel ∧
    (s.modSpd k f).wstat = s.wstat ∧ (s.modSpd k f).shadow = s.shadow ∧ (s.modSpd k f).taps = s.taps ∧
    (s.modSpd k f).wire = s.wire ∧ (s.modSpd k f).pending = s.pending ∧ (∀ j, (s.modSpd k f).pad j = s.pad j) ∧
    (∀ j, (s.modSpd k f).field j = s.field j) ∧ (∀ j, (s.modSpd k f).ned j = s.ned j) ∧
    (∀ j, (s.modSpd k f).med j = s.med j) ∧ (∀ j, (s.modSpd k f).entry j = s.entry j) ∧
    (∀ j, (s.modSpd k f).cs j = s.cs j) ∧ (∀ j, (s.modSpd k f).foldOf j = s.foldOf j) ∧
    (∀ j, (s.modSpd k f).stOf j = s.stOf j) ∧ (∀ j, (s.modSpd k f).session j = s.session j) ∧
    (∀ j, (s.modSpd k f).channel j = s.channel j) ∧ (∀ j, (s.modSpd k f).shc j = s.shc j) ∧
    ∀ j l, (s.modSpd k f).link j l = s.link j l := by
  (repeat' apply And.intro) <;> intros <;> rfl

@[simp] theorem State.setLink_fields (s : State) (x lane : Nat) (l : LinkEnd) :
    (s.setLink x lane l).now = s.now ∧ (s.setLink x lane l).freeCtr = s.freeCtr ∧
    (s.setLink x lane l).resetN = s.resetN ∧ (s.setLink x lane l).pwrFail = s.pwrFail ∧
    (s.setLink x lane l).pwrFailAt = s.pwrFailAt ∧ (s.setLink x lane l).frozen = s.frozen ∧
    (s.setLink x lane l).faultN = s.faultN ∧ (s.setLink x lane l).alertN = s.alertN ∧
    (s.setLink x lane l).alertCause = s.alertCause ∧ (s.setLink x lane l).ready = s.ready ∧
    (s.setLink x lane l).readyAt = s.readyAt ∧ (s.setLink x lane l).vstby = s.vstby ∧
    (s.setLink x lane l).fuses = s.fuses ∧ (s.setLink x lane l).flash = s.flash ∧
    (s.setLink x lane l).writing = s.writing ∧ (s.setLink x lane l).place = s.place ∧
    (s.setLink x lane l).net = s.net ∧ (s.setLink x lane l).boot = s.boot ∧ (s.setLink x lane l).sel = s.sel ∧
    (s.setLink x lane l).quiet = s.quiet ∧ (s.setLink x lane l).active = s.active ∧
    (s.setLink x lane l).shcA = s.shcA ∧ (s.setLink x lane l).shcB = s.shcB ∧
    (s.setLink x lane l).mirrorSeq = s.mirrorSeq ∧ (s.setLink x lane l).mirrorProbe = s.mirrorProbe ∧
    (s.setLink x lane l).scratch = s.scratch ∧ (s.setLink x lane l).sess = s.sess ∧
    (s.setLink x lane l).con0 = s.con0 ∧ (s.setLink x lane l).con1 = s.con1 ∧
    (s.setLink x lane l).waits = s.waits ∧ (s.setLink x lane l).garp = s.garp ∧
    (s.setLink x lane l).stages = s.stages ∧ (s.setLink x lane l).nextStage = s.nextStage ∧
    (s.setLink x lane l).retained = s.retained ∧ (s.setLink x lane l).fwUpdate = s.fwUpdate ∧
    (s.setLink x lane l).bellSeq = s.bellSeq ∧ (s.setLink x lane l).bells = s.bells ∧
    (s.setLink x lane l).ledgerSeq = s.ledgerSeq ∧ (s.setLink x lane l).ledgerHeld = s.ledgerHeld ∧
    (s.setLink x lane l).ledgerStopped = s.ledgerStopped ∧ (s.setLink x lane l).ptpPort = s.ptpPort ∧
    (s.setLink x lane l).ptpHeard = s.ptpHeard ∧ (s.setLink x lane l).tallies = s.tallies ∧
    (s.setLink x lane l).busA = s.busA ∧ (s.setLink x lane l).busB = s.busB ∧
    (s.setLink x lane l).shared = s.shared ∧ (s.setLink x lane l).telem = s.telem ∧
    (s.setLink x lane l).unreach = s.unreach ∧ (s.setLink x lane l).refAbsent = s.refAbsent ∧
    (s.setLink x lane l).refSince = s.refSince ∧ (s.setLink x lane l).meshLocked = s.meshLocked ∧
    (s.setLink x lane l).inlet = s.inlet ∧ (s.setLink x lane l).outlet = s.outlet ∧
    (s.setLink x lane l).loopSince = s.loopSince ∧ (s.setLink x lane l).wave = s.wave ∧
    (s.setLink x lane l).lastWave = s.lastWave ∧ (s.setLink x lane l).map = s.map ∧
    (s.setLink x lane l).mapSeq = s.mapSeq ∧ (s.setLink x lane l).pads = s.pads ∧
    (s.setLink x lane l).fields = s.fields ∧ (s.setLink x lane l).lane0 = s.lane0 ∧
    (s.setLink x lane l).neds = s.neds ∧ (s.setLink x lane l).meds = s.meds ∧
    (s.setLink x lane l).spds = s.spds ∧ (s.setLink x lane l).nedTemp = s.nedTemp ∧
    (s.setLink x lane l).spdTemp = s.spdTemp ∧ (s.setLink x lane l).medTemp = s.medTemp ∧
    (s.setLink x lane l).flockUp = s.flockUp ∧ (s.setLink x lane l).flockMembers = s.flockMembers ∧
    (s.setLink x lane l).flockInfo = s.flockInfo ∧ (s.setLink x lane l).excludedW = s.excludedW ∧
    (s.setLink x lane l).folds = s.folds ∧ (s.setLink x lane l).scrubs = s.scrubs ∧
    (s.setLink x lane l).paused = s.paused ∧ (s.setLink x lane l).secondAt = s.secondAt ∧
    (s.setLink x lane l).incCtr = s.incCtr ∧ (s.setLink x lane l).channels = s.channels ∧
    (s.setLink x lane l).sessions = s.sessions ∧ (s.setLink x lane l).reports = s.reports ∧
    (s.setLink x lane l).notices = s.notices ∧ (s.setLink x lane l).wsel = s.wsel ∧
    (s.setLink x lane l).wstat = s.wstat ∧ (s.setLink x lane l).shadow = s.shadow ∧
    (s.setLink x lane l).taps = s.taps ∧ (s.setLink x lane l).wire = s.wire ∧
    (s.setLink x lane l).pending = s.pending ∧ (∀ j, (s.setLink x lane l).pad j = s.pad j) ∧
    (∀ j, (s.setLink x lane l).field j = s.field j) ∧ (∀ j, (s.setLink x lane l).ned j = s.ned j) ∧
    (∀ j, (s.setLink x lane l).med j = s.med j) ∧ (∀ j, (s.setLink x lane l).spd j = s.spd j) ∧
    (∀ j, (s.setLink x lane l).entry j = s.entry j) ∧ (∀ j, (s.setLink x lane l).cs j = s.cs j) ∧
    (∀ j, (s.setLink x lane l).foldOf j = s.foldOf j) ∧ (∀ j, (s.setLink x lane l).stOf j = s.stOf j) ∧
    (∀ j, (s.setLink x lane l).session j = s.session j) ∧ (∀ j, (s.setLink x lane l).channel j = s.channel j) ∧
    (∀ j, (s.setLink x lane l).shc j = s.shc j) := by
  (repeat' apply And.intro) <;> intros <;> rfl

@[simp] theorem State.modLink_fields (s : State) (x lane : Nat) (f : LinkEnd → LinkEnd) :
    (s.modLink x lane f).now = s.now ∧ (s.modLink x lane f).freeCtr = s.freeCtr ∧
    (s.modLink x lane f).resetN = s.resetN ∧ (s.modLink x lane f).pwrFail = s.pwrFail ∧
    (s.modLink x lane f).pwrFailAt = s.pwrFailAt ∧ (s.modLink x lane f).frozen = s.frozen ∧
    (s.modLink x lane f).faultN = s.faultN ∧ (s.modLink x lane f).alertN = s.alertN ∧
    (s.modLink x lane f).alertCause = s.alertCause ∧ (s.modLink x lane f).ready = s.ready ∧
    (s.modLink x lane f).readyAt = s.readyAt ∧ (s.modLink x lane f).vstby = s.vstby ∧
    (s.modLink x lane f).fuses = s.fuses ∧ (s.modLink x lane f).flash = s.flash ∧
    (s.modLink x lane f).writing = s.writing ∧ (s.modLink x lane f).place = s.place ∧
    (s.modLink x lane f).net = s.net ∧ (s.modLink x lane f).boot = s.boot ∧ (s.modLink x lane f).sel = s.sel ∧
    (s.modLink x lane f).quiet = s.quiet ∧ (s.modLink x lane f).active = s.active ∧
    (s.modLink x lane f).shcA = s.shcA ∧ (s.modLink x lane f).shcB = s.shcB ∧
    (s.modLink x lane f).mirrorSeq = s.mirrorSeq ∧ (s.modLink x lane f).mirrorProbe = s.mirrorProbe ∧
    (s.modLink x lane f).scratch = s.scratch ∧ (s.modLink x lane f).sess = s.sess ∧
    (s.modLink x lane f).con0 = s.con0 ∧ (s.modLink x lane f).con1 = s.con1 ∧
    (s.modLink x lane f).waits = s.waits ∧ (s.modLink x lane f).garp = s.garp ∧
    (s.modLink x lane f).stages = s.stages ∧ (s.modLink x lane f).nextStage = s.nextStage ∧
    (s.modLink x lane f).retained = s.retained ∧ (s.modLink x lane f).fwUpdate = s.fwUpdate ∧
    (s.modLink x lane f).bellSeq = s.bellSeq ∧ (s.modLink x lane f).bells = s.bells ∧
    (s.modLink x lane f).ledgerSeq = s.ledgerSeq ∧ (s.modLink x lane f).ledgerHeld = s.ledgerHeld ∧
    (s.modLink x lane f).ledgerStopped = s.ledgerStopped ∧ (s.modLink x lane f).ptpPort = s.ptpPort ∧
    (s.modLink x lane f).ptpHeard = s.ptpHeard ∧ (s.modLink x lane f).tallies = s.tallies ∧
    (s.modLink x lane f).busA = s.busA ∧ (s.modLink x lane f).busB = s.busB ∧
    (s.modLink x lane f).shared = s.shared ∧ (s.modLink x lane f).telem = s.telem ∧
    (s.modLink x lane f).unreach = s.unreach ∧ (s.modLink x lane f).refAbsent = s.refAbsent ∧
    (s.modLink x lane f).refSince = s.refSince ∧ (s.modLink x lane f).meshLocked = s.meshLocked ∧
    (s.modLink x lane f).inlet = s.inlet ∧ (s.modLink x lane f).outlet = s.outlet ∧
    (s.modLink x lane f).loopSince = s.loopSince ∧ (s.modLink x lane f).wave = s.wave ∧
    (s.modLink x lane f).lastWave = s.lastWave ∧ (s.modLink x lane f).map = s.map ∧
    (s.modLink x lane f).mapSeq = s.mapSeq ∧ (s.modLink x lane f).pads = s.pads ∧
    (s.modLink x lane f).fields = s.fields ∧ (s.modLink x lane f).lane0 = s.lane0 ∧
    (s.modLink x lane f).neds = s.neds ∧ (s.modLink x lane f).meds = s.meds ∧
    (s.modLink x lane f).spds = s.spds ∧ (s.modLink x lane f).nedTemp = s.nedTemp ∧
    (s.modLink x lane f).spdTemp = s.spdTemp ∧ (s.modLink x lane f).medTemp = s.medTemp ∧
    (s.modLink x lane f).flockUp = s.flockUp ∧ (s.modLink x lane f).flockMembers = s.flockMembers ∧
    (s.modLink x lane f).flockInfo = s.flockInfo ∧ (s.modLink x lane f).excludedW = s.excludedW ∧
    (s.modLink x lane f).folds = s.folds ∧ (s.modLink x lane f).scrubs = s.scrubs ∧
    (s.modLink x lane f).paused = s.paused ∧ (s.modLink x lane f).secondAt = s.secondAt ∧
    (s.modLink x lane f).incCtr = s.incCtr ∧ (s.modLink x lane f).channels = s.channels ∧
    (s.modLink x lane f).sessions = s.sessions ∧ (s.modLink x lane f).reports = s.reports ∧
    (s.modLink x lane f).notices = s.notices ∧ (s.modLink x lane f).wsel = s.wsel ∧
    (s.modLink x lane f).wstat = s.wstat ∧ (s.modLink x lane f).shadow = s.shadow ∧
    (s.modLink x lane f).taps = s.taps ∧ (s.modLink x lane f).wire = s.wire ∧
    (s.modLink x lane f).pending = s.pending ∧ (∀ j, (s.modLink x lane f).pad j = s.pad j) ∧
    (∀ j, (s.modLink x lane f).field j = s.field j) ∧ (∀ j, (s.modLink x lane f).ned j = s.ned j) ∧
    (∀ j, (s.modLink x lane f).med j = s.med j) ∧ (∀ j, (s.modLink x lane f).spd j = s.spd j) ∧
    (∀ j, (s.modLink x lane f).entry j = s.entry j) ∧ (∀ j, (s.modLink x lane f).cs j = s.cs j) ∧
    (∀ j, (s.modLink x lane f).foldOf j = s.foldOf j) ∧ (∀ j, (s.modLink x lane f).stOf j = s.stOf j) ∧
    (∀ j, (s.modLink x lane f).session j = s.session j) ∧ (∀ j, (s.modLink x lane f).channel j = s.channel j) ∧
    (∀ j, (s.modLink x lane f).shc j = s.shc j) := by
  (repeat' apply And.intro) <;> intros <;> rfl

@[simp] theorem State.setEntry_fields (s : State) (n : Nat) (e : MapEntry) :
    (s.setEntry n e).now = s.now ∧ (s.setEntry n e).freeCtr = s.freeCtr ∧ (s.setEntry n e).resetN = s.resetN ∧
    (s.setEntry n e).pwrFail = s.pwrFail ∧ (s.setEntry n e).pwrFailAt = s.pwrFailAt ∧
    (s.setEntry n e).frozen = s.frozen ∧ (s.setEntry n e).faultN = s.faultN ∧
    (s.setEntry n e).alertN = s.alertN ∧ (s.setEntry n e).alertCause = s.alertCause ∧
    (s.setEntry n e).ready = s.ready ∧ (s.setEntry n e).readyAt = s.readyAt ∧
    (s.setEntry n e).vstby = s.vstby ∧ (s.setEntry n e).fuses = s.fuses ∧ (s.setEntry n e).flash = s.flash ∧
    (s.setEntry n e).writing = s.writing ∧ (s.setEntry n e).place = s.place ∧ (s.setEntry n e).net = s.net ∧
    (s.setEntry n e).boot = s.boot ∧ (s.setEntry n e).sel = s.sel ∧ (s.setEntry n e).quiet = s.quiet ∧
    (s.setEntry n e).active = s.active ∧ (s.setEntry n e).shcA = s.shcA ∧ (s.setEntry n e).shcB = s.shcB ∧
    (s.setEntry n e).mirrorSeq = s.mirrorSeq ∧ (s.setEntry n e).mirrorProbe = s.mirrorProbe ∧
    (s.setEntry n e).scratch = s.scratch ∧ (s.setEntry n e).sess = s.sess ∧ (s.setEntry n e).con0 = s.con0 ∧
    (s.setEntry n e).con1 = s.con1 ∧ (s.setEntry n e).waits = s.waits ∧ (s.setEntry n e).garp = s.garp ∧
    (s.setEntry n e).stages = s.stages ∧ (s.setEntry n e).nextStage = s.nextStage ∧
    (s.setEntry n e).retained = s.retained ∧ (s.setEntry n e).fwUpdate = s.fwUpdate ∧
    (s.setEntry n e).bellSeq = s.bellSeq ∧ (s.setEntry n e).bells = s.bells ∧
    (s.setEntry n e).ledgerSeq = s.ledgerSeq ∧ (s.setEntry n e).ledgerHeld = s.ledgerHeld ∧
    (s.setEntry n e).ledgerStopped = s.ledgerStopped ∧ (s.setEntry n e).ptpPort = s.ptpPort ∧
    (s.setEntry n e).ptpHeard = s.ptpHeard ∧ (s.setEntry n e).tallies = s.tallies ∧
    (s.setEntry n e).busA = s.busA ∧ (s.setEntry n e).busB = s.busB ∧ (s.setEntry n e).shared = s.shared ∧
    (s.setEntry n e).telem = s.telem ∧ (s.setEntry n e).unreach = s.unreach ∧
    (s.setEntry n e).refAbsent = s.refAbsent ∧ (s.setEntry n e).refSince = s.refSince ∧
    (s.setEntry n e).meshLocked = s.meshLocked ∧ (s.setEntry n e).inlet = s.inlet ∧
    (s.setEntry n e).outlet = s.outlet ∧ (s.setEntry n e).loopSince = s.loopSince ∧
    (s.setEntry n e).wave = s.wave ∧ (s.setEntry n e).lastWave = s.lastWave ∧
    (s.setEntry n e).mapSeq = s.mapSeq ∧ (s.setEntry n e).pads = s.pads ∧ (s.setEntry n e).fields = s.fields ∧
    (s.setEntry n e).links = s.links ∧ (s.setEntry n e).lane0 = s.lane0 ∧ (s.setEntry n e).neds = s.neds ∧
    (s.setEntry n e).meds = s.meds ∧ (s.setEntry n e).spds = s.spds ∧ (s.setEntry n e).nedTemp = s.nedTemp ∧
    (s.setEntry n e).spdTemp = s.spdTemp ∧ (s.setEntry n e).medTemp = s.medTemp ∧
    (s.setEntry n e).flockUp = s.flockUp ∧ (s.setEntry n e).flockMembers = s.flockMembers ∧
    (s.setEntry n e).flockInfo = s.flockInfo ∧ (s.setEntry n e).excludedW = s.excludedW ∧
    (s.setEntry n e).folds = s.folds ∧ (s.setEntry n e).scrubs = s.scrubs ∧
    (s.setEntry n e).paused = s.paused ∧ (s.setEntry n e).secondAt = s.secondAt ∧
    (s.setEntry n e).incCtr = s.incCtr ∧ (s.setEntry n e).channels = s.channels ∧
    (s.setEntry n e).sessions = s.sessions ∧ (s.setEntry n e).reports = s.reports ∧
    (s.setEntry n e).notices = s.notices ∧ (s.setEntry n e).wsel = s.wsel ∧ (s.setEntry n e).wstat = s.wstat ∧
    (s.setEntry n e).shadow = s.shadow ∧ (s.setEntry n e).taps = s.taps ∧ (s.setEntry n e).wire = s.wire ∧
    (s.setEntry n e).pending = s.pending ∧ (∀ j, (s.setEntry n e).pad j = s.pad j) ∧
    (∀ j, (s.setEntry n e).field j = s.field j) ∧ (∀ j, (s.setEntry n e).ned j = s.ned j) ∧
    (∀ j, (s.setEntry n e).med j = s.med j) ∧ (∀ j, (s.setEntry n e).spd j = s.spd j) ∧
    (∀ j, (s.setEntry n e).cs j = s.cs j) ∧ (∀ j, (s.setEntry n e).foldOf j = s.foldOf j) ∧
    (∀ j, (s.setEntry n e).stOf j = s.stOf j) ∧ (∀ j, (s.setEntry n e).session j = s.session j) ∧
    (∀ j, (s.setEntry n e).channel j = s.channel j) ∧ (∀ j, (s.setEntry n e).shc j = s.shc j) ∧
    ∀ j l, (s.setEntry n e).link j l = s.link j l := by
  (repeat' apply And.intro) <;> intros <;> rfl

@[simp] theorem State.putFold_fields (s : State) (f : Fold) :
    (s.putFold f).now = s.now ∧ (s.putFold f).freeCtr = s.freeCtr ∧ (s.putFold f).resetN = s.resetN ∧
    (s.putFold f).pwrFail = s.pwrFail ∧ (s.putFold f).pwrFailAt = s.pwrFailAt ∧
    (s.putFold f).frozen = s.frozen ∧ (s.putFold f).faultN = s.faultN ∧ (s.putFold f).alertN = s.alertN ∧
    (s.putFold f).alertCause = s.alertCause ∧ (s.putFold f).ready = s.ready ∧
    (s.putFold f).readyAt = s.readyAt ∧ (s.putFold f).vstby = s.vstby ∧ (s.putFold f).fuses = s.fuses ∧
    (s.putFold f).flash = s.flash ∧ (s.putFold f).writing = s.writing ∧ (s.putFold f).place = s.place ∧
    (s.putFold f).net = s.net ∧ (s.putFold f).boot = s.boot ∧ (s.putFold f).sel = s.sel ∧
    (s.putFold f).quiet = s.quiet ∧ (s.putFold f).active = s.active ∧ (s.putFold f).shcA = s.shcA ∧
    (s.putFold f).shcB = s.shcB ∧ (s.putFold f).mirrorSeq = s.mirrorSeq ∧
    (s.putFold f).mirrorProbe = s.mirrorProbe ∧ (s.putFold f).scratch = s.scratch ∧
    (s.putFold f).sess = s.sess ∧ (s.putFold f).con0 = s.con0 ∧ (s.putFold f).con1 = s.con1 ∧
    (s.putFold f).waits = s.waits ∧ (s.putFold f).garp = s.garp ∧ (s.putFold f).stages = s.stages ∧
    (s.putFold f).nextStage = s.nextStage ∧ (s.putFold f).retained = s.retained ∧
    (s.putFold f).fwUpdate = s.fwUpdate ∧ (s.putFold f).bellSeq = s.bellSeq ∧ (s.putFold f).bells = s.bells ∧
    (s.putFold f).ledgerSeq = s.ledgerSeq ∧ (s.putFold f).ledgerHeld = s.ledgerHeld ∧
    (s.putFold f).ledgerStopped = s.ledgerStopped ∧ (s.putFold f).ptpPort = s.ptpPort ∧
    (s.putFold f).ptpHeard = s.ptpHeard ∧ (s.putFold f).tallies = s.tallies ∧ (s.putFold f).busA = s.busA ∧
    (s.putFold f).busB = s.busB ∧ (s.putFold f).shared = s.shared ∧ (s.putFold f).telem = s.telem ∧
    (s.putFold f).unreach = s.unreach ∧ (s.putFold f).refAbsent = s.refAbsent ∧
    (s.putFold f).refSince = s.refSince ∧ (s.putFold f).meshLocked = s.meshLocked ∧
    (s.putFold f).inlet = s.inlet ∧ (s.putFold f).outlet = s.outlet ∧ (s.putFold f).loopSince = s.loopSince ∧
    (s.putFold f).wave = s.wave ∧ (s.putFold f).lastWave = s.lastWave ∧ (s.putFold f).map = s.map ∧
    (s.putFold f).mapSeq = s.mapSeq ∧ (s.putFold f).pads = s.pads ∧ (s.putFold f).fields = s.fields ∧
    (s.putFold f).links = s.links ∧ (s.putFold f).lane0 = s.lane0 ∧ (s.putFold f).neds = s.neds ∧
    (s.putFold f).meds = s.meds ∧ (s.putFold f).spds = s.spds ∧ (s.putFold f).nedTemp = s.nedTemp ∧
    (s.putFold f).spdTemp = s.spdTemp ∧ (s.putFold f).medTemp = s.medTemp ∧ (s.putFold f).flockUp = s.flockUp ∧
    (s.putFold f).flockMembers = s.flockMembers ∧ (s.putFold f).flockInfo = s.flockInfo ∧
    (s.putFold f).excludedW = s.excludedW ∧ (s.putFold f).scrubs = s.scrubs ∧ (s.putFold f).paused = s.paused ∧
    (s.putFold f).secondAt = s.secondAt ∧ (s.putFold f).incCtr = s.incCtr ∧
    (s.putFold f).channels = s.channels ∧ (s.putFold f).sessions = s.sessions ∧
    (s.putFold f).reports = s.reports ∧ (s.putFold f).notices = s.notices ∧ (s.putFold f).wsel = s.wsel ∧
    (s.putFold f).wstat = s.wstat ∧ (s.putFold f).shadow = s.shadow ∧ (s.putFold f).taps = s.taps ∧
    (s.putFold f).wire = s.wire ∧ (s.putFold f).pending = s.pending ∧ (∀ j, (s.putFold f).pad j = s.pad j) ∧
    (∀ j, (s.putFold f).field j = s.field j) ∧ (∀ j, (s.putFold f).ned j = s.ned j) ∧
    (∀ j, (s.putFold f).med j = s.med j) ∧ (∀ j, (s.putFold f).spd j = s.spd j) ∧
    (∀ j, (s.putFold f).entry j = s.entry j) ∧ (∀ j, (s.putFold f).cs j = s.cs j) ∧
    (∀ j, (s.putFold f).session j = s.session j) ∧ (∀ j, (s.putFold f).channel j = s.channel j) ∧
    (∀ j, (s.putFold f).shc j = s.shc j) ∧ ∀ j l, (s.putFold f).link j l = s.link j l := by
  (repeat' apply And.intro) <;> intros <;> rfl

@[simp] theorem State.modFold_fields (s : State) (id : Nat) (g : Fold → Fold) :
    (s.modFold id g).now = s.now ∧ (s.modFold id g).freeCtr = s.freeCtr ∧ (s.modFold id g).resetN = s.resetN ∧
    (s.modFold id g).pwrFail = s.pwrFail ∧ (s.modFold id g).pwrFailAt = s.pwrFailAt ∧
    (s.modFold id g).frozen = s.frozen ∧ (s.modFold id g).faultN = s.faultN ∧
    (s.modFold id g).alertN = s.alertN ∧ (s.modFold id g).alertCause = s.alertCause ∧
    (s.modFold id g).ready = s.ready ∧ (s.modFold id g).readyAt = s.readyAt ∧
    (s.modFold id g).vstby = s.vstby ∧ (s.modFold id g).fuses = s.fuses ∧ (s.modFold id g).flash = s.flash ∧
    (s.modFold id g).writing = s.writing ∧ (s.modFold id g).place = s.place ∧ (s.modFold id g).net = s.net ∧
    (s.modFold id g).boot = s.boot ∧ (s.modFold id g).sel = s.sel ∧ (s.modFold id g).quiet = s.quiet ∧
    (s.modFold id g).active = s.active ∧ (s.modFold id g).shcA = s.shcA ∧ (s.modFold id g).shcB = s.shcB ∧
    (s.modFold id g).mirrorSeq = s.mirrorSeq ∧ (s.modFold id g).mirrorProbe = s.mirrorProbe ∧
    (s.modFold id g).scratch = s.scratch ∧ (s.modFold id g).sess = s.sess ∧ (s.modFold id g).con0 = s.con0 ∧
    (s.modFold id g).con1 = s.con1 ∧ (s.modFold id g).waits = s.waits ∧ (s.modFold id g).garp = s.garp ∧
    (s.modFold id g).stages = s.stages ∧ (s.modFold id g).nextStage = s.nextStage ∧
    (s.modFold id g).retained = s.retained ∧ (s.modFold id g).fwUpdate = s.fwUpdate ∧
    (s.modFold id g).bellSeq = s.bellSeq ∧ (s.modFold id g).bells = s.bells ∧
    (s.modFold id g).ledgerSeq = s.ledgerSeq ∧ (s.modFold id g).ledgerHeld = s.ledgerHeld ∧
    (s.modFold id g).ledgerStopped = s.ledgerStopped ∧ (s.modFold id g).ptpPort = s.ptpPort ∧
    (s.modFold id g).ptpHeard = s.ptpHeard ∧ (s.modFold id g).tallies = s.tallies ∧
    (s.modFold id g).busA = s.busA ∧ (s.modFold id g).busB = s.busB ∧ (s.modFold id g).shared = s.shared ∧
    (s.modFold id g).telem = s.telem ∧ (s.modFold id g).unreach = s.unreach ∧
    (s.modFold id g).refAbsent = s.refAbsent ∧ (s.modFold id g).refSince = s.refSince ∧
    (s.modFold id g).meshLocked = s.meshLocked ∧ (s.modFold id g).inlet = s.inlet ∧
    (s.modFold id g).outlet = s.outlet ∧ (s.modFold id g).loopSince = s.loopSince ∧
    (s.modFold id g).wave = s.wave ∧ (s.modFold id g).lastWave = s.lastWave ∧ (s.modFold id g).map = s.map ∧
    (s.modFold id g).mapSeq = s.mapSeq ∧ (s.modFold id g).pads = s.pads ∧ (s.modFold id g).fields = s.fields ∧
    (s.modFold id g).links = s.links ∧ (s.modFold id g).lane0 = s.lane0 ∧ (s.modFold id g).neds = s.neds ∧
    (s.modFold id g).meds = s.meds ∧ (s.modFold id g).spds = s.spds ∧ (s.modFold id g).nedTemp = s.nedTemp ∧
    (s.modFold id g).spdTemp = s.spdTemp ∧ (s.modFold id g).medTemp = s.medTemp ∧
    (s.modFold id g).flockUp = s.flockUp ∧ (s.modFold id g).flockMembers = s.flockMembers ∧
    (s.modFold id g).flockInfo = s.flockInfo ∧ (s.modFold id g).excludedW = s.excludedW ∧
    (s.modFold id g).scrubs = s.scrubs ∧ (s.modFold id g).paused = s.paused ∧
    (s.modFold id g).secondAt = s.secondAt ∧ (s.modFold id g).incCtr = s.incCtr ∧
    (s.modFold id g).channels = s.channels ∧ (s.modFold id g).sessions = s.sessions ∧
    (s.modFold id g).reports = s.reports ∧ (s.modFold id g).notices = s.notices ∧
    (s.modFold id g).wsel = s.wsel ∧ (s.modFold id g).wstat = s.wstat ∧ (s.modFold id g).shadow = s.shadow ∧
    (s.modFold id g).taps = s.taps ∧ (s.modFold id g).wire = s.wire ∧ (s.modFold id g).pending = s.pending ∧
    (∀ j, (s.modFold id g).pad j = s.pad j) ∧ (∀ j, (s.modFold id g).field j = s.field j) ∧
    (∀ j, (s.modFold id g).ned j = s.ned j) ∧ (∀ j, (s.modFold id g).med j = s.med j) ∧
    (∀ j, (s.modFold id g).spd j = s.spd j) ∧ (∀ j, (s.modFold id g).entry j = s.entry j) ∧
    (∀ j, (s.modFold id g).cs j = s.cs j) ∧ (∀ j, (s.modFold id g).session j = s.session j) ∧
    (∀ j, (s.modFold id g).channel j = s.channel j) ∧ (∀ j, (s.modFold id g).shc j = s.shc j) ∧
    ∀ j l, (s.modFold id g).link j l = s.link j l := by
  (repeat' apply And.intro) <;> intros <;> rfl

@[simp] theorem State.setCs_fields (s : State) (i : Nat) (c : CSess) :
    (s.setCs i c).now = s.now ∧ (s.setCs i c).freeCtr = s.freeCtr ∧ (s.setCs i c).resetN = s.resetN ∧
    (s.setCs i c).pwrFail = s.pwrFail ∧ (s.setCs i c).pwrFailAt = s.pwrFailAt ∧
    (s.setCs i c).frozen = s.frozen ∧ (s.setCs i c).faultN = s.faultN ∧ (s.setCs i c).alertN = s.alertN ∧
    (s.setCs i c).alertCause = s.alertCause ∧ (s.setCs i c).ready = s.ready ∧
    (s.setCs i c).readyAt = s.readyAt ∧ (s.setCs i c).vstby = s.vstby ∧ (s.setCs i c).fuses = s.fuses ∧
    (s.setCs i c).flash = s.flash ∧ (s.setCs i c).writing = s.writing ∧ (s.setCs i c).place = s.place ∧
    (s.setCs i c).net = s.net ∧ (s.setCs i c).boot = s.boot ∧ (s.setCs i c).sel = s.sel ∧
    (s.setCs i c).quiet = s.quiet ∧ (s.setCs i c).active = s.active ∧ (s.setCs i c).shcA = s.shcA ∧
    (s.setCs i c).shcB = s.shcB ∧ (s.setCs i c).mirrorSeq = s.mirrorSeq ∧
    (s.setCs i c).mirrorProbe = s.mirrorProbe ∧ (s.setCs i c).scratch = s.scratch ∧
    (s.setCs i c).con0 = s.con0 ∧ (s.setCs i c).con1 = s.con1 ∧ (s.setCs i c).waits = s.waits ∧
    (s.setCs i c).garp = s.garp ∧ (s.setCs i c).stages = s.stages ∧ (s.setCs i c).nextStage = s.nextStage ∧
    (s.setCs i c).retained = s.retained ∧ (s.setCs i c).fwUpdate = s.fwUpdate ∧
    (s.setCs i c).bellSeq = s.bellSeq ∧ (s.setCs i c).bells = s.bells ∧ (s.setCs i c).ledgerSeq = s.ledgerSeq ∧
    (s.setCs i c).ledgerHeld = s.ledgerHeld ∧ (s.setCs i c).ledgerStopped = s.ledgerStopped ∧
    (s.setCs i c).ptpPort = s.ptpPort ∧ (s.setCs i c).ptpHeard = s.ptpHeard ∧
    (s.setCs i c).tallies = s.tallies ∧ (s.setCs i c).busA = s.busA ∧ (s.setCs i c).busB = s.busB ∧
    (s.setCs i c).shared = s.shared ∧ (s.setCs i c).telem = s.telem ∧ (s.setCs i c).unreach = s.unreach ∧
    (s.setCs i c).refAbsent = s.refAbsent ∧ (s.setCs i c).refSince = s.refSince ∧
    (s.setCs i c).meshLocked = s.meshLocked ∧ (s.setCs i c).inlet = s.inlet ∧ (s.setCs i c).outlet = s.outlet ∧
    (s.setCs i c).loopSince = s.loopSince ∧ (s.setCs i c).wave = s.wave ∧ (s.setCs i c).lastWave = s.lastWave ∧
    (s.setCs i c).map = s.map ∧ (s.setCs i c).mapSeq = s.mapSeq ∧ (s.setCs i c).pads = s.pads ∧
    (s.setCs i c).fields = s.fields ∧ (s.setCs i c).links = s.links ∧ (s.setCs i c).lane0 = s.lane0 ∧
    (s.setCs i c).neds = s.neds ∧ (s.setCs i c).meds = s.meds ∧ (s.setCs i c).spds = s.spds ∧
    (s.setCs i c).nedTemp = s.nedTemp ∧ (s.setCs i c).spdTemp = s.spdTemp ∧ (s.setCs i c).medTemp = s.medTemp ∧
    (s.setCs i c).flockUp = s.flockUp ∧ (s.setCs i c).flockMembers = s.flockMembers ∧
    (s.setCs i c).flockInfo = s.flockInfo ∧ (s.setCs i c).excludedW = s.excludedW ∧
    (s.setCs i c).folds = s.folds ∧ (s.setCs i c).scrubs = s.scrubs ∧ (s.setCs i c).paused = s.paused ∧
    (s.setCs i c).secondAt = s.secondAt ∧ (s.setCs i c).incCtr = s.incCtr ∧
    (s.setCs i c).channels = s.channels ∧ (s.setCs i c).sessions = s.sessions ∧
    (s.setCs i c).reports = s.reports ∧ (s.setCs i c).notices = s.notices ∧ (s.setCs i c).wsel = s.wsel ∧
    (s.setCs i c).wstat = s.wstat ∧ (s.setCs i c).shadow = s.shadow ∧ (s.setCs i c).taps = s.taps ∧
    (s.setCs i c).wire = s.wire ∧ (s.setCs i c).pending = s.pending ∧ (∀ j, (s.setCs i c).pad j = s.pad j) ∧
    (∀ j, (s.setCs i c).field j = s.field j) ∧ (∀ j, (s.setCs i c).ned j = s.ned j) ∧
    (∀ j, (s.setCs i c).med j = s.med j) ∧ (∀ j, (s.setCs i c).spd j = s.spd j) ∧
    (∀ j, (s.setCs i c).entry j = s.entry j) ∧ (∀ j, (s.setCs i c).foldOf j = s.foldOf j) ∧
    (∀ j, (s.setCs i c).stOf j = s.stOf j) ∧ (∀ j, (s.setCs i c).session j = s.session j) ∧
    (∀ j, (s.setCs i c).channel j = s.channel j) ∧ (∀ j, (s.setCs i c).shc j = s.shc j) ∧
    ∀ j l, (s.setCs i c).link j l = s.link j l := by
  (repeat' apply And.intro) <;> intros <;> rfl

@[simp] theorem State.modCs_fields (s : State) (i : Nat) (f : CSess → CSess) :
    (s.modCs i f).now = s.now ∧ (s.modCs i f).freeCtr = s.freeCtr ∧ (s.modCs i f).resetN = s.resetN ∧
    (s.modCs i f).pwrFail = s.pwrFail ∧ (s.modCs i f).pwrFailAt = s.pwrFailAt ∧
    (s.modCs i f).frozen = s.frozen ∧ (s.modCs i f).faultN = s.faultN ∧ (s.modCs i f).alertN = s.alertN ∧
    (s.modCs i f).alertCause = s.alertCause ∧ (s.modCs i f).ready = s.ready ∧
    (s.modCs i f).readyAt = s.readyAt ∧ (s.modCs i f).vstby = s.vstby ∧ (s.modCs i f).fuses = s.fuses ∧
    (s.modCs i f).flash = s.flash ∧ (s.modCs i f).writing = s.writing ∧ (s.modCs i f).place = s.place ∧
    (s.modCs i f).net = s.net ∧ (s.modCs i f).boot = s.boot ∧ (s.modCs i f).sel = s.sel ∧
    (s.modCs i f).quiet = s.quiet ∧ (s.modCs i f).active = s.active ∧ (s.modCs i f).shcA = s.shcA ∧
    (s.modCs i f).shcB = s.shcB ∧ (s.modCs i f).mirrorSeq = s.mirrorSeq ∧
    (s.modCs i f).mirrorProbe = s.mirrorProbe ∧ (s.modCs i f).scratch = s.scratch ∧
    (s.modCs i f).con0 = s.con0 ∧ (s.modCs i f).con1 = s.con1 ∧ (s.modCs i f).waits = s.waits ∧
    (s.modCs i f).garp = s.garp ∧ (s.modCs i f).stages = s.stages ∧ (s.modCs i f).nextStage = s.nextStage ∧
    (s.modCs i f).retained = s.retained ∧ (s.modCs i f).fwUpdate = s.fwUpdate ∧
    (s.modCs i f).bellSeq = s.bellSeq ∧ (s.modCs i f).bells = s.bells ∧ (s.modCs i f).ledgerSeq = s.ledgerSeq ∧
    (s.modCs i f).ledgerHeld = s.ledgerHeld ∧ (s.modCs i f).ledgerStopped = s.ledgerStopped ∧
    (s.modCs i f).ptpPort = s.ptpPort ∧ (s.modCs i f).ptpHeard = s.ptpHeard ∧
    (s.modCs i f).tallies = s.tallies ∧ (s.modCs i f).busA = s.busA ∧ (s.modCs i f).busB = s.busB ∧
    (s.modCs i f).shared = s.shared ∧ (s.modCs i f).telem = s.telem ∧ (s.modCs i f).unreach = s.unreach ∧
    (s.modCs i f).refAbsent = s.refAbsent ∧ (s.modCs i f).refSince = s.refSince ∧
    (s.modCs i f).meshLocked = s.meshLocked ∧ (s.modCs i f).inlet = s.inlet ∧ (s.modCs i f).outlet = s.outlet ∧
    (s.modCs i f).loopSince = s.loopSince ∧ (s.modCs i f).wave = s.wave ∧ (s.modCs i f).lastWave = s.lastWave ∧
    (s.modCs i f).map = s.map ∧ (s.modCs i f).mapSeq = s.mapSeq ∧ (s.modCs i f).pads = s.pads ∧
    (s.modCs i f).fields = s.fields ∧ (s.modCs i f).links = s.links ∧ (s.modCs i f).lane0 = s.lane0 ∧
    (s.modCs i f).neds = s.neds ∧ (s.modCs i f).meds = s.meds ∧ (s.modCs i f).spds = s.spds ∧
    (s.modCs i f).nedTemp = s.nedTemp ∧ (s.modCs i f).spdTemp = s.spdTemp ∧ (s.modCs i f).medTemp = s.medTemp ∧
    (s.modCs i f).flockUp = s.flockUp ∧ (s.modCs i f).flockMembers = s.flockMembers ∧
    (s.modCs i f).flockInfo = s.flockInfo ∧ (s.modCs i f).excludedW = s.excludedW ∧
    (s.modCs i f).folds = s.folds ∧ (s.modCs i f).scrubs = s.scrubs ∧ (s.modCs i f).paused = s.paused ∧
    (s.modCs i f).secondAt = s.secondAt ∧ (s.modCs i f).incCtr = s.incCtr ∧
    (s.modCs i f).channels = s.channels ∧ (s.modCs i f).sessions = s.sessions ∧
    (s.modCs i f).reports = s.reports ∧ (s.modCs i f).notices = s.notices ∧ (s.modCs i f).wsel = s.wsel ∧
    (s.modCs i f).wstat = s.wstat ∧ (s.modCs i f).shadow = s.shadow ∧ (s.modCs i f).taps = s.taps ∧
    (s.modCs i f).wire = s.wire ∧ (s.modCs i f).pending = s.pending ∧ (∀ j, (s.modCs i f).pad j = s.pad j) ∧
    (∀ j, (s.modCs i f).field j = s.field j) ∧ (∀ j, (s.modCs i f).ned j = s.ned j) ∧
    (∀ j, (s.modCs i f).med j = s.med j) ∧ (∀ j, (s.modCs i f).spd j = s.spd j) ∧
    (∀ j, (s.modCs i f).entry j = s.entry j) ∧ (∀ j, (s.modCs i f).foldOf j = s.foldOf j) ∧
    (∀ j, (s.modCs i f).stOf j = s.stOf j) ∧ (∀ j, (s.modCs i f).session j = s.session j) ∧
    (∀ j, (s.modCs i f).channel j = s.channel j) ∧ (∀ j, (s.modCs i f).shc j = s.shc j) ∧
    ∀ j l, (s.modCs i f).link j l = s.link j l := by
  (repeat' apply And.intro) <;> intros <;> rfl

@[simp] theorem State.say_fields (s : State) (i : Nat) (o : Out) :
    (s.say i o).now = s.now ∧ (s.say i o).freeCtr = s.freeCtr ∧ (s.say i o).resetN = s.resetN ∧
    (s.say i o).pwrFail = s.pwrFail ∧ (s.say i o).pwrFailAt = s.pwrFailAt ∧ (s.say i o).frozen = s.frozen ∧
    (s.say i o).faultN = s.faultN ∧ (s.say i o).alertN = s.alertN ∧ (s.say i o).alertCause = s.alertCause ∧
    (s.say i o).ready = s.ready ∧ (s.say i o).readyAt = s.readyAt ∧ (s.say i o).vstby = s.vstby ∧
    (s.say i o).fuses = s.fuses ∧ (s.say i o).flash = s.flash ∧ (s.say i o).writing = s.writing ∧
    (s.say i o).place = s.place ∧ (s.say i o).net = s.net ∧ (s.say i o).boot = s.boot ∧
    (s.say i o).sel = s.sel ∧ (s.say i o).quiet = s.quiet ∧ (s.say i o).active = s.active ∧
    (s.say i o).shcA = s.shcA ∧ (s.say i o).shcB = s.shcB ∧ (s.say i o).mirrorSeq = s.mirrorSeq ∧
    (s.say i o).mirrorProbe = s.mirrorProbe ∧ (s.say i o).scratch = s.scratch ∧ (s.say i o).con0 = s.con0 ∧
    (s.say i o).con1 = s.con1 ∧ (s.say i o).waits = s.waits ∧ (s.say i o).garp = s.garp ∧
    (s.say i o).stages = s.stages ∧ (s.say i o).nextStage = s.nextStage ∧ (s.say i o).retained = s.retained ∧
    (s.say i o).fwUpdate = s.fwUpdate ∧ (s.say i o).bellSeq = s.bellSeq ∧ (s.say i o).bells = s.bells ∧
    (s.say i o).ledgerSeq = s.ledgerSeq ∧ (s.say i o).ledgerHeld = s.ledgerHeld ∧
    (s.say i o).ledgerStopped = s.ledgerStopped ∧ (s.say i o).ptpPort = s.ptpPort ∧
    (s.say i o).ptpHeard = s.ptpHeard ∧ (s.say i o).tallies = s.tallies ∧ (s.say i o).busA = s.busA ∧
    (s.say i o).busB = s.busB ∧ (s.say i o).shared = s.shared ∧ (s.say i o).telem = s.telem ∧
    (s.say i o).unreach = s.unreach ∧ (s.say i o).refAbsent = s.refAbsent ∧ (s.say i o).refSince = s.refSince ∧
    (s.say i o).meshLocked = s.meshLocked ∧ (s.say i o).inlet = s.inlet ∧ (s.say i o).outlet = s.outlet ∧
    (s.say i o).loopSince = s.loopSince ∧ (s.say i o).wave = s.wave ∧ (s.say i o).lastWave = s.lastWave ∧
    (s.say i o).map = s.map ∧ (s.say i o).mapSeq = s.mapSeq ∧ (s.say i o).pads = s.pads ∧
    (s.say i o).fields = s.fields ∧ (s.say i o).links = s.links ∧ (s.say i o).lane0 = s.lane0 ∧
    (s.say i o).neds = s.neds ∧ (s.say i o).meds = s.meds ∧ (s.say i o).spds = s.spds ∧
    (s.say i o).nedTemp = s.nedTemp ∧ (s.say i o).spdTemp = s.spdTemp ∧ (s.say i o).medTemp = s.medTemp ∧
    (s.say i o).flockUp = s.flockUp ∧ (s.say i o).flockMembers = s.flockMembers ∧
    (s.say i o).flockInfo = s.flockInfo ∧ (s.say i o).excludedW = s.excludedW ∧ (s.say i o).folds = s.folds ∧
    (s.say i o).scrubs = s.scrubs ∧ (s.say i o).paused = s.paused ∧ (s.say i o).secondAt = s.secondAt ∧
    (s.say i o).incCtr = s.incCtr ∧ (s.say i o).channels = s.channels ∧ (s.say i o).sessions = s.sessions ∧
    (s.say i o).reports = s.reports ∧ (s.say i o).notices = s.notices ∧ (s.say i o).wsel = s.wsel ∧
    (s.say i o).wstat = s.wstat ∧ (s.say i o).shadow = s.shadow ∧ (s.say i o).taps = s.taps ∧
    (s.say i o).wire = s.wire ∧ (s.say i o).pending = s.pending ∧ (∀ j, (s.say i o).pad j = s.pad j) ∧
    (∀ j, (s.say i o).field j = s.field j) ∧ (∀ j, (s.say i o).ned j = s.ned j) ∧
    (∀ j, (s.say i o).med j = s.med j) ∧ (∀ j, (s.say i o).spd j = s.spd j) ∧
    (∀ j, (s.say i o).entry j = s.entry j) ∧ (∀ j, (s.say i o).foldOf j = s.foldOf j) ∧
    (∀ j, (s.say i o).stOf j = s.stOf j) ∧ (∀ j, (s.say i o).session j = s.session j) ∧
    (∀ j, (s.say i o).channel j = s.channel j) ∧ (∀ j, (s.say i o).shc j = s.shc j) ∧
    ∀ j l, (s.say i o).link j l = s.link j l := by
  unfold State.say
  split <;> ((repeat' apply And.intro) <;> intros <;> rfl)

@[simp] theorem State.prompt_fields (s : State) (i : Nat) :
    (s.prompt i).now = s.now ∧ (s.prompt i).freeCtr = s.freeCtr ∧ (s.prompt i).resetN = s.resetN ∧
    (s.prompt i).pwrFail = s.pwrFail ∧ (s.prompt i).pwrFailAt = s.pwrFailAt ∧ (s.prompt i).frozen = s.frozen ∧
    (s.prompt i).faultN = s.faultN ∧ (s.prompt i).alertN = s.alertN ∧ (s.prompt i).alertCause = s.alertCause ∧
    (s.prompt i).ready = s.ready ∧ (s.prompt i).readyAt = s.readyAt ∧ (s.prompt i).vstby = s.vstby ∧
    (s.prompt i).fuses = s.fuses ∧ (s.prompt i).flash = s.flash ∧ (s.prompt i).writing = s.writing ∧
    (s.prompt i).place = s.place ∧ (s.prompt i).net = s.net ∧ (s.prompt i).boot = s.boot ∧
    (s.prompt i).sel = s.sel ∧ (s.prompt i).quiet = s.quiet ∧ (s.prompt i).active = s.active ∧
    (s.prompt i).shcA = s.shcA ∧ (s.prompt i).shcB = s.shcB ∧ (s.prompt i).mirrorSeq = s.mirrorSeq ∧
    (s.prompt i).mirrorProbe = s.mirrorProbe ∧ (s.prompt i).scratch = s.scratch ∧ (s.prompt i).con0 = s.con0 ∧
    (s.prompt i).con1 = s.con1 ∧ (s.prompt i).waits = s.waits ∧ (s.prompt i).garp = s.garp ∧
    (s.prompt i).stages = s.stages ∧ (s.prompt i).nextStage = s.nextStage ∧
    (s.prompt i).retained = s.retained ∧ (s.prompt i).fwUpdate = s.fwUpdate ∧
    (s.prompt i).bellSeq = s.bellSeq ∧ (s.prompt i).bells = s.bells ∧ (s.prompt i).ledgerSeq = s.ledgerSeq ∧
    (s.prompt i).ledgerHeld = s.ledgerHeld ∧ (s.prompt i).ledgerStopped = s.ledgerStopped ∧
    (s.prompt i).ptpPort = s.ptpPort ∧ (s.prompt i).ptpHeard = s.ptpHeard ∧ (s.prompt i).tallies = s.tallies ∧
    (s.prompt i).busA = s.busA ∧ (s.prompt i).busB = s.busB ∧ (s.prompt i).shared = s.shared ∧
    (s.prompt i).telem = s.telem ∧ (s.prompt i).unreach = s.unreach ∧ (s.prompt i).refAbsent = s.refAbsent ∧
    (s.prompt i).refSince = s.refSince ∧ (s.prompt i).meshLocked = s.meshLocked ∧
    (s.prompt i).inlet = s.inlet ∧ (s.prompt i).outlet = s.outlet ∧ (s.prompt i).loopSince = s.loopSince ∧
    (s.prompt i).wave = s.wave ∧ (s.prompt i).lastWave = s.lastWave ∧ (s.prompt i).map = s.map ∧
    (s.prompt i).mapSeq = s.mapSeq ∧ (s.prompt i).pads = s.pads ∧ (s.prompt i).fields = s.fields ∧
    (s.prompt i).links = s.links ∧ (s.prompt i).lane0 = s.lane0 ∧ (s.prompt i).neds = s.neds ∧
    (s.prompt i).meds = s.meds ∧ (s.prompt i).spds = s.spds ∧ (s.prompt i).nedTemp = s.nedTemp ∧
    (s.prompt i).spdTemp = s.spdTemp ∧ (s.prompt i).medTemp = s.medTemp ∧ (s.prompt i).flockUp = s.flockUp ∧
    (s.prompt i).flockMembers = s.flockMembers ∧ (s.prompt i).flockInfo = s.flockInfo ∧
    (s.prompt i).excludedW = s.excludedW ∧ (s.prompt i).folds = s.folds ∧ (s.prompt i).scrubs = s.scrubs ∧
    (s.prompt i).paused = s.paused ∧ (s.prompt i).secondAt = s.secondAt ∧ (s.prompt i).incCtr = s.incCtr ∧
    (s.prompt i).channels = s.channels ∧ (s.prompt i).sessions = s.sessions ∧
    (s.prompt i).reports = s.reports ∧ (s.prompt i).notices = s.notices ∧ (s.prompt i).wsel = s.wsel ∧
    (s.prompt i).wstat = s.wstat ∧ (s.prompt i).shadow = s.shadow ∧ (s.prompt i).taps = s.taps ∧
    (s.prompt i).wire = s.wire ∧ (s.prompt i).pending = s.pending ∧ (∀ j, (s.prompt i).pad j = s.pad j) ∧
    (∀ j, (s.prompt i).field j = s.field j) ∧ (∀ j, (s.prompt i).ned j = s.ned j) ∧
    (∀ j, (s.prompt i).med j = s.med j) ∧ (∀ j, (s.prompt i).spd j = s.spd j) ∧
    (∀ j, (s.prompt i).entry j = s.entry j) ∧ (∀ j, (s.prompt i).foldOf j = s.foldOf j) ∧
    (∀ j, (s.prompt i).stOf j = s.stOf j) ∧ (∀ j, (s.prompt i).session j = s.session j) ∧
    (∀ j, (s.prompt i).channel j = s.channel j) ∧ (∀ j, (s.prompt i).shc j = s.shc j) ∧
    ∀ j l, (s.prompt i).link j l = s.link j l := by
  unfold State.prompt
  (repeat' split) <;> simp

@[simp] theorem State.final_fields (s : State) (i : Nat) (tag : Option (List Byte)) (crc : Bool) (r : RLine) :
    (s.final i tag crc r).now = s.now ∧ (s.final i tag crc r).freeCtr = s.freeCtr ∧
    (s.final i tag crc r).resetN = s.resetN ∧ (s.final i tag crc r).pwrFail = s.pwrFail ∧
    (s.final i tag crc r).pwrFailAt = s.pwrFailAt ∧ (s.final i tag crc r).frozen = s.frozen ∧
    (s.final i tag crc r).faultN = s.faultN ∧ (s.final i tag crc r).alertN = s.alertN ∧
    (s.final i tag crc r).alertCause = s.alertCause ∧ (s.final i tag crc r).ready = s.ready ∧
    (s.final i tag crc r).readyAt = s.readyAt ∧ (s.final i tag crc r).vstby = s.vstby ∧
    (s.final i tag crc r).fuses = s.fuses ∧ (s.final i tag crc r).flash = s.flash ∧
    (s.final i tag crc r).writing = s.writing ∧ (s.final i tag crc r).place = s.place ∧
    (s.final i tag crc r).net = s.net ∧ (s.final i tag crc r).boot = s.boot ∧
    (s.final i tag crc r).sel = s.sel ∧ (s.final i tag crc r).quiet = s.quiet ∧
    (s.final i tag crc r).active = s.active ∧ (s.final i tag crc r).shcA = s.shcA ∧
    (s.final i tag crc r).shcB = s.shcB ∧ (s.final i tag crc r).mirrorSeq = s.mirrorSeq ∧
    (s.final i tag crc r).mirrorProbe = s.mirrorProbe ∧ (s.final i tag crc r).scratch = s.scratch ∧
    (s.final i tag crc r).con0 = s.con0 ∧ (s.final i tag crc r).con1 = s.con1 ∧
    (s.final i tag crc r).waits = s.waits ∧ (s.final i tag crc r).garp = s.garp ∧
    (s.final i tag crc r).stages = s.stages ∧ (s.final i tag crc r).nextStage = s.nextStage ∧
    (s.final i tag crc r).retained = s.retained ∧ (s.final i tag crc r).fwUpdate = s.fwUpdate ∧
    (s.final i tag crc r).bellSeq = s.bellSeq ∧ (s.final i tag crc r).bells = s.bells ∧
    (s.final i tag crc r).ledgerSeq = s.ledgerSeq ∧ (s.final i tag crc r).ledgerHeld = s.ledgerHeld ∧
    (s.final i tag crc r).ledgerStopped = s.ledgerStopped ∧ (s.final i tag crc r).ptpPort = s.ptpPort ∧
    (s.final i tag crc r).ptpHeard = s.ptpHeard ∧ (s.final i tag crc r).tallies = s.tallies ∧
    (s.final i tag crc r).busA = s.busA ∧ (s.final i tag crc r).busB = s.busB ∧
    (s.final i tag crc r).shared = s.shared ∧ (s.final i tag crc r).telem = s.telem ∧
    (s.final i tag crc r).unreach = s.unreach ∧ (s.final i tag crc r).refAbsent = s.refAbsent ∧
    (s.final i tag crc r).refSince = s.refSince ∧ (s.final i tag crc r).meshLocked = s.meshLocked ∧
    (s.final i tag crc r).inlet = s.inlet ∧ (s.final i tag crc r).outlet = s.outlet ∧
    (s.final i tag crc r).loopSince = s.loopSince ∧ (s.final i tag crc r).wave = s.wave ∧
    (s.final i tag crc r).lastWave = s.lastWave ∧ (s.final i tag crc r).map = s.map ∧
    (s.final i tag crc r).mapSeq = s.mapSeq ∧ (s.final i tag crc r).pads = s.pads ∧
    (s.final i tag crc r).fields = s.fields ∧ (s.final i tag crc r).links = s.links ∧
    (s.final i tag crc r).lane0 = s.lane0 ∧ (s.final i tag crc r).neds = s.neds ∧
    (s.final i tag crc r).meds = s.meds ∧ (s.final i tag crc r).spds = s.spds ∧
    (s.final i tag crc r).nedTemp = s.nedTemp ∧ (s.final i tag crc r).spdTemp = s.spdTemp ∧
    (s.final i tag crc r).medTemp = s.medTemp ∧ (s.final i tag crc r).flockUp = s.flockUp ∧
    (s.final i tag crc r).flockMembers = s.flockMembers ∧ (s.final i tag crc r).flockInfo = s.flockInfo ∧
    (s.final i tag crc r).excludedW = s.excludedW ∧ (s.final i tag crc r).folds = s.folds ∧
    (s.final i tag crc r).scrubs = s.scrubs ∧ (s.final i tag crc r).paused = s.paused ∧
    (s.final i tag crc r).secondAt = s.secondAt ∧ (s.final i tag crc r).incCtr = s.incCtr ∧
    (s.final i tag crc r).channels = s.channels ∧ (s.final i tag crc r).sessions = s.sessions ∧
    (s.final i tag crc r).reports = s.reports ∧ (s.final i tag crc r).notices = s.notices ∧
    (s.final i tag crc r).wsel = s.wsel ∧ (s.final i tag crc r).wstat = s.wstat ∧
    (s.final i tag crc r).shadow = s.shadow ∧ (s.final i tag crc r).taps = s.taps ∧
    (s.final i tag crc r).wire = s.wire ∧ (s.final i tag crc r).pending = s.pending ∧
    (∀ j, (s.final i tag crc r).pad j = s.pad j) ∧ (∀ j, (s.final i tag crc r).field j = s.field j) ∧
    (∀ j, (s.final i tag crc r).ned j = s.ned j) ∧ (∀ j, (s.final i tag crc r).med j = s.med j) ∧
    (∀ j, (s.final i tag crc r).spd j = s.spd j) ∧ (∀ j, (s.final i tag crc r).entry j = s.entry j) ∧
    (∀ j, (s.final i tag crc r).foldOf j = s.foldOf j) ∧ (∀ j, (s.final i tag crc r).stOf j = s.stOf j) ∧
    (∀ j, (s.final i tag crc r).session j = s.session j) ∧
    (∀ j, (s.final i tag crc r).channel j = s.channel j) ∧ (∀ j, (s.final i tag crc r).shc j = s.shc j) ∧
    ∀ j l, (s.final i tag crc r).link j l = s.link j l := by
  unfold State.final
  (repeat' split) <;> simp

@[simp] theorem State.answer_fields (s : State) (ln : Ln) (r : RLine) :
    (s.answer ln r).now = s.now ∧ (s.answer ln r).freeCtr = s.freeCtr ∧ (s.answer ln r).resetN = s.resetN ∧
    (s.answer ln r).pwrFail = s.pwrFail ∧ (s.answer ln r).pwrFailAt = s.pwrFailAt ∧
    (s.answer ln r).frozen = s.frozen ∧ (s.answer ln r).faultN = s.faultN ∧ (s.answer ln r).alertN = s.alertN ∧
    (s.answer ln r).alertCause = s.alertCause ∧ (s.answer ln r).ready = s.ready ∧
    (s.answer ln r).readyAt = s.readyAt ∧ (s.answer ln r).vstby = s.vstby ∧ (s.answer ln r).fuses = s.fuses ∧
    (s.answer ln r).flash = s.flash ∧ (s.answer ln r).writing = s.writing ∧ (s.answer ln r).place = s.place ∧
    (s.answer ln r).net = s.net ∧ (s.answer ln r).boot = s.boot ∧ (s.answer ln r).sel = s.sel ∧
    (s.answer ln r).quiet = s.quiet ∧ (s.answer ln r).active = s.active ∧ (s.answer ln r).shcA = s.shcA ∧
    (s.answer ln r).shcB = s.shcB ∧ (s.answer ln r).mirrorSeq = s.mirrorSeq ∧
    (s.answer ln r).mirrorProbe = s.mirrorProbe ∧ (s.answer ln r).scratch = s.scratch ∧
    (s.answer ln r).con0 = s.con0 ∧ (s.answer ln r).con1 = s.con1 ∧ (s.answer ln r).waits = s.waits ∧
    (s.answer ln r).garp = s.garp ∧ (s.answer ln r).stages = s.stages ∧
    (s.answer ln r).nextStage = s.nextStage ∧ (s.answer ln r).retained = s.retained ∧
    (s.answer ln r).fwUpdate = s.fwUpdate ∧ (s.answer ln r).bellSeq = s.bellSeq ∧
    (s.answer ln r).bells = s.bells ∧ (s.answer ln r).ledgerSeq = s.ledgerSeq ∧
    (s.answer ln r).ledgerHeld = s.ledgerHeld ∧ (s.answer ln r).ledgerStopped = s.ledgerStopped ∧
    (s.answer ln r).ptpPort = s.ptpPort ∧ (s.answer ln r).ptpHeard = s.ptpHeard ∧
    (s.answer ln r).tallies = s.tallies ∧ (s.answer ln r).busA = s.busA ∧ (s.answer ln r).busB = s.busB ∧
    (s.answer ln r).shared = s.shared ∧ (s.answer ln r).telem = s.telem ∧ (s.answer ln r).unreach = s.unreach ∧
    (s.answer ln r).refAbsent = s.refAbsent ∧ (s.answer ln r).refSince = s.refSince ∧
    (s.answer ln r).meshLocked = s.meshLocked ∧ (s.answer ln r).inlet = s.inlet ∧
    (s.answer ln r).outlet = s.outlet ∧ (s.answer ln r).loopSince = s.loopSince ∧
    (s.answer ln r).wave = s.wave ∧ (s.answer ln r).lastWave = s.lastWave ∧ (s.answer ln r).map = s.map ∧
    (s.answer ln r).mapSeq = s.mapSeq ∧ (s.answer ln r).pads = s.pads ∧ (s.answer ln r).fields = s.fields ∧
    (s.answer ln r).links = s.links ∧ (s.answer ln r).lane0 = s.lane0 ∧ (s.answer ln r).neds = s.neds ∧
    (s.answer ln r).meds = s.meds ∧ (s.answer ln r).spds = s.spds ∧ (s.answer ln r).nedTemp = s.nedTemp ∧
    (s.answer ln r).spdTemp = s.spdTemp ∧ (s.answer ln r).medTemp = s.medTemp ∧
    (s.answer ln r).flockUp = s.flockUp ∧ (s.answer ln r).flockMembers = s.flockMembers ∧
    (s.answer ln r).flockInfo = s.flockInfo ∧ (s.answer ln r).excludedW = s.excludedW ∧
    (s.answer ln r).folds = s.folds ∧ (s.answer ln r).scrubs = s.scrubs ∧ (s.answer ln r).paused = s.paused ∧
    (s.answer ln r).secondAt = s.secondAt ∧ (s.answer ln r).incCtr = s.incCtr ∧
    (s.answer ln r).channels = s.channels ∧ (s.answer ln r).sessions = s.sessions ∧
    (s.answer ln r).reports = s.reports ∧ (s.answer ln r).notices = s.notices ∧ (s.answer ln r).wsel = s.wsel ∧
    (s.answer ln r).wstat = s.wstat ∧ (s.answer ln r).shadow = s.shadow ∧ (s.answer ln r).taps = s.taps ∧
    (s.answer ln r).wire = s.wire ∧ (s.answer ln r).pending = s.pending ∧
    (∀ j, (s.answer ln r).pad j = s.pad j) ∧ (∀ j, (s.answer ln r).field j = s.field j) ∧
    (∀ j, (s.answer ln r).ned j = s.ned j) ∧ (∀ j, (s.answer ln r).med j = s.med j) ∧
    (∀ j, (s.answer ln r).spd j = s.spd j) ∧ (∀ j, (s.answer ln r).entry j = s.entry j) ∧
    (∀ j, (s.answer ln r).foldOf j = s.foldOf j) ∧ (∀ j, (s.answer ln r).stOf j = s.stOf j) ∧
    (∀ j, (s.answer ln r).session j = s.session j) ∧ (∀ j, (s.answer ln r).channel j = s.channel j) ∧
    (∀ j, (s.answer ln r).shc j = s.shc j) ∧ ∀ j l, (s.answer ln r).link j l = s.link j l := by
  cases r <;> simp [State.answer]

@[simp] theorem State.ok_fields (s : State) (ln : Ln) (kv : KVs) :
    (s.ok ln kv).now = s.now ∧ (s.ok ln kv).freeCtr = s.freeCtr ∧ (s.ok ln kv).resetN = s.resetN ∧
    (s.ok ln kv).pwrFail = s.pwrFail ∧ (s.ok ln kv).pwrFailAt = s.pwrFailAt ∧ (s.ok ln kv).frozen = s.frozen ∧
    (s.ok ln kv).faultN = s.faultN ∧ (s.ok ln kv).alertN = s.alertN ∧ (s.ok ln kv).alertCause = s.alertCause ∧
    (s.ok ln kv).ready = s.ready ∧ (s.ok ln kv).readyAt = s.readyAt ∧ (s.ok ln kv).vstby = s.vstby ∧
    (s.ok ln kv).fuses = s.fuses ∧ (s.ok ln kv).flash = s.flash ∧ (s.ok ln kv).writing = s.writing ∧
    (s.ok ln kv).place = s.place ∧ (s.ok ln kv).net = s.net ∧ (s.ok ln kv).boot = s.boot ∧
    (s.ok ln kv).sel = s.sel ∧ (s.ok ln kv).quiet = s.quiet ∧ (s.ok ln kv).active = s.active ∧
    (s.ok ln kv).shcA = s.shcA ∧ (s.ok ln kv).shcB = s.shcB ∧ (s.ok ln kv).mirrorSeq = s.mirrorSeq ∧
    (s.ok ln kv).mirrorProbe = s.mirrorProbe ∧ (s.ok ln kv).scratch = s.scratch ∧ (s.ok ln kv).con0 = s.con0 ∧
    (s.ok ln kv).con1 = s.con1 ∧ (s.ok ln kv).waits = s.waits ∧ (s.ok ln kv).garp = s.garp ∧
    (s.ok ln kv).stages = s.stages ∧ (s.ok ln kv).nextStage = s.nextStage ∧
    (s.ok ln kv).retained = s.retained ∧ (s.ok ln kv).fwUpdate = s.fwUpdate ∧
    (s.ok ln kv).bellSeq = s.bellSeq ∧ (s.ok ln kv).bells = s.bells ∧ (s.ok ln kv).ledgerSeq = s.ledgerSeq ∧
    (s.ok ln kv).ledgerHeld = s.ledgerHeld ∧ (s.ok ln kv).ledgerStopped = s.ledgerStopped ∧
    (s.ok ln kv).ptpPort = s.ptpPort ∧ (s.ok ln kv).ptpHeard = s.ptpHeard ∧ (s.ok ln kv).tallies = s.tallies ∧
    (s.ok ln kv).busA = s.busA ∧ (s.ok ln kv).busB = s.busB ∧ (s.ok ln kv).shared = s.shared ∧
    (s.ok ln kv).telem = s.telem ∧ (s.ok ln kv).unreach = s.unreach ∧ (s.ok ln kv).refAbsent = s.refAbsent ∧
    (s.ok ln kv).refSince = s.refSince ∧ (s.ok ln kv).meshLocked = s.meshLocked ∧
    (s.ok ln kv).inlet = s.inlet ∧ (s.ok ln kv).outlet = s.outlet ∧ (s.ok ln kv).loopSince = s.loopSince ∧
    (s.ok ln kv).wave = s.wave ∧ (s.ok ln kv).lastWave = s.lastWave ∧ (s.ok ln kv).map = s.map ∧
    (s.ok ln kv).mapSeq = s.mapSeq ∧ (s.ok ln kv).pads = s.pads ∧ (s.ok ln kv).fields = s.fields ∧
    (s.ok ln kv).links = s.links ∧ (s.ok ln kv).lane0 = s.lane0 ∧ (s.ok ln kv).neds = s.neds ∧
    (s.ok ln kv).meds = s.meds ∧ (s.ok ln kv).spds = s.spds ∧ (s.ok ln kv).nedTemp = s.nedTemp ∧
    (s.ok ln kv).spdTemp = s.spdTemp ∧ (s.ok ln kv).medTemp = s.medTemp ∧ (s.ok ln kv).flockUp = s.flockUp ∧
    (s.ok ln kv).flockMembers = s.flockMembers ∧ (s.ok ln kv).flockInfo = s.flockInfo ∧
    (s.ok ln kv).excludedW = s.excludedW ∧ (s.ok ln kv).folds = s.folds ∧ (s.ok ln kv).scrubs = s.scrubs ∧
    (s.ok ln kv).paused = s.paused ∧ (s.ok ln kv).secondAt = s.secondAt ∧ (s.ok ln kv).incCtr = s.incCtr ∧
    (s.ok ln kv).channels = s.channels ∧ (s.ok ln kv).sessions = s.sessions ∧
    (s.ok ln kv).reports = s.reports ∧ (s.ok ln kv).notices = s.notices ∧ (s.ok ln kv).wsel = s.wsel ∧
    (s.ok ln kv).wstat = s.wstat ∧ (s.ok ln kv).shadow = s.shadow ∧ (s.ok ln kv).taps = s.taps ∧
    (s.ok ln kv).wire = s.wire ∧ (s.ok ln kv).pending = s.pending ∧ (∀ j, (s.ok ln kv).pad j = s.pad j) ∧
    (∀ j, (s.ok ln kv).field j = s.field j) ∧ (∀ j, (s.ok ln kv).ned j = s.ned j) ∧
    (∀ j, (s.ok ln kv).med j = s.med j) ∧ (∀ j, (s.ok ln kv).spd j = s.spd j) ∧
    (∀ j, (s.ok ln kv).entry j = s.entry j) ∧ (∀ j, (s.ok ln kv).foldOf j = s.foldOf j) ∧
    (∀ j, (s.ok ln kv).stOf j = s.stOf j) ∧ (∀ j, (s.ok ln kv).session j = s.session j) ∧
    (∀ j, (s.ok ln kv).channel j = s.channel j) ∧ (∀ j, (s.ok ln kv).shc j = s.shc j) ∧
    ∀ j l, (s.ok ln kv).link j l = s.link j l := by
  unfold State.ok
  (repeat' split) <;> simp

@[simp] theorem State.err_fields (s : State) (ln : Ln) (code : Nat) (kv : KVs) :
    (s.err ln code kv).now = s.now ∧ (s.err ln code kv).freeCtr = s.freeCtr ∧
    (s.err ln code kv).resetN = s.resetN ∧ (s.err ln code kv).pwrFail = s.pwrFail ∧
    (s.err ln code kv).pwrFailAt = s.pwrFailAt ∧ (s.err ln code kv).frozen = s.frozen ∧
    (s.err ln code kv).faultN = s.faultN ∧ (s.err ln code kv).alertN = s.alertN ∧
    (s.err ln code kv).alertCause = s.alertCause ∧ (s.err ln code kv).ready = s.ready ∧
    (s.err ln code kv).readyAt = s.readyAt ∧ (s.err ln code kv).vstby = s.vstby ∧
    (s.err ln code kv).fuses = s.fuses ∧ (s.err ln code kv).flash = s.flash ∧
    (s.err ln code kv).writing = s.writing ∧ (s.err ln code kv).place = s.place ∧
    (s.err ln code kv).net = s.net ∧ (s.err ln code kv).boot = s.boot ∧ (s.err ln code kv).sel = s.sel ∧
    (s.err ln code kv).quiet = s.quiet ∧ (s.err ln code kv).active = s.active ∧
    (s.err ln code kv).shcA = s.shcA ∧ (s.err ln code kv).shcB = s.shcB ∧
    (s.err ln code kv).mirrorSeq = s.mirrorSeq ∧ (s.err ln code kv).mirrorProbe = s.mirrorProbe ∧
    (s.err ln code kv).scratch = s.scratch ∧ (s.err ln code kv).con0 = s.con0 ∧
    (s.err ln code kv).con1 = s.con1 ∧ (s.err ln code kv).waits = s.waits ∧ (s.err ln code kv).garp = s.garp ∧
    (s.err ln code kv).stages = s.stages ∧ (s.err ln code kv).nextStage = s.nextStage ∧
    (s.err ln code kv).retained = s.retained ∧ (s.err ln code kv).fwUpdate = s.fwUpdate ∧
    (s.err ln code kv).bellSeq = s.bellSeq ∧ (s.err ln code kv).bells = s.bells ∧
    (s.err ln code kv).ledgerSeq = s.ledgerSeq ∧ (s.err ln code kv).ledgerHeld = s.ledgerHeld ∧
    (s.err ln code kv).ledgerStopped = s.ledgerStopped ∧ (s.err ln code kv).ptpPort = s.ptpPort ∧
    (s.err ln code kv).ptpHeard = s.ptpHeard ∧ (s.err ln code kv).tallies = s.tallies ∧
    (s.err ln code kv).busA = s.busA ∧ (s.err ln code kv).busB = s.busB ∧
    (s.err ln code kv).shared = s.shared ∧ (s.err ln code kv).telem = s.telem ∧
    (s.err ln code kv).unreach = s.unreach ∧ (s.err ln code kv).refAbsent = s.refAbsent ∧
    (s.err ln code kv).refSince = s.refSince ∧ (s.err ln code kv).meshLocked = s.meshLocked ∧
    (s.err ln code kv).inlet = s.inlet ∧ (s.err ln code kv).outlet = s.outlet ∧
    (s.err ln code kv).loopSince = s.loopSince ∧ (s.err ln code kv).wave = s.wave ∧
    (s.err ln code kv).lastWave = s.lastWave ∧ (s.err ln code kv).map = s.map ∧
    (s.err ln code kv).mapSeq = s.mapSeq ∧ (s.err ln code kv).pads = s.pads ∧
    (s.err ln code kv).fields = s.fields ∧ (s.err ln code kv).links = s.links ∧
    (s.err ln code kv).lane0 = s.lane0 ∧ (s.err ln code kv).neds = s.neds ∧ (s.err ln code kv).meds = s.meds ∧
    (s.err ln code kv).spds = s.spds ∧ (s.err ln code kv).nedTemp = s.nedTemp ∧
    (s.err ln code kv).spdTemp = s.spdTemp ∧ (s.err ln code kv).medTemp = s.medTemp ∧
    (s.err ln code kv).flockUp = s.flockUp ∧ (s.err ln code kv).flockMembers = s.flockMembers ∧
    (s.err ln code kv).flockInfo = s.flockInfo ∧ (s.err ln code kv).excludedW = s.excludedW ∧
    (s.err ln code kv).folds = s.folds ∧ (s.err ln code kv).scrubs = s.scrubs ∧
    (s.err ln code kv).paused = s.paused ∧ (s.err ln code kv).secondAt = s.secondAt ∧
    (s.err ln code kv).incCtr = s.incCtr ∧ (s.err ln code kv).channels = s.channels ∧
    (s.err ln code kv).sessions = s.sessions ∧ (s.err ln code kv).reports = s.reports ∧
    (s.err ln code kv).notices = s.notices ∧ (s.err ln code kv).wsel = s.wsel ∧
    (s.err ln code kv).wstat = s.wstat ∧ (s.err ln code kv).shadow = s.shadow ∧
    (s.err ln code kv).taps = s.taps ∧ (s.err ln code kv).wire = s.wire ∧
    (s.err ln code kv).pending = s.pending ∧ (∀ j, (s.err ln code kv).pad j = s.pad j) ∧
    (∀ j, (s.err ln code kv).field j = s.field j) ∧ (∀ j, (s.err ln code kv).ned j = s.ned j) ∧
    (∀ j, (s.err ln code kv).med j = s.med j) ∧ (∀ j, (s.err ln code kv).spd j = s.spd j) ∧
    (∀ j, (s.err ln code kv).entry j = s.entry j) ∧ (∀ j, (s.err ln code kv).foldOf j = s.foldOf j) ∧
    (∀ j, (s.err ln code kv).stOf j = s.stOf j) ∧ (∀ j, (s.err ln code kv).session j = s.session j) ∧
    (∀ j, (s.err ln code kv).channel j = s.channel j) ∧ (∀ j, (s.err ln code kv).shc j = s.shc j) ∧
    ∀ j l, (s.err ln code kv).link j l = s.link j l := by
  unfold State.err
  (repeat' split) <;> simp

@[simp] theorem State.refuse_fields (s : State) (ln : Ln) (why : String) :
    (s.refuse ln why).now = s.now ∧ (s.refuse ln why).freeCtr = s.freeCtr ∧
    (s.refuse ln why).resetN = s.resetN ∧ (s.refuse ln why).pwrFail = s.pwrFail ∧
    (s.refuse ln why).pwrFailAt = s.pwrFailAt ∧ (s.refuse ln why).frozen = s.frozen ∧
    (s.refuse ln why).faultN = s.faultN ∧ (s.refuse ln why).alertN = s.alertN ∧
    (s.refuse ln why).alertCause = s.alertCause ∧ (s.refuse ln why).ready = s.ready ∧
    (s.refuse ln why).readyAt = s.readyAt ∧ (s.refuse ln why).vstby = s.vstby ∧
    (s.refuse ln why).fuses = s.fuses ∧ (s.refuse ln why).flash = s.flash ∧
    (s.refuse ln why).writing = s.writing ∧ (s.refuse ln why).place = s.place ∧ (s.refuse ln why).net = s.net ∧
    (s.refuse ln why).boot = s.boot ∧ (s.refuse ln why).sel = s.sel ∧ (s.refuse ln why).quiet = s.quiet ∧
    (s.refuse ln why).active = s.active ∧ (s.refuse ln why).shcA = s.shcA ∧ (s.refuse ln why).shcB = s.shcB ∧
    (s.refuse ln why).mirrorSeq = s.mirrorSeq ∧ (s.refuse ln why).mirrorProbe = s.mirrorProbe ∧
    (s.refuse ln why).scratch = s.scratch ∧ (s.refuse ln why).con0 = s.con0 ∧ (s.refuse ln why).con1 = s.con1 ∧
    (s.refuse ln why).waits = s.waits ∧ (s.refuse ln why).garp = s.garp ∧ (s.refuse ln why).stages = s.stages ∧
    (s.refuse ln why).nextStage = s.nextStage ∧ (s.refuse ln why).retained = s.retained ∧
    (s.refuse ln why).fwUpdate = s.fwUpdate ∧ (s.refuse ln why).bellSeq = s.bellSeq ∧
    (s.refuse ln why).bells = s.bells ∧ (s.refuse ln why).ledgerSeq = s.ledgerSeq ∧
    (s.refuse ln why).ledgerHeld = s.ledgerHeld ∧ (s.refuse ln why).ledgerStopped = s.ledgerStopped ∧
    (s.refuse ln why).ptpPort = s.ptpPort ∧ (s.refuse ln why).ptpHeard = s.ptpHeard ∧
    (s.refuse ln why).tallies = s.tallies ∧ (s.refuse ln why).busA = s.busA ∧ (s.refuse ln why).busB = s.busB ∧
    (s.refuse ln why).shared = s.shared ∧ (s.refuse ln why).telem = s.telem ∧
    (s.refuse ln why).unreach = s.unreach ∧ (s.refuse ln why).refAbsent = s.refAbsent ∧
    (s.refuse ln why).refSince = s.refSince ∧ (s.refuse ln why).meshLocked = s.meshLocked ∧
    (s.refuse ln why).inlet = s.inlet ∧ (s.refuse ln why).outlet = s.outlet ∧
    (s.refuse ln why).loopSince = s.loopSince ∧ (s.refuse ln why).wave = s.wave ∧
    (s.refuse ln why).lastWave = s.lastWave ∧ (s.refuse ln why).map = s.map ∧
    (s.refuse ln why).mapSeq = s.mapSeq ∧ (s.refuse ln why).pads = s.pads ∧
    (s.refuse ln why).fields = s.fields ∧ (s.refuse ln why).links = s.links ∧
    (s.refuse ln why).lane0 = s.lane0 ∧ (s.refuse ln why).neds = s.neds ∧ (s.refuse ln why).meds = s.meds ∧
    (s.refuse ln why).spds = s.spds ∧ (s.refuse ln why).nedTemp = s.nedTemp ∧
    (s.refuse ln why).spdTemp = s.spdTemp ∧ (s.refuse ln why).medTemp = s.medTemp ∧
    (s.refuse ln why).flockUp = s.flockUp ∧ (s.refuse ln why).flockMembers = s.flockMembers ∧
    (s.refuse ln why).flockInfo = s.flockInfo ∧ (s.refuse ln why).excludedW = s.excludedW ∧
    (s.refuse ln why).folds = s.folds ∧ (s.refuse ln why).scrubs = s.scrubs ∧
    (s.refuse ln why).paused = s.paused ∧ (s.refuse ln why).secondAt = s.secondAt ∧
    (s.refuse ln why).incCtr = s.incCtr ∧ (s.refuse ln why).channels = s.channels ∧
    (s.refuse ln why).sessions = s.sessions ∧ (s.refuse ln why).reports = s.reports ∧
    (s.refuse ln why).notices = s.notices ∧ (s.refuse ln why).wsel = s.wsel ∧
    (s.refuse ln why).wstat = s.wstat ∧ (s.refuse ln why).shadow = s.shadow ∧ (s.refuse ln why).taps = s.taps ∧
    (s.refuse ln why).wire = s.wire ∧ (s.refuse ln why).pending = s.pending ∧
    (∀ j, (s.refuse ln why).pad j = s.pad j) ∧ (∀ j, (s.refuse ln why).field j = s.field j) ∧
    (∀ j, (s.refuse ln why).ned j = s.ned j) ∧ (∀ j, (s.refuse ln why).med j = s.med j) ∧
    (∀ j, (s.refuse ln why).spd j = s.spd j) ∧ (∀ j, (s.refuse ln why).entry j = s.entry j) ∧
    (∀ j, (s.refuse ln why).foldOf j = s.foldOf j) ∧ (∀ j, (s.refuse ln why).stOf j = s.stOf j) ∧
    (∀ j, (s.refuse ln why).session j = s.session j) ∧ (∀ j, (s.refuse ln why).channel j = s.channel j) ∧
    (∀ j, (s.refuse ln why).shc j = s.shc j) ∧ ∀ j l, (s.refuse ln why).link j l = s.link j l := by
  unfold State.refuse
  (repeat' split) <;> simp

@[simp] theorem State.sendBells_fields (s : State) (i : Nat) :
    (s.sendBells i).now = s.now ∧ (s.sendBells i).freeCtr = s.freeCtr ∧ (s.sendBells i).resetN = s.resetN ∧
    (s.sendBells i).pwrFail = s.pwrFail ∧ (s.sendBells i).pwrFailAt = s.pwrFailAt ∧
    (s.sendBells i).frozen = s.frozen ∧ (s.sendBells i).faultN = s.faultN ∧ (s.sendBells i).alertN = s.alertN ∧
    (s.sendBells i).alertCause = s.alertCause ∧ (s.sendBells i).ready = s.ready ∧
    (s.sendBells i).readyAt = s.readyAt ∧ (s.sendBells i).vstby = s.vstby ∧ (s.sendBells i).fuses = s.fuses ∧
    (s.sendBells i).flash = s.flash ∧ (s.sendBells i).writing = s.writing ∧ (s.sendBells i).place = s.place ∧
    (s.sendBells i).net = s.net ∧ (s.sendBells i).boot = s.boot ∧ (s.sendBells i).sel = s.sel ∧
    (s.sendBells i).quiet = s.quiet ∧ (s.sendBells i).active = s.active ∧ (s.sendBells i).shcA = s.shcA ∧
    (s.sendBells i).shcB = s.shcB ∧ (s.sendBells i).mirrorSeq = s.mirrorSeq ∧
    (s.sendBells i).mirrorProbe = s.mirrorProbe ∧ (s.sendBells i).scratch = s.scratch ∧
    (s.sendBells i).con0 = s.con0 ∧ (s.sendBells i).con1 = s.con1 ∧ (s.sendBells i).waits = s.waits ∧
    (s.sendBells i).garp = s.garp ∧ (s.sendBells i).stages = s.stages ∧
    (s.sendBells i).nextStage = s.nextStage ∧ (s.sendBells i).retained = s.retained ∧
    (s.sendBells i).fwUpdate = s.fwUpdate ∧ (s.sendBells i).bellSeq = s.bellSeq ∧
    (s.sendBells i).bells = s.bells ∧ (s.sendBells i).ledgerSeq = s.ledgerSeq ∧
    (s.sendBells i).ledgerHeld = s.ledgerHeld ∧ (s.sendBells i).ledgerStopped = s.ledgerStopped ∧
    (s.sendBells i).ptpPort = s.ptpPort ∧ (s.sendBells i).ptpHeard = s.ptpHeard ∧
    (s.sendBells i).tallies = s.tallies ∧ (s.sendBells i).busA = s.busA ∧ (s.sendBells i).busB = s.busB ∧
    (s.sendBells i).shared = s.shared ∧ (s.sendBells i).telem = s.telem ∧ (s.sendBells i).unreach = s.unreach ∧
    (s.sendBells i).refAbsent = s.refAbsent ∧ (s.sendBells i).refSince = s.refSince ∧
    (s.sendBells i).meshLocked = s.meshLocked ∧ (s.sendBells i).inlet = s.inlet ∧
    (s.sendBells i).outlet = s.outlet ∧ (s.sendBells i).loopSince = s.loopSince ∧
    (s.sendBells i).wave = s.wave ∧ (s.sendBells i).lastWave = s.lastWave ∧ (s.sendBells i).map = s.map ∧
    (s.sendBells i).mapSeq = s.mapSeq ∧ (s.sendBells i).pads = s.pads ∧ (s.sendBells i).fields = s.fields ∧
    (s.sendBells i).links = s.links ∧ (s.sendBells i).lane0 = s.lane0 ∧ (s.sendBells i).neds = s.neds ∧
    (s.sendBells i).meds = s.meds ∧ (s.sendBells i).spds = s.spds ∧ (s.sendBells i).nedTemp = s.nedTemp ∧
    (s.sendBells i).spdTemp = s.spdTemp ∧ (s.sendBells i).medTemp = s.medTemp ∧
    (s.sendBells i).flockUp = s.flockUp ∧ (s.sendBells i).flockMembers = s.flockMembers ∧
    (s.sendBells i).flockInfo = s.flockInfo ∧ (s.sendBells i).excludedW = s.excludedW ∧
    (s.sendBells i).folds = s.folds ∧ (s.sendBells i).scrubs = s.scrubs ∧ (s.sendBells i).paused = s.paused ∧
    (s.sendBells i).secondAt = s.secondAt ∧ (s.sendBells i).incCtr = s.incCtr ∧
    (s.sendBells i).channels = s.channels ∧ (s.sendBells i).sessions = s.sessions ∧
    (s.sendBells i).reports = s.reports ∧ (s.sendBells i).notices = s.notices ∧ (s.sendBells i).wsel = s.wsel ∧
    (s.sendBells i).wstat = s.wstat ∧ (s.sendBells i).shadow = s.shadow ∧ (s.sendBells i).taps = s.taps ∧
    (s.sendBells i).wire = s.wire ∧ (s.sendBells i).pending = s.pending ∧
    (∀ j, (s.sendBells i).pad j = s.pad j) ∧ (∀ j, (s.sendBells i).field j = s.field j) ∧
    (∀ j, (s.sendBells i).ned j = s.ned j) ∧ (∀ j, (s.sendBells i).med j = s.med j) ∧
    (∀ j, (s.sendBells i).spd j = s.spd j) ∧ (∀ j, (s.sendBells i).entry j = s.entry j) ∧
    (∀ j, (s.sendBells i).foldOf j = s.foldOf j) ∧ (∀ j, (s.sendBells i).stOf j = s.stOf j) ∧
    (∀ j, (s.sendBells i).session j = s.session j) ∧ (∀ j, (s.sendBells i).channel j = s.channel j) ∧
    (∀ j, (s.sendBells i).shc j = s.shc j) ∧ ∀ j l, (s.sendBells i).link j l = s.link j l := by
  unfold State.sendBells
  dsimp only
  split <;> ((repeat' apply And.intro) <;> intros <;> rfl)

@[simp] theorem State.lineIn_fields (s : State) (ln : Ln) :
    (s.lineIn ln).now = s.now ∧ (s.lineIn ln).freeCtr = s.freeCtr ∧ (s.lineIn ln).resetN = s.resetN ∧
    (s.lineIn ln).pwrFail = s.pwrFail ∧ (s.lineIn ln).pwrFailAt = s.pwrFailAt ∧
    (s.lineIn ln).frozen = s.frozen ∧ (s.lineIn ln).faultN = s.faultN ∧ (s.lineIn ln).alertN = s.alertN ∧
    (s.lineIn ln).alertCause = s.alertCause ∧ (s.lineIn ln).ready = s.ready ∧
    (s.lineIn ln).readyAt = s.readyAt ∧ (s.lineIn ln).vstby = s.vstby ∧ (s.lineIn ln).fuses = s.fuses ∧
    (s.lineIn ln).flash = s.flash ∧ (s.lineIn ln).writing = s.writing ∧ (s.lineIn ln).place = s.place ∧
    (s.lineIn ln).net = s.net ∧ (s.lineIn ln).boot = s.boot ∧ (s.lineIn ln).sel = s.sel ∧
    (s.lineIn ln).quiet = s.quiet ∧ (s.lineIn ln).active = s.active ∧ (s.lineIn ln).shcA = s.shcA ∧
    (s.lineIn ln).shcB = s.shcB ∧ (s.lineIn ln).mirrorSeq = s.mirrorSeq ∧
    (s.lineIn ln).mirrorProbe = s.mirrorProbe ∧ (s.lineIn ln).scratch = s.scratch ∧
    (s.lineIn ln).con0 = s.con0 ∧ (s.lineIn ln).con1 = s.con1 ∧ (s.lineIn ln).garp = s.garp ∧
    (s.lineIn ln).stages = s.stages ∧ (s.lineIn ln).nextStage = s.nextStage ∧
    (s.lineIn ln).retained = s.retained ∧ (s.lineIn ln).fwUpdate = s.fwUpdate ∧
    (s.lineIn ln).bellSeq = s.bellSeq ∧ (s.lineIn ln).bells = s.bells ∧ (s.lineIn ln).ledgerSeq = s.ledgerSeq ∧
    (s.lineIn ln).ledgerHeld = s.ledgerHeld ∧ (s.lineIn ln).ledgerStopped = s.ledgerStopped ∧
    (s.lineIn ln).ptpPort = s.ptpPort ∧ (s.lineIn ln).ptpHeard = s.ptpHeard ∧
    (s.lineIn ln).tallies = s.tallies ∧ (s.lineIn ln).busA = s.busA ∧ (s.lineIn ln).busB = s.busB ∧
    (s.lineIn ln).shared = s.shared ∧ (s.lineIn ln).telem = s.telem ∧ (s.lineIn ln).unreach = s.unreach ∧
    (s.lineIn ln).refAbsent = s.refAbsent ∧ (s.lineIn ln).refSince = s.refSince ∧
    (s.lineIn ln).meshLocked = s.meshLocked ∧ (s.lineIn ln).inlet = s.inlet ∧ (s.lineIn ln).outlet = s.outlet ∧
    (s.lineIn ln).loopSince = s.loopSince ∧ (s.lineIn ln).wave = s.wave ∧ (s.lineIn ln).lastWave = s.lastWave ∧
    (s.lineIn ln).map = s.map ∧ (s.lineIn ln).mapSeq = s.mapSeq ∧ (s.lineIn ln).pads = s.pads ∧
    (s.lineIn ln).fields = s.fields ∧ (s.lineIn ln).links = s.links ∧ (s.lineIn ln).lane0 = s.lane0 ∧
    (s.lineIn ln).neds = s.neds ∧ (s.lineIn ln).meds = s.meds ∧ (s.lineIn ln).spds = s.spds ∧
    (s.lineIn ln).nedTemp = s.nedTemp ∧ (s.lineIn ln).spdTemp = s.spdTemp ∧ (s.lineIn ln).medTemp = s.medTemp ∧
    (s.lineIn ln).flockUp = s.flockUp ∧ (s.lineIn ln).flockMembers = s.flockMembers ∧
    (s.lineIn ln).flockInfo = s.flockInfo ∧ (s.lineIn ln).excludedW = s.excludedW ∧
    (s.lineIn ln).folds = s.folds ∧ (s.lineIn ln).scrubs = s.scrubs ∧ (s.lineIn ln).paused = s.paused ∧
    (s.lineIn ln).secondAt = s.secondAt ∧ (s.lineIn ln).incCtr = s.incCtr ∧
    (s.lineIn ln).channels = s.channels ∧ (s.lineIn ln).sessions = s.sessions ∧
    (s.lineIn ln).reports = s.reports ∧ (s.lineIn ln).notices = s.notices ∧ (s.lineIn ln).wsel = s.wsel ∧
    (s.lineIn ln).wstat = s.wstat ∧ (s.lineIn ln).shadow = s.shadow ∧ (s.lineIn ln).taps = s.taps ∧
    (s.lineIn ln).wire = s.wire ∧ (s.lineIn ln).pending = s.pending ∧ (∀ j, (s.lineIn ln).pad j = s.pad j) ∧
    (∀ j, (s.lineIn ln).field j = s.field j) ∧ (∀ j, (s.lineIn ln).ned j = s.ned j) ∧
    (∀ j, (s.lineIn ln).med j = s.med j) ∧ (∀ j, (s.lineIn ln).spd j = s.spd j) ∧
    (∀ j, (s.lineIn ln).entry j = s.entry j) ∧ (∀ j, (s.lineIn ln).foldOf j = s.foldOf j) ∧
    (∀ j, (s.lineIn ln).stOf j = s.stOf j) ∧ (∀ j, (s.lineIn ln).session j = s.session j) ∧
    (∀ j, (s.lineIn ln).channel j = s.channel j) ∧ (∀ j, (s.lineIn ln).shc j = s.shc j) ∧
    ∀ j l, (s.lineIn ln).link j l = s.link j l := by
  (repeat' apply And.intro) <;> intros <;> rfl

@[simp] theorem State.atLine_fields (s : State) (ln : Ln) :
    (s.atLine ln).freeCtr = s.freeCtr ∧ (s.atLine ln).resetN = s.resetN ∧ (s.atLine ln).pwrFail = s.pwrFail ∧
    (s.atLine ln).pwrFailAt = s.pwrFailAt ∧ (s.atLine ln).frozen = s.frozen ∧ (s.atLine ln).faultN = s.faultN ∧
    (s.atLine ln).alertN = s.alertN ∧ (s.atLine ln).alertCause = s.alertCause ∧ (s.atLine ln).ready = s.ready ∧
    (s.atLine ln).readyAt = s.readyAt ∧ (s.atLine ln).vstby = s.vstby ∧ (s.atLine ln).fuses = s.fuses ∧
    (s.atLine ln).flash = s.flash ∧ (s.atLine ln).writing = s.writing ∧ (s.atLine ln).place = s.place ∧
    (s.atLine ln).net = s.net ∧ (s.atLine ln).boot = s.boot ∧ (s.atLine ln).sel = s.sel ∧
    (s.atLine ln).quiet = s.quiet ∧ (s.atLine ln).active = s.active ∧ (s.atLine ln).shcA = s.shcA ∧
    (s.atLine ln).shcB = s.shcB ∧ (s.atLine ln).mirrorSeq = s.mirrorSeq ∧
    (s.atLine ln).mirrorProbe = s.mirrorProbe ∧ (s.atLine ln).scratch = s.scratch ∧
    (s.atLine ln).con0 = s.con0 ∧ (s.atLine ln).con1 = s.con1 ∧ (s.atLine ln).garp = s.garp ∧
    (s.atLine ln).stages = s.stages ∧ (s.atLine ln).nextStage = s.nextStage ∧
    (s.atLine ln).retained = s.retained ∧ (s.atLine ln).fwUpdate = s.fwUpdate ∧
    (s.atLine ln).bellSeq = s.bellSeq ∧ (s.atLine ln).bells = s.bells ∧ (s.atLine ln).ledgerSeq = s.ledgerSeq ∧
    (s.atLine ln).ledgerHeld = s.ledgerHeld ∧ (s.atLine ln).ledgerStopped = s.ledgerStopped ∧
    (s.atLine ln).ptpPort = s.ptpPort ∧ (s.atLine ln).ptpHeard = s.ptpHeard ∧
    (s.atLine ln).tallies = s.tallies ∧ (s.atLine ln).busA = s.busA ∧ (s.atLine ln).busB = s.busB ∧
    (s.atLine ln).shared = s.shared ∧ (s.atLine ln).telem = s.telem ∧ (s.atLine ln).unreach = s.unreach ∧
    (s.atLine ln).refAbsent = s.refAbsent ∧ (s.atLine ln).refSince = s.refSince ∧
    (s.atLine ln).meshLocked = s.meshLocked ∧ (s.atLine ln).inlet = s.inlet ∧ (s.atLine ln).outlet = s.outlet ∧
    (s.atLine ln).loopSince = s.loopSince ∧ (s.atLine ln).wave = s.wave ∧ (s.atLine ln).lastWave = s.lastWave ∧
    (s.atLine ln).map = s.map ∧ (s.atLine ln).mapSeq = s.mapSeq ∧ (s.atLine ln).pads = s.pads ∧
    (s.atLine ln).fields = s.fields ∧ (s.atLine ln).links = s.links ∧ (s.atLine ln).lane0 = s.lane0 ∧
    (s.atLine ln).neds = s.neds ∧ (s.atLine ln).meds = s.meds ∧ (s.atLine ln).spds = s.spds ∧
    (s.atLine ln).nedTemp = s.nedTemp ∧ (s.atLine ln).spdTemp = s.spdTemp ∧ (s.atLine ln).medTemp = s.medTemp ∧
    (s.atLine ln).flockUp = s.flockUp ∧ (s.atLine ln).flockMembers = s.flockMembers ∧
    (s.atLine ln).flockInfo = s.flockInfo ∧ (s.atLine ln).excludedW = s.excludedW ∧
    (s.atLine ln).folds = s.folds ∧ (s.atLine ln).scrubs = s.scrubs ∧ (s.atLine ln).paused = s.paused ∧
    (s.atLine ln).secondAt = s.secondAt ∧ (s.atLine ln).incCtr = s.incCtr ∧
    (s.atLine ln).channels = s.channels ∧ (s.atLine ln).sessions = s.sessions ∧
    (s.atLine ln).reports = s.reports ∧ (s.atLine ln).notices = s.notices ∧ (s.atLine ln).wsel = s.wsel ∧
    (s.atLine ln).wstat = s.wstat ∧ (s.atLine ln).shadow = s.shadow ∧ (s.atLine ln).taps = s.taps ∧
    (s.atLine ln).wire = s.wire ∧ (s.atLine ln).pending = s.pending ∧ (∀ j, (s.atLine ln).pad j = s.pad j) ∧
    (∀ j, (s.atLine ln).field j = s.field j) ∧ (∀ j, (s.atLine ln).ned j = s.ned j) ∧
    (∀ j, (s.atLine ln).med j = s.med j) ∧ (∀ j, (s.atLine ln).spd j = s.spd j) ∧
    (∀ j, (s.atLine ln).entry j = s.entry j) ∧ (∀ j, (s.atLine ln).foldOf j = s.foldOf j) ∧
    (∀ j, (s.atLine ln).stOf j = s.stOf j) ∧ (∀ j, (s.atLine ln).session j = s.session j) ∧
    (∀ j, (s.atLine ln).channel j = s.channel j) ∧ (∀ j, (s.atLine ln).shc j = s.shc j) ∧
    ∀ j l, (s.atLine ln).link j l = s.link j l := by
  unfold State.atLine
  (repeat' split) <;> simp

@[simp] theorem State.await_fields (s : State) (ln : Ln) (w : WaitFor) :
    (s.await ln w).now = s.now ∧ (s.await ln w).freeCtr = s.freeCtr ∧ (s.await ln w).resetN = s.resetN ∧
    (s.await ln w).pwrFail = s.pwrFail ∧ (s.await ln w).pwrFailAt = s.pwrFailAt ∧
    (s.await ln w).frozen = s.frozen ∧ (s.await ln w).faultN = s.faultN ∧ (s.await ln w).alertN = s.alertN ∧
    (s.await ln w).alertCause = s.alertCause ∧ (s.await ln w).ready = s.ready ∧
    (s.await ln w).readyAt = s.readyAt ∧ (s.await ln w).vstby = s.vstby ∧ (s.await ln w).fuses = s.fuses ∧
    (s.await ln w).flash = s.flash ∧ (s.await ln w).writing = s.writing ∧ (s.await ln w).place = s.place ∧
    (s.await ln w).net = s.net ∧ (s.await ln w).boot = s.boot ∧ (s.await ln w).sel = s.sel ∧
    (s.await ln w).quiet = s.quiet ∧ (s.await ln w).active = s.active ∧ (s.await ln w).shcA = s.shcA ∧
    (s.await ln w).shcB = s.shcB ∧ (s.await ln w).mirrorSeq = s.mirrorSeq ∧
    (s.await ln w).mirrorProbe = s.mirrorProbe ∧ (s.await ln w).scratch = s.scratch ∧
    (s.await ln w).sess = s.sess ∧ (s.await ln w).con0 = s.con0 ∧ (s.await ln w).con1 = s.con1 ∧
    (s.await ln w).garp = s.garp ∧ (s.await ln w).stages = s.stages ∧ (s.await ln w).nextStage = s.nextStage ∧
    (s.await ln w).retained = s.retained ∧ (s.await ln w).fwUpdate = s.fwUpdate ∧
    (s.await ln w).bellSeq = s.bellSeq ∧ (s.await ln w).bells = s.bells ∧
    (s.await ln w).ledgerSeq = s.ledgerSeq ∧ (s.await ln w).ledgerHeld = s.ledgerHeld ∧
    (s.await ln w).ledgerStopped = s.ledgerStopped ∧ (s.await ln w).ptpPort = s.ptpPort ∧
    (s.await ln w).ptpHeard = s.ptpHeard ∧ (s.await ln w).tallies = s.tallies ∧ (s.await ln w).busA = s.busA ∧
    (s.await ln w).busB = s.busB ∧ (s.await ln w).shared = s.shared ∧ (s.await ln w).telem = s.telem ∧
    (s.await ln w).unreach = s.unreach ∧ (s.await ln w).refAbsent = s.refAbsent ∧
    (s.await ln w).refSince = s.refSince ∧ (s.await ln w).meshLocked = s.meshLocked ∧
    (s.await ln w).inlet = s.inlet ∧ (s.await ln w).outlet = s.outlet ∧
    (s.await ln w).loopSince = s.loopSince ∧ (s.await ln w).wave = s.wave ∧
    (s.await ln w).lastWave = s.lastWave ∧ (s.await ln w).map = s.map ∧ (s.await ln w).mapSeq = s.mapSeq ∧
    (s.await ln w).pads = s.pads ∧ (s.await ln w).fields = s.fields ∧ (s.await ln w).links = s.links ∧
    (s.await ln w).lane0 = s.lane0 ∧ (s.await ln w).neds = s.neds ∧ (s.await ln w).meds = s.meds ∧
    (s.await ln w).spds = s.spds ∧ (s.await ln w).nedTemp = s.nedTemp ∧ (s.await ln w).spdTemp = s.spdTemp ∧
    (s.await ln w).medTemp = s.medTemp ∧ (s.await ln w).flockUp = s.flockUp ∧
    (s.await ln w).flockMembers = s.flockMembers ∧ (s.await ln w).flockInfo = s.flockInfo ∧
    (s.await ln w).excludedW = s.excludedW ∧ (s.await ln w).folds = s.folds ∧
    (s.await ln w).scrubs = s.scrubs ∧ (s.await ln w).paused = s.paused ∧
    (s.await ln w).secondAt = s.secondAt ∧ (s.await ln w).incCtr = s.incCtr ∧
    (s.await ln w).channels = s.channels ∧ (s.await ln w).sessions = s.sessions ∧
    (s.await ln w).reports = s.reports ∧ (s.await ln w).notices = s.notices ∧ (s.await ln w).wsel = s.wsel ∧
    (s.await ln w).wstat = s.wstat ∧ (s.await ln w).shadow = s.shadow ∧ (s.await ln w).taps = s.taps ∧
    (s.await ln w).wire = s.wire ∧ (s.await ln w).pending = s.pending ∧ (∀ j, (s.await ln w).pad j = s.pad j) ∧
    (∀ j, (s.await ln w).field j = s.field j) ∧ (∀ j, (s.await ln w).ned j = s.ned j) ∧
    (∀ j, (s.await ln w).med j = s.med j) ∧ (∀ j, (s.await ln w).spd j = s.spd j) ∧
    (∀ j, (s.await ln w).entry j = s.entry j) ∧ (∀ j, (s.await ln w).cs j = s.cs j) ∧
    (∀ j, (s.await ln w).foldOf j = s.foldOf j) ∧ (∀ j, (s.await ln w).stOf j = s.stOf j) ∧
    (∀ j, (s.await ln w).session j = s.session j) ∧ (∀ j, (s.await ln w).channel j = s.channel j) ∧
    (∀ j, (s.await ln w).shc j = s.shc j) ∧ ∀ j l, (s.await ln w).link j l = s.link j l := by
  (repeat' apply And.intro) <;> intros <;> rfl

@[simp] theorem State.addTally_fields (s : State) (sc : TScope) (id i n : Nat) :
    (s.addTally sc id i n).now = s.now ∧ (s.addTally sc id i n).freeCtr = s.freeCtr ∧
    (s.addTally sc id i n).resetN = s.resetN ∧ (s.addTally sc id i n).pwrFail = s.pwrFail ∧
    (s.addTally sc id i n).pwrFailAt = s.pwrFailAt ∧ (s.addTally sc id i n).frozen = s.frozen ∧
    (s.addTally sc id i n).faultN = s.faultN ∧ (s.addTally sc id i n).alertN = s.alertN ∧
    (s.addTally sc id i n).alertCause = s.alertCause ∧ (s.addTally sc id i n).ready = s.ready ∧
    (s.addTally sc id i n).readyAt = s.readyAt ∧ (s.addTally sc id i n).vstby = s.vstby ∧
    (s.addTally sc id i n).fuses = s.fuses ∧ (s.addTally sc id i n).flash = s.flash ∧
    (s.addTally sc id i n).writing = s.writing ∧ (s.addTally sc id i n).place = s.place ∧
    (s.addTally sc id i n).net = s.net ∧ (s.addTally sc id i n).boot = s.boot ∧
    (s.addTally sc id i n).sel = s.sel ∧ (s.addTally sc id i n).quiet = s.quiet ∧
    (s.addTally sc id i n).active = s.active ∧ (s.addTally sc id i n).shcA = s.shcA ∧
    (s.addTally sc id i n).shcB = s.shcB ∧ (s.addTally sc id i n).mirrorSeq = s.mirrorSeq ∧
    (s.addTally sc id i n).mirrorProbe = s.mirrorProbe ∧ (s.addTally sc id i n).scratch = s.scratch ∧
    (s.addTally sc id i n).sess = s.sess ∧ (s.addTally sc id i n).con0 = s.con0 ∧
    (s.addTally sc id i n).con1 = s.con1 ∧ (s.addTally sc id i n).waits = s.waits ∧
    (s.addTally sc id i n).garp = s.garp ∧ (s.addTally sc id i n).stages = s.stages ∧
    (s.addTally sc id i n).nextStage = s.nextStage ∧ (s.addTally sc id i n).retained = s.retained ∧
    (s.addTally sc id i n).fwUpdate = s.fwUpdate ∧ (s.addTally sc id i n).bellSeq = s.bellSeq ∧
    (s.addTally sc id i n).bells = s.bells ∧ (s.addTally sc id i n).ledgerSeq = s.ledgerSeq ∧
    (s.addTally sc id i n).ledgerHeld = s.ledgerHeld ∧ (s.addTally sc id i n).ledgerStopped = s.ledgerStopped ∧
    (s.addTally sc id i n).ptpPort = s.ptpPort ∧ (s.addTally sc id i n).ptpHeard = s.ptpHeard ∧
    (s.addTally sc id i n).busA = s.busA ∧ (s.addTally sc id i n).busB = s.busB ∧
    (s.addTally sc id i n).shared = s.shared ∧ (s.addTally sc id i n).telem = s.telem ∧
    (s.addTally sc id i n).unreach = s.unreach ∧ (s.addTally sc id i n).refAbsent = s.refAbsent ∧
    (s.addTally sc id i n).refSince = s.refSince ∧ (s.addTally sc id i n).meshLocked = s.meshLocked ∧
    (s.addTally sc id i n).inlet = s.inlet ∧ (s.addTally sc id i n).outlet = s.outlet ∧
    (s.addTally sc id i n).loopSince = s.loopSince ∧ (s.addTally sc id i n).wave = s.wave ∧
    (s.addTally sc id i n).lastWave = s.lastWave ∧ (s.addTally sc id i n).map = s.map ∧
    (s.addTally sc id i n).mapSeq = s.mapSeq ∧ (s.addTally sc id i n).pads = s.pads ∧
    (s.addTally sc id i n).fields = s.fields ∧ (s.addTally sc id i n).links = s.links ∧
    (s.addTally sc id i n).lane0 = s.lane0 ∧ (s.addTally sc id i n).neds = s.neds ∧
    (s.addTally sc id i n).meds = s.meds ∧ (s.addTally sc id i n).spds = s.spds ∧
    (s.addTally sc id i n).nedTemp = s.nedTemp ∧ (s.addTally sc id i n).spdTemp = s.spdTemp ∧
    (s.addTally sc id i n).medTemp = s.medTemp ∧ (s.addTally sc id i n).flockUp = s.flockUp ∧
    (s.addTally sc id i n).flockMembers = s.flockMembers ∧ (s.addTally sc id i n).flockInfo = s.flockInfo ∧
    (s.addTally sc id i n).excludedW = s.excludedW ∧ (s.addTally sc id i n).folds = s.folds ∧
    (s.addTally sc id i n).scrubs = s.scrubs ∧ (s.addTally sc id i n).paused = s.paused ∧
    (s.addTally sc id i n).secondAt = s.secondAt ∧ (s.addTally sc id i n).incCtr = s.incCtr ∧
    (s.addTally sc id i n).channels = s.channels ∧ (s.addTally sc id i n).sessions = s.sessions ∧
    (s.addTally sc id i n).reports = s.reports ∧ (s.addTally sc id i n).notices = s.notices ∧
    (s.addTally sc id i n).wsel = s.wsel ∧ (s.addTally sc id i n).wstat = s.wstat ∧
    (s.addTally sc id i n).shadow = s.shadow ∧ (s.addTally sc id i n).taps = s.taps ∧
    (s.addTally sc id i n).wire = s.wire ∧ (s.addTally sc id i n).pending = s.pending ∧
    (∀ j, (s.addTally sc id i n).pad j = s.pad j) ∧ (∀ j, (s.addTally sc id i n).field j = s.field j) ∧
    (∀ j, (s.addTally sc id i n).ned j = s.ned j) ∧ (∀ j, (s.addTally sc id i n).med j = s.med j) ∧
    (∀ j, (s.addTally sc id i n).spd j = s.spd j) ∧ (∀ j, (s.addTally sc id i n).entry j = s.entry j) ∧
    (∀ j, (s.addTally sc id i n).cs j = s.cs j) ∧ (∀ j, (s.addTally sc id i n).foldOf j = s.foldOf j) ∧
    (∀ j, (s.addTally sc id i n).stOf j = s.stOf j) ∧ (∀ j, (s.addTally sc id i n).session j = s.session j) ∧
    (∀ j, (s.addTally sc id i n).channel j = s.channel j) ∧ (∀ j, (s.addTally sc id i n).shc j = s.shc j) ∧
    ∀ j l, (s.addTally sc id i n).link j l = s.link j l := by
  unfold State.addTally
  split <;> ((repeat' apply And.intro) <;> intros <;> rfl)

@[simp] theorem State.count_fields (s : State) (sc : TScope) (id i : Nat) :
    (s.count sc id i).now = s.now ∧ (s.count sc id i).freeCtr = s.freeCtr ∧
    (s.count sc id i).resetN = s.resetN ∧ (s.count sc id i).pwrFail = s.pwrFail ∧
    (s.count sc id i).pwrFailAt = s.pwrFailAt ∧ (s.count sc id i).frozen = s.frozen ∧
    (s.count sc id i).faultN = s.faultN ∧ (s.count sc id i).alertN = s.alertN ∧
    (s.count sc id i).alertCause = s.alertCause ∧ (s.count sc id i).ready = s.ready ∧
    (s.count sc id i).readyAt = s.readyAt ∧ (s.count sc id i).vstby = s.vstby ∧
    (s.count sc id i).fuses = s.fuses ∧ (s.count sc id i).flash = s.flash ∧
    (s.count sc id i).writing = s.writing ∧ (s.count sc id i).place = s.place ∧ (s.count sc id i).net = s.net ∧
    (s.count sc id i).boot = s.boot ∧ (s.count sc id i).sel = s.sel ∧ (s.count sc id i).quiet = s.quiet ∧
    (s.count sc id i).active = s.active ∧ (s.count sc id i).shcA = s.shcA ∧ (s.count sc id i).shcB = s.shcB ∧
    (s.count sc id i).mirrorSeq = s.mirrorSeq ∧ (s.count sc id i).mirrorProbe = s.mirrorProbe ∧
    (s.count sc id i).scratch = s.scratch ∧ (s.count sc id i).sess = s.sess ∧ (s.count sc id i).con0 = s.con0 ∧
    (s.count sc id i).con1 = s.con1 ∧ (s.count sc id i).waits = s.waits ∧ (s.count sc id i).garp = s.garp ∧
    (s.count sc id i).stages = s.stages ∧ (s.count sc id i).nextStage = s.nextStage ∧
    (s.count sc id i).retained = s.retained ∧ (s.count sc id i).fwUpdate = s.fwUpdate ∧
    (s.count sc id i).bellSeq = s.bellSeq ∧ (s.count sc id i).bells = s.bells ∧
    (s.count sc id i).ledgerSeq = s.ledgerSeq ∧ (s.count sc id i).ledgerHeld = s.ledgerHeld ∧
    (s.count sc id i).ledgerStopped = s.ledgerStopped ∧ (s.count sc id i).ptpPort = s.ptpPort ∧
    (s.count sc id i).ptpHeard = s.ptpHeard ∧ (s.count sc id i).busA = s.busA ∧
    (s.count sc id i).busB = s.busB ∧ (s.count sc id i).shared = s.shared ∧ (s.count sc id i).telem = s.telem ∧
    (s.count sc id i).unreach = s.unreach ∧ (s.count sc id i).refAbsent = s.refAbsent ∧
    (s.count sc id i).refSince = s.refSince ∧ (s.count sc id i).meshLocked = s.meshLocked ∧
    (s.count sc id i).inlet = s.inlet ∧ (s.count sc id i).outlet = s.outlet ∧
    (s.count sc id i).loopSince = s.loopSince ∧ (s.count sc id i).wave = s.wave ∧
    (s.count sc id i).lastWave = s.lastWave ∧ (s.count sc id i).map = s.map ∧
    (s.count sc id i).mapSeq = s.mapSeq ∧ (s.count sc id i).pads = s.pads ∧
    (s.count sc id i).fields = s.fields ∧ (s.count sc id i).links = s.links ∧
    (s.count sc id i).lane0 = s.lane0 ∧ (s.count sc id i).neds = s.neds ∧ (s.count sc id i).meds = s.meds ∧
    (s.count sc id i).spds = s.spds ∧ (s.count sc id i).nedTemp = s.nedTemp ∧
    (s.count sc id i).spdTemp = s.spdTemp ∧ (s.count sc id i).medTemp = s.medTemp ∧
    (s.count sc id i).flockUp = s.flockUp ∧ (s.count sc id i).flockMembers = s.flockMembers ∧
    (s.count sc id i).flockInfo = s.flockInfo ∧ (s.count sc id i).excludedW = s.excludedW ∧
    (s.count sc id i).folds = s.folds ∧ (s.count sc id i).scrubs = s.scrubs ∧
    (s.count sc id i).paused = s.paused ∧ (s.count sc id i).secondAt = s.secondAt ∧
    (s.count sc id i).incCtr = s.incCtr ∧ (s.count sc id i).channels = s.channels ∧
    (s.count sc id i).sessions = s.sessions ∧ (s.count sc id i).reports = s.reports ∧
    (s.count sc id i).notices = s.notices ∧ (s.count sc id i).wsel = s.wsel ∧
    (s.count sc id i).wstat = s.wstat ∧ (s.count sc id i).shadow = s.shadow ∧ (s.count sc id i).taps = s.taps ∧
    (s.count sc id i).wire = s.wire ∧ (s.count sc id i).pending = s.pending ∧
    (∀ j, (s.count sc id i).pad j = s.pad j) ∧ (∀ j, (s.count sc id i).field j = s.field j) ∧
    (∀ j, (s.count sc id i).ned j = s.ned j) ∧ (∀ j, (s.count sc id i).med j = s.med j) ∧
    (∀ j, (s.count sc id i).spd j = s.spd j) ∧ (∀ j, (s.count sc id i).entry j = s.entry j) ∧
    (∀ j, (s.count sc id i).cs j = s.cs j) ∧ (∀ j, (s.count sc id i).foldOf j = s.foldOf j) ∧
    (∀ j, (s.count sc id i).stOf j = s.stOf j) ∧ (∀ j, (s.count sc id i).session j = s.session j) ∧
    (∀ j, (s.count sc id i).channel j = s.channel j) ∧ (∀ j, (s.count sc id i).shc j = s.shc j) ∧
    ∀ j l, (s.count sc id i).link j l = s.link j l := by
  unfold State.count
  (repeat' split) <;> simp

@[simp] theorem State.alert_fields (s : State) (row : Nat) :
    (s.alert row).now = s.now ∧ (s.alert row).freeCtr = s.freeCtr ∧ (s.alert row).resetN = s.resetN ∧
    (s.alert row).pwrFail = s.pwrFail ∧ (s.alert row).pwrFailAt = s.pwrFailAt ∧
    (s.alert row).frozen = s.frozen ∧ (s.alert row).faultN = s.faultN ∧ (s.alert row).ready = s.ready ∧
    (s.alert row).readyAt = s.readyAt ∧ (s.alert row).vstby = s.vstby ∧ (s.alert row).fuses = s.fuses ∧
    (s.alert row).flash = s.flash ∧ (s.alert row).writing = s.writing ∧ (s.alert row).place = s.place ∧
    (s.alert row).net = s.net ∧ (s.alert row).boot = s.boot ∧ (s.alert row).sel = s.sel ∧
    (s.alert row).quiet = s.quiet ∧ (s.alert row).active = s.active ∧ (s.alert row).shcA = s.shcA ∧
    (s.alert row).shcB = s.shcB ∧ (s.alert row).mirrorSeq = s.mirrorSeq ∧
    (s.alert row).mirrorProbe = s.mirrorProbe ∧ (s.alert row).scratch = s.scratch ∧
    (s.alert row).sess = s.sess ∧ (s.alert row).con0 = s.con0 ∧ (s.alert row).con1 = s.con1 ∧
    (s.alert row).waits = s.waits ∧ (s.alert row).garp = s.garp ∧ (s.alert row).stages = s.stages ∧
    (s.alert row).nextStage = s.nextStage ∧ (s.alert row).retained = s.retained ∧
    (s.alert row).fwUpdate = s.fwUpdate ∧ (s.alert row).bellSeq = s.bellSeq ∧ (s.alert row).bells = s.bells ∧
    (s.alert row).ledgerSeq = s.ledgerSeq ∧ (s.alert row).ledgerHeld = s.ledgerHeld ∧
    (s.alert row).ledgerStopped = s.ledgerStopped ∧ (s.alert row).ptpPort = s.ptpPort ∧
    (s.alert row).ptpHeard = s.ptpHeard ∧ (s.alert row).tallies = s.tallies ∧ (s.alert row).busA = s.busA ∧
    (s.alert row).busB = s.busB ∧ (s.alert row).shared = s.shared ∧ (s.alert row).telem = s.telem ∧
    (s.alert row).unreach = s.unreach ∧ (s.alert row).refAbsent = s.refAbsent ∧
    (s.alert row).refSince = s.refSince ∧ (s.alert row).meshLocked = s.meshLocked ∧
    (s.alert row).inlet = s.inlet ∧ (s.alert row).outlet = s.outlet ∧ (s.alert row).loopSince = s.loopSince ∧
    (s.alert row).wave = s.wave ∧ (s.alert row).lastWave = s.lastWave ∧ (s.alert row).map = s.map ∧
    (s.alert row).mapSeq = s.mapSeq ∧ (s.alert row).pads = s.pads ∧ (s.alert row).fields = s.fields ∧
    (s.alert row).links = s.links ∧ (s.alert row).lane0 = s.lane0 ∧ (s.alert row).neds = s.neds ∧
    (s.alert row).meds = s.meds ∧ (s.alert row).spds = s.spds ∧ (s.alert row).nedTemp = s.nedTemp ∧
    (s.alert row).spdTemp = s.spdTemp ∧ (s.alert row).medTemp = s.medTemp ∧ (s.alert row).flockUp = s.flockUp ∧
    (s.alert row).flockMembers = s.flockMembers ∧ (s.alert row).flockInfo = s.flockInfo ∧
    (s.alert row).excludedW = s.excludedW ∧ (s.alert row).folds = s.folds ∧ (s.alert row).scrubs = s.scrubs ∧
    (s.alert row).paused = s.paused ∧ (s.alert row).secondAt = s.secondAt ∧ (s.alert row).incCtr = s.incCtr ∧
    (s.alert row).channels = s.channels ∧ (s.alert row).sessions = s.sessions ∧
    (s.alert row).reports = s.reports ∧ (s.alert row).notices = s.notices ∧ (s.alert row).wsel = s.wsel ∧
    (s.alert row).wstat = s.wstat ∧ (s.alert row).shadow = s.shadow ∧ (s.alert row).taps = s.taps ∧
    (s.alert row).wire = s.wire ∧ (s.alert row).pending = s.pending ∧ (∀ j, (s.alert row).pad j = s.pad j) ∧
    (∀ j, (s.alert row).field j = s.field j) ∧ (∀ j, (s.alert row).ned j = s.ned j) ∧
    (∀ j, (s.alert row).med j = s.med j) ∧ (∀ j, (s.alert row).spd j = s.spd j) ∧
    (∀ j, (s.alert row).entry j = s.entry j) ∧ (∀ j, (s.alert row).cs j = s.cs j) ∧
    (∀ j, (s.alert row).foldOf j = s.foldOf j) ∧ (∀ j, (s.alert row).stOf j = s.stOf j) ∧
    (∀ j, (s.alert row).session j = s.session j) ∧ (∀ j, (s.alert row).channel j = s.channel j) ∧
    (∀ j, (s.alert row).shc j = s.shc j) ∧ ∀ j l, (s.alert row).link j l = s.link j l := by
  (repeat' apply And.intro) <;> intros <;> rfl

@[simp] theorem State.ring_fields (s : State) (obj : String) (fault : Bool) (kv : KVs) :
    (s.ring obj fault kv).now = s.now ∧ (s.ring obj fault kv).freeCtr = s.freeCtr ∧
    (s.ring obj fault kv).resetN = s.resetN ∧ (s.ring obj fault kv).pwrFail = s.pwrFail ∧
    (s.ring obj fault kv).pwrFailAt = s.pwrFailAt ∧ (s.ring obj fault kv).frozen = s.frozen ∧
    (s.ring obj fault kv).faultN = s.faultN ∧ (s.ring obj fault kv).alertN = s.alertN ∧
    (s.ring obj fault kv).alertCause = s.alertCause ∧ (s.ring obj fault kv).ready = s.ready ∧
    (s.ring obj fault kv).readyAt = s.readyAt ∧ (s.ring obj fault kv).vstby = s.vstby ∧
    (s.ring obj fault kv).fuses = s.fuses ∧ (s.ring obj fault kv).writing = s.writing ∧
    (s.ring obj fault kv).place = s.place ∧ (s.ring obj fault kv).net = s.net ∧
    (s.ring obj fault kv).boot = s.boot ∧ (s.ring obj fault kv).sel = s.sel ∧
    (s.ring obj fault kv).quiet = s.quiet ∧ (s.ring obj fault kv).active = s.active ∧
    (s.ring obj fault kv).shcA = s.shcA ∧ (s.ring obj fault kv).shcB = s.shcB ∧
    (s.ring obj fault kv).mirrorSeq = s.mirrorSeq ∧ (s.ring obj fault kv).mirrorProbe = s.mirrorProbe ∧
    (s.ring obj fault kv).scratch = s.scratch ∧ (s.ring obj fault kv).con0 = s.con0 ∧
    (s.ring obj fault kv).con1 = s.con1 ∧ (s.ring obj fault kv).waits = s.waits ∧
    (s.ring obj fault kv).garp = s.garp ∧ (s.ring obj fault kv).stages = s.stages ∧
    (s.ring obj fault kv).nextStage = s.nextStage ∧ (s.ring obj fault kv).retained = s.retained ∧
    (s.ring obj fault kv).fwUpdate = s.fwUpdate ∧ (s.ring obj fault kv).ledgerSeq = s.ledgerSeq ∧
    (s.ring obj fault kv).ledgerHeld = s.ledgerHeld ∧ (s.ring obj fault kv).ledgerStopped = s.ledgerStopped ∧
    (s.ring obj fault kv).ptpPort = s.ptpPort ∧ (s.ring obj fault kv).ptpHeard = s.ptpHeard ∧
    (s.ring obj fault kv).busA = s.busA ∧ (s.ring obj fault kv).busB = s.busB ∧
    (s.ring obj fault kv).shared = s.shared ∧ (s.ring obj fault kv).telem = s.telem ∧
    (s.ring obj fault kv).unreach = s.unreach ∧ (s.ring obj fault kv).refAbsent = s.refAbsent ∧
    (s.ring obj fault kv).refSince = s.refSince ∧ (s.ring obj fault kv).meshLocked = s.meshLocked ∧
    (s.ring obj fault kv).inlet = s.inlet ∧ (s.ring obj fault kv).outlet = s.outlet ∧
    (s.ring obj fault kv).loopSince = s.loopSince ∧ (s.ring obj fault kv).wave = s.wave ∧
    (s.ring obj fault kv).lastWave = s.lastWave ∧ (s.ring obj fault kv).map = s.map ∧
    (s.ring obj fault kv).mapSeq = s.mapSeq ∧ (s.ring obj fault kv).pads = s.pads ∧
    (s.ring obj fault kv).fields = s.fields ∧ (s.ring obj fault kv).links = s.links ∧
    (s.ring obj fault kv).lane0 = s.lane0 ∧ (s.ring obj fault kv).neds = s.neds ∧
    (s.ring obj fault kv).meds = s.meds ∧ (s.ring obj fault kv).spds = s.spds ∧
    (s.ring obj fault kv).nedTemp = s.nedTemp ∧ (s.ring obj fault kv).spdTemp = s.spdTemp ∧
    (s.ring obj fault kv).medTemp = s.medTemp ∧ (s.ring obj fault kv).flockUp = s.flockUp ∧
    (s.ring obj fault kv).flockMembers = s.flockMembers ∧ (s.ring obj fault kv).flockInfo = s.flockInfo ∧
    (s.ring obj fault kv).excludedW = s.excludedW ∧ (s.ring obj fault kv).folds = s.folds ∧
    (s.ring obj fault kv).scrubs = s.scrubs ∧ (s.ring obj fault kv).paused = s.paused ∧
    (s.ring obj fault kv).secondAt = s.secondAt ∧ (s.ring obj fault kv).incCtr = s.incCtr ∧
    (s.ring obj fault kv).channels = s.channels ∧ (s.ring obj fault kv).sessions = s.sessions ∧
    (s.ring obj fault kv).reports = s.reports ∧ (s.ring obj fault kv).notices = s.notices ∧
    (s.ring obj fault kv).wsel = s.wsel ∧ (s.ring obj fault kv).wstat = s.wstat ∧
    (s.ring obj fault kv).shadow = s.shadow ∧ (s.ring obj fault kv).taps = s.taps ∧
    (s.ring obj fault kv).wire = s.wire ∧ (s.ring obj fault kv).pending = s.pending ∧
    (∀ j, (s.ring obj fault kv).pad j = s.pad j) ∧ (∀ j, (s.ring obj fault kv).field j = s.field j) ∧
    (∀ j, (s.ring obj fault kv).ned j = s.ned j) ∧ (∀ j, (s.ring obj fault kv).med j = s.med j) ∧
    (∀ j, (s.ring obj fault kv).spd j = s.spd j) ∧ (∀ j, (s.ring obj fault kv).entry j = s.entry j) ∧
    (∀ j, (s.ring obj fault kv).foldOf j = s.foldOf j) ∧ (∀ j, (s.ring obj fault kv).stOf j = s.stOf j) ∧
    (∀ j, (s.ring obj fault kv).session j = s.session j) ∧
    (∀ j, (s.ring obj fault kv).channel j = s.channel j) ∧ (∀ j, (s.ring obj fault kv).shc j = s.shc j) ∧
    ∀ j l, (s.ring obj fault kv).link j l = s.link j l := by
  unfold State.ring
  split
  · (repeat' apply And.intro) <;> intros <;> rfl
  · (repeat' apply And.intro) <;> (intros; first | rfl | (rw [State.addTally_fields]; done) | (simp; done) | (simp; rfl))

@[simp] theorem State.setShc_fields (s : State) (i : Nat) (x : Shc) :
    (s.setShc i x).now = s.now ∧ (s.setShc i x).freeCtr = s.freeCtr ∧ (s.setShc i x).resetN = s.resetN ∧
    (s.setShc i x).pwrFail = s.pwrFail ∧ (s.setShc i x).pwrFailAt = s.pwrFailAt ∧
    (s.setShc i x).frozen = s.frozen ∧ (s.setShc i x).faultN = s.faultN ∧ (s.setShc i x).alertN = s.alertN ∧
    (s.setShc i x).alertCause = s.alertCause ∧ (s.setShc i x).ready = s.ready ∧
    (s.setShc i x).readyAt = s.readyAt ∧ (s.setShc i x).vstby = s.vstby ∧ (s.setShc i x).fuses = s.fuses ∧
    (s.setShc i x).flash = s.flash ∧ (s.setShc i x).writing = s.writing ∧ (s.setShc i x).place = s.place ∧
    (s.setShc i x).net = s.net ∧ (s.setShc i x).boot = s.boot ∧ (s.setShc i x).sel = s.sel ∧
    (s.setShc i x).quiet = s.quiet ∧ (s.setShc i x).active = s.active ∧
    (s.setShc i x).mirrorSeq = s.mirrorSeq ∧ (s.setShc i x).mirrorProbe = s.mirrorProbe ∧
    (s.setShc i x).scratch = s.scratch ∧ (s.setShc i x).sess = s.sess ∧ (s.setShc i x).con0 = s.con0 ∧
    (s.setShc i x).con1 = s.con1 ∧ (s.setShc i x).waits = s.waits ∧ (s.setShc i x).garp = s.garp ∧
    (s.setShc i x).stages = s.stages ∧ (s.setShc i x).nextStage = s.nextStage ∧
    (s.setShc i x).retained = s.retained ∧ (s.setShc i x).fwUpdate = s.fwUpdate ∧
    (s.setShc i x).bellSeq = s.bellSeq ∧ (s.setShc i x).bells = s.bells ∧
    (s.setShc i x).ledgerSeq = s.ledgerSeq ∧ (s.setShc i x).ledgerHeld = s.ledgerHeld ∧
    (s.setShc i x).ledgerStopped = s.ledgerStopped ∧ (s.setShc i x).ptpPort = s.ptpPort ∧
    (s.setShc i x).ptpHeard = s.ptpHeard ∧ (s.setShc i x).tallies = s.tallies ∧ (s.setShc i x).busA = s.busA ∧
    (s.setShc i x).busB = s.busB ∧ (s.setShc i x).shared = s.shared ∧ (s.setShc i x).telem = s.telem ∧
    (s.setShc i x).unreach = s.unreach ∧ (s.setShc i x).refAbsent = s.refAbsent ∧
    (s.setShc i x).refSince = s.refSince ∧ (s.setShc i x).meshLocked = s.meshLocked ∧
    (s.setShc i x).inlet = s.inlet ∧ (s.setShc i x).outlet = s.outlet ∧
    (s.setShc i x).loopSince = s.loopSince ∧ (s.setShc i x).wave = s.wave ∧
    (s.setShc i x).lastWave = s.lastWave ∧ (s.setShc i x).map = s.map ∧ (s.setShc i x).mapSeq = s.mapSeq ∧
    (s.setShc i x).pads = s.pads ∧ (s.setShc i x).fields = s.fields ∧ (s.setShc i x).links = s.links ∧
    (s.setShc i x).lane0 = s.lane0 ∧ (s.setShc i x).neds = s.neds ∧ (s.setShc i x).meds = s.meds ∧
    (s.setShc i x).spds = s.spds ∧ (s.setShc i x).nedTemp = s.nedTemp ∧ (s.setShc i x).spdTemp = s.spdTemp ∧
    (s.setShc i x).medTemp = s.medTemp ∧ (s.setShc i x).flockUp = s.flockUp ∧
    (s.setShc i x).flockMembers = s.flockMembers ∧ (s.setShc i x).flockInfo = s.flockInfo ∧
    (s.setShc i x).excludedW = s.excludedW ∧ (s.setShc i x).folds = s.folds ∧
    (s.setShc i x).scrubs = s.scrubs ∧ (s.setShc i x).paused = s.paused ∧
    (s.setShc i x).secondAt = s.secondAt ∧ (s.setShc i x).incCtr = s.incCtr ∧
    (s.setShc i x).channels = s.channels ∧ (s.setShc i x).sessions = s.sessions ∧
    (s.setShc i x).reports = s.reports ∧ (s.setShc i x).notices = s.notices ∧ (s.setShc i x).wsel = s.wsel ∧
    (s.setShc i x).wstat = s.wstat ∧ (s.setShc i x).shadow = s.shadow ∧ (s.setShc i x).taps = s.taps ∧
    (s.setShc i x).wire = s.wire ∧ (s.setShc i x).pending = s.pending ∧ (∀ j, (s.setShc i x).pad j = s.pad j) ∧
    (∀ j, (s.setShc i x).field j = s.field j) ∧ (∀ j, (s.setShc i x).ned j = s.ned j) ∧
    (∀ j, (s.setShc i x).med j = s.med j) ∧ (∀ j, (s.setShc i x).spd j = s.spd j) ∧
    (∀ j, (s.setShc i x).entry j = s.entry j) ∧ (∀ j, (s.setShc i x).cs j = s.cs j) ∧
    (∀ j, (s.setShc i x).foldOf j = s.foldOf j) ∧ (∀ j, (s.setShc i x).stOf j = s.stOf j) ∧
    (∀ j, (s.setShc i x).session j = s.session j) ∧ (∀ j, (s.setShc i x).channel j = s.channel j) ∧
    ∀ j l, (s.setShc i x).link j l = s.link j l := by
  unfold State.setShc
  split <;> ((repeat' apply And.intro) <;> intros <;> rfl)

@[simp] theorem State.modShc_fields (s : State) (i : Nat) (f : Shc → Shc) :
    (s.modShc i f).now = s.now ∧ (s.modShc i f).freeCtr = s.freeCtr ∧ (s.modShc i f).resetN = s.resetN ∧
    (s.modShc i f).pwrFail = s.pwrFail ∧ (s.modShc i f).pwrFailAt = s.pwrFailAt ∧
    (s.modShc i f).frozen = s.frozen ∧ (s.modShc i f).faultN = s.faultN ∧ (s.modShc i f).alertN = s.alertN ∧
    (s.modShc i f).alertCause = s.alertCause ∧ (s.modShc i f).ready = s.ready ∧
    (s.modShc i f).readyAt = s.readyAt ∧ (s.modShc i f).vstby = s.vstby ∧ (s.modShc i f).fuses = s.fuses ∧
    (s.modShc i f).flash = s.flash ∧ (s.modShc i f).writing = s.writing ∧ (s.modShc i f).place = s.place ∧
    (s.modShc i f).net = s.net ∧ (s.modShc i f).boot = s.boot ∧ (s.modShc i f).sel = s.sel ∧
    (s.modShc i f).quiet = s.quiet ∧ (s.modShc i f).active = s.active ∧
    (s.modShc i f).mirrorSeq = s.mirrorSeq ∧ (s.modShc i f).mirrorProbe = s.mirrorProbe ∧
    (s.modShc i f).scratch = s.scratch ∧ (s.modShc i f).sess = s.sess ∧ (s.modShc i f).con0 = s.con0 ∧
    (s.modShc i f).con1 = s.con1 ∧ (s.modShc i f).waits = s.waits ∧ (s.modShc i f).garp = s.garp ∧
    (s.modShc i f).stages = s.stages ∧ (s.modShc i f).nextStage = s.nextStage ∧
    (s.modShc i f).retained = s.retained ∧ (s.modShc i f).fwUpdate = s.fwUpdate ∧
    (s.modShc i f).bellSeq = s.bellSeq ∧ (s.modShc i f).bells = s.bells ∧
    (s.modShc i f).ledgerSeq = s.ledgerSeq ∧ (s.modShc i f).ledgerHeld = s.ledgerHeld ∧
    (s.modShc i f).ledgerStopped = s.ledgerStopped ∧ (s.modShc i f).ptpPort = s.ptpPort ∧
    (s.modShc i f).ptpHeard = s.ptpHeard ∧ (s.modShc i f).tallies = s.tallies ∧ (s.modShc i f).busA = s.busA ∧
    (s.modShc i f).busB = s.busB ∧ (s.modShc i f).shared = s.shared ∧ (s.modShc i f).telem = s.telem ∧
    (s.modShc i f).unreach = s.unreach ∧ (s.modShc i f).refAbsent = s.refAbsent ∧
    (s.modShc i f).refSince = s.refSince ∧ (s.modShc i f).meshLocked = s.meshLocked ∧
    (s.modShc i f).inlet = s.inlet ∧ (s.modShc i f).outlet = s.outlet ∧
    (s.modShc i f).loopSince = s.loopSince ∧ (s.modShc i f).wave = s.wave ∧
    (s.modShc i f).lastWave = s.lastWave ∧ (s.modShc i f).map = s.map ∧ (s.modShc i f).mapSeq = s.mapSeq ∧
    (s.modShc i f).pads = s.pads ∧ (s.modShc i f).fields = s.fields ∧ (s.modShc i f).links = s.links ∧
    (s.modShc i f).lane0 = s.lane0 ∧ (s.modShc i f).neds = s.neds ∧ (s.modShc i f).meds = s.meds ∧
    (s.modShc i f).spds = s.spds ∧ (s.modShc i f).nedTemp = s.nedTemp ∧ (s.modShc i f).spdTemp = s.spdTemp ∧
    (s.modShc i f).medTemp = s.medTemp ∧ (s.modShc i f).flockUp = s.flockUp ∧
    (s.modShc i f).flockMembers = s.flockMembers ∧ (s.modShc i f).flockInfo = s.flockInfo ∧
    (s.modShc i f).excludedW = s.excludedW ∧ (s.modShc i f).folds = s.folds ∧
    (s.modShc i f).scrubs = s.scrubs ∧ (s.modShc i f).paused = s.paused ∧
    (s.modShc i f).secondAt = s.secondAt ∧ (s.modShc i f).incCtr = s.incCtr ∧
    (s.modShc i f).channels = s.channels ∧ (s.modShc i f).sessions = s.sessions ∧
    (s.modShc i f).reports = s.reports ∧ (s.modShc i f).notices = s.notices ∧ (s.modShc i f).wsel = s.wsel ∧
    (s.modShc i f).wstat = s.wstat ∧ (s.modShc i f).shadow = s.shadow ∧ (s.modShc i f).taps = s.taps ∧
    (s.modShc i f).wire = s.wire ∧ (s.modShc i f).pending = s.pending ∧ (∀ j, (s.modShc i f).pad j = s.pad j) ∧
    (∀ j, (s.modShc i f).field j = s.field j) ∧ (∀ j, (s.modShc i f).ned j = s.ned j) ∧
    (∀ j, (s.modShc i f).med j = s.med j) ∧ (∀ j, (s.modShc i f).spd j = s.spd j) ∧
    (∀ j, (s.modShc i f).entry j = s.entry j) ∧ (∀ j, (s.modShc i f).cs j = s.cs j) ∧
    (∀ j, (s.modShc i f).foldOf j = s.foldOf j) ∧ (∀ j, (s.modShc i f).stOf j = s.stOf j) ∧
    (∀ j, (s.modShc i f).session j = s.session j) ∧ (∀ j, (s.modShc i f).channel j = s.channel j) ∧
    ∀ j l, (s.modShc i f).link j l = s.link j l := by
  unfold State.modShc
  (repeat' split) <;> simp

@[simp] theorem State.mirror_fields (s : State) :
    (s.mirror).now = s.now ∧ (s.mirror).freeCtr = s.freeCtr ∧ (s.mirror).resetN = s.resetN ∧
    (s.mirror).pwrFail = s.pwrFail ∧ (s.mirror).pwrFailAt = s.pwrFailAt ∧ (s.mirror).frozen = s.frozen ∧
    (s.mirror).faultN = s.faultN ∧ (s.mirror).alertN = s.alertN ∧ (s.mirror).alertCause = s.alertCause ∧
    (s.mirror).ready = s.ready ∧ (s.mirror).readyAt = s.readyAt ∧ (s.mirror).vstby = s.vstby ∧
    (s.mirror).fuses = s.fuses ∧ (s.mirror).flash = s.flash ∧ (s.mirror).writing = s.writing ∧
    (s.mirror).place = s.place ∧ (s.mirror).net = s.net ∧ (s.mirror).boot = s.boot ∧ (s.mirror).sel = s.sel ∧
    (s.mirror).quiet = s.quiet ∧ (s.mirror).active = s.active ∧ (s.mirror).mirrorProbe = s.mirrorProbe ∧
    (s.mirror).scratch = s.scratch ∧ (s.mirror).sess = s.sess ∧ (s.mirror).con0 = s.con0 ∧
    (s.mirror).con1 = s.con1 ∧ (s.mirror).waits = s.waits ∧ (s.mirror).garp = s.garp ∧
    (s.mirror).stages = s.stages ∧ (s.mirror).nextStage = s.nextStage ∧ (s.mirror).retained = s.retained ∧
    (s.mirror).fwUpdate = s.fwUpdate ∧ (s.mirror).bellSeq = s.bellSeq ∧ (s.mirror).bells = s.bells ∧
    (s.mirror).ledgerSeq = s.ledgerSeq ∧ (s.mirror).ledgerHeld = s.ledgerHeld ∧
    (s.mirror).ledgerStopped = s.ledgerStopped ∧ (s.mirror).ptpPort = s.ptpPort ∧
    (s.mirror).ptpHeard = s.ptpHeard ∧ (s.mirror).tallies = s.tallies ∧ (s.mirror).busA = s.busA ∧
    (s.mirror).busB = s.busB ∧ (s.mirror).shared = s.shared ∧ (s.mirror).telem = s.telem ∧
    (s.mirror).unreach = s.unreach ∧ (s.mirror).refAbsent = s.refAbsent ∧ (s.mirror).refSince = s.refSince ∧
    (s.mirror).meshLocked = s.meshLocked ∧ (s.mirror).inlet = s.inlet ∧ (s.mirror).outlet = s.outlet ∧
    (s.mirror).loopSince = s.loopSince ∧ (s.mirror).wave = s.wave ∧ (s.mirror).lastWave = s.lastWave ∧
    (s.mirror).map = s.map ∧ (s.mirror).mapSeq = s.mapSeq ∧ (s.mirror).pads = s.pads ∧
    (s.mirror).fields = s.fields ∧ (s.mirror).links = s.links ∧ (s.mirror).lane0 = s.lane0 ∧
    (s.mirror).neds = s.neds ∧ (s.mirror).meds = s.meds ∧ (s.mirror).spds = s.spds ∧
    (s.mirror).nedTemp = s.nedTemp ∧ (s.mirror).spdTemp = s.spdTemp ∧ (s.mirror).medTemp = s.medTemp ∧
    (s.mirror).flockUp = s.flockUp ∧ (s.mirror).flockMembers = s.flockMembers ∧
    (s.mirror).flockInfo = s.flockInfo ∧ (s.mirror).excludedW = s.excludedW ∧ (s.mirror).folds = s.folds ∧
    (s.mirror).scrubs = s.scrubs ∧ (s.mirror).paused = s.paused ∧ (s.mirror).secondAt = s.secondAt ∧
    (s.mirror).incCtr = s.incCtr ∧ (s.mirror).channels = s.channels ∧ (s.mirror).sessions = s.sessions ∧
    (s.mirror).reports = s.reports ∧ (s.mirror).notices = s.notices ∧ (s.mirror).wsel = s.wsel ∧
    (s.mirror).wstat = s.wstat ∧ (s.mirror).shadow = s.shadow ∧ (s.mirror).taps = s.taps ∧
    (s.mirror).wire = s.wire ∧ (s.mirror).pending = s.pending ∧ (∀ j, (s.mirror).pad j = s.pad j) ∧
    (∀ j, (s.mirror).field j = s.field j) ∧ (∀ j, (s.mirror).ned j = s.ned j) ∧
    (∀ j, (s.mirror).med j = s.med j) ∧ (∀ j, (s.mirror).spd j = s.spd j) ∧
    (∀ j, (s.mirror).entry j = s.entry j) ∧ (∀ j, (s.mirror).cs j = s.cs j) ∧
    (∀ j, (s.mirror).foldOf j = s.foldOf j) ∧ (∀ j, (s.mirror).stOf j = s.stOf j) ∧
    (∀ j, (s.mirror).session j = s.session j) ∧ (∀ j, (s.mirror).channel j = s.channel j) ∧
    ∀ j l, (s.mirror).link j l = s.link j l := by
  unfold State.mirror
  dsimp only
  split
  · (repeat' apply And.intro) <;> intros <;> rfl
  · simp only [apply_ite, State.modShc_fields]
    (repeat' apply And.intro) <;> (intros; first | rfl | (split <;> rfl) | (simp; done) | (simp; rfl) | (split <;> simp <;> rfl))

@[simp] theorem State.modFlash_fields (s : State) (f : Flash → Flash) :
    (s.modFlash f).now = s.now ∧ (s.modFlash f).freeCtr = s.freeCtr ∧ (s.modFlash f).resetN = s.resetN ∧
    (s.modFlash f).pwrFail = s.pwrFail ∧ (s.modFlash f).pwrFailAt = s.pwrFailAt ∧
    (s.modFlash f).frozen = s.frozen ∧ (s.modFlash f).faultN = s.faultN ∧ (s.modFlash f).alertN = s.alertN ∧
    (s.modFlash f).alertCause = s.alertCause ∧ (s.modFlash f).ready = s.ready ∧
    (s.modFlash f).readyAt = s.readyAt ∧ (s.modFlash f).vstby = s.vstby ∧ (s.modFlash f).fuses = s.fuses ∧
    (s.modFlash f).writing = s.writing ∧ (s.modFlash f).place = s.place ∧ (s.modFlash f).net = s.net ∧
    (s.modFlash f).boot = s.boot ∧ (s.modFlash f).sel = s.sel ∧ (s.modFlash f).quiet = s.quiet ∧
    (s.modFlash f).active = s.active ∧ (s.modFlash f).shcA = s.shcA ∧ (s.modFlash f).shcB = s.shcB ∧
    (s.modFlash f).mirrorSeq = s.mirrorSeq ∧ (s.modFlash f).mirrorProbe = s.mirrorProbe ∧
    (s.modFlash f).scratch = s.scratch ∧ (s.modFlash f).sess = s.sess ∧ (s.modFlash f).con0 = s.con0 ∧
    (s.modFlash f).con1 = s.con1 ∧ (s.modFlash f).waits = s.waits ∧ (s.modFlash f).garp = s.garp ∧
    (s.modFlash f).stages = s.stages ∧ (s.modFlash f).nextStage = s.nextStage ∧
    (s.modFlash f).retained = s.retained ∧ (s.modFlash f).fwUpdate = s.fwUpdate ∧
    (s.modFlash f).bellSeq = s.bellSeq ∧ (s.modFlash f).bells = s.bells ∧
    (s.modFlash f).ledgerSeq = s.ledgerSeq ∧ (s.modFlash f).ledgerHeld = s.ledgerHeld ∧
    (s.modFlash f).ledgerStopped = s.ledgerStopped ∧ (s.modFlash f).ptpPort = s.ptpPort ∧
    (s.modFlash f).ptpHeard = s.ptpHeard ∧ (s.modFlash f).tallies = s.tallies ∧ (s.modFlash f).busA = s.busA ∧
    (s.modFlash f).busB = s.busB ∧ (s.modFlash f).shared = s.shared ∧ (s.modFlash f).telem = s.telem ∧
    (s.modFlash f).unreach = s.unreach ∧ (s.modFlash f).refAbsent = s.refAbsent ∧
    (s.modFlash f).refSince = s.refSince ∧ (s.modFlash f).meshLocked = s.meshLocked ∧
    (s.modFlash f).inlet = s.inlet ∧ (s.modFlash f).outlet = s.outlet ∧
    (s.modFlash f).loopSince = s.loopSince ∧ (s.modFlash f).wave = s.wave ∧
    (s.modFlash f).lastWave = s.lastWave ∧ (s.modFlash f).map = s.map ∧ (s.modFlash f).mapSeq = s.mapSeq ∧
    (s.modFlash f).pads = s.pads ∧ (s.modFlash f).fields = s.fields ∧ (s.modFlash f).links = s.links ∧
    (s.modFlash f).lane0 = s.lane0 ∧ (s.modFlash f).neds = s.neds ∧ (s.modFlash f).meds = s.meds ∧
    (s.modFlash f).spds = s.spds ∧ (s.modFlash f).nedTemp = s.nedTemp ∧ (s.modFlash f).spdTemp = s.spdTemp ∧
    (s.modFlash f).medTemp = s.medTemp ∧ (s.modFlash f).flockUp = s.flockUp ∧
    (s.modFlash f).flockMembers = s.flockMembers ∧ (s.modFlash f).flockInfo = s.flockInfo ∧
    (s.modFlash f).excludedW = s.excludedW ∧ (s.modFlash f).folds = s.folds ∧
    (s.modFlash f).scrubs = s.scrubs ∧ (s.modFlash f).paused = s.paused ∧
    (s.modFlash f).secondAt = s.secondAt ∧ (s.modFlash f).incCtr = s.incCtr ∧
    (s.modFlash f).channels = s.channels ∧ (s.modFlash f).sessions = s.sessions ∧
    (s.modFlash f).reports = s.reports ∧ (s.modFlash f).notices = s.notices ∧ (s.modFlash f).wsel = s.wsel ∧
    (s.modFlash f).wstat = s.wstat ∧ (s.modFlash f).shadow = s.shadow ∧ (s.modFlash f).taps = s.taps ∧
    (s.modFlash f).wire = s.wire ∧ (s.modFlash f).pending = s.pending ∧ (∀ j, (s.modFlash f).pad j = s.pad j) ∧
    (∀ j, (s.modFlash f).field j = s.field j) ∧ (∀ j, (s.modFlash f).ned j = s.ned j) ∧
    (∀ j, (s.modFlash f).med j = s.med j) ∧ (∀ j, (s.modFlash f).spd j = s.spd j) ∧
    (∀ j, (s.modFlash f).entry j = s.entry j) ∧ (∀ j, (s.modFlash f).cs j = s.cs j) ∧
    (∀ j, (s.modFlash f).foldOf j = s.foldOf j) ∧ (∀ j, (s.modFlash f).stOf j = s.stOf j) ∧
    (∀ j, (s.modFlash f).session j = s.session j) ∧ (∀ j, (s.modFlash f).channel j = s.channel j) ∧
    (∀ j, (s.modFlash f).shc j = s.shc j) ∧ ∀ j l, (s.modFlash f).link j l = s.link j l := by
  unfold State.modFlash
  split <;> ((repeat' apply And.intro) <;> intros <;> rfl)

@[simp] theorem State.report_fields (s : State) (tr : Trigger) (folds : List Nat) (place : Nat) :
    (s.report tr folds place).now = s.now ∧ (s.report tr folds place).freeCtr = s.freeCtr ∧
    (s.report tr folds place).resetN = s.resetN ∧ (s.report tr folds place).pwrFail = s.pwrFail ∧
    (s.report tr folds place).pwrFailAt = s.pwrFailAt ∧ (s.report tr folds place).frozen = s.frozen ∧
    (s.report tr folds place).alertN = s.alertN ∧ (s.report tr folds place).alertCause = s.alertCause ∧
    (s.report tr folds place).ready = s.ready ∧ (s.report tr folds place).readyAt = s.readyAt ∧
    (s.report tr folds place).vstby = s.vstby ∧ (s.report tr folds place).fuses = s.fuses ∧
    (s.report tr folds place).flash = s.flash ∧ (s.report tr folds place).writing = s.writing ∧
    (s.report tr folds place).place = s.place ∧ (s.report tr folds place).net = s.net ∧
    (s.report tr folds place).boot = s.boot ∧ (s.report tr folds place).sel = s.sel ∧
    (s.report tr folds place).quiet = s.quiet ∧ (s.report tr folds place).active = s.active ∧
    (s.report tr folds place).shcA = s.shcA ∧ (s.report tr folds place).shcB = s.shcB ∧
    (s.report tr folds place).mirrorSeq = s.mirrorSeq ∧ (s.report tr folds place).mirrorProbe = s.mirrorProbe ∧
    (s.report tr folds place).scratch = s.scratch ∧ (s.report tr folds place).sess = s.sess ∧
    (s.report tr folds place).con0 = s.con0 ∧ (s.report tr folds place).con1 = s.con1 ∧
    (s.report tr folds place).waits = s.waits ∧ (s.report tr folds place).garp = s.garp ∧
    (s.report tr folds place).stages = s.stages ∧ (s.report tr folds place).nextStage = s.nextStage ∧
    (s.report tr folds place).retained = s.retained ∧ (s.report tr folds place).fwUpdate = s.fwUpdate ∧
    (s.report tr folds place).bellSeq = s.bellSeq ∧ (s.report tr folds place).bells = s.bells ∧
    (s.report tr folds place).ledgerSeq = s.ledgerSeq ∧ (s.report tr folds place).ledgerHeld = s.ledgerHeld ∧
    (s.report tr folds place).ledgerStopped = s.ledgerStopped ∧ (s.report tr folds place).ptpPort = s.ptpPort ∧
    (s.report tr folds place).ptpHeard = s.ptpHeard ∧ (s.report tr folds place).tallies = s.tallies ∧
    (s.report tr folds place).busA = s.busA ∧ (s.report tr folds place).busB = s.busB ∧
    (s.report tr folds place).shared = s.shared ∧ (s.report tr folds place).telem = s.telem ∧
    (s.report tr folds place).unreach = s.unreach ∧ (s.report tr folds place).refAbsent = s.refAbsent ∧
    (s.report tr folds place).refSince = s.refSince ∧ (s.report tr folds place).meshLocked = s.meshLocked ∧
    (s.report tr folds place).inlet = s.inlet ∧ (s.report tr folds place).outlet = s.outlet ∧
    (s.report tr folds place).loopSince = s.loopSince ∧ (s.report tr folds place).wave = s.wave ∧
    (s.report tr folds place).lastWave = s.lastWave ∧ (s.report tr folds place).map = s.map ∧
    (s.report tr folds place).mapSeq = s.mapSeq ∧ (s.report tr folds place).pads = s.pads ∧
    (s.report tr folds place).fields = s.fields ∧ (s.report tr folds place).links = s.links ∧
    (s.report tr folds place).lane0 = s.lane0 ∧ (s.report tr folds place).neds = s.neds ∧
    (s.report tr folds place).meds = s.meds ∧ (s.report tr folds place).spds = s.spds ∧
    (s.report tr folds place).nedTemp = s.nedTemp ∧ (s.report tr folds place).spdTemp = s.spdTemp ∧
    (s.report tr folds place).medTemp = s.medTemp ∧ (s.report tr folds place).flockUp = s.flockUp ∧
    (s.report tr folds place).flockMembers = s.flockMembers ∧
    (s.report tr folds place).flockInfo = s.flockInfo ∧ (s.report tr folds place).excludedW = s.excludedW ∧
    (s.report tr folds place).folds = s.folds ∧ (s.report tr folds place).scrubs = s.scrubs ∧
    (s.report tr folds place).paused = s.paused ∧ (s.report tr folds place).secondAt = s.secondAt ∧
    (s.report tr folds place).incCtr = s.incCtr ∧ (s.report tr folds place).channels = s.channels ∧
    (s.report tr folds place).sessions = s.sessions ∧ (s.report tr folds place).notices = s.notices ∧
    (s.report tr folds place).wsel = s.wsel ∧ (s.report tr folds place).wstat = s.wstat ∧
    (s.report tr folds place).shadow = s.shadow ∧ (s.report tr folds place).taps = s.taps ∧
    (s.report tr folds place).wire = s.wire ∧ (s.report tr folds place).pending = s.pending ∧
    (∀ j, (s.report tr folds place).pad j = s.pad j) ∧ (∀ j, (s.report tr folds place).field j = s.field j) ∧
    (∀ j, (s.report tr folds place).ned j = s.ned j) ∧ (∀ j, (s.report tr folds place).med j = s.med j) ∧
    (∀ j, (s.report tr folds place).spd j = s.spd j) ∧ (∀ j, (s.report tr folds place).entry j = s.entry j) ∧
    (∀ j, (s.report tr folds place).cs j = s.cs j) ∧ (∀ j, (s.report tr folds place).foldOf j = s.foldOf j) ∧
    (∀ j, (s.report tr folds place).stOf j = s.stOf j) ∧
    (∀ j, (s.report tr folds place).session j = s.session j) ∧
    (∀ j, (s.report tr folds place).channel j = s.channel j) ∧
    (∀ j, (s.report tr folds place).shc j = s.shc j) ∧ ∀ j l, (s.report tr folds place).link j l = s.link j l := by
  unfold State.report
  split <;> ((repeat' apply And.intro) <;> intros <;> rfl)

/-! Reading after a write. -/

@[simp] theorem State.setPad_pad (s : State) (n m : Nat) (p : Paddock) : (s.setPad n p).pad m = if m = n then p else s.pad m := by
  simp [State.setPad, State.pad]

@[simp] theorem State.modPad_pad (s : State) (n m : Nat) (f : Paddock → Paddock) :
    (s.modPad n f).pad m = if m = n then f (s.pad n) else s.pad m := by
  simp [State.modPad]

@[simp] theorem State.setField_field (s : State) (n m : Nat) (x : Field) : (s.setField n x).field m = if m = n then x else s.field m := by
  simp [State.setField, State.field]

@[simp] theorem State.modField_field (s : State) (n m : Nat) (f : Field → Field) :
    (s.modField n f).field m = if m = n then f (s.field n) else s.field m := by
  simp [State.modField]

@[simp] theorem State.setEntry_entry (s : State) (n m : Nat) (e : MapEntry) : (s.setEntry n e).entry m = if m = n then e else s.entry m := by
  simp [State.setEntry, State.entry]

@[simp] theorem State.setNed_ned (s : State) (k j : Nat) (x : Ned) :
    (s.setNed k x).ned j = if j = k ∧ k < s.neds.length then x else s.ned j := by
  unfold State.ned State.setNed
  exact listSet_getD _ _ _ _ _

@[simp] theorem State.modNed_ned (s : State) (k j : Nat) (f : Ned → Ned) :
    (s.modNed k f).ned j = if j = k ∧ k < s.neds.length then f (s.ned k) else s.ned j := by
  simp [State.modNed]

@[simp] theorem State.setMed_med (s : State) (k j : Nat) (x : Med) :
    (s.setMed k x).med j = if j = k ∧ k < s.meds.length then x else s.med j := by
  unfold State.med State.setMed
  exact listSet_getD _ _ _ _ _

@[simp] theorem State.modMed_med (s : State) (k j : Nat) (f : Med → Med) :
    (s.modMed k f).med j = if j = k ∧ k < s.meds.length then f (s.med k) else s.med j := by
  simp [State.modMed]

@[simp] theorem State.setSpd_spd (s : State) (k j : Nat) (x : Spd) :
    (s.setSpd k x).spd j = if j = k ∧ k < s.spds.length then x else s.spd j := by
  unfold State.spd State.setSpd
  exact listSet_getD _ _ _ _ _

@[simp] theorem State.modSpd_spd (s : State) (k j : Nat) (f : Spd → Spd) :
    (s.modSpd k f).spd j = if j = k ∧ k < s.spds.length then f (s.spd k) else s.spd j := by
  simp [State.modSpd]

@[simp] theorem State.setCs_cs (s : State) (i j : Nat) (c : CSess) :
    (s.setCs i c).cs j = if j = i ∧ i < s.sess.length then c else s.cs j := by
  unfold State.cs State.setCs
  exact listSet_getD _ _ _ _ _

@[simp] theorem State.modCs_cs (s : State) (i j : Nat) (f : CSess → CSess) :
    (s.modCs i f).cs j = if j = i ∧ i < s.sess.length then f (s.cs i) else s.cs j := by
  simp [State.modCs]

theorem assoc_set {α : Type} (d : α) (l : List (Nat × α)) (k j : Nat) (v : α) :
    assoc d (assocSet l k v) j = if j = k then v else assoc d l j := by
  unfold assoc assocSet
  induction l with
  | nil => by_cases h : k = j <;> simp [h, eq_comm]
  | cons x xs ih =>
    by_cases a : x.1 = k
    · by_cases h : j = k
      · simpa [List.filter_cons, a, h] using ih
      · have b : ¬x.1 = j := fun c => h (c.symm.trans a)
        have b2 : ¬k = j := fun c => h c.symm
        simpa [List.filter_cons, a, h, b2] using ih
    · by_cases b : x.1 = j
      · have h : ¬j = k := fun c => a (b.trans c)
        simp [List.filter_cons, a, b, h]
      · simpa [List.filter_cons, a, b] using ih

@[simp] theorem State.setLink_link (s : State) (x lane y m : Nat) (l : LinkEnd) :
    (s.setLink x lane l).link y m = if linkKey y m = linkKey x lane then l else s.link y m := by
  simp [State.setLink, State.link, assoc_set]

@[simp] theorem State.modLink_link (s : State) (x lane y m : Nat) (f : LinkEnd → LinkEnd) :
    (s.modLink x lane f).link y m = if linkKey y m = linkKey x lane then f (s.link x lane) else s.link y m := by
  simp [State.modLink]

/-- A fold changed in place: found under its ID as changed, where the change keeps the ID. -/
theorem State.modFold_foldOf (s : State) (id j : Nat) (g : Fold → Fold) (h : ∀ f, (g f).id = f.id) :
    (s.modFold id g).foldOf j = if j = id then (s.foldOf j).map g else s.foldOf j := by
  unfold State.modFold State.foldOf
  induction s.folds with
  | nil => simp
  | cons f fs ih =>
    simp only [List.map_cons, List.find?_cons]
    by_cases a : f.id = id
    · by_cases b : j = id
      · subst b
        simp [a, h]
      · have : ¬id = j := fun c => b c.symm
        simp only [a, if_true, h, this, decide_false, if_false, b] at ih ⊢
        exact ih
    · by_cases b : f.id = j
      · have : ¬j = id := fun c => a (b.trans c)
        simp [a, b, this]
      · simpa [a, b] using ih

/-! Events. -/

/-- An event whose own condition holds, out of reset, has its effect at its moment. -/
theorem State.event_fires {s : State} {t : Time} {c : State → Bool} {f : State → State} (r : s.resetN = false)
    (h : c (s.tick t) = true) : s.event t c f = f (s.tick t) := by
  simp [State.event, State.running, r, h]

end Sys2Proof.Machine
end

