-- ==== Sys2Proof/Laws/Console.lean ====
section
/-! SUPPORT. What a console line that is executed does, and the replies it gets. -/
namespace Sys2Proof.Machine

open Sys2Proof

set_option linter.all false

@[simp] theorem State.atLine_now (s : State) (ln : Ln) : (s.atLine ln).now = max s.now ln.t := by
  unfold State.atLine State.sendBells
  dsimp only
  split <;> rfl

theorem State.hears_lt {s : State} {i : Nat} (h : s.hears i = true) : i < s.sess.length := by
  by_contra c
  have : s.cs i = CSess.initial false := by
    unfold State.cs
    rw [List.getD_eq_default _ _ (by omega)]
  simp [State.hears, this, CSess.initial] at h

theorem State.hears_up {s : State} {i : Nat} (h : s.hears i = true) : (s.cs i).up = true := by
  simp only [State.hears, Bool.and_eq_true] at h
  exact h.1.2

theorem State.hears_running {s : State} {i : Nat} (h : s.hears i = true) : s.resetN = false := by
  simp only [State.hears, Bool.and_eq_true, State.running, Bool.not_eq_true'] at h
  exact h.1.1.1

/-- A line that passes the steps before its command runs the command's body. -/
theorem State.judged_accepts {s : State} {ln : Ln} {need : Level} {boot : Bool} {body : State → State}
    (h : s.accepts ln need boot) : s.judged ln need boot body = body (s.atLine ln) := by
  obtain ⟨h1, h2, ⟨u, l, h3, h4⟩, h5, h6⟩ := h
  have c : ((s.cs ln.sess).crc && !ln.crc) = false := by
    cases e : (s.cs ln.sess).crc
    · rfl
    · simp [h2 e]
  have e3 : ((s.tick ln.t).cs ln.sess) = s.cs ln.sess := rfl
  unfold State.judged
  simp only [h1, e3, c, h3, Bool.not_true, Bool.false_eq_true, if_false, Nat.not_lt.mpr h4]
  have p : (((s.tick ln.t).lineIn ln).sendBells ln.sess).boot = s.boot := by simp
  have q : (!decide ((((s.tick ln.t).lineIn ln).sendBells ln.sess).boot.phase = Phase5.ready) && !boot) = false := by
    rw [p]
    rcases h5 with h5 | h5 <;> simp [h5]
  have m : (((s.tick ln.t).lineIn ln).sendBells ln.sess).me = s.me := by simp [State.me]
  simp only [ne_eq, decide_not, q, Bool.false_eq_true, if_false]
  rcases h6 with h6 | h6
  · rw [h6]; rfl
  · rw [h6]
    simp only [m, if_true]
    rfl

/-- A line of a session verb runs its body. -/
theorem State.sessionVerb_accepts {s : State} {ln : Ln} {body : State → State} (h : s.acceptsVerb ln) :
    s.sessionVerb ln body = body (s.atLine ln) := by
  obtain ⟨h1, h2⟩ := h
  have c : ((s.cs ln.sess).crc && !ln.crc) = false := by
    cases e : (s.cs ln.sess).crc
    · rfl
    · simp [h2 e]
  have e3 : ((s.tick ln.t).cs ln.sess) = s.cs ln.sess := rfl
  unfold State.sessionVerb
  simp [h1, e3, c, State.atLine]

/-- A session that is up and has been sent what it had before and perhaps more. -/
def Speaks (s t : State) (i : Nat) : Prop :=
  i < t.sess.length ∧ (t.cs i).up = true ∧ ∃ pre, (t.cs i).out = (s.cs i).out ++ pre

theorem Speaks.of_cs {s t u : State} {i : Nat} (h : Speaks s t i) (l : u.sess.length = t.sess.length) (e : u.cs i = t.cs i) :
    Speaks s u i := by
  obtain ⟨a, b, p, q⟩ := h
  exact ⟨by omega, by rw [e]; exact b, p, by rw [e]; exact q⟩

theorem Speaks.of_sess {s t u : State} {i : Nat} (h : Speaks s t i) (e : u.sess = t.sess) : Speaks s u i := by
  have c : u.cs i = t.cs i := by simp [State.cs, e]
  exact h.of_cs (by rw [e]) c

theorem State.lineIn_out (s : State) (ln : Ln) (i : Nat) :
    ((s.lineIn ln).cs i).out = (s.cs i).out ∧ ((s.lineIn ln).cs i).up = (s.cs i).up := by
  unfold State.lineIn
  rw [State.modCs_cs]
  split
  · rename_i h
    rw [h.1]
    exact ⟨rfl, rfl⟩
  · exact ⟨rfl, rfl⟩

@[simp] theorem State.setCs_length (s : State) (i : Nat) (c : CSess) : (s.setCs i c).sess.length = s.sess.length :=
  listSet_length _ _ _

@[simp] theorem State.modCs_length (s : State) (i : Nat) (f : CSess → CSess) : (s.modCs i f).sess.length = s.sess.length :=
  listSet_length _ _ _

theorem Speaks.setCs {s t : State} {i : Nat} (h : Speaks s t i) (j : Nat) (c : CSess) (up : c.up = (t.cs j).up)
    (out : ∃ more, c.out = (t.cs j).out ++ more) : Speaks s (t.setCs j c) i := by
  obtain ⟨a, b, p, q⟩ := h
  refine ⟨by simpa using a, ?_⟩
  rw [State.setCs_cs]
  split
  · rename_i e
    obtain ⟨rfl, -⟩ := e
    obtain ⟨more, m⟩ := out
    exact ⟨up.trans b, p ++ more, by rw [m, q, List.append_assoc]⟩
  · exact ⟨b, p, q⟩

theorem Speaks.modCs {s t : State} {i : Nat} (h : Speaks s t i) (j : Nat) (f : CSess → CSess) (up : ∀ c, (f c).up = c.up)
    (out : ∀ c, ∃ more, (f c).out = c.out ++ more) : Speaks s (t.modCs j f) i := h.setCs j _ (up _) (out _)

theorem Speaks.say {s t : State} {i : Nat} (h : Speaks s t i) (j : Nat) (o : Out) : Speaks s (t.say j o) i := by
  unfold State.say
  split
  · exact h.setCs j _ rfl ⟨[o], rfl⟩
  · exact h

theorem Speaks.prompt {s t : State} {i : Nat} (h : Speaks s t i) (j : Nat) : Speaks s (t.prompt j) i := by
  unfold State.prompt
  split
  · exact h.say j _
  · exact h

theorem Speaks.final {s t : State} {i : Nat} (h : Speaks s t i) (j : Nat) (tag : Option (List Byte)) (crc : Bool) (r : RLine) :
    Speaks s (t.final j tag crc r) i := by
  unfold State.final
  refine Speaks.prompt ?_ j
  exact (h.say j _).modCs j _ (fun _ => rfl) fun _ => ⟨[], by simp⟩

theorem Speaks.answer {s t : State} {i : Nat} (h : Speaks s t i) (ln : Ln) (r : RLine) : Speaks s (t.answer ln r) i := by
  cases r
  · exact h.final _ _ _ _
  · exact h.say _ _
  · exact h.final _ _ _ _

theorem Speaks.sendBells {s t : State} {i : Nat} (h : Speaks s t i) (j : Nat) : Speaks s (t.sendBells j) i := by
  unfold State.sendBells
  dsimp only
  split
  · exact h.setCs j _ rfl ⟨_, rfl⟩
  · exact h

theorem Speaks.tick {s : State} {i : Nat} (t : Time) (h : (s.tick t).hears i = true) : Speaks s (s.tick t) i :=
  ⟨State.hears_lt h, State.hears_up h, [], by simp⟩

/-- A session whose line is executed can be answered on the state its command acts on. -/
theorem Speaks.atLine {s : State} {ln : Ln} (h : (s.tick ln.t).hears ln.sess = true) : Speaks s (s.atLine ln) ln.sess := by
  unfold State.atLine
  refine Speaks.sendBells ?_ _
  unfold State.lineIn
  refine Speaks.modCs (t := { s.tick ln.t with waits := (s.tick ln.t).waits.filter fun w => w.sess ≠ ln.sess || w.holds ln.sess }) ?_ _ _
    (fun _ => rfl) fun _ => ⟨[], by simp⟩
  exact (Speaks.tick ln.t h).of_sess rfl

/-- A final line is sent, whatever follows it. -/
theorem Answers.final {s t : State} {ln : Ln} (h : Speaks s t ln.sess) (r : RLine) :
    Answers s (t.final ln.sess ln.tag ln.crc r) ln r := by
  have g : Speaks s ((t.say ln.sess (.line ln.tag ln.crc r)).modCs ln.sess fun c => { c with lastLine := t.now }) ln.sess :=
    (h.say _ _).modCs _ _ (fun _ => rfl) fun _ => ⟨[], by simp⟩
  obtain ⟨a, b, p, q⟩ := h
  have e : (t.say ln.sess (.line ln.tag ln.crc r)) = t.modCs ln.sess fun c => { c with out := c.out ++ [.line ln.tag ln.crc r] } := by
    unfold State.say
    simp [b]
  have f : (((t.say ln.sess (.line ln.tag ln.crc r)).modCs ln.sess fun c => { c with lastLine := t.now }).cs ln.sess).out
      = (s.cs ln.sess).out ++ p ++ [.line ln.tag ln.crc r] := by
    rw [e]
    simp [a, q]
  unfold State.final
  generalize ((t.say ln.sess (.line ln.tag ln.crc r)).modCs ln.sess fun c => { c with lastLine := t.now }) = u at f g ⊢
  have k : Speaks u (u.prompt ln.sess) ln.sess := Speaks.prompt (s := u) (t := u) ⟨g.1, g.2.1, [], by simp⟩ _
  obtain ⟨-, -, after, m⟩ := k
  exact ⟨p, after, by rw [m, f]⟩

theorem Answers.ok {s t : State} {ln : Ln} (h : Speaks s t ln.sess) (kv : KVs) : Answers s (t.ok ln kv) ln (.ok kv) :=
  Answers.final h _

theorem Answers.err {s t : State} {ln : Ln} (h : Speaks s t ln.sess) (code : Nat) (kv : KVs) :
    Answers s (t.err ln code kv) ln (.err code kv) :=
  Answers.final h _

/-- `part` lines, then the final line. -/
theorem Answers.parts {s t : State} {ln : Ln} (h : Speaks s t ln.sess) (ps : List KVs) (kv : KVs) :
    Answers s (t.parts ln ps kv) ln (.ok (kv ++ [("count", .num ps.length)])) := by
  refine Answers.ok ?_ _
  generalize ps = l
  induction l generalizing t with
  | nil => exact h
  | cons x xs ih => exact ih (h.answer ln _)

end Sys2Proof.Machine
end

