-- ==== Sys2Proof/Laws/Ctl.lean ====
section
/-! SUPPORT. The part of the state that only the commands of reset, bring-up, shepherd and settings change. -/
namespace Sys2Proof.Machine

open Sys2Proof

set_option linter.all false

/-- What the operations of folds, dies, links and memory never change. -/
structure Ctl where
  active : Option Nat
  sel : Nat
  quiet : Option Time
  ready : Bool
  readyAt : Time
  boot : Boot
  refAbsent : List Nat
  refSince : Option Time
  meshLocked : Bool
  shared : Bool
  fwUpdate : FwUpdate
  inlet : Option Int
  outlet : Option Int
  stages : List StageBuf
  nextStage : Nat
  garp : Nat
  place : Place
  fuses : Fuses
  scratch : Word
  vstby : Bool
  resetN : Bool
  pwrFail : Bool
  flockMembers : List Nat
  flockUp : Bool

def State.ctl (s : State) : Ctl :=
  ⟨s.active, s.sel, s.quiet, s.ready, s.readyAt, s.boot, s.refAbsent, s.refSince, s.meshLocked, s.shared, s.fwUpdate, s.inlet, s.outlet, s.stages, s.nextStage, s.garp, s.place, s.fuses, s.scratch, s.vstby, s.resetN, s.pwrFail, s.flockMembers, s.flockUp⟩

theorem ctl_mk (now) (freeCtr) (resetN) (pwrFail) (pwrFailAt) (frozen) (faultN) (alertN) (alertCause) (ready)
    (readyAt) (vstby) (fuses) (flash) (writing) (place) (net) (boot) (sel) (quiet) (active) (shcA) (shcB) (mirrorSeq)
    (mirrorProbe) (scratch) (sess) (con0) (con1) (waits) (garp) (stages) (nextStage) (retained) (fwUpdate) (bellSeq)
    (bells) (ledgerSeq) (ledgerHeld) (ledgerStopped) (ptpPort) (ptpHeard) (tallies) (busA) (busB) (shared) (telem)
    (unreach) (refAbsent) (refSince) (meshLocked) (inlet) (outlet) (loopSince) (wave) (lastWave) (map) (mapSeq) (pads)
    (fields) (links) (lane0) (neds) (meds) (spds) (nedTemp) (spdTemp) (medTemp) (flockUp) (flockMembers) (flockInfo)
    (excludedW) (folds) (scrubs) (paused) (secondAt) (incCtr) (channels) (sessions) (reports) (notices) (wsel) (wstat)
    (shadow) (taps) (wire) (pending) : (State.mk now freeCtr resetN pwrFail pwrFailAt frozen faultN alertN alertCause
    ready readyAt vstby fuses flash writing place net boot sel quiet active shcA shcB mirrorSeq mirrorProbe scratch
    sess con0 con1 waits garp stages nextStage retained fwUpdate bellSeq bells ledgerSeq ledgerHeld ledgerStopped
    ptpPort ptpHeard tallies busA busB shared telem unreach refAbsent refSince meshLocked inlet outlet loopSince wave
    lastWave map mapSeq pads fields links lane0 neds meds spds nedTemp spdTemp medTemp flockUp flockMembers flockInfo
    excludedW folds scrubs paused secondAt incCtr channels sessions reports notices wsel wstat shadow taps wire
    pending).ctl = ⟨active, sel, quiet, ready, readyAt, boot, refAbsent, refSince, meshLocked, shared, fwUpdate,
    inlet, outlet, stages, nextStage, garp, place, fuses, scratch, vstby, resetN, pwrFail, flockMembers, flockUp⟩ :=
    rfl

theorem ctl_eqs : (∀ s : State, s.active = s.ctl.active) ∧ (∀ s : State, s.sel = s.ctl.sel) ∧ (∀ s : State, s.quiet =
    s.ctl.quiet) ∧ (∀ s : State, s.ready = s.ctl.ready) ∧ (∀ s : State, s.readyAt = s.ctl.readyAt) ∧ (∀ s : State,
    s.boot = s.ctl.boot) ∧ (∀ s : State, s.refAbsent = s.ctl.refAbsent) ∧ (∀ s : State, s.refSince = s.ctl.refSince) ∧
    (∀ s : State, s.meshLocked = s.ctl.meshLocked) ∧ (∀ s : State, s.shared = s.ctl.shared) ∧ (∀ s : State, s.fwUpdate
    = s.ctl.fwUpdate) ∧ (∀ s : State, s.inlet = s.ctl.inlet) ∧ (∀ s : State, s.outlet = s.ctl.outlet) ∧ (∀ s : State,
    s.stages = s.ctl.stages) ∧ (∀ s : State, s.nextStage = s.ctl.nextStage) ∧ (∀ s : State, s.garp = s.ctl.garp) ∧ (∀
    s : State, s.place = s.ctl.place) ∧ (∀ s : State, s.fuses = s.ctl.fuses) ∧ (∀ s : State, s.scratch =
    s.ctl.scratch) ∧ (∀ s : State, s.vstby = s.ctl.vstby) ∧ (∀ s : State, s.resetN = s.ctl.resetN) ∧ (∀ s : State,
    s.pwrFail = s.ctl.pwrFail) ∧ (∀ s : State, s.flockMembers = s.ctl.flockMembers) ∧ (∀ s : State, s.flockUp =
    s.ctl.flockUp) := by
  (repeat' apply And.intro) <;> intros <;> rfl

@[simp] theorem ite_ctl (c : Prop) [Decidable c] (a b : State) : (if c then a else b).ctl = if c then a.ctl else b.ctl := by
  split <;> rfl

@[simp] theorem foldl_ctl {α : Type} (f : State → α → State) (h : ∀ s a, (f s a).ctl = s.ctl) (l : List α) (s : State) :
    (l.foldl f s).ctl = s.ctl := by
  induction l generalizing s with
  | nil => rfl
  | cons x xs ih => simp [ih, h]

theorem ite_eq_ctl {c : Prop} [Decidable c] {a b : State} {r : Ctl} (ha : a.ctl = r) (hb : b.ctl = r) :
    (if c then a else b).ctl = r := by
  split <;> assumption

theorem wire_ctl (a : State) (w : List Wire) : ({ a with wire := w } : State).ctl = a.ctl := rfl

theorem meds_ctl (a : State) (l : List Med) (h : l.length = a.meds.length) : ({ a with meds := l } : State).ctl = a.ctl := rfl

theorem setFlash_ctl {s : State} (f : Flash) (h : s.frozen = false) : ({ s with flash := f } : State).ctl = s.ctl := rfl

theorem heard_ctl (a : State) (o : Option Time) : ({ a with ptpHeard := o } : State).ctl = a.ctl := rfl

theorem setWriting_ctl {s : State} (w : Option (FlashWork × Time)) (h : s.frozen = false) : ({ s with writing := w } : State).ctl = s.ctl := rfl

@[simp] theorem State.tick_ctl (s : State) (t : Time) : (s.tick t).ctl = s.ctl := rfl

@[simp] theorem State.setPad_ctl (s : State) (n : Nat) (p : Paddock) : (State.setPad s n p).ctl = s.ctl := by
  unfold State.setPad; simp only [State.ctl, Ctl.mk.injEq] <;> simp [↓ctl_mk, ctl_eqs]

@[simp] theorem State.modPad_ctl (s : State) (n : Nat) (f : Paddock → Paddock) : (State.modPad s n f).ctl = s.ctl := by
  simp [State.modPad]

@[simp] theorem State.setField_ctl (s : State) (f : Nat) (x : Field) : (State.setField s f x).ctl = s.ctl := by
  unfold State.setField; simp only [State.ctl, Ctl.mk.injEq] <;> simp [↓ctl_mk, ctl_eqs]

@[simp] theorem State.modField_ctl (s : State) (f : Nat) (g : Field → Field) : (State.modField s f g).ctl = s.ctl := by
  simp [State.modField]

@[simp] theorem State.setNed_ctl (s : State) (k : Nat) (x : Ned) : (State.setNed s k x).ctl = s.ctl := by
  unfold State.setNed; simp only [State.ctl, Ctl.mk.injEq] <;> simp [↓ctl_mk, ctl_eqs]

@[simp] theorem State.modNed_ctl (s : State) (k : Nat) (f : Ned → Ned) : (State.modNed s k f).ctl = s.ctl := by
  simp [State.modNed]

@[simp] theorem State.setMed_ctl (s : State) (k : Nat) (x : Med) : (State.setMed s k x).ctl = s.ctl := by
  unfold State.setMed; simp only [State.ctl, Ctl.mk.injEq] <;> simp [↓ctl_mk, ctl_eqs]

@[simp] theorem State.modMed_ctl (s : State) (k : Nat) (f : Med → Med) : (State.modMed s k f).ctl = s.ctl := by
  simp [State.modMed]

@[simp] theorem State.setSpd_ctl (s : State) (k : Nat) (x : Spd) : (State.setSpd s k x).ctl = s.ctl := by
  unfold State.setSpd; simp only [State.ctl, Ctl.mk.injEq] <;> simp [↓ctl_mk, ctl_eqs]

@[simp] theorem State.modSpd_ctl (s : State) (k : Nat) (f : Spd → Spd) : (State.modSpd s k f).ctl = s.ctl := by
  simp [State.modSpd]

@[simp] theorem State.setShc_ctl (s : State) (i : Nat) (x : Shc) : (State.setShc s i x).ctl = s.ctl := by
  unfold State.setShc; simp only [State.ctl, Ctl.mk.injEq] <;> simp [↓ctl_mk, ctl_eqs]

@[simp] theorem State.modFlash_ctl (s : State) (f : Flash → Flash) : (s.modFlash f).ctl = s.ctl := by
  unfold State.modFlash
  split
  · rfl
  · rename_i h
    exact setFlash_ctl _ (by simpa using h)

@[simp] theorem State.modShc_ctl (s : State) (i : Nat) (f : Shc → Shc) : (State.modShc s i f).ctl = s.ctl := by
  simp [State.modShc]

@[simp] theorem State.setLink_ctl (s : State) (x lane : Nat) (l : LinkEnd) : (State.setLink s x lane l).ctl = s.ctl := by
  unfold State.setLink; simp only [State.ctl, Ctl.mk.injEq] <;> simp [↓ctl_mk, ctl_eqs]

@[simp] theorem State.modLink_ctl (s : State) (x lane : Nat) (f : LinkEnd → LinkEnd) : (State.modLink s x lane f).ctl = s.ctl := by
  simp [State.modLink]

@[simp] theorem State.setEntry_ctl (s : State) (n : Nat) (e : MapEntry) : (State.setEntry s n e).ctl = s.ctl := by
  unfold State.setEntry; simp only [State.ctl, Ctl.mk.injEq] <;> simp [↓ctl_mk, ctl_eqs]

@[simp] theorem State.putFold_ctl (s : State) (f : Fold) : (State.putFold s f).ctl = s.ctl := by
  unfold State.putFold; simp only [State.ctl, Ctl.mk.injEq] <;> simp [↓ctl_mk, ctl_eqs]

@[simp] theorem State.modFold_ctl (s : State) (id : Nat) (g : Fold → Fold) : (State.modFold s id g).ctl = s.ctl := by
  unfold State.modFold; simp only [State.ctl, Ctl.mk.injEq] <;> simp [↓ctl_mk, ctl_eqs]

@[simp] theorem State.setSession_ctl (s : State) (num : Nat) (x : Session) : (State.setSession s num x).ctl = s.ctl := by
  unfold State.setSession; simp only [State.ctl, Ctl.mk.injEq] <;> simp [↓ctl_mk, ctl_eqs]

@[simp] theorem State.putChannel_ctl (s : State) (c : Channel) : (State.putChannel s c).ctl = s.ctl := by
  unfold State.putChannel; simp only [State.ctl, Ctl.mk.injEq] <;> simp [↓ctl_mk, ctl_eqs]

@[simp] theorem State.addTally_ctl (s : State) (scope : TScope) (id idx n : Nat) : (State.addTally s scope id idx n).ctl = s.ctl := by
  unfold State.addTally; simp only [State.ctl, Ctl.mk.injEq] <;> simp [↓ctl_mk, ctl_eqs]

@[simp] theorem State.count_ctl (s : State) (scope : TScope) (id idx : Nat) : (State.count s scope id idx).ctl = s.ctl := by
  simp [State.count]

@[simp] theorem State.noteStray_ctl (s : State) (fold : Nat) : (State.noteStray s fold).ctl = s.ctl := by
  simp [State.noteStray]

@[simp] theorem State.countChan_ctl (s : State) (ned bind handle idx n : Nat) : (State.countChan s ned bind handle idx n).ctl = s.ctl := by
  simp [State.countChan]

@[simp] theorem State.clearTallies_ctl (s : State) (scope : TScope) (id : Nat) : (State.clearTallies s scope id).ctl = s.ctl := by
  unfold State.clearTallies; simp only [State.ctl, Ctl.mk.injEq] <;> simp [↓ctl_mk, ctl_eqs]

@[simp] theorem State.setFoldSt_ctl (s : State) (id : Nat) (st : FoldState) : (State.setFoldSt s id st).ctl = s.ctl := by
  unfold State.setFoldSt; simp only [State.ctl, Ctl.mk.injEq] <;> simp [↓ctl_mk, ctl_eqs]

@[simp] theorem State.markThrottle_ctl (s : State) (fld : Nat) : (State.markThrottle s fld).ctl = s.ctl := by
  unfold State.markThrottle; simp only [State.ctl, Ctl.mk.injEq] <;> simp [↓ctl_mk, ctl_eqs]

@[simp] theorem State.ring_ctl (s : State) (obj : String) (fault : Bool) (kv : KVs) : (s.ring obj fault kv).ctl = s.ctl := by
  unfold State.ring
  split
  · rfl
  · exact (State.addTally_ctl _ _ _ _ _).trans rfl

@[simp] theorem State.alert_ctl (s : State) (row : Nat) : (State.alert s row).ctl = s.ctl := by
  unfold State.alert; simp only [State.ctl, Ctl.mk.injEq] <;> simp [↓ctl_mk, ctl_eqs]

@[simp] theorem State.report_ctl (s : State) (tr : Trigger) (folds : List Nat) (place : Nat) : (State.report s tr folds place).ctl = s.ctl := by
  unfold State.report; simp only [State.ctl, Ctl.mk.injEq] <;> simp [↓ctl_mk, ctl_eqs]

@[simp] theorem State.stepClock_ctl (s : State) (n x : Nat) : (State.stepClock s n x).ctl = s.ctl := by
  simp [State.stepClock]

@[simp] theorem State.goDark_ctl (s : State) (n : Nat) : (State.goDark s n).ctl = s.ctl := by
  unfold State.goDark; simp only [State.ctl, Ctl.mk.injEq] <;> simp [↓ctl_mk, ctl_eqs]

@[simp] theorem State.enqueueWave_ctl (s : State) (n : Nat) (goal : Power) : (State.enqueueWave s n goal).ctl = s.ctl := by
  unfold State.enqueueWave; simp only [State.ctl, Ctl.mk.injEq] <;> simp [↓ctl_mk, ctl_eqs]

@[simp] theorem State.dissolveYoke_ctl (s : State) (n : Nat) : (State.dissolveYoke s n).ctl = s.ctl := by
  simp [State.dissolveYoke]

@[simp] theorem State.markHole_ctl (s : State) (n cause : Nat) (quiet : Bool) : (State.markHole s n cause quiet).ctl = s.ctl := by
  unfold State.markHole; simp only [State.ctl, Ctl.mk.injEq] <;> simp [↓ctl_mk, ctl_eqs]

@[simp] theorem State.endRun_ctl (s : State) (n : Nat) : (State.endRun s n).ctl = s.ctl := by
  simp [State.endRun]

@[simp] theorem State.dieBell_ctl (s : State) (obj : String) (k cause : Nat) : (State.dieBell s obj k cause).ctl = s.ctl := by
  unfold State.dieBell; simp only [State.ctl, Ctl.mk.injEq] <;> simp [↓ctl_mk, ctl_eqs]

@[simp] theorem State.reinject_ctl (s : State) : (State.reinject s).ctl = s.ctl := by
  simp [State.reinject]

@[simp] theorem State.pmbus_ctl (s : State) (addr page cmd data : Nat) : (State.pmbus s addr page cmd data).ctl = s.ctl := by
  unfold State.pmbus; simp only [State.ctl, Ctl.mk.injEq] <;> simp [↓ctl_mk, ctl_eqs]

/-- What an event leaves alone, its moment aside. -/
theorem State.event_ctl (s : State) (t : Time) (c : State → Bool) (f : State → State)
    (h : c (s.tick t) = true → (f (s.tick t)).ctl = s.ctl) : (s.event t c f).ctl = s.ctl := by
  unfold State.event
  split
  · rename_i g
    exact h (by simpa using (Bool.and_eq_true _ _ ▸ g).2)
  · rfl

@[simp] theorem State.draw_ctl (s : State) : s.draw.2.ctl = s.ctl := rfl

@[simp] theorem drawBytes_ctl (n : Nat) (s : State) : (drawBytes n s).2.ctl = s.ctl := by
  induction n generalizing s with
  | zero => rfl
  | succ n ih => exact ih _

@[simp] theorem State.tapTest_ctl (s : State) (d : Nat) : (State.tapTest s d).ctl = s.ctl := by
  unfold State.tapTest
  (repeat' split) <;> first | (simp; done) | (simp only [State.ctl, Ctl.mk.injEq] <;> simp [↓ctl_mk, ctl_eqs])

@[simp] theorem State.ack_ctl (s : State) : (State.ack s).ctl = s.ctl := by
  unfold State.ack; simp only [State.ctl, Ctl.mk.injEq] <;> simp [↓ctl_mk, ctl_eqs]

@[simp] theorem State.setCs_ctl (s : State) (i : Nat) (c : CSess) : (State.setCs s i c).ctl = s.ctl := by
  unfold State.setCs; simp only [State.ctl, Ctl.mk.injEq] <;> simp [↓ctl_mk, ctl_eqs]

@[simp] theorem State.modCs_ctl (s : State) (i : Nat) (f : CSess → CSess) : (State.modCs s i f).ctl = s.ctl := by
  simp [State.modCs]

@[simp] theorem State.say_ctl (s : State) (i : Nat) (o : Out) : (State.say s i o).ctl = s.ctl := by
  simp [State.say]

@[simp] theorem State.prompt_ctl (s : State) (i : Nat) : (State.prompt s i).ctl = s.ctl := by
  simp [State.prompt]

@[simp] theorem State.final_ctl (s : State) (i : Nat) (tag : Option (List Byte)) (crc : Bool) (r : RLine) : (State.final s i tag crc r).ctl = s.ctl := by
  simp [State.final]

@[simp] theorem State.answer_ctl (s : State) (ln : Ln) (r : RLine) : (State.answer s ln r).ctl = s.ctl := by
  unfold State.answer
  (repeat' split) <;> simp

@[simp] theorem State.ok_ctl (s : State) (ln : Ln) (kv : KVs) : (State.ok s ln kv).ctl = s.ctl := by
  simp [State.ok]

@[simp] theorem State.err_ctl (s : State) (ln : Ln) (code : Nat) (kv : KVs) : (State.err s ln code kv).ctl = s.ctl := by
  simp [State.err]

@[simp] theorem State.parts_ctl (s : State) (ln : Ln) (ps : List KVs) (kv : KVs) : (State.parts s ln ps kv).ctl = s.ctl := by
  simp [State.parts]

@[simp] theorem State.refuse_ctl (s : State) (ln : Ln) (why : String) : (State.refuse s ln why).ctl = s.ctl := by
  simp [State.refuse]

@[simp] theorem State.sendBells_ctl (s : State) (i : Nat) : (State.sendBells s i).ctl = s.ctl := by
  simp [State.sendBells]

@[simp] theorem State.lineIn_ctl (s : State) (ln : Ln) : (State.lineIn s ln).ctl = s.ctl := by
  unfold State.lineIn; simp only [State.ctl, Ctl.mk.injEq] <;> simp [↓ctl_mk, ctl_eqs]

@[simp] theorem State.await_ctl (s : State) (ln : Ln) (w : WaitFor) : (State.await s ln w).ctl = s.ctl := by
  unfold State.await; simp only [State.ctl, Ctl.mk.injEq] <;> simp [↓ctl_mk, ctl_eqs]

/-- A console command leaves the core alone, its moment aside, when its body does. -/
theorem State.judged_ctl (s : State) (ln : Ln) (need : Level) (boot : Bool) (body : State → State)
    (h : ∀ u : State, (body u).ctl = u.ctl) : (s.judged ln need boot body).ctl = s.ctl := by
  unfold State.judged
  dsimp only
  (repeat' split) <;> first | rfl | (simp [h]; done) | (simp only [State.ctl, Ctl.mk.injEq] <;> simp [↓ctl_mk, ctl_eqs])

theorem State.sessionVerb_ctl (s : State) (ln : Ln) (body : State → State)
    (h : ∀ u : State, (body u).ctl = u.ctl) : (s.sessionVerb ln body).ctl = s.ctl := by
  unfold State.sessionVerb
  (repeat' split) <;> first | rfl | (simp [h]; done)

@[simp] theorem State.settle_ctl (s : State) (p : WaitFor → Bool) (r : RLine) : (State.settle s p r).ctl = s.ctl := by
  unfold State.settle; simp only [State.ctl, Ctl.mk.injEq] <;> simp [↓ctl_mk, ctl_eqs]

@[simp] theorem State.mirror_ctl (s : State) : (State.mirror s).ctl = s.ctl := by
  unfold State.mirror
  (repeat' split) <;> first | (simp; done) | (simp only [State.ctl, Ctl.mk.injEq] <;> simp [↓ctl_mk, ctl_eqs])

@[simp] theorem State.flashErr_ctl (s : State) (ln : Ln) (region : String) : (State.flashErr s ln region).ctl = s.ctl := by
  simp [State.flashErr]

@[simp] theorem State.inRange_ctl (s : State) (ln : Ln) (key : String) (x lo hi : Nat) (body : State → State)
    (h : (body s).ctl = s.ctl) : (s.inRange ln key x lo hi body).ctl = s.ctl := by
  unfold State.inRange
  split <;> simp [h]

@[simp] theorem State.onFold_ctl (s : State) (ln : Ln) (id : Nat) (body : Fold → State)
    (h : ∀ f, (body f).ctl = s.ctl) : (s.onFold ln id body).ctl = s.ctl := by
  unfold State.onFold
  split <;> simp [h]

@[simp] theorem State.writeMap_ctl (s : State) (full ok : Bool) : (s.writeMap full ok).ctl = s.ctl := by
  unfold State.writeMap
  split
  · rfl
  · rename_i h
    simp only [Bool.or_eq_true, not_or, Bool.not_eq_true] at h
    simp [State.ctl, heldFlash, h.1]

@[simp] theorem State.writeMapAlone_ctl (s : State) : s.writeMapAlone.ctl = s.ctl := by
  unfold State.writeMapAlone
  split
  · rfl
  · rename_i h
    exact (setWriting_ctl _ ((frozen_of_core (State.writeMap_core _ _ _)).trans (by simpa using h))).trans (State.writeMap_ctl _ _ _)

@[simp] theorem State.cutFlash_ctl (s : State) : s.cutFlash.ctl = s.ctl := rfl

@[simp] theorem State.shcDoubt_ctl (s : State) (i cause : Nat) : (State.shcDoubt s i cause).ctl = s.ctl := by
  unfold State.shcDoubt; simp only [State.ctl, Ctl.mk.injEq] <;> simp [↓ctl_mk, ctl_eqs]

@[simp] theorem State.takeoverBell_ctl (s : State) (i : Nat) : (State.takeoverBell s i).ctl = s.ctl := by
  simp [State.takeoverBell]

@[simp] theorem State.syncCredits_ctl (s : State) (x lane : Nat) : (State.syncCredits s x lane).ctl = s.ctl := by
  unfold State.syncCredits
  (repeat' split) <;> simp

@[simp] theorem State.syncBorders_ctl (s : State) (n : Nat) : (State.syncBorders s n).ctl = s.ctl := by
  unfold State.syncBorders
  dsimp only
  (repeat' split) <;> first | rfl | (simp (disch := (intros; (repeat' split) <;> simp)); done) | (simp only [State.ctl, Ctl.mk.injEq] <;> simp (disch := (intros; (repeat' split) <;> simp)) [↓ctl_mk, ctl_eqs])

@[simp] theorem State.reroute_ctl (s : State) (x lane : Nat) : (State.reroute s x lane).ctl = s.ctl := by
  unfold State.reroute
  dsimp only
  (repeat' split) <;> first | rfl | (simp (disch := (intros; (repeat' split) <;> simp)); done) | (simp only [State.ctl, Ctl.mk.injEq] <;> simp (disch := (intros; (repeat' split) <;> simp)) [↓ctl_mk, ctl_eqs])

@[simp] theorem State.downSide_ctl (s : State) (x lane : Nat) (acc : BitVec 5) : (State.downSide s x lane acc).ctl = s.ctl := by
  simp [State.downSide]

@[simp] theorem State.sendSys_ctl (s : State) (u : Nat) (f : Flit) : (State.sendSys s u f).ctl = s.ctl := by
  simp [State.sendSys]

@[simp] theorem State.reportFrom_ctl (s : State) (u : Nat) (tr : Trigger) (folds : List Nat) (place : Nat) : (State.reportFrom s u tr folds place).ctl = s.ctl := by
  simp [State.reportFrom]

@[simp] theorem State.pickDetours_ctl (s : State) (was : List (Nat × Nat × List Nat)) : (State.pickDetours s was).ctl = s.ctl := by
  unfold State.pickDetours
  dsimp only
  (repeat' split) <;> first | rfl | (simp (disch := (intros; (repeat' split) <;> simp)); done) | (simp only [State.ctl, Ctl.mk.injEq] <;> simp (disch := (intros; (repeat' split) <;> simp)) [↓ctl_mk, ctl_eqs])

@[simp] theorem State.laneDown_ctl (s : State) (x lane cause : Nat) : (State.laneDown s x lane cause).ctl = s.ctl := by
  unfold State.laneDown
  (repeat' split) <;> first | (simp; done) | (simp only [State.ctl, Ctl.mk.injEq] <;> simp [↓ctl_mk, ctl_eqs])

@[simp] theorem State.sessMod_ctl (s : State) (r : Req) (f : Session → Session) : (State.sessMod s r f).ctl = s.ctl := by
  unfold State.sessMod
  (repeat' split) <;> simp

@[simp] theorem State.nedSend_ctl (s : State) (k e : Nat) (fs : List Flit) : (State.nedSend s k e fs).ctl = s.ctl := by
  unfold State.nedSend
  (repeat' split) <;> simp

@[simp] theorem State.sendBell_ctl (s : State) (k eport fold old incoming count : Nat) (im : Image) (d : Nat × Nat × Nat) : (State.sendBell s k eport fold old incoming count im d).ctl = s.ctl := by
  simp [State.sendBell]

@[simp] theorem State.closeBatch_ctl (s : State) (k : Nat) (b : Binding) (f : Fold) : (State.closeBatch s k b f).ctl = s.ctl := by
  unfold State.closeBatch
  (repeat' split) <;> simp

@[simp] theorem State.countReq_ctl (s : State) (k : Nat) (r : Req) (idx n : Nat) : (State.countReq s k r idx n).ctl = s.ctl := by
  simp [State.countReq]

theorem State.withTag_ctl {s s0 : State} {k : Nat} {r x : Req} (h : s.withTag k r = some (x, s0)) : s0.ctl = s.ctl := by
  simp only [State.withTag, Option.map_eq_some_iff, Prod.mk.injEq] at h
  obtain ⟨_, _, _, rfl⟩ := h
  simp

@[simp] theorem State.intoWafer_ctl (s : State) (k : Nat) (r : Req) (rerun : Bool) : (s.intoWafer k r rerun).ctl = s.ctl := by
  unfold State.intoWafer
  split
  · rename_i h _
    simp only [State.closeBatch_ctl, State.nedSend_ctl]
    split <;> simp [State.withTag_ctl h]
  · simp

@[simp] theorem State.countReply_ctl (s : State) (k : Nat) (r : Req) (back : Bool) : (State.countReply s k r back).ctl = s.ctl := by
  unfold State.countReply
  (repeat' split) <;> simp

@[simp] theorem State.endReq_ctl (s : State) (k : Nat) (r : Req) : (State.endReq s k r).ctl = s.ctl := by
  simp [State.endReq]

@[simp] theorem State.closeTag_ctl (s : State) (k : Nat) (r : Req) (stray : Bool) : (State.closeTag s k r stray).ctl = s.ctl := by
  simp [State.closeTag]

@[simp] theorem State.releaseFcs_ctl (s : State) (k : Nat) (r : Req) : (State.releaseFcs s k r).ctl = s.ctl := by
  unfold State.releaseFcs; simp only [State.ctl, Ctl.mk.injEq] <;> simp [↓ctl_mk, ctl_eqs]

@[simp] theorem State.startReply_ctl (s : State) (k : Nat) (r : Req) (rep : Reply) (at_ : Time) : (State.startReply s k r rep at_).ctl = s.ctl := by
  unfold State.startReply; simp only [State.ctl, Ctl.mk.injEq] <;> simp [↓ctl_mk, ctl_eqs]

@[simp] theorem State.compose_ctl (s : State) (k : Nat) (r : Req) (rep : Reply) : (State.compose s k r rep).ctl = s.ctl := by
  unfold State.compose
  dsimp only
  (repeat' split) <;> simp

@[simp] theorem State.stomp_ctl (s : State) (k : Nat) (r : Req) (whole : Bool) : (State.stomp s k r whole).ctl = s.ctl := by
  unfold State.stomp; simp only [State.ctl, Ctl.mk.injEq] <;> simp [↓ctl_mk, ctl_eqs]

@[simp] theorem State.unsend_ctl (s : State) (k : Nat) (r : Req) : (State.unsend s k r).ctl = s.ctl := by
  unfold State.unsend; simp only [State.ctl, Ctl.mk.injEq] <;> simp [↓ctl_mk, ctl_eqs]

@[simp] theorem State.stompSent_ctl (s : State) (k : Nat) (r : Req) : (State.stompSent s k r).ctl = s.ctl := by
  simp [State.stompSent]

@[simp] theorem State.refuseReq_ctl (s : State) (k : Nat) (r : Req) (reason : Nat) : (State.refuseReq s k r reason).ctl = s.ctl := by
  simp [State.refuseReq]

@[simp] theorem State.dropReq_ctl (s : State) (k : Nat) (r : Req) : (State.dropReq s k r).ctl = s.ctl := by
  simp [State.dropReq]

@[simp] theorem State.penIn_ctl (s : State) (k : Nat) (r : Req) : (s.penIn k r).ctl = s.ctl := by
  unfold State.penIn
  dsimp only
  split
  · simp
  · split
    · rename_i h
      simp [State.withTag_ctl h]
    · simp

@[simp] theorem State.paidIn_ctl (s : State) (k : Nat) (r : Req) (src : TokenSrc) : (State.paidIn s k r src).ctl = s.ctl := by
  simp [State.paidIn]

@[simp] theorem State.gateWalk_ctl (s : State) (k : Nat) (r : Req) : (State.gateWalk s k r).ctl = s.ctl := by
  unfold State.gateWalk
  (repeat' split) <;> simp

@[simp] theorem State.unclaim_ctl (s : State) (k : Nat) (y : Req) : (s.unclaim k y).ctl = s.ctl := by
  unfold State.unclaim
  dsimp only
  (repeat' split) <;> simp

@[simp] theorem State.gates_ctl (s : State) (k : Nat) (r : Req) : (s.gates k r).ctl = s.ctl := by
  unfold State.gates
  split <;> simp

@[simp] theorem State.sessionAdmit_ctl (s : State) (k : Nat) (r : Req) : (State.sessionAdmit s k r).ctl = s.ctl := by
  unfold State.sessionAdmit
  (repeat' split) <;> simp

@[simp] theorem State.letIn_ctl (s : State) (k : Nat) (r : Req) : (State.letIn s k r).ctl = s.ctl := by
  unfold State.letIn
  dsimp only
  (repeat' split) <;> simp

@[simp] theorem State.classifyReq_ctl (s : State) (k : Nat) (r : Req) : (State.classifyReq s k r).ctl = s.ctl := by
  unfold State.classifyReq
  dsimp only
  (repeat' split) <;> simp

@[simp] theorem State.afresh_ctl (s : State) (k : Nat) (r : Req) : (State.afresh s k r).ctl = s.ctl := by
  simp [State.afresh]

@[simp] theorem State.rerun_ctl (s : State) (k : Nat) (r : Req) : (State.rerun s k r).ctl = s.ctl := by
  simp [State.rerun]

@[simp] theorem State.holdRun_ctl (s : State) (k : Nat) (r : Req) : (State.holdRun s k r).ctl = s.ctl := by
  simp [State.holdRun]

@[simp] theorem State.resume_ctl (s : State) (k : Nat) (r : Req) : (State.resume s k r).ctl = s.ctl := by
  simp [State.resume]

@[simp] theorem State.proceed_ctl (s : State) (k : Nat) (r : Req) : (State.proceed s k r).ctl = s.ctl := by
  unfold State.proceed
  dsimp only
  (repeat' split) <;> simp

@[simp] theorem State.judgeBad_ctl (s : State) (k : Nat) (r : Req) (whole : Bool) : (State.judgeBad s k r whole).ctl = s.ctl := by
  simp [State.judgeBad]

@[simp] theorem State.groupVerdict_ctl (s : State) (k : Nat) (r : Req) (fixes : List (Nat × Byte)) (uncorrectable : Bool) : (State.groupVerdict s k r fixes uncorrectable).ctl = s.ctl := by
  unfold State.groupVerdict
  dsimp only
  (repeat' split) <;> simp

@[simp] theorem State.fcsVerdict_ctl (s : State) (k : Nat) (r : Req) (good : Bool) : (State.fcsVerdict s k r good).ctl = s.ctl := by
  simp [State.fcsVerdict]

@[simp] theorem State.frameTail_ctl (s : State) (k : Nat) (r : Req) : (State.frameTail s k r).ctl = s.ctl := by
  simp [State.frameTail]

@[simp] theorem State.breakStream_ctl (s : State) (k : Nat) (r : Req) : (State.breakStream s k r).ctl = s.ctl := by
  simp [State.breakStream]

@[simp] theorem State.verdictOn_ctl (s : State) (k : Nat) (r : Req) (v : Verdict) : (State.verdictOn s k r v).ctl = s.ctl := by
  unfold State.verdictOn
  (repeat' split) <;> simp

@[simp] theorem State.hear_ctl (s : State) (k fid : Nat) (v : Verdict) : (State.hear s k fid v).ctl = s.ctl := by
  unfold State.hear
  dsimp only
  (repeat' split) <;> simp

@[simp] theorem State.hearAll_ctl (s : State) (k fid : Nat) : (State.hearAll s k fid).ctl = s.ctl := by
  simp [State.hearAll]

@[simp] theorem State.loseSession_ctl (s : State) (num : Nat) : (State.loseSession s num).ctl = s.ctl := by
  simp [State.loseSession]

@[simp] theorem State.nedEnterDoubt_ctl (s : State) (k cause : Nat) : (State.nedEnterDoubt s k cause).ctl = s.ctl := by
  unfold State.nedEnterDoubt; simp only [State.ctl, Ctl.mk.injEq] <;> simp [↓ctl_mk, ctl_eqs]

@[simp] theorem State.raiseQ_ctl (s : State) (fold key : Nat) (ds : List (Nat × Nat)) : (State.raiseQ s fold key ds).ctl = s.ctl := by
  simp [State.raiseQ]

@[simp] theorem State.judgeRaised_ctl (s : State) (fold : Nat) (ds : List (Nat × Nat)) : (State.judgeRaised s fold ds).ctl = s.ctl := by
  simp [State.judgeRaised]

@[simp] theorem State.deltaQ_ctl (s : State) (x lane : Nat) : (State.deltaQ s x lane).ctl = s.ctl := by
  unfold State.deltaQ
  dsimp only
  (repeat' split) <;> first | rfl | (simp (disch := (intros; (repeat' split) <;> simp)); done) | (simp only [State.ctl, Ctl.mk.injEq] <;> simp (disch := (intros; (repeat' split) <;> simp)) [↓ctl_mk, ctl_eqs])

@[simp] theorem State.endRaise_ctl (s : State) (key : Nat) : (State.endRaise s key).ctl = s.ctl := by
  unfold State.endRaise; simp only [State.ctl, Ctl.mk.injEq] <;> simp [↓ctl_mk, ctl_eqs]

@[simp] theorem State.downLane_ctl (s : State) (x lane cause : Nat) : (State.downLane s x lane cause).ctl = s.ctl := by
  unfold State.downLane
  (repeat' split) <;> simp

@[simp] theorem State.takeFrom_ctl (s : State) (x lane : Nat) (src : Source) (q : Queued) : (State.takeFrom s x lane src q).ctl = s.ctl := by
  unfold State.takeFrom
  (repeat' split) <;> simp

theorem State.nextFlit_ctl {s t : State} {x lane : Nat} {ok : Queued → Bool} {q : Queued} (h : s.nextFlit x lane ok = some (q, t)) :
    t.ctl = s.ctl := by
  unfold State.nextFlit at h
  obtain ⟨vc, -, h⟩ := List.exists_of_findSome?_eq_some h
  split at h
  · split at h
    · simp only [Option.some.injEq, Prod.mk.injEq] at h
      rw [← h.2]
      split <;> simp
    · cases h
  · cases h

@[simp] theorem State.sweepRouter_ctl (s : State) (n : Nat) : (s.sweepRouter n).ctl = s.ctl := by
  unfold State.sweepRouter
  dsimp only
  rw [foldl_ctl, foldl_ctl]
  · intros; (repeat' split) <;> simp
  · intros; (repeat' split) <;> simp

@[simp] theorem State.freeSlot_ctl (s : State) (x lane : Nat) (vc : Bool) : (State.freeSlot s x lane vc).ctl = s.ctl := by
  simp [State.freeSlot]

@[simp] theorem State.arrivePad_ctl (s : State) (x lane : Nat) (vc : Bool) (f : Flit) (path : List Nat) : (State.arrivePad s x lane vc f path).ctl = s.ctl := by
  unfold State.arrivePad
  dsimp only
  (repeat' split) <;> simp

@[simp] theorem State.arriveDie_ctl (s : State) (x lane : Nat) (vc : Bool) (f : Flit) : (State.arriveDie s x lane vc f).ctl = s.ctl := by
  simp [State.arriveDie]

@[simp] theorem State.arrive_ctl (s : State) (x lane : Nat) (vc : Bool) (f : Flit) (path : List Nat) : (State.arrive s x lane vc f path).ctl = s.ctl := by
  simp [State.arrive]

@[simp] theorem State.strayAt_ctl (s : State) (f : Flit) : (State.strayAt s f).ctl = s.ctl := by
  simp [State.strayAt]

@[simp] theorem State.memStatus_ctl (s : State) (n : Nat) (f : Flit) : (State.memStatus s n f).ctl = s.ctl := by
  simp [State.memStatus]

theorem State.dockIn_ctl {s t : State} {n : Nat} {f : Flit} (h : s.dockIn n f = some t) : t.ctl = s.ctl := by
  have g : ∀ u ∈ s.dockIn n f, u.ctl = s.ctl := by
    unfold State.dockIn
    dsimp only
    repeat' apply opt_ite
    all_goals
      intro u hu
      first
        | (cases hu; done)
        | (injection hu with hu; subst hu; first | rfl | (simp; done))
  exact g t h

@[simp] theorem State.dockTake_ctl (s : State) (n : Nat) (h : DockHead) : (s.dockTake n h).ctl = s.ctl := by
  cases h <;> simp [State.dockTake]

@[simp] theorem State.dockFill_ctl (hs : List DockHead) (s : State) (n : Nat) (used : List Nat) :
    (s.dockFill n used hs).ctl = s.ctl := by
  induction hs generalizing s used with
  | nil => rfl
  | cons h hs ih =>
    unfold State.dockFill
    dsimp only
    split
    · exact ih _ _
    · split
      · exact ih _ _
      · rename_i e
        rw [ih, State.dockTake_ctl, State.dockIn_ctl e]

@[simp] theorem State.dockRefuse_ctl (s : State) (n : Nat) : (s.dockRefuse n).ctl = s.ctl := by
  unfold State.dockRefuse
  refine foldl_ctl _ (fun _ _ => ?_) _ _
  split <;> simp

@[simp] theorem State.medSend_ctl (s : State) (k : Nat) (out : List (MedPort × Flit)) : (State.medSend s k out).ctl = s.ctl := by
  simp [State.medSend]

@[simp] theorem State.medEnterDoubt_ctl (s : State) (k cause : Nat) : (State.medEnterDoubt s k cause).ctl = s.ctl := by
  simp [State.medEnterDoubt]

@[simp] theorem State.countRets_ctl (s : State) (k : Nat) (rs : List (MedPort × Flit)) : (State.countRets s k rs).ctl = s.ctl := by
  unfold State.countRets
  refine foldl_ctl _ (fun _ _ => ?_) _ _
  (repeat' split) <;> simp

theorem State.medTake_ctl {s t : State} {k : Nat} {p : MedPort} {f : Flit} (h : s.medTake k p f = some t) : t.ctl = s.ctl := by
  simp only [State.medTake, Option.map_eq_some_iff] at h
  obtain ⟨o, -, rfl⟩ := h
  split <;> simp

@[simp] theorem State.medServe_ctl (k : Nat) (p : MedPort) (n : Nat) (s : State) : (State.medServe k p n s).ctl = s.ctl := by
  induction n generalizing s with
  | zero => rfl
  | succ n ih =>
    unfold State.medServe
    split
    · rfl
    · split
      · rfl
      · rename_i h
        split
        · exact State.medTake_ctl h
        · exact (ih _).trans (State.medTake_ctl h)

@[simp] theorem State.sendSpan_ctl (s : State) (f : SFlit) : (State.sendSpan s f).ctl = s.ctl := by
  unfold State.sendSpan
  dsimp only
  (repeat' split) <;> simp

@[simp] theorem State.spanLinkDown_ctl (s : State) (i cause : Nat) : (State.spanLinkDown s i cause).ctl = s.ctl := by
  simp [State.spanLinkDown]

@[simp] theorem State.revokeSpan_ctl (s : State) (fold : Nat) (reconf : Bool) : (State.revokeSpan s fold reconf).ctl = s.ctl := by
  simp [State.revokeSpan]

@[simp] theorem State.unrevokeSpan_ctl (s : State) (fold : Nat) : (State.unrevokeSpan s fold).ctl = s.ctl := by
  unfold State.unrevokeSpan; simp only [State.ctl, Ctl.mk.injEq] <;> simp [↓ctl_mk, ctl_eqs]

@[simp] theorem State.takeSpan_ctl (s : State) (h : Nat × Nat × Nat × Bool × Flit) : (State.takeSpan s h).ctl = s.ctl := by
  simp [State.takeSpan]

@[simp] theorem State.pullSpan_ctl (i n : Nat) (s : State) : (State.pullSpan i n s).ctl = s.ctl := by
  induction n generalizing s with
  | zero => rfl
  | succ n ih =>
    unfold State.pullSpan
    dsimp only
    (repeat' split) <;> simp [ih]

@[simp] theorem State.releaseMsg_ctl (s : State) (i : Nat) (m : SMsg) : (State.releaseMsg s i m).ctl = s.ctl := by
  simp [State.releaseMsg]

@[simp] theorem State.spanArrive_ctl (s : State) (i : Nat) (f : SFlit) : (State.spanArrive s i f).ctl = s.ctl := by
  simp [State.spanArrive]

@[simp] theorem State.spanRefuse_ctl (s : State) (i cause : Nat) : (State.spanRefuse s i cause).ctl = s.ctl := by
  simp [State.spanRefuse]

@[simp] theorem State.trainSpan_ctl (s : State) (i : Nat) : (State.trainSpan s i).ctl = s.ctl := by
  simp [State.trainSpan]

@[simp] theorem State.spdEnterDoubt_ctl (s : State) (i cause : Nat) : (State.spdEnterDoubt s i cause).ctl = s.ctl := by
  simp [State.spdEnterDoubt]

@[simp] theorem State.holdRecord_ctl (s : State) (r : List Byte) : (s.holdRecord r).ctl = s.ctl := by
  have h : ∀ l, ({ s with ledgerHeld := l } : State).ctl = s.ctl := fun _ => rfl
  exact h _

@[simp] theorem State.ringPut_ctl (r : List Byte) (n : Nat) (rb : List Bool) (s : State) : (State.ringPut r n rb s).ctl = s.ctl := by
  induction n generalizing s rb with
  | zero =>
    unfold State.ringPut
    rw [State.ring_ctl, State.holdRecord_ctl]
    rfl
  | succ n ih =>
    unfold State.ringPut
    dsimp only
    split
    · rfl
    · rw [ih, State.ring_ctl]
      rfl

@[simp] theorem State.writeRecord_ctl (s : State) (body : Nat → List Byte) (rb : List Bool) : (s.writeRecord body rb).ctl = s.ctl := by
  unfold State.writeRecord
  split
  · rfl
  · rename_i h
    dsimp only
    split
    · rw [State.holdRecord_ctl]
      rfl
    · rw [State.ringPut_ctl]
      rfl

@[simp] theorem State.leaseSecondOf_ctl (s : State) (f : Fold) : (State.leaseSecondOf s f).ctl = s.ctl := by
  simp [State.leaseSecondOf]

@[simp] theorem State.lateIntervals_ctl (s : State) : (State.lateIntervals s).ctl = s.ctl := by
  unfold State.lateIntervals; simp only [State.ctl, Ctl.mk.injEq] <;> simp [↓ctl_mk, ctl_eqs]

@[simp] theorem State.closeInterval_ctl (s : State) (id : Nat) (final : Bool) (rb : List Bool) : (State.closeInterval s id final rb).ctl = s.ctl := by
  unfold State.closeInterval
  (repeat' split) <;> simp

@[simp] theorem State.writeGaps_ctl (s : State) : (State.writeGaps s).ctl = s.ctl := by
  simp [State.writeGaps]

@[simp] theorem State.slip_ctl (s : State) (n k fold : Nat) (fine : Bool) (c : SlipCause) : (State.slip s n k fold fine c).ctl = s.ctl := by
  simp [State.slip]

@[simp] theorem State.padDoubt_ctl (s : State) (n fold : Nat) (tr : Trigger) : (State.padDoubt s n fold tr).ctl = s.ctl := by
  simp [State.padDoubt]

@[simp] theorem State.transitionEnds_ctl (s : State) (id : Nat) : (State.transitionEnds s id).ctl = s.ctl := by
  unfold State.transitionEnds
  (repeat' split) <;> simp

@[simp] theorem State.leavePlan_ctl (s : State) (n k : Nat) : (State.leavePlan s n k).ctl = s.ctl := by
  simp [State.leavePlan]

@[simp] theorem State.dieCutOff_ctl (s : State) (d : Nat) : (State.dieCutOff s d).ctl = s.ctl := by
  simp [State.dieCutOff]

@[simp] theorem State.makeHole_ctl (s : State) (n cause : Nat) (quiet : Bool) : (State.makeHole s n cause quiet).ctl = s.ctl := by
  simp [State.makeHole]

@[simp] theorem State.powerEnds_ctl (s : State) : (State.powerEnds s).ctl = s.ctl := by
  simp [State.powerEnds]

@[simp] theorem State.fieldShutdown_ctl (s : State) (f : Nat) (vaon : Bool) : (State.fieldShutdown s f vaon).ctl = s.ctl := by
  simp [State.fieldShutdown]

@[simp] theorem State.latchField_ctl (s : State) (f : Nat) : (State.latchField s f).ctl = s.ctl := by
  simp [State.latchField]

@[simp] theorem State.startLinks_ctl (s : State) (n : Nat) : (State.startLinks s n).ctl = s.ctl := by
  unfold State.startLinks
  dsimp only
  (repeat' split) <;> first | rfl | (simp (disch := (intros; (repeat' split) <;> simp)); done) | (simp only [State.ctl, Ctl.mk.injEq] <;> simp (disch := (intros; (repeat' split) <;> simp)) [↓ctl_mk, ctl_eqs])

@[simp] theorem State.creationEnds_ctl (s : State) (id : Nat) : (State.creationEnds s id).ctl = s.ctl := by
  unfold State.creationEnds
  (repeat' split) <;> simp

@[simp] theorem State.settlePad_ctl (s : State) (n : Nat) : (State.settlePad s n).ctl = s.ctl := by
  unfold State.settlePad
  (repeat' split) <;> simp

@[simp] theorem State.stageOnSequence_ctl (s : State) (f : Nat) : (State.stageOnSequence s f).ctl = s.ctl := by
  simp [State.stageOnSequence]

@[simp] theorem State.pmbusRead_ctl (s : State) (r : PmbRead) : (State.pmbusRead s r).ctl = s.ctl := by
  unfold State.pmbusRead; simp only [State.ctl, Ctl.mk.injEq] <;> simp [↓ctl_mk, ctl_eqs]

@[simp] theorem State.guard_ctl (s : State) (ln : Ln) (cs : List (Bool × Nat × KVs)) (body : State) (h : body.ctl = s.ctl) :
    (s.guard ln cs body).ctl = s.ctl := by
  unfold State.guard
  split <;> simp [h]

@[simp] theorem State.powerRun_ctl (s : State) (n : Nat) : (State.powerRun s n).ctl = s.ctl := by
  unfold State.powerRun; simp only [State.ctl, Ctl.mk.injEq] <;> simp [↓ctl_mk, ctl_eqs]

@[simp] theorem State.dropBuffers_ctl (s : State) (n : Nat) (fold : Option Nat) : (State.dropBuffers s n fold).ctl = s.ctl := by
  simp [State.dropBuffers]

@[simp] theorem State.revokeFold_ctl (s : State) (n fold : Nat) : (State.revokeFold s n fold).ctl = s.ctl := by
  simp [State.revokeFold]

@[simp] theorem State.hurdleFor_ctl (s : State) (n fold : Nat) : (State.hurdleFor s n fold).ctl = s.ctl := by
  simp [State.hurdleFor]

@[simp] theorem State.startRouter_ctl (s : State) (n : Nat) : (State.startRouter s n).ctl = s.ctl := by
  simp [State.startRouter]

@[simp] theorem State.shearPad_ctl (s : State) (n : Nat) : (State.shearPad s n).ctl = s.ctl := by
  simp [State.shearPad]

@[simp] theorem State.shearSlot_ctl (s : State) (n k fold : Nat) : (State.shearSlot s n k fold).ctl = s.ctl := by
  simp [State.shearSlot]

@[simp] theorem State.advertise_ctl (s : State) (n fold : Nat) : (State.advertise s n fold).ctl = s.ctl := by
  unfold State.advertise
  (repeat' split) <;> first | rfl | (simp; done) | (simp only [State.ctl, Ctl.mk.injEq] <;> simp [↓ctl_mk, ctl_eqs]; done) | (rw [foldl_ctl] <;> (intros; (repeat' split) <;> simp))

@[simp] theorem State.leasePads_ctl (s : State) (id : Nat) (excl : List Nat) (slots : List (Nat × Nat)) : (State.leasePads s id excl slots).ctl = s.ctl := by
  simp [State.leasePads]

@[simp] theorem State.settleUnleased_ctl (s : State) (n : Nat) : (State.settleUnleased s n).ctl = s.ctl := by
  unfold State.settleUnleased
  dsimp only
  (repeat' split) <;> first | rfl | (simp; done) | (simp only [State.ctl, Ctl.mk.injEq] <;> simp [↓ctl_mk, ctl_eqs])

@[simp] theorem State.unleasePad_ctl (s : State) (n fold : Nat) : (State.unleasePad s n fold).ctl = s.ctl := by
  simp [State.unleasePad]

@[simp] theorem State.unleaseSlot_ctl (s : State) (n k fold : Nat) : (State.unleaseSlot s n k fold).ctl = s.ctl := by
  simp [State.unleaseSlot]

theorem State.leaseOne_ctl {s t : State} {k fold g : Nat} {space : Bool} {index : Option Nat} (h : s.leaseOne k fold space index = some (g, t)) :
    t.ctl = s.ctl := by
  unfold State.leaseOne at h
  rw [Option.map_eq_some_iff] at h
  obtain ⟨a, -, h⟩ := h
  simp only [Prod.mk.injEq] at h
  rw [← h.2, State.modMed_ctl]

theorem State.leaseAll_ctl {s t : State} {fold : Nat} {l : List (Nat × Bool × Option Nat)} {got : List (Nat × Nat)}
    (h : s.leaseAll fold l = some (got, t)) : t.ctl = s.ctl := by
  induction l generalizing s got with
  | nil =>
    simp only [State.leaseAll, Option.some.injEq, Prod.mk.injEq] at h
    rw [← h.2]
  | cons a rest ih =>
    obtain ⟨k, sp, ix⟩ := a
    rw [State.leaseAll] at h
    match e : s.leaseOne k fold sp ix with
    | none => rw [e] at h; cases h
    | some (g, s1) =>
      rw [e] at h
      obtain ⟨r, hr, h⟩ := Option.map_eq_some_iff.mp h
      have h2 : r.2 = t := congrArg Prod.snd h
      have h3 : s1.leaseAll fold rest = some (r.1, t) := by rw [← h2]; exact hr
      rw [ih h3, State.leaseOne_ctl e]

@[simp] theorem State.loadKeys_ctl (s : State) (f : Fold) (ks : List Nat) : (State.loadKeys s f ks).ctl = s.ctl := by
  simp [State.loadKeys]

@[simp] theorem State.revokePages_ctl (s : State) (ps : List (Nat × Nat)) : (State.revokePages s ps).ctl = s.ctl := by
  simp [State.revokePages]

@[simp] theorem State.refuseAll_ctl (s : State) (p : Nat → Req → Bool) (reason : Nat) : (State.refuseAll s p reason).ctl = s.ctl := by
  simp [State.refuseAll]

@[simp] theorem State.penOut_ctl (s : State) (fold reason : Nat) : (State.penOut s fold reason).ctl = s.ctl := by
  simp [State.penOut]

@[simp] theorem State.waferOut_ctl (s : State) (fold reason : Nat) : (State.waferOut s fold reason).ctl = s.ctl := by
  simp [State.waferOut]

@[simp] theorem State.closeChannel_ctl (s : State) (c : Channel) : (State.closeChannel s c).ctl = s.ctl := by
  unfold State.closeChannel; simp only [State.ctl, Ctl.mk.injEq] <;> simp [↓ctl_mk, ctl_eqs]

@[simp] theorem State.emptyClosed_ctl (s : State) (index : Nat) : (State.emptyClosed s index).ctl = s.ctl := by
  unfold State.emptyClosed; simp only [State.ctl, Ctl.mk.injEq] <;> simp [↓ctl_mk, ctl_eqs]

theorem State.bindOne_ctl {s : State} {f : Fold} {e : Entry} {h ticket : Word} {deadline : Nat} {spec : Bool} {a : BindArg}
    {r : Nat × State} (g : s.bindOne f e h ticket deadline spec a = .inr r) : r.2.ctl = s.ctl := by
  have k : ∀ r, s.bindOne f e h ticket deadline spec a = .inr r → r.2.ctl = s.ctl := by
    unfold State.bindOne
    dsimp only
    repeat' apply sum_ite
    all_goals intro r hr
    all_goals first
      | (cases hr; done)
      | skip
    split at hr
    · cases hr
    · revert hr
      revert r
      repeat' apply sum_ite
      all_goals intro r hr
      all_goals first
        | (cases hr; done)
        | skip
      split at hr
      · cases hr
      · revert hr
        revert r
        apply sum_ite
        · intro r hr
          cases hr
          simp
        · intro r hr
          cases hr
  exact k r g

theorem State.bindAll_ctl {s : State} {f : Fold} {e : Entry} {h ticket : Word} {deadline : Nat} {spec : Bool} {l : List BindArg}
    {r : List (Nat × Nat) × State} (g : s.bindAll f e h ticket deadline spec l = .inr r) : r.2.ctl = s.ctl := by
  induction l generalizing s r with
  | nil => cases g; rfl
  | cons a as ih =>
    simp only [State.bindAll] at g
    split at g
    · cases g
    · rename_i i s1 e1
      split at g
      · cases g
      · rename_i r1 e2
        cases g
        exact (ih e2).trans (State.bindOne_ctl e1)

@[simp] theorem State.freeSession_ctl (s : State) (num : Nat) : (State.freeSession s num).ctl = s.ctl := by
  simp [State.freeSession]

@[simp] theorem State.syncPause_ctl (s : State) : (State.syncPause s).ctl = s.ctl := by
  unfold State.syncPause
  (repeat' split) <;> first | (simp; done) | (simp only [State.ctl, Ctl.mk.injEq] <;> simp [↓ctl_mk, ctl_eqs])

@[simp] theorem State.finishRelease_ctl (s : State) (f : Fold) : (State.finishRelease s f).ctl = s.ctl := by
  unfold State.finishRelease; simp only [State.ctl, Ctl.mk.injEq] <;> simp [↓ctl_mk, ctl_eqs]

@[simp] theorem State.releaseStep_ctl (s : State) (id : Nat) : (State.releaseStep s id).ctl = s.ctl := by
  unfold State.releaseStep
  (repeat' split) <;> simp

@[simp] theorem State.installLinks_ctl (s : State) (im : Image) (n m fold : Nat) : (State.installLinks s im n m fold).ctl = s.ctl := by
  unfold State.installLinks
  (repeat' split) <;> simp

@[simp] theorem State.installPad_ctl (s : State) (im : Image) (n m fold : Nat) (st : CtxState) (epoch : Nat) : (State.installPad s im n m fold st epoch).ctl = s.ctl := by
  simp [State.installPad]

@[simp] theorem State.liftPad_ctl (s : State) (n fold : Nat) : (State.liftPad s n fold).ctl = s.ctl := by
  simp [State.liftPad]

@[simp] theorem State.setYokes_ctl (s : State) (f : Fold) (im : Image) : (State.setYokes s f im).ctl = s.ctl := by
  simp [State.setYokes]

@[simp] theorem State.newLeader_ctl (s : State) (old : Nat) : (State.newLeader s old).ctl = s.ctl := by
  simp [State.newLeader]

@[simp] theorem State.enterFold_ctl (s : State) (a : FoldArgs) (f : Fold) : (s.enterFold a f).ctl = s.ctl := by
  unfold State.enterFold
  dsimp only
  rw [State.leasePads_ctl, State.loadKeys_ctl, State.clearTallies_ctl]
  simp [State.ctl]

@[simp] theorem State.takeOut_ctl (s : State) (id : Nat) (ps : List Nat) (qs : List (Nat × Nat)) (is : List Nat) : (State.takeOut s id ps qs is).ctl = s.ctl := by
  unfold State.takeOut
  (repeat' split) <;> simp

@[simp] theorem State.resizeTo_ctl (s : State) (f g : Fold) (a : ResizeArgs) : (State.resizeTo s f g a).ctl = s.ctl := by
  simp [State.resizeTo]

@[simp] theorem State.abandonBell_ctl (s : State) (id : Nat) (cause : String) : (State.abandonBell s id cause).ctl = s.ctl := by
  simp [State.abandonBell]

@[simp] theorem State.onChannel_ctl (s : State) (ln : Ln) (h : Word) (body : Channel → State)
    (k : ∀ c, (body c).ctl = s.ctl) : (s.onChannel ln h body).ctl = s.ctl := by
  unfold State.onChannel
  split
  · simp
  · split <;> simp [k]

@[simp] theorem State.leaseWindow_ctl (s : State) (fold num : Nat) (win : List (Nat × Nat)) : (State.leaseWindow s fold num win).ctl = s.ctl := by
  simp [State.leaseWindow]

@[simp] theorem State.clearFold_ctl (s : State) (f : Fold) : (State.clearFold s f).ctl = s.ctl := by
  simp [State.clearFold]

@[simp] theorem State.returnAdded_ctl (s : State) (id : Nat) : (State.returnAdded s id).ctl = s.ctl := by
  unfold State.returnAdded
  (repeat' split) <;> simp

@[simp] theorem State.freeStaged_ctl (s : State) (cs : List (Nat × Nat)) : (State.freeStaged s cs).ctl = s.ctl := by
  simp [State.freeStaged]

@[simp] theorem State.loadFail_ctl (s : State) (id code : Nat) (cause : Option String) : (State.loadFail s id code cause).ctl = s.ctl := by
  unfold State.loadFail
  (repeat' split) <;> first | (simp; done) | (simp only [State.ctl, Ctl.mk.injEq] <;> simp [↓ctl_mk, ctl_eqs])

@[simp] theorem State.beginLoad_ctl (s : State) (id : Nat) : (State.beginLoad s id).ctl = s.ctl := by
  unfold State.beginLoad
  dsimp only
  (repeat' split) <;> simp

@[simp] theorem State.loadDrained_ctl (s : State) (id : Nat) : (State.loadDrained s id).ctl = s.ctl := by
  unfold State.loadDrained
  (repeat' split) <;> simp

@[simp] theorem State.rebindChannel_ctl (s : State) (id : Nat) (c : Channel) (old new : Entry) : (State.rebindChannel s id c old new).ctl = s.ctl := by
  unfold State.rebindChannel; simp only [State.ctl, Ctl.mk.injEq] <;> simp [↓ctl_mk, ctl_eqs]

@[simp] theorem State.rebindAll_ctl (s : State) (id : Nat) (old : Option Image) (im : Image) : (State.rebindAll s id old im).ctl = s.ctl := by
  unfold State.rebindAll
  refine foldl_ctl _ (fun _ _ => ?_) _ _
  (repeat' split) <;> simp

@[simp] theorem State.commitImage_ctl (s : State) (id : Nat) (im : Image) (container : List Byte) : (State.commitImage s id im container).ctl = s.ctl := by
  unfold State.commitImage
  (repeat' split) <;> first | (simp; done) | (simp only [State.ctl, Ctl.mk.injEq] <;> simp [↓ctl_mk, ctl_eqs])

@[simp] theorem State.dropUnnamed_ctl (s : State) (id : Nat) (im : Image) : (State.dropUnnamed s id im).ctl = s.ctl := by
  unfold State.dropUnnamed
  (repeat' split) <;> simp

@[simp] theorem State.bringIn_ctl (s : State) (im : Image) (n fold epoch : Nat) : (State.bringIn s im n fold epoch).ctl = s.ctl := by
  simp [State.bringIn]

@[simp] theorem State.commitLoad_ctl (s : State) (id : Nat) : (State.commitLoad s id).ctl = s.ctl := by
  unfold State.commitLoad
  (repeat' split) <;> simp

@[simp] theorem State.toStandby_ctl (s : State) (id : Nat) : (State.toStandby s id).ctl = s.ctl := by
  unfold State.toStandby
  (repeat' split) <;> simp

@[simp] theorem State.transit_ctl (s : State) (id : Nat) : (State.transit s id).ctl = s.ctl := by
  unfold State.transit
  (repeat' split) <;> simp

@[simp] theorem State.sendBells__ctl (s : State) (f : Fold) (im : Image) : (State.sendBells_ s f im).ctl = s.ctl := by
  simp [State.sendBells_]

@[simp] theorem State.markOutgoing_ctl (s : State) (im : Image) : (State.markOutgoing s im).ctl = s.ctl := by
  simp [State.markOutgoing]

@[simp] theorem State.switchFold_ctl (s : State) (id : Nat) : (State.switchFold s id).ctl = s.ctl := by
  unfold State.switchFold
  (repeat' split) <;> simp

@[simp] theorem State.dropItems_ctl (s : State) (n k fold : Nat) : (State.dropItems s n k fold).ctl = s.ctl := by
  simp [State.dropItems]

@[simp] theorem State.closeEpoch_ctl (s : State) (k id epoch : Nat) : (State.closeEpoch s k id epoch).ctl = s.ctl := by
  simp [State.closeEpoch]

@[simp] theorem State.forceRetire_ctl (s : State) (id : Nat) : (State.forceRetire s id).ctl = s.ctl := by
  unfold State.forceRetire
  (repeat' split) <;> simp

@[simp] theorem State.loseClock_ctl (s : State) (n : Nat) (tr : Trigger) : (State.loseClock s n tr).ctl = s.ctl := by
  simp [State.loseClock]

@[simp] theorem State.throttleStep_ctl (s : State) (n x : Nat) : (State.throttleStep s n x).ctl = s.ctl := by
  simp [State.throttleStep]

@[simp] theorem State.throttleDown_ctl (s : State) (f : Nat) : (s.throttleDown f).1.ctl = s.ctl := by
  unfold State.throttleDown
  refine foldl_inv (P := fun (x : State × Bool × Bool) => x.1.ctl = s.ctl) _ rfl ?_
  intro a n h
  dsimp only
  (repeat' split) <;> simp [h]

@[simp] theorem State.throttleUp_ctl (s : State) (f : Nat) : (s.throttleUp f).1.ctl = s.ctl := by
  unfold State.throttleUp
  refine foldl_inv (P := fun (x : State × Bool) => x.1.ctl = s.ctl) _ rfl ?_
  intro a n h
  dsimp only
  (repeat' split) <;> simp [h]

@[simp] theorem State.takeOver_ctl (s : State) (f : Nat) : (State.takeOver s f).ctl = s.ctl := by
  simp [State.takeOver]

@[simp] theorem State.throttleOn_ctl (s : State) (f : Nat) (temp : Int) : (State.throttleOn s f temp).ctl = s.ctl := by
  simp [State.throttleOn]

@[simp] theorem State.widen_ctl (s : State) (f : Nat) (temp : Int) : (State.widen s f temp).ctl = s.ctl := by
  simp [State.widen]

@[simp] theorem State.endWiden_ctl (s : State) (f : Nat) : (State.endWiden s f).ctl = s.ctl := by
  simp [State.endWiden]

@[simp] theorem State.moveLease_ctl (s : State) (id n t : Nat) (tr : Trigger) : (State.moveLease s id n t tr).ctl = s.ctl := by
  simp [State.moveLease]

@[simp] theorem State.dropSource_ctl (s : State) (n : Nat) : (State.dropSource s n).ctl = s.ctl := by
  simp [State.dropSource]

@[simp] theorem State.markFailed_ctl (s : State) (ns : List Nat) (tr : Trigger) : (State.markFailed s ns tr).ctl = s.ctl := by
  simp [State.markFailed]

@[simp] theorem State.raiseYoke_ctl (s : State) (f : Fold) (n : Nat) : (State.raiseYoke s f n).ctl = s.ctl := by
  unfold State.raiseYoke
  (repeat' split) <;> simp

@[simp] theorem State.notify_ctl (s : State) (id : Nat) (next : FoldState) : (State.notify s id next).ctl = s.ctl := by
  unfold State.notify; simp only [State.ctl, Ctl.mk.injEq] <;> simp [↓ctl_mk, ctl_eqs]

@[simp] theorem State.foldBell_ctl (s : State) (id : Nat) (st : String) (tr : Trigger) (place : Nat) (kv : KVs) : (State.foldBell s id st tr place kv).ctl = s.ctl := by
  unfold State.foldBell; simp only [State.ctl, Ctl.mk.injEq] <;> simp [↓ctl_mk, ctl_eqs]

@[simp] theorem State.stopFold_ctl (s : State) (id : Nat) (tr : Trigger) (place : Nat) (kv : KVs) : (State.stopFold s id tr place kv).ctl = s.ctl := by
  simp [State.stopFold]

@[simp] theorem State.enterMigrating_ctl (s : State) (f : Fold) (r : Recovery) : (State.enterMigrating s f r).ctl = s.ctl := by
  simp [State.enterMigrating]

@[simp] theorem State.startRestart_ctl (s : State) (id : Nat) (tr : Trigger) (place : Nat) : (State.startRestart s id tr place).ctl = s.ctl := by
  unfold State.startRestart
  (repeat' split) <;> simp

@[simp] theorem State.startMigration_ctl (s : State) (id : Nat) (failed : List Nat) (tr : Trigger) (place : Nat) : (State.startMigration s id failed tr place).ctl = s.ctl := by
  unfold State.startMigration
  (repeat' split) <;> simp

@[simp] theorem State.toCheckpoint_ctl (s : State) (id : Nat) : (State.toCheckpoint s id).ctl = s.ctl := by
  unfold State.toCheckpoint
  (repeat' split) <;> simp

@[simp] theorem State.endLoadInDoubt_ctl (s : State) (f : Fold) (padFails : Bool) (tr : Trigger) : (State.endLoadInDoubt s f padFails tr).ctl = s.ctl := by
  unfold State.endLoadInDoubt
  (repeat' split) <;> simp

@[simp] theorem State.doubtFold_ctl (s : State) (tr : Trigger) (place : Nat) (gone : Bool) (id : Nat) : (State.doubtFold s tr place gone id).ctl = s.ctl := by
  unfold State.doubtFold
  dsimp only
  (repeat' split) <;> simp

@[simp] theorem State.reported_ctl (s : State) (tr : Trigger) (place : Nat) (folds : List Nat) : (State.reported s tr place folds).ctl = s.ctl := by
  simp [State.reported]

@[simp] theorem State.clockVerdict_ctl (s : State) (n : Nat) (lasting : Bool) (id : Nat) : (State.clockVerdict s n lasting id).ctl = s.ctl := by
  unfold State.clockVerdict
  (repeat' split) <;> simp

@[simp] theorem State.resolveClock_ctl (s : State) (n : Nat) (good : Bool) : (State.resolveClock s n good).ctl = s.ctl := by
  simp [State.resolveClock]

@[simp] theorem State.applyPatches_ctl (s : State) (f : Fold) (im : Image) : (State.applyPatches s f im).ctl = s.ctl := by
  unfold State.applyPatches
  dsimp only
  (repeat' split) <;> first | rfl | (simp (disch := (intros; (repeat' split) <;> simp)); done) | (simp only [State.ctl, Ctl.mk.injEq] <;> simp (disch := (intros; (repeat' split) <;> simp)) [↓ctl_mk, ctl_eqs])

@[simp] theorem State.restoreFold_ctl (s : State) (f : Fold) (im : Image) : (State.restoreFold s f im).ctl = s.ctl := by
  unfold State.restoreFold
  (repeat' split) <;> simp

@[simp] theorem State.raiseMoves_ctl (s : State) (f : Fold) (im : Image) (moves : List (Nat × Nat)) : (State.raiseMoves s f im moves).ctl = s.ctl := by
  unfold State.raiseMoves
  dsimp only
  (repeat' split) <;> first | rfl | (simp (disch := (intros; (repeat' split) <;> simp)); done) | (simp only [State.ctl, Ctl.mk.injEq] <;> simp (disch := (intros; (repeat' split) <;> simp)) [↓ctl_mk, ctl_eqs])

@[simp] theorem State.rebindMoved_ctl (s : State) (f : Fold) (im : Image) : (State.rebindMoved s f im).ctl = s.ctl := by
  unfold State.rebindMoved
  refine foldl_ctl _ (fun _ _ => ?_) _ _
  (repeat' split) <;> simp

@[simp] theorem State.finishRecovery_ctl (s : State) (id : Nat) : (State.finishRecovery s id).ctl = s.ctl := by
  unfold State.finishRecovery
  (repeat' split) <;> first | (simp; done) | (simp only [State.ctl, Ctl.mk.injEq] <;> simp [↓ctl_mk, ctl_eqs])

@[simp] theorem State.commitRecovery_ctl (s : State) (id : Nat) : (State.commitRecovery s id).ctl = s.ctl := by
  unfold State.commitRecovery
  (repeat' split) <;> simp

@[simp] theorem State.recoverAgain_ctl (s : State) : (State.recoverAgain s).ctl = s.ctl := by
  unfold State.recoverAgain
  refine foldl_ctl _ (fun _ _ => ?_) _ _
  (repeat' split) <;> simp

@[simp] theorem State.dieBack_ctl (s : State) (d : DieName) : (s.dieBack d).ctl = s.ctl := by
  cases d <;> simp [State.dieBack]

@[simp] theorem State.loadMap_ctl (s : State) : (State.loadMap s).ctl = s.ctl := by
  unfold State.loadMap
  (repeat' split) <;> first | (simp; done) | (simp only [State.ctl, Ctl.mk.injEq] <;> simp [↓ctl_mk, ctl_eqs])

@[simp] theorem State.edgeDieDoubt_ctl (s : State) (d cause : Nat) : (State.edgeDieDoubt s d cause).ctl = s.ctl := by
  simp [State.edgeDieDoubt]

@[simp] theorem State.enqueueTests_ctl (s : State) (ns : List Nat) : (State.enqueueTests s ns).ctl = s.ctl := by
  simp [State.enqueueTests]

@[simp] theorem State.carryHoles_ctl (s : State) : (State.carryHoles s).ctl = s.ctl := by
  simp [State.carryHoles]

@[simp] theorem State.defaultReserve_ctl (s : State) (f : Nat) : (State.defaultReserve s f).ctl = s.ctl := by
  unfold State.defaultReserve
  (repeat' split) <;> simp

@[simp] theorem State.bootReserves_ctl (s : State) : (State.bootReserves s).ctl = s.ctl := by
  unfold State.bootReserves
  (repeat' split) <;> simp

@[simp] theorem State.storedPorts_ctl (s : State) : (State.storedPorts s).ctl = s.ctl := by
  unfold State.storedPorts; simp only [State.ctl, Ctl.mk.injEq] <;> simp [↓ctl_mk, ctl_eqs]

@[simp] theorem State.stageHoles_ctl (s : State) : s.stageHoles.ctl = s.ctl := by
  unfold State.stageHoles
  refine foldl_ctl _ (fun v f => ?_) _ _
  split
  · rfl
  · exact foldl_ctl _ (fun w n => by split <;> simp) _ _

@[simp] theorem State.bootEntries_ctl (s : State) : (State.bootEntries s).ctl = s.ctl := by
  simp [State.bootEntries]

@[simp] theorem State.retriesAgain_ctl (s : State) : (State.retriesAgain s).ctl = s.ctl := by
  simp [State.retriesAgain]

@[simp] theorem State.pathLost_ctl (s : State) (i : Nat) (newly : Bool) (w : String) : (State.pathLost s i newly w).ctl = s.ctl := by
  simp [State.pathLost]

@[simp] theorem State.fwBell_ctl (s : State) (fault : Bool) (version : Nat) (kv : KVs) : (State.fwBell s fault version kv).ctl = s.ctl := by
  simp [State.fwBell]

@[simp] theorem State.setCon_ctl (s : State) (i : Nat) (c : Con) : (State.setCon s i c).ctl = s.ctl := by
  unfold State.setCon; simp only [State.ctl, Ctl.mk.injEq] <;> simp [↓ctl_mk, ctl_eqs]

@[simp] theorem State.setHeld_ctl (s : State) (i : Nat) : (State.setHeld s i).ctl = s.ctl := by
  simp [State.setHeld]

@[simp] theorem State.breakLine_ctl (s : State) (i : Nat) : (State.breakLine s i).ctl = s.ctl := by
  simp [State.breakLine]

@[simp] theorem State.echoBytes_ctl (s : State) (i : Nat) (bs : List Byte) : (State.echoBytes s i bs).ctl = s.ctl := by
  simp [State.echoBytes]

@[simp] theorem State.endLine_ctl (s : State) (i : Nat) : (State.endLine s i).ctl = s.ctl := by
  simp [State.endLine]

@[simp] theorem State.closeTcp_ctl (s : State) (i : Nat) : (State.closeTcp s i).ctl = s.ctl := by
  unfold State.closeTcp; simp only [State.ctl, Ctl.mk.injEq] <;> simp [↓ctl_mk, ctl_eqs]

@[simp] theorem State.echoReply_ctl (s : State) (f : List Byte) : (s.echoReply f).2.ctl = s.ctl := by
  unfold State.echoReply
  simp

@[simp] theorem State.endLogin_ctl (s : State) (i : Nat) : (State.endLogin s i).ctl = s.ctl := by
  simp [State.endLogin]

@[simp] theorem State.loginFailed_ctl (s : State) (ln : Ln) (user : List Byte) (code : Nat) : (State.loginFailed s ln user code).ctl = s.ctl := by
  simp [State.loginFailed]

@[simp] theorem State.enter_ctl (s : State) (ln : Ln) (user : List Byte) (level : Level) : (State.enter s ln user level).ctl = s.ctl := by
  simp [State.enter]

theorem State.wrongForm_ctl (s : State) (ln : Ln) (key : String) : (s.wrongForm ln key).ctl = s.ctl := by
  unfold State.wrongForm
  exact State.sessionVerb_ctl _ _ _ (fun u => by simp)

@[simp] theorem State.takeResult_ctl (s : State) (k : Nat) (r : Req) (f : Flit) : (State.takeResult s k r f).ctl = s.ctl := by
  simp [State.takeResult]

@[simp] theorem State.cutReply_ctl (s : State) (k : Nat) (r : Req) : (State.cutReply s k r).ctl = s.ctl := by
  unfold State.cutReply; simp only [State.ctl, Ctl.mk.injEq] <;> simp [↓ctl_mk, ctl_eqs]

@[simp] theorem State.beginDrain_ctl (s : State) (k port : Nat) (f : Port → Port) : (State.beginDrain s k port f).ctl = s.ctl := by
  simp [State.beginDrain]

@[simp] theorem State.sensorFailed_ctl (s : State) (n which : Nat) : (State.sensorFailed s n which).ctl = s.ctl := by
  simp [State.sensorFailed]

@[simp] theorem State.coolant_ctl (s : State) (addr : Nat) (r : Option Int) : (State.coolant s addr r).ctl = s.ctl := by
  unfold State.coolant
  (repeat' split) <;> first | (simp; done) | (simp only [State.ctl, Ctl.mk.injEq] <;> simp [↓ctl_mk, ctl_eqs])

@[simp] theorem State.loopOne_ctl (s : State) (i : Nat) (c : Option Bool) : (State.loopOne s i c).ctl = s.ctl := by
  unfold State.loopOne
  (repeat' split) <;> first | (simp; done) | (simp only [State.ctl, Ctl.mk.injEq] <;> simp [↓ctl_mk, ctl_eqs])

@[simp] theorem State.readReg_ctl (s : State) (addr : Nat) : (s.readReg addr).2.ctl = s.ctl := by
  unfold State.readReg
  dsimp only
  (repeat' split) <;> first | rfl | simp

@[simp] theorem State.clearSat_ctl (s : State) (n : Nat) (v : Word) : (State.clearSat s n v).ctl = s.ctl := by
  simp [State.clearSat]

@[simp] theorem State.loadWindow_ctl (s : State) (k : Nat) (v : Word) : (State.loadWindow s k v).ctl = s.ctl := by
  unfold State.loadWindow; simp only [State.ctl, Ctl.mk.injEq] <;> simp [↓ctl_mk, ctl_eqs]

@[simp] theorem State.peekFrom_ctl (ln : Ln) (addr n done : Nat) (s : State) : (State.peekFrom ln addr n done s).ctl = s.ctl := by
  induction n generalizing done s with
  | zero => simp [State.peekFrom]
  | succ n ih =>
    rw [State.peekFrom]
    split <;> simp [ih]

end Sys2Proof.Machine
end

