-- ==== Sys2Proof/Laws/CtlExec.lean ====
section
/-! SUPPORT. The part of the state that only the commands of reset, bring-up, shepherd and settings change. Each command. -/
namespace Sys2Proof.Machine

open Sys2Proof

set_option linter.all false

theorem execBorderTestComplete_ctl (x : EndIx) (failed : List (Fin 4)) (t : Time) (s : State) :
    ∃ next, execBorderTestComplete x failed t s = .next next ∧ next.ctl = s.ctl := by
  refine ⟨_, rfl, ?_⟩
  apply State.event_ctl
  intro g
  (repeat' split) <;> first | rfl | (simp; done) | (simp only [State.ctl, Ctl.mk.injEq] <;> simp [↓ctl_mk, ctl_eqs]; done)

theorem execShowEngine_ctl (detail : Bool) (ln : Ln) (s : State) :
    ∃ next, execShowEngine detail ln s = .next next ∧ next.ctl = s.ctl := by
  refine ⟨_, rfl, ?_⟩
  apply State.judged_ctl
  intro u
  (repeat' split) <;> first | rfl | (simp; done) | (simp only [State.ctl, Ctl.mk.injEq] <;> simp [↓ctl_mk, ctl_eqs]; done)

theorem execShowBoot_ctl (ln : Ln) (s : State) :
    ∃ next, execShowBoot ln s = .next next ∧ next.ctl = s.ctl := by
  refine ⟨_, rfl, ?_⟩
  apply State.judged_ctl
  intro u
  (repeat' split) <;> first | rfl | (simp; done) | (simp only [State.ctl, Ctl.mk.injEq] <;> simp [↓ctl_mk, ctl_eqs]; done)

theorem execSetBoot_ctl (full : Bool) (ln : Ln) (s : State) :
    ∃ next, execSetBoot full ln s = .next next ∧ next.ctl = s.ctl := by
  refine ⟨_, rfl, State.judged_ctl _ _ _ _ _ fun u => ?_⟩
  split
  · simp
  · rename_i h
    rw [State.ok_ctl]
    exact setFlash_ctl _ (flashTakes_frozen h)

theorem execSetClear_ctl (at_ : List Loc) (ln : Ln) (s : State) :
    ∃ next, execSetClear at_ ln s = .next next ∧ next.ctl = s.ctl := by
  refine ⟨_, rfl, State.judged_ctl _ _ _ _ _ fun u => ?_⟩
  split
  · simp
  · split
    · simp
    · split
      · simp
      · rename_i h
        rw [State.ok_ctl]
        exact setFlash_ctl _ (flashTakes_frozen h)

theorem execClockStep_ctl (n : Pad) (t : Time) (s : State) :
    ∃ next, execClockStep n t s = .next next ∧ next.ctl = s.ctl := by
  refine ⟨_, rfl, ?_⟩
  apply State.event_ctl
  intro g
  (repeat' split) <;> first | rfl | (simp; done) | (simp only [State.ctl, Ctl.mk.injEq] <;> simp [↓ctl_mk, ctl_eqs]; done)

theorem execSetClock_ctl (at_ : Loc) (n : Nat) (ln : Ln) (s : State) :
    ∃ next, execSetClock at_ n ln s = .next next ∧ next.ctl = s.ctl := by
  refine ⟨_, rfl, ?_⟩
  apply State.judged_ctl
  intro u
  (repeat' split) <;> first | rfl | (simp; done) | (simp only [State.ctl, Ctl.mk.injEq] <;> simp [↓ctl_mk, ctl_eqs]; done)

theorem execRingLoss_ctl (f : FieldIx) (t : Time) (s : State) :
    ∃ next, execRingLoss f t s = .next next ∧ next.ctl = s.ctl := by
  refine ⟨_, rfl, ?_⟩
  apply State.event_ctl
  intro g
  (repeat' split) <;> first | rfl | (simp; done) | (simp only [State.ctl, Ctl.mk.injEq] <;> simp [↓ctl_mk, ctl_eqs]; done)

theorem execThrottleEval_ctl (f : FieldIx) (t : Time) (s : State) :
    ∃ next, execThrottleEval f t s = .next next ∧ next.ctl = s.ctl := by
  refine ⟨_, rfl, ?_⟩
  apply State.event_ctl
  intro g
  (repeat' split) <;> first | rfl | (simp; done) | (simp only [State.ctl, Ctl.mk.injEq] <;> simp [↓ctl_mk, ctl_eqs]; done)

theorem execConsoleBreak_ctl (con : Fin 2) (t : Time) (s : State) :
    ∃ next, execConsoleBreak con t s = .next next ∧ next.ctl = s.ctl := by
  refine ⟨_, rfl, ?_⟩
  apply State.event_ctl
  intro g
  (repeat' split) <;> first | rfl | (simp; done) | (simp only [State.ctl, Ctl.mk.injEq] <;> simp [↓ctl_mk, ctl_eqs]; done)

theorem execCtsChange_ctl (con : Fin 2) (asserted : Bool) (t : Time) (s : State) :
    ∃ next, execCtsChange con asserted t s = .next next ∧ next.ctl = s.ctl := by
  refine ⟨_, rfl, ?_⟩
  apply State.event_ctl
  intro g
  (repeat' split) <;> first | rfl | (simp; done) | (simp only [State.ctl, Ctl.mk.injEq] <;> simp [↓ctl_mk, ctl_eqs]; done)

theorem execConsoleCharacter_ctl (con : Fin 2) (b : Byte) (t : Time) (s : State) :
    ∃ next, execConsoleCharacter con b t s = .next next ∧ next.ctl = s.ctl := by
  refine ⟨_, rfl, ?_⟩
  apply State.event_ctl
  intro g
  (repeat' split) <;> first | rfl | (simp; done) | (simp only [State.ctl, Ctl.mk.injEq] <;> simp [↓ctl_mk, ctl_eqs]; done)

theorem execTcpConnect_ctl (t : Time) (s : State) :
    ∃ next, execTcpConnect t s = .next next ∧ next.ctl = s.ctl := by
  refine ⟨_, rfl, ?_⟩
  apply State.event_ctl
  intro g
  (repeat' split) <;> first | rfl | (simp; done) | (simp only [State.ctl, Ctl.mk.injEq] <;> simp [↓ctl_mk, ctl_eqs]; done)

theorem execTcpClose_ctl (sess : Fin 10) (t : Time) (s : State) :
    ∃ next, execTcpClose sess t s = .next next ∧ next.ctl = s.ctl := by
  refine ⟨_, rfl, ?_⟩
  apply State.event_ctl
  intro g
  (repeat' split) <;> first | rfl | (simp; done) | (simp only [State.ctl, Ctl.mk.injEq] <;> simp [↓ctl_mk, ctl_eqs]; done)

theorem execMgmtPacket_ctl (bytes : List Byte) (t : Time) (s : State) :
    ∃ next, execMgmtPacket bytes t s = .next next ∧ next.ctl = s.ctl := by
  refine ⟨_, rfl, ?_⟩
  apply State.event_ctl
  intro g
  (repeat' split) <;> first | rfl | (simp; done) | (simp only [State.ctl, Ctl.mk.injEq] <;> simp [↓ctl_mk, ctl_eqs]; done)

theorem execIdleTimeout_ctl (sess : Fin 10) (t : Time) (s : State) :
    ∃ next, execIdleTimeout sess t s = .next next ∧ next.ctl = s.ctl := by
  refine ⟨_, rfl, ?_⟩
  apply State.event_ctl
  intro g
  (repeat' split) <;> first | rfl | (simp; done) | (simp only [State.ctl, Ctl.mk.injEq] <;> simp [↓ctl_mk, ctl_eqs]; done)

theorem execChallengeExpiry_ctl (sess : Fin 10) (t : Time) (s : State) :
    ∃ next, execChallengeExpiry sess t s = .next next ∧ next.ctl = s.ctl := by
  refine ⟨_, rfl, ?_⟩
  apply State.event_ctl
  intro g
  (repeat' split) <;> first | rfl | (simp; done) | (simp only [State.ctl, Ctl.mk.injEq] <;> simp [↓ctl_mk, ctl_eqs]; done)

theorem execLoginLockExpiry_ctl (sess : Fin 10) (t : Time) (s : State) :
    ∃ next, execLoginLockExpiry sess t s = .next next ∧ next.ctl = s.ctl := by
  refine ⟨_, rfl, ?_⟩
  apply State.event_ctl
  intro g
  (repeat' split) <;> first | rfl | (simp; done) | (simp only [State.ctl, Ctl.mk.injEq] <;> simp [↓ctl_mk, ctl_eqs]; done)

theorem execBellsLostNotice_ctl (sess : Fin 10) (t : Time) (s : State) :
    ∃ next, execBellsLostNotice sess t s = .next next ∧ next.ctl = s.ctl := by
  refine ⟨_, rfl, ?_⟩
  apply State.event_ctl
  intro g
  (repeat' split) <;> first | rfl | (simp; done) | (simp only [State.ctl, Ctl.mk.injEq] <;> simp [↓ctl_mk, ctl_eqs]; done)

theorem execLoginRequest_ctl (user : List Byte) (ln : Ln) (s : State) :
    ∃ next, execLoginRequest user ln s = .next next ∧ next.ctl = s.ctl := by
  refine ⟨_, rfl, ?_⟩
  apply State.sessionVerb_ctl
  intro u
  (repeat' split) <;> first | rfl | (simp; done) | (simp only [State.ctl, Ctl.mk.injEq] <;> simp [↓ctl_mk, ctl_eqs]; done)

theorem execLoginResponse_ctl (user sig : List Byte) (ln : Ln) (s : State) :
    ∃ next, execLoginResponse user sig ln s = .next next ∧ next.ctl = s.ctl := by
  refine ⟨_, rfl, ?_⟩
  apply State.sessionVerb_ctl
  intro u
  (repeat' split) <;> first | rfl | (simp; done) | (simp only [State.ctl, Ctl.mk.injEq] <;> simp [↓ctl_mk, ctl_eqs]; done)

theorem execLogout_ctl (ln : Ln) (s : State) :
    ∃ next, execLogout ln s = .next next ∧ next.ctl = s.ctl := by
  refine ⟨_, rfl, ?_⟩
  apply State.sessionVerb_ctl
  intro u
  (repeat' split) <;> first | rfl | (simp; done) | (simp only [State.ctl, Ctl.mk.injEq] <;> simp [↓ctl_mk, ctl_eqs]; done)

theorem execPing_ctl (ln : Ln) (s : State) :
    ∃ next, execPing ln s = .next next ∧ next.ctl = s.ctl := by
  refine ⟨_, rfl, ?_⟩
  apply State.sessionVerb_ctl
  intro u
  (repeat' split) <;> first | rfl | (simp; done) | (simp only [State.ctl, Ctl.mk.injEq] <;> simp [↓ctl_mk, ctl_eqs]; done)

theorem execMode_ctl (echo crc : Option Bool) (bells : Option (Fin 3)) (idle : Option Nat) (ln : Ln) (s : State) :
    ∃ next, execMode echo crc bells idle ln s = .next next ∧ next.ctl = s.ctl := by
  refine ⟨_, rfl, ?_⟩
  apply State.sessionVerb_ctl
  intro u
  (repeat' split) <;> first | rfl | (simp; done) | (simp only [State.ctl, Ctl.mk.injEq] <;> simp [↓ctl_mk, ctl_eqs]; done)

theorem execBadLine_ctl (sess : Fin 10) (bytes : List Byte) (overrun : Bool) (t : Time) (s : State) :
    ∃ next, execBadLine sess bytes overrun t s = .next next ∧ next.ctl = s.ctl := by
  refine ⟨_, rfl, ?_⟩
  dsimp only
  with_reducible apply ite_eq_ctl
  · rfl
  · with_reducible apply ite_eq_ctl
    · simp
    · split
      · simp
      · with_reducible apply ite_eq_ctl
        · rfl
        · split
          · with_reducible apply ite_eq_ctl
            · simp
            · with_reducible apply ite_eq_ctl
              · simp
              · rfl
          · simp

theorem execSetConsole_ctl (con : Nat) (baud : Option Nat) (flow : Option Bool) (ln : Ln) (s : State) :
    ∃ next, execSetConsole con baud flow ln s = .next next ∧ next.ctl = s.ctl := by
  refine ⟨_, rfl, State.judged_ctl _ _ _ _ _ fun u => State.inRange_ctl _ _ _ _ _ _ _ ?_⟩
  have hf : ∀ (a : State) (f : Flash), ({ a with flash := f } : State).ctl = a.ctl := fun _ _ => rfl
  split
  · simp
  · split
    · simp
    · dsimp only
      rw [State.setHeld_ctl, State.setCon_ctl, hf]
      exact State.ok_ctl _ _ _

theorem execSetNet_ctl (ip mask gw : BitVec 32) (mac : BitVec 48) (ln : Ln) (s : State) :
    ∃ next, execSetNet ip mask gw mac ln s = .next next ∧ next.ctl = s.ctl := by
  refine ⟨_, rfl, State.judged_ctl _ _ _ _ _ fun u => ?_⟩
  split
  · simp
  · rename_i h
    rw [State.ok_ctl]
    exact setFlash_ctl _ (flashTakes_frozen h)

theorem execShowStage_ctl (ln : Ln) (s : State) :
    ∃ next, execShowStage ln s = .next next ∧ next.ctl = s.ctl := by
  refine ⟨_, rfl, ?_⟩
  apply State.judged_ctl
  intro u
  (repeat' split) <;> first | rfl | (simp; done) | (simp only [State.ctl, Ctl.mk.injEq] <;> simp [↓ctl_mk, ctl_eqs]; done)

theorem execAddUser_ctl (name : List Byte) (level : Level) (key : List Byte) (ln : Ln) (s : State) :
    ∃ next, execAddUser name level key ln s = .next next ∧ next.ctl = s.ctl := by
  refine ⟨_, rfl, ?_⟩
  split
  · exact State.wrongForm_ctl _ _ _
  · split
    · exact State.wrongForm_ctl _ _ _
    · refine State.judged_ctl _ _ _ _ _ fun u => ?_
      dsimp only
      split
      · simp
      · split
        · simp
        · split
          · simp
          · rename_i h
            rw [State.ok_ctl]
            exact setFlash_ctl _ (flashTakes_frozen h)

theorem execRemoveUser_ctl (name : List Byte) (ln : Ln) (s : State) :
    ∃ next, execRemoveUser name ln s = .next next ∧ next.ctl = s.ctl := by
  refine ⟨_, rfl, State.judged_ctl _ _ _ _ _ fun u => ?_⟩
  dsimp only
  split
  · simp
  · split
    · simp
    · split
      · simp
      · rename_i h
        rw [State.ok_ctl]
        exact setFlash_ctl _ (flashTakes_frozen h)

theorem execShowUsers_ctl (ln : Ln) (s : State) :
    ∃ next, execShowUsers ln s = .next next ∧ next.ctl = s.ctl := by
  refine ⟨_, rfl, ?_⟩
  apply State.judged_ctl
  intro u
  (repeat' split) <;> first | rfl | (simp; done) | (simp only [State.ctl, Ctl.mk.injEq] <;> simp [↓ctl_mk, ctl_eqs]; done)

theorem State.storePort_ctl (s : State) (ned port : Nat) (p : Port) (ptp : Bool) (h : s.frozen = false) :
    (s.storePort ned port p ptp).ctl = s.ctl := setFlash_ctl _ h

theorem execAdmission_ctl (k : NedIx) (f : FrameIn) (t : Time) (s : State) :
    ∃ next, execAdmission k f t s = .next next ∧ next.ctl = s.ctl := by
  refine ⟨_, rfl, ?_⟩
  apply State.event_ctl
  intro g
  (repeat' split) <;> first | rfl | (simp; done) | (simp only [State.ctl, Ctl.mk.injEq] <;> simp [↓ctl_mk, ctl_eqs]; done)

theorem execGroupVerdict_ctl (k : NedIx) (fid : Nat) (group : GroupRead) (t : Time) (s : State) :
    ∃ next, execGroupVerdict k fid group t s = .next next ∧ next.ctl = s.ctl := by
  refine ⟨_, rfl, ?_⟩
  apply State.event_ctl
  intro g
  (repeat' split) <;> first | rfl | (simp; done) | (simp only [State.ctl, Ctl.mk.injEq] <;> simp [↓ctl_mk, ctl_eqs]; done)

theorem execFcsVerdict_ctl (k : NedIx) (fid : Nat) (good : Bool) (t : Time) (s : State) :
    ∃ next, execFcsVerdict k fid good t s = .next next ∧ next.ctl = s.ctl := by
  refine ⟨_, rfl, ?_⟩
  apply State.event_ctl
  intro g
  (repeat' split) <;> first | rfl | (simp; done) | (simp only [State.ctl, Ctl.mk.injEq] <;> simp [↓ctl_mk, ctl_eqs]; done) | (simp; rfl) | (simp; simp only [State.ctl, Ctl.mk.injEq] <;> simp [↓ctl_mk, ctl_eqs]; done) | (dsimp only; simp; done) | (simp (disch := (intros; (repeat' split) <;> (first | rfl | (simp; done) | (simp only [State.ctl, Ctl.mk.injEq] <;> simp [↓ctl_mk, ctl_eqs]; done) | (simp; rfl) | (simp; simp only [State.ctl, Ctl.mk.injEq] <;> simp [↓ctl_mk, ctl_eqs]; done)))); done) | (dsimp only; simp (disch := (intros; (repeat' split) <;> (first | rfl | (simp; done) | (simp only [State.ctl, Ctl.mk.injEq] <;> simp [↓ctl_mk, ctl_eqs]; done) | (simp; rfl) | (simp; simp only [State.ctl, Ctl.mk.injEq] <;> simp [↓ctl_mk, ctl_eqs]; done)))); done) | (simp (disch := (intros; (repeat' split) <;> (first | rfl | (simp; done) | (simp only [State.ctl, Ctl.mk.injEq] <;> simp [↓ctl_mk, ctl_eqs]; done) | (simp; rfl) | (simp; simp only [State.ctl, Ctl.mk.injEq] <;> simp [↓ctl_mk, ctl_eqs]; done)))); rfl) | (simp (disch := (intros; (repeat' split) <;> (first | rfl | (simp; done) | (simp only [State.ctl, Ctl.mk.injEq] <;> simp [↓ctl_mk, ctl_eqs]; done) | (simp; rfl) | (simp; simp only [State.ctl, Ctl.mk.injEq] <;> simp [↓ctl_mk, ctl_eqs]; done)))); simp only [State.ctl, Ctl.mk.injEq] <;> simp [↓ctl_mk, ctl_eqs]; done) | (dsimp only; simp (disch := (intros; (repeat' split) <;> (first | rfl | (simp; done) | (simp only [State.ctl, Ctl.mk.injEq] <;> simp [↓ctl_mk, ctl_eqs]; done) | (simp; rfl) | (simp; simp only [State.ctl, Ctl.mk.injEq] <;> simp [↓ctl_mk, ctl_eqs]; done)))); simp only [State.ctl, Ctl.mk.injEq] <;> simp [↓ctl_mk, ctl_eqs]; done)

theorem execFrameTail_ctl (k : NedIx) (fid : Nat) (t : Time) (s : State) :
    ∃ next, execFrameTail k fid t s = .next next ∧ next.ctl = s.ctl := by
  refine ⟨_, rfl, ?_⟩
  apply State.event_ctl
  intro g
  (repeat' split) <;> first | rfl | (simp; done) | (simp only [State.ctl, Ctl.mk.injEq] <;> simp [↓ctl_mk, ctl_eqs]; done) | (simp; rfl) | (simp; simp only [State.ctl, Ctl.mk.injEq] <;> simp [↓ctl_mk, ctl_eqs]; done) | (dsimp only; simp; done) | (simp (disch := (intros; (repeat' split) <;> (first | rfl | (simp; done) | (simp only [State.ctl, Ctl.mk.injEq] <;> simp [↓ctl_mk, ctl_eqs]; done) | (simp; rfl) | (simp; simp only [State.ctl, Ctl.mk.injEq] <;> simp [↓ctl_mk, ctl_eqs]; done)))); done) | (dsimp only; simp (disch := (intros; (repeat' split) <;> (first | rfl | (simp; done) | (simp only [State.ctl, Ctl.mk.injEq] <;> simp [↓ctl_mk, ctl_eqs]; done) | (simp; rfl) | (simp; simp only [State.ctl, Ctl.mk.injEq] <;> simp [↓ctl_mk, ctl_eqs]; done)))); done) | (simp (disch := (intros; (repeat' split) <;> (first | rfl | (simp; done) | (simp only [State.ctl, Ctl.mk.injEq] <;> simp [↓ctl_mk, ctl_eqs]; done) | (simp; rfl) | (simp; simp only [State.ctl, Ctl.mk.injEq] <;> simp [↓ctl_mk, ctl_eqs]; done)))); rfl) | (simp (disch := (intros; (repeat' split) <;> (first | rfl | (simp; done) | (simp only [State.ctl, Ctl.mk.injEq] <;> simp [↓ctl_mk, ctl_eqs]; done) | (simp; rfl) | (simp; simp only [State.ctl, Ctl.mk.injEq] <;> simp [↓ctl_mk, ctl_eqs]; done)))); simp only [State.ctl, Ctl.mk.injEq] <;> simp [↓ctl_mk, ctl_eqs]; done) | (dsimp only; simp (disch := (intros; (repeat' split) <;> (first | rfl | (simp; done) | (simp only [State.ctl, Ctl.mk.injEq] <;> simp [↓ctl_mk, ctl_eqs]; done) | (simp; rfl) | (simp; simp only [State.ctl, Ctl.mk.injEq] <;> simp [↓ctl_mk, ctl_eqs]; done)))); simp only [State.ctl, Ctl.mk.injEq] <;> simp [↓ctl_mk, ctl_eqs]; done)

theorem execSpeculationAbort_ctl (k : NedIx) (fid : Nat) (t : Time) (s : State) :
    ∃ next, execSpeculationAbort k fid t s = .next next ∧ next.ctl = s.ctl := by
  refine ⟨_, rfl, ?_⟩
  apply State.event_ctl
  intro g
  (repeat' split) <;> first | rfl | (simp; done) | (simp only [State.ctl, Ctl.mk.injEq] <;> simp [↓ctl_mk, ctl_eqs]; done) | (simp; rfl) | (simp; simp only [State.ctl, Ctl.mk.injEq] <;> simp [↓ctl_mk, ctl_eqs]; done) | (dsimp only; simp; done) | (simp (disch := (intros; (repeat' split) <;> (first | rfl | (simp; done) | (simp only [State.ctl, Ctl.mk.injEq] <;> simp [↓ctl_mk, ctl_eqs]; done) | (simp; rfl) | (simp; simp only [State.ctl, Ctl.mk.injEq] <;> simp [↓ctl_mk, ctl_eqs]; done)))); done) | (dsimp only; simp (disch := (intros; (repeat' split) <;> (first | rfl | (simp; done) | (simp only [State.ctl, Ctl.mk.injEq] <;> simp [↓ctl_mk, ctl_eqs]; done) | (simp; rfl) | (simp; simp only [State.ctl, Ctl.mk.injEq] <;> simp [↓ctl_mk, ctl_eqs]; done)))); done) | (simp (disch := (intros; (repeat' split) <;> (first | rfl | (simp; done) | (simp only [State.ctl, Ctl.mk.injEq] <;> simp [↓ctl_mk, ctl_eqs]; done) | (simp; rfl) | (simp; simp only [State.ctl, Ctl.mk.injEq] <;> simp [↓ctl_mk, ctl_eqs]; done)))); rfl) | (simp (disch := (intros; (repeat' split) <;> (first | rfl | (simp; done) | (simp only [State.ctl, Ctl.mk.injEq] <;> simp [↓ctl_mk, ctl_eqs]; done) | (simp; rfl) | (simp; simp only [State.ctl, Ctl.mk.injEq] <;> simp [↓ctl_mk, ctl_eqs]; done)))); simp only [State.ctl, Ctl.mk.injEq] <;> simp [↓ctl_mk, ctl_eqs]; done) | (dsimp only; simp (disch := (intros; (repeat' split) <;> (first | rfl | (simp; done) | (simp only [State.ctl, Ctl.mk.injEq] <;> simp [↓ctl_mk, ctl_eqs]; done) | (simp; rfl) | (simp; simp only [State.ctl, Ctl.mk.injEq] <;> simp [↓ctl_mk, ctl_eqs]; done)))); simp only [State.ctl, Ctl.mk.injEq] <;> simp [↓ctl_mk, ctl_eqs]; done)

theorem execResultArrival_ctl (k : NedIx) (e : Fin 2) (lane : Lane) (vc : Bool) (t : Time) (s : State) :
    ∃ next, execResultArrival k e lane vc t s = .next next ∧ next.ctl = s.ctl := by
  refine ⟨_, rfl, ?_⟩
  apply State.event_ctl
  intro g
  dsimp only
  (repeat' split) <;> first | rfl | (simp; done) | (simp only [State.ctl, Ctl.mk.injEq] <;> simp [↓ctl_mk, ctl_eqs]; done)

theorem execReplyStart_ctl (k : NedIx) (fid : Nat) (t : Time) (s : State) :
    ∃ next, execReplyStart k fid t s = .next next ∧ next.ctl = s.ctl := by
  refine ⟨_, rfl, ?_⟩
  apply State.event_ctl
  intro g
  (repeat' split) <;> first | rfl | (simp; done) | (simp only [State.ctl, Ctl.mk.injEq] <;> simp [↓ctl_mk, ctl_eqs]; done)

theorem execPtpEvent_ctl (k : NedIx) (port : Fin 8) (bytes : List Byte) (egress : Bool) (sfd t : Time) (s : State) :
    ∃ next, execPtpEvent k port bytes egress sfd t s = .next next ∧ next.ctl = s.ctl := by
  refine ⟨_, rfl, State.event_ctl _ _ _ _ fun _ => ?_⟩
  dsimp only
  with_reducible apply ite_eq_ctl
  · exact (State.modNed_ctl _ _ _).trans (wire_ctl _ _)
  · exact (heard_ctl _ _).trans (State.modNed_ctl _ _ _)

theorem execRsFault_ctl (k : NedIx) (port : Fin 8) (remote : Bool) (t : Time) (s : State) :
    ∃ next, execRsFault k port remote t s = .next next ∧ next.ctl = s.ctl := by
  refine ⟨_, rfl, ?_⟩
  apply State.event_ctl
  intro g
  (repeat' split) <;> first | rfl | (simp; done) | (simp only [State.ctl, Ctl.mk.injEq] <;> simp [↓ctl_mk, ctl_eqs]; done)

theorem execRsFaultCleared_ctl (k : NedIx) (fault : PortFault) (t : Time) (s : State) :
    ∃ next, execRsFaultCleared k fault t s = .next next ∧ next.ctl = s.ctl := by
  refine ⟨_, rfl, ?_⟩
  apply State.event_ctl
  intro g
  (repeat' split) <;> first | rfl | (simp; done) | (simp only [State.ctl, Ctl.mk.injEq] <;> simp [↓ctl_mk, ctl_eqs]; done)

theorem execNedDoubt_ctl (k : NedIx) (cause : Nat) (t : Time) (s : State) :
    ∃ next, execNedDoubt k cause t s = .next next ∧ next.ctl = s.ctl := by
  refine ⟨_, rfl, ?_⟩
  apply State.event_ctl
  intro g
  (repeat' split) <;> first | rfl | (simp; done) | (simp only [State.ctl, Ctl.mk.injEq] <;> simp [↓ctl_mk, ctl_eqs]; done)

theorem execPwrFailNedStop_ctl (t : Time) (s : State) :
    ∃ next, execPwrFailNedStop t s = .next next ∧ next.ctl = s.ctl := by
  refine ⟨_, rfl, State.event_ctl _ _ _ _ fun _ => ?_⟩
  exact foldl_ctl _ (fun _ _ => by simp) _ _

theorem execKeepaliveLoss_ctl (die : Nat) (t : Time) (s : State) :
    ∃ next, execKeepaliveLoss die t s = .next next ∧ next.ctl = s.ctl := by
  refine ⟨_, rfl, ?_⟩
  apply State.event_ctl
  intro g
  (repeat' split) <;> first | rfl | (simp; done) | (simp only [State.ctl, Ctl.mk.injEq] <;> simp [↓ctl_mk, ctl_eqs]; done)

theorem execPortDrainComplete_ctl (k : NedIx) (port : Fin 8) (t : Time) (s : State) :
    ∃ next, execPortDrainComplete k port t s = .next next ∧ next.ctl = s.ctl := by
  refine ⟨_, rfl, ?_⟩
  apply State.event_ctl
  intro g
  (repeat' split) <;> first | rfl | (simp; done) | (simp only [State.ctl, Ctl.mk.injEq] <;> simp [↓ctl_mk, ctl_eqs]; done)

theorem execPortDrainExpiry_ctl (k : NedIx) (port : Fin 8) (t : Time) (s : State) :
    ∃ next, execPortDrainExpiry k port t s = .next next ∧ next.ctl = s.ctl := by
  refine ⟨_, rfl, ?_⟩
  apply State.event_ctl
  intro g
  (repeat' split) <;> first | rfl | (simp; done) | (simp only [State.ctl, Ctl.mk.injEq] <;> simp [↓ctl_mk, ctl_eqs]; done)

theorem execPortSettingsApplied_ctl (k : NedIx) (port : Fin 8) (t : Time) (s : State) :
    ∃ next, execPortSettingsApplied k port t s = .next next ∧ next.ctl = s.ctl := by
  refine ⟨_, rfl, ?_⟩
  apply State.event_ctl
  intro g
  dsimp only
  (repeat' split) <;> first | rfl | (simp; done) | (simp only [State.ctl, Ctl.mk.injEq] <;> simp [↓ctl_mk, ctl_eqs]; done)

theorem execPenRelease_ctl (k : NedIx) (t : Time) (s : State) :
    ∃ next, execPenRelease k t s = .next next ∧ next.ctl = s.ctl := by
  refine ⟨_, rfl, State.event_ctl _ _ _ _ fun _ => ?_⟩
  dsimp only
  split
  · rfl
  · rw [State.intoWafer_ctl, State.count_ctl, State.setNed_ctl]
    rfl

theorem execPenDeadlineExpiry_ctl (k : NedIx) (fid : Nat) (t : Time) (s : State) :
    ∃ next, execPenDeadlineExpiry k fid t s = .next next ∧ next.ctl = s.ctl := by
  refine ⟨_, rfl, ?_⟩
  apply State.event_ctl
  intro g
  (repeat' split) <;> first | rfl | (simp; done) | (simp only [State.ctl, Ctl.mk.injEq] <;> simp [↓ctl_mk, ctl_eqs]; done)

theorem execBurstToken_ctl (k : NedIx) (t : Time) (s : State) :
    ∃ next, execBurstToken k t s = .next next ∧ next.ctl = s.ctl := by
  refine ⟨_, rfl, ?_⟩
  apply State.event_ctl
  intro g
  dsimp only
  (repeat' split) <;> first | rfl | (simp; done) | (simp only [State.ctl, Ctl.mk.injEq] <;> simp [↓ctl_mk, ctl_eqs]; done)

theorem execInFlightLimit_ctl (k : NedIx) (fid : Nat) (t : Time) (s : State) :
    ∃ next, execInFlightLimit k fid t s = .next next ∧ next.ctl = s.ctl := by
  refine ⟨_, rfl, ?_⟩
  apply State.event_ctl
  intro g
  (repeat' split) <;> first | rfl | (simp; done) | (simp only [State.ctl, Ctl.mk.injEq] <;> simp [↓ctl_mk, ctl_eqs]; done)

theorem execStrayRefusal_ctl (k : NedIx) (tag : BitVec 16) (t : Time) (s : State) :
    ∃ next, execStrayRefusal k tag t s = .next next ∧ next.ctl = s.ctl := by
  refine ⟨_, rfl, ?_⟩
  apply State.event_ctl
  intro g
  (repeat' split) <;> first | rfl | (simp; done) | (simp only [State.ctl, Ctl.mk.injEq] <;> simp [↓ctl_mk, ctl_eqs]; done)

theorem execShowPort_ctl (ned : Nat) (port : Option Nat) (ln : Ln) (s : State) :
    ∃ next, execShowPort ned port ln s = .next next ∧ next.ctl = s.ctl := by
  refine ⟨_, rfl, ?_⟩
  apply State.judged_ctl
  intro u
  (repeat' split) <;> first | rfl | (simp; done) | (simp only [State.ctl, Ctl.mk.injEq] <;> simp [↓ctl_mk, ctl_eqs]; done)

theorem execSetLanes_ctl (ned group mode : Nat) (ln : Ln) (s : State) :
    ∃ next, execSetLanes ned group mode ln s = .next next ∧ next.ctl = s.ctl := by
  refine ⟨_, rfl, ?_⟩
  apply State.judged_ctl
  intro u
  (repeat' first | (refine State.inRange_ctl _ _ _ _ _ _ _ ?_) | (refine State.onFold_ctl _ _ _ _ ?_) | (refine State.onChannel_ctl _ _ _ _ ?_) | (refine State.guard_ctl _ _ _ _ ?_) | intro _ | split) <;> first | rfl | (simp; done) | (simp only [State.ctl, Ctl.mk.injEq] <;> simp [↓ctl_mk, ctl_eqs]; done) | (simp; rfl) | (simp; simp only [State.ctl, Ctl.mk.injEq] <;> simp [↓ctl_mk, ctl_eqs]; done) | (dsimp only; simp; done) | (simp (disch := (intros; (repeat' split) <;> (first | rfl | (simp; done) | (simp only [State.ctl, Ctl.mk.injEq] <;> simp [↓ctl_mk, ctl_eqs]; done) | (simp; rfl) | (simp; simp only [State.ctl, Ctl.mk.injEq] <;> simp [↓ctl_mk, ctl_eqs]; done)))); done) | (dsimp only; simp (disch := (intros; (repeat' split) <;> (first | rfl | (simp; done) | (simp only [State.ctl, Ctl.mk.injEq] <;> simp [↓ctl_mk, ctl_eqs]; done) | (simp; rfl) | (simp; simp only [State.ctl, Ctl.mk.injEq] <;> simp [↓ctl_mk, ctl_eqs]; done)))); done) | (simp (disch := (intros; (repeat' split) <;> (first | rfl | (simp; done) | (simp only [State.ctl, Ctl.mk.injEq] <;> simp [↓ctl_mk, ctl_eqs]; done) | (simp; rfl) | (simp; simp only [State.ctl, Ctl.mk.injEq] <;> simp [↓ctl_mk, ctl_eqs]; done)))); rfl) | (simp (disch := (intros; (repeat' split) <;> (first | rfl | (simp; done) | (simp only [State.ctl, Ctl.mk.injEq] <;> simp [↓ctl_mk, ctl_eqs]; done) | (simp; rfl) | (simp; simp only [State.ctl, Ctl.mk.injEq] <;> simp [↓ctl_mk, ctl_eqs]; done)))); simp only [State.ctl, Ctl.mk.injEq] <;> simp [↓ctl_mk, ctl_eqs]; done) | (dsimp only; simp (disch := (intros; (repeat' split) <;> (first | rfl | (simp; done) | (simp only [State.ctl, Ctl.mk.injEq] <;> simp [↓ctl_mk, ctl_eqs]; done) | (simp; rfl) | (simp; simp only [State.ctl, Ctl.mk.injEq] <;> simp [↓ctl_mk, ctl_eqs]; done)))); simp only [State.ctl, Ctl.mk.injEq] <;> simp [↓ctl_mk, ctl_eqs]; done)

theorem execSetPort_ctl (ned port : Nat) (mac : Option (BitVec 48)) (template : Option Nat) (ptp : Option Bool) (eq : Option Nat)
    (store : Bool) (ln : Ln) (s : State) :
    ∃ next, execSetPort ned port mac template ptp eq store ln s = .next next ∧ next.ctl = s.ctl := by
  refine ⟨_, rfl, State.judged_ctl _ _ _ _ _ fun u => ?_⟩
  refine State.inRange_ctl _ _ _ _ _ _ _ ?_
  dsimp only
  split
  · simp
  · refine State.inRange_ctl _ _ _ _ _ _ _ ?_
    split
    · simp
    · split
      · simp
      · split
        · simp
        · rename_i h
          simp only [State.await_ctl]
          split
          · rename_i hs
            rw [State.storePort_ctl]
            · simp
            · rw [frozen_of_core (State.beginDrain_core _ _ _ _)]
              simp [hs, State.flashTakes] at h
              exact h.2
          · simp

theorem execEnablePort_ctl (ned port : Nat) (ln : Ln) (s : State) :
    ∃ next, execEnablePort ned port ln s = .next next ∧ next.ctl = s.ctl := by
  refine ⟨_, rfl, ?_⟩
  apply State.judged_ctl
  intro u
  (repeat' split) <;> first | rfl | (simp; done) | (simp only [State.ctl, Ctl.mk.injEq] <;> simp [↓ctl_mk, ctl_eqs]; done)

theorem execDisablePort_ctl (ned port : Nat) (ln : Ln) (s : State) :
    ∃ next, execDisablePort ned port ln s = .next next ∧ next.ctl = s.ctl := by
  refine ⟨_, rfl, ?_⟩
  apply State.judged_ctl
  intro u
  (repeat' split) <;> first | rfl | (simp; done) | (simp only [State.ctl, Ctl.mk.injEq] <;> simp [↓ctl_mk, ctl_eqs]; done)

theorem execSetTemplate_ctl (ned index : Nat) (a : TemplateArgs) (ln : Ln) (s : State) :
    ∃ next, execSetTemplate ned index a ln s = .next next ∧ next.ctl = s.ctl := by
  refine ⟨_, rfl, ?_⟩
  apply State.judged_ctl
  intro u
  (repeat' first | (refine State.inRange_ctl _ _ _ _ _ _ _ ?_) | (refine State.onFold_ctl _ _ _ _ ?_) | (refine State.onChannel_ctl _ _ _ _ ?_) | (refine State.guard_ctl _ _ _ _ ?_) | intro _ | split) <;> first | rfl | (simp; done) | (simp only [State.ctl, Ctl.mk.injEq] <;> simp [↓ctl_mk, ctl_eqs]; done) | (simp; rfl) | (simp; simp only [State.ctl, Ctl.mk.injEq] <;> simp [↓ctl_mk, ctl_eqs]; done) | (dsimp only; simp; done) | (simp (disch := (intros; (repeat' split) <;> (first | rfl | (simp; done) | (simp only [State.ctl, Ctl.mk.injEq] <;> simp [↓ctl_mk, ctl_eqs]; done) | (simp; rfl) | (simp; simp only [State.ctl, Ctl.mk.injEq] <;> simp [↓ctl_mk, ctl_eqs]; done)))); done) | (dsimp only; simp (disch := (intros; (repeat' split) <;> (first | rfl | (simp; done) | (simp only [State.ctl, Ctl.mk.injEq] <;> simp [↓ctl_mk, ctl_eqs]; done) | (simp; rfl) | (simp; simp only [State.ctl, Ctl.mk.injEq] <;> simp [↓ctl_mk, ctl_eqs]; done)))); done) | (simp (disch := (intros; (repeat' split) <;> (first | rfl | (simp; done) | (simp only [State.ctl, Ctl.mk.injEq] <;> simp [↓ctl_mk, ctl_eqs]; done) | (simp; rfl) | (simp; simp only [State.ctl, Ctl.mk.injEq] <;> simp [↓ctl_mk, ctl_eqs]; done)))); rfl) | (simp (disch := (intros; (repeat' split) <;> (first | rfl | (simp; done) | (simp only [State.ctl, Ctl.mk.injEq] <;> simp [↓ctl_mk, ctl_eqs]; done) | (simp; rfl) | (simp; simp only [State.ctl, Ctl.mk.injEq] <;> simp [↓ctl_mk, ctl_eqs]; done)))); simp only [State.ctl, Ctl.mk.injEq] <;> simp [↓ctl_mk, ctl_eqs]; done) | (dsimp only; simp (disch := (intros; (repeat' split) <;> (first | rfl | (simp; done) | (simp only [State.ctl, Ctl.mk.injEq] <;> simp [↓ctl_mk, ctl_eqs]; done) | (simp; rfl) | (simp; simp only [State.ctl, Ctl.mk.injEq] <;> simp [↓ctl_mk, ctl_eqs]; done)))); simp only [State.ctl, Ctl.mk.injEq] <;> simp [↓ctl_mk, ctl_eqs]; done)

theorem execSetBurst_ctl (ned rate depth : Nat) (ln : Ln) (s : State) :
    ∃ next, execSetBurst ned rate depth ln s = .next next ∧ next.ctl = s.ctl := by
  refine ⟨_, rfl, ?_⟩
  apply State.judged_ctl
  intro u
  (repeat' first | (refine State.inRange_ctl _ _ _ _ _ _ _ ?_) | (refine State.onFold_ctl _ _ _ _ ?_) | (refine State.onChannel_ctl _ _ _ _ ?_) | (refine State.guard_ctl _ _ _ _ ?_) | intro _ | split) <;> first | rfl | (simp; done) | (simp only [State.ctl, Ctl.mk.injEq] <;> simp [↓ctl_mk, ctl_eqs]; done) | (simp; rfl) | (simp; simp only [State.ctl, Ctl.mk.injEq] <;> simp [↓ctl_mk, ctl_eqs]; done) | (dsimp only; simp; done) | (simp (disch := (intros; (repeat' split) <;> (first | rfl | (simp; done) | (simp only [State.ctl, Ctl.mk.injEq] <;> simp [↓ctl_mk, ctl_eqs]; done) | (simp; rfl) | (simp; simp only [State.ctl, Ctl.mk.injEq] <;> simp [↓ctl_mk, ctl_eqs]; done)))); done) | (dsimp only; simp (disch := (intros; (repeat' split) <;> (first | rfl | (simp; done) | (simp only [State.ctl, Ctl.mk.injEq] <;> simp [↓ctl_mk, ctl_eqs]; done) | (simp; rfl) | (simp; simp only [State.ctl, Ctl.mk.injEq] <;> simp [↓ctl_mk, ctl_eqs]; done)))); done) | (simp (disch := (intros; (repeat' split) <;> (first | rfl | (simp; done) | (simp only [State.ctl, Ctl.mk.injEq] <;> simp [↓ctl_mk, ctl_eqs]; done) | (simp; rfl) | (simp; simp only [State.ctl, Ctl.mk.injEq] <;> simp [↓ctl_mk, ctl_eqs]; done)))); rfl) | (simp (disch := (intros; (repeat' split) <;> (first | rfl | (simp; done) | (simp only [State.ctl, Ctl.mk.injEq] <;> simp [↓ctl_mk, ctl_eqs]; done) | (simp; rfl) | (simp; simp only [State.ctl, Ctl.mk.injEq] <;> simp [↓ctl_mk, ctl_eqs]; done)))); simp only [State.ctl, Ctl.mk.injEq] <;> simp [↓ctl_mk, ctl_eqs]; done) | (dsimp only; simp (disch := (intros; (repeat' split) <;> (first | rfl | (simp; done) | (simp only [State.ctl, Ctl.mk.injEq] <;> simp [↓ctl_mk, ctl_eqs]; done) | (simp; rfl) | (simp; simp only [State.ctl, Ctl.mk.injEq] <;> simp [↓ctl_mk, ctl_eqs]; done)))); simp only [State.ctl, Ctl.mk.injEq] <;> simp [↓ctl_mk, ctl_eqs]; done)

theorem execSetPtp_ctl (ned port : Nat) (ln : Ln) (s : State) :
    ∃ next, execSetPtp ned port ln s = .next next ∧ next.ctl = s.ctl := by
  refine ⟨_, rfl, ?_⟩
  apply State.judged_ctl
  intro u
  (repeat' first | (refine State.inRange_ctl _ _ _ _ _ _ _ ?_) | (refine State.onFold_ctl _ _ _ _ ?_) | (refine State.onChannel_ctl _ _ _ _ ?_) | (refine State.guard_ctl _ _ _ _ ?_) | intro _ | split) <;> first | rfl | (simp; done) | (simp only [State.ctl, Ctl.mk.injEq] <;> simp [↓ctl_mk, ctl_eqs]; done) | (simp; rfl) | (simp; simp only [State.ctl, Ctl.mk.injEq] <;> simp [↓ctl_mk, ctl_eqs]; done) | (dsimp only; simp; done) | (simp (disch := (intros; (repeat' split) <;> (first | rfl | (simp; done) | (simp only [State.ctl, Ctl.mk.injEq] <;> simp [↓ctl_mk, ctl_eqs]; done) | (simp; rfl) | (simp; simp only [State.ctl, Ctl.mk.injEq] <;> simp [↓ctl_mk, ctl_eqs]; done)))); done) | (dsimp only; simp (disch := (intros; (repeat' split) <;> (first | rfl | (simp; done) | (simp only [State.ctl, Ctl.mk.injEq] <;> simp [↓ctl_mk, ctl_eqs]; done) | (simp; rfl) | (simp; simp only [State.ctl, Ctl.mk.injEq] <;> simp [↓ctl_mk, ctl_eqs]; done)))); done) | (simp (disch := (intros; (repeat' split) <;> (first | rfl | (simp; done) | (simp only [State.ctl, Ctl.mk.injEq] <;> simp [↓ctl_mk, ctl_eqs]; done) | (simp; rfl) | (simp; simp only [State.ctl, Ctl.mk.injEq] <;> simp [↓ctl_mk, ctl_eqs]; done)))); rfl) | (simp (disch := (intros; (repeat' split) <;> (first | rfl | (simp; done) | (simp only [State.ctl, Ctl.mk.injEq] <;> simp [↓ctl_mk, ctl_eqs]; done) | (simp; rfl) | (simp; simp only [State.ctl, Ctl.mk.injEq] <;> simp [↓ctl_mk, ctl_eqs]; done)))); simp only [State.ctl, Ctl.mk.injEq] <;> simp [↓ctl_mk, ctl_eqs]; done) | (dsimp only; simp (disch := (intros; (repeat' split) <;> (first | rfl | (simp; done) | (simp only [State.ctl, Ctl.mk.injEq] <;> simp [↓ctl_mk, ctl_eqs]; done) | (simp; rfl) | (simp; simp only [State.ctl, Ctl.mk.injEq] <;> simp [↓ctl_mk, ctl_eqs]; done)))); simp only [State.ctl, Ctl.mk.injEq] <;> simp [↓ctl_mk, ctl_eqs]; done)

theorem execSetBucket_ctl (ned index fold rate depth : Nat) (burst pen : Option Bool) (ln : Ln) (s : State) :
    ∃ next, execSetBucket ned index fold rate depth burst pen ln s = .next next ∧ next.ctl = s.ctl := by
  refine ⟨_, rfl, ?_⟩
  apply State.judged_ctl
  intro u
  (repeat' first | (refine State.inRange_ctl _ _ _ _ _ _ _ ?_) | (refine State.onFold_ctl _ _ _ _ ?_) | (refine State.onChannel_ctl _ _ _ _ ?_) | (refine State.guard_ctl _ _ _ _ ?_) | intro _ | split) <;> first | rfl | (simp; done) | (simp only [State.ctl, Ctl.mk.injEq] <;> simp [↓ctl_mk, ctl_eqs]; done) | (simp; rfl) | (simp; simp only [State.ctl, Ctl.mk.injEq] <;> simp [↓ctl_mk, ctl_eqs]; done) | (dsimp only; simp; done) | (simp (disch := (intros; (repeat' split) <;> (first | rfl | (simp; done) | (simp only [State.ctl, Ctl.mk.injEq] <;> simp [↓ctl_mk, ctl_eqs]; done) | (simp; rfl) | (simp; simp only [State.ctl, Ctl.mk.injEq] <;> simp [↓ctl_mk, ctl_eqs]; done)))); done) | (dsimp only; simp (disch := (intros; (repeat' split) <;> (first | rfl | (simp; done) | (simp only [State.ctl, Ctl.mk.injEq] <;> simp [↓ctl_mk, ctl_eqs]; done) | (simp; rfl) | (simp; simp only [State.ctl, Ctl.mk.injEq] <;> simp [↓ctl_mk, ctl_eqs]; done)))); done) | (simp (disch := (intros; (repeat' split) <;> (first | rfl | (simp; done) | (simp only [State.ctl, Ctl.mk.injEq] <;> simp [↓ctl_mk, ctl_eqs]; done) | (simp; rfl) | (simp; simp only [State.ctl, Ctl.mk.injEq] <;> simp [↓ctl_mk, ctl_eqs]; done)))); rfl) | (simp (disch := (intros; (repeat' split) <;> (first | rfl | (simp; done) | (simp only [State.ctl, Ctl.mk.injEq] <;> simp [↓ctl_mk, ctl_eqs]; done) | (simp; rfl) | (simp; simp only [State.ctl, Ctl.mk.injEq] <;> simp [↓ctl_mk, ctl_eqs]; done)))); simp only [State.ctl, Ctl.mk.injEq] <;> simp [↓ctl_mk, ctl_eqs]; done) | (dsimp only; simp (disch := (intros; (repeat' split) <;> (first | rfl | (simp; done) | (simp only [State.ctl, Ctl.mk.injEq] <;> simp [↓ctl_mk, ctl_eqs]; done) | (simp; rfl) | (simp; simp only [State.ctl, Ctl.mk.injEq] <;> simp [↓ctl_mk, ctl_eqs]; done)))); simp only [State.ctl, Ctl.mk.injEq] <;> simp [↓ctl_mk, ctl_eqs]; done)

theorem execShowBucket_ctl (ned index : Nat) (ln : Ln) (s : State) :
    ∃ next, execShowBucket ned index ln s = .next next ∧ next.ctl = s.ctl := by
  refine ⟨_, rfl, ?_⟩
  apply State.judged_ctl
  intro u
  (repeat' split) <;> first | rfl | (simp; done) | (simp only [State.ctl, Ctl.mk.injEq] <;> simp [↓ctl_mk, ctl_eqs]; done)

theorem execCreateFold_ctl (a : FoldArgs) (ln : Ln) (s : State) :
    ∃ next, execCreateFold a ln s = .next next ∧ next.ctl = s.ctl := by
  refine ⟨_, rfl, State.judged_ctl _ _ _ _ _ fun u => State.guard_ctl _ _ _ _ ?_⟩
  split
  · simp
  · rename_i h
    rw [State.creationEnds_ctl, State.await_ctl, State.mirror_ctl, State.enterFold_ctl, State.leaseAll_ctl h]

theorem execResizeFold_ctl (id : Nat) (a : ResizeArgs) (ln : Ln) (s : State) :
    ∃ next, execResizeFold id a ln s = .next next ∧ next.ctl = s.ctl := by
  refine ⟨_, rfl, State.judged_ctl _ _ _ _ _ fun u => State.onFold_ctl _ _ _ _ fun f => State.guard_ctl _ _ _ _ ?_⟩
  split
  · simp
  · rename_i h
    dsimp only
    rw [State.ok_ctl, State.mirror_ctl, State.resizeTo_ctl, State.leaseAll_ctl h]

theorem execDestroyFold_ctl (id : Nat) (ln : Ln) (s : State) :
    ∃ next, execDestroyFold id ln s = .next next ∧ next.ctl = s.ctl := by
  refine ⟨_, rfl, ?_⟩
  apply State.judged_ctl
  intro u
  (repeat' split) <;> first | rfl | (simp; done) | (simp only [State.ctl, Ctl.mk.injEq] <;> simp [↓ctl_mk, ctl_eqs]; done)

theorem execReleaseDrainExpiry_ctl (fold : Nat) (t : Time) (s : State) :
    ∃ next, execReleaseDrainExpiry fold t s = .next next ∧ next.ctl = s.ctl := by
  refine ⟨_, rfl, ?_⟩
  apply State.event_ctl
  intro g
  (repeat' split) <;> first | rfl | (simp; done) | (simp only [State.ctl, Ctl.mk.injEq] <;> simp [↓ctl_mk, ctl_eqs]; done)

theorem execScrubRecord_ctl (fold : Nat) (t : Time) (s : State) :
    ∃ next, execScrubRecord fold t s = .next next ∧ next.ctl = s.ctl := by
  refine ⟨_, rfl, ?_⟩
  apply State.event_ctl
  intro g
  (repeat' split) <;> first | rfl | (simp; done) | (simp only [State.ctl, Ctl.mk.injEq] <;> simp [↓ctl_mk, ctl_eqs]; done)

theorem execSetFold_ctl (id : Nat) (ckpt : Option (Option Nat)) (pen weight : Option Nat) (ln : Ln) (s : State) :
    ∃ next, execSetFold id ckpt pen weight ln s = .next next ∧ next.ctl = s.ctl := by
  refine ⟨_, rfl, ?_⟩
  apply State.judged_ctl
  intro u
  (repeat' split) <;> first | rfl | (simp; done) | (simp only [State.ctl, Ctl.mk.injEq] <;> simp [↓ctl_mk, ctl_eqs]; done)

theorem execSetRotation_ctl (med : Nat) (slots : Option (List Nat)) (ln : Ln) (s : State) :
    ∃ next, execSetRotation med slots ln s = .next next ∧ next.ctl = s.ctl := by
  refine ⟨_, rfl, ?_⟩
  apply State.judged_ctl
  intro u
  (repeat' split) <;> first | rfl | (simp; done) | (simp only [State.ctl, Ctl.mk.injEq] <;> simp [↓ctl_mk, ctl_eqs]; done)

theorem execShowFold_ctl (id : Nat) (ln : Ln) (s : State) :
    ∃ next, execShowFold id ln s = .next next ∧ next.ctl = s.ctl := by
  refine ⟨_, rfl, ?_⟩
  apply State.judged_ctl
  intro u
  (repeat' split) <;> first | rfl | (simp; done) | (simp only [State.ctl, Ctl.mk.injEq] <;> simp [↓ctl_mk, ctl_eqs]; done)

theorem execShowFolds_ctl (ln : Ln) (s : State) :
    ∃ next, execShowFolds ln s = .next next ∧ next.ctl = s.ctl := by
  refine ⟨_, rfl, ?_⟩
  apply State.judged_ctl
  intro u
  (repeat' split) <;> first | rfl | (simp; done) | (simp only [State.ctl, Ctl.mk.injEq] <;> simp [↓ctl_mk, ctl_eqs]; done)

theorem execShowKeys_ctl (fold : Nat) (ln : Ln) (s : State) :
    ∃ next, execShowKeys fold ln s = .next next ∧ next.ctl = s.ctl := by
  refine ⟨_, rfl, ?_⟩
  apply State.judged_ctl
  intro u
  (repeat' split) <;> first | rfl | (simp; done) | (simp only [State.ctl, Ctl.mk.injEq] <;> simp [↓ctl_mk, ctl_eqs]; done)

theorem execExportKey_ctl (fold : Nat) (ln : Ln) (s : State) :
    ∃ next, execExportKey fold ln s = .next next ∧ next.ctl = s.ctl := by
  refine ⟨_, rfl, ?_⟩
  apply State.judged_ctl
  intro u
  (repeat' split) <;> first | rfl | (simp; done) | (simp only [State.ctl, Ctl.mk.injEq] <;> simp [↓ctl_mk, ctl_eqs]; done)

theorem execCreateChannel_ctl (fold entry : Nat) (index : Option Nat) (ticket : Option (BitVec 32)) (deadline : Option Nat)
    (spec : Option Bool) (bind : List BindArg) (ln : Ln) (s : State) :
    ∃ next, execCreateChannel fold entry index ticket deadline spec bind ln s = .next next ∧ next.ctl = s.ctl := by
  refine ⟨_, rfl, State.judged_ctl _ _ _ _ _ fun u => State.onFold_ctl _ _ _ _ fun f => ?_⟩
  split
  · simp
  · split
    · simp
    · split
      · simp
      · split
        · simp
        · split
          · simp
          · refine State.guard_ctl _ _ _ _ ?_
            split
            · simp
            · rename_i h
              rw [State.ok_ctl, State.mirror_ctl, State.clearTallies_ctl, State.putChannel_ctl, State.bindAll_ctl h,
                State.emptyClosed_ctl]
              split <;> rfl

theorem execBindChannel_ctl (handle : BitVec 32) (add : BindArg) (ln : Ln) (s : State) :
    ∃ next, execBindChannel handle add ln s = .next next ∧ next.ctl = s.ctl := by
  refine ⟨_, rfl, State.judged_ctl _ _ _ _ _ fun u => State.onChannel_ctl _ _ _ _ fun c => ?_⟩
  split
  · simp
  · with_reducible apply ite_eq_ctl
    · simp
    · with_reducible apply ite_eq_ctl
      · simp
      · split
        · simp
        · dsimp only
          split
          · simp
          · rename_i h
            rw [State.ok_ctl, State.mirror_ctl, State.putChannel_ctl]
            exact State.bindOne_ctl h

theorem execUnbindChannel_ctl (handle : BitVec 32) (ned port : Nat) (ln : Ln) (s : State) :
    ∃ next, execUnbindChannel handle ned port ln s = .next next ∧ next.ctl = s.ctl := by
  refine ⟨_, rfl, ?_⟩
  apply State.judged_ctl
  intro u
  (repeat' first | (refine State.inRange_ctl _ _ _ _ _ _ _ ?_) | (refine State.onFold_ctl _ _ _ _ ?_) | (refine State.onChannel_ctl _ _ _ _ ?_) | (refine State.guard_ctl _ _ _ _ ?_) | intro _ | split) <;> first | rfl | (simp; done) | (simp only [State.ctl, Ctl.mk.injEq] <;> simp [↓ctl_mk, ctl_eqs]; done) | (simp; rfl) | (simp; simp only [State.ctl, Ctl.mk.injEq] <;> simp [↓ctl_mk, ctl_eqs]; done) | (dsimp only; simp; done) | (simp (disch := (intros; (repeat' split) <;> (first | rfl | (simp; done) | (simp only [State.ctl, Ctl.mk.injEq] <;> simp [↓ctl_mk, ctl_eqs]; done) | (simp; rfl) | (simp; simp only [State.ctl, Ctl.mk.injEq] <;> simp [↓ctl_mk, ctl_eqs]; done)))); done) | (dsimp only; simp (disch := (intros; (repeat' split) <;> (first | rfl | (simp; done) | (simp only [State.ctl, Ctl.mk.injEq] <;> simp [↓ctl_mk, ctl_eqs]; done) | (simp; rfl) | (simp; simp only [State.ctl, Ctl.mk.injEq] <;> simp [↓ctl_mk, ctl_eqs]; done)))); done) | (simp (disch := (intros; (repeat' split) <;> (first | rfl | (simp; done) | (simp only [State.ctl, Ctl.mk.injEq] <;> simp [↓ctl_mk, ctl_eqs]; done) | (simp; rfl) | (simp; simp only [State.ctl, Ctl.mk.injEq] <;> simp [↓ctl_mk, ctl_eqs]; done)))); rfl) | (simp (disch := (intros; (repeat' split) <;> (first | rfl | (simp; done) | (simp only [State.ctl, Ctl.mk.injEq] <;> simp [↓ctl_mk, ctl_eqs]; done) | (simp; rfl) | (simp; simp only [State.ctl, Ctl.mk.injEq] <;> simp [↓ctl_mk, ctl_eqs]; done)))); simp only [State.ctl, Ctl.mk.injEq] <;> simp [↓ctl_mk, ctl_eqs]; done) | (dsimp only; simp (disch := (intros; (repeat' split) <;> (first | rfl | (simp; done) | (simp only [State.ctl, Ctl.mk.injEq] <;> simp [↓ctl_mk, ctl_eqs]; done) | (simp; rfl) | (simp; simp only [State.ctl, Ctl.mk.injEq] <;> simp [↓ctl_mk, ctl_eqs]; done)))); simp only [State.ctl, Ctl.mk.injEq] <;> simp [↓ctl_mk, ctl_eqs]; done)

theorem execDestroyChannel_ctl (handle : BitVec 32) (ln : Ln) (s : State) :
    ∃ next, execDestroyChannel handle ln s = .next next ∧ next.ctl = s.ctl := by
  refine ⟨_, rfl, ?_⟩
  apply State.judged_ctl
  intro u
  (repeat' split) <;> first | rfl | (simp; done) | (simp only [State.ctl, Ctl.mk.injEq] <;> simp [↓ctl_mk, ctl_eqs]; done)

theorem execShowChannel_ctl (handle : Sum (BitVec 32) Nat) (ln : Ln) (s : State) :
    ∃ next, execShowChannel handle ln s = .next next ∧ next.ctl = s.ctl := by
  refine ⟨_, rfl, ?_⟩
  apply State.judged_ctl
  intro u
  (repeat' split) <;> first | rfl | (simp; done) | (simp only [State.ctl, Ctl.mk.injEq] <;> simp [↓ctl_mk, ctl_eqs]; done)

theorem execOpenSession_ctl (fold num anchor cls cap : Nat) (ln : Ln) (s : State) :
    ∃ next, execOpenSession fold num anchor cls cap ln s = .next next ∧ next.ctl = s.ctl := by
  refine ⟨_, rfl, ?_⟩
  apply State.judged_ctl
  intro u
  (repeat' first | (refine State.inRange_ctl _ _ _ _ _ _ _ ?_) | (refine State.onFold_ctl _ _ _ _ ?_) | (refine State.onChannel_ctl _ _ _ _ ?_) | (refine State.guard_ctl _ _ _ _ ?_) | intro _ | split) <;> first | rfl | (simp; done) | (simp only [State.ctl, Ctl.mk.injEq] <;> simp [↓ctl_mk, ctl_eqs]; done) | (simp; rfl) | (simp; simp only [State.ctl, Ctl.mk.injEq] <;> simp [↓ctl_mk, ctl_eqs]; done) | (dsimp only; simp; done) | (simp (disch := (intros; (repeat' split) <;> (first | rfl | (simp; done) | (simp only [State.ctl, Ctl.mk.injEq] <;> simp [↓ctl_mk, ctl_eqs]; done) | (simp; rfl) | (simp; simp only [State.ctl, Ctl.mk.injEq] <;> simp [↓ctl_mk, ctl_eqs]; done)))); done) | (dsimp only; simp (disch := (intros; (repeat' split) <;> (first | rfl | (simp; done) | (simp only [State.ctl, Ctl.mk.injEq] <;> simp [↓ctl_mk, ctl_eqs]; done) | (simp; rfl) | (simp; simp only [State.ctl, Ctl.mk.injEq] <;> simp [↓ctl_mk, ctl_eqs]; done)))); done) | (simp (disch := (intros; (repeat' split) <;> (first | rfl | (simp; done) | (simp only [State.ctl, Ctl.mk.injEq] <;> simp [↓ctl_mk, ctl_eqs]; done) | (simp; rfl) | (simp; simp only [State.ctl, Ctl.mk.injEq] <;> simp [↓ctl_mk, ctl_eqs]; done)))); rfl) | (simp (disch := (intros; (repeat' split) <;> (first | rfl | (simp; done) | (simp only [State.ctl, Ctl.mk.injEq] <;> simp [↓ctl_mk, ctl_eqs]; done) | (simp; rfl) | (simp; simp only [State.ctl, Ctl.mk.injEq] <;> simp [↓ctl_mk, ctl_eqs]; done)))); simp only [State.ctl, Ctl.mk.injEq] <;> simp [↓ctl_mk, ctl_eqs]; done) | (dsimp only; simp (disch := (intros; (repeat' split) <;> (first | rfl | (simp; done) | (simp only [State.ctl, Ctl.mk.injEq] <;> simp [↓ctl_mk, ctl_eqs]; done) | (simp; rfl) | (simp; simp only [State.ctl, Ctl.mk.injEq] <;> simp [↓ctl_mk, ctl_eqs]; done)))); simp only [State.ctl, Ctl.mk.injEq] <;> simp [↓ctl_mk, ctl_eqs]; done)

theorem execCloseSession_ctl (fold num : Nat) (ln : Ln) (s : State) :
    ∃ next, execCloseSession fold num ln s = .next next ∧ next.ctl = s.ctl := by
  refine ⟨_, rfl, ?_⟩
  apply State.judged_ctl
  intro u
  (repeat' split) <;> first | rfl | (simp; done) | (simp only [State.ctl, Ctl.mk.injEq] <;> simp [↓ctl_mk, ctl_eqs]; done)

theorem execSessionCloseComplete_ctl (num : Nat) (t : Time) (s : State) :
    ∃ next, execSessionCloseComplete num t s = .next next ∧ next.ctl = s.ctl := by
  refine ⟨_, rfl, ?_⟩
  apply State.event_ctl
  intro g
  (repeat' split) <;> first | rfl | (simp; done) | (simp only [State.ctl, Ctl.mk.injEq] <;> simp [↓ctl_mk, ctl_eqs]; done)

theorem execShowSession_ctl (num : Nat) (ln : Ln) (s : State) :
    ∃ next, execShowSession num ln s = .next next ∧ next.ctl = s.ctl := by
  refine ⟨_, rfl, ?_⟩
  apply State.judged_ctl
  intro u
  (repeat' split) <;> first | rfl | (simp; done) | (simp only [State.ctl, Ctl.mk.injEq] <;> simp [↓ctl_mk, ctl_eqs]; done)

theorem execFineIssueCycle_ctl (n : Pad) (fault : IcFault) (t : Time) (s : State) :
    ∃ next, execFineIssueCycle n fault t s = .next next ∧ next.ctl = s.ctl := by
  refine ⟨_, rfl, ?_⟩
  apply State.event_ctl
  intro g
  dsimp only
  (repeat' split) <;> first | rfl | (simp; done) | (simp only [State.ctl, Ctl.mk.injEq] <;> simp [↓ctl_mk, ctl_eqs]; done)

theorem execCoarseIssueCycle_ctl (n : Pad) (fault : IcFault) (t : Time) (s : State) :
    ∃ next, execCoarseIssueCycle n fault t s = .next next ∧ next.ctl = s.ctl := by
  refine ⟨_, rfl, State.event_ctl _ _ _ _ fun _ => ?_⟩
  dsimp only
  split
  · simp
  · split
    · simp
    · split
      · simp
      · simp only [State.addTally_ctl]
        split <;> simp

theorem execWatchdogExpiry_ctl (n : Pad) (k : CtxIx) (t : Time) (s : State) :
    ∃ next, execWatchdogExpiry n k t s = .next next ∧ next.ctl = s.ctl := by
  refine ⟨_, rfl, ?_⟩
  apply State.event_ctl
  intro g
  (repeat' split) <;> first | rfl | (simp; done) | (simp only [State.ctl, Ctl.mk.injEq] <;> simp [↓ctl_mk, ctl_eqs]; done)

theorem execContextLeavePlan_ctl (n : Pad) (k : CtxIx) (t : Time) (s : State) :
    ∃ next, execContextLeavePlan n k t s = .next next ∧ next.ctl = s.ctl := by
  refine ⟨_, rfl, ?_⟩
  apply State.event_ctl
  intro g
  (repeat' split) <;> first | rfl | (simp; done) | (simp only [State.ctl, Ctl.mk.injEq] <;> simp [↓ctl_mk, ctl_eqs]; done)

theorem execEccRereadVerdict_ctl (n : Pad) (m : Fin 4) (good : Bool) (t : Time) (s : State) :
    ∃ next, execEccRereadVerdict n m good t s = .next next ∧ next.ctl = s.ctl := by
  refine ⟨_, rfl, ?_⟩
  apply State.event_ctl
  intro g
  (repeat' split) <;> first | rfl | (simp; done) | (simp only [State.ctl, Ctl.mk.injEq] <;> simp [↓ctl_mk, ctl_eqs]; done)

theorem execResidueVerdict_ctl (n : Pad) (v : Fin 4) (good : Bool) (t : Time) (s : State) :
    ∃ next, execResidueVerdict n v good t s = .next next ∧ next.ctl = s.ctl := by
  refine ⟨_, rfl, ?_⟩
  apply State.event_ctl
  intro g
  (repeat' split) <;> first | rfl | (simp; done) | (simp only [State.ctl, Ctl.mk.injEq] <;> simp [↓ctl_mk, ctl_eqs]; done)

theorem execHbmxReturn_ctl (n : Pad) (m : Fin 4) (t : Time) (s : State) :
    ∃ next, execHbmxReturn n m t s = .next next ∧ next.ctl = s.ctl := by
  refine ⟨_, rfl, ?_⟩
  apply State.event_ctl
  intro g
  dsimp only
  (repeat' split) <;> first | rfl | (simp; done) | (simp only [State.ctl, Ctl.mk.injEq] <;> simp [↓ctl_mk, ctl_eqs]; done)

theorem execLedgerIntervalEnd_ctl (fold : Nat) (readBack : List Bool) (t : Time) (s : State) :
    ∃ next, execLedgerIntervalEnd fold readBack t s = .next next ∧ next.ctl = s.ctl := by
  refine ⟨_, rfl, ?_⟩
  apply State.event_ctl
  intro g
  (repeat' split) <;> first | rfl | (simp; done) | (simp only [State.ctl, Ctl.mk.injEq] <;> simp [↓ctl_mk, ctl_eqs]; done)

theorem execLedgerRingRetry_ctl (readBack : List Bool) (t : Time) (s : State) :
    ∃ next, execLedgerRingRetry readBack t s = .next next ∧ next.ctl = s.ctl := by
  refine ⟨_, rfl, State.event_ctl _ _ _ _ fun g => ?_⟩
  dsimp only
  with_reducible apply ite_eq_ctl
  · rw [State.ring_ctl]
    refine foldl_inv (P := fun (u : State) => u.ctl = (s.tick t).ctl) _ rfl (fun u r h => ?_)
    rw [State.ringPut_ctl, h]
  · rfl

theorem execLeaseSecond_ctl (t : Time) (s : State) :
    ∃ next, execLeaseSecond t s = .next next ∧ next.ctl = s.ctl := by
  refine ⟨_, rfl, ?_⟩
  apply State.event_ctl
  intro g
  (repeat' split) <;> first | rfl | (simp; done) | (simp only [State.ctl, Ctl.mk.injEq] <;> simp [↓ctl_mk, ctl_eqs]; done)

theorem execPtpSilence_ctl (t : Time) (s : State) :
    ∃ next, execPtpSilence t s = .next next ∧ next.ctl = s.ctl := by
  refine ⟨_, rfl, ?_⟩
  apply State.event_ctl
  intro g
  (repeat' split) <;> first | rfl | (simp; done) | (simp only [State.ctl, Ctl.mk.injEq] <;> simp [↓ctl_mk, ctl_eqs]; done)

theorem execShowTally_ctl (scope : Scope) (id : Nat) (name : Option Nat) (ln : Ln) (s : State) :
    ∃ next, execShowTally scope id name ln s = .next next ∧ next.ctl = s.ctl := by
  refine ⟨_, rfl, ?_⟩
  apply State.judged_ctl
  intro u
  (repeat' split) <;> first | rfl | (simp; done) | (simp only [State.ctl, Ctl.mk.injEq] <;> simp [↓ctl_mk, ctl_eqs]; done)

theorem execShowBells_ctl (since : Option Nat) (fault : Option Bool) (count : Option Nat) (ln : Ln) (s : State) :
    ∃ next, execShowBells since fault count ln s = .next next ∧ next.ctl = s.ctl := by
  refine ⟨_, rfl, ?_⟩
  apply State.judged_ctl
  intro u
  (repeat' split) <;> first | rfl | (simp; done) | (simp only [State.ctl, Ctl.mk.injEq] <;> simp [↓ctl_mk, ctl_eqs]; done)

theorem execShowLedger_ctl (fold : Nat) (since : Option Nat) (count : Option Nat) (ln : Ln) (s : State) :
    ∃ next, execShowLedger fold since count ln s = .next next ∧ next.ctl = s.ctl := by
  refine ⟨_, rfl, ?_⟩
  apply State.judged_ctl
  intro u
  (repeat' split) <;> first | rfl | (simp; done) | (simp only [State.ctl, Ctl.mk.injEq] <;> simp [↓ctl_mk, ctl_eqs]; done)

theorem execVerifyLedger_ctl (data : List Byte) (ln : Ln) (s : State) :
    ∃ next, execVerifyLedger data ln s = .next next ∧ next.ctl = s.ctl := by
  refine ⟨_, rfl, ?_⟩
  apply State.judged_ctl
  intro u
  (repeat' split) <;> first | rfl | (simp; done) | (simp only [State.ctl, Ctl.mk.injEq] <;> simp [↓ctl_mk, ctl_eqs]; done)

theorem execLoadStart_ctl (fold : Nat) (t : Time) (s : State) :
    ∃ next, execLoadStart fold t s = .next next ∧ next.ctl = s.ctl := by
  refine ⟨_, rfl, ?_⟩
  apply State.event_ctl
  intro g
  (repeat' split) <;> first | rfl | (simp; done) | (simp only [State.ctl, Ctl.mk.injEq] <;> simp [↓ctl_mk, ctl_eqs]; done)

theorem execLoadDrainComplete_ctl (fold : Nat) (t : Time) (s : State) :
    ∃ next, execLoadDrainComplete fold t s = .next next ∧ next.ctl = s.ctl := by
  refine ⟨_, rfl, ?_⟩
  apply State.event_ctl
  intro g
  (repeat' split) <;> first | rfl | (simp; done) | (simp only [State.ctl, Ctl.mk.injEq] <;> simp [↓ctl_mk, ctl_eqs]; done)

theorem execLoadDrainExpiry_ctl (fold : Nat) (t : Time) (s : State) :
    ∃ next, execLoadDrainExpiry fold t s = .next next ∧ next.ctl = s.ctl := by
  refine ⟨_, rfl, ?_⟩
  apply State.event_ctl
  intro g
  (repeat' split) <;> first | rfl | (simp; done) | (simp only [State.ctl, Ctl.mk.injEq] <;> simp [↓ctl_mk, ctl_eqs]; done)

theorem execLoadDecryptComplete_ctl (fold : Nat) (t : Time) (s : State) :
    ∃ next, execLoadDecryptComplete fold t s = .next next ∧ next.ctl = s.ctl := by
  refine ⟨_, rfl, ?_⟩
  apply State.event_ctl
  intro g
  (repeat' split) <;> first | rfl | (simp; done) | (simp only [State.ctl, Ctl.mk.injEq] <;> simp [↓ctl_mk, ctl_eqs]; done)

theorem execCommitConfirmed_ctl (fold : Nat) (t : Time) (s : State) :
    ∃ next, execCommitConfirmed fold t s = .next next ∧ next.ctl = s.ctl := by
  refine ⟨_, rfl, ?_⟩
  apply State.event_ctl
  intro g
  (repeat' split) <;> first | rfl | (simp; done) | (simp only [State.ctl, Ctl.mk.injEq] <;> simp [↓ctl_mk, ctl_eqs]; done)

theorem execContextStage_ctl (fold : Nat) (n : Pad) (k : CtxIx) (t : Time) (s : State) :
    ∃ next, execContextStage fold n k t s = .next next ∧ next.ctl = s.ctl := by
  refine ⟨_, rfl, ?_⟩
  apply State.event_ctl
  intro g
  (repeat' split) <;> first | rfl | (simp; done) | (simp only [State.ctl, Ctl.mk.injEq] <;> simp [↓ctl_mk, ctl_eqs]; done)

theorem execStageWaitExpiry_ctl (fold : Nat) (t : Time) (s : State) :
    ∃ next, execStageWaitExpiry fold t s = .next next ∧ next.ctl = s.ctl := by
  refine ⟨_, rfl, ?_⟩
  apply State.event_ctl
  intro g
  (repeat' split) <;> first | rfl | (simp; done) | (simp only [State.ctl, Ctl.mk.injEq] <;> simp [↓ctl_mk, ctl_eqs]; done)

theorem execStandbyConfirmed_ctl (fold : Nat) (t : Time) (s : State) :
    ∃ next, execStandbyConfirmed fold t s = .next next ∧ next.ctl = s.ctl := by
  refine ⟨_, rfl, ?_⟩
  apply State.event_ctl
  intro g
  (repeat' split) <;> first | rfl | (simp; done) | (simp only [State.ctl, Ctl.mk.injEq] <;> simp [↓ctl_mk, ctl_eqs]; done)

theorem execTransitionStart_ctl (fold : Nat) (t : Time) (s : State) :
    ∃ next, execTransitionStart fold t s = .next next ∧ next.ctl = s.ctl := by
  refine ⟨_, rfl, ?_⟩
  apply State.event_ctl
  intro g
  (repeat' split) <;> first | rfl | (simp; done) | (simp only [State.ctl, Ctl.mk.injEq] <;> simp [↓ctl_mk, ctl_eqs]; done)

theorem execBellwetherArrival_ctl (n : Pad) (k : CtxIx) (t : Time) (s : State) :
    ∃ next, execBellwetherArrival n k t s = .next next ∧ next.ctl = s.ctl := by
  refine ⟨_, rfl, ?_⟩
  apply State.event_ctl
  intro g
  dsimp only
  (repeat' split) <;> first | rfl | (simp; done) | (simp only [State.ctl, Ctl.mk.injEq] <;> simp [↓ctl_mk, ctl_eqs]; done)

theorem execNedBellwether_ctl (k : NedIx) (e : Fin 2) (lane : Lane) (vc : Bool) (t : Time) (s : State) :
    ∃ next, execNedBellwether k e lane vc t s = .next next ∧ next.ctl = s.ctl := by
  refine ⟨_, rfl, ?_⟩
  apply State.event_ctl
  intro g
  dsimp only
  (repeat' split) <;> first | rfl | (simp; done) | (simp only [State.ctl, Ctl.mk.injEq] <;> simp [↓ctl_mk, ctl_eqs]; done)

theorem execSwitchLimitExpiry_ctl (fold : Nat) (t : Time) (s : State) :
    ∃ next, execSwitchLimitExpiry fold t s = .next next ∧ next.ctl = s.ctl := by
  refine ⟨_, rfl, ?_⟩
  apply State.event_ctl
  intro g
  (repeat' split) <;> first | rfl | (simp; done) | (simp only [State.ctl, Ctl.mk.injEq] <;> simp [↓ctl_mk, ctl_eqs]; done)

theorem execShowMap_ctl (at_ : Option (List Loc)) (ln : Ln) (s : State) :
    ∃ next, execShowMap at_ ln s = .next next ∧ next.ctl = s.ctl := by
  refine ⟨_, rfl, ?_⟩
  apply State.judged_ctl
  intro u
  (repeat' split) <;> first | rfl | (simp; done) | (simp only [State.ctl, Ctl.mk.injEq] <;> simp [↓ctl_mk, ctl_eqs]; done)

theorem execExportMap_ctl (ln : Ln) (s : State) :
    ∃ next, execExportMap ln s = .next next ∧ next.ctl = s.ctl := by
  refine ⟨_, rfl, ?_⟩
  apply State.judged_ctl
  intro u
  dsimp only
  (repeat' split) <;> first | rfl | (simp; done) | (simp only [State.ctl, Ctl.mk.injEq] <;> simp [↓ctl_mk, ctl_eqs]; done)

theorem execSetReserve_ctl (c r : Nat) (on : Bool) (ln : Ln) (s : State) :
    ∃ next, execSetReserve c r on ln s = .next next ∧ next.ctl = s.ctl := by
  refine ⟨_, rfl, ?_⟩
  apply State.judged_ctl
  intro u
  (repeat' split) <;> first | rfl | (simp; done) | (simp only [State.ctl, Ctl.mk.injEq] <;> simp [↓ctl_mk, ctl_eqs]; done)

theorem execSetExclude_ctl (x y : Nat) (on : Bool) (ln : Ln) (s : State) :
    ∃ next, execSetExclude x y on ln s = .next next ∧ next.ctl = s.ctl := by
  refine ⟨_, rfl, ?_⟩
  apply State.judged_ctl
  intro u
  (repeat' split) <;> first | rfl | (simp; done) | (simp only [State.ctl, Ctl.mk.injEq] <;> simp [↓ctl_mk, ctl_eqs]; done)

theorem execMemReqReceived_ctl (k : MedIx) (e : Fin 2) (lane : Lane) (vc : Bool) (t : Time) (s : State) :
    ∃ next, execMemReqReceived k e lane vc t s = .next next ∧ next.ctl = s.ctl := by
  refine ⟨_, rfl, ?_⟩
  apply State.event_ctl
  intro g
  (repeat' split) <;> first | rfl | (simp; done) | (simp only [State.ctl, Ctl.mk.injEq] <;> simp [↓ctl_mk, ctl_eqs]; done) | (simp; rfl) | (simp; simp only [State.ctl, Ctl.mk.injEq] <;> simp [↓ctl_mk, ctl_eqs]; done) | (dsimp only; simp; done) | (simp (disch := (intros; (repeat' split) <;> (first | rfl | (simp; done) | (simp only [State.ctl, Ctl.mk.injEq] <;> simp [↓ctl_mk, ctl_eqs]; done) | (simp; rfl) | (simp; simp only [State.ctl, Ctl.mk.injEq] <;> simp [↓ctl_mk, ctl_eqs]; done)))); done) | (dsimp only; simp (disch := (intros; (repeat' split) <;> (first | rfl | (simp; done) | (simp only [State.ctl, Ctl.mk.injEq] <;> simp [↓ctl_mk, ctl_eqs]; done) | (simp; rfl) | (simp; simp only [State.ctl, Ctl.mk.injEq] <;> simp [↓ctl_mk, ctl_eqs]; done)))); done) | (simp (disch := (intros; (repeat' split) <;> (first | rfl | (simp; done) | (simp only [State.ctl, Ctl.mk.injEq] <;> simp [↓ctl_mk, ctl_eqs]; done) | (simp; rfl) | (simp; simp only [State.ctl, Ctl.mk.injEq] <;> simp [↓ctl_mk, ctl_eqs]; done)))); rfl) | (simp (disch := (intros; (repeat' split) <;> (first | rfl | (simp; done) | (simp only [State.ctl, Ctl.mk.injEq] <;> simp [↓ctl_mk, ctl_eqs]; done) | (simp; rfl) | (simp; simp only [State.ctl, Ctl.mk.injEq] <;> simp [↓ctl_mk, ctl_eqs]; done)))); simp only [State.ctl, Ctl.mk.injEq] <;> simp [↓ctl_mk, ctl_eqs]; done) | (dsimp only; simp (disch := (intros; (repeat' split) <;> (first | rfl | (simp; done) | (simp only [State.ctl, Ctl.mk.injEq] <;> simp [↓ctl_mk, ctl_eqs]; done) | (simp; rfl) | (simp; simp only [State.ctl, Ctl.mk.injEq] <;> simp [↓ctl_mk, ctl_eqs]; done)))); simp only [State.ctl, Ctl.mk.injEq] <;> simp [↓ctl_mk, ctl_eqs]; done)

theorem execHbmBurstRead_ctl (k : MedIx) (i : Nat) (sev : EccSev) (t : Time) (s : State) :
    ∃ next, execHbmBurstRead k i sev t s = .next next ∧ next.ctl = s.ctl := by
  refine ⟨_, rfl, ?_⟩
  apply State.event_ctl
  intro g
  (repeat' split) <;> first | rfl | (simp; done) | (simp only [State.ctl, Ctl.mk.injEq] <;> simp [↓ctl_mk, ctl_eqs]; done)

theorem execHbmRereadVerdict_ctl (k : MedIx) (good : Bool) (t : Time) (s : State) :
    ∃ next, execHbmRereadVerdict k good t s = .next next ∧ next.ctl = s.ctl := by
  refine ⟨_, rfl, State.event_ctl _ _ _ _ fun _ => ?_⟩
  dsimp only
  split
  · simp
  · rename_i g e _
    rw [ite_ctl, foldl_ctl _ (fun _ _ => State.loseSession_ctl _ _), ite_self]
    refine Eq.trans (b := (((((s.tick t).setMed k.val (((s.tick t).med k.val).rereadVerdict k.val good (s.tick t).now).m).medSend k.val (((s.tick t).med k.val).rereadVerdict k.val good (s.tick t).now).send).addTally .med k.val tmReread (((s.tick t).med k.val).rereadVerdict k.val good (s.tick t).now).transient).count .med k.val tmRetired).ctl) ?_ (by simp)
    split
    · simp
    · rename_i h
      exact (setWriting_ctl _ (by rw [frozen_of_core (State.modFlash_core _ _)]; simpa using h)).trans (by simp)

theorem execStackTempRead_ctl (k : MedIx) (read : StackRead) (t : Time) (s : State) :
    ∃ next, execStackTempRead k read t s = .next next ∧ next.ctl = s.ctl := by
  refine ⟨_, rfl, ?_⟩
  apply State.event_ctl
  intro g
  (repeat' split) <;> first | rfl | (simp; done) | (simp only [State.ctl, Ctl.mk.injEq] <;> simp [↓ctl_mk, ctl_eqs]; done)

theorem execPageScrub_ctl (k : MedIx) (page : Fin 12288) (t : Time) (s : State) :
    ∃ next, execPageScrub k page t s = .next next ∧ next.ctl = s.ctl := by
  refine ⟨_, rfl, ?_⟩
  apply State.event_ctl
  intro g
  (repeat' split) <;> first | rfl | (simp; done) | (simp only [State.ctl, Ctl.mk.injEq] <;> simp [↓ctl_mk, ctl_eqs]; done)

theorem execRotationSlot_ctl (k : MedIx) (t : Time) (s : State) :
    ∃ next, execRotationSlot k t s = .next next ∧ next.ctl = s.ctl := by
  refine ⟨_, rfl, ?_⟩
  apply State.event_ctl
  intro g
  (repeat' split) <;> first | rfl | (simp; done) | (simp only [State.ctl, Ctl.mk.injEq] <;> simp [↓ctl_mk, ctl_eqs]; done)

theorem execMedDoubt_ctl (k : MedIx) (cause : Nat) (t : Time) (s : State) :
    ∃ next, execMedDoubt k cause t s = .next next ∧ next.ctl = s.ctl := by
  refine ⟨_, rfl, ?_⟩
  apply State.event_ctl
  intro g
  (repeat' split) <;> first | rfl | (simp; done) | (simp only [State.ctl, Ctl.mk.injEq] <;> simp [↓ctl_mk, ctl_eqs]; done)

theorem execLinkBeatSend_ctl (x : EndIx) (lane : Lane) (t : Time) (s : State) :
    ∃ next, execLinkBeatSend x lane t s = .next next ∧ next.ctl = s.ctl := by
  refine ⟨_, rfl, State.event_ctl _ _ _ _ fun _ => ?_⟩
  have hs : (if x < 5376 then (s.tick t).sweepRouter (x / 4) else s.tick t).ctl = (s.tick t).ctl := by
    split <;> simp
  dsimp only
  generalize (if x < 5376 then (s.tick t).sweepRouter (x / 4) else s.tick t) = u at hs ⊢
  refine Eq.trans ?_ hs
  split
  · exact (wire_ctl _ _).trans (State.setLink_ctl u x lane.val _)
  · split
    · rename_i e l' _
      exact ((wire_ctl _ _).trans (State.setLink_ctl _ _ _ _)).trans (State.setLink_ctl u x lane.val l')
    · split
      · exact (wire_ctl _ _).trans (State.setLink_ctl _ _ _ _)
      · rename_i h
        have h1 := State.nextFlit_ctl h
        split
        · split
          · rename_i h'
            exact ((wire_ctl _ _).trans (State.setLink_ctl _ _ _ _)).trans ((State.modLink_ctl _ _ _ _).trans ((State.nextFlit_ctl h').trans h1))
          · exact ((wire_ctl _ _).trans (State.setLink_ctl _ _ _ _)).trans h1
        · exact ((wire_ctl _ _).trans (State.setLink_ctl _ _ _ _)).trans h1

theorem execBeatReceived_ctl (x : EndIx) (lane : Lane) (vc0 vc1 : Bool) (b : BitVec 616) (t : Time) (s : State) :
    ∃ next, execBeatReceived x lane vc0 vc1 b t s = .next next ∧ next.ctl = s.ctl := by
  refine ⟨_, rfl, State.event_ctl _ _ _ _ fun _ => ?_⟩
  dsimp only
  (repeat' with_reducible apply ite_eq_ctl)
  · simp
  · simp
  · simp
  · rw [foldl_ctl]
    · simp
    · intros; simp

theorem execReplayTimeout_ctl (x : EndIx) (lane : Lane) (t : Time) (s : State) :
    ∃ next, execReplayTimeout x lane t s = .next next ∧ next.ctl = s.ctl := by
  refine ⟨_, rfl, ?_⟩
  apply State.event_ctl
  intro g
  (repeat' split) <;> first | rfl | (simp; done) | (simp only [State.ctl, Ctl.mk.injEq] <;> simp [↓ctl_mk, ctl_eqs]; done)

theorem execReplayDownTimeout_ctl (x : EndIx) (lane : Lane) (t : Time) (s : State) :
    ∃ next, execReplayDownTimeout x lane t s = .next next ∧ next.ctl = s.ctl := by
  refine ⟨_, rfl, ?_⟩
  apply State.event_ctl
  intro g
  (repeat' split) <;> first | rfl | (simp; done) | (simp only [State.ctl, Ctl.mk.injEq] <;> simp [↓ctl_mk, ctl_eqs]; done)

theorem execReceiverSilence_ctl (x : EndIx) (lane : Lane) (t : Time) (s : State) :
    ∃ next, execReceiverSilence x lane t s = .next next ∧ next.ctl = s.ctl := by
  refine ⟨_, rfl, ?_⟩
  apply State.event_ctl
  intro g
  (repeat' split) <;> first | rfl | (simp; done) | (simp only [State.ctl, Ctl.mk.injEq] <;> simp [↓ctl_mk, ctl_eqs]; done)

theorem execLane0Precompile_ctl (t : Time) (s : State) :
    ∃ next, execLane0Precompile t s = .next next ∧ next.ctl = s.ctl := by
  refine ⟨_, rfl, ?_⟩
  apply State.event_ctl
  intro g
  (repeat' split) <;> first | rfl | (simp; done) | (simp only [State.ctl, Ctl.mk.injEq] <;> simp [↓ctl_mk, ctl_eqs]; done)

theorem execDockTransfer_ctl (n : Pad) (t : Time) (s : State) :
    ∃ next, execDockTransfer n t s = .next next ∧ next.ctl = s.ctl := by
  refine ⟨_, rfl, ?_⟩
  apply State.event_ctl
  intro g
  (repeat' split) <;> first | rfl | (simp; done) | (simp only [State.ctl, Ctl.mk.injEq] <;> simp [↓ctl_mk, ctl_eqs]; done)

theorem execPwrFailFlashFreeze_ctl (t : Time) (s : State) :
    ∃ next, execPwrFailFlashFreeze t s = .next next ∧ next.ctl = s.ctl := by
  refine ⟨_, rfl, State.event_ctl _ _ _ _ fun _ => rfl⟩

theorem execBusSample_ctl (shc : ShcIx) (mvA mvB : Nat) (t : Time) (s : State) :
    ∃ next, execBusSample shc mvA mvB t s = .next next ∧ next.ctl = s.ctl := by
  refine ⟨_, rfl, ?_⟩
  apply State.event_ctl
  intro g
  (repeat' split) <;> first | rfl | (simp; done) | (simp only [State.ctl, Ctl.mk.injEq] <;> simp [↓ctl_mk, ctl_eqs]; done)

theorem execRailDeparture_ctl (f : FieldIx) (vaon : Bool) (mv : Nat) (t : Time) (s : State) :
    ∃ next, execRailDeparture f vaon mv t s = .next next ∧ next.ctl = s.ctl := by
  refine ⟨_, rfl, ?_⟩
  apply State.event_ctl
  intro g
  (repeat' split) <;> first | rfl | (simp; done) | (simp only [State.ctl, Ctl.mk.injEq] <;> simp [↓ctl_mk, ctl_eqs]; done)

theorem execVcoreRecoveryVerdict_ctl (f : FieldIx) (back : Option Time) (t : Time) (s : State) :
    ∃ next, execVcoreRecoveryVerdict f back t s = .next next ∧ next.ctl = s.ctl := by
  refine ⟨_, rfl, State.event_ctl _ _ _ _ fun _ => ?_⟩
  dsimp only
  split
  · with_reducible apply ite_eq_ctl
    · rw [State.ring_ctl]
      refine (foldl_ctl _ (fun u n => ?_) _ _).trans ?_
      · with_reducible apply ite_eq_ctl <;> simp
      · simp
    · simp
  · simp

theorem execRailStep_ctl (f : FieldIx) (t : Time) (s : State) :
    ∃ next, execRailStep f t s = .next next ∧ next.ctl = s.ctl := by
  refine ⟨_, rfl, ?_⟩
  apply State.event_ctl
  intro g
  (repeat' split) <;> first | rfl | (simp; done) | (simp only [State.ctl, Ctl.mk.injEq] <;> simp [↓ctl_mk, ctl_eqs]; done)

theorem execPowerWaveStart_ctl (t : Time) (s : State) :
    ∃ next, execPowerWaveStart t s = .next next ∧ next.ctl = s.ctl := by
  refine ⟨_, rfl, ?_⟩
  apply State.event_ctl
  intro g
  (repeat' split) <;> first | rfl | (simp; done) | (simp only [State.ctl, Ctl.mk.injEq] <;> simp [↓ctl_mk, ctl_eqs]; done)

theorem execEfuseRetry_ctl (n : Pad) (t : Time) (s : State) :
    ∃ next, execEfuseRetry n t s = .next next ∧ next.ctl = s.ctl := by
  refine ⟨_, rfl, ?_⟩
  apply State.event_ctl
  intro g
  (repeat' split) <;> first | rfl | (simp; done) | (simp only [State.ctl, Ctl.mk.injEq] <;> simp [↓ctl_mk, ctl_eqs]; done)

theorem execEfuseRetryVerdict_ctl (n : Pad) (peak : Nat) (t : Time) (s : State) :
    ∃ next, execEfuseRetryVerdict n peak t s = .next next ∧ next.ctl = s.ctl := by
  refine ⟨_, rfl, ?_⟩
  apply State.event_ctl
  intro g
  (repeat' split) <;> first | rfl | (simp; done) | (simp only [State.ctl, Ctl.mk.injEq] <;> simp [↓ctl_mk, ctl_eqs]; done)

theorem execFieldStageShutdown_ctl (f : FieldIx) (vaon : Bool) (t : Time) (s : State) :
    ∃ next, execFieldStageShutdown f vaon t s = .next next ∧ next.ctl = s.ctl := by
  refine ⟨_, rfl, ?_⟩
  apply State.event_ctl
  intro g
  (repeat' split) <;> first | rfl | (simp; done) | (simp only [State.ctl, Ctl.mk.injEq] <;> simp [↓ctl_mk, ctl_eqs]; done)

theorem execFieldRetry_ctl (f : FieldIx) (t : Time) (s : State) :
    ∃ next, execFieldRetry f t s = .next next ∧ next.ctl = s.ctl := by
  refine ⟨_, rfl, ?_⟩
  apply State.event_ctl
  intro g
  (repeat' split) <;> first | rfl | (simp; done) | (simp only [State.ctl, Ctl.mk.injEq] <;> simp [↓ctl_mk, ctl_eqs]; done)

theorem execFieldRetryVerdict_ctl (f : FieldIx) (held : Bool) (t : Time) (s : State) :
    ∃ next, execFieldRetryVerdict f held t s = .next next ∧ next.ctl = s.ctl := by
  refine ⟨_, rfl, State.event_ctl _ _ _ _ fun _ => ?_⟩
  dsimp only
  with_reducible apply ite_eq_ctl
  · rw [State.ring_ctl]
    refine (foldl_ctl _ (fun u n => ?_) _ _).trans ?_
    · with_reducible apply ite_eq_ctl
      · simp
      · with_reducible apply ite_eq_ctl
        · simp
        · split <;> simp
    · simp
  · simp

theorem execPmbAlert_ctl (addr status : Nat) (t : Time) (s : State) :
    ∃ next, execPmbAlert addr status t s = .next next ∧ next.ctl = s.ctl := by
  refine ⟨_, rfl, ?_⟩
  apply State.event_ctl
  intro g
  (repeat' split) <;> first | rfl | (simp; done) | (simp only [State.ctl, Ctl.mk.injEq] <;> simp [↓ctl_mk, ctl_eqs]; done)

theorem execTelemetryRead_ctl (reads : List PmbRead) (t : Time) (s : State) :
    ∃ next, execTelemetryRead reads t s = .next next ∧ next.ctl = s.ctl := by
  refine ⟨_, rfl, ?_⟩
  apply State.event_ctl
  intro g
  (repeat' split) <;> first | rfl | (simp; done) | (simp only [State.ctl, Ctl.mk.injEq] <;> simp [↓ctl_mk, ctl_eqs]; done)

theorem execPmbusRetryPoll_ctl (r : PmbRead) (t : Time) (s : State) :
    ∃ next, execPmbusRetryPoll r t s = .next next ∧ next.ctl = s.ctl := by
  refine ⟨_, rfl, ?_⟩
  apply State.event_ctl
  intro g
  (repeat' split) <;> first | rfl | (simp; done) | (simp only [State.ctl, Ctl.mk.injEq] <;> simp [↓ctl_mk, ctl_eqs]; done)

theorem execShowPower_ctl (ln : Ln) (s : State) :
    ∃ next, execShowPower ln s = .next next ∧ next.ctl = s.ctl := by
  refine ⟨_, rfl, ?_⟩
  apply State.judged_ctl
  intro u
  (repeat' split) <;> first | rfl | (simp; done) | (simp only [State.ctl, Ctl.mk.injEq] <;> simp [↓ctl_mk, ctl_eqs]; done)

theorem execSetRail_ctl (x y mv : Nat) (ln : Ln) (s : State) :
    ∃ next, execSetRail x y mv ln s = .next next ∧ next.ctl = s.ctl := by
  refine ⟨_, rfl, ?_⟩
  apply State.judged_ctl
  intro u
  (repeat' split) <;> first | rfl | (simp; done) | (simp only [State.ctl, Ctl.mk.injEq] <;> simp [↓ctl_mk, ctl_eqs]; done)

theorem execSetPower_ctl (at_ : Loc) (dark : Bool) (ln : Ln) (s : State) :
    ∃ next, execSetPower at_ dark ln s = .next next ∧ next.ctl = s.ctl := by
  refine ⟨_, rfl, ?_⟩
  apply State.judged_ctl
  intro u
  (repeat' split) <;> first | rfl | (simp; done) | (simp only [State.ctl, Ctl.mk.injEq] <;> simp [↓ctl_mk, ctl_eqs]; done)

theorem execClearField_ctl (x y : Nat) (held : Bool) (ln : Ln) (s : State) :
    ∃ next, execClearField x y held ln s = .next next ∧ next.ctl = s.ctl := by
  refine ⟨_, rfl, ?_⟩
  apply State.judged_ctl
  intro u
  (repeat' split) <;> first | rfl | (simp; done) | (simp only [State.ctl, Ctl.mk.injEq] <;> simp [↓ctl_mk, ctl_eqs]; done)

theorem execCheckpointDue_ctl (fold : Nat) (t : Time) (s : State) :
    ∃ next, execCheckpointDue fold t s = .next next ∧ next.ctl = s.ctl := by
  refine ⟨_, rfl, ?_⟩
  apply State.event_ctl
  intro g
  (repeat' split) <;> first | rfl | (simp; done) | (simp only [State.ctl, Ctl.mk.injEq] <;> simp [↓ctl_mk, ctl_eqs]; done)

theorem execMusterComplete_ctl (fold : Nat) (t : Time) (s : State) :
    ∃ next, execMusterComplete fold t s = .next next ∧ next.ctl = s.ctl := by
  refine ⟨_, rfl, ?_⟩
  apply State.event_ctl
  intro g
  (repeat' split) <;> first | rfl | (simp; done) | (simp only [State.ctl, Ctl.mk.injEq] <;> simp [↓ctl_mk, ctl_eqs]; done)

theorem execMusterTimeout_ctl (fold : Nat) (t : Time) (s : State) :
    ∃ next, execMusterTimeout fold t s = .next next ∧ next.ctl = s.ctl := by
  refine ⟨_, rfl, ?_⟩
  apply State.event_ctl
  intro g
  (repeat' split) <;> first | rfl | (simp; done) | (simp only [State.ctl, Ctl.mk.injEq] <;> simp [↓ctl_mk, ctl_eqs]; done)

theorem execCheckpointWriteDone_ctl (fold : Nat) (t : Time) (s : State) :
    ∃ next, execCheckpointWriteDone fold t s = .next next ∧ next.ctl = s.ctl := by
  refine ⟨_, rfl, ?_⟩
  apply State.event_ctl
  intro g
  (repeat' split) <;> first | rfl | (simp; done) | (simp only [State.ctl, Ctl.mk.injEq] <;> simp [↓ctl_mk, ctl_eqs]; done)

theorem execReportReceived_ctl (trigger : Trigger) (folds : List Nat) (place : Nat) (t : Time) (s : State) :
    ∃ next, execReportReceived trigger folds place t s = .next next ∧ next.ctl = s.ctl := by
  refine ⟨_, rfl, ?_⟩
  apply State.event_ctl
  intro g
  (repeat' split) <;> first | rfl | (simp; done) | (simp only [State.ctl, Ctl.mk.injEq] <;> simp [↓ctl_mk, ctl_eqs]; done)

theorem execReportResend_ctl (t : Time) (s : State) :
    ∃ next, execReportResend t s = .next next ∧ next.ctl = s.ctl := by
  refine ⟨_, rfl, ?_⟩
  apply State.event_ctl
  intro g
  (repeat' split) <;> first | rfl | (simp; done) | (simp only [State.ctl, Ctl.mk.injEq] <;> simp [↓ctl_mk, ctl_eqs]; done)

theorem execDoubtNoticeNed_ctl (k : NedIx) (fold : Nat) (t : Time) (s : State) :
    ∃ next, execDoubtNoticeNed k fold t s = .next next ∧ next.ctl = s.ctl := by
  refine ⟨_, rfl, ?_⟩
  apply State.event_ctl
  intro g
  (repeat' split) <;> first | rfl | (simp; done) | (simp only [State.ctl, Ctl.mk.injEq] <;> simp [↓ctl_mk, ctl_eqs]; done)

theorem execDoubtNoticePaddock_ctl (n : Pad) (fold : Nat) (t : Time) (s : State) :
    ∃ next, execDoubtNoticePaddock n fold t s = .next next ∧ next.ctl = s.ctl := by
  refine ⟨_, rfl, State.event_ctl _ _ _ _ fun _ => ?_⟩
  dsimp only
  with_reducible apply ite_eq_ctl <;> simp

theorem execShearComplete_ctl (fold : Nat) (n : Pad) (good : Bool) (t : Time) (s : State) :
    ∃ next, execShearComplete fold n good t s = .next next ∧ next.ctl = s.ctl := by
  refine ⟨_, rfl, ?_⟩
  apply State.event_ctl
  intro g
  dsimp only
  (repeat' split) <;> first | rfl | (simp; done) | (simp only [State.ctl, Ctl.mk.injEq] <;> simp [↓ctl_mk, ctl_eqs]; done)

theorem execCheckpointRestoreComplete_ctl (fold : Nat) (good : Bool) (t : Time) (s : State) :
    ∃ next, execCheckpointRestoreComplete fold good t s = .next next ∧ next.ctl = s.ctl := by
  refine ⟨_, rfl, ?_⟩
  apply State.event_ctl
  intro g
  (repeat' split) <;> first | rfl | (simp; done) | (simp only [State.ctl, Ctl.mk.injEq] <;> simp [↓ctl_mk, ctl_eqs]; done)

theorem execRelocRecordWritten_ctl (fold : Nat) (t : Time) (s : State) :
    ∃ next, execRelocRecordWritten fold t s = .next next ∧ next.ctl = s.ctl := by
  refine ⟨_, rfl, ?_⟩
  apply State.event_ctl
  intro g
  (repeat' split) <;> first | rfl | (simp; done) | (simp only [State.ctl, Ctl.mk.injEq] <;> simp [↓ctl_mk, ctl_eqs]; done)

theorem execClockRelockVerdict_ctl (n : Pad) (locked : Option Time) (held : Bool) (t : Time) (s : State) :
    ∃ next, execClockRelockVerdict n locked held t s = .next next ∧ next.ctl = s.ctl := by
  refine ⟨_, rfl, ?_⟩
  apply State.event_ctl
  intro g
  (repeat' split) <;> first | rfl | (simp; done) | (simp only [State.ctl, Ctl.mk.injEq] <;> simp [↓ctl_mk, ctl_eqs]; done)

theorem execRingRelockVerdict_ctl (f : FieldIx) (locked : Option Time) (held : Bool) (t : Time) (s : State) :
    ∃ next, execRingRelockVerdict f locked held t s = .next next ∧ next.ctl = s.ctl := by
  refine ⟨_, rfl, ?_⟩
  apply State.event_ctl
  intro g
  (repeat' split) <;> first | rfl | (simp; done) | (simp only [State.ctl, Ctl.mk.injEq] <;> simp [↓ctl_mk, ctl_eqs]; done)

theorem execReferenceAbsentLong_ctl (edge : Option (Fin 4)) (t : Time) (s : State) :
    ∃ next, execReferenceAbsentLong edge t s = .next next ∧ next.ctl = s.ctl := by
  refine ⟨_, rfl, ?_⟩
  apply State.event_ctl
  intro g
  (repeat' split) <;> first | rfl | (simp; done) | (simp only [State.ctl, Ctl.mk.injEq] <;> simp [↓ctl_mk, ctl_eqs]; done)

theorem execAckFault_ctl (ln : Ln) (s : State) :
    ∃ next, execAckFault ln s = .next next ∧ next.ctl = s.ctl := by
  refine ⟨_, rfl, ?_⟩
  apply State.judged_ctl
  intro u
  (repeat' split) <;> first | rfl | (simp; done) | (simp only [State.ctl, Ctl.mk.injEq] <;> simp [↓ctl_mk, ctl_eqs]; done)

theorem execRestoreDie_ctl (die : DieName) (passed : Bool) (ln : Ln) (s : State) :
    ∃ next, execRestoreDie die passed ln s = .next next ∧ next.ctl = s.ctl := by
  refine ⟨_, rfl, ?_⟩
  apply State.judged_ctl
  intro u
  (repeat' split) <;> first | rfl | (simp; done) | (simp only [State.ctl, Ctl.mk.injEq] <;> simp [↓ctl_mk, ctl_eqs]; done)

theorem execRestoreLane_ctl (c r dir lane : Nat) (passed : Bool) (ln : Ln) (s : State) :
    ∃ next, execRestoreLane c r dir lane passed ln s = .next next ∧ next.ctl = s.ctl := by
  refine ⟨_, rfl, ?_⟩
  apply State.judged_ctl
  intro u
  (repeat' split) <;> first | rfl | (simp; done) | (simp only [State.ctl, Ctl.mk.injEq] <;> simp [↓ctl_mk, ctl_eqs]; done)

theorem execShowLink_ctl (c r dir : Nat) (lane : Option Nat) (ln : Ln) (s : State) :
    ∃ next, execShowLink c r dir lane ln s = .next next ∧ next.ctl = s.ctl := by
  refine ⟨_, rfl, ?_⟩
  apply State.judged_ctl
  intro u
  (repeat' split) <;> first | rfl | (simp; done) | (simp only [State.ctl, Ctl.mk.injEq] <;> simp [↓ctl_mk, ctl_eqs]; done)

theorem execPeek_ctl (addr : Nat) (count : Option Nat) (ln : Ln) (s : State) :
    ∃ next, execPeek addr count ln s = .next next ∧ next.ctl = s.ctl := by
  refine ⟨_, rfl, ?_⟩
  apply State.judged_ctl
  intro u
  (repeat' split) <;> first | rfl | (simp; done) | (simp only [State.ctl, Ctl.mk.injEq] <;> simp [↓ctl_mk, ctl_eqs]; done)

theorem execShcAlertcauseRead_ctl (ln : Ln) (s : State) :
    ∃ next, execShcAlertcauseRead ln s = .next next ∧ next.ctl = s.ctl := by
  refine ⟨_, rfl, ?_⟩
  apply State.judged_ctl
  intro u
  (repeat' split) <;> first | rfl | (simp; done) | (simp only [State.ctl, Ctl.mk.injEq] <;> simp [↓ctl_mk, ctl_eqs]; done)

theorem execKeepaliveSend_ctl (t : Time) (s : State) :
    ∃ next, execKeepaliveSend t s = .next next ∧ next.ctl = s.ctl := by
  refine ⟨_, rfl, ?_⟩
  apply State.event_ctl
  intro g
  (repeat' split) <;> first | rfl | (simp; done) | (simp only [State.ctl, Ctl.mk.injEq] <;> simp [↓ctl_mk, ctl_eqs]; done)

theorem execHeartbeatSend_ctl (shc : ShcIx) (t : Time) (s : State) :
    ∃ next, execHeartbeatSend shc t s = .next next ∧ next.ctl = s.ctl := by
  refine ⟨_, rfl, ?_⟩
  apply State.event_ctl
  intro g
  (repeat' split) <;> first | rfl | (simp; done) | (simp only [State.ctl, Ctl.mk.injEq] <;> simp [↓ctl_mk, ctl_eqs]; done)

theorem execHeartbeatReceive_ctl (shc : ShcIx) (shcl lane0 : Bool) (b : Beat) (t : Time) (s : State) :
    ∃ next, execHeartbeatReceive shc shcl lane0 b t s = .next next ∧ next.ctl = s.ctl := by
  refine ⟨_, rfl, ?_⟩
  apply State.event_ctl
  intro g
  (repeat' split) <;> first | rfl | (simp; done) | (simp only [State.ctl, Ctl.mk.injEq] <;> simp [↓ctl_mk, ctl_eqs]; done)

theorem execHeartbeatMiss_ctl (t : Time) (s : State) :
    ∃ next, execHeartbeatMiss t s = .next next ∧ next.ctl = s.ctl := by
  refine ⟨_, rfl, ?_⟩
  apply State.event_ctl
  intro g
  (repeat' split) <;> first | rfl | (simp; done) | (simp only [State.ctl, Ctl.mk.injEq] <;> simp [↓ctl_mk, ctl_eqs]; done)

theorem execMirrorAckTimeout_ctl (t : Time) (s : State) :
    ∃ next, execMirrorAckTimeout t s = .next next ∧ next.ctl = s.ctl := by
  refine ⟨_, rfl, ?_⟩
  apply State.event_ctl
  intro g
  (repeat' split) <;> first | rfl | (simp; done) | (simp only [State.ctl, Ctl.mk.injEq] <;> simp [↓ctl_mk, ctl_eqs]; done)

theorem execMirrorProbeTimeout_ctl (t : Time) (s : State) :
    ∃ next, execMirrorProbeTimeout t s = .next next ∧ next.ctl = s.ctl := by
  refine ⟨_, rfl, ?_⟩
  apply State.event_ctl
  intro g
  (repeat' split) <;> first | rfl | (simp; done) | (simp only [State.ctl, Ctl.mk.injEq] <;> simp [↓ctl_mk, ctl_eqs]; done)

theorem execShowShc_ctl (ln : Ln) (s : State) :
    ∃ next, execShowShc ln s = .next next ∧ next.ctl = s.ctl := by
  refine ⟨_, rfl, ?_⟩
  apply State.judged_ctl
  intro u
  (repeat' split) <;> first | rfl | (simp; done) | (simp only [State.ctl, Ctl.mk.injEq] <;> simp [↓ctl_mk, ctl_eqs]; done)

theorem execSpanBlockSend_ctl (i : SpdIx) (t : Time) (s : State) :
    ∃ next, execSpanBlockSend i t s = .next next ∧ next.ctl = s.ctl := by
  refine ⟨_, rfl, ?_⟩
  apply State.event_ctl
  intro g
  dsimp only
  (repeat' split) <;> first | rfl | (simp; done) | (simp only [State.ctl, Ctl.mk.injEq] <;> simp [↓ctl_mk, ctl_eqs]; done)

theorem execSpanBlockReceived_ctl (i : SpdIx) (decoded replay : Bool) (symbols : Nat) (b : BitVec 2570) (t : Time) (s : State) :
    ∃ next, execSpanBlockReceived i decoded replay symbols b t s = .next next ∧ next.ctl = s.ctl := by
  refine ⟨_, rfl, ?_⟩
  apply State.event_ctl
  intro g
  (repeat' split) <;> first | rfl | (simp; done) | (simp only [State.ctl, Ctl.mk.injEq] <;> simp [↓ctl_mk, ctl_eqs]; done)

theorem execSpanReplayTimeout_ctl (i : SpdIx) (t : Time) (s : State) :
    ∃ next, execSpanReplayTimeout i t s = .next next ∧ next.ctl = s.ctl := by
  refine ⟨_, rfl, ?_⟩
  apply State.event_ctl
  intro g
  (repeat' split) <;> first | rfl | (simp; done) | (simp only [State.ctl, Ctl.mk.injEq] <;> simp [↓ctl_mk, ctl_eqs]; done)

theorem execSpanDownTimeout_ctl (i : SpdIx) (t : Time) (s : State) :
    ∃ next, execSpanDownTimeout i t s = .next next ∧ next.ctl = s.ctl := by
  refine ⟨_, rfl, ?_⟩
  apply State.event_ctl
  intro g
  (repeat' split) <;> first | rfl | (simp; done) | (simp only [State.ctl, Ctl.mk.injEq] <;> simp [↓ctl_mk, ctl_eqs]; done)

theorem execSpanRxSilence_ctl (i : SpdIx) (t : Time) (s : State) :
    ∃ next, execSpanRxSilence i t s = .next next ∧ next.ctl = s.ctl := by
  refine ⟨_, rfl, ?_⟩
  apply State.event_ctl
  intro g
  (repeat' split) <;> first | rfl | (simp; done) | (simp only [State.ctl, Ctl.mk.injEq] <;> simp [↓ctl_mk, ctl_eqs]; done)

theorem execTrainBlockReceived_ctl (i : SpdIx) (locked : BitVec 16) (b : BitVec 2570) (t : Time) (s : State) :
    ∃ next, execTrainBlockReceived i locked b t s = .next next ∧ next.ctl = s.ctl := by
  refine ⟨_, rfl, ?_⟩
  apply State.event_ctl
  intro g
  (repeat' split) <;> first | rfl | (simp; done) | (simp only [State.ctl, Ctl.mk.injEq] <;> simp [↓ctl_mk, ctl_eqs]; done)

theorem execTrainingTimeout_ctl (i : SpdIx) (t : Time) (s : State) :
    ∃ next, execTrainingTimeout i t s = .next next ∧ next.ctl = s.ctl := by
  refine ⟨_, rfl, ?_⟩
  apply State.event_ctl
  intro g
  (repeat' split) <;> first | rfl | (simp; done) | (simp only [State.ctl, Ctl.mk.injEq] <;> simp [↓ctl_mk, ctl_eqs]; done)

theorem execTrainRefuseExpiry_ctl (i : SpdIx) (t : Time) (s : State) :
    ∃ next, execTrainRefuseExpiry i t s = .next next ∧ next.ctl = s.ctl := by
  refine ⟨_, rfl, ?_⟩
  apply State.event_ctl
  intro g
  (repeat' split) <;> first | rfl | (simp; done) | (simp only [State.ctl, Ctl.mk.injEq] <;> simp [↓ctl_mk, ctl_eqs]; done)

theorem execSpdDoubt_ctl (i : SpdIx) (cause : Nat) (t : Time) (s : State) :
    ∃ next, execSpdDoubt i cause t s = .next next ∧ next.ctl = s.ctl := by
  refine ⟨_, rfl, ?_⟩
  apply State.event_ctl
  intro g
  (repeat' split) <;> first | rfl | (simp; done) | (simp only [State.ctl, Ctl.mk.injEq] <;> simp [↓ctl_mk, ctl_eqs]; done)

theorem execShowSpan_ctl (spd : Nat) (ln : Ln) (s : State) :
    ∃ next, execShowSpan spd ln s = .next next ∧ next.ctl = s.ctl := by
  refine ⟨_, rfl, ?_⟩
  apply State.judged_ctl
  intro u
  (repeat' split) <;> first | rfl | (simp; done) | (simp only [State.ctl, Ctl.mk.injEq] <;> simp [↓ctl_mk, ctl_eqs]; done)

theorem execRetrainSpan_ctl (spd : Nat) (ln : Ln) (s : State) :
    ∃ next, execRetrainSpan spd ln s = .next next ∧ next.ctl = s.ctl := by
  refine ⟨_, rfl, ?_⟩
  apply State.judged_ctl
  intro u
  (repeat' split) <;> first | rfl | (simp; done) | (simp only [State.ctl, Ctl.mk.injEq] <;> simp [↓ctl_mk, ctl_eqs]; done)

theorem execShowFlock_ctl (ln : Ln) (s : State) :
    ∃ next, execShowFlock ln s = .next next ∧ next.ctl = s.ctl := by
  refine ⟨_, rfl, ?_⟩
  apply State.judged_ctl
  intro u
  (repeat' split) <;> first | rfl | (simp; done) | (simp only [State.ctl, Ctl.mk.injEq] <;> simp [↓ctl_mk, ctl_eqs]; done)

theorem execSetFlock_ctl (id : BitVec 32) (wafer : Nat) (members : List Nat) (ln : Ln) (s : State) :
    ∃ next, execSetFlock id wafer members ln s = .next next ∧ next.ctl = s.ctl := by
  refine ⟨_, rfl, State.judged_ctl _ _ _ _ _ fun u => State.inRange_ctl _ _ _ _ _ _ _ ?_⟩
  split
  · simp
  · split
    · simp
    · rename_i h
      rw [State.ok_ctl]
      exact setFlash_ctl _ (flashTakes_frozen h)

theorem execThermalTripRetry_ctl (n : Pad) (t : Time) (s : State) :
    ∃ next, execThermalTripRetry n t s = .next next ∧ next.ctl = s.ctl := by
  refine ⟨_, rfl, ?_⟩
  apply State.event_ctl
  intro g
  (repeat' split) <;> first | rfl | (simp; done) | (simp only [State.ctl, Ctl.mk.injEq] <;> simp [↓ctl_mk, ctl_eqs]; done)

theorem execThermalRetryVerdict_ctl (n : Pad) (t : Time) (s : State) :
    ∃ next, execThermalRetryVerdict n t s = .next next ∧ next.ctl = s.ctl := by
  refine ⟨_, rfl, ?_⟩
  apply State.event_ctl
  intro g
  (repeat' split) <;> first | rfl | (simp; done) | (simp only [State.ctl, Ctl.mk.injEq] <;> simp [↓ctl_mk, ctl_eqs]; done)

theorem execShowThermal_ctl (ln : Ln) (s : State) :
    ∃ next, execShowThermal ln s = .next next ∧ next.ctl = s.ctl := by
  refine ⟨_, rfl, ?_⟩
  apply State.judged_ctl
  intro u
  (repeat' split) <;> first | rfl | (simp; done) | (simp only [State.ctl, Ctl.mk.injEq] <;> simp [↓ctl_mk, ctl_eqs]; done)

theorem execShowSensors_ctl (at_ : Sum Loc DieName) (ln : Ln) (s : State) :
    ∃ next, execShowSensors at_ ln s = .next next ∧ next.ctl = s.ctl := by
  refine ⟨_, rfl, ?_⟩
  apply State.judged_ctl
  intro u
  (repeat' split) <;> first | rfl | (simp; done) | (simp only [State.ctl, Ctl.mk.injEq] <;> simp [↓ctl_mk, ctl_eqs]; done)

end Sys2Proof.Machine
end

