-- ==== Sys2Proof/Laws/Fld.lean ====
section
/-! SUPPORT. What leaves the folds, their channels, sessions, scrub records and the incarnation counter alone. -/
namespace Sys2Proof.Machine

open Sys2Proof

set_option linter.all false

structure Fld where
  folds : List Fold
  channels : List Channel
  sessions : List (Nat × Session)
  scrubs : List Scrub
  incCtr : Nat

def State.fld (s : State) : Fld :=
  ⟨s.folds, s.channels, s.sessions, s.scrubs, s.incCtr⟩

theorem fld_mk (now) (freeCtr) (resetN) (pwrFail) (pwrFailAt) (frozen) (faultN) (alertN) (alertCause) (ready)
    (readyAt) (vstby) (fuses) (flash) (writing) (place) (net) (boot) (sel) (quiet) (active) (shcA) (shcB) (mirrorSeq)
    (mirrorProbe) (scratch) (sess) (con0) (con1) (waits) (garp) (stages) (nextStage) (retained) (fwUpdate) (bellSeq)
    (bells) (ledgerSeq) (ledgerHeld) (ledgerStopped) (ptpPort) (ptpHeard) (tallies) (busA) (busB) (shared) (telem)
    (unreach) (refAbsent) (refSince) (meshLocked) (inlet) (outlet) (loopSince) (wave) (lastWave) (map) (mapSeq) (pads)
    (fields) (links) (lane0) (neds) (meds) (spds) (nedTemp) (spdTemp) (medTemp) (flockUp) (flockMembers) (flockInfo)
    (excludedW) (folds) (scrubs) (paused) (secondAt) (incCtr) (channels) (sessions) (reports) (notices) (wsel) (wstat)
    (shadow) (taps) (wire) (pending) : (State.mk now freeCtr resetN pwrFail pwrFailAt frozen faultN alertN alertCause
    ready readyAt vstby fuses flash writing place net boot sel quiet active shcA shcB mirrorSeq mirrorProbe scratch
    sess con0 con1 waits garp stages nextStage retained fwUpdate bellSeq bells ledgerSeq ledgerHeld ledgerStopped
    ptpPort ptpHeard tallies busA busB shared telem unreach refAbsent refSince meshLocked inlet outlet loopSince wave
    lastWave map mapSeq pads fields links lane0 neds meds spds nedTemp spdTemp medTemp flockUp flockMembers flockInfo
    excludedW folds scrubs paused secondAt incCtr channels sessions reports notices wsel wstat shadow taps wire
    pending).fld = ⟨folds, channels, sessions, scrubs, incCtr⟩ := rfl

theorem fld_eqs : (∀ s : State, s.folds = s.fld.folds) ∧ (∀ s : State, s.channels = s.fld.channels) ∧ (∀ s : State,
    s.sessions = s.fld.sessions) ∧ (∀ s : State, s.scrubs = s.fld.scrubs) ∧ (∀ s : State, s.incCtr = s.fld.incCtr) := by
  (repeat' apply And.intro) <;> intros <;> rfl

@[simp] theorem ite_fld (c : Prop) [Decidable c] (a b : State) : (if c then a else b).fld = if c then a.fld else b.fld := by
  split <;> rfl

@[simp] theorem foldl_fld {α : Type} (f : State → α → State) (h : ∀ s a, (f s a).fld = s.fld) (l : List α) (s : State) :
    (l.foldl f s).fld = s.fld := by
  induction l generalizing s with
  | nil => rfl
  | cons x xs ih => simp [ih, h]

theorem ite_eq_fld {c : Prop} [Decidable c] {a b : State} {r : Fld} (ha : a.fld = r) (hb : b.fld = r) :
    (if c then a else b).fld = r := by
  split <;> assumption

theorem wire_fld (a : State) (w : List Wire) : ({ a with wire := w } : State).fld = a.fld := rfl

theorem meds_fld (a : State) (l : List Med) (h : l.length = a.meds.length) : ({ a with meds := l } : State).fld = a.fld := rfl

theorem setFlash_fld {s : State} (f : Flash) (h : s.frozen = false) : ({ s with flash := f } : State).fld = s.fld := rfl

theorem heard_fld (a : State) (o : Option Time) : ({ a with ptpHeard := o } : State).fld = a.fld := rfl

theorem fw_fld (a : State) (w : FwUpdate) : ({ a with fwUpdate := w } : State).fld = a.fld := rfl

theorem setWriting_fld {s : State} (w : Option (FlashWork × Time)) (h : s.frozen = false) : ({ s with writing := w } : State).fld = s.fld := rfl

@[simp] theorem State.tick_fld (s : State) (t : Time) : (s.tick t).fld = s.fld := rfl

@[simp] theorem State.setPad_fld (s : State) (n : Nat) (p : Paddock) : (State.setPad s n p).fld = s.fld := by
  unfold State.setPad; simp only [State.fld, Fld.mk.injEq] <;> simp [↓fld_mk, fld_eqs]

@[simp] theorem State.modPad_fld (s : State) (n : Nat) (f : Paddock → Paddock) : (State.modPad s n f).fld = s.fld := by
  simp [State.modPad]

@[simp] theorem State.setField_fld (s : State) (f : Nat) (x : Field) : (State.setField s f x).fld = s.fld := by
  unfold State.setField; simp only [State.fld, Fld.mk.injEq] <;> simp [↓fld_mk, fld_eqs]

@[simp] theorem State.modField_fld (s : State) (f : Nat) (g : Field → Field) : (State.modField s f g).fld = s.fld := by
  simp [State.modField]

@[simp] theorem State.setNed_fld (s : State) (k : Nat) (x : Ned) : (State.setNed s k x).fld = s.fld := by
  unfold State.setNed; simp only [State.fld, Fld.mk.injEq] <;> simp [↓fld_mk, fld_eqs]

@[simp] theorem State.modNed_fld (s : State) (k : Nat) (f : Ned → Ned) : (State.modNed s k f).fld = s.fld := by
  simp [State.modNed]

@[simp] theorem State.setMed_fld (s : State) (k : Nat) (x : Med) : (State.setMed s k x).fld = s.fld := by
  unfold State.setMed; simp only [State.fld, Fld.mk.injEq] <;> simp [↓fld_mk, fld_eqs]

@[simp] theorem State.modMed_fld (s : State) (k : Nat) (f : Med → Med) : (State.modMed s k f).fld = s.fld := by
  simp [State.modMed]

@[simp] theorem State.setSpd_fld (s : State) (k : Nat) (x : Spd) : (State.setSpd s k x).fld = s.fld := by
  unfold State.setSpd; simp only [State.fld, Fld.mk.injEq] <;> simp [↓fld_mk, fld_eqs]

@[simp] theorem State.modSpd_fld (s : State) (k : Nat) (f : Spd → Spd) : (State.modSpd s k f).fld = s.fld := by
  simp [State.modSpd]

@[simp] theorem State.setShc_fld (s : State) (i : Nat) (x : Shc) : (State.setShc s i x).fld = s.fld := by
  unfold State.setShc; simp only [State.fld, Fld.mk.injEq] <;> simp [↓fld_mk, fld_eqs]

@[simp] theorem State.modFlash_fld (s : State) (f : Flash → Flash) : (s.modFlash f).fld = s.fld := by
  unfold State.modFlash
  split
  · rfl
  · rename_i h
    exact setFlash_fld _ (by simpa using h)

@[simp] theorem State.modShc_fld (s : State) (i : Nat) (f : Shc → Shc) : (State.modShc s i f).fld = s.fld := by
  simp [State.modShc]

@[simp] theorem State.setLink_fld (s : State) (x lane : Nat) (l : LinkEnd) : (State.setLink s x lane l).fld = s.fld := by
  unfold State.setLink; simp only [State.fld, Fld.mk.injEq] <;> simp [↓fld_mk, fld_eqs]

@[simp] theorem State.modLink_fld (s : State) (x lane : Nat) (f : LinkEnd → LinkEnd) : (State.modLink s x lane f).fld = s.fld := by
  simp [State.modLink]

@[simp] theorem State.setEntry_fld (s : State) (n : Nat) (e : MapEntry) : (State.setEntry s n e).fld = s.fld := by
  unfold State.setEntry; simp only [State.fld, Fld.mk.injEq] <;> simp [↓fld_mk, fld_eqs]

@[simp] theorem State.addTally_fld (s : State) (scope : TScope) (id idx n : Nat) : (State.addTally s scope id idx n).fld = s.fld := by
  unfold State.addTally; simp only [State.fld, Fld.mk.injEq] <;> simp [↓fld_mk, fld_eqs]

@[simp] theorem State.count_fld (s : State) (scope : TScope) (id idx : Nat) : (State.count s scope id idx).fld = s.fld := by
  simp [State.count]

@[simp] theorem State.countChan_fld (s : State) (ned bind handle idx n : Nat) : (State.countChan s ned bind handle idx n).fld = s.fld := by
  simp [State.countChan]

@[simp] theorem State.clearTallies_fld (s : State) (scope : TScope) (id : Nat) : (State.clearTallies s scope id).fld = s.fld := by
  unfold State.clearTallies; simp only [State.fld, Fld.mk.injEq] <;> simp [↓fld_mk, fld_eqs]

@[simp] theorem State.ring_fld (s : State) (obj : String) (fault : Bool) (kv : KVs) : (s.ring obj fault kv).fld = s.fld := by
  unfold State.ring
  split
  · rfl
  · exact (State.addTally_fld _ _ _ _ _).trans rfl

@[simp] theorem State.alert_fld (s : State) (row : Nat) : (State.alert s row).fld = s.fld := by
  unfold State.alert; simp only [State.fld, Fld.mk.injEq] <;> simp [↓fld_mk, fld_eqs]

@[simp] theorem State.report_fld (s : State) (tr : Trigger) (folds : List Nat) (place : Nat) : (State.report s tr folds place).fld = s.fld := by
  unfold State.report; simp only [State.fld, Fld.mk.injEq] <;> simp [↓fld_mk, fld_eqs]

@[simp] theorem State.stepClock_fld (s : State) (n x : Nat) : (State.stepClock s n x).fld = s.fld := by
  simp [State.stepClock]

@[simp] theorem State.goDark_fld (s : State) (n : Nat) : (State.goDark s n).fld = s.fld := by
  unfold State.goDark; simp only [State.fld, Fld.mk.injEq] <;> simp [↓fld_mk, fld_eqs]

@[simp] theorem State.enqueueWave_fld (s : State) (n : Nat) (goal : Power) : (State.enqueueWave s n goal).fld = s.fld := by
  unfold State.enqueueWave; simp only [State.fld, Fld.mk.injEq] <;> simp [↓fld_mk, fld_eqs]

@[simp] theorem State.dissolveYoke_fld (s : State) (n : Nat) : (State.dissolveYoke s n).fld = s.fld := by
  simp [State.dissolveYoke]

@[simp] theorem State.markHole_fld (s : State) (n cause : Nat) (quiet : Bool) : (State.markHole s n cause quiet).fld = s.fld := by
  unfold State.markHole; simp only [State.fld, Fld.mk.injEq] <;> simp [↓fld_mk, fld_eqs]

@[simp] theorem State.endRun_fld (s : State) (n : Nat) : (State.endRun s n).fld = s.fld := by
  simp [State.endRun]

@[simp] theorem State.endB4_fld (s : State) : (State.endB4 s).fld = s.fld := by
  unfold State.endB4; simp only [State.fld, Fld.mk.injEq] <;> simp [↓fld_mk, fld_eqs]

@[simp] theorem State.dieBell_fld (s : State) (obj : String) (k cause : Nat) : (State.dieBell s obj k cause).fld = s.fld := by
  unfold State.dieBell; simp only [State.fld, Fld.mk.injEq] <;> simp [↓fld_mk, fld_eqs]

@[simp] theorem State.reinject_fld (s : State) : (State.reinject s).fld = s.fld := by
  simp [State.reinject]

@[simp] theorem State.pmbus_fld (s : State) (addr page cmd data : Nat) : (State.pmbus s addr page cmd data).fld = s.fld := by
  unfold State.pmbus; simp only [State.fld, Fld.mk.injEq] <;> simp [↓fld_mk, fld_eqs]

/-- What an event leaves alone, its moment aside. -/
theorem State.event_fld (s : State) (t : Time) (c : State → Bool) (f : State → State)
    (h : c (s.tick t) = true → (f (s.tick t)).fld = s.fld) : (s.event t c f).fld = s.fld := by
  unfold State.event
  split
  · rename_i g
    exact h (by simpa using (Bool.and_eq_true _ _ ▸ g).2)
  · rfl

@[simp] theorem State.draw_fld (s : State) : s.draw.2.fld = s.fld := rfl

@[simp] theorem drawBytes_fld (n : Nat) (s : State) : (drawBytes n s).2.fld = s.fld := by
  induction n generalizing s with
  | zero => rfl
  | succ n ih => exact ih _

@[simp] theorem State.tapTest_fld (s : State) (d : Nat) : (State.tapTest s d).fld = s.fld := by
  unfold State.tapTest
  (repeat' split) <;> first | (simp; done) | (simp only [State.fld, Fld.mk.injEq] <;> simp [↓fld_mk, fld_eqs])

@[simp] theorem State.ack_fld (s : State) : (State.ack s).fld = s.fld := by
  unfold State.ack; simp only [State.fld, Fld.mk.injEq] <;> simp [↓fld_mk, fld_eqs]

@[simp] theorem State.setCs_fld (s : State) (i : Nat) (c : CSess) : (State.setCs s i c).fld = s.fld := by
  unfold State.setCs; simp only [State.fld, Fld.mk.injEq] <;> simp [↓fld_mk, fld_eqs]

@[simp] theorem State.modCs_fld (s : State) (i : Nat) (f : CSess → CSess) : (State.modCs s i f).fld = s.fld := by
  simp [State.modCs]

@[simp] theorem State.say_fld (s : State) (i : Nat) (o : Out) : (State.say s i o).fld = s.fld := by
  simp [State.say]

@[simp] theorem State.prompt_fld (s : State) (i : Nat) : (State.prompt s i).fld = s.fld := by
  simp [State.prompt]

@[simp] theorem State.final_fld (s : State) (i : Nat) (tag : Option (List Byte)) (crc : Bool) (r : RLine) : (State.final s i tag crc r).fld = s.fld := by
  simp [State.final]

@[simp] theorem State.answer_fld (s : State) (ln : Ln) (r : RLine) : (State.answer s ln r).fld = s.fld := by
  unfold State.answer
  (repeat' split) <;> simp

@[simp] theorem State.ok_fld (s : State) (ln : Ln) (kv : KVs) : (State.ok s ln kv).fld = s.fld := by
  simp [State.ok]

@[simp] theorem State.err_fld (s : State) (ln : Ln) (code : Nat) (kv : KVs) : (State.err s ln code kv).fld = s.fld := by
  simp [State.err]

@[simp] theorem State.parts_fld (s : State) (ln : Ln) (ps : List KVs) (kv : KVs) : (State.parts s ln ps kv).fld = s.fld := by
  simp [State.parts]

@[simp] theorem State.refuse_fld (s : State) (ln : Ln) (why : String) : (State.refuse s ln why).fld = s.fld := by
  simp [State.refuse]

@[simp] theorem State.sendBells_fld (s : State) (i : Nat) : (State.sendBells s i).fld = s.fld := by
  simp [State.sendBells]

@[simp] theorem State.lineIn_fld (s : State) (ln : Ln) : (State.lineIn s ln).fld = s.fld := by
  unfold State.lineIn; simp only [State.fld, Fld.mk.injEq] <;> simp [↓fld_mk, fld_eqs]

@[simp] theorem State.await_fld (s : State) (ln : Ln) (w : WaitFor) : (State.await s ln w).fld = s.fld := by
  unfold State.await; simp only [State.fld, Fld.mk.injEq] <;> simp [↓fld_mk, fld_eqs]

/-- A console command leaves the core alone, its moment aside, when its body does. -/
theorem State.judged_fld (s : State) (ln : Ln) (need : Level) (boot : Bool) (body : State → State)
    (h : ∀ u : State, (body u).fld = u.fld) : (s.judged ln need boot body).fld = s.fld := by
  unfold State.judged
  dsimp only
  (repeat' split) <;> first | rfl | (simp [h]; done) | (simp only [State.fld, Fld.mk.injEq] <;> simp [↓fld_mk, fld_eqs])

theorem State.sessionVerb_fld (s : State) (ln : Ln) (body : State → State)
    (h : ∀ u : State, (body u).fld = u.fld) : (s.sessionVerb ln body).fld = s.fld := by
  unfold State.sessionVerb
  (repeat' split) <;> first | rfl | (simp [h]; done)

@[simp] theorem State.settle_fld (s : State) (p : WaitFor → Bool) (r : RLine) : (State.settle s p r).fld = s.fld := by
  unfold State.settle; simp only [State.fld, Fld.mk.injEq] <;> simp [↓fld_mk, fld_eqs]

@[simp] theorem State.mirror_fld (s : State) : (State.mirror s).fld = s.fld := by
  unfold State.mirror
  (repeat' split) <;> first | (simp; done) | (simp only [State.fld, Fld.mk.injEq] <;> simp [↓fld_mk, fld_eqs])

@[simp] theorem State.flashErr_fld (s : State) (ln : Ln) (region : String) : (State.flashErr s ln region).fld = s.fld := by
  simp [State.flashErr]

@[simp] theorem State.inRange_fld (s : State) (ln : Ln) (key : String) (x lo hi : Nat) (body : State → State)
    (h : (body s).fld = s.fld) : (s.inRange ln key x lo hi body).fld = s.fld := by
  unfold State.inRange
  split <;> simp [h]

@[simp] theorem State.onFold_fld (s : State) (ln : Ln) (id : Nat) (body : Fold → State)
    (h : ∀ f, (body f).fld = s.fld) : (s.onFold ln id body).fld = s.fld := by
  unfold State.onFold
  split <;> simp [h]

@[simp] theorem State.writeMap_fld (s : State) (full ok : Bool) : (s.writeMap full ok).fld = s.fld := by
  unfold State.writeMap
  split
  · rfl
  · rename_i h
    simp only [Bool.or_eq_true, not_or, Bool.not_eq_true] at h
    simp [State.fld, heldFlash, h.1]

@[simp] theorem State.writeMapAlone_fld (s : State) : s.writeMapAlone.fld = s.fld := by
  unfold State.writeMapAlone
  split
  · rfl
  · rename_i h
    exact (setWriting_fld _ ((frozen_of_core (State.writeMap_core _ _ _)).trans (by simpa using h))).trans (State.writeMap_fld _ _ _)

@[simp] theorem State.cutFlash_fld (s : State) : s.cutFlash.fld = s.fld := rfl

@[simp] theorem State.shcDoubt_fld (s : State) (i cause : Nat) : (State.shcDoubt s i cause).fld = s.fld := by
  unfold State.shcDoubt; simp only [State.fld, Fld.mk.injEq] <;> simp [↓fld_mk, fld_eqs]

@[simp] theorem State.takeoverBell_fld (s : State) (i : Nat) : (State.takeoverBell s i).fld = s.fld := by
  simp [State.takeoverBell]

@[simp] theorem State.syncCredits_fld (s : State) (x lane : Nat) : (State.syncCredits s x lane).fld = s.fld := by
  unfold State.syncCredits
  (repeat' split) <;> simp

@[simp] theorem State.syncBorders_fld (s : State) (n : Nat) : (State.syncBorders s n).fld = s.fld := by
  unfold State.syncBorders
  dsimp only
  (repeat' split) <;> first | rfl | (simp (disch := (intros; (repeat' split) <;> simp)); done) | (simp only [State.fld, Fld.mk.injEq] <;> simp (disch := (intros; (repeat' split) <;> simp)) [↓fld_mk, fld_eqs])

@[simp] theorem State.reroute_fld (s : State) (x lane : Nat) : (State.reroute s x lane).fld = s.fld := by
  unfold State.reroute
  dsimp only
  (repeat' split) <;> first | rfl | (simp (disch := (intros; (repeat' split) <;> simp)); done) | (simp only [State.fld, Fld.mk.injEq] <;> simp (disch := (intros; (repeat' split) <;> simp)) [↓fld_mk, fld_eqs])

@[simp] theorem State.downSide_fld (s : State) (x lane : Nat) (acc : BitVec 5) : (State.downSide s x lane acc).fld = s.fld := by
  simp [State.downSide]

@[simp] theorem State.sendSys_fld (s : State) (u : Nat) (f : Flit) : (State.sendSys s u f).fld = s.fld := by
  simp [State.sendSys]

@[simp] theorem State.reportFrom_fld (s : State) (u : Nat) (tr : Trigger) (folds : List Nat) (place : Nat) : (State.reportFrom s u tr folds place).fld = s.fld := by
  simp [State.reportFrom]

@[simp] theorem State.pickDetours_fld (s : State) (was : List (Nat × Nat × List Nat)) : (State.pickDetours s was).fld = s.fld := by
  unfold State.pickDetours
  dsimp only
  (repeat' split) <;> first | rfl | (simp (disch := (intros; (repeat' split) <;> simp)); done) | (simp only [State.fld, Fld.mk.injEq] <;> simp (disch := (intros; (repeat' split) <;> simp)) [↓fld_mk, fld_eqs])

@[simp] theorem State.laneDown_fld (s : State) (x lane cause : Nat) : (State.laneDown s x lane cause).fld = s.fld := by
  unfold State.laneDown
  (repeat' split) <;> first | (simp; done) | (simp only [State.fld, Fld.mk.injEq] <;> simp [↓fld_mk, fld_eqs])

@[simp] theorem State.nedSend_fld (s : State) (k e : Nat) (fs : List Flit) : (State.nedSend s k e fs).fld = s.fld := by
  unfold State.nedSend
  (repeat' split) <;> simp

@[simp] theorem State.sendBell_fld (s : State) (k eport fold old incoming count : Nat) (im : Image) (d : Nat × Nat × Nat) : (State.sendBell s k eport fold old incoming count im d).fld = s.fld := by
  simp [State.sendBell]

@[simp] theorem State.closeBatch_fld (s : State) (k : Nat) (b : Binding) (f : Fold) : (State.closeBatch s k b f).fld = s.fld := by
  unfold State.closeBatch
  (repeat' split) <;> simp

@[simp] theorem State.countReq_fld (s : State) (k : Nat) (r : Req) (idx n : Nat) : (State.countReq s k r idx n).fld = s.fld := by
  simp [State.countReq]

theorem State.withTag_fld {s s0 : State} {k : Nat} {r x : Req} (h : s.withTag k r = some (x, s0)) : s0.fld = s.fld := by
  simp only [State.withTag, Option.map_eq_some_iff, Prod.mk.injEq] at h
  obtain ⟨_, _, _, rfl⟩ := h
  simp

@[simp] theorem State.countReply_fld (s : State) (k : Nat) (r : Req) (back : Bool) : (State.countReply s k r back).fld = s.fld := by
  unfold State.countReply
  (repeat' split) <;> simp

@[simp] theorem State.closeTag_fld (s : State) (k : Nat) (r : Req) (stray : Bool) : (State.closeTag s k r stray).fld = s.fld := by
  simp [State.closeTag]

@[simp] theorem State.unsend_fld (s : State) (k : Nat) (r : Req) : (State.unsend s k r).fld = s.fld := by
  unfold State.unsend; simp only [State.fld, Fld.mk.injEq] <;> simp [↓fld_mk, fld_eqs]

@[simp] theorem State.takeFrom_fld (s : State) (x lane : Nat) (src : Source) (q : Queued) : (State.takeFrom s x lane src q).fld = s.fld := by
  unfold State.takeFrom
  (repeat' split) <;> simp

theorem State.nextFlit_fld {s t : State} {x lane : Nat} {ok : Queued → Bool} {q : Queued} (h : s.nextFlit x lane ok = some (q, t)) :
    t.fld = s.fld := by
  unfold State.nextFlit at h
  obtain ⟨vc, -, h⟩ := List.exists_of_findSome?_eq_some h
  split at h
  · split at h
    · simp only [Option.some.injEq, Prod.mk.injEq] at h
      rw [← h.2]
      split <;> simp
    · cases h
  · cases h

@[simp] theorem State.sweepRouter_fld (s : State) (n : Nat) : (s.sweepRouter n).fld = s.fld := by
  unfold State.sweepRouter
  dsimp only
  rw [foldl_fld, foldl_fld]
  · intros; (repeat' split) <;> simp
  · intros; (repeat' split) <;> simp

@[simp] theorem State.freeSlot_fld (s : State) (x lane : Nat) (vc : Bool) : (State.freeSlot s x lane vc).fld = s.fld := by
  simp [State.freeSlot]

@[simp] theorem State.arriveDie_fld (s : State) (x lane : Nat) (vc : Bool) (f : Flit) : (State.arriveDie s x lane vc f).fld = s.fld := by
  simp [State.arriveDie]

@[simp] theorem State.memStatus_fld (s : State) (n : Nat) (f : Flit) : (State.memStatus s n f).fld = s.fld := by
  simp [State.memStatus]

@[simp] theorem State.dockTake_fld (s : State) (n : Nat) (h : DockHead) : (s.dockTake n h).fld = s.fld := by
  cases h <;> simp [State.dockTake]

@[simp] theorem State.dockRefuse_fld (s : State) (n : Nat) : (s.dockRefuse n).fld = s.fld := by
  unfold State.dockRefuse
  refine foldl_fld _ (fun _ _ => ?_) _ _
  split <;> simp

@[simp] theorem State.medSend_fld (s : State) (k : Nat) (out : List (MedPort × Flit)) : (State.medSend s k out).fld = s.fld := by
  simp [State.medSend]

@[simp] theorem State.countRets_fld (s : State) (k : Nat) (rs : List (MedPort × Flit)) : (State.countRets s k rs).fld = s.fld := by
  unfold State.countRets
  refine foldl_fld _ (fun _ _ => ?_) _ _
  (repeat' split) <;> simp

theorem State.medTake_fld {s t : State} {k : Nat} {p : MedPort} {f : Flit} (h : s.medTake k p f = some t) : t.fld = s.fld := by
  simp only [State.medTake, Option.map_eq_some_iff] at h
  obtain ⟨o, -, rfl⟩ := h
  split <;> simp

@[simp] theorem State.medServe_fld (k : Nat) (p : MedPort) (n : Nat) (s : State) : (State.medServe k p n s).fld = s.fld := by
  induction n generalizing s with
  | zero => rfl
  | succ n ih =>
    unfold State.medServe
    split
    · rfl
    · split
      · rfl
      · rename_i h
        split
        · exact State.medTake_fld h
        · exact (ih _).trans (State.medTake_fld h)

@[simp] theorem State.sendSpan_fld (s : State) (f : SFlit) : (State.sendSpan s f).fld = s.fld := by
  unfold State.sendSpan
  dsimp only
  (repeat' split) <;> simp

@[simp] theorem State.spanLinkDown_fld (s : State) (i cause : Nat) : (State.spanLinkDown s i cause).fld = s.fld := by
  simp [State.spanLinkDown]

@[simp] theorem State.unrevokeSpan_fld (s : State) (fold : Nat) : (State.unrevokeSpan s fold).fld = s.fld := by
  unfold State.unrevokeSpan; simp only [State.fld, Fld.mk.injEq] <;> simp [↓fld_mk, fld_eqs]

@[simp] theorem State.releaseMsg_fld (s : State) (i : Nat) (m : SMsg) : (State.releaseMsg s i m).fld = s.fld := by
  simp [State.releaseMsg]

@[simp] theorem State.spanRefuse_fld (s : State) (i cause : Nat) : (State.spanRefuse s i cause).fld = s.fld := by
  simp [State.spanRefuse]

@[simp] theorem State.trainSpan_fld (s : State) (i : Nat) : (State.trainSpan s i).fld = s.fld := by
  simp [State.trainSpan]

@[simp] theorem State.holdRecord_fld (s : State) (r : List Byte) : (s.holdRecord r).fld = s.fld := by
  have h : ∀ l, ({ s with ledgerHeld := l } : State).fld = s.fld := fun _ => rfl
  exact h _

@[simp] theorem State.ringPut_fld (r : List Byte) (n : Nat) (rb : List Bool) (s : State) : (State.ringPut r n rb s).fld = s.fld := by
  induction n generalizing s rb with
  | zero =>
    unfold State.ringPut
    rw [State.ring_fld, State.holdRecord_fld]
    rfl
  | succ n ih =>
    unfold State.ringPut
    dsimp only
    split
    · rfl
    · rw [ih, State.ring_fld]
      rfl

@[simp] theorem State.writeRecord_fld (s : State) (body : Nat → List Byte) (rb : List Bool) : (s.writeRecord body rb).fld = s.fld := by
  unfold State.writeRecord
  split
  · rfl
  · rename_i h
    dsimp only
    split
    · rw [State.holdRecord_fld]
      rfl
    · rw [State.ringPut_fld]
      rfl

@[simp] theorem State.leaseSecondOf_fld (s : State) (f : Fold) : (State.leaseSecondOf s f).fld = s.fld := by
  simp [State.leaseSecondOf]

@[simp] theorem State.writeGaps_fld (s : State) : (State.writeGaps s).fld = s.fld := by
  simp [State.writeGaps]

@[simp] theorem State.slip_fld (s : State) (n k fold : Nat) (fine : Bool) (c : SlipCause) : (State.slip s n k fold fine c).fld = s.fld := by
  simp [State.slip]

@[simp] theorem State.padDoubt_fld (s : State) (n fold : Nat) (tr : Trigger) : (State.padDoubt s n fold tr).fld = s.fld := by
  simp [State.padDoubt]

@[simp] theorem State.powerEnds_fld (s : State) : (State.powerEnds s).fld = s.fld := by
  simp [State.powerEnds]

@[simp] theorem State.fieldShutdown_fld (s : State) (f : Nat) (vaon : Bool) : (State.fieldShutdown s f vaon).fld = s.fld := by
  simp [State.fieldShutdown]

@[simp] theorem State.startLinks_fld (s : State) (n : Nat) : (State.startLinks s n).fld = s.fld := by
  unfold State.startLinks
  dsimp only
  (repeat' split) <;> first | rfl | (simp (disch := (intros; (repeat' split) <;> simp)); done) | (simp only [State.fld, Fld.mk.injEq] <;> simp (disch := (intros; (repeat' split) <;> simp)) [↓fld_mk, fld_eqs])

@[simp] theorem State.stageOnSequence_fld (s : State) (f : Nat) : (State.stageOnSequence s f).fld = s.fld := by
  simp [State.stageOnSequence]

@[simp] theorem State.pmbusRead_fld (s : State) (r : PmbRead) : (State.pmbusRead s r).fld = s.fld := by
  unfold State.pmbusRead; simp only [State.fld, Fld.mk.injEq] <;> simp [↓fld_mk, fld_eqs]

@[simp] theorem State.guard_fld (s : State) (ln : Ln) (cs : List (Bool × Nat × KVs)) (body : State) (h : body.fld = s.fld) :
    (s.guard ln cs body).fld = s.fld := by
  unfold State.guard
  split <;> simp [h]

@[simp] theorem State.powerRun_fld (s : State) (n : Nat) : (State.powerRun s n).fld = s.fld := by
  unfold State.powerRun; simp only [State.fld, Fld.mk.injEq] <;> simp [↓fld_mk, fld_eqs]

@[simp] theorem State.startRouter_fld (s : State) (n : Nat) : (State.startRouter s n).fld = s.fld := by
  simp [State.startRouter]

@[simp] theorem State.advertise_fld (s : State) (n fold : Nat) : (State.advertise s n fold).fld = s.fld := by
  unfold State.advertise
  (repeat' split) <;> first | rfl | (simp; done) | (simp only [State.fld, Fld.mk.injEq] <;> simp [↓fld_mk, fld_eqs]; done) | (rw [foldl_fld] <;> (intros; (repeat' split) <;> simp))

@[simp] theorem State.settleUnleased_fld (s : State) (n : Nat) : (State.settleUnleased s n).fld = s.fld := by
  unfold State.settleUnleased
  dsimp only
  (repeat' split) <;> first | rfl | (simp; done) | (simp only [State.fld, Fld.mk.injEq] <;> simp [↓fld_mk, fld_eqs])

theorem State.leaseOne_fld {s t : State} {k fold g : Nat} {space : Bool} {index : Option Nat} (h : s.leaseOne k fold space index = some (g, t)) :
    t.fld = s.fld := by
  unfold State.leaseOne at h
  rw [Option.map_eq_some_iff] at h
  obtain ⟨a, -, h⟩ := h
  simp only [Prod.mk.injEq] at h
  rw [← h.2, State.modMed_fld]

theorem State.leaseAll_fld {s t : State} {fold : Nat} {l : List (Nat × Bool × Option Nat)} {got : List (Nat × Nat)}
    (h : s.leaseAll fold l = some (got, t)) : t.fld = s.fld := by
  induction l generalizing s got with
  | nil =>
    simp only [State.leaseAll, Option.some.injEq, Prod.mk.injEq] at h
    rw [← h.2]
  | cons a rest ih =>
    obtain ⟨k, sp, ix⟩ := a
    rw [State.leaseAll] at h
    match e : s.leaseOne k fold sp ix with
    | none => rw [e] at h; cases h
    | some (g, s1) =>
      rw [e] at h
      obtain ⟨r, hr, h⟩ := Option.map_eq_some_iff.mp h
      have h2 : r.2 = t := congrArg Prod.snd h
      have h3 : s1.leaseAll fold rest = some (r.1, t) := by rw [← h2]; exact hr
      rw [ih h3, State.leaseOne_fld e]

@[simp] theorem State.loadKeys_fld (s : State) (f : Fold) (ks : List Nat) : (State.loadKeys s f ks).fld = s.fld := by
  simp [State.loadKeys]

@[simp] theorem State.revokePages_fld (s : State) (ps : List (Nat × Nat)) : (State.revokePages s ps).fld = s.fld := by
  simp [State.revokePages]

@[simp] theorem State.emptyClosed_fld (s : State) (index : Nat) : (State.emptyClosed s index).fld = s.fld := by
  unfold State.emptyClosed; simp only [State.fld, Fld.mk.injEq] <;> simp [↓fld_mk, fld_eqs]

theorem State.bindOne_fld {s : State} {f : Fold} {e : Entry} {h ticket : Word} {deadline : Nat} {spec : Bool} {a : BindArg}
    {r : Nat × State} (g : s.bindOne f e h ticket deadline spec a = .inr r) : r.2.fld = s.fld := by
  have k : ∀ r, s.bindOne f e h ticket deadline spec a = .inr r → r.2.fld = s.fld := by
    unfold State.bindOne
    dsimp only
    repeat' apply sum_ite
    all_goals intro r hr
    all_goals first
      | (cases hr; done)
      | skip
    split at hr
    · cases hr
    · revert hr
      revert r
      repeat' apply sum_ite
      all_goals intro r hr
      all_goals first
        | (cases hr; done)
        | skip
      split at hr
      · cases hr
      · revert hr
        revert r
        apply sum_ite
        · intro r hr
          cases hr
          simp
        · intro r hr
          cases hr
  exact k r g

theorem State.bindAll_fld {s : State} {f : Fold} {e : Entry} {h ticket : Word} {deadline : Nat} {spec : Bool} {l : List BindArg}
    {r : List (Nat × Nat) × State} (g : s.bindAll f e h ticket deadline spec l = .inr r) : r.2.fld = s.fld := by
  induction l generalizing s r with
  | nil => cases g; rfl
  | cons a as ih =>
    simp only [State.bindAll] at g
    split at g
    · cases g
    · rename_i i s1 e1
      split at g
      · cases g
      · rename_i r1 e2
        cases g
        exact (ih e2).trans (State.bindOne_fld e1)

@[simp] theorem State.installLinks_fld (s : State) (im : Image) (n m fold : Nat) : (State.installLinks s im n m fold).fld = s.fld := by
  unfold State.installLinks
  (repeat' split) <;> simp

@[simp] theorem State.installPad_fld (s : State) (im : Image) (n m fold : Nat) (st : CtxState) (epoch : Nat) : (State.installPad s im n m fold st epoch).fld = s.fld := by
  simp [State.installPad]

@[simp] theorem State.liftPad_fld (s : State) (n fold : Nat) : (State.liftPad s n fold).fld = s.fld := by
  simp [State.liftPad]

@[simp] theorem State.setYokes_fld (s : State) (f : Fold) (im : Image) : (State.setYokes s f im).fld = s.fld := by
  simp [State.setYokes]

@[simp] theorem State.abandonBell_fld (s : State) (id : Nat) (cause : String) : (State.abandonBell s id cause).fld = s.fld := by
  simp [State.abandonBell]

@[simp] theorem State.onChannel_fld (s : State) (ln : Ln) (h : Word) (body : Channel → State)
    (k : ∀ c, (body c).fld = s.fld) : (s.onChannel ln h body).fld = s.fld := by
  unfold State.onChannel
  split
  · simp
  · split <;> simp [k]

@[simp] theorem State.leaseWindow_fld (s : State) (fold num : Nat) (win : List (Nat × Nat)) : (State.leaseWindow s fold num win).fld = s.fld := by
  simp [State.leaseWindow]

@[simp] theorem State.freeStaged_fld (s : State) (cs : List (Nat × Nat)) : (State.freeStaged s cs).fld = s.fld := by
  simp [State.freeStaged]

@[simp] theorem State.bringIn_fld (s : State) (im : Image) (n fold epoch : Nat) : (State.bringIn s im n fold epoch).fld = s.fld := by
  simp [State.bringIn]

@[simp] theorem State.sendBells__fld (s : State) (f : Fold) (im : Image) : (State.sendBells_ s f im).fld = s.fld := by
  simp [State.sendBells_]

@[simp] theorem State.markOutgoing_fld (s : State) (im : Image) : (State.markOutgoing s im).fld = s.fld := by
  simp [State.markOutgoing]

@[simp] theorem State.closeEpoch_fld (s : State) (k id epoch : Nat) : (State.closeEpoch s k id epoch).fld = s.fld := by
  simp [State.closeEpoch]

@[simp] theorem State.loseClock_fld (s : State) (n : Nat) (tr : Trigger) : (State.loseClock s n tr).fld = s.fld := by
  simp [State.loseClock]

@[simp] theorem State.throttleStep_fld (s : State) (n x : Nat) : (State.throttleStep s n x).fld = s.fld := by
  simp [State.throttleStep]

@[simp] theorem State.throttleDown_fld (s : State) (f : Nat) : (s.throttleDown f).1.fld = s.fld := by
  unfold State.throttleDown
  refine foldl_inv (P := fun (x : State × Bool × Bool) => x.1.fld = s.fld) _ rfl ?_
  intro a n h
  dsimp only
  (repeat' split) <;> simp [h]

@[simp] theorem State.throttleUp_fld (s : State) (f : Nat) : (s.throttleUp f).1.fld = s.fld := by
  unfold State.throttleUp
  refine foldl_inv (P := fun (x : State × Bool) => x.1.fld = s.fld) _ rfl ?_
  intro a n h
  dsimp only
  (repeat' split) <;> simp [h]

@[simp] theorem State.takeOver_fld (s : State) (f : Nat) : (State.takeOver s f).fld = s.fld := by
  simp [State.takeOver]

@[simp] theorem State.endWiden_fld (s : State) (f : Nat) : (State.endWiden s f).fld = s.fld := by
  simp [State.endWiden]

@[simp] theorem State.dropSource_fld (s : State) (n : Nat) : (State.dropSource s n).fld = s.fld := by
  simp [State.dropSource]

@[simp] theorem State.notify_fld (s : State) (id : Nat) (next : FoldState) : (State.notify s id next).fld = s.fld := by
  unfold State.notify; simp only [State.fld, Fld.mk.injEq] <;> simp [↓fld_mk, fld_eqs]

@[simp] theorem State.foldBell_fld (s : State) (id : Nat) (st : String) (tr : Trigger) (place : Nat) (kv : KVs) : (State.foldBell s id st tr place kv).fld = s.fld := by
  unfold State.foldBell; simp only [State.fld, Fld.mk.injEq] <;> simp [↓fld_mk, fld_eqs]

@[simp] theorem State.applyPatches_fld (s : State) (f : Fold) (im : Image) : (State.applyPatches s f im).fld = s.fld := by
  unfold State.applyPatches
  dsimp only
  (repeat' split) <;> first | rfl | (simp (disch := (intros; (repeat' split) <;> simp)); done) | (simp only [State.fld, Fld.mk.injEq] <;> simp (disch := (intros; (repeat' split) <;> simp)) [↓fld_mk, fld_eqs])

@[simp] theorem State.dieBack_fld (s : State) (d : DieName) : (s.dieBack d).fld = s.fld := by
  cases d <;> simp [State.dieBack]

@[simp] theorem State.startConsoles_fld (s : State) : (State.startConsoles s).fld = s.fld := by
  unfold State.startConsoles; simp only [State.fld, Fld.mk.injEq] <;> simp [↓fld_mk, fld_eqs]

@[simp] theorem State.becomeActive_fld (s : State) (i : Nat) : (State.becomeActive s i).fld = s.fld := by
  unfold State.becomeActive; simp only [State.fld, Fld.mk.injEq] <;> simp [↓fld_mk, fld_eqs]

@[simp] theorem State.loadMap_fld (s : State) : (State.loadMap s).fld = s.fld := by
  unfold State.loadMap
  (repeat' split) <;> first | (simp; done) | (simp only [State.fld, Fld.mk.injEq] <;> simp [↓fld_mk, fld_eqs])

@[simp] theorem State.dieVerdict_fld (s : State) (d v : Nat) : (State.dieVerdict s d v).fld = s.fld := by
  unfold State.dieVerdict; simp only [State.fld, Fld.mk.injEq] <;> simp [↓fld_mk, fld_eqs]

@[simp] theorem State.endB2_fld (s : State) : (State.endB2 s).fld = s.fld := by
  unfold State.endB2; simp only [State.fld, Fld.mk.injEq] <;> simp [↓fld_mk, fld_eqs]

@[simp] theorem State.enqueueTests_fld (s : State) (ns : List Nat) : (State.enqueueTests s ns).fld = s.fld := by
  simp [State.enqueueTests]

@[simp] theorem State.carryHoles_fld (s : State) : (State.carryHoles s).fld = s.fld := by
  simp [State.carryHoles]

@[simp] theorem State.startB4_fld (s : State) : (State.startB4 s).fld = s.fld := by
  unfold State.startB4; simp only [State.fld, Fld.mk.injEq] <;> simp [↓fld_mk, fld_eqs]

@[simp] theorem State.defaultReserve_fld (s : State) (f : Nat) : (State.defaultReserve s f).fld = s.fld := by
  unfold State.defaultReserve
  (repeat' split) <;> simp

@[simp] theorem State.bootReserves_fld (s : State) : (State.bootReserves s).fld = s.fld := by
  unfold State.bootReserves
  (repeat' split) <;> simp

@[simp] theorem State.storedPorts_fld (s : State) : (State.storedPorts s).fld = s.fld := by
  unfold State.storedPorts; simp only [State.fld, Fld.mk.injEq] <;> simp [↓fld_mk, fld_eqs]

@[simp] theorem State.bootAgain_fld (s : State) : (State.bootAgain s).fld = s.fld := by
  unfold State.bootAgain
  (repeat' split) <;> first | (simp; done) | (simp only [State.fld, Fld.mk.injEq] <;> simp [↓fld_mk, fld_eqs])

@[simp] theorem State.retriesAgain_fld (s : State) : (State.retriesAgain s).fld = s.fld := by
  simp [State.retriesAgain]

@[simp] theorem State.pathLost_fld (s : State) (i : Nat) (newly : Bool) (w : String) : (State.pathLost s i newly w).fld = s.fld := by
  simp [State.pathLost]

@[simp] theorem State.fwBell_fld (s : State) (fault : Bool) (version : Nat) (kv : KVs) : (State.fwBell s fault version kv).fld = s.fld := by
  simp [State.fwBell]

@[simp] theorem State.setCon_fld (s : State) (i : Nat) (c : Con) : (State.setCon s i c).fld = s.fld := by
  unfold State.setCon; simp only [State.fld, Fld.mk.injEq] <;> simp [↓fld_mk, fld_eqs]

@[simp] theorem State.setHeld_fld (s : State) (i : Nat) : (State.setHeld s i).fld = s.fld := by
  simp [State.setHeld]

@[simp] theorem State.breakLine_fld (s : State) (i : Nat) : (State.breakLine s i).fld = s.fld := by
  simp [State.breakLine]

@[simp] theorem State.echoBytes_fld (s : State) (i : Nat) (bs : List Byte) : (State.echoBytes s i bs).fld = s.fld := by
  simp [State.echoBytes]

@[simp] theorem State.endLine_fld (s : State) (i : Nat) : (State.endLine s i).fld = s.fld := by
  simp [State.endLine]

@[simp] theorem State.closeTcp_fld (s : State) (i : Nat) : (State.closeTcp s i).fld = s.fld := by
  unfold State.closeTcp; simp only [State.fld, Fld.mk.injEq] <;> simp [↓fld_mk, fld_eqs]

@[simp] theorem State.echoReply_fld (s : State) (f : List Byte) : (s.echoReply f).2.fld = s.fld := by
  unfold State.echoReply
  simp

@[simp] theorem State.endLogin_fld (s : State) (i : Nat) : (State.endLogin s i).fld = s.fld := by
  simp [State.endLogin]

@[simp] theorem State.loginFailed_fld (s : State) (ln : Ln) (user : List Byte) (code : Nat) : (State.loginFailed s ln user code).fld = s.fld := by
  simp [State.loginFailed]

@[simp] theorem State.enter_fld (s : State) (ln : Ln) (user : List Byte) (level : Level) : (State.enter s ln user level).fld = s.fld := by
  simp [State.enter]

theorem State.wrongForm_fld (s : State) (ln : Ln) (key : String) : (s.wrongForm ln key).fld = s.fld := by
  unfold State.wrongForm
  exact State.sessionVerb_fld _ _ _ (fun u => by simp)

@[simp] theorem State.cutReply_fld (s : State) (k : Nat) (r : Req) : (State.cutReply s k r).fld = s.fld := by
  unfold State.cutReply; simp only [State.fld, Fld.mk.injEq] <;> simp [↓fld_mk, fld_eqs]

@[simp] theorem State.sensorFailed_fld (s : State) (n which : Nat) : (State.sensorFailed s n which).fld = s.fld := by
  simp [State.sensorFailed]

@[simp] theorem State.coolant_fld (s : State) (addr : Nat) (r : Option Int) : (State.coolant s addr r).fld = s.fld := by
  unfold State.coolant
  (repeat' split) <;> first | (simp; done) | (simp only [State.fld, Fld.mk.injEq] <;> simp [↓fld_mk, fld_eqs])

@[simp] theorem State.loopOne_fld (s : State) (i : Nat) (c : Option Bool) : (State.loopOne s i c).fld = s.fld := by
  unfold State.loopOne
  (repeat' split) <;> first | (simp; done) | (simp only [State.fld, Fld.mk.injEq] <;> simp [↓fld_mk, fld_eqs])

@[simp] theorem State.readReg_fld (s : State) (addr : Nat) : (s.readReg addr).2.fld = s.fld := by
  unfold State.readReg
  dsimp only
  (repeat' split) <;> first | rfl | simp

@[simp] theorem State.clearSat_fld (s : State) (n : Nat) (v : Word) : (State.clearSat s n v).fld = s.fld := by
  simp [State.clearSat]

@[simp] theorem State.loadWindow_fld (s : State) (k : Nat) (v : Word) : (State.loadWindow s k v).fld = s.fld := by
  unfold State.loadWindow; simp only [State.fld, Fld.mk.injEq] <;> simp [↓fld_mk, fld_eqs]

@[simp] theorem State.writeReg_fld (s : State) (w : Writable) (v mask : Word) : (State.writeReg s w v mask).fld = s.fld := by
  unfold State.writeReg
  (repeat' split) <;> first | (simp; done) | (simp only [State.fld, Fld.mk.injEq] <;> simp [↓fld_mk, fld_eqs])

@[simp] theorem State.poke_fld (s : State) (ln : Ln) (addr : Nat) (v mask : Word) : (State.poke s ln addr v mask).fld = s.fld := by
  unfold State.poke
  (repeat' split) <;> simp

@[simp] theorem State.peekFrom_fld (ln : Ln) (addr n done : Nat) (s : State) : (State.peekFrom ln addr n done s).fld = s.fld := by
  induction n generalizing done s with
  | zero => simp [State.peekFrom]
  | succ n ih =>
    rw [State.peekFrom]
    split <;> simp [ih]

end Sys2Proof.Machine
end

