-- ==== Sys2Proof/Laws/FldExec.lean ====
section
/-! SUPPORT. What leaves the folds, their channels, sessions, scrub records and the incarnation counter alone. Each command. -/
namespace Sys2Proof.Machine

open Sys2Proof

set_option linter.all false

theorem execFirmwareVerified_fld (shc : ShcIx) (sigs : List Bool) (stepField : BitVec 4) (t : Time) (s : State) :
    ∃ next, execFirmwareVerified shc sigs stepField t s = .next next ∧ next.fld = s.fld := by
  refine ⟨_, rfl, State.event_fld _ _ _ _ fun _ => ?_⟩
  dsimp only
  have h : ∀ (u : State) (o : Option (Nat × Firmware)) (i c : Nat), (match o with
      | some p => u.modShc i fun c => c.load p.1 p.2 u.now
      | none => u.shcDoubt i c).fld = u.fld := by
    intro u o i c
    split <;> simp
  have b : ({ s.tick t with boot := { (s.tick t).boot with fwTried := (s.tick t).boot.fwTried ++ [shc.val] } } : State).fld = (s.tick t).fld := rfl
  (repeat' with_reducible apply ite_eq_fld)
  · exact (h _ _ _ _).trans b
  · rw [State.becomeActive_fld]
    exact (h _ _ _ _).trans b
  · rw [State.takeoverBell_fld, State.shcDoubt_fld, State.becomeActive_fld]
    exact (h _ _ _ _).trans b
  · exact (h _ _ _ _).trans b

theorem execRecoveryImageReceived_fld (shc : ShcIx) (image : List Byte) (sigOk : Bool) (t : Time) (s : State) :
    ∃ next, execRecoveryImageReceived shc image sigOk t s = .next next ∧ next.fld = s.fld := by
  refine ⟨_, rfl, State.event_fld _ _ _ _ fun _ => ?_⟩
  split
  · with_reducible apply ite_eq_fld <;> simp
  · rfl

theorem execReferenceWaitTimeout_fld (t : Time) (s : State) :
    ∃ next, execReferenceWaitTimeout t s = .next next ∧ next.fld = s.fld := by
  refine ⟨_, rfl, ?_⟩
  apply State.event_fld
  intro g
  (repeat' split) <;> first | rfl | (simp; done) | (simp only [State.fld, Fld.mk.injEq] <;> simp [↓fld_mk, fld_eqs]; done)

theorem execAonRailsInWindow_fld (t : Time) (s : State) :
    ∃ next, execAonRailsInWindow t s = .next next ∧ next.fld = s.fld := by
  refine ⟨_, rfl, State.event_fld _ _ _ _ fun _ => ?_⟩
  rw [State.reinject_fld]
  exact foldl_fld _ (fun _ _ => by simp) _ _

theorem execCoreRailGroup_fld (g : Fin 7) (t : Time) (s : State) :
    ∃ next, execCoreRailGroup g t s = .next next ∧ next.fld = s.fld := by
  refine ⟨_, rfl, State.event_fld _ _ _ _ fun _ => ?_⟩
  dsimp only
  generalize (List.range 12).map _ = l
  split
  · rw [State.startB4_fld]
    exact foldl_fld _ (fun _ _ => by split <;> simp) _ _
  · exact foldl_fld _ (fun _ _ => by split <;> simp) _ _

theorem execRingWaveAdvance_fld (t : Time) (s : State) :
    ∃ next, execRingWaveAdvance t s = .next next ∧ next.fld = s.fld := by
  refine ⟨_, rfl, State.event_fld _ _ _ _ fun _ => ?_⟩
  simp
  rfl

theorem execShowEngine_fld (detail : Bool) (ln : Ln) (s : State) :
    ∃ next, execShowEngine detail ln s = .next next ∧ next.fld = s.fld := by
  refine ⟨_, rfl, ?_⟩
  apply State.judged_fld
  intro u
  (repeat' split) <;> first | rfl | (simp; done) | (simp only [State.fld, Fld.mk.injEq] <;> simp [↓fld_mk, fld_eqs]; done)

theorem execShowBoot_fld (ln : Ln) (s : State) :
    ∃ next, execShowBoot ln s = .next next ∧ next.fld = s.fld := by
  refine ⟨_, rfl, ?_⟩
  apply State.judged_fld
  intro u
  (repeat' split) <;> first | rfl | (simp; done) | (simp only [State.fld, Fld.mk.injEq] <;> simp [↓fld_mk, fld_eqs]; done)

theorem execSetBoot_fld (full : Bool) (ln : Ln) (s : State) :
    ∃ next, execSetBoot full ln s = .next next ∧ next.fld = s.fld := by
  refine ⟨_, rfl, State.judged_fld _ _ _ _ _ fun u => ?_⟩
  split
  · simp
  · rename_i h
    rw [State.ok_fld]
    exact setFlash_fld _ (flashTakes_frozen h)

theorem execSetClear_fld (at_ : List Loc) (ln : Ln) (s : State) :
    ∃ next, execSetClear at_ ln s = .next next ∧ next.fld = s.fld := by
  refine ⟨_, rfl, State.judged_fld _ _ _ _ _ fun u => ?_⟩
  split
  · simp
  · split
    · simp
    · split
      · simp
      · rename_i h
        rw [State.ok_fld]
        exact setFlash_fld _ (flashTakes_frozen h)

theorem execClockStep_fld (n : Pad) (t : Time) (s : State) :
    ∃ next, execClockStep n t s = .next next ∧ next.fld = s.fld := by
  refine ⟨_, rfl, ?_⟩
  apply State.event_fld
  intro g
  (repeat' split) <;> first | rfl | (simp; done) | (simp only [State.fld, Fld.mk.injEq] <;> simp [↓fld_mk, fld_eqs]; done)

theorem execSetClock_fld (at_ : Loc) (n : Nat) (ln : Ln) (s : State) :
    ∃ next, execSetClock at_ n ln s = .next next ∧ next.fld = s.fld := by
  refine ⟨_, rfl, ?_⟩
  apply State.judged_fld
  intro u
  (repeat' split) <;> first | rfl | (simp; done) | (simp only [State.fld, Fld.mk.injEq] <;> simp [↓fld_mk, fld_eqs]; done)

theorem execRingLoss_fld (f : FieldIx) (t : Time) (s : State) :
    ∃ next, execRingLoss f t s = .next next ∧ next.fld = s.fld := by
  refine ⟨_, rfl, ?_⟩
  apply State.event_fld
  intro g
  (repeat' split) <;> first | rfl | (simp; done) | (simp only [State.fld, Fld.mk.injEq] <;> simp [↓fld_mk, fld_eqs]; done)

theorem execMeshLock_fld (worstPpm : Nat) (t : Time) (s : State) :
    ∃ next, execMeshLock worstPpm t s = .next next ∧ next.fld = s.fld := by
  refine ⟨_, rfl, ?_⟩
  apply State.event_fld
  intro g
  (repeat' split) <;> first | rfl | (simp; done) | (simp only [State.fld, Fld.mk.injEq] <;> simp [↓fld_mk, fld_eqs]; done)

theorem execReferenceAbsent_fld (edge : Option (Fin 4)) (t : Time) (s : State) :
    ∃ next, execReferenceAbsent edge t s = .next next ∧ next.fld = s.fld := by
  refine ⟨_, rfl, State.event_fld _ _ _ _ fun _ => ?_⟩
  simp
  rfl

theorem execReferenceReturn_fld (edge : Option (Fin 4)) (t : Time) (s : State) :
    ∃ next, execReferenceReturn edge t s = .next next ∧ next.fld = s.fld := by
  refine ⟨_, rfl, State.event_fld _ _ _ _ fun _ => ?_⟩
  simp
  rfl

theorem execConsoleBreak_fld (con : Fin 2) (t : Time) (s : State) :
    ∃ next, execConsoleBreak con t s = .next next ∧ next.fld = s.fld := by
  refine ⟨_, rfl, ?_⟩
  apply State.event_fld
  intro g
  (repeat' split) <;> first | rfl | (simp; done) | (simp only [State.fld, Fld.mk.injEq] <;> simp [↓fld_mk, fld_eqs]; done)

theorem execCtsChange_fld (con : Fin 2) (asserted : Bool) (t : Time) (s : State) :
    ∃ next, execCtsChange con asserted t s = .next next ∧ next.fld = s.fld := by
  refine ⟨_, rfl, ?_⟩
  apply State.event_fld
  intro g
  (repeat' split) <;> first | rfl | (simp; done) | (simp only [State.fld, Fld.mk.injEq] <;> simp [↓fld_mk, fld_eqs]; done)

theorem execConsoleCharacter_fld (con : Fin 2) (b : Byte) (t : Time) (s : State) :
    ∃ next, execConsoleCharacter con b t s = .next next ∧ next.fld = s.fld := by
  refine ⟨_, rfl, ?_⟩
  apply State.event_fld
  intro g
  (repeat' split) <;> first | rfl | (simp; done) | (simp only [State.fld, Fld.mk.injEq] <;> simp [↓fld_mk, fld_eqs]; done)

theorem execTcpConnect_fld (t : Time) (s : State) :
    ∃ next, execTcpConnect t s = .next next ∧ next.fld = s.fld := by
  refine ⟨_, rfl, ?_⟩
  apply State.event_fld
  intro g
  (repeat' split) <;> first | rfl | (simp; done) | (simp only [State.fld, Fld.mk.injEq] <;> simp [↓fld_mk, fld_eqs]; done)

theorem execTcpClose_fld (sess : Fin 10) (t : Time) (s : State) :
    ∃ next, execTcpClose sess t s = .next next ∧ next.fld = s.fld := by
  refine ⟨_, rfl, ?_⟩
  apply State.event_fld
  intro g
  (repeat' split) <;> first | rfl | (simp; done) | (simp only [State.fld, Fld.mk.injEq] <;> simp [↓fld_mk, fld_eqs]; done)

theorem execMgmtPacket_fld (bytes : List Byte) (t : Time) (s : State) :
    ∃ next, execMgmtPacket bytes t s = .next next ∧ next.fld = s.fld := by
  refine ⟨_, rfl, ?_⟩
  apply State.event_fld
  intro g
  (repeat' split) <;> first | rfl | (simp; done) | (simp only [State.fld, Fld.mk.injEq] <;> simp [↓fld_mk, fld_eqs]; done)

theorem execArpAnnounce_fld (t : Time) (s : State) :
    ∃ next, execArpAnnounce t s = .next next ∧ next.fld = s.fld := by
  refine ⟨_, rfl, ?_⟩
  apply State.event_fld
  intro g
  (repeat' split) <;> first | rfl | (simp; done) | (simp only [State.fld, Fld.mk.injEq] <;> simp [↓fld_mk, fld_eqs]; done)

theorem execIdleTimeout_fld (sess : Fin 10) (t : Time) (s : State) :
    ∃ next, execIdleTimeout sess t s = .next next ∧ next.fld = s.fld := by
  refine ⟨_, rfl, ?_⟩
  apply State.event_fld
  intro g
  (repeat' split) <;> first | rfl | (simp; done) | (simp only [State.fld, Fld.mk.injEq] <;> simp [↓fld_mk, fld_eqs]; done)

theorem execChallengeExpiry_fld (sess : Fin 10) (t : Time) (s : State) :
    ∃ next, execChallengeExpiry sess t s = .next next ∧ next.fld = s.fld := by
  refine ⟨_, rfl, ?_⟩
  apply State.event_fld
  intro g
  (repeat' split) <;> first | rfl | (simp; done) | (simp only [State.fld, Fld.mk.injEq] <;> simp [↓fld_mk, fld_eqs]; done)

theorem execLoginLockExpiry_fld (sess : Fin 10) (t : Time) (s : State) :
    ∃ next, execLoginLockExpiry sess t s = .next next ∧ next.fld = s.fld := by
  refine ⟨_, rfl, ?_⟩
  apply State.event_fld
  intro g
  (repeat' split) <;> first | rfl | (simp; done) | (simp only [State.fld, Fld.mk.injEq] <;> simp [↓fld_mk, fld_eqs]; done)

theorem execBellsLostNotice_fld (sess : Fin 10) (t : Time) (s : State) :
    ∃ next, execBellsLostNotice sess t s = .next next ∧ next.fld = s.fld := by
  refine ⟨_, rfl, ?_⟩
  apply State.event_fld
  intro g
  (repeat' split) <;> first | rfl | (simp; done) | (simp only [State.fld, Fld.mk.injEq] <;> simp [↓fld_mk, fld_eqs]; done)

theorem execLoginRequest_fld (user : List Byte) (ln : Ln) (s : State) :
    ∃ next, execLoginRequest user ln s = .next next ∧ next.fld = s.fld := by
  refine ⟨_, rfl, ?_⟩
  apply State.sessionVerb_fld
  intro u
  (repeat' split) <;> first | rfl | (simp; done) | (simp only [State.fld, Fld.mk.injEq] <;> simp [↓fld_mk, fld_eqs]; done)

theorem execLoginResponse_fld (user sig : List Byte) (ln : Ln) (s : State) :
    ∃ next, execLoginResponse user sig ln s = .next next ∧ next.fld = s.fld := by
  refine ⟨_, rfl, ?_⟩
  apply State.sessionVerb_fld
  intro u
  (repeat' split) <;> first | rfl | (simp; done) | (simp only [State.fld, Fld.mk.injEq] <;> simp [↓fld_mk, fld_eqs]; done)

theorem execLogout_fld (ln : Ln) (s : State) :
    ∃ next, execLogout ln s = .next next ∧ next.fld = s.fld := by
  refine ⟨_, rfl, ?_⟩
  apply State.sessionVerb_fld
  intro u
  (repeat' split) <;> first | rfl | (simp; done) | (simp only [State.fld, Fld.mk.injEq] <;> simp [↓fld_mk, fld_eqs]; done)

theorem execPing_fld (ln : Ln) (s : State) :
    ∃ next, execPing ln s = .next next ∧ next.fld = s.fld := by
  refine ⟨_, rfl, ?_⟩
  apply State.sessionVerb_fld
  intro u
  (repeat' split) <;> first | rfl | (simp; done) | (simp only [State.fld, Fld.mk.injEq] <;> simp [↓fld_mk, fld_eqs]; done)

theorem execMode_fld (echo crc : Option Bool) (bells : Option (Fin 3)) (idle : Option Nat) (ln : Ln) (s : State) :
    ∃ next, execMode echo crc bells idle ln s = .next next ∧ next.fld = s.fld := by
  refine ⟨_, rfl, ?_⟩
  apply State.sessionVerb_fld
  intro u
  (repeat' split) <;> first | rfl | (simp; done) | (simp only [State.fld, Fld.mk.injEq] <;> simp [↓fld_mk, fld_eqs]; done)

theorem execBadLine_fld (sess : Fin 10) (bytes : List Byte) (overrun : Bool) (t : Time) (s : State) :
    ∃ next, execBadLine sess bytes overrun t s = .next next ∧ next.fld = s.fld := by
  refine ⟨_, rfl, ?_⟩
  dsimp only
  with_reducible apply ite_eq_fld
  · rfl
  · with_reducible apply ite_eq_fld
    · simp
    · split
      · simp
      · with_reducible apply ite_eq_fld
        · rfl
        · split
          · with_reducible apply ite_eq_fld
            · simp
            · with_reducible apply ite_eq_fld
              · simp
              · rfl
          · simp

theorem execSetConsole_fld (con : Nat) (baud : Option Nat) (flow : Option Bool) (ln : Ln) (s : State) :
    ∃ next, execSetConsole con baud flow ln s = .next next ∧ next.fld = s.fld := by
  refine ⟨_, rfl, State.judged_fld _ _ _ _ _ fun u => State.inRange_fld _ _ _ _ _ _ _ ?_⟩
  have hf : ∀ (a : State) (f : Flash), ({ a with flash := f } : State).fld = a.fld := fun _ _ => rfl
  split
  · simp
  · split
    · simp
    · dsimp only
      rw [State.setHeld_fld, State.setCon_fld, hf]
      exact State.ok_fld _ _ _

theorem execSetNet_fld (ip mask gw : BitVec 32) (mac : BitVec 48) (ln : Ln) (s : State) :
    ∃ next, execSetNet ip mask gw mac ln s = .next next ∧ next.fld = s.fld := by
  refine ⟨_, rfl, State.judged_fld _ _ _ _ _ fun u => ?_⟩
  split
  · simp
  · rename_i h
    rw [State.ok_fld]
    exact setFlash_fld _ (flashTakes_frozen h)

theorem execOpenStage_fld (firmware : Bool) (size : Nat) (ln : Ln) (s : State) :
    ∃ next, execOpenStage firmware size ln s = .next next ∧ next.fld = s.fld := by
  refine ⟨_, rfl, ?_⟩
  apply State.judged_fld
  intro u
  (repeat' split) <;> first | rfl | (simp; done) | (simp only [State.fld, Fld.mk.injEq] <;> simp [↓fld_mk, fld_eqs]; done)

theorem execPutStage_fld (id off : Nat) (data : List Byte) (ln : Ln) (s : State) :
    ∃ next, execPutStage id off data ln s = .next next ∧ next.fld = s.fld := by
  refine ⟨_, rfl, ?_⟩
  apply State.judged_fld
  intro u
  (repeat' first | (refine State.inRange_fld _ _ _ _ _ _ _ ?_) | (refine State.onFold_fld _ _ _ _ ?_) | (refine State.onChannel_fld _ _ _ _ ?_) | (refine State.guard_fld _ _ _ _ ?_) | intro _ | split) <;> first | rfl | (simp; done) | (simp only [State.fld, Fld.mk.injEq] <;> simp [↓fld_mk, fld_eqs]; done) | (simp; rfl) | (simp; simp only [State.fld, Fld.mk.injEq] <;> simp [↓fld_mk, fld_eqs]; done) | (dsimp only; simp; done) | (simp (disch := (intros; (repeat' split) <;> (first | rfl | (simp; done) | (simp only [State.fld, Fld.mk.injEq] <;> simp [↓fld_mk, fld_eqs]; done) | (simp; rfl) | (simp; simp only [State.fld, Fld.mk.injEq] <;> simp [↓fld_mk, fld_eqs]; done)))); done) | (dsimp only; simp (disch := (intros; (repeat' split) <;> (first | rfl | (simp; done) | (simp only [State.fld, Fld.mk.injEq] <;> simp [↓fld_mk, fld_eqs]; done) | (simp; rfl) | (simp; simp only [State.fld, Fld.mk.injEq] <;> simp [↓fld_mk, fld_eqs]; done)))); done) | (simp (disch := (intros; (repeat' split) <;> (first | rfl | (simp; done) | (simp only [State.fld, Fld.mk.injEq] <;> simp [↓fld_mk, fld_eqs]; done) | (simp; rfl) | (simp; simp only [State.fld, Fld.mk.injEq] <;> simp [↓fld_mk, fld_eqs]; done)))); rfl) | (simp (disch := (intros; (repeat' split) <;> (first | rfl | (simp; done) | (simp only [State.fld, Fld.mk.injEq] <;> simp [↓fld_mk, fld_eqs]; done) | (simp; rfl) | (simp; simp only [State.fld, Fld.mk.injEq] <;> simp [↓fld_mk, fld_eqs]; done)))); simp only [State.fld, Fld.mk.injEq] <;> simp [↓fld_mk, fld_eqs]; done) | (dsimp only; simp (disch := (intros; (repeat' split) <;> (first | rfl | (simp; done) | (simp only [State.fld, Fld.mk.injEq] <;> simp [↓fld_mk, fld_eqs]; done) | (simp; rfl) | (simp; simp only [State.fld, Fld.mk.injEq] <;> simp [↓fld_mk, fld_eqs]; done)))); simp only [State.fld, Fld.mk.injEq] <;> simp [↓fld_mk, fld_eqs]; done)

theorem execShowStage_fld (ln : Ln) (s : State) :
    ∃ next, execShowStage ln s = .next next ∧ next.fld = s.fld := by
  refine ⟨_, rfl, ?_⟩
  apply State.judged_fld
  intro u
  (repeat' split) <;> first | rfl | (simp; done) | (simp only [State.fld, Fld.mk.injEq] <;> simp [↓fld_mk, fld_eqs]; done)

theorem execDropStage_fld (id : Nat) (ln : Ln) (s : State) :
    ∃ next, execDropStage id ln s = .next next ∧ next.fld = s.fld := by
  refine ⟨_, rfl, ?_⟩
  apply State.judged_fld
  intro u
  (repeat' split) <;> first | rfl | (simp; done) | (simp only [State.fld, Fld.mk.injEq] <;> simp [↓fld_mk, fld_eqs]; done)

theorem execAddUser_fld (name : List Byte) (level : Level) (key : List Byte) (ln : Ln) (s : State) :
    ∃ next, execAddUser name level key ln s = .next next ∧ next.fld = s.fld := by
  refine ⟨_, rfl, ?_⟩
  split
  · exact State.wrongForm_fld _ _ _
  · split
    · exact State.wrongForm_fld _ _ _
    · refine State.judged_fld _ _ _ _ _ fun u => ?_
      dsimp only
      split
      · simp
      · split
        · simp
        · split
          · simp
          · rename_i h
            rw [State.ok_fld]
            exact setFlash_fld _ (flashTakes_frozen h)

theorem execRemoveUser_fld (name : List Byte) (ln : Ln) (s : State) :
    ∃ next, execRemoveUser name ln s = .next next ∧ next.fld = s.fld := by
  refine ⟨_, rfl, State.judged_fld _ _ _ _ _ fun u => ?_⟩
  dsimp only
  split
  · simp
  · split
    · simp
    · split
      · simp
      · rename_i h
        rw [State.ok_fld]
        exact setFlash_fld _ (flashTakes_frozen h)

theorem execShowUsers_fld (ln : Ln) (s : State) :
    ∃ next, execShowUsers ln s = .next next ∧ next.fld = s.fld := by
  refine ⟨_, rfl, ?_⟩
  apply State.judged_fld
  intro u
  (repeat' split) <;> first | rfl | (simp; done) | (simp only [State.fld, Fld.mk.injEq] <;> simp [↓fld_mk, fld_eqs]; done)

theorem State.storePort_fld (s : State) (ned port : Nat) (p : Port) (ptp : Bool) (h : s.frozen = false) :
    (s.storePort ned port p ptp).fld = s.fld := setFlash_fld _ h

theorem execPtpEvent_fld (k : NedIx) (port : Fin 8) (bytes : List Byte) (egress : Bool) (sfd t : Time) (s : State) :
    ∃ next, execPtpEvent k port bytes egress sfd t s = .next next ∧ next.fld = s.fld := by
  refine ⟨_, rfl, State.event_fld _ _ _ _ fun _ => ?_⟩
  dsimp only
  with_reducible apply ite_eq_fld
  · exact (State.modNed_fld _ _ _).trans (wire_fld _ _)
  · exact (heard_fld _ _).trans (State.modNed_fld _ _ _)

theorem execRsFault_fld (k : NedIx) (port : Fin 8) (remote : Bool) (t : Time) (s : State) :
    ∃ next, execRsFault k port remote t s = .next next ∧ next.fld = s.fld := by
  refine ⟨_, rfl, ?_⟩
  apply State.event_fld
  intro g
  (repeat' split) <;> first | rfl | (simp; done) | (simp only [State.fld, Fld.mk.injEq] <;> simp [↓fld_mk, fld_eqs]; done)

theorem execRsFaultCleared_fld (k : NedIx) (fault : PortFault) (t : Time) (s : State) :
    ∃ next, execRsFaultCleared k fault t s = .next next ∧ next.fld = s.fld := by
  refine ⟨_, rfl, ?_⟩
  apply State.event_fld
  intro g
  (repeat' split) <;> first | rfl | (simp; done) | (simp only [State.fld, Fld.mk.injEq] <;> simp [↓fld_mk, fld_eqs]; done)

theorem execPortDrainComplete_fld (k : NedIx) (port : Fin 8) (t : Time) (s : State) :
    ∃ next, execPortDrainComplete k port t s = .next next ∧ next.fld = s.fld := by
  refine ⟨_, rfl, ?_⟩
  apply State.event_fld
  intro g
  (repeat' split) <;> first | rfl | (simp; done) | (simp only [State.fld, Fld.mk.injEq] <;> simp [↓fld_mk, fld_eqs]; done)

theorem execPortSettingsApplied_fld (k : NedIx) (port : Fin 8) (t : Time) (s : State) :
    ∃ next, execPortSettingsApplied k port t s = .next next ∧ next.fld = s.fld := by
  refine ⟨_, rfl, ?_⟩
  apply State.event_fld
  intro g
  dsimp only
  (repeat' split) <;> first | rfl | (simp; done) | (simp only [State.fld, Fld.mk.injEq] <;> simp [↓fld_mk, fld_eqs]; done)

theorem execBurstToken_fld (k : NedIx) (t : Time) (s : State) :
    ∃ next, execBurstToken k t s = .next next ∧ next.fld = s.fld := by
  refine ⟨_, rfl, ?_⟩
  apply State.event_fld
  intro g
  dsimp only
  (repeat' split) <;> first | rfl | (simp; done) | (simp only [State.fld, Fld.mk.injEq] <;> simp [↓fld_mk, fld_eqs]; done)

theorem execShowPort_fld (ned : Nat) (port : Option Nat) (ln : Ln) (s : State) :
    ∃ next, execShowPort ned port ln s = .next next ∧ next.fld = s.fld := by
  refine ⟨_, rfl, ?_⟩
  apply State.judged_fld
  intro u
  (repeat' split) <;> first | rfl | (simp; done) | (simp only [State.fld, Fld.mk.injEq] <;> simp [↓fld_mk, fld_eqs]; done)

theorem execEnablePort_fld (ned port : Nat) (ln : Ln) (s : State) :
    ∃ next, execEnablePort ned port ln s = .next next ∧ next.fld = s.fld := by
  refine ⟨_, rfl, ?_⟩
  apply State.judged_fld
  intro u
  (repeat' split) <;> first | rfl | (simp; done) | (simp only [State.fld, Fld.mk.injEq] <;> simp [↓fld_mk, fld_eqs]; done)

theorem execSetTemplate_fld (ned index : Nat) (a : TemplateArgs) (ln : Ln) (s : State) :
    ∃ next, execSetTemplate ned index a ln s = .next next ∧ next.fld = s.fld := by
  refine ⟨_, rfl, ?_⟩
  apply State.judged_fld
  intro u
  (repeat' first | (refine State.inRange_fld _ _ _ _ _ _ _ ?_) | (refine State.onFold_fld _ _ _ _ ?_) | (refine State.onChannel_fld _ _ _ _ ?_) | (refine State.guard_fld _ _ _ _ ?_) | intro _ | split) <;> first | rfl | (simp; done) | (simp only [State.fld, Fld.mk.injEq] <;> simp [↓fld_mk, fld_eqs]; done) | (simp; rfl) | (simp; simp only [State.fld, Fld.mk.injEq] <;> simp [↓fld_mk, fld_eqs]; done) | (dsimp only; simp; done) | (simp (disch := (intros; (repeat' split) <;> (first | rfl | (simp; done) | (simp only [State.fld, Fld.mk.injEq] <;> simp [↓fld_mk, fld_eqs]; done) | (simp; rfl) | (simp; simp only [State.fld, Fld.mk.injEq] <;> simp [↓fld_mk, fld_eqs]; done)))); done) | (dsimp only; simp (disch := (intros; (repeat' split) <;> (first | rfl | (simp; done) | (simp only [State.fld, Fld.mk.injEq] <;> simp [↓fld_mk, fld_eqs]; done) | (simp; rfl) | (simp; simp only [State.fld, Fld.mk.injEq] <;> simp [↓fld_mk, fld_eqs]; done)))); done) | (simp (disch := (intros; (repeat' split) <;> (first | rfl | (simp; done) | (simp only [State.fld, Fld.mk.injEq] <;> simp [↓fld_mk, fld_eqs]; done) | (simp; rfl) | (simp; simp only [State.fld, Fld.mk.injEq] <;> simp [↓fld_mk, fld_eqs]; done)))); rfl) | (simp (disch := (intros; (repeat' split) <;> (first | rfl | (simp; done) | (simp only [State.fld, Fld.mk.injEq] <;> simp [↓fld_mk, fld_eqs]; done) | (simp; rfl) | (simp; simp only [State.fld, Fld.mk.injEq] <;> simp [↓fld_mk, fld_eqs]; done)))); simp only [State.fld, Fld.mk.injEq] <;> simp [↓fld_mk, fld_eqs]; done) | (dsimp only; simp (disch := (intros; (repeat' split) <;> (first | rfl | (simp; done) | (simp only [State.fld, Fld.mk.injEq] <;> simp [↓fld_mk, fld_eqs]; done) | (simp; rfl) | (simp; simp only [State.fld, Fld.mk.injEq] <;> simp [↓fld_mk, fld_eqs]; done)))); simp only [State.fld, Fld.mk.injEq] <;> simp [↓fld_mk, fld_eqs]; done)

theorem execSetBurst_fld (ned rate depth : Nat) (ln : Ln) (s : State) :
    ∃ next, execSetBurst ned rate depth ln s = .next next ∧ next.fld = s.fld := by
  refine ⟨_, rfl, ?_⟩
  apply State.judged_fld
  intro u
  (repeat' first | (refine State.inRange_fld _ _ _ _ _ _ _ ?_) | (refine State.onFold_fld _ _ _ _ ?_) | (refine State.onChannel_fld _ _ _ _ ?_) | (refine State.guard_fld _ _ _ _ ?_) | intro _ | split) <;> first | rfl | (simp; done) | (simp only [State.fld, Fld.mk.injEq] <;> simp [↓fld_mk, fld_eqs]; done) | (simp; rfl) | (simp; simp only [State.fld, Fld.mk.injEq] <;> simp [↓fld_mk, fld_eqs]; done) | (dsimp only; simp; done) | (simp (disch := (intros; (repeat' split) <;> (first | rfl | (simp; done) | (simp only [State.fld, Fld.mk.injEq] <;> simp [↓fld_mk, fld_eqs]; done) | (simp; rfl) | (simp; simp only [State.fld, Fld.mk.injEq] <;> simp [↓fld_mk, fld_eqs]; done)))); done) | (dsimp only; simp (disch := (intros; (repeat' split) <;> (first | rfl | (simp; done) | (simp only [State.fld, Fld.mk.injEq] <;> simp [↓fld_mk, fld_eqs]; done) | (simp; rfl) | (simp; simp only [State.fld, Fld.mk.injEq] <;> simp [↓fld_mk, fld_eqs]; done)))); done) | (simp (disch := (intros; (repeat' split) <;> (first | rfl | (simp; done) | (simp only [State.fld, Fld.mk.injEq] <;> simp [↓fld_mk, fld_eqs]; done) | (simp; rfl) | (simp; simp only [State.fld, Fld.mk.injEq] <;> simp [↓fld_mk, fld_eqs]; done)))); rfl) | (simp (disch := (intros; (repeat' split) <;> (first | rfl | (simp; done) | (simp only [State.fld, Fld.mk.injEq] <;> simp [↓fld_mk, fld_eqs]; done) | (simp; rfl) | (simp; simp only [State.fld, Fld.mk.injEq] <;> simp [↓fld_mk, fld_eqs]; done)))); simp only [State.fld, Fld.mk.injEq] <;> simp [↓fld_mk, fld_eqs]; done) | (dsimp only; simp (disch := (intros; (repeat' split) <;> (first | rfl | (simp; done) | (simp only [State.fld, Fld.mk.injEq] <;> simp [↓fld_mk, fld_eqs]; done) | (simp; rfl) | (simp; simp only [State.fld, Fld.mk.injEq] <;> simp [↓fld_mk, fld_eqs]; done)))); simp only [State.fld, Fld.mk.injEq] <;> simp [↓fld_mk, fld_eqs]; done)

theorem execSetBucket_fld (ned index fold rate depth : Nat) (burst pen : Option Bool) (ln : Ln) (s : State) :
    ∃ next, execSetBucket ned index fold rate depth burst pen ln s = .next next ∧ next.fld = s.fld := by
  refine ⟨_, rfl, ?_⟩
  apply State.judged_fld
  intro u
  (repeat' first | (refine State.inRange_fld _ _ _ _ _ _ _ ?_) | (refine State.onFold_fld _ _ _ _ ?_) | (refine State.onChannel_fld _ _ _ _ ?_) | (refine State.guard_fld _ _ _ _ ?_) | intro _ | split) <;> first | rfl | (simp; done) | (simp only [State.fld, Fld.mk.injEq] <;> simp [↓fld_mk, fld_eqs]; done) | (simp; rfl) | (simp; simp only [State.fld, Fld.mk.injEq] <;> simp [↓fld_mk, fld_eqs]; done) | (dsimp only; simp; done) | (simp (disch := (intros; (repeat' split) <;> (first | rfl | (simp; done) | (simp only [State.fld, Fld.mk.injEq] <;> simp [↓fld_mk, fld_eqs]; done) | (simp; rfl) | (simp; simp only [State.fld, Fld.mk.injEq] <;> simp [↓fld_mk, fld_eqs]; done)))); done) | (dsimp only; simp (disch := (intros; (repeat' split) <;> (first | rfl | (simp; done) | (simp only [State.fld, Fld.mk.injEq] <;> simp [↓fld_mk, fld_eqs]; done) | (simp; rfl) | (simp; simp only [State.fld, Fld.mk.injEq] <;> simp [↓fld_mk, fld_eqs]; done)))); done) | (simp (disch := (intros; (repeat' split) <;> (first | rfl | (simp; done) | (simp only [State.fld, Fld.mk.injEq] <;> simp [↓fld_mk, fld_eqs]; done) | (simp; rfl) | (simp; simp only [State.fld, Fld.mk.injEq] <;> simp [↓fld_mk, fld_eqs]; done)))); rfl) | (simp (disch := (intros; (repeat' split) <;> (first | rfl | (simp; done) | (simp only [State.fld, Fld.mk.injEq] <;> simp [↓fld_mk, fld_eqs]; done) | (simp; rfl) | (simp; simp only [State.fld, Fld.mk.injEq] <;> simp [↓fld_mk, fld_eqs]; done)))); simp only [State.fld, Fld.mk.injEq] <;> simp [↓fld_mk, fld_eqs]; done) | (dsimp only; simp (disch := (intros; (repeat' split) <;> (first | rfl | (simp; done) | (simp only [State.fld, Fld.mk.injEq] <;> simp [↓fld_mk, fld_eqs]; done) | (simp; rfl) | (simp; simp only [State.fld, Fld.mk.injEq] <;> simp [↓fld_mk, fld_eqs]; done)))); simp only [State.fld, Fld.mk.injEq] <;> simp [↓fld_mk, fld_eqs]; done)

theorem execShowBucket_fld (ned index : Nat) (ln : Ln) (s : State) :
    ∃ next, execShowBucket ned index ln s = .next next ∧ next.fld = s.fld := by
  refine ⟨_, rfl, ?_⟩
  apply State.judged_fld
  intro u
  (repeat' split) <;> first | rfl | (simp; done) | (simp only [State.fld, Fld.mk.injEq] <;> simp [↓fld_mk, fld_eqs]; done)

theorem execSetRotation_fld (med : Nat) (slots : Option (List Nat)) (ln : Ln) (s : State) :
    ∃ next, execSetRotation med slots ln s = .next next ∧ next.fld = s.fld := by
  refine ⟨_, rfl, ?_⟩
  apply State.judged_fld
  intro u
  (repeat' split) <;> first | rfl | (simp; done) | (simp only [State.fld, Fld.mk.injEq] <;> simp [↓fld_mk, fld_eqs]; done)

theorem execShowFold_fld (id : Nat) (ln : Ln) (s : State) :
    ∃ next, execShowFold id ln s = .next next ∧ next.fld = s.fld := by
  refine ⟨_, rfl, ?_⟩
  apply State.judged_fld
  intro u
  (repeat' split) <;> first | rfl | (simp; done) | (simp only [State.fld, Fld.mk.injEq] <;> simp [↓fld_mk, fld_eqs]; done)

theorem execShowFolds_fld (ln : Ln) (s : State) :
    ∃ next, execShowFolds ln s = .next next ∧ next.fld = s.fld := by
  refine ⟨_, rfl, ?_⟩
  apply State.judged_fld
  intro u
  (repeat' split) <;> first | rfl | (simp; done) | (simp only [State.fld, Fld.mk.injEq] <;> simp [↓fld_mk, fld_eqs]; done)

theorem execShowKeys_fld (fold : Nat) (ln : Ln) (s : State) :
    ∃ next, execShowKeys fold ln s = .next next ∧ next.fld = s.fld := by
  refine ⟨_, rfl, ?_⟩
  apply State.judged_fld
  intro u
  (repeat' split) <;> first | rfl | (simp; done) | (simp only [State.fld, Fld.mk.injEq] <;> simp [↓fld_mk, fld_eqs]; done)

theorem execExportKey_fld (fold : Nat) (ln : Ln) (s : State) :
    ∃ next, execExportKey fold ln s = .next next ∧ next.fld = s.fld := by
  refine ⟨_, rfl, ?_⟩
  apply State.judged_fld
  intro u
  (repeat' split) <;> first | rfl | (simp; done) | (simp only [State.fld, Fld.mk.injEq] <;> simp [↓fld_mk, fld_eqs]; done)

theorem execShowChannel_fld (handle : Sum (BitVec 32) Nat) (ln : Ln) (s : State) :
    ∃ next, execShowChannel handle ln s = .next next ∧ next.fld = s.fld := by
  refine ⟨_, rfl, ?_⟩
  apply State.judged_fld
  intro u
  (repeat' split) <;> first | rfl | (simp; done) | (simp only [State.fld, Fld.mk.injEq] <;> simp [↓fld_mk, fld_eqs]; done)

theorem execShowSession_fld (num : Nat) (ln : Ln) (s : State) :
    ∃ next, execShowSession num ln s = .next next ∧ next.fld = s.fld := by
  refine ⟨_, rfl, ?_⟩
  apply State.judged_fld
  intro u
  (repeat' split) <;> first | rfl | (simp; done) | (simp only [State.fld, Fld.mk.injEq] <;> simp [↓fld_mk, fld_eqs]; done)

theorem execFineIssueCycle_fld (n : Pad) (fault : IcFault) (t : Time) (s : State) :
    ∃ next, execFineIssueCycle n fault t s = .next next ∧ next.fld = s.fld := by
  refine ⟨_, rfl, ?_⟩
  apply State.event_fld
  intro g
  dsimp only
  (repeat' split) <;> first | rfl | (simp; done) | (simp only [State.fld, Fld.mk.injEq] <;> simp [↓fld_mk, fld_eqs]; done)

theorem execCoarseIssueCycle_fld (n : Pad) (fault : IcFault) (t : Time) (s : State) :
    ∃ next, execCoarseIssueCycle n fault t s = .next next ∧ next.fld = s.fld := by
  refine ⟨_, rfl, State.event_fld _ _ _ _ fun _ => ?_⟩
  dsimp only
  split
  · simp
  · split
    · simp
    · split
      · simp
      · simp only [State.addTally_fld]
        split <;> simp

theorem execWatchdogExpiry_fld (n : Pad) (k : CtxIx) (t : Time) (s : State) :
    ∃ next, execWatchdogExpiry n k t s = .next next ∧ next.fld = s.fld := by
  refine ⟨_, rfl, ?_⟩
  apply State.event_fld
  intro g
  (repeat' split) <;> first | rfl | (simp; done) | (simp only [State.fld, Fld.mk.injEq] <;> simp [↓fld_mk, fld_eqs]; done)

theorem execEccRereadVerdict_fld (n : Pad) (m : Fin 4) (good : Bool) (t : Time) (s : State) :
    ∃ next, execEccRereadVerdict n m good t s = .next next ∧ next.fld = s.fld := by
  refine ⟨_, rfl, ?_⟩
  apply State.event_fld
  intro g
  (repeat' split) <;> first | rfl | (simp; done) | (simp only [State.fld, Fld.mk.injEq] <;> simp [↓fld_mk, fld_eqs]; done)

theorem execResidueVerdict_fld (n : Pad) (v : Fin 4) (good : Bool) (t : Time) (s : State) :
    ∃ next, execResidueVerdict n v good t s = .next next ∧ next.fld = s.fld := by
  refine ⟨_, rfl, ?_⟩
  apply State.event_fld
  intro g
  (repeat' split) <;> first | rfl | (simp; done) | (simp only [State.fld, Fld.mk.injEq] <;> simp [↓fld_mk, fld_eqs]; done)

theorem execLedgerRingRetry_fld (readBack : List Bool) (t : Time) (s : State) :
    ∃ next, execLedgerRingRetry readBack t s = .next next ∧ next.fld = s.fld := by
  refine ⟨_, rfl, State.event_fld _ _ _ _ fun g => ?_⟩
  dsimp only
  with_reducible apply ite_eq_fld
  · rw [State.ring_fld]
    refine foldl_inv (P := fun (u : State) => u.fld = (s.tick t).fld) _ rfl (fun u r h => ?_)
    rw [State.ringPut_fld, h]
  · rfl

theorem execShowTally_fld (scope : Scope) (id : Nat) (name : Option Nat) (ln : Ln) (s : State) :
    ∃ next, execShowTally scope id name ln s = .next next ∧ next.fld = s.fld := by
  refine ⟨_, rfl, ?_⟩
  apply State.judged_fld
  intro u
  (repeat' split) <;> first | rfl | (simp; done) | (simp only [State.fld, Fld.mk.injEq] <;> simp [↓fld_mk, fld_eqs]; done)

theorem execShowBells_fld (since : Option Nat) (fault : Option Bool) (count : Option Nat) (ln : Ln) (s : State) :
    ∃ next, execShowBells since fault count ln s = .next next ∧ next.fld = s.fld := by
  refine ⟨_, rfl, ?_⟩
  apply State.judged_fld
  intro u
  (repeat' split) <;> first | rfl | (simp; done) | (simp only [State.fld, Fld.mk.injEq] <;> simp [↓fld_mk, fld_eqs]; done)

theorem execShowLedger_fld (fold : Nat) (since : Option Nat) (count : Option Nat) (ln : Ln) (s : State) :
    ∃ next, execShowLedger fold since count ln s = .next next ∧ next.fld = s.fld := by
  refine ⟨_, rfl, ?_⟩
  apply State.judged_fld
  intro u
  (repeat' split) <;> first | rfl | (simp; done) | (simp only [State.fld, Fld.mk.injEq] <;> simp [↓fld_mk, fld_eqs]; done)

theorem execVerifyLedger_fld (data : List Byte) (ln : Ln) (s : State) :
    ∃ next, execVerifyLedger data ln s = .next next ∧ next.fld = s.fld := by
  refine ⟨_, rfl, ?_⟩
  apply State.judged_fld
  intro u
  (repeat' split) <;> first | rfl | (simp; done) | (simp only [State.fld, Fld.mk.injEq] <;> simp [↓fld_mk, fld_eqs]; done)

theorem execShowMap_fld (at_ : Option (List Loc)) (ln : Ln) (s : State) :
    ∃ next, execShowMap at_ ln s = .next next ∧ next.fld = s.fld := by
  refine ⟨_, rfl, ?_⟩
  apply State.judged_fld
  intro u
  (repeat' split) <;> first | rfl | (simp; done) | (simp only [State.fld, Fld.mk.injEq] <;> simp [↓fld_mk, fld_eqs]; done)

theorem execExportMap_fld (ln : Ln) (s : State) :
    ∃ next, execExportMap ln s = .next next ∧ next.fld = s.fld := by
  refine ⟨_, rfl, ?_⟩
  apply State.judged_fld
  intro u
  dsimp only
  (repeat' split) <;> first | rfl | (simp; done) | (simp only [State.fld, Fld.mk.injEq] <;> simp [↓fld_mk, fld_eqs]; done)

theorem execSetReserve_fld (c r : Nat) (on : Bool) (ln : Ln) (s : State) :
    ∃ next, execSetReserve c r on ln s = .next next ∧ next.fld = s.fld := by
  refine ⟨_, rfl, ?_⟩
  apply State.judged_fld
  intro u
  (repeat' split) <;> first | rfl | (simp; done) | (simp only [State.fld, Fld.mk.injEq] <;> simp [↓fld_mk, fld_eqs]; done)

theorem execSetExclude_fld (x y : Nat) (on : Bool) (ln : Ln) (s : State) :
    ∃ next, execSetExclude x y on ln s = .next next ∧ next.fld = s.fld := by
  refine ⟨_, rfl, ?_⟩
  apply State.judged_fld
  intro u
  (repeat' split) <;> first | rfl | (simp; done) | (simp only [State.fld, Fld.mk.injEq] <;> simp [↓fld_mk, fld_eqs]; done)

theorem execMemReqReceived_fld (k : MedIx) (e : Fin 2) (lane : Lane) (vc : Bool) (t : Time) (s : State) :
    ∃ next, execMemReqReceived k e lane vc t s = .next next ∧ next.fld = s.fld := by
  refine ⟨_, rfl, ?_⟩
  apply State.event_fld
  intro g
  (repeat' split) <;> first | rfl | (simp; done) | (simp only [State.fld, Fld.mk.injEq] <;> simp [↓fld_mk, fld_eqs]; done) | (simp; rfl) | (simp; simp only [State.fld, Fld.mk.injEq] <;> simp [↓fld_mk, fld_eqs]; done) | (dsimp only; simp; done) | (simp (disch := (intros; (repeat' split) <;> (first | rfl | (simp; done) | (simp only [State.fld, Fld.mk.injEq] <;> simp [↓fld_mk, fld_eqs]; done) | (simp; rfl) | (simp; simp only [State.fld, Fld.mk.injEq] <;> simp [↓fld_mk, fld_eqs]; done)))); done) | (dsimp only; simp (disch := (intros; (repeat' split) <;> (first | rfl | (simp; done) | (simp only [State.fld, Fld.mk.injEq] <;> simp [↓fld_mk, fld_eqs]; done) | (simp; rfl) | (simp; simp only [State.fld, Fld.mk.injEq] <;> simp [↓fld_mk, fld_eqs]; done)))); done) | (simp (disch := (intros; (repeat' split) <;> (first | rfl | (simp; done) | (simp only [State.fld, Fld.mk.injEq] <;> simp [↓fld_mk, fld_eqs]; done) | (simp; rfl) | (simp; simp only [State.fld, Fld.mk.injEq] <;> simp [↓fld_mk, fld_eqs]; done)))); rfl) | (simp (disch := (intros; (repeat' split) <;> (first | rfl | (simp; done) | (simp only [State.fld, Fld.mk.injEq] <;> simp [↓fld_mk, fld_eqs]; done) | (simp; rfl) | (simp; simp only [State.fld, Fld.mk.injEq] <;> simp [↓fld_mk, fld_eqs]; done)))); simp only [State.fld, Fld.mk.injEq] <;> simp [↓fld_mk, fld_eqs]; done) | (dsimp only; simp (disch := (intros; (repeat' split) <;> (first | rfl | (simp; done) | (simp only [State.fld, Fld.mk.injEq] <;> simp [↓fld_mk, fld_eqs]; done) | (simp; rfl) | (simp; simp only [State.fld, Fld.mk.injEq] <;> simp [↓fld_mk, fld_eqs]; done)))); simp only [State.fld, Fld.mk.injEq] <;> simp [↓fld_mk, fld_eqs]; done)

theorem execRotationSlot_fld (k : MedIx) (t : Time) (s : State) :
    ∃ next, execRotationSlot k t s = .next next ∧ next.fld = s.fld := by
  refine ⟨_, rfl, ?_⟩
  apply State.event_fld
  intro g
  (repeat' split) <;> first | rfl | (simp; done) | (simp only [State.fld, Fld.mk.injEq] <;> simp [↓fld_mk, fld_eqs]; done)

theorem execLinkBeatSend_fld (x : EndIx) (lane : Lane) (t : Time) (s : State) :
    ∃ next, execLinkBeatSend x lane t s = .next next ∧ next.fld = s.fld := by
  refine ⟨_, rfl, State.event_fld _ _ _ _ fun _ => ?_⟩
  have hs : (if x < 5376 then (s.tick t).sweepRouter (x / 4) else s.tick t).fld = (s.tick t).fld := by
    split <;> simp
  dsimp only
  generalize (if x < 5376 then (s.tick t).sweepRouter (x / 4) else s.tick t) = u at hs ⊢
  refine Eq.trans ?_ hs
  split
  · exact (wire_fld _ _).trans (State.setLink_fld u x lane.val _)
  · split
    · rename_i e l' _
      exact ((wire_fld _ _).trans (State.setLink_fld _ _ _ _)).trans (State.setLink_fld u x lane.val l')
    · split
      · exact (wire_fld _ _).trans (State.setLink_fld _ _ _ _)
      · rename_i h
        have h1 := State.nextFlit_fld h
        split
        · split
          · rename_i h'
            exact ((wire_fld _ _).trans (State.setLink_fld _ _ _ _)).trans ((State.modLink_fld _ _ _ _).trans ((State.nextFlit_fld h').trans h1))
          · exact ((wire_fld _ _).trans (State.setLink_fld _ _ _ _)).trans h1
        · exact ((wire_fld _ _).trans (State.setLink_fld _ _ _ _)).trans h1

theorem execReplayTimeout_fld (x : EndIx) (lane : Lane) (t : Time) (s : State) :
    ∃ next, execReplayTimeout x lane t s = .next next ∧ next.fld = s.fld := by
  refine ⟨_, rfl, ?_⟩
  apply State.event_fld
  intro g
  (repeat' split) <;> first | rfl | (simp; done) | (simp only [State.fld, Fld.mk.injEq] <;> simp [↓fld_mk, fld_eqs]; done)

theorem execLane0Precompile_fld (t : Time) (s : State) :
    ∃ next, execLane0Precompile t s = .next next ∧ next.fld = s.fld := by
  refine ⟨_, rfl, ?_⟩
  apply State.event_fld
  intro g
  (repeat' split) <;> first | rfl | (simp; done) | (simp only [State.fld, Fld.mk.injEq] <;> simp [↓fld_mk, fld_eqs]; done)

theorem execResetRelease_fld (jtagEn : Bool) (t : Time) (s : State) :
    ∃ next, execResetRelease jtagEn t s = .next next ∧ next.fld = s.fld := by
  refine ⟨_, rfl, ?_⟩
  split
  · exact State.modFlash_fld (s.tick t) _
  · rfl

theorem execPwrFailAssert_fld (t : Time) (s : State) :
    ∃ next, execPwrFailAssert t s = .next next ∧ next.fld = s.fld := by
  refine ⟨_, rfl, ?_⟩
  split
  · rw [State.ring_fld]
    rfl
  · rfl

theorem execPwrFailFlashFreeze_fld (t : Time) (s : State) :
    ∃ next, execPwrFailFlashFreeze t s = .next next ∧ next.fld = s.fld := by
  refine ⟨_, rfl, State.event_fld _ _ _ _ fun _ => rfl⟩

theorem execPwrFailDeassert_fld (t : Time) (s : State) :
    ∃ next, execPwrFailDeassert t s = .next next ∧ next.fld = s.fld := by
  refine ⟨_, rfl, ?_⟩
  split <;> rfl

theorem execBusSample_fld (shc : ShcIx) (mvA mvB : Nat) (t : Time) (s : State) :
    ∃ next, execBusSample shc mvA mvB t s = .next next ∧ next.fld = s.fld := by
  refine ⟨_, rfl, ?_⟩
  apply State.event_fld
  intro g
  (repeat' split) <;> first | rfl | (simp; done) | (simp only [State.fld, Fld.mk.injEq] <;> simp [↓fld_mk, fld_eqs]; done)

theorem execRailDeparture_fld (f : FieldIx) (vaon : Bool) (mv : Nat) (t : Time) (s : State) :
    ∃ next, execRailDeparture f vaon mv t s = .next next ∧ next.fld = s.fld := by
  refine ⟨_, rfl, ?_⟩
  apply State.event_fld
  intro g
  (repeat' split) <;> first | rfl | (simp; done) | (simp only [State.fld, Fld.mk.injEq] <;> simp [↓fld_mk, fld_eqs]; done)

theorem execRailStep_fld (f : FieldIx) (t : Time) (s : State) :
    ∃ next, execRailStep f t s = .next next ∧ next.fld = s.fld := by
  refine ⟨_, rfl, ?_⟩
  apply State.event_fld
  intro g
  (repeat' split) <;> first | rfl | (simp; done) | (simp only [State.fld, Fld.mk.injEq] <;> simp [↓fld_mk, fld_eqs]; done)

theorem execPowerWaveStart_fld (t : Time) (s : State) :
    ∃ next, execPowerWaveStart t s = .next next ∧ next.fld = s.fld := by
  refine ⟨_, rfl, ?_⟩
  apply State.event_fld
  intro g
  (repeat' split) <;> first | rfl | (simp; done) | (simp only [State.fld, Fld.mk.injEq] <;> simp [↓fld_mk, fld_eqs]; done)

theorem execEfuseRetry_fld (n : Pad) (t : Time) (s : State) :
    ∃ next, execEfuseRetry n t s = .next next ∧ next.fld = s.fld := by
  refine ⟨_, rfl, ?_⟩
  apply State.event_fld
  intro g
  (repeat' split) <;> first | rfl | (simp; done) | (simp only [State.fld, Fld.mk.injEq] <;> simp [↓fld_mk, fld_eqs]; done)

theorem execFieldStageShutdown_fld (f : FieldIx) (vaon : Bool) (t : Time) (s : State) :
    ∃ next, execFieldStageShutdown f vaon t s = .next next ∧ next.fld = s.fld := by
  refine ⟨_, rfl, ?_⟩
  apply State.event_fld
  intro g
  (repeat' split) <;> first | rfl | (simp; done) | (simp only [State.fld, Fld.mk.injEq] <;> simp [↓fld_mk, fld_eqs]; done)

theorem execFieldRetry_fld (f : FieldIx) (t : Time) (s : State) :
    ∃ next, execFieldRetry f t s = .next next ∧ next.fld = s.fld := by
  refine ⟨_, rfl, ?_⟩
  apply State.event_fld
  intro g
  (repeat' split) <;> first | rfl | (simp; done) | (simp only [State.fld, Fld.mk.injEq] <;> simp [↓fld_mk, fld_eqs]; done)

theorem execPmbAlert_fld (addr status : Nat) (t : Time) (s : State) :
    ∃ next, execPmbAlert addr status t s = .next next ∧ next.fld = s.fld := by
  refine ⟨_, rfl, ?_⟩
  apply State.event_fld
  intro g
  (repeat' split) <;> first | rfl | (simp; done) | (simp only [State.fld, Fld.mk.injEq] <;> simp [↓fld_mk, fld_eqs]; done)

theorem execTelemetryRead_fld (reads : List PmbRead) (t : Time) (s : State) :
    ∃ next, execTelemetryRead reads t s = .next next ∧ next.fld = s.fld := by
  refine ⟨_, rfl, ?_⟩
  apply State.event_fld
  intro g
  (repeat' split) <;> first | rfl | (simp; done) | (simp only [State.fld, Fld.mk.injEq] <;> simp [↓fld_mk, fld_eqs]; done)

theorem execPmbusRetryPoll_fld (r : PmbRead) (t : Time) (s : State) :
    ∃ next, execPmbusRetryPoll r t s = .next next ∧ next.fld = s.fld := by
  refine ⟨_, rfl, ?_⟩
  apply State.event_fld
  intro g
  (repeat' split) <;> first | rfl | (simp; done) | (simp only [State.fld, Fld.mk.injEq] <;> simp [↓fld_mk, fld_eqs]; done)

theorem execShowPower_fld (ln : Ln) (s : State) :
    ∃ next, execShowPower ln s = .next next ∧ next.fld = s.fld := by
  refine ⟨_, rfl, ?_⟩
  apply State.judged_fld
  intro u
  (repeat' split) <;> first | rfl | (simp; done) | (simp only [State.fld, Fld.mk.injEq] <;> simp [↓fld_mk, fld_eqs]; done)

theorem execSetBus_fld (shared : Bool) (ln : Ln) (s : State) :
    ∃ next, execSetBus shared ln s = .next next ∧ next.fld = s.fld := by
  refine ⟨_, rfl, ?_⟩
  apply State.judged_fld
  intro u
  (repeat' split) <;> first | rfl | (simp; done) | (simp only [State.fld, Fld.mk.injEq] <;> simp [↓fld_mk, fld_eqs]; done)

theorem execSetRail_fld (x y mv : Nat) (ln : Ln) (s : State) :
    ∃ next, execSetRail x y mv ln s = .next next ∧ next.fld = s.fld := by
  refine ⟨_, rfl, ?_⟩
  apply State.judged_fld
  intro u
  (repeat' split) <;> first | rfl | (simp; done) | (simp only [State.fld, Fld.mk.injEq] <;> simp [↓fld_mk, fld_eqs]; done)

theorem execSetPower_fld (at_ : Loc) (dark : Bool) (ln : Ln) (s : State) :
    ∃ next, execSetPower at_ dark ln s = .next next ∧ next.fld = s.fld := by
  refine ⟨_, rfl, ?_⟩
  apply State.judged_fld
  intro u
  (repeat' split) <;> first | rfl | (simp; done) | (simp only [State.fld, Fld.mk.injEq] <;> simp [↓fld_mk, fld_eqs]; done)

theorem execClearField_fld (x y : Nat) (held : Bool) (ln : Ln) (s : State) :
    ∃ next, execClearField x y held ln s = .next next ∧ next.fld = s.fld := by
  refine ⟨_, rfl, ?_⟩
  apply State.judged_fld
  intro u
  (repeat' split) <;> first | rfl | (simp; done) | (simp only [State.fld, Fld.mk.injEq] <;> simp [↓fld_mk, fld_eqs]; done)

theorem execReportResend_fld (t : Time) (s : State) :
    ∃ next, execReportResend t s = .next next ∧ next.fld = s.fld := by
  refine ⟨_, rfl, ?_⟩
  apply State.event_fld
  intro g
  (repeat' split) <;> first | rfl | (simp; done) | (simp only [State.fld, Fld.mk.injEq] <;> simp [↓fld_mk, fld_eqs]; done)

theorem execAckFault_fld (ln : Ln) (s : State) :
    ∃ next, execAckFault ln s = .next next ∧ next.fld = s.fld := by
  refine ⟨_, rfl, ?_⟩
  apply State.judged_fld
  intro u
  (repeat' split) <;> first | rfl | (simp; done) | (simp only [State.fld, Fld.mk.injEq] <;> simp [↓fld_mk, fld_eqs]; done)

theorem execRestoreDie_fld (die : DieName) (passed : Bool) (ln : Ln) (s : State) :
    ∃ next, execRestoreDie die passed ln s = .next next ∧ next.fld = s.fld := by
  refine ⟨_, rfl, ?_⟩
  apply State.judged_fld
  intro u
  (repeat' split) <;> first | rfl | (simp; done) | (simp only [State.fld, Fld.mk.injEq] <;> simp [↓fld_mk, fld_eqs]; done)

theorem execShowLink_fld (c r dir : Nat) (lane : Option Nat) (ln : Ln) (s : State) :
    ∃ next, execShowLink c r dir lane ln s = .next next ∧ next.fld = s.fld := by
  refine ⟨_, rfl, ?_⟩
  apply State.judged_fld
  intro u
  (repeat' split) <;> first | rfl | (simp; done) | (simp only [State.fld, Fld.mk.injEq] <;> simp [↓fld_mk, fld_eqs]; done)

theorem execPeek_fld (addr : Nat) (count : Option Nat) (ln : Ln) (s : State) :
    ∃ next, execPeek addr count ln s = .next next ∧ next.fld = s.fld := by
  refine ⟨_, rfl, ?_⟩
  apply State.judged_fld
  intro u
  (repeat' split) <;> first | rfl | (simp; done) | (simp only [State.fld, Fld.mk.injEq] <;> simp [↓fld_mk, fld_eqs]; done)

theorem execPoke_fld (addr : Nat) (value : BitVec 32) (mask : Option (BitVec 32)) (ln : Ln) (s : State) :
    ∃ next, execPoke addr value mask ln s = .next next ∧ next.fld = s.fld := by
  refine ⟨_, rfl, ?_⟩
  apply State.judged_fld
  intro u
  (repeat' split) <;> first | rfl | (simp; done) | (simp only [State.fld, Fld.mk.injEq] <;> simp [↓fld_mk, fld_eqs]; done)

theorem execShcFaultackWrite_fld (value : BitVec 32) (ln : Ln) (s : State) :
    ∃ next, execShcFaultackWrite value ln s = .next next ∧ next.fld = s.fld := by
  refine ⟨_, rfl, ?_⟩
  apply State.judged_fld
  intro u
  (repeat' split) <;> first | rfl | (simp; done) | (simp only [State.fld, Fld.mk.injEq] <;> simp [↓fld_mk, fld_eqs]; done)

theorem execPcbSatClear_fld (n : Pad) (value : BitVec 32) (ln : Ln) (s : State) :
    ∃ next, execPcbSatClear n value ln s = .next next ∧ next.fld = s.fld := by
  refine ⟨_, rfl, ?_⟩
  apply State.judged_fld
  intro u
  (repeat' split) <;> first | rfl | (simp; done) | (simp only [State.fld, Fld.mk.injEq] <;> simp [↓fld_mk, fld_eqs]; done)

theorem execNedWselWrite_fld (k : NedIx) (value : BitVec 32) (ln : Ln) (s : State) :
    ∃ next, execNedWselWrite k value ln s = .next next ∧ next.fld = s.fld := by
  refine ⟨_, rfl, ?_⟩
  apply State.judged_fld
  intro u
  (repeat' split) <;> first | rfl | (simp; done) | (simp only [State.fld, Fld.mk.injEq] <;> simp [↓fld_mk, fld_eqs]; done)

theorem execShcAlertcauseRead_fld (ln : Ln) (s : State) :
    ∃ next, execShcAlertcauseRead ln s = .next next ∧ next.fld = s.fld := by
  refine ⟨_, rfl, ?_⟩
  apply State.judged_fld
  intro u
  (repeat' split) <;> first | rfl | (simp; done) | (simp only [State.fld, Fld.mk.injEq] <;> simp [↓fld_mk, fld_eqs]; done)

theorem execKeepaliveSend_fld (t : Time) (s : State) :
    ∃ next, execKeepaliveSend t s = .next next ∧ next.fld = s.fld := by
  refine ⟨_, rfl, ?_⟩
  apply State.event_fld
  intro g
  (repeat' split) <;> first | rfl | (simp; done) | (simp only [State.fld, Fld.mk.injEq] <;> simp [↓fld_mk, fld_eqs]; done)

theorem execHeartbeatSend_fld (shc : ShcIx) (t : Time) (s : State) :
    ∃ next, execHeartbeatSend shc t s = .next next ∧ next.fld = s.fld := by
  refine ⟨_, rfl, ?_⟩
  apply State.event_fld
  intro g
  (repeat' split) <;> first | rfl | (simp; done) | (simp only [State.fld, Fld.mk.injEq] <;> simp [↓fld_mk, fld_eqs]; done)

theorem execHeartbeatReceive_fld (shc : ShcIx) (shcl lane0 : Bool) (b : Beat) (t : Time) (s : State) :
    ∃ next, execHeartbeatReceive shc shcl lane0 b t s = .next next ∧ next.fld = s.fld := by
  refine ⟨_, rfl, ?_⟩
  apply State.event_fld
  intro g
  (repeat' split) <;> first | rfl | (simp; done) | (simp only [State.fld, Fld.mk.injEq] <;> simp [↓fld_mk, fld_eqs]; done)

theorem execHeartbeatMiss_fld (t : Time) (s : State) :
    ∃ next, execHeartbeatMiss t s = .next next ∧ next.fld = s.fld := by
  refine ⟨_, rfl, ?_⟩
  apply State.event_fld
  intro g
  (repeat' split) <;> first | rfl | (simp; done) | (simp only [State.fld, Fld.mk.injEq] <;> simp [↓fld_mk, fld_eqs]; done)

theorem execSelectionQuietExpiry_fld (t : Time) (s : State) :
    ∃ next, execSelectionQuietExpiry t s = .next next ∧ next.fld = s.fld := by
  refine ⟨_, rfl, ?_⟩
  apply State.event_fld
  intro g
  (repeat' split) <;> first | rfl | (simp; done) | (simp only [State.fld, Fld.mk.injEq] <;> simp [↓fld_mk, fld_eqs]; done)

theorem execMirrorAckTimeout_fld (t : Time) (s : State) :
    ∃ next, execMirrorAckTimeout t s = .next next ∧ next.fld = s.fld := by
  refine ⟨_, rfl, ?_⟩
  apply State.event_fld
  intro g
  (repeat' split) <;> first | rfl | (simp; done) | (simp only [State.fld, Fld.mk.injEq] <;> simp [↓fld_mk, fld_eqs]; done)

theorem execMirrorProbeTimeout_fld (t : Time) (s : State) :
    ∃ next, execMirrorProbeTimeout t s = .next next ∧ next.fld = s.fld := by
  refine ⟨_, rfl, ?_⟩
  apply State.event_fld
  intro g
  (repeat' split) <;> first | rfl | (simp; done) | (simp only [State.fld, Fld.mk.injEq] <;> simp [↓fld_mk, fld_eqs]; done)

theorem execReadyRefresh_fld (t : Time) (s : State) :
    ∃ next, execReadyRefresh t s = .next next ∧ next.fld = s.fld := by
  refine ⟨_, rfl, ?_⟩
  apply State.event_fld
  intro g
  (repeat' split) <;> first | rfl | (simp; done) | (simp only [State.fld, Fld.mk.injEq] <;> simp [↓fld_mk, fld_eqs]; done)

theorem execReadyLatchExpiry_fld (t : Time) (s : State) :
    ∃ next, execReadyLatchExpiry t s = .next next ∧ next.fld = s.fld := by
  refine ⟨_, rfl, ?_⟩
  apply State.event_fld
  intro g
  (repeat' split) <;> first | rfl | (simp; done) | (simp only [State.fld, Fld.mk.injEq] <;> simp [↓fld_mk, fld_eqs]; done)

theorem execShowShc_fld (ln : Ln) (s : State) :
    ∃ next, execShowShc ln s = .next next ∧ next.fld = s.fld := by
  refine ⟨_, rfl, ?_⟩
  apply State.judged_fld
  intro u
  (repeat' split) <;> first | rfl | (simp; done) | (simp only [State.fld, Fld.mk.injEq] <;> simp [↓fld_mk, fld_eqs]; done)

theorem execUpdateFirmware_fld (stage : Nat) (sigOk : Bool) (ln : Ln) (s : State) :
    ∃ next, execUpdateFirmware stage sigOk ln s = .next next ∧ next.fld = s.fld := by
  refine ⟨_, rfl, State.judged_fld _ _ _ _ _ fun u => ?_⟩
  dsimp only
  split
  · simp
  · with_reducible apply ite_eq_fld
    · simp
    · with_reducible apply ite_eq_fld
      · simp
      · have h0 : (({ u with stages := u.stages.filter fun x => x.id ≠ stage } : State).ok ln [("state", .word "updating")]).fld = u.fld := by
          rw [State.ok_fld]; rfl
        revert h0
        generalize (({ u with stages := u.stages.filter fun x => x.id ≠ stage } : State).ok ln [("state", .word "updating")]) = v
        intro h0
        split
        · split
          · rw [State.fwBell_fld, h0]
          · with_reducible apply ite_eq_fld
            · rw [State.fwBell_fld]
              exact h0
            · rw [State.modShc_fld]
              exact h0
        · rw [State.fwBell_fld, h0]
        · rw [State.fwBell_fld, h0]

theorem execBackupRejoinTimeout_fld (t : Time) (s : State) :
    ∃ next, execBackupRejoinTimeout t s = .next next ∧ next.fld = s.fld := by
  refine ⟨_, rfl, State.event_fld _ _ _ _ fun _ => ?_⟩
  have fw : ∀ (a : State) (w : FwUpdate), ({ a with fwUpdate := w } : State).fld = a.fld := fun _ _ => rfl
  dsimp only
  split
  · rw [State.fwBell_fld]
    exact (fw _ _).trans (State.modFlash_fld _ _)
  · rfl

theorem execRaiseSvn_fld (ln : Ln) (s : State) :
    ∃ next, execRaiseSvn ln s = .next next ∧ next.fld = s.fld := by
  refine ⟨_, rfl, State.judged_fld _ _ _ _ _ fun u => ?_⟩
  dsimp only
  split
  · simp
  · rw [State.ok_fld]
    rfl

theorem execSpanReplayTimeout_fld (i : SpdIx) (t : Time) (s : State) :
    ∃ next, execSpanReplayTimeout i t s = .next next ∧ next.fld = s.fld := by
  refine ⟨_, rfl, ?_⟩
  apply State.event_fld
  intro g
  (repeat' split) <;> first | rfl | (simp; done) | (simp only [State.fld, Fld.mk.injEq] <;> simp [↓fld_mk, fld_eqs]; done)

theorem execSpanDownTimeout_fld (i : SpdIx) (t : Time) (s : State) :
    ∃ next, execSpanDownTimeout i t s = .next next ∧ next.fld = s.fld := by
  refine ⟨_, rfl, ?_⟩
  apply State.event_fld
  intro g
  (repeat' split) <;> first | rfl | (simp; done) | (simp only [State.fld, Fld.mk.injEq] <;> simp [↓fld_mk, fld_eqs]; done)

theorem execSpanRxSilence_fld (i : SpdIx) (t : Time) (s : State) :
    ∃ next, execSpanRxSilence i t s = .next next ∧ next.fld = s.fld := by
  refine ⟨_, rfl, ?_⟩
  apply State.event_fld
  intro g
  (repeat' split) <;> first | rfl | (simp; done) | (simp only [State.fld, Fld.mk.injEq] <;> simp [↓fld_mk, fld_eqs]; done)

theorem execTrainBlockReceived_fld (i : SpdIx) (locked : BitVec 16) (b : BitVec 2570) (t : Time) (s : State) :
    ∃ next, execTrainBlockReceived i locked b t s = .next next ∧ next.fld = s.fld := by
  refine ⟨_, rfl, ?_⟩
  apply State.event_fld
  intro g
  (repeat' split) <;> first | rfl | (simp; done) | (simp only [State.fld, Fld.mk.injEq] <;> simp [↓fld_mk, fld_eqs]; done)

theorem execTrainingTimeout_fld (i : SpdIx) (t : Time) (s : State) :
    ∃ next, execTrainingTimeout i t s = .next next ∧ next.fld = s.fld := by
  refine ⟨_, rfl, ?_⟩
  apply State.event_fld
  intro g
  (repeat' split) <;> first | rfl | (simp; done) | (simp only [State.fld, Fld.mk.injEq] <;> simp [↓fld_mk, fld_eqs]; done)

theorem execTrainRefuseExpiry_fld (i : SpdIx) (t : Time) (s : State) :
    ∃ next, execTrainRefuseExpiry i t s = .next next ∧ next.fld = s.fld := by
  refine ⟨_, rfl, ?_⟩
  apply State.event_fld
  intro g
  (repeat' split) <;> first | rfl | (simp; done) | (simp only [State.fld, Fld.mk.injEq] <;> simp [↓fld_mk, fld_eqs]; done)

theorem execShowSpan_fld (spd : Nat) (ln : Ln) (s : State) :
    ∃ next, execShowSpan spd ln s = .next next ∧ next.fld = s.fld := by
  refine ⟨_, rfl, ?_⟩
  apply State.judged_fld
  intro u
  (repeat' split) <;> first | rfl | (simp; done) | (simp only [State.fld, Fld.mk.injEq] <;> simp [↓fld_mk, fld_eqs]; done)

theorem execRetrainSpan_fld (spd : Nat) (ln : Ln) (s : State) :
    ∃ next, execRetrainSpan spd ln s = .next next ∧ next.fld = s.fld := by
  refine ⟨_, rfl, ?_⟩
  apply State.judged_fld
  intro u
  (repeat' split) <;> first | rfl | (simp; done) | (simp only [State.fld, Fld.mk.injEq] <;> simp [↓fld_mk, fld_eqs]; done)

theorem execShowFlock_fld (ln : Ln) (s : State) :
    ∃ next, execShowFlock ln s = .next next ∧ next.fld = s.fld := by
  refine ⟨_, rfl, ?_⟩
  apply State.judged_fld
  intro u
  (repeat' split) <;> first | rfl | (simp; done) | (simp only [State.fld, Fld.mk.injEq] <;> simp [↓fld_mk, fld_eqs]; done)

theorem execSetFlock_fld (id : BitVec 32) (wafer : Nat) (members : List Nat) (ln : Ln) (s : State) :
    ∃ next, execSetFlock id wafer members ln s = .next next ∧ next.fld = s.fld := by
  refine ⟨_, rfl, State.judged_fld _ _ _ _ _ fun u => State.inRange_fld _ _ _ _ _ _ _ ?_⟩
  split
  · simp
  · split
    · simp
    · rename_i h
      rw [State.ok_fld]
      exact setFlash_fld _ (flashTakes_frozen h)

theorem execThermalTripRetry_fld (n : Pad) (t : Time) (s : State) :
    ∃ next, execThermalTripRetry n t s = .next next ∧ next.fld = s.fld := by
  refine ⟨_, rfl, ?_⟩
  apply State.event_fld
  intro g
  (repeat' split) <;> first | rfl | (simp; done) | (simp only [State.fld, Fld.mk.injEq] <;> simp [↓fld_mk, fld_eqs]; done)

theorem execLoopCheck_fld (inlet outlet : Option Int) (t : Time) (s : State) :
    ∃ next, execLoopCheck inlet outlet t s = .next next ∧ next.fld = s.fld := by
  refine ⟨_, rfl, ?_⟩
  apply State.event_fld
  intro g
  (repeat' split) <;> first | rfl | (simp; done) | (simp only [State.fld, Fld.mk.injEq] <;> simp [↓fld_mk, fld_eqs]; done)

theorem execShowThermal_fld (ln : Ln) (s : State) :
    ∃ next, execShowThermal ln s = .next next ∧ next.fld = s.fld := by
  refine ⟨_, rfl, ?_⟩
  apply State.judged_fld
  intro u
  (repeat' split) <;> first | rfl | (simp; done) | (simp only [State.fld, Fld.mk.injEq] <;> simp [↓fld_mk, fld_eqs]; done)

theorem execShowSensors_fld (at_ : Sum Loc DieName) (ln : Ln) (s : State) :
    ∃ next, execShowSensors at_ ln s = .next next ∧ next.fld = s.fld := by
  refine ⟨_, rfl, ?_⟩
  apply State.judged_fld
  intro u
  (repeat' split) <;> first | rfl | (simp; done) | (simp only [State.fld, Fld.mk.injEq] <;> simp [↓fld_mk, fld_eqs]; done)

end Sys2Proof.Machine
end

