-- ==== Sys2Proof/Laws/Hbm.lean ====
section
/-! SUPPORT. What leaves the contents of every memory stack alone. -/
namespace Sys2Proof.Machine

open Sys2Proof

set_option linter.all false

structure Hbm where
  stores : List (Tab HbmBlock)

def State.hbm (s : State) : Hbm :=
  ⟨s.meds.map Med.store⟩

theorem hbm_mk (now) (freeCtr) (resetN) (pwrFail) (pwrFailAt) (frozen) (faultN) (alertN) (alertCause) (ready)
    (readyAt) (vstby) (fuses) (flash) (writing) (place) (net) (boot) (sel) (quiet) (active) (shcA) (shcB) (mirrorSeq)
    (mirrorProbe) (scratch) (sess) (con0) (con1) (waits) (garp) (stages) (nextStage) (retained) (fwUpdate) (bellSeq)
    (bells) (ledgerSeq) (ledgerHeld) (ledgerStopped) (ptpPort) (ptpHeard) (tallies) (busA) (busB) (shared) (telem)
    (unreach) (refAbsent) (refSince) (meshLocked) (inlet) (outlet) (loopSince) (wave) (lastWave) (map) (mapSeq) (pads)
    (fields) (links) (lane0) (neds) (meds) (spds) (nedTemp) (spdTemp) (medTemp) (flockUp) (flockMembers) (flockInfo)
    (excludedW) (folds) (scrubs) (paused) (secondAt) (incCtr) (channels) (sessions) (reports) (notices) (wsel) (wstat)
    (shadow) (taps) (wire) (pending) : (State.mk now freeCtr resetN pwrFail pwrFailAt frozen faultN alertN alertCause
    ready readyAt vstby fuses flash writing place net boot sel quiet active shcA shcB mirrorSeq mirrorProbe scratch
    sess con0 con1 waits garp stages nextStage retained fwUpdate bellSeq bells ledgerSeq ledgerHeld ledgerStopped
    ptpPort ptpHeard tallies busA busB shared telem unreach refAbsent refSince meshLocked inlet outlet loopSince wave
    lastWave map mapSeq pads fields links lane0 neds meds spds nedTemp spdTemp medTemp flockUp flockMembers flockInfo
    excludedW folds scrubs paused secondAt incCtr channels sessions reports notices wsel wstat shadow taps wire
    pending).hbm = ⟨meds.map Med.store⟩ := rfl

theorem hbm_eqs : (∀ s : State, s.meds.map Med.store = s.hbm.stores) := by
  (repeat' apply And.intro) <;> intros <;> rfl

@[simp] theorem ite_hbm (c : Prop) [Decidable c] (a b : State) : (if c then a else b).hbm = if c then a.hbm else b.hbm := by
  split <;> rfl

@[simp] theorem foldl_hbm {α : Type} (f : State → α → State) (h : ∀ s a, (f s a).hbm = s.hbm) (l : List α) (s : State) :
    (l.foldl f s).hbm = s.hbm := by
  induction l generalizing s with
  | nil => rfl
  | cons x xs ih => simp [ih, h]

theorem ite_eq_hbm {c : Prop} [Decidable c] {a b : State} {r : Hbm} (ha : a.hbm = r) (hb : b.hbm = r) :
    (if c then a else b).hbm = r := by
  split <;> assumption

theorem wire_hbm (a : State) (w : List Wire) : ({ a with wire := w } : State).hbm = a.hbm := rfl

theorem meds_hbm (a : State) (l : List Med) (h : l.map Med.store = a.meds.map Med.store) : ({ a with meds := l } : State).hbm = a.hbm := by
  simp [State.hbm, h]

theorem setFlash_hbm {s : State} (f : Flash) (h : s.frozen = false) : ({ s with flash := f } : State).hbm = s.hbm := rfl

theorem map_store_listSet (l : List Med) (k : Nat) (x : Med) (h : x.store = (l.getD k Med.initial).store) :
    (listSet l k x).map Med.store = l.map Med.store := by
  induction l generalizing k with
  | nil => rfl
  | cons m ms ih =>
    cases k with
    | zero => simpa [listSet] using h
    | succ k =>
      simp only [listSet, List.map_cons, List.cons.injEq, true_and]
      exact ih k (by simpa using h)

@[simp] theorem Med.leasePage_store (m : Med) (g fold : Nat) (space : Bool) (index : Nat) : (m.leasePage g fold space index).store = m.store := rfl

@[simp] theorem Med.setLease_store (m : Med) (g : Nat) (e : DWord) : (m.setLease g e).store = m.store := rfl

@[simp] theorem Med.revoke_store (m : Med) (page : Nat) (retire : Bool) : (m.revoke page retire).1.store = m.store := rfl

@[simp] theorem Med.nextSlot_store (m : Med) (now : Time) : (m.nextSlot now).store = m.store := by
  unfold Med.nextSlot
  (repeat' split) <;> rfl

theorem heard_hbm (a : State) (o : Option Time) : ({ a with ptpHeard := o } : State).hbm = a.hbm := rfl

theorem fw_hbm (a : State) (w : FwUpdate) : ({ a with fwUpdate := w } : State).hbm = a.hbm := rfl

theorem setWriting_hbm {s : State} (w : Option (FlashWork × Time)) (h : s.frozen = false) : ({ s with writing := w } : State).hbm = s.hbm := rfl

@[simp] theorem State.tick_hbm (s : State) (t : Time) : (s.tick t).hbm = s.hbm := rfl

@[simp] theorem State.setPad_hbm (s : State) (n : Nat) (p : Paddock) : (State.setPad s n p).hbm = s.hbm := by
  unfold State.setPad; simp only [State.hbm, Hbm.mk.injEq] <;> simp [↓hbm_mk, hbm_eqs]

@[simp] theorem State.modPad_hbm (s : State) (n : Nat) (f : Paddock → Paddock) : (State.modPad s n f).hbm = s.hbm := by
  simp [State.modPad]

@[simp] theorem State.setField_hbm (s : State) (f : Nat) (x : Field) : (State.setField s f x).hbm = s.hbm := by
  unfold State.setField; simp only [State.hbm, Hbm.mk.injEq] <;> simp [↓hbm_mk, hbm_eqs]

@[simp] theorem State.modField_hbm (s : State) (f : Nat) (g : Field → Field) : (State.modField s f g).hbm = s.hbm := by
  simp [State.modField]

@[simp] theorem State.setNed_hbm (s : State) (k : Nat) (x : Ned) : (State.setNed s k x).hbm = s.hbm := by
  unfold State.setNed; simp only [State.hbm, Hbm.mk.injEq] <;> simp [↓hbm_mk, hbm_eqs]

@[simp] theorem State.modNed_hbm (s : State) (k : Nat) (f : Ned → Ned) : (State.modNed s k f).hbm = s.hbm := by
  simp [State.modNed]

@[simp] theorem State.setMed_hbm (s : State) (k : Nat) (x : Med) (h : x.store = (s.med k).store) : (s.setMed k x).hbm = s.hbm := by
  simp only [State.hbm, State.setMed, Hbm.mk.injEq]
  exact map_store_listSet _ _ _ h

@[simp] theorem State.modMed_hbm (s : State) (k : Nat) (f : Med → Med) (h : ∀ m, (f m).store = m.store) : (s.modMed k f).hbm = s.hbm :=
  State.setMed_hbm _ _ _ (h _)

@[simp] theorem State.setSpd_hbm (s : State) (k : Nat) (x : Spd) : (State.setSpd s k x).hbm = s.hbm := by
  unfold State.setSpd; simp only [State.hbm, Hbm.mk.injEq] <;> simp [↓hbm_mk, hbm_eqs]

@[simp] theorem State.modSpd_hbm (s : State) (k : Nat) (f : Spd → Spd) : (State.modSpd s k f).hbm = s.hbm := by
  simp [State.modSpd]

@[simp] theorem State.setShc_hbm (s : State) (i : Nat) (x : Shc) : (State.setShc s i x).hbm = s.hbm := by
  unfold State.setShc; simp only [State.hbm, Hbm.mk.injEq] <;> simp [↓hbm_mk, hbm_eqs]

@[simp] theorem State.modFlash_hbm (s : State) (f : Flash → Flash) : (s.modFlash f).hbm = s.hbm := by
  unfold State.modFlash
  split
  · rfl
  · rename_i h
    exact setFlash_hbm _ (by simpa using h)

@[simp] theorem State.modShc_hbm (s : State) (i : Nat) (f : Shc → Shc) : (State.modShc s i f).hbm = s.hbm := by
  simp [State.modShc]

@[simp] theorem State.setLink_hbm (s : State) (x lane : Nat) (l : LinkEnd) : (State.setLink s x lane l).hbm = s.hbm := by
  unfold State.setLink; simp only [State.hbm, Hbm.mk.injEq] <;> simp [↓hbm_mk, hbm_eqs]

@[simp] theorem State.modLink_hbm (s : State) (x lane : Nat) (f : LinkEnd → LinkEnd) : (State.modLink s x lane f).hbm = s.hbm := by
  simp [State.modLink]

@[simp] theorem State.setEntry_hbm (s : State) (n : Nat) (e : MapEntry) : (State.setEntry s n e).hbm = s.hbm := by
  unfold State.setEntry; simp only [State.hbm, Hbm.mk.injEq] <;> simp [↓hbm_mk, hbm_eqs]

@[simp] theorem State.putFold_hbm (s : State) (f : Fold) : (State.putFold s f).hbm = s.hbm := by
  unfold State.putFold; simp only [State.hbm, Hbm.mk.injEq] <;> simp [↓hbm_mk, hbm_eqs]

@[simp] theorem State.modFold_hbm (s : State) (id : Nat) (g : Fold → Fold) : (State.modFold s id g).hbm = s.hbm := by
  unfold State.modFold; simp only [State.hbm, Hbm.mk.injEq] <;> simp [↓hbm_mk, hbm_eqs]

@[simp] theorem State.setSession_hbm (s : State) (num : Nat) (x : Session) : (State.setSession s num x).hbm = s.hbm := by
  unfold State.setSession; simp only [State.hbm, Hbm.mk.injEq] <;> simp [↓hbm_mk, hbm_eqs]

@[simp] theorem State.putChannel_hbm (s : State) (c : Channel) : (State.putChannel s c).hbm = s.hbm := by
  unfold State.putChannel; simp only [State.hbm, Hbm.mk.injEq] <;> simp [↓hbm_mk, hbm_eqs]

@[simp] theorem State.addTally_hbm (s : State) (scope : TScope) (id idx n : Nat) : (State.addTally s scope id idx n).hbm = s.hbm := by
  unfold State.addTally; simp only [State.hbm, Hbm.mk.injEq] <;> simp [↓hbm_mk, hbm_eqs]

@[simp] theorem State.count_hbm (s : State) (scope : TScope) (id idx : Nat) : (State.count s scope id idx).hbm = s.hbm := by
  simp [State.count]

@[simp] theorem State.noteStray_hbm (s : State) (fold : Nat) : (State.noteStray s fold).hbm = s.hbm := by
  simp [State.noteStray]

@[simp] theorem State.countChan_hbm (s : State) (ned bind handle idx n : Nat) : (State.countChan s ned bind handle idx n).hbm = s.hbm := by
  simp [State.countChan]

@[simp] theorem State.clearTallies_hbm (s : State) (scope : TScope) (id : Nat) : (State.clearTallies s scope id).hbm = s.hbm := by
  unfold State.clearTallies; simp only [State.hbm, Hbm.mk.injEq] <;> simp [↓hbm_mk, hbm_eqs]

@[simp] theorem State.setFoldSt_hbm (s : State) (id : Nat) (st : FoldState) : (State.setFoldSt s id st).hbm = s.hbm := by
  unfold State.setFoldSt; simp only [State.hbm, Hbm.mk.injEq] <;> simp [↓hbm_mk, hbm_eqs]

@[simp] theorem State.markThrottle_hbm (s : State) (fld : Nat) : (State.markThrottle s fld).hbm = s.hbm := by
  unfold State.markThrottle; simp only [State.hbm, Hbm.mk.injEq] <;> simp [↓hbm_mk, hbm_eqs]

@[simp] theorem State.ring_hbm (s : State) (obj : String) (fault : Bool) (kv : KVs) : (s.ring obj fault kv).hbm = s.hbm := by
  unfold State.ring
  split
  · rfl
  · exact (State.addTally_hbm _ _ _ _ _).trans rfl

@[simp] theorem State.alert_hbm (s : State) (row : Nat) : (State.alert s row).hbm = s.hbm := by
  unfold State.alert; simp only [State.hbm, Hbm.mk.injEq] <;> simp [↓hbm_mk, hbm_eqs]

@[simp] theorem State.report_hbm (s : State) (tr : Trigger) (folds : List Nat) (place : Nat) : (State.report s tr folds place).hbm = s.hbm := by
  unfold State.report; simp only [State.hbm, Hbm.mk.injEq] <;> simp [↓hbm_mk, hbm_eqs]

@[simp] theorem State.stepClock_hbm (s : State) (n x : Nat) : (State.stepClock s n x).hbm = s.hbm := by
  simp [State.stepClock]

@[simp] theorem State.goDark_hbm (s : State) (n : Nat) : (State.goDark s n).hbm = s.hbm := by
  unfold State.goDark; simp only [State.hbm, Hbm.mk.injEq] <;> simp [↓hbm_mk, hbm_eqs]

@[simp] theorem State.enqueueWave_hbm (s : State) (n : Nat) (goal : Power) : (State.enqueueWave s n goal).hbm = s.hbm := by
  unfold State.enqueueWave; simp only [State.hbm, Hbm.mk.injEq] <;> simp [↓hbm_mk, hbm_eqs]

@[simp] theorem State.dissolveYoke_hbm (s : State) (n : Nat) : (State.dissolveYoke s n).hbm = s.hbm := by
  simp [State.dissolveYoke]

@[simp] theorem State.markHole_hbm (s : State) (n cause : Nat) (quiet : Bool) : (State.markHole s n cause quiet).hbm = s.hbm := by
  unfold State.markHole; simp only [State.hbm, Hbm.mk.injEq] <;> simp [↓hbm_mk, hbm_eqs]

@[simp] theorem State.endRun_hbm (s : State) (n : Nat) : (State.endRun s n).hbm = s.hbm := by
  simp [State.endRun]

@[simp] theorem State.endB4_hbm (s : State) : (State.endB4 s).hbm = s.hbm := by
  unfold State.endB4; simp only [State.hbm, Hbm.mk.injEq] <;> simp [↓hbm_mk, hbm_eqs]

@[simp] theorem State.dieBell_hbm (s : State) (obj : String) (k cause : Nat) : (State.dieBell s obj k cause).hbm = s.hbm := by
  unfold State.dieBell; simp only [State.hbm, Hbm.mk.injEq] <;> simp [↓hbm_mk, hbm_eqs]

@[simp] theorem State.reinject_hbm (s : State) : (State.reinject s).hbm = s.hbm := by
  simp [State.reinject]

@[simp] theorem State.pmbus_hbm (s : State) (addr page cmd data : Nat) : (State.pmbus s addr page cmd data).hbm = s.hbm := by
  unfold State.pmbus; simp only [State.hbm, Hbm.mk.injEq] <;> simp [↓hbm_mk, hbm_eqs]

/-- What an event leaves alone, its moment aside. -/
theorem State.event_hbm (s : State) (t : Time) (c : State → Bool) (f : State → State)
    (h : c (s.tick t) = true → (f (s.tick t)).hbm = s.hbm) : (s.event t c f).hbm = s.hbm := by
  unfold State.event
  split
  · rename_i g
    exact h (by simpa using (Bool.and_eq_true _ _ ▸ g).2)
  · rfl

@[simp] theorem State.draw_hbm (s : State) : s.draw.2.hbm = s.hbm := rfl

@[simp] theorem drawBytes_hbm (n : Nat) (s : State) : (drawBytes n s).2.hbm = s.hbm := by
  induction n generalizing s with
  | zero => rfl
  | succ n ih => exact ih _

@[simp] theorem State.tapTest_hbm (s : State) (d : Nat) : (State.tapTest s d).hbm = s.hbm := by
  unfold State.tapTest
  (repeat' split) <;> first | (simp; done) | (simp only [State.hbm, Hbm.mk.injEq] <;> simp [↓hbm_mk, hbm_eqs])

@[simp] theorem State.ack_hbm (s : State) : (State.ack s).hbm = s.hbm := by
  unfold State.ack; simp only [State.hbm, Hbm.mk.injEq] <;> simp [↓hbm_mk, hbm_eqs]

@[simp] theorem State.setCs_hbm (s : State) (i : Nat) (c : CSess) : (State.setCs s i c).hbm = s.hbm := by
  unfold State.setCs; simp only [State.hbm, Hbm.mk.injEq] <;> simp [↓hbm_mk, hbm_eqs]

@[simp] theorem State.modCs_hbm (s : State) (i : Nat) (f : CSess → CSess) : (State.modCs s i f).hbm = s.hbm := by
  simp [State.modCs]

@[simp] theorem State.say_hbm (s : State) (i : Nat) (o : Out) : (State.say s i o).hbm = s.hbm := by
  simp [State.say]

@[simp] theorem State.prompt_hbm (s : State) (i : Nat) : (State.prompt s i).hbm = s.hbm := by
  simp [State.prompt]

@[simp] theorem State.final_hbm (s : State) (i : Nat) (tag : Option (List Byte)) (crc : Bool) (r : RLine) : (State.final s i tag crc r).hbm = s.hbm := by
  simp [State.final]

@[simp] theorem State.answer_hbm (s : State) (ln : Ln) (r : RLine) : (State.answer s ln r).hbm = s.hbm := by
  unfold State.answer
  (repeat' split) <;> simp

@[simp] theorem State.ok_hbm (s : State) (ln : Ln) (kv : KVs) : (State.ok s ln kv).hbm = s.hbm := by
  simp [State.ok]

@[simp] theorem State.err_hbm (s : State) (ln : Ln) (code : Nat) (kv : KVs) : (State.err s ln code kv).hbm = s.hbm := by
  simp [State.err]

@[simp] theorem State.parts_hbm (s : State) (ln : Ln) (ps : List KVs) (kv : KVs) : (State.parts s ln ps kv).hbm = s.hbm := by
  simp [State.parts]

@[simp] theorem State.refuse_hbm (s : State) (ln : Ln) (why : String) : (State.refuse s ln why).hbm = s.hbm := by
  simp [State.refuse]

@[simp] theorem State.sendBells_hbm (s : State) (i : Nat) : (State.sendBells s i).hbm = s.hbm := by
  simp [State.sendBells]

@[simp] theorem State.lineIn_hbm (s : State) (ln : Ln) : (State.lineIn s ln).hbm = s.hbm := by
  unfold State.lineIn
  (repeat' split) <;> first | rfl | (simp; done) | (simp only [State.hbm, Hbm.mk.injEq] <;> simp [↓hbm_mk, hbm_eqs]; done) | (rw [foldl_hbm] <;> (intros; (repeat' split) <;> simp))

@[simp] theorem State.await_hbm (s : State) (ln : Ln) (w : WaitFor) : (State.await s ln w).hbm = s.hbm := by
  unfold State.await; simp only [State.hbm, Hbm.mk.injEq] <;> simp [↓hbm_mk, hbm_eqs]

/-- A console command leaves the core alone, its moment aside, when its body does. -/
theorem State.judged_hbm (s : State) (ln : Ln) (need : Level) (boot : Bool) (body : State → State)
    (h : ∀ u : State, (body u).hbm = u.hbm) : (s.judged ln need boot body).hbm = s.hbm := by
  unfold State.judged
  dsimp only
  (repeat' split) <;> first | rfl | (simp [h]; done) | (simp only [State.hbm, Hbm.mk.injEq] <;> simp [↓hbm_mk, hbm_eqs])

theorem State.sessionVerb_hbm (s : State) (ln : Ln) (body : State → State)
    (h : ∀ u : State, (body u).hbm = u.hbm) : (s.sessionVerb ln body).hbm = s.hbm := by
  unfold State.sessionVerb
  (repeat' split) <;> first | rfl | (simp [h]; done)

@[simp] theorem State.settle_hbm (s : State) (p : WaitFor → Bool) (r : RLine) : (State.settle s p r).hbm = s.hbm := by
  unfold State.settle
  refine foldl_hbm _ (fun _ _ => ?_) _ _
  (repeat' split) <;> simp

@[simp] theorem State.mirror_hbm (s : State) : (State.mirror s).hbm = s.hbm := by
  unfold State.mirror
  (repeat' split) <;> first | (simp; done) | (simp only [State.hbm, Hbm.mk.injEq] <;> simp [↓hbm_mk, hbm_eqs])

@[simp] theorem State.flashErr_hbm (s : State) (ln : Ln) (region : String) : (State.flashErr s ln region).hbm = s.hbm := by
  simp [State.flashErr]

@[simp] theorem State.inRange_hbm (s : State) (ln : Ln) (key : String) (x lo hi : Nat) (body : State → State)
    (h : (body s).hbm = s.hbm) : (s.inRange ln key x lo hi body).hbm = s.hbm := by
  unfold State.inRange
  split <;> simp [h]

@[simp] theorem State.onFold_hbm (s : State) (ln : Ln) (id : Nat) (body : Fold → State)
    (h : ∀ f, (body f).hbm = s.hbm) : (s.onFold ln id body).hbm = s.hbm := by
  unfold State.onFold
  split <;> simp [h]

@[simp] theorem State.writeMap_hbm (s : State) (full ok : Bool) : (s.writeMap full ok).hbm = s.hbm := by
  unfold State.writeMap
  split
  · rfl
  · rename_i h
    simp only [Bool.or_eq_true, not_or, Bool.not_eq_true] at h
    simp [State.hbm, heldFlash, h.1]

@[simp] theorem State.writeMapAlone_hbm (s : State) : s.writeMapAlone.hbm = s.hbm := by
  unfold State.writeMapAlone
  split
  · rfl
  · rename_i h
    exact (setWriting_hbm _ ((frozen_of_core (State.writeMap_core _ _ _)).trans (by simpa using h))).trans (State.writeMap_hbm _ _ _)

@[simp] theorem State.cutFlash_hbm (s : State) : s.cutFlash.hbm = s.hbm := rfl

@[simp] theorem State.shcDoubt_hbm (s : State) (i cause : Nat) : (State.shcDoubt s i cause).hbm = s.hbm := by
  unfold State.shcDoubt; simp only [State.hbm, Hbm.mk.injEq] <;> simp [↓hbm_mk, hbm_eqs]

@[simp] theorem State.takeoverBell_hbm (s : State) (i : Nat) : (State.takeoverBell s i).hbm = s.hbm := by
  simp [State.takeoverBell]

@[simp] theorem State.syncCredits_hbm (s : State) (x lane : Nat) : (State.syncCredits s x lane).hbm = s.hbm := by
  unfold State.syncCredits
  (repeat' split) <;> simp

@[simp] theorem State.syncBorders_hbm (s : State) (n : Nat) : (State.syncBorders s n).hbm = s.hbm := by
  unfold State.syncBorders
  dsimp only
  (repeat' split) <;> first | rfl | (simp (disch := (intros; (repeat' split) <;> simp)); done) | (simp only [State.hbm, Hbm.mk.injEq] <;> simp (disch := (intros; (repeat' split) <;> simp)) [↓hbm_mk, hbm_eqs])

@[simp] theorem State.reroute_hbm (s : State) (x lane : Nat) : (State.reroute s x lane).hbm = s.hbm := by
  unfold State.reroute
  dsimp only
  (repeat' split) <;> first | rfl | (simp (disch := (intros; (repeat' split) <;> simp)); done) | (simp only [State.hbm, Hbm.mk.injEq] <;> simp (disch := (intros; (repeat' split) <;> simp)) [↓hbm_mk, hbm_eqs])

@[simp] theorem State.downSide_hbm (s : State) (x lane : Nat) (acc : BitVec 5) : (State.downSide s x lane acc).hbm = s.hbm := by
  simp [State.downSide]

@[simp] theorem State.sendSys_hbm (s : State) (u : Nat) (f : Flit) : (State.sendSys s u f).hbm = s.hbm := by
  simp [State.sendSys]

@[simp] theorem State.reportFrom_hbm (s : State) (u : Nat) (tr : Trigger) (folds : List Nat) (place : Nat) : (State.reportFrom s u tr folds place).hbm = s.hbm := by
  simp [State.reportFrom]

@[simp] theorem State.pickDetours_hbm (s : State) (was : List (Nat × Nat × List Nat)) : (State.pickDetours s was).hbm = s.hbm := by
  unfold State.pickDetours
  dsimp only
  (repeat' split) <;> first | rfl | (simp (disch := (intros; (repeat' split) <;> simp)); done) | (simp only [State.hbm, Hbm.mk.injEq] <;> simp (disch := (intros; (repeat' split) <;> simp)) [↓hbm_mk, hbm_eqs])

@[simp] theorem State.laneDown_hbm (s : State) (x lane cause : Nat) : (State.laneDown s x lane cause).hbm = s.hbm := by
  unfold State.laneDown
  (repeat' split) <;> first | (simp; done) | (simp only [State.hbm, Hbm.mk.injEq] <;> simp [↓hbm_mk, hbm_eqs])

@[simp] theorem State.sessMod_hbm (s : State) (r : Req) (f : Session → Session) : (State.sessMod s r f).hbm = s.hbm := by
  unfold State.sessMod
  (repeat' split) <;> simp

@[simp] theorem State.nedSend_hbm (s : State) (k e : Nat) (fs : List Flit) : (State.nedSend s k e fs).hbm = s.hbm := by
  unfold State.nedSend
  (repeat' split) <;> simp

@[simp] theorem State.sendBell_hbm (s : State) (k eport fold old incoming count : Nat) (im : Image) (d : Nat × Nat × Nat) : (State.sendBell s k eport fold old incoming count im d).hbm = s.hbm := by
  simp [State.sendBell]

@[simp] theorem State.closeBatch_hbm (s : State) (k : Nat) (b : Binding) (f : Fold) : (State.closeBatch s k b f).hbm = s.hbm := by
  unfold State.closeBatch
  (repeat' split) <;> simp

@[simp] theorem State.countReq_hbm (s : State) (k : Nat) (r : Req) (idx n : Nat) : (State.countReq s k r idx n).hbm = s.hbm := by
  simp [State.countReq]

theorem State.withTag_hbm {s s0 : State} {k : Nat} {r x : Req} (h : s.withTag k r = some (x, s0)) : s0.hbm = s.hbm := by
  simp only [State.withTag, Option.map_eq_some_iff, Prod.mk.injEq] at h
  obtain ⟨_, _, _, rfl⟩ := h
  simp

@[simp] theorem State.intoWafer_hbm (s : State) (k : Nat) (r : Req) (rerun : Bool) : (s.intoWafer k r rerun).hbm = s.hbm := by
  unfold State.intoWafer
  split
  · rename_i h _
    simp only [State.closeBatch_hbm, State.nedSend_hbm]
    split <;> simp [State.withTag_hbm h]
  · simp

@[simp] theorem State.countReply_hbm (s : State) (k : Nat) (r : Req) (back : Bool) : (State.countReply s k r back).hbm = s.hbm := by
  unfold State.countReply
  (repeat' split) <;> simp

@[simp] theorem State.endReq_hbm (s : State) (k : Nat) (r : Req) : (State.endReq s k r).hbm = s.hbm := by
  simp [State.endReq]

@[simp] theorem State.closeTag_hbm (s : State) (k : Nat) (r : Req) (stray : Bool) : (State.closeTag s k r stray).hbm = s.hbm := by
  simp [State.closeTag]

@[simp] theorem State.releaseFcs_hbm (s : State) (k : Nat) (r : Req) : (State.releaseFcs s k r).hbm = s.hbm := by
  unfold State.releaseFcs; simp only [State.hbm, Hbm.mk.injEq] <;> simp [↓hbm_mk, hbm_eqs]

@[simp] theorem State.startReply_hbm (s : State) (k : Nat) (r : Req) (rep : Reply) (at_ : Time) : (State.startReply s k r rep at_).hbm = s.hbm := by
  unfold State.startReply; simp only [State.hbm, Hbm.mk.injEq] <;> simp [↓hbm_mk, hbm_eqs]

@[simp] theorem State.compose_hbm (s : State) (k : Nat) (r : Req) (rep : Reply) : (State.compose s k r rep).hbm = s.hbm := by
  unfold State.compose
  dsimp only
  (repeat' split) <;> simp

@[simp] theorem State.stomp_hbm (s : State) (k : Nat) (r : Req) (whole : Bool) : (State.stomp s k r whole).hbm = s.hbm := by
  unfold State.stomp; simp only [State.hbm, Hbm.mk.injEq] <;> simp [↓hbm_mk, hbm_eqs]

@[simp] theorem State.unsend_hbm (s : State) (k : Nat) (r : Req) : (State.unsend s k r).hbm = s.hbm := by
  unfold State.unsend; simp only [State.hbm, Hbm.mk.injEq] <;> simp [↓hbm_mk, hbm_eqs]

@[simp] theorem State.stompSent_hbm (s : State) (k : Nat) (r : Req) : (State.stompSent s k r).hbm = s.hbm := by
  simp [State.stompSent]

@[simp] theorem State.refuseReq_hbm (s : State) (k : Nat) (r : Req) (reason : Nat) : (State.refuseReq s k r reason).hbm = s.hbm := by
  simp [State.refuseReq]

@[simp] theorem State.dropReq_hbm (s : State) (k : Nat) (r : Req) : (State.dropReq s k r).hbm = s.hbm := by
  simp [State.dropReq]

@[simp] theorem State.penIn_hbm (s : State) (k : Nat) (r : Req) : (s.penIn k r).hbm = s.hbm := by
  unfold State.penIn
  dsimp only
  split
  · simp
  · split
    · rename_i h
      simp [State.withTag_hbm h]
    · simp

@[simp] theorem State.paidIn_hbm (s : State) (k : Nat) (r : Req) (src : TokenSrc) : (State.paidIn s k r src).hbm = s.hbm := by
  simp [State.paidIn]

@[simp] theorem State.gateWalk_hbm (s : State) (k : Nat) (r : Req) : (State.gateWalk s k r).hbm = s.hbm := by
  unfold State.gateWalk
  (repeat' split) <;> simp

@[simp] theorem State.unclaim_hbm (s : State) (k : Nat) (y : Req) : (s.unclaim k y).hbm = s.hbm := by
  unfold State.unclaim
  dsimp only
  (repeat' split) <;> simp

@[simp] theorem State.gates_hbm (s : State) (k : Nat) (r : Req) : (s.gates k r).hbm = s.hbm := by
  unfold State.gates
  split <;> simp

@[simp] theorem State.sessionAdmit_hbm (s : State) (k : Nat) (r : Req) : (State.sessionAdmit s k r).hbm = s.hbm := by
  unfold State.sessionAdmit
  (repeat' split) <;> simp

@[simp] theorem State.letIn_hbm (s : State) (k : Nat) (r : Req) : (State.letIn s k r).hbm = s.hbm := by
  unfold State.letIn
  dsimp only
  (repeat' split) <;> simp

@[simp] theorem State.classifyReq_hbm (s : State) (k : Nat) (r : Req) : (State.classifyReq s k r).hbm = s.hbm := by
  unfold State.classifyReq
  dsimp only
  (repeat' split) <;> simp

@[simp] theorem State.afresh_hbm (s : State) (k : Nat) (r : Req) : (State.afresh s k r).hbm = s.hbm := by
  simp [State.afresh]

@[simp] theorem State.rerun_hbm (s : State) (k : Nat) (r : Req) : (State.rerun s k r).hbm = s.hbm := by
  simp [State.rerun]

@[simp] theorem State.holdRun_hbm (s : State) (k : Nat) (r : Req) : (State.holdRun s k r).hbm = s.hbm := by
  simp [State.holdRun]

@[simp] theorem State.resume_hbm (s : State) (k : Nat) (r : Req) : (State.resume s k r).hbm = s.hbm := by
  simp [State.resume]

@[simp] theorem State.proceed_hbm (s : State) (k : Nat) (r : Req) : (State.proceed s k r).hbm = s.hbm := by
  unfold State.proceed
  dsimp only
  (repeat' split) <;> simp

@[simp] theorem State.judgeBad_hbm (s : State) (k : Nat) (r : Req) (whole : Bool) : (State.judgeBad s k r whole).hbm = s.hbm := by
  simp [State.judgeBad]

@[simp] theorem State.groupVerdict_hbm (s : State) (k : Nat) (r : Req) (fixes : List (Nat × Byte)) (uncorrectable : Bool) : (State.groupVerdict s k r fixes uncorrectable).hbm = s.hbm := by
  unfold State.groupVerdict
  dsimp only
  (repeat' split) <;> simp

@[simp] theorem State.fcsVerdict_hbm (s : State) (k : Nat) (r : Req) (good : Bool) : (State.fcsVerdict s k r good).hbm = s.hbm := by
  simp [State.fcsVerdict]

@[simp] theorem State.frameTail_hbm (s : State) (k : Nat) (r : Req) : (State.frameTail s k r).hbm = s.hbm := by
  simp [State.frameTail]

@[simp] theorem State.breakStream_hbm (s : State) (k : Nat) (r : Req) : (State.breakStream s k r).hbm = s.hbm := by
  simp [State.breakStream]

@[simp] theorem State.verdictOn_hbm (s : State) (k : Nat) (r : Req) (v : Verdict) : (State.verdictOn s k r v).hbm = s.hbm := by
  unfold State.verdictOn
  (repeat' split) <;> simp

@[simp] theorem State.hear_hbm (s : State) (k fid : Nat) (v : Verdict) : (State.hear s k fid v).hbm = s.hbm := by
  unfold State.hear
  dsimp only
  (repeat' split) <;> simp

@[simp] theorem State.hearAll_hbm (s : State) (k fid : Nat) : (State.hearAll s k fid).hbm = s.hbm := by
  simp [State.hearAll]

@[simp] theorem State.loseSession_hbm (s : State) (num : Nat) : (State.loseSession s num).hbm = s.hbm := by
  simp [State.loseSession]

@[simp] theorem State.nedEnterDoubt_hbm (s : State) (k cause : Nat) : (State.nedEnterDoubt s k cause).hbm = s.hbm := by
  unfold State.nedEnterDoubt; simp only [State.hbm, Hbm.mk.injEq] <;> simp [↓hbm_mk, hbm_eqs]

@[simp] theorem State.raiseQ_hbm (s : State) (fold key : Nat) (ds : List (Nat × Nat)) : (State.raiseQ s fold key ds).hbm = s.hbm := by
  simp [State.raiseQ]

@[simp] theorem State.judgeRaised_hbm (s : State) (fold : Nat) (ds : List (Nat × Nat)) : (State.judgeRaised s fold ds).hbm = s.hbm := by
  simp [State.judgeRaised]

@[simp] theorem State.deltaQ_hbm (s : State) (x lane : Nat) : (State.deltaQ s x lane).hbm = s.hbm := by
  unfold State.deltaQ
  dsimp only
  (repeat' split) <;> first | rfl | (simp (disch := (intros; (repeat' split) <;> simp)); done) | (simp only [State.hbm, Hbm.mk.injEq] <;> simp (disch := (intros; (repeat' split) <;> simp)) [↓hbm_mk, hbm_eqs])

@[simp] theorem State.endRaise_hbm (s : State) (key : Nat) : (State.endRaise s key).hbm = s.hbm := by
  unfold State.endRaise; simp only [State.hbm, Hbm.mk.injEq] <;> simp [↓hbm_mk, hbm_eqs]

@[simp] theorem State.downLane_hbm (s : State) (x lane cause : Nat) : (State.downLane s x lane cause).hbm = s.hbm := by
  unfold State.downLane
  (repeat' split) <;> simp

@[simp] theorem State.takeFrom_hbm (s : State) (x lane : Nat) (src : Source) (q : Queued) : (State.takeFrom s x lane src q).hbm = s.hbm := by
  unfold State.takeFrom
  (repeat' split) <;> simp

theorem State.nextFlit_hbm {s t : State} {x lane : Nat} {ok : Queued → Bool} {q : Queued} (h : s.nextFlit x lane ok = some (q, t)) :
    t.hbm = s.hbm := by
  unfold State.nextFlit at h
  obtain ⟨vc, -, h⟩ := List.exists_of_findSome?_eq_some h
  split at h
  · split at h
    · simp only [Option.some.injEq, Prod.mk.injEq] at h
      rw [← h.2]
      split <;> simp
    · cases h
  · cases h

@[simp] theorem State.sweepRouter_hbm (s : State) (n : Nat) : (s.sweepRouter n).hbm = s.hbm := by
  unfold State.sweepRouter
  dsimp only
  rw [foldl_hbm, foldl_hbm]
  · intros; (repeat' split) <;> simp
  · intros; (repeat' split) <;> simp

@[simp] theorem State.freeSlot_hbm (s : State) (x lane : Nat) (vc : Bool) : (State.freeSlot s x lane vc).hbm = s.hbm := by
  simp [State.freeSlot]

@[simp] theorem State.arrivePad_hbm (s : State) (x lane : Nat) (vc : Bool) (f : Flit) (path : List Nat) : (State.arrivePad s x lane vc f path).hbm = s.hbm := by
  unfold State.arrivePad
  dsimp only
  (repeat' split) <;> simp

@[simp] theorem State.arriveDie_hbm (s : State) (x lane : Nat) (vc : Bool) (f : Flit) : (State.arriveDie s x lane vc f).hbm = s.hbm := by
  simp [State.arriveDie]

@[simp] theorem State.arrive_hbm (s : State) (x lane : Nat) (vc : Bool) (f : Flit) (path : List Nat) : (State.arrive s x lane vc f path).hbm = s.hbm := by
  simp [State.arrive]

@[simp] theorem State.strayAt_hbm (s : State) (f : Flit) : (State.strayAt s f).hbm = s.hbm := by
  unfold State.strayAt
  (repeat' split) <;> first | rfl | (simp; done) | (simp only [State.hbm, Hbm.mk.injEq] <;> simp [↓hbm_mk, hbm_eqs]; done) | (rw [foldl_hbm] <;> (intros; (repeat' split) <;> simp))

@[simp] theorem State.memStatus_hbm (s : State) (n : Nat) (f : Flit) : (State.memStatus s n f).hbm = s.hbm := by
  simp [State.memStatus]

theorem State.dockIn_hbm {s t : State} {n : Nat} {f : Flit} (h : s.dockIn n f = some t) : t.hbm = s.hbm := by
  have g : ∀ u ∈ s.dockIn n f, u.hbm = s.hbm := by
    unfold State.dockIn
    dsimp only
    repeat' apply opt_ite
    all_goals
      intro u hu
      first
        | (cases hu; done)
        | (injection hu with hu; subst hu; first | rfl | (simp; done))
  exact g t h

@[simp] theorem State.dockTake_hbm (s : State) (n : Nat) (h : DockHead) : (s.dockTake n h).hbm = s.hbm := by
  cases h <;> simp [State.dockTake]

@[simp] theorem State.dockFill_hbm (hs : List DockHead) (s : State) (n : Nat) (used : List Nat) :
    (s.dockFill n used hs).hbm = s.hbm := by
  induction hs generalizing s used with
  | nil => rfl
  | cons h hs ih =>
    unfold State.dockFill
    dsimp only
    split
    · exact ih _ _
    · split
      · exact ih _ _
      · rename_i e
        rw [ih, State.dockTake_hbm, State.dockIn_hbm e]

@[simp] theorem State.dockRefuse_hbm (s : State) (n : Nat) : (s.dockRefuse n).hbm = s.hbm := by
  unfold State.dockRefuse
  refine foldl_hbm _ (fun _ _ => ?_) _ _
  split <;> simp

@[simp] theorem State.medSend_hbm (s : State) (k : Nat) (out : List (MedPort × Flit)) : (State.medSend s k out).hbm = s.hbm := by
  simp [State.medSend]

@[simp] theorem State.medEnterDoubt_hbm (s : State) (k cause : Nat) : (State.medEnterDoubt s k cause).hbm = s.hbm := by
  simp [State.medEnterDoubt]

@[simp] theorem State.countRets_hbm (s : State) (k : Nat) (rs : List (MedPort × Flit)) : (State.countRets s k rs).hbm = s.hbm := by
  unfold State.countRets
  refine foldl_hbm _ (fun _ _ => ?_) _ _
  (repeat' split) <;> simp

@[simp] theorem State.sendSpan_hbm (s : State) (f : SFlit) : (State.sendSpan s f).hbm = s.hbm := by
  unfold State.sendSpan
  dsimp only
  (repeat' split) <;> simp

@[simp] theorem State.spanLinkDown_hbm (s : State) (i cause : Nat) : (State.spanLinkDown s i cause).hbm = s.hbm := by
  simp [State.spanLinkDown]

@[simp] theorem State.revokeSpan_hbm (s : State) (fold : Nat) (reconf : Bool) : (State.revokeSpan s fold reconf).hbm = s.hbm := by
  simp [State.revokeSpan]

@[simp] theorem State.unrevokeSpan_hbm (s : State) (fold : Nat) : (State.unrevokeSpan s fold).hbm = s.hbm := by
  unfold State.unrevokeSpan; simp only [State.hbm, Hbm.mk.injEq] <;> simp [↓hbm_mk, hbm_eqs]

@[simp] theorem State.takeSpan_hbm (s : State) (h : Nat × Nat × Nat × Bool × Flit) : (State.takeSpan s h).hbm = s.hbm := by
  unfold State.takeSpan
  dsimp only
  (repeat' split) <;> first | rfl | (simp; done) | (simp only [State.hbm, Hbm.mk.injEq] <;> simp [↓hbm_mk, hbm_eqs])

@[simp] theorem State.pullSpan_hbm (i n : Nat) (s : State) : (State.pullSpan i n s).hbm = s.hbm := by
  induction n generalizing s with
  | zero => rfl
  | succ n ih =>
    unfold State.pullSpan
    dsimp only
    (repeat' split) <;> simp [ih]

@[simp] theorem State.releaseMsg_hbm (s : State) (i : Nat) (m : SMsg) : (State.releaseMsg s i m).hbm = s.hbm := by
  simp [State.releaseMsg]

@[simp] theorem State.spanArrive_hbm (s : State) (i : Nat) (f : SFlit) : (State.spanArrive s i f).hbm = s.hbm := by
  simp [State.spanArrive]

@[simp] theorem State.spanRefuse_hbm (s : State) (i cause : Nat) : (State.spanRefuse s i cause).hbm = s.hbm := by
  simp [State.spanRefuse]

@[simp] theorem State.trainSpan_hbm (s : State) (i : Nat) : (State.trainSpan s i).hbm = s.hbm := by
  simp [State.trainSpan]

@[simp] theorem State.excludeMember_hbm (s : State) (w : Nat) : (State.excludeMember s w).hbm = s.hbm := by
  unfold State.excludeMember; simp only [State.hbm, Hbm.mk.injEq] <;> simp [↓hbm_mk, hbm_eqs]

@[simp] theorem State.spdEnterDoubt_hbm (s : State) (i cause : Nat) : (State.spdEnterDoubt s i cause).hbm = s.hbm := by
  simp [State.spdEnterDoubt]

@[simp] theorem State.holdRecord_hbm (s : State) (r : List Byte) : (s.holdRecord r).hbm = s.hbm := by
  have h : ∀ l, ({ s with ledgerHeld := l } : State).hbm = s.hbm := fun _ => rfl
  exact h _

@[simp] theorem State.ringPut_hbm (r : List Byte) (n : Nat) (rb : List Bool) (s : State) : (State.ringPut r n rb s).hbm = s.hbm := by
  induction n generalizing s rb with
  | zero =>
    unfold State.ringPut
    rw [State.ring_hbm, State.holdRecord_hbm]
    rfl
  | succ n ih =>
    unfold State.ringPut
    dsimp only
    split
    · rfl
    · rw [ih, State.ring_hbm]
      rfl

@[simp] theorem State.writeRecord_hbm (s : State) (body : Nat → List Byte) (rb : List Bool) : (s.writeRecord body rb).hbm = s.hbm := by
  unfold State.writeRecord
  split
  · rfl
  · rename_i h
    dsimp only
    split
    · rw [State.holdRecord_hbm]
      rfl
    · rw [State.ringPut_hbm]
      rfl

@[simp] theorem State.leaseSecondOf_hbm (s : State) (f : Fold) : (State.leaseSecondOf s f).hbm = s.hbm := by
  simp [State.leaseSecondOf]

@[simp] theorem State.lateIntervals_hbm (s : State) : (State.lateIntervals s).hbm = s.hbm := by
  unfold State.lateIntervals; simp only [State.hbm, Hbm.mk.injEq] <;> simp [↓hbm_mk, hbm_eqs]

@[simp] theorem State.closeInterval_hbm (s : State) (id : Nat) (final : Bool) (rb : List Bool) : (State.closeInterval s id final rb).hbm = s.hbm := by
  unfold State.closeInterval
  (repeat' split) <;> simp

@[simp] theorem State.writeGaps_hbm (s : State) : (State.writeGaps s).hbm = s.hbm := by
  simp [State.writeGaps]

@[simp] theorem State.slip_hbm (s : State) (n k fold : Nat) (fine : Bool) (c : SlipCause) : (State.slip s n k fold fine c).hbm = s.hbm := by
  simp [State.slip]

@[simp] theorem State.padDoubt_hbm (s : State) (n fold : Nat) (tr : Trigger) : (State.padDoubt s n fold tr).hbm = s.hbm := by
  simp [State.padDoubt]

@[simp] theorem State.transitionEnds_hbm (s : State) (id : Nat) : (State.transitionEnds s id).hbm = s.hbm := by
  unfold State.transitionEnds
  (repeat' split) <;> simp

@[simp] theorem State.leavePlan_hbm (s : State) (n k : Nat) : (State.leavePlan s n k).hbm = s.hbm := by
  simp [State.leavePlan]

@[simp] theorem State.dieCutOff_hbm (s : State) (d : Nat) : (State.dieCutOff s d).hbm = s.hbm := by
  simp [State.dieCutOff]

@[simp] theorem State.makeHole_hbm (s : State) (n cause : Nat) (quiet : Bool) : (State.makeHole s n cause quiet).hbm = s.hbm := by
  simp [State.makeHole]

@[simp] theorem State.failTest_hbm (s : State) (n : Nat) : (State.failTest s n).hbm = s.hbm := by
  unfold State.failTest; simp only [State.hbm, Hbm.mk.injEq] <;> simp [↓hbm_mk, hbm_eqs]

@[simp] theorem State.powerEnds_hbm (s : State) : (State.powerEnds s).hbm = s.hbm := by
  simp [State.powerEnds]

@[simp] theorem State.fieldShutdown_hbm (s : State) (f : Nat) (vaon : Bool) : (State.fieldShutdown s f vaon).hbm = s.hbm := by
  simp [State.fieldShutdown]

@[simp] theorem State.latchField_hbm (s : State) (f : Nat) : (State.latchField s f).hbm = s.hbm := by
  simp [State.latchField]

@[simp] theorem State.startLinks_hbm (s : State) (n : Nat) : (State.startLinks s n).hbm = s.hbm := by
  unfold State.startLinks
  dsimp only
  (repeat' split) <;> first | rfl | (simp (disch := (intros; (repeat' split) <;> simp)); done) | (simp only [State.hbm, Hbm.mk.injEq] <;> simp (disch := (intros; (repeat' split) <;> simp)) [↓hbm_mk, hbm_eqs])

@[simp] theorem State.creationEnds_hbm (s : State) (id : Nat) : (State.creationEnds s id).hbm = s.hbm := by
  unfold State.creationEnds
  (repeat' split) <;> simp

@[simp] theorem State.settlePad_hbm (s : State) (n : Nat) : (State.settlePad s n).hbm = s.hbm := by
  unfold State.settlePad
  (repeat' split) <;> simp

@[simp] theorem State.stageOnSequence_hbm (s : State) (f : Nat) : (State.stageOnSequence s f).hbm = s.hbm := by
  simp [State.stageOnSequence]

@[simp] theorem State.pmbusRead_hbm (s : State) (r : PmbRead) : (State.pmbusRead s r).hbm = s.hbm := by
  unfold State.pmbusRead; simp only [State.hbm, Hbm.mk.injEq] <;> simp [↓hbm_mk, hbm_eqs]

@[simp] theorem State.guard_hbm (s : State) (ln : Ln) (cs : List (Bool × Nat × KVs)) (body : State) (h : body.hbm = s.hbm) :
    (s.guard ln cs body).hbm = s.hbm := by
  unfold State.guard
  split <;> simp [h]

@[simp] theorem State.powerRun_hbm (s : State) (n : Nat) : (State.powerRun s n).hbm = s.hbm := by
  unfold State.powerRun; simp only [State.hbm, Hbm.mk.injEq] <;> simp [↓hbm_mk, hbm_eqs]

@[simp] theorem State.dropBuffers_hbm (s : State) (n : Nat) (fold : Option Nat) : (State.dropBuffers s n fold).hbm = s.hbm := by
  simp [State.dropBuffers]

@[simp] theorem State.revokeFold_hbm (s : State) (n fold : Nat) : (State.revokeFold s n fold).hbm = s.hbm := by
  simp [State.revokeFold]

@[simp] theorem State.hurdleFor_hbm (s : State) (n fold : Nat) : (State.hurdleFor s n fold).hbm = s.hbm := by
  simp [State.hurdleFor]

@[simp] theorem State.startRouter_hbm (s : State) (n : Nat) : (State.startRouter s n).hbm = s.hbm := by
  simp [State.startRouter]

@[simp] theorem State.shearPad_hbm (s : State) (n : Nat) : (State.shearPad s n).hbm = s.hbm := by
  simp [State.shearPad]

@[simp] theorem State.shearSlot_hbm (s : State) (n k fold : Nat) : (State.shearSlot s n k fold).hbm = s.hbm := by
  simp [State.shearSlot]

@[simp] theorem State.advertise_hbm (s : State) (n fold : Nat) : (State.advertise s n fold).hbm = s.hbm := by
  unfold State.advertise
  (repeat' split) <;> first | rfl | (simp; done) | (simp only [State.hbm, Hbm.mk.injEq] <;> simp [↓hbm_mk, hbm_eqs]; done) | (rw [foldl_hbm] <;> (intros; (repeat' split) <;> simp))

@[simp] theorem State.leasePads_hbm (s : State) (id : Nat) (excl : List Nat) (slots : List (Nat × Nat)) : (State.leasePads s id excl slots).hbm = s.hbm := by
  simp [State.leasePads]

@[simp] theorem State.settleUnleased_hbm (s : State) (n : Nat) : (State.settleUnleased s n).hbm = s.hbm := by
  unfold State.settleUnleased
  dsimp only
  (repeat' split) <;> first | rfl | (simp; done) | (simp only [State.hbm, Hbm.mk.injEq] <;> simp [↓hbm_mk, hbm_eqs])

@[simp] theorem State.unleasePad_hbm (s : State) (n fold : Nat) : (State.unleasePad s n fold).hbm = s.hbm := by
  simp [State.unleasePad]

@[simp] theorem State.unleaseSlot_hbm (s : State) (n k fold : Nat) : (State.unleaseSlot s n k fold).hbm = s.hbm := by
  simp [State.unleaseSlot]

theorem State.leaseOne_hbm {s t : State} {k fold g : Nat} {space : Bool} {index : Option Nat} (h : s.leaseOne k fold space index = some (g, t)) :
    t.hbm = s.hbm := by
  unfold State.leaseOne at h
  rw [Option.map_eq_some_iff] at h
  obtain ⟨a, -, h⟩ := h
  simp only [Prod.mk.injEq] at h
  rw [← h.2]
  exact State.modMed_hbm _ _ _ fun _ => rfl

theorem State.leaseAll_hbm {s t : State} {fold : Nat} {l : List (Nat × Bool × Option Nat)} {got : List (Nat × Nat)}
    (h : s.leaseAll fold l = some (got, t)) : t.hbm = s.hbm := by
  induction l generalizing s got with
  | nil =>
    simp only [State.leaseAll, Option.some.injEq, Prod.mk.injEq] at h
    rw [← h.2]
  | cons a rest ih =>
    obtain ⟨k, sp, ix⟩ := a
    rw [State.leaseAll] at h
    match e : s.leaseOne k fold sp ix with
    | none => rw [e] at h; cases h
    | some (g, s1) =>
      rw [e] at h
      obtain ⟨r, hr, h⟩ := Option.map_eq_some_iff.mp h
      have h2 : r.2 = t := congrArg Prod.snd h
      have h3 : s1.leaseAll fold rest = some (r.1, t) := by rw [← h2]; exact hr
      rw [ih h3, State.leaseOne_hbm e]

@[simp] theorem State.loadKeys_hbm (s : State) (f : Fold) (ks : List Nat) : (State.loadKeys s f ks).hbm = s.hbm := by
  simp [State.loadKeys]

@[simp] theorem State.revokePages_hbm (s : State) (ps : List (Nat × Nat)) : (s.revokePages ps).hbm = s.hbm := by
  unfold State.revokePages
  refine foldl_hbm _ (fun v p => ?_) _ _
  split
  · rfl
  · dsimp only
    rw [State.addTally_hbm, State.addTally_hbm, State.medSend_hbm]
    exact State.setMed_hbm _ _ _ rfl

@[simp] theorem State.refuseAll_hbm (s : State) (p : Nat → Req → Bool) (reason : Nat) : (State.refuseAll s p reason).hbm = s.hbm := by
  simp [State.refuseAll]

@[simp] theorem State.penOut_hbm (s : State) (fold reason : Nat) : (State.penOut s fold reason).hbm = s.hbm := by
  simp [State.penOut]

@[simp] theorem State.waferOut_hbm (s : State) (fold reason : Nat) : (State.waferOut s fold reason).hbm = s.hbm := by
  simp [State.waferOut]

@[simp] theorem State.closeChannel_hbm (s : State) (c : Channel) : (State.closeChannel s c).hbm = s.hbm := by
  unfold State.closeChannel; simp only [State.hbm, Hbm.mk.injEq] <;> simp [↓hbm_mk, hbm_eqs]

@[simp] theorem State.emptyClosed_hbm (s : State) (index : Nat) : (State.emptyClosed s index).hbm = s.hbm := by
  unfold State.emptyClosed; simp only [State.hbm, Hbm.mk.injEq] <;> simp [↓hbm_mk, hbm_eqs]

theorem State.bindOne_hbm {s : State} {f : Fold} {e : Entry} {h ticket : Word} {deadline : Nat} {spec : Bool} {a : BindArg}
    {r : Nat × State} (g : s.bindOne f e h ticket deadline spec a = .inr r) : r.2.hbm = s.hbm := by
  have k : ∀ r, s.bindOne f e h ticket deadline spec a = .inr r → r.2.hbm = s.hbm := by
    unfold State.bindOne
    dsimp only
    repeat' apply sum_ite
    all_goals intro r hr
    all_goals first
      | (cases hr; done)
      | skip
    split at hr
    · cases hr
    · revert hr
      revert r
      repeat' apply sum_ite
      all_goals intro r hr
      all_goals first
        | (cases hr; done)
        | skip
      split at hr
      · cases hr
      · revert hr
        revert r
        apply sum_ite
        · intro r hr
          cases hr
          simp
        · intro r hr
          cases hr
  exact k r g

theorem State.bindAll_hbm {s : State} {f : Fold} {e : Entry} {h ticket : Word} {deadline : Nat} {spec : Bool} {l : List BindArg}
    {r : List (Nat × Nat) × State} (g : s.bindAll f e h ticket deadline spec l = .inr r) : r.2.hbm = s.hbm := by
  induction l generalizing s r with
  | nil => cases g; rfl
  | cons a as ih =>
    simp only [State.bindAll] at g
    split at g
    · cases g
    · rename_i i s1 e1
      split at g
      · cases g
      · rename_i r1 e2
        cases g
        exact (ih e2).trans (State.bindOne_hbm e1)

@[simp] theorem State.freeSession_hbm (s : State) (num : Nat) : (s.freeSession num).hbm = s.hbm := by
  unfold State.freeSession
  dsimp only
  rw [State.settle_hbm, State.setSession_hbm, State.modFold_hbm, foldl_hbm, State.refuseAll_hbm]
  intro v p
  split
  · exact State.modMed_hbm _ _ _ fun _ => rfl
  · rfl

@[simp] theorem State.syncPause_hbm (s : State) : (State.syncPause s).hbm = s.hbm := by
  unfold State.syncPause
  (repeat' split) <;> first | (simp; done) | (simp only [State.hbm, Hbm.mk.injEq] <;> simp [↓hbm_mk, hbm_eqs])

theorem slots_hbm (a : State) (id : Nat) :
    ({ a with meds := a.meds.map fun (m : Med) => { m with slots := tabSet [] m.slots id [] } } : State).hbm = a.hbm := by
  refine meds_hbm _ _ ?_
  rw [List.map_map]
  exact List.map_congr_left fun _ _ => rfl

@[simp] theorem State.finishRelease_hbm (s : State) (f : Fold) : (s.finishRelease f).hbm = s.hbm := by
  have h7 : ∀ (a : State) (x : List Fold) (y : List (Nat × List Byte)) (z : List Scrub),
      ({ a with folds := x, retained := y, scrubs := z } : State).hbm = a.hbm := fun _ _ _ _ => rfl
  have h2 : ∀ (a : State) (x : List Ned) (y : List Spd), ({ a with neds := x, spds := y } : State).hbm = a.hbm := fun _ _ _ => rfl
  unfold State.finishRelease
  dsimp only
  rw [State.settle_hbm, State.mirror_hbm, State.syncPause_hbm, h7, foldl_hbm, slots_hbm, State.revokePages_hbm, foldl_hbm, foldl_hbm, h2]
  · simp
  all_goals intros; simp

@[simp] theorem State.releaseStep_hbm (s : State) (id : Nat) : (State.releaseStep s id).hbm = s.hbm := by
  unfold State.releaseStep
  (repeat' split) <;> simp

@[simp] theorem State.installLinks_hbm (s : State) (im : Image) (n m fold : Nat) : (State.installLinks s im n m fold).hbm = s.hbm := by
  unfold State.installLinks
  (repeat' split) <;> simp

@[simp] theorem State.installPad_hbm (s : State) (im : Image) (n m fold : Nat) (st : CtxState) (epoch : Nat) : (State.installPad s im n m fold st epoch).hbm = s.hbm := by
  simp [State.installPad]

@[simp] theorem State.liftPad_hbm (s : State) (n fold : Nat) : (State.liftPad s n fold).hbm = s.hbm := by
  simp [State.liftPad]

@[simp] theorem State.setYokes_hbm (s : State) (f : Fold) (im : Image) : (State.setYokes s f im).hbm = s.hbm := by
  simp [State.setYokes]

@[simp] theorem State.newLeader_hbm (s : State) (old : Nat) : (State.newLeader s old).hbm = s.hbm := by
  simp [State.newLeader]

@[simp] theorem State.enterFold_hbm (s : State) (a : FoldArgs) (f : Fold) : (s.enterFold a f).hbm = s.hbm := by
  unfold State.enterFold
  dsimp only
  rw [State.leasePads_hbm, State.loadKeys_hbm, State.clearTallies_hbm]
  simp [State.hbm]

@[simp] theorem State.takeOut_hbm (s : State) (id : Nat) (ps : List Nat) (qs : List (Nat × Nat)) (is : List Nat) : (State.takeOut s id ps qs is).hbm = s.hbm := by
  unfold State.takeOut
  (repeat' split) <;> simp

@[simp] theorem State.resizeTo_hbm (s : State) (f g : Fold) (a : ResizeArgs) : (State.resizeTo s f g a).hbm = s.hbm := by
  simp [State.resizeTo]

@[simp] theorem State.abandonBell_hbm (s : State) (id : Nat) (cause : String) : (State.abandonBell s id cause).hbm = s.hbm := by
  simp [State.abandonBell]

@[simp] theorem State.onChannel_hbm (s : State) (ln : Ln) (h : Word) (body : Channel → State)
    (k : ∀ c, (body c).hbm = s.hbm) : (s.onChannel ln h body).hbm = s.hbm := by
  unfold State.onChannel
  split
  · simp
  · split <;> simp [k]

@[simp] theorem State.leaseWindow_hbm (s : State) (fold num : Nat) (win : List (Nat × Nat)) : (s.leaseWindow fold num win).hbm = s.hbm := by
  unfold State.leaseWindow
  refine foldl_hbm _ (fun v p => ?_) _ _
  exact State.modMed_hbm _ _ _ fun _ => rfl

@[simp] theorem State.clearFold_hbm (s : State) (f : Fold) : (State.clearFold s f).hbm = s.hbm := by
  simp [State.clearFold]

@[simp] theorem State.returnAdded_hbm (s : State) (id : Nat) : (State.returnAdded s id).hbm = s.hbm := by
  unfold State.returnAdded
  (repeat' split) <;> simp

@[simp] theorem State.freeStaged_hbm (s : State) (cs : List (Nat × Nat)) : (State.freeStaged s cs).hbm = s.hbm := by
  simp [State.freeStaged]

@[simp] theorem State.loadFail_hbm (s : State) (id code : Nat) (cause : Option String) : (State.loadFail s id code cause).hbm = s.hbm := by
  unfold State.loadFail
  (repeat' split) <;> first | (simp; done) | (simp only [State.hbm, Hbm.mk.injEq] <;> simp [↓hbm_mk, hbm_eqs])

@[simp] theorem State.beginLoad_hbm (s : State) (id : Nat) : (State.beginLoad s id).hbm = s.hbm := by
  unfold State.beginLoad
  dsimp only
  (repeat' split) <;> simp

@[simp] theorem State.loadDrained_hbm (s : State) (id : Nat) : (State.loadDrained s id).hbm = s.hbm := by
  unfold State.loadDrained
  (repeat' split) <;> simp

@[simp] theorem State.rebindChannel_hbm (s : State) (id : Nat) (c : Channel) (old new : Entry) : (State.rebindChannel s id c old new).hbm = s.hbm := by
  unfold State.rebindChannel
  dsimp only
  (repeat' split) <;> first | rfl | (simp; done) | (simp only [State.hbm, Hbm.mk.injEq] <;> simp [↓hbm_mk, hbm_eqs])

@[simp] theorem State.rebindAll_hbm (s : State) (id : Nat) (old : Option Image) (im : Image) : (State.rebindAll s id old im).hbm = s.hbm := by
  unfold State.rebindAll
  refine foldl_hbm _ (fun _ _ => ?_) _ _
  (repeat' split) <;> simp

@[simp] theorem State.commitImage_hbm (s : State) (id : Nat) (im : Image) (container : List Byte) : (State.commitImage s id im container).hbm = s.hbm := by
  unfold State.commitImage
  (repeat' split) <;> first | (simp; done) | (simp only [State.hbm, Hbm.mk.injEq] <;> simp [↓hbm_mk, hbm_eqs])

@[simp] theorem State.dropUnnamed_hbm (s : State) (id : Nat) (im : Image) : (State.dropUnnamed s id im).hbm = s.hbm := by
  unfold State.dropUnnamed
  (repeat' split) <;> simp

@[simp] theorem State.bringIn_hbm (s : State) (im : Image) (n fold epoch : Nat) : (State.bringIn s im n fold epoch).hbm = s.hbm := by
  simp [State.bringIn]

@[simp] theorem State.commitLoad_hbm (s : State) (id : Nat) : (State.commitLoad s id).hbm = s.hbm := by
  unfold State.commitLoad
  (repeat' split) <;> simp

@[simp] theorem State.toStandby_hbm (s : State) (id : Nat) : (State.toStandby s id).hbm = s.hbm := by
  unfold State.toStandby
  (repeat' split) <;> simp

@[simp] theorem State.transit_hbm (s : State) (id : Nat) : (State.transit s id).hbm = s.hbm := by
  unfold State.transit
  (repeat' split) <;> simp

@[simp] theorem State.sendBells__hbm (s : State) (f : Fold) (im : Image) : (State.sendBells_ s f im).hbm = s.hbm := by
  simp [State.sendBells_]

@[simp] theorem State.markOutgoing_hbm (s : State) (im : Image) : (State.markOutgoing s im).hbm = s.hbm := by
  simp [State.markOutgoing]

@[simp] theorem State.switchFold_hbm (s : State) (id : Nat) : (State.switchFold s id).hbm = s.hbm := by
  unfold State.switchFold
  (repeat' split) <;> simp

@[simp] theorem State.dropItems_hbm (s : State) (n k fold : Nat) : (State.dropItems s n k fold).hbm = s.hbm := by
  simp [State.dropItems]

@[simp] theorem State.closeEpoch_hbm (s : State) (k id epoch : Nat) : (State.closeEpoch s k id epoch).hbm = s.hbm := by
  simp [State.closeEpoch]

@[simp] theorem State.forceRetire_hbm (s : State) (id : Nat) : (State.forceRetire s id).hbm = s.hbm := by
  unfold State.forceRetire
  (repeat' split) <;> simp

@[simp] theorem State.loseClock_hbm (s : State) (n : Nat) (tr : Trigger) : (State.loseClock s n tr).hbm = s.hbm := by
  simp [State.loseClock]

@[simp] theorem State.throttleStep_hbm (s : State) (n x : Nat) : (State.throttleStep s n x).hbm = s.hbm := by
  simp [State.throttleStep]

@[simp] theorem State.throttleDown_hbm (s : State) (f : Nat) : (s.throttleDown f).1.hbm = s.hbm := by
  unfold State.throttleDown
  refine foldl_inv (P := fun (x : State × Bool × Bool) => x.1.hbm = s.hbm) _ rfl ?_
  intro a n h
  dsimp only
  (repeat' split) <;> simp [h]

@[simp] theorem State.throttleUp_hbm (s : State) (f : Nat) : (s.throttleUp f).1.hbm = s.hbm := by
  unfold State.throttleUp
  refine foldl_inv (P := fun (x : State × Bool) => x.1.hbm = s.hbm) _ rfl ?_
  intro a n h
  dsimp only
  (repeat' split) <;> simp [h]

@[simp] theorem State.takeOver_hbm (s : State) (f : Nat) : (State.takeOver s f).hbm = s.hbm := by
  simp [State.takeOver]

@[simp] theorem State.throttleOn_hbm (s : State) (f : Nat) (temp : Int) : (State.throttleOn s f temp).hbm = s.hbm := by
  simp [State.throttleOn]

@[simp] theorem State.widen_hbm (s : State) (f : Nat) (temp : Int) : (State.widen s f temp).hbm = s.hbm := by
  simp [State.widen]

@[simp] theorem State.endWiden_hbm (s : State) (f : Nat) : (State.endWiden s f).hbm = s.hbm := by
  simp [State.endWiden]

@[simp] theorem State.moveLease_hbm (s : State) (id n t : Nat) (tr : Trigger) : (State.moveLease s id n t tr).hbm = s.hbm := by
  simp [State.moveLease]

@[simp] theorem State.dropSource_hbm (s : State) (n : Nat) : (State.dropSource s n).hbm = s.hbm := by
  simp [State.dropSource]

@[simp] theorem State.markFailed_hbm (s : State) (ns : List Nat) (tr : Trigger) : (State.markFailed s ns tr).hbm = s.hbm := by
  simp [State.markFailed]

@[simp] theorem State.raiseYoke_hbm (s : State) (f : Fold) (n : Nat) : (State.raiseYoke s f n).hbm = s.hbm := by
  unfold State.raiseYoke
  (repeat' split) <;> simp

@[simp] theorem State.notify_hbm (s : State) (id : Nat) (next : FoldState) : (State.notify s id next).hbm = s.hbm := by
  unfold State.notify; simp only [State.hbm, Hbm.mk.injEq] <;> simp [↓hbm_mk, hbm_eqs]

@[simp] theorem State.foldBell_hbm (s : State) (id : Nat) (st : String) (tr : Trigger) (place : Nat) (kv : KVs) : (State.foldBell s id st tr place kv).hbm = s.hbm := by
  unfold State.foldBell; simp only [State.hbm, Hbm.mk.injEq] <;> simp [↓hbm_mk, hbm_eqs]

@[simp] theorem State.stopFold_hbm (s : State) (id : Nat) (tr : Trigger) (place : Nat) (kv : KVs) : (State.stopFold s id tr place kv).hbm = s.hbm := by
  simp [State.stopFold]

@[simp] theorem State.enterMigrating_hbm (s : State) (f : Fold) (r : Recovery) : (State.enterMigrating s f r).hbm = s.hbm := by
  simp [State.enterMigrating]

@[simp] theorem State.startRestart_hbm (s : State) (id : Nat) (tr : Trigger) (place : Nat) : (State.startRestart s id tr place).hbm = s.hbm := by
  unfold State.startRestart
  (repeat' split) <;> simp

@[simp] theorem State.startMigration_hbm (s : State) (id : Nat) (failed : List Nat) (tr : Trigger) (place : Nat) : (State.startMigration s id failed tr place).hbm = s.hbm := by
  unfold State.startMigration
  (repeat' split) <;> simp

@[simp] theorem State.toCheckpoint_hbm (s : State) (id : Nat) : (State.toCheckpoint s id).hbm = s.hbm := by
  unfold State.toCheckpoint
  (repeat' split) <;> simp

@[simp] theorem State.endLoadInDoubt_hbm (s : State) (f : Fold) (padFails : Bool) (tr : Trigger) : (State.endLoadInDoubt s f padFails tr).hbm = s.hbm := by
  unfold State.endLoadInDoubt
  (repeat' split) <;> simp

@[simp] theorem State.doubtFold_hbm (s : State) (tr : Trigger) (place : Nat) (gone : Bool) (id : Nat) : (State.doubtFold s tr place gone id).hbm = s.hbm := by
  unfold State.doubtFold
  dsimp only
  (repeat' split) <;> simp

@[simp] theorem State.reported_hbm (s : State) (tr : Trigger) (place : Nat) (folds : List Nat) : (State.reported s tr place folds).hbm = s.hbm := by
  simp [State.reported]

@[simp] theorem State.clockVerdict_hbm (s : State) (n : Nat) (lasting : Bool) (id : Nat) : (State.clockVerdict s n lasting id).hbm = s.hbm := by
  unfold State.clockVerdict
  (repeat' split) <;> simp

@[simp] theorem State.resolveClock_hbm (s : State) (n : Nat) (good : Bool) : (State.resolveClock s n good).hbm = s.hbm := by
  simp [State.resolveClock]

@[simp] theorem State.applyPatches_hbm (s : State) (f : Fold) (im : Image) : (State.applyPatches s f im).hbm = s.hbm := by
  unfold State.applyPatches
  dsimp only
  (repeat' split) <;> first | rfl | (simp (disch := (intros; (repeat' split) <;> simp)); done) | (simp only [State.hbm, Hbm.mk.injEq] <;> simp (disch := (intros; (repeat' split) <;> simp)) [↓hbm_mk, hbm_eqs])

@[simp] theorem State.restoreFold_hbm (s : State) (f : Fold) (im : Image) : (State.restoreFold s f im).hbm = s.hbm := by
  unfold State.restoreFold
  (repeat' split) <;> simp

@[simp] theorem State.raiseMoves_hbm (s : State) (f : Fold) (im : Image) (moves : List (Nat × Nat)) : (State.raiseMoves s f im moves).hbm = s.hbm := by
  unfold State.raiseMoves
  dsimp only
  (repeat' split) <;> first | rfl | (simp (disch := (intros; (repeat' split) <;> simp)); done) | (simp only [State.hbm, Hbm.mk.injEq] <;> simp (disch := (intros; (repeat' split) <;> simp)) [↓hbm_mk, hbm_eqs])

@[simp] theorem State.rebindMoved_hbm (s : State) (f : Fold) (im : Image) : (State.rebindMoved s f im).hbm = s.hbm := by
  unfold State.rebindMoved
  refine foldl_hbm _ (fun _ _ => ?_) _ _
  (repeat' split) <;> simp

@[simp] theorem State.finishRecovery_hbm (s : State) (id : Nat) : (State.finishRecovery s id).hbm = s.hbm := by
  unfold State.finishRecovery
  (repeat' split) <;> first | (simp; done) | (simp only [State.hbm, Hbm.mk.injEq] <;> simp [↓hbm_mk, hbm_eqs])

@[simp] theorem State.commitRecovery_hbm (s : State) (id : Nat) : (State.commitRecovery s id).hbm = s.hbm := by
  unfold State.commitRecovery
  (repeat' split) <;> simp

@[simp] theorem State.recoverAgain_hbm (s : State) : (State.recoverAgain s).hbm = s.hbm := by
  unfold State.recoverAgain
  refine foldl_hbm _ (fun _ _ => ?_) _ _
  (repeat' split) <;> simp

@[simp] theorem State.startConsoles_hbm (s : State) : (State.startConsoles s).hbm = s.hbm := by
  unfold State.startConsoles; simp only [State.hbm, Hbm.mk.injEq] <;> simp [↓hbm_mk, hbm_eqs]

@[simp] theorem State.becomeActive_hbm (s : State) (i : Nat) : (State.becomeActive s i).hbm = s.hbm := by
  unfold State.becomeActive; simp only [State.hbm, Hbm.mk.injEq] <;> simp [↓hbm_mk, hbm_eqs]

@[simp] theorem State.loadMap_hbm (s : State) : (State.loadMap s).hbm = s.hbm := by
  unfold State.loadMap
  (repeat' split) <;> first | (simp; done) | (simp only [State.hbm, Hbm.mk.injEq] <;> simp [↓hbm_mk, hbm_eqs])

@[simp] theorem State.edgeDieDoubt_hbm (s : State) (d cause : Nat) : (State.edgeDieDoubt s d cause).hbm = s.hbm := by
  simp [State.edgeDieDoubt]

@[simp] theorem State.dieVerdict_hbm (s : State) (d v : Nat) : (State.dieVerdict s d v).hbm = s.hbm := by
  unfold State.dieVerdict; simp only [State.hbm, Hbm.mk.injEq] <;> simp [↓hbm_mk, hbm_eqs]

@[simp] theorem State.endB2_hbm (s : State) : (State.endB2 s).hbm = s.hbm := by
  unfold State.endB2; simp only [State.hbm, Hbm.mk.injEq] <;> simp [↓hbm_mk, hbm_eqs]

@[simp] theorem State.enqueueTests_hbm (s : State) (ns : List Nat) : (State.enqueueTests s ns).hbm = s.hbm := by
  simp [State.enqueueTests]

@[simp] theorem State.carryHoles_hbm (s : State) : (State.carryHoles s).hbm = s.hbm := by
  simp [State.carryHoles]

@[simp] theorem State.startB4_hbm (s : State) : (State.startB4 s).hbm = s.hbm := by
  unfold State.startB4; simp only [State.hbm, Hbm.mk.injEq] <;> simp [↓hbm_mk, hbm_eqs]

@[simp] theorem State.defaultReserve_hbm (s : State) (f : Nat) : (State.defaultReserve s f).hbm = s.hbm := by
  unfold State.defaultReserve
  (repeat' split) <;> simp

@[simp] theorem State.bootReserves_hbm (s : State) : (State.bootReserves s).hbm = s.hbm := by
  unfold State.bootReserves
  (repeat' split) <;> simp

@[simp] theorem State.storedPorts_hbm (s : State) : (State.storedPorts s).hbm = s.hbm := by
  unfold State.storedPorts; simp only [State.hbm, Hbm.mk.injEq] <;> simp [↓hbm_mk, hbm_eqs]

@[simp] theorem State.stageHoles_hbm (s : State) : s.stageHoles.hbm = s.hbm := by
  unfold State.stageHoles
  refine foldl_hbm _ (fun v f => ?_) _ _
  split
  · rfl
  · exact foldl_hbm _ (fun w n => by split <;> simp) _ _

@[simp] theorem State.bootEntries_hbm (s : State) : (State.bootEntries s).hbm = s.hbm := by
  simp [State.bootEntries]

@[simp] theorem State.dropMaster_hbm (s : State) : (State.dropMaster s).hbm = s.hbm := by
  unfold State.dropMaster; simp only [State.hbm, Hbm.mk.injEq] <;> simp [↓hbm_mk, hbm_eqs]

@[simp] theorem State.bootAgain_hbm (s : State) : (State.bootAgain s).hbm = s.hbm := by
  unfold State.bootAgain
  (repeat' split) <;> first | (simp; done) | (simp only [State.hbm, Hbm.mk.injEq] <;> simp [↓hbm_mk, hbm_eqs])

@[simp] theorem State.retriesAgain_hbm (s : State) : (State.retriesAgain s).hbm = s.hbm := by
  simp [State.retriesAgain]

@[simp] theorem State.takeRole_hbm (s : State) (i : Nat) : (State.takeRole s i).hbm = s.hbm := by
  unfold State.takeRole; simp only [State.hbm, Hbm.mk.injEq] <;> simp [↓hbm_mk, hbm_eqs]

@[simp] theorem State.takeOverFrom_hbm (s : State) (a cause : Nat) : (s.takeOverFrom a cause).hbm = s.cutFlash.hbm := by
  simp [State.takeOverFrom]

@[simp] theorem State.pathLost_hbm (s : State) (i : Nat) (newly : Bool) (w : String) : (State.pathLost s i newly w).hbm = s.hbm := by
  simp [State.pathLost]

@[simp] theorem State.fwBell_hbm (s : State) (fault : Bool) (version : Nat) (kv : KVs) : (State.fwBell s fault version kv).hbm = s.hbm := by
  simp [State.fwBell]

@[simp] theorem State.setCon_hbm (s : State) (i : Nat) (c : Con) : (State.setCon s i c).hbm = s.hbm := by
  unfold State.setCon
  (repeat' split) <;> first | (simp; done) | (simp only [State.hbm, Hbm.mk.injEq] <;> simp [↓hbm_mk, hbm_eqs])

@[simp] theorem State.setHeld_hbm (s : State) (i : Nat) : (State.setHeld s i).hbm = s.hbm := by
  simp [State.setHeld]

@[simp] theorem State.breakLine_hbm (s : State) (i : Nat) : (State.breakLine s i).hbm = s.hbm := by
  simp [State.breakLine]

@[simp] theorem State.echoBytes_hbm (s : State) (i : Nat) (bs : List Byte) : (State.echoBytes s i bs).hbm = s.hbm := by
  simp [State.echoBytes]

@[simp] theorem State.endLine_hbm (s : State) (i : Nat) : (State.endLine s i).hbm = s.hbm := by
  simp [State.endLine]

@[simp] theorem State.closeTcp_hbm (s : State) (i : Nat) : (State.closeTcp s i).hbm = s.hbm := by
  unfold State.closeTcp; simp only [State.hbm, Hbm.mk.injEq] <;> simp [↓hbm_mk, hbm_eqs]

@[simp] theorem State.echoReply_hbm (s : State) (f : List Byte) : (s.echoReply f).2.hbm = s.hbm := by
  unfold State.echoReply
  simp

@[simp] theorem State.endLogin_hbm (s : State) (i : Nat) : (State.endLogin s i).hbm = s.hbm := by
  simp [State.endLogin]

@[simp] theorem State.loginFailed_hbm (s : State) (ln : Ln) (user : List Byte) (code : Nat) : (State.loginFailed s ln user code).hbm = s.hbm := by
  simp [State.loginFailed]

@[simp] theorem State.enter_hbm (s : State) (ln : Ln) (user : List Byte) (level : Level) : (State.enter s ln user level).hbm = s.hbm := by
  simp [State.enter]

theorem State.wrongForm_hbm (s : State) (ln : Ln) (key : String) : (s.wrongForm ln key).hbm = s.hbm := by
  unfold State.wrongForm
  exact State.sessionVerb_hbm _ _ _ (fun u => by simp)

@[simp] theorem State.takeResult_hbm (s : State) (k : Nat) (r : Req) (f : Flit) : (State.takeResult s k r f).hbm = s.hbm := by
  simp [State.takeResult]

@[simp] theorem State.cutReply_hbm (s : State) (k : Nat) (r : Req) : (State.cutReply s k r).hbm = s.hbm := by
  unfold State.cutReply; simp only [State.hbm, Hbm.mk.injEq] <;> simp [↓hbm_mk, hbm_eqs]

@[simp] theorem State.beginDrain_hbm (s : State) (k port : Nat) (f : Port → Port) : (State.beginDrain s k port f).hbm = s.hbm := by
  simp [State.beginDrain]

@[simp] theorem State.sensorFailed_hbm (s : State) (n which : Nat) : (State.sensorFailed s n which).hbm = s.hbm := by
  simp [State.sensorFailed]

@[simp] theorem State.thermalTrip_hbm (s : State) (n : Nat) (noSensor : Bool) : (State.thermalTrip s n noSensor).hbm = s.hbm := by
  simp [State.thermalTrip]

@[simp] theorem State.shcHot_hbm (s : State) (i cause : Nat) : (State.shcHot s i cause).hbm = s.hbm := by
  unfold State.shcHot; simp only [State.hbm, Hbm.mk.injEq] <;> simp [↓hbm_mk, hbm_eqs]

@[simp] theorem State.samplePad_hbm (s : State) (n : Nat) (a b : Int) : (State.samplePad s n a b).hbm = s.hbm := by
  simp [State.samplePad]

@[simp] theorem State.coolant_hbm (s : State) (addr : Nat) (r : Option Int) : (State.coolant s addr r).hbm = s.hbm := by
  unfold State.coolant
  (repeat' split) <;> first | (simp; done) | (simp only [State.hbm, Hbm.mk.injEq] <;> simp [↓hbm_mk, hbm_eqs])

@[simp] theorem State.loopOne_hbm (s : State) (i : Nat) (c : Option Bool) : (State.loopOne s i c).hbm = s.hbm := by
  unfold State.loopOne
  (repeat' split) <;> first | (simp; done) | (simp only [State.hbm, Hbm.mk.injEq] <;> simp [↓hbm_mk, hbm_eqs])

@[simp] theorem State.readReg_hbm (s : State) (addr : Nat) : (s.readReg addr).2.hbm = s.hbm := by
  unfold State.readReg
  dsimp only
  (repeat' split) <;> first | rfl | simp

@[simp] theorem State.clearSat_hbm (s : State) (n : Nat) (v : Word) : (State.clearSat s n v).hbm = s.hbm := by
  simp [State.clearSat]

@[simp] theorem State.loadWindow_hbm (s : State) (k : Nat) (v : Word) : (State.loadWindow s k v).hbm = s.hbm := by
  unfold State.loadWindow; simp only [State.hbm, Hbm.mk.injEq] <;> simp [↓hbm_mk, hbm_eqs]

@[simp] theorem State.writeReg_hbm (s : State) (w : Writable) (v mask : Word) : (State.writeReg s w v mask).hbm = s.hbm := by
  unfold State.writeReg
  (repeat' split) <;> first | (simp; done) | (simp only [State.hbm, Hbm.mk.injEq] <;> simp [↓hbm_mk, hbm_eqs])

@[simp] theorem State.poke_hbm (s : State) (ln : Ln) (addr : Nat) (v mask : Word) : (State.poke s ln addr v mask).hbm = s.hbm := by
  unfold State.poke
  (repeat' split) <;> simp

@[simp] theorem State.peekFrom_hbm (ln : Ln) (addr n done : Nat) (s : State) : (State.peekFrom ln addr n done s).hbm = s.hbm := by
  induction n generalizing done s with
  | zero => simp [State.peekFrom]
  | succ n ih =>
    rw [State.peekFrom]
    split <;> simp [ih]

end Sys2Proof.Machine
end

