-- ==== Sys2Proof/Laws/HbmExec.lean ====
section
/-! SUPPORT. What leaves the contents of every memory stack alone. Each command. -/
namespace Sys2Proof.Machine

open Sys2Proof

set_option linter.all false

theorem execFirmwareVerified_hbm (shc : ShcIx) (sigs : List Bool) (stepField : BitVec 4) (t : Time) (s : State) :
    ∃ next, execFirmwareVerified shc sigs stepField t s = .next next ∧ next.hbm = s.hbm := by
  refine ⟨_, rfl, State.event_hbm _ _ _ _ fun _ => ?_⟩
  dsimp only
  have h : ∀ (u : State) (o : Option (Nat × Firmware)) (i c : Nat), (match o with
      | some p => u.modShc i fun c => c.load p.1 p.2 u.now
      | none => u.shcDoubt i c).hbm = u.hbm := by
    intro u o i c
    split <;> simp
  have b : ({ s.tick t with boot := { (s.tick t).boot with fwTried := (s.tick t).boot.fwTried ++ [shc.val] } } : State).hbm = (s.tick t).hbm := rfl
  (repeat' with_reducible apply ite_eq_hbm)
  · exact (h _ _ _ _).trans b
  · rw [State.becomeActive_hbm]
    exact (h _ _ _ _).trans b
  · rw [State.takeoverBell_hbm, State.shcDoubt_hbm, State.becomeActive_hbm]
    exact (h _ _ _ _).trans b
  · exact (h _ _ _ _).trans b

theorem execRecoveryImageReceived_hbm (shc : ShcIx) (image : List Byte) (sigOk : Bool) (t : Time) (s : State) :
    ∃ next, execRecoveryImageReceived shc image sigOk t s = .next next ∧ next.hbm = s.hbm := by
  refine ⟨_, rfl, State.event_hbm _ _ _ _ fun _ => ?_⟩
  split
  · with_reducible apply ite_eq_hbm <;> simp
  · rfl

theorem execStagesSettled_hbm (failed : List Nat) (t : Time) (s : State) :
    ∃ next, execStagesSettled failed t s = .next next ∧ next.hbm = s.hbm := by
  refine ⟨_, rfl, ?_⟩
  apply State.event_hbm
  intro g
  (repeat' split) <;> first | rfl | (simp; done) | (simp only [State.hbm, Hbm.mk.injEq] <;> simp [↓hbm_mk, hbm_eqs]; done)

theorem execEdgeDieTestComplete_hbm (die : Nat) (passed : Bool) (t : Time) (s : State) :
    ∃ next, execEdgeDieTestComplete die passed t s = .next next ∧ next.hbm = s.hbm := by
  refine ⟨_, rfl, State.event_hbm _ _ _ _ fun _ => ?_⟩
  dsimp only
  rw [State.endB2_hbm]
  (repeat' with_reducible apply ite_eq_hbm) <;> simp

theorem execReferenceWaitTimeout_hbm (t : Time) (s : State) :
    ∃ next, execReferenceWaitTimeout t s = .next next ∧ next.hbm = s.hbm := by
  refine ⟨_, rfl, ?_⟩
  apply State.event_hbm
  intro g
  (repeat' split) <;> first | rfl | (simp; done) | (simp only [State.hbm, Hbm.mk.injEq] <;> simp [↓hbm_mk, hbm_eqs]; done)

theorem execAonRailsInWindow_hbm (t : Time) (s : State) :
    ∃ next, execAonRailsInWindow t s = .next next ∧ next.hbm = s.hbm := by
  refine ⟨_, rfl, State.event_hbm _ _ _ _ fun _ => ?_⟩
  rw [State.reinject_hbm]
  exact foldl_hbm _ (fun _ _ => by simp) _ _

theorem execCoreRailGroup_hbm (g : Fin 7) (t : Time) (s : State) :
    ∃ next, execCoreRailGroup g t s = .next next ∧ next.hbm = s.hbm := by
  refine ⟨_, rfl, State.event_hbm _ _ _ _ fun _ => ?_⟩
  dsimp only
  generalize (List.range 12).map _ = l
  split
  · rw [State.startB4_hbm]
    exact foldl_hbm _ (fun _ _ => by split <;> simp) _ _
  · exact foldl_hbm _ (fun _ _ => by split <;> simp) _ _

theorem execRingWaveAdvance_hbm (t : Time) (s : State) :
    ∃ next, execRingWaveAdvance t s = .next next ∧ next.hbm = s.hbm := by
  refine ⟨_, rfl, State.event_hbm _ _ _ _ fun _ => ?_⟩
  simp
  rfl

theorem execPaddockTestComplete_hbm (n : Pad) (v : PadVerdict) (t : Time) (s : State) :
    ∃ next, execPaddockTestComplete n v t s = .next next ∧ next.hbm = s.hbm := by
  refine ⟨_, rfl, ?_⟩
  apply State.event_hbm
  intro g
  (repeat' split) <;> first | rfl | (simp; done) | (simp only [State.hbm, Hbm.mk.injEq] <;> simp [↓hbm_mk, hbm_eqs]; done)

theorem execBorderTestComplete_hbm (x : EndIx) (failed : List (Fin 4)) (t : Time) (s : State) :
    ∃ next, execBorderTestComplete x failed t s = .next next ∧ next.hbm = s.hbm := by
  refine ⟨_, rfl, ?_⟩
  apply State.event_hbm
  intro g
  (repeat' split) <;> first | rfl | (simp; done) | (simp only [State.hbm, Hbm.mk.injEq] <;> simp [↓hbm_mk, hbm_eqs]; done)

theorem execSweep_hbm (t : Time) (s : State) :
    ∃ next, execSweep t s = .next next ∧ next.hbm = s.hbm := by
  refine ⟨_, rfl, State.event_hbm _ _ _ _ fun _ => ?_⟩
  dsimp only
  rw [State.endB4_hbm]
  refine (foldl_hbm _ (fun u n => ?_) _ _).trans ?_
  · with_reducible apply ite_eq_hbm
    · rfl
    · with_reducible apply ite_eq_hbm
      · simp
      · rw [State.ring_hbm]
        exact State.makeHole_hbm _ _ _ _
  · rfl

theorem execShowEngine_hbm (detail : Bool) (ln : Ln) (s : State) :
    ∃ next, execShowEngine detail ln s = .next next ∧ next.hbm = s.hbm := by
  refine ⟨_, rfl, ?_⟩
  apply State.judged_hbm
  intro u
  (repeat' split) <;> first | rfl | (simp; done) | (simp only [State.hbm, Hbm.mk.injEq] <;> simp [↓hbm_mk, hbm_eqs]; done)

theorem execShowBoot_hbm (ln : Ln) (s : State) :
    ∃ next, execShowBoot ln s = .next next ∧ next.hbm = s.hbm := by
  refine ⟨_, rfl, ?_⟩
  apply State.judged_hbm
  intro u
  (repeat' split) <;> first | rfl | (simp; done) | (simp only [State.hbm, Hbm.mk.injEq] <;> simp [↓hbm_mk, hbm_eqs]; done)

theorem execSetBoot_hbm (full : Bool) (ln : Ln) (s : State) :
    ∃ next, execSetBoot full ln s = .next next ∧ next.hbm = s.hbm := by
  refine ⟨_, rfl, State.judged_hbm _ _ _ _ _ fun u => ?_⟩
  split
  · simp
  · rename_i h
    rw [State.ok_hbm]
    exact setFlash_hbm _ (flashTakes_frozen h)

theorem execSetClear_hbm (at_ : List Loc) (ln : Ln) (s : State) :
    ∃ next, execSetClear at_ ln s = .next next ∧ next.hbm = s.hbm := by
  refine ⟨_, rfl, State.judged_hbm _ _ _ _ _ fun u => ?_⟩
  split
  · simp
  · split
    · simp
    · split
      · simp
      · rename_i h
        rw [State.ok_hbm]
        exact setFlash_hbm _ (flashTakes_frozen h)

theorem execClockStep_hbm (n : Pad) (t : Time) (s : State) :
    ∃ next, execClockStep n t s = .next next ∧ next.hbm = s.hbm := by
  refine ⟨_, rfl, ?_⟩
  apply State.event_hbm
  intro g
  (repeat' split) <;> first | rfl | (simp; done) | (simp only [State.hbm, Hbm.mk.injEq] <;> simp [↓hbm_mk, hbm_eqs]; done)

theorem execSetClock_hbm (at_ : Loc) (n : Nat) (ln : Ln) (s : State) :
    ∃ next, execSetClock at_ n ln s = .next next ∧ next.hbm = s.hbm := by
  refine ⟨_, rfl, ?_⟩
  apply State.judged_hbm
  intro u
  (repeat' split) <;> first | rfl | (simp; done) | (simp only [State.hbm, Hbm.mk.injEq] <;> simp [↓hbm_mk, hbm_eqs]; done)

theorem execIslandClockLoss_hbm (n : Pad) (t : Time) (s : State) :
    ∃ next, execIslandClockLoss n t s = .next next ∧ next.hbm = s.hbm := by
  refine ⟨_, rfl, ?_⟩
  apply State.event_hbm
  intro g
  (repeat' split) <;> first | rfl | (simp; done) | (simp only [State.hbm, Hbm.mk.injEq] <;> simp [↓hbm_mk, hbm_eqs]; done)

theorem execRingLoss_hbm (f : FieldIx) (t : Time) (s : State) :
    ∃ next, execRingLoss f t s = .next next ∧ next.hbm = s.hbm := by
  refine ⟨_, rfl, ?_⟩
  apply State.event_hbm
  intro g
  (repeat' split) <;> first | rfl | (simp; done) | (simp only [State.hbm, Hbm.mk.injEq] <;> simp [↓hbm_mk, hbm_eqs]; done)

theorem execMeshLock_hbm (worstPpm : Nat) (t : Time) (s : State) :
    ∃ next, execMeshLock worstPpm t s = .next next ∧ next.hbm = s.hbm := by
  refine ⟨_, rfl, ?_⟩
  apply State.event_hbm
  intro g
  (repeat' split) <;> first | rfl | (simp; done) | (simp only [State.hbm, Hbm.mk.injEq] <;> simp [↓hbm_mk, hbm_eqs]; done)

theorem execReferenceAbsent_hbm (edge : Option (Fin 4)) (t : Time) (s : State) :
    ∃ next, execReferenceAbsent edge t s = .next next ∧ next.hbm = s.hbm := by
  refine ⟨_, rfl, State.event_hbm _ _ _ _ fun _ => ?_⟩
  simp
  rfl

theorem execReferenceReturn_hbm (edge : Option (Fin 4)) (t : Time) (s : State) :
    ∃ next, execReferenceReturn edge t s = .next next ∧ next.hbm = s.hbm := by
  refine ⟨_, rfl, State.event_hbm _ _ _ _ fun _ => ?_⟩
  simp
  rfl

theorem execThrottleEval_hbm (f : FieldIx) (t : Time) (s : State) :
    ∃ next, execThrottleEval f t s = .next next ∧ next.hbm = s.hbm := by
  refine ⟨_, rfl, ?_⟩
  apply State.event_hbm
  intro g
  (repeat' split) <;> first | rfl | (simp; done) | (simp only [State.hbm, Hbm.mk.injEq] <;> simp [↓hbm_mk, hbm_eqs]; done)

theorem execConsoleBreak_hbm (con : Fin 2) (t : Time) (s : State) :
    ∃ next, execConsoleBreak con t s = .next next ∧ next.hbm = s.hbm := by
  refine ⟨_, rfl, ?_⟩
  apply State.event_hbm
  intro g
  (repeat' split) <;> first | rfl | (simp; done) | (simp only [State.hbm, Hbm.mk.injEq] <;> simp [↓hbm_mk, hbm_eqs]; done)

theorem execCtsChange_hbm (con : Fin 2) (asserted : Bool) (t : Time) (s : State) :
    ∃ next, execCtsChange con asserted t s = .next next ∧ next.hbm = s.hbm := by
  refine ⟨_, rfl, ?_⟩
  apply State.event_hbm
  intro g
  (repeat' split) <;> first | rfl | (simp; done) | (simp only [State.hbm, Hbm.mk.injEq] <;> simp [↓hbm_mk, hbm_eqs]; done)

theorem execConsoleCharacter_hbm (con : Fin 2) (b : Byte) (t : Time) (s : State) :
    ∃ next, execConsoleCharacter con b t s = .next next ∧ next.hbm = s.hbm := by
  refine ⟨_, rfl, ?_⟩
  apply State.event_hbm
  intro g
  (repeat' split) <;> first | rfl | (simp; done) | (simp only [State.hbm, Hbm.mk.injEq] <;> simp [↓hbm_mk, hbm_eqs]; done)

theorem execTcpConnect_hbm (t : Time) (s : State) :
    ∃ next, execTcpConnect t s = .next next ∧ next.hbm = s.hbm := by
  refine ⟨_, rfl, ?_⟩
  apply State.event_hbm
  intro g
  (repeat' split) <;> first | rfl | (simp; done) | (simp only [State.hbm, Hbm.mk.injEq] <;> simp [↓hbm_mk, hbm_eqs]; done)

theorem execTcpClose_hbm (sess : Fin 10) (t : Time) (s : State) :
    ∃ next, execTcpClose sess t s = .next next ∧ next.hbm = s.hbm := by
  refine ⟨_, rfl, ?_⟩
  apply State.event_hbm
  intro g
  (repeat' split) <;> first | rfl | (simp; done) | (simp only [State.hbm, Hbm.mk.injEq] <;> simp [↓hbm_mk, hbm_eqs]; done)

theorem execMgmtPacket_hbm (bytes : List Byte) (t : Time) (s : State) :
    ∃ next, execMgmtPacket bytes t s = .next next ∧ next.hbm = s.hbm := by
  refine ⟨_, rfl, ?_⟩
  apply State.event_hbm
  intro g
  (repeat' split) <;> first | rfl | (simp; done) | (simp only [State.hbm, Hbm.mk.injEq] <;> simp [↓hbm_mk, hbm_eqs]; done)

theorem execArpAnnounce_hbm (t : Time) (s : State) :
    ∃ next, execArpAnnounce t s = .next next ∧ next.hbm = s.hbm := by
  refine ⟨_, rfl, ?_⟩
  apply State.event_hbm
  intro g
  (repeat' split) <;> first | rfl | (simp; done) | (simp only [State.hbm, Hbm.mk.injEq] <;> simp [↓hbm_mk, hbm_eqs]; done)

theorem execIdleTimeout_hbm (sess : Fin 10) (t : Time) (s : State) :
    ∃ next, execIdleTimeout sess t s = .next next ∧ next.hbm = s.hbm := by
  refine ⟨_, rfl, ?_⟩
  apply State.event_hbm
  intro g
  (repeat' split) <;> first | rfl | (simp; done) | (simp only [State.hbm, Hbm.mk.injEq] <;> simp [↓hbm_mk, hbm_eqs]; done)

theorem execChallengeExpiry_hbm (sess : Fin 10) (t : Time) (s : State) :
    ∃ next, execChallengeExpiry sess t s = .next next ∧ next.hbm = s.hbm := by
  refine ⟨_, rfl, ?_⟩
  apply State.event_hbm
  intro g
  (repeat' split) <;> first | rfl | (simp; done) | (simp only [State.hbm, Hbm.mk.injEq] <;> simp [↓hbm_mk, hbm_eqs]; done)

theorem execLoginLockExpiry_hbm (sess : Fin 10) (t : Time) (s : State) :
    ∃ next, execLoginLockExpiry sess t s = .next next ∧ next.hbm = s.hbm := by
  refine ⟨_, rfl, ?_⟩
  apply State.event_hbm
  intro g
  (repeat' split) <;> first | rfl | (simp; done) | (simp only [State.hbm, Hbm.mk.injEq] <;> simp [↓hbm_mk, hbm_eqs]; done)

theorem execBellsLostNotice_hbm (sess : Fin 10) (t : Time) (s : State) :
    ∃ next, execBellsLostNotice sess t s = .next next ∧ next.hbm = s.hbm := by
  refine ⟨_, rfl, ?_⟩
  apply State.event_hbm
  intro g
  (repeat' split) <;> first | rfl | (simp; done) | (simp only [State.hbm, Hbm.mk.injEq] <;> simp [↓hbm_mk, hbm_eqs]; done)

theorem execLoginRequest_hbm (user : List Byte) (ln : Ln) (s : State) :
    ∃ next, execLoginRequest user ln s = .next next ∧ next.hbm = s.hbm := by
  refine ⟨_, rfl, ?_⟩
  apply State.sessionVerb_hbm
  intro u
  (repeat' split) <;> first | rfl | (simp; done) | (simp only [State.hbm, Hbm.mk.injEq] <;> simp [↓hbm_mk, hbm_eqs]; done)

theorem execLoginResponse_hbm (user sig : List Byte) (ln : Ln) (s : State) :
    ∃ next, execLoginResponse user sig ln s = .next next ∧ next.hbm = s.hbm := by
  refine ⟨_, rfl, ?_⟩
  apply State.sessionVerb_hbm
  intro u
  (repeat' split) <;> first | rfl | (simp; done) | (simp only [State.hbm, Hbm.mk.injEq] <;> simp [↓hbm_mk, hbm_eqs]; done)

theorem execLogout_hbm (ln : Ln) (s : State) :
    ∃ next, execLogout ln s = .next next ∧ next.hbm = s.hbm := by
  refine ⟨_, rfl, ?_⟩
  apply State.sessionVerb_hbm
  intro u
  (repeat' split) <;> first | rfl | (simp; done) | (simp only [State.hbm, Hbm.mk.injEq] <;> simp [↓hbm_mk, hbm_eqs]; done)

theorem execPing_hbm (ln : Ln) (s : State) :
    ∃ next, execPing ln s = .next next ∧ next.hbm = s.hbm := by
  refine ⟨_, rfl, ?_⟩
  apply State.sessionVerb_hbm
  intro u
  (repeat' split) <;> first | rfl | (simp; done) | (simp only [State.hbm, Hbm.mk.injEq] <;> simp [↓hbm_mk, hbm_eqs]; done)

theorem execMode_hbm (echo crc : Option Bool) (bells : Option (Fin 3)) (idle : Option Nat) (ln : Ln) (s : State) :
    ∃ next, execMode echo crc bells idle ln s = .next next ∧ next.hbm = s.hbm := by
  refine ⟨_, rfl, ?_⟩
  apply State.sessionVerb_hbm
  intro u
  (repeat' split) <;> first | rfl | (simp; done) | (simp only [State.hbm, Hbm.mk.injEq] <;> simp [↓hbm_mk, hbm_eqs]; done)

theorem execBadLine_hbm (sess : Fin 10) (bytes : List Byte) (overrun : Bool) (t : Time) (s : State) :
    ∃ next, execBadLine sess bytes overrun t s = .next next ∧ next.hbm = s.hbm := by
  refine ⟨_, rfl, ?_⟩
  dsimp only
  with_reducible apply ite_eq_hbm
  · rfl
  · with_reducible apply ite_eq_hbm
    · simp
    · split
      · simp
      · with_reducible apply ite_eq_hbm
        · rfl
        · split
          · with_reducible apply ite_eq_hbm
            · simp
            · with_reducible apply ite_eq_hbm
              · simp
              · rfl
          · simp

theorem execSetConsole_hbm (con : Nat) (baud : Option Nat) (flow : Option Bool) (ln : Ln) (s : State) :
    ∃ next, execSetConsole con baud flow ln s = .next next ∧ next.hbm = s.hbm := by
  refine ⟨_, rfl, State.judged_hbm _ _ _ _ _ fun u => State.inRange_hbm _ _ _ _ _ _ _ ?_⟩
  have hf : ∀ (a : State) (f : Flash), ({ a with flash := f } : State).hbm = a.hbm := fun _ _ => rfl
  split
  · simp
  · split
    · simp
    · dsimp only
      rw [State.setHeld_hbm, State.setCon_hbm, hf]
      exact State.ok_hbm _ _ _

theorem execSetNet_hbm (ip mask gw : BitVec 32) (mac : BitVec 48) (ln : Ln) (s : State) :
    ∃ next, execSetNet ip mask gw mac ln s = .next next ∧ next.hbm = s.hbm := by
  refine ⟨_, rfl, State.judged_hbm _ _ _ _ _ fun u => ?_⟩
  split
  · simp
  · rename_i h
    rw [State.ok_hbm]
    exact setFlash_hbm _ (flashTakes_frozen h)

theorem execOpenStage_hbm (firmware : Bool) (size : Nat) (ln : Ln) (s : State) :
    ∃ next, execOpenStage firmware size ln s = .next next ∧ next.hbm = s.hbm := by
  refine ⟨_, rfl, ?_⟩
  apply State.judged_hbm
  intro u
  (repeat' split) <;> first | rfl | (simp; done) | (simp only [State.hbm, Hbm.mk.injEq] <;> simp [↓hbm_mk, hbm_eqs]; done)

theorem execPutStage_hbm (id off : Nat) (data : List Byte) (ln : Ln) (s : State) :
    ∃ next, execPutStage id off data ln s = .next next ∧ next.hbm = s.hbm := by
  refine ⟨_, rfl, ?_⟩
  apply State.judged_hbm
  intro u
  (repeat' first | (refine State.inRange_hbm _ _ _ _ _ _ _ ?_) | (refine State.onFold_hbm _ _ _ _ ?_) | (refine State.onChannel_hbm _ _ _ _ ?_) | (refine State.guard_hbm _ _ _ _ ?_) | intro _ | split) <;> first | rfl | (simp; done) | (simp only [State.hbm, Hbm.mk.injEq] <;> simp [↓hbm_mk, hbm_eqs]; done) | (simp; rfl) | (simp; simp only [State.hbm, Hbm.mk.injEq] <;> simp [↓hbm_mk, hbm_eqs]; done) | (dsimp only; simp; done) | (simp (disch := (intros; (repeat' split) <;> (first | rfl | (simp; done) | (simp only [State.hbm, Hbm.mk.injEq] <;> simp [↓hbm_mk, hbm_eqs]; done) | (simp; rfl) | (simp; simp only [State.hbm, Hbm.mk.injEq] <;> simp [↓hbm_mk, hbm_eqs]; done)))); done) | (dsimp only; simp (disch := (intros; (repeat' split) <;> (first | rfl | (simp; done) | (simp only [State.hbm, Hbm.mk.injEq] <;> simp [↓hbm_mk, hbm_eqs]; done) | (simp; rfl) | (simp; simp only [State.hbm, Hbm.mk.injEq] <;> simp [↓hbm_mk, hbm_eqs]; done)))); done) | (simp (disch := (intros; (repeat' split) <;> (first | rfl | (simp; done) | (simp only [State.hbm, Hbm.mk.injEq] <;> simp [↓hbm_mk, hbm_eqs]; done) | (simp; rfl) | (simp; simp only [State.hbm, Hbm.mk.injEq] <;> simp [↓hbm_mk, hbm_eqs]; done)))); rfl) | (simp (disch := (intros; (repeat' split) <;> (first | rfl | (simp; done) | (simp only [State.hbm, Hbm.mk.injEq] <;> simp [↓hbm_mk, hbm_eqs]; done) | (simp; rfl) | (simp; simp only [State.hbm, Hbm.mk.injEq] <;> simp [↓hbm_mk, hbm_eqs]; done)))); simp only [State.hbm, Hbm.mk.injEq] <;> simp [↓hbm_mk, hbm_eqs]; done) | (dsimp only; simp (disch := (intros; (repeat' split) <;> (first | rfl | (simp; done) | (simp only [State.hbm, Hbm.mk.injEq] <;> simp [↓hbm_mk, hbm_eqs]; done) | (simp; rfl) | (simp; simp only [State.hbm, Hbm.mk.injEq] <;> simp [↓hbm_mk, hbm_eqs]; done)))); simp only [State.hbm, Hbm.mk.injEq] <;> simp [↓hbm_mk, hbm_eqs]; done)

theorem execShowStage_hbm (ln : Ln) (s : State) :
    ∃ next, execShowStage ln s = .next next ∧ next.hbm = s.hbm := by
  refine ⟨_, rfl, ?_⟩
  apply State.judged_hbm
  intro u
  (repeat' split) <;> first | rfl | (simp; done) | (simp only [State.hbm, Hbm.mk.injEq] <;> simp [↓hbm_mk, hbm_eqs]; done)

theorem execDropStage_hbm (id : Nat) (ln : Ln) (s : State) :
    ∃ next, execDropStage id ln s = .next next ∧ next.hbm = s.hbm := by
  refine ⟨_, rfl, ?_⟩
  apply State.judged_hbm
  intro u
  (repeat' split) <;> first | rfl | (simp; done) | (simp only [State.hbm, Hbm.mk.injEq] <;> simp [↓hbm_mk, hbm_eqs]; done)

theorem execAddUser_hbm (name : List Byte) (level : Level) (key : List Byte) (ln : Ln) (s : State) :
    ∃ next, execAddUser name level key ln s = .next next ∧ next.hbm = s.hbm := by
  refine ⟨_, rfl, ?_⟩
  split
  · exact State.wrongForm_hbm _ _ _
  · split
    · exact State.wrongForm_hbm _ _ _
    · refine State.judged_hbm _ _ _ _ _ fun u => ?_
      dsimp only
      split
      · simp
      · split
        · simp
        · split
          · simp
          · rename_i h
            rw [State.ok_hbm]
            exact setFlash_hbm _ (flashTakes_frozen h)

theorem execRemoveUser_hbm (name : List Byte) (ln : Ln) (s : State) :
    ∃ next, execRemoveUser name ln s = .next next ∧ next.hbm = s.hbm := by
  refine ⟨_, rfl, State.judged_hbm _ _ _ _ _ fun u => ?_⟩
  dsimp only
  split
  · simp
  · split
    · simp
    · split
      · simp
      · rename_i h
        rw [State.ok_hbm]
        exact setFlash_hbm _ (flashTakes_frozen h)

theorem execShowUsers_hbm (ln : Ln) (s : State) :
    ∃ next, execShowUsers ln s = .next next ∧ next.hbm = s.hbm := by
  refine ⟨_, rfl, ?_⟩
  apply State.judged_hbm
  intro u
  (repeat' split) <;> first | rfl | (simp; done) | (simp only [State.hbm, Hbm.mk.injEq] <;> simp [↓hbm_mk, hbm_eqs]; done)

theorem State.storePort_hbm (s : State) (ned port : Nat) (p : Port) (ptp : Bool) (h : s.frozen = false) :
    (s.storePort ned port p ptp).hbm = s.hbm := setFlash_hbm _ h

theorem execAdmission_hbm (k : NedIx) (f : FrameIn) (t : Time) (s : State) :
    ∃ next, execAdmission k f t s = .next next ∧ next.hbm = s.hbm := by
  refine ⟨_, rfl, ?_⟩
  apply State.event_hbm
  intro g
  (repeat' split) <;> first | rfl | (simp; done) | (simp only [State.hbm, Hbm.mk.injEq] <;> simp [↓hbm_mk, hbm_eqs]; done)

theorem execGroupVerdict_hbm (k : NedIx) (fid : Nat) (group : GroupRead) (t : Time) (s : State) :
    ∃ next, execGroupVerdict k fid group t s = .next next ∧ next.hbm = s.hbm := by
  refine ⟨_, rfl, ?_⟩
  apply State.event_hbm
  intro g
  (repeat' split) <;> first | rfl | (simp; done) | (simp only [State.hbm, Hbm.mk.injEq] <;> simp [↓hbm_mk, hbm_eqs]; done)

theorem execFcsVerdict_hbm (k : NedIx) (fid : Nat) (good : Bool) (t : Time) (s : State) :
    ∃ next, execFcsVerdict k fid good t s = .next next ∧ next.hbm = s.hbm := by
  refine ⟨_, rfl, ?_⟩
  apply State.event_hbm
  intro g
  (repeat' split) <;> first | rfl | (simp; done) | (simp only [State.hbm, Hbm.mk.injEq] <;> simp [↓hbm_mk, hbm_eqs]; done) | (simp; rfl) | (simp; simp only [State.hbm, Hbm.mk.injEq] <;> simp [↓hbm_mk, hbm_eqs]; done) | (dsimp only; simp; done) | (simp (disch := (intros; (repeat' split) <;> (first | rfl | (simp; done) | (simp only [State.hbm, Hbm.mk.injEq] <;> simp [↓hbm_mk, hbm_eqs]; done) | (simp; rfl) | (simp; simp only [State.hbm, Hbm.mk.injEq] <;> simp [↓hbm_mk, hbm_eqs]; done)))); done) | (dsimp only; simp (disch := (intros; (repeat' split) <;> (first | rfl | (simp; done) | (simp only [State.hbm, Hbm.mk.injEq] <;> simp [↓hbm_mk, hbm_eqs]; done) | (simp; rfl) | (simp; simp only [State.hbm, Hbm.mk.injEq] <;> simp [↓hbm_mk, hbm_eqs]; done)))); done) | (simp (disch := (intros; (repeat' split) <;> (first | rfl | (simp; done) | (simp only [State.hbm, Hbm.mk.injEq] <;> simp [↓hbm_mk, hbm_eqs]; done) | (simp; rfl) | (simp; simp only [State.hbm, Hbm.mk.injEq] <;> simp [↓hbm_mk, hbm_eqs]; done)))); rfl) | (simp (disch := (intros; (repeat' split) <;> (first | rfl | (simp; done) | (simp only [State.hbm, Hbm.mk.injEq] <;> simp [↓hbm_mk, hbm_eqs]; done) | (simp; rfl) | (simp; simp only [State.hbm, Hbm.mk.injEq] <;> simp [↓hbm_mk, hbm_eqs]; done)))); simp only [State.hbm, Hbm.mk.injEq] <;> simp [↓hbm_mk, hbm_eqs]; done) | (dsimp only; simp (disch := (intros; (repeat' split) <;> (first | rfl | (simp; done) | (simp only [State.hbm, Hbm.mk.injEq] <;> simp [↓hbm_mk, hbm_eqs]; done) | (simp; rfl) | (simp; simp only [State.hbm, Hbm.mk.injEq] <;> simp [↓hbm_mk, hbm_eqs]; done)))); simp only [State.hbm, Hbm.mk.injEq] <;> simp [↓hbm_mk, hbm_eqs]; done)

theorem execFrameTail_hbm (k : NedIx) (fid : Nat) (t : Time) (s : State) :
    ∃ next, execFrameTail k fid t s = .next next ∧ next.hbm = s.hbm := by
  refine ⟨_, rfl, ?_⟩
  apply State.event_hbm
  intro g
  (repeat' split) <;> first | rfl | (simp; done) | (simp only [State.hbm, Hbm.mk.injEq] <;> simp [↓hbm_mk, hbm_eqs]; done) | (simp; rfl) | (simp; simp only [State.hbm, Hbm.mk.injEq] <;> simp [↓hbm_mk, hbm_eqs]; done) | (dsimp only; simp; done) | (simp (disch := (intros; (repeat' split) <;> (first | rfl | (simp; done) | (simp only [State.hbm, Hbm.mk.injEq] <;> simp [↓hbm_mk, hbm_eqs]; done) | (simp; rfl) | (simp; simp only [State.hbm, Hbm.mk.injEq] <;> simp [↓hbm_mk, hbm_eqs]; done)))); done) | (dsimp only; simp (disch := (intros; (repeat' split) <;> (first | rfl | (simp; done) | (simp only [State.hbm, Hbm.mk.injEq] <;> simp [↓hbm_mk, hbm_eqs]; done) | (simp; rfl) | (simp; simp only [State.hbm, Hbm.mk.injEq] <;> simp [↓hbm_mk, hbm_eqs]; done)))); done) | (simp (disch := (intros; (repeat' split) <;> (first | rfl | (simp; done) | (simp only [State.hbm, Hbm.mk.injEq] <;> simp [↓hbm_mk, hbm_eqs]; done) | (simp; rfl) | (simp; simp only [State.hbm, Hbm.mk.injEq] <;> simp [↓hbm_mk, hbm_eqs]; done)))); rfl) | (simp (disch := (intros; (repeat' split) <;> (first | rfl | (simp; done) | (simp only [State.hbm, Hbm.mk.injEq] <;> simp [↓hbm_mk, hbm_eqs]; done) | (simp; rfl) | (simp; simp only [State.hbm, Hbm.mk.injEq] <;> simp [↓hbm_mk, hbm_eqs]; done)))); simp only [State.hbm, Hbm.mk.injEq] <;> simp [↓hbm_mk, hbm_eqs]; done) | (dsimp only; simp (disch := (intros; (repeat' split) <;> (first | rfl | (simp; done) | (simp only [State.hbm, Hbm.mk.injEq] <;> simp [↓hbm_mk, hbm_eqs]; done) | (simp; rfl) | (simp; simp only [State.hbm, Hbm.mk.injEq] <;> simp [↓hbm_mk, hbm_eqs]; done)))); simp only [State.hbm, Hbm.mk.injEq] <;> simp [↓hbm_mk, hbm_eqs]; done)

theorem execSpeculationAbort_hbm (k : NedIx) (fid : Nat) (t : Time) (s : State) :
    ∃ next, execSpeculationAbort k fid t s = .next next ∧ next.hbm = s.hbm := by
  refine ⟨_, rfl, ?_⟩
  apply State.event_hbm
  intro g
  (repeat' split) <;> first | rfl | (simp; done) | (simp only [State.hbm, Hbm.mk.injEq] <;> simp [↓hbm_mk, hbm_eqs]; done) | (simp; rfl) | (simp; simp only [State.hbm, Hbm.mk.injEq] <;> simp [↓hbm_mk, hbm_eqs]; done) | (dsimp only; simp; done) | (simp (disch := (intros; (repeat' split) <;> (first | rfl | (simp; done) | (simp only [State.hbm, Hbm.mk.injEq] <;> simp [↓hbm_mk, hbm_eqs]; done) | (simp; rfl) | (simp; simp only [State.hbm, Hbm.mk.injEq] <;> simp [↓hbm_mk, hbm_eqs]; done)))); done) | (dsimp only; simp (disch := (intros; (repeat' split) <;> (first | rfl | (simp; done) | (simp only [State.hbm, Hbm.mk.injEq] <;> simp [↓hbm_mk, hbm_eqs]; done) | (simp; rfl) | (simp; simp only [State.hbm, Hbm.mk.injEq] <;> simp [↓hbm_mk, hbm_eqs]; done)))); done) | (simp (disch := (intros; (repeat' split) <;> (first | rfl | (simp; done) | (simp only [State.hbm, Hbm.mk.injEq] <;> simp [↓hbm_mk, hbm_eqs]; done) | (simp; rfl) | (simp; simp only [State.hbm, Hbm.mk.injEq] <;> simp [↓hbm_mk, hbm_eqs]; done)))); rfl) | (simp (disch := (intros; (repeat' split) <;> (first | rfl | (simp; done) | (simp only [State.hbm, Hbm.mk.injEq] <;> simp [↓hbm_mk, hbm_eqs]; done) | (simp; rfl) | (simp; simp only [State.hbm, Hbm.mk.injEq] <;> simp [↓hbm_mk, hbm_eqs]; done)))); simp only [State.hbm, Hbm.mk.injEq] <;> simp [↓hbm_mk, hbm_eqs]; done) | (dsimp only; simp (disch := (intros; (repeat' split) <;> (first | rfl | (simp; done) | (simp only [State.hbm, Hbm.mk.injEq] <;> simp [↓hbm_mk, hbm_eqs]; done) | (simp; rfl) | (simp; simp only [State.hbm, Hbm.mk.injEq] <;> simp [↓hbm_mk, hbm_eqs]; done)))); simp only [State.hbm, Hbm.mk.injEq] <;> simp [↓hbm_mk, hbm_eqs]; done)

theorem execResultArrival_hbm (k : NedIx) (e : Fin 2) (lane : Lane) (vc : Bool) (t : Time) (s : State) :
    ∃ next, execResultArrival k e lane vc t s = .next next ∧ next.hbm = s.hbm := by
  refine ⟨_, rfl, ?_⟩
  apply State.event_hbm
  intro g
  dsimp only
  (repeat' split) <;> first | rfl | (simp; done) | (simp only [State.hbm, Hbm.mk.injEq] <;> simp [↓hbm_mk, hbm_eqs]; done)

theorem execReplyStart_hbm (k : NedIx) (fid : Nat) (t : Time) (s : State) :
    ∃ next, execReplyStart k fid t s = .next next ∧ next.hbm = s.hbm := by
  refine ⟨_, rfl, ?_⟩
  apply State.event_hbm
  intro g
  (repeat' split) <;> first | rfl | (simp; done) | (simp only [State.hbm, Hbm.mk.injEq] <;> simp [↓hbm_mk, hbm_eqs]; done)

theorem execPtpEvent_hbm (k : NedIx) (port : Fin 8) (bytes : List Byte) (egress : Bool) (sfd t : Time) (s : State) :
    ∃ next, execPtpEvent k port bytes egress sfd t s = .next next ∧ next.hbm = s.hbm := by
  refine ⟨_, rfl, State.event_hbm _ _ _ _ fun _ => ?_⟩
  dsimp only
  with_reducible apply ite_eq_hbm
  · exact (State.modNed_hbm _ _ _).trans (wire_hbm _ _)
  · exact (heard_hbm _ _).trans (State.modNed_hbm _ _ _)

theorem execRsFault_hbm (k : NedIx) (port : Fin 8) (remote : Bool) (t : Time) (s : State) :
    ∃ next, execRsFault k port remote t s = .next next ∧ next.hbm = s.hbm := by
  refine ⟨_, rfl, ?_⟩
  apply State.event_hbm
  intro g
  (repeat' split) <;> first | rfl | (simp; done) | (simp only [State.hbm, Hbm.mk.injEq] <;> simp [↓hbm_mk, hbm_eqs]; done)

theorem execRsFaultCleared_hbm (k : NedIx) (fault : PortFault) (t : Time) (s : State) :
    ∃ next, execRsFaultCleared k fault t s = .next next ∧ next.hbm = s.hbm := by
  refine ⟨_, rfl, ?_⟩
  apply State.event_hbm
  intro g
  (repeat' split) <;> first | rfl | (simp; done) | (simp only [State.hbm, Hbm.mk.injEq] <;> simp [↓hbm_mk, hbm_eqs]; done)

theorem execNedDoubt_hbm (k : NedIx) (cause : Nat) (t : Time) (s : State) :
    ∃ next, execNedDoubt k cause t s = .next next ∧ next.hbm = s.hbm := by
  refine ⟨_, rfl, ?_⟩
  apply State.event_hbm
  intro g
  (repeat' split) <;> first | rfl | (simp; done) | (simp only [State.hbm, Hbm.mk.injEq] <;> simp [↓hbm_mk, hbm_eqs]; done)

theorem execPwrFailNedStop_hbm (t : Time) (s : State) :
    ∃ next, execPwrFailNedStop t s = .next next ∧ next.hbm = s.hbm := by
  refine ⟨_, rfl, State.event_hbm _ _ _ _ fun _ => ?_⟩
  exact foldl_hbm _ (fun _ _ => by simp) _ _

theorem execKeepaliveLoss_hbm (die : Nat) (t : Time) (s : State) :
    ∃ next, execKeepaliveLoss die t s = .next next ∧ next.hbm = s.hbm := by
  refine ⟨_, rfl, ?_⟩
  apply State.event_hbm
  intro g
  (repeat' split) <;> first | rfl | (simp; done) | (simp only [State.hbm, Hbm.mk.injEq] <;> simp [↓hbm_mk, hbm_eqs]; done)

theorem execPortDrainComplete_hbm (k : NedIx) (port : Fin 8) (t : Time) (s : State) :
    ∃ next, execPortDrainComplete k port t s = .next next ∧ next.hbm = s.hbm := by
  refine ⟨_, rfl, ?_⟩
  apply State.event_hbm
  intro g
  (repeat' split) <;> first | rfl | (simp; done) | (simp only [State.hbm, Hbm.mk.injEq] <;> simp [↓hbm_mk, hbm_eqs]; done)

theorem execPortDrainExpiry_hbm (k : NedIx) (port : Fin 8) (t : Time) (s : State) :
    ∃ next, execPortDrainExpiry k port t s = .next next ∧ next.hbm = s.hbm := by
  refine ⟨_, rfl, ?_⟩
  apply State.event_hbm
  intro g
  (repeat' split) <;> first | rfl | (simp; done) | (simp only [State.hbm, Hbm.mk.injEq] <;> simp [↓hbm_mk, hbm_eqs]; done)

theorem execPortSettingsApplied_hbm (k : NedIx) (port : Fin 8) (t : Time) (s : State) :
    ∃ next, execPortSettingsApplied k port t s = .next next ∧ next.hbm = s.hbm := by
  refine ⟨_, rfl, ?_⟩
  apply State.event_hbm
  intro g
  dsimp only
  (repeat' split) <;> first | rfl | (simp; done) | (simp only [State.hbm, Hbm.mk.injEq] <;> simp [↓hbm_mk, hbm_eqs]; done)

theorem execPenRelease_hbm (k : NedIx) (t : Time) (s : State) :
    ∃ next, execPenRelease k t s = .next next ∧ next.hbm = s.hbm := by
  refine ⟨_, rfl, State.event_hbm _ _ _ _ fun _ => ?_⟩
  dsimp only
  split
  · rfl
  · rw [State.intoWafer_hbm, State.count_hbm, State.setNed_hbm]
    rfl

theorem execPenDeadlineExpiry_hbm (k : NedIx) (fid : Nat) (t : Time) (s : State) :
    ∃ next, execPenDeadlineExpiry k fid t s = .next next ∧ next.hbm = s.hbm := by
  refine ⟨_, rfl, ?_⟩
  apply State.event_hbm
  intro g
  (repeat' split) <;> first | rfl | (simp; done) | (simp only [State.hbm, Hbm.mk.injEq] <;> simp [↓hbm_mk, hbm_eqs]; done)

theorem execBurstToken_hbm (k : NedIx) (t : Time) (s : State) :
    ∃ next, execBurstToken k t s = .next next ∧ next.hbm = s.hbm := by
  refine ⟨_, rfl, ?_⟩
  apply State.event_hbm
  intro g
  dsimp only
  (repeat' split) <;> first | rfl | (simp; done) | (simp only [State.hbm, Hbm.mk.injEq] <;> simp [↓hbm_mk, hbm_eqs]; done)

theorem execInFlightLimit_hbm (k : NedIx) (fid : Nat) (t : Time) (s : State) :
    ∃ next, execInFlightLimit k fid t s = .next next ∧ next.hbm = s.hbm := by
  refine ⟨_, rfl, ?_⟩
  apply State.event_hbm
  intro g
  (repeat' split) <;> first | rfl | (simp; done) | (simp only [State.hbm, Hbm.mk.injEq] <;> simp [↓hbm_mk, hbm_eqs]; done)

theorem execStrayRefusal_hbm (k : NedIx) (tag : BitVec 16) (t : Time) (s : State) :
    ∃ next, execStrayRefusal k tag t s = .next next ∧ next.hbm = s.hbm := by
  refine ⟨_, rfl, ?_⟩
  apply State.event_hbm
  intro g
  (repeat' split) <;> first | rfl | (simp; done) | (simp only [State.hbm, Hbm.mk.injEq] <;> simp [↓hbm_mk, hbm_eqs]; done)

theorem execShowPort_hbm (ned : Nat) (port : Option Nat) (ln : Ln) (s : State) :
    ∃ next, execShowPort ned port ln s = .next next ∧ next.hbm = s.hbm := by
  refine ⟨_, rfl, ?_⟩
  apply State.judged_hbm
  intro u
  (repeat' split) <;> first | rfl | (simp; done) | (simp only [State.hbm, Hbm.mk.injEq] <;> simp [↓hbm_mk, hbm_eqs]; done)

theorem execSetLanes_hbm (ned group mode : Nat) (ln : Ln) (s : State) :
    ∃ next, execSetLanes ned group mode ln s = .next next ∧ next.hbm = s.hbm := by
  refine ⟨_, rfl, ?_⟩
  apply State.judged_hbm
  intro u
  (repeat' first | (refine State.inRange_hbm _ _ _ _ _ _ _ ?_) | (refine State.onFold_hbm _ _ _ _ ?_) | (refine State.onChannel_hbm _ _ _ _ ?_) | (refine State.guard_hbm _ _ _ _ ?_) | intro _ | split) <;> first | rfl | (simp; done) | (simp only [State.hbm, Hbm.mk.injEq] <;> simp [↓hbm_mk, hbm_eqs]; done) | (simp; rfl) | (simp; simp only [State.hbm, Hbm.mk.injEq] <;> simp [↓hbm_mk, hbm_eqs]; done) | (dsimp only; simp; done) | (simp (disch := (intros; (repeat' split) <;> (first | rfl | (simp; done) | (simp only [State.hbm, Hbm.mk.injEq] <;> simp [↓hbm_mk, hbm_eqs]; done) | (simp; rfl) | (simp; simp only [State.hbm, Hbm.mk.injEq] <;> simp [↓hbm_mk, hbm_eqs]; done)))); done) | (dsimp only; simp (disch := (intros; (repeat' split) <;> (first | rfl | (simp; done) | (simp only [State.hbm, Hbm.mk.injEq] <;> simp [↓hbm_mk, hbm_eqs]; done) | (simp; rfl) | (simp; simp only [State.hbm, Hbm.mk.injEq] <;> simp [↓hbm_mk, hbm_eqs]; done)))); done) | (simp (disch := (intros; (repeat' split) <;> (first | rfl | (simp; done) | (simp only [State.hbm, Hbm.mk.injEq] <;> simp [↓hbm_mk, hbm_eqs]; done) | (simp; rfl) | (simp; simp only [State.hbm, Hbm.mk.injEq] <;> simp [↓hbm_mk, hbm_eqs]; done)))); rfl) | (simp (disch := (intros; (repeat' split) <;> (first | rfl | (simp; done) | (simp only [State.hbm, Hbm.mk.injEq] <;> simp [↓hbm_mk, hbm_eqs]; done) | (simp; rfl) | (simp; simp only [State.hbm, Hbm.mk.injEq] <;> simp [↓hbm_mk, hbm_eqs]; done)))); simp only [State.hbm, Hbm.mk.injEq] <;> simp [↓hbm_mk, hbm_eqs]; done) | (dsimp only; simp (disch := (intros; (repeat' split) <;> (first | rfl | (simp; done) | (simp only [State.hbm, Hbm.mk.injEq] <;> simp [↓hbm_mk, hbm_eqs]; done) | (simp; rfl) | (simp; simp only [State.hbm, Hbm.mk.injEq] <;> simp [↓hbm_mk, hbm_eqs]; done)))); simp only [State.hbm, Hbm.mk.injEq] <;> simp [↓hbm_mk, hbm_eqs]; done)

theorem execSetPort_hbm (ned port : Nat) (mac : Option (BitVec 48)) (template : Option Nat) (ptp : Option Bool) (eq : Option Nat)
    (store : Bool) (ln : Ln) (s : State) :
    ∃ next, execSetPort ned port mac template ptp eq store ln s = .next next ∧ next.hbm = s.hbm := by
  refine ⟨_, rfl, State.judged_hbm _ _ _ _ _ fun u => ?_⟩
  refine State.inRange_hbm _ _ _ _ _ _ _ ?_
  dsimp only
  split
  · simp
  · refine State.inRange_hbm _ _ _ _ _ _ _ ?_
    split
    · simp
    · split
      · simp
      · split
        · simp
        · rename_i h
          simp only [State.await_hbm]
          split
          · rename_i hs
            rw [State.storePort_hbm]
            · simp
            · rw [frozen_of_core (State.beginDrain_core _ _ _ _)]
              simp [hs, State.flashTakes] at h
              exact h.2
          · simp

theorem execEnablePort_hbm (ned port : Nat) (ln : Ln) (s : State) :
    ∃ next, execEnablePort ned port ln s = .next next ∧ next.hbm = s.hbm := by
  refine ⟨_, rfl, ?_⟩
  apply State.judged_hbm
  intro u
  (repeat' split) <;> first | rfl | (simp; done) | (simp only [State.hbm, Hbm.mk.injEq] <;> simp [↓hbm_mk, hbm_eqs]; done)

theorem execDisablePort_hbm (ned port : Nat) (ln : Ln) (s : State) :
    ∃ next, execDisablePort ned port ln s = .next next ∧ next.hbm = s.hbm := by
  refine ⟨_, rfl, ?_⟩
  apply State.judged_hbm
  intro u
  (repeat' split) <;> first | rfl | (simp; done) | (simp only [State.hbm, Hbm.mk.injEq] <;> simp [↓hbm_mk, hbm_eqs]; done)

theorem execSetTemplate_hbm (ned index : Nat) (a : TemplateArgs) (ln : Ln) (s : State) :
    ∃ next, execSetTemplate ned index a ln s = .next next ∧ next.hbm = s.hbm := by
  refine ⟨_, rfl, ?_⟩
  apply State.judged_hbm
  intro u
  (repeat' first | (refine State.inRange_hbm _ _ _ _ _ _ _ ?_) | (refine State.onFold_hbm _ _ _ _ ?_) | (refine State.onChannel_hbm _ _ _ _ ?_) | (refine State.guard_hbm _ _ _ _ ?_) | intro _ | split) <;> first | rfl | (simp; done) | (simp only [State.hbm, Hbm.mk.injEq] <;> simp [↓hbm_mk, hbm_eqs]; done) | (simp; rfl) | (simp; simp only [State.hbm, Hbm.mk.injEq] <;> simp [↓hbm_mk, hbm_eqs]; done) | (dsimp only; simp; done) | (simp (disch := (intros; (repeat' split) <;> (first | rfl | (simp; done) | (simp only [State.hbm, Hbm.mk.injEq] <;> simp [↓hbm_mk, hbm_eqs]; done) | (simp; rfl) | (simp; simp only [State.hbm, Hbm.mk.injEq] <;> simp [↓hbm_mk, hbm_eqs]; done)))); done) | (dsimp only; simp (disch := (intros; (repeat' split) <;> (first | rfl | (simp; done) | (simp only [State.hbm, Hbm.mk.injEq] <;> simp [↓hbm_mk, hbm_eqs]; done) | (simp; rfl) | (simp; simp only [State.hbm, Hbm.mk.injEq] <;> simp [↓hbm_mk, hbm_eqs]; done)))); done) | (simp (disch := (intros; (repeat' split) <;> (first | rfl | (simp; done) | (simp only [State.hbm, Hbm.mk.injEq] <;> simp [↓hbm_mk, hbm_eqs]; done) | (simp; rfl) | (simp; simp only [State.hbm, Hbm.mk.injEq] <;> simp [↓hbm_mk, hbm_eqs]; done)))); rfl) | (simp (disch := (intros; (repeat' split) <;> (first | rfl | (simp; done) | (simp only [State.hbm, Hbm.mk.injEq] <;> simp [↓hbm_mk, hbm_eqs]; done) | (simp; rfl) | (simp; simp only [State.hbm, Hbm.mk.injEq] <;> simp [↓hbm_mk, hbm_eqs]; done)))); simp only [State.hbm, Hbm.mk.injEq] <;> simp [↓hbm_mk, hbm_eqs]; done) | (dsimp only; simp (disch := (intros; (repeat' split) <;> (first | rfl | (simp; done) | (simp only [State.hbm, Hbm.mk.injEq] <;> simp [↓hbm_mk, hbm_eqs]; done) | (simp; rfl) | (simp; simp only [State.hbm, Hbm.mk.injEq] <;> simp [↓hbm_mk, hbm_eqs]; done)))); simp only [State.hbm, Hbm.mk.injEq] <;> simp [↓hbm_mk, hbm_eqs]; done)

theorem execSetBurst_hbm (ned rate depth : Nat) (ln : Ln) (s : State) :
    ∃ next, execSetBurst ned rate depth ln s = .next next ∧ next.hbm = s.hbm := by
  refine ⟨_, rfl, ?_⟩
  apply State.judged_hbm
  intro u
  (repeat' first | (refine State.inRange_hbm _ _ _ _ _ _ _ ?_) | (refine State.onFold_hbm _ _ _ _ ?_) | (refine State.onChannel_hbm _ _ _ _ ?_) | (refine State.guard_hbm _ _ _ _ ?_) | intro _ | split) <;> first | rfl | (simp; done) | (simp only [State.hbm, Hbm.mk.injEq] <;> simp [↓hbm_mk, hbm_eqs]; done) | (simp; rfl) | (simp; simp only [State.hbm, Hbm.mk.injEq] <;> simp [↓hbm_mk, hbm_eqs]; done) | (dsimp only; simp; done) | (simp (disch := (intros; (repeat' split) <;> (first | rfl | (simp; done) | (simp only [State.hbm, Hbm.mk.injEq] <;> simp [↓hbm_mk, hbm_eqs]; done) | (simp; rfl) | (simp; simp only [State.hbm, Hbm.mk.injEq] <;> simp [↓hbm_mk, hbm_eqs]; done)))); done) | (dsimp only; simp (disch := (intros; (repeat' split) <;> (first | rfl | (simp; done) | (simp only [State.hbm, Hbm.mk.injEq] <;> simp [↓hbm_mk, hbm_eqs]; done) | (simp; rfl) | (simp; simp only [State.hbm, Hbm.mk.injEq] <;> simp [↓hbm_mk, hbm_eqs]; done)))); done) | (simp (disch := (intros; (repeat' split) <;> (first | rfl | (simp; done) | (simp only [State.hbm, Hbm.mk.injEq] <;> simp [↓hbm_mk, hbm_eqs]; done) | (simp; rfl) | (simp; simp only [State.hbm, Hbm.mk.injEq] <;> simp [↓hbm_mk, hbm_eqs]; done)))); rfl) | (simp (disch := (intros; (repeat' split) <;> (first | rfl | (simp; done) | (simp only [State.hbm, Hbm.mk.injEq] <;> simp [↓hbm_mk, hbm_eqs]; done) | (simp; rfl) | (simp; simp only [State.hbm, Hbm.mk.injEq] <;> simp [↓hbm_mk, hbm_eqs]; done)))); simp only [State.hbm, Hbm.mk.injEq] <;> simp [↓hbm_mk, hbm_eqs]; done) | (dsimp only; simp (disch := (intros; (repeat' split) <;> (first | rfl | (simp; done) | (simp only [State.hbm, Hbm.mk.injEq] <;> simp [↓hbm_mk, hbm_eqs]; done) | (simp; rfl) | (simp; simp only [State.hbm, Hbm.mk.injEq] <;> simp [↓hbm_mk, hbm_eqs]; done)))); simp only [State.hbm, Hbm.mk.injEq] <;> simp [↓hbm_mk, hbm_eqs]; done)

theorem execSetPtp_hbm (ned port : Nat) (ln : Ln) (s : State) :
    ∃ next, execSetPtp ned port ln s = .next next ∧ next.hbm = s.hbm := by
  refine ⟨_, rfl, ?_⟩
  apply State.judged_hbm
  intro u
  (repeat' first | (refine State.inRange_hbm _ _ _ _ _ _ _ ?_) | (refine State.onFold_hbm _ _ _ _ ?_) | (refine State.onChannel_hbm _ _ _ _ ?_) | (refine State.guard_hbm _ _ _ _ ?_) | intro _ | split) <;> first | rfl | (simp; done) | (simp only [State.hbm, Hbm.mk.injEq] <;> simp [↓hbm_mk, hbm_eqs]; done) | (simp; rfl) | (simp; simp only [State.hbm, Hbm.mk.injEq] <;> simp [↓hbm_mk, hbm_eqs]; done) | (dsimp only; simp; done) | (simp (disch := (intros; (repeat' split) <;> (first | rfl | (simp; done) | (simp only [State.hbm, Hbm.mk.injEq] <;> simp [↓hbm_mk, hbm_eqs]; done) | (simp; rfl) | (simp; simp only [State.hbm, Hbm.mk.injEq] <;> simp [↓hbm_mk, hbm_eqs]; done)))); done) | (dsimp only; simp (disch := (intros; (repeat' split) <;> (first | rfl | (simp; done) | (simp only [State.hbm, Hbm.mk.injEq] <;> simp [↓hbm_mk, hbm_eqs]; done) | (simp; rfl) | (simp; simp only [State.hbm, Hbm.mk.injEq] <;> simp [↓hbm_mk, hbm_eqs]; done)))); done) | (simp (disch := (intros; (repeat' split) <;> (first | rfl | (simp; done) | (simp only [State.hbm, Hbm.mk.injEq] <;> simp [↓hbm_mk, hbm_eqs]; done) | (simp; rfl) | (simp; simp only [State.hbm, Hbm.mk.injEq] <;> simp [↓hbm_mk, hbm_eqs]; done)))); rfl) | (simp (disch := (intros; (repeat' split) <;> (first | rfl | (simp; done) | (simp only [State.hbm, Hbm.mk.injEq] <;> simp [↓hbm_mk, hbm_eqs]; done) | (simp; rfl) | (simp; simp only [State.hbm, Hbm.mk.injEq] <;> simp [↓hbm_mk, hbm_eqs]; done)))); simp only [State.hbm, Hbm.mk.injEq] <;> simp [↓hbm_mk, hbm_eqs]; done) | (dsimp only; simp (disch := (intros; (repeat' split) <;> (first | rfl | (simp; done) | (simp only [State.hbm, Hbm.mk.injEq] <;> simp [↓hbm_mk, hbm_eqs]; done) | (simp; rfl) | (simp; simp only [State.hbm, Hbm.mk.injEq] <;> simp [↓hbm_mk, hbm_eqs]; done)))); simp only [State.hbm, Hbm.mk.injEq] <;> simp [↓hbm_mk, hbm_eqs]; done)

theorem execSetBucket_hbm (ned index fold rate depth : Nat) (burst pen : Option Bool) (ln : Ln) (s : State) :
    ∃ next, execSetBucket ned index fold rate depth burst pen ln s = .next next ∧ next.hbm = s.hbm := by
  refine ⟨_, rfl, ?_⟩
  apply State.judged_hbm
  intro u
  (repeat' first | (refine State.inRange_hbm _ _ _ _ _ _ _ ?_) | (refine State.onFold_hbm _ _ _ _ ?_) | (refine State.onChannel_hbm _ _ _ _ ?_) | (refine State.guard_hbm _ _ _ _ ?_) | intro _ | split) <;> first | rfl | (simp; done) | (simp only [State.hbm, Hbm.mk.injEq] <;> simp [↓hbm_mk, hbm_eqs]; done) | (simp; rfl) | (simp; simp only [State.hbm, Hbm.mk.injEq] <;> simp [↓hbm_mk, hbm_eqs]; done) | (dsimp only; simp; done) | (simp (disch := (intros; (repeat' split) <;> (first | rfl | (simp; done) | (simp only [State.hbm, Hbm.mk.injEq] <;> simp [↓hbm_mk, hbm_eqs]; done) | (simp; rfl) | (simp; simp only [State.hbm, Hbm.mk.injEq] <;> simp [↓hbm_mk, hbm_eqs]; done)))); done) | (dsimp only; simp (disch := (intros; (repeat' split) <;> (first | rfl | (simp; done) | (simp only [State.hbm, Hbm.mk.injEq] <;> simp [↓hbm_mk, hbm_eqs]; done) | (simp; rfl) | (simp; simp only [State.hbm, Hbm.mk.injEq] <;> simp [↓hbm_mk, hbm_eqs]; done)))); done) | (simp (disch := (intros; (repeat' split) <;> (first | rfl | (simp; done) | (simp only [State.hbm, Hbm.mk.injEq] <;> simp [↓hbm_mk, hbm_eqs]; done) | (simp; rfl) | (simp; simp only [State.hbm, Hbm.mk.injEq] <;> simp [↓hbm_mk, hbm_eqs]; done)))); rfl) | (simp (disch := (intros; (repeat' split) <;> (first | rfl | (simp; done) | (simp only [State.hbm, Hbm.mk.injEq] <;> simp [↓hbm_mk, hbm_eqs]; done) | (simp; rfl) | (simp; simp only [State.hbm, Hbm.mk.injEq] <;> simp [↓hbm_mk, hbm_eqs]; done)))); simp only [State.hbm, Hbm.mk.injEq] <;> simp [↓hbm_mk, hbm_eqs]; done) | (dsimp only; simp (disch := (intros; (repeat' split) <;> (first | rfl | (simp; done) | (simp only [State.hbm, Hbm.mk.injEq] <;> simp [↓hbm_mk, hbm_eqs]; done) | (simp; rfl) | (simp; simp only [State.hbm, Hbm.mk.injEq] <;> simp [↓hbm_mk, hbm_eqs]; done)))); simp only [State.hbm, Hbm.mk.injEq] <;> simp [↓hbm_mk, hbm_eqs]; done)

theorem execShowBucket_hbm (ned index : Nat) (ln : Ln) (s : State) :
    ∃ next, execShowBucket ned index ln s = .next next ∧ next.hbm = s.hbm := by
  refine ⟨_, rfl, ?_⟩
  apply State.judged_hbm
  intro u
  (repeat' split) <;> first | rfl | (simp; done) | (simp only [State.hbm, Hbm.mk.injEq] <;> simp [↓hbm_mk, hbm_eqs]; done)

theorem execFlockFormation_hbm (members : List MemberInfo) (t : Time) (s : State) :
    ∃ next, execFlockFormation members t s = .next next ∧ next.hbm = s.hbm := by
  refine ⟨_, rfl, ?_⟩
  apply State.event_hbm
  intro g
  (repeat' split) <;> first | rfl | (simp; done) | (simp only [State.hbm, Hbm.mk.injEq] <;> simp [↓hbm_mk, hbm_eqs]; done)

theorem execCreateFold_hbm (a : FoldArgs) (ln : Ln) (s : State) :
    ∃ next, execCreateFold a ln s = .next next ∧ next.hbm = s.hbm := by
  refine ⟨_, rfl, State.judged_hbm _ _ _ _ _ fun u => State.guard_hbm _ _ _ _ ?_⟩
  split
  · simp
  · rename_i h
    rw [State.creationEnds_hbm, State.await_hbm, State.mirror_hbm, State.enterFold_hbm, State.leaseAll_hbm h]

theorem execResizeFold_hbm (id : Nat) (a : ResizeArgs) (ln : Ln) (s : State) :
    ∃ next, execResizeFold id a ln s = .next next ∧ next.hbm = s.hbm := by
  refine ⟨_, rfl, State.judged_hbm _ _ _ _ _ fun u => State.onFold_hbm _ _ _ _ fun f => State.guard_hbm _ _ _ _ ?_⟩
  split
  · simp
  · rename_i h
    dsimp only
    rw [State.ok_hbm, State.mirror_hbm, State.resizeTo_hbm, State.leaseAll_hbm h]

theorem execDestroyFold_hbm (id : Nat) (ln : Ln) (s : State) :
    ∃ next, execDestroyFold id ln s = .next next ∧ next.hbm = s.hbm := by
  refine ⟨_, rfl, ?_⟩
  apply State.judged_hbm
  intro u
  (repeat' split) <;> first | rfl | (simp; done) | (simp only [State.hbm, Hbm.mk.injEq] <;> simp [↓hbm_mk, hbm_eqs]; done)

theorem execReleaseDrainExpiry_hbm (fold : Nat) (t : Time) (s : State) :
    ∃ next, execReleaseDrainExpiry fold t s = .next next ∧ next.hbm = s.hbm := by
  refine ⟨_, rfl, ?_⟩
  apply State.event_hbm
  intro g
  (repeat' split) <;> first | rfl | (simp; done) | (simp only [State.hbm, Hbm.mk.injEq] <;> simp [↓hbm_mk, hbm_eqs]; done)

theorem execScrubRecord_hbm (fold : Nat) (t : Time) (s : State) :
    ∃ next, execScrubRecord fold t s = .next next ∧ next.hbm = s.hbm := by
  refine ⟨_, rfl, ?_⟩
  apply State.event_hbm
  intro g
  (repeat' split) <;> first | rfl | (simp; done) | (simp only [State.hbm, Hbm.mk.injEq] <;> simp [↓hbm_mk, hbm_eqs]; done)

theorem execSetFold_hbm (id : Nat) (ckpt : Option (Option Nat)) (pen weight : Option Nat) (ln : Ln) (s : State) :
    ∃ next, execSetFold id ckpt pen weight ln s = .next next ∧ next.hbm = s.hbm := by
  refine ⟨_, rfl, ?_⟩
  apply State.judged_hbm
  intro u
  (repeat' split) <;> first | rfl | (simp; done) | (simp only [State.hbm, Hbm.mk.injEq] <;> simp [↓hbm_mk, hbm_eqs]; done)

theorem execSetRotation_hbm (med : Nat) (slots : Option (List Nat)) (ln : Ln) (s : State) :
    ∃ next, execSetRotation med slots ln s = .next next ∧ next.hbm = s.hbm := by
  refine ⟨_, rfl, ?_⟩
  apply State.judged_hbm
  intro u
  dsimp only
  (repeat' split) <;> first | rfl | (simp; done) | (simp only [State.hbm, Hbm.mk.injEq] <;> simp [↓hbm_mk, hbm_eqs]; done)

theorem execShowFold_hbm (id : Nat) (ln : Ln) (s : State) :
    ∃ next, execShowFold id ln s = .next next ∧ next.hbm = s.hbm := by
  refine ⟨_, rfl, ?_⟩
  apply State.judged_hbm
  intro u
  (repeat' split) <;> first | rfl | (simp; done) | (simp only [State.hbm, Hbm.mk.injEq] <;> simp [↓hbm_mk, hbm_eqs]; done)

theorem execShowFolds_hbm (ln : Ln) (s : State) :
    ∃ next, execShowFolds ln s = .next next ∧ next.hbm = s.hbm := by
  refine ⟨_, rfl, ?_⟩
  apply State.judged_hbm
  intro u
  (repeat' split) <;> first | rfl | (simp; done) | (simp only [State.hbm, Hbm.mk.injEq] <;> simp [↓hbm_mk, hbm_eqs]; done)

theorem execShowKeys_hbm (fold : Nat) (ln : Ln) (s : State) :
    ∃ next, execShowKeys fold ln s = .next next ∧ next.hbm = s.hbm := by
  refine ⟨_, rfl, ?_⟩
  apply State.judged_hbm
  intro u
  (repeat' split) <;> first | rfl | (simp; done) | (simp only [State.hbm, Hbm.mk.injEq] <;> simp [↓hbm_mk, hbm_eqs]; done)

theorem execExportKey_hbm (fold : Nat) (ln : Ln) (s : State) :
    ∃ next, execExportKey fold ln s = .next next ∧ next.hbm = s.hbm := by
  refine ⟨_, rfl, ?_⟩
  apply State.judged_hbm
  intro u
  (repeat' split) <;> first | rfl | (simp; done) | (simp only [State.hbm, Hbm.mk.injEq] <;> simp [↓hbm_mk, hbm_eqs]; done)

theorem execCreateChannel_hbm (fold entry : Nat) (index : Option Nat) (ticket : Option (BitVec 32)) (deadline : Option Nat)
    (spec : Option Bool) (bind : List BindArg) (ln : Ln) (s : State) :
    ∃ next, execCreateChannel fold entry index ticket deadline spec bind ln s = .next next ∧ next.hbm = s.hbm := by
  refine ⟨_, rfl, State.judged_hbm _ _ _ _ _ fun u => State.onFold_hbm _ _ _ _ fun f => ?_⟩
  split
  · simp
  · split
    · simp
    · split
      · simp
      · split
        · simp
        · split
          · simp
          · refine State.guard_hbm _ _ _ _ ?_
            split
            · simp
            · rename_i h
              rw [State.ok_hbm, State.mirror_hbm, State.clearTallies_hbm, State.putChannel_hbm, State.bindAll_hbm h,
                State.emptyClosed_hbm]
              split <;> rfl

theorem execBindChannel_hbm (handle : BitVec 32) (add : BindArg) (ln : Ln) (s : State) :
    ∃ next, execBindChannel handle add ln s = .next next ∧ next.hbm = s.hbm := by
  refine ⟨_, rfl, State.judged_hbm _ _ _ _ _ fun u => State.onChannel_hbm _ _ _ _ fun c => ?_⟩
  split
  · simp
  · with_reducible apply ite_eq_hbm
    · simp
    · with_reducible apply ite_eq_hbm
      · simp
      · split
        · simp
        · dsimp only
          split
          · simp
          · rename_i h
            rw [State.ok_hbm, State.mirror_hbm, State.putChannel_hbm]
            exact State.bindOne_hbm h

theorem execUnbindChannel_hbm (handle : BitVec 32) (ned port : Nat) (ln : Ln) (s : State) :
    ∃ next, execUnbindChannel handle ned port ln s = .next next ∧ next.hbm = s.hbm := by
  refine ⟨_, rfl, ?_⟩
  apply State.judged_hbm
  intro u
  (repeat' first | (refine State.inRange_hbm _ _ _ _ _ _ _ ?_) | (refine State.onFold_hbm _ _ _ _ ?_) | (refine State.onChannel_hbm _ _ _ _ ?_) | (refine State.guard_hbm _ _ _ _ ?_) | intro _ | split) <;> first | rfl | (simp; done) | (simp only [State.hbm, Hbm.mk.injEq] <;> simp [↓hbm_mk, hbm_eqs]; done) | (simp; rfl) | (simp; simp only [State.hbm, Hbm.mk.injEq] <;> simp [↓hbm_mk, hbm_eqs]; done) | (dsimp only; simp; done) | (simp (disch := (intros; (repeat' split) <;> (first | rfl | (simp; done) | (simp only [State.hbm, Hbm.mk.injEq] <;> simp [↓hbm_mk, hbm_eqs]; done) | (simp; rfl) | (simp; simp only [State.hbm, Hbm.mk.injEq] <;> simp [↓hbm_mk, hbm_eqs]; done)))); done) | (dsimp only; simp (disch := (intros; (repeat' split) <;> (first | rfl | (simp; done) | (simp only [State.hbm, Hbm.mk.injEq] <;> simp [↓hbm_mk, hbm_eqs]; done) | (simp; rfl) | (simp; simp only [State.hbm, Hbm.mk.injEq] <;> simp [↓hbm_mk, hbm_eqs]; done)))); done) | (simp (disch := (intros; (repeat' split) <;> (first | rfl | (simp; done) | (simp only [State.hbm, Hbm.mk.injEq] <;> simp [↓hbm_mk, hbm_eqs]; done) | (simp; rfl) | (simp; simp only [State.hbm, Hbm.mk.injEq] <;> simp [↓hbm_mk, hbm_eqs]; done)))); rfl) | (simp (disch := (intros; (repeat' split) <;> (first | rfl | (simp; done) | (simp only [State.hbm, Hbm.mk.injEq] <;> simp [↓hbm_mk, hbm_eqs]; done) | (simp; rfl) | (simp; simp only [State.hbm, Hbm.mk.injEq] <;> simp [↓hbm_mk, hbm_eqs]; done)))); simp only [State.hbm, Hbm.mk.injEq] <;> simp [↓hbm_mk, hbm_eqs]; done) | (dsimp only; simp (disch := (intros; (repeat' split) <;> (first | rfl | (simp; done) | (simp only [State.hbm, Hbm.mk.injEq] <;> simp [↓hbm_mk, hbm_eqs]; done) | (simp; rfl) | (simp; simp only [State.hbm, Hbm.mk.injEq] <;> simp [↓hbm_mk, hbm_eqs]; done)))); simp only [State.hbm, Hbm.mk.injEq] <;> simp [↓hbm_mk, hbm_eqs]; done)

theorem execDestroyChannel_hbm (handle : BitVec 32) (ln : Ln) (s : State) :
    ∃ next, execDestroyChannel handle ln s = .next next ∧ next.hbm = s.hbm := by
  refine ⟨_, rfl, ?_⟩
  apply State.judged_hbm
  intro u
  (repeat' split) <;> first | rfl | (simp; done) | (simp only [State.hbm, Hbm.mk.injEq] <;> simp [↓hbm_mk, hbm_eqs]; done)

theorem execShowChannel_hbm (handle : Sum (BitVec 32) Nat) (ln : Ln) (s : State) :
    ∃ next, execShowChannel handle ln s = .next next ∧ next.hbm = s.hbm := by
  refine ⟨_, rfl, ?_⟩
  apply State.judged_hbm
  intro u
  (repeat' split) <;> first | rfl | (simp; done) | (simp only [State.hbm, Hbm.mk.injEq] <;> simp [↓hbm_mk, hbm_eqs]; done)

theorem execOpenSession_hbm (fold num anchor cls cap : Nat) (ln : Ln) (s : State) :
    ∃ next, execOpenSession fold num anchor cls cap ln s = .next next ∧ next.hbm = s.hbm := by
  refine ⟨_, rfl, ?_⟩
  apply State.judged_hbm
  intro u
  (repeat' first | (refine State.inRange_hbm _ _ _ _ _ _ _ ?_) | (refine State.onFold_hbm _ _ _ _ ?_) | (refine State.onChannel_hbm _ _ _ _ ?_) | (refine State.guard_hbm _ _ _ _ ?_) | intro _ | split) <;> first | rfl | (simp; done) | (simp only [State.hbm, Hbm.mk.injEq] <;> simp [↓hbm_mk, hbm_eqs]; done) | (simp; rfl) | (simp; simp only [State.hbm, Hbm.mk.injEq] <;> simp [↓hbm_mk, hbm_eqs]; done) | (dsimp only; simp; done) | (simp (disch := (intros; (repeat' split) <;> (first | rfl | (simp; done) | (simp only [State.hbm, Hbm.mk.injEq] <;> simp [↓hbm_mk, hbm_eqs]; done) | (simp; rfl) | (simp; simp only [State.hbm, Hbm.mk.injEq] <;> simp [↓hbm_mk, hbm_eqs]; done)))); done) | (dsimp only; simp (disch := (intros; (repeat' split) <;> (first | rfl | (simp; done) | (simp only [State.hbm, Hbm.mk.injEq] <;> simp [↓hbm_mk, hbm_eqs]; done) | (simp; rfl) | (simp; simp only [State.hbm, Hbm.mk.injEq] <;> simp [↓hbm_mk, hbm_eqs]; done)))); done) | (simp (disch := (intros; (repeat' split) <;> (first | rfl | (simp; done) | (simp only [State.hbm, Hbm.mk.injEq] <;> simp [↓hbm_mk, hbm_eqs]; done) | (simp; rfl) | (simp; simp only [State.hbm, Hbm.mk.injEq] <;> simp [↓hbm_mk, hbm_eqs]; done)))); rfl) | (simp (disch := (intros; (repeat' split) <;> (first | rfl | (simp; done) | (simp only [State.hbm, Hbm.mk.injEq] <;> simp [↓hbm_mk, hbm_eqs]; done) | (simp; rfl) | (simp; simp only [State.hbm, Hbm.mk.injEq] <;> simp [↓hbm_mk, hbm_eqs]; done)))); simp only [State.hbm, Hbm.mk.injEq] <;> simp [↓hbm_mk, hbm_eqs]; done) | (dsimp only; simp (disch := (intros; (repeat' split) <;> (first | rfl | (simp; done) | (simp only [State.hbm, Hbm.mk.injEq] <;> simp [↓hbm_mk, hbm_eqs]; done) | (simp; rfl) | (simp; simp only [State.hbm, Hbm.mk.injEq] <;> simp [↓hbm_mk, hbm_eqs]; done)))); simp only [State.hbm, Hbm.mk.injEq] <;> simp [↓hbm_mk, hbm_eqs]; done)

theorem execCloseSession_hbm (fold num : Nat) (ln : Ln) (s : State) :
    ∃ next, execCloseSession fold num ln s = .next next ∧ next.hbm = s.hbm := by
  refine ⟨_, rfl, ?_⟩
  apply State.judged_hbm
  intro u
  (repeat' split) <;> first | rfl | (simp; done) | (simp only [State.hbm, Hbm.mk.injEq] <;> simp [↓hbm_mk, hbm_eqs]; done)

theorem execSessionCloseComplete_hbm (num : Nat) (t : Time) (s : State) :
    ∃ next, execSessionCloseComplete num t s = .next next ∧ next.hbm = s.hbm := by
  refine ⟨_, rfl, ?_⟩
  apply State.event_hbm
  intro g
  (repeat' split) <;> first | rfl | (simp; done) | (simp only [State.hbm, Hbm.mk.injEq] <;> simp [↓hbm_mk, hbm_eqs]; done)

theorem execShowSession_hbm (num : Nat) (ln : Ln) (s : State) :
    ∃ next, execShowSession num ln s = .next next ∧ next.hbm = s.hbm := by
  refine ⟨_, rfl, ?_⟩
  apply State.judged_hbm
  intro u
  (repeat' split) <;> first | rfl | (simp; done) | (simp only [State.hbm, Hbm.mk.injEq] <;> simp [↓hbm_mk, hbm_eqs]; done)

theorem execFineIssueCycle_hbm (n : Pad) (fault : IcFault) (t : Time) (s : State) :
    ∃ next, execFineIssueCycle n fault t s = .next next ∧ next.hbm = s.hbm := by
  refine ⟨_, rfl, ?_⟩
  apply State.event_hbm
  intro g
  dsimp only
  (repeat' split) <;> first | rfl | (simp; done) | (simp only [State.hbm, Hbm.mk.injEq] <;> simp [↓hbm_mk, hbm_eqs]; done)

theorem execCoarseIssueCycle_hbm (n : Pad) (fault : IcFault) (t : Time) (s : State) :
    ∃ next, execCoarseIssueCycle n fault t s = .next next ∧ next.hbm = s.hbm := by
  refine ⟨_, rfl, State.event_hbm _ _ _ _ fun _ => ?_⟩
  dsimp only
  split
  · simp
  · split
    · simp
    · split
      · simp
      · simp only [State.addTally_hbm]
        split <;> simp

theorem execWatchdogExpiry_hbm (n : Pad) (k : CtxIx) (t : Time) (s : State) :
    ∃ next, execWatchdogExpiry n k t s = .next next ∧ next.hbm = s.hbm := by
  refine ⟨_, rfl, ?_⟩
  apply State.event_hbm
  intro g
  (repeat' split) <;> first | rfl | (simp; done) | (simp only [State.hbm, Hbm.mk.injEq] <;> simp [↓hbm_mk, hbm_eqs]; done)

theorem execContextLeavePlan_hbm (n : Pad) (k : CtxIx) (t : Time) (s : State) :
    ∃ next, execContextLeavePlan n k t s = .next next ∧ next.hbm = s.hbm := by
  refine ⟨_, rfl, ?_⟩
  apply State.event_hbm
  intro g
  (repeat' split) <;> first | rfl | (simp; done) | (simp only [State.hbm, Hbm.mk.injEq] <;> simp [↓hbm_mk, hbm_eqs]; done)

theorem execEccRereadVerdict_hbm (n : Pad) (m : Fin 4) (good : Bool) (t : Time) (s : State) :
    ∃ next, execEccRereadVerdict n m good t s = .next next ∧ next.hbm = s.hbm := by
  refine ⟨_, rfl, ?_⟩
  apply State.event_hbm
  intro g
  (repeat' split) <;> first | rfl | (simp; done) | (simp only [State.hbm, Hbm.mk.injEq] <;> simp [↓hbm_mk, hbm_eqs]; done)

theorem execResidueVerdict_hbm (n : Pad) (v : Fin 4) (good : Bool) (t : Time) (s : State) :
    ∃ next, execResidueVerdict n v good t s = .next next ∧ next.hbm = s.hbm := by
  refine ⟨_, rfl, ?_⟩
  apply State.event_hbm
  intro g
  (repeat' split) <;> first | rfl | (simp; done) | (simp only [State.hbm, Hbm.mk.injEq] <;> simp [↓hbm_mk, hbm_eqs]; done)

theorem execHbmxReturn_hbm (n : Pad) (m : Fin 4) (t : Time) (s : State) :
    ∃ next, execHbmxReturn n m t s = .next next ∧ next.hbm = s.hbm := by
  refine ⟨_, rfl, ?_⟩
  apply State.event_hbm
  intro g
  dsimp only
  (repeat' split) <;> first | rfl | (simp; done) | (simp only [State.hbm, Hbm.mk.injEq] <;> simp [↓hbm_mk, hbm_eqs]; done)

theorem execLedgerIntervalEnd_hbm (fold : Nat) (readBack : List Bool) (t : Time) (s : State) :
    ∃ next, execLedgerIntervalEnd fold readBack t s = .next next ∧ next.hbm = s.hbm := by
  refine ⟨_, rfl, ?_⟩
  apply State.event_hbm
  intro g
  (repeat' split) <;> first | rfl | (simp; done) | (simp only [State.hbm, Hbm.mk.injEq] <;> simp [↓hbm_mk, hbm_eqs]; done)

theorem execLedgerRingRetry_hbm (readBack : List Bool) (t : Time) (s : State) :
    ∃ next, execLedgerRingRetry readBack t s = .next next ∧ next.hbm = s.hbm := by
  refine ⟨_, rfl, State.event_hbm _ _ _ _ fun g => ?_⟩
  dsimp only
  with_reducible apply ite_eq_hbm
  · rw [State.ring_hbm]
    refine foldl_inv (P := fun (u : State) => u.hbm = (s.tick t).hbm) _ rfl (fun u r h => ?_)
    rw [State.ringPut_hbm, h]
  · rfl

theorem execLeaseSecond_hbm (t : Time) (s : State) :
    ∃ next, execLeaseSecond t s = .next next ∧ next.hbm = s.hbm := by
  refine ⟨_, rfl, ?_⟩
  apply State.event_hbm
  intro g
  (repeat' split) <;> first | rfl | (simp; done) | (simp only [State.hbm, Hbm.mk.injEq] <;> simp [↓hbm_mk, hbm_eqs]; done)

theorem execPtpSilence_hbm (t : Time) (s : State) :
    ∃ next, execPtpSilence t s = .next next ∧ next.hbm = s.hbm := by
  refine ⟨_, rfl, ?_⟩
  apply State.event_hbm
  intro g
  (repeat' split) <;> first | rfl | (simp; done) | (simp only [State.hbm, Hbm.mk.injEq] <;> simp [↓hbm_mk, hbm_eqs]; done)

theorem execShowTally_hbm (scope : Scope) (id : Nat) (name : Option Nat) (ln : Ln) (s : State) :
    ∃ next, execShowTally scope id name ln s = .next next ∧ next.hbm = s.hbm := by
  refine ⟨_, rfl, ?_⟩
  apply State.judged_hbm
  intro u
  (repeat' split) <;> first | rfl | (simp; done) | (simp only [State.hbm, Hbm.mk.injEq] <;> simp [↓hbm_mk, hbm_eqs]; done)

theorem execShowBells_hbm (since : Option Nat) (fault : Option Bool) (count : Option Nat) (ln : Ln) (s : State) :
    ∃ next, execShowBells since fault count ln s = .next next ∧ next.hbm = s.hbm := by
  refine ⟨_, rfl, ?_⟩
  apply State.judged_hbm
  intro u
  (repeat' split) <;> first | rfl | (simp; done) | (simp only [State.hbm, Hbm.mk.injEq] <;> simp [↓hbm_mk, hbm_eqs]; done)

theorem execShowLedger_hbm (fold : Nat) (since : Option Nat) (count : Option Nat) (ln : Ln) (s : State) :
    ∃ next, execShowLedger fold since count ln s = .next next ∧ next.hbm = s.hbm := by
  refine ⟨_, rfl, ?_⟩
  apply State.judged_hbm
  intro u
  (repeat' split) <;> first | rfl | (simp; done) | (simp only [State.hbm, Hbm.mk.injEq] <;> simp [↓hbm_mk, hbm_eqs]; done)

theorem execVerifyLedger_hbm (data : List Byte) (ln : Ln) (s : State) :
    ∃ next, execVerifyLedger data ln s = .next next ∧ next.hbm = s.hbm := by
  refine ⟨_, rfl, ?_⟩
  apply State.judged_hbm
  intro u
  (repeat' split) <;> first | rfl | (simp; done) | (simp only [State.hbm, Hbm.mk.injEq] <;> simp [↓hbm_mk, hbm_eqs]; done)

theorem execLoadFold_hbm (id stage : Nat) (overlap : Bool) (limit : Option Nat) (ln : Ln) (s : State) :
    ∃ next, execLoadFold id stage overlap limit ln s = .next next ∧ next.hbm = s.hbm := by
  refine ⟨_, rfl, ?_⟩
  apply State.judged_hbm
  intro u
  (repeat' split) <;> first | rfl | (simp; done) | (simp only [State.hbm, Hbm.mk.injEq] <;> simp [↓hbm_mk, hbm_eqs]; done)

theorem execLoadStart_hbm (fold : Nat) (t : Time) (s : State) :
    ∃ next, execLoadStart fold t s = .next next ∧ next.hbm = s.hbm := by
  refine ⟨_, rfl, ?_⟩
  apply State.event_hbm
  intro g
  (repeat' split) <;> first | rfl | (simp; done) | (simp only [State.hbm, Hbm.mk.injEq] <;> simp [↓hbm_mk, hbm_eqs]; done)

theorem execLoadDrainComplete_hbm (fold : Nat) (t : Time) (s : State) :
    ∃ next, execLoadDrainComplete fold t s = .next next ∧ next.hbm = s.hbm := by
  refine ⟨_, rfl, ?_⟩
  apply State.event_hbm
  intro g
  (repeat' split) <;> first | rfl | (simp; done) | (simp only [State.hbm, Hbm.mk.injEq] <;> simp [↓hbm_mk, hbm_eqs]; done)

theorem execLoadDrainExpiry_hbm (fold : Nat) (t : Time) (s : State) :
    ∃ next, execLoadDrainExpiry fold t s = .next next ∧ next.hbm = s.hbm := by
  refine ⟨_, rfl, ?_⟩
  apply State.event_hbm
  intro g
  (repeat' split) <;> first | rfl | (simp; done) | (simp only [State.hbm, Hbm.mk.injEq] <;> simp [↓hbm_mk, hbm_eqs]; done)

theorem execLoadDecryptComplete_hbm (fold : Nat) (t : Time) (s : State) :
    ∃ next, execLoadDecryptComplete fold t s = .next next ∧ next.hbm = s.hbm := by
  refine ⟨_, rfl, ?_⟩
  apply State.event_hbm
  intro g
  (repeat' split) <;> first | rfl | (simp; done) | (simp only [State.hbm, Hbm.mk.injEq] <;> simp [↓hbm_mk, hbm_eqs]; done)

theorem execCommitConfirmed_hbm (fold : Nat) (t : Time) (s : State) :
    ∃ next, execCommitConfirmed fold t s = .next next ∧ next.hbm = s.hbm := by
  refine ⟨_, rfl, ?_⟩
  apply State.event_hbm
  intro g
  (repeat' split) <;> first | rfl | (simp; done) | (simp only [State.hbm, Hbm.mk.injEq] <;> simp [↓hbm_mk, hbm_eqs]; done)

theorem execContextStage_hbm (fold : Nat) (n : Pad) (k : CtxIx) (t : Time) (s : State) :
    ∃ next, execContextStage fold n k t s = .next next ∧ next.hbm = s.hbm := by
  refine ⟨_, rfl, ?_⟩
  apply State.event_hbm
  intro g
  (repeat' split) <;> first | rfl | (simp; done) | (simp only [State.hbm, Hbm.mk.injEq] <;> simp [↓hbm_mk, hbm_eqs]; done)

theorem execStageWaitExpiry_hbm (fold : Nat) (t : Time) (s : State) :
    ∃ next, execStageWaitExpiry fold t s = .next next ∧ next.hbm = s.hbm := by
  refine ⟨_, rfl, ?_⟩
  apply State.event_hbm
  intro g
  (repeat' split) <;> first | rfl | (simp; done) | (simp only [State.hbm, Hbm.mk.injEq] <;> simp [↓hbm_mk, hbm_eqs]; done)

theorem execStandbyConfirmed_hbm (fold : Nat) (t : Time) (s : State) :
    ∃ next, execStandbyConfirmed fold t s = .next next ∧ next.hbm = s.hbm := by
  refine ⟨_, rfl, ?_⟩
  apply State.event_hbm
  intro g
  (repeat' split) <;> first | rfl | (simp; done) | (simp only [State.hbm, Hbm.mk.injEq] <;> simp [↓hbm_mk, hbm_eqs]; done)

theorem execTransitionStart_hbm (fold : Nat) (t : Time) (s : State) :
    ∃ next, execTransitionStart fold t s = .next next ∧ next.hbm = s.hbm := by
  refine ⟨_, rfl, ?_⟩
  apply State.event_hbm
  intro g
  (repeat' split) <;> first | rfl | (simp; done) | (simp only [State.hbm, Hbm.mk.injEq] <;> simp [↓hbm_mk, hbm_eqs]; done)

theorem execBellwetherArrival_hbm (n : Pad) (k : CtxIx) (t : Time) (s : State) :
    ∃ next, execBellwetherArrival n k t s = .next next ∧ next.hbm = s.hbm := by
  refine ⟨_, rfl, ?_⟩
  apply State.event_hbm
  intro g
  dsimp only
  (repeat' split) <;> first | rfl | (simp; done) | (simp only [State.hbm, Hbm.mk.injEq] <;> simp [↓hbm_mk, hbm_eqs]; done)

theorem execNedBellwether_hbm (k : NedIx) (e : Fin 2) (lane : Lane) (vc : Bool) (t : Time) (s : State) :
    ∃ next, execNedBellwether k e lane vc t s = .next next ∧ next.hbm = s.hbm := by
  refine ⟨_, rfl, ?_⟩
  apply State.event_hbm
  intro g
  dsimp only
  (repeat' split) <;> first | rfl | (simp; done) | (simp only [State.hbm, Hbm.mk.injEq] <;> simp [↓hbm_mk, hbm_eqs]; done)

theorem execSwitchLimitExpiry_hbm (fold : Nat) (t : Time) (s : State) :
    ∃ next, execSwitchLimitExpiry fold t s = .next next ∧ next.hbm = s.hbm := by
  refine ⟨_, rfl, ?_⟩
  apply State.event_hbm
  intro g
  (repeat' split) <;> first | rfl | (simp; done) | (simp only [State.hbm, Hbm.mk.injEq] <;> simp [↓hbm_mk, hbm_eqs]; done)

theorem execShowMap_hbm (at_ : Option (List Loc)) (ln : Ln) (s : State) :
    ∃ next, execShowMap at_ ln s = .next next ∧ next.hbm = s.hbm := by
  refine ⟨_, rfl, ?_⟩
  apply State.judged_hbm
  intro u
  (repeat' split) <;> first | rfl | (simp; done) | (simp only [State.hbm, Hbm.mk.injEq] <;> simp [↓hbm_mk, hbm_eqs]; done)

theorem execExportMap_hbm (ln : Ln) (s : State) :
    ∃ next, execExportMap ln s = .next next ∧ next.hbm = s.hbm := by
  refine ⟨_, rfl, ?_⟩
  apply State.judged_hbm
  intro u
  dsimp only
  (repeat' split) <;> first | rfl | (simp; done) | (simp only [State.hbm, Hbm.mk.injEq] <;> simp [↓hbm_mk, hbm_eqs]; done)

theorem execSetReserve_hbm (c r : Nat) (on : Bool) (ln : Ln) (s : State) :
    ∃ next, execSetReserve c r on ln s = .next next ∧ next.hbm = s.hbm := by
  refine ⟨_, rfl, ?_⟩
  apply State.judged_hbm
  intro u
  (repeat' split) <;> first | rfl | (simp; done) | (simp only [State.hbm, Hbm.mk.injEq] <;> simp [↓hbm_mk, hbm_eqs]; done)

theorem execSetExclude_hbm (x y : Nat) (on : Bool) (ln : Ln) (s : State) :
    ∃ next, execSetExclude x y on ln s = .next next ∧ next.hbm = s.hbm := by
  refine ⟨_, rfl, ?_⟩
  apply State.judged_hbm
  intro u
  (repeat' split) <;> first | rfl | (simp; done) | (simp only [State.hbm, Hbm.mk.injEq] <;> simp [↓hbm_mk, hbm_eqs]; done)

theorem Med.burst_store (m : Med) (med i : Nat) (sev : EccSev) (now : Time) : (m.burst med i sev now).m.store = m.store := by
  unfold Med.burst
  dsimp only
  (repeat' split) <;> rfl

theorem execHbmBurstRead_hbm (k : MedIx) (j : Nat) (sev : EccSev) (t : Time) (s : State) :
    ∃ next, execHbmBurstRead k j sev t s = .next next ∧ next.hbm = s.hbm := by
  refine ⟨_, rfl, State.event_hbm _ _ _ _ fun _ => ?_⟩
  have h : ((s.tick t).setMed k.val (((s.tick t).med k.val).burst k.val j sev (s.tick t).now).m).hbm = s.hbm :=
    State.setMed_hbm _ _ _ (Med.burst_store _ _ _ _ _)
  dsimp only
  with_reducible apply ite_eq_hbm
  · rw [State.medEnterDoubt_hbm, State.addTally_hbm, State.addTally_hbm, State.medSend_hbm, h]
  · rw [State.addTally_hbm, State.addTally_hbm, State.medSend_hbm, h]

theorem Med.rereadVerdict_store (m : Med) (med : Nat) (good : Bool) (now : Time) : (m.rereadVerdict med good now).m.store = m.store := by
  unfold Med.rereadVerdict
  dsimp only
  (repeat' split) <;> rfl

theorem execHbmRereadVerdict_hbm (k : MedIx) (good : Bool) (t : Time) (s : State) :
    ∃ next, execHbmRereadVerdict k good t s = .next next ∧ next.hbm = s.hbm := by
  refine ⟨_, rfl, State.event_hbm _ _ _ _ fun _ => ?_⟩
  have h : ((s.tick t).setMed k.val (((s.tick t).med k.val).rereadVerdict k.val good (s.tick t).now).m).hbm = s.hbm :=
    State.setMed_hbm _ _ _ (Med.rereadVerdict_store _ _ _ _)
  dsimp only
  split
  · rw [State.addTally_hbm, State.medSend_hbm, h]
  · rw [ite_hbm, foldl_hbm _ (fun _ _ => State.loseSession_hbm _ _), ite_self]
    split
    · rw [State.ring_hbm, State.count_hbm, State.addTally_hbm, State.medSend_hbm, h]
    · refine Eq.trans rfl ((State.modFlash_hbm _ _).trans ?_)
      rw [State.ring_hbm, State.count_hbm, State.addTally_hbm, State.medSend_hbm, h]

theorem execRotationSlot_hbm (k : MedIx) (t : Time) (s : State) :
    ∃ next, execRotationSlot k t s = .next next ∧ next.hbm = s.hbm := by
  refine ⟨_, rfl, ?_⟩
  apply State.event_hbm
  intro g
  (repeat' split) <;> first | rfl | (simp; done) | (simp only [State.hbm, Hbm.mk.injEq] <;> simp [↓hbm_mk, hbm_eqs]; done)

theorem execMedDoubt_hbm (k : MedIx) (cause : Nat) (t : Time) (s : State) :
    ∃ next, execMedDoubt k cause t s = .next next ∧ next.hbm = s.hbm := by
  refine ⟨_, rfl, ?_⟩
  apply State.event_hbm
  intro g
  (repeat' split) <;> first | rfl | (simp; done) | (simp only [State.hbm, Hbm.mk.injEq] <;> simp [↓hbm_mk, hbm_eqs]; done)

theorem execLinkBeatSend_hbm (x : EndIx) (lane : Lane) (t : Time) (s : State) :
    ∃ next, execLinkBeatSend x lane t s = .next next ∧ next.hbm = s.hbm := by
  refine ⟨_, rfl, State.event_hbm _ _ _ _ fun _ => ?_⟩
  have hs : (if x < 5376 then (s.tick t).sweepRouter (x / 4) else s.tick t).hbm = (s.tick t).hbm := by
    split <;> simp
  dsimp only
  generalize (if x < 5376 then (s.tick t).sweepRouter (x / 4) else s.tick t) = u at hs ⊢
  refine Eq.trans ?_ hs
  split
  · exact (wire_hbm _ _).trans (State.setLink_hbm u x lane.val _)
  · split
    · rename_i e l' _
      exact ((wire_hbm _ _).trans (State.setLink_hbm _ _ _ _)).trans (State.setLink_hbm u x lane.val l')
    · split
      · exact (wire_hbm _ _).trans (State.setLink_hbm _ _ _ _)
      · rename_i h
        have h1 := State.nextFlit_hbm h
        split
        · split
          · rename_i h'
            exact ((wire_hbm _ _).trans (State.setLink_hbm _ _ _ _)).trans ((State.modLink_hbm _ _ _ _).trans ((State.nextFlit_hbm h').trans h1))
          · exact ((wire_hbm _ _).trans (State.setLink_hbm _ _ _ _)).trans h1
        · exact ((wire_hbm _ _).trans (State.setLink_hbm _ _ _ _)).trans h1

theorem execBeatReceived_hbm (x : EndIx) (lane : Lane) (vc0 vc1 : Bool) (b : BitVec 616) (t : Time) (s : State) :
    ∃ next, execBeatReceived x lane vc0 vc1 b t s = .next next ∧ next.hbm = s.hbm := by
  refine ⟨_, rfl, State.event_hbm _ _ _ _ fun _ => ?_⟩
  dsimp only
  (repeat' with_reducible apply ite_eq_hbm)
  · simp
  · simp
  · simp
  · rw [foldl_hbm]
    · simp
    · intros; simp

theorem execReplayTimeout_hbm (x : EndIx) (lane : Lane) (t : Time) (s : State) :
    ∃ next, execReplayTimeout x lane t s = .next next ∧ next.hbm = s.hbm := by
  refine ⟨_, rfl, ?_⟩
  apply State.event_hbm
  intro g
  (repeat' split) <;> first | rfl | (simp; done) | (simp only [State.hbm, Hbm.mk.injEq] <;> simp [↓hbm_mk, hbm_eqs]; done)

theorem execReplayDownTimeout_hbm (x : EndIx) (lane : Lane) (t : Time) (s : State) :
    ∃ next, execReplayDownTimeout x lane t s = .next next ∧ next.hbm = s.hbm := by
  refine ⟨_, rfl, ?_⟩
  apply State.event_hbm
  intro g
  (repeat' split) <;> first | rfl | (simp; done) | (simp only [State.hbm, Hbm.mk.injEq] <;> simp [↓hbm_mk, hbm_eqs]; done)

theorem execReceiverSilence_hbm (x : EndIx) (lane : Lane) (t : Time) (s : State) :
    ∃ next, execReceiverSilence x lane t s = .next next ∧ next.hbm = s.hbm := by
  refine ⟨_, rfl, ?_⟩
  apply State.event_hbm
  intro g
  (repeat' split) <;> first | rfl | (simp; done) | (simp only [State.hbm, Hbm.mk.injEq] <;> simp [↓hbm_mk, hbm_eqs]; done)

theorem execLane0Precompile_hbm (t : Time) (s : State) :
    ∃ next, execLane0Precompile t s = .next next ∧ next.hbm = s.hbm := by
  refine ⟨_, rfl, ?_⟩
  apply State.event_hbm
  intro g
  (repeat' split) <;> first | rfl | (simp; done) | (simp only [State.hbm, Hbm.mk.injEq] <;> simp [↓hbm_mk, hbm_eqs]; done)

theorem execDockTransfer_hbm (n : Pad) (t : Time) (s : State) :
    ∃ next, execDockTransfer n t s = .next next ∧ next.hbm = s.hbm := by
  refine ⟨_, rfl, ?_⟩
  apply State.event_hbm
  intro g
  (repeat' split) <;> first | rfl | (simp; done) | (simp only [State.hbm, Hbm.mk.injEq] <;> simp [↓hbm_mk, hbm_eqs]; done)

theorem execResetRelease_hbm (jtagEn : Bool) (t : Time) (s : State) :
    ∃ next, execResetRelease jtagEn t s = .next next ∧ next.hbm = s.hbm := by
  refine ⟨_, rfl, ?_⟩
  split
  · exact State.modFlash_hbm (s.tick t) _
  · rfl

theorem execPwrFailAssert_hbm (t : Time) (s : State) :
    ∃ next, execPwrFailAssert t s = .next next ∧ next.hbm = s.hbm := by
  refine ⟨_, rfl, ?_⟩
  split
  · rw [State.ring_hbm]
    rfl
  · rfl

theorem execPwrFailFlashFreeze_hbm (t : Time) (s : State) :
    ∃ next, execPwrFailFlashFreeze t s = .next next ∧ next.hbm = s.hbm := by
  refine ⟨_, rfl, State.event_hbm _ _ _ _ fun _ => rfl⟩

theorem execPwrFailDeassert_hbm (t : Time) (s : State) :
    ∃ next, execPwrFailDeassert t s = .next next ∧ next.hbm = s.hbm := by
  refine ⟨_, rfl, ?_⟩
  split <;> rfl

theorem execBusSample_hbm (shc : ShcIx) (mvA mvB : Nat) (t : Time) (s : State) :
    ∃ next, execBusSample shc mvA mvB t s = .next next ∧ next.hbm = s.hbm := by
  refine ⟨_, rfl, ?_⟩
  apply State.event_hbm
  intro g
  (repeat' split) <;> first | rfl | (simp; done) | (simp only [State.hbm, Hbm.mk.injEq] <;> simp [↓hbm_mk, hbm_eqs]; done)

theorem execRailDeparture_hbm (f : FieldIx) (vaon : Bool) (mv : Nat) (t : Time) (s : State) :
    ∃ next, execRailDeparture f vaon mv t s = .next next ∧ next.hbm = s.hbm := by
  refine ⟨_, rfl, ?_⟩
  apply State.event_hbm
  intro g
  (repeat' split) <;> first | rfl | (simp; done) | (simp only [State.hbm, Hbm.mk.injEq] <;> simp [↓hbm_mk, hbm_eqs]; done)

theorem execVcoreRecoveryVerdict_hbm (f : FieldIx) (back : Option Time) (t : Time) (s : State) :
    ∃ next, execVcoreRecoveryVerdict f back t s = .next next ∧ next.hbm = s.hbm := by
  refine ⟨_, rfl, State.event_hbm _ _ _ _ fun _ => ?_⟩
  dsimp only
  split
  · with_reducible apply ite_eq_hbm
    · rw [State.ring_hbm]
      refine (foldl_hbm _ (fun u n => ?_) _ _).trans ?_
      · with_reducible apply ite_eq_hbm <;> simp
      · simp
    · simp
  · simp

theorem execRailStep_hbm (f : FieldIx) (t : Time) (s : State) :
    ∃ next, execRailStep f t s = .next next ∧ next.hbm = s.hbm := by
  refine ⟨_, rfl, ?_⟩
  apply State.event_hbm
  intro g
  (repeat' split) <;> first | rfl | (simp; done) | (simp only [State.hbm, Hbm.mk.injEq] <;> simp [↓hbm_mk, hbm_eqs]; done)

theorem execPowerWaveStart_hbm (t : Time) (s : State) :
    ∃ next, execPowerWaveStart t s = .next next ∧ next.hbm = s.hbm := by
  refine ⟨_, rfl, ?_⟩
  apply State.event_hbm
  intro g
  (repeat' split) <;> first | rfl | (simp; done) | (simp only [State.hbm, Hbm.mk.injEq] <;> simp [↓hbm_mk, hbm_eqs]; done)

theorem execSoftStartComplete_hbm (n : Pad) (t : Time) (s : State) :
    ∃ next, execSoftStartComplete n t s = .next next ∧ next.hbm = s.hbm := by
  refine ⟨_, rfl, ?_⟩
  apply State.event_hbm
  intro g
  (repeat' split) <;> first | rfl | (simp; done) | (simp only [State.hbm, Hbm.mk.injEq] <;> simp [↓hbm_mk, hbm_eqs]; done)

theorem execEfuseTrip_hbm (n : Pad) (milliamps : Nat) (t : Time) (s : State) :
    ∃ next, execEfuseTrip n milliamps t s = .next next ∧ next.hbm = s.hbm := by
  refine ⟨_, rfl, ?_⟩
  apply State.event_hbm
  intro g
  (repeat' split) <;> first | rfl | (simp; done) | (simp only [State.hbm, Hbm.mk.injEq] <;> simp [↓hbm_mk, hbm_eqs]; done)

theorem execEfuseRetry_hbm (n : Pad) (t : Time) (s : State) :
    ∃ next, execEfuseRetry n t s = .next next ∧ next.hbm = s.hbm := by
  refine ⟨_, rfl, ?_⟩
  apply State.event_hbm
  intro g
  (repeat' split) <;> first | rfl | (simp; done) | (simp only [State.hbm, Hbm.mk.injEq] <;> simp [↓hbm_mk, hbm_eqs]; done)

theorem execEfuseRetryVerdict_hbm (n : Pad) (peak : Nat) (t : Time) (s : State) :
    ∃ next, execEfuseRetryVerdict n peak t s = .next next ∧ next.hbm = s.hbm := by
  refine ⟨_, rfl, ?_⟩
  apply State.event_hbm
  intro g
  (repeat' split) <;> first | rfl | (simp; done) | (simp only [State.hbm, Hbm.mk.injEq] <;> simp [↓hbm_mk, hbm_eqs]; done)

theorem execFieldStageShutdown_hbm (f : FieldIx) (vaon : Bool) (t : Time) (s : State) :
    ∃ next, execFieldStageShutdown f vaon t s = .next next ∧ next.hbm = s.hbm := by
  refine ⟨_, rfl, ?_⟩
  apply State.event_hbm
  intro g
  (repeat' split) <;> first | rfl | (simp; done) | (simp only [State.hbm, Hbm.mk.injEq] <;> simp [↓hbm_mk, hbm_eqs]; done)

theorem execFieldRetry_hbm (f : FieldIx) (t : Time) (s : State) :
    ∃ next, execFieldRetry f t s = .next next ∧ next.hbm = s.hbm := by
  refine ⟨_, rfl, ?_⟩
  apply State.event_hbm
  intro g
  (repeat' split) <;> first | rfl | (simp; done) | (simp only [State.hbm, Hbm.mk.injEq] <;> simp [↓hbm_mk, hbm_eqs]; done)

theorem execFieldRetryVerdict_hbm (f : FieldIx) (held : Bool) (t : Time) (s : State) :
    ∃ next, execFieldRetryVerdict f held t s = .next next ∧ next.hbm = s.hbm := by
  refine ⟨_, rfl, State.event_hbm _ _ _ _ fun _ => ?_⟩
  dsimp only
  with_reducible apply ite_eq_hbm
  · rw [State.ring_hbm]
    refine (foldl_hbm _ (fun u n => ?_) _ _).trans ?_
    · with_reducible apply ite_eq_hbm
      · simp
      · with_reducible apply ite_eq_hbm
        · simp
        · split <;> simp
    · simp
  · simp

theorem execPmbAlert_hbm (addr status : Nat) (t : Time) (s : State) :
    ∃ next, execPmbAlert addr status t s = .next next ∧ next.hbm = s.hbm := by
  refine ⟨_, rfl, ?_⟩
  apply State.event_hbm
  intro g
  (repeat' split) <;> first | rfl | (simp; done) | (simp only [State.hbm, Hbm.mk.injEq] <;> simp [↓hbm_mk, hbm_eqs]; done)

theorem execTelemetryRead_hbm (reads : List PmbRead) (t : Time) (s : State) :
    ∃ next, execTelemetryRead reads t s = .next next ∧ next.hbm = s.hbm := by
  refine ⟨_, rfl, ?_⟩
  apply State.event_hbm
  intro g
  (repeat' split) <;> first | rfl | (simp; done) | (simp only [State.hbm, Hbm.mk.injEq] <;> simp [↓hbm_mk, hbm_eqs]; done)

theorem execPmbusRetryPoll_hbm (r : PmbRead) (t : Time) (s : State) :
    ∃ next, execPmbusRetryPoll r t s = .next next ∧ next.hbm = s.hbm := by
  refine ⟨_, rfl, ?_⟩
  apply State.event_hbm
  intro g
  (repeat' split) <;> first | rfl | (simp; done) | (simp only [State.hbm, Hbm.mk.injEq] <;> simp [↓hbm_mk, hbm_eqs]; done)

theorem execShowPower_hbm (ln : Ln) (s : State) :
    ∃ next, execShowPower ln s = .next next ∧ next.hbm = s.hbm := by
  refine ⟨_, rfl, ?_⟩
  apply State.judged_hbm
  intro u
  (repeat' split) <;> first | rfl | (simp; done) | (simp only [State.hbm, Hbm.mk.injEq] <;> simp [↓hbm_mk, hbm_eqs]; done)

theorem execSetBus_hbm (shared : Bool) (ln : Ln) (s : State) :
    ∃ next, execSetBus shared ln s = .next next ∧ next.hbm = s.hbm := by
  refine ⟨_, rfl, ?_⟩
  apply State.judged_hbm
  intro u
  (repeat' split) <;> first | rfl | (simp; done) | (simp only [State.hbm, Hbm.mk.injEq] <;> simp [↓hbm_mk, hbm_eqs]; done)

theorem execSetRail_hbm (x y mv : Nat) (ln : Ln) (s : State) :
    ∃ next, execSetRail x y mv ln s = .next next ∧ next.hbm = s.hbm := by
  refine ⟨_, rfl, ?_⟩
  apply State.judged_hbm
  intro u
  (repeat' split) <;> first | rfl | (simp; done) | (simp only [State.hbm, Hbm.mk.injEq] <;> simp [↓hbm_mk, hbm_eqs]; done)

theorem execSetPower_hbm (at_ : Loc) (dark : Bool) (ln : Ln) (s : State) :
    ∃ next, execSetPower at_ dark ln s = .next next ∧ next.hbm = s.hbm := by
  refine ⟨_, rfl, ?_⟩
  apply State.judged_hbm
  intro u
  (repeat' split) <;> first | rfl | (simp; done) | (simp only [State.hbm, Hbm.mk.injEq] <;> simp [↓hbm_mk, hbm_eqs]; done)

theorem execClearField_hbm (x y : Nat) (held : Bool) (ln : Ln) (s : State) :
    ∃ next, execClearField x y held ln s = .next next ∧ next.hbm = s.hbm := by
  refine ⟨_, rfl, ?_⟩
  apply State.judged_hbm
  intro u
  (repeat' split) <;> first | rfl | (simp; done) | (simp only [State.hbm, Hbm.mk.injEq] <;> simp [↓hbm_mk, hbm_eqs]; done)

theorem execCheckpointDue_hbm (fold : Nat) (t : Time) (s : State) :
    ∃ next, execCheckpointDue fold t s = .next next ∧ next.hbm = s.hbm := by
  refine ⟨_, rfl, ?_⟩
  apply State.event_hbm
  intro g
  (repeat' split) <;> first | rfl | (simp; done) | (simp only [State.hbm, Hbm.mk.injEq] <;> simp [↓hbm_mk, hbm_eqs]; done)

theorem execMusterComplete_hbm (fold : Nat) (t : Time) (s : State) :
    ∃ next, execMusterComplete fold t s = .next next ∧ next.hbm = s.hbm := by
  refine ⟨_, rfl, ?_⟩
  apply State.event_hbm
  intro g
  (repeat' split) <;> first | rfl | (simp; done) | (simp only [State.hbm, Hbm.mk.injEq] <;> simp [↓hbm_mk, hbm_eqs]; done)

theorem execMusterTimeout_hbm (fold : Nat) (t : Time) (s : State) :
    ∃ next, execMusterTimeout fold t s = .next next ∧ next.hbm = s.hbm := by
  refine ⟨_, rfl, ?_⟩
  apply State.event_hbm
  intro g
  (repeat' split) <;> first | rfl | (simp; done) | (simp only [State.hbm, Hbm.mk.injEq] <;> simp [↓hbm_mk, hbm_eqs]; done)

theorem execCheckpointWriteDone_hbm (fold : Nat) (t : Time) (s : State) :
    ∃ next, execCheckpointWriteDone fold t s = .next next ∧ next.hbm = s.hbm := by
  refine ⟨_, rfl, ?_⟩
  apply State.event_hbm
  intro g
  (repeat' split) <;> first | rfl | (simp; done) | (simp only [State.hbm, Hbm.mk.injEq] <;> simp [↓hbm_mk, hbm_eqs]; done)

theorem execReportReceived_hbm (trigger : Trigger) (folds : List Nat) (place : Nat) (t : Time) (s : State) :
    ∃ next, execReportReceived trigger folds place t s = .next next ∧ next.hbm = s.hbm := by
  refine ⟨_, rfl, ?_⟩
  apply State.event_hbm
  intro g
  (repeat' split) <;> first | rfl | (simp; done) | (simp only [State.hbm, Hbm.mk.injEq] <;> simp [↓hbm_mk, hbm_eqs]; done)

theorem execReportResend_hbm (t : Time) (s : State) :
    ∃ next, execReportResend t s = .next next ∧ next.hbm = s.hbm := by
  refine ⟨_, rfl, ?_⟩
  apply State.event_hbm
  intro g
  (repeat' split) <;> first | rfl | (simp; done) | (simp only [State.hbm, Hbm.mk.injEq] <;> simp [↓hbm_mk, hbm_eqs]; done)

theorem execDoubtNoticeNed_hbm (k : NedIx) (fold : Nat) (t : Time) (s : State) :
    ∃ next, execDoubtNoticeNed k fold t s = .next next ∧ next.hbm = s.hbm := by
  refine ⟨_, rfl, ?_⟩
  apply State.event_hbm
  intro g
  (repeat' split) <;> first | rfl | (simp; done) | (simp only [State.hbm, Hbm.mk.injEq] <;> simp [↓hbm_mk, hbm_eqs]; done)

theorem execDoubtNoticePaddock_hbm (n : Pad) (fold : Nat) (t : Time) (s : State) :
    ∃ next, execDoubtNoticePaddock n fold t s = .next next ∧ next.hbm = s.hbm := by
  refine ⟨_, rfl, State.event_hbm _ _ _ _ fun _ => ?_⟩
  dsimp only
  with_reducible apply ite_eq_hbm <;> simp

theorem execShearComplete_hbm (fold : Nat) (n : Pad) (good : Bool) (t : Time) (s : State) :
    ∃ next, execShearComplete fold n good t s = .next next ∧ next.hbm = s.hbm := by
  refine ⟨_, rfl, ?_⟩
  apply State.event_hbm
  intro g
  dsimp only
  (repeat' split) <;> first | rfl | (simp; done) | (simp only [State.hbm, Hbm.mk.injEq] <;> simp [↓hbm_mk, hbm_eqs]; done)

theorem execCheckpointRestoreComplete_hbm (fold : Nat) (good : Bool) (t : Time) (s : State) :
    ∃ next, execCheckpointRestoreComplete fold good t s = .next next ∧ next.hbm = s.hbm := by
  refine ⟨_, rfl, ?_⟩
  apply State.event_hbm
  intro g
  (repeat' split) <;> first | rfl | (simp; done) | (simp only [State.hbm, Hbm.mk.injEq] <;> simp [↓hbm_mk, hbm_eqs]; done)

theorem execRelocRecordWritten_hbm (fold : Nat) (t : Time) (s : State) :
    ∃ next, execRelocRecordWritten fold t s = .next next ∧ next.hbm = s.hbm := by
  refine ⟨_, rfl, ?_⟩
  apply State.event_hbm
  intro g
  (repeat' split) <;> first | rfl | (simp; done) | (simp only [State.hbm, Hbm.mk.injEq] <;> simp [↓hbm_mk, hbm_eqs]; done)

theorem execClockRelockVerdict_hbm (n : Pad) (locked : Option Time) (held : Bool) (t : Time) (s : State) :
    ∃ next, execClockRelockVerdict n locked held t s = .next next ∧ next.hbm = s.hbm := by
  refine ⟨_, rfl, ?_⟩
  apply State.event_hbm
  intro g
  (repeat' split) <;> first | rfl | (simp; done) | (simp only [State.hbm, Hbm.mk.injEq] <;> simp [↓hbm_mk, hbm_eqs]; done)

theorem execRingRelockVerdict_hbm (f : FieldIx) (locked : Option Time) (held : Bool) (t : Time) (s : State) :
    ∃ next, execRingRelockVerdict f locked held t s = .next next ∧ next.hbm = s.hbm := by
  refine ⟨_, rfl, ?_⟩
  apply State.event_hbm
  intro g
  (repeat' split) <;> first | rfl | (simp; done) | (simp only [State.hbm, Hbm.mk.injEq] <;> simp [↓hbm_mk, hbm_eqs]; done)

theorem execReferenceAbsentLong_hbm (edge : Option (Fin 4)) (t : Time) (s : State) :
    ∃ next, execReferenceAbsentLong edge t s = .next next ∧ next.hbm = s.hbm := by
  refine ⟨_, rfl, ?_⟩
  apply State.event_hbm
  intro g
  (repeat' split) <;> first | rfl | (simp; done) | (simp only [State.hbm, Hbm.mk.injEq] <;> simp [↓hbm_mk, hbm_eqs]; done)

theorem execAckFault_hbm (ln : Ln) (s : State) :
    ∃ next, execAckFault ln s = .next next ∧ next.hbm = s.hbm := by
  refine ⟨_, rfl, ?_⟩
  apply State.judged_hbm
  intro u
  (repeat' split) <;> first | rfl | (simp; done) | (simp only [State.hbm, Hbm.mk.injEq] <;> simp [↓hbm_mk, hbm_eqs]; done)

theorem execRestoreLane_hbm (c r dir lane : Nat) (passed : Bool) (ln : Ln) (s : State) :
    ∃ next, execRestoreLane c r dir lane passed ln s = .next next ∧ next.hbm = s.hbm := by
  refine ⟨_, rfl, ?_⟩
  apply State.judged_hbm
  intro u
  (repeat' split) <;> first | rfl | (simp; done) | (simp only [State.hbm, Hbm.mk.injEq] <;> simp [↓hbm_mk, hbm_eqs]; done)

theorem execShowLink_hbm (c r dir : Nat) (lane : Option Nat) (ln : Ln) (s : State) :
    ∃ next, execShowLink c r dir lane ln s = .next next ∧ next.hbm = s.hbm := by
  refine ⟨_, rfl, ?_⟩
  apply State.judged_hbm
  intro u
  (repeat' split) <;> first | rfl | (simp; done) | (simp only [State.hbm, Hbm.mk.injEq] <;> simp [↓hbm_mk, hbm_eqs]; done)

theorem execPeek_hbm (addr : Nat) (count : Option Nat) (ln : Ln) (s : State) :
    ∃ next, execPeek addr count ln s = .next next ∧ next.hbm = s.hbm := by
  refine ⟨_, rfl, ?_⟩
  apply State.judged_hbm
  intro u
  (repeat' split) <;> first | rfl | (simp; done) | (simp only [State.hbm, Hbm.mk.injEq] <;> simp [↓hbm_mk, hbm_eqs]; done)

theorem execPoke_hbm (addr : Nat) (value : BitVec 32) (mask : Option (BitVec 32)) (ln : Ln) (s : State) :
    ∃ next, execPoke addr value mask ln s = .next next ∧ next.hbm = s.hbm := by
  refine ⟨_, rfl, ?_⟩
  apply State.judged_hbm
  intro u
  (repeat' split) <;> first | rfl | (simp; done) | (simp only [State.hbm, Hbm.mk.injEq] <;> simp [↓hbm_mk, hbm_eqs]; done)

theorem execShcFaultackWrite_hbm (value : BitVec 32) (ln : Ln) (s : State) :
    ∃ next, execShcFaultackWrite value ln s = .next next ∧ next.hbm = s.hbm := by
  refine ⟨_, rfl, ?_⟩
  apply State.judged_hbm
  intro u
  (repeat' split) <;> first | rfl | (simp; done) | (simp only [State.hbm, Hbm.mk.injEq] <;> simp [↓hbm_mk, hbm_eqs]; done)

theorem execPcbSatClear_hbm (n : Pad) (value : BitVec 32) (ln : Ln) (s : State) :
    ∃ next, execPcbSatClear n value ln s = .next next ∧ next.hbm = s.hbm := by
  refine ⟨_, rfl, ?_⟩
  apply State.judged_hbm
  intro u
  (repeat' split) <;> first | rfl | (simp; done) | (simp only [State.hbm, Hbm.mk.injEq] <;> simp [↓hbm_mk, hbm_eqs]; done)

theorem execNedWselWrite_hbm (k : NedIx) (value : BitVec 32) (ln : Ln) (s : State) :
    ∃ next, execNedWselWrite k value ln s = .next next ∧ next.hbm = s.hbm := by
  refine ⟨_, rfl, ?_⟩
  apply State.judged_hbm
  intro u
  (repeat' split) <;> first | rfl | (simp; done) | (simp only [State.hbm, Hbm.mk.injEq] <;> simp [↓hbm_mk, hbm_eqs]; done)

theorem execShcAlertcauseRead_hbm (ln : Ln) (s : State) :
    ∃ next, execShcAlertcauseRead ln s = .next next ∧ next.hbm = s.hbm := by
  refine ⟨_, rfl, ?_⟩
  apply State.judged_hbm
  intro u
  (repeat' split) <;> first | rfl | (simp; done) | (simp only [State.hbm, Hbm.mk.injEq] <;> simp [↓hbm_mk, hbm_eqs]; done)

theorem execKeepaliveSend_hbm (t : Time) (s : State) :
    ∃ next, execKeepaliveSend t s = .next next ∧ next.hbm = s.hbm := by
  refine ⟨_, rfl, ?_⟩
  apply State.event_hbm
  intro g
  (repeat' split) <;> first | rfl | (simp; done) | (simp only [State.hbm, Hbm.mk.injEq] <;> simp [↓hbm_mk, hbm_eqs]; done)

theorem execHeartbeatSend_hbm (shc : ShcIx) (t : Time) (s : State) :
    ∃ next, execHeartbeatSend shc t s = .next next ∧ next.hbm = s.hbm := by
  refine ⟨_, rfl, ?_⟩
  apply State.event_hbm
  intro g
  (repeat' split) <;> first | rfl | (simp; done) | (simp only [State.hbm, Hbm.mk.injEq] <;> simp [↓hbm_mk, hbm_eqs]; done)

theorem execHeartbeatReceive_hbm (shc : ShcIx) (shcl lane0 : Bool) (b : Beat) (t : Time) (s : State) :
    ∃ next, execHeartbeatReceive shc shcl lane0 b t s = .next next ∧ next.hbm = s.hbm := by
  refine ⟨_, rfl, ?_⟩
  apply State.event_hbm
  intro g
  (repeat' split) <;> first | rfl | (simp; done) | (simp only [State.hbm, Hbm.mk.injEq] <;> simp [↓hbm_mk, hbm_eqs]; done)

theorem execHeartbeatMiss_hbm (t : Time) (s : State) :
    ∃ next, execHeartbeatMiss t s = .next next ∧ next.hbm = s.hbm := by
  refine ⟨_, rfl, ?_⟩
  apply State.event_hbm
  intro g
  (repeat' split) <;> first | rfl | (simp; done) | (simp only [State.hbm, Hbm.mk.injEq] <;> simp [↓hbm_mk, hbm_eqs]; done)

theorem execProbeTimeout_hbm (t : Time) (s : State) :
    ∃ next, execProbeTimeout t s = .next next ∧ next.hbm = s.hbm := by
  refine ⟨_, rfl, ?_⟩
  apply State.event_hbm
  intro g
  (repeat' split) <;> first | rfl | (simp; done) | (simp only [State.hbm, Hbm.mk.injEq] <;> simp [↓hbm_mk, hbm_eqs]; done)

theorem execSelfDoubtHandover_hbm (cause : Nat) (t : Time) (s : State) :
    ∃ next, execSelfDoubtHandover cause t s = .next next ∧ next.hbm = s.hbm := by
  refine ⟨_, rfl, ?_⟩
  apply State.event_hbm
  intro g
  (repeat' split) <;> first | rfl | (simp; done) | (simp only [State.hbm, Hbm.mk.injEq] <;> simp [↓hbm_mk, hbm_eqs]; done)

theorem execSelectionQuietExpiry_hbm (t : Time) (s : State) :
    ∃ next, execSelectionQuietExpiry t s = .next next ∧ next.hbm = s.hbm := by
  refine ⟨_, rfl, ?_⟩
  apply State.event_hbm
  intro g
  (repeat' split) <;> first | rfl | (simp; done) | (simp only [State.hbm, Hbm.mk.injEq] <;> simp [↓hbm_mk, hbm_eqs]; done)

theorem execMirrorAckTimeout_hbm (t : Time) (s : State) :
    ∃ next, execMirrorAckTimeout t s = .next next ∧ next.hbm = s.hbm := by
  refine ⟨_, rfl, ?_⟩
  apply State.event_hbm
  intro g
  (repeat' split) <;> first | rfl | (simp; done) | (simp only [State.hbm, Hbm.mk.injEq] <;> simp [↓hbm_mk, hbm_eqs]; done)

theorem execMirrorProbeTimeout_hbm (t : Time) (s : State) :
    ∃ next, execMirrorProbeTimeout t s = .next next ∧ next.hbm = s.hbm := by
  refine ⟨_, rfl, ?_⟩
  apply State.event_hbm
  intro g
  (repeat' split) <;> first | rfl | (simp; done) | (simp only [State.hbm, Hbm.mk.injEq] <;> simp [↓hbm_mk, hbm_eqs]; done)

theorem execReadyRefresh_hbm (t : Time) (s : State) :
    ∃ next, execReadyRefresh t s = .next next ∧ next.hbm = s.hbm := by
  refine ⟨_, rfl, ?_⟩
  apply State.event_hbm
  intro g
  (repeat' split) <;> first | rfl | (simp; done) | (simp only [State.hbm, Hbm.mk.injEq] <;> simp [↓hbm_mk, hbm_eqs]; done)

theorem execReadyLatchExpiry_hbm (t : Time) (s : State) :
    ∃ next, execReadyLatchExpiry t s = .next next ∧ next.hbm = s.hbm := by
  refine ⟨_, rfl, ?_⟩
  apply State.event_hbm
  intro g
  (repeat' split) <;> first | rfl | (simp; done) | (simp only [State.hbm, Hbm.mk.injEq] <;> simp [↓hbm_mk, hbm_eqs]; done)

theorem execHandoverShc_hbm (ln : Ln) (s : State) :
    ∃ next, execHandoverShc ln s = .next next ∧ next.hbm = s.hbm := by
  refine ⟨_, rfl, ?_⟩
  apply State.judged_hbm
  intro u
  (repeat' split) <;> first | rfl | (simp; done) | (simp only [State.hbm, Hbm.mk.injEq] <;> simp [↓hbm_mk, hbm_eqs]; done)

theorem execShowShc_hbm (ln : Ln) (s : State) :
    ∃ next, execShowShc ln s = .next next ∧ next.hbm = s.hbm := by
  refine ⟨_, rfl, ?_⟩
  apply State.judged_hbm
  intro u
  (repeat' split) <;> first | rfl | (simp; done) | (simp only [State.hbm, Hbm.mk.injEq] <;> simp [↓hbm_mk, hbm_eqs]; done)

theorem execUpdateFirmware_hbm (stage : Nat) (sigOk : Bool) (ln : Ln) (s : State) :
    ∃ next, execUpdateFirmware stage sigOk ln s = .next next ∧ next.hbm = s.hbm := by
  refine ⟨_, rfl, State.judged_hbm _ _ _ _ _ fun u => ?_⟩
  dsimp only
  split
  · simp
  · with_reducible apply ite_eq_hbm
    · simp
    · with_reducible apply ite_eq_hbm
      · simp
      · have h0 : (({ u with stages := u.stages.filter fun x => x.id ≠ stage } : State).ok ln [("state", .word "updating")]).hbm = u.hbm := by
          rw [State.ok_hbm]; rfl
        revert h0
        generalize (({ u with stages := u.stages.filter fun x => x.id ≠ stage } : State).ok ln [("state", .word "updating")]) = v
        intro h0
        split
        · split
          · rw [State.fwBell_hbm, h0]
          · with_reducible apply ite_eq_hbm
            · rw [State.fwBell_hbm]
              exact h0
            · rw [State.modShc_hbm]
              exact h0
        · rw [State.fwBell_hbm, h0]
        · rw [State.fwBell_hbm, h0]

theorem execBackupRejoin_hbm (mirrorVersion : Nat) (t : Time) (s : State) :
    ∃ next, execBackupRejoin mirrorVersion t s = .next next ∧ next.hbm = s.hbm := by
  refine ⟨_, rfl, State.event_hbm _ _ _ _ fun _ => ?_⟩
  refine Eq.trans (b := (s.tick t).hbm) ?_ rfl
  generalize s.tick t = u
  have h : ∀ (o : Option Firmware) (i j : Nat), (match o with
      | some w => u.modShc j fun c => { c.load i w u.now with mirrorSeq := u.mirrorSeq }
      | none => u).hbm = u.hbm := by
    intro o i j
    split <;> simp
  dsimp only
  split
  · with_reducible apply ite_eq_hbm
    · with_reducible apply ite_eq_hbm
      · rfl
      · exact State.shcDoubt_hbm _ _ _
    · with_reducible apply ite_eq_hbm
      · rfl
      · rw [State.modShc_hbm]
        exact (fw_hbm _ _).trans ((State.takeRole_hbm _ _).trans (h _ _ _))
  · with_reducible apply ite_eq_hbm
    · with_reducible apply ite_eq_hbm
      · rfl
      · exact State.shcDoubt_hbm _ _ _
    · rw [State.fwBell_hbm]
      exact (fw_hbm _ _).trans ((State.modFlash_hbm _ _).trans (h _ _ _))
  · rfl

theorem execBackupRejoinTimeout_hbm (t : Time) (s : State) :
    ∃ next, execBackupRejoinTimeout t s = .next next ∧ next.hbm = s.hbm := by
  refine ⟨_, rfl, State.event_hbm _ _ _ _ fun _ => ?_⟩
  have fw : ∀ (a : State) (w : FwUpdate), ({ a with fwUpdate := w } : State).hbm = a.hbm := fun _ _ => rfl
  dsimp only
  split
  · rw [State.fwBell_hbm]
    exact (fw _ _).trans (State.modFlash_hbm _ _)
  · rfl

theorem execRaiseSvn_hbm (ln : Ln) (s : State) :
    ∃ next, execRaiseSvn ln s = .next next ∧ next.hbm = s.hbm := by
  refine ⟨_, rfl, State.judged_hbm _ _ _ _ _ fun u => ?_⟩
  dsimp only
  split
  · simp
  · rw [State.ok_hbm]
    rfl

theorem execSpanBlockSend_hbm (i : SpdIx) (t : Time) (s : State) :
    ∃ next, execSpanBlockSend i t s = .next next ∧ next.hbm = s.hbm := by
  refine ⟨_, rfl, ?_⟩
  apply State.event_hbm
  intro g
  dsimp only
  (repeat' split) <;> first | rfl | (simp; done) | (simp only [State.hbm, Hbm.mk.injEq] <;> simp [↓hbm_mk, hbm_eqs]; done)

theorem execSpanBlockReceived_hbm (i : SpdIx) (decoded replay : Bool) (symbols : Nat) (b : BitVec 2570) (t : Time) (s : State) :
    ∃ next, execSpanBlockReceived i decoded replay symbols b t s = .next next ∧ next.hbm = s.hbm := by
  refine ⟨_, rfl, ?_⟩
  apply State.event_hbm
  intro g
  (repeat' split) <;> first | rfl | (simp; done) | (simp only [State.hbm, Hbm.mk.injEq] <;> simp [↓hbm_mk, hbm_eqs]; done)

theorem execSpanReplayTimeout_hbm (i : SpdIx) (t : Time) (s : State) :
    ∃ next, execSpanReplayTimeout i t s = .next next ∧ next.hbm = s.hbm := by
  refine ⟨_, rfl, ?_⟩
  apply State.event_hbm
  intro g
  (repeat' split) <;> first | rfl | (simp; done) | (simp only [State.hbm, Hbm.mk.injEq] <;> simp [↓hbm_mk, hbm_eqs]; done)

theorem execSpanDownTimeout_hbm (i : SpdIx) (t : Time) (s : State) :
    ∃ next, execSpanDownTimeout i t s = .next next ∧ next.hbm = s.hbm := by
  refine ⟨_, rfl, ?_⟩
  apply State.event_hbm
  intro g
  (repeat' split) <;> first | rfl | (simp; done) | (simp only [State.hbm, Hbm.mk.injEq] <;> simp [↓hbm_mk, hbm_eqs]; done)

theorem execSpanRxSilence_hbm (i : SpdIx) (t : Time) (s : State) :
    ∃ next, execSpanRxSilence i t s = .next next ∧ next.hbm = s.hbm := by
  refine ⟨_, rfl, ?_⟩
  apply State.event_hbm
  intro g
  (repeat' split) <;> first | rfl | (simp; done) | (simp only [State.hbm, Hbm.mk.injEq] <;> simp [↓hbm_mk, hbm_eqs]; done)

theorem execTrainBlockReceived_hbm (i : SpdIx) (locked : BitVec 16) (b : BitVec 2570) (t : Time) (s : State) :
    ∃ next, execTrainBlockReceived i locked b t s = .next next ∧ next.hbm = s.hbm := by
  refine ⟨_, rfl, ?_⟩
  apply State.event_hbm
  intro g
  (repeat' split) <;> first | rfl | (simp; done) | (simp only [State.hbm, Hbm.mk.injEq] <;> simp [↓hbm_mk, hbm_eqs]; done)

theorem execTrainingTimeout_hbm (i : SpdIx) (t : Time) (s : State) :
    ∃ next, execTrainingTimeout i t s = .next next ∧ next.hbm = s.hbm := by
  refine ⟨_, rfl, ?_⟩
  apply State.event_hbm
  intro g
  (repeat' split) <;> first | rfl | (simp; done) | (simp only [State.hbm, Hbm.mk.injEq] <;> simp [↓hbm_mk, hbm_eqs]; done)

theorem execTrainRefuseExpiry_hbm (i : SpdIx) (t : Time) (s : State) :
    ∃ next, execTrainRefuseExpiry i t s = .next next ∧ next.hbm = s.hbm := by
  refine ⟨_, rfl, ?_⟩
  apply State.event_hbm
  intro g
  (repeat' split) <;> first | rfl | (simp; done) | (simp only [State.hbm, Hbm.mk.injEq] <;> simp [↓hbm_mk, hbm_eqs]; done)

theorem execMemberExcluded_hbm (w : Fin 16) (t : Time) (s : State) :
    ∃ next, execMemberExcluded w t s = .next next ∧ next.hbm = s.hbm := by
  refine ⟨_, rfl, ?_⟩
  apply State.event_hbm
  intro g
  (repeat' split) <;> first | rfl | (simp; done) | (simp only [State.hbm, Hbm.mk.injEq] <;> simp [↓hbm_mk, hbm_eqs]; done)

theorem execSpdDoubt_hbm (i : SpdIx) (cause : Nat) (t : Time) (s : State) :
    ∃ next, execSpdDoubt i cause t s = .next next ∧ next.hbm = s.hbm := by
  refine ⟨_, rfl, ?_⟩
  apply State.event_hbm
  intro g
  (repeat' split) <;> first | rfl | (simp; done) | (simp only [State.hbm, Hbm.mk.injEq] <;> simp [↓hbm_mk, hbm_eqs]; done)

theorem execShowSpan_hbm (spd : Nat) (ln : Ln) (s : State) :
    ∃ next, execShowSpan spd ln s = .next next ∧ next.hbm = s.hbm := by
  refine ⟨_, rfl, ?_⟩
  apply State.judged_hbm
  intro u
  (repeat' split) <;> first | rfl | (simp; done) | (simp only [State.hbm, Hbm.mk.injEq] <;> simp [↓hbm_mk, hbm_eqs]; done)

theorem execRetrainSpan_hbm (spd : Nat) (ln : Ln) (s : State) :
    ∃ next, execRetrainSpan spd ln s = .next next ∧ next.hbm = s.hbm := by
  refine ⟨_, rfl, ?_⟩
  apply State.judged_hbm
  intro u
  (repeat' split) <;> first | rfl | (simp; done) | (simp only [State.hbm, Hbm.mk.injEq] <;> simp [↓hbm_mk, hbm_eqs]; done)

theorem execShowFlock_hbm (ln : Ln) (s : State) :
    ∃ next, execShowFlock ln s = .next next ∧ next.hbm = s.hbm := by
  refine ⟨_, rfl, ?_⟩
  apply State.judged_hbm
  intro u
  (repeat' split) <;> first | rfl | (simp; done) | (simp only [State.hbm, Hbm.mk.injEq] <;> simp [↓hbm_mk, hbm_eqs]; done)

theorem execSetFlock_hbm (id : BitVec 32) (wafer : Nat) (members : List Nat) (ln : Ln) (s : State) :
    ∃ next, execSetFlock id wafer members ln s = .next next ∧ next.hbm = s.hbm := by
  refine ⟨_, rfl, State.judged_hbm _ _ _ _ _ fun u => State.inRange_hbm _ _ _ _ _ _ _ ?_⟩
  split
  · simp
  · split
    · simp
    · rename_i h
      rw [State.ok_hbm]
      exact setFlash_hbm _ (flashTakes_frozen h)

theorem execSensorSample_hbm (x : Sample) (t : Time) (s : State) :
    ∃ next, execSensorSample x t s = .next next ∧ next.hbm = s.hbm := by
  refine ⟨_, rfl, ?_⟩
  apply State.event_hbm
  intro g
  (repeat' split) <;> first | rfl | (simp; done) | (simp only [State.hbm, Hbm.mk.injEq] <;> simp [↓hbm_mk, hbm_eqs]; done)

theorem execThermalTripRetry_hbm (n : Pad) (t : Time) (s : State) :
    ∃ next, execThermalTripRetry n t s = .next next ∧ next.hbm = s.hbm := by
  refine ⟨_, rfl, ?_⟩
  apply State.event_hbm
  intro g
  (repeat' split) <;> first | rfl | (simp; done) | (simp only [State.hbm, Hbm.mk.injEq] <;> simp [↓hbm_mk, hbm_eqs]; done)

theorem execThermalRetryVerdict_hbm (n : Pad) (t : Time) (s : State) :
    ∃ next, execThermalRetryVerdict n t s = .next next ∧ next.hbm = s.hbm := by
  refine ⟨_, rfl, ?_⟩
  apply State.event_hbm
  intro g
  (repeat' split) <;> first | rfl | (simp; done) | (simp only [State.hbm, Hbm.mk.injEq] <;> simp [↓hbm_mk, hbm_eqs]; done)

theorem execLoopCheck_hbm (inlet outlet : Option Int) (t : Time) (s : State) :
    ∃ next, execLoopCheck inlet outlet t s = .next next ∧ next.hbm = s.hbm := by
  refine ⟨_, rfl, ?_⟩
  apply State.event_hbm
  intro g
  (repeat' split) <;> first | rfl | (simp; done) | (simp only [State.hbm, Hbm.mk.injEq] <;> simp [↓hbm_mk, hbm_eqs]; done)

theorem execShowThermal_hbm (ln : Ln) (s : State) :
    ∃ next, execShowThermal ln s = .next next ∧ next.hbm = s.hbm := by
  refine ⟨_, rfl, ?_⟩
  apply State.judged_hbm
  intro u
  (repeat' split) <;> first | rfl | (simp; done) | (simp only [State.hbm, Hbm.mk.injEq] <;> simp [↓hbm_mk, hbm_eqs]; done)

theorem execShowSensors_hbm (at_ : Sum Loc DieName) (ln : Ln) (s : State) :
    ∃ next, execShowSensors at_ ln s = .next next ∧ next.hbm = s.hbm := by
  refine ⟨_, rfl, ?_⟩
  apply State.judged_hbm
  intro u
  (repeat' split) <;> first | rfl | (simp; done) | (simp only [State.hbm, Hbm.mk.injEq] <;> simp [↓hbm_mk, hbm_eqs]; done)

end Sys2Proof.Machine
end

