-- ==== Sys2Proof/Laws/Held.lean ====
section
/-! SUPPORT. While the engine is held in reset, a command changes the moment and nothing else. -/
namespace Sys2Proof.Machine

open Sys2Proof

set_option linter.all false

theorem State.event_held {s : State} (h : s.resetN = true) (t : Time) (c : State → Bool) (f : State → State) :
    s.event t c f = s.tick t := by
  simp [State.event, State.running, State.tick, h]

theorem State.hears_held {s : State} (h : s.resetN = true) (t : Time) (i : Nat) : (s.tick t).hears i = false := by
  simp [State.hears, State.running, State.tick, h]

theorem State.judged_held {s : State} (h : s.resetN = true) (ln : Ln) (need : Level) (boot : Bool) (body : State → State) :
    s.judged ln need boot body = s.tick ln.t := by
  simp [State.judged, State.hears_held h]

theorem State.sessionVerb_held {s : State} (h : s.resetN = true) (ln : Ln) (body : State → State) :
    s.sessionVerb ln body = s.tick ln.t := by
  simp [State.sessionVerb, State.hears_held h]

theorem execFirmwareVerified_held (shc : ShcIx) (sigs : List Bool) (stepField : BitVec 4) (t : Time) (s : State) (hr : s.resetN = true) :
    execFirmwareVerified shc sigs stepField t s = .next (s.tick t) := by
  simp [execFirmwareVerified, State.event_held hr]

theorem execRecoveryImageReceived_held (shc : ShcIx) (image : List Byte) (sigOk : Bool) (t : Time) (s : State) (hr : s.resetN = true) :
    execRecoveryImageReceived shc image sigOk t s = .next (s.tick t) := by
  simp [execRecoveryImageReceived, State.event_held hr]

theorem execStagesSettled_held (failed : List Nat) (t : Time) (s : State) (hr : s.resetN = true) :
    execStagesSettled failed t s = .next (s.tick t) := by
  simp [execStagesSettled, State.event_held hr]

theorem execEdgeDieTestComplete_held (die : Nat) (passed : Bool) (t : Time) (s : State) (hr : s.resetN = true) :
    execEdgeDieTestComplete die passed t s = .next (s.tick t) := by
  simp [execEdgeDieTestComplete, State.event_held hr]

theorem execReferenceWaitTimeout_held (t : Time) (s : State) (hr : s.resetN = true) :
    execReferenceWaitTimeout t s = .next (s.tick t) := by
  simp [execReferenceWaitTimeout, State.event_held hr]

theorem execAonRailsInWindow_held (t : Time) (s : State) (hr : s.resetN = true) :
    execAonRailsInWindow t s = .next (s.tick t) := by
  simp [execAonRailsInWindow, State.event_held hr]

theorem execCoreRailGroup_held (g : Fin 7) (t : Time) (s : State) (hr : s.resetN = true) :
    execCoreRailGroup g t s = .next (s.tick t) := by
  simp [execCoreRailGroup, State.event_held hr]

theorem execRingWaveAdvance_held (t : Time) (s : State) (hr : s.resetN = true) :
    execRingWaveAdvance t s = .next (s.tick t) := by
  simp [execRingWaveAdvance, State.event_held hr]

theorem execPaddockTestComplete_held (n : Pad) (v : PadVerdict) (t : Time) (s : State) (hr : s.resetN = true) :
    execPaddockTestComplete n v t s = .next (s.tick t) := by
  simp [execPaddockTestComplete, State.event_held hr]

theorem execBorderTestComplete_held (x : EndIx) (failed : List (Fin 4)) (t : Time) (s : State) (hr : s.resetN = true) :
    execBorderTestComplete x failed t s = .next (s.tick t) := by
  simp [execBorderTestComplete, State.event_held hr]

theorem execSweep_held (t : Time) (s : State) (hr : s.resetN = true) :
    execSweep t s = .next (s.tick t) := by
  simp [execSweep, State.event_held hr]

theorem execBootMapAndReady_held (flashOk : Bool) (t : Time) (s : State) (hr : s.resetN = true) :
    execBootMapAndReady flashOk t s = .next (s.tick t) := by
  simp [execBootMapAndReady, State.event_held hr]

theorem execShowEngine_held (detail : Bool) (ln : Ln) (s : State) (hr : s.resetN = true) :
    execShowEngine detail ln s = .next (s.tick ln.t) := by
  simp [execShowEngine, State.judged_held hr]

theorem execShowBoot_held (ln : Ln) (s : State) (hr : s.resetN = true) :
    execShowBoot ln s = .next (s.tick ln.t) := by
  simp [execShowBoot, State.judged_held hr]

theorem execSetBoot_held (full : Bool) (ln : Ln) (s : State) (hr : s.resetN = true) :
    execSetBoot full ln s = .next (s.tick ln.t) := by
  simp [execSetBoot, State.judged_held hr]

theorem execSetClear_held (at_ : List Loc) (ln : Ln) (s : State) (hr : s.resetN = true) :
    execSetClear at_ ln s = .next (s.tick ln.t) := by
  simp [execSetClear, State.judged_held hr]

theorem execResetEngine_held (confirm : Bool) (ln : Ln) (s : State) (hr : s.resetN = true) :
    execResetEngine confirm ln s = .next (s.tick ln.t) := by
  simp [execResetEngine, State.judged_held hr]

theorem execClockStep_held (n : Pad) (t : Time) (s : State) (hr : s.resetN = true) :
    execClockStep n t s = .next (s.tick t) := by
  simp [execClockStep, State.event_held hr]

theorem execSetClock_held (at_ : Loc) (n : Nat) (ln : Ln) (s : State) (hr : s.resetN = true) :
    execSetClock at_ n ln s = .next (s.tick ln.t) := by
  simp [execSetClock, State.judged_held hr]

theorem execIslandClockLoss_held (n : Pad) (t : Time) (s : State) (hr : s.resetN = true) :
    execIslandClockLoss n t s = .next (s.tick t) := by
  simp [execIslandClockLoss, State.event_held hr]

theorem execRingLoss_held (f : FieldIx) (t : Time) (s : State) (hr : s.resetN = true) :
    execRingLoss f t s = .next (s.tick t) := by
  simp [execRingLoss, State.event_held hr]

theorem execMeshLock_held (worstPpm : Nat) (t : Time) (s : State) (hr : s.resetN = true) :
    execMeshLock worstPpm t s = .next (s.tick t) := by
  simp [execMeshLock, State.event_held hr]

theorem execReferenceAbsent_held (edge : Option (Fin 4)) (t : Time) (s : State) (hr : s.resetN = true) :
    execReferenceAbsent edge t s = .next (s.tick t) := by
  simp [execReferenceAbsent, State.event_held hr]

theorem execReferenceReturn_held (edge : Option (Fin 4)) (t : Time) (s : State) (hr : s.resetN = true) :
    execReferenceReturn edge t s = .next (s.tick t) := by
  simp [execReferenceReturn, State.event_held hr]

theorem execThrottleEval_held (f : FieldIx) (t : Time) (s : State) (hr : s.resetN = true) :
    execThrottleEval f t s = .next (s.tick t) := by
  simp [execThrottleEval, State.event_held hr]

theorem execConsoleBreak_held (con : Fin 2) (t : Time) (s : State) (hr : s.resetN = true) :
    execConsoleBreak con t s = .next (s.tick t) := by
  simp [execConsoleBreak, State.event_held hr]

theorem execCtsChange_held (con : Fin 2) (asserted : Bool) (t : Time) (s : State) (hr : s.resetN = true) :
    execCtsChange con asserted t s = .next (s.tick t) := by
  simp [execCtsChange, State.event_held hr]

theorem execConsoleCharacter_held (con : Fin 2) (b : Byte) (t : Time) (s : State) (hr : s.resetN = true) :
    execConsoleCharacter con b t s = .next (s.tick t) := by
  simp [execConsoleCharacter, State.event_held hr]

theorem execTcpConnect_held (t : Time) (s : State) (hr : s.resetN = true) :
    execTcpConnect t s = .next (s.tick t) := by
  simp [execTcpConnect, State.event_held hr]

theorem execTcpClose_held (sess : Fin 10) (t : Time) (s : State) (hr : s.resetN = true) :
    execTcpClose sess t s = .next (s.tick t) := by
  simp [execTcpClose, State.event_held hr]

theorem execMgmtPacket_held (bytes : List Byte) (t : Time) (s : State) (hr : s.resetN = true) :
    execMgmtPacket bytes t s = .next (s.tick t) := by
  simp [execMgmtPacket, State.event_held hr]

theorem execArpAnnounce_held (t : Time) (s : State) (hr : s.resetN = true) :
    execArpAnnounce t s = .next (s.tick t) := by
  simp [execArpAnnounce, State.event_held hr]

theorem execIdleTimeout_held (sess : Fin 10) (t : Time) (s : State) (hr : s.resetN = true) :
    execIdleTimeout sess t s = .next (s.tick t) := by
  simp [execIdleTimeout, State.event_held hr, State.hears_held hr]

theorem execChallengeExpiry_held (sess : Fin 10) (t : Time) (s : State) (hr : s.resetN = true) :
    execChallengeExpiry sess t s = .next (s.tick t) := by
  simp [execChallengeExpiry, State.event_held hr]

theorem execLoginLockExpiry_held (sess : Fin 10) (t : Time) (s : State) (hr : s.resetN = true) :
    execLoginLockExpiry sess t s = .next (s.tick t) := by
  simp [execLoginLockExpiry, State.event_held hr]

theorem execBellsLostNotice_held (sess : Fin 10) (t : Time) (s : State) (hr : s.resetN = true) :
    execBellsLostNotice sess t s = .next (s.tick t) := by
  simp [execBellsLostNotice, State.event_held hr]

theorem execLoginRequest_held (user : List Byte) (ln : Ln) (s : State) (hr : s.resetN = true) :
    execLoginRequest user ln s = .next (s.tick ln.t) := by
  simp [execLoginRequest, State.sessionVerb_held hr]

theorem execLoginResponse_held (user sig : List Byte) (ln : Ln) (s : State) (hr : s.resetN = true) :
    execLoginResponse user sig ln s = .next (s.tick ln.t) := by
  simp [execLoginResponse, State.sessionVerb_held hr]

theorem execLogout_held (ln : Ln) (s : State) (hr : s.resetN = true) :
    execLogout ln s = .next (s.tick ln.t) := by
  simp [execLogout, State.sessionVerb_held hr]

theorem execPing_held (ln : Ln) (s : State) (hr : s.resetN = true) :
    execPing ln s = .next (s.tick ln.t) := by
  simp [execPing, State.sessionVerb_held hr]

theorem execMode_held (echo crc : Option Bool) (bells : Option (Fin 3)) (idle : Option Nat) (ln : Ln) (s : State) (hr : s.resetN = true) :
    execMode echo crc bells idle ln s = .next (s.tick ln.t) := by
  simp [execMode, State.sessionVerb_held hr]

theorem execBadLine_held (sess : Fin 10) (bytes : List Byte) (overrun : Bool) (t : Time) (s : State) (hr : s.resetN = true) :
    execBadLine sess bytes overrun t s = .next (s.tick t) := by
  simp [execBadLine, State.hears_held hr]

theorem execSetConsole_held (con : Nat) (baud : Option Nat) (flow : Option Bool) (ln : Ln) (s : State) (hr : s.resetN = true) :
    execSetConsole con baud flow ln s = .next (s.tick ln.t) := by
  simp [execSetConsole, State.judged_held hr]

theorem execSetNet_held (ip mask gw : BitVec 32) (mac : BitVec 48) (ln : Ln) (s : State) (hr : s.resetN = true) :
    execSetNet ip mask gw mac ln s = .next (s.tick ln.t) := by
  simp [execSetNet, State.judged_held hr]

theorem execOpenStage_held (firmware : Bool) (size : Nat) (ln : Ln) (s : State) (hr : s.resetN = true) :
    execOpenStage firmware size ln s = .next (s.tick ln.t) := by
  simp [execOpenStage, State.judged_held hr]

theorem execPutStage_held (id off : Nat) (data : List Byte) (ln : Ln) (s : State) (hr : s.resetN = true) :
    execPutStage id off data ln s = .next (s.tick ln.t) := by
  simp [execPutStage, State.judged_held hr]

theorem execShowStage_held (ln : Ln) (s : State) (hr : s.resetN = true) :
    execShowStage ln s = .next (s.tick ln.t) := by
  simp [execShowStage, State.judged_held hr]

theorem execDropStage_held (id : Nat) (ln : Ln) (s : State) (hr : s.resetN = true) :
    execDropStage id ln s = .next (s.tick ln.t) := by
  simp [execDropStage, State.judged_held hr]

theorem execAddUser_held (name : List Byte) (level : Level) (key : List Byte) (ln : Ln) (s : State) (hr : s.resetN = true) :
    execAddUser name level key ln s = .next (s.tick ln.t) := by
  simp [execAddUser, State.judged_held hr, State.sessionVerb_held hr, State.wrongForm]

theorem execRemoveUser_held (name : List Byte) (ln : Ln) (s : State) (hr : s.resetN = true) :
    execRemoveUser name ln s = .next (s.tick ln.t) := by
  simp [execRemoveUser, State.judged_held hr]

theorem execShowUsers_held (ln : Ln) (s : State) (hr : s.resetN = true) :
    execShowUsers ln s = .next (s.tick ln.t) := by
  simp [execShowUsers, State.judged_held hr]

theorem execAdmission_held (k : NedIx) (f : FrameIn) (t : Time) (s : State) (hr : s.resetN = true) :
    execAdmission k f t s = .next (s.tick t) := by
  simp [execAdmission, State.event_held hr]

theorem execGroupVerdict_held (k : NedIx) (fid : Nat) (group : GroupRead) (t : Time) (s : State) (hr : s.resetN = true) :
    execGroupVerdict k fid group t s = .next (s.tick t) := by
  simp [execGroupVerdict, State.event_held hr]

theorem execFcsVerdict_held (k : NedIx) (fid : Nat) (good : Bool) (t : Time) (s : State) (hr : s.resetN = true) :
    execFcsVerdict k fid good t s = .next (s.tick t) := by
  simp [execFcsVerdict, State.event_held hr]

theorem execFrameTail_held (k : NedIx) (fid : Nat) (t : Time) (s : State) (hr : s.resetN = true) :
    execFrameTail k fid t s = .next (s.tick t) := by
  simp [execFrameTail, State.event_held hr]

theorem execSpeculationAbort_held (k : NedIx) (fid : Nat) (t : Time) (s : State) (hr : s.resetN = true) :
    execSpeculationAbort k fid t s = .next (s.tick t) := by
  simp [execSpeculationAbort, State.event_held hr]

theorem execResultArrival_held (k : NedIx) (e : Fin 2) (lane : Lane) (vc : Bool) (t : Time) (s : State) (hr : s.resetN = true) :
    execResultArrival k e lane vc t s = .next (s.tick t) := by
  simp [execResultArrival, State.event_held hr]

theorem execReplyStart_held (k : NedIx) (fid : Nat) (t : Time) (s : State) (hr : s.resetN = true) :
    execReplyStart k fid t s = .next (s.tick t) := by
  simp [execReplyStart, State.event_held hr]

theorem execPtpEvent_held (k : NedIx) (port : Fin 8) (bytes : List Byte) (egress : Bool) (sfd t : Time) (s : State) (hr : s.resetN = true) :
    execPtpEvent k port bytes egress sfd t s = .next (s.tick t) := by
  simp [execPtpEvent, State.event_held hr]

theorem execRsFault_held (k : NedIx) (port : Fin 8) (remote : Bool) (t : Time) (s : State) (hr : s.resetN = true) :
    execRsFault k port remote t s = .next (s.tick t) := by
  simp [execRsFault, State.event_held hr]

theorem execRsFaultCleared_held (k : NedIx) (fault : PortFault) (t : Time) (s : State) (hr : s.resetN = true) :
    execRsFaultCleared k fault t s = .next (s.tick t) := by
  simp [execRsFaultCleared, State.event_held hr]

theorem execNedDoubt_held (k : NedIx) (cause : Nat) (t : Time) (s : State) (hr : s.resetN = true) :
    execNedDoubt k cause t s = .next (s.tick t) := by
  simp [execNedDoubt, State.event_held hr]

theorem execPwrFailNedStop_held (t : Time) (s : State) (hr : s.resetN = true) :
    execPwrFailNedStop t s = .next (s.tick t) := by
  simp [execPwrFailNedStop, State.event_held hr]

theorem execKeepaliveLoss_held (die : Nat) (t : Time) (s : State) (hr : s.resetN = true) :
    execKeepaliveLoss die t s = .next (s.tick t) := by
  simp [execKeepaliveLoss, State.event_held hr]

theorem execPortDrainComplete_held (k : NedIx) (port : Fin 8) (t : Time) (s : State) (hr : s.resetN = true) :
    execPortDrainComplete k port t s = .next (s.tick t) := by
  simp [execPortDrainComplete, State.event_held hr]

theorem execPortDrainExpiry_held (k : NedIx) (port : Fin 8) (t : Time) (s : State) (hr : s.resetN = true) :
    execPortDrainExpiry k port t s = .next (s.tick t) := by
  simp [execPortDrainExpiry, State.event_held hr]

theorem execPortSettingsApplied_held (k : NedIx) (port : Fin 8) (t : Time) (s : State) (hr : s.resetN = true) :
    execPortSettingsApplied k port t s = .next (s.tick t) := by
  simp [execPortSettingsApplied, State.event_held hr]

theorem execPenRelease_held (k : NedIx) (t : Time) (s : State) (hr : s.resetN = true) :
    execPenRelease k t s = .next (s.tick t) := by
  simp [execPenRelease, State.event_held hr]

theorem execPenDeadlineExpiry_held (k : NedIx) (fid : Nat) (t : Time) (s : State) (hr : s.resetN = true) :
    execPenDeadlineExpiry k fid t s = .next (s.tick t) := by
  simp [execPenDeadlineExpiry, State.event_held hr]

theorem execBurstToken_held (k : NedIx) (t : Time) (s : State) (hr : s.resetN = true) :
    execBurstToken k t s = .next (s.tick t) := by
  simp [execBurstToken, State.event_held hr]

theorem execInFlightLimit_held (k : NedIx) (fid : Nat) (t : Time) (s : State) (hr : s.resetN = true) :
    execInFlightLimit k fid t s = .next (s.tick t) := by
  simp [execInFlightLimit, State.event_held hr]

theorem execStrayRefusal_held (k : NedIx) (tag : BitVec 16) (t : Time) (s : State) (hr : s.resetN = true) :
    execStrayRefusal k tag t s = .next (s.tick t) := by
  simp [execStrayRefusal, State.event_held hr]

theorem execShowPort_held (ned : Nat) (port : Option Nat) (ln : Ln) (s : State) (hr : s.resetN = true) :
    execShowPort ned port ln s = .next (s.tick ln.t) := by
  simp [execShowPort, State.judged_held hr]

theorem execSetLanes_held (ned group mode : Nat) (ln : Ln) (s : State) (hr : s.resetN = true) :
    execSetLanes ned group mode ln s = .next (s.tick ln.t) := by
  simp [execSetLanes, State.judged_held hr]

theorem execSetPort_held (ned port : Nat) (mac : Option (BitVec 48)) (template : Option Nat) (ptp : Option Bool) (eq : Option Nat) (store : Bool) (ln : Ln) (s : State) (hr : s.resetN = true) :
    execSetPort ned port mac template ptp eq store ln s = .next (s.tick ln.t) := by
  simp [execSetPort, State.judged_held hr]

theorem execEnablePort_held (ned port : Nat) (ln : Ln) (s : State) (hr : s.resetN = true) :
    execEnablePort ned port ln s = .next (s.tick ln.t) := by
  simp [execEnablePort, State.judged_held hr]

theorem execDisablePort_held (ned port : Nat) (ln : Ln) (s : State) (hr : s.resetN = true) :
    execDisablePort ned port ln s = .next (s.tick ln.t) := by
  simp [execDisablePort, State.judged_held hr]

theorem execSetTemplate_held (ned index : Nat) (a : TemplateArgs) (ln : Ln) (s : State) (hr : s.resetN = true) :
    execSetTemplate ned index a ln s = .next (s.tick ln.t) := by
  simp [execSetTemplate, State.judged_held hr]

theorem execSetBurst_held (ned rate depth : Nat) (ln : Ln) (s : State) (hr : s.resetN = true) :
    execSetBurst ned rate depth ln s = .next (s.tick ln.t) := by
  simp [execSetBurst, State.judged_held hr]

theorem execSetPtp_held (ned port : Nat) (ln : Ln) (s : State) (hr : s.resetN = true) :
    execSetPtp ned port ln s = .next (s.tick ln.t) := by
  simp [execSetPtp, State.judged_held hr]

theorem execSetBucket_held (ned index fold rate depth : Nat) (burst pen : Option Bool) (ln : Ln) (s : State) (hr : s.resetN = true) :
    execSetBucket ned index fold rate depth burst pen ln s = .next (s.tick ln.t) := by
  simp [execSetBucket, State.judged_held hr]

theorem execShowBucket_held (ned index : Nat) (ln : Ln) (s : State) (hr : s.resetN = true) :
    execShowBucket ned index ln s = .next (s.tick ln.t) := by
  simp [execShowBucket, State.judged_held hr]

theorem execFlockFormation_held (members : List MemberInfo) (t : Time) (s : State) (hr : s.resetN = true) :
    execFlockFormation members t s = .next (s.tick t) := by
  simp [execFlockFormation, State.event_held hr]

theorem execCreateFold_held (a : FoldArgs) (ln : Ln) (s : State) (hr : s.resetN = true) :
    execCreateFold a ln s = .next (s.tick ln.t) := by
  simp [execCreateFold, State.judged_held hr]

theorem execResizeFold_held (id : Nat) (a : ResizeArgs) (ln : Ln) (s : State) (hr : s.resetN = true) :
    execResizeFold id a ln s = .next (s.tick ln.t) := by
  simp [execResizeFold, State.judged_held hr]

theorem execDestroyFold_held (id : Nat) (ln : Ln) (s : State) (hr : s.resetN = true) :
    execDestroyFold id ln s = .next (s.tick ln.t) := by
  simp [execDestroyFold, State.judged_held hr]

theorem execReleaseDrainExpiry_held (fold : Nat) (t : Time) (s : State) (hr : s.resetN = true) :
    execReleaseDrainExpiry fold t s = .next (s.tick t) := by
  simp [execReleaseDrainExpiry, State.event_held hr]

theorem execScrubRecord_held (fold : Nat) (t : Time) (s : State) (hr : s.resetN = true) :
    execScrubRecord fold t s = .next (s.tick t) := by
  simp [execScrubRecord, State.event_held hr]

theorem execSetFold_held (id : Nat) (ckpt : Option (Option Nat)) (pen weight : Option Nat) (ln : Ln) (s : State) (hr : s.resetN = true) :
    execSetFold id ckpt pen weight ln s = .next (s.tick ln.t) := by
  simp [execSetFold, State.judged_held hr]

theorem execSetRotation_held (med : Nat) (slots : Option (List Nat)) (ln : Ln) (s : State) (hr : s.resetN = true) :
    execSetRotation med slots ln s = .next (s.tick ln.t) := by
  simp [execSetRotation, State.judged_held hr]

theorem execShowFold_held (id : Nat) (ln : Ln) (s : State) (hr : s.resetN = true) :
    execShowFold id ln s = .next (s.tick ln.t) := by
  simp [execShowFold, State.judged_held hr]

theorem execShowFolds_held (ln : Ln) (s : State) (hr : s.resetN = true) :
    execShowFolds ln s = .next (s.tick ln.t) := by
  simp [execShowFolds, State.judged_held hr]

theorem execShowKeys_held (fold : Nat) (ln : Ln) (s : State) (hr : s.resetN = true) :
    execShowKeys fold ln s = .next (s.tick ln.t) := by
  simp [execShowKeys, State.judged_held hr]

theorem execExportKey_held (fold : Nat) (ln : Ln) (s : State) (hr : s.resetN = true) :
    execExportKey fold ln s = .next (s.tick ln.t) := by
  simp [execExportKey, State.judged_held hr]

theorem execCreateChannel_held (fold entry : Nat) (index : Option Nat) (ticket : Option (BitVec 32)) (deadline : Option Nat) (spec : Option Bool) (bind : List BindArg) (ln : Ln) (s : State) (hr : s.resetN = true) :
    execCreateChannel fold entry index ticket deadline spec bind ln s = .next (s.tick ln.t) := by
  simp [execCreateChannel, State.judged_held hr]

theorem execBindChannel_held (handle : BitVec 32) (add : BindArg) (ln : Ln) (s : State) (hr : s.resetN = true) :
    execBindChannel handle add ln s = .next (s.tick ln.t) := by
  simp [execBindChannel, State.judged_held hr]

theorem execUnbindChannel_held (handle : BitVec 32) (ned port : Nat) (ln : Ln) (s : State) (hr : s.resetN = true) :
    execUnbindChannel handle ned port ln s = .next (s.tick ln.t) := by
  simp [execUnbindChannel, State.judged_held hr]

theorem execDestroyChannel_held (handle : BitVec 32) (ln : Ln) (s : State) (hr : s.resetN = true) :
    execDestroyChannel handle ln s = .next (s.tick ln.t) := by
  simp [execDestroyChannel, State.judged_held hr]

theorem execShowChannel_held (handle : Sum (BitVec 32) Nat) (ln : Ln) (s : State) (hr : s.resetN = true) :
    execShowChannel handle ln s = .next (s.tick ln.t) := by
  simp [execShowChannel, State.judged_held hr]

theorem execOpenSession_held (fold num anchor cls cap : Nat) (ln : Ln) (s : State) (hr : s.resetN = true) :
    execOpenSession fold num anchor cls cap ln s = .next (s.tick ln.t) := by
  simp [execOpenSession, State.judged_held hr]

theorem execCloseSession_held (fold num : Nat) (ln : Ln) (s : State) (hr : s.resetN = true) :
    execCloseSession fold num ln s = .next (s.tick ln.t) := by
  simp [execCloseSession, State.judged_held hr]

theorem execSessionCloseComplete_held (num : Nat) (t : Time) (s : State) (hr : s.resetN = true) :
    execSessionCloseComplete num t s = .next (s.tick t) := by
  simp [execSessionCloseComplete, State.event_held hr]

theorem execShowSession_held (num : Nat) (ln : Ln) (s : State) (hr : s.resetN = true) :
    execShowSession num ln s = .next (s.tick ln.t) := by
  simp [execShowSession, State.judged_held hr]

theorem execFineIssueCycle_held (n : Pad) (fault : IcFault) (t : Time) (s : State) (hr : s.resetN = true) :
    execFineIssueCycle n fault t s = .next (s.tick t) := by
  simp [execFineIssueCycle, State.event_held hr]

theorem execCoarseIssueCycle_held (n : Pad) (fault : IcFault) (t : Time) (s : State) (hr : s.resetN = true) :
    execCoarseIssueCycle n fault t s = .next (s.tick t) := by
  simp [execCoarseIssueCycle, State.event_held hr]

theorem execWatchdogExpiry_held (n : Pad) (k : CtxIx) (t : Time) (s : State) (hr : s.resetN = true) :
    execWatchdogExpiry n k t s = .next (s.tick t) := by
  simp [execWatchdogExpiry, State.event_held hr]

theorem execContextLeavePlan_held (n : Pad) (k : CtxIx) (t : Time) (s : State) (hr : s.resetN = true) :
    execContextLeavePlan n k t s = .next (s.tick t) := by
  simp [execContextLeavePlan, State.event_held hr]

theorem execEccRereadVerdict_held (n : Pad) (m : Fin 4) (good : Bool) (t : Time) (s : State) (hr : s.resetN = true) :
    execEccRereadVerdict n m good t s = .next (s.tick t) := by
  simp [execEccRereadVerdict, State.event_held hr]

theorem execResidueVerdict_held (n : Pad) (v : Fin 4) (good : Bool) (t : Time) (s : State) (hr : s.resetN = true) :
    execResidueVerdict n v good t s = .next (s.tick t) := by
  simp [execResidueVerdict, State.event_held hr]

theorem execHbmxReturn_held (n : Pad) (m : Fin 4) (t : Time) (s : State) (hr : s.resetN = true) :
    execHbmxReturn n m t s = .next (s.tick t) := by
  simp [execHbmxReturn, State.event_held hr]

theorem execLedgerIntervalEnd_held (fold : Nat) (readBack : List Bool) (t : Time) (s : State) (hr : s.resetN = true) :
    execLedgerIntervalEnd fold readBack t s = .next (s.tick t) := by
  simp [execLedgerIntervalEnd, State.event_held hr]

theorem execLedgerRingRetry_held (readBack : List Bool) (t : Time) (s : State) (hr : s.resetN = true) :
    execLedgerRingRetry readBack t s = .next (s.tick t) := by
  simp [execLedgerRingRetry, State.event_held hr]

theorem execLeaseSecond_held (t : Time) (s : State) (hr : s.resetN = true) :
    execLeaseSecond t s = .next (s.tick t) := by
  simp [execLeaseSecond, State.event_held hr]

theorem execPtpSilence_held (t : Time) (s : State) (hr : s.resetN = true) :
    execPtpSilence t s = .next (s.tick t) := by
  simp [execPtpSilence, State.event_held hr]

theorem execShowTally_held (scope : Scope) (id : Nat) (name : Option Nat) (ln : Ln) (s : State) (hr : s.resetN = true) :
    execShowTally scope id name ln s = .next (s.tick ln.t) := by
  simp [execShowTally, State.judged_held hr]

theorem execShowBells_held (since : Option Nat) (fault : Option Bool) (count : Option Nat) (ln : Ln) (s : State) (hr : s.resetN = true) :
    execShowBells since fault count ln s = .next (s.tick ln.t) := by
  simp [execShowBells, State.judged_held hr]

theorem execShowLedger_held (fold : Nat) (since : Option Nat) (count : Option Nat) (ln : Ln) (s : State) (hr : s.resetN = true) :
    execShowLedger fold since count ln s = .next (s.tick ln.t) := by
  simp [execShowLedger, State.judged_held hr]

theorem execVerifyLedger_held (data : List Byte) (ln : Ln) (s : State) (hr : s.resetN = true) :
    execVerifyLedger data ln s = .next (s.tick ln.t) := by
  simp [execVerifyLedger, State.judged_held hr]

theorem execLoadFold_held (id stage : Nat) (overlap : Bool) (limit : Option Nat) (ln : Ln) (s : State) (hr : s.resetN = true) :
    execLoadFold id stage overlap limit ln s = .next (s.tick ln.t) := by
  simp [execLoadFold, State.judged_held hr]

theorem execLoadStart_held (fold : Nat) (t : Time) (s : State) (hr : s.resetN = true) :
    execLoadStart fold t s = .next (s.tick t) := by
  simp [execLoadStart, State.event_held hr]

theorem execLoadDrainComplete_held (fold : Nat) (t : Time) (s : State) (hr : s.resetN = true) :
    execLoadDrainComplete fold t s = .next (s.tick t) := by
  simp [execLoadDrainComplete, State.event_held hr]

theorem execLoadDrainExpiry_held (fold : Nat) (t : Time) (s : State) (hr : s.resetN = true) :
    execLoadDrainExpiry fold t s = .next (s.tick t) := by
  simp [execLoadDrainExpiry, State.event_held hr]

theorem execLoadDecryptComplete_held (fold : Nat) (t : Time) (s : State) (hr : s.resetN = true) :
    execLoadDecryptComplete fold t s = .next (s.tick t) := by
  simp [execLoadDecryptComplete, State.event_held hr]

theorem execCommitConfirmed_held (fold : Nat) (t : Time) (s : State) (hr : s.resetN = true) :
    execCommitConfirmed fold t s = .next (s.tick t) := by
  simp [execCommitConfirmed, State.event_held hr]

theorem execContextStage_held (fold : Nat) (n : Pad) (k : CtxIx) (t : Time) (s : State) (hr : s.resetN = true) :
    execContextStage fold n k t s = .next (s.tick t) := by
  simp [execContextStage, State.event_held hr]

theorem execStageWaitExpiry_held (fold : Nat) (t : Time) (s : State) (hr : s.resetN = true) :
    execStageWaitExpiry fold t s = .next (s.tick t) := by
  simp [execStageWaitExpiry, State.event_held hr]

theorem execStandbyConfirmed_held (fold : Nat) (t : Time) (s : State) (hr : s.resetN = true) :
    execStandbyConfirmed fold t s = .next (s.tick t) := by
  simp [execStandbyConfirmed, State.event_held hr]

theorem execTransitionStart_held (fold : Nat) (t : Time) (s : State) (hr : s.resetN = true) :
    execTransitionStart fold t s = .next (s.tick t) := by
  simp [execTransitionStart, State.event_held hr]

theorem execBellwetherArrival_held (n : Pad) (k : CtxIx) (t : Time) (s : State) (hr : s.resetN = true) :
    execBellwetherArrival n k t s = .next (s.tick t) := by
  simp [execBellwetherArrival, State.event_held hr]

theorem execNedBellwether_held (k : NedIx) (e : Fin 2) (lane : Lane) (vc : Bool) (t : Time) (s : State) (hr : s.resetN = true) :
    execNedBellwether k e lane vc t s = .next (s.tick t) := by
  simp [execNedBellwether, State.event_held hr]

theorem execSwitchLimitExpiry_held (fold : Nat) (t : Time) (s : State) (hr : s.resetN = true) :
    execSwitchLimitExpiry fold t s = .next (s.tick t) := by
  simp [execSwitchLimitExpiry, State.event_held hr]

theorem execShowMap_held (at_ : Option (List Loc)) (ln : Ln) (s : State) (hr : s.resetN = true) :
    execShowMap at_ ln s = .next (s.tick ln.t) := by
  simp [execShowMap, State.judged_held hr]

theorem execExportMap_held (ln : Ln) (s : State) (hr : s.resetN = true) :
    execExportMap ln s = .next (s.tick ln.t) := by
  simp [execExportMap, State.judged_held hr]

theorem execSetReserve_held (c r : Nat) (on : Bool) (ln : Ln) (s : State) (hr : s.resetN = true) :
    execSetReserve c r on ln s = .next (s.tick ln.t) := by
  simp [execSetReserve, State.judged_held hr]

theorem execSetExclude_held (x y : Nat) (on : Bool) (ln : Ln) (s : State) (hr : s.resetN = true) :
    execSetExclude x y on ln s = .next (s.tick ln.t) := by
  simp [execSetExclude, State.judged_held hr]

theorem execMemReqReceived_held (k : MedIx) (e : Fin 2) (lane : Lane) (vc : Bool) (t : Time) (s : State) (hr : s.resetN = true) :
    execMemReqReceived k e lane vc t s = .next (s.tick t) := by
  simp [execMemReqReceived, State.event_held hr]

theorem execHbmBurstRead_held (k : MedIx) (i : Nat) (sev : EccSev) (t : Time) (s : State) (hr : s.resetN = true) :
    execHbmBurstRead k i sev t s = .next (s.tick t) := by
  simp [execHbmBurstRead, State.event_held hr]

theorem execHbmRereadVerdict_held (k : MedIx) (good : Bool) (t : Time) (s : State) (hr : s.resetN = true) :
    execHbmRereadVerdict k good t s = .next (s.tick t) := by
  simp [execHbmRereadVerdict, State.event_held hr]

theorem execStackTempRead_held (k : MedIx) (read : StackRead) (t : Time) (s : State) (hr : s.resetN = true) :
    execStackTempRead k read t s = .next (s.tick t) := by
  simp [execStackTempRead, State.event_held hr]

theorem execPageScrub_held (k : MedIx) (page : Fin 12288) (t : Time) (s : State) (hr : s.resetN = true) :
    execPageScrub k page t s = .next (s.tick t) := by
  simp [execPageScrub, State.event_held hr]

theorem execRotationSlot_held (k : MedIx) (t : Time) (s : State) (hr : s.resetN = true) :
    execRotationSlot k t s = .next (s.tick t) := by
  simp [execRotationSlot, State.event_held hr]

theorem execMedDoubt_held (k : MedIx) (cause : Nat) (t : Time) (s : State) (hr : s.resetN = true) :
    execMedDoubt k cause t s = .next (s.tick t) := by
  simp [execMedDoubt, State.event_held hr]

theorem execLinkBeatSend_held (x : EndIx) (lane : Lane) (t : Time) (s : State) (hr : s.resetN = true) :
    execLinkBeatSend x lane t s = .next (s.tick t) := by
  simp [execLinkBeatSend, State.event_held hr]

theorem execBeatReceived_held (x : EndIx) (lane : Lane) (vc0 vc1 : Bool) (b : BitVec 616) (t : Time) (s : State) (hr : s.resetN = true) :
    execBeatReceived x lane vc0 vc1 b t s = .next (s.tick t) := by
  simp [execBeatReceived, State.event_held hr]

theorem execReplayTimeout_held (x : EndIx) (lane : Lane) (t : Time) (s : State) (hr : s.resetN = true) :
    execReplayTimeout x lane t s = .next (s.tick t) := by
  simp [execReplayTimeout, State.event_held hr]

theorem execReplayDownTimeout_held (x : EndIx) (lane : Lane) (t : Time) (s : State) (hr : s.resetN = true) :
    execReplayDownTimeout x lane t s = .next (s.tick t) := by
  simp [execReplayDownTimeout, State.event_held hr]

theorem execReceiverSilence_held (x : EndIx) (lane : Lane) (t : Time) (s : State) (hr : s.resetN = true) :
    execReceiverSilence x lane t s = .next (s.tick t) := by
  simp [execReceiverSilence, State.event_held hr]

theorem execLane0Precompile_held (t : Time) (s : State) (hr : s.resetN = true) :
    execLane0Precompile t s = .next (s.tick t) := by
  simp [execLane0Precompile, State.event_held hr]

theorem execDockTransfer_held (n : Pad) (t : Time) (s : State) (hr : s.resetN = true) :
    execDockTransfer n t s = .next (s.tick t) := by
  simp [execDockTransfer, State.event_held hr]

theorem execPwrFailFlashFreeze_held (t : Time) (s : State) (hr : s.resetN = true) :
    execPwrFailFlashFreeze t s = .next (s.tick t) := by
  simp [execPwrFailFlashFreeze, State.event_held hr]

theorem execBusSample_held (shc : ShcIx) (mvA mvB : Nat) (t : Time) (s : State) (hr : s.resetN = true) :
    execBusSample shc mvA mvB t s = .next (s.tick t) := by
  simp [execBusSample, State.event_held hr]

theorem execRailDeparture_held (f : FieldIx) (vaon : Bool) (mv : Nat) (t : Time) (s : State) (hr : s.resetN = true) :
    execRailDeparture f vaon mv t s = .next (s.tick t) := by
  simp [execRailDeparture, State.event_held hr]

theorem execVcoreRecoveryVerdict_held (f : FieldIx) (back : Option Time) (t : Time) (s : State) (hr : s.resetN = true) :
    execVcoreRecoveryVerdict f back t s = .next (s.tick t) := by
  simp [execVcoreRecoveryVerdict, State.event_held hr]

theorem execRailStep_held (f : FieldIx) (t : Time) (s : State) (hr : s.resetN = true) :
    execRailStep f t s = .next (s.tick t) := by
  simp [execRailStep, State.event_held hr]

theorem execPowerWaveStart_held (t : Time) (s : State) (hr : s.resetN = true) :
    execPowerWaveStart t s = .next (s.tick t) := by
  simp [execPowerWaveStart, State.event_held hr]

theorem execSoftStartComplete_held (n : Pad) (t : Time) (s : State) (hr : s.resetN = true) :
    execSoftStartComplete n t s = .next (s.tick t) := by
  simp [execSoftStartComplete, State.event_held hr]

theorem execEfuseTrip_held (n : Pad) (milliamps : Nat) (t : Time) (s : State) (hr : s.resetN = true) :
    execEfuseTrip n milliamps t s = .next (s.tick t) := by
  simp [execEfuseTrip, State.event_held hr]

theorem execEfuseRetry_held (n : Pad) (t : Time) (s : State) (hr : s.resetN = true) :
    execEfuseRetry n t s = .next (s.tick t) := by
  simp [execEfuseRetry, State.event_held hr]

theorem execEfuseRetryVerdict_held (n : Pad) (peak : Nat) (t : Time) (s : State) (hr : s.resetN = true) :
    execEfuseRetryVerdict n peak t s = .next (s.tick t) := by
  simp [execEfuseRetryVerdict, State.event_held hr]

theorem execFieldStageShutdown_held (f : FieldIx) (vaon : Bool) (t : Time) (s : State) (hr : s.resetN = true) :
    execFieldStageShutdown f vaon t s = .next (s.tick t) := by
  simp [execFieldStageShutdown, State.event_held hr]

theorem execFieldRetry_held (f : FieldIx) (t : Time) (s : State) (hr : s.resetN = true) :
    execFieldRetry f t s = .next (s.tick t) := by
  simp [execFieldRetry, State.event_held hr]

theorem execFieldRetryVerdict_held (f : FieldIx) (held : Bool) (t : Time) (s : State) (hr : s.resetN = true) :
    execFieldRetryVerdict f held t s = .next (s.tick t) := by
  simp [execFieldRetryVerdict, State.event_held hr]

theorem execPmbAlert_held (addr status : Nat) (t : Time) (s : State) (hr : s.resetN = true) :
    execPmbAlert addr status t s = .next (s.tick t) := by
  simp [execPmbAlert, State.event_held hr]

theorem execTelemetryRead_held (reads : List PmbRead) (t : Time) (s : State) (hr : s.resetN = true) :
    execTelemetryRead reads t s = .next (s.tick t) := by
  simp [execTelemetryRead, State.event_held hr]

theorem execPmbusRetryPoll_held (r : PmbRead) (t : Time) (s : State) (hr : s.resetN = true) :
    execPmbusRetryPoll r t s = .next (s.tick t) := by
  simp [execPmbusRetryPoll, State.event_held hr]

theorem execShowPower_held (ln : Ln) (s : State) (hr : s.resetN = true) :
    execShowPower ln s = .next (s.tick ln.t) := by
  simp [execShowPower, State.judged_held hr]

theorem execSetBus_held (shared : Bool) (ln : Ln) (s : State) (hr : s.resetN = true) :
    execSetBus shared ln s = .next (s.tick ln.t) := by
  simp [execSetBus, State.judged_held hr]

theorem execSetRail_held (x y mv : Nat) (ln : Ln) (s : State) (hr : s.resetN = true) :
    execSetRail x y mv ln s = .next (s.tick ln.t) := by
  simp [execSetRail, State.judged_held hr]

theorem execSetPower_held (at_ : Loc) (dark : Bool) (ln : Ln) (s : State) (hr : s.resetN = true) :
    execSetPower at_ dark ln s = .next (s.tick ln.t) := by
  simp [execSetPower, State.judged_held hr]

theorem execClearField_held (x y : Nat) (held : Bool) (ln : Ln) (s : State) (hr : s.resetN = true) :
    execClearField x y held ln s = .next (s.tick ln.t) := by
  simp [execClearField, State.judged_held hr]

theorem execCheckpointDue_held (fold : Nat) (t : Time) (s : State) (hr : s.resetN = true) :
    execCheckpointDue fold t s = .next (s.tick t) := by
  simp [execCheckpointDue, State.event_held hr]

theorem execMusterComplete_held (fold : Nat) (t : Time) (s : State) (hr : s.resetN = true) :
    execMusterComplete fold t s = .next (s.tick t) := by
  simp [execMusterComplete, State.event_held hr]

theorem execMusterTimeout_held (fold : Nat) (t : Time) (s : State) (hr : s.resetN = true) :
    execMusterTimeout fold t s = .next (s.tick t) := by
  simp [execMusterTimeout, State.event_held hr]

theorem execCheckpointWriteDone_held (fold : Nat) (t : Time) (s : State) (hr : s.resetN = true) :
    execCheckpointWriteDone fold t s = .next (s.tick t) := by
  simp [execCheckpointWriteDone, State.event_held hr]

theorem execReportReceived_held (trigger : Trigger) (folds : List Nat) (place : Nat) (t : Time) (s : State) (hr : s.resetN = true) :
    execReportReceived trigger folds place t s = .next (s.tick t) := by
  simp [execReportReceived, State.event_held hr]

theorem execReportResend_held (t : Time) (s : State) (hr : s.resetN = true) :
    execReportResend t s = .next (s.tick t) := by
  simp [execReportResend, State.event_held hr]

theorem execDoubtNoticeNed_held (k : NedIx) (fold : Nat) (t : Time) (s : State) (hr : s.resetN = true) :
    execDoubtNoticeNed k fold t s = .next (s.tick t) := by
  simp [execDoubtNoticeNed, State.event_held hr]

theorem execDoubtNoticePaddock_held (n : Pad) (fold : Nat) (t : Time) (s : State) (hr : s.resetN = true) :
    execDoubtNoticePaddock n fold t s = .next (s.tick t) := by
  simp [execDoubtNoticePaddock, State.event_held hr]

theorem execShearComplete_held (fold : Nat) (n : Pad) (good : Bool) (t : Time) (s : State) (hr : s.resetN = true) :
    execShearComplete fold n good t s = .next (s.tick t) := by
  simp [execShearComplete, State.event_held hr, State.hears_held hr]

theorem execCheckpointRestoreComplete_held (fold : Nat) (good : Bool) (t : Time) (s : State) (hr : s.resetN = true) :
    execCheckpointRestoreComplete fold good t s = .next (s.tick t) := by
  simp [execCheckpointRestoreComplete, State.event_held hr]

theorem execRelocRecordWritten_held (fold : Nat) (t : Time) (s : State) (hr : s.resetN = true) :
    execRelocRecordWritten fold t s = .next (s.tick t) := by
  simp [execRelocRecordWritten, State.event_held hr, State.hears_held hr]

theorem execClockRelockVerdict_held (n : Pad) (locked : Option Time) (held : Bool) (t : Time) (s : State) (hr : s.resetN = true) :
    execClockRelockVerdict n locked held t s = .next (s.tick t) := by
  simp [execClockRelockVerdict, State.event_held hr]

theorem execRingRelockVerdict_held (f : FieldIx) (locked : Option Time) (held : Bool) (t : Time) (s : State) (hr : s.resetN = true) :
    execRingRelockVerdict f locked held t s = .next (s.tick t) := by
  simp [execRingRelockVerdict, State.event_held hr]

theorem execReferenceAbsentLong_held (edge : Option (Fin 4)) (t : Time) (s : State) (hr : s.resetN = true) :
    execReferenceAbsentLong edge t s = .next (s.tick t) := by
  simp [execReferenceAbsentLong, State.event_held hr]

theorem execAckFault_held (ln : Ln) (s : State) (hr : s.resetN = true) :
    execAckFault ln s = .next (s.tick ln.t) := by
  simp [execAckFault, State.judged_held hr]

theorem execRestoreDie_held (die : DieName) (passed : Bool) (ln : Ln) (s : State) (hr : s.resetN = true) :
    execRestoreDie die passed ln s = .next (s.tick ln.t) := by
  simp [execRestoreDie, State.judged_held hr]

theorem execRestoreLane_held (c r dir lane : Nat) (passed : Bool) (ln : Ln) (s : State) (hr : s.resetN = true) :
    execRestoreLane c r dir lane passed ln s = .next (s.tick ln.t) := by
  simp [execRestoreLane, State.judged_held hr]

theorem execShowLink_held (c r dir : Nat) (lane : Option Nat) (ln : Ln) (s : State) (hr : s.resetN = true) :
    execShowLink c r dir lane ln s = .next (s.tick ln.t) := by
  simp [execShowLink, State.judged_held hr]

theorem execPeek_held (addr : Nat) (count : Option Nat) (ln : Ln) (s : State) (hr : s.resetN = true) :
    execPeek addr count ln s = .next (s.tick ln.t) := by
  simp [execPeek, State.judged_held hr]

theorem execPoke_held (addr : Nat) (value : BitVec 32) (mask : Option (BitVec 32)) (ln : Ln) (s : State) (hr : s.resetN = true) :
    execPoke addr value mask ln s = .next (s.tick ln.t) := by
  simp [execPoke, State.judged_held hr]

theorem execShcFaultackWrite_held (value : BitVec 32) (ln : Ln) (s : State) (hr : s.resetN = true) :
    execShcFaultackWrite value ln s = .next (s.tick ln.t) := by
  simp [execShcFaultackWrite, State.judged_held hr]

theorem execPcbSatClear_held (n : Pad) (value : BitVec 32) (ln : Ln) (s : State) (hr : s.resetN = true) :
    execPcbSatClear n value ln s = .next (s.tick ln.t) := by
  simp [execPcbSatClear, State.judged_held hr]

theorem execNedWselWrite_held (k : NedIx) (value : BitVec 32) (ln : Ln) (s : State) (hr : s.resetN = true) :
    execNedWselWrite k value ln s = .next (s.tick ln.t) := by
  simp [execNedWselWrite, State.judged_held hr]

theorem execShcAlertcauseRead_held (ln : Ln) (s : State) (hr : s.resetN = true) :
    execShcAlertcauseRead ln s = .next (s.tick ln.t) := by
  simp [execShcAlertcauseRead, State.judged_held hr]

theorem execKeepaliveSend_held (t : Time) (s : State) (hr : s.resetN = true) :
    execKeepaliveSend t s = .next (s.tick t) := by
  simp [execKeepaliveSend, State.event_held hr]

theorem execHeartbeatSend_held (shc : ShcIx) (t : Time) (s : State) (hr : s.resetN = true) :
    execHeartbeatSend shc t s = .next (s.tick t) := by
  simp [execHeartbeatSend, State.event_held hr]

theorem execHeartbeatReceive_held (shc : ShcIx) (shcl lane0 : Bool) (b : Beat) (t : Time) (s : State) (hr : s.resetN = true) :
    execHeartbeatReceive shc shcl lane0 b t s = .next (s.tick t) := by
  simp [execHeartbeatReceive, State.event_held hr]

theorem execHeartbeatMiss_held (t : Time) (s : State) (hr : s.resetN = true) :
    execHeartbeatMiss t s = .next (s.tick t) := by
  simp [execHeartbeatMiss, State.event_held hr]

theorem execProbeTimeout_held (t : Time) (s : State) (hr : s.resetN = true) :
    execProbeTimeout t s = .next (s.tick t) := by
  simp [execProbeTimeout, State.event_held hr]

theorem execSelfDoubtHandover_held (cause : Nat) (t : Time) (s : State) (hr : s.resetN = true) :
    execSelfDoubtHandover cause t s = .next (s.tick t) := by
  simp [execSelfDoubtHandover, State.event_held hr]

theorem execSelectionQuietExpiry_held (t : Time) (s : State) (hr : s.resetN = true) :
    execSelectionQuietExpiry t s = .next (s.tick t) := by
  simp [execSelectionQuietExpiry, State.event_held hr]

theorem execMirrorAckTimeout_held (t : Time) (s : State) (hr : s.resetN = true) :
    execMirrorAckTimeout t s = .next (s.tick t) := by
  simp [execMirrorAckTimeout, State.event_held hr]

theorem execMirrorProbeTimeout_held (t : Time) (s : State) (hr : s.resetN = true) :
    execMirrorProbeTimeout t s = .next (s.tick t) := by
  simp [execMirrorProbeTimeout, State.event_held hr]

theorem execReadyRefresh_held (t : Time) (s : State) (hr : s.resetN = true) :
    execReadyRefresh t s = .next (s.tick t) := by
  simp [execReadyRefresh, State.event_held hr]

theorem execReadyLatchExpiry_held (t : Time) (s : State) (hr : s.resetN = true) :
    execReadyLatchExpiry t s = .next (s.tick t) := by
  simp [execReadyLatchExpiry, State.event_held hr]

theorem execHandoverShc_held (ln : Ln) (s : State) (hr : s.resetN = true) :
    execHandoverShc ln s = .next (s.tick ln.t) := by
  simp [execHandoverShc, State.judged_held hr]

theorem execShowShc_held (ln : Ln) (s : State) (hr : s.resetN = true) :
    execShowShc ln s = .next (s.tick ln.t) := by
  simp [execShowShc, State.judged_held hr]

theorem execUpdateFirmware_held (stage : Nat) (sigOk : Bool) (ln : Ln) (s : State) (hr : s.resetN = true) :
    execUpdateFirmware stage sigOk ln s = .next (s.tick ln.t) := by
  simp [execUpdateFirmware, State.judged_held hr]

theorem execBackupRejoin_held (mirrorVersion : Nat) (t : Time) (s : State) (hr : s.resetN = true) :
    execBackupRejoin mirrorVersion t s = .next (s.tick t) := by
  simp [execBackupRejoin, State.event_held hr]

theorem execBackupRejoinTimeout_held (t : Time) (s : State) (hr : s.resetN = true) :
    execBackupRejoinTimeout t s = .next (s.tick t) := by
  simp [execBackupRejoinTimeout, State.event_held hr]

theorem execRaiseSvn_held (ln : Ln) (s : State) (hr : s.resetN = true) :
    execRaiseSvn ln s = .next (s.tick ln.t) := by
  simp [execRaiseSvn, State.judged_held hr]

theorem execSpanBlockSend_held (i : SpdIx) (t : Time) (s : State) (hr : s.resetN = true) :
    execSpanBlockSend i t s = .next (s.tick t) := by
  simp [execSpanBlockSend, State.event_held hr]

theorem execSpanBlockReceived_held (i : SpdIx) (decoded replay : Bool) (symbols : Nat) (b : BitVec 2570) (t : Time) (s : State) (hr : s.resetN = true) :
    execSpanBlockReceived i decoded replay symbols b t s = .next (s.tick t) := by
  simp [execSpanBlockReceived, State.event_held hr]

theorem execSpanReplayTimeout_held (i : SpdIx) (t : Time) (s : State) (hr : s.resetN = true) :
    execSpanReplayTimeout i t s = .next (s.tick t) := by
  simp [execSpanReplayTimeout, State.event_held hr]

theorem execSpanDownTimeout_held (i : SpdIx) (t : Time) (s : State) (hr : s.resetN = true) :
    execSpanDownTimeout i t s = .next (s.tick t) := by
  simp [execSpanDownTimeout, State.event_held hr]

theorem execSpanRxSilence_held (i : SpdIx) (t : Time) (s : State) (hr : s.resetN = true) :
    execSpanRxSilence i t s = .next (s.tick t) := by
  simp [execSpanRxSilence, State.event_held hr]

theorem execTrainBlockReceived_held (i : SpdIx) (locked : BitVec 16) (b : BitVec 2570) (t : Time) (s : State) (hr : s.resetN = true) :
    execTrainBlockReceived i locked b t s = .next (s.tick t) := by
  simp [execTrainBlockReceived, State.event_held hr]

theorem execTrainingTimeout_held (i : SpdIx) (t : Time) (s : State) (hr : s.resetN = true) :
    execTrainingTimeout i t s = .next (s.tick t) := by
  simp [execTrainingTimeout, State.event_held hr]

theorem execTrainRefuseExpiry_held (i : SpdIx) (t : Time) (s : State) (hr : s.resetN = true) :
    execTrainRefuseExpiry i t s = .next (s.tick t) := by
  simp [execTrainRefuseExpiry, State.event_held hr]

theorem execMemberExcluded_held (w : Fin 16) (t : Time) (s : State) (hr : s.resetN = true) :
    execMemberExcluded w t s = .next (s.tick t) := by
  simp [execMemberExcluded, State.event_held hr]

theorem execSpdDoubt_held (i : SpdIx) (cause : Nat) (t : Time) (s : State) (hr : s.resetN = true) :
    execSpdDoubt i cause t s = .next (s.tick t) := by
  simp [execSpdDoubt, State.event_held hr]

theorem execShowSpan_held (spd : Nat) (ln : Ln) (s : State) (hr : s.resetN = true) :
    execShowSpan spd ln s = .next (s.tick ln.t) := by
  simp [execShowSpan, State.judged_held hr]

theorem execRetrainSpan_held (spd : Nat) (ln : Ln) (s : State) (hr : s.resetN = true) :
    execRetrainSpan spd ln s = .next (s.tick ln.t) := by
  simp [execRetrainSpan, State.judged_held hr]

theorem execShowFlock_held (ln : Ln) (s : State) (hr : s.resetN = true) :
    execShowFlock ln s = .next (s.tick ln.t) := by
  simp [execShowFlock, State.judged_held hr]

theorem execSetFlock_held (id : BitVec 32) (wafer : Nat) (members : List Nat) (ln : Ln) (s : State) (hr : s.resetN = true) :
    execSetFlock id wafer members ln s = .next (s.tick ln.t) := by
  simp [execSetFlock, State.judged_held hr]

theorem execSensorSample_held (x : Sample) (t : Time) (s : State) (hr : s.resetN = true) :
    execSensorSample x t s = .next (s.tick t) := by
  simp [execSensorSample, State.event_held hr]

theorem execThermalTripRetry_held (n : Pad) (t : Time) (s : State) (hr : s.resetN = true) :
    execThermalTripRetry n t s = .next (s.tick t) := by
  simp [execThermalTripRetry, State.event_held hr]

theorem execThermalRetryVerdict_held (n : Pad) (t : Time) (s : State) (hr : s.resetN = true) :
    execThermalRetryVerdict n t s = .next (s.tick t) := by
  simp [execThermalRetryVerdict, State.event_held hr]

theorem execLoopCheck_held (inlet outlet : Option Int) (t : Time) (s : State) (hr : s.resetN = true) :
    execLoopCheck inlet outlet t s = .next (s.tick t) := by
  simp [execLoopCheck, State.event_held hr]

theorem execShowThermal_held (ln : Ln) (s : State) (hr : s.resetN = true) :
    execShowThermal ln s = .next (s.tick ln.t) := by
  simp [execShowThermal, State.judged_held hr]

theorem execShowSensors_held (at_ : Sum Loc DieName) (ln : Ln) (s : State) (hr : s.resetN = true) :
    execShowSensors at_ ln s = .next (s.tick ln.t) := by
  simp [execShowSensors, State.judged_held hr]

end Sys2Proof.Machine
end

