-- ==== Sys2Proof/Laws/Keeps.lean ====
section
/-! SUPPORT. What every command keeps: the queue, the order of moments, the serial number, the fuse counter, the number of
units, and a frozen flash. The commands that change the core (reset, power failure, the fuse counter) have a lemma each. -/
namespace Sys2Proof.Machine

open Sys2Proof

set_option linter.all false

/-- What `t` keeps of `s`. -/
structure Keeps (s t : State) : Prop where
  pending : t.pending = s.pending
  now : s.now ≤ t.now
  serial : t.fuses.serial = s.fuses.serial
  svn : s.fuses.svn ≤ t.fuses.svn
  sized : s.sized → t.sized
  flash : s.frozen = true → t.flash = s.flash ∨ t.flash = ({ s with now := t.now } : State).cutFlash.flash

theorem held_of_core {s t : State} (h : t.core = s.core) (f : s.frozen = true) : t.flash = s.flash ∧ t.writing = s.writing := by
  have k : heldFlash t.frozen t.flash t.writing = heldFlash s.frozen s.flash s.writing := congrArg Core.held h
  have e : t.frozen = s.frozen := frozen_of_core h
  simpa only [heldFlash, e, f, if_true, Prod.mk.injEq, Option.some.injEq, true_and] using k

/-- Cutting off a write depends on the moment, the write in progress and the flash alone. -/
theorem cutFlash_flash {s t : State} (hn : t.now = s.now) (hw : t.writing = s.writing) (hf : t.flash = s.flash) :
    t.cutFlash.flash = s.cutFlash.flash := by
  simp only [State.cutFlash, State.flashWork, hn, hw, hf]

theorem Keeps.tick (s : State) (c : Time) : Keeps s (s.tick c) :=
  ⟨rfl, Nat.le_max_left _ _, rfl, Nat.le_refl _, id, fun _ => .inl rfl⟩

theorem Keeps.core {s t : State} (h : t.core = s.core) : Keeps s t where
  pending := congrArg Core.pending h
  now := Nat.le_of_eq (congrArg Core.now h).symm
  serial := congrArg (fun c => c.fuses.serial) h
  svn := Nat.le_of_eq (congrArg (fun c => c.fuses.svn) h).symm
  sized := fun ⟨a, b, c, d⟩ => ⟨(congrArg Core.nSess h).trans a, (congrArg Core.nNeds h).trans b, (congrArg Core.nMeds h).trans c,
    (congrArg Core.nSpds h).trans d⟩
  flash := fun f => .inl (held_of_core h f).1

/-- Where a command begins with the moment and steps that leave the core alone, what it does after them is kept of the whole. -/
theorem Keeps.after {s t u : State} {c : Time} (h : t.core = (s.tick c).core) (k : Keeps t u) : Keeps s u := by
  have q : Keeps (s.tick c) t := Keeps.core h
  refine ⟨k.pending.trans q.pending, Nat.le_trans (Nat.le_max_left _ _) (Nat.le_trans q.now k.now), k.serial.trans q.serial,
    Nat.le_trans q.svn k.svn, fun x => k.sized (q.sized x), fun x => ?_⟩
  have w := held_of_core h x
  rcases k.flash ((frozen_of_core h).trans x) with e | e
  · exact .inl (e.trans w.1)
  · exact .inr (e.trans (cutFlash_flash rfl w.2 w.1))

/-- What leaves the core alone may follow. -/
theorem Keeps.then {s t u : State} (h : Keeps s t) (k : u.core = t.core) (f : s.frozen = true → t.frozen = true) : Keeps s u := by
  have q := Keeps.core k
  refine ⟨q.pending.trans h.pending, Nat.le_trans h.now q.now, q.serial.trans h.serial, Nat.le_trans h.svn q.svn,
    fun x => q.sized (h.sized x), fun x => ?_⟩
  have w := (held_of_core k (f x)).1
  have n : u.now = t.now := congrArg Core.now k
  rw [w, n]
  exact h.flash x

/-- A command that leaves the core alone but for the moment keeps all of this. -/
theorem Keeps.of_core {s t : State} {c : Time} (h : t.core = (s.tick c).core) : Keeps s t :=
  Keeps.after rfl (Keeps.core h)

theorem cutFlash_keeps (s : State) : Keeps s s.cutFlash :=
  ⟨rfl, Nat.le_refl _, rfl, Nat.le_refl _, id, fun _ => .inr rfl⟩

/-- A command that can also cut off a flash write. -/
theorem Keeps.of_cut {s t : State} {c : Time} (h : t.core = (s.tick c).core ∨ t.core = (s.tick c).cutFlash.core) : Keeps s t := by
  rcases h with h | h
  · exact Keeps.of_core h
  · exact Keeps.after rfl ((cutFlash_keeps _).then h id)

/-- A console command either leaves the core alone but for the moment, or is its body on a state with the same core. -/
theorem State.judged_cases (s : State) (ln : Ln) (need : Level) (boot : Bool) (body : State → State) :
    (s.judged ln need boot body).core = (s.tick ln.t).core
      ∨ ∃ u : State, u.core = (s.tick ln.t).core ∧ s.judged ln need boot body = body u := by
  unfold State.judged
  dsimp only
  split
  · exact .inl rfl
  · split
    · exact .inl (by simp)
    · split
      · split
        · exact .inl (by simp)
        · split
          · exact .inl (by simp)
          · split
            · split
              · exact .inr ⟨_, by simp, rfl⟩
              · split
                · exact .inl ((State.await_core _ _ _).trans ((wire_core _ _).trans (by simp)))
                · exact .inl (by simp)
            · exact .inr ⟨_, by simp, rfl⟩
      · exact .inl (by simp)

theorem State.enterReset_keeps (s : State) : Keeps s s.enterReset where
  pending := rfl
  now := Nat.le_refl _
  serial := rfl
  svn := Nat.le_refl _
  sized := fun _ => ⟨rfl, rfl, rfl, rfl⟩
  flash := fun _ => .inr rfl

theorem State.leaveReset_keeps {s t : State} (h : Keeps s t) (f : s.frozen = true → t.frozen = true) (j : Bool) : Keeps s (t.leaveReset j) := by
  have q := h.then (State.modFlash_core t fun f => { f with reached := false, faults := f.faults.map fun b => { b with prior := true } }) f
  exact ⟨q.pending, q.now, q.serial, q.svn, q.sized, q.flash⟩

theorem execResetAssert_keeps (t : Time) (s : State) : ∃ next, execResetAssert t s = .next next ∧ Keeps s next :=
  ⟨_, rfl, Keeps.after rfl (State.enterReset_keeps _)⟩

theorem execResetRelease_keeps (j : Bool) (t : Time) (s : State) : ∃ next, execResetRelease j t s = .next next ∧ Keeps s next := by
  refine ⟨_, rfl, ?_⟩
  split
  · exact State.leaveReset_keeps (Keeps.tick s t) id _
  · exact Keeps.tick s t

theorem execPwrFailAssert_keeps (t : Time) (s : State) : ∃ next, execPwrFailAssert t s = .next next ∧ Keeps s next := by
  refine ⟨_, rfl, ?_⟩
  split
  · refine Keeps.then ?_ (State.ring_core _ _ _ _) id
    exact Keeps.after rfl ⟨rfl, Nat.le_refl _, rfl, Nat.le_refl _, id, fun _ => .inl rfl⟩
  · exact Keeps.after rfl ⟨rfl, Nat.le_refl _, rfl, Nat.le_refl _, id, fun _ => .inl rfl⟩

theorem execPwrFailFlashFreeze_keeps (t : Time) (s : State) : ∃ next, execPwrFailFlashFreeze t s = .next next ∧ Keeps s next := by
  refine ⟨_, rfl, ?_⟩
  unfold State.event
  split
  · exact Keeps.after rfl ⟨rfl, Nat.le_refl _, rfl, Nat.le_refl _, id, fun _ => .inl rfl⟩
  · exact Keeps.tick s t

theorem execPwrFailDeassert_keeps (t : Time) (s : State) : ∃ next, execPwrFailDeassert t s = .next next ∧ Keeps s next := by
  refine ⟨_, rfl, ?_⟩
  split
  · exact Keeps.after rfl ⟨rfl, Nat.le_refl _, rfl, Nat.le_refl _, id, fun _ => .inl rfl⟩
  · exact Keeps.tick s t

theorem execRailsFall_keeps (t : Time) (s : State) : ∃ next, execRailsFall t s = .next next ∧ Keeps s next := by
  unfold execRailsFall
  dsimp only
  split
  · exact ⟨_, rfl, Keeps.after rfl ⟨rfl, Nat.le_refl _, rfl, Nat.le_refl _, fun _ => ⟨rfl, rfl, rfl, rfl⟩, fun _ => .inr rfl⟩⟩
  · exact ⟨_, rfl, Keeps.tick s t⟩

theorem execRaiseSvn_keeps (ln : Ln) (s : State) : ∃ next, execRaiseSvn ln s = .next next ∧ Keeps s next := by
  refine ⟨_, rfl, ?_⟩
  obtain h | ⟨u, hu, h⟩ := State.judged_cases s ln .admin false fun s =>
    let v := (s.shc (s.active.getD 0)).svn
    if v ≤ s.fuses.svn then s.err ln 404 [("object", .word "svn"), ("state", .num s.fuses.svn)]
    else ({ s with fuses := { s.fuses with svn := v } }).ok ln [("svn", .num v)]
  · exact Keeps.of_core h
  · rw [h]
    refine Keeps.after hu ?_
    dsimp only
    split
    · exact Keeps.core (State.err_core _ _ _ _)
    · rename_i g
      refine Keeps.then ?_ (State.ok_core _ _ _) id
      exact ⟨rfl, Nat.le_refl _, rfl, Nat.le_of_lt (Nat.lt_of_not_le g), id, fun _ => .inl rfl⟩

theorem execResetEngine_keeps (confirm : Bool) (ln : Ln) (s : State) : ∃ next, execResetEngine confirm ln s = .next next ∧ Keeps s next := by
  refine ⟨_, rfl, ?_⟩
  obtain h | ⟨u, hu, h⟩ := State.judged_cases s ln .admin true fun s =>
    if confirm then
      let said := (s.ok ln []).cs ln.sess
      let r := s.enterReset
      (r.setCs ln.sess { r.cs ln.sess with out := said.out }).leaveReset s.boot.jtag
    else s.err ln 114 [("key", .word "confirm")]
  · exact Keeps.of_core h
  · rw [h]
    refine Keeps.after hu ?_
    split
    · exact State.leaveReset_keeps ((State.enterReset_keeps u).then (State.setCs_core _ _ _) id)
        (fun f => (frozen_of_core (State.setCs_core _ _ _)).trans f) _
    · exact Keeps.core (State.err_core _ _ _ _)

end Sys2Proof.Machine
end

