-- ==== Sys2Proof/Laws/Stacks.lean ====
section
/-! SUPPORT. Every operation of a memory edge die keeps its stack's canonical form. -/
namespace Sys2Proof.Machine

open Sys2Proof

set_option linter.all false

theorem Med.initial_wf : Med.initial.wf = true := rfl

theorem Med.wf_of_store {m n : Med} (e : n.store = m.store) (h : m.wf = true) : n.wf = true := by
  unfold Med.wf at h ⊢
  rw [e]
  exact h

theorem Med.drain_wf (m : Med) (order : Nat) (h : m.wf = true) : (m.drain order).wf = true := by
  unfold Med.wf Med.drain at *
  dsimp only
  generalize m.wq.filter (fun w => decide (w.order < order)) = l
  generalize m.store = t at h
  induction l generalizing t with
  | nil => exact h
  | cons w ws ih => exact ih _ (tabSet_wf _ _ _ _ h)

theorem Med.flush_wf (m : Med) (h : m.wf = true) : m.flush.wf = true := m.drain_wf _ h

theorem Med.room_wf (m : Med) (n : Nat) (h : m.wf = true) : (m.room n).wf = true := by
  unfold Med.room
  split
  · exact m.drain_wf _ h
  · exact h

theorem Med.scrub_wf (m : Med) (page : Nat) (h : m.wf = true) : (m.scrub page).wf = true := by
  unfold Med.scrub
  dsimp only
  split
  · exact tabFilter_wf _ _ _ h
  · exact h

theorem Med.scrubAll_wf (m : Med) (h : m.wf = true) : m.scrubAll.wf = true :=
  Med.wf_of_store (by unfold Med.scrubAll; rfl) h

theorem Med.writeBytes_store (m : Med) (order med page off : Nat) (bs : List Byte) : (m.writeBytes order med page off bs).store = m.store := rfl

theorem Med.open_wf {m : Med} {med : Nat} {p : MedPort} {f : Flit} {o : MedOut} (h : m.wf = true) (e : m.open med p f = some o) :
    o.m.wf = true := by
  have r := fun n => m.room_wf n h
  unfold Med.open at e
  dsimp only at e
  repeat' split at e
  all_goals first
    | (cases e; done)
    | (cases e; exact h)
    | (cases e; exact Med.wf_of_store rfl (r _))

theorem Med.data_wf (m : Med) (med : Nat) (p : MedPort) (f : Flit) (h : m.wf = true) : (m.data med p f).m.wf = true := by
  unfold Med.data
  dsimp only
  repeat' split
  all_goals exact h

/-- A die that takes a flit keeps the canonical form. -/
theorem Med.take_wf {m : Med} {med : Nat} {p : MedPort} {f : Flit} {o : MedOut} (h : m.wf = true) (e : m.take med p f = some o) :
    o.m.wf = true := by
  unfold Med.take at e
  split at e
  · exact Med.open_wf h e
  · cases e
    exact m.data_wf _ _ _ h

theorem listSet_mem {α : Type} {l : List α} {i : Nat} {v x : α} (h : x ∈ listSet l i v) : x = v ∨ x ∈ l := by
  induction l generalizing i with
  | nil => cases h
  | cons y ys ih =>
    cases i with
    | zero =>
      rcases List.mem_cons.mp h with h | h
      · exact .inl h
      · exact .inr (List.mem_cons_of_mem _ h)
    | succ i =>
      rcases List.mem_cons.mp h with h | h
      · exact .inr (h ▸ List.mem_cons_self)
      · rcases ih h with h | h
        · exact .inl h
        · exact .inr (List.mem_cons_of_mem _ h)

/-- Canonical stacks depend on their contents alone. -/
theorem StacksCanonical.of_hbm {s t : State} (h : t.hbm = s.hbm) (k : StacksCanonical s) : StacksCanonical t := by
  have e : t.meds.map Med.store = s.meds.map Med.store := congrArg Hbm.stores h
  intro m hm
  have q : m.store ∈ s.meds.map Med.store := e ▸ List.mem_map_of_mem hm
  obtain ⟨n, hn, w⟩ := List.mem_map.mp q
  exact Med.wf_of_store w.symm (k n hn)

/-- Replacing a die's state by a canonical one. -/
theorem StacksCanonical.setMed {s : State} (k : StacksCanonical s) (i : Nat) (x : Med) (h : x.wf = true) : StacksCanonical (s.setMed i x) := by
  intro m hm
  rcases listSet_mem hm with rfl | hm
  · exact h
  · exact k m hm

theorem StacksCanonical.med {s : State} (k : StacksCanonical s) (i : Nat) : (s.med i).wf = true := by
  unfold State.med
  rw [List.getD_eq_getElem?_getD]
  cases h : s.meds[i]? with
  | none => rfl
  | some m => exact k m (List.mem_of_getElem? h)

theorem StacksCanonical.medTake {s t : State} {i : Nat} {p : MedPort} {f : Flit} (k : StacksCanonical s) (h : s.medTake i p f = some t) :
    StacksCanonical t := by
  simp only [State.medTake, Option.map_eq_some_iff] at h
  obtain ⟨o, ho, rfl⟩ := h
  have a : StacksCanonical (s.modLink (dieEnd (medDest i) p.e) p.lane fun l => l.popBuf p.vc) := k
  have g := a.setMed i o.m (Med.take_wf (k.med i) ho)
  split
  · exact StacksCanonical.of_hbm (by simp only [State.report_hbm, State.count_hbm, State.countRets_hbm, State.medSend_hbm]) g
  · exact StacksCanonical.of_hbm (by simp only [State.countRets_hbm, State.medSend_hbm]) g

theorem StacksCanonical.medServe {s : State} (k : StacksCanonical s) (i : Nat) (p : MedPort) (n : Nat) :
    StacksCanonical (State.medServe i p n s) := by
  induction n generalizing s with
  | zero => exact k
  | succ n ih =>
    unfold State.medServe
    split
    · exact k
    · split
      · exact k
      · rename_i h
        split
        · exact k.medTake h
        · exact ih (k.medTake h)

end Sys2Proof.Machine
end

