-- ==== Sys2Proof/Machine/Tabular.lean ====
section
/-! DEFINITION. What the tabular front stage and the trees of an image compute (*Tabular models: feature front stage and tree
ensembles*, R303–R315, R321). The engine runs the instructions of the image; these definitions say what the image's instructions are
to give, over the operations of the F-tiles. -/
namespace Sys2Proof.Machine

open Sys2Proof

/-- Feature types (Table TREE-1). -/
inductive FeatType where
  | u8 | u16 | u32 | i8 | i16 | i32 | fp16 | bf16 | fp32
deriving DecidableEq, Repr

/-- The bytes of a feature. -/
def FeatType.bytes : FeatType → Nat
  | .u8 | .i8 => 1
  | .u16 | .i16 | .fp16 | .bf16 => 2
  | .u32 | .i32 | .fp32 => 4

/-- A `w`-bit pattern as a two's-complement integer. -/
def signedOf (w x : Nat) : Int := if x % 2 ^ w < 2 ^ (w - 1) then (x % 2 ^ w : Nat) else ((x % 2 ^ w : Nat) : Int) - 2 ^ w

/-- The order key of a `w`-bit floating pattern: −0 becomes +0; a negative pattern has its lower bits turned over (R304). -/
def orderKey (w x : Nat) : Int :=
  let y := if x % 2 ^ w = 2 ^ (w - 1) then 0 else x % 2 ^ w
  if y < 2 ^ (w - 1) then y else signedOf w (Nat.xor y (2 ^ (w - 1) - 1))

/-- Whether a floating pattern is a NaN: `mb` mantissa bits below an exponent of all ones (R308). -/
def nanBits (w mb x : Nat) : Bool :=
  decide (x / 2 ^ mb % 2 ^ (w - 1 - mb) = 2 ^ (w - 1 - mb) - 1) && decide (x % 2 ^ mb ≠ 0)

/-- A feature as an image declares it: frame offset, type, byte order, edges in rising order, sentinel, missing bin (R303, R307,
R308). -/
structure Feature where
  off : Nat
  typ : FeatType
  msbFirst : Bool
  edges : List Nat
  sentinel : Option Nat
  missing : Nat
deriving DecidableEq, Repr

/-- The pattern a feature's bytes spell. -/
def Feature.pattern (f : Feature) (frame : List Byte) : Nat :=
  let bs := (frame.drop f.off).take f.typ.bytes
  leNat (if f.msbFirst then bs.reverse else bs)

/-- What a pattern is compared as (Table TREE-1). -/
def FeatType.key (t : FeatType) (x : Nat) : Int :=
  match t with
  | .u8 | .u16 | .u32 => (x : Int)
  | .i8 => signedOf 8 x
  | .i16 => signedOf 16 x
  | .i32 => signedOf 32 x
  | .fp16 | .bf16 => orderKey 16 x
  | .fp32 => orderKey 32 x

/-- Whether a value is missing: a NaN, or the declared sentinel, whatever else it equals (R308, R321). -/
def Feature.isMissing (f : Feature) (x : Nat) : Bool :=
  f.sentinel = some x || (match f.typ with
    | .fp16 => nanBits 16 10 x
    | .bf16 => nanBits 16 7 x
    | .fp32 => nanBits 32 23 x
    | _ => false)

/-- The bin of a pattern: the number of edges not above it, or the missing bin (R307, R308, R321). -/
def Feature.binOf (f : Feature) (x : Nat) : Nat :=
  if f.isMissing x then f.missing else (f.edges.filter fun e => decide (f.typ.key e ≤ f.typ.key x)).length

/-- The bin of a feature in a frame. -/
def Feature.bin (f : Feature) (frame : List Byte) : Nat := f.binOf (f.pattern frame)

/-- A scaled integer feature: the exact product, shifted right, plus the offset with a clamp; the flag is SAT (R309). -/
def scaleFeature (x a : Int) (s : Nat) (b : Int) : Int × Bool := clampS 32 ((x * a) / 2 ^ s + b)

/-- The bin of a crossed feature of width `w` (R310). -/
def crossBin (binI binJ : Nat) (seed : Word) (w : Nat) : Nat := (hash32 (BitVec.ofNat 32 (binI + 256 * binJ)) seed).toNat % 2 ^ w

/-- A tree: a leaf holds an INT16 value, an internal node names a feature and a split (R311, R312). -/
inductive Tree where
  | leaf (v : BitVec 16)
  | node (feature split : Nat) (left right : Tree)
deriving DecidableEq, Repr

/-- The leaf a sample reaches: right where its bin is the split or greater (R311). -/
def Tree.leafFor (bins : Nat → Nat) : Tree → BitVec 16
  | .leaf v => v
  | .node f k l r => if k ≤ bins f then r.leafFor bins else l.leafFor bins

/-- The sum of an ensemble: the leaves of its trees in ascending order, exact in 48 bits (R313). -/
def ensembleSum (bins : Nat → Nat) (ts : List Tree) : BitVec 48 := ts.foldl (fun a t => a + (t.leafFor bins).signExtend 48) 0

/-- An INT32 partial sum of at most 65,536 leaves (R314). -/
def partialSum (bins : Nat → Nat) (ts : List Tree) : Word := ts.foldl (fun a t => a + (t.leafFor bins).signExtend 32) 0

/-- The bytes of a tree result: the model stamp and the sum as SUM32 or SUM48 (R315, Table TREE-2). -/
def treeResult (sum48 : Bool) (stamp : Word) (sum : BitVec 48) : List Byte :=
  leBytes 4 stamp.toNat ++ (if sum48 then leBytes 8 (sum.signExtend 64).toNat else leBytes 4 (sum.setWidth 32).toNat)

end Sys2Proof.Machine
end

