-- ==== Sys2Proof/WellFormed.lean ====
section
/-! DEFINITION. Which terms are commands that can be sent: each check has a name of its own. What a command may say and is
then refused for (a number out of range, an object that does not exist) is well-formed and is judged by its meaning; a check
here is for what no land, frame or line can carry. -/
namespace Sys2Proof

open Sys2Proof.Machine (destListed peerEnd)

/-- Why a term is no command. -/
inductive Ill where
  /-- A line of a session the engine does not have (R744, R753). -/
  | noSession
  /-- A tag that is not `@` and 1–16 characters (Table SNF-2). -/
  | tagForm
  /-- An end of a border that does not exist (R55). -/
  | noEnd
  /-- A destination index of no companion die (Table MAP-2). -/
  | noDie
  /-- A user name that is not 1–16 of a–z, 0–9, `_`, `-` (R808). -/
  | userName
  /-- A signature of other than 96 bytes (R805). -/
  | signature
  /-- A public key that is not an uncompressed P-384 point (R808). -/
  | publicKey
  /-- A data value outside 1–200 bytes (Table SNF-3). -/
  | dataValue
  /-- No binding in a value that needs one (Table CMD-11). -/
  | noBinding
  /-- An address that is not 4 bytes, or 16 for IPv6 (Table SNF-3). -/
  | addressForm
  /-- More corrected symbols than the code corrects (Table SPAN-1). -/
  | symbolCount
  /-- A frame whose moments run backwards, or with no byte (R74, R76). -/
  | frameTimes
  /-- A PMBus address of no device (Table PWR-7). -/
  | noDevice
deriving DecidableEq, Repr

/-- A check: nothing where it passes. -/
def need (ok : Bool) (why : Ill) : List Ill := if ok then [] else [why]

/-- An end exists: a paddock's border with something beyond it, or an edge port of a listed die. -/
def endExists (x : Nat) : Bool :=
  if x < 5376 then (peerEnd x).isSome else decide (8192 ≤ x) && decide (1536 ≤ (x - 8192) / 2) && destListed ((x - 8192) / 2)

def dieIndexOk (d : Nat) : Bool := decide (1536 ≤ d) && destListed d

/-- A lower-case letter, a digit, `_` or `-`. -/
def nameChar (b : Byte) : Bool :=
  (0x61 ≤ b && b ≤ 0x7A) || (0x30 ≤ b && b ≤ 0x39) || b = 0x5F || b = 0x2D

def nameOk (n : List Byte) : Bool := !n.isEmpty && decide (n.length ≤ 16) && n.all nameChar

/-- A character of a tag after its `@`. -/
def tagChar (b : Byte) : Bool := nameChar b || (0x41 ≤ b && b ≤ 0x5A) || b = 0x2E

def tagOk (w : List Byte) : Bool :=
  decide (2 ≤ w.length) && decide (w.length ≤ 17) && w.head? = some 0x40 && (w.drop 1).all tagChar

def keyOk (k : List Byte) : Bool := decide (k.length = 97) && k.head? = some 0x04

def dataOk (d : List Byte) : Bool := decide (1 ≤ d.length) && decide (d.length ≤ 200)

def addrOk (b : BindArg) : Bool := decide (b.addr.length = if b.v6 then 16 else 4)

def lnIll (ln : Ln) : List Ill :=
  need (decide (ln.sess < 10)) .noSession
    ++ (match ln.tag with
      | some w => need (tagOk w) .tagForm
      | none => [])

def frameIll (f : FrameIn) : List Ill :=
  need (!f.bytes.isEmpty && decide (f.t0 < f.groupEnd)) .frameTimes

def pmbIll (r : PmbRead) : List Ill :=
  need ((decide (0x10 ≤ r.addr) && decide (r.addr ≤ 0x6D)) || r.addr = 0x70 || r.addr = 0x71) .noDevice

def foldArgsIll (a : FoldArgs) : List Ill := need (dataOk a.lineage && dataOk a.wrap) .dataValue

/-- Every check a command fails. -/
def Instr.ills (i : Instr) : List Ill :=
  match i with
  | .telemetryRead reads _ => reads.flatMap pmbIll
  | .pmbusRetryPoll r _ => pmbIll r
  | .linkBeatSend x _ _ => need (endExists x) .noEnd
  | .beatReceived x _ _ _ _ _ => need (endExists x) .noEnd
  | .replayTimeout x _ _ => need (endExists x) .noEnd
  | .replayDownTimeout x _ _ => need (endExists x) .noEnd
  | .receiverSilence x _ _ => need (endExists x) .noEnd
  | .spanBlockReceived _ decoded _ symbols _ _ => need (!decoded || decide (symbols ≤ 7)) .symbolCount
  | .admission _ f _ => frameIll f
  | .keepaliveLoss die _ => need (dieIndexOk die) .noDie
  | .edgeDieTestComplete die _ _ => need (dieIndexOk die) .noDie
  | .borderTestComplete x _ _ => need (endExists x) .noEnd
  | .loginRequest user ln => need (nameOk user) .userName ++ lnIll ln
  | .loginResponse user sig ln => need (nameOk user) .userName ++ need (decide (sig.length = 96)) .signature ++ lnIll ln
  | .logout ln => lnIll ln
  | .ping ln => lnIll ln
  | .mode _ _ _ _ ln => lnIll ln
  | .showEngine _ ln => lnIll ln
  | .showBoot ln => lnIll ln
  | .showShc ln => lnIll ln
  | .setBoot _ ln => lnIll ln
  | .setClear _ ln => lnIll ln
  | .resetEngine _ ln => lnIll ln
  | .ackFault ln => lnIll ln
  | .handoverShc ln => lnIll ln
  | .restoreDie _ _ ln => lnIll ln
  | .setConsole _ _ _ ln => lnIll ln
  | .setNet _ _ _ _ ln => lnIll ln
  | .openStage _ _ ln => lnIll ln
  | .putStage _ _ data ln => need (dataOk data) .dataValue ++ lnIll ln
  | .showStage ln => lnIll ln
  | .dropStage _ ln => lnIll ln
  | .updateFirmware _ _ ln => lnIll ln
  | .raiseSvn ln => lnIll ln
  | .showPower ln => lnIll ln
  | .setBus _ ln => lnIll ln
  | .setRail _ _ _ ln => lnIll ln
  | .setClock _ _ ln => lnIll ln
  | .setPower _ _ ln => lnIll ln
  | .clearField _ _ _ ln => lnIll ln
  | .showThermal ln => lnIll ln
  | .showSensors _ ln => lnIll ln
  | .showMap _ ln => lnIll ln
  | .exportMap ln => lnIll ln
  | .setReserve _ _ _ ln => lnIll ln
  | .setExclude _ _ _ ln => lnIll ln
  | .showPort _ _ ln => lnIll ln
  | .setLanes _ _ _ ln => lnIll ln
  | .setPort _ _ _ _ _ _ _ ln => lnIll ln
  | .enablePort _ _ ln => lnIll ln
  | .disablePort _ _ ln => lnIll ln
  | .setTemplate _ _ _ ln => lnIll ln
  | .setBurst _ _ _ ln => lnIll ln
  | .setPtp _ _ ln => lnIll ln
  | .showLink _ _ _ _ ln => lnIll ln
  | .showSpan _ ln => lnIll ln
  | .restoreLane _ _ _ _ _ ln => lnIll ln
  | .retrainSpan _ ln => lnIll ln
  | .showFlock ln => lnIll ln
  | .setFlock _ _ _ ln => lnIll ln
  | .createFold a ln => foldArgsIll a ++ lnIll ln
  | .resizeFold _ _ ln => lnIll ln
  | .loadFold _ _ _ _ ln => lnIll ln
  | .destroyFold _ ln => lnIll ln
  | .setFold _ _ _ _ ln => lnIll ln
  | .setRotation _ _ ln => lnIll ln
  | .showFold _ ln => lnIll ln
  | .showFolds ln => lnIll ln
  | .createChannel _ _ _ _ _ _ bind ln => lnIll ln ++ need (!bind.isEmpty) .noBinding ++ need (bind.all addrOk) .addressForm
  | .bindChannel _ add ln => need (addrOk add) .addressForm ++ lnIll ln
  | .unbindChannel _ _ _ ln => lnIll ln
  | .destroyChannel _ ln => lnIll ln
  | .showChannel _ ln => lnIll ln
  | .setBucket _ _ _ _ _ _ _ ln => lnIll ln
  | .showBucket _ _ ln => lnIll ln
  | .openSession _ _ _ _ _ ln => lnIll ln
  | .closeSession _ _ ln => lnIll ln
  | .showSession _ ln => lnIll ln
  | .showTally _ _ _ ln => lnIll ln
  | .showBells _ _ _ ln => lnIll ln
  | .showLedger _ _ _ ln => lnIll ln
  | .verifyLedger data ln => need (dataOk data) .dataValue ++ lnIll ln
  | .showKeys _ ln => lnIll ln
  | .exportKey _ ln => lnIll ln
  | .addUser name _ key ln => need (nameOk name) .userName ++ need (keyOk key) .publicKey ++ lnIll ln
  | .removeUser name ln => need (nameOk name) .userName ++ lnIll ln
  | .showUsers ln => lnIll ln
  | .peek _ _ ln => lnIll ln
  | .poke _ _ _ ln => lnIll ln
  | .shcFaultackWrite _ ln => lnIll ln
  | .pcbSatClear _ _ ln => lnIll ln
  | .nedWselWrite _ _ ln => lnIll ln
  | .shcAlertcauseRead ln => lnIll ln
  | .resetAssert _ | .resetRelease _ _ | .pwrFailAssert _ | .pwrFailNedStop _ | .pwrFailFlashFreeze _ | .pwrFailDeassert _
  | .busSample _ _ _ _ | .railDeparture _ _ _ _ | .vcoreRecoveryVerdict _ _ _ | .railStep _ _ | .powerWaveStart _
  | .softStartComplete _ _ | .efuseTrip _ _ _ | .efuseRetry _ _ | .efuseRetryVerdict _ _ _ | .fieldStageShutdown _ _ _
  | .fieldRetry _ _ | .fieldRetryVerdict _ _ _ | .pmbAlert _ _ _ | .clockStep _ _ | .islandClockLoss _ _
  | .clockRelockVerdict _ _ _ _ | .ringLoss _ _ | .ringRelockVerdict _ _ _ _ | .meshLock _ _ | .referenceAbsent _ _
  | .referenceAbsentLong _ _ | .referenceReturn _ _ | .sensorSample _ _ | .throttleEval _ _ | .thermalTripRetry _ _
  | .thermalRetryVerdict _ _ | .loopCheck _ _ _ | .lane0Precompile _ | .dockTransfer _ _ | .fineIssueCycle _ _ _
  | .watchdogExpiry _ _ _ | .contextLeavePlan _ _ _ | .coarseIssueCycle _ _ _ | .eccRereadVerdict _ _ _ _
  | .residueVerdict _ _ _ _ | .hbmxReturn _ _ _ | .memReqReceived _ _ _ _ _ | .hbmBurstRead _ _ _ _ | .hbmRereadVerdict _ _ _
  | .stackTempRead _ _ _ | .pageScrub _ _ _ | .rotationSlot _ _ | .medDoubt _ _ _ | .spanBlockSend _ _ | .spanReplayTimeout _ _
  | .spanDownTimeout _ _ | .spanRxSilence _ _ | .trainBlockReceived _ _ _ _ | .trainingTimeout _ _ | .trainRefuseExpiry _ _
  | .flockFormation _ _ | .memberExcluded _ _ | .spdDoubt _ _ _ | .groupVerdict _ _ _ _ | .fcsVerdict _ _ _ _
  | .frameTail _ _ _ | .speculationAbort _ _ _ | .resultArrival _ _ _ _ _ | .replyStart _ _ _ | .ptpEvent _ _ _ _ _ _
  | .rsFault _ _ _ _ | .nedDoubt _ _ _ | .portDrainComplete _ _ _ | .portDrainExpiry _ _ _ | .portSettingsApplied _ _ _
  | .penRelease _ _ | .penDeadlineExpiry _ _ _ | .burstToken _ _ | .inFlightLimit _ _ _ | .strayRefusal _ _ _
  | .nedBellwether _ _ _ _ _ | .loadStart _ _ | .loadDrainComplete _ _ | .loadDrainExpiry _ _ | .loadDecryptComplete _ _
  | .commitConfirmed _ _ | .contextStage _ _ _ _ | .stageWaitExpiry _ _ | .standbyConfirmed _ _ | .bellwetherArrival _ _ _
  | .switchLimitExpiry _ _ | .transitionStart _ _ | .shearComplete _ _ _ _ | .musterComplete _ _ | .musterTimeout _ _
  | .checkpointDue _ _ | .checkpointWriteDone _ _ | .releaseDrainExpiry _ _ | .scrubRecord _ _ | .sessionCloseComplete _ _
  | .reportReceived _ _ _ _ | .reportResend _ | .doubtNoticeNed _ _ _ | .doubtNoticePaddock _ _ _
  | .checkpointRestoreComplete _ _ _ | .relocRecordWritten _ _ | .keepaliveSend _ | .heartbeatSend _ _
  | .heartbeatReceive _ _ _ _ _ | .heartbeatMiss _ | .probeTimeout _ | .selfDoubtHandover _ _ | .selectionQuietExpiry _
  | .mirrorAckTimeout _ | .mirrorProbeTimeout _ | .readyRefresh _ | .readyLatchExpiry _ | .firmwareVerified _ _ _ _
  | .stagesSettled _ _ | .referenceWaitTimeout _ | .aonRailsInWindow _ | .coreRailGroup _ _ | .ringWaveAdvance _
  | .paddockTestComplete _ _ _ | .sweep _ | .bootMapAndReady _ _ | .consoleBreak _ _ | .ctsChange _ _ _ | .tcpConnect _
  | .mgmtPacket _ _ | .arpAnnounce _ | .recoveryImageReceived _ _ _ _ | .backupRejoin _ _ | .backupRejoinTimeout _
  | .idleTimeout _ _ | .challengeExpiry _ _ | .loginLockExpiry _ _ | .bellsLostNotice _ _ | .ledgerIntervalEnd _ _ _
  | .ledgerRingRetry _ _ | .leaseSecond _ | .ptpSilence _ | .railsFall _ | .badLine _ _ _ _ | .consoleCharacter _ _ _
  | .tcpClose _ _ | .rsFaultCleared _ _ _ => []

/-- A command that can be sent. -/
def Instr.wellFormed (i : Instr) : Bool := i.ills.isEmpty

end Sys2Proof
end

