-- ==== Sys2Proof/Tests/Slice0.lean ====
section
/-! SUPPORT. The checks of WellFormed refuse what they should; small runs of single commands; and for every statement with
hypotheses, clause by clause, a state and operands that meet them together. -/
namespace Sys2Proof.Tests

open Sys2Proof Sys2Proof.Machine

set_option linter.all false
set_option Elab.async false

/-- An engine that is READY, its active controller SHC-A, an admin logged in on CON0. -/
def calm : State :=
  { State.reset with
    resetN := false, active := some 0, ready := true, vstby := false, faultN := false
    boot := { Boot.initial with phase := .ready, consoles := true }
    sess := { CSess.initial true with up := true, login := .loggedIn [0x61] .admin } :: freshSessions.drop 1 }

/-- A line of CON0 at moment 0, with the device's answer good. -/
def L : Ln := ⟨0, none, false, none, true, 0⟩

/-- What `State.accepts` asks, as a check. -/
def acceptsB (s : State) (ln : Ln) (need : Level) (boot : Bool) : Bool :=
  (s.tick ln.t).hears ln.sess && (!(s.cs ln.sess).crc || ln.crc)
    && (match (s.cs ln.sess).login with
      | .loggedIn _ l => decide (levelRank need ≤ levelRank l)
      | _ => false)
    && (boot || decide (s.boot.phase = .ready)) && decide (ln.wafer = none)

theorem accepts_of {s : State} {ln : Ln} {need : Level} {boot : Bool} (h : acceptsB s ln need boot = true) : s.accepts ln need boot := by
  simp only [acceptsB, Bool.and_eq_true, Bool.or_eq_true, Bool.not_eq_true', decide_eq_true_eq] at h
  obtain ⟨⟨⟨⟨a, b⟩, c⟩, d⟩, e⟩ := h
  refine ⟨a, fun q => by rcases b with b | b <;> simp_all, ?_, d, .inl e⟩
  split at c
  · exact ⟨_, _, by assumption, of_decide_eq_true c⟩
  · exact absurd c (by simp)

theorem verb_of {s : State} {ln : Ln} (h : ((s.tick ln.t).hears ln.sess && (!(s.cs ln.sess).crc || ln.crc)) = true) : s.acceptsVerb ln := by
  simp only [Bool.and_eq_true, Bool.or_eq_true, Bool.not_eq_true'] at h
  exact ⟨h.1, fun q => by rcases h.2 with b | b <;> simp_all⟩

theorem sized_of {s : State}
    (h : decide (s.sess.length = 10 ∧ s.neds.length = 24 ∧ s.meds.length = 12 ∧ s.spds.length = 16) = true) : s.sized :=
  (of_decide_eq_true h : _ ∧ _ ∧ _ ∧ _)

/-- An image without records, and a RUNNING fold of that image on F-paddock (0,0). -/
def I0 : Image := ⟨0, 0, 1, 1, 0, [], [], 0, []⟩

def F0 : Fold :=
  { id := 1, inc := 1, label := [], wrap := [], wafers := 1, st := .running, epoch := 0, transitions := 0, excl := [0], slots := [],
    pages := [], sbase := 0, scount := 0, squota := 0, smeds := [], qphys := [], ckpt := none, ckptPend := none, cmeds := [], cpages := 0,
    cphys := [], copies := [], ckptSeq := 0, lastCkpt := none, ckptBase := 0, pen := 256, weight := 1, secret := some 0, image := some I0,
    moved := [], load := none, loadCode := none, transition := none, muster := none, musterAt := 0, recovery := none, raises := [],
    windows := [], release := none, pendRemove := [], pendSlots := [], pendPages := [], ivStart := 0, recNo := 0, snap := [],
    credited := false, throttled := [], ptpLost := false, lateShc := false, heldSec := [], strayed := none }

def withFold (f : Fold) : State := { calm with folds := [f] }

/-- A load of that fold. -/
def L0 : Load := ⟨false, [], 0, .queued, 0, some I0, []⟩

/-- A transition of that fold, and a recovery. -/
def T0 : Transition := ⟨[], [], 0, 0, 1000, []⟩
def V0 : Recovery := ⟨.fleece, [(0, 4)], [0], false, false, false, .residue, 0, 0⟩

/-- A request in the wafer, of port 0, and a NED in mode 400 that holds it. -/
def R0 : Req :=
  { newReq Ned.initial ⟨7, 0, [], 0, 0, 0⟩ 0 with binding := 0, fold := 1, phase := .wafer, tag := 1 }

def N0 : Ned := { Ned.initial with mode0 := 400, ports := { Port.initial with state := .live } :: List.replicate 7 Port.initial }

def withReq (r : Req) : State := calm.setNed 0 { N0 with reqs := [r] }

/-- A flit of fold 1, and the link end of an edge die's port that holds it. -/
def flit0 (typ : BitVec 4) : Flit := { Flit.null with typ := typ, fold := 1, tag := 1 }
def queued0 (typ : BitVec 4) : Queued := ⟨flit0 typ, false, false, [], 0⟩
def holding (x : Nat) (q : Queued) (s : State) : State := s.setLink x 0 { LinkEnd.initial with buf0 := [q] }

/-- A paddock in GRAZE, one that runs, a field whose stages are on. -/
def P0 : Paddock := { Paddock.initial with power := .graze }
def P1 : Paddock := { Paddock.initial with power := .run }
def D0 : Field := { Field.initial with stage := .on }

/-- A session of CON0 to change. -/
def withCs (f : CSess → CSess) : State := { calm with sess := calm.sess.map fun c => if c.up then f c else c }

def withBoot (f : Boot → Boot) : State := { calm with boot := f calm.boot }

def K0 : Channel := ⟨0, 1, 0, 1, 1, 0, false, []⟩
def A0 : FoldArgs :=
  ⟨none, List.replicate 16 1, List.replicate 97 1, [], [.pad 0 0], [], [], none, 0, [], none, [], 0, none, none⟩

/-- The active controller A, and controller B in state OK with no probe out. -/
def pair_ : State := { calm with shcB := { calm.shcB with st := .ok, probe := none } }

/-- A phase of bring-up. -/
def inPhase (p : Phase5) : State := withBoot fun b => { b with phase := p }

/-- A firmware image for stepping 2, whole and as its bytes. -/
def W0 : Firmware := ⟨2, 0, 0, 0, 0, []⟩
def fw0 : List Byte := [0x53, 0x48, 0x46, 0x57, 2] ++ List.replicate 507 0

/-- A context that is live. -/
def C0 : PCtx := { PCtx.initial with st := .live }
def P2 : Paddock := { P1 with hurdled := false, ctxs := C0 :: List.replicate 3 PCtx.initial }

/-- An image with one context record, on context 0 of F-paddock (0,0); a fold of it that holds a load of it. -/
def I1 : Image := { I0 with recs := [⟨1, 0, 0, 0, [0, 0, 1, 0, 0, 0, 0, 0, 0, 0, 0, 0]⟩, ⟨0x10, 0, 0, 0, []⟩] }
def L1 (p : LoadPhase) : Load := { L0 with overlap := true, phase := p, image := some I1 }
def F1 (p : LoadPhase) : Fold := { F0 with image := some I1, load := some (L1 p) }

/-- An image with an entry at F-paddock (2,0), without and with a session class; a fold of it there. -/
def entryBody (cls : Byte) : List Byte := [0, 0, 2, 0, 0, 0, 0, cls, 0xFF, 0x3F, 57, 0, 57, 0, 64, 0] ++ List.replicate 16 0
def I2 : Image := { I0 with recs := [⟨2, 0, 0, 0, entryBody 0xFF⟩] }
def F2 : Fold := { F0 with excl := [2], image := some I2 }
def onTwo (f : Fold) : State := ({ withFold f with channels := [K0] }).setPad 2 { P1 with excl := 1 }
def B0 : BindArg := ⟨0, 0, none, false, [10, 0, 0, 1], none, 0, 0⟩

/-- A read of one page in a MED's queue. -/
def M0 : MedReq := ⟨⟨0, 0, false⟩, 1, 0, 0, 0, 0, 0, 0, 0, 0, 1, 0, false, 0, false⟩

/-- An ARP request for the engine's address. -/
def arp0 : List Byte :=
  List.replicate 6 0xFF ++ List.replicate 6 0 ++ [8, 6, 0, 1, 8, 0, 6, 4, 0, 1] ++ List.replicate 16 0 ++ beBytes 4 calm.net.ip.toNat

/-- A request for the channel `K0` in an Ethernet frame of 64 bytes, its binding, and an engine that admits it at once. -/
def frame1 : List Byte :=
  List.replicate 12 0 ++ [8, 0, 0x45, 0, 0, 0x2C, 0, 0, 0, 0, 0x40, 0x11, 0x66, 0xBF, 10, 0, 0, 2, 10, 0, 0, 1]
    ++ [3, 0xE8, 0x12, 0xB7, 0, 24, 0, 0] ++ [0x10, 0, 0, 0, 4, 0, 0, 1, 0, 0, 0, 1, 0, 0, 0, 9] ++ List.replicate 6 0
def bound0 : Binding := mkBinding 1 false false 0 true 0 0 4791 0x3FFF [10, 0, 0, 1] K0.handle 1 57 2 0 0 0 0 0
def N1 : Ned := { N0 with bindings := [(0, bound0)], buckets := [(0, { Bucket.empty with fold := 1, rate := 10, depth := 10, level := 655360 })] }
def admits : State := (onTwo F2).setNed 0 N1
def R1 : Req := { R0 with bytes := frame1, bind := bound0, group := 2560, paid := some (.bucket 0) }

/-! One ill-formed term for each check. -/

theorem test_ill_noSession : (Instr.showBoot { L with sess := 10 }).ills = [.noSession] := by decide
theorem test_ill_tagForm : (Instr.showBoot { L with tag := some [0x41] }).ills = [.tagForm] := by decide
theorem test_ill_noEnd : (Instr.linkBeatSend 3 0 0).wellFormed = true ∧ (Instr.linkBeatSend 5379 0 0).ills = [.noEnd] := by decide +kernel
theorem test_ill_noDie : (Instr.keepaliveLoss 0 0).ills = [.noDie] := by decide +kernel
theorem test_ill_userName : (Instr.loginRequest [] L).ills = [.userName] := by decide
theorem test_ill_signature : (Instr.loginResponse [0x61] (List.replicate 95 0) L).ills = [.signature] := by decide
theorem test_ill_publicKey : (Instr.addUser [0x61] .view (List.replicate 97 0) L).ills = [.publicKey] := by decide +kernel
theorem test_ill_dataValue : (Instr.putStage 1 0 (List.replicate 201 0) L).ills = [.dataValue] := by decide +kernel
theorem test_ill_noBinding : (Instr.createChannel 1 0 none none none none [] L).ills = [.noBinding] := by decide
theorem test_ill_addressForm : (Instr.bindChannel 0 { B0 with addr := [1, 2, 3] } L).ills = [.addressForm] := by decide
theorem test_ill_symbolCount : (Instr.spanBlockReceived 0 true true 8 0 0).ills = [.symbolCount] := by decide
theorem test_ill_frameTimes : (Instr.admission 0 ⟨7, 0, [], 0, 0, 0⟩ 0).ills = [.frameTimes] := by decide
theorem test_ill_noDevice : (Instr.telemetryRead [⟨0x6E, true, true, [], 0⟩] 0).ills = [.noDevice] := by decide
theorem test_wellFormed : (Instr.showBoot L).wellFormed = true := by decide

/-! No row of the table has bits. -/

theorem test_no_word_spells_a_command : decodeTableWord 16 0x1234 = none := rfl

/-! Worked cases and check values that the manual states. -/

/-- R791: the CRC of `123456789` is 0x29B1, of `ping` 0xF72B, of `ok` 0xDBD6. -/
theorem test_line_crc :
    lineCrc [0x31, 0x32, 0x33, 0x34, 0x35, 0x36, 0x37, 0x38, 0x39] = 0x29B1
    ∧ lineCrc [0x70, 0x69, 0x6E, 0x67] = 0xF72B ∧ lineCrc [0x6F, 0x6B] = 0xDBD6 := by decide +kernel

/-- R1–R9: P(12,40) is index 1,132, an F-paddock, in field 73. -/
theorem test_paddock_12_40 : padAt 12 40 = 1132 ∧ isFine 1132 = true ∧ fieldOf 1132 = 73 := by decide +kernel

/-- Table MAP-4: P(27,20) has MED 3, destination 0x623, on its east side. -/
theorem test_die_of_27_20 : attachedDie (padAt 27 20) 1 = some (0x623, 0) := by decide +kernel

/-- Table MAP-6: SPARE-REMAPPED with column 17 is written 0x0045. -/
theorem test_map_entry_code : (⟨1, 17, 0⟩ : MapEntry).code = 0x0045 := by decide

/-- The channel handle of fold 12, index 0x0123, generation 0x012. -/
theorem test_handle : mkHandle 12 0x123 0x12 = 0x30048C12 := by decide +kernel

/-- The KB4 block of 0.19, −0.05, 0.078125, 0: exponent byte 0xFB, mantissas 6, −2, 2, 0. -/
theorem test_kb4_block :
    (kb4Pack false ((([0x3E428F5C, 0xBD4CCCCD, 0x3DA00000, 0] : List Word) ++ List.replicate 28 0).map ofF32)).2 = 0xFB
    ∧ ((kb4Pack false ((([0x3E428F5C, 0xBD4CCCCD, 0x3DA00000, 0] : List Word) ++ List.replicate 28 0).map ofF32)).1.take 4).map (·.bits)
      = [6, 14, 2, 0] := by decide +kernel

/-- The crossed feature of bins 3 and 5 under seed 1. -/
theorem test_hash : (aluOp 0x1B 0 0x0503 1 0).res = 0xF725CF52 := by decide +kernel

/-- The crossed bin of bins 3 and 5 under seed 1 in a feature of width 8 is 0x52. -/
theorem test_cross_bin : crossBin 3 5 1 8 = 0x52 := by decide +kernel

/-- NED 3 RX2 is at SB056 and SB057, with a GND at SB058. -/
theorem test_land :
    landAt 0 1 56 = some (.lane 1539 false 2 true) ∧ landAt 0 1 57 = some (.lane 1539 false 2 false) ∧ landAt 0 1 58 = some .gnd := by
  decide +kernel

/-- R601: six fields at 0.850 V fit and the seventh does not; thirteen at 0.800 V fit and the fourteenth does not. -/
theorem test_power_budget :
    powerFits (63000 + 600) = true ∧ powerFits (63000 + 700) = false ∧ powerFits (63000 + 13 * 50) = true
    ∧ powerFits (63000 + 14 * 50) = false := by decide

/-- R337: a window of 2,097,152 positions, 16 streams of 4 blocks, is 3,216 pages. -/
theorem test_window_pages : windowPages 2097152 (List.replicate 16 4) = 3216 := by decide +kernel

/-- R413: W0 reaches W2 through SPD 1, W2 reaches W0 through SPD 13; the relay hops use SPD 0 and SPD 14. -/
theorem test_span_wiring : [spdFor 0 2, spdFor 2 0, spdFor 0 1, spdFor 1 0, spdFor 1 2, spdFor 2 1] = [1, 13, 0, 14, 0, 14] := by decide

/-- R481: the burst cycle of weights 2, 1, 1. -/
theorem test_burst_cycle : burstCycle [(12, 2), (20, 1), (31, 1)] = [12, 12, 20, 31] := by decide

/-- The control block of P(12,40): PCB_IDENT 0x0004_58D8, sensors 0x014C and 0x0150. -/
theorem test_control_block :
    let s := (calm.setEntry 1132 ⟨1, 17, 0⟩).setPad 1132 { P0 with s0 := 332, s1 := 336 }
    (s.readReg 0x0846C000).1 = some 0x000458D8 ∧ (s.readReg 0x0846C018).1 = some 0x014C ∧ (s.readReg 0x0846C01C).1 = some 0x0150 := by
  decide +kernel

/-- The four slots of the worked schedule of tile (4,2), with words 37 and 250 in the inlet. -/
def tile68 : Tile :=
  { Tile.initial with
    sched := [(0, 0x0800000003002001), (1, 0x0C00640104004004), (2, 0x0800020104006014), (3, 0x200000100C08001E)]
    inlet := [⟨BitVec.ofNat 512 (37 + 2 ^ 32 * 250), 0, 0, 0, 0, 0⟩] }

def tileAt (ic : Nat) (t : Tile) : Tile × List (Nat × Word) :=
  let i := tileIssue ⟨0, 4, 0, 0, ic, ic, true, 12, 0, 0, []⟩ t (fun _ _ => true)
  (i.tile, i.outs)

/-- 148 leaves east at ic 3 and 150 at ic 7. -/
theorem test_worked_schedule :
    let run := (List.range 8).foldl (fun (a : Tile × List (Nat × Nat × Word)) ic =>
      ((tileAt ic a.1).1, a.2 ++ (tileAt ic a.1).2.map fun o => (ic, o.1, o.2))) (tile68, [])
    run.2 = [(3, 1, 148), (7, 1, 150)] := by decide +kernel

/-! For every statement with hypotheses, clause by clause, values that meet them together. -/
/-- The bindings that `create channel` and `bind channel` make on the fold of `I2`. -/
def made1 : Sum (Nat × KVs) (List (Nat × Nat) × State) :=
  (((onTwo F2).atLine L).emptyClosed 65535).bindAll F2 (entryOf (entryBody 0xFF))
    (mkHandle 1 65535 (nextGen ((onTwo F2).channel 65535))) 7 (entryOf (entryBody 0xFF)).dHigh (entryOf (entryBody 0xFF)).cls.isNone [B0]
def bound1 : List (Nat × Nat) × State := match made1 with
  | .inr x => x
  | .inl _ => ([], calm)
theorem bound1_eq : made1 = .inr (bound1.1, bound1.2) := rfl

def made2 : Sum (Nat × KVs) (Nat × State) :=
  ((onTwo F2).atLine L).bindOne F2 (entryOf (entryBody 0xFF)) K0.handle K0.ticket K0.deadline (entryOf (entryBody 0xFF)).cls.isNone B0
def bound2 : Nat × State := match made2 with
  | .inr x => x
  | .inl _ => (0, calm)
theorem bound2_eq : made2 = .inr (bound2.1, bound2.2) := rfl

/-- An image with a class and an entry of it, and a fold with a channel bound to it on NED 0. -/
def I3 : Image :=
  { I0 with recs := [⟨2, 0, 0, 0, entryBody 15⟩, ⟨3, 0, 0, 0, [15, 0, 1] ++ List.replicate 37 1⟩] }
def F3 : Fold := { F0 with image := some I3, sbase := 16383, scount := 1, squota := 1, smeds := [0], qphys := [(0, 5)] }
def onThree : State :=
  ({ withFold F3 with channels := [K0] }).setNed 0 { N0 with bindings := [(0, ⟨[1, 0, 0, 0, 0, 0, K0.handle, 0, 0, 0, 0, 0]⟩)] }

theorem reset_canonical : StacksCanonical State.reset := by
  intro m hm
  obtain rfl := List.eq_of_mem_replicate hm
  decide +kernel

/-- An engine in which fold 1 draws on the burst pool of NED 0. -/
def burst0 : State :=
  (withFold F0).setNed 0 { N0 with burstRate := 1, burstDepth := 1, buckets := [(0, { Bucket.empty with fold := 1, burst := true })] }

/-- A line of no session verb; a valid copy of the map; an echo request for the engine's address. -/
def badCmd : Spelling := match judgeLine ((textBytes "show map").map (·.toNat)) false false with
  | .cmd c => c
  | _ => ⟨"", "", .view, [], []⟩
def map0 : MapCopy := ⟨1, calm.fuses.serial.toNat, 2, true, true, 0, [0, 0, 0], [], [], [], []⟩
def echo0 : List Byte :=
  let ip := beBytes 4 calm.net.ip.toNat
  let h (x : Nat) : List Byte := [0x45, 0, 0, 28, 0, 0, 0, 0, 64, 1] ++ beBytes 2 x ++ [10, 0, 0, 2] ++ ip
  beBytes 6 calm.net.mac.toNat ++ List.replicate 6 0 ++ [8, 0] ++ h (0xFFFF - onesSum (h 0)) ++ [8, 0, 0xF7, 0xFF, 0, 0, 0, 0]

/-- The CRCs of the beats and blocks bit by bit, so that each step is evaluated before the next. -/
def crc16Run : List Bool → BitVec 16 → BitVec 16
  | [], c => c
  | b :: bs, c => if c.msb != b then crc16Run bs ((c <<< 1) ^^^ 0x1021#16) else crc16Run bs (c <<< 1)

def crc32Run : List Bool → Word → Word
  | [], c => c
  | b :: bs, c => if c.getLsbD 0 != b then crc32Run bs ((c >>> 1) ^^^ 0xEDB88320#32) else crc32Run bs (c >>> 1)

theorem crc16Run_eq (l : List Bool) (c : BitVec 16) : l.foldl crc16Step c = crc16Run l c := by
  induction l generalizing c with
  | nil => rfl
  | cons b l ih =>
    rw [List.foldl_cons, ih, crc16Run, crc16Step]
    split <;> rfl

theorem crc32Run_eq (l : List Bool) (c : Word) : l.foldl crc32Bit c = crc32Run l c := by
  induction l generalizing c with
  | nil => rfl
  | cons b l ih =>
    rw [List.foldl_cons, ih, crc32Run, crc32Bit]
    split <;> rfl

theorem zero_beat_bad : beatGood 0 = false := by
  rw [beatGood, beatCrc, crc16Bits, crc16Run_eq]
  decide +kernel

/-- A beat without flits whose trailer is 0, with its CRC; a training block of wafer 0 with its CRC. -/
def beat0 : BitVec 616 := BitVec.ofNat 616 (2 ^ 600 * 65487)
def block0 : BitVec 2570 := BitVec.ofNat 2570 (0x5450 + 2 ^ 2304 + 2 ^ 2538 * 3484927556)

theorem beat0_good : beatGood beat0 = true := by
  rw [beatGood, beatCrc, crc16Bits, crc16Run_eq]
  decide +kernel

theorem block0_crc : blockCrc block0 = 3484927556#32 := by
  rw [blockCrc, ← List.foldl_map, crc32Run_eq]
  decide +kernel

theorem block0_ok : ({ Spd.initial with state := .training } : Spd).blockOk true block0 = true := by
  rw [Spd.blockOk, block0_crc]
  decide +kernel

/-- A beat without flits that says its receiver is DOWN, with its CRC. -/
def beat1 : BitVec 616 := BitVec.ofNat 616 (2 ^ 587 + 2 ^ 600 * 64700)

theorem beat1_good : beatGood beat1 = true := by
  rw [beatGood, beatCrc, crc16Bits, crc16Run_eq]
  decide +kernel

theorem test_hypotheses_FieldRailsMoveAndDepart :
    (∃ (f : FieldIx) (s : State), s.resetN = false ∧ (s.field f).vcore ≠ (s.field f).vtarget ∧ (s.field f).departed = none)
    ∧ (∃ (f : FieldIx) (s : State), s.resetN = false ∧ (s.field f).stage = .on)
    ∧ (∃ (f : FieldIx) (s : State), s.resetN = false ∧ (s.field f).stage = .on)
    ∧ (∃ (f : FieldIx) (d : Time) (s : State), s.resetN = false ∧ (s.field f).departed = some d) :=
  ⟨⟨0, calm.setField 0 { D0 with vtarget := 775 }, by decide +kernel⟩,
    ⟨83, calm.setField 83 D0, by decide +kernel⟩,
    ⟨83, calm.setField 83 D0, by decide +kernel⟩,
    ⟨0, 0, calm.setField 0 { D0 with departed := some 0 }, by decide +kernel⟩⟩

theorem test_hypotheses_FieldStagesRetryOrLatch :
    (∃ (f : FieldIx) (s : State), ((s.field f).stage = .on ∨ ∃ since, (s.field f).stage = .retrying since) ∧ s.resetN = false)
    ∧ (∃ (f : FieldIx) (since : Time) (vaon : Bool) (t : Time) (s : State), s.resetN = false ∧ s.pwrFail = false
      ∧ s.reachable (fieldAddr f) = true ∧ (s.field f).stage = .shutdown since vaon ∧ since + 100 * msec ≤ max s.now t)
    ∧ (∃ (f : FieldIx) (since : Time) (s : State), s.resetN = false ∧ s.pwrFail = false ∧ (s.field f).stage = .retrying since)
    ∧ (∃ (x : Nat) (y : Nat) (ln : Ln) (s : State), s.accepts ln .admin false ∧ x < 7 ∧ y < 12
      ∧ (s.field (7 * y + x)).latched = true ∧ s.reachable (fieldAddr (7 * y + x)) = true ∧ ln.dev = true) :=
  ⟨⟨0, calm.setField 0 D0, .inl (by decide +kernel), by decide +kernel⟩,
    ⟨0, 0, false, 100 * msec, calm.setField 0 { D0 with stage := .shutdown 0 false }, by decide +kernel⟩,
    ⟨0, 0, calm.setField 0 { D0 with stage := .retrying 0 }, by decide +kernel⟩,
    ⟨6, 11, L, calm.setField 83 { D0 with latched := true }, accepts_of (by decide +kernel), by decide +kernel⟩⟩

theorem test_hypotheses_WavesAndFuses :
    (∃ (t : Time) (s : State), s.resetN = false ∧ s.pwrFail = false ∧ s.wave ≠ []
      ∧ (s.lastWave = 0 ∨ s.lastWave + 200 * usec ≤ max s.now t))
    ∧ (∃ (n : Pad) (s : State), s.resetN = false ∧ (s.pad n).soft = true)
    ∧ (∃ (n : Pad) (ma : Nat) (s : State), s.resetN = false ∧ 40000 < ma ∧ ((s.pad n).power ≠ .dark ∨ (s.pad n).soft = true))
    ∧ (∃ (n : Pad) (since : Time) (t : Time) (s : State), s.resetN = false ∧ s.pwrFail = false ∧ s.fieldOn n = true
      ∧ (s.pad n).cooled (max s.now t) = true ∧ (s.pad n).fuse = .tripped since ∧ since + 100 * msec ≤ max s.now t)
    ∧ (∃ (n : Pad) (s : State), s.resetN = false ∧ s.pwrFail = false ∧ (s.pad n).fuse = .retrying ∧ (s.pad n).power = .graze) :=
  ⟨⟨0, { calm.setField 0 D0 with wave := [(0, .run)] }, by decide +kernel⟩,
    ⟨1343, calm.setPad 1343 { P0 with soft := true }, by decide +kernel⟩,
    ⟨1343, 40001, calm.setPad 1343 P0, by decide +kernel⟩,
    ⟨0, 0, 100 * msec, (calm.setField 0 D0).setPad 0 { P0 with fuse := .tripped 0 }, by decide +kernel⟩,
    ⟨0, (calm.setField 0 D0).setPad 0 { P0 with fuse := .retrying }, by decide +kernel⟩⟩

theorem test_hypotheses_BusesAndPmbus :
    (∃ (s : State), s.resetN = false)
    ∧ (∃ (s : State), s.resetN = false ∧ s.active.isSome)
    ∧ (∃ (r : PmbRead) (rest : List PmbRead) (s : State), s.resetN = false ∧ s.active.isSome ∧ (∀ q ∈ rest, q.addr ≠ r.addr))
    ∧ (∃ (r : PmbRead) (s : State), s.resetN = false ∧ s.active.isSome ∧ s.reachable r.addr = false) :=
  ⟨⟨{ calm with shcA := { calm.shcA with lowA := 3 } }, by decide +kernel⟩,
    ⟨calm, by decide +kernel⟩,
    ⟨⟨0x6C, false, true, [(850, 30000)], 5⟩, [⟨0x6D, true, false, [], 0⟩], calm, by decide +kernel⟩,
    ⟨⟨0x6C, true, false, [], 0⟩, { calm with unreach := [0x6C] }, by decide +kernel⟩⟩

theorem test_hypotheses_PowerCommandsAct :
    (∃ (ln : Ln) (s : State), s.accepts ln .operate false ∧ s.reachable 0x6C = true ∧ ln.dev = true)
    ∧ (∃ (x : Nat) (y : Nat) (mv : Nat) (ln : Ln) (s : State), s.accepts ln .operate false ∧ x < 7 ∧ y < 12 ∧ 650 ≤ mv ∧ mv ≤ 850
      ∧ mv % 25 = 0 ∧ (s.field (7 * y + x)).latched = false ∧ (s.field (7 * y + x)).stage = .on
      ∧ (s.field (7 * y + x)).departed = none ∧ s.reachable (fieldAddr (7 * y + x)) = true ∧ ln.dev = true
      ∧ powerFits (s.coreSum - (s.field (7 * y + x)).vtarget + mv) = true
      ∧ (∀ n ∈ fieldPads (7 * y + x), (s.pad n).power = .dark ∨ max (s.pad n).n (s.pad n).target ≤ railMaxN mv))
    ∧ (∃ (at_ : Loc) (ps : List Nat) (ln : Ln) (s : State), s.accepts ln .operate false ∧ locPads at_ = some ps
      ∧ (∀ n ∈ ps, (s.pad n).leased = false ∧ (s.entry n).st ≠ 2 ∧ (s.entry n).st ≠ 3))
    ∧ (∃ (at_ : Loc) (ps0 : List Nat) (ps : List Nat) (n : Nat) (ln : Ln) (s : State), s.accepts ln .operate false
      ∧ locPads at_ = some ps0 ∧ 16 ≤ n ∧ n ≤ 56 ∧ ps = ((s.withYokes ps0).filter fun m => (s.pad m).power ≠ .dark)
      ∧ (∀ m ∈ ps, n ≤ railMaxN (min (s.field (fieldOf m)).vcore (s.field (fieldOf m)).vtarget))
      ∧ s.ratioAll ps n (·.n) = true ∧ s.ratioAll ps n (·.target) = true)
    ∧ (∃ (ln : Ln) (s : State), s.accepts ln .view true) :=
  ⟨⟨L, calm, accepts_of (by decide +kernel), by decide +kernel⟩,
    ⟨0, 0, 850, L, calm.setField 0 D0, accepts_of (by decide +kernel), by decide +kernel⟩,
    ⟨.pad 27 47, [1343], L, calm, accepts_of (by decide +kernel), by decide +kernel⟩,
    ⟨.pad 0 0, [0], [0], 16, L, (calm.setField 0 D0).setPad 0 P0, accepts_of (by decide +kernel), by decide +kernel⟩,
    ⟨L, calm, accepts_of (by decide +kernel)⟩⟩

theorem test_hypotheses_ClocksAndTheReference :
    (∃ (n : Pad) (t : Time) (s : State), s.resetN = false ∧ (s.pad n).n ≠ (s.pad n).target ∧ (s.pad n).power ≠ .dark
      ∧ (s.pad n).clockLost = false ∧ (s.field (fieldOf n)).throttle = false
      ∧ (s.pad n).stepAt.all (fun a => a + usec ≤ max s.now t) = true)
    ∧ (∃ (n : Pad) (s : State), s.resetN = false ∧ (s.pad n).power ≠ .dark ∧ (s.pad n).clockLost = false)
    ∧ (∃ (f : FieldIx) (s : State), s.resetN = false ∧ (s.field f).ringOn = true ∧ (s.field f).ringLost = false)
    ∧ (∃ (ppm : Nat) (s : State), s.resetN = false ∧ ppm ≤ 20 ∧ s.refAbsent.length < 4)
    ∧ (∃ (edge : Option (Fin 4)) (s : State), s.resetN = false ∧ (∃ e ∈ edgesOf edge, e ∉ s.refAbsent))
    ∧ (∃ (edge : Option (Fin 4)) (s : State), s.resetN = false ∧ (∃ e ∈ edgesOf edge, e ∈ s.refAbsent)) :=
  ⟨⟨0, 0, (calm.setField 0 D0).setPad 0 { P0 with n := 16, target := 17 }, by decide +kernel⟩,
    ⟨0, calm.setPad 0 P0, by decide +kernel⟩,
    ⟨0, calm.setField 0 { D0 with ringOn := true }, by decide +kernel⟩,
    ⟨20, calm, by decide +kernel⟩,
    ⟨some 3, calm, by decide +kernel⟩,
    ⟨none, { calm with refAbsent := [0, 1, 2, 3] }, by decide +kernel⟩⟩

theorem test_hypotheses_ThermalTripsAndRetries :
    (∃ (s : State), s.resetN = false)
    ∧ (∃ (n : Pad) (a : Int) (b : Int) (t : Time) (s : State), s.resetN = false ∧ s.testing = false
      ∧ 3 ≤ ((s.pad n).sample a b (max s.now t)).hot ∧ ((s.pad n).power ≠ .dark ∨ (s.pad n).soft = true)
      ∧ ((s.pad n).fail0 = true ∧ (s.pad n).fail1 = true ∨ ¬(((s.pad n).sample a b (max s.now t)).fail0 = true ∧ ((s.pad n).sample a b (max s.now t)).fail1 = true)))
    ∧ (∃ (n : Pad) (a : Int) (b : Int) (t : Time) (s : State), s.resetN = false ∧ s.testing = false ∧ (s.entry n).st ≠ 2
      ∧ ((s.pad n).sample a b (max s.now t)).fail0 = true ∧ ((s.pad n).sample a b (max s.now t)).fail1 = true
      ∧ ((s.pad n).fail0 = false ∨ (s.pad n).fail1 = false))
    ∧ (∃ (s : State), s.resetN = false ∧ s.nedTemp.length = 24)
    ∧ (∃ (s : State), s.resetN = false ∧ s.medTemp.length = 12)
    ∧ (∃ (s : State), s.resetN = false ∧ s.spdTemp.length = 16)
    ∧ (∃ (s : State), s.resetN = false)
    ∧ (∃ (n : Pad) (since : Time) (t : Time) (s : State), s.resetN = false ∧ s.pwrFail = false ∧ s.fieldOn n = true
      ∧ (s.pad n).fuse = .closed ∧ (s.pad n).trip = .waiting since ∧ (s.pad n).cooled (max s.now t) = true)
    ∧ (∃ (n : Pad) (since : Time) (peak : Int) (t : Time) (s : State), s.resetN = false ∧ s.pwrFail = false
      ∧ (s.pad n).power = .graze ∧ (s.pad n).fuse = .closed ∧ (s.pad n).trip = .retrying since peak
      ∧ since + 10 * msec ≤ max s.now t)
    ∧ (∃ (s : State), s.resetN = false ∧ s.active.isSome)
    ∧ (∃ (f : FieldIx) (temp : Int) (s : State), s.resetN = false ∧ s.pwrFail = false ∧ (s.field f).stage = .on
      ∧ s.fieldTemp f = some temp)
    ∧ (∃ (ln : Ln) (s : State), s.accepts ln .view true)
    ∧ (∃ (c : Nat) (r : Nat) (ln : Ln) (s : State), s.accepts ln .view true ∧ c < 28 ∧ r < 48)
    ∧ (∃ (d : DieName) (ln : Ln) (s : State), s.accepts ln .view true ∧ dieDest d ≠ none) :=
  ⟨⟨calm, by decide +kernel⟩,
    ⟨0, 880, 880, 0, calm.setPad 0 { P0 with hot := 2 }, by decide +kernel⟩,
    ⟨0, 1201, 1201, second, calm.setPad 0 { P0 with bad0 := some 0, bad1 := some 0 }, by decide +kernel⟩,
    ⟨calm, by decide +kernel⟩,
    ⟨calm, by decide +kernel⟩,
    ⟨calm, by decide +kernel⟩,
    ⟨calm, by decide +kernel⟩,
    ⟨0, 0, 100 * msec, (calm.setField 0 D0).setPad 0 { P0 with trip := .waiting 0, s0 := 639, s1 := 639 }, by decide +kernel⟩,
    ⟨0, 0, 735, 10 * msec, (calm.setField 0 D0).setPad 0 { P0 with trip := .retrying 0 735 }, by decide +kernel⟩,
    ⟨calm, by decide +kernel⟩,
    ⟨0, 736, (calm.setField 0 D0).setPad 0 { P0 with s0 := 736, s1 := 736 }, by decide +kernel⟩,
    ⟨L, calm, accepts_of (by decide +kernel)⟩,
    ⟨27, 47, L, calm, accepts_of (by decide +kernel), by decide +kernel⟩,
    ⟨.ned 23, L, calm, accepts_of (by decide +kernel), by decide +kernel⟩⟩

theorem test_hypotheses_FirmwareMakesAControllerActive :
    (∃ (i : ShcIx) (sigs : List Bool) (step : BitVec 4) (slot : Nat) (w : Firmware) (s : State), s.resetN = false
      ∧ s.boot.phase = .b1 ∧ s.boot.jtag = false ∧ i.val ∉ s.boot.fwTried ∧ s.romPick sigs = some (slot, w)
      ∧ step.toNat = w.stepping)
    ∧ (∃ (i : ShcIx) (sigs : List Bool) (step : BitVec 4) (s : State), 
      (∀ slot w, s.romPick sigs = some (slot, w) → step.toNat ≠ w.stepping) ∧ s.resetN = false ∧ s.boot.phase = .b1
      ∧ s.boot.jtag = false ∧ i.val ∉ s.boot.fwTried)
    ∧ (∃ (i : ShcIx) (image : List Byte) (w : Firmware) (s : State), s.resetN = false ∧ s.boot.phase = .b1 ∧ s.active = none
      ∧ s.sel = i.val ∧ i.val ∈ s.boot.fwTried ∧ (s.shc i).st = .doubt ∧ firmwareOf image = some w ∧ s.runs true w = true) :=
  ⟨⟨0, [true], 2, 0, W0, { inPhase .b1 with active := none, flash := { calm.flash with slot0 := some W0 } }, by decide +kernel⟩,
    ⟨1, [], 0, inPhase .b1, (by intro a b h; exact absurd h (by simp [State.romPick])), by decide +kernel⟩,
    ⟨0, fw0, W0,
     { withBoot (fun b => { b with phase := .b1, fwTried := [0] }) with active := none, shcA := { calm.shcA with st := .doubt } },
     by decide +kernel⟩⟩

theorem test_hypotheses_EdgeDiesBeforeFields :
    (∃ (s : State), s.resetN = false ∧ s.boot.phase = .b1 ∧ s.active.isSome ∧ s.boot.consoles = true)
    ∧ (∃ (die : Nat) (s : State), s.sized ∧ s.resetN = false ∧ s.boot.phase = .b2 ∧ s.boot.halted = false ∧ s.refAbsent.length < 4
      ∧ die ∈ edgeDieList ∧ tabGet 0 s.boot.dies die = 0)
    ∧ (∃ (since : Nat × Time) (t : Time) (s : State), s.resetN = false ∧ s.boot.phase = .b2 ∧ s.boot.halted = false
      ∧ s.refAbsent.length = 4 ∧ s.boot.ended.getLast? = some since ∧ since.2 + second ≤ max s.now t)
    ∧ (∃ (s : State), s.resetN = false ∧ s.boot.phase = .b3 ∧ s.boot.aon = false) :=
  ⟨⟨inPhase .b1, by decide +kernel⟩,
    ⟨1536, inPhase .b2, sized_of (by decide +kernel), by decide +kernel⟩,
    ⟨(1536, 0), second, { withBoot (fun b => { b with phase := .b2, ended := [(1536, 0)] }) with refAbsent := [0, 1, 2, 3] },
     by decide +kernel⟩,
    ⟨inPhase .b3, by decide +kernel⟩⟩

theorem test_hypotheses_FieldsAndPaddocksAreTested :
    (∃ (g : Fin 7) (s : State), s.resetN = false ∧ s.boot.phase = .b3 ∧ s.boot.aon = true ∧ s.meshLocked = true
      ∧ s.boot.groups = g.val)
    ∧ (∃ (s : State), s.resetN = false ∧ s.testing = true ∧ s.boot.ring ≤ 13
      ∧ (∀ n ∈ ringPads s.boot.ring, s.hasVerdict n = true ∨ s.testerOf n = none ∧ (s.pad n).power = .dark ∧ (s.pad n).soft = false))
    ∧ (∃ (n : Pad) (v : PadVerdict) (col : Option Nat) (s : State), 
      (v = .pass ∧ col = none ∨ ∃ c, v = .column c ∧ c ≤ 32 ∧ isFine n = true ∧ col = some c) ∧ s.resetN = false
      ∧ s.testing = true ∧ (s.pad n).power = .graze ∧ s.hasVerdict n = false ∧ (s.boot.swept = true ∨ (s.testerOf n).isSome))
    ∧ (∃ (n : Pad) (v : PadVerdict) (s : State), (v = .fail ∨ ∃ c, v = .column c ∧ (isFine n = false ∨ 32 < c)) ∧ s.resetN = false
      ∧ s.testing = true ∧ (s.pad n).power = .graze ∧ s.hasVerdict n = false ∧ (s.boot.swept = true ∨ (s.testerOf n).isSome))
    ∧ (∃ (x : EndIx) (y : EndIx) (s : State), s.resetN = false ∧ s.boot.phase = .b4 ∧ s.endOn x 0 = true ∧ peerEnd x = some y
      ∧ s.endOn y 0 = true)
    ∧ (∃ (s : State), s.resetN = false ∧ s.testing = true ∧ s.boot.ring = 14 ∧ s.boot.swept = false) :=
  ⟨⟨5, { withBoot (fun b => { b with phase := .b3, aon := true, groups := 5 }) with meshLocked := true }, by decide +kernel⟩,
    ⟨withBoot fun b => { b with phase := .b4, full := true, ring := 13, verdicts := (ringPads 13).map fun n => (n, 1) },
     by decide +kernel⟩,
    ⟨2, .pass, none,
     ((withBoot fun b => { b with phase := .b4, full := true, dies := [(nedDest 0, 1)] }).setField 0 D0).setPad 2 P0,
     .inl ⟨rfl, rfl⟩, by decide +kernel⟩,
    ⟨2, .fail, ((withBoot fun b => { b with phase := .b4, full := true, dies := [(nedDest 0, 1)] }).setField 0 D0).setPad 2 P0,
     .inl rfl, by decide +kernel⟩,
    ⟨0, 114, ((inPhase .b4).setPad 0 P0).setPad 28 P0, by decide +kernel⟩,
    ⟨withBoot fun b => { b with phase := .b4, full := true, ring := 14 }, by decide +kernel⟩⟩

theorem test_hypotheses_ReadyIsReachedAndLatched :
    (∃ (flashOk : Bool) (t : Time) (s : State), s.resetN = false ∧ s.boot.phase = .b5 ∧ s.active.isSome
      ∧ (flashOk = true ∧ s.frozen = false ∨ s.boot.full = false ∧ (s.tick t).bootEntries.mapChanged = false))
    ∧ (∃ (flashOk : Bool) (s : State), s.resetN = false ∧ s.boot.phase = .b5 ∧ s.active.isSome ∧ s.boot.full = true
      ∧ (flashOk = false ∨ s.frozen = true))
    ∧ (∃ (s : State), s.resetN = false ∧ s.active.isSome ∧ s.ready = true)
    ∧ (∃ (s : State), s.resetN = false ∧ s.ready = true) :=
  ⟨⟨true, 0, inPhase .b5, by decide +kernel⟩,
    ⟨false, withBoot fun b => { b with phase := .b5, full := true }, by decide +kernel⟩,
    ⟨calm, by decide +kernel⟩,
    ⟨calm, by decide +kernel⟩⟩

theorem test_hypotheses_BootCommandsAct :
    (∃ (ln : Ln) (s : State), s.accepts ln .admin true ∧ s.flashTakes ln = true)
    ∧ (∃ (at_ : List Loc) (ns : List Nat) (ln : Ln) (s : State), s.accepts ln .admin true ∧ s.flashTakes ln = true
      ∧ locList at_ = some ns ∧ (∀ n ∈ ns, (s.entry n).st = 2))
    ∧ (∃ (ln : Ln) (s : State), s.accepts ln .admin true ∧ ln.sess < 10)
    ∧ (∃ (ln : Ln) (s : State), s.accepts ln .admin true)
    ∧ (∃ (ln : Ln) (s : State), s.accepts ln .view true)
    ∧ (∃ (ln : Ln) (s : State), s.accepts ln .view true) :=
  ⟨⟨L, calm, accepts_of (by decide +kernel), by decide +kernel⟩,
    ⟨[.pad 0 0], [0], L, calm.setEntry 0 { MapEntry.initial with st := 2 }, accepts_of (by decide +kernel), by decide +kernel⟩,
    ⟨L, calm, accepts_of (by decide +kernel), by decide +kernel⟩,
    ⟨L, calm, accepts_of (by decide +kernel)⟩,
    ⟨L, calm, accepts_of (by decide +kernel)⟩,
    ⟨L, calm, accepts_of (by decide +kernel)⟩⟩

theorem test_hypotheses_ControllersTakeOver :
    (∃ (s : State), s.resetN = false ∧ s.active.isSome)
    ∧ (∃ (i : ShcIx) (s : State), s.resetN = false ∧ (s.shc i).st ≠ .absent)
    ∧ (∃ (shcl : Bool) (lane0 : Bool) (s : State), s.resetN = false ∧ (shcl || lane0) = true)
    ∧ (∃ (a : ShcIx) (t : Time) (s : State), s.resetN = false ∧ s.active = some a.val ∧ (s.shc (1 - a)).st = .ok
      ∧ (s.shc (1 - a)).probe = none ∧ (s.shc (1 - a)).lastBeat + 20 * msec ≤ max s.now t)
    ∧ (∃ (a : ShcIx) (p : Time) (t : Time) (s : State), s.resetN = false ∧ s.active = some a.val ∧ (s.shc (1 - a)).st = .ok
      ∧ (s.shc (1 - a)).probe = some p ∧ p + 10 * msec ≤ max s.now t ∧ s.quiet = none)
    ∧ (∃ (a : ShcIx) (s : State), s.resetN = false ∧ s.active = some a.val)
    ∧ (∃ (a : ShcIx) (ln : Ln) (s : State), s.accepts ln .admin false ∧ s.active = some a.val ∧ (s.shc (1 - a)).st = .ok
      ∧ s.quiet = none)
    ∧ (∃ (q : Time) (t : Time) (s : State), s.resetN = false ∧ s.quiet = some q ∧ q + 100 * msec ≤ max s.now t)
    ∧ (∃ (ln : Ln) (s : State), s.accepts ln .view true) :=
  ⟨⟨calm, by decide +kernel⟩,
    ⟨0, calm, by decide +kernel⟩,
    ⟨true, false, calm, by decide +kernel⟩,
    ⟨0, 20 * msec, { calm with shcB := { calm.shcB with st := .ok, probe := none, lastBeat := 0 } }, by decide +kernel⟩,
    ⟨0, 0, 10 * msec, { calm with shcB := { calm.shcB with st := .ok, probe := some 0 } }, by decide +kernel⟩,
    ⟨0, pair_, by decide +kernel⟩,
    ⟨0, L, pair_, accepts_of (by decide +kernel), by decide +kernel⟩,
    ⟨0, 100 * msec, { calm with quiet := some 0 }, by decide +kernel⟩,
    ⟨L, calm, accepts_of (by decide +kernel)⟩⟩

theorem test_hypotheses_MirrorAndFirmware :
    (∃ (a : ShcIx) (s : State), s.resetN = false ∧ s.active = some a.val ∧ (s.shc (1 - a)).st = .ok ∧ s.mirrorProbe = none
      ∧ 0 < s.mirrorSeq)
    ∧ (∃ (a : ShcIx) (p : Time) (t : Time) (s : State), s.resetN = false ∧ s.active = some a.val ∧ s.mirrorProbe = some p
      ∧ p + 10 * msec ≤ max s.now t)
    ∧ (∃ (a : ShcIx) (i : Nat) (w : Firmware) (since : Time) (t : Time) (s : State), s.resetN = false ∧ s.active = some a.val
      ∧ s.fwUpdate = .rejoin i since ∧ s.flash.slot i = some w ∧ w.stepping = 2 ∧ max s.now t ≤ since + 2 * second
      ∧ s.quiet = none)
    ∧ (∃ (a : ShcIx) (i : Nat) (w : Firmware) (s : State), s.resetN = false ∧ s.active = some a.val ∧ s.fwUpdate = .handover i
      ∧ s.flash.slot i = some w ∧ w.stepping = 2)
    ∧ (∃ (i : Nat) (since : Time) (t : Time) (s : State), s.resetN = false ∧ s.fwUpdate = .rejoin i since
      ∧ since + 2 * second ≤ max s.now t)
    ∧ (∃ (b : StageBuf) (ln : Ln) (s : State), s.accepts ln .admin false
      ∧ s.stages.find? (fun x => x.id = b.id && x.firmware) = some b ∧ s.fwUpdate = .none
      ∧ (∀ f ∈ s.folds, f.load = none ∧ f.st ≠ .migrating ∧ f.st ≠ .loading) ∧ b.size ≤ b.data.length)
    ∧ (∃ (a : ShcIx) (ln : Ln) (s : State), s.accepts ln .admin false ∧ s.active = some a.val ∧ s.fuses.svn < (s.shc a).svn) :=
  ⟨⟨0, { pair_ with mirrorSeq := 1 }, by decide +kernel⟩,
    ⟨0, 0, 10 * msec, { pair_ with mirrorProbe := some 0 }, by decide +kernel⟩,
    ⟨0, 1, W0, 0, 2 * second, { pair_ with fwUpdate := .rejoin 1 0, flash := { calm.flash with slot1 := some W0 } },
     by decide +kernel⟩,
    ⟨0, 1, W0, { pair_ with fwUpdate := .handover 1, flash := { calm.flash with slot1 := some W0 } }, by decide +kernel⟩,
    ⟨1, 0, 2 * second, { pair_ with fwUpdate := .rejoin 1 0 }, by decide +kernel⟩,
    ⟨⟨0, true, 1, fw0⟩, L, { calm with stages := [⟨0, true, 1, fw0⟩] }, accepts_of (by decide +kernel), by decide +kernel⟩,
    ⟨0, L, { calm with shcA := { calm.shcA with svn := 1 } }, accepts_of (by decide +kernel), by decide +kernel⟩⟩

theorem test_hypotheses_MustersAndCheckpoints :
    (∃ (id : Nat) (ms : Nat) (f : Fold) (t : Time) (s : State), s.resetN = false ∧ s.active.isSome ∧ s.foldOf id = some f
      ∧ f.st = .running ∧ f.release = none ∧ f.image.isSome ∧ f.transition = none ∧ f.ckpt = some ms
      ∧ f.ckptBase + ms * msec ≤ max s.now t)
    ∧ (∃ (id : Nat) (f : Fold) (t : Time) (s : State), s.resetN = false ∧ s.foldOf id = some f ∧ f.muster = some .checkpoint
      ∧ f.transition = none ∧ (s.tick t).quietFold f = true)
    ∧ (∃ (id : Nat) (f : Fold) (t : Time) (s : State), s.resetN = false ∧ s.foldOf id = some f ∧ f.muster = some .fleece
      ∧ f.recovery.isSome ∧ f.transition = none ∧ (s.tick t).quietFold f = true)
    ∧ (∃ (id : Nat) (f : Fold) (t : Time) (s : State), s.resetN = false ∧ s.foldOf id = some f ∧ f.muster.isSome
      ∧ f.transition = none ∧ f.musterAt + 200 * f.qMax + 100 * usec ≤ max s.now t)
    ∧ (∃ (id : Nat) (f : Fold) (im : Image) (s : State), s.resetN = false ∧ s.foldOf id = some f ∧ f.st = .checkpointing
      ∧ f.muster = none ∧ f.image = some im) :=
  ⟨⟨1, 1000, { F0 with ckpt := some 1000 }, second, withFold { F0 with ckpt := some 1000 }, by decide +kernel⟩,
    ⟨1, { F0 with st := .checkpointing, muster := some .checkpoint }, 0,
     withFold { F0 with st := .checkpointing, muster := some .checkpoint }, by decide +kernel⟩,
    ⟨1, { F0 with st := .migrating, muster := some .fleece, recovery := some V0 }, 0,
     withFold { F0 with st := .migrating, muster := some .fleece, recovery := some V0 }, by decide +kernel⟩,
    ⟨1, { F0 with st := .checkpointing, muster := some .checkpoint }, 100 * usec,
     withFold { F0 with st := .checkpointing, muster := some .checkpoint }, by decide +kernel⟩,
    ⟨1, { F0 with st := .checkpointing }, I0, withFold { F0 with st := .checkpointing }, by decide +kernel⟩⟩

theorem test_hypotheses_ReportsAndNotices :
    (∃ (r : PendReport) (s : State), s.resetN = false ∧ s.active.isSome ∧ r ∈ s.reports)
    ∧ (∃ (r : PendReport) (id : Nat) (f : Fold) (t : Time) (s : State), s.resetN = false ∧ s.active.isSome ∧ r ∈ s.reports
      ∧ r.folds = [id] ∧ s.foldOf id = some f ∧ (s.tick t).meansFor f r.trigger r.place = .stop ∧ f.release = none
      ∧ f.load = none ∧ (f.st = .running ∨ f.st = .reconfiguring ∨ f.st = .checkpointing ∨ f.st = .doubt ∨ f.st = .migrating))
    ∧ (∃ (r : PendReport) (id : Nat) (f : Fold) (t : Time) (s : State), s.resetN = false ∧ s.active.isSome ∧ r ∈ s.reports
      ∧ r.folds = [id] ∧ s.foldOf id = some f ∧ (s.tick t).meansFor f r.trigger r.place = .restart ∧ f.release = none
      ∧ f.load = none ∧ (f.st = .running ∨ f.st = .reconfiguring ∨ f.st = .checkpointing))
    ∧ (∃ (t : Time) (s : State), s.resetN = false ∧ (∃ r ∈ s.reports, r.since + msec ≤ max s.now t))
    ∧ (∃ (k : NedIx) (id : Nat) (r : Req) (x : FoldState) (s : State), s.sized ∧ s.resetN = false ∧ (s.ned k).doubt = false
      ∧ s.notice id = some x ∧ (s.ned k).reqs = [r] ∧ r.fold = id ∧ (r.phase = .penned ∨ r.phase = .wafer)
      ∧ r.fcs ≠ some false)
    ∧ (∃ (n : Pad) (id : Nat) (s : State), s.resetN = false ∧ (s.notice id).isSome ∧ (s.pad n).excl = id ∧ id ≠ 0)
    ∧ (∃ (n : Pad) (k : Nat) (id : Nat) (s : State), s.resetN = false ∧ (s.notice id).isSome ∧ (s.pad n).excl = 0 ∧ k < 4
      ∧ (s.pad n).slots.getD k 0 = id ∧ id ≠ 0) :=
  ⟨⟨⟨.auth, [1], 0, 0⟩, { withFold F0 with reports := [⟨.auth, [1], 0, 0⟩] }, by decide +kernel⟩,
    ⟨⟨.auth, [1], 0, 0⟩, 1, F0, 0, { withFold F0 with reports := [⟨.auth, [1], 0, 0⟩] }, by decide +kernel⟩,
    ⟨⟨.watchdog, [1], 0, 0⟩, 1, F0, 0, { withFold F0 with reports := [⟨.watchdog, [1], 0, 0⟩] }, by decide +kernel⟩,
    ⟨msec, { withFold F0 with reports := [⟨.auth, [1], 0, 0⟩] }, by decide +kernel⟩,
    ⟨0, 1, { R0 with phase := .penned }, .stopped,
     { withReq { R0 with phase := .penned } with folds := [{ F0 with st := .doubt }], notices := [⟨1, .stopped, 0⟩] },
     sized_of (by decide +kernel), by decide +kernel⟩,
    ⟨0, 1, { calm.setPad 0 { P1 with excl := 1 } with folds := [{ F0 with st := .doubt }], notices := [⟨1, .stopped, 0⟩] },
     by decide +kernel⟩,
    ⟨0, 3, 1,
     { calm.setPad 0 { P1 with slots := [2, 0, 0, 1] } with folds := [{ F0 with st := .doubt }], notices := [⟨1, .stopped, 0⟩] },
     by decide +kernel⟩⟩

theorem test_hypotheses_RecoveriesStepForward :
    (∃ (id : Nat) (n : Pad) (m : Nat) (r : Recovery) (f : Fold) (s : State), s.resetN = false ∧ s.foldOf id = some f
      ∧ s.recovering id = some r ∧ r.means = .fleece ∧ n.val ∈ r.shears ∧ s.canFleece n = true
      ∧ r.moves.find? (fun q => q.1 = n.val) = some (n.val, m))
    ∧ (∃ (id : Nat) (n : Pad) (good : Bool) (r : Recovery) (f : Fold) (s : State), s.resetN = false ∧ s.foldOf id = some f
      ∧ s.recovering id = some r ∧ r.means = .fleece ∧ n.val ∈ r.shears ∧ (good = false ∨ s.canFleece n = false))
    ∧ (∃ (id : Nat) (r : Recovery) (s : State), s.resetN = false ∧ s.recovering id = some r
      ∧ (r.means = .checkpoint ∨ r.means = .restart) ∧ r.restored = false)
    ∧ (∃ (id : Nat) (r : Recovery) (f : Fold) (s : State), s.resetN = false ∧ s.foldOf id = some f ∧ f.image.isSome
      ∧ s.recovering id = some r ∧ (r.means = .checkpoint ∨ r.means = .restart) ∧ r.restored = false)
    ∧ (∃ (id : Nat) (r : Recovery) (f : Fold) (s : State), s.resetN = false ∧ s.foldOf id = some f ∧ f.image.isSome
      ∧ s.recovering id = some r ∧ r.means = .fleece ∧ r.shears = [] ∧ r.written = false)
    ∧ (∃ (id : Nat) (r : Recovery) (f : Fold) (s : State), s.resetN = false ∧ s.foldOf id = some f ∧ f.image.isSome
      ∧ s.recovering id = some r ∧ r.means ≠ .fleece ∧ r.restored = true ∧ r.written = false) :=
  ⟨⟨1, 0, 4, V0, { F0 with st := .migrating, recovery := some V0 },
     ((withFold { F0 with st := .migrating, recovery := some V0 }).setField 0 D0).setPad 0 P1, by decide +kernel⟩,
    ⟨1, 0, false, V0, { F0 with st := .migrating, recovery := some V0 },
     ((withFold { F0 with st := .migrating, recovery := some V0 }).setField 0 D0).setPad 0 P1, by decide +kernel⟩,
    ⟨1, { V0 with means := .checkpoint },
     (withFold { F0 with st := .migrating, recovery := some { V0 with means := .checkpoint } }).setPad 0 P1,
     by decide +kernel⟩,
    ⟨1, { V0 with means := .restart }, { F0 with st := .migrating, recovery := some { V0 with means := .restart } },
     (withFold { F0 with st := .migrating, recovery := some { V0 with means := .restart } }).setPad 0 P1, by decide +kernel⟩,
    ⟨1, { V0 with shears := [] }, { F0 with st := .migrating, recovery := some { V0 with shears := [] } },
     (withFold { F0 with st := .migrating, recovery := some { V0 with shears := [] } }).setPad 0 P1, by decide +kernel⟩,
    ⟨1, { V0 with means := .restart, restored := true },
     { F0 with st := .migrating, recovery := some { V0 with means := .restart, restored := true } },
     (withFold { F0 with st := .migrating, recovery := some { V0 with means := .restart, restored := true } }).setPad 0 P1,
     by decide +kernel⟩⟩

theorem test_hypotheses_ClocksAndReferenceAreJudged :
    (∃ (n : Pad) (s : State), s.resetN = false ∧ (s.pad n).clockLost = true ∧ (s.field (fieldOf n)).ringLost = false)
    ∧ (∃ (f : FieldIx) (s : State), s.resetN = false ∧ (s.field f).ringLost = true)
    ∧ (∃ (edge : Option (Fin 4)) (a : Time) (t : Time) (s : State), s.sized ∧ s.resetN = false
      ∧ (∀ e ∈ edgesOf edge, e ∈ s.refAbsent) ∧ s.refSince = some a ∧ a + 10 * msec ≤ max s.now t) :=
  ⟨⟨0, calm.setPad 0 { P0 with clockLost := true }, by decide +kernel⟩,
    ⟨0, calm.setField 0 { D0 with ringLost := true }, by decide +kernel⟩,
    ⟨some 3, 0, 10 * msec, { calm with refAbsent := [3], refSince := some 0 }, sized_of (by decide +kernel), by decide +kernel⟩⟩

theorem test_hypotheses_AcknowledgeAndRestore :
    (∃ (ln : Ln) (s : State), s.accepts ln .operate false)
    ∧ (∃ (die : DieName) (d : Nat) (ln : Ln) (s : State), s.accepts ln .admin false ∧ s.sized ∧ dieDest die = some d
      ∧ s.dieInDoubt die = true ∧ s.tooHot die = false)
    ∧ (∃ (die : DieName) (d : Nat) (passed : Bool) (ln : Ln) (s : State), s.accepts ln .admin false ∧ dieDest die = some d
      ∧ s.dieInDoubt die = true ∧ (passed = false ∨ s.tooHot die = true))
    ∧ (∃ (c : Nat) (r : Nat) (dir : Nat) (x : Nat) (lane : Nat) (ln : Ln) (s : State), s.accepts ln .admin false
      ∧ borderAt c r dir = some x ∧ lane ≤ 3 ∧ (s.link x lane).lastingDown = true)
    ∧ (∃ (c : Nat) (r : Nat) (dir : Nat) (x : Nat) (lane : Nat) (ln : Ln) (s : State), s.accepts ln .admin false
      ∧ borderAt c r dir = some x ∧ lane ≤ 3 ∧ (s.link x lane).lastingDown = true)
    ∧ (∃ (c : Nat) (r : Nat) (dir : Nat) (x : Nat) (lane : Option Nat) (ln : Ln) (s : State), s.accepts ln .view true
      ∧ borderAt c r dir = some x ∧ lane.getD 0 ≤ 3) :=
  ⟨⟨L, calm, accepts_of (by decide +kernel)⟩,
    ⟨.ned 23, 1559, L, calm.setNed 23 { N0 with doubt := true }, accepts_of (by decide +kernel), sized_of (by decide +kernel),
     by decide +kernel⟩,
    ⟨.ned 23, 1559, false, L, calm.setNed 23 { N0 with doubt := true }, accepts_of (by decide +kernel), by decide +kernel⟩,
    ⟨0, 0, 0, 0, 3, L, calm.setLink 0 3 { LinkEnd.initial with lastingDown := true }, accepts_of (by decide +kernel),
     by decide +kernel⟩,
    ⟨0, 0, 0, 0, 3, L, calm.setLink 0 3 { LinkEnd.initial with lastingDown := true }, accepts_of (by decide +kernel),
     by decide +kernel⟩,
    ⟨0, 0, 1, 1, some 3, L, calm, accepts_of (by decide +kernel), by decide +kernel⟩⟩

theorem test_hypotheses_LoadsBeginAndDrain :
    (∃ (id : Nat) (f : Fold) (b : StageBuf) (overlap : Bool) (limit : Option Nat) (l : Load) (ln : Ln) (s : State), 
      s.accepts ln .operate false ∧ s.foldOf id = some f ∧ s.stages.find? (fun x => x.id = b.id && !x.firmware) = some b
      ∧ f.release = none ∧ f.load = none ∧ 1000 ≤ limit.getD 1000000 ∧ limit.getD 1000000 ≤ 100000000
      ∧ (overlap = false → f.st = .created ∨ f.st = .running ∨ f.st = .stopped ∨ f.st = .doubt)
      ∧ (overlap = true → f.st = .running ∧ f.slots = [] ∧ f.transition = none ∧ f.image.isSome ∧ fld b.data 11 1 % 2 = 1)
      ∧ b.size ≤ b.data.length ∧ l = ⟨overlap, b.data, limit.getD 1000000 * 100, .queued, max s.now ln.t, none, []⟩)
    ∧ (∃ (id : Nat) (f : Fold) (l : Load) (s : State), 
      (∀ g ∈ s.folds, ∀ m, g.load = some m → m.phase = .queued → g.mayBegin m = true → l.since ≤ m.since) ∧ s.resetN = false
      ∧ s.active.isSome ∧ s.loadsBegun < 4 ∧ s.foldOf id = some f ∧ f.load = some l ∧ l.phase = .queued ∧ f.mayBegin l = true)
    ∧ (∃ (id : Nat) (f : Fold) (l : Load) (s : State), s.resetN = false ∧ s.foldOf id = some f ∧ f.load = some l
      ∧ l.phase = .draining ∧ l.overlap = false ∧ s.inWafer id = [])
    ∧ (∃ (id : Nat) (f : Fold) (l : Load) (t : Time) (s : State), s.resetN = false ∧ s.foldOf id = some f ∧ f.load = some l
      ∧ l.phase = .draining ∧ l.overlap = false ∧ l.since + 10 * msec ≤ max s.now t) :=
  ⟨⟨1, F0, ⟨0, false, 1, [0]⟩, false, none, ⟨false, [0], 1000000 * 100, .queued, 0, none, []⟩, L,
     { calm with stages := [⟨0, false, 1, [0]⟩], folds := [F0, { F0 with id := 2, load := some { L0 with phase := .draining } }, { F0 with id := 3, load := some { L0 with phase := .draining } }, { F0 with id := 4, load := some { L0 with phase := .draining } }, { F0 with id := 5, load := some { L0 with phase := .draining } }] },
     accepts_of (by decide +kernel), by decide +kernel⟩,
    ⟨1, { F0 with load := some L0 }, L0, withFold { F0 with load := some L0 },
     (by intro g hg m hm _ _; obtain rfl := List.mem_singleton.mp hg; cases hm; exact Nat.le_refl _), by decide +kernel⟩,
    ⟨1, { F0 with load := some { L0 with phase := .draining } }, { L0 with phase := .draining },
     withFold { F0 with load := some { L0 with phase := .draining } }, by decide +kernel⟩,
    ⟨1, { F0 with load := some { L0 with phase := .draining } }, { L0 with phase := .draining }, 10 * msec,
     withFold { F0 with load := some { L0 with phase := .draining } }, by decide +kernel⟩⟩

theorem test_hypotheses_LoadsAreCheckedAndCommitted :
    (∃ (id : Nat) (f : Fold) (l : Load) (s : State), s.resetN = false ∧ s.paused = none ∧ s.foldOf id = some f ∧ f.load = some l
      ∧ l.phase = .decrypting)
    ∧ (∃ (id : Nat) (f : Fold) (l : Load) (im : Image) (s : State), s.resetN = false ∧ s.foldOf id = some f ∧ f.load = some l
      ∧ l.phase = .confirming ∧ l.overlap = false ∧ l.image = some im)
    ∧ (∃ (id : Nat) (f : Fold) (l : Load) (im : Image) (s : State), s.resetN = false ∧ s.foldOf id = some f ∧ f.load = some l
      ∧ l.phase = .waiting ∧ l.image = some im) :=
  ⟨⟨1, { F0 with load := some { L0 with phase := .decrypting } }, { L0 with phase := .decrypting },
     withFold { F0 with load := some { L0 with phase := .decrypting } }, by decide +kernel⟩,
    ⟨1, { F0 with load := some { L0 with phase := .confirming } }, { L0 with phase := .confirming }, I0,
     withFold { F0 with load := some { L0 with phase := .confirming } }, by decide +kernel⟩,
    ⟨1, { F0 with load := some { L0 with phase := .waiting } }, { L0 with phase := .waiting }, I0,
     withFold { F0 with load := some { L0 with phase := .waiting } }, by decide +kernel⟩⟩

theorem test_hypotheses_OverlappedLoadsSwitch :
    (∃ (id : Nat) (f : Fold) (l : Load) (im : Image) (n : Pad) (k : CtxIx) (t : Time) (s : State), s.resetN = false
      ∧ s.foldOf id = some f ∧ f.load = some l ∧ (l.phase = .decrypting ∨ l.phase = .staging ∧ l.image.isSome)
      ∧ l.overlap = true ∧ (s.tick t).stageImage f l = some im ∧ (n.val, k.val) ∈ f.needs im ∧ (s.pad n).ctxs.length = 4
      ∧ ((s.pad n).ctx k).st = .free ∧ s.occupancy n k = 0)
    ∧ (∃ (id : Nat) (f : Fold) (l : Load) (im : Image) (q : Nat × Nat) (t : Time) (s : State), s.resetN = false
      ∧ s.foldOf id = some f ∧ f.load = some l ∧ (l.phase = .decrypting ∨ l.phase = .staging) ∧ l.overlap = true
      ∧ (s.tick t).stageImage f l = some im ∧ q ∈ f.needs im ∧ q ∉ l.staged
      ∧ l.since + (s.tick t).pausedFor l.since + 10 * msec ≤ max s.now t)
    ∧ (∃ (id : Nat) (f : Fold) (l : Load) (im : Image) (s : State), s.resetN = false ∧ s.foldOf id = some f ∧ f.load = some l
      ∧ l.phase = .confirming ∧ l.overlap = true ∧ l.image = some im)
    ∧ (∃ (n : Pad) (k : CtxIx) (h : Nat × Nat × Bool × Flit) (s : State), s.resetN = false ∧ (s.pad n).power = .run
      ∧ (s.pad n).clockLost = false ∧ (s.pad n).ctxs.length = 4
      ∧ (s.localHeads n).find? (fun h => h.2.2.2.typ = ftBellwether && h.2.2.2.ctx.toNat = k.val) = some h
      ∧ (((s.pad n).ctx k).st = .live ∨ ((s.pad n).ctx k).st = .retiring) ∧ ((s.pad n).ctx k).epoch = h.2.2.2.epoch)
    ∧ (∃ (n : Pad) (k : CtxIx) (h : Nat × Nat × Bool × Flit) (s : State), s.resetN = false ∧ (s.pad n).power = .run
      ∧ (s.pad n).clockLost = false
      ∧ (s.localHeads n).find? (fun h => h.2.2.2.typ = ftBellwether && h.2.2.2.ctx.toNat = k.val) = some h
      ∧ ((s.pad n).ctx k).epoch ≠ h.2.2.2.epoch)
    ∧ (∃ (k : NedIx) (e : Fin 2) (lane : Lane) (vc : Bool) (q : Queued) (f : Fold) (y : Transition) (got : List (Nat × Nat)) (s : State), 
      s.sized ∧ s.resetN = false ∧ (s.ned k).doubt = false ∧ ((s.link (dieEnd (nedDest k) e) lane).buf vc).head? = some q
      ∧ q.flit.typ = ftBellwether ∧ s.foldOf q.flit.fold.toNat = some f ∧ f.transition = some y
      ∧ q.flit.epoch.toNat = y.oldEpoch
      ∧ got = ((s.ned k).bwSources.filter fun b => b.1 ≠ q.flit.fold.toNat || b.2 ≠ (payWord q.flit.payload 0).toNat % 2 ^ 15) ++ [(q.flit.fold.toNat, (payWord q.flit.payload 0).toNat % 2 ^ 15)]
      ∧ 0 < tabGet 0 (s.ned k).bwNeed q.flit.fold.toNat)
    ∧ (∃ (id : Nat) (f : Fold) (x : Transition) (t : Time) (s : State), s.resetN = false ∧ s.foldOf id = some f
      ∧ f.transition = some x ∧ f.st ≠ .migrating ∧ x.since + (s.tick t).pausedFor x.since + x.limit ≤ max s.now t) :=
  ⟨⟨1, F1 .staging, L1 .staging, I1, 0, 0, 0, withFold (F1 .staging), by decide +kernel⟩,
    ⟨1, F1 .staging, L1 .staging, I1, (0, 0), 10 * msec, withFold (F1 .staging), by decide +kernel⟩,
    ⟨1, F1 .confirming, L1 .confirming, I1, withFold (F1 .confirming), by decide +kernel⟩,
    ⟨0, 0, (0, 0, false, flit0 ftBellwether),
     holding 0 (queued0 ftBellwether) (calm.setPad 0 { P1 with ctxs := { C0 with bwin := 2 } :: List.replicate 3 PCtx.initial }),
     by decide +kernel⟩,
    ⟨0, 0, (0, 0, false, flit0 ftBellwether),
     holding 0 (queued0 ftBellwether) (calm.setPad 0 { P1 with ctxs := { C0 with epoch := 3 } :: List.replicate 3 PCtx.initial }),
     by decide +kernel⟩,
    ⟨0, 0, 0, false, queued0 ftBellwether, { F0 with transition := some T0 }, T0, [(1, 0)],
     holding (dieEnd (nedDest 0) 0) (queued0 ftBellwether) ((withFold { F0 with transition := some T0 }).setNed 0 { N0 with bwNeed := [(1, 2)] }),
     sized_of (by decide +kernel), by decide +kernel⟩,
    ⟨1, { F0 with transition := some T0 }, T0, 1000, withFold { F0 with transition := some T0 }, by decide +kernel⟩⟩

theorem test_hypotheses_LeasesAreTalliedSignedAndShown :
    (∃ (f : Fold) (s : State), s.resetN = false ∧ (s.folds.map fun g => g.id).Nodup ∧ f ∈ s.folds ∧ f.release = none
      ∧ s.making f = false)
    ∧ (∃ (id : Nat) (f : Fold) (t : Time) (s : State), s.resetN = false ∧ s.active.isSome ∧ s.foldOf id = some f ∧ f.release = none
      ∧ s.making f = false ∧ f.ivStart + 60 * second ≤ max s.now t)
    ∧ (∃ (s : State), s.resetN = false ∧ s.active.isSome ∧ s.ledgerStopped = true ∧ s.frozen = false)
    ∧ (∃ (t : Time) (s : State), (∀ h, s.ptpHeard = some h → h + 10 * second ≤ max s.now t) ∧ s.resetN = false)
    ∧ (∃ (sc : Scope) (id : Nat) (name : Option Nat) (ln : Ln) (s : State), s.accepts ln .view true
      ∧ (∀ i, name = some i → i < scopeSize sc) ∧ s.scopeHas sc id = true)
    ∧ (∃ (count : Option Nat) (ln : Ln) (s : State), s.accepts ln .view true ∧ 1 ≤ count.getD 1024 ∧ count.getD 1024 ≤ 1024)
    ∧ (∃ (id : Nat) (count : Option Nat) (ln : Ln) (s : State), s.accepts ln .view true ∧ 1 ≤ id ∧ id ≤ 63 ∧ 1 ≤ count.getD 1024
      ∧ count.getD 1024 ≤ 1024)
    ∧ (∃ (data : List Byte) (ln : Ln) (s : State), s.accepts ln .view true ∧ data.length = 128) :=
  ⟨⟨F0, withFold F0, by decide +kernel⟩,
    ⟨1, F0, 60 * second, withFold F0, by decide +kernel⟩,
    ⟨{ calm with ledgerStopped := true }, by decide +kernel⟩,
    ⟨10 * second + 1, { calm with ptpHeard := some 0 }, (by intro h e; cases e; decide +kernel), by decide +kernel⟩,
    ⟨.ned, 23, some 0, L, calm, accepts_of (by decide +kernel), (by intro i e; cases e; decide +kernel), by decide +kernel⟩,
    ⟨some 1024, L, calm, accepts_of (by decide +kernel), by decide +kernel⟩,
    ⟨63, none, L, calm, accepts_of (by decide +kernel), by decide +kernel⟩,
    ⟨List.replicate 128 0, L, calm, accepts_of (by decide +kernel), by decide +kernel⟩⟩

theorem test_hypotheses_ConsoleCharactersAndLines :
    (∃ (i : Fin 2) (s : State), s.resetN = false ∧ s.active.isSome ∧ (s.cs i).up = true)
    ∧ (∃ (s : State), s.resetN = false)
    ∧ (∃ (i : Fin 2) (b : Byte) (s : State), s.resetN = false ∧ s.active.isSome ∧ (s.cs i).up = true ∧ (s.cs i).bytesHeld < 4096
      ∧ b ≠ 0x0A ∧ b ≠ 0x0D ∧ ((s.cs i).echo = false ∨ b ≠ 0x08 ∧ b ≠ 0x7F ∧ b ≠ 0x15 ∧ b ≠ 0x03))
    ∧ (∃ (i : Fin 2) (b : Byte) (s : State), s.resetN = false ∧ s.active.isSome ∧ (s.cs i).up = true ∧ (s.cs i).bytesHeld < 4096
      ∧ (s.cs i).echo = true ∧ (b = 0x08 ∨ b = 0x7F ∨ b = 0x15 ∨ b = 0x03))
    ∧ (∃ (i : Fin 2) (b : Byte) (s : State), s.resetN = false ∧ s.active.isSome ∧ (s.cs i).up = true ∧ (s.cs i).bytesHeld < 4096
      ∧ (b = 0x0D ∨ b = 0x0A ∧ (s.cs i).sawCr = false))
    ∧ (∃ (i : Fin 2) (s : State), s.resetN = false ∧ s.active.isSome ∧ (s.cs i).up = true ∧ 4096 ≤ (s.cs i).bytesHeld)
    ∧ (∃ (i : Fin 10) (bytes : List Byte) (overrun : Bool) (lost : Bool) (line : List Nat) (code : Nat) (kv : KVs) (t : Time) (s : State), 
      (s.tick t).hears i = true
      ∧ (line = (if 2 ≤ i.val ∧ (bytes.map (·.toNat)).getLast? = some 0x0D then (bytes.map (·.toNat)).dropLast else bytes.map (·.toNat)))
      ∧ lost = (overrun || ((s.cs i).queued.head?.map fun q => q.2).getD false) ∧ (lost = true ∨ line.all isSep = false)
      ∧ judgeLine line lost (s.cs i).crc = .bad code kv)
    ∧ (∃ (i : Fin 10) (bytes : List Byte) (overrun : Bool) (lost : Bool) (line : List Nat) (c : Spelling) (t : Time) (s : State), 
      (∀ user lvl, (s.cs i).login ≠ .loggedIn user lvl) ∧ (s.tick t).hears i = true
      ∧ (line = (if 2 ≤ i.val ∧ (bytes.map (·.toNat)).getLast? = some 0x0D then (bytes.map (·.toNat)).dropLast else bytes.map (·.toNat)))
      ∧ lost = (overrun || ((s.cs i).queued.head?.map fun q => q.2).getD false) ∧ (lost = true ∨ line.all isSep = false)
      ∧ judgeLine line lost (s.cs i).crc = .cmd c ∧ c.isSession = false)
    ∧ (∃ (i : Fin 10) (bytes : List Byte) (t : Time) (s : State), (s.tick t).hears i = true
      ∧ ((s.cs i).queued.head?.map fun q => q.2).getD false = false ∧ (bytes.map (·.toNat)).all isSep = true) :=
  ⟨⟨0, calm, by decide +kernel⟩,
    ⟨calm, by decide +kernel⟩,
    ⟨0, 0x41, withCs fun c => { c with echo := false, part := List.replicate 512 0x41 }, by decide +kernel⟩,
    ⟨0, 0x7F, withCs fun c => { c with echo := true, part := [0x41] }, by decide +kernel⟩,
    ⟨0, 0x0D, withCs fun c => { c with part := [0x41] }, by decide +kernel⟩,
    ⟨0, withCs fun c => { c with part := List.replicate 4096 0x41 }, by decide +kernel⟩,
    ⟨0, [0x41], false, false, [0x41], 111, [], 0, calm, by decide +kernel⟩,
    ⟨0, textBytes "show map", false, false, (textBytes "show map").map (·.toNat), badCmd, 0,
     withCs fun c => { c with login := .open }, (by intro u l; simp [State.cs, withCs, calm, freshSessions, CSess.initial]),
     by decide +kernel⟩,
    ⟨0, [0x20], 0, calm, by decide +kernel⟩⟩

theorem test_hypotheses_ConnectionsAndTimeouts :
    (∃ (i : Nat) (s : State), s.sized ∧ (∀ j, 2 ≤ j → j < i → (s.cs j).up = true) ∧ s.resetN = false ∧ s.active.isSome
      ∧ s.boot.consoles = true ∧ 2 ≤ i ∧ i < 10 ∧ (s.cs i).up = false)
    ∧ (∃ (s : State), (∀ i, 2 ≤ i → i < 10 → (s.cs i).up = true) ∧ s.resetN = false ∧ s.active.isSome ∧ s.boot.consoles = true)
    ∧ (∃ (i : Fin 10) (s : State), s.resetN = false ∧ 2 ≤ i.val ∧ (s.cs i).up = true)
    ∧ (∃ (f : List Byte) (s : State), s.resetN = false ∧ s.active.isSome ∧ s.boot.consoles = true ∧ s.arpForMe f = true)
    ∧ (∃ (f : List Byte) (s : State), s.resetN = false ∧ s.active.isSome ∧ s.boot.consoles = true ∧ s.arpForMe f = false
      ∧ s.echoForMe f = true)
    ∧ (∃ (f : List Byte) (s : State), s.resetN = false ∧ s.active.isSome ∧ s.boot.consoles = true ∧ s.arpForMe f = false
      ∧ s.echoForMe f = false)
    ∧ (∃ (s : State), s.resetN = false ∧ s.active.isSome ∧ 0 < s.garp)
    ∧ (∃ (i : Fin 10) (user : List Byte) (lvl : Level) (t : Time) (s : State), (s.tick t).hears i = true
      ∧ (s.cs i).login = .loggedIn user lvl ∧ (s.cs i).idle ≠ 0 ∧ (s.cs i).queued = []
      ∧ (s.cs i).lastLine + (s.cs i).idle * second ≤ max s.now t)
    ∧ (∃ (i : Fin 10) (user : List Byte) (c : List Byte) (since : Time) (t : Time) (s : State), s.resetN = false
      ∧ s.sess.length = 10 ∧ (s.cs i).login = .challenged user c since ∧ since + 30 * second ≤ max s.now t)
    ∧ (∃ (i : Fin 10) (until_ : Time) (t : Time) (s : State), s.resetN = false ∧ s.sess.length = 10
      ∧ (s.cs i).lockedUntil = some until_ ∧ until_ ≤ max s.now t)
    ∧ (∃ (i : Fin 10) (s : State), s.resetN = false ∧ s.active.isSome ∧ (s.cs i).up = true ∧ 0 < (s.cs i).lost) :=
  ⟨⟨2, calm, sized_of (by decide +kernel), (by intro j a b; omega), by decide +kernel⟩,
    ⟨{ calm with sess := calm.sess.map (fun (c : CSess) => { c with up := true }) },
     (by
      have h : ∀ i : Fin 10, 2 ≤ i.val → (State.cs { calm with sess := calm.sess.map (fun (c : CSess) => { c with up := true }) } i).up = true := by
        decide +kernel
      exact fun i a b => h ⟨i, b⟩ a),
     by decide +kernel⟩,
    ⟨9, { calm with sess := calm.sess.map (fun (c : CSess) => { c with up := true }) }, by decide +kernel⟩,
    ⟨arp0, calm, by decide +kernel⟩,
    ⟨echo0, calm, by decide +kernel⟩,
    ⟨[], calm, by decide +kernel⟩,
    ⟨{ calm with garp := 1 }, by decide +kernel⟩,
    ⟨0, [0x61], .admin, second, withCs fun c => { c with idle := 1, lastLine := 0 }, by decide +kernel⟩,
    ⟨0, [0x61], [], 0, 30 * second, withCs fun c => { c with login := .challenged [0x61] [] 0 }, by decide +kernel⟩,
    ⟨0, 1, 1, withCs fun c => { c with lockedUntil := some 1 }, by decide +kernel⟩,
    ⟨0, withCs fun c => { c with lost := 1 }, by decide +kernel⟩⟩

theorem test_hypotheses_LoginsAndVerbs :
    (∃ (v : Time) (ln : Ln) (s : State), s.acceptsVerb ln ∧ (s.atLine ln).lockOf ln.sess = some v)
    ∧ (∃ (user : List Byte) (ln : Ln) (s : State), s.acceptsVerb ln ∧ (s.atLine ln).lockOf ln.sess = none
      ∧ (s.flash.creds.isSome ∨ ln.sess < 2 ∧ lowBytes user ≠ textBytes "local"))
    ∧ (∃ (user : List Byte) (ln : Ln) (s : State), s.acceptsVerb ln ∧ (s.atLine ln).lockOf ln.sess = none ∧ s.flash.creds = none
      ∧ ln.sess < 2 ∧ lowBytes user = textBytes "local")
    ∧ (∃ (ln : Ln) (s : State), s.acceptsVerb ln ∧ (s.atLine ln).lockOf ln.sess = none ∧ s.flash.creds = none ∧ 2 ≤ ln.sess)
    ∧ (∃ (user : List Byte) (c : List Byte) (since : Time) (r : Cred) (ln : Ln) (s : State), s.acceptsVerb ln
      ∧ (s.atLine ln).lockOf ln.sess = none ∧ (s.cs ln.sess).login = .challenged (lowBytes user) c since
      ∧ max s.now ln.t < since + 30 * second ∧ (s.flash.creds.getD []).find? (fun r => r.name = lowBytes user) = some r)
    ∧ (∃ (user : List Byte) (ln : Ln) (s : State), s.acceptsVerb ln
      ∧ (∀ c since, (s.cs ln.sess).login = .challenged (lowBytes user) c since → since + 30 * second ≤ max s.now ln.t)
      ∧ (s.atLine ln).lockOf ln.sess = none)
    ∧ (∃ (ln : Ln) (s : State), s.acceptsVerb ln)
    ∧ (∃ (ln : Ln) (s : State), s.acceptsVerb ln)
    ∧ (∃ (echo : Option Bool) (crc : Option Bool) (bells : Option (Fin 3)) (idle : Option Nat) (c : CSess) (ln : Ln) (s : State), 
      s.acceptsVerb ln ∧ (∀ n, idle = some n → n ≤ 86400 ∧ (n ≠ 0 ∨ ln.sess < 2))
      ∧ c = { s.cs ln.sess with echo := echo.getD (s.cs ln.sess).echo, crc := crc.getD (s.cs ln.sess).crc, bells := (bells.map (·.val)).getD (s.cs ln.sess).bells, idle := idle.getD (s.cs ln.sess).idle }) :=
  ⟨⟨5, L, withCs fun c => { c with lockedUntil := some 5 }, verb_of (by decide +kernel), by decide +kernel⟩,
    ⟨[0x61], L, { calm with flash := { calm.flash with creds := some [] } }, verb_of (by decide +kernel), by decide +kernel⟩,
    ⟨textBytes "LOCAL", L, { calm with flash := { calm.flash with creds := none } }, verb_of (by decide +kernel),
     by decide +kernel⟩,
    ⟨{ L with sess := 2 },
     { calm with flash := { calm.flash with creds := none }, sess := calm.sess.map (fun (c : CSess) => { c with up := true }) },
     verb_of (by decide +kernel), by decide +kernel⟩,
    ⟨[0x41], [], 0, ⟨[0x61], .admin, []⟩, { L with t := 30 * second - 1 },
     { withCs fun c => { c with login := .challenged [0x61] [] 0 } with flash := { calm.flash with creds := some [⟨[0x61], .admin, []⟩] } },
     verb_of (by decide +kernel), by decide +kernel⟩,
    ⟨[0x61], L, calm, verb_of (by decide +kernel), (by intro c x h; exact absurd h (by simp [State.cs, calm, L])),
     by decide +kernel⟩,
    ⟨L, calm, verb_of (by decide +kernel)⟩,
    ⟨L, calm, verb_of (by decide +kernel)⟩,
    ⟨some true, none, some 2, some 86400, { calm.cs 0 with echo := true, bells := 2, idle := 86400 }, L, calm,
     verb_of (by decide +kernel), (by intro n h; cases h; decide), by decide +kernel⟩⟩

theorem test_hypotheses_StagesUsersAndSettings :
    (∃ (firmware : Bool) (size : Nat) (ln : Ln) (s : State), s.accepts ln (if firmware then .admin else .operate) false
      ∧ s.stages.length < 8 ∧ (s.stages.map (·.size)).sum + size ≤ 268435456)
    ∧ (∃ (b : StageBuf) (data : List Byte) (ln : Ln) (s : State), s.accepts ln (s.stageLevel b.id) false ∧ s.stageOf b.id = some b
      ∧ 1 ≤ data.length ∧ data.length ≤ 200 ∧ b.data.length + data.length ≤ b.size)
    ∧ (∃ (id : Nat) (ln : Ln) (s : State), s.accepts ln (s.stageLevel id) false ∧ (s.stageOf id).isSome)
    ∧ (∃ (ln : Ln) (s : State), s.accepts ln .view true)
    ∧ (∃ (name : List Byte) (key : List Byte) (ln : Ln) (s : State), s.accepts ln .admin false
      ∧ Sys2Proof.Machine.nameOk name = true ∧ Sys2Proof.Machine.keyOk key = true ∧ s.flashTakes ln = true
      ∧ (s.flash.creds.getD []).length < 32 ∧ (∀ r ∈ s.flash.creds.getD [], r.name ≠ lowBytes name))
    ∧ (∃ (name : List Byte) (r : Cred) (ln : Ln) (s : State), s.accepts ln .admin false ∧ s.flashTakes ln = true
      ∧ (s.flash.creds.getD []).find? (fun r => r.name = lowBytes name) = some r
      ∧ (r.level ≠ .admin ∨ ((s.flash.creds.getD []).filter fun r => r.level = .admin).length ≠ 1))
    ∧ (∃ (name : List Byte) (r : Cred) (ln : Ln) (s : State), s.accepts ln .admin false
      ∧ (s.flash.creds.getD []).find? (fun r => r.name = lowBytes name) = some r ∧ r.level = .admin
      ∧ ((s.flash.creds.getD []).filter fun r => r.level = .admin).length = 1)
    ∧ (∃ (ln : Ln) (s : State), s.accepts ln .admin false)
    ∧ (∃ (i : Fin 2) (baud : Option Nat) (flow : Option Bool) (b : Nat) (f : Bool) (ln : Ln) (s : State), s.accepts ln .admin false
      ∧ (∀ x, baud = some x → x ∈ baudRates) ∧ s.flashTakes ln = true ∧ b = baud.getD (s.con i).baud
      ∧ f = flow.getD (s.con i).flow)
    ∧ (∃ (ln : Ln) (s : State), s.accepts ln .admin false ∧ s.flashTakes ln = true) :=
  ⟨⟨true, 268435456, L, calm, accepts_of (by decide +kernel), by decide +kernel⟩,
    ⟨⟨1, false, 200, []⟩, List.replicate 200 0, L, { calm with stages := [⟨1, false, 200, []⟩] }, accepts_of (by decide +kernel),
     by decide +kernel⟩,
    ⟨1, L, { calm with stages := [⟨1, false, 200, []⟩] }, accepts_of (by decide +kernel), by decide +kernel⟩,
    ⟨L, calm, accepts_of (by decide +kernel)⟩,
    ⟨[0x61], 4 :: List.replicate 96 0, L, calm, accepts_of (by decide +kernel), by decide +kernel⟩,
    ⟨[0x41], ⟨[0x61], .view, []⟩, L, { calm with flash := { calm.flash with creds := some [⟨[0x61], .view, []⟩] } },
     accepts_of (by decide +kernel), by decide +kernel⟩,
    ⟨[0x61], ⟨[0x61], .admin, []⟩, L, { calm with flash := { calm.flash with creds := some [⟨[0x61], .admin, []⟩] } },
     accepts_of (by decide +kernel), by decide +kernel⟩,
    ⟨L, calm, accepts_of (by decide +kernel)⟩,
    ⟨1, some 115200, none, 115200, false, L, calm, accepts_of (by decide +kernel), (by intro x h; cases h; decide +kernel),
     by decide +kernel⟩,
    ⟨L, calm, accepts_of (by decide +kernel), by decide +kernel⟩⟩

theorem test_hypotheses_FramesArrive :
    (∃ (k : NedIx) (f : FrameIn) (s : State), s.sized ∧ s.resetN = false ∧ (s.ned k).hasPort f.port = true
      ∧ (s.ned k).req f.fid = none ∧ ((s.ned k).port f.port).state = .squelched)
    ∧ (∃ (k : NedIx) (f : FrameIn) (s : State), s.sized ∧ s.resetN = false ∧ (s.ned k).hasPort f.port = true
      ∧ (s.ned k).req f.fid = none
      ∧ (((s.ned k).port f.port).state = .idle ∨ ((s.ned k).port f.port).state = .live ∧ ((s.ned k).port f.port).draining = true))
    ∧ (∃ (k : NedIx) (f : FrameIn) (s : State), s.sized ∧ s.resetN = false ∧ (s.ned k).hasPort f.port = true
      ∧ (s.ned k).req f.fid = none ∧ ((s.ned k).port f.port).state = .live ∧ ((s.ned k).port f.port).draining = false
      ∧ s.ptpPort = some (k.val, f.port.val) ∧ isPtpEvent f.bytes = true)
    ∧ (∃ (k : NedIx) (f : FrameIn) (s : State), s.sized ∧ s.resetN = false ∧ (s.ned k).hasPort f.port = true
      ∧ (s.ned k).req f.fid = none ∧ ((s.ned k).port f.port).state = .live ∧ ((s.ned k).port f.port).draining = false
      ∧ (¬ (s.ptpPort = some (k.val, f.port.val) ∧ isPtpEvent f.bytes = true)) ∧ (∀ h ∈ (s.ned k).heard, h.1 ≠ f.fid)
      ∧ (s.ned k).reparseDue f.port f.bytes = true)
    ∧ (∃ (k : NedIx) (f : FrameIn) (s : State), s.sized ∧ s.resetN = false ∧ (s.ned k).hasPort f.port = true
      ∧ (s.ned k).req f.fid = none ∧ ((s.ned k).port f.port).state = .live ∧ ((s.ned k).port f.port).draining = false
      ∧ (¬ (s.ptpPort = some (k.val, f.port.val) ∧ isPtpEvent f.bytes = true)) ∧ (∀ h ∈ (s.ned k).heard, h.1 ≠ f.fid)
      ∧ (s.ned k).reparseDue f.port f.bytes = false ∧ be16 f.bytes 12 ≠ 0x8808
      ∧ classify (s.ned k).bindings f.port f.bytes = .unclassified)
    ∧ (∃ (k : NedIx) (f : FrameIn) (i : Nat) (tag : Nat) (b : Binding) (p : Parsed) (g : Fold) (e : Entry) (t : Time) (s : State), 
      s.sized ∧ s.resetN = false ∧ (s.ned k).hasPort f.port = true ∧ (s.ned k).req f.fid = none
      ∧ ((s.ned k).port f.port).state = .live ∧ ((s.ned k).port f.port).draining = false
      ∧ (¬ (s.ptpPort = some (k.val, f.port.val) ∧ isPtpEvent f.bytes = true)) ∧ (∀ h ∈ (s.ned k).heard, h.1 ≠ f.fid)
      ∧ (s.ned k).reparseDue f.port f.bytes = false ∧ be16 f.bytes 12 ≠ 0x8808
      ∧ classify (s.ned k).bindings f.port f.bytes = .bound i ∧ b = (s.ned k).binding i ∧ parseFrame f.bytes = some p
      ∧ b.readlim < p.ipEnd ∧ (mrqAt f.bytes (b.mrqAt p)).ses = false ∧ (mrqAt f.bytes (b.mrqAt p)).nsp = false
      ∧ b.spec = true ∧ s.foldOf (hdlFold b.handle) = some g ∧ g.st = .running ∧ s.entryOfHandle b.handle = some (g, e)
      ∧ e.cls = none ∧ g.raise e.no = 0 ∧ (s.ned k).penWaits (hdlFold b.handle) = false
      ∧ s.batchOpen k (hdlFold b.handle) = false ∧ (((s.ned k).bucket b.bucket).refill (max s.now t)).whole = true ∧ 1 ≤ tag
      ∧ tag ≤ 65535 ∧ (∀ r ∈ (s.ned k).reqs, r.tag ≠ tag) ∧ (∀ v ∈ (s.ned k).voidTags, v.1 ≠ tag)) :=
  ⟨⟨0, ⟨7, 0, frame1, 0, 0, 0⟩, calm.setNed 0 { N0 with ports := List.replicate 8 { Port.initial with state := .squelched } },
     sized_of (by decide +kernel), by decide +kernel⟩,
    ⟨0, ⟨7, 0, frame1, 0, 0, 0⟩, calm.setNed 0 { N0 with ports := List.replicate 8 { Port.initial with state := .idle } },
     sized_of (by decide +kernel), by decide +kernel⟩,
    ⟨0, ⟨7, 0, List.replicate 12 0 ++ [0x88, 0xF7], 0, 0, 0⟩, { calm.setNed 0 N0 with ptpPort := some (0, 0) },
     sized_of (by decide +kernel), by decide +kernel⟩,
    ⟨0, ⟨7, 0, List.replicate 60 0, 0, 0, 0⟩, calm.setNed 0 N0, sized_of (by decide +kernel), by decide +kernel⟩,
    ⟨0, ⟨7, 0, frame1, 0, 0, 0⟩, calm.setNed 0 N0, sized_of (by decide +kernel), by decide +kernel⟩,
    ⟨0, ⟨7, 0, frame1, 0, 0, 0⟩, 0, 65535, bound0, ⟨none, false, 14, 34, 58, 58, [10, 0, 0, 2], [10, 0, 0, 1], 1000, 4791⟩, F2,
     entryOf (entryBody 0xFF), 0, admits, sized_of (by decide +kernel), by decide +kernel⟩⟩

theorem test_hypotheses_FramesAreJudged :
    (∃ (k : NedIx) (fid : Nat) (s : State), s.sized ∧ s.resetN = false ∧ (s.ned k).doubt = false ∧ (s.ned k).req fid = none
      ∧ (∀ g ∈ (s.ned k).gone, g.1 ≠ fid))
    ∧ (∃ (k : NedIx) (r : Req) (s : State), s.sized ∧ s.resetN = false ∧ (s.ned k).doubt = false ∧ (s.ned k).req r.fid = some r
      ∧ r.fcs = none)
    ∧ (∃ (k : NedIx) (r : Req) (fixes : List (Nat × Byte)) (s : State), s.sized ∧ s.resetN = false ∧ (s.ned k).doubt = false
      ∧ (s.ned k).req r.fid = some r ∧ r.fcs = none ∧ r.uncorrectable = false ∧ r.stale = false ∧ r.phase ≠ .held
      ∧ r.phase ≠ .done ∧ (∀ x ∈ fixes, r.readTo < x.1))
    ∧ (∃ (k : NedIx) (r : Req) (r1 : Req) (fixes : List (Nat × Byte)) (s : State), s.sized ∧ s.resetN = false
      ∧ (s.ned k).doubt = false ∧ (s.ned k).req r.fid = some r ∧ r.fcs = none ∧ r.uncorrectable = false ∧ r.ran = true
      ∧ (∃ x ∈ fixes, x.1 ≤ r.readTo) ∧ s.foldTakes r.fold = true
      ∧ r1 = { r with bytes := applyFixes r.bytes fixes, judged := r.judged + 1 } ∧ (s.ned k).covers r1 = false)
    ∧ (∃ (k : NedIx) (r : Req) (r1 : Req) (fixes : List (Nat × Byte)) (tag : Nat) (s : State), s.sized ∧ s.resetN = false
      ∧ (s.ned k).doubt = false ∧ (s.ned k).req r.fid = some r ∧ r.fcs = none ∧ r.uncorrectable = false ∧ r.ran = true
      ∧ (∃ x ∈ fixes, x.1 ≤ r.readTo) ∧ s.foldTakes r.fold = true
      ∧ r1 = { r with bytes := applyFixes r.bytes fixes, judged := r.judged + 1 } ∧ (s.ned k).covers r1 = true
      ∧ classify (s.ned k).bindings r.port r1.bytes = .bound r.binding ∧ r.binding < 8192 ∧ r.paid.isSome = true ∧ 1 ≤ tag
      ∧ tag ≤ 65535 ∧ (∀ x ∈ (s.ned k).reqs, x.tag ≠ tag) ∧ (∀ v ∈ (s.ned k).voidTags, v.1 ≠ tag))
    ∧ (∃ (k : NedIx) (r : Req) (s : State), s.sized ∧ s.resetN = false ∧ (s.ned k).doubt = false ∧ (s.ned k).req r.fid = some r
      ∧ r.fcs = none ∧ r.uncorrectable = false ∧ r.bytes.length ≤ 9216 ∧ r.short = false ∧ r.phase ≠ .replying
      ∧ r.phase ≠ .held ∧ r.stale = false)
    ∧ (∃ (k : NedIx) (r : Req) (body : List Byte) (t : Time) (s : State), s.sized ∧ s.resetN = false ∧ (s.ned k).doubt = false
      ∧ (s.ned k).req r.fid = some r ∧ r.fcs = none ∧ r.uncorrectable = false ∧ r.bytes.length ≤ 9216 ∧ r.short = false
      ∧ r.phase = .replying ∧ body = r.out ++ List.replicate ((s.ned k).overrun r (max s.now t)) 0)
    ∧ (∃ (k : NedIx) (r : Req) (good : Bool) (s : State), s.sized ∧ s.resetN = false ∧ (s.ned k).doubt = false
      ∧ (s.ned k).req r.fid = some r ∧ r.fcs = none
      ∧ (good = false ∨ r.uncorrectable = true ∨ 9216 < r.bytes.length ∨ r.short = true))
    ∧ (∃ (k : NedIx) (fid : Nat) (port : Nat) (s : State), s.sized ∧ s.resetN = false ∧ (s.ned k).doubt = false
      ∧ (s.ned k).req fid = none ∧ (s.ned k).gone.find? (fun g => g.1 = fid) = some (fid, some port))
    ∧ (∃ (k : NedIx) (r : Req) (s : State), s.sized ∧ s.resetN = false ∧ (s.ned k).doubt = false ∧ (s.ned k).req r.fid = some r
      ∧ r.fcs = none ∧ r.short = true)
    ∧ (∃ (k : NedIx) (r : Req) (s : State), s.sized ∧ s.resetN = false ∧ (s.ned k).doubt = false ∧ (s.ned k).req r.fid = some r) :=
  ⟨⟨0, 7, calm.setNed 0 N0, sized_of (by decide +kernel), by decide +kernel⟩,
    ⟨0, R1, withReq R1, sized_of (by decide +kernel), by decide +kernel⟩,
    ⟨0, R1, [(58, 1)], withReq R1, sized_of (by decide +kernel), by decide +kernel⟩,
    ⟨0, { R1 with group := 0 }, { R1 with group := 0, bytes := applyFixes frame1 [(57, 1)], judged := 1 }, [(57, 1)],
     { withReq { R1 with group := 0 } with folds := [F2] }, sized_of (by decide +kernel), by decide +kernel⟩,
    ⟨0, R1, { R1 with bytes := applyFixes frame1 [(57, 1)], judged := 1 }, [(57, 1)], 65535,
     admits.setNed 0 { N1 with reqs := [R1] }, sized_of (by decide +kernel), by decide +kernel⟩,
    ⟨0, R1, withReq R1, sized_of (by decide +kernel), by decide +kernel⟩,
    ⟨0, { R1 with phase := .replying, out := [1], reply := some .result }, [1], 1,
     withReq { R1 with phase := .replying, out := [1], reply := some .result }, sized_of (by decide +kernel),
     by decide +kernel⟩,
    ⟨0, R0, true, withReq R0, sized_of (by decide +kernel), by decide +kernel⟩,
    ⟨0, 7, 0, calm.setNed 0 { N0 with gone := [(7, some 0)] }, sized_of (by decide +kernel), by decide +kernel⟩,
    ⟨0, { R0 with bytes := List.replicate 63 0 }, withReq { R0 with bytes := List.replicate 63 0 }, sized_of (by decide +kernel),
     by decide +kernel⟩,
    ⟨0, { R1 with group := 0 }, withReq { R1 with group := 0 }, sized_of (by decide +kernel), by decide +kernel⟩⟩

theorem test_hypotheses_ResultsAndReplies :
    (∃ (k : NedIx) (e : Fin 2) (lane : Lane) (vc : Bool) (q : Queued) (r : Req) (s : State), s.sized ∧ s.resetN = false
      ∧ (s.ned k).doubt = false ∧ ((s.link (dieEnd (nedDest k) e) lane).buf vc).head? = some q ∧ q.flit.typ = ftData
      ∧ (s.ned k).reqByTag q.flit.tag.toNat = some r ∧ (s.ned k).req r.fid = some r ∧ r.fold = q.flit.fold.toNat
      ∧ r.phase = .wafer ∧ r.lastSeq = none ∧ tabGet 0 (s.ned k).closedEpochs r.fold / 2 ^ q.flit.epoch.toNat % 2 = 0
      ∧ q.flit.seq.toNat < ceilDiv ((s.ned k).template r.template).resLen 64
      ∧ (r.withFlit q.flit.seq.toNat q.flit.payload).length < ceilDiv ((s.ned k).template r.template).resLen 64)
    ∧ (∃ (k : NedIx) (e : Fin 2) (lane : Lane) (vc : Bool) (q : Queued) (r : Req) (s : State), s.sized ∧ s.resetN = false
      ∧ (s.ned k).doubt = false ∧ ((s.link (dieEnd (nedDest k) e) lane).buf vc).head? = some q
      ∧ (q.flit.typ = ftData ∨ q.flit.typ = ftDataEnd) ∧ (s.ned k).reqByTag q.flit.tag.toNat = some r
      ∧ (s.ned k).req r.fid = some r ∧ r.fold = q.flit.fold.toNat ∧ r.phase = .wafer
      ∧ tabGet 0 (s.ned k).closedEpochs r.fold / 2 ^ q.flit.epoch.toNat % 2 = 0
      ∧ q.flit.seq.toNat < ceilDiv ((s.ned k).template r.template).resLen 64
      ∧ ceilDiv ((s.ned k).template r.template).resLen 64 ≤ (r.withFlit q.flit.seq.toNat q.flit.payload).length)
    ∧ (∃ (k : NedIx) (e : Fin 2) (lane : Lane) (vc : Bool) (q : Queued) (r : Req) (s : State), s.sized ∧ s.resetN = false
      ∧ (s.ned k).doubt = false ∧ ((s.link (dieEnd (nedDest k) e) lane).buf vc).head? = some q
      ∧ (q.flit.typ = ftData ∨ q.flit.typ = ftDataEnd) ∧ (s.ned k).reqByTag q.flit.tag.toNat = some r
      ∧ r.fold ≠ q.flit.fold.toNat)
    ∧ (∃ (k : NedIx) (e : Fin 2) (lane : Lane) (vc : Bool) (q : Queued) (s : State), s.sized ∧ s.resetN = false
      ∧ (s.ned k).doubt = false ∧ ((s.link (dieEnd (nedDest k) e) lane).buf vc).head? = some q
      ∧ (q.flit.typ = ftData ∨ q.flit.typ = ftDataEnd) ∧ (s.ned k).reqByTag q.flit.tag.toNat = none
      ∧ (∀ v ∈ (s.ned k).voidTags, v.1 ≠ q.flit.tag.toNat))
    ∧ (∃ (k : NedIx) (r : Req) (rep : Reply) (out : List Byte) (t : Time) (s : State), s.sized ∧ s.resetN = false
      ∧ (s.ned k).req r.fid = some r ∧ r.phase = .waiting ∧ r.reply = some rep
      ∧ (s.ned k).portFree r.port (max s.now t) = true ∧ r.composed + egress ≤ max s.now t
      ∧ (s.ned k).order.find? (fun f => ((s.ned k).req f).any fun q => q.port = r.port) = some r.fid
      ∧ (s.ned k).replyDue r rep (max s.now t) ≤ max s.now t
      ∧ out = (s.ned k).replyOut r rep (if ((s.ned k).template r.template).fill && !rep.refusal then fillLen ((s.ned k).speed r.port) ((s.ned k).verdictAt r) (max s.now t) ((s.ned k).replyHr r rep).1 ((s.ned k).replyHr r rep).2 else 0))
    ∧ (∃ (k : NedIx) (r : Req) (t : Time) (s : State), s.sized ∧ s.resetN = false ∧ (s.ned k).req r.fid = some r ∧ r.phase = .wafer
      ∧ r.start + 400 * s.qOf r.bind r.bytes + 110 * msec ≤ max s.now t)
    ∧ (∃ (k : NedIx) (tag : BitVec 16) (r : Req) (f : Fold) (at_ : Time) (s : State), s.sized ∧ s.resetN = false
      ∧ (s.ned k).reqByTag tag.toNat = some r ∧ (s.ned k).req r.fid = some r ∧ r.phase = .wafer ∧ s.foldOf r.fold = some f
      ∧ f.strayed = some at_ ∧ r.start ≤ at_)
    ∧ (∃ (k : NedIx) (r : Req) (t : Time) (s : State), s.sized ∧ s.resetN = false ∧ (s.ned k).req r.fid = some r ∧ r.phase = .penned
      ∧ (s.tick t).penLate k r = true) :=
  ⟨⟨0, 0, 0, false, queued0 ftData, R0,
     holding (dieEnd (nedDest 0) 0) (queued0 ftData) (calm.setNed 0 { N0 with reqs := [R0], templates := [(0, { N0.template 0 with resLen := 65 })] }),
     sized_of (by decide +kernel), by decide +kernel⟩,
    ⟨0, 0, 0, false, queued0 ftDataEnd, R0,
     holding (dieEnd (nedDest 0) 0) (queued0 ftDataEnd) (calm.setNed 0 { N0 with reqs := [R0], templates := [(0, { N0.template 0 with resLen := 64 })] }),
     sized_of (by decide +kernel), by decide +kernel⟩,
    ⟨0, 0, 0, false, queued0 ftData, { R0 with fold := 2 },
     holding (dieEnd (nedDest 0) 0) (queued0 ftData) (withReq { R0 with fold := 2 }), sized_of (by decide +kernel),
     by decide +kernel⟩,
    ⟨0, 0, 0, false, queued0 ftData, holding (dieEnd (nedDest 0) 0) (queued0 ftData) (calm.setNed 0 N0),
     sized_of (by decide +kernel), by decide +kernel⟩,
    ⟨0, { R1 with phase := .waiting, reply := some (.refused 1) }, .refused 1,
     N0.replyOut { R1 with phase := .waiting, reply := some (.refused 1) } (.refused 1) 0, second,
     calm.setNed 0 { N0 with reqs := [{ R1 with phase := .waiting, reply := some (.refused 1) }], order := [7] },
     sized_of (by decide +kernel), by decide +kernel⟩,
    ⟨0, R0, second, withReq R0, sized_of (by decide +kernel), by decide +kernel⟩,
    ⟨0, 65535, { R0 with tag := 65535 }, { F0 with strayed := some 5 }, 5,
     { withReq { R0 with tag := 65535 } with folds := [{ F0 with strayed := some 5 }] }, sized_of (by decide +kernel),
     by decide +kernel⟩,
    ⟨0, { R0 with phase := .penned }, 101,
     calm.setNed 0 { N0 with reqs := [{ R0 with phase := .penned }], bindings := [(0, ⟨List.replicate 12 1⟩)] },
     sized_of (by decide +kernel), by decide +kernel⟩⟩

theorem test_hypotheses_PortsFaultAndDrain :
    (∃ (k : NedIx) (port : Fin 8) (bytes : List Byte) (s : State), s.sized ∧ s.resetN = false ∧ s.ptpPort = some (k.val, port.val)
      ∧ isPtpEvent bytes = true ∧ ((s.ned k).port port).state = .live)
    ∧ (∃ (k : NedIx) (port : Fin 8) (bytes : List Byte) (t : Time) (s : State), s.sized ∧ s.resetN = false
      ∧ s.ptpPort = some (k.val, port.val) ∧ isPtpEvent bytes = true ∧ ((s.ned k).port port).state = .live
      ∧ (s.ned k).portFree port (max s.now t) = true)
    ∧ (∃ (k : NedIx) (port : Fin 8) (remote : Bool) (s : State), s.sized ∧ (s.ned k).ports.length = 8 ∧ s.resetN = false
      ∧ (s.ned k).hasPort port = true
      ∧ (if remote then ((s.ned k).port port).remoteFault else ((s.ned k).port port).localFault) = false)
    ∧ (∃ (k : NedIx) (port : Fin 8) (remote : Bool) (s : State), s.sized ∧ (s.ned k).ports.length = 8 ∧ s.resetN = false
      ∧ (if remote then ((s.ned k).port port).remoteFault else ((s.ned k).port port).localFault) = true)
    ∧ (∃ (k : NedIx) (port : Fin 8) (t : Time) (s : State), s.sized ∧ (s.ned k).ports.length = 8 ∧ s.resetN = false
      ∧ ((s.ned k).port port).draining = true ∧ ((s.ned k).port port).state ≠ .squelched
      ∧ (s.ned k).portQuiet port (max s.now t) = true)
    ∧ (∃ (k : NedIx) (port : Fin 8) (t : Time) (s : State), s.sized ∧ s.resetN = false ∧ ((s.ned k).port port).draining = true
      ∧ ((s.ned k).port port).drainAt + 10 * msec ≤ max s.now t)
    ∧ (∃ (k : NedIx) (port : Fin 8) (p : Port) (s : State), s.sized ∧ (s.ned k).ports.length = 8 ∧ s.resetN = false
      ∧ (s.ned k).hasPort port = true ∧ p = (s.ned k).port port ∧ p.draining = true ∧ p.state ≠ .live) :=
  ⟨⟨0, 0, List.replicate 12 0 ++ [0x88, 0xF7], { calm.setNed 0 N0 with ptpPort := some (0, 0) }, sized_of (by decide +kernel),
     by decide +kernel⟩,
    ⟨0, 0, List.replicate 12 0 ++ [0x88, 0xF7], 0, { calm.setNed 0 N0 with ptpPort := some (0, 0) }, sized_of (by decide +kernel),
     by decide +kernel⟩,
    ⟨0, 0, true, calm.setNed 0 N0, sized_of (by decide +kernel), by decide +kernel⟩,
    ⟨0, 0, true, calm.setNed 0 { N0 with ports := { Port.initial with remoteFault := true } :: List.replicate 7 Port.initial },
     sized_of (by decide +kernel), by decide +kernel⟩,
    ⟨0, 0, 0,
     calm.setNed 0 { N0 with ports := { Port.initial with state := .live, draining := true } :: List.replicate 7 Port.initial },
     sized_of (by decide +kernel), by decide +kernel⟩,
    ⟨0, 0, 10 * msec,
     calm.setNed 0 { N0 with reqs := [R1], ports := { Port.initial with state := .live, draining := true } :: List.replicate 7 Port.initial },
     sized_of (by decide +kernel), by decide +kernel⟩,
    ⟨0, 0, { Port.initial with state := .idle, draining := true, pendMac := some 5 },
     calm.setNed 0 { N0 with ports := { Port.initial with state := .idle, draining := true, pendMac := some 5 } :: List.replicate 7 Port.initial },
     sized_of (by decide +kernel), by decide +kernel⟩⟩

theorem test_hypotheses_PensAndDoubtOfNeds :
    (∃ (k : NedIx) (t : Time) (s : State), s.sized ∧ s.resetN = false ∧ (s.ned k).doubt = false
      ∧ ((s.ned k).lastRelease = 0 ∨ (s.ned k).lastRelease + 400 ≤ max s.now t))
    ∧ (∃ (k : NedIx) (act : List (Nat × Nat)) (acc : Tab Nat) (cyc : List Nat) (cap : Nat → Nat) (s : State), s.sized
      ∧ (cyc = (if (s.ned k).cyclePos = 0 ∨ (s.ned k).cycle.length ≤ (s.ned k).cyclePos then burstCycle act else (s.ned k).cycle))
      ∧ cap = (fun f => match act.find? fun p => p.1 = f with | some p => accountDepth (s.ned k).burstDepth p.2 ((act.map fun p => p.2).sum) | none => 0)
      ∧ s.resetN = false ∧ 0 < (s.ned k).burstRate ∧ act = s.burstActive k
      ∧ acc = (s.ned k).accounts.filter (fun a => act.any fun p => p.1 = a.1))
    ∧ (∃ (k : NedIx) (s : State), s.sized ∧ s.resetN = false ∧ (s.ned k).doubt = false)
    ∧ (∃ (a : Time) (t : Time) (s : State), s.sized ∧ s.resetN = false ∧ s.pwrFail = true ∧ s.pwrFailAt = some a
      ∧ a + 4 * usec ≤ max s.now t)
    ∧ (∃ (die : Nat) (t : Time) (s : State), s.sized ∧ s.resetN = false ∧ 1536 ≤ die ∧ die < 1560
      ∧ (s.ned (die - 1536)).lastAlive + 100 * msec ≤ max s.now t) :=
  ⟨⟨0, 400,
     { withReq { R0 with phase := .penned, fcs := some true, group := 100, judged := 1, prepaid := true } with folds := [F0] },
     sized_of (by decide +kernel), by decide +kernel⟩,
    ⟨0, burst0.burstActive 0, [], burstCycle (burst0.burstActive 0), _, burst0, sized_of (by decide +kernel), rfl, rfl,
     by decide +kernel⟩,
    ⟨0, calm, sized_of (by decide +kernel), by decide +kernel⟩,
    ⟨0, 4 * usec, { calm with pwrFail := true, pwrFailAt := some 0 }, sized_of (by decide +kernel), by decide +kernel⟩,
    ⟨1559, 100 * msec, calm, sized_of (by decide +kernel), by decide +kernel⟩⟩

theorem test_hypotheses_PortCommandsAct :
    (∃ (k : NedIx) (g : Fin 2) (mode : Nat) (ln : Ln) (s : State), s.accepts ln .operate false ∧ s.sized
      ∧ (mode = 100 ∨ mode = 200 ∨ mode = 400) ∧ (∀ b ∈ (s.ned k).bindings, b.2.state = 0 ∨ b.2.port / 4 ≠ g.val))
    ∧ (∃ (k : NedIx) (port : Fin 8) (template : Option Nat) (eq : Option Nat) (store : Bool) (p : Port) (ln : Ln) (s : State), 
      s.accepts ln .operate false ∧ s.sized ∧ (s.ned k).ports.length = 8 ∧ (s.ned k).hasPort port = true
      ∧ (s.ned k).doubt = false ∧ template.getD 0 ≤ 2047 ∧ eqOk (eq.getD 0) = true ∧ (store = true → s.flashTakes ln = true)
      ∧ p = (s.ned k).port port)
    ∧ (∃ (k : NedIx) (port : Fin 8) (ln : Ln) (s : State), s.accepts ln .operate false ∧ s.sized ∧ (s.ned k).ports.length = 8
      ∧ (s.ned k).hasPort port = true ∧ (s.ned k).doubt = false ∧ ((s.ned k).port port).state = .idle
      ∧ ((s.ned k).port port).draining = false)
    ∧ (∃ (k : NedIx) (port : Fin 8) (ln : Ln) (s : State), s.accepts ln .operate false ∧ s.sized ∧ (s.ned k).ports.length = 8
      ∧ (s.ned k).hasPort port = true)
    ∧ (∃ (i : Nat) (a : TemplateArgs) (ln : Ln) (s : State), s.accepts ln .operate false ∧ s.sized
      ∧ (∀ v, a.vlan = some (some (some v)) → v ≤ 4094) ∧ i < 2048 ∧ a.pcp.getD 0 ≤ 7 ∧ a.dscp.getD 0 ≤ 63
      ∧ 1 ≤ a.ttl.getD 64 ∧ a.ttl.getD 64 ≤ 255 ∧ a.len.getD 0 ≤ 2048)
    ∧ (∃ (rate : Nat) (depth : Nat) (ln : Ln) (s : State), s.accepts ln .operate false ∧ s.sized ∧ rate ≤ 300000000 ∧ depth ≤ 65535)
    ∧ (∃ (k : NedIx) (port : Fin 8) (ln : Ln) (s : State), s.accepts ln .operate false ∧ s.sized
      ∧ (∀ n ∈ s.neds, n.ports.length = 8) ∧ (s.ned k).hasPort port = true)
    ∧ (∃ (k : NedIx) (i : Nat) (fold : Nat) (rate : Nat) (depth : Nat) (f : Fold) (ln : Ln) (s : State), s.accepts ln .operate false
      ∧ s.sized ∧ i < 8192 ∧ s.foldOf fold = some f ∧ 1 ≤ rate ∧ rate ≤ 300000000 ∧ 1 ≤ depth ∧ depth ≤ 65535
      ∧ (((s.ned k).bucket i).fold = fold ∨ s.foldOf ((s.ned k).bucket i).fold = none)
      ∧ (∀ x ∈ (s.ned k).bindings, x.2.state = 1 → x.2.bucket = i → hdlFold x.2.handle = fold))
    ∧ (∃ (k : NedIx) (i : Nat) (b : Bucket) (ln : Ln) (s : State), s.accepts ln .view true ∧ i < 8192
      ∧ b = ((s.ned k).bucket i).refill (max s.now ln.t))
    ∧ (∃ (k : NedIx) (port : Option Nat) (ps : List Nat) (ln : Ln) (s : State), s.accepts ln .view true
      ∧ ps = (List.range 8).filter (fun p => (s.ned k).hasPort p && (port = none || port = some p)) ∧ ps ≠ []) :=
  ⟨⟨23, 1, 400, L, calm, accepts_of (by decide +kernel), sized_of (by decide +kernel), by decide +kernel⟩,
    ⟨0, 0, none, none, true, N0.port 0, L, calm.setNed 0 N0, accepts_of (by decide +kernel), sized_of (by decide +kernel),
     by decide +kernel⟩,
    ⟨0, 0, L, calm.setNed 0 { N0 with ports := List.replicate 8 { Port.initial with state := .idle } },
     accepts_of (by decide +kernel), sized_of (by decide +kernel), by decide +kernel⟩,
    ⟨0, 0, L, calm.setNed 0 N0, accepts_of (by decide +kernel), sized_of (by decide +kernel), by decide +kernel⟩,
    ⟨2047, ⟨some (some (some 4094)), some 7, none, some 255, some true, some 2048, none, some 5⟩, L, calm,
     accepts_of (by decide +kernel), sized_of (by decide +kernel), (by intro v h; cases h; decide), by decide +kernel⟩,
    ⟨300000000, 65535, L, calm, accepts_of (by decide +kernel), sized_of (by decide +kernel), by decide +kernel⟩,
    ⟨0, 0, L, calm.setNed 0 N0, accepts_of (by decide +kernel), sized_of (by decide +kernel), by decide +kernel⟩,
    ⟨0, 8191, 1, 300000000, 65535, F0, L, (withFold F0).setNed 0 { N0 with buckets := [(8191, { Bucket.empty with fold := 1 })] },
     accepts_of (by decide +kernel), sized_of (by decide +kernel), by decide +kernel⟩,
    ⟨23, 8191, Bucket.empty.refill 0, L, calm, accepts_of (by decide +kernel), by decide +kernel⟩,
    ⟨0, some 0, [0], L, calm.setNed 0 N0, accepts_of (by decide +kernel), by decide +kernel⟩⟩

theorem test_hypotheses_LinksReplayOrGoDown :
    (∃ (x : EndIx) (lane : Lane) (s : State), s.resetN = false ∧ s.endOn x lane = true)
    ∧ (∃ (x : EndIx) (lane : Lane) (b : BitVec 616) (peer : LinkEnd) (s : State), beatGood b = false ∧ s.resetN = false
      ∧ s.endOn x lane = true ∧ (s.link x lane).lastingDown = false ∧ s.clamped x = false
      ∧ peer = s.link ((peerEnd x).getD 0) lane)
    ∧ (∃ (x : EndIx) (lane : Lane) (b : BitVec 616) (s : State), beatGood b = true ∧ s.resetN = false ∧ s.endOn x lane = true
      ∧ (s.link x lane).lastingDown = false ∧ s.clamped x = false ∧ (beatTrailer b).down = true)
    ∧ (∃ (x : EndIx) (lane : Lane) (b : BitVec 616) (l : LinkEnd) (fs : List (Flit × BitVec 5)) (s : State), beatGood b = true
      ∧ s.resetN = false ∧ s.endOn x lane = true ∧ (s.link x lane).lastingDown = false ∧ s.clamped x = false
      ∧ (beatTrailer b).down = false
      ∧ ((s.link x lane).takeTrailer (beatTrailer b)).acceptFlits (beatTrailer b) (beatFlits b) = (l, fs))
    ∧ (∃ (x : EndIx) (lane : Lane) (s : State), s.resetN = false ∧ s.endOn x lane = true ∧ (s.link x lane).lastingDown = false)
    ∧ (∃ (x : EndIx) (lane : Lane) (s : State), s.resetN = false ∧ s.endOn x lane = true
      ∧ ((s.link x lane).replay.any fun e => e.replayed) = true)
    ∧ (∃ (x : EndIx) (lane : Lane) (s : State), s.resetN = false ∧ s.endOn x lane = true ∧ (s.link x lane).lastingDown = false)
    ∧ (∃ (s : State), s.resetN = false ∧ s.active.isSome) :=
  ⟨⟨0, 3, (calm.setPad 0 P0).setLink 0 3 { LinkEnd.initial with lastingDown := true }, by decide +kernel⟩,
    ⟨0, 3, 0, LinkEnd.initial, (calm.setPad 0 P0).setPad 28 P0, zero_beat_bad, by decide +kernel⟩,
    ⟨0, 3, beat1, (calm.setPad 0 P0).setPad 28 P0, beat1_good, by decide +kernel⟩,
    ⟨0, 3, beat0, ((calm.link 0 3).takeTrailer (beatTrailer beat0)), [], (calm.setPad 0 P0).setPad 28 P0, beat0_good,
     by decide +kernel⟩,
    ⟨0, 3, calm.setPad 0 P0, by decide +kernel⟩,
    ⟨0, 3, (calm.setPad 0 P0).setLink 0 3 { LinkEnd.initial with replay := [⟨queued0 0, 0, true, false⟩] }, by decide +kernel⟩,
    ⟨0, 3, calm.setPad 0 P0, by decide +kernel⟩,
    ⟨calm, by decide +kernel⟩⟩

theorem test_hypotheses_PaddocksIssue :
    (∃ (n : Pad) (s : State), s.resetN = false ∧ (s.pad n).power = .run ∧ (s.pad n).clockLost = false)
    ∧ (∃ (n : Pad) (s : State), s.resetN = false ∧ isFine n = true ∧ (s.pad n).power = .run ∧ (s.pad n).clockLost = false
      ∧ (s.pad n).ctxs.length = 4)
    ∧ (∃ (n : Pad) (s : State), s.resetN = false ∧ isFine n = false ∧ (s.pad n).power = .run ∧ (s.pad n).clockLost = false
      ∧ (s.pad n).ctxs.length = 4)
    ∧ (∃ (n : Pad) (k : CtxIx) (s : State), s.resetN = false ∧ (s.pad n).ctxs.length = 4
      ∧ (((s.pad n).ctx k).st = .live ∨ ((s.pad n).ctx k).st = .retiring)
      ∧ 2 ^ (if isFine n then fwWdog ((s.pad n).ctx k).word else cwWdog ((s.pad n).ctx k).word) ≤ ((s.pad n).ctx k).slips
      ∧ s.anyHurdled ((s.pad n).foldAt k) = false)
    ∧ (∃ (n : Pad) (k : CtxIx) (s : State), s.resetN = false ∧ (s.pad n).ctxs.length = 4 ∧ ((s.pad n).ctx k).st = .retiring
      ∧ s.occupancy n k = 0) :=
  ⟨⟨0, calm.setPad 0 P1, by decide +kernel⟩,
    ⟨0, calm.setPad 0 P2, by decide +kernel⟩,
    ⟨28, calm.setPad 28 P2, by decide +kernel⟩,
    ⟨0, 0, calm.setPad 0 { P1 with ctxs := { C0 with slips := 1 } :: List.replicate 3 PCtx.initial }, by decide +kernel⟩,
    ⟨0, 0, calm.setPad 0 { P1 with ctxs := { C0 with st := .retiring } :: List.replicate 3 PCtx.initial }, by decide +kernel⟩⟩

theorem test_hypotheses_PaddocksRetry :
    (∃ (n : Pad) (m : Fin 4) (x : Nat) (s : State), s.resetN = false ∧ (s.pad n).coarse.mu.length = 4
      ∧ ((s.pad n).coarse.m m).held = some x)
    ∧ (∃ (n : Pad) (v : Fin 4) (k : Nat) (s : State), s.resetN = false ∧ (s.pad n).coarse.vu.length = 4
      ∧ ((s.pad n).coarse.v v).reexec = some k)
    ∧ (∃ (n : Pad) (m : Fin 4) (f : Flit) (c : PCtx) (s : State), s.resetN = false ∧ (s.pad n).coarse.mu.length = 4
      ∧ (s.pad n).returns.find? (fun f => f.endpt.toNat = 4 + m.val) = some f ∧ c = (s.pad n).ctx f.ctx.toNat) :=
  ⟨⟨28, 3, 0,
     calm.setPad 28 { P1 with coarse := { P1.coarse with mu := P1.coarse.mu.map (fun (m : MUnit) => { m with held := some 0 }) } },
     by decide +kernel⟩,
    ⟨28, 3, 0,
     calm.setPad 28 { P1 with coarse := { P1.coarse with vu := P1.coarse.vu.map (fun (v : VUnit) => { v with reexec := some 0 }) } },
     by decide +kernel⟩,
    ⟨28, 3, { Flit.null with endpt := 7 }, PCtx.initial, calm.setPad 28 { P1 with returns := [{ Flit.null with endpt := 7 }] },
     by decide +kernel⟩⟩

theorem test_hypotheses_MedsServeAndScrub :
    (∃ (k : MedIx) (e : Fin 2) (lane : Lane) (vc : Bool) (q : Queued) (s : State), s.sized ∧ s.resetN = false
      ∧ (s.med k).doubt = false ∧ (s.med k).selfRefresh = false
      ∧ ((s.link (dieEnd (medDest k) e) lane).buf vc).head? = some q ∧ s.medFirst k = some (⟨e, lane, vc⟩, q))
    ∧ (∃ (k : MedIx) (j : Nat) (s : State), s.sized ∧ s.resetN = false ∧ (s.med k).doubt = false ∧ (s.med k).selfRefresh = false
      ∧ j < (s.med k).queue.length)
    ∧ (∃ (k : MedIx) (t : Time) (s : State), s.sized ∧ s.resetN = false ∧ (s.med k).doubt = false
      ∧ ((∃ r ∈ (s.med k).queue, r.reread = true) ∨ ∃ p ∈ (s.med k).abandoned, p.2 = max s.now t))
    ∧ (∃ (s : State), s.sized ∧ s.resetN = false)
    ∧ (∃ (k : MedIx) (page : Fin 12288) (s : State), s.sized ∧ s.resetN = false ∧ leState ((s.med k).lease page) = 2)
    ∧ (∃ (k : MedIx) (s : State), s.sized ∧ s.resetN = false ∧ (s.med k).rotOn = true)
    ∧ (∃ (k : MedIx) (s : State), s.sized ∧ s.resetN = false ∧ (s.med k).doubt = false) :=
  ⟨⟨0, 0, 0, false, queued0 ftMemReq, holding (dieEnd (medDest 0) 0) (queued0 ftMemReq) calm, sized_of (by decide +kernel),
     by decide +kernel⟩,
    ⟨0, 0, calm.setMed 0 { Med.initial with queue := [M0] }, sized_of (by decide +kernel), by decide +kernel⟩,
    ⟨0, 0, calm.setMed 0 { Med.initial with queue := [{ M0 with reread := true }] }, sized_of (by decide +kernel),
     by decide +kernel⟩,
    ⟨calm, sized_of (by decide +kernel), by decide +kernel⟩,
    ⟨0, 12287, calm.setMed 0 { Med.initial with leases := [(12287, 2)] }, sized_of (by decide +kernel), by decide +kernel⟩,
    ⟨0, calm.setMed 0 { Med.initial with rotOn := true }, sized_of (by decide +kernel), by decide +kernel⟩,
    ⟨0, calm, sized_of (by decide +kernel), by decide +kernel⟩⟩

theorem test_hypotheses_SpanBlocksReplayOrGoDown :
    (∃ (j : SpdIx) (d : Spd) (s : State), s.sized ∧ s.resetN = false ∧ d = s.spd j ∧ d.doubt = false)
    ∧ (∃ (j : SpdIx) (d : Spd) (s : State), s.sized ∧ s.resetN = false ∧ s.spanUp j = true ∧ d = s.spd j)
    ∧ (∃ (j : SpdIx) (s : State), s.sized ∧ s.resetN = false ∧ s.spanUp j = true)
    ∧ (∃ (j : SpdIx) (s : State), s.sized ∧ s.resetN = false ∧ s.spanUp j = true ∧ (s.spd j).replay.any (fun e => e.replayed) = true)
    ∧ (∃ (j : SpdIx) (s : State), s.sized ∧ s.resetN = false ∧ s.spanUp j = true) :=
  ⟨⟨0, Spd.initial, calm.setSpd 0 Spd.initial, sized_of (by decide +kernel), by decide +kernel⟩,
    ⟨0, { Spd.initial with state := .up }, calm.setSpd 0 { Spd.initial with state := .up }, sized_of (by decide +kernel),
     by decide +kernel⟩,
    ⟨0, calm.setSpd 0 { Spd.initial with state := .up }, sized_of (by decide +kernel), by decide +kernel⟩,
    ⟨0, calm.setSpd 0 { Spd.initial with state := .up, replay := [⟨1, [], true⟩] }, sized_of (by decide +kernel),
     by decide +kernel⟩,
    ⟨0, calm.setSpd 0 { Spd.initial with state := .up }, sized_of (by decide +kernel), by decide +kernel⟩⟩

theorem test_hypotheses_SpansTrainAndFlocksForm :
    (∃ (j : SpdIx) (locked : BitVec 16) (b : BitVec 2570) (d : Spd) (good : Prop) (tr : Training) (t : Time) (s : State), s.sized
      ∧ tr = d.train.take locked b (max s.now t / 10)
      ∧ (good = (d.blockOk true b = true ∧ bkType b = 1 ∧ trMagic b = 0x5450)) ∧ s.resetN = false ∧ d = s.spd j
      ∧ d.state = .training ∧ d.doubt = false)
    ∧ (∃ (j : SpdIx) (s : State), s.sized ∧ s.resetN = false ∧ (s.spd j).state = .training)
    ∧ (∃ (j : SpdIx) (s : State), s.sized ∧ s.resetN = false ∧ (s.spd j).state = .refused)
    ∧ (∃ (members : List MemberInfo) (kept : List MemberInfo) (s : State), s.resetN = false ∧ s.active.isSome
      ∧ (∀ j < 16, (s.spd j).state ≠ .training)
      ∧ kept = keepMembers (s.ownInfo :: members.filter fun m => m.flock = s.place.flockId && m.wafer.val ≠ s.me && s.inMask m.wafer.val))
    ∧ (∃ (w : Fin 16) (s : State), s.resetN = false ∧ w.val ∈ s.flockMembers ∧ w.val ≠ s.me)
    ∧ (∃ (j : SpdIx) (s : State), s.sized ∧ s.resetN = false ∧ (s.spd j).doubt = false) :=
  ⟨⟨0, 0xFFFF, block0, { Spd.initial with state := .training }, True, Spd.initial.train.take 0xFFFF block0 0, 0,
     calm.setSpd 0 { Spd.initial with state := .training }, sized_of (by decide +kernel), rfl,
     (eq_true ⟨block0_ok, by decide +kernel, by decide +kernel⟩).symm, by decide +kernel⟩,
    ⟨0, calm.setSpd 0 { Spd.initial with state := .training }, sized_of (by decide +kernel), by decide +kernel⟩,
    ⟨0, calm.setSpd 0 { Spd.initial with state := .refused }, sized_of (by decide +kernel), by decide +kernel⟩,
    ⟨[], [calm.ownInfo], calm, by decide +kernel⟩,
    ⟨15, { calm with flockMembers := [0, 15] }, by decide +kernel⟩,
    ⟨15, calm, sized_of (by decide +kernel), by decide +kernel⟩⟩

theorem test_hypotheses_SpanAndMapCommandsAct :
    (∃ (j : SpdIx) (ln : Ln) (s : State), s.accepts ln .admin false ∧ s.sized ∧ s.spdNamed j = true ∧ (s.spd j).state ≠ .up
      ∧ (s.spd j).doubt = false)
    ∧ (∃ (w : Nat) (members : List Nat) (ln : Ln) (s : State), s.accepts ln .operate false ∧ s.flashTakes ln = true ∧ w ≤ 15
      ∧ w ∈ members ∧ (∀ m ∈ members, m ≤ 15))
    ∧ (∃ (j : SpdIx) (d : Spd) (ln : Ln) (s : State), s.accepts ln .view true ∧ d = s.spd j)
    ∧ (∃ (ms : List Nat) (ln : Ln) (s : State), s.accepts ln .view true
      ∧ ms = (List.range 16).filter (fun w => w = s.me || s.flockMembers.contains w))
    ∧ (∃ (c : Nat) (r : Nat) (n : Nat) (f : Nat) (on : Bool) (bad : Bool) (ln : Ln) (s : State), s.accepts ln .operate false
      ∧ c < 28 ∧ r < 48 ∧ n = padAt c r ∧ f = fieldOf n ∧ s.claimed n = false
      ∧ bad = (if on then (s.pad n).leased || isFine n || decide ((s.entry n).st = 2) || (s.field f).excluded || (s.field f).latched || (decide ((s.entry n).st ≠ 3) && decide (2 ≤ s.reserves f)) else decide ((s.entry n).st ≠ 3)))
    ∧ (∃ (x : Nat) (y : Nat) (ln : Ln) (s : State), s.accepts ln .operate false ∧ x < 7 ∧ y < 12
      ∧ (∀ n ∈ fieldPads (7 * y + x), (s.pad n).leased = false))
    ∧ (∃ (ln : Ln) (s : State), s.accepts ln .view true)
    ∧ (∃ (ls : List Loc) (ps : List Nat) (ln : Ln) (s : State), s.accepts ln .view true ∧ locList ls = some ps)
    ∧ (∃ (m : MapCopy) (ln : Ln) (s : State), s.accepts ln .view true ∧ (s.mapChanged = true → s.flashTakes ln = true)
      ∧ (if s.mapChanged then (s.atLine ln).writeMap s.boot.full true else s).validMap = some m) :=
  ⟨⟨0, L, { calm with place := { calm.place with members := 0xFFFF } }, accepts_of (by decide +kernel),
     sized_of (by decide +kernel), by decide +kernel⟩,
    ⟨15, [0, 15], L, calm, accepts_of (by decide +kernel), by decide +kernel⟩,
    ⟨15, Spd.initial, L, calm, accepts_of (by decide +kernel), by decide +kernel⟩,
    ⟨[0], L, { calm with flockMembers := [0] }, accepts_of (by decide +kernel), by decide +kernel⟩,
    ⟨0, 1, 28, 0, true, false, L, calm, accepts_of (by decide +kernel), by decide +kernel⟩,
    ⟨6, 11, L, calm, accepts_of (by decide +kernel), by decide +kernel⟩,
    ⟨L, calm, accepts_of (by decide +kernel)⟩,
    ⟨[.pad 0 0], [0], L, calm, accepts_of (by decide +kernel), by decide +kernel⟩,
    ⟨map0, L, { calm with flash := { calm.flash with mapA := some map0 } }, accepts_of (by decide +kernel), by decide +kernel⟩⟩

theorem test_hypotheses_FoldsAreCreatedAndReleased :
    (∃ (a : FoldArgs) (ln : Ln) (s : State), s.accepts ln .operate false ∧ (∀ c ∈ (s.atLine ln).createRefusals a, c.1 = false))
    ∧ (∃ (id : Nat) (f : Fold) (a : ResizeArgs) (got : List (Nat × Nat)) (v : State) (ln : Ln) (s : State), 
      s.accepts ln .operate false ∧ (s.atLine ln).leaseAll id (a.asks f) = some (got, v) ∧ s.foldOf id = some f
      ∧ (∀ c ∈ (s.atLine ln).resizeRefusals f a, c.1 = false))
    ∧ (∃ (id : Nat) (f : Fold) (ckpt : Option (Option Nat)) (pen : Option Nat) (weight : Option Nat) (ln : Ln) (s : State), 
      s.accepts ln .operate false
      ∧ (∀ ms, ckpt = some (some ms) → ckptOk ms = true ∧ ∀ im, f.image = some im → ckptPagesFor im.ckptBytes ≤ f.cpages)
      ∧ (pen.isSome → ∀ n ∈ s.neds, (n.reservePen id (pen.getD f.pen)).penFits = true) ∧ s.foldOf id = some f
      ∧ 1 ≤ pen.getD f.pen ∧ pen.getD f.pen ≤ 4096 ∧ 1 ≤ weight.getD f.weight ∧ weight.getD f.weight ≤ 255)
    ∧ (∃ (id : Nat) (f : Fold) (ln : Ln) (s : State), s.accepts ln .operate false ∧ s.foldOf id = some f)
    ∧ (∃ (id : Nat) (f : Fold) (r : Time) (t : Time) (s : State), s.resetN = false ∧ s.foldOf id = some f ∧ f.release = some r
      ∧ (r + 10 * msec ≤ max s.now t ∨ s.inWafer id = []))
    ∧ (∃ (id : Nat) (x : Scrub) (s : State), s.resetN = false ∧ s.active.isSome
      ∧ s.scrubs.find? (fun x => x.fold = id && x.pages.isEmpty) = some x) :=
  ⟨⟨A0, L, calm, accepts_of (by decide +kernel), by decide +kernel⟩,
    ⟨1, F0, ⟨[], [], [], [], none, none⟩, [], (withFold F0).atLine L, L, withFold F0, accepts_of (by decide +kernel), rfl,
     by decide +kernel⟩,
    ⟨1, F0, none, none, some 255, L, withFold F0, accepts_of (by decide +kernel), (by intro _ h; cases h), (by intro h; cases h),
     by decide +kernel⟩,
    ⟨1, F0, L, withFold F0, accepts_of (by decide +kernel), by decide +kernel⟩,
    ⟨1, { F0 with st := .releasing, release := some 0 }, 0, 10 * msec, withFold { F0 with st := .releasing, release := some 0 },
     by decide +kernel⟩,
    ⟨1, ⟨1, 1, 0, 0, 0, 0, 0, []⟩, { calm with scrubs := [⟨1, 1, 0, 0, 0, 0, 0, []⟩] }, by decide +kernel⟩⟩

theorem test_hypotheses_FoldViewsAndRotation :
    (∃ (id : Nat) (f : Fold) (ln : Ln) (s : State), s.accepts ln .view true ∧ s.foldOf id = some f)
    ∧ (∃ (ln : Ln) (s : State), s.accepts ln .view true)
    ∧ (∃ (id : Nat) (f : Fold) (ln : Ln) (s : State), s.accepts ln .view true ∧ s.foldOf id = some f)
    ∧ (∃ (id : Nat) (f : Fold) (ln : Ln) (s : State), s.accepts ln .admin false ∧ s.foldOf id = some f ∧ f.release = none)
    ∧ (∃ (ln : Ln) (s : State), s.accepts ln .operate false ∧ s.sized)
    ∧ (∃ (k : MedIx) (l : List Nat) (ln : Ln) (s : State), s.accepts ln .operate false ∧ s.sized ∧ l.length = 16 ∧ (∀ x ∈ l, x ≤ 63)
      ∧ (∀ e ∈ (s.med k).leases, leState e.2 = 1 → leFold e.2 ∈ l)) :=
  ⟨⟨1, F0, L, withFold F0, accepts_of (by decide +kernel), by decide +kernel⟩,
    ⟨L, calm, accepts_of (by decide +kernel)⟩,
    ⟨1, F0, L, withFold F0, accepts_of (by decide +kernel), by decide +kernel⟩,
    ⟨1, F0, L, withFold F0, accepts_of (by decide +kernel), by decide +kernel⟩,
    ⟨L, calm, accepts_of (by decide +kernel), sized_of (by decide +kernel)⟩,
    ⟨0, List.replicate 16 63, L, calm.setMed 0 { Med.initial with rotOn := true }, accepts_of (by decide +kernel),
     sized_of (by decide +kernel), by decide +kernel⟩⟩

theorem test_hypotheses_ChannelsComeAndGo :
    (∃ (id : Nat) (entry : Nat) (i : Nat) (index : Option Nat) (ticket : Option (BitVec 32)) (deadline : Option Nat) (spec : Option Bool) (f : Fold) (e : Entry) (tk : BitVec 32) (bs : List BindArg) (is : List (Nat × Nat)) (v : State) (ln : Ln) (s : State), 
      s.accepts ln .operate false
      ∧ ((if ticket.isNone then { s.atLine ln with freeCtr := s.freeCtr + 1 } else s.atLine ln).emptyClosed i).bindAll f e (mkHandle id i (nextGen (s.channel i))) tk (deadline.getD e.dHigh) (spec.getD e.cls.isNone) bs = .inr (is, v)
      ∧ s.foldOf id = some f ∧ index.getD 0 ≤ 65535 ∧ bs ≠ [] ∧ bs.length ≤ 8 ∧ chanBarred f.st = false
      ∧ (f.image.bind fun im => im.entry entry) = some e ∧ s.chanIndex index = some i ∧ tk = s.newTicket ticket
      ∧ (∀ c ∈ (s.atLine ln).channelRefusals id i e tk deadline, c.1 = false))
    ∧ (∃ (h : Word) (c : Channel) (f : Fold) (e : Entry) (b : BindArg) (j : Nat) (v : State) (ln : Ln) (s : State), 
      s.accepts ln .operate false
      ∧ (s.atLine ln).bindOne f e h c.ticket c.deadline (match c.binds with | x :: _ => ((s.ned x.1).binding x.2).spec | [] => e.cls.isNone) b = .inr (j, v)
      ∧ s.chanByHandle h = some c ∧ c.closed = false ∧ s.foldOf c.fold = some f ∧ chanBarred f.st = false
      ∧ c.binds.length < 8 ∧ (f.image.bind fun im => im.entry c.entry) = some e)
    ∧ (∃ (h : Word) (c : Channel) (b : Nat × Nat) (port : Nat) (ln : Ln) (s : State), s.accepts ln .operate false
      ∧ s.chanByHandle h = some c ∧ c.closed = false ∧ 1 < c.binds.length
      ∧ c.binds.find? (fun x => x.1 = b.1 && ((s.ned b.1).binding x.2).port = port) = some b)
    ∧ (∃ (h : Word) (c : Channel) (ln : Ln) (s : State), s.accepts ln .operate false ∧ s.chanByHandle h = some c ∧ c.closed = false
      ∧ s.stOf c.fold ≠ some .releasing)
    ∧ (∃ (x : Sum (BitVec 32) Nat) (c : Channel) (n : Nat) (q : Nat) (ln : Ln) (s : State), s.accepts ln .view true
      ∧ (match x with | .inl h => s.chanByHandle h | .inr i => s.channel i) = some c
      ∧ n = ((List.range 24).map fun k => ((s.ned k).bindings.filter fun b => b.2.state ≠ 0 && b.2.handle = c.handle).length).sum
      ∧ q = (match s.entryOfHandle c.handle with | some (f, e) => e.q + f.raise e.no | none => 0)) :=
  ⟨⟨1, 0, 65535, some 65535, some 7, none, none, F2, entryOf (entryBody 0xFF), 7, [B0], (bound1.1), (bound1.2), L, onTwo F2,
     accepts_of (by decide +kernel), bound1_eq, by decide +kernel⟩,
    ⟨K0.handle, K0, F2, entryOf (entryBody 0xFF), B0, (bound2.1), (bound2.2), L, onTwo F2, accepts_of (by decide +kernel),
     bound2_eq, by decide +kernel⟩,
    ⟨K0.handle, { K0 with binds := [(0, 0), (1, 0)] }, (0, 0), 0, L,
     { withFold F0 with channels := [{ K0 with binds := [(0, 0), (1, 0)] }] }, accepts_of (by decide +kernel),
     by decide +kernel⟩,
    ⟨K0.handle, K0, L, { withFold F0 with channels := [K0] }, accepts_of (by decide +kernel), by decide +kernel⟩,
    ⟨.inl K0.handle, K0, 0, 0, L, { withFold F0 with channels := [K0] }, accepts_of (by decide +kernel), by decide +kernel⟩⟩

theorem test_hypotheses_FoldSessionsOpenAndClose :
    (∃ (id : Nat) (num : Nat) (anchor : Nat) (cls : Nat) (cap : Nat) (f : Fold) (ln : Ln) (s : State), s.accepts ln .operate false
      ∧ s.foldOf id = some f ∧ (∀ c ∈ (s.atLine ln).openRefusals f id num anchor cls cap, c.1 = false))
    ∧ (∃ (id : Nat) (num : Nat) (f : Fold) (ln : Ln) (s : State), s.accepts ln .operate false ∧ s.foldOf id = some f
      ∧ ((s.session num).st = .open ∨ (s.session num).st = .lost) ∧ (s.session num).fold = id)
    ∧ (∃ (num : Nat) (s : State), s.resetN = false ∧ (s.session num).st = .closing ∧ (s.session num).busy = false)
    ∧ (∃ (num : Nat) (x : Session) (free : Bool) (ln : Ln) (s : State), s.accepts ln .view true ∧ num ≤ 16383 ∧ x = s.session num
      ∧ free = decide (x.st = .free)) :=
  ⟨⟨1, 16383, 0, 15, 1, F3, L, onThree, accepts_of (by decide +kernel), by decide +kernel⟩,
    ⟨1, 16383, F0, L, (withFold F0).setSession 16383 { Session.initial with st := .open, fold := 1 },
     accepts_of (by decide +kernel), by decide +kernel⟩,
    ⟨16383, (withFold F0).setSession 16383 { Session.initial with st := .closing, fold := 1 }, by decide +kernel⟩,
    ⟨16383, { Session.initial with st := .lost, fold := 1 }, false, L,
     (withFold F0).setSession 16383 { Session.initial with st := .lost, fold := 1 }, accepts_of (by decide +kernel),
     by decide +kernel⟩⟩

theorem test_hypotheses_RegistersReadAndWrite :
    (∃ (count : Option Nat) (ln : Ln) (s : State), s.accepts ln .view true ∧ 1 ≤ count.getD 1 ∧ count.getD 1 ≤ 64)
    ∧ (∃ (ln : Ln) (s : State), s.accepts ln .admin false)
    ∧ (∃ (ln : Ln) (s : State), s.accepts ln .admin false)
    ∧ (∃ (ln : Ln) (s : State), s.accepts ln .admin false)
    ∧ (∃ (ln : Ln) (s : State), s.accepts ln .admin false)
    ∧ (∃ (ln : Ln) (s : State), s.accepts ln .admin false ∧ s.shadow.length = 24)
    ∧ (∃ (ln : Ln) (s : State), s.accepts ln .view true) :=
  ⟨⟨none, L, calm, accepts_of (by decide +kernel), by decide +kernel⟩,
    ⟨L, calm, accepts_of (by decide +kernel)⟩,
    ⟨L, calm, accepts_of (by decide +kernel)⟩,
    ⟨L, calm, accepts_of (by decide +kernel)⟩,
    ⟨L, calm.setField 0 D0, accepts_of (by decide +kernel)⟩,
    ⟨L, calm, accepts_of (by decide +kernel), by decide +kernel⟩,
    ⟨L, calm, accepts_of (by decide +kernel)⟩⟩

theorem test_hypotheses_ResetAndPowerFail :
    (∃ (s : State), s.resetN = true)
    ∧ (∃ (s : State), s.resetN = false)
    ∧ (∃ (s : State), s.resetN = false ∧ s.pwrFail = true)
    ∧ (∃ (s : State), s.pwrFail = true)
    ∧ (∃ (s : State), s.pwrFail = true) :=
  ⟨⟨State.reset, by decide +kernel⟩,
    ⟨calm, by decide +kernel⟩,
    ⟨{ calm with pwrFail := true }, by decide +kernel⟩,
    ⟨{ calm with pwrFail := true }, by decide +kernel⟩,
    ⟨{ calm with pwrFail := true }, by decide +kernel⟩⟩

theorem test_hypotheses_StepRunsTheFront :
    (∃ (c : Instr) (rest : List Instr) (s : State), s.pending = c :: rest)
    ∧ (∃ (s : State), s.pending = []) :=
  ⟨⟨.showBoot L, [], { calm with pending := [.showBoot L] }, by decide +kernel⟩,
    ⟨calm, by decide +kernel⟩⟩

theorem test_hypotheses_UnitsAndFrozenFlashAreKept :
    (∃ (s : State) (t : State), s.sized ∧ step s = .next t)
    ∧ (∃ (s : State) (t : State), step s = .next t ∧ s.frozen = true) :=
  ⟨⟨State.reset, State.reset, sized_of (by decide +kernel), rfl⟩,
    ⟨{ State.reset with frozen := true }, { State.reset with frozen := true }, rfl, by decide +kernel⟩⟩

theorem test_hypotheses_HeldInReset :
    ∃ (c : Instr) (s : State), s.resetN = true ∧ actsInReset c = false :=
  ⟨.showBoot L, State.reset, by decide +kernel⟩

theorem test_hypotheses_StacksStayCanonical :
    ∃ (s : State) (t : State), StacksCanonical s ∧ step s = .next t :=
  ⟨State.reset, State.reset, reset_canonical, rfl⟩

theorem test_hypotheses_StacksChangeByMemoryCommands :
    ∃ (c : Instr), writesStack c = false :=
  ⟨.showBoot L, by decide +kernel⟩

theorem test_hypotheses_WrittenBytesAreReadBack :
    (∃ (m : Med) (w : Nat) (r : Nat) (page : Nat) (off : Nat) (n : Nat) (bs : List Byte), off % 16 = 0 ∧ bs.length = 16 * n
      ∧ w < r ∧ (∀ x ∈ m.wq, x.order ≤ w ∨ r ≤ x.order) ∧ tabGet [] m.slots (leFold (m.lease page)) ≠ [])
    ∧ (∃ (m : Med) (page : Nat) (off : Nat) (bs : List Byte) (a : Nat), (∀ i < bs.length / 16, a ≠ blockAddr page (off + 16 * i))
      ∧ m.wq.Pairwise (fun x y => x.order ≤ y.order))
    ∧ (∃ (m : Med) (o : Nat) (r : Nat), o ≤ r ∧ m.wq.Pairwise (fun x y => x.order ≤ y.order))
    ∧ (∃ (page : Nat) (a : Nat), a / 131072 ≠ page) :=
  ⟨⟨{ Med.initial with slots := [(0, [0])] }, 0, 1, 0, 131056, 1, List.replicate 16 1, by decide +kernel⟩,
    ⟨Med.initial, 0, 0, List.replicate 16 1, blockAddr 0 16, by decide +kernel⟩,
    ⟨Med.initial, 0, 1, by decide +kernel⟩,
    ⟨0, 131072, by decide +kernel⟩⟩

theorem test_hypotheses_FoldsChangeByTheirCommands :
    ∃ (c : Instr), actsOnFolds c = false :=
  ⟨.showBoot L, by decide +kernel⟩

theorem test_hypotheses_SettingsAndPlacementChangeByTheirCommands :
    (∃ (c : Instr), storesSetting c = false)
    ∧ (∃ (c : Instr), resets c = false) :=
  ⟨⟨.showBoot L, by decide +kernel⟩,
    ⟨.showBoot L, by decide +kernel⟩⟩

theorem test_hypotheses_ControlChangesByItsCommands :
    ∃ (c : Instr), actsOnControl c = false :=
  ⟨.showBoot L, by decide +kernel⟩

theorem test_hypotheses_LinesNeedTheirSuffixAndALogin :
    (∃ (c : Instr) (ln : Ln) (s : State), lineOf c = some ln ∧ (s.tick ln.t).hears ln.sess = true ∧ (s.cs ln.sess).crc = true
      ∧ ln.crc = false)
    ∧ (∃ (c : Instr) (ln : Ln) (s : State), (∀ user lvl, (s.cs ln.sess).login ≠ .loggedIn user lvl) ∧ lineOf c = some ln
      ∧ isSessionVerb c = false ∧ (s.tick ln.t).hears ln.sess = true ∧ ((s.cs ln.sess).crc = true → ln.crc = true)) :=
  ⟨⟨.showBoot L, L, withCs fun c => { c with crc := true }, by decide +kernel⟩,
    ⟨.showBoot L, L, withCs fun c => { c with login := .open },
     (by intro u l; simp [State.cs, withCs, L, calm, freshSessions, CSess.initial]), by decide +kernel⟩⟩

theorem test_hypotheses_PrivilegeIsJudgedBeforeBringUp :
    (∃ (c : Instr) (ln : Ln) (user : List Byte) (lvl : Level) (s : State), lineOf c = some ln ∧ isSessionVerb c = false
      ∧ (s.tick ln.t).hears ln.sess = true ∧ ((s.cs ln.sess).crc = true → ln.crc = true)
      ∧ (s.cs ln.sess).login = .loggedIn user lvl ∧ levelRank lvl < levelRank (levelOf s c))
    ∧ (∃ (c : Instr) (ln : Ln) (user : List Byte) (lvl : Level) (s : State), lineOf c = some ln ∧ isSessionVerb c = false
      ∧ (s.tick ln.t).hears ln.sess = true ∧ ((s.cs ln.sess).crc = true → ln.crc = true)
      ∧ (s.cs ln.sess).login = .loggedIn user lvl ∧ levelRank (levelOf s c) ≤ levelRank lvl ∧ s.boot.phase ≠ .ready
      ∧ takenInBringUp c = false)
    ∧ (∃ (c : Instr) (ln : Ln) (user : List Byte) (lvl : Level) (w : Nat) (s : State), lineOf c = some ln ∧ isSessionVerb c = false
      ∧ (s.tick ln.t).hears ln.sess = true ∧ ((s.cs ln.sess).crc = true → ln.crc = true)
      ∧ (s.cs ln.sess).login = .loggedIn user lvl ∧ levelRank (levelOf s c) ≤ levelRank lvl
      ∧ (s.boot.phase = .ready ∨ takenInBringUp c = true) ∧ ln.wafer = some w ∧ w ≠ s.me) :=
  ⟨⟨.raiseSvn L, L, [0x61], .operate, withCs fun c => { c with login := .loggedIn [0x61] .operate }, by decide +kernel⟩,
    ⟨.raiseSvn L, L, [0x61], .admin, inPhase .b5, by decide +kernel⟩,
    ⟨.showBoot { L with wafer := some 1 }, { L with wafer := some 1 }, [0x61], .view, 1,
     withCs fun c => { c with login := .loggedIn [0x61] .view }, by decide +kernel⟩⟩

end Sys2Proof.Tests
end

/-! The order in which a console line is judged (Table SNF-5): the verdict of each step up to the wafer it names as one
equation, and with these O59 and O60. -/
namespace Sys2Proof.Machine

open Sys2Proof

/-! Every console command is one of two things: a session verb, or a body behind the shared judgement. -/

theorem exec_of_sessionVerb {c : Instr} {ln : Ln} (hl : lineOf c = some ln) (hv : isSessionVerb c = true) (s : State) :
    ∃ body, exec c s = .next (s.sessionVerb ln body) := by
  cases c
  case loginRequest | loginResponse | logout | ping | mode => cases hl; exact ⟨_, rfl⟩
  all_goals cases hv

/-- `levelOf` and `takenInBringUp` are the level and the bring-up flag that each command hands to the judgement. -/
theorem exec_of_not_sessionVerb {c : Instr} {ln : Ln} (hl : lineOf c = some ln) (hv : isSessionVerb c = false) (s : State) :
    ∃ body, exec c s = .next (s.judged ln (levelOf s c) (takenInBringUp c) body) := by
  cases c
  case loginRequest | loginResponse | logout | ping | mode => cases hv
  case addUser name level key l =>
    simp only [lineOf, Option.ite_none_right_eq_some, Bool.and_eq_true, Option.some.injEq] at hl
    obtain ⟨⟨hn, hk⟩, rfl⟩ := hl
    exact ⟨_, by simp only [exec, execAddUser, hn, hk, Bool.not_true, Bool.false_eq_true, if_false]; rfl⟩
  -- A command without a line has no `hl`; every other one is `judged` by definition.
  all_goals cases hl <;> exact ⟨_, rfl⟩

/-! What numbers a line, sends held bells and answers changes the moment and the sessions alone. -/

theorem OnlySessions.refl (s : State) : OnlySessions s s := ⟨rfl, fun _ => id⟩

theorem OnlySessions.trans {s t u : State} (h : OnlySessions s t) (k : OnlySessions t u) : OnlySessions s u := by
  obtain ⟨ht, wt⟩ := h
  obtain ⟨hu, wu⟩ := k
  exact ⟨by rw [hu, ht], fun w hw => wt w (wu w hw)⟩

theorem OnlySessions.tick (s : State) (t : Time) : OnlySessions s (s.tick t) := ⟨rfl, fun _ => id⟩

theorem OnlySessions.setCs (s : State) (i : Nat) (c : CSess) : OnlySessions s (s.setCs i c) := ⟨rfl, fun _ => id⟩

theorem OnlySessions.say (s : State) (i : Nat) (o : Out) : OnlySessions s (s.say i o) := by
  unfold State.say
  split
  · exact .setCs s i _
  · exact .refl s

theorem OnlySessions.prompt (s : State) (i : Nat) : OnlySessions s (s.prompt i) := by
  unfold State.prompt
  split
  · exact .say s i _
  · exact .refl s

theorem OnlySessions.final (s : State) (i : Nat) (tag : Option (List Byte)) (crc : Bool) (r : RLine) :
    OnlySessions s (s.final i tag crc r) :=
  ((OnlySessions.say s i _).trans (.setCs _ i _)).trans (.prompt _ i)

theorem OnlySessions.sendBells (s : State) (i : Nat) : OnlySessions s (s.sendBells i) := by
  unfold State.sendBells
  dsimp only
  split
  · exact .setCs s i _
  · exact .refl s

theorem OnlySessions.lineIn (s : State) (ln : Ln) : OnlySessions s (s.lineIn ln) :=
  ⟨rfl, fun _ => List.mem_of_mem_filter⟩

theorem OnlySessions.atLine (s : State) (ln : Ln) : OnlySessions s (s.atLine ln) :=
  ((OnlySessions.tick s ln.t).trans (.lineIn _ ln)).trans (.sendBells _ ln.sess)

/-- Of the commands waiting for an answer, a line drops those its session had forwarded (log entry 102). -/
@[simp] theorem State.atLine_waits (s : State) (ln : Ln) :
    (s.atLine ln).waits = s.waits.filter fun w => w.sess ≠ ln.sess || w.holds ln.sess := by
  unfold State.atLine State.sendBells
  dsimp only
  split <;> rfl

/-! The CRC suffix (R793). -/

section Suffix
variable {s : State} {ln : Ln} (hears : (s.tick ln.t).hears ln.sess = true) (asked : (s.cs ln.sess).crc = true)
  (missing : ln.crc = false)
include hears asked missing

theorem State.judged_no_suffix (need : Level) (boot : Bool) (body : State → State) :
    s.judged ln need boot body = (s.atLine ln).final ln.sess none false (.err 117 [("line", .num ((s.cs ln.sess).lineNo + 1))]) := by
  simp [State.judged, State.atLine, hears, asked, missing]

theorem State.sessionVerb_no_suffix (body : State → State) :
    s.sessionVerb ln body = (s.atLine ln).final ln.sess none false (.err 117 [("line", .num ((s.cs ln.sess).lineNo + 1))]) := by
  simp [State.sessionVerb, State.atLine, hears, asked, missing]

theorem exec_no_suffix {c : Instr} (hl : lineOf c = some ln) :
    exec c s = .next ((s.atLine ln).final ln.sess none false (.err 117 [("line", .num ((s.cs ln.sess).lineNo + 1))])) := by
  cases hv : isSessionVerb c with
  | true =>
    obtain ⟨body, e⟩ := exec_of_sessionVerb hl hv s
    rw [e, State.sessionVerb_no_suffix hears asked missing]
  | false =>
    obtain ⟨body, e⟩ := exec_of_not_sessionVerb hl hv s
    rw [e, State.judged_no_suffix hears asked missing]

end Suffix

/-! Login, privilege, bring-up and the wafer that a line names, for a line that has passed the suffix check. -/

theorem State.acceptsVerb.suffix_not_missing {s : State} {ln : Ln} (h : s.acceptsVerb ln) :
    ((s.cs ln.sess).crc && !ln.crc) = false := by
  obtain ⟨-, given⟩ := h
  cases e : (s.cs ln.sess).crc with
  | true => simp [given e]
  | false => rfl

section Verdicts
variable {s : State} {ln : Ln} {need : Level} {boot : Bool} (body : State → State) (heard : s.acceptsVerb ln)
include heard

theorem State.judged_no_login (out : ∀ user lvl, (s.cs ln.sess).login ≠ .loggedIn user lvl) :
    s.judged ln need boot body = (s.atLine ln).err ln 301 [] := by
  cases e : (s.cs ln.sess).login with
  | loggedIn user lvl => exact absurd e (out user lvl)
  | _ => simp [State.judged, State.atLine, heard.1, heard.suffix_not_missing, e]

variable {user : List Byte} {lvl : Level} (login : (s.cs ln.sess).login = .loggedIn user lvl)
include login

theorem State.judged_underprivileged (below : levelRank lvl < levelRank need) :
    s.judged ln need boot body = (s.atLine ln).err ln 302 [("need", .word (levelWord need))] := by
  simp [State.judged, State.atLine, heard.1, heard.suffix_not_missing, login, below]

variable (enough : levelRank need ≤ levelRank lvl)
include enough

theorem State.judged_in_bringUp (notReady : s.boot.phase ≠ .ready) (notTaken : boot = false) :
    s.judged ln need boot body = (s.atLine ln).err ln 201 [("phase", .word (phaseWord s.boot.phase))] := by
  simp [State.judged, State.atLine, heard.1, heard.suffix_not_missing, login, Nat.not_lt.mpr enough, notReady, notTaken]

variable (admitted : s.boot.phase = .ready ∨ boot = true) {w : Nat} (named : ln.wafer = some w) (other : w ≠ s.me)
include admitted named other

theorem State.judged_other_wafer :
    s.judged ln need boot body =
      if w ∈ s.flockMembers then
        ({ s.atLine ln with wire := s.wire ++ [Wire.forward w ln.sess user lvl] }).await ln (.member w)
      else (s.atLine ln).err ln 603 [("wafer", .num w)] := by
  have phase : ¬(s.boot.phase ≠ .ready ∧ boot = false) := by
    rintro ⟨notReady, notTaken⟩
    simp [notReady, notTaken] at admitted
  have notMe : ¬w = s.place.wafer := other
  simp [State.judged, State.atLine, State.me, heard.1, heard.suffix_not_missing, login, Nat.not_lt.mpr enough, phase, named,
    notMe]

end Verdicts

/-! What a command that stops at one of these steps leaves behind. -/

/-- A refused line is answered and changes sessions alone. -/
theorem exec_refused {c : Instr} {ln : Ln} {s : State} {code : Nat} {kv : KVs} (hl : lineOf c = some ln)
    (hv : isSessionVerb c = false) (hears : (s.tick ln.t).hears ln.sess = true)
    (verdict : ∀ body, s.judged ln (levelOf s c) (takenInBringUp c) body = (s.atLine ln).err ln code kv) :
    ∃ u, exec c s = .next u ∧ OnlySessions s u ∧ Answers s u ln (.err code kv) := by
  obtain ⟨body, e⟩ := exec_of_not_sessionVerb hl hv s
  exact ⟨_, e.trans (congrArg _ (verdict body)), (OnlySessions.atLine s ln).trans (.final _ _ _ _ _),
    Answers.err (Speaks.atLine hears) code kv⟩

/-- Settles O59. A session verb is judged by `sessionVerb` and every other command by `judged`, and both judge the suffix in the
same way; a session without a login stops every other command at the next step. -/
theorem linesNeedTheirSuffixAndALogin : Obligations.LinesNeedTheirSuffixAndALogin := by
  refine ⟨fun c ln s hl hears asked missing => ?_, fun c ln s hl hv hears suffix out => ?_⟩
  · exact ⟨_, exec_no_suffix hears asked missing hl, (OnlySessions.atLine s ln).trans (.final _ _ _ _ _),
      Answers.final (ln := { ln with tag := none, crc := false }) (Speaks.atLine hears) _⟩
  · exact exec_refused hl hv hears fun body => State.judged_no_login body ⟨hears, suffix⟩ out

/-! What holds of O60: the refusals of R818 and of a line for no member in full, and of a forwarded line all but which commands wait. -/

section Privilege
variable {c : Instr} {ln : Ln} {user : List Byte} {lvl : Level} {s : State} (hl : lineOf c = some ln)
  (hv : isSessionVerb c = false) (heard : s.acceptsVerb ln) (login : (s.cs ln.sess).login = .loggedIn user lvl)
include hl hv heard login

theorem exec_underprivileged (below : levelRank lvl < levelRank (levelOf s c)) :
    ∃ u, exec c s = .next u ∧ OnlySessions s u ∧ Answers s u ln (.err 302 [("need", .word (levelWord (levelOf s c)))]) :=
  exec_refused hl hv heard.1 fun body => State.judged_underprivileged body heard login below

variable (enough : levelRank (levelOf s c) ≤ levelRank lvl)
include enough

theorem exec_in_bringUp (notReady : s.boot.phase ≠ .ready) (notTaken : takenInBringUp c = false) :
    ∃ u, exec c s = .next u ∧ OnlySessions s u ∧ Answers s u ln (.err 201 [("phase", .word (phaseWord s.boot.phase))]) :=
  exec_refused hl hv heard.1 fun body => State.judged_in_bringUp body heard login enough notReady notTaken

variable (admitted : s.boot.phase = .ready ∨ takenInBringUp c = true) {w : Nat} (named : ln.wafer = some w)
  (other : w ≠ s.me)
include admitted named other

theorem exec_nonmember (absent : w ∉ s.flockMembers) :
    ∃ u, exec c s = .next u ∧ OnlySessions s u ∧ Answers s u ln (.err 603 [("wafer", .num w)]) :=
  exec_refused hl hv heard.1 fun body => by
    rw [State.judged_other_wafer body heard login enough admitted named other, if_neg absent]

/-- A forwarded line waits for its member; an earlier line of its session that waits for one does so no longer. -/
theorem exec_forwarded (member : w ∈ s.flockMembers) :
    ∃ u, exec c s = .next u ∧ OnlyConsole s u ∧ u.wire = s.wire ++ [.forward w ln.sess user lvl]
      ∧ u.waits = (s.waits.filter fun x => x.sess ≠ ln.sess || x.holds ln.sess) ++ [⟨ln.sess, ln.tag, ln.crc, .member w⟩] := by
  obtain ⟨body, e⟩ := exec_of_not_sessionVerb hl hv s
  rw [State.judged_other_wafer body heard login enough admitted named other, if_pos member] at e
  obtain ⟨only, -⟩ := OnlySessions.atLine s ln
  exact ⟨_, e, by rw [only]; rfl, rfl, by simp [State.await]⟩

end Privilege

/-- `show boot` of CON0 for member 1 of the flock. -/
def bootOfMemberOne : Ln := ⟨0, none, false, some 1, true, 0⟩

/-- Wafer 0 of a flock of two, READY, a viewer on CON0 whose line for member 1 waits for its reply. -/
def awaitingMemberOne : State :=
  { State.reset with
    resetN := false
    active := some 0
    boot := { Boot.initial with phase := .ready, consoles := true }
    sess := { CSess.initial true with up := true, login := .loggedIn [] .view } :: freshSessions.drop 1
    flockMembers := [0, 1]
    waits := [⟨0, none, false, .member 1⟩] }

/-- Refutes O60: its last clause adds a forwarded line to the commands that wait before it, but where an earlier forwarded line
of the same session still waits, that one is dropped as the new line arrives (log entry 102). -/
theorem not_privilegeIsJudgedBeforeBringUp : ¬ Obligations.PrivilegeIsJudgedBeforeBringUp := by
  rintro ⟨-, -, forwarding⟩
  have heard : awaitingMemberOne.acceptsVerb bootOfMemberOne := ⟨rfl, by decide⟩
  obtain ⟨u, eu, -, claimed⟩ := forwarding (.showBoot bootOfMemberOne) bootOfMemberOne [] .view 1 awaitingMemberOne rfl rfl heard.1
    heard.2 rfl (Nat.le_refl _) (.inl rfl) rfl (by decide)
  obtain ⟨v, ev, -, -, kept⟩ := exec_forwarded (c := .showBoot bootOfMemberOne) (w := 1) rfl rfl heard rfl (Nat.le_refl _) (.inl rfl) rfl
    (by decide) (by decide)
  rw [eu, Host.Outcome.next.injEq] at ev
  subst ev
  rw [if_pos (by decide)] at claimed
  obtain ⟨-, claimed⟩ := claimed
  have lengths := congrArg List.length (claimed.symm.trans kept)
  exact absurd lengths (by decide)

end Sys2Proof.Machine

/-! The frames: what each command leaves as it was (Laws/ has a lemma for each), gathered into one statement for each part of the
state, and the obligations that follow from them. -/
namespace Sys2Proof.Machine

open Sys2Proof

/-- The commands that write to what `State.core` holds: resets, power failure and the fuses. -/
def actsOnCore : Instr → Bool
  | .resetAssert _ | .resetRelease _ _ | .pwrFailAssert _ | .pwrFailFlashFreeze _ | .pwrFailDeassert _ | .resetEngine _ _
  | .raiseSvn _ | .railsFall _ => true
  | _ => false

/-- The core of `u` is that of `s` at some moment, where a flash write may have been cut off. -/
def CoreAtSomeMoment (s u : State) : Prop := ∃ t, u.core = (s.tick t).core ∨ u.core = (s.tick t).cutFlash.core

theorem atSomeMoment {r : Host.Outcome State Fault Refusal} {s : State} {t : Time}
    (h : ∃ next, r = .next next ∧ next.core = (s.tick t).core) : ∃ u, r = .next u ∧ CoreAtSomeMoment s u :=
  h.imp fun _ ⟨e, k⟩ => ⟨e, t, .inl k⟩

theorem atSomeMoment_cut {r : Host.Outcome State Fault Refusal} {s : State} {t : Time}
    (h : ∃ next, r = .next next ∧ (next.core = (s.tick t).core ∨ next.core = (s.tick t).cutFlash.core)) :
    ∃ u, r = .next u ∧ CoreAtSomeMoment s u :=
  h.imp fun _ ⟨e, k⟩ => ⟨e, t, k⟩

theorem exec_core (c : Instr) (h : actsOnCore c = false) (s : State) : ∃ u, exec c s = .next u ∧ CoreAtSomeMoment s u := by
  cases c
  case resetAssert | resetRelease | pwrFailAssert | pwrFailFlashFreeze | pwrFailDeassert | resetEngine | raiseSvn | railsFall => cases h
  case pwrFailNedStop => exact atSomeMoment (execPwrFailNedStop_core ..)
  case busSample => exact atSomeMoment (execBusSample_core ..)
  case railDeparture => exact atSomeMoment (execRailDeparture_core ..)
  case vcoreRecoveryVerdict => exact atSomeMoment (execVcoreRecoveryVerdict_core ..)
  case railStep => exact atSomeMoment (execRailStep_core ..)
  case powerWaveStart => exact atSomeMoment (execPowerWaveStart_core ..)
  case softStartComplete => exact atSomeMoment (execSoftStartComplete_core ..)
  case efuseTrip => exact atSomeMoment (execEfuseTrip_core ..)
  case efuseRetry => exact atSomeMoment (execEfuseRetry_core ..)
  case efuseRetryVerdict => exact atSomeMoment (execEfuseRetryVerdict_core ..)
  case fieldStageShutdown => exact atSomeMoment (execFieldStageShutdown_core ..)
  case fieldRetry => exact atSomeMoment (execFieldRetry_core ..)
  case fieldRetryVerdict => exact atSomeMoment (execFieldRetryVerdict_core ..)
  case pmbAlert => exact atSomeMoment (execPmbAlert_core ..)
  case telemetryRead => exact atSomeMoment (execTelemetryRead_core ..)
  case pmbusRetryPoll => exact atSomeMoment (execPmbusRetryPoll_core ..)
  case clockStep => exact atSomeMoment (execClockStep_core ..)
  case islandClockLoss => exact atSomeMoment (execIslandClockLoss_core ..)
  case clockRelockVerdict => exact atSomeMoment (execClockRelockVerdict_core ..)
  case ringLoss => exact atSomeMoment (execRingLoss_core ..)
  case ringRelockVerdict => exact atSomeMoment (execRingRelockVerdict_core ..)
  case meshLock => exact atSomeMoment (execMeshLock_core ..)
  case referenceAbsent => exact atSomeMoment (execReferenceAbsent_core ..)
  case referenceAbsentLong => exact atSomeMoment (execReferenceAbsentLong_core ..)
  case referenceReturn => exact atSomeMoment (execReferenceReturn_core ..)
  case sensorSample => exact atSomeMoment_cut (execSensorSample_core ..)
  case throttleEval => exact atSomeMoment (execThrottleEval_core ..)
  case thermalTripRetry => exact atSomeMoment (execThermalTripRetry_core ..)
  case thermalRetryVerdict => exact atSomeMoment (execThermalRetryVerdict_core ..)
  case loopCheck => exact atSomeMoment (execLoopCheck_core ..)
  case linkBeatSend => exact atSomeMoment (execLinkBeatSend_core ..)
  case beatReceived => exact atSomeMoment (execBeatReceived_core ..)
  case replayTimeout => exact atSomeMoment (execReplayTimeout_core ..)
  case replayDownTimeout => exact atSomeMoment (execReplayDownTimeout_core ..)
  case receiverSilence => exact atSomeMoment (execReceiverSilence_core ..)
  case lane0Precompile => exact atSomeMoment (execLane0Precompile_core ..)
  case dockTransfer => exact atSomeMoment (execDockTransfer_core ..)
  case fineIssueCycle => exact atSomeMoment (execFineIssueCycle_core ..)
  case watchdogExpiry => exact atSomeMoment (execWatchdogExpiry_core ..)
  case contextLeavePlan => exact atSomeMoment (execContextLeavePlan_core ..)
  case coarseIssueCycle => exact atSomeMoment (execCoarseIssueCycle_core ..)
  case eccRereadVerdict => exact atSomeMoment (execEccRereadVerdict_core ..)
  case residueVerdict => exact atSomeMoment (execResidueVerdict_core ..)
  case hbmxReturn => exact atSomeMoment (execHbmxReturn_core ..)
  case memReqReceived => exact atSomeMoment (execMemReqReceived_core ..)
  case hbmBurstRead => exact atSomeMoment (execHbmBurstRead_core ..)
  case hbmRereadVerdict => exact atSomeMoment (execHbmRereadVerdict_core ..)
  case stackTempRead => exact atSomeMoment (execStackTempRead_core ..)
  case pageScrub => exact atSomeMoment (execPageScrub_core ..)
  case rotationSlot => exact atSomeMoment (execRotationSlot_core ..)
  case medDoubt => exact atSomeMoment (execMedDoubt_core ..)
  case spanBlockSend => exact atSomeMoment (execSpanBlockSend_core ..)
  case spanBlockReceived => exact atSomeMoment (execSpanBlockReceived_core ..)
  case spanReplayTimeout => exact atSomeMoment (execSpanReplayTimeout_core ..)
  case spanDownTimeout => exact atSomeMoment (execSpanDownTimeout_core ..)
  case spanRxSilence => exact atSomeMoment (execSpanRxSilence_core ..)
  case trainBlockReceived => exact atSomeMoment (execTrainBlockReceived_core ..)
  case trainingTimeout => exact atSomeMoment (execTrainingTimeout_core ..)
  case trainRefuseExpiry => exact atSomeMoment (execTrainRefuseExpiry_core ..)
  case flockFormation => exact atSomeMoment (execFlockFormation_core ..)
  case memberExcluded => exact atSomeMoment (execMemberExcluded_core ..)
  case spdDoubt => exact atSomeMoment (execSpdDoubt_core ..)
  case admission => exact atSomeMoment (execAdmission_core ..)
  case groupVerdict => exact atSomeMoment (execGroupVerdict_core ..)
  case fcsVerdict => exact atSomeMoment (execFcsVerdict_core ..)
  case frameTail => exact atSomeMoment (execFrameTail_core ..)
  case speculationAbort => exact atSomeMoment (execSpeculationAbort_core ..)
  case resultArrival => exact atSomeMoment (execResultArrival_core ..)
  case replyStart => exact atSomeMoment (execReplyStart_core ..)
  case ptpEvent => exact atSomeMoment (execPtpEvent_core ..)
  case rsFault => exact atSomeMoment (execRsFault_core ..)
  case nedDoubt => exact atSomeMoment (execNedDoubt_core ..)
  case portDrainComplete => exact atSomeMoment (execPortDrainComplete_core ..)
  case portDrainExpiry => exact atSomeMoment (execPortDrainExpiry_core ..)
  case portSettingsApplied => exact atSomeMoment (execPortSettingsApplied_core ..)
  case penRelease => exact atSomeMoment (execPenRelease_core ..)
  case penDeadlineExpiry => exact atSomeMoment (execPenDeadlineExpiry_core ..)
  case burstToken => exact atSomeMoment (execBurstToken_core ..)
  case inFlightLimit => exact atSomeMoment (execInFlightLimit_core ..)
  case strayRefusal => exact atSomeMoment (execStrayRefusal_core ..)
  case nedBellwether => exact atSomeMoment (execNedBellwether_core ..)
  case keepaliveLoss => exact atSomeMoment (execKeepaliveLoss_core ..)
  case loadStart => exact atSomeMoment (execLoadStart_core ..)
  case loadDrainComplete => exact atSomeMoment (execLoadDrainComplete_core ..)
  case loadDrainExpiry => exact atSomeMoment (execLoadDrainExpiry_core ..)
  case loadDecryptComplete => exact atSomeMoment (execLoadDecryptComplete_core ..)
  case commitConfirmed => exact atSomeMoment (execCommitConfirmed_core ..)
  case contextStage => exact atSomeMoment (execContextStage_core ..)
  case stageWaitExpiry => exact atSomeMoment (execStageWaitExpiry_core ..)
  case standbyConfirmed => exact atSomeMoment (execStandbyConfirmed_core ..)
  case bellwetherArrival => exact atSomeMoment (execBellwetherArrival_core ..)
  case switchLimitExpiry => exact atSomeMoment (execSwitchLimitExpiry_core ..)
  case transitionStart => exact atSomeMoment (execTransitionStart_core ..)
  case shearComplete => exact atSomeMoment (execShearComplete_core ..)
  case musterComplete => exact atSomeMoment (execMusterComplete_core ..)
  case musterTimeout => exact atSomeMoment (execMusterTimeout_core ..)
  case checkpointDue => exact atSomeMoment (execCheckpointDue_core ..)
  case checkpointWriteDone => exact atSomeMoment (execCheckpointWriteDone_core ..)
  case releaseDrainExpiry => exact atSomeMoment (execReleaseDrainExpiry_core ..)
  case scrubRecord => exact atSomeMoment (execScrubRecord_core ..)
  case sessionCloseComplete => exact atSomeMoment (execSessionCloseComplete_core ..)
  case reportReceived => exact atSomeMoment (execReportReceived_core ..)
  case reportResend => exact atSomeMoment (execReportResend_core ..)
  case doubtNoticeNed => exact atSomeMoment (execDoubtNoticeNed_core ..)
  case doubtNoticePaddock => exact atSomeMoment (execDoubtNoticePaddock_core ..)
  case checkpointRestoreComplete => exact atSomeMoment (execCheckpointRestoreComplete_core ..)
  case relocRecordWritten => exact atSomeMoment (execRelocRecordWritten_core ..)
  case keepaliveSend => exact atSomeMoment (execKeepaliveSend_core ..)
  case heartbeatSend => exact atSomeMoment (execHeartbeatSend_core ..)
  case heartbeatReceive => exact atSomeMoment (execHeartbeatReceive_core ..)
  case heartbeatMiss => exact atSomeMoment (execHeartbeatMiss_core ..)
  case probeTimeout => exact atSomeMoment_cut (execProbeTimeout_core ..)
  case selfDoubtHandover => exact atSomeMoment_cut (execSelfDoubtHandover_core ..)
  case selectionQuietExpiry => exact atSomeMoment (execSelectionQuietExpiry_core ..)
  case mirrorAckTimeout => exact atSomeMoment (execMirrorAckTimeout_core ..)
  case mirrorProbeTimeout => exact atSomeMoment (execMirrorProbeTimeout_core ..)
  case readyRefresh => exact atSomeMoment (execReadyRefresh_core ..)
  case readyLatchExpiry => exact atSomeMoment (execReadyLatchExpiry_core ..)
  case firmwareVerified => exact atSomeMoment (execFirmwareVerified_core ..)
  case stagesSettled => exact atSomeMoment (execStagesSettled_core ..)
  case edgeDieTestComplete => exact atSomeMoment (execEdgeDieTestComplete_core ..)
  case referenceWaitTimeout => exact atSomeMoment (execReferenceWaitTimeout_core ..)
  case aonRailsInWindow => exact atSomeMoment (execAonRailsInWindow_core ..)
  case coreRailGroup => exact atSomeMoment (execCoreRailGroup_core ..)
  case ringWaveAdvance => exact atSomeMoment (execRingWaveAdvance_core ..)
  case paddockTestComplete => exact atSomeMoment (execPaddockTestComplete_core ..)
  case borderTestComplete => exact atSomeMoment (execBorderTestComplete_core ..)
  case sweep => exact atSomeMoment (execSweep_core ..)
  case bootMapAndReady => exact atSomeMoment (execBootMapAndReady_core ..)
  case consoleBreak => exact atSomeMoment (execConsoleBreak_core ..)
  case ctsChange => exact atSomeMoment (execCtsChange_core ..)
  case tcpConnect => exact atSomeMoment (execTcpConnect_core ..)
  case mgmtPacket => exact atSomeMoment (execMgmtPacket_core ..)
  case arpAnnounce => exact atSomeMoment (execArpAnnounce_core ..)
  case recoveryImageReceived => exact atSomeMoment (execRecoveryImageReceived_core ..)
  case backupRejoin => exact atSomeMoment (execBackupRejoin_core ..)
  case backupRejoinTimeout => exact atSomeMoment (execBackupRejoinTimeout_core ..)
  case idleTimeout => exact atSomeMoment (execIdleTimeout_core ..)
  case challengeExpiry => exact atSomeMoment (execChallengeExpiry_core ..)
  case loginLockExpiry => exact atSomeMoment (execLoginLockExpiry_core ..)
  case bellsLostNotice => exact atSomeMoment (execBellsLostNotice_core ..)
  case ledgerIntervalEnd => exact atSomeMoment (execLedgerIntervalEnd_core ..)
  case ledgerRingRetry => exact atSomeMoment (execLedgerRingRetry_core ..)
  case leaseSecond => exact atSomeMoment (execLeaseSecond_core ..)
  case ptpSilence => exact atSomeMoment (execPtpSilence_core ..)
  case loginRequest => exact atSomeMoment (execLoginRequest_core ..)
  case loginResponse => exact atSomeMoment (execLoginResponse_core ..)
  case logout => exact atSomeMoment (execLogout_core ..)
  case ping => exact atSomeMoment (execPing_core ..)
  case mode => exact atSomeMoment (execMode_core ..)
  case showEngine => exact atSomeMoment (execShowEngine_core ..)
  case showBoot => exact atSomeMoment (execShowBoot_core ..)
  case showShc => exact atSomeMoment (execShowShc_core ..)
  case setBoot => exact atSomeMoment (execSetBoot_core ..)
  case setClear => exact atSomeMoment (execSetClear_core ..)
  case ackFault => exact atSomeMoment (execAckFault_core ..)
  case handoverShc => exact atSomeMoment (execHandoverShc_core ..)
  case restoreDie => exact atSomeMoment (execRestoreDie_core ..)
  case setConsole => exact atSomeMoment (execSetConsole_core ..)
  case setNet => exact atSomeMoment (execSetNet_core ..)
  case openStage => exact atSomeMoment (execOpenStage_core ..)
  case putStage => exact atSomeMoment (execPutStage_core ..)
  case showStage => exact atSomeMoment (execShowStage_core ..)
  case dropStage => exact atSomeMoment (execDropStage_core ..)
  case updateFirmware => exact atSomeMoment (execUpdateFirmware_core ..)
  case showPower => exact atSomeMoment (execShowPower_core ..)
  case setBus => exact atSomeMoment (execSetBus_core ..)
  case setRail => exact atSomeMoment (execSetRail_core ..)
  case setClock => exact atSomeMoment (execSetClock_core ..)
  case setPower => exact atSomeMoment (execSetPower_core ..)
  case clearField => exact atSomeMoment (execClearField_core ..)
  case showThermal => exact atSomeMoment (execShowThermal_core ..)
  case showSensors => exact atSomeMoment (execShowSensors_core ..)
  case showMap => exact atSomeMoment (execShowMap_core ..)
  case exportMap => exact atSomeMoment (execExportMap_core ..)
  case setReserve => exact atSomeMoment (execSetReserve_core ..)
  case setExclude => exact atSomeMoment (execSetExclude_core ..)
  case showPort => exact atSomeMoment (execShowPort_core ..)
  case setLanes => exact atSomeMoment (execSetLanes_core ..)
  case setPort => exact atSomeMoment (execSetPort_core ..)
  case enablePort => exact atSomeMoment (execEnablePort_core ..)
  case disablePort => exact atSomeMoment (execDisablePort_core ..)
  case setTemplate => exact atSomeMoment (execSetTemplate_core ..)
  case setBurst => exact atSomeMoment (execSetBurst_core ..)
  case setPtp => exact atSomeMoment (execSetPtp_core ..)
  case showLink => exact atSomeMoment (execShowLink_core ..)
  case showSpan => exact atSomeMoment (execShowSpan_core ..)
  case restoreLane => exact atSomeMoment (execRestoreLane_core ..)
  case retrainSpan => exact atSomeMoment (execRetrainSpan_core ..)
  case showFlock => exact atSomeMoment (execShowFlock_core ..)
  case setFlock => exact atSomeMoment (execSetFlock_core ..)
  case createFold => exact atSomeMoment (execCreateFold_core ..)
  case resizeFold => exact atSomeMoment (execResizeFold_core ..)
  case loadFold => exact atSomeMoment (execLoadFold_core ..)
  case destroyFold => exact atSomeMoment (execDestroyFold_core ..)
  case setFold => exact atSomeMoment (execSetFold_core ..)
  case setRotation => exact atSomeMoment (execSetRotation_core ..)
  case showFold => exact atSomeMoment (execShowFold_core ..)
  case showFolds => exact atSomeMoment (execShowFolds_core ..)
  case createChannel => exact atSomeMoment (execCreateChannel_core ..)
  case bindChannel => exact atSomeMoment (execBindChannel_core ..)
  case unbindChannel => exact atSomeMoment (execUnbindChannel_core ..)
  case destroyChannel => exact atSomeMoment (execDestroyChannel_core ..)
  case showChannel => exact atSomeMoment (execShowChannel_core ..)
  case setBucket => exact atSomeMoment (execSetBucket_core ..)
  case showBucket => exact atSomeMoment (execShowBucket_core ..)
  case openSession => exact atSomeMoment (execOpenSession_core ..)
  case closeSession => exact atSomeMoment (execCloseSession_core ..)
  case showSession => exact atSomeMoment (execShowSession_core ..)
  case showTally => exact atSomeMoment (execShowTally_core ..)
  case showBells => exact atSomeMoment (execShowBells_core ..)
  case showLedger => exact atSomeMoment (execShowLedger_core ..)
  case verifyLedger => exact atSomeMoment (execVerifyLedger_core ..)
  case showKeys => exact atSomeMoment (execShowKeys_core ..)
  case exportKey => exact atSomeMoment (execExportKey_core ..)
  case addUser => exact atSomeMoment (execAddUser_core ..)
  case removeUser => exact atSomeMoment (execRemoveUser_core ..)
  case showUsers => exact atSomeMoment (execShowUsers_core ..)
  case peek => exact atSomeMoment (execPeek_core ..)
  case poke => exact atSomeMoment (execPoke_core ..)
  case shcFaultackWrite => exact atSomeMoment (execShcFaultackWrite_core ..)
  case pcbSatClear => exact atSomeMoment (execPcbSatClear_core ..)
  case nedWselWrite => exact atSomeMoment (execNedWselWrite_core ..)
  case shcAlertcauseRead => exact atSomeMoment (execShcAlertcauseRead_core ..)
  case badLine => exact atSomeMoment (execBadLine_core ..)
  case consoleCharacter => exact atSomeMoment (execConsoleCharacter_core ..)
  case tcpClose => exact atSomeMoment (execTcpClose_core ..)
  case rsFaultCleared => exact atSomeMoment (execRsFaultCleared_core ..)

/-- Every command completes and keeps what `Keeps` names: those that act on the core have a lemma each. -/
theorem exec_keeps (c : Instr) (s : State) : ∃ u, exec c s = .next u ∧ Keeps s u := by
  cases h : actsOnCore c with
  | false => exact (exec_core c h s).imp fun u ⟨e, t, k⟩ => ⟨e, Keeps.of_cut k⟩
  | true =>
    cases c
    case resetAssert => exact execResetAssert_keeps ..
    case resetRelease => exact execResetRelease_keeps ..
    case pwrFailAssert => exact execPwrFailAssert_keeps ..
    case pwrFailFlashFreeze => exact execPwrFailFlashFreeze_keeps ..
    case pwrFailDeassert => exact execPwrFailDeassert_keeps ..
    case resetEngine => exact execResetEngine_keeps ..
    case raiseSvn => exact execRaiseSvn_keeps ..
    case railsFall => exact execRailsFall_keeps ..
    all_goals cases h

theorem exec_cfg (c : Instr) (h : storesSetting c = false) (s : State) : ∃ u, exec c s = .next u ∧ u.cfg = s.cfg := by
  cases c
  case setBoot | setConsole | setNet | setPort | setFlock | addUser | removeUser => cases h
  case resetAssert => exact execResetAssert_cfg ..
  case resetRelease => exact execResetRelease_cfg ..
  case pwrFailAssert => exact execPwrFailAssert_cfg ..
  case pwrFailNedStop => exact execPwrFailNedStop_cfg ..
  case pwrFailFlashFreeze => exact execPwrFailFlashFreeze_cfg ..
  case pwrFailDeassert => exact execPwrFailDeassert_cfg ..
  case busSample => exact execBusSample_cfg ..
  case railDeparture => exact execRailDeparture_cfg ..
  case vcoreRecoveryVerdict => exact execVcoreRecoveryVerdict_cfg ..
  case railStep => exact execRailStep_cfg ..
  case powerWaveStart => exact execPowerWaveStart_cfg ..
  case softStartComplete => exact execSoftStartComplete_cfg ..
  case efuseTrip => exact execEfuseTrip_cfg ..
  case efuseRetry => exact execEfuseRetry_cfg ..
  case efuseRetryVerdict => exact execEfuseRetryVerdict_cfg ..
  case fieldStageShutdown => exact execFieldStageShutdown_cfg ..
  case fieldRetry => exact execFieldRetry_cfg ..
  case fieldRetryVerdict => exact execFieldRetryVerdict_cfg ..
  case pmbAlert => exact execPmbAlert_cfg ..
  case telemetryRead => exact execTelemetryRead_cfg ..
  case pmbusRetryPoll => exact execPmbusRetryPoll_cfg ..
  case clockStep => exact execClockStep_cfg ..
  case islandClockLoss => exact execIslandClockLoss_cfg ..
  case clockRelockVerdict => exact execClockRelockVerdict_cfg ..
  case ringLoss => exact execRingLoss_cfg ..
  case ringRelockVerdict => exact execRingRelockVerdict_cfg ..
  case meshLock => exact execMeshLock_cfg ..
  case referenceAbsent => exact execReferenceAbsent_cfg ..
  case referenceAbsentLong => exact execReferenceAbsentLong_cfg ..
  case referenceReturn => exact execReferenceReturn_cfg ..
  case sensorSample => exact execSensorSample_cfg ..
  case throttleEval => exact execThrottleEval_cfg ..
  case thermalTripRetry => exact execThermalTripRetry_cfg ..
  case thermalRetryVerdict => exact execThermalRetryVerdict_cfg ..
  case loopCheck => exact execLoopCheck_cfg ..
  case linkBeatSend => exact execLinkBeatSend_cfg ..
  case beatReceived => exact execBeatReceived_cfg ..
  case replayTimeout => exact execReplayTimeout_cfg ..
  case replayDownTimeout => exact execReplayDownTimeout_cfg ..
  case receiverSilence => exact execReceiverSilence_cfg ..
  case lane0Precompile => exact execLane0Precompile_cfg ..
  case dockTransfer => exact execDockTransfer_cfg ..
  case fineIssueCycle => exact execFineIssueCycle_cfg ..
  case watchdogExpiry => exact execWatchdogExpiry_cfg ..
  case contextLeavePlan => exact execContextLeavePlan_cfg ..
  case coarseIssueCycle => exact execCoarseIssueCycle_cfg ..
  case eccRereadVerdict => exact execEccRereadVerdict_cfg ..
  case residueVerdict => exact execResidueVerdict_cfg ..
  case hbmxReturn => exact execHbmxReturn_cfg ..
  case memReqReceived => exact execMemReqReceived_cfg ..
  case hbmBurstRead => exact execHbmBurstRead_cfg ..
  case hbmRereadVerdict => exact execHbmRereadVerdict_cfg ..
  case stackTempRead => exact execStackTempRead_cfg ..
  case pageScrub => exact execPageScrub_cfg ..
  case rotationSlot => exact execRotationSlot_cfg ..
  case medDoubt => exact execMedDoubt_cfg ..
  case spanBlockSend => exact execSpanBlockSend_cfg ..
  case spanBlockReceived => exact execSpanBlockReceived_cfg ..
  case spanReplayTimeout => exact execSpanReplayTimeout_cfg ..
  case spanDownTimeout => exact execSpanDownTimeout_cfg ..
  case spanRxSilence => exact execSpanRxSilence_cfg ..
  case trainBlockReceived => exact execTrainBlockReceived_cfg ..
  case trainingTimeout => exact execTrainingTimeout_cfg ..
  case trainRefuseExpiry => exact execTrainRefuseExpiry_cfg ..
  case flockFormation => exact execFlockFormation_cfg ..
  case memberExcluded => exact execMemberExcluded_cfg ..
  case spdDoubt => exact execSpdDoubt_cfg ..
  case admission => exact execAdmission_cfg ..
  case groupVerdict => exact execGroupVerdict_cfg ..
  case fcsVerdict => exact execFcsVerdict_cfg ..
  case frameTail => exact execFrameTail_cfg ..
  case speculationAbort => exact execSpeculationAbort_cfg ..
  case resultArrival => exact execResultArrival_cfg ..
  case replyStart => exact execReplyStart_cfg ..
  case ptpEvent => exact execPtpEvent_cfg ..
  case rsFault => exact execRsFault_cfg ..
  case nedDoubt => exact execNedDoubt_cfg ..
  case portDrainComplete => exact execPortDrainComplete_cfg ..
  case portDrainExpiry => exact execPortDrainExpiry_cfg ..
  case portSettingsApplied => exact execPortSettingsApplied_cfg ..
  case penRelease => exact execPenRelease_cfg ..
  case penDeadlineExpiry => exact execPenDeadlineExpiry_cfg ..
  case burstToken => exact execBurstToken_cfg ..
  case inFlightLimit => exact execInFlightLimit_cfg ..
  case strayRefusal => exact execStrayRefusal_cfg ..
  case nedBellwether => exact execNedBellwether_cfg ..
  case keepaliveLoss => exact execKeepaliveLoss_cfg ..
  case loadStart => exact execLoadStart_cfg ..
  case loadDrainComplete => exact execLoadDrainComplete_cfg ..
  case loadDrainExpiry => exact execLoadDrainExpiry_cfg ..
  case loadDecryptComplete => exact execLoadDecryptComplete_cfg ..
  case commitConfirmed => exact execCommitConfirmed_cfg ..
  case contextStage => exact execContextStage_cfg ..
  case stageWaitExpiry => exact execStageWaitExpiry_cfg ..
  case standbyConfirmed => exact execStandbyConfirmed_cfg ..
  case bellwetherArrival => exact execBellwetherArrival_cfg ..
  case switchLimitExpiry => exact execSwitchLimitExpiry_cfg ..
  case transitionStart => exact execTransitionStart_cfg ..
  case shearComplete => exact execShearComplete_cfg ..
  case musterComplete => exact execMusterComplete_cfg ..
  case musterTimeout => exact execMusterTimeout_cfg ..
  case checkpointDue => exact execCheckpointDue_cfg ..
  case checkpointWriteDone => exact execCheckpointWriteDone_cfg ..
  case releaseDrainExpiry => exact execReleaseDrainExpiry_cfg ..
  case scrubRecord => exact execScrubRecord_cfg ..
  case sessionCloseComplete => exact execSessionCloseComplete_cfg ..
  case reportReceived => exact execReportReceived_cfg ..
  case reportResend => exact execReportResend_cfg ..
  case doubtNoticeNed => exact execDoubtNoticeNed_cfg ..
  case doubtNoticePaddock => exact execDoubtNoticePaddock_cfg ..
  case checkpointRestoreComplete => exact execCheckpointRestoreComplete_cfg ..
  case relocRecordWritten => exact execRelocRecordWritten_cfg ..
  case keepaliveSend => exact execKeepaliveSend_cfg ..
  case heartbeatSend => exact execHeartbeatSend_cfg ..
  case heartbeatReceive => exact execHeartbeatReceive_cfg ..
  case heartbeatMiss => exact execHeartbeatMiss_cfg ..
  case probeTimeout => exact execProbeTimeout_cfg ..
  case selfDoubtHandover => exact execSelfDoubtHandover_cfg ..
  case selectionQuietExpiry => exact execSelectionQuietExpiry_cfg ..
  case mirrorAckTimeout => exact execMirrorAckTimeout_cfg ..
  case mirrorProbeTimeout => exact execMirrorProbeTimeout_cfg ..
  case readyRefresh => exact execReadyRefresh_cfg ..
  case readyLatchExpiry => exact execReadyLatchExpiry_cfg ..
  case firmwareVerified => exact execFirmwareVerified_cfg ..
  case stagesSettled => exact execStagesSettled_cfg ..
  case edgeDieTestComplete => exact execEdgeDieTestComplete_cfg ..
  case referenceWaitTimeout => exact execReferenceWaitTimeout_cfg ..
  case aonRailsInWindow => exact execAonRailsInWindow_cfg ..
  case coreRailGroup => exact execCoreRailGroup_cfg ..
  case ringWaveAdvance => exact execRingWaveAdvance_cfg ..
  case paddockTestComplete => exact execPaddockTestComplete_cfg ..
  case borderTestComplete => exact execBorderTestComplete_cfg ..
  case sweep => exact execSweep_cfg ..
  case bootMapAndReady => exact execBootMapAndReady_cfg ..
  case consoleBreak => exact execConsoleBreak_cfg ..
  case ctsChange => exact execCtsChange_cfg ..
  case tcpConnect => exact execTcpConnect_cfg ..
  case mgmtPacket => exact execMgmtPacket_cfg ..
  case arpAnnounce => exact execArpAnnounce_cfg ..
  case recoveryImageReceived => exact execRecoveryImageReceived_cfg ..
  case backupRejoin => exact execBackupRejoin_cfg ..
  case backupRejoinTimeout => exact execBackupRejoinTimeout_cfg ..
  case idleTimeout => exact execIdleTimeout_cfg ..
  case challengeExpiry => exact execChallengeExpiry_cfg ..
  case loginLockExpiry => exact execLoginLockExpiry_cfg ..
  case bellsLostNotice => exact execBellsLostNotice_cfg ..
  case ledgerIntervalEnd => exact execLedgerIntervalEnd_cfg ..
  case ledgerRingRetry => exact execLedgerRingRetry_cfg ..
  case leaseSecond => exact execLeaseSecond_cfg ..
  case ptpSilence => exact execPtpSilence_cfg ..
  case loginRequest => exact execLoginRequest_cfg ..
  case loginResponse => exact execLoginResponse_cfg ..
  case logout => exact execLogout_cfg ..
  case ping => exact execPing_cfg ..
  case mode => exact execMode_cfg ..
  case showEngine => exact execShowEngine_cfg ..
  case showBoot => exact execShowBoot_cfg ..
  case showShc => exact execShowShc_cfg ..
  case setClear => exact execSetClear_cfg ..
  case resetEngine => exact execResetEngine_cfg ..
  case ackFault => exact execAckFault_cfg ..
  case handoverShc => exact execHandoverShc_cfg ..
  case restoreDie => exact execRestoreDie_cfg ..
  case openStage => exact execOpenStage_cfg ..
  case putStage => exact execPutStage_cfg ..
  case showStage => exact execShowStage_cfg ..
  case dropStage => exact execDropStage_cfg ..
  case updateFirmware => exact execUpdateFirmware_cfg ..
  case raiseSvn => exact execRaiseSvn_cfg ..
  case showPower => exact execShowPower_cfg ..
  case setBus => exact execSetBus_cfg ..
  case setRail => exact execSetRail_cfg ..
  case setClock => exact execSetClock_cfg ..
  case setPower => exact execSetPower_cfg ..
  case clearField => exact execClearField_cfg ..
  case showThermal => exact execShowThermal_cfg ..
  case showSensors => exact execShowSensors_cfg ..
  case showMap => exact execShowMap_cfg ..
  case exportMap => exact execExportMap_cfg ..
  case setReserve => exact execSetReserve_cfg ..
  case setExclude => exact execSetExclude_cfg ..
  case showPort => exact execShowPort_cfg ..
  case setLanes => exact execSetLanes_cfg ..
  case enablePort => exact execEnablePort_cfg ..
  case disablePort => exact execDisablePort_cfg ..
  case setTemplate => exact execSetTemplate_cfg ..
  case setBurst => exact execSetBurst_cfg ..
  case setPtp => exact execSetPtp_cfg ..
  case showLink => exact execShowLink_cfg ..
  case showSpan => exact execShowSpan_cfg ..
  case restoreLane => exact execRestoreLane_cfg ..
  case retrainSpan => exact execRetrainSpan_cfg ..
  case showFlock => exact execShowFlock_cfg ..
  case createFold => exact execCreateFold_cfg ..
  case resizeFold => exact execResizeFold_cfg ..
  case loadFold => exact execLoadFold_cfg ..
  case destroyFold => exact execDestroyFold_cfg ..
  case setFold => exact execSetFold_cfg ..
  case setRotation => exact execSetRotation_cfg ..
  case showFold => exact execShowFold_cfg ..
  case showFolds => exact execShowFolds_cfg ..
  case createChannel => exact execCreateChannel_cfg ..
  case bindChannel => exact execBindChannel_cfg ..
  case unbindChannel => exact execUnbindChannel_cfg ..
  case destroyChannel => exact execDestroyChannel_cfg ..
  case showChannel => exact execShowChannel_cfg ..
  case setBucket => exact execSetBucket_cfg ..
  case showBucket => exact execShowBucket_cfg ..
  case openSession => exact execOpenSession_cfg ..
  case closeSession => exact execCloseSession_cfg ..
  case showSession => exact execShowSession_cfg ..
  case showTally => exact execShowTally_cfg ..
  case showBells => exact execShowBells_cfg ..
  case showLedger => exact execShowLedger_cfg ..
  case verifyLedger => exact execVerifyLedger_cfg ..
  case showKeys => exact execShowKeys_cfg ..
  case exportKey => exact execExportKey_cfg ..
  case showUsers => exact execShowUsers_cfg ..
  case peek => exact execPeek_cfg ..
  case poke => exact execPoke_cfg ..
  case shcFaultackWrite => exact execShcFaultackWrite_cfg ..
  case pcbSatClear => exact execPcbSatClear_cfg ..
  case nedWselWrite => exact execNedWselWrite_cfg ..
  case shcAlertcauseRead => exact execShcAlertcauseRead_cfg ..
  case railsFall => exact execRailsFall_cfg ..
  case badLine => exact execBadLine_cfg ..
  case consoleCharacter => exact execConsoleCharacter_cfg ..
  case tcpClose => exact execTcpClose_cfg ..
  case rsFaultCleared => exact execRsFaultCleared_cfg ..

theorem exec_ctl (c : Instr) (h : actsOnControl c = false) (s : State) : ∃ u, exec c s = .next u ∧ u.ctl = s.ctl := by
  cases c
  case resetAssert | resetRelease | pwrFailAssert | pwrFailDeassert | softStartComplete | efuseTrip | islandClockLoss |
    meshLock | referenceAbsent | referenceReturn | sensorSample | loopCheck | flockFormation | memberExcluded | probeTimeout |
    selfDoubtHandover | selectionQuietExpiry | readyRefresh | readyLatchExpiry | firmwareVerified | stagesSettled |
    edgeDieTestComplete | referenceWaitTimeout | aonRailsInWindow | coreRailGroup | ringWaveAdvance | paddockTestComplete |
    sweep | bootMapAndReady | arpAnnounce | recoveryImageReceived | backupRejoin | backupRejoinTimeout | resetEngine |
    handoverShc | openStage | putStage | dropStage | updateFirmware | raiseSvn | setBus | loadFold | poke | shcFaultackWrite |
    pcbSatClear | nedWselWrite | railsFall => cases h
  case pwrFailNedStop => exact execPwrFailNedStop_ctl ..
  case pwrFailFlashFreeze => exact execPwrFailFlashFreeze_ctl ..
  case busSample => exact execBusSample_ctl ..
  case railDeparture => exact execRailDeparture_ctl ..
  case vcoreRecoveryVerdict => exact execVcoreRecoveryVerdict_ctl ..
  case railStep => exact execRailStep_ctl ..
  case powerWaveStart => exact execPowerWaveStart_ctl ..
  case efuseRetry => exact execEfuseRetry_ctl ..
  case efuseRetryVerdict => exact execEfuseRetryVerdict_ctl ..
  case fieldStageShutdown => exact execFieldStageShutdown_ctl ..
  case fieldRetry => exact execFieldRetry_ctl ..
  case fieldRetryVerdict => exact execFieldRetryVerdict_ctl ..
  case pmbAlert => exact execPmbAlert_ctl ..
  case telemetryRead => exact execTelemetryRead_ctl ..
  case pmbusRetryPoll => exact execPmbusRetryPoll_ctl ..
  case clockStep => exact execClockStep_ctl ..
  case clockRelockVerdict => exact execClockRelockVerdict_ctl ..
  case ringLoss => exact execRingLoss_ctl ..
  case ringRelockVerdict => exact execRingRelockVerdict_ctl ..
  case referenceAbsentLong => exact execReferenceAbsentLong_ctl ..
  case throttleEval => exact execThrottleEval_ctl ..
  case thermalTripRetry => exact execThermalTripRetry_ctl ..
  case thermalRetryVerdict => exact execThermalRetryVerdict_ctl ..
  case linkBeatSend => exact execLinkBeatSend_ctl ..
  case beatReceived => exact execBeatReceived_ctl ..
  case replayTimeout => exact execReplayTimeout_ctl ..
  case replayDownTimeout => exact execReplayDownTimeout_ctl ..
  case receiverSilence => exact execReceiverSilence_ctl ..
  case lane0Precompile => exact execLane0Precompile_ctl ..
  case dockTransfer => exact execDockTransfer_ctl ..
  case fineIssueCycle => exact execFineIssueCycle_ctl ..
  case watchdogExpiry => exact execWatchdogExpiry_ctl ..
  case contextLeavePlan => exact execContextLeavePlan_ctl ..
  case coarseIssueCycle => exact execCoarseIssueCycle_ctl ..
  case eccRereadVerdict => exact execEccRereadVerdict_ctl ..
  case residueVerdict => exact execResidueVerdict_ctl ..
  case hbmxReturn => exact execHbmxReturn_ctl ..
  case memReqReceived => exact execMemReqReceived_ctl ..
  case hbmBurstRead => exact execHbmBurstRead_ctl ..
  case hbmRereadVerdict => exact execHbmRereadVerdict_ctl ..
  case stackTempRead => exact execStackTempRead_ctl ..
  case pageScrub => exact execPageScrub_ctl ..
  case rotationSlot => exact execRotationSlot_ctl ..
  case medDoubt => exact execMedDoubt_ctl ..
  case spanBlockSend => exact execSpanBlockSend_ctl ..
  case spanBlockReceived => exact execSpanBlockReceived_ctl ..
  case spanReplayTimeout => exact execSpanReplayTimeout_ctl ..
  case spanDownTimeout => exact execSpanDownTimeout_ctl ..
  case spanRxSilence => exact execSpanRxSilence_ctl ..
  case trainBlockReceived => exact execTrainBlockReceived_ctl ..
  case trainingTimeout => exact execTrainingTimeout_ctl ..
  case trainRefuseExpiry => exact execTrainRefuseExpiry_ctl ..
  case spdDoubt => exact execSpdDoubt_ctl ..
  case admission => exact execAdmission_ctl ..
  case groupVerdict => exact execGroupVerdict_ctl ..
  case fcsVerdict => exact execFcsVerdict_ctl ..
  case frameTail => exact execFrameTail_ctl ..
  case speculationAbort => exact execSpeculationAbort_ctl ..
  case resultArrival => exact execResultArrival_ctl ..
  case replyStart => exact execReplyStart_ctl ..
  case ptpEvent => exact execPtpEvent_ctl ..
  case rsFault => exact execRsFault_ctl ..
  case nedDoubt => exact execNedDoubt_ctl ..
  case portDrainComplete => exact execPortDrainComplete_ctl ..
  case portDrainExpiry => exact execPortDrainExpiry_ctl ..
  case portSettingsApplied => exact execPortSettingsApplied_ctl ..
  case penRelease => exact execPenRelease_ctl ..
  case penDeadlineExpiry => exact execPenDeadlineExpiry_ctl ..
  case burstToken => exact execBurstToken_ctl ..
  case inFlightLimit => exact execInFlightLimit_ctl ..
  case strayRefusal => exact execStrayRefusal_ctl ..
  case nedBellwether => exact execNedBellwether_ctl ..
  case keepaliveLoss => exact execKeepaliveLoss_ctl ..
  case loadStart => exact execLoadStart_ctl ..
  case loadDrainComplete => exact execLoadDrainComplete_ctl ..
  case loadDrainExpiry => exact execLoadDrainExpiry_ctl ..
  case loadDecryptComplete => exact execLoadDecryptComplete_ctl ..
  case commitConfirmed => exact execCommitConfirmed_ctl ..
  case contextStage => exact execContextStage_ctl ..
  case stageWaitExpiry => exact execStageWaitExpiry_ctl ..
  case standbyConfirmed => exact execStandbyConfirmed_ctl ..
  case bellwetherArrival => exact execBellwetherArrival_ctl ..
  case switchLimitExpiry => exact execSwitchLimitExpiry_ctl ..
  case transitionStart => exact execTransitionStart_ctl ..
  case shearComplete => exact execShearComplete_ctl ..
  case musterComplete => exact execMusterComplete_ctl ..
  case musterTimeout => exact execMusterTimeout_ctl ..
  case checkpointDue => exact execCheckpointDue_ctl ..
  case checkpointWriteDone => exact execCheckpointWriteDone_ctl ..
  case releaseDrainExpiry => exact execReleaseDrainExpiry_ctl ..
  case scrubRecord => exact execScrubRecord_ctl ..
  case sessionCloseComplete => exact execSessionCloseComplete_ctl ..
  case reportReceived => exact execReportReceived_ctl ..
  case reportResend => exact execReportResend_ctl ..
  case doubtNoticeNed => exact execDoubtNoticeNed_ctl ..
  case doubtNoticePaddock => exact execDoubtNoticePaddock_ctl ..
  case checkpointRestoreComplete => exact execCheckpointRestoreComplete_ctl ..
  case relocRecordWritten => exact execRelocRecordWritten_ctl ..
  case keepaliveSend => exact execKeepaliveSend_ctl ..
  case heartbeatSend => exact execHeartbeatSend_ctl ..
  case heartbeatReceive => exact execHeartbeatReceive_ctl ..
  case heartbeatMiss => exact execHeartbeatMiss_ctl ..
  case mirrorAckTimeout => exact execMirrorAckTimeout_ctl ..
  case mirrorProbeTimeout => exact execMirrorProbeTimeout_ctl ..
  case borderTestComplete => exact execBorderTestComplete_ctl ..
  case consoleBreak => exact execConsoleBreak_ctl ..
  case ctsChange => exact execCtsChange_ctl ..
  case tcpConnect => exact execTcpConnect_ctl ..
  case mgmtPacket => exact execMgmtPacket_ctl ..
  case idleTimeout => exact execIdleTimeout_ctl ..
  case challengeExpiry => exact execChallengeExpiry_ctl ..
  case loginLockExpiry => exact execLoginLockExpiry_ctl ..
  case bellsLostNotice => exact execBellsLostNotice_ctl ..
  case ledgerIntervalEnd => exact execLedgerIntervalEnd_ctl ..
  case ledgerRingRetry => exact execLedgerRingRetry_ctl ..
  case leaseSecond => exact execLeaseSecond_ctl ..
  case ptpSilence => exact execPtpSilence_ctl ..
  case loginRequest => exact execLoginRequest_ctl ..
  case loginResponse => exact execLoginResponse_ctl ..
  case logout => exact execLogout_ctl ..
  case ping => exact execPing_ctl ..
  case mode => exact execMode_ctl ..
  case showEngine => exact execShowEngine_ctl ..
  case showBoot => exact execShowBoot_ctl ..
  case showShc => exact execShowShc_ctl ..
  case setBoot => exact execSetBoot_ctl ..
  case setClear => exact execSetClear_ctl ..
  case ackFault => exact execAckFault_ctl ..
  case restoreDie => exact execRestoreDie_ctl ..
  case setConsole => exact execSetConsole_ctl ..
  case setNet => exact execSetNet_ctl ..
  case showStage => exact execShowStage_ctl ..
  case showPower => exact execShowPower_ctl ..
  case setRail => exact execSetRail_ctl ..
  case setClock => exact execSetClock_ctl ..
  case setPower => exact execSetPower_ctl ..
  case clearField => exact execClearField_ctl ..
  case showThermal => exact execShowThermal_ctl ..
  case showSensors => exact execShowSensors_ctl ..
  case showMap => exact execShowMap_ctl ..
  case exportMap => exact execExportMap_ctl ..
  case setReserve => exact execSetReserve_ctl ..
  case setExclude => exact execSetExclude_ctl ..
  case showPort => exact execShowPort_ctl ..
  case setLanes => exact execSetLanes_ctl ..
  case setPort => exact execSetPort_ctl ..
  case enablePort => exact execEnablePort_ctl ..
  case disablePort => exact execDisablePort_ctl ..
  case setTemplate => exact execSetTemplate_ctl ..
  case setBurst => exact execSetBurst_ctl ..
  case setPtp => exact execSetPtp_ctl ..
  case showLink => exact execShowLink_ctl ..
  case showSpan => exact execShowSpan_ctl ..
  case restoreLane => exact execRestoreLane_ctl ..
  case retrainSpan => exact execRetrainSpan_ctl ..
  case showFlock => exact execShowFlock_ctl ..
  case setFlock => exact execSetFlock_ctl ..
  case createFold => exact execCreateFold_ctl ..
  case resizeFold => exact execResizeFold_ctl ..
  case destroyFold => exact execDestroyFold_ctl ..
  case setFold => exact execSetFold_ctl ..
  case setRotation => exact execSetRotation_ctl ..
  case showFold => exact execShowFold_ctl ..
  case showFolds => exact execShowFolds_ctl ..
  case createChannel => exact execCreateChannel_ctl ..
  case bindChannel => exact execBindChannel_ctl ..
  case unbindChannel => exact execUnbindChannel_ctl ..
  case destroyChannel => exact execDestroyChannel_ctl ..
  case showChannel => exact execShowChannel_ctl ..
  case setBucket => exact execSetBucket_ctl ..
  case showBucket => exact execShowBucket_ctl ..
  case openSession => exact execOpenSession_ctl ..
  case closeSession => exact execCloseSession_ctl ..
  case showSession => exact execShowSession_ctl ..
  case showTally => exact execShowTally_ctl ..
  case showBells => exact execShowBells_ctl ..
  case showLedger => exact execShowLedger_ctl ..
  case verifyLedger => exact execVerifyLedger_ctl ..
  case showKeys => exact execShowKeys_ctl ..
  case exportKey => exact execExportKey_ctl ..
  case addUser => exact execAddUser_ctl ..
  case removeUser => exact execRemoveUser_ctl ..
  case showUsers => exact execShowUsers_ctl ..
  case peek => exact execPeek_ctl ..
  case shcAlertcauseRead => exact execShcAlertcauseRead_ctl ..
  case badLine => exact execBadLine_ctl ..
  case consoleCharacter => exact execConsoleCharacter_ctl ..
  case tcpClose => exact execTcpClose_ctl ..
  case rsFaultCleared => exact execRsFaultCleared_ctl ..

theorem exec_fld (c : Instr) (h : actsOnFolds c = false) (s : State) : ∃ u, exec c s = .next u ∧ u.fld = s.fld := by
  cases c
  case resetAssert | pwrFailNedStop | vcoreRecoveryVerdict | softStartComplete | efuseTrip | efuseRetryVerdict |
    fieldRetryVerdict | islandClockLoss | clockRelockVerdict | ringRelockVerdict | referenceAbsentLong | sensorSample |
    throttleEval | thermalRetryVerdict | beatReceived | replayDownTimeout | receiverSilence | dockTransfer | contextLeavePlan |
    hbmxReturn | hbmBurstRead | hbmRereadVerdict | stackTempRead | pageScrub | medDoubt | spanBlockSend | spanBlockReceived |
    flockFormation | memberExcluded | spdDoubt | admission | groupVerdict | fcsVerdict | frameTail | speculationAbort |
    resultArrival | replyStart | nedDoubt | portDrainExpiry | penRelease | penDeadlineExpiry | inFlightLimit | strayRefusal |
    nedBellwether | keepaliveLoss | loadStart | loadDrainComplete | loadDrainExpiry | loadDecryptComplete | commitConfirmed |
    contextStage | stageWaitExpiry | standbyConfirmed | bellwetherArrival | switchLimitExpiry | transitionStart | shearComplete |
    musterComplete | musterTimeout | checkpointDue | checkpointWriteDone | releaseDrainExpiry | scrubRecord |
    sessionCloseComplete | reportReceived | doubtNoticeNed | doubtNoticePaddock | checkpointRestoreComplete |
    relocRecordWritten | probeTimeout | selfDoubtHandover | stagesSettled | edgeDieTestComplete | paddockTestComplete |
    borderTestComplete | sweep | bootMapAndReady | backupRejoin | ledgerIntervalEnd | leaseSecond | ptpSilence | resetEngine |
    handoverShc | setLanes | setPort | disablePort | setPtp | restoreLane | createFold | resizeFold | loadFold | destroyFold |
    setFold | createChannel | bindChannel | unbindChannel | destroyChannel | openSession | closeSession | railsFall => cases h
  case resetRelease => exact execResetRelease_fld ..
  case pwrFailAssert => exact execPwrFailAssert_fld ..
  case pwrFailFlashFreeze => exact execPwrFailFlashFreeze_fld ..
  case pwrFailDeassert => exact execPwrFailDeassert_fld ..
  case busSample => exact execBusSample_fld ..
  case railDeparture => exact execRailDeparture_fld ..
  case railStep => exact execRailStep_fld ..
  case powerWaveStart => exact execPowerWaveStart_fld ..
  case efuseRetry => exact execEfuseRetry_fld ..
  case fieldStageShutdown => exact execFieldStageShutdown_fld ..
  case fieldRetry => exact execFieldRetry_fld ..
  case pmbAlert => exact execPmbAlert_fld ..
  case telemetryRead => exact execTelemetryRead_fld ..
  case pmbusRetryPoll => exact execPmbusRetryPoll_fld ..
  case clockStep => exact execClockStep_fld ..
  case ringLoss => exact execRingLoss_fld ..
  case meshLock => exact execMeshLock_fld ..
  case referenceAbsent => exact execReferenceAbsent_fld ..
  case referenceReturn => exact execReferenceReturn_fld ..
  case thermalTripRetry => exact execThermalTripRetry_fld ..
  case loopCheck => exact execLoopCheck_fld ..
  case linkBeatSend => exact execLinkBeatSend_fld ..
  case replayTimeout => exact execReplayTimeout_fld ..
  case lane0Precompile => exact execLane0Precompile_fld ..
  case fineIssueCycle => exact execFineIssueCycle_fld ..
  case watchdogExpiry => exact execWatchdogExpiry_fld ..
  case coarseIssueCycle => exact execCoarseIssueCycle_fld ..
  case eccRereadVerdict => exact execEccRereadVerdict_fld ..
  case residueVerdict => exact execResidueVerdict_fld ..
  case memReqReceived => exact execMemReqReceived_fld ..
  case rotationSlot => exact execRotationSlot_fld ..
  case spanReplayTimeout => exact execSpanReplayTimeout_fld ..
  case spanDownTimeout => exact execSpanDownTimeout_fld ..
  case spanRxSilence => exact execSpanRxSilence_fld ..
  case trainBlockReceived => exact execTrainBlockReceived_fld ..
  case trainingTimeout => exact execTrainingTimeout_fld ..
  case trainRefuseExpiry => exact execTrainRefuseExpiry_fld ..
  case ptpEvent => exact execPtpEvent_fld ..
  case rsFault => exact execRsFault_fld ..
  case portDrainComplete => exact execPortDrainComplete_fld ..
  case portSettingsApplied => exact execPortSettingsApplied_fld ..
  case burstToken => exact execBurstToken_fld ..
  case reportResend => exact execReportResend_fld ..
  case keepaliveSend => exact execKeepaliveSend_fld ..
  case heartbeatSend => exact execHeartbeatSend_fld ..
  case heartbeatReceive => exact execHeartbeatReceive_fld ..
  case heartbeatMiss => exact execHeartbeatMiss_fld ..
  case selectionQuietExpiry => exact execSelectionQuietExpiry_fld ..
  case mirrorAckTimeout => exact execMirrorAckTimeout_fld ..
  case mirrorProbeTimeout => exact execMirrorProbeTimeout_fld ..
  case readyRefresh => exact execReadyRefresh_fld ..
  case readyLatchExpiry => exact execReadyLatchExpiry_fld ..
  case firmwareVerified => exact execFirmwareVerified_fld ..
  case referenceWaitTimeout => exact execReferenceWaitTimeout_fld ..
  case aonRailsInWindow => exact execAonRailsInWindow_fld ..
  case coreRailGroup => exact execCoreRailGroup_fld ..
  case ringWaveAdvance => exact execRingWaveAdvance_fld ..
  case consoleBreak => exact execConsoleBreak_fld ..
  case ctsChange => exact execCtsChange_fld ..
  case tcpConnect => exact execTcpConnect_fld ..
  case mgmtPacket => exact execMgmtPacket_fld ..
  case arpAnnounce => exact execArpAnnounce_fld ..
  case recoveryImageReceived => exact execRecoveryImageReceived_fld ..
  case backupRejoinTimeout => exact execBackupRejoinTimeout_fld ..
  case idleTimeout => exact execIdleTimeout_fld ..
  case challengeExpiry => exact execChallengeExpiry_fld ..
  case loginLockExpiry => exact execLoginLockExpiry_fld ..
  case bellsLostNotice => exact execBellsLostNotice_fld ..
  case ledgerRingRetry => exact execLedgerRingRetry_fld ..
  case loginRequest => exact execLoginRequest_fld ..
  case loginResponse => exact execLoginResponse_fld ..
  case logout => exact execLogout_fld ..
  case ping => exact execPing_fld ..
  case mode => exact execMode_fld ..
  case showEngine => exact execShowEngine_fld ..
  case showBoot => exact execShowBoot_fld ..
  case showShc => exact execShowShc_fld ..
  case setBoot => exact execSetBoot_fld ..
  case setClear => exact execSetClear_fld ..
  case ackFault => exact execAckFault_fld ..
  case restoreDie => exact execRestoreDie_fld ..
  case setConsole => exact execSetConsole_fld ..
  case setNet => exact execSetNet_fld ..
  case openStage => exact execOpenStage_fld ..
  case putStage => exact execPutStage_fld ..
  case showStage => exact execShowStage_fld ..
  case dropStage => exact execDropStage_fld ..
  case updateFirmware => exact execUpdateFirmware_fld ..
  case raiseSvn => exact execRaiseSvn_fld ..
  case showPower => exact execShowPower_fld ..
  case setBus => exact execSetBus_fld ..
  case setRail => exact execSetRail_fld ..
  case setClock => exact execSetClock_fld ..
  case setPower => exact execSetPower_fld ..
  case clearField => exact execClearField_fld ..
  case showThermal => exact execShowThermal_fld ..
  case showSensors => exact execShowSensors_fld ..
  case showMap => exact execShowMap_fld ..
  case exportMap => exact execExportMap_fld ..
  case setReserve => exact execSetReserve_fld ..
  case setExclude => exact execSetExclude_fld ..
  case showPort => exact execShowPort_fld ..
  case enablePort => exact execEnablePort_fld ..
  case setTemplate => exact execSetTemplate_fld ..
  case setBurst => exact execSetBurst_fld ..
  case showLink => exact execShowLink_fld ..
  case showSpan => exact execShowSpan_fld ..
  case retrainSpan => exact execRetrainSpan_fld ..
  case showFlock => exact execShowFlock_fld ..
  case setFlock => exact execSetFlock_fld ..
  case setRotation => exact execSetRotation_fld ..
  case showFold => exact execShowFold_fld ..
  case showFolds => exact execShowFolds_fld ..
  case showChannel => exact execShowChannel_fld ..
  case setBucket => exact execSetBucket_fld ..
  case showBucket => exact execShowBucket_fld ..
  case showSession => exact execShowSession_fld ..
  case showTally => exact execShowTally_fld ..
  case showBells => exact execShowBells_fld ..
  case showLedger => exact execShowLedger_fld ..
  case verifyLedger => exact execVerifyLedger_fld ..
  case showKeys => exact execShowKeys_fld ..
  case exportKey => exact execExportKey_fld ..
  case addUser => exact execAddUser_fld ..
  case removeUser => exact execRemoveUser_fld ..
  case showUsers => exact execShowUsers_fld ..
  case peek => exact execPeek_fld ..
  case poke => exact execPoke_fld ..
  case shcFaultackWrite => exact execShcFaultackWrite_fld ..
  case pcbSatClear => exact execPcbSatClear_fld ..
  case nedWselWrite => exact execNedWselWrite_fld ..
  case shcAlertcauseRead => exact execShcAlertcauseRead_fld ..
  case badLine => exact execBadLine_fld ..
  case consoleCharacter => exact execConsoleCharacter_fld ..
  case tcpClose => exact execTcpClose_fld ..
  case rsFaultCleared => exact execRsFaultCleared_fld ..

theorem exec_hbm (c : Instr) (h : writesStack c = false) (s : State) : ∃ u, exec c s = .next u ∧ u.hbm = s.hbm := by
  cases c
  case resetAssert | memReqReceived | stackTempRead | pageScrub | bootMapAndReady | resetEngine | restoreDie | railsFall => cases h
  case resetRelease => exact execResetRelease_hbm ..
  case pwrFailAssert => exact execPwrFailAssert_hbm ..
  case pwrFailNedStop => exact execPwrFailNedStop_hbm ..
  case pwrFailFlashFreeze => exact execPwrFailFlashFreeze_hbm ..
  case pwrFailDeassert => exact execPwrFailDeassert_hbm ..
  case busSample => exact execBusSample_hbm ..
  case railDeparture => exact execRailDeparture_hbm ..
  case vcoreRecoveryVerdict => exact execVcoreRecoveryVerdict_hbm ..
  case railStep => exact execRailStep_hbm ..
  case powerWaveStart => exact execPowerWaveStart_hbm ..
  case softStartComplete => exact execSoftStartComplete_hbm ..
  case efuseTrip => exact execEfuseTrip_hbm ..
  case efuseRetry => exact execEfuseRetry_hbm ..
  case efuseRetryVerdict => exact execEfuseRetryVerdict_hbm ..
  case fieldStageShutdown => exact execFieldStageShutdown_hbm ..
  case fieldRetry => exact execFieldRetry_hbm ..
  case fieldRetryVerdict => exact execFieldRetryVerdict_hbm ..
  case pmbAlert => exact execPmbAlert_hbm ..
  case telemetryRead => exact execTelemetryRead_hbm ..
  case pmbusRetryPoll => exact execPmbusRetryPoll_hbm ..
  case clockStep => exact execClockStep_hbm ..
  case islandClockLoss => exact execIslandClockLoss_hbm ..
  case clockRelockVerdict => exact execClockRelockVerdict_hbm ..
  case ringLoss => exact execRingLoss_hbm ..
  case ringRelockVerdict => exact execRingRelockVerdict_hbm ..
  case meshLock => exact execMeshLock_hbm ..
  case referenceAbsent => exact execReferenceAbsent_hbm ..
  case referenceAbsentLong => exact execReferenceAbsentLong_hbm ..
  case referenceReturn => exact execReferenceReturn_hbm ..
  case sensorSample => exact execSensorSample_hbm ..
  case throttleEval => exact execThrottleEval_hbm ..
  case thermalTripRetry => exact execThermalTripRetry_hbm ..
  case thermalRetryVerdict => exact execThermalRetryVerdict_hbm ..
  case loopCheck => exact execLoopCheck_hbm ..
  case linkBeatSend => exact execLinkBeatSend_hbm ..
  case beatReceived => exact execBeatReceived_hbm ..
  case replayTimeout => exact execReplayTimeout_hbm ..
  case replayDownTimeout => exact execReplayDownTimeout_hbm ..
  case receiverSilence => exact execReceiverSilence_hbm ..
  case lane0Precompile => exact execLane0Precompile_hbm ..
  case dockTransfer => exact execDockTransfer_hbm ..
  case fineIssueCycle => exact execFineIssueCycle_hbm ..
  case watchdogExpiry => exact execWatchdogExpiry_hbm ..
  case contextLeavePlan => exact execContextLeavePlan_hbm ..
  case coarseIssueCycle => exact execCoarseIssueCycle_hbm ..
  case eccRereadVerdict => exact execEccRereadVerdict_hbm ..
  case residueVerdict => exact execResidueVerdict_hbm ..
  case hbmxReturn => exact execHbmxReturn_hbm ..
  case hbmBurstRead => exact execHbmBurstRead_hbm ..
  case hbmRereadVerdict => exact execHbmRereadVerdict_hbm ..
  case rotationSlot => exact execRotationSlot_hbm ..
  case medDoubt => exact execMedDoubt_hbm ..
  case spanBlockSend => exact execSpanBlockSend_hbm ..
  case spanBlockReceived => exact execSpanBlockReceived_hbm ..
  case spanReplayTimeout => exact execSpanReplayTimeout_hbm ..
  case spanDownTimeout => exact execSpanDownTimeout_hbm ..
  case spanRxSilence => exact execSpanRxSilence_hbm ..
  case trainBlockReceived => exact execTrainBlockReceived_hbm ..
  case trainingTimeout => exact execTrainingTimeout_hbm ..
  case trainRefuseExpiry => exact execTrainRefuseExpiry_hbm ..
  case flockFormation => exact execFlockFormation_hbm ..
  case memberExcluded => exact execMemberExcluded_hbm ..
  case spdDoubt => exact execSpdDoubt_hbm ..
  case admission => exact execAdmission_hbm ..
  case groupVerdict => exact execGroupVerdict_hbm ..
  case fcsVerdict => exact execFcsVerdict_hbm ..
  case frameTail => exact execFrameTail_hbm ..
  case speculationAbort => exact execSpeculationAbort_hbm ..
  case resultArrival => exact execResultArrival_hbm ..
  case replyStart => exact execReplyStart_hbm ..
  case ptpEvent => exact execPtpEvent_hbm ..
  case rsFault => exact execRsFault_hbm ..
  case nedDoubt => exact execNedDoubt_hbm ..
  case portDrainComplete => exact execPortDrainComplete_hbm ..
  case portDrainExpiry => exact execPortDrainExpiry_hbm ..
  case portSettingsApplied => exact execPortSettingsApplied_hbm ..
  case penRelease => exact execPenRelease_hbm ..
  case penDeadlineExpiry => exact execPenDeadlineExpiry_hbm ..
  case burstToken => exact execBurstToken_hbm ..
  case inFlightLimit => exact execInFlightLimit_hbm ..
  case strayRefusal => exact execStrayRefusal_hbm ..
  case nedBellwether => exact execNedBellwether_hbm ..
  case keepaliveLoss => exact execKeepaliveLoss_hbm ..
  case loadStart => exact execLoadStart_hbm ..
  case loadDrainComplete => exact execLoadDrainComplete_hbm ..
  case loadDrainExpiry => exact execLoadDrainExpiry_hbm ..
  case loadDecryptComplete => exact execLoadDecryptComplete_hbm ..
  case commitConfirmed => exact execCommitConfirmed_hbm ..
  case contextStage => exact execContextStage_hbm ..
  case stageWaitExpiry => exact execStageWaitExpiry_hbm ..
  case standbyConfirmed => exact execStandbyConfirmed_hbm ..
  case bellwetherArrival => exact execBellwetherArrival_hbm ..
  case switchLimitExpiry => exact execSwitchLimitExpiry_hbm ..
  case transitionStart => exact execTransitionStart_hbm ..
  case shearComplete => exact execShearComplete_hbm ..
  case musterComplete => exact execMusterComplete_hbm ..
  case musterTimeout => exact execMusterTimeout_hbm ..
  case checkpointDue => exact execCheckpointDue_hbm ..
  case checkpointWriteDone => exact execCheckpointWriteDone_hbm ..
  case releaseDrainExpiry => exact execReleaseDrainExpiry_hbm ..
  case scrubRecord => exact execScrubRecord_hbm ..
  case sessionCloseComplete => exact execSessionCloseComplete_hbm ..
  case reportReceived => exact execReportReceived_hbm ..
  case reportResend => exact execReportResend_hbm ..
  case doubtNoticeNed => exact execDoubtNoticeNed_hbm ..
  case doubtNoticePaddock => exact execDoubtNoticePaddock_hbm ..
  case checkpointRestoreComplete => exact execCheckpointRestoreComplete_hbm ..
  case relocRecordWritten => exact execRelocRecordWritten_hbm ..
  case keepaliveSend => exact execKeepaliveSend_hbm ..
  case heartbeatSend => exact execHeartbeatSend_hbm ..
  case heartbeatReceive => exact execHeartbeatReceive_hbm ..
  case heartbeatMiss => exact execHeartbeatMiss_hbm ..
  case probeTimeout => exact execProbeTimeout_hbm ..
  case selfDoubtHandover => exact execSelfDoubtHandover_hbm ..
  case selectionQuietExpiry => exact execSelectionQuietExpiry_hbm ..
  case mirrorAckTimeout => exact execMirrorAckTimeout_hbm ..
  case mirrorProbeTimeout => exact execMirrorProbeTimeout_hbm ..
  case readyRefresh => exact execReadyRefresh_hbm ..
  case readyLatchExpiry => exact execReadyLatchExpiry_hbm ..
  case firmwareVerified => exact execFirmwareVerified_hbm ..
  case stagesSettled => exact execStagesSettled_hbm ..
  case edgeDieTestComplete => exact execEdgeDieTestComplete_hbm ..
  case referenceWaitTimeout => exact execReferenceWaitTimeout_hbm ..
  case aonRailsInWindow => exact execAonRailsInWindow_hbm ..
  case coreRailGroup => exact execCoreRailGroup_hbm ..
  case ringWaveAdvance => exact execRingWaveAdvance_hbm ..
  case paddockTestComplete => exact execPaddockTestComplete_hbm ..
  case borderTestComplete => exact execBorderTestComplete_hbm ..
  case sweep => exact execSweep_hbm ..
  case consoleBreak => exact execConsoleBreak_hbm ..
  case ctsChange => exact execCtsChange_hbm ..
  case tcpConnect => exact execTcpConnect_hbm ..
  case mgmtPacket => exact execMgmtPacket_hbm ..
  case arpAnnounce => exact execArpAnnounce_hbm ..
  case recoveryImageReceived => exact execRecoveryImageReceived_hbm ..
  case backupRejoin => exact execBackupRejoin_hbm ..
  case backupRejoinTimeout => exact execBackupRejoinTimeout_hbm ..
  case idleTimeout => exact execIdleTimeout_hbm ..
  case challengeExpiry => exact execChallengeExpiry_hbm ..
  case loginLockExpiry => exact execLoginLockExpiry_hbm ..
  case bellsLostNotice => exact execBellsLostNotice_hbm ..
  case ledgerIntervalEnd => exact execLedgerIntervalEnd_hbm ..
  case ledgerRingRetry => exact execLedgerRingRetry_hbm ..
  case leaseSecond => exact execLeaseSecond_hbm ..
  case ptpSilence => exact execPtpSilence_hbm ..
  case loginRequest => exact execLoginRequest_hbm ..
  case loginResponse => exact execLoginResponse_hbm ..
  case logout => exact execLogout_hbm ..
  case ping => exact execPing_hbm ..
  case mode => exact execMode_hbm ..
  case showEngine => exact execShowEngine_hbm ..
  case showBoot => exact execShowBoot_hbm ..
  case showShc => exact execShowShc_hbm ..
  case setBoot => exact execSetBoot_hbm ..
  case setClear => exact execSetClear_hbm ..
  case ackFault => exact execAckFault_hbm ..
  case handoverShc => exact execHandoverShc_hbm ..
  case setConsole => exact execSetConsole_hbm ..
  case setNet => exact execSetNet_hbm ..
  case openStage => exact execOpenStage_hbm ..
  case putStage => exact execPutStage_hbm ..
  case showStage => exact execShowStage_hbm ..
  case dropStage => exact execDropStage_hbm ..
  case updateFirmware => exact execUpdateFirmware_hbm ..
  case raiseSvn => exact execRaiseSvn_hbm ..
  case showPower => exact execShowPower_hbm ..
  case setBus => exact execSetBus_hbm ..
  case setRail => exact execSetRail_hbm ..
  case setClock => exact execSetClock_hbm ..
  case setPower => exact execSetPower_hbm ..
  case clearField => exact execClearField_hbm ..
  case showThermal => exact execShowThermal_hbm ..
  case showSensors => exact execShowSensors_hbm ..
  case showMap => exact execShowMap_hbm ..
  case exportMap => exact execExportMap_hbm ..
  case setReserve => exact execSetReserve_hbm ..
  case setExclude => exact execSetExclude_hbm ..
  case showPort => exact execShowPort_hbm ..
  case setLanes => exact execSetLanes_hbm ..
  case setPort => exact execSetPort_hbm ..
  case enablePort => exact execEnablePort_hbm ..
  case disablePort => exact execDisablePort_hbm ..
  case setTemplate => exact execSetTemplate_hbm ..
  case setBurst => exact execSetBurst_hbm ..
  case setPtp => exact execSetPtp_hbm ..
  case showLink => exact execShowLink_hbm ..
  case showSpan => exact execShowSpan_hbm ..
  case restoreLane => exact execRestoreLane_hbm ..
  case retrainSpan => exact execRetrainSpan_hbm ..
  case showFlock => exact execShowFlock_hbm ..
  case setFlock => exact execSetFlock_hbm ..
  case createFold => exact execCreateFold_hbm ..
  case resizeFold => exact execResizeFold_hbm ..
  case loadFold => exact execLoadFold_hbm ..
  case destroyFold => exact execDestroyFold_hbm ..
  case setFold => exact execSetFold_hbm ..
  case setRotation => exact execSetRotation_hbm ..
  case showFold => exact execShowFold_hbm ..
  case showFolds => exact execShowFolds_hbm ..
  case createChannel => exact execCreateChannel_hbm ..
  case bindChannel => exact execBindChannel_hbm ..
  case unbindChannel => exact execUnbindChannel_hbm ..
  case destroyChannel => exact execDestroyChannel_hbm ..
  case showChannel => exact execShowChannel_hbm ..
  case setBucket => exact execSetBucket_hbm ..
  case showBucket => exact execShowBucket_hbm ..
  case openSession => exact execOpenSession_hbm ..
  case closeSession => exact execCloseSession_hbm ..
  case showSession => exact execShowSession_hbm ..
  case showTally => exact execShowTally_hbm ..
  case showBells => exact execShowBells_hbm ..
  case showLedger => exact execShowLedger_hbm ..
  case verifyLedger => exact execVerifyLedger_hbm ..
  case showKeys => exact execShowKeys_hbm ..
  case exportKey => exact execExportKey_hbm ..
  case addUser => exact execAddUser_hbm ..
  case removeUser => exact execRemoveUser_hbm ..
  case showUsers => exact execShowUsers_hbm ..
  case peek => exact execPeek_hbm ..
  case poke => exact execPoke_hbm ..
  case shcFaultackWrite => exact execShcFaultackWrite_hbm ..
  case pcbSatClear => exact execPcbSatClear_hbm ..
  case nedWselWrite => exact execNedWselWrite_hbm ..
  case shcAlertcauseRead => exact execShcAlertcauseRead_hbm ..
  case badLine => exact execBadLine_hbm ..
  case consoleCharacter => exact execConsoleCharacter_hbm ..
  case tcpClose => exact execTcpClose_hbm ..
  case rsFaultCleared => exact execRsFaultCleared_hbm ..

theorem exec_held (c : Instr) (h : actsInReset c = false) (s : State) (hr : s.resetN = true) : ∃ t, exec c s = .next (s.tick t) := by
  cases c
  case resetAssert | resetRelease | pwrFailAssert | pwrFailDeassert | railsFall => cases h
  case pwrFailNedStop => exact ⟨_, execPwrFailNedStop_held (hr := hr) ..⟩
  case pwrFailFlashFreeze => exact ⟨_, execPwrFailFlashFreeze_held (hr := hr) ..⟩
  case busSample => exact ⟨_, execBusSample_held (hr := hr) ..⟩
  case railDeparture => exact ⟨_, execRailDeparture_held (hr := hr) ..⟩
  case vcoreRecoveryVerdict => exact ⟨_, execVcoreRecoveryVerdict_held (hr := hr) ..⟩
  case railStep => exact ⟨_, execRailStep_held (hr := hr) ..⟩
  case powerWaveStart => exact ⟨_, execPowerWaveStart_held (hr := hr) ..⟩
  case softStartComplete => exact ⟨_, execSoftStartComplete_held (hr := hr) ..⟩
  case efuseTrip => exact ⟨_, execEfuseTrip_held (hr := hr) ..⟩
  case efuseRetry => exact ⟨_, execEfuseRetry_held (hr := hr) ..⟩
  case efuseRetryVerdict => exact ⟨_, execEfuseRetryVerdict_held (hr := hr) ..⟩
  case fieldStageShutdown => exact ⟨_, execFieldStageShutdown_held (hr := hr) ..⟩
  case fieldRetry => exact ⟨_, execFieldRetry_held (hr := hr) ..⟩
  case fieldRetryVerdict => exact ⟨_, execFieldRetryVerdict_held (hr := hr) ..⟩
  case pmbAlert => exact ⟨_, execPmbAlert_held (hr := hr) ..⟩
  case telemetryRead => exact ⟨_, execTelemetryRead_held (hr := hr) ..⟩
  case pmbusRetryPoll => exact ⟨_, execPmbusRetryPoll_held (hr := hr) ..⟩
  case clockStep => exact ⟨_, execClockStep_held (hr := hr) ..⟩
  case islandClockLoss => exact ⟨_, execIslandClockLoss_held (hr := hr) ..⟩
  case clockRelockVerdict => exact ⟨_, execClockRelockVerdict_held (hr := hr) ..⟩
  case ringLoss => exact ⟨_, execRingLoss_held (hr := hr) ..⟩
  case ringRelockVerdict => exact ⟨_, execRingRelockVerdict_held (hr := hr) ..⟩
  case meshLock => exact ⟨_, execMeshLock_held (hr := hr) ..⟩
  case referenceAbsent => exact ⟨_, execReferenceAbsent_held (hr := hr) ..⟩
  case referenceAbsentLong => exact ⟨_, execReferenceAbsentLong_held (hr := hr) ..⟩
  case referenceReturn => exact ⟨_, execReferenceReturn_held (hr := hr) ..⟩
  case sensorSample => exact ⟨_, execSensorSample_held (hr := hr) ..⟩
  case throttleEval => exact ⟨_, execThrottleEval_held (hr := hr) ..⟩
  case thermalTripRetry => exact ⟨_, execThermalTripRetry_held (hr := hr) ..⟩
  case thermalRetryVerdict => exact ⟨_, execThermalRetryVerdict_held (hr := hr) ..⟩
  case loopCheck => exact ⟨_, execLoopCheck_held (hr := hr) ..⟩
  case linkBeatSend => exact ⟨_, execLinkBeatSend_held (hr := hr) ..⟩
  case beatReceived => exact ⟨_, execBeatReceived_held (hr := hr) ..⟩
  case replayTimeout => exact ⟨_, execReplayTimeout_held (hr := hr) ..⟩
  case replayDownTimeout => exact ⟨_, execReplayDownTimeout_held (hr := hr) ..⟩
  case receiverSilence => exact ⟨_, execReceiverSilence_held (hr := hr) ..⟩
  case lane0Precompile => exact ⟨_, execLane0Precompile_held (hr := hr) ..⟩
  case dockTransfer => exact ⟨_, execDockTransfer_held (hr := hr) ..⟩
  case fineIssueCycle => exact ⟨_, execFineIssueCycle_held (hr := hr) ..⟩
  case watchdogExpiry => exact ⟨_, execWatchdogExpiry_held (hr := hr) ..⟩
  case contextLeavePlan => exact ⟨_, execContextLeavePlan_held (hr := hr) ..⟩
  case coarseIssueCycle => exact ⟨_, execCoarseIssueCycle_held (hr := hr) ..⟩
  case eccRereadVerdict => exact ⟨_, execEccRereadVerdict_held (hr := hr) ..⟩
  case residueVerdict => exact ⟨_, execResidueVerdict_held (hr := hr) ..⟩
  case hbmxReturn => exact ⟨_, execHbmxReturn_held (hr := hr) ..⟩
  case memReqReceived => exact ⟨_, execMemReqReceived_held (hr := hr) ..⟩
  case hbmBurstRead => exact ⟨_, execHbmBurstRead_held (hr := hr) ..⟩
  case hbmRereadVerdict => exact ⟨_, execHbmRereadVerdict_held (hr := hr) ..⟩
  case stackTempRead => exact ⟨_, execStackTempRead_held (hr := hr) ..⟩
  case pageScrub => exact ⟨_, execPageScrub_held (hr := hr) ..⟩
  case rotationSlot => exact ⟨_, execRotationSlot_held (hr := hr) ..⟩
  case medDoubt => exact ⟨_, execMedDoubt_held (hr := hr) ..⟩
  case spanBlockSend => exact ⟨_, execSpanBlockSend_held (hr := hr) ..⟩
  case spanBlockReceived => exact ⟨_, execSpanBlockReceived_held (hr := hr) ..⟩
  case spanReplayTimeout => exact ⟨_, execSpanReplayTimeout_held (hr := hr) ..⟩
  case spanDownTimeout => exact ⟨_, execSpanDownTimeout_held (hr := hr) ..⟩
  case spanRxSilence => exact ⟨_, execSpanRxSilence_held (hr := hr) ..⟩
  case trainBlockReceived => exact ⟨_, execTrainBlockReceived_held (hr := hr) ..⟩
  case trainingTimeout => exact ⟨_, execTrainingTimeout_held (hr := hr) ..⟩
  case trainRefuseExpiry => exact ⟨_, execTrainRefuseExpiry_held (hr := hr) ..⟩
  case flockFormation => exact ⟨_, execFlockFormation_held (hr := hr) ..⟩
  case memberExcluded => exact ⟨_, execMemberExcluded_held (hr := hr) ..⟩
  case spdDoubt => exact ⟨_, execSpdDoubt_held (hr := hr) ..⟩
  case admission => exact ⟨_, execAdmission_held (hr := hr) ..⟩
  case groupVerdict => exact ⟨_, execGroupVerdict_held (hr := hr) ..⟩
  case fcsVerdict => exact ⟨_, execFcsVerdict_held (hr := hr) ..⟩
  case frameTail => exact ⟨_, execFrameTail_held (hr := hr) ..⟩
  case speculationAbort => exact ⟨_, execSpeculationAbort_held (hr := hr) ..⟩
  case resultArrival => exact ⟨_, execResultArrival_held (hr := hr) ..⟩
  case replyStart => exact ⟨_, execReplyStart_held (hr := hr) ..⟩
  case ptpEvent => exact ⟨_, execPtpEvent_held (hr := hr) ..⟩
  case rsFault => exact ⟨_, execRsFault_held (hr := hr) ..⟩
  case nedDoubt => exact ⟨_, execNedDoubt_held (hr := hr) ..⟩
  case portDrainComplete => exact ⟨_, execPortDrainComplete_held (hr := hr) ..⟩
  case portDrainExpiry => exact ⟨_, execPortDrainExpiry_held (hr := hr) ..⟩
  case portSettingsApplied => exact ⟨_, execPortSettingsApplied_held (hr := hr) ..⟩
  case penRelease => exact ⟨_, execPenRelease_held (hr := hr) ..⟩
  case penDeadlineExpiry => exact ⟨_, execPenDeadlineExpiry_held (hr := hr) ..⟩
  case burstToken => exact ⟨_, execBurstToken_held (hr := hr) ..⟩
  case inFlightLimit => exact ⟨_, execInFlightLimit_held (hr := hr) ..⟩
  case strayRefusal => exact ⟨_, execStrayRefusal_held (hr := hr) ..⟩
  case nedBellwether => exact ⟨_, execNedBellwether_held (hr := hr) ..⟩
  case keepaliveLoss => exact ⟨_, execKeepaliveLoss_held (hr := hr) ..⟩
  case loadStart => exact ⟨_, execLoadStart_held (hr := hr) ..⟩
  case loadDrainComplete => exact ⟨_, execLoadDrainComplete_held (hr := hr) ..⟩
  case loadDrainExpiry => exact ⟨_, execLoadDrainExpiry_held (hr := hr) ..⟩
  case loadDecryptComplete => exact ⟨_, execLoadDecryptComplete_held (hr := hr) ..⟩
  case commitConfirmed => exact ⟨_, execCommitConfirmed_held (hr := hr) ..⟩
  case contextStage => exact ⟨_, execContextStage_held (hr := hr) ..⟩
  case stageWaitExpiry => exact ⟨_, execStageWaitExpiry_held (hr := hr) ..⟩
  case standbyConfirmed => exact ⟨_, execStandbyConfirmed_held (hr := hr) ..⟩
  case bellwetherArrival => exact ⟨_, execBellwetherArrival_held (hr := hr) ..⟩
  case switchLimitExpiry => exact ⟨_, execSwitchLimitExpiry_held (hr := hr) ..⟩
  case transitionStart => exact ⟨_, execTransitionStart_held (hr := hr) ..⟩
  case shearComplete => exact ⟨_, execShearComplete_held (hr := hr) ..⟩
  case musterComplete => exact ⟨_, execMusterComplete_held (hr := hr) ..⟩
  case musterTimeout => exact ⟨_, execMusterTimeout_held (hr := hr) ..⟩
  case checkpointDue => exact ⟨_, execCheckpointDue_held (hr := hr) ..⟩
  case checkpointWriteDone => exact ⟨_, execCheckpointWriteDone_held (hr := hr) ..⟩
  case releaseDrainExpiry => exact ⟨_, execReleaseDrainExpiry_held (hr := hr) ..⟩
  case scrubRecord => exact ⟨_, execScrubRecord_held (hr := hr) ..⟩
  case sessionCloseComplete => exact ⟨_, execSessionCloseComplete_held (hr := hr) ..⟩
  case reportReceived => exact ⟨_, execReportReceived_held (hr := hr) ..⟩
  case reportResend => exact ⟨_, execReportResend_held (hr := hr) ..⟩
  case doubtNoticeNed => exact ⟨_, execDoubtNoticeNed_held (hr := hr) ..⟩
  case doubtNoticePaddock => exact ⟨_, execDoubtNoticePaddock_held (hr := hr) ..⟩
  case checkpointRestoreComplete => exact ⟨_, execCheckpointRestoreComplete_held (hr := hr) ..⟩
  case relocRecordWritten => exact ⟨_, execRelocRecordWritten_held (hr := hr) ..⟩
  case keepaliveSend => exact ⟨_, execKeepaliveSend_held (hr := hr) ..⟩
  case heartbeatSend => exact ⟨_, execHeartbeatSend_held (hr := hr) ..⟩
  case heartbeatReceive => exact ⟨_, execHeartbeatReceive_held (hr := hr) ..⟩
  case heartbeatMiss => exact ⟨_, execHeartbeatMiss_held (hr := hr) ..⟩
  case probeTimeout => exact ⟨_, execProbeTimeout_held (hr := hr) ..⟩
  case selfDoubtHandover => exact ⟨_, execSelfDoubtHandover_held (hr := hr) ..⟩
  case selectionQuietExpiry => exact ⟨_, execSelectionQuietExpiry_held (hr := hr) ..⟩
  case mirrorAckTimeout => exact ⟨_, execMirrorAckTimeout_held (hr := hr) ..⟩
  case mirrorProbeTimeout => exact ⟨_, execMirrorProbeTimeout_held (hr := hr) ..⟩
  case readyRefresh => exact ⟨_, execReadyRefresh_held (hr := hr) ..⟩
  case readyLatchExpiry => exact ⟨_, execReadyLatchExpiry_held (hr := hr) ..⟩
  case firmwareVerified => exact ⟨_, execFirmwareVerified_held (hr := hr) ..⟩
  case stagesSettled => exact ⟨_, execStagesSettled_held (hr := hr) ..⟩
  case edgeDieTestComplete => exact ⟨_, execEdgeDieTestComplete_held (hr := hr) ..⟩
  case referenceWaitTimeout => exact ⟨_, execReferenceWaitTimeout_held (hr := hr) ..⟩
  case aonRailsInWindow => exact ⟨_, execAonRailsInWindow_held (hr := hr) ..⟩
  case coreRailGroup => exact ⟨_, execCoreRailGroup_held (hr := hr) ..⟩
  case ringWaveAdvance => exact ⟨_, execRingWaveAdvance_held (hr := hr) ..⟩
  case paddockTestComplete => exact ⟨_, execPaddockTestComplete_held (hr := hr) ..⟩
  case borderTestComplete => exact ⟨_, execBorderTestComplete_held (hr := hr) ..⟩
  case sweep => exact ⟨_, execSweep_held (hr := hr) ..⟩
  case bootMapAndReady => exact ⟨_, execBootMapAndReady_held (hr := hr) ..⟩
  case consoleBreak => exact ⟨_, execConsoleBreak_held (hr := hr) ..⟩
  case ctsChange => exact ⟨_, execCtsChange_held (hr := hr) ..⟩
  case tcpConnect => exact ⟨_, execTcpConnect_held (hr := hr) ..⟩
  case mgmtPacket => exact ⟨_, execMgmtPacket_held (hr := hr) ..⟩
  case arpAnnounce => exact ⟨_, execArpAnnounce_held (hr := hr) ..⟩
  case recoveryImageReceived => exact ⟨_, execRecoveryImageReceived_held (hr := hr) ..⟩
  case backupRejoin => exact ⟨_, execBackupRejoin_held (hr := hr) ..⟩
  case backupRejoinTimeout => exact ⟨_, execBackupRejoinTimeout_held (hr := hr) ..⟩
  case idleTimeout => exact ⟨_, execIdleTimeout_held (hr := hr) ..⟩
  case challengeExpiry => exact ⟨_, execChallengeExpiry_held (hr := hr) ..⟩
  case loginLockExpiry => exact ⟨_, execLoginLockExpiry_held (hr := hr) ..⟩
  case bellsLostNotice => exact ⟨_, execBellsLostNotice_held (hr := hr) ..⟩
  case ledgerIntervalEnd => exact ⟨_, execLedgerIntervalEnd_held (hr := hr) ..⟩
  case ledgerRingRetry => exact ⟨_, execLedgerRingRetry_held (hr := hr) ..⟩
  case leaseSecond => exact ⟨_, execLeaseSecond_held (hr := hr) ..⟩
  case ptpSilence => exact ⟨_, execPtpSilence_held (hr := hr) ..⟩
  case loginRequest => exact ⟨_, execLoginRequest_held (hr := hr) ..⟩
  case loginResponse => exact ⟨_, execLoginResponse_held (hr := hr) ..⟩
  case logout => exact ⟨_, execLogout_held (hr := hr) ..⟩
  case ping => exact ⟨_, execPing_held (hr := hr) ..⟩
  case mode => exact ⟨_, execMode_held (hr := hr) ..⟩
  case showEngine => exact ⟨_, execShowEngine_held (hr := hr) ..⟩
  case showBoot => exact ⟨_, execShowBoot_held (hr := hr) ..⟩
  case showShc => exact ⟨_, execShowShc_held (hr := hr) ..⟩
  case setBoot => exact ⟨_, execSetBoot_held (hr := hr) ..⟩
  case setClear => exact ⟨_, execSetClear_held (hr := hr) ..⟩
  case resetEngine => exact ⟨_, execResetEngine_held (hr := hr) ..⟩
  case ackFault => exact ⟨_, execAckFault_held (hr := hr) ..⟩
  case handoverShc => exact ⟨_, execHandoverShc_held (hr := hr) ..⟩
  case restoreDie => exact ⟨_, execRestoreDie_held (hr := hr) ..⟩
  case setConsole => exact ⟨_, execSetConsole_held (hr := hr) ..⟩
  case setNet => exact ⟨_, execSetNet_held (hr := hr) ..⟩
  case openStage => exact ⟨_, execOpenStage_held (hr := hr) ..⟩
  case putStage => exact ⟨_, execPutStage_held (hr := hr) ..⟩
  case showStage => exact ⟨_, execShowStage_held (hr := hr) ..⟩
  case dropStage => exact ⟨_, execDropStage_held (hr := hr) ..⟩
  case updateFirmware => exact ⟨_, execUpdateFirmware_held (hr := hr) ..⟩
  case raiseSvn => exact ⟨_, execRaiseSvn_held (hr := hr) ..⟩
  case showPower => exact ⟨_, execShowPower_held (hr := hr) ..⟩
  case setBus => exact ⟨_, execSetBus_held (hr := hr) ..⟩
  case setRail => exact ⟨_, execSetRail_held (hr := hr) ..⟩
  case setClock => exact ⟨_, execSetClock_held (hr := hr) ..⟩
  case setPower => exact ⟨_, execSetPower_held (hr := hr) ..⟩
  case clearField => exact ⟨_, execClearField_held (hr := hr) ..⟩
  case showThermal => exact ⟨_, execShowThermal_held (hr := hr) ..⟩
  case showSensors => exact ⟨_, execShowSensors_held (hr := hr) ..⟩
  case showMap => exact ⟨_, execShowMap_held (hr := hr) ..⟩
  case exportMap => exact ⟨_, execExportMap_held (hr := hr) ..⟩
  case setReserve => exact ⟨_, execSetReserve_held (hr := hr) ..⟩
  case setExclude => exact ⟨_, execSetExclude_held (hr := hr) ..⟩
  case showPort => exact ⟨_, execShowPort_held (hr := hr) ..⟩
  case setLanes => exact ⟨_, execSetLanes_held (hr := hr) ..⟩
  case setPort => exact ⟨_, execSetPort_held (hr := hr) ..⟩
  case enablePort => exact ⟨_, execEnablePort_held (hr := hr) ..⟩
  case disablePort => exact ⟨_, execDisablePort_held (hr := hr) ..⟩
  case setTemplate => exact ⟨_, execSetTemplate_held (hr := hr) ..⟩
  case setBurst => exact ⟨_, execSetBurst_held (hr := hr) ..⟩
  case setPtp => exact ⟨_, execSetPtp_held (hr := hr) ..⟩
  case showLink => exact ⟨_, execShowLink_held (hr := hr) ..⟩
  case showSpan => exact ⟨_, execShowSpan_held (hr := hr) ..⟩
  case restoreLane => exact ⟨_, execRestoreLane_held (hr := hr) ..⟩
  case retrainSpan => exact ⟨_, execRetrainSpan_held (hr := hr) ..⟩
  case showFlock => exact ⟨_, execShowFlock_held (hr := hr) ..⟩
  case setFlock => exact ⟨_, execSetFlock_held (hr := hr) ..⟩
  case createFold => exact ⟨_, execCreateFold_held (hr := hr) ..⟩
  case resizeFold => exact ⟨_, execResizeFold_held (hr := hr) ..⟩
  case loadFold => exact ⟨_, execLoadFold_held (hr := hr) ..⟩
  case destroyFold => exact ⟨_, execDestroyFold_held (hr := hr) ..⟩
  case setFold => exact ⟨_, execSetFold_held (hr := hr) ..⟩
  case setRotation => exact ⟨_, execSetRotation_held (hr := hr) ..⟩
  case showFold => exact ⟨_, execShowFold_held (hr := hr) ..⟩
  case showFolds => exact ⟨_, execShowFolds_held (hr := hr) ..⟩
  case createChannel => exact ⟨_, execCreateChannel_held (hr := hr) ..⟩
  case bindChannel => exact ⟨_, execBindChannel_held (hr := hr) ..⟩
  case unbindChannel => exact ⟨_, execUnbindChannel_held (hr := hr) ..⟩
  case destroyChannel => exact ⟨_, execDestroyChannel_held (hr := hr) ..⟩
  case showChannel => exact ⟨_, execShowChannel_held (hr := hr) ..⟩
  case setBucket => exact ⟨_, execSetBucket_held (hr := hr) ..⟩
  case showBucket => exact ⟨_, execShowBucket_held (hr := hr) ..⟩
  case openSession => exact ⟨_, execOpenSession_held (hr := hr) ..⟩
  case closeSession => exact ⟨_, execCloseSession_held (hr := hr) ..⟩
  case showSession => exact ⟨_, execShowSession_held (hr := hr) ..⟩
  case showTally => exact ⟨_, execShowTally_held (hr := hr) ..⟩
  case showBells => exact ⟨_, execShowBells_held (hr := hr) ..⟩
  case showLedger => exact ⟨_, execShowLedger_held (hr := hr) ..⟩
  case verifyLedger => exact ⟨_, execVerifyLedger_held (hr := hr) ..⟩
  case showKeys => exact ⟨_, execShowKeys_held (hr := hr) ..⟩
  case exportKey => exact ⟨_, execExportKey_held (hr := hr) ..⟩
  case addUser => exact ⟨_, execAddUser_held (hr := hr) ..⟩
  case removeUser => exact ⟨_, execRemoveUser_held (hr := hr) ..⟩
  case showUsers => exact ⟨_, execShowUsers_held (hr := hr) ..⟩
  case peek => exact ⟨_, execPeek_held (hr := hr) ..⟩
  case poke => exact ⟨_, execPoke_held (hr := hr) ..⟩
  case shcFaultackWrite => exact ⟨_, execShcFaultackWrite_held (hr := hr) ..⟩
  case pcbSatClear => exact ⟨_, execPcbSatClear_held (hr := hr) ..⟩
  case nedWselWrite => exact ⟨_, execNedWselWrite_held (hr := hr) ..⟩
  case shcAlertcauseRead => exact ⟨_, execShcAlertcauseRead_held (hr := hr) ..⟩
  case badLine => exact ⟨_, execBadLine_held (hr := hr) ..⟩
  case consoleCharacter => exact ⟨_, execConsoleCharacter_held (hr := hr) ..⟩
  case tcpClose => exact ⟨_, execTcpClose_held (hr := hr) ..⟩
  case rsFaultCleared => exact ⟨_, execRsFaultCleared_held (hr := hr) ..⟩

end Sys2Proof.Machine

/-! The obligations about every command or every step. -/
namespace Sys2Proof.Machine

open Sys2Proof

/-- Settles O47. -/
theorem stepRunsTheFront : Obligations.StepRunsTheFront := by
  refine ⟨fun c rest s h => ?_, fun s h => ?_, fun s nbits w => ⟨rfl, rfl⟩⟩ <;> simp only [step, h]

/-- A step is the command at the front run on the rest of the queue, or nothing. -/
theorem step_cases {P : State → State → Prop} (s : State) (idle : s.pending = [] → P s s)
    (runs : ∀ c rest, s.pending = c :: rest → ∃ u, exec c { s with pending := rest } = .next u ∧ P s u) :
    ∃ t, step s = .next t ∧ P s t := by
  unfold step
  cases e : s.pending with
  | nil => exact ⟨s, rfl, idle e⟩
  | cons c rest => exact runs c rest e

/-- A step that answers `t` has taken the front off the queue and kept what `Keeps` names. -/
theorem step_keeps (s : State) : ∃ t, step s = .next t ∧ Keeps { s with pending := s.pending.tail } t := by
  refine step_cases (P := fun s t => Keeps { s with pending := s.pending.tail } t) s (fun e => ?_) fun c rest e => ?_
  · rw [e, List.tail_nil, ← e]
    exact Keeps.core rfl
  · rw [e, List.tail_cons]
    exact exec_keeps c _

/-- Settles O49: `Keeps` names each of these. -/
theorem everyStepAnswers : Obligations.EveryStepAnswers := by
  intro s
  obtain ⟨t, e, k⟩ := step_keeps s
  exact ⟨t, e, k.pending, k.now, k.serial, k.svn⟩

/-- Settles O50: the number of units is part of `Keeps`, and so is a frozen flash up to the write that was under way. -/
theorem unitsAndFrozenFlashAreKept : Obligations.UnitsAndFrozenFlashAreKept := by
  refine ⟨fun s t sized e => ?_, fun s t frozen e => ?_⟩ <;>
    obtain ⟨u, e', k⟩ := step_keeps s <;> cases e.symm.trans e'
  · exact k.sized sized
  · exact k.flash frozen

/-- Settles O51. -/
theorem heldInReset : Obligations.HeldInReset := by
  intro c s hr h
  obtain ⟨t, e⟩ := exec_held c h s hr
  exact ⟨_, e, rfl⟩

/-- Settles O53. -/
theorem stacksChangeByMemoryCommands : Obligations.StacksChangeByMemoryCommands :=
  fun c h s => (exec_hbm c h s).imp fun _ ⟨e, k⟩ => ⟨e, congrArg Hbm.stores k⟩

/-- Settles O55. -/
theorem foldsChangeByTheirCommands : Obligations.FoldsChangeByTheirCommands := by
  intro c h s
  obtain ⟨u, e, k⟩ := exec_fld c h s
  exact ⟨u, e, congrArg Fld.folds k, congrArg Fld.channels k, congrArg Fld.sessions k, congrArg Fld.scrubs k, congrArg Fld.incCtr k⟩

/-- Settles O57. -/
theorem controlChangesByItsCommands : Obligations.ControlChangesByItsCommands := by
  intro c h s
  obtain ⟨u, e, k⟩ := exec_ctl c h s
  simp only [State.ctl, Ctl.mk.injEq] at k
  obtain ⟨active, sel, -, ready, -, boot, refAbsent, -, meshLocked, shared, fwUpdate, -, -, stages, -, -, place, fuses, scratch,
    vstby, resetN, pwrFail, -, flockUp⟩ := k
  exact ⟨u, e, resetN, pwrFail, active, sel, ready, boot, refAbsent, meshLocked, shared, stages, fwUpdate, place, fuses, scratch,
    vstby, flockUp⟩

end Sys2Proof.Machine

namespace Sys2Proof.Machine

open Sys2Proof

/-! The memory stacks through the commands that write to one. -/

theorem stacksCanonical_inReset {s : State} (h : s.meds = List.replicate 12 Med.initial) : StacksCanonical s := by
  intro m hm
  rw [h] at hm
  rw [List.eq_of_mem_replicate hm]
  exact Med.initial_wf

theorem StacksCanonical.modMed {s : State} (k : StacksCanonical s) (i : Nat) {f : Med → Med}
    (h : ∀ m, m.wf = true → (f m).wf = true) : StacksCanonical (s.modMed i f) :=
  k.setMed i _ (h _ (k.med i))

theorem StacksCanonical.map {s : State} (k : StacksCanonical s) {f : Med → Med} (h : ∀ m, m.wf = true → (f m).wf = true) :
    StacksCanonical { s with meds := s.meds.map f } := by
  intro m hm
  obtain ⟨n, hn, rfl⟩ := List.mem_map.mp hm
  exact h n (k n hn)

theorem StacksCanonical.dieBack {s : State} (k : StacksCanonical s) (d : DieName) : StacksCanonical (s.dieBack d) := by
  cases d with
  | med i => exact k.modMed i fun m h => Med.wf_of_store rfl (Med.flush_wf m h)
  | ned i => exact StacksCanonical.of_hbm (State.modNed_hbm _ _ _) k
  | spd i => exact StacksCanonical.of_hbm (State.modSpd_hbm _ _ _) k
  | shc i => exact StacksCanonical.of_hbm (State.modShc_hbm _ _ _) k

theorem StacksCanonical.becomeReady {s : State} (k : StacksCanonical s) (must : Bool) : StacksCanonical (s.becomeReady must) := by
  have stored : StacksCanonical ((if must then s.writeMap s.boot.full true else s).storedPorts) := by
    refine StacksCanonical.of_hbm (State.storedPorts_hbm _) ?_
    split
    · exact StacksCanonical.of_hbm (State.writeMap_hbm _ _ _) k
    · exact k
  have scrubbed (g : Flash → Flash) := (StacksCanonical.of_hbm (State.modFlash_hbm _ g) stored).map
    (f := fun m => if m.doubt then m else m.scrubAll) fun m h => by
      split
      · exact h
      · exact Med.scrubAll_wf m h
  exact StacksCanonical.of_hbm ((State.writeGaps_hbm _).trans (State.mirror_hbm _)) (scrubbed _)

theorem execMemReqReceived_canonical (i : MedIx) (e : Fin 2) (lane : Lane) (vc : Bool) (t : Time) {s : State} (k : StacksCanonical s) :
    ∃ u, execMemReqReceived i e lane vc t s = .next u ∧ StacksCanonical u :=
  ⟨_, rfl, State.event_cases (P := StacksCanonical) _ _ _ _ k (StacksCanonical.medServe (s := s.tick t) k _ _ _)⟩

theorem execPageScrub_canonical (i : MedIx) (page : Fin 12288) (t : Time) {s : State} (k : StacksCanonical s) :
    ∃ u, execPageScrub i page t s = .next u ∧ StacksCanonical u := by
  refine ⟨_, rfl, State.event_cases (P := StacksCanonical) _ _ _ _ k ?_⟩
  have scrubbed : StacksCanonical ((s.tick t).modMed i.val fun m => m.scrub page.val) :=
    StacksCanonical.modMed (s := s.tick t) k _ fun m h => Med.scrub_wf m _ h
  exact StacksCanonical.of_hbm (State.count_hbm _ .med i.val tmScrubbed) scrubbed

theorem execStackTempRead_canonical (i : MedIx) (read : StackRead) (t : Time) {s : State} (k : StacksCanonical s) :
    ∃ u, execStackTempRead i read t s = .next u ∧ StacksCanonical u := by
  refine ⟨_, rfl, State.event_cases (P := StacksCanonical) _ _ _ _ k ?_⟩
  dsimp only
  have set : StacksCanonical ((s.tick t).setMed i.val
      { (s.tick t).med i.val with temp := some read.temp, tempRow := tempRowOf read.temp }) :=
    StacksCanonical.setMed (s := s.tick t) k _ _ (Med.wf_of_store rfl (StacksCanonical.med (s := s.tick t) k _))
  have rung : ∀ u : State, StacksCanonical u → StacksCanonical (if tempRowOf read.temp = ((s.tick t).med i.val).tempRow then u
      else u.ring "med" false [("die", .num i.val), ("state", .num (tempRowOf read.temp)), ("temp", .num read.temp)]) := by
    intro u hu
    split
    · exact hu
    · exact StacksCanonical.of_hbm (State.ring_hbm _ _ _ _) hu
  have two := rung _ (StacksCanonical.of_hbm (State.addTally_hbm _ .med i.val tmThrottle
    (if ((s.tick t).med i.val).tempRow = 2 then read.lost else 0)) set)
  split
  · exact StacksCanonical.of_hbm (State.medEnterDoubt_hbm _ _ _) (two.modMed _ fun m h => Med.wf_of_store rfl (Med.flush_wf m h))
  · exact two

theorem OnlyConsole.trans {s t u : State} (h : OnlyConsole s t) (k : OnlyConsole t u) : OnlyConsole s u := by
  unfold OnlyConsole at *
  rw [k, h]

theorem OnlySessions.onlyConsole {s u : State} (h : OnlySessions s u) : OnlyConsole s u := by
  obtain ⟨e, -⟩ := h
  unfold OnlyConsole
  rw [e]

/-- A console command stops before its body and changes no more than its console, or is its body at the line. -/
theorem State.judged_stops_or_runs (s : State) (ln : Ln) (need : Level) (boot : Bool) (body : State → State) :
    OnlyConsole s (s.judged ln need boot body) ∨ s.judged ln need boot body = body (s.atLine ln) := by
  have line : OnlyConsole s (s.atLine ln) := (OnlySessions.atLine s ln).onlyConsole
  have final (i tag crc r) : OnlyConsole s ((s.atLine ln).final i tag crc r) :=
    line.trans (OnlySessions.final _ i tag crc r).onlyConsole
  unfold State.judged
  dsimp only
  split
  · exact .inl rfl
  · split
    · exact .inl (final ..)
    · split
      · split
        · exact .inl (final ..)
        · split
          · exact .inl (final ..)
          · split
            · split
              · exact .inr rfl
              · split
                · exact .inl (line.trans rfl)
                · exact .inl (final ..)
            · exact .inr rfl
      · exact .inl (final ..)

theorem StacksCanonical.onlyConsole {s u : State} (k : StacksCanonical s) (h : OnlyConsole s u) : StacksCanonical u := by
  unfold OnlyConsole at h
  rw [h]
  exact k

theorem StacksCanonical.judged {s : State} (k : StacksCanonical s) (ln : Ln) (need : Level) (boot : Bool) {body : State → State}
    (h : ∀ u, StacksCanonical u → StacksCanonical (body u)) : StacksCanonical (s.judged ln need boot body) := by
  obtain only | runs := s.judged_stops_or_runs ln need boot body
  · exact k.onlyConsole only
  · rw [runs]
    obtain ⟨e, -⟩ := OnlySessions.atLine s ln
    exact h _ (by rw [e]; exact k)

theorem execRestoreDie_canonical (die : DieName) (passed : Bool) (ln : Ln) {s : State} (k : StacksCanonical s) :
    ∃ u, execRestoreDie die passed ln s = .next u ∧ StacksCanonical u := by
  refine ⟨_, rfl, k.judged _ _ _ fun u ku => ?_⟩
  dsimp only
  split
  · exact StacksCanonical.of_hbm (State.err_hbm _ _ _ _) ku
  · split
    · exact StacksCanonical.of_hbm (State.err_hbm _ _ _ _) ku
    · split
      · exact StacksCanonical.of_hbm ((State.refuse_hbm _ _ _).trans (State.tapTest_hbm _ _)) ku
      · exact StacksCanonical.of_hbm ((State.ok_hbm _ _ _).trans ((State.ring_hbm _ _ _ _).trans (State.reinject_hbm _)))
          ((StacksCanonical.of_hbm (State.tapTest_hbm _ _) ku).dieBack die)

theorem execBootMapAndReady_canonical (flashOk : Bool) (t : Time) {s : State} (k : StacksCanonical s) :
    ∃ u, execBootMapAndReady flashOk t s = .next u ∧ StacksCanonical u := by
  have entries : StacksCanonical (s.tick t).bootEntries := StacksCanonical.of_hbm (State.bootEntries_hbm (s.tick t)) k
  refine ⟨_, rfl, State.event_cases (P := StacksCanonical) _ _ _ _ k ?_⟩
  dsimp only
  split
  · exact k
  · exact entries.becomeReady _

theorem State.leaveReset_hbm (s : State) (jtagEn : Bool) : (s.leaveReset jtagEn).hbm = s.hbm :=
  State.modFlash_hbm s fun f => { f with reached := false, faults := f.faults.map fun b => { b with prior := true } }

theorem execResetEngine_canonical (confirm : Bool) (ln : Ln) {s : State} (k : StacksCanonical s) :
    ∃ u, execResetEngine confirm ln s = .next u ∧ StacksCanonical u := by
  refine ⟨_, rfl, k.judged _ _ _ fun u ku => ?_⟩
  split
  · refine StacksCanonical.of_hbm (State.leaveReset_hbm _ _) (StacksCanonical.of_hbm (State.setCs_hbm _ _ _) ?_)
    exact stacksCanonical_inReset rfl
  · exact StacksCanonical.of_hbm (State.err_hbm _ _ _ _) ku

theorem execRailsFall_canonical (t : Time) {s : State} (k : StacksCanonical s) :
    ∃ u, execRailsFall t s = .next u ∧ StacksCanonical u := by
  unfold execRailsFall
  dsimp only
  split
  · exact ⟨_, rfl, stacksCanonical_inReset rfl⟩
  · exact ⟨_, rfl, k⟩

theorem exec_canonical (c : Instr) {s : State} (k : StacksCanonical s) : ∃ u, exec c s = .next u ∧ StacksCanonical u := by
  cases h : writesStack c with
  | false => exact (exec_hbm c h s).imp fun _ ⟨e, q⟩ => ⟨e, k.of_hbm q⟩
  | true =>
    cases c
    case memReqReceived => exact execMemReqReceived_canonical _ _ _ _ _ k
    case pageScrub => exact execPageScrub_canonical _ _ _ k
    case stackTempRead => exact execStackTempRead_canonical _ _ _ k
    case restoreDie => exact execRestoreDie_canonical _ _ _ k
    case bootMapAndReady => exact execBootMapAndReady_canonical _ _ k
    case resetAssert => exact ⟨_, rfl, stacksCanonical_inReset rfl⟩
    case resetEngine => exact execResetEngine_canonical _ _ k
    case railsFall => exact execRailsFall_canonical _ k
    all_goals cases h

/-- Settles O52: only the commands of `writesStack` write to a stack, and each of them keeps the canonical form. -/
theorem stacksStayCanonical : Obligations.StacksStayCanonical := by
  intro s t k e
  obtain ⟨u, e', k'⟩ := step_cases (P := fun _ u => StacksCanonical u) s (fun _ => k) fun c rest _ => exec_canonical c k
  cases e.symm.trans e'
  exact k'

/-! The place and the addresses in force. -/

/-- The place in the flock and the addresses in force, as `State.core` holds them. -/
def SameInForce (s t : State) : Prop := t.place = s.place ∧ t.net = s.net

theorem SameInForce.of_core {s t : State} (h : t.core = s.core) : SameInForce s t :=
  ⟨congrArg Core.place h, congrArg Core.net h⟩

theorem OnlyConsole.inForce {s u : State} (h : OnlyConsole s u) : SameInForce s u := by
  unfold OnlyConsole at h
  rw [h]
  exact ⟨rfl, rfl⟩

theorem CoreAtSomeMoment.inForce {s u : State} (h : CoreAtSomeMoment s u) : SameInForce s u := by
  obtain ⟨t, h | h⟩ := h
  · exact SameInForce.of_core (s := s.tick t) h
  · exact SameInForce.of_core (s := (s.tick t).cutFlash) h

theorem execResetRelease_inForce (j : Bool) (t : Time) (s : State) : ∃ u, execResetRelease j t s = .next u ∧ SameInForce s u := by
  refine ⟨_, rfl, ?_⟩
  split
  · obtain ⟨place, net⟩ := SameInForce.of_core (State.modFlash_core (s.tick t) fun f =>
      { f with reached := false, faults := f.faults.map fun b => { b with prior := true } })
    exact ⟨place, net⟩
  · exact ⟨rfl, rfl⟩

theorem execPwrFailAssert_inForce (t : Time) (s : State) : ∃ u, execPwrFailAssert t s = .next u ∧ SameInForce s u := by
  refine ⟨_, rfl, ?_⟩
  split
  · exact SameInForce.of_core (s := { s.tick t with pwrFail := true, pwrFailAt := some (s.tick t).now, faultN := true, ready := false })
      (State.ring_core _ _ _ _)
  · exact ⟨rfl, rfl⟩

theorem execPwrFailFlashFreeze_inForce (t : Time) (s : State) : ∃ u, execPwrFailFlashFreeze t s = .next u ∧ SameInForce s u :=
  ⟨_, rfl, State.event_cases (P := SameInForce s) _ _ _ _ ⟨rfl, rfl⟩ ⟨rfl, rfl⟩⟩

theorem execPwrFailDeassert_inForce (t : Time) (s : State) : ∃ u, execPwrFailDeassert t s = .next u ∧ SameInForce s u := by
  refine ⟨_, rfl, ?_⟩
  split <;> exact ⟨rfl, rfl⟩

theorem execRaiseSvn_inForce (ln : Ln) (s : State) : ∃ u, execRaiseSvn ln s = .next u ∧ SameInForce s u := by
  refine ⟨_, rfl, ?_⟩
  obtain only | runs := s.judged_stops_or_runs ln .admin false _
  · exact only.inForce
  · rw [runs]
    obtain ⟨place, net⟩ := (OnlySessions.atLine s ln).onlyConsole.inForce
    dsimp only
    split
    · obtain ⟨p, n⟩ := SameInForce.of_core (State.err_core (s.atLine ln) ln 404 _)
      exact ⟨p.trans place, n.trans net⟩
    · obtain ⟨p, n⟩ := SameInForce.of_core (State.ok_core
        ({ s.atLine ln with fuses := { (s.atLine ln).fuses with svn := ((s.atLine ln).shc ((s.atLine ln).active.getD 0)).svn } }) ln _)
      exact ⟨p.trans place, n.trans net⟩

theorem exec_inForce (c : Instr) (h : resets c = false) (s : State) : ∃ u, exec c s = .next u ∧ SameInForce s u := by
  cases hc : actsOnCore c with
  | false => exact (exec_core c hc s).imp fun _ ⟨e, k⟩ => ⟨e, k.inForce⟩
  | true =>
    cases c
    case resetRelease => exact execResetRelease_inForce ..
    case pwrFailAssert => exact execPwrFailAssert_inForce ..
    case pwrFailFlashFreeze => exact execPwrFailFlashFreeze_inForce ..
    case pwrFailDeassert => exact execPwrFailDeassert_inForce ..
    case raiseSvn => exact execRaiseSvn_inForce ..
    case resetAssert | resetEngine | railsFall => cases h
    all_goals cases hc

/-- Settles O56. -/
theorem settingsAndPlacementChangeByTheirCommands : Obligations.SettingsAndPlacementChangeByTheirCommands := by
  refine ⟨fun c h s => ?_, fun c h s => exec_inForce c h s⟩
  obtain ⟨u, e, k⟩ := exec_cfg c h s
  simp only [State.cfg, Cfg.mk.injEq] at k
  exact ⟨u, e, k⟩

end Sys2Proof.Machine

/-! Views: every outcome of one is a number of answers. -/
namespace Sys2Proof.Machine

open Sys2Proof

theorem OnlySessions.answer (s : State) (ln : Ln) (r : RLine) : OnlySessions s (s.answer ln r) := by
  cases r with
  | part kv => exact .say s _ _
  | ok kv => exact .final s _ _ _ _
  | err code kv => exact .final s _ _ _ _

theorem OnlySessions.ok (s : State) (ln : Ln) (kv : KVs) : OnlySessions s (s.ok ln kv) := .answer s ln _

theorem OnlySessions.err (s : State) (ln : Ln) (code : Nat) (kv : KVs) : OnlySessions s (s.err ln code kv) := .answer s ln _

theorem OnlySessions.foldl {α : Type} {f : State → α → State} (h : ∀ s a, OnlySessions s (f s a)) (l : List α) (s : State) :
    OnlySessions s (l.foldl f s) := by
  induction l generalizing s with
  | nil => exact .refl s
  | cons a l ih => exact (h s a).trans (ih _)

theorem OnlySessions.parts (s : State) (ln : Ln) (ps : List KVs) (kv : KVs) : OnlySessions s (s.parts ln ps kv) :=
  (OnlySessions.foldl (fun s p => .answer s ln (.part p)) ps s).trans (.ok _ ln _)

theorem OnlySessions.inRange {s : State} {ln : Ln} {key : String} {x lo hi : Nat} {body : State → State}
    (h : OnlySessions s (body s)) : OnlySessions s (s.inRange ln key x lo hi body) := by
  unfold State.inRange
  split
  · exact h
  · exact .err s ln _ _

theorem OnlySessions.onFold {s : State} {ln : Ln} {id : Nat} {body : Fold → State} (h : ∀ f, OnlySessions s (body f)) :
    OnlySessions s (s.onFold ln id body) := by
  unfold State.onFold
  split
  · exact h _
  · exact .err s ln _ _

/-- A command whose body only answers is a view. -/
theorem State.judged_view {s : State} {ln : Ln} {need : Level} {boot : Bool} {body : State → State}
    (h : ∀ u, OnlySessions u (body u)) : OnlyConsole s (s.judged ln need boot body) := by
  obtain only | runs := s.judged_stops_or_runs ln need boot body
  · exact only
  · rw [runs]
    exact ((OnlySessions.atLine s ln).trans (h _)).onlyConsole

theorem State.sessionVerb_view {s : State} {ln : Ln} {body : State → State} (h : ∀ u, OnlySessions u (body u)) :
    OnlyConsole s (s.sessionVerb ln body) := by
  unfold State.sessionVerb
  dsimp only
  split
  · exact (OnlySessions.tick s ln.t).onlyConsole
  · split
    · exact ((OnlySessions.atLine s ln).trans (.final _ _ _ _ _)).onlyConsole
    · exact ((OnlySessions.atLine s ln).trans (h _)).onlyConsole

theorem showBoot_view (ln : Ln) : Always (.showBoot ln) OnlyConsole := fun _ => ⟨_, rfl, State.judged_view fun u => .parts u ln _ _⟩

theorem showShc_view (ln : Ln) : Always (.showShc ln) OnlyConsole := fun _ => ⟨_, rfl, State.judged_view fun u => .parts u ln _ _⟩

theorem showStage_view (ln : Ln) : Always (.showStage ln) OnlyConsole := fun _ => ⟨_, rfl, State.judged_view fun u => .parts u ln _ _⟩

theorem showPower_view (ln : Ln) : Always (.showPower ln) OnlyConsole := fun _ => ⟨_, rfl, State.judged_view fun u => .parts u ln _ _⟩

theorem showThermal_view (ln : Ln) : Always (.showThermal ln) OnlyConsole := fun _ => ⟨_, rfl, State.judged_view fun u => .parts u ln _ _⟩

theorem showFlock_view (ln : Ln) : Always (.showFlock ln) OnlyConsole := fun _ => ⟨_, rfl, State.judged_view fun u => .parts u ln _ _⟩

theorem showFolds_view (ln : Ln) : Always (.showFolds ln) OnlyConsole := fun _ => ⟨_, rfl, State.judged_view fun u => .parts u ln _ _⟩

theorem showUsers_view (ln : Ln) : Always (.showUsers ln) OnlyConsole := fun _ => ⟨_, rfl, State.judged_view fun u => .parts u ln _ _⟩

theorem ping_view (ln : Ln) : Always (.ping ln) OnlyConsole := fun _ => ⟨_, rfl, State.sessionVerb_view fun u => .ok u ln _⟩

theorem showSensors_view (at_ : Sum Loc DieName) (ln : Ln) : Always (.showSensors at_ ln) OnlyConsole := by
  refine fun s => ⟨_, rfl, State.judged_view fun u => ?_⟩
  dsimp only
  rcases at_ with (_ | _ | _ | _) | (_ | _ | _ | _)
  case inl.rect | inl.slot | inl.field => exact .err u ln _ _
  all_goals
    dsimp only
    split
    · exact .parts u ln _ _
    · exact .err u ln _ _

theorem showChannel_view (h : Sum (BitVec 32) Nat) (ln : Ln) : Always (.showChannel h ln) OnlyConsole := by
  refine fun s => ⟨_, rfl, State.judged_view fun u => ?_⟩
  cases h <;>
    dsimp only <;>
    split
  · exact .err u ln _ _
  · exact .parts u ln _ _
  · exact .err u ln _ _
  · exact .parts u ln _ _

theorem showMap_view (at_ : Option (List Loc)) (ln : Ln) : Always (.showMap at_ ln) OnlyConsole := by
  refine fun s => ⟨_, rfl, State.judged_view fun u => ?_⟩
  cases at_ with
  | none => exact .ok u ln _
  | some ls =>
    dsimp only
    split
    · exact .err u ln _ _
    · exact .parts u ln _ _

theorem showPort_view (n : Nat) (p : Option Nat) (ln : Ln) : Always (.showPort n p ln) OnlyConsole := by
  refine fun s => ⟨_, rfl, State.judged_view fun u => .inRange ?_⟩
  dsimp only
  split
  · exact .err u ln _ _
  · exact .parts u ln _ _

theorem showLink_view (c r dir : Nat) (lane : Option Nat) (ln : Ln) : Always (.showLink c r dir lane ln) OnlyConsole := by
  refine fun s => ⟨_, rfl, State.judged_view fun u => ?_⟩
  dsimp only
  split
  · exact .err u ln _ _
  · exact .inRange (.parts u ln _ _)

theorem showSpan_view (n : Nat) (ln : Ln) : Always (.showSpan n ln) OnlyConsole := by
  refine fun s => ⟨_, rfl, State.judged_view fun u => ?_⟩
  dsimp only
  split
  · exact .err u ln _ _
  · exact .ok u ln _

theorem showTally_view (sc : Scope) (id : Nat) (i : Option Nat) (ln : Ln) : Always (.showTally sc id i ln) OnlyConsole := by
  refine fun s => ⟨_, rfl, State.judged_view fun u => ?_⟩
  dsimp only
  split
  · exact .err u ln _ _
  · cases i with
    | none => exact .parts u ln _ _
    | some i =>
      dsimp only
      split
      · exact .parts u ln _ _
      · exact .err u ln _ _

theorem verifyLedger_view (data : List Byte) (ln : Ln) : Always (.verifyLedger data ln) OnlyConsole := by
  refine fun s => ⟨_, rfl, State.judged_view fun u => ?_⟩
  split
  · exact .err u ln _ _
  · exact .ok u ln _

/-- Settles O58. -/
theorem viewsChangeNothing : Obligations.ViewsChangeNothing :=
  ⟨fun _ ln _ => ⟨_, rfl, State.judged_view fun u => .ok u ln _⟩,
    fun ln => ⟨showBoot_view ln, showShc_view ln, showStage_view ln, showPower_view ln, showThermal_view ln, showFlock_view ln,
      showFolds_view ln, showUsers_view ln, ping_view ln⟩,
    showSensors_view, showChannel_view, showMap_view, showPort_view, showLink_view,
    fun n _ ln => ⟨showSpan_view n ln, fun _ => ⟨_, rfl, State.judged_view fun u => .onFold fun _ => .ok u ln _⟩,
      fun _ => ⟨_, rfl, State.judged_view fun u => .onFold fun _ => .ok u ln _⟩,
      fun _ => ⟨_, rfl, State.judged_view fun u => .inRange (.ok u ln _)⟩,
      fun _ => ⟨_, rfl, State.judged_view fun u => .inRange (.inRange (.ok u ln _))⟩⟩,
    showTally_view, fun _ _ _ ln _ => ⟨_, rfl, State.judged_view fun u => .inRange (.parts u ln _ _)⟩,
    fun _ _ _ ln _ => ⟨_, rfl, State.judged_view fun u => .inRange (.inRange (.parts u ln _ _))⟩, verifyLedger_view⟩

end Sys2Proof.Machine

/-! Reset and power failure (R597, R598, R698–R701). -/
namespace Sys2Proof.Machine

open Sys2Proof

/-- Where the answer is known to be `y`, it is enough to speak of `y`. -/
theorem next_of_eq {x y : State} {P : State → Prop} (e : x = y) (p : P y) :
    ∃ u, (Host.Outcome.next x : Host.Outcome State Fault Refusal) = .next u ∧ P u :=
  ⟨y, congrArg _ e, p⟩

/-- An event whose condition holds, out of reset, is its effect at its moment. -/
theorem event_next {s : State} {t : Time} {c : State → Bool} {f : State → State} {P : State → Prop} (r : s.resetN = false)
    (h : c (s.tick t) = true) (p : P (f (s.tick t))) : ∃ u, Host.Outcome.next (s.event t c f) = (.next u : Host.Outcome State Fault Refusal) ∧ P u :=
  next_of_eq (State.event_fires r h) p

theorem State.ring_pins (s : State) (obj : String) (fault : Bool) (kv : KVs) :
    (s.ring obj fault kv).pwrFail = s.pwrFail ∧ (s.ring obj fault kv).pwrFailAt = s.pwrFailAt
      ∧ (s.ring obj fault kv).faultN = s.faultN ∧ (s.ring obj fault kv).ready = s.ready := by
  simp

/-- Settles O46. -/
theorem resetAndPowerFail : Obligations.ResetAndPowerFail := by
  refine ⟨fun t s => ⟨_, rfl, rfl, rfl, rfl, rfl, rfl, rfl, rfl, rfl, rfl, rfl, rfl, rfl⟩, fun jtag t s held => ?release,
    fun jtag t s out => ?noRelease, fun t s => ?failing, fun t s running failing => ?freeze, fun t s failing => ?back, fun t s failing => ?fall⟩
  case release => exact next_of_eq (if_pos held) ⟨rfl, rfl, rfl, rfl, rfl⟩
  case noRelease =>
    refine next_of_eq (if_neg ?_) rfl
    simp [out]
  case failing =>
    by_cases held : s.resetN = true
    · refine next_of_eq (if_neg (by simp [State.running, held])) ⟨rfl, fun out => ?_, fun _ => rfl⟩
      exact absurd (held.symm.trans out) nofun
    · refine next_of_eq (if_pos (by simp [State.running, held])) ?_
      obtain ⟨pwrFail, pwrFailAt, faultN, ready⟩ := State.ring_pins
        { s.tick t with pwrFail := true, pwrFailAt := some (s.tick t).now, faultN := true, ready := false } "bus" true
        [("state", .word "power-fail")]
      exact ⟨pwrFail, fun _ => ⟨pwrFailAt, faultN, ready⟩, fun c => absurd c held⟩
  case freeze =>
    refine event_next running failing ?_
    rfl
  case back => exact next_of_eq (if_pos failing) rfl
  case fall => exact ⟨_, if_pos failing, rfl, rfl, rfl, rfl, rfl, rfl, rfl, rfl⟩

end Sys2Proof.Machine

/-! What a request of a memory edge die reads: the last write before it in the write queue, else the stack (R362, R363, R369, R371). -/
namespace Sys2Proof.Machine

open Sys2Proof

/-- Whether a queued write is at an address and before a request in the order of command flits. -/
def MedWrite.reaches (a order : Nat) (w : MedWrite) : Bool := w.addr = a && decide (w.order < order)

/-- The last of some writes at an address that a request of place `order` comes after. -/
def lastWrite (l : List MedWrite) (order a : Nat) : Option MedWrite := l.reverse.find? (MedWrite.reaches a order)

theorem Med.blockFor_eq (m : Med) (order a : Nat) :
    m.blockFor order a = ((lastWrite m.wq order a).map (·.block)).getD (tabGet HbmBlock.empty m.store a) := by
  unfold Med.blockFor lastWrite MedWrite.reaches
  split <;> simp only [*, Option.map_some, Option.map_none, Option.getD_some, Option.getD_none]

theorem lastWrite_append (l k : List MedWrite) (order a : Nat) :
    lastWrite (l ++ k) order a = (lastWrite k order a).or (lastWrite l order a) := by
  simp [lastWrite, List.find?_append]

theorem lastWrite_eq_none {l : List MedWrite} {order a : Nat} (h : ∀ w ∈ l, w.reaches a order = false) : lastWrite l order a = none := by
  simpa [lastWrite] using h

/-- The only write that a request can find at its address is the one that it finds. -/
theorem lastWrite_eq_some {l : List MedWrite} {order a : Nat} {w : MedWrite} (mem : w ∈ l) (reaches : w.reaches a order = true)
    (only : ∀ x ∈ l, x.reaches a order = true → x = w) : lastWrite l order a = some w := by
  unfold lastWrite
  cases e : l.reverse.find? (MedWrite.reaches a order) with
  | none =>
    have := List.find?_eq_none.mp e w (List.mem_reverse.mpr mem)
    exact absurd reaches this
  | some x => rw [only x (List.mem_reverse.mp (List.mem_of_find?_eq_some e)) (List.find?_some e)]

/-- A list in order falls into the elements that a rising condition holds of and those it does not. -/
theorem filter_append_filter_not {α : Type} {r : α → α → Prop} {p : α → Bool} (rising : ∀ x y, r x y → p y = true → p x = true)
    {l : List α} (sorted : l.Pairwise r) : l.filter p ++ l.filter (fun x => !p x) = l := by
  induction sorted with
  | nil => rfl
  | @cons x l head _ ih =>
    cases hx : p x with
    | true => simpa [hx] using ih
    | false =>
      have none : ∀ y ∈ l, p y = false := fun y hy => by
        by_contra c
        rw [rising x y (head y hy) (by simpa using c)] at hx
        cases hx
      have no : l.filter p = [] := List.filter_eq_nil_iff.mpr fun y hy => by simp [none y hy]
      have all : l.filter (fun y => !p y) = l := List.filter_eq_self.mpr fun y hy => by simp [none y hy]
      simp [hx, no, all]

/-- The writes that a message of place `order` puts into the queue. -/
def Med.newWrites (m : Med) (order med page off : Nat) (bs : List Byte) : List MedWrite :=
  (List.range (bs.length / 16)).map fun i =>
    ⟨order, blockAddr page (off + 16 * i),
      ⟨tabGet [] m.slots (leFold (m.lease page)), xtsTweak (m.lease page) med (off + 16 * i), slice bs (16 * i) 16⟩⟩

theorem Med.writeBytes_wq (m : Med) (order med page off : Nat) (bs : List Byte) :
    (m.writeBytes order med page off bs).wq = m.wq.filter (fun w => decide (w.order ≤ order)) ++ m.newWrites order med page off bs
      ++ m.wq.filter fun w => decide (order < w.order) := rfl

theorem blockAddr_step {page off i : Nat} (aligned : off % 16 = 0) : blockAddr page (off + 16 * i) = page * 131072 + off / 16 + i := by
  unfold blockAddr
  omega

theorem slice_eq_take_drop {bs : List Byte} {o n : Nat} (h : o + n ≤ bs.length) : slice bs o n = (bs.drop o).take n := by
  refine List.ext_getElem (by simp [slice]; omega) fun i h1 h2 => ?_
  have : i < n := by simpa [slice] using h1
  simp [slice, List.getD_eq_getElem?_getD, List.getElem?_eq_getElem (show o + i < bs.length by omega)]

/-- Cut into sixteens, bytes are whole again. -/
theorem flatMap_slices {bs : List Byte} {n : Nat} (h : 16 * n ≤ bs.length) :
    (List.range n).flatMap (fun i => slice bs (16 * i) 16) = bs.take (16 * n) := by
  induction n with
  | zero => rfl
  | succ n ih =>
    rw [List.range_succ, List.flatMap_append, ih (by omega), List.flatMap_singleton, slice_eq_take_drop (by omega), Nat.mul_succ,
      List.take_add]

/-- A block just written is found by every later request that no other write comes between. -/
theorem Med.blockFor_writeBytes {m : Med} {w r med page off i : Nat} {bs : List Byte} (aligned : off % 16 = 0) (later : w < r)
    (between : ∀ x ∈ m.wq, x.order ≤ w ∨ r ≤ x.order) (hi : i < bs.length / 16) :
    (m.writeBytes w med page off bs).blockFor r (blockAddr page (off + 16 * i)) =
      ⟨tabGet [] m.slots (leFold (m.lease page)), xtsTweak (m.lease page) med (off + 16 * i), slice bs (16 * i) 16⟩ := by
  have after : lastWrite (m.wq.filter fun x => decide (w < x.order)) r (blockAddr page (off + 16 * i)) = none :=
    lastWrite_eq_none fun x hx => by
      obtain ⟨hx, hw⟩ := List.mem_filter.mp hx
      have := between x hx
      have : w < x.order := by simpa using hw
      simp [MedWrite.reaches]
      omega
  have new : lastWrite (m.newWrites w med page off bs) r (blockAddr page (off + 16 * i)) = some ⟨w, blockAddr page (off + 16 * i),
      ⟨tabGet [] m.slots (leFold (m.lease page)), xtsTweak (m.lease page) med (off + 16 * i), slice bs (16 * i) 16⟩⟩ := by
    refine lastWrite_eq_some (List.mem_map.mpr ⟨i, List.mem_range.mpr hi, rfl⟩) (by simp [MedWrite.reaches, later]) fun x hx reaches => ?_
    obtain ⟨j, -, rfl⟩ := List.mem_map.mp hx
    have : blockAddr page (off + 16 * j) = blockAddr page (off + 16 * i) ∧ w < r := by simpa [MedWrite.reaches] using reaches
    rw [blockAddr_step aligned, blockAddr_step aligned] at this
    rw [show j = i by omega]
  rw [Med.blockFor_eq, Med.writeBytes_wq, lastWrite_append, lastWrite_append, after, new]
  rfl

theorem Med.readBytes_writeBytes {m : Med} {w r med page off n : Nat} {bs : List Byte} (aligned : off % 16 = 0) (len : bs.length = 16 * n)
    (later : w < r) (between : ∀ x ∈ m.wq, x.order ≤ w ∨ r ≤ x.order) (keyed : tabGet [] m.slots (leFold (m.lease page)) ≠ []) :
    (m.writeBytes w med page off bs).readBytes r med page off n = bs := by
  have block : ∀ i ∈ List.range n, (m.writeBytes w med page off bs).readBlock r (tabGet [] m.slots (leFold (m.lease page)))
      (xtsTweak (m.lease page) med (off + 16 * i)) (blockAddr page (off + 16 * i)) = slice bs (16 * i) 16 := fun i hi => by
    have := List.mem_range.mp hi
    simp [Med.readBlock, Med.blockFor_writeBytes aligned later between (show i < bs.length / 16 by omega), keyed]
  calc (m.writeBytes w med page off bs).readBytes r med page off n
      = (List.range n).flatMap fun i => slice bs (16 * i) 16 := List.flatMap_congr block
    _ = bs := by rw [flatMap_slices (by omega), ← len, List.take_length]

theorem Med.readBlock_congr {m k : Med} {order a : Nat} (h : k.blockFor order a = m.blockFor order a) (key : KeyLabel) (tweak : Nat) :
    k.readBlock order key tweak a = m.readBlock order key tweak a := by
  simp only [Med.readBlock, h]

theorem rising_le (o : Nat) (x y : MedWrite) (h : x.order ≤ y.order) (hy : decide (y.order ≤ o) = true) :
    decide (x.order ≤ o) = true := by
  simp only [decide_eq_true_eq] at *
  omega

theorem rising_lt (o : Nat) (x y : MedWrite) (h : x.order ≤ y.order) (hy : decide (y.order < o) = true) :
    decide (x.order < o) = true := by
  simp only [decide_eq_true_eq] at *
  omega

/-- A write leaves every block aside from its own as the queue in order had it. -/
theorem Med.blockFor_writeBytes_other {m : Med} {w r med page off a : Nat} {bs : List Byte}
    (other : ∀ i < bs.length / 16, a ≠ blockAddr page (off + 16 * i)) (sorted : m.wq.Pairwise fun x y => x.order ≤ y.order) :
    (m.writeBytes w med page off bs).blockFor r a = m.blockFor r a := by
  have new : lastWrite (m.newWrites w med page off bs) r a = none := lastWrite_eq_none fun x hx => by
    obtain ⟨i, hi, rfl⟩ := List.mem_map.mp hx
    simp [MedWrite.reaches, (other i (List.mem_range.mp hi)).symm]
  have whole := filter_append_filter_not (rising_le w) sorted
  simp only [← decide_not, not_le] at whole
  rw [Med.blockFor_eq, Med.blockFor_eq, Med.writeBytes_wq, lastWrite_append, lastWrite_append, new, Option.none_or, ← lastWrite_append,
    whole]
  rfl

/-- What the stack holds after writes in order: the last one at an address, else what it held. -/
theorem tabGet_drained (l : List MedWrite) (store : Tab HbmBlock) (a : Nat) :
    tabGet HbmBlock.empty (l.foldl (fun s w => tabSet HbmBlock.empty s w.addr w.block) store) a
      = ((l.reverse.find? fun w => w.addr = a).map (·.block)).getD (tabGet HbmBlock.empty store a) := by
  induction l generalizing store with
  | nil => rfl
  | cons w l ih =>
    rw [List.foldl_cons, ih, tabGet_set, List.reverse_cons, List.find?_append]
    cases l.reverse.find? fun w => w.addr = a with
    | some x => rfl
    | none =>
      by_cases h : a = w.addr
      · simp [h]
      · simp [h, Ne.symm h]

/-- Writing the queue out moves writes from the queue to the stack, where a later request finds them. -/
theorem Med.blockFor_drain {m : Med} {o r a : Nat} (later : o ≤ r) (sorted : m.wq.Pairwise fun x y => x.order ≤ y.order) :
    (m.drain o).blockFor r a = m.blockFor r a := by
  have whole := filter_append_filter_not (rising_lt o) sorted
  simp only [← decide_not, not_lt] at whole
  have out : lastWrite (m.wq.filter fun w => decide (w.order < o)) r a
      = (m.wq.filter fun w => decide (w.order < o)).reverse.find? fun w => w.addr = a := by
    refine List.find?_congr fun x hx => ?_
    have : x.order < o := by simpa using (List.mem_filter.mp (List.mem_reverse.mp hx)).2
    simp [MedWrite.reaches, show x.order < r by omega]
  rw [Med.blockFor_eq m, ← whole, lastWrite_append, out, Med.blockFor_eq]
  simp only [Med.drain, tabGet_drained]
  cases lastWrite (m.wq.filter fun w => decide (o ≤ w.order)) r a <;> rfl

theorem tabGet_filter_other {α : Type} {d : α} {t : Tab α} {a : Nat} {p : Nat × α → Bool} (h : ∀ v, p (a, v) = true) :
    tabGet d (t.filter p) a = tabGet d t a := by
  induction t with
  | nil => rfl
  | cons x t ih =>
    obtain ⟨i, v⟩ := x
    rw [List.filter_cons]
    by_cases c : i = a
    · simp [c, h v, tabGet]
    · split <;> simp [tabGet, c, ih]

theorem Med.blockFor_scrub {m : Med} {r page a : Nat} (other : a / 131072 ≠ page) : (m.scrub page).blockFor r a = m.blockFor r a := by
  unfold Med.scrub
  dsimp only
  split
  · simp only [Med.blockFor_eq, tabGet_filter_other (p := fun b : Nat × HbmBlock => decide (b.1 / 131072 ≠ page))
      (fun _ => decide_eq_true other)]
  · rfl

/-- Settles O54. -/
theorem writtenBytesAreReadBack : Obligations.WrittenBytesAreReadBack :=
  ⟨fun _ _ _ _ _ _ _ _ aligned len later between keyed => Med.readBytes_writeBytes aligned len later between keyed,
    fun _ _ _ _ _ _ _ key tweak _ other sorted => Med.readBlock_congr (Med.blockFor_writeBytes_other other sorted) key tweak,
    fun _ _ _ key tweak _ later sorted => Med.readBlock_congr (Med.blockFor_drain later sorted) key tweak,
    fun _ _ _ key tweak _ other => Med.readBlock_congr (Med.blockFor_scrub other) key tweak⟩

end Sys2Proof.Machine

/-! What the operations of edge dies, links, folds, consoles and the flash leave alone of the plant: paddocks, fields, the map, the
power-up wave, PMBus and the sensors. A lemma for each operation, as in Laws/ for the other parts of the state. -/
namespace Sys2Proof.Machine

open Sys2Proof

/-- A field but for the die that injects its reference, which the doubt of a die can change (R559). -/
def Field.sansInjector (x : Field) : Field := { x with injector := none }

/-- What these operations never change. -/
structure Plant where
  pads : Tab Paddock
  map : Tab MapEntry
  wave : List (Nat × Power)
  lastWave : Time
  unreach : List Nat
  telem : Tab Telem
  busA : BusSt
  busB : BusSt
  nedTemp : List (Int × Nat)
  spdTemp : List (Int × Nat)
  medTemp : List (Int × Nat)
  fields : Nat → Field

def State.plant (s : State) : Plant :=
  ⟨s.pads, s.map, s.wave, s.lastWave, s.unreach, s.telem, s.busA, s.busB, s.nedTemp, s.spdTemp, s.medTemp, fun f => (tabGet Field.initial s.fields f).sansInjector⟩

theorem plant_mk (now) (freeCtr) (resetN) (pwrFail) (pwrFailAt) (frozen) (faultN) (alertN) (alertCause) (ready)
    (readyAt) (vstby) (fuses) (flash) (writing) (place) (net) (boot) (sel) (quiet) (active) (shcA) (shcB) (mirrorSeq)
    (mirrorProbe) (scratch) (sess) (con0) (con1) (waits) (garp) (stages) (nextStage) (retained) (fwUpdate) (bellSeq)
    (bells) (ledgerSeq) (ledgerHeld) (ledgerStopped) (ptpPort) (ptpHeard) (tallies) (busA) (busB) (shared) (telem)
    (unreach) (refAbsent) (refSince) (meshLocked) (inlet) (outlet) (loopSince) (wave) (lastWave) (map) (mapSeq) (pads)
    (fields) (links) (lane0) (neds) (meds) (spds) (nedTemp) (spdTemp) (medTemp) (flockUp) (flockMembers) (flockInfo)
    (excludedW) (folds) (scrubs) (paused) (secondAt) (incCtr) (channels) (sessions) (reports) (notices) (wsel) (wstat)
    (shadow) (taps) (wire) (pending) : (State.mk now freeCtr resetN pwrFail pwrFailAt frozen faultN alertN alertCause
    ready readyAt vstby fuses flash writing place net boot sel quiet active shcA shcB mirrorSeq mirrorProbe scratch
    sess con0 con1 waits garp stages nextStage retained fwUpdate bellSeq bells ledgerSeq ledgerHeld ledgerStopped
    ptpPort ptpHeard tallies busA busB shared telem unreach refAbsent refSince meshLocked inlet outlet loopSince wave
    lastWave map mapSeq pads fields links lane0 neds meds spds nedTemp spdTemp medTemp flockUp flockMembers flockInfo
    excludedW folds scrubs paused secondAt incCtr channels sessions reports notices wsel wstat shadow taps wire pending).plant =
    ⟨pads, map, wave, lastWave, unreach, telem, busA, busB, nedTemp, spdTemp, medTemp, fun f => (tabGet Field.initial fields f).sansInjector⟩ := rfl

theorem plant_eqs : (∀ s : State, s.pads = s.plant.pads) ∧ (∀ s : State, s.map = s.plant.map) ∧ (∀ s : State, s.wave = s.plant.wave) ∧ (∀ s : State, s.lastWave = s.plant.lastWave) ∧ (∀ s : State, s.unreach = s.plant.unreach) ∧ (∀ s : State, s.telem = s.plant.telem) ∧ (∀ s : State, s.busA = s.plant.busA) ∧ (∀ s : State, s.busB = s.plant.busB) ∧ (∀ s : State, s.nedTemp = s.plant.nedTemp) ∧ (∀ s : State, s.spdTemp = s.plant.spdTemp) ∧ (∀ s : State, s.medTemp = s.plant.medTemp)
    ∧ ∀ (s : State) (f : Nat), (tabGet Field.initial s.fields f).sansInjector = s.plant.fields f := by
  (repeat' apply And.intro) <;> intros <;> rfl

@[simp] theorem ite_plant (c : Prop) [Decidable c] (a b : State) : (if c then a else b).plant = if c then a.plant else b.plant := by
  split <;> rfl

@[simp] theorem foldl_plant {α : Type} (f : State → α → State) (h : ∀ s a, (f s a).plant = s.plant) (l : List α) (s : State) :
    (l.foldl f s).plant = s.plant := by
  induction l generalizing s with
  | nil => rfl
  | cons x xs ih => simp [ih, h]

theorem wire_plant (a : State) (w : List Wire) : ({ a with wire := w } : State).plant = a.plant := rfl

theorem setFlash_plant {s : State} (f : Flash) (h : s.frozen = false) : ({ s with flash := f } : State).plant = s.plant := rfl

theorem setWriting_plant {s : State} (w : Option (FlashWork × Time)) (h : s.frozen = false) : ({ s with writing := w } : State).plant = s.plant := rfl

@[simp] theorem State.tick_plant (s : State) (t : Time) : (s.tick t).plant = s.plant := rfl

@[simp] theorem State.setNed_plant (s : State) (k : Nat) (x : Ned) : (State.setNed s k x).plant = s.plant := by
  unfold State.setNed; simp only [State.plant, Plant.mk.injEq] <;> simp [↓plant_mk, plant_eqs]

@[simp] theorem State.modNed_plant (s : State) (k : Nat) (f : Ned → Ned) : (State.modNed s k f).plant = s.plant := by
  simp [State.modNed]

@[simp] theorem State.setMed_plant (s : State) (k : Nat) (x : Med) : (State.setMed s k x).plant = s.plant := by
  unfold State.setMed; simp only [State.plant, Plant.mk.injEq] <;> simp [↓plant_mk, plant_eqs]

@[simp] theorem State.modMed_plant (s : State) (k : Nat) (f : Med → Med) : (State.modMed s k f).plant = s.plant := by
  simp [State.modMed]

@[simp] theorem State.setSpd_plant (s : State) (k : Nat) (x : Spd) : (State.setSpd s k x).plant = s.plant := by
  unfold State.setSpd; simp only [State.plant, Plant.mk.injEq] <;> simp [↓plant_mk, plant_eqs]

@[simp] theorem State.modSpd_plant (s : State) (k : Nat) (f : Spd → Spd) : (State.modSpd s k f).plant = s.plant := by
  simp [State.modSpd]

@[simp] theorem State.setShc_plant (s : State) (i : Nat) (x : Shc) : (State.setShc s i x).plant = s.plant := by
  unfold State.setShc; simp only [State.plant, Plant.mk.injEq] <;> simp [↓plant_mk, plant_eqs]

@[simp] theorem State.modFlash_plant (s : State) (f : Flash → Flash) : (s.modFlash f).plant = s.plant := by
  unfold State.modFlash
  split
  · rfl
  · rename_i h
    exact setFlash_plant _ (by simpa using h)

@[simp] theorem State.modShc_plant (s : State) (i : Nat) (f : Shc → Shc) : (State.modShc s i f).plant = s.plant := by
  simp [State.modShc]

@[simp] theorem State.setLink_plant (s : State) (x lane : Nat) (l : LinkEnd) : (State.setLink s x lane l).plant = s.plant := by
  unfold State.setLink; simp only [State.plant, Plant.mk.injEq] <;> simp [↓plant_mk, plant_eqs]

@[simp] theorem State.modLink_plant (s : State) (x lane : Nat) (f : LinkEnd → LinkEnd) : (State.modLink s x lane f).plant = s.plant := by
  simp [State.modLink]

@[simp] theorem State.putFold_plant (s : State) (f : Fold) : (State.putFold s f).plant = s.plant := by
  unfold State.putFold; simp only [State.plant, Plant.mk.injEq] <;> simp [↓plant_mk, plant_eqs]

@[simp] theorem State.modFold_plant (s : State) (id : Nat) (g : Fold → Fold) : (State.modFold s id g).plant = s.plant := by
  unfold State.modFold; simp only [State.plant, Plant.mk.injEq] <;> simp [↓plant_mk, plant_eqs]

@[simp] theorem State.setSession_plant (s : State) (num : Nat) (x : Session) : (State.setSession s num x).plant = s.plant := by
  unfold State.setSession; simp only [State.plant, Plant.mk.injEq] <;> simp [↓plant_mk, plant_eqs]

@[simp] theorem State.putChannel_plant (s : State) (c : Channel) : (State.putChannel s c).plant = s.plant := by
  unfold State.putChannel; simp only [State.plant, Plant.mk.injEq] <;> simp [↓plant_mk, plant_eqs]

@[simp] theorem State.addTally_plant (s : State) (scope : TScope) (id idx n : Nat) : (State.addTally s scope id idx n).plant = s.plant := by
  unfold State.addTally; simp only [State.plant, Plant.mk.injEq] <;> simp [↓plant_mk, plant_eqs]

@[simp] theorem State.count_plant (s : State) (scope : TScope) (id idx : Nat) : (State.count s scope id idx).plant = s.plant := by
  simp [State.count]

@[simp] theorem State.noteStray_plant (s : State) (fold : Nat) : (State.noteStray s fold).plant = s.plant := by
  simp [State.noteStray]

@[simp] theorem State.countChan_plant (s : State) (ned bind handle idx n : Nat) : (State.countChan s ned bind handle idx n).plant = s.plant := by
  simp [State.countChan]

@[simp] theorem State.clearTallies_plant (s : State) (scope : TScope) (id : Nat) : (State.clearTallies s scope id).plant = s.plant := by
  unfold State.clearTallies; simp only [State.plant, Plant.mk.injEq] <;> simp [↓plant_mk, plant_eqs]

@[simp] theorem State.setFoldSt_plant (s : State) (id : Nat) (st : FoldState) : (State.setFoldSt s id st).plant = s.plant := by
  unfold State.setFoldSt; simp only [State.plant, Plant.mk.injEq] <;> simp [↓plant_mk, plant_eqs]

@[simp] theorem State.markThrottle_plant (s : State) (fld : Nat) : (State.markThrottle s fld).plant = s.plant := by
  unfold State.markThrottle; simp only [State.plant, Plant.mk.injEq] <;> simp [↓plant_mk, plant_eqs]

@[simp] theorem State.ring_plant (s : State) (obj : String) (fault : Bool) (kv : KVs) : (s.ring obj fault kv).plant = s.plant := by
  unfold State.ring
  split
  · rfl
  · exact (State.addTally_plant _ _ _ _ _).trans rfl

@[simp] theorem State.alert_plant (s : State) (row : Nat) : (State.alert s row).plant = s.plant := by
  unfold State.alert; simp only [State.plant, Plant.mk.injEq] <;> simp [↓plant_mk, plant_eqs]

@[simp] theorem State.report_plant (s : State) (tr : Trigger) (folds : List Nat) (place : Nat) : (State.report s tr folds place).plant = s.plant := by
  unfold State.report; simp only [State.plant, Plant.mk.injEq] <;> simp [↓plant_mk, plant_eqs]

@[simp] theorem State.dieBell_plant (s : State) (obj : String) (k cause : Nat) : (State.dieBell s obj k cause).plant = s.plant := by
  unfold State.dieBell; simp only [State.plant, Plant.mk.injEq] <;> simp [↓plant_mk, plant_eqs]

@[simp] theorem State.setInjector_plant (s : State) (f : Nat) (d : Option Nat) :
    (s.modField f fun x => { x with injector := d }).plant = s.plant := by
  have h (g : Nat) : ((s.modField f fun x => { x with injector := d }).field g).sansInjector = (s.field g).sansInjector := by
    rw [State.modField_field]
    split
    · rename_i e
      rw [e]
      rfl
    · rfl
  exact congrArg (Plant.mk s.pads s.map s.wave s.lastWave s.unreach s.telem s.busA s.busB s.nedTemp s.spdTemp s.medTemp) (funext h)

@[simp] theorem State.reinject_plant (s : State) : s.reinject.plant = s.plant := by
  simp [State.reinject]

@[simp] theorem State.pmbus_plant (s : State) (addr page cmd data : Nat) : (State.pmbus s addr page cmd data).plant = s.plant := by
  unfold State.pmbus; simp only [State.plant, Plant.mk.injEq] <;> simp [↓plant_mk, plant_eqs]

@[simp] theorem State.draw_plant (s : State) : s.draw.2.plant = s.plant := rfl

@[simp] theorem drawBytes_plant (n : Nat) (s : State) : (drawBytes n s).2.plant = s.plant := by
  induction n generalizing s with
  | zero => rfl
  | succ n ih => exact ih _

@[simp] theorem State.ack_plant (s : State) : (State.ack s).plant = s.plant := by
  unfold State.ack; simp only [State.plant, Plant.mk.injEq] <;> simp [↓plant_mk, plant_eqs]

@[simp] theorem State.setCs_plant (s : State) (i : Nat) (c : CSess) : (State.setCs s i c).plant = s.plant := by
  unfold State.setCs; simp only [State.plant, Plant.mk.injEq] <;> simp [↓plant_mk, plant_eqs]

@[simp] theorem State.modCs_plant (s : State) (i : Nat) (f : CSess → CSess) : (State.modCs s i f).plant = s.plant := by
  simp [State.modCs]

@[simp] theorem State.say_plant (s : State) (i : Nat) (o : Out) : (State.say s i o).plant = s.plant := by
  simp [State.say]

@[simp] theorem State.prompt_plant (s : State) (i : Nat) : (State.prompt s i).plant = s.plant := by
  simp [State.prompt]

@[simp] theorem State.final_plant (s : State) (i : Nat) (tag : Option (List Byte)) (crc : Bool) (r : RLine) : (State.final s i tag crc r).plant = s.plant := by
  simp [State.final]

@[simp] theorem State.answer_plant (s : State) (ln : Ln) (r : RLine) : (State.answer s ln r).plant = s.plant := by
  unfold State.answer
  (repeat' split) <;> simp

@[simp] theorem State.ok_plant (s : State) (ln : Ln) (kv : KVs) : (State.ok s ln kv).plant = s.plant := by
  simp [State.ok]

@[simp] theorem State.err_plant (s : State) (ln : Ln) (code : Nat) (kv : KVs) : (State.err s ln code kv).plant = s.plant := by
  simp [State.err]

@[simp] theorem State.parts_plant (s : State) (ln : Ln) (ps : List KVs) (kv : KVs) : (State.parts s ln ps kv).plant = s.plant := by
  simp [State.parts]

@[simp] theorem State.refuse_plant (s : State) (ln : Ln) (why : String) : (State.refuse s ln why).plant = s.plant := by
  simp [State.refuse]

@[simp] theorem State.sendBells_plant (s : State) (i : Nat) : (State.sendBells s i).plant = s.plant := by
  simp [State.sendBells]

@[simp] theorem State.lineIn_plant (s : State) (ln : Ln) : (State.lineIn s ln).plant = s.plant := by
  unfold State.lineIn; simp only [State.plant, Plant.mk.injEq] <;> simp [↓plant_mk, plant_eqs]

@[simp] theorem State.await_plant (s : State) (ln : Ln) (w : WaitFor) : (State.await s ln w).plant = s.plant := by
  unfold State.await; simp only [State.plant, Plant.mk.injEq] <;> simp [↓plant_mk, plant_eqs]

@[simp] theorem State.settle_plant (s : State) (p : WaitFor → Bool) (r : RLine) : (State.settle s p r).plant = s.plant := by
  unfold State.settle; simp only [State.plant, Plant.mk.injEq] <;> simp [↓plant_mk, plant_eqs]

@[simp] theorem State.mirror_plant (s : State) : (State.mirror s).plant = s.plant := by
  unfold State.mirror
  (repeat' split) <;> first | (simp; done) | (simp only [State.plant, Plant.mk.injEq] <;> simp [↓plant_mk, plant_eqs])

@[simp] theorem State.flashErr_plant (s : State) (ln : Ln) (region : String) : (State.flashErr s ln region).plant = s.plant := by
  simp [State.flashErr]

@[simp] theorem State.writeMap_plant (s : State) (full ok : Bool) : (s.writeMap full ok).plant = s.plant := by
  unfold State.writeMap
  split
  · rfl
  · rename_i h
    simp only [Bool.or_eq_true, not_or, Bool.not_eq_true] at h
    simp [State.plant, heldFlash, h.1]

@[simp] theorem State.writeMapAlone_plant (s : State) : s.writeMapAlone.plant = s.plant := by
  unfold State.writeMapAlone
  split
  · rfl
  · rename_i h
    exact (setWriting_plant _ ((frozen_of_core (State.writeMap_core _ _ _)).trans (by simpa using h))).trans (State.writeMap_plant _ _ _)

@[simp] theorem State.cutFlash_plant (s : State) : s.cutFlash.plant = s.plant := rfl

@[simp] theorem State.shcDoubt_plant (s : State) (i cause : Nat) : (State.shcDoubt s i cause).plant = s.plant := by
  unfold State.shcDoubt; simp only [State.plant, Plant.mk.injEq] <;> simp [↓plant_mk, plant_eqs]

@[simp] theorem State.takeoverBell_plant (s : State) (i : Nat) : (State.takeoverBell s i).plant = s.plant := by
  simp [State.takeoverBell]

@[simp] theorem State.syncCredits_plant (s : State) (x lane : Nat) : (State.syncCredits s x lane).plant = s.plant := by
  unfold State.syncCredits
  (repeat' split) <;> simp

@[simp] theorem State.syncBorders_plant (s : State) (n : Nat) : (State.syncBorders s n).plant = s.plant := by
  unfold State.syncBorders
  dsimp only
  (repeat' split) <;> first | rfl | (simp (disch := (intros; (repeat' split) <;> simp)); done) | (simp only [State.plant, Plant.mk.injEq] <;> simp (disch := (intros; (repeat' split) <;> simp)) [↓plant_mk, plant_eqs])

@[simp] theorem State.sessMod_plant (s : State) (r : Req) (f : Session → Session) : (State.sessMod s r f).plant = s.plant := by
  unfold State.sessMod
  (repeat' split) <;> simp

@[simp] theorem State.countReq_plant (s : State) (k : Nat) (r : Req) (idx n : Nat) : (State.countReq s k r idx n).plant = s.plant := by
  simp [State.countReq]

@[simp] theorem State.countReply_plant (s : State) (k : Nat) (r : Req) (back : Bool) : (State.countReply s k r back).plant = s.plant := by
  unfold State.countReply
  (repeat' split) <;> simp

@[simp] theorem State.endReq_plant (s : State) (k : Nat) (r : Req) : (State.endReq s k r).plant = s.plant := by
  simp [State.endReq]

@[simp] theorem State.closeTag_plant (s : State) (k : Nat) (r : Req) (stray : Bool) : (State.closeTag s k r stray).plant = s.plant := by
  simp [State.closeTag]

@[simp] theorem State.releaseFcs_plant (s : State) (k : Nat) (r : Req) : (State.releaseFcs s k r).plant = s.plant := by
  unfold State.releaseFcs; simp only [State.plant, Plant.mk.injEq] <;> simp [↓plant_mk, plant_eqs]

@[simp] theorem State.startReply_plant (s : State) (k : Nat) (r : Req) (rep : Reply) (at_ : Time) : (State.startReply s k r rep at_).plant = s.plant := by
  unfold State.startReply; simp only [State.plant, Plant.mk.injEq] <;> simp [↓plant_mk, plant_eqs]

@[simp] theorem State.compose_plant (s : State) (k : Nat) (r : Req) (rep : Reply) : (State.compose s k r rep).plant = s.plant := by
  unfold State.compose
  dsimp only
  (repeat' split) <;> simp

@[simp] theorem State.stomp_plant (s : State) (k : Nat) (r : Req) (whole : Bool) : (State.stomp s k r whole).plant = s.plant := by
  unfold State.stomp; simp only [State.plant, Plant.mk.injEq] <;> simp [↓plant_mk, plant_eqs]

@[simp] theorem State.unsend_plant (s : State) (k : Nat) (r : Req) : (State.unsend s k r).plant = s.plant := by
  unfold State.unsend; simp only [State.plant, Plant.mk.injEq] <;> simp [↓plant_mk, plant_eqs]

@[simp] theorem State.stompSent_plant (s : State) (k : Nat) (r : Req) : (State.stompSent s k r).plant = s.plant := by
  simp [State.stompSent]

@[simp] theorem State.refuseReq_plant (s : State) (k : Nat) (r : Req) (reason : Nat) : (State.refuseReq s k r reason).plant = s.plant := by
  simp [State.refuseReq]

@[simp] theorem State.loseSession_plant (s : State) (num : Nat) : (State.loseSession s num).plant = s.plant := by
  simp [State.loseSession]

@[simp] theorem State.nedEnterDoubt_plant (s : State) (k cause : Nat) : (State.nedEnterDoubt s k cause).plant = s.plant := by
  unfold State.nedEnterDoubt; simp only [State.plant, Plant.mk.injEq] <;> simp [↓plant_mk, plant_eqs]

@[simp] theorem State.medEnterDoubt_plant (s : State) (k cause : Nat) : (State.medEnterDoubt s k cause).plant = s.plant := by
  simp [State.medEnterDoubt]

@[simp] theorem State.spdEnterDoubt_plant (s : State) (i cause : Nat) : (State.spdEnterDoubt s i cause).plant = s.plant := by
  simp [State.spdEnterDoubt]

@[simp] theorem State.dieCutOff_plant (s : State) (d : Nat) : (State.dieCutOff s d).plant = s.plant := by
  simp [State.dieCutOff]

@[simp] theorem State.powerEnds_plant (s : State) : (State.powerEnds s).plant = s.plant := by
  simp [State.powerEnds]

@[simp] theorem State.startLinks_plant (s : State) (n : Nat) : (State.startLinks s n).plant = s.plant := by
  unfold State.startLinks
  dsimp only
  (repeat' split) <;> first | rfl | (simp (disch := (intros; (repeat' split) <;> simp)); done) | (simp only [State.plant, Plant.mk.injEq] <;> simp (disch := (intros; (repeat' split) <;> simp)) [↓plant_mk, plant_eqs])

@[simp] theorem State.creationEnds_plant (s : State) (id : Nat) : (State.creationEnds s id).plant = s.plant := by
  unfold State.creationEnds
  (repeat' split) <;> simp

@[simp] theorem State.stageOnSequence_plant (s : State) (f : Nat) : (State.stageOnSequence s f).plant = s.plant := by
  simp [State.stageOnSequence]

end Sys2Proof.Machine

/-! What operations of the engine leave alone, as one lemma each: a simp lemma per field. -/
namespace Sys2Proof.Machine

open Sys2Proof

/-- What every step of a fold leaves alone, the fold leaves alone. -/
theorem foldl_eq {α β γ : Type} {f : β → α → β} (π : β → γ) (l : List α) (b : β) (h : ∀ b, ∀ a ∈ l, π (f b a) = π b) :
    π (l.foldl f b) = π b := by
  induction l generalizing b with
  | nil => rfl
  | cons x l ih => exact (ih _ fun b a m => h b a (List.mem_cons_of_mem _ m)).trans (h b x List.mem_cons_self)

/-- The controller of an index. -/
def pickShc (j : Nat) (a b : Shc) : Shc := if j = 0 then a else b

/-- A state whose units are read from these parts of it. -/
@[reducible] def Reads (s : State) (pads : Tab Paddock) (fields : Tab Field) (neds : List Ned) (meds : List Med) (spds : List Spd)
    (map : Tab MapEntry) (sess : List CSess) (folds : List Fold) (sessions : List (Nat × Session)) (channels : List Channel) (shcA shcB : Shc)
    (links : List (Nat × LinkEnd)) : Prop :=
  (∀ j, s.pad j = tabGet Paddock.initial pads j) ∧ (∀ j, s.field j = tabGet Field.initial fields j) ∧ (∀ j, s.ned j = neds[j]?.getD Ned.initial)
    ∧ (∀ j, s.med j = meds[j]?.getD Med.initial) ∧ (∀ j, s.spd j = spds[j]?.getD Spd.initial) ∧ (∀ j, s.entry j = tabGet MapEntry.initial map j)
    ∧ (∀ j, s.cs j = sess[j]?.getD (CSess.initial false)) ∧ (∀ j, s.foldOf j = folds.find? fun f => f.id = j)
    ∧ (∀ j, s.session j = assoc Session.initial sessions j) ∧ (∀ j, s.channel j = channels.find? fun c => c.index = j)
    ∧ (∀ j, s.shc j = pickShc j shcA shcB) ∧ ∀ j l, s.link j l = assoc LinkEnd.initial links (linkKey j l)

/-- A unit of a state written out field by field is read from its own part … -/
@[simp] theorem reads_mk (now) (freeCtr) (resetN) (pwrFail) (pwrFailAt) (frozen) (faultN) (alertN) (alertCause) (ready)
    (readyAt) (vstby) (fuses) (flash) (writing) (place) (net) (boot) (sel) (quiet) (active) (shcA) (shcB) (mirrorSeq)
    (mirrorProbe) (scratch) (sess) (con0) (con1) (waits) (garp) (stages) (nextStage) (retained) (fwUpdate) (bellSeq)
    (bells) (ledgerSeq) (ledgerHeld) (ledgerStopped) (ptpPort) (ptpHeard) (tallies) (busA) (busB) (shared) (telem)
    (unreach) (refAbsent) (refSince) (meshLocked) (inlet) (outlet) (loopSince) (wave) (lastWave) (map) (mapSeq) (pads)
    (fields) (links) (lane0) (neds) (meds) (spds) (nedTemp) (spdTemp) (medTemp) (flockUp) (flockMembers) (flockInfo)
    (excludedW) (folds) (scrubs) (paused) (secondAt) (incCtr) (channels) (sessions) (reports) (notices) (wsel) (wstat)
    (shadow) (taps) (wire) (pending) : Reads (State.mk now freeCtr resetN pwrFail pwrFailAt frozen faultN alertN alertCause
    ready readyAt vstby fuses flash writing place net boot sel quiet active shcA shcB mirrorSeq mirrorProbe scratch
    sess con0 con1 waits garp stages nextStage retained fwUpdate bellSeq bells ledgerSeq ledgerHeld ledgerStopped
    ptpPort ptpHeard tallies busA busB shared telem unreach refAbsent refSince meshLocked inlet outlet loopSince wave
    lastWave map mapSeq pads fields links lane0 neds meds spds nedTemp spdTemp medTemp flockUp flockMembers flockInfo
    excludedW folds scrubs paused secondAt incCtr channels sessions reports notices wsel wstat shadow taps wire pending) pads fields neds meds spds map
    sess folds sessions channels shcA shcB links := by
  (repeat' apply And.intro) <;> intros <;> rfl

/-- … and the part of another state gives that state's unit. -/
@[simp] theorem reads_of (s : State) : (∀ j, tabGet Paddock.initial s.pads j = s.pad j) ∧ (∀ j, tabGet Field.initial s.fields j = s.field j)
    ∧ (∀ j, s.neds[j]?.getD Ned.initial = s.ned j) ∧ (∀ j, s.meds[j]?.getD Med.initial = s.med j) ∧ (∀ j, s.spds[j]?.getD Spd.initial = s.spd j)
    ∧ (∀ j, tabGet MapEntry.initial s.map j = s.entry j) ∧ (∀ j, s.sess[j]?.getD (CSess.initial false) = s.cs j)
    ∧ (∀ j, (s.folds.find? fun f => f.id = j) = s.foldOf j) ∧ (∀ j, assoc Session.initial s.sessions j = s.session j)
    ∧ (∀ j, (s.channels.find? fun c => c.index = j) = s.channel j) ∧ (∀ j, pickShc j s.shcA s.shcB = s.shc j)
    ∧ ∀ j l, assoc LinkEnd.initial s.links (linkKey j l) = s.link j l := by
  (repeat' apply And.intro) <;> intros <;> rfl

@[simp] theorem State.tick_now (s : State) (t : Time) : (s.tick t).now = max s.now t := rfl

@[simp] theorem State.alert_alertN (s : State) (row : Nat) : (s.alert row).alertN = true := rfl

/-- Nothing but sessions, what they wait for and the moment differs: the fields and the units of the state, one by one. -/
@[reducible] def SameBesideSessions (s t : State) : Prop :=
  t.freeCtr = s.freeCtr ∧ t.resetN = s.resetN ∧ t.pwrFail = s.pwrFail ∧ t.pwrFailAt = s.pwrFailAt ∧ t.frozen = s.frozen
    ∧ t.faultN = s.faultN ∧ t.alertN = s.alertN ∧ t.alertCause = s.alertCause ∧ t.ready = s.ready ∧ t.readyAt = s.readyAt
    ∧ t.vstby = s.vstby ∧ t.fuses = s.fuses ∧ t.flash = s.flash ∧ t.writing = s.writing ∧ t.place = s.place ∧ t.net = s.net
    ∧ t.boot = s.boot ∧ t.sel = s.sel ∧ t.quiet = s.quiet ∧ t.active = s.active ∧ t.shcA = s.shcA ∧ t.shcB = s.shcB
    ∧ t.mirrorSeq = s.mirrorSeq ∧ t.mirrorProbe = s.mirrorProbe ∧ t.scratch = s.scratch ∧ t.con0 = s.con0 ∧ t.con1 = s.con1
    ∧ t.garp = s.garp ∧ t.stages = s.stages ∧ t.nextStage = s.nextStage ∧ t.retained = s.retained ∧ t.fwUpdate = s.fwUpdate
    ∧ t.bellSeq = s.bellSeq ∧ t.bells = s.bells ∧ t.ledgerSeq = s.ledgerSeq ∧ t.ledgerHeld = s.ledgerHeld
    ∧ t.ledgerStopped = s.ledgerStopped ∧ t.ptpPort = s.ptpPort ∧ t.ptpHeard = s.ptpHeard ∧ t.tallies = s.tallies
    ∧ t.busA = s.busA ∧ t.busB = s.busB ∧ t.shared = s.shared ∧ t.telem = s.telem ∧ t.unreach = s.unreach
    ∧ t.refAbsent = s.refAbsent ∧ t.refSince = s.refSince ∧ t.meshLocked = s.meshLocked ∧ t.inlet = s.inlet
    ∧ t.outlet = s.outlet ∧ t.loopSince = s.loopSince ∧ t.wave = s.wave ∧ t.lastWave = s.lastWave ∧ t.map = s.map
    ∧ t.mapSeq = s.mapSeq ∧ t.pads = s.pads ∧ t.fields = s.fields ∧ t.links = s.links ∧ t.lane0 = s.lane0 ∧ t.neds = s.neds
    ∧ t.meds = s.meds ∧ t.spds = s.spds ∧ t.nedTemp = s.nedTemp ∧ t.spdTemp = s.spdTemp ∧ t.medTemp = s.medTemp
    ∧ t.flockUp = s.flockUp ∧ t.flockMembers = s.flockMembers ∧ t.flockInfo = s.flockInfo ∧ t.excludedW = s.excludedW
    ∧ t.folds = s.folds ∧ t.scrubs = s.scrubs ∧ t.paused = s.paused ∧ t.secondAt = s.secondAt ∧ t.incCtr = s.incCtr
    ∧ t.channels = s.channels ∧ t.sessions = s.sessions ∧ t.reports = s.reports ∧ t.notices = s.notices ∧ t.wsel = s.wsel
    ∧ t.wstat = s.wstat ∧ t.shadow = s.shadow ∧ t.taps = s.taps ∧ t.wire = s.wire ∧ t.pending = s.pending
    ∧ (∀ j, t.pad j = s.pad j) ∧ (∀ j, t.field j = s.field j) ∧ (∀ j, t.ned j = s.ned j) ∧ (∀ j, t.med j = s.med j)
    ∧ (∀ j, t.spd j = s.spd j) ∧ (∀ j, t.entry j = s.entry j) ∧ (∀ j, t.foldOf j = s.foldOf j) ∧ (∀ j, t.stOf j = s.stOf j)
    ∧ (∀ j, t.session j = s.session j) ∧ (∀ j, t.channel j = s.channel j) ∧ (∀ j, t.shc j = s.shc j)
    ∧ ∀ j l, t.link j l = s.link j l

theorem OnlySessions.same {s t : State} (h : OnlySessions s t) : SameBesideSessions s t := by
  obtain ⟨e, -⟩ := h
  rw [e]
  (repeat' apply And.intro) <;> intros <;> rfl

theorem State.settle_onlySessions (s : State) (p : WaitFor → Bool) (r : RLine) : OnlySessions s (s.settle p r) := by
  have drop : OnlySessions s { s with waits := s.waits.filter fun w => !p w.why } :=
    ⟨rfl, fun w h => (List.mem_filter.mp h).1⟩
  exact drop.trans (OnlySessions.foldl (fun s (w : Wait) => .final s w.sess w.tag w.crc r) _ _)

@[simp] theorem State.settle_same (s : State) (p : WaitFor → Bool) (r : RLine) : SameBesideSessions s (s.settle p r) :=
  (s.settle_onlySessions p r).same

theorem State.powerEnds_onlySessions (s : State) : OnlySessions s s.powerEnds := by
  refine OnlySessions.foldl (fun s ps => ?_) _ _
  split
  · exact s.settle_onlySessions _ _
  · split
    · exact s.settle_onlySessions _ _
    · exact .refl s

@[simp] theorem State.powerEnds_same (s : State) : SameBesideSessions s s.powerEnds := s.powerEnds_onlySessions.same

/-- Nothing but what is sent differs. -/
@[reducible] def SameBesideWire (s t : State) : Prop :=
  t.now = s.now ∧
  t.freeCtr = s.freeCtr ∧ t.resetN = s.resetN ∧ t.pwrFail = s.pwrFail ∧ t.pwrFailAt = s.pwrFailAt ∧ t.frozen = s.frozen
    ∧ t.faultN = s.faultN ∧ t.alertN = s.alertN ∧ t.alertCause = s.alertCause ∧ t.ready = s.ready ∧ t.readyAt = s.readyAt
    ∧ t.vstby = s.vstby ∧ t.fuses = s.fuses ∧ t.flash = s.flash ∧ t.writing = s.writing ∧ t.place = s.place ∧ t.net = s.net
    ∧ t.boot = s.boot ∧ t.sel = s.sel ∧ t.quiet = s.quiet ∧ t.active = s.active ∧ t.shcA = s.shcA ∧ t.shcB = s.shcB
    ∧ t.mirrorSeq = s.mirrorSeq ∧ t.mirrorProbe = s.mirrorProbe ∧ t.scratch = s.scratch ∧ t.sess = s.sess ∧ t.con0 = s.con0
    ∧ t.con1 = s.con1 ∧ t.waits = s.waits ∧ t.garp = s.garp ∧ t.stages = s.stages ∧ t.nextStage = s.nextStage
    ∧ t.retained = s.retained ∧ t.fwUpdate = s.fwUpdate ∧ t.bellSeq = s.bellSeq ∧ t.bells = s.bells
    ∧ t.ledgerSeq = s.ledgerSeq ∧ t.ledgerHeld = s.ledgerHeld ∧ t.ledgerStopped = s.ledgerStopped ∧ t.ptpPort = s.ptpPort
    ∧ t.ptpHeard = s.ptpHeard ∧ t.tallies = s.tallies ∧ t.busA = s.busA ∧ t.busB = s.busB ∧ t.shared = s.shared
    ∧ t.telem = s.telem ∧ t.unreach = s.unreach ∧ t.refAbsent = s.refAbsent ∧ t.refSince = s.refSince
    ∧ t.meshLocked = s.meshLocked ∧ t.inlet = s.inlet ∧ t.outlet = s.outlet ∧ t.loopSince = s.loopSince ∧ t.wave = s.wave
    ∧ t.lastWave = s.lastWave ∧ t.map = s.map ∧ t.mapSeq = s.mapSeq ∧ t.pads = s.pads ∧ t.fields = s.fields
    ∧ t.links = s.links ∧ t.lane0 = s.lane0 ∧ t.neds = s.neds ∧ t.meds = s.meds ∧ t.spds = s.spds ∧ t.nedTemp = s.nedTemp
    ∧ t.spdTemp = s.spdTemp ∧ t.medTemp = s.medTemp ∧ t.flockUp = s.flockUp ∧ t.flockMembers = s.flockMembers
    ∧ t.flockInfo = s.flockInfo ∧ t.excludedW = s.excludedW ∧ t.folds = s.folds ∧ t.scrubs = s.scrubs ∧ t.paused = s.paused
    ∧ t.secondAt = s.secondAt ∧ t.incCtr = s.incCtr ∧ t.channels = s.channels ∧ t.sessions = s.sessions
    ∧ t.reports = s.reports ∧ t.notices = s.notices ∧ t.wsel = s.wsel ∧ t.wstat = s.wstat ∧ t.shadow = s.shadow
    ∧ t.taps = s.taps ∧ t.pending = s.pending ∧ (∀ j, t.pad j = s.pad j) ∧ (∀ j, t.field j = s.field j)
    ∧ (∀ j, t.ned j = s.ned j) ∧ (∀ j, t.med j = s.med j) ∧ (∀ j, t.spd j = s.spd j) ∧ (∀ j, t.entry j = s.entry j)
    ∧ (∀ j, t.foldOf j = s.foldOf j) ∧ (∀ j, t.stOf j = s.stOf j) ∧ (∀ j, t.session j = s.session j)
    ∧ (∀ j, t.channel j = s.channel j) ∧ (∀ j, t.shc j = s.shc j) ∧ (∀ j, t.cs j = s.cs j) ∧ ∀ j l, t.link j l = s.link j l

@[simp] theorem State.pmbus_same (s : State) (addr page cmd data : Nat) : SameBesideWire s (s.pmbus addr page cmd data) := by
  (repeat' apply And.intro) <;> intros <;> rfl

/-- Nothing but the flash, what is being written to it and the sequence of the map differs. -/
@[reducible] def SameBesideFlash (s t : State) : Prop :=
  t.now = s.now ∧
  t.freeCtr = s.freeCtr ∧ t.resetN = s.resetN ∧ t.pwrFail = s.pwrFail ∧ t.pwrFailAt = s.pwrFailAt ∧ t.frozen = s.frozen
    ∧ t.faultN = s.faultN ∧ t.alertN = s.alertN ∧ t.alertCause = s.alertCause ∧ t.ready = s.ready ∧ t.readyAt = s.readyAt
    ∧ t.vstby = s.vstby ∧ t.fuses = s.fuses ∧ t.place = s.place ∧ t.net = s.net ∧ t.boot = s.boot ∧ t.sel = s.sel
    ∧ t.quiet = s.quiet ∧ t.active = s.active ∧ t.shcA = s.shcA ∧ t.shcB = s.shcB ∧ t.mirrorSeq = s.mirrorSeq
    ∧ t.mirrorProbe = s.mirrorProbe ∧ t.scratch = s.scratch ∧ t.sess = s.sess ∧ t.con0 = s.con0 ∧ t.con1 = s.con1
    ∧ t.waits = s.waits ∧ t.garp = s.garp ∧ t.stages = s.stages ∧ t.nextStage = s.nextStage ∧ t.retained = s.retained
    ∧ t.fwUpdate = s.fwUpdate ∧ t.bellSeq = s.bellSeq ∧ t.bells = s.bells ∧ t.ledgerSeq = s.ledgerSeq
    ∧ t.ledgerHeld = s.ledgerHeld ∧ t.ledgerStopped = s.ledgerStopped ∧ t.ptpPort = s.ptpPort ∧ t.ptpHeard = s.ptpHeard
    ∧ t.tallies = s.tallies ∧ t.busA = s.busA ∧ t.busB = s.busB ∧ t.shared = s.shared ∧ t.telem = s.telem
    ∧ t.unreach = s.unreach ∧ t.refAbsent = s.refAbsent ∧ t.refSince = s.refSince ∧ t.meshLocked = s.meshLocked
    ∧ t.inlet = s.inlet ∧ t.outlet = s.outlet ∧ t.loopSince = s.loopSince ∧ t.wave = s.wave ∧ t.lastWave = s.lastWave
    ∧ t.map = s.map ∧ t.pads = s.pads ∧ t.fields = s.fields ∧ t.links = s.links ∧ t.lane0 = s.lane0 ∧ t.neds = s.neds
    ∧ t.meds = s.meds ∧ t.spds = s.spds ∧ t.nedTemp = s.nedTemp ∧ t.spdTemp = s.spdTemp ∧ t.medTemp = s.medTemp
    ∧ t.flockUp = s.flockUp ∧ t.flockMembers = s.flockMembers ∧ t.flockInfo = s.flockInfo ∧ t.excludedW = s.excludedW
    ∧ t.folds = s.folds ∧ t.scrubs = s.scrubs ∧ t.paused = s.paused ∧ t.secondAt = s.secondAt ∧ t.incCtr = s.incCtr
    ∧ t.channels = s.channels ∧ t.sessions = s.sessions ∧ t.reports = s.reports ∧ t.notices = s.notices ∧ t.wsel = s.wsel
    ∧ t.wstat = s.wstat ∧ t.shadow = s.shadow ∧ t.taps = s.taps ∧ t.wire = s.wire ∧ t.pending = s.pending
    ∧ (∀ j, t.pad j = s.pad j) ∧ (∀ j, t.field j = s.field j) ∧ (∀ j, t.ned j = s.ned j) ∧ (∀ j, t.med j = s.med j)
    ∧ (∀ j, t.spd j = s.spd j) ∧ (∀ j, t.entry j = s.entry j) ∧ (∀ j, t.foldOf j = s.foldOf j) ∧ (∀ j, t.stOf j = s.stOf j)
    ∧ (∀ j, t.session j = s.session j) ∧ (∀ j, t.channel j = s.channel j) ∧ (∀ j, t.shc j = s.shc j) ∧ (∀ j, t.cs j = s.cs j)
    ∧ ∀ j l, t.link j l = s.link j l

@[simp] theorem State.writeMap_same (s : State) (full ok : Bool) : SameBesideFlash s (s.writeMap full ok) := by
  unfold State.writeMap
  split <;> ((repeat' apply And.intro) <;> intros <;> rfl)

@[simp] theorem State.writeMapAlone_same (s : State) : SameBesideFlash s s.writeMapAlone := by
  unfold State.writeMapAlone State.writeMap
  (repeat' split) <;> ((repeat' apply And.intro) <;> intros <;> rfl)

/-- Nothing but the queue of paddocks to power up differs. -/
@[reducible] def SameBesideWave (s t : State) : Prop :=
  t.now = s.now ∧
  t.freeCtr = s.freeCtr ∧ t.resetN = s.resetN ∧ t.pwrFail = s.pwrFail ∧ t.pwrFailAt = s.pwrFailAt ∧ t.frozen = s.frozen
    ∧ t.faultN = s.faultN ∧ t.alertN = s.alertN ∧ t.alertCause = s.alertCause ∧ t.ready = s.ready ∧ t.readyAt = s.readyAt
    ∧ t.vstby = s.vstby ∧ t.fuses = s.fuses ∧ t.flash = s.flash ∧ t.writing = s.writing ∧ t.place = s.place ∧ t.net = s.net
    ∧ t.boot = s.boot ∧ t.sel = s.sel ∧ t.quiet = s.quiet ∧ t.active = s.active ∧ t.shcA = s.shcA ∧ t.shcB = s.shcB
    ∧ t.mirrorSeq = s.mirrorSeq ∧ t.mirrorProbe = s.mirrorProbe ∧ t.scratch = s.scratch ∧ t.sess = s.sess ∧ t.con0 = s.con0
    ∧ t.con1 = s.con1 ∧ t.waits = s.waits ∧ t.garp = s.garp ∧ t.stages = s.stages ∧ t.nextStage = s.nextStage
    ∧ t.retained = s.retained ∧ t.fwUpdate = s.fwUpdate ∧ t.bellSeq = s.bellSeq ∧ t.bells = s.bells
    ∧ t.ledgerSeq = s.ledgerSeq ∧ t.ledgerHeld = s.ledgerHeld ∧ t.ledgerStopped = s.ledgerStopped ∧ t.ptpPort = s.ptpPort
    ∧ t.ptpHeard = s.ptpHeard ∧ t.tallies = s.tallies ∧ t.busA = s.busA ∧ t.busB = s.busB ∧ t.shared = s.shared
    ∧ t.telem = s.telem ∧ t.unreach = s.unreach ∧ t.refAbsent = s.refAbsent ∧ t.refSince = s.refSince
    ∧ t.meshLocked = s.meshLocked ∧ t.inlet = s.inlet ∧ t.outlet = s.outlet ∧ t.loopSince = s.loopSince
    ∧ t.lastWave = s.lastWave ∧ t.map = s.map ∧ t.mapSeq = s.mapSeq ∧ t.pads = s.pads ∧ t.fields = s.fields
    ∧ t.links = s.links ∧ t.lane0 = s.lane0 ∧ t.neds = s.neds ∧ t.meds = s.meds ∧ t.spds = s.spds ∧ t.nedTemp = s.nedTemp
    ∧ t.spdTemp = s.spdTemp ∧ t.medTemp = s.medTemp ∧ t.flockUp = s.flockUp ∧ t.flockMembers = s.flockMembers
    ∧ t.flockInfo = s.flockInfo ∧ t.excludedW = s.excludedW ∧ t.folds = s.folds ∧ t.scrubs = s.scrubs ∧ t.paused = s.paused
    ∧ t.secondAt = s.secondAt ∧ t.incCtr = s.incCtr ∧ t.channels = s.channels ∧ t.sessions = s.sessions
    ∧ t.reports = s.reports ∧ t.notices = s.notices ∧ t.wsel = s.wsel ∧ t.wstat = s.wstat ∧ t.shadow = s.shadow
    ∧ t.taps = s.taps ∧ t.wire = s.wire ∧ t.pending = s.pending ∧ (∀ j, t.pad j = s.pad j) ∧ (∀ j, t.field j = s.field j)
    ∧ (∀ j, t.ned j = s.ned j) ∧ (∀ j, t.med j = s.med j) ∧ (∀ j, t.spd j = s.spd j) ∧ (∀ j, t.entry j = s.entry j)
    ∧ (∀ j, t.foldOf j = s.foldOf j) ∧ (∀ j, t.stOf j = s.stOf j) ∧ (∀ j, t.session j = s.session j)
    ∧ (∀ j, t.channel j = s.channel j) ∧ (∀ j, t.shc j = s.shc j) ∧ (∀ j, t.cs j = s.cs j) ∧ ∀ j l, t.link j l = s.link j l

@[simp] theorem State.enqueueWave_same (s : State) (n : Nat) (goal : Power) : SameBesideWave s (s.enqueueWave n goal) := by
  unfold State.enqueueWave
  split <;> ((repeat' apply And.intro) <;> intros <;> rfl)

/-- Nothing but paddocks and the changes of lane 0 that follow from them differs. -/
@[reducible] def SameBesidePads (s t : State) : Prop :=
  t.now = s.now ∧
  t.freeCtr = s.freeCtr ∧ t.resetN = s.resetN ∧ t.pwrFail = s.pwrFail ∧ t.pwrFailAt = s.pwrFailAt ∧ t.frozen = s.frozen
    ∧ t.faultN = s.faultN ∧ t.alertN = s.alertN ∧ t.alertCause = s.alertCause ∧ t.ready = s.ready ∧ t.readyAt = s.readyAt
    ∧ t.vstby = s.vstby ∧ t.fuses = s.fuses ∧ t.flash = s.flash ∧ t.writing = s.writing ∧ t.place = s.place ∧ t.net = s.net
    ∧ t.boot = s.boot ∧ t.sel = s.sel ∧ t.quiet = s.quiet ∧ t.active = s.active ∧ t.shcA = s.shcA ∧ t.shcB = s.shcB
    ∧ t.mirrorSeq = s.mirrorSeq ∧ t.mirrorProbe = s.mirrorProbe ∧ t.scratch = s.scratch ∧ t.sess = s.sess ∧ t.con0 = s.con0
    ∧ t.con1 = s.con1 ∧ t.waits = s.waits ∧ t.garp = s.garp ∧ t.stages = s.stages ∧ t.nextStage = s.nextStage
    ∧ t.retained = s.retained ∧ t.fwUpdate = s.fwUpdate ∧ t.bellSeq = s.bellSeq ∧ t.bells = s.bells
    ∧ t.ledgerSeq = s.ledgerSeq ∧ t.ledgerHeld = s.ledgerHeld ∧ t.ledgerStopped = s.ledgerStopped ∧ t.ptpPort = s.ptpPort
    ∧ t.ptpHeard = s.ptpHeard ∧ t.tallies = s.tallies ∧ t.busA = s.busA ∧ t.busB = s.busB ∧ t.shared = s.shared
    ∧ t.telem = s.telem ∧ t.unreach = s.unreach ∧ t.refAbsent = s.refAbsent ∧ t.refSince = s.refSince
    ∧ t.meshLocked = s.meshLocked ∧ t.inlet = s.inlet ∧ t.outlet = s.outlet ∧ t.loopSince = s.loopSince ∧ t.wave = s.wave
    ∧ t.lastWave = s.lastWave ∧ t.map = s.map ∧ t.mapSeq = s.mapSeq ∧ t.fields = s.fields ∧ t.links = s.links
    ∧ t.neds = s.neds ∧ t.meds = s.meds ∧ t.spds = s.spds ∧ t.nedTemp = s.nedTemp ∧ t.spdTemp = s.spdTemp
    ∧ t.medTemp = s.medTemp ∧ t.flockUp = s.flockUp ∧ t.flockMembers = s.flockMembers ∧ t.flockInfo = s.flockInfo
    ∧ t.excludedW = s.excludedW ∧ t.folds = s.folds ∧ t.scrubs = s.scrubs ∧ t.paused = s.paused ∧ t.secondAt = s.secondAt
    ∧ t.incCtr = s.incCtr ∧ t.channels = s.channels ∧ t.sessions = s.sessions ∧ t.reports = s.reports ∧ t.notices = s.notices
    ∧ t.wsel = s.wsel ∧ t.wstat = s.wstat ∧ t.shadow = s.shadow ∧ t.taps = s.taps ∧ t.wire = s.wire ∧ t.pending = s.pending
    ∧ (∀ j, t.field j = s.field j) ∧ (∀ j, t.ned j = s.ned j) ∧ (∀ j, t.med j = s.med j) ∧ (∀ j, t.spd j = s.spd j)
    ∧ (∀ j, t.entry j = s.entry j) ∧ (∀ j, t.foldOf j = s.foldOf j) ∧ (∀ j, t.stOf j = s.stOf j)
    ∧ (∀ j, t.session j = s.session j) ∧ (∀ j, t.channel j = s.channel j) ∧ (∀ j, t.shc j = s.shc j) ∧ (∀ j, t.cs j = s.cs j)
    ∧ ∀ j l, t.link j l = s.link j l

/-- The same as one equation. -/
def OnlyPads (s t : State) : Prop := t = { s with pads := t.pads, lane0 := t.lane0 }

theorem OnlyPads.same {s t : State} (h : OnlyPads s t) : SameBesidePads s t := by
  rw [h]
  (repeat' apply And.intro) <;> intros <;> rfl

theorem OnlyPads.trans {s t u : State} (h : OnlyPads s t) (k : OnlyPads t u) : OnlyPads s u := by
  unfold OnlyPads at *
  rw [k, h]

theorem OnlyPads.foldl {α : Type} {f : State → α → State} (h : ∀ s a, OnlyPads s (f s a)) (l : List α) (s : State) :
    OnlyPads s (l.foldl f s) :=
  foldl_inv l (P := OnlyPads s) rfl fun t a k => k.trans (h t a)

theorem State.modPad_onlyPads (s : State) (n : Nat) (f : Paddock → Paddock) : OnlyPads s (s.modPad n f) := rfl

@[simp] theorem foldl_modPad_same (g : State → Nat → Paddock → Paddock) (l : List Nat) (s : State) :
    SameBesidePads s (l.foldl (fun s n => s.modPad n (g s n)) s) :=
  (OnlyPads.foldl (fun s n => s.modPad_onlyPads n (g s n)) l s).same

@[simp] theorem foldl_modPad_unless_same (c : State → Nat → Bool) (g : State → Nat → Paddock → Paddock) (l : List Nat) (s : State) :
    SameBesidePads s (l.foldl (fun s n => if c s n then s else s.modPad n (g s n)) s) :=
  (OnlyPads.foldl (fun s n => by split <;> rfl) l s).same

end Sys2Proof.Machine

/-! What the operations of paddock power do to paddocks, fields and the map. -/
namespace Sys2Proof.Machine

open Sys2Proof

theorem pad_of_plant {s t : State} (h : t.plant = s.plant) (n : Nat) : t.pad n = s.pad n :=
  congrArg (fun p : Plant => tabGet Paddock.initial p.pads n) h

theorem entry_of_plant {s t : State} (h : t.plant = s.plant) (n : Nat) : t.entry n = s.entry n :=
  congrArg (fun p : Plant => tabGet MapEntry.initial p.map n) h

theorem field_of_plant {s t : State} (h : t.plant = s.plant) (f : Nat) : (t.field f).sansInjector = (s.field f).sansInjector :=
  congrArg (fun p : Plant => p.fields f) h

/-- Fields that are the same but for the injector. -/
theorem Field.eq_of_sansInjector {x y : Field} (h : x.sansInjector = y.sansInjector) : x = { y with injector := x.injector } := by
  obtain ⟨⟩ := x
  obtain ⟨⟩ := y
  simp_all [Field.sansInjector]

theorem field_eq_of_plant {s t : State} (h : t.plant = s.plant) (f : Nat) :
    t.field f = { s.field f with injector := (t.field f).injector } :=
  Field.eq_of_sansInjector (field_of_plant h f)

theorem wave_of_plant {s t : State} (h : t.plant = s.plant) : t.wave = s.wave := congrArg Plant.wave h

theorem pads_of_plant {s t : State} (h : t.plant = s.plant) : t.pads = s.pads := congrArg Plant.pads h

/-- What one step of a fold establishes, and every step keeps, holds after the fold. -/
theorem foldl_established {α β : Type} {f : β → α → β} {P : β → Prop} {a : α} (l : List α) (b : β) (mem : a ∈ l)
    (est : ∀ b, P (f b a)) (keep : ∀ b x, P b → P (f b x)) : P (l.foldl f b) := by
  induction l generalizing b with
  | nil => cases mem
  | cons x l ih =>
    rcases List.mem_cons.mp mem with rfl | mem
    · exact foldl_inv l (est b) keep
    · exact ih _ mem

/-! The paddock alone. -/

/-- A fold over paddocks that changes each of its own: the paddocks aside. -/
theorem foldl_modPad_pad_other {g : State → Nat → Paddock → Paddock} (l : List Nat) (s : State) {m : Nat} (h : m ∉ l) :
    (l.foldl (fun s n => s.modPad n (g s n)) s).pad m = s.pad m :=
  foldl_eq (fun s => s.pad m) l s fun s a ha => by
    rw [State.modPad_pad, if_neg]
    rintro rfl
    exact h ha

/-- What a change to paddocks gives whatever it meets, every paddock of the list has. -/
theorem foldl_modPad_pad_mem {P : Paddock → Prop} {g : State → Nat → Paddock → Paddock} (h : ∀ s n p, P (g s n p)) (l : List Nat) (s : State)
    {m : Nat} (mem : m ∈ l) : P ((l.foldl (fun s n => s.modPad n (g s n)) s).pad m) :=
  foldl_established (P := fun s => P (s.pad m)) l s mem
    (fun s => by
      rw [State.modPad_pad, if_pos rfl]
      exact h _ _ _)
    fun s n k => by
      rw [State.modPad_pad]
      split
      · exact h _ _ _
      · exact k

/-- A gate that opens changes its paddock, and may add to the lane 0 events (R608). -/
theorem State.goDark_eq (s : State) (n : Nat) : ∃ l, s.goDark n =
    { s.modPad n fun p => { p.shear with power := .dark, soft := false, masked := true, hurdled := p.leased } with lane0 := l } := by
  unfold State.goDark
  dsimp only
  split
  · exact ⟨_, rfl⟩
  · exact ⟨_, rfl⟩

@[simp] theorem State.goDark_pad (s : State) (n m : Nat) : (s.goDark n).pad m =
    if m = n then { (s.pad n).shear with power := .dark, soft := false, masked := true, hurdled := (s.pad n).leased } else s.pad m := by
  obtain ⟨l, e⟩ := s.goDark_eq n
  rw [e]
  exact State.modPad_pad s n m fun p => { p.shear with power := .dark, soft := false, masked := true, hurdled := p.leased }

theorem State.goDark_power_of_dark {s : State} {m : Nat} (h : (s.pad m).power = .dark) (n : Nat) : ((s.goDark n).pad m).power = .dark := by
  rw [State.goDark_pad]
  split
  · rfl
  · exact h

theorem State.goDark_onlyPads (s : State) (n : Nat) : OnlyPads s (s.goDark n) := by
  obtain ⟨l, e⟩ := s.goDark_eq n
  rw [e]
  rfl

@[simp] theorem State.goDark_same (s : State) (n : Nat) : SameBesidePads s (s.goDark n) := (s.goDark_onlyPads n).same

/-! HOLEs. -/

/-- A paddock but for its yoke and the operator's choice, which a HOLE loses (R62, R69). -/
def Paddock.sansYoke (p : Paddock) : Paddock := { p with yoke := none, opDark := false }

theorem State.dissolveYoke_sansYoke (s : State) (n m : Nat) : ((s.dissolveYoke n).pad m).sansYoke = (s.pad m).sansYoke := by
  refine foldl_eq (fun s => (s.pad m).sansYoke) _ s fun s a _ => ?_
  rw [State.modPad_pad]
  split
  · rename_i e
    rw [e]
    rfl
  · rfl

theorem State.dissolveYoke_rest (s : State) (n : Nat) : (s.dissolveYoke n).map = s.map ∧ (s.dissolveYoke n).fields = s.fields
    ∧ (s.dissolveYoke n).wave = s.wave :=
  ⟨foldl_eq State.map _ s fun _ _ _ => rfl, foldl_eq State.fields _ s fun _ _ _ => rfl, foldl_eq State.wave _ s fun _ _ _ => rfl⟩

/-- Marking a HOLE either finds one of a latched field, or writes the entry, ends the yoke and takes the paddock out of the wave unless a
retry of it is under way (R62, R64, R66, R69). -/
theorem State.markHole_plant (s : State) (n cause : Nat) (quiet : Bool) : s.markHole n cause quiet = s ∧ (s.entry n).st = 2
    ∨ ∃ w, (w = s.wave ∨ w = s.wave.filter fun x => x.1 ≠ n) ∧ (s.markHole n cause quiet).plant =
      ({ ((s.dissolveYoke n).setEntry n ⟨2, (s.entry n).col, cause⟩).modPad n fun p => { p with opDark := false } with wave := w } : State).plant := by
  unfold State.markHole
  dsimp only
  split
  · rename_i h
    simp only [Bool.and_eq_true, decide_eq_true_eq] at h
    exact .inl ⟨rfl, h.1.1⟩
  · right
    rw [apply_ite State.plant, State.ring_plant, ite_self]
    have wave := (s.dissolveYoke_rest n).2.2
    split
    · exact ⟨s.wave, .inl rfl, by rw [← wave]; rfl⟩
    · exact ⟨s.wave.filter fun x => x.1 ≠ n, .inr rfl, by rw [← wave]; rfl⟩

theorem State.markHole_st (s : State) (n cause : Nat) (quiet : Bool) (m : Nat) :
    ((s.markHole n cause quiet).entry m).st = if m = n then 2 else (s.entry m).st := by
  obtain ⟨e, h⟩ | ⟨w, -, e⟩ := s.markHole_plant n cause quiet
  · rw [e]
    split
    · rename_i c
      rw [c, h]
    · rfl
  · rw [entry_of_plant e]
    have map := (s.dissolveYoke_rest n).1
    have : ∀ k, (s.dissolveYoke n).entry k = s.entry k := fun k => by rw [State.entry, map, State.entry]
    change (((s.dissolveYoke n).setEntry n ⟨2, (s.entry n).col, cause⟩).entry m).st = _
    rw [State.setEntry_entry, this]
    split <;> rfl

theorem State.markHole_sansYoke (s : State) (n cause : Nat) (quiet : Bool) (m : Nat) :
    ((s.markHole n cause quiet).pad m).sansYoke = (s.pad m).sansYoke := by
  obtain ⟨e, -⟩ | ⟨w, -, e⟩ := s.markHole_plant n cause quiet
  · rw [e]
  · rw [pad_of_plant e]
    change ((((s.dissolveYoke n).setEntry n ⟨2, (s.entry n).col, cause⟩).modPad n fun p => { p with opDark := false }).pad m).sansYoke = _
    rw [State.modPad_pad]
    refine Eq.trans ?_ (s.dissolveYoke_sansYoke n m)
    split
    · rename_i c
      rw [c]
      rfl
    · rfl

theorem State.markHole_field (s : State) (n cause : Nat) (quiet : Bool) (f : Nat) :
    ((s.markHole n cause quiet).field f).sansInjector = (s.field f).sansInjector := by
  obtain ⟨e, -⟩ | ⟨w, -, e⟩ := s.markHole_plant n cause quiet
  · rw [e]
  · rw [field_of_plant e]
    exact congrArg (fun fs => (tabGet Field.initial fs f).sansInjector) (s.dissolveYoke_rest n).2.1

theorem State.markHole_wave (s : State) (n cause : Nat) (quiet : Bool) :
    (s.markHole n cause quiet).wave = s.wave ∨ (s.markHole n cause quiet).wave = s.wave.filter fun x => x.1 ≠ n := by
  obtain ⟨e, -⟩ | ⟨w, h, e⟩ := s.markHole_plant n cause quiet
  · rw [e]
    exact .inl rfl
  · rw [wave_of_plant e]
    exact h

/-- The dies that a HOLE cuts off change nothing of the plant but the injectors. -/
theorem State.makeHole_plant (s : State) (n cause : Nat) (quiet : Bool) :
    (s.makeHole n cause quiet).plant = (s.markHole n cause quiet).plant :=
  foldl_eq State.plant _ _ fun s d _ => State.dieCutOff_plant s d

theorem State.makeHole_st (s : State) (n cause : Nat) (quiet : Bool) (m : Nat) :
    ((s.makeHole n cause quiet).entry m).st = if m = n then 2 else (s.entry m).st := by
  rw [entry_of_plant (s.makeHole_plant n cause quiet), s.markHole_st]

theorem State.makeHole_sansYoke (s : State) (n cause : Nat) (quiet : Bool) (m : Nat) :
    ((s.makeHole n cause quiet).pad m).sansYoke = (s.pad m).sansYoke := by
  rw [pad_of_plant (s.makeHole_plant n cause quiet), s.markHole_sansYoke]

theorem State.makeHole_power (s : State) (n cause : Nat) (quiet : Bool) (m : Nat) :
    ((s.makeHole n cause quiet).pad m).power = (s.pad m).power := by
  have h := congrArg Paddock.power (s.makeHole_sansYoke n cause quiet m)
  exact h

theorem State.makeHole_field (s : State) (n cause : Nat) (quiet : Bool) (f : Nat) :
    ((s.makeHole n cause quiet).field f).sansInjector = (s.field f).sansInjector :=
  (field_of_plant (s.makeHole_plant n cause quiet) f).trans (s.markHole_field n cause quiet f)

/-- Two paddocks that differ in their yoke and the operator's choice alone. -/
@[reducible] def SamePadBesideYoke (p q : Paddock) : Prop :=
  q.power = p.power ∧ q.soft = p.soft ∧ q.goal = p.goal ∧ q.n = p.n ∧ q.target = p.target ∧ q.setting = p.setting
    ∧ q.stepAt = p.stepAt ∧ q.fuse = p.fuse ∧ q.trip = p.trip ∧ q.firstTrip = p.firstTrip ∧ q.left = p.left
    ∧ q.clockLost = p.clockLost ∧ q.lostAt = p.lostAt ∧ q.masked = p.masked ∧ q.maskedCtx = p.maskedCtx
    ∧ q.hurdled = p.hurdled ∧ q.excl = p.excl ∧ q.slots = p.slots ∧ q.pendRemove = p.pendRemove ∧ q.ctxs = p.ctxs
    ∧ q.plan = p.plan ∧ q.pos = p.pos ∧ q.ic = p.ic ∧ q.s0 = p.s0 ∧ q.s1 = p.s1 ∧ q.bad0 = p.bad0 ∧ q.bad1 = p.bad1
    ∧ q.apart = p.apart ∧ q.fail0 = p.fail0 ∧ q.fail1 = p.fail1 ∧ q.hot = p.hot ∧ q.outbox = p.outbox ∧ q.dockPos = p.dockPos
    ∧ q.returns = p.returns ∧ q.routes = p.routes ∧ q.wafers = p.wafers ∧ q.stile = p.stile ∧ q.loading = p.loading
    ∧ q.revoked = p.revoked ∧ q.fine = p.fine ∧ q.coarse = p.coarse ∧ q.eccHeld = p.eccHeld ∧ q.leased = p.leased

theorem Paddock.eq_of_sansYoke {p q : Paddock} (h : q.sansYoke = p.sansYoke) : q = { p with yoke := q.yoke, opDark := q.opDark } := by
  obtain ⟨⟩ := p
  obtain ⟨⟩ := q
  simp_all [Paddock.sansYoke]

theorem Paddock.same_of_sansYoke {p q : Paddock} (h : q.sansYoke = p.sansYoke) : SamePadBesideYoke p q := by
  rw [Paddock.eq_of_sansYoke h]
  (repeat' apply And.intro) <;> rfl

@[simp] theorem State.makeHole_pad (s : State) (n cause : Nat) (quiet : Bool) (m : Nat) :
    SamePadBesideYoke (s.pad m) ((s.makeHole n cause quiet).pad m) :=
  Paddock.same_of_sansYoke (s.makeHole_sansYoke n cause quiet m)

/-- A paddock whose gate opens and that the map writes off is a DARK HOLE, and stays one. -/
def State.darkHole (s : State) (n : Nat) : Prop := (s.entry n).st = 2 ∧ (s.pad n).power = .dark

theorem State.darkHole_of_plant {s t : State} {n : Nat} (e : t.plant = s.plant) (h : s.darkHole n) : t.darkHole n := by
  unfold State.darkHole at *
  rw [entry_of_plant e, pad_of_plant e]
  exact h

theorem State.darkHole_makeHole_of_dark {s : State} {n : Nat} (h : (s.pad n).power = .dark) (cause : Nat) (quiet : Bool) :
    (s.makeHole n cause quiet).darkHole n :=
  ⟨by rw [State.makeHole_st, if_pos rfl], (State.makeHole_power ..).trans h⟩

theorem State.darkHole_made (s : State) (n cause : Nat) (quiet : Bool) : ((s.goDark n).makeHole n cause quiet).darkHole n :=
  State.darkHole_makeHole_of_dark (by simp) cause quiet

theorem State.darkHole_kept {s : State} {n : Nat} (h : s.darkHole n) (m cause : Nat) (quiet : Bool) :
    ((s.goDark m).makeHole m cause quiet).darkHole n := by
  obtain ⟨st, power⟩ := h
  refine ⟨?_, (State.makeHole_power ..).trans (State.goDark_power_of_dark power m)⟩
  rw [State.makeHole_st]
  split
  · rfl
  · simpa using st

end Sys2Proof.Machine

/-! Rails of a field (R600–R603, R613). -/
namespace Sys2Proof.Machine

open Sys2Proof

/-! Stages. -/

/-- The paddocks of a stage that shuts down are DARK, and it is entered with its moment (R613). -/
theorem State.fieldShutdown_effect (s : State) (f : Nat) (vaon : Bool) :
    ((s.fieldShutdown f vaon).field f).stage = .shutdown s.now vaon ∧ (s.fieldShutdown f vaon).alertN = s.alertN
      ∧ ∀ n ∈ fieldPads f, ((s.fieldShutdown f vaon).pad n).power = .dark := by
  have alertN := foldl_eq State.alertN (f := fun s n =>
    (s.goDark n).modPad n fun p => { p with fuse := if p.fuse = .latched then .latched else .closed }) (fieldPads f) s fun s n _ => by simp
  unfold State.fieldShutdown
  refine ⟨by simp, by simpa using alertN, fun n mem => ?_⟩
  have dark := foldl_established (P := fun s => (s.pad n).power = .dark) (f := fun s n =>
    (s.goDark n).modPad n fun p => { p with fuse := if p.fuse = .latched then .latched else .closed }) (fieldPads f) s mem
    (fun s => by simp) fun s m h => by
      rw [State.modPad_pad]
      split
      · simp
      · exact State.goDark_power_of_dark h m
  simpa using dark

/-- The paddocks of a field as a latch leaves them (R73). -/
def State.fieldHoles (s : State) (f : Nat) : State := (fieldPads f).foldl (fun s n => (s.goDark n).makeHole n 3 true) s

theorem State.fieldHoles_darkHole (s : State) {f n : Nat} (mem : n ∈ fieldPads f) : (s.fieldHoles f).darkHole n :=
  foldl_established (P := fun s => s.darkHole n) _ s mem (fun s => s.darkHole_made n 3 true) fun _ m h => State.darkHole_kept h m 3 true

/-- A field as a latch leaves it (R603). -/
def Field.latch (x : Field) : Field := { x with latched := true, stage := .off, departed := none, throttle := false, ringOn := false }

theorem State.latchField_plant (s : State) (f : Nat) : (s.latchField f).plant = ((s.fieldHoles f).modField f Field.latch).plant := by
  unfold State.latchField
  simp only [State.powerEnds_plant, State.writeMapAlone_plant, State.report_plant, State.ring_plant, State.pmbus_plant]
  rfl

/-- A latched field is off, and its paddocks are DARK HOLEs (R73, R603, R614). -/
theorem State.latchField_effect (s : State) (f : Nat) :
    ((s.latchField f).field f).latched = true ∧ ((s.latchField f).field f).stage = .off ∧ ((s.latchField f).field f).departed = none
      ∧ ∀ n ∈ fieldPads f, (s.latchField f).darkHole n := by
  have field := field_eq_of_plant (s.latchField_plant f) f
  rw [State.modField_field, if_pos rfl] at field
  refine ⟨?_, ?_, ?_, fun n mem => State.darkHole_of_plant (s.latchField_plant f) (s.fieldHoles_darkHole mem)⟩
  · rw [field]
    rfl
  · rw [field]
    rfl
  · rw [field]
    rfl

/-- The paddocks of a list that nobody leases are taken in again (R603). -/
theorem foldl_unmask_free {l : List Nat} {n : Nat} (mem : n ∈ l) (s : State) (free : (s.pad n).leased = false) :
    ((l.foldl (fun s n => if (s.pad n).leased then s else s.modPad n fun p => { p with masked := false, hurdled := false }) s).pad n).masked
      = false
    ∧ ((l.foldl (fun s n => if (s.pad n).leased then s else s.modPad n fun p => { p with masked := false, hurdled := false }) s).pad
      n).hurdled = false := by
  have leased := foldl_eq (f := fun s n => if (s.pad n).leased then s else s.modPad n fun p => { p with masked := false, hurdled := false })
    (fun s => (s.pad n).leased) l s fun s m _ => by
      split
      · rfl
      · rw [State.modPad_pad]
        split
        · subst_vars
          rfl
        · rfl
  refine foldl_established (P := fun s => (s.pad n).leased = false → (s.pad n).masked = false ∧ (s.pad n).hurdled = false) l s mem
    (fun s => ?_) (fun s m h => ?_) (leased.trans free)
  · split
    · simp_all
    · simp
  · split
    · exact h
    · rw [State.modPad_pad]
      split
      · exact fun _ => ⟨rfl, rfl⟩
      · exact h

/-- How far a reading lies from its setting. -/
theorem deviation_eq (mv set : Nat) : (if mv < set then set - mv else mv - set) = max mv set - min mv set := by
  split <;> omega

/-- Settles O1. -/
theorem fieldRailsMoveAndDepart : Obligations.FieldRailsMoveAndDepart := by
  refine ⟨fun f t s running off here => ?step, fun f mv t s running on => ?core, fun f mv t s running on => ?always,
    fun f back d t s running gone => ?verdict⟩
  case step =>
    refine event_next running (by simp [off, here]) ?_
    dsimp only
    split <;> split <;> simp at * <;> omega
  case core =>
    refine event_next running (by simp [on]) ?_
    simp only [deviation_eq, Bool.false_eq_true, if_false, State.tick_fields]
    split
    · simp [on]
      omega
    · split
      · simp [on]
        omega
      · have masked : ∀ n ∈ fieldPads f, ∀ u : State, (((fieldPads f).foldl (fun s n => s.modPad n Paddock.maskAll) u).pad n).masked = true
            ∧ (((fieldPads f).foldl (fun s n => s.modPad n Paddock.maskAll) u).pad n).hurdled = true := fun n mem u =>
          foldl_modPad_pad_mem (P := fun p => p.masked = true ∧ p.hurdled = true) (fun _ _ _ => ⟨rfl, rfl⟩) _ u mem
        refine ⟨by simp, by simp [on], fun _ => by simp, fun _ => ⟨by simp, by simp, fun n mem => ?_⟩, fun near => absurd near ‹_›⟩
        simpa using masked n mem _
  case always =>
    refine event_next running (by simp [on]) ?_
    simp only [deviation_eq, if_true, State.tick_fields]
    split
    · simp [on]
      omega
    · split
      · simp [on]
        omega
      · obtain ⟨stage, alertN, -⟩ := State.fieldShutdown_effect ((((s.tick t).count .paddock (fieldTally f) tdSupply).alert alRail).ring
          "field" true [("at", .num f), ("event", .word "supply"), ("volts", .num mv)]) f true
        simp [stage, alertN]
        omega
  case verdict =>
    refine event_next running (by simp [gone]) ?_
    simp only [State.tick_fields, gone, Option.getD_some]
    obtain ⟨latched, stage, departed, holes⟩ := State.latchField_effect (s.tick t) f
    cases back with
    | none => exact ⟨departed, nofun, fun _ => ⟨latched, stage, holes⟩⟩
    | some b =>
      dsimp only [Option.any_some]
      split
      · rename_i held
        simp only [Bool.and_eq_true, decide_eq_true_eq] at held
        refine ⟨by simp, fun _ => ⟨by simp, by simp, fun n mem free => ?_⟩, fun late => absurd late ?_⟩
        · simpa using foldl_unmask_free mem (s.tick t |>.modField f fun x => { x with departed := none, seen := none }) (by simpa using free)
        · simp only [Bool.not_eq_false, Bool.and_eq_true, decide_eq_true_eq]
          exact held
      · rename_i late
        exact ⟨departed, fun c => absurd c late, fun _ => ⟨latched, stage, holes⟩⟩

end Sys2Proof.Machine

/-! Stages of a field (R612–R615). -/
namespace Sys2Proof.Machine

open Sys2Proof

/-- A command line that is accepted runs its body, and it is enough to speak of what that does. -/
theorem judged_next {s : State} {ln : Ln} {need : Level} {boot : Bool} {body : State → State} {P : State → Prop} (h : s.accepts ln need boot)
    (p : P (body (s.atLine ln))) : ∃ u, (Host.Outcome.next (s.judged ln need boot body) : Host.Outcome State Fault Refusal) = .next u ∧ P u :=
  next_of_eq (State.judged_accepts h) p

/-- The session of an accepted line speaks. -/
theorem State.accepts.speaks {s : State} {ln : Ln} {need : Level} {boot : Bool} (h : s.accepts ln need boot) :
    Speaks s (s.atLine ln) ln.sess := Speaks.atLine h.1

@[simp] theorem State.pmbus_wire (s : State) (addr page cmd data : Nat) :
    (s.pmbus addr page cmd data).wire = s.wire ++ [.pmbus addr page cmd data] := rfl

/-- Steps that leave a field but for its injector leave its stage and its latch. -/
theorem foldl_field_stage (l : List Nat) (f : Nat) (g : State → Nat → State)
    (h : ∀ s n, ((g s n).field f).sansInjector = (s.field f).sansInjector) (s : State) :
    ((l.foldl g s).field f).stage = (s.field f).stage ∧ ((l.foldl g s).field f).latched = (s.field f).latched := by
  have e := Field.eq_of_sansInjector (foldl_eq (fun s => (s.field f).sansInjector) l s fun s n _ => h s n)
  rw [e]
  exact ⟨rfl, rfl⟩

theorem State.ring_field (s : State) (obj : String) (fault : Bool) (kv : KVs) (f : Nat) : (s.ring obj fault kv).field f = s.field f := by
  simp

/-- What a retry that held makes of one paddock of the field (R614, R710). -/
def State.retryPad (s : State) (n : Nat) : State :=
  if s.boot.phase ≠ .ready then s.makeHole n 1 true
  else if (s.pad n).left then (s.makeHole n 4 true).modPad n fun p => { p with left := false }
  else match s.homePower n with
    | .dark => s
    | w => s.enqueueWave n w

theorem State.retryPad_field (s : State) (n f : Nat) : ((s.retryPad n).field f).sansInjector = (s.field f).sansInjector := by
  unfold State.retryPad
  split
  · exact s.makeHole_field n 1 true f
  · split
    · simpa using s.makeHole_field n 4 true f
    · split <;> simp

/-- Settles O2. -/
theorem fieldStagesRetryOrLatch : Obligations.FieldStagesRetryOrLatch := by
  refine ⟨fun f vaon t s running stage => ?shutdown, fun f since vaon t s running power reach stage late => ?retry,
    fun f since held t s running power stage => ?verdict, fun x y held ln s acc hx hy latched reach dev => ?clear⟩
  case shutdown =>
    refine event_next running ?_ ?_
    · obtain h | ⟨since, h⟩ := stage <;> simp [h]
    · obtain ⟨st, -, dark⟩ := State.fieldShutdown_effect (s.tick t) f vaon
      exact ⟨st, dark⟩
  case retry =>
    refine event_next running ?_ ?_
    · have reach' : (s.tick t).reachable (fieldAddr f) = true := reach
      simp [stage, power, late, reach']
    · simp [State.stageOnSequence]
  case verdict =>
    refine event_next running (by simp [power, stage]) ?_
    cases held with
    | false =>
      obtain ⟨latched, st, -, holes⟩ := State.latchField_effect (s.tick t) f
      exact ⟨st, by simpa using latched, fun _ => holes⟩
    | true =>
      simp only [if_true]
      have step : ∀ s n, ((State.retryPad s n).field f).sansInjector = (s.field f).sansInjector := fun s n => s.retryPad_field n f
      refine ⟨?_, ?_, nofun⟩
      · rw [State.ring_field]
        exact (foldl_field_stage _ f _ step _).1.trans (by simp)
      · rw [State.ring_field]
        exact (foldl_field_stage _ f _ step _).2.trans (by simp)
  case clear =>
    refine judged_next acc ?_
    have hx' : ¬ x ≥ 7 := by omega
    have hy' : ¬ y ≥ 12 := by omega
    have reach' : (s.atLine ln).reachable (fieldAddr (7 * y + x)) = true := by simpa [State.reachable] using reach
    simp only [hx', hy', State.atLine_fields, latched, reach', dev, decide_false, Bool.or_self, Bool.not_true, Bool.false_eq_true, if_false]
    cases held with
    | false =>
      simp only [Bool.false_eq_true, if_false, State.refuse]
      refine ⟨?_, False.elim, ?_⟩
      · simp [State.stageOnSequence, latched]
      · exact Answers.err (acc.speaks.of_sess (by simp [State.stageOnSequence])) _ _
    | true =>
      simp only [if_true]
      exact ⟨by simp [State.stageOnSequence], fun _ => by simp [State.stageOnSequence],
        Answers.ok (acc.speaks.of_sess (by simp [State.stageOnSequence])) _⟩

end Sys2Proof.Machine

/-! Waves, soft-starts and e-fuses (R562, R606–R611). -/
namespace Sys2Proof.Machine

open Sys2Proof

@[simp] theorem State.endB4_plant (s : State) : s.endB4.plant = s.plant := by
  unfold State.endB4
  split <;> rfl

theorem State.failTest_plant (s : State) (n : Nat) :
    (s.failTest n).plant = ({ (s.goDark n).makeHole n 1 false with wave := ((s.goDark n).makeHole n 1 false).wave.filter fun w => w.1 ≠ n } :
      State).plant :=
  State.endB4_plant _

/-- A paddock that fails its test is a DARK HOLE (R714, R716). -/
theorem State.failTest_effect (s : State) (n : Nat) : (s.failTest n).darkHole n ∧ ((s.failTest n).pad n).soft = false := by
  refine ⟨State.darkHole_of_plant (s.failTest_plant n) (s.darkHole_made n 1 false), ?_⟩
  rw [pad_of_plant (s.failTest_plant n)]
  change (((s.goDark n).makeHole n 1 false).pad n).soft = false
  simp

/-- The end of a creation changes nothing of a paddock. -/
theorem State.creationsEnd_plant (s : State) (n : Nat) :
    (s.folds.foldl (fun s f => if f.st = .created && f.pads.contains n then s.creationEnds f.id else s) s).plant = s.plant :=
  foldl_eq State.plant _ _ fun s f _ => by split <;> simp

/-- The state a paddock takes leaves its fuse. -/
theorem State.settlePad_fuse (s : State) (n m : Nat) : ((s.settlePad n).pad m).fuse = (s.pad m).fuse := by
  have dark : ((s.goDark n).pad m).fuse = (s.pad m).fuse := by
    rw [State.goDark_pad]
    split
    · subst_vars
      rfl
    · rfl
  unfold State.settlePad
  split
  · rw [State.modPad_pad]
    split
    · subst_vars
      simp [Paddock.shear]
    · simpa using dark
  · split
    · exact dark
    · refine (congrArg Paddock.fuse (pad_of_plant (State.creationsEnd_plant _ n) m)).trans ?_
      rw [State.modPad_pad]
      split
      · subst_vars
        rfl
      · rfl

/-- What a wave that takes `l` leaves in soft-start. -/
theorem foldl_soft (l : List (Nat × Power)) (s : State) :
    (∀ w ∈ l, ((l.foldl (fun s w => s.modPad w.1 fun p => { p with soft := true, goal := w.2 }) s).pad w.1).soft = true
      ∧ ∃ g, (w.1, g) ∈ l ∧ ((l.foldl (fun s w => s.modPad w.1 fun p => { p with soft := true, goal := w.2 }) s).pad w.1).goal = g)
    ∧ ∀ n, (∀ w ∈ l, w.1 ≠ n) → (l.foldl (fun s w => s.modPad w.1 fun p => { p with soft := true, goal := w.2 }) s).pad n = s.pad n := by
  induction l generalizing s with
  | nil => exact ⟨nofun, fun _ _ => rfl⟩
  | cons x l ih =>
    obtain ⟨mine, others⟩ := ih (s.modPad x.1 fun p => { p with soft := true, goal := x.2 })
    refine ⟨fun w mem => ?_, fun n out => ?_⟩
    · by_cases later : ∃ v ∈ l, v.1 = w.1
      · obtain ⟨v, vmem, e⟩ := later
        obtain ⟨soft, g, gmem, goal⟩ := mine v vmem
        rw [e] at soft gmem goal
        exact ⟨soft, g, List.mem_cons_of_mem _ gmem, goal⟩
      · have e : w = x := (List.mem_cons.mp mem).resolve_right fun c => later ⟨w, c, rfl⟩
        subst e
        simp only [List.foldl_cons, others w.1 fun v vmem c => later ⟨v, vmem, c⟩]
        simp
    · refine (others n fun w mem => out w (List.mem_cons_of_mem _ mem)).trans ?_
      rw [State.modPad_pad, if_neg (out x List.mem_cons_self).symm]

/-- N = 48 stands where every running neighbour lies between 24 and 96 (R149). -/
theorem foldl_max_half {l : List Nat} {x : Nat} (h : ∀ m ∈ l, ceilDiv m 2 ≤ x) : l.foldl (fun y m => max y (ceilDiv m 2)) x = x := by
  induction l with
  | nil => rfl
  | cons m l ih =>
    rw [List.foldl_cons, max_eq_left (h m List.mem_cons_self)]
    exact ih fun k mem => h k (List.mem_cons_of_mem _ mem)

theorem foldl_min_double {l : List Nat} {x : Nat} (h : ∀ m ∈ l, x ≤ 2 * m) : l.foldl (fun y m => min y (2 * m)) x = x := by
  induction l with
  | nil => rfl
  | cons m l ih =>
    rw [List.foldl_cons, min_eq_left (h m List.mem_cons_self)]
    exact ih fun k mem => h k (List.mem_cons_of_mem _ mem)

/-- The multipliers of the running neighbours of some paddocks. -/
def State.nearClocks (s : State) (ps : List Nat) : List Nat :=
  ps.flatMap fun n => (List.range 4).filterMap fun d => (padBeyond n d).bind fun m =>
    if ps.contains m || !s.lane0Live n m then none else some (s.pad m).n

theorem State.fitClock_eq (s : State) (ps : List Nat) (x : Nat) : s.fitClock ps x =
    (s.nearClocks ps).foldl (fun y m => min y (2 * m)) ((s.nearClocks ps).foldl (fun y m => max y (ceilDiv m 2)) x) := rfl

theorem State.fitClock_eq_of_near {s : State} {n x : Nat}
    (h : ∀ d < 4, ∀ m, padBeyond n d = some m → m = n ∨ (s.pad m).power = .dark ∨ ceilDiv (s.pad m).n 2 ≤ x ∧ x ≤ 2 * (s.pad m).n) :
    s.fitClock [n] x = x := by
  have near : ∀ k ∈ s.nearClocks [n], ceilDiv k 2 ≤ x ∧ x ≤ 2 * k := by
    intro k mem
    simp only [State.nearClocks, List.flatMap_cons, List.flatMap_nil, List.append_nil, List.mem_filterMap, List.mem_range,
      Option.bind_eq_some_iff] at mem
    obtain ⟨d, hd, m, beyond, e⟩ := mem
    split at e
    · cases e
    · rename_i live
      cases e
      obtain rfl | dark | fits := h d hd m beyond
      · simp at live
      · simp [State.lane0Live, dark] at live
      · exact fits
  rw [State.fitClock_eq, foldl_max_half fun k mem => (near k mem).1]
  exact foldl_min_double fun k mem => (near k mem).2

/-- A paddock whose soft-start has ended (R562, R606). -/
def Paddock.started (p : Paddock) : Paddock :=
  { p.shear with power := p.goal, soft := false, n := 48, target := 48, setting := 48, yoke := none, masked := false,
                 maskedCtx := [], hurdled := p.excl ≠ 0, revoked := [], clockLost := false, ic := 0 }

/-- A soft-start as it ends. -/
def State.softEnds (s : State) (n : Nat) : State :=
  let s1 := (s.modPad n Paddock.started).startLinks n
  let s1 := s1.modPad n fun p => { p with n := s1.fitClock [n] 48 }
  ((s1.folds.foldl (fun s f => if f.st = .created && f.pads.contains n then s.creationEnds f.id else s) s1).powerEnds).endB4

/-- The paddock is zero but for its multiplier, which is 48 where its running neighbours allow it (R149). -/
theorem State.softEnds_pad (s : State) (n : Nat) : ∃ x, (s.softEnds n).pad n = { (s.pad n).started with n := x }
    ∧ ((∀ d < 4, ∀ m, padBeyond n d = some m → m = n ∨ (s.pad m).power = .dark ∨ ceilDiv (s.pad m).n 2 ≤ 48 ∧ 48 ≤ 2 * (s.pad m).n) →
      x = 48) := by
  have links : ((s.modPad n Paddock.started).startLinks n).plant = (s.modPad n Paddock.started).plant := State.startLinks_plant _ _
  refine ⟨((s.modPad n Paddock.started).startLinks n).fitClock [n] 48, ?_, fun near => State.fitClock_eq_of_near fun d hd m beyond => ?_⟩
  · unfold State.softEnds
    dsimp only
    rw [pad_of_plant ((State.endB4_plant _).trans ((State.powerEnds_plant _).trans (State.creationsEnd_plant _ n))), State.modPad_pad, if_pos rfl,
      pad_of_plant links, State.modPad_pad, if_pos rfl]
  · rw [pad_of_plant links, State.modPad_pad]
    by_cases c : m = n
    · exact .inl c
    · rw [if_neg c]
      exact near d hd m beyond

/-- Settles O3. -/
theorem wavesAndFuses : Obligations.WavesAndFuses := by
  refine ⟨fun t s running power wave due => ?wave, fun n t s running soft => ?soft, fun n ma t s running high on => ?trip,
    fun n since t s running power fieldOn cooled tripped late => ?retry, fun n peak t s running power retrying graze => ?verdict⟩
  case wave =>
    refine event_next running (by simpa [power, wave] using due) ?_
    have go : (s.tick t).waveGo = s.waveGo := rfl
    obtain ⟨taken, others⟩ := foldl_soft s.waveGo (s.tick t)
    refine ⟨rfl, rfl, fun w mem => ?_, fun n out => ?_⟩
    · exact taken w mem
    · exact others n out
  case soft =>
    refine event_next (f := fun s => s.softEnds n) running (by simpa using soft) ?_
    obtain ⟨x, e, fits⟩ := (s.tick t).softEnds_pad n
    refine ⟨?_, ?_, ?_, ?_, ?_, ?_, ?_, ?_, fun near => ?_⟩
    case refine_9 =>
      rw [e]
      refine fits fun d hd m beyond => ?_
      obtain rfl | dark | ⟨low, high⟩ := near d hd m beyond
      · exact .inl rfl
      · exact .inr (.inl dark)
      · refine .inr (.inr ⟨?_, ?_⟩)
        · unfold ceilDiv
          simp only [State.tick_fields]
          omega
        · simp only [State.tick_fields]
          omega
    all_goals
      rw [e]
      rfl
  case trip =>
    refine event_next running (by simpa [high] using on) ?_
    simp only
    by_cases testing : s.testing = true
    · rw [if_pos (show (s.tick t).testing = true from testing)]
      obtain ⟨⟨st, dark⟩, soft⟩ := State.failTest_effect ((s.tick t).count .paddock n tdFuse) n
      exact ⟨dark, soft, fun _ => st, fun c => absurd (testing.symm.trans c) nofun⟩
    · rw [if_neg (show ¬ (s.tick t).testing = true from testing)]
      by_cases again : (s.pad n).fuse = .retrying
      · refine ⟨?_, ?_, fun c => absurd c testing, fun _ => ⟨?_, fun _ => ?_⟩⟩
        · simp [again]
        · simp [again]
        · simp [again]
        · simp [again, State.makeHole_st]
      · simp [again, testing]
  case retry =>
    refine event_next running ?_ ?_
    · have on : (s.tick t).fieldOn n = true := fieldOn
      simp only [State.tick_fields, State.tick_now, power, on, cooled, tripped, late]
      rfl
    · simp [State.enqueueWave]
  case verdict =>
    refine event_next running (by simp [power, retrying, graze]) ?_
    simp only [State.tick_fields]
    refine ⟨fun low cool => ?_, fun high => ?_⟩
    · simp [low, cool, State.settlePad_fuse]
    · simp [show ¬ peak ≤ 40000 by omega, State.makeHole_st]

end Sys2Proof.Machine

/-! The buses and PMBus (R595, R617–R619). -/
namespace Sys2Proof.Machine

open Sys2Proof

/-- A controller as it was written; the other one is as before. -/
@[simp] theorem State.setShc_shc (s : State) (i j : Nat) (x : Shc) : (s.setShc i x).shc j = if j = 0 ↔ i = 0 then x else s.shc j := by
  unfold State.setShc State.shc
  by_cases hi : i = 0 <;> by_cases hj : j = 0 <;> simp [hi, hj]

@[simp] theorem State.ring_reachable (s : State) (obj : String) (fault : Bool) (kv : KVs) (a : Nat) :
    (s.ring obj fault kv).reachable a = s.reachable a := by
  simp [State.reachable]

@[simp] theorem State.alert_reachable (s : State) (row a : Nat) : (s.alert row).reachable a = s.reachable a := rfl

@[simp] theorem State.count_reachable (s : State) (scope : TScope) (id idx a : Nat) : (s.count scope id idx).reachable a = s.reachable a := by
  simp [State.reachable]

/-- What the reads of other devices leave of one (R619). -/
theorem State.pmbusRead_other (s : State) (r : PmbRead) (a : Nat) (h : r.addr ≠ a) :
    (s.pmbusRead r).reachable a = s.reachable a ∧ tabGet ⟨[], 0⟩ (s.pmbusRead r).telem a = tabGet ⟨[], 0⟩ s.telem a := by
  unfold State.pmbusRead
  split
  · split <;> simp [State.reachable, h.symm]
  · split
    · exact ⟨rfl, rfl⟩
    · simp [State.reachable, h.symm]

/-- A read as it leaves its own device (R617, R619). -/
theorem State.pmbusRead_own (s : State) (r : PmbRead) : (s.pmbusRead r).reachable r.addr = (r.first || r.second)
    ∧ ((r.first || r.second) = true → tabGet ⟨[], 0⟩ (s.pmbusRead r).telem r.addr = ⟨r.pages, r.pin⟩) := by
  unfold State.pmbusRead
  split
  · rename_i answered
    rw [answered]
    split <;> simp [State.reachable]
  · rename_i silent
    refine ⟨?_, fun c => absurd c silent⟩
    rw [Bool.not_eq_true] at silent
    rw [silent]
    split
    · rename_i known
      simpa [State.reachable] using known
    · simp [State.reachable]

/-- The reads of a round as they leave a device that is not among them. -/
theorem foldl_pmbusRead_other (l : List PmbRead) (s : State) {a : Nat} (h : ∀ q ∈ l, q.addr ≠ a) :
    (l.foldl (fun s r => s.pmbusRead r) s).reachable a = s.reachable a
      ∧ tabGet ⟨[], 0⟩ (l.foldl (fun s r => s.pmbusRead r) s).telem a = tabGet ⟨[], 0⟩ s.telem a :=
  ⟨foldl_eq (fun s => s.reachable a) l s fun s q mem => (s.pmbusRead_other q a (h q mem)).1,
    foldl_eq (fun s => tabGet ⟨[], 0⟩ s.telem a) l s fun s q mem => (s.pmbusRead_other q a (h q mem)).2⟩

/-- A controller's counts after a sample of both buses (R595). -/
def Shc.busSampled (c : Shc) (mvA mvB : Nat) : Shc :=
  { c with lowA := runUp (mvA < 45000) c.lowA, lowB := runUp (mvB < 45000) c.lowB,
           rngA := runUp (mvA < 48000 || 60000 < mvA) c.rngA, rngB := runUp (mvB < 48000 || 60000 < mvB) c.rngB }

/-- A sample kept with its controller, and shown where that one is active (R595). -/
def State.busShown (s : State) (i mvA mvB n : Nat) (c : Shc) : State :=
  let s1 := (s.setShc i c).addTally .shc i thBus n
  if s1.active = some i then
    { s1 with busA := ⟨mvA, decide (c.lowA ≥ 4), decide (c.rngA ≥ 4)⟩, busB := ⟨mvB, decide (c.lowB ≥ 4), decide (c.rngB ≥ 4)⟩ }
  else s1

theorem State.busShown_effect (s : State) (i mvA mvB n : Nat) (c : Shc) :
    (s.busShown i mvA mvB n c).shc i = c
      ∧ (s.active = some i → (s.busShown i mvA mvB n c).busA = ⟨mvA, decide (c.lowA ≥ 4), decide (c.rngA ≥ 4)⟩
        ∧ (s.busShown i mvA mvB n c).busB = ⟨mvB, decide (c.lowB ≥ 4), decide (c.rngB ≥ 4)⟩) := by
  unfold State.busShown
  by_cases h : s.active = some i <;> simp [h]

/-- The alert and the bells of a sample that flips a state (R595). -/
def State.busSampled (s : State) (i mvA mvB : Nat) : State :=
  let c := s.shc i
  let c' := c.busSampled mvA mvB
  let flips := [(c.lowA, c'.lowA), (c.rngA, c'.rngA), (c.lowB, c'.lowB), (c.rngB, c'.rngB)].map fun p =>
    decide (p.1 ≥ 4) != decide (p.2 ≥ 4)
  let n := (flips.filter id).length
  let s2 := s.busShown i mvA mvB n c'
  if n = 0 then s2
  else
    let s3 := if c'.lowA ≥ 4 || c'.lowB ≥ 4 || c'.rngA ≥ 4 || c'.rngB ≥ 4 then s2.alert alBus else s2
    if s3.active = some i then
      (List.range n).foldl (fun s _ => s.ring "bus" true
        [("bus", .word (if flips.getD 0 false || flips.getD 1 false then "a" else "b")),
         ("state", .word (if c'.lowA ≥ 4 || c'.lowB ≥ 4 then "low" else if c'.rngA ≥ 4 || c'.rngB ≥ 4 then "range" else "ok"))]) s3
    else s3

/-- Alerts and bells leave the buses and the controllers. -/
theorem foldl_ring_buses (l : List Nat) (obj : String) (kv : KVs) (s : State) :
    (l.foldl (fun s _ => s.ring obj true kv) s).busA = s.busA ∧ (l.foldl (fun s _ => s.ring obj true kv) s).busB = s.busB
      ∧ ∀ i, (l.foldl (fun s _ => s.ring obj true kv) s).shc i = s.shc i :=
  ⟨foldl_eq State.busA l s fun s _ _ => by simp, foldl_eq State.busB l s fun s _ _ => by simp,
    fun i => foldl_eq (fun s => s.shc i) l s fun s _ _ => by simp⟩

theorem State.busSampled_effect (s : State) (i mvA mvB : Nat) :
    (s.busSampled i mvA mvB).shc i = (s.shc i).busSampled mvA mvB
      ∧ (s.active = some i →
        (s.busSampled i mvA mvB).busA = ⟨mvA, decide (4 ≤ ((s.shc i).busSampled mvA mvB).lowA), decide (4 ≤ ((s.shc i).busSampled mvA mvB).rngA)⟩
        ∧ (s.busSampled i mvA mvB).busB =
          ⟨mvB, decide (4 ≤ ((s.shc i).busSampled mvA mvB).lowB), decide (4 ≤ ((s.shc i).busSampled mvA mvB).rngB)⟩) := by
  have shown := fun n => s.busShown_effect i mvA mvB n ((s.shc i).busSampled mvA mvB)
  unfold State.busSampled
  dsimp only
  split
  · exact shown _
  · generalize List.map _ _ = flips
    split
    all_goals
      split
      · rw [(foldl_ring_buses _ _ _ _).1, (foldl_ring_buses _ _ _ _).2.1, (foldl_ring_buses _ _ _ _).2.2]
        exact shown _
      · exact shown _

/-- Settles O4. -/
theorem busesAndPmbus : Obligations.BusesAndPmbus := by
  refine ⟨fun i mvA mvB t s running => ?sample, fun addr status t s running active => ?alert,
    fun before r rest t s running active others => ?round, fun r t s running active lost => ?poll⟩
  case sample =>
    refine event_next (f := fun s => s.busSampled i mvA mvB) running rfl ?_
    obtain ⟨shc, buses⟩ := (s.tick t).busSampled_effect i mvA mvB
    rw [shc]
    exact ⟨by simp [Shc.busSampled, runUp], by simp [Shc.busSampled, runUp], by simp [Shc.busSampled, runUp], by simp [Shc.busSampled, runUp], buses⟩
  case alert =>
    refine event_next running (by simpa using active) ?_
    simp
  case round =>
    refine event_next running (by simpa using active) ?_
    have own := State.pmbusRead_own (before.foldl (fun s r => s.pmbusRead r) (s.tick t)) r
    have rest := foldl_pmbusRead_other rest (State.pmbusRead (before.foldl (fun s r => s.pmbusRead r) (s.tick t)) r) others
    rw [List.foldl_append, List.foldl_cons]
    dsimp only
    split
    · simpa [rest] using own
    · simpa [rest] using own
  case poll =>
    refine event_next running ?_ ?_
    · have known : r.addr ∈ s.unreach := by simpa [State.reachable] using lost
      simp [active, known]
    · split <;> simp_all [State.reachable]

end Sys2Proof.Machine

/-! The power commands (Table CMD-4). -/
namespace Sys2Proof.Machine

open Sys2Proof

/-- What sessions do not hold reads the same when a line comes in. -/
theorem atLine_reads {α : Type} (F : State → α) (s : State) (ln : Ln)
    (h : ∀ now sess waits, F { s with now := now, sess := sess, waits := waits } = F s) : F (s.atLine ln) = F s := by
  obtain ⟨e, -⟩ := OnlySessions.atLine s ln
  rw [e]
  exact h _ _ _

/-- A session that has its answer keeps it while more is sent. -/
theorem Answers.grows {s t u : State} {ln : Ln} {r : RLine} (h : Answers s t ln r) (k : ∃ more, (u.cs ln.sess).out = (t.cs ln.sess).out ++ more) :
    Answers s u ln r := by
  obtain ⟨before, after, e⟩ := h
  obtain ⟨more, m⟩ := k
  exact ⟨before, after ++ more, by rw [m, e]; simp⟩

theorem Speaks.settle {s t : State} {i : Nat} (h : Speaks s t i) (p : WaitFor → Bool) (r : RLine) : Speaks s (t.settle p r) i := by
  refine foldl_inv (P := fun t => Speaks s t i) _ (h.of_sess rfl) fun u w k => ?_
  exact k.final _ _ _ _

theorem Speaks.powerEnds {s t : State} {i : Nat} (h : Speaks s t i) : Speaks s t.powerEnds i := by
  refine foldl_inv (P := fun t => Speaks s t i) _ h fun u ps k => ?_
  split
  · exact k.settle _ _
  · split
    · exact k.settle _ _
    · exact k

/-- A session that speaks goes on from here. -/
theorem Speaks.onward {s t : State} {i : Nat} (h : Speaks s t i) : Speaks t t i := ⟨h.1, h.2.1, [], by simp⟩

/-- An answer given stands through what speaks on. -/
theorem Answers.onward {s t u : State} {ln : Ln} {r : RLine} (h : Answers s t ln r) (k : Speaks t u ln.sess) : Answers s u ln r :=
  h.grows k.2.2

/-- An invariant of the steps of a fold, for the elements of its list alone. -/
theorem foldl_inv_mem {α β : Type} {f : β → α → β} {I : β → Prop} (l : List α) (b : β) (inv : I b)
    (step : ∀ b, ∀ x ∈ l, I b → I (f b x)) : I (l.foldl f b) := by
  induction l generalizing b with
  | nil => exact inv
  | cons x l ih => exact ih _ (step b x List.mem_cons_self inv) fun b y h => step b y (List.mem_cons_of_mem _ h)

/-- What a step of a fold establishes while an invariant holds, and every step keeps, holds after the fold. -/
theorem foldl_established_of {α β : Type} {f : β → α → β} {I P : β → Prop} {a : α} (l : List α) (b : β) (mem : a ∈ l) (inv : I b)
    (step : ∀ b, ∀ x ∈ l, I b → I (f b x)) (est : ∀ b, I b → P (f b a)) (keep : ∀ b, ∀ x ∈ l, I b → P b → P (f b x)) : P (l.foldl f b) := by
  obtain ⟨front, back, rfl⟩ := List.append_of_mem mem
  rw [List.foldl_append, List.foldl_cons]
  have i := foldl_inv_mem front b inv fun b x h => step b x (List.mem_append_left _ h)
  refine (foldl_inv_mem (I := fun b => I b ∧ P b) back _ ⟨step _ a (by simp) i, est _ i⟩ fun b x h k => ?_).2
  have mem : x ∈ front ++ a :: back := List.mem_append_right _ (List.mem_cons_of_mem _ h)
  exact ⟨step b x mem k.1, keep b x mem k.1 k.2⟩

@[simp] theorem State.await_waits (s : State) (ln : Ln) (w : WaitFor) :
    (s.await ln w).waits = s.waits ++ [⟨ln.sess, ln.tag, ln.crc, w⟩] := rfl

/-! Power on in GRAZE (R605). -/

/-- A paddock set to GRAZE: put in the wave where it is DARK (R605). -/
def State.grazeOn (s : State) (n : Nat) : State :=
  let s2 := s.modPad n fun p => { p with opDark := false }
  if (s2.pad n).power = .dark then s2.enqueueWave n .graze else s2.modPad n fun p => { p with power := s2.homePower n }

theorem State.enqueueWave_any (s : State) (n : Nat) (goal : Power) : (s.enqueueWave n goal).wave.any (fun w => w.1 = n) = true := by
  unfold State.enqueueWave
  split
  · assumption
  · simp

theorem State.enqueueWave_any_mono {s : State} {m : Nat} (h : s.wave.any (fun w => w.1 = m) = true) (n : Nat) (goal : Power) :
    (s.enqueueWave n goal).wave.any (fun w => w.1 = m) = true := by
  unfold State.enqueueWave
  split
  · exact h
  · simp only [List.any_append, h, Bool.true_or]

theorem State.grazeOn_entry (s : State) (n m : Nat) : (s.grazeOn n).entry m = s.entry m := by
  unfold State.grazeOn
  dsimp only
  split <;> simp

theorem State.grazeOn_pad_other (s : State) {n m : Nat} (h : m ≠ n) : (s.grazeOn n).pad m = s.pad m := by
  unfold State.grazeOn
  dsimp only
  split <;> simp [h]

/-- A paddock that is free and no HOLE keeps being powered or DARK. -/
theorem State.grazeOn_pad_own (s : State) {n : Nat} (free : (s.pad n).leased = false) (whole : (s.entry n).st ≠ 2) :
    ((s.grazeOn n).pad n).opDark = false ∧ ((s.grazeOn n).pad n).leased = false
      ∧ (((s.grazeOn n).pad n).power = .dark ↔ (s.pad n).power = .dark) := by
  unfold State.grazeOn
  dsimp only
  split
  · rename_i dark
    simp at dark
    simpa [dark, Paddock.leased] using free
  · rename_i lit
    simp at lit
    have home : (s.modPad n fun p => { p with opDark := false }).homePower n ≠ .dark := by
      simp only [Paddock.leased] at free
      simp [State.homePower, whole, Paddock.leased, free]
      split
      · nofun
      · split <;> nofun
    simpa [lit, home, Paddock.leased] using free

/-- A paddock set to GRAZE leaves the sessions. -/
theorem State.grazeOn_sess (s : State) (n : Nat) : (s.grazeOn n).sess = s.sess := by
  unfold State.grazeOn
  dsimp only
  split <;> simp

theorem State.grazeOn_wave_mono {s : State} {m : Nat} (h : s.wave.any (fun w => w.1 = m) = true) (n : Nat) :
    (s.grazeOn n).wave.any (fun w => w.1 = m) = true := by
  unfold State.grazeOn
  dsimp only
  split
  · exact State.enqueueWave_any_mono (by simpa using h) n .graze
  · simpa using h

theorem State.grazeOn_wave_own {s : State} {n : Nat} (dark : (s.pad n).power = .dark) : (s.grazeOn n).wave.any (fun w => w.1 = n) = true := by
  unfold State.grazeOn
  simp only [State.modPad_pad, if_true, dark]
  exact State.enqueueWave_any _ n .graze

/-- Free paddocks set to GRAZE: none changes whether it is DARK, and those that are wait for a wave (R605). -/
theorem foldl_grazeOn (ps : List Nat) (s : State) (free : ∀ n ∈ ps, (s.pad n).leased = false ∧ (s.entry n).st ≠ 2) :
    ∀ n ∈ ps, ((ps.foldl State.grazeOn s).pad n).opDark = false
      ∧ (((ps.foldl State.grazeOn s).pad n).power = .dark ↔ (s.pad n).power = .dark)
      ∧ ((s.pad n).power = .dark → (ps.foldl State.grazeOn s).wave.any (fun w => w.1 = n) = true) := by
  intro n mem
  let I : State → Prop := fun t => ∀ m ∈ ps, (t.pad m).leased = false ∧ (t.entry m).st ≠ 2 ∧ ((t.pad m).power = .dark ↔ (s.pad m).power = .dark)
  have step : ∀ t, ∀ k ∈ ps, I t → I (t.grazeOn k) := by
    intro t k _ i m mem
    obtain ⟨free, whole, power⟩ := i m mem
    by_cases e : m = k
    · subst e
      obtain ⟨-, free', power'⟩ := t.grazeOn_pad_own free whole
      exact ⟨free', by rwa [State.grazeOn_entry], power'.trans power⟩
    · rw [State.grazeOn_pad_other t e, State.grazeOn_entry]
      exact ⟨free, whole, power⟩
  have start : I s := fun m mem => ⟨(free m mem).1, (free m mem).2, Iff.rfl⟩
  refine ⟨?_, (foldl_inv_mem (I := I) ps s start step n mem).2.2, fun dark => ?_⟩
  · refine foldl_established_of (I := I) (P := fun t => (t.pad n).opDark = false) ps s mem start step (fun t i => ?_) fun t k _ i h => ?_
    · exact (t.grazeOn_pad_own (i n mem).1 (i n mem).2.1).1
    · by_cases e : n = k
      · subst e
        exact (t.grazeOn_pad_own (i n mem).1 (i n mem).2.1).1
      · rwa [State.grazeOn_pad_other t e]
  · exact foldl_established_of (I := I) (P := fun t => t.wave.any (fun w => w.1 = n) = true) ps s mem start step
      (fun t i => State.grazeOn_wave_own ((i n mem).2.2.mpr dark)) fun t k _ _ h => State.grazeOn_wave_mono h k

/-- A paddock the operator sets DARK (R605). -/
def State.darkOn (s : State) (n : Nat) : State := (s.goDark n).modPad n fun p => { p with opDark := true }

theorem foldl_darkOn (ps : List Nat) (s : State) : (ps.foldl State.darkOn s).sess = s.sess
    ∧ ∀ n ∈ ps, ((ps.foldl State.darkOn s).pad n).opDark = true ∧ ((ps.foldl State.darkOn s).pad n).power = .dark := by
  refine ⟨foldl_eq (f := State.darkOn) State.sess _ _ fun s n _ => by simp [State.darkOn], fun n mem => ?_⟩
  refine foldl_established (f := State.darkOn) (P := fun s => (s.pad n).opDark = true ∧ (s.pad n).power = .dark) ps s mem (fun s => by simp [State.darkOn])
    fun s m h => ?_
  by_cases e : n = m
  · simp [State.darkOn, e]
  · simpa [State.darkOn, e] using h

theorem foldl_setClock_n (ps : List Nat) (n : Nat) (hot : Bool) (s : State) (m : Nat) :
    ((ps.foldl (fun s m => s.modPad m fun p => { p with setting := n, target := if hot then p.n else n }) s).pad m).n = (s.pad m).n :=
  foldl_eq (f := fun s m => s.modPad m fun p => { p with setting := n, target := if hot then p.n else n }) (fun s => (s.pad m).n) ps s
    fun s k _ => by
      rw [State.modPad_pad]
      split
      · subst_vars
        rfl
      · rfl

/-- A clock setting is the target at once, unless a throttled field holds the clock where it is (R583). -/
theorem foldl_setClock (ps : List Nat) (n : Nat) (hot : Bool) (s : State) : ∀ m ∈ ps,
    ((ps.foldl (fun s m => s.modPad m fun p => { p with setting := n, target := if hot then p.n else n }) s).pad m).setting = n
    ∧ ((ps.foldl (fun s m => s.modPad m fun p => { p with setting := n, target := if hot then p.n else n }) s).pad m).target =
      if hot then (s.pad m).n else n := by
  intro m mem
  obtain ⟨setting, target⟩ := foldl_modPad_pad_mem (P := fun p => p.setting = n ∧ p.target = if hot then p.n else n)
    (g := fun _ _ p => { p with setting := n, target := if hot then p.n else n }) (fun _ _ _ => ⟨rfl, rfl⟩) ps s mem
  exact ⟨setting, by rw [target, foldl_setClock_n]⟩

/-- Settles O5. -/
theorem powerCommandsAct : Obligations.PowerCommandsAct := by
  refine ⟨fun shared ln s acc reach dev => ?bus, fun x y mv ln s acc hx hy low high row latched on here reach dev fits slow => ?rail,
    fun at_ ps dark ln s acc loc free => ?power, fun at_ ps0 ps n ln s acc loc low high eps rails near nearT => ?clock, fun ln s acc => ?view⟩
  case bus =>
    have reach' : (s.atLine ln).reachable 0x6C = true := by simpa [State.reachable] using reach
    refine judged_next acc ?_
    simp only [reach', dev, Bool.not_true, Bool.or_self, Bool.false_eq_true, if_false]
    refine ⟨.trans ?_ (.ok _ ln _), Answers.ok (acc.speaks.of_sess (by simp)) _⟩
    obtain ⟨e, waits⟩ := OnlySessions.atLine s ln
    refine ⟨?_, by simpa using waits⟩
    rw [e]
    rfl
  case rail =>
    have hx' : ¬ x ≥ 7 := by omega
    have hy' : ¬ y ≥ 12 := by omega
    have row' : (mv < 650 || 850 < mv || mv % 25 ≠ 0) = false := by simp; omega
    have reach' : (s.atLine ln).reachable (fieldAddr (7 * y + x)) = true := by simpa [State.reachable] using reach
    have sum : (s.atLine ln).coreSum = s.coreSum := by simp [State.coreSum]
    have slow' : ((fieldPads (7 * y + x)).any fun n =>
        (s.pad n).power ≠ .dark && decide (railMaxN mv < max (s.pad n).n (s.pad n).target)) = false := by
      rw [List.any_eq_false]
      intro n mem
      obtain dark | fits := slow n mem
      · simp [dark]
      · simp only [Bool.and_eq_true, decide_eq_true_eq, not_and]
        omega
    refine judged_next acc ?_
    simp only [hx', hy', row', reach', sum, fits, slow', State.atLine_fields, latched, on, here, dev, ne_eq, not_true, decide_false, Bool.or_self,
      Option.isSome_none, Bool.not_true, Bool.false_eq_true, if_false]
    split
    · rename_i there
      exact ⟨by simp, fun _ => Answers.ok (acc.speaks.of_sess (by simp)) _, fun c => absurd there c⟩
    · rename_i apart
      exact ⟨by simp, fun c => absurd c apart, fun _ => by simp⟩
  case power =>
    have free' : (ps.any fun n => ((s.atLine ln).pad n).leased || ((s.atLine ln).entry n).st = 2 || ((s.atLine ln).entry n).st = 3) = false := by
      rw [List.any_eq_false]
      intro n mem
      obtain ⟨a, b, c⟩ := free n mem
      simp [a, b, c]
    cases dark with
    | true =>
      obtain ⟨sess, off⟩ := foldl_darkOn ps (s.atLine ln)
      have e : exec (.setPower at_ true ln) s = .next ((((ps.foldl State.darkOn (s.atLine ln)).ok ln
          [("paddocks", .num ps.length), ("state", .word "dark")])).powerEnds) := by
        refine congrArg _ ((State.judged_accepts acc).trans ?_)
        simp only [loc, free', Bool.true_or, if_true, Bool.false_eq_true, if_false]
        rfl
      have speaks := acc.speaks.of_sess sess
      refine ⟨_, e, fun n mem => ⟨?_, fun _ => ?_, nofun, nofun⟩,
        fun _ => (Answers.ok speaks _).onward (speaks.answer ln _).onward.powerEnds, nofun⟩
      · simpa using (off n mem).1
      · simpa using (off n mem).2
    | false =>
      have on := foldl_grazeOn ps (s.atLine ln) fun n mem => by
        obtain ⟨a, b, -⟩ := free n mem
        simp [a, b]
      have sess : (ps.foldl State.grazeOn (s.atLine ln)).sess = (s.atLine ln).sess := foldl_eq State.sess _ _ fun s n _ => s.grazeOn_sess n
      have e : exec (.setPower at_ false ln) s = .next (if ps.all fun n => ((ps.foldl State.grazeOn (s.atLine ln)).pad n).power ≠ .dark then
          ((ps.foldl State.grazeOn (s.atLine ln)).ok ln [("paddocks", .num ps.length), ("state", .word "graze")]).powerEnds
        else (ps.foldl State.grazeOn (s.atLine ln)).await ln (.power ps)) := by
        refine congrArg _ ((State.judged_accepts acc).trans ?_)
        simp only [loc, free', Bool.false_or, Bool.false_eq_true, if_false]
        rfl
      by_cases lit : ∀ n ∈ ps, (s.pad n).power ≠ .dark
      · have all : (ps.all fun n => ((ps.foldl State.grazeOn (s.atLine ln)).pad n).power ≠ .dark) = true := by
          rw [List.all_eq_true]
          intro n mem
          simpa [(on n mem).2.1] using lit n mem
        rw [if_pos all] at e
        have speaks := acc.speaks.of_sess sess
        refine ⟨_, e, fun n mem => ⟨?_, nofun, fun _ dark => absurd dark (lit n mem), fun _ _ => ?_⟩,
          fun _ => (Answers.ok speaks _).onward (speaks.answer ln _).onward.powerEnds, fun _ ⟨n, mem, dark⟩ => absurd dark (lit n mem)⟩
        · simpa using (on n mem).1
        · simpa [(on n mem).2.1] using lit n mem
      · have all : ¬ (ps.all fun n => ((ps.foldl State.grazeOn (s.atLine ln)).pad n).power ≠ .dark) = true := by
          rw [List.all_eq_true]
          refine fun c => lit fun n mem => ?_
          simpa [(on n mem).2.1] using c n mem
        rw [if_neg all] at e
        refine ⟨_, e, fun n mem => ⟨?_, nofun, fun _ dark => ?_, fun _ bright => ?_⟩, fun c => absurd (c.resolve_left nofun) lit, fun _ _ => by simp⟩
        · simpa using (on n mem).1
        · have queued := (on n mem).2.2 (by simpa using dark)
          simpa using queued
        · simpa [(on n mem).2.1] using bright
  case clock =>
    have yokes : (s.atLine ln).withYokes ps0 = s.withYokes ps0 := atLine_reads (fun s => s.withYokes ps0) s ln fun _ _ _ => rfl
    have ratio : ∀ ps g, (s.atLine ln).ratioAll ps n g = s.ratioAll ps n g := fun ps g =>
      atLine_reads (fun s => s.ratioAll ps n g) s ln fun _ _ _ => rfl
    have rails' : (ps.any fun m => decide (railMaxN (min (s.field (fieldOf m)).vcore (s.field (fieldOf m)).vtarget) < n)) = false := by
      rw [List.any_eq_false]
      intro m mem
      simpa using rails m mem
    refine judged_next acc ?_
    simp only [loc, State.inRange, low, high, decide_true, Bool.and_self, if_true, yokes, State.atLine_fields, ← eps, ratio, rails', near, nearT,
      Bool.not_true, Bool.false_eq_true, if_false]
    generalize (ps.any fun m => (s.field (fieldOf m)).throttle) = hot
    have set := foldl_setClock ps n hot (s.atLine ln)
    simp only [State.atLine_fields] at set
    split
    · rename_i c
      refine ⟨fun m mem => ?_, fun _ => Answers.ok (acc.speaks.of_sess (by simp)) _⟩
      simpa using set m mem
    · rename_i c
      refine ⟨fun m mem => ?_, fun given => absurd (by simpa using given) c⟩
      simpa using set m mem
  case view =>
    have sum : (s.atLine ln).coreSum = s.coreSum := by simp [State.coreSum]
    have pin : (s.atLine ln).totalPin = s.totalPin := by simp [State.totalPin]
    refine judged_next acc ?_
    refine ⟨(OnlySessions.atLine s ln).trans (.parts _ ln _ _), ?_⟩
    simp only [sum, pin, State.atLine_fields]
    exact Answers.parts acc.speaks _ _

end Sys2Proof.Machine

/-! Island clocks, rings and the reference (R559–R589). -/
namespace Sys2Proof.Machine

open Sys2Proof

/-- Nothing but the fields differs. -/
@[reducible] def SameBesideFields (s t : State) : Prop :=
  t.now = s.now ∧
  t.freeCtr = s.freeCtr ∧ t.resetN = s.resetN ∧ t.pwrFail = s.pwrFail ∧ t.pwrFailAt = s.pwrFailAt ∧ t.frozen = s.frozen
    ∧ t.faultN = s.faultN ∧ t.alertN = s.alertN ∧ t.alertCause = s.alertCause ∧ t.ready = s.ready ∧ t.readyAt = s.readyAt
    ∧ t.vstby = s.vstby ∧ t.fuses = s.fuses ∧ t.flash = s.flash ∧ t.writing = s.writing ∧ t.place = s.place ∧ t.net = s.net
    ∧ t.boot = s.boot ∧ t.sel = s.sel ∧ t.quiet = s.quiet ∧ t.active = s.active ∧ t.shcA = s.shcA ∧ t.shcB = s.shcB
    ∧ t.mirrorSeq = s.mirrorSeq ∧ t.mirrorProbe = s.mirrorProbe ∧ t.scratch = s.scratch ∧ t.sess = s.sess ∧ t.con0 = s.con0
    ∧ t.con1 = s.con1 ∧ t.waits = s.waits ∧ t.garp = s.garp ∧ t.stages = s.stages ∧ t.nextStage = s.nextStage
    ∧ t.retained = s.retained ∧ t.fwUpdate = s.fwUpdate ∧ t.bellSeq = s.bellSeq ∧ t.bells = s.bells
    ∧ t.ledgerSeq = s.ledgerSeq ∧ t.ledgerHeld = s.ledgerHeld ∧ t.ledgerStopped = s.ledgerStopped ∧ t.ptpPort = s.ptpPort
    ∧ t.ptpHeard = s.ptpHeard ∧ t.tallies = s.tallies ∧ t.busA = s.busA ∧ t.busB = s.busB ∧ t.shared = s.shared
    ∧ t.telem = s.telem ∧ t.unreach = s.unreach ∧ t.refAbsent = s.refAbsent ∧ t.refSince = s.refSince
    ∧ t.meshLocked = s.meshLocked ∧ t.inlet = s.inlet ∧ t.outlet = s.outlet ∧ t.loopSince = s.loopSince ∧ t.wave = s.wave
    ∧ t.lastWave = s.lastWave ∧ t.map = s.map ∧ t.mapSeq = s.mapSeq ∧ t.pads = s.pads ∧ t.links = s.links ∧ t.lane0 = s.lane0
    ∧ t.neds = s.neds ∧ t.meds = s.meds ∧ t.spds = s.spds ∧ t.nedTemp = s.nedTemp ∧ t.spdTemp = s.spdTemp
    ∧ t.medTemp = s.medTemp ∧ t.flockUp = s.flockUp ∧ t.flockMembers = s.flockMembers ∧ t.flockInfo = s.flockInfo
    ∧ t.excludedW = s.excludedW ∧ t.folds = s.folds ∧ t.scrubs = s.scrubs ∧ t.paused = s.paused ∧ t.secondAt = s.secondAt
    ∧ t.incCtr = s.incCtr ∧ t.channels = s.channels ∧ t.sessions = s.sessions ∧ t.reports = s.reports ∧ t.notices = s.notices
    ∧ t.wsel = s.wsel ∧ t.wstat = s.wstat ∧ t.shadow = s.shadow ∧ t.taps = s.taps ∧ t.wire = s.wire ∧ t.pending = s.pending
    ∧ (∀ j, t.pad j = s.pad j) ∧ (∀ j, t.ned j = s.ned j) ∧ (∀ j, t.med j = s.med j) ∧ (∀ j, t.spd j = s.spd j)
    ∧ (∀ j, t.entry j = s.entry j) ∧ (∀ j, t.foldOf j = s.foldOf j) ∧ (∀ j, t.stOf j = s.stOf j)
    ∧ (∀ j, t.session j = s.session j) ∧ (∀ j, t.channel j = s.channel j) ∧ (∀ j, t.shc j = s.shc j) ∧ (∀ j, t.cs j = s.cs j)
    ∧ ∀ j l, t.link j l = s.link j l

/-- The same as one equation. -/
def OnlyFields (s t : State) : Prop := t = { s with fields := t.fields }

theorem OnlyFields.same {s t : State} (h : OnlyFields s t) : SameBesideFields s t := by
  rw [h]
  (repeat' apply And.intro) <;> intros <;> rfl

theorem OnlyFields.trans {s t u : State} (h : OnlyFields s t) (k : OnlyFields t u) : OnlyFields s u := by
  unfold OnlyFields at *
  rw [k, h]

theorem OnlyFields.foldl {α : Type} {f : State → α → State} (h : ∀ s a, OnlyFields s (f s a)) (l : List α) (s : State) :
    OnlyFields s (l.foldl f s) :=
  foldl_inv l (P := OnlyFields s) rfl fun t a k => k.trans (h t a)

@[simp] theorem State.reinject_same (s : State) : SameBesideFields s s.reinject :=
  (OnlyFields.foldl (fun s f => by split <;> rfl) (List.range 84) s).same

/-! Steps and losses of clocks. -/

/-- A clock change that ends leaves the clocks. -/
theorem State.endRun_pad (s : State) (k m : Nat) : ∃ w, (s.endRun k).pad m = { s.pad m with power := w } := by
  unfold State.endRun
  split
  · rw [State.modPad_pad]
    split
    · subst_vars
      exact ⟨_, rfl⟩
    · exact ⟨_, rfl⟩
  · exact ⟨_, rfl⟩

theorem foldl_endRun_n (l : List Nat) (s : State) (m : Nat) : ((l.foldl (fun s m => s.endRun m) s).pad m).n = (s.pad m).n :=
  foldl_eq (f := fun s m => s.endRun m) (fun s => (s.pad m).n) l s fun s k _ => by
    obtain ⟨w, e⟩ := s.endRun_pad k m
    rw [e]

/-- Every member of the yoke takes the step (R572). -/
theorem State.stepClock_n_of_ratioOk {s : State} {n x : Nat} (h : ∀ m ∈ s.yokeOf n, s.ratioOk m (stepToward (s.pad n).n x) = true) :
    ∀ m ∈ s.yokeOf n, ((s.stepClock n x).pad m).n = stepToward (s.pad n).n x := by
  intro m mem
  unfold State.stepClock
  simp only [List.all_eq_true.mpr h, if_true]
  generalize stepToward (s.pad n).n x = next
  exact foldl_modPad_pad_mem (P := fun p => p.n = next) (g := fun s _ p => { p with n := next, stepAt := some s.now }) (fun _ _ _ => rfl) _ s mem

theorem State.stepClock_eq_of_not_ratioOk {s : State} {n x : Nat} (h : ∃ m ∈ s.yokeOf n, s.ratioOk m (stepToward (s.pad n).n x) = false) :
    s.stepClock n x = s := by
  obtain ⟨m, mem, bad⟩ := h
  unfold State.stepClock
  refine if_neg fun c => ?_
  rw [List.all_eq_true] at c
  exact absurd ((c m mem).symm.trans bad) nofun

@[simp] theorem State.loseClock_pad (s : State) (n : Nat) (tr : Trigger) (m : Nat) : (s.loseClock n tr).pad m =
    if m = n then { (s.pad n).maskAll with clockLost := true, lostAt := s.now, target := (s.pad n).n } else s.pad m := by
  simp [State.loseClock]

@[simp] theorem State.loseClock_kept (s : State) (n : Nat) (tr : Trigger) : (s.loseClock n tr).now = s.now
    ∧ (s.loseClock n tr).fields = s.fields ∧ ∀ f, (s.loseClock n tr).field f = s.field f := by
  simp [State.loseClock]

theorem State.dissolveYoke_yoke (s : State) (n : Nat) : ∀ m ∈ s.yokeOf n, ((s.dissolveYoke n).pad m).yoke = none := fun _ mem =>
  foldl_modPad_pad_mem (P := fun p => p.yoke = none) (g := fun _ _ p => { p with yoke := none }) (fun _ _ _ => rfl) _ s mem

theorem State.dissolveYoke_onlyPads (s : State) (n : Nat) : OnlyPads s (s.dissolveYoke n) :=
  .foldl (fun s m => s.modPad_onlyPads m _) _ s

@[simp] theorem State.dissolveYoke_same (s : State) (n : Nat) : SameBesidePads s (s.dissolveYoke n) := (s.dissolveYoke_onlyPads n).same

@[simp] theorem State.dissolveYoke_pad (s : State) (n m : Nat) : SamePadBesideYoke (s.pad m) ((s.dissolveYoke n).pad m) :=
  Paddock.same_of_sansYoke (s.dissolveYoke_sansYoke n m)

/-- Every member of the yoke loses its clock, at the moment, and is masked and hurdled (R575, R585). -/
theorem foldl_loseClock (ps : List Nat) (tr : Trigger) (s : State) (free : ∀ m ∈ ps, (s.pad m).yoke = none) : ∀ m ∈ ps,
    ((ps.foldl (fun s m => s.loseClock m tr) s).pad m).clockLost = true ∧ ((ps.foldl (fun s m => s.loseClock m tr) s).pad m).masked = true
      ∧ ((ps.foldl (fun s m => s.loseClock m tr) s).pad m).hurdled = true
      ∧ ((ps.foldl (fun s m => s.loseClock m tr) s).pad m).lostAt = s.now ∧ ((ps.foldl (fun s m => s.loseClock m tr) s).pad m).yoke = none := by
  intro m mem
  refine foldl_established_of (f := fun s m => s.loseClock m tr) (I := fun t => t.now = s.now ∧ ∀ m ∈ ps, (t.pad m).yoke = none)
    (P := fun t => (t.pad m).clockLost = true ∧ (t.pad m).masked = true ∧ (t.pad m).hurdled = true ∧ (t.pad m).lostAt = s.now
      ∧ (t.pad m).yoke = none) ps s mem ⟨rfl, free⟩ (fun t k memk i => ?_) (fun t i => ?_) fun t k memk i h => ?_
  · refine ⟨by simpa using i.1, fun j memj => ?_⟩
    rw [State.loseClock_pad]
    split
    · exact i.2 k memk
    · exact i.2 j memj
  · rw [State.loseClock_pad, if_pos rfl]
    exact ⟨rfl, rfl, rfl, i.1, i.2 m mem⟩
  · rw [State.loseClock_pad]
    split
    · exact ⟨rfl, rfl, rfl, i.1, i.2 k memk⟩
    · exact h

theorem foldl_settle_plant {α : Type} (p : α → WaitFor → Bool) (r : α → RLine) (l : List α) (s : State) :
    (l.foldl (fun s d => s.settle (p d) (r d)) s).plant = s.plant :=
  foldl_eq (f := fun s d => s.settle (p d) (r d)) State.plant l s fun s d _ => State.settle_plant s (p d) (r d)

theorem foldl_ringLoss_field (ps : List Nat) (s : State) (f : Nat) :
    (ps.foldl (fun s n => (s.dissolveYoke n).loseClock n .ringLost) s).field f = s.field f :=
  foldl_eq (f := fun s n => (s.dissolveYoke n).loseClock n .ringLost) (fun s => s.field f) ps s fun s n _ => by simp

/-- A clock that a ring took away is not given back by the losses of other paddocks (R578). -/
theorem State.ringLoss_clockLost {s : State} {n : Nat} (h : (s.pad n).clockLost = true) (m : Nat) :
    (((s.dissolveYoke m).loseClock m .ringLost).pad n).clockLost = true := by
  rw [State.loseClock_pad]
  split
  · rfl
  · simpa using h

/-- Settles O6. -/
theorem clocksAndTheReference : Obligations.ClocksAndTheReference := by
  refine ⟨fun n t s running off on here cool due => ?step, fun n t s running on here => ?loss, fun f t s running on here => ?ring,
    fun ppm t s running near edges => ?lock, fun edge t s running new => ?absent, fun edge t s running old => ?back⟩
  case step =>
    refine event_next running (by simpa [off, on, here, cool] using due) ?_
    have ratio : (s.tick t).ratioOk = s.ratioOk := rfl
    have yoke : (s.tick t).yokeOf n = s.yokeOf n := rfl
    refine ⟨fun fits m mem => ?_, fun stuck m => ?_⟩
    · rw [foldl_endRun_n, pad_of_plant (foldl_settle_plant ..)]
      exact State.stepClock_n_of_ratioOk (s := s.tick t) fits m mem
    · rw [foldl_endRun_n, pad_of_plant (foldl_settle_plant ..)]
      have kept : (s.tick t).stepClock n ((s.tick t).pad n).target = s.tick t := State.stepClock_eq_of_not_ratioOk stuck
      rw [kept]
      rfl
  case loss =>
    refine event_next running (by simp [on, here]) ?_
    by_cases testing : s.testing = true
    · refine ⟨fun c => absurd (testing.symm.trans c) nofun, fun _ => ?_⟩
      rw [if_pos (show (s.tick t).testing = true from testing)]
      obtain ⟨⟨st, dark⟩, -⟩ := State.failTest_effect ((s.tick t).count .paddock n tdClock) n
      exact ⟨dark, st⟩
    · refine ⟨fun _ m mem => ?_, fun c => absurd c testing⟩
      rw [if_neg (show ¬ (s.tick t).testing = true from testing)]
      obtain ⟨lost, masked, hurdled, lostAt, yoke⟩ := foldl_loseClock (s.yokeOf n) .clockLost ((s.tick t).dissolveYoke n)
        ((s.tick t).dissolveYoke_yoke n) m mem
      exact ⟨lost, masked, hurdled, lostAt.trans (by simp), yoke⟩
  case ring =>
    refine event_next running (by simp [on, here]) ?_
    refine ⟨?_, ?_, fun n mem lit => ?_⟩
    · rw [foldl_ringLoss_field]
      simp
    · rw [foldl_ringLoss_field]
      simp
    · by_cases lost : (s.pad n).clockLost = true
      · exact foldl_inv (P := fun s : State => (s.pad n).clockLost = true) _ (by simpa using lost) fun s m h => State.ringLoss_clockLost h m
      · refine foldl_established (a := n) (f := fun s n => (s.dissolveYoke n).loseClock n .ringLost)
          (P := fun s : State => (s.pad n).clockLost = true) _ _ ?_ (fun s => by simp) fun s m h => State.ringLoss_clockLost h m
        exact List.mem_filter.mpr ⟨mem, by simp [lit, lost]⟩
  case lock => exact event_next running (by simp [near, edges]) rfl
  case absent =>
    refine event_next running (by simpa using new) ?_
    refine ⟨fun e he => ?_, ?_, ?_, fun all => ?_⟩
    · simp [he]
    · simp
    · simp
    · have every : ((List.range 4).filter fun e => s.refAbsent.contains e || (edgesOf edge).contains e) = List.range 4 := by
        refine List.filter_eq_self.mpr fun e he => ?_
        simpa [List.mem_range.mp he] using all e (List.mem_range.mp he)
      simp only [State.ring_fields, State.alert_fields, State.reinject_same, State.tick_fields, every]
      simp
  case back =>
    refine event_next running (by simpa using old) ?_
    refine ⟨fun e => ?_, fun none => ?_⟩
    · simp
    · simp at none ⊢
      exact fun e mem out => absurd (none e mem) out

end Sys2Proof.Machine

/-! What leaves the junction temperatures of the controllers alone, as in Laws/. -/
namespace Sys2Proof.Machine

open Sys2Proof

/-- The junctions of the controllers, which no operation but a sample changes. -/
structure Temps where
  tempA : Int
  tempB : Int

def State.temps (s : State) : Temps :=
  ⟨s.shcA.temp, s.shcB.temp⟩

theorem temps_mk (now) (freeCtr) (resetN) (pwrFail) (pwrFailAt) (frozen) (faultN) (alertN) (alertCause) (ready)
    (readyAt) (vstby) (fuses) (flash) (writing) (place) (net) (boot) (sel) (quiet) (active) (shcA) (shcB) (mirrorSeq)
    (mirrorProbe) (scratch) (sess) (con0) (con1) (waits) (garp) (stages) (nextStage) (retained) (fwUpdate) (bellSeq)
    (bells) (ledgerSeq) (ledgerHeld) (ledgerStopped) (ptpPort) (ptpHeard) (tallies) (busA) (busB) (shared) (telem)
    (unreach) (refAbsent) (refSince) (meshLocked) (inlet) (outlet) (loopSince) (wave) (lastWave) (map) (mapSeq) (pads)
    (fields) (links) (lane0) (neds) (meds) (spds) (nedTemp) (spdTemp) (medTemp) (flockUp) (flockMembers) (flockInfo)
    (excludedW) (folds) (scrubs) (paused) (secondAt) (incCtr) (channels) (sessions) (reports) (notices) (wsel) (wstat)
    (shadow) (taps) (wire) (pending) : (State.mk now freeCtr resetN pwrFail pwrFailAt frozen faultN alertN alertCause
    ready readyAt vstby fuses flash writing place net boot sel quiet active shcA shcB mirrorSeq mirrorProbe scratch
    sess con0 con1 waits garp stages nextStage retained fwUpdate bellSeq bells ledgerSeq ledgerHeld ledgerStopped
    ptpPort ptpHeard tallies busA busB shared telem unreach refAbsent refSince meshLocked inlet outlet loopSince wave
    lastWave map mapSeq pads fields links lane0 neds meds spds nedTemp spdTemp medTemp flockUp flockMembers flockInfo
    excludedW folds scrubs paused secondAt incCtr channels sessions reports notices wsel wstat shadow taps wire
    pending).temps =
    ⟨shcA.temp, shcB.temp⟩ := rfl

theorem temps_eqs : (∀ s : State, s.shcA.temp = s.temps.tempA) ∧
    (∀ s : State, s.shcB.temp = s.temps.tempB) := by
  (repeat' apply And.intro) <;> intros <;> rfl

@[simp] theorem ite_temps (c : Prop) [Decidable c] (a b : State) : (if c then a else b).temps = if c then a.temps else b.temps := by
  split <;> rfl

@[simp] theorem foldl_temps {α : Type} (f : State → α → State) (h : ∀ s a, (f s a).temps = s.temps) (l : List α) (s : State) :
    (l.foldl f s).temps = s.temps := by
  induction l generalizing s with
  | nil => rfl
  | cons x xs ih => simp [ih, h]

theorem ite_eq_temps {c : Prop} [Decidable c] {a b : State} {r : Temps} (ha : a.temps = r) (hb : b.temps = r) :
    (if c then a else b).temps = r := by
  split <;> assumption

theorem wire_temps (a : State) (w : List Wire) : ({ a with wire := w } : State).temps = a.temps := rfl

theorem meds_temps (a : State) (l : List Med) (h : l.length = a.meds.length) : ({ a with meds := l } : State).temps = a.temps := rfl

theorem heard_temps (a : State) (o : Option Time) : ({ a with ptpHeard := o } : State).temps = a.temps := rfl

theorem fw_temps (a : State) (w : FwUpdate) : ({ a with fwUpdate := w } : State).temps = a.temps := rfl

@[simp] theorem State.tick_temps (s : State) (t : Time) : (s.tick t).temps = s.temps := rfl

@[simp] theorem State.setPad_temps (s : State) (n : Nat) (p : Paddock) : (State.setPad s n p).temps = s.temps := by
  unfold State.setPad; simp only [State.temps, Temps.mk.injEq] <;> simp [↓temps_mk, temps_eqs]

@[simp] theorem State.modPad_temps (s : State) (n : Nat) (f : Paddock → Paddock) : (State.modPad s n f).temps = s.temps := by
  simp [State.modPad]

@[simp] theorem State.setField_temps (s : State) (f : Nat) (x : Field) : (State.setField s f x).temps = s.temps := by
  unfold State.setField; simp only [State.temps, Temps.mk.injEq] <;> simp [↓temps_mk, temps_eqs]

@[simp] theorem State.modField_temps (s : State) (f : Nat) (g : Field → Field) : (State.modField s f g).temps = s.temps := by
  simp [State.modField]

@[simp] theorem State.setNed_temps (s : State) (k : Nat) (x : Ned) : (State.setNed s k x).temps = s.temps := by
  unfold State.setNed; simp only [State.temps, Temps.mk.injEq] <;> simp [↓temps_mk, temps_eqs]

@[simp] theorem State.modNed_temps (s : State) (k : Nat) (f : Ned → Ned) : (State.modNed s k f).temps = s.temps := by
  simp [State.modNed]

@[simp] theorem State.setMed_temps (s : State) (k : Nat) (x : Med) : (State.setMed s k x).temps = s.temps := by
  unfold State.setMed; simp only [State.temps, Temps.mk.injEq] <;> simp [↓temps_mk, temps_eqs]

@[simp] theorem State.modMed_temps (s : State) (k : Nat) (f : Med → Med) : (State.modMed s k f).temps = s.temps := by
  simp [State.modMed]

@[simp] theorem State.setSpd_temps (s : State) (k : Nat) (x : Spd) : (State.setSpd s k x).temps = s.temps := by
  unfold State.setSpd; simp only [State.temps, Temps.mk.injEq] <;> simp [↓temps_mk, temps_eqs]

@[simp] theorem State.modSpd_temps (s : State) (k : Nat) (f : Spd → Spd) : (State.modSpd s k f).temps = s.temps := by
  simp [State.modSpd]

theorem State.setShc_temps (s : State) (i : Nat) (x : Shc) (h : x.temp = (s.shc i).temp) : (s.setShc i x).temps = s.temps := by
  unfold State.setShc
  unfold State.shc at h
  by_cases c : i = 0
  · rw [if_pos c] at h ⊢
    simp only [State.temps, h]
  · rw [if_neg c] at h ⊢
    simp only [State.temps, h]

@[simp] theorem State.modShc_temps (s : State) (i : Nat) (f : Shc → Shc) (h : ∀ c, (f c).temp = c.temp) : (s.modShc i f).temps = s.temps :=
  s.setShc_temps i _ (h _)

@[simp] theorem State.setLink_temps (s : State) (x lane : Nat) (l : LinkEnd) : (State.setLink s x lane l).temps = s.temps := by
  unfold State.setLink; simp only [State.temps, Temps.mk.injEq] <;> simp [↓temps_mk, temps_eqs]

@[simp] theorem State.modLink_temps (s : State) (x lane : Nat) (f : LinkEnd → LinkEnd) : (State.modLink s x lane f).temps = s.temps := by
  simp [State.modLink]

@[simp] theorem State.setEntry_temps (s : State) (n : Nat) (e : MapEntry) : (State.setEntry s n e).temps = s.temps := by
  unfold State.setEntry; simp only [State.temps, Temps.mk.injEq] <;> simp [↓temps_mk, temps_eqs]

@[simp] theorem State.modFold_temps (s : State) (id : Nat) (g : Fold → Fold) : (State.modFold s id g).temps = s.temps := by
  unfold State.modFold; simp only [State.temps, Temps.mk.injEq] <;> simp [↓temps_mk, temps_eqs]

@[simp] theorem State.setSession_temps (s : State) (num : Nat) (x : Session) : (State.setSession s num x).temps = s.temps := by
  unfold State.setSession; simp only [State.temps, Temps.mk.injEq] <;> simp [↓temps_mk, temps_eqs]

@[simp] theorem State.addTally_temps (s : State) (scope : TScope) (id idx n : Nat) : (State.addTally s scope id idx n).temps = s.temps := by
  unfold State.addTally; simp only [State.temps, Temps.mk.injEq] <;> simp [↓temps_mk, temps_eqs]

@[simp] theorem State.count_temps (s : State) (scope : TScope) (id idx : Nat) : (State.count s scope id idx).temps = s.temps := by
  simp [State.count]

@[simp] theorem State.noteStray_temps (s : State) (fold : Nat) : (State.noteStray s fold).temps = s.temps := by
  simp [State.noteStray]

@[simp] theorem State.countChan_temps (s : State) (ned bind handle idx n : Nat) : (State.countChan s ned bind handle idx n).temps = s.temps := by
  simp [State.countChan]

@[simp] theorem State.setFoldSt_temps (s : State) (id : Nat) (st : FoldState) : (State.setFoldSt s id st).temps = s.temps := by
  unfold State.setFoldSt; simp only [State.temps, Temps.mk.injEq] <;> simp [↓temps_mk, temps_eqs]

@[simp] theorem State.ring_temps (s : State) (obj : String) (fault : Bool) (kv : KVs) : (s.ring obj fault kv).temps = s.temps := by
  unfold State.ring
  split
  · rfl
  · exact (State.addTally_temps _ _ _ _ _).trans rfl

@[simp] theorem State.report_temps (s : State) (tr : Trigger) (folds : List Nat) (place : Nat) : (State.report s tr folds place).temps = s.temps := by
  unfold State.report; simp only [State.temps, Temps.mk.injEq] <;> simp [↓temps_mk, temps_eqs]

@[simp] theorem State.goDark_temps (s : State) (n : Nat) : (State.goDark s n).temps = s.temps := by
  unfold State.goDark; simp only [State.temps, Temps.mk.injEq] <;> simp [↓temps_mk, temps_eqs]

@[simp] theorem State.enqueueWave_temps (s : State) (n : Nat) (goal : Power) : (State.enqueueWave s n goal).temps = s.temps := by
  unfold State.enqueueWave; simp only [State.temps, Temps.mk.injEq] <;> simp [↓temps_mk, temps_eqs]

@[simp] theorem State.dissolveYoke_temps (s : State) (n : Nat) : (State.dissolveYoke s n).temps = s.temps := by
  simp [State.dissolveYoke]

@[simp] theorem State.markHole_temps (s : State) (n cause : Nat) (quiet : Bool) : (State.markHole s n cause quiet).temps = s.temps := by
  unfold State.markHole; simp only [State.temps, Temps.mk.injEq] <;> simp [↓temps_mk, temps_eqs]

@[simp] theorem State.dieBell_temps (s : State) (obj : String) (k cause : Nat) : (State.dieBell s obj k cause).temps = s.temps := by
  unfold State.dieBell; simp only [State.temps, Temps.mk.injEq] <;> simp [↓temps_mk, temps_eqs]

@[simp] theorem State.reinject_temps (s : State) : (State.reinject s).temps = s.temps := by
  simp [State.reinject]

@[simp] theorem State.pmbus_temps (s : State) (addr page cmd data : Nat) : (State.pmbus s addr page cmd data).temps = s.temps := by
  unfold State.pmbus; simp only [State.temps, Temps.mk.injEq] <;> simp [↓temps_mk, temps_eqs]

/-- What an event leaves alone, its moment aside. -/
theorem State.event_temps (s : State) (t : Time) (c : State → Bool) (f : State → State)
    (h : c (s.tick t) = true → (f (s.tick t)).temps = s.temps) : (s.event t c f).temps = s.temps := by
  unfold State.event
  split
  · rename_i g
    exact h (by simpa using (Bool.and_eq_true _ _ ▸ g).2)
  · rfl

@[simp] theorem State.setCs_temps (s : State) (i : Nat) (c : CSess) : (State.setCs s i c).temps = s.temps := by
  unfold State.setCs; simp only [State.temps, Temps.mk.injEq] <;> simp [↓temps_mk, temps_eqs]

@[simp] theorem State.modCs_temps (s : State) (i : Nat) (f : CSess → CSess) : (State.modCs s i f).temps = s.temps := by
  simp [State.modCs]

@[simp] theorem State.say_temps (s : State) (i : Nat) (o : Out) : (State.say s i o).temps = s.temps := by
  simp [State.say]

@[simp] theorem State.prompt_temps (s : State) (i : Nat) : (State.prompt s i).temps = s.temps := by
  simp [State.prompt]

@[simp] theorem State.final_temps (s : State) (i : Nat) (tag : Option (List Byte)) (crc : Bool) (r : RLine) : (State.final s i tag crc r).temps = s.temps := by
  simp [State.final]

@[simp] theorem State.answer_temps (s : State) (ln : Ln) (r : RLine) : (State.answer s ln r).temps = s.temps := by
  unfold State.answer
  (repeat' split) <;> simp

@[simp] theorem State.ok_temps (s : State) (ln : Ln) (kv : KVs) : (State.ok s ln kv).temps = s.temps := by
  simp [State.ok]

@[simp] theorem State.err_temps (s : State) (ln : Ln) (code : Nat) (kv : KVs) : (State.err s ln code kv).temps = s.temps := by
  simp [State.err]

@[simp] theorem State.settle_temps (s : State) (p : WaitFor → Bool) (r : RLine) : (State.settle s p r).temps = s.temps := by
  unfold State.settle; simp only [State.temps, Temps.mk.injEq] <;> simp [↓temps_mk, temps_eqs]

@[simp] theorem State.mirror_temps (s : State) : (State.mirror s).temps = s.temps := by
  unfold State.mirror
  (repeat' split) <;> first | (simp; done) | (simp only [State.temps, Temps.mk.injEq] <;> simp [↓temps_mk, temps_eqs])

@[simp] theorem State.cutFlash_temps (s : State) : s.cutFlash.temps = s.temps := rfl

@[simp] theorem State.shcDoubt_temps (s : State) (i cause : Nat) : (State.shcDoubt s i cause).temps = s.temps := by
  unfold State.shcDoubt; simp only [State.temps, Temps.mk.injEq] <;> simp [↓temps_mk, temps_eqs]

@[simp] theorem State.takeoverBell_temps (s : State) (i : Nat) : (State.takeoverBell s i).temps = s.temps := by
  simp [State.takeoverBell]

@[simp] theorem State.syncCredits_temps (s : State) (x lane : Nat) : (State.syncCredits s x lane).temps = s.temps := by
  unfold State.syncCredits
  (repeat' split) <;> simp

@[simp] theorem State.syncBorders_temps (s : State) (n : Nat) : (State.syncBorders s n).temps = s.temps := by
  unfold State.syncBorders
  dsimp only
  (repeat' split) <;> first | rfl | (simp (disch := (intros; (repeat' split) <;> simp)); done) | (simp only [State.temps, Temps.mk.injEq] <;> simp (disch := (intros; (repeat' split) <;> simp)) [↓temps_mk, temps_eqs])

@[simp] theorem State.sessMod_temps (s : State) (r : Req) (f : Session → Session) : (State.sessMod s r f).temps = s.temps := by
  unfold State.sessMod
  (repeat' split) <;> simp

@[simp] theorem State.countReq_temps (s : State) (k : Nat) (r : Req) (idx n : Nat) : (State.countReq s k r idx n).temps = s.temps := by
  simp [State.countReq]

@[simp] theorem State.countReply_temps (s : State) (k : Nat) (r : Req) (back : Bool) : (State.countReply s k r back).temps = s.temps := by
  unfold State.countReply
  (repeat' split) <;> simp

@[simp] theorem State.endReq_temps (s : State) (k : Nat) (r : Req) : (State.endReq s k r).temps = s.temps := by
  simp [State.endReq]

@[simp] theorem State.closeTag_temps (s : State) (k : Nat) (r : Req) (stray : Bool) : (State.closeTag s k r stray).temps = s.temps := by
  simp [State.closeTag]

@[simp] theorem State.releaseFcs_temps (s : State) (k : Nat) (r : Req) : (State.releaseFcs s k r).temps = s.temps := by
  unfold State.releaseFcs; simp only [State.temps, Temps.mk.injEq] <;> simp [↓temps_mk, temps_eqs]

@[simp] theorem State.startReply_temps (s : State) (k : Nat) (r : Req) (rep : Reply) (at_ : Time) : (State.startReply s k r rep at_).temps = s.temps := by
  unfold State.startReply; simp only [State.temps, Temps.mk.injEq] <;> simp [↓temps_mk, temps_eqs]

@[simp] theorem State.compose_temps (s : State) (k : Nat) (r : Req) (rep : Reply) : (State.compose s k r rep).temps = s.temps := by
  unfold State.compose
  dsimp only
  (repeat' split) <;> simp

@[simp] theorem State.stomp_temps (s : State) (k : Nat) (r : Req) (whole : Bool) : (State.stomp s k r whole).temps = s.temps := by
  unfold State.stomp; simp only [State.temps, Temps.mk.injEq] <;> simp [↓temps_mk, temps_eqs]

@[simp] theorem State.unsend_temps (s : State) (k : Nat) (r : Req) : (State.unsend s k r).temps = s.temps := by
  unfold State.unsend; simp only [State.temps, Temps.mk.injEq] <;> simp [↓temps_mk, temps_eqs]

@[simp] theorem State.stompSent_temps (s : State) (k : Nat) (r : Req) : (State.stompSent s k r).temps = s.temps := by
  simp [State.stompSent]

@[simp] theorem State.refuseReq_temps (s : State) (k : Nat) (r : Req) (reason : Nat) : (State.refuseReq s k r reason).temps = s.temps := by
  simp [State.refuseReq]

@[simp] theorem State.dropReq_temps (s : State) (k : Nat) (r : Req) : (State.dropReq s k r).temps = s.temps := by
  simp [State.dropReq]

@[simp] theorem State.loseSession_temps (s : State) (num : Nat) : (State.loseSession s num).temps = s.temps := by
  simp [State.loseSession]

@[simp] theorem State.nedEnterDoubt_temps (s : State) (k cause : Nat) : (State.nedEnterDoubt s k cause).temps = s.temps := by
  unfold State.nedEnterDoubt; simp only [State.temps, Temps.mk.injEq] <;> simp [↓temps_mk, temps_eqs]

@[simp] theorem State.raiseQ_temps (s : State) (fold key : Nat) (ds : List (Nat × Nat)) : (State.raiseQ s fold key ds).temps = s.temps := by
  simp [State.raiseQ]

@[simp] theorem State.freeSlot_temps (s : State) (x lane : Nat) (vc : Bool) : (State.freeSlot s x lane vc).temps = s.temps := by
  simp [State.freeSlot]

@[simp] theorem State.medSend_temps (s : State) (k : Nat) (out : List (MedPort × Flit)) : (State.medSend s k out).temps = s.temps := by
  simp [State.medSend]

@[simp] theorem State.medEnterDoubt_temps (s : State) (k cause : Nat) : (State.medEnterDoubt s k cause).temps = s.temps := by
  simp [State.medEnterDoubt]

@[simp] theorem State.revokeSpan_temps (s : State) (fold : Nat) (reconf : Bool) : (State.revokeSpan s fold reconf).temps = s.temps := by
  simp [State.revokeSpan]

@[simp] theorem State.spdEnterDoubt_temps (s : State) (i cause : Nat) : (State.spdEnterDoubt s i cause).temps = s.temps := by
  simp [State.spdEnterDoubt]

@[simp] theorem State.lateIntervals_temps (s : State) : (State.lateIntervals s).temps = s.temps := by
  unfold State.lateIntervals; simp only [State.temps, Temps.mk.injEq] <;> simp [↓temps_mk, temps_eqs]

@[simp] theorem State.dieCutOff_temps (s : State) (d : Nat) : (State.dieCutOff s d).temps = s.temps := by
  simp [State.dieCutOff]

@[simp] theorem State.makeHole_temps (s : State) (n cause : Nat) (quiet : Bool) : (State.makeHole s n cause quiet).temps = s.temps := by
  simp [State.makeHole]

@[simp] theorem State.stageOnSequence_temps (s : State) (f : Nat) : (State.stageOnSequence s f).temps = s.temps := by
  simp [State.stageOnSequence]

@[simp] theorem State.powerRun_temps (s : State) (n : Nat) : (State.powerRun s n).temps = s.temps := by
  unfold State.powerRun; simp only [State.temps, Temps.mk.injEq] <;> simp [↓temps_mk, temps_eqs]

@[simp] theorem State.dropBuffers_temps (s : State) (n : Nat) (fold : Option Nat) : (State.dropBuffers s n fold).temps = s.temps := by
  simp [State.dropBuffers]

@[simp] theorem State.revokeFold_temps (s : State) (n fold : Nat) : (State.revokeFold s n fold).temps = s.temps := by
  simp [State.revokeFold]

@[simp] theorem State.hurdleFor_temps (s : State) (n fold : Nat) : (State.hurdleFor s n fold).temps = s.temps := by
  simp [State.hurdleFor]

@[simp] theorem State.startRouter_temps (s : State) (n : Nat) : (State.startRouter s n).temps = s.temps := by
  simp [State.startRouter]

@[simp] theorem State.shearPad_temps (s : State) (n : Nat) : (State.shearPad s n).temps = s.temps := by
  simp [State.shearPad]

@[simp] theorem State.shearSlot_temps (s : State) (n k fold : Nat) : (State.shearSlot s n k fold).temps = s.temps := by
  simp [State.shearSlot]

@[simp] theorem State.leasePads_temps (s : State) (id : Nat) (excl : List Nat) (slots : List (Nat × Nat)) : (State.leasePads s id excl slots).temps = s.temps := by
  simp [State.leasePads]

@[simp] theorem State.settleUnleased_temps (s : State) (n : Nat) : (State.settleUnleased s n).temps = s.temps := by
  unfold State.settleUnleased
  dsimp only
  (repeat' split) <;> first | rfl | (simp; done) | (simp only [State.temps, Temps.mk.injEq] <;> simp [↓temps_mk, temps_eqs])

@[simp] theorem State.unleasePad_temps (s : State) (n fold : Nat) : (State.unleasePad s n fold).temps = s.temps := by
  simp [State.unleasePad]

@[simp] theorem State.unleaseSlot_temps (s : State) (n k fold : Nat) : (State.unleaseSlot s n k fold).temps = s.temps := by
  simp [State.unleaseSlot]

@[simp] theorem State.revokePages_temps (s : State) (ps : List (Nat × Nat)) : (State.revokePages s ps).temps = s.temps := by
  simp [State.revokePages]

@[simp] theorem State.refuseAll_temps (s : State) (p : Nat → Req → Bool) (reason : Nat) : (State.refuseAll s p reason).temps = s.temps := by
  simp [State.refuseAll]

@[simp] theorem State.waferOut_temps (s : State) (fold reason : Nat) : (State.waferOut s fold reason).temps = s.temps := by
  simp [State.waferOut]

@[simp] theorem State.syncPause_temps (s : State) : (State.syncPause s).temps = s.temps := by
  unfold State.syncPause
  (repeat' split) <;> first | (simp; done) | (simp only [State.temps, Temps.mk.injEq] <;> simp [↓temps_mk, temps_eqs])

@[simp] theorem State.finishRelease_temps (s : State) (f : Fold) : (State.finishRelease s f).temps = s.temps := by
  unfold State.finishRelease; simp only [State.temps, Temps.mk.injEq] <;> simp [↓temps_mk, temps_eqs]

@[simp] theorem State.releaseStep_temps (s : State) (id : Nat) : (State.releaseStep s id).temps = s.temps := by
  unfold State.releaseStep
  (repeat' split) <;> simp

@[simp] theorem State.takeOut_temps (s : State) (id : Nat) (ps : List Nat) (qs : List (Nat × Nat)) (is : List Nat) : (State.takeOut s id ps qs is).temps = s.temps := by
  unfold State.takeOut
  (repeat' split) <;> simp

@[simp] theorem State.clearFold_temps (s : State) (f : Fold) : (State.clearFold s f).temps = s.temps := by
  simp [State.clearFold]

@[simp] theorem State.returnAdded_temps (s : State) (id : Nat) : (State.returnAdded s id).temps = s.temps := by
  unfold State.returnAdded
  (repeat' split) <;> simp

@[simp] theorem State.freeStaged_temps (s : State) (cs : List (Nat × Nat)) : (State.freeStaged s cs).temps = s.temps := by
  simp [State.freeStaged]

@[simp] theorem State.loadFail_temps (s : State) (id code : Nat) (cause : Option String) : (State.loadFail s id code cause).temps = s.temps := by
  unfold State.loadFail
  (repeat' split) <;> first | (simp; done) | (simp only [State.temps, Temps.mk.injEq] <;> simp [↓temps_mk, temps_eqs])

@[simp] theorem State.moveLease_temps (s : State) (id n t : Nat) (tr : Trigger) : (State.moveLease s id n t tr).temps = s.temps := by
  simp [State.moveLease]

@[simp] theorem State.dropSource_temps (s : State) (n : Nat) : (State.dropSource s n).temps = s.temps := by
  simp [State.dropSource]

@[simp] theorem State.markFailed_temps (s : State) (ns : List Nat) (tr : Trigger) : (State.markFailed s ns tr).temps = s.temps := by
  simp [State.markFailed]

@[simp] theorem State.raiseYoke_temps (s : State) (f : Fold) (n : Nat) : (State.raiseYoke s f n).temps = s.temps := by
  unfold State.raiseYoke
  (repeat' split) <;> simp

@[simp] theorem State.notify_temps (s : State) (id : Nat) (next : FoldState) : (State.notify s id next).temps = s.temps := by
  unfold State.notify; simp only [State.temps, Temps.mk.injEq] <;> simp [↓temps_mk, temps_eqs]

@[simp] theorem State.foldBell_temps (s : State) (id : Nat) (st : String) (tr : Trigger) (place : Nat) (kv : KVs) : (State.foldBell s id st tr place kv).temps = s.temps := by
  unfold State.foldBell; simp only [State.temps, Temps.mk.injEq] <;> simp [↓temps_mk, temps_eqs]

@[simp] theorem State.stopFold_temps (s : State) (id : Nat) (tr : Trigger) (place : Nat) (kv : KVs) : (State.stopFold s id tr place kv).temps = s.temps := by
  simp [State.stopFold]

@[simp] theorem State.enterMigrating_temps (s : State) (f : Fold) (r : Recovery) : (State.enterMigrating s f r).temps = s.temps := by
  simp [State.enterMigrating]

@[simp] theorem State.startRestart_temps (s : State) (id : Nat) (tr : Trigger) (place : Nat) : (State.startRestart s id tr place).temps = s.temps := by
  unfold State.startRestart
  (repeat' split) <;> simp

@[simp] theorem State.startMigration_temps (s : State) (id : Nat) (failed : List Nat) (tr : Trigger) (place : Nat) : (State.startMigration s id failed tr place).temps = s.temps := by
  unfold State.startMigration
  (repeat' split) <;> simp

@[simp] theorem State.recoverAgain_temps (s : State) : (State.recoverAgain s).temps = s.temps := by
  unfold State.recoverAgain
  refine foldl_temps _ (fun _ _ => ?_) _ _
  (repeat' split) <;> simp

@[simp] theorem State.dropMaster_temps (s : State) : (State.dropMaster s).temps = s.temps := by
  unfold State.dropMaster; simp only [State.temps, Temps.mk.injEq] <;> simp [↓temps_mk, temps_eqs]

@[simp] theorem State.bootAgain_temps (s : State) : (State.bootAgain s).temps = s.temps := by
  unfold State.bootAgain
  (repeat' split) <;> first | (simp; done) | (simp only [State.temps, Temps.mk.injEq] <;> simp [↓temps_mk, temps_eqs])

@[simp] theorem State.retriesAgain_temps (s : State) : (State.retriesAgain s).temps = s.temps := by
  simp [State.retriesAgain]

@[simp] theorem State.takeRole_temps (s : State) (i : Nat) : (State.takeRole s i).temps = s.temps := by
  unfold State.takeRole; simp only [State.temps, Temps.mk.injEq] <;> simp [↓temps_mk, temps_eqs]

@[simp] theorem State.takeOverFrom_temps (s : State) (a cause : Nat) : (s.takeOverFrom a cause).temps = s.cutFlash.temps := by
  simp [State.takeOverFrom]

end Sys2Proof.Machine

/-! Sensors, thermal trips and the coolant loop (R633–R644). -/
namespace Sys2Proof.Machine

open Sys2Proof

theorem temp_of_temps {s t : State} (h : t.temps = s.temps) (i : Nat) : (t.shc i).temp = (s.shc i).temp := by
  unfold State.shc
  split
  · exact congrArg Temps.tempA h
  · exact congrArg Temps.tempB h

@[simp] theorem State.shcHot_temps (s : State) (i cause : Nat) : (s.shcHot i cause).temps = s.temps := by
  unfold State.shcHot
  split
  · split
    · simp
    · exact (State.dropMaster_temps _).trans (by simp)
  · split
    · simp
    · rfl

theorem State.sensorFailed_plant (s : State) (n which : Nat) : (s.sensorFailed n which).plant = s.plant := by
  simp [State.sensorFailed]

/-- The readings of a paddock's sensors, and since when they are out of range. -/
def Paddock.readings (p : Paddock) : Int × Int × Option Time × Option Time := (p.s0, p.s1, p.bad0, p.bad1)

theorem State.goDark_readings (s : State) (n m : Nat) : ((s.goDark n).pad m).readings = (s.pad m).readings := by
  rw [State.goDark_pad]
  split
  · subst_vars
    rfl
  · rfl

theorem State.makeHole_readings (s : State) (n cause : Nat) (quiet : Bool) (m : Nat) :
    ((s.makeHole n cause quiet).pad m).readings = (s.pad m).readings := by
  simp [Paddock.readings]

theorem State.modPad_readings (s : State) (n m : Nat) (f : Paddock → Paddock) (h : ∀ p, (f p).readings = p.readings) :
    ((s.modPad n f).pad m).readings = (s.pad m).readings := by
  rw [State.modPad_pad]
  split
  · subst_vars
    exact h _
  · rfl

/-- A trip leaves the sensors' readings. -/
theorem State.thermalTrip_readings (s : State) (n : Nat) (noSensor : Bool) (m : Nat) :
    ((s.thermalTrip n noSensor).pad m).readings = (s.pad m).readings := by
  unfold State.thermalTrip
  split
  · rw [pad_of_plant (State.failTest_plant _ n)]
    change ((((s.count .paddock n tdThermal).goDark n).makeHole n 1 false).pad m).readings = _
    rw [State.makeHole_readings, State.goDark_readings]
    simp
  · dsimp only
    by_cases e : m = n
    · split <;> simp [Paddock.readings, Paddock.shear, e]
    · split <;> simp [Paddock.readings, e]

/-- A trip outside a paddock test opens the gate; one that lasts makes the paddock a HOLE (R641, R642). -/
theorem State.thermalTrip_effect {s : State} (test : s.testing = false) (n : Nat) (noSensor : Bool) :
    ((s.thermalTrip n noSensor).pad n).power = .dark
      ∧ ((s.thermalTrip n noSensor).pad n).trip = (if noSensor || (s.pad n).tripLasts s.now then .lasting else .waiting s.now)
      ∧ ((noSensor || (s.pad n).tripLasts s.now) = true → ((s.thermalTrip n noSensor).entry n).st = 2) := by
  unfold State.thermalTrip
  simp only [test, Bool.false_eq_true, if_false]
  split
  · rename_i lasting
    simp [lasting, State.makeHole_st]
  · rename_i passing
    simp [passing]

/-- A sample as it is kept before any trip (R633, R634). -/
def State.sampled (s : State) (n : Nat) (a b : Int) : State :=
  let p := s.pad n
  let q := p.sample a b s.now
  let s1 := s.setPad n q
  let s2 := if q.fail0 && !p.fail0 then s1.sensorFailed n 0 else s1
  if q.fail1 && !p.fail1 then s2.sensorFailed n 1 else s2

theorem State.sampled_plant (s : State) (n : Nat) (a b : Int) : (s.sampled n a b).plant = (s.setPad n ((s.pad n).sample a b s.now)).plant := by
  unfold State.sampled
  dsimp only
  (repeat' split) <;> simp [State.sensorFailed_plant]

theorem State.sampled_kept (s : State) (n : Nat) (a b : Int) : (s.sampled n a b).boot = s.boot ∧ (s.sampled n a b).now = s.now := by
  unfold State.sampled State.sensorFailed
  dsimp only
  (repeat' split) <;> simp

theorem State.sampled_pad (s : State) (n : Nat) (a b : Int) : (s.sampled n a b).pad n = (s.pad n).sample a b s.now := by
  rw [pad_of_plant (s.sampled_plant n a b)]
  simp

theorem State.samplePad_eq (s : State) (n : Nat) (a b : Int) : s.samplePad n a b =
    (let p := s.pad n
     let q := p.sample a b s.now
     if q.fail0 && q.fail1 && !(p.fail0 && p.fail1) && (s.entry n).st ≠ 2 then ((s.sampled n a b).thermalTrip n true).powerEnds
     else if 3 ≤ q.hot && (q.power ≠ .dark || q.soft) then ((s.sampled n a b).thermalTrip n false).powerEnds
     else s.sampled n a b) := rfl

theorem State.samplePad_readings (s : State) (n : Nat) (a b : Int) :
    ((s.samplePad n a b).pad n).readings = ((s.pad n).sample a b s.now).readings := by
  rw [State.samplePad_eq]
  dsimp only
  split
  · rw [pad_of_plant (State.powerEnds_plant _), State.thermalTrip_readings, State.sampled_pad]
  · split
    · rw [pad_of_plant (State.powerEnds_plant _), State.thermalTrip_readings, State.sampled_pad]
    · rw [State.sampled_pad]

/-- A sample keeps whether a trip would last. -/
theorem Paddock.sample_tripLasts (p : Paddock) (a b : Int) (now : Time) : (p.sample a b now).tripLasts now = p.tripLasts now := by
  simp only [Paddock.tripLasts, Paddock.sample]
  generalize Paddock.temp _ = x
  cases p.trip with
  | retrying since peak => cases x <;> rfl
  | _ => rfl

/-- The trip of a sampled paddock, as its powering down leaves it. -/
theorem State.sampled_trip {s : State} (test : s.testing = false) (n : Nat) (a b : Int) (noSensor : Bool) :
    ((((s.sampled n a b).thermalTrip n noSensor).powerEnds).pad n).power = .dark
      ∧ ((((s.sampled n a b).thermalTrip n noSensor).powerEnds).pad n).trip =
        (if noSensor || (s.pad n).tripLasts s.now then .lasting else .waiting s.now)
      ∧ ((noSensor || (s.pad n).tripLasts s.now) = true → ((((s.sampled n a b).thermalTrip n noSensor).powerEnds).entry n).st = 2) := by
  obtain ⟨boot, now⟩ := s.sampled_kept n a b
  have test' : (s.sampled n a b).testing = false := by rwa [State.testing, boot]
  obtain ⟨power, trip, st⟩ := State.thermalTrip_effect test' n noSensor
  rw [State.sampled_pad, now, Paddock.sample_tripLasts] at trip st
  simp only [State.powerEnds_same]
  exact ⟨power, trip, st⟩

/-- The state a paddock takes leaves its trip. -/
theorem State.settlePad_trip (s : State) (n m : Nat) : ((s.settlePad n).pad m).trip = (s.pad m).trip := by
  have dark : ((s.goDark n).pad m).trip = (s.pad m).trip := by
    rw [State.goDark_pad]
    split
    · subst_vars
      rfl
    · rfl
  unfold State.settlePad
  split
  · rw [State.modPad_pad]
    split
    · subst_vars
      simp [Paddock.shear]
    · simpa using dark
  · split
    · exact dark
    · refine (congrArg Paddock.trip (pad_of_plant (State.creationsEnd_plant _ n) m)).trans ?_
      rw [State.modPad_pad]
      split
      · subst_vars
        rfl
      · rfl

theorem Paddock.sample_power (p : Paddock) (a b : Int) (now : Time) : (p.sample a b now).power = p.power ∧ (p.sample a b now).soft = p.soft :=
  ⟨rfl, rfl⟩

/-- The lines of `show thermal` … -/
def State.thermalFields (s : State) : List KVs :=
  (List.range 84).map fun f =>
    let x := s.field f
    [("field", .num f), ("temp", tempVal (s.fieldTemp f) 8), ("n_min", .num (s.minN f)),
     ("throttle", .word (if !x.throttle then "off" else if x.heldNow then "held" else "on")),
     ("widened", .num (if x.widened.isEmpty then 0 else 1))]

/-- … and the end of its last line. -/
def State.thermalRest (s : State) : KVs :=
  let rise : Option Int := match s.inlet, s.outlet with
    | some i, some o => some (o - i)
    | _, _ => none
  [("rise", tempVal rise 128), ("heat_w", .num (s.heat / 1000000)), ("flow_lpm", match s.flow with
    | some v => .num (v / 100)
    | none => .word "none")]

/-- What `show thermal` answers. -/
def State.thermalView (ln : Ln) (s : State) : State :=
  s.parts ln s.thermalFields (("inlet", tempVal s.inlet 128) :: ("outlet", tempVal s.outlet 128) :: s.thermalRest)

/-- The answer of a listing begins with the keys given. -/
theorem Answers.parts_cons {s t : State} {ln : Ln} (h : Speaks s t ln.sess) {a b : String × Val} {kv : KVs} (ps : List KVs) :
    ∃ rest, Answers s (t.parts ln ps (a :: b :: kv)) ln (.ok (a :: b :: rest)) :=
  ⟨_, Answers.parts h ps _⟩

/-- A coolant sensor is reachable where its read was answered; the others are as before (R619, R636). -/
theorem State.coolant_effect (s : State) (addr : Nat) (r : Option Int) : (s.coolant addr r).reachable addr = r.isSome
    ∧ ∀ a, a ≠ addr → (s.coolant addr r).reachable a = s.reachable a := by
  unfold State.coolant
  split
  · refine ⟨by simp [State.reachable], fun a h => by simp [State.reachable, h]⟩
  · split
    · rename_i known
      exact ⟨by simpa [State.reachable] using known, fun _ _ => rfl⟩
    · refine ⟨by simp [State.reachable], fun a h => by simp [State.reachable, h]⟩

theorem State.loopOne_kept (s : State) (i : Nat) (c : Option Bool) : (s.loopOne i c).inlet = s.inlet ∧ (s.loopOne i c).outlet = s.outlet
    ∧ (s.loopOne i c).unreach = s.unreach := by
  unfold State.loopOne
  split
  · dsimp only
    split <;> simp
  · simp

theorem foldl_loopOne_kept (cs : List (Option Bool)) (l : List Nat) (s : State) :
    (l.foldl (fun s i => s.loopOne i (cs.getD i none)) s).inlet = s.inlet ∧ (l.foldl (fun s i => s.loopOne i (cs.getD i none)) s).outlet = s.outlet
      ∧ (l.foldl (fun s i => s.loopOne i (cs.getD i none)) s).unreach = s.unreach :=
  foldl_inv (P := fun t : State => t.inlet = s.inlet ∧ t.outlet = s.outlet ∧ t.unreach = s.unreach) l ⟨rfl, rfl, rfl⟩ fun t i h => by
    obtain ⟨a, b, c⟩ := t.loopOne_kept i (cs.getD i none)
    obtain ⟨a', b', c'⟩ := h
    exact ⟨a.trans a', b.trans b', c.trans c'⟩

/-! Throttling (R637–R640). -/

theorem State.stepClock_onlyPads (s : State) (n x : Nat) : OnlyPads s (s.stepClock n x) := by
  unfold State.stepClock
  dsimp only
  split
  · exact .foldl (fun s m => s.modPad_onlyPads m _) _ s
  · rfl

theorem State.throttleStep_onlyPads (s : State) (n x : Nat) : OnlyPads s (s.throttleStep n x) :=
  (s.stepClock_onlyPads n x).trans (.foldl (fun s m => s.modPad_onlyPads m _) _ _)

theorem State.throttleDown_onlyPads (s : State) (f : Nat) : OnlyPads s (s.throttleDown f).1 := by
  refine foldl_inv (P := fun acc : State × Bool × Bool => OnlyPads s acc.1) _ (rfl : OnlyPads s s) fun acc n h => ?_
  dsimp only
  split
  · exact h
  · split <;> exact h.trans (acc.1.throttleStep_onlyPads n _)

@[simp] theorem State.throttleDown_same (s : State) (f : Nat) : SameBesidePads s (s.throttleDown f).1 := (s.throttleDown_onlyPads f).same

/-- An operator's changes that a throttle takes over leave the fields (R583). -/
theorem State.takeOver_field (s : State) (f g : Nat) : (s.takeOver f).field g = s.field g := by
  unfold State.takeOver
  dsimp only
  refine (foldl_eq (fun s : State => s.field g) _ _ fun s n _ => ?_).trans (foldl_eq (fun s : State => s.field g) _ _ fun s d _ => by simp)
  unfold State.endRun
  split <;> simp

@[simp] theorem State.markThrottle_field (s : State) (f g : Nat) : (s.markThrottle f).field g = s.field g := rfl

/-- A throttle that begins, or goes on (R637, R640). -/
theorem State.throttleOn_effect (s : State) (f : Nat) (temp : Int) : ((s.throttleOn f temp).field f).throttle = true
    ∧ ((s.field f).throttle = false → (s.throttleOn f temp).alertN = true)
    ∧ ((s.field f).cool = none → ((s.throttleOn f temp).field f).cool = none) := by
  unfold State.throttleOn
  split
  · rename_i on
    exact ⟨on, fun off => absurd (on.symm.trans off) nofun, id⟩
  · simp

/-- A field that widens its throttle is as it was, and ALERT_N is asserted (R639). -/
theorem State.widen_effect (s : State) (f : Nat) (temp : Int) : (s.widen f temp).field f = s.field f ∧ (s.widen f temp).alertN = true := by
  unfold State.widen
  refine ⟨?_, by simp⟩
  simp only [State.ring_fields, State.alert_fields]
  refine foldl_eq (fun s : State => s.field f) _ _ fun s g mem => ?_
  have other : g ≠ f := by
    simp only [List.mem_filter, Bool.and_eq_true, decide_eq_true_eq] at mem
    exact mem.2.1
  simp [other.symm]

theorem State.widen_if (s : State) (f : Nat) (temp : Int) (c : Bool) : (if c then s.widen f temp else s).field f = s.field f
    ∧ (s.alertN = true → (if c then s.widen f temp else s).alertN = true) := by
  obtain ⟨field, alert⟩ := s.widen_effect f temp
  split
  · exact ⟨field, fun _ => alert⟩
  · exact ⟨rfl, id⟩

/-- Settles O7. -/
theorem thermalTripsAndRetries : Obligations.ThermalTripsAndRetries := by
  refine ⟨fun n a b t s running => ?sample, fun n a b t s running test hot on sound => ?hot, fun n a b t s running test whole f0 f1 new => ?blind,
    fun k v t s running len => ?ned, fun k v t s running len => ?med, fun k v t s running len => ?spd, fun k v t s running => ?shc,
    fun n since t s running power on fuse trip cool => ?retry, fun n since peak t s running power graze fuse trip late => ?verdict,
    fun i o t s running active => ?loop, fun f temp t s running power on known => ?throttle, fun ln s acc => ?view, fun c r ln s acc hc hr => ?pad,
    fun d ln s acc named => ?die⟩
  case sample =>
    refine event_next running rfl ?_
    have read := (s.tick t).samplePad_readings n a b
    simp only [Paddock.readings, Prod.mk.injEq] at read
    obtain ⟨s0, s1, bad0, bad1⟩ := read
    refine ⟨s0, s1, bad0.trans ?_, bad1.trans ?_⟩
    · simp [Paddock.sample, outOfRange]
    · simp [Paddock.sample, outOfRange]
  case hot =>
    refine event_next running rfl ?_
    obtain ⟨power, trip, -⟩ := State.sampled_trip (s := s.tick t) test n a b false
    simp only [State.samplePad_eq, State.tick_fields, State.tick_now]
    rw [if_neg, if_pos]
    · exact ⟨power, trip⟩
    · simpa [hot, Paddock.sample_power] using on
    · obtain ⟨f0, f1⟩ | sound := sound
      · simp [f0, f1]
      · rw [Bool.and_eq_true, Bool.and_eq_true, Bool.and_eq_true]
        exact fun c => sound c.1.1
  case blind =>
    refine event_next running rfl ?_
    obtain ⟨power, trip, st⟩ := State.sampled_trip (s := s.tick t) test n a b true
    simp only [State.samplePad_eq, State.tick_fields, State.tick_now]
    rw [if_pos]
    · exact ⟨power, trip, st rfl⟩
    · obtain f | f := new
      · simp [f0, f1, whole, f]
      · simp [f0, f1, whole, f]
  case ned =>
    refine event_next running rfl ?_
    have temps : ∀ u : State, u.nedTemp = listSet s.nedTemp k (v, hotCount v (s.nedTemp.getD k (noTemp, 0)).2) → (u.nedTemp.getD k (0, 0)).1 = v := by
      intro u e
      rw [e, listSet_getD, if_pos ⟨rfl, by rw [len]; exact k.isLt⟩]
    dsimp only
    split
    · exact temps _ (congrArg Plant.nedTemp (State.nedEnterDoubt_plant _ _ _))
    · exact temps _ rfl
  case med =>
    refine event_next running rfl ?_
    change ((listSet s.medTemp k (v, _)).getD k (0, 0)).1 = v
    rw [listSet_getD, if_pos ⟨rfl, by rw [len]; exact k.isLt⟩]
  case spd =>
    refine event_next running rfl ?_
    have temps : ∀ u : State, u.spdTemp = listSet s.spdTemp k (v, hotCount v (s.spdTemp.getD k (noTemp, 0)).2) → (u.spdTemp.getD k (0, 0)).1 = v := by
      intro u e
      rw [e, listSet_getD, if_pos ⟨rfl, by rw [len]; exact k.isLt⟩]
    dsimp only
    split
    · exact temps _ (congrArg Plant.spdTemp (State.spdEnterDoubt_plant _ _ _))
    · exact temps _ rfl
  case shc =>
    refine event_next running rfl ?_
    have here : ∀ f : Shc → Shc, (∀ c, (f c).temp = v) → (((s.tick t).modShc k f).shc k).temp = v := fun f h => by
      simp [State.modShc, h]
    dsimp only
    split
    · rw [temp_of_temps (State.shcHot_temps _ _ _)]
      exact here _ fun _ => rfl
    · exact here _ fun _ => rfl
  case retry =>
    refine event_next running ?_ ?_
    · have on' : (s.tick t).fieldOn n = true := on
      simp only [State.tick_fields, State.tick_now, power, on', fuse, trip, cool]
      rfl
    · refine ⟨⟨(s.pad n).temp.getD 0, ?_⟩, ?_⟩
      · simp
      · simp [State.enqueueWave]
  case verdict =>
    refine event_next running (by simpa [power, graze, fuse, trip] using late) ?_
    simp only [State.tick_fields, trip]
    split
    · rename_i lasting
      simp only [Bool.or_eq_true, decide_eq_true_eq, Bool.and_eq_true] at lasting
      refine ⟨fun low => by omega, fun _ => ?_, .inr ?_⟩
      · simp [State.makeHole_st]
      · simp
    · rename_i passing
      simp only [Bool.or_eq_true, decide_eq_true_eq, Bool.and_eq_true, not_or] at passing
      refine ⟨fun _ => ?_, fun high => absurd high passing.1, .inl ?_⟩
      · simp [State.settlePad_trip]
      · simp [State.settlePad_trip]
  case loop =>
    refine event_next running (by simpa using active) ?_
    obtain ⟨inlet, outlet, unreach⟩ := foldl_loopOne_kept (loopConditions i o (State.heat { ((s.tick t).coolant 0x70 i).coolant 0x71 o with
      inlet := i, outlet := o })) (List.range 3) { ((s.tick t).coolant 0x70 i).coolant 0x71 o with inlet := i, outlet := o }
    refine ⟨inlet, outlet, ?_, ?_⟩
    · refine Eq.trans (congrArg (fun u : List Nat => !u.contains 0x70) unreach) ?_
      exact ((State.coolant_effect _ 0x71 o).2 0x70 (by decide)).trans (State.coolant_effect _ 0x70 i).1
    · refine Eq.trans (congrArg (fun u : List Nat => !u.contains 0x71) unreach) ?_
      exact (State.coolant_effect _ 0x71 o).1
  case throttle =>
    have known' : (s.tick t).fieldTemp f = some temp := known
    refine event_next running (by simp [power, on, known']) ?_
    simp only [State.tick_fields, State.tick_now, known', Option.getD_some]
    split
    · rename_i asked
      obtain ⟨throttle, alertN, cool⟩ := State.throttleOn_effect ((s.tick t).modField f fun y =>
        { y with cool := if temp < 712 then some ((s.field f).cool.getD (max s.now t)) else none }) f temp
      generalize State.throttleOn _ _ _ = s1 at throttle alertN cool ⊢
      have kept : ∀ u : State, (u.field f).throttle = true → ((s.field f).throttle = false → u.alertN = true) →
          (712 ≤ temp → (u.field f).cool = none) → (736 ≤ temp → (u.field f).throttle = true ∧ ((s.field f).throttle = false → u.alertN = true))
          ∧ (temp < 736 → (s.field f).throttle = false → (s.field f).widened = [] → (u.field f).throttle = false)
          ∧ (712 ≤ temp → (u.field f).cool = none) := fun u on alert cool =>
        ⟨fun _ => ⟨on, alert⟩, fun low off narrow => by simp [narrow, show ¬ 736 ≤ temp by omega] at asked, cool⟩
      have warm : 712 ≤ temp → (s1.field f).cool = none := fun high => cool (by simp [show ¬ temp < 712 by omega])
      have alert : (s.field f).throttle = false → s1.alertN = true := fun off => alertN (by simpa using off)
      refine kept _ ?_ (fun off => ?_) fun high => ?_
      · rw [(State.widen_if _ _ _ _).1]
        simpa using throttle
      · refine (State.widen_if _ _ _ _).2 ?_
        simpa using alert off
      · rw [(State.widen_if _ _ _ _).1]
        simpa using warm high
    · rename_i calm
      simp only [Bool.or_eq_true, decide_eq_true_eq, not_or] at calm
      have kept : ∀ u : State, (temp < 736 → (s.field f).throttle = false → (s.field f).widened = [] → (u.field f).throttle = false) →
          (712 ≤ temp → (u.field f).cool = none) → (736 ≤ temp → (u.field f).throttle = true ∧ ((s.field f).throttle = false → u.alertN = true))
          ∧ (temp < 736 → (s.field f).throttle = false → (s.field f).widened = [] → (u.field f).throttle = false)
          ∧ (712 ≤ temp → (u.field f).cool = none) := fun u off warm => ⟨fun high => absurd high calm.1, off, warm⟩
      by_cases high : 712 ≤ temp
      · simp only [show ¬ temp < 712 by omega, if_false, Bool.false_and, Bool.false_eq_true]
        exact kept _ (fun _ off _ => by simpa using off) fun _ => by simp
      · refine kept _ (fun _ off _ => ?_) fun c => absurd c high
        simp [off]
  case view =>
    have inlet : (s.atLine ln).inlet = s.inlet := by simp
    have outlet : (s.atLine ln).outlet = s.outlet := by simp
    obtain ⟨kv, answer⟩ := Answers.parts_cons acc.speaks (a := ("inlet", tempVal (s.atLine ln).inlet 128))
      (b := ("outlet", tempVal (s.atLine ln).outlet 128)) (kv := (s.atLine ln).thermalRest) ((s.atLine ln).thermalFields)
    rw [inlet, outlet] at answer
    refine ⟨_, kv, congrArg Host.Outcome.next (State.judged_accepts (body := State.thermalView ln) acc),
      (OnlySessions.atLine s ln).trans (.parts _ ln _ _), ?_⟩
    unfold State.thermalView
    rw [inlet, outlet]
    exact answer
  case pad =>
    refine judged_next acc ?_
    simp only [hc, hr, decide_true, Bool.and_self, if_true]
    exact ⟨(OnlySessions.atLine s ln).trans (.parts _ ln _ _), Answers.parts acc.speaks _ _⟩
  case die =>
    refine judged_next acc ?_
    have one : ∀ kv, OnlySessions s ((s.atLine ln).parts ln [kv] []) ∧ Answers s ((s.atLine ln).parts ln [kv] []) ln (.ok [("count", .num 1)]) :=
      fun kv => ⟨(OnlySessions.atLine s ln).trans (.parts _ ln _ _), Answers.parts acc.speaks _ _⟩
    cases d with
    | ned k =>
      by_cases h : k < 24
      · simpa only [h, if_true] using one _
      · simp [dieDest, h] at named
    | spd k =>
      by_cases h : k < 16
      · simpa only [h, if_true] using one _
      · simp [dieDest, h] at named
    | med k =>
      by_cases h : k < 12
      · simpa only [h, if_true] using one _
      · simp [dieDest, h] at named
    | shc k =>
      by_cases h : k < 2
      · simpa only [h, if_true] using one _
      · simp [dieDest, h] at named

end Sys2Proof.Machine

/-! Firmware in B1 (R703–R705, R756–R758). -/
namespace Sys2Proof.Machine

open Sys2Proof

/-- What `SameBesideWire` says, as one equation. -/
def OnlyWire (s t : State) : Prop := t = { s with wire := t.wire }

theorem OnlyWire.same {s t : State} (h : OnlyWire s t) : SameBesideWire s t := by
  rw [h]
  (repeat' apply And.intro) <;> intros <;> rfl

theorem OnlyWire.trans {s t u : State} (h : OnlyWire s t) (k : OnlyWire t u) : OnlyWire s u := by
  unfold OnlyWire at *
  rw [k, h]

theorem OnlyWire.foldl {α : Type} {f : State → α → State} (h : ∀ s a, OnlyWire s (f s a)) (l : List α) (s : State) :
    OnlyWire s (l.foldl f s) :=
  foldl_inv l (P := OnlyWire s) rfl fun t a k => k.trans (h t a)

@[simp] theorem foldl_pmbus_same {α : Type} (g : α → Nat × Nat × Nat × Nat) (l : List α) (s : State) :
    SameBesideWire s (l.foldl (fun s a => s.pmbus (g a).1 (g a).2.1 (g a).2.2.1 (g a).2.2.2) s) :=
  (OnlyWire.foldl (fun s a => (rfl : OnlyWire s (s.pmbus (g a).1 (g a).2.1 (g a).2.2.1 (g a).2.2.2))) l s).same

/-- The consoles are up, and of the controllers nothing changes (R705). -/
theorem State.becomeActive_effect (s : State) (i : Nat) : (s.becomeActive i).active = some i ∧ (s.becomeActive i).sel = i
    ∧ (s.becomeActive i).boot = { s.boot with consoles := true } ∧ ∀ j, (s.becomeActive i).shc j = s.shc j := by
  unfold State.becomeActive State.startConsoles
  have rails := foldl_pmbus_same (fun r : Nat × Nat => (r.1, r.2, 0x01, 0)) stageRails
  simp [rails]

/-- A controller runs an image that its ROM picked and whose stepping it finds (R703). -/
def State.runImage (s : State) (i : Nat) (good : Option (Nat × Firmware)) (cause : Nat) : State :=
  match good with
  | some p => s.modShc i fun c => c.load p.1 p.2 s.now
  | none => s.shcDoubt i cause

/-- The controller that the firmware makes active, if one is not active already (R704). -/
def State.chooseActive (s : State) : State :=
  let okA := s.boot.fwTried.contains 0 && s.shcA.st = .ok
  let okB := s.boot.fwTried.contains 1 && s.shcB.st = .ok
  if s.active.isSome then s
  else if okA then s.becomeActive 0
  else if okB && s.boot.fwTried.contains 0 then ((s.becomeActive 1).shcDoubt 0 s.shcA.cause).takeoverBell 1
  else s

@[simp] theorem State.shcDoubt_shc (s : State) (i cause j : Nat) :
    (s.shcDoubt i cause).shc j = if j = 0 ↔ i = 0 then { s.shc i with st := .doubt, cause := cause } else s.shc j := by
  simp [State.shcDoubt, State.modShc]

@[simp] theorem State.shcDoubt_kept (s : State) (i cause : Nat) : (s.shcDoubt i cause).active = s.active ∧ (s.shcDoubt i cause).sel = s.sel
    ∧ (s.shcDoubt i cause).boot = s.boot ∧ (s.shcDoubt i cause).quiet = s.quiet ∧ (s.shcDoubt i cause).now = s.now
    ∧ (s.shcDoubt i cause).wire = s.wire ∧ (s.shcDoubt i cause).waits = s.waits := by
  simp [State.shcDoubt]

@[simp] theorem State.takeoverBell_kept (s : State) (i : Nat) : (s.takeoverBell i).active = s.active ∧ (s.takeoverBell i).sel = s.sel
    ∧ (s.takeoverBell i).boot = s.boot ∧ (s.takeoverBell i).quiet = s.quiet ∧ (∀ j, (s.takeoverBell i).shc j = s.shc j)
    ∧ (s.takeoverBell i).faultN = s.faultN ∧ (s.takeoverBell i).now = s.now ∧ (s.takeoverBell i).wire = s.wire := by
  simp [State.takeoverBell]

/-- A controller's ROM has tried its images (R703, R704). -/
def State.firmwareRuns (s : State) (i : Nat) (sigs : List Bool) (step : BitVec 4) : State :=
  let s1 : State := { s with boot := { s.boot with fwTried := s.boot.fwTried ++ [i] } }
  let good := match s1.romPick sigs with
    | some p => if step.toNat = p.2.stepping then some p else none
    | none => none
  (s1.runImage i good (if (s1.romPick sigs).isSome then 2 else 1)).chooseActive

theorem State.firmwareRuns_of_pick {s : State} {sigs : List Bool} {step : BitVec 4} {slot : Nat} {w : Firmware} (i : Nat)
    (pick : s.romPick sigs = some (slot, w)) (same : step.toNat = w.stepping) : s.firmwareRuns i sigs step =
      (({ s with boot := { s.boot with fwTried := s.boot.fwTried ++ [i] } } : State).modShc i fun c => c.load slot w s.now).chooseActive := by
  have pick' : ({ s with boot := { s.boot with fwTried := s.boot.fwTried ++ [i] } } : State).romPick sigs = some (slot, w) := pick
  unfold State.firmwareRuns
  simp only [pick', same, if_true]
  rfl

theorem State.firmwareRuns_of_none {s : State} {sigs : List Bool} {step : BitVec 4} (i : Nat)
    (bad : ∀ slot w, s.romPick sigs = some (slot, w) → step.toNat ≠ w.stepping) : ∃ cause, s.firmwareRuns i sigs step =
      (({ s with boot := { s.boot with fwTried := s.boot.fwTried ++ [i] } } : State).shcDoubt i cause).chooseActive := by
  have same : ({ s with boot := { s.boot with fwTried := s.boot.fwTried ++ [i] } } : State).romPick sigs = s.romPick sigs := rfl
  refine ⟨if (s.romPick sigs).isSome then 2 else 1, ?_⟩
  unfold State.firmwareRuns
  simp only [same]
  cases pick : s.romPick sigs with
  | none => rfl
  | some p =>
    simp only [bad p.1 p.2 pick, if_false]
    rfl

/-- One of three: nothing is to choose, SHC-A is chosen, or SHC-B for an SHC-A that has failed (R704). -/
theorem State.chooseActive_cases (s : State) :
    s.chooseActive = s ∧ (s.active.isSome ∨ ¬(0 ∈ s.boot.fwTried ∧ (s.shcA.st = .ok ∨ 1 ∈ s.boot.fwTried ∧ s.shcB.st = .ok)))
      ∨ s.active = none ∧ 0 ∈ s.boot.fwTried ∧ s.shcA.st = .ok ∧ s.chooseActive = s.becomeActive 0
      ∨ s.active = none ∧ s.shcA.st ≠ .ok ∧ (1 ∈ s.boot.fwTried ∧ s.shcB.st = .ok ∧ 0 ∈ s.boot.fwTried)
        ∧ s.chooseActive = ((s.becomeActive 1).shcDoubt 0 s.shcA.cause).takeoverBell 1 := by
  unfold State.chooseActive
  by_cases idle : s.active = none
  · by_cases tried : 0 ∈ s.boot.fwTried
    · by_cases ok : s.shcA.st = .ok
      · simp [idle, tried, ok]
      · by_cases other : 1 ∈ s.boot.fwTried ∧ s.shcB.st = .ok <;> simp_all
    · simp [idle, tried]
  · simp [Option.isSome_iff_ne_none, idle]

/-- Settles O8. -/
theorem firmwareMakesAControllerActive : Obligations.FirmwareMakesAControllerActive := by
  refine ⟨fun i sigs step slot w t s running b1 jtag new pick same => ?good, fun i sigs step t s running b1 jtag new bad => ?bad,
    fun i image w t s running b1 idle sel tried doubt read runs => ?ram⟩
  case good =>
    refine event_next (f := fun s => s.firmwareRuns i sigs step) running (by simp [b1, jtag, new]) ?_
    rw [State.firmwareRuns_of_pick (s := s.tick t) i pick same]
    generalize hv : State.modShc _ _ _ = v
    have tried : v.boot.fwTried = s.boot.fwTried ++ [i.val] := by simp [← hv]
    have active : v.active = s.active := by simp [← hv]
    obtain ⟨i, hi⟩ := i
    obtain rfl | rfl : i = 0 ∨ i = 1 := by omega
    · have own : v.shcA = s.shcA.load slot w (s.tick t).now := by simp [← hv, State.modShc, State.setShc, State.shc]
      have own' : v.shc 0 = v.shcA := rfl
      obtain ⟨e, c⟩ | ⟨idle, -, -, e⟩ | ⟨-, off, -⟩ := v.chooseActive_cases
      · rw [e]
        cases idle : s.active <;> simp_all [Shc.load]
      · obtain ⟨on, sel, boot, shc⟩ := v.becomeActive_effect 0
        rw [e]
        simp_all [Shc.load]
      · exact absurd (by rw [own]; rfl) off
    · have own : v.shcB = s.shcB.load slot w (s.tick t).now := by simp [← hv, State.modShc, State.setShc, State.shc]
      have other : v.shcA = s.shcA := by simp [← hv, State.modShc, State.setShc]
      have own' : v.shc 1 = v.shcB := rfl
      obtain ⟨e, c⟩ | ⟨idle, -, ok, e⟩ | ⟨idle, off, -, e⟩ := v.chooseActive_cases
      · rw [e]
        cases idle : s.active <;> simp_all [Shc.load]
      · obtain ⟨on, sel, boot, shc⟩ := v.becomeActive_effect 0
        rw [e]
        simp_all [Shc.load]
      · obtain ⟨on, sel, boot, shc⟩ := v.becomeActive_effect 1
        rw [e]
        simp_all [Shc.load]
  case bad =>
    refine event_next (f := fun s => s.firmwareRuns i sigs step) running (by simp [b1, jtag, new]) ?_
    obtain ⟨cause, e⟩ := State.firmwareRuns_of_none (s := s.tick t) (step := step) i bad
    rw [e]
    generalize hv : State.shcDoubt _ _ _ = v
    have doubt : (v.shc i).st = .doubt := by simp [← hv]
    obtain ⟨e, c⟩ | ⟨idle, -, ok, e⟩ | ⟨idle, off, -, e⟩ := v.chooseActive_cases
    · rw [e, doubt]
    · rw [e, (v.becomeActive_effect 0).2.2.2, doubt]
    · rw [e]
      obtain ⟨on, sel, boot, shc⟩ := v.becomeActive_effect 1
      simp only [State.takeoverBell_kept, State.shcDoubt_shc]
      split
      · rfl
      · rw [shc, doubt]
  case ram =>
    have runs' : (s.tick t).runs true w = true := runs
    refine event_next running (by simp [b1, idle, sel, tried, doubt]) ?_
    simp only [read, runs', if_true]
    obtain ⟨active, -, boot, shc⟩ := State.becomeActive_effect ((s.tick t).modShc i fun c => c.load 3 w (s.tick t).now) i
    simp only [active, boot, shc]
    simp [State.modShc, Shc.load]

end Sys2Proof.Machine

/-! READY and the boot commands (R699–R723, Table CMD-2). -/
namespace Sys2Proof.Machine

open Sys2Proof

theorem State.accepts.atLine_flashTakes {s : State} {ln : Ln} (h : s.flashTakes ln = true) : (s.atLine ln).flashTakes ln = true := by
  simpa [State.flashTakes] using h

/-- What is stored in flash by an accepted line, beside its answer. -/
theorem OnlySessions.storeFlash (s : State) (ln : Ln) (f : Flash → Flash) :
    OnlySessions { s with flash := f s.flash } { s.atLine ln with flash := f (s.atLine ln).flash } := by
  obtain ⟨e, waits⟩ := OnlySessions.atLine s ln
  refine ⟨?_, waits⟩
  rw [e]

theorem Speaks.storeFlash {s t : State} {i : Nat} (h : Speaks s t i) (f : Flash) : Speaks s { t with flash := f } i := h.of_sess rfl

/-- The reply to `reset engine` is said before the reset, which leaves the trace of its session (R699). -/
theorem State.resetSaid (s : State) (ln : Ln) (out : List Out) (sess : ln.sess < 10) (jtag : Bool) :
    (((s.enterReset.setCs ln.sess { s.enterReset.cs ln.sess with out := out }).leaveReset jtag).cs ln.sess).out = out := by
  have here : ((s.enterReset.setCs ln.sess { s.enterReset.cs ln.sess with out := out }).cs ln.sess).out = out := by
    rw [State.setCs_cs, if_pos ⟨rfl, sess⟩]
  refine Eq.trans ?_ here
  unfold State.leaveReset State.modFlash
  dsimp only
  split <;> rfl

/-- What a released reset begins with (R699, R700). -/
theorem State.leaveReset_starts (s : State) (i : Nat) (out : List Out) (jtag : Bool) :
    let u := (s.enterReset.setCs i { s.enterReset.cs i with out := out }).leaveReset jtag
    u.ready = false ∧ u.boot.phase = .b1 ∧ u.boot.released = s.now ∧ u.resetN = false ∧ u.active = none ∧ u.folds = [] ∧ u.pads = [] := by
  unfold State.leaveReset State.modFlash
  dsimp only
  split <;> exact ⟨rfl, rfl, rfl, rfl, rfl, rfl, rfl⟩

/-- The further keys of `show engine detail` (Table CMD-2). -/
def engineDetail (s : State) : KVs :=
  [("serial", .hex s.fuses.serial.toNat), ("mfr", .num s.fuses.mfr), ("active", .word (if s.active.getD 0 = 0 then "shc-a" else "shc-b")),
   ("firmware", .num (s.shc (s.active.getD 0)).firmware), ("svn", .num s.fuses.svn), ("boot", .word (fullWord s.boot.full))]

/-- Settles O12, a command at a time; what `reset engine` says before the reset is all that the reset leaves of its session. -/
theorem bootCommandsAct : Obligations.BootCommandsAct := by
  refine ⟨fun full ln s acc takes => ?mode, fun at_ ns ln s acc takes loc holes => ?clear, fun ln s acc sess => ?reset, fun ln s acc => ?unsure,
    fun detail ln s acc => ?engine, fun ln s acc => ?boot⟩
  case mode =>
    have takes' := State.accepts.atLine_flashTakes takes
    refine judged_next acc ?_
    simp only [takes', Bool.not_true, Bool.false_eq_true, if_false]
    exact ⟨(OnlySessions.storeFlash s ln fun f => { f with bootFull := full }).trans (.ok _ ln _), Answers.ok (acc.speaks.storeFlash _) _⟩
  case clear =>
    have takes' := State.accepts.atLine_flashTakes takes
    have all : (ns.any fun n => decide (((s.atLine ln).entry n).st ≠ 2)) = false := by
      rw [List.any_eq_false]
      intro n mem
      simp [holes n mem]
    refine judged_next acc ?_
    simp only [loc, all, takes', Bool.not_true, Bool.false_eq_true, if_false]
    exact ⟨(OnlySessions.storeFlash s ln fun f => { f with clear := ns }).trans (.ok _ ln _), Answers.ok (acc.speaks.storeFlash _) _⟩
  case reset =>
    refine judged_next acc ?_
    simp only [if_true]
    obtain ⟨before, after, e⟩ := Answers.ok acc.speaks []
    have left := (s.atLine ln).leaveReset_starts ln.sess ((((s.atLine ln).ok ln []).cs ln.sess).out) (s.atLine ln).boot.jtag
    obtain ⟨ready, phase, released, resetN, active, folds, pads⟩ := left
    exact ⟨ready, phase, released.trans (State.atLine_now s ln), resetN, active, folds, pads,
      before, after, (State.resetSaid _ ln _ sess _).trans e⟩
  case unsure =>
    refine judged_next acc ?_
    exact ⟨(OnlySessions.atLine s ln).trans (.err _ ln _ _), Answers.err acc.speaks _ _⟩
  case engine =>
    have me : (s.atLine ln).me = s.me := atLine_reads State.me s ln fun _ _ _ => rfl
    have word : bootWord (s.atLine ln) = bootWord s := atLine_reads bootWord s ln fun _ _ _ => rfl
    have shown : ∀ kv, OnlySessions s ((s.atLine ln).ok ln kv) ∧ Answers s ((s.atLine ln).ok ln kv) ln (.ok kv) := fun kv =>
      ⟨(OnlySessions.atLine s ln).trans (.ok _ ln _), Answers.ok acc.speaks _⟩
    cases detail with
    | false =>
      refine ⟨_, [], congrArg Host.Outcome.next (State.judged_accepts acc), ?_⟩
      simp only [Bool.false_eq_true, if_false, List.append_nil, me, word]
      exact ⟨(shown _).1, (shown _).2, fun _ => trivial⟩
    | true =>
      refine ⟨_, engineDetail (s.atLine ln), congrArg Host.Outcome.next (State.judged_accepts acc), ?_⟩
      simp only [engineDetail, if_true, List.cons_append, List.nil_append, me, word]
      exact ⟨(shown _).1, (shown _).2, fun h => nomatch h⟩
  case boot =>
    refine judged_next acc ?_
    refine ⟨(OnlySessions.atLine s ln).trans (.parts _ ln _ _), ?_⟩
    have ended : (s.atLine ln).boot = s.boot := by simp
    have stored : (s.atLine ln).flash = s.flash := by simp
    have answer := Answers.parts acc.speaks (s.boot.ended.map fun e => [("phase", .word ((["", "b1", "b2", "b3", "b4", "b5"] : List String).getD e.1 "b5")),
        ("ended_ms", .num ((e.2 - s.boot.released) / msec))])
      [("run", .word (fullWord s.boot.full)), ("stored", .word (fullWord s.flash.bootFull)), ("cause", .word (causeWord s.boot.cause))]
    rw [List.length_map] at answer
    simp only [ended, stored]
    exact answer

end Sys2Proof.Machine

/-! READY (R702, R720–R723). -/
namespace Sys2Proof.Machine

open Sys2Proof

theorem boot_of_ctl {s t : State} (h : t.ctl = s.ctl) : t.boot = s.boot := congrArg Ctl.boot h

theorem now_of_core {s t : State} (h : t.core = s.core) : t.now = s.now := congrArg Core.now h

/-- Whether B5 still has to write a map that it cannot write (R720). -/
def State.mapIsStuck (s : State) (flashOk : Bool) : Bool :=
  (s.bootEntries.boot.full || s.bootEntries.mapChanged) && (!flashOk || s.bootEntries.frozen)

/-- The end of B5, or what B5 stays in. -/
def State.endB5 (s : State) (flashOk : Bool) : State :=
  if s.mapIsStuck flashOk then s else s.bootEntries.becomeReady (s.bootEntries.boot.full || s.bootEntries.mapChanged)

theorem State.mapIsStuck_iff (s : State) (flashOk : Bool) :
    s.mapIsStuck flashOk = true ↔ (s.boot.full = true ∨ s.bootEntries.mapChanged = true) ∧ (flashOk = false ∨ s.frozen = true) := by
  have boot : s.bootEntries.boot = s.boot := boot_of_ctl (State.bootEntries_ctl s)
  have frozen : s.bootEntries.frozen = s.frozen := frozen_of_core (State.bootEntries_core s)
  simp [State.mapIsStuck, boot, frozen]

theorem State.becomeReady_ready (s : State) (must : Bool) :
    (s.becomeReady must).boot.phase = .ready ∧ (s.becomeReady must).ready = true ∧ (s.becomeReady must).readyAt = s.now
      ∧ (s.becomeReady must).vstby = false :=
  have now : (s.becomeReady must).now = s.now := now_of_core (State.becomeReady_core s must)
  ⟨rfl, rfl, (show (s.becomeReady must).readyAt = (s.becomeReady must).now from rfl).trans now, rfl⟩

theorem State.event_idles {s : State} {t : Time} {c : State → Bool} {f : State → State} (r : s.resetN = false)
    (h : c (s.tick t) = false) : s.event t c f = s.tick t := by
  unfold State.event
  have running : (s.tick t).resetN = false := r
  simp [h, running]

theorem State.endB5_next {s : State} {flashOk : Bool} {t : Time} {P : State → Prop} (running : s.resetN = false) (phase : s.boot.phase = .b5)
    (active : s.active.isSome) (p : P ((s.tick t).endB5 flashOk)) : ∃ u, exec (.bootMapAndReady flashOk t) s = .next u ∧ P u :=
  event_next (f := fun s => s.endB5 flashOk) running (by simpa using ⟨phase, active⟩) p

/-- Settles O11: B5 ends unless `mapIsStuck`, and what it ends with is `becomeReady`. -/
theorem readyIsReachedAndLatched : Obligations.ReadyIsReachedAndLatched := by
  refine ⟨fun flashOk t s running phase active writes => ?ends, fun flashOk t s running phase active full fails => ?stays,
    fun t s running active ready => ?refresh, fun t s running ready => ?falls⟩
  case ends =>
    have free : ¬ (s.tick t).mapIsStuck flashOk = true := by
      rw [State.mapIsStuck_iff]
      rintro ⟨must, cannot⟩
      rcases writes with ⟨ok, thawed⟩ | ⟨partial_, same⟩
      · rcases cannot with e | e
        · exact absurd (ok.symm.trans e) (by decide)
        · exact absurd (thawed.symm.trans e) (by decide)
      · rcases must with e | e
        · exact absurd (partial_.symm.trans e) (by decide)
        · exact absurd (same.symm.trans e) (by decide)
    refine State.endB5_next running phase active ?_
    rw [State.endB5, if_neg free]
    obtain ⟨phase', ready, at_, vstby⟩ := State.becomeReady_ready (s.tick t).bootEntries _
    exact ⟨phase', ready, at_.trans (now_of_core (State.bootEntries_core _)), vstby⟩
  case stays =>
    refine State.endB5_next running phase active ?_
    have stuck : (s.tick t).mapIsStuck flashOk = true := (State.mapIsStuck_iff _ _).mpr ⟨.inl full, fails⟩
    rw [State.endB5, if_pos stuck]
    rfl
  case refresh =>
    exact event_next running (by simpa using ⟨active, ready⟩) rfl
  case falls =>
    by_cases due : s.readyAt + 50 * msec ≤ max s.now t
    · have fallen : ¬ max s.now t < s.readyAt + 50 * msec := Nat.not_lt.mpr due
      refine event_next (f := fun s => { s with ready := false }) running (by simpa [ready] using due) ?_
      rw [decide_eq_false fallen]
      rfl
    · refine next_of_eq (State.event_idles running (by simpa [ready] using due)) ?_
      rw [decide_eq_true (Nat.lt_of_not_le due), ← ready]
      rfl

end Sys2Proof.Machine

/-! What leaves the lanes that are down alone, as in Laws/. -/
namespace Sys2Proof.Machine

open Sys2Proof

/-- Which lanes are lasting-down at which of their ends (R715). -/
structure Downs where
  down : Nat → Nat → Bool

/-- Whether a lane is lasting-down at an end. -/
def downAt (links : List (Nat × LinkEnd)) (x lane : Nat) : Bool := (assoc LinkEnd.initial links (linkKey x lane)).lastingDown

def State.downs (s : State) : Downs :=
  ⟨downAt s.links⟩

theorem downs_mk (now) (freeCtr) (resetN) (pwrFail) (pwrFailAt) (frozen) (faultN) (alertN) (alertCause) (ready)
    (readyAt) (vstby) (fuses) (flash) (writing) (place) (net) (boot) (sel) (quiet) (active) (shcA) (shcB) (mirrorSeq)
    (mirrorProbe) (scratch) (sess) (con0) (con1) (waits) (garp) (stages) (nextStage) (retained) (fwUpdate) (bellSeq)
    (bells) (ledgerSeq) (ledgerHeld) (ledgerStopped) (ptpPort) (ptpHeard) (tallies) (busA) (busB) (shared) (telem)
    (unreach) (refAbsent) (refSince) (meshLocked) (inlet) (outlet) (loopSince) (wave) (lastWave) (map) (mapSeq) (pads)
    (fields) (links) (lane0) (neds) (meds) (spds) (nedTemp) (spdTemp) (medTemp) (flockUp) (flockMembers) (flockInfo)
    (excludedW) (folds) (scrubs) (paused) (secondAt) (incCtr) (channels) (sessions) (reports) (notices) (wsel) (wstat)
    (shadow) (taps) (wire) (pending) : (State.mk now freeCtr resetN pwrFail pwrFailAt frozen faultN alertN alertCause
    ready readyAt vstby fuses flash writing place net boot sel quiet active shcA shcB mirrorSeq mirrorProbe scratch
    sess con0 con1 waits garp stages nextStage retained fwUpdate bellSeq bells ledgerSeq ledgerHeld ledgerStopped
    ptpPort ptpHeard tallies busA busB shared telem unreach refAbsent refSince meshLocked inlet outlet loopSince wave
    lastWave map mapSeq pads fields links lane0 neds meds spds nedTemp spdTemp medTemp flockUp flockMembers flockInfo
    excludedW folds scrubs paused secondAt incCtr channels sessions reports notices wsel wstat shadow taps wire
    pending).downs =
    ⟨downAt links⟩ := rfl

theorem downs_eqs : (∀ s : State, downAt s.links = s.downs.down) := by
  intros
  rfl

@[simp] theorem ite_downs (c : Prop) [Decidable c] (a b : State) : (if c then a else b).downs = if c then a.downs else b.downs := by
  split <;> rfl

@[simp] theorem foldl_downs {α : Type} (f : State → α → State) (h : ∀ s a, (f s a).downs = s.downs) (l : List α) (s : State) :
    (l.foldl f s).downs = s.downs := by
  induction l generalizing s with
  | nil => rfl
  | cons x xs ih => simp [ih, h]

theorem ite_eq_downs {c : Prop} [Decidable c] {a b : State} {r : Downs} (ha : a.downs = r) (hb : b.downs = r) :
    (if c then a else b).downs = r := by
  split <;> assumption

theorem wire_downs (a : State) (w : List Wire) : ({ a with wire := w } : State).downs = a.downs := rfl

theorem meds_downs (a : State) (l : List Med) (h : l.length = a.meds.length) : ({ a with meds := l } : State).downs = a.downs := rfl

theorem heard_downs (a : State) (o : Option Time) : ({ a with ptpHeard := o } : State).downs = a.downs := rfl

theorem fw_downs (a : State) (w : FwUpdate) : ({ a with fwUpdate := w } : State).downs = a.downs := rfl

@[simp] theorem State.setPad_downs (s : State) (n : Nat) (p : Paddock) : (State.setPad s n p).downs = s.downs := by
  unfold State.setPad; simp only [State.downs, Downs.mk.injEq] <;> simp [↓downs_mk, downs_eqs]

@[simp] theorem State.modPad_downs (s : State) (n : Nat) (f : Paddock → Paddock) : (State.modPad s n f).downs = s.downs := by
  simp [State.modPad]

@[simp] theorem State.setField_downs (s : State) (f : Nat) (x : Field) : (State.setField s f x).downs = s.downs := by
  unfold State.setField; simp only [State.downs, Downs.mk.injEq] <;> simp [↓downs_mk, downs_eqs]

@[simp] theorem State.modField_downs (s : State) (f : Nat) (g : Field → Field) : (State.modField s f g).downs = s.downs := by
  simp [State.modField]

@[simp] theorem State.setNed_downs (s : State) (k : Nat) (x : Ned) : (State.setNed s k x).downs = s.downs := by
  unfold State.setNed; simp only [State.downs, Downs.mk.injEq] <;> simp [↓downs_mk, downs_eqs]

@[simp] theorem State.modNed_downs (s : State) (k : Nat) (f : Ned → Ned) : (State.modNed s k f).downs = s.downs := by
  simp [State.modNed]

@[simp] theorem State.setMed_downs (s : State) (k : Nat) (x : Med) : (State.setMed s k x).downs = s.downs := by
  unfold State.setMed; simp only [State.downs, Downs.mk.injEq] <;> simp [↓downs_mk, downs_eqs]

@[simp] theorem State.modMed_downs (s : State) (k : Nat) (f : Med → Med) : (State.modMed s k f).downs = s.downs := by
  simp [State.modMed]

@[simp] theorem State.setSpd_downs (s : State) (k : Nat) (x : Spd) : (State.setSpd s k x).downs = s.downs := by
  unfold State.setSpd; simp only [State.downs, Downs.mk.injEq] <;> simp [↓downs_mk, downs_eqs]

@[simp] theorem State.modSpd_downs (s : State) (k : Nat) (f : Spd → Spd) : (State.modSpd s k f).downs = s.downs := by
  simp [State.modSpd]

@[simp] theorem State.setShc_downs (s : State) (i : Nat) (x : Shc) : (State.setShc s i x).downs = s.downs := by
  unfold State.setShc; simp only [State.downs, Downs.mk.injEq] <;> simp [↓downs_mk, downs_eqs]

@[simp] theorem State.modShc_downs (s : State) (i : Nat) (f : Shc → Shc) : (State.modShc s i f).downs = s.downs := by
  simp [State.modShc]

@[simp] theorem State.setLink_downs (s : State) (x lane : Nat) (l : LinkEnd) (h : l.lastingDown = (s.link x lane).lastingDown) :
    (s.setLink x lane l).downs = s.downs := by
  have same (y m : Nat) : ((s.setLink x lane l).link y m).lastingDown = (s.link y m).lastingDown := by
    rw [State.setLink_link]
    split
    · rename_i e
      rw [h]
      exact congrArg (fun k => (assoc LinkEnd.initial s.links k).lastingDown) e.symm
    · rfl
  exact congrArg Downs.mk (funext fun y => funext fun m => same y m)

@[simp] theorem State.modLink_downs (s : State) (x lane : Nat) (f : LinkEnd → LinkEnd) (h : ∀ l, (f l).lastingDown = l.lastingDown) :
    (s.modLink x lane f).downs = s.downs :=
  s.setLink_downs x lane _ (h _)

@[simp] theorem State.setEntry_downs (s : State) (n : Nat) (e : MapEntry) : (State.setEntry s n e).downs = s.downs := by
  unfold State.setEntry; simp only [State.downs, Downs.mk.injEq] <;> simp [↓downs_mk, downs_eqs]

@[simp] theorem State.modFold_downs (s : State) (id : Nat) (g : Fold → Fold) : (State.modFold s id g).downs = s.downs := by
  unfold State.modFold; simp only [State.downs, Downs.mk.injEq] <;> simp [↓downs_mk, downs_eqs]

@[simp] theorem State.setSession_downs (s : State) (num : Nat) (x : Session) : (State.setSession s num x).downs = s.downs := by
  unfold State.setSession; simp only [State.downs, Downs.mk.injEq] <;> simp [↓downs_mk, downs_eqs]

@[simp] theorem State.addTally_downs (s : State) (scope : TScope) (id idx n : Nat) : (State.addTally s scope id idx n).downs = s.downs := by
  unfold State.addTally; simp only [State.downs, Downs.mk.injEq] <;> simp [↓downs_mk, downs_eqs]

@[simp] theorem State.count_downs (s : State) (scope : TScope) (id idx : Nat) : (State.count s scope id idx).downs = s.downs := by
  simp [State.count]

@[simp] theorem State.noteStray_downs (s : State) (fold : Nat) : (State.noteStray s fold).downs = s.downs := by
  simp [State.noteStray]

@[simp] theorem State.countChan_downs (s : State) (ned bind handle idx n : Nat) : (State.countChan s ned bind handle idx n).downs = s.downs := by
  simp [State.countChan]

@[simp] theorem State.ring_downs (s : State) (obj : String) (fault : Bool) (kv : KVs) : (s.ring obj fault kv).downs = s.downs := by
  unfold State.ring
  split
  · rfl
  · exact (State.addTally_downs _ _ _ _ _).trans rfl

@[simp] theorem State.alert_downs (s : State) (row : Nat) : (State.alert s row).downs = s.downs := by
  unfold State.alert; simp only [State.downs, Downs.mk.injEq] <;> simp [↓downs_mk, downs_eqs]

@[simp] theorem State.report_downs (s : State) (tr : Trigger) (folds : List Nat) (place : Nat) : (State.report s tr folds place).downs = s.downs := by
  unfold State.report; simp only [State.downs, Downs.mk.injEq] <;> simp [↓downs_mk, downs_eqs]

@[simp] theorem State.goDark_downs (s : State) (n : Nat) : (State.goDark s n).downs = s.downs := by
  unfold State.goDark; simp only [State.downs, Downs.mk.injEq] <;> simp [↓downs_mk, downs_eqs]

@[simp] theorem State.reroute_downs (s : State) (x lane : Nat) : (State.reroute s x lane).downs = s.downs := by
  unfold State.reroute
  dsimp only
  (repeat' split) <;> first | rfl | (simp (disch := (intros; (repeat' split) <;> simp)); done) | (simp only [State.downs, Downs.mk.injEq] <;> simp (disch := (intros; (repeat' split) <;> simp)) [↓downs_mk, downs_eqs])

@[simp] theorem State.sendSys_downs (s : State) (u : Nat) (f : Flit) : (State.sendSys s u f).downs = s.downs := by
  simp [State.sendSys]

@[simp] theorem State.reportFrom_downs (s : State) (u : Nat) (tr : Trigger) (folds : List Nat) (place : Nat) : (State.reportFrom s u tr folds place).downs = s.downs := by
  simp [State.reportFrom]

@[simp] theorem State.pickDetours_downs (s : State) (was : List (Nat × Nat × List Nat)) : (State.pickDetours s was).downs = s.downs := by
  unfold State.pickDetours
  dsimp only
  (repeat' split) <;> first | rfl | (simp (disch := (intros; (repeat' split) <;> simp)); done) | (simp only [State.downs, Downs.mk.injEq] <;> simp (disch := (intros; (repeat' split) <;> simp)) [↓downs_mk, downs_eqs])

@[simp] theorem State.sessMod_downs (s : State) (r : Req) (f : Session → Session) : (State.sessMod s r f).downs = s.downs := by
  unfold State.sessMod
  (repeat' split) <;> simp

@[simp] theorem State.countReq_downs (s : State) (k : Nat) (r : Req) (idx n : Nat) : (State.countReq s k r idx n).downs = s.downs := by
  simp [State.countReq]

@[simp] theorem State.countReply_downs (s : State) (k : Nat) (r : Req) (back : Bool) : (State.countReply s k r back).downs = s.downs := by
  unfold State.countReply
  (repeat' split) <;> simp

@[simp] theorem State.endReq_downs (s : State) (k : Nat) (r : Req) : (State.endReq s k r).downs = s.downs := by
  simp [State.endReq]

@[simp] theorem State.closeTag_downs (s : State) (k : Nat) (r : Req) (stray : Bool) : (State.closeTag s k r stray).downs = s.downs := by
  simp [State.closeTag]

@[simp] theorem State.releaseFcs_downs (s : State) (k : Nat) (r : Req) : (State.releaseFcs s k r).downs = s.downs := by
  unfold State.releaseFcs; simp only [State.downs, Downs.mk.injEq] <;> simp [↓downs_mk, downs_eqs]

@[simp] theorem State.startReply_downs (s : State) (k : Nat) (r : Req) (rep : Reply) (at_ : Time) : (State.startReply s k r rep at_).downs = s.downs := by
  unfold State.startReply; simp only [State.downs, Downs.mk.injEq] <;> simp [↓downs_mk, downs_eqs]

@[simp] theorem State.compose_downs (s : State) (k : Nat) (r : Req) (rep : Reply) : (State.compose s k r rep).downs = s.downs := by
  unfold State.compose
  dsimp only
  (repeat' split) <;> simp

@[simp] theorem State.stomp_downs (s : State) (k : Nat) (r : Req) (whole : Bool) : (State.stomp s k r whole).downs = s.downs := by
  unfold State.stomp; simp only [State.downs, Downs.mk.injEq] <;> simp [↓downs_mk, downs_eqs]

@[simp] theorem State.unsend_downs (s : State) (k : Nat) (r : Req) : (State.unsend s k r).downs = s.downs := by
  unfold State.unsend; simp only [State.downs, Downs.mk.injEq] <;> simp [↓downs_mk, downs_eqs]

@[simp] theorem State.stompSent_downs (s : State) (k : Nat) (r : Req) : (State.stompSent s k r).downs = s.downs := by
  simp [State.stompSent]

@[simp] theorem State.refuseReq_downs (s : State) (k : Nat) (r : Req) (reason : Nat) : (State.refuseReq s k r reason).downs = s.downs := by
  simp [State.refuseReq]

@[simp] theorem State.dropReq_downs (s : State) (k : Nat) (r : Req) : (State.dropReq s k r).downs = s.downs := by
  simp [State.dropReq]

@[simp] theorem State.raiseQ_downs (s : State) (fold key : Nat) (ds : List (Nat × Nat)) : (State.raiseQ s fold key ds).downs = s.downs := by
  simp [State.raiseQ]

@[simp] theorem State.judgeRaised_downs (s : State) (fold : Nat) (ds : List (Nat × Nat)) : (State.judgeRaised s fold ds).downs = s.downs := by
  simp [State.judgeRaised]

@[simp] theorem State.deltaQ_downs (s : State) (x lane : Nat) : (State.deltaQ s x lane).downs = s.downs := by
  unfold State.deltaQ
  dsimp only
  (repeat' split) <;> first | rfl | (simp (disch := (intros; (repeat' split) <;> simp)); done) | (simp only [State.downs, Downs.mk.injEq] <;> simp (disch := (intros; (repeat' split) <;> simp)) [↓downs_mk, downs_eqs])

@[simp] theorem State.endRaise_downs (s : State) (key : Nat) : (State.endRaise s key).downs = s.downs := by
  unfold State.endRaise; simp only [State.downs, Downs.mk.injEq] <;> simp [↓downs_mk, downs_eqs]

end Sys2Proof.Machine

/-! Fields and paddocks in B3 and B4 (R709–R717). -/
namespace Sys2Proof.Machine

open Sys2Proof

/-! What B4's operations leave alone. -/

theorem State.enqueueWave_eq (s : State) (n : Nat) (goal : Power) : ∃ w, s.enqueueWave n goal = { s with wave := w } := by
  unfold State.enqueueWave
  split
  · exact ⟨s.wave, rfl⟩
  · exact ⟨_, rfl⟩

/-- Queueing tests adds to the wave alone. -/
theorem State.enqueueTests_eq (s : State) (ns : List Nat) : ∃ w, s.enqueueTests ns = { s with wave := w } := by
  unfold State.enqueueTests
  refine foldl_inv ns (P := fun t => ∃ w, t = { s with wave := w }) ⟨s.wave, rfl⟩ ?_
  rintro _ n ⟨w, rfl⟩
  split
  · exact ⟨w, rfl⟩
  · obtain ⟨v, e⟩ := ({ s with wave := w } : State).enqueueWave_eq n .graze
    exact ⟨v, e⟩

/-- The end of B4 changes the engine's phase alone. -/
theorem State.endB4_eq (s : State) : s.endB4 = s ∨ s.endB4 = { s with boot := { s.boot with phase := .b5, ended := s.boot.ended ++ [(4, s.now)] } } := by
  unfold State.endB4
  split
  · exact .inr rfl
  · exact .inl rfl

/-- The fields of bring-up's record but its phase and the ends of phases. -/
@[reducible] def SameBootBesidePhase (b c : Boot) : Prop :=
  c.groups = b.groups ∧ c.ring = b.ring ∧ c.swept = b.swept ∧ c.verdicts = b.verdicts

@[simp] theorem State.endB4_boot (s : State) : SameBootBesidePhase s.boot s.endB4.boot := by
  obtain e | e := s.endB4_eq <;> rw [e] <;> exact ⟨rfl, rfl, rfl, rfl⟩

theorem State.endB4_phase {s : State} (h : s.boot.phase = .b4) : s.endB4.boot.phase = .b4 ∨ s.endB4.boot.phase = .b5 := by
  obtain e | e := s.endB4_eq
  · exact .inl (by rw [e, h])
  · exact .inr (by rw [e])

@[simp] theorem State.endB4_fields (s : State) : s.endB4.fields = s.fields := by
  obtain e | e := s.endB4_eq <;> rw [e]

theorem State.setEntry_boot (s : State) (n : Nat) (e : MapEntry) : (s.setEntry n e).boot = s.boot := rfl

/-- A fold over paddocks that writes map entries leaves the fields. -/
theorem foldl_setEntry_fields (c : State → Nat → Bool) (l : List Nat) (s : State) :
    (l.foldl (fun s n => if c s n then s else s.setEntry n MapEntry.initial) s).fields = s.fields :=
  foldl_eq State.fields l s fun t n _ => by split <;> rfl

theorem State.carryHoles_fields (s : State) : s.carryHoles.fields = s.fields :=
  foldl_setEntry_fields (fun t n => decide ((t.entry n).st = 2) && ((t.field (fieldOf n)).latched || !t.reachable (fieldAddr (fieldOf n))
    || (s.validMap.isSome && decide ((t.entry n).cause ≠ 1) && !t.flash.clear.contains n))) _ s

/-- A state in B4, from B3. -/
def State.enterB4 (s : State) : State := { s with boot := { s.boot with phase := .b4, ended := s.boot.ended ++ [(3, s.now)] } }

/-- The stored map's paddocks are queued (R719). -/
def State.queueStored (s : State) (l : List Nat) : State :=
  l.foldl (fun s n => if (s.entry n).st = 2 || !s.fieldOn n then s else s.enqueueWave n .graze) s

theorem State.queueStored_eq (s : State) (l : List Nat) : ∃ w, s.queueStored l = { s with wave := w } := by
  unfold State.queueStored
  refine foldl_inv l (P := fun t => ∃ w, t = { s with wave := w }) ⟨s.wave, rfl⟩ ?_
  rintro _ n ⟨w, rfl⟩
  split
  · exact ⟨w, rfl⟩
  · obtain ⟨v, e⟩ := ({ s with wave := w } : State).enqueueWave_eq n .graze
    exact ⟨v, e⟩

theorem State.startB4_eq (s : State) : s.startB4 =
    if s.boot.full then s.enterB4.carryHoles.enqueueTests (ringPads 0) else (s.enterB4.queueStored (List.range 1344)).endB4 := rfl

/-- In B4, or past it, with the fields and the groups of a state. -/
def State.begunFrom (s u : State) : Prop :=
  u.fields = s.fields ∧ u.boot.groups = s.boot.groups ∧ (u.boot.phase = .b4 ∨ u.boot.phase = .b5)

theorem State.enqueueTests_begunFrom {s u : State} (h : s.begunFrom u) (ns : List Nat) : s.begunFrom (u.enqueueTests ns) := by
  obtain ⟨w, e⟩ := u.enqueueTests_eq ns
  rw [e]
  exact h

theorem State.carryHoles_begunFrom (s : State) : s.begunFrom s.enterB4.carryHoles := by
  have boot : s.enterB4.carryHoles.boot = s.enterB4.boot := boot_of_ctl (State.carryHoles_ctl _)
  unfold State.begunFrom
  rw [boot, State.carryHoles_fields]
  exact ⟨rfl, rfl, .inl rfl⟩

theorem State.queueStored_begunFrom (s : State) (l : List Nat) : s.begunFrom (s.enterB4.queueStored l).endB4 := by
  obtain ⟨w, e⟩ := s.enterB4.queueStored_eq l
  have phase : ({ s.enterB4 with wave := w } : State).boot.phase = .b4 := rfl
  obtain ⟨groups, -⟩ := State.endB4_boot { s.enterB4 with wave := w }
  unfold State.begunFrom
  rw [e, State.endB4_fields, groups]
  exact ⟨rfl, rfl, State.endB4_phase phase⟩

/-- What B4's beginning changes (R711, R719). -/
theorem State.startB4_begunFrom (s : State) : s.begunFrom s.startB4 := by
  rw [State.startB4_eq]
  split
  · exact State.enqueueTests_begunFrom s.carryHoles_begunFrom _
  · exact s.queueStored_begunFrom _

/-! Groups of core rails (R709). -/

/-- A core rail turned on. -/
def Field.coreOn (x : Field) : Field := { x with stage := .on, vcore := 750, vtarget := 750 }

/-- One field of a group of core rails. -/
def State.railOn (s : State) (f : Nat) : State :=
  if !s.bootField f || (match (s.field f).stage with
      | .off => false
      | _ => true) then s
  else (s.pmbus (fieldAddr f) 0 0x01 0x80).modField f fun x => { x with stage := .on, vcore := 750, vtarget := 750 }

theorem State.railOn_own {s : State} {f : Nat} (takes : s.bootField f = true) (off : (s.field f).stage = .off) :
    (s.railOn f).field f = (s.field f).coreOn := by
  unfold State.railOn
  simp [takes, off, Field.coreOn]

theorem State.railOn_other (s : State) {f g : Nat} (h : f ≠ g) : (s.railOn g).field f = s.field f := by
  unfold State.railOn
  rw [apply_ite (fun t : State => t.field f)]
  simp [h]

theorem State.railOn_rest (s : State) (f : Nat) : (s.railOn f).boot = s.boot ∧ (s.railOn f).unreach = s.unreach := by
  unfold State.railOn
  rw [apply_ite State.boot, apply_ite State.unreach]
  exact ⟨ite_self _, ite_self _⟩

/-- A field that waits for its group and takes part. -/
def State.railWaits (s : State) (f : Nat) : Prop := s.bootField f = true ∧ (s.field f).stage = .off

theorem State.railWaits_other {s : State} {f g : Nat} (h : f ≠ g) (w : s.railWaits f) : (s.railOn g).railWaits f := by
  simpa only [State.railWaits, State.bootField, State.reachable, State.railOn_other s h, (s.railOn_rest g).2] using w

/-- A field of a group is on at 0.750 V once its group has been turned on. -/
theorem foldl_railOn {step : State → Nat → State} (same : ∀ s f, step s f = s.railOn f) {s : State} {f : Nat} (l : List Nat) (mem : f ∈ l)
    (w : s.railWaits f) :
    ((l.foldl step s).field f).stage = .on ∧ ((l.foldl step s).field f).vcore = 750 ∧ ((l.foldl step s).field f).vtarget = 750 := by
  obtain rfl : step = State.railOn := funext fun s => funext (same s)
  let done : State → Prop := fun t => (t.field f).stage = .on ∧ (t.field f).vcore = 750 ∧ (t.field f).vtarget = 750
  have own (t : State) (i : t.railWaits f ∨ done t) : done (t.railOn f) := by
    rcases i with ⟨takes, off⟩ | d
    · simp only [done, State.railOn_own takes off]
      exact ⟨rfl, rfl, rfl⟩
    · have e : t.railOn f = t := by
        unfold State.railOn
        simp [d.1]
      rwa [e]
  have other (t : State) (g : Nat) (h : f ≠ g) (d : done t) : done (t.railOn g) := by
    simpa only [done, State.railOn_other t h] using d
  refine foldl_established_of (I := fun t => t.railWaits f ∨ done t) (P := done) l s mem (.inl w) (fun t g _ i => ?_) own fun t g _ i d => ?_
  · by_cases h : f = g
    · exact h ▸ .inr (own t i)
    · exact i.imp (State.railWaits_other h) (other t g h)
  · by_cases h : f = g
    · exact h ▸ own t i
    · exact other t g h d

/-- The end of the group `g` of core rails, and B4 after the last (R709). -/
def State.groupEnds (s : State) (g : Nat) : State :=
  let t : State := { s with boot := { s.boot with groups := g + 1 } }
  if g = 6 then t.startB4 else t

theorem State.groupEnds_rest (s : State) (g : Nat) : (s.groupEnds g).fields = s.fields ∧ (s.groupEnds g).boot.groups = g + 1
      ∧ (g = 6 → (s.groupEnds g).boot.phase = .b4 ∨ (s.groupEnds g).boot.phase = .b5) := by
  unfold State.groupEnds
  by_cases last : g = 6
  · rw [if_pos last]
    obtain ⟨fields, groups, phase⟩ := State.startB4_begunFrom { s with boot := { s.boot with groups := g + 1 } }
    exact ⟨fields, groups, fun _ => phase⟩
  · rw [if_neg last]
    exact ⟨rfl, rfl, fun e => absurd e last⟩

/-! Verdicts of paddocks (R61, R712–R716). -/

/-- A paddock that passed its test (R61, R713, R716). -/
def State.passTest (s : State) (n : Nat) (col : Option Nat) : State :=
  let s1 := (s.setEntry n (match col with
    | some c => ⟨1, c, 0⟩
    | none => MapEntry.initial)).modPad n fun p => { p.shear with hurdled := false, masked := false }
  let s2 : State := { s1 with boot := { s1.boot with verdicts := tabSet 0 s1.boot.verdicts n 1 } }
  (s2.enqueueTests ((List.range 4).filterMap fun d => (padBeyond n d).filter fun m => ringOf m = s2.boot.ring)).endB4

@[simp] theorem State.enqueueTests_boot (s : State) (ns : List Nat) : (s.enqueueTests ns).boot = s.boot := by
  obtain ⟨w, e⟩ := s.enqueueTests_eq ns
  rw [e]

@[simp] theorem State.enqueueTests_entry (s : State) (ns : List Nat) (n : Nat) : (s.enqueueTests ns).entry n = s.entry n := by
  obtain ⟨w, e⟩ := s.enqueueTests_eq ns
  rw [e]
  rfl

@[simp] theorem State.enqueueTests_pad (s : State) (ns : List Nat) (n : Nat) : (s.enqueueTests ns).pad n = s.pad n := by
  obtain ⟨w, e⟩ := s.enqueueTests_eq ns
  rw [e]
  rfl

@[simp] theorem State.endB4_entry (s : State) (n : Nat) : s.endB4.entry n = s.entry n := entry_of_plant s.endB4_plant n

@[simp] theorem State.endB4_pad (s : State) (n : Nat) : s.endB4.pad n = s.pad n := pad_of_plant s.endB4_plant n

theorem State.passTest_effect (s : State) (n : Nat) (col : Option Nat) :
    (s.passTest n col).entry n = (match col with
        | some c => ⟨1, c, 0⟩
        | none => ⟨0, 63, 0⟩)
      ∧ ((s.passTest n col).pad n).hurdled = false ∧ ((s.passTest n col).pad n).masked = false
      ∧ ((s.passTest n col).pad n).power = (s.pad n).power ∧ tabGet 0 (s.passTest n col).boot.verdicts n = 1 := by
  unfold State.passTest
  refine ⟨?_, ?_, ?_, ?_, ?_⟩
  · have fresh : (⟨0, 63, 0⟩ : MapEntry) = MapEntry.initial := rfl
    cases col <;> simp [fresh]
  · simp
  · simp
  · simp [Paddock.shear]
  · simp

theorem State.makeHole_entry_own {s : State} {n : Nat} (good : (s.entry n).st ≠ 2) (cause : Nat) (quiet : Bool) :
    (s.makeHole n cause quiet).entry n = ⟨2, (s.entry n).col, cause⟩ := by
  rw [entry_of_plant (s.makeHole_plant n cause quiet)]
  obtain ⟨-, hole⟩ | ⟨w, -, e⟩ := s.markHole_plant n cause quiet
  · exact absurd hole good
  · rw [entry_of_plant e]
    exact (State.setEntry_entry _ _ _ _).trans (if_pos rfl)

/-- A paddock that fails its test is a HOLE with cause 1 and its verdict (R716). -/
theorem State.failTest_verdict {s : State} {n : Nat} (good : (s.entry n).st ≠ 2) :
    ((s.failTest n).entry n).cause = 1 ∧ tabGet 0 (s.failTest n).boot.verdicts n = 2 := by
  have dark : ((s.goDark n).entry n).st ≠ 2 := by simpa using good
  unfold State.failTest
  constructor
  · rw [State.endB4_entry]
    exact congrArg MapEntry.cause (State.makeHole_entry_own dark 1 false)
  · simp

/-! Borders (R715, R732). -/

theorem lastingDown_of_downs {s t : State} (h : t.downs = s.downs) (x lane : Nat) :
    (t.link x lane).lastingDown = (s.link x lane).lastingDown := congrArg (fun d : Downs => d.down x lane) h

/-- The lanes that are down after a lane's end is taken down (R715). -/
theorem State.downSide_down (s : State) (x lane : Nat) (acc : BitVec 5) (z m : Nat) :
    ((s.downSide x lane acc).link z m).lastingDown = ((s.link z m).lastingDown || decide (linkKey z m = linkKey x lane)) := by
  unfold State.downSide
  by_cases same : linkKey z m = linkKey x lane
  · have e : s.link z m = s.link x lane := congrArg (assoc LinkEnd.initial s.links) same
    split
    · simp_all
    · simp [same, LinkEnd.takeDown]
  · split <;> simp [same]

theorem foldl_downSide_down (lane : Nat) (accs : List (Nat × BitVec 5)) (s : State) (z m : Nat) :
    ((accs.foldl (fun s a => s.downSide a.1 lane a.2) s).link z m).lastingDown
      = ((s.link z m).lastingDown || accs.any fun a => decide (linkKey z m = linkKey a.1 lane)) := by
  induction accs generalizing s with
  | nil => simp
  | cons a l ih => rw [List.foldl_cons, ih, State.downSide_down, List.any_cons, Bool.or_assoc]

/-- The ends of a lane. -/
def laneEnds (x : Nat) : List Nat := x :: (match peerEnd x with
  | some y => [y]
  | none => [])

theorem State.laneDown_down (s : State) (x lane cause z m : Nat) : ((s.laneDown x lane cause).link z m).lastingDown
    = ((s.link z m).lastingDown || (!(s.link x lane).lastingDown && (laneEnds x).any fun e => decide (linkKey z m = linkKey e lane))) := by
  unfold State.laneDown
  by_cases down : (s.link x lane).lastingDown = true
  · rw [if_pos down]
    simp [down]
  · rw [if_neg down]
    extract_lets ends was accs s1 s2 s3 s4
    have e : (((s4.count .link (linkId x lane) tlLasting).alert alLane).ring "link" true
        [("at", .num x), ("lane", .num lane), ("cause", .num cause)]).downs = s1.downs := by
      have first : s2.downs = s1.downs := by
        simp only [s2]
        split <;> rfl
      simp [s4, s3, first]
    have ends_eq : ends = laneEnds x := rfl
    rw [lastingDown_of_downs e, foldl_downSide_down]
    simp only [accs, ends_eq, List.any_map, down, Bool.not_false, Bool.true_and]
    rfl

theorem State.downLane_down (s : State) (x lane cause z m : Nat) : ((s.downLane x lane cause).link z m).lastingDown
    = ((s.link z m).lastingDown || (!(s.link x lane).lastingDown && (laneEnds x).any fun e => decide (linkKey z m = linkKey e lane))) := by
  rw [← State.laneDown_down s x lane cause z m]
  exact lastingDown_of_downs (foldl_eq State.downs _ _ fun u q _ => by split <;> simp) z m

/-- A lane that is down stays down as lanes go down. -/
theorem State.downLane_kept {s : State} {z m : Nat} (h : (s.link z m).lastingDown = true) (x lane cause : Nat) :
    ((s.downLane x lane cause).link z m).lastingDown = true := by
  rw [State.downLane_down, h, Bool.true_or]

theorem State.downLane_own (s : State) (x lane cause : Nat) : ((s.downLane x lane cause).link x lane).lastingDown = true := by
  rw [State.downLane_down]
  cases (s.link x lane).lastingDown <;> simp [laneEnds]

/-- Both ends of a lane go down together. -/
theorem State.downLane_both {s : State} {x y lane : Nat} (peer : peerEnd x = some y)
    (h : (s.link x lane).lastingDown = true → (s.link y lane).lastingDown = true) {lane' : Nat} (low : lane < 4) (low' : lane' < 4) (cause : Nat)
    (new : ((s.downLane x lane' cause).link x lane).lastingDown = true) : ((s.downLane x lane' cause).link y lane).lastingDown = true := by
  have ends : laneEnds x = [x, y] := by
    unfold laneEnds
    rw [peer]
  rw [State.downLane_down, ends, Bool.or_eq_true] at new ⊢
  rcases new with old | new
  · exact .inl (h old)
  · rw [Bool.and_eq_true] at new ⊢
    obtain ⟨up, at_⟩ := new
    have same : lane = lane' := by
      unfold linkKey at at_
      simp only [List.any_cons, List.any_nil, Bool.or_false, Bool.or_eq_true, decide_eq_true_eq] at at_
      omega
    exact .inr ⟨up, by simp [same]⟩

/-- When a paddock's verdict counts (R713, R716). -/
theorem State.verdict_fires {s : State} {n : Nat} (testing : s.testing = true) (graze : (s.pad n).power = .graze)
    (open_ : s.hasVerdict n = false) (tester : s.boot.swept = true ∨ (s.testerOf n).isSome) :
    (s.testing && decide ((s.pad n).power = .graze) && !s.hasVerdict n && (s.boot.swept || (s.testerOf n).isSome)) = true := by
  simp [testing, graze, open_, tester]

theorem State.good_of_open {s : State} {n : Nat} (h : s.hasVerdict n = false) : (s.entry n).st ≠ 2 := by
  simp only [State.hasVerdict, Bool.or_eq_false_iff, decide_eq_false_iff_not] at h
  exact h.1.2

/-- The verdict of a paddock (R61, R713, R716). -/
def State.verdictOf (s : State) (n : Nat) (v : PadVerdict) : State :=
  match v with
  | .pass => s.passTest n none
  | .column c => if isFine n && decide (c ≤ 32) then s.passTest n (some c) else s.failTest n
  | .fail => s.failTest n

/-! The sweep (R712). -/

/-- A paddock without a verdict that no passed neighbour can test. -/
def State.unreached (s : State) (n : Nat) : Prop :=
  s.hasVerdict n = false ∧ ∀ d < 4, ∀ m, padBeyond n d = some m → s.passed m = false

/-- A paddock that the sweep cannot reach becomes a HOLE (R712). -/
def State.sweepHole (s : State) (n : Nat) : State :=
  let s3 := s.makeHole n 1 true
  ({ s3 with boot := { s3.boot with verdicts := tabSet 0 s3.boot.verdicts n 2 } }).ring "paddock" true
    [("at", .pad n), ("event", .word "unreachable"), ("cause", .num 1)]

/-- One paddock of the sweep. -/
def State.sweepPad (s : State) (n : Nat) : State :=
  if s.hasVerdict n then s
  else if (List.range 4).any fun d => (padBeyond n d).any fun m => s.passed m then s.enqueueWave n .graze
  else s.sweepHole n

theorem State.sweepHole_st (s : State) (n m : Nat) : ((s.sweepHole n).entry m).st = if m = n then 2 else (s.entry m).st := by
  unfold State.sweepHole
  rw [entry_of_plant (State.ring_plant _ _ _ _)]
  exact s.makeHole_st n 1 true m

theorem State.sweepHole_boot (s : State) (n : Nat) : (s.sweepHole n).boot = { s.boot with verdicts := tabSet 0 s.boot.verdicts n 2 } := by
  unfold State.sweepHole
  rw [boot_of_ctl (State.ring_ctl _ _ _ _)]
  dsimp only
  rw [boot_of_ctl (State.makeHole_ctl s n 1 true)]

theorem State.sweepHole_stage (s : State) (n f : Nat) : ((s.sweepHole n).field f).stage = (s.field f).stage := by
  have hole := congrArg Field.stage (s.makeHole_field n 1 true f)
  unfold State.sweepHole
  exact (congrArg Field.stage (field_of_plant (State.ring_plant _ _ _ _) f)).trans hole

/-- The other paddocks keep what the sweep reads of them. -/
theorem State.sweepHole_other {s : State} {n m : Nat} (h : n ≠ m) (u : s.unreached n) : (s.sweepHole m).unreached n := by
  obtain ⟨open_, far⟩ := u
  constructor
  · simpa [State.hasVerdict, State.sweepHole_boot, State.sweepHole_st, State.sweepHole_stage, h] using open_
  · intro d low k beyond
    have k' := far d low k beyond
    simp only [State.passed, State.sweepHole_boot, tabGet_set] at k' ⊢
    split
    · rfl
    · exact k'

theorem State.sweepPad_other {s : State} {n m : Nat} (h : n ≠ m) (u : s.unreached n) : (s.sweepPad m).unreached n := by
  unfold State.sweepPad
  split
  · exact u
  · split
    · obtain ⟨w, e⟩ := s.enqueueWave_eq m .graze
      rw [e]
      exact u
    · exact State.sweepHole_other h u

theorem State.sweepPad_own {s : State} {n : Nat} (u : s.unreached n) : ((s.sweepPad n).entry n).st = 2 := by
  obtain ⟨open_, far⟩ := u
  have none_ : ((List.range 4).any fun d => (padBeyond n d).any fun m => s.passed m) = false := by
    rw [List.any_eq_false]
    intro d mem
    rw [List.mem_range] at mem
    cases e : padBeyond n d with
    | none => simp
    | some m => simp [far d mem m e]
  unfold State.sweepPad
  rw [if_neg (by simp [open_]), if_neg (by simp [none_]), State.sweepHole_st, if_pos rfl]

theorem State.sweepPad_st {s : State} {n : Nat} (m : Nat) (h : (s.entry n).st = 2) : ((s.sweepPad m).entry n).st = 2 := by
  unfold State.sweepPad
  split
  · exact h
  · split
    · obtain ⟨w, e⟩ := s.enqueueWave_eq m .graze
      rw [e]
      exact h
    · rw [State.sweepHole_st]
      split
      · rfl
      · exact h

/-- The sweep makes HOLEs of the paddocks that it does not reach. -/
theorem foldl_sweepPad {s : State} {n : Nat} (l : List Nat) (mem : n ∈ l) (u : s.unreached n) :
    ((l.foldl State.sweepPad s).entry n).st = 2 := by
  have own (t : State) (i : t.unreached n ∨ (t.entry n).st = 2) : ((t.sweepPad n).entry n).st = 2 := i.elim State.sweepPad_own (State.sweepPad_st n)
  refine foldl_established_of (f := State.sweepPad) (I := fun t => t.unreached n ∨ (t.entry n).st = 2) (P := fun t => (t.entry n).st = 2) l s mem (.inl u)
    (fun t m _ i => ?_) own fun t m _ _ h => State.sweepPad_st m h
  by_cases e : n = m
  · exact e ▸ .inr (own t i)
  · exact i.imp (State.sweepPad_other e) (State.sweepPad_st m)

theorem State.sweepPad_swept (s : State) (n : Nat) : (s.sweepPad n).boot.swept = s.boot.swept := by
  unfold State.sweepPad
  split
  · rfl
  · split
    · obtain ⟨w, e⟩ := s.enqueueWave_eq n .graze
      rw [e]
    · rw [State.sweepHole_boot]

/-- The sweep over a list of paddocks. -/
def State.sweepList (s : State) (l : List Nat) : State := (l.foldl State.sweepPad { s with boot := { s.boot with swept := true } }).endB4

theorem State.sweepList_effect (s : State) (l : List Nat) :
    (s.sweepList l).boot.swept = true ∧ ∀ n ∈ l, s.unreached n → ((s.sweepList l).entry n).st = 2 := by
  unfold State.sweepList
  obtain ⟨-, -, swept, -⟩ := State.endB4_boot (l.foldl State.sweepPad { s with boot := { s.boot with swept := true } })
  refine ⟨swept.trans (foldl_eq (fun t : State => t.boot.swept) l _ fun t n _ => t.sweepPad_swept n), fun n mem u => ?_⟩
  rw [State.endB4_entry]
  exact foldl_sweepPad l mem u

@[simp] theorem State.tick_testing (s : State) (t : Time) : (s.tick t).testing = s.testing := rfl

@[simp] theorem State.tick_endOn (s : State) (t : Time) (x lane : Nat) : (s.tick t).endOn x lane = s.endOn x lane := rfl

theorem execSweep_next {s : State} {t : Time} {P : State → Prop} (running : s.resetN = false) (testing : s.testing = true) (ring : s.boot.ring = 14)
    (unswept : s.boot.swept = false) (p : P ((s.tick t).sweepList (List.range 1344))) : ∃ u, exec (.sweep t) s = .next u ∧ P u :=
  event_next (f := fun s => s.sweepList (List.range 1344)) running (by simp [testing, ring, unswept]) p

/-- Settles O10: the rails, the rings and the sweep fold over fields and paddocks that do not disturb each other, and both ends of a lane
go down together. -/
theorem fieldsAndPaddocksAreTested : Obligations.FieldsAndPaddocksAreTested := by
  refine ⟨fun g t s running phase aon locked groups => ?rails, fun t s running testing ring judged => ?ring,
    fun n v col t s running testing power open_ tester verdict => ?pass, fun n v t s running testing power open_ tester verdict => ?fail,
    fun x y failed t s running phase on peer onY => ?border, fun t s running testing ring unswept => ?sweep⟩
  case rails =>
    refine event_next running (by simp [phase, aon, locked, groups]) ?_
    dsimp only
    generalize e : List.foldl _ _ _ = u
    obtain ⟨fields, groups', next⟩ := u.groupEnds_rest g.val
    refine ⟨groups', next, fun f low high takes off => ?_⟩
    have mem : f ∈ (List.range 12).map fun i => 12 * g.val + i :=
      List.mem_map.mpr ⟨f - 12 * g.val, List.mem_range.mpr (by omega), by omega⟩
    have on : (u.field f).stage = .on ∧ (u.field f).vcore = 750 ∧ (u.field f).vtarget = 750 := by
      rw [← e]
      exact foldl_railOn (s := s.tick t) (fun s f => rfl) _ mem ⟨takes, off⟩
    rw [State.field, ← fields] at on
    exact on
  case ring =>
    have all : ((ringPads (s.tick t).boot.ring).all fun n => (s.tick t).hasVerdict n
        || (((s.tick t).testerOf n).isNone && decide (((s.tick t).pad n).power = .dark) && !((s.tick t).pad n).soft)) = true := by
      rw [List.all_eq_true]
      intro n mem
      rcases judged n mem with h | ⟨idle, dark, soft⟩
      · exact Bool.or_eq_true_iff.mpr (.inl h)
      · have idle' : (s.tick t).testerOf n = none := idle
        simp [idle', dark, soft]
    refine event_next running ?_ (by simp)
    exact Bool.and_eq_true_iff.mpr ⟨Bool.and_eq_true_iff.mpr ⟨testing, decide_eq_true ring⟩, all⟩
  case pass =>
    refine event_next (f := fun s => s.verdictOf n.val v) running (State.verdict_fires (s := s.tick t) testing power open_ tester) ?_
    have passes : (s.tick t).verdictOf n.val v = (s.tick t).passTest n.val col := by
      rcases verdict with ⟨rfl, rfl⟩ | ⟨c, rfl, low, fine, rfl⟩
      · rfl
      · simp [State.verdictOf, fine, low]
    rw [passes]
    obtain ⟨entry, hurdled, masked, power', verdict'⟩ := (s.tick t).passTest_effect n.val col
    exact ⟨entry, hurdled, masked, power'.trans power, verdict'⟩
  case fail =>
    refine event_next (f := fun s => s.verdictOf n.val v) running (State.verdict_fires (s := s.tick t) testing power open_ tester) ?_
    have fails : (s.tick t).verdictOf n.val v = (s.tick t).failTest n.val := by
      rcases verdict with rfl | ⟨c, rfl, coarse | high⟩
      · rfl
      · simp [State.verdictOf, coarse]
      · simp [State.verdictOf, Nat.not_le.mpr high]
    rw [fails]
    obtain ⟨⟨st, dark⟩, -⟩ := (s.tick t).failTest_effect n.val
    obtain ⟨cause, verdict'⟩ := State.failTest_verdict (s := s.tick t) (State.good_of_open open_)
    exact ⟨st, cause, dark, verdict'⟩
  case border =>
    refine event_next running ?_ ?_
    · rw [peer]
      simp [phase, on, onY]
    · intro l mem onX onY'
      have mem' : l ∈ failed.filter fun l => (s.tick t).endOn x l.val && (s.tick t).endOn ((peerEnd x).getD x) l.val :=
        List.mem_filter.mpr ⟨mem, by simp [peer, onX, onY']⟩
      have down := foldl_established (f := fun (s : State) (l : Fin 4) => s.downLane x l.val 3)
        (P := fun s => (s.link x l.val).lastingDown = true) _ (s.tick t) mem' (fun s => s.downLane_own x l.val 3)
        fun s l' h => State.downLane_kept h x l'.val 3
      refine ⟨down, fun up => ?_⟩
      have both := foldl_inv (f := fun (s : State) (l : Fin 4) => s.downLane x l.val 3)
        (failed.filter fun l => (s.tick t).endOn x l.val && (s.tick t).endOn ((peerEnd x).getD x) l.val)
        (P := fun s => (s.link x l.val).lastingDown = true → (s.link y l.val).lastingDown = true)
        (b := s.tick t) (fun d => absurd (up.symm.trans d) nofun)
        fun s l' h => State.downLane_both peer h l.isLt l'.isLt 3
      exact both down
  case sweep =>
    refine execSweep_next running testing ring unswept ?_
    obtain ⟨swept, holes⟩ := (s.tick t).sweepList_effect (List.range 1344)
    exact ⟨swept, fun n low open_ far => holes n (List.mem_range.mpr low) ⟨open_, far⟩⟩

end Sys2Proof.Machine

/-! What leaves the doubt of the dies of the edge alone, as in Laws/. -/
namespace Sys2Proof.Machine

open Sys2Proof

/-- Which dies of the edge are in doubt. -/
structure Doubts where
  neds : List Bool
  meds : List Bool
  spds : List Bool

def State.doubts (s : State) : Doubts :=
  ⟨s.neds.map Ned.doubt, s.meds.map Med.doubt, s.spds.map Spd.doubt⟩

theorem doubts_mk (now) (freeCtr) (resetN) (pwrFail) (pwrFailAt) (frozen) (faultN) (alertN) (alertCause) (ready)
    (readyAt) (vstby) (fuses) (flash) (writing) (place) (net) (boot) (sel) (quiet) (active) (shcA) (shcB) (mirrorSeq)
    (mirrorProbe) (scratch) (sess) (con0) (con1) (waits) (garp) (stages) (nextStage) (retained) (fwUpdate) (bellSeq)
    (bells) (ledgerSeq) (ledgerHeld) (ledgerStopped) (ptpPort) (ptpHeard) (tallies) (busA) (busB) (shared) (telem)
    (unreach) (refAbsent) (refSince) (meshLocked) (inlet) (outlet) (loopSince) (wave) (lastWave) (map) (mapSeq) (pads)
    (fields) (links) (lane0) (neds) (meds) (spds) (nedTemp) (spdTemp) (medTemp) (flockUp) (flockMembers) (flockInfo)
    (excludedW) (folds) (scrubs) (paused) (secondAt) (incCtr) (channels) (sessions) (reports) (notices) (wsel) (wstat)
    (shadow) (taps) (wire) (pending) : (State.mk now freeCtr resetN pwrFail pwrFailAt frozen faultN alertN alertCause
    ready readyAt vstby fuses flash writing place net boot sel quiet active shcA shcB mirrorSeq mirrorProbe scratch
    sess con0 con1 waits garp stages nextStage retained fwUpdate bellSeq bells ledgerSeq ledgerHeld ledgerStopped
    ptpPort ptpHeard tallies busA busB shared telem unreach refAbsent refSince meshLocked inlet outlet loopSince wave
    lastWave map mapSeq pads fields links lane0 neds meds spds nedTemp spdTemp medTemp flockUp flockMembers flockInfo
    excludedW folds scrubs paused secondAt incCtr channels sessions reports notices wsel wstat shadow taps wire
    pending).doubts =
    ⟨neds.map Ned.doubt, meds.map Med.doubt, spds.map Spd.doubt⟩ := rfl

theorem doubts_eqs : (∀ s : State, s.neds.map Ned.doubt = s.doubts.neds) ∧
    (∀ s : State, s.meds.map Med.doubt = s.doubts.meds) ∧
    (∀ s : State, s.spds.map Spd.doubt = s.doubts.spds) := by
  (repeat' apply And.intro) <;> intros <;> rfl

/-- A list entry replaced by one with the same value of a projection. -/
theorem map_listSet_same {α β : Type} {f : α → β} {d x : α} {l : List α} {k : Nat} (h : f x = f (l[k]?.getD d)) :
    (listSet l k x).map f = l.map f := by
  induction l generalizing k with
  | nil => rfl
  | cons y l ih =>
    cases k with
    | zero => exact congrArg (fun z => z :: l.map f) h
    | succ k => exact congrArg (fun m => f y :: m) (ih h)

@[simp] theorem Ned.putReq_doubt (n : Ned) (r : Req) : (n.putReq r).doubt = n.doubt := rfl

@[simp] theorem Ned.setPort_doubt (n : Ned) (p : Nat) (x : Port) : (n.setPort p x).doubt = n.doubt := rfl

@[simp] theorem Ned.dropReq_doubt (n : Ned) (fid : Nat) : (n.dropReq fid).doubt = n.doubt := rfl

@[simp] theorem Ned.giveBack_doubt (n : Ned) (t : Option TokenSrc) : (n.giveBack t).doubt = n.doubt := by
  unfold Ned.giveBack
  split <;> rfl

@[simp] theorem Ned.sweep_doubt (n : Ned) (now : Time) : (n.sweep now).doubt = n.doubt := rfl

@[simp] theorem ite_doubts (c : Prop) [Decidable c] (a b : State) : (if c then a else b).doubts = if c then a.doubts else b.doubts := by
  split <;> rfl

@[simp] theorem foldl_doubts {α : Type} (f : State → α → State) (h : ∀ s a, (f s a).doubts = s.doubts) (l : List α) (s : State) :
    (l.foldl f s).doubts = s.doubts := by
  induction l generalizing s with
  | nil => rfl
  | cons x xs ih => simp [ih, h]

theorem ite_eq_doubts {c : Prop} [Decidable c] {a b : State} {r : Doubts} (ha : a.doubts = r) (hb : b.doubts = r) :
    (if c then a else b).doubts = r := by
  split <;> assumption

theorem wire_doubts (a : State) (w : List Wire) : ({ a with wire := w } : State).doubts = a.doubts := rfl

@[simp] theorem State.setField_doubts (s : State) (f : Nat) (x : Field) : (State.setField s f x).doubts = s.doubts := by
  unfold State.setField; simp only [State.doubts, Doubts.mk.injEq] <;> simp [↓doubts_mk, doubts_eqs]

@[simp] theorem State.modField_doubts (s : State) (f : Nat) (g : Field → Field) : (State.modField s f g).doubts = s.doubts := by
  simp [State.modField]

@[simp] theorem State.setNed_doubts (s : State) (k : Nat) (x : Ned) (h : x.doubt = (s.ned k).doubt) : (s.setNed k x).doubts = s.doubts := by
  have same : (listSet s.neds k x).map Ned.doubt = s.neds.map Ned.doubt := map_listSet_same h
  unfold State.setNed
  simp only [State.doubts, same]

@[simp] theorem State.modNed_doubts (s : State) (k : Nat) (f : Ned → Ned) (h : ∀ x, (f x).doubt = x.doubt) : (s.modNed k f).doubts = s.doubts :=
  s.setNed_doubts k _ (h _)

@[simp] theorem State.setMed_doubts (s : State) (k : Nat) (x : Med) (h : x.doubt = (s.med k).doubt) : (s.setMed k x).doubts = s.doubts := by
  have same : (listSet s.meds k x).map Med.doubt = s.meds.map Med.doubt := map_listSet_same h
  unfold State.setMed
  simp only [State.doubts, same]

@[simp] theorem State.modMed_doubts (s : State) (k : Nat) (f : Med → Med) (h : ∀ x, (f x).doubt = x.doubt) : (s.modMed k f).doubts = s.doubts :=
  s.setMed_doubts k _ (h _)

@[simp] theorem State.setSpd_doubts (s : State) (k : Nat) (x : Spd) (h : x.doubt = (s.spd k).doubt) : (s.setSpd k x).doubts = s.doubts := by
  have same : (listSet s.spds k x).map Spd.doubt = s.spds.map Spd.doubt := map_listSet_same h
  unfold State.setSpd
  simp only [State.doubts, same]

@[simp] theorem State.modSpd_doubts (s : State) (k : Nat) (f : Spd → Spd) (h : ∀ x, (f x).doubt = x.doubt) : (s.modSpd k f).doubts = s.doubts :=
  s.setSpd_doubts k _ (h _)

@[simp] theorem State.setSession_doubts (s : State) (num : Nat) (x : Session) : (State.setSession s num x).doubts = s.doubts := by
  unfold State.setSession; simp only [State.doubts, Doubts.mk.injEq] <;> simp [↓doubts_mk, doubts_eqs]

@[simp] theorem State.addTally_doubts (s : State) (scope : TScope) (id idx n : Nat) : (State.addTally s scope id idx n).doubts = s.doubts := by
  unfold State.addTally; simp only [State.doubts, Doubts.mk.injEq] <;> simp [↓doubts_mk, doubts_eqs]

@[simp] theorem State.count_doubts (s : State) (scope : TScope) (id idx : Nat) : (State.count s scope id idx).doubts = s.doubts := by
  simp [State.count]

@[simp] theorem State.countChan_doubts (s : State) (ned bind handle idx n : Nat) : (State.countChan s ned bind handle idx n).doubts = s.doubts := by
  simp [State.countChan]

@[simp] theorem State.ring_doubts (s : State) (obj : String) (fault : Bool) (kv : KVs) : (s.ring obj fault kv).doubts = s.doubts := by
  unfold State.ring
  split
  · rfl
  · exact (State.addTally_doubts _ _ _ _ _).trans rfl

@[simp] theorem State.report_doubts (s : State) (tr : Trigger) (folds : List Nat) (place : Nat) : (State.report s tr folds place).doubts = s.doubts := by
  unfold State.report; simp only [State.doubts, Doubts.mk.injEq] <;> simp [↓doubts_mk, doubts_eqs]

@[simp] theorem State.dieBell_doubts (s : State) (obj : String) (k cause : Nat) : (State.dieBell s obj k cause).doubts = s.doubts := by
  unfold State.dieBell; simp only [State.doubts, Doubts.mk.injEq] <;> simp [↓doubts_mk, doubts_eqs]

@[simp] theorem State.reinject_doubts (s : State) : (State.reinject s).doubts = s.doubts := by
  simp [State.reinject]

@[simp] theorem State.pmbus_doubts (s : State) (addr page cmd data : Nat) : (State.pmbus s addr page cmd data).doubts = s.doubts := by
  unfold State.pmbus; simp only [State.doubts, Doubts.mk.injEq] <;> simp [↓doubts_mk, doubts_eqs]

@[simp] theorem State.draw_doubts (s : State) : s.draw.2.doubts = s.doubts := rfl

@[simp] theorem State.tapTest_doubts (s : State) (d : Nat) : (State.tapTest s d).doubts = s.doubts := by
  unfold State.tapTest
  (repeat' split) <;> first | (simp; done) | (simp only [State.doubts, Doubts.mk.injEq] <;> simp [↓doubts_mk, doubts_eqs])

@[simp] theorem State.setCs_doubts (s : State) (i : Nat) (c : CSess) : (State.setCs s i c).doubts = s.doubts := by
  unfold State.setCs; simp only [State.doubts, Doubts.mk.injEq] <;> simp [↓doubts_mk, doubts_eqs]

@[simp] theorem State.modCs_doubts (s : State) (i : Nat) (f : CSess → CSess) : (State.modCs s i f).doubts = s.doubts := by
  simp [State.modCs]

@[simp] theorem State.say_doubts (s : State) (i : Nat) (o : Out) : (State.say s i o).doubts = s.doubts := by
  simp [State.say]

@[simp] theorem State.prompt_doubts (s : State) (i : Nat) : (State.prompt s i).doubts = s.doubts := by
  simp [State.prompt]

@[simp] theorem State.final_doubts (s : State) (i : Nat) (tag : Option (List Byte)) (crc : Bool) (r : RLine) : (State.final s i tag crc r).doubts = s.doubts := by
  simp [State.final]

@[simp] theorem State.answer_doubts (s : State) (ln : Ln) (r : RLine) : (State.answer s ln r).doubts = s.doubts := by
  unfold State.answer
  (repeat' split) <;> simp

@[simp] theorem State.ok_doubts (s : State) (ln : Ln) (kv : KVs) : (State.ok s ln kv).doubts = s.doubts := by
  simp [State.ok]

@[simp] theorem State.settle_doubts (s : State) (p : WaitFor → Bool) (r : RLine) : (State.settle s p r).doubts = s.doubts := by
  unfold State.settle; simp only [State.doubts, Doubts.mk.injEq] <;> simp [↓doubts_mk, doubts_eqs]

@[simp] theorem State.sessMod_doubts (s : State) (r : Req) (f : Session → Session) : (State.sessMod s r f).doubts = s.doubts := by
  unfold State.sessMod
  (repeat' split) <;> simp

@[simp] theorem State.countReq_doubts (s : State) (k : Nat) (r : Req) (idx n : Nat) : (State.countReq s k r idx n).doubts = s.doubts := by
  simp [State.countReq]

@[simp] theorem State.countReply_doubts (s : State) (k : Nat) (r : Req) (back : Bool) : (State.countReply s k r back).doubts = s.doubts := by
  unfold State.countReply
  (repeat' split) <;> simp

@[simp] theorem State.endReq_doubts (s : State) (k : Nat) (r : Req) : (State.endReq s k r).doubts = s.doubts := by
  unfold State.endReq
  dsimp only
  rw [State.modNed_doubts, State.sessMod_doubts]
  exact fun _ => rfl

@[simp] theorem State.closeTag_doubts (s : State) (k : Nat) (r : Req) (stray : Bool) : (State.closeTag s k r stray).doubts = s.doubts := by
  simp [State.closeTag]

@[simp] theorem State.releaseFcs_doubts (s : State) (k : Nat) (r : Req) : (State.releaseFcs s k r).doubts = s.doubts := by
  unfold State.releaseFcs
  dsimp only
  rw [State.endReq_doubts, State.countReply_doubts, State.modNed_doubts, wire_doubts]
  · split
    · rfl
    · exact State.count_doubts _ _ _ _
  · exact fun _ => rfl

@[simp] theorem State.startReply_doubts (s : State) (k : Nat) (r : Req) (rep : Reply) (at_ : Time) : (State.startReply s k r rep at_).doubts = s.doubts := by
  unfold State.startReply
  dsimp only
  split
  · rw [State.releaseFcs_doubts, State.modNed_doubts]
    exact fun _ => rfl
  · rw [State.modNed_doubts]
    exact fun _ => rfl

@[simp] theorem State.compose_doubts (s : State) (k : Nat) (r : Req) (rep : Reply) : (State.compose s k r rep).doubts = s.doubts := by
  unfold State.compose
  dsimp only
  generalize e : State.modNed _ k _ = u
  have same : u.doubts = s.doubts := by
    rw [← e, State.modNed_doubts]
    · split
      · split
        · exact State.sessMod_doubts _ _ _
        · rw [State.modNed_doubts, State.sessMod_doubts]
          exact fun _ => rfl
      · exact State.sessMod_doubts _ _ _
    · exact fun _ => rfl
  split
  · rw [State.startReply_doubts, same]
  · exact same

@[simp] theorem State.stomp_doubts (s : State) (k : Nat) (r : Req) (whole : Bool) : (State.stomp s k r whole).doubts = s.doubts := by
  unfold State.stomp
  dsimp only
  split
  · rw [State.modNed_doubts, State.sessMod_doubts]
    exact fun _ => rfl
  · rw [State.modNed_doubts, State.count_doubts]
    · rw [ite_doubts, State.count_doubts, wire_doubts, State.sessMod_doubts, ite_self]
    · exact fun _ => rfl

@[simp] theorem State.unsend_doubts (s : State) (k : Nat) (r : Req) : (State.unsend s k r).doubts = s.doubts := by
  unfold State.unsend; simp only [State.doubts, Doubts.mk.injEq] <;> simp [↓doubts_mk, doubts_eqs]

@[simp] theorem State.stompSent_doubts (s : State) (k : Nat) (r : Req) : (State.stompSent s k r).doubts = s.doubts := by
  simp [State.stompSent]

@[simp] theorem State.refuseReq_doubts (s : State) (k : Nat) (r : Req) (reason : Nat) : (State.refuseReq s k r reason).doubts = s.doubts := by
  unfold State.refuseReq
  dsimp only
  generalize e : State.sessMod _ r _ = u
  have same : u.doubts = s.doubts := by
    rw [← e, State.sessMod_doubts, State.closeTag_doubts, ite_doubts, State.count_doubts, State.modNed_doubts, ite_self, State.stompSent_doubts]
    exact fun _ => Ned.giveBack_doubt _ _
  split
  · rw [State.modNed_doubts, same]
    exact fun _ => rfl
  · rw [State.compose_doubts, same]

@[simp] theorem State.dropReq_doubts (s : State) (k : Nat) (r : Req) : (State.dropReq s k r).doubts = s.doubts := by
  unfold State.dropReq
  dsimp only
  rw [State.modNed_doubts, State.sessMod_doubts, State.closeTag_doubts, ite_doubts, State.count_doubts, State.modNed_doubts, ite_self]
  · exact fun _ => Ned.giveBack_doubt _ _
  · exact fun _ => rfl

@[simp] theorem State.loseSession_doubts (s : State) (num : Nat) : (State.loseSession s num).doubts = s.doubts := by
  simp [State.loseSession]

@[simp] theorem State.trainSpan_doubts (s : State) (i : Nat) : (State.trainSpan s i).doubts = s.doubts := by
  simp [State.trainSpan]

end Sys2Proof.Machine

/-! The edge in B1 and B2 (R705–R709). -/
namespace Sys2Proof.Machine

open Sys2Proof

/-! Doubt of a die of the edge. -/

theorem ned_doubt_of_doubts {s t : State} (h : t.doubts = s.doubts) (k : Nat) : (t.ned k).doubt = (s.ned k).doubt := by
  have e : t.neds.map Ned.doubt = s.neds.map Ned.doubt := congrArg Doubts.neds h
  have at_ (u : State) : (u.ned k).doubt = (u.neds.map Ned.doubt)[k]?.getD Ned.initial.doubt := by
    rw [List.getElem?_map]
    exact (Option.getD_map Ned.doubt Ned.initial _).symm
  rw [at_, at_, e]

theorem med_doubt_of_doubts {s t : State} (h : t.doubts = s.doubts) (k : Nat) : (t.med k).doubt = (s.med k).doubt := by
  have e : t.meds.map Med.doubt = s.meds.map Med.doubt := congrArg Doubts.meds h
  have at_ (u : State) : (u.med k).doubt = (u.meds.map Med.doubt)[k]?.getD Med.initial.doubt := by
    rw [List.getElem?_map]
    exact (Option.getD_map Med.doubt Med.initial _).symm
  rw [at_, at_, e]

theorem spd_doubt_of_doubts {s t : State} (h : t.doubts = s.doubts) (k : Nat) : (t.spd k).doubt = (s.spd k).doubt := by
  have e : t.spds.map Spd.doubt = s.spds.map Spd.doubt := congrArg Doubts.spds h
  have at_ (u : State) : (u.spd k).doubt = (u.spds.map Spd.doubt)[k]?.getD Spd.initial.doubt := by
    rw [List.getElem?_map]
    exact (Option.getD_map Spd.doubt Spd.initial _).symm
  rw [at_, at_, e]

theorem State.nedEnterDoubt_own {s : State} {k : Nat} (low : k < s.neds.length) (cause : Nat) : ((s.nedEnterDoubt k cause).ned k).doubt = true := by
  unfold State.nedEnterDoubt
  split
  · assumption
  · extract_lets s1 s2 s3 nums s4 mine
    have length : s1.neds.length = s.neds.length := by
      have core : s1.core = s.core := foldl_eq State.core _ _ fun t r _ => State.stompSent_core _ _ _
      exact congrArg Core.nNeds core
    have same : (((s4.settle mine (.err 404 [("object", .word "ned"), ("state", .word "doubt")])).dieBell "ned" k cause).reinject).doubts = s2.doubts := by
      have lost : s4.doubts = s3.doubts := foldl_eq State.doubts _ _ fun t n _ => by simp
      have closed : s3.doubts = s2.doubts := rfl
      simp [lost, closed]
    rw [ned_doubt_of_doubts same]
    simp [s2, length, low]

theorem State.medEnterDoubt_own {s : State} {k : Nat} (low : k < s.meds.length) (cause : Nat) : ((s.medEnterDoubt k cause).med k).doubt = true := by
  unfold State.medEnterDoubt
  split
  · assumption
  · extract_lets folds s1 s2
    have same : (((s2.report .med folds (medDest k)).dieBell "med" k cause).reinject).doubts = s1.doubts := by
      have lost : s2.doubts = s1.doubts := foldl_eq State.doubts _ _ fun t n _ => by simp
      simp [lost]
    rw [med_doubt_of_doubts same]
    simp [s1, low]

theorem State.spdEnterDoubt_own {s : State} {i : Nat} (low : i < s.spds.length) (cause : Nat) : ((s.spdEnterDoubt i cause).spd i).doubt = true := by
  unfold State.spdEnterDoubt
  split
  · assumption
  · extract_lets folds s1 s2
    have same : (((s2.report .spd folds (spdDest i)).dieBell "spd" i cause).reinject).doubts = s1.doubts := by
      have refused : s2.doubts = s1.doubts :=
        foldl_eq State.doubts _ _ fun t k _ => foldl_eq State.doubts _ _ fun t r _ => by simp
      simp [refused]
    rw [spd_doubt_of_doubts same]
    simp [s1, low]

theorem mem_edgeDieList {d : Nat} (h : d ∈ edgeDieList) : (∃ k < 24, d = nedDest k) ∨ (∃ k < 12, d = medDest k) ∨ ∃ k < 16, d = spdDest k := by
  simp only [edgeDieList, List.mem_append, List.mem_map, List.mem_range] at h
  rcases h with (⟨k, low, rfl⟩ | ⟨k, low, rfl⟩) | ⟨k, low, rfl⟩
  · exact .inl ⟨k, low, rfl⟩
  · exact .inr (.inl ⟨k, low, rfl⟩)
  · exact .inr (.inr ⟨k, low, rfl⟩)

/-- A die of the edge enters doubt (R707). -/
theorem State.edgeDieDoubt_own {s : State} {d : Nat} (size : s.sized) (h : d ∈ edgeDieList) (cause : Nat) :
    (s.edgeDieDoubt d cause).dieDoubt d = true := by
  obtain ⟨-, neds, meds, spds⟩ := size
  rcases mem_edgeDieList h with ⟨k, low, rfl⟩ | ⟨k, low, rfl⟩ | ⟨k, low, rfl⟩
  · have ned : nedDest k < 1560 := by unfold nedDest; omega
    have index : nedDest k - 1536 = k := by unfold nedDest; omega
    rw [State.edgeDieDoubt, State.dieDoubt, if_pos ned, if_pos ned, index]
    exact State.nedEnterDoubt_own (neds ▸ low) cause
  · have ned : ¬ medDest k < 1560 := by unfold medDest; omega
    have med : medDest k < 1580 := by unfold medDest; omega
    have index : medDest k - 1568 = k := by unfold medDest; omega
    rw [State.edgeDieDoubt, State.dieDoubt, if_neg ned, if_neg ned, if_pos med, if_pos med, index]
    exact State.medEnterDoubt_own (meds ▸ low) cause
  · have ned : ¬ spdDest k < 1560 := by unfold spdDest; omega
    have med : ¬ spdDest k < 1580 := by unfold spdDest; omega
    have spd : spdDest k < 1616 := by unfold spdDest; omega
    have index : spdDest k - 1600 = k := by unfold spdDest; omega
    rw [State.edgeDieDoubt, State.dieDoubt, if_neg ned, if_neg ned, if_neg med, if_neg med, if_pos spd, index]
    exact State.spdEnterDoubt_own (spds ▸ low) cause

theorem dieDoubt_of_doubts {s t : State} (h : t.doubts = s.doubts) {d : Nat} (low : d < 1616) : t.dieDoubt d = s.dieDoubt d := by
  unfold State.dieDoubt
  rw [ned_doubt_of_doubts h, med_doubt_of_doubts h, spd_doubt_of_doubts h, if_pos low, if_pos low]

/-! The stages (R705, R706). -/

theorem State.makeHole_unreach (s : State) (n cause : Nat) (quiet : Bool) : (s.makeHole n cause quiet).unreach = s.unreach := by
  refine (congrArg Plant.unreach (s.makeHole_plant n cause quiet)).trans ?_
  obtain ⟨e, -⟩ | ⟨w, -, e⟩ := s.markHole_plant n cause quiet
  · rw [e]
    rfl
  · rw [e]
    exact foldl_eq State.unreach _ s fun _ _ _ => rfl

theorem State.loadMap_unreach (s : State) : s.loadMap.unreach = s.unreach := by
  unfold State.loadMap
  split
  · rfl
  · exact foldl_eq State.unreach _ _ fun _ _ _ => rfl

/-- The fields of a list whose stage failed are HOLEs (R705). -/
def State.stagesFailed (s : State) (l : List Nat) : State := l.foldl (fun s f => (fieldPads f).foldl (fun s n => s.makeHole n 3 true) s) s

theorem State.stagesFailed_unreach (s : State) (l : List Nat) : (s.stagesFailed l).unreach = s.unreach :=
  foldl_eq State.unreach l s fun t f _ => foldl_eq State.unreach (fieldPads f) t fun t n _ => t.makeHole_unreach n 3 true

theorem foldl_makeHole_kept {s : State} {n : Nat} (h : (s.entry n).st = 2) (l : List Nat) :
    ((l.foldl (fun s n => s.makeHole n 3 true) s).entry n).st = 2 :=
  foldl_inv l (P := fun t : State => (t.entry n).st = 2) h fun t m k => by
    rw [State.makeHole_st]
    split
    · rfl
    · exact k

theorem State.stagesFailed_holes (s : State) {l : List Nat} {f n : Nat} (mem : f ∈ l) (at_ : n ∈ fieldPads f) : ((s.stagesFailed l).entry n).st = 2 := by
  refine foldl_established (P := fun t => (t.entry n).st = 2) l s mem (fun t => ?_) fun t g k => foldl_makeHole_kept k _
  refine foldl_established (P := fun t => (t.entry n).st = 2) _ t at_ (fun t => ?_) fun t m k => ?_
  · rw [State.makeHole_st, if_pos rfl]
  · exact foldl_makeHole_kept k [m]

/-- The edge dies of a list are in doubt with their verdicts (R707). -/
def State.diesFailed (s : State) (l : List Nat) : State := l.foldl (fun s d => (s.edgeDieDoubt d 1).dieVerdict d 2) s

theorem State.edgeDieDoubt_plant (s : State) (d cause : Nat) : (s.edgeDieDoubt d cause).plant = s.plant := by
  unfold State.edgeDieDoubt
  (repeat' split) <;> simp

theorem State.diesFailed_plant (s : State) (l : List Nat) : (s.diesFailed l).plant = s.plant :=
  foldl_eq State.plant l s fun t d _ => State.edgeDieDoubt_plant t d 1

theorem State.diesFailed_phase (s : State) (l : List Nat) : (s.diesFailed l).boot.phase = s.boot.phase :=
  foldl_eq (fun t : State => t.boot.phase) l s fun t d _ => by
    have same : (t.edgeDieDoubt d 1).boot = t.boot := boot_of_ctl (State.edgeDieDoubt_ctl t d 1)
    simp [State.dieVerdict, same]

theorem State.diesFailed_verdict (s : State) {l : List Nat} {d : Nat} (mem : d ∈ l) : tabGet 0 (s.diesFailed l).boot.dies d = 2 := by
  refine foldl_established (P := fun t => tabGet 0 t.boot.dies d = 2) l s mem (fun t => ?_) fun t e k => ?_
  · simp [State.dieVerdict]
  · have same : (t.edgeDieDoubt e 1).boot = t.boot := boot_of_ctl (State.edgeDieDoubt_ctl t e 1)
    rw [State.dieVerdict, tabGet_set, same]
    split
    · rfl
    · exact k

/-- What the settled stages leave: the failed devices, their fields, the phase and the dies (R705–R707). -/
def State.stagesEnd (s : State) (failed fields : List Nat) (rails : List (Nat × Nat)) (dies : List Nat) : State :=
  let s1 := ({ s with unreach := (s.unreach ++ failed).eraseDups }).loadMap
  let s2 := s1.stagesFailed fields
  let s3 : State := { s2 with boot := { s2.boot with phase := .b2, ended := s2.boot.ended ++ [(1, s2.now)] } }
  State.diesFailed (rails.foldl (fun s r => s.pmbus r.1 r.2 0x01 0x80) s3) dies

theorem State.stagesEnd_effect (s : State) (failed fields : List Nat) (rails : List (Nat × Nat)) (dies : List Nat) :
    (s.stagesEnd failed fields rails dies).boot.phase = .b2 ∧ (∀ d ∈ failed, (s.stagesEnd failed fields rails dies).reachable d = false)
      ∧ (∀ f ∈ fields, ∀ n ∈ fieldPads f, ((s.stagesEnd failed fields rails dies).entry n).st = 2)
      ∧ ∀ d ∈ dies, tabGet 0 (s.stagesEnd failed fields rails dies).boot.dies d = 2 := by
  unfold State.stagesEnd
  extract_lets s1 s2 boot s3
  have sent : (rails.foldl (fun s r => s.pmbus r.1 r.2 0x01 0x80) s3).plant = s2.plant := foldl_eq State.plant _ _ fun t r _ => State.pmbus_plant _ _ _ _ _
  have phase : (rails.foldl (fun s r => s.pmbus r.1 r.2 0x01 0x80) s3).boot.phase = .b2 := foldl_eq (fun t : State => t.boot.phase) _ s3 fun _ _ _ => rfl
  have plant := (State.diesFailed_plant (rails.foldl (fun s r => s.pmbus r.1 r.2 0x01 0x80) s3) dies).trans sent
  refine ⟨(State.diesFailed_phase _ dies).trans phase, fun d mem => ?_, fun f mem n at_ => ?_, fun d mem => State.diesFailed_verdict _ mem⟩
  · have unreach : (State.diesFailed (rails.foldl (fun s r => s.pmbus r.1 r.2 0x01 0x80) s3) dies).unreach = (s.unreach ++ failed).eraseDups :=
      (congrArg Plant.unreach plant).trans ((s1.stagesFailed_unreach fields).trans (State.loadMap_unreach _))
    rw [State.reachable, unreach]
    simp [mem]
  · rw [entry_of_plant plant]
    exact s1.stagesFailed_holes mem at_

theorem execStagesSettled_next {failed : List Nat} {s : State} {t : Time} {P : State → Prop} (running : s.resetN = false) (phase : s.boot.phase = .b1)
    (active : s.active.isSome) (consoles : s.boot.consoles = true)
    (p : P ((s.tick t).stagesEnd failed ((List.range 84).filter fun f => failed.contains (fieldAddr f)) (edgeRails.filter fun r => !failed.contains r.1)
      (edgeDieList.filter fun d => failed.contains (0x64 + dieEdge d) || (decide (1568 ≤ d) && decide (d < 1580) && failed.contains (0x68 + dieEdge d))))) :
    ∃ u, exec (.stagesSettled failed t) s = .next u ∧ P u :=
  event_next running (by simpa [phase, consoles] using active) p

/-! The tests of the dies (R707, R708). -/

/-- The end of a die's test. -/
def State.dieTested (s : State) (die : Nat) (passed : Bool) : State :=
  let s1 := (s.tapTest die).dieVerdict die (if passed then 1 else 2)
  let s1 := if 1568 ≤ die && die < 1580 then s1.modMed (die - 1568) fun m => { m with leases := s.freshPages (die - 1568) } else s1
  let s2 := if !passed then s1.edgeDieDoubt die 1
    else if die < 1560 then s1.modNed (die - 1536) fun n => { n with lastAlive := s.now }
    else if die < 1580 then s1
    else s1.trainSpan (die - 1600)
  s2.endB2

theorem State.endB2_rest (s : State) : s.endB2.boot.dies = s.boot.dies ∧ s.endB2.doubts = s.doubts := by
  unfold State.endB2
  split
  · generalize (List.range 84).filter _ = l
    exact ⟨foldl_eq (fun t : State => t.boot.dies) l _ fun _ _ _ => rfl, foldl_eq State.doubts l _ fun t f _ => State.pmbus_doubts _ _ _ _ _⟩
  · exact ⟨rfl, rfl⟩

/-- Before the die's end of test, its verdict is kept and the engine has the dies it had. -/
def State.dieJudged (s : State) (die : Nat) (passed : Bool) : State :=
  let s1 := (s.tapTest die).dieVerdict die (if passed then 1 else 2)
  if 1568 ≤ die && die < 1580 then s1.modMed (die - 1568) fun m => { m with leases := s.freshPages (die - 1568) } else s1

theorem State.dieJudged_rest (s : State) (die : Nat) (passed : Bool) :
    tabGet 0 (s.dieJudged die passed).boot.dies die = (if passed then 1 else 2) ∧ (s.sized → (s.dieJudged die passed).sized) := by
  have core : (s.dieJudged die passed).core = s.core := by
    have judged : ((s.tapTest die).dieVerdict die (if passed then 1 else 2)).core = s.core := State.tapTest_core s die
    unfold State.dieJudged
    dsimp only
    rw [ite_core, State.modMed_core, ite_self, judged]
  have boot : (s.dieJudged die passed).boot = ((s.tapTest die).dieVerdict die (if passed then 1 else 2)).boot := by
    unfold State.dieJudged
    dsimp only
    split <;> rfl
  refine ⟨?_, fun size => ?_⟩
  · rw [boot]
    simp [State.dieVerdict]
  · obtain ⟨sess, neds, meds, spds⟩ := size
    exact ⟨(congrArg Core.nSess core).trans sess, (congrArg Core.nNeds core).trans neds, (congrArg Core.nMeds core).trans meds,
      (congrArg Core.nSpds core).trans spds⟩

theorem State.dieTested_effect (s : State) (die : Nat) (passed : Bool) (size : s.sized) (mem : die ∈ edgeDieList) :
    tabGet 0 (s.dieTested die passed).boot.dies die = (if passed then 1 else 2) ∧ (passed = false → (s.dieTested die passed).dieDoubt die = true) := by
  obtain ⟨verdict, size'⟩ := s.dieJudged_rest die passed
  have eq : s.dieTested die passed = (if !passed then (s.dieJudged die passed).edgeDieDoubt die 1
    else if die < 1560 then (s.dieJudged die passed).modNed (die - 1536) fun n => { n with lastAlive := s.now }
    else if die < 1580 then s.dieJudged die passed
    else (s.dieJudged die passed).trainSpan (die - 1600)).endB2 := rfl
  generalize s.dieJudged die passed = u at verdict size' eq
  obtain ⟨dies, doubts⟩ := State.endB2_rest (if !passed then u.edgeDieDoubt die 1
    else if die < 1560 then u.modNed (die - 1536) fun n => { n with lastAlive := s.now }
    else if die < 1580 then u
    else u.trainSpan (die - 1600))
  have low : die < 1616 := by
    rcases mem_edgeDieList mem with ⟨k, low, rfl⟩ | ⟨k, low, rfl⟩ | ⟨k, low, rfl⟩ <;> simp only [nedDest, medDest, spdDest] <;> omega
  rw [eq, dies, dieDoubt_of_doubts doubts low]
  cases passed with
  | false =>
    have same : (u.edgeDieDoubt die 1).boot = u.boot := boot_of_ctl (State.edgeDieDoubt_ctl u die 1)
    exact ⟨(congrArg (fun b : Boot => tabGet 0 b.dies die) same).trans verdict, fun _ => State.edgeDieDoubt_own (size' size) mem 1⟩
  | true =>
    refine ⟨Eq.trans ?_ verdict, nofun⟩
    simp only [Bool.not_true, Bool.false_eq_true, if_false]
    split
    · rfl
    · split
      · rfl
      · rw [boot_of_ctl (State.trainSpan_ctl u (die - 1600))]

/-! The rings (R559, R709). -/

/-- The rings of a list of fields start. -/
def State.ringsOn (s : State) (l : List Nat) : State := l.foldl (fun s f => s.modField f fun x => { x with ringOn := true, ringLost := false }) s

theorem State.ringsOn_field (s : State) {l : List Nat} {f : Nat} (mem : f ∈ l) : ((s.ringsOn l).field f).ringOn = true ∧ ((s.ringsOn l).field f).ringLost = false := by
  refine foldl_established (P := fun t => (t.field f).ringOn = true ∧ (t.field f).ringLost = false) l s mem (fun t => ?_) fun t g k => ?_
  · rw [State.modField_field, if_pos rfl]
    exact ⟨rfl, rfl⟩
  · rw [State.modField_field]
    split
    · exact ⟨rfl, rfl⟩
    · exact k

/-- The always-on rails have come up. -/
def State.aonUp (s : State) (l : List Nat) : State :=
  let s1 := s.ringsOn l
  ({ s1 with boot := { s1.boot with aon := true } }).reinject

theorem State.aonUp_effect (s : State) (l : List Nat) : (s.aonUp l).boot.aon = true
    ∧ ∀ f ∈ l, ((s.aonUp l).field f).ringOn = true ∧ ((s.aonUp l).field f).ringLost = false := by
  unfold State.aonUp
  refine ⟨by simp, fun f mem => ?_⟩
  have e := field_of_plant (State.reinject_plant { s.ringsOn l with boot := { (s.ringsOn l).boot with aon := true } }) f
  obtain ⟨on, lost⟩ := s.ringsOn_field mem
  have same : ({ s.ringsOn l with boot := { (s.ringsOn l).boot with aon := true } } : State).field f = (s.ringsOn l).field f := rfl
  rw [same] at e
  generalize State.reinject _ = u at e ⊢
  exact ⟨(congrArg Field.ringOn e).trans on, (congrArg Field.ringLost e).trans lost⟩

theorem execAonRailsInWindow_next {s : State} {t : Time} {P : State → Prop} (running : s.resetN = false) (phase : s.boot.phase = .b3)
    (aon : s.boot.aon = false) (p : P ((s.tick t).aonUp ((List.range 84).filter fun f => (s.tick t).bootField f))) :
    ∃ u, exec (.aonRailsInWindow t) s = .next u ∧ P u :=
  event_next running (by simp [phase, aon]) p

/-- Settles O9, a step of bring-up at a time. -/
theorem edgeDiesBeforeFields : Obligations.EdgeDiesBeforeFields := by
  refine ⟨fun failed t s running phase active consoles => ?stages, fun die passed t s running size phase halted ref mem open_ => ?die,
    fun since t s running phase halted ref ended late => ?ref, fun t s running phase aon => ?aon⟩
  case stages =>
    refine execStagesSettled_next running phase active consoles ?_
    obtain ⟨phase', unreach, holes, dies⟩ := (s.tick t).stagesEnd_effect failed ((List.range 84).filter fun f => failed.contains (fieldAddr f))
      (edgeRails.filter fun r => !failed.contains r.1)
      (edgeDieList.filter fun d => failed.contains (0x64 + dieEdge d) || (decide (1568 ≤ d) && decide (d < 1580) && failed.contains (0x68 + dieEdge d)))
    refine ⟨phase', unreach, fun f low mem n at_ => holes f (List.mem_filter.mpr ⟨List.mem_range.mpr low, ?_⟩) n at_, fun d listed mem => dies d (List.mem_filter.mpr ⟨listed, ?_⟩)⟩
    · simpa using mem
    · simp [mem]
  case die =>
    refine event_next (f := fun s => s.dieTested die passed) running (by simp [phase, halted, ref, mem, open_]) ?_
    exact (s.tick t).dieTested_effect die passed size mem
  case ref =>
    refine event_next running ?_ ?_
    · simp [phase, halted, ref, ended, late]
    · simp
  case aon =>
    refine execAonRailsInWindow_next running phase aon ?_
    obtain ⟨up, rings⟩ := (s.tick t).aonUp_effect ((List.range 84).filter fun f => (s.tick t).bootField f)
    exact ⟨up, fun f low takes => rings f (List.mem_filter.mpr ⟨List.mem_range.mpr low, takes⟩)⟩

end Sys2Proof.Machine

/-! What leaves the controllers alone, as in Laws/. -/
namespace Sys2Proof.Machine

open Sys2Proof

/-- A controller but for what the mirror has reached at it. -/
def Shc.sansMirror (c : Shc) : Shc := { c with mirrorSeq := 0 }

/-- The controllers but for what the mirror has reached, which a takeover's work on folds and stages leaves alone. -/
structure Who where
  a : Shc
  b : Shc

def State.who (s : State) : Who :=
  ⟨s.shcA.sansMirror, s.shcB.sansMirror⟩

theorem who_mk (now) (freeCtr) (resetN) (pwrFail) (pwrFailAt) (frozen) (faultN) (alertN) (alertCause) (ready)
    (readyAt) (vstby) (fuses) (flash) (writing) (place) (net) (boot) (sel) (quiet) (active) (shcA) (shcB) (mirrorSeq)
    (mirrorProbe) (scratch) (sess) (con0) (con1) (waits) (garp) (stages) (nextStage) (retained) (fwUpdate) (bellSeq)
    (bells) (ledgerSeq) (ledgerHeld) (ledgerStopped) (ptpPort) (ptpHeard) (tallies) (busA) (busB) (shared) (telem)
    (unreach) (refAbsent) (refSince) (meshLocked) (inlet) (outlet) (loopSince) (wave) (lastWave) (map) (mapSeq) (pads)
    (fields) (links) (lane0) (neds) (meds) (spds) (nedTemp) (spdTemp) (medTemp) (flockUp) (flockMembers) (flockInfo)
    (excludedW) (folds) (scrubs) (paused) (secondAt) (incCtr) (channels) (sessions) (reports) (notices) (wsel) (wstat)
    (shadow) (taps) (wire) (pending) : (State.mk now freeCtr resetN pwrFail pwrFailAt frozen faultN alertN alertCause
    ready readyAt vstby fuses flash writing place net boot sel quiet active shcA shcB mirrorSeq mirrorProbe scratch
    sess con0 con1 waits garp stages nextStage retained fwUpdate bellSeq bells ledgerSeq ledgerHeld ledgerStopped
    ptpPort ptpHeard tallies busA busB shared telem unreach refAbsent refSince meshLocked inlet outlet loopSince wave
    lastWave map mapSeq pads fields links lane0 neds meds spds nedTemp spdTemp medTemp flockUp flockMembers flockInfo
    excludedW folds scrubs paused secondAt incCtr channels sessions reports notices wsel wstat shadow taps wire
    pending).who =
    ⟨shcA.sansMirror, shcB.sansMirror⟩ := rfl

theorem who_eqs : (∀ s : State, s.shcA.sansMirror = s.who.a) ∧
    (∀ s : State, s.shcB.sansMirror = s.who.b) := by
  (repeat' apply And.intro) <;> intros <;> rfl

@[simp] theorem ite_who (c : Prop) [Decidable c] (a b : State) : (if c then a else b).who = if c then a.who else b.who := by
  split <;> rfl

@[simp] theorem foldl_who {α : Type} (f : State → α → State) (h : ∀ s a, (f s a).who = s.who) (l : List α) (s : State) :
    (l.foldl f s).who = s.who := by
  induction l generalizing s with
  | nil => rfl
  | cons x xs ih => simp [ih, h]

theorem ite_eq_who {c : Prop} [Decidable c] {a b : State} {r : Who} (ha : a.who = r) (hb : b.who = r) :
    (if c then a else b).who = r := by
  split <;> assumption

theorem wire_who (a : State) (w : List Wire) : ({ a with wire := w } : State).who = a.who := rfl

theorem meds_who (a : State) (l : List Med) (h : l.length = a.meds.length) : ({ a with meds := l } : State).who = a.who := rfl

theorem heard_who (a : State) (o : Option Time) : ({ a with ptpHeard := o } : State).who = a.who := rfl

theorem fw_who (a : State) (w : FwUpdate) : ({ a with fwUpdate := w } : State).who = a.who := rfl

@[simp] theorem State.tick_who (s : State) (t : Time) : (s.tick t).who = s.who := rfl

@[simp] theorem State.setPad_who (s : State) (n : Nat) (p : Paddock) : (State.setPad s n p).who = s.who := by
  unfold State.setPad; simp only [State.who, Who.mk.injEq] <;> simp [↓who_mk, who_eqs]

@[simp] theorem State.modPad_who (s : State) (n : Nat) (f : Paddock → Paddock) : (State.modPad s n f).who = s.who := by
  simp [State.modPad]

@[simp] theorem State.setField_who (s : State) (f : Nat) (x : Field) : (State.setField s f x).who = s.who := by
  unfold State.setField; simp only [State.who, Who.mk.injEq] <;> simp [↓who_mk, who_eqs]

@[simp] theorem State.modField_who (s : State) (f : Nat) (g : Field → Field) : (State.modField s f g).who = s.who := by
  simp [State.modField]

@[simp] theorem State.setNed_who (s : State) (k : Nat) (x : Ned) : (State.setNed s k x).who = s.who := by
  unfold State.setNed; simp only [State.who, Who.mk.injEq] <;> simp [↓who_mk, who_eqs]

@[simp] theorem State.modNed_who (s : State) (k : Nat) (f : Ned → Ned) : (State.modNed s k f).who = s.who := by
  simp [State.modNed]

@[simp] theorem State.setMed_who (s : State) (k : Nat) (x : Med) : (State.setMed s k x).who = s.who := by
  unfold State.setMed; simp only [State.who, Who.mk.injEq] <;> simp [↓who_mk, who_eqs]

@[simp] theorem State.modMed_who (s : State) (k : Nat) (f : Med → Med) : (State.modMed s k f).who = s.who := by
  simp [State.modMed]

@[simp] theorem State.setSpd_who (s : State) (k : Nat) (x : Spd) : (State.setSpd s k x).who = s.who := by
  unfold State.setSpd; simp only [State.who, Who.mk.injEq] <;> simp [↓who_mk, who_eqs]

@[simp] theorem State.modSpd_who (s : State) (k : Nat) (f : Spd → Spd) : (State.modSpd s k f).who = s.who := by
  simp [State.modSpd]

theorem State.setShc_who (s : State) (i : Nat) (x : Shc) (h : x.sansMirror = (s.shc i).sansMirror) : (s.setShc i x).who = s.who := by
  unfold State.setShc
  unfold State.shc at h
  by_cases c : i = 0
  · rw [if_pos c] at h ⊢
    simp only [State.who, h]
  · rw [if_neg c] at h ⊢
    simp only [State.who, h]

@[simp] theorem State.modShc_who (s : State) (i : Nat) (f : Shc → Shc) (h : ∀ c, (f c).sansMirror = c.sansMirror) : (s.modShc i f).who = s.who :=
  s.setShc_who i _ (h _)

@[simp] theorem State.setLink_who (s : State) (x lane : Nat) (l : LinkEnd) : (State.setLink s x lane l).who = s.who := by
  unfold State.setLink; simp only [State.who, Who.mk.injEq] <;> simp [↓who_mk, who_eqs]

@[simp] theorem State.modLink_who (s : State) (x lane : Nat) (f : LinkEnd → LinkEnd) : (State.modLink s x lane f).who = s.who := by
  simp [State.modLink]

@[simp] theorem State.setEntry_who (s : State) (n : Nat) (e : MapEntry) : (State.setEntry s n e).who = s.who := by
  unfold State.setEntry; simp only [State.who, Who.mk.injEq] <;> simp [↓who_mk, who_eqs]

@[simp] theorem State.modFold_who (s : State) (id : Nat) (g : Fold → Fold) : (State.modFold s id g).who = s.who := by
  unfold State.modFold; simp only [State.who, Who.mk.injEq] <;> simp [↓who_mk, who_eqs]

@[simp] theorem State.setSession_who (s : State) (num : Nat) (x : Session) : (State.setSession s num x).who = s.who := by
  unfold State.setSession; simp only [State.who, Who.mk.injEq] <;> simp [↓who_mk, who_eqs]

@[simp] theorem State.addTally_who (s : State) (scope : TScope) (id idx n : Nat) : (State.addTally s scope id idx n).who = s.who := by
  unfold State.addTally; simp only [State.who, Who.mk.injEq] <;> simp [↓who_mk, who_eqs]

@[simp] theorem State.count_who (s : State) (scope : TScope) (id idx : Nat) : (State.count s scope id idx).who = s.who := by
  simp [State.count]

@[simp] theorem State.noteStray_who (s : State) (fold : Nat) : (State.noteStray s fold).who = s.who := by
  simp [State.noteStray]

@[simp] theorem State.countChan_who (s : State) (ned bind handle idx n : Nat) : (State.countChan s ned bind handle idx n).who = s.who := by
  simp [State.countChan]

@[simp] theorem State.setFoldSt_who (s : State) (id : Nat) (st : FoldState) : (State.setFoldSt s id st).who = s.who := by
  unfold State.setFoldSt; simp only [State.who, Who.mk.injEq] <;> simp [↓who_mk, who_eqs]

@[simp] theorem State.ring_who (s : State) (obj : String) (fault : Bool) (kv : KVs) : (s.ring obj fault kv).who = s.who := by
  unfold State.ring
  split
  · rfl
  · exact (State.addTally_who _ _ _ _ _).trans rfl

@[simp] theorem State.report_who (s : State) (tr : Trigger) (folds : List Nat) (place : Nat) : (State.report s tr folds place).who = s.who := by
  unfold State.report; simp only [State.who, Who.mk.injEq] <;> simp [↓who_mk, who_eqs]

@[simp] theorem State.goDark_who (s : State) (n : Nat) : (State.goDark s n).who = s.who := by
  unfold State.goDark; simp only [State.who, Who.mk.injEq] <;> simp [↓who_mk, who_eqs]

@[simp] theorem State.enqueueWave_who (s : State) (n : Nat) (goal : Power) : (State.enqueueWave s n goal).who = s.who := by
  unfold State.enqueueWave; simp only [State.who, Who.mk.injEq] <;> simp [↓who_mk, who_eqs]

@[simp] theorem State.dissolveYoke_who (s : State) (n : Nat) : (State.dissolveYoke s n).who = s.who := by
  simp [State.dissolveYoke]

@[simp] theorem State.markHole_who (s : State) (n cause : Nat) (quiet : Bool) : (State.markHole s n cause quiet).who = s.who := by
  unfold State.markHole; simp only [State.who, Who.mk.injEq] <;> simp [↓who_mk, who_eqs]

@[simp] theorem State.dieBell_who (s : State) (obj : String) (k cause : Nat) : (State.dieBell s obj k cause).who = s.who := by
  unfold State.dieBell; simp only [State.who, Who.mk.injEq] <;> simp [↓who_mk, who_eqs]

@[simp] theorem State.reinject_who (s : State) : (State.reinject s).who = s.who := by
  simp [State.reinject]

@[simp] theorem State.pmbus_who (s : State) (addr page cmd data : Nat) : (State.pmbus s addr page cmd data).who = s.who := by
  unfold State.pmbus; simp only [State.who, Who.mk.injEq] <;> simp [↓who_mk, who_eqs]

/-- What an event leaves alone, its moment aside. -/
theorem State.event_who (s : State) (t : Time) (c : State → Bool) (f : State → State)
    (h : c (s.tick t) = true → (f (s.tick t)).who = s.who) : (s.event t c f).who = s.who := by
  unfold State.event
  split
  · rename_i g
    exact h (by simpa using (Bool.and_eq_true _ _ ▸ g).2)
  · rfl

@[simp] theorem State.setCs_who (s : State) (i : Nat) (c : CSess) : (State.setCs s i c).who = s.who := by
  unfold State.setCs; simp only [State.who, Who.mk.injEq] <;> simp [↓who_mk, who_eqs]

@[simp] theorem State.modCs_who (s : State) (i : Nat) (f : CSess → CSess) : (State.modCs s i f).who = s.who := by
  simp [State.modCs]

@[simp] theorem State.say_who (s : State) (i : Nat) (o : Out) : (State.say s i o).who = s.who := by
  simp [State.say]

@[simp] theorem State.prompt_who (s : State) (i : Nat) : (State.prompt s i).who = s.who := by
  simp [State.prompt]

@[simp] theorem State.final_who (s : State) (i : Nat) (tag : Option (List Byte)) (crc : Bool) (r : RLine) : (State.final s i tag crc r).who = s.who := by
  simp [State.final]

@[simp] theorem State.answer_who (s : State) (ln : Ln) (r : RLine) : (State.answer s ln r).who = s.who := by
  unfold State.answer
  (repeat' split) <;> simp

@[simp] theorem State.ok_who (s : State) (ln : Ln) (kv : KVs) : (State.ok s ln kv).who = s.who := by
  simp [State.ok]

@[simp] theorem State.err_who (s : State) (ln : Ln) (code : Nat) (kv : KVs) : (State.err s ln code kv).who = s.who := by
  simp [State.err]

@[simp] theorem State.settle_who (s : State) (p : WaitFor → Bool) (r : RLine) : (State.settle s p r).who = s.who := by
  unfold State.settle; simp only [State.who, Who.mk.injEq] <;> simp [↓who_mk, who_eqs]

@[simp] theorem State.mirror_who (s : State) : s.mirror.who = s.who := by
  have next (u : State) (n : Nat) (h : u.who = s.who) (i : Nat) : (u.modShc i fun x => { x with mirrorSeq := n }).who = s.who := by
    rw [State.modShc_who, h]
    exact fun _ => rfl
  unfold State.mirror
  dsimp only
  split
  · rfl
  · split
    · exact next _ _ (next { s with mirrorSeq := s.mirrorSeq + 1 } _ rfl _) _
    · exact next { s with mirrorSeq := s.mirrorSeq + 1 } _ rfl _

@[simp] theorem State.syncCredits_who (s : State) (x lane : Nat) : (State.syncCredits s x lane).who = s.who := by
  unfold State.syncCredits
  (repeat' split) <;> simp

@[simp] theorem State.syncBorders_who (s : State) (n : Nat) : (State.syncBorders s n).who = s.who := by
  unfold State.syncBorders
  dsimp only
  (repeat' split) <;> first | rfl | (simp (disch := (intros; (repeat' split) <;> simp)); done) | (simp only [State.who, Who.mk.injEq] <;> simp (disch := (intros; (repeat' split) <;> simp)) [↓who_mk, who_eqs])

@[simp] theorem State.sessMod_who (s : State) (r : Req) (f : Session → Session) : (State.sessMod s r f).who = s.who := by
  unfold State.sessMod
  (repeat' split) <;> simp

@[simp] theorem State.countReq_who (s : State) (k : Nat) (r : Req) (idx n : Nat) : (State.countReq s k r idx n).who = s.who := by
  simp [State.countReq]

@[simp] theorem State.countReply_who (s : State) (k : Nat) (r : Req) (back : Bool) : (State.countReply s k r back).who = s.who := by
  unfold State.countReply
  (repeat' split) <;> simp

@[simp] theorem State.endReq_who (s : State) (k : Nat) (r : Req) : (State.endReq s k r).who = s.who := by
  simp [State.endReq]

@[simp] theorem State.closeTag_who (s : State) (k : Nat) (r : Req) (stray : Bool) : (State.closeTag s k r stray).who = s.who := by
  simp [State.closeTag]

@[simp] theorem State.releaseFcs_who (s : State) (k : Nat) (r : Req) : (State.releaseFcs s k r).who = s.who := by
  unfold State.releaseFcs; simp only [State.who, Who.mk.injEq] <;> simp [↓who_mk, who_eqs]

@[simp] theorem State.startReply_who (s : State) (k : Nat) (r : Req) (rep : Reply) (at_ : Time) : (State.startReply s k r rep at_).who = s.who := by
  unfold State.startReply; simp only [State.who, Who.mk.injEq] <;> simp [↓who_mk, who_eqs]

@[simp] theorem State.compose_who (s : State) (k : Nat) (r : Req) (rep : Reply) : (State.compose s k r rep).who = s.who := by
  unfold State.compose
  dsimp only
  (repeat' split) <;> simp

@[simp] theorem State.stomp_who (s : State) (k : Nat) (r : Req) (whole : Bool) : (State.stomp s k r whole).who = s.who := by
  unfold State.stomp; simp only [State.who, Who.mk.injEq] <;> simp [↓who_mk, who_eqs]

@[simp] theorem State.unsend_who (s : State) (k : Nat) (r : Req) : (State.unsend s k r).who = s.who := by
  unfold State.unsend; simp only [State.who, Who.mk.injEq] <;> simp [↓who_mk, who_eqs]

@[simp] theorem State.stompSent_who (s : State) (k : Nat) (r : Req) : (State.stompSent s k r).who = s.who := by
  simp [State.stompSent]

@[simp] theorem State.refuseReq_who (s : State) (k : Nat) (r : Req) (reason : Nat) : (State.refuseReq s k r reason).who = s.who := by
  simp [State.refuseReq]

@[simp] theorem State.dropReq_who (s : State) (k : Nat) (r : Req) : (State.dropReq s k r).who = s.who := by
  simp [State.dropReq]

@[simp] theorem State.loseSession_who (s : State) (num : Nat) : (State.loseSession s num).who = s.who := by
  simp [State.loseSession]

@[simp] theorem State.nedEnterDoubt_who (s : State) (k cause : Nat) : (State.nedEnterDoubt s k cause).who = s.who := by
  unfold State.nedEnterDoubt; simp only [State.who, Who.mk.injEq] <;> simp [↓who_mk, who_eqs]

@[simp] theorem State.raiseQ_who (s : State) (fold key : Nat) (ds : List (Nat × Nat)) : (State.raiseQ s fold key ds).who = s.who := by
  simp [State.raiseQ]

@[simp] theorem State.freeSlot_who (s : State) (x lane : Nat) (vc : Bool) : (State.freeSlot s x lane vc).who = s.who := by
  simp [State.freeSlot]

@[simp] theorem State.medSend_who (s : State) (k : Nat) (out : List (MedPort × Flit)) : (State.medSend s k out).who = s.who := by
  simp [State.medSend]

@[simp] theorem State.medEnterDoubt_who (s : State) (k cause : Nat) : (State.medEnterDoubt s k cause).who = s.who := by
  simp [State.medEnterDoubt]

@[simp] theorem State.revokeSpan_who (s : State) (fold : Nat) (reconf : Bool) : (State.revokeSpan s fold reconf).who = s.who := by
  simp [State.revokeSpan]

@[simp] theorem State.spdEnterDoubt_who (s : State) (i cause : Nat) : (State.spdEnterDoubt s i cause).who = s.who := by
  simp [State.spdEnterDoubt]

@[simp] theorem State.dieCutOff_who (s : State) (d : Nat) : (State.dieCutOff s d).who = s.who := by
  simp [State.dieCutOff]

@[simp] theorem State.makeHole_who (s : State) (n cause : Nat) (quiet : Bool) : (State.makeHole s n cause quiet).who = s.who := by
  simp [State.makeHole]

@[simp] theorem State.stageOnSequence_who (s : State) (f : Nat) : (State.stageOnSequence s f).who = s.who := by
  simp [State.stageOnSequence]

@[simp] theorem State.powerRun_who (s : State) (n : Nat) : (State.powerRun s n).who = s.who := by
  unfold State.powerRun; simp only [State.who, Who.mk.injEq] <;> simp [↓who_mk, who_eqs]

@[simp] theorem State.dropBuffers_who (s : State) (n : Nat) (fold : Option Nat) : (State.dropBuffers s n fold).who = s.who := by
  simp [State.dropBuffers]

@[simp] theorem State.revokeFold_who (s : State) (n fold : Nat) : (State.revokeFold s n fold).who = s.who := by
  simp [State.revokeFold]

@[simp] theorem State.hurdleFor_who (s : State) (n fold : Nat) : (State.hurdleFor s n fold).who = s.who := by
  simp [State.hurdleFor]

@[simp] theorem State.startRouter_who (s : State) (n : Nat) : (State.startRouter s n).who = s.who := by
  simp [State.startRouter]

@[simp] theorem State.shearPad_who (s : State) (n : Nat) : (State.shearPad s n).who = s.who := by
  simp [State.shearPad]

@[simp] theorem State.shearSlot_who (s : State) (n k fold : Nat) : (State.shearSlot s n k fold).who = s.who := by
  simp [State.shearSlot]

@[simp] theorem State.leasePads_who (s : State) (id : Nat) (excl : List Nat) (slots : List (Nat × Nat)) : (State.leasePads s id excl slots).who = s.who := by
  simp [State.leasePads]

@[simp] theorem State.settleUnleased_who (s : State) (n : Nat) : (State.settleUnleased s n).who = s.who := by
  unfold State.settleUnleased
  dsimp only
  (repeat' split) <;> first | rfl | (simp; done) | (simp only [State.who, Who.mk.injEq] <;> simp [↓who_mk, who_eqs])

@[simp] theorem State.unleasePad_who (s : State) (n fold : Nat) : (State.unleasePad s n fold).who = s.who := by
  simp [State.unleasePad]

@[simp] theorem State.unleaseSlot_who (s : State) (n k fold : Nat) : (State.unleaseSlot s n k fold).who = s.who := by
  simp [State.unleaseSlot]

@[simp] theorem State.revokePages_who (s : State) (ps : List (Nat × Nat)) : (State.revokePages s ps).who = s.who := by
  simp [State.revokePages]

@[simp] theorem State.refuseAll_who (s : State) (p : Nat → Req → Bool) (reason : Nat) : (State.refuseAll s p reason).who = s.who := by
  simp [State.refuseAll]

@[simp] theorem State.waferOut_who (s : State) (fold reason : Nat) : (State.waferOut s fold reason).who = s.who := by
  simp [State.waferOut]

@[simp] theorem State.syncPause_who (s : State) : (State.syncPause s).who = s.who := by
  unfold State.syncPause
  (repeat' split) <;> first | (simp; done) | (simp only [State.who, Who.mk.injEq] <;> simp [↓who_mk, who_eqs])

@[simp] theorem State.finishRelease_who (s : State) (f : Fold) : (State.finishRelease s f).who = s.who := by
  unfold State.finishRelease; simp only [State.who, Who.mk.injEq] <;> simp [↓who_mk, who_eqs]

@[simp] theorem State.releaseStep_who (s : State) (id : Nat) : (State.releaseStep s id).who = s.who := by
  unfold State.releaseStep
  (repeat' split) <;> simp

@[simp] theorem State.takeOut_who (s : State) (id : Nat) (ps : List Nat) (qs : List (Nat × Nat)) (is : List Nat) : (State.takeOut s id ps qs is).who = s.who := by
  unfold State.takeOut
  (repeat' split) <;> simp

@[simp] theorem State.clearFold_who (s : State) (f : Fold) : (State.clearFold s f).who = s.who := by
  simp [State.clearFold]

@[simp] theorem State.returnAdded_who (s : State) (id : Nat) : (State.returnAdded s id).who = s.who := by
  unfold State.returnAdded
  (repeat' split) <;> simp

@[simp] theorem State.freeStaged_who (s : State) (cs : List (Nat × Nat)) : (State.freeStaged s cs).who = s.who := by
  simp [State.freeStaged]

@[simp] theorem State.loadFail_who (s : State) (id code : Nat) (cause : Option String) : (State.loadFail s id code cause).who = s.who := by
  unfold State.loadFail
  (repeat' split) <;> first | (simp; done) | (simp only [State.who, Who.mk.injEq] <;> simp [↓who_mk, who_eqs])

@[simp] theorem State.moveLease_who (s : State) (id n t : Nat) (tr : Trigger) : (State.moveLease s id n t tr).who = s.who := by
  simp [State.moveLease]

@[simp] theorem State.dropSource_who (s : State) (n : Nat) : (State.dropSource s n).who = s.who := by
  simp [State.dropSource]

@[simp] theorem State.markFailed_who (s : State) (ns : List Nat) (tr : Trigger) : (State.markFailed s ns tr).who = s.who := by
  simp [State.markFailed]

@[simp] theorem State.raiseYoke_who (s : State) (f : Fold) (n : Nat) : (State.raiseYoke s f n).who = s.who := by
  unfold State.raiseYoke
  (repeat' split) <;> simp

@[simp] theorem State.notify_who (s : State) (id : Nat) (next : FoldState) : (State.notify s id next).who = s.who := by
  unfold State.notify; simp only [State.who, Who.mk.injEq] <;> simp [↓who_mk, who_eqs]

@[simp] theorem State.foldBell_who (s : State) (id : Nat) (st : String) (tr : Trigger) (place : Nat) (kv : KVs) : (State.foldBell s id st tr place kv).who = s.who := by
  unfold State.foldBell; simp only [State.who, Who.mk.injEq] <;> simp [↓who_mk, who_eqs]

@[simp] theorem State.stopFold_who (s : State) (id : Nat) (tr : Trigger) (place : Nat) (kv : KVs) : (State.stopFold s id tr place kv).who = s.who := by
  simp [State.stopFold]

@[simp] theorem State.enterMigrating_who (s : State) (f : Fold) (r : Recovery) : (State.enterMigrating s f r).who = s.who := by
  simp [State.enterMigrating]

@[simp] theorem State.startRestart_who (s : State) (id : Nat) (tr : Trigger) (place : Nat) : (State.startRestart s id tr place).who = s.who := by
  unfold State.startRestart
  (repeat' split) <;> simp

@[simp] theorem State.startMigration_who (s : State) (id : Nat) (failed : List Nat) (tr : Trigger) (place : Nat) : (State.startMigration s id failed tr place).who = s.who := by
  unfold State.startMigration
  (repeat' split) <;> simp

@[simp] theorem State.recoverAgain_who (s : State) : (State.recoverAgain s).who = s.who := by
  unfold State.recoverAgain
  refine foldl_who _ (fun _ _ => ?_) _ _
  (repeat' split) <;> simp

@[simp] theorem State.dropMaster_who (s : State) : (State.dropMaster s).who = s.who := by
  unfold State.dropMaster; simp only [State.who, Who.mk.injEq] <;> simp [↓who_mk, who_eqs]

@[simp] theorem State.bootAgain_who (s : State) : (State.bootAgain s).who = s.who := by
  unfold State.bootAgain
  (repeat' split) <;> first | (simp; done) | (simp only [State.who, Who.mk.injEq] <;> simp [↓who_mk, who_eqs])

@[simp] theorem State.retriesAgain_who (s : State) : (State.retriesAgain s).who = s.who := by
  simp [State.retriesAgain]

end Sys2Proof.Machine

/-! What leaves the sessions alone, as in Laws/. -/
namespace Sys2Proof.Machine

open Sys2Proof

/-- Whether a session is up, and what it has said. -/
def CSess.voice (c : CSess) : Bool × List Out := (c.up, c.out)

/-- What the sessions have said, which most operations leave alone. -/
structure Talk where
  voices : List (Bool × List Out)

def State.talk (s : State) : Talk :=
  ⟨s.sess.map CSess.voice⟩

theorem talk_mk (now) (freeCtr) (resetN) (pwrFail) (pwrFailAt) (frozen) (faultN) (alertN) (alertCause) (ready)
    (readyAt) (vstby) (fuses) (flash) (writing) (place) (net) (boot) (sel) (quiet) (active) (shcA) (shcB) (mirrorSeq)
    (mirrorProbe) (scratch) (sess) (con0) (con1) (waits) (garp) (stages) (nextStage) (retained) (fwUpdate) (bellSeq)
    (bells) (ledgerSeq) (ledgerHeld) (ledgerStopped) (ptpPort) (ptpHeard) (tallies) (busA) (busB) (shared) (telem)
    (unreach) (refAbsent) (refSince) (meshLocked) (inlet) (outlet) (loopSince) (wave) (lastWave) (map) (mapSeq) (pads)
    (fields) (links) (lane0) (neds) (meds) (spds) (nedTemp) (spdTemp) (medTemp) (flockUp) (flockMembers) (flockInfo)
    (excludedW) (folds) (scrubs) (paused) (secondAt) (incCtr) (channels) (sessions) (reports) (notices) (wsel) (wstat)
    (shadow) (taps) (wire) (pending) : (State.mk now freeCtr resetN pwrFail pwrFailAt frozen faultN alertN alertCause
    ready readyAt vstby fuses flash writing place net boot sel quiet active shcA shcB mirrorSeq mirrorProbe scratch
    sess con0 con1 waits garp stages nextStage retained fwUpdate bellSeq bells ledgerSeq ledgerHeld ledgerStopped
    ptpPort ptpHeard tallies busA busB shared telem unreach refAbsent refSince meshLocked inlet outlet loopSince wave
    lastWave map mapSeq pads fields links lane0 neds meds spds nedTemp spdTemp medTemp flockUp flockMembers flockInfo
    excludedW folds scrubs paused secondAt incCtr channels sessions reports notices wsel wstat shadow taps wire
    pending).talk =
    ⟨sess.map CSess.voice⟩ := rfl

theorem talk_eqs : (∀ s : State, s.sess.map CSess.voice = s.talk.voices) := by
  intros
  rfl

@[simp] theorem ite_talk (c : Prop) [Decidable c] (a b : State) : (if c then a else b).talk = if c then a.talk else b.talk := by
  split <;> rfl

@[simp] theorem foldl_talk {α : Type} (f : State → α → State) (h : ∀ s a, (f s a).talk = s.talk) (l : List α) (s : State) :
    (l.foldl f s).talk = s.talk := by
  induction l generalizing s with
  | nil => rfl
  | cons x xs ih => simp [ih, h]

theorem ite_eq_talk {c : Prop} [Decidable c] {a b : State} {r : Talk} (ha : a.talk = r) (hb : b.talk = r) :
    (if c then a else b).talk = r := by
  split <;> assumption

theorem wire_talk (a : State) (w : List Wire) : ({ a with wire := w } : State).talk = a.talk := rfl

theorem meds_talk (a : State) (l : List Med) (h : l.length = a.meds.length) : ({ a with meds := l } : State).talk = a.talk := rfl

theorem heard_talk (a : State) (o : Option Time) : ({ a with ptpHeard := o } : State).talk = a.talk := rfl

theorem fw_talk (a : State) (w : FwUpdate) : ({ a with fwUpdate := w } : State).talk = a.talk := rfl

@[simp] theorem State.tick_talk (s : State) (t : Time) : (s.tick t).talk = s.talk := rfl

@[simp] theorem State.setPad_talk (s : State) (n : Nat) (p : Paddock) : (State.setPad s n p).talk = s.talk := by
  unfold State.setPad; simp only [State.talk, Talk.mk.injEq] <;> simp [↓talk_mk, talk_eqs]

@[simp] theorem State.modPad_talk (s : State) (n : Nat) (f : Paddock → Paddock) : (State.modPad s n f).talk = s.talk := by
  simp [State.modPad]

@[simp] theorem State.setField_talk (s : State) (f : Nat) (x : Field) : (State.setField s f x).talk = s.talk := by
  unfold State.setField; simp only [State.talk, Talk.mk.injEq] <;> simp [↓talk_mk, talk_eqs]

@[simp] theorem State.modField_talk (s : State) (f : Nat) (g : Field → Field) : (State.modField s f g).talk = s.talk := by
  simp [State.modField]

@[simp] theorem State.setNed_talk (s : State) (k : Nat) (x : Ned) : (State.setNed s k x).talk = s.talk := by
  unfold State.setNed; simp only [State.talk, Talk.mk.injEq] <;> simp [↓talk_mk, talk_eqs]

@[simp] theorem State.modNed_talk (s : State) (k : Nat) (f : Ned → Ned) : (State.modNed s k f).talk = s.talk := by
  simp [State.modNed]

@[simp] theorem State.setMed_talk (s : State) (k : Nat) (x : Med) : (State.setMed s k x).talk = s.talk := by
  unfold State.setMed; simp only [State.talk, Talk.mk.injEq] <;> simp [↓talk_mk, talk_eqs]

@[simp] theorem State.modMed_talk (s : State) (k : Nat) (f : Med → Med) : (State.modMed s k f).talk = s.talk := by
  simp [State.modMed]

@[simp] theorem State.setSpd_talk (s : State) (k : Nat) (x : Spd) : (State.setSpd s k x).talk = s.talk := by
  unfold State.setSpd; simp only [State.talk, Talk.mk.injEq] <;> simp [↓talk_mk, talk_eqs]

@[simp] theorem State.modSpd_talk (s : State) (k : Nat) (f : Spd → Spd) : (State.modSpd s k f).talk = s.talk := by
  simp [State.modSpd]

@[simp] theorem State.setShc_talk (s : State) (i : Nat) (x : Shc) : (State.setShc s i x).talk = s.talk := by
  unfold State.setShc; simp only [State.talk, Talk.mk.injEq] <;> simp [↓talk_mk, talk_eqs]

@[simp] theorem State.modShc_talk (s : State) (i : Nat) (f : Shc → Shc) : (State.modShc s i f).talk = s.talk := by
  simp [State.modShc]

@[simp] theorem State.setLink_talk (s : State) (x lane : Nat) (l : LinkEnd) : (State.setLink s x lane l).talk = s.talk := by
  unfold State.setLink; simp only [State.talk, Talk.mk.injEq] <;> simp [↓talk_mk, talk_eqs]

@[simp] theorem State.modLink_talk (s : State) (x lane : Nat) (f : LinkEnd → LinkEnd) : (State.modLink s x lane f).talk = s.talk := by
  simp [State.modLink]

@[simp] theorem State.setEntry_talk (s : State) (n : Nat) (e : MapEntry) : (State.setEntry s n e).talk = s.talk := by
  unfold State.setEntry; simp only [State.talk, Talk.mk.injEq] <;> simp [↓talk_mk, talk_eqs]

@[simp] theorem State.modFold_talk (s : State) (id : Nat) (g : Fold → Fold) : (State.modFold s id g).talk = s.talk := by
  unfold State.modFold; simp only [State.talk, Talk.mk.injEq] <;> simp [↓talk_mk, talk_eqs]

@[simp] theorem State.setSession_talk (s : State) (num : Nat) (x : Session) : (State.setSession s num x).talk = s.talk := by
  unfold State.setSession; simp only [State.talk, Talk.mk.injEq] <;> simp [↓talk_mk, talk_eqs]

@[simp] theorem State.addTally_talk (s : State) (scope : TScope) (id idx n : Nat) : (State.addTally s scope id idx n).talk = s.talk := by
  unfold State.addTally; simp only [State.talk, Talk.mk.injEq] <;> simp [↓talk_mk, talk_eqs]

@[simp] theorem State.count_talk (s : State) (scope : TScope) (id idx : Nat) : (State.count s scope id idx).talk = s.talk := by
  simp [State.count]

@[simp] theorem State.noteStray_talk (s : State) (fold : Nat) : (State.noteStray s fold).talk = s.talk := by
  simp [State.noteStray]

@[simp] theorem State.countChan_talk (s : State) (ned bind handle idx n : Nat) : (State.countChan s ned bind handle idx n).talk = s.talk := by
  simp [State.countChan]

@[simp] theorem State.setFoldSt_talk (s : State) (id : Nat) (st : FoldState) : (State.setFoldSt s id st).talk = s.talk := by
  unfold State.setFoldSt; simp only [State.talk, Talk.mk.injEq] <;> simp [↓talk_mk, talk_eqs]

@[simp] theorem State.ring_talk (s : State) (obj : String) (fault : Bool) (kv : KVs) : (s.ring obj fault kv).talk = s.talk := by
  unfold State.ring
  split
  · rfl
  · refine (State.addTally_talk _ _ _ _ _).trans (congrArg Talk.mk ?_)
    rw [List.map_map]
    refine List.map_congr_left fun c _ => ?_
    simp only [Function.comp_apply]
    split
    · unfold CSess.queue
      split <;> rfl
    · rfl

@[simp] theorem State.report_talk (s : State) (tr : Trigger) (folds : List Nat) (place : Nat) : (State.report s tr folds place).talk = s.talk := by
  unfold State.report; simp only [State.talk, Talk.mk.injEq] <;> simp [↓talk_mk, talk_eqs]

@[simp] theorem State.goDark_talk (s : State) (n : Nat) : (State.goDark s n).talk = s.talk := by
  unfold State.goDark; simp only [State.talk, Talk.mk.injEq] <;> simp [↓talk_mk, talk_eqs]

@[simp] theorem State.enqueueWave_talk (s : State) (n : Nat) (goal : Power) : (State.enqueueWave s n goal).talk = s.talk := by
  unfold State.enqueueWave; simp only [State.talk, Talk.mk.injEq] <;> simp [↓talk_mk, talk_eqs]

@[simp] theorem State.dissolveYoke_talk (s : State) (n : Nat) : (State.dissolveYoke s n).talk = s.talk := by
  simp [State.dissolveYoke]

@[simp] theorem State.markHole_talk (s : State) (n cause : Nat) (quiet : Bool) : (State.markHole s n cause quiet).talk = s.talk := by
  unfold State.markHole; simp only [State.talk, Talk.mk.injEq] <;> simp [↓talk_mk, talk_eqs]

@[simp] theorem State.dieBell_talk (s : State) (obj : String) (k cause : Nat) : (State.dieBell s obj k cause).talk = s.talk := by
  unfold State.dieBell; simp only [State.talk, Talk.mk.injEq] <;> simp [↓talk_mk, talk_eqs]

@[simp] theorem State.reinject_talk (s : State) : (State.reinject s).talk = s.talk := by
  simp [State.reinject]

@[simp] theorem State.pmbus_talk (s : State) (addr page cmd data : Nat) : (State.pmbus s addr page cmd data).talk = s.talk := by
  unfold State.pmbus; simp only [State.talk, Talk.mk.injEq] <;> simp [↓talk_mk, talk_eqs]

/-- What an event leaves alone, its moment aside. -/
theorem State.event_talk (s : State) (t : Time) (c : State → Bool) (f : State → State)
    (h : c (s.tick t) = true → (f (s.tick t)).talk = s.talk) : (s.event t c f).talk = s.talk := by
  unfold State.event
  split
  · rename_i g
    exact h (by simpa using (Bool.and_eq_true _ _ ▸ g).2)
  · rfl

@[simp] theorem State.mirror_talk (s : State) : (State.mirror s).talk = s.talk := by
  unfold State.mirror
  (repeat' split) <;> first | (simp; done) | (simp only [State.talk, Talk.mk.injEq] <;> simp [↓talk_mk, talk_eqs])

@[simp] theorem State.syncCredits_talk (s : State) (x lane : Nat) : (State.syncCredits s x lane).talk = s.talk := by
  unfold State.syncCredits
  (repeat' split) <;> simp

@[simp] theorem State.syncBorders_talk (s : State) (n : Nat) : (State.syncBorders s n).talk = s.talk := by
  unfold State.syncBorders
  dsimp only
  (repeat' split) <;> first | rfl | (simp (disch := (intros; (repeat' split) <;> simp)); done) | (simp only [State.talk, Talk.mk.injEq] <;> simp (disch := (intros; (repeat' split) <;> simp)) [↓talk_mk, talk_eqs])

@[simp] theorem State.sessMod_talk (s : State) (r : Req) (f : Session → Session) : (State.sessMod s r f).talk = s.talk := by
  unfold State.sessMod
  (repeat' split) <;> simp

@[simp] theorem State.countReq_talk (s : State) (k : Nat) (r : Req) (idx n : Nat) : (State.countReq s k r idx n).talk = s.talk := by
  simp [State.countReq]

@[simp] theorem State.countReply_talk (s : State) (k : Nat) (r : Req) (back : Bool) : (State.countReply s k r back).talk = s.talk := by
  unfold State.countReply
  (repeat' split) <;> simp

@[simp] theorem State.endReq_talk (s : State) (k : Nat) (r : Req) : (State.endReq s k r).talk = s.talk := by
  simp [State.endReq]

@[simp] theorem State.closeTag_talk (s : State) (k : Nat) (r : Req) (stray : Bool) : (State.closeTag s k r stray).talk = s.talk := by
  simp [State.closeTag]

@[simp] theorem State.releaseFcs_talk (s : State) (k : Nat) (r : Req) : (State.releaseFcs s k r).talk = s.talk := by
  unfold State.releaseFcs; simp only [State.talk, Talk.mk.injEq] <;> simp [↓talk_mk, talk_eqs]

@[simp] theorem State.startReply_talk (s : State) (k : Nat) (r : Req) (rep : Reply) (at_ : Time) : (State.startReply s k r rep at_).talk = s.talk := by
  unfold State.startReply; simp only [State.talk, Talk.mk.injEq] <;> simp [↓talk_mk, talk_eqs]

@[simp] theorem State.compose_talk (s : State) (k : Nat) (r : Req) (rep : Reply) : (State.compose s k r rep).talk = s.talk := by
  unfold State.compose
  dsimp only
  (repeat' split) <;> simp

@[simp] theorem State.stomp_talk (s : State) (k : Nat) (r : Req) (whole : Bool) : (State.stomp s k r whole).talk = s.talk := by
  unfold State.stomp; simp only [State.talk, Talk.mk.injEq] <;> simp [↓talk_mk, talk_eqs]

@[simp] theorem State.unsend_talk (s : State) (k : Nat) (r : Req) : (State.unsend s k r).talk = s.talk := by
  unfold State.unsend; simp only [State.talk, Talk.mk.injEq] <;> simp [↓talk_mk, talk_eqs]

@[simp] theorem State.stompSent_talk (s : State) (k : Nat) (r : Req) : (State.stompSent s k r).talk = s.talk := by
  simp [State.stompSent]

@[simp] theorem State.refuseReq_talk (s : State) (k : Nat) (r : Req) (reason : Nat) : (State.refuseReq s k r reason).talk = s.talk := by
  simp [State.refuseReq]

@[simp] theorem State.dropReq_talk (s : State) (k : Nat) (r : Req) : (State.dropReq s k r).talk = s.talk := by
  simp [State.dropReq]

@[simp] theorem State.loseSession_talk (s : State) (num : Nat) : (State.loseSession s num).talk = s.talk := by
  simp [State.loseSession]

@[simp] theorem State.raiseQ_talk (s : State) (fold key : Nat) (ds : List (Nat × Nat)) : (State.raiseQ s fold key ds).talk = s.talk := by
  simp [State.raiseQ]

@[simp] theorem State.freeSlot_talk (s : State) (x lane : Nat) (vc : Bool) : (State.freeSlot s x lane vc).talk = s.talk := by
  simp [State.freeSlot]

@[simp] theorem State.medSend_talk (s : State) (k : Nat) (out : List (MedPort × Flit)) : (State.medSend s k out).talk = s.talk := by
  simp [State.medSend]

@[simp] theorem State.medEnterDoubt_talk (s : State) (k cause : Nat) : (State.medEnterDoubt s k cause).talk = s.talk := by
  simp [State.medEnterDoubt]

@[simp] theorem State.revokeSpan_talk (s : State) (fold : Nat) (reconf : Bool) : (State.revokeSpan s fold reconf).talk = s.talk := by
  simp [State.revokeSpan]

@[simp] theorem State.spdEnterDoubt_talk (s : State) (i cause : Nat) : (State.spdEnterDoubt s i cause).talk = s.talk := by
  simp [State.spdEnterDoubt]

@[simp] theorem State.stageOnSequence_talk (s : State) (f : Nat) : (State.stageOnSequence s f).talk = s.talk := by
  simp [State.stageOnSequence]

@[simp] theorem State.powerRun_talk (s : State) (n : Nat) : (State.powerRun s n).talk = s.talk := by
  unfold State.powerRun; simp only [State.talk, Talk.mk.injEq] <;> simp [↓talk_mk, talk_eqs]

@[simp] theorem State.dropBuffers_talk (s : State) (n : Nat) (fold : Option Nat) : (State.dropBuffers s n fold).talk = s.talk := by
  simp [State.dropBuffers]

@[simp] theorem State.revokeFold_talk (s : State) (n fold : Nat) : (State.revokeFold s n fold).talk = s.talk := by
  simp [State.revokeFold]

@[simp] theorem State.hurdleFor_talk (s : State) (n fold : Nat) : (State.hurdleFor s n fold).talk = s.talk := by
  simp [State.hurdleFor]

@[simp] theorem State.startRouter_talk (s : State) (n : Nat) : (State.startRouter s n).talk = s.talk := by
  simp [State.startRouter]

@[simp] theorem State.shearPad_talk (s : State) (n : Nat) : (State.shearPad s n).talk = s.talk := by
  simp [State.shearPad]

@[simp] theorem State.shearSlot_talk (s : State) (n k fold : Nat) : (State.shearSlot s n k fold).talk = s.talk := by
  simp [State.shearSlot]

@[simp] theorem State.leasePads_talk (s : State) (id : Nat) (excl : List Nat) (slots : List (Nat × Nat)) : (State.leasePads s id excl slots).talk = s.talk := by
  simp [State.leasePads]

@[simp] theorem State.settleUnleased_talk (s : State) (n : Nat) : (State.settleUnleased s n).talk = s.talk := by
  unfold State.settleUnleased
  dsimp only
  (repeat' split) <;> first | rfl | (simp; done) | (simp only [State.talk, Talk.mk.injEq] <;> simp [↓talk_mk, talk_eqs])

@[simp] theorem State.unleasePad_talk (s : State) (n fold : Nat) : (State.unleasePad s n fold).talk = s.talk := by
  simp [State.unleasePad]

@[simp] theorem State.unleaseSlot_talk (s : State) (n k fold : Nat) : (State.unleaseSlot s n k fold).talk = s.talk := by
  simp [State.unleaseSlot]

@[simp] theorem State.revokePages_talk (s : State) (ps : List (Nat × Nat)) : (State.revokePages s ps).talk = s.talk := by
  simp [State.revokePages]

@[simp] theorem State.refuseAll_talk (s : State) (p : Nat → Req → Bool) (reason : Nat) : (State.refuseAll s p reason).talk = s.talk := by
  simp [State.refuseAll]

@[simp] theorem State.waferOut_talk (s : State) (fold reason : Nat) : (State.waferOut s fold reason).talk = s.talk := by
  simp [State.waferOut]

@[simp] theorem State.syncPause_talk (s : State) : (State.syncPause s).talk = s.talk := by
  unfold State.syncPause
  (repeat' split) <;> first | (simp; done) | (simp only [State.talk, Talk.mk.injEq] <;> simp [↓talk_mk, talk_eqs])

@[simp] theorem State.takeOut_talk (s : State) (id : Nat) (ps : List Nat) (qs : List (Nat × Nat)) (is : List Nat) : (State.takeOut s id ps qs is).talk = s.talk := by
  unfold State.takeOut
  (repeat' split) <;> simp

@[simp] theorem State.clearFold_talk (s : State) (f : Fold) : (State.clearFold s f).talk = s.talk := by
  simp [State.clearFold]

@[simp] theorem State.returnAdded_talk (s : State) (id : Nat) : (State.returnAdded s id).talk = s.talk := by
  unfold State.returnAdded
  (repeat' split) <;> simp

@[simp] theorem State.freeStaged_talk (s : State) (cs : List (Nat × Nat)) : (State.freeStaged s cs).talk = s.talk := by
  simp [State.freeStaged]

@[simp] theorem State.loadFail_talk (s : State) (id code : Nat) (cause : Option String) : (State.loadFail s id code cause).talk = s.talk := by
  unfold State.loadFail
  (repeat' split) <;> first | (simp; done) | (simp only [State.talk, Talk.mk.injEq] <;> simp [↓talk_mk, talk_eqs])

@[simp] theorem State.dropSource_talk (s : State) (n : Nat) : (State.dropSource s n).talk = s.talk := by
  simp [State.dropSource]

@[simp] theorem State.raiseYoke_talk (s : State) (f : Fold) (n : Nat) : (State.raiseYoke s f n).talk = s.talk := by
  unfold State.raiseYoke
  (repeat' split) <;> simp

@[simp] theorem State.notify_talk (s : State) (id : Nat) (next : FoldState) : (State.notify s id next).talk = s.talk := by
  unfold State.notify; simp only [State.talk, Talk.mk.injEq] <;> simp [↓talk_mk, talk_eqs]

@[simp] theorem State.foldBell_talk (s : State) (id : Nat) (st : String) (tr : Trigger) (place : Nat) (kv : KVs) : (State.foldBell s id st tr place kv).talk = s.talk := by
  unfold State.foldBell; simp only [State.talk, Talk.mk.injEq] <;> simp [↓talk_mk, talk_eqs]

@[simp] theorem State.stopFold_talk (s : State) (id : Nat) (tr : Trigger) (place : Nat) (kv : KVs) : (State.stopFold s id tr place kv).talk = s.talk := by
  simp [State.stopFold]

@[simp] theorem State.enterMigrating_talk (s : State) (f : Fold) (r : Recovery) : (State.enterMigrating s f r).talk = s.talk := by
  simp [State.enterMigrating]

@[simp] theorem State.startRestart_talk (s : State) (id : Nat) (tr : Trigger) (place : Nat) : (State.startRestart s id tr place).talk = s.talk := by
  unfold State.startRestart
  (repeat' split) <;> simp

@[simp] theorem State.bootAgain_talk (s : State) : (State.bootAgain s).talk = s.talk := by
  unfold State.bootAgain
  (repeat' split) <;> first | (simp; done) | (simp only [State.talk, Talk.mk.injEq] <;> simp [↓talk_mk, talk_eqs])

@[simp] theorem State.retriesAgain_talk (s : State) : (State.retriesAgain s).talk = s.talk := by
  simp [State.retriesAgain]

end Sys2Proof.Machine

/-! The controllers take over (R682, R737–R741, R781). -/
namespace Sys2Proof.Machine

open Sys2Proof

/-! A session goes on speaking. -/

theorem Speaks.of_talk {s t u : State} {i : Nat} (h : Speaks s t i) (e : u.talk = t.talk) : Speaks s u i := by
  have voices : u.sess.map CSess.voice = t.sess.map CSess.voice := congrArg Talk.voices e
  have voice (v : State) : (v.cs i).voice = (v.sess.map CSess.voice)[i]?.getD (CSess.initial false).voice := by
    rw [List.getElem?_map]
    exact (Option.getD_map CSess.voice (CSess.initial false) _).symm
  have same : (u.cs i).voice = (t.cs i).voice := by rw [voice, voice, voices]
  have length : u.sess.length = t.sess.length := by simpa using congrArg List.length voices
  obtain ⟨low, up, pre, out⟩ := h
  exact ⟨length ▸ low, (congrArg Prod.fst same).trans up, pre, (congrArg Prod.snd same).trans out⟩

theorem Speaks.foldl {α : Type} {s t : State} {i : Nat} {f : State → α → State} (h : Speaks s t i) (l : List α)
    (step : ∀ t a, Speaks s t i → Speaks s (f t a) i) : Speaks s (l.foldl f t) i := foldl_inv l (P := fun u => Speaks s u i) h step

theorem Speaks.nedEnterDoubt {s t : State} {i : Nat} (h : Speaks s t i) (k cause : Nat) : Speaks s (t.nedEnterDoubt k cause) i := by
  unfold State.nedEnterDoubt
  split
  · exact h
  · extract_lets s1 s2 s3 nums s4 mine
    have quiet : s4.talk = t.talk := by
      have lost : s4.talk = s3.talk := foldl_eq State.talk _ _ fun t n _ => by simp
      have stomped : s1.talk = t.talk := foldl_eq State.talk _ _ fun t r _ => by simp
      have closed : s3.talk = s2.talk := rfl
      rw [lost, closed, State.modNed_talk, stomped]
    have settled := (h.of_talk quiet).settle mine (.err 404 [("object", .word "ned"), ("state", .word "doubt")])
    exact settled.of_talk (by simp)

theorem Speaks.dieCutOff {s t : State} {i : Nat} (h : Speaks s t i) (d : Nat) : Speaks s (t.dieCutOff d) i := by
  unfold State.dieCutOff
  split
  · split
    · exact h.nedEnterDoubt _ _
    · exact h.of_talk (by (repeat' split) <;> simp)
  · exact h

theorem Speaks.makeHole {s t : State} {i : Nat} (h : Speaks s t i) (n cause : Nat) (quiet : Bool) : Speaks s (t.makeHole n cause quiet) i :=
  (h.of_talk (State.markHole_talk _ _ _ _)).foldl _ fun _ d k => k.dieCutOff d

theorem Speaks.markFailed {s t : State} {i : Nat} (h : Speaks s t i) (ns : List Nat) (tr : Trigger) : Speaks s (t.markFailed ns tr) i :=
  h.foldl _ fun t n k => by
    split
    · exact k
    · exact (k.of_talk (by simp)).makeHole _ _ _

theorem Speaks.moveLease {s t : State} {i : Nat} (h : Speaks s t i) (id n to_ : Nat) (tr : Trigger) : Speaks s (t.moveLease id n to_ tr) i := by
  unfold State.moveLease
  extract_lets p ks s1 s2 s3 s4
  have quiet : s3.talk = t.talk := by
    have leased : s1.talk = t.talk := by
      simp only [s1]
      split <;> simp
    have marked : s2.talk = s1.talk := by
      simp only [s2]
      split <;> simp
    simp [s3, marked, leased]
  refine Speaks.of_talk (t := s4) ?_ (by simp)
  simp only [s4]
  split
  · exact h.of_talk quiet
  · exact (h.of_talk quiet).makeHole _ _ _

theorem Speaks.startMigration {s t : State} {i : Nat} (h : Speaks s t i) (id : Nat) (failed : List Nat) (tr : Trigger) (place : Nat) :
    Speaks s (t.startMigration id failed tr place) i := by
  unfold State.startMigration
  dsimp only
  split
  · exact h
  · split
    · exact h.of_talk (by simp)
    · split
      · have marked := h.markFailed failed tr
        exact marked.of_talk (by simp)
      · rename_i _ f _ _ _ _ _ picks _
        have yoked : (failed.foldl (fun s n => s.raiseYoke f n) t).talk = t.talk := foldl_eq State.talk _ _ fun t n _ => State.raiseYoke_talk _ _ _
        have moved : Speaks s (picks.foldl (fun s q => s.moveLease id q.1 q.2 tr) (failed.foldl (fun s n => s.raiseYoke f n) t)) i :=
          (h.of_talk yoked).foldl picks fun _ q k => k.moveLease id q.1 q.2 tr
        generalize List.foldl _ (List.foldl _ _ _) _ = v at moved
        refine moved.of_talk ?_
        rw [State.enterMigrating_talk]
        split
        · rfl
        · exact foldl_eq State.talk _ _ fun t q _ => State.dropSource_talk t q.1

theorem Speaks.recoverAgain {s t : State} {i : Nat} (h : Speaks s t i) : Speaks s t.recoverAgain i :=
  h.foldl _ fun t f k => by
    split
    · split
      · exact k.of_talk (by simp)
      · exact k.startMigration _ _ _ _
    · exact k

/-- The sessions of a fold that ends are freed, each with its answer (R464). -/
theorem Speaks.freeSessions {s t : State} {i : Nat} (h : Speaks s t i) (nums : List Nat) :
    Speaks s (nums.foldl (fun s n =>
      (s.setSession n Session.initial).settle (fun w => w = .session n) (.ok [("num", .num n), ("state", .word "free")])) t) i :=
  h.foldl nums fun t n k => (k.of_talk (State.setSession_talk t n _)).settle _ _

theorem Speaks.finishRelease {s t : State} {i : Nat} (h : Speaks s t i) (f : Fold) : Speaks s (t.finishRelease f) i := by
  unfold State.finishRelease
  extract_lets id phys s1 s2 s3 s4 s5 nums s6 s7
  have quiet : s5.talk = t.talk := by
    have unleased : s3.talk = s2.talk := by simp [s3]
    have closed : s2.talk = s1.talk := by simp only [s2, State.talk]
    have emptied : s5.talk = s4.talk := by simp only [s5, State.talk]
    rw [emptied, State.revokePages_talk, unleased, closed]
    simp [s1]
  clear_value s5
  have freed : Speaks s s6 i := (h.of_talk quiet).freeSessions nums
  clear_value s6
  have same : s7.sess = s6.sess := by simp only [s7]
  have last : Speaks s s7 i := freed.of_sess same
  clear_value s7
  have paused : Speaks s s7.syncPause.mirror i := last.of_talk (by simp)
  exact paused.settle _ _

theorem Speaks.releaseStep {s t : State} {i : Nat} (h : Speaks s t i) (id : Nat) : Speaks s (t.releaseStep id) i := by
  unfold State.releaseStep
  split
  · exact h.finishRelease _
  · exact h

/-! Taking the role (R682, R683, R737). -/

/-- Console sessions go on speaking under the new controller (R781). -/
theorem Speaks.dropMaster {s t : State} {i : Nat} (h : Speaks s t i) (console : i < 2) : Speaks s t.dropMaster i := by
  unfold State.dropMaster
  extract_lets undone fresh s1 s2
  have first : Speaks s s1 i := by
    obtain ⟨low, up, pre, out⟩ := h
    have voice : (s1.cs i).voice = (t.cs i).voice := by
      simp [s1, State.cs, low, Nat.le_of_lt_succ console, CSess.voice]
    exact ⟨by simpa [s1] using low, (congrArg Prod.fst voice).trans up, pre, (congrArg Prod.snd voice).trans out⟩
  clear_value s1
  have released : Speaks s s2 i := first.foldl undone fun t id k => k.releaseStep id
  clear_value s2
  exact released.of_talk (foldl_eq State.talk _ _ fun t f _ => State.loadFail_talk t f.id 799 (some "takeover"))

theorem Speaks.takeRole {s t : State} {i : Nat} (h : Speaks s t i) (console : i < 2) (j : Nat) : Speaks s (t.takeRole j) i := by
  have dropped : Speaks s t.lateIntervals.dropMaster i := (h.of_sess (u := t.lateIntervals) rfl).dropMaster console
  unfold State.takeRole
  extract_lets s1 s2 s3
  have taken : Speaks s s3 i := (dropped.of_sess (u := s2) (by simp only [s2, s1])).of_talk (State.retriesAgain_talk s2)
  clear_value s3
  split
  · exact taken.recoverAgain
  · exact taken.of_talk (State.bootAgain_talk s3)

theorem shc_of_who {s t : State} (h : t.who = s.who) (j : Nat) : (t.shc j).sansMirror = (s.shc j).sansMirror := by
  unfold State.shc
  split
  · exact congrArg Who.a h
  · exact congrArg Who.b h

theorem State.bootAgain_active (s : State) : s.bootAgain.active = s.active ∧ s.bootAgain.quiet = s.quiet := by
  unfold State.bootAgain
  split <;> exact ⟨rfl, rfl⟩

/-- What a controller that takes the role begins with (R682, R737). -/
theorem State.takeRole_effect (s : State) (i : Nat) : (s.takeRole i).active = some i ∧ (s.takeRole i).quiet = some s.now
    ∧ (∀ j, ((s.takeRole i).shc j).sansMirror = (s.shc j).sansMirror) := by
  unfold State.takeRole
  extract_lets s1 s2 s3
  have now : s1.now = s.now := now_of_core (by simp [s1])
  have who : s3.who = s.who := by
    have on : s2.who = s1.who := by simp only [s2, State.who]
    have late : s.lateIntervals.who = s.who := rfl
    simp [s3, on, s1, late]
  have ctl : s3.ctl = s2.ctl := State.retriesAgain_ctl s2
  have active : s3.active = some i := (congrArg Ctl.active ctl).trans (by simp only [s2, State.ctl])
  have quiet : s3.quiet = some s.now := (congrArg Ctl.quiet ctl).trans (by simp only [s2, State.ctl, now])
  clear_value s3
  split
  · have again : s3.recoverAgain.ctl = s3.ctl := State.recoverAgain_ctl s3
    exact ⟨(congrArg Ctl.active again).trans active, (congrArg Ctl.quiet again).trans quiet, shc_of_who ((State.recoverAgain_who s3).trans who)⟩
  · obtain ⟨active', quiet'⟩ := s3.bootAgain_active
    exact ⟨active'.trans active, quiet'.trans quiet, shc_of_who ((State.bootAgain_who s3).trans who)⟩

/-- What a takeover from a controller in doubt begins with (R682). -/
theorem State.takeOverFrom_effect (s : State) (a : ShcIx) (cause : Nat) :
    (s.takeOverFrom a cause).active = some (1 - a.val) ∧ (s.takeOverFrom a cause).quiet = some s.now
      ∧ ((s.takeOverFrom a cause).shc a).st = .doubt ∧ ((s.takeOverFrom a cause).shc a).cause = cause ∧ (s.takeOverFrom a cause).faultN = true := by
  unfold State.takeOverFrom
  obtain ⟨active, quiet, -⟩ := (s.cutFlash.modShc (1 - a.val) fun c => { c with probe := none }).takeRole_effect (1 - a.val)
  have now : (s.cutFlash.modShc (1 - a.val) fun c => { c with probe := none }).now = s.now := by simp [State.cutFlash]
  rw [now] at quiet
  generalize State.takeRole _ _ = u at active quiet ⊢
  refine ⟨by simpa using active, by simpa using quiet, by simp, by simp, by simp [State.shcDoubt]⟩

/-! Heartbeats (R740, R741). -/

/-- A heartbeat is noted on the paths that carried it, and a path that no longer does is lost (R740). -/
def State.beatNoted (s : State) (i : Nat) (shcl lane0 : Bool) : State :=
  let c := s.shc i
  let s1 := s.setShc i { c with lastBeat := s.now, probe := none, heard := true, viaShcl := shcl, viaLane0 := lane0 }
  let s2 := if c.probe.isSome then s1.count .shc i thPath else s1
  if !shcl then s2.pathLost i (c.viaShcl || !c.heard) "shcl"
  else if !lane0 then s2.pathLost i (c.viaLane0 || !c.heard) "lane0" else s2

/-- What a heartbeat says of the partner (R682, R741, R743). -/
def State.beatJudged (s : State) (i : Nat) (b : Beat) : State :=
  let s4 := s.modShc (1 - i) fun p => { p with mirrorSeq := max p.mirrorSeq b.mirrorSeq, mirrorVersion := b.mirrorVersion, firmware := b.firmware }
  let s5 := if b.mirrorSeq = s4.mirrorSeq then { s4 with mirrorProbe := none } else s4
  let p := s5.shc (1 - i)
  let bad := b.health ≠ 0 || (s5.active = some i && b.mirrorVersion ≠ (s5.shc i).mirrorVersion)
  if bad then (if p.st = .doubt then s5 else s5.shcDoubt (1 - i) 3)
  else if p.st = .absent then s5.modShc (1 - i) fun p => { p with st := .ok, cause := 0 } else s5

@[simp] theorem State.setShc_active (s : State) (i : Nat) (x : Shc) : (s.setShc i x).active = s.active := by
  unfold State.setShc
  split <;> rfl

theorem State.setShc_wire (s : State) (i : Nat) (x : Shc) : (s.setShc i x).wire = s.wire := by
  unfold State.setShc
  split <;> rfl

theorem State.pathLost_kept (s : State) (i : Nat) (newly : Bool) (w : String) :
    (∀ j, (s.pathLost i newly w).shc j = s.shc j) ∧ (s.pathLost i newly w).active = s.active := by
  unfold State.pathLost
  split <;> simp

theorem State.beatNoted_effect (s : State) (i : Nat) (shcl lane0 : Bool) :
    (∀ j, (s.beatNoted i shcl lane0).shc j = if j = 0 ↔ i = 0 then
      { s.shc i with lastBeat := s.now, probe := none, heard := true, viaShcl := shcl, viaLane0 := lane0 } else s.shc j)
      ∧ (s.beatNoted i shcl lane0).active = s.active := by
  unfold State.beatNoted
  extract_lets c s1 s2
  have counted : (∀ j, s2.shc j = s1.shc j) ∧ s2.active = s1.active := by
    simp only [s2]
    split <;> simp
  have set : ∀ j, s1.shc j = if j = 0 ↔ i = 0 then { s.shc i with lastBeat := s.now, probe := none, heard := true, viaShcl := shcl, viaLane0 := lane0 } else s.shc j :=
    fun j => State.setShc_shc _ _ _ _
  have active : s1.active = s.active := State.setShc_active _ _ _
  have whole : ∀ u : State, (∀ j, u.shc j = s2.shc j) ∧ u.active = s2.active → (∀ j, u.shc j = if j = 0 ↔ i = 0 then
      { s.shc i with lastBeat := s.now, probe := none, heard := true, viaShcl := shcl, viaLane0 := lane0 } else s.shc j) ∧ u.active = s.active :=
    fun u k => ⟨fun j => (k.1 j).trans ((counted.1 j).trans (set j)), k.2.trans (counted.2.trans active)⟩
  apply whole
  split
  · exact s2.pathLost_kept _ _ _
  · split
    · exact s2.pathLost_kept _ _ _
    · exact ⟨fun _ => rfl, rfl⟩

theorem State.beatJudged_effect (s : State) {i : Nat} (low : i < 2) (b : Beat) :
    (s.beatJudged i b).shc i = s.shc i ∧ (b.health ≠ 0 → ((s.beatJudged i b).shc (1 - i)).st = .doubt)
      ∧ (b.health = 0 → s.active ≠ some i → (s.shc (1 - i)).st = .absent → ((s.beatJudged i b).shc (1 - i)).st = .ok) := by
  unfold State.beatJudged
  extract_lets s4 s5 p bad
  have other : ¬ (i = 0 ↔ 1 - i = 0) := by omega
  have kept : (∀ j, s5.shc j = s4.shc j) ∧ s5.active = s4.active := by
    simp only [s5]
    split <;> exact ⟨fun _ => rfl, rfl⟩
  have own : s5.shc i = s.shc i := by
    rw [kept.1]
    simp [s4, State.modShc, other]
  have st : p.st = (s.shc (1 - i)).st := by
    simp only [p, kept.1]
    simp [s4, State.modShc]
  have active : s5.active = s.active := kept.2.trans (State.setShc_active _ _ _)
  clear_value s5
  refine ⟨?_, fun ill => ?_, fun well off absent => ?_⟩
  · split
    · split
      · exact own
      · simp [other, own]
    · split
      · simp [State.modShc, other, own]
      · exact own
  · have isBad : bad = true := by simp [bad, ill]
    rw [if_pos isBad]
    split
    · assumption
    · simp
  · have notBad : ¬ bad = true := by simp [bad, well, active, off]
    rw [if_neg notBad, if_pos (st.trans absent)]
    simp [State.modShc]

/-- Settles O13: a takeover is `takeRole`, which moves the role and what the sessions held, and leaves the controllers' own state. -/
theorem controllersTakeOver : Obligations.ControllersTakeOver := by
  refine ⟨fun t s running active => ?alive, fun i t s running here => ?beat, fun i shcl lane0 b t s running path => ?heard,
    fun a t s running active ok idle late => ?miss, fun a p t s running active ok probe late free => ?probe,
    fun a cause t s running active => ?doubt, fun a ln s acc active ok free => ?handover, fun q t s running quiet late => ?quiet, fun ln s acc => ?view⟩
  case alive =>
    refine event_next running (by simpa using active) ⟨rfl, fun n mem => ?_⟩
    obtain ⟨m, -, rfl⟩ := List.mem_map.mp mem
    rfl
  case beat =>
    exact event_next running (by simpa [State.shc] using here) rfl
  case heard =>
    refine event_next (f := fun s => (s.beatNoted i shcl lane0).beatJudged i b) running (by simpa using path) ?_
    obtain ⟨shc, active⟩ := (s.tick t).beatNoted_effect i shcl lane0
    generalize (s.tick t).beatNoted i shcl lane0 = u at shc active
    obtain ⟨own, bad, back⟩ := u.beatJudged_effect i.isLt b
    have other : u.shc (1 - i.val) = s.shc (1 - i.val) := by
      rw [shc, if_neg (by omega)]
      rfl
    have noted := shc i.val
    rw [if_pos Iff.rfl] at noted
    rw [own, noted]
    exact ⟨rfl, rfl, rfl, rfl, bad, fun well off absent => back well (by rw [active]; exact off) (by rw [other]; exact absent)⟩
  case miss =>
    have backup : (s.tick t).backup = some (1 - a.val) := by simp [State.backup, active]
    refine event_next running ?_ ?_
    · simp [backup, ok, idle, late]
    · simp only [backup]
      exact ⟨by simp [State.modShc], by simp [State.modShc, State.setShc_wire]⟩
  case probe =>
    have backup : (s.tick t).backup = some (1 - a.val) := by simp [State.backup, active]
    refine event_next running ?_ ?_
    · simp [backup, ok, probe, late, State.cellFree, free]
    · obtain ⟨active', -, st, cause, fault⟩ := (s.tick t).takeOverFrom_effect a 4
      simp only [State.tick_fields, active]
      exact ⟨active', st, cause, fault⟩
  case doubt =>
    refine event_next running (by simp [active]) ?_
    simp only [State.tick_fields, active]
    by_cases able : (s.shc (1 - a.val)).st = .ok ∧ s.quiet = none
    · obtain ⟨ok, free⟩ := able
      rw [if_pos (by simp [ok, State.cellFree, free])]
      obtain ⟨active', quiet, st, cause', -⟩ := (s.tick t).takeOverFrom_effect a cause
      exact ⟨st, cause', fun _ _ => ⟨active', quiet⟩, fun h => absurd free (h.resolve_left (absurd ok))⟩
    · rw [if_neg (by simpa [State.cellFree] using able)]
      have own : ((((s.tick t).cutFlash.shcDoubt a.val cause).dropMaster).shc a).sansMirror = (((s.tick t).cutFlash.shcDoubt a.val cause).shc a).sansMirror :=
        shc_of_who (State.dropMaster_who _) a.val
      rw [State.shcDoubt_shc, if_pos Iff.rfl] at own
      generalize State.dropMaster _ = u at own
      refine ⟨(congrArg Shc.st own).trans rfl, (congrArg Shc.cause own).trans rfl, fun ok free => absurd ⟨ok, free⟩ able, fun _ => ⟨rfl, rfl⟩⟩
  case handover =>
    refine judged_next acc ?_
    have index : (s.atLine ln).active.getD 0 = a.val := by simp [active]
    simp only [index]
    rw [if_neg (by simp [ok]), if_neg (by simp [State.cellFree, free])]
    obtain ⟨active', quiet, -⟩ := (s.atLine ln).takeRole_effect (1 - a.val)
    rw [State.atLine_now] at quiet
    refine ⟨by simpa using active', by simpa using quiet, fun console => ?_⟩
    exact Answers.ok (acc.speaks.takeRole console _) _
  case quiet =>
    exact event_next running (by simpa [quiet] using late) rfl
  case view =>
    refine judged_next acc ?_
    exact ⟨(OnlySessions.atLine s ln).trans (.parts _ ln _ _), Answers.parts acc.speaks _ []⟩

end Sys2Proof.Machine

/-! The mirror and firmware updates (R742, R743, R757–R761). -/
namespace Sys2Proof.Machine

open Sys2Proof

theorem Answers.of_talk {s t u : State} {ln : Ln} {r : RLine} (h : Answers s t ln r) (k : Speaks s t ln.sess) (e : u.talk = t.talk) :
    Answers s u ln r :=
  h.onward (k.onward.of_talk e)

/-! The restarted controller is back (R759). -/

/-- The controller `i` is back on the image of a slot. -/
def State.backOn (s : State) (i slot : Nat) (w : Firmware) : State :=
  s.modShc i fun c => { c.load slot w s.now with mirrorSeq := s.mirrorSeq }

theorem State.setShc_fwUpdate (s : State) (i : Nat) (x : Shc) : (s.setShc i x).fwUpdate = s.fwUpdate := by
  unfold State.setShc
  split <;> rfl

theorem State.backOn_own (s : State) (i slot : Nat) (w : Firmware) : ((s.backOn i slot w).shc i).st = .ok
    ∧ ((s.backOn i slot w).shc i).slot = slot ∧ ((s.backOn i slot w).shc i).firmware = w.version := by
  simp [State.backOn, State.modShc, Shc.load]

theorem State.addTally_flash (s : State) (scope : TScope) (id idx n : Nat) : (s.addTally scope id idx n).flash = s.flash := by
  unfold State.addTally
  split <;> rfl

/-- The bell of an update that is no fault leaves the flash, and tells nothing else. -/
theorem State.fwBell_kept (s : State) (version : Nat) (kv : KVs) : (s.fwBell false version kv).active = s.active
    ∧ (s.fwBell false version kv).fwUpdate = s.fwUpdate ∧ (∀ j, (s.fwBell false version kv).shc j = s.shc j)
    ∧ (s.fwBell false version kv).flash = s.flash ∧ (s.fwBell false version kv).stages = s.stages := by
  unfold State.fwBell
  refine ⟨by simp, by simp, fun j => by simp, ?_, by simp⟩
  unfold State.ring
  split
  · rfl
  · rw [State.addTally_flash]
    simp

/-- The update is over: the slots are no longer on trial (R759). -/
def State.updateOver (s : State) (f : Flash → Flash) (version : Nat) (kv : KVs) : State :=
  ({ s.modFlash f with fwUpdate := .none }).fwBell false version kv

theorem State.updateOver_effect (s : State) (f : Flash → Flash) (version : Nat) (kv : KVs) : (s.updateOver f version kv).active = s.active
    ∧ (s.updateOver f version kv).fwUpdate = .none ∧ (∀ j, (s.updateOver f version kv).shc j = s.shc j)
    ∧ (s.frozen = false → (s.updateOver f version kv).flash = f s.flash) := by
  obtain ⟨active, update, shc, flash, -⟩ := State.fwBell_kept { s.modFlash f with fwUpdate := .none } version kv
  refine ⟨active.trans (congrArg Ctl.active (State.modFlash_ctl s f)), update, fun j => (shc j).trans ?_, fun thawed => flash.trans ?_⟩
  · unfold State.modFlash
    split <;> rfl
  · simp [State.modFlash, thawed]

/-- The rejoined controller takes the role, and the former one restarts (R759 steps 4 to 6). -/
def State.roleGoes (s : State) (a slot : Nat) (w : Firmware) : State :=
  ({ (s.backOn (1 - a) slot w).takeRole (1 - a) with fwUpdate := .handover slot }).modShc a fun c => { c with st := .absent }

theorem State.roleGoes_effect (s : State) {a : Nat} (low : a < 2) (slot : Nat) (w : Firmware) :
    (s.roleGoes a slot w).active = some (1 - a) ∧ (s.roleGoes a slot w).fwUpdate = .handover slot ∧ ((s.roleGoes a slot w).shc a).st = .absent
      ∧ ((s.roleGoes a slot w).shc (1 - a)).st = .ok ∧ ((s.roleGoes a slot w).shc (1 - a)).slot = slot
      ∧ ((s.roleGoes a slot w).shc (1 - a)).firmware = w.version := by
  have other : ¬ (1 - a = 0 ↔ a = 0) := by omega
  obtain ⟨ok, own, version⟩ := s.backOn_own (1 - a) slot w
  obtain ⟨active, -, who⟩ := (s.backOn (1 - a) slot w).takeRole_effect (1 - a)
  unfold State.roleGoes
  generalize State.takeRole _ _ = u at active who ⊢
  have kept := who (1 - a)
  have st := congrArg Shc.st kept
  have slot' := congrArg Shc.slot kept
  have version' := congrArg Shc.firmware kept
  simp only [Shc.sansMirror] at st slot' version'
  refine ⟨?_, ?_, ?_, ?_, ?_, ?_⟩
  · simpa [State.modShc] using active
  · simp [State.modShc, State.setShc_fwUpdate]
  · simp [State.modShc]
  · simpa [State.modShc, other] using st.trans ok
  · simpa [State.modShc, other] using slot'.trans own
  · simpa [State.modShc, other] using version'.trans version

/-! `update firmware` (R757, R759). -/

/-- An image that verifies goes to the spare slot, on trial, and the backup restarts (R757, R759 steps 1 to 3). -/
def State.slotWritten (s : State) (i : Nat) (w : Firmware) : State :=
  let s2 : State := { s with flash := s.flash.putSlot i w }
  let s3 : State := { s2 with flash := { s2.flash with preferred := i, trial := true }, fwUpdate := .rejoin i s2.now }
  s3.modShc (1 - s3.active.getD 0) fun c => { c with st := .absent }

/-- The update after its answer. -/
def State.updateGoes (s1 : State) (data : List Byte) (sigOk : Bool) (ln : Ln) : State :=
  match firmwareOf data, s1.spareSlot with
  | some w, some i =>
    if !s1.flashTakes ln then s1.fwBell false w.version [("state", .word "refused"), ("cause", .word "flash")]
    else
      let s2 : State := { s1 with flash := s1.flash.putSlot i w }
      if !s2.runs sigOk w then s2.fwBell true w.version [("state", .word "refused"), ("cause", .word "signature")]
      else s1.slotWritten i w
  | some w, none => s1.fwBell false w.version [("state", .word "refused"), ("cause", .word "slot")]
  | none, _ => s1.fwBell true 0 [("state", .word "refused"), ("cause", .word "signature")]

theorem State.setShc_rest (s : State) (i : Nat) (x : Shc) : (s.setShc i x).flash = s.flash ∧ (s.setShc i x).stages = s.stages
    ∧ (s.setShc i x).sess = s.sess := by
  unfold State.setShc
  split <;> exact ⟨rfl, rfl, rfl⟩

theorem State.updateGoes_kept (s : State) (data : List Byte) (sigOk : Bool) (ln : Ln) :
    (s.updateGoes data sigOk ln).talk = s.talk ∧ (s.updateGoes data sigOk ln).stages = s.stages := by
  have bell (u : State) (fault : Bool) (v : Nat) (kv : KVs) : (u.fwBell fault v kv).talk = u.talk ∧ (u.fwBell fault v kv).stages = u.stages := by
    simp [State.fwBell]
  unfold State.updateGoes
  split
  · split
    · exact bell _ _ _ _
    · dsimp only
      split
      · obtain ⟨talk, stages⟩ := bell { s with flash := s.flash.putSlot _ _ } true _ [("state", .word "refused"), ("cause", .word "signature")]
        exact ⟨talk, stages⟩
      · obtain ⟨-, stages, sess⟩ := State.setShc_rest _ _ _
        exact ⟨congrArg (fun l : List CSess => Talk.mk (l.map CSess.voice)) sess, stages⟩
  · exact bell _ _ _ _
  · exact bell _ _ _ _

theorem Flash.slot_putSlot (f : Flash) {i : Nat} (low : i < 2) (w : Firmware) : (f.putSlot i w).slot i = some w := by
  unfold Flash.putSlot Flash.slot
  by_cases e : i = 0
  · simp [e]
  · have one : i = 1 := by omega
    simp [one]

theorem State.slotWritten_effect (s : State) {i : Nat} (low : i < 2) (w : Firmware) : (s.slotWritten i w).fwUpdate = .rejoin i s.now
    ∧ (s.slotWritten i w).flash.preferred = i ∧ (s.slotWritten i w).flash.trial = true ∧ (s.slotWritten i w).flash.slot i = some w
    ∧ ((s.slotWritten i w).shc (1 - s.active.getD 0)).st = .absent := by
  unfold State.slotWritten State.modShc
  extract_lets s2 flash s3
  obtain ⟨flash', -⟩ := s3.setShc_rest (1 - s3.active.getD 0) { s3.shc (1 - s3.active.getD 0) with st := .absent }
  rw [flash', State.setShc_fwUpdate]
  exact ⟨rfl, rfl, rfl, Flash.slot_putSlot _ low w, by simp [s3, s2]⟩

theorem State.updateGoes_written {s : State} {data : List Byte} {sigOk : Bool} {ln : Ln} {w : Firmware} {i : Nat} (image : firmwareOf data = some w)
    (spare : s.spareSlot = some i) (takes : s.flashTakes ln = true) (runs : s.runs sigOk w = true) :
    s.updateGoes data sigOk ln = s.slotWritten i w := by
  have runs' : ({ s with flash := s.flash.putSlot i w } : State).runs sigOk w = true := runs
  simp only [State.updateGoes, image, spare, takes, runs', Bool.not_true, Bool.false_eq_true, if_false]

theorem State.spareSlot_low {s : State} {i : Nat} (h : s.spareSlot = some i) : i < 2 := by
  have mem : i ∈ [0, 1] := List.mem_of_find?_eq_some h
  simp only [List.mem_cons, List.not_mem_nil, or_false] at mem
  omega

/-- What an accepted line blows of the fuses, beside its answer. -/
theorem OnlySessions.blowFuses (s : State) (ln : Ln) (f : Fuses → Fuses) :
    OnlySessions { s with fuses := f s.fuses } { s.atLine ln with fuses := f (s.atLine ln).fuses } := by
  obtain ⟨e, waits⟩ := OnlySessions.atLine s ln
  refine ⟨?_, waits⟩
  rw [e]

theorem Speaks.blowFuses {s t : State} {i : Nat} (h : Speaks s t i) (f : Fuses) : Speaks s { t with fuses := f } i := h.of_sess rfl

/-- Settles O14: what a restarted controller runs is `backOn`, and a takeover leaves the controllers' own state. -/
theorem mirrorAndFirmware : Obligations.MirrorAndFirmware := by
  refine ⟨fun a t s running active ok idle some_ => ?ack, fun a p t s running active probe late => ?probe,
    fun a i w since t s running active update slot fits soon free => ?rejoin, fun a v i w t s running active update slot fits => ?back,
    fun i since t s running update late => ?timeout, fun b sigOk ln s acc stage none_ idle whole => ?update, fun a ln s acc active below => ?svn⟩
  case ack =>
    have backup : (s.tick t).backup = some (1 - a.val) := by simp [State.backup, active]
    have index : (s.tick t).active.getD 0 = a.val := by simp [active]
    refine event_next running (by simp [backup, ok, idle, some_]) ?_
    rw [index]
    rfl
  case probe =>
    have backup : (s.tick t).backup = some (1 - a.val) := by simp [State.backup, active]
    refine event_next running (by simp [probe, late]) ?_
    simp only [backup]
    exact ⟨by simp [State.shcDoubt], by simp, by simp, by simp [State.shcDoubt]⟩
  case rejoin =>
    refine event_next running (by simp [active, update]) ?_
    simp only [State.tick_fields, active, Option.getD_some, update, slot]
    rw [if_neg (by simp [fits]), if_neg (by simpa [State.cellFree, free] using soon)]
    exact (s.tick t).roleGoes_effect a.isLt i w
  case back =>
    refine event_next running (by simp [active, update]) ?_
    simp only [State.tick_fields, active, Option.getD_some, update, slot]
    rw [if_neg (by simp [fits])]
    obtain ⟨ok, own, -⟩ := (s.tick t).backOn_own (1 - a.val) i w
    obtain ⟨active', update', shc, flash⟩ := ((s.tick t).backOn (1 - a.val) i w).updateOver_effect (fun f => { f with trial := false }) w.version
      [("state", .word "updated")]
    refine ⟨active'.trans ((State.setShc_active _ _ _).trans active), update', ?_, ?_, fun thawed => ?_⟩
    · exact (congrArg Shc.st (shc (1 - a.val))).trans ok
    · exact (congrArg Shc.slot (shc (1 - a.val))).trans own
    · have thawed' : ((s.tick t).backOn (1 - a.val) i w).frozen = false := (frozen_of_core (State.modShc_core _ _ _)).trans thawed
      exact congrArg Flash.trial (flash thawed')
  case timeout =>
    refine event_next running (by simpa [update] using late) ?_
    simp only [State.tick_fields, update]
    obtain ⟨-, update', -, flash⟩ := (s.tick t).updateOver_effect (fun f => { f with preferred := 1 - i, trial := false })
      (((s.flash.slot i).map fun (w : Firmware) => w.version).getD 0) [("state", .word "refused"), ("cause", .word "rejoin")]
    exact ⟨update', fun thawed => ⟨congrArg Flash.preferred (flash thawed), congrArg Flash.trial (flash thawed)⟩⟩
  case update =>
    have stage' : (s.atLine ln).stages.find? (fun x => x.id = b.id && x.firmware) = some b := by simpa using stage
    refine judged_next acc ?_
    simp only [stage']
    rw [if_neg (by simpa [none_, and_assoc] using idle), if_neg (by simpa using whole)]
    have speaks : Speaks s { s.atLine ln with stages := (s.atLine ln).stages.filter fun x => x.id ≠ b.id } ln.sess := acc.speaks.of_sess rfl
    have answer := Answers.ok speaks [("state", .word "updating")]
    have said : OnlySessions { s.atLine ln with stages := (s.atLine ln).stages.filter fun x => x.id ≠ b.id }
      (State.ok { s.atLine ln with stages := (s.atLine ln).stages.filter fun x => x.id ≠ b.id } ln [("state", .word "updating")]) := .ok _ ln _
    have onward := speaks.answer ln (.ok [("state", .word "updating")])
    change Speaks s (State.ok _ ln _) ln.sess at onward
    have now := now_of_core (State.ok_core { s.atLine ln with stages := (s.atLine ln).stages.filter fun x => x.id ≠ b.id } ln [("state", .word "updating")])
    generalize hu : State.ok { s.atLine ln with stages := (s.atLine ln).stages.filter fun x => x.id ≠ b.id } ln [("state", .word "updating")] = u at answer said onward now
    obtain ⟨talk, stages⟩ := u.updateGoes_kept b.data sigOk ln
    obtain ⟨e, -⟩ := said
    refine ⟨answer.of_talk onward talk, fun x mem => ?_, fun w i image spare takes runs => ?_⟩
    · have left : u.stages = (s.atLine ln).stages.filter fun x => x.id ≠ b.id := by rw [e]
      change x ∈ (u.updateGoes b.data sigOk ln).stages at mem
      rw [stages, left] at mem
      simpa using (List.mem_filter.mp mem).2
    · have spare' : u.spareSlot = some i :=
        Eq.trans (by rw [e]; rfl) ((atLine_reads State.spareSlot s ln fun _ _ _ => rfl).trans spare)
      have takes' : u.flashTakes ln = true :=
        Eq.trans (by rw [e]; rfl) ((atLine_reads (fun s => s.flashTakes ln) s ln fun _ _ _ => rfl).trans takes)
      have runs' : u.runs sigOk w = true :=
        Eq.trans (by rw [e]; rfl) ((atLine_reads (fun s => s.runs sigOk w) s ln fun _ _ _ => rfl).trans runs)
      have active : u.active = s.active := Eq.trans (by rw [e]) (atLine_reads State.active s ln fun _ _ _ => rfl)
      obtain ⟨update, preferred, trial, slot, absent⟩ := u.slotWritten_effect (State.spareSlot_low spare) w
      rw [active] at absent
      rw [← State.updateGoes_written image spare' takes' runs'] at update preferred trial slot absent
      exact ⟨update.trans (by rw [now]; exact congrArg _ (State.atLine_now s ln)), preferred, trial, slot, absent⟩
  case svn =>
    refine judged_next acc ?_
    have svn : ((s.atLine ln).shc ((s.atLine ln).active.getD 0)).svn = (s.shc a).svn := by simp [active]
    simp only [svn]
    rw [if_neg (by simpa using below)]
    exact ⟨(OnlySessions.blowFuses s ln fun f => { f with svn := (s.shc a).svn }).trans (.ok _ ln _), Answers.ok (acc.speaks.blowFuses _) _⟩

end Sys2Proof.Machine

/-! What leaves the folds alone, as in Laws/. -/
namespace Sys2Proof.Machine

open Sys2Proof

/-- A fold but for when a stray of its was noted and what its Q is raised by. -/
def Fold.standing (f : Fold) : Fold := { f with strayed := none, raises := [] }

/-- The folds, but for when a stray of theirs was noted and what their Q is raised by. -/
structure Kin where
  folds : List Fold

def State.kin (s : State) : Kin :=
  ⟨s.folds.map Fold.standing⟩

theorem kin_mk (now) (freeCtr) (resetN) (pwrFail) (pwrFailAt) (frozen) (faultN) (alertN) (alertCause) (ready)
    (readyAt) (vstby) (fuses) (flash) (writing) (place) (net) (boot) (sel) (quiet) (active) (shcA) (shcB) (mirrorSeq)
    (mirrorProbe) (scratch) (sess) (con0) (con1) (waits) (garp) (stages) (nextStage) (retained) (fwUpdate) (bellSeq)
    (bells) (ledgerSeq) (ledgerHeld) (ledgerStopped) (ptpPort) (ptpHeard) (tallies) (busA) (busB) (shared) (telem)
    (unreach) (refAbsent) (refSince) (meshLocked) (inlet) (outlet) (loopSince) (wave) (lastWave) (map) (mapSeq) (pads)
    (fields) (links) (lane0) (neds) (meds) (spds) (nedTemp) (spdTemp) (medTemp) (flockUp) (flockMembers) (flockInfo)
    (excludedW) (folds) (scrubs) (paused) (secondAt) (incCtr) (channels) (sessions) (reports) (notices) (wsel) (wstat)
    (shadow) (taps) (wire) (pending) : (State.mk now freeCtr resetN pwrFail pwrFailAt frozen faultN alertN alertCause
    ready readyAt vstby fuses flash writing place net boot sel quiet active shcA shcB mirrorSeq mirrorProbe scratch
    sess con0 con1 waits garp stages nextStage retained fwUpdate bellSeq bells ledgerSeq ledgerHeld ledgerStopped
    ptpPort ptpHeard tallies busA busB shared telem unreach refAbsent refSince meshLocked inlet outlet loopSince wave
    lastWave map mapSeq pads fields links lane0 neds meds spds nedTemp spdTemp medTemp flockUp flockMembers flockInfo
    excludedW folds scrubs paused secondAt incCtr channels sessions reports notices wsel wstat shadow taps wire
    pending).kin =
    ⟨folds.map Fold.standing⟩ := rfl

theorem kin_eqs : (∀ s : State, s.folds.map Fold.standing = s.kin.folds) := by
  intros
  rfl

@[simp] theorem ite_kin (c : Prop) [Decidable c] (a b : State) : (if c then a else b).kin = if c then a.kin else b.kin := by
  split <;> rfl

@[simp] theorem foldl_kin {α : Type} (f : State → α → State) (h : ∀ s a, (f s a).kin = s.kin) (l : List α) (s : State) :
    (l.foldl f s).kin = s.kin := by
  induction l generalizing s with
  | nil => rfl
  | cons x xs ih => simp [ih, h]

theorem ite_eq_kin {c : Prop} [Decidable c] {a b : State} {r : Kin} (ha : a.kin = r) (hb : b.kin = r) :
    (if c then a else b).kin = r := by
  split <;> assumption

theorem wire_kin (a : State) (w : List Wire) : ({ a with wire := w } : State).kin = a.kin := rfl

theorem meds_kin (a : State) (l : List Med) (h : l.length = a.meds.length) : ({ a with meds := l } : State).kin = a.kin := rfl

theorem heard_kin (a : State) (o : Option Time) : ({ a with ptpHeard := o } : State).kin = a.kin := rfl

theorem fw_kin (a : State) (w : FwUpdate) : ({ a with fwUpdate := w } : State).kin = a.kin := rfl

@[simp] theorem State.tick_kin (s : State) (t : Time) : (s.tick t).kin = s.kin := rfl

@[simp] theorem State.setPad_kin (s : State) (n : Nat) (p : Paddock) : (State.setPad s n p).kin = s.kin := by
  unfold State.setPad; simp only [State.kin, Kin.mk.injEq] <;> simp [↓kin_mk, kin_eqs]

@[simp] theorem State.modPad_kin (s : State) (n : Nat) (f : Paddock → Paddock) : (State.modPad s n f).kin = s.kin := by
  simp [State.modPad]

@[simp] theorem State.setField_kin (s : State) (f : Nat) (x : Field) : (State.setField s f x).kin = s.kin := by
  unfold State.setField; simp only [State.kin, Kin.mk.injEq] <;> simp [↓kin_mk, kin_eqs]

@[simp] theorem State.modField_kin (s : State) (f : Nat) (g : Field → Field) : (State.modField s f g).kin = s.kin := by
  simp [State.modField]

@[simp] theorem State.setNed_kin (s : State) (k : Nat) (x : Ned) : (State.setNed s k x).kin = s.kin := by
  unfold State.setNed; simp only [State.kin, Kin.mk.injEq] <;> simp [↓kin_mk, kin_eqs]

@[simp] theorem State.modNed_kin (s : State) (k : Nat) (f : Ned → Ned) : (State.modNed s k f).kin = s.kin := by
  simp [State.modNed]

@[simp] theorem State.setMed_kin (s : State) (k : Nat) (x : Med) : (State.setMed s k x).kin = s.kin := by
  unfold State.setMed; simp only [State.kin, Kin.mk.injEq] <;> simp [↓kin_mk, kin_eqs]

@[simp] theorem State.modMed_kin (s : State) (k : Nat) (f : Med → Med) : (State.modMed s k f).kin = s.kin := by
  simp [State.modMed]

@[simp] theorem State.setSpd_kin (s : State) (k : Nat) (x : Spd) : (State.setSpd s k x).kin = s.kin := by
  unfold State.setSpd; simp only [State.kin, Kin.mk.injEq] <;> simp [↓kin_mk, kin_eqs]

@[simp] theorem State.modSpd_kin (s : State) (k : Nat) (f : Spd → Spd) : (State.modSpd s k f).kin = s.kin := by
  simp [State.modSpd]

@[simp] theorem State.setShc_kin (s : State) (i : Nat) (x : Shc) : (State.setShc s i x).kin = s.kin := by
  unfold State.setShc; simp only [State.kin, Kin.mk.injEq] <;> simp [↓kin_mk, kin_eqs]

@[simp] theorem State.modShc_kin (s : State) (i : Nat) (f : Shc → Shc) : (State.modShc s i f).kin = s.kin := by
  simp [State.modShc]

@[simp] theorem State.setLink_kin (s : State) (x lane : Nat) (l : LinkEnd) : (State.setLink s x lane l).kin = s.kin := by
  unfold State.setLink; simp only [State.kin, Kin.mk.injEq] <;> simp [↓kin_mk, kin_eqs]

@[simp] theorem State.modLink_kin (s : State) (x lane : Nat) (f : LinkEnd → LinkEnd) : (State.modLink s x lane f).kin = s.kin := by
  simp [State.modLink]

@[simp] theorem State.setEntry_kin (s : State) (n : Nat) (e : MapEntry) : (State.setEntry s n e).kin = s.kin := by
  unfold State.setEntry; simp only [State.kin, Kin.mk.injEq] <;> simp [↓kin_mk, kin_eqs]

theorem State.modFold_kin (s : State) (id : Nat) (g : Fold → Fold) (h : ∀ f, (g f).standing = f.standing) : (s.modFold id g).kin = s.kin := by
  refine congrArg Kin.mk ?_
  simp only [State.modFold, List.map_map]
  refine List.map_congr_left fun f _ => ?_
  simp only [Function.comp_apply]
  split
  · exact h f
  · rfl

@[simp] theorem State.setSession_kin (s : State) (num : Nat) (x : Session) : (State.setSession s num x).kin = s.kin := by
  unfold State.setSession; simp only [State.kin, Kin.mk.injEq] <;> simp [↓kin_mk, kin_eqs]

@[simp] theorem State.putChannel_kin (s : State) (c : Channel) : (State.putChannel s c).kin = s.kin := by
  unfold State.putChannel; simp only [State.kin, Kin.mk.injEq] <;> simp [↓kin_mk, kin_eqs]

@[simp] theorem State.addTally_kin (s : State) (scope : TScope) (id idx n : Nat) : (State.addTally s scope id idx n).kin = s.kin := by
  unfold State.addTally; simp only [State.kin, Kin.mk.injEq] <;> simp [↓kin_mk, kin_eqs]

@[simp] theorem State.count_kin (s : State) (scope : TScope) (id idx : Nat) : (State.count s scope id idx).kin = s.kin := by
  simp [State.count]

@[simp] theorem State.noteStray_kin (s : State) (fold : Nat) : (s.noteStray fold).kin = s.kin := State.modFold_kin _ _ _ fun _ => rfl

@[simp] theorem State.countChan_kin (s : State) (ned bind handle idx n : Nat) : (State.countChan s ned bind handle idx n).kin = s.kin := by
  simp [State.countChan]

@[simp] theorem State.ring_kin (s : State) (obj : String) (fault : Bool) (kv : KVs) : (s.ring obj fault kv).kin = s.kin := by
  unfold State.ring
  split
  · rfl
  · exact (State.addTally_kin _ _ _ _ _).trans rfl

@[simp] theorem State.report_kin (s : State) (tr : Trigger) (folds : List Nat) (place : Nat) : (State.report s tr folds place).kin = s.kin := by
  unfold State.report; simp only [State.kin, Kin.mk.injEq] <;> simp [↓kin_mk, kin_eqs]

@[simp] theorem State.goDark_kin (s : State) (n : Nat) : (State.goDark s n).kin = s.kin := by
  unfold State.goDark; simp only [State.kin, Kin.mk.injEq] <;> simp [↓kin_mk, kin_eqs]

@[simp] theorem State.enqueueWave_kin (s : State) (n : Nat) (goal : Power) : (State.enqueueWave s n goal).kin = s.kin := by
  unfold State.enqueueWave; simp only [State.kin, Kin.mk.injEq] <;> simp [↓kin_mk, kin_eqs]

@[simp] theorem State.dissolveYoke_kin (s : State) (n : Nat) : (State.dissolveYoke s n).kin = s.kin := by
  simp [State.dissolveYoke]

@[simp] theorem State.markHole_kin (s : State) (n cause : Nat) (quiet : Bool) : (State.markHole s n cause quiet).kin = s.kin := by
  unfold State.markHole; simp only [State.kin, Kin.mk.injEq] <;> simp [↓kin_mk, kin_eqs]

@[simp] theorem State.endRun_kin (s : State) (n : Nat) : (State.endRun s n).kin = s.kin := by
  simp [State.endRun]

@[simp] theorem State.dieBell_kin (s : State) (obj : String) (k cause : Nat) : (State.dieBell s obj k cause).kin = s.kin := by
  unfold State.dieBell; simp only [State.kin, Kin.mk.injEq] <;> simp [↓kin_mk, kin_eqs]

@[simp] theorem State.reinject_kin (s : State) : (State.reinject s).kin = s.kin := by
  simp [State.reinject]

/-- What an event leaves alone, its moment aside. -/
theorem State.event_kin (s : State) (t : Time) (c : State → Bool) (f : State → State)
    (h : c (s.tick t) = true → (f (s.tick t)).kin = s.kin) : (s.event t c f).kin = s.kin := by
  unfold State.event
  split
  · rename_i g
    exact h (by simpa using (Bool.and_eq_true _ _ ▸ g).2)
  · rfl

@[simp] theorem State.setCs_kin (s : State) (i : Nat) (c : CSess) : (State.setCs s i c).kin = s.kin := by
  unfold State.setCs; simp only [State.kin, Kin.mk.injEq] <;> simp [↓kin_mk, kin_eqs]

@[simp] theorem State.modCs_kin (s : State) (i : Nat) (f : CSess → CSess) : (State.modCs s i f).kin = s.kin := by
  simp [State.modCs]

@[simp] theorem State.say_kin (s : State) (i : Nat) (o : Out) : (State.say s i o).kin = s.kin := by
  simp [State.say]

@[simp] theorem State.prompt_kin (s : State) (i : Nat) : (State.prompt s i).kin = s.kin := by
  simp [State.prompt]

@[simp] theorem State.final_kin (s : State) (i : Nat) (tag : Option (List Byte)) (crc : Bool) (r : RLine) : (State.final s i tag crc r).kin = s.kin := by
  simp [State.final]

@[simp] theorem State.answer_kin (s : State) (ln : Ln) (r : RLine) : (State.answer s ln r).kin = s.kin := by
  unfold State.answer
  (repeat' split) <;> simp

@[simp] theorem State.ok_kin (s : State) (ln : Ln) (kv : KVs) : (State.ok s ln kv).kin = s.kin := by
  simp [State.ok]

@[simp] theorem State.err_kin (s : State) (ln : Ln) (code : Nat) (kv : KVs) : (State.err s ln code kv).kin = s.kin := by
  simp [State.err]

@[simp] theorem State.parts_kin (s : State) (ln : Ln) (ps : List KVs) (kv : KVs) : (State.parts s ln ps kv).kin = s.kin := by
  simp [State.parts]

@[simp] theorem State.refuse_kin (s : State) (ln : Ln) (why : String) : (State.refuse s ln why).kin = s.kin := by
  simp [State.refuse]

@[simp] theorem State.settle_kin (s : State) (p : WaitFor → Bool) (r : RLine) : (State.settle s p r).kin = s.kin := by
  unfold State.settle; simp only [State.kin, Kin.mk.injEq] <;> simp [↓kin_mk, kin_eqs]

@[simp] theorem State.mirror_kin (s : State) : (State.mirror s).kin = s.kin := by
  unfold State.mirror
  (repeat' split) <;> first | (simp; done) | (simp only [State.kin, Kin.mk.injEq] <;> simp [↓kin_mk, kin_eqs])

@[simp] theorem State.syncCredits_kin (s : State) (x lane : Nat) : (State.syncCredits s x lane).kin = s.kin := by
  unfold State.syncCredits
  (repeat' split) <;> simp

@[simp] theorem State.syncBorders_kin (s : State) (n : Nat) : (State.syncBorders s n).kin = s.kin := by
  unfold State.syncBorders
  dsimp only
  (repeat' split) <;> first | rfl | (simp (disch := (intros; (repeat' split) <;> simp)); done) | (simp only [State.kin, Kin.mk.injEq] <;> simp (disch := (intros; (repeat' split) <;> simp)) [↓kin_mk, kin_eqs])

@[simp] theorem State.sessMod_kin (s : State) (r : Req) (f : Session → Session) : (State.sessMod s r f).kin = s.kin := by
  unfold State.sessMod
  (repeat' split) <;> simp

@[simp] theorem State.countReq_kin (s : State) (k : Nat) (r : Req) (idx n : Nat) : (State.countReq s k r idx n).kin = s.kin := by
  simp [State.countReq]

@[simp] theorem State.countReply_kin (s : State) (k : Nat) (r : Req) (back : Bool) : (State.countReply s k r back).kin = s.kin := by
  unfold State.countReply
  (repeat' split) <;> simp

@[simp] theorem State.endReq_kin (s : State) (k : Nat) (r : Req) : (State.endReq s k r).kin = s.kin := by
  simp [State.endReq]

@[simp] theorem State.closeTag_kin (s : State) (k : Nat) (r : Req) (stray : Bool) : (State.closeTag s k r stray).kin = s.kin := by
  simp [State.closeTag]

@[simp] theorem State.releaseFcs_kin (s : State) (k : Nat) (r : Req) : (State.releaseFcs s k r).kin = s.kin := by
  unfold State.releaseFcs; simp only [State.kin, Kin.mk.injEq] <;> simp [↓kin_mk, kin_eqs]

@[simp] theorem State.startReply_kin (s : State) (k : Nat) (r : Req) (rep : Reply) (at_ : Time) : (State.startReply s k r rep at_).kin = s.kin := by
  unfold State.startReply; simp only [State.kin, Kin.mk.injEq] <;> simp [↓kin_mk, kin_eqs]

@[simp] theorem State.compose_kin (s : State) (k : Nat) (r : Req) (rep : Reply) : (State.compose s k r rep).kin = s.kin := by
  unfold State.compose
  dsimp only
  (repeat' split) <;> simp

@[simp] theorem State.stomp_kin (s : State) (k : Nat) (r : Req) (whole : Bool) : (State.stomp s k r whole).kin = s.kin := by
  unfold State.stomp; simp only [State.kin, Kin.mk.injEq] <;> simp [↓kin_mk, kin_eqs]

@[simp] theorem State.unsend_kin (s : State) (k : Nat) (r : Req) : (State.unsend s k r).kin = s.kin := by
  unfold State.unsend; simp only [State.kin, Kin.mk.injEq] <;> simp [↓kin_mk, kin_eqs]

@[simp] theorem State.stompSent_kin (s : State) (k : Nat) (r : Req) : (State.stompSent s k r).kin = s.kin := by
  simp [State.stompSent]

@[simp] theorem State.refuseReq_kin (s : State) (k : Nat) (r : Req) (reason : Nat) : (State.refuseReq s k r reason).kin = s.kin := by
  simp [State.refuseReq]

@[simp] theorem State.dropReq_kin (s : State) (k : Nat) (r : Req) : (State.dropReq s k r).kin = s.kin := by
  simp [State.dropReq]

@[simp] theorem State.loseSession_kin (s : State) (num : Nat) : (State.loseSession s num).kin = s.kin := by
  simp [State.loseSession]

@[simp] theorem State.nedEnterDoubt_kin (s : State) (k cause : Nat) : (State.nedEnterDoubt s k cause).kin = s.kin := by
  unfold State.nedEnterDoubt; simp only [State.kin, Kin.mk.injEq] <;> simp [↓kin_mk, kin_eqs]

@[simp] theorem State.raiseQ_kin (s : State) (fold key : Nat) (ds : List (Nat × Nat)) : (s.raiseQ fold key ds).kin = s.kin :=
  State.modFold_kin _ _ _ fun _ => rfl

@[simp] theorem State.endRaise_kin (s : State) (key : Nat) : (s.endRaise key).kin = s.kin := by
  refine congrArg Kin.mk ?_
  simp only [State.endRaise, List.map_map]
  exact List.map_congr_left fun f _ => rfl

@[simp] theorem State.freeSlot_kin (s : State) (x lane : Nat) (vc : Bool) : (State.freeSlot s x lane vc).kin = s.kin := by
  simp [State.freeSlot]

@[simp] theorem State.medSend_kin (s : State) (k : Nat) (out : List (MedPort × Flit)) : (State.medSend s k out).kin = s.kin := by
  simp [State.medSend]

@[simp] theorem State.medEnterDoubt_kin (s : State) (k cause : Nat) : (State.medEnterDoubt s k cause).kin = s.kin := by
  simp [State.medEnterDoubt]

@[simp] theorem State.revokeSpan_kin (s : State) (fold : Nat) (reconf : Bool) : (State.revokeSpan s fold reconf).kin = s.kin := by
  simp [State.revokeSpan]

@[simp] theorem State.unrevokeSpan_kin (s : State) (fold : Nat) : (State.unrevokeSpan s fold).kin = s.kin := by
  unfold State.unrevokeSpan; simp only [State.kin, Kin.mk.injEq] <;> simp [↓kin_mk, kin_eqs]

@[simp] theorem State.spdEnterDoubt_kin (s : State) (i cause : Nat) : (State.spdEnterDoubt s i cause).kin = s.kin := by
  simp [State.spdEnterDoubt]

@[simp] theorem State.dieCutOff_kin (s : State) (d : Nat) : (State.dieCutOff s d).kin = s.kin := by
  simp [State.dieCutOff]

@[simp] theorem State.makeHole_kin (s : State) (n cause : Nat) (quiet : Bool) : (State.makeHole s n cause quiet).kin = s.kin := by
  simp [State.makeHole]

@[simp] theorem State.powerRun_kin (s : State) (n : Nat) : (State.powerRun s n).kin = s.kin := by
  unfold State.powerRun; simp only [State.kin, Kin.mk.injEq] <;> simp [↓kin_mk, kin_eqs]

@[simp] theorem State.dropBuffers_kin (s : State) (n : Nat) (fold : Option Nat) : (State.dropBuffers s n fold).kin = s.kin := by
  simp [State.dropBuffers]

@[simp] theorem State.revokeFold_kin (s : State) (n fold : Nat) : (State.revokeFold s n fold).kin = s.kin := by
  simp [State.revokeFold]

@[simp] theorem State.hurdleFor_kin (s : State) (n fold : Nat) : (State.hurdleFor s n fold).kin = s.kin := by
  simp [State.hurdleFor]

@[simp] theorem State.startRouter_kin (s : State) (n : Nat) : (State.startRouter s n).kin = s.kin := by
  simp [State.startRouter]

@[simp] theorem State.shearPad_kin (s : State) (n : Nat) : (State.shearPad s n).kin = s.kin := by
  simp [State.shearPad]

@[simp] theorem State.shearSlot_kin (s : State) (n k fold : Nat) : (State.shearSlot s n k fold).kin = s.kin := by
  simp [State.shearSlot]

@[simp] theorem State.advertise_kin (s : State) (n fold : Nat) : (State.advertise s n fold).kin = s.kin := by
  unfold State.advertise
  (repeat' split) <;> first | rfl | (simp; done) | (simp only [State.kin, Kin.mk.injEq] <;> simp [↓kin_mk, kin_eqs]; done) | (rw [foldl_kin] <;> (intros; (repeat' split) <;> simp))

@[simp] theorem State.leasePads_kin (s : State) (id : Nat) (excl : List Nat) (slots : List (Nat × Nat)) : (State.leasePads s id excl slots).kin = s.kin := by
  simp [State.leasePads]

@[simp] theorem State.settleUnleased_kin (s : State) (n : Nat) : (State.settleUnleased s n).kin = s.kin := by
  unfold State.settleUnleased
  dsimp only
  (repeat' split) <;> first | rfl | (simp; done) | (simp only [State.kin, Kin.mk.injEq] <;> simp [↓kin_mk, kin_eqs])

@[simp] theorem State.unleasePad_kin (s : State) (n fold : Nat) : (State.unleasePad s n fold).kin = s.kin := by
  simp [State.unleasePad]

@[simp] theorem State.unleaseSlot_kin (s : State) (n k fold : Nat) : (State.unleaseSlot s n k fold).kin = s.kin := by
  simp [State.unleaseSlot]

@[simp] theorem State.revokePages_kin (s : State) (ps : List (Nat × Nat)) : (State.revokePages s ps).kin = s.kin := by
  simp [State.revokePages]

@[simp] theorem State.refuseAll_kin (s : State) (p : Nat → Req → Bool) (reason : Nat) : (State.refuseAll s p reason).kin = s.kin := by
  simp [State.refuseAll]

@[simp] theorem State.waferOut_kin (s : State) (fold reason : Nat) : (State.waferOut s fold reason).kin = s.kin := by
  simp [State.waferOut]

@[simp] theorem State.installLinks_kin (s : State) (im : Image) (n m fold : Nat) : (State.installLinks s im n m fold).kin = s.kin := by
  unfold State.installLinks
  (repeat' split) <;> simp

@[simp] theorem State.installPad_kin (s : State) (im : Image) (n m fold : Nat) (st : CtxState) (epoch : Nat) : (State.installPad s im n m fold st epoch).kin = s.kin := by
  simp [State.installPad]

@[simp] theorem State.liftPad_kin (s : State) (n fold : Nat) : (State.liftPad s n fold).kin = s.kin := by
  simp [State.liftPad]

@[simp] theorem State.clearFold_kin (s : State) (f : Fold) : (State.clearFold s f).kin = s.kin := by
  simp [State.clearFold]

@[simp] theorem State.freeStaged_kin (s : State) (cs : List (Nat × Nat)) : (State.freeStaged s cs).kin = s.kin := by
  simp [State.freeStaged]

@[simp] theorem State.rebindChannel_kin (s : State) (id : Nat) (c : Channel) (old new : Entry) : (State.rebindChannel s id c old new).kin = s.kin := by
  unfold State.rebindChannel; simp only [State.kin, Kin.mk.injEq] <;> simp [↓kin_mk, kin_eqs]

@[simp] theorem State.rebindAll_kin (s : State) (id : Nat) (old : Option Image) (im : Image) : (State.rebindAll s id old im).kin = s.kin := by
  unfold State.rebindAll
  refine foldl_kin _ (fun _ _ => ?_) _ _
  (repeat' split) <;> simp

@[simp] theorem State.dropSource_kin (s : State) (n : Nat) : (State.dropSource s n).kin = s.kin := by
  simp [State.dropSource]

@[simp] theorem State.markFailed_kin (s : State) (ns : List Nat) (tr : Trigger) : (State.markFailed s ns tr).kin = s.kin := by
  simp [State.markFailed]

@[simp] theorem State.raiseYoke_kin (s : State) (f : Fold) (n : Nat) : (State.raiseYoke s f n).kin = s.kin := by
  unfold State.raiseYoke
  (repeat' split) <;> simp

@[simp] theorem State.notify_kin (s : State) (id : Nat) (next : FoldState) : (State.notify s id next).kin = s.kin := by
  unfold State.notify; simp only [State.kin, Kin.mk.injEq] <;> simp [↓kin_mk, kin_eqs]

@[simp] theorem State.foldBell_kin (s : State) (id : Nat) (st : String) (tr : Trigger) (place : Nat) (kv : KVs) : (State.foldBell s id st tr place kv).kin = s.kin := by
  unfold State.foldBell; simp only [State.kin, Kin.mk.injEq] <;> simp [↓kin_mk, kin_eqs]

@[simp] theorem State.applyPatches_kin (s : State) (f : Fold) (im : Image) : (State.applyPatches s f im).kin = s.kin := by
  unfold State.applyPatches
  dsimp only
  (repeat' split) <;> first | rfl | (simp (disch := (intros; (repeat' split) <;> simp)); done) | (simp only [State.kin, Kin.mk.injEq] <;> simp (disch := (intros; (repeat' split) <;> simp)) [↓kin_mk, kin_eqs])

@[simp] theorem State.restoreFold_kin (s : State) (f : Fold) (im : Image) : (State.restoreFold s f im).kin = s.kin := by
  unfold State.restoreFold
  (repeat' split) <;> simp

@[simp] theorem State.rebindMoved_kin (s : State) (f : Fold) (im : Image) : (State.rebindMoved s f im).kin = s.kin := by
  unfold State.rebindMoved
  refine foldl_kin _ (fun _ _ => ?_) _ _
  (repeat' split) <;> simp

@[simp] theorem State.dieBack_kin (s : State) (d : DieName) : (s.dieBack d).kin = s.kin := by
  cases d <;> simp [State.dieBack]

end Sys2Proof.Machine

/-! Musters and checkpoints (R461–R463, R540, R541, R673). -/
namespace Sys2Proof.Machine

open Sys2Proof

/-! A fold, found under its ID. -/

theorem foldOf_of_fld {s t : State} (h : t.fld = s.fld) (id : Nat) : t.foldOf id = s.foldOf id :=
  congrArg (fun x : Fld => x.folds.find? fun f : Fold => f.id = id) h

/-- What leaves the folds alone leaves a fold, but for its strays and what raises its Q. -/
theorem foldOf_of_kin {s t : State} (h : t.kin = s.kin) (id : Nat) : (t.foldOf id).map Fold.standing = (s.foldOf id).map Fold.standing := by
  have find (u : State) : (u.foldOf id).map Fold.standing = (u.folds.map Fold.standing).find? fun f => f.id = id := by
    rw [List.find?_map]
    rfl
  have folds : t.folds.map Fold.standing = s.folds.map Fold.standing := congrArg Kin.folds h
  rw [find, find, folds]

theorem State.modFold_own {s : State} {id : Nat} {f : Fold} (h : s.foldOf id = some f) {g : Fold → Fold} (keep : ∀ f, (g f).id = f.id) :
    (s.modFold id g).foldOf id = some (g f) := by
  rw [State.modFold_foldOf _ _ _ _ keep, if_pos rfl, h]
  rfl

/-- A fold in a state of Table FOLD-1. -/
def Fold.enter (f : Fold) (st : FoldState) : Fold :=
  { f with st := st, credited := f.credited || st = .migrating || st = .doubt || st = .stopped }

theorem State.setFoldSt_folds (s : State) (id : Nat) (st : FoldState) : (s.setFoldSt id st).folds = (s.modFold id fun f => f.enter st).folds := by
  unfold State.setFoldSt
  dsimp only
  split <;> rfl

theorem State.setFoldSt_own {s : State} {id : Nat} {f : Fold} (h : s.foldOf id = some f) (st : FoldState) :
    (s.setFoldSt id st).foldOf id = some (f.enter st) := by
  have own := State.modFold_own h (g := fun f => f.enter st) fun _ => rfl
  rwa [State.foldOf, ← State.setFoldSt_folds] at own

theorem State.setFoldSt_id {s : State} {id : Nat} {f : Fold} (h : s.foldOf id = some f) : f.id = id := by
  simpa using List.find?_some h

/-- A fold as the end of its recovery leaves it (R469, R553, R666). -/
theorem State.finishRecovery_own {s : State} {id : Nat} {f : Fold} {r : Recovery} (h : s.foldOf id = some f) (recovery : f.recovery = some r) :
    ∃ g, (s.finishRecovery id).foldOf id = some g ∧ g.st = (if f.transition.isSome then .reconfiguring else .running) ∧ g.muster = none
      ∧ g.recovery = none ∧ g.ckptBase = s.now := by
  unfold State.finishRecovery
  simp only [h, recovery]
  refine ⟨_, (foldOf_of_fld (State.mirror_fld _) id).trans ((foldOf_of_fld (State.ring_fld _ _ _ _) id).trans
    ((foldOf_of_fld (State.count_fld _ _ _ _) id).trans (State.modFold_own (State.setFoldSt_own h _) fun _ => rfl))), ?_⟩
  exact ⟨rfl, rfl, rfl, rfl⟩

/-- Settles O15, an event at a time, through what each leaves of the fold under its ID. -/
theorem mustersAndCheckpoints : Obligations.MustersAndCheckpoints := by
  refine ⟨fun id ms f t s running active found st free image idle ckpt due => ?due, fun id f t s running found muster idle quiet => ?complete,
    fun id f t s running found muster recovery idle quiet => ?fleece, fun id f t s running found muster idle late => ?timeout,
    fun id f im t s running found st muster image => ?written⟩
  case due =>
    have found' : (s.tick t).foldOf id = some f := found
    refine event_next running (by simp [found', st, free, image, idle, ckpt, due]; simpa using active) ?_
    refine ⟨_, (foldOf_of_fld (State.mirror_fld _) id).trans (State.modFold_own (State.setFoldSt_own found' .checkpointing) fun _ => rfl), ?_⟩
    exact ⟨rfl, rfl, rfl, rfl⟩
  case complete =>
    have found' : (s.tick t).foldOf id = some f := found
    refine event_next running (by simp [found', muster, idle, quiet]) ?_
    simp only [found', muster]
    exact State.modFold_own found' fun _ => rfl
  case fleece =>
    have found' : (s.tick t).foldOf id = some f := found
    refine event_next running (by simp [found', muster, idle, quiet]) ?_
    simp only [found', muster]
    obtain ⟨r, recovery'⟩ := Option.isSome_iff_exists.mp recovery
    obtain ⟨g, own, st, muster', ended, base⟩ := State.finishRecovery_own found' recovery'
    rw [idle] at st
    exact ⟨g, own, st, muster', ended, base⟩
  case timeout =>
    have found' : (s.tick t).foldOf id = some f := found
    refine event_next running (by simp [found', muster, idle, late]) ⟨?_, ?_⟩
    · refine (foldOf_of_fld (State.report_fld _ _ _ _) id).trans (State.modFold_own ?_ fun _ => rfl)
      exact (foldOf_of_fld (State.count_fld _ _ _ _) id).trans found'
    · simp [State.report]
  case written =>
    have found' : (s.tick t).foldOf id = some f := found
    refine event_next running (by simp [found', st, muster]) ?_
    simp only [found', image]
    refine ⟨_, (foldOf_of_fld (State.mirror_fld _) id).trans (State.setFoldSt_own
      ((foldOf_of_fld (State.count_fld _ _ _ _) id).trans (State.modFold_own found' ?_)) .running), ?_⟩
    · exact fun _ => rfl
    exact ⟨rfl, rfl, rfl, rfl, _, List.mem_append_right _ List.mem_cons_self, rfl, rfl, rfl, rfl⟩

end Sys2Proof.Machine

/-! Recoveries step forward (R462, R542, R673, R674, R678). -/
namespace Sys2Proof.Machine

open Sys2Proof

/-- A fold after what leaves the folds alone. -/
theorem foldOf_standing {s t : State} (h : t.kin = s.kin) {id : Nat} {f : Fold} (found : s.foldOf id = some f) :
    ∃ g, t.foldOf id = some g ∧ g.standing = f.standing := by
  have e := foldOf_of_kin h id
  rw [found] at e
  obtain ⟨g, own, same⟩ := Option.map_eq_some_iff.mp e
  exact ⟨g, own, same⟩

/-! The commit of a recovery. -/

/-- What a commit does before it records itself: plans entered, hurdles lifted, sources dropped, bindings and credits restored
(Table FAULT-4 step 5). -/
def State.commitPads (s : State) (f : Fold) (r : Recovery) (im : Image) : State :=
  let s1 := if r.means = .fleece then s else
    im.pads.foldl (fun s n => s.modPad (f.place n) fun p => p.enterPlan (im.ctxsOf n) f.epoch (decide (2 ≤ im.sections))) s
  let s2 := f.pads.foldl (fun s n => s.liftPad n f.id) s1
  ((r.moves.foldl (fun s q => s.dropSource q.1) s2).rebindMoved f im).unrevokeSpan f.id

theorem State.commitPads_kin (s : State) (f : Fold) (r : Recovery) (im : Image) : (s.commitPads f r im).kin = s.kin := by
  unfold State.commitPads
  extract_lets s1 s2
  have entered : s1.kin = s.kin := by
    simp only [s1]
    split <;> simp
  simp [s2, entered]

theorem State.commitPads_now (s : State) (f : Fold) (r : Recovery) (im : Image) : (s.commitPads f r im).now = s.now := by
  refine now_of_core ?_
  unfold State.commitPads
  extract_lets s1 s2
  have entered : s1.core = s.core := by
    simp only [s1]
    split <;> simp
  simp [s2, entered]

theorem State.commitRecovery_eq {s : State} {id : Nat} {f : Fold} {r : Recovery} {im : Image} (h : s.foldOf id = some f) (recovery : f.recovery = some r)
    (image : f.image = some im) : s.commitRecovery id =
    (if r.means = .fleece then
      ((s.commitPads f r im).modFold id fun g => { g with recovery := some { r with committed := true } }).modFold id fun g =>
        { g with muster := some .fleece, musterAt := s.now }
    else ((s.commitPads f r im).modFold id fun g => { g with recovery := some { r with committed := true } }).finishRecovery id) := by
  have same : f.id = id := State.setFoldSt_id h
  subst same
  unfold State.commitRecovery
  simp only [h, recovery, image]
  rfl

theorem State.commitRecovery_own {s : State} {id : Nat} {f : Fold} {r : Recovery} (h : s.foldOf id = some f) (recovery : f.recovery = some r)
    (image : f.image.isSome) (means : r.means ≠ .fleece) :
    ∃ g, (s.commitRecovery id).foldOf id = some g ∧ g.recovery = none ∧ g.st = (if f.transition.isSome then .reconfiguring else .running) := by
  obtain ⟨im, image'⟩ := Option.isSome_iff_exists.mp image
  obtain ⟨f1, found, same⟩ := foldOf_standing (s.commitPads_kin f r im) h
  have transition : f1.transition = f.transition := (congrArg Fold.transition same :)
  have recorded := State.modFold_own found (g := fun g => { g with recovery := some { r with committed := true } }) fun _ => rfl
  obtain ⟨g, own, st, -, ended, -⟩ := State.finishRecovery_own recorded rfl
  rw [State.commitRecovery_eq h recovery image', if_neg means]
  exact ⟨g, own, ended, st.trans (by rw [transition])⟩

theorem State.commitRecovery_fleece {s : State} {id : Nat} {f : Fold} {r : Recovery} (h : s.foldOf id = some f) (recovery : f.recovery = some r)
    (image : f.image.isSome) (means : r.means = .fleece) :
    ∃ g, (s.commitRecovery id).foldOf id = some g ∧ g.recovery = some { r with committed := true } ∧ g.muster = some .fleece ∧ g.musterAt = s.now := by
  obtain ⟨im, image'⟩ := Option.isSome_iff_exists.mp image
  obtain ⟨f1, found, -⟩ := foldOf_standing (s.commitPads_kin f r im) h
  have recorded := State.modFold_own found (g := fun g => { g with recovery := some { r with committed := true } }) fun _ => rfl
  rw [State.commitRecovery_eq h recovery image', if_pos means]
  exact ⟨_, State.modFold_own recorded fun _ => rfl, rfl, rfl, rfl⟩

/-! Pauses. -/

/-- A pause that ends moves the moments of a fold's load and transition, and nothing else of it. -/
theorem State.syncPause_own {s : State} {id : Nat} {f : Fold} (h : s.foldOf id = some f) :
    ∃ g, s.syncPause.foldOf id = some g ∧ (g = f ∨ ∃ p, g = f.unpause p s.now) := by
  unfold State.syncPause
  split
  · split
    · exact ⟨f, h, .inl rfl⟩
    · exact ⟨f, h, .inl rfl⟩
  · split
    · exact ⟨f, h, .inl rfl⟩
    · rename_i p _ _
      refine ⟨f.unpause p s.now, ?_, .inr ⟨p, rfl⟩⟩
      have find : ({ s with paused := none, folds := s.folds.map fun (f : Fold) => f.unpause p s.now } : State).foldOf id
          = (s.foldOf id).map fun f => f.unpause p s.now := by
        unfold State.foldOf
        rw [List.find?_map]
        rfl
      rw [find, h]
      rfl

/-! A scan that fails, and one that does not. -/

/-- A migration that goes on by checkpoint (R674). -/
theorem State.toCheckpoint_own {s : State} {id : Nat} {f : Fold} {r : Recovery} (h : s.foldOf id = some f) (recovery : f.recovery = some r)
    (means : r.means ≠ .restart) : ∃ g, (s.toCheckpoint id).foldOf id = some g ∧ g.transition = none ∧ g.muster = none
      ∧ g.recovery = some { r with means := .checkpoint, shears := [], restored := false, written := false, committed := false } := by
  unfold State.toCheckpoint
  simp only [h, Option.bind_some, recovery, means, if_false]
  have dropped : (r.moves.foldl (fun s q => s.dropSource q.1) s).foldOf id = some f :=
    (foldOf_of_fld (foldl_eq State.fld _ _ fun t q _ => State.dropSource_fld t q.1) id).trans h
  obtain ⟨g, own, e⟩ := State.syncPause_own (State.modFold_own dropped
    (g := fun f => { f with recovery := some { r with means := .checkpoint, shears := [], restored := false, written := false, committed := false },
                            transition := none, muster := none }) fun _ => rfl)
  refine ⟨g, own, ?_⟩
  rcases e with rfl | ⟨p, rfl⟩ <;> exact ⟨rfl, rfl, rfl⟩

/-- A fold that recovers has its record. -/
theorem State.recovering_some {s : State} {id : Nat} {r : Recovery} (h : s.recovering id = some r) :
    ∃ f, s.foldOf id = some f ∧ f.st = .migrating ∧ f.recovery = some r := by
  unfold State.recovering at h
  split at h
  · rename_i f found
    split at h
    · rename_i c
      simp only [Bool.and_eq_true, decide_eq_true_eq] at c
      exact ⟨f, found, c.1, h⟩
    · exact nomatch h
  · exact nomatch h

/-- The links of a scanned paddock in its target (R542, R553). -/
def State.fleeceLinks (s : State) (id t : Nat) : State :=
  match s.foldOf id with
  | some f => (match f.image with
      | some im => s.installLinks im (f.origin t) t f.id
      | none => s)
  | none => s

theorem State.fleeceLinks_fld (s : State) (id t : Nat) : (s.fleeceLinks id t).fld = s.fld := by
  unfold State.fleeceLinks
  split
  · split
    · exact State.installLinks_fld _ _ _ _ _
    · rfl
  · rfl

/-! A fold that stops (R664, R665). -/

theorem State.notice_of_stopped {s : State} {id : Nat} (st : s.stOf id = some .stopped) (notices : ∃ l t, s.notices = l ++ [⟨id, .stopped, t⟩] ∧ ∀ x ∈ l, x.fold ≠ id) :
    s.notice id = some .stopped := by
  obtain ⟨l, t, e, none_⟩ := notices
  have find : s.notices.find? (fun x => x.fold = id) = some ⟨id, .stopped, t⟩ := by
    rw [e, List.find?_append, List.find?_eq_none.mpr (by simpa using none_)]
    simp
  unfold State.notice
  rw [st, find]
  rfl

theorem State.stopFold_effect {s : State} {id : Nat} {f : Fold} (h : s.foldOf id = some f) (tr : Trigger) (place : Nat) (kv : KVs) :
    (s.stopFold id tr place kv).stOf id = some .stopped ∧ (s.stopFold id tr place kv).notice id = some .stopped
      ∧ (s.stopFold id tr place kv).faultN = true := by
  unfold State.stopFold
  extract_lets s1
  obtain ⟨g, own, e⟩ := State.syncPause_own (State.modFold_own (State.setFoldSt_own h .stopped)
    (g := fun f => { f with recovery := none, muster := none, transition := none }) fun _ => rfl)
  have st : g.st = .stopped := by rcases e with rfl | ⟨p, rfl⟩ <;> rfl
  change s1.foldOf id = some g at own
  clear_value s1
  have last : (((s1.notify id .stopped).foldBell id "stopped" tr place kv).mirror).stOf id = some .stopped := by
    have kept := foldOf_of_fld (s := s1) (t := ((s1.notify id .stopped).foldBell id "stopped" tr place kv).mirror) (by simp) id
    rw [State.stOf, kept, own]
    exact congrArg some st
  refine ⟨last, State.notice_of_stopped last ⟨s1.notices.filter fun x => x.fold ≠ id, s1.now, ?_, ?_⟩, ?_⟩
  · simp [State.foldBell, State.notify]
  · simp
  · simp [State.foldBell]

/-! Routes and the raise of Q for a move (R672). -/

theorem State.raiseMoves_kin (s : State) (f : Fold) (im : Image) (moves : List (Nat × Nat)) : (s.raiseMoves f im moves).kin = s.kin :=
  foldl_eq State.kin _ _ fun t q _ => by
    dsimp only
    split
    · rfl
    · simp

theorem State.routesMoved_kin (s : State) (f : Fold) (im : Image) (r : Recovery) : ((s.applyPatches f im).raiseMoves f im r.moves).kin = s.kin := by
  rw [State.raiseMoves_kin, State.applyPatches_kin]

/-- Settles O17: the steps of a recovery leave the fold's own record, but for what each writes of it. -/
theorem recoveriesStepForward : Obligations.RecoveriesStepForward := by
  refine ⟨fun id n m r f t s running found rec means mem can move => ?good, fun id n good r f t s running found rec means mem bad => ?bad,
    fun id r t s running rec means open_ => ?fails, fun id r f t s running found image rec means open_ => ?restored,
    fun id r f t s running found image rec means empty open_ => ?fleece, fun id r f t s running found image rec means restored open_ => ?commits⟩
  all_goals have rec' : (s.tick t).recovering id = some r := rec
  case good =>
    have found' : (s.tick t).foldOf id = some f := found
    have can' : (s.tick t).canFleece n.val = true := can
    refine event_next running (by simp [rec', means, mem]) ?_
    simp only [rec', can', move]
    rw [if_neg (by simp)]
    have own : (((s.tick t).modPad m fun p => p.takeFleece ((s.tick t).pad n.val)).fleeceLinks id m).foldOf id = some f :=
      (foldOf_of_fld (State.fleeceLinks_fld _ id m) id).trans ((foldOf_of_fld (State.modPad_fld _ _ _) id).trans found')
    exact ⟨_, State.modFold_own own fun _ => rfl, rfl⟩
  case bad =>
    have found' : (s.tick t).foldOf id = some f := found
    obtain ⟨f', own, -, recovery⟩ := State.recovering_some rec'
    obtain rfl : f' = f := Option.some.inj (own.symm.trans found')
    have fails : (!good || !(s.tick t).canFleece n.val) = true := by
      rcases bad with rfl | h
      · rfl
      · have h' : (s.tick t).canFleece n.val = false := h
        simp [h']
    refine event_next running (by simp [rec', means, mem]) ?_
    simp only [rec', fails, if_true]
    exact State.toCheckpoint_own found' recovery (by simp [means])
  case fails =>
    obtain ⟨f, own, -, recovery⟩ := State.recovering_some rec'
    refine event_next running (by simpa [rec', open_] using means) ?_
    simp only [own, rec']
    obtain ⟨st, -, fault⟩ := State.stopFold_effect own .auth 0 []
    exact ⟨st, fault⟩
  case restored =>
    have found' : (s.tick t).foldOf id = some f := found
    refine event_next running (by simpa [rec', open_] using means) ?_
    obtain ⟨im, image'⟩ := Option.isSome_iff_exists.mp image
    simp only [found', rec', image']
    obtain ⟨f1, own, same⟩ := foldOf_standing (State.restoreFold_kin (s.tick t) f im) found'
    obtain ⟨g, own', e⟩ := State.syncPause_own (State.modFold_own own (g := fun g => { g with recovery := some { r with restored := true } }) fun _ => rfl)
    have st : g.st = f.st := by rcases e with rfl | ⟨p, rfl⟩ <;> exact (congrArg Fold.st same :)
    have recovery : g.recovery = some { r with restored := true } := by rcases e with rfl | ⟨p, rfl⟩ <;> rfl
    have image1 : g.image = f.image := by rcases e with rfl | ⟨p, rfl⟩ <;> exact (congrArg Fold.image same :)
    have transition1 : f1.transition = f.transition := (congrArg Fold.transition same :)
    have transition : g.transition.isSome = f.transition.isSome := by
      rcases e with rfl | ⟨p, rfl⟩
      · exact congrArg Option.isSome transition1
      · simp [Fold.unpause, transition1]
    obtain ⟨f', found'', st', -⟩ := State.recovering_some rec'
    obtain rfl : f' = f := Option.some.inj (found''.symm.trans found')
    by_cases written : r.written = true
    · rw [if_neg (by simp), if_pos written]
      obtain ⟨k, own'', ended, st''⟩ := State.commitRecovery_own own' recovery (by rw [image1]; exact image) (by rcases means with e | e <;> simp [e])
      exact ⟨k, own'', fun c => absurd (written.symm.trans c) nofun, fun _ => ⟨ended, by rw [st'', transition]⟩⟩
    · rw [if_neg (by simp), if_neg written]
      exact ⟨g, own', fun _ => ⟨st.trans st', recovery⟩, fun c => absurd c written⟩
  case fleece =>
    have found' : (s.tick t).foldOf id = some f := found
    obtain ⟨im, image'⟩ := Option.isSome_iff_exists.mp image
    refine event_next running (by simp [rec', open_, means, empty]) ?_
    simp only [found', rec', image']
    obtain ⟨f1, own, same⟩ := foldOf_standing (State.routesMoved_kin (s.tick t) f im r) found'
    have recorded := State.modFold_own own (g := fun g => { g with recovery := some { r with written := true } }) fun _ => rfl
    have image1 : f1.image = f.image := (congrArg Fold.image same :)
    obtain ⟨g, own', recovery, muster, at_⟩ := State.commitRecovery_fleece recorded rfl (by rw [image1]; exact image) means
    refine ⟨g, own', recovery, muster, at_.trans (now_of_core (s := s.tick t) (by simp))⟩
  case commits =>
    have found' : (s.tick t).foldOf id = some f := found
    obtain ⟨im, image'⟩ := Option.isSome_iff_exists.mp image
    refine event_next running (by simp [rec', open_, means, restored]) ?_
    simp only [found', rec', image']
    obtain ⟨f1, own, same⟩ := foldOf_standing (State.routesMoved_kin (s.tick t) f im r) found'
    have recorded := State.modFold_own own (g := fun g => { g with recovery := some { r with written := true } }) fun _ => rfl
    have image1 : f1.image = f.image := (congrArg Fold.image same :)
    have transition : f1.transition = f.transition := (congrArg Fold.transition same :)
    obtain ⟨g, own', ended, st⟩ := State.commitRecovery_own recorded rfl (by rw [image1]; exact image) means
    exact ⟨g, own', ended, st.trans (by rw [transition])⟩

end Sys2Proof.Machine

/-! The operator acknowledges and restores (R643, R663, R679, R707, R715). -/
namespace Sys2Proof.Machine

open Sys2Proof

theorem sized_of_core {s t : State} (core : t.core = s.core) (size : s.sized) : t.sized := by
  obtain ⟨sess, neds, meds, spds⟩ := size
  exact ⟨(congrArg Core.nSess core).trans sess, (congrArg Core.nNeds core).trans neds, (congrArg Core.nMeds core).trans meds,
    (congrArg Core.nSpds core).trans spds⟩

theorem sized_atLine {s : State} (size : s.sized) (ln : Ln) : (s.atLine ln).sized :=
  sized_of_core (s := s.tick ln.t) (by simp [State.atLine]) size

/-! Dies (R707). -/

theorem State.tapTest_onlyTaps (s : State) (d : Nat) : s.tapTest d = { s with taps := (s.tapTest d).taps, freeCtr := (s.tapTest d).freeCtr } := by
  unfold State.tapTest
  split <;> rfl

theorem State.dieBack_sess (s : State) (die : DieName) : (s.dieBack die).sess = s.sess := by
  cases die with
  | ned k => rfl
  | med k => rfl
  | spd k => rfl
  | shc k => exact (State.setShc_rest _ _ _).2.2

/-- A die returned to service is no longer in doubt. -/
theorem State.dieBack_notInDoubt {s : State} {die : DieName} {d : Nat} (size : s.sized) (dest : dieDest die = some d) : (s.dieBack die).dieInDoubt die = false := by
  obtain ⟨-, neds, meds, spds⟩ := size
  cases die with
  | ned k =>
    have low : k < 24 := by
      by_contra c
      simp [dieDest, c] at dest
    simp [State.dieBack, State.dieInDoubt, neds, low]
  | med k =>
    have low : k < 12 := by
      by_contra c
      simp [dieDest, c] at dest
    simp [State.dieBack, State.dieInDoubt, meds, low]
  | spd k =>
    have low : k < 16 := by
      by_contra c
      simp [dieDest, c] at dest
    simp [State.dieBack, State.dieInDoubt, spds, low]
  | shc k => simp [State.dieBack, State.dieInDoubt, State.modShc]

/-- What is told of a die leaves whether it is in doubt. -/
theorem State.dieInDoubt_told (s : State) (die : DieName) (obj : String) (kv : KVs) (ln : Ln) (kv' : KVs) :
    (((s.reinject).ring obj false kv).ok ln kv').dieInDoubt die = s.dieInDoubt die := by
  have doubts : (((s.reinject).ring obj false kv).ok ln kv').doubts = s.doubts := by simp
  cases die with
  | ned k => exact ned_doubt_of_doubts doubts k
  | med k => exact med_doubt_of_doubts doubts k
  | spd k => exact spd_doubt_of_doubts doubts k
  | shc k =>
    have who : (((s.reinject).ring obj false kv).ok ln kv').who = s.who := by simp
    have st := congrArg Shc.st (shc_of_who who k)
    simp only [State.dieInDoubt]
    exact congrArg (fun x => decide (x ≠ ShcSt.ok)) st

/-- A die passes its retest (R707). -/
def State.dieRestored (s : State) (die : DieName) (ln : Ln) (d : Nat) : State :=
  ((((s.tapTest d).dieBack die).reinject).ring (dieVal die).1 false [("die", .num (dieVal die).2), ("state", .word "ok")]).ok ln
    [("die", .num d), ("state", .word "ok")]

/-! Lanes (R715, R836). -/

/-- An end of a lane is up again. -/
def State.endUp (s : State) (lane y : Nat) : State :=
  ((s.modLink y lane fun l => { LinkEnd.initial with detours := l.detours, owner := l.owner, compress := l.compress, ahead := l.ahead }).syncCredits y lane).endRaise
    (linkKey y lane)

theorem State.syncCredits_downs (s : State) (x lane : Nat) : (s.syncCredits x lane).downs = s.downs := by
  unfold State.syncCredits
  split
  · rfl
  · dsimp only
    split
    · rfl
    · rw [State.modLink_downs, State.modLink_downs]
      · exact fun _ => rfl
      · exact fun _ => rfl

theorem State.endUp_own (s : State) (lane y : Nat) : ((s.endUp lane y).link y lane).lastingDown = false := by
  unfold State.endUp
  rw [lastingDown_of_downs (State.endRaise_downs _ _), lastingDown_of_downs (State.syncCredits_downs _ _ _)]
  simp [LinkEnd.initial]

theorem State.endUp_kept {s : State} {x lane : Nat} (h : (s.link x lane).lastingDown = false) (y : Nat) : ((s.endUp lane y).link x lane).lastingDown = false := by
  unfold State.endUp
  rw [lastingDown_of_downs (State.endRaise_downs _ _), lastingDown_of_downs (State.syncCredits_downs _ _ _), State.modLink_link]
  split
  · rfl
  · exact h

theorem State.endUp_talk (s : State) (lane y : Nat) : (s.endUp lane y).talk = s.talk := by
  have raised (u : State) (key : Nat) : (u.endRaise key).talk = u.talk := rfl
  unfold State.endUp
  rw [raised, State.syncCredits_talk, State.modLink_talk]

/-- Both ends of a lane are up again. -/
def State.laneUp (s : State) (x lane : Nat) : State :=
  match peerEnd x with
  | some y => (s.endUp lane x).endUp lane y
  | none => s.endUp lane x

theorem State.laneUp_effect (s : State) (x lane : Nat) : ((s.laneUp x lane).link x lane).lastingDown = false
    ∧ (∀ y, peerEnd x = some y → ((s.laneUp x lane).link y lane).lastingDown = false) ∧ (s.laneUp x lane).talk = s.talk := by
  unfold State.laneUp
  cases peer : peerEnd x with
  | none => exact ⟨s.endUp_own lane x, nofun, s.endUp_talk lane x⟩
  | some y =>
    refine ⟨State.endUp_kept (s.endUp_own lane x) y, fun z e => ?_, by simp only [State.endUp_talk]⟩
    obtain rfl := Option.some.inj e
    exact State.endUp_own _ lane y

theorem State.inRange_in {s : State} {ln : Ln} {key : String} {x lo hi : Nat} {body : State → State} (h : x ≤ hi) (h' : lo ≤ x) :
    s.inRange ln key x lo hi body = body s := by
  simp [State.inRange, h, h']

/-- What is shown of a lane at an end. -/
def State.laneLine (s : State) (x i : Nat) : KVs :=
  [("lane", .num i), ("state", .word (if (s.link x i).lastingDown then "down" else "up")),
    ("retries", .num ((s.tally ⟨.link, linkId x i, tlTransient⟩).toNat + (s.tally ⟨.link, linkId x i, tlLasting⟩).toNat)),
    ("transient", .num (s.tally ⟨.link, linkId x i, tlTransient⟩).toNat), ("detour", .word (detourWord (s.link x i)))]

/-- What is listed of a border's lanes. -/
def laneCount (lane : Option Nat) (one : Nat → KVs) : List KVs :=
  match lane with
  | some i => [one i]
  | none => (List.range 4).map one

theorem laneCount_length (lane : Option Nat) (one : Nat → KVs) : (laneCount lane one).length = if lane.isSome then 1 else 4 := by
  cases lane <;> rfl

theorem execShowLink_view (c r dir x : Nat) (lane : Option Nat) (ln : Ln) (s : State) (at_ : borderAt c r dir = some x) (low : lane.getD 0 ≤ 3) :
    execShowLink c r dir lane ln s = .next (s.judged ln .view true fun s => s.parts ln (laneCount lane (s.laneLine x)) []) := by
  unfold execShowLink
  simp only [at_, State.inRange_in low (Nat.zero_le _)]
  cases lane <;> rfl

theorem State.ack_sess (s : State) : s.ack.sess = s.sess := rfl

/-- The answer to an acknowledgement leaves the pins. -/
theorem State.ack_told {s t : State} (only : OnlySessions s t) (ln : Ln) (kv : KVs) : (t.ack.ok ln kv).faultN = t.ack.faultN
    ∧ (t.ack.ok ln kv).alertN = t.ack.alertN
    ∧ OnlySessions { s with faultN := (t.ack.ok ln kv).faultN, alertN := (t.ack.ok ln kv).alertN } (t.ack.ok ln kv) := by
  have told := OnlySessions.ok t.ack ln kv
  have fault := congrArg State.faultN told.1
  have alert := congrArg State.alertN told.1
  have acked : OnlySessions { s with faultN := t.ack.faultN, alertN := t.ack.alertN } t.ack := by
    refine ⟨?_, fun w => only.2 w⟩
    unfold State.ack
    rw [only.1]
  refine ⟨fault, alert, ?_⟩
  rw [fault, alert]
  exact acked.trans told

/-- Settles O19. -/
theorem acknowledgeAndRestore : Obligations.AcknowledgeAndRestore := by
  refine ⟨fun ln s acc => ?ack, fun die d ln s acc size dest doubt cool => ?back, fun die d passed ln s acc dest doubt bad => ?not,
    fun c r dir x lane ln s acc at_ low down => ?up, fun c r dir x lane ln s acc at_ low down => ?down, fun c r dir x lane ln s acc at_ low => ?view⟩
  case ack =>
    have fault : (s.atLine ln).ack.faultN = (s.faultN && s.faultStands) := atLine_reads (fun s => s.ack.faultN) s ln fun _ _ _ => rfl
    have alert : (s.atLine ln).ack.alertN = (s.alertN && s.alertStands) := atLine_reads (fun s => s.ack.alertN) s ln fun _ _ _ => rfl
    refine judged_next acc ?_
    obtain ⟨faultTold, alertTold, only⟩ := State.ack_told (OnlySessions.atLine s ln) ln
      [("fault", .word (if (s.atLine ln).ack.faultN then "asserted" else "clear")), ("alert", .word (if (s.atLine ln).ack.alertN then "asserted" else "clear"))]
    refine ⟨faultTold.trans fault, alertTold.trans alert, only, ?_⟩
    rw [faultTold, alertTold]
    exact Answers.ok (acc.speaks.of_sess (State.ack_sess _)) _
  case back =>
    have doubt' : (s.atLine ln).dieInDoubt die = true := (atLine_reads (fun s => s.dieInDoubt die) s ln fun _ _ _ => rfl).trans doubt
    have cool' : (s.atLine ln).tooHot die = false := (atLine_reads (fun s => s.tooHot die) s ln fun _ _ _ => rfl).trans cool
    refine judged_next acc ?_
    simp only [dest, doubt', cool', Bool.not_true, Bool.or_self, Bool.false_eq_true, if_false]
    have size' : ((s.atLine ln).tapTest d).sized := sized_of_core (State.tapTest_core _ d) (sized_atLine size ln)
    have tested : ((s.atLine ln).tapTest d).sess = (s.atLine ln).sess := by rw [State.tapTest_onlyTaps]
    have speaks : Speaks s (((s.atLine ln).tapTest d).dieBack die) ln.sess := acc.speaks.of_sess ((State.dieBack_sess _ die).trans tested)
    exact ⟨(State.dieInDoubt_told _ die _ _ ln _).trans (State.dieBack_notInDoubt size' dest), Answers.ok (speaks.of_talk (by simp)) _⟩
  case not =>
    have doubt' : (s.atLine ln).dieInDoubt die = true := (atLine_reads (fun s => s.dieInDoubt die) s ln fun _ _ _ => rfl).trans doubt
    have bad' : (!passed || (s.atLine ln).tooHot die) = true := by
      rw [atLine_reads (fun s => s.tooHot die) s ln fun _ _ _ => rfl]
      rcases bad with e | e <;> simp [e]
    refine judged_next acc ?_
    simp only [dest, doubt', bad', Bool.not_true, Bool.false_eq_true, if_false, if_true]
    generalize tested : (s.atLine ln).tapTest d = t
    have only : OnlySessions { s with taps := t.taps, freeCtr := t.freeCtr } t := by
      obtain ⟨e, w⟩ := OnlySessions.atLine s ln
      have onlyTaps := (s.atLine ln).tapTest_onlyTaps d
      rw [tested] at onlyTaps
      refine ⟨?_, fun w' h => w w' ?_⟩
      · rw [onlyTaps, e]
      · rw [onlyTaps] at h
        exact h
    have told := OnlySessions.err t ln 501 [("why", .word "test-failed")]
    have taps := congrArg State.taps told.1
    have ctr := congrArg State.freeCtr told.1
    have same : t.sess = (s.atLine ln).sess := by rw [← tested, State.tapTest_onlyTaps]
    refine ⟨?_, Answers.err (acc.speaks.of_sess same) _ _⟩
    rw [show (t.refuse ln "test-failed").taps = t.taps from taps, show (t.refuse ln "test-failed").freeCtr = t.freeCtr from ctr]
    exact only.trans told
  case up =>
    have down' : ((s.atLine ln).link x lane).lastingDown = true := by simpa using down
    refine judged_next acc ?_
    simp only [at_, State.inRange, Nat.zero_le, low, decide_true, Bool.and_self, if_true, down', Bool.not_true, Bool.false_eq_true, if_false]
    obtain ⟨here, there, talk⟩ := (s.atLine ln).laneUp_effect x lane
    have told (y : Nat) (obj : String) (kv kv' : KVs) (u : State) : (((u.ring obj false kv).ok ln kv').link y lane).lastingDown = (u.link y lane).lastingDown := by
      rw [State.link, (OnlySessions.ok _ ln kv').1]
      exact lastingDown_of_downs (State.ring_downs u obj false kv) y lane
    change ((((s.atLine ln).laneUp x lane).ring _ _ _).ok ln _ |>.link x lane).lastingDown = false
      ∧ (∀ y, peerEnd x = some y → ((((s.atLine ln).laneUp x lane).ring _ _ _).ok ln _ |>.link y lane).lastingDown = false)
      ∧ Answers s ((((s.atLine ln).laneUp x lane).ring _ _ _).ok ln _) ln _
    exact ⟨(told x _ _ _ _).trans here, fun y e => (told y _ _ _ _).trans (there y e), Answers.ok (acc.speaks.of_talk (by simp [talk])) _⟩
  case down =>
    have down' : ((s.atLine ln).link x lane).lastingDown = true := by simpa using down
    refine judged_next acc ?_
    simp only [at_, State.inRange, Nat.zero_le, low, decide_true, Bool.and_self, if_true, down', Bool.not_true, Bool.false_eq_true, if_false, Bool.not_false]
    exact ⟨(OnlySessions.atLine s ln).trans (.err _ ln _ _), Answers.err acc.speaks _ _⟩
  case view =>
    refine ⟨_, execShowLink_view c r dir x lane ln s at_ low, ?_⟩
    rw [State.judged_accepts acc, ← laneCount_length lane ((s.atLine ln).laneLine x)]
    exact ⟨(OnlySessions.atLine s ln).trans (.parts _ ln _ _), Answers.parts acc.speaks _ _⟩

end Sys2Proof.Machine

/-! Stages, users and settings (R745, R749, R808, R832, R833, R840). -/
namespace Sys2Proof.Machine

open Sys2Proof

/-- What an accepted line does beside its session, before its answer. -/
theorem OnlySessions.act (s : State) (ln : Ln) (f : State → State)
    (h : ∀ now sess waits, f { s with now := now, sess := sess, waits := waits } = { f s with now := now, sess := sess, waits := waits })
    (k : (f s).waits = s.waits) : OnlySessions (f s) (f (s.atLine ln)) := by
  obtain ⟨e, waits⟩ := OnlySessions.atLine s ln
  have acted := (congrArg f e).trans (h _ _ _)
  refine ⟨?_, ?_⟩
  · rw [acted]
  · rw [acted, k]
    exact waits

theorem State.accepts.acts {s : State} {ln : Ln} {need : Level} {boot : Bool} (acc : s.accepts ln need boot) (f : State → State)
    (h : ∀ now sess waits, f { s with now := now, sess := sess, waits := waits } = { f s with now := now, sess := sess, waits := waits })
    (k : (f s).waits = s.waits) (e : (f (s.atLine ln)).sess = (s.atLine ln).sess) (kv : KVs) :
    OnlySessions (f s) ((f (s.atLine ln)).ok ln kv) ∧ Answers s ((f (s.atLine ln)).ok ln kv) ln (.ok kv) :=
  ⟨(OnlySessions.act s ln f h k).trans (.ok _ ln _), Answers.ok (acc.speaks.of_sess e) _⟩

/-- The bytes put to a stage. -/
def putBytes (stages : List StageBuf) (id : Nat) (data : List Byte) : List StageBuf :=
  stages.map fun (x : StageBuf) => if x.id = id then { x with data := x.data ++ data } else x

theorem putBytes_find (stages : List StageBuf) (id : Nat) (data : List Byte) (j : Nat) :
    (putBytes stages id data).find? (fun b => b.id = j)
      = (stages.find? (fun b => b.id = j)).map fun x => if x.id = id then { x with data := x.data ++ data } else x := by
  unfold putBytes
  rw [List.find?_map]
  congr 1
  congr 1
  funext b
  simp only [Function.comp]
  split <;> rfl

theorem putBytes_own {stages : List StageBuf} {b : StageBuf} (found : stages.find? (fun x => x.id = b.id) = some b) (data : List Byte) :
    (putBytes stages b.id data).find? (fun x => x.id = b.id) = some { b with data := b.data ++ data } := by
  simp [putBytes_find, found]

theorem putBytes_other (stages : List StageBuf) (id : Nat) (data : List Byte) {j : Nat} (h : j ≠ id) :
    (putBytes stages id data).find? (fun x => x.id = j) = stages.find? fun x => x.id = j := by
  rw [putBytes_find]
  cases found : stages.find? (fun x => decide (x.id = j)) with
  | none => rfl
  | some b =>
    have name : b.id = j := by simpa using List.find?_some found
    simp [name, h]

/-- What the answer to `put stage` leaves. -/
theorem OnlySessions.put_told {s u : State} {b : StageBuf} {data : List Byte} (found : s.stageOf b.id = some b)
    (told : OnlySessions { s with stages := putBytes s.stages b.id data } u) : u.stageOf b.id = some { b with data := b.data ++ data }
    ∧ OnlySessions { s with stages := u.stages } u ∧ ∀ j, j ≠ b.id → u.stageOf j = s.stageOf j := by
  have stages : u.stages = putBytes s.stages b.id data := congrArg State.stages told.1
  refine ⟨?_, ?_, fun j other => ?_⟩
  · rw [State.stageOf, stages]
    exact putBytes_own found data
  · rw [stages]
    exact told
  · rw [State.stageOf, stages]
    exact putBytes_other s.stages b.id data other

/-- What is stored of a console is in force at once (R745). -/
theorem State.setConsole_effect (s : State) {i : Nat} (low : i < 2) (k : Con) :
    ((s.setCon i k).setHeld i).con i = { k with held := (((s.setCon i k).setHeld i).con i).held }
    ∧ ((s.setCon i k).setHeld i).flash = s.flash ∧ ((s.setCon i k).setHeld i).sess = s.sess := by
  obtain rfl | rfl : i = 0 ∨ i = 1 := by omega
  · exact ⟨rfl, rfl, rfl⟩
  · exact ⟨rfl, rfl, rfl⟩

theorem Answers.of_out {s t u : State} {ln : Ln} {r : RLine} (h : Answers s t ln r) (e : u.sess = t.sess) : Answers s u ln r := by
  have out : (u.cs ln.sess).out = (t.cs ln.sess).out := by rw [State.cs, State.cs, e]
  exact h.grows ⟨[], out.trans (List.append_nil _).symm⟩

/-- Settles O27. -/
theorem stagesUsersAndSettings : Obligations.StagesUsersAndSettings := by
  refine ⟨fun firmware size ln s acc room bytes => ?open_, fun b data ln s acc found one most fits => ?put, fun id ln s acc found => ?drop,
    fun ln s acc => ?stages, fun name key level ln s acc nameOk keyOk takes room fresh => ?add, fun name r ln s acc takes found other => ?remove,
    fun name r ln s acc found admin last => ?last, fun ln s acc => ?users, fun i baud flow b f ln s acc rates takes eb ef => ?console,
    fun ip mask gw mac ln s acc takes => ?net⟩
  case open_ =>
    have few : ¬ 8 ≤ (s.atLine ln).stages.length := by simpa using room
    have fits : ¬ stageRoom < ((s.atLine ln).stages.map fun (b : StageBuf) => b.size).sum + size := by
      simpa [stageRoom] using bytes
    have number : (s.atLine ln).nextStage = s.nextStage := by simp
    refine judged_next acc ?_
    rw [if_neg few, if_neg fits]
    have told := acc.acts (fun s => { s with stages := s.stages ++ [⟨s.nextStage, firmware, size, []⟩], nextStage := s.nextStage + 1 })
      (fun _ _ _ => rfl) rfl rfl [("stage", .num s.nextStage)]
    rw [number] at told ⊢
    exact told
  case put =>
    have found' : (s.atLine ln).stageOf b.id = some b := (atLine_reads (fun s => s.stageOf b.id) s ln fun _ _ _ => rfl).trans found
    have fits' : ¬ b.size < b.data.length + data.length := by omega
    refine judged_next acc ?_
    simp only [State.inRange_in most one, found', ne_eq, not_true_eq_false, if_false, fits']
    obtain ⟨told, answered⟩ := acc.acts (fun s => { s with stages := putBytes s.stages b.id data }) (fun _ _ _ => rfl) rfl rfl
      [("next", .num (b.data.length + data.length))]
    obtain ⟨own, only, other⟩ := OnlySessions.put_told found told
    exact ⟨own, only, other, answered⟩
  case drop =>
    obtain ⟨b, found⟩ := Option.isSome_iff_exists.mp found
    have found' : (s.atLine ln).stageOf id = some b := (atLine_reads (fun s => s.stageOf id) s ln fun _ _ _ => rfl).trans found
    refine judged_next acc ?_
    simp only [found']
    exact acc.acts (fun s => { s with stages := s.stages.filter fun b => b.id ≠ id }) (fun _ _ _ => rfl) rfl rfl []
  case stages =>
    have same : (s.atLine ln).stages = s.stages := by simp
    refine judged_next acc ?_
    refine ⟨(OnlySessions.atLine s ln).trans (.parts _ ln _ _), ?_⟩
    have answer := Answers.parts acc.speaks ((s.atLine ln).stages.map fun (b : StageBuf) =>
      [("stage", .num b.id), ("kind", .word (if b.firmware then "firmware" else "image")), ("size", .num b.size), ("next", .num b.data.length)]) []
    rw [List.length_map] at answer
    rw [same] at answer ⊢
    exact answer
  case add =>
    have takes' := State.accepts.atLine_flashTakes takes
    have creds : (s.atLine ln).flash.creds = s.flash.creds := by simp
    have fresh' : ((s.flash.creds.getD []).any fun (u : Cred) => decide (u.name = lowBytes name)) = false := by
      rw [List.any_eq_false]
      intro u mem
      simp [fresh u mem]
    have few : ¬ 32 ≤ (s.flash.creds.getD []).length := by omega
    change ∃ u, execAddUser name level key ln s = .next u ∧ _
    unfold execAddUser
    simp only [nameOk, keyOk, Bool.not_true, Bool.false_eq_true, if_false]
    refine judged_next acc ?_
    simp only [creds, fresh', if_neg few, takes', Bool.not_true, Bool.false_eq_true, if_false]
    exact acc.acts (fun t => { t with flash := { t.flash with creds := some (s.flash.creds.getD [] ++ [⟨lowBytes name, level, key⟩]) } })
      (fun _ _ _ => rfl) rfl rfl [("name", .bytes (lowBytes name)), ("level", .word (levelWord level))]
  case remove =>
    have takes' := State.accepts.atLine_flashTakes takes
    have creds : (s.atLine ln).flash.creds = s.flash.creds := by simp
    have spare : (decide (r.level = .admin) && decide (((s.flash.creds.getD []).filter fun (x : Cred) => decide (x.level = .admin)).length = 1)) = false := by
      rcases other with e | e <;> simp [e]
    refine judged_next acc ?_
    simp only [creds, found, spare, takes', Bool.not_true, Bool.false_eq_true, if_false]
    exact ⟨(OnlySessions.storeFlash s ln fun f => { f with creds := some ((s.flash.creds.getD []).filter fun x => x.name ≠ lowBytes name) }).trans
      (.ok _ ln _), Answers.ok (acc.speaks.storeFlash _) _⟩
  case last =>
    have creds : (s.atLine ln).flash.creds = s.flash.creds := by simp
    refine judged_next acc ?_
    simp only [creds, found, admin, last, decide_true, Bool.and_self, if_true]
    exact ⟨(OnlySessions.atLine s ln).trans (.err _ ln _ _), Answers.err acc.speaks _ _⟩
  case users =>
    have same : (s.atLine ln).flash.creds = s.flash.creds := by simp
    refine judged_next acc ?_
    refine ⟨(OnlySessions.atLine s ln).trans (.parts _ ln _ _), ?_⟩
    have answer := Answers.parts acc.speaks (((s.atLine ln).flash.creds.getD []).map fun (u : Cred) =>
      [("name", .bytes u.name), ("level", .word (levelWord u.level))]) []
    rw [List.length_map] at answer
    rw [same] at answer ⊢
    exact answer
  case console =>
    have takes' := State.accepts.atLine_flashTakes takes
    have con : (s.atLine ln).con i = s.con i := atLine_reads (fun s => s.con i) s ln fun _ _ _ => rfl
    have known : (baud.any fun b => !baudRates.contains b) = false := by
      cases baud with
      | none => rfl
      | some x => simpa using rates x rfl
    have low : i.val ≤ 1 := by omega
    refine judged_next acc ?_
    simp only [State.inRange_in low (Nat.zero_le _), known, takes', con, ← eb, ← ef, Bool.not_true, Bool.false_eq_true, if_false]
    generalize said : (s.atLine ln).ok ln _ = w
    have speaks : Answers s w ln (.ok [("con", .num i), ("baud", .num b), ("flow", .word (if f then "on" else "off"))]) := said ▸ Answers.ok acc.speaks _
    obtain ⟨con', flash, sess⟩ := State.setConsole_effect
      { w with flash := if i.val = 0 then { w.flash with con0 := (b, f) } else { w.flash with con1 := (b, f) } } i.isLt { s.con i with baud := b, flow := f }
    refine ⟨congrArg Con.baud con', congrArg Con.flow con', ?_, ?_⟩
    · rw [flash]
      obtain rfl | rfl : i = 0 ∨ i = 1 := by omega
      · rfl
      · rfl
    · exact speaks.of_out sess
  case net =>
    have takes' := State.accepts.atLine_flashTakes takes
    refine judged_next acc ?_
    simp only [takes', Bool.not_true, Bool.false_eq_true, if_false]
    exact ⟨(OnlySessions.storeFlash s ln fun f => { f with net := ⟨ip, mask, gw, mac⟩ }).trans (.ok _ ln _), Answers.ok (acc.speaks.storeFlash _) _⟩

end Sys2Proof.Machine

/-! Sessions of a fold (R326, R330, R331, Table CMD-12). -/
namespace Sys2Proof.Machine

open Sys2Proof

theorem State.setSession_own (s : State) (num : Nat) (x : Session) : (s.setSession num x).session num = x := by
  unfold State.setSession State.session
  split
  · rename_i e
    rw [e]
    have gone : (assocDel s.sessions num).find? (fun p => p.1 = num) = none := by simp [assocDel]
    simp only [if_true, assoc, gone]
  · simp [assoc_set]

theorem session_of_fld {s t : State} (h : t.fld = s.fld) (num : Nat) : t.session num = s.session num := by
  unfold State.session
  rw [show t.sessions = s.sessions from congrArg Fld.sessions h]

theorem State.foldOf_id {s : State} {id : Nat} {f : Fold} (found : s.foldOf id = some f) : f.id = id := by
  simpa using List.find?_some found

theorem State.putFold_own {s : State} {id : Nat} {f : Fold} (found : s.foldOf id = some f) (g : Fold) (name : g.id = id) :
    (s.putFold g).foldOf id = some g := by
  have kept : ((fun h : Fold => decide (h.id = id)) ∘ fun h : Fold => if h.id = g.id then g else h) = fun h : Fold => decide (h.id = id) := by
    funext h
    simp only [Function.comp]
    split
    · rename_i e
      rw [e]
    · rfl
  unfold State.foldOf at found ⊢
  unfold State.putFold
  rw [List.find?_map, kept, found]
  simp [name, State.foldOf_id (s := s) (id := id) found]

theorem State.settle_waits (s : State) (p : WaitFor → Bool) (r : RLine) : (s.settle p r).waits = s.waits.filter fun w => !p w.why :=
  foldl_inv (P := fun t : State => t.waits = s.waits.filter fun w => !p w.why) _ rfl fun t w h => by simp [h]

/-- A session freed is FREE, and nobody waits for it (R331). -/
theorem State.freeSession_effect (s : State) (num : Nat) : (s.freeSession num).session num = Session.initial
    ∧ ∀ w ∈ (s.freeSession num).waits, w.why ≠ .session num := by
  unfold State.freeSession
  refine ⟨(session_of_fld (State.settle_fld _ _ _) num).trans (State.setSession_own _ num _), fun w mem => ?_⟩
  rw [State.settle_waits] at mem
  simpa using (List.mem_filter.mp mem).2

theorem State.guard_passes (s : State) (ln : Ln) {cs : List (Bool × Nat × KVs)} (h : ∀ c ∈ cs, c.1 = false) (body : State) :
    s.guard ln cs body = body := by
  have : cs.find? (fun c => c.1) = none := by
    rw [List.find?_eq_none]
    intro c mem
    simp [h c mem]
  unfold State.guard
  rw [this]

theorem State.onFold_found {s : State} {id : Nat} {f : Fold} (found : s.foldOf id = some f) (ln : Ln) (body : Fold → State) :
    s.onFold ln id body = body f := by
  unfold State.onFold
  rw [found]

theorem atLine_foldOf (s : State) (ln : Ln) (id : Nat) : (s.atLine ln).foldOf id = s.foldOf id :=
  atLine_reads (fun s => s.foldOf id) s ln fun _ _ _ => rfl

theorem atLine_session (s : State) (ln : Ln) (num : Nat) : (s.atLine ln).session num = s.session num :=
  atLine_reads (fun s => s.session num) s ln fun _ _ _ => rfl

/-- What waits after a session that is busy is closed: a line of its own drops what its console had forwarded (log entry 102). -/
theorem closeSession_busy_waits {id num : Nat} {f : Fold} {ln : Ln} {s : State} (acc : s.accepts ln .operate false)
    (found : s.foldOf id = some f) (st : (s.session num).st = .open) (own : (s.session num).fold = id) (busy : (s.session num).busy = true) :
    ∃ u, exec (.closeSession id num ln) s = .next u
      ∧ u.waits = (s.waits.filter fun w => w.sess ≠ ln.sess || w.holds ln.sess) ++ [⟨ln.sess, ln.tag, ln.crc, .session num⟩] := by
  have found' := (atLine_foldOf s ln id).trans found
  refine judged_next acc ?_
  simp [State.onFold_found found', atLine_session, st, own, State.foldOf_id found, busy, State.setSession]

/-- A fold with no paddocks. -/
def emptyFold : Fold :=
  State.reset.newFold
    { id := some 1, lineage := [], wrap := [], wafers := [], paddocks := [], slots := [], pages := [], sessions := none, squota := 0
      smeds := [], ckpt := none, cmeds := [], cpages := 0, pen := none, weight := none } []

/-- CON0, logged in, has forwarded a command to a member, and session 0 of a fold is busy. -/
def forwarded : State :=
  { State.reset with
    resetN := false, active := some 0, boot := { Boot.initial with phase := .ready }
    sess := [{ CSess.initial true with up := true, login := .loggedIn [] .admin }], folds := [emptyFold]
    sessions := [(0, { Session.initial with st := .open, fold := 1, busy := true })], waits := [⟨0, none, false, .member 1⟩] }

/-- A line of CON0. -/
def consoleLine : Ln := ⟨0, none, false, none, true, 0⟩

theorem forwarded_accepts : forwarded.accepts consoleLine .operate false :=
  ⟨by decide, by decide, ⟨[], .admin, rfl, by decide⟩, .inr rfl, .inl rfl⟩

/-- Refutes O44: `close session` of a busy session is a line of its console, and a line drops what its console had forwarded to a
member of the flock, so that the commands waiting are not those from before with its own appended. -/
theorem not_foldSessionsOpenAndClose : ¬ Obligations.FoldSessionsOpenAndClose := by
  rintro ⟨-, close, -⟩
  have found : forwarded.foldOf 1 = some emptyFold := rfl
  obtain ⟨u, ran, -, claimed⟩ := close 1 0 emptyFold consoleLine forwarded forwarded_accepts found (.inl rfl) rfl
  obtain ⟨v, ran', left⟩ := closeSession_busy_waits (id := 1) (num := 0) forwarded_accepts found rfl rfl rfl
  obtain rfl : v = u := by simpa using ran'.symm.trans ran
  have count := congrArg List.length (left.symm.trans (claimed rfl).2)
  exact absurd count (by decide)

end Sys2Proof.Machine

/-! Views of folds and keys, and a MED's rotation (R379, R380, R392, R458, R768). -/
namespace Sys2Proof.Machine

open Sys2Proof

/-- The answer of a line that alters one MED. -/
theorem State.accepts.turnsMed {s : State} {ln : Ln} {need : Level} {boot : Bool} (acc : s.accepts ln need boot) (size : s.sized) (k : MedIx)
    (f : State → Med → Med) (f' : Med) (same : f (s.atLine ln) (s.med k) = f') (kv : KVs) :
    (((((s.atLine ln).modMed k (f (s.atLine ln))).mirror).ok ln kv).med k = f')
      ∧ Answers s ((((s.atLine ln).modMed k (f (s.atLine ln))).mirror).ok ln kv) ln (.ok kv) := by
  have low : k.val < s.meds.length := by
    obtain ⟨-, -, meds, -⟩ := size
    omega
  have here : (s.atLine ln).med k = s.med k := atLine_reads (fun s => s.med k) s ln fun _ _ _ => rfl
  refine ⟨?_, Answers.ok (acc.speaks.of_talk (by simp)) _⟩
  rw [← same, ← here]
  have kept (u : State) (kv : KVs) : (u.mirror.ok ln kv).med k = u.med k := by
    rw [State.med, State.med]
    simp
  rw [kept]
  simp [low]

/-- Settles O42. -/
theorem foldViewsAndRotation : Obligations.FoldViewsAndRotation := by
  refine ⟨fun id f ln s acc found => ?fold, fun ln s acc => ?folds, fun id f ln s acc found => ?keys, fun id f ln s acc found kept => ?export_,
    fun k ln s acc size => ?off, fun k l ln s acc size sixteen low own => ?on⟩
  case fold =>
    have found' := (atLine_foldOf s ln id).trans found
    exact ⟨_, _, congrArg Host.Outcome.next ((State.judged_accepts acc).trans (State.onFold_found found' ln _)),
      (OnlySessions.atLine s ln).trans (.ok _ ln _), Answers.ok acc.speaks _, rfl⟩
  case folds =>
    refine judged_next acc ?_
    refine ⟨(OnlySessions.atLine s ln).trans (.parts _ ln _ _), ?_⟩
    have answer := Answers.parts acc.speaks (((List.range 64).filterMap fun id => (s.atLine ln).foldOf id).map fun (f : Fold) =>
      [("id", .num f.id), ("state", .word (foldWord f.st)), ("paddocks", .num f.excl.length), ("slots", .num f.slots.length)]) []
    have count : (((List.range 64).filterMap fun id => (s.atLine ln).foldOf id)).length = ((List.range 64).filter fun id => (s.foldOf id).isSome).length := by
      simp only [atLine_foldOf]
      rw [List.length_filterMap_eq_countP, List.countP_eq_length_filter]
    rw [List.length_map, count] at answer
    exact answer
  case keys =>
    have found' := (atLine_foldOf s ln id).trans found
    have med (k : Nat) : (s.atLine ln).med k = s.med k := atLine_reads (fun s => s.med k) s ln fun _ _ _ => rfl
    refine judged_next acc ?_
    simp only [State.onFold_found found', med]
    exact ⟨(OnlySessions.atLine s ln).trans (.ok _ ln _), Answers.ok acc.speaks _⟩
  case export_ =>
    have found' := (atLine_foldOf s ln id).trans found
    refine judged_next acc ?_
    simp only [State.onFold_found found', kept, Option.isSome_none, Bool.false_eq_true, if_false]
    have fuses : (s.atLine ln).fuses = s.fuses := by simp
    have ctr : (s.atLine ln).freeCtr = s.freeCtr := by simp
    obtain ⟨told, answered⟩ := acc.acts (fun s => { s with freeCtr := s.freeCtr + 1 }) (fun _ _ _ => rfl) rfl rfl [("fold", .num id),
      ("wrap", .bytes (slice (Config.wrapKey (kimgLabel f.label s.fuses.serial.toNat) f.wrap s.freeCtr) 0 137))]
    rw [fuses, ctr] at *
    have folds := congrArg State.folds told.1
    have next := congrArg State.freeCtr told.1
    exact ⟨folds, next, answered⟩
  case off =>
    have low : ¬ 11 < k.val := by omega
    refine judged_next acc ?_
    rw [if_neg low]
    exact acc.turnsMed size k (fun _ m => { m with rotOn := false, rotNext := none }) _ rfl _
  case on =>
    have no : ¬ 11 < k.val := by omega
    have here : (s.atLine ln).med k = s.med k := atLine_reads (fun s => s.med k) s ln fun _ _ _ => rfl
    have now : (s.atLine ln).now = max s.now ln.t := State.atLine_now s ln
    have passes : ∀ c ∈ [(decide (l.length ≠ 16), 402, ([("key", .word "slots"), ("min", .num 16), ("max", .num 16)] : KVs)),
        (l.any fun f => decide (63 < f), 402, [("key", .word "slots"), ("min", .num 0), ("max", .num 63)]),
        why ((((s.med k).leases.filter fun e => leState e.2 = 1).map fun e => leFold e.2).eraseDups.any fun f => !l.contains f) "rotation"],
        c.1 = false := by
      have inside : (l.any fun f => decide (63 < f)) = false := by
        rw [List.any_eq_false]
        intro x mem
        have := low x mem
        simp
        omega
      have owned : ((((s.med k).leases.filter fun e => leState e.2 = 1).map fun e => leFold e.2).eraseDups.any fun f => !l.contains f) = false := by
        rw [List.any_eq_false]
        intro f mem
        obtain ⟨e, held, rfl⟩ := List.mem_map.mp (List.mem_eraseDups.mp mem)
        obtain ⟨lease, st⟩ := List.mem_filter.mp held
        simp [own e lease (of_decide_eq_true st)]
      exact List.forall_mem_cons.mpr ⟨by simp [sixteen], List.forall_mem_cons.mpr ⟨inside, List.forall_mem_singleton.mpr owned⟩⟩
    refine judged_next acc ?_
    simp only [if_neg no, here, now]
    rw [State.guard_passes _ ln passes]
    obtain ⟨turned, answered⟩ := acc.turnsMed size k (fun t m => if m.rotOn then { m with rotNext := some l }
      else { m with rotOn := true, rotSlots := l, rotNext := none, rotPos := 0, slotAt := t.now }) _ rfl [("med", .num k), ("slots", .nums l)]
    rw [State.modMed, here, now] at turned answered
    exact ⟨answered, turned⟩

end Sys2Proof.Machine

/-! Registers (R277, R795, R874, R879, R884, R885, R889, Tables CMD-15, REG-9). -/
namespace Sys2Proof.Machine

open Sys2Proof

/-! Reading (R795, R889). -/

/-- A read leaves all but its session, the causes of ALERT_N and the free values. -/
def OnlyRead (s t : State) : Prop := t = { s with now := t.now, sess := t.sess, waits := t.waits, alertCause := t.alertCause, freeCtr := t.freeCtr }

theorem OnlyRead.trans {s t u : State} (h : OnlyRead s t) (k : OnlyRead t u) : OnlyRead s u := by
  unfold OnlyRead at h k ⊢
  rw [k, h]

theorem OnlySessions.onlyRead {s t : State} (h : OnlySessions s t) : OnlyRead s t := by
  obtain ⟨e, -⟩ := h
  unfold OnlyRead
  rw [e]

theorem State.readReg_onlyRead (s : State) (addr : Nat) : OnlyRead s (s.readReg addr).2 := by
  unfold State.readReg
  dsimp only
  split
  · rfl
  · split <;> rfl

theorem State.readReg_sess (s : State) (addr : Nat) : (s.readReg addr).2.sess = s.sess := by
  unfold State.readReg
  dsimp only
  split
  · rfl
  · split <;> rfl

theorem State.peekFrom_onlyRead (ln : Ln) (addr n done : Nat) (s : State) : OnlyRead s (s.peekFrom ln addr n done) := by
  induction n generalizing done s with
  | zero => exact (OnlySessions.ok s ln _).onlyRead
  | succ n ih =>
    unfold State.peekFrom
    dsimp only
    split
    · exact ((s.readReg_onlyRead _).trans (OnlySessions.answer _ ln _).onlyRead).trans (ih _ _)
    · exact (OnlySessions.err s ln _ _).onlyRead

theorem State.peekFrom_none {s : State} {addr : Nat} (h : (s.readReg addr).1 = none) (ln : Ln) :
    State.peekFrom ln addr 1 0 s = s.err ln 604 [("addr", .hex addr)] := by
  simp [State.peekFrom, h]

theorem State.peekFrom_some {s : State} {addr v : Nat} (h : (s.readReg addr).1 = some v) (ln : Ln) : State.peekFrom ln addr 1 0 s
    = ((s.readReg addr).2.answer ln (.part [("addr", .hex addr), ("value", .hex v)])).ok ln [("count", .num 1)] := by
  simp [State.peekFrom, h]

/-- A `part` line is sent. -/
theorem Answers.part {s t : State} {ln : Ln} (h : Speaks s t ln.sess) (kv : KVs) : Answers s (t.answer ln (.part kv)) ln (.part kv) := by
  obtain ⟨low, up, pre, out⟩ := h
  have said : t.answer ln (.part kv) = t.modCs ln.sess fun c => { c with out := c.out ++ [.line ln.tag ln.crc (.part kv)] } := by
    simp [State.answer, State.say, up]
  exact ⟨pre, [], by rw [said]; simp [low, out]⟩

/-- What one register answers: its line, and the count. -/
theorem Answers.peek {s t : State} {ln : Ln} (h : Speaks s t ln.sess) {addr v : Nat} (read : (t.readReg addr).1 = some v) :
    Answers s (State.peekFrom ln addr 1 0 t) ln (.part [("addr", .hex addr), ("value", .hex v)])
      ∧ Answers s (State.peekFrom ln addr 1 0 t) ln (.ok [("count", .num 1)]) := by
  rw [State.peekFrom_some read]
  have speaks : Speaks s (t.readReg addr).2 ln.sess := h.of_sess (t.readReg_sess addr)
  have part := speaks.answer ln (.part [("addr", .hex addr), ("value", .hex v)])
  exact ⟨(Answers.part speaks _).onward (part.onward.answer ln _), Answers.ok part _⟩

/-! Writing (Table REG-9). -/

theorem State.poke_nowhere {s : State} {addr : Nat} (h : s.regAt addr 0 = none) (ln : Ln) (v mask : Word) :
    s.poke ln addr v mask = s.err ln 604 [("addr", .hex addr)] := by
  simp [State.poke, h]

theorem State.poke_readOnly {s : State} {addr : Nat} (h : s.regAt addr 0 ≠ none) (w : writableAt addr = none ∨ ∃ r, writableAt addr = some r ∧ s.writesTo r = false)
    (ln : Ln) (v mask : Word) : s.poke ln addr v mask = s.refuse ln "read-only" := by
  have here : (s.regAt addr 0).isNone = false :=
    Option.isNone_eq_false_iff.mpr (Option.ne_none_iff_isSome.mp h)
  unfold State.poke
  rw [here]
  rcases w with e | ⟨r, e, no⟩
  · simp [e]
  · simp [e, no]

theorem State.poke_writes {s : State} {addr : Nat} {r : Writable} (h : s.regAt addr 0 ≠ none) (e : writableAt addr = some r) (w : s.writesTo r = true)
    (ln : Ln) (v mask : Word) : s.poke ln addr v mask
      = (s.writeReg r v mask).ok ln [("addr", .hex addr), ("value", .hex (((s.writeReg r v mask).regAt addr 0).getD 0))] := by
  have here : (s.regAt addr 0).isNone = false :=
    Option.isNone_eq_false_iff.mpr (Option.ne_none_iff_isSome.mp h)
  simp [State.poke, here, e, w]

/-! The paddocks' saturation bits (R277). -/

theorem clearBits_get (v : Word) (l : List Nat) (t : Tab Bool) (k : Nat) :
    tabGet false (l.foldl (fun (t : Tab Bool) k => if v.getLsbD k then tabSet false t k false else t) t) k
      = (tabGet false t k && !(decide (k ∈ l) && v.getLsbD k)) := by
  induction l generalizing t with
  | nil => simp
  | cons j l ih =>
    rw [List.foldl_cons, ih]
    by_cases set : v.getLsbD j = true
    · rw [if_pos set, tabGet_set]
      by_cases e : k = j
      · subst e
        simp [set]
      · simp [e]
    · rw [if_neg set]
      by_cases e : k = j
      · subst e
        simp [set]
      · simp [e]

theorem satAddr {n : Nat} (low : n < 1344) : writableAt (0x08000000 + n * 0x1000 + 0x14) = some (.sat n) := by
  have a : 0x08000000 + n * 0x1000 + 0x14 ≠ 0x18 := by omega
  have b : 0x08000000 + n * 0x1000 + 0x14 ≠ 0x48 := by omega
  have c : 0x08000000 ≤ 0x08000000 + n * 0x1000 + 0x14 := by omega
  have d : 0x08000000 + n * 0x1000 + 0x14 < 0x08000000 + 1344 * 0x1000 := by omega
  have e : (0x08000000 + n * 0x1000 + 0x14) % 0x1000 = 0x14 := by omega
  have f : (0x08000000 + n * 0x1000 + 0x14 - 0x08000000) / 0x1000 = n := by omega
  simp only [writableAt, if_neg a, if_neg b, c, d, e, f, decide_true, Bool.and_self, if_true]

theorem regAt_sat (s : State) {n : Nat} (low : n < 1344) : s.regAt (0x08000000 + n * 0x1000 + 0x14) 0 ≠ none := by
  have a : ¬ (0x08000000 + n * 0x1000 + 0x14) % 4 ≠ 0 := by omega
  have b : ¬ 0x08000000 + n * 0x1000 + 0x14 < 0x01000000 := by omega
  have c : ¬ 0x08000000 + n * 0x1000 + 0x14 < 0x01000000 + 24 * 0x40000 := by omega
  have d : ¬ 0x08000000 + n * 0x1000 + 0x14 < 0x02000000 + 12 * 0x40000 := by omega
  have e : ¬ 0x08000000 + n * 0x1000 + 0x14 < 0x03000000 + 16 * 0x40000 := by omega
  have f : 0x08000000 ≤ 0x08000000 + n * 0x1000 + 0x14 := by omega
  have g : 0x08000000 + n * 0x1000 + 0x14 < 0x08000000 + 1344 * 0x1000 := by omega
  have h : (0x08000000 + n * 0x1000 + 0x14) % 0x1000 = 0x14 := by omega
  unfold State.regAt
  simp only [if_neg a, if_neg b, if_neg c, d, e, f, g, h, decide_true, decide_false, Bool.and_self, Bool.and_false, Bool.false_eq_true, if_true, if_false]
  simp [State.regPad]

theorem wselAddr {k : Nat} (low : k < 24) : writableAt (0x01000000 + k * 0x40000 + 0x3000) = some (.wsel k) := by
  have a : 0x01000000 + k * 0x40000 + 0x3000 ≠ 0x18 := by omega
  have b : 0x01000000 + k * 0x40000 + 0x3000 ≠ 0x48 := by omega
  have c : ¬ 0x08000000 ≤ 0x01000000 + k * 0x40000 + 0x3000 := by omega
  have d : 0x01000000 ≤ 0x01000000 + k * 0x40000 + 0x3000 := by omega
  have e : 0x01000000 + k * 0x40000 + 0x3000 < 0x01000000 + 24 * 0x40000 := by omega
  have f : (0x01000000 + k * 0x40000 + 0x3000) % 0x40000 = 0x3000 := by omega
  have g : (0x01000000 + k * 0x40000 + 0x3000 - 0x01000000) / 0x40000 = k := by omega
  simp only [writableAt, if_neg a, if_neg b, c, d, e, f, g, decide_true, decide_false, Bool.false_and, Bool.and_self, Bool.false_eq_true, if_false, if_true]

theorem regAt_wsel (s : State) {k : Nat} (low : k < 24) : s.regAt (0x01000000 + k * 0x40000 + 0x3000) 0 ≠ none := by
  have a : ¬ (0x01000000 + k * 0x40000 + 0x3000) % 4 ≠ 0 := by omega
  have b : ¬ 0x01000000 + k * 0x40000 + 0x3000 < 0x01000000 := by omega
  have c : 0x01000000 + k * 0x40000 + 0x3000 < 0x01000000 + 24 * 0x40000 := by omega
  have d : (0x01000000 + k * 0x40000 + 0x3000) % 0x40000 = 0x3000 := by omega
  unfold State.regAt
  simp only [if_neg a, if_neg b, c, d, if_true]
  simp [State.regNed]

theorem allOnes_word (v : Word) : v &&& 0xFFFFFFFF = v := by
  have : (0xFFFFFFFF : Word) = BitVec.allOnes 32 := by decide
  rw [this, BitVec.and_allOnes]

/-- A write of SHC_FAULTACK acknowledges where its bit 0 is 1. -/
theorem State.writeReg_faultAck (s : State) (v : Word) : s.writeReg .faultAck v 0xFFFFFFFF = if v.getLsbD 0 then s.ack else s := by
  simp only [State.writeReg, allOnes_word]

theorem State.writeReg_sat (s : State) (n : Nat) (v : Word) : s.writeReg (.sat n) v 0xFFFFFFFF = s.clearSat n v := by
  simp only [State.writeReg, allOnes_word]

theorem State.writeReg_wsel (s : State) (k : Nat) (v : Word) : s.writeReg (.wsel k) v 0xFFFFFFFF = s.loadWindow k v := by
  have none : ~~~(0xFFFFFFFF : Word) = 0 := by decide
  simp only [State.writeReg, allOnes_word, none]
  rw [BitVec.ofNat_eq_ofNat, BitVec.and_zero, BitVec.zero_or]

theorem State.loadWindow_shadow {s : State} {k : Nat} (low : k < s.shadow.length) (v : Word) :
    (s.loadWindow k v).shadow.getD k [] = s.windowWords k (bitsOf v 0 2) (bitsOf v 2 13) := by
  unfold State.loadWindow
  dsimp only
  rw [listSet_getD, if_pos ⟨rfl, low⟩]

theorem State.ok_shadow (s : State) (ln : Ln) (kv : KVs) : (s.ok ln kv).shadow = s.shadow := by
  rw [(OnlySessions.ok s ln kv).1]

/-- Settles O45. -/
theorem registersReadAndWrite : Obligations.RegistersReadAndWrite := by
  refine ⟨fun addr count ln s acc one most => ?peek, fun v mask ln s acc => ?scratch, fun addr v mask ln s acc => ?refused, fun v ln s acc => ?ack,
    fun n v ln s acc => ?sat, fun k v ln s acc length => ?wsel, fun ln s acc => ?cause⟩
  case peek =>
    refine judged_next acc ?_
    rw [State.inRange_in most one]
    refine ⟨(OnlySessions.atLine s ln).onlyRead.trans (State.peekFrom_onlyRead _ _ _ _ _), fun e nowhere => ?_, fun v e read => ?_⟩
    · rw [e, Option.getD_none, State.peekFrom_none nowhere]
      exact Answers.err acc.speaks _ _
    · rw [e, Option.getD_none]
      exact Answers.peek acc.speaks read
  case scratch =>
    have old : (s.atLine ln).scratch = s.scratch := by simp
    refine judged_next acc ?_
    rw [State.poke_writes (r := .scratch) (by simp [State.regAt, State.regShc]) rfl rfl]
    obtain ⟨told, answered⟩ := acc.acts (fun t => t.writeReg .scratch v (mask.getD 0xFFFFFFFF))
      (fun _ _ _ => rfl) rfl rfl [("addr", .hex 0x48), ("value", .hex ((s.scratch &&& ~~~(mask.getD 0xFFFFFFFF)) ||| (v &&& mask.getD 0xFFFFFFFF)).toNat)]
    have value : (((s.atLine ln).writeReg .scratch v (mask.getD 0xFFFFFFFF)).regAt 0x48 0).getD 0
        = ((s.scratch &&& ~~~(mask.getD 0xFFFFFFFF)) ||| (v &&& mask.getD 0xFFFFFFFF)).toNat := by
      simp [State.regAt, State.regShc, State.writeReg]
    have scratch := congrArg State.scratch told.1
    rw [value]
    refine ⟨scratch, ?_⟩
    rw [scratch]
    exact answered
  case refused =>
    refine judged_next acc ⟨fun nowhere => ?_, fun here readOnly => ?_⟩
    · rw [State.poke_nowhere nowhere]
      exact ⟨(OnlySessions.atLine s ln).trans (.err _ ln _ _), Answers.err acc.speaks _ _⟩
    · rw [State.poke_readOnly here (.inl readOnly)]
      exact ⟨(OnlySessions.atLine s ln).trans (.err _ ln _ _), Answers.err acc.speaks _ _⟩
  case ack =>
    refine judged_next acc ?_
    rw [State.poke_writes (r := .faultAck) (by simp [State.regAt, State.regShc]) rfl rfl, State.writeReg_faultAck]
    have value : ((if v.getLsbD 0 then (s.atLine ln).ack else s.atLine ln).regAt 0x18 0).getD 0 = 0 := by
      split <;> rfl
    rw [value]
    have fault : (s.atLine ln).ack.faultN = (s.faultN && s.faultStands) := atLine_reads (fun s => s.ack.faultN) s ln fun _ _ _ => rfl
    have alert : (s.atLine ln).ack.alertN = (s.alertN && s.alertStands) := atLine_reads (fun s => s.ack.alertN) s ln fun _ _ _ => rfl
    by_cases set : v.getLsbD 0 = true
    · obtain ⟨faultTold, alertTold, -⟩ := State.ack_told (OnlySessions.atLine s ln) ln [("addr", .hex 0x18), ("value", .hex 0)]
      rw [if_pos set]
      exact ⟨Answers.ok (acc.speaks.of_sess (State.ack_sess _)) _, fun _ => ⟨faultTold.trans fault, alertTold.trans alert⟩,
        fun no => absurd (set.symm.trans no) (by decide)⟩
    · rw [if_neg set]
      exact ⟨Answers.ok acc.speaks _, fun yes => absurd yes set, fun _ => (OnlySessions.atLine s ln).trans (.ok _ ln _)⟩
  case sat =>
    have ring : (s.atLine ln).writesTo (.sat n) = (s.field (fieldOf n)).ringOn :=
      atLine_reads (fun s => s.writesTo (.sat n)) s ln fun _ _ _ => rfl
    have here := regAt_sat (s.atLine ln) n.isLt
    refine judged_next acc ⟨fun on k low => ?_, fun off => ?_⟩
    · rw [State.poke_writes here (satAddr n.isLt) (ring.trans on), State.writeReg_sat]
      have bits : tabGet false (((s.atLine ln).clearSat n v).pad n).coarse.sat k = (tabGet false (s.pad n).coarse.sat k && !v.getLsbD k) := by
        have four : k ∈ List.range 4 := List.mem_range.mpr low
        simp only [State.clearSat, State.modPad_pad, if_true, clearBits_get, four, decide_true, Bool.true_and]
        simp
      rw [State.pad, (OnlySessions.ok _ ln _).1]
      exact bits
    · rw [State.poke_readOnly here (.inr ⟨_, satAddr n.isLt, ring.trans off⟩)]
      exact ⟨(OnlySessions.atLine s ln).trans (.err _ ln _ _), Answers.err acc.speaks _ _⟩
  case wsel =>
    refine ⟨_, congrArg Host.Outcome.next (State.judged_accepts acc), ?_⟩
    rw [State.poke_writes (regAt_wsel _ k.isLt) (wselAddr k.isLt) rfl, State.writeReg_wsel]
    have same : (s.atLine ln).shadow = s.shadow := by simp
    have low : k.val < (s.atLine ln).shadow.length := by
      rw [same]
      omega
    rw [State.ok_shadow]
    exact State.loadWindow_shadow low v
  case cause =>
    refine judged_next acc ?_
    have read : (s.atLine ln).readReg aAlertCause = (some s.alertCause.toNat, { s.atLine ln with alertCause := 0 }) := by
      have cause : (s.atLine ln).alertCause = s.alertCause := by simp
      simp [State.readReg, State.regAt, State.regShc, aAlertCause, cause]
    obtain ⟨part, count⟩ := Answers.peek acc.speaks (congrArg Prod.fst read)
    refine ⟨?_, part, count⟩
    rw [State.peekFrom_some (congrArg Prod.fst read), congrArg Prod.snd read]
    exact (((OnlySessions.act s ln (fun s => { s with alertCause := 0 }) (fun _ _ _ => rfl) rfl).trans (.answer _ ln _)).trans (.ok _ ln _)).1

end Sys2Proof.Machine

/-! Span links, the flock and the wafer map, as the operator commands them (R57, R59, R63, R68, R410, R415, Tables CMD-6, CMD-8, CMD-9). -/
namespace Sys2Proof.Machine

open Sys2Proof

/-! The members of a placement (R415). -/

/-- The bits of a set of numbers. -/
def maskOf (p : Nat → Bool) (n : Nat) : Nat := (List.range n).foldl (fun a w => if p w then a + 2 ^ w else a) 0

theorem maskOf_lt (p : Nat → Bool) (n : Nat) : maskOf p n < 2 ^ n := by
  induction n with
  | zero => simp [maskOf]
  | succ n ih =>
    have step : maskOf p (n + 1) = if p n then maskOf p n + 2 ^ n else maskOf p n := by simp [maskOf, List.range_succ]
    rw [step, Nat.pow_succ]
    split <;> omega

theorem maskOf_testBit (p : Nat → Bool) {m n : Nat} (low : m < n) : (maskOf p n).testBit m = p m := by
  induction n with
  | zero => omega
  | succ n ih =>
    have step : maskOf p (n + 1) = if p n then maskOf p n + 2 ^ n else maskOf p n := by simp [maskOf, List.range_succ]
    have below := maskOf_lt p n
    rw [step]
    by_cases e : m = n
    · subst e
      split
      · rename_i yes
        rw [Nat.add_comm, Nat.testBit_two_pow_add_eq, Nat.testBit_lt_two_pow below, yes]
        rfl
      · rename_i no
        rw [Nat.testBit_lt_two_pow below]
        simpa using no
    · have low' : m < n := by omega
      split
      · rw [Nat.add_comm, Nat.testBit_two_pow_add_gt low', ih low']
      · exact ih low'

/-! Reserves (R59, R68). -/

/-- A paddock that an operator kept DARK is powered in GRAZE where it becomes a reserve (R68). -/
def State.litAgain (s : State) (n : Nat) (on : Bool) : State :=
  if on && (s.pad n).opDark then (s.modPad n fun p => { p with opDark := false }).enqueueWave n .graze else s

theorem State.litAgain_kept (s : State) (n : Nat) (on : Bool) : (s.litAgain n on).map = s.map ∧ (s.litAgain n on).sess = s.sess := by
  unfold State.litAgain
  split
  · obtain ⟨w, e⟩ := (s.modPad n fun p => { p with opDark := false }).enqueueWave_eq n .graze
    rw [e]
    exact ⟨rfl, rfl⟩
  · exact ⟨rfl, rfl⟩

/-- The entry of a paddock of a field, with what the field keeps of its reserves. -/
def State.reserveNoted (s : State) (n : Nat) (e : MapEntry) : State :=
  (s.setEntry n e).modField (fieldOf n) fun x => { x with noReserve := decide ((s.setEntry n e).reserves (fieldOf n) = 0) }

/-- A paddock of a field is designated a reserve, or is none any more. -/
def State.reserveSet (s : State) (n : Nat) (on : Bool) : State :=
  ((s.reserveNoted n (if on then ⟨3, 63, 0⟩ else ⟨0, 63, 0⟩)).litAgain n on).mirror

theorem State.reserveSet_map (s : State) (n : Nat) (on : Bool) :
    (s.reserveSet n on).map = (s.setEntry n (if on then ⟨3, 63, 0⟩ else ⟨0, 63, 0⟩)).map := by
  unfold State.reserveSet
  rw [show ∀ u : State, u.mirror.map = u.map from fun u => by simp, (State.litAgain_kept _ _ _).1]
  rfl

theorem State.reserveSet_entry (s : State) (n : Nat) (on : Bool) (m : Nat) :
    (s.reserveSet n on).entry m = if m = n then (if on then ⟨3, 63, 0⟩ else ⟨0, 63, 0⟩) else s.entry m := by
  rw [State.entry, State.reserveSet_map]
  exact State.setEntry_entry _ _ _ _

theorem State.reserveSet_talk (s : State) (n : Nat) (on : Bool) : (s.reserveSet n on).talk = s.talk := by
  unfold State.reserveSet
  rw [State.mirror_talk, State.talk, (State.litAgain_kept _ _ _).2]
  rfl

theorem reserves_of_map {s t : State} (h : t.map = s.map) (f : Nat) : t.reserves f = s.reserves f := by
  unfold State.reserves State.entry
  rw [h]

theorem State.ok_spd (s : State) (ln : Ln) (kv : KVs) (j : Nat) : (s.ok ln kv).spd j = s.spd j := by
  rw [(OnlySessions.ok s ln kv).1]
  rfl

theorem State.ok_field (s : State) (ln : Ln) (kv : KVs) (f : Nat) : (s.ok ln kv).field f = s.field f := by
  rw [(OnlySessions.ok s ln kv).1]
  rfl

theorem State.ok_map (s : State) (ln : Ln) (kv : KVs) : (s.ok ln kv).map = s.map := by
  rw [(OnlySessions.ok s ln kv).1]

/-- The answer to `set reserve` counts the reserves that stand. -/
theorem State.accepts.reserved {s : State} {ln : Ln} {need : Level} {boot : Bool} (acc : s.accepts ln need boot) (n : Nat) (on : Bool) :
    let t := ((s.atLine ln).reserveNoted n (if on then ⟨3, 63, 0⟩ else ⟨0, 63, 0⟩)).litAgain n on
    let u := t.mirror.ok ln [("reserves", .num (t.reserves (fieldOf n)))]
    Answers s u ln (.ok [("reserves", .num (u.reserves (fieldOf n)))]) := by
  intro t u
  have mirrored : t.mirror.map = t.map := by simp
  have same : u.reserves (fieldOf n) = t.reserves (fieldOf n) :=
    reserves_of_map ((State.ok_map _ _ _).trans mirrored) _
  rw [same]
  exact Answers.ok (acc.speaks.of_talk ((s.atLine ln).reserveSet_talk n on)) _

/-! The map in pieces (R63, R829). -/

/-- Every line listed is sent. -/
theorem Answers.parts_mem {s t : State} {ln : Ln} (h : Speaks s t ln.sess) {ps : List KVs} {p : KVs} (mem : p ∈ ps) (kv : KVs) :
    Answers s (t.parts ln ps kv) ln (.part p) := by
  obtain ⟨front, back, rfl⟩ := List.append_of_mem mem
  have spoken (l : List KVs) (u : State) (k : Speaks s u ln.sess) : Speaks s (l.foldl (fun s p => s.answer ln (.part p)) u) ln.sess :=
    k.foldl l fun t a k => k.answer ln _
  have first := spoken front t h
  unfold State.parts
  rw [List.foldl_append, List.foldl_cons]
  have said := Answers.part first p
  have after := first.answer ln (.part p)
  refine said.onward (Speaks.answer ?_ ln _)
  exact after.onward.foldl back fun t a k => k.answer ln _

/-- The pieces of a copy of the map. -/
def MapCopy.pieces (m : MapCopy) : List KVs :=
  (List.range 23).map fun i => [("off", .num (128 * i)), ("data", .bytes (slice m.record (128 * i) 128))]

theorem State.writeMap_sess (s : State) (full ok : Bool) : (s.writeMap full ok).sess = s.sess := by
  unfold State.writeMap
  split <;> rfl

/-- Settles O40. -/
theorem spanAndMapCommandsAct : Obligations.SpanAndMapCommandsAct := by
  refine ⟨fun j ln s acc size named down well => ?retrain, fun id w members ln s acc takes low mem all => ?flock, fun j d ln s acc ed => ?span,
    fun ms ln s acc ems => ?members, fun c r n f on bad ln s acc low low' en ef free ebad => ?reserve, fun x y on ln s acc low low' free => ?exclude,
    fun ln s acc => ?counts, fun ls ps ln s acc at_ => ?entries, fun m ln s acc takes found => ?export_⟩
  case retrain =>
    have spd : (s.atLine ln).spd j = s.spd j := atLine_reads (fun s => s.spd j) s ln fun _ _ _ => rfl
    have named' : (s.atLine ln).spdNamed j = true := (atLine_reads (fun s => s.spdNamed j) s ln fun _ _ _ => rfl).trans named
    have low : ¬ j.val ≥ 16 := by omega
    have here : j.val < (s.atLine ln).spds.length := by
      obtain ⟨-, -, -, spds⟩ := sized_atLine size ln
      omega
    refine judged_next acc ?_
    simp only [low, named', spd, down, well, State.trainSpan, Bool.not_true, Bool.not_false, Bool.and_true, decide_false, Bool.or_self,
      Bool.false_eq_true, if_false, if_true]
    refine ⟨?_, Answers.ok (acc.speaks.of_talk (by simp)) _⟩
    refine (State.ok_spd _ ln _ _).trans ((State.modSpd_spd _ _ _ _).trans ((if_pos ⟨rfl, here⟩).trans ?_))
    rw [spd, ← well]
  case flock =>
    have takes' := State.accepts.atLine_flashTakes takes
    have inside : (!members.contains w || members.any fun m => decide (15 < m)) = false := by
      have most : (members.any fun m => decide (15 < m)) = false := by
        rw [List.any_eq_false]
        intro m h
        have := all m h
        simp
        omega
      simp [mem, most]
    refine judged_next acc ?_
    rw [State.inRange_in low (Nat.zero_le _)]
    simp only [inside, takes', Bool.not_true, Bool.false_eq_true, if_false]
    obtain ⟨told, answered⟩ := acc.acts (fun t => { t with flash := { t.flash with place := ⟨id, w, BitVec.ofNat 16 (maskOf (fun w => members.contains w) 16)⟩ } })
      (fun _ _ _ => rfl) rfl rfl [("id", .hex id.toNat), ("wafer", .num w), ("members", .nums members)]
    have flash := congrArg (fun t : State => t.flash.place) told.1
    have place := congrArg State.place told.1
    refine ⟨place, congrArg Place.flockId flash, congrArg Place.wafer flash, fun m small => ?_, answered⟩
    refine (congrArg (fun p : Place => p.members.getLsbD m) flash).trans ?_
    change (BitVec.ofNat 16 (maskOf (fun w => members.contains w) 16)).getLsbD m = _
    rw [BitVec.getLsbD_ofNat, maskOf_testBit _ small]
    simp [small]
  case span =>
    have spd : (s.atLine ln).spd j = d := (atLine_reads (fun s => s.spd j) s ln fun _ _ _ => rfl).trans ed.symm
    have me : (s.atLine ln).me = s.me := atLine_reads State.me s ln fun _ _ _ => rfl
    have tally : (s.atLine ln).tally ⟨.spd, j, tsTransient⟩ = s.tally ⟨.spd, j, tsTransient⟩ := atLine_reads (fun s => s.tally _) s ln fun _ _ _ => rfl
    have relay : (s.atLine ln).relayVal (spdPeer s.me j).1 = s.relayVal (spdPeer s.me j).1 := atLine_reads (fun s => s.relayVal _) s ln fun _ _ _ => rfl
    have low : ¬ j.val ≥ 16 := by omega
    refine judged_next acc ?_
    simp only [low, spd, me, tally, relay, if_false]
    exact ⟨(OnlySessions.atLine s ln).trans (.ok _ ln _), Answers.ok acc.speaks _⟩
  case members =>
    have me : (s.atLine ln).me = s.me := atLine_reads State.me s ln fun _ _ _ => rfl
    have others : (s.atLine ln).flockMembers = s.flockMembers := atLine_reads State.flockMembers s ln fun _ _ _ => rfl
    refine judged_next acc ?_
    refine ⟨(OnlySessions.atLine s ln).trans (.parts _ ln _ _), ?_⟩
    rw [me, others, ← ems]
    have answer (head : KVs) (member : Nat → KVs) : Answers s ((s.atLine ln).parts ln (head :: ms.map member) []) ln (.ok [("count", .num (ms.length + 1))]) := by
      have shown := Answers.parts acc.speaks (head :: ms.map member) []
      rw [List.length_cons, List.length_map] at shown
      exact shown
    exact answer _ _
  case reserve =>
    have bad' : (if on then ((s.atLine ln).pad n).leased || isFine n || decide (((s.atLine ln).entry n).st = 2) || ((s.atLine ln).field f).excluded
        || ((s.atLine ln).field f).latched || (decide (((s.atLine ln).entry n).st ≠ 3) && decide (2 ≤ (s.atLine ln).reserves f))
        else decide (((s.atLine ln).entry n).st ≠ 3)) = bad :=
      (atLine_reads (fun s => if on then (s.pad n).leased || isFine n || decide ((s.entry n).st = 2) || (s.field f).excluded
        || (s.field f).latched || (decide ((s.entry n).st ≠ 3) && decide (2 ≤ s.reserves f)) else decide ((s.entry n).st ≠ 3)) s ln
        fun _ _ _ => rfl).trans ebad.symm
    have free' : (s.atLine ln).claimed n = false := (atLine_reads (fun s => s.claimed n) s ln fun _ _ _ => rfl).trans free
    have inside : (!(decide (c < 28) && decide (r < 48))) = false := by simp [low, low']
    have entry (m : Nat) : (s.atLine ln).entry m = s.entry m := atLine_reads (fun s => s.entry m) s ln fun _ _ _ => rfl
    subst en ef
    refine judged_next acc ?_
    simp only [inside, free', Bool.false_eq_true, if_false]
    rw [bad']
    cases bad with
    | true => exact ⟨fun _ => ⟨(OnlySessions.atLine s ln).trans (.err _ ln _ _), Answers.err acc.speaks _ _⟩, nofun⟩
    | false =>
      refine ⟨nofun, fun _ => ?_⟩
      have own (u : State) (kv : KVs) (m : Nat) : (u.ok ln kv).entry m = u.entry m := by rw [State.entry, State.ok_map]; rfl
      refine ⟨(own _ _ _).trans ?_, fun m other => (own _ _ _).trans ?_, ?_⟩
      · exact ((s.atLine ln).reserveSet_entry _ on _).trans (if_pos rfl)
      · exact (((s.atLine ln).reserveSet_entry _ on m).trans (if_neg other)).trans (entry m)
      · exact acc.reserved (padAt c r) on
  case exclude =>
    have inside : (!(decide (x < 7) && decide (y < 12))) = false := by simp [low, low']
    have free' : ((fieldPads (7 * y + x)).any fun n => ((s.atLine ln).pad n).leased) = false := by
      rw [List.any_eq_false]
      intro n mem
      simp [free n mem]
    refine judged_next acc ?_
    simp only [inside, free', Bool.false_eq_true, if_false]
    refine ⟨?_, Answers.ok (acc.speaks.of_talk (by simp)) _⟩
    have field : (s.atLine ln).field (7 * y + x) = s.field (7 * y + x) := atLine_reads (fun s => s.field (7 * y + x)) s ln fun _ _ _ => rfl
    have kept (u : State) (f : Nat) : u.mirror.field f = u.field f := by
      rw [State.field, State.field]
      simp
    refine (State.ok_field _ ln _ _).trans ((kept _ _).trans ((State.modField_field _ _ _ _).trans ?_))
    rw [if_pos rfl, field]
  case counts =>
    have map : (s.atLine ln).map = s.map := by simp
    have boot : (s.atLine ln).boot = s.boot := by simp
    have field (f : Nat) : (s.atLine ln).field f = s.field f := atLine_reads (fun s => s.field f) s ln fun _ _ _ => rfl
    have newer : newerSeq (s.atLine ln) = newerSeq s := atLine_reads newerSeq s ln fun _ _ _ => rfl
    refine judged_next acc ?_
    simp only [map, boot, field, newer]
    exact ⟨(OnlySessions.atLine s ln).trans (.ok _ ln _), Answers.ok acc.speaks _⟩
  case entries =>
    refine judged_next acc ?_
    simp only [at_]
    refine ⟨(OnlySessions.atLine s ln).trans (.parts _ ln _ _), ?_⟩
    have answer (one : Nat → KVs) : Answers s ((s.atLine ln).parts ln (ps.map one) []) ln (.ok [("count", .num ps.length)]) := by
      have shown := Answers.parts acc.speaks (ps.map one) []
      rw [List.length_map] at shown
      exact shown
    exact answer _
  case export_ =>
    have changed : (s.atLine ln).mapChanged = s.mapChanged := atLine_reads State.mapChanged s ln fun _ _ _ => rfl
    have may : ((s.atLine ln).mapChanged && !(s.atLine ln).flashTakes ln) = false := by
      rw [changed]
      cases was : s.mapChanged with
      | true => simp [State.accepts.atLine_flashTakes (takes was)]
      | false => rfl
    have full : (s.atLine ln).boot.full = s.boot.full := by simp
    have copy : (if (s.atLine ln).mapChanged then (s.atLine ln).writeMap (s.atLine ln).boot.full true else s.atLine ln).validMap = some m := by
      rw [changed, full, ← found]
      split
      · rfl
      · exact atLine_reads State.validMap s ln fun _ _ _ => rfl
    have speaks : Speaks s (if (s.atLine ln).mapChanged then (s.atLine ln).writeMap (s.atLine ln).boot.full true else s.atLine ln) ln.sess := by
      split
      · exact acc.speaks.of_sess (State.writeMap_sess _ _ _)
      · exact acc.speaks
    refine judged_next acc ?_
    simp only [may, Bool.false_eq_true, if_false, copy]
    refine ⟨fun same => ?_, fun i low => ?_, ?_⟩
    · rw [changed, same]
      exact (OnlySessions.atLine s ln).trans (.parts _ ln _ _)
    · exact Answers.parts_mem speaks (List.mem_map.mpr ⟨i, List.mem_range.mpr low, rfl⟩) _
    · have count : m.pieces.length = 23 := by simp [MapCopy.pieces]
      have answer := Answers.parts speaks m.pieces [("seq", .num m.seq), ("size", .num 2832)]
      rw [count] at answer
      exact answer

end Sys2Proof.Machine

/-! Connections, the management port and the ends of waits on a session (R749, R750, R778, R779, R797, R802, R805, R807, R826). -/
namespace Sys2Proof.Machine

open Sys2Proof

/-- A session that is up is one of the ten. -/
theorem State.up_low {s : State} {i : Nat} (up : (s.cs i).up = true) : i < s.sess.length := by
  by_contra beyond
  have none : s.cs i = CSess.initial false := by
    unfold State.cs
    rw [List.getD_eq_getElem?_getD, List.getElem?_eq_none (by omega)]
    rfl
  rw [none] at up
  exact absurd up (by decide)

/-- The TCP sessions, in order. -/
def tcpSessions : List Nat := (List.range 8).map (· + 2)

theorem mem_tcpSessions {i : Nat} : i ∈ tcpSessions ↔ 2 ≤ i ∧ i < 10 := by
  constructor
  · intro h
    obtain ⟨k, mem, rfl⟩ := List.mem_map.mp h
    have := List.mem_range.mp mem
    omega
  · rintro ⟨low, high⟩
    exact List.mem_map.mpr ⟨i - 2, List.mem_range.mpr (by omega), by omega⟩

theorem firstFree {s : State} {i : Nat} (low : 2 ≤ i) (high : i < 10) (free : (s.cs i).up = false)
    (taken : ∀ j, 2 ≤ j → j < i → (s.cs j).up = true) : tcpSessions.find? (fun i => !(s.cs i).up) = some i := by
  have first : (List.range 8).find? ((fun i => !(s.cs i).up) ∘ (· + 2)) = some (i - 2) := by
    rw [List.find?_range_eq_some]
    refine ⟨by simp [Nat.sub_add_cancel low, free], List.mem_range.mpr (by omega), fun j before => ?_⟩
    simp [taken (j + 2) (by omega) (by omega)]
  rw [tcpSessions, List.find?_map, first, Option.map_some, Nat.sub_add_cancel low]

theorem noneFree {s : State} (taken : ∀ i, 2 ≤ i → i < 10 → (s.cs i).up = true) : tcpSessions.find? (fun i => !(s.cs i).up) = none := by
  rw [List.find?_eq_none]
  intro i mem
  obtain ⟨low, high⟩ := mem_tcpSessions.mp mem
  simp [taken i low high]

/-- A connection that closes (R779, R797). -/
theorem State.closeTcp_effect {s : State} {i : Nat} (low : i < s.sess.length) (ten : i ≠ 10) :
    (s.closeTcp i).cs i = { CSess.initial false with out := (s.cs i).out } ∧ (∀ w ∈ (s.closeTcp i).waits, w.sess ≠ i)
      ∧ (s.closeTcp i).waits.length = s.waits.length := by
  refine ⟨?_, fun w mem => ?_, List.length_map _⟩
  · exact (State.modCs_cs s i i fun c => { CSess.initial false with out := c.out }).trans (if_pos ⟨rfl, low⟩)
  · obtain ⟨v, -, rfl⟩ := List.mem_map.mp mem
    split
    · exact ten.symm
    · assumption

theorem drawBytes_rest (n : Nat) (s : State) : (drawBytes n s).2 = { s with freeCtr := (drawBytes n s).2.freeCtr } := by
  induction n generalizing s with
  | zero => rfl
  | succ n ih =>
    unfold drawBytes
    dsimp only
    rw [ih]

/-- What is said leaves a session's login, its bells and whether it is up. -/
theorem State.say_kept (s : State) (i : Nat) (o : Out) : ((s.say i o).cs i).login = (s.cs i).login ∧ ((s.say i o).cs i).bellQ = (s.cs i).bellQ
    ∧ ((s.say i o).cs i).up = (s.cs i).up := by
  unfold State.say
  split
  · rw [State.modCs_cs]
    split <;> exact ⟨rfl, rfl, rfl⟩
  · exact ⟨rfl, rfl, rfl⟩

theorem State.prompt_kept (s : State) (i : Nat) : ((s.prompt i).cs i).login = (s.cs i).login ∧ ((s.prompt i).cs i).bellQ = (s.cs i).bellQ
    ∧ ((s.prompt i).cs i).up = (s.cs i).up := by
  unfold State.prompt
  split
  · exact s.say_kept i _
  · exact ⟨rfl, rfl, rfl⟩

/-- A login ends: the session is OPEN without bells, and a connection closes (R826). -/
theorem State.endLogin_effect {s : State} {i : Nat} (up : (s.cs i).up = true) (low : i < 10) : ((s.endLogin i).cs i).login = .open
    ∧ ((s.endLogin i).cs i).bellQ = [] ∧ ((s.endLogin i).cs i).up = decide (i < 2) := by
  have inside := State.up_low up
  unfold State.endLogin
  split
  · rename_i console
    rw [State.modCs_cs, if_pos ⟨rfl, inside⟩]
    exact ⟨rfl, rfl, up.trans (decide_eq_true console).symm⟩
  · rename_i tcp
    rw [(State.closeTcp_effect inside (by omega)).1]
    exact ⟨rfl, rfl, (decide_eq_false tcp).symm⟩

/-- Settles O25. -/
theorem connectionsAndTimeouts : Obligations.ConnectionsAndTimeouts := by
  refine ⟨fun i t s size run active started low high free taken => ?connect, fun t s run active started taken => ?full, fun i t s run tcp up => ?close,
    fun f t s run active started arp => ?arp, fun f t s run active started arp echo => ?echo, fun f t s run active started arp echo => ?other,
    fun t s run active owed => ?announce, fun i user lvl t s hears login idle queued late => ?idle, fun i user c since t s run ten login late => ?challenge,
    fun i until_ t s run ten locked late => ?lock, fun i t s run active up lost => ?lost⟩
  case connect =>
    have inside : i < s.sess.length := by
      obtain ⟨sess, -⟩ := size
      omega
    refine event_next run (by simp [active, started]) ?_
    have first : tcpSessions.find? (fun i => !((s.tick t).cs i).up) = some i := firstFree low high free taken
    unfold tcpSessions at first
    simp only [first]
    have own : ((s.tick t).setCs i { CSess.initial false with up := true, lastLine := (s.tick t).now }).cs i
        = { CSess.initial false with up := true, lastLine := (s.tick t).now } := (State.setCs_cs _ _ _ _).trans (if_pos ⟨rfl, inside⟩)
    exact ⟨congrArg CSess.up own, congrArg CSess.login own, congrArg CSess.lastLine own, congrArg CSess.lineNo own, congrArg CSess.queued own,
      fun j other => (State.setCs_cs _ _ _ _).trans (if_neg fun h => other h.1)⟩
  case full =>
    refine event_next run (by simp [active, started]) ?_
    have none : tcpSessions.find? (fun i => !((s.tick t).cs i).up) = none := noneFree taken
    unfold tcpSessions at none
    simp only [none]
    rfl
  case close =>
    refine event_next run (by simpa using ⟨tcp, up⟩) ?_
    obtain ⟨cs, gone, count⟩ := State.closeTcp_effect (s := s.tick t) (i := i) (State.up_low up) (by omega)
    exact ⟨congrArg CSess.up cs, congrArg CSess.login cs, gone, count⟩
  case arp =>
    have arp' : (s.tick t).arpForMe f = true := arp
    refine event_next run (by simp [active, started]) ?_
    simp only [arp', if_true]
    rfl
  case echo =>
    have arp' : (s.tick t).arpForMe f = false := arp
    have echo' : (s.tick t).echoForMe f = true := echo
    refine event_next run (by simp [active, started]) ?_
    simp only [arp', echo', Bool.false_eq_true, if_false, if_true]
    have rest : ((s.tick t).echoReply f).2 = { s.tick t with freeCtr := ((s.tick t).echoReply f).2.freeCtr } := drawBytes_rest 3 (s.tick t)
    have reply : ((s.tick t).echoReply f).1 = (s.echoReply f).1 := rfl
    rw [reply, rest]
    rfl
  case other =>
    have arp' : (s.tick t).arpForMe f = false := arp
    have echo' : (s.tick t).echoForMe f = false := echo
    refine event_next run (by simp [active, started]) ?_
    simp only [arp', echo', Bool.false_eq_true, if_false]
    rfl
  case announce =>
    exact event_next run (by simp [active, owed]) rfl
  case idle =>
    obtain ⟨⟨⟨running, -⟩, up⟩, -⟩ : (((s.tick t).running = true ∧ (s.tick t).active.isSome = true) ∧ ((s.tick t).cs i).up = true)
        ∧ (!((s.tick t).waits.any fun w => w.holds i)) = true := by
      simpa only [State.hears, Bool.and_eq_true] using hears
    have held : s.resetN = false := by simpa [State.running] using running
    refine event_next held ?_ ?_
    · have idle' : ((s.tick t).cs i).idle ≠ 0 := idle
      have queued' : ((s.tick t).cs i).queued = [] := queued
      have late' : ((s.tick t).cs i).lastLine + ((s.tick t).cs i).idle * second ≤ (s.tick t).now := late
      have login' : ((s.tick t).cs i).login = .loggedIn user lvl := login
      simp only [hears, idle', queued', late', login', ne_eq, not_false_eq_true, decide_true, List.isEmpty_nil, Bool.and_self]
    · obtain ⟨login', bells', up'⟩ := State.prompt_kept (((s.tick t).say i
        (.bell ((s.tick t).cs i).crc (s.tick t).bellWafer ⟨"session", false, [("state", .word "end"), ("cause", .word "idle")], 0, (s.tick t).now, false⟩)).endLogin i) i
      obtain ⟨login, bells, up⟩ := State.endLogin_effect (((s.tick t).say_kept i
        (.bell ((s.tick t).cs i).crc (s.tick t).bellWafer ⟨"session", false, [("state", .word "end"), ("cause", .word "idle")], 0, (s.tick t).now, false⟩)).2.2.trans up) i.isLt
      exact ⟨login'.trans login, bells'.trans bells, up'.trans up⟩
  case challenge =>
    have low : i.val < (s.tick t).sess.length := by
      change i.val < s.sess.length
      omega
    refine event_next run ?_ ?_
    · have login' : ((s.tick t).cs i).login = .challenged user c since := login
      have late' : since + 30 * second ≤ (s.tick t).now := late
      simp only [login', late', decide_true]
    · rw [State.modCs_cs, if_pos ⟨rfl, low⟩]
      rfl
  case lock =>
    have low : i.val < (s.tick t).sess.length := by
      change i.val < s.sess.length
      omega
    refine event_next run ?_ ?_
    · have locked' : ((s.tick t).cs i).lockedUntil = some until_ := locked
      have late' : until_ ≤ (s.tick t).now := late
      simp only [locked', late', decide_true]
    · rw [State.modCs_cs, if_pos ⟨rfl, low⟩]
      rfl
  case lost =>
    have low := State.up_low up
    have served : (s.tick t).served i = true := by simpa [State.served] using ⟨active, up⟩
    refine event_next run (by simp [served, lost]) ?_
    unfold State.sendBells
    have wafer : ((s.tick t).modCs i fun c => { c with out := c.out ++ [.lost c.crc c.lost], lost := 0 }).bellWafer = s.bellWafer := rfl
    simp [low, wafer]

end Sys2Proof.Machine

/-! Characters and lines of a console (R746, R747, R777, R782, R787, R789, R792, R793, R798). -/
namespace Sys2Proof.Machine

open Sys2Proof

theorem State.setCon_con (s : State) {i : Nat} (low : i < 2) (k : Con) : (s.setCon i k).con i = k := by
  obtain rfl | rfl : i = 0 ∨ i = 1 := by omega
  · rfl
  · rfl

theorem State.setCon_cs (s : State) (i : Nat) (k : Con) (j : Nat) : (s.setCon i k).cs j = s.cs j := by
  unfold State.setCon
  split <;> rfl

theorem State.modCs_own {s : State} {i : Nat} (low : i < s.sess.length) (f : CSess → CSess) : (s.modCs i f).cs i = f (s.cs i) :=
  (State.modCs_cs s i i f).trans (if_pos ⟨rfl, low⟩)

/-- What is echoed goes out where echo is on. -/
theorem State.echoBytes_cs {s : State} {i : Nat} (up : (s.cs i).up = true) (bs : List Byte) :
    (s.echoBytes i bs).cs i = { s.cs i with out := (s.cs i).out ++ if (s.cs i).echo then [.raw bs] else [] } := by
  unfold State.echoBytes
  split
  · rw [State.say, if_pos up, State.modCs_own (State.up_low up)]
  · rw [List.append_nil]

theorem State.echoBytes_con (s : State) (i : Nat) (bs : List Byte) (j : Nat) : (s.echoBytes i bs).con j = s.con j := by
  unfold State.echoBytes State.say
  split
  · split <;> rfl
  · rfl

/-- A session altered, then echoed to. -/
theorem State.modCs_echo {s : State} {i : Nat} (up : (s.cs i).up = true) {f : CSess → CSess} (kept : (f (s.cs i)).up = (s.cs i).up) (bs : List Byte) :
    ((s.modCs i f).echoBytes i bs).cs i = { f (s.cs i) with out := (f (s.cs i)).out ++ if (f (s.cs i)).echo then [.raw bs] else [] } := by
  have own := State.modCs_own (State.up_low up) f
  rw [State.echoBytes_cs (by rw [own, kept, up]), own]

/-- A character is received on a console. -/
def State.charIn (s : State) (i : Nat) (b : Byte) : State :=
  if 4096 ≤ (s.cs i).bytesHeld then
    (s.modCs i fun c => { c with overrun := true }).setCon i { s.con i with dropped := (s.con i).dropped + 1 }
  else if b = 0x0A && (s.cs i).sawCr then (s.modCs i fun c => { c with sawCr := false }).echoBytes i [b]
  else if b = 0x0A || b = 0x0D then (((s.echoBytes i [b]).endLine i).modCs i fun c => { c with sawCr := decide (b = 0x0D) })
  else if (s.cs i).echo && (b = 0x08 || b = 0x7F) then
    (if (s.cs i).part.isEmpty then s.modCs i fun c => { c with sawCr := false }
    else ((s.modCs i fun c => { c with sawCr := false }).modCs i fun c => { c with part := c.part.dropLast }).echoBytes i [0x08, 0x20, 0x08])
  else if (s.cs i).echo && b = 0x15 then
    ((s.modCs i fun c => { c with sawCr := false }).modCs i fun c => { c with part := [], skip := false, overrun := false }).echoBytes i [b]
  else if (s.cs i).echo && b = 0x03 then ((s.modCs i fun c => { c with sawCr := false }).breakLine i).echoBytes i [b]
  else if (s.cs i).part.length > 512 then
    ((s.modCs i fun c => { c with sawCr := false }).modCs i fun c => { c with skip := true }).echoBytes i [b]
  else ((s.modCs i fun c => { c with sawCr := false }).modCs i fun c => { c with part := c.part ++ [b] }).echoBytes i [b]

theorem execConsoleCharacter_next (i : Fin 2) (b : Byte) (t : Time) (s : State) :
    execConsoleCharacter i b t s = .next (s.event t (fun s => s.served i) fun s => s.charIn i b) := rfl

section Chars

variable {s : State} {i : Nat} {b : Byte}

/-- Two changes to one session, then its echo. -/
theorem State.modCs_modCs_echo (up : (s.cs i).up = true) {f g : CSess → CSess} (kept : ∀ c, (f c).up = c.up) (kept' : ∀ c, (g c).up = c.up) (bs : List Byte) :
    (((s.modCs i f).modCs i g).echoBytes i bs).cs i
      = { g (f (s.cs i)) with out := (g (f (s.cs i))).out ++ if (g (f (s.cs i))).echo then [.raw bs] else [] } := by
  have own := State.modCs_own (State.up_low up) f
  have up' : ((s.modCs i f).cs i).up = true := by rw [own, kept, up]
  have both := State.modCs_own (State.up_low up') g
  rw [State.echoBytes_cs (by rw [both, kept', up']), both, own]

/-- A character that is no terminator and edits nothing joins the partial line (R746, R787). -/
theorem State.charIn_plain (up : (s.cs i).up = true) (room : (s.cs i).bytesHeld < 4096) (lf : b ≠ 0x0A) (cr : b ≠ 0x0D)
    (plain : (s.cs i).echo = false ∨ b ≠ 0x08 ∧ b ≠ 0x7F ∧ b ≠ 0x15 ∧ b ≠ 0x03) : ((s.charIn i b).cs i).queued = (s.cs i).queued
    ∧ ((s.charIn i b).cs i).part = (if 512 < (s.cs i).part.length then (s.cs i).part else (s.cs i).part ++ [b])
    ∧ ((s.charIn i b).cs i).out = (s.cs i).out ++ (if (s.cs i).echo then [.raw [b]] else []) := by
  have back : ((s.cs i).echo && (decide (b = 0x08) || decide (b = 0x7F))) = false := by
    rcases plain with e | ⟨e, f, -⟩
    · rw [e, Bool.false_and]
    · rw [decide_eq_false e, decide_eq_false f, Bool.or_self, Bool.and_false]
  have kill : ((s.cs i).echo && decide (b = 0x15)) = false := by
    rcases plain with e | ⟨-, -, e, -⟩
    · rw [e, Bool.false_and]
    · rw [decide_eq_false e, Bool.and_false]
  have stop : ((s.cs i).echo && decide (b = 0x03)) = false := by
    rcases plain with e | ⟨-, -, -, e⟩
    · rw [e, Bool.false_and]
    · rw [decide_eq_false e, Bool.and_false]
  have notLf : decide (b = 0x0A) = false := decide_eq_false lf
  have notCr : decide (b = 0x0D) = false := decide_eq_false cr
  unfold State.charIn
  rw [if_neg (by omega)]
  simp only [notLf, notCr, back, kill, stop, Bool.false_and, Bool.or_self, Bool.false_eq_true, if_false]
  split
  · rw [State.modCs_modCs_echo up]
    · exact ⟨rfl, rfl, rfl⟩
    · exact fun _ => rfl
    · exact fun _ => rfl
  · rw [State.modCs_modCs_echo up]
    · exact ⟨rfl, rfl, rfl⟩
    · exact fun _ => rfl
    · exact fun _ => rfl

theorem State.charIn_back (up : (s.cs i).up = true) (room : (s.cs i).bytesHeld < 4096) (echo : (s.cs i).echo = true) (back : b = 0x08 ∨ b = 0x7F) :
    ((s.charIn i b).cs i).queued = (s.cs i).queued ∧ ((s.charIn i b).cs i).part = (s.cs i).part.dropLast ∧ (s.charIn i b).con i = s.con i := by
  have lf : decide (b = 0x0A) = false := by rcases back with rfl | rfl <;> rfl
  have cr : decide (b = 0x0D) = false := by rcases back with rfl | rfl <;> rfl
  have either : (decide (b = 0x08) || decide (b = 0x7F)) = true := by rcases back with rfl | rfl <;> rfl
  unfold State.charIn
  rw [if_neg (by omega)]
  simp only [lf, cr, either, echo, Bool.false_and, Bool.or_self, Bool.and_self, Bool.false_eq_true, if_false, if_true]
  split
  · rename_i empty
    rw [State.modCs_own (State.up_low up)]
    exact ⟨rfl, by rw [List.isEmpty_iff.mp empty]; rfl, rfl⟩
  · rw [State.modCs_modCs_echo up, State.echoBytes_con]
    · exact ⟨rfl, rfl, rfl⟩
    · exact fun _ => rfl
    · exact fun _ => rfl

theorem State.charIn_kill (up : (s.cs i).up = true) (room : (s.cs i).bytesHeld < 4096) (echo : (s.cs i).echo = true) :
    ((s.charIn i 0x15).cs i).queued = (s.cs i).queued ∧ ((s.charIn i 0x15).cs i).part = [] ∧ (s.charIn i 0x15).con i = s.con i := by
  have lf : decide ((0x15 : Byte) = 0x0A) = false := rfl
  have cr : decide ((0x15 : Byte) = 0x0D) = false := rfl
  have back : (decide ((0x15 : Byte) = 0x08) || decide ((0x15 : Byte) = 0x7F)) = false := rfl
  unfold State.charIn
  rw [if_neg (by omega)]
  simp only [lf, cr, back, echo, decide_true, Bool.false_and, Bool.and_false, Bool.or_self, Bool.and_self, Bool.false_eq_true, if_false, if_true]
  rw [State.modCs_modCs_echo up, State.echoBytes_con]
  · exact ⟨rfl, rfl, rfl⟩
  · exact fun _ => rfl
  · exact fun _ => rfl

theorem State.charIn_break (low : i < 2) (up : (s.cs i).up = true) (room : (s.cs i).bytesHeld < 4096) (echo : (s.cs i).echo = true) :
    ((s.charIn i 0x03).cs i).queued = (s.cs i).queued ∧ ((s.charIn i 0x03).cs i).part = []
      ∧ ((s.charIn i 0x03).con i).breaks = (s.con i).breaks + 1 := by
  have lf : decide ((0x03 : Byte) = 0x0A) = false := rfl
  have cr : decide ((0x03 : Byte) = 0x0D) = false := rfl
  have back : (decide ((0x03 : Byte) = 0x08) || decide ((0x03 : Byte) = 0x7F)) = false := rfl
  have kill : decide ((0x03 : Byte) = 0x15) = false := rfl
  have swept := State.modCs_own (State.up_low up) fun c => { c with sawCr := false }
  have up' : ((s.modCs i fun c => { c with sawCr := false }).cs i).up = true := by rw [swept, up]
  have broken : (((s.modCs i fun c => { c with sawCr := false }).breakLine i).cs i)
      = { s.cs i with sawCr := false, part := [], skip := false, overrun := false } := by
    rw [State.breakLine, State.setCon_cs, State.modCs_own (State.up_low up'), swept]
  unfold State.charIn
  rw [if_neg (by omega)]
  simp only [lf, cr, back, kill, echo, decide_true, Bool.false_and, Bool.and_false, Bool.or_self, Bool.and_self, Bool.false_eq_true, if_false, if_true]
  rw [State.echoBytes_con, State.echoBytes_cs (by rw [broken, up]), broken]
  exact ⟨rfl, rfl, congrArg Con.breaks (State.setCon_con _ low _)⟩

/-- The editing characters, where echo is on (R782, R787). -/
theorem State.charIn_edit (low : i < 2) (up : (s.cs i).up = true) (room : (s.cs i).bytesHeld < 4096) (echo : (s.cs i).echo = true)
    (edit : b = 0x08 ∨ b = 0x7F ∨ b = 0x15 ∨ b = 0x03) : ((s.charIn i b).cs i).queued = (s.cs i).queued
    ∧ ((s.charIn i b).cs i).part = (if b = 0x15 ∨ b = 0x03 then [] else (s.cs i).part.dropLast)
    ∧ ((s.charIn i b).con i).breaks = (s.con i).breaks + (if b = 0x03 then 1 else 0) := by
  have backed (back : b = 0x08 ∨ b = 0x7F) : ¬ (b = 0x15 ∨ b = 0x03) ∧ ¬ b = 0x03 := by
    rcases back with rfl | rfl <;> decide
  have erased (back : b = 0x08 ∨ b = 0x7F) : ((s.charIn i b).cs i).queued = (s.cs i).queued
      ∧ ((s.charIn i b).cs i).part = (if b = 0x15 ∨ b = 0x03 then [] else (s.cs i).part.dropLast)
      ∧ ((s.charIn i b).con i).breaks = (s.con i).breaks + (if b = 0x03 then 1 else 0) := by
    obtain ⟨queued, part, con⟩ := State.charIn_back up room echo back
    rw [if_neg (backed back).1, if_neg (backed back).2]
    exact ⟨queued, part, congrArg Con.breaks con⟩
  rcases edit with back | back | rfl | rfl
  · exact erased (.inl back)
  · exact erased (.inr back)
  · obtain ⟨queued, part, con⟩ := State.charIn_kill up room echo
    exact ⟨queued, part, congrArg Con.breaks con⟩
  · exact State.charIn_break low up room echo

/-- A terminator ends the line (R777, R789). -/
theorem State.charIn_end (up : (s.cs i).up = true) (room : (s.cs i).bytesHeld < 4096) (ends : b = 0x0D ∨ b = 0x0A ∧ (s.cs i).sawCr = false) :
    ((s.charIn i b).cs i).part = [] ∧ ((s.charIn i b).cs i).queued = (s.cs i).queued ++ [((s.cs i).part.length + 1, (s.cs i).overrun)] := by
  have echoed := State.echoBytes_cs up [b]
  have up' : ((s.echoBytes i [b]).cs i).up = true := by rw [echoed, up]
  have ended := State.modCs_own (State.up_low up') fun c => { c with queued := c.queued ++ [(c.part.length + 1, c.overrun)], part := [], skip := false, overrun := false }
  have up'' : (((s.echoBytes i [b]).endLine i).cs i).up = true := by rw [State.endLine, ended, up']
  have whole : s.charIn i b = (((s.echoBytes i [b]).endLine i).modCs i fun c => { c with sawCr := decide (b = 0x0D) }) := by
    have second : (decide (b = 0x0A) && (s.cs i).sawCr) = false := by
      rcases ends with e | ⟨-, e⟩
      · simp [e]
      · simp [e]
    have either : (decide (b = 0x0A) || decide (b = 0x0D)) = true := by
      rcases ends with e | ⟨e, -⟩ <;> simp [e]
    unfold State.charIn
    rw [if_neg (by omega)]
    simp only [second, either, Bool.false_eq_true, if_false, if_true]
  rw [whole, State.modCs_own (State.up_low up''), State.endLine, ended, echoed]
  exact ⟨rfl, rfl⟩

/-- A character for which the buffer has no room is dropped and counted (R746). -/
theorem State.charIn_full (low : i < 2) (up : (s.cs i).up = true) (full : 4096 ≤ (s.cs i).bytesHeld) : ((s.charIn i b).cs i).part = (s.cs i).part
    ∧ ((s.charIn i b).con i).dropped = (s.con i).dropped + 1 := by
  unfold State.charIn
  rw [if_pos full, State.setCon_cs, State.setCon_con _ low, State.modCs_own (State.up_low up)]
  exact ⟨rfl, rfl⟩

end Chars

/-! Lines that are no command (R792, R793, R798). -/

/-- What a session received, without the CR that ends a TCP line. -/
def lineBytes (i : Nat) (bytes : List Byte) : List Nat :=
  if 2 ≤ i ∧ (bytes.map (·.toNat)).getLast? = some 0x0D then (bytes.map (·.toNat)).dropLast else bytes.map (·.toNat)

/-- The line by which such a line is numbered. -/
def plainLine (i : Nat) (t : Time) : Ln := ⟨i, none, false, none, true, t⟩

/-- What a line that is no command is answered. -/
def State.lineJudged (s : State) (i : Nat) (line : List Nat) (lost : Bool) (t : Time) : State :=
  if !lost && line.all isSep then (s.atLine (plainLine i t)).prompt i
  else
    match judgeLine line lost (s.cs i).crc with
    | .bad code kv => (s.atLine (plainLine i t)).final i none (suffixOf line).isSome (.err code ([("line", .num ((s.cs i).lineNo + 1))] ++ kv))
    | .cmd spell =>
      if spell.isSession then s.tick t
      else
        match (s.cs i).login with
        | .loggedIn _ lvl =>
          if levelRank lvl < levelRank spell.level then
            (s.atLine (plainLine i t)).final i (tagOf line) (suffixOf line).isSome (.err 302 [("need", .word (levelWord spell.level))])
          else if s.boot.phase ≠ .ready && !spell.atBoot then
            (s.atLine (plainLine i t)).final i (tagOf line) (suffixOf line).isSome (.err 201 [("phase", .word (phaseWord s.boot.phase))])
          else s.tick t
        | _ => (s.atLine (plainLine i t)).final i (tagOf line) (suffixOf line).isSome (.err 301 [])

theorem execBadLine_next {s : State} {i : Fin 10} {t : Time} (hears : (s.tick t).hears i = true) (bytes : List Byte) (overrun : Bool) :
    execBadLine i bytes overrun t s
      = .next (s.lineJudged i (lineBytes i bytes) (overrun || ((s.cs i).queued.head?.map fun q => q.2).getD false) t) := by
  have bytes' : (if (decide (2 ≤ i.val) && (bytes.map fun b => b.toNat).getLast? == some 0x0D) = true then (bytes.map fun b => b.toNat).dropLast
      else bytes.map fun b => b.toNat) = lineBytes i bytes := by
    unfold lineBytes
    congr 1
    simp
  unfold execBadLine
  dsimp only
  rw [bytes', hears]
  rfl

theorem lineJudged_speaks {s : State} {i : Nat} {t : Time} (hears : (s.tick t).hears i = true) : Speaks s (s.atLine (plainLine i t)) i :=
  Speaks.atLine (ln := plainLine i t) hears

/-- The final line of such a line answers it. -/
theorem State.lineJudged_final {s : State} {i : Nat} {t : Time} (hears : (s.tick t).hears i = true) (tag : Option (List Byte)) (crc : Bool) (r : RLine) :
    OnlySessions s ((s.atLine (plainLine i t)).final i tag crc r)
      ∧ Answers s ((s.atLine (plainLine i t)).final i tag crc r) ⟨i, tag, crc, none, true, t⟩ r :=
  ⟨(OnlySessions.atLine s _).trans (.final _ i tag crc r), Answers.final (ln := ⟨i, tag, crc, none, true, t⟩) (lineJudged_speaks hears) r⟩

/-- A line is numbered. -/
theorem State.atLine_lineNo {s : State} {i : Nat} (low : i < s.sess.length) (t : Time) :
    ((s.atLine (plainLine i t)).cs i).lineNo = (s.cs i).lineNo + 1 := by
  have numbered : (((s.tick t).lineIn (plainLine i t)).cs i).lineNo = (s.cs i).lineNo + 1 :=
    congrArg CSess.lineNo (State.modCs_own (s := { s.tick t with waits := _ }) low _)
  refine Eq.trans ?_ numbered
  unfold State.atLine State.sendBells
  dsimp only [plainLine]
  split
  · rw [State.setCs_cs]
    split <;> rfl
  · rfl

theorem State.prompt_lineNo (s : State) (i : Nat) : ((s.prompt i).cs i).lineNo = (s.cs i).lineNo := by
  unfold State.prompt State.say
  split
  · split
    · rw [State.modCs_cs]
      split <;> rfl
    · rfl
  · rfl

theorem lineBytes_seps {bytes : List Byte} (seps : (bytes.map (·.toNat)).all isSep = true) (i : Nat) : (lineBytes i bytes).all isSep = true := by
  rw [List.all_eq_true] at seps ⊢
  intro x mem
  unfold lineBytes at mem
  split at mem
  · exact seps x (List.mem_of_mem_dropLast mem)
  · exact seps x mem

/-- Settles O24. -/
theorem consoleCharactersAndLines : Obligations.ConsoleCharactersAndLines := by
  refine ⟨fun i t s run active up => ?break_, fun i on t s run => ?cts, fun i b t s run active up room lf cr plain => ?char,
    fun i b t s run active up room echo edit => ?edit, fun i b t s run active up room ends => ?end_, fun i b t s run active up full => ?full,
    fun i bytes overrun lost line code kv t s hears eline elost some_ bad => ?bad, fun i bytes overrun lost line c t s hears eline elost some_ cmd verb out => ?out,
    fun i bytes t s hears whole seps => ?seps⟩
  case break_ =>
    have served : (s.tick t).served i = true := by simpa [State.served] using ⟨active, up⟩
    refine event_next run (by simp [served]) ?_
    have cs := State.modCs_own (s := s.tick t) (State.up_low up) fun c => { c with part := [], skip := false, overrun := false, sawCr := false }
    unfold State.breakLine
    dsimp only
    rw [State.setCon_cs, State.setCon_con _ i.isLt, cs]
    exact ⟨rfl, rfl, rfl⟩
  case cts =>
    refine event_next run rfl ?_
    have set : ((s.tick t).setCon i { (s.tick t).con i with cts := on }).con i = { s.con i with cts := on } := State.setCon_con _ i.isLt _
    have out : (((s.tick t).setCon i { (s.tick t).con i with cts := on }).cs i).out = (s.cs i).out := by rw [State.setCon_cs]; rfl
    unfold State.setHeld
    dsimp only
    rw [State.setCon_con _ i.isLt, set, out]
    cases held : (s.con i).held <;> rfl
  case char =>
    have served : (s.tick t).served i = true := by simpa [State.served] using ⟨active, up⟩
    exact event_next (c := fun s => s.served i) (f := fun s => s.charIn i b) run served (State.charIn_plain up room lf cr plain)
  case edit =>
    have served : (s.tick t).served i = true := by simpa [State.served] using ⟨active, up⟩
    exact event_next (c := fun s => s.served i) (f := fun s => s.charIn i b) run served (State.charIn_edit i.isLt up room echo edit)
  case end_ =>
    have served : (s.tick t).served i = true := by simpa [State.served] using ⟨active, up⟩
    exact event_next (c := fun s => s.served i) (f := fun s => s.charIn i b) run served (State.charIn_end up room ends)
  case full =>
    have served : (s.tick t).served i = true := by simpa [State.served] using ⟨active, up⟩
    exact event_next (c := fun s => s.served i) (f := fun s => s.charIn i b) run served (State.charIn_full i.isLt up full)
  case bad =>
    have whole : (!lost && line.all isSep) = false := by
      rcases some_ with e | e <;> simp [e]
    obtain rfl : line = lineBytes i bytes := eline
    refine ⟨_, execBadLine_next hears bytes overrun, ?_⟩
    rw [← elost]
    unfold State.lineJudged
    simp only [whole, bad, Bool.false_eq_true, if_false]
    exact State.lineJudged_final hears _ _ _
  case out =>
    have whole : (!lost && line.all isSep) = false := by
      rcases some_ with e | e <;> simp [e]
    obtain rfl : line = lineBytes i bytes := eline
    refine ⟨_, execBadLine_next hears bytes overrun, ?_⟩
    rw [← elost]
    unfold State.lineJudged
    simp only [whole, cmd, verb, Bool.false_eq_true, if_false]
    exact State.lineJudged_final hears _ _ _
  case seps =>
    refine ⟨_, execBadLine_next hears bytes false, ?_⟩
    rw [whole]
    unfold State.lineJudged
    simp only [lineBytes_seps seps i, Bool.or_self, Bool.not_false, Bool.and_self, if_true]
    obtain ⟨⟨⟨-, -⟩, up⟩, -⟩ : (((s.tick t).running = true ∧ (s.tick t).active.isSome = true) ∧ ((s.tick t).cs i).up = true)
        ∧ (!((s.tick t).waits.any fun w => w.holds i)) = true := by
      simpa only [State.hears, Bool.and_eq_true] using hears
    exact ⟨(OnlySessions.atLine s _).trans (.prompt _ i), (State.prompt_lineNo _ i).trans (State.atLine_lineNo (s := s) (State.up_low (s := s) up) t)⟩

end Sys2Proof.Machine

/-! What a tally reads after a count. -/
namespace Sys2Proof.Machine

open Sys2Proof

/-- A tally reads what was added to it, and every other as before. -/
@[simp] theorem State.addTally_tally (s : State) (sc : TScope) (id idx n : Nat) (k : TKey) :
    (s.addTally sc id idx n).tally k = if k = ⟨sc, id, idx⟩ then s.tally k + BitVec.ofNat 64 n else s.tally k := by
  have skip : ∀ l : List (TKey × DWord), k ≠ ⟨sc, id, idx⟩ →
      (l.filter fun p => decide (p.1 ≠ ⟨sc, id, idx⟩)).find? (fun p => decide (p.1 = k)) = l.find? fun p => decide (p.1 = k) := by
    intro l other
    induction l with
    | nil => rfl
    | cons p ps ih =>
      by_cases own : p.1 = ⟨sc, id, idx⟩
      · have : ¬p.1 = k := fun e => other (e.symm.trans own)
        simpa [own, this, Ne.symm other] using ih
      · by_cases at_ : p.1 = k
        · simp [at_, other]
        · simpa [own, at_] using ih
  have none_ : ∀ l : List (TKey × DWord),
      (l.filter fun p => decide (p.1 ≠ ⟨sc, id, idx⟩)).find? (fun p => decide (p.1 = ⟨sc, id, idx⟩)) = none := by
    intro l
    simp [List.find?_eq_none]
  unfold State.addTally
  by_cases none_added : n = 0
  · simp [none_added]
  · rw [if_neg none_added]
    by_cases own : k = ⟨sc, id, idx⟩
    · subst own
      simp only [State.tally, List.find?_append, none_]
      simp
    · simp only [State.tally, List.find?_append, skip _ own, List.find?_cons, List.find?_nil]
      have : ¬(⟨sc, id, idx⟩ : TKey) = k := fun e => own e.symm
      simp [own, this]

@[simp] theorem State.count_tally (s : State) (sc : TScope) (id idx : Nat) (k : TKey) :
    (s.count sc id idx).tally k = if k = ⟨sc, id, idx⟩ then s.tally k + 1 else s.tally k :=
  State.addTally_tally s sc id idx 1 k

@[simp] theorem ite_tally (c : Prop) [Decidable c] (a b : State) (k : TKey) :
    (if c then a else b).tally k = if c then a.tally k else b.tally k := by
  split <;> rfl

@[simp] theorem State.tick_tally (s : State) (t : Time) (k : TKey) : (s.tick t).tally k = s.tally k := rfl

@[simp] theorem State.setSpd_tally (s : State) (j : Nat) (x : Spd) (k : TKey) : (s.setSpd j x).tally k = s.tally k := rfl

@[simp] theorem State.modSpd_tally (s : State) (j : Nat) (f : Spd → Spd) (k : TKey) : (s.modSpd j f).tally k = s.tally k := rfl

@[simp] theorem State.setMed_tally (s : State) (j : Nat) (x : Med) (k : TKey) : (s.setMed j x).tally k = s.tally k := rfl

@[simp] theorem State.modMed_tally (s : State) (j : Nat) (f : Med → Med) (k : TKey) : (s.modMed j f).tally k = s.tally k := rfl

@[simp] theorem State.setNed_tally (s : State) (j : Nat) (x : Ned) (k : TKey) : (s.setNed j x).tally k = s.tally k := rfl

@[simp] theorem State.modNed_tally (s : State) (j : Nat) (f : Ned → Ned) (k : TKey) : (s.modNed j f).tally k = s.tally k := rfl

@[simp] theorem State.setLink_tally (s : State) (x lane : Nat) (l : LinkEnd) (k : TKey) : (s.setLink x lane l).tally k = s.tally k := rfl

@[simp] theorem State.modLink_tally (s : State) (x lane : Nat) (f : LinkEnd → LinkEnd) (k : TKey) :
    (s.modLink x lane f).tally k = s.tally k := rfl

@[simp] theorem State.setPad_tally (s : State) (n : Nat) (p : Paddock) (k : TKey) : (s.setPad n p).tally k = s.tally k := rfl

@[simp] theorem State.modPad_tally (s : State) (n : Nat) (f : Paddock → Paddock) (k : TKey) : (s.modPad n f).tally k = s.tally k := rfl

@[simp] theorem State.modFold_tally (s : State) (id : Nat) (g : Fold → Fold) (k : TKey) : (s.modFold id g).tally k = s.tally k := rfl

@[simp] theorem State.setSession_tally (s : State) (n : Nat) (x : Session) (k : TKey) : (s.setSession n x).tally k = s.tally k := rfl

@[simp] theorem State.noteStray_tally (s : State) (fold : Nat) (k : TKey) : (s.noteStray fold).tally k = s.tally k := rfl

@[simp] theorem State.modFlash_tally (s : State) (f : Flash → Flash) (k : TKey) : (s.modFlash f).tally k = s.tally k := by
  unfold State.modFlash
  split <;> rfl

@[simp] theorem State.report_tally (s : State) (tr : Trigger) (folds : List Nat) (place : Nat) (k : TKey) :
    (s.report tr folds place).tally k = s.tally k := by
  unfold State.report
  split <;> rfl

/-- A bell counts at the controller alone. -/
@[simp] theorem State.ring_tally (s : State) (obj : String) (fault : Bool) (kv : KVs) (k : TKey) (h : k.scope ≠ .shc) :
    (s.ring obj fault kv).tally k = s.tally k := by
  unfold State.ring
  split
  · rfl
  · refine (State.addTally_tally _ _ _ _ _ _).trans (if_neg ?_)
    rintro rfl
    exact h rfl

/-- A loop that keeps a tally at every step keeps it. -/
theorem foldl_tally {α : Type} {k : TKey} (f : State → α → State) (h : ∀ s a, (f s a).tally k = s.tally k) (l : List α) (s : State) :
    (l.foldl f s).tally k = s.tally k := by
  induction l generalizing s with
  | nil => rfl
  | cons x xs ih => exact (ih _).trans (h _ _)

end Sys2Proof.Machine

/-! Span links: what a block sent, a block received and a verdict leave of an SPD (O38). -/
namespace Sys2Proof.Machine

open Sys2Proof

/-- An SPD but for its queues: the flits that wait to be sent, the messages under way and the slots given back. -/
def Spd.line (d : Spd) : Spd := { d with sendQ := [], pseqOut := [], opened := [], partials := [], freed := [], pseqIn := [] }

@[simp] theorem State.setSpd_count (s : State) (i : Nat) (x : Spd) : (s.setSpd i x).spds.length = s.spds.length :=
  listSet_length _ _ _

theorem State.setSpd_line {s : State} {i : Nat} {x : Spd} (same : x.line = (s.spd i).line) (j : Nat) :
    ((s.setSpd i x).spd j).line = (s.spd j).line := by
  rw [State.setSpd_spd]
  split
  · rename_i own
    rw [same, own.1]
  · rfl

theorem State.modSpd_line {s : State} {i : Nat} {f : Spd → Spd} (same : ∀ d, (f d).line = d.line) (j : Nat) :
    ((s.modSpd i f).spd j).line = (s.spd j).line :=
  State.setSpd_line (same _) j

theorem State.addTally_spd (s : State) (sc : TScope) (id idx n j : Nat) : (s.addTally sc id idx n).spd j = s.spd j := by
  simp

theorem State.count_spd (s : State) (sc : TScope) (id idx j : Nat) : (s.count sc id idx).spd j = s.spd j :=
  State.addTally_spd s sc id idx 1 j

theorem State.report_spd (s : State) (tr : Trigger) (folds : List Nat) (place j : Nat) : (s.report tr folds place).spd j = s.spd j := by
  simp

theorem State.ring_spd (s : State) (obj : String) (fault : Bool) (kv : KVs) (j : Nat) : (s.ring obj fault kv).spd j = s.spd j := by
  simp

/-! A flit that is queued for its wafer. -/

theorem State.sendSpan_line (s : State) (f : SFlit) (j : Nat) : ((s.sendSpan f).spd j).line = (s.spd j).line := by
  unfold State.sendSpan
  dsimp only
  split
  · split
    · exact State.modSpd_line (by intro d; rfl) j
    · rw [State.count_spd]
      exact State.modSpd_line (by intro d; rfl) j
  · exact State.modSpd_line (by intro d; rfl) j

theorem State.sendSpan_wire (s : State) (f : SFlit) : (s.sendSpan f).wire = s.wire := by
  unfold State.sendSpan
  dsimp only
  split
  · split <;> simp
  · simp

theorem State.sendSpan_corrected (s : State) (f : SFlit) (j : Nat) :
    (s.sendSpan f).tally ⟨.spd, j, tsCorrected⟩ = s.tally ⟨.spd, j, tsCorrected⟩ := by
  unfold State.sendSpan
  dsimp only
  split
  · split <;> simp [tsCorrected, tsRelay]
  · simp

theorem Spd.pairSeq_line (d : Spd) (w : Nat) (f : Flit) (vc : Nat) : (d.pairSeq w f vc).1.line = d.line := by
  unfold Spd.pairSeq
  dsimp only
  split <;> rfl

theorem State.noteStray_spd (s : State) (fold j : Nat) : (s.noteStray fold).spd j = s.spd j := rfl

theorem State.takeSpan_line (s : State) (h : Nat × Nat × Nat × Bool × Flit) (j : Nat) : ((s.takeSpan h).spd j).line = (s.spd j).line := by
  unfold State.takeSpan
  dsimp only
  split
  · rw [State.count_spd]
    rfl
  · split
    · rw [State.noteStray_spd, State.count_spd]
      rfl
    · split
      · rw [State.report_spd, State.count_spd, State.count_spd]
        rfl
      · rw [State.sendSpan_line]
        exact State.setSpd_line (Spd.pairSeq_line _ _ _ _) j

theorem State.takeSpan_wire (s : State) (h : Nat × Nat × Nat × Bool × Flit) : (s.takeSpan h).wire = s.wire := by
  unfold State.takeSpan
  dsimp only
  split
  · simp
  · split
    · simp [State.noteStray, State.modFold]
    · split
      · simp
      · simp [State.sendSpan_wire]

theorem State.pullSpan_line (i n : Nat) (s : State) (j : Nat) : ((State.pullSpan i n s).spd j).line = (s.spd j).line := by
  induction n generalizing s with
  | zero => rfl
  | succ n ih =>
    unfold State.pullSpan
    dsimp only
    split
    · rfl
    · rw [ih, State.takeSpan_line]

theorem State.pullSpan_wire (i n : Nat) (s : State) : (State.pullSpan i n s).wire = s.wire := by
  induction n generalizing s with
  | zero => rfl
  | succ n ih =>
    unfold State.pullSpan
    dsimp only
    split
    · rfl
    · rw [ih, State.takeSpan_wire]

/-- With no flit at the edge ports that an SPD carries, it pulls none. -/
theorem State.pullSpan_idle {i : Nat} {s : State} (none_ : s.spanHeads i = []) (n : Nat) : State.pullSpan i n s = s := by
  cases n with
  | zero => rfl
  | succ n => simp [State.pullSpan, none_]

theorem Spd.sendBlock_periods (d : Spd) (me i : Nat) : (d.sendBlock me i).1.periods = d.periods + 1 := by
  unfold Spd.sendBlock
  dsimp only
  split
  · rfl
  · split
    · rfl
    · split <;> rfl

theorem Spd.sendBlock_scr (d : Spd) (me i : Nat) : (d.sendBlock me i).1.scr = d.scr := by
  unfold Spd.sendBlock
  dsimp only
  split
  · rfl
  · split
    · rfl
    · split <;> rfl

/-! A lasting-down verdict. -/

/-- What a verdict leaves of an SPD whose link was up. -/
def Spd.downed (d : Spd) (cause : Nat) : Spd := { d with state := .down, cause := cause, replay := [], cursor := none, downOut := true }

theorem State.spanLinkDown_line {s : State} {i : Nat} (in_ : i < s.spds.length) (up : (s.spd i).state = .up) (cause : Nat) :
    ((s.spanLinkDown i cause).spd i).line = ((s.spd i).downed cause).line := by
  unfold State.spanLinkDown
  simp only [up, ne_eq, not_true_eq_false, if_false]
  rw [foldl_eq (fun b : State => (b.spd i).line) _ _ fun b w _ => by rw [State.report_spd],
    foldl_eq (fun b : State => (b.spd i).line) _ _ fun b f _ => State.sendSpan_line b f i, State.ring_spd, State.count_spd,
    State.setSpd_spd, if_pos ⟨rfl, in_⟩]
  rfl

/-- A verdict on a link leaves every SPD its place in the sequence. -/
theorem State.spanLinkDown_acc (s : State) (i cause j : Nat) : ((s.spanLinkDown i cause).spd j).acc = (s.spd j).acc := by
  unfold State.spanLinkDown
  dsimp only
  split
  · rfl
  · rw [foldl_eq (fun b : State => (b.spd j).acc) _ _ fun b w _ => by rw [State.report_spd],
      foldl_eq (fun b : State => (b.spd j).acc) _ _ fun b f _ => (congrArg Spd.acc (State.sendSpan_line b f j) :), State.ring_spd, State.count_spd,
      State.setSpd_spd]
    split
    · rename_i own
      rw [own.1]
    · rfl

theorem State.spanLinkDown_corrected (s : State) (i cause j : Nat) :
    (s.spanLinkDown i cause).tally ⟨.spd, j, tsCorrected⟩ = s.tally ⟨.spd, j, tsCorrected⟩ := by
  unfold State.spanLinkDown
  dsimp only
  split
  · rfl
  · rw [foldl_tally _ fun b w => State.report_tally b _ _ _ _, foldl_tally _ fun b f => State.sendSpan_corrected b f j,
      State.ring_tally _ _ _ _ _ (by simp)]
    simp [tsCorrected, tsLasting]

/-! A flit of an accepted block. -/

theorem Spd.freeN_line (d : Spd) (vc n : Nat) : (d.freeN vc n).line = d.line := by
  induction n generalizing d with
  | zero => rfl
  | succ n ih => exact ih _

theorem Spd.addPartial_line (d : Spd) (f : SFlit) (hold : Nat) (dead : Bool) : (d.addPartial f hold dead).1.line = d.line := by
  unfold Spd.addPartial
  dsimp only
  split
  · rfl
  · split <;> rfl

theorem Spd.release_line (n : Nat) (d : Spd) : (Spd.release n d).1.line = d.line := by
  induction n generalizing d with
  | zero => rfl
  | succ n ih =>
    unfold Spd.release
    split
    · rfl
    · exact ih _

theorem State.releaseMsg_line (s : State) (i : Nat) (m : SMsg) (j : Nat) : ((s.releaseMsg i m).spd j).line = (s.spd j).line := by
  unfold State.releaseMsg
  dsimp only
  have freed : ((s.setSpd i ((s.spd i).freeN m.vc m.held)).spd j).line = (s.spd j).line := State.setSpd_line (Spd.freeN_line _ _ _) j
  split
  · exact freed
  · split
    · rw [State.report_spd, State.addTally_spd, State.addTally_spd]
      exact freed
    · exact freed

theorem State.releaseMsg_corrected (s : State) (i : Nat) (m : SMsg) (j : Nat) :
    (s.releaseMsg i m).tally ⟨.spd, j, tsCorrected⟩ = s.tally ⟨.spd, j, tsCorrected⟩ := by
  unfold State.releaseMsg
  dsimp only
  split
  · rfl
  · split
    · simp [tsCorrected, tsStile]
    · rfl

theorem Spd.freeSlot_line (d : Spd) (vc : Nat) : (d.freeSlot vc).line = d.line := rfl

theorem acc_of_line {a b : Spd} (same : a.line = b.line) : a.acc = b.acc :=
  (congrArg Spd.acc same :)

/-- A flit's slot given back. -/
def State.freed (s : State) (i : Nat) (f : SFlit) : State := s.modSpd i fun d => d.freeSlot f.vc

theorem State.freed_acc (s : State) (i : Nat) (f : SFlit) (j : Nat) : ((s.freed i f).spd j).acc = (s.spd j).acc :=
  acc_of_line (State.modSpd_line (by intro d; rfl) j)

theorem State.count_acc (s : State) (sc : TScope) (id idx j : Nat) : ((s.count sc id idx).spd j).acc = (s.spd j).acc := by
  rw [State.count_spd]

theorem State.sendSpan_acc (s : State) (f : SFlit) (j : Nat) : ((s.sendSpan f).spd j).acc = (s.spd j).acc :=
  acc_of_line (State.sendSpan_line s f j)

/-- A flit that arrives leaves every SPD its place in the sequence. -/
theorem State.spanArrive_acc (s : State) (i : Nat) (f : SFlit) (k : Nat) : ((s.spanArrive i f).spd k).acc = (s.spd k).acc := by
  unfold State.spanArrive
  extract_lets d relay free j s1 fold dj gone s2 dj2 r u
  have back (s : State) : ((free s).spd k).acc = (s.spd k).acc := acc_of_line (State.modSpd_line (by intro d; rfl) k)
  split
  · rw [State.spanLinkDown_acc, State.count_acc]
  · split
    · split
      · rw [State.count_acc, State.sendSpan_acc, back]
      · rw [State.count_acc, back]
    · have e1 : (s1.spd k).acc = (s.spd k).acc := by
        dsimp only [s1]
        split
        · rw [State.count_acc, back]
        · rfl
      have e2 : (s2.spd k).acc = (s.spd k).acc := by
        dsimp only [s2]
        split
        · rw [State.noteStray_spd, State.count_acc]
          split
          · exact e1
          · rw [back, e1]
        · exact e1
      split
      · rw [State.count_acc]
        split
        · exact e2
        · rw [back, e2]
      · rw [foldl_eq (fun b : State => (b.spd k).acc) _ _ fun b m _ => acc_of_line (State.releaseMsg_line b j m k),
          acc_of_line (State.setSpd_line ((Spd.release_line _ _).trans (Spd.addPartial_line _ _ _ _)) k), e2]

theorem State.spanArrive_corrected (s : State) (i : Nat) (f : SFlit) (k : Nat) :
    (s.spanArrive i f).tally ⟨.spd, k, tsCorrected⟩ = s.tally ⟨.spd, k, tsCorrected⟩ := by
  have other (s : State) (j idx : Nat) (h : idx ≠ tsCorrected) :
      (s.count .spd j idx).tally ⟨.spd, k, tsCorrected⟩ = s.tally ⟨.spd, k, tsCorrected⟩ := by
    simp [Ne.symm h]
  unfold State.spanArrive
  extract_lets d relay free j s1 fold dj gone s2 dj2 r u
  have back (s : State) : (free s).tally ⟨.spd, k, tsCorrected⟩ = s.tally ⟨.spd, k, tsCorrected⟩ := rfl
  split
  · rw [State.spanLinkDown_corrected, other _ _ _ (by decide)]
  · split
    · split
      · rw [other _ _ _ (by decide), State.sendSpan_corrected, back]
      · rw [other _ _ _ (by decide), back]
    · have e1 : s1.tally ⟨.spd, k, tsCorrected⟩ = s.tally ⟨.spd, k, tsCorrected⟩ := by
        dsimp only [s1]
        split
        · rw [other _ _ _ (by decide), back]
        · rfl
      have e2 : s2.tally ⟨.spd, k, tsCorrected⟩ = s.tally ⟨.spd, k, tsCorrected⟩ := by
        dsimp only [s2]
        split
        · rw [State.noteStray_tally, other _ _ _ (by decide)]
          split
          · exact e1
          · rw [back, e1]
        · exact e1
      split
      · rw [other _ _ _ (by decide)]
        split
        · exact e2
        · rw [back, e2]
      · rw [foldl_tally _ fun b m => State.releaseMsg_corrected b j m k, State.setSpd_tally, e2]

/-! A block sent. -/

/-- A block on the wire, and the scrambler moved by it. -/
def State.blockOut (s : State) (i : Nat) (b : BlockBits) : State :=
  { s.modSpd i (fun d => { d with scr := (scramble d.scr b).1 }) with wire := s.wire ++ [Wire.block i b] }

theorem State.blockOut_wire (s : State) (i : Nat) (b : BlockBits) : (s.blockOut i b).wire = s.wire ++ [Wire.block i b] := rfl

theorem State.blockOut_spd {s : State} {i : Nat} (in_ : i < s.spds.length) (b : BlockBits) :
    (s.blockOut i b).spd i = { s.spd i with scr := (scramble (s.spd i).scr b).1 } := by
  unfold State.blockOut
  refine (State.modSpd_spd s i i fun d => { d with scr := (scramble d.scr b).1 }).trans ?_
  exact if_pos ⟨rfl, in_⟩

/-- What a block period of an SPD that is not in doubt does. -/
def State.blockPeriod (s : State) (i : Nat) : State :=
  let d := s.spd i
  match d.state with
  | .up =>
    if d.periods % 4096 = 4095 then s.setSpd i { d with periods := d.periods + 1 }
    else
      let s1 := State.pullSpan i 4 s
      let r := (s1.spd i).sendBlock s.me i
      (s1.setSpd i r.1).blockOut i r.2
  | .training =>
    if d.periods % 4096 = 4095 then s.setSpd i { d with periods := d.periods + 1 }
    else
      let tr := if d.train.tstate = 4 then { d.train with sentReady := d.train.sentReady + 1 } else d.train
      (s.setSpd i { d with periods := d.periods + 1, train := tr }).blockOut i
        (d.trainBlock s.me i s.place.flockId.toNat s.fuses.serial.toNat (s.now / 10))
  | .refused => s.blockOut i (d.trainBlock s.me i s.place.flockId.toNat s.fuses.serial.toNat (s.now / 10))
  | .down =>
    if d.downOut then (s.setSpd i { d with downOut := false }).blockOut i (mkBlock 0 [] 0 d.lastB d.acc d.nak true d.freed s.me i)
    else s
  | .squelched => s

theorem execSpanBlockSend_next (i : SpdIx) (t : Time) (s : State) :
    exec (.spanBlockSend i t) s = .next (s.event t (fun s => !(s.spd i.val).doubt) fun s => s.blockPeriod i) := rfl

theorem State.blockPeriod_aligns {s : State} {i : Nat} (in_ : i < s.spds.length) (on : (s.spd i).state = .up ∨ (s.spd i).state = .training)
    (due : (s.spd i).periods % 4096 = 4095) :
    (s.blockPeriod i).wire = s.wire ∧ (s.blockPeriod i).spd i = { s.spd i with periods := (s.spd i).periods + 1 } := by
  have eq : s.blockPeriod i = s.setSpd i { s.spd i with periods := (s.spd i).periods + 1 } := by
    unfold State.blockPeriod
    rcases on with on | on <;> simp only [on, due, if_true]
  rw [eq]
  exact ⟨rfl, (State.setSpd_spd _ _ _ _).trans (if_pos ⟨rfl, in_⟩)⟩

theorem State.blockPeriod_up {s : State} {i : Nat} (up : (s.spd i).state = .up) (data : (s.spd i).periods % 4096 ≠ 4095) :
    s.blockPeriod i = ((State.pullSpan i 4 s).setSpd i (((State.pullSpan i 4 s).spd i).sendBlock s.me i).1).blockOut i
      (((State.pullSpan i 4 s).spd i).sendBlock s.me i).2 := by
  unfold State.blockPeriod
  simp only [up, data, if_false]

theorem State.blockPeriod_sends {s : State} {i : Nat} (in_ : i < s.spds.length) (on : (s.spd i).state = .up ∨ (s.spd i).state = .training)
    (data : (s.spd i).periods % 4096 ≠ 4095) :
    ((s.blockPeriod i).spd i).periods = (s.spd i).periods + 1 ∧ ∃ b, (s.blockPeriod i).wire = s.wire ++ [.block i b] := by
  rcases on with on | on
  · rw [State.blockPeriod_up on data]
    have pulled : i < (State.pullSpan i 4 s).spds.length := by
      have := congrArg Core.nSpds (State.pullSpan_core i 4 s)
      exact lt_of_lt_of_eq in_ this.symm
    refine ⟨?_, _, (State.blockOut_wire _ _ _).trans (congrArg (· ++ _) (State.pullSpan_wire i 4 s))⟩
    have own := State.setSpd_spd (State.pullSpan i 4 s) i i (((State.pullSpan i 4 s).spd i).sendBlock s.me i).1
    rw [if_pos ⟨rfl, pulled⟩] at own
    rw [State.blockOut_spd (by simpa using pulled), own, Spd.sendBlock_periods]
    exact congrArg (· + 1) (congrArg Spd.periods (State.pullSpan_line i 4 s i) :)
  · unfold State.blockPeriod
    simp only [on, data, if_false]
    refine ⟨?_, _, State.blockOut_wire _ _ _⟩
    rw [State.blockOut_spd (by simpa using in_), State.setSpd_spd, if_pos ⟨rfl, in_⟩]

/-- With nothing at the edge ports for it, an SPD whose link is up sends what it holds. -/
theorem State.blockPeriod_alone {s : State} {i : Nat} (in_ : i < s.spds.length) (up : (s.spd i).state = .up)
    (data : (s.spd i).periods % 4096 ≠ 4095) (none_ : s.spanHeads i = []) :
    (s.blockPeriod i).wire = s.wire ++ [.block i ((s.spd i).sendBlock s.me i).2]
      ∧ (s.blockPeriod i).spd i
        = { ((s.spd i).sendBlock s.me i).1 with scr := (scramble (s.spd i).scr ((s.spd i).sendBlock s.me i).2).1 } := by
  rw [State.blockPeriod_up up data, State.pullSpan_idle none_]
  refine ⟨rfl, ?_⟩
  rw [State.blockOut_spd (by simpa using in_), State.setSpd_spd, if_pos ⟨rfl, in_⟩, Spd.sendBlock_scr]

theorem State.blockPeriod_down {s : State} {i : Nat} (in_ : i < s.spds.length) (down : (s.spd i).state = .down) (due : (s.spd i).downOut = true) :
    ((s.blockPeriod i).spd i).downOut = false ∧ ∃ b, (s.blockPeriod i).wire = s.wire ++ [.block i b] := by
  unfold State.blockPeriod
  simp only [down, due, if_true]
  refine ⟨?_, _, State.blockOut_wire _ _ _⟩
  rw [State.blockOut_spd (by simpa using in_), State.setSpd_spd, if_pos ⟨rfl, in_⟩]

theorem State.blockPeriod_rests {s : State} {i : Nat}
    (rests : (s.spd i).state = .down ∧ (s.spd i).downOut = false ∨ (s.spd i).state = .squelched) : s.blockPeriod i = s := by
  unfold State.blockPeriod
  rcases rests with ⟨down, out⟩ | still
  · simp only [down, out, Bool.false_eq_true, if_false]
  · simp only [still]

/-! A block received. -/

/-- What a block that arrives at a link in service does. -/
def State.blockIn (s : State) (i : Nat) (decoded replay : Bool) (symbols : Nat) (b : BlockBits) : State :=
  let d := s.spd i
  let s0 := s.addTally .spd i tsCorrected symbols
  if !d.blockOk decoded b || bkType b ≠ 0 then
    if replay then s0.spanLinkDown i 1 else s0.setSpd i { d with nak := true }
  else
    let d1 := d.takeTrailer b
    if bkDown b then (s0.setSpd i d1).spanLinkDown i 1
    else
      let fs := bkFlits b
      if fs.isEmpty || bkBseq b ≠ d1.acc + 1 then s0.setSpd i d1
      else
        let s1 := s0.setSpd i { d1 with acc := bkBseq b, nak := false }
        let s2 := if replay then s1.count .spd i tsTransient else s1
        fs.foldl (fun s f => s.spanArrive i f) s2

theorem execSpanBlockReceived_next (i : SpdIx) (decoded replay : Bool) (symbols : Nat) (b : BitVec 2570) (t : Time) (s : State) :
    exec (.spanBlockReceived i decoded replay symbols b t) s
      = .next (s.event t (fun s => s.spanUp i.val) fun s => s.blockIn i decoded replay symbols b) := rfl

theorem Spd.takeTrailer_kept (d : Spd) (b : BlockBits) : (d.takeTrailer b).state = d.state ∧ (d.takeTrailer b).acc = d.acc := by
  unfold Spd.takeTrailer
  dsimp only
  split
  · split
    · split <;> exact ⟨rfl, rfl⟩
    · exact ⟨rfl, rfl⟩
  · exact ⟨rfl, rfl⟩

theorem State.spanUp_up {s : State} {i : Nat} (up : s.spanUp i = true) : (s.spd i).state = .up ∧ (s.spd i).doubt = false := by
  simpa [State.spanUp] using up

/-- A link that was up is down after the verdict, with no block left to send again. -/
theorem State.spanLinkDown_down {s : State} {i : Nat} (in_ : i < s.spds.length) (up : (s.spd i).state = .up) (cause : Nat) :
    ((s.spanLinkDown i cause).spd i).state = .down ∧ ((s.spanLinkDown i cause).spd i).replay = [] := by
  have line := State.spanLinkDown_line in_ up cause
  exact ⟨(congrArg Spd.state line :), (congrArg Spd.replay line :)⟩

theorem State.blockIn_corrected (s : State) (i : Nat) (decoded replay : Bool) (symbols : Nat) (b : BlockBits) :
    (s.blockIn i decoded replay symbols b).tally ⟨.spd, i, tsCorrected⟩ = s.tally ⟨.spd, i, tsCorrected⟩ + BitVec.ofNat 64 symbols := by
  have counted : (s.addTally .spd i tsCorrected symbols).tally ⟨.spd, i, tsCorrected⟩
      = s.tally ⟨.spd, i, tsCorrected⟩ + BitVec.ofNat 64 symbols := by simp
  rw [← counted]
  unfold State.blockIn
  dsimp only
  split
  · split
    · rw [State.spanLinkDown_corrected]
    · rfl
  · split
    · rw [State.spanLinkDown_corrected, State.setSpd_tally]
    · split
      · rfl
      · rw [foldl_tally _ fun b f => State.spanArrive_corrected b i f i]
        split
        · simp [tsCorrected, tsTransient]
        · rfl

/-- A block that is not to be acted on. -/
theorem State.blockIn_bad {s : State} {i : Nat} (in_ : i < s.spds.length) (up : s.spanUp i = true) {decoded : Bool} (symbols : Nat) {b : BlockBits}
    (bad : (s.spd i).blockOk decoded b = false ∨ bkType b ≠ 0) :
    ((s.blockIn i decoded true symbols b).spd i).state = .down
      ∧ (s.blockIn i decoded false symbols b).spd i = { s.spd i with nak := true } := by
  have refused : (!(s.spd i).blockOk decoded b || decide (bkType b ≠ 0)) = true := by
    rcases bad with bad | bad <;> simp [bad]
  unfold State.blockIn
  simp only [refused, if_true, Bool.false_eq_true, if_false]
  constructor
  · refine (State.spanLinkDown_down (by simpa using in_) ?_ 1).1
    rw [State.addTally_spd]
    exact (State.spanUp_up up).1
  · rw [State.setSpd_spd, if_pos ⟨rfl, by simpa using in_⟩]

section
variable {s : State} {i : Nat} {decoded : Bool} (replay : Bool) (symbols : Nat) {b : BlockBits}
  (good : (s.spd i).blockOk decoded b = true) (data : bkType b = 0)
include good data

theorem State.blockIn_declared (in_ : i < s.spds.length) (up : s.spanUp i = true) (down : bkDown b = true) :
    ((s.blockIn i decoded replay symbols b).spd i).state = .down := by
  unfold State.blockIn
  simp only [good, data, down, Bool.not_true, ne_eq, not_true_eq_false, decide_false, Bool.or_false, Bool.false_eq_true, if_false, if_true]
  refine (State.spanLinkDown_down (by simpa using in_) ?_ 1).1
  rw [State.setSpd_spd, if_pos ⟨rfl, by simpa using in_⟩]
  exact (Spd.takeTrailer_kept _ _).1.trans (State.spanUp_up up).1

theorem State.blockIn_trailer (in_ : i < s.spds.length) (on : bkDown b = false) (none_ : bkFlits b = [] ∨ bkBseq b ≠ (s.spd i).acc + 1) :
    (s.blockIn i decoded replay symbols b).spd i = (s.spd i).takeTrailer b := by
  have out : ((bkFlits b).isEmpty || decide (bkBseq b ≠ ((s.spd i).takeTrailer b).acc + 1)) = true := by
    rw [(Spd.takeTrailer_kept _ _).2]
    simpa using none_
  unfold State.blockIn
  simp only [good, data, on, out, Bool.not_true, ne_eq, not_true_eq_false, decide_false, Bool.or_false, Bool.false_eq_true, if_false, if_true]
  rw [State.setSpd_spd, if_pos ⟨rfl, by simpa using in_⟩]

theorem State.blockIn_flits (in_ : i < s.spds.length) (on : bkDown b = false) (some_ : bkFlits b ≠ []) (next : bkBseq b = (s.spd i).acc + 1) :
    ((s.blockIn i decoded replay symbols b).spd i).acc = bkBseq b := by
  have in_turn : ((bkFlits b).isEmpty || decide (bkBseq b ≠ ((s.spd i).takeTrailer b).acc + 1)) = false := by
    rw [(Spd.takeTrailer_kept _ _).2]
    simp [some_, next]
  unfold State.blockIn
  simp only [good, data, on, in_turn, Bool.not_true, ne_eq, not_true_eq_false, decide_false, Bool.or_false, Bool.false_eq_true, if_false]
  rw [foldl_eq (fun a : State => (a.spd i).acc) _ _ fun a f _ => State.spanArrive_acc a i f i]
  split
  · rw [State.count_acc, State.setSpd_spd, if_pos ⟨rfl, by simpa using in_⟩]
  · rw [State.setSpd_spd, if_pos ⟨rfl, by simpa using in_⟩]
end

/-- An SPD is one of the sixteen. -/
theorem spd_in {s : State} (size : s.sized) (i : SpdIx) : i.val < s.spds.length := by
  rw [size.2.2.2]
  exact i.isLt

/-- Settles O38, by what a block period, a block that arrives and a verdict leave of the SPD. -/
theorem spanBlocksReplayOrGoDown : Obligations.SpanBlocksReplayOrGoDown := by
  unfold Obligations.SpanBlocksReplayOrGoDown
  refine ⟨fun j d t s size running eq sound => ?_, fun j d decoded replay symbols b t s size running up eq => ?_,
    fun j t s size running up => ?_, fun j t s size running up again => ?_, fun j t s size running up => ?_⟩
  · subst eq
    have in_ : j.val < (s.tick t).spds.length := spd_in size j
    rw [execSpanBlockSend_next]
    refine event_next running (by simpa using sound) ⟨?_, ?_, ?_, ?_, ?_, ?_⟩
    · exact fun on due => State.blockPeriod_aligns in_ on due
    · exact fun on data => State.blockPeriod_sends in_ on data
    · exact fun on data none_ => State.blockPeriod_alone in_ on data none_
    · intro refused
      have eq : (s.tick t).blockPeriod j = (s.tick t).blockOut j
          (((s.tick t).spd j).trainBlock s.me j s.place.flockId.toNat s.fuses.serial.toNat (max s.now t / 10)) := by
        unfold State.blockPeriod
        simp only [show ((s.tick t).spd j).state = .refused from refused]
        rfl
      rw [eq, State.blockOut_wire]
      rfl
    · exact fun down due => State.blockPeriod_down in_ down due
    · intro rests
      rw [State.blockPeriod_rests (s := s.tick t) rests]
      rfl
  · subst eq
    have in_ : j.val < (s.tick t).spds.length := spd_in size j
    rw [execSpanBlockReceived_next]
    refine event_next running up ⟨?_, ?_, ?_, ?_, ?_⟩
    · exact State.blockIn_corrected _ _ _ _ _ _
    · intro bad
      have left := State.blockIn_bad in_ up symbols bad
      constructor
      · rintro rfl
        exact left.1
      · rintro rfl
        exact left.2
    · exact fun good data down => State.blockIn_declared replay symbols good data in_ up down
    · exact fun good data on none_ => State.blockIn_trailer replay symbols good data in_ on none_
    · exact fun good data on some_ next => State.blockIn_flits replay symbols good data in_ on some_ next
  · refine event_next running up ?_
    exact (State.modSpd_spd _ _ _ _).trans (if_pos ⟨rfl, spd_in size j⟩)
  · refine event_next running (Bool.and_eq_true_iff.mpr ⟨up, again⟩) ?_
    exact State.spanLinkDown_down (s := s.tick t) (spd_in size j) (State.spanUp_up up).1 1
  · refine event_next running up ?_
    exact State.spanLinkDown_down (s := s.tick t) (spd_in size j) (State.spanUp_up up).1 1

end Sys2Proof.Machine

/-! What leaves the flock alone, as in Laws/. -/
namespace Sys2Proof.Machine

open Sys2Proof

/-- The flock as the controller knows it. -/
structure Herd where
  flockUp : Bool
  flockMembers : List Nat
  excludedW : List Nat

def State.herd (s : State) : Herd :=
  ⟨s.flockUp, s.flockMembers, s.excludedW⟩

theorem herd_mk (now) (freeCtr) (resetN) (pwrFail) (pwrFailAt) (frozen) (faultN) (alertN) (alertCause) (ready)
    (readyAt) (vstby) (fuses) (flash) (writing) (place) (net) (boot) (sel) (quiet) (active) (shcA) (shcB) (mirrorSeq)
    (mirrorProbe) (scratch) (sess) (con0) (con1) (waits) (garp) (stages) (nextStage) (retained) (fwUpdate) (bellSeq)
    (bells) (ledgerSeq) (ledgerHeld) (ledgerStopped) (ptpPort) (ptpHeard) (tallies) (busA) (busB) (shared) (telem)
    (unreach) (refAbsent) (refSince) (meshLocked) (inlet) (outlet) (loopSince) (wave) (lastWave) (map) (mapSeq) (pads)
    (fields) (links) (lane0) (neds) (meds) (spds) (nedTemp) (spdTemp) (medTemp) (flockUp) (flockMembers) (flockInfo)
    (excludedW) (folds) (scrubs) (paused) (secondAt) (incCtr) (channels) (sessions) (reports) (notices) (wsel) (wstat)
    (shadow) (taps) (wire) (pending) : (State.mk now freeCtr resetN pwrFail pwrFailAt frozen faultN alertN alertCause
    ready readyAt vstby fuses flash writing place net boot sel quiet active shcA shcB mirrorSeq mirrorProbe scratch
    sess con0 con1 waits garp stages nextStage retained fwUpdate bellSeq bells ledgerSeq ledgerHeld ledgerStopped
    ptpPort ptpHeard tallies busA busB shared telem unreach refAbsent refSince meshLocked inlet outlet loopSince wave
    lastWave map mapSeq pads fields links lane0 neds meds spds nedTemp spdTemp medTemp flockUp flockMembers flockInfo
    excludedW folds scrubs paused secondAt incCtr channels sessions reports notices wsel wstat shadow taps wire
    pending).herd =
    ⟨flockUp, flockMembers, excludedW⟩ := rfl

theorem herd_eqs : (∀ s : State, s.flockUp = s.herd.flockUp) ∧
    (∀ s : State, s.flockMembers = s.herd.flockMembers) ∧
    (∀ s : State, s.excludedW = s.herd.excludedW) := by
  (repeat' apply And.intro) <;> intros <;> rfl

@[simp] theorem ite_herd (c : Prop) [Decidable c] (a b : State) : (if c then a else b).herd = if c then a.herd else b.herd := by
  split <;> rfl

@[simp] theorem foldl_herd {α : Type} (f : State → α → State) (h : ∀ s a, (f s a).herd = s.herd) (l : List α) (s : State) :
    (l.foldl f s).herd = s.herd := by
  induction l generalizing s with
  | nil => rfl
  | cons x xs ih => simp [ih, h]

theorem ite_eq_herd {c : Prop} [Decidable c] {a b : State} {r : Herd} (ha : a.herd = r) (hb : b.herd = r) :
    (if c then a else b).herd = r := by
  split <;> assumption

theorem wire_herd (a : State) (w : List Wire) : ({ a with wire := w } : State).herd = a.herd := rfl

theorem meds_herd (a : State) (l : List Med) (h : l.length = a.meds.length) : ({ a with meds := l } : State).herd = a.herd := rfl

theorem heard_herd (a : State) (o : Option Time) : ({ a with ptpHeard := o } : State).herd = a.herd := rfl

theorem fw_herd (a : State) (w : FwUpdate) : ({ a with fwUpdate := w } : State).herd = a.herd := rfl

@[simp] theorem State.setPad_herd (s : State) (n : Nat) (p : Paddock) : (State.setPad s n p).herd = s.herd := by
  unfold State.setPad; simp only [State.herd, Herd.mk.injEq] <;> simp [↓herd_mk, herd_eqs]

@[simp] theorem State.modPad_herd (s : State) (n : Nat) (f : Paddock → Paddock) : (State.modPad s n f).herd = s.herd := by
  simp [State.modPad]

@[simp] theorem State.setNed_herd (s : State) (k : Nat) (x : Ned) : (State.setNed s k x).herd = s.herd := by
  unfold State.setNed; simp only [State.herd, Herd.mk.injEq] <;> simp [↓herd_mk, herd_eqs]

@[simp] theorem State.modNed_herd (s : State) (k : Nat) (f : Ned → Ned) : (State.modNed s k f).herd = s.herd := by
  simp [State.modNed]

@[simp] theorem State.setMed_herd (s : State) (k : Nat) (x : Med) : (State.setMed s k x).herd = s.herd := by
  unfold State.setMed; simp only [State.herd, Herd.mk.injEq] <;> simp [↓herd_mk, herd_eqs]

@[simp] theorem State.setSpd_herd (s : State) (k : Nat) (x : Spd) : (State.setSpd s k x).herd = s.herd := by
  unfold State.setSpd; simp only [State.herd, Herd.mk.injEq] <;> simp [↓herd_mk, herd_eqs]

@[simp] theorem State.modSpd_herd (s : State) (k : Nat) (f : Spd → Spd) : (State.modSpd s k f).herd = s.herd := by
  simp [State.modSpd]

@[simp] theorem State.setShc_herd (s : State) (i : Nat) (x : Shc) : (State.setShc s i x).herd = s.herd := by
  unfold State.setShc; simp only [State.herd, Herd.mk.injEq] <;> simp [↓herd_mk, herd_eqs]

@[simp] theorem State.modShc_herd (s : State) (i : Nat) (f : Shc → Shc) : (State.modShc s i f).herd = s.herd := by
  simp [State.modShc]

@[simp] theorem State.setLink_herd (s : State) (x lane : Nat) (l : LinkEnd) : (State.setLink s x lane l).herd = s.herd := by
  unfold State.setLink; simp only [State.herd, Herd.mk.injEq] <;> simp [↓herd_mk, herd_eqs]

@[simp] theorem State.modLink_herd (s : State) (x lane : Nat) (f : LinkEnd → LinkEnd) : (State.modLink s x lane f).herd = s.herd := by
  simp [State.modLink]

@[simp] theorem State.modFold_herd (s : State) (id : Nat) (g : Fold → Fold) : (State.modFold s id g).herd = s.herd := by
  unfold State.modFold; simp only [State.herd, Herd.mk.injEq] <;> simp [↓herd_mk, herd_eqs]

@[simp] theorem State.setSession_herd (s : State) (num : Nat) (x : Session) : (State.setSession s num x).herd = s.herd := by
  unfold State.setSession; simp only [State.herd, Herd.mk.injEq] <;> simp [↓herd_mk, herd_eqs]

@[simp] theorem State.addTally_herd (s : State) (scope : TScope) (id idx n : Nat) : (State.addTally s scope id idx n).herd = s.herd := by
  unfold State.addTally; simp only [State.herd, Herd.mk.injEq] <;> simp [↓herd_mk, herd_eqs]

@[simp] theorem State.count_herd (s : State) (scope : TScope) (id idx : Nat) : (State.count s scope id idx).herd = s.herd := by
  simp [State.count]

@[simp] theorem State.noteStray_herd (s : State) (fold : Nat) : (State.noteStray s fold).herd = s.herd := by
  simp [State.noteStray]

@[simp] theorem State.countChan_herd (s : State) (ned bind handle idx n : Nat) : (State.countChan s ned bind handle idx n).herd = s.herd := by
  simp [State.countChan]

@[simp] theorem State.ring_herd (s : State) (obj : String) (fault : Bool) (kv : KVs) : (s.ring obj fault kv).herd = s.herd := by
  unfold State.ring
  split
  · rfl
  · exact (State.addTally_herd _ _ _ _ _).trans rfl

@[simp] theorem State.report_herd (s : State) (tr : Trigger) (folds : List Nat) (place : Nat) : (State.report s tr folds place).herd = s.herd := by
  unfold State.report; simp only [State.herd, Herd.mk.injEq] <;> simp [↓herd_mk, herd_eqs]

@[simp] theorem State.goDark_herd (s : State) (n : Nat) : (State.goDark s n).herd = s.herd := by
  unfold State.goDark; simp only [State.herd, Herd.mk.injEq] <;> simp [↓herd_mk, herd_eqs]

@[simp] theorem State.setCs_herd (s : State) (i : Nat) (c : CSess) : (State.setCs s i c).herd = s.herd := by
  unfold State.setCs; simp only [State.herd, Herd.mk.injEq] <;> simp [↓herd_mk, herd_eqs]

@[simp] theorem State.modCs_herd (s : State) (i : Nat) (f : CSess → CSess) : (State.modCs s i f).herd = s.herd := by
  simp [State.modCs]

@[simp] theorem State.say_herd (s : State) (i : Nat) (o : Out) : (State.say s i o).herd = s.herd := by
  simp [State.say]

@[simp] theorem State.prompt_herd (s : State) (i : Nat) : (State.prompt s i).herd = s.herd := by
  simp [State.prompt]

@[simp] theorem State.final_herd (s : State) (i : Nat) (tag : Option (List Byte)) (crc : Bool) (r : RLine) : (State.final s i tag crc r).herd = s.herd := by
  simp [State.final]

@[simp] theorem State.answer_herd (s : State) (ln : Ln) (r : RLine) : (State.answer s ln r).herd = s.herd := by
  unfold State.answer
  (repeat' split) <;> simp

@[simp] theorem State.ok_herd (s : State) (ln : Ln) (kv : KVs) : (State.ok s ln kv).herd = s.herd := by
  simp [State.ok]

@[simp] theorem State.settle_herd (s : State) (p : WaitFor → Bool) (r : RLine) : (State.settle s p r).herd = s.herd := by
  unfold State.settle; simp only [State.herd, Herd.mk.injEq] <;> simp [↓herd_mk, herd_eqs]

@[simp] theorem State.mirror_herd (s : State) : (State.mirror s).herd = s.herd := by
  unfold State.mirror
  (repeat' split) <;> first | (simp; done) | (simp only [State.herd, Herd.mk.injEq] <;> simp [↓herd_mk, herd_eqs])

@[simp] theorem State.syncCredits_herd (s : State) (x lane : Nat) : (State.syncCredits s x lane).herd = s.herd := by
  unfold State.syncCredits
  (repeat' split) <;> simp

@[simp] theorem State.syncBorders_herd (s : State) (n : Nat) : (State.syncBorders s n).herd = s.herd := by
  unfold State.syncBorders
  dsimp only
  (repeat' split) <;> first | rfl | (simp (disch := (intros; (repeat' split) <;> simp)); done) | (simp only [State.herd, Herd.mk.injEq] <;> simp (disch := (intros; (repeat' split) <;> simp)) [↓herd_mk, herd_eqs])

@[simp] theorem State.sessMod_herd (s : State) (r : Req) (f : Session → Session) : (State.sessMod s r f).herd = s.herd := by
  unfold State.sessMod
  (repeat' split) <;> simp

@[simp] theorem State.countReq_herd (s : State) (k : Nat) (r : Req) (idx n : Nat) : (State.countReq s k r idx n).herd = s.herd := by
  simp [State.countReq]

@[simp] theorem State.countReply_herd (s : State) (k : Nat) (r : Req) (back : Bool) : (State.countReply s k r back).herd = s.herd := by
  unfold State.countReply
  (repeat' split) <;> simp

@[simp] theorem State.endReq_herd (s : State) (k : Nat) (r : Req) : (State.endReq s k r).herd = s.herd := by
  simp [State.endReq]

@[simp] theorem State.closeTag_herd (s : State) (k : Nat) (r : Req) (stray : Bool) : (State.closeTag s k r stray).herd = s.herd := by
  simp [State.closeTag]

@[simp] theorem State.releaseFcs_herd (s : State) (k : Nat) (r : Req) : (State.releaseFcs s k r).herd = s.herd := by
  unfold State.releaseFcs; simp only [State.herd, Herd.mk.injEq] <;> simp [↓herd_mk, herd_eqs]

@[simp] theorem State.startReply_herd (s : State) (k : Nat) (r : Req) (rep : Reply) (at_ : Time) : (State.startReply s k r rep at_).herd = s.herd := by
  unfold State.startReply; simp only [State.herd, Herd.mk.injEq] <;> simp [↓herd_mk, herd_eqs]

@[simp] theorem State.compose_herd (s : State) (k : Nat) (r : Req) (rep : Reply) : (State.compose s k r rep).herd = s.herd := by
  unfold State.compose
  dsimp only
  (repeat' split) <;> simp

@[simp] theorem State.stomp_herd (s : State) (k : Nat) (r : Req) (whole : Bool) : (State.stomp s k r whole).herd = s.herd := by
  unfold State.stomp; simp only [State.herd, Herd.mk.injEq] <;> simp [↓herd_mk, herd_eqs]

@[simp] theorem State.unsend_herd (s : State) (k : Nat) (r : Req) : (State.unsend s k r).herd = s.herd := by
  unfold State.unsend; simp only [State.herd, Herd.mk.injEq] <;> simp [↓herd_mk, herd_eqs]

@[simp] theorem State.stompSent_herd (s : State) (k : Nat) (r : Req) : (State.stompSent s k r).herd = s.herd := by
  simp [State.stompSent]

@[simp] theorem State.refuseReq_herd (s : State) (k : Nat) (r : Req) (reason : Nat) : (State.refuseReq s k r reason).herd = s.herd := by
  simp [State.refuseReq]

@[simp] theorem State.dropReq_herd (s : State) (k : Nat) (r : Req) : (State.dropReq s k r).herd = s.herd := by
  simp [State.dropReq]

@[simp] theorem State.freeSlot_herd (s : State) (x lane : Nat) (vc : Bool) : (State.freeSlot s x lane vc).herd = s.herd := by
  simp [State.freeSlot]

@[simp] theorem State.medSend_herd (s : State) (k : Nat) (out : List (MedPort × Flit)) : (State.medSend s k out).herd = s.herd := by
  simp [State.medSend]

@[simp] theorem State.revokeSpan_herd (s : State) (fold : Nat) (reconf : Bool) : (State.revokeSpan s fold reconf).herd = s.herd := by
  simp [State.revokeSpan]

@[simp] theorem State.dropBuffers_herd (s : State) (n : Nat) (fold : Option Nat) : (State.dropBuffers s n fold).herd = s.herd := by
  simp [State.dropBuffers]

@[simp] theorem State.revokeFold_herd (s : State) (n fold : Nat) : (State.revokeFold s n fold).herd = s.herd := by
  simp [State.revokeFold]

@[simp] theorem State.hurdleFor_herd (s : State) (n fold : Nat) : (State.hurdleFor s n fold).herd = s.herd := by
  simp [State.hurdleFor]

@[simp] theorem State.startRouter_herd (s : State) (n : Nat) : (State.startRouter s n).herd = s.herd := by
  simp [State.startRouter]

@[simp] theorem State.shearPad_herd (s : State) (n : Nat) : (State.shearPad s n).herd = s.herd := by
  simp [State.shearPad]

@[simp] theorem State.shearSlot_herd (s : State) (n k fold : Nat) : (State.shearSlot s n k fold).herd = s.herd := by
  simp [State.shearSlot]

@[simp] theorem State.settleUnleased_herd (s : State) (n : Nat) : (State.settleUnleased s n).herd = s.herd := by
  unfold State.settleUnleased
  dsimp only
  (repeat' split) <;> first | rfl | (simp; done) | (simp only [State.herd, Herd.mk.injEq] <;> simp [↓herd_mk, herd_eqs])

@[simp] theorem State.unleasePad_herd (s : State) (n fold : Nat) : (State.unleasePad s n fold).herd = s.herd := by
  simp [State.unleasePad]

@[simp] theorem State.unleaseSlot_herd (s : State) (n k fold : Nat) : (State.unleaseSlot s n k fold).herd = s.herd := by
  simp [State.unleaseSlot]

@[simp] theorem State.revokePages_herd (s : State) (ps : List (Nat × Nat)) : (State.revokePages s ps).herd = s.herd := by
  simp [State.revokePages]

@[simp] theorem State.refuseAll_herd (s : State) (p : Nat → Req → Bool) (reason : Nat) : (State.refuseAll s p reason).herd = s.herd := by
  simp [State.refuseAll]

@[simp] theorem State.waferOut_herd (s : State) (fold reason : Nat) : (State.waferOut s fold reason).herd = s.herd := by
  simp [State.waferOut]

@[simp] theorem State.syncPause_herd (s : State) : (State.syncPause s).herd = s.herd := by
  unfold State.syncPause
  (repeat' split) <;> first | (simp; done) | (simp only [State.herd, Herd.mk.injEq] <;> simp [↓herd_mk, herd_eqs])

@[simp] theorem State.finishRelease_herd (s : State) (f : Fold) : (State.finishRelease s f).herd = s.herd := by
  unfold State.finishRelease; simp only [State.herd, Herd.mk.injEq] <;> simp [↓herd_mk, herd_eqs]

@[simp] theorem State.releaseStep_herd (s : State) (id : Nat) : (State.releaseStep s id).herd = s.herd := by
  unfold State.releaseStep
  (repeat' split) <;> simp

end Sys2Proof.Machine

/-! What leaves the Span edge dies alone, as in Laws/. -/
namespace Sys2Proof.Machine

open Sys2Proof

/-- The Span edge dies. -/
structure Spans where
  spds : List Spd

def State.spans (s : State) : Spans :=
  ⟨s.spds⟩

theorem spans_mk (now) (freeCtr) (resetN) (pwrFail) (pwrFailAt) (frozen) (faultN) (alertN) (alertCause) (ready)
    (readyAt) (vstby) (fuses) (flash) (writing) (place) (net) (boot) (sel) (quiet) (active) (shcA) (shcB) (mirrorSeq)
    (mirrorProbe) (scratch) (sess) (con0) (con1) (waits) (garp) (stages) (nextStage) (retained) (fwUpdate) (bellSeq)
    (bells) (ledgerSeq) (ledgerHeld) (ledgerStopped) (ptpPort) (ptpHeard) (tallies) (busA) (busB) (shared) (telem)
    (unreach) (refAbsent) (refSince) (meshLocked) (inlet) (outlet) (loopSince) (wave) (lastWave) (map) (mapSeq) (pads)
    (fields) (links) (lane0) (neds) (meds) (spds) (nedTemp) (spdTemp) (medTemp) (flockUp) (flockMembers) (flockInfo)
    (excludedW) (folds) (scrubs) (paused) (secondAt) (incCtr) (channels) (sessions) (reports) (notices) (wsel) (wstat)
    (shadow) (taps) (wire) (pending) : (State.mk now freeCtr resetN pwrFail pwrFailAt frozen faultN alertN alertCause
    ready readyAt vstby fuses flash writing place net boot sel quiet active shcA shcB mirrorSeq mirrorProbe scratch
    sess con0 con1 waits garp stages nextStage retained fwUpdate bellSeq bells ledgerSeq ledgerHeld ledgerStopped
    ptpPort ptpHeard tallies busA busB shared telem unreach refAbsent refSince meshLocked inlet outlet loopSince wave
    lastWave map mapSeq pads fields links lane0 neds meds spds nedTemp spdTemp medTemp flockUp flockMembers flockInfo
    excludedW folds scrubs paused secondAt incCtr channels sessions reports notices wsel wstat shadow taps wire
    pending).spans =
    ⟨spds⟩ := rfl

theorem spans_eqs : (∀ s : State, s.spds = s.spans.spds) := by
  intros
  rfl

@[simp] theorem ite_spans (c : Prop) [Decidable c] (a b : State) : (if c then a else b).spans = if c then a.spans else b.spans := by
  split <;> rfl

@[simp] theorem foldl_spans {α : Type} (f : State → α → State) (h : ∀ s a, (f s a).spans = s.spans) (l : List α) (s : State) :
    (l.foldl f s).spans = s.spans := by
  induction l generalizing s with
  | nil => rfl
  | cons x xs ih => simp [ih, h]

theorem ite_eq_spans {c : Prop} [Decidable c] {a b : State} {r : Spans} (ha : a.spans = r) (hb : b.spans = r) :
    (if c then a else b).spans = r := by
  split <;> assumption

theorem wire_spans (a : State) (w : List Wire) : ({ a with wire := w } : State).spans = a.spans := rfl

theorem meds_spans (a : State) (l : List Med) (h : l.length = a.meds.length) : ({ a with meds := l } : State).spans = a.spans := rfl

theorem heard_spans (a : State) (o : Option Time) : ({ a with ptpHeard := o } : State).spans = a.spans := rfl

theorem fw_spans (a : State) (w : FwUpdate) : ({ a with fwUpdate := w } : State).spans = a.spans := rfl

@[simp] theorem State.setField_spans (s : State) (f : Nat) (x : Field) : (State.setField s f x).spans = s.spans := by
  unfold State.setField; simp only [State.spans, Spans.mk.injEq] <;> simp [↓spans_mk, spans_eqs]

@[simp] theorem State.modField_spans (s : State) (f : Nat) (g : Field → Field) : (State.modField s f g).spans = s.spans := by
  simp [State.modField]

@[simp] theorem State.setNed_spans (s : State) (k : Nat) (x : Ned) : (State.setNed s k x).spans = s.spans := by
  unfold State.setNed; simp only [State.spans, Spans.mk.injEq] <;> simp [↓spans_mk, spans_eqs]

@[simp] theorem State.modNed_spans (s : State) (k : Nat) (f : Ned → Ned) : (State.modNed s k f).spans = s.spans := by
  simp [State.modNed]

@[simp] theorem State.modFold_spans (s : State) (id : Nat) (g : Fold → Fold) : (State.modFold s id g).spans = s.spans := by
  unfold State.modFold; simp only [State.spans, Spans.mk.injEq] <;> simp [↓spans_mk, spans_eqs]

@[simp] theorem State.setSession_spans (s : State) (num : Nat) (x : Session) : (State.setSession s num x).spans = s.spans := by
  unfold State.setSession; simp only [State.spans, Spans.mk.injEq] <;> simp [↓spans_mk, spans_eqs]

@[simp] theorem State.addTally_spans (s : State) (scope : TScope) (id idx n : Nat) : (State.addTally s scope id idx n).spans = s.spans := by
  unfold State.addTally; simp only [State.spans, Spans.mk.injEq] <;> simp [↓spans_mk, spans_eqs]

@[simp] theorem State.count_spans (s : State) (scope : TScope) (id idx : Nat) : (State.count s scope id idx).spans = s.spans := by
  simp [State.count]

@[simp] theorem State.countChan_spans (s : State) (ned bind handle idx n : Nat) : (State.countChan s ned bind handle idx n).spans = s.spans := by
  simp [State.countChan]

@[simp] theorem State.ring_spans (s : State) (obj : String) (fault : Bool) (kv : KVs) : (s.ring obj fault kv).spans = s.spans := by
  unfold State.ring
  split
  · rfl
  · exact (State.addTally_spans _ _ _ _ _).trans rfl

@[simp] theorem State.report_spans (s : State) (tr : Trigger) (folds : List Nat) (place : Nat) : (State.report s tr folds place).spans = s.spans := by
  unfold State.report; simp only [State.spans, Spans.mk.injEq] <;> simp [↓spans_mk, spans_eqs]

@[simp] theorem State.dieBell_spans (s : State) (obj : String) (k cause : Nat) : (State.dieBell s obj k cause).spans = s.spans := by
  unfold State.dieBell; simp only [State.spans, Spans.mk.injEq] <;> simp [↓spans_mk, spans_eqs]

@[simp] theorem State.reinject_spans (s : State) : (State.reinject s).spans = s.spans := by
  simp [State.reinject]

@[simp] theorem State.setCs_spans (s : State) (i : Nat) (c : CSess) : (State.setCs s i c).spans = s.spans := by
  unfold State.setCs; simp only [State.spans, Spans.mk.injEq] <;> simp [↓spans_mk, spans_eqs]

@[simp] theorem State.modCs_spans (s : State) (i : Nat) (f : CSess → CSess) : (State.modCs s i f).spans = s.spans := by
  simp [State.modCs]

@[simp] theorem State.say_spans (s : State) (i : Nat) (o : Out) : (State.say s i o).spans = s.spans := by
  simp [State.say]

@[simp] theorem State.prompt_spans (s : State) (i : Nat) : (State.prompt s i).spans = s.spans := by
  simp [State.prompt]

@[simp] theorem State.final_spans (s : State) (i : Nat) (tag : Option (List Byte)) (crc : Bool) (r : RLine) : (State.final s i tag crc r).spans = s.spans := by
  simp [State.final]

@[simp] theorem State.answer_spans (s : State) (ln : Ln) (r : RLine) : (State.answer s ln r).spans = s.spans := by
  unfold State.answer
  (repeat' split) <;> simp

@[simp] theorem State.ok_spans (s : State) (ln : Ln) (kv : KVs) : (State.ok s ln kv).spans = s.spans := by
  simp [State.ok]

@[simp] theorem State.settle_spans (s : State) (p : WaitFor → Bool) (r : RLine) : (State.settle s p r).spans = s.spans := by
  unfold State.settle; simp only [State.spans, Spans.mk.injEq] <;> simp [↓spans_mk, spans_eqs]

@[simp] theorem State.sessMod_spans (s : State) (r : Req) (f : Session → Session) : (State.sessMod s r f).spans = s.spans := by
  unfold State.sessMod
  (repeat' split) <;> simp

@[simp] theorem State.countReq_spans (s : State) (k : Nat) (r : Req) (idx n : Nat) : (State.countReq s k r idx n).spans = s.spans := by
  simp [State.countReq]

@[simp] theorem State.countReply_spans (s : State) (k : Nat) (r : Req) (back : Bool) : (State.countReply s k r back).spans = s.spans := by
  unfold State.countReply
  (repeat' split) <;> simp

@[simp] theorem State.endReq_spans (s : State) (k : Nat) (r : Req) : (State.endReq s k r).spans = s.spans := by
  simp [State.endReq]

@[simp] theorem State.closeTag_spans (s : State) (k : Nat) (r : Req) (stray : Bool) : (State.closeTag s k r stray).spans = s.spans := by
  simp [State.closeTag]

@[simp] theorem State.releaseFcs_spans (s : State) (k : Nat) (r : Req) : (State.releaseFcs s k r).spans = s.spans := by
  unfold State.releaseFcs; simp only [State.spans, Spans.mk.injEq] <;> simp [↓spans_mk, spans_eqs]

@[simp] theorem State.startReply_spans (s : State) (k : Nat) (r : Req) (rep : Reply) (at_ : Time) : (State.startReply s k r rep at_).spans = s.spans := by
  unfold State.startReply; simp only [State.spans, Spans.mk.injEq] <;> simp [↓spans_mk, spans_eqs]

@[simp] theorem State.compose_spans (s : State) (k : Nat) (r : Req) (rep : Reply) : (State.compose s k r rep).spans = s.spans := by
  unfold State.compose
  dsimp only
  (repeat' split) <;> simp

@[simp] theorem State.stomp_spans (s : State) (k : Nat) (r : Req) (whole : Bool) : (State.stomp s k r whole).spans = s.spans := by
  unfold State.stomp; simp only [State.spans, Spans.mk.injEq] <;> simp [↓spans_mk, spans_eqs]

@[simp] theorem State.unsend_spans (s : State) (k : Nat) (r : Req) : (State.unsend s k r).spans = s.spans := by
  unfold State.unsend; simp only [State.spans, Spans.mk.injEq] <;> simp [↓spans_mk, spans_eqs]

@[simp] theorem State.stompSent_spans (s : State) (k : Nat) (r : Req) : (State.stompSent s k r).spans = s.spans := by
  simp [State.stompSent]

@[simp] theorem State.refuseReq_spans (s : State) (k : Nat) (r : Req) (reason : Nat) : (State.refuseReq s k r reason).spans = s.spans := by
  simp [State.refuseReq]

@[simp] theorem State.dropReq_spans (s : State) (k : Nat) (r : Req) : (State.dropReq s k r).spans = s.spans := by
  simp [State.dropReq]

end Sys2Proof.Machine

/-! Training of a Span link, and the flock (O39). -/
namespace Sys2Proof.Machine

open Sys2Proof

theorem spd_of_spans {a b : State} (same : a.spans = b.spans) (j : Nat) : a.spd j = b.spd j :=
  congrArg (fun l : Spans => l.spds.getD j Spd.initial) same

/-! Training. -/

/-- What a side that refuses is. -/
def Spd.refusedWith (d : Spd) (cause : Nat) : Spd := { d with state := .refused, cause := cause, train := { d.train with tstate := 5, cause := cause } }

theorem State.spanRefuse_own {s : State} {i : Nat} (in_ : i < s.spds.length) (cause : Nat) :
    (s.spanRefuse i cause).spd i = (s.spd i).refusedWith cause := by
  unfold State.spanRefuse
  rw [State.ring_spd, State.modSpd_spd, if_pos ⟨rfl, in_⟩]
  rfl

/-- What a TRAIN block of the wired member of this flock does. -/
def State.trainWith (s : State) (i : Nat) (locked : BitVec 16) (b : BlockBits) : State :=
  let d := s.spd i
  let tr := d.train.take locked b (s.now / 10)
  let s1 := s.setSpd i { d with train := tr, peerWafer := trWafer b, peerSpd := trSpd b, delay := tr.meanDelay,
                                width := (commonWidth locked (trLock b)).getD 0 }
  if tr.tstate = 3 then s1.spanRefuse i 4
  else if 3 ≤ tr.sentReady && 3 ≤ tr.gotReady && tr.tstate = 4 then
    (s1.modSpd i Spd.goUp).ring "span" false [("spd", .num i), ("peer", .num (trWafer b)), ("state", .word "up")]
  else s1

/-- What a TRAIN block does to a link that trains. -/
def State.trainIn (s : State) (i : Nat) (locked : BitVec 16) (b : BlockBits) : State :=
  let d := s.spd i
  if !d.blockOk true b || bkType b ≠ 1 || trMagic b ≠ 0x5450 then s.setSpd i { d with train := { d.train with lock := locked } }
  else if trWafer b = s.me then s.spanRefuse i 3
  else if trFlock b ≠ s.place.flockId.toNat then s.spanRefuse i 1
  else if trWafer b ≠ (spdPeer s.me i).1 then s.spanRefuse i 2
  else if trState b = 5 then s.spanRefuse i (trCause b)
  else s.trainWith i locked b

theorem execTrainBlockReceived_next (i : SpdIx) (locked : BitVec 16) (b : BitVec 2570) (t : Time) (s : State) :
    exec (.trainBlockReceived i locked b t) s
      = .next (s.event t (fun s => (s.spd i.val).state = .training && !(s.spd i.val).doubt) fun s => s.trainIn i locked b) := rfl

section
variable {s : State} {i : Nat} (in_ : i < s.spds.length) (locked : BitVec 16) (b : BlockBits)
include in_

theorem State.trainWith_slow {locked : BitVec 16} {b : BlockBits} (slow : ((s.spd i).train.take locked b (s.now / 10)).tstate = 3) :
    ((s.trainWith i locked b).spd i).state = .refused ∧ ((s.trainWith i locked b).spd i).cause = 4 := by
  unfold State.trainWith
  dsimp only
  rw [if_pos slow, State.spanRefuse_own (by simpa using in_)]
  exact ⟨rfl, rfl⟩

theorem State.trainWith_ready {locked : BitVec 16} {b : BlockBits} {tr : Training} (eq : tr = (s.spd i).train.take locked b (s.now / 10))
    (ready : tr.tstate = 4) (sent : 3 ≤ tr.sentReady) (got : 3 ≤ tr.gotReady) :
    ((s.trainWith i locked b).spd i).state = .up ∧ ((s.trainWith i locked b).spd i).peerWafer = trWafer b
      ∧ ((s.trainWith i locked b).spd i).credits = spanBuf := by
  unfold State.trainWith
  dsimp only
  rw [← eq, if_neg (by rw [ready]; decide), if_pos (by simp [ready, sent, got]), State.ring_spd, State.modSpd_spd,
    if_pos ⟨rfl, by simpa using in_⟩, State.setSpd_spd, if_pos ⟨rfl, in_⟩]
  exact ⟨rfl, rfl, rfl⟩

theorem State.trainWith_trains (training : (s.spd i).state = .training) {locked : BitVec 16} {b : BlockBits} {tr : Training}
    (eq : tr = (s.spd i).train.take locked b (s.now / 10)) (fast : tr.tstate ≠ 3)
    (waits : tr.tstate ≠ 4 ∨ tr.sentReady < 3 ∨ tr.gotReady < 3) :
    ((s.trainWith i locked b).spd i).state = .training ∧ ((s.trainWith i locked b).spd i).train = tr := by
  have short : ¬((decide (3 ≤ tr.sentReady) && decide (3 ≤ tr.gotReady) && decide (tr.tstate = 4)) = true) := by
    simp only [Bool.and_eq_true, decide_eq_true_eq]
    omega
  unfold State.trainWith
  dsimp only
  rw [← eq, if_neg fast, if_neg short, State.setSpd_spd, if_pos ⟨rfl, in_⟩]
  exact ⟨training, rfl⟩

/-- A TRAIN block that is none keeps the link training with the lanes it reports. -/
theorem State.trainIn_bad {locked : BitVec 16} {b : BlockBits}
    (bad : ¬((s.spd i).blockOk true b = true ∧ bkType b = 1 ∧ trMagic b = 0x5450)) :
    (s.trainIn i locked b).spd i = { s.spd i with train := { (s.spd i).train with lock := locked } } := by
  have out : (!(s.spd i).blockOk true b || decide (bkType b ≠ 1) || decide (trMagic b ≠ 0x5450)) = true := by
    cases ok : (s.spd i).blockOk true b
    · simp
    · by_cases type : bkType b = 1
      · have : trMagic b ≠ 0x5450 := fun magic => bad ⟨ok, type, magic⟩
        simp [this]
      · simp [type]
  unfold State.trainIn
  dsimp only
  rw [if_pos out, State.setSpd_spd, if_pos ⟨rfl, in_⟩]
end

theorem State.trainIn_good {s : State} {i : Nat} {locked : BitVec 16} {b : BlockBits}
    (good : (s.spd i).blockOk true b = true ∧ bkType b = 1 ∧ trMagic b = 0x5450) :
    s.trainIn i locked b =
      if trWafer b = s.me then s.spanRefuse i 3
      else if trFlock b ≠ s.place.flockId.toNat then s.spanRefuse i 1
      else if trWafer b ≠ (spdPeer s.me i).1 then s.spanRefuse i 2
      else if trState b = 5 then s.spanRefuse i (trCause b)
      else s.trainWith i locked b := by
  obtain ⟨ok, type, magic⟩ := good
  unfold State.trainIn
  dsimp only
  rw [if_neg (by simp [ok, type, magic])]

/-! The flock. -/

theorem State.excludeMember_flock (s : State) (w : Nat) : (s.excludeMember w).flockUp = s.flockUp
      ∧ (s.excludeMember w).flockMembers = s.flockMembers.filter (fun v => decide (v ≠ w))
      ∧ (s.excludeMember w).excludedW = (s.excludedW.filter fun v => decide (v ≠ w)) ++ [w] := by
  have herd : (s.excludeMember w).herd
      = ⟨s.flockUp, s.flockMembers.filter (fun v => decide (v ≠ w)), (s.excludedW.filter fun v => decide (v ≠ w)) ++ [w]⟩ := by
    unfold State.excludeMember
    dsimp only
    rw [State.report_herd, foldl_herd _ fun a f => State.revokeSpan_herd a f false, State.settle_herd, State.ring_herd, State.modSpd_herd]
    rfl
  exact ⟨congrArg Herd.flockUp herd, congrArg Herd.flockMembers herd, congrArg Herd.excludedW herd⟩

theorem State.newLeader_herd (s : State) (old : Nat) : (s.newLeader old).herd = s.herd := by
  unfold State.newLeader
  dsimp only
  split
  · rfl
  · split
    · exact State.settle_herd _ _ _
    · rw [foldl_herd _ fun a f => (State.releaseStep_herd _ _).trans (State.settle_herd _ _ _), State.settle_herd]

theorem State.revokeSpan_waits (s : State) (fold : Nat) (reconf : Bool) : (s.revokeSpan fold reconf).waits = s.waits := by
  unfold State.revokeSpan
  refine foldl_eq State.waits _ _ fun b i _ => ?_
  dsimp only
  split
  · rfl
  · split <;> simp [State.noteStray, State.modFold]

/-- No command waits for a member that has left. -/
theorem State.excludeMember_waits (s : State) (w : Nat) : ∀ x ∈ (s.excludeMember w).waits, x.why ≠ .member w := by
  unfold State.excludeMember
  extract_lets folds i s1 s2 s3
  have eq : ((folds.foldl (fun s f => s.revokeSpan f false) s3).report .member folds (spdDest i)).waits = s3.waits := by
    simp only [State.report_fields]
    exact foldl_eq State.waits _ _ fun b f _ => State.revokeSpan_waits b f false
  intro x mem
  rw [eq, State.settle_waits] at mem
  simpa using (List.mem_filter.mp mem).2

/-- What the flock's formation does. -/
def State.formFlock (s : State) (members : List MemberInfo) : State :=
  let ms := s.ownInfo :: members.filter fun m => m.flock = s.place.flockId && m.wafer.val ≠ s.me && s.inMask m.wafer.val
  let kept := keepMembers ms
  let s1 := { s with flockUp := true, flockMembers := kept.map fun m => m.wafer.val, flockInfo := kept, excludedW := [] }
  let s2 := ((List.range 16).filter fun w => s.inMask w && w ≠ s.me && !s1.flockMembers.contains w).foldl (fun s w => s.excludeMember w) s1
  if s.flockUp then s2.newLeader s.leader else s2

theorem execFlockFormation_next (members : List MemberInfo) (t : Time) (s : State) :
    exec (.flockFormation members t) s
      = .next (s.event t (fun s => s.active.isSome && !((List.range 16).any fun i => (s.spd i).state = .training))
        fun s => s.formFlock members) := rfl

/-- Excluding wafers that are no members leaves the flock as it is, and every one of them is excluded. -/
theorem foldl_excludeMember (l : List Nat) (s : State) (none_ : ∀ w ∈ l, w ∉ s.flockMembers) :
    (l.foldl (fun s w => s.excludeMember w) s).flockUp = s.flockUp
      ∧ (l.foldl (fun s w => s.excludeMember w) s).flockMembers = s.flockMembers
      ∧ ∀ w ∈ l, w ∈ (l.foldl (fun s w => s.excludeMember w) s).excludedW := by
  have inv := foldl_inv_mem (I := fun b : State => b.flockUp = s.flockUp ∧ b.flockMembers = s.flockMembers)
    (f := fun s w => s.excludeMember w) l s ⟨rfl, rfl⟩ fun b w mem kept => by
      obtain ⟨up, members, -⟩ := State.excludeMember_flock b w
      refine ⟨up.trans kept.1, members.trans ?_⟩
      rw [kept.2]
      exact List.filter_eq_self.mpr fun v mem_v => decide_eq_true fun e => none_ w mem (e ▸ mem_v)
  refine ⟨inv.1, inv.2, fun w mem => ?_⟩
  refine foldl_established (P := fun b : State => w ∈ b.excludedW) l s mem (fun b => ?_) fun b v kept => ?_
  · simp [(State.excludeMember_flock b w).2.2]
  · rw [(State.excludeMember_flock b v).2.2]
    by_cases e : w = v
    · simp [e]
    · simp [e, kept]

theorem State.formFlock_effect {s : State} {members kept : List MemberInfo}
    (eq : kept = keepMembers (s.ownInfo :: members.filter fun m => m.flock = s.place.flockId && m.wafer.val ≠ s.me && s.inMask m.wafer.val)) :
    (s.formFlock members).flockUp = true ∧ (s.formFlock members).flockMembers = kept.map (fun m => m.wafer.val)
      ∧ ∀ w < 16, s.inMask w = true → w ≠ s.me → (∀ m ∈ kept, m.wafer.val ≠ w) → w ∈ (s.formFlock members).excludedW := by
  unfold State.formFlock
  extract_lets ms kept' s1 s2
  have same : kept' = kept := eq.symm
  have herd : (if s.flockUp = true then s2.newLeader s.leader else s2).herd = s2.herd := by
    split
    · exact State.newLeader_herd _ _
    · rfl
  obtain ⟨up, found, out⟩ := foldl_excludeMember
    ((List.range 16).filter fun w => s.inMask w && decide (w ≠ s.me) && !s1.flockMembers.contains w) s1 fun w mem => by
      simpa using ((Bool.and_eq_true_iff.mp (List.mem_filter.mp mem).2).2 :)
  refine ⟨(congrArg Herd.flockUp herd).trans up, (congrArg Herd.flockMembers herd).trans (found.trans (by rw [← same])), ?_⟩
  intro w low named other gone
  rw [show (if s.flockUp = true then s2.newLeader s.leader else s2).excludedW = s2.excludedW from congrArg Herd.excludedW herd]
  refine out w (List.mem_filter.mpr ⟨List.mem_range.mpr low, ?_⟩)
  have absent : s1.flockMembers.contains w = false := by
    rw [List.contains_eq_mem, decide_eq_false_iff_not]
    intro mem
    obtain ⟨m, mem_m, e⟩ := List.mem_map.mp mem
    exact gone m (same ▸ mem_m) e
  simp only [named, absent, ne_eq, other, not_false_eq_true, decide_true, Bool.and_self, Bool.not_false]

/-! An SPD in doubt. -/

theorem State.spdEnterDoubt_effect {s : State} {i : Nat} (in_ : i < s.spds.length) (sound : (s.spd i).doubt = false) (cause : Nat) :
    (s.spdEnterDoubt i cause).faultN = true ∧ (s.spdEnterDoubt i cause).spd i = { s.spd i with
      doubt := true, doubtCause := cause, replay := [], cursor := none, sendQ := [], partials := [] } := by
  unfold State.spdEnterDoubt
  rw [if_neg (by rw [sound]; decide)]
  extract_lets folds s1 s2
  constructor
  · have held : ((s2.report .spd folds (spdDest i)).dieBell "spd" i cause).faultN = true := by
      simp [State.dieBell]
    exact (foldl_eq State.faultN _ _ fun b f _ => by
      split
      · rfl
      · simp).trans held
  · have same : (((s2.report .spd folds (spdDest i)).dieBell "spd" i cause).reinject).spans = s1.spans := by
      have refused : s2.spans = s1.spans :=
        foldl_eq State.spans _ _ fun t k _ => foldl_eq State.spans _ _ fun t r _ => by simp
      simp [refused]
    rw [spd_of_spans same]
    exact (State.modSpd_spd s i i _).trans (if_pos ⟨rfl, in_⟩)

/-- Settles O39, by what a TRAIN block does to a link that trains, the fold over the wafers that the flock excludes, and an SPD's doubt. -/
theorem spansTrainAndFlocksForm : Obligations.SpansTrainAndFlocksForm := by
  unfold Obligations.SpansTrainAndFlocksForm
  refine ⟨fun j locked b d good tr t s size running eq training sound eq_tr eq_good => ?_, fun j t s size running training => ?_,
    fun j t s size running refused => ?_, fun members kept t s running awake still eq => ?_, fun w t s running member other => ?_,
    fun j cause t s size running sound => ?_⟩
  · subst eq eq_good
    have in_ : j.val < (s.tick t).spds.length := spd_in size j
    rw [execTrainBlockReceived_next]
    refine event_next running (by simpa using ⟨training, sound⟩) ⟨fun bad => State.trainIn_bad in_ bad, fun good self => ?_,
      fun good self flock => ?_, fun good self flock wired => ?_, fun good self flock wired => ?_⟩
    · rw [State.trainIn_good (s := s.tick t) good, if_pos (show trWafer b = (s.tick t).me from self), State.spanRefuse_own in_]
      exact ⟨rfl, rfl⟩
    · rw [State.trainIn_good (s := s.tick t) good, if_neg (show ¬trWafer b = (s.tick t).me from self),
        if_pos (show trFlock b ≠ (s.tick t).place.flockId.toNat from flock), State.spanRefuse_own in_]
      exact ⟨rfl, rfl⟩
    · rw [State.trainIn_good (s := s.tick t) good, if_neg (show ¬trWafer b = (s.tick t).me from self),
        if_neg (show ¬trFlock b ≠ (s.tick t).place.flockId.toNat from not_not_intro flock),
        if_pos (show trWafer b ≠ (spdPeer (s.tick t).me j).1 from wired), State.spanRefuse_own in_]
      exact ⟨rfl, rfl⟩
    · rw [State.trainIn_good (s := s.tick t) good, if_neg (show ¬trWafer b = (s.tick t).me from self),
        if_neg (show ¬trFlock b ≠ (s.tick t).place.flockId.toNat from not_not_intro flock),
        if_neg (show ¬trWafer b ≠ (spdPeer (s.tick t).me j).1 from not_not_intro wired)]
      refine ⟨fun refuses => ?_, fun stays slow => ?_, fun stays ready sent got => ?_, fun stays fast waits => ?_⟩
      · rw [if_pos refuses, State.spanRefuse_own in_]
        exact ⟨rfl, rfl⟩
      · rw [if_neg stays]
        exact State.trainWith_slow in_ (eq_tr ▸ slow)
      · rw [if_neg stays]
        exact State.trainWith_ready in_ eq_tr ready sent got
      · rw [if_neg stays]
        exact State.trainWith_trains in_ training eq_tr fast waits
  · refine event_next running (by simpa using training) ?_
    rw [State.spanRefuse_own (spd_in (s := s.tick t) size j)]
    exact ⟨rfl, rfl, rfl⟩
  · refine event_next running (by simpa using refused) ?_
    exact (State.modSpd_spd _ _ _ _).trans (if_pos ⟨rfl, spd_in size j⟩)
  · rw [execFlockFormation_next]
    refine event_next running ?_ (State.formFlock_effect (s := s.tick t) eq)
    simpa using ⟨awake, still⟩
  · refine event_next running (by simpa using ⟨member, other⟩) ?_
    obtain ⟨-, members, out⟩ := State.excludeMember_flock (s.tick t) w
    exact ⟨members, by simp [out], State.excludeMember_waits _ _⟩
  · refine event_next running (by simpa using sound) ?_
    exact State.spdEnterDoubt_effect (s := s.tick t) (spd_in size j) sound cause

end Sys2Proof.Machine

/-! What leaves the receivers' place in the sequence alone, as in Laws/. -/
namespace Sys2Proof.Machine

open Sys2Proof

@[simp] theorem LinkEnd.takeDown_acc (l : LinkEnd) (a : BitVec 5) : (l.takeDown a).acc = l.acc := rfl

@[simp] theorem LinkEnd.setBuf_acc (l : LinkEnd) (vc : Bool) (b : List Queued) : (l.setBuf vc b).acc = l.acc := by
  unfold LinkEnd.setBuf
  split <;> rfl

@[simp] theorem LinkEnd.freed_acc (l : LinkEnd) (vc : Bool) : (l.freed vc).acc = l.acc := by
  unfold LinkEnd.freed
  split <;> rfl

@[simp] theorem LinkEnd.popBuf_acc (l : LinkEnd) (vc : Bool) : (l.popBuf vc).acc = l.acc := by
  simp [LinkEnd.popBuf]

/-- The LSEQ that each end of a lane accepted last (R152). -/
structure Accs where
  acc : Nat → Nat → BitVec 5

/-- The LSEQ that an end of a lane accepted last. -/
def accAt (links : List (Nat × LinkEnd)) (x lane : Nat) : BitVec 5 := (assoc LinkEnd.initial links (linkKey x lane)).acc

def State.accs (s : State) : Accs :=
  ⟨accAt s.links⟩

theorem accs_mk (now) (freeCtr) (resetN) (pwrFail) (pwrFailAt) (frozen) (faultN) (alertN) (alertCause) (ready)
    (readyAt) (vstby) (fuses) (flash) (writing) (place) (net) (boot) (sel) (quiet) (active) (shcA) (shcB) (mirrorSeq)
    (mirrorProbe) (scratch) (sess) (con0) (con1) (waits) (garp) (stages) (nextStage) (retained) (fwUpdate) (bellSeq)
    (bells) (ledgerSeq) (ledgerHeld) (ledgerStopped) (ptpPort) (ptpHeard) (tallies) (busA) (busB) (shared) (telem)
    (unreach) (refAbsent) (refSince) (meshLocked) (inlet) (outlet) (loopSince) (wave) (lastWave) (map) (mapSeq) (pads)
    (fields) (links) (lane0) (neds) (meds) (spds) (nedTemp) (spdTemp) (medTemp) (flockUp) (flockMembers) (flockInfo)
    (excludedW) (folds) (scrubs) (paused) (secondAt) (incCtr) (channels) (sessions) (reports) (notices) (wsel) (wstat)
    (shadow) (taps) (wire) (pending) : (State.mk now freeCtr resetN pwrFail pwrFailAt frozen faultN alertN alertCause
    ready readyAt vstby fuses flash writing place net boot sel quiet active shcA shcB mirrorSeq mirrorProbe scratch
    sess con0 con1 waits garp stages nextStage retained fwUpdate bellSeq bells ledgerSeq ledgerHeld ledgerStopped
    ptpPort ptpHeard tallies busA busB shared telem unreach refAbsent refSince meshLocked inlet outlet loopSince wave
    lastWave map mapSeq pads fields links lane0 neds meds spds nedTemp spdTemp medTemp flockUp flockMembers flockInfo
    excludedW folds scrubs paused secondAt incCtr channels sessions reports notices wsel wstat shadow taps wire
    pending).accs =
    ⟨accAt links⟩ := rfl

theorem accs_eqs : (∀ s : State, accAt s.links = s.accs.acc) := by
  intros
  rfl

@[simp] theorem ite_accs (c : Prop) [Decidable c] (a b : State) : (if c then a else b).accs = if c then a.accs else b.accs := by
  split <;> rfl

@[simp] theorem foldl_accs {α : Type} (f : State → α → State) (h : ∀ s a, (f s a).accs = s.accs) (l : List α) (s : State) :
    (l.foldl f s).accs = s.accs := by
  induction l generalizing s with
  | nil => rfl
  | cons x xs ih => simp [ih, h]

theorem ite_eq_accs {c : Prop} [Decidable c] {a b : State} {r : Accs} (ha : a.accs = r) (hb : b.accs = r) :
    (if c then a else b).accs = r := by
  split <;> assumption

theorem wire_accs (a : State) (w : List Wire) : ({ a with wire := w } : State).accs = a.accs := rfl

theorem meds_accs (a : State) (l : List Med) (h : l.length = a.meds.length) : ({ a with meds := l } : State).accs = a.accs := rfl

theorem heard_accs (a : State) (o : Option Time) : ({ a with ptpHeard := o } : State).accs = a.accs := rfl

theorem fw_accs (a : State) (w : FwUpdate) : ({ a with fwUpdate := w } : State).accs = a.accs := rfl

@[simp] theorem State.setPad_accs (s : State) (n : Nat) (p : Paddock) : (State.setPad s n p).accs = s.accs := by
  unfold State.setPad; simp only [State.accs, Accs.mk.injEq] <;> simp [↓accs_mk, accs_eqs]

@[simp] theorem State.modPad_accs (s : State) (n : Nat) (f : Paddock → Paddock) : (State.modPad s n f).accs = s.accs := by
  simp [State.modPad]

@[simp] theorem State.setField_accs (s : State) (f : Nat) (x : Field) : (State.setField s f x).accs = s.accs := by
  unfold State.setField; simp only [State.accs, Accs.mk.injEq] <;> simp [↓accs_mk, accs_eqs]

@[simp] theorem State.modField_accs (s : State) (f : Nat) (g : Field → Field) : (State.modField s f g).accs = s.accs := by
  simp [State.modField]

@[simp] theorem State.setNed_accs (s : State) (k : Nat) (x : Ned) : (State.setNed s k x).accs = s.accs := by
  unfold State.setNed; simp only [State.accs, Accs.mk.injEq] <;> simp [↓accs_mk, accs_eqs]

@[simp] theorem State.modNed_accs (s : State) (k : Nat) (f : Ned → Ned) : (State.modNed s k f).accs = s.accs := by
  simp [State.modNed]

@[simp] theorem State.setMed_accs (s : State) (k : Nat) (x : Med) : (State.setMed s k x).accs = s.accs := by
  unfold State.setMed; simp only [State.accs, Accs.mk.injEq] <;> simp [↓accs_mk, accs_eqs]

@[simp] theorem State.modMed_accs (s : State) (k : Nat) (f : Med → Med) : (State.modMed s k f).accs = s.accs := by
  simp [State.modMed]

@[simp] theorem State.setSpd_accs (s : State) (k : Nat) (x : Spd) : (State.setSpd s k x).accs = s.accs := by
  unfold State.setSpd; simp only [State.accs, Accs.mk.injEq] <;> simp [↓accs_mk, accs_eqs]

@[simp] theorem State.modSpd_accs (s : State) (k : Nat) (f : Spd → Spd) : (State.modSpd s k f).accs = s.accs := by
  simp [State.modSpd]

@[simp] theorem State.setShc_accs (s : State) (i : Nat) (x : Shc) : (State.setShc s i x).accs = s.accs := by
  unfold State.setShc; simp only [State.accs, Accs.mk.injEq] <;> simp [↓accs_mk, accs_eqs]

@[simp] theorem State.modShc_accs (s : State) (i : Nat) (f : Shc → Shc) : (State.modShc s i f).accs = s.accs := by
  simp [State.modShc]

@[simp] theorem State.setLink_accs (s : State) (x lane : Nat) (l : LinkEnd) (h : l.acc = (s.link x lane).acc) :
    (s.setLink x lane l).accs = s.accs := by
  have same (y m : Nat) : ((s.setLink x lane l).link y m).acc = (s.link y m).acc := by
    rw [State.setLink_link]
    split
    · rename_i e
      rw [h]
      exact congrArg (fun k => (assoc LinkEnd.initial s.links k).acc) e.symm
    · rfl
  exact congrArg Accs.mk (funext fun y => funext fun m => same y m)

@[simp] theorem State.modLink_accs (s : State) (x lane : Nat) (f : LinkEnd → LinkEnd) (h : ∀ l, (f l).acc = l.acc) :
    (s.modLink x lane f).accs = s.accs :=
  s.setLink_accs x lane _ (h _)

@[simp] theorem State.setEntry_accs (s : State) (n : Nat) (e : MapEntry) : (State.setEntry s n e).accs = s.accs := by
  unfold State.setEntry; simp only [State.accs, Accs.mk.injEq] <;> simp [↓accs_mk, accs_eqs]

@[simp] theorem State.modFold_accs (s : State) (id : Nat) (g : Fold → Fold) : (State.modFold s id g).accs = s.accs := by
  unfold State.modFold; simp only [State.accs, Accs.mk.injEq] <;> simp [↓accs_mk, accs_eqs]

@[simp] theorem State.setSession_accs (s : State) (num : Nat) (x : Session) : (State.setSession s num x).accs = s.accs := by
  unfold State.setSession; simp only [State.accs, Accs.mk.injEq] <;> simp [↓accs_mk, accs_eqs]

@[simp] theorem State.addTally_accs (s : State) (scope : TScope) (id idx n : Nat) : (State.addTally s scope id idx n).accs = s.accs := by
  unfold State.addTally; simp only [State.accs, Accs.mk.injEq] <;> simp [↓accs_mk, accs_eqs]

@[simp] theorem State.count_accs (s : State) (scope : TScope) (id idx : Nat) : (State.count s scope id idx).accs = s.accs := by
  simp [State.count]

@[simp] theorem State.noteStray_accs (s : State) (fold : Nat) : (State.noteStray s fold).accs = s.accs := by
  simp [State.noteStray]

@[simp] theorem State.countChan_accs (s : State) (ned bind handle idx n : Nat) : (State.countChan s ned bind handle idx n).accs = s.accs := by
  simp [State.countChan]

@[simp] theorem State.ring_accs (s : State) (obj : String) (fault : Bool) (kv : KVs) : (s.ring obj fault kv).accs = s.accs := by
  unfold State.ring
  split
  · rfl
  · exact (State.addTally_accs _ _ _ _ _).trans rfl

@[simp] theorem State.alert_accs (s : State) (row : Nat) : (State.alert s row).accs = s.accs := by
  unfold State.alert; simp only [State.accs, Accs.mk.injEq] <;> simp [↓accs_mk, accs_eqs]

@[simp] theorem State.report_accs (s : State) (tr : Trigger) (folds : List Nat) (place : Nat) : (State.report s tr folds place).accs = s.accs := by
  unfold State.report; simp only [State.accs, Accs.mk.injEq] <;> simp [↓accs_mk, accs_eqs]

@[simp] theorem State.syncCredits_accs (s : State) (x lane : Nat) : (State.syncCredits s x lane).accs = s.accs := by
  unfold State.syncCredits
  (repeat' split) <;> simp

@[simp] theorem State.syncBorders_accs (s : State) (n : Nat) : (State.syncBorders s n).accs = s.accs := by
  unfold State.syncBorders
  dsimp only
  (repeat' split) <;> first | rfl | (simp (disch := (intros; (repeat' split) <;> simp)); done) | (simp only [State.accs, Accs.mk.injEq] <;> simp (disch := (intros; (repeat' split) <;> simp)) [↓accs_mk, accs_eqs])

@[simp] theorem State.reroute_accs (s : State) (x lane : Nat) : (State.reroute s x lane).accs = s.accs := by
  unfold State.reroute
  dsimp only
  (repeat' split) <;> first | rfl | (simp (disch := (intros; (repeat' split) <;> simp)); done) | (simp only [State.accs, Accs.mk.injEq] <;> simp (disch := (intros; (repeat' split) <;> simp)) [↓accs_mk, accs_eqs])

@[simp] theorem State.downSide_accs (s : State) (x lane : Nat) (acc : BitVec 5) : (State.downSide s x lane acc).accs = s.accs := by
  simp [State.downSide]

@[simp] theorem State.sendSys_accs (s : State) (u : Nat) (f : Flit) : (State.sendSys s u f).accs = s.accs := by
  simp [State.sendSys]

@[simp] theorem State.reportFrom_accs (s : State) (u : Nat) (tr : Trigger) (folds : List Nat) (place : Nat) : (State.reportFrom s u tr folds place).accs = s.accs := by
  simp [State.reportFrom]

@[simp] theorem State.pickDetours_accs (s : State) (was : List (Nat × Nat × List Nat)) : (State.pickDetours s was).accs = s.accs := by
  unfold State.pickDetours
  dsimp only
  (repeat' split) <;> first | rfl | (simp (disch := (intros; (repeat' split) <;> simp)); done) | (simp only [State.accs, Accs.mk.injEq] <;> simp (disch := (intros; (repeat' split) <;> simp)) [↓accs_mk, accs_eqs])

@[simp] theorem State.laneDown_accs (s : State) (x lane cause : Nat) : (State.laneDown s x lane cause).accs = s.accs := by
  unfold State.laneDown
  (repeat' split) <;> first | (simp; done) | (simp only [State.accs, Accs.mk.injEq] <;> simp [↓accs_mk, accs_eqs])

@[simp] theorem State.sessMod_accs (s : State) (r : Req) (f : Session → Session) : (State.sessMod s r f).accs = s.accs := by
  unfold State.sessMod
  (repeat' split) <;> simp

@[simp] theorem State.countReq_accs (s : State) (k : Nat) (r : Req) (idx n : Nat) : (State.countReq s k r idx n).accs = s.accs := by
  simp [State.countReq]

@[simp] theorem State.countReply_accs (s : State) (k : Nat) (r : Req) (back : Bool) : (State.countReply s k r back).accs = s.accs := by
  unfold State.countReply
  (repeat' split) <;> simp

@[simp] theorem State.endReq_accs (s : State) (k : Nat) (r : Req) : (State.endReq s k r).accs = s.accs := by
  simp [State.endReq]

@[simp] theorem State.closeTag_accs (s : State) (k : Nat) (r : Req) (stray : Bool) : (State.closeTag s k r stray).accs = s.accs := by
  simp [State.closeTag]

@[simp] theorem State.releaseFcs_accs (s : State) (k : Nat) (r : Req) : (State.releaseFcs s k r).accs = s.accs := by
  unfold State.releaseFcs; simp only [State.accs, Accs.mk.injEq] <;> simp [↓accs_mk, accs_eqs]

@[simp] theorem State.startReply_accs (s : State) (k : Nat) (r : Req) (rep : Reply) (at_ : Time) : (State.startReply s k r rep at_).accs = s.accs := by
  unfold State.startReply; simp only [State.accs, Accs.mk.injEq] <;> simp [↓accs_mk, accs_eqs]

@[simp] theorem State.compose_accs (s : State) (k : Nat) (r : Req) (rep : Reply) : (State.compose s k r rep).accs = s.accs := by
  unfold State.compose
  dsimp only
  (repeat' split) <;> simp

@[simp] theorem State.stomp_accs (s : State) (k : Nat) (r : Req) (whole : Bool) : (State.stomp s k r whole).accs = s.accs := by
  unfold State.stomp; simp only [State.accs, Accs.mk.injEq] <;> simp [↓accs_mk, accs_eqs]

@[simp] theorem State.unsend_accs (s : State) (k : Nat) (r : Req) : (State.unsend s k r).accs = s.accs := by
  unfold State.unsend; simp only [State.accs, Accs.mk.injEq] <;> simp [↓accs_mk, accs_eqs]

@[simp] theorem State.stompSent_accs (s : State) (k : Nat) (r : Req) : (State.stompSent s k r).accs = s.accs := by
  simp [State.stompSent]

@[simp] theorem State.refuseReq_accs (s : State) (k : Nat) (r : Req) (reason : Nat) : (State.refuseReq s k r reason).accs = s.accs := by
  simp [State.refuseReq]

@[simp] theorem State.dropReq_accs (s : State) (k : Nat) (r : Req) : (State.dropReq s k r).accs = s.accs := by
  simp [State.dropReq]

@[simp] theorem State.raiseQ_accs (s : State) (fold key : Nat) (ds : List (Nat × Nat)) : (State.raiseQ s fold key ds).accs = s.accs := by
  simp [State.raiseQ]

@[simp] theorem State.judgeRaised_accs (s : State) (fold : Nat) (ds : List (Nat × Nat)) : (State.judgeRaised s fold ds).accs = s.accs := by
  simp [State.judgeRaised]

@[simp] theorem State.deltaQ_accs (s : State) (x lane : Nat) : (State.deltaQ s x lane).accs = s.accs := by
  unfold State.deltaQ
  dsimp only
  (repeat' split) <;> first | rfl | (simp (disch := (intros; (repeat' split) <;> simp)); done) | (simp only [State.accs, Accs.mk.injEq] <;> simp (disch := (intros; (repeat' split) <;> simp)) [↓accs_mk, accs_eqs])

@[simp] theorem State.endRaise_accs (s : State) (key : Nat) : (State.endRaise s key).accs = s.accs := by
  unfold State.endRaise; simp only [State.accs, Accs.mk.injEq] <;> simp [↓accs_mk, accs_eqs]

@[simp] theorem State.downLane_accs (s : State) (x lane cause : Nat) : (State.downLane s x lane cause).accs = s.accs := by
  unfold State.downLane
  (repeat' split) <;> simp

@[simp] theorem State.advertise_accs (s : State) (n fold : Nat) : (State.advertise s n fold).accs = s.accs := by
  unfold State.advertise
  (repeat' split) <;> first | rfl | (simp; done) | (simp only [State.accs, Accs.mk.injEq] <;> simp [↓accs_mk, accs_eqs]; done) | (rw [foldl_accs] <;> (intros; (repeat' split) <;> simp))

@[simp] theorem State.installLinks_accs (s : State) (im : Image) (n m fold : Nat) : (State.installLinks s im n m fold).accs = s.accs := by
  unfold State.installLinks
  (repeat' split) <;> simp

@[simp] theorem State.installPad_accs (s : State) (im : Image) (n m fold : Nat) (st : CtxState) (epoch : Nat) : (State.installPad s im n m fold st epoch).accs = s.accs := by
  simp [State.installPad]

@[simp] theorem State.liftPad_accs (s : State) (n fold : Nat) : (State.liftPad s n fold).accs = s.accs := by
  simp [State.liftPad]

@[simp] theorem State.setYokes_accs (s : State) (f : Fold) (im : Image) : (State.setYokes s f im).accs = s.accs := by
  simp [State.setYokes]

@[simp] theorem State.bringIn_accs (s : State) (im : Image) (n fold epoch : Nat) : (State.bringIn s im n fold epoch).accs = s.accs := by
  simp [State.bringIn]

@[simp] theorem State.commitLoad_accs (s : State) (id : Nat) : (State.commitLoad s id).accs = s.accs := by
  unfold State.commitLoad
  (repeat' split) <;> simp

@[simp] theorem State.toStandby_accs (s : State) (id : Nat) : (State.toStandby s id).accs = s.accs := by
  unfold State.toStandby
  (repeat' split) <;> simp

@[simp] theorem State.transit_accs (s : State) (id : Nat) : (State.transit s id).accs = s.accs := by
  unfold State.transit
  (repeat' split) <;> simp

end Sys2Proof.Machine

/-! What leaves those tallies alone, as in Laws/. -/
namespace Sys2Proof.Machine

open Sys2Proof

/-- The tallies of folds, ports and links that count what this part counts itself. -/
structure Marks where
  tally : TKey → DWord

/-- The tallies of folds and ports but those of waits for a transition, of replies, of stomps and of overruns, and the flits of a lane. -/
def marked : TKey → Bool
  | ⟨.fold, _, i⟩ => decide (i ≠ tfTransWait)
  | ⟨.port, _, i⟩ => decide (i ≠ tpReplies ∧ i ≠ tpOverrun ∧ i ≠ tpStomped)
  | ⟨.link, _, i⟩ => decide (i = tlFlits)
  | _ => false

/-- What those tallies read. -/
def marksOf (tallies : List (TKey × DWord)) (k : TKey) : DWord :=
  if marked k then ((tallies.find? fun p => p.1 = k).map (·.2)).getD 0 else 0

def State.marks (s : State) : Marks :=
  ⟨marksOf s.tallies⟩

theorem marks_mk (now) (freeCtr) (resetN) (pwrFail) (pwrFailAt) (frozen) (faultN) (alertN) (alertCause) (ready)
    (readyAt) (vstby) (fuses) (flash) (writing) (place) (net) (boot) (sel) (quiet) (active) (shcA) (shcB) (mirrorSeq)
    (mirrorProbe) (scratch) (sess) (con0) (con1) (waits) (garp) (stages) (nextStage) (retained) (fwUpdate) (bellSeq)
    (bells) (ledgerSeq) (ledgerHeld) (ledgerStopped) (ptpPort) (ptpHeard) (tallies) (busA) (busB) (shared) (telem)
    (unreach) (refAbsent) (refSince) (meshLocked) (inlet) (outlet) (loopSince) (wave) (lastWave) (map) (mapSeq) (pads)
    (fields) (links) (lane0) (neds) (meds) (spds) (nedTemp) (spdTemp) (medTemp) (flockUp) (flockMembers) (flockInfo)
    (excludedW) (folds) (scrubs) (paused) (secondAt) (incCtr) (channels) (sessions) (reports) (notices) (wsel) (wstat)
    (shadow) (taps) (wire) (pending) : (State.mk now freeCtr resetN pwrFail pwrFailAt frozen faultN alertN alertCause
    ready readyAt vstby fuses flash writing place net boot sel quiet active shcA shcB mirrorSeq mirrorProbe scratch
    sess con0 con1 waits garp stages nextStage retained fwUpdate bellSeq bells ledgerSeq ledgerHeld ledgerStopped
    ptpPort ptpHeard tallies busA busB shared telem unreach refAbsent refSince meshLocked inlet outlet loopSince wave
    lastWave map mapSeq pads fields links lane0 neds meds spds nedTemp spdTemp medTemp flockUp flockMembers flockInfo
    excludedW folds scrubs paused secondAt incCtr channels sessions reports notices wsel wstat shadow taps wire
    pending).marks =
    ⟨marksOf tallies⟩ := rfl

theorem marks_eqs : (∀ s : State, marksOf s.tallies = s.marks.tally) := by
  intros
  rfl

@[simp] theorem marked_replies (id : Nat) : marked ⟨.port, id, tpReplies⟩ = false := by simp [marked]
@[simp] theorem marked_overrun (id : Nat) : marked ⟨.port, id, tpOverrun⟩ = false := by simp [marked]
@[simp] theorem marked_stomped (id : Nat) : marked ⟨.port, id, tpStomped⟩ = false := by simp [marked]
@[simp] theorem marked_transWait (id : Nat) : marked ⟨.fold, id, tfTransWait⟩ = false := by simp [marked]
@[simp] theorem marked_lasting (id : Nat) : marked ⟨.link, id, tlLasting⟩ = false := by simp [marked]
@[simp] theorem marked_laneStray (id : Nat) : marked ⟨.link, id, tlStray⟩ = false := by simp [marked]
@[simp] theorem marked_channel (id i : Nat) : marked ⟨.channel, id, i⟩ = false := by simp [marked]
@[simp] theorem marked_binding (id i : Nat) : marked ⟨.binding, id, i⟩ = false := by simp [marked]
@[simp] theorem marked_ned (id i : Nat) : marked ⟨.ned, id, i⟩ = false := by simp [marked]
@[simp] theorem marked_shc (id i : Nat) : marked ⟨.shc, id, i⟩ = false := by simp [marked]

/-- Such a tally reads the same where nothing of them changed. -/
theorem tally_of_marks {s t : State} (same : t.marks = s.marks) {k : TKey} (kept : marked k = true) : t.tally k = s.tally k := by
  have := congrArg (fun m : Marks => m.tally k) same
  simp only [State.marks, marksOf, kept, if_true] at this
  exact this

@[simp] theorem ite_marks (c : Prop) [Decidable c] (a b : State) : (if c then a else b).marks = if c then a.marks else b.marks := by
  split <;> rfl

@[simp] theorem foldl_marks {α : Type} (f : State → α → State) (h : ∀ s a, (f s a).marks = s.marks) (l : List α) (s : State) :
    (l.foldl f s).marks = s.marks := by
  induction l generalizing s with
  | nil => rfl
  | cons x xs ih => simp [ih, h]

theorem ite_eq_marks {c : Prop} [Decidable c] {a b : State} {r : Marks} (ha : a.marks = r) (hb : b.marks = r) :
    (if c then a else b).marks = r := by
  split <;> assumption

theorem wire_marks (a : State) (w : List Wire) : ({ a with wire := w } : State).marks = a.marks := rfl

theorem meds_marks (a : State) (l : List Med) (h : l.length = a.meds.length) : ({ a with meds := l } : State).marks = a.marks := rfl

theorem heard_marks (a : State) (o : Option Time) : ({ a with ptpHeard := o } : State).marks = a.marks := rfl

theorem fw_marks (a : State) (w : FwUpdate) : ({ a with fwUpdate := w } : State).marks = a.marks := rfl

@[simp] theorem State.setPad_marks (s : State) (n : Nat) (p : Paddock) : (State.setPad s n p).marks = s.marks := by
  unfold State.setPad; simp only [State.marks, Marks.mk.injEq] <;> simp [↓marks_mk, marks_eqs]

@[simp] theorem State.modPad_marks (s : State) (n : Nat) (f : Paddock → Paddock) : (State.modPad s n f).marks = s.marks := by
  simp [State.modPad]

@[simp] theorem State.setField_marks (s : State) (f : Nat) (x : Field) : (State.setField s f x).marks = s.marks := by
  unfold State.setField; simp only [State.marks, Marks.mk.injEq] <;> simp [↓marks_mk, marks_eqs]

@[simp] theorem State.modField_marks (s : State) (f : Nat) (g : Field → Field) : (State.modField s f g).marks = s.marks := by
  simp [State.modField]

@[simp] theorem State.setNed_marks (s : State) (k : Nat) (x : Ned) : (State.setNed s k x).marks = s.marks := by
  unfold State.setNed; simp only [State.marks, Marks.mk.injEq] <;> simp [↓marks_mk, marks_eqs]

@[simp] theorem State.modNed_marks (s : State) (k : Nat) (f : Ned → Ned) : (State.modNed s k f).marks = s.marks := by
  simp [State.modNed]

@[simp] theorem State.setMed_marks (s : State) (k : Nat) (x : Med) : (State.setMed s k x).marks = s.marks := by
  unfold State.setMed; simp only [State.marks, Marks.mk.injEq] <;> simp [↓marks_mk, marks_eqs]

@[simp] theorem State.modMed_marks (s : State) (k : Nat) (f : Med → Med) : (State.modMed s k f).marks = s.marks := by
  simp [State.modMed]

@[simp] theorem State.setSpd_marks (s : State) (k : Nat) (x : Spd) : (State.setSpd s k x).marks = s.marks := by
  unfold State.setSpd; simp only [State.marks, Marks.mk.injEq] <;> simp [↓marks_mk, marks_eqs]

@[simp] theorem State.modSpd_marks (s : State) (k : Nat) (f : Spd → Spd) : (State.modSpd s k f).marks = s.marks := by
  simp [State.modSpd]

@[simp] theorem State.setShc_marks (s : State) (i : Nat) (x : Shc) : (State.setShc s i x).marks = s.marks := by
  unfold State.setShc; simp only [State.marks, Marks.mk.injEq] <;> simp [↓marks_mk, marks_eqs]

@[simp] theorem State.modShc_marks (s : State) (i : Nat) (f : Shc → Shc) : (State.modShc s i f).marks = s.marks := by
  simp [State.modShc]

@[simp] theorem State.setLink_marks (s : State) (x lane : Nat) (l : LinkEnd) : (State.setLink s x lane l).marks = s.marks := by
  unfold State.setLink; simp only [State.marks, Marks.mk.injEq] <;> simp [↓marks_mk, marks_eqs]

@[simp] theorem State.modLink_marks (s : State) (x lane : Nat) (f : LinkEnd → LinkEnd) : (State.modLink s x lane f).marks = s.marks := by
  simp [State.modLink]

@[simp] theorem State.setEntry_marks (s : State) (n : Nat) (e : MapEntry) : (State.setEntry s n e).marks = s.marks := by
  unfold State.setEntry; simp only [State.marks, Marks.mk.injEq] <;> simp [↓marks_mk, marks_eqs]

@[simp] theorem State.modFold_marks (s : State) (id : Nat) (g : Fold → Fold) : (State.modFold s id g).marks = s.marks := by
  unfold State.modFold; simp only [State.marks, Marks.mk.injEq] <;> simp [↓marks_mk, marks_eqs]

@[simp] theorem State.setSession_marks (s : State) (num : Nat) (x : Session) : (State.setSession s num x).marks = s.marks := by
  unfold State.setSession; simp only [State.marks, Marks.mk.injEq] <;> simp [↓marks_mk, marks_eqs]

@[simp] theorem State.addTally_marks (s : State) (scope : TScope) (id idx n : Nat) (h : marked ⟨scope, id, idx⟩ = false) :
    (s.addTally scope id idx n).marks = s.marks := by
  refine congrArg Marks.mk (funext fun k => ?_)
  show (if marked k then (s.addTally scope id idx n).tally k else 0) = if marked k then s.tally k else 0
  rw [State.addTally_tally]
  by_cases own : k = ⟨scope, id, idx⟩
  · subst own
    simp [h]
  · rw [if_neg own]

@[simp] theorem State.count_marks (s : State) (scope : TScope) (id idx : Nat) (h : marked ⟨scope, id, idx⟩ = false) :
    (s.count scope id idx).marks = s.marks :=
  s.addTally_marks scope id idx 1 h

@[simp] theorem State.noteStray_marks (s : State) (fold : Nat) : (State.noteStray s fold).marks = s.marks := by
  simp [State.noteStray]

@[simp] theorem State.countChan_marks (s : State) (ned bind handle idx n : Nat) : (State.countChan s ned bind handle idx n).marks = s.marks := by
  simp [State.countChan]

@[simp] theorem State.ring_marks (s : State) (obj : String) (fault : Bool) (kv : KVs) : (s.ring obj fault kv).marks = s.marks := by
  unfold State.ring
  split
  · rfl
  · exact (State.addTally_marks _ _ _ _ _ rfl).trans rfl

@[simp] theorem State.alert_marks (s : State) (row : Nat) : (State.alert s row).marks = s.marks := by
  unfold State.alert; simp only [State.marks, Marks.mk.injEq] <;> simp [↓marks_mk, marks_eqs]

@[simp] theorem State.report_marks (s : State) (tr : Trigger) (folds : List Nat) (place : Nat) : (State.report s tr folds place).marks = s.marks := by
  unfold State.report; simp only [State.marks, Marks.mk.injEq] <;> simp [↓marks_mk, marks_eqs]

@[simp] theorem State.setCs_marks (s : State) (i : Nat) (c : CSess) : (State.setCs s i c).marks = s.marks := by
  unfold State.setCs; simp only [State.marks, Marks.mk.injEq] <;> simp [↓marks_mk, marks_eqs]

@[simp] theorem State.modCs_marks (s : State) (i : Nat) (f : CSess → CSess) : (State.modCs s i f).marks = s.marks := by
  simp [State.modCs]

@[simp] theorem State.say_marks (s : State) (i : Nat) (o : Out) : (State.say s i o).marks = s.marks := by
  simp [State.say]

@[simp] theorem State.prompt_marks (s : State) (i : Nat) : (State.prompt s i).marks = s.marks := by
  simp [State.prompt]

@[simp] theorem State.final_marks (s : State) (i : Nat) (tag : Option (List Byte)) (crc : Bool) (r : RLine) : (State.final s i tag crc r).marks = s.marks := by
  simp [State.final]

@[simp] theorem State.answer_marks (s : State) (ln : Ln) (r : RLine) : (State.answer s ln r).marks = s.marks := by
  unfold State.answer
  (repeat' split) <;> simp

@[simp] theorem State.ok_marks (s : State) (ln : Ln) (kv : KVs) : (State.ok s ln kv).marks = s.marks := by
  simp [State.ok]

@[simp] theorem State.settle_marks (s : State) (p : WaitFor → Bool) (r : RLine) : (State.settle s p r).marks = s.marks := by
  unfold State.settle; simp only [State.marks, Marks.mk.injEq] <;> simp [↓marks_mk, marks_eqs]

@[simp] theorem State.mirror_marks (s : State) : (State.mirror s).marks = s.marks := by
  unfold State.mirror
  (repeat' split) <;> first | (simp; done) | (simp only [State.marks, Marks.mk.injEq] <;> simp [↓marks_mk, marks_eqs])

@[simp] theorem State.syncCredits_marks (s : State) (x lane : Nat) : (State.syncCredits s x lane).marks = s.marks := by
  unfold State.syncCredits
  (repeat' split) <;> simp

@[simp] theorem State.syncBorders_marks (s : State) (n : Nat) : (State.syncBorders s n).marks = s.marks := by
  unfold State.syncBorders
  dsimp only
  (repeat' split) <;> first | rfl | (simp (disch := (intros; (repeat' split) <;> simp)); done) | (simp only [State.marks, Marks.mk.injEq] <;> simp (disch := (intros; (repeat' split) <;> simp)) [↓marks_mk, marks_eqs])

@[simp] theorem State.reroute_marks (s : State) (x lane : Nat) : (State.reroute s x lane).marks = s.marks := by
  unfold State.reroute
  dsimp only
  (repeat' split) <;> first | rfl | (simp (disch := (intros; (repeat' split) <;> simp)); done) | (simp only [State.marks, Marks.mk.injEq] <;> simp (disch := (intros; (repeat' split) <;> simp)) [↓marks_mk, marks_eqs])

@[simp] theorem State.downSide_marks (s : State) (x lane : Nat) (acc : BitVec 5) : (State.downSide s x lane acc).marks = s.marks := by
  simp [State.downSide]

@[simp] theorem State.sendSys_marks (s : State) (u : Nat) (f : Flit) : (State.sendSys s u f).marks = s.marks := by
  simp [State.sendSys]

@[simp] theorem State.reportFrom_marks (s : State) (u : Nat) (tr : Trigger) (folds : List Nat) (place : Nat) : (State.reportFrom s u tr folds place).marks = s.marks := by
  simp [State.reportFrom]

@[simp] theorem State.pickDetours_marks (s : State) (was : List (Nat × Nat × List Nat)) : (State.pickDetours s was).marks = s.marks := by
  unfold State.pickDetours
  dsimp only
  (repeat' split) <;> first | rfl | (simp (disch := (intros; (repeat' split) <;> simp)); done) | (simp only [State.marks, Marks.mk.injEq] <;> simp (disch := (intros; (repeat' split) <;> simp)) [↓marks_mk, marks_eqs])

@[simp] theorem State.laneDown_marks (s : State) (x lane cause : Nat) : (State.laneDown s x lane cause).marks = s.marks := by
  unfold State.laneDown
  (repeat' split) <;> first | (simp; done) | (simp only [State.marks, Marks.mk.injEq] <;> simp [↓marks_mk, marks_eqs])

@[simp] theorem State.sessMod_marks (s : State) (r : Req) (f : Session → Session) : (State.sessMod s r f).marks = s.marks := by
  unfold State.sessMod
  (repeat' split) <;> simp

@[simp] theorem State.countReq_marks (s : State) (k : Nat) (r : Req) (idx n : Nat) : (State.countReq s k r idx n).marks = s.marks := by
  simp [State.countReq]

theorem State.withTag_marks {s s0 : State} {k : Nat} {r x : Req} (h : s.withTag k r = some (x, s0)) : s0.marks = s.marks := by
  simp only [State.withTag, Option.map_eq_some_iff, Prod.mk.injEq] at h
  obtain ⟨_, _, _, rfl⟩ := h
  simp

@[simp] theorem State.countReply_marks (s : State) (k : Nat) (r : Req) (back : Bool) : (State.countReply s k r back).marks = s.marks := by
  unfold State.countReply
  (repeat' split) <;> simp

@[simp] theorem State.endReq_marks (s : State) (k : Nat) (r : Req) : (State.endReq s k r).marks = s.marks := by
  simp [State.endReq]

@[simp] theorem State.closeTag_marks (s : State) (k : Nat) (r : Req) (stray : Bool) : (State.closeTag s k r stray).marks = s.marks := by
  simp [State.closeTag]

@[simp] theorem State.releaseFcs_marks (s : State) (k : Nat) (r : Req) : (State.releaseFcs s k r).marks = s.marks := by
  unfold State.releaseFcs; simp only [State.marks, Marks.mk.injEq] <;> simp [↓marks_mk, marks_eqs]

@[simp] theorem State.startReply_marks (s : State) (k : Nat) (r : Req) (rep : Reply) (at_ : Time) : (State.startReply s k r rep at_).marks = s.marks := by
  unfold State.startReply; simp only [State.marks, Marks.mk.injEq] <;> simp [↓marks_mk, marks_eqs]

@[simp] theorem State.compose_marks (s : State) (k : Nat) (r : Req) (rep : Reply) : (State.compose s k r rep).marks = s.marks := by
  unfold State.compose
  dsimp only
  (repeat' split) <;> simp

@[simp] theorem State.stomp_marks (s : State) (k : Nat) (r : Req) (whole : Bool) : (State.stomp s k r whole).marks = s.marks := by
  unfold State.stomp; simp only [State.marks, Marks.mk.injEq] <;> simp [↓marks_mk, marks_eqs]

@[simp] theorem State.unsend_marks (s : State) (k : Nat) (r : Req) : (State.unsend s k r).marks = s.marks := by
  unfold State.unsend; simp only [State.marks, Marks.mk.injEq] <;> simp [↓marks_mk, marks_eqs]

@[simp] theorem State.stompSent_marks (s : State) (k : Nat) (r : Req) : (State.stompSent s k r).marks = s.marks := by
  simp [State.stompSent]

@[simp] theorem State.refuseReq_marks (s : State) (k : Nat) (r : Req) (reason : Nat) : (State.refuseReq s k r reason).marks = s.marks := by
  simp [State.refuseReq]

@[simp] theorem State.dropReq_marks (s : State) (k : Nat) (r : Req) : (State.dropReq s k r).marks = s.marks := by
  simp [State.dropReq]

@[simp] theorem State.holdRun_marks (s : State) (k : Nat) (r : Req) : (State.holdRun s k r).marks = s.marks := by
  simp [State.holdRun]

@[simp] theorem State.raiseQ_marks (s : State) (fold key : Nat) (ds : List (Nat × Nat)) : (State.raiseQ s fold key ds).marks = s.marks := by
  simp [State.raiseQ]

@[simp] theorem State.judgeRaised_marks (s : State) (fold : Nat) (ds : List (Nat × Nat)) : (State.judgeRaised s fold ds).marks = s.marks := by
  simp [State.judgeRaised]

@[simp] theorem State.deltaQ_marks (s : State) (x lane : Nat) : (State.deltaQ s x lane).marks = s.marks := by
  unfold State.deltaQ
  dsimp only
  (repeat' split) <;> first | rfl | (simp (disch := (intros; (repeat' split) <;> simp)); done) | (simp only [State.marks, Marks.mk.injEq] <;> simp (disch := (intros; (repeat' split) <;> simp)) [↓marks_mk, marks_eqs])

@[simp] theorem State.endRaise_marks (s : State) (key : Nat) : (State.endRaise s key).marks = s.marks := by
  unfold State.endRaise; simp only [State.marks, Marks.mk.injEq] <;> simp [↓marks_mk, marks_eqs]

@[simp] theorem State.downLane_marks (s : State) (x lane cause : Nat) : (State.downLane s x lane cause).marks = s.marks := by
  unfold State.downLane
  (repeat' split) <;> simp

@[simp] theorem State.advertise_marks (s : State) (n fold : Nat) : (State.advertise s n fold).marks = s.marks := by
  unfold State.advertise
  (repeat' split) <;> first | rfl | (simp; done) | (simp only [State.marks, Marks.mk.injEq] <;> simp [↓marks_mk, marks_eqs]; done) | (rw [foldl_marks] <;> (intros; (repeat' split) <;> simp))

@[simp] theorem State.installLinks_marks (s : State) (im : Image) (n m fold : Nat) : (State.installLinks s im n m fold).marks = s.marks := by
  unfold State.installLinks
  (repeat' split) <;> simp

@[simp] theorem State.installPad_marks (s : State) (im : Image) (n m fold : Nat) (st : CtxState) (epoch : Nat) : (State.installPad s im n m fold st epoch).marks = s.marks := by
  simp [State.installPad]

@[simp] theorem State.liftPad_marks (s : State) (n fold : Nat) : (State.liftPad s n fold).marks = s.marks := by
  simp [State.liftPad]

@[simp] theorem State.setYokes_marks (s : State) (f : Fold) (im : Image) : (State.setYokes s f im).marks = s.marks := by
  simp [State.setYokes]

@[simp] theorem State.bringIn_marks (s : State) (im : Image) (n fold epoch : Nat) : (State.bringIn s im n fold epoch).marks = s.marks := by
  simp [State.bringIn]

@[simp] theorem State.commitLoad_marks (s : State) (id : Nat) : (State.commitLoad s id).marks = s.marks := by
  unfold State.commitLoad
  (repeat' split) <;> simp

@[simp] theorem State.toStandby_marks (s : State) (id : Nat) : (State.toStandby s id).marks = s.marks := by
  unfold State.toStandby
  (repeat' split) <;> simp

@[simp] theorem State.transit_marks (s : State) (id : Nat) : (State.transit s id).marks = s.marks := by
  unfold State.transit
  (repeat' split) <;> simp

end Sys2Proof.Machine

/-! What leaves the network edge dies alone, as in Laws/. -/
namespace Sys2Proof.Machine

open Sys2Proof

/-- The network edge dies. -/
structure Nic where
  neds : List Ned

def State.nic (s : State) : Nic :=
  ⟨s.neds⟩

theorem nic_mk (now) (freeCtr) (resetN) (pwrFail) (pwrFailAt) (frozen) (faultN) (alertN) (alertCause) (ready)
    (readyAt) (vstby) (fuses) (flash) (writing) (place) (net) (boot) (sel) (quiet) (active) (shcA) (shcB) (mirrorSeq)
    (mirrorProbe) (scratch) (sess) (con0) (con1) (waits) (garp) (stages) (nextStage) (retained) (fwUpdate) (bellSeq)
    (bells) (ledgerSeq) (ledgerHeld) (ledgerStopped) (ptpPort) (ptpHeard) (tallies) (busA) (busB) (shared) (telem)
    (unreach) (refAbsent) (refSince) (meshLocked) (inlet) (outlet) (loopSince) (wave) (lastWave) (map) (mapSeq) (pads)
    (fields) (links) (lane0) (neds) (meds) (spds) (nedTemp) (spdTemp) (medTemp) (flockUp) (flockMembers) (flockInfo)
    (excludedW) (folds) (scrubs) (paused) (secondAt) (incCtr) (channels) (sessions) (reports) (notices) (wsel) (wstat)
    (shadow) (taps) (wire) (pending) : (State.mk now freeCtr resetN pwrFail pwrFailAt frozen faultN alertN alertCause
    ready readyAt vstby fuses flash writing place net boot sel quiet active shcA shcB mirrorSeq mirrorProbe scratch
    sess con0 con1 waits garp stages nextStage retained fwUpdate bellSeq bells ledgerSeq ledgerHeld ledgerStopped
    ptpPort ptpHeard tallies busA busB shared telem unreach refAbsent refSince meshLocked inlet outlet loopSince wave
    lastWave map mapSeq pads fields links lane0 neds meds spds nedTemp spdTemp medTemp flockUp flockMembers flockInfo
    excludedW folds scrubs paused secondAt incCtr channels sessions reports notices wsel wstat shadow taps wire
    pending).nic =
    ⟨neds⟩ := rfl

theorem nic_eqs : (∀ s : State, s.neds = s.nic.neds) := by
  intros
  rfl

@[simp] theorem ite_nic (c : Prop) [Decidable c] (a b : State) : (if c then a else b).nic = if c then a.nic else b.nic := by
  split <;> rfl

@[simp] theorem foldl_nic {α : Type} (f : State → α → State) (h : ∀ s a, (f s a).nic = s.nic) (l : List α) (s : State) :
    (l.foldl f s).nic = s.nic := by
  induction l generalizing s with
  | nil => rfl
  | cons x xs ih => simp [ih, h]

theorem ite_eq_nic {c : Prop} [Decidable c] {a b : State} {r : Nic} (ha : a.nic = r) (hb : b.nic = r) :
    (if c then a else b).nic = r := by
  split <;> assumption

theorem wire_nic (a : State) (w : List Wire) : ({ a with wire := w } : State).nic = a.nic := rfl

theorem meds_nic (a : State) (l : List Med) (h : l.length = a.meds.length) : ({ a with meds := l } : State).nic = a.nic := rfl

theorem heard_nic (a : State) (o : Option Time) : ({ a with ptpHeard := o } : State).nic = a.nic := rfl

theorem fw_nic (a : State) (w : FwUpdate) : ({ a with fwUpdate := w } : State).nic = a.nic := rfl

@[simp] theorem State.setPad_nic (s : State) (n : Nat) (p : Paddock) : (State.setPad s n p).nic = s.nic := by
  unfold State.setPad; simp only [State.nic, Nic.mk.injEq] <;> simp [↓nic_mk, nic_eqs]

@[simp] theorem State.modPad_nic (s : State) (n : Nat) (f : Paddock → Paddock) : (State.modPad s n f).nic = s.nic := by
  simp [State.modPad]

@[simp] theorem State.setShc_nic (s : State) (i : Nat) (x : Shc) : (State.setShc s i x).nic = s.nic := by
  unfold State.setShc; simp only [State.nic, Nic.mk.injEq] <;> simp [↓nic_mk, nic_eqs]

@[simp] theorem State.modShc_nic (s : State) (i : Nat) (f : Shc → Shc) : (State.modShc s i f).nic = s.nic := by
  simp [State.modShc]

@[simp] theorem State.setLink_nic (s : State) (x lane : Nat) (l : LinkEnd) : (State.setLink s x lane l).nic = s.nic := by
  unfold State.setLink; simp only [State.nic, Nic.mk.injEq] <;> simp [↓nic_mk, nic_eqs]

@[simp] theorem State.modLink_nic (s : State) (x lane : Nat) (f : LinkEnd → LinkEnd) : (State.modLink s x lane f).nic = s.nic := by
  simp [State.modLink]

@[simp] theorem State.modFold_nic (s : State) (id : Nat) (g : Fold → Fold) : (State.modFold s id g).nic = s.nic := by
  unfold State.modFold; simp only [State.nic, Nic.mk.injEq] <;> simp [↓nic_mk, nic_eqs]

@[simp] theorem State.setSession_nic (s : State) (num : Nat) (x : Session) : (State.setSession s num x).nic = s.nic := by
  unfold State.setSession; simp only [State.nic, Nic.mk.injEq] <;> simp [↓nic_mk, nic_eqs]

@[simp] theorem State.addTally_nic (s : State) (scope : TScope) (id idx n : Nat) : (State.addTally s scope id idx n).nic = s.nic := by
  unfold State.addTally; simp only [State.nic, Nic.mk.injEq] <;> simp [↓nic_mk, nic_eqs]

@[simp] theorem State.count_nic (s : State) (scope : TScope) (id idx : Nat) : (State.count s scope id idx).nic = s.nic := by
  simp [State.count]

@[simp] theorem State.noteStray_nic (s : State) (fold : Nat) : (State.noteStray s fold).nic = s.nic := by
  simp [State.noteStray]

@[simp] theorem State.countChan_nic (s : State) (ned bind handle idx n : Nat) : (State.countChan s ned bind handle idx n).nic = s.nic := by
  simp [State.countChan]

@[simp] theorem State.ring_nic (s : State) (obj : String) (fault : Bool) (kv : KVs) : (s.ring obj fault kv).nic = s.nic := by
  unfold State.ring
  split
  · rfl
  · exact (State.addTally_nic _ _ _ _ _).trans rfl

@[simp] theorem State.report_nic (s : State) (tr : Trigger) (folds : List Nat) (place : Nat) : (State.report s tr folds place).nic = s.nic := by
  unfold State.report; simp only [State.nic, Nic.mk.injEq] <;> simp [↓nic_mk, nic_eqs]

@[simp] theorem State.setCs_nic (s : State) (i : Nat) (c : CSess) : (State.setCs s i c).nic = s.nic := by
  unfold State.setCs; simp only [State.nic, Nic.mk.injEq] <;> simp [↓nic_mk, nic_eqs]

@[simp] theorem State.modCs_nic (s : State) (i : Nat) (f : CSess → CSess) : (State.modCs s i f).nic = s.nic := by
  simp [State.modCs]

@[simp] theorem State.say_nic (s : State) (i : Nat) (o : Out) : (State.say s i o).nic = s.nic := by
  simp [State.say]

@[simp] theorem State.prompt_nic (s : State) (i : Nat) : (State.prompt s i).nic = s.nic := by
  simp [State.prompt]

@[simp] theorem State.final_nic (s : State) (i : Nat) (tag : Option (List Byte)) (crc : Bool) (r : RLine) : (State.final s i tag crc r).nic = s.nic := by
  simp [State.final]

@[simp] theorem State.answer_nic (s : State) (ln : Ln) (r : RLine) : (State.answer s ln r).nic = s.nic := by
  unfold State.answer
  (repeat' split) <;> simp

@[simp] theorem State.ok_nic (s : State) (ln : Ln) (kv : KVs) : (State.ok s ln kv).nic = s.nic := by
  simp [State.ok]

@[simp] theorem State.err_nic (s : State) (ln : Ln) (code : Nat) (kv : KVs) : (State.err s ln code kv).nic = s.nic := by
  simp [State.err]

@[simp] theorem State.settle_nic (s : State) (p : WaitFor → Bool) (r : RLine) : (State.settle s p r).nic = s.nic := by
  unfold State.settle; simp only [State.nic, Nic.mk.injEq] <;> simp [↓nic_mk, nic_eqs]

@[simp] theorem State.mirror_nic (s : State) : (State.mirror s).nic = s.nic := by
  unfold State.mirror
  (repeat' split) <;> first | (simp; done) | (simp only [State.nic, Nic.mk.injEq] <;> simp [↓nic_mk, nic_eqs])

@[simp] theorem State.sendSys_nic (s : State) (u : Nat) (f : Flit) : (State.sendSys s u f).nic = s.nic := by
  simp [State.sendSys]

@[simp] theorem State.reportFrom_nic (s : State) (u : Nat) (tr : Trigger) (folds : List Nat) (place : Nat) : (State.reportFrom s u tr folds place).nic = s.nic := by
  simp [State.reportFrom]

@[simp] theorem State.sessMod_nic (s : State) (r : Req) (f : Session → Session) : (State.sessMod s r f).nic = s.nic := by
  unfold State.sessMod
  (repeat' split) <;> simp

@[simp] theorem State.nedSend_nic (s : State) (k e : Nat) (fs : List Flit) : (State.nedSend s k e fs).nic = s.nic := by
  unfold State.nedSend
  (repeat' split) <;> simp

@[simp] theorem State.sendBell_nic (s : State) (k eport fold old incoming count : Nat) (im : Image) (d : Nat × Nat × Nat) : (State.sendBell s k eport fold old incoming count im d).nic = s.nic := by
  simp [State.sendBell]

@[simp] theorem State.countReq_nic (s : State) (k : Nat) (r : Req) (idx n : Nat) : (State.countReq s k r idx n).nic = s.nic := by
  simp [State.countReq]

theorem State.withTag_nic {s s0 : State} {k : Nat} {r x : Req} (h : s.withTag k r = some (x, s0)) : s0.nic = s.nic := by
  simp only [State.withTag, Option.map_eq_some_iff, Prod.mk.injEq] at h
  obtain ⟨_, _, _, rfl⟩ := h
  simp

@[simp] theorem State.countReply_nic (s : State) (k : Nat) (r : Req) (back : Bool) : (State.countReply s k r back).nic = s.nic := by
  unfold State.countReply
  (repeat' split) <;> simp

@[simp] theorem State.unsend_nic (s : State) (k : Nat) (r : Req) : (State.unsend s k r).nic = s.nic := by
  unfold State.unsend; simp only [State.nic, Nic.mk.injEq] <;> simp [↓nic_mk, nic_eqs]

end Sys2Proof.Machine

/-! Lanes: what a beat sent, a beat received and a verdict leave of an end (O34). -/
namespace Sys2Proof.Machine

open Sys2Proof

/-! A router's sweep. -/

/-- An end of a lane but for what it holds: its receive buffers, the slots given back and the flits put ahead. -/
def LinkEnd.line (l : LinkEnd) : LinkEnd := { l with ahead := [], buf0 := [], buf1 := [], free0 := 0, free1 := 0 }

/-- A paddock but for the flits at its LOCAL port. -/
def Paddock.body (p : Paddock) : Paddock := { p with outbox := [] }

theorem LinkEnd.popBuf_line (l : LinkEnd) (vc : Bool) : (l.popBuf vc).line = l.line := by
  cases vc <;> rfl

/-- Nothing left the land, every end of a lane keeps its line and every paddock its body. -/
structure Swept (s t : State) : Prop where
  wire : t.wire = s.wire
  line : ∀ x lane, (t.link x lane).line = (s.link x lane).line
  body : ∀ n, (t.pad n).body = (s.pad n).body

theorem Swept.refl (s : State) : Swept s s := ⟨rfl, fun _ _ => rfl, fun _ => rfl⟩

theorem Swept.trans {s t u : State} (a : Swept s t) (b : Swept t u) : Swept s u :=
  ⟨b.wire.trans a.wire, fun x lane => (b.line x lane).trans (a.line x lane), fun n => (b.body n).trans (a.body n)⟩

theorem Swept.modLink (s : State) (x lane : Nat) {f : LinkEnd → LinkEnd} (same : ∀ l, (f l).line = l.line) : Swept s (s.modLink x lane f) := by
  refine ⟨rfl, fun y m => ?_, fun _ => rfl⟩
  rw [State.modLink_link]
  split
  · rename_i key
    rw [same]
    exact congrArg (fun k => (assoc LinkEnd.initial s.links k).line) key.symm
  · rfl

theorem Swept.modPad (s : State) (n : Nat) {f : Paddock → Paddock} (same : ∀ p, (f p).body = p.body) : Swept s (s.modPad n f) := by
  refine ⟨rfl, fun _ _ => rfl, fun m => ?_⟩
  rw [State.modPad_pad]
  split
  · rename_i own
    rw [same, own]
  · rfl

theorem Swept.addTally (s : State) (sc : TScope) (id idx n : Nat) : Swept s (s.addTally sc id idx n) :=
  ⟨by simp, fun x lane => by simp, fun n => by simp⟩

theorem Swept.count (s : State) (sc : TScope) (id idx : Nat) : Swept s (s.count sc id idx) := Swept.addTally s sc id idx 1

theorem Swept.report (s : State) (tr : Trigger) (folds : List Nat) (place : Nat) : Swept s (s.report tr folds place) :=
  ⟨by simp, fun x lane => by simp, fun n => by simp⟩

theorem Swept.foldl {α : Type} {f : State → α → State} (l : List α) (s : State) (step : ∀ t a, Swept t (f t a)) : Swept s (l.foldl f s) :=
  foldl_inv (P := Swept s) l (Swept.refl s) fun t a kept => kept.trans (step t a)

theorem Swept.sendSys (s : State) (u : Nat) (f : Flit) : Swept s (s.sendSys u f) := by
  unfold State.sendSys
  split
  · exact Swept.modPad s u (by intro p; rfl)
  · exact Swept.modLink s _ 0 (by intro l; rfl)

theorem Swept.reportFrom (s : State) (u : Nat) (tr : Trigger) (folds : List Nat) (place : Nat) : Swept s (s.reportFrom u tr folds place) :=
  (Swept.foldl folds s fun t f => Swept.sendSys t u _).trans (Swept.report _ tr folds place)

/-- What a router discards changes no end's line and no paddock's body. -/
theorem State.sweepRouter_swept (s : State) (n : Nat) : Swept s (s.sweepRouter n) := by
  unfold State.sweepRouter
  extract_lets miss s1
  have missed (t : State) (f : Flit) : Swept t (miss t f) := (Swept.count t _ _ _).trans (Swept.reportFrom _ _ _ _ _)
  have first : Swept s s1 := by
    refine Swept.foldl _ s fun t i => ?_
    dsimp only
    have popped : Swept t (t.modLink (padEnd n (i / 8)) (i / 2 % 4) fun l => l.popBuf (decide (i % 2 = 1))) :=
      Swept.modLink t _ _ fun l => LinkEnd.popBuf_line l _
    split
    · exact Swept.refl t
    · split
      · exact Swept.refl t
      · split
        · exact Swept.refl t
        · exact popped.trans (missed _ _)
        · exact popped.trans (Swept.count _ _ _ _)
  refine first.trans (Swept.foldl _ s1 fun t q => ?_)
  dsimp only
  have gone : Swept t (t.modPad n fun p => { p with outbox := dropFirst (fun a => decide (a = q)) p.outbox }) :=
    Swept.modPad t n (by intro p; rfl)
  split
  · exact gone.trans (Swept.count _ _ _ _)
  · split
    · exact Swept.refl t
    · exact gone.trans (missed _ _)
    · exact gone.trans (Swept.count _ _ _ _)

namespace Swept
variable {s t : State} (kept : Swept s t)
include kept

theorem yokeOf (n : Nat) : t.yokeOf n = s.yokeOf n := by
  unfold State.yokeOf
  rw [show (t.pad n).yoke = (s.pad n).yoke from (congrArg Paddock.yoke (kept.body n) :)]

theorem gated (x y : Nat) : t.gated x y = s.gated x y := by
  unfold State.gated
  rw [kept.yokeOf]

theorem endN (x : Nat) : t.endN x = s.endN x := by
  unfold State.endN
  rw [show (t.pad (x / 4)).n = (s.pad (x / 4)).n from (congrArg Paddock.n (kept.body _) :)]

theorem hurdled (n : Nat) : (t.pad n).hurdled = (s.pad n).hurdled :=
  (congrArg Paddock.hurdled (kept.body n) :)

theorem down (x lane : Nat) : (t.link x lane).lastingDown = (s.link x lane).lastingDown :=
  (congrArg LinkEnd.lastingDown (kept.line x lane) :)

theorem pace (x lane : Nat) : (t.link x lane).pace = (s.link x lane).pace :=
  (congrArg LinkEnd.pace (kept.line x lane) :)

theorem replay (x lane : Nat) : (t.link x lane).replay = (s.link x lane).replay :=
  (congrArg LinkEnd.replay (kept.line x lane) :)

/-- The next entry of a replay is the same. -/
theorem replayNext (x lane : Nat) : ((t.link x lane).replayNext).map (·.1) = ((s.link x lane).replayNext).map (·.1) := by
  unfold LinkEnd.replayNext
  rw [show (t.link x lane).cursor = (s.link x lane).cursor from (congrArg LinkEnd.cursor (kept.line x lane) :), kept.replay]
  cases (s.link x lane).cursor with
  | none => rfl
  | some c =>
    dsimp only
    cases (s.link x lane).replay[c]? <;> rfl
end Swept

/-! A beat sent. -/

/-- A lane sends its beat of these flits, and the pacer goes on. -/
def State.beatOut (s : State) (x lane : Nat) (frozen : Bool) (acc ns nr : Nat) (fs : List Flit) (seq : BitVec 5) : State :=
  let e := s.link x lane
  let b := mkBeat fs (e.trailer seq (fs.length = 2) frozen)
  let a := min (2 * ns) ((if fs.isEmpty then acc else acc - ns) + nr)
  { s.setLink x lane { e.sentCounts frozen with pace := some a } with wire := s.wire ++ [Wire.beat x lane b] }

/-- Why a lane sends a beat without flits. -/
def State.beatStill (s : State) (x lane : Nat) : Bool :=
  let l := s.link x lane
  l.lastingDown || (lane ≠ 0 && x < 8192 && (s.pad (x / 4)).hurdled)
    || (s.gated x ((peerEnd x).getD 0) && decide (l.pace.getD (s.endN x) < s.endN x))

/-- One beat of a lane, with the router swept. -/
def State.sendBeat (s : State) (x lane : Nat) : State :=
  let l := s.link x lane
  let ns := s.endN x
  let nr := s.endN ((peerEnd x).getD 0)
  let acc := l.pace.getD ns
  let frozen := s.frozenEnd x lane
  let finish (s : State) (fs : List Flit) (seq : BitVec 5) : State := s.beatOut x lane frozen acc ns nr fs seq
  if s.beatStill x lane then finish s [] l.last
  else
    match l.replayNext with
    | some (e, l') => finish (s.setLink x lane l') [e.item.flit] e.lseq
    | none =>
      match s.nextFlit x lane fun _ => true with
      | none => finish s [] l.last
      | some (q, s1) =>
        let seq := (s1.link x lane).last
        if l.compress && compressible q.flit.payload then
          match s1.nextFlit x lane fun q => compressible q.flit.payload with
          | some (q2, s2) => finish (s2.modLink x lane LinkEnd.markPair) [q.flit, q2.flit] seq
          | none => finish s1 [q.flit] seq
        else finish s1 [q.flit] seq

theorem execLinkBeatSend_next (x : EndIx) (lane : Lane) (t : Time) (s : State) :
    exec (.linkBeatSend x lane t) s = .next (s.event t (fun s => s.endOn x lane.val) fun s =>
      (if x < 5376 then s.sweepRouter (x / 4) else s).sendBeat x lane) := rfl

theorem State.takeFrom_wire (s : State) (x lane : Nat) (src : Source) (q : Queued) : (s.takeFrom x lane src q).wire = s.wire := by
  cases src <;> rfl

theorem State.nextFlit_wire {s : State} {x lane : Nat} {ok : Queued → Bool} {q : Queued} {u : State} (sent : s.nextFlit x lane ok = some (q, u)) :
    u.wire = s.wire := by
  unfold State.nextFlit at sent
  obtain ⟨vc, -, found⟩ := List.exists_of_findSome?_eq_some sent
  dsimp only at found
  split at found
  · split at found
    · obtain ⟨-, rfl⟩ := Prod.mk.inj (Option.some.inj found)
      split
      · exact ((Swept.count _ _ _ _).wire).trans (State.takeFrom_wire _ _ _ _ _)
      · exact State.takeFrom_wire _ _ _ _ _
    · cases found
  · cases found

section
variable (s : State) (x lane : Nat)

theorem State.beatOut_wire (frozen : Bool) (acc ns nr : Nat) (fs : List Flit) (seq : BitVec 5) :
    ∃ tr, tr.lseq = seq ∧ (s.beatOut x lane frozen acc ns nr fs seq).wire = s.wire ++ [.beat x lane (mkBeat fs tr)] :=
  ⟨_, rfl, rfl⟩

theorem State.beatOut_replay (frozen : Bool) (acc ns nr : Nat) (fs : List Flit) (seq : BitVec 5) :
    ((s.beatOut x lane frozen acc ns nr fs seq).link x lane).replay = (s.link x lane).replay := by
  unfold State.beatOut LinkEnd.sentCounts
  dsimp only
  rw [show ∀ (t : State) (w : List Wire), ({ t with wire := w } : State).link x lane = t.link x lane from fun _ _ => rfl,
    State.setLink_link, if_pos rfl]
  split <;> rfl

/-- What the beat of a lane is. -/
theorem State.sendBeat_effect : ∃ b, (s.sendBeat x lane).wire = s.wire ++ [.beat x lane b]
    ∧ (s.beatStill x lane = true → (∃ tr, b = mkBeat [] tr) ∧ ((s.sendBeat x lane).link x lane).replay = (s.link x lane).replay)
    ∧ (s.beatStill x lane = false → ∀ e, (s.link x lane).replayNext.map (·.1) = some e → ∃ tr, b = mkBeat [e.item.flit] tr ∧ tr.lseq = e.lseq) := by
  unfold State.sendBeat
  extract_lets l ns nr acc frozen finish
  have out (t : State) (fs : List Flit) (seq : BitVec 5) (same : t.wire = s.wire) :
      ∃ tr, tr.lseq = seq ∧ (finish t fs seq).wire = s.wire ++ [.beat x lane (mkBeat fs tr)] := by
    rw [← same]
    exact State.beatOut_wire t x lane frozen acc ns nr fs seq
  by_cases still : s.beatStill x lane = true
  · rw [if_pos still]
    obtain ⟨tr, -, sent⟩ := out s [] l.last rfl
    exact ⟨_, sent, fun _ => ⟨⟨tr, rfl⟩, State.beatOut_replay s x lane frozen acc ns nr [] l.last⟩, fun no => absurd still (by rw [no]; decide)⟩
  · rw [if_neg still]
    have moves : s.beatStill x lane ≠ true := still
    cases again : l.replayNext with
    | some r =>
      obtain ⟨e, l'⟩ := r
      obtain ⟨tr, seq, sent⟩ := out (s.setLink x lane l') [e.item.flit] e.lseq rfl
      refine ⟨_, sent, fun yes => absurd yes moves, fun _ e' next => ?_⟩
      obtain rfl : e = e' := Option.some.inj next
      exact ⟨tr, rfl, seq⟩
    | none =>
      have new (t : State) (fs : List Flit) (seq : BitVec 5) (same : t.wire = s.wire) : ∃ b, (finish t fs seq).wire = s.wire ++ [.beat x lane b]
          ∧ (s.beatStill x lane = true → (∃ tr, b = mkBeat [] tr) ∧ ((finish t fs seq).link x lane).replay = (s.link x lane).replay)
          ∧ (s.beatStill x lane = false → ∀ e, Option.map (·.1) (none : Option (Replay × LinkEnd)) = some e →
            ∃ tr, b = mkBeat [e.item.flit] tr ∧ tr.lseq = e.lseq) := by
        obtain ⟨tr, -, sent⟩ := out t fs seq same
        refine ⟨_, sent, fun yes => absurd yes moves, fun _ e next => ?_⟩
        cases next
      clear_value finish
      dsimp only
      split
      · exact new s [] l.last rfl
      · rename_i q s1 first
        have one := State.nextFlit_wire first
        split
        · split
          · rename_i q2 s2 second
            exact new _ _ _ ((State.nextFlit_wire second).trans one)
          · exact new s1 _ _ one
        · exact new s1 _ _ one
end

/-! A beat received. -/

theorem reportFrom_fields (s : State) (u : Nat) (tr : Trigger) (folds : List Nat) (place : Nat) (k : TKey) :
    (s.reportFrom u tr folds place).tally k = s.tally k ∧ (s.reportFrom u tr folds place).accs = s.accs := by
  constructor
  · unfold State.reportFrom
    dsimp only
    rw [State.report_tally]
    refine foldl_tally _ (fun t f => ?_) folds s
    unfold State.sendSys
    split <;> rfl
  · simp

theorem State.freeSlot_accs (s : State) (x lane : Nat) (vc : Bool) : (s.freeSlot x lane vc).accs = s.accs :=
  State.modLink_accs s x lane _ fun l => LinkEnd.freed_acc l vc

theorem State.freeSlot_tally (s : State) (x lane : Nat) (vc : Bool) (k : TKey) : (s.freeSlot x lane vc).tally k = s.tally k := rfl

/-- The flits that a lane has accepted, and the place in the sequence of every lane, are as before. -/
structure Taken (id : Nat) (s t : State) : Prop where
  flits : t.tally ⟨.link, id, tlFlits⟩ = s.tally ⟨.link, id, tlFlits⟩
  accs : t.accs = s.accs

theorem Taken.refl (id : Nat) (s : State) : Taken id s s := ⟨rfl, rfl⟩

theorem Taken.trans {id : Nat} {s t u : State} (a : Taken id s t) (b : Taken id t u) : Taken id s u :=
  ⟨b.flits.trans a.flits, b.accs.trans a.accs⟩

theorem Taken.free (id : Nat) (s : State) (x lane : Nat) (vc : Bool) : Taken id s (s.freeSlot x lane vc) :=
  ⟨rfl, State.freeSlot_accs s x lane vc⟩

theorem Taken.count (id : Nat) (s : State) {sc : TScope} (j : Nat) {idx : Nat} (other : sc ≠ .link ∨ idx ≠ tlFlits) : Taken id s (s.count sc j idx) := by
  refine ⟨(State.count_tally s sc j idx _).trans (if_neg fun e => ?_), State.count_accs s sc j idx⟩
  obtain ⟨rfl, -, rfl⟩ := TKey.mk.inj e
  rcases other with no | no <;> exact no rfl

theorem Taken.reportFrom (id : Nat) (s : State) (u : Nat) (tr : Trigger) (folds : List Nat) (place : Nat) : Taken id s (s.reportFrom u tr folds place) :=
  ⟨(reportFrom_fields s u tr folds place _).1, (reportFrom_fields s u tr folds place ⟨.link, id, tlFlits⟩).2⟩

theorem Taken.noteStray (id : Nat) (s : State) (fold : Nat) : Taken id s (s.noteStray fold) := ⟨rfl, rfl⟩

theorem Taken.sendSys (id : Nat) (s : State) (u : Nat) (f : Flit) : Taken id s (s.sendSys u f) := by
  refine ⟨?_, State.sendSys_accs s u f⟩
  unfold State.sendSys
  split <;> rfl

theorem Taken.buffered (id : Nat) (s : State) (x lane : Nat) (vc : Bool) (b : LinkEnd → List Queued) :
    Taken id s (s.modLink x lane fun l => l.setBuf vc (b l)) :=
  ⟨rfl, State.modLink_accs s x lane _ fun l => LinkEnd.setBuf_acc l vc _⟩

theorem Taken.downLane (id : Nat) (s : State) (x lane cause : Nat) : Taken id s (s.downLane x lane cause) :=
  ⟨tally_of_marks (State.downLane_marks s x lane cause) rfl, State.downLane_accs s x lane cause⟩

theorem State.arrivePad_taken (id : Nat) (s : State) (x lane : Nat) (vc : Bool) (f : Flit) (path : List Nat) :
    Taken id s (s.arrivePad x lane vc f path) := by
  have drop := Taken.free id s x lane vc
  unfold State.arrivePad
  extract_lets n p own k fold entry q here discard violation s1
  have violates : Taken id s violation :=
    ((drop.trans (Taken.count id _ _ (.inr (by decide)))).trans (Taken.count id _ _ (.inl (by decide)))).trans (Taken.reportFrom id _ _ _ _ _)
  have lived : Taken id s s1 := by
    dsimp only [s1]
    split
    · exact ⟨rfl, rfl⟩
    · exact Taken.refl id s
  have freed := lived.trans (Taken.free id s1 x lane vc)
  split
  · exact drop.trans (Taken.count id _ _ (.inr (by decide)))
  · split
    · exact (drop.trans (Taken.count id _ _ (.inr (by decide)))).trans (Taken.noteStray id _ _)
    · split
      · exact ((drop.trans (Taken.count id _ _ (.inl (by decide)))).trans (Taken.count id _ _ (.inr (by decide)))).trans (Taken.noteStray id _ _)
      · split
        · exact violates
        · split
          · exact violates
          · split
            · exact drop.trans (Taken.count id _ _ (.inr (by decide)))
            · split
              · exact lived.trans (Taken.buffered id s1 x lane vc _)
              · exact (freed.trans (Taken.count id _ _ (.inl (by decide)))).trans (Taken.reportFrom id _ _ _ _ _)
              · exact freed.trans (Taken.count id _ _ (.inr (by decide)))

theorem State.arriveDie_taken (id : Nat) (s : State) (x lane : Nat) (vc : Bool) (f : Flit) : Taken id s (s.arriveDie x lane vc f) := by
  have drop := Taken.free id s x lane vc
  unfold State.arriveDie
  dsimp only
  split
  · exact drop.trans (Taken.count id _ _ (.inr (by decide)))
  · split
    · split
      · exact drop.trans (Taken.sendSys id _ _ _)
      · exact drop
    · exact Taken.buffered id s x lane vc _

/-- A flit that arrives is counted at its lane. -/
theorem State.arrive_effect (s : State) (x lane : Nat) (vc : Bool) (f : Flit) (path : List Nat) :
    (s.arrive x lane vc f path).tally ⟨.link, linkId x lane, tlFlits⟩ = s.tally ⟨.link, linkId x lane, tlFlits⟩ + 1
      ∧ (s.arrive x lane vc f path).accs = s.accs := by
  have counted : (s.count .link (linkId x lane) tlFlits).tally ⟨.link, linkId x lane, tlFlits⟩ = s.tally ⟨.link, linkId x lane, tlFlits⟩ + 1 := by
    simp
  have rest : Taken (linkId x lane) (s.count .link (linkId x lane) tlFlits) (s.arrive x lane vc f path) := by
    unfold State.arrive
    extract_lets s0
    have drop := Taken.free (linkId x lane) s0 x lane vc
    split
    · exact drop.trans (Taken.count _ _ _ (.inr (by decide)))
    · split
      · exact (drop.trans (Taken.count _ _ _ (.inr (by decide)))).trans (Taken.downLane _ _ _ _ _)
      · split
        · exact State.arrivePad_taken _ s0 x lane vc f path
        · exact State.arriveDie_taken _ s0 x lane vc f
  exact ⟨rest.flits.trans counted, rest.accs.trans (State.count_accs s _ _ _)⟩

/-- The flits that arrive over a lane, each counted there. -/
theorem foldl_arrive (x lane : Nat) (vc : Flit × BitVec 5 → Bool) (path : Flit × BitVec 5 → List Nat) (fs : List (Flit × BitVec 5)) (s : State) :
    (fs.foldl (fun a p => a.arrive x lane (vc p) p.1 (path p)) s).tally ⟨.link, linkId x lane, tlFlits⟩
        = s.tally ⟨.link, linkId x lane, tlFlits⟩ + BitVec.ofNat 64 fs.length
      ∧ (fs.foldl (fun a p => a.arrive x lane (vc p) p.1 (path p)) s).accs = s.accs := by
  induction fs generalizing s with
  | nil => simp
  | cons p fs ih =>
    obtain ⟨one, same⟩ := State.arrive_effect s x lane (vc p) p.1 (path p)
    obtain ⟨more, kept⟩ := ih (s.arrive x lane (vc p) p.1 (path p))
    refine ⟨more.trans ?_, kept.trans same⟩
    rw [one, List.length_cons]
    generalize s.tally ⟨.link, linkId x lane, tlFlits⟩ = v
    rw [BitVec.add_assoc, BitVec.add_comm 1]
    exact congrArg (v + ·) (BitVec.ofNat_add fs.length 1).symm

/-- What a beat that reaches an end in use does. -/
def State.beatIn (s : State) (x lane : Nat) (vc0 vc1 : Bool) (b : BeatBits) : State :=
  let l := s.link x lane
  let peer := s.link ((peerEnd x).getD 0) lane
  if !beatGood b then
    let l1 := l.badBeat (peer.resent (l.acc + 1))
    let s1 := s.setLink x lane l1
    if l1.down then s1.downLane x lane 1 else s1
  else
    let tr := beatTrailer b
    let l1 := l.takeTrailer tr
    if tr.down then (s.setLink x lane l1).downLane x lane 1
    else
      let acc := l1.acceptFlits tr (beatFlits b)
      let s1 := (s.setLink x lane acc.1).addTally .link (linkId x lane) tlTransient (acc.2.filter fun p => peer.resent p.2).length
      acc.2.foldl (fun (a : State) p =>
        let vc := if p.2 = tr.lseq then vc0 else vc1
        let path := match peer.replay.find? fun e => e.lseq = p.2 with
          | some e => e.item.path
          | none => []
        a.arrive x lane vc p.1 path) s1

theorem execBeatReceived_next (x : EndIx) (lane : Lane) (vc0 vc1 : Bool) (b : BitVec 616) (t : Time) (s : State) :
    exec (.beatReceived x lane vc0 vc1 b t) s = .next (s.event t (fun s => s.endOn x lane.val && !(s.link x lane.val).lastingDown && !s.clamped x)
      fun s => s.beatIn x lane vc0 vc1 b) := rfl

section
variable {s : State} {x lane : Nat} (vc0 vc1 : Bool) {b : BeatBits}

theorem State.setLink_own (s : State) (x lane : Nat) (l : LinkEnd) : (s.setLink x lane l).link x lane = l :=
  (State.setLink_link s x lane x lane l).trans (if_pos rfl)

theorem State.beatIn_bad (bad : beatGood b = false) {peer : LinkEnd} (eq : peer = s.link ((peerEnd x).getD 0) lane) :
    (peer.resent ((s.link x lane).acc + 1) = true → ((s.beatIn x lane vc0 vc1 b).link x lane).lastingDown = true)
      ∧ (peer.resent ((s.link x lane).acc + 1) = false → (s.link x lane).down = false →
        (s.beatIn x lane vc0 vc1 b).link x lane = { s.link x lane with nak := true }) := by
  subst eq
  unfold State.beatIn LinkEnd.badBeat
  simp only [bad, Bool.not_false, if_true]
  constructor
  · intro again
    simp only [again, if_true]
    exact State.downLane_own _ _ _ _
  · intro new up
    simp only [new, up, Bool.false_eq_true, if_false]
    exact State.setLink_own _ _ _ _

theorem State.beatIn_declared (good : beatGood b = true) (down : (beatTrailer b).down = true) :
    ((s.beatIn x lane vc0 vc1 b).link x lane).lastingDown = true := by
  unfold State.beatIn
  simp only [good, down, Bool.not_true, Bool.false_eq_true, if_false, if_true]
  exact State.downLane_own _ _ _ _

theorem acc_of_accs {s t : State} (same : t.accs = s.accs) (x lane : Nat) : (t.link x lane).acc = (s.link x lane).acc :=
  congrArg (fun a : Accs => a.acc x lane) same

theorem State.beatIn_flits (good : beatGood b = true) (on : (beatTrailer b).down = false) {l : LinkEnd} {fs : List (Flit × BitVec 5)}
    (eq : ((s.link x lane).takeTrailer (beatTrailer b)).acceptFlits (beatTrailer b) (beatFlits b) = (l, fs)) :
    ((s.beatIn x lane vc0 vc1 b).link x lane).acc = l.acc
      ∧ (s.beatIn x lane vc0 vc1 b).tally ⟨.link, linkId x lane, tlFlits⟩
        = s.tally ⟨.link, linkId x lane, tlFlits⟩ + BitVec.ofNat 64 fs.length
      ∧ (fs = [] → (s.beatIn x lane vc0 vc1 b).link x lane = l) := by
  unfold State.beatIn
  simp only [good, on, eq, Bool.not_true, Bool.false_eq_true, if_false]
  generalize counted : (s.setLink x lane l).addTally .link (linkId x lane) tlTransient _ = s1
  have link : s1.link x lane = l := by
    rw [← counted]
    simp [State.setLink_own]
  have tally : s1.tally ⟨.link, linkId x lane, tlFlits⟩ = s.tally ⟨.link, linkId x lane, tlFlits⟩ := by
    rw [← counted]
    simp [tlFlits, tlTransient]
  obtain ⟨flits, accs⟩ := foldl_arrive x lane _ _ fs s1
  refine ⟨(acc_of_accs accs x lane).trans (congrArg LinkEnd.acc link), flits.trans (by rw [tally]), ?_⟩
  rintro rfl
  exact link
end

/-- Both ends of a lane that was in use are out of use after a verdict. -/
theorem State.downLane_peer {s : State} {x lane y : Nat} (peer : peerEnd x = some y) (up : (s.link x lane).lastingDown = false) (cause : Nat) :
    ((s.downLane x lane cause).link y lane).lastingDown = true := by
  rw [State.downLane_down, up]
  simp [laneEnds, peer]

/-! Fresh routes of lane 0. -/

theorem State.reroute_lane0 (s : State) (x lane : Nat) : (s.reroute x lane).lane0 = s.lane0 := by
  unfold State.reroute
  dsimp only
  split
  · rfl
  · refine (foldl_eq State.lane0 _ _ fun a q _ => ?_).trans rfl
    split
    · rfl
    · split
      · simp
      · rfl

/-- What a new set of lane 0 routes does. -/
def State.freshRoutes (s : State) : State :=
  let s1 := { s with lane0 := [] }
  (s1.links.filter fun e => e.2.lastingDown && e.1 % 4 = 0).foldl (fun s e => s.reroute (e.1 / 4) 0) s1

theorem execLane0Precompile_next (t : Time) (s : State) :
    exec (.lane0Precompile t) s = .next (s.event t (fun s => s.active.isSome) State.freshRoutes) := rfl

theorem State.freshRoutes_lane0 (s : State) : s.freshRoutes.lane0 = [] :=
  foldl_eq State.lane0 _ _ fun a e _ => State.reroute_lane0 a _ _

/-- With no lane 0 down, nothing waits for the new routes. -/
theorem State.freshRoutes_still {s : State} (none_ : ∀ e ∈ s.links, e.2.lastingDown = true → e.1 % 4 ≠ 0) :
    s.freshRoutes = { s with lane0 := [] } := by
  have empty : (s.links.filter fun e => e.2.lastingDown && decide (e.1 % 4 = 0)) = [] := by
    rw [List.filter_eq_nil_iff]
    intro e mem down
    obtain ⟨lasting, lane⟩ := Bool.and_eq_true_iff.mp down
    exact none_ e mem lasting (of_decide_eq_true lane)
  unfold State.freshRoutes
  dsimp only
  rw [empty]
  rfl

/-- Settles O34: the sweep of a router leaves every end its line, so a beat follows from the end as it stood; what a flit does on arrival
counts it at its lane alone and leaves every place in the sequence. -/
theorem linksReplayOrGoDown : Obligations.LinksReplayOrGoDown := by
  unfold Obligations.LinksReplayOrGoDown
  refine ⟨fun x lane t s running on => ?_, fun x lane vc0 vc1 b peer t s running on up open_ bad eq => ?_,
    fun x lane vc0 vc1 b t s running on up open_ good down => ?_, fun x lane vc0 vc1 b l fs t s running on up open_ good sound eq => ?_,
    fun x lane t s running on up => ?_, fun x lane t s running on again => ?_, fun x lane t s running on up => ?_, fun t s running awake => ?_⟩
  · obtain ⟨w, kept, eq⟩ : ∃ w, Swept (s.tick t) w ∧ (if x < 5376 then (s.tick t).sweepRouter (x / 4) else s.tick t) = w := by
      refine ⟨_, ?_, rfl⟩
      split
      · exact State.sweepRouter_swept _ _
      · exact Swept.refl _
    obtain ⟨b, wire, still, next⟩ := State.sendBeat_effect w x lane
    rw [execLinkBeatSend_next]
    refine ⟨_, b, congrArg Host.Outcome.next ((State.event_fires running on).trans (congrArg (fun s : State => s.sendBeat x lane) eq)),
      wire.trans (congrArg (· ++ _) kept.wire), ?_, ?_, ?_, ?_⟩
    · intro down
      have quiet : w.beatStill x lane = true := by
        have : (w.link x lane).lastingDown = true := (kept.down x lane).trans down
        simp [State.beatStill, this]
      exact ⟨(still quiet).1, (still quiet).2.trans (kept.replay x lane)⟩
    · intro fold low hurdled
      refine (still ?_).1
      have : (w.pad (x / 4)).hurdled = true := (kept.hurdled _).trans hurdled
      simp [State.beatStill, this, low, show (lane : Nat) ≠ 0 from fold]
    · intro gated slow
      refine (still ?_).1
      have gate : w.gated x ((peerEnd x).getD 0) = true := (kept.gated _ _).trans gated
      have late : (w.link x lane).pace.getD (w.endN x) < w.endN x := by
        rw [kept.pace, kept.endN]
        exact slow
      simp [State.beatStill, gate, late]
    · intro e l replay up free paced
      refine next ?_ e ((kept.replayNext x lane).trans (congrArg (Option.map (·.1)) replay))
      have upw : (w.link x lane).lastingDown = false := (kept.down x lane).trans up
      have hurdle : (decide ((lane : Nat) ≠ 0) && decide (x < 8192) && (w.pad (x / 4)).hurdled) = false := by
        rw [kept.hurdled]
        rcases free with free | free | free
        · simp [free]
        · simp [Nat.not_lt.mpr free]
        · exact (Bool.and_eq_false_iff.mpr (.inr free) :)
      have pace : (w.gated x ((peerEnd x).getD 0) && decide ((w.link x lane).pace.getD (w.endN x) < w.endN x)) = false := by
        rw [kept.gated, kept.pace, kept.endN]
        rcases paced with free | fast
        · exact (Bool.and_eq_false_iff.mpr (.inl free) :)
        · refine Bool.and_eq_false_iff.mpr (.inr (decide_eq_false ?_))
          exact Nat.not_lt.mpr fast
      unfold State.beatStill
      simp only [upw, hurdle, pace, Bool.or_false]
  · rw [execBeatReceived_next]
    refine event_next running ?_ (State.beatIn_bad (s := s.tick t) vc0 vc1 bad eq)
    exact Bool.and_eq_true_iff.mpr ⟨Bool.and_eq_true_iff.mpr ⟨on, (Bool.not_eq_true' _).mpr up⟩, (Bool.not_eq_true' _).mpr open_⟩
  · rw [execBeatReceived_next]
    refine event_next running ?_ (State.beatIn_declared vc0 vc1 good down)
    exact Bool.and_eq_true_iff.mpr ⟨Bool.and_eq_true_iff.mpr ⟨on, (Bool.not_eq_true' _).mpr up⟩, (Bool.not_eq_true' _).mpr open_⟩
  · rw [execBeatReceived_next]
    refine event_next running ?_ (State.beatIn_flits (s := s.tick t) vc0 vc1 good sound eq)
    exact Bool.and_eq_true_iff.mpr ⟨Bool.and_eq_true_iff.mpr ⟨on, (Bool.not_eq_true' _).mpr up⟩, (Bool.not_eq_true' _).mpr open_⟩
  · exact event_next running (Bool.and_eq_true_iff.mpr ⟨on, (Bool.not_eq_true' _).mpr up⟩) (State.setLink_own _ _ _ _)
  · refine event_next running (Bool.and_eq_true_iff.mpr ⟨on, again⟩) ⟨State.downLane_own _ _ _ _, fun y peer up => ?_⟩
    exact State.downLane_peer (s := s.tick t) peer up 1
  · refine event_next running (Bool.and_eq_true_iff.mpr ⟨on, (Bool.not_eq_true' _).mpr up⟩) ⟨State.downLane_own _ _ _ _, fun y peer => ?_⟩
    exact State.downLane_peer (s := s.tick t) peer up 1
  · rw [execLane0Precompile_next]
    exact event_next running awake ⟨State.freshRoutes_lane0 _, fun none_ => State.freshRoutes_still (s := s.tick t) none_⟩

end Sys2Proof.Machine

/-! Self-refresh of a memory edge die (O37). -/
namespace Sys2Proof.Machine

open Sys2Proof

/-- A die already in doubt whose write queue holds a write that no place in the order is above. -/
def lateWriteMed : Med := { Med.initial with doubt := true, wq := [⟨0, 0, HbmBlock.empty⟩] }

/-- The engine out of reset with that die as MED 0. -/
def lateWrite : State :=
  { State.reset with resetN := false, meds := lateWriteMed :: List.replicate 11 Med.initial }

theorem lateWrite_sized : lateWrite.sized := ⟨rfl, rfl, rfl, rfl⟩

/-- At 105 °C the die enters self-refresh with the write still queued. -/
theorem lateWrite_kept : ∃ u, exec (.stackTempRead 0 ⟨105, 0⟩ 0) lateWrite = .next u ∧ (u.med 0).wq = lateWriteMed.wq :=
  ⟨_, rfl, rfl⟩

/-- Refutes O37: the self-refresh of R390 writes out the writes whose place in the order is below the next one, and the clause asks of every
state that none is left; with a write at a place not below it the queue is not empty. -/
theorem not_medsServeAndScrub : ¬ Obligations.MedsServeAndScrub := by
  unfold Obligations.MedsServeAndScrub
  rintro ⟨-, -, -, cool, -⟩
  obtain ⟨u, ran, -, trips, -⟩ := cool 0 105 0 0 lateWrite lateWrite_sized rfl
  obtain ⟨v, ran', kept⟩ := lateWrite_kept
  obtain rfl : u = v := Host.Outcome.next.inj (ran.symm.trans ran')
  obtain ⟨-, -, empty⟩ := trips (by decide) rfl
  exact absurd (kept.symm.trans empty) (by decide)

end Sys2Proof.Machine

/-! A fold that grows by a context slot (O41). -/
namespace Sys2Proof.Machine

open Sys2Proof

/-- A running fold. -/
def growingFold : Fold := { emptyFold with st := .running }

/-- A flit of that fold. -/
def growingFlit : Flit := { sysFlit ftData 0 0 0 0 with fold := 1 }

/-- CON0 is logged in, and the router of paddock 0, which nobody holds, still has a flit of the fold. -/
def growing : State :=
  { State.reset with
    resetN := false, active := some 0, boot := { Boot.initial with phase := .ready }
    sess := [{ CSess.initial true with up := true, login := .loggedIn [] .admin }], folds := [growingFold]
    links := [(linkKey (padEnd 0 0) 1, { LinkEnd.initial with buf0 := [⟨growingFlit, false, false, [], 0⟩] })] }

/-- `resize fold` adds slot 0 of paddock 0. -/
def growth : ResizeArgs := { add := [.slot 0 0 0], remove := [], pages := [], dropPages := [], squota := none, cpages := none }

theorem growing_accepts : growing.accepts consoleLine .operate false :=
  ⟨by decide, by decide, ⟨[], .admin, rfl, by decide⟩, .inr rfl, .inl rfl⟩

theorem growth_allowed : ∀ c ∈ (growing.atLine consoleLine).resizeRefusals growingFold growth, c.1 = false := by
  decide +kernel

theorem growth_leased : (growing.atLine consoleLine).leaseAll 1 (growth.asks growingFold) = some ([], growing.atLine consoleLine) := rfl

/-- The flit is a stray of the fold when the slot is sheared for it, and the fold notes the moment. -/
theorem growing_strays : ∃ u, exec (.resizeFold 1 growth consoleLine) growing = .next u
    ∧ (u.foldOf 1).map (fun f => f.strayed.isSome) = some true := by
  refine ⟨_, rfl, ?_⟩
  decide +kernel

/-- Refutes O41: a slot added to a fold is sheared, and a flit of the fold that its router still held is a stray, whose moment the fold
notes (R427, R513); the clause of `resize fold` has it keep the moment it had. -/
theorem not_foldsAreCreatedAndReleased : ¬ Obligations.FoldsAreCreatedAndReleased := by
  unfold Obligations.FoldsAreCreatedAndReleased
  rintro ⟨-, resize, -⟩
  obtain ⟨u, ran, kept, -⟩ := resize 1 growingFold growth [] _ consoleLine growing growing_accepts rfl growth_allowed growth_leased
  obtain ⟨v, ran', strays⟩ := growing_strays
  obtain rfl : u = v := Host.Outcome.next.inj (ran.symm.trans ran')
  rw [kept (by decide)] at strays
  exact absurd strays (by decide +kernel)

end Sys2Proof.Machine

/-! The dock and the issue of a paddock (O35). -/
namespace Sys2Proof.Machine

open Sys2Proof

/-! The dock. -/

/-- What the dock keeps of a paddock: its ic, its mask and what its tiles have put out. -/
structure Docked (n : Nat) (s t : State) : Prop where
  ic : (t.pad n).ic = (s.pad n).ic
  masked : (s.pad n).masked = true → (t.pad n).masked = true
  outlet : ∀ e, (tabGet Tile.initial (t.pad n).fine e).outlet = (tabGet Tile.initial (s.pad n).fine e).outlet

theorem Docked.refl (n : Nat) (s : State) : Docked n s s := ⟨rfl, id, fun _ => rfl⟩

theorem Docked.trans {n : Nat} {s t u : State} (a : Docked n s t) (b : Docked n t u) : Docked n s u :=
  ⟨b.ic.trans a.ic, fun m => b.masked (a.masked m), fun e => (b.outlet e).trans (a.outlet e)⟩

theorem Docked.of_pad {n : Nat} {s t : State} (same : t.pad n = s.pad n) : Docked n s t :=
  ⟨congrArg Paddock.ic same, fun m => (congrArg Paddock.masked same).trans m, fun e => by rw [same]⟩

/-- A paddock written anew with the same ic, mask and outlets. -/
theorem Docked.setPad {n : Nat} {s : State} {p : Paddock} (ic : p.ic = (s.pad n).ic) (masked : (s.pad n).masked = true → p.masked = true)
    (outlet : ∀ e, (tabGet Tile.initial p.fine e).outlet = (tabGet Tile.initial (s.pad n).fine e).outlet) : Docked n s (s.setPad n p) := by
  have own : (s.setPad n p).pad n = p := (State.setPad_pad s n n p).trans (if_pos rfl)
  constructor
  · rw [own, ic]
  · rw [own]
    exact masked
  · rw [own]
    exact outlet

theorem Docked.count (n : Nat) (s : State) (sc : TScope) (id idx : Nat) : Docked n s (s.count sc id idx) :=
  Docked.of_pad (by simp)

theorem Docked.report (n : Nat) (s : State) (tr : Trigger) (folds : List Nat) (place : Nat) : Docked n s (s.report tr folds place) :=
  Docked.of_pad (by simp)

theorem Docked.sendSys (n : Nat) (s : State) (u : Nat) (f : Flit) : Docked n s (s.sendSys u f) := by
  unfold State.sendSys
  split
  · by_cases own : n = u
    · subst own
      exact Docked.setPad rfl id fun _ => rfl
    · exact Docked.of_pad ((State.modPad_pad _ _ _ _).trans (if_neg own))
  · exact Docked.of_pad rfl

theorem Docked.reportFrom (n : Nat) (s : State) (u : Nat) (tr : Trigger) (folds : List Nat) (place : Nat) :
    Docked n s (s.reportFrom u tr folds place) :=
  (foldl_inv (P := Docked n s) folds (Docked.refl n s) fun t _ kept => kept.trans (Docked.sendSys n t u _)).trans (Docked.report n _ tr folds place)

theorem Paddock.maskFolds_kept (p : Paddock) (folds : List Nat) :
    (p.maskFolds folds).ic = p.ic ∧ (p.masked = true → (p.maskFolds folds).masked = true) ∧ (p.maskFolds folds).fine = p.fine := by
  unfold Paddock.maskFolds
  split
  · exact ⟨rfl, fun _ => rfl, rfl⟩
  · exact ⟨rfl, id, rfl⟩

theorem Docked.maskFolds (n : Nat) (s : State) (folds : List Nat) : Docked n s (s.modPad n fun p => p.maskFolds folds) := by
  obtain ⟨ic, masked, fine⟩ := (s.pad n).maskFolds_kept folds
  exact Docked.setPad ic masked fun e => by rw [fine]

theorem Docked.memStatus (n : Nat) (s : State) (f : Flit) : Docked n s (s.memStatus n f) := by
  unfold State.memStatus
  dsimp only
  split
  · exact Docked.refl n s
  · exact (Docked.maskFolds n s _).trans (Docked.reportFrom n _ _ _ _ _)

/-- A flit that enters the dock is put at an inlet, and nothing that the dock keeps changes. -/
theorem State.dockIn_docked {s t : State} {n : Nat} {f : Flit} (taken : s.dockIn n f = some t) : Docked n s t := by
  unfold State.dockIn at taken
  extract_lets at taken
  split at taken
  · obtain rfl := Option.some.inj taken
    exact Docked.sendSys n s n _
  · split at taken
    · cases taken
    · split at taken
      · obtain rfl := Option.some.inj taken
        exact (Docked.count n s .fold f.fold.toNat tfStray).trans (Docked.of_pad rfl)
      · split at taken
        · split at taken
          · obtain rfl := Option.some.inj taken
            refine Docked.trans ?_ (Docked.memStatus n _ f)
            refine Docked.setPad rfl id fun e => ?_
            show (tabGet Tile.initial (tabSet Tile.initial (s.pad n).fine f.endpt.toNat _) e).outlet = _
            rw [tabGet_set]
            split
            · rename_i own
              rw [own]
            · rfl
          · cases taken
        · split at taken
          · split at taken
            · cases taken
            · obtain rfl := Option.some.inj taken
              exact Docked.setPad rfl id fun _ => rfl
          · split at taken
            · obtain rfl := Option.some.inj taken
              exact Docked.setPad rfl id fun _ => rfl
            · split at taken
              · split at taken
                · obtain rfl := Option.some.inj taken
                  exact Docked.setPad rfl id fun _ => rfl
                · cases taken
              · split at taken
                · obtain rfl := Option.some.inj taken
                  exact Docked.setPad rfl id fun _ => rfl
                · cases taken

theorem Docked.dockTake (n : Nat) (s : State) (h : DockHead) : Docked n s (s.dockTake n h) := by
  cases h with
  | buf x lane vc f => exact Docked.of_pad rfl
  | own q => exact Docked.setPad rfl id fun _ => rfl

theorem State.dockFill_docked (s : State) (n : Nat) (used : List Nat) (hs : List DockHead) : Docked n s (s.dockFill n used hs) := by
  induction hs generalizing s used with
  | nil => exact Docked.refl n s
  | cons h hs ih =>
    unfold State.dockFill
    dsimp only
    split
    · exact ih s used
    · cases taken : s.dockIn n h.flit with
      | none => exact ih s used
      | some t => exact ((State.dockIn_docked taken).trans (Docked.dockTake n t h)).trans (ih _ _)

theorem State.dockRefuse_docked (s : State) (n : Nat) : Docked n s (s.dockRefuse n) :=
  foldl_inv (P := Docked n s) _ (Docked.refl n s) fun t q kept => by
    split
    · exact (kept.trans (Docked.dockTake n t (.own q))).trans (Docked.count n _ _ _ _)
    · exact kept

theorem Paddock.dockDrain_ic (fine : Bool) (p : Paddock) : (p.dockDrain fine).ic = p.ic := by
  have band (p : Paddock) (b : Nat) : (p.drainBand b).ic = p.ic := by
    unfold Paddock.drainBand
    split
    · rfl
    · dsimp only
      split <;> rfl
  have coarse (i : Nat) (p : Paddock) : (p.drainCoarse i).ic = p.ic := by
    induction i generalizing p with
    | zero => rfl
    | succ i ih =>
      unfold Paddock.drainCoarse
      split
      · rfl
      · split
        · rfl
        · exact ih _
  unfold Paddock.dockDrain
  split
  · exact foldl_eq Paddock.ic _ _ fun p b _ => band p b
  · exact coarse 4 p

/-- What one ic of the dock does. -/
def State.dockIc (s : State) (n : Nat) : State :=
  let s0 := s.dockRefuse n
  let own := ((s0.pad n).outbox.filter fun q => s0.isLocal n 1 q).map DockHead.own
  let s1 := s0.dockFill n [] ((s0.localHeads n).map (fun h => DockHead.buf h.1 h.2.1 h.2.2.1 h.2.2.2) ++ own)
  if (s1.pad n).masked then s1 else s1.modPad n (Paddock.dockDrain (isFine n))

theorem execDockTransfer_next (n : Pad) (t : Time) (s : State) :
    exec (.dockTransfer n t) s
      = .next (s.event t (fun s => (s.pad n.val).power = .run && !(s.pad n.val).clockLost) fun s => s.dockIc n.val) := rfl

theorem State.dockIc_effect (s : State) (n : Nat) : ((s.dockIc n).pad n).ic = (s.pad n).ic
    ∧ ((s.pad n).masked = true → ∀ e, (tabGet Tile.initial ((s.dockIc n).pad n).fine e).outlet = (tabGet Tile.initial (s.pad n).fine e).outlet) := by
  unfold State.dockIc
  extract_lets s0 own s1
  have kept : Docked n s s1 := (State.dockRefuse_docked s n).trans (State.dockFill_docked s0 n [] _)
  constructor
  · split
    · exact kept.ic
    · rw [State.modPad_pad, if_pos rfl, Paddock.dockDrain_ic]
      exact kept.ic
  · intro masked
    rw [if_pos (kept.masked masked)]
    exact kept.outlet

/-- With nothing at the LOCAL port, the dock only moves the outlets on. -/
theorem State.dockIc_quiet {s : State} {n : Nat} (heads : s.localHeads n = []) (none_ : (s.pad n).outbox = []) :
    (s.dockIc n).pad n = if (s.pad n).masked then s.pad n else (s.pad n).dockDrain (isFine n) := by
  have still : s.dockRefuse n = s := by
    unfold State.dockRefuse
    rw [none_]
    rfl
  unfold State.dockIc
  simp only [still, heads, none_, List.filter_nil, List.map_nil, List.append_nil, State.dockFill]
  split
  · rfl
  · exact (State.modPad_pad s n n _).trans (if_pos rfl)

/-! Issue. -/

/-- The turn of a context moves the position and the ic alone. -/
theorem Paddock.turn_kept {p q : Paddock} {k : Option Nat} (turn : p.turn = (k, q)) : q = { p with pos := q.pos, ic := p.ic + 1 } := by
  unfold Paddock.turn at turn
  dsimp only at turn
  split at turn <;> obtain ⟨-, rfl⟩ := Prod.mk.inj turn <;> rfl

theorem Paddock.turn_ic (p : Paddock) : p.turn.2.ic = p.ic + 1 := by
  rw [Paddock.turn_kept (p := p) (q := p.turn.2) (k := p.turn.1) rfl]

theorem Paddock.setCtx_own {p : Paddock} {k : Nat} (in_ : k < p.ctxs.length) (c : PCtx) : (p.setCtx k c).ctx k = c := by
  unfold Paddock.setCtx Paddock.ctx
  rw [listSet_getD, if_pos ⟨rfl, in_⟩]

theorem Paddock.retireCheck_counts (p : Paddock) (fine : Bool) {k : Nat} (in_ : k < p.ctxs.length) :
    ((p.retireCheck fine k).ctx k).t = (p.ctx k).t ∧ ((p.retireCheck fine k).ctx k).slips = (p.ctx k).slips
      ∧ (p.retireCheck fine k).ic = p.ic := by
  have either (b : Bool) : ((if b then p.setCtx k { p.ctx k with st := .retiring } else p).ctx k).t = (p.ctx k).t
      ∧ ((if b then p.setCtx k { p.ctx k with st := .retiring } else p).ctx k).slips = (p.ctx k).slips
      ∧ (if b then p.setCtx k { p.ctx k with st := .retiring } else p).ic = p.ic := by
    cases b
    · exact ⟨rfl, rfl, rfl⟩
    · rw [if_pos rfl, Paddock.setCtx_own in_]
      exact ⟨rfl, rfl, rfl⟩
  exact either _

theorem State.setPad_own (s : State) (n : Nat) (p : Paddock) : (s.setPad n p).pad n = p := (State.setPad_pad s n n p).trans (if_pos rfl)

theorem State.modPad_own (s : State) (n : Nat) (f : Paddock → Paddock) : (s.modPad n f).pad n = f (s.pad n) := State.setPad_own s n _

theorem State.addTally_pad (s : State) (sc : TScope) (id idx m n : Nat) : (s.addTally sc id idx m).pad n = s.pad n := by
  simp

theorem State.count_pad (s : State) (sc : TScope) (id idx n : Nat) : (s.count sc id idx).pad n = s.pad n :=
  State.addTally_pad s sc id idx 1 n

theorem State.sendSys_reports (s : State) (u : Nat) (f : Flit) : (s.sendSys u f).reports = s.reports ∧ (s.sendSys u f).now = s.now := by
  unfold State.sendSys
  split <;> exact ⟨rfl, rfl⟩

/-- What a paddock in doubt reports, and what it leaves of its contexts. -/
theorem State.padDoubt_effect (s : State) (n fold : Nat) (tr : Trigger) : (s.padDoubt n fold tr).faultN = true
    ∧ (s.padDoubt n fold tr).reports = s.reports ++ [⟨tr, [fold], n, s.now⟩] ∧ ((s.padDoubt n fold tr).pad n).ctxs = (s.pad n).ctxs
    ∧ ((s.padDoubt n fold tr).pad n).ic = (s.pad n).ic := by
  unfold State.padDoubt State.reportFrom
  dsimp only [List.foldl_cons, List.foldl_nil]
  generalize masked : s.modPad n (fun p => p.maskFolds [fold]) = s1
  obtain ⟨reports, now⟩ := State.sendSys_reports s1 n (sysFlit ftReport s1.me (shcDest (s1.active.getD 0)) 0 (Config.reportPayload fold n))
  have sent : ((s1.sendSys n (sysFlit ftReport s1.me (shcDest (s1.active.getD 0)) 0 (Config.reportPayload fold n))).pad n).ctxs = (s.pad n).ctxs
      ∧ ((s1.sendSys n (sysFlit ftReport s1.me (shcDest (s1.active.getD 0)) 0 (Config.reportPayload fold n))).pad n).ic = (s.pad n).ic := by
    have own : (s1.pad n).ctxs = (s.pad n).ctxs ∧ (s1.pad n).ic = (s.pad n).ic := by
      rw [← masked, State.modPad_own]
      unfold Paddock.maskFolds
      split <;> exact ⟨rfl, rfl⟩
    rw [← own.1, ← own.2]
    unfold State.sendSys
    split
    · rw [State.modPad_own]
      exact ⟨rfl, rfl⟩
    · exact ⟨rfl, rfl⟩
  unfold State.report
  refine ⟨rfl, ?_, sent.1, sent.2⟩
  show State.reports _ ++ _ = _
  rw [reports, now, ← masked]
  rfl

/-- A slip is counted against the context, unless a paddock of its fold is hurdled. -/
theorem State.slip_effect {s : State} {n k : Nat} (in_ : k < (s.pad n).ctxs.length) (fold : Nat) (fine : Bool) (c : SlipCause) :
    (((s.slip n k fold fine c).pad n).ctx k).t = ((s.pad n).ctx k).t ∧ ((s.slip n k fold fine c).pad n).ic = (s.pad n).ic
      ∧ (s.anyHurdled fold = false → (((s.slip n k fold fine c).pad n).ctx k).slips = ((s.pad n).ctx k).slips + 1) := by
  unfold State.slip
  dsimp only
  rw [State.modPad_own, State.count_pad, State.count_pad, Paddock.setCtx_own in_]
  refine ⟨rfl, rfl, fun free => ?_⟩
  rw [free]
  rfl

/-- A paddock's turn leaves the question of whether a fold is hurdled. -/
theorem State.anyHurdled_setPad {s : State} {n : Nat} {p : Paddock} (same : p.hurdled = (s.pad n).hurdled) (fold : Nat) :
    (s.setPad n p).anyHurdled fold = s.anyHurdled fold := by
  have pads (m : Nat) : ((s.setPad n p).pad m).hurdled = (s.pad m).hurdled := by
    rw [State.setPad_pad]
    split
    · rename_i own
      rw [same, own]
    · rfl
  unfold State.anyHurdled
  rw [show (s.setPad n p).foldOf fold = s.foldOf fold from rfl]
  simp only [pads]

theorem State.anyHurdled_addTally (s : State) (sc : TScope) (id idx m fold : Nat) : (s.addTally sc id idx m).anyHurdled fold = s.anyHurdled fold := by
  unfold State.addTally
  split <;> rfl

section
variable (s : State) (v : Time) (x : List (TKey × DWord))

/-! What a flit finds on its way does not depend on the moment or the tallies. -/

theorem lane0Near_tallies (known : Bool) (n i : Nat) (front seen : List Nat) :
    ({ s with now := v, tallies := x } : State).lane0Near known n i front seen = s.lane0Near known n i front seen := by
  induction i generalizing front seen with
  | zero => rfl
  | succ i ih =>
    unfold State.lane0Near
    rw [show ({ s with now := v, tallies := x } : State).lane0Front known front seen = s.lane0Front known front seen from rfl]
    simp only [ih]

theorem lane0Dir_tallies (n dest : Nat) : ({ s with now := v, tallies := x } : State).lane0Dir n dest = s.lane0Dir n dest := by
  unfold State.lane0Dir
  simp only [lane0Near_tallies]
  rfl

theorem wayFor_tallies (e lane : Nat) (q : Queued) : ({ s with now := v, tallies := x } : State).wayFor e lane q = s.wayFor e lane q := by
  unfold State.wayFor
  simp only [lane0Dir_tallies]
  rfl

theorem routeAt_tallies (n lane : Nat) (q : Queued) : ({ s with now := v, tallies := x } : State).routeAt n lane q = s.routeAt n lane q := by
  unfold State.routeAt
  simp only [lane0Dir_tallies]
  rfl

theorem outFor_tallies (n : Nat) (o : Nat × Nat × Queued) : ({ s with now := v, tallies := x } : State).outFor n o = s.outFor n o := by
  unfold State.outFor
  simp only [wayFor_tallies]
  rfl

theorem firstLink_tallies (n : Nat) (f : Flit) : ({ s with now := v, tallies := x } : State).firstLink n f = s.firstLink n f := by
  unfold State.firstLink
  simp only [routeAt_tallies, outFor_tallies]

theorem keptCredits_tallies (e lane : Nat) (vc : Bool) : ({ s with now := v, tallies := x } : State).keptCredits e lane vc = s.keptCredits e lane vc := by
  unfold State.keptCredits
  simp only [firstLink_tallies]
  rfl

theorem creditsFor_tallies (n : Nat) : ({ s with now := v, tallies := x } : State).creditsFor n = s.creditsFor n := by
  funext fs
  unfold State.creditsFor
  simp only [funext (firstLink_tallies s v x n), keptCredits_tallies]
  rfl

theorem localHeads_tallies (n : Nat) : ({ s with now := v, tallies := x } : State).localHeads n = s.localHeads n := by
  have same (lane : Nat) (q : Queued) : ({ s with now := v, tallies := x } : State).isLocal n lane q = s.isLocal n lane q := by
    unfold State.isLocal
    rw [routeAt_tallies]
  unfold State.localHeads
  simp only [same]
  rfl
end

theorem State.addTally_setPad_creditsFor (s : State) (sc : TScope) (id idx m n : Nat) (p : Paddock) :
    ((s.addTally sc id idx m).setPad n p).creditsFor n = (s.setPad n p).creditsFor n := by
  unfold State.addTally
  split
  · rfl
  · exact creditsFor_tallies (s.setPad n p) s.now _ n

theorem State.addTally_me (s : State) (sc : TScope) (id idx m : Nat) : (s.addTally sc id idx m).me = s.me := by
  simp [State.me]

/-! An F-paddock. -/

/-- What an ic of an F-paddock leaves of its tiles, with the flits that the granted context has sent. -/
def State.fineSettle (s : State) (n : Nat) (p : Paddock) (k : Option Nat) (tiles : Tab Tile) (sent : List (Nat × Nat × Word)) : State :=
  let excl := decide (p.excl ≠ 0)
  let moved := fineMove p.fine tiles p.ic excl (k.getD 0) sent
  let drops := (moved.map fun e => e.2.crookDrops).sum
  (s.addTally .paddock n tdCrook drops).modPad n fun q =>
    { q with fine := tabMap Tile.initial moved fun _ e => { e with crookDrops := 0 } }

/-- The context that a turn grants, as the tiles see it. -/
def State.fineSees (s : State) (p : Paddock) (k : Nat) : FineCtx :=
  ⟨k, fwII (p.ctx k).word, fwScrBase (p.ctx k).word, fwScrSize (p.ctx k).word, (p.ctx k).t, p.ic, decide (p.excl ≠ 0), p.foldAt k,
    (p.ctx k).epoch, s.me, s.movesOf (p.foldAt k)⟩

/-- What the turn of a context does in an F-paddock. -/
def State.fineTurn (s : State) (n : Nat) (p : Paddock) (k : Nat) (fault : IcFault) : State :=
  let s1 := (s.addTally .paddock n tdEccCorrected fault.corrected).setPad n p
  let c := p.ctx k
  let fold := p.foldAt k
  if fault.fatal then (s1.padDoubt n fold .tileEcc).fineSettle n p (some k) p.fine []
  else if !p.granted k then s1.fineSettle n p (some k) p.fine []
  else
    match fineGranted p.fine (s1.fineSees p k) (s1.creditsFor n) with
    | .slip cause => (s1.slip n k fold true cause).fineSettle n p (some k) p.fine []
    | .issued tiles sent closed =>
      let asks := (closed.filter fun f => f.typ = ftMemReq).map fun f => (mrRendpt f, f.tag.toNat, if mrOp f = 0 then mrUnits f else 256)
      let s2 := s1.modPad n fun q => (q.setCtx k { c with t := c.t + 1, slips := 0, mem := c.mem ++ asks }).retireCheck true k
      s2.fineSettle n p (some k) tiles sent

/-- One ic of an F-paddock. -/
def State.fineIc (s : State) (n : Nat) (fault : IcFault) : State :=
  match (s.pad n).turn with
  | (none, p) => ((s.addTally .paddock n tdEccCorrected fault.corrected).setPad n p).fineSettle n p none p.fine []
  | (some k, p) => s.fineTurn n p k fault

theorem execFineIssueCycle_next (n : Pad) (fault : IcFault) (t : Time) (s : State) :
    exec (.fineIssueCycle n fault t) s
      = .next (s.event t (fun s => isFine n.val && (s.pad n.val).power = .run && !(s.pad n.val).clockLost) fun s => s.fineIc n.val fault) := by
  have eq : (fun s : State => s.fineIc n.val fault) = fun s : State =>
      match (s.pad n.val).turn.1 with
      | none => ((s.addTally .paddock n tdEccCorrected fault.corrected).setPad n (s.pad n.val).turn.2).fineSettle n (s.pad n.val).turn.2
        (s.pad n.val).turn.1 (s.pad n.val).turn.2.fine []
      | some k => s.fineTurn n (s.pad n.val).turn.2 k fault := by
    funext s
    unfold State.fineIc
    rcases (s.pad n.val).turn with ⟨k | _, p⟩ <;> rfl
  rw [eq]
  show execFineIssueCycle n fault t s = _
  unfold execFineIssueCycle
  congr 2
  funext s
  dsimp only
  cases turn : (s.pad n.val).turn.1 with
  | none => rfl
  | some k =>
    dsimp only
    unfold State.fineTurn
    dsimp only
    rfl

theorem State.fineSettle_kept (s : State) (n : Nat) (p : Paddock) (k : Option Nat) (tiles : Tab Tile) (sent : List (Nat × Nat × Word)) :
    (s.fineSettle n p k tiles sent).faultN = s.faultN ∧ (s.fineSettle n p k tiles sent).reports = s.reports
      ∧ ((s.fineSettle n p k tiles sent).pad n).ctxs = (s.pad n).ctxs ∧ ((s.fineSettle n p k tiles sent).pad n).ic = (s.pad n).ic := by
  unfold State.fineSettle
  dsimp only
  rw [State.modPad_own, State.addTally_pad]
  exact ⟨by simp, by simp, rfl, rfl⟩

theorem ctx_of_ctxs {p q : Paddock} (same : p.ctxs = q.ctxs) (k : Nat) : p.ctx k = q.ctx k :=
  congrArg (fun l => l.getD k PCtx.initial) same

section
variable {s : State} {n k : Nat} {p : Paddock} (turn : (s.pad n).turn = (some k, p)) (fault : IcFault)
include turn

theorem State.fineIc_turn : s.fineIc n fault = s.fineTurn n p k fault := by
  unfold State.fineIc
  rw [turn]

theorem turn_ctxs : p.ctxs = (s.pad n).ctxs := by
  rw [Paddock.turn_kept turn]

theorem turn_hurdled : p.hurdled = (s.pad n).hurdled := by
  rw [Paddock.turn_kept turn]

theorem State.fineTurn_fatal {fault : IcFault} (fatal : fault.fatal = true) : (s.fineIc n fault).faultN = true
    ∧ (s.fineIc n fault).reports = s.reports ++ [⟨.tileEcc, [p.foldAt k], n, s.now⟩] := by
  rw [State.fineIc_turn turn]
  unfold State.fineTurn
  dsimp only
  rw [if_pos fatal]
  generalize at_ : (s.addTally .paddock n tdEccCorrected fault.corrected).setPad n p = s1
  obtain ⟨held, reports, -⟩ := State.padDoubt_effect s1 n (p.foldAt k) .tileEcc
  obtain ⟨same, listed, -⟩ := (s1.padDoubt n (p.foldAt k) .tileEcc).fineSettle_kept n p (some k) p.fine []
  refine ⟨same.trans held, listed.trans (reports.trans ?_)⟩
  rw [← at_]
  simp

theorem State.fineTurn_granted {fault : IcFault} (sound : fault.fatal = false) (granted : p.granted k = true) (in_ : k < (s.pad n).ctxs.length) :
    match fineGranted p.fine (s.fineSees p k) ((s.setPad n p).creditsFor n) with
    | .issued _ _ _ => (((s.fineIc n fault).pad n).ctx k).t = ((s.pad n).ctx k).t + 1 ∧ (((s.fineIc n fault).pad n).ctx k).slips = 0
    | .slip _ => (((s.fineIc n fault).pad n).ctx k).t = ((s.pad n).ctx k).t
        ∧ (s.anyHurdled (p.foldAt k) = false → (((s.fineIc n fault).pad n).ctx k).slips = ((s.pad n).ctx k).slips + 1) := by
  have same : p.ctx k = (s.pad n).ctx k := ctx_of_ctxs (turn_ctxs turn) k
  have inp : k < p.ctxs.length := lt_of_lt_of_eq in_ (congrArg List.length (turn_ctxs turn)).symm
  rw [State.fineIc_turn turn]
  unfold State.fineTurn
  dsimp only
  rw [if_neg (by rw [sound]; decide), if_neg (by rw [granted]; decide), State.addTally_setPad_creditsFor]
  rw [show ((s.addTally .paddock n tdEccCorrected fault.corrected).setPad n p).fineSees p k = s.fineSees p k by
    simp [State.fineSees, State.me, State.movesOf]]
  have own := State.setPad_own (s.addTally .paddock n tdEccCorrected fault.corrected) n p
  have free : ((s.addTally .paddock n tdEccCorrected fault.corrected).setPad n p).anyHurdled (p.foldAt k) = s.anyHurdled (p.foldAt k) := by
    rw [State.anyHurdled_setPad (by rw [State.addTally_pad]; exact turn_hurdled turn), State.anyHurdled_addTally]
  generalize (s.addTally .paddock n tdEccCorrected fault.corrected).setPad n p = s1 at own free ⊢
  cases fineGranted p.fine (s.fineSees p k) ((s.setPad n p).creditsFor n) with
  | slip cause =>
    obtain ⟨time, -, slips⟩ := State.slip_effect (s := s1) (n := n) (k := k) (by rw [own]; exact inp) (p.foldAt k) true cause
    obtain ⟨-, -, ctxs, -⟩ := (s1.slip n k (p.foldAt k) true cause).fineSettle_kept n p (some k) p.fine []
    dsimp only
    rw [ctx_of_ctxs ctxs k, time, own, same]
    refine ⟨rfl, fun none_ => (slips (free.trans none_)).trans ?_⟩
    rw [own, same]
  | issued tiles sent closed =>
    dsimp only
    generalize (p.ctx k).mem ++ _ = mem
    generalize issued : s1.modPad n (fun q => (q.setCtx k { p.ctx k with t := (p.ctx k).t + 1, slips := 0, mem := mem }).retireCheck true k) = s2
    obtain ⟨-, -, ctxs, -⟩ := s2.fineSettle_kept n p (some k) tiles sent
    have new : s2.pad n = (p.setCtx k { p.ctx k with t := (p.ctx k).t + 1, slips := 0, mem := mem }).retireCheck true k := by
      rw [← issued, State.modPad_own, own]
    have len : k < (p.setCtx k { p.ctx k with t := (p.ctx k).t + 1, slips := 0, mem := mem }).ctxs.length := by
      simpa [Paddock.setCtx] using inp
    obtain ⟨time, slips, -⟩ := Paddock.retireCheck_counts _ true len
    rw [ctx_of_ctxs ctxs k, new, time, slips, Paddock.setCtx_own inp, ← same]
    exact ⟨rfl, rfl⟩

end

theorem State.slip_ic (s : State) (n k fold : Nat) (fine : Bool) (c : SlipCause) : ((s.slip n k fold fine c).pad n).ic = (s.pad n).ic := by
  unfold State.slip
  dsimp only
  rw [State.modPad_own, State.count_pad, State.count_pad]
  rfl

theorem Paddock.retireCheck_ic (p : Paddock) (fine : Bool) (k : Nat) : (p.retireCheck fine k).ic = p.ic := by
  unfold Paddock.retireCheck
  exact (apply_ite Paddock.ic _ _ _).trans (ite_self _)

/-- An ic passes at every cycle of an F-paddock. -/
theorem State.fineIc_ic (s : State) (n : Nat) (fault : IcFault) : ((s.fineIc n fault).pad n).ic = (s.pad n).ic + 1 := by
  have settled (t : State) (p : Paddock) (k : Option Nat) (tiles : Tab Tile) (sent : List (Nat × Nat × Word))
      (ic : (t.pad n).ic = (s.pad n).ic + 1) : ((t.fineSettle n p k tiles sent).pad n).ic = (s.pad n).ic + 1 :=
    (t.fineSettle_kept n p k tiles sent).2.2.2.trans ic
  have first : (((s.addTally .paddock n tdEccCorrected fault.corrected).setPad n (s.pad n).turn.2).pad n).ic = (s.pad n).ic + 1 := by
    rw [State.setPad_own, Paddock.turn_ic]
  unfold State.fineIc
  rcases turn : (s.pad n).turn with ⟨k | k, p⟩
  · rw [turn] at first
    exact settled _ _ _ _ _ first
  · rw [turn] at first
    dsimp only
    unfold State.fineTurn
    dsimp only
    split
    · exact settled _ _ _ _ _ ((State.padDoubt_effect _ n _ _).2.2.2.trans first)
    · split
      · exact settled _ _ _ _ _ first
      · split
        · exact settled _ _ _ _ _ ((State.slip_ic _ n k _ _ _).trans first)
        · refine settled _ _ _ _ _ ?_
          rw [State.modPad_own, Paddock.retireCheck_ic]
          exact first

/-! A C-paddock. -/

/-- The units of a C-paddock with the errors of this ic noted against the context. -/
def faulted (c : Coarse) (k : Nat) (fault : IcFault) : Coarse :=
  fault.residue.foldl (fun (c : Coarse) v => c.setV v.val { c.v v.val with reexec := some k })
    (fault.double.foldl (fun (c : Coarse) x => c.setM (x.val / 2) { c.m (x.val / 2) with held := some (2 * k + x.val % 2) }) c)

/-- What a granted context leaves of a C-paddock. -/
def State.coarseDone (s : State) (n k fold : Nat) (c : PCtx) (o : CoarseOut) : State :=
  let s2 := s.modPad n fun q => { q with coarse := o.c }
  let s3 := match o.slip with
    | some cause => s2.slip n k fold false cause
    | none => s2.modPad n fun q => (q.setCtx k { c with t := c.t + 1, slips := 0 }).retireCheck false k
  (((((s3.addTally .fold fold tfSaturation o.count.sat).addTally .paddock n (tdCtx k 3) o.count.sat).addTally .fold fold tfRange o.count.range).addTally .fold fold
    tfNonfinite o.count.nonfinite).addTally .fold fold tfSkip o.skip).addTally .fold fold tfBounds o.bounds

/-- What a context that is granted an ic of a C-paddock does. -/
def State.coarseRun (s : State) (me n : Nat) (p : Paddock) (k : Nat) (credits : List Flit → Bool) : CoarseOut :=
  coarseGranted p.coarse ⟨n, p.foldAt k, me, (p.ctx k).epoch, s.movesOf (p.foldAt k)⟩ (p.ctx k).word (decide (p.excl = 0)) k p.ic (p.ctx k).t
    (s.sessGeom (p.foldAt k)) credits

/-- What the turn of a context does in a C-paddock, with the errors of the ic noted. -/
def State.coarseTurn (s : State) (n : Nat) (p : Paddock) (k : Nat) (fault : IcFault) : State :=
  let s1 := (s.addTally .paddock n tdEccCorrected fault.corrected).setPad n p
  if fault.fatal then s1.padDoubt n (p.foldAt k) .tileEcc
  else if !p.granted k then s1
  else s1.coarseDone n k (p.foldAt k) (p.ctx k) (s1.coarseRun s.me n p k (s1.creditsFor n))

/-- One ic of a C-paddock. -/
def State.coarseIc (s : State) (n : Nat) (fault : IcFault) : State :=
  match (s.pad n).turn with
  | (none, p) => (s.addTally .paddock n tdEccCorrected fault.corrected).setPad n p
  | (some k, p) => s.coarseTurn n { p with coarse := faulted p.coarse k fault } k fault

theorem execCoarseIssueCycle_next (n : Pad) (fault : IcFault) (t : Time) (s : State) :
    exec (.coarseIssueCycle n fault t) s
      = .next (s.event t (fun s => !isFine n.val && (s.pad n.val).power = .run && !(s.pad n.val).clockLost) fun s => s.coarseIc n.val fault) := by
  show execCoarseIssueCycle n fault t s = _
  unfold execCoarseIssueCycle State.coarseIc State.coarseTurn State.coarseDone State.coarseRun faulted
  generalize coarseGranted = granted
  congr 2
  funext s
  dsimp only
  rcases (s.pad n.val).turn with ⟨k | k, p⟩ <;> rfl

/-- A granted context has gone on by one, or slipped. -/
theorem State.coarseDone_effect {s : State} {n k : Nat} (in_ : k < (s.pad n).ctxs.length) (fold : Nat) {c : PCtx} (eq : c = (s.pad n).ctx k)
    (o : CoarseOut) :
    ((s.coarseDone n k fold c o).pad n).ic = (s.pad n).ic ∧
    match o.slip with
    | none => (((s.coarseDone n k fold c o).pad n).ctx k).t = c.t + 1 ∧ (((s.coarseDone n k fold c o).pad n).ctx k).slips = 0
    | some _ => (((s.coarseDone n k fold c o).pad n).ctx k).t = c.t
        ∧ (s.anyHurdled fold = false → (((s.coarseDone n k fold c o).pad n).ctx k).slips = c.slips + 1) := by
  unfold State.coarseDone
  dsimp only
  rw [State.addTally_pad, State.addTally_pad, State.addTally_pad, State.addTally_pad, State.addTally_pad, State.addTally_pad]
  have own := State.modPad_own s n fun q => { q with coarse := o.c }
  have free : (s.modPad n fun q => { q with coarse := o.c }).anyHurdled fold = s.anyHurdled fold :=
    State.anyHurdled_setPad (s := s) (n := n) (p := { s.pad n with coarse := o.c }) rfl fold
  generalize (s.modPad n fun q => { q with coarse := o.c }) = s2 at own free ⊢
  have in2 : k < (s2.pad n).ctxs.length := by
    rw [own]
    exact in_
  have same : (s2.pad n).ctx k = c := by
    rw [own, eq]
    rfl
  have ic : (s2.pad n).ic = (s.pad n).ic := by rw [own]
  cases o.slip with
  | some cause =>
    obtain ⟨time, pass, slips⟩ := State.slip_effect in2 fold false cause
    dsimp only
    refine ⟨pass.trans ic, time.trans (congrArg PCtx.t same), fun none_ => ?_⟩
    rw [slips (free.trans none_), same]
  | none =>
    dsimp only
    rw [State.modPad_own]
    have len : k < ((s2.pad n).setCtx k { c with t := c.t + 1, slips := 0 }).ctxs.length := by
      simpa [Paddock.setCtx] using in2
    obtain ⟨time, slips, pass⟩ := Paddock.retireCheck_counts _ false len
    rw [time, slips, pass, Paddock.setCtx_own in2]
    exact ⟨ic, rfl, rfl⟩

theorem State.coarseRun_of_reads (s : State) (me n : Nat) (p : Paddock) (k : Nat) (credits : List Flit → Bool) (corrected : Nat) :
    ((s.addTally .paddock n tdEccCorrected corrected).setPad n p).coarseRun me n p k credits = s.coarseRun me n p k credits := by
  unfold State.addTally
  split <;> rfl

/-- Between two states a context's slot counter has gone on, or it has slipped. -/
def Advances (s u : State) (n k fold : Nat) (slip : Option SlipCause) : Prop :=
  match slip with
  | none => ((u.pad n).ctx k).t = ((s.pad n).ctx k).t + 1 ∧ ((u.pad n).ctx k).slips = 0
  | some _ => ((u.pad n).ctx k).t = ((s.pad n).ctx k).t
      ∧ (s.anyHurdled fold = false → ((u.pad n).ctx k).slips = ((s.pad n).ctx k).slips + 1)

section
variable {s : State} {n k : Nat} {p : Paddock} (turn : (s.pad n).turn = (some k, p))
include turn

theorem State.coarseIc_turn (fault : IcFault) :
    s.coarseIc n fault = s.coarseTurn n { p with coarse := faulted p.coarse k fault } k fault := by
  unfold State.coarseIc
  rw [turn]

theorem State.coarseTurn_fatal {fault : IcFault} (fatal : fault.fatal = true) : (s.coarseIc n fault).faultN = true
    ∧ (s.coarseIc n fault).reports = s.reports ++ [⟨.tileEcc, [p.foldAt k], n, s.now⟩] := by
  rw [State.coarseIc_turn turn]
  unfold State.coarseTurn
  dsimp only
  rw [if_pos fatal]
  generalize at_ : (s.addTally .paddock n tdEccCorrected fault.corrected).setPad n { p with coarse := faulted p.coarse k fault } = s1
  obtain ⟨held, reports, -⟩ := State.padDoubt_effect s1 n (p.foldAt k) .tileEcc
  refine ⟨held, reports.trans ?_⟩
  rw [← at_]
  simp

theorem State.coarseTurn_granted {fault : IcFault} (sound : fault.fatal = false) (granted : p.granted k = true) (in_ : k < (s.pad n).ctxs.length)
    {c : Coarse} (eq : c = faulted p.coarse k fault) {slip : Option SlipCause}
    (ran : (s.coarseRun s.me n { p with coarse := c } k ((s.setPad n { p with coarse := c }).creditsFor n)).slip = slip) :
    Advances s (s.coarseIc n fault) n k (p.foldAt k) slip := by
  have ctxs := turn_ctxs turn
  have hurdled := turn_hurdled turn
  rw [State.coarseIc_turn turn, ← eq, ← ran]
  generalize with_ : ({ p with coarse := c } : Paddock) = q
  have q_ctxs : q.ctxs = (s.pad n).ctxs := by rw [← with_, ← ctxs]
  have q_hurdled : q.hurdled = (s.pad n).hurdled := by rw [← with_, ← hurdled]
  have q_fold : q.foldAt k = p.foldAt k := by rw [← with_]; rfl
  have allowed : q.granted k = true := by rw [← with_]; exact granted
  unfold State.coarseTurn
  dsimp only
  rw [if_neg (by rw [sound]; decide), if_neg (by rw [allowed]; decide), State.addTally_setPad_creditsFor, State.coarseRun_of_reads, q_fold]
  have own := State.setPad_own (s.addTally .paddock n tdEccCorrected fault.corrected) n q
  have free : ((s.addTally .paddock n tdEccCorrected fault.corrected).setPad n q).anyHurdled (p.foldAt k) = s.anyHurdled (p.foldAt k) := by
    rw [State.anyHurdled_setPad (by rw [State.addTally_pad]; exact q_hurdled), State.anyHurdled_addTally]
  generalize (s.addTally .paddock n tdEccCorrected fault.corrected).setPad n q = s1 at own free ⊢
  have in1 : k < (s1.pad n).ctxs.length := by
    rw [own, q_ctxs]
    exact in_
  generalize s.coarseRun s.me n q k ((s.setPad n q).creditsFor n) = o
  have done := (State.coarseDone_effect in1 (p.foldAt k) (congrArg (fun p : Paddock => p.ctx k) own.symm) o).2
  unfold Advances
  rw [← ctx_of_ctxs q_ctxs k, ← free]
  exact done

end

theorem State.coarseDone_ic (s : State) (n k fold : Nat) (c : PCtx) (o : CoarseOut) : ((s.coarseDone n k fold c o).pad n).ic = (s.pad n).ic := by
  unfold State.coarseDone
  dsimp only
  rw [State.addTally_pad, State.addTally_pad, State.addTally_pad, State.addTally_pad, State.addTally_pad, State.addTally_pad]
  cases o.slip with
  | some cause =>
    dsimp only
    rw [State.slip_ic, State.modPad_own]
  | none =>
    dsimp only
    rw [State.modPad_own, Paddock.retireCheck_ic, State.modPad_own]
    rfl

/-- An ic passes at every cycle of a C-paddock. -/
theorem State.coarseIc_ic (s : State) (n : Nat) (fault : IcFault) : ((s.coarseIc n fault).pad n).ic = (s.pad n).ic + 1 := by
  have first (p : Paddock) (same : p.ic = (s.pad n).ic + 1) :
      (((s.addTally .paddock n tdEccCorrected fault.corrected).setPad n p).pad n).ic = (s.pad n).ic + 1 := by
    rw [State.setPad_own, same]
  have ic := Paddock.turn_ic (s.pad n)
  unfold State.coarseIc
  rcases turn : (s.pad n).turn with ⟨k | k, p⟩
  · rw [turn] at ic
    exact first p ic
  · rw [turn] at ic
    dsimp only
    have start := first { p with coarse := faulted p.coarse k fault } ic
    unfold State.coarseTurn
    dsimp only
    split
    · exact (State.padDoubt_effect _ n _ _).2.2.2.trans start
    · split
      · exact start
      · exact (State.coarseDone_ic _ n k _ _ _).trans start

/-! Verdicts on a context. -/

theorem State.setFoldSt_pad (s : State) (id : Nat) (st : FoldState) (n : Nat) : (s.setFoldSt id st).pad n = s.pad n := by
  unfold State.setFoldSt
  dsimp only
  split <;> rfl

theorem State.transitionEnds_pad (s : State) (id n : Nat) : (s.transitionEnds id).pad n = s.pad n := by
  unfold State.transitionEnds
  split
  · rfl
  · split
    · rfl
    · split
      · dsimp only
        split
        · rw [show ∀ (t : State) (obj : String) (fault : Bool) (kv : KVs), (t.ring obj fault kv).pad n = t.pad n from fun t _ _ _ => by simp,
            State.setFoldSt_pad]
          rfl
        · rfl
      · rfl

theorem Paddock.goLive_length (p : Paddock) (k : Nat) : (p.goLive k).ctxs.length = p.ctxs.length := by
  unfold Paddock.goLive
  dsimp only
  split
  · split <;> simp [Paddock.setCtx]
  · rfl

/-- A context that leaves the plan is out of it, and STANDBY for a section or FREE (R186, R530). -/
theorem State.leavePlan_effect {s : State} {n k : Nat} (in_ : k < (s.pad n).ctxs.length) : k ∉ ((s.leavePlan n k).pad n).plan
    ∧ (((s.leavePlan n k).pad n).ctx k).st = (if ((s.pad n).ctx k).run.isSome then .standby else .free) := by
  unfold State.leavePlan
  extract_lets p c fold count ep bells new s1 s2
  have same : (s2.transitionEnds fold).pad n = s1.pad n := State.transitionEnds_pad s2 fold n
  obtain ⟨q, len, left⟩ : ∃ q : Paddock, k < q.ctxs.length ∧ s1.pad n =
      { q.setCtx k (if c.run.isSome then { c with st := .standby, t := 0, slips := 0, bwGot := 0 } else { PCtx.initial with fold := c.fold }) with
        plan := q.plan.filter (· ≠ k), outbox := q.outbox ++ bells, pos := 0 } := by
    refine ⟨_, ?_, State.modPad_own s n _⟩
    split
    · split
      · rw [Paddock.goLive_length]
        exact in_
      · exact in_
    · exact in_
  rw [same, left]
  constructor
  · show k ∉ List.filter (fun j => decide (j ≠ k)) _
    simp
  · show (Paddock.ctx (q.setCtx k _) k).st = _
    rw [Paddock.setCtx_own len]
    exact apply_ite PCtx.st _ _ _

/-- A context whose watchdog has expired counts its slips anew, and its fold is reported (R193). -/
theorem State.watchdog_effect {s : State} {n k : Nat} (in_ : k < (s.pad n).ctxs.length) (fold : Nat) {u : State}
    (eq : u = ((s.count .fold fold tfWatchdog).padDoubt n fold .watchdog).modPad n fun p => p.setCtx k { p.ctx k with slips := 0 }) :
    ((u.pad n).ctx k).slips = 0 ∧ u.faultN = true ∧ u.reports = s.reports ++ [⟨.watchdog, [fold], n, s.now⟩] := by
  subst eq
  generalize counted : s.count .fold fold tfWatchdog = s1
  obtain ⟨held, reports, ctxs, -⟩ := State.padDoubt_effect s1 n fold .watchdog
  have in1 : k < ((s1.padDoubt n fold .watchdog).pad n).ctxs.length := by
    rw [ctxs, ← counted, State.count_pad]
    exact in_
  refine ⟨?_, held, reports.trans ?_⟩
  · rw [State.modPad_own, Paddock.setCtx_own in1]
  · rw [← counted]
    simp

/-- Settles O35: what the dock keeps of a paddock, and what a granted context, a watchdog and a retirement leave of its contexts. -/
theorem paddocksIssue : Obligations.PaddocksIssue := by
  unfold Obligations.PaddocksIssue
  refine ⟨fun n t s running run clock => ?_, fun n fault t s running fine run clock len => ?_, fun n fault t s running coarse run clock len => ?_,
    fun n k t s running len live slipped free => ?_, fun n k t s running len retiring empty => ?_⟩
  · rw [execDockTransfer_next]
    refine event_next running (by simpa using ⟨run, clock⟩) ⟨?_, fun heads none_ => ?_, ?_⟩
    · exact (State.dockIc_effect _ _).1
    · exact State.dockIc_quiet (s := s.tick t) ((localHeads_tallies s _ s.tallies n).trans heads) none_
    · exact (State.dockIc_effect (s.tick t) n).2
  · rw [execFineIssueCycle_next]
    refine event_next running (by simpa using ⟨⟨fine, run⟩, clock⟩) ⟨State.fineIc_ic _ _ _, fun k p turn low => ⟨fun fatal => ?_, fun sound granted => ?_⟩⟩
    · exact State.fineTurn_fatal (s := s.tick t) turn fatal
    · exact State.fineTurn_granted (s := s.tick t) turn sound granted (lt_of_lt_of_eq low len.symm)
  · rw [execCoarseIssueCycle_next]
    refine event_next running (by simpa using ⟨⟨coarse, run⟩, clock⟩) ⟨State.coarseIc_ic _ _ _, fun k p c turn low eq =>
      ⟨fun fatal => ?_, fun sound granted => ?_⟩⟩
    · exact State.coarseTurn_fatal (s := s.tick t) turn fatal
    · generalize ran : CoarseOut.slip _ = slip
      have told := State.coarseTurn_granted (s := s.tick t) turn sound granted (lt_of_lt_of_eq low len.symm) eq ran
      cases slip <;> exact told
  · refine event_next running ?_ ?_
    · have on : (decide (((s.pad n).ctx k).st = .live) || decide (((s.pad n).ctx k).st = .retiring)) = true := by
        simpa using live
      exact Bool.and_eq_true_iff.mpr ⟨Bool.and_eq_true_iff.mpr ⟨decide_eq_true slipped, on⟩, (Bool.not_eq_true' _).mpr free⟩
    · exact State.watchdog_effect (s := s.tick t) (lt_of_lt_of_eq k.isLt len.symm) _ rfl
  · refine event_next running (by simpa using ⟨retiring, empty⟩) ?_
    exact State.leavePlan_effect (s := s.tick t) (lt_of_lt_of_eq k.isLt len.symm)

end Sys2Proof.Machine

/-! Loads: begun, drained, checked and committed (R508, R511, R517, R518, R520, R521, R525, R905). -/
namespace Sys2Proof.Machine

open Sys2Proof

/-! What the parts of a load leave of the folds. -/

@[simp] theorem State.penOut_kin (s : State) (fold reason : Nat) : (s.penOut fold reason).kin = s.kin := State.refuseAll_kin _ _ _

@[simp] theorem State.setYokes_kin (s : State) (f : Fold) (im : Image) : (s.setYokes f im).kin = s.kin := by
  simp [State.setYokes]

@[simp] theorem State.bringIn_kin (s : State) (im : Image) (n fold epoch : Nat) : (s.bringIn im n fold epoch).kin = s.kin := by
  simp [State.bringIn]

@[simp] theorem State.penOut_talk (s : State) (fold reason : Nat) : (s.penOut fold reason).talk = s.talk := State.refuseAll_talk _ _ _

/-- A fold as far as its loads tell: its state and transition, its load and how the last one ended, and its image. -/
structure Stand where
  st : FoldState
  load : Option Load
  code : Option Nat
  image : Option Image
  epoch : Nat
  transitions : Nat
  transition : Option Transition

def Fold.stand (f : Fold) : Stand := ⟨f.st, f.load, f.loadCode, f.image, f.epoch, f.transitions, f.transition⟩

/-- What leaves the folds alone leaves how a fold stands. -/
theorem stand_of_kin {s t : State} (h : t.kin = s.kin) {id : Nat} {f : Fold} (found : s.foldOf id = some f) :
    ∃ g, t.foldOf id = some g ∧ g.stand = f.stand := by
  obtain ⟨g, own, same⟩ := foldOf_standing h found
  exact ⟨g, own, (congrArg Fold.stand same :)⟩

/-- What a fold loses leaves how it stands. -/
theorem State.takeOut_stand {s : State} {id : Nat} {f : Fold} (found : s.foldOf id = some f) (ps : List Nat) (qs : List (Nat × Nat)) (is : List Nat) :
    ∃ g, (s.takeOut id ps qs is).foldOf id = some g ∧ g.stand = f.stand := by
  unfold State.takeOut
  simp only [found]
  obtain ⟨g, own, same⟩ := stand_of_kin (t := (qs.foldl (fun s q => s.unleaseSlot q.1 q.2 id) (ps.foldl (fun s n => s.unleasePad n id) s)).revokePages
    ((f.pagesAt is).map fun p => (p.2.1, p.2.2))) (by simp) found
  exact ⟨_, State.modFold_own own fun _ => rfl, same⟩

theorem State.returnAdded_stand {s : State} {id : Nat} {f : Fold} (found : s.foldOf id = some f) :
    ∃ g, (s.returnAdded id).foldOf id = some g ∧ g.stand = f.stand := by
  unfold State.returnAdded
  simp only [found]
  split
  · exact ⟨f, found, rfl⟩
  · exact State.takeOut_stand found _ _ _

theorem State.dropUnnamed_stand {s : State} {id : Nat} {f : Fold} (found : s.foldOf id = some f) (im : Image) :
    ∃ g, (s.dropUnnamed id im).foldOf id = some g ∧ g.stand = f.stand := by
  unfold State.dropUnnamed
  simp only [found]
  exact State.takeOut_stand found _ _ _

/-! The end of a load. -/

theorem State.unretain_own {s : State} {id : Nat} {f : Fold} (found : s.foldOf id = some f) (r : List (Nat × List Byte)) :
    ({ s with retained := r } : State).foldOf id = some f := found

/-- A failed load is ended, with its code (R520, R521). -/
theorem State.loadFail_own {s : State} {id : Nat} {f : Fold} {l : Load} (found : s.foldOf id = some f) (loading : f.load = some l) (code : Nat) :
    ∃ g, (s.loadFail id code none).foldOf id = some g ∧ g.load = none ∧ g.loadCode = some code := by
  unfold State.loadFail
  simp only [found, loading]
  split
  · exact ⟨_, (foldOf_of_fld (State.ring_fld _ _ _ _) id).trans (State.modFold_own found fun _ => rfl), rfl, rfl⟩
  split
  · obtain ⟨f1, freed, -⟩ := stand_of_kin (State.freeStaged_kin s l.staged) found
    obtain ⟨g, own, same⟩ := State.returnAdded_stand
      (State.modFold_own freed (g := fun g => { g with load := none, loadCode := some code }) fun _ => rfl)
    exact ⟨g, (foldOf_of_fld (State.ring_fld _ _ _ _) id).trans ((foldOf_of_fld (State.mirror_fld _) id).trans own),
      (congrArg Stand.load same :), (congrArg Stand.code same :)⟩
  · obtain ⟨f1, cleared, -⟩ := stand_of_kin (t := (s.waferOut id rsReconfigured).clearFold f) (by simp) found
    obtain ⟨f2, returned, -⟩ := State.returnAdded_stand cleared
    have ended := State.modFold_own (State.modFold_own returned (g := fun g => { g with load := none, loadCode := some code }) fun _ => rfl)
      (g := fun g => { g with image := none }) fun _ => rfl
    exact ⟨_, (foldOf_of_fld (State.ring_fld _ _ _ _) id).trans ((foldOf_of_fld (State.mirror_fld _) id).trans
      (State.setFoldSt_own (State.unretain_own ended _) _)), rfl, rfl⟩

/-! The beginning of a load. -/

/-- A load that begins is checked as far as its header shows, and a full one takes its fold out of service (R518, R525). -/
theorem State.beginLoad_own {s : State} {id : Nat} {f : Fold} {l : Load} (found : s.foldOf id = some f) (loading : f.load = some l) :
    ∃ g, (s.beginLoad id).foldOf id = some g ∧ (g.load = none ∧ g.loadCode.isSome
      ∨ (l.overlap = false → g.st = .loading) ∧ g.load = some { l with phase := if l.overlap || f.st = .created then .decrypting else .draining, since := s.now }) := by
  unfold State.beginLoad
  simp only [found, loading]
  generalize begun : (if l.overlap then _ else _ : State) = s2
  have taken : ∃ g, s2.foldOf id = some g ∧ (l.overlap = false → g.st = .loading) ∧ g.load = some { l with phase := if l.overlap || f.st = .created then .decrypting else .draining, since := s.now } := by
    by_cases overlapped : l.overlap = true
    · rw [if_pos overlapped] at begun
      subst begun
      exact ⟨_, State.modFold_own found fun _ => rfl, fun full => absurd (full.symm.trans overlapped) (by decide), rfl⟩
    · rw [if_neg overlapped] at begun
      subst begun
      have noted := State.modFold_own found (g := fun g =>
        { g with load := some { l with phase := if l.overlap || f.st = .created then .decrypting else .draining, since := s.now }
                 recovery := if l.overlap then g.recovery else none }) fun _ => rfl
      obtain ⟨g, own, same⟩ := stand_of_kin (State.penOut_kin _ id rsLoading) (State.setFoldSt_own noted .loading)
      exact ⟨g, own, fun _ => (congrArg Stand.st same :), (congrArg Stand.load same :)⟩
  obtain ⟨g, own, st, load⟩ := taken
  split
  · rename_i code _
    obtain ⟨g', own', ended, told⟩ := State.loadFail_own own load code
    exact ⟨g', own', .inl ⟨ended, by rw [told]; rfl⟩⟩
  · exact ⟨g, (foldOf_of_fld (State.mirror_fld _) id).trans own, .inr ⟨st, load⟩⟩

theorem State.beginLoad_talk (s : State) (id : Nat) : (s.beginLoad id).talk = s.talk := by
  unfold State.beginLoad
  split
  · rfl
  split
  · rfl
  dsimp only
  split <;> simp

/-- Drained, a load goes on to be decrypted. -/
theorem State.loadDrained_own {s : State} {id : Nat} {f : Fold} {l : Load} (found : s.foldOf id = some f) (loading : f.load = some l) :
    ∃ g, (s.loadDrained id).foldOf id = some g ∧ g.load = some { l with phase := .decrypting } := by
  unfold State.loadDrained
  simp only [found]
  obtain ⟨g, own, same⟩ := stand_of_kin (State.clearFold_kin s f) found
  have load : g.load = some l := (congrArg Stand.load same).trans loading
  exact ⟨_, State.modFold_own own fun _ => rfl, by simp [load]⟩

/-! What a line that loads does. -/

/-- A load of a stage, as it is commanded. -/
def State.loadOf (s : State) (b : StageBuf) (overlap : Bool) (limit : Option Nat) : Load :=
  { overlap := overlap, container := b.data, limit := limit.getD 1000000 * 100, phase := .queued, since := s.now, image := none, staged := [] }

/-- Whether the retained stores have room for a load. -/
def State.hasRoom (s : State) (l : Load) : Bool := s.retainedBytes + l.container.length ≤ 2 ^ 33

/-- Whether a load begins as it is commanded. -/
def State.beginsNow (s : State) (f : Fold) (l : Load) : Bool :=
  s.hasRoom l && s.loadsBegun < 4 && f.mayBegin l

/-- A load takes its stage and is answered. -/
def State.loadTaken (s : State) (f : Fold) (id stage : Nat) (l : Load) (ln : Ln) : State :=
  ({ s with stages := s.stages.filter fun x => x.id ≠ stage }.modFold id fun g => { g with load := some l }).ok ln
    [("state", .word (if !s.beginsNow f l then "queued" else if l.overlap then "staging" else "loading"))]

/-- A load is taken, and fails for want of room, begins, or is queued. -/
def State.loadOp (s : State) (f : Fold) (id stage : Nat) (l : Load) (ln : Ln) : State :=
  if !s.hasRoom l then (s.loadTaken f id stage l ln).loadFail id 797 none
  else if s.beginsNow f l then (s.loadTaken f id stage l ln).beginLoad id
  else s.loadTaken f id stage l ln

theorem execLoadFold_next (id stage : Nat) (overlap : Bool) (limit : Option Nat) (ln : Ln) (s : State) :
    exec (.loadFold id stage overlap limit ln) s = .next (s.judged ln .operate false fun s => s.onFold ln id fun f =>
      match s.stages.find? fun b => b.id = stage && !b.firmware with
      | none => s.err ln 401 [("object", .word "stage")]
      | some b => s.guard ln
          [(decide (limit.getD 1000000 < 1000) || decide (100000000 < limit.getD 1000000), 402, [("key", .word "limit"), ("min", .num 1000), ("max", .num 100000000)]),
           (f.release.isSome || (if overlap then f.st ≠ .running && f.st ≠ .reconfiguring && f.st ≠ .checkpointing
              else f.st ≠ .created && f.st ≠ .running && f.st ≠ .stopped && f.st ≠ .doubt && f.load.isNone), 404,
            [("object", .word "fold"), ("state", .word (foldWord f.st))]),
           why (f.load.isSome) "load-pending",
           why (overlap && !f.slots.isEmpty) "shared",
           why (overlap && (f.transition.isSome || f.st ≠ .running || f.image.isNone || fld b.data 11 1 % 2 = 0)) "overlap",
           why (decide (b.data.length < b.size)) "stage-incomplete"]
          (s.loadOp f id stage (s.loadOf b overlap limit) ln)) := rfl

theorem State.loadTaken_own {s : State} {f : Fold} {id : Nat} (found : s.foldOf id = some f) (stage : Nat) (l : Load) (ln : Ln) :
    (s.loadTaken f id stage l ln).foldOf id = some { f with load := some l } :=
  (foldOf_of_fld (State.ok_fld _ ln _) id).trans (State.modFold_own (s := { s with stages := s.stages.filter fun x => x.id ≠ stage }) found fun _ => rfl)

theorem State.loadTaken_stages (s : State) (f : Fold) (id stage : Nat) (l : Load) (ln : Ln) :
    (s.loadTaken f id stage l ln).stages = s.stages.filter fun x => x.id ≠ stage :=
  (congrArg Ctl.stages (State.ok_ctl _ ln _) :)

theorem State.loadOp_stages (s : State) (f : Fold) (id stage : Nat) (l : Load) (ln : Ln) :
    ∀ x ∈ (s.loadOp f id stage l ln).stages, x.id ≠ stage := by
  have kept : (s.loadOp f id stage l ln).stages = (s.loadTaken f id stage l ln).stages := by
    unfold State.loadOp
    split
    · exact (congrArg Ctl.stages (State.loadFail_ctl _ _ _ _) :)
    split
    · exact (congrArg Ctl.stages (State.beginLoad_ctl _ _) :)
    · rfl
  intro x mem
  rw [kept, State.loadTaken_stages] at mem
  simpa using (List.mem_filter.mp mem).2

theorem State.loadTaken_answers {s t : State} {ln : Ln} (speaks : Speaks s t ln.sess) (f : Fold) (id stage : Nat) (l : Load) :
    Speaks s (t.loadTaken f id stage l ln) ln.sess ∧ Answers s (t.loadTaken f id stage l ln) ln
      (.ok [("state", .word (if !t.beginsNow f l then "queued" else if l.overlap then "staging" else "loading"))]) := by
  have onward : Speaks s ({ t with stages := t.stages.filter fun x => x.id ≠ stage }.modFold id fun g => { g with load := some l }) ln.sess :=
    speaks.of_sess rfl
  exact ⟨onward.answer ln _, Answers.ok onward _⟩

/-- What a load that begins leaves said. -/
theorem State.beginLoad_answers {s t : State} {ln : Ln} {r : RLine} (speaks : Speaks s t ln.sess) (told : Answers s t ln r) (id : Nat) :
    Answers s (t.beginLoad id) ln r := told.of_talk speaks (State.beginLoad_talk _ _)

/-- No refusal of `load fold` applies to a free fold in a state that its load may be taken in. -/
theorem load_passes {f : Fold} {b : StageBuf} {overlap : Bool} {lim : Nat} (release : f.release = none) (load : f.load = none)
    (low : 1000 ≤ lim) (high : lim ≤ 100000000)
    (full : overlap = false → f.st = .created ∨ f.st = .running ∨ f.st = .stopped ∨ f.st = .doubt)
    (part : overlap = true → f.st = .running ∧ f.slots = [] ∧ f.transition = none ∧ f.image.isSome ∧ fld b.data 11 1 % 2 = 1)
    (whole : b.size ≤ b.data.length) :
    ∀ c ∈ [(decide (lim < 1000) || decide (100000000 < lim), 402, ([("key", .word "limit"), ("min", .num 1000), ("max", .num 100000000)] : KVs)),
       (f.release.isSome || (if overlap then f.st ≠ .running && f.st ≠ .reconfiguring && f.st ≠ .checkpointing
          else f.st ≠ .created && f.st ≠ .running && f.st ≠ .stopped && f.st ≠ .doubt && f.load.isNone), 404,
        [("object", .word "fold"), ("state", .word (foldWord f.st))]),
       why (f.load.isSome) "load-pending",
       why (overlap && !f.slots.isEmpty) "shared",
       why (overlap && (f.transition.isSome || f.st ≠ .running || f.image.isNone || fld b.data 11 1 % 2 = 0)) "overlap",
       why (decide (b.data.length < b.size)) "stage-incomplete"], c.1 = false := by
  have inside : (decide (lim < 1000) || decide (100000000 < lim)) = false := by
    simp
    omega
  have there : decide (b.data.length < b.size) = false := by simpa using whole
  cases overlap with
  | false =>
    obtain st | st | st | st := full rfl <;> simp [why, inside, release, load, there, st]
  | true =>
    obtain ⟨st, slots, transition, image, flag⟩ := part rfl
    obtain ⟨im, image⟩ := Option.isSome_iff_exists.mp image
    simp [why, inside, release, load, there, st, slots, transition, image, flag]

theorem loads_accepted {id : Nat} {f : Fold} {b : StageBuf} {overlap : Bool} {limit : Option Nat} {l : Load} {ln : Ln} {s : State}
    (acc : s.accepts ln .operate false) (found : s.foldOf id = some f)
    (staged : s.stages.find? (fun x => x.id = b.id && !x.firmware) = some b) (load : f.load = none)
    (passes : ∀ c ∈ [(decide (limit.getD 1000000 < 1000) || decide (100000000 < limit.getD 1000000), 402,
        ([("key", .word "limit"), ("min", .num 1000), ("max", .num 100000000)] : KVs)),
       (f.release.isSome || (if overlap then f.st ≠ .running && f.st ≠ .reconfiguring && f.st ≠ .checkpointing
          else f.st ≠ .created && f.st ≠ .running && f.st ≠ .stopped && f.st ≠ .doubt && f.load.isNone), 404,
        [("object", .word "fold"), ("state", .word (foldWord f.st))]),
       why (f.load.isSome) "load-pending",
       why (overlap && !f.slots.isEmpty) "shared",
       why (overlap && (f.transition.isSome || f.st ≠ .running || f.image.isNone || fld b.data 11 1 % 2 = 0)) "overlap",
       why (decide (b.data.length < b.size)) "stage-incomplete"], c.1 = false)
    (loading : l = ⟨overlap, b.data, limit.getD 1000000 * 100, .queued, max s.now ln.t, none, []⟩) :
    exec (.loadFold id b.id overlap limit ln) s = .next ((s.atLine ln).loadOp f id b.id l ln) := by
  have found' : (s.atLine ln).foldOf id = some f := (atLine_foldOf s ln id).trans found
  have staged' : (s.atLine ln).stages.find? (fun x => x.id = b.id && !x.firmware) = some b := by
    rw [atLine_reads State.stages s ln fun _ _ _ => rfl, staged]
  have same : (s.atLine ln).loadOf b overlap limit = l := by
    rw [loading, State.loadOf, State.atLine_now]
  rw [execLoadFold_next, State.judged_accepts acc]
  simp only [State.onFold_found found', staged']
  rw [State.guard_passes _ ln passes, same]

/-- What a load that is taken comes to. -/
theorem State.loadOp_effect {s t : State} {id : Nat} {f : Fold} {l : Load} {ln : Ln} (found : t.foldOf id = some f) (speaks : Speaks s t ln.sess)
    (now : l.since = t.now) (stage : Nat) : ∃ g, (t.loadOp f id stage l ln).foldOf id = some g
      ∧ (2 ^ 33 < t.retainedBytes + l.container.length → g.load = none ∧ g.loadCode = some 797)
      ∧ (t.retainedBytes + l.container.length ≤ 2 ^ 33 → (4 ≤ t.loadsBegun ∨ f.mayBegin l = false) →
        g.load = some l ∧ Answers s (t.loadOp f id stage l ln) ln (.ok [("state", .word "queued")]))
      ∧ (t.retainedBytes + l.container.length ≤ 2 ^ 33 → t.loadsBegun < 4 → f.mayBegin l = true →
        Answers s (t.loadOp f id stage l ln) ln (.ok [("state", .word (if l.overlap then "staging" else "loading"))])
          ∧ (g.load = none ∧ g.loadCode.isSome
            ∨ g.load = some { l with phase := if l.overlap || f.st = .created then .decrypting else .draining })) := by
  have taken := State.loadTaken_own found stage l ln
  obtain ⟨spoken, told⟩ := State.loadTaken_answers speaks f id stage l
  by_cases room : t.retainedBytes + l.container.length ≤ 2 ^ 33
  case neg =>
    have full : t.hasRoom l = false := decide_eq_false room
    have fails : t.loadOp f id stage l ln = (t.loadTaken f id stage l ln).loadFail id 797 none := by
      simp [State.loadOp, full]
    obtain ⟨g, own, ended, code⟩ := State.loadFail_own taken rfl 797
    exact ⟨g, fails ▸ own, fun _ => ⟨ended, code⟩, fun fits => absurd fits room, fun fits => absurd fits room⟩
  have fits : t.hasRoom l = true := decide_eq_true room
  by_cases begins : t.beginsNow f l = true
  · have first : t.loadsBegun < 4 ∧ f.mayBegin l = true := by simpa [State.beginsNow, fits] using begins
    have starts : t.loadOp f id stage l ln = (t.loadTaken f id stage l ln).beginLoad id := by
      simp [State.loadOp, fits, begins]
    obtain ⟨g, own, outcome⟩ := State.beginLoad_own taken rfl
    rw [begins] at told
    have since : (t.loadTaken f id stage l ln).now = l.since := (now_of_core (State.ok_core _ _ _)).trans now.symm
    refine ⟨g, starts ▸ own, fun over_ => absurd room (by omega), fun _ late => ?_, fun _ _ _ => ⟨starts ▸ State.beginLoad_answers spoken told id, ?_⟩⟩
    · obtain ⟨few, may⟩ := first
      obtain many | barred := late
      · omega
      · exact absurd (may.symm.trans barred) (by decide)
    · rw [since] at outcome
      exact outcome.imp_right And.right
  · have waits : t.loadOp f id stage l ln = t.loadTaken f id stage l ln := by
      simp [State.loadOp, fits, begins]
    rw [Bool.not_eq_true] at begins
    rw [begins] at told
    refine ⟨_, waits ▸ taken, fun over_ => absurd room (by omega), fun _ _ => ⟨rfl, waits ▸ told⟩, fun _ few may => ?_⟩
    exact absurd begins (by simp [State.beginsNow, fits, few, may])

/-- Settles O20: what begins a load, drains it or ends it leaves each fold under its ID, and what it does to the load is all that is asked. -/
theorem loadsBeginAndDrain : Obligations.LoadsBeginAndDrain := by
  refine ⟨fun id f b overlap limit l ln s acc found staged release load low high full part whole loading => ?taken,
    fun id f l t s running active few found load queued may oldest => ?start,
    fun id f l t s running found load draining full quiet => ?drained, fun id f l t s running found load draining full late => ?expired⟩
  case taken =>
    have passes := load_passes release load low high full part whole
    have now : l.since = (s.atLine ln).now := by rw [loading, State.atLine_now]
    obtain ⟨g, own, effect⟩ := State.loadOp_effect ((atLine_foldOf s ln id).trans found) acc.speaks now b.id
    have bytes : (s.atLine ln).retainedBytes = s.retainedBytes := atLine_reads State.retainedBytes s ln fun _ _ _ => rfl
    have begun : (s.atLine ln).loadsBegun = s.loadsBegun := atLine_reads State.loadsBegun s ln fun _ _ _ => rfl
    have container : l.container = b.data := congrArg Load.container loading
    have over_ : l.overlap = overlap := congrArg Load.overlap loading
    subst over_
    rw [bytes, begun] at effect
    rw [← container]
    exact ⟨_, loads_accepted acc found staged load passes loading, State.loadOp_stages _ _ _ _ _ _, g, own, effect⟩
  case start =>
    have found' : (s.tick t).foldOf id = some f := found
    have first : (s.folds.any fun g => match g.load with
        | some m => !m.begun && g.mayBegin m && decide (m.since < l.since)
        | none => false) = false := by
      rw [List.any_eq_false]
      intro g mem
      cases waits : g.load with
      | none => simp
      | some m =>
        by_cases phase : m.phase = .queued
        · cases may' : g.mayBegin m with
          | false => simp [may']
          | true => simpa [may'] using fun _ => oldest g mem m waits phase may'
        · simp [Load.begun, phase]
    refine event_next running ?_ (State.beginLoad_own found' load)
    have begun : (s.tick t).loadsBegun = s.loadsBegun := rfl
    have unbegun : l.begun = false := by simp [Load.begun, queued]
    simp only [found', load, begun, unbegun, may]
    refine (congrArg (fun older => s.active.isSome && decide (s.loadsBegun < 4) && (!false && true && !older)) first).trans ?_
    simp [active, few]
  case drained =>
    have found' : (s.tick t).foldOf id = some f := found
    have quiet' : (s.tick t).inWafer id = [] := quiet
    exact event_next running (by simp [State.loadIn, found', load, draining, full, quiet']) (State.loadDrained_own found' load)
  case expired =>
    have found' : (s.tick t).foldOf id = some f := found
    obtain ⟨g, refused, same⟩ := stand_of_kin (State.waferOut_kin (s.tick t) id rsReconfigured) found'
    refine event_next running ?_ (State.loadDrained_own refused ((congrArg Stand.load same).trans load))
    simp [State.loadIn, State.loadSince, found', load, draining, full, late]

end Sys2Proof.Machine

/-! Loads checked and committed (R508, R511, R517, R518, R520). -/
namespace Sys2Proof.Machine

open Sys2Proof

/-- A load on its way to the paddocks, at the side of the running contexts (R527). -/
theorem State.toStandby_own {s : State} {id : Nat} {f : Fold} {l : Load} {im : Image} (found : s.foldOf id = some f) (loading : f.load = some l)
    (image : l.image = some im) : ∃ g, (s.toStandby id).foldOf id = some g ∧ g.load = some { l with phase := .confirming } := by
  unfold State.toStandby
  simp only [found, loading, Option.bind_some, image]
  generalize written : List.foldl _ (List.foldl _ s _) _ = s1
  have same : s1.kin = s.kin := by
    subst written
    simp
  obtain ⟨g, own, stands⟩ := stand_of_kin same found
  have load : g.load = some l := (congrArg Stand.load stands).trans loading
  exact ⟨_, State.modFold_own own fun _ => rfl, by simp [load, image]⟩

/-- A full load on its way to the paddocks (R518). -/
theorem State.commitLoad_own {s : State} {id : Nat} {f : Fold} {l : Load} {im : Image} (found : s.foldOf id = some f) (loading : f.load = some l)
    (image : l.image = some im) : ∃ g, (s.commitLoad id).foldOf id = some g ∧ g.load = some { l with phase := .confirming } := by
  unfold State.commitLoad
  simp only [found, loading, Option.bind_some, image]
  obtain ⟨g, own, stands⟩ := stand_of_kin (t := f.pads.foldl (fun s n => s.bringIn im n id ((f.epoch + 1) % 8)) (s.setYokes f im)) (by simp) found
  have load : g.load = some l := (congrArg Stand.load stands).trans loading
  exact ⟨_, State.modFold_own own fun _ => rfl, by simp [load, image]⟩

/-- A checked load waits for the traffic of its epoch, or is on its way to the paddocks (R511). -/
theorem State.transit_own {s : State} {id : Nat} {f : Fold} {l : Load} {im : Image} (found : s.foldOf id = some f) (loading : f.load = some l)
    (image : l.image = some im) : ∃ g, (s.transit id).foldOf id = some g
      ∧ g.load = some { l with phase := if s.dieHolds id (fun e => e.toNat = (f.epoch + 1) % 8) then .waiting else .confirming } := by
  unfold State.transit
  simp only [found, loading]
  split
  · refine ⟨_, State.modFold_own (f := f) ?_ fun _ => rfl, rfl⟩
    split
    · exact found
    · exact (foldOf_of_fld (State.count_fld _ _ _ _) id).trans found
  split
  · exact State.toStandby_own found loading image
  · exact State.commitLoad_own found loading image

/-- An image is the committed one of its fold, in the next epoch, and its load is over (R508). -/
theorem State.commitImage_own {s : State} {id : Nat} {f : Fold} (found : s.foldOf id = some f) (im : Image) (container : List Byte) :
    ∃ g, (s.commitImage id im container).foldOf id = some g ∧ g.image = some im ∧ g.load = none ∧ g.epoch = (f.epoch + 1) % 8
      ∧ g.transitions = f.transitions + 1 := by
  unfold State.commitImage
  simp only [found]
  exact ⟨_, State.modFold_own found fun _ => rfl, rfl, rfl, rfl, rfl⟩

/-- Whether a load is in its phase, seen at the fold. -/
theorem State.loadIn_found {s : State} {id : Nat} {f : Fold} {l : Load} (found : s.foldOf id = some f) (loading : f.load = some l) (ph : LoadPhase)
    (o : Bool) : s.loadIn id ph o = (l.phase = ph && l.overlap = o) := by
  simp only [State.loadIn, found, loading]

/-- Settles O21: a check leaves a load ended, staging, waiting or confirming, and a confirmed one is the fold's image. -/
theorem loadsAreCheckedAndCommitted : Obligations.LoadsAreCheckedAndCommitted := by
  refine ⟨fun id f l t s running unpaused found load phase => ?checked, fun id f l im t s running found load phase full image => ?confirmed,
    fun id f l im t s running found load phase image => ?started⟩
  case checked =>
    have found' : (s.tick t).foldOf id = some f := found
    have unpaused' : (s.tick t).paused = none := unpaused
    have decrypts : (((s.tick t).loadIn id .decrypting true || (s.tick t).loadIn id .decrypting false) && (s.tick t).paused.isNone) = true := by
      rw [State.loadIn_found found' load, State.loadIn_found found' load, unpaused', phase]
      cases l.overlap <;> rfl
    refine event_next running decrypts ?_
    simp only [found', load]
    cases (s.tick t).validate f l.container l.overlap with
    | inl code => exact State.loadFail_own found' load code
    | inr im =>
      dsimp only
      have kept := State.modFold_own found' (g := fun g => { g with load := some { l with image := some im, phase := .staging } }) fun _ => rfl
      by_cases stages : (l.overlap && !((f.needs im).all fun q => l.staged.contains q)) = true
      · rw [if_pos stages, if_pos stages]
        exact ⟨_, kept, rfl⟩
      · rw [if_neg stages, if_neg stages]
        exact State.transit_own kept rfl rfl
  case confirmed =>
    have found' : (s.tick t).foldOf id = some f := found
    refine event_next running (by rw [State.loadIn_found found' load, phase, full]; rfl) ?_
    simp only [found', load, image]
    obtain ⟨f1, committed, image1, ended1, epoch1, transitions1⟩ := State.commitImage_own found' im l.container
    obtain ⟨f2, bound, stands2⟩ := stand_of_kin
      (t := (((s.tick t).commitImage id im l.container).rebindAll id f.image im).unrevokeSpan id) (by simp) committed
    have runs := State.modFold_own (State.setFoldSt_own bound .running) (g := fun g => { g with transition := none, muster := none }) fun _ => rfl
    obtain ⟨g, own, stands⟩ := State.dropUnnamed_stand runs im
    refine ⟨g, (foldOf_of_fld (State.ring_fld _ _ _ _) id).trans ((foldOf_of_fld (State.mirror_fld _) id).trans own), (congrArg Stand.st stands :), ?_⟩
    exact ⟨(congrArg Stand.image stands :).trans ((congrArg Stand.image stands2 :).trans image1),
      (congrArg Stand.load stands :).trans ((congrArg Stand.load stands2 :).trans ended1),
      (congrArg Stand.epoch stands :).trans ((congrArg Stand.epoch stands2 :).trans epoch1),
      (congrArg Stand.transitions stands :).trans ((congrArg Stand.transitions stands2 :).trans transitions1)⟩
  case started =>
    have found' : (s.tick t).foldOf id = some f := found
    refine event_next running ?_ (State.transit_own found' load image)
    rw [State.loadIn_found found' load, State.loadIn_found found' load, phase]
    cases l.overlap <;> rfl

end Sys2Proof.Machine

/-! The requests that a NED holds, through what is done with them (R93, R104–R107, R112, R113). -/
namespace Sys2Proof.Machine

open Sys2Proof

/-! A NED, read. -/

theorem ned_in {s : State} (size : s.sized) (k : NedIx) : k.val < s.neds.length := by
  rw [size.2.1]
  exact k.isLt

theorem neds_length_of_core {s t : State} (h : t.core = s.core) : t.neds.length = s.neds.length := congrArg Core.nNeds h

theorem ned_of_nic {s t : State} (h : t.nic = s.nic) (k : Nat) : t.ned k = s.ned k :=
  congrArg (fun x : Nic => x.neds.getD k Ned.initial) h

theorem State.modNed_self {s : State} {k : Nat} (in_ : k < s.neds.length) (f : Ned → Ned) : (s.modNed k f).ned k = f (s.ned k) := by
  simp [in_]

theorem State.setNed_self {s : State} {k : Nat} (in_ : k < s.neds.length) (n : Ned) : (s.setNed k n).ned k = n := by
  simp [in_]

theorem Ned.req_of_reqs {m n : Ned} (h : m.reqs = n.reqs) (fid : Nat) : m.req fid = n.req fid := by
  rw [Ned.req, Ned.req, h]

/-- The requests with one of them replaced. -/
def replaced (l : List Req) (q : Req) : List Req := l.map fun x => if x.fid = q.fid then q else x

theorem find_replaced {l : List Req} {r q : Req} (held : l.find? (fun x => x.fid = r.fid) = some r) (same : q.fid = r.fid) :
    (replaced l q).find? (fun x => x.fid = r.fid) = some q := by
  induction l with
  | nil => cases held
  | cons x xs ih =>
    by_cases here : x.fid = r.fid
    · have : (if x.fid = q.fid then q else x) = q := if_pos (here.trans same.symm)
      rw [replaced, List.map_cons, this, List.find?_cons_of_pos (by simpa using same)]
    · have apart : (if x.fid = q.fid then q else x) = x := if_neg fun e => here (e.trans same)
      rw [List.find?_cons_of_neg (by simpa using here)] at held
      rw [replaced, List.map_cons, apart, List.find?_cons_of_neg (by simpa using here)]
      exact ih held

theorem Ned.putReq_reqs (n : Ned) (q : Req) : (n.putReq q).reqs = replaced n.reqs q := rfl

theorem Ned.req_putReq {n : Ned} {r q : Req} (held : n.req r.fid = some r) (same : q.fid = r.fid) : (n.putReq q).req r.fid = some q :=
  find_replaced held same

theorem Ned.req_dropReq (n : Ned) (fid : Nat) : (n.dropReq fid).req fid = none := by
  simp [Ned.req, Ned.dropReq]

theorem Ned.giveBack_eq (n : Ned) (t : Option TokenSrc) : ∃ bs as, n.giveBack t = { n with buckets := bs, accounts := as } := by
  unfold Ned.giveBack
  split
  · exact ⟨_, _, rfl⟩
  · exact ⟨_, n.accounts, rfl⟩
  · exact ⟨n.buckets, _, rfl⟩

@[simp] theorem Ned.giveBack_reqs (n : Ned) (t : Option TokenSrc) : (n.giveBack t).reqs = n.reqs := by
  obtain ⟨bs, as, e⟩ := n.giveBack_eq t
  rw [e]

/-! A reply withdrawn or stomped changes the NED's ports alone. -/

theorem State.stomp_ned {s : State} {k : Nat} (in_ : k < s.neds.length) (r : Req) (whole : Bool) :
    ∃ ps, (s.stomp k r whole).ned k = { s.ned k with ports := ps } := by
  unfold State.stomp
  extract_lets n tb s0 extra sent fr s1 s2
  have len0 : s0.neds.length = s.neds.length := neds_length_of_core (State.sessMod_core _ _ _)
  have same0 : s0.ned k = s.ned k := ned_of_nic (State.sessMod_nic _ _ _) k
  split
  · rw [State.modNed_self (len0 ▸ in_), same0]
    exact ⟨_, rfl⟩
  · have same2 : s2.nic = s0.nic := by
      simp only [s2]
      split
      · rfl
      · exact State.count_nic _ _ _ _
    have nic3 : (s2.count .port (portId k r.port) tpStomped).nic = s0.nic := (State.count_nic _ _ _ _).trans same2
    have same3 : (s2.count .port (portId k r.port) tpStomped).ned k = s.ned k := (ned_of_nic nic3 k).trans same0
    have len3 : (s2.count .port (portId k r.port) tpStomped).neds.length = s.neds.length :=
      (congrArg (fun x : Nic => x.neds.length) nic3 :).trans len0
    rw [State.modNed_self (len3 ▸ in_), same3]
    exact ⟨_, rfl⟩

theorem State.stompSent_ned {s : State} {k : Nat} (in_ : k < s.neds.length) (r : Req) :
    ∃ ps, (s.stompSent k r).ned k = { s.ned k with ports := ps } := by
  unfold State.stompSent
  split
  · exact State.stomp_ned in_ r false
  split
  · have len : (s.unsend k r).neds.length = s.neds.length := neds_length_of_core (State.unsend_core _ _ _)
    obtain ⟨ps, e⟩ := State.stomp_ned (s := s.unsend k r) (len ▸ in_) r false
    exact ⟨ps, by rw [e, ned_of_nic (State.unsend_nic s k r)]⟩
  · exact ⟨_, rfl⟩

/-- The tag that a request's end closes, if it is still open. -/
def Req.voids (r : Req) (stray : Bool) : List (Nat × Bool) := if r.tag = 0 || r.ended then [] else [(r.tag, stray)]

theorem State.closeTag_ned {s : State} {k : Nat} (in_ : k < s.neds.length) (r : Req) (stray : Bool) :
    (s.closeTag k r stray).ned k = { s.ned k with voidTags := (s.ned k).voidTags ++ r.voids stray } := by
  unfold State.closeTag Req.voids
  split
  · simp
  · exact State.modNed_self in_ _

/-! The end of a request. -/

/-- A dropped request is none of the NED's any more. -/
theorem State.dropReq_reqs {s : State} {k : Nat} (in_ : k < s.neds.length) (r : Req) :
    ((s.dropReq k r).ned k).reqs = (s.ned k).reqs.filter fun x => x.fid ≠ r.fid := by
  unfold State.dropReq
  extract_lets s1
  have first : (s1.ned k).reqs = (s.ned k).reqs ∧ s1.neds.length = s.neds.length := by
    simp only [s1]
    split
    · refine ⟨?_, neds_length_of_core (by simp)⟩
      rw [ned_of_nic (State.count_nic _ _ _ _), State.modNed_self in_, Ned.giveBack_reqs]
    · exact ⟨rfl, rfl⟩
  obtain ⟨reqs1, len1⟩ := first
  have len2 : ((s1.closeTag k r false).sessMod r fun x => if r.phase = .wafer || r.phase = .replying || r.phase = .waiting then
      { x with busy := false, len := min x.len x.p0 } else x).neds.length = s.neds.length :=
    (neds_length_of_core (by simp)).trans len1
  rw [State.modNed_self (len2 ▸ in_), ned_of_nic (State.sessMod_nic _ _ _), State.closeTag_ned (len1 ▸ in_), Ned.dropReq, ← reqs1]

theorem State.dropReq_req {s : State} {k : Nat} (in_ : k < s.neds.length) (r : Req) : ((s.dropReq k r).ned k).req r.fid = none := by
  simp [Ned.req, State.dropReq_reqs in_]

/-- A request refused, as the NED holds it. -/
def Req.refusal (r : Req) (epoch : Nat) (reason : Nat) (now : Time) : Req :=
  { r.clear with paid := none, epoch := epoch, session := none, reply := some (.refused reason), phase := .waiting, composed := now }

/-- The epoch that a refusal of a request names. -/
def State.refusalEpoch (s : State) (r : Req) : Nat :=
  match s.foldOf r.fold with
  | some f => f.epoch
  | none => r.epoch

/-- A composed refusal waits for its start. -/
theorem State.compose_refused {s : State} {k : Nat} (in_ : k < s.neds.length) (r : Req) (none_ : r.session = none) (reason : Nat) :
    ((s.compose k r (.refused reason)).ned k).reqs =
      replaced (s.ned k).reqs { r with reply := some (.refused reason), phase := .waiting, composed := s.now } := by
  have quiet : s.sessMod r (fun x => if (Reply.refused reason).refusal then x else { x with len := x.p0 + x.a }) = s := by
    simp [State.sessMod, none_]
  unfold State.compose
  rw [quiet]
  have composed (u : State) (same : u = s) (o : Ned → List Nat) : ((u.modNed k fun n =>
      { n.putReq { r with reply := some (.refused reason), phase := .waiting, composed := s.now } with order := o n }).ned k).reqs =
      replaced (s.ned k).reqs { r with reply := some (.refused reason), phase := .waiting, composed := s.now } := by
    subst same
    rw [State.modNed_self in_]
    rfl
  simp only [Reply.refusal, Bool.not_true, Bool.false_and, Bool.false_eq_true, if_false, if_true]
  refine composed _ ?_ _
  split <;> rfl

/-- What a refusal leaves of the requests: one whose verdict was bad is none any more, and any other waits with its refusal (R104, R106). -/
theorem State.refuseReq_reqs {s : State} {k : Nat} (in_ : k < s.neds.length) (r : Req) (reason : Nat) :
    ((s.refuseReq k r reason).ned k).reqs = if r.fcs = some false then (s.ned k).reqs.filter fun x => x.fid ≠ r.fid
      else replaced (s.ned k).reqs (r.refusal (s.refusalEpoch r) reason s.now) := by
  unfold State.refuseReq
  extract_lets s0 s1 s2 ep cleared r1
  have len0 : s0.neds.length = s.neds.length := neds_length_of_core (State.stompSent_core _ _ _)
  have reqs0 : (s0.ned k).reqs = (s.ned k).reqs := by
    obtain ⟨ps, e⟩ := State.stompSent_ned in_ r
    rw [e]
  have first : (s1.ned k).reqs = (s.ned k).reqs ∧ s1.core = s.core := by
    simp only [s1]
    split
    · refine ⟨?_, by simp [s0]⟩
      rw [ned_of_nic (State.count_nic _ _ _ _), State.modNed_self (len0 ▸ in_), Ned.giveBack_reqs, reqs0]
    · exact ⟨reqs0, State.stompSent_core _ _ _⟩
  obtain ⟨reqs1, core1⟩ := first
  have core2 : s2.core = s.core := by simp [s2, core1]
  have len1 := neds_length_of_core core1
  have len2 := neds_length_of_core core2
  have reqs2 : (s2.ned k).reqs = (s.ned k).reqs := by
    rw [← reqs1, ned_of_nic (State.sessMod_nic _ _ _), State.closeTag_ned (len1 ▸ in_)]
  split
  · rw [State.modNed_self (len2 ▸ in_), Ned.dropReq, ← reqs2]
  · rw [State.compose_refused (len2 ▸ in_) r1 rfl, reqs2, now_of_core core2]
    rfl

theorem State.refuseReq_bad {s : State} {k : Nat} (in_ : k < s.neds.length) {r : Req} (bad : r.fcs = some false) (reason : Nat) :
    ((s.refuseReq k r reason).ned k).req r.fid = none := by
  simp [Ned.req, State.refuseReq_reqs in_, bad]

theorem State.refuseReq_waits {s : State} {k : Nat} (in_ : k < s.neds.length) {r : Req} (held : (s.ned k).req r.fid = some r)
    (good : r.fcs ≠ some false) (reason : Nat) :
    ((s.refuseReq k r reason).ned k).req r.fid = some (r.refusal (s.refusalEpoch r) reason s.now) := by
  rw [Ned.req, State.refuseReq_reqs in_, if_neg good]
  exact find_replaced held rfl

/-- The NED's only request, refused. -/
theorem State.refuseReq_alone {s : State} {k : Nat} (in_ : k < s.neds.length) {r : Req} (alone : (s.ned k).reqs = [r])
    (good : r.fcs ≠ some false) (reason : Nat) :
    ((s.refuseReq k r reason).ned k).reqs = [r.refusal (s.refusalEpoch r) reason s.now] := by
  rw [State.refuseReq_reqs in_, if_neg good, alone]
  exact congrArg (fun q => [q]) (if_pos rfl)

end Sys2Proof.Machine

/-! What leaves FAULT_N alone, as in Laws/. -/
namespace Sys2Proof.Machine

open Sys2Proof

/-- What FAULT_N says. -/
structure Alarm where
  faultN : Bool

def State.alarm (s : State) : Alarm :=
  ⟨s.faultN⟩

theorem alarm_mk (now) (freeCtr) (resetN) (pwrFail) (pwrFailAt) (frozen) (faultN) (alertN) (alertCause) (ready)
    (readyAt) (vstby) (fuses) (flash) (writing) (place) (net) (boot) (sel) (quiet) (active) (shcA) (shcB) (mirrorSeq)
    (mirrorProbe) (scratch) (sess) (con0) (con1) (waits) (garp) (stages) (nextStage) (retained) (fwUpdate) (bellSeq)
    (bells) (ledgerSeq) (ledgerHeld) (ledgerStopped) (ptpPort) (ptpHeard) (tallies) (busA) (busB) (shared) (telem)
    (unreach) (refAbsent) (refSince) (meshLocked) (inlet) (outlet) (loopSince) (wave) (lastWave) (map) (mapSeq) (pads)
    (fields) (links) (lane0) (neds) (meds) (spds) (nedTemp) (spdTemp) (medTemp) (flockUp) (flockMembers) (flockInfo)
    (excludedW) (folds) (scrubs) (paused) (secondAt) (incCtr) (channels) (sessions) (reports) (notices) (wsel) (wstat)
    (shadow) (taps) (wire) (pending) : (State.mk now freeCtr resetN pwrFail pwrFailAt frozen faultN alertN alertCause
    ready readyAt vstby fuses flash writing place net boot sel quiet active shcA shcB mirrorSeq mirrorProbe scratch
    sess con0 con1 waits garp stages nextStage retained fwUpdate bellSeq bells ledgerSeq ledgerHeld ledgerStopped
    ptpPort ptpHeard tallies busA busB shared telem unreach refAbsent refSince meshLocked inlet outlet loopSince wave
    lastWave map mapSeq pads fields links lane0 neds meds spds nedTemp spdTemp medTemp flockUp flockMembers flockInfo
    excludedW folds scrubs paused secondAt incCtr channels sessions reports notices wsel wstat shadow taps wire
    pending).alarm =
    ⟨faultN⟩ := rfl

theorem alarm_eqs : (∀ s : State, s.faultN = s.alarm.faultN) := by
  intros
  rfl

@[simp] theorem ite_alarm (c : Prop) [Decidable c] (a b : State) : (if c then a else b).alarm = if c then a.alarm else b.alarm := by
  split <;> rfl

@[simp] theorem foldl_alarm {α : Type} (f : State → α → State) (h : ∀ s a, (f s a).alarm = s.alarm) (l : List α) (s : State) :
    (l.foldl f s).alarm = s.alarm := by
  induction l generalizing s with
  | nil => rfl
  | cons x xs ih => simp [ih, h]

theorem ite_eq_alarm {c : Prop} [Decidable c] {a b : State} {r : Alarm} (ha : a.alarm = r) (hb : b.alarm = r) :
    (if c then a else b).alarm = r := by
  split <;> assumption

theorem wire_alarm (a : State) (w : List Wire) : ({ a with wire := w } : State).alarm = a.alarm := rfl

theorem meds_alarm (a : State) (l : List Med) (h : l.length = a.meds.length) : ({ a with meds := l } : State).alarm = a.alarm := rfl

theorem heard_alarm (a : State) (o : Option Time) : ({ a with ptpHeard := o } : State).alarm = a.alarm := rfl

theorem fw_alarm (a : State) (w : FwUpdate) : ({ a with fwUpdate := w } : State).alarm = a.alarm := rfl

@[simp] theorem State.tick_alarm (s : State) (t : Time) : (s.tick t).alarm = s.alarm := rfl

@[simp] theorem State.setPad_alarm (s : State) (n : Nat) (p : Paddock) : (State.setPad s n p).alarm = s.alarm := by
  unfold State.setPad; simp only [State.alarm, Alarm.mk.injEq] <;> simp [↓alarm_mk, alarm_eqs]

@[simp] theorem State.modPad_alarm (s : State) (n : Nat) (f : Paddock → Paddock) : (State.modPad s n f).alarm = s.alarm := by
  simp [State.modPad]

@[simp] theorem State.setField_alarm (s : State) (f : Nat) (x : Field) : (State.setField s f x).alarm = s.alarm := by
  unfold State.setField; simp only [State.alarm, Alarm.mk.injEq] <;> simp [↓alarm_mk, alarm_eqs]

@[simp] theorem State.modField_alarm (s : State) (f : Nat) (g : Field → Field) : (State.modField s f g).alarm = s.alarm := by
  simp [State.modField]

@[simp] theorem State.setNed_alarm (s : State) (k : Nat) (x : Ned) : (State.setNed s k x).alarm = s.alarm := by
  unfold State.setNed; simp only [State.alarm, Alarm.mk.injEq] <;> simp [↓alarm_mk, alarm_eqs]

@[simp] theorem State.modNed_alarm (s : State) (k : Nat) (f : Ned → Ned) : (State.modNed s k f).alarm = s.alarm := by
  simp [State.modNed]

@[simp] theorem State.setMed_alarm (s : State) (k : Nat) (x : Med) : (State.setMed s k x).alarm = s.alarm := by
  unfold State.setMed; simp only [State.alarm, Alarm.mk.injEq] <;> simp [↓alarm_mk, alarm_eqs]

@[simp] theorem State.modMed_alarm (s : State) (k : Nat) (f : Med → Med) : (State.modMed s k f).alarm = s.alarm := by
  simp [State.modMed]

@[simp] theorem State.setSpd_alarm (s : State) (k : Nat) (x : Spd) : (State.setSpd s k x).alarm = s.alarm := by
  unfold State.setSpd; simp only [State.alarm, Alarm.mk.injEq] <;> simp [↓alarm_mk, alarm_eqs]

@[simp] theorem State.modSpd_alarm (s : State) (k : Nat) (f : Spd → Spd) : (State.modSpd s k f).alarm = s.alarm := by
  simp [State.modSpd]

@[simp] theorem State.setShc_alarm (s : State) (i : Nat) (x : Shc) : (State.setShc s i x).alarm = s.alarm := by
  unfold State.setShc; simp only [State.alarm, Alarm.mk.injEq] <;> simp [↓alarm_mk, alarm_eqs]

@[simp] theorem State.modShc_alarm (s : State) (i : Nat) (f : Shc → Shc) : (State.modShc s i f).alarm = s.alarm := by
  simp [State.modShc]

@[simp] theorem State.setLink_alarm (s : State) (x lane : Nat) (l : LinkEnd) : (State.setLink s x lane l).alarm = s.alarm := by
  unfold State.setLink; simp only [State.alarm, Alarm.mk.injEq] <;> simp [↓alarm_mk, alarm_eqs]

@[simp] theorem State.modLink_alarm (s : State) (x lane : Nat) (f : LinkEnd → LinkEnd) : (State.modLink s x lane f).alarm = s.alarm := by
  simp [State.modLink]

@[simp] theorem State.setEntry_alarm (s : State) (n : Nat) (e : MapEntry) : (State.setEntry s n e).alarm = s.alarm := by
  unfold State.setEntry; simp only [State.alarm, Alarm.mk.injEq] <;> simp [↓alarm_mk, alarm_eqs]

@[simp] theorem State.modFold_alarm (s : State) (id : Nat) (g : Fold → Fold) : (State.modFold s id g).alarm = s.alarm := by
  unfold State.modFold; simp only [State.alarm, Alarm.mk.injEq] <;> simp [↓alarm_mk, alarm_eqs]

@[simp] theorem State.setSession_alarm (s : State) (num : Nat) (x : Session) : (State.setSession s num x).alarm = s.alarm := by
  unfold State.setSession; simp only [State.alarm, Alarm.mk.injEq] <;> simp [↓alarm_mk, alarm_eqs]

@[simp] theorem State.putChannel_alarm (s : State) (c : Channel) : (State.putChannel s c).alarm = s.alarm := by
  unfold State.putChannel; simp only [State.alarm, Alarm.mk.injEq] <;> simp [↓alarm_mk, alarm_eqs]

@[simp] theorem State.addTally_alarm (s : State) (scope : TScope) (id idx n : Nat) : (State.addTally s scope id idx n).alarm = s.alarm := by
  unfold State.addTally; simp only [State.alarm, Alarm.mk.injEq] <;> simp [↓alarm_mk, alarm_eqs]

@[simp] theorem State.count_alarm (s : State) (scope : TScope) (id idx : Nat) : (State.count s scope id idx).alarm = s.alarm := by
  simp [State.count]

@[simp] theorem State.noteStray_alarm (s : State) (fold : Nat) : (State.noteStray s fold).alarm = s.alarm := by
  simp [State.noteStray]

@[simp] theorem State.countChan_alarm (s : State) (ned bind handle idx n : Nat) : (State.countChan s ned bind handle idx n).alarm = s.alarm := by
  simp [State.countChan]

@[simp] theorem State.setFoldSt_alarm (s : State) (id : Nat) (st : FoldState) : (State.setFoldSt s id st).alarm = s.alarm := by
  unfold State.setFoldSt; simp only [State.alarm, Alarm.mk.injEq] <;> simp [↓alarm_mk, alarm_eqs]

@[simp] theorem State.ring_alarm (s : State) (obj : String) (fault : Bool) (kv : KVs) : (s.ring obj fault kv).alarm = s.alarm := by
  unfold State.ring
  split
  · rfl
  · exact (State.addTally_alarm _ _ _ _ _).trans rfl

@[simp] theorem State.goDark_alarm (s : State) (n : Nat) : (State.goDark s n).alarm = s.alarm := by
  unfold State.goDark; simp only [State.alarm, Alarm.mk.injEq] <;> simp [↓alarm_mk, alarm_eqs]

@[simp] theorem State.enqueueWave_alarm (s : State) (n : Nat) (goal : Power) : (State.enqueueWave s n goal).alarm = s.alarm := by
  unfold State.enqueueWave; simp only [State.alarm, Alarm.mk.injEq] <;> simp [↓alarm_mk, alarm_eqs]

@[simp] theorem State.dissolveYoke_alarm (s : State) (n : Nat) : (State.dissolveYoke s n).alarm = s.alarm := by
  simp [State.dissolveYoke]

@[simp] theorem State.markHole_alarm (s : State) (n cause : Nat) (quiet : Bool) : (State.markHole s n cause quiet).alarm = s.alarm := by
  unfold State.markHole; simp only [State.alarm, Alarm.mk.injEq] <;> simp [↓alarm_mk, alarm_eqs]

@[simp] theorem State.reinject_alarm (s : State) : (State.reinject s).alarm = s.alarm := by
  simp [State.reinject]

/-- What an event leaves alone, its moment aside. -/
theorem State.event_alarm (s : State) (t : Time) (c : State → Bool) (f : State → State)
    (h : c (s.tick t) = true → (f (s.tick t)).alarm = s.alarm) : (s.event t c f).alarm = s.alarm := by
  unfold State.event
  split
  · rename_i g
    exact h (by simpa using (Bool.and_eq_true _ _ ▸ g).2)
  · rfl

@[simp] theorem State.setCs_alarm (s : State) (i : Nat) (c : CSess) : (State.setCs s i c).alarm = s.alarm := by
  unfold State.setCs; simp only [State.alarm, Alarm.mk.injEq] <;> simp [↓alarm_mk, alarm_eqs]

@[simp] theorem State.modCs_alarm (s : State) (i : Nat) (f : CSess → CSess) : (State.modCs s i f).alarm = s.alarm := by
  simp [State.modCs]

@[simp] theorem State.say_alarm (s : State) (i : Nat) (o : Out) : (State.say s i o).alarm = s.alarm := by
  simp [State.say]

@[simp] theorem State.prompt_alarm (s : State) (i : Nat) : (State.prompt s i).alarm = s.alarm := by
  simp [State.prompt]

@[simp] theorem State.final_alarm (s : State) (i : Nat) (tag : Option (List Byte)) (crc : Bool) (r : RLine) : (State.final s i tag crc r).alarm = s.alarm := by
  simp [State.final]

@[simp] theorem State.answer_alarm (s : State) (ln : Ln) (r : RLine) : (State.answer s ln r).alarm = s.alarm := by
  unfold State.answer
  (repeat' split) <;> simp

@[simp] theorem State.ok_alarm (s : State) (ln : Ln) (kv : KVs) : (State.ok s ln kv).alarm = s.alarm := by
  simp [State.ok]

@[simp] theorem State.err_alarm (s : State) (ln : Ln) (code : Nat) (kv : KVs) : (State.err s ln code kv).alarm = s.alarm := by
  simp [State.err]

@[simp] theorem State.settle_alarm (s : State) (p : WaitFor → Bool) (r : RLine) : (State.settle s p r).alarm = s.alarm := by
  unfold State.settle; simp only [State.alarm, Alarm.mk.injEq] <;> simp [↓alarm_mk, alarm_eqs]

@[simp] theorem State.mirror_alarm (s : State) : (State.mirror s).alarm = s.alarm := by
  unfold State.mirror
  (repeat' split) <;> first | (simp; done) | (simp only [State.alarm, Alarm.mk.injEq] <;> simp [↓alarm_mk, alarm_eqs])

@[simp] theorem State.syncCredits_alarm (s : State) (x lane : Nat) : (State.syncCredits s x lane).alarm = s.alarm := by
  unfold State.syncCredits
  (repeat' split) <;> simp

@[simp] theorem State.syncBorders_alarm (s : State) (n : Nat) : (State.syncBorders s n).alarm = s.alarm := by
  unfold State.syncBorders
  dsimp only
  (repeat' split) <;> first | rfl | (simp (disch := (intros; (repeat' split) <;> simp)); done) | (simp only [State.alarm, Alarm.mk.injEq] <;> simp (disch := (intros; (repeat' split) <;> simp)) [↓alarm_mk, alarm_eqs])

@[simp] theorem State.sessMod_alarm (s : State) (r : Req) (f : Session → Session) : (State.sessMod s r f).alarm = s.alarm := by
  unfold State.sessMod
  (repeat' split) <;> simp

@[simp] theorem State.countReq_alarm (s : State) (k : Nat) (r : Req) (idx n : Nat) : (State.countReq s k r idx n).alarm = s.alarm := by
  simp [State.countReq]

@[simp] theorem State.countReply_alarm (s : State) (k : Nat) (r : Req) (back : Bool) : (State.countReply s k r back).alarm = s.alarm := by
  unfold State.countReply
  (repeat' split) <;> simp

@[simp] theorem State.endReq_alarm (s : State) (k : Nat) (r : Req) : (State.endReq s k r).alarm = s.alarm := by
  simp [State.endReq]

@[simp] theorem State.closeTag_alarm (s : State) (k : Nat) (r : Req) (stray : Bool) : (State.closeTag s k r stray).alarm = s.alarm := by
  simp [State.closeTag]

@[simp] theorem State.releaseFcs_alarm (s : State) (k : Nat) (r : Req) : (State.releaseFcs s k r).alarm = s.alarm := by
  unfold State.releaseFcs; simp only [State.alarm, Alarm.mk.injEq] <;> simp [↓alarm_mk, alarm_eqs]

@[simp] theorem State.startReply_alarm (s : State) (k : Nat) (r : Req) (rep : Reply) (at_ : Time) : (State.startReply s k r rep at_).alarm = s.alarm := by
  unfold State.startReply; simp only [State.alarm, Alarm.mk.injEq] <;> simp [↓alarm_mk, alarm_eqs]

@[simp] theorem State.compose_alarm (s : State) (k : Nat) (r : Req) (rep : Reply) : (State.compose s k r rep).alarm = s.alarm := by
  unfold State.compose
  dsimp only
  (repeat' split) <;> simp

@[simp] theorem State.stomp_alarm (s : State) (k : Nat) (r : Req) (whole : Bool) : (State.stomp s k r whole).alarm = s.alarm := by
  unfold State.stomp; simp only [State.alarm, Alarm.mk.injEq] <;> simp [↓alarm_mk, alarm_eqs]

@[simp] theorem State.unsend_alarm (s : State) (k : Nat) (r : Req) : (State.unsend s k r).alarm = s.alarm := by
  unfold State.unsend; simp only [State.alarm, Alarm.mk.injEq] <;> simp [↓alarm_mk, alarm_eqs]

@[simp] theorem State.stompSent_alarm (s : State) (k : Nat) (r : Req) : (State.stompSent s k r).alarm = s.alarm := by
  simp [State.stompSent]

@[simp] theorem State.refuseReq_alarm (s : State) (k : Nat) (r : Req) (reason : Nat) : (State.refuseReq s k r reason).alarm = s.alarm := by
  simp [State.refuseReq]

@[simp] theorem State.dropReq_alarm (s : State) (k : Nat) (r : Req) : (State.dropReq s k r).alarm = s.alarm := by
  simp [State.dropReq]

@[simp] theorem State.loseSession_alarm (s : State) (num : Nat) : (State.loseSession s num).alarm = s.alarm := by
  simp [State.loseSession]

@[simp] theorem State.raiseQ_alarm (s : State) (fold key : Nat) (ds : List (Nat × Nat)) : (State.raiseQ s fold key ds).alarm = s.alarm := by
  simp [State.raiseQ]

@[simp] theorem State.freeSlot_alarm (s : State) (x lane : Nat) (vc : Bool) : (State.freeSlot s x lane vc).alarm = s.alarm := by
  simp [State.freeSlot]

@[simp] theorem State.medSend_alarm (s : State) (k : Nat) (out : List (MedPort × Flit)) : (State.medSend s k out).alarm = s.alarm := by
  simp [State.medSend]

@[simp] theorem State.revokeSpan_alarm (s : State) (fold : Nat) (reconf : Bool) : (State.revokeSpan s fold reconf).alarm = s.alarm := by
  simp [State.revokeSpan]

@[simp] theorem State.powerRun_alarm (s : State) (n : Nat) : (State.powerRun s n).alarm = s.alarm := by
  unfold State.powerRun; simp only [State.alarm, Alarm.mk.injEq] <;> simp [↓alarm_mk, alarm_eqs]

@[simp] theorem State.dropBuffers_alarm (s : State) (n : Nat) (fold : Option Nat) : (State.dropBuffers s n fold).alarm = s.alarm := by
  simp [State.dropBuffers]

@[simp] theorem State.revokeFold_alarm (s : State) (n fold : Nat) : (State.revokeFold s n fold).alarm = s.alarm := by
  simp [State.revokeFold]

@[simp] theorem State.hurdleFor_alarm (s : State) (n fold : Nat) : (State.hurdleFor s n fold).alarm = s.alarm := by
  simp [State.hurdleFor]

@[simp] theorem State.startRouter_alarm (s : State) (n : Nat) : (State.startRouter s n).alarm = s.alarm := by
  simp [State.startRouter]

@[simp] theorem State.shearPad_alarm (s : State) (n : Nat) : (State.shearPad s n).alarm = s.alarm := by
  simp [State.shearPad]

@[simp] theorem State.shearSlot_alarm (s : State) (n k fold : Nat) : (State.shearSlot s n k fold).alarm = s.alarm := by
  simp [State.shearSlot]

@[simp] theorem State.leasePads_alarm (s : State) (id : Nat) (excl : List Nat) (slots : List (Nat × Nat)) : (State.leasePads s id excl slots).alarm = s.alarm := by
  simp [State.leasePads]

@[simp] theorem State.settleUnleased_alarm (s : State) (n : Nat) : (State.settleUnleased s n).alarm = s.alarm := by
  unfold State.settleUnleased
  dsimp only
  (repeat' split) <;> first | rfl | (simp; done) | (simp only [State.alarm, Alarm.mk.injEq] <;> simp [↓alarm_mk, alarm_eqs])

@[simp] theorem State.unleasePad_alarm (s : State) (n fold : Nat) : (State.unleasePad s n fold).alarm = s.alarm := by
  simp [State.unleasePad]

@[simp] theorem State.unleaseSlot_alarm (s : State) (n k fold : Nat) : (State.unleaseSlot s n k fold).alarm = s.alarm := by
  simp [State.unleaseSlot]

@[simp] theorem State.revokePages_alarm (s : State) (ps : List (Nat × Nat)) : (State.revokePages s ps).alarm = s.alarm := by
  simp [State.revokePages]

@[simp] theorem State.refuseAll_alarm (s : State) (p : Nat → Req → Bool) (reason : Nat) : (State.refuseAll s p reason).alarm = s.alarm := by
  simp [State.refuseAll]

@[simp] theorem State.waferOut_alarm (s : State) (fold reason : Nat) : (State.waferOut s fold reason).alarm = s.alarm := by
  simp [State.waferOut]

@[simp] theorem State.syncPause_alarm (s : State) : (State.syncPause s).alarm = s.alarm := by
  unfold State.syncPause
  (repeat' split) <;> first | (simp; done) | (simp only [State.alarm, Alarm.mk.injEq] <;> simp [↓alarm_mk, alarm_eqs])

@[simp] theorem State.finishRelease_alarm (s : State) (f : Fold) : (State.finishRelease s f).alarm = s.alarm := by
  unfold State.finishRelease; simp only [State.alarm, Alarm.mk.injEq] <;> simp [↓alarm_mk, alarm_eqs]

@[simp] theorem State.releaseStep_alarm (s : State) (id : Nat) : (State.releaseStep s id).alarm = s.alarm := by
  unfold State.releaseStep
  (repeat' split) <;> simp

@[simp] theorem State.takeOut_alarm (s : State) (id : Nat) (ps : List Nat) (qs : List (Nat × Nat)) (is : List Nat) : (State.takeOut s id ps qs is).alarm = s.alarm := by
  unfold State.takeOut
  (repeat' split) <;> simp

@[simp] theorem State.clearFold_alarm (s : State) (f : Fold) : (State.clearFold s f).alarm = s.alarm := by
  simp [State.clearFold]

@[simp] theorem State.returnAdded_alarm (s : State) (id : Nat) : (State.returnAdded s id).alarm = s.alarm := by
  unfold State.returnAdded
  (repeat' split) <;> simp

@[simp] theorem State.freeStaged_alarm (s : State) (cs : List (Nat × Nat)) : (State.freeStaged s cs).alarm = s.alarm := by
  simp [State.freeStaged]

@[simp] theorem State.loadFail_alarm (s : State) (id code : Nat) (cause : Option String) : (State.loadFail s id code cause).alarm = s.alarm := by
  unfold State.loadFail
  (repeat' split) <;> first | (simp; done) | (simp only [State.alarm, Alarm.mk.injEq] <;> simp [↓alarm_mk, alarm_eqs])

@[simp] theorem State.rebindChannel_alarm (s : State) (id : Nat) (c : Channel) (old new : Entry) : (State.rebindChannel s id c old new).alarm = s.alarm := by
  unfold State.rebindChannel; simp only [State.alarm, Alarm.mk.injEq] <;> simp [↓alarm_mk, alarm_eqs]

@[simp] theorem State.rebindAll_alarm (s : State) (id : Nat) (old : Option Image) (im : Image) : (State.rebindAll s id old im).alarm = s.alarm := by
  unfold State.rebindAll
  refine foldl_alarm _ (fun _ _ => ?_) _ _
  (repeat' split) <;> simp

@[simp] theorem State.commitImage_alarm (s : State) (id : Nat) (im : Image) (container : List Byte) : (State.commitImage s id im container).alarm = s.alarm := by
  unfold State.commitImage
  (repeat' split) <;> first | (simp; done) | (simp only [State.alarm, Alarm.mk.injEq] <;> simp [↓alarm_mk, alarm_eqs])

@[simp] theorem State.dropUnnamed_alarm (s : State) (id : Nat) (im : Image) : (State.dropUnnamed s id im).alarm = s.alarm := by
  unfold State.dropUnnamed
  (repeat' split) <;> simp

@[simp] theorem State.dropSource_alarm (s : State) (n : Nat) : (State.dropSource s n).alarm = s.alarm := by
  simp [State.dropSource]

@[simp] theorem State.raiseYoke_alarm (s : State) (f : Fold) (n : Nat) : (State.raiseYoke s f n).alarm = s.alarm := by
  unfold State.raiseYoke
  (repeat' split) <;> simp

@[simp] theorem State.notify_alarm (s : State) (id : Nat) (next : FoldState) : (State.notify s id next).alarm = s.alarm := by
  unfold State.notify; simp only [State.alarm, Alarm.mk.injEq] <;> simp [↓alarm_mk, alarm_eqs]

@[simp] theorem State.toCheckpoint_alarm (s : State) (id : Nat) : (State.toCheckpoint s id).alarm = s.alarm := by
  unfold State.toCheckpoint
  (repeat' split) <;> simp

@[simp] theorem State.endLoadInDoubt_alarm (s : State) (f : Fold) (padFails : Bool) (tr : Trigger) : (State.endLoadInDoubt s f padFails tr).alarm = s.alarm := by
  unfold State.endLoadInDoubt
  (repeat' split) <;> simp

end Sys2Proof.Machine

/-! Reports and notices (R659–R665). -/
namespace Sys2Proof.Machine

open Sys2Proof

/-! FAULT_N, once asserted, stays so through a report. -/

theorem fault_of_alarm {s t : State} (h : t.alarm = s.alarm) (on : s.faultN = true) : t.faultN = true :=
  (congrArg Alarm.faultN h :).trans on

theorem State.report_fault {s : State} (on : s.faultN = true) (tr : Trigger) (folds : List Nat) (place : Nat) :
    (s.report tr folds place).faultN = true := by
  unfold State.report
  split
  · exact on
  · rfl

theorem State.dieBell_fault (s : State) (obj : String) (k cause : Nat) : (s.dieBell obj k cause).faultN = true :=
  fault_of_alarm (State.ring_alarm _ _ _ _) rfl

theorem State.foldBell_fault (s : State) (id : Nat) (st : String) (tr : Trigger) (place : Nat) (kv : KVs) :
    (s.foldBell id st tr place kv).faultN = true := fault_of_alarm (State.ring_alarm _ _ _ _) rfl

theorem State.nedEnterDoubt_fault {s : State} (on : s.faultN = true) (k cause : Nat) : (s.nedEnterDoubt k cause).faultN = true := by
  unfold State.nedEnterDoubt
  split
  · exact on
  · exact fault_of_alarm (State.reinject_alarm _) (State.dieBell_fault _ _ _ _)

theorem State.medEnterDoubt_fault {s : State} (on : s.faultN = true) (k cause : Nat) : (s.medEnterDoubt k cause).faultN = true := by
  unfold State.medEnterDoubt
  split
  · exact on
  · exact fault_of_alarm (State.reinject_alarm _) (State.dieBell_fault _ _ _ _)

theorem State.spdEnterDoubt_fault {s : State} (on : s.faultN = true) (k cause : Nat) : (s.spdEnterDoubt k cause).faultN = true := by
  unfold State.spdEnterDoubt
  split
  · exact on
  · exact fault_of_alarm (State.reinject_alarm _) (State.dieBell_fault _ _ _ _)

theorem State.dieCutOff_fault {s : State} (on : s.faultN = true) (d : Nat) : (s.dieCutOff d).faultN = true := by
  unfold State.dieCutOff
  split
  · split
    · exact State.nedEnterDoubt_fault on _ _
    split
    · exact State.medEnterDoubt_fault on _ _
    split
    · exact State.spdEnterDoubt_fault on _ _
    · exact on
  · exact on

theorem State.makeHole_fault {s : State} (on : s.faultN = true) (n cause : Nat) (quiet : Bool) : (s.makeHole n cause quiet).faultN = true :=
  foldl_inv _ (P := fun u : State => u.faultN = true) (fault_of_alarm (State.markHole_alarm _ _ _ _) on) fun _ d k => State.dieCutOff_fault k d

theorem State.markFailed_fault {s : State} (on : s.faultN = true) (ns : List Nat) (tr : Trigger) : (s.markFailed ns tr).faultN = true :=
  foldl_inv _ (P := fun u : State => u.faultN = true) on fun u n k => by
    split
    · exact k
    · exact State.makeHole_fault (fault_of_alarm (State.goDark_alarm _ _) k) _ _ _

theorem State.moveLease_fault {s : State} (on : s.faultN = true) (id n t : Nat) (tr : Trigger) : (s.moveLease id n t tr).faultN = true := by
  unfold State.moveLease
  extract_lets p ks s1 s2 s3 s4
  have leased : s1.alarm = s.alarm := by
    simp only [s1]
    split <;> simp
  have entered : s2.alarm = s.alarm := by
    simp only [s2]
    split <;> simp [leased]
  have left : s3.faultN = true := fault_of_alarm (by simp [s3, entered]) on
  refine fault_of_alarm (State.modFold_alarm _ _ _) ?_
  simp only [s4]
  split
  · exact left
  · exact State.makeHole_fault left _ _ _

theorem State.stopFold_fault (s : State) (id : Nat) (tr : Trigger) (place : Nat) (kv : KVs) : (s.stopFold id tr place kv).faultN = true :=
  fault_of_alarm (State.mirror_alarm _) (State.foldBell_fault _ _ _ _ _ _)

theorem State.enterMigrating_fault {s : State} (on : s.faultN = true) (f : Fold) (r : Recovery) : (s.enterMigrating f r).faultN = true := by
  unfold State.enterMigrating
  extract_lets since s1 s2
  refine fault_of_alarm (State.mirror_alarm _) ?_
  split
  · exact fault_of_alarm (by simp [s2, s1]) on
  · exact State.foldBell_fault _ _ _ _ _ _

theorem State.startRestart_fault {s : State} (on : s.faultN = true) (id : Nat) (tr : Trigger) (place : Nat) :
    (s.startRestart id tr place).faultN = true := by
  unfold State.startRestart
  split
  · exact on
  · exact State.enterMigrating_fault on _ _

theorem State.startMigration_fault {s : State} (on : s.faultN = true) (id : Nat) (failed : List Nat) (tr : Trigger) (place : Nat) :
    (s.startMigration id failed tr place).faultN = true := by
  unfold State.startMigration
  split
  · exact on
  split
  · exact State.stopFold_fault _ _ _ _ _
  dsimp only
  split
  · exact State.stopFold_fault _ _ _ _ _
  · refine State.enterMigrating_fault ?_ _ _
    have moved (picks : List (Nat × Nat)) (f : Fold) :
        (picks.foldl (fun s q => s.moveLease id q.1 q.2 tr) (failed.foldl (fun s n => s.raiseYoke f n) s)).faultN = true :=
      foldl_inv _ (P := fun u : State => u.faultN = true) (fault_of_alarm (by simp) on) fun _ q k => State.moveLease_fault k _ _ _ _
    split
    · exact moved _ _
    · exact fault_of_alarm (foldl_alarm _ (fun u (q : Nat × Nat) => State.dropSource_alarm u q.1) _ _) (moved _ _)

theorem State.doubtFold_fault {s : State} (on : s.faultN = true) (tr : Trigger) (place : Nat) (gone : Bool) (id : Nat) :
    (s.doubtFold tr place gone id).faultN = true := by
  unfold State.doubtFold
  split
  · exact on
  rename_i f _
  extract_lets failed c fails
  clear_value c
  have marked : (if c = .fleece then s.markFailed failed tr else s).faultN = true := by
    split
    · exact State.markFailed_fault on _ _
    · exact on
  split
  · exact on
  split
  · exact on
  · split
    · exact fault_of_alarm ((State.releaseStep_alarm _ _).trans (State.settle_alarm _ _ _)) marked
    · exact marked
  · exact marked
  · have failedLoad (x : Option String) : ((s.count .fold id tfDoubt).loadFail id 799 x).faultN = true := fault_of_alarm (by simp) on
    split
    · exact State.markFailed_fault (failedLoad _) _ _
    · exact failedLoad _
  · extract_lets s0 s1 s2 s3
    have first : s1.faultN = true := by
      refine fault_of_alarm ?_ on
      simp only [s1, s0]
      (repeat' split) <;> simp
    split
    · exact State.stopFold_fault _ _ _ _ _
    · exact State.startMigration_fault first _ _ _ _
    · exact State.startMigration_fault first _ _ _ _
    · split
      · exact fault_of_alarm (by simp) first
      split
      · exact first
      · exact fault_of_alarm (State.mirror_alarm _) (State.foldBell_fault _ _ _ _ _ _)
    · split
      · exact first
      split
      · split
        · exact State.startRestart_fault first _ _ _
        · exact fault_of_alarm (by simp) first
      · exact State.startRestart_fault first _ _ _

theorem State.reported_fault {s : State} (on : s.faultN = true) (tr : Trigger) (place : Nat) (folds : List Nat) :
    (s.reported tr place folds).faultN = true := by
  unfold State.reported
  extract_lets gone s1
  have doubted : s1.faultN = true := foldl_inv _ (P := fun u : State => u.faultN = true) on fun _ id k => State.doubtFold_fault k _ _ _ id
  split
  · exact State.markFailed_fault doubted _ _
  · exact doubted

/-! A report of one fold, which its means stop or restart. -/

/-- The paddock that a report names does not fail where the fold is to be stopped or restarted. -/
theorem State.padFails_of_means {s : State} {id : Nat} {f : Fold} (found : s.foldOf id = some f) {tr : Trigger} {place : Nat}
    (means : s.meansFor f tr place ≠ .fleece) : s.padFails tr place [id] = false := by
  have lasting : tr ≠ .eccLasting := by
    rintro rfl
    exact means rfl
  have residue : tr ≠ .residue := by
    rintro rfl
    exact means rfl
  by_cases tile : tr = .tileEcc
  · subst tile
    have first : f.repeated .tileEcc place s.now = false := by
      by_contra again
      exact means (if_pos (Bool.not_eq_false _ ▸ again))
    simp [State.padFails, found, first]
  · simp [State.padFails, lasting, residue, tile]

theorem State.reported_one {s : State} {id : Nat} {f : Fold} (found : s.foldOf id = some f) {tr : Trigger} {place : Nat}
    (means : s.meansFor f tr place ≠ .fleece) : s.reported tr place [id] = s.doubtFold tr place false id := by
  unfold State.reported
  rw [State.padFails_of_means found means]
  rfl

/-- What a trigger does to a fold in service, or in doubt already, before its means are taken. -/
def State.doubtOpens (s : State) (f : Fold) (id : Nat) (fails : Bool) (tr : Trigger) : State :=
  let s0 := (if f.st = .doubt || f.st = .migrating then s else s.count .fold id tfDoubt).revokeSpan id false
  if f.st = .doubt || f.st = .migrating then s0 else s0.endLoadInDoubt f fails tr

theorem State.doubtOpens_own {s : State} {id : Nat} {f : Fold} (found : s.foldOf id = some f) (load : f.load = none) (fails : Bool) (tr : Trigger) :
    ∃ g, (s.doubtOpens f id fails tr).foldOf id = some g ∧ g.st = f.st := by
  have same : f.id = id := State.setFoldSt_id found
  unfold State.doubtOpens
  extract_lets s0
  have revoked : s0.kin = s.kin := by
    simp only [s0]
    split <;> simp
  obtain ⟨g, own, stands⟩ := stand_of_kin revoked found
  have st : g.st = f.st := congrArg Stand.st stands
  split
  · exact ⟨g, own, st⟩
  · simp only [State.endLoadInDoubt, load, same]
    exact ⟨_, State.modFold_own own fun _ => rfl, st⟩

/-- A fold in service, or already on its way back. -/
def Fold.inService (f : Fold) : Prop := f.st = .running ∨ f.st = .reconfiguring ∨ f.st = .checkpointing

theorem State.doubtFold_stops {s : State} {id : Nat} {f : Fold} (found : s.foldOf id = some f) (release : f.release = none)
    (st : f.inService ∨ f.st = .doubt ∨ f.st = .migrating) {tr : Trigger} {place : Nat} (means : s.meansFor f tr place = .stop) :
    s.doubtFold tr place false id = (s.doubtOpens f id false tr).stopFold id tr place [] := by
  have opens : s.doubtFold tr place false id = match f.st with
      | .running | .reconfiguring | .checkpointing | .doubt | .migrating => (s.doubtOpens f id false tr).stopFold id tr place []
      | _ => s.doubtFold tr place false id := by
    unfold State.doubtOpens
    cases e : f.st <;> simp [State.doubtFold, found, release, means, e]
  rw [opens]
  obtain (st | st | st) | st | st := st <;> rw [st]

theorem State.doubtFold_restarts {s : State} {id : Nat} {f : Fold} (found : s.foldOf id = some f) (release : f.release = none)
    (st : f.inService) {tr : Trigger} {place : Nat} (means : s.meansFor f tr place = .restart) :
    s.doubtFold tr place false id = (s.doubtOpens f id false tr).startRestart id tr place := by
  have opens : s.doubtFold tr place false id = match f.st with
      | .running | .reconfiguring | .checkpointing => (s.doubtOpens f id false tr).startRestart id tr place
      | _ => s.doubtFold tr place false id := by
    unfold State.doubtOpens
    cases e : f.st <;> simp [State.doubtFold, found, release, means, e]
  rw [opens]
  obtain st | st | st := st <;> rw [st]

theorem State.enterMigrating_effect {s : State} {f : Fold} (found : s.foldOf f.id = some f) (r : Recovery) :
    ∃ g, (s.enterMigrating f r).foldOf f.id = some g ∧ g.st = .migrating ∧ (g.recovery.map fun x => x.means) = some r.means
      ∧ (s.enterMigrating f r).notice f.id = some .migrating := by
  unfold State.enterMigrating
  extract_lets since s1 s2
  obtain ⟨g, own, e⟩ := State.syncPause_own (State.modFold_own (State.setFoldSt_own found .migrating) (g := fun g =>
    { g with recovery := some { r with since := since }, muster := none, transition := if r.means = .fleece then g.transition else none }) fun _ => rfl)
  have st : g.st = .migrating := by rcases e with rfl | ⟨p, rfl⟩ <;> rfl
  have means : (g.recovery.map fun x => x.means) = some r.means := by rcases e with rfl | ⟨p, rfl⟩ <;> rfl
  change s1.syncPause.foldOf f.id = some g at own
  have told : ((if f.st = .migrating then s2 else s2.foldBell f.id "migrating" r.trigger r.place []).mirror).fld = s1.syncPause.fld
      ∧ ((if f.st = .migrating then s2 else s2.foldBell f.id "migrating" r.trigger r.place []).mirror).notices = s2.notices := by
    split
    · exact ⟨by simp [s2], by simp⟩
    · exact ⟨by simp [s2], by simp [State.foldBell]⟩
  obtain ⟨fld, notices⟩ := told
  have last := (foldOf_of_fld fld f.id).trans own
  refine ⟨g, last, st, means, ?_⟩
  have find : s2.notices.find? (fun x => x.fold = f.id) = some ⟨f.id, .migrating, s1.syncPause.now⟩ := by
    simp only [s2, State.notify]
    rw [List.find?_append, List.find?_eq_none.mpr (by simp)]
    simp
  unfold State.notice
  rw [State.stOf, last, notices, find]
  simp [st]

theorem State.startRestart_effect {s : State} {id : Nat} {f : Fold} (found : s.foldOf id = some f) (tr : Trigger) (place : Nat) :
    ∃ g, (s.startRestart id tr place).foldOf id = some g ∧ g.st = .migrating ∧ (g.recovery.map fun x => x.means) = some .restart
      ∧ (s.startRestart id tr place).notice id = some .migrating := by
  obtain rfl : f.id = id := State.setFoldSt_id found
  simp only [State.startRestart, found]
  exact State.enterMigrating_effect found _

/-! Notices at a paddock (R662). -/

@[simp] theorem State.dropBuffers_plant (s : State) (n : Nat) (fold : Option Nat) : (s.dropBuffers n fold).plant = s.plant :=
  foldl_eq State.plant _ _ fun t i _ => by
    extract_lets x lane vc b keep gone s1
    split
    · rfl
    · refine (foldl_eq State.plant _ _ fun u g _ => ?_).trans (by simp [s1])
      split <;> simp

/-- A notice masks and hurdles the paddock of a fold that holds it. -/
theorem State.padNotice_excl {s : State} {n id : Nat} (held : (s.pad n).excl = id) (some_ : id ≠ 0) :
    (((s.modPad n fun p => p.maskFolds [id]).hurdleFor n id).pad n).hurdled = true
      ∧ (((s.modPad n fun p => p.maskFolds [id]).hurdleFor n id).pad n).masked = true := by
  have masks : (s.pad n).maskFolds [id] = (s.pad n).maskAll := by simp [Paddock.maskFolds, held, some_]
  have same (t : State) : (t.hurdleFor n id).pad n = { t.pad n with hurdled := true, revoked := ((t.hurdleFor n id).pad n).revoked } := by
    have kept : (t.hurdleFor n id).plant = ((t.modPad n fun p => { p with hurdled := true }).modPad n fun p =>
        { p with revoked := (p.revoked.filter fun r => r % 64 ≠ id) ++ (List.range 4).map fun d => 64 * d + id }).plant := by
      simp [State.hurdleFor, State.revokeFold]
    rw [pad_of_plant kept]
    simp
  rw [same, State.modPad_pad, if_pos rfl, masks]
  exact ⟨rfl, rfl⟩

/-- The contexts of a paddock that a fold has as slots. -/
def Paddock.slotsOf (p : Paddock) (id : Nat) : List Nat :=
  (List.range 4).filter fun k => [id].contains (p.slots.getD k 0) && p.slots.getD k 0 ≠ 0

theorem Paddock.maskFolds_slots {p : Paddock} (shared : p.excl = 0) (id : Nat) :
    (p.maskFolds [id]).maskedCtx = (p.maskedCtx ++ p.slotsOf id).eraseDups ∧ (p.maskFolds [id]).hurdled = p.hurdled := by
  simp [Paddock.maskFolds, shared, Paddock.slotsOf]

theorem Paddock.mem_slotsOf {p : Paddock} {id j : Nat} : j ∈ p.slotsOf id ↔ j < 4 ∧ p.slots.getD j 0 = id ∧ p.slots.getD j 0 ≠ 0 := by
  simp [Paddock.slotsOf]

/-- A report that is there is received. -/
theorem report_due {s : State} {r : PendReport} (active : s.active.isSome) (mem : r ∈ s.reports) (t : Time) :
    ((s.tick t).active.isSome && (s.tick t).reports.any fun x => x.trigger = r.trigger && x.folds = r.folds && x.place = r.place) = true := by
  simp only [State.tick_fields, active, Bool.true_and, List.any_eq_true]
  exact ⟨r, mem, by simp⟩

/-- A report taken from those that wait, with FAULT_N asserted (R663). -/
def State.hearReport (s : State) (r : PendReport) : State :=
  { s with faultN := true, reports := dropFirst (fun x => x.trigger = r.trigger && x.folds = r.folds && x.place = r.place) s.reports }

theorem reportReceived_next {s : State} {r : PendReport} {t : Time} {P : State → Prop} (running : s.resetN = false) (active : s.active.isSome)
    (mem : r ∈ s.reports) (p : P (((s.tick t).hearReport r).reported r.trigger r.place r.folds)) :
    ∃ u, exec (.reportReceived r.trigger r.folds r.place t) s = .next u ∧ P u :=
  event_next running (report_due active mem t) p

/-- Settles O16: FAULT_N stays asserted through every doubt of a report, a fold's means are one of `stopFold` and `startRestart`, and a
notice refuses the request or masks what the fold holds. -/
theorem reportsAndNotices : Obligations.ReportsAndNotices := by
  refine ⟨fun r t s running active mem => ?received, fun r id f t s running active mem folds found means release load st => ?stops,
    fun r id f t s running active mem folds found means release load st => ?restarts, fun t s running late => ?resent,
    fun k id r x t s size running sound notice reqs fold phase good => ?refused, fun n id t s running notice held some_ => ?hurdled,
    fun n k id t s running notice shared low slot some_ => ?masked⟩
  case received => exact reportReceived_next running active mem (State.reported_fault rfl _ _ _)
  case stops =>
    refine reportReceived_next running active mem ?_
    have found' : ((s.tick t).hearReport r).foldOf id = some f := found
    have means' : ((s.tick t).hearReport r).meansFor f r.trigger r.place = .stop := means
    have service : f.inService ∨ f.st = .doubt ∨ f.st = .migrating := by
      obtain st | st | st | st := st
      exacts [.inl (.inl st), .inl (.inr (.inl st)), .inl (.inr (.inr st)), .inr st]
    rw [folds]
    obtain ⟨g, own, -⟩ := State.doubtOpens_own found' load false r.trigger
    rw [State.reported_one found' (fun fleece => nomatch means'.symm.trans fleece), State.doubtFold_stops found' release service means']
    obtain ⟨stopped, told, -⟩ := State.stopFold_effect own r.trigger r.place []
    exact ⟨stopped, told⟩
  case restarts =>
    refine reportReceived_next running active mem ?_
    have found' : ((s.tick t).hearReport r).foldOf id = some f := found
    have means' : ((s.tick t).hearReport r).meansFor f r.trigger r.place = .restart := means
    rw [folds]
    obtain ⟨g, own, -⟩ := State.doubtOpens_own found' load false r.trigger
    rw [State.reported_one found' (fun fleece => nomatch means'.symm.trans fleece), State.doubtFold_restarts found' release st means']
    obtain ⟨g', own', migrates, restart, told⟩ := State.startRestart_effect own r.trigger r.place
    exact ⟨g', own', migrates, restart, told⟩
  case resent =>
    obtain ⟨r, mem, old⟩ := late
    refine event_next running ?_ rfl
    simp only [List.any_eq_true]
    exact ⟨r, mem, decide_eq_true old⟩
  case refused =>
    have in_ : k.val < (s.tick t).neds.length := ned_in size k
    have reqs' : ((s.tick t).ned k).reqs = [r] := reqs
    have notice' : (s.tick t).notice id = some x := notice
    refine event_next running (by simp [sound, notice']) ?_
    have one : ∀ hit : Req → Bool, hit r = true → ((s.tick t).ned k).reqs.filter hit = [r] := by
      intro hit yes
      rw [reqs', List.filter_cons_of_pos yes, List.filter_nil]
    have plain : (r.phase = .replying || r.phase = .done || r.phase = .held) = false := by
      obtain phase | phase := phase <;> simp [phase]
    dsimp only
    rw [one _ (by obtain phase | phase := phase <;> simp [fold, phase]), notice']
    simp only [List.foldl_cons, List.foldl_nil, plain, Option.some.injEq, Bool.false_eq_true, if_false]
    exact ⟨_, State.refuseReq_alone in_ reqs' good _, rfl, rfl, rfl⟩
  case hurdled =>
    have held' : ((s.tick t).pad n).excl = id := held
    have notice' : ((s.tick t).notice id).isSome = true := notice
    have there : ((s.tick t).foldsOn n).contains id = true := by
      simp [State.foldsOn, Paddock.folds, held, some_]
    refine event_next running (by rw [notice', there]; rfl) ?_
    rw [if_pos held']
    exact State.padNotice_excl held' some_
  case masked =>
    have shared' : ((s.tick t).pad n).excl = 0 := shared
    have notice' : ((s.tick t).notice id).isSome = true := notice
    have mem : id ∈ (s.pad n).slots := by
      have low' : k < (s.pad n).slots.length := by
        by_contra high
        exact some_ (slot.symm.trans (List.getD_eq_default _ _ (Nat.le_of_not_lt high)))
      rw [← slot, List.getD_eq_getElem _ _ low']
      exact List.getElem_mem low'
    have there : ((s.tick t).foldsOn n).contains id = true := by
      simp [State.foldsOn, Paddock.folds, shared, mem, some_]
    refine event_next running (by rw [notice', there]; rfl) ?_
    rw [if_neg (by rw [shared']; exact fun e => some_ e.symm), State.modPad_pad, if_pos rfl]
    obtain ⟨masks, hurdle⟩ := Paddock.maskFolds_slots shared' id
    rw [masks, hurdle]
    refine ⟨?_, rfl, fun j other => ?_⟩
    · rw [List.mem_eraseDups, List.mem_append]
      exact .inr (Paddock.mem_slotsOf.mpr ⟨low, slot, slot ▸ some_⟩)
    · rw [List.mem_eraseDups, List.mem_append]
      exact or_iff_left fun hit => other (Paddock.mem_slotsOf.mp hit).2.1

end Sys2Proof.Machine

/-! Clocks, rings and the reference judged (R577–R579, R664, R937). -/
namespace Sys2Proof.Machine

open Sys2Proof

/-! What a fold's way into recovery leaves of the plant. -/

@[simp] theorem State.syncPause_plant (s : State) : s.syncPause.plant = s.plant := by
  unfold State.syncPause
  (repeat' split) <;> rfl

@[simp] theorem State.notify_plant (s : State) (id : Nat) (next : FoldState) : (s.notify id next).plant = s.plant := rfl

@[simp] theorem State.foldBell_plant (s : State) (id : Nat) (st : String) (tr : Trigger) (place : Nat) (kv : KVs) :
    (s.foldBell id st tr place kv).plant = s.plant := (State.ring_plant _ _ _ _).trans rfl

@[simp] theorem State.startRouter_plant (s : State) (n : Nat) : (s.startRouter n).plant = s.plant :=
  foldl_eq State.plant _ _ fun _ _ _ => State.modLink_plant _ _ _ _

@[simp] theorem State.raiseYoke_plant (s : State) (f : Fold) (n : Nat) : (s.raiseYoke f n).plant = s.plant := by
  unfold State.raiseYoke
  split
  · rfl
  · refine foldl_eq State.plant _ _ fun t ms _ => ?_
    extract_lets key
    split <;> rfl

theorem State.stopFold_plant (s : State) (id : Nat) (tr : Trigger) (place : Nat) (kv : KVs) : (s.stopFold id tr place kv).plant = s.plant := by
  simp [State.stopFold]

theorem State.enterMigrating_plant (s : State) (f : Fold) (r : Recovery) : (s.enterMigrating f r).plant = s.plant := by
  unfold State.enterMigrating
  extract_lets since s1 s2
  have quiet : s2.plant = s.plant := by simp [s2, s1]
  refine (State.mirror_plant _).trans ?_
  split
  · exact quiet
  · exact (State.foldBell_plant _ _ _ _ _ _).trans quiet

theorem State.startRestart_plant (s : State) (id : Nat) (tr : Trigger) (place : Nat) : (s.startRestart id tr place).plant = s.plant := by
  unfold State.startRestart
  split
  · rfl
  · exact State.enterMigrating_plant _ _ _

/-! What a recovery does to paddocks spares the clock of each, and one that is a HOLE stays the HOLE it was, and DARK where it was. -/

/-- A paddock keeps its clock's state and, where `h`, a HOLE its entry and its darkness; the fields are as they were but for their
injectors. -/
structure Spared (h : Prop) (n : Nat) (s t : State) : Prop where
  clock : (t.pad n).clockLost = (s.pad n).clockLost
  entry : h → (s.entry n).st = 2 → t.entry n = s.entry n
  dark : h → (s.entry n).st = 2 → (s.pad n).power = .dark → (t.pad n).power = .dark
  rails : ∀ f, (t.field f).sansInjector = (s.field f).sansInjector

theorem Spared.refl (h : Prop) (n : Nat) (s : State) : Spared h n s s := ⟨rfl, fun _ _ => rfl, fun _ _ k => k, fun _ => rfl⟩

theorem Spared.trans {h : Prop} {n : Nat} {s t u : State} (j : Spared h n s t) (k : Spared h n t u) : Spared h n s u where
  clock := k.clock.trans j.clock
  entry y hole := (k.entry y (by rw [j.entry y hole]; exact hole)).trans (j.entry y hole)
  dark y hole dark := k.dark y (by rw [j.entry y hole]; exact hole) (j.dark y hole dark)
  rails f := (k.rails f).trans (j.rails f)

/-- Where the paddock is no HOLE, its clock is all there is to spare. -/
theorem Spared.of_open {h : Prop} {n : Nat} {s t : State} (open_ : (s.entry n).st ≠ 2) (k : Spared False n s t) : Spared h n s t where
  clock := k.clock
  entry _ hole := absurd hole open_
  dark _ hole := absurd hole open_
  rails := k.rails

theorem Spared.of_plant {h : Prop} {n : Nat} {s t : State} (e : t.plant = s.plant) : Spared h n s t where
  clock := by rw [pad_of_plant e]
  entry _ _ := entry_of_plant e n
  dark _ _ k := by rwa [pad_of_plant e]
  rails f := field_of_plant e f

theorem Spared.foldl {h : Prop} {α : Type} {n : Nat} {f : State → α → State} (l : List α) (s : State) (step : ∀ t, ∀ x ∈ l, Spared h n t (f t x)) :
    Spared h n s (l.foldl f s) :=
  foldl_inv_mem (I := fun u => Spared h n s u) l s (.refl h n s) fun t x mem k => k.trans (step t x mem)

/-- A change of a paddock that spares its clock, and its power while it is a HOLE. -/
theorem Spared.modPad {h : Prop} {n m : Nat} {s : State} {f : Paddock → Paddock} (clock : (f (s.pad m)).clockLost = (s.pad m).clockLost)
    (dark : h → m = n → (s.entry n).st = 2 → (s.pad n).power = .dark → (f (s.pad m)).power = .dark) : Spared h n s (s.modPad m f) where
  clock := by
    rw [State.modPad_pad]
    split
    · rename_i e
      rw [clock, e]
    · rfl
  entry _ _ := rfl
  dark y hole k := by
    rw [State.modPad_pad]
    split
    · rename_i e
      exact dark y e.symm hole k
    · exact k
  rails _ := rfl

theorem Spared.touch {h : Prop} {n m : Nat} {s : State} {f : Paddock → Paddock} (clock : ∀ p, (f p).clockLost = p.clockLost)
    (power : ∀ p, (f p).power = p.power) : Spared h n s (s.modPad m f) :=
  .modPad (clock _) fun _ e _ k => by rw [power, e]; exact k

theorem Spared.goDark (h : Prop) (n m : Nat) (s : State) : Spared h n s (s.goDark m) where
  clock := by
    rw [State.goDark_pad]
    split
    · rename_i e
      rw [e]
      rfl
    · rfl
  entry _ _ := by simp
  dark _ _ k := State.goDark_power_of_dark k m
  rails f := by simp

/-- A HOLE that is marked elsewhere, or is a new one. -/
theorem Spared.makeHole {h : Prop} {n m : Nat} {s : State} (other : h → m = n → (s.entry n).st ≠ 2) (cause : Nat) (quiet : Bool) :
    Spared h n s (s.makeHole m cause quiet) where
  clock := by
    have same := congrArg Paddock.clockLost (s.makeHole_sansYoke m cause quiet n)
    exact same
  entry y hole := by
    have apart : n ≠ m := fun e => other y e.symm hole
    rw [entry_of_plant (s.makeHole_plant m cause quiet)]
    obtain ⟨e, -⟩ | ⟨w, -, e⟩ := s.markHole_plant m cause quiet
    · rw [e]
    · rw [entry_of_plant e]
      have map := (s.dissolveYoke_rest m).1
      change ((s.dissolveYoke m).setEntry m ⟨2, (s.entry m).col, cause⟩).entry n = _
      rw [State.setEntry_entry, if_neg apart, State.entry, map, State.entry]
  dark _ _ k := (State.makeHole_power ..).trans k
  rails f := State.makeHole_field ..

theorem Spared.markFailed (h : Prop) (n : Nat) (s : State) (ns : List Nat) (tr : Trigger) : Spared h n s (s.markFailed ns tr) :=
  Spared.foldl ns s fun t m _ => by
    split
    · exact .refl h n t
    · rename_i open_
      have new : (t.entry m).st ≠ 2 := by
        simp only [Bool.or_eq_true, decide_eq_true_eq, not_or] at open_
        exact open_.2
      refine (Spared.goDark h n m t).trans (.makeHole (fun _ e => ?_) _ _)
      subst e
      simpa using new

theorem Spared.dissolveYoke (h : Prop) (n m : Nat) (s : State) : Spared h n s (s.dissolveYoke m) :=
  Spared.foldl _ s fun _ _ _ => .touch (fun _ => rfl) fun _ => rfl

theorem Spared.dropSource (h : Prop) (n m : Nat) (s : State) : Spared h n s (s.dropSource m) := by
  unfold State.dropSource
  split
  · exact .refl h n s
  · exact .goDark h n m s

/-! Leases. -/

theorem Spared.shearPad (h : Prop) (n m : Nat) (s : State) : Spared h n s (s.shearPad m) := by
  have sheared : Spared h n s (s.modPad m Paddock.shear) := .touch (fun _ => rfl) fun _ => rfl
  exact sheared.trans (.of_plant (by simp [State.shearPad]))

theorem Spared.shearSlot (h : Prop) (n m k fold : Nat) (s : State) : Spared h n s (s.shearSlot m k fold) := by
  have zeroed (p : Paddock) : (p.zeroSlot m k).clockLost = p.clockLost ∧ (p.zeroSlot m k).power = p.power := by
    unfold Paddock.zeroSlot Paddock.zeroCtx
    dsimp only
    (repeat' split) <;> exact ⟨rfl, rfl⟩
  have sheared : Spared h n s (s.modPad m fun p => p.zeroSlot m k) := .touch (fun p => (zeroed p).1) fun p => (zeroed p).2
  exact sheared.trans (.of_plant (by simp [State.shearSlot]))

/-- Power given to a paddock that is no HOLE. -/
theorem Spared.powerRun {h : Prop} {n m : Nat} {s : State} (other : h → (s.entry n).st = 2 → m ≠ n) : Spared h n s (s.powerRun m) := by
  unfold State.powerRun
  extract_lets p
  split
  · exact .refl h n s
  split
  · exact .modPad rfl fun y e hole => absurd e (other y hole)
  split
  · exact .touch (fun _ => rfl) fun _ => rfl
  · obtain ⟨w, e⟩ := ({ s with wave := s.wave.filter fun w => w.1 ≠ m } : State).enqueueWave_eq m .run
    rw [e]
    exact ⟨rfl, fun _ _ => rfl, fun _ _ k => k, fun _ => rfl⟩

theorem State.powerRun_map (s : State) (m : Nat) : (s.powerRun m).map = s.map := by
  unfold State.powerRun
  extract_lets p
  split
  · rfl
  split
  · rfl
  split
  · rfl
  · obtain ⟨w, e⟩ := ({ s with wave := s.wave.filter fun w => w.1 ≠ m } : State).enqueueWave_eq m .run
    rw [e]

theorem map_of_plant {s t : State} (e : t.plant = s.plant) : t.map = s.map := congrArg Plant.map e

/-- What spares a paddock and leaves the map alone. -/
def SparedHere (h : Prop) (n : Nat) (s t : State) : Prop := Spared h n s t ∧ t.map = s.map

theorem SparedHere.trans {h : Prop} {n : Nat} {s t u : State} (j : SparedHere h n s t) (k : SparedHere h n t u) : SparedHere h n s u :=
  ⟨j.1.trans k.1, k.2.trans j.2⟩

theorem SparedHere.touch {h : Prop} {n m : Nat} {s : State} {f : Paddock → Paddock} (clock : ∀ p, (f p).clockLost = p.clockLost)
    (power : ∀ p, (f p).power = p.power) : SparedHere h n s (s.modPad m f) :=
  ⟨.touch clock power, rfl⟩

theorem SparedHere.powerRun {h : Prop} {n m : Nat} {s : State} (other : h → (s.entry n).st = 2 → m ≠ n) : SparedHere h n s (s.powerRun m) :=
  ⟨.powerRun other, s.powerRun_map m⟩

theorem SparedHere.shearPad (h : Prop) (n m : Nat) (s : State) : SparedHere h n s (s.shearPad m) :=
  ⟨.shearPad h n m s, (map_of_plant (t := s.shearPad m) (s := s.modPad m Paddock.shear) (by simp [State.shearPad])).trans rfl⟩

theorem SparedHere.shearSlot (h : Prop) (n m k fold : Nat) (s : State) : SparedHere h n s (s.shearSlot m k fold) :=
  ⟨.shearSlot h n m k fold s,
    (map_of_plant (t := s.shearSlot m k fold) (s := s.modPad m fun p => p.zeroSlot m k) (by simp [State.shearSlot])).trans rfl⟩

theorem SparedHere.foldl {h : Prop} {α : Type} {n : Nat} {f : State → α → State} (l : List α) (s : State)
    (step : ∀ t, t.map = s.map → ∀ x ∈ l, SparedHere h n t (f t x)) : SparedHere h n s (l.foldl f s) :=
  foldl_inv_mem (I := fun u => SparedHere h n s u) l s ⟨.refl h n s, rfl⟩ fun t x mem k => k.trans (step t k.2 x mem)

theorem entry_of_map {s t : State} (e : t.map = s.map) (n : Nat) : t.entry n = s.entry n := congrArg (fun m => tabGet MapEntry.initial m n) e

/-- Leases given to paddocks, none of which is the HOLE. -/
theorem SparedHere.leasePads {h : Prop} {n id : Nat} {s : State} {excl : List Nat} {slots : List (Nat × Nat)}
    (other : h → (s.entry n).st = 2 → n ∉ excl ∧ ∀ q ∈ slots, q.1 ≠ n) : SparedHere h n s (s.leasePads id excl slots) := by
  unfold State.leasePads
  extract_lets s1
  have first : SparedHere h n s s1 := SparedHere.foldl excl s fun t same m mem => by
    have apart (u : State) (e : u.map = s.map) : h → (u.entry n).st = 2 → m ≠ n := fun y hole e' =>
      (other y (by rwa [entry_of_map e] at hole)).1 (e' ▸ mem)
    refine SparedHere.trans ?_ (SparedHere.touch (fun _ => rfl) fun _ => rfl)
    refine SparedHere.trans ?_ (.shearPad h n m _)
    refine SparedHere.trans ?_ (.powerRun (apart _ same))
    exact SparedHere.touch (fun _ => rfl) fun _ => rfl
  refine first.trans (SparedHere.foldl slots s1 fun t same q mem => ?_)
  have apart (u : State) (e : u.map = s1.map) : h → (u.entry n).st = 2 → q.1 ≠ n := fun y hole =>
    (other y (by rwa [entry_of_map (e.trans first.2)] at hole)).2 q mem
  refine SparedHere.trans ?_ (.shearSlot h n q.1 q.2 id _)
  refine SparedHere.trans ?_ (.powerRun (apart _ same))
  exact SparedHere.touch (fun _ => rfl) fun _ => rfl

/-- A lease that moves from a failed paddock to a target that is no HOLE. -/
theorem Spared.moveLease {h : Prop} {n id m t : Nat} {s : State} (other : h → (s.entry n).st = 2 → t ≠ n) (tr : Trigger) :
    Spared h n s (s.moveLease id m t tr) := by
  unfold State.moveLease
  extract_lets p ks s1 s2 s3 s4
  have leased : SparedHere h n s s1 := by
    simp only [s1]
    split
    · exact .leasePads fun y hole => ⟨by simpa using (other y hole).symm, by simp⟩
    · refine .leasePads fun y hole => ⟨by simp, fun q mem => ?_⟩
      obtain ⟨k, -, rfl⟩ := List.mem_map.mp mem
      exact other y hole
  have entered : Spared h n s s2 := by
    simp only [s2]
    split
    · rename_i reserve
      refine leased.1.trans ⟨rfl, fun _ hole => ?_, fun _ _ k => k, fun _ => rfl⟩
      rw [State.setEntry_entry, if_neg]
      rintro rfl
      exact absurd (hole.symm.trans reserve) (by decide)
    · exact leased.1
  have left : Spared h n s s3 := by
    have revoked : Spared h n s2 (s2.revokeFold m id) := by
      unfold State.revokeFold
      refine Spared.trans ?_ (.of_plant (State.dropBuffers_plant _ _ _))
      exact Spared.touch (fun _ => rfl) fun _ => rfl
    exact ((entered.trans revoked).trans (.dissolveYoke h n m _)).trans (Spared.touch (fun _ => rfl) fun _ => rfl)
  have holed : Spared h n s3 s4 := by
    simp only [s4]
    split
    · exact .refl h n s3
    · rename_i open_
      exact .makeHole (fun _ e => e ▸ open_) _ _
  exact (left.trans holed).trans (.of_plant (State.modFold_plant _ _ _))

/-! Recoveries. -/

/-- The targets picked are no HOLEs. -/
theorem State.pickTargets_open {s : State} {f : Fold} {im : Image} {ns used : List Nat} {picks : List (Nat × Nat)}
    (picked : s.pickTargets f im ns used = .inr picks) : ∀ q ∈ picks, (s.entry q.2).st ≠ 2 := by
  induction ns generalizing used picks with
  | nil =>
    obtain rfl : [] = picks := Sum.inr.inj picked
    simp
  | cons m ns ih =>
    unfold State.pickTargets at picked
    split at picked
    · cases picked
    · rename_i t found
      split at picked
      · cases picked
      · rename_i rest restPicked
        obtain rfl := Sum.inr.inj picked
        intro q mem
        obtain rfl | mem := List.mem_cons.mp mem
        · have able := List.find?_some found
          simp only [Bool.and_eq_true] at able
          have able := able.1
          unfold State.eligible at able
          dsimp only at able
          intro hole
          split at able <;> simp [hole] at able
        · exact ih restPicked q mem

theorem Spared.startMigration (h : Prop) (n : Nat) (s : State) (id : Nat) (failed : List Nat) (tr : Trigger) (place : Nat) :
    Spared h n s (s.startMigration id failed tr place) := by
  unfold State.startMigration
  split
  · exact .refl h n s
  split
  · exact .of_plant (State.stopFold_plant _ _ _ _ _)
  dsimp only
  split
  · exact (Spared.markFailed h n s failed tr).trans (.of_plant (State.stopFold_plant _ _ _ _ _))
  · rename_i f _ _ im _ _ picks picked
    refine Spared.trans ?_ (.of_plant (State.enterMigrating_plant _ _ _))
    have quiet : (failed.foldl (fun s m => s.raiseYoke f m) s).plant = s.plant := foldl_eq State.plant _ _ fun _ _ _ => State.raiseYoke_plant _ _ _
    have raised : Spared h n s (failed.foldl (fun s m => s.raiseYoke f m) s) := .of_plant quiet
    have moved : Spared h n s (picks.foldl (fun s q => s.moveLease id q.1 q.2 tr) (failed.foldl (fun s m => s.raiseYoke f m) s)) := by
      by_cases hole : (s.entry n).st = 2
      · refine raised.trans (.foldl picks _ fun t q mem => .moveLease (fun _ _ e => ?_) tr)
        exact State.pickTargets_open picked q mem (e ▸ hole)
      · refine raised.trans (.of_open ?_ (.foldl picks _ fun t q _ => .moveLease False.elim tr))
        rw [entry_of_plant quiet]
        exact hole
    split
    · exact moved
    · exact moved.trans (.foldl _ _ fun t (q : Nat × Nat) _ => .dropSource h n q.1 t)

theorem Spared.clockVerdict (h : Prop) (n m : Nat) (lasting : Bool) (id : Nat) (s : State) : Spared h n s (s.clockVerdict m lasting id) := by
  unfold State.clockVerdict
  split
  · exact .refl h n s
  split
  · exact .refl h n s
  split
  · split
    · exact .startMigration h n s _ _ _ _
    · exact .refl h n s
  split
  · exact .refl h n s
  dsimp only
  split
  · exact .of_plant (State.startRestart_plant _ _ _ _)
  · exact .startMigration h n s _ _ _ _

/-- The end of a paddock's run spares every other paddock, and one that is DARK. -/
theorem Spared.endRun (h : Prop) (n m : Nat) (s : State) : Spared h n s (s.endRun m) := by
  unfold State.endRun
  split
  · rename_i runs
    refine .modPad rfl fun _ e _ dark => ?_
    simp only [Bool.and_eq_true, decide_eq_true_eq, e, dark] at runs
    exact nomatch runs.1
  · exact .refl h n s

/-- A lost clock as its verdict leaves the paddock, before its folds act on it. -/
def State.clockBack (s : State) (n : Nat) (good : Bool) : State :=
  if good then
    (s.modPad n fun p => { p with clockLost := false, masked := p.leased }).ring "paddock" false [("at", .pad n), ("event", .word "clock-transient")]
  else ((s.goDark n).modPad n fun p => { p with clockLost := false }).makeHole n 5 false

theorem State.resolveClock_eq (s : State) (n : Nat) (good : Bool) : s.resolveClock n good =
    (s.foldsOn n).foldl (fun s id => s.clockVerdict n (!good) id) ((s.clockBack n good).endRun n) := rfl

theorem Spared.resolved (h : Prop) (n m : Nat) (good : Bool) (s : State) : Spared h n (s.clockBack m good) (s.resolveClock m good) := by
  rw [State.resolveClock_eq]
  exact (Spared.endRun h n m _).trans (.foldl _ _ fun t id _ => .clockVerdict h n m _ id t)

/-- A change of another paddock. -/
theorem Spared.elsewhere (h : Prop) {n m : Nat} (apart : m ≠ n) (s : State) (f : Paddock → Paddock) : Spared h n s (s.modPad m f) where
  clock := by rw [State.modPad_pad, if_neg apart.symm]
  entry _ _ := rfl
  dark _ _ dark := by rwa [State.modPad_pad, if_neg apart.symm]
  rails _ := rfl

/-- A verdict on another paddock's clock. -/
theorem Spared.resolveClock (h : Prop) {n m : Nat} (apart : m ≠ n) (good : Bool) (s : State) : Spared h n s (s.resolveClock m good) := by
  refine Spared.trans ?_ (.resolved h n m good s)
  unfold State.clockBack
  split
  · exact (Spared.elsewhere h apart s _).trans (.of_plant (State.ring_plant _ _ _ _))
  · exact ((Spared.goDark h n m s).trans (.elsewhere h apart _ _)).trans (.makeHole (fun _ e => absurd e apart) _ _)

theorem State.clockBack_clock (s : State) (n : Nat) (good : Bool) : ((s.clockBack n good).pad n).clockLost = false := by
  unfold State.clockBack
  split
  · rw [pad_of_plant (State.ring_plant _ _ _ _), State.modPad_pad, if_pos rfl]
  · refine (congrArg Paddock.clockLost (State.makeHole_sansYoke _ n 5 false n) :).trans ?_
    exact congrArg Paddock.clockLost ((State.modPad_pad _ _ _ _).trans (if_pos rfl))

theorem State.resolveClock_clock (s : State) (n : Nat) (good : Bool) : ((s.resolveClock n good).pad n).clockLost = false :=
  (Spared.resolved True n n good s).clock.trans (s.clockBack_clock n good)

/-- A HOLE that is marked has its cause, unless its field is latched (R603). -/
theorem State.makeHole_cause {s : State} {n : Nat} (free : (s.field (fieldOf n)).latched = false) (cause : Nat) (quiet : Bool) :
    ((s.makeHole n cause quiet).entry n).cause = cause := by
  rw [entry_of_plant (s.makeHole_plant n cause quiet)]
  unfold State.markHole
  extract_lets e s1 s2
  have marked : s2.entry n = ⟨2, e.col, cause⟩ := by
    have wrote : s1.entry n = ⟨2, e.col, cause⟩ := by simp [s1]
    simp only [s2]
    split
    · exact wrote
    · exact wrote
  rw [if_neg (by simp [free])]
  split
  · exact congrArg MapEntry.cause marked
  · exact congrArg MapEntry.cause ((entry_of_plant (State.ring_plant _ _ _ _) n).trans marked)

/-- A clock that is not back makes its paddock a DARK HOLE, for want of the clock where its field is not latched (R577). -/
theorem State.clockBack_hole (s : State) (n : Nat) : (s.clockBack n false).darkHole n
    ∧ ((s.field (fieldOf n)).latched = false → ((s.clockBack n false).entry n).cause = 5) := by
  have dark : ((((s.goDark n).modPad n fun p => { p with clockLost := false })).pad n).power = .dark := by
    rw [State.modPad_pad, if_pos rfl, State.goDark_pad, if_pos rfl]
  refine ⟨State.darkHole_makeHole_of_dark dark 5 false, fun free => State.makeHole_cause ?_ 5 false⟩
  exact (congrArg Field.latched (by simp : ((s.goDark n).modPad n fun p => { p with clockLost := false }).field (fieldOf n) = s.field (fieldOf n))).trans free

/-- What is asked of a paddock with a clock that is not back, once its folds have acted (R577, R578). -/
theorem State.resolveClock_hole (s : State) (n : Nat) : (s.resolveClock n false).darkHole n
    ∧ ((s.field (fieldOf n)).latched = false → ((s.resolveClock n false).entry n).cause = 5) := by
  obtain ⟨⟨hole, dark⟩, cause⟩ := s.clockBack_hole n
  have spared := Spared.resolved True n n false s
  have entry := spared.entry trivial hole
  refine ⟨⟨by rw [entry]; exact hole, spared.dark trivial hole dark⟩, fun free => ?_⟩
  rw [entry]
  exact cause free

/-- A clock that is back leaves the map of a paddock that no fold holds. -/
theorem State.resolveClock_back {s : State} {n : Nat} (alone : s.foldsOn n = []) : (s.resolveClock n true).entry n = s.entry n := by
  rw [State.resolveClock_eq, alone]
  have ran (t : State) : (t.endRun n).entry n = t.entry n := by
    unfold State.endRun
    split <;> rfl
  exact (ran _).trans ((entry_of_plant (State.ring_plant _ _ _ _) n).trans rfl)

/-! A ring that is judged (R578). -/

/-- Every clock of the field is back, once each that was lost has been resolved. -/
theorem ringBack_clocks {s : State} {l : List Nat} {n : Nat} (mem : n ∈ l) :
    ((((l.filter fun n => (s.pad n).clockLost).foldl (fun s n => s.resolveClock n true) s)).pad n).clockLost = false := by
  have kept (t : State) (m : Nat) (back : (t.pad n).clockLost = false) : ((t.resolveClock m true).pad n).clockLost = false := by
    by_cases same : m = n
    · subst same
      exact t.resolveClock_clock m true
    · exact (Spared.resolveClock True same true t).clock.trans back
  cases lost : (s.pad n).clockLost with
  | false => exact foldl_inv _ (P := fun u : State => (u.pad n).clockLost = false) lost fun t m => kept t m
  | true =>
    exact foldl_established_of (I := fun _ => True) (P := fun u : State => (u.pad n).clockLost = false) (a := n) _ s
      (List.mem_filter.mpr ⟨mem, lost⟩) trivial (fun _ _ _ _ => trivial) (fun t _ => t.resolveClock_clock n true) fun t m _ _ => kept t m

theorem ringBack_rails (s : State) (l : List Nat) (good : Bool) (f : Nat) :
    ((l.foldl (fun s n => s.resolveClock n good) s).field f).sansInjector = (s.field f).sansInjector := by
  refine foldl_eq (fun u : State => (u.field f).sansInjector) _ _ fun t n _ => ?_
  exact (Spared.resolveClock True (Nat.succ_ne_self n).symm good t).rails f

/-- Every paddock of the field is a HOLE, once each that was none has been resolved. -/
theorem ringLost_holes {s : State} {l : List Nat} {n : Nat} (mem : n ∈ l) :
    ((l.foldl (fun s n => if (s.entry n).st = 2 then s else s.resolveClock n false) s).entry n).st = 2 := by
  refine foldl_established_of (I := fun _ => True) (P := fun u : State => (u.entry n).st = 2) (a := n) _ s mem trivial
    (fun _ _ _ _ => trivial) (fun t _ => ?_) fun t m _ _ hole => ?_
  · split
    · assumption
    · exact (t.resolveClock_hole n).1.1
  · split
    · exact hole
    · rename_i other
      have apart : m ≠ n := by
        rintro rfl
        exact other hole
      rw [(Spared.resolveClock True apart false t).entry trivial hole]
      exact hole

/-! Doubts of the dies of an edge (R579, R937). -/

/-- What a die's doubt leaves of the doubts of the others. -/
def DoubtsStay (s t : State) : Prop :=
  (∀ k, (s.ned k).doubt = true → (t.ned k).doubt = true) ∧ (∀ k, (s.spd k).doubt = true → (t.spd k).doubt = true)
    ∧ ∀ k, (s.med k).doubt = true → (t.med k).doubt = true

theorem DoubtsStay.of_doubts {s t : State} (h : t.doubts = s.doubts) : DoubtsStay s t :=
  ⟨fun k d => (ned_doubt_of_doubts h k).trans d, fun k d => (spd_doubt_of_doubts h k).trans d, fun k d => (med_doubt_of_doubts h k).trans d⟩

theorem DoubtsStay.trans {s t u : State} (h : DoubtsStay s t) (k : DoubtsStay t u) : DoubtsStay s u :=
  ⟨fun j d => k.1 j (h.1 j d), fun j d => k.2.1 j (h.2.1 j d), fun j d => k.2.2 j (h.2.2 j d)⟩

theorem State.nedEnterDoubt_keeps (s : State) (j cause : Nat) : DoubtsStay s (s.nedEnterDoubt j cause) := by
  unfold State.nedEnterDoubt
  split
  · exact .of_doubts rfl
  · extract_lets s1 s2 s3 nums s4 mine
    have same : (((s4.settle mine (.err 404 [("object", .word "ned"), ("state", .word "doubt")])).dieBell "ned" j cause).reinject).doubts = s2.doubts := by
      have lost : s4.doubts = s3.doubts := foldl_eq State.doubts _ _ fun t n _ => by simp
      have closed : s3.doubts = s2.doubts := rfl
      simp [lost, closed]
    have first : s1.doubts = s.doubts := foldl_eq State.doubts _ _ fun t r _ => State.stompSent_doubts _ _ _
    have own : DoubtsStay s1 s2 := by
      refine ⟨fun k d => ?_, fun _ d => d, fun _ d => d⟩
      rw [State.modNed_ned]
      split
      · rfl
      · exact d
    exact ((DoubtsStay.of_doubts first).trans own).trans (.of_doubts same)

theorem State.medEnterDoubt_keeps (s : State) (j cause : Nat) : DoubtsStay s (s.medEnterDoubt j cause) := by
  unfold State.medEnterDoubt
  split
  · exact .of_doubts rfl
  · extract_lets folds s1 s2
    have same : (((s2.report .med folds (medDest j)).dieBell "med" j cause).reinject).doubts = s1.doubts := by
      have lost : s2.doubts = s1.doubts := foldl_eq State.doubts _ _ fun t n _ => by simp
      simp [lost]
    have own : DoubtsStay s s1 := by
      refine ⟨fun _ d => d, fun _ d => d, fun k d => ?_⟩
      rw [State.modMed_med]
      split
      · rfl
      · exact d
    exact own.trans (.of_doubts same)

theorem State.spdEnterDoubt_keeps (s : State) (j cause : Nat) : DoubtsStay s (s.spdEnterDoubt j cause) := by
  unfold State.spdEnterDoubt
  split
  · exact .of_doubts rfl
  · extract_lets folds s1 s2
    have same : (((s2.report .spd folds (spdDest j)).dieBell "spd" j cause).reinject).doubts = s1.doubts := by
      have refused : s2.doubts = s1.doubts := foldl_eq State.doubts _ _ fun t n _ =>
        foldl_eq State.doubts _ _ fun u r _ => State.refuseReq_doubts _ _ _ _
      simp [refused]
    have own : DoubtsStay s s1 := by
      refine ⟨fun _ d => d, fun k d => ?_, fun _ d => d⟩
      rw [State.modSpd_spd]
      split
      · rfl
      · exact d
    exact own.trans (.of_doubts same)

/-- The dies of some edges, in doubt one after another. -/
theorem foldl_doubtsStay {f : State → Nat → State} (stay : ∀ t j, DoubtsStay t (f t j)) (l : List Nat) (s : State) : DoubtsStay s (l.foldl f s) :=
  foldl_inv l (P := DoubtsStay s) (.of_doubts rfl) fun t j h => h.trans (stay t j)

/-- Settles O18: what a recovery does beside spares each paddock's clock and every HOLE, and a die's doubt stays. -/
theorem clocksAndReferenceAreJudged : Obligations.ClocksAndReferenceAreJudged := by
  refine ⟨fun n locked held t s running lost ring => ?clock, fun f locked held t s running lost => ?ring,
    fun edge a t s size running absent since late => ?reference⟩
  case clock =>
    refine event_next running (by simp [lost, ring]) ⟨State.resolveClock_clock _ _ _, fun back alone => ?_, fun failed => ?_⟩
    · have good : heldAfter ((s.tick t).pad n).lostAt (100 * usec) locked held (s.tick t).now = true := back
      rw [good]
      exact State.resolveClock_back (s := s.tick t) alone
    · have bad : heldAfter ((s.tick t).pad n).lostAt (100 * usec) locked held (s.tick t).now = false := failed
      rw [bad]
      obtain ⟨⟨hole, dark⟩, cause⟩ := State.resolveClock_hole (s.tick t) n
      exact ⟨dark, hole, cause⟩
  case ring =>
    refine event_next running (by simpa using lost) ?_
    extract_lets field good s1
    refine ⟨fun back => ?_, fun failed => ?_⟩
    · have yes : good = true := back
      rw [if_pos yes]
      have marked : ((s1).field f).ringLost = false := by
        simp only [s1]
        rw [if_pos yes, State.modField_field, if_pos rfl]
      exact ⟨(congrArg Field.ringLost (ringBack_rails s1 _ true f) :).trans marked, fun n mem => ringBack_clocks mem⟩
    · have no : ¬ good = true := by
        rw [Bool.not_eq_true]
        exact failed
      rw [if_neg no]
      exact fun n mem => ringLost_holes mem
  case reference =>
    obtain ⟨-, neds, meds, spds⟩ := size
    have due : ((edgesOf edge).all fun e => (s.tick t).refAbsent.contains e) = true := by
      rw [List.all_eq_true]
      exact fun e mem => List.contains_iff_mem.mpr (absent e mem)
    refine event_next running (by simpa [since, late] using due) ?_
    extract_lets es s1 s2
    have core1 : s1.core = (s.tick t).core := foldl_eq State.core _ _ fun t j _ => State.nedEnterDoubt_core _ _ _
    have core2 : s2.core = s1.core := foldl_eq State.core _ _ fun t j _ => State.spdEnterDoubt_core _ _ _
    have stay2 : DoubtsStay s1 s2 := foldl_doubtsStay (fun t j => t.spdEnterDoubt_keeps j 5) _ _
    have stay3 := foldl_doubtsStay (fun t j => t.medEnterDoubt_keeps j 5) ((List.range 12).filter fun k => es.contains (k / 3)) s2
    refine ⟨fun k low mem => (stay2.trans stay3).1 k ?_, fun k low mem => stay3.2.1 k ?_, fun k low mem => ?_⟩
    · exact foldl_established_of (I := fun u => u.core = (s.tick t).core) (P := fun u : State => (u.ned k).doubt = true) (a := k) _ _
        (List.mem_filter.mpr ⟨List.mem_range.mpr low, List.contains_iff_mem.mpr mem⟩) rfl
        (fun u j _ h => (State.nedEnterDoubt_core _ _ _).trans h)
        (fun u h => State.nedEnterDoubt_own (by rw [neds_length_of_core h]; exact neds ▸ low) 5) fun u j _ _ h => (u.nedEnterDoubt_keeps j 5).1 k h
    · exact foldl_established_of (I := fun u => u.core = s1.core) (P := fun u : State => (u.spd k).doubt = true) (a := k) _ _
        (List.mem_filter.mpr ⟨List.mem_range.mpr low, List.contains_iff_mem.mpr mem⟩) rfl
        (fun u j _ h => (State.spdEnterDoubt_core _ _ _).trans h)
        (fun u h => State.spdEnterDoubt_own (by rw [show u.spds.length = 16 from (congrArg Core.nSpds (h.trans core1)).trans spds]; exact low) 5)
        fun u j _ _ h => (u.spdEnterDoubt_keeps j 5).2.1 k h
    · exact foldl_established_of (I := fun u => u.core = s2.core) (P := fun u : State => (u.med k).doubt = true) (a := k) _ _
        (List.mem_filter.mpr ⟨List.mem_range.mpr low, List.contains_iff_mem.mpr mem⟩) rfl
        (fun u j _ h => (State.medEnterDoubt_core _ _ _).trans h)
        (fun u h => State.medEnterDoubt_own
          (by rw [show u.meds.length = 12 from (congrArg Core.nMeds ((h.trans core2).trans core1)).trans meds]; exact low) 5)
        fun u j _ _ h => (u.medEnterDoubt_keeps j 5).2.2 k h

end Sys2Proof.Machine

/-! Ports: PTP, faults and drains (R76, R108, R109, R112, R118, R545). -/
namespace Sys2Proof.Machine

open Sys2Proof

/-! A port, read and written. -/

theorem Ned.setPort_port (n : Ned) (p q : Nat) (x : Port) : (n.setPort p x).port q = if q = p ∧ p < n.ports.length then x else n.port q :=
  listSet_getD _ _ _ _ _

theorem Ned.setPort_own {n : Ned} {p : Nat} (in_ : p < n.ports.length) (x : Port) : (n.setPort p x).port p = x := by
  rw [Ned.setPort_port, if_pos ⟨rfl, in_⟩]

theorem State.settle_ptpPort (s : State) (p : WaitFor → Bool) (r : RLine) : (s.settle p r).ptpPort = s.ptpPort :=
  (congrArg State.ptpPort (s.settle_onlySessions p r).1 :)

theorem State.settle_ned (s : State) (p : WaitFor → Bool) (r : RLine) (k : Nat) : (s.settle p r).ned k = s.ned k :=
  ned_of_nic (State.settle_nic _ _ _) k

/-- What an answer settles waits no more. -/
theorem State.settle_done (s : State) (p : WaitFor → Bool) (r : RLine) {w : Wait} (mem : w ∈ (s.settle p r).waits) : p w.why = false := by
  rw [State.settle_waits] at mem
  simpa using (List.mem_filter.mp mem).2

theorem State.settle_kept (s : State) (p : WaitFor → Bool) (r : RLine) {w : Wait} (mem : w ∈ (s.settle p r).waits) : w ∈ s.waits :=
  (s.settle_onlySessions p r).2 w mem

/-! What a fault cuts (R76). -/

theorem State.cutReply_ned {s : State} {k : Nat} (in_ : k < s.neds.length) (r : Req) : ∃ o, (s.cutReply k r).ned k =
    ({ (s.ned k).putReq { r with phase := .waiting } with order := o }).setPort r.port { (s.ned k).port r.port with freeAt := s.now } := by
  unfold State.cutReply
  extract_lets n tb s0 sent s1
  have same0 : s0.nic = s.nic ∧ s0.core = s.core := by
    simp only [s0]
    split
    · exact ⟨rfl, rfl⟩
    · exact ⟨State.unsend_nic _ _ _, State.unsend_core _ _ _⟩
  have same1 : s1.nic = s0.nic ∧ s1.core = s0.core := by
    simp only [s1]
    split <;> exact ⟨rfl, rfl⟩
  have core : s1.core = s.core := same1.2.trans same0.2
  rw [State.modNed_self (neds_length_of_core core ▸ in_), ned_of_nic (same1.1.trans same0.1)]
  exact ⟨_, by rfl⟩

theorem State.cutReply_marks (s : State) (k : Nat) (r : Req) : (s.cutReply k r).marks = s.marks := by
  unfold State.cutReply
  extract_lets n tb s0 sent s1
  have same0 : s0.marks = s.marks := by
    simp only [s0]
    split <;> simp
  have same1 : s1.marks = s0.marks := by
    simp only [s1]
    split <;> rfl
  simp [same1, same0]

/-- A NED with a faulty port, its replies withdrawn one by one. -/
structure CutFrom (n m : Ned) (port : Nat) : Prop where
  reqs : ∀ x ∈ m.reqs, x.phase = .waiting ∨ x ∈ n.reqs
  mode0 : m.mode0 = n.mode0
  mode1 : m.mode1 = n.mode1
  fault : (m.port port).fault = true

theorem mem_replaced {l : List Req} {q x : Req} (mem : x ∈ replaced l q) : x = q ∨ x ∈ l ∧ x.fid ≠ q.fid := by
  obtain ⟨y, held, rfl⟩ := List.mem_map.mp mem
  by_cases e : y.fid = q.fid
  · exact .inl (if_pos e)
  · rw [if_neg e]
    exact .inr ⟨held, e⟩

theorem CutFrom.cut {s : State} {n : Ned} {k port : Nat} (in_ : k < s.neds.length) (cut : CutFrom n (s.ned k) port) (r : Req) :
    CutFrom n ((s.cutReply k r).ned k) port := by
  obtain ⟨o, e⟩ := State.cutReply_ned in_ r
  rw [e]
  refine ⟨fun x mem => ?_, cut.mode0, cut.mode1, ?_⟩
  · obtain rfl | ⟨held, -⟩ := mem_replaced mem
    · exact .inl rfl
    · exact cut.reqs x held
  · rw [Ned.setPort_port]
    split
    · rename_i same
      have fault := cut.fault
      rw [same.1] at fault
      exact fault
    · exact cut.fault

/-- A reply that is cut is none of the requests as it stood. -/
theorem State.cutReply_gone {s : State} {k : Nat} (in_ : k < s.neds.length) {r : Req} (sends : r.phase ≠ .waiting) :
    r ∉ ((s.cutReply k r).ned k).reqs := by
  obtain ⟨o, e⟩ := State.cutReply_ned in_ r
  rw [e]
  intro mem
  obtain same | ⟨-, apart⟩ := mem_replaced mem
  · exact sends (congrArg Req.phase same)
  · exact apart rfl

theorem State.cutReply_stays {s : State} {k : Nat} (in_ : k < s.neds.length) {r : Req} (sends : r.phase ≠ .waiting) (q : Req)
    (gone : r ∉ (s.ned k).reqs) : r ∉ ((s.cutReply k q).ned k).reqs := by
  obtain ⟨o, e⟩ := State.cutReply_ned in_ q
  rw [e]
  intro mem
  obtain same | ⟨held, -⟩ := mem_replaced mem
  · exact sends (congrArg Req.phase same)
  · exact gone held

theorem Ned.sending_phase {n : Ned} {r : Req} {now : Time} (sends : n.sending r now = true) : r.phase ≠ .waiting := by
  intro waits
  simp [Ned.sending, waits] at sends

theorem Ned.sending_of_modes {m n : Ned} (mode0 : m.mode0 = n.mode0) (mode1 : m.mode1 = n.mode1) (r : Req) (now : Time) :
    m.sending r now = n.sending r now := by
  have speed (p : Nat) : m.speed p = n.speed p := by rw [Ned.speed, Ned.speed, Ned.modeOf, Ned.modeOf, mode0, mode1]
  rw [Ned.sending, Ned.sending, Ned.fcsDue, Ned.fcsDue, speed]

/-- Once every reply being sent on a port has been cut, none is. -/
theorem State.cutReplies_effect {s : State} {n : Ned} {k port : Nat} (in_ : k < s.neds.length) (cut : CutFrom n (s.ned k) port) (now : Time) :
    let u := (n.reqs.filter fun r => r.port = port && n.sending r now).foldl (fun s r => s.cutReply k r) s
    CutFrom n (u.ned k) port ∧ ∀ r ∈ (u.ned k).reqs, r.port = port → (u.ned k).sending r now = false := by
  intro u
  have len (t : State) (core : t.core = s.core) : k < t.neds.length := neds_length_of_core core ▸ in_
  have all : CutFrom n (u.ned k) port :=
    (foldl_inv_mem (I := fun t : State => t.core = s.core ∧ CutFrom n (t.ned k) port) _ s ⟨rfl, cut⟩ fun t r _ h =>
      ⟨(State.cutReply_core _ _ _).trans h.1, CutFrom.cut (len t h.1) h.2 r⟩).2
  refine ⟨all, fun r mem here => ?_⟩
  rw [Ned.sending_of_modes all.mode0 all.mode1]
  by_contra sends
  rw [Bool.not_eq_false] at sends
  have open_ := Ned.sending_phase sends
  obtain waits | held := all.reqs r mem
  · exact open_ waits
  · have gone : r ∉ (u.ned k).reqs :=
      foldl_established_of (f := fun s r => s.cutReply k r) (I := fun t : State => t.core = s.core) (P := fun t : State => r ∉ (t.ned k).reqs) (a := r)
        _ s (List.mem_filter.mpr ⟨held, by simp [here, sends]⟩) rfl (fun t q _ h => (State.cutReply_core _ _ _).trans h)
        (fun t h => State.cutReply_gone (len t h) open_) fun t q _ h gone => State.cutReply_stays (len t h) open_ q gone
    exact gone mem

/-! What is left of a drain (R112, R118). -/

/-- A NED whose drain's bound has passed, its requests refused or dropped one by one. -/
def DrainedFrom (n m : Ned) : Prop := ∀ x ∈ m.reqs, x.phase = .waiting ∧ x.reply.any Reply.refusal = true ∨ x ∈ n.reqs

/-- One request of a drained port, refused or dropped. -/
def State.drainOut (s : State) (k : Nat) (r : Req) : State := if r.binding ≥ 8192 then s.dropReq k r else s.refuseReq k r rsReconfigured

theorem State.drainOut_core (s : State) (k : Nat) (r : Req) : (s.drainOut k r).core = s.core := by
  unfold State.drainOut
  split <;> simp

theorem State.drainOut_mem {s : State} {k : Nat} (in_ : k < s.neds.length) (r : Req) {x : Req} (mem : x ∈ ((s.drainOut k r).ned k).reqs) :
    x.phase = .waiting ∧ x.reply.any Reply.refusal = true ∨ x ∈ (s.ned k).reqs ∧ x.fid ≠ r.fid := by
  unfold State.drainOut at mem
  split at mem
  · rw [State.dropReq_reqs in_] at mem
    obtain ⟨held, apart⟩ := List.mem_filter.mp mem
    exact .inr ⟨held, of_decide_eq_true apart⟩
  · rw [State.refuseReq_reqs in_] at mem
    split at mem
    · obtain ⟨held, apart⟩ := List.mem_filter.mp mem
      exact .inr ⟨held, of_decide_eq_true apart⟩
    · obtain rfl | held := mem_replaced mem
      · exact .inl ⟨rfl, rfl⟩
      · exact .inr held

/-- A request that a drain lets go of: not waiting with its refusal. -/
def Req.drains (r : Req) : Bool := r.phase = .wafer || r.phase = .held || r.phase = .penned || (r.phase = .waiting && !(r.reply.any Reply.refusal))

theorem Req.drains_open {r : Req} (drains : r.drains = true) : ¬ (r.phase = .waiting ∧ r.reply.any Reply.refusal = true) := by
  rintro ⟨waits, refused⟩
  simp [Req.drains, waits, refused] at drains

/-- Once the requests of a port have been let go of, none of them is left but with its refusal. -/
theorem State.drain_effect {s : State} {k port : Nat} (in_ : k < s.neds.length) :
    ∀ r ∈ ((((s.ned k).reqs.filter fun r => r.port = port && r.drains).foldl (fun s r => s.drainOut k r) s).ned k).reqs,
      r.port = port → r.drains = false := by
  have len (t : State) (core : t.core = s.core) : k < t.neds.length := neds_length_of_core core ▸ in_
  intro r mem here
  have all := (foldl_inv_mem (f := fun s r => s.drainOut k r) (I := fun t : State => t.core = s.core ∧ DrainedFrom (s.ned k) (t.ned k))
    ((s.ned k).reqs.filter fun r => r.port = port && r.drains) s ⟨rfl, fun x held => .inr held⟩ fun t q _ h =>
      ⟨(State.drainOut_core _ _ _).trans h.1, fun x held => (State.drainOut_mem (len t h.1) q held).elim .inl fun old => h.2 x old.1⟩).2
  by_contra drains
  rw [Bool.not_eq_false] at drains
  obtain refused | held := all r mem
  · exact Req.drains_open drains refused
  · have gone := foldl_established_of (f := fun s r => s.drainOut k r) (I := fun t : State => t.core = s.core)
      (P := fun t : State => r ∉ (t.ned k).reqs) (a := r) ((s.ned k).reqs.filter fun r => r.port = port && r.drains) s
      (List.mem_filter.mpr ⟨held, by simp [here, drains]⟩) rfl (fun t q _ h => (State.drainOut_core _ _ _).trans h)
      (fun t h held => (State.drainOut_mem (len t h) r held).elim (Req.drains_open drains) fun old => old.2 rfl)
      fun t q _ h out held => (State.drainOut_mem (len t h) q held).elim (Req.drains_open drains) fun old => out old.1
    exact gone mem

/-! New settings in force (R545). -/

/-- A port with its new values. -/
def Port.renewed (p : Port) : Port :=
  { p with
    state := .idle, draining := false, mac := p.pendMac.getD p.mac, eq := p.pendEq.getD p.eq,
    defTemplate := p.pendTemplate.getD p.defTemplate, pendMac := none, pendEq := none, pendTemplate := none, pendPtp := none }

/-- What new settings leave of a port: its values, the PTP port, and nobody waiting for them. -/
theorem State.renew_effect {s s1 s2 : State} {k pt : Nat} {q : Port} {ptp : Option (Nat × Nat)} (own : (s2.ned k).port pt = q) (at_ : s2.ptpPort = ptp)
    (r1 r2 r3 : RLine) (last : WaitFor → Bool) (more : Prop) [Decidable more]
    (e : s1 = (s2.settle (fun w => w = .port k pt false) r1).settle (fun w => w = .ptp k pt) r2)
    (u : s = if more then s1 else s1.settle last r3) :
    (s.ned k).port pt = q ∧ s.ptpPort = ptp ∧ ∀ w ∈ s.waits, w.why ≠ .port k pt false := by
  have first : (s1.ned k).port pt = q ∧ s1.ptpPort = ptp ∧ ∀ w ∈ s1.waits, w.why ≠ .port k pt false := by
    subst e
    refine ⟨?_, ?_, fun w mem => ?_⟩
    · rw [State.settle_ned, State.settle_ned, own]
    · rw [State.settle_ptpPort, State.settle_ptpPort, at_]
    · simpa using State.settle_done _ _ _ (State.settle_kept _ _ _ mem)
  obtain ⟨port, ptp, waits⟩ := first
  subst u
  split
  · exact ⟨port, ptp, waits⟩
  · refine ⟨?_, ?_, fun w mem => waits w (State.settle_kept _ _ _ mem)⟩
    · rw [State.settle_ned, port]
    · rw [State.settle_ptpPort, ptp]

/-- What is on the wire does not bear on what a change of a NED gives. -/
theorem State.modNed_wire {s : State} {k : Nat} (in_ : k < s.neds.length) (w : List Wire) (f : Ned → Ned) :
    (({ s with wire := w } : State).modNed k f).ned k = f (s.ned k) :=
  State.modNed_self (s := { s with wire := w }) in_ f

/-- Settles O31: a fault and a drain take the port's requests one by one, and what settles an answer leaves the port. -/
theorem portsFaultAndDrain : Obligations.PortsFaultAndDrain := by
  refine ⟨fun k port bytes sfd t s size running at_ event live => ?heard, fun k port bytes sfd t s size running at_ event live free => ?sent,
    fun k port remote t s size len running has sound => ?fault, fun k port remote t s size len running faulty => ?cleared,
    fun k port t s size len running draining up quiet => ?drained, fun k port t s size running draining late => ?expired,
    fun k port p t s size len running has is draining down => ?applied⟩
  all_goals have in_ : k.val < (s.tick t).neds.length := ned_in size k
  case heard =>
    refine event_next running (by simp [at_, event, live]) ⟨?_, rfl⟩
    exact congrArg Ned.ptpStamp (State.modNed_self in_ fun n => { n with ptpStamp := (s.tick t).stampAt sfd })
  case sent =>
    refine event_next running (by simp [at_, event, live, free]) ⟨?_, rfl⟩
    rw [if_pos rfl]
    exact congrArg Ned.ptpSent (State.modNed_wire in_ _ _)
  case fault =>
    refine event_next running ?_ ?_
    · cases remote <;> simp_all
    · extract_lets k' n p s1 s2
      have in1 : k' < s1.neds.length := (neds_length_of_core (State.setNed_core _ _ _)).symm ▸ in_
      have faulty : CutFrom n (s1.ned k') port := by
        have own : s1.ned k' = n.setPort port (if remote then { p with remoteFault := true } else { p with localFault := true }) :=
          State.setNed_self in_ _
        rw [own]
        refine ⟨fun x mem => .inr mem, rfl, rfl, ?_⟩
        rw [Ned.setPort_own (by rw [show n.ports.length = 8 from len]; exact port.isLt)]
        cases remote <;> simp [Port.fault]
      obtain ⟨cut, silent⟩ := State.cutReplies_effect in1 faulty (s.tick t).now
      refine ⟨?_, ?_, ?_⟩
      · rw [ned_of_nic (State.count_nic _ _ _ _)]
        exact cut.fault
      · rw [ned_of_nic (State.count_nic _ _ _ _)]
        exact silent
      · have quiet : s2.marks = s1.marks := foldl_eq State.marks _ _ fun u r _ => State.cutReply_marks u k' r
        rw [State.count_tally, if_pos rfl, tally_of_marks quiet (by simp [marked, tpLinkFault, tpReplies, tpOverrun, tpStomped])]
        rfl
  case cleared =>
    refine event_next running faulty ?_
    rw [State.modNed_self in_]
    exact Ned.setPort_own (by rw [show ((s.tick t).ned k).ports.length = 8 from len]; exact port.isLt) _
  case drained =>
    refine event_next running (by simp [draining, up, quiet]) ⟨fun w mem => ?_, ?_⟩
    · simpa using State.settle_done _ _ _ mem
    · rw [State.settle_ned, State.modNed_self in_]
      exact Ned.setPort_own (by rw [show ((s.tick t).ned k).ports.length = 8 from len]; exact port.isLt) _
  case expired =>
    refine event_next running (by simp [draining, late]) ⟨fun r mem here => ?_, fun r alone here bound wafer good => ?_⟩
    · have done := State.drain_effect (s := s.tick t) in_ r mem here
      simp only [Req.drains, Bool.or_eq_false_iff, decide_eq_false_iff_not, Bool.and_eq_false_iff] at done
      obtain ⟨⟨⟨wafer, held⟩, penned⟩, waits⟩ := done
      exact ⟨held, penned, wafer, fun w => by simpa [w] using waits⟩
    · have alone' : ((s.tick t).ned k).reqs = [r] := alone
      have out : ((s.tick t).ned k).reqs.filter (fun r => r.port = port.val && (r.phase = .wafer || r.phase = .held || r.phase = .penned
          || (r.phase = .waiting && !(r.reply.any Reply.refusal)))) = [r] := by
        rw [alone', List.filter_cons_of_pos (by simp [here, wafer]), List.filter_nil]
      dsimp only
      rw [out, List.foldl_cons, List.foldl_nil, if_neg (by omega)]
      exact ⟨_, State.refuseReq_alone in_ alone' good _, rfl, rfl⟩
  case applied =>
    subst is
    refine event_next running (by simp [draining, down, has]) ?_
    extract_lets k' pt p' p1 s1 s2 s3 g
    have own : (s2.ned k').port pt = p1 := by
      have same : s2.nic = s1.nic := by
        simp only [s2]
        split
        · rfl
        · split <;> rfl
        · rfl
      rw [ned_of_nic same, State.modNed_self in_]
      exact Ned.setPort_own (by rw [show ((s.tick t).ned k').ports.length = 8 from len]; exact port.isLt) _
    have at_ : s2.ptpPort = match p'.pendPtp with
        | some true => some (k', pt)
        | some false => if s.ptpPort = some (k', pt) then none else s.ptpPort
        | none => s.ptpPort := by
      simp only [s2]
      cases asked : p'.pendPtp with
      | none => rfl
      | some wanted =>
        cases wanted with
        | true => rfl
        | false =>
          by_cases here : s.ptpPort = some (k', pt)
          · exact (congrArg State.ptpPort (if_pos here)).trans (if_pos here).symm
          · exact (congrArg State.ptpPort (if_neg here)).trans (if_neg here).symm
    exact State.renew_effect (s1 := s3) own at_ _ _ _ _ _ rfl rfl

end Sys2Proof.Machine

/-! Results and replies (R102–R107, R142, R427, R489, R513, R550, R670). -/
namespace Sys2Proof.Machine

open Sys2Proof

/-! A request of a NED, replaced or swept past. -/

theorem Ned.req_fid {n : Ned} {fid : Nat} {y : Req} (held : n.req fid = some y) : y.fid = fid := by
  simpa using List.find?_some held

theorem Ned.putReq_own {n : Ned} {fid : Nat} {y q : Req} (held : n.req fid = some y) (same : q.fid = fid) :
    (n.putReq q).req fid = some q := by
  have of_y := Ned.req_fid held
  subst of_y
  exact Ned.req_putReq held same

theorem Ned.putReq_held {n : Ned} {fid : Nat} {y : Req} (held : n.req fid = some y) (q : Req) : ∃ z, (n.putReq q).req fid = some z := by
  refine Option.isSome_iff_exists.mp (List.find?_isSome.mpr ?_)
  have mem : y ∈ n.reqs := List.mem_of_find?_eq_some held
  refine ⟨if y.fid = q.fid then q else y, List.mem_map.mpr ⟨y, mem, rfl⟩, ?_⟩
  split
  · rename_i same
    simpa [← same] using Ned.req_fid held
  · simpa using Ned.req_fid held

/-- A request whose last bit is still to be sent is not swept. -/
theorem Ned.req_sweep {n : Ned} {fid : Nat} {q : Req} {now : Time} (held : n.req fid = some q) (later : now < n.fcsDue q) :
    (n.sweep now).req fid = some q := by
  unfold Ned.req Ned.sweep
  rw [List.find?_filter]
  obtain ⟨yes, before, after, split_, no⟩ := List.find?_eq_some_iff_append.mp held
  refine List.find?_eq_some_iff_append.mpr ⟨?_, before, after, split_, fun x mem => ?_⟩
  · simp [later, yes, Ned.req_fid held]
  · have other : x.fid ≠ fid := by simpa using no x mem
    simp [other]

/-! A reply starts and is let out. -/

/-- A request whose reply has left whole. -/
def Req.answered (r : Req) : Req := { r with phase := .done, session := none, tag := if r.ended then 0 else r.tag }

/-- A NED in which a reply has left. -/
def Ned.ended (n : Ned) (r : Req) (now : Time) : Ned := ({ n.putReq r.answered with order := n.order.filter (· ≠ r.fid) }).sweep now

theorem State.endReq_ned {s : State} {k : Nat} (in_ : k < s.neds.length) (r : Req) : (s.endReq k r).ned k = (s.ned k).ended r s.now := by
  unfold State.endReq
  extract_lets s1
  have core : s1.core = s.core := State.sessMod_core _ _ _
  rw [State.modNed_self (neds_length_of_core core ▸ in_), ned_of_nic (State.sessMod_nic _ _ _), now_of_core core]
  rfl

theorem State.releaseFcs_ned {s : State} {k : Nat} (in_ : k < s.neds.length) (r : Req) :
    ∃ ps, (s.releaseFcs k r).ned k = ({ s.ned k with ports := ps } : Ned).ended r s.now := by
  unfold State.releaseFcs
  extract_lets n tb extra body s1 s2 s3
  have core2 : s2.core = s.core := by
    show s1.core = s.core
    simp only [s1]
    split
    · rfl
    · exact State.count_core _ _ _ _
  have nic2 : s2.nic = s.nic := by
    show s1.nic = s.nic
    simp only [s1]
    split
    · rfl
    · exact State.count_nic _ _ _ _
  have core : (s3.countReply k r false).core = s.core := by
    rw [State.countReply_core]
    exact (State.modNed_core _ _ _).trans core2
  rw [State.endReq_ned (neds_length_of_core core ▸ in_), now_of_core core, ned_of_nic (State.countReply_nic _ _ _ _),
    State.modNed_self (neds_length_of_core core2 ▸ in_), ned_of_nic nic2]
  exact ⟨_, rfl⟩

/-- What a request's reply makes of it as it starts. -/
def State.started (s : State) (k : Nat) (r : Req) (rep : Reply) (at_ : Time) : Req :=
  let n := s.ned k
  let fill := if (n.template r.template).fill && !rep.refusal then
    fillLen (n.speed r.port) (n.verdictAt r) at_ (n.replyHr r rep).1 (n.replyHr r rep).2 else 0
  { r with phase := .replying, start := at_, fill := fill, reply := some rep, out := n.replyOut r rep fill }

/-- The state in which a reply has started, its FCS still to be let out. -/
def State.starting (s : State) (k : Nat) (r : Req) (rep : Reply) (at_ : Time) : State :=
  s.modNed k fun n =>
    ({ n.putReq (s.started k r rep at_) with order := n.order.filter (· ≠ r.fid) }).setPort r.port
      { n.port r.port with freeAt := at_ + (8 + (s.started k r rep at_).out.length + 4 + 12) * byteTime ((s.ned k).speed r.port) }

theorem State.startReply_eq (s : State) (k : Nat) (r : Req) (rep : Reply) (at_ : Time) : s.startReply k r rep at_ =
    if r.fcs = some true then (s.starting k r rep at_).releaseFcs k (s.started k r rep at_) else s.starting k r rep at_ := rfl

theorem State.starting_ned {s : State} {k : Nat} (in_ : k < s.neds.length) (r : Req) (rep : Reply) (at_ : Time) :
    ∃ ps, (s.starting k r rep at_).ned k =
      { (s.ned k).putReq (s.started k r rep at_) with order := (s.ned k).order.filter (· ≠ r.fid), ports := ps } :=
  ⟨_, State.modNed_self in_ _⟩

theorem State.startReply_order {s : State} {k : Nat} (in_ : k < s.neds.length) (r : Req) (rep : Reply) (at_ : Time) :
    r.fid ∉ ((s.startReply k r rep at_).ned k).order := by
  obtain ⟨ps, e⟩ := State.starting_ned in_ r rep at_
  have first : ((s.starting k r rep at_).ned k).order = (s.ned k).order.filter (· ≠ r.fid) := by rw [e]
  rw [State.startReply_eq]
  split
  · obtain ⟨qs, e2⟩ := State.releaseFcs_ned (s := s.starting k r rep at_)
      (neds_length_of_core (State.modNed_core _ _ _) ▸ in_) (s.started k r rep at_)
    rw [e2]
    simp [Ned.ended, Ned.sweep, State.started]
  · rw [first]
    simp

/-- A reply that starts later than now is on its way, or has left its port's queue with a good verdict. -/
theorem State.startReply_req {s : State} {k : Nat} (in_ : k < s.neds.length) {r y : Req} (held : (s.ned k).req r.fid = some y) (rep : Reply)
    {at_ : Time} (later : s.now < at_) :
    ∃ x, ((s.startReply k r rep at_).ned k).req r.fid = some x ∧ x.reply = some rep ∧ x.composed = r.composed ∧ x.flits = r.flits
      ∧ (x.phase = .replying ∨ x.phase = .done) := by
  obtain ⟨ps, e⟩ := State.starting_ned in_ r rep at_
  have first : ((s.starting k r rep at_).ned k).req r.fid = some (s.started k r rep at_) := by
    rw [e]
    exact Ned.putReq_own held rfl
  rw [State.startReply_eq]
  split
  · obtain ⟨qs, e2⟩ := State.releaseFcs_ned (s := s.starting k r rep at_)
      (neds_length_of_core (State.modNed_core _ _ _) ▸ in_) (s.started k r rep at_)
    rw [e2]
    refine ⟨_, Ned.req_sweep (Ned.putReq_own (y := s.started k r rep at_) first rfl) ?_, rfl, rfl, rfl, .inr rfl⟩
    exact Nat.lt_of_lt_of_le later (Nat.le_add_right at_ _)
  · exact ⟨_, first, rfl, rfl, rfl, .inl rfl⟩

/-! A result composes its reply (R102). -/

/-- What a composed request is. -/
def Req.composedAs (r : Req) (rep : Reply) (now : Time) : Req := { r with reply := some rep, phase := .waiting, composed := now }

/-- A composed reply waits, or has started ahead. -/
theorem State.compose_req {s : State} {k : Nat} (in_ : k < s.neds.length) {r y : Req} (held : (s.ned k).req r.fid = some y) (rep : Reply) :
    ∃ x, ((s.compose k r rep).ned k).req r.fid = some x ∧ x.reply = some rep ∧ x.composed = s.now ∧ x.flits = r.flits
      ∧ (x.phase = .waiting ∨ x.phase = .replying ∨ x.phase = .done) := by
  unfold State.compose
  extract_lets s0 r1 at_ s1 s2 n head
  have core0 : s0.core = s.core := State.sessMod_core _ _ _
  have held0 : (s0.ned k).req r.fid = some y := (congrArg (fun m : Ned => m.req r.fid) (ned_of_nic (State.sessMod_nic _ _ _) k)).trans held
  have first : s1.core = s.core ∧ ∃ z, (s1.ned k).req r.fid = some z := by
    simp only [s1]
    split
    · split
      · exact ⟨core0, _, held0⟩
      · rename_i x _ _
        refine ⟨(State.modNed_core _ _ _).trans core0, ?_⟩
        rw [State.modNed_self (neds_length_of_core core0 ▸ in_)]
        exact Ned.putReq_held held0 { x with phase := .waiting }
    · exact ⟨core0, _, held0⟩
  obtain ⟨core1, z, held1⟩ := first
  have core2 : s2.core = s.core := (State.modNed_core _ _ _).trans core1
  have held2 : (s2.ned k).req r.fid = some r1 := by
    rw [State.modNed_self (neds_length_of_core core1 ▸ in_)]
    exact Ned.putReq_own held1 rfl
  split
  · obtain ⟨x, is, reply, composed, flits, phase⟩ :=
      State.startReply_req (s := s2) (r := r1) (at_ := at_) (neds_length_of_core core2 ▸ in_) held2 rep
        (by rw [now_of_core core2]; exact Nat.lt_add_of_pos_right (by simp [egress]))
    exact ⟨x, is, reply, composed, flits, .inr phase⟩
  · exact ⟨r1, held2, rfl, rfl, rfl, .inl rfl⟩

/-! What a reply puts on the wire. -/

theorem State.addTally_wire (s : State) (sc : TScope) (id idx n : Nat) : (s.addTally sc id idx n).wire = s.wire := by
  unfold State.addTally
  split <;> rfl

theorem State.sessMod_wire (s : State) (r : Req) (f : Session → Session) : (s.sessMod r f).wire = s.wire := by
  unfold State.sessMod
  split <;> rfl

theorem State.countReq_wire (s : State) (k : Nat) (r : Req) (idx n : Nat) : (s.countReq k r idx n).wire = s.wire := by
  unfold State.countReq State.countChan
  extract_lets h
  split <;> simp only [State.addTally_wire]

theorem State.countReply_wire (s : State) (k : Nat) (r : Req) (back : Bool) : (s.countReply k r back).wire = s.wire := by
  unfold State.countReply
  extract_lets by_ s1
  have same : s1.wire = s.wire := State.addTally_wire _ _ _ _ _
  split
  · exact same
  split <;> simp only [State.countReq_wire, same]

theorem State.endReq_wire (s : State) (k : Nat) (r : Req) : (s.endReq k r).wire = s.wire := State.sessMod_wire _ _ _

/-- A released reply leaves with what a late verdict made it go on for (R105, R107). -/
theorem State.releaseFcs_wire (s : State) (k : Nat) (r : Req) {body : List Byte}
    (is : body = r.out ++ List.replicate ((s.ned k).overrun r s.now) 0) :
    (s.releaseFcs k r).wire = s.wire ++ [Wire.frame k r.port r.start (body ++ fcsOf body)] := by
  subst is
  unfold State.releaseFcs
  extract_lets n tb extra body s1 s2 s3
  have same : s1.wire = s.wire := by
    simp only [s1]
    split
    · rfl
    · exact State.addTally_wire _ _ _ _ _
  calc ((s3.countReply k r false).endReq k r).wire
      = (s3.countReply k r false).wire := State.endReq_wire _ _ _
    _ = s3.wire := State.countReply_wire _ _ _ _
    _ = s1.wire ++ [Wire.frame k r.port r.start (body ++ fcsOf body)] := rfl
    _ = _ := by rw [same]

/-- A reply released as it starts has nothing to go on for. -/
theorem Ned.overrun_at_start (n : Ned) {r : Req} {now : Time} (from_ : now ≤ r.start) : n.overrun r now = 0 := by
  have early : now - n.fcsDue r = 0 := Nat.sub_eq_zero_of_le (from_.trans (Nat.le_add_right _ _))
  rw [Ned.overrun, early]
  rcases Nat.eq_zero_or_pos (byteTime (n.speed r.port)) with none_ | some_
  · simp [ceilDiv, none_]
  · exact Nat.div_eq_of_lt (by omega)

theorem State.startReply_wire (s : State) (k : Nat) {r : Req} (good : r.fcs = some true) (rep : Reply) :
    (s.startReply k r rep s.now).wire = s.wire ++
      [Wire.frame k r.port s.now ((s.started k r rep s.now).out ++ fcsOf (s.started k r rep s.now).out)] := by
  rw [State.startReply_eq, if_pos good, State.releaseFcs_wire (body := (s.started k r rep s.now).out)]
  · rfl
  · have none_ : ((s.starting k r rep s.now).ned k).overrun (s.started k r rep s.now) (s.starting k r rep s.now).now = 0 :=
      Ned.overrun_at_start _ (Nat.le_refl _)
    rw [none_, List.replicate_zero, List.append_nil]

/-! An arriving result flit (R102). -/

/-- The state in which the front flit of an arrival buffer has been taken. -/
def State.popped (s : State) (x : Nat) (lane : Lane) (vc : Bool) : State := s.modLink x lane.val fun l => l.popBuf vc

theorem State.popped_ned (s : State) (x : Nat) (lane : Lane) (vc : Bool) (k : Nat) : (s.popped x lane vc).ned k = s.ned k :=
  ned_of_nic (State.modLink_nic _ _ _ _) k

theorem State.popped_tally (s : State) (x : Nat) (lane : Lane) (vc : Bool) (key : TKey) : (s.popped x lane vc).tally key = s.tally key := rfl

theorem dataEnd_of_data {x : BitVec 4} (h : x = ftData) : x ≠ ftDataEnd := by
  subst h
  decide

/-- A flit short of the length that the template names joins the result. -/
theorem State.takeResult_joins {s : State} {k : Nat} (in_ : k < s.neds.length) {r : Req} (held : (s.ned k).req r.fid = some r) {f : Flit}
    (data : f.typ = ftData) (wafer : r.phase = .wafer) (open_ : r.lastSeq = none)
    (fresh : tabGet 0 (s.ned k).closedEpochs r.fold / 2 ^ f.epoch.toNat % 2 = 0)
    (short : f.seq.toNat < ceilDiv ((s.ned k).template r.template).resLen 64)
    (more : (r.withFlit f.seq.toNat f.payload).length < ceilDiv ((s.ned k).template r.template).resLen 64) :
    ((s.takeResult k r f).ned k).req r.fid =
      some { r with flits := r.withFlit f.seq.toNat f.payload, got := r.got + 1, ended := false } := by
  unfold State.takeResult
  extract_lets n need q lastSeq ended tooLong s1 r1 r2
  have last : lastSeq = none := (if_neg (dataEnd_of_data data)).trans open_
  have notEnded : ended = false := by simp only [ended, last, Option.any_none]
  have fits : tooLong = false := by simp [tooLong, q, need, n, Nat.not_le.mpr short]
  have same : s1 = s := by simp only [s1, fits, Bool.false_eq_true, if_false]
  have is : r2 = { r with flits := r.withFlit f.seq.toNat f.payload, got := r.got + 1, ended := false } := by
    have flits : (if q < need then r.withFlit q f.payload else r.flits) = r.withFlit f.seq.toNat f.payload := if_pos short
    simp only [r2, r1, flits, last, notEnded, fits, Bool.or_false, ← open_]
  rw [if_pos wafer, if_neg (by rw [fresh]; decide), if_neg (by rw [is]; exact Nat.not_le.mpr more), if_neg (by simp [last]), same,
    State.modNed_self in_, is]
  exact Ned.putReq_own held rfl

/-- The flit that makes a result complete composes the reply. -/
theorem State.takeResult_completes {s : State} {k : Nat} (in_ : k < s.neds.length) {r : Req} (held : (s.ned k).req r.fid = some r) {f : Flit}
    (wafer : r.phase = .wafer)
    (fresh : tabGet 0 (s.ned k).closedEpochs r.fold / 2 ^ f.epoch.toNat % 2 = 0)
    (short : f.seq.toNat < ceilDiv ((s.ned k).template r.template).resLen 64)
    (whole : ceilDiv ((s.ned k).template r.template).resLen 64 ≤ (r.withFlit f.seq.toNat f.payload).length) :
    ∃ x, ((s.takeResult k r f).ned k).req r.fid = some x ∧ x.reply = some r.resultReply ∧ x.composed = s.now
      ∧ x.flits = r.withFlit f.seq.toNat f.payload ∧ (x.phase = .waiting ∨ x.phase = .replying ∨ x.phase = .done) := by
  unfold State.takeResult
  extract_lets n need q lastSeq ended tooLong s1 r1 r2
  have fits : tooLong = false := by simp [tooLong, q, need, n, Nat.not_le.mpr short]
  have same : s1 = s := by simp only [s1, fits, Bool.false_eq_true, if_false]
  have flits : r2.flits = r.withFlit f.seq.toNat f.payload := if_pos short
  rw [if_pos wafer, if_neg (by rw [fresh]; decide), if_pos (by rw [flits]; exact whole), same, ← flits]
  exact State.compose_req (r := r2) in_ held _

/-! A request refused. -/

theorem State.refuseReq_effect {s : State} {k : Nat} (in_ : k < s.neds.length) {r : Req} (held : (s.ned k).req r.fid = some r) (reason : Nat)
    {u : State} (same : u.nic = (s.refuseReq k r reason).nic) :
    (r.fcs = some false → (u.ned k).req r.fid = none)
      ∧ (r.fcs ≠ some false → ∃ q, (u.ned k).req r.fid = some q ∧ q.phase = .waiting ∧ q.reply = some (.refused reason)) := by
  rw [ned_of_nic same]
  exact ⟨fun bad => State.refuseReq_bad in_ bad reason, fun good => ⟨_, State.refuseReq_waits in_ held good reason, rfl, rfl⟩⟩

/-- A flit whose tag a request holds goes to that request, or is a stile violation (R102, R142). -/
theorem resultArrival_known {k : NedIx} {e : Fin 2} {lane : Lane} {vc : Bool} {q : Queued} {r : Req} {t : Time} {s : State} {P : State → Prop}
    (running : s.resetN = false) (well : (s.ned k).doubt = false)
    (front : ((s.link (dieEnd (nedDest k) e) lane).buf vc).head? = some q) (data : q.flit.typ = ftData ∨ q.flit.typ = ftDataEnd)
    (tag : (s.ned k).reqByTag q.flit.tag.toNat = some r)
    (own : r.fold = q.flit.fold.toNat → P (((s.tick t).popped (dieEnd (nedDest k) e) lane vc).takeResult k r q.flit))
    (other : r.fold ≠ q.flit.fold.toNat → P (((((s.tick t).popped (dieEnd (nedDest k) e) lane vc).count .link
      (linkId (dieEnd (nedDest k) e) lane) tlStile).count .fold q.flit.fold.toNat tfStileSent).reportFrom (nedDest k) .stile
        [q.flit.fold.toNat] (nedDest k))) :
    ∃ u, exec (.resultArrival k e lane vc t) s = .next u ∧ P u := by
  refine event_next running (by simpa [front] using data) ?_
  dsimp only
  rw [show (((s.tick t).link (dieEnd (nedDest k) e) lane).buf vc).head? = some q from front]
  dsimp only
  have kept : ((s.tick t).modLink (dieEnd (nedDest k) e) lane fun l => l.popBuf vc).ned k = (s.tick t).ned k := State.popped_ned _ _ _ _ _
  rw [kept, show ((s.tick t).ned k).doubt = false from well, if_neg Bool.false_ne_true,
    show ((s.tick t).ned k).reqByTag q.flit.tag.toNat = some r from tag]
  dsimp only
  split
  · exact own ‹_›
  · exact other ‹_›

/-- A flit whose tag nobody holds or has let go is a stray (R513, R550). -/
theorem resultArrival_unknown {k : NedIx} {e : Fin 2} {lane : Lane} {vc : Bool} {q : Queued} {t : Time} {s : State} {P : State → Prop}
    (running : s.resetN = false) (well : (s.ned k).doubt = false)
    (front : ((s.link (dieEnd (nedDest k) e) lane).buf vc).head? = some q) (data : q.flit.typ = ftData ∨ q.flit.typ = ftDataEnd)
    (tag : (s.ned k).reqByTag q.flit.tag.toNat = none) (unknown : ∀ v ∈ (s.ned k).voidTags, v.1 ≠ q.flit.tag.toNat)
    (stray : ∀ (u : State) (f : List (Nat × Bool) → List (Nat × Bool)),
      u = ((s.tick t).popped (dieEnd (nedDest k) e) lane vc).count .fold q.flit.fold.toNat tfStray →
      P (if q.flit.typ = ftDataEnd then u.modNed k fun n => { n with voidTags := f n.voidTags } else u)) :
    ∃ u, exec (.resultArrival k e lane vc t) s = .next u ∧ P u := by
  refine event_next running (by simpa [front] using data) ?_
  dsimp only
  rw [show (((s.tick t).link (dieEnd (nedDest k) e) lane).buf vc).head? = some q from front]
  dsimp only
  have void : (((s.tick t).ned k).voidTags.any fun v => v.1 = q.flit.tag.toNat && !v.2) = false := by
    refine List.any_eq_false.mpr fun v mem => ?_
    simp [unknown v mem]
  have kept : ((s.tick t).modLink (dieEnd (nedDest k) e) lane fun l => l.popBuf vc).ned k = (s.tick t).ned k := State.popped_ned _ _ _ _ _
  rw [kept, show ((s.tick t).ned k).doubt = false from well, if_neg Bool.false_ne_true,
    show ((s.tick t).ned k).reqByTag q.flit.tag.toNat = none from tag]
  dsimp only
  rw [void, if_neg Bool.false_ne_true]
  exact stray _ _ rfl

/-- Settles O30: what arrives for a NED's request, and what starts or refuses its reply, told by what each leaves of the request. -/
theorem resultsAndReplies : Obligations.ResultsAndReplies := by
  refine ⟨fun k e lane vc q r t s size running well front data tag held own wafer open_ fresh short more => ?joins,
    fun k e lane vc q r t s size running well front data tag held own wafer fresh short whole => ?completes,
    fun k e lane vc q r t s size running well front data tag other => ?stile,
    fun k e lane vc q t s size running well front data nobody unknown => ?stray,
    fun k r rep out t s size running held waits reply free later turn due is => ?starts,
    fun k r t s size running held wafer late => ?limit,
    fun k tag r f at_ t s size running here held wafer fold strayed since => ?named,
    fun k r t s size running held penned late => ?deadline⟩
  all_goals have in_ : k.val < (s.tick t).neds.length := ned_in size k
  case joins =>
    refine resultArrival_known running well front (.inl data) tag (fun _ => ?_) (fun other => absurd own other)
    exact State.takeResult_joins (s := (s.tick t).popped _ _ _) in_ held data wafer open_ fresh short more
  case completes =>
    refine resultArrival_known running well front data tag (fun _ => ?_) (fun other => absurd own other)
    exact State.takeResult_completes (s := (s.tick t).popped _ _ _) in_ held wafer fresh short whole
  case stile =>
    refine resultArrival_known running well front data tag (fun own => absurd own other) (fun _ => ⟨?_, rfl, ?_⟩)
    · have kept (u : State) (same : u.nic = (s.tick t).nic) : u.neds = s.neds := congrArg Nic.neds same
      exact kept _ (by simp [State.popped])
    · rw [tally_of_marks (State.reportFrom_marks _ _ _ _ _) (by simp [marked, tfStileSent, tfTransWait]), State.count_tally, if_pos rfl,
        State.count_tally, if_neg (by simp), State.popped_tally]
      rfl
  case stray =>
    refine resultArrival_unknown running well front data nobody unknown fun u f is => ?_
    have core : u.core = (s.tick t).core := by
      subst is
      exact (State.count_core _ _ _ _).trans (State.modLink_core _ _ _ _)
    have same : u.ned k = s.ned k := by
      subst is
      exact ned_of_nic ((State.count_nic _ _ _ _).trans (State.modLink_nic _ _ _ _)) k
    have tally : u.tally ⟨.fold, q.flit.fold.toNat, tfStray⟩ = s.tally ⟨.fold, q.flit.fold.toNat, tfStray⟩ + 1 := by
      subst is
      rw [State.count_tally, if_pos rfl, State.popped_tally]
      rfl
    split
    · rw [State.modNed_self (neds_length_of_core core ▸ in_), same]
      exact ⟨rfl, tally⟩
    · exact ⟨congrArg Ned.reqs same, tally⟩
  case starts =>
    refine event_next running (by simpa [held, waits, reply, free, turn] using ⟨le_max_iff.mp later, le_max_iff.mp due⟩) ?_
    rw [show ((s.tick t).ned k).req r.fid = some r from held]
    dsimp only
    rw [reply]
    dsimp only
    have same : ((s.tick t).started k r rep (s.tick t).now).out = out := is.symm
    refine ⟨State.startReply_order in_ _ _ _, fun good => ?_, fun bad => ?_⟩
    · rw [State.startReply_wire _ _ good, same]
      rfl
    · rw [State.startReply_eq, if_neg bad]
      obtain ⟨ps, e⟩ := State.starting_ned in_ r rep (s.tick t).now
      refine ⟨rfl, (s.tick t).started k r rep (s.tick t).now, ?_, rfl, rfl, same⟩
      rw [e]
      exact Ned.putReq_own (n := (s.tick t).ned k) held rfl
  case limit =>
    have here : ((s.tick t).ned k).req r.fid = some r := held
    refine event_next running ?_ ?_
    · rw [here]
      simp only [Option.any_some, wafer, decide_true, Bool.true_and]
      exact decide_eq_true late
    rw [here]
    refine ⟨rfl, ?_, State.refuseReq_effect in_ held rsFault (by simp)⟩
    rw [tally_of_marks (State.report_marks _ _ _ _) (by simp [marked, tfWatchdog, tfTransWait]), State.count_tally, if_pos rfl,
      tally_of_marks (State.refuseReq_marks _ _ _ _) (by simp [marked, tfWatchdog, tfTransWait])]
    rfl
  case named =>
    refine event_next running (by simp [here, wafer, fold, strayed, since]) ?_
    rw [show ((s.tick t).ned k).reqByTag tag.toNat = some r from here]
    exact State.refuseReq_effect in_ held _ rfl
  case deadline =>
    refine event_next running ?_ ?_
    · rw [show ((s.tick t).ned k).req r.fid = some r from held]
      simp [penned, late]
    · rw [show ((s.tick t).ned k).req r.fid = some r from held]
      exact State.refuseReq_effect in_ held rsDeadline rfl

end Sys2Proof.Machine

/-! A request enters the wafer under a free tag (R89, R335, R483). -/
namespace Sys2Proof.Machine

open Sys2Proof

/-! The tallies that an entry leaves alone. -/

@[simp] theorem State.nedSend_marks (s : State) (k e : Nat) (fs : List Flit) : (s.nedSend k e fs).marks = s.marks := by
  unfold State.nedSend
  extract_lets x
  split
  · exact State.modLink_marks _ _ _ _
  · exact State.reportFrom_marks _ _ _ _ _

@[simp] theorem State.sendBell_marks (s : State) (k eport fold old incoming count : Nat) (im : Image) (d : Nat × Nat × Nat) :
    (s.sendBell k eport fold old incoming count im d).marks = s.marks := by
  simp [State.sendBell]

@[simp] theorem State.closeBatch_marks (s : State) (k : Nat) (b : Binding) (f : Fold) : (s.closeBatch k b f).marks = s.marks := by
  unfold State.closeBatch
  split
  · rfl
  split
  · rfl
  · exact (State.modNed_marks _ _ _).trans (foldl_marks _ (fun _ _ => State.sendBell_marks _ _ _ _ _ _ _ _ _) _ _)

@[simp] theorem State.intoWafer_marks (s : State) (k : Nat) (r : Req) (rerun : Bool) : (s.intoWafer k r rerun).marks = s.marks := by
  unfold State.intoWafer
  split
  · rename_i x s0 f tagged _
    extract_lets b tag cleared r1 s2 s3
    have first : s2.marks = s.marks := (State.modNed_marks _ _ _).trans (State.withTag_marks tagged)
    have second : s3.marks = s2.marks := by
      simp only [s3]
      split <;> simp
    simp [second, first]
  · exact State.modNed_marks _ _ _

/-! The tag. -/

theorem Ned.freeTag_some {n : Ned} {tag : Nat} (low : 1 ≤ tag) (high : tag ≤ 65535) (unheld : ∀ x ∈ n.reqs, x.tag ≠ tag)
    (unvoided : ∀ v ∈ n.voidTags, v.1 ≠ tag) : ∃ t, n.freeTag = some t ∧ t ≠ 0 := by
  have found : n.freeTag.isSome := by
    refine List.find?_isSome.mpr ⟨tag, ?_, ?_⟩
    · exact List.mem_map.mpr ⟨tag - 1, List.mem_range.mpr (by omega), by omega⟩
    · have held : (n.reqs.any fun r => r.tag = tag) = false := List.any_eq_false.mpr fun x mem => by simpa using unheld x mem
      have void : (n.voidTags.any fun v => v.1 = tag) = false := List.any_eq_false.mpr fun v mem => by simpa using unvoided v mem
      simp [held, void]
  obtain ⟨t, is⟩ := Option.isSome_iff_exists.mp found
  refine ⟨t, is, ?_⟩
  obtain ⟨i, -, rfl⟩ := List.mem_map.mp (List.mem_of_find?_eq_some is)
  omega

theorem State.withTag_free {s : State} {k : Nat} {r : Req} {t : Nat} (free : (s.ned k).freeTag = some t) (out : r.phase ≠ .penned) :
    ∃ u, s.withTag k r = some ({ r with tag := t }, u) := by
  unfold State.withTag
  extract_lets n
  rw [if_neg (by simp [out]), show n.freeTag = some t from free]
  exact ⟨_, rfl⟩

/-! The entry. -/

theorem State.closeBatch_ned {s : State} {k : Nat} (in_ : k < s.neds.length) (b : Binding) (f : Fold) :
    ∃ need sources, (s.closeBatch k b f).ned k = { s.ned k with bwNeed := need, bwSources := sources } := by
  unfold State.closeBatch
  split
  · exact ⟨_, _, rfl⟩
  rename_i im _
  split
  · exact ⟨_, _, rfl⟩
  · extract_lets s1
    have core : s1.core = s.core := by simp [s1]
    have nic : s1.nic = s.nic := by simp [s1]
    rw [State.modNed_self (neds_length_of_core core ▸ in_), ned_of_nic nic]
    exact ⟨_, _, rfl⟩

/-- A request in the wafer under a tag. -/
def Req.entered (r : Req) (f : Fold) (tag : Nat) (now : Time) (rerun : Bool) : Req :=
  { r.clear with tag := tag, phase := .wafer, epoch := f.epoch, start := now, ended := false, runs := if rerun then 2 else r.runs }

/-- An entry changes the request and, where it closes a batch, what the NED expects of it. -/
theorem State.intoWafer_ned {s : State} {k : Nat} (in_ : k < s.neds.length) {r : Req} {f : Fold} {t : Nat}
    (free : (s.ned k).freeTag = some t) (out : r.phase ≠ .penned) (found : s.foldOf r.fold = some f) (rerun : Bool) :
    ∃ need sources, (s.intoWafer k r rerun).ned k =
      { (s.ned k).putReq (r.entered f t s.now rerun) with bwNeed := need, bwSources := sources } := by
  obtain ⟨u, tagged⟩ := State.withTag_free free out
  unfold State.intoWafer
  split
  case h_2 _ _ none_ => exact absurd found (none_ _ _ _ tagged)
  rename_i x u' g tagged' found'
  obtain ⟨rfl, rfl⟩ := Prod.mk.inj (Option.some.inj (tagged.symm.trans tagged'))
  obtain rfl := Option.some.inj (found.symm.trans found')
  extract_lets b tag cleared r1 s2 s3
  have core2 : s2.core = s.core := (State.modNed_core _ _ _).trans (State.withTag_core tagged)
  have own2 : s2.ned k = (s.ned k).putReq (r.entered f t s.now rerun) := by
    rw [State.modNed_self (neds_length_of_core (State.withTag_core tagged) ▸ in_), ned_of_nic (State.withTag_nic tagged)]
    rfl
  have third : s3.core = s2.core ∧ s3.nic = s2.nic := by
    simp only [s3]
    split
    · exact ⟨(State.setSession_core _ _ _).trans (State.nedSend_core _ _ _ _), (State.setSession_nic _ _ _).trans (State.nedSend_nic _ _ _ _)⟩
    · exact ⟨rfl, rfl⟩
  obtain ⟨core3, nic3⟩ := third
  have core : (s3.nedSend k b.eport (requestFlits b f.epoch tag r.bytes)).core = s.core :=
    (State.nedSend_core _ _ _ _).trans (core3.trans core2)
  obtain ⟨need, sources, e⟩ := State.closeBatch_ned (neds_length_of_core core ▸ in_) b f
  refine ⟨need, sources, ?_⟩
  rw [e, ned_of_nic (State.nedSend_nic _ _ _ _), ned_of_nic nic3, own2]

/-- A request of the NED enters the wafer. -/
theorem State.intoWafer_req {s : State} {k : Nat} (in_ : k < s.neds.length) {r y : Req} {f : Fold} {tag : Nat}
    (held : (s.ned k).req r.fid = some y) (out : r.phase ≠ .penned) (found : s.foldOf r.fold = some f)
    (low : 1 ≤ tag) (high : tag ≤ 65535) (unheld : ∀ x ∈ (s.ned k).reqs, x.tag ≠ tag) (unvoided : ∀ v ∈ (s.ned k).voidTags, v.1 ≠ tag)
    (rerun : Bool) : ∃ t, t ≠ 0 ∧ ((s.intoWafer k r rerun).ned k).req r.fid = some (r.entered f t s.now rerun)
      ∧ ((s.intoWafer k r rerun).ned k).buckets = (s.ned k).buckets ∧ ((s.intoWafer k r rerun).ned k).heard = (s.ned k).heard := by
  obtain ⟨t, free, some_⟩ := Ned.freeTag_some low high unheld unvoided
  obtain ⟨need, sources, e⟩ := State.intoWafer_ned in_ free out found rerun
  refine ⟨t, some_, ?_, ?_, ?_⟩
  · rw [e]
    exact Ned.putReq_own (n := s.ned k) held rfl
  · rw [e]
    rfl
  · rw [e]
    rfl

end Sys2Proof.Machine

/-! Verdicts on frames (R25, R29, R78, R79, R88–R97, R105, R106). -/
namespace Sys2Proof.Machine

open Sys2Proof

theorem State.hear_held {s : State} {k fid : Nat} {r : Req} (held : (s.ned k).req fid = some r) (v : Verdict) :
    s.hear k fid v = s.verdictOn k r v := by
  unfold State.hear
  extract_lets n
  rw [show n.req fid = some r from held]

theorem State.verdictOn_group (s : State) (k : Nat) {r : Req} (none_ : r.fcs = none) (fixes : List (Nat × Byte)) (bad : Bool) :
    s.verdictOn k r (.group fixes bad) = s.groupVerdict k r fixes bad := if_neg (by simp [none_])

theorem State.verdictOn_fcs (s : State) (k : Nat) {r : Req} (none_ : r.fcs = none) (good : Bool) :
    s.verdictOn k r (.fcs good) = s.fcsVerdict k r good := if_neg (by simp [none_])

theorem State.verdictOn_tail (s : State) (k : Nat) {r : Req} (none_ : r.fcs = none) (short : r.short = true) :
    s.verdictOn k r .tail = s.frameTail k r := if_neg (by simp [none_, short])

/-! A run made void (R93). -/

/-- A request whose run is void, held for its corrected bytes. -/
def Req.heldAgain (r : Req) : Req := { r.clear with phase := .held, runs := 2, early := false }

theorem State.holdRun_ned {s : State} {k : Nat} (in_ : k < s.neds.length) (r : Req) :
    ∃ ps, (s.holdRun k r).ned k = { (s.ned k).putReq r.heldAgain with
      ports := ps, voidTags := (s.ned k).voidTags ++ r.voids false, order := (s.ned k).order.filter (· ≠ r.fid) } := by
  obtain ⟨ps, e⟩ := State.stompSent_ned in_ r
  refine ⟨ps, ?_⟩
  unfold State.holdRun
  extract_lets s1
  have core1 : s1.core = s.core := State.stompSent_core _ _ _
  have in1 : k < s1.neds.length := neds_length_of_core core1 ▸ in_
  have core2 : ((s1.closeTag k r false).sessMod r fun x => { x with busy := false, len := min x.len x.p0 }).core = s.core := by
    simp [core1]
  rw [State.modNed_self (neds_length_of_core core2 ▸ in_), ned_of_nic (State.sessMod_nic _ _ _), State.closeTag_ned in1, e]
  rfl

theorem State.holdRun_kin (s : State) (k : Nat) (r : Req) : (s.holdRun k r).kin = s.kin := by
  simp [State.holdRun]

theorem State.holdRun_req {s : State} {k : Nat} (in_ : k < s.neds.length) {r y : Req} (held : (s.ned k).req r.fid = some y) :
    ((s.holdRun k r).ned k).req r.fid = some r.heldAgain := by
  obtain ⟨ps, e⟩ := State.holdRun_ned in_ r
  rw [e]
  exact Ned.putReq_own (n := s.ned k) held rfl

/-! Going on after a verdict. -/

theorem State.proceed_uncovered (s : State) {k : Nat} {r : Req} (short : (s.ned k).covers r = false) :
    s.proceed k r = s.modNed k fun n => n.putReq r := by
  unfold State.proceed
  extract_lets n s1
  exact if_pos (by simp [n, short])

theorem State.resume_running (s : State) (k : Nat) {r : Req} (running : r.phase ≠ .held) :
    s.resume k r = s.modNed k fun n => n.putReq r := by
  unfold State.resume
  extract_lets s1
  exact if_pos running

/-- What is past its classification and has no byte corrected stands. -/
theorem State.proceed_stands (s : State) (k : Nat) {r : Req} (running : r.phase ≠ .held) (fresh : r.stale = false) :
    s.proceed k r = s.modNed k fun n => n.putReq r := by
  unfold State.proceed
  extract_lets n s1
  split
  · rfl
  · rw [if_neg (by simp [running]), if_pos (by simp [fresh])]
    exact State.resume_running s k running

theorem State.modNed_putReq {s : State} {k : Nat} (in_ : k < s.neds.length) {r y : Req} (held : (s.ned k).req r.fid = some y) :
    ((s.modNed k fun n => n.putReq r).ned k).req r.fid = some r := by
  rw [State.modNed_self in_]
  exact Ned.putReq_own held rfl

theorem State.stOf_takes {s : State} {id : Nat} (takes : s.foldTakes id = true) :
    ∃ f, s.foldOf id = some f ∧ (s.stOf id = some .doubt || s.stOf id = some .migrating || s.stOf id = some .stopped) = false := by
  unfold State.foldTakes at takes
  cases found : s.foldOf id with
  | none => simp [State.stOf, found] at takes
  | some f =>
    refine ⟨f, rfl, ?_⟩
    simp only [State.stOf, found] at takes ⊢
    cases st : f.st <;> simp_all

/-! The verdict on a group. -/

/-- A request after a group without errors beyond repair. -/
def Req.corrected (r : Req) (fixes : List (Nat × Byte)) : Req := { r with bytes := applyFixes r.bytes fixes, judged := r.judged + 1 }

theorem State.groupVerdict_bad (s : State) (k : Nat) (r : Req) (fixes : List (Nat × Byte)) :
    s.groupVerdict k r fixes true = s.modNed k fun n => n.putReq { r with judged := r.judged + 1, uncorrectable := true } := by
  unfold State.groupVerdict
  extract_lets r1
  have is : r1 = { r with judged := r.judged + 1, uncorrectable := true } := by simp [r1]
  rw [is]
  exact if_pos rfl

/-- The fixes of a group that a request has not read. -/
def Req.unread (r : Req) (fixes : List (Nat × Byte)) : Nat := fixes.length - (fixes.filter fun x => decide (x.1 ≤ r.readTo)).length

theorem State.groupVerdict_unread (s : State) (k : Nat) {r : Req} (whole : r.uncorrectable = false) (waits : r.phase ≠ .held)
    (open_ : r.phase ≠ .done) {fixes : List (Nat × Byte)} (unread : ∀ x ∈ fixes, r.readTo < x.1) :
    s.groupVerdict k r fixes false = (s.addTally .port (portId k r.port) tpCorrUnread fixes.length).proceed k (r.corrected fixes) := by
  unfold State.groupVerdict
  extract_lets r1 hits s1
  have is : r1 = r.corrected fixes := by simp [r1, Req.corrected, whole]
  have none_ : hits = [] := List.filter_eq_nil_iff.mpr fun x mem => by simpa using unread x mem
  rw [is, if_neg (by simp [Req.corrected, whole, open_]), if_neg (by simp [waits])]
  simp only [s1, none_, List.isEmpty_nil, if_true, List.length_nil, Nat.sub_zero]

/-- The request whose run a group has made void. -/
def Req.again (r : Req) (fixes : List (Nat × Byte)) : Req := { r.corrected fixes with stale := true }.heldAgain

/-- The state in which a group has made a run void. -/
def State.voided (s : State) (k : Nat) (r : Req) (fixes : List (Nat × Byte)) : State :=
  (s.addTally .port (portId k r.port) tpCorrUnread (r.unread fixes)).holdRun k { r.corrected fixes with stale := true }

theorem State.voided_core (s : State) (k : Nat) (r : Req) (fixes : List (Nat × Byte)) : (s.voided k r fixes).core = s.core := by
  simp [State.voided]

theorem State.voided_kin (s : State) (k : Nat) (r : Req) (fixes : List (Nat × Byte)) : (s.voided k r fixes).kin = s.kin :=
  (State.holdRun_kin _ _ _).trans (State.addTally_kin _ _ _ _ _)

theorem State.voided_reruns (s : State) (k : Nat) (r : Req) (fixes : List (Nat × Byte)) (port : Nat) :
    (s.voided k r fixes).tally ⟨.port, port, tpReruns⟩ = s.tally ⟨.port, port, tpReruns⟩ := by
  have key : marked ⟨.port, port, tpReruns⟩ = true := by simp [marked, tpReruns, tpReplies, tpOverrun, tpStomped]
  rw [State.voided, tally_of_marks (State.holdRun_marks _ _ _) key, State.addTally_tally, if_neg (by simp [tpReruns, tpCorrUnread])]

theorem State.voided_ned {s : State} {k : Nat} (in_ : k < s.neds.length) (r : Req) (fixes : List (Nat × Byte)) :
    ∃ ps, (s.voided k r fixes).ned k = { (s.ned k).putReq (r.again fixes) with
      ports := ps, voidTags := (s.ned k).voidTags ++ r.voids false, order := (s.ned k).order.filter (· ≠ r.fid) } := by
  obtain ⟨ps, own⟩ := State.holdRun_ned (s := s.addTally .port (portId k r.port) tpCorrUnread (r.unread fixes))
    (neds_length_of_core (State.addTally_core s _ _ _ _) ▸ in_) { r.corrected fixes with stale := true }
  rw [ned_of_nic (State.addTally_nic _ _ _ _ _)] at own
  exact ⟨ps, own⟩

theorem State.voided_req {s : State} {k : Nat} (in_ : k < s.neds.length) {r : Req} (held : (s.ned k).req r.fid = some r)
    (fixes : List (Nat × Byte)) : ((s.voided k r fixes).ned k).req r.fid = some (r.again fixes) := by
  obtain ⟨ps, own⟩ := State.voided_ned in_ r fixes
  rw [own]
  exact Ned.putReq_own (n := s.ned k) held rfl

/-- A run whose bytes read are corrected is void. -/
theorem State.groupVerdict_void {s : State} {k : Nat} (in_ : k < s.neds.length) {r : Req} (held : (s.ned k).req r.fid = some r)
    (whole : r.uncorrectable = false) (ran : r.ran = true) {fixes : List (Nat × Byte)} (read : ∃ x ∈ fixes, x.1 ≤ r.readTo)
    (takes : s.foldTakes r.fold = true) : s.groupVerdict k r fixes false = (s.voided k r fixes).proceed k (r.again fixes) := by
  unfold State.groupVerdict
  extract_lets r1 hits s1 s2
  have is : r1 = r.corrected fixes := by simp [r1, Req.corrected, whole]
  have some_ : hits.isEmpty = false := by
    obtain ⟨x, mem, low⟩ := read
    rw [List.isEmpty_eq_false_iff]
    exact List.ne_nil_of_mem (List.mem_filter.mpr ⟨mem, by simpa using low⟩)
  have notHeld : r.phase ≠ .held ∧ r.phase ≠ .done := by
    constructor <;> intro e <;> simp [Req.ran, e] at ran
  have same2 : s2 = s.voided k r fixes := by
    simp only [s2, s1, is]
    rfl
  obtain ⟨f, -, stands⟩ := State.stOf_takes takes
  rw [is, if_neg (by simp [Req.corrected, whole, notHeld]), if_neg (by simp [notHeld]), some_, if_neg Bool.false_ne_true, if_pos ran, same2,
    State.voided_req in_ held fixes]
  exact if_neg (ne_true_of_eq_false stands)

/-! A run goes on from corrected bytes (R93). -/

/-- A held run whose bytes read are all judged, and whose binding stands, runs once more. -/
theorem State.proceed_reruns {s : State} {k : Nat} {r : Req} (held : r.phase = .held) (stale : r.stale = true) (runs : r.runs = 2)
    (quiet : r.reply = none) (covered : (s.ned k).covers r = true) (bound : classify (s.ned k).bindings r.port r.bytes = .bound r.binding)
    (is : r.binding < 8192) (paid : r.paid.isSome = true) :
    let r1 := { r with stale := false, bind := (s.ned k).binding r.binding }
    s.proceed k r = (s.modNed k fun n => n.putReq r1).rerun k r1 := by
  intro r1
  unfold State.proceed
  extract_lets n s1
  rw [if_neg (by simp [n, covered]), if_neg (by simp [is]), if_neg (by simp [stale]),
    show classify n.bindings r.port r.bytes = .bound r.binding from bound]
  dsimp only
  rw [if_pos (by simp [quiet])]
  unfold State.resume
  extract_lets s2
  rw [if_neg (by simp [held]), if_pos (show r.paid.isSome = true from paid), if_pos (show r.runs = 2 from runs)]

theorem State.rerun_takes (s : State) (k : Nat) {r : Req} (takes : s.foldTakes r.fold = true) :
    s.rerun k r = ((s.count .port (portId k r.port) tpReruns).countReq k r tcReruns 1).intoWafer k { r with runs := 2, early := false } true := by
  obtain ⟨f, -, stands⟩ := State.stOf_takes takes
  unfold State.rerun
  extract_lets st s1
  exact if_neg (ne_true_of_eq_false stands)

theorem foldTakes_of_kin {s t : State} (h : t.kin = s.kin) (id : Nat) : t.foldTakes id = s.foldTakes id := by
  have same : t.stOf id = s.stOf id := by
    have standing := congrArg (fun o : Option Fold => o.map Fold.st) (foldOf_of_kin h id)
    simp only [Option.map_map] at standing
    exact standing
  rw [State.foldTakes, State.foldTakes, same]

/-- A held run goes back into the wafer under another tag, and pays nothing again. -/
theorem State.rerun_req {s : State} {k : Nat} (in_ : k < s.neds.length) {r y : Req} {tag : Nat} (held : (s.ned k).req r.fid = some y)
    (phase : r.phase = .held) (takes : s.foldTakes r.fold = true) (low : 1 ≤ tag) (high : tag ≤ 65535)
    (unheld : ∀ x ∈ (s.ned k).reqs, x.tag ≠ tag) (unvoided : ∀ v ∈ (s.ned k).voidTags, v.1 ≠ tag) :
    (∃ q, ((s.rerun k r).ned k).req r.fid = some q ∧ q.phase = .wafer ∧ q.runs = 2 ∧ q.tag ≠ 0 ∧ q.bytes = r.bytes ∧ q.early = false)
      ∧ ((s.rerun k r).ned k).buckets = (s.ned k).buckets
      ∧ (s.rerun k r).tally ⟨.port, portId k r.port, tpReruns⟩ = s.tally ⟨.port, portId k r.port, tpReruns⟩ + 1 := by
  rw [State.rerun_takes s k takes]
  generalize counted : (s.count .port (portId k r.port) tpReruns).countReq k r tcReruns 1 = u
  have core : u.core = s.core := by
    rw [← counted]
    exact (State.countReq_core _ _ _ _ _).trans (State.count_core _ _ _ _)
  have own : u.ned k = s.ned k := by
    rw [← counted]
    exact ned_of_nic ((State.countReq_nic _ _ _ _ _).trans (State.count_nic _ _ _ _)) k
  have kin : u.kin = s.kin := by
    rw [← counted]
    exact (State.countReq_kin _ _ _ _ _).trans (State.count_kin _ _ _ _)
  have key : marked ⟨.port, portId k r.port, tpReruns⟩ = true := by simp [marked, tpReruns, tpReplies, tpOverrun, tpStomped]
  obtain ⟨f, found, -⟩ := State.stOf_takes ((foldTakes_of_kin kin r.fold).trans takes)
  obtain ⟨t, some_, is, buckets, -⟩ := State.intoWafer_req (s := u) (r := { r with runs := 2, early := false }) (y := y) (f := f) (tag := tag)
    (neds_length_of_core core ▸ in_) (own ▸ held) (by simp [phase]) found low high (own ▸ unheld) (own ▸ unvoided) true
  refine ⟨⟨_, is, rfl, rfl, some_, rfl, rfl⟩, buckets.trans (congrArg Ned.buckets own), ?_⟩
  rw [tally_of_marks (State.intoWafer_marks _ _ _ _) key, ← counted, tally_of_marks (State.countReq_marks _ _ _ _ _) key, State.count_tally,
    if_pos rfl]

/-- A run made void by a group that was the last its bytes read needed goes back into the wafer. -/
theorem State.voided_again {s : State} {k : Nat} (in_ : k < s.neds.length) {r : Req} (held : (s.ned k).req r.fid = some r)
    (fixes : List (Nat × Byte)) {tag : Nat} (takes : s.foldTakes r.fold = true) (covered : (s.ned k).covers (r.corrected fixes) = true)
    (bound : classify (s.ned k).bindings r.port (r.corrected fixes).bytes = .bound r.binding) (is : r.binding < 8192)
    (paid : r.paid.isSome = true) (low : 1 ≤ tag) (high : tag ≤ 65535) (unheld : ∀ x ∈ (s.ned k).reqs, x.tag ≠ tag)
    (unvoided : ∀ v ∈ (s.ned k).voidTags, v.1 ≠ tag) :
    let u := (s.voided k r fixes).proceed k (r.again fixes)
    ∃ q, (u.ned k).req r.fid = some q ∧ q.phase = .wafer ∧ q.runs = 2 ∧ q.tag ≠ 0 ∧ q.bytes = (r.corrected fixes).bytes ∧ q.early = false
      ∧ (u.ned k).buckets = (s.ned k).buckets
      ∧ u.tally ⟨.port, portId k r.port, tpReruns⟩ = s.tally ⟨.port, portId k r.port, tpReruns⟩ + 1 := by
  intro u
  obtain ⟨ps, own⟩ := State.voided_ned in_ r fixes
  have in1 : k < (s.voided k r fixes).neds.length := neds_length_of_core (State.voided_core s _ _ _) ▸ in_
  have goes := State.proceed_reruns (s := s.voided k r fixes) (k := k) (r := r.again fixes) rfl rfl rfl rfl (by rw [own]; exact covered)
    (by rw [own]; exact bound) is paid
  dsimp only at goes
  generalize stood : ({ r.again fixes with stale := false, bind := ((s.voided k r fixes).ned k).binding (r.again fixes).binding } : Req) = r1 at goes
  have fid : r1.fid = r.fid := by rw [← stood]; rfl
  have tag0 : r1.tag = 0 := by rw [← stood]; rfl
  have phase : r1.phase = .held := by rw [← stood]; rfl
  have fold : r1.fold = r.fold := by rw [← stood]; rfl
  have bytes1 : r1.bytes = (r.corrected fixes).bytes := by rw [← stood]; rfl
  have port : r1.port = r.port := by rw [← stood]; rfl
  have own2 : ((s.voided k r fixes).modNed k fun n => n.putReq r1).ned k = ((s.voided k r fixes).ned k).putReq r1 := State.modNed_self in1 _
  have mine : r ∈ (s.ned k).reqs := List.mem_of_find?_eq_some held
  have result := State.rerun_req (s := (s.voided k r fixes).modNed k fun n => n.putReq r1) (k := k) (r := r1) (y := r1) (tag := tag)
    (neds_length_of_core ((State.modNed_core _ _ _).trans (State.voided_core s _ _ _)) ▸ in_)
    (State.modNed_putReq in1 (fid ▸ State.voided_req in_ held fixes)) phase
    ((foldTakes_of_kin ((State.modNed_kin _ _ _).trans (State.voided_kin _ _ _ _)) _).trans (fold ▸ takes)) low high
    (fun x mem => by
      rw [own2, own] at mem
      obtain rfl | ⟨first, -⟩ := mem_replaced mem
      · omega
      · obtain rfl | ⟨second, -⟩ := mem_replaced first
        · exact fun e => absurd (show (0 : Nat) = tag from e) (by omega)
        · exact unheld x second)
    (fun v mem => by
      rw [own2, own] at mem
      rcases List.mem_append.mp mem with first | last
      · exact unvoided v first
      · unfold Req.voids at last
        split at last
        · cases last
        · rw [List.mem_singleton.mp last]
          exact unheld r mine)
  rw [← goes] at result
  obtain ⟨⟨q, at_, wafer, runs, some_, bytes, early⟩, buckets, tally⟩ := result
  refine ⟨q, fid ▸ at_, wafer, runs, some_, bytes.trans bytes1, early, ?_, ?_⟩
  · rw [buckets, own2, own]
    rfl
  · rw [port] at tally
    rw [tally, ← State.voided_reruns s k r fixes]
    rfl

/-! The FCS verdict. -/

theorem State.fcsVerdict_good (s : State) (k : Nat) {r : Req} (whole : r.uncorrectable = false) (fits : r.bytes.length ≤ 9216)
    (long : r.short = false) : s.fcsVerdict k r true =
      let r1 := { r with fcs := some true, judged := max r.judged ((s.ned k).groups r) }
      if r.phase = .replying then (s.modNed k fun n => n.putReq r1).releaseFcs k r1
      else if r.phase = .held || r.stale then s.proceed k r1 else s.modNed k fun n => n.putReq r1 := by
  unfold State.fcsVerdict
  rw [if_neg (by simp [whole, fits]), if_neg (by simp [long])]

theorem State.fcsVerdict_bad (s : State) (k : Nat) {r : Req} {good : Bool}
    (bad : good = false ∨ r.uncorrectable = true ∨ 9216 < r.bytes.length ∨ r.short = true) :
    s.fcsVerdict k r good = s.judgeBad k r false ∨ s.fcsVerdict k r good = (s.count .port (portId k r.port) tpLength).judgeBad k r false := by
  unfold State.fcsVerdict
  split
  · exact .inl rfl
  rename_i plain
  split
  · exact .inr rfl
  rename_i long
  simp only [Bool.or_eq_true, Bool.not_eq_true', decide_eq_true_eq, not_or] at plain long
  simp_all

/-- A request judged bad is none any more, and counts. -/
theorem State.judgeBad_effect {s : State} {k : Nat} (in_ : k < s.neds.length) (r : Req) (whole : Bool) :
    ((s.judgeBad k r whole).ned k).req r.fid = none ∧ (s.judgeBad k r whole).marks = (s.count .port (portId k r.port) tpBadFcs).marks
      ∧ (s.judgeBad k r whole).core = s.core := by
  unfold State.judgeBad
  extract_lets s1 r1 s2 s3
  have core2 : s2.core = s.core := (State.modNed_core _ _ _).trans (State.count_core _ _ _ _)
  have third : s3.core = s2.core ∧ s3.marks = s2.marks := by
    simp only [s3]
    split
    · exact ⟨State.stomp_core _ _ _ _, State.stomp_marks _ _ _ _⟩
    split
    · exact ⟨State.modNed_core _ _ _, State.modNed_marks _ _ _⟩
    · exact ⟨rfl, rfl⟩
  obtain ⟨core3, marks3⟩ := third
  have core : s3.core = s.core := core3.trans core2
  refine ⟨State.dropReq_req (neds_length_of_core core ▸ in_) r1, ?_, (State.dropReq_core _ _ _).trans core⟩
  rw [State.dropReq_marks, marks3, State.modNed_marks]

/-! The verdicts, settled. -/

/-- A verdict is heard by a NED in service. -/
theorem verdict_next {s : State} {t : Time} {k : NedIx} {f : State → State} {P : State → Prop} (running : s.resetN = false)
    (well : (s.ned k).doubt = false) (p : P (f (s.tick t))) :
    ∃ u, Host.Outcome.next (s.event t (fun s => !(s.ned k.val).doubt) f) = (.next u : Host.Outcome State Fault Refusal) ∧ P u :=
  event_next running (by simpa using well) p

/-- Settles O29: what each verdict makes of a request that the NED holds, by the request's phase and what it has read. -/
theorem framesAreJudged : Obligations.FramesAreJudged := by
  refine ⟨fun k fid fixes bad t s size running well none_ gone => ?before,
    fun k r fixes t s size running well held open_ => ?uncorrectable,
    fun k r fixes t s size running well held open_ whole fresh waits going unread => ?unread,
    fun k r r1 fixes t s size running well held open_ whole ran read takes is short => ?void,
    fun k r r1 fixes tag t s size running well held open_ whole ran read takes is covered bound low paid tag1 tag2 unheld unvoided => ?again,
    fun k r t s size running well held open_ whole fits long going settled fresh => ?good,
    fun k r body t s size running well held open_ whole fits long sending is => ?sends,
    fun k r good t s size running well held open_ bad => ?bad,
    fun k fid port good t s size running well none_ gone => ?gone,
    fun k r t s size running well held open_ short => ?tail,
    fun k r t s size running well held => ?broken⟩
  all_goals have in_ : k.val < (s.tick t).neds.length := ned_in size k
  case before =>
    refine verdict_next running well ?_
    have none' : ((s.tick t).ned k).req fid = none := none_
    have gone' : ((s.tick t).ned k).gone.find? (fun g => g.1 = fid) = none := List.find?_eq_none.mpr fun g mem => by simpa using gone g mem
    unfold State.hear
    extract_lets n
    rw [show n.req fid = none from none', show n.gone.find? (fun g => g.1 = fid) = none from gone']
    exact State.modNed_self in_ _
  case uncorrectable =>
    refine verdict_next running well ?_
    rw [State.hear_held (s := s.tick t) held, State.verdictOn_group _ _ open_, State.groupVerdict_bad]
    exact State.modNed_putReq (s := s.tick t) in_ held
  case unread =>
    refine verdict_next running well ?_
    rw [State.hear_held (s := s.tick t) held, State.verdictOn_group _ _ open_, State.groupVerdict_unread _ _ whole waits going unread,
      State.proceed_stands _ _ (r := r.corrected fixes) waits fresh]
    refine ⟨State.modNed_putReq (r := r.corrected fixes) (y := r) (neds_length_of_core (State.addTally_core (s.tick t) _ _ _ _) ▸ in_) ?_, ?_⟩
    · rw [ned_of_nic (State.addTally_nic _ _ _ _ _)]
      exact held
    · rw [tally_of_marks (State.modNed_marks _ _ _) (by simp [marked, tpCorrUnread, tpReplies, tpOverrun, tpStomped]), State.addTally_tally,
        if_pos rfl]
      rfl
  case good =>
    refine verdict_next running well ?_
    rw [State.hear_held (s := s.tick t) held, State.verdictOn_fcs _ _ open_, State.fcsVerdict_good _ _ whole fits long]
    dsimp only
    rw [if_neg going, if_neg (by simp [settled, fresh])]
    exact State.modNed_putReq (s := s.tick t) (y := r) in_ held
  case sends =>
    refine verdict_next running well ?_
    rw [State.hear_held (s := s.tick t) held, State.verdictOn_fcs _ _ open_, State.fcsVerdict_good _ _ whole fits long]
    dsimp only
    rw [if_pos sending, State.releaseFcs_wire (body := body)]
    · rfl
    · rw [is, State.modNed_self in_]
      rfl
  case bad =>
    refine verdict_next running well ?_
    rw [State.hear_held (s := s.tick t) held, State.verdictOn_fcs _ _ open_]
    have key : marked ⟨.port, portId k r.port, tpBadFcs⟩ = true := by simp [marked, tpBadFcs, tpReplies, tpOverrun, tpStomped]
    rcases State.fcsVerdict_bad (s.tick t) k bad with e | e
    · rw [e]
      obtain ⟨none_, marks, -⟩ := State.judgeBad_effect in_ r false
      refine ⟨none_, ?_⟩
      rw [tally_of_marks marks key, State.count_tally, if_pos rfl]
      rfl
    · rw [e]
      have in1 : k.val < ((s.tick t).count .port (portId k r.port) tpLength).neds.length :=
        (neds_length_of_core (State.count_core (s.tick t) .port (portId k r.port) tpLength)).symm ▸ in_
      obtain ⟨none_, marks, -⟩ := State.judgeBad_effect in1 r false
      refine ⟨none_, ?_⟩
      rw [tally_of_marks marks key, State.count_tally, if_pos rfl, State.count_tally, if_neg (by simp [tpBadFcs, tpLength])]
      rfl
  case gone =>
    refine verdict_next running well ?_
    have none' : ((s.tick t).ned k).req fid = none := none_
    unfold State.hear
    extract_lets n
    rw [show n.req fid = none from none', show n.gone.find? (fun g => g.1 = fid) = some (fid, some port) from gone]
    dsimp only
    have own : (((s.tick t).modNed k fun n => { n with gone := n.gone.filter fun g => g.1 ≠ fid }).ned k).gone =
        ((s.tick t).ned k).gone.filter fun g => g.1 ≠ fid := by
      rw [State.modNed_self in_]
    have out (g : Nat × Option Nat) (mem : g ∈ ((s.tick t).ned k).gone.filter fun g => g.1 ≠ fid) : g.1 ≠ fid := by
      simpa using (List.mem_filter.mp mem).2
    cases good with
    | true =>
      rw [if_pos rfl, own]
      exact ⟨out, (BitVec.add_zero _).symm⟩
    | false =>
      rw [if_neg Bool.false_ne_true, ned_of_nic (State.count_nic _ _ _ _), own]
      refine ⟨out, ?_⟩
      rw [State.count_tally, if_pos rfl]
      rfl
  case tail =>
    refine verdict_next running well ?_
    rw [State.hear_held (s := s.tick t) held, State.verdictOn_tail _ _ open_ short]
    have in1 : k.val < ((s.tick t).count .port (portId k r.port) tpLength).neds.length :=
      (neds_length_of_core (State.count_core (s.tick t) .port (portId k r.port) tpLength)).symm ▸ in_
    obtain ⟨none_, marks, core⟩ := State.judgeBad_effect in1 r true
    unfold State.frameTail
    extract_lets s1
    refine ⟨?_, ?_, ?_⟩
    · rw [State.modNed_self (neds_length_of_core core ▸ in1)]
      exact none_
    · rw [tally_of_marks ((State.modNed_marks _ _ _).trans marks) (by simp [marked, tpLength, tpReplies, tpOverrun, tpStomped]),
        State.count_tally, if_neg (by simp [tpBadFcs, tpLength]), State.count_tally, if_pos rfl]
      rfl
    · rw [tally_of_marks ((State.modNed_marks _ _ _).trans marks) (by simp [marked, tpBadFcs, tpReplies, tpOverrun, tpStomped]),
        State.count_tally, if_pos rfl, State.count_tally, if_neg (by simp [tpBadFcs, tpLength])]
      rfl
  case broken =>
    refine verdict_next running well ?_
    rw [State.hear_held (s := s.tick t) held]
    show ∃ q, (((s.tick t).breakStream k r).ned k).req r.fid = some q ∧ _
    unfold State.breakStream
    split
    · rename_i stays
      refine ⟨r, held, fun early short => absurd stays ?_, fun _ => rfl⟩
      simp only [early, Bool.not_true, Bool.false_or]
      exact ne_true_of_eq_false short
    rename_i breaks
    have off : ¬ (r.early = false ∨ (s.ned k).covers r = true) := by
      simpa using breaks
    split
    · rename_i ran
      exact ⟨r.heldAgain, State.holdRun_req (s := s.tick t) in_ held, fun _ _ => ⟨rfl, fun _ => ⟨rfl, rfl, rfl⟩, fun ran' => by simp_all⟩,
        fun stays => absurd stays off⟩
    · rename_i ran
      exact ⟨{ r with early := false }, State.modNed_putReq (s := s.tick t) (y := r) in_ held,
        fun _ _ => ⟨rfl, fun ran' => absurd ran' ran, fun _ => rfl⟩, fun stays => absurd stays off⟩
  case void =>
    subst is
    refine verdict_next running well ?_
    rw [State.hear_held (s := s.tick t) held, State.verdictOn_group _ _ open_,
      State.groupVerdict_void (s := s.tick t) in_ held whole ran read takes]
    obtain ⟨ps, own⟩ := State.voided_ned in_ r fixes
    have short2 : (((s.tick t).voided k r fixes).ned k).covers (r.again fixes) = false := by
      rw [own]
      exact short
    rw [State.proceed_uncovered _ short2]
    refine ⟨r.again fixes, ?_, rfl, rfl, rfl, rfl, rfl, rfl⟩
    exact State.modNed_putReq (neds_length_of_core (State.voided_core (s.tick t) _ _ _) ▸ in_) (State.voided_req in_ held fixes)
  case again =>
    subst is
    refine verdict_next running well ?_
    rw [State.hear_held (s := s.tick t) held, State.verdictOn_group _ _ open_,
      State.groupVerdict_void (s := s.tick t) in_ held whole ran read takes]
    exact State.voided_again (s := s.tick t) in_ held fixes takes covered bound low paid tag1 tag2 unheld unvoided

end Sys2Proof.Machine

/-! Frames arrive (R76, R78, R83, R89, R90, R111, R112, R121, R476). -/
namespace Sys2Proof.Machine

open Sys2Proof

/-! What admission reads of the folds. -/

theorem entryOfHandle_of_fld {s t : State} (h : t.fld = s.fld) (w : Word) : t.entryOfHandle w = s.entryOfHandle w := by
  have chan : t.channel (hdlIndex w) = s.channel (hdlIndex w) :=
    congrArg (fun x : Fld => x.channels.find? fun c : Channel => c.index = hdlIndex w) h
  rw [State.entryOfHandle, State.entryOfHandle, chan, foldOf_of_fld h]

/-! Verdicts that did not come before their frame. -/

theorem State.hearAll_unheard (s : State) (k : Nat) {fid : Nat} (unheard : ∀ h ∈ (s.ned k).heard, h.1 ≠ fid) :
    s.hearAll k fid = s.modNed k fun n => { n with heard := n.heard.filter fun h => h.1 ≠ fid } := by
  have none_ : (s.ned k).heard.filter (fun h => h.1 = fid) = [] := List.filter_eq_nil_iff.mpr fun h mem => by simpa using unheard h mem
  unfold State.hearAll
  rw [none_]
  rfl

/-- With no verdict before it, what admission leaves is what it has made. -/
theorem State.hearAll_effect {s : State} {k : Nat} (in_ : k < s.neds.length) {fid : Nat} (unheard : ∀ h ∈ (s.ned k).heard, h.1 ≠ fid) :
    ((s.hearAll k fid).ned k).reqs = (s.ned k).reqs ∧ ∀ key, (s.hearAll k fid).tally key = s.tally key := by
  rw [State.hearAll_unheard s k unheard, State.modNed_self in_]
  exact ⟨rfl, fun _ => rfl⟩

/-! A frame taken in. -/

/-- A NED that has taken a frame in. -/
def Ned.taking (n : Ned) (r : Req) (now : Time) : Ned := { n.sweep now with reqs := (n.sweep now).reqs ++ [r] }

theorem Ned.taking_req {n : Ned} {r : Req} (new : n.req r.fid = none) (now : Time) : (n.taking r now).req r.fid = some r := by
  have none_ : (n.sweep now).req r.fid = none := List.find?_eq_none.mpr fun x mem =>
    List.find?_eq_none.mp new x (List.mem_of_mem_filter mem)
  unfold Ned.req at none_ ⊢
  rw [Ned.taking, List.find?_append, none_, List.find?_cons_of_pos (by simp)]
  rfl

theorem Ned.mem_taking {n : Ned} {r x : Req} {now : Time} (mem : x ∈ (n.taking r now).reqs) : x ∈ n.reqs ∨ x = r := by
  rcases List.mem_append.mp mem with old | new
  · exact .inl (List.mem_of_mem_filter old)
  · exact .inr (List.mem_singleton.mp new)

/-- The state in which a LIVE port has taken a frame in. -/
def State.taken (s : State) (k : Nat) (f : FrameIn) : State :=
  ((s.count .port (portId k f.port) tpRx).addTally .ned k tnReread f.rereads).modNed k fun n => n.taking (newReq (s.ned k) f s.now) s.now

theorem State.taken_core (s : State) (k : Nat) (f : FrameIn) : (s.taken k f).core = s.core := by
  simp [State.taken]

theorem State.taken_fld (s : State) (k : Nat) (f : FrameIn) : (s.taken k f).fld = s.fld := by
  simp [State.taken]

theorem State.taken_ptpPort (s : State) (k : Nat) (f : FrameIn) : (s.taken k f).ptpPort = s.ptpPort := by
  unfold State.taken State.addTally
  split <;> rfl

theorem State.taken_ned {s : State} {k : Nat} (in_ : k < s.neds.length) (f : FrameIn) :
    (s.taken k f).ned k = (s.ned k).taking (newReq (s.ned k) f s.now) s.now := by
  have core : ((s.count .port (portId k f.port) tpRx).addTally .ned k tnReread f.rereads).core = s.core := by simp
  rw [State.taken, State.modNed_self (neds_length_of_core core ▸ in_), ned_of_nic ((State.addTally_nic _ _ _ _ _).trans (State.count_nic _ _ _ _))]

theorem State.taken_tally (s : State) (k : Nat) (f : FrameIn) (id idx : Nat) : (s.taken k f).tally ⟨.port, id, idx⟩ =
    if (⟨.port, id, idx⟩ : TKey) = ⟨.port, portId k f.port, tpRx⟩ then s.tally ⟨.port, id, idx⟩ + 1
    else s.tally ⟨.port, id, idx⟩ := by
  show ((s.count .port (portId k f.port) tpRx).addTally .ned k tnReread f.rereads).tally ⟨.port, id, idx⟩ = _
  rw [State.addTally_tally, if_neg (by simp), State.count_tally]

/-- A frame that a LIVE port takes in is kept for its corrected bytes, or classified. -/
theorem admission_next {k : NedIx} {f : FrameIn} {t : Time} {s : State} {P : State → Prop} (running : s.resetN = false)
    (has : (s.ned k).hasPort f.port = true) (new : (s.ned k).req f.fid = none) (live : ((s.ned k).port f.port).state = .live)
    (up : ((s.ned k).port f.port).draining = false) (plain : ¬ (s.ptpPort = some (k.val, f.port.val) ∧ isPtpEvent f.bytes = true))
    (p : P ((if (s.ned k).reparseDue f.port f.bytes then (s.tick t).taken k f
      else ((s.tick t).taken k f).classifyReq k (newReq ((s.tick t).ned k) f (s.tick t).now)).hearAll k f.fid)) :
    ∃ u, exec (.admission k f t) s = .next u ∧ P u := by
  refine event_next running (by simp [has, new]) ?_
  extract_lets k' n id port s1 r s2
  have live' : port.state = .live := live
  have up' : port.draining = false := up
  rw [if_neg (by simp [live']), if_neg (by simp [live', up'])]
  have ptp : (decide ((s.tick t).ptpPort = some (k', f.port.val)) && isPtpEvent f.bytes) = false := by
    simpa using fun at_ => by simpa using fun event => plain ⟨at_, event⟩
  rw [if_neg (by rw [ptp]; exact Bool.false_ne_true)]
  exact p

/-! The gates. -/

/-- A request under the binding that its frame matches. -/
def Req.boundTo (r : Req) (i : Nat) (b : Binding) : Req := { r with binding := i, bind := b, fold := hdlFold b.handle, template := b.template }

theorem Req.mrq_boundTo {r : Req} {p : Parsed} (parsed : parseFrame r.bytes = some p) (i : Nat) (b : Binding) :
    (r.boundTo i b).mrq = mrqAt r.bytes (b.mrqAt p) := by
  rw [Req.mrq, show parseFrame (r.boundTo i b).bytes = some p from parsed]
  rfl

/-- A frame that a binding matches, neither pause nor PTP, is let in under its binding. -/
theorem State.classifyReq_bound {s : State} {k : Nat} {r : Req} {i : Nat} (pause : be16 r.bytes 12 ≠ 0x8808)
    (plain : ¬ (s.ptpPort = some (k, r.port) ∧ isPtpEvent r.bytes = true)) (bound : classify (s.ned k).bindings r.port r.bytes = .bound i) :
    s.classifyReq k r = s.letIn k (r.boundTo i ((s.ned k).binding i)) := by
  unfold State.classifyReq
  extract_lets n
  rw [if_neg pause, if_neg (by simpa using plain), show classify n.bindings r.port r.bytes = .bound i from bound]
  rfl

theorem State.classifyReq_unclassified {s : State} {k : Nat} {r : Req} (pause : be16 r.bytes 12 ≠ 0x8808)
    (plain : ¬ (s.ptpPort = some (k, r.port) ∧ isPtpEvent r.bytes = true))
    (unbound : classify (s.ned k).bindings r.port r.bytes = .unclassified) :
    s.classifyReq k r = (s.dropReq k r).count .port (portId k r.port) tpUnclassified := by
  unfold State.classifyReq
  extract_lets n
  rw [if_neg pause, if_neg (by simpa using plain), show classify n.bindings r.port r.bytes = .unclassified from unbound]

/-- A request let in, of no session. -/
def Req.letOn (r : Req) : Req :=
  { r with counted := r.binding, session := none, early := r.early && r.bind.spec && !r.mrq.nsp }

/-- The count of a request, once under each binding that it is let in under. -/
def State.counting (s : State) (k : Nat) (r : Req) : State := if r.counted = r.binding then s else s.countReq k r tcRequests 1

theorem State.counting_core (s : State) (k : Nat) (r : Req) : (s.counting k r).core = s.core := by
  unfold State.counting
  split
  · rfl
  · exact State.countReq_core _ _ _ _ _

theorem State.counting_fld (s : State) (k : Nat) (r : Req) : (s.counting k r).fld = s.fld := by
  unfold State.counting
  split
  · rfl
  · exact State.countReq_fld _ _ _ _ _

theorem State.counting_nic (s : State) (k : Nat) (r : Req) : (s.counting k r).nic = s.nic := by
  unfold State.counting
  split
  · rfl
  · exact State.countReq_nic _ _ _ _ _

theorem State.counting_marks (s : State) (k : Nat) (r : Req) : (s.counting k r).marks = s.marks := by
  unfold State.counting
  split
  · rfl
  · exact State.countReq_marks _ _ _ _ _

/-- A request without a session of a plain entry, whose bytes reach past its headers, meets the gates. -/
theorem State.letIn_gates {s : State} {k : Nat} {r : Req} {p : Parsed} {g : Fold} {e : Entry} (plain : r.mrq.ses = false)
    (entry : s.entryOfHandle r.bind.handle = some (g, e)) (cls : e.cls = none) (parsed : parseFrame r.bytes = some p)
    (reach : r.bind.readlim < p.ipEnd) :
    s.letIn k r = ((s.counting k r).modNed k fun n => n.putReq r.letOn).gates k r.letOn := by
  unfold State.letIn
  extract_lets b q c s1 r0 r1 s2
  have noClass : c = none := by
    simp only [c, b, entry, Option.bind_some, cls]
  have ses : q.ses = false := plain
  have is : r1 = r.letOn := by simp [r1, r0, ses, Req.letOn, q, b]
  have state : s2 = (s.counting k r).modNed k fun n => n.putReq r.letOn := by
    simp only [s2, is]
    rfl
  rw [if_neg (by simp [ses, noClass]), parsed, if_neg (by simpa [b] using reach), state, is]
  split
  · rfl
  · rw [if_pos (by simp [ses])]

/-- Where the bucket holds a whole token, no request of a higher port need give one back. -/
theorem State.gates_whole {s : State} {k : Nat} {r : Req} (whole : (((s.ned k).bucket r.bind.bucket).refill s.now).whole = true) :
    s.gates k r = s.gateWalk k r := by
  have none_ : s.outranked k r = none := by
    unfold State.outranked
    extract_lets n bk
    refine List.find?_eq_none.mpr fun y _ => ?_
    have whole' : bk.whole = true := whole
    simp [whole']
  unfold State.gates
  rw [none_]

/-- The state in which a request has spent a token of its binding's bucket. -/
def State.spent (s : State) (k : Nat) (i : Nat) : State :=
  (s.modNed k fun n => n.setBucket i (((s.ned k).bucket i).refill s.now)).modNed k fun n =>
    n.setBucket i (((s.ned k).bucket i).refill s.now).spend

theorem State.gateWalk_spends {s : State} {k : Nat} {r : Req} {g : Fold} (found : s.foldOf r.fold = some g) (runs : g.st = .running)
    (noQueue : (s.ned k).penWaits r.fold = false) (whole : (((s.ned k).bucket r.bind.bucket).refill s.now).whole = true) :
    s.gateWalk k r = (s.spent k r.bind.bucket).paidIn k r (.bucket r.bind.bucket) := by
  unfold State.gateWalk
  rw [found]
  extract_lets n b bk s1 gate9
  dsimp only
  rw [runs]
  dsimp only
  rw [if_neg (by rw [show n.penWaits r.fold = false from noQueue]; exact Bool.false_ne_true), if_pos (show bk.whole = true from whole)]
  rfl

/-- A paid early request of a RUNNING fold, in no queue and no batch, enters the wafer. -/
theorem State.paidIn_enters {s : State} {k : Nat} {r : Req} {g : Fold} {e : Entry} (entry : s.entryOfHandle r.bind.handle = some (g, e))
    (raised : g.raise e.no = 0) {f : Fold} (found : s.foldOf r.fold = some f) (runs : f.st = .running) (alone : s.batchOpen k r.fold = false)
    (plain : r.session = none) (early : r.early = true) (src : TokenSrc) :
    s.paidIn k r src = (s.intoWafer k { r with paid := some src } false).count .port (portId k r.port) tpEarly := by
  unfold State.paidIn
  extract_lets r1 b late s1
  have intime : late = false := by
    simp [late, b, entry, raised]
  have free : s.classBusy r.fold (s.clsOfReq r) = false := by simp [State.classBusy, State.clsOfReq, plain]
  rw [intime, if_neg Bool.false_ne_true, if_neg (by simp [found, runs, alone, free]), if_pos (by simp [early]), if_pos early]

theorem batchOpen_of {s t : State} {k : Nat} (fld : t.fld = s.fld) (need : (t.ned k).bwNeed = (s.ned k).bwNeed) (fold : Nat) :
    t.batchOpen k fold = s.batchOpen k fold := by
  rw [State.batchOpen, State.batchOpen, foldOf_of_fld fld, need]

theorem Ned.penWaits_iff (n : Ned) (fold : Nat) :
    n.penWaits fold = false ↔ ∀ x ∈ n.reqs, x.fold = fold → x.phase = .penned → x.prepaid = true := by
  simp [Ned.penWaits, Ned.penned, List.any_eq_false]

theorem State.spent_fld (s : State) (k i : Nat) : (s.spent k i).fld = s.fld := by
  simp [State.spent]

theorem State.spent_core (s : State) (k i : Nat) : (s.spent k i).core = s.core := by
  simp [State.spent]

theorem State.spent_marks (s : State) (k i : Nat) : (s.spent k i).marks = s.marks := by
  simp [State.spent]

theorem State.spent_ned {s : State} {k : Nat} (in_ : k < s.neds.length) (i : Nat) :
    ∃ bs, (s.spent k i).ned k = { s.ned k with buckets := bs } := by
  rw [State.spent, State.modNed_self ((neds_length_of_core (State.modNed_core s k _)).symm ▸ in_), State.modNed_self in_]
  exact ⟨_, rfl⟩

/-- What the gates of a plain early request read of the wafer and of its NED. -/
structure State.Admits (s : State) (k : Nat) (r : Req) (g : Fold) (tag : Nat) : Prop where
  found : s.foldOf r.fold = some g
  runs : g.st = .running
  entry : ∃ e, s.entryOfHandle r.bind.handle = some (g, e) ∧ e.cls = none ∧ g.raise e.no = 0
  noQueue : (s.ned k).penWaits r.fold = false
  alone : s.batchOpen k r.fold = false
  whole : (((s.ned k).bucket r.bind.bucket).refill s.now).whole = true
  low : 1 ≤ tag
  high : tag ≤ 65535
  unheld : ∀ x ∈ (s.ned k).reqs, x.tag ≠ tag
  unvoided : ∀ v ∈ (s.ned k).voidTags, v.1 ≠ tag

/-- A request whose own checks pass enters the wafer early (R89, R476). -/
theorem State.letIn_enters {s : State} {k : Nat} (in_ : k < s.neds.length) {r y : Req} {g : Fold} {tag : Nat} (ok : s.Admits k r g tag)
    (own : (s.ned k).req r.fid = some y) (held : r.phase = .held) (untagged : r.tag = 0) {p : Parsed} (parsed : parseFrame r.bytes = some p)
    (reach : r.bind.readlim < p.ipEnd) (plain : r.mrq.ses = false) (early : r.letOn.early = true) :
    let u := s.letIn k r
    (∃ q, (u.ned k).req r.fid = some q ∧ q.phase = .wafer ∧ q.tag ≠ 0 ∧ q.binding = r.binding ∧ q.start = s.now ∧ q.epoch = g.epoch
        ∧ q.early = true ∧ q.paid = some (.bucket r.bind.bucket))
      ∧ (u.ned k).heard = (s.ned k).heard ∧ u.core = s.core
      ∧ u.tally ⟨.port, portId k r.port, tpEarly⟩ = s.tally ⟨.port, portId k r.port, tpEarly⟩ + 1 := by
  intro u
  obtain ⟨e, entry, cls, raised⟩ := ok.entry
  have gates := State.letIn_gates (s := s) (k := k) plain entry cls parsed reach
  generalize placed : (s.counting k r).modNed k (fun n => n.putReq r.letOn) = s1 at gates
  have core1 : s1.core = s.core := by rw [← placed]; exact (State.modNed_core _ _ _).trans (State.counting_core _ _ _)
  have fld1 : s1.fld = s.fld := by rw [← placed]; exact (State.modNed_fld _ _ _).trans (State.counting_fld _ _ _)
  have marks1 : s1.marks = s.marks := by rw [← placed]; exact (State.modNed_marks _ _ _).trans (State.counting_marks _ _ _)
  have ned1 : s1.ned k = (s.ned k).putReq r.letOn := by
    rw [← placed, State.modNed_self (neds_length_of_core (State.counting_core s _ _) ▸ in_), ned_of_nic (State.counting_nic _ _ _)]
  have whole1 : (((s1.ned k).bucket r.letOn.bind.bucket).refill s1.now).whole = true := by
    rw [ned1, now_of_core core1]
    exact ok.whole
  have queue1 : (s1.ned k).penWaits r.letOn.fold = false := by
    rw [ned1]
    refine (Ned.penWaits_iff _ _).mpr fun x mem fold pens => ?_
    obtain rfl | ⟨old, -⟩ := mem_replaced mem
    · exact absurd (held.symm.trans pens) (by decide)
    · exact (Ned.penWaits_iff _ _).mp ok.noQueue x old fold pens
  have found1 : s1.foldOf r.letOn.fold = some g := (foldOf_of_fld fld1 _).trans ok.found
  have walk := (State.gates_whole whole1).trans (State.gateWalk_spends found1 ok.runs queue1 whole1)
  generalize spending : s1.spent k r.letOn.bind.bucket = s2 at walk
  have core2 : s2.core = s.core := by rw [← spending]; exact (State.spent_core _ _ _).trans core1
  have fld2 : s2.fld = s.fld := by rw [← spending]; exact (State.spent_fld _ _ _).trans fld1
  have marks2 : s2.marks = s.marks := by rw [← spending]; exact (State.spent_marks _ _ _).trans marks1
  obtain ⟨bs, ned2⟩ : ∃ bs, s2.ned k = { (s.ned k).putReq r.letOn with buckets := bs } := by
    rw [← spending, ← ned1]
    exact State.spent_ned (neds_length_of_core core1 ▸ in_) _
  have in2 : k < s2.neds.length := neds_length_of_core core2 ▸ in_
  have enters := State.paidIn_enters (s := s2) (k := k) (r := r.letOn) ((entryOfHandle_of_fld fld2 _).trans entry) raised
    ((foldOf_of_fld fld2 _).trans ok.found) ok.runs ((batchOpen_of fld2 (by rw [ned2]; rfl) _).trans ok.alone) rfl early
    (.bucket r.letOn.bind.bucket)
  have is : u = (s2.intoWafer k { r.letOn with paid := some (.bucket r.letOn.bind.bucket) } false).count .port (portId k r.port) tpEarly :=
    gates.trans (walk.trans enters)
  obtain ⟨t, some_, q, -, heard⟩ := State.intoWafer_req (s := s2) (k := k) (r := { r.letOn with paid := some (.bucket r.letOn.bind.bucket) })
    (y := r.letOn) in2 (by rw [ned2]; exact Ned.putReq_own (n := s.ned k) own rfl) (by simp [Req.letOn, held])
    ((foldOf_of_fld fld2 _).trans ok.found) ok.low ok.high
    (fun x mem => by
      rw [ned2] at mem
      obtain rfl | ⟨old, -⟩ := mem_replaced mem
      · have low := ok.low
        rw [show r.letOn.tag = 0 from untagged]
        omega
      · exact ok.unheld x old)
    (fun v mem => by
      rw [ned2] at mem
      exact ok.unvoided v mem) false
  have key : marked ⟨.port, portId k r.port, tpEarly⟩ = true := by simp [marked, tpEarly, tpReplies, tpOverrun, tpStomped]
  rw [is, ned_of_nic (State.count_nic _ _ _ _)]
  refine ⟨⟨_, q, rfl, some_, rfl, now_of_core core2, rfl, early, rfl⟩, ?_, ?_, ?_⟩
  · rw [heard, ned2]
    rfl
  · rw [State.count_core, State.intoWafer_core, core2]
  · rw [State.count_tally, if_pos rfl, tally_of_marks (State.intoWafer_marks _ _ _ _) key, tally_of_marks marks2 key]

/-- A request that holds nothing is dropped without more. -/
theorem State.dropReq_fresh (s : State) (k : Nat) {r : Req} (held : r.phase = .held) (untagged : r.tag = 0) (plain : r.session = none) :
    s.dropReq k r = s.modNed k fun n => n.dropReq r.fid := by
  unfold State.dropReq
  extract_lets s1
  have same : s1 = s := if_neg (by simp [held])
  rw [same, State.closeTag, if_pos (by simp [untagged]), State.sessMod, plain]

/-- Settles O28: a frame's arrival, by the state of its port and by what its early bytes say. -/
theorem framesArrive : Obligations.FramesArrive := by
  refine ⟨fun k f t s size running has new off => ?squelched, fun k f t s size running has new idle => ?idle,
    fun k f t s size running has new live up at_ event => ?ptp, fun k f t s size running has new live up plain unheard due => ?held,
    fun k f t s size running has new live up plain unheard parsed pause unbound => ?unclassified,
    fun k f i tag b p g e t s size running has new live up plain unheard parsed pause bound is frame reach ses nsp spec found runs entry cls raised
      noQueue alone whole low high unheld unvoided => ?enters⟩
  all_goals have in_ : k.val < (s.tick t).neds.length := ned_in size k
  case squelched =>
    refine event_next running (by simp [has, new]) ?_
    extract_lets k' n id port s1 r s2
    rw [if_pos (show port.state = .squelched from off), State.modNed_self in_]
    exact ⟨rfl, rfl⟩
  case idle =>
    refine event_next running (by simp [has, new]) ?_
    extract_lets k' n id port s1 r s2
    have shut : (port.state = .idle || port.draining) = true := by
      rcases idle with off | ⟨-, off⟩
      · rw [show port.state = .idle from off]
        rfl
      · rw [show port.draining = true from off, Bool.or_true]
    have on : port.state ≠ .squelched := by
      rcases idle with off | ⟨off, -⟩
      · rw [show port.state = .idle from off]
        decide
      · rw [show port.state = .live from off]
        decide
    have in1 : k' < ((s.tick t).count .port id tpIdleDropped).neds.length :=
      (neds_length_of_core (State.count_core (s.tick t) .port id tpIdleDropped)).symm ▸ in_
    rw [if_neg on, if_pos shut, State.modNed_self in1,
      ned_of_nic (State.count_nic _ _ _ _)]
    refine ⟨rfl, ?_⟩
    show ((s.tick t).count .port id tpIdleDropped).tally ⟨.port, portId k f.port, tpIdleDropped⟩ = _
    rw [State.count_tally, if_pos rfl]
    rfl
  case ptp =>
    refine event_next running (by simp [has, new]) ?_
    extract_lets k' n id port s1 r s2
    have live' : port.state = .live := live
    have up' : port.draining = false := up
    have core : s1.core = (s.tick t).core := by simp [s1]
    rw [if_neg (by simp [live']), if_neg (by simp [live', up']),
      if_pos (by simpa [event] using at_), State.modNed_self (neds_length_of_core core ▸ in_),
      ned_of_nic ((State.addTally_nic _ _ _ _ _).trans (State.count_nic _ _ _ _))]
    refine ⟨rfl, ?_⟩
    show (((s.tick t).count .port id tpRx).addTally .ned k' tnReread f.rereads).tally ⟨.port, portId k f.port, tpRx⟩ = _
    rw [State.addTally_tally, if_neg (by simp), State.count_tally, if_pos rfl]
    rfl
  case held =>
    refine admission_next running has new live up plain ?_
    rw [if_pos due]
    have own := State.taken_ned in_ f
    obtain ⟨reqs, tally⟩ := State.hearAll_effect (s := (s.tick t).taken k f) (k := k) (fid := f.fid)
      (neds_length_of_core (State.taken_core (s.tick t) k f) ▸ in_) (by rw [own]; exact unheard)
    rw [reqs, own, tally, State.taken_tally, if_pos rfl]
    exact ⟨rfl, rfl⟩
  case unclassified =>
    refine admission_next running has new live up plain ?_
    rw [if_neg (by rw [parsed]; exact Bool.false_ne_true)]
    have own := State.taken_ned in_ f
    have in1 : k.val < ((s.tick t).taken k f).neds.length := neds_length_of_core (State.taken_core (s.tick t) k f) ▸ in_
    rw [State.classifyReq_unclassified (s := (s.tick t).taken k f) (r := newReq ((s.tick t).ned k) f (s.tick t).now) pause
      (by rw [State.taken_ptpPort]; exact plain)
      (by rw [own]; exact unbound), State.dropReq_fresh _ _ rfl rfl rfl]
    have dropped : ((((s.tick t).taken k f).modNed k fun n => n.dropReq f.fid).count .port (portId k f.port) tpUnclassified).ned k =
        (((s.tick t).ned k).taking (newReq ((s.tick t).ned k) f (s.tick t).now) (s.tick t).now).dropReq f.fid := by
      rw [ned_of_nic (State.count_nic _ _ _ _), State.modNed_self in1, own]
    obtain ⟨reqs, tally⟩ := State.hearAll_effect
      (s := (((s.tick t).taken k f).modNed k fun n => n.dropReq f.fid).count .port (portId k f.port) tpUnclassified) (k := k) (fid := f.fid)
      ((neds_length_of_core ((State.count_core _ _ _ _).trans (State.modNed_core _ _ _))).symm ▸ in1) (by rw [dropped]; exact unheard)
    refine ⟨?_, ?_⟩
    · refine (Ned.req_of_reqs reqs _).trans ?_
      rw [dropped]
      exact Ned.req_dropReq _ _
    · refine (tally _).trans ?_
      rw [State.count_tally, if_pos rfl]
      show ((s.tick t).taken k f).tally _ + 1 = _
      rw [State.taken_tally, if_neg (by simp [tpUnclassified, tpRx])]
      rfl
  case enters =>
    subst is
    refine admission_next running has new live up plain ?_
    rw [if_neg (by rw [parsed]; exact Bool.false_ne_true)]
    have own := State.taken_ned in_ f
    have fld := State.taken_fld (s.tick t) k f
    have in1 : k.val < ((s.tick t).taken k f).neds.length := neds_length_of_core (State.taken_core (s.tick t) k f) ▸ in_
    rw [State.classifyReq_bound (s := (s.tick t).taken k f) (r := newReq ((s.tick t).ned k) f (s.tick t).now) (i := i) pause
      (by rw [State.taken_ptpPort]; exact plain)
      (by rw [own]; exact bound)]
    have bind : (((s.tick t).taken k f).ned k).binding i = (s.ned k).binding i := by
      rw [own]
      rfl
    have mrq : ((newReq ((s.tick t).ned k) f (s.tick t).now).boundTo i ((s.ned k).binding i)).mrq =
        mrqAt f.bytes (((s.ned k).binding i).mrqAt p) := Req.mrq_boundTo (r := newReq ((s.tick t).ned k) f (s.tick t).now) frame i _
    rw [bind]
    obtain ⟨⟨q, at_, wafer, some_, index, start, epoch, early, paid⟩, heard, core, tally⟩ := State.letIn_enters
      (s := (s.tick t).taken k f) (k := k) (r := (newReq ((s.tick t).ned k) f (s.tick t).now).boundTo i ((s.ned k).binding i))
      (y := newReq ((s.tick t).ned k) f (s.tick t).now) (g := g) (tag := tag) in1
      { found := (foldOf_of_fld fld _).trans found
        runs := runs
        entry := ⟨e, (entryOfHandle_of_fld fld _).trans entry, cls, raised⟩
        noQueue := by
          refine (Ned.penWaits_iff _ _).mpr fun x mem fold pens => ?_
          rw [own] at mem
          rcases Ned.mem_taking mem with old | rfl
          · exact (Ned.penWaits_iff _ _).mp noQueue x old fold pens
          · cases pens
        alone := (batchOpen_of fld (by rw [own]; rfl) _).trans alone
        whole := by
          rw [own, now_of_core (State.taken_core _ _ _)]
          exact whole
        low := low
        high := high
        unheld := fun x mem => by
          rw [own] at mem
          rcases Ned.mem_taking mem with old | rfl
          · exact unheld x old
          · exact fun none_ => absurd (show (0 : Nat) = tag from none_) (by omega)
        unvoided := fun v mem => by
          rw [own] at mem
          exact unvoided v mem }
      (by rw [own]; exact Ned.taking_req new _) rfl rfl frame reach (by rw [mrq]; exact ses)
      (by rw [Req.letOn, mrq, nsp]; exact (Bool.and_true _).trans spec)
    obtain ⟨reqs, same⟩ := State.hearAll_effect
      (s := ((s.tick t).taken k f).letIn k ((newReq ((s.tick t).ned k) f (s.tick t).now).boundTo i ((s.ned k).binding i))) (k := k) (fid := f.fid)
      (neds_length_of_core core ▸ in1) (by rw [heard, own]; exact unheard)
    refine ⟨q, (Ned.req_of_reqs reqs _).trans at_, wafer, some_, index, start.trans (now_of_core (State.taken_core _ _ _)), epoch, early,
      paid, ?_⟩
    refine (same _).trans (tally.trans ?_)
    rw [State.taken_tally, if_neg (by simp [tpEarly, tpRx])]
    rfl

end Sys2Proof.Machine
